-- ==== Sys2Proof/Word.lean ====
section
/-!
DEFINITION. The word types of the block: a BAR2 register word is 32 bits (R5), a memory cell one byte.
-/
namespace Sys2Proof

/-- A byte of a memory. -/
abbrev Byte := BitVec 8

/-- A register word of BAR2 (R5). -/
abbrev Word := BitVec 32

/-- A pipe number, 0 to 3 (chapter "Scope", Hierarchy). -/
abbrev Pipe := Fin 4

/-- An instance of a block that both the pipes and the Hub have: 0 to 3 are the pipes, 4 is the Hub. -/
abbrev Unit5 := Fin 5

end Sys2Proof
end

