-- ==== Sys2Proof/Syntax.lean ====
section
/-!
DEFINITION. The commands of the block: one constructor per row of the opcode table, with the operands this model gives the
row. An operand is what the row's summary names (a pipe, a channel, the word written) or what the outside decides when the
step comes about (a sensor's reading, a packet, the answer of a bus partner).
-/
namespace Sys2Proof

/-! ### Operands with parts -/

/-- What the check bits of a word read say (R109, R477): sound, one bit in error, or more. -/
inductive Flaw where
  | ok | single | multiple
deriving DecidableEq, Repr

/-- A word of a cask: 64 data bits and the sideband bits (R100). -/
structure CaskWord where
  data : Nat
  fin : Bool := false
  tail : Bool := false
  psn : Bool := false
deriving DecidableEq, Repr

/-- How a transaction on the PMBus ended (R76): with the value read (0 for a write), with a NACK, or with a packet error
code that does not match. -/
inductive PmbResult where
  | ok (value : Nat) | nack | pec
deriving DecidableEq, Repr

/-- A request to a pipe's DRAM controller (R471, R473): source number; which stream of source 0x2A or which channel of the Hub's engine it is
for, where the rank depends on that; first byte, length, and for a write its bytes and whether they are poisoned. -/
structure DramReq where
  src : Nat
  sel : Nat := 0
  addr : Nat
  len : Nat
  wr : Bool := false
  data : List Byte := []
  psn : Bool := false
deriving DecidableEq, Repr

/-- How a DRAM access ended at the devices (R478, R479): sound, a single-bit error, or uncorrectable of the class KIND
with a syndrome. -/
inductive DramFlaw where
  | ok | single | multiple (kind synd : Nat)
deriving DecidableEq, Repr

/-! A block as it arrives on a lane is its 66 bits in the order of the wire, bit 0 first; the number `slot` that comes with a training block
is that of the block period it arrives in, counted alike on every lane (R225, R232). -/

/-- A block of the serial links as a lane hands it on (R225, R236): the sync header (1 a data block, 2 a control block, any other value an
errored block) and the payload, byte 0 in bits 7 to 0. -/
structure RxBlock where
  hdr : Nat := 1
  pay : Nat := 0
deriving DecidableEq, Repr

/-- How a CSI-2 long packet reaches the front end: in SLINK mode the packet header of its START row, the rows between it and the END row,
each the blocks of the logical lanes in order, and the link CRC of the END row (R250, R251); in DPHY mode the bytes each data lane
carries in one HS burst (R261). A periodic deskew burst carries no packet. -/
inductive CsiPacket where
  | rows (header : BitVec 32) (rows : List (List RxBlock)) (crc : Word)
  | burst (lanes : List (List Byte))
  | deskew
deriving DecidableEq, Repr

/-- What a burst of the racking engine finds outside (R109, R110, R125): the flaws of the cask words it reads, in order, and whether the
host refuses the transfer. -/
structure BurstRead where
  flaws : List Flaw := []
  refused : Bool := false
deriving DecidableEq, Repr

/-- A block received in training, its sync header in bits 1..0, and the slot of the lane that sent it, as skew counts it (R225, R232). -/
structure RxTrain where
  raw : BitVec 66
  slot : Nat
deriving DecidableEq, Repr

/-- A committed unit's reading (R429): its take queue, and the flaw of the `w`-th of its 32-byte words. -/
structure TakeRead where
  t : Fin 8
  w : Nat := 0
  flaw : DramFlaw := .ok
deriving DecidableEq, Repr

/-- What the parameter pages of a cartridge say (R440): the targets of each of its channels, and its user capacity in LBAs. -/
structure CartPages where
  targets : List Nat
  ucap : Nat
deriving DecidableEq, Repr

/-- Where a Press job ends early: the source bytes it has read, and whether one emitted unit took the output past LEN and
DLEN together (R521 to R523). -/
structure PressRead where
  n : Nat
  both : Bool := false
deriving DecidableEq, Repr

/-- A write of a vector's MSI-X table entry (R564): its mask bit, and its message's address and data where the write gives them. -/
structure MsixWrite where
  v : Fin 1024
  masked : Bool
  msg : Option (Nat × Word) := none
deriving DecidableEq, Repr

/-- The inputs of an encoder after a change, and how long they have stood (R627). -/
structure EncEdge where
  a : Bool
  b : Bool
  ns : Nat
deriving DecidableEq, Repr

/-- What a role loses by the outside (R236): the signal, the clock recovery, the PCS of an ETH role, the PLL of an SDI12 lane. -/
inductive LaneCause where
  | noSig | cdr | pcs | pll
deriving DecidableEq, Repr

/-- A Sync, or the Follow_Up or Delay_Resp that completes an exchange (R496): domain, source port identity, sequence number,
whether a Sync is two-step, the origin or receive timestamp in ns and its fraction in 2⁻¹⁶ ns, and the correctionField in
2⁻¹⁶ ns. -/
structure PtpMsg where
  domain : Nat
  src : Nat
  seq : Nat
  twoStep : Bool := false
  time : Nat := 0
  frac : Nat := 0
  corr : Int := 0
deriving DecidableEq, Repr

/-- An Announce message: domain, source, the grandmaster's data set in the order the best master clock algorithm compares it
(priority1, class, accuracy, variance, priority2, identity, steps removed), and currentUtcOffset where it is valid. -/
structure PtpAnnounce where
  domain : Nat
  src : Nat
  dataset : List Nat := []
  utc : Option Nat := none
deriving DecidableEq, Repr

/-- A tile unit as it reaches the Hub (R373, R385): the fields of its header, the header part of its payload, and the tile part in
the pieces that its codec interleaves (AVC: one per macroblock row; JPEG XS: one per precinct row; otherwise one), with the
precinct rows of a JPEG XS slice; and the input of the assembly path it arrives on. -/
structure TileUnit where
  group : Nat
  seq : Nat
  fmt : Nat
  tidx : Nat
  nt : Nat
  key : Bool := false
  capped : Bool := false
  loc : Bool := false
  rep : Bool := false
  pts : Nat := 0
  qavg : Nat := 0
  obj : Nat := 0
  head : List Byte := []
  parts : List (List Byte) := []
  hsl : Nat := 1
  input : Nat := 0
deriving DecidableEq, Repr

/-- A coded frame as the codec makes it (R373, R385): the bytes before its sequence-level headers, those of its header part after them, and
the rest. -/
structure CodedBytes where
  lead : List Byte := []
  head : List Byte := []
  body : List Byte := []
deriving DecidableEq, Repr

/-- A coded frame: its bytes, the QP chosen for each of its coding blocks before region offsets, in raster order; the mean QP of a codec
that has no blocks with a QP; whether it was cut to its cap. -/
structure CodedFrame extends CodedBytes where
  qps : List Nat := []
  qavg : Nat := 0
  capped : Bool := false
deriving DecidableEq, Repr

/-- What the headers of a coded unit say, as a decoder of its codec reads them (R395): whether its parameters lie within its
format's profile and level, the picture's size, and the bytes its references need. -/
structure DecHeader where
  supported : Bool := true
  width : Nat
  height : Nat
  refs : Nat := 0
deriving DecidableEq, Repr

/-- How a picture decoded: its samples by plane and row, none where a sample lies in a concealed block; the number of concealed
64 × 64 areas; whether a needed reference was missing. -/
structure DecPicture where
  planes : List (List (List (Option Nat))) := []
  areas : Nat := 0
  noRef : Bool := false
deriving DecidableEq, Repr

/-- An entry of a take directory (R451), times as (nanoseconds, seconds). -/
structure DirEnt where
  kind : Nat
  state : Nat
  src : Nat
  group : Nat := 0xFF
  take : Nat
  tileinfo : Nat := 0
  tstart : Nat × Nat := (0, 0)
  tend : Nat × Nat := (0, 0)
  firstSeq : Nat := 0
  lastSeq : Nat := 0
  bytes : Nat := 0
  next : Nat := 0
  exts : List (Nat × Nat) := []
deriving DecidableEq, Repr

/-- A namespace as a cartridge holds it: its place in NSTAB, its size in LBAs, whether it is attached, the SES value plus 1 of a
format in progress, its wrapped key, and its data as bytes by address. -/
structure NsImage where
  place : Fin 16
  size : Nat
  attached : Bool
  fmt : Nat := 0
  wrapped : List Byte := []
  data : List (Nat × Byte) := []
deriving DecidableEq, Repr

/-- What a slice finds on a cartridge (R442): whether a page of block 0 is programmed on channel 0 or 1, the two copies of the identity block as
they are read, the entries of NSTAB with the namespaces, and the directory entries. -/
structure CartImage where
  programmed : Bool := true
  copies : List (List Byte) := []
  nss : List NsImage := []
  dir : List (Nat × DirEnt) := []
deriving DecidableEq, Repr

/-- What the replay of a journal shows (R447): whether a valid checkpoint was found, and the last valid record's JSEQ. -/
structure Replay where
  ckpt : Bool := true
  last : Nat := 0
deriving DecidableEq, Repr

/-- What a follower named in a board take reports at a START (R545): its RESULT, the largest take number on its cartridges, the latest
FS timestamp of the named virtual channels and the period of the slowest, in 2⁻⁸ ns. -/
structure BoardReport where
  dev : Fin 4
  result : Nat := 0
  lastTake : Nat := 0
  fs : Nat := 0
  period : Nat := 0
deriving DecidableEq, Repr

/-- The board's side of a START (R545): in a leader, the followers' reports; in a follower, the take number and T_start the leader
gives. -/
structure BoardStart where
  reports : List BoardReport := []
  order : Option (Nat × Nat) := none
deriving DecidableEq, Repr

/-- What the pins of an audio path bring at a media frame (R589, R592, R593): the path's number 2k + d, for a capture path the contents
of the frame's slots as they were shifted in, most significant bit first (those of the converted frame where an ASRC serves the path), and
the port frames that have passed since the media frame before. -/
structure AudFrame where
  path : Fin 8
  slots : List Nat := []
  ports : Nat := 1
deriving DecidableEq, Repr

/-- An alarm of the security unit (R685): a supply glitch, a package tamper detector, or a key memory record that fails its check. -/
inductive SecuAlarm where
  | glitch | tamper | record (slot : Fin 16)
deriving DecidableEq, Repr

/-- The width a PCIe link trains to (R550). -/
inductive LinkWidth where
  | x1 | x2 | x4 | x8
deriving DecidableEq, Repr

/-- The rate a PCIe link trains to: 2.5, 5, 8, 16 or 32 GT/s (R550). -/
inductive LinkSpeed where
  | g2 | g5 | g8 | g16 | g32
deriving DecidableEq, Repr

/-- The commands. Each constructor names its row of the opcode table and the rule the row stands for. -/
inductive Instr where
  /-- `REGISTER_WRITE` (R10): A host write to a register field that has no row of its own, applied by its access code. -/
  | registerWrite (a : BitVec 28) (w : Word)
  /-- `PAIR_LOW_READ` (R6): A read of the low word of a 64-bit pair latches the high word into the shared snapshot. -/
  | pairLowRead (a : BitVec 28)
  /-- `PAIR_HIGH_READ` (R6): A read of the high word returns and consumes the snapshot, or the live high word if none is held. -/
  | pairHighRead (a : BitVec 28)
  /-- `PAIR_LOW_WRITE` (R7): A write of the low word of a 64-bit RW pair is held without effect and discards the snapshot. -/
  | pairLowWrite (a : BitVec 28) (w : Word)
  /-- `PAIR_HIGH_WRITE` (R7): A write of the high word applies both words of the pair together. -/
  | pairHighWrite (a : BitVec 28) (w : Word)
  /-- `MISALIGNED_ACCESS` (R9): A narrow or unaligned register access: the write is discarded and the read is served as an aligned read. -/
  | misalignedAccess (a : BitVec 28) (n : Fin 8) (w : Option (BitVec 64))
  /-- `BAR2_OVERSIZE_REQUEST` (R552): A BAR2 request longer than 8 bytes completes with Unsupported Request or is discarded, and is logged in AER. -/
  | bar2OversizeRequest (wr : Bool)
  /-- `COLD_RESET` (R14): A power-on, an exit from Vault or Keep, or a TRIP shutdown restores every domain except the always-on domain. -/
  | coldReset (devid : Fin 4) (aonLost : Bool)
  /-- `WARM_RESET_START` (R46): A requested warm reset starts once every pipe reports its take closed and its cartridge unmounted. -/
  | warmResetStart
  /-- `FUNCTION_LEVEL_RESET` (R553): A PCIe FLR restores the FLR and queue fields, deletes the I/O queues and sets HUB_PCIE_STAT.FLR. -/
  | functionLevelReset
  /-- `FLR_END` (R553): The FLR completes, HOST_FLR is raised and the pending bits of routed events are set. -/
  | flrEnd
  /-- `PCIE_LINK_DOWN` (R555): A hot reset or a Data Link Layer loss acts as an FLR and resets configuration space. -/
  | pcieLinkDown (down : Bool)
  /-- `HUB_LOSS` (R42): A lockstep mismatch or uncorrectable Hub SRAM error makes the Hub fail-silent. -/
  | hubLoss
  /-- `HUB_WATCHDOG_EXPIRY` (R42): Expiry of the Hub watchdog causes a Hub loss. -/
  | hubWatchdogExpiry
  /-- `TIME_COPY_STROBE` (R492): Every 125 µs the time unit sends each pipe a new anchor and rate, applying any pending step. -/
  | timeCopyStrobe
  /-- `AUTONOMOUS_RUN_ENTRY` (R43): A pipe that has received no time copy for 1 ms enters autonomous run and holdover. -/
  | autonomousRunEntry (p : Pipe)
  /-- `ARUN_LIMIT_EXPIRY` (R45): PCTL_ARUN_CFG.LIMIT passes in autonomous run and the pipe closes its take at the last whole frame. -/
  | arunLimitExpiry (p : Pipe)
  /-- `TAKE_CLOSE_COMMITTED` (R45): The record buffer and journal of a closed take are written to the cartridge. -/
  | takeCloseCommitted (p : Pipe)
  /-- `YIELD_RESTORE` (R37): After 100 ms without conflict, the yielded rank is restored and an END record is written. -/
  | yieldRestore (u : Unit5) (res : Fin 16) (rank : Fin 6)
  /-- `PIPE_GATE_TRIP` (R51): Over-current on a pipe's power gate removes VCORE, resets the pipe and raises PIPE_GATE_TRIP. -/
  | pipeGateTrip (p : Pipe)
  /-- `STRIPE_LOST_TIME_MESSAGE` (R52): A surviving pipe receives the first uncommitted frame time and writes STRIPE_LOST records into every stream of the take. -/
  | stripeLostTimeMessage (p : Pipe)
  /-- `TRIPPED_PIPE_REJOIN` (R54): A restored pipe rejoins an open striped take at the first seam after mount and lane training. -/
  | trippedPipeRejoin (p : Pipe)
  /-- `PACE_SENSOR_READING` (R67): Each pace sensor takes a reading every 1 µs and updates PACE_PS and the window peak. -/
  | paceSensorReading (p : Pipe) (k : Fin 24) (ps : BitVec 12)
  /-- `PACE_WINDOW_END` (R72): At each 20 µs window end a pipe computes every active claim's margin. -/
  | paceWindowEnd (p : Pipe)
  /-- `GOV_WINDOW_END` (R74): In AUTO, the governor evaluates the smallest margin and issues at most one voltage step. -/
  | govWindowEnd
  /-- `GOV_MODE_WRITE` (R73): A write of HUB_GOV_CTL.MODE changes the mode and runs the PMBus entry sequence when required. -/
  | govModeWrite (mode : Fin 4) (vman : BitVec 10)
  /-- `PMBUS_TRANSACTION_DONE` (R76): A PMBus transaction completes, succeeding or failing by NACK, PEC, verification or fault bits. -/
  | pmbusTransactionDone (r : PmbResult)
  /-- `PMBUS_RETRY_START` (R76): A repeat of a failed transaction starts 100 µs after the previous attempt began. -/
  | pmbusRetryStart
  /-- `PMBUS_BUS_TIMEOUT` (R76): The bus held low for 35 ms fails the transaction. -/
  | pmbusBusTimeout
  /-- `GOV_SETTLE_END` (R75): The settling time after a VOUT_COMMAND ends and verification reads start. -/
  | govSettleEnd
  /-- `PMB_ALERT` (R76): PMB_ALERT_N low makes the governor read STATUS_WORD in AUTO, MANUAL or HOLD. -/
  | pmbAlert
  /-- `REC_STALL` (R88): A record-path stage makes no handshake for STALL_T, REC_STALL is raised and the split stops feeding the record branch. -/
  | recStall (p : Pipe) (stage : Fin 4) (inst : BitVec 16)
  /-- `REC_FLUSH` (R88): At the next frame seam the stalled record-path stages are flushed and reinitialised. -/
  | recFlush (p : Pipe)
  /-- `REC_RESTART` (R88): The record path resumes, DAMAGED gap records are written and REC_RESTART is raised. -/
  | recRestart (p : Pipe)
  /-- `PCTL_PWRUP` (R91): A write of PCTL_CTL.PWRUP moves a pipe from OFF to RESET. -/
  | pctlPwrup (p : Pipe)
  /-- `PCTL_PRST` (R91): A write of PCTL_CTL.PRST requests a pipe reset, closing an open take first in RUN. -/
  | pctlPrst (p : Pipe)
  /-- `PIPE_RESET` (R91): The pipe reset takes effect, restoring pipe fields and parking DRAM. -/
  | pipeReset (p : Pipe)
  /-- `CASK_WRITE` (R97): A producer writes a word into a cask using one credit. -/
  | caskWrite (u : Unit5) (k : Fin 128) (ep : Nat) (w : CaskWord)
  /-- `CASK_READ` (R98): A consumer reads a word, with SECDED correction or poison delivery. -/
  | caskRead (u : Unit5) (k : Fin 128) (ep : Nat) (flaw : Flaw)
  /-- `CASK_CREDIT_RETURN` (R98): A credit returns to the producer after a consumer read. -/
  | caskCreditReturn (u : Unit5) (k : Fin 128)
  /-- `CASK_TAIL_TIMEOUT` (R103): The tail timer of an open cask fires and TAIL is set on the newest word. -/
  | caskTailTimeout (u : Unit5) (k : Fin 128)
  /-- `CASK_FLUSH` (R105): A write of CASK_CTL.FLUSH empties the cask and queues one FLUSHED marker. -/
  | caskFlush (u : Unit5) (k : Fin 128)
  /-- `CASK_SWITCH` (R114): After the consumer reads the last word before the seam, the cask takes its new configuration. -/
  | caskSwitch (u : Unit5) (k : Fin 128)
  /-- `RACK_TAIL_WRITE` (R121): A write of RACK_TAIL posts descriptors to a racking channel. -/
  | rackTailWrite (u : Unit5) (c : Fin 16) (tail : BitVec 16)
  /-- `RACK_DESC_START` (R124): A channel fetches and checks its next descriptor and starts moving data. -/
  | rackDescStart (u : Unit5) (c : Fin 16)
  /-- `RACK_BURST_GRANT` (R117): At a burst slot the engine serves the waiting channel of highest rank. -/
  | rackBurstGrant (u : Unit5) (x : BurstRead)
  /-- `RACK_DESC_WRITEBACK` (R127): A descriptor ends and is written back with its status and DONE_LEN. -/
  | rackDescWriteback (u : Unit5) (c : Fin 16)
  /-- `RACK_ABORT` (R129): A write of RACK_CH_CTL.ABORT stops the running descriptor and halts the channel. -/
  | rackAbort (u : Unit5) (c : Fin 16)
  /-- `RACK_RESUME` (R130): A write of RACK_CH_CTL.RESUME restarts a halted channel after HIDX. -/
  | rackResume (u : Unit5) (c : Fin 16)
  /-- `RACK_CH_DISABLE` (R131): Clearing RACK_CH_CFG.EN acts as ABORT and disables the channel. -/
  | rackChDisable (u : Unit5) (c : Fin 16)
  /-- `MICROOP_START` (R140): An element's micro-op starts once its inputs, output space and predecessor are ready. -/
  | microopStart (p : Pipe) (e : Fin 1088) (flaw : Flaw)
  /-- `MICROOP_COMPLETE` (R140): A micro-op completes: it consumes tokens, writes DST and outputs, and updates the flag latch. -/
  | microopComplete (p : Pipe) (e : Fin 1088) (flaw : Flaw)
  /-- `REGION_DRAIN` (R168): The last input of a staged region delivers EOF and the region enters DRAIN. -/
  | regionDrain (p : Pipe) (r : Fin 16)
  /-- `REGION_SWITCH` (R168): A quiescent region activates its shadow configuration and releases its inputs. -/
  | regionSwitch (p : Pipe) (r : Fin 16)
  /-- `REGION_TIMEOUT` (R169): A region emits no EOF for TIMEOUT ms and is restarted. -/
  | regionTimeout (p : Pipe) (r : Fin 16)
  /-- `REGION_RESTART_EXIT` (R169): Every input has passed an EOF and the region leaves RESTART for RUN. -/
  | regionRestartExit (p : Pipe) (r : Fin 16)
  /-- `REGION_FAULT` (R170): An uncorrectable configuration error puts the region in FAULT and raises TRL_TILE_FAULT. -/
  | regionFault (p : Pipe) (kind : Fin 6) (unit : Fin 68) (elem : Fin 32)
  /-- `TRL_LM_READ` (R161): A write of TRL_LM_ADDR starts a host read of a line-memory or line-store word. -/
  | trlLmRead (p : Pipe) (w : Word)
  /-- `TRL_LM_READ_DONE` (R161): The word read appears in TRL_LM_DATA and TRL_LM_STAT. -/
  | trlLmReadDone (p : Pipe) (flaw : Flaw)
  /-- `TRL_MON_WINDOW_END` (R171): At the end of each monitor window TRL_MON_RES is updated. -/
  | trlMonWindowEnd (p : Pipe) (busy starve block : Nat)
  /-- `RPR_FAIL_MARK` (R172): A write to TRL_RPR_FAIL marks a physical tile slot as failed. -/
  | rprFailMark (p : Pipe) (c : Fin 4) (w : Word)
  /-- `RPR_CLR` (R175): A write to TRL_RPR_CLR removes a failed mark with deferral. -/
  | rprClr (p : Pipe) (c : Fin 4) (w : Word)
  /-- `CUVL_STAGE` (R197): A write of CUVL_CTL.STAGE starts a loader job in VERIFY. -/
  | cuvlStage
  /-- `CUVL_VERIFY_DONE` (R198): Pass 1 ends after checking the container, the section table and the signature. -/
  | cuvlVerifyDone (bad : Bool)
  /-- `CUVL_PASS2_DONE` (R199): Pass 2 ends with shadow copies written, and the loader enters STAGED or FAILED. -/
  | cuvlPass2Done (bad : Bool)
  /-- `CUVL_GO` (R205): A write of CUVL_GO checks every section and commits them or fails the job. -/
  | cuvlGo
  /-- `CUVL_WHOLE_COMMIT` (R206): After any take close and unmount, a whole section resets the pipe into LOADING. -/
  | cuvlWholeCommit (p : Pipe)
  /-- `CUVL_WHOLE_LOAD_DONE` (R206): The shadow copies become active, the pipe enters RUN and CUVL_GEN is set. -/
  | cuvlWholeLoadDone (p : Pipe)
  /-- `CONTEXT_SWITCH` (R208): A context owned by a staged region switches at its own frame seam. -/
  | contextSwitch (p : Pipe) (cls x : Fin 128)
  /-- `REC_CONTEXT_SWITCH` (R209): A partial REC context switches at the next frame seam at the split. -/
  | recContextSwitch (p : Pipe)
  /-- `CUVL_SWITCH_TIMEOUT` (R211): SWTO passes after GO and the loader forces the remaining switches. -/
  | cuvlSwitchTimeout
  /-- `CUVL_ABORT` (R212): A write of CUVL_CTL.ABORT ends the job and discards its shadow writes. -/
  | cuvlAbort
  /-- `REFCLK_MONITOR_CHECK` (R221): Every 100 µs each reference input is checked and faults end READY for its roles. -/
  | refclkMonitorCheck (u : Unit5) (n : Fin 3) (good : Bool)
  /-- `LANE_ATTEMPT_START` (R238): A training attempt starts at a multiple of INT, ending any attempt not yet ALIGNED. -/
  | laneAttemptStart (u : Unit5) (r : Fin 7)
  /-- `LANE_SIGNAL_DETECT` (R229): Signal detect has been present for 1 µs and the lane passes SIGDET. -/
  | laneSignalDetect (u : Unit5) (k : Fin 12)
  /-- `LANE_CDR_LOCK` (R235): Clock recovery locks on a lane. -/
  | laneCdrLock (u : Unit5) (k : Fin 12)
  /-- `LANE_CTLE_CHOSEN` (R243): The CTLE code is chosen, adaptively or from MAN, and the lane passes EQ. -/
  | laneCtleChosen (u : Unit5) (k : Fin 12) (code : Fin 32)
  /-- `LANE_BLOCK_LOCK` (R229): 64 consecutive valid sync headers give block lock. -/
  | laneBlockLock (u : Unit5) (k : Fin 12)
  /-- `TRAINING_BLOCK_RECEIVED` (R230): A training block settles polarity, identity and deskew, or, in READY, signals a far-end restart. -/
  | trainingBlockReceived (u : Unit5) (k : Fin 12) (b : RxTrain)
  /-- `LANE_STAGE_TIMEOUT` (R230): A stage fails when its bound passes, for example POL 20 µs after block lock. -/
  | laneStageTimeout (u : Unit5) (k : Fin 12)
  /-- `DATA_BLOCK_RECEIVED` (R236): A non-training block is received and its sync header is judged. -/
  | dataBlockReceived (u : Unit5) (k : Fin 12) (b : BitVec 66)
  /-- `LANE_LOSS` (R236): A role in READY is lost, enters RETRY and raises LANE_DOWN. -/
  | laneLoss (u : Unit5) (k : Fin 12) (c : LaneCause)
  /-- `LANE_RETRY_EXPIRY` (R239): The retry timer expires, the role enters DOWN and LANE_GIVEUP is raised. -/
  | laneRetryExpiry (u : Unit5) (r : Fin 7)
  /-- `LANE_RETRAIN` (R241): A write of LANE_CTL.RETRAIN retrains a lane's whole role. -/
  | laneRetrain (u : Unit5) (mask : BitVec 12)
  /-- `LANE_CTLE_TRACK` (R243): In READY the CTLE code tracks, or moves toward a new target, one step per interval. -/
  | laneCtleTrack (u : Unit5) (k : Fin 12) (dir : Fin 3)
  /-- `LANE_TXFIR_WRITE` (R244): A valid FIR write takes effect within 1 µs; an invalid one is discarded. -/
  | laneTxfirWrite (u : Unit5) (k : Fin 12) (w : Word)
  /-- `LANE_PRBS_CTL_WRITE` (R246): A write of LANE_PRBS_CTL takes a lane for test, or is refused during a take. -/
  | lanePrbsCtlWrite (u : Unit5) (k : Fin 12) (w : Word)
  /-- `PRBS_LOCK_CHANGE` (R247): The PRBS checker locks or loses lock and sets SLOSS. -/
  | prbsLockChange (u : Unit5) (k : Fin 12) (n sent flips : Nat)
  /-- `LANE_SNAP_WRITE` (R248): A write to LANE_SNAP copies the PRBS counters of the named lanes at one instant. -/
  | laneSnapWrite (u : Unit5) (mask : BitVec 12)
  /-- `SDI_PLL_LOCK` (R234): An SDI12 lane PLL locks and the role enters READY. -/
  | sdiPllLock (p : Pipe) (k : Fin 6)
  /-- `ETH_PCS_ALIGNED` (R234): The Ethernet PCS reports the link aligned and the role enters READY. -/
  | ethPcsAligned (p : Pipe) (k : Fin 6)
  /-- `DPHY_SOT_TIMEOUT` (R261): No SoT arrives for LOSS_T ms and the DPHY role is lost. -/
  | dphySotTimeout (p : Pipe)
  /-- `CSI2_LONG_PACKET` (R256): A long packet is received, checked and copied to the record and Trellis branches. -/
  | csi2LongPacket (p : Pipe) (k : CsiPacket)
  /-- `CSI2_FRAME_START` (R260): An FS short packet opens a frame and is timestamped. -/
  | csi2FrameStart (p : Pipe) (di : Byte) (wc : BitVec 16) (ecc : Byte) (board : List (Fin 4 × Nat × Nat × Nat))
  /-- `CSI2_FRAME_END` (R256): An FE short packet closes the frame and pads any missing lines. -/
  | csi2FrameEnd (p : Pipe) (h : BitVec 24) (ecc : Byte)
  /-- `SFE_IDENTITY_READ_DONE` (R266): The identity read completes and is judged same or not, with LINK_GO written or withheld. -/
  | sfeIdentityReadDone (p : Pipe) (tries : List (List Byte))
  /-- `SFE_I3C_CMD_GO` (R267): A write of SFE_I3C_CMD.GO starts or arms a host I3C command. -/
  | sfeI3cCmdGo (p : Pipe) (w : Word)
  /-- `SFE_I3C_DONE` (R275): A host I3C command ends with its RESULT. -/
  | sfeI3cDone (p : Pipe) (result : Fin 5) (data : List Byte)
  /-- `SFE_IBI` (R267): An in-band interrupt raises SFE_IBI with its data byte. -/
  | sfeIbi (p : Pipe) (mdb : Option Byte)
  /-- `VRS_PIXEL_PAIR` (R284): A Veraison unit consumes a pixel pair and emits an output pair. -/
  | vrsPixelPair (p : Pipe) (u : Fin 8) (flaw : Flaw)
  /-- `VRS_TPORT_WRITE` (R297): A write of VRS_TPORT stores a word into a table of the inactive bank. -/
  | vrsTportWrite (p : Pipe) (u : Fin 8) (t : Fin 5) (w : Word)
  /-- `VRS_UPLOAD_ITEM` (R296): An item through the upload endpoint selects a table and stores its words. -/
  | vrsUploadItem (p : Pipe) (u : Fin 8) (k : Fin 128)
  /-- `VRS_BANK_RST` (R297): VRS_BANK_CTL.RST returns a table's write pointer to 0. -/
  | vrsBankRst (p : Pipe) (u : Fin 8) (mask : BitVec 5)
  /-- `VRS_DISARM` (R302): VRS_BANK_CTL.DISARM empties the armed set. -/
  | vrsDisarm (p : Pipe) (u : Fin 8)
  /-- `VRS_ARM` (R299): VRS_BANK_CTL.ARM adds tables to the armed set. -/
  | vrsArm (p : Pipe) (u : Fin 8) (mask : BitVec 5)
  /-- `VRS_FORCE` (R302): VRS_BANK_CTL.FORCE swaps the armed set at once if the unit stands at a seam. -/
  | vrsForce (p : Pipe) (u : Fin 8)
  /-- `VRS_TABLE_READ` (R308): A write of VRS_TRD_ADDR starts a read of one table word. -/
  | vrsTableRead (p : Pipe) (u : Fin 8) (w : Word)
  /-- `VRS_TABLE_READ_DONE` (R308): The table word read appears in VRS_TRD_DATA. -/
  | vrsTableReadDone (p : Pipe) (u : Fin 8) (flaw : Flaw)
  /-- `STAT_INPUT_WORD` (R313): A statistics context consumes a cask word and accumulates zones and histograms. -/
  | statInputWord (p : Pipe) (x : Fin 4) (k : Fin 128) (flaw : Flaw)
  /-- `STAT_HOLD` (R318): STAT_RD.HOLD makes LATEST the HELD bank. -/
  | statHold (p : Pipe) (x : Fin 4)
  /-- `STAT_RELEASE` (R318): STAT_RD.RELEASE frees the HELD bank. -/
  | statRelease (p : Pipe) (x : Fin 4)
  /-- `STAT_RESULT_ARRIVAL` (R320): A pipe result reaches the Hub, opening, joining or closing a merge. -/
  | statResultArrival (p : Pipe) (x : Fin 4)
  /-- `STAT_MERGE_TIMEOUT` (R320): MWIN passes and the open merge closes with pipes missing. -/
  | statMergeTimeout (g : Fin 4)
  /-- `PXR_ROW_ENCODE` (R351): The encoder codes a row, regular or REPEAT, and adjusts δ in BOUNDED mode. -/
  | pxrRowEncode (p : Pipe) (v : Fin 16)
  /-- `PXR_DEC_GO` (R358): A write of PXR_DEC_CTL.GO checks and starts a decoder job. -/
  | pxrDecGo (p : Pipe) (j : Fin 4)
  /-- `PXR_DEC_ABORT` (R363): PXR_DEC_CTL.ABORT stops the job at the next row boundary. -/
  | pxrDecAbort (p : Pipe) (j : Fin 4)
  /-- `PXR_DEC_DONE` (R361): A PXR decoder job ends with its status and PXR_DEC_DONE is raised. -/
  | pxrDecDone (p : Pipe) (j : Fin 4) (rows : Nat)
  /-- `BLK_FRAME_INPUT` (R374): A selected input frame is written into the frame store, or dropped when the store is full. -/
  | blkFrameInput (p : Pipe) (c : Fin 16) (k : Fin 4) (t : Nat) (psn : Bool)
  /-- `BLK_FRAME_CODE_START` (R371): A context starts coding a stream's frame under the settings in force. -/
  | blkFrameCodeStart (p : Pipe) (c : Fin 16) (k : Fin 4) (n : Fin 4) (b : Bool)
  /-- `BLK_FRAME_CODED` (R378): A frame's coding ends, the rate model is updated and the unit is emitted. -/
  | blkFrameCoded (p : Pipe) (c : Fin 16) (k : Fin 4) (bytes : CodedBytes) (qps : List Nat) (qavg : Nat) (capped : Bool)
  /-- `BLK_CTX_UPD_GO` (R381): BLK_CTX_UPD.GO marks the shadow copies pending. -/
  | blkCtxUpdGo (p : Pipe) (c : Fin 16) (at_ : Bool) (aseq : BitVec 16)
  /-- `BLK_CTX_UPD_CANCEL` (R381): BLK_CTX_UPD.CANCEL discards the pending copies. -/
  | blkCtxUpdCancel (p : Pipe) (c : Fin 16)
  /-- `BLK_SCTL_KEY` (R390): BLK_SCTL.KEY requests a key frame, through the coordinator for tiled streams. -/
  | blkSctlKey (p : Pipe) (c : Fin 16) (k : Fin 4)
  /-- `BLK_SCTL_REFRESH` (R390): BLK_SCTL.REFRESH codes the next tile all-intra. -/
  | blkSctlRefresh (p : Pipe) (c : Fin 16) (k : Fin 4)
  /-- `ASM_GROUP_ENABLE` (R384): Setting HUB_ASM_CFG.EN starts a group and sends T_start to each pipe. -/
  | asmGroupEnable (g : Fin 64) (w : Word)
  /-- `ASM_TILE_UNIT` (R386): A tile unit arrives at the Hub and may close its frame's assembly. -/
  | asmTileUnit (p : Pipe) (u : TileUnit)
  /-- `ASM_WINDOW_EXPIRY` (R386): AWIN passes and the frame's assembly closes with missing tiles. -/
  | asmWindowExpiry (g : Fin 64) (seq : Nat)
  /-- `RC_COORDINATOR_MESSAGE` (R388): A pipe receives the coordinator's budget, cap, base QP and flags for frame f + 2. -/
  | rcCoordinatorMessage (p : Pipe) (g : Fin 64)
  /-- `BLK_DEC_GO` (R395): BLK_DEC_CTL.GO checks and starts a decoder job. -/
  | blkDecGo (p : Pipe) (j : Fin 4) (h : DecHeader)
  /-- `BLK_DEC_ABORT` (R397): BLK_DEC_CTL.ABORT stops the decoder job. -/
  | blkDecAbort (p : Pipe) (j : Fin 4)
  /-- `BLK_DEC_RESET` (R394): BLK_DEC_CTL.RESET clears the session's headers and references. -/
  | blkDecReset (p : Pipe) (j : Fin 4)
  /-- `BLK_DEC_BUDGET_EXPIRY` (R397): The work budget runs out and the rest of the picture is concealed. -/
  | blkDecBudgetExpiry (p : Pipe) (j : Fin 4) (pic : DecPicture)
  /-- `BLK_DEC_DONE` (R397): A decoder job ends with its status and BLK_DEC_DONE is raised. -/
  | blkDecDone (p : Pipe) (j : Fin 4) (pic : DecPicture)
  /-- `SQ_DOORBELL` (R401): A submission queue doorbell write posts commands. -/
  | sqDoorbell (q : Fin 513) (v : BitVec 16)
  /-- `CQ_DOORBELL` (R401): A completion queue doorbell write releases entries. -/
  | cqDoorbell (q : Fin 513) (v : BitVec 16)
  /-- `NVME_COMMAND_FETCH` (R403): The Hub fetches a command and passes it to the slice that holds its namespace. -/
  | nvmeCommandFetch (q : Fin 513) (late : Bool)
  /-- `DELETE_IO_SUBMISSION_QUEUE` (R419): Delete I/O Submission Queue resets queue q. -/
  | deleteIoSubmissionQueue (cid : BitVec 16)
  /-- `CREATE_IO_SUBMISSION_QUEUE` (R400): Create I/O Submission Queue is checked and creates a tenant queue. -/
  | createIoSubmissionQueue (cid : BitVec 16)
  /-- `DELETE_IO_COMPLETION_QUEUE` (R404): Delete I/O Completion Queue, refused while its submission queue exists. -/
  | deleteIoCompletionQueue (cid : BitVec 16)
  /-- `CREATE_IO_COMPLETION_QUEUE` (R402): Create I/O Completion Queue, with its IV checked against the event's vector. -/
  | createIoCompletionQueue (cid : BitVec 16)
  /-- `GET_LOG_PAGE` (R404): Get Log Page returns a supported log. -/
  | getLogPage (cid : BitVec 16)
  /-- `IDENTIFY` (R406): Identify returns controller or namespace data. -/
  | identify (cid : BitVec 16)
  /-- `ABORT` (R418): Abort catches a named command where possible. -/
  | abort (cid : BitVec 16)
  /-- `SET_FEATURES` (R405): Set Features changes a supported feature. -/
  | setFeatures (cid : BitVec 16)
  /-- `SET_FEATURES_TENANT_SHARE` (R405): Set Features FID 0xC0 writes CEL_SHARE of a queue. -/
  | setFeaturesTenantShare (cid : BitVec 16)
  /-- `GET_FEATURES` (R405): Get Features returns a feature value. -/
  | getFeatures (cid : BitVec 16)
  /-- `ASYNCHRONOUS_EVENT_REQUEST` (R404): An Asynchronous Event Request is held outstanding until an event. -/
  | asynchronousEventRequest (cid : BitVec 16)
  /-- `NAMESPACE_CREATE` (R458): Namespace Management create places a namespace on a slice with a new key. -/
  | namespaceCreate (cid : BitVec 16) (good : Bool)
  /-- `NAMESPACE_DELETE` (R458): Namespace Management delete destroys the namespace's key and frees its blocks. -/
  | namespaceDelete (cid : BitVec 16)
  /-- `NAMESPACE_ATTACHMENT` (R458): Namespace Attachment attaches or detaches controller 0x0001. -/
  | namespaceAttachment (cid : BitVec 16) (good : Bool)
  /-- `FIRMWARE_IMAGE_DOWNLOAD` (R651): Firmware Image Download writes data into the Hub SRAM staging area. -/
  | firmwareImageDownload (cid : BitVec 16)
  /-- `FW_COMMIT_WRITE` (R651): Firmware Commit action 0b000 writes the image to the slot. -/
  | fwCommitWrite (cid : BitVec 16) (bad : Bool)
  /-- `FW_COMMIT_WRITE_SELECT` (R651): Firmware Commit action 0b001 writes the slot and selects it for the next reset. -/
  | fwCommitWriteSelect (cid : BitVec 16) (bad : Bool)
  /-- `FW_COMMIT_SELECT` (R651): Firmware Commit action 0b010 selects the slot for the next reset. -/
  | fwCommitSelect (cid : BitVec 16)
  /-- `FW_COMMIT_ACTIVATE` (R652): Firmware Commit action 0b011 writes the image and activates it at once. -/
  | fwCommitActivate (cid : BitVec 16) (bad : Bool)
  /-- `FORMAT_NVM_DEALLOCATE` (R459): Format NVM with SES 0 deallocates every LBA. -/
  | formatNvmDeallocate (cid : BitVec 16)
  /-- `FORMAT_NVM_ERASE` (R459): Format NVM with SES 1 erases every block of the namespace. -/
  | formatNvmErase (cid : BitVec 16)
  /-- `FORMAT_NVM_CRYPTO_ERASE` (R459): Format NVM with SES 2 draws a new key and deallocates. -/
  | formatNvmCryptoErase (cid : BitVec 16)
  /-- `SANITIZE_BLOCK_ERASE` (R460): Sanitize SANACT 0b010 erases every block as rank-5 work. -/
  | sanitizeBlockErase (cid : BitVec 16)
  /-- `SANITIZE_OVERWRITE` (R460): Sanitize SANACT 0b011 overwrites with the pattern. -/
  | sanitizeOverwrite (cid : BitVec 16)
  /-- `SANITIZE_CRYPTO_ERASE` (R460): Sanitize SANACT 0b100 replaces every namespace key. -/
  | sanitizeCryptoErase (cid : BitVec 16)
  /-- `SANITIZE_DONE` (R461): A sanitise completes on the device or resumes at a mount and CEL_SANITIZE is raised. -/
  | sanitizeDone (p : Pipe)
  /-- `FORMAT_DONE` (R459): A running format completes and its namespaces leave Format In Progress. -/
  | formatDone (nsid : Fin 65)
  /-- `FLUSH` (R414): Flush completes when every earlier completed write is committed. -/
  | flush (q : Fin 513) (cid : BitVec 16)
  /-- `WRITE` (R412): Write takes range locks and is divided into atomic pieces of 128 LBAs. -/
  | write (q : Fin 513) (cid : BitVec 16)
  /-- `READ` (R410): Read returns data once its range lock is granted. -/
  | read (q : Fin 513) (cid : BitVec 16)
  /-- `WRITE_ZEROES` (R404): Write Zeroes zeroes up to 65,536 LBAs atomically per piece. -/
  | writeZeroes (q : Fin 513) (cid : BitVec 16)
  /-- `DATASET_MANAGEMENT` (R404): Dataset Management deallocates up to 256 ranges. -/
  | datasetManagement (q : Fin 513) (cid : BitVec 16)
  /-- `VERIFY` (R404): Verify checks up to 65,536 LBAs. -/
  | verify (q : Fin 513) (cid : BitVec 16)
  /-- `RANGE_LOCK_GRANT` (R409): An entry is granted once conflicting earlier entries are released, and its command starts. -/
  | rangeLockGrant (q : Fin 513) (cid : BitVec 16) (bad : Bool)
  /-- `PIECE_COMMIT` (R413): A piece is committed by a journal record and its entry or completion follows. -/
  | pieceCommit (p : Pipe)
  /-- `CONTROLLER_ENABLE` (R399): Setting CC.EN brings the controller ready within the time TO reports. -/
  | controllerEnable (cc aqa : Word) (asq acq : BitVec 64)
  /-- `CONTROLLER_DISABLE` (R420): Clearing CC.EN deletes every I/O queue. -/
  | controllerDisable
  /-- `TENANT_WINDOW_END` (R424): At each 10 ms window end tenant shortfall is measured and CEL_TSTAT updated. -/
  | tenantWindowEnd (a : Unit5) (waits : List (Fin 512)) (taken : Bool)
  /-- `CEL_SHARE_WRITE` (R425): A write of CEL_SHARE updates a share and rescales on oversubscription. -/
  | celShareWrite (q : Fin 512) (w : Word)
  /-- `RB_LEVEL_CROSSING` (R426): Record buffer occupancy crosses a level and the slice holds the lower ranks. -/
  | rbLevelCrossing (p : Pipe) (level : Fin 3)
  /-- `RB_LEVEL_RESTORE` (R426): 100 ms after occupancy falls below a level, that level's action ends. -/
  | rbLevelRestore (p : Pipe) (level : Fin 3)
  /-- `TAKE_START` (R428): CEL_TAKE_CMD OP START checks pipes and queues and allocates a take number and T_start. -/
  | takeStart (pipes : BitVec 4) (vcs : BitVec 16) (board : BoardStart)
  /-- `TAKE_STOP` (R428): CEL_TAKE_CMD OP STOP closes every queue of the take. -/
  | takeStop (order : Option (Word × Nat))
  /-- `TAKE_START_TIMEOUT` (R428): A queue not open 1 s after T_start fails the START and closes the opened queues. -/
  | takeStartTimeout
  /-- `TAKE_CLOSED` (R428): Every stream of an ended take is on its cartridge and CEL_TAKE_CLOSED is raised. -/
  | takeClosed (num : Word)
  /-- `TAKE_UNIT_COMMIT` (R429): A take unit and its journal record reach flash and the commit is reported to the Hub. -/
  | takeUnitCommit (p : Pipe) (x : TakeRead)
  /-- `TAKE_QUEUE_RESET` (R430): CELP_TQ_CTL.RESET flushes the queue and ends its stream. -/
  | takeQueueReset (p : Pipe) (t : Fin 8)
  /-- `STREAM_OPEN` (R431): CELP_STRM_CMD OP OPEN checks the range and issues a handle. -/
  | streamOpen (p : Pipe)
  /-- `STREAM_CLOSE` (R432): CELP_STRM_CMD OP CLOSE pads and commits the stream's last unit. -/
  | streamClose (p : Pipe) (handle : BitVec 16)
  /-- `POWER_STATE_TRANSITION_DONE` (R434): Entry to or exit from a non-operational power state completes. -/
  | powerStateTransitionDone
  /-- `CART_DETECT_LOW` (R439): CRTn_DET_N falls and the port enters SETTLE. -/
  | cartDetectLow (p : Pipe)
  /-- `CART_SETTLED` (R440): 50 ms of low level pass and the cartridge supply is enabled. -/
  | cartSettled (p : Pipe)
  /-- `CART_INIT_DONE` (R440): ONFI reset and parameter pages are read on every target. -/
  | cartInitDone (p : Pipe) (g : CartPages)
  /-- `CART_IDENTITY_READ` (R442): The identity block is read and judged blank, faulty, same or new. -/
  | cartIdentityRead (p : Pipe) (image : CartImage)
  /-- `CART_REPLAY_DONE` (R447): Journal replay ends and the port enters MOUNTED, LOCKED or FAULT. -/
  | cartReplayDone (p : Pipe) (r : Replay)
  /-- `CART_REMOVAL` (R441): CRTn_DET_N high for 5 µs is a removal, and a mounted port goes ABSENT. -/
  | cartRemoval (p : Pipe)
  /-- `CART_RETRY_EXPIRY` (R444): The retry timer expires in ABSENT and the outcome is TIMER. -/
  | cartRetryExpiry (p : Pipe)
  /-- `CART_EJECT` (R449): CELP_CART_CMD.EJECT makes a clean unmount. -/
  | cartEject (p : Pipe)
  /-- `JOURNAL_CHECKPOINT` (R448): After 128 MiB of journal or 10 s the slice writes a checkpoint. -/
  | journalCheckpoint (p : Pipe)
  /-- `REBUILD_REGION` (R450): A region of the mapping is rebuilt, raising REBUILD_DONE at the end. -/
  | rebuildRegion (p : Pipe) (place : Fin 16) (region : Nat)
  /-- `FLASH_PROGRAM_FAIL` (R446): A program failure retires the block, or with no spare sets READONLY. -/
  | flashProgramFail (p : Pipe) (spare : Bool)
  /-- `DRC_INIT_GO` (R465): A write of DRC_INIT.GO starts training. -/
  | drcInitGo (p : Pipe)
  /-- `DRC_TRAIN_DONE` (R465): Training of the rates ends, passing to FILL or failing to FAULT. -/
  | drcTrainDone (p : Pipe) (failed : BitVec 6)
  /-- `DRC_FILL_DONE` (R465): Zero fill ends and the memory is READY. -/
  | drcFillDone (p : Pipe)
  /-- `DRAM_REQUEST` (R473): A source request enters a channel queue, abandoning or exiting idle self-refresh. -/
  | dramRequest (p : Pipe) (r : DramReq)
  /-- `DRAM_ACCESS_DONE` (R478): An access completes with correction, or with poison and a log entry; `flaws` is what is found at its
32-byte words, by word number. -/
  | dramAccessDone (p : Pipe) (ch : Fin 6) (flaws : List (Nat × DramFlaw))
  /-- `DRC_HOT_SAMPLE` (R475): Every 1 µs the controller samples each channel's waiting requests. -/
  | drcHotSample (p : Pipe)
  /-- `DRC_HOT_WINDOW_END` (R475): At each 100 µs window end, hotness is judged and a hot hold may start. -/
  | drcHotWindowEnd (p : Pipe)
  /-- `DRC_HOT_HOLD_END` (R476): A hot hold ends after 100 ms without a hot window. -/
  | drcHotHoldEnd (p : Pipe)
  /-- `DRC_SCRUB_READ` (R483): Scrub reads a word and writes back a corrected one. -/
  | drcScrubRead (p : Pipe) (word : Nat) (flaw : DramFlaw)
  /-- `DRC_SR_ENTRY` (R484): A channel idle for IDLE µs issues self-refresh entry. -/
  | drcSrEntry (p : Pipe) (ch : Fin 6)
  /-- `DRC_FCHG_GO` (R485): DRC_FCHG.GO starts a rate change or refuses it. -/
  | drcFchgGo (p : Pipe) (rate : Fin 4)
  /-- `DRC_FCHG_SETPOINTS_DONE` (R485): The inactive frequency set points are written. -/
  | drcFchgSetpointsDone (p : Pipe)
  /-- `DRC_FCHG_SR_ENTRY` (R486): Once the queues are empty and no other pipe is in its blackout, every channel enters self-refresh. -/
  | drcFchgSrEntry (p : Pipe)
  /-- `DRC_FCHG_HOLD_TIMEOUT` (R485): 100 µs without an empty instant: requests are held at the queue inputs. -/
  | drcFchgHoldTimeout (p : Pipe)
  /-- `DRC_FCHG_PLL_LOCKED` (R485): PLLs lock, the set point switches, channels exit and DRC_FREQ is raised. -/
  | drcFchgPllLocked (p : Pipe)
  /-- `REFCLK_TIME_FAULT` (R495): REFCLK_TIME enters fault, the PLLs hold and TIME_REFCLK is raised. -/
  | refclkTimeFault
  /-- `REFCLK_TIME_RECOVER` (R495): The fault clears after 1 ms of good edges. -/
  | refclkTimeRecover
  /-- `PTP_SYNC` (R497): A Sync gives an offset that the servo steps, slews or refuses. -/
  | ptpSync (m : PtpMsg)
  /-- `PTP_FOLLOW_UP` (R496): A Follow_Up completes a two-step Sync. -/
  | ptpFollowUp (m : PtpMsg)
  /-- `PTP_DELAY_RESP` (R496): A Delay_Resp updates meanPathDelay. -/
  | ptpDelayResp (m : PtpMsg)
  /-- `PTP_ANNOUNCE` (R496): An Announce feeds the best master clock algorithm and the UTC offset. -/
  | ptpAnnounce (a : PtpAnnounce)
  /-- `PTP_DELAY_REQ_SEND` (R496): At each interval the clock sends a Delay_Req. -/
  | ptpDelayReqSend
  /-- `PTP_ANNOUNCE_TIMEOUT` (R497): The announce receipt timeout moves the servo to HOLDOVER. -/
  | ptpAnnounceTimeout
  /-- `PTP_SYNC_TIMEOUT` (R497): No Sync for 8 intervals moves the servo to HOLDOVER. -/
  | ptpSyncTimeout
  /-- `TIME_CTL_STEP` (R499): TIME_CTL.STEP requests a host step by TIME_STEP_S and _NS. -/
  | timeCtlStep (force : Bool)
  /-- `TIME_CTL_FORCE` (R498): TIME_CTL.FORCE applies the pending step at the next copy. -/
  | timeCtlForce
  /-- `TIME_NS_READ` (R493): A read of TIME_NOW_NS or NET_TIME_NS latches the seconds. -/
  | timeNsRead (u : Unit5)
  /-- `TIMECODE_FRAME` (R503): At each frame alignment point a timecode generator advances its label. -/
  | timecodeFrame (g : Fin 4)
  /-- `TXTS_POP` (R502): A read of NET_TXTS_LO pops the oldest transmit timestamp. -/
  | txtsPop (p : Pipe) (q : Fin 6)
  /-- `ETH_FRAME_RX` (R504): A received frame is accepted to RXCASK, to the time unit, or dropped. -/
  | ethFrameRx (p : Pipe) (q : Fin 6) (bytes : List Byte) (fcsOk : Bool)
  /-- `ETH_HOST_TX` (R504): A host transmit item is sent in a gap, with any timestamp queued. -/
  | ethHostTx (p : Pipe) (q : Fin 6)
  /-- `LIVE_FRAME_INPUT` (R507): A live output stores a whole frame in its buffer, or discards it. -/
  | liveFrameInput (p : Pipe) (o : Fin 16) (n : Nat) (flaws : List Flaw)
  /-- `LIVE_SLOT` (R508): A slot's launch time arrives and its frame is sent or skipped. -/
  | liveSlot (p : Pipe) (o : Fin 16) (due : Bool)
  /-- `LIVE_PACKET_LAUNCH` (R509): A packet's launch time comes and it is sent, or its frame is truncated. -/
  | livePacketLaunch (p : Pipe) (o : Fin 16) (ready : Bool)
  /-- `SDI_RASTER_START` (R514): At each raster start the framer shows the slot's frame or repeats. -/
  | sdiRasterStart (p : Pipe) (o : Fin 16) (due : Bool) (phase : Int)
  /-- `PRESS_TAIL_WRITE` (R527): A write of PRESS_TAIL posts Press descriptors. -/
  | pressTailWrite (u : Unit5) (r : Fin 4) (tail : BitVec 16)
  /-- `PRESS_JOB_START` (R530): The core takes the next descriptor of a ring, round robin. -/
  | pressJobStart (u : Unit5)
  /-- `PRESS_JOB_END` (R529): A Press job ends with a status, writing back words 9 to 13 and DONE. -/
  | pressJobEnd (u : Unit5) (bad denied : Bool) (read : PressRead)
  /-- `PRESS_ABORT` (R531): PRESS_RING_CTL.ABORT stops the running job and halts the ring. -/
  | pressAbort (u : Unit5) (r : Fin 4)
  /-- `PRESS_RESUME` (R531): PRESS_RING_CTL.RESUME restarts a halted ring. -/
  | pressResume (u : Unit5) (r : Fin 4)
  /-- `PRESS_RING_DISABLE` (R531): Clearing PRESS_RING_CFG.EN aborts and disables the ring. -/
  | pressRingDisable (u : Unit5) (r : Fin 4)
  /-- `QDL_HELLO` (R536): The Hubs exchange identity and the port enters UP. -/
  | qdlHello (q : Fin 3)
  /-- `QDL_PORT_DOWN` (R536): A port leaves UP and QDL_PEER_DOWN is raised. -/
  | qdlPortDown (q : Fin 3)
  /-- `QDL_FORWARD_WRITE` (R538): A write to a follower slot is posted over the link. -/
  | qdlForwardWrite (dev : Fin 4) (off : BitVec 26) (w : Word)
  /-- `QDL_FORWARD_READ` (R538): A read of a follower slot is forwarded. -/
  | qdlForwardRead (dev : Fin 4) (off : BitVec 26)
  /-- `QDL_FORWARD_READ_DONE` (R538): The forwarded read completes, or returns all ones at a link loss. -/
  | qdlForwardReadDone (dev : Fin 4) (w : Word)
  /-- `QDL_FOLLOWER_HOST_ACCESS` (R539): A follower's host-memory access is issued by the leader. -/
  | qdlFollowerHostAccess (q : Fin 3) (wr : Bool) (addr : Nat) (data : List Byte) (n : Nat)
  /-- `QDL_PEER_EVENT_MESSAGE` (R540): A follower event reaches the leader and raises QDL_PEER_EVT. -/
  | qdlPeerEventMessage (q : Fin 3) (event : Fin 1024) (syn : Word)
  /-- `QDL_TIME_MESSAGE` (R542): A follower receives the leader's time and runs its servo. -/
  | qdlTimeMessage (q : Fin 3) (t : Nat) (step : Option Int) (missed : Bool)
  /-- `QDL_DELAY_ECHO` (R542): Once per second a follower measures the link delay. -/
  | qdlDelayEcho (q : Fin 3) (delay : Nat)
  /-- `QDL_TAKE_END_REPORT` (R547): A device's take end report makes the leader end the board take. -/
  | qdlTakeEndReport (x : Fin 4) (num : Word)
  /-- `QDL_ORPHAN_EXPIRY` (R548): ORPHAN passes and a follower closes its orphaned take. -/
  | qdlOrphanExpiry
  /-- `MSIX_COALESCE_TIMEOUT` (R565): TIME passes since t0 and the vector's message is due. -/
  | msixCoalesceTimeout (v : Fin 1024)
  /-- `MSIX_VECTOR_UNMASK` (R564): Unmasking or enabling sends an owed message and clears its pending bit. -/
  | msixVectorUnmask (x : MsixWrite)
  /-- `EVT_STAT_CLEAR` (R567): A W1C of EVT_STAT clears status bits and may release a pin. -/
  | evtStatClear (k : Fin 16) (w : Word)
  /-- `PASM_LINE_INPUT` (R571): An input delivers its part of a picture group line. -/
  | pasmLineInput (n : Fin 64) (toks : List Nat) (psn : List Bool) (eof : Bool)
  /-- `PASM_WINDOW_EXPIRY` (R571): PWIN passes and an input is absent, filled black, with PASM_FILL. -/
  | pasmWindowExpiry (g : Fin 8)
  /-- `PANEL_ENABLE` (R576): Setting PANEL_CFG.EN takes the output to INIT. -/
  | panelEnable (o : Fin 2) (w : Word)
  /-- `PANEL_INIT_DONE` (R576): LP-11, deskew and DSC setup end, and the output enters IDLE. -/
  | panelInitDone (o : Fin 2)
  /-- `PANEL_DCS_SEND` (R576): A PANEL_DCS.GO command is sent when no transfer runs. -/
  | panelDcsSend (o : Fin 2)
  /-- `PANEL_PUSH` (R581): A write of PANEL_PUSH queues or replaces region updates. -/
  | panelPush (o : Fin 2) (w : Word)
  /-- `PANEL_SURFACE_FRAME_EOF` (R578): A joined frame's EOF pushes every SRC region naming its buffer. -/
  | panelSurfaceFrameEof (o : Fin 2)
  /-- `PANEL_TE_EDGE` (R582): An active TE edge starts a waiting transfer. -/
  | panelTeEdge (o : Fin 2) (rising : Bool)
  /-- `PANEL_TE_TIMEOUT` (R582): TETO passes without TE and the transfer starts with TEMISS. -/
  | panelTeTimeout (o : Fin 2)
  /-- `PANEL_TRANSFER_START` (R582): A region at the head of the queue starts its transfer. -/
  | panelTransferStart (o : Fin 2)
  /-- `PANEL_PACKET_SEND` (R582): A line or slice packet is sent once its payload is in the line buffer. -/
  | panelPacketSend (o : Fin 2) (level : Nat)
  /-- `PANEL_TRANSFER_DONE` (R582): A transfer ends, the checks of R584 apply and PANEL_DONE is raised. -/
  | panelTransferDone (o : Fin 2) (pad : Option Word)
  /-- `PANEL_FETCH_TIMEOUT` (R586): Host memory unreachable for 200 ms aborts the transfer. -/
  | panelFetchTimeout (o : Fin 2)
  /-- `PANEL_DISABLE` (R586): Clearing EN lets the running transfer finish and enters OFF. -/
  | panelDisable (o : Fin 2)
  /-- `AUD_TRIG_START` (R599): AUD_TRIG_CMD OP START schedules the named paths to start at frame N. -/
  | audTrigStart (attime : Bool) (paths : BitVec 8)
  /-- `AUD_TRIG_STOP` (R599): AUD_TRIG_CMD OP STOP schedules the named paths to stop at frame N. -/
  | audTrigStop (attime : Bool) (paths : BitVec 8)
  /-- `AUD_TRIG_LEAD` (R599): At t(N − L) master clocks start or playback ASRC prefill starts. -/
  | audTrigLead
  /-- `AUD_TRIG_FRAME` (R599): Frame N reaches the pins on every named path and AUD_TRIG is raised. -/
  | audTrigFrame
  /-- `AUD_MEDIA_FRAME` (R590): Each media frame's sample instant passes for every running path. -/
  | audMediaFrame (fs : List AudFrame)
  /-- `AUD_ASRC_LOCK_CHANGE` (R592): An ASRC gains or loses lock and AUD_ASRC is raised. -/
  | audAsrcLockChange (a : Fin 8) (lock : Bool) (ratio : BitVec 24)
  /-- `AUD_PORT_DISABLE` (R602): Clearing a port's EN stops its paths without run-out. -/
  | audPortDisable (k : Fin 4)
  /-- `ADC_START` (R606): SENSE_ADC_CTL.START triggers a scan. -/
  | adcStart (x : Fin 2)
  /-- `ADC_TIMER_TRIGGER` (R606): The converter timer triggers a scan every PERIOD. -/
  | adcTimerTrigger (x : Fin 2)
  /-- `ADC_SCAN_START` (R606): DELAY passes after a trigger and the first entry starts. -/
  | adcScanStart (x : Fin 2)
  /-- `ADC_CONVERSION_DONE` (R607): A conversion ends, is corrected, flagged and stored, and the range is chosen. -/
  | adcConversionDone (x : Fin 2) (q : BitVec 16) (moved : Bool)
  /-- `ADC_FIFO_POP` (R611): A read of SENSE_ADC_FIFO pops the oldest result. -/
  | adcFifoPop (x : Fin 2)
  /-- `ADC_FIFO_FLUSH` (R611): SENSE_ADC_CTL.FLUSH empties the FIFO. -/
  | adcFifoFlush (x : Fin 2)
  /-- `ADC_CAL_ZERO` (R615): SENSE_ADC_CAL OP ZERO measures and writes OFFSET. -/
  | adcCalZero (c : BitVec 5) (rng : Fin 4)
  /-- `ADC_CAL_GAIN` (R615): SENSE_ADC_CAL OP GAIN measures and writes GAIN. -/
  | adcCalGain (c : BitVec 5) (rng : Fin 4) (expect : BitVec 16)
  /-- `ADC_CAL_DONE` (R615): Calibration ends with a RESULT and ADC_CAL is raised. -/
  | adcCalDone
  /-- `PWM_PERIOD_START` (R616): A PWM period starts, applying new values and possibly triggering the ADC. -/
  | pwmPeriodStart (p : Fin 8)
  /-- `PWM_ACTIVE_END` (R616): A PWM active time ends, possibly triggering the ADC. -/
  | pwmActiveEnd (p : Fin 8)
  /-- `PWM_SYNC` (R617): SENSE_PWM_CTL.SYNC restarts the named channels' periods. -/
  | pwmSync (mask : BitVec 8)
  /-- `SW_ENABLE` (R619): Setting a switched output's EN starts INRUSH or HOLD. -/
  | swEnable (j : Fin 12)
  /-- `SW_DISABLE` (R619): Clearing EN turns the output OFF. -/
  | swDisable (j : Fin 12)
  /-- `SW_INRUSH_END` (R619): The inrush window ends and the output is ON. -/
  | swInrushEnd (j : Fin 12)
  /-- `SW_HARD_SHORT` (R620): The hard-short comparator turns the output off into FAULT SHORT. -/
  | swHardShort (j : Fin 12) (isns : Nat)
  /-- `SW_OVERCURRENT` (R620): A limit exceeded for OCT ms puts the output in FAULT OVERCURRENT. -/
  | swOvercurrent (j : Fin 12) (isns : Nat)
  /-- `BROWNOUT_BEGIN` (R622): ACC_VIN below BO for 10 µs holds outputs in INRUSH. -/
  | brownoutBegin
  /-- `BROWNOUT_RELEASE` (R622): ACC_VIN above BO + HYST for 10 ms restarts held outputs. -/
  | brownoutRelease
  /-- `KEY_SAMPLE` (R625): Every 100 µs the keys are sampled and debounced changes enter the FIFO. -/
  | keySample (levels : BitVec 48)
  /-- `KEY_FIFO_POP` (R626): A read of OPIO_KEY_FIFO pops an entry and latches its time. -/
  | keyFifoPop
  /-- `ENC_TRANSITION` (R627): A quadrature transition counts or is an error. -/
  | encTransition (e : Fin 4) (x : EncEdge)
  /-- `ENC_POS_WRITE` (R627): A write of OPIO_ENC_POS takes effect between counts. -/
  | encPosWrite (e : Fin 4) (w : Word)
  /-- `TOUCH_MEASURE` (R628): Every 5 ms a touch channel is measured and its state judged. -/
  | touchMeasure (t : Fin 16) (count : BitVec 16)
  /-- `THERM_CONVERSION` (R633): Every 20 µs a sensor converts and the thresholds are applied. -/
  | thermConversion (u : Unit5) (k : Fin 6) (t : Int)
  /-- `THERM_SELF_CHECK` (R631): Every 1 ms a sensor checks itself and may become faulty. -/
  | thermSelfCheck (u : Unit5) (k : Fin 6) (ok : Bool)
  /-- `PFAIL_LOW` (R635): PFAIL_N low for 2 µs starts Pavane with KIND POWER. -/
  | pfailLow (low : Bool)
  /-- `THERM_PAVANE_REQUEST` (R635): THERM_CTL.PAVANE starts Pavane with KIND HOST. -/
  | thermPavaneRequest
  /-- `PAVANE_COMMIT_DEADLINE` (R636): At 220 ms a slice stops writing data and turns to its unmount. -/
  | pavaneCommitDeadline
  /-- `PAVANE_POWER_OFF` (R638): After step 6, THERM_LAST is written, pipes gated and PAVOFF_N driven low. -/
  | pavanePowerOff
  /-- `SUP_PG_RISE` (R692): SUP_PG high with every rail in range for 1 ms releases reset. -/
  | supPgRise
  /-- `SUPPLY_LOSS` (R692): SUP_PG low or a rail out of range for 2 µs puts the device in reset. -/
  | supplyLoss
  /-- `RESET_RELEASE` (R643): Reset is released and a boot attempt starts in stage ROM. -/
  | resetRelease
  /-- `BOOT_THERMAL_HOLD_RELEASE` (R639): Every valid Hub sensor reads below 85 °C and the held boot proceeds. -/
  | bootThermalHoldRelease
  /-- `BOOT_VERIFY_DONE` (R645): The ROM finishes checking the image, passing or failing the attempt. -/
  | bootVerifyDone (sram lockstep flash : Bool)
  /-- `BOOT_LOAD_DONE` (R642): The image is in Hub SRAM and the controller starts at ENTRY. -/
  | bootLoadDone
  /-- `BOOT_OK_WRITE` (R646): HUB_BOOT_OK.OK declares the boot good and BOOT_DONE is raised. -/
  | bootOkWrite
  /-- `BOOT_WATCHDOG_EXPIRY` (R646): 20 s without BOOT_OK fails the attempt with WATCHDOG. -/
  | bootWatchdogExpiry
  /-- `FW_ACTIVATION_TIMEOUT` (R652): A new image without BOOT_OK in 20 s reverts to the kept image. -/
  | fwActivationTimeout
  /-- `HUB_RST_WARM` (R656): HUB_RST_CTL.WARM requests a software warm reset. -/
  | hubRstWarm
  /-- `HUB_RST_FALLOW` (R650): HUB_RST_CTL.FALLOW requests a warm reset into Fallow mode. -/
  | hubRstFallow
  /-- `NRST_FALL` (R653): NRST goes low and a press is timed. -/
  | nrstFall
  /-- `NRST_PRESS` (R653): A press reaches 20 ms and NRST_PRESS is raised. -/
  | nrstPress
  /-- `NRST_RELEASE` (R653): Release records the length and requests a warm reset. -/
  | nrstRelease (len : Nat)
  /-- `NRST_STUCK_TIMEOUT` (R655): NRST low at 30 s masks the pin and requests a reset into Fallow mode. -/
  | nrstStuckTimeout
  /-- `NRST_REARM` (R655): A masked NRST high for 100 ms re-arms and raises NRST_STUCK. -/
  | nrstRearm
  /-- `STANDBY_REQUEST` (R659): HUB_STBY_CTL.GO requests Vault or Keep, or ends with TAKE_OPEN. -/
  | standbyRequest (mode : Fin 8)
  /-- `STANDBY_ENTRY_DONE` (R659): Cartridges are unmounted, mode latched and AON_SUPEN driven low. -/
  | standbyEntryDone (xtal : Bool)
  /-- `AON_WAKE` (R660): A wake edge raises AON_SUPEN and starts a power-on. -/
  | aonWake (src : BitVec 6) (secs : Nat)
  /-- `FLASH_PROGRAM` (R663): HUB_FLASH_CMD OP PROGRAM erases and writes flash from host memory. -/
  | flashProgram
  /-- `FLASH_ERASE` (R663): HUB_FLASH_CMD OP ERASE erases the sectors of a range. -/
  | flashErase
  /-- `FLASH_CMD_DONE` (R663): A flash command ends with a RESULT. -/
  | flashCmdDone (bad : Bool)
  /-- `BIST_START` (R669): BIST_CMD.GO checks a unit and starts a run. -/
  | bistStart (w : BitVec 31)
  /-- `BIST_VOLTAGE_READY` (R670): A verified VCORE of at least 750 mV lets the run isolate its unit. -/
  | bistVoltageReady
  /-- `BIST_RUN_END` (R673): The scan and memory test end with PASS or FAIL. -/
  | bistRunEnd (mem : Bool) (sig : BitVec 64)
  /-- `BIST_ABORT` (R674): BIST_CTL.ABORT ends the run with ABORTED. -/
  | bistAbort
  /-- `SECU_GENERATE` (R679): SECU_CMD OP GENERATE fills an empty secret slot from the DRBG. -/
  | secuGenerate (w : BitVec 27)
  /-- `SECU_IMPORT` (R679): OP IMPORT loads a plain key into a secret slot. -/
  | secuImport (w : BitVec 27)
  /-- `SECU_IMPORT_WRAPPED` (R679): OP IMPORT_WRAPPED unwraps a blob into a slot. -/
  | secuImportWrapped (w : BitVec 27)
  /-- `SECU_EXPORT_WRAPPED` (R679): OP EXPORT_WRAPPED writes a wrapped key blob. -/
  | secuExportWrapped (w : BitVec 27)
  /-- `SECU_LOCK` (R679): OP LOCK forbids export and destroy of a slot. -/
  | secuLock (w : BitVec 27)
  /-- `SECU_DESTROY` (R679): OP DESTROY empties a secret slot. -/
  | secuDestroy (w : BitVec 27)
  /-- `SECU_SET_DIGEST` (R679): OP SET_DIGEST sets a verification slot's digest. -/
  | secuSetDigest (w : BitVec 27)
  /-- `SECU_REVOKE` (R679): OP REVOKE permanently revokes a verification slot. -/
  | secuRevoke (w : BitVec 27)
  /-- `SECU_ADVANCE_SVN` (R682): OP ADVANCE_SVN burns anti-rollback fuses to the target. -/
  | secuAdvanceSvn (w : BitVec 27)
  /-- `SECU_LC_REQUEST` (R683): OP LC_REQUEST checks a signed life-cycle request and records the transition. -/
  | secuLcRequest (w : BitVec 27)
  /-- `DRBG_HEALTH_FAIL` (R680): A health test failure puts the DRBG in FAILED and raises SECU_ALARM. -/
  | drbgHealthFail
  /-- `DRBG_RESEED` (R680): After 2^20 requests the DRBG reseeds. -/
  | drbgReseed (done : Bool)
  /-- `SECU_ALARM_INPUT` (R685): A glitch, tamper or key memory failure clears working copies and raises SECU_ALARM. -/
  | secuAlarmInput (a : SecuAlarm)
  /-- `DPHY_SOT` (R261): In DPHY mode a valid SoT arrives on the data lanes, and at the first one on every data lane the role reaches READY. -/
  | dphySot (p : Pipe) (mask : BitVec 4)
  /-- `PCIE_LINK_UP` (R573): The PCIe link trains and the Data Link Layer comes up, setting DLUP, WIDTH and SPEED and raising HOST_LINK. -/
  | pcieLinkUp (width : LinkWidth) (speed : LinkSpeed)
  /-- `PCIE_COMPLETION` (R128): A completion for a device-issued host-memory read arrives from the host, carrying data, a poisoned TLP or a completion error. -/
  | pcieCompletion (n : Nat) (good psn : Bool)
  /-- `SECU_COMMAND_DONE` (R679): A running security command ends with its RESULT within 50 ms and SECU_KEY is raised. -/
  | secuCommandDone (host nvm : Bool)
  /-- `CONFIG_SPACE_WRITE` (R554): A host configuration write changes Bus Master Enable, MSI-X Enable or Function Mask, holding or releasing host-memory access and owed messages. -/
  | configSpaceWrite (bme msixen fmask : Bool)
  /-- `LATCHED_WAKE_RELEASE` (R661): After a wake latched during standby entry or after PAVOFF_N, AON_SUPEN has been low for 10 ms and the device raises it and wakes. -/
  | latchedWakeRelease
deriving DecidableEq, Repr

end Sys2Proof
end

