-- ==== Sys2Proof/Decode.lean ====
section
/-!
DEFINITION. The command that a word spells by the opcode table's bits. The table gives no row any bits, so no word spells
a command.
-/
namespace Sys2Proof

/-- The command spelled by `nbits` bits of value `w`: none, since no row of the opcode table has bits. [log entry 4: DESIGN CHOICE] -/
def decodeTableWord (_nbits _w : Nat) : Option Instr := none

end Sys2Proof
end

