-- ==== Sys2Proof/Machine/Bits.lean ====
section
/-!
DEFINITION. Plain helpers on numbers read as bit fields: slices, sign extension, saturation, byte order.
Registers and records are little-endian (R5).
-/
namespace Sys2Proof.Machine

/-- Bits `hi` down to `lo` of `v`. -/
def slice (v hi lo : Nat) : Nat := (v / 2 ^ lo) % 2 ^ (hi + 1 - lo)

/-- Bit `i` of `v`. -/
def bit (v i : Nat) : Bool := (v / 2 ^ i) % 2 == 1

/-- The number 1 for true, 0 for false, as a one-bit field holds it. -/
def b2n (b : Bool) : Nat := if b then 1 else 0

/-- `v` read as a two's complement number of `w` bits. -/
def signed (w v : Nat) : Int :=
  let u := v % 2 ^ w
  if u < 2 ^ (w - 1) then (u : Int) else (u : Int) - (2 ^ w : Nat)

/-- The two's complement code of `x` in `w` bits. -/
def code (w : Nat) (x : Int) : Nat := (x % (2 ^ w : Nat)).toNat

/-- `x` clamped to `lo … hi`. -/
def clampI (lo hi x : Int) : Int := if x < lo then lo else if hi < x then hi else x

/-- `x` clamped to `lo … hi`. -/
def clampN (lo hi x : Nat) : Nat := if x < lo then lo else if hi < x then hi else x

/-- The two's complement code of `x` in `w` bits, saturating at the range of the field. -/
def satCode (w : Nat) (x : Int) : Nat :=
  code w (clampI (-(2 ^ (w - 1) : Nat)) ((2 ^ (w - 1) : Nat) - 1) x)

/-- Sets bit `i` of `v`. -/
def setBit (v i : Nat) : Nat := if bit v i then v else v + 2 ^ i

/-- Clears bit `i` of `v`. -/
def clrBit (v i : Nat) : Nat := if bit v i then v - 2 ^ i else v

/-- The positions of the set bits of `v` below `n`, in ascending order. -/
def bitsOf (v n : Nat) : List Nat := (List.range n).filter (bit v)

/-- Items packed from bit 0 upward, each with its width: the form of a syndrome whose bit positions are not
given (R715) and of the records this model writes. [log entry 44: DEDUCED] -/
def pack : List (Nat × Nat) → Nat
  | [] => 0
  | (w, v) :: t => v % 2 ^ w + 2 ^ w * pack t

/-- The `n` bytes of `v`, least significant first. -/
def leBytes : Nat → Nat → List Byte
  | 0, _ => []
  | n + 1, v => BitVec.ofNat 8 v :: leBytes n (v / 256)

/-- The number whose bytes, least significant first, are `bs`. -/
def ofLeBytes : List Byte → Nat
  | [] => 0
  | b :: t => b.toNat + 256 * ofLeBytes t

/-- Ceiling division. -/
def ceilDiv (a b : Nat) : Nat := (a + b - 1) / b

/-- `a / b` rounded half away from zero for non-negative numbers. -/
def roundDiv (a b : Nat) : Nat := (2 * a + b) / (2 * b)

/-- The first element of `l` that `p` accepts together with its position. -/
def findPos {α : Type} (p : α → Bool) : List α → Nat → Option (Nat × α)
  | [], _ => none
  | a :: t, n => if p a then some (n, a) else findPos p t (n + 1)

/-- `l` with the element at position `n` replaced (unchanged where there is none). -/
def putAt {α : Type} (l : List α) (n : Nat) (a : α) : List α := l.set n a

end Sys2Proof.Machine
end

