-- ==== Sys2Proof/Machine/Tab.lean ====
section
/-!
DEFINITION. Sparse tables and byte memories as plain data. A table is a list of keys and values; only entries that
differ from what an unlisted key reads as are listed, in rising order, so that equal tables are equal lists.
-/
namespace Sys2Proof.Machine

/-- A sparse table keyed by numbers. -/
abbrev Tab (α : Type) := List (Nat × α)

/-- The entry at `k`, or `d` where none is listed. -/
def Tab.get {α : Type} (d : α) : Tab α → Nat → α
  | [], _ => d
  | (k', v) :: t, k => if k = k' then v else Tab.get d t k

/-- The entry at `k`, where one is listed. -/
def Tab.find {α : Type} : Tab α → Nat → Option α
  | [], _ => none
  | (k', v) :: t, k => if k = k' then some v else Tab.find t k

/-- The table with `v` at `k`. -/
def Tab.put {α : Type} : Tab α → Nat → α → Tab α
  | [], k, v => [(k, v)]
  | (k', v') :: t, k, v =>
    if k = k' then (k, v) :: t
    else if k < k' then (k, v) :: (k', v') :: t
    else (k', v') :: Tab.put t k v

/-- The table with nothing at `k`. -/
def Tab.del {α : Type} : Tab α → Nat → Tab α
  | [], _ => []
  | (k', v') :: t, k => if k = k' then Tab.del t k else (k', v') :: Tab.del t k

/-- The table whose entry at `k` is `v`; a value equal to the unlisted value `d` is not listed. -/
def Tab.set {α : Type} [DecidableEq α] (d : α) (t : Tab α) (k : Nat) (v : α) : Tab α :=
  if v = d then Tab.del t k else Tab.put t k v

/-- The table with the entry at `k` changed by `f`. -/
def Tab.upd {α : Type} [DecidableEq α] (d : α) (t : Tab α) (k : Nat) (f : α → α) : Tab α :=
  Tab.set d t k (f (Tab.get d t k))

/-- A byte memory: cells in rising order of address, none equal to what an unlisted address reads as. -/
abbrev Mem := List Host.Cell

/-- What an address of a memory that lists nothing there reads as. Pipe DRAM is filled with zero (R465); for the
host's memory and the other byte stores the value 0 is this model's choice (log entry 5). [log entry 5: DESIGN CHOICE] -/
def Mem.blank : Byte := 0#8

/-- The byte at `a`. [log entry 5: DESIGN CHOICE] -/
def Mem.read : Mem → Nat → Byte
  | [], _ => Mem.blank
  | (a', b) :: t, a => if a = a' then b else Mem.read t a

/-- The memory with `b` at `a`, the address not being removed. -/
def Mem.insert : Mem → Nat → Byte → Mem
  | [], a, b => [(a, b)]
  | (a', b') :: t, a, b =>
    if a = a' then (a, b) :: t
    else if a < a' then (a, b) :: (a', b') :: t
    else (a', b') :: Mem.insert t a b

/-- The memory with nothing listed at `a`. -/
def Mem.erase : Mem → Nat → Mem
  | [], _ => []
  | (a', b') :: t, a => if a = a' then Mem.erase t a else (a', b') :: Mem.erase t a

/-- Writes one byte; writing what an unlisted address reads as removes the entry. -/
def Mem.write (m : Mem) (a : Nat) (b : Byte) : Mem :=
  if b = Mem.blank then Mem.erase m a else Mem.insert m a b

/-- Writes consecutive bytes from `a`. -/
def Mem.writes (m : Mem) (a : Nat) : List Byte → Mem
  | [] => m
  | b :: t => Mem.writes (Mem.write m a b) (a + 1) t

/-- `n` consecutive bytes from `a`. -/
def Mem.reads (m : Mem) (a : Nat) : Nat → List Byte
  | 0 => []
  | n + 1 => Mem.read m a :: Mem.reads m (a + 1) n

/-- The little-endian number of `n` bytes at `a`. -/
def Mem.readLe (m : Mem) (a n : Nat) : Nat := ofLeBytes (Mem.reads m a n)

/-- Writes the little-endian number `v` as `n` bytes at `a`. -/
def Mem.writeLe (m : Mem) (a n v : Nat) : Mem := Mem.writes m a (leBytes n v)

/-- Every listed address lies at or above `lo`. -/
def Mem.above (lo : Nat) : Mem → Bool
  | [] => true
  | (a, _) :: t => decide (lo ≤ a) && Mem.above lo t

/-- The canonical form: addresses strictly rise and no listed byte equals what an unlisted address reads as. -/
def Mem.wf : Mem → Bool
  | [] => true
  | (a, b) :: t => (b != Mem.blank) && Mem.above (a + 1) t && Mem.wf t

end Sys2Proof.Machine
end

