-- ==== Sys2Proof/Machine/Inflate.lean ====
section
/-!
DEFINITION. DEFLATE decoding (RFC 1951) with the zlib and gzip wrappers as R520 and R524 to R526 take them, and the check values.
A decoding ends with its bytes and the bits read, or with a status of R529 and the bit position of the fault.
-/
namespace Sys2Proof.Machine

/-! ### Check values -/

/-- One bit of the CRC-32 of RFC 1952. -/
def crc32Bit (c : Nat) : Nat := if c % 2 = 1 then Nat.xor (c / 2) 0xEDB88320 else c / 2

/-- One byte of the CRC-32. -/
def crc32Byte (c : Nat) (b : Byte) : Nat := (List.range 8).foldl (fun c _ => crc32Bit c) (Nat.xor c b.toNat)

/-- The CRC-32 of bytes (RFC 1952). -/
def crc32 (bs : List Byte) : Nat := Nat.xor (bs.foldl crc32Byte 0xFFFFFFFF) 0xFFFFFFFF

/-- The Adler-32 of bytes (RFC 1950). -/
def adler32 (bs : List Byte) : Nat :=
  let (a, b) := bs.foldl (fun (a, b) x => let a := (a + x.toNat) % 65521; (a, (b + a) % 65521)) (1, 0)
  b * 65536 + a

/-! ### The bit reader -/

/-- A decoding in progress: the bits left, how many have been read, the output latest byte first and its length, and the room
for output. -/
structure Inf where
  bits : List Bool
  pos : Nat := 0
  out : List Byte := []
  len : Nat := 0
  room : Nat
deriving DecidableEq, Repr

/-- What a part of the decoding answers: a fault as (status, bit position), or a result. -/
abbrev InfM (α : Type) := Except (Nat × Nat) α

/-- The bits of bytes, least significant first. -/
def lsbBits (bs : List Byte) : List Bool := bs.flatMap fun b => (List.range 8).map fun i => bit b.toNat i

/-- Reads `n` bits, least significant first: beyond the source they are a LENGTH_OVERRUN at `at_`. -/
def Inf.get (s : Inf) (n : Nat) (at_ : Nat) : InfM (Nat × Inf) :=
  let bs := s.bits.take n
  if bs.length < n then .error (0x0D, at_)
  else .ok (bs.foldr (fun b v => 2 * v + b2n b) 0, { s with bits := s.bits.drop n, pos := s.pos + n })

/-- One byte of output: with no room left the job ends with OUTPUT_FULL. -/
def Inf.put (s : Inf) (b : Byte) : InfM Inf :=
  if s.len < s.room then .ok { s with out := b :: s.out, len := s.len + 1 } else .error (0x02, s.pos)

/-- Skips to the next byte boundary. -/
def Inf.align (s : Inf) : Inf :=
  let n := (8 - s.pos % 8) % 8
  { s with bits := s.bits.drop n, pos := s.pos + n }

/-! ### Huffman codes -/

/-- A code: how many codes there are of each length 1 to 15, and the symbols in code order. -/
structure Huff where
  count : List Nat
  syms : List Nat
deriving DecidableEq, Repr

/-- The code of a list of code lengths. -/
def huffOf (lens : List Nat) : Huff :=
  let ix := lens.zip (List.range lens.length)
  { count := (List.range 15).map fun l => (lens.filter fun x => x == l + 1).length
    syms := (List.range 15).flatMap fun l => (ix.filter fun x => x.1 == l + 1).map fun x => x.2 }

/-- The code space left over: negative for an over-subscribed code, 0 for a complete one. -/
def Huff.left (h : Huff) : Int := h.count.foldl (fun l c => if l < 0 then l else 2 * l - Int.ofNat c) 1

/-- Decodes a symbol that begins at `at_`: a code that no symbol has is an ILLEGAL_CODE. -/
def huffGo (at_ : Nat) (syms : List Nat) : List Nat → Nat → Nat → Nat → Inf → InfM (Nat × Inf)
  | [], _, _, _, _ => .error (0x0B, at_)
  | c :: cs, code_, first, index, s => do
    let (b, s) ← s.get 1 at_
    let code_ := code_ + b
    if code_ < first + c then .ok (syms.getD (index + (code_ - first)) 0, s)
    else huffGo at_ syms cs (2 * code_) (2 * (first + c)) (index + c) s

/-- The next symbol of a code. -/
def Inf.sym (s : Inf) (h : Huff) : InfM (Nat × Inf) := huffGo s.pos h.syms h.count 0 0 0 s

/-- Base and extra bits of the length symbols 257 to 285 and the distance symbols 0 to 29 (RFC 1951). -/
def lenBase : List (Nat × Nat) :=
  [(3, 0), (4, 0), (5, 0), (6, 0), (7, 0), (8, 0), (9, 0), (10, 0), (11, 1), (13, 1), (15, 1), (17, 1), (19, 2), (23, 2), (27, 2),
   (31, 2), (35, 3), (43, 3), (51, 3), (59, 3), (67, 4), (83, 4), (99, 4), (115, 4), (131, 5), (163, 5), (195, 5), (227, 5), (258, 0)]
def distBase : List (Nat × Nat) :=
  [(1, 0), (2, 0), (3, 0), (4, 0), (5, 1), (7, 1), (9, 2), (13, 2), (17, 3), (25, 3), (33, 4), (49, 4), (65, 5), (97, 5), (129, 6),
   (193, 6), (257, 7), (385, 7), (513, 8), (769, 8), (1025, 9), (1537, 9), (2049, 10), (3073, 10), (4097, 11), (6145, 11),
   (8193, 12), (12289, 12), (16385, 13), (24577, 13)]

/-- Copies `n` bytes from `dist` back. -/
def Inf.copy (s : Inf) (dist : Nat) : Nat → InfM Inf
  | 0 => .ok s
  | n + 1 => do
    let s ← s.put (s.out.getD (dist - 1) 0)
    s.copy dist n

/-- The symbols of a block up to its end (R526: a fault is found before its symbol gives output). -/
def infBlock (lit dist : Huff) : Nat → Inf → InfM Inf
  | 0, s => .error (0x0D, s.pos)
  | fuel + 1, s => do
    let at_ := s.pos
    let (v, s) ← s.sym lit
    if v < 256 then
      let s ← s.put (BitVec.ofNat 8 v)
      infBlock lit dist fuel s
    else if v = 256 then .ok s
    else if 285 < v then .error (0x0B, at_)
    else
      let (b, e) := lenBase.getD (v - 257) (3, 0)
      let (x, s) ← s.get e at_
      let dat := s.pos
      let (w, s) ← s.sym dist
      if 29 < w then .error (0x0B, dat)
      else
        let (db, de) := distBase.getD w (1, 0)
        let (y, s) ← s.get de dat
        if s.len < db + y then .error (0x0C, dat)
        else if s.room < s.len + b + x then .error (0x02, s.pos)
        else
          let s ← s.copy (db + y) (b + x)
          infBlock lit dist fuel s

/-- The bytes of a stored block. -/
def infStored : Nat → Inf → InfM Inf
  | 0, s => .ok s
  | n + 1, s => do
    let (v, s) ← s.get 8 s.pos
    let s ← s.put (BitVec.ofNat 8 v)
    infStored n s

/-- The fixed codes. -/
def fixedLit : Huff := huffOf (List.replicate 144 8 ++ List.replicate 112 9 ++ List.replicate 24 7 ++ List.replicate 8 8)
def fixedDist : Huff := huffOf (List.replicate 32 5)

/-- The order of the code-length code's lengths. -/
def clOrder : List Nat := [16, 17, 18, 0, 8, 7, 9, 6, 10, 5, 11, 4, 12, 3, 13, 2, 14, 1, 15]

/-- The lengths of the code-length code, `n` of them. -/
def infClens : Nat → List Nat → Inf → InfM (List Nat × Inf)
  | 0, acc, s => .ok (acc, s)
  | n + 1, acc, s => do
    let (v, s) ← s.get 3 s.pos
    infClens n (acc ++ [v]) s

/-- The code lengths of a dynamic block, up to `want` of them: a repeat with nothing before it or past the table is a BAD_TABLE. -/
def infLens (cl : Huff) (want : Nat) : Nat → List Nat → Inf → InfM (List Nat × Inf)
  | 0, acc, s => .ok (acc, s)
  | fuel + 1, acc, s => do
    if want ≤ acc.length then .ok (acc, s)
    else
      let at_ := s.pos
      let (v, s) ← s.sym cl
      if v < 16 then infLens cl want fuel (acc ++ [v]) s
      else if v = 16 ∧ acc.isEmpty then .error (0x0A, at_)
      else
        let (x, s) ← s.get (if v = 16 then 2 else if v = 17 then 3 else 7) at_
        let n := x + (if v = 18 then 11 else 3)
        let l := if v = 16 then acc.getLast?.getD 0 else 0
        if want < acc.length + n then .error (0x0A, at_) else infLens cl want fuel (acc ++ List.replicate n l) s

/-- The codes of a dynamic block. -/
def infTables (s : Inf) : InfM (Huff × Huff × Inf) := do
  let at_ := s.pos
  let (a, s) ← s.get 5 at_
  let (b, s) ← s.get 5 at_
  let (c, s) ← s.get 4 at_
  let hlit := a + 257
  let hdist := b + 1
  if 286 < hlit ∨ 30 < hdist then .error (0x0A, at_)
  else
    let (cls, s) ← infClens (c + 4) [] s
    let lens := (List.range 19).map fun i =>
      match (clOrder.zip cls).find? fun x => x.1 == i with | some x => x.2 | none => 0
    let cl := huffOf lens
    if cl.left ≠ 0 then .error (0x0A, s.pos)
    else
      let (all, s) ← infLens cl (hlit + hdist) (hlit + hdist + 1) [] s
      let lit := huffOf (all.take hlit)
      let dist := huffOf (all.drop hlit)
      if lit.left ≠ 0 ∨ (dist.left ≠ 0 ∧ 1 < dist.syms.length) then .error (0x0A, s.pos) else .ok (lit, dist, s)

/-- The blocks of a stream, up to the one with BFINAL set. -/
def infBlocks : Nat → Inf → InfM Inf
  | 0, s => .error (0x0D, s.pos)
  | fuel + 1, s => do
    let at_ := s.pos
    let (fin, s) ← s.get 1 at_
    let (t, s) ← s.get 2 at_
    let s ←
      if t = 0 then do
        let s := s.align
        let lat := s.pos
        let (n, s) ← s.get 16 lat
        let (m, s) ← s.get 16 lat
        if n + m ≠ 65535 then .error (0x09, lat) else infStored n s
      else if t = 1 then infBlock fixedLit fixedDist (s.bits.length + 1) s
      else if t = 2 then do
        let (lit, dist, s) ← infTables s
        infBlock lit dist (s.bits.length + 1) s
      else .error (0x09, at_)
    if fin = 1 then .ok s else infBlocks fuel s

/-! ### Wrappers (R520) -/

/-- A zlib header. -/
def zlibHead (s : Inf) : InfM Inf := do
  let (cmf, s) ← s.get 8 0
  let (flg, s) ← s.get 8 8
  if cmf % 16 ≠ 8 ∨ 7 < cmf / 16 ∨ (256 * cmf + flg) % 31 ≠ 0 then .error (0x08, 0)
  else if bit flg 5 then .error (0x0F, 8)
  else .ok s

/-- Skips a zero-terminated field. -/
def skipString : Nat → Inf → InfM Inf
  | 0, s => .error (0x0D, s.pos)
  | fuel + 1, s => do
    let (v, s) ← s.get 8 s.pos
    if v = 0 then .ok s else skipString fuel s

/-- A gzip header; `src` are the source's bytes, for the header's CRC. -/
def gzipHead (src : List Byte) (s : Inf) : InfM Inf := do
  let (id, s) ← s.get 16 0
  let (cm, s) ← s.get 8 16
  let (flg, s) ← s.get 8 24
  if id ≠ 0x8B1F ∨ cm ≠ 8 ∨ 31 < flg then .error (0x08, if id ≠ 0x8B1F then 0 else if cm ≠ 8 then 16 else 24)
  else
    let (_, s) ← s.get 48 32
    let s ← if bit flg 2 then do
        let at_ := s.pos
        let (n, s) ← s.get 16 at_
        let (_, s) ← s.get (8 * n) at_
        pure s
      else pure s
    let s ← if bit flg 3 then skipString (s.bits.length + 1) s else pure s
    let s ← if bit flg 4 then skipString (s.bits.length + 1) s else pure s
    if bit flg 1 then
      let at_ := s.pos
      let (c, s) ← s.get 16 at_
      if c ≠ crc32 (src.take (at_ / 8)) % 65536 then .error (0x08, at_) else .ok s
    else .ok s

/-- A whole decoding of a source in format `fmt`: the output, the bytes read and the check value; or a status and a bit position
(R524, R525). -/
def inflate (fmt : Nat) (src : List Byte) (room : Nat) : InfM (List Byte × Nat × Nat) := do
  let s : Inf := { bits := lsbBits src, room := room }
  let s ← if fmt = 1 then zlibHead s else if fmt = 2 then gzipHead src s else pure s
  let s ← infBlocks (s.bits.length + 1) s
  let out := s.out.reverse
  let s := s.align
  let at_ := s.pos
  if fmt = 1 then
    let (v, s) ← s.get 32 at_
    let got := ofLeBytes ((leBytes 4 v).reverse)
    if got ≠ adler32 out then .error (0x0E, at_) else .ok (out, s.pos / 8, got)
  else if fmt = 2 then
    let (c, s) ← s.get 32 at_
    let (n, s) ← s.get 32 at_
    if c ≠ crc32 out ∨ n ≠ out.length % 2 ^ 32 then .error (0x0E, at_) else .ok (out, s.pos / 8, c)
  else .ok (out, s.pos / 8, crc32 out)

end Sys2Proof.Machine
end

