-- ==== Sys2Proof/Config.lean ====
section
/-!
DEFINITION. What an implementation fixes and what the spec leaves open: constants with no body. Nothing can evaluate
them, so a statement about one holds whatever it is.
-/
namespace Sys2Proof.Config

/-- The `n`-th value the spec leaves undefined or draws at random: a free value, taken with `State`'s counter
(log entry 3). [log entry 3: DESIGN CHOICE] -/
opaque freeValue : Nat → Nat

/-- The 64-bit serial number in the device's fuses (R550). [log entry 6: DESIGN CHOICE] -/
opaque serial : BitVec 64

/-- The coded bytes of a concealment tile in the syntax of the frame's codec (R391), for a format, whether the frame is a key
frame, and the base QP. The codecs' syntaxes are not the spec's. [log entry 46: DESIGN CHOICE] -/
opaque concealTile : Nat → Bool → Nat → List Byte

/-- The sequence-level headers of a stream in its codec's syntax (R372, R385), for what they have to say: profile, level, and codec, sample
depth, chroma, the H.273 code points of primaries, transfer and matrix, narrow range, chroma location, picture width and height.
The codecs' syntaxes are not the spec's. [log entry 46: DESIGN CHOICE] -/
opaque seqHeader : (profile level : String) → (params : List Nat) → List Byte

/-- Byte `o` of an NSTAB entry of 128 bytes (R442) for a namespace's size, attached flag, format progress and wrapped key: the places of
its fields are not the spec's. [log entry 52: DESIGN CHOICE] -/
opaque nsEntry : (size : Nat) → (attached : Bool) → (fmt : Nat) → (wrapped : List Byte) → (o : Nat) → Byte

/-- The filler of `n` bytes in the syntax of a codec (R378), of JPEG XS its padding. [log entry 46: DESIGN CHOICE] -/
opaque filler : (codec n : Nat) → Nat → Byte

/-- The payload header of a packet of the essence RTP AVC, HEVC or AV1, for the packet's place among `n` and the bytes it carries (R505):
how the fragmentation units of the RFCs fit packets of PKTBYTES each (R509) is not stated. [log entry 58: DESIGN CHOICE] -/
opaque rtpHeader : (ess k n : Nat) → List Byte → List Byte

/-- The colorimetry that an SDI output's payload identifier states, as the source delivers the colour (R513). [log entry 58: DESIGN CHOICE] -/
opaque sdiColour : (pipe output : Nat) → Nat

/-- The fixed latency of an Ethernet port from the boundary between MAC and PCS to the pins, in 2⁻⁸ ns, for the role's code, whether it has
FEC and the direction (R500). [log entry 57: DESIGN CHOICE] -/
opaque portLatency : (role : Nat) → (fec tx : Bool) → Int

/-- The byte at an offset of the NVMe data structure `what` (an Identify CNS, or 0x100 and a log identifier) for a namespace, where
the spec states no value: the structures are NVMe 2.0's. [log entry 50: PRESUMED] -/
opaque nvmeByte : (what ns : Nat) → Nat → Byte

/-- The raw DEFLATE stream the Press engines make of an input at a LEVEL: the same on every run and device; its bytes follow from a
match search the spec does not give bit by bit (R521). [log entry 59: DESIGN CHOICE] -/
opaque deflate : (level : Nat) → List Byte → List Byte

/-- The samples that the converter of a playback path makes of the media frames it holds, the oldest first, at the ratio it tracks (R592):
its filter is not the spec's. [log entry 64: DESIGN CHOICE] -/
opaque asrcOut : (ratio : Nat) → List (List Nat) → List Nat

/-- The fused golden signature of a class of units for a run length LEN (R665). [log entry 68: DESIGN CHOICE] -/
opaque bistGolden : (cls len : Nat) → BitVec 64

/-- Whether an encoder counts up where input A leads B, with DIR clear: R627 does not name the direction. [log entry 67: DESIGN CHOICE] -/
opaque encUp : Bool

/-- How far, in nanoseconds, the brightness and blink periods of tally output `j` are into their cycles as the Hub's time is 0 (R619): the
rule does not say. [log entry 66: DESIGN CHOICE] -/
opaque tallyPhase : (j : Nat) → Nat

/-- Whether a component whose exact value lies within 2⁻¹⁰ of a tie rounds up in the binary32 arithmetic of R577: the order of the
operations and the constants' roundings are not the spec's. [log entry 62: DESIGN CHOICE] -/
opaque panelTie : (matrix : Bool) → (comp y cb cr : Nat) → Bool

/-- The line-buffer depth of the DSC encoder and bytes 16 to 87 of its Picture Parameter Set (the rate-control parameters of VESA DSC
1.2a), for the bits per pixel in 1/16, the picture's and a slice's width and height: the spec names the standard and does not give
them. [log entry 62: DESIGN CHOICE] -/
opaque dscPps : (bpp w h sliceW sliceH : Nat) → Nat × List Byte

/-- The bytes of a slice's line in DSC (VESA DSC 1.2a), for the bits per pixel in 1/16 and the slice's rows up to that line: a
standard the spec names and does not give. [log entry 62: DESIGN CHOICE] -/
opaque dscLine : (bpp : Nat) → List (List (Nat × Nat × Nat)) → List Byte

/-- Whether a picture width, height and tile width lie within the level of a format of R367, its slices per picture included: the
levels are the codecs' standards'. [log entry 86: DESIGN CHOICE] -/
opaque levelFits : (fmt width height tile : Nat) → Bool

/-- The highest bit rate of a format's level, in kbit/s. [log entry 86: DESIGN CHOICE] -/
opaque levelRate : (fmt : Nat) → Nat

end Sys2Proof.Config
end

