-- ==== Sys2Proof/Machine/Crypto.lean ====
section
/-!
DEFINITION. The standards that the key store, the loader and the boot name: SHA-384 (FIPS 180-4), ECDSA over P-384 (FIPS 186-5), AES-256
(FIPS 197) and AES key wrap (NIST SP 800-38F). spec/ names them and does not give them; they are written here from the standards.
[log entry 39: PRESUMED]
-/
namespace Sys2Proof.Machine

/-! ### SHA-384 -/

/-- The first 40 round constants of SHA-512: fractions of the cube roots of the first primes. -/
def shaK0 : List Nat :=
  [0x428A2F98D728AE22, 0x7137449123EF65CD, 0xB5C0FBCFEC4D3B2F, 0xE9B5DBA58189DBBC, 0x3956C25BF348B538,
   0x59F111F1B605D019, 0x923F82A4AF194F9B, 0xAB1C5ED5DA6D8118, 0xD807AA98A3030242, 0x12835B0145706FBE,
   0x243185BE4EE4B28C, 0x550C7DC3D5FFB4E2, 0x72BE5D74F27B896F, 0x80DEB1FE3B1696B1, 0x9BDC06A725C71235,
   0xC19BF174CF692694, 0xE49B69C19EF14AD2, 0xEFBE4786384F25E3, 0x0FC19DC68B8CD5B5, 0x240CA1CC77AC9C65,
   0x2DE92C6F592B0275, 0x4A7484AA6EA6E483, 0x5CB0A9DCBD41FBD4, 0x76F988DA831153B5, 0x983E5152EE66DFAB,
   0xA831C66D2DB43210, 0xB00327C898FB213F, 0xBF597FC7BEEF0EE4, 0xC6E00BF33DA88FC2, 0xD5A79147930AA725,
   0x06CA6351E003826F, 0x142929670A0E6E70, 0x27B70A8546D22FFC, 0x2E1B21385C26C926, 0x4D2C6DFC5AC42AED,
   0x53380D139D95B3DF, 0x650A73548BAF63DE, 0x766A0ABB3C77B2A8, 0x81C2C92E47EDAEE6, 0x92722C851482353B]

/-- The other 40. -/
def shaK1 : List Nat :=
  [0xA2BFE8A14CF10364, 0xA81A664BBC423001, 0xC24B8B70D0F89791, 0xC76C51A30654BE30, 0xD192E819D6EF5218,
   0xD69906245565A910, 0xF40E35855771202A, 0x106AA07032BBD1B8, 0x19A4C116B8D2D0C8, 0x1E376C085141AB53,
   0x2748774CDF8EEB99, 0x34B0BCB5E19B48A8, 0x391C0CB3C5C95A63, 0x4ED8AA4AE3418ACB, 0x5B9CCA4F7763E373,
   0x682E6FF3D6B2B8A3, 0x748F82EE5DEFB2FC, 0x78A5636F43172F60, 0x84C87814A1F0AB72, 0x8CC702081A6439EC,
   0x90BEFFFA23631E28, 0xA4506CEBDE82BDE9, 0xBEF9A3F7B2C67915, 0xC67178F2E372532B, 0xCA273ECEEA26619C,
   0xD186B8C721C0C207, 0xEADA7DD6CDE0EB1E, 0xF57D4F7FEE6ED178, 0x06F067AA72176FBA, 0x0A637DC5A2C898A6,
   0x113F9804BEF90DAE, 0x1B710B35131C471B, 0x28DB77F523047D84, 0x32CAAB7B40C72493, 0x3C9EBE0A15C9BEBC,
   0x431D67C49C100D4C, 0x4CC5D4BECB3E42B6, 0x597F299CFC657E2A, 0x5FCB6FAB3AD6FAEC, 0x6C44198C4A475817]

/-- The initial value of SHA-384: fractions of the square roots of the ninth to sixteenth primes. -/
def sha384H : List Nat :=
  [0xCBBB9D5DC1059ED8, 0x629A292A367CD507, 0x9159015A3070DD17, 0x152FECD8F70E5939,
   0x67332667FFC00B31, 0x8EB44A8768581511, 0xDB0C2E0D64F98FA7, 0x47B5481DBEFA4FA4]

/-- Bytes of a number, most significant first, and the number of such bytes. -/
def beBytes (n x : Nat) : List Byte := (leBytes n x).reverse
def ofBeBytes (b : List Byte) : Nat := ofLeBytes b.reverse

/-- The functions of SHA-512 on 64-bit words. -/
def shaRot (x : BitVec 64) (a b : Nat) (c : BitVec 64) : BitVec 64 := x.rotateRight a ^^^ x.rotateRight b ^^^ c

/-- The schedule of a block: words 16 to 79 follow from those before them; `l` holds the words so far, the newest first. -/
def shaSchedule : Nat → List (BitVec 64) → List (BitVec 64)
  | 0, l => l.reverse
  | n + 1, l =>
    let w := fun k => l.getD (k - 1) 0
    let s0 := shaRot (w 15) 1 8 (w 15 >>> 7)
    let s1 := shaRot (w 2) 19 61 (w 2 >>> 6)
    shaSchedule n ((w 16 + s0 + w 7 + s1) :: l)

/-- One round on the eight working words. -/
def shaRound (v : List (BitVec 64)) (kw : Nat × BitVec 64) : List (BitVec 64) :=
  match v with
  | [a, b, c, d, e, f, g, h] =>
    let t1 := h + shaRot e 14 18 (e.rotateRight 41) + ((e &&& f) ^^^ (~~~e &&& g)) + BitVec.ofNat 64 kw.1 + kw.2
    let t2 := shaRot a 28 34 (a.rotateRight 39) + ((a &&& b) ^^^ (a &&& c) ^^^ (b &&& c))
    [t1 + t2, a, b, c, d + t1, e, f, g]
  | _ => v

/-- The first `n` blocks of 128 bytes taken into the hash value. -/
def shaBlocks : Nat → List Byte → List (BitVec 64) → List (BitVec 64)
  | 0, _, h => h
  | n + 1, b, h =>
    let ws := (List.range 16).map fun k => BitVec.ofNat 64 (ofBeBytes ((b.drop (8 * k)).take 8))
    let v := ((shaK0 ++ shaK1).zip (shaSchedule 64 ws.reverse)).foldl shaRound h
    shaBlocks n (b.drop 128) ((h.zip v).map fun x => x.1 + x.2)

/-- SHA-384 of a message (FIPS 180-4). [log entry 39: PRESUMED] -/
def sha384 (m : List Byte) : List Byte :=
  let pad := (240 - (m.length + 1) % 128) % 128
  let b := m ++ [0x80#8] ++ List.replicate pad 0 ++ beBytes 16 (8 * m.length)
  let h := shaBlocks (b.length / 128) b (sha384H.map (BitVec.ofNat 64))
  (h.take 6).flatMap fun w => beBytes 8 w.toNat

/-! ### P-384 -/

/-- The prime of the field, the coefficient b, the order of the group and the base point (FIPS 186-5). -/
def p384P : Nat := 2 ^ 384 - 2 ^ 128 - 2 ^ 96 + 2 ^ 32 - 1
def p384B : Nat := 0xB3312FA7E23EE7E4988E056BE3F82D19181D9C6EFE8141120314088F5013875AC656398D8A2ED19D2A85C8EDD3EC2AEF
def p384N : Nat := 0xFFFFFFFFFFFFFFFFFFFFFFFFFFFFFFFFFFFFFFFFFFFFFFFFC7634D81F4372DDF581A0DB248B0A77AECEC196ACCC52973
def p384G : Nat × Nat :=
  (0xAA87CA22BE8B05378EB1C71EF320AD746E1D3B628BA79B9859F741E082542A385502F25DBF55296C3A545E3872760AB7,
   0x3617DE4A96262C6F5D9E98BF9292DC29F8F41DBD289A147CE9DA3113B5F0B8C00A60B1CE1D7E819D7A431D7C90EA0E5F)

/-- `a` to the power whose bits are `e`, the highest first, modulo `m`. -/
def powMod (a m : Nat) (e : List Bool) : Nat := e.foldl (fun r b => let q := r * r % m; if b then q * a % m else q) 1

/-- The 384 bits of a number, the highest first. -/
def bits384 (x : Nat) : List Bool := ((List.range 384).map fun k => bit x k).reverse

/-- The inverse modulo a prime. -/
def invMod (a m : Nat) : Nat := powMod (a % m) m (bits384 (m - 2))

/-- Arithmetic in the field of P-384. -/
def feMul (a b : Nat) : Nat := a * b % p384P
def feSub (a b : Nat) : Nat := (a + (p384P - b)) % p384P

/-- A point (X, Y, Z) stands for (X / Z², Y / Z³), with Z = 0 for the point at infinity. Twice a point of the curve. -/
def ecDouble (p : Nat × Nat × Nat) : Nat × Nat × Nat :=
  let (x, y, z) := p
  let zz := feMul z z
  let yy := feMul y y
  let b := feMul x yy
  let a := feMul (3 * feSub x zz) (x + zz)
  let x' := feSub (feMul a a) (8 * b % p384P)
  (x', feSub (feMul a (feSub (4 * b % p384P) x')) (8 * feMul yy yy % p384P), feMul (2 * y) z)

/-- The sum of two points of the curve. -/
def ecAdd (p q : Nat × Nat × Nat) : Nat × Nat × Nat :=
  let (x, y, z) := p
  let (u, v, w) := q
  if z = 0 then q
  else if w = 0 then p
  else
    let zz := feMul z z
    let ww := feMul w w
    let a := feMul x ww
    let c := feMul y (feMul ww w)
    let h := feSub (feMul u zz) a
    let r := feSub (feMul v (feMul zz z)) c
    if h = 0 then (if r = 0 then ecDouble p else (1, 1, 0))
    else
      let hh := feMul h h
      let ah := feMul a hh
      let x' := feSub (feSub (feMul r r) (feMul h hh)) (2 * ah % p384P)
      (x', feSub (feMul r (feSub ah x')) (feMul c (feMul h hh)), feMul h (feMul z w))

/-- A multiple of a point given by its coordinates. -/
def ecMul (k : Nat) (p : Nat × Nat) : Nat × Nat × Nat :=
  (bits384 k).foldl (fun r b => if b then ecAdd (ecDouble r) (p.1, p.2, 1) else ecDouble r) (1, 1, 0)

/-- The point that 96 bytes give, X then Y. -/
def p384OfBytes (key : List Byte) : Nat × Nat := (ofBeBytes (key.take 48), ofBeBytes ((key.drop 48).take 48))

/-- Whether 96 bytes, X then Y, are a point on P-384. [log entry 39: PRESUMED] -/
def p384Point (key : List Byte) : Bool :=
  let (x, y) := p384OfBytes key
  decide (key.length = 96) && decide (x < p384P) && decide (y < p384P) &&
    y * y % p384P == (x * x * x + (p384P - 3) * x + p384B) % p384P

/-- Whether an ECDSA signature, r then s, over the SHA-384 digest of a message verifies (FIPS 186-5). [log entry 39: PRESUMED] -/
def p384Verify (key sig msg : List Byte) : Bool :=
  let r := ofBeBytes (sig.take 48)
  let s := ofBeBytes ((sig.drop 48).take 48)
  let w := invMod s p384N
  let e := ofBeBytes (sha384 msg)
  let (x, _, z) := ecAdd (ecMul (e * w % p384N) p384G) (ecMul (r * w % p384N) (p384OfBytes key))
  p384Point key && decide (1 ≤ r) && decide (r < p384N) && decide (1 ≤ s) && decide (s < p384N) && z != 0 &&
    feMul x (invMod (feMul z z) p384P) % p384N == r

/-! ### AES-256 and key wrap -/

/-- The product in the field of 2^8 elements of FIPS 197. -/
def gfMul (a b : Nat) : Nat :=
  (List.range 8).foldr (fun k r =>
    let r := if 128 ≤ r then Nat.xor (2 * r) 0x11B else 2 * r
    if bit b k then Nat.xor r a else r) 0

/-- The S-box: the inverse in the field, then the affine map. -/
def aesSub (x : Nat) : Nat :=
  let i := (List.range 6).foldl (fun r _ => gfMul (gfMul r r) x) x
  let i := gfMul i i
  let rot := fun k => (i * 2 ^ k + i / 2 ^ (8 - k)) % 256
  Nat.xor (Nat.xor (Nat.xor (Nat.xor i (rot 1)) (Nat.xor (rot 2) (rot 3))) (rot 4)) 0x63

/-- Four bytes added bit by bit. -/
def aesXor (a b : List Nat) : List Nat := (a.zip b).map fun x => Nat.xor x.1 x.2

/-- The key schedule of AES-256: words of four bytes; `l` holds those so far, the newest first, `i` is the next word's number. -/
def aesKeys : Nat → Nat → Nat → List (List Nat) → List (List Nat)
  | 0, _, _, l => l.reverse
  | n + 1, i, rcon, l =>
    let t := l.headD []
    let t' :=
      if i % 8 = 0 then aesXor ((t.drop 1 ++ t.take 1).map aesSub) [rcon, 0, 0, 0]
      else if i % 8 = 4 then t.map aesSub else t
    aesKeys n (i + 1) (if i % 8 = 0 then gfMul rcon 2 else rcon) (aesXor (l.getD 7 []) t' :: l)

/-- The 15 round keys of a key of 32 bytes. -/
def aesRounds (key : List Byte) : List (List Nat) :=
  let k := key.map (·.toNat)
  let ws := aesKeys 52 8 1 ((List.range 8).map fun i => (k.drop (4 * i)).take 4).reverse
  (List.range 15).map fun r => ((ws.drop (4 * r)).take 4).flatten

/-- The byte of row `r` and column `c` comes from column `c + r` in ShiftRows, from column `c − r` in its inverse. -/
def aesShift (inv : Bool) (s : List Nat) : List Nat :=
  (List.range 16).map fun i => s.getD (4 * ((i / 4 + (if inv then 4 - i % 4 else i % 4)) % 4) + i % 4) 0

/-- A column multiplied by the polynomial whose coefficients are `m`. -/
def aesMix (m : List Nat) (s : List Nat) : List Nat :=
  (List.range 16).map fun i =>
    (List.range 4).foldl (fun a k => Nat.xor a (gfMul (m.getD ((k + 4 - i % 4) % 4) 0) (s.getD (4 * (i / 4) + k) 0))) 0

/-- The inverse of the S-box. -/
def aesUnsub (y : Nat) : Nat := ((List.range 256).find? fun x => aesSub x == y).getD 0

/-- A block of 16 bytes enciphered, and deciphered (FIPS 197). -/
def aesEnc (ks : List (List Nat)) (b : List Nat) : List Nat :=
  let s := (ks.tail.take 13).foldl (fun s k => aesXor (aesMix [2, 3, 1, 1] (aesShift false (s.map aesSub))) k) (aesXor b (ks.headD []))
  aesXor (aesShift false (s.map aesSub)) (ks.getD 14 [])
def aesDec (ks : List (List Nat)) (b : List Nat) : List Nat :=
  let s := (ks.tail.take 13).reverse.foldl (fun s k => aesMix [14, 11, 13, 9] (aesXor ((aesShift true s).map aesUnsub) k))
    (aesXor b (ks.getD 14 []))
  aesXor ((aesShift true s).map aesUnsub) (ks.headD [])

/-- A byte list as numbers and back. -/
def aesBytes (l : List Nat) : List Byte := l.map (BitVec.ofNat 8)

/-- Step `t` of a wrap of `n` semiblocks (NIST SP 800-38F): `a` is the integrity value, `r` the semiblocks. -/
def wrapStep (n : Nat) (ks : List (List Nat)) (x : List Nat × List (List Nat)) (t : Nat) : List Nat × List (List Nat) :=
  let j := (t - 1) % n
  let c := aesEnc ks (x.1 ++ x.2.getD j [])
  (aesXor (c.take 8) ((beBytes 8 t).map (·.toNat)), x.2.set j (c.drop 8))
def unwrapStep (n : Nat) (ks : List (List Nat)) (x : List Nat × List (List Nat)) (t : Nat) : List Nat × List (List Nat) :=
  let j := (t - 1) % n
  let c := aesDec ks (aesXor x.1 ((beBytes 8 t).map (·.toNat)) ++ x.2.getD j [])
  (c.take 8, x.2.set j (c.drop 8))

/-- The integrity value of a wrapped key. -/
def wrapIv : List Nat := List.replicate 8 0xA6

/-- AES key wrap of a key, 32 or 64 bytes, under a key. [log entry 39: PRESUMED] -/
def keyWrap (kek data : List Byte) : List Byte :=
  let n := data.length / 8
  let r := (List.range n).map fun i => ((data.drop (8 * i)).take 8).map (·.toNat)
  let (a, r) := ((List.range (6 * n)).map (· + 1)).foldl (wrapStep n (aesRounds kek)) (wrapIv, r)
  aesBytes (a ++ r.flatten)

/-- AES key unwrap under a key: none where the integrity value does not come out. [log entry 39: PRESUMED] -/
def keyUnwrap (kek data : List Byte) : Option (List Byte) :=
  let n := data.length / 8 - 1
  let b := data.map (·.toNat)
  let r := (List.range n).map fun i => (b.drop (8 * i + 8)).take 8
  let (a, r) := ((List.range (6 * n)).map (· + 1)).reverse.foldl (unwrapStep n (aesRounds kek)) (b.take 8, r)
  if a = wrapIv then some (aesBytes r.flatten) else none

/-- A tweak multiplied by x in GF(2^128), its bytes least significant first (IEEE 1619). -/
def xtsDouble (t : List Nat) : List Nat :=
  let v := 2 * ofLeBytes (aesBytes t)
  let v := if v < 2 ^ 128 then v else Nat.xor (v - 2 ^ 128) 0x87
  (leBytes 16 v).map (·.toNat)

/-- Blocks of a data unit enciphered under the rounds of the data key, from tweak `t`. -/
def xtsBlocks (ks : List (List Nat)) : Nat → List Nat → List Nat → List Nat
  | 0, _, _ => []
  | n + 1, t, b => aesXor (aesEnc ks (aesXor (b.take 16) t)) t ++ xtsBlocks ks n (xtsDouble t) (b.drop 16)

/-- AES-256-XTS of a data unit of whole blocks (R456): a key of 64 bytes, the data key first, and the unit's number. [log entry 39: PRESUMED] -/
def xtsEncrypt (key : List Byte) (unit : Nat) (data : List Byte) : List Byte :=
  let t := aesEnc (aesRounds (key.drop 32)) ((leBytes 16 unit).map (·.toNat))
  aesBytes (xtsBlocks (aesRounds (key.take 32)) (data.length / 16) t (data.map (·.toNat)))

end Sys2Proof.Machine
end

