-- ==== Sys2Proof/Machine/PxrCode.lean ====
section
/-!
DEFINITION. The PXR code as a function of samples (chapter 10, R326, R327, R338 to R348, R351, R352): the CRC, the mosaic's
geometry, the coding and decoding of rows, and the layouts of the units.
-/
namespace Sys2Proof.Machine

/-! ### CRC-32C (R252, R327) -/

/-- One bit of the reflected CRC. -/
def crcBit (c : Nat) : Nat := if c % 2 = 1 then Nat.xor (c / 2) 0x82F63B78 else c / 2

/-- One byte of the reflected CRC. -/
def crcByte (c : Nat) (b : Byte) : Nat :=
  crcBit (crcBit (crcBit (crcBit (crcBit (crcBit (crcBit (crcBit (Nat.xor c b.toNat))))))))

/-- The running CRC over bytes, from a running value. -/
def crcRun (c : Nat) (bs : List Byte) : Nat := bs.foldl crcByte c

/-- The running value before any byte. -/
def crcInit : Nat := 0xFFFFFFFF

/-- The CRC of a running value. -/
def crcEnd (c : Nat) : Nat := Nat.xor c 0xFFFFFFFF

/-- The CRC-32C of bytes. -/
def crc32c (bs : List Byte) : Nat := crcEnd (crcRun crcInit bs)

/-! ### Geometry and parameters (R338 to R341) -/

/-- The mosaic and the format of a stream, as its descriptor holds them (R328). -/
structure PxrGeo where
  bits : Nat := 8
  width : Nat := 0
  lines : Nat := 0
  pw : Nat := 1
  ph : Nat := 1
  xph : Nat := 0
  yph : Nat := 0
  x0 : Nat := 0
  sites : List Nat := []
  bounded : Bool := false
  delta : Nat := 0
  dmax : Nat := 0
  t1 : Nat := 0
  t2 : Nat := 0
  t3 : Nat := 0
  budget : Nat := 0
deriving DecidableEq, Repr

/-- The plane of the site `(xs, ys)`, both taken modulo the period; sites are given as signed offsets. -/
def PxrGeo.planeAt (g : PxrGeo) (xs ys : Int) : Nat :=
  let x := (xs % (g.pw : Int)).toNat
  let y := (ys % (g.ph : Int)).toNat
  g.sites.getD (8 * y + x) 0 / 16

/-- The site of column `x` and frame row `y` before the modulus (R338). -/
def PxrGeo.site (g : PxrGeo) (x y : Nat) : Int × Int := (((g.x0 + x + g.xph : Nat) : Int), ((y + g.yph : Nat) : Int))

/-- The plane of column `x` of frame row `y`. -/
def PxrGeo.plane (g : PxrGeo) (x y : Nat) : Nat := let (a, b) := g.site x y; g.planeAt a b

/-- The planes with a site in frame row `y`, in ascending order. -/
def PxrGeo.planes (g : PxrGeo) (y : Nat) : List Nat :=
  (List.range 16).filter fun p => (List.range g.width).any fun x => g.plane x y == p

/-- The columns of plane `p` in frame row `y` (R338). -/
def PxrGeo.segment (g : PxrGeo) (p y : Nat) : List Nat := (List.range g.width).filter fun x => g.plane x y == p

/-- The first `d` from 1 to `n` that `q` accepts; `n` where none before it does. -/
def firstFrom (n : Nat) (q : Nat → Bool) : Nat := ((List.range n).find? fun i => q (i + 1)).elim n (· + 1)

/-- The largest sample value. -/
def PxrGeo.maxv (g : PxrGeo) : Nat := 2 ^ g.bits - 1

/-- RANGE for an error bound (R340). -/
def PxrGeo.range (g : PxrGeo) (δ : Nat) : Nat := (g.maxv + 2 * δ) / (2 * δ + 1) + 1

/-- The smallest n with 2^n at least `r`. -/
def bitsFor (r : Nat) : Nat := if r ≤ 1 then 0 else Nat.log2 (r - 1) + 1

/-- The table J of R340. -/
def runTable : List Nat :=
  [0, 0, 0, 0, 1, 1, 1, 1, 2, 2, 2, 2, 3, 3, 3, 3, 4, 4, 5, 5, 6, 6, 7, 7, 8, 9, 10, 11, 12, 13, 14, 15]

/-- J[ri]. -/
def runJ (ri : Nat) : Nat := runTable.getD ri 15

/-- The coder's adaptive state: the counts (A, N) of context c of plane p at key 66·p + c, and the run indexes (R341). -/
structure PxrCtx where
  an : Tab (Nat × Nat) := []
  ri : Tab Nat := []
deriving DecidableEq, Repr

/-- The counts a context starts a slice with (R341). -/
def PxrGeo.an0 (g : PxrGeo) : Nat × Nat := (max 2 ((g.range g.delta + 32) / 64), 1)

/-- The four neighbours A, B, C, D of column `x` of frame row `y`: `prev` are the slice's finished rows, the latest first,
`cur` what the row holds so far (R339). -/
def PxrGeo.neighbours (g : PxrGeo) (prev : List (List Nat)) (cur : Tab Nat) (x y : Nat) : Nat × Nat × Nat × Nat :=
  let (sx, sy) := g.site x y
  let p := g.planeAt sx sy
  let dxa := firstFrom g.pw fun d => g.planeAt (sx - d) sy == p
  let dyb := firstFrom g.ph fun d => g.planeAt sx (sy - d) == p
  let dxc := firstFrom g.pw fun d => g.planeAt (sx - d) (sy - dyb) == p
  let dxd := firstFrom g.pw fun d => g.planeAt (sx + d) (sy - dyb) == p
  let above := decide (dyb ≤ prev.length)
  let row := prev.getD (dyb - 1) []
  let b0 := row.getD x 0
  let a := if dxa ≤ x then Tab.get 0 cur (x - dxa) else if above then b0 else 2 ^ (g.bits - 1)
  if above then
    (a, b0, if dxc ≤ x then row.getD (x - dxc) 0 else b0, if x + dxd < g.width then row.getD (x + dxd) 0 else b0)
  else (a, a, a, a)

/-- The absolute difference of two samples. -/
def absDiff (a b : Nat) : Nat := if a < b then b - a else a - b

/-- Whether a sample is coded in run mode (R342). -/
def runMode (δ a b c d : Nat) : Bool := decide (absDiff d b ≤ δ) && decide (absDiff b c ≤ δ) && decide (absDiff c a ≤ δ)

/-- The prediction of a regular sample (R342). -/
def predict (a b c : Nat) : Int :=
  if max a b ≤ c then (min a b : Nat) else if c ≤ min a b then (max a b : Nat) else (a : Int) + b - c

/-- The quantised gradient (R342). -/
def PxrGeo.qz (g : PxrGeo) (x y : Nat) : Nat :=
  let v := absDiff x y
  if v < g.t1 then 0 else if v < g.t2 then 1 else if v < g.t3 then 2 else 3

/-- The context of a regular sample (R342). -/
def PxrGeo.context (g : PxrGeo) (a b c d : Nat) : Nat := 16 * g.qz d b + 4 * g.qz b c + g.qz c a

/-! ### Values (R343) -/

/-- The Golomb parameter of a context. -/
def golombK (an : Nat × Nat) (qbits : Nat) : Nat :=
  ((List.range (qbits + 1)).find? fun k => an.1 ≤ an.2 * 2 ^ k).getD qbits

/-- The counts after a value of magnitude `q`. -/
def anNext (an : Nat × Nat) (q : Nat) : Nat × Nat :=
  let a := an.1 + q
  if an.2 = 64 then (a / 2, 33) else (a, an.2 + 1)

/-- The `n` bits of `v`, the most significant first. -/
def bitsMsb (n v : Nat) : List Bool := ((List.range n).map fun i => bit v (n - 1 - i))

/-- The code word of one value against a prediction, the reconstruction, and the counts after it (R343). -/
def PxrGeo.codeValue (g : PxrGeo) (δ : Nat) (an : Nat × Nat) (x : Nat) (p : Int) : List Bool × Nat × (Nat × Nat) :=
  let r := g.range δ
  let qb := bitsFor r
  let w : Int := 2 * δ + 1
  let e := (x : Int) - p
  let q := if 0 < e then (e + δ) / w else -(((δ : Int) - e) / w)
  let rec_ := (clampI 0 g.maxv (p + q * w)).toNat
  let q := if q < 0 then q + r else q
  let q := if ((r + 1) / 2 : Nat) ≤ q then q - r else q
  let m := if 0 ≤ q then (2 * q).toNat else (-2 * q - 1).toNat
  let k := golombK an qb
  let u := 31 - qb
  let bits :=
    if m / 2 ^ k < u then List.replicate (m / 2 ^ k) false ++ true :: bitsMsb k (m % 2 ^ k)
    else List.replicate u false ++ true :: bitsMsb qb (m - 1)
  (bits, rec_, anNext an q.natAbs)

/-! ### Coding a row (R344 to R346) -/

/-- What coding a row carries along: bits written, contexts, and the samples reconstructed. -/
structure PxrRow where
  bits : List Bool := []
  ctx : PxrCtx := {}
  cur : Tab Nat := []
deriving DecidableEq, Repr

/-- One sample coded in context `c` of plane `p`. -/
def PxrGeo.putValue (g : PxrGeo) (δ p c x v : Nat) (pr : Int) (s : PxrRow) : PxrRow :=
  let key := 66 * p + c
  let (bs, r, an) := g.codeValue δ (Tab.get g.an0 s.ctx.an key) v pr
  { bits := s.bits ++ bs, ctx := { s.ctx with an := Tab.put s.ctx.an key an }, cur := Tab.put s.cur x r }

/-- The run length's ones: the bits, what is left of the count, and the run index (R344). -/
def runOnes : Nat → Nat → Nat → List Bool → List Bool × Nat × Nat
  | 0, cnt, ri, bs => (bs, cnt, ri)
  | fuel + 1, cnt, ri, bs =>
    if 2 ^ runJ ri ≤ cnt then runOnes fuel (cnt - 2 ^ runJ ri) (if ri < 31 then ri + 1 else ri) (bs ++ [true])
    else (bs, cnt, ri)

/-- Codes the samples of a segment (R342 to R345). `xs` are the columns left; `row` the samples of the frame row. -/
def PxrGeo.codeSegment (g : PxrGeo) (δ p y : Nat) (prev : List (List Nat)) (row : List Nat) :
    Nat → List Nat → PxrRow → PxrRow
  | 0, _, s => s
  | _, [], s => s
  | fuel + 1, x :: xs, s =>
    let (a, b, c, d) := g.neighbours prev s.cur x y
    if runMode δ a b c d then
      let run := (x :: xs).takeWhile fun z => decide (absDiff (row.getD z 0) a ≤ δ)
      let rest := (x :: xs).drop run.length
      let (bs, cnt, ri) := runOnes (run.length + 1) run.length (Tab.get 0 s.ctx.ri p) []
      let cur := run.foldl (fun t z => Tab.put t z a) s.cur
      match rest with
      | [] =>
        { bits := s.bits ++ bs ++ (if 0 < cnt then [true] else []), ctx := { s.ctx with ri := Tab.put s.ctx.ri p ri }, cur := cur }
      | z :: zs =>
        let s : PxrRow :=
          { bits := s.bits ++ bs ++ (false :: bitsMsb (runJ ri) cnt)
            ctx := { s.ctx with ri := Tab.put s.ctx.ri p (if 0 < ri then ri - 1 else 0) }
            cur := cur }
        let (a, b, _, _) := g.neighbours prev s.cur z y
        let near := decide (absDiff a b ≤ δ)
        g.codeSegment δ p y prev row fuel zs
          (g.putValue δ p (if near then 64 else 65) z (row.getD z 0) ((if near then a else b : Nat) : Int) s)
    else
      g.codeSegment δ p y prev row fuel xs (g.putValue δ p (g.context a b c d) x (row.getD x 0) (predict a b c) s)

/-- The reconstructed row of a table of columns. -/
def PxrGeo.rowOf (g : PxrGeo) (t : Tab Nat) : List Nat := (List.range g.width).map (Tab.get 0 t)

/-- Codes one regular row: bits without the prefix, contexts after it, and the reconstruction. -/
def PxrGeo.codeRow (g : PxrGeo) (δ y : Nat) (prev : List (List Nat)) (row : List Nat) (c : PxrCtx) :
    List Bool × PxrCtx × List Nat :=
  let s := (g.planes y).foldl (fun s p => g.codeSegment δ p y prev row (g.width + 1) (g.segment p y) s) { ctx := c }
  (s.bits, s.ctx, g.rowOf s.cur)

/-- A REPEAT row's samples (R346). -/
def PxrGeo.repeatRow (g : PxrGeo) (prev : List (List Nat)) : List Nat :=
  if g.ph ≤ prev.length then prev.getD (g.ph - 1) [] else List.replicate g.width (2 ^ (g.bits - 1))

/-- The prefix of a bounded-rate row (R346). -/
def rowPrefix (rep : Bool) (δ : Nat) : List Bool := rep :: [false, false, false] ++ bitsMsb 4 δ

/-- Cap of a bounded-rate slice (R351). -/
def PxrGeo.cap (g : PxrGeo) : Int := 8 * ((g.budget : Int) - 32) - 64

/-- Whether row `r` of a slice of `rows` rows is coded as a regular row after `u` bits (R351). -/
def PxrGeo.rowFits (g : PxrGeo) (u rows r : Nat) : Bool :=
  decide (8 + 48 * (g.width : Int) ≤ g.cap - u - 8 * ((rows : Int) - r - 1))

/-- The error bound after a regular row (R352). -/
def PxrGeo.adjust (g : PxrGeo) (δ u rows r : Nat) : Nat :=
  let lhs : Int := 16 * rows * u
  if 16 * (r + 1) * g.cap + rows * g.cap < lhs then min g.dmax (δ + 1)
  else if lhs < 16 * (r + 1) * g.cap - rows * g.cap then max g.delta (δ - 1)
  else δ

/-! ### Decoding (R347) -/

/-- A decoder's position: bits left, contexts, and the samples of the row so far. -/
structure PxrDec where
  bits : List Bool
  ctx : PxrCtx := {}
  cur : Tab Nat := []
deriving DecidableEq, Repr

/-- read(n): the next n bits as a number; reading beyond the data is an error. -/
def readBits : Nat → List Bool → Nat → Option (Nat × List Bool)
  | 0, bs, acc => some (acc, bs)
  | _ + 1, [], _ => none
  | n + 1, b :: t, acc => readBits n t (2 * acc + b2n b)

/-- The zeros before the next one, at most `limit`. -/
def countZeros : Nat → List Bool → Nat → Option (Nat × List Bool)
  | _, [], _ => none
  | _, true :: t, z => some (z, t)
  | 0, false :: _, _ => none
  | n + 1, false :: t, z => countZeros n t (z + 1)

/-- value(p, c, P). -/
def PxrGeo.getValue (g : PxrGeo) (δ p c x : Nat) (pr : Int) (s : PxrDec) : Option PxrDec :=
  let r := g.range δ
  let qb := bitsFor r
  let u := 31 - qb
  let key := 66 * p + c
  let an := Tab.get g.an0 s.ctx.an key
  let k := golombK an qb
  match countZeros u s.bits 0 with
  | none => none
  | some (z, bs) =>
    match (if z < u then (readBits k bs 0).map fun y => (z * 2 ^ k + y.1, y.2) else (readBits qb bs 0).map fun y => (y.1 + 1, y.2)) with
    | none => none
    | some (m, bs) =>
      if r ≤ m then none
      else
        let w : Int := 2 * δ + 1
        let q : Int := if m % 2 = 0 then (m / 2 : Nat) else -((m + 1) / 2 : Nat)
        let v := pr + q * w
        let v := if v < -(δ : Int) then v + r * w else if (g.maxv + δ : Nat) < v then v - r * w else v
        some { bits := bs, ctx := { s.ctx with an := Tab.put s.ctx.an key (anNext an q.natAbs) },
               cur := Tab.put s.cur x (clampI 0 g.maxv v).toNat }

/-- decode_segment: `inRun` is the run value while the inner loop goes on. -/
def PxrGeo.decodeSegment (g : PxrGeo) (δ p y : Nat) (prev : List (List Nat)) :
    Nat → Option Nat → List Nat → PxrDec → Option PxrDec
  | 0, _, _, _ => none
  | _, _, [], s => some s
  | fuel + 1, some v, x :: xs, s =>
    match s.bits with
    | [] => none
    | true :: bs =>
      let ri := Tab.get 0 s.ctx.ri p
      let cnt := min (2 ^ runJ ri) (xs.length + 1)
      let cur := ((x :: xs).take cnt).foldl (fun t z => Tab.put t z v) s.cur
      let ri' := if cnt = 2 ^ runJ ri ∧ ri < 31 then ri + 1 else ri
      g.decodeSegment δ p y prev fuel (some v) ((x :: xs).drop cnt)
        { bits := bs, ctx := { s.ctx with ri := Tab.put s.ctx.ri p ri' }, cur := cur }
    | false :: bs =>
      let ri := Tab.get 0 s.ctx.ri p
      match readBits (runJ ri) bs 0 with
      | none => none
      | some (cnt, bs) =>
        let cur := ((x :: xs).take cnt).foldl (fun t z => Tab.put t z v) s.cur
        match (x :: xs).drop cnt with
        | [] => none
        | z :: zs =>
          let s : PxrDec := { bits := bs, ctx := { s.ctx with ri := Tab.put s.ctx.ri p (if 0 < ri then ri - 1 else 0) }, cur := cur }
          let (a, b, _, _) := g.neighbours prev s.cur z y
          let near := decide (absDiff a b ≤ δ)
          match g.getValue δ p (if near then 64 else 65) z ((if near then a else b : Nat) : Int) s with
          | none => none
          | some s => g.decodeSegment δ p y prev fuel none zs s
  | fuel + 1, none, x :: xs, s =>
    let (a, b, c, d) := g.neighbours prev s.cur x y
    if runMode δ a b c d then g.decodeSegment δ p y prev fuel (some a) (x :: xs) s
    else
      match g.getValue δ p (g.context a b c d) x (predict a b c) s with
      | none => none
      | some s => g.decodeSegment δ p y prev fuel none xs s

/-- Decodes the segments of a row in ascending plane order. -/
def PxrGeo.decodePlanes (g : PxrGeo) (δ y : Nat) (prev : List (List Nat)) : List Nat → PxrDec → Option PxrDec
  | [], s => some s
  | p :: ps, s =>
    match g.decodeSegment δ p y prev (3 * g.width + 3) none (g.segment p y) s with
    | none => none
    | some s => g.decodePlanes δ y prev ps s

/-- The rows of a slice decoded before an error, each with whether it is a REPEAT row, and whether the slice is sound to its
end. `prev` are the rows so far, the latest first. -/
def PxrGeo.decodeRows (g : PxrGeo) : Nat → Nat → List (List Nat) → List Bool → PxrDec → List (List Nat) × List Bool × Bool
  | 0, _, prev, reps, s => (prev.reverse, reps.reverse, decide (s.bits.length < 64) && s.bits.all fun b => !b)
  | n + 1, y, prev, reps, s =>
    let fail := (prev.reverse, reps.reverse, false)
    if g.bounded then
      match readBits 8 s.bits 0 with
      | none => fail
      | some (pre, bs) =>
        let δ := pre % 16
        if slice pre 6 4 ≠ 0 ∨ δ < g.delta ∨ g.dmax < δ then fail
        else if bit pre 7 then g.decodeRows n (y + 1) (g.repeatRow prev :: prev) (true :: reps) { s with bits := bs, cur := [] }
        else
          match g.decodePlanes δ y prev (g.planes y) { s with bits := bs, cur := [] } with
          | none => fail
          | some s => g.decodeRows n (y + 1) (g.rowOf s.cur :: prev) (false :: reps) s
    else
      match g.decodePlanes g.delta y prev (g.planes y) { s with cur := [] } with
      | none => fail
      | some s => g.decodeRows n (y + 1) (g.rowOf s.cur :: prev) (false :: reps) s

/-- The bits of bytes, each from its most significant bit down (R326). -/
def bitsOfBytes (bs : List Byte) : List Bool := bs.flatMap fun b => bitsMsb 8 b.toNat

/-- decode_slice on the coded data of a slice. -/
def PxrGeo.decodeSlice (g : PxrGeo) (y0 rows : Nat) (data : List Byte) : List (List Nat) × List Bool × Bool :=
  g.decodeRows rows y0 [] [] { bits := bitsOfBytes data }

/-! ### Units (R325 to R337) -/

/-- The ten bytes of a PTP time: nanoseconds, seconds low, seconds high. -/
def ptpBytes (ns sec : Nat) : List Byte := leBytes 4 ns ++ leBytes 4 sec ++ leBytes 2 (sec / 2 ^ 32)

/-- `bs` followed by its CRC. -/
def withCrc (bs : List Byte) : List Byte := bs ++ leBytes 4 (crc32c bs)

/-- The bytes of a stream descriptor (R328). -/
def descBytes (g : PxrGeo) (src stripe drep take : Nat) (nplane : Nat) : List Byte :=
  withCrc (leBytes 4 0x44525850 ++ [1, BitVec.ofNat 8 g.bits, BitVec.ofNat 8 src, BitVec.ofNat 8 (b2n g.bounded)] ++
    leBytes 2 g.width ++ leBytes 2 g.lines ++
    [BitVec.ofNat 8 (g.pw + 16 * g.ph), BitVec.ofNat 8 nplane, BitVec.ofNat 8 (g.xph + 16 * g.yph),
     BitVec.ofNat 8 (g.delta + (if g.bounded then 16 * g.dmax else 0))] ++
    ((List.range 64).map fun i => BitVec.ofNat 8 (g.sites.getD i 0)) ++
    leBytes 4 stripe ++ leBytes 2 g.x0 ++ leBytes 2 drep ++ leBytes 4 g.t1 ++ leBytes 4 g.t2 ++ leBytes 4 g.t3 ++
    leBytes 4 (if g.bounded then g.budget else 0) ++ leBytes 4 take ++ List.replicate 16 0)

/-- The bytes of a frame header (R331). -/
def frameHeader (g : PxrGeo) (src seq fn ns sec dcrc take : Nat) : List Byte :=
  withCrc (leBytes 4 0x46525850 ++ [1, BitVec.ofNat 8 g.bits, BitVec.ofNat 8 src, 0] ++ leBytes 4 seq ++ leBytes 2 fn ++
    leBytes 2 (ceilDiv g.lines 64) ++ ptpBytes ns sec ++ leBytes 2 g.width ++ leBytes 2 g.lines ++ [0, 0] ++
    leBytes 4 dcrc ++ leBytes 4 take ++ List.replicate 20 0)

/-- The bytes of a slice header (R332). -/
def sliceHeader (g : PxrGeo) (sidx rows seq : Nat) : List Byte :=
  let h := leBytes 4 0x53525850 ++ leBytes 2 sidx ++ [BitVec.ofNat 8 rows, BitVec.ofNat 8 (b2n g.bounded)] ++
    leBytes 2 (64 * sidx) ++ leBytes 2 seq ++ [0, 0]
  h ++ leBytes 2 (crc32c h)

/-- The slice index and the frame trailer (R333); `body` is the length up to the index. -/
def frameTrailer (offsets : List Nat) (flags seq body ns sec : Nat) : List Byte :=
  let idx := offsets.flatMap (leBytes 4) ++ (if offsets.length % 2 = 1 then leBytes 4 0 else [])
  let t := leBytes 4 0x45525850 ++ [BitVec.ofNat 8 flags, 0] ++ leBytes 2 offsets.length ++ leBytes 4 seq ++
    leBytes 4 (body + idx.length + 32) ++ ptpBytes ns sec ++ [0, 0]
  idx ++ t ++ leBytes 4 (crc32c (idx ++ t))

/-- What a gap record says (R336). -/
structure GapRec where
  form : Nat
  cause : Nat
  who : Nat
  seq : Nat
  nseq : Nat
  index : Nat
  fn : Nat := 0
  start : Nat × Nat
  fin : Nat × Nat
  take : Nat
deriving DecidableEq, Repr

/-- The bytes of a gap record (R336); times are (nanoseconds, seconds). -/
def GapRec.bytes (r : GapRec) : List Byte :=
  withCrc (leBytes 4 0x47525850 ++ [1, BitVec.ofNat 8 r.form, BitVec.ofNat 8 r.cause, BitVec.ofNat 8 r.who] ++ leBytes 4 r.seq ++
    [BitVec.ofNat 8 r.nseq, BitVec.ofNat 8 r.index] ++ leBytes 2 r.fn ++ ptpBytes r.start.1 r.start.2 ++ [0, 0] ++
    (if r.form = 2 then List.replicate 10 0xFF else ptpBytes r.fin.1 r.fin.2) ++ [0, 0] ++ leBytes 4 r.take)

end Sys2Proof.Machine
end

