-- ==== Sys2Proof/Machine/Link.lean ====
section
/-!
DEFINITION. The codes of the serial links: blocks and their scrambler, training blocks, test patterns (chapter 6), and the packet layer
of CSI-2: header and its ECC, footer, sample packing (chapter 7).
-/
namespace Sys2Proof.Machine

/-! ### Blocks (R225, R226) -/

/-- A block from its 66 bits in the order of the wire: the sync header's first bit is its upper one; the payload follows least significant
bit first (R225). -/
def rxBlock (raw : BitVec 66) : RxBlock := ⟨2 * (raw.toNat % 2) + raw.toNat / 2 % 2, raw.toNat / 4⟩

/-- The 66 bits of a block in the order of the wire. -/
def blkWire (b : RxBlock) : BitVec 66 := BitVec.ofNat 66 (b.hdr / 2 % 2 + 2 * (b.hdr % 2) + 4 * (b.pay % 2 ^ 64))

/-- The block as an inverted lane carries it: the sync headers 0b01 and 0b10 swap and the payload is complemented (R230). -/
def blkInv (b : RxBlock) : RxBlock := ⟨3 - b.hdr, 2 ^ 64 - 1 - b.pay⟩

/-- Whether the sync header is one of the two valid ones (R225). -/
def blkValid (b : RxBlock) : Bool := b.hdr == 1 || b.hdr == 2

/-- Byte `i` of a block's payload. -/
def blkByte (b : RxBlock) (i : Nat) : Nat := b.pay / 2 ^ (8 * i) % 256

/-- The payload's eight bytes in order. -/
def blkBytes (b : RxBlock) : List Byte := leBytes 8 b.pay

/-- One bit of the scrambler x⁵⁸ + x³⁹ + 1: what is added to the bit, `h` holding the latest 58 bits of the line, the latest in bit 0 (R225). -/
def scrBit (h : Nat) : Nat := (h / 2 ^ 38 + h / 2 ^ 57) % 2

/-- `n` bits through the descrambler, least significant first, with the line's bits after them. -/
def descramble : Nat → Nat → Nat → Nat × Nat
  | 0, h, _ => (0, h)
  | n + 1, h, v =>
    let r := descramble n ((2 * h + v % 2) % 2 ^ 58) (v / 2)
    ((v + scrBit h) % 2 + 2 * r.1, r.2)

/-- `n` bits through the scrambler, least significant first, with the line's bits after them. -/
def scramble : Nat → Nat → Nat → Nat × Nat
  | 0, h, _ => (0, h)
  | n + 1, h, v =>
    let b := (v + scrBit h) % 2
    let r := scramble n ((2 * h + b) % 2 ^ 58) (v / 2)
    (b + 2 * r.1, r.2)

/-- One bit of the CRC-8 with polynomial x⁸ + x² + x + 1. -/
def crc8Bit (c : Nat) : Nat := if c < 128 then 2 * c else Nat.xor (2 * c - 256) 7

/-- The CRC-8 of a training block, most significant bit first: initial value 0, no final inversion (R226). -/
def crc8 (bs : List Byte) : Nat :=
  bs.foldl (fun c b => crc8Bit (crc8Bit (crc8Bit (crc8Bit (crc8Bit (crc8Bit (crc8Bit (crc8Bit (Nat.xor c b.toNat))))))))) 0

/-- The fields of a training block (R226): whether its CRC is good, TS1 or TS2, LID, NLANE, RATE, SEQ, RDY and PORT. -/
structure TrainBlock where
  crcOk : Bool := true
  ts2 : Bool := false
  lid : Nat := 0
  nlane : Nat := 0
  rate : Nat := 0
  seq : Nat := 0
  rdy : Bool := false
  port : Nat := 0
deriving DecidableEq, Repr

/-- The training block a block is, if it is one: a control block with BT 0xD2 or 0xD3 (R226). -/
def trainOf (b : RxBlock) : Option TrainBlock :=
  if b.hdr = 2 ∧ (blkByte b 0 = 0xD2 ∨ blkByte b 0 = 0xD3) then
    some { crcOk := crc8 ((blkBytes b).take 7) == blkByte b 7, ts2 := blkByte b 0 == 0xD3, lid := blkByte b 1 / 16, nlane := blkByte b 1 % 16,
           rate := blkByte b 2, seq := blkByte b 3, rdy := bit (blkByte b 4) 0, port := blkByte b 5 }
  else none

/-- The block that carries a training block's fields (R226). -/
def TrainBlock.block (t : TrainBlock) : RxBlock :=
  let body := leBytes 7 ((if t.ts2 then 0xD3 else 0xD2) + 2 ^ 8 * (t.nlane % 16 + 16 * (t.lid % 16)) + 2 ^ 16 * (t.rate % 256) +
    2 ^ 24 * (t.seq % 256) + 2 ^ 32 * b2n t.rdy + 2 ^ 40 * (t.port % 256))
  ⟨2, ofLeBytes body + 2 ^ 56 * crc8 body⟩

/-! ### Test patterns (R245) -/

/-- The order of a pattern's LFSR and its second tap; the values 5 to 7 of PAT use PRBS31. -/
def prbsPoly (pat : Nat) : Nat × Nat :=
  match pat with
  | 0 => (7, 6)
  | 1 => (9, 5)
  | 2 => (15, 14)
  | 3 => (23, 18)
  | _ => (31, 28)

/-- The next bit of a pattern, `h` holding the latest bits, the latest in bit 0. -/
def prbsNext (pat h : Nat) : Nat := (h / 2 ^ ((prbsPoly pat).1 - 1) + h / 2 ^ ((prbsPoly pat).2 - 1)) % 2

/-- The latest bits after one more. -/
def prbsShift (pat h b : Nat) : Nat := (2 * h + b) % 2 ^ (prbsPoly pat).1

/-- `n` bits of the generator from register `h`, inverted where INV is set, and the register after them. -/
def prbsGen (pat : Nat) (inv : Bool) : Nat → Nat → List Bool × Nat
  | 0, h => ([], h)
  | n + 1, h =>
    let b := prbsNext pat h
    let r := prbsGen pat inv n (prbsShift pat h b)
    (((b == 1) != inv) :: r.1, r.2)

/-- A checker (R247): the latest bits of its register, how many of them it has been given, the correct bits in a row while it seeks lock,
and, while it is locked, which of the latest 128 bits were wrong. -/
structure PrbsChk where
  reg : Nat := 0
  fed : Nat := 0
  run : Nat := 0
  lock : Bool := false
  wrong : List Bool := []
deriving DecidableEq, Repr

/-- What one received bit is to a checker: not compared, right, wrong, or the wrong bit that loses the lock. -/
inductive PrbsSeen where
  | none | right | wrong | lost
deriving DecidableEq, Repr

/-- One received bit at a checker (R247): its first bits seed it; 64 correct ones in a row lock it; locked, its register runs on by
itself, and with more than 32 of the latest 128 bits wrong it seeds itself again. -/
def PrbsChk.rx (c : PrbsChk) (pat : Nat) (b : Bool) : PrbsSeen × PrbsChk :=
  let seed := { c with reg := prbsShift pat c.reg (b2n b), fed := c.fed + 1 }
  if c.fed < (prbsPoly pat).1 then (.none, seed)
  else
    let want := prbsNext pat c.reg
    let bad := want != b2n b
    if c.lock then
      let l := (bad :: c.wrong).take 128
      if 32 < (l.filter id).length then (.lost, {})
      else (if bad then .wrong else .right, { c with reg := prbsShift pat c.reg want, wrong := l })
    else if bad then (.none, { seed with run := 0, fed := c.fed })
    else (.none, { seed with run := c.run + 1, lock := decide (64 ≤ c.run + 1), fed := c.fed })

/-! ### The packet layer of CSI-2 (R254) -/

/-- The parity column of each of the 26 header bits that the ECC covers: DI, WC and VCX, least significant bit first (CSI-2).
[log entry 42: PRESUMED] -/
def eccCols : List Nat :=
  [0x07, 0x0B, 0x0D, 0x0E, 0x13, 0x15, 0x16, 0x19, 0x1A, 0x1C, 0x23, 0x25, 0x26, 0x29, 0x2A, 0x2C, 0x31, 0x32, 0x34, 0x38, 0x1F, 0x2F,
   0x37, 0x3B, 0x3D, 0x3E]

/-- The ECC of 26 header bits. -/
def eccOf (v : Nat) : Nat := (bitsOf v 26).foldl (fun e i => Nat.xor e (eccCols.getD i 0)) 0

/-- What a packet header says once its ECC has been applied: the check's finding, DI, WC and VCX (R254); one wrong bit is corrected, in the
ECC itself too. [log entry 42: PRESUMED] -/
def csiHeader (h : Nat) : Flaw × Nat :=
  let v := h % 2 ^ 24 + 2 ^ 24 * (h / 2 ^ 30 % 4)
  let s := Nat.xor (eccOf v) (h / 2 ^ 24 % 64)
  if s = 0 then (.ok, v)
  else if (List.range 6).any fun i => s == 2 ^ i then (.single, v)
  else
    match findPos (fun c => c == s) eccCols 0 with
    | some (i, _) => (.single, Nat.xor v (2 ^ i))
    | none => (.multiple, v)

/-- The data type of header bits. -/
def hdrDt (v : Nat) : Nat := v % 64

/-- The virtual channel: VCX followed by DI[7:6]. -/
def hdrVc (v : Nat) : Nat := 4 * (v / 2 ^ 24 % 4) + v / 64 % 4

/-- The word count, or the data field of a short packet. -/
def hdrWc (v : Nat) : Nat := v / 256 % 2 ^ 16

/-- The four header bytes, byte 0 least significant, of a virtual channel, a data type and a word count or data field. -/
def headerOf (vc dt wc : Nat) : BitVec 32 :=
  let v := dt % 64 + 64 * (vc % 4) + 256 * (wc % 2 ^ 16) + 2 ^ 24 * (vc / 4 % 4)
  BitVec.ofNat 32 (v % 2 ^ 24 + 2 ^ 24 * eccOf v + 2 ^ 30 * (v / 2 ^ 24))

/-- One bit of the footer's CRC-16, x¹⁶ + x¹² + x⁵ + 1, least significant bit first. -/
def crc16Bit (c : Nat) : Nat := if c % 2 = 1 then Nat.xor (c / 2) 0x8408 else c / 2

/-- The CRC-16 of a long packet's payload, from 0xFFFF (CSI-2). -/
def crc16 (bs : List Byte) : Nat :=
  bs.foldl (fun c b => crc16Bit (crc16Bit (crc16Bit (crc16Bit (crc16Bit (crc16Bit (crc16Bit (crc16Bit (Nat.xor c b.toNat))))))))) 0xFFFF

/-- The sample depth of a RAW data type (R254); 8 for the others, which the loader rejects. -/
def rawBits (dt : Nat) : Nat :=
  match dt with
  | 0x2B => 10
  | 0x2C => 12
  | 0x2D => 14
  | 0x2E => 16
  | 0x2F => 20
  | _ => 8

/-- The samples of RAW10: four high bytes, then the low bits of the four. -/
def unpack10 : List Nat → List Nat
  | a :: b :: c :: d :: l :: t => (4 * a + l % 4) :: (4 * b + l / 4 % 4) :: (4 * c + l / 16 % 4) :: (4 * d + l / 64) :: unpack10 t
  | _ => []

/-- The samples of RAW12: two high bytes, then the low bits of the two. -/
def unpack12 : List Nat → List Nat
  | a :: b :: l :: t => (16 * a + l % 16) :: (16 * b + l / 16) :: unpack12 t
  | _ => []

/-- The samples of RAW14: four high bytes, then the low six bits of the four from the least significant bit of three bytes up. -/
def unpack14 : List Nat → List Nat
  | a :: b :: c :: d :: x :: y :: z :: t =>
    let l := x + 256 * y + 65536 * z
    (64 * a + l % 64) :: (64 * b + l / 64 % 64) :: (64 * c + l / 4096 % 64) :: (64 * d + l / 262144) :: unpack14 t
  | _ => []

/-- Pairs of values joined, the first being the upper one of `w` bits: RAW16 is two RAW8 values and RAW20 two RAW10 values. -/
def joinPairs (w : Nat) : List Nat → List Nat
  | a :: b :: t => (2 ^ w * a + b) :: joinPairs w t
  | _ => []

/-- The samples that payload bytes of a RAW data type hold, packed as CSI-2 defines (R254). -/
def rawSamples (dt : Nat) (bs : List Nat) : List Nat :=
  match dt with
  | 0x2B => unpack10 bs
  | 0x2C => unpack12 bs
  | 0x2D => unpack14 bs
  | 0x2E => joinPairs 8 bs
  | 0x2F => joinPairs 10 (unpack10 bs)
  | _ => bs

/-- The bytes of an HS burst in order: byte i travels on data lane i modulo the number of lanes (CSI-2 lane distribution, R261). -/
def mergeLanes (lanes : List (List Byte)) : List Byte :=
  (List.range ((lanes.map List.length).foldl max 0)).flatMap fun i => lanes.filterMap fun l => l[i]?

end Sys2Proof.Machine
end

