-- ==== Sys2Proof/Machine/RegId.lean ====
section
/-!
DEFINITION. The names of the registers: one constructor per register of the spec's register summaries (the tables
"Name | Offset | Access | Reset" of the chapters). A register that exists once per pipe, channel, entry and so on is one
name; which one is meant stands in the key of a field (Store.lean). The Hub's racking engine, Hub casks, Hub Press and the
Quadrille lanes have the pipes' registers under another prefix (RACKH_, RACKH_CASK_, PRESSH_, QDL_LN_): here they are the
same names with instance 4.
-/
namespace Sys2Proof.Machine

/-- The blocks of a device slot (R557) and of a pipe window (R558). -/
inductive BlockId where
  | PCTL | LANE | SFE | TRL | CASK | RACK | VRS | STAT
  | PXR | BLK | DRC | CELP | NET | SDI | PRESS_P | PTHM
  | HUB_CTL | EVT | TIME | AUD | PANEL | SENSE | OPIO | THERM
  | PRESS_H | BIST | SECU | QDL | CEL | RACK_H | CUVL
deriving DecidableEq, Repr

/-- The reset domains (R14); `always` is the always-on domain, which no reset affects. -/
inductive Dom where
  | cold | warm | pipe | flr | queue | always
deriving DecidableEq, Repr

/-- The access codes of a field (R10, R11); `cvrw` is the racking channels' "CV or RW". -/
inductive Access where
  | rw | ro | w1c | w1s | wo | cv | rws | cvrw
deriving DecidableEq, Repr

/-- The registers. -/
inductive RegId where
  | PCTL_ARUN_CFG | PCTL_ARUN_STAT | PCTL_ARUN_TNS | PCTL_ARUN_TS_LO | PCTL_ARUN_TS_HI
  | PCTL_ARUN_FRAMES | PCTL_CTL | PCTL_STAT | PCTL_PACE_STAT | PCTL_PAUSE_MAN
  | PCTL_PAUSE_EFF | PCTL_STALL_CFG | PCTL_STALL_LOC | PCTL_STALL_CNT_LO | PCTL_STALL_CNT_HI
  | PCTL_PSENS | PCTL_CLM_CFG | PCTL_CLM_SENS | PCTL_CLM_RUNG | PCTL_CLM_MASK
  | HUB_GOV_CTL | HUB_GOV_LIM | HUB_GOV_LOOP | HUB_GOV_TIME | HUB_GOV_STAT
  | HUB_GOV_PMB | HUB_PAUSE_MAN | HUB_PAUSE_EFF | CASK_GSTAT | CASK_CORR_CNT_LO
  | CASK_CORR_CNT_HI | CASK_UNC_CNT_LO | CASK_UNC_CNT_HI | CASK_PSN_LAST | CASK_CFG
  | CASK_BIND | CASK_TTO | CASK_CTL | CASK_STAT | CASK_ECC
  | RACK_GSTAT | RACK_CH_CFG | RACK_RING_LO | RACK_RING_HI | RACK_TAIL
  | RACK_HEAD | RACK_CH_CTL | RACK_CH_STAT | RACK_BYTES_LO | RACK_BYTES_HI
  | TRL_CTL | TRL_STAT | TRL_CORR_CNT_LO | TRL_CORR_CNT_HI | TRL_UNC_CNT_LO
  | TRL_UNC_CNT_HI | TRL_LM_ADDR | TRL_LM_DATA | TRL_LM_STAT | TRL_MON_SEL
  | TRL_MON_RES | TRL_FAULT | TRL_RST_CNT_LO | TRL_RST_CNT_HI | TRL_RPR_FAIL
  | TRL_RPR_CLR | TRL_RPR_MAP | TRL_REG_CFG | TRL_REG_STAT | TRL_TILE_CFG
  | CUVL_CTL | CUVL_GO | CUVL_CFG | CUVL_SRC_LO | CUVL_SRC_HI
  | CUVL_LEN | CUVL_STAT | CUVL_ERR | CUVL_ERR_DET | CUVL_REFUSE
  | CUVL_BASE | CUVL_GEN | CUVL_SVN | CUVL_DIGEST | LANE_SCFG
  | LANE_REFCFG | LANE_FCFG | LANE_RETRY | LANE_CTL | LANE_SNAP
  | LANE_REFSTAT | LANE_ROLE_STAT | LANE_CTLE | LANE_TXFIR | LANE_STAT
  | LANE_PRBS_CTL | LANE_PRBS_STAT | LANE_HDR_ERR_LO | LANE_HDR_ERR_HI | LANE_DOWN_CNT_LO
  | LANE_DOWN_CNT_HI | LANE_PRBS_ERR_LO | LANE_PRBS_ERR_HI | LANE_PRBS_BITS_LO | LANE_PRBS_BITS_HI
  | LANE_SNAP_ERR_LO | LANE_SNAP_ERR_HI | LANE_SNAP_BITS_LO | LANE_SNAP_BITS_HI | SFE_STAT
  | SFE_HP_CFG | SFE_HP_STAT | SFE_TS_CORR | SFE_STRIPE | SFE_STRIPE_X0
  | SFE_DPHY_CFG | SFE_ID_SERIAL | SFE_ID_INSERT | SFE_ID_MODE | SFE_I3C_CFG
  | SFE_I3C_CMD | SFE_I3C_STAT | SFE_I3C_BUF | SFE_VCG | SFE_VCL
  | SFE_VCT | SFE_ERR_CNT_LO | SFE_ERR_CNT_HI | VRS_CORR_CNT_LO | VRS_CORR_CNT_HI
  | VRS_UNC_CNT_LO | VRS_UNC_CNT_HI | VRS_MOS_VC | VRS_MOS_CFG | VRS_MOS_SITE
  | VRS_CFG | VRS_CROP | VRS_BANK_CTL | VRS_BANK_STAT | VRS_LATE_CNT_LO
  | VRS_LATE_CNT_HI | VRS_TRD_ADDR | VRS_TRD_DATA | VRS_TRD_STAT | VRS_TPORT
  | STAT_CFG | STAT_SIZE | STAT_COL0 | STAT_ORG | STAT_ZONE
  | STAT_CHMAP | STAT_LUMA | STAT_RD | STAT_HIST | HUB_STM_CFG
  | HUB_STM_RING_LO | HUB_STM_RING_HI | HUB_STM_HEAD | HUB_STM_TAIL | PXR_ENC_CFG
  | PXR_ENC_BUDGET | PXR_ENC_TAKE | PXR_CNT_FRAMES_LO | PXR_CNT_FRAMES_HI | PXR_CNT_GAPS_LO
  | PXR_CNT_GAPS_HI | PXR_CNT_REPEAT_LO | PXR_CNT_REPEAT_HI | PXR_CNT_DSLICE_LO | PXR_CNT_DSLICE_HI
  | PXR_CNT_BYTES_LO | PXR_CNT_BYTES_HI | PXR_ENC_VCC | PXR_ENC_VSTAT | PXR_ENC_VSEQ
  | PXR_DEC_CTL | PXR_DEC_CFG | PXR_DEC_SRC_LO | PXR_DEC_SRC_HI | PXR_DEC_SLEN
  | PXR_DEC_DSC_LO | PXR_DEC_DSC_HI | PXR_DEC_DST_LO | PXR_DEC_DST_HI | PXR_DEC_DLEN
  | PXR_DEC_STRIDE | PXR_DEC_STAT | PXR_DEC_RES | PXR_DEC_SEQ | PXR_DEC_MAP_LO
  | PXR_DEC_MAP_HI | BLK_STAT | BLK_CNT_LO | BLK_CNT_HI | BLK_CTXCFG
  | BLK_CTXRATE | BLK_CTX_UPD | BLK_RCADJ | BLK_ROI_A | BLK_ROI_B
  | BLK_SCFG | BLK_SSIZE | BLK_STILE | BLK_SGOP | BLK_SPORT
  | BLK_RCT | BLK_RCM | BLK_RCQ | BLK_RCB | BLK_SSTAT
  | BLK_SCTL | BLK_DEC_CTL | BLK_DEC_CFG | BLK_DEC_SRC_LO | BLK_DEC_SRC_HI
  | BLK_DEC_SLEN | BLK_DEC_POOL_LO | BLK_DEC_POOL_HI | BLK_DEC_DST_LO | BLK_DEC_DST_HI
  | BLK_DEC_DLEN | BLK_DEC_STRIDE | BLK_DEC_STAT | BLK_DEC_RES | BLK_DEC_PLEN
  | BLK_DEC_BUDGET | HUB_ASM_CFG | HUB_ASM_RING_LO | HUB_ASM_RING_HI | HUB_ASM_HEAD
  | HUB_ASM_TAIL | HUB_ASM_STAT | CEL_TAKE_CMD | CEL_TAKE_ARG | CEL_TAKE_STAT
  | CEL_TAKE_NUM | CEL_SHARE_STAT | CEL_SHARE | CEL_TSTAT | CELP_RB_LVL
  | CELP_RB_STAT | CELP_TQ_CFG | CELP_TQ_CTL | CELP_TQ_STAT | CELP_STRM_NS
  | CELP_STRM_SLBA_LO | CELP_STRM_SLBA_HI | CELP_STRM_NLB | CELP_STRM_CMD | CELP_STRM_RES
  | CELP_LOCK_STAT | CELP_LOCKWAIT_CNT_LO | CELP_LOCKWAIT_CNT_HI | CEL_KEK | CEL_SAN_STAT
  | CELP_CART_CFG | CELP_CART_CMD | CELP_CART_STAT | CELP_CART_SERIAL | CELP_CART_MGEN
  | CELP_RBLD_STAT | CELP_STRM_TAG | DRC_PHY_CFG | DRC_INIT | DRC_STAT
  | DRC_MAP_CFG | DRC_SEED | DRC_HOT_CFG | DRC_HOT_STAT | DRC_SR_CFG
  | DRC_FCHG | DRC_FCHG_STAT | DRC_SCRUB | DRC_CORR_CNT_LO | DRC_CORR_CNT_HI
  | DRC_UNC_CNT_LO | DRC_UNC_CNT_HI | DRC_ELOG_STAT | DRC_RGN_BASE | DRC_RGN_SIZE
  | DRC_ELOG | TIME_CTL | TIME_CFG | TIME_PTP | TIME_SERVO
  | TIME_STAT | TIME_NOW_NS | TIME_NOW_S_LO | TIME_NOW_S_HI | TIME_OFFSET
  | TIME_RATE | TIME_PDELAY | TIME_STEP_S | TIME_STEP_NS | TIME_UTC
  | TIME_PLAN | TIME_STEER | TIME_TC_CFG | TIME_TC_VAL | NET_TIME_NS
  | NET_TIME_S_LO | NET_TIME_S_HI | NET_TIME_STAT | NET_PORT_CFG | NET_PORT_MAC_LO
  | NET_PORT_MAC_HI | NET_TS_CORR | NET_TXTS_LO | NET_TXTS_HI | NET_TXTS_OVF_LO
  | NET_TXTS_OVF_HI | NET_CNT_LO | NET_CNT_HI | NET_LO_CFG | NET_LO_RATE
  | NET_LO_TIME | NET_LO_PKT | NET_LO_SIZE | NET_LO_BUF | NET_LO_STAT
  | NET_LO_CNT_LO | NET_LO_CNT_HI | NET_LO_HDR | SDI_LO_CFG | SDI_LO_STAT
  | PRESS_GSTAT | PRESS_IN_CNT_LO | PRESS_IN_CNT_HI | PRESS_OUT_CNT_LO | PRESS_OUT_CNT_HI
  | PRESS_FAIL_CNT_LO | PRESS_FAIL_CNT_HI | PRESS_RING_CFG | PRESS_RING_LO | PRESS_RING_HI
  | PRESS_TAIL | PRESS_HEAD | PRESS_RING_CTL | PRESS_RING_STAT | QDL_ID
  | QDL_CTL | QDL_PEER | QDL_TAKE_CFG | QDL_ILV_PER | QDL_TAKE_STAT
  | QDL_TIME_STAT | EVT_CTL | EVT_STAT | EVT_OVR | EVT_YLOG_CFG
  | EVT_YLOG_RING_LO | EVT_YLOG_RING_HI | EVT_YLOG_HEAD | EVT_YLOG_TAIL | EVT_SRC_CFG
  | EVT_SYN | EVT_COAL | HUB_PCIE_STAT | HUB_PASM_CFG | HUB_PASM_LINES
  | HUB_PASM_W01 | HUB_PASM_W23 | HUB_PASM_STAT | PANEL_CFG | PANEL_SIZE
  | PANEL_DSC | PANEL_SURF_CFG | PANEL_S0_LO | PANEL_S0_HI | PANEL_S1_LO
  | PANEL_S1_HI | PANEL_TUNE | PANEL_PUSH | PANEL_STAT | PANEL_CRC_EXP
  | PANEL_CRC_PAD | PANEL_DCS | PANEL_DCS_DATA | PANEL_CNT_LO | PANEL_CNT_HI
  | PANEL_RGN_A | PANEL_RGN_B | AUD_GCFG | AUD_TRIG_CMD | AUD_TRIG_NS
  | AUD_TRIG_S_LO | AUD_TRIG_S_HI | AUD_TRIG_STAT | AUD_TRIG_FRAME_LO | AUD_TRIG_FRAME_HI
  | AUD_PCFG | AUD_PTIME | AUD_CNT_LO | AUD_CNT_HI | AUD_XCFG
  | AUD_XRING_LO | AUD_XRING_HI | AUD_XHOST | AUD_XDEV | AUD_XSTAT
  | AUD_SCFG | AUD_SSTAT | SENSE_ADC_CFG | SENSE_ADC_TIMER | SENSE_ADC_CTL
  | SENSE_ADC_STAT | SENSE_ADC_FIFO | SENSE_ADC_LIST | SENSE_ADC_CH | SENSE_ADC_RES
  | SENSE_ADC_COR | SENSE_ADC_CAL | SENSE_ADC_CALSTAT | SENSE_ADC_CNT_LO | SENSE_ADC_CNT_HI
  | SENSE_PWM_CFG | SENSE_PWM_PER | SENSE_PWM_DUTY | SENSE_PWM_CTL | SENSE_SW_CFG
  | SENSE_SW_AUX | SENSE_SW_STAT | SENSE_BO_CFG | SENSE_BO_STAT | OPIO_KEY_CFG
  | OPIO_KEY_EN_LO | OPIO_KEY_EN_HI | OPIO_KEY_STATE_LO | OPIO_KEY_STATE_HI | OPIO_KEY_FIFO
  | OPIO_KEY_FTIME | OPIO_KEY_STAT | OPIO_ENC_CFG | OPIO_ENC_POS | OPIO_ENC_ERR_LO
  | OPIO_ENC_ERR_HI | OPIO_TCH_CFG | OPIO_TCH_EN | OPIO_TCH_STATE | OPIO_TCH_RAW
  | THERM_CFG | THERM_THR | THERM_CTL | THERM_STAT | THERM_LAST
  | THERM_LAST_S | THERM_SENS | PTHM_SENS | PTHM_STAT | HUB_ID
  | HUB_SERIAL_LO | HUB_SERIAL_HI | HUB_LCS | HUB_RST_CTL | HUB_RST_CAUSE
  | HUB_BOOT_STAT | HUB_BOOT_OK | HUB_BOOT_CFG | HUB_BOOT_CNT | HUB_FALLOW
  | HUB_BOOT_LOG | HUB_STBY_CFG | HUB_STBY_CTL | HUB_STBY_STAT | HUB_WAKE
  | HUB_AON_SEC | HUB_FLASH_SRC_LO | HUB_FLASH_SRC_HI | HUB_FLASH_OFF | HUB_FLASH_LEN
  | HUB_FLASH_CMD | BIST_CMD | BIST_CTL | BIST_STAT | BIST_CFG
  | BIST_SIG_LO | BIST_SIG_HI | BIST_LOG | SECU_STAT | SECU_ALARM
  | SECU_CMD | SECU_RES | SECU_ADDR_LO | SECU_ADDR_HI | SECU_NONCE
  | SECU_SLOT
deriving DecidableEq, Repr

/-- A field of a register: its bits, its access code and the value its reset domain restores. -/
structure Fld where
  reg : RegId
  hi : Nat
  lo : Nat
  acc : Access
  rst : Nat
deriving DecidableEq, Repr

/-- A register as the summary tables give it: block, offset of the first one, the indexes (stride, first number, count),
reset domain, fields from high bits to low. -/
structure RegInfo where
  blk : BlockId
  off : Nat
  dims : List (Nat × Nat × Nat)
  dom : Dom
  flds : List Fld
deriving DecidableEq, Repr

end Sys2Proof.Machine
end

