-- ==== Sys2Proof/Machine/Fields.lean ====
section
/-!
DEFINITION. The fields of every register, from the register tables of the chapters (bits, access code, reset value).
Reserved bits are no field: they read 0 and discard writes (R11).
-/
namespace Sys2Proof.Machine

/-! ### Pipes, the Hub and the order of guarantees -/

def F.PCTL_ARUN_CFG_LIMIT : Fld := ⟨.PCTL_ARUN_CFG, 10, 0, .rw, 0x4b0⟩

def F.PCTL_ARUN_STAT_VALID : Fld := ⟨.PCTL_ARUN_STAT, 31, 31, .rws, 0⟩
def F.PCTL_ARUN_STAT_END : Fld := ⟨.PCTL_ARUN_STAT, 30, 28, .rws, 0⟩
def F.PCTL_ARUN_STAT_YIELDS : Fld := ⟨.PCTL_ARUN_STAT, 23, 0, .rws, 0⟩

def F.PCTL_ARUN_TNS_NS : Fld := ⟨.PCTL_ARUN_TNS, 31, 0, .rws, 0⟩

def F.PCTL_ARUN_TS_LO_S_LO : Fld := ⟨.PCTL_ARUN_TS_LO, 31, 0, .rws, 0⟩

def F.PCTL_ARUN_TS_HI_S_HI : Fld := ⟨.PCTL_ARUN_TS_HI, 15, 0, .rws, 0⟩

def F.PCTL_ARUN_FRAMES_FRAMES : Fld := ⟨.PCTL_ARUN_FRAMES, 31, 0, .rws, 0⟩

/-! ### Self-timed operation -/

def F.PCTL_CTL_PWRUP : Fld := ⟨.PCTL_CTL, 1, 1, .wo, 0⟩
def F.PCTL_CTL_PRST : Fld := ⟨.PCTL_CTL, 0, 0, .wo, 0⟩

def F.PCTL_STAT_TAKE : Fld := ⟨.PCTL_STAT, 7, 7, .ro, 0⟩
def F.PCTL_STAT_GATE_LATCH : Fld := ⟨.PCTL_STAT, 6, 6, .ro, 0⟩
def F.PCTL_STAT_STATE : Fld := ⟨.PCTL_STAT, 2, 0, .ro, 0⟩

def F.PCTL_PACE_STAT_MARGIN : Fld := ⟨.PCTL_PACE_STAT, 31, 20, .ro, 0⟩
def F.PCTL_PACE_STAT_CLAIM : Fld := ⟨.PCTL_PACE_STAT, 12, 8, .ro, 0⟩
def F.PCTL_PACE_STAT_SHORT : Fld := ⟨.PCTL_PACE_STAT, 7, 7, .ro, 0⟩
def F.PCTL_PACE_STAT_NOCLAIM : Fld := ⟨.PCTL_PACE_STAT, 6, 6, .ro, 1⟩
def F.PCTL_PACE_STAT_SHED : Fld := ⟨.PCTL_PACE_STAT, 2, 0, .ro, 0⟩

def F.PCTL_PAUSE_MAN_STAGING : Fld := ⟨.PCTL_PAUSE_MAN, 29, 24, .rw, 0⟩
def F.PCTL_PAUSE_MAN_SHEDCTX : Fld := ⟨.PCTL_PAUSE_MAN, 21, 16, .rw, 0⟩
def F.PCTL_PAUSE_MAN_RACKBG : Fld := ⟨.PCTL_PAUSE_MAN, 13, 8, .rw, 0⟩
def F.PCTL_PAUSE_MAN_PRESS : Fld := ⟨.PCTL_PAUSE_MAN, 5, 0, .rw, 0⟩

def F.PCTL_PAUSE_EFF_STAGING : Fld := ⟨.PCTL_PAUSE_EFF, 29, 24, .ro, 0⟩
def F.PCTL_PAUSE_EFF_SHEDCTX : Fld := ⟨.PCTL_PAUSE_EFF, 21, 16, .ro, 0⟩
def F.PCTL_PAUSE_EFF_RACKBG : Fld := ⟨.PCTL_PAUSE_EFF, 13, 8, .ro, 0⟩
def F.PCTL_PAUSE_EFF_PRESS : Fld := ⟨.PCTL_PAUSE_EFF, 5, 0, .ro, 0⟩

def F.PCTL_STALL_CFG_STALL_T : Fld := ⟨.PCTL_STALL_CFG, 2, 0, .rw, 4⟩

def F.PCTL_STALL_LOC_VALID : Fld := ⟨.PCTL_STALL_LOC, 31, 31, .rws, 0⟩
def F.PCTL_STALL_LOC_LATCH : Fld := ⟨.PCTL_STALL_LOC, 30, 30, .rws, 0⟩
def F.PCTL_STALL_LOC_STAGE : Fld := ⟨.PCTL_STALL_LOC, 27, 24, .rws, 0⟩
def F.PCTL_STALL_LOC_INST : Fld := ⟨.PCTL_STALL_LOC, 15, 0, .rws, 0⟩

def F.PCTL_STALL_CNT_LO_CNT_LO : Fld := ⟨.PCTL_STALL_CNT_LO, 31, 0, .rw, 0⟩

def F.PCTL_STALL_CNT_HI_SAT : Fld := ⟨.PCTL_STALL_CNT_HI, 31, 31, .ro, 0⟩
def F.PCTL_STALL_CNT_HI_CNT_HI : Fld := ⟨.PCTL_STALL_CNT_HI, 15, 0, .rw, 0⟩

def F.PCTL_PSENS_VALID : Fld := ⟨.PCTL_PSENS, 31, 31, .ro, 0⟩
def F.PCTL_PSENS_FAULT : Fld := ⟨.PCTL_PSENS, 30, 30, .ro, 0⟩
def F.PCTL_PSENS_PEAK_PS : Fld := ⟨.PCTL_PSENS, 23, 12, .ro, 0⟩
def F.PCTL_PSENS_PACE_PS : Fld := ⟨.PCTL_PSENS, 11, 0, .ro, 0⟩

def F.PCTL_CLM_CFG_VALID : Fld := ⟨.PCTL_CLM_CFG, 31, 31, .cv, 0⟩
def F.PCTL_CLM_CFG_REC : Fld := ⟨.PCTL_CLM_CFG, 30, 30, .cv, 0⟩
def F.PCTL_CLM_CFG_REMAP : Fld := ⟨.PCTL_CLM_CFG, 29, 29, .cv, 0⟩
def F.PCTL_CLM_CFG_CLAIM_PS : Fld := ⟨.PCTL_CLM_CFG, 11, 0, .cv, 0⟩

def F.PCTL_CLM_SENS_SENS : Fld := ⟨.PCTL_CLM_SENS, 23, 0, .cv, 0⟩

def F.PCTL_CLM_RUNG_RUNG_LO : Fld := ⟨.PCTL_CLM_RUNG, 31, 0, .cv, 0⟩

def F.PCTL_CLM_MASK_LIVE : Fld := ⟨.PCTL_CLM_MASK, 31, 16, .cv, 0⟩
def F.PCTL_CLM_MASK_RUNG_HI : Fld := ⟨.PCTL_CLM_MASK, 7, 0, .cv, 0⟩

def F.HUB_GOV_CTL_VMAN : Fld := ⟨.HUB_GOV_CTL, 25, 16, .rw, 0x30c⟩
def F.HUB_GOV_CTL_MODE : Fld := ⟨.HUB_GOV_CTL, 1, 0, .rw, 0⟩

def F.HUB_GOV_LIM_VIDLE : Fld := ⟨.HUB_GOV_LIM, 29, 20, .rw, 0x2bc⟩
def F.HUB_GOV_LIM_VMAX : Fld := ⟨.HUB_GOV_LIM, 19, 10, .rw, 0x352⟩
def F.HUB_GOV_LIM_VMIN : Fld := ⟨.HUB_GOV_LIM, 9, 0, .rw, 0x26c⟩

def F.HUB_GOV_LOOP_SETTLE : Fld := ⟨.HUB_GOV_LOOP, 31, 24, .rw, 0x28⟩
def F.HUB_GOV_LOOP_STEP_DN : Fld := ⟨.HUB_GOV_LOOP, 23, 20, .rw, 5⟩
def F.HUB_GOV_LOOP_STEP_UP : Fld := ⟨.HUB_GOV_LOOP, 19, 16, .rw, 0xa⟩
def F.HUB_GOV_LOOP_GUARD_HI : Fld := ⟨.HUB_GOV_LOOP, 15, 8, .rw, 0x2d⟩
def F.HUB_GOV_LOOP_GUARD_LO : Fld := ⟨.HUB_GOV_LOOP, 7, 0, .rw, 0x14⟩

def F.HUB_GOV_TIME_SHED_DENS : Fld := ⟨.HUB_GOV_TIME, 21, 16, .rw, 0x3f⟩
def F.HUB_GOV_TIME_DN_HOLD : Fld := ⟨.HUB_GOV_TIME, 15, 0, .rw, 0x3e8⟩

def F.HUB_GOV_STAT_MARGIN : Fld := ⟨.HUB_GOV_STAT, 31, 20, .ro, 0⟩
def F.HUB_GOV_STAT_SHED : Fld := ⟨.HUB_GOV_STAT, 19, 19, .ro, 0⟩
def F.HUB_GOV_STAT_AT_VMAX : Fld := ⟨.HUB_GOV_STAT, 18, 18, .ro, 0⟩
def F.HUB_GOV_STAT_PIPE : Fld := ⟨.HUB_GOV_STAT, 17, 16, .ro, 0⟩
def F.HUB_GOV_STAT_STATE : Fld := ⟨.HUB_GOV_STAT, 15, 13, .ro, 0⟩
def F.HUB_GOV_STAT_FCAUSE : Fld := ⟨.HUB_GOV_STAT, 12, 10, .ro, 0⟩
def F.HUB_GOV_STAT_VCMD : Fld := ⟨.HUB_GOV_STAT, 9, 0, .ro, 0⟩

def F.HUB_GOV_PMB_PEC : Fld := ⟨.HUB_GOV_PMB, 17, 17, .rw, 1⟩
def F.HUB_GOV_PMB_SPEED : Fld := ⟨.HUB_GOV_PMB, 16, 16, .rw, 0⟩
def F.HUB_GOV_PMB_PAGE : Fld := ⟨.HUB_GOV_PMB, 15, 8, .rw, 0⟩
def F.HUB_GOV_PMB_PAGE_EN : Fld := ⟨.HUB_GOV_PMB, 7, 7, .rw, 0⟩
def F.HUB_GOV_PMB_ADDR : Fld := ⟨.HUB_GOV_PMB, 6, 0, .rw, 0x40⟩

def F.HUB_PAUSE_MAN_STAGING : Fld := ⟨.HUB_PAUSE_MAN, 29, 24, .rw, 0⟩
def F.HUB_PAUSE_MAN_RACKBG : Fld := ⟨.HUB_PAUSE_MAN, 13, 8, .rw, 0⟩
def F.HUB_PAUSE_MAN_PRESS : Fld := ⟨.HUB_PAUSE_MAN, 5, 0, .rw, 0⟩

def F.HUB_PAUSE_EFF_STAGING : Fld := ⟨.HUB_PAUSE_EFF, 29, 24, .ro, 0⟩
def F.HUB_PAUSE_EFF_RACKBG : Fld := ⟨.HUB_PAUSE_EFF, 13, 8, .ro, 0⟩
def F.HUB_PAUSE_EFF_PRESS : Fld := ⟨.HUB_PAUSE_EFF, 5, 0, .ro, 0⟩

/-! ### Casks and the racking engine -/

def F.CASK_GSTAT_TALLOC : Fld := ⟨.CASK_GSTAT, 27, 16, .ro, 0⟩
def F.CASK_GSTAT_ALLOC : Fld := ⟨.CASK_GSTAT, 13, 0, .ro, 0⟩

def F.CASK_CORR_CNT_LO_CNT_LO : Fld := ⟨.CASK_CORR_CNT_LO, 31, 0, .rw, 0⟩

def F.CASK_CORR_CNT_HI_SAT : Fld := ⟨.CASK_CORR_CNT_HI, 31, 31, .ro, 0⟩
def F.CASK_CORR_CNT_HI_CNT_HI : Fld := ⟨.CASK_CORR_CNT_HI, 15, 0, .rw, 0⟩

def F.CASK_UNC_CNT_LO_CNT_LO : Fld := ⟨.CASK_UNC_CNT_LO, 31, 0, .rw, 0⟩

def F.CASK_UNC_CNT_HI_SAT : Fld := ⟨.CASK_UNC_CNT_HI, 31, 31, .ro, 0⟩
def F.CASK_UNC_CNT_HI_CNT_HI : Fld := ⟨.CASK_UNC_CNT_HI, 15, 0, .rw, 0⟩

def F.CASK_PSN_LAST_VALID : Fld := ⟨.CASK_PSN_LAST, 31, 31, .ro, 0⟩
def F.CASK_PSN_LAST_CASK : Fld := ⟨.CASK_PSN_LAST, 22, 16, .ro, 0⟩
def F.CASK_PSN_LAST_WORD : Fld := ⟨.CASK_PSN_LAST, 11, 0, .ro, 0⟩

def F.CASK_CFG_EN : Fld := ⟨.CASK_CFG, 31, 31, .cv, 0⟩
def F.CASK_CFG_BASE : Fld := ⟨.CASK_CFG, 25, 13, .cv, 0⟩
def F.CASK_CFG_DEPTH : Fld := ⟨.CASK_CFG, 8, 0, .cv, 0⟩

def F.CASK_BIND_CONS : Fld := ⟨.CASK_BIND, 31, 16, .cv, 0⟩
def F.CASK_BIND_PROD : Fld := ⟨.CASK_BIND, 15, 0, .cv, 0⟩

def F.CASK_TTO_TEVT : Fld := ⟨.CASK_TTO, 31, 31, .cv, 0⟩
def F.CASK_TTO_UNIT : Fld := ⟨.CASK_TTO, 11, 10, .cv, 0⟩
def F.CASK_TTO_VAL : Fld := ⟨.CASK_TTO, 9, 0, .cv, 0⟩

def F.CASK_CTL_FLUSH : Fld := ⟨.CASK_CTL, 0, 0, .wo, 0⟩

def F.CASK_STAT_EN : Fld := ⟨.CASK_STAT, 31, 31, .ro, 0⟩
def F.CASK_STAT_OPEN : Fld := ⟨.CASK_STAT, 30, 30, .ro, 0⟩
def F.CASK_STAT_DISCARD : Fld := ⟨.CASK_STAT, 29, 29, .ro, 0⟩
def F.CASK_STAT_CREDITS : Fld := ⟨.CASK_STAT, 25, 13, .ro, 0⟩
def F.CASK_STAT_LEVEL : Fld := ⟨.CASK_STAT, 12, 0, .ro, 0⟩

def F.CASK_ECC_CSAT : Fld := ⟨.CASK_ECC, 31, 31, .ro, 0⟩
def F.CASK_ECC_PSN : Fld := ⟨.CASK_ECC, 30, 30, .w1c, 0⟩
def F.CASK_ECC_CORR : Fld := ⟨.CASK_ECC, 15, 0, .rw, 0⟩

def F.RACK_GSTAT_HALTED : Fld := ⟨.RACK_GSTAT, 15, 0, .ro, 0⟩

def F.RACK_CH_CFG_EN : Fld := ⟨.RACK_CH_CFG, 31, 31, .cvrw, 0⟩
def F.RACK_CH_CFG_RANK : Fld := ⟨.RACK_CH_CFG, 30, 28, .cvrw, 0⟩
def F.RACK_CH_CFG_RSIZE : Fld := ⟨.RACK_CH_CFG, 23, 20, .cvrw, 0⟩
def F.RACK_CH_CFG_RLOC : Fld := ⟨.RACK_CH_CFG, 19, 18, .cvrw, 0⟩

def F.RACK_RING_LO_BASE_LO : Fld := ⟨.RACK_RING_LO, 31, 5, .cvrw, 0⟩

def F.RACK_RING_HI_BASE_HI : Fld := ⟨.RACK_RING_HI, 31, 0, .cvrw, 0⟩

def F.RACK_TAIL_TAIL : Fld := ⟨.RACK_TAIL, 15, 0, .rw, 0⟩

def F.RACK_HEAD_HEAD : Fld := ⟨.RACK_HEAD, 15, 0, .ro, 0⟩

def F.RACK_CH_CTL_RESUME : Fld := ⟨.RACK_CH_CTL, 1, 1, .wo, 0⟩
def F.RACK_CH_CTL_ABORT : Fld := ⟨.RACK_CH_CTL, 0, 0, .wo, 0⟩

def F.RACK_CH_STAT_STATE : Fld := ⟨.RACK_CH_STAT, 31, 29, .ro, 0⟩
def F.RACK_CH_STAT_LSTATUS : Fld := ⟨.RACK_CH_STAT, 23, 16, .ro, 0⟩
def F.RACK_CH_STAT_HIDX : Fld := ⟨.RACK_CH_STAT, 15, 0, .ro, 0⟩

def F.RACK_BYTES_LO_CNT_LO : Fld := ⟨.RACK_BYTES_LO, 31, 0, .rw, 0⟩

def F.RACK_BYTES_HI_SAT : Fld := ⟨.RACK_BYTES_HI, 31, 31, .ro, 0⟩
def F.RACK_BYTES_HI_CNT_HI : Fld := ⟨.RACK_BYTES_HI, 15, 0, .rw, 0⟩

/-! ### The Trellis pixel fabric -/

def F.TRL_CTL_VIEW : Fld := ⟨.TRL_CTL, 0, 0, .rw, 0⟩

def F.TRL_STAT_RUNNING : Fld := ⟨.TRL_STAT, 31, 16, .ro, 0⟩
def F.TRL_STAT_FAULTED : Fld := ⟨.TRL_STAT, 15, 0, .ro, 0⟩

def F.TRL_CORR_CNT_LO_CNT_LO : Fld := ⟨.TRL_CORR_CNT_LO, 31, 0, .rw, 0⟩

def F.TRL_CORR_CNT_HI_SAT : Fld := ⟨.TRL_CORR_CNT_HI, 31, 31, .ro, 0⟩
def F.TRL_CORR_CNT_HI_CNT_HI : Fld := ⟨.TRL_CORR_CNT_HI, 15, 0, .rw, 0⟩

def F.TRL_UNC_CNT_LO_CNT_LO : Fld := ⟨.TRL_UNC_CNT_LO, 31, 0, .rw, 0⟩

def F.TRL_UNC_CNT_HI_SAT : Fld := ⟨.TRL_UNC_CNT_HI, 31, 31, .ro, 0⟩
def F.TRL_UNC_CNT_HI_CNT_HI : Fld := ⟨.TRL_UNC_CNT_HI, 15, 0, .rw, 0⟩

def F.TRL_LM_ADDR_STORE : Fld := ⟨.TRL_LM_ADDR, 31, 31, .rw, 0⟩
def F.TRL_LM_ADDR_UNIT : Fld := ⟨.TRL_LM_ADDR, 30, 24, .rw, 0⟩
def F.TRL_LM_ADDR_WORD : Fld := ⟨.TRL_LM_ADDR, 19, 0, .rw, 0⟩

def F.TRL_LM_DATA_DATA : Fld := ⟨.TRL_LM_DATA, 31, 0, .ro, 0⟩

def F.TRL_LM_STAT_VALID : Fld := ⟨.TRL_LM_STAT, 31, 31, .ro, 0⟩
def F.TRL_LM_STAT_UNC : Fld := ⟨.TRL_LM_STAT, 30, 30, .ro, 0⟩
def F.TRL_LM_STAT_CORR : Fld := ⟨.TRL_LM_STAT, 29, 29, .ro, 0⟩
def F.TRL_LM_STAT_PSN : Fld := ⟨.TRL_LM_STAT, 2, 2, .ro, 0⟩
def F.TRL_LM_STAT_EOF : Fld := ⟨.TRL_LM_STAT, 1, 1, .ro, 0⟩
def F.TRL_LM_STAT_EOL : Fld := ⟨.TRL_LM_STAT, 0, 0, .ro, 0⟩

def F.TRL_MON_SEL_EN : Fld := ⟨.TRL_MON_SEL, 31, 31, .rw, 0⟩
def F.TRL_MON_SEL_WIN : Fld := ⟨.TRL_MON_SEL, 23, 16, .rw, 0⟩
def F.TRL_MON_SEL_ELEM : Fld := ⟨.TRL_MON_SEL, 10, 0, .rw, 0⟩

def F.TRL_MON_RES_VALID : Fld := ⟨.TRL_MON_RES, 31, 31, .ro, 0⟩
def F.TRL_MON_RES_BUSY : Fld := ⟨.TRL_MON_RES, 23, 16, .ro, 0⟩
def F.TRL_MON_RES_STARVE : Fld := ⟨.TRL_MON_RES, 15, 8, .ro, 0⟩
def F.TRL_MON_RES_BLOCK : Fld := ⟨.TRL_MON_RES, 7, 0, .ro, 0⟩

def F.TRL_FAULT_VALID : Fld := ⟨.TRL_FAULT, 31, 31, .rws, 0⟩
def F.TRL_FAULT_KIND : Fld := ⟨.TRL_FAULT, 30, 28, .rws, 0⟩
def F.TRL_FAULT_UNIT : Fld := ⟨.TRL_FAULT, 22, 16, .rws, 0⟩
def F.TRL_FAULT_REGION : Fld := ⟨.TRL_FAULT, 15, 12, .rws, 0⟩
def F.TRL_FAULT_ELEM : Fld := ⟨.TRL_FAULT, 3, 0, .rws, 0⟩

def F.TRL_RST_CNT_LO_CNT_LO : Fld := ⟨.TRL_RST_CNT_LO, 31, 0, .rw, 0⟩

def F.TRL_RST_CNT_HI_SAT : Fld := ⟨.TRL_RST_CNT_HI, 31, 31, .ro, 0⟩
def F.TRL_RST_CNT_HI_CNT_HI : Fld := ⟨.TRL_RST_CNT_HI, 15, 0, .rw, 0⟩

def F.TRL_RPR_FAIL_FAIL : Fld := ⟨.TRL_RPR_FAIL, 16, 0, .w1s, 0⟩

def F.TRL_RPR_CLR_CLR : Fld := ⟨.TRL_RPR_CLR, 16, 0, .wo, 0⟩

def F.TRL_RPR_MAP_USED : Fld := ⟨.TRL_RPR_MAP, 31, 31, .ro, 0⟩
def F.TRL_RPR_MAP_PENDING : Fld := ⟨.TRL_RPR_MAP, 30, 30, .ro, 0⟩
def F.TRL_RPR_MAP_LSLOT : Fld := ⟨.TRL_RPR_MAP, 3, 0, .ro, 0⟩

def F.TRL_REG_CFG_EN : Fld := ⟨.TRL_REG_CFG, 31, 31, .cv, 0⟩
def F.TRL_REG_CFG_TIMEOUT : Fld := ⟨.TRL_REG_CFG, 9, 0, .cv, 0⟩

def F.TRL_REG_STAT_STATE : Fld := ⟨.TRL_REG_STAT, 31, 29, .ro, 0⟩
def F.TRL_REG_STAT_REMAP : Fld := ⟨.TRL_REG_STAT, 28, 28, .ro, 0⟩
def F.TRL_REG_STAT_CAUSE : Fld := ⟨.TRL_REG_STAT, 27, 24, .ro, 0⟩

def F.TRL_TILE_CFG_EN : Fld := ⟨.TRL_TILE_CFG, 31, 31, .cv, 0⟩
def F.TRL_TILE_CFG_REGION : Fld := ⟨.TRL_TILE_CFG, 3, 0, .cv, 0⟩

/-! ### The cuvée bit-stream -/

def F.CUVL_CTL_ABORT : Fld := ⟨.CUVL_CTL, 1, 1, .wo, 0⟩
def F.CUVL_CTL_STAGE : Fld := ⟨.CUVL_CTL, 0, 0, .wo, 0⟩

def F.CUVL_GO_GO : Fld := ⟨.CUVL_GO, 0, 0, .wo, 0⟩

def F.CUVL_CFG_SWTO : Fld := ⟨.CUVL_CFG, 25, 16, .rw, 0x32⟩
def F.CUVL_CFG_CLOSE : Fld := ⟨.CUVL_CFG, 8, 8, .rw, 0⟩
def F.CUVL_CFG_SRC : Fld := ⟨.CUVL_CFG, 1, 0, .rw, 0⟩

def F.CUVL_SRC_LO_ADDR_LO : Fld := ⟨.CUVL_SRC_LO, 31, 2, .rw, 0⟩

def F.CUVL_SRC_HI_ADDR_HI : Fld := ⟨.CUVL_SRC_HI, 31, 0, .rw, 0⟩

def F.CUVL_LEN_LEN : Fld := ⟨.CUVL_LEN, 26, 0, .rw, 0⟩

def F.CUVL_STAT_STATE : Fld := ⟨.CUVL_STAT, 31, 29, .ro, 0⟩
def F.CUVL_STAT_FORCED : Fld := ⟨.CUVL_STAT, 28, 28, .ro, 0⟩
def F.CUVL_STAT_PIPES : Fld := ⟨.CUVL_STAT, 23, 20, .ro, 0⟩
def F.CUVL_STAT_PENDING : Fld := ⟨.CUVL_STAT, 19, 16, .ro, 0⟩
def F.CUVL_STAT_PROGRESS : Fld := ⟨.CUVL_STAT, 7, 0, .ro, 0⟩

def F.CUVL_ERR_CODE : Fld := ⟨.CUVL_ERR, 31, 24, .ro, 0⟩
def F.CUVL_ERR_SECTION : Fld := ⟨.CUVL_ERR, 23, 22, .ro, 0⟩
def F.CUVL_ERR_WORD : Fld := ⟨.CUVL_ERR, 21, 0, .ro, 0⟩

def F.CUVL_ERR_DET_DETAIL : Fld := ⟨.CUVL_ERR_DET, 31, 0, .ro, 0⟩

def F.CUVL_REFUSE_GO : Fld := ⟨.CUVL_REFUSE, 1, 1, .w1c, 0⟩
def F.CUVL_REFUSE_STAGE : Fld := ⟨.CUVL_REFUSE, 0, 0, .w1c, 0⟩

def F.CUVL_BASE_BASE : Fld := ⟨.CUVL_BASE, 15, 0, .rw, 0⟩

def F.CUVL_GEN_VALID : Fld := ⟨.CUVL_GEN, 31, 31, .ro, 0⟩
def F.CUVL_GEN_SWITCHING : Fld := ⟨.CUVL_GEN, 30, 30, .ro, 0⟩
def F.CUVL_GEN_GEN : Fld := ⟨.CUVL_GEN, 15, 0, .ro, 0⟩

def F.CUVL_SVN_LAST : Fld := ⟨.CUVL_SVN, 22, 16, .ro, 0⟩
def F.CUVL_SVN_FLOOR : Fld := ⟨.CUVL_SVN, 6, 0, .ro, 0⟩

def F.CUVL_DIGEST_D : Fld := ⟨.CUVL_DIGEST, 31, 0, .ro, 0⟩

/-! ### Serial lanes -/

def F.LANE_SCFG_DPOL : Fld := ⟨.LANE_SCFG, 29, 24, .cv, 0⟩
def F.LANE_SCFG_SMASK : Fld := ⟨.LANE_SCFG, 21, 16, .cv, 0⟩
def F.LANE_SCFG_SRATE : Fld := ⟨.LANE_SCFG, 5, 4, .cv, 0⟩
def F.LANE_SCFG_SMODE : Fld := ⟨.LANE_SCFG, 1, 0, .cv, 0⟩

def F.LANE_REFCFG_SREF : Fld := ⟨.LANE_REFCFG, 8, 8, .cv, 0⟩
def F.LANE_REFCFG_FREFB : Fld := ⟨.LANE_REFCFG, 5, 4, .cv, 0⟩
def F.LANE_REFCFG_FREFA : Fld := ⟨.LANE_REFCFG, 1, 0, .cv, 0⟩

def F.LANE_FCFG_TXPOL : Fld := ⟨.LANE_FCFG, 7, 7, .cv, 0⟩
def F.LANE_FCFG_RXPOL : Fld := ⟨.LANE_FCFG, 6, 6, .cv, 0⟩
def F.LANE_FCFG_RSFEC : Fld := ⟨.LANE_FCFG, 5, 5, .cv, 0⟩
def F.LANE_FCFG_REFSEL : Fld := ⟨.LANE_FCFG, 4, 4, .cv, 0⟩
def F.LANE_FCFG_ROLE : Fld := ⟨.LANE_FCFG, 3, 0, .cv, 0⟩

def F.LANE_RETRY_INT : Fld := ⟨.LANE_RETRY, 31, 24, .rw, 0x32⟩
def F.LANE_RETRY_T : Fld := ⟨.LANE_RETRY, 15, 0, .rw, 0xc8⟩

def F.LANE_CTL_RETRAIN : Fld := ⟨.LANE_CTL, 11, 0, .wo, 0⟩

def F.LANE_SNAP_SNAP : Fld := ⟨.LANE_SNAP, 11, 0, .wo, 0⟩

def F.LANE_REFSTAT_FAULT : Fld := ⟨.LANE_REFSTAT, 10, 8, .w1c, 0⟩
def F.LANE_REFSTAT_OK : Fld := ⟨.LANE_REFSTAT, 2, 0, .ro, 0⟩

def F.LANE_ROLE_STAT_STATE : Fld := ⟨.LANE_ROLE_STAT, 31, 29, .ro, 0⟩
def F.LANE_ROLE_STAT_FCAUSE : Fld := ⟨.LANE_ROLE_STAT, 28, 25, .ro, 0⟩
def F.LANE_ROLE_STAT_ORDER : Fld := ⟨.LANE_ROLE_STAT, 24, 23, .ro, 0⟩
def F.LANE_ROLE_STAT_ELAPSED : Fld := ⟨.LANE_ROLE_STAT, 15, 0, .ro, 0⟩

def F.LANE_CTLE_ADAPT : Fld := ⟨.LANE_CTLE, 31, 31, .rw, 1⟩
def F.LANE_CTLE_FREEZE : Fld := ⟨.LANE_CTLE, 30, 30, .rw, 0⟩
def F.LANE_CTLE_NOW : Fld := ⟨.LANE_CTLE, 12, 8, .ro, 0⟩
def F.LANE_CTLE_MAN : Fld := ⟨.LANE_CTLE, 4, 0, .rw, 0xc⟩

def F.LANE_TXFIR_POST : Fld := ⟨.LANE_TXFIR, 20, 16, .rw, 8⟩
def F.LANE_TXFIR_MAIN : Fld := ⟨.LANE_TXFIR, 13, 8, .rw, 0x30⟩
def F.LANE_TXFIR_PRE : Fld := ⟨.LANE_TXFIR, 3, 0, .rw, 0⟩

def F.LANE_STAT_SIG : Fld := ⟨.LANE_STAT, 31, 31, .ro, 0⟩
def F.LANE_STAT_CDR : Fld := ⟨.LANE_STAT, 30, 30, .ro, 0⟩
def F.LANE_STAT_BLOCK : Fld := ⟨.LANE_STAT, 29, 29, .ro, 0⟩
def F.LANE_STAT_POLINV : Fld := ⟨.LANE_STAT, 28, 28, .ro, 0⟩
def F.LANE_STAT_STAGE : Fld := ⟨.LANE_STAT, 27, 24, .ro, 0⟩
def F.LANE_STAT_LID : Fld := ⟨.LANE_STAT, 23, 20, .ro, 0⟩
def F.LANE_STAT_NLANE : Fld := ⟨.LANE_STAT, 19, 16, .ro, 0⟩
def F.LANE_STAT_PORT : Fld := ⟨.LANE_STAT, 15, 8, .ro, 0⟩
def F.LANE_STAT_SKEW : Fld := ⟨.LANE_STAT, 5, 0, .ro, 0⟩

def F.LANE_PRBS_CTL_CHK_EN : Fld := ⟨.LANE_PRBS_CTL, 31, 31, .rw, 0⟩
def F.LANE_PRBS_CTL_GEN_EN : Fld := ⟨.LANE_PRBS_CTL, 30, 30, .rw, 0⟩
def F.LANE_PRBS_CTL_INV : Fld := ⟨.LANE_PRBS_CTL, 29, 29, .rw, 0⟩
def F.LANE_PRBS_CTL_LOOP : Fld := ⟨.LANE_PRBS_CTL, 28, 28, .rw, 0⟩
def F.LANE_PRBS_CTL_TEST : Fld := ⟨.LANE_PRBS_CTL, 27, 27, .rw, 0⟩
def F.LANE_PRBS_CTL_TRATE : Fld := ⟨.LANE_PRBS_CTL, 19, 16, .rw, 0⟩
def F.LANE_PRBS_CTL_PAT : Fld := ⟨.LANE_PRBS_CTL, 2, 0, .rw, 0⟩

def F.LANE_PRBS_STAT_LOCK : Fld := ⟨.LANE_PRBS_STAT, 31, 31, .ro, 0⟩
def F.LANE_PRBS_STAT_SLOSS : Fld := ⟨.LANE_PRBS_STAT, 30, 30, .w1c, 0⟩
def F.LANE_PRBS_STAT_REFUSED : Fld := ⟨.LANE_PRBS_STAT, 29, 29, .w1c, 0⟩

def F.LANE_HDR_ERR_LO_CNT_LO : Fld := ⟨.LANE_HDR_ERR_LO, 31, 0, .rw, 0⟩

def F.LANE_HDR_ERR_HI_SAT : Fld := ⟨.LANE_HDR_ERR_HI, 31, 31, .ro, 0⟩
def F.LANE_HDR_ERR_HI_CNT_HI : Fld := ⟨.LANE_HDR_ERR_HI, 15, 0, .rw, 0⟩

def F.LANE_DOWN_CNT_LO_CNT_LO : Fld := ⟨.LANE_DOWN_CNT_LO, 31, 0, .rw, 0⟩

def F.LANE_DOWN_CNT_HI_SAT : Fld := ⟨.LANE_DOWN_CNT_HI, 31, 31, .ro, 0⟩
def F.LANE_DOWN_CNT_HI_CNT_HI : Fld := ⟨.LANE_DOWN_CNT_HI, 15, 0, .rw, 0⟩

def F.LANE_PRBS_ERR_LO_CNT_LO : Fld := ⟨.LANE_PRBS_ERR_LO, 31, 0, .rw, 0⟩

def F.LANE_PRBS_ERR_HI_SAT : Fld := ⟨.LANE_PRBS_ERR_HI, 31, 31, .ro, 0⟩
def F.LANE_PRBS_ERR_HI_CNT_HI : Fld := ⟨.LANE_PRBS_ERR_HI, 15, 0, .rw, 0⟩

def F.LANE_PRBS_BITS_LO_CNT_LO : Fld := ⟨.LANE_PRBS_BITS_LO, 31, 0, .rw, 0⟩

def F.LANE_PRBS_BITS_HI_SAT : Fld := ⟨.LANE_PRBS_BITS_HI, 31, 31, .ro, 0⟩
def F.LANE_PRBS_BITS_HI_CNT_HI : Fld := ⟨.LANE_PRBS_BITS_HI, 15, 0, .rw, 0⟩

def F.LANE_SNAP_ERR_LO_CNT_LO : Fld := ⟨.LANE_SNAP_ERR_LO, 31, 0, .ro, 0⟩

def F.LANE_SNAP_ERR_HI_SAT : Fld := ⟨.LANE_SNAP_ERR_HI, 31, 31, .ro, 0⟩
def F.LANE_SNAP_ERR_HI_CNT_HI : Fld := ⟨.LANE_SNAP_ERR_HI, 15, 0, .ro, 0⟩

def F.LANE_SNAP_BITS_LO_CNT_LO : Fld := ⟨.LANE_SNAP_BITS_LO, 31, 0, .ro, 0⟩

def F.LANE_SNAP_BITS_HI_SAT : Fld := ⟨.LANE_SNAP_BITS_HI, 31, 31, .ro, 0⟩
def F.LANE_SNAP_BITS_HI_CNT_HI : Fld := ⟨.LANE_SNAP_BITS_HI, 15, 0, .ro, 0⟩

/-! ### Sensor link and ingest -/

def F.SFE_STAT_IDVALID : Fld := ⟨.SFE_STAT, 31, 31, .ro, 0⟩
def F.SFE_STAT_BASE : Fld := ⟨.SFE_STAT, 30, 30, .ro, 0⟩

def F.SFE_HP_CFG_IDCHK : Fld := ⟨.SFE_HP_CFG, 31, 31, .rw, 1⟩
def F.SFE_HP_CFG_INSMAX : Fld := ⟨.SFE_HP_CFG, 3, 0, .rw, 3⟩

def F.SFE_HP_STAT_VALID : Fld := ⟨.SFE_HP_STAT, 31, 31, .rws, 0⟩
def F.SFE_HP_STAT_OUTCOME : Fld := ⟨.SFE_HP_STAT, 30, 28, .rws, 0⟩
def F.SFE_HP_STAT_INSDELTA : Fld := ⟨.SFE_HP_STAT, 23, 16, .rws, 0⟩
def F.SFE_HP_STAT_GAPMS : Fld := ⟨.SFE_HP_STAT, 15, 0, .rws, 0⟩

def F.SFE_TS_CORR_CORR : Fld := ⟨.SFE_TS_CORR, 23, 0, .rw, 0⟩

def F.SFE_STRIPE_INDEX : Fld := ⟨.SFE_STRIPE, 31, 28, .cv, 0⟩
def F.SFE_STRIPE_NSTRIPE : Fld := ⟨.SFE_STRIPE, 27, 23, .cv, 0⟩
def F.SFE_STRIPE_HALO_R : Fld := ⟨.SFE_STRIPE, 15, 8, .cv, 0⟩
def F.SFE_STRIPE_HALO_L : Fld := ⟨.SFE_STRIPE, 7, 0, .cv, 0⟩

def F.SFE_STRIPE_X0_X0 : Fld := ⟨.SFE_STRIPE_X0, 15, 0, .cv, 0⟩

def F.SFE_DPHY_CFG_NDL : Fld := ⟨.SFE_DPHY_CFG, 31, 30, .cv, 0⟩
def F.SFE_DPHY_CFG_LOSS_T : Fld := ⟨.SFE_DPHY_CFG, 23, 16, .cv, 0⟩
def F.SFE_DPHY_CFG_RATE : Fld := ⟨.SFE_DPHY_CFG, 12, 0, .cv, 0⟩

def F.SFE_ID_SERIAL_VALUE : Fld := ⟨.SFE_ID_SERIAL, 31, 0, .ro, 0⟩

def F.SFE_ID_INSERT_VALUE : Fld := ⟨.SFE_ID_INSERT, 31, 0, .ro, 0⟩

def F.SFE_ID_MODE_VALUE : Fld := ⟨.SFE_ID_MODE, 31, 0, .ro, 0⟩

def F.SFE_I3C_CFG_LEGACY : Fld := ⟨.SFE_I3C_CFG, 31, 31, .rw, 0⟩
def F.SFE_I3C_CFG_SPEED : Fld := ⟨.SFE_I3C_CFG, 25, 24, .rw, 0⟩
def F.SFE_I3C_CFG_DYN : Fld := ⟨.SFE_I3C_CFG, 14, 8, .rw, 8⟩
def F.SFE_I3C_CFG_STATIC : Fld := ⟨.SFE_I3C_CFG, 6, 0, .rw, 0x1a⟩

def F.SFE_I3C_CMD_GO : Fld := ⟨.SFE_I3C_CMD, 31, 31, .w1s, 0⟩
def F.SFE_I3C_CMD_TYPE : Fld := ⟨.SFE_I3C_CMD, 30, 28, .rw, 0⟩
def F.SFE_I3C_CMD_TRIG : Fld := ⟨.SFE_I3C_CMD, 27, 26, .rw, 0⟩
def F.SFE_I3C_CMD_TVC : Fld := ⟨.SFE_I3C_CMD, 25, 22, .rw, 0⟩
def F.SFE_I3C_CMD_ADDR : Fld := ⟨.SFE_I3C_CMD, 21, 15, .rw, 0⟩
def F.SFE_I3C_CMD_CCC : Fld := ⟨.SFE_I3C_CMD, 14, 7, .rw, 0⟩
def F.SFE_I3C_CMD_LEN : Fld := ⟨.SFE_I3C_CMD, 6, 0, .rw, 0⟩

def F.SFE_I3C_STAT_BUSY : Fld := ⟨.SFE_I3C_STAT, 31, 31, .ro, 0⟩
def F.SFE_I3C_STAT_RESULT : Fld := ⟨.SFE_I3C_STAT, 30, 28, .ro, 0⟩
def F.SFE_I3C_STAT_IBI_MDB : Fld := ⟨.SFE_I3C_STAT, 23, 16, .ro, 0⟩
def F.SFE_I3C_STAT_COUNT : Fld := ⟨.SFE_I3C_STAT, 6, 0, .ro, 0⟩

def F.SFE_I3C_BUF_DATA : Fld := ⟨.SFE_I3C_BUF, 31, 0, .rw, 0⟩

def F.SFE_VCG_EN : Fld := ⟨.SFE_VCG, 31, 31, .cv, 0⟩
def F.SFE_VCG_REC : Fld := ⟨.SFE_VCG, 30, 30, .cv, 0⟩
def F.SFE_VCG_DT : Fld := ⟨.SFE_VCG, 29, 24, .cv, 0⟩
def F.SFE_VCG_WIDTH : Fld := ⟨.SFE_VCG, 14, 0, .cv, 0⟩

def F.SFE_VCL_LINES : Fld := ⟨.SFE_VCL, 14, 0, .cv, 0⟩

def F.SFE_VCT_EN : Fld := ⟨.SFE_VCT, 31, 31, .cv, 0⟩
def F.SFE_VCT_EMB : Fld := ⟨.SFE_VCT, 30, 30, .cv, 0⟩
def F.SFE_VCT_ALIGN : Fld := ⟨.SFE_VCT, 29, 29, .cv, 0⟩
def F.SFE_VCT_ECASK : Fld := ⟨.SFE_VCT, 13, 7, .cv, 0⟩
def F.SFE_VCT_CASK : Fld := ⟨.SFE_VCT, 6, 0, .cv, 0⟩

def F.SFE_ERR_CNT_LO_CNT_LO : Fld := ⟨.SFE_ERR_CNT_LO, 31, 0, .rw, 0⟩

def F.SFE_ERR_CNT_HI_SAT : Fld := ⟨.SFE_ERR_CNT_HI, 31, 31, .ro, 0⟩
def F.SFE_ERR_CNT_HI_CNT_HI : Fld := ⟨.SFE_ERR_CNT_HI, 15, 0, .rw, 0⟩

/-! ### Mosaics and colour science -/

def F.VRS_CORR_CNT_LO_CNT_LO : Fld := ⟨.VRS_CORR_CNT_LO, 31, 0, .rw, 0⟩

def F.VRS_CORR_CNT_HI_SAT : Fld := ⟨.VRS_CORR_CNT_HI, 31, 31, .ro, 0⟩
def F.VRS_CORR_CNT_HI_CNT_HI : Fld := ⟨.VRS_CORR_CNT_HI, 15, 0, .rw, 0⟩

def F.VRS_UNC_CNT_LO_CNT_LO : Fld := ⟨.VRS_UNC_CNT_LO, 31, 0, .rw, 0⟩

def F.VRS_UNC_CNT_HI_SAT : Fld := ⟨.VRS_UNC_CNT_HI, 31, 31, .ro, 0⟩
def F.VRS_UNC_CNT_HI_CNT_HI : Fld := ⟨.VRS_UNC_CNT_HI, 15, 0, .rw, 0⟩

def F.VRS_MOS_VC_DESC : Fld := ⟨.VRS_MOS_VC, 31, 0, .cv, 0⟩

def F.VRS_MOS_CFG_EN : Fld := ⟨.VRS_MOS_CFG, 31, 31, .cv, 0⟩
def F.VRS_MOS_CFG_NPLANE : Fld := ⟨.VRS_MOS_CFG, 20, 16, .cv, 0⟩
def F.VRS_MOS_CFG_YPH : Fld := ⟨.VRS_MOS_CFG, 14, 12, .cv, 0⟩
def F.VRS_MOS_CFG_XPH : Fld := ⟨.VRS_MOS_CFG, 10, 8, .cv, 0⟩
def F.VRS_MOS_CFG_PH : Fld := ⟨.VRS_MOS_CFG, 7, 4, .cv, 0⟩
def F.VRS_MOS_CFG_PW : Fld := ⟨.VRS_MOS_CFG, 3, 0, .cv, 0⟩

def F.VRS_MOS_SITE_SITE3 : Fld := ⟨.VRS_MOS_SITE, 31, 24, .cv, 0⟩
def F.VRS_MOS_SITE_SITE2 : Fld := ⟨.VRS_MOS_SITE, 23, 16, .cv, 0⟩
def F.VRS_MOS_SITE_SITE1 : Fld := ⟨.VRS_MOS_SITE, 15, 8, .cv, 0⟩
def F.VRS_MOS_SITE_SITE0 : Fld := ⟨.VRS_MOS_SITE, 7, 0, .cv, 0⟩

def F.VRS_CFG_EN : Fld := ⟨.VRS_CFG, 31, 31, .cv, 0⟩
def F.VRS_CFG_STG : Fld := ⟨.VRS_CFG, 30, 26, .cv, 0⟩
def F.VRS_CFG_IFMT : Fld := ⟨.VRS_CFG, 25, 24, .cv, 0⟩
def F.VRS_CFG_OFMT : Fld := ⟨.VRS_CFG, 23, 22, .cv, 0⟩
def F.VRS_CFG_IN2 : Fld := ⟨.VRS_CFG, 21, 21, .cv, 0⟩
def F.VRS_CFG_OUT2 : Fld := ⟨.VRS_CFG, 20, 20, .cv, 0⟩
def F.VRS_CFG_PASS3 : Fld := ⟨.VRS_CFG, 19, 19, .cv, 0⟩

def F.VRS_CROP_CROP_R : Fld := ⟨.VRS_CROP, 29, 16, .cv, 0⟩
def F.VRS_CROP_CROP_L : Fld := ⟨.VRS_CROP, 13, 0, .cv, 0⟩

def F.VRS_BANK_CTL_FORCE : Fld := ⟨.VRS_BANK_CTL, 17, 17, .wo, 0⟩
def F.VRS_BANK_CTL_DISARM : Fld := ⟨.VRS_BANK_CTL, 16, 16, .wo, 0⟩
def F.VRS_BANK_CTL_RST : Fld := ⟨.VRS_BANK_CTL, 12, 8, .wo, 0⟩
def F.VRS_BANK_CTL_ARM : Fld := ⟨.VRS_BANK_CTL, 4, 0, .wo, 0⟩

def F.VRS_BANK_STAT_EXTRA : Fld := ⟨.VRS_BANK_STAT, 31, 31, .w1c, 0⟩
def F.VRS_BANK_STAT_REFUSED : Fld := ⟨.VRS_BANK_STAT, 30, 30, .w1c, 0⟩
def F.VRS_BANK_STAT_HELD : Fld := ⟨.VRS_BANK_STAT, 29, 29, .ro, 0⟩
def F.VRS_BANK_STAT_MISALIGN : Fld := ⟨.VRS_BANK_STAT, 28, 28, .w1c, 0⟩
def F.VRS_BANK_STAT_BAD : Fld := ⟨.VRS_BANK_STAT, 25, 21, .ro, 0⟩
def F.VRS_BANK_STAT_COMPLETE : Fld := ⟨.VRS_BANK_STAT, 20, 16, .ro, 0x1f⟩
def F.VRS_BANK_STAT_ARMED : Fld := ⟨.VRS_BANK_STAT, 12, 8, .ro, 0⟩
def F.VRS_BANK_STAT_ACTIVE : Fld := ⟨.VRS_BANK_STAT, 4, 0, .ro, 0⟩

def F.VRS_LATE_CNT_LO_CNT_LO : Fld := ⟨.VRS_LATE_CNT_LO, 31, 0, .rw, 0⟩

def F.VRS_LATE_CNT_HI_SAT : Fld := ⟨.VRS_LATE_CNT_HI, 31, 31, .ro, 0⟩
def F.VRS_LATE_CNT_HI_CNT_HI : Fld := ⟨.VRS_LATE_CNT_HI, 15, 0, .rw, 0⟩

def F.VRS_TRD_ADDR_BANK : Fld := ⟨.VRS_TRD_ADDR, 31, 31, .rw, 0⟩
def F.VRS_TRD_ADDR_TABLE : Fld := ⟨.VRS_TRD_ADDR, 26, 24, .rw, 0⟩
def F.VRS_TRD_ADDR_WORD : Fld := ⟨.VRS_TRD_ADDR, 19, 0, .rw, 0⟩

def F.VRS_TRD_DATA_DATA : Fld := ⟨.VRS_TRD_DATA, 31, 0, .ro, 0⟩

def F.VRS_TRD_STAT_VALID : Fld := ⟨.VRS_TRD_STAT, 31, 31, .ro, 0⟩
def F.VRS_TRD_STAT_UNC : Fld := ⟨.VRS_TRD_STAT, 30, 30, .ro, 0⟩
def F.VRS_TRD_STAT_CORR : Fld := ⟨.VRS_TRD_STAT, 29, 29, .ro, 0⟩

def F.VRS_TPORT_WORD : Fld := ⟨.VRS_TPORT, 31, 0, .wo, 0⟩

/-! ### Image statistics -/

def F.STAT_CFG_EN : Fld := ⟨.STAT_CFG, 31, 31, .cv, 0⟩
def F.STAT_CFG_MODE : Fld := ⟨.STAT_CFG, 30, 30, .cv, 0⟩
def F.STAT_CFG_PACK : Fld := ⟨.STAT_CFG, 29, 29, .cv, 0⟩
def F.STAT_CFG_MERGE : Fld := ⟨.STAT_CFG, 28, 28, .cv, 0⟩
def F.STAT_CFG_DESC : Fld := ⟨.STAT_CFG, 27, 26, .cv, 0⟩
def F.STAT_CFG_MGRP : Fld := ⟨.STAT_CFG, 25, 24, .cv, 0⟩
def F.STAT_CFG_NH : Fld := ⟨.STAT_CFG, 23, 19, .cv, 0⟩
def F.STAT_CFG_ZX : Fld := ⟨.STAT_CFG, 18, 12, .cv, 0⟩
def F.STAT_CFG_ZY : Fld := ⟨.STAT_CFG, 11, 6, .cv, 0⟩

def F.STAT_SIZE_LINES : Fld := ⟨.STAT_SIZE, 30, 16, .cv, 0⟩
def F.STAT_SIZE_WIDTH : Fld := ⟨.STAT_SIZE, 14, 0, .cv, 0⟩

def F.STAT_COL0_COL0 : Fld := ⟨.STAT_COL0, 13, 0, .cv, 0⟩

def F.STAT_ORG_OY : Fld := ⟨.STAT_ORG, 29, 16, .cv, 0⟩
def F.STAT_ORG_OX : Fld := ⟨.STAT_ORG, 13, 0, .cv, 0⟩

def F.STAT_ZONE_ZH : Fld := ⟨.STAT_ZONE, 27, 16, .cv, 0⟩
def F.STAT_ZONE_ZW : Fld := ⟨.STAT_ZONE, 11, 0, .cv, 0⟩

def F.STAT_CHMAP_MAP : Fld := ⟨.STAT_CHMAP, 31, 0, .cv, 0⟩

def F.STAT_LUMA_W2 : Fld := ⟨.STAT_LUMA, 29, 20, .cv, 0⟩
def F.STAT_LUMA_W1 : Fld := ⟨.STAT_LUMA, 19, 10, .cv, 0⟩
def F.STAT_LUMA_W0 : Fld := ⟨.STAT_LUMA, 9, 0, .cv, 0⟩

def F.STAT_RD_HELD : Fld := ⟨.STAT_RD, 31, 31, .ro, 0⟩
def F.STAT_RD_NEWER : Fld := ⟨.STAT_RD, 30, 30, .ro, 0⟩
def F.STAT_RD_RELEASE : Fld := ⟨.STAT_RD, 17, 17, .wo, 0⟩
def F.STAT_RD_HOLD : Fld := ⟨.STAT_RD, 16, 16, .wo, 0⟩
def F.STAT_RD_HSEQ : Fld := ⟨.STAT_RD, 15, 0, .ro, 0⟩

def F.STAT_HIST_SRC : Fld := ⟨.STAT_HIST, 31, 29, .cv, 0⟩
def F.STAT_HIST_BINSH : Fld := ⟨.STAT_HIST, 28, 25, .cv, 0⟩
def F.STAT_HIST_ZX0 : Fld := ⟨.STAT_HIST, 24, 19, .cv, 0⟩
def F.STAT_HIST_ZX1 : Fld := ⟨.STAT_HIST, 18, 13, .cv, 0⟩
def F.STAT_HIST_ZY0 : Fld := ⟨.STAT_HIST, 12, 8, .cv, 0⟩
def F.STAT_HIST_ZY1 : Fld := ⟨.STAT_HIST, 7, 3, .cv, 0⟩

def F.HUB_STM_CFG_EN : Fld := ⟨.HUB_STM_CFG, 31, 31, .rw, 0⟩
def F.HUB_STM_CFG_PIPES : Fld := ⟨.HUB_STM_CFG, 27, 24, .rw, 0⟩
def F.HUB_STM_CFG_MWIN : Fld := ⟨.HUB_STM_CFG, 23, 16, .rw, 0xa⟩
def F.HUB_STM_CFG_RSIZE : Fld := ⟨.HUB_STM_CFG, 15, 12, .rw, 0⟩
def F.HUB_STM_CFG_SLOT : Fld := ⟨.HUB_STM_CFG, 8, 0, .rw, 0⟩

def F.HUB_STM_RING_LO_BASE_LO : Fld := ⟨.HUB_STM_RING_LO, 31, 12, .rw, 0⟩

def F.HUB_STM_RING_HI_BASE_HI : Fld := ⟨.HUB_STM_RING_HI, 31, 0, .rw, 0⟩

def F.HUB_STM_HEAD_HEAD : Fld := ⟨.HUB_STM_HEAD, 15, 0, .rw, 0⟩

def F.HUB_STM_TAIL_OVF : Fld := ⟨.HUB_STM_TAIL, 31, 31, .w1c, 0⟩
def F.HUB_STM_TAIL_TAIL : Fld := ⟨.HUB_STM_TAIL, 15, 0, .ro, 0⟩

/-! ### PXR raw coding -/

def F.PXR_ENC_CFG_EN : Fld := ⟨.PXR_ENC_CFG, 31, 31, .cv, 0⟩
def F.PXR_ENC_CFG_MODE : Fld := ⟨.PXR_ENC_CFG, 30, 30, .cv, 0⟩
def F.PXR_ENC_CFG_DELTA : Fld := ⟨.PXR_ENC_CFG, 27, 24, .cv, 0⟩
def F.PXR_ENC_CFG_DMIN : Fld := ⟨.PXR_ENC_CFG, 23, 20, .cv, 0⟩
def F.PXR_ENC_CFG_DMAX : Fld := ⟨.PXR_ENC_CFG, 19, 16, .cv, 0⟩
def F.PXR_ENC_CFG_DREP : Fld := ⟨.PXR_ENC_CFG, 15, 0, .cv, 0⟩

def F.PXR_ENC_BUDGET_BUDGET8 : Fld := ⟨.PXR_ENC_BUDGET, 31, 3, .cv, 0⟩

def F.PXR_ENC_TAKE_TAKE : Fld := ⟨.PXR_ENC_TAKE, 31, 0, .ro, 0⟩

def F.PXR_CNT_FRAMES_LO_CNT_LO : Fld := ⟨.PXR_CNT_FRAMES_LO, 31, 0, .rw, 0⟩

def F.PXR_CNT_FRAMES_HI_SAT : Fld := ⟨.PXR_CNT_FRAMES_HI, 31, 31, .ro, 0⟩
def F.PXR_CNT_FRAMES_HI_CNT_HI : Fld := ⟨.PXR_CNT_FRAMES_HI, 15, 0, .rw, 0⟩

def F.PXR_CNT_GAPS_LO_CNT_LO : Fld := ⟨.PXR_CNT_GAPS_LO, 31, 0, .rw, 0⟩

def F.PXR_CNT_GAPS_HI_SAT : Fld := ⟨.PXR_CNT_GAPS_HI, 31, 31, .ro, 0⟩
def F.PXR_CNT_GAPS_HI_CNT_HI : Fld := ⟨.PXR_CNT_GAPS_HI, 15, 0, .rw, 0⟩

def F.PXR_CNT_REPEAT_LO_CNT_LO : Fld := ⟨.PXR_CNT_REPEAT_LO, 31, 0, .rw, 0⟩

def F.PXR_CNT_REPEAT_HI_SAT : Fld := ⟨.PXR_CNT_REPEAT_HI, 31, 31, .ro, 0⟩
def F.PXR_CNT_REPEAT_HI_CNT_HI : Fld := ⟨.PXR_CNT_REPEAT_HI, 15, 0, .rw, 0⟩

def F.PXR_CNT_DSLICE_LO_CNT_LO : Fld := ⟨.PXR_CNT_DSLICE_LO, 31, 0, .rw, 0⟩

def F.PXR_CNT_DSLICE_HI_SAT : Fld := ⟨.PXR_CNT_DSLICE_HI, 31, 31, .ro, 0⟩
def F.PXR_CNT_DSLICE_HI_CNT_HI : Fld := ⟨.PXR_CNT_DSLICE_HI, 15, 0, .rw, 0⟩

def F.PXR_CNT_BYTES_LO_CNT_LO : Fld := ⟨.PXR_CNT_BYTES_LO, 31, 0, .rw, 0⟩

def F.PXR_CNT_BYTES_HI_SAT : Fld := ⟨.PXR_CNT_BYTES_HI, 31, 31, .ro, 0⟩
def F.PXR_CNT_BYTES_HI_CNT_HI : Fld := ⟨.PXR_CNT_BYTES_HI, 15, 0, .rw, 0⟩

def F.PXR_ENC_VCC_CASK : Fld := ⟨.PXR_ENC_VCC, 6, 0, .cv, 0⟩

def F.PXR_ENC_VSTAT_OPEN : Fld := ⟨.PXR_ENC_VSTAT, 31, 31, .ro, 0⟩
def F.PXR_ENC_VSTAT_DELTA : Fld := ⟨.PXR_ENC_VSTAT, 27, 24, .ro, 0⟩
def F.PXR_ENC_VSTAT_RATIO : Fld := ⟨.PXR_ENC_VSTAT, 15, 0, .ro, 0⟩

def F.PXR_ENC_VSEQ_SEQ : Fld := ⟨.PXR_ENC_VSEQ, 31, 0, .ro, 0⟩

def F.PXR_DEC_CTL_ABORT : Fld := ⟨.PXR_DEC_CTL, 1, 1, .wo, 0⟩
def F.PXR_DEC_CTL_GO : Fld := ⟨.PXR_DEC_CTL, 0, 0, .wo, 0⟩

def F.PXR_DEC_CFG_OUT : Fld := ⟨.PXR_DEC_CFG, 31, 30, .rw, 0⟩
def F.PXR_DEC_CFG_OFMT : Fld := ⟨.PXR_DEC_CFG, 29, 29, .rw, 0⟩
def F.PXR_DEC_CFG_CROP : Fld := ⟨.PXR_DEC_CFG, 28, 28, .rw, 0⟩
def F.PXR_DEC_CFG_ALIGN : Fld := ⟨.PXR_DEC_CFG, 27, 27, .rw, 0⟩
def F.PXR_DEC_CFG_CONCEAL : Fld := ⟨.PXR_DEC_CFG, 26, 25, .rw, 0⟩
def F.PXR_DEC_CFG_KEEPBAD : Fld := ⟨.PXR_DEC_CFG, 24, 24, .rw, 0⟩
def F.PXR_DEC_CFG_CASK : Fld := ⟨.PXR_DEC_CFG, 6, 0, .rw, 0⟩

def F.PXR_DEC_SRC_LO_ADDR_LO : Fld := ⟨.PXR_DEC_SRC_LO, 31, 3, .rw, 0⟩

def F.PXR_DEC_SRC_HI_ADDR_HI : Fld := ⟨.PXR_DEC_SRC_HI, 7, 0, .rw, 0⟩

def F.PXR_DEC_SLEN_LEN : Fld := ⟨.PXR_DEC_SLEN, 31, 0, .rw, 0⟩

def F.PXR_DEC_DSC_LO_ADDR_LO : Fld := ⟨.PXR_DEC_DSC_LO, 31, 3, .rw, 0⟩

def F.PXR_DEC_DSC_HI_ADDR_HI : Fld := ⟨.PXR_DEC_DSC_HI, 7, 0, .rw, 0⟩

def F.PXR_DEC_DST_LO_ADDR_LO : Fld := ⟨.PXR_DEC_DST_LO, 31, 3, .rw, 0⟩

def F.PXR_DEC_DST_HI_ADDR_HI : Fld := ⟨.PXR_DEC_DST_HI, 7, 0, .rw, 0⟩

def F.PXR_DEC_DLEN_LEN : Fld := ⟨.PXR_DEC_DLEN, 31, 0, .rw, 0⟩

def F.PXR_DEC_STRIDE_STRIDE8 : Fld := ⟨.PXR_DEC_STRIDE, 23, 3, .rw, 0⟩

def F.PXR_DEC_STAT_STATE : Fld := ⟨.PXR_DEC_STAT, 31, 29, .ro, 0⟩
def F.PXR_DEC_STAT_STATUS : Fld := ⟨.PXR_DEC_STAT, 23, 16, .ro, 0⟩
def F.PXR_DEC_STAT_INDEX_LOST : Fld := ⟨.PXR_DEC_STAT, 15, 15, .ro, 0⟩
def F.PXR_DEC_STAT_REPEAT : Fld := ⟨.PXR_DEC_STAT, 14, 14, .ro, 0⟩

def F.PXR_DEC_RES_CROWS : Fld := ⟨.PXR_DEC_RES, 31, 16, .ro, 0⟩
def F.PXR_DEC_RES_BADS : Fld := ⟨.PXR_DEC_RES, 8, 0, .ro, 0⟩

def F.PXR_DEC_SEQ_SEQ : Fld := ⟨.PXR_DEC_SEQ, 31, 0, .ro, 0⟩

def F.PXR_DEC_MAP_LO_ADDR_LO : Fld := ⟨.PXR_DEC_MAP_LO, 31, 3, .rw, 0⟩

def F.PXR_DEC_MAP_HI_ADDR_HI : Fld := ⟨.PXR_DEC_MAP_HI, 7, 0, .rw, 0⟩

/-! ### Block coding -/

def F.BLK_STAT_CORE : Fld := ⟨.BLK_STAT, 25, 16, .ro, 0⟩
def F.BLK_STAT_XS : Fld := ⟨.BLK_STAT, 9, 0, .ro, 0⟩

def F.BLK_CNT_LO_CNT_LO : Fld := ⟨.BLK_CNT_LO, 31, 0, .rw, 0⟩

def F.BLK_CNT_HI_SAT : Fld := ⟨.BLK_CNT_HI, 31, 31, .ro, 0⟩
def F.BLK_CNT_HI_CNT_HI : Fld := ⟨.BLK_CNT_HI, 15, 0, .rw, 0⟩

def F.BLK_CTXCFG_EN : Fld := ⟨.BLK_CTXCFG, 31, 31, .cv, 0⟩
def F.BLK_CTXCFG_ENGINE : Fld := ⟨.BLK_CTXCFG, 30, 30, .cv, 0⟩
def F.BLK_CTXCFG_SHED : Fld := ⟨.BLK_CTXCFG, 29, 29, .cv, 0⟩
def F.BLK_CTXCFG_EFFORT : Fld := ⟨.BLK_CTXCFG, 27, 26, .cv, 0⟩

def F.BLK_CTXRATE_NUM : Fld := ⟨.BLK_CTXRATE, 31, 12, .cv, 0⟩
def F.BLK_CTXRATE_DEN : Fld := ⟨.BLK_CTXRATE, 11, 0, .cv, 0⟩

def F.BLK_CTX_UPD_ASEQ : Fld := ⟨.BLK_CTX_UPD, 31, 16, .wo, 0⟩
def F.BLK_CTX_UPD_AT : Fld := ⟨.BLK_CTX_UPD, 2, 2, .wo, 0⟩
def F.BLK_CTX_UPD_CANCEL : Fld := ⟨.BLK_CTX_UPD, 1, 1, .wo, 0⟩
def F.BLK_CTX_UPD_GO : Fld := ⟨.BLK_CTX_UPD, 0, 0, .wo, 0⟩

def F.BLK_RCADJ_SCALE : Fld := ⟨.BLK_RCADJ, 9, 0, .rw, 0x100⟩

def F.BLK_ROI_A_EN : Fld := ⟨.BLK_ROI_A, 31, 31, .rw, 0⟩
def F.BLK_ROI_A_DQP : Fld := ⟨.BLK_ROI_A, 29, 24, .rw, 0⟩
def F.BLK_ROI_A_Y0 : Fld := ⟨.BLK_ROI_A, 23, 12, .rw, 0⟩
def F.BLK_ROI_A_X0 : Fld := ⟨.BLK_ROI_A, 11, 0, .rw, 0⟩

def F.BLK_ROI_B_Y1 : Fld := ⟨.BLK_ROI_B, 23, 12, .rw, 0⟩
def F.BLK_ROI_B_X1 : Fld := ⟨.BLK_ROI_B, 11, 0, .rw, 0⟩

def F.BLK_SCFG_EN : Fld := ⟨.BLK_SCFG, 31, 31, .cv, 0⟩
def F.BLK_SCFG_TILED : Fld := ⟨.BLK_SCFG, 30, 30, .cv, 0⟩
def F.BLK_SCFG_FMT : Fld := ⟨.BLK_SCFG, 29, 24, .cv, 0⟩
def F.BLK_SCFG_ROLE : Fld := ⟨.BLK_SCFG, 23, 23, .cv, 0⟩
def F.BLK_SCFG_OBJ : Fld := ⟨.BLK_SCFG, 22, 16, .cv, 0⟩
def F.BLK_SCFG_DIV : Fld := ⟨.BLK_SCFG, 15, 12, .cv, 0⟩
def F.BLK_SCFG_PHASE : Fld := ⟨.BLK_SCFG, 11, 8, .cv, 0⟩
def F.BLK_SCFG_TIDX : Fld := ⟨.BLK_SCFG, 7, 6, .cv, 0⟩
def F.BLK_SCFG_NTM1 : Fld := ⟨.BLK_SCFG, 5, 4, .cv, 0⟩
def F.BLK_SCFG_FSTORE : Fld := ⟨.BLK_SCFG, 3, 2, .cv, 0⟩

def F.BLK_SSIZE_HEIGHT : Fld := ⟨.BLK_SSIZE, 31, 16, .cv, 0⟩
def F.BLK_SSIZE_WIDTH : Fld := ⟨.BLK_SSIZE, 15, 0, .cv, 0⟩

def F.BLK_STILE_PICW : Fld := ⟨.BLK_STILE, 31, 16, .cv, 0⟩
def F.BLK_STILE_X0 : Fld := ⟨.BLK_STILE, 15, 0, .cv, 0⟩

def F.BLK_SGOP_GROUP : Fld := ⟨.BLK_SGOP, 29, 24, .cv, 0⟩
def F.BLK_SGOP_NB : Fld := ⟨.BLK_SGOP, 17, 16, .cv, 0⟩
def F.BLK_SGOP_KEYINT : Fld := ⟨.BLK_SGOP, 15, 0, .cv, 0⟩

def F.BLK_SPORT_HALO : Fld := ⟨.BLK_SPORT, 31, 24, .cv, 0⟩
def F.BLK_SPORT_IBITS : Fld := ⟨.BLK_SPORT, 20, 16, .cv, 0⟩
def F.BLK_SPORT_INFMT : Fld := ⟨.BLK_SPORT, 15, 15, .cv, 0⟩
def F.BLK_SPORT_OCASK : Fld := ⟨.BLK_SPORT, 14, 8, .cv, 0⟩
def F.BLK_SPORT_ICASK : Fld := ⟨.BLK_SPORT, 6, 0, .cv, 0⟩

def F.BLK_RCT_MODE : Fld := ⟨.BLK_RCT, 31, 30, .cv, 0⟩
def F.BLK_RCT_TARGET : Fld := ⟨.BLK_RCT, 23, 0, .cv, 0⟩

def F.BLK_RCM_MAXBR : Fld := ⟨.BLK_RCM, 23, 0, .cv, 0⟩

def F.BLK_RCQ_QPMAX : Fld := ⟨.BLK_RCQ, 31, 24, .cv, 0⟩
def F.BLK_RCQ_QPMIN : Fld := ⟨.BLK_RCQ, 23, 16, .cv, 0⟩
def F.BLK_RCQ_QCQP : Fld := ⟨.BLK_RCQ, 15, 8, .cv, 0⟩
def F.BLK_RCQ_QSPREAD : Fld := ⟨.BLK_RCQ, 7, 0, .cv, 0⟩

def F.BLK_RCB_VBVMS : Fld := ⟨.BLK_RCB, 13, 0, .cv, 0⟩

def F.BLK_SSTAT_RUN : Fld := ⟨.BLK_SSTAT, 31, 31, .ro, 0⟩
def F.BLK_SSTAT_PAUSED : Fld := ⟨.BLK_SSTAT, 30, 30, .ro, 0⟩
def F.BLK_SSTAT_STOPPED : Fld := ⟨.BLK_SSTAT, 29, 29, .ro, 0⟩
def F.BLK_SSTAT_PEND : Fld := ⟨.BLK_SSTAT, 28, 28, .ro, 0⟩
def F.BLK_SSTAT_LOCAL : Fld := ⟨.BLK_SSTAT, 27, 27, .ro, 0⟩
def F.BLK_SSTAT_QAVG : Fld := ⟨.BLK_SSTAT, 23, 16, .ro, 0⟩
def F.BLK_SSTAT_SEQ : Fld := ⟨.BLK_SSTAT, 15, 0, .ro, 0⟩

def F.BLK_SCTL_REFRESH : Fld := ⟨.BLK_SCTL, 1, 1, .wo, 0⟩
def F.BLK_SCTL_KEY : Fld := ⟨.BLK_SCTL, 0, 0, .wo, 0⟩

def F.BLK_DEC_CTL_RESET : Fld := ⟨.BLK_DEC_CTL, 2, 2, .wo, 0⟩
def F.BLK_DEC_CTL_ABORT : Fld := ⟨.BLK_DEC_CTL, 1, 1, .wo, 0⟩
def F.BLK_DEC_CTL_GO : Fld := ⟨.BLK_DEC_CTL, 0, 0, .wo, 0⟩

def F.BLK_DEC_CFG_CONCEAL : Fld := ⟨.BLK_DEC_CFG, 0, 0, .rw, 0⟩

def F.BLK_DEC_SRC_LO_ADDR_LO : Fld := ⟨.BLK_DEC_SRC_LO, 31, 3, .rw, 0⟩

def F.BLK_DEC_SRC_HI_ADDR_HI : Fld := ⟨.BLK_DEC_SRC_HI, 7, 0, .rw, 0⟩

def F.BLK_DEC_SLEN_LEN : Fld := ⟨.BLK_DEC_SLEN, 31, 0, .rw, 0⟩

def F.BLK_DEC_POOL_LO_ADDR_LO : Fld := ⟨.BLK_DEC_POOL_LO, 31, 3, .rw, 0⟩

def F.BLK_DEC_POOL_HI_ADDR_HI : Fld := ⟨.BLK_DEC_POOL_HI, 7, 0, .rw, 0⟩

def F.BLK_DEC_DST_LO_ADDR_LO : Fld := ⟨.BLK_DEC_DST_LO, 31, 3, .rw, 0⟩

def F.BLK_DEC_DST_HI_ADDR_HI : Fld := ⟨.BLK_DEC_DST_HI, 7, 0, .rw, 0⟩

def F.BLK_DEC_DLEN_LEN : Fld := ⟨.BLK_DEC_DLEN, 31, 0, .rw, 0⟩

def F.BLK_DEC_STRIDE_STRIDE8 : Fld := ⟨.BLK_DEC_STRIDE, 23, 3, .rw, 0⟩

def F.BLK_DEC_STAT_STATE : Fld := ⟨.BLK_DEC_STAT, 31, 29, .ro, 0⟩
def F.BLK_DEC_STAT_STATUS : Fld := ⟨.BLK_DEC_STAT, 23, 16, .ro, 0⟩
def F.BLK_DEC_STAT_DRIFT : Fld := ⟨.BLK_DEC_STAT, 15, 15, .ro, 0⟩
def F.BLK_DEC_STAT_KEY : Fld := ⟨.BLK_DEC_STAT, 14, 14, .ro, 0⟩

def F.BLK_DEC_RES_CBLK : Fld := ⟨.BLK_DEC_RES, 31, 16, .ro, 0⟩
def F.BLK_DEC_RES_USED : Fld := ⟨.BLK_DEC_RES, 15, 0, .ro, 0⟩

def F.BLK_DEC_PLEN_LEN : Fld := ⟨.BLK_DEC_PLEN, 31, 0, .rw, 0⟩

def F.BLK_DEC_BUDGET_BUDGET : Fld := ⟨.BLK_DEC_BUDGET, 15, 0, .rw, 0x411b⟩

def F.HUB_ASM_CFG_EN : Fld := ⟨.HUB_ASM_CFG, 31, 31, .rw, 0⟩
def F.HUB_ASM_CFG_PIPES : Fld := ⟨.HUB_ASM_CFG, 27, 24, .rw, 0⟩
def F.HUB_ASM_CFG_FMT : Fld := ⟨.HUB_ASM_CFG, 23, 18, .rw, 0⟩
def F.HUB_ASM_CFG_DEST : Fld := ⟨.HUB_ASM_CFG, 17, 16, .rw, 0⟩
def F.HUB_ASM_CFG_DPIPE : Fld := ⟨.HUB_ASM_CFG, 15, 14, .rw, 0⟩
def F.HUB_ASM_CFG_DLIVE : Fld := ⟨.HUB_ASM_CFG, 13, 10, .rw, 0⟩
def F.HUB_ASM_CFG_AWIN : Fld := ⟨.HUB_ASM_CFG, 9, 0, .rw, 0xc8⟩

def F.HUB_ASM_RING_LO_BASE_LO : Fld := ⟨.HUB_ASM_RING_LO, 31, 12, .rw, 0⟩
def F.HUB_ASM_RING_LO_RSIZE : Fld := ⟨.HUB_ASM_RING_LO, 4, 0, .rw, 0x14⟩

def F.HUB_ASM_RING_HI_BASE_HI : Fld := ⟨.HUB_ASM_RING_HI, 31, 0, .rw, 0⟩

def F.HUB_ASM_HEAD_HEAD : Fld := ⟨.HUB_ASM_HEAD, 29, 3, .rw, 0⟩

def F.HUB_ASM_TAIL_OVF : Fld := ⟨.HUB_ASM_TAIL, 31, 31, .w1c, 0⟩
def F.HUB_ASM_TAIL_TAIL : Fld := ⟨.HUB_ASM_TAIL, 29, 3, .ro, 0⟩

def F.HUB_ASM_STAT_STARTED : Fld := ⟨.HUB_ASM_STAT, 31, 31, .ro, 0⟩
def F.HUB_ASM_STAT_QC : Fld := ⟨.HUB_ASM_STAT, 23, 16, .ro, 0⟩
def F.HUB_ASM_STAT_SEQ : Fld := ⟨.HUB_ASM_STAT, 15, 0, .ro, 0⟩

/-! ### Cellar: host command queueing -/

def F.CEL_TAKE_CMD_GO : Fld := ⟨.CEL_TAKE_CMD, 31, 31, .w1s, 0⟩
def F.CEL_TAKE_CMD_OP : Fld := ⟨.CEL_TAKE_CMD, 30, 28, .rw, 0⟩
def F.CEL_TAKE_CMD_PIPES : Fld := ⟨.CEL_TAKE_CMD, 27, 24, .rw, 0⟩
def F.CEL_TAKE_CMD_VCS : Fld := ⟨.CEL_TAKE_CMD, 15, 0, .rw, 0⟩

def F.CEL_TAKE_ARG_TAKE : Fld := ⟨.CEL_TAKE_ARG, 31, 0, .rw, 0⟩

def F.CEL_TAKE_STAT_BUSY : Fld := ⟨.CEL_TAKE_STAT, 31, 31, .ro, 0⟩
def F.CEL_TAKE_STAT_RESULT : Fld := ⟨.CEL_TAKE_STAT, 30, 28, .ro, 0⟩
def F.CEL_TAKE_STAT_FPIPE : Fld := ⟨.CEL_TAKE_STAT, 27, 24, .ro, 0⟩

def F.CEL_TAKE_NUM_TAKE : Fld := ⟨.CEL_TAKE_NUM, 31, 0, .ro, 0⟩

def F.CEL_SHARE_STAT_OVERSUB : Fld := ⟨.CEL_SHARE_STAT, 31, 31, .w1c, 0⟩
def F.CEL_SHARE_STAT_SUM : Fld := ⟨.CEL_SHARE_STAT, 20, 0, .ro, 0⟩

def F.CEL_SHARE_SHARE : Fld := ⟨.CEL_SHARE, 11, 0, .rw, 0⟩

def F.CEL_TSTAT_WAIT : Fld := ⟨.CEL_TSTAT, 31, 31, .ro, 0⟩
def F.CEL_TSTAT_SHORT : Fld := ⟨.CEL_TSTAT, 30, 30, .ro, 0⟩
def F.CEL_TSTAT_FRAC : Fld := ⟨.CEL_TSTAT, 26, 16, .ro, 0⟩

def F.CELP_RB_LVL_L3 : Fld := ⟨.CELP_RB_LVL, 23, 16, .rw, 0x80⟩
def F.CELP_RB_LVL_L4 : Fld := ⟨.CELP_RB_LVL, 15, 8, .rw, 0x40⟩
def F.CELP_RB_LVL_L5 : Fld := ⟨.CELP_RB_LVL, 7, 0, .rw, 0x20⟩

def F.CELP_RB_STAT_HOLD3 : Fld := ⟨.CELP_RB_STAT, 31, 31, .ro, 0⟩
def F.CELP_RB_STAT_HOLD4 : Fld := ⟨.CELP_RB_STAT, 30, 30, .ro, 0⟩
def F.CELP_RB_STAT_HOLD5 : Fld := ⟨.CELP_RB_STAT, 29, 29, .ro, 0⟩
def F.CELP_RB_STAT_OCC : Fld := ⟨.CELP_RB_STAT, 7, 0, .ro, 0⟩

def F.CELP_TQ_CFG_EN : Fld := ⟨.CELP_TQ_CFG, 31, 31, .cv, 0⟩
def F.CELP_TQ_CFG_VC : Fld := ⟨.CELP_TQ_CFG, 3, 0, .cv, 0⟩

def F.CELP_TQ_CTL_RESET : Fld := ⟨.CELP_TQ_CTL, 0, 0, .wo, 0⟩

def F.CELP_TQ_STAT_STATE : Fld := ⟨.CELP_TQ_STAT, 31, 29, .ro, 0⟩
def F.CELP_TQ_STAT_LAG : Fld := ⟨.CELP_TQ_STAT, 15, 0, .ro, 0⟩

def F.CELP_STRM_NS_RANK5 : Fld := ⟨.CELP_STRM_NS, 31, 31, .rw, 0⟩
def F.CELP_STRM_NS_NSID : Fld := ⟨.CELP_STRM_NS, 6, 0, .rw, 0⟩

def F.CELP_STRM_SLBA_LO_SLBA_LO : Fld := ⟨.CELP_STRM_SLBA_LO, 31, 0, .rw, 0⟩

def F.CELP_STRM_SLBA_HI_SLBA_HI : Fld := ⟨.CELP_STRM_SLBA_HI, 31, 0, .rw, 0⟩

def F.CELP_STRM_NLB_NLB : Fld := ⟨.CELP_STRM_NLB, 31, 0, .rw, 0⟩

def F.CELP_STRM_CMD_GO : Fld := ⟨.CELP_STRM_CMD, 31, 31, .w1s, 0⟩
def F.CELP_STRM_CMD_OP : Fld := ⟨.CELP_STRM_CMD, 30, 28, .rw, 0⟩
def F.CELP_STRM_CMD_HANDLE : Fld := ⟨.CELP_STRM_CMD, 15, 0, .rw, 0⟩

def F.CELP_STRM_RES_BUSY : Fld := ⟨.CELP_STRM_RES, 31, 31, .ro, 0⟩
def F.CELP_STRM_RES_RESULT : Fld := ⟨.CELP_STRM_RES, 30, 28, .ro, 0⟩
def F.CELP_STRM_RES_HANDLE : Fld := ⟨.CELP_STRM_RES, 15, 0, .ro, 0⟩

def F.CELP_LOCK_STAT_PEAK : Fld := ⟨.CELP_LOCK_STAT, 26, 16, .ro, 0⟩
def F.CELP_LOCK_STAT_USED : Fld := ⟨.CELP_LOCK_STAT, 10, 0, .ro, 0⟩

def F.CELP_LOCKWAIT_CNT_LO_CNT_LO : Fld := ⟨.CELP_LOCKWAIT_CNT_LO, 31, 0, .rw, 0⟩

def F.CELP_LOCKWAIT_CNT_HI_SAT : Fld := ⟨.CELP_LOCKWAIT_CNT_HI, 31, 31, .ro, 0⟩
def F.CELP_LOCKWAIT_CNT_HI_CNT_HI : Fld := ⟨.CELP_LOCKWAIT_CNT_HI, 15, 0, .rw, 0⟩

/-! ### Cellar: cartridges -/

def F.CEL_KEK_KSLOT : Fld := ⟨.CEL_KEK, 3, 0, .rw, 0⟩

def F.CEL_SAN_STAT_SSTAT : Fld := ⟨.CEL_SAN_STAT, 31, 29, .ro, 0⟩
def F.CEL_SAN_STAT_CARTS : Fld := ⟨.CEL_SAN_STAT, 27, 24, .ro, 0⟩
def F.CEL_SAN_STAT_SPROG : Fld := ⟨.CEL_SAN_STAT, 15, 0, .ro, 0⟩

def F.CELP_CART_CFG_MAPCACHE : Fld := ⟨.CELP_CART_CFG, 31, 24, .rw, 4⟩
def F.CELP_CART_CFG_TAKENS : Fld := ⟨.CELP_CART_CFG, 22, 16, .rw, 1⟩
def F.CELP_CART_CFG_TIMER : Fld := ⟨.CELP_CART_CFG, 15, 0, .rw, 0x64⟩

def F.CELP_CART_CMD_EJECT : Fld := ⟨.CELP_CART_CMD, 0, 0, .wo, 0⟩

def F.CELP_CART_STAT_STATE : Fld := ⟨.CELP_CART_STAT, 31, 28, .ro, 0⟩
def F.CELP_CART_STAT_OUTCOME : Fld := ⟨.CELP_CART_STAT, 27, 25, .ro, 0⟩
def F.CELP_CART_STAT_CAUSE : Fld := ⟨.CELP_CART_STAT, 24, 22, .ro, 0⟩
def F.CELP_CART_STAT_CLEAN : Fld := ⟨.CELP_CART_STAT, 21, 21, .ro, 0⟩
def F.CELP_CART_STAT_READONLY : Fld := ⟨.CELP_CART_STAT, 20, 20, .ro, 0⟩
def F.CELP_CART_STAT_ELAPSED : Fld := ⟨.CELP_CART_STAT, 15, 0, .ro, 0⟩

def F.CELP_CART_SERIAL_VALUE : Fld := ⟨.CELP_CART_SERIAL, 31, 0, .ro, 0⟩

def F.CELP_CART_MGEN_VALUE : Fld := ⟨.CELP_CART_MGEN, 31, 0, .ro, 0⟩

def F.CELP_RBLD_STAT_ACTIVE : Fld := ⟨.CELP_RBLD_STAT, 31, 31, .ro, 0⟩
def F.CELP_RBLD_STAT_LEFT : Fld := ⟨.CELP_RBLD_STAT, 23, 0, .ro, 0⟩

def F.CELP_STRM_TAG_TAKE : Fld := ⟨.CELP_STRM_TAG, 31, 31, .rw, 0⟩
def F.CELP_STRM_TAG_GROUP : Fld := ⟨.CELP_STRM_TAG, 21, 16, .rw, 0⟩
def F.CELP_STRM_TAG_TILEINFO : Fld := ⟨.CELP_STRM_TAG, 7, 0, .rw, 0⟩

/-! ### DRAM controller -/

def F.DRC_PHY_CFG_RANKS : Fld := ⟨.DRC_PHY_CFG, 12, 12, .rw, 0⟩
def F.DRC_PHY_CFG_CAPC : Fld := ⟨.DRC_PHY_CFG, 9, 8, .rw, 1⟩
def F.DRC_PHY_CFG_RATES : Fld := ⟨.DRC_PHY_CFG, 3, 0, .rw, 0xf⟩

def F.DRC_INIT_GO : Fld := ⟨.DRC_INIT, 0, 0, .wo, 0⟩

def F.DRC_STAT_STATE : Fld := ⟨.DRC_STAT, 31, 29, .ro, 0⟩
def F.DRC_STAT_CHFAULT : Fld := ⟨.DRC_STAT, 21, 16, .ro, 0⟩
def F.DRC_STAT_RATE : Fld := ⟨.DRC_STAT, 5, 4, .ro, 0⟩
def F.DRC_STAT_TRAINED : Fld := ⟨.DRC_STAT, 3, 0, .ro, 0⟩

def F.DRC_MAP_CFG_EN : Fld := ⟨.DRC_MAP_CFG, 31, 31, .cv, 0⟩
def F.DRC_MAP_CFG_FOLD : Fld := ⟨.DRC_MAP_CFG, 30, 30, .cv, 0⟩
def F.DRC_MAP_CFG_GSH : Fld := ⟨.DRC_MAP_CFG, 20, 16, .cv, 0⟩

def F.DRC_SEED_SEED : Fld := ⟨.DRC_SEED, 7, 0, .ro, 0⟩

def F.DRC_HOT_CFG_EN : Fld := ⟨.DRC_HOT_CFG, 31, 31, .rw, 1⟩
def F.DRC_HOT_CFG_SHARE : Fld := ⟨.DRC_HOT_CFG, 21, 16, .rw, 0x18⟩
def F.DRC_HOT_CFG_TIME : Fld := ⟨.DRC_HOT_CFG, 15, 0, .rw, 0xa⟩

def F.DRC_HOT_STAT_HOT : Fld := ⟨.DRC_HOT_STAT, 31, 31, .ro, 0⟩
def F.DRC_HOT_STAT_HOLD : Fld := ⟨.DRC_HOT_STAT, 30, 30, .ro, 0⟩
def F.DRC_HOT_STAT_CHAN : Fld := ⟨.DRC_HOT_STAT, 26, 24, .ro, 0⟩
def F.DRC_HOT_STAT_SHARE : Fld := ⟨.DRC_HOT_STAT, 5, 0, .ro, 0⟩

def F.DRC_SR_CFG_EN : Fld := ⟨.DRC_SR_CFG, 31, 31, .rw, 1⟩
def F.DRC_SR_CFG_IDLE : Fld := ⟨.DRC_SR_CFG, 15, 0, .rw, 0x64⟩

def F.DRC_FCHG_GO : Fld := ⟨.DRC_FCHG, 31, 31, .w1s, 0⟩
def F.DRC_FCHG_RATE : Fld := ⟨.DRC_FCHG, 1, 0, .rw, 0⟩

def F.DRC_FCHG_STAT_BUSY : Fld := ⟨.DRC_FCHG_STAT, 31, 31, .ro, 0⟩
def F.DRC_FCHG_STAT_RESULT : Fld := ⟨.DRC_FCHG_STAT, 30, 28, .ro, 0⟩
def F.DRC_FCHG_STAT_BLACKOUT : Fld := ⟨.DRC_FCHG_STAT, 15, 0, .ro, 0⟩

def F.DRC_SCRUB_EN : Fld := ⟨.DRC_SCRUB, 31, 31, .rw, 1⟩
def F.DRC_SCRUB_PERIOD : Fld := ⟨.DRC_SCRUB, 7, 0, .rw, 0x18⟩

def F.DRC_CORR_CNT_LO_CNT_LO : Fld := ⟨.DRC_CORR_CNT_LO, 31, 0, .rw, 0⟩

def F.DRC_CORR_CNT_HI_SAT : Fld := ⟨.DRC_CORR_CNT_HI, 31, 31, .ro, 0⟩
def F.DRC_CORR_CNT_HI_CNT_HI : Fld := ⟨.DRC_CORR_CNT_HI, 15, 0, .rw, 0⟩

def F.DRC_UNC_CNT_LO_CNT_LO : Fld := ⟨.DRC_UNC_CNT_LO, 31, 0, .rw, 0⟩

def F.DRC_UNC_CNT_HI_SAT : Fld := ⟨.DRC_UNC_CNT_HI, 31, 31, .ro, 0⟩
def F.DRC_UNC_CNT_HI_CNT_HI : Fld := ⟨.DRC_UNC_CNT_HI, 15, 0, .rw, 0⟩

def F.DRC_ELOG_STAT_WRAP : Fld := ⟨.DRC_ELOG_STAT, 31, 31, .w1c, 0⟩
def F.DRC_ELOG_STAT_NEXT : Fld := ⟨.DRC_ELOG_STAT, 3, 0, .ro, 0⟩

def F.DRC_RGN_BASE_EN : Fld := ⟨.DRC_RGN_BASE, 31, 31, .cv, 0⟩
def F.DRC_RGN_BASE_KIND : Fld := ⟨.DRC_RGN_BASE, 30, 28, .cv, 0⟩
def F.DRC_RGN_BASE_BASE : Fld := ⟨.DRC_RGN_BASE, 19, 0, .cv, 0⟩

def F.DRC_RGN_SIZE_SIZE : Fld := ⟨.DRC_RGN_SIZE, 19, 0, .cv, 0⟩

def F.DRC_ELOG_DATA : Fld := ⟨.DRC_ELOG, 31, 0, .ro, 0⟩

/-! ### Time, Ethernet and SDI -/

def F.TIME_CTL_FORCE : Fld := ⟨.TIME_CTL, 1, 1, .wo, 0⟩
def F.TIME_CTL_STEP : Fld := ⟨.TIME_CTL, 0, 0, .wo, 0⟩

def F.TIME_CFG_REF : Fld := ⟨.TIME_CFG, 31, 31, .rw, 0⟩
def F.TIME_CFG_MODE : Fld := ⟨.TIME_CFG, 30, 30, .rw, 0⟩
def F.TIME_CFG_XTAL : Fld := ⟨.TIME_CFG, 29, 29, .rw, 0⟩
def F.TIME_CFG_SLEW : Fld := ⟨.TIME_CFG, 23, 16, .rw, 0x32⟩
def F.TIME_CFG_SGAIN : Fld := ⟨.TIME_CFG, 15, 0, .rw, 0x100⟩

def F.TIME_PTP_EN : Fld := ⟨.TIME_PTP, 31, 31, .rw, 0⟩
def F.TIME_PTP_PROF : Fld := ⟨.TIME_PTP, 30, 30, .rw, 0⟩
def F.TIME_PTP_UCAST : Fld := ⟨.TIME_PTP, 29, 29, .rw, 0⟩
def F.TIME_PTP_PIPE : Fld := ⟨.TIME_PTP, 25, 24, .rw, 0⟩
def F.TIME_PTP_PORT : Fld := ⟨.TIME_PTP, 22, 20, .rw, 0⟩
def F.TIME_PTP_DOMAIN : Fld := ⟨.TIME_PTP, 7, 0, .rw, 0x7f⟩

def F.TIME_SERVO_KP : Fld := ⟨.TIME_SERVO, 31, 28, .rw, 1⟩
def F.TIME_SERVO_KI : Fld := ⟨.TIME_SERVO, 27, 24, .rw, 4⟩
def F.TIME_SERVO_LOCKTH : Fld := ⟨.TIME_SERVO, 23, 12, .rw, 0x64⟩
def F.TIME_SERVO_JUMP : Fld := ⟨.TIME_SERVO, 11, 0, .rw, 0x64⟩

def F.TIME_STAT_STATE : Fld := ⟨.TIME_STAT, 31, 29, .ro, 0⟩
def F.TIME_STAT_REFFAULT : Fld := ⟨.TIME_STAT, 28, 28, .ro, 0⟩
def F.TIME_STAT_REFUSED : Fld := ⟨.TIME_STAT, 27, 27, .w1c, 0⟩
def F.TIME_STAT_STEPPED : Fld := ⟨.TIME_STAT, 26, 26, .w1c, 0⟩
def F.TIME_STAT_PENDING : Fld := ⟨.TIME_STAT, 25, 25, .ro, 0⟩
def F.TIME_STAT_UTCV : Fld := ⟨.TIME_STAT, 24, 24, .ro, 0⟩

def F.TIME_NOW_NS_NS : Fld := ⟨.TIME_NOW_NS, 31, 0, .ro, 0⟩

def F.TIME_NOW_S_LO_S : Fld := ⟨.TIME_NOW_S_LO, 31, 0, .ro, 0⟩

def F.TIME_NOW_S_HI_S : Fld := ⟨.TIME_NOW_S_HI, 15, 0, .ro, 0⟩

def F.TIME_OFFSET_VALUE : Fld := ⟨.TIME_OFFSET, 31, 0, .ro, 0⟩

def F.TIME_RATE_VALUE : Fld := ⟨.TIME_RATE, 31, 0, .ro, 0⟩

def F.TIME_PDELAY_VALUE : Fld := ⟨.TIME_PDELAY, 31, 0, .ro, 0⟩

def F.TIME_STEP_S_VALUE : Fld := ⟨.TIME_STEP_S, 31, 0, .rw, 0⟩

def F.TIME_STEP_NS_VALUE : Fld := ⟨.TIME_STEP_NS, 31, 0, .rw, 0⟩

def F.TIME_UTC_LOCOFF : Fld := ⟨.TIME_UTC, 31, 16, .rw, 0⟩
def F.TIME_UTC_UTCOFF : Fld := ⟨.TIME_UTC, 15, 0, .rw, 0x25⟩

def F.TIME_PLAN_CAMID : Fld := ⟨.TIME_PLAN, 21, 16, .rw, 0⟩
def F.TIME_PLAN_STAGGER : Fld := ⟨.TIME_PLAN, 15, 0, .rw, 0⟩

def F.TIME_STEER_STEER : Fld := ⟨.TIME_STEER, 15, 0, .ro, 0x8000⟩

def F.TIME_TC_CFG_EN : Fld := ⟨.TIME_TC_CFG, 31, 31, .rw, 0⟩
def F.TIME_TC_CFG_DF : Fld := ⟨.TIME_TC_CFG, 30, 30, .rw, 0⟩
def F.TIME_TC_CFG_NUM : Fld := ⟨.TIME_TC_CFG, 27, 12, .rw, 0⟩
def F.TIME_TC_CFG_DEN : Fld := ⟨.TIME_TC_CFG, 11, 0, .rw, 0⟩

def F.TIME_TC_VAL_HH : Fld := ⟨.TIME_TC_VAL, 29, 24, .ro, 0⟩
def F.TIME_TC_VAL_PAIR : Fld := ⟨.TIME_TC_VAL, 23, 23, .ro, 0⟩
def F.TIME_TC_VAL_MM : Fld := ⟨.TIME_TC_VAL, 22, 16, .ro, 0⟩
def F.TIME_TC_VAL_DROP : Fld := ⟨.TIME_TC_VAL, 15, 15, .ro, 0⟩
def F.TIME_TC_VAL_SS : Fld := ⟨.TIME_TC_VAL, 14, 8, .ro, 0⟩
def F.TIME_TC_VAL_FF : Fld := ⟨.TIME_TC_VAL, 5, 0, .ro, 0⟩

def F.NET_TIME_NS_NS : Fld := ⟨.NET_TIME_NS, 31, 0, .ro, 0⟩

def F.NET_TIME_S_LO_S : Fld := ⟨.NET_TIME_S_LO, 31, 0, .ro, 0⟩

def F.NET_TIME_S_HI_S : Fld := ⟨.NET_TIME_S_HI, 15, 0, .ro, 0⟩

def F.NET_TIME_STAT_HOLD : Fld := ⟨.NET_TIME_STAT, 31, 31, .ro, 0⟩
def F.NET_TIME_STAT_RESYNC : Fld := ⟨.NET_TIME_STAT, 30, 30, .ro, 0⟩
def F.NET_TIME_STAT_AGE : Fld := ⟨.NET_TIME_STAT, 15, 0, .ro, 0⟩

def F.NET_PORT_CFG_EN : Fld := ⟨.NET_PORT_CFG, 31, 31, .cv, 0⟩
def F.NET_PORT_CFG_JUMBO : Fld := ⟨.NET_PORT_CFG, 30, 30, .cv, 0⟩
def F.NET_PORT_CFG_ALLMC : Fld := ⟨.NET_PORT_CFG, 29, 29, .cv, 0⟩
def F.NET_PORT_CFG_PTPCOPY : Fld := ⟨.NET_PORT_CFG, 28, 28, .cv, 0⟩
def F.NET_PORT_CFG_TXCASK : Fld := ⟨.NET_PORT_CFG, 14, 8, .cv, 0⟩
def F.NET_PORT_CFG_RXCASK : Fld := ⟨.NET_PORT_CFG, 6, 0, .cv, 0⟩

def F.NET_PORT_MAC_LO_MAC : Fld := ⟨.NET_PORT_MAC_LO, 31, 0, .cv, 0⟩

def F.NET_PORT_MAC_HI_MAC : Fld := ⟨.NET_PORT_MAC_HI, 31, 0, .cv, 0⟩

def F.NET_TS_CORR_TX : Fld := ⟨.NET_TS_CORR, 31, 16, .rw, 0⟩
def F.NET_TS_CORR_RX : Fld := ⟨.NET_TS_CORR, 15, 0, .rw, 0⟩

def F.NET_TXTS_LO_VALID : Fld := ⟨.NET_TXTS_LO, 31, 31, .ro, 0⟩
def F.NET_TXTS_LO_FRAC : Fld := ⟨.NET_TXTS_LO, 23, 16, .ro, 0⟩
def F.NET_TXTS_LO_ID : Fld := ⟨.NET_TXTS_LO, 15, 0, .ro, 0⟩

def F.NET_TXTS_HI_TS32 : Fld := ⟨.NET_TXTS_HI, 31, 0, .ro, 0⟩

def F.NET_TXTS_OVF_LO_CNT_LO : Fld := ⟨.NET_TXTS_OVF_LO, 31, 0, .rw, 0⟩

def F.NET_TXTS_OVF_HI_SAT : Fld := ⟨.NET_TXTS_OVF_HI, 31, 31, .ro, 0⟩
def F.NET_TXTS_OVF_HI_CNT_HI : Fld := ⟨.NET_TXTS_OVF_HI, 15, 0, .rw, 0⟩

def F.NET_CNT_LO_CNT_LO : Fld := ⟨.NET_CNT_LO, 31, 0, .rw, 0⟩

def F.NET_CNT_HI_SAT : Fld := ⟨.NET_CNT_HI, 31, 31, .ro, 0⟩
def F.NET_CNT_HI_CNT_HI : Fld := ⟨.NET_CNT_HI, 15, 0, .rw, 0⟩

def F.NET_LO_CFG_EN : Fld := ⟨.NET_LO_CFG, 31, 31, .cv, 0⟩
def F.NET_LO_CFG_KIND : Fld := ⟨.NET_LO_CFG, 30, 30, .cv, 0⟩
def F.NET_LO_CFG_ESS : Fld := ⟨.NET_LO_CFG, 29, 27, .cv, 0⟩
def F.NET_LO_CFG_PORT : Fld := ⟨.NET_LO_CFG, 26, 24, .cv, 0⟩
def F.NET_LO_CFG_ICASK : Fld := ⟨.NET_LO_CFG, 22, 16, .cv, 0⟩
def F.NET_LO_CFG_TVC : Fld := ⟨.NET_LO_CFG, 15, 12, .cv, 0⟩

def F.NET_LO_RATE_NUM : Fld := ⟨.NET_LO_RATE, 31, 12, .cv, 0⟩
def F.NET_LO_RATE_DEN : Fld := ⟨.NET_LO_RATE, 11, 0, .cv, 0⟩

def F.NET_LO_TIME_LAT : Fld := ⟨.NET_LO_TIME, 31, 12, .cv, 0⟩
def F.NET_LO_TIME_PLAN : Fld := ⟨.NET_LO_TIME, 11, 11, .cv, 0⟩
def F.NET_LO_TIME_TROFF : Fld := ⟨.NET_LO_TIME, 10, 0, .cv, 0⟩

def F.NET_LO_PKT_VLAN : Fld := ⟨.NET_LO_PKT, 31, 31, .cv, 0⟩
def F.NET_LO_PKT_PT125 : Fld := ⟨.NET_LO_PKT, 30, 30, .cv, 0⟩
def F.NET_LO_PKT_L24 : Fld := ⟨.NET_LO_PKT, 29, 29, .cv, 0⟩
def F.NET_LO_PKT_CH : Fld := ⟨.NET_LO_PKT, 28, 25, .cv, 0⟩
def F.NET_LO_PKT_PKTBYTES : Fld := ⟨.NET_LO_PKT, 13, 0, .cv, 0⟩

def F.NET_LO_SIZE_HEIGHT : Fld := ⟨.NET_LO_SIZE, 31, 16, .cv, 0⟩
def F.NET_LO_SIZE_WIDTH : Fld := ⟨.NET_LO_SIZE, 15, 0, .cv, 0⟩

def F.NET_LO_BUF_NBUF : Fld := ⟨.NET_LO_BUF, 31, 30, .cv, 0⟩
def F.NET_LO_BUF_FSZ : Fld := ⟨.NET_LO_BUF, 29, 20, .cv, 0⟩
def F.NET_LO_BUF_BASE : Fld := ⟨.NET_LO_BUF, 19, 0, .cv, 0⟩

def F.NET_LO_STAT_RUN : Fld := ⟨.NET_LO_STAT, 31, 31, .ro, 0⟩
def F.NET_LO_STAT_OVERSIZE : Fld := ⟨.NET_LO_STAT, 30, 30, .w1c, 0⟩
def F.NET_LO_STAT_PLANERR : Fld := ⟨.NET_LO_STAT, 29, 29, .ro, 0⟩
def F.NET_LO_STAT_TPLERR : Fld := ⟨.NET_LO_STAT, 28, 28, .ro, 0⟩
def F.NET_LO_STAT_SLOT : Fld := ⟨.NET_LO_STAT, 15, 0, .ro, 0⟩

def F.NET_LO_CNT_LO_CNT_LO : Fld := ⟨.NET_LO_CNT_LO, 31, 0, .rw, 0⟩

def F.NET_LO_CNT_HI_SAT : Fld := ⟨.NET_LO_CNT_HI, 31, 31, .ro, 0⟩
def F.NET_LO_CNT_HI_CNT_HI : Fld := ⟨.NET_LO_CNT_HI, 15, 0, .rw, 0⟩

def F.NET_LO_HDR_BYTES : Fld := ⟨.NET_LO_HDR, 31, 0, .cv, 0⟩

def F.SDI_LO_CFG_LANE : Fld := ⟨.SDI_LO_CFG, 30, 28, .cv, 0⟩
def F.SDI_LO_CFG_FMT : Fld := ⟨.SDI_LO_CFG, 27, 26, .cv, 0⟩
def F.SDI_LO_CFG_TCG : Fld := ⟨.SDI_LO_CFG, 25, 24, .cv, 0⟩
def F.SDI_LO_CFG_ATC : Fld := ⟨.SDI_LO_CFG, 23, 23, .cv, 0⟩
def F.SDI_LO_CFG_OFF : Fld := ⟨.SDI_LO_CFG, 19, 0, .cv, 0⟩

def F.SDI_LO_STAT_PHASE : Fld := ⟨.SDI_LO_STAT, 31, 16, .ro, 0⟩
def F.SDI_LO_STAT_STATE : Fld := ⟨.SDI_LO_STAT, 15, 13, .ro, 0⟩

/-! ### Press -/

def F.PRESS_GSTAT_HALTED : Fld := ⟨.PRESS_GSTAT, 19, 16, .ro, 0⟩
def F.PRESS_GSTAT_BUSY : Fld := ⟨.PRESS_GSTAT, 15, 15, .ro, 0⟩
def F.PRESS_GSTAT_LBUSY : Fld := ⟨.PRESS_GSTAT, 14, 14, .ro, 0⟩
def F.PRESS_GSTAT_RING : Fld := ⟨.PRESS_GSTAT, 9, 8, .ro, 0⟩

def F.PRESS_IN_CNT_LO_CNT_LO : Fld := ⟨.PRESS_IN_CNT_LO, 31, 0, .rw, 0⟩

def F.PRESS_IN_CNT_HI_SAT : Fld := ⟨.PRESS_IN_CNT_HI, 31, 31, .ro, 0⟩
def F.PRESS_IN_CNT_HI_CNT_HI : Fld := ⟨.PRESS_IN_CNT_HI, 15, 0, .rw, 0⟩

def F.PRESS_OUT_CNT_LO_CNT_LO : Fld := ⟨.PRESS_OUT_CNT_LO, 31, 0, .rw, 0⟩

def F.PRESS_OUT_CNT_HI_SAT : Fld := ⟨.PRESS_OUT_CNT_HI, 31, 31, .ro, 0⟩
def F.PRESS_OUT_CNT_HI_CNT_HI : Fld := ⟨.PRESS_OUT_CNT_HI, 15, 0, .rw, 0⟩

def F.PRESS_FAIL_CNT_LO_CNT_LO : Fld := ⟨.PRESS_FAIL_CNT_LO, 31, 0, .rw, 0⟩

def F.PRESS_FAIL_CNT_HI_SAT : Fld := ⟨.PRESS_FAIL_CNT_HI, 31, 31, .ro, 0⟩
def F.PRESS_FAIL_CNT_HI_CNT_HI : Fld := ⟨.PRESS_FAIL_CNT_HI, 15, 0, .rw, 0⟩

def F.PRESS_RING_CFG_EN : Fld := ⟨.PRESS_RING_CFG, 31, 31, .rw, 0⟩
def F.PRESS_RING_CFG_RSIZE : Fld := ⟨.PRESS_RING_CFG, 23, 20, .rw, 0⟩
def F.PRESS_RING_CFG_RLOC : Fld := ⟨.PRESS_RING_CFG, 19, 18, .rw, 0⟩

def F.PRESS_RING_LO_BASE_LO : Fld := ⟨.PRESS_RING_LO, 31, 6, .rw, 0⟩

def F.PRESS_RING_HI_BASE_HI : Fld := ⟨.PRESS_RING_HI, 31, 0, .rw, 0⟩

def F.PRESS_TAIL_TAIL : Fld := ⟨.PRESS_TAIL, 15, 0, .rw, 0⟩

def F.PRESS_HEAD_HEAD : Fld := ⟨.PRESS_HEAD, 15, 0, .ro, 0⟩

def F.PRESS_RING_CTL_RESUME : Fld := ⟨.PRESS_RING_CTL, 1, 1, .wo, 0⟩
def F.PRESS_RING_CTL_ABORT : Fld := ⟨.PRESS_RING_CTL, 0, 0, .wo, 0⟩

def F.PRESS_RING_STAT_STATE : Fld := ⟨.PRESS_RING_STAT, 31, 29, .ro, 0⟩
def F.PRESS_RING_STAT_LSTATUS : Fld := ⟨.PRESS_RING_STAT, 23, 16, .ro, 0⟩
def F.PRESS_RING_STAT_HIDX : Fld := ⟨.PRESS_RING_STAT, 15, 0, .ro, 0⟩

/-! ### Quadrille -/

def F.QDL_ID_DEVID : Fld := ⟨.QDL_ID, 2, 1, .ro, 0⟩
def F.QDL_ID_LEADER : Fld := ⟨.QDL_ID, 0, 0, .ro, 1⟩

def F.QDL_CTL_EN : Fld := ⟨.QDL_CTL, 31, 31, .rw, 0⟩
def F.QDL_CTL_PORTEN : Fld := ⟨.QDL_CTL, 30, 28, .rw, 0⟩
def F.QDL_CTL_ORPHAN : Fld := ⟨.QDL_CTL, 10, 0, .rw, 0x4b0⟩

def F.QDL_PEER_STATE : Fld := ⟨.QDL_PEER, 31, 29, .ro, 0⟩
def F.QDL_PEER_PEER : Fld := ⟨.QDL_PEER, 28, 27, .ro, 0⟩
def F.QDL_PEER_OVF : Fld := ⟨.QDL_PEER, 26, 26, .w1c, 0⟩
def F.QDL_PEER_DELAY : Fld := ⟨.QDL_PEER, 15, 0, .ro, 0⟩

def F.QDL_TAKE_CFG_MODE : Fld := ⟨.QDL_TAKE_CFG, 31, 30, .rw, 0⟩
def F.QDL_TAKE_CFG_DEVS : Fld := ⟨.QDL_TAKE_CFG, 27, 24, .rw, 0⟩
def F.QDL_TAKE_CFG_PHASE : Fld := ⟨.QDL_TAKE_CFG, 15, 8, .rw, 0⟩

def F.QDL_ILV_PER_PER : Fld := ⟨.QDL_ILV_PER, 31, 0, .rw, 0⟩

def F.QDL_TAKE_STAT_FDEV : Fld := ⟨.QDL_TAKE_STAT, 31, 28, .ro, 0⟩
def F.QDL_TAKE_STAT_ENDED : Fld := ⟨.QDL_TAKE_STAT, 27, 24, .ro, 0⟩

def F.QDL_TIME_STAT_HOLD : Fld := ⟨.QDL_TIME_STAT, 31, 31, .ro, 0⟩
def F.QDL_TIME_STAT_MISSED : Fld := ⟨.QDL_TIME_STAT, 30, 30, .ro, 0⟩
def F.QDL_TIME_STAT_OFFSET : Fld := ⟨.QDL_TIME_STAT, 15, 0, .ro, 0⟩

/-! ### Host port and events -/

def F.EVT_CTL_PINEN : Fld := ⟨.EVT_CTL, 7, 4, .rw, 0⟩
def F.EVT_CTL_HLPIN : Fld := ⟨.EVT_CTL, 2, 0, .rw, 0⟩

def F.EVT_STAT_STAT : Fld := ⟨.EVT_STAT, 31, 0, .w1c, 0⟩

def F.EVT_OVR_OVR : Fld := ⟨.EVT_OVR, 31, 0, .w1c, 0⟩

def F.EVT_YLOG_CFG_EN : Fld := ⟨.EVT_YLOG_CFG, 31, 31, .rw, 0⟩
def F.EVT_YLOG_CFG_RSIZE : Fld := ⟨.EVT_YLOG_CFG, 20, 16, .rw, 4⟩

def F.EVT_YLOG_RING_LO_BASE_LO : Fld := ⟨.EVT_YLOG_RING_LO, 31, 12, .rw, 0⟩

def F.EVT_YLOG_RING_HI_BASE_HI : Fld := ⟨.EVT_YLOG_RING_HI, 31, 0, .rw, 0⟩

def F.EVT_YLOG_HEAD_HEAD : Fld := ⟨.EVT_YLOG_HEAD, 15, 0, .rw, 0⟩

def F.EVT_YLOG_TAIL_OVF : Fld := ⟨.EVT_YLOG_TAIL, 31, 31, .w1c, 0⟩
def F.EVT_YLOG_TAIL_TAIL : Fld := ⟨.EVT_YLOG_TAIL, 15, 0, .ro, 0⟩

def F.EVT_SRC_CFG_MSIX : Fld := ⟨.EVT_SRC_CFG, 31, 31, .rw, 1⟩
def F.EVT_SRC_CFG_MC : Fld := ⟨.EVT_SRC_CFG, 30, 30, .rw, 1⟩
def F.EVT_SRC_CFG_PIN : Fld := ⟨.EVT_SRC_CFG, 2, 0, .rw, 0⟩

def F.EVT_SYN_SYN : Fld := ⟨.EVT_SYN, 31, 0, .ro, 0⟩

def F.EVT_COAL_CD : Fld := ⟨.EVT_COAL, 31, 31, .rw, 0⟩
def F.EVT_COAL_TIME : Fld := ⟨.EVT_COAL, 15, 8, .rw, 0⟩
def F.EVT_COAL_COUNT : Fld := ⟨.EVT_COAL, 7, 0, .rw, 0⟩

def F.HUB_PCIE_STAT_DLUP : Fld := ⟨.HUB_PCIE_STAT, 31, 31, .ro, 0⟩
def F.HUB_PCIE_STAT_BME : Fld := ⟨.HUB_PCIE_STAT, 30, 30, .ro, 0⟩
def F.HUB_PCIE_STAT_MSIXEN : Fld := ⟨.HUB_PCIE_STAT, 29, 29, .ro, 0⟩
def F.HUB_PCIE_STAT_FMASK : Fld := ⟨.HUB_PCIE_STAT, 28, 28, .ro, 0⟩
def F.HUB_PCIE_STAT_FLR : Fld := ⟨.HUB_PCIE_STAT, 27, 27, .ro, 0⟩
def F.HUB_PCIE_STAT_WIDTH : Fld := ⟨.HUB_PCIE_STAT, 19, 16, .ro, 0⟩
def F.HUB_PCIE_STAT_SPEED : Fld := ⟨.HUB_PCIE_STAT, 11, 8, .ro, 0⟩

def F.HUB_PASM_CFG_EN : Fld := ⟨.HUB_PASM_CFG, 31, 31, .rw, 0⟩
def F.HUB_PASM_CFG_DEST : Fld := ⟨.HUB_PASM_CFG, 30, 29, .rw, 0⟩
def F.HUB_PASM_CFG_PIPES : Fld := ⟨.HUB_PASM_CFG, 28, 25, .rw, 0⟩
def F.HUB_PASM_CFG_DPIPE : Fld := ⟨.HUB_PASM_CFG, 24, 23, .rw, 0⟩
def F.HUB_PASM_CFG_DOUT : Fld := ⟨.HUB_PASM_CFG, 22, 19, .rw, 0⟩
def F.HUB_PASM_CFG_IBASE : Fld := ⟨.HUB_PASM_CFG, 18, 13, .rw, 0⟩
def F.HUB_PASM_CFG_IBITS : Fld := ⟨.HUB_PASM_CFG, 12, 8, .rw, 0⟩
def F.HUB_PASM_CFG_PWIN : Fld := ⟨.HUB_PASM_CFG, 7, 0, .rw, 0xa⟩

def F.HUB_PASM_LINES_LINES : Fld := ⟨.HUB_PASM_LINES, 14, 0, .rw, 0⟩

def F.HUB_PASM_W01_W1 : Fld := ⟨.HUB_PASM_W01, 31, 16, .rw, 0⟩
def F.HUB_PASM_W01_W0 : Fld := ⟨.HUB_PASM_W01, 15, 0, .rw, 0⟩

def F.HUB_PASM_W23_W1 : Fld := ⟨.HUB_PASM_W23, 31, 16, .rw, 0⟩
def F.HUB_PASM_W23_W0 : Fld := ⟨.HUB_PASM_W23, 15, 0, .rw, 0⟩

def F.HUB_PASM_STAT_RUN : Fld := ⟨.HUB_PASM_STAT, 31, 31, .ro, 0⟩
def F.HUB_PASM_STAT_ABSENT : Fld := ⟨.HUB_PASM_STAT, 19, 16, .ro, 0⟩
def F.HUB_PASM_STAT_FRAME : Fld := ⟨.HUB_PASM_STAT, 15, 0, .ro, 0⟩

/-! ### Panel scan-out -/

def F.PANEL_CFG_EN : Fld := ⟨.PANEL_CFG, 31, 31, .rw, 0⟩
def F.PANEL_CFG_DSC : Fld := ⟨.PANEL_CFG, 30, 30, .rw, 0⟩
def F.PANEL_CFG_CRCCHK : Fld := ⟨.PANEL_CFG, 29, 29, .rw, 1⟩
def F.PANEL_CFG_FRZCHK : Fld := ⟨.PANEL_CFG, 28, 28, .rw, 1⟩
def F.PANEL_CFG_TEPOL : Fld := ⟨.PANEL_CFG, 27, 27, .rw, 0⟩
def F.PANEL_CFG_MATRIX : Fld := ⟨.PANEL_CFG, 26, 26, .rw, 0⟩
def F.PANEL_CFG_RATE : Fld := ⟨.PANEL_CFG, 12, 0, .rw, 0⟩

def F.PANEL_SIZE_HEIGHT : Fld := ⟨.PANEL_SIZE, 28, 16, .rw, 0⟩
def F.PANEL_SIZE_WIDTH : Fld := ⟨.PANEL_SIZE, 12, 0, .rw, 0⟩

def F.PANEL_DSC_NSLICE : Fld := ⟨.PANEL_DSC, 27, 24, .rw, 1⟩
def F.PANEL_DSC_SLICE_H : Fld := ⟨.PANEL_DSC, 23, 12, .rw, 8⟩
def F.PANEL_DSC_BPP : Fld := ⟨.PANEL_DSC, 7, 0, .rw, 0x80⟩

def F.PANEL_SURF_CFG_LOC0 : Fld := ⟨.PANEL_SURF_CFG, 31, 31, .rw, 0⟩
def F.PANEL_SURF_CFG_PIPE0 : Fld := ⟨.PANEL_SURF_CFG, 30, 29, .rw, 0⟩
def F.PANEL_SURF_CFG_FMT0 : Fld := ⟨.PANEL_SURF_CFG, 28, 28, .rw, 0⟩
def F.PANEL_SURF_CFG_LOC1 : Fld := ⟨.PANEL_SURF_CFG, 27, 27, .rw, 0⟩
def F.PANEL_SURF_CFG_PIPE1 : Fld := ⟨.PANEL_SURF_CFG, 26, 25, .rw, 0⟩
def F.PANEL_SURF_CFG_FMT1 : Fld := ⟨.PANEL_SURF_CFG, 24, 24, .rw, 0⟩
def F.PANEL_SURF_CFG_BSIZE : Fld := ⟨.PANEL_SURF_CFG, 23, 16, .rw, 0⟩
def F.PANEL_SURF_CFG_STRIDE : Fld := ⟨.PANEL_SURF_CFG, 15, 0, .rw, 0⟩

def F.PANEL_S0_LO_BASE_LO : Fld := ⟨.PANEL_S0_LO, 31, 12, .rw, 0⟩

def F.PANEL_S0_HI_BASE_HI : Fld := ⟨.PANEL_S0_HI, 31, 0, .rw, 0⟩

def F.PANEL_S1_LO_BASE_LO : Fld := ⟨.PANEL_S1_LO, 31, 12, .rw, 0⟩

def F.PANEL_S1_HI_BASE_HI : Fld := ⟨.PANEL_S1_HI, 31, 0, .rw, 0⟩

def F.PANEL_TUNE_FRZN : Fld := ⟨.PANEL_TUNE, 31, 24, .rw, 8⟩
def F.PANEL_TUNE_TETO : Fld := ⟨.PANEL_TUNE, 23, 16, .rw, 0x14⟩
def F.PANEL_TUNE_WMARK : Fld := ⟨.PANEL_TUNE, 6, 0, .rw, 0x30⟩

def F.PANEL_PUSH_CHG : Fld := ⟨.PANEL_PUSH, 19, 19, .wo, 0⟩
def F.PANEL_PUSH_BUF : Fld := ⟨.PANEL_PUSH, 17, 16, .wo, 0⟩
def F.PANEL_PUSH_REGMASK : Fld := ⟨.PANEL_PUSH, 15, 0, .wo, 0⟩

def F.PANEL_STAT_STATE : Fld := ⟨.PANEL_STAT, 31, 29, .ro, 0⟩
def F.PANEL_STAT_TEMISS : Fld := ⟨.PANEL_STAT, 28, 28, .w1c, 0⟩
def F.PANEL_STAT_REFUSED : Fld := ⟨.PANEL_STAT, 27, 27, .w1c, 0⟩
def F.PANEL_STAT_BUSY0 : Fld := ⟨.PANEL_STAT, 26, 24, .ro, 0⟩
def F.PANEL_STAT_RUNREG : Fld := ⟨.PANEL_STAT, 23, 20, .ro, 0⟩
def F.PANEL_STAT_PEND : Fld := ⟨.PANEL_STAT, 15, 0, .ro, 0⟩

def F.PANEL_CRC_EXP_CRC : Fld := ⟨.PANEL_CRC_EXP, 31, 0, .ro, 0⟩

def F.PANEL_CRC_PAD_CRC : Fld := ⟨.PANEL_CRC_PAD, 31, 0, .ro, 0⟩

def F.PANEL_DCS_GO : Fld := ⟨.PANEL_DCS, 31, 31, .w1s, 0⟩
def F.PANEL_DCS_LEN : Fld := ⟨.PANEL_DCS, 28, 24, .rw, 0⟩
def F.PANEL_DCS_CMD : Fld := ⟨.PANEL_DCS, 7, 0, .rw, 0⟩

def F.PANEL_DCS_DATA_DATA : Fld := ⟨.PANEL_DCS_DATA, 31, 0, .rw, 0⟩

def F.PANEL_CNT_LO_CNT_LO : Fld := ⟨.PANEL_CNT_LO, 31, 0, .rw, 0⟩

def F.PANEL_CNT_HI_SAT : Fld := ⟨.PANEL_CNT_HI, 31, 31, .ro, 0⟩
def F.PANEL_CNT_HI_CNT_HI : Fld := ⟨.PANEL_CNT_HI, 15, 0, .rw, 0⟩

def F.PANEL_RGN_A_EN : Fld := ⟨.PANEL_RGN_A, 31, 31, .rw, 0⟩
def F.PANEL_RGN_A_SRC : Fld := ⟨.PANEL_RGN_A, 30, 30, .rw, 0⟩
def F.PANEL_RGN_A_TESYNC : Fld := ⟨.PANEL_RGN_A, 29, 29, .rw, 0⟩
def F.PANEL_RGN_A_Y0 : Fld := ⟨.PANEL_RGN_A, 28, 16, .rw, 0⟩
def F.PANEL_RGN_A_X0 : Fld := ⟨.PANEL_RGN_A, 12, 0, .rw, 0⟩

def F.PANEL_RGN_B_H : Fld := ⟨.PANEL_RGN_B, 28, 16, .rw, 0⟩
def F.PANEL_RGN_B_W : Fld := ⟨.PANEL_RGN_B, 12, 0, .rw, 0⟩

/-! ### Audio ports -/

def F.AUD_GCFG_MCLKEN : Fld := ⟨.AUD_GCFG, 31, 31, .rw, 0⟩

def F.AUD_TRIG_CMD_GO : Fld := ⟨.AUD_TRIG_CMD, 31, 31, .w1s, 0⟩
def F.AUD_TRIG_CMD_OP : Fld := ⟨.AUD_TRIG_CMD, 30, 28, .rw, 0⟩
def F.AUD_TRIG_CMD_ATTIME : Fld := ⟨.AUD_TRIG_CMD, 27, 27, .rw, 0⟩
def F.AUD_TRIG_CMD_PATHS : Fld := ⟨.AUD_TRIG_CMD, 7, 0, .rw, 0⟩

def F.AUD_TRIG_NS_VALUE : Fld := ⟨.AUD_TRIG_NS, 31, 0, .rw, 0⟩

def F.AUD_TRIG_S_LO_S : Fld := ⟨.AUD_TRIG_S_LO, 31, 0, .rw, 0⟩

def F.AUD_TRIG_S_HI_S : Fld := ⟨.AUD_TRIG_S_HI, 15, 0, .rw, 0⟩

def F.AUD_TRIG_STAT_BUSY : Fld := ⟨.AUD_TRIG_STAT, 31, 31, .ro, 0⟩
def F.AUD_TRIG_STAT_RESULT : Fld := ⟨.AUD_TRIG_STAT, 30, 28, .ro, 0⟩
def F.AUD_TRIG_STAT_FPATHS : Fld := ⟨.AUD_TRIG_STAT, 7, 0, .ro, 0⟩

def F.AUD_TRIG_FRAME_LO_LO : Fld := ⟨.AUD_TRIG_FRAME_LO, 31, 0, .ro, 0⟩

def F.AUD_TRIG_FRAME_HI_HI : Fld := ⟨.AUD_TRIG_FRAME_HI, 31, 0, .ro, 0⟩

def F.AUD_PCFG_EN : Fld := ⟨.AUD_PCFG, 31, 31, .rw, 0⟩
def F.AUD_PCFG_MASTER : Fld := ⟨.AUD_PCFG, 30, 30, .rw, 0⟩
def F.AUD_PCFG_FMT : Fld := ⟨.AUD_PCFG, 29, 28, .rw, 0⟩
def F.AUD_PCFG_BCLKINV : Fld := ⟨.AUD_PCFG, 27, 27, .rw, 0⟩
def F.AUD_PCFG_FSW : Fld := ⟨.AUD_PCFG, 26, 26, .rw, 0⟩
def F.AUD_PCFG_SLOTW : Fld := ⟨.AUD_PCFG, 25, 24, .rw, 0⟩
def F.AUD_PCFG_SAMP24 : Fld := ⟨.AUD_PCFG, 23, 23, .rw, 0⟩
def F.AUD_PCFG_RATE : Fld := ⟨.AUD_PCFG, 22, 20, .rw, 0⟩
def F.AUD_PCFG_NSLOTM1 : Fld := ⟨.AUD_PCFG, 19, 16, .rw, 0⟩

def F.AUD_PTIME_RUNOUT : Fld := ⟨.AUD_PTIME, 27, 16, .rw, 0x30⟩
def F.AUD_PTIME_RUNIN : Fld := ⟨.AUD_PTIME, 11, 0, .rw, 0x30⟩

def F.AUD_CNT_LO_CNT_LO : Fld := ⟨.AUD_CNT_LO, 31, 0, .rw, 0⟩

def F.AUD_CNT_HI_SAT : Fld := ⟨.AUD_CNT_HI, 31, 31, .ro, 0⟩
def F.AUD_CNT_HI_CNT_HI : Fld := ⟨.AUD_CNT_HI, 15, 0, .rw, 0⟩

def F.AUD_XCFG_EN : Fld := ⟨.AUD_XCFG, 31, 31, .rw, 0⟩
def F.AUD_XCFG_ASRC : Fld := ⟨.AUD_XCFG, 30, 30, .rw, 0⟩
def F.AUD_XCFG_BLOCK : Fld := ⟨.AUD_XCFG, 23, 16, .rw, 0x30⟩
def F.AUD_XCFG_SLOTMASK : Fld := ⟨.AUD_XCFG, 15, 0, .rw, 0⟩

def F.AUD_XRING_LO_BASE_LO : Fld := ⟨.AUD_XRING_LO, 31, 12, .rw, 0⟩
def F.AUD_XRING_LO_RSIZE : Fld := ⟨.AUD_XRING_LO, 4, 0, .rw, 0x10⟩

def F.AUD_XRING_HI_BASE_HI : Fld := ⟨.AUD_XRING_HI, 31, 0, .rw, 0⟩

def F.AUD_XHOST_HEAD : Fld := ⟨.AUD_XHOST, 29, 3, .rw, 0⟩

def F.AUD_XDEV_OVF : Fld := ⟨.AUD_XDEV, 31, 31, .w1c, 0⟩
def F.AUD_XDEV_TAIL : Fld := ⟨.AUD_XDEV, 29, 3, .ro, 0⟩

def F.AUD_XSTAT_STATE : Fld := ⟨.AUD_XSTAT, 31, 29, .ro, 0⟩
def F.AUD_XSTAT_LOCK : Fld := ⟨.AUD_XSTAT, 28, 28, .ro, 0⟩
def F.AUD_XSTAT_RATIO : Fld := ⟨.AUD_XSTAT, 23, 0, .ro, 0⟩

def F.AUD_SCFG_EN : Fld := ⟨.AUD_SCFG, 31, 31, .rw, 0⟩
def F.AUD_SCFG_PT125 : Fld := ⟨.AUD_SCFG, 30, 30, .rw, 0⟩
def F.AUD_SCFG_PORT : Fld := ⟨.AUD_SCFG, 29, 28, .rw, 0⟩
def F.AUD_SCFG_FIRST : Fld := ⟨.AUD_SCFG, 27, 24, .rw, 0⟩
def F.AUD_SCFG_NCHM1 : Fld := ⟨.AUD_SCFG, 23, 21, .rw, 0⟩
def F.AUD_SCFG_DPIPE : Fld := ⟨.AUD_SCFG, 19, 18, .rw, 0⟩
def F.AUD_SCFG_DLIVE : Fld := ⟨.AUD_SCFG, 17, 14, .rw, 0⟩

def F.AUD_SSTAT_MISMATCH : Fld := ⟨.AUD_SSTAT, 31, 31, .w1c, 0⟩
def F.AUD_SSTAT_RUN : Fld := ⟨.AUD_SSTAT, 30, 30, .ro, 0⟩
def F.AUD_SSTAT_ITEMS : Fld := ⟨.AUD_SSTAT, 15, 0, .ro, 0⟩

/-! ### Sensing and controls -/

def F.SENSE_ADC_CFG_EN : Fld := ⟨.SENSE_ADC_CFG, 31, 31, .rw, 0⟩
def F.SENSE_ADC_CFG_TSRC : Fld := ⟨.SENSE_ADC_CFG, 30, 28, .rw, 0⟩
def F.SENSE_ADC_CFG_TPWM : Fld := ⟨.SENSE_ADC_CFG, 27, 25, .rw, 0⟩
def F.SENSE_ADC_CFG_IRQ : Fld := ⟨.SENSE_ADC_CFG, 24, 24, .rw, 0⟩
def F.SENSE_ADC_CFG_NLM1 : Fld := ⟨.SENSE_ADC_CFG, 23, 20, .rw, 0⟩
def F.SENSE_ADC_CFG_DELAY : Fld := ⟨.SENSE_ADC_CFG, 15, 0, .rw, 0⟩

def F.SENSE_ADC_TIMER_PERIOD : Fld := ⟨.SENSE_ADC_TIMER, 31, 0, .rw, 0x3e8⟩

def F.SENSE_ADC_CTL_FLUSH : Fld := ⟨.SENSE_ADC_CTL, 1, 1, .wo, 0⟩
def F.SENSE_ADC_CTL_START : Fld := ⟨.SENSE_ADC_CTL, 0, 0, .wo, 0⟩

def F.SENSE_ADC_STAT_BUSY : Fld := ⟨.SENSE_ADC_STAT, 31, 31, .ro, 0⟩
def F.SENSE_ADC_STAT_MISS : Fld := ⟨.SENSE_ADC_STAT, 30, 30, .w1c, 0⟩
def F.SENSE_ADC_STAT_OVF : Fld := ⟨.SENSE_ADC_STAT, 29, 29, .w1c, 0⟩
def F.SENSE_ADC_STAT_LEVEL : Fld := ⟨.SENSE_ADC_STAT, 8, 0, .ro, 0⟩

def F.SENSE_ADC_FIFO_DATA : Fld := ⟨.SENSE_ADC_FIFO, 31, 0, .ro, 0⟩

def F.SENSE_ADC_LIST_CH : Fld := ⟨.SENSE_ADC_LIST, 4, 0, .rw, 0⟩

def F.SENSE_ADC_CH_OWD : Fld := ⟨.SENSE_ADC_CH, 31, 31, .rw, 0⟩
def F.SENSE_ADC_CH_AUTO : Fld := ⟨.SENSE_ADC_CH, 30, 30, .rw, 1⟩
def F.SENSE_ADC_CH_RNG : Fld := ⟨.SENSE_ADC_CH, 29, 28, .rw, 0⟩
def F.SENSE_ADC_CH_DNCNT : Fld := ⟨.SENSE_ADC_CH, 27, 24, .rw, 4⟩

def F.SENSE_ADC_RES_DATA : Fld := ⟨.SENSE_ADC_RES, 31, 0, .ro, 0⟩

def F.SENSE_ADC_COR_GAIN : Fld := ⟨.SENSE_ADC_COR, 31, 16, .rw, 0x8000⟩
def F.SENSE_ADC_COR_OFFSET : Fld := ⟨.SENSE_ADC_COR, 15, 0, .rw, 0⟩

def F.SENSE_ADC_CAL_GO : Fld := ⟨.SENSE_ADC_CAL, 31, 31, .w1s, 0⟩
def F.SENSE_ADC_CAL_OP : Fld := ⟨.SENSE_ADC_CAL, 30, 29, .rw, 0⟩
def F.SENSE_ADC_CAL_RNG : Fld := ⟨.SENSE_ADC_CAL, 28, 27, .rw, 0⟩
def F.SENSE_ADC_CAL_CH : Fld := ⟨.SENSE_ADC_CAL, 26, 22, .rw, 0⟩
def F.SENSE_ADC_CAL_EXPECT : Fld := ⟨.SENSE_ADC_CAL, 15, 0, .rw, 0⟩

def F.SENSE_ADC_CALSTAT_BUSY : Fld := ⟨.SENSE_ADC_CALSTAT, 31, 31, .ro, 0⟩
def F.SENSE_ADC_CALSTAT_RESULT : Fld := ⟨.SENSE_ADC_CALSTAT, 30, 28, .ro, 0⟩
def F.SENSE_ADC_CALSTAT_MEAN : Fld := ⟨.SENSE_ADC_CALSTAT, 15, 0, .ro, 0⟩

def F.SENSE_ADC_CNT_LO_CNT_LO : Fld := ⟨.SENSE_ADC_CNT_LO, 31, 0, .rw, 0⟩

def F.SENSE_ADC_CNT_HI_SAT : Fld := ⟨.SENSE_ADC_CNT_HI, 31, 31, .ro, 0⟩
def F.SENSE_ADC_CNT_HI_CNT_HI : Fld := ⟨.SENSE_ADC_CNT_HI, 15, 0, .rw, 0⟩

def F.SENSE_PWM_CFG_EN : Fld := ⟨.SENSE_PWM_CFG, 31, 31, .rw, 0⟩
def F.SENSE_PWM_CFG_POL : Fld := ⟨.SENSE_PWM_CFG, 30, 30, .rw, 0⟩
def F.SENSE_PWM_CFG_ONESHOT : Fld := ⟨.SENSE_PWM_CFG, 29, 29, .rw, 0⟩

def F.SENSE_PWM_PER_VALUE : Fld := ⟨.SENSE_PWM_PER, 31, 0, .rw, 0xfa0⟩

def F.SENSE_PWM_DUTY_VALUE : Fld := ⟨.SENSE_PWM_DUTY, 31, 0, .rw, 0⟩

def F.SENSE_PWM_CTL_SYNC : Fld := ⟨.SENSE_PWM_CTL, 7, 0, .wo, 0⟩

def F.SENSE_SW_CFG_EN : Fld := ⟨.SENSE_SW_CFG, 31, 31, .rw, 0⟩
def F.SENSE_SW_CFG_INRUSH : Fld := ⟨.SENSE_SW_CFG, 30, 24, .rw, 0x14⟩
def F.SENSE_SW_CFG_SHORT : Fld := ⟨.SENSE_SW_CFG, 23, 16, .rw, 0xc8⟩
def F.SENSE_SW_CFG_LIM_IN : Fld := ⟨.SENSE_SW_CFG, 15, 8, .rw, 0x96⟩
def F.SENSE_SW_CFG_LIM_SS : Fld := ⟨.SENSE_SW_CFG, 7, 0, .rw, 0x64⟩

def F.SENSE_SW_AUX_OCT : Fld := ⟨.SENSE_SW_AUX, 31, 24, .rw, 0xa⟩
def F.SENSE_SW_AUX_BRIGHT : Fld := ⟨.SENSE_SW_AUX, 15, 8, .rw, 0xff⟩
def F.SENSE_SW_AUX_BLINK : Fld := ⟨.SENSE_SW_AUX, 7, 0, .rw, 0⟩

def F.SENSE_SW_STAT_STATE : Fld := ⟨.SENSE_SW_STAT, 31, 29, .ro, 0⟩
def F.SENSE_SW_STAT_CAUSE : Fld := ⟨.SENSE_SW_STAT, 28, 27, .ro, 0⟩
def F.SENSE_SW_STAT_RETRIED : Fld := ⟨.SENSE_SW_STAT, 26, 26, .ro, 0⟩
def F.SENSE_SW_STAT_ISNS : Fld := ⟨.SENSE_SW_STAT, 7, 0, .ro, 0⟩

def F.SENSE_BO_CFG_EN : Fld := ⟨.SENSE_BO_CFG, 31, 31, .rw, 0⟩
def F.SENSE_BO_CFG_BO : Fld := ⟨.SENSE_BO_CFG, 23, 12, .rw, 0x3e8⟩
def F.SENSE_BO_CFG_HYST : Fld := ⟨.SENSE_BO_CFG, 11, 0, .rw, 0x32⟩

def F.SENSE_BO_STAT_LOW : Fld := ⟨.SENSE_BO_STAT, 31, 31, .ro, 0⟩
def F.SENSE_BO_STAT_SEEN : Fld := ⟨.SENSE_BO_STAT, 30, 30, .w1c, 0⟩
def F.SENSE_BO_STAT_HELD : Fld := ⟨.SENSE_BO_STAT, 11, 0, .ro, 0⟩

def F.OPIO_KEY_CFG_EN : Fld := ⟨.OPIO_KEY_CFG, 31, 31, .rw, 0⟩
def F.OPIO_KEY_CFG_DEB : Fld := ⟨.OPIO_KEY_CFG, 5, 0, .rw, 0xa⟩

def F.OPIO_KEY_EN_LO_LO : Fld := ⟨.OPIO_KEY_EN_LO, 31, 0, .rw, 0⟩

def F.OPIO_KEY_EN_HI_HI : Fld := ⟨.OPIO_KEY_EN_HI, 15, 0, .rw, 0⟩

def F.OPIO_KEY_STATE_LO_LO : Fld := ⟨.OPIO_KEY_STATE_LO, 31, 0, .ro, 0⟩

def F.OPIO_KEY_STATE_HI_HI : Fld := ⟨.OPIO_KEY_STATE_HI, 15, 0, .ro, 0⟩

def F.OPIO_KEY_FIFO_VALID : Fld := ⟨.OPIO_KEY_FIFO, 31, 31, .ro, 0⟩
def F.OPIO_KEY_FIFO_PRESS : Fld := ⟨.OPIO_KEY_FIFO, 30, 30, .ro, 0⟩
def F.OPIO_KEY_FIFO_KEY : Fld := ⟨.OPIO_KEY_FIFO, 29, 24, .ro, 0⟩

def F.OPIO_KEY_FTIME_TS32 : Fld := ⟨.OPIO_KEY_FTIME, 31, 0, .ro, 0⟩

def F.OPIO_KEY_STAT_OVF : Fld := ⟨.OPIO_KEY_STAT, 31, 31, .w1c, 0⟩
def F.OPIO_KEY_STAT_LEVEL : Fld := ⟨.OPIO_KEY_STAT, 6, 0, .ro, 0⟩

def F.OPIO_ENC_CFG_EN : Fld := ⟨.OPIO_ENC_CFG, 31, 31, .rw, 0⟩
def F.OPIO_ENC_CFG_DIR : Fld := ⟨.OPIO_ENC_CFG, 30, 30, .rw, 0⟩
def F.OPIO_ENC_CFG_FILT : Fld := ⟨.OPIO_ENC_CFG, 23, 16, .rw, 0xa⟩
def F.OPIO_ENC_CFG_STEP : Fld := ⟨.OPIO_ENC_CFG, 15, 0, .rw, 4⟩

def F.OPIO_ENC_POS_POS : Fld := ⟨.OPIO_ENC_POS, 31, 0, .rw, 0⟩

def F.OPIO_ENC_ERR_LO_CNT_LO : Fld := ⟨.OPIO_ENC_ERR_LO, 31, 0, .rw, 0⟩

def F.OPIO_ENC_ERR_HI_SAT : Fld := ⟨.OPIO_ENC_ERR_HI, 31, 31, .ro, 0⟩
def F.OPIO_ENC_ERR_HI_CNT_HI : Fld := ⟨.OPIO_ENC_ERR_HI, 15, 0, .rw, 0⟩

def F.OPIO_TCH_CFG_EN : Fld := ⟨.OPIO_TCH_CFG, 31, 31, .rw, 0⟩
def F.OPIO_TCH_CFG_HYST : Fld := ⟨.OPIO_TCH_CFG, 23, 16, .rw, 0x10⟩
def F.OPIO_TCH_CFG_THRESH : Fld := ⟨.OPIO_TCH_CFG, 15, 0, .rw, 0x40⟩

def F.OPIO_TCH_EN_MASK : Fld := ⟨.OPIO_TCH_EN, 15, 0, .rw, 0⟩

def F.OPIO_TCH_STATE_MASK : Fld := ⟨.OPIO_TCH_STATE, 15, 0, .ro, 0⟩

def F.OPIO_TCH_RAW_BASE : Fld := ⟨.OPIO_TCH_RAW, 31, 16, .ro, 0⟩
def F.OPIO_TCH_RAW_COUNT : Fld := ⟨.OPIO_TCH_RAW, 15, 0, .ro, 0⟩

/-! ### Temperature -/

def F.THERM_CFG_PAVANE : Fld := ⟨.THERM_CFG, 31, 24, .rw, 0x6e⟩
def F.THERM_CFG_THROTTLE : Fld := ⟨.THERM_CFG, 23, 16, .rw, 0x64⟩
def F.THERM_CFG_WARN : Fld := ⟨.THERM_CFG, 15, 8, .rw, 0x5f⟩
def F.THERM_CFG_HYST : Fld := ⟨.THERM_CFG, 3, 0, .rw, 3⟩

def F.THERM_THR_STEP : Fld := ⟨.THERM_THR, 13, 8, .rw, 8⟩
def F.THERM_THR_DMIN : Fld := ⟨.THERM_THR, 5, 0, .rw, 0x10⟩

def F.THERM_CTL_PAVANE : Fld := ⟨.THERM_CTL, 0, 0, .wo, 0⟩

def F.THERM_STAT_LEVEL : Fld := ⟨.THERM_STAT, 31, 29, .ro, 0⟩
def F.THERM_STAT_PFAIL : Fld := ⟨.THERM_STAT, 28, 28, .ro, 0⟩
def F.THERM_STAT_SENS : Fld := ⟨.THERM_STAT, 20, 16, .ro, 0⟩
def F.THERM_STAT_TMAX : Fld := ⟨.THERM_STAT, 15, 0, .ro, 0⟩

def F.THERM_LAST_VALID : Fld := ⟨.THERM_LAST, 31, 31, .rw, 0⟩
def F.THERM_LAST_KIND : Fld := ⟨.THERM_LAST, 30, 28, .rw, 0⟩
def F.THERM_LAST_INCOMPLETE : Fld := ⟨.THERM_LAST, 27, 24, .rw, 0⟩
def F.THERM_LAST_SENS : Fld := ⟨.THERM_LAST, 20, 16, .rw, 0⟩
def F.THERM_LAST_TEMP : Fld := ⟨.THERM_LAST, 15, 0, .rw, 0⟩

def F.THERM_LAST_S_S : Fld := ⟨.THERM_LAST_S, 31, 0, .ro, 0⟩

def F.THERM_SENS_VALID : Fld := ⟨.THERM_SENS, 31, 31, .ro, 0⟩
def F.THERM_SENS_FAULT : Fld := ⟨.THERM_SENS, 30, 30, .ro, 0⟩
def F.THERM_SENS_TEMP : Fld := ⟨.THERM_SENS, 15, 0, .ro, 0⟩

def F.PTHM_SENS_VALID : Fld := ⟨.PTHM_SENS, 31, 31, .ro, 0⟩
def F.PTHM_SENS_FAULT : Fld := ⟨.PTHM_SENS, 30, 30, .ro, 0⟩
def F.PTHM_SENS_TEMP : Fld := ⟨.PTHM_SENS, 15, 0, .ro, 0⟩

def F.PTHM_STAT_LEVEL : Fld := ⟨.PTHM_STAT, 31, 29, .ro, 0⟩
def F.PTHM_STAT_NOVALID : Fld := ⟨.PTHM_STAT, 28, 28, .ro, 0⟩
def F.PTHM_STAT_DENS : Fld := ⟨.PTHM_STAT, 27, 22, .ro, 0⟩
def F.PTHM_STAT_SENS : Fld := ⟨.PTHM_STAT, 18, 16, .ro, 0⟩
def F.PTHM_STAT_TMAX : Fld := ⟨.PTHM_STAT, 15, 0, .ro, 0⟩

/-! ### Boot, reset and standby -/

def F.HUB_ID_DEVICE : Fld := ⟨.HUB_ID, 31, 16, .ro, 0x4410⟩
def F.HUB_ID_STEPPING : Fld := ⟨.HUB_ID, 15, 8, .ro, 2⟩

def F.HUB_SERIAL_LO_LO : Fld := ⟨.HUB_SERIAL_LO, 31, 0, .ro, 0⟩

def F.HUB_SERIAL_HI_HI : Fld := ⟨.HUB_SERIAL_HI, 31, 0, .ro, 0⟩

def F.HUB_LCS_STATE : Fld := ⟨.HUB_LCS, 2, 0, .ro, 0⟩

def F.HUB_RST_CTL_FALLOW : Fld := ⟨.HUB_RST_CTL, 1, 1, .wo, 0⟩
def F.HUB_RST_CTL_WARM : Fld := ⟨.HUB_RST_CTL, 0, 0, .wo, 0⟩

def F.HUB_RST_CAUSE_CAUSE : Fld := ⟨.HUB_RST_CAUSE, 31, 27, .ro, 0⟩
def F.HUB_RST_CAUSE_PRESS : Fld := ⟨.HUB_RST_CAUSE, 15, 0, .ro, 0⟩

def F.HUB_BOOT_STAT_IMAGE : Fld := ⟨.HUB_BOOT_STAT, 31, 30, .ro, 0⟩
def F.HUB_BOOT_STAT_FAILS : Fld := ⟨.HUB_BOOT_STAT, 29, 28, .ro, 0⟩
def F.HUB_BOOT_STAT_STAGE : Fld := ⟨.HUB_BOOT_STAT, 27, 24, .ro, 0⟩
def F.HUB_BOOT_STAT_HOLDTEMP : Fld := ⟨.HUB_BOOT_STAT, 23, 23, .ro, 0⟩
def F.HUB_BOOT_STAT_NRSTMASK : Fld := ⟨.HUB_BOOT_STAT, 22, 22, .ro, 0⟩
def F.HUB_BOOT_STAT_ACTPEND : Fld := ⟨.HUB_BOOT_STAT, 21, 21, .ro, 0⟩

def F.HUB_BOOT_OK_OK : Fld := ⟨.HUB_BOOT_OK, 0, 0, .wo, 0⟩

def F.HUB_BOOT_CFG_SEL : Fld := ⟨.HUB_BOOT_CFG, 0, 0, .rw, 0⟩

def F.HUB_BOOT_CNT_CNT : Fld := ⟨.HUB_BOOT_CNT, 31, 0, .ro, 0⟩

def F.HUB_FALLOW_ACTIVE : Fld := ⟨.HUB_FALLOW, 31, 31, .ro, 0⟩
def F.HUB_FALLOW_REASON : Fld := ⟨.HUB_FALLOW, 30, 28, .ro, 0⟩

def F.HUB_BOOT_LOG_VALID : Fld := ⟨.HUB_BOOT_LOG, 31, 31, .ro, 0⟩
def F.HUB_BOOT_LOG_IMAGE : Fld := ⟨.HUB_BOOT_LOG, 30, 30, .ro, 0⟩
def F.HUB_BOOT_LOG_STAGE : Fld := ⟨.HUB_BOOT_LOG, 27, 24, .ro, 0⟩
def F.HUB_BOOT_LOG_CAUSE : Fld := ⟨.HUB_BOOT_LOG, 23, 20, .ro, 0⟩
def F.HUB_BOOT_LOG_BCNT : Fld := ⟨.HUB_BOOT_LOG, 15, 0, .ro, 0⟩

def F.HUB_STBY_CFG_WAKEPIN : Fld := ⟨.HUB_STBY_CFG, 4, 4, .rw, 0⟩
def F.HUB_STBY_CFG_CART : Fld := ⟨.HUB_STBY_CFG, 3, 0, .rw, 0⟩

def F.HUB_STBY_CTL_GO : Fld := ⟨.HUB_STBY_CTL, 31, 31, .w1s, 0⟩
def F.HUB_STBY_CTL_MODE : Fld := ⟨.HUB_STBY_CTL, 30, 28, .rw, 0⟩

def F.HUB_STBY_STAT_BUSY : Fld := ⟨.HUB_STBY_STAT, 31, 31, .ro, 0⟩
def F.HUB_STBY_STAT_RESULT : Fld := ⟨.HUB_STBY_STAT, 30, 28, .ro, 0⟩

def F.HUB_WAKE_MODE : Fld := ⟨.HUB_WAKE, 31, 30, .ro, 0⟩
def F.HUB_WAKE_NOXTAL : Fld := ⟨.HUB_WAKE, 29, 29, .ro, 0⟩
def F.HUB_WAKE_SRC : Fld := ⟨.HUB_WAKE, 5, 0, .ro, 0⟩

def F.HUB_AON_SEC_SEC : Fld := ⟨.HUB_AON_SEC, 31, 0, .ro, 0⟩

def F.HUB_FLASH_SRC_LO_ADDR_LO : Fld := ⟨.HUB_FLASH_SRC_LO, 31, 2, .rw, 0⟩

def F.HUB_FLASH_SRC_HI_ADDR_HI : Fld := ⟨.HUB_FLASH_SRC_HI, 31, 0, .rw, 0⟩

def F.HUB_FLASH_OFF_LEN : Fld := ⟨.HUB_FLASH_OFF, 26, 0, .rw, 0⟩

def F.HUB_FLASH_LEN_LEN : Fld := ⟨.HUB_FLASH_LEN, 26, 0, .rw, 0⟩

def F.HUB_FLASH_CMD_GO : Fld := ⟨.HUB_FLASH_CMD, 31, 31, .w1s, 0⟩
def F.HUB_FLASH_CMD_OP : Fld := ⟨.HUB_FLASH_CMD, 30, 28, .rw, 0⟩
def F.HUB_FLASH_CMD_BUSY : Fld := ⟨.HUB_FLASH_CMD, 27, 27, .ro, 0⟩
def F.HUB_FLASH_CMD_RESULT : Fld := ⟨.HUB_FLASH_CMD, 26, 24, .ro, 0⟩
def F.HUB_FLASH_CMD_PROGRESS : Fld := ⟨.HUB_FLASH_CMD, 7, 0, .ro, 0⟩

/-! ### BIST and security -/

def F.BIST_CMD_GO : Fld := ⟨.BIST_CMD, 31, 31, .w1s, 0⟩
def F.BIST_CMD_ZEROOK : Fld := ⟨.BIST_CMD, 30, 30, .rw, 0⟩
def F.BIST_CMD_LEN : Fld := ⟨.BIST_CMD, 29, 28, .rw, 0⟩
def F.BIST_CMD_CLASS : Fld := ⟨.BIST_CMD, 27, 24, .rw, 0⟩
def F.BIST_CMD_PIPE : Fld := ⟨.BIST_CMD, 23, 22, .rw, 0⟩
def F.BIST_CMD_INDEX : Fld := ⟨.BIST_CMD, 6, 0, .rw, 0⟩

def F.BIST_CTL_ABORT : Fld := ⟨.BIST_CTL, 0, 0, .wo, 0⟩

def F.BIST_STAT_BUSY : Fld := ⟨.BIST_STAT, 31, 31, .ro, 0⟩
def F.BIST_STAT_RESULT : Fld := ⟨.BIST_STAT, 30, 27, .ro, 0⟩
def F.BIST_STAT_PHASE : Fld := ⟨.BIST_STAT, 26, 24, .ro, 0⟩
def F.BIST_STAT_PROGRESS : Fld := ⟨.BIST_STAT, 7, 0, .ro, 0⟩

def F.BIST_CFG_BOOTLS : Fld := ⟨.BIST_CFG, 8, 8, .rws, 0⟩
def F.BIST_CFG_SCANF : Fld := ⟨.BIST_CFG, 1, 0, .rws, 2⟩

def F.BIST_SIG_LO_LO : Fld := ⟨.BIST_SIG_LO, 31, 0, .ro, 0⟩

def F.BIST_SIG_HI_HI : Fld := ⟨.BIST_SIG_HI, 31, 0, .ro, 0⟩

def F.BIST_LOG_VALID : Fld := ⟨.BIST_LOG, 31, 31, .ro, 0⟩
def F.BIST_LOG_RESULT : Fld := ⟨.BIST_LOG, 30, 27, .ro, 0⟩
def F.BIST_LOG_CLASS : Fld := ⟨.BIST_LOG, 26, 23, .ro, 0⟩
def F.BIST_LOG_PIPE : Fld := ⟨.BIST_LOG, 22, 21, .ro, 0⟩
def F.BIST_LOG_INDEX : Fld := ⟨.BIST_LOG, 20, 14, .ro, 0⟩

def F.SECU_STAT_DRBG : Fld := ⟨.SECU_STAT, 31, 30, .ro, 1⟩
def F.SECU_STAT_KEYSLOST : Fld := ⟨.SECU_STAT, 29, 29, .ro, 0⟩
def F.SECU_STAT_LCPEND : Fld := ⟨.SECU_STAT, 28, 28, .ro, 0⟩
def F.SECU_STAT_LCNEXT : Fld := ⟨.SECU_STAT, 27, 25, .ro, 0⟩
def F.SECU_STAT_SVNNEXT : Fld := ⟨.SECU_STAT, 6, 0, .ro, 0⟩

def F.SECU_ALARM_NVM : Fld := ⟨.SECU_ALARM, 3, 3, .w1c, 0⟩
def F.SECU_ALARM_DRBG : Fld := ⟨.SECU_ALARM, 2, 2, .w1c, 0⟩
def F.SECU_ALARM_GLITCH : Fld := ⟨.SECU_ALARM, 1, 1, .w1c, 0⟩
def F.SECU_ALARM_TAMPER : Fld := ⟨.SECU_ALARM, 0, 0, .w1c, 0⟩

def F.SECU_CMD_GO : Fld := ⟨.SECU_CMD, 31, 31, .w1s, 0⟩
def F.SECU_CMD_OP : Fld := ⟨.SECU_CMD, 30, 27, .rw, 0⟩
def F.SECU_CMD_ARG : Fld := ⟨.SECU_CMD, 26, 20, .rw, 0⟩
def F.SECU_CMD_SRCSLOT : Fld := ⟨.SECU_CMD, 11, 8, .rw, 0⟩
def F.SECU_CMD_SLOT : Fld := ⟨.SECU_CMD, 3, 0, .rw, 0⟩

def F.SECU_RES_BUSY : Fld := ⟨.SECU_RES, 31, 31, .ro, 0⟩
def F.SECU_RES_RESULT : Fld := ⟨.SECU_RES, 30, 26, .ro, 0⟩

def F.SECU_ADDR_LO_ADDR_LO : Fld := ⟨.SECU_ADDR_LO, 31, 2, .rw, 0⟩

def F.SECU_ADDR_HI_ADDR_HI : Fld := ⟨.SECU_ADDR_HI, 31, 0, .rw, 0⟩

def F.SECU_NONCE_NONCE : Fld := ⟨.SECU_NONCE, 31, 0, .ro, 0⟩

def F.SECU_SLOT_VALID : Fld := ⟨.SECU_SLOT, 31, 31, .ro, 0⟩
def F.SECU_SLOT_REVOKED : Fld := ⟨.SECU_SLOT, 30, 30, .ro, 0⟩
def F.SECU_SLOT_LOCK : Fld := ⟨.SECU_SLOT, 29, 29, .ro, 0⟩
def F.SECU_SLOT_CLASS : Fld := ⟨.SECU_SLOT, 28, 27, .ro, 0⟩
def F.SECU_SLOT_USE : Fld := ⟨.SECU_SLOT, 26, 25, .ro, 0⟩
def F.SECU_SLOT_KID : Fld := ⟨.SECU_SLOT, 15, 0, .ro, 0⟩

end Sys2Proof.Machine
end

