-- ==== Sys2Proof/Machine/RegTable.lean ====
section
/-!
DEFINITION. Where each register lies and to which reset domain its fields belong: the summary tables of the chapters.
-/
namespace Sys2Proof.Machine

/-- Block, offset, indexes, reset domain and fields of a register. -/
def RegId.info : RegId → RegInfo
  | .PCTL_ARUN_CFG => ⟨.PCTL, 0xf00, [], .warm, [F.PCTL_ARUN_CFG_LIMIT]⟩
  | .PCTL_ARUN_STAT => ⟨.PCTL, 0xf04, [], .cold, [F.PCTL_ARUN_STAT_VALID, F.PCTL_ARUN_STAT_END, F.PCTL_ARUN_STAT_YIELDS]⟩
  | .PCTL_ARUN_TNS => ⟨.PCTL, 0xf08, [], .cold, [F.PCTL_ARUN_TNS_NS]⟩
  | .PCTL_ARUN_TS_LO => ⟨.PCTL, 0xf0c, [], .cold, [F.PCTL_ARUN_TS_LO_S_LO]⟩
  | .PCTL_ARUN_TS_HI => ⟨.PCTL, 0xf10, [], .cold, [F.PCTL_ARUN_TS_HI_S_HI]⟩
  | .PCTL_ARUN_FRAMES => ⟨.PCTL, 0xf14, [], .cold, [F.PCTL_ARUN_FRAMES_FRAMES]⟩
  | .PCTL_CTL => ⟨.PCTL, 0x0, [], .warm, [F.PCTL_CTL_PWRUP, F.PCTL_CTL_PRST]⟩
  | .PCTL_STAT => ⟨.PCTL, 0x4, [], .cold, [F.PCTL_STAT_TAKE, F.PCTL_STAT_GATE_LATCH, F.PCTL_STAT_STATE]⟩
  | .PCTL_PACE_STAT => ⟨.PCTL, 0x10, [], .pipe, [F.PCTL_PACE_STAT_MARGIN, F.PCTL_PACE_STAT_CLAIM, F.PCTL_PACE_STAT_SHORT, F.PCTL_PACE_STAT_NOCLAIM, F.PCTL_PACE_STAT_SHED]⟩
  | .PCTL_PAUSE_MAN => ⟨.PCTL, 0x20, [], .warm, [F.PCTL_PAUSE_MAN_STAGING, F.PCTL_PAUSE_MAN_SHEDCTX, F.PCTL_PAUSE_MAN_RACKBG, F.PCTL_PAUSE_MAN_PRESS]⟩
  | .PCTL_PAUSE_EFF => ⟨.PCTL, 0x24, [], .pipe, [F.PCTL_PAUSE_EFF_STAGING, F.PCTL_PAUSE_EFF_SHEDCTX, F.PCTL_PAUSE_EFF_RACKBG, F.PCTL_PAUSE_EFF_PRESS]⟩
  | .PCTL_STALL_CFG => ⟨.PCTL, 0x30, [], .warm, [F.PCTL_STALL_CFG_STALL_T]⟩
  | .PCTL_STALL_LOC => ⟨.PCTL, 0x34, [], .cold, [F.PCTL_STALL_LOC_VALID, F.PCTL_STALL_LOC_LATCH, F.PCTL_STALL_LOC_STAGE, F.PCTL_STALL_LOC_INST]⟩
  | .PCTL_STALL_CNT_LO => ⟨.PCTL, 0x38, [], .warm, [F.PCTL_STALL_CNT_LO_CNT_LO]⟩
  | .PCTL_STALL_CNT_HI => ⟨.PCTL, 0x3c, [], .warm, [F.PCTL_STALL_CNT_HI_SAT, F.PCTL_STALL_CNT_HI_CNT_HI]⟩
  | .PCTL_PSENS => ⟨.PCTL, 0x100, [(4, 0, 24)], .pipe, [F.PCTL_PSENS_VALID, F.PCTL_PSENS_FAULT, F.PCTL_PSENS_PEAK_PS, F.PCTL_PSENS_PACE_PS]⟩
  | .PCTL_CLM_CFG => ⟨.PCTL, 0x400, [(0x10, 0, 32)], .pipe, [F.PCTL_CLM_CFG_VALID, F.PCTL_CLM_CFG_REC, F.PCTL_CLM_CFG_REMAP, F.PCTL_CLM_CFG_CLAIM_PS]⟩
  | .PCTL_CLM_SENS => ⟨.PCTL, 0x404, [(0x10, 0, 32)], .pipe, [F.PCTL_CLM_SENS_SENS]⟩
  | .PCTL_CLM_RUNG => ⟨.PCTL, 0x408, [(0x10, 0, 32)], .pipe, [F.PCTL_CLM_RUNG_RUNG_LO]⟩
  | .PCTL_CLM_MASK => ⟨.PCTL, 0x40c, [(0x10, 0, 32)], .pipe, [F.PCTL_CLM_MASK_LIVE, F.PCTL_CLM_MASK_RUNG_HI]⟩
  | .HUB_GOV_CTL => ⟨.HUB_CTL, 0x2000, [], .warm, [F.HUB_GOV_CTL_VMAN, F.HUB_GOV_CTL_MODE]⟩
  | .HUB_GOV_LIM => ⟨.HUB_CTL, 0x2004, [], .warm, [F.HUB_GOV_LIM_VIDLE, F.HUB_GOV_LIM_VMAX, F.HUB_GOV_LIM_VMIN]⟩
  | .HUB_GOV_LOOP => ⟨.HUB_CTL, 0x2008, [], .warm, [F.HUB_GOV_LOOP_SETTLE, F.HUB_GOV_LOOP_STEP_DN, F.HUB_GOV_LOOP_STEP_UP, F.HUB_GOV_LOOP_GUARD_HI, F.HUB_GOV_LOOP_GUARD_LO]⟩
  | .HUB_GOV_TIME => ⟨.HUB_CTL, 0x200c, [], .warm, [F.HUB_GOV_TIME_SHED_DENS, F.HUB_GOV_TIME_DN_HOLD]⟩
  | .HUB_GOV_STAT => ⟨.HUB_CTL, 0x2010, [], .cold, [F.HUB_GOV_STAT_MARGIN, F.HUB_GOV_STAT_SHED, F.HUB_GOV_STAT_AT_VMAX, F.HUB_GOV_STAT_PIPE, F.HUB_GOV_STAT_STATE, F.HUB_GOV_STAT_FCAUSE, F.HUB_GOV_STAT_VCMD]⟩
  | .HUB_GOV_PMB => ⟨.HUB_CTL, 0x2014, [], .warm, [F.HUB_GOV_PMB_PEC, F.HUB_GOV_PMB_SPEED, F.HUB_GOV_PMB_PAGE, F.HUB_GOV_PMB_PAGE_EN, F.HUB_GOV_PMB_ADDR]⟩
  | .HUB_PAUSE_MAN => ⟨.HUB_CTL, 0x2020, [], .warm, [F.HUB_PAUSE_MAN_STAGING, F.HUB_PAUSE_MAN_RACKBG, F.HUB_PAUSE_MAN_PRESS]⟩
  | .HUB_PAUSE_EFF => ⟨.HUB_CTL, 0x2024, [], .cold, [F.HUB_PAUSE_EFF_STAGING, F.HUB_PAUSE_EFF_RACKBG, F.HUB_PAUSE_EFF_PRESS]⟩
  | .CASK_GSTAT => ⟨.CASK, 0x0, [], .pipe, [F.CASK_GSTAT_TALLOC, F.CASK_GSTAT_ALLOC]⟩
  | .CASK_CORR_CNT_LO => ⟨.CASK, 0x10, [], .pipe, [F.CASK_CORR_CNT_LO_CNT_LO]⟩
  | .CASK_CORR_CNT_HI => ⟨.CASK, 0x14, [], .pipe, [F.CASK_CORR_CNT_HI_SAT, F.CASK_CORR_CNT_HI_CNT_HI]⟩
  | .CASK_UNC_CNT_LO => ⟨.CASK, 0x18, [], .pipe, [F.CASK_UNC_CNT_LO_CNT_LO]⟩
  | .CASK_UNC_CNT_HI => ⟨.CASK, 0x1c, [], .pipe, [F.CASK_UNC_CNT_HI_SAT, F.CASK_UNC_CNT_HI_CNT_HI]⟩
  | .CASK_PSN_LAST => ⟨.CASK, 0x20, [], .pipe, [F.CASK_PSN_LAST_VALID, F.CASK_PSN_LAST_CASK, F.CASK_PSN_LAST_WORD]⟩
  | .CASK_CFG => ⟨.CASK, 0x1000, [(0x20, 0, 128)], .pipe, [F.CASK_CFG_EN, F.CASK_CFG_BASE, F.CASK_CFG_DEPTH]⟩
  | .CASK_BIND => ⟨.CASK, 0x1004, [(0x20, 0, 128)], .pipe, [F.CASK_BIND_CONS, F.CASK_BIND_PROD]⟩
  | .CASK_TTO => ⟨.CASK, 0x1008, [(0x20, 0, 128)], .pipe, [F.CASK_TTO_TEVT, F.CASK_TTO_UNIT, F.CASK_TTO_VAL]⟩
  | .CASK_CTL => ⟨.CASK, 0x100c, [(0x20, 0, 128)], .pipe, [F.CASK_CTL_FLUSH]⟩
  | .CASK_STAT => ⟨.CASK, 0x1010, [(0x20, 0, 128)], .pipe, [F.CASK_STAT_EN, F.CASK_STAT_OPEN, F.CASK_STAT_DISCARD, F.CASK_STAT_CREDITS, F.CASK_STAT_LEVEL]⟩
  | .CASK_ECC => ⟨.CASK, 0x1014, [(0x20, 0, 128)], .pipe, [F.CASK_ECC_CSAT, F.CASK_ECC_PSN, F.CASK_ECC_CORR]⟩
  | .RACK_GSTAT => ⟨.RACK, 0x0, [], .pipe, [F.RACK_GSTAT_HALTED]⟩
  | .RACK_CH_CFG => ⟨.RACK, 0x100, [(0x40, 0, 16)], .pipe, [F.RACK_CH_CFG_EN, F.RACK_CH_CFG_RANK, F.RACK_CH_CFG_RSIZE, F.RACK_CH_CFG_RLOC]⟩
  | .RACK_RING_LO => ⟨.RACK, 0x108, [(0x40, 0, 16)], .pipe, [F.RACK_RING_LO_BASE_LO]⟩
  | .RACK_RING_HI => ⟨.RACK, 0x10c, [(0x40, 0, 16)], .pipe, [F.RACK_RING_HI_BASE_HI]⟩
  | .RACK_TAIL => ⟨.RACK, 0x110, [(0x40, 0, 16)], .pipe, [F.RACK_TAIL_TAIL]⟩
  | .RACK_HEAD => ⟨.RACK, 0x114, [(0x40, 0, 16)], .pipe, [F.RACK_HEAD_HEAD]⟩
  | .RACK_CH_CTL => ⟨.RACK, 0x118, [(0x40, 0, 16)], .pipe, [F.RACK_CH_CTL_RESUME, F.RACK_CH_CTL_ABORT]⟩
  | .RACK_CH_STAT => ⟨.RACK, 0x11c, [(0x40, 0, 16)], .pipe, [F.RACK_CH_STAT_STATE, F.RACK_CH_STAT_LSTATUS, F.RACK_CH_STAT_HIDX]⟩
  | .RACK_BYTES_LO => ⟨.RACK, 0x120, [(0x40, 0, 16)], .pipe, [F.RACK_BYTES_LO_CNT_LO]⟩
  | .RACK_BYTES_HI => ⟨.RACK, 0x124, [(0x40, 0, 16)], .pipe, [F.RACK_BYTES_HI_SAT, F.RACK_BYTES_HI_CNT_HI]⟩
  | .TRL_CTL => ⟨.TRL, 0x0, [], .pipe, [F.TRL_CTL_VIEW]⟩
  | .TRL_STAT => ⟨.TRL, 0x4, [], .pipe, [F.TRL_STAT_RUNNING, F.TRL_STAT_FAULTED]⟩
  | .TRL_CORR_CNT_LO => ⟨.TRL, 0x10, [], .pipe, [F.TRL_CORR_CNT_LO_CNT_LO]⟩
  | .TRL_CORR_CNT_HI => ⟨.TRL, 0x14, [], .pipe, [F.TRL_CORR_CNT_HI_SAT, F.TRL_CORR_CNT_HI_CNT_HI]⟩
  | .TRL_UNC_CNT_LO => ⟨.TRL, 0x18, [], .pipe, [F.TRL_UNC_CNT_LO_CNT_LO]⟩
  | .TRL_UNC_CNT_HI => ⟨.TRL, 0x1c, [], .pipe, [F.TRL_UNC_CNT_HI_SAT, F.TRL_UNC_CNT_HI_CNT_HI]⟩
  | .TRL_LM_ADDR => ⟨.TRL, 0x20, [], .pipe, [F.TRL_LM_ADDR_STORE, F.TRL_LM_ADDR_UNIT, F.TRL_LM_ADDR_WORD]⟩
  | .TRL_LM_DATA => ⟨.TRL, 0x24, [], .pipe, [F.TRL_LM_DATA_DATA]⟩
  | .TRL_LM_STAT => ⟨.TRL, 0x28, [], .pipe, [F.TRL_LM_STAT_VALID, F.TRL_LM_STAT_UNC, F.TRL_LM_STAT_CORR, F.TRL_LM_STAT_PSN, F.TRL_LM_STAT_EOF, F.TRL_LM_STAT_EOL]⟩
  | .TRL_MON_SEL => ⟨.TRL, 0x30, [], .pipe, [F.TRL_MON_SEL_EN, F.TRL_MON_SEL_WIN, F.TRL_MON_SEL_ELEM]⟩
  | .TRL_MON_RES => ⟨.TRL, 0x34, [], .pipe, [F.TRL_MON_RES_VALID, F.TRL_MON_RES_BUSY, F.TRL_MON_RES_STARVE, F.TRL_MON_RES_BLOCK]⟩
  | .TRL_FAULT => ⟨.TRL, 0x40, [], .cold, [F.TRL_FAULT_VALID, F.TRL_FAULT_KIND, F.TRL_FAULT_UNIT, F.TRL_FAULT_REGION, F.TRL_FAULT_ELEM]⟩
  | .TRL_RST_CNT_LO => ⟨.TRL, 0x48, [], .pipe, [F.TRL_RST_CNT_LO_CNT_LO]⟩
  | .TRL_RST_CNT_HI => ⟨.TRL, 0x4c, [], .pipe, [F.TRL_RST_CNT_HI_SAT, F.TRL_RST_CNT_HI_CNT_HI]⟩
  | .TRL_RPR_FAIL => ⟨.TRL, 0x100, [(0x10, 0, 4)], .cold, [F.TRL_RPR_FAIL_FAIL]⟩
  | .TRL_RPR_CLR => ⟨.TRL, 0x104, [(0x10, 0, 4)], .cold, [F.TRL_RPR_CLR_CLR]⟩
  | .TRL_RPR_MAP => ⟨.TRL, 0x108, [(0x10, 0, 4)], .pipe, [F.TRL_RPR_MAP_USED, F.TRL_RPR_MAP_PENDING, F.TRL_RPR_MAP_LSLOT]⟩
  | .TRL_REG_CFG => ⟨.TRL, 0x200, [(8, 0, 16)], .pipe, [F.TRL_REG_CFG_EN, F.TRL_REG_CFG_TIMEOUT]⟩
  | .TRL_REG_STAT => ⟨.TRL, 0x204, [(8, 0, 16)], .pipe, [F.TRL_REG_STAT_STATE, F.TRL_REG_STAT_REMAP, F.TRL_REG_STAT_CAUSE]⟩
  | .TRL_TILE_CFG => ⟨.TRL, 0x400, [(4, 0, 64)], .pipe, [F.TRL_TILE_CFG_EN, F.TRL_TILE_CFG_REGION]⟩
  | .CUVL_CTL => ⟨.CUVL, 0x0, [], .warm, [F.CUVL_CTL_ABORT, F.CUVL_CTL_STAGE]⟩
  | .CUVL_GO => ⟨.CUVL, 0x4, [], .warm, [F.CUVL_GO_GO]⟩
  | .CUVL_CFG => ⟨.CUVL, 0x8, [], .warm, [F.CUVL_CFG_SWTO, F.CUVL_CFG_CLOSE, F.CUVL_CFG_SRC]⟩
  | .CUVL_SRC_LO => ⟨.CUVL, 0x10, [], .warm, [F.CUVL_SRC_LO_ADDR_LO]⟩
  | .CUVL_SRC_HI => ⟨.CUVL, 0x14, [], .warm, [F.CUVL_SRC_HI_ADDR_HI]⟩
  | .CUVL_LEN => ⟨.CUVL, 0x18, [], .warm, [F.CUVL_LEN_LEN]⟩
  | .CUVL_STAT => ⟨.CUVL, 0x20, [], .warm, [F.CUVL_STAT_STATE, F.CUVL_STAT_FORCED, F.CUVL_STAT_PIPES, F.CUVL_STAT_PENDING, F.CUVL_STAT_PROGRESS]⟩
  | .CUVL_ERR => ⟨.CUVL, 0x24, [], .warm, [F.CUVL_ERR_CODE, F.CUVL_ERR_SECTION, F.CUVL_ERR_WORD]⟩
  | .CUVL_ERR_DET => ⟨.CUVL, 0x28, [], .warm, [F.CUVL_ERR_DET_DETAIL]⟩
  | .CUVL_REFUSE => ⟨.CUVL, 0x2c, [], .warm, [F.CUVL_REFUSE_GO, F.CUVL_REFUSE_STAGE]⟩
  | .CUVL_BASE => ⟨.CUVL, 0x40, [(4, 0, 4)], .warm, [F.CUVL_BASE_BASE]⟩
  | .CUVL_GEN => ⟨.CUVL, 0x50, [(4, 0, 4)], .warm, [F.CUVL_GEN_VALID, F.CUVL_GEN_SWITCHING, F.CUVL_GEN_GEN]⟩
  | .CUVL_SVN => ⟨.CUVL, 0x60, [], .warm, [F.CUVL_SVN_LAST, F.CUVL_SVN_FLOOR]⟩
  | .CUVL_DIGEST => ⟨.CUVL, 0x80, [(4, 0, 12)], .warm, [F.CUVL_DIGEST_D]⟩
  | .LANE_SCFG => ⟨.LANE, 0x0, [], .pipe, [F.LANE_SCFG_DPOL, F.LANE_SCFG_SMASK, F.LANE_SCFG_SRATE, F.LANE_SCFG_SMODE]⟩
  | .LANE_REFCFG => ⟨.LANE, 0x4, [], .pipe, [F.LANE_REFCFG_SREF, F.LANE_REFCFG_FREFB, F.LANE_REFCFG_FREFA]⟩
  | .LANE_FCFG => ⟨.LANE, 0x10, [(4, 0, 6)], .pipe, [F.LANE_FCFG_TXPOL, F.LANE_FCFG_RXPOL, F.LANE_FCFG_RSFEC, F.LANE_FCFG_REFSEL, F.LANE_FCFG_ROLE]⟩
  | .LANE_RETRY => ⟨.LANE, 0x40, [], .warm, [F.LANE_RETRY_INT, F.LANE_RETRY_T]⟩
  | .LANE_CTL => ⟨.LANE, 0x44, [], .pipe, [F.LANE_CTL_RETRAIN]⟩
  | .LANE_SNAP => ⟨.LANE, 0x48, [], .pipe, [F.LANE_SNAP_SNAP]⟩
  | .LANE_REFSTAT => ⟨.LANE, 0x4c, [], .pipe, [F.LANE_REFSTAT_FAULT, F.LANE_REFSTAT_OK]⟩
  | .LANE_ROLE_STAT => ⟨.LANE, 0x80, [(4, 0, 7)], .pipe, [F.LANE_ROLE_STAT_STATE, F.LANE_ROLE_STAT_FCAUSE, F.LANE_ROLE_STAT_ORDER, F.LANE_ROLE_STAT_ELAPSED]⟩
  | .LANE_CTLE => ⟨.LANE, 0x1000, [(0x80, 0, 12)], .warm, [F.LANE_CTLE_ADAPT, F.LANE_CTLE_FREEZE, F.LANE_CTLE_NOW, F.LANE_CTLE_MAN]⟩
  | .LANE_TXFIR => ⟨.LANE, 0x1004, [(0x80, 0, 12)], .warm, [F.LANE_TXFIR_POST, F.LANE_TXFIR_MAIN, F.LANE_TXFIR_PRE]⟩
  | .LANE_STAT => ⟨.LANE, 0x1008, [(0x80, 0, 12)], .pipe, [F.LANE_STAT_SIG, F.LANE_STAT_CDR, F.LANE_STAT_BLOCK, F.LANE_STAT_POLINV, F.LANE_STAT_STAGE, F.LANE_STAT_LID, F.LANE_STAT_NLANE, F.LANE_STAT_PORT, F.LANE_STAT_SKEW]⟩
  | .LANE_PRBS_CTL => ⟨.LANE, 0x100c, [(0x80, 0, 12)], .pipe, [F.LANE_PRBS_CTL_CHK_EN, F.LANE_PRBS_CTL_GEN_EN, F.LANE_PRBS_CTL_INV, F.LANE_PRBS_CTL_LOOP, F.LANE_PRBS_CTL_TEST, F.LANE_PRBS_CTL_TRATE, F.LANE_PRBS_CTL_PAT]⟩
  | .LANE_PRBS_STAT => ⟨.LANE, 0x1010, [(0x80, 0, 12)], .pipe, [F.LANE_PRBS_STAT_LOCK, F.LANE_PRBS_STAT_SLOSS, F.LANE_PRBS_STAT_REFUSED]⟩
  | .LANE_HDR_ERR_LO => ⟨.LANE, 0x1020, [(0x80, 0, 12)], .pipe, [F.LANE_HDR_ERR_LO_CNT_LO]⟩
  | .LANE_HDR_ERR_HI => ⟨.LANE, 0x1024, [(0x80, 0, 12)], .pipe, [F.LANE_HDR_ERR_HI_SAT, F.LANE_HDR_ERR_HI_CNT_HI]⟩
  | .LANE_DOWN_CNT_LO => ⟨.LANE, 0x1028, [(0x80, 0, 12)], .pipe, [F.LANE_DOWN_CNT_LO_CNT_LO]⟩
  | .LANE_DOWN_CNT_HI => ⟨.LANE, 0x102c, [(0x80, 0, 12)], .pipe, [F.LANE_DOWN_CNT_HI_SAT, F.LANE_DOWN_CNT_HI_CNT_HI]⟩
  | .LANE_PRBS_ERR_LO => ⟨.LANE, 0x1030, [(0x80, 0, 12)], .pipe, [F.LANE_PRBS_ERR_LO_CNT_LO]⟩
  | .LANE_PRBS_ERR_HI => ⟨.LANE, 0x1034, [(0x80, 0, 12)], .pipe, [F.LANE_PRBS_ERR_HI_SAT, F.LANE_PRBS_ERR_HI_CNT_HI]⟩
  | .LANE_PRBS_BITS_LO => ⟨.LANE, 0x1038, [(0x80, 0, 12)], .pipe, [F.LANE_PRBS_BITS_LO_CNT_LO]⟩
  | .LANE_PRBS_BITS_HI => ⟨.LANE, 0x103c, [(0x80, 0, 12)], .pipe, [F.LANE_PRBS_BITS_HI_SAT, F.LANE_PRBS_BITS_HI_CNT_HI]⟩
  | .LANE_SNAP_ERR_LO => ⟨.LANE, 0x1040, [(0x80, 0, 12)], .pipe, [F.LANE_SNAP_ERR_LO_CNT_LO]⟩
  | .LANE_SNAP_ERR_HI => ⟨.LANE, 0x1044, [(0x80, 0, 12)], .pipe, [F.LANE_SNAP_ERR_HI_SAT, F.LANE_SNAP_ERR_HI_CNT_HI]⟩
  | .LANE_SNAP_BITS_LO => ⟨.LANE, 0x1048, [(0x80, 0, 12)], .pipe, [F.LANE_SNAP_BITS_LO_CNT_LO]⟩
  | .LANE_SNAP_BITS_HI => ⟨.LANE, 0x104c, [(0x80, 0, 12)], .pipe, [F.LANE_SNAP_BITS_HI_SAT, F.LANE_SNAP_BITS_HI_CNT_HI]⟩
  | .SFE_STAT => ⟨.SFE, 0x0, [], .pipe, [F.SFE_STAT_IDVALID, F.SFE_STAT_BASE]⟩
  | .SFE_HP_CFG => ⟨.SFE, 0x8, [], .warm, [F.SFE_HP_CFG_IDCHK, F.SFE_HP_CFG_INSMAX]⟩
  | .SFE_HP_STAT => ⟨.SFE, 0xc, [], .cold, [F.SFE_HP_STAT_VALID, F.SFE_HP_STAT_OUTCOME, F.SFE_HP_STAT_INSDELTA, F.SFE_HP_STAT_GAPMS]⟩
  | .SFE_TS_CORR => ⟨.SFE, 0x10, [], .warm, [F.SFE_TS_CORR_CORR]⟩
  | .SFE_STRIPE => ⟨.SFE, 0x14, [], .pipe, [F.SFE_STRIPE_INDEX, F.SFE_STRIPE_NSTRIPE, F.SFE_STRIPE_HALO_R, F.SFE_STRIPE_HALO_L]⟩
  | .SFE_STRIPE_X0 => ⟨.SFE, 0x18, [], .pipe, [F.SFE_STRIPE_X0_X0]⟩
  | .SFE_DPHY_CFG => ⟨.SFE, 0x1c, [], .pipe, [F.SFE_DPHY_CFG_NDL, F.SFE_DPHY_CFG_LOSS_T, F.SFE_DPHY_CFG_RATE]⟩
  | .SFE_ID_SERIAL => ⟨.SFE, 0x20, [(4, 0, 4)], .pipe, [F.SFE_ID_SERIAL_VALUE]⟩
  | .SFE_ID_INSERT => ⟨.SFE, 0x30, [], .pipe, [F.SFE_ID_INSERT_VALUE]⟩
  | .SFE_ID_MODE => ⟨.SFE, 0x34, [], .pipe, [F.SFE_ID_MODE_VALUE]⟩
  | .SFE_I3C_CFG => ⟨.SFE, 0x40, [], .warm, [F.SFE_I3C_CFG_LEGACY, F.SFE_I3C_CFG_SPEED, F.SFE_I3C_CFG_DYN, F.SFE_I3C_CFG_STATIC]⟩
  | .SFE_I3C_CMD => ⟨.SFE, 0x44, [], .warm, [F.SFE_I3C_CMD_GO, F.SFE_I3C_CMD_TYPE, F.SFE_I3C_CMD_TRIG, F.SFE_I3C_CMD_TVC, F.SFE_I3C_CMD_ADDR, F.SFE_I3C_CMD_CCC, F.SFE_I3C_CMD_LEN]⟩
  | .SFE_I3C_STAT => ⟨.SFE, 0x48, [], .pipe, [F.SFE_I3C_STAT_BUSY, F.SFE_I3C_STAT_RESULT, F.SFE_I3C_STAT_IBI_MDB, F.SFE_I3C_STAT_COUNT]⟩
  | .SFE_I3C_BUF => ⟨.SFE, 0x80, [(4, 0, 16)], .warm, [F.SFE_I3C_BUF_DATA]⟩
  | .SFE_VCG => ⟨.SFE, 0x100, [(8, 0, 16)], .pipe, [F.SFE_VCG_EN, F.SFE_VCG_REC, F.SFE_VCG_DT, F.SFE_VCG_WIDTH]⟩
  | .SFE_VCL => ⟨.SFE, 0x104, [(8, 0, 16)], .pipe, [F.SFE_VCL_LINES]⟩
  | .SFE_VCT => ⟨.SFE, 0x200, [(4, 0, 16)], .pipe, [F.SFE_VCT_EN, F.SFE_VCT_EMB, F.SFE_VCT_ALIGN, F.SFE_VCT_ECASK, F.SFE_VCT_CASK]⟩
  | .SFE_ERR_CNT_LO => ⟨.SFE, 0x300, [(8, 0, 8)], .pipe, [F.SFE_ERR_CNT_LO_CNT_LO]⟩
  | .SFE_ERR_CNT_HI => ⟨.SFE, 0x304, [(8, 0, 8)], .pipe, [F.SFE_ERR_CNT_HI_SAT, F.SFE_ERR_CNT_HI_CNT_HI]⟩
  | .VRS_CORR_CNT_LO => ⟨.VRS, 0x10, [], .pipe, [F.VRS_CORR_CNT_LO_CNT_LO]⟩
  | .VRS_CORR_CNT_HI => ⟨.VRS, 0x14, [], .pipe, [F.VRS_CORR_CNT_HI_SAT, F.VRS_CORR_CNT_HI_CNT_HI]⟩
  | .VRS_UNC_CNT_LO => ⟨.VRS, 0x18, [], .pipe, [F.VRS_UNC_CNT_LO_CNT_LO]⟩
  | .VRS_UNC_CNT_HI => ⟨.VRS, 0x1c, [], .pipe, [F.VRS_UNC_CNT_HI_SAT, F.VRS_UNC_CNT_HI_CNT_HI]⟩
  | .VRS_MOS_VC => ⟨.VRS, 0x40, [], .pipe, [F.VRS_MOS_VC_DESC]⟩
  | .VRS_MOS_CFG => ⟨.VRS, 0x100, [(0x80, 0, 4)], .pipe, [F.VRS_MOS_CFG_EN, F.VRS_MOS_CFG_NPLANE, F.VRS_MOS_CFG_YPH, F.VRS_MOS_CFG_XPH, F.VRS_MOS_CFG_PH, F.VRS_MOS_CFG_PW]⟩
  | .VRS_MOS_SITE => ⟨.VRS, 0x104, [(0x80, 0, 4), (4, 0, 16)], .pipe, [F.VRS_MOS_SITE_SITE3, F.VRS_MOS_SITE_SITE2, F.VRS_MOS_SITE_SITE1, F.VRS_MOS_SITE_SITE0]⟩
  | .VRS_CFG => ⟨.VRS, 0x1000, [(0x1000, 0, 8)], .pipe, [F.VRS_CFG_EN, F.VRS_CFG_STG, F.VRS_CFG_IFMT, F.VRS_CFG_OFMT, F.VRS_CFG_IN2, F.VRS_CFG_OUT2, F.VRS_CFG_PASS3]⟩
  | .VRS_CROP => ⟨.VRS, 0x1004, [(0x1000, 0, 8)], .pipe, [F.VRS_CROP_CROP_R, F.VRS_CROP_CROP_L]⟩
  | .VRS_BANK_CTL => ⟨.VRS, 0x1010, [(0x1000, 0, 8)], .pipe, [F.VRS_BANK_CTL_FORCE, F.VRS_BANK_CTL_DISARM, F.VRS_BANK_CTL_RST, F.VRS_BANK_CTL_ARM]⟩
  | .VRS_BANK_STAT => ⟨.VRS, 0x1014, [(0x1000, 0, 8)], .pipe, [F.VRS_BANK_STAT_EXTRA, F.VRS_BANK_STAT_REFUSED, F.VRS_BANK_STAT_HELD, F.VRS_BANK_STAT_MISALIGN, F.VRS_BANK_STAT_BAD, F.VRS_BANK_STAT_COMPLETE, F.VRS_BANK_STAT_ARMED, F.VRS_BANK_STAT_ACTIVE]⟩
  | .VRS_LATE_CNT_LO => ⟨.VRS, 0x1018, [(0x1000, 0, 8)], .pipe, [F.VRS_LATE_CNT_LO_CNT_LO]⟩
  | .VRS_LATE_CNT_HI => ⟨.VRS, 0x101c, [(0x1000, 0, 8)], .pipe, [F.VRS_LATE_CNT_HI_SAT, F.VRS_LATE_CNT_HI_CNT_HI]⟩
  | .VRS_TRD_ADDR => ⟨.VRS, 0x1020, [(0x1000, 0, 8)], .pipe, [F.VRS_TRD_ADDR_BANK, F.VRS_TRD_ADDR_TABLE, F.VRS_TRD_ADDR_WORD]⟩
  | .VRS_TRD_DATA => ⟨.VRS, 0x1024, [(0x1000, 0, 8)], .pipe, [F.VRS_TRD_DATA_DATA]⟩
  | .VRS_TRD_STAT => ⟨.VRS, 0x1028, [(0x1000, 0, 8)], .pipe, [F.VRS_TRD_STAT_VALID, F.VRS_TRD_STAT_UNC, F.VRS_TRD_STAT_CORR]⟩
  | .VRS_TPORT => ⟨.VRS, 0x1100, [(0x1000, 0, 8), (4, 0, 5)], .pipe, [F.VRS_TPORT_WORD]⟩
  | .STAT_CFG => ⟨.STAT, 0x100, [(0x100, 0, 4)], .pipe, [F.STAT_CFG_EN, F.STAT_CFG_MODE, F.STAT_CFG_PACK, F.STAT_CFG_MERGE, F.STAT_CFG_DESC, F.STAT_CFG_MGRP, F.STAT_CFG_NH, F.STAT_CFG_ZX, F.STAT_CFG_ZY]⟩
  | .STAT_SIZE => ⟨.STAT, 0x104, [(0x100, 0, 4)], .pipe, [F.STAT_SIZE_LINES, F.STAT_SIZE_WIDTH]⟩
  | .STAT_COL0 => ⟨.STAT, 0x108, [(0x100, 0, 4)], .pipe, [F.STAT_COL0_COL0]⟩
  | .STAT_ORG => ⟨.STAT, 0x10c, [(0x100, 0, 4)], .pipe, [F.STAT_ORG_OY, F.STAT_ORG_OX]⟩
  | .STAT_ZONE => ⟨.STAT, 0x110, [(0x100, 0, 4)], .pipe, [F.STAT_ZONE_ZH, F.STAT_ZONE_ZW]⟩
  | .STAT_CHMAP => ⟨.STAT, 0x114, [(0x100, 0, 4)], .pipe, [F.STAT_CHMAP_MAP]⟩
  | .STAT_LUMA => ⟨.STAT, 0x118, [(0x100, 0, 4)], .pipe, [F.STAT_LUMA_W2, F.STAT_LUMA_W1, F.STAT_LUMA_W0]⟩
  | .STAT_RD => ⟨.STAT, 0x11c, [(0x100, 0, 4)], .pipe, [F.STAT_RD_HELD, F.STAT_RD_NEWER, F.STAT_RD_RELEASE, F.STAT_RD_HOLD, F.STAT_RD_HSEQ]⟩
  | .STAT_HIST => ⟨.STAT, 0x140, [(0x100, 0, 4), (4, 0, 16)], .pipe, [F.STAT_HIST_SRC, F.STAT_HIST_BINSH, F.STAT_HIST_ZX0, F.STAT_HIST_ZX1, F.STAT_HIST_ZY0, F.STAT_HIST_ZY1]⟩
  | .HUB_STM_CFG => ⟨.HUB_CTL, 0x3000, [(0x20, 0, 4)], .warm, [F.HUB_STM_CFG_EN, F.HUB_STM_CFG_PIPES, F.HUB_STM_CFG_MWIN, F.HUB_STM_CFG_RSIZE, F.HUB_STM_CFG_SLOT]⟩
  | .HUB_STM_RING_LO => ⟨.HUB_CTL, 0x3004, [(0x20, 0, 4)], .warm, [F.HUB_STM_RING_LO_BASE_LO]⟩
  | .HUB_STM_RING_HI => ⟨.HUB_CTL, 0x3008, [(0x20, 0, 4)], .warm, [F.HUB_STM_RING_HI_BASE_HI]⟩
  | .HUB_STM_HEAD => ⟨.HUB_CTL, 0x300c, [(0x20, 0, 4)], .warm, [F.HUB_STM_HEAD_HEAD]⟩
  | .HUB_STM_TAIL => ⟨.HUB_CTL, 0x3010, [(0x20, 0, 4)], .warm, [F.HUB_STM_TAIL_OVF, F.HUB_STM_TAIL_TAIL]⟩
  | .PXR_ENC_CFG => ⟨.PXR, 0x0, [], .pipe, [F.PXR_ENC_CFG_EN, F.PXR_ENC_CFG_MODE, F.PXR_ENC_CFG_DELTA, F.PXR_ENC_CFG_DMIN, F.PXR_ENC_CFG_DMAX, F.PXR_ENC_CFG_DREP]⟩
  | .PXR_ENC_BUDGET => ⟨.PXR, 0x4, [], .pipe, [F.PXR_ENC_BUDGET_BUDGET8]⟩
  | .PXR_ENC_TAKE => ⟨.PXR, 0x8, [], .pipe, [F.PXR_ENC_TAKE_TAKE]⟩
  | .PXR_CNT_FRAMES_LO => ⟨.PXR, 0x10, [], .pipe, [F.PXR_CNT_FRAMES_LO_CNT_LO]⟩
  | .PXR_CNT_FRAMES_HI => ⟨.PXR, 0x14, [], .pipe, [F.PXR_CNT_FRAMES_HI_SAT, F.PXR_CNT_FRAMES_HI_CNT_HI]⟩
  | .PXR_CNT_GAPS_LO => ⟨.PXR, 0x18, [], .pipe, [F.PXR_CNT_GAPS_LO_CNT_LO]⟩
  | .PXR_CNT_GAPS_HI => ⟨.PXR, 0x1c, [], .pipe, [F.PXR_CNT_GAPS_HI_SAT, F.PXR_CNT_GAPS_HI_CNT_HI]⟩
  | .PXR_CNT_REPEAT_LO => ⟨.PXR, 0x20, [], .pipe, [F.PXR_CNT_REPEAT_LO_CNT_LO]⟩
  | .PXR_CNT_REPEAT_HI => ⟨.PXR, 0x24, [], .pipe, [F.PXR_CNT_REPEAT_HI_SAT, F.PXR_CNT_REPEAT_HI_CNT_HI]⟩
  | .PXR_CNT_DSLICE_LO => ⟨.PXR, 0x28, [], .pipe, [F.PXR_CNT_DSLICE_LO_CNT_LO]⟩
  | .PXR_CNT_DSLICE_HI => ⟨.PXR, 0x2c, [], .pipe, [F.PXR_CNT_DSLICE_HI_SAT, F.PXR_CNT_DSLICE_HI_CNT_HI]⟩
  | .PXR_CNT_BYTES_LO => ⟨.PXR, 0x30, [], .pipe, [F.PXR_CNT_BYTES_LO_CNT_LO]⟩
  | .PXR_CNT_BYTES_HI => ⟨.PXR, 0x34, [], .pipe, [F.PXR_CNT_BYTES_HI_SAT, F.PXR_CNT_BYTES_HI_CNT_HI]⟩
  | .PXR_ENC_VCC => ⟨.PXR, 0x100, [(4, 0, 16)], .pipe, [F.PXR_ENC_VCC_CASK]⟩
  | .PXR_ENC_VSTAT => ⟨.PXR, 0x140, [(8, 0, 16)], .pipe, [F.PXR_ENC_VSTAT_OPEN, F.PXR_ENC_VSTAT_DELTA, F.PXR_ENC_VSTAT_RATIO]⟩
  | .PXR_ENC_VSEQ => ⟨.PXR, 0x144, [(8, 0, 16)], .pipe, [F.PXR_ENC_VSEQ_SEQ]⟩
  | .PXR_DEC_CTL => ⟨.PXR, 0x1000, [(0x100, 0, 4)], .pipe, [F.PXR_DEC_CTL_ABORT, F.PXR_DEC_CTL_GO]⟩
  | .PXR_DEC_CFG => ⟨.PXR, 0x1004, [(0x100, 0, 4)], .pipe, [F.PXR_DEC_CFG_OUT, F.PXR_DEC_CFG_OFMT, F.PXR_DEC_CFG_CROP, F.PXR_DEC_CFG_ALIGN, F.PXR_DEC_CFG_CONCEAL, F.PXR_DEC_CFG_KEEPBAD, F.PXR_DEC_CFG_CASK]⟩
  | .PXR_DEC_SRC_LO => ⟨.PXR, 0x1008, [(0x100, 0, 4)], .pipe, [F.PXR_DEC_SRC_LO_ADDR_LO]⟩
  | .PXR_DEC_SRC_HI => ⟨.PXR, 0x100c, [(0x100, 0, 4)], .pipe, [F.PXR_DEC_SRC_HI_ADDR_HI]⟩
  | .PXR_DEC_SLEN => ⟨.PXR, 0x1010, [(0x100, 0, 4)], .pipe, [F.PXR_DEC_SLEN_LEN]⟩
  | .PXR_DEC_DSC_LO => ⟨.PXR, 0x1014, [(0x100, 0, 4)], .pipe, [F.PXR_DEC_DSC_LO_ADDR_LO]⟩
  | .PXR_DEC_DSC_HI => ⟨.PXR, 0x1018, [(0x100, 0, 4)], .pipe, [F.PXR_DEC_DSC_HI_ADDR_HI]⟩
  | .PXR_DEC_DST_LO => ⟨.PXR, 0x101c, [(0x100, 0, 4)], .pipe, [F.PXR_DEC_DST_LO_ADDR_LO]⟩
  | .PXR_DEC_DST_HI => ⟨.PXR, 0x1020, [(0x100, 0, 4)], .pipe, [F.PXR_DEC_DST_HI_ADDR_HI]⟩
  | .PXR_DEC_DLEN => ⟨.PXR, 0x1024, [(0x100, 0, 4)], .pipe, [F.PXR_DEC_DLEN_LEN]⟩
  | .PXR_DEC_STRIDE => ⟨.PXR, 0x1028, [(0x100, 0, 4)], .pipe, [F.PXR_DEC_STRIDE_STRIDE8]⟩
  | .PXR_DEC_STAT => ⟨.PXR, 0x102c, [(0x100, 0, 4)], .pipe, [F.PXR_DEC_STAT_STATE, F.PXR_DEC_STAT_STATUS, F.PXR_DEC_STAT_INDEX_LOST, F.PXR_DEC_STAT_REPEAT]⟩
  | .PXR_DEC_RES => ⟨.PXR, 0x1030, [(0x100, 0, 4)], .pipe, [F.PXR_DEC_RES_CROWS, F.PXR_DEC_RES_BADS]⟩
  | .PXR_DEC_SEQ => ⟨.PXR, 0x1034, [(0x100, 0, 4)], .pipe, [F.PXR_DEC_SEQ_SEQ]⟩
  | .PXR_DEC_MAP_LO => ⟨.PXR, 0x1038, [(0x100, 0, 4)], .pipe, [F.PXR_DEC_MAP_LO_ADDR_LO]⟩
  | .PXR_DEC_MAP_HI => ⟨.PXR, 0x103c, [(0x100, 0, 4)], .pipe, [F.PXR_DEC_MAP_HI_ADDR_HI]⟩
  | .BLK_STAT => ⟨.BLK, 0x0, [], .pipe, [F.BLK_STAT_CORE, F.BLK_STAT_XS]⟩
  | .BLK_CNT_LO => ⟨.BLK, 0x100, [(8, 0, 4)], .pipe, [F.BLK_CNT_LO_CNT_LO]⟩
  | .BLK_CNT_HI => ⟨.BLK, 0x104, [(8, 0, 4)], .pipe, [F.BLK_CNT_HI_SAT, F.BLK_CNT_HI_CNT_HI]⟩
  | .BLK_CTXCFG => ⟨.BLK, 0x1000, [(0x400, 0, 16)], .pipe, [F.BLK_CTXCFG_EN, F.BLK_CTXCFG_ENGINE, F.BLK_CTXCFG_SHED, F.BLK_CTXCFG_EFFORT]⟩
  | .BLK_CTXRATE => ⟨.BLK, 0x1004, [(0x400, 0, 16)], .pipe, [F.BLK_CTXRATE_NUM, F.BLK_CTXRATE_DEN]⟩
  | .BLK_CTX_UPD => ⟨.BLK, 0x1008, [(0x400, 0, 16)], .pipe, [F.BLK_CTX_UPD_ASEQ, F.BLK_CTX_UPD_AT, F.BLK_CTX_UPD_CANCEL, F.BLK_CTX_UPD_GO]⟩
  | .BLK_RCADJ => ⟨.BLK, 0x100c, [(0x400, 0, 16)], .pipe, [F.BLK_RCADJ_SCALE]⟩
  | .BLK_ROI_A => ⟨.BLK, 0x1040, [(0x400, 0, 16), (8, 0, 8)], .pipe, [F.BLK_ROI_A_EN, F.BLK_ROI_A_DQP, F.BLK_ROI_A_Y0, F.BLK_ROI_A_X0]⟩
  | .BLK_ROI_B => ⟨.BLK, 0x1044, [(0x400, 0, 16), (8, 0, 8)], .pipe, [F.BLK_ROI_B_Y1, F.BLK_ROI_B_X1]⟩
  | .BLK_SCFG => ⟨.BLK, 0x1100, [(0x400, 0, 16), (0x40, 0, 4)], .pipe, [F.BLK_SCFG_EN, F.BLK_SCFG_TILED, F.BLK_SCFG_FMT, F.BLK_SCFG_ROLE, F.BLK_SCFG_OBJ, F.BLK_SCFG_DIV, F.BLK_SCFG_PHASE, F.BLK_SCFG_TIDX, F.BLK_SCFG_NTM1, F.BLK_SCFG_FSTORE]⟩
  | .BLK_SSIZE => ⟨.BLK, 0x1104, [(0x400, 0, 16), (0x40, 0, 4)], .pipe, [F.BLK_SSIZE_HEIGHT, F.BLK_SSIZE_WIDTH]⟩
  | .BLK_STILE => ⟨.BLK, 0x1108, [(0x400, 0, 16), (0x40, 0, 4)], .pipe, [F.BLK_STILE_PICW, F.BLK_STILE_X0]⟩
  | .BLK_SGOP => ⟨.BLK, 0x110c, [(0x400, 0, 16), (0x40, 0, 4)], .pipe, [F.BLK_SGOP_GROUP, F.BLK_SGOP_NB, F.BLK_SGOP_KEYINT]⟩
  | .BLK_SPORT => ⟨.BLK, 0x1110, [(0x400, 0, 16), (0x40, 0, 4)], .pipe, [F.BLK_SPORT_HALO, F.BLK_SPORT_IBITS, F.BLK_SPORT_INFMT, F.BLK_SPORT_OCASK, F.BLK_SPORT_ICASK]⟩
  | .BLK_RCT => ⟨.BLK, 0x1114, [(0x400, 0, 16), (0x40, 0, 4)], .pipe, [F.BLK_RCT_MODE, F.BLK_RCT_TARGET]⟩
  | .BLK_RCM => ⟨.BLK, 0x1118, [(0x400, 0, 16), (0x40, 0, 4)], .pipe, [F.BLK_RCM_MAXBR]⟩
  | .BLK_RCQ => ⟨.BLK, 0x111c, [(0x400, 0, 16), (0x40, 0, 4)], .pipe, [F.BLK_RCQ_QPMAX, F.BLK_RCQ_QPMIN, F.BLK_RCQ_QCQP, F.BLK_RCQ_QSPREAD]⟩
  | .BLK_RCB => ⟨.BLK, 0x1120, [(0x400, 0, 16), (0x40, 0, 4)], .pipe, [F.BLK_RCB_VBVMS]⟩
  | .BLK_SSTAT => ⟨.BLK, 0x1124, [(0x400, 0, 16), (0x40, 0, 4)], .pipe, [F.BLK_SSTAT_RUN, F.BLK_SSTAT_PAUSED, F.BLK_SSTAT_STOPPED, F.BLK_SSTAT_PEND, F.BLK_SSTAT_LOCAL, F.BLK_SSTAT_QAVG, F.BLK_SSTAT_SEQ]⟩
  | .BLK_SCTL => ⟨.BLK, 0x1128, [(0x400, 0, 16), (0x40, 0, 4)], .pipe, [F.BLK_SCTL_REFRESH, F.BLK_SCTL_KEY]⟩
  | .BLK_DEC_CTL => ⟨.BLK, 0x6000, [(0x100, 0, 4)], .pipe, [F.BLK_DEC_CTL_RESET, F.BLK_DEC_CTL_ABORT, F.BLK_DEC_CTL_GO]⟩
  | .BLK_DEC_CFG => ⟨.BLK, 0x6004, [(0x100, 0, 4)], .pipe, [F.BLK_DEC_CFG_CONCEAL]⟩
  | .BLK_DEC_SRC_LO => ⟨.BLK, 0x6008, [(0x100, 0, 4)], .pipe, [F.BLK_DEC_SRC_LO_ADDR_LO]⟩
  | .BLK_DEC_SRC_HI => ⟨.BLK, 0x600c, [(0x100, 0, 4)], .pipe, [F.BLK_DEC_SRC_HI_ADDR_HI]⟩
  | .BLK_DEC_SLEN => ⟨.BLK, 0x6010, [(0x100, 0, 4)], .pipe, [F.BLK_DEC_SLEN_LEN]⟩
  | .BLK_DEC_POOL_LO => ⟨.BLK, 0x6014, [(0x100, 0, 4)], .pipe, [F.BLK_DEC_POOL_LO_ADDR_LO]⟩
  | .BLK_DEC_POOL_HI => ⟨.BLK, 0x6018, [(0x100, 0, 4)], .pipe, [F.BLK_DEC_POOL_HI_ADDR_HI]⟩
  | .BLK_DEC_DST_LO => ⟨.BLK, 0x601c, [(0x100, 0, 4)], .pipe, [F.BLK_DEC_DST_LO_ADDR_LO]⟩
  | .BLK_DEC_DST_HI => ⟨.BLK, 0x6020, [(0x100, 0, 4)], .pipe, [F.BLK_DEC_DST_HI_ADDR_HI]⟩
  | .BLK_DEC_DLEN => ⟨.BLK, 0x6024, [(0x100, 0, 4)], .pipe, [F.BLK_DEC_DLEN_LEN]⟩
  | .BLK_DEC_STRIDE => ⟨.BLK, 0x6028, [(0x100, 0, 4)], .pipe, [F.BLK_DEC_STRIDE_STRIDE8]⟩
  | .BLK_DEC_STAT => ⟨.BLK, 0x602c, [(0x100, 0, 4)], .pipe, [F.BLK_DEC_STAT_STATE, F.BLK_DEC_STAT_STATUS, F.BLK_DEC_STAT_DRIFT, F.BLK_DEC_STAT_KEY]⟩
  | .BLK_DEC_RES => ⟨.BLK, 0x6030, [(0x100, 0, 4)], .pipe, [F.BLK_DEC_RES_CBLK, F.BLK_DEC_RES_USED]⟩
  | .BLK_DEC_PLEN => ⟨.BLK, 0x6034, [(0x100, 0, 4)], .pipe, [F.BLK_DEC_PLEN_LEN]⟩
  | .BLK_DEC_BUDGET => ⟨.BLK, 0x6038, [(0x100, 0, 4)], .pipe, [F.BLK_DEC_BUDGET_BUDGET]⟩
  | .HUB_ASM_CFG => ⟨.HUB_CTL, 0x4000, [(0x20, 0, 64)], .warm, [F.HUB_ASM_CFG_EN, F.HUB_ASM_CFG_PIPES, F.HUB_ASM_CFG_FMT, F.HUB_ASM_CFG_DEST, F.HUB_ASM_CFG_DPIPE, F.HUB_ASM_CFG_DLIVE, F.HUB_ASM_CFG_AWIN]⟩
  | .HUB_ASM_RING_LO => ⟨.HUB_CTL, 0x4004, [(0x20, 0, 64)], .warm, [F.HUB_ASM_RING_LO_BASE_LO, F.HUB_ASM_RING_LO_RSIZE]⟩
  | .HUB_ASM_RING_HI => ⟨.HUB_CTL, 0x4008, [(0x20, 0, 64)], .warm, [F.HUB_ASM_RING_HI_BASE_HI]⟩
  | .HUB_ASM_HEAD => ⟨.HUB_CTL, 0x400c, [(0x20, 0, 64)], .warm, [F.HUB_ASM_HEAD_HEAD]⟩
  | .HUB_ASM_TAIL => ⟨.HUB_CTL, 0x4010, [(0x20, 0, 64)], .warm, [F.HUB_ASM_TAIL_OVF, F.HUB_ASM_TAIL_TAIL]⟩
  | .HUB_ASM_STAT => ⟨.HUB_CTL, 0x4014, [(0x20, 0, 64)], .warm, [F.HUB_ASM_STAT_STARTED, F.HUB_ASM_STAT_QC, F.HUB_ASM_STAT_SEQ]⟩
  | .CEL_TAKE_CMD => ⟨.CEL, 0x1000, [], .warm, [F.CEL_TAKE_CMD_GO, F.CEL_TAKE_CMD_OP, F.CEL_TAKE_CMD_PIPES, F.CEL_TAKE_CMD_VCS]⟩
  | .CEL_TAKE_ARG => ⟨.CEL, 0x1004, [], .warm, [F.CEL_TAKE_ARG_TAKE]⟩
  | .CEL_TAKE_STAT => ⟨.CEL, 0x1008, [], .warm, [F.CEL_TAKE_STAT_BUSY, F.CEL_TAKE_STAT_RESULT, F.CEL_TAKE_STAT_FPIPE]⟩
  | .CEL_TAKE_NUM => ⟨.CEL, 0x100c, [], .warm, [F.CEL_TAKE_NUM_TAKE]⟩
  | .CEL_SHARE_STAT => ⟨.CEL, 0x1010, [], .flr, [F.CEL_SHARE_STAT_OVERSUB, F.CEL_SHARE_STAT_SUM]⟩
  | .CEL_SHARE => ⟨.CEL, 0x1800, [(4, 1, 512)], .flr, [F.CEL_SHARE_SHARE]⟩
  | .CEL_TSTAT => ⟨.CEL, 0x2000, [(4, 1, 512)], .flr, [F.CEL_TSTAT_WAIT, F.CEL_TSTAT_SHORT, F.CEL_TSTAT_FRAC]⟩
  | .CELP_RB_LVL => ⟨.CELP, 0x1000, [], .warm, [F.CELP_RB_LVL_L3, F.CELP_RB_LVL_L4, F.CELP_RB_LVL_L5]⟩
  | .CELP_RB_STAT => ⟨.CELP, 0x1004, [], .pipe, [F.CELP_RB_STAT_HOLD3, F.CELP_RB_STAT_HOLD4, F.CELP_RB_STAT_HOLD5, F.CELP_RB_STAT_OCC]⟩
  | .CELP_TQ_CFG => ⟨.CELP, 0x1100, [(4, 0, 8)], .pipe, [F.CELP_TQ_CFG_EN, F.CELP_TQ_CFG_VC]⟩
  | .CELP_TQ_CTL => ⟨.CELP, 0x1120, [(4, 0, 8)], .pipe, [F.CELP_TQ_CTL_RESET]⟩
  | .CELP_TQ_STAT => ⟨.CELP, 0x1140, [(4, 0, 8)], .pipe, [F.CELP_TQ_STAT_STATE, F.CELP_TQ_STAT_LAG]⟩
  | .CELP_STRM_NS => ⟨.CELP, 0x1200, [], .warm, [F.CELP_STRM_NS_RANK5, F.CELP_STRM_NS_NSID]⟩
  | .CELP_STRM_SLBA_LO => ⟨.CELP, 0x1204, [], .warm, [F.CELP_STRM_SLBA_LO_SLBA_LO]⟩
  | .CELP_STRM_SLBA_HI => ⟨.CELP, 0x1208, [], .warm, [F.CELP_STRM_SLBA_HI_SLBA_HI]⟩
  | .CELP_STRM_NLB => ⟨.CELP, 0x120c, [], .warm, [F.CELP_STRM_NLB_NLB]⟩
  | .CELP_STRM_CMD => ⟨.CELP, 0x1210, [], .warm, [F.CELP_STRM_CMD_GO, F.CELP_STRM_CMD_OP, F.CELP_STRM_CMD_HANDLE]⟩
  | .CELP_STRM_RES => ⟨.CELP, 0x1214, [], .warm, [F.CELP_STRM_RES_BUSY, F.CELP_STRM_RES_RESULT, F.CELP_STRM_RES_HANDLE]⟩
  | .CELP_LOCK_STAT => ⟨.CELP, 0x1300, [], .pipe, [F.CELP_LOCK_STAT_PEAK, F.CELP_LOCK_STAT_USED]⟩
  | .CELP_LOCKWAIT_CNT_LO => ⟨.CELP, 0x1308, [], .pipe, [F.CELP_LOCKWAIT_CNT_LO_CNT_LO]⟩
  | .CELP_LOCKWAIT_CNT_HI => ⟨.CELP, 0x130c, [], .pipe, [F.CELP_LOCKWAIT_CNT_HI_SAT, F.CELP_LOCKWAIT_CNT_HI_CNT_HI]⟩
  | .CEL_KEK => ⟨.CEL, 0x0, [], .warm, [F.CEL_KEK_KSLOT]⟩
  | .CEL_SAN_STAT => ⟨.CEL, 0x4, [], .warm, [F.CEL_SAN_STAT_SSTAT, F.CEL_SAN_STAT_CARTS, F.CEL_SAN_STAT_SPROG]⟩
  | .CELP_CART_CFG => ⟨.CELP, 0x0, [], .warm, [F.CELP_CART_CFG_MAPCACHE, F.CELP_CART_CFG_TAKENS, F.CELP_CART_CFG_TIMER]⟩
  | .CELP_CART_CMD => ⟨.CELP, 0x4, [], .pipe, [F.CELP_CART_CMD_EJECT]⟩
  | .CELP_CART_STAT => ⟨.CELP, 0x8, [], .pipe, [F.CELP_CART_STAT_STATE, F.CELP_CART_STAT_OUTCOME, F.CELP_CART_STAT_CAUSE, F.CELP_CART_STAT_CLEAN, F.CELP_CART_STAT_READONLY, F.CELP_CART_STAT_ELAPSED]⟩
  | .CELP_CART_SERIAL => ⟨.CELP, 0x10, [(4, 0, 4)], .pipe, [F.CELP_CART_SERIAL_VALUE]⟩
  | .CELP_CART_MGEN => ⟨.CELP, 0x20, [], .pipe, [F.CELP_CART_MGEN_VALUE]⟩
  | .CELP_RBLD_STAT => ⟨.CELP, 0x30, [], .pipe, [F.CELP_RBLD_STAT_ACTIVE, F.CELP_RBLD_STAT_LEFT]⟩
  | .CELP_STRM_TAG => ⟨.CELP, 0x1218, [], .warm, [F.CELP_STRM_TAG_TAKE, F.CELP_STRM_TAG_GROUP, F.CELP_STRM_TAG_TILEINFO]⟩
  | .DRC_PHY_CFG => ⟨.DRC, 0x0, [], .warm, [F.DRC_PHY_CFG_RANKS, F.DRC_PHY_CFG_CAPC, F.DRC_PHY_CFG_RATES]⟩
  | .DRC_INIT => ⟨.DRC, 0x4, [], .warm, [F.DRC_INIT_GO]⟩
  | .DRC_STAT => ⟨.DRC, 0x8, [], .warm, [F.DRC_STAT_STATE, F.DRC_STAT_CHFAULT, F.DRC_STAT_RATE, F.DRC_STAT_TRAINED]⟩
  | .DRC_MAP_CFG => ⟨.DRC, 0x10, [], .pipe, [F.DRC_MAP_CFG_EN, F.DRC_MAP_CFG_FOLD, F.DRC_MAP_CFG_GSH]⟩
  | .DRC_SEED => ⟨.DRC, 0x14, [], .warm, [F.DRC_SEED_SEED]⟩
  | .DRC_HOT_CFG => ⟨.DRC, 0x20, [], .warm, [F.DRC_HOT_CFG_EN, F.DRC_HOT_CFG_SHARE, F.DRC_HOT_CFG_TIME]⟩
  | .DRC_HOT_STAT => ⟨.DRC, 0x24, [], .pipe, [F.DRC_HOT_STAT_HOT, F.DRC_HOT_STAT_HOLD, F.DRC_HOT_STAT_CHAN, F.DRC_HOT_STAT_SHARE]⟩
  | .DRC_SR_CFG => ⟨.DRC, 0x28, [], .warm, [F.DRC_SR_CFG_EN, F.DRC_SR_CFG_IDLE]⟩
  | .DRC_FCHG => ⟨.DRC, 0x30, [], .warm, [F.DRC_FCHG_GO, F.DRC_FCHG_RATE]⟩
  | .DRC_FCHG_STAT => ⟨.DRC, 0x34, [], .pipe, [F.DRC_FCHG_STAT_BUSY, F.DRC_FCHG_STAT_RESULT, F.DRC_FCHG_STAT_BLACKOUT]⟩
  | .DRC_SCRUB => ⟨.DRC, 0x38, [], .warm, [F.DRC_SCRUB_EN, F.DRC_SCRUB_PERIOD]⟩
  | .DRC_CORR_CNT_LO => ⟨.DRC, 0x40, [], .pipe, [F.DRC_CORR_CNT_LO_CNT_LO]⟩
  | .DRC_CORR_CNT_HI => ⟨.DRC, 0x44, [], .pipe, [F.DRC_CORR_CNT_HI_SAT, F.DRC_CORR_CNT_HI_CNT_HI]⟩
  | .DRC_UNC_CNT_LO => ⟨.DRC, 0x48, [], .pipe, [F.DRC_UNC_CNT_LO_CNT_LO]⟩
  | .DRC_UNC_CNT_HI => ⟨.DRC, 0x4c, [], .pipe, [F.DRC_UNC_CNT_HI_SAT, F.DRC_UNC_CNT_HI_CNT_HI]⟩
  | .DRC_ELOG_STAT => ⟨.DRC, 0x50, [], .pipe, [F.DRC_ELOG_STAT_WRAP, F.DRC_ELOG_STAT_NEXT]⟩
  | .DRC_RGN_BASE => ⟨.DRC, 0x100, [(8, 0, 16)], .pipe, [F.DRC_RGN_BASE_EN, F.DRC_RGN_BASE_KIND, F.DRC_RGN_BASE_BASE]⟩
  | .DRC_RGN_SIZE => ⟨.DRC, 0x104, [(8, 0, 16)], .pipe, [F.DRC_RGN_SIZE_SIZE]⟩
  | .DRC_ELOG => ⟨.DRC, 0x200, [(0x10, 0, 16), (4, 0, 4)], .pipe, [F.DRC_ELOG_DATA]⟩
  | .TIME_CTL => ⟨.TIME, 0x0, [], .warm, [F.TIME_CTL_FORCE, F.TIME_CTL_STEP]⟩
  | .TIME_CFG => ⟨.TIME, 0x4, [], .warm, [F.TIME_CFG_REF, F.TIME_CFG_MODE, F.TIME_CFG_XTAL, F.TIME_CFG_SLEW, F.TIME_CFG_SGAIN]⟩
  | .TIME_PTP => ⟨.TIME, 0x8, [], .warm, [F.TIME_PTP_EN, F.TIME_PTP_PROF, F.TIME_PTP_UCAST, F.TIME_PTP_PIPE, F.TIME_PTP_PORT, F.TIME_PTP_DOMAIN]⟩
  | .TIME_SERVO => ⟨.TIME, 0xc, [], .warm, [F.TIME_SERVO_KP, F.TIME_SERVO_KI, F.TIME_SERVO_LOCKTH, F.TIME_SERVO_JUMP]⟩
  | .TIME_STAT => ⟨.TIME, 0x10, [], .warm, [F.TIME_STAT_STATE, F.TIME_STAT_REFFAULT, F.TIME_STAT_REFUSED, F.TIME_STAT_STEPPED, F.TIME_STAT_PENDING, F.TIME_STAT_UTCV]⟩
  | .TIME_NOW_NS => ⟨.TIME, 0x20, [], .warm, [F.TIME_NOW_NS_NS]⟩
  | .TIME_NOW_S_LO => ⟨.TIME, 0x24, [], .warm, [F.TIME_NOW_S_LO_S]⟩
  | .TIME_NOW_S_HI => ⟨.TIME, 0x28, [], .warm, [F.TIME_NOW_S_HI_S]⟩
  | .TIME_OFFSET => ⟨.TIME, 0x30, [], .warm, [F.TIME_OFFSET_VALUE]⟩
  | .TIME_RATE => ⟨.TIME, 0x34, [], .warm, [F.TIME_RATE_VALUE]⟩
  | .TIME_PDELAY => ⟨.TIME, 0x38, [], .warm, [F.TIME_PDELAY_VALUE]⟩
  | .TIME_STEP_S => ⟨.TIME, 0x40, [], .warm, [F.TIME_STEP_S_VALUE]⟩
  | .TIME_STEP_NS => ⟨.TIME, 0x44, [], .warm, [F.TIME_STEP_NS_VALUE]⟩
  | .TIME_UTC => ⟨.TIME, 0x48, [], .warm, [F.TIME_UTC_LOCOFF, F.TIME_UTC_UTCOFF]⟩
  | .TIME_PLAN => ⟨.TIME, 0x4c, [], .warm, [F.TIME_PLAN_CAMID, F.TIME_PLAN_STAGGER]⟩
  | .TIME_STEER => ⟨.TIME, 0x50, [], .warm, [F.TIME_STEER_STEER]⟩
  | .TIME_TC_CFG => ⟨.TIME, 0x100, [(0x10, 0, 4)], .warm, [F.TIME_TC_CFG_EN, F.TIME_TC_CFG_DF, F.TIME_TC_CFG_NUM, F.TIME_TC_CFG_DEN]⟩
  | .TIME_TC_VAL => ⟨.TIME, 0x104, [(0x10, 0, 4)], .warm, [F.TIME_TC_VAL_HH, F.TIME_TC_VAL_PAIR, F.TIME_TC_VAL_MM, F.TIME_TC_VAL_DROP, F.TIME_TC_VAL_SS, F.TIME_TC_VAL_FF]⟩
  | .NET_TIME_NS => ⟨.NET, 0x0, [], .pipe, [F.NET_TIME_NS_NS]⟩
  | .NET_TIME_S_LO => ⟨.NET, 0x4, [], .pipe, [F.NET_TIME_S_LO_S]⟩
  | .NET_TIME_S_HI => ⟨.NET, 0x8, [], .pipe, [F.NET_TIME_S_HI_S]⟩
  | .NET_TIME_STAT => ⟨.NET, 0xc, [], .pipe, [F.NET_TIME_STAT_HOLD, F.NET_TIME_STAT_RESYNC, F.NET_TIME_STAT_AGE]⟩
  | .NET_PORT_CFG => ⟨.NET, 0x100, [(0x40, 0, 6)], .pipe, [F.NET_PORT_CFG_EN, F.NET_PORT_CFG_JUMBO, F.NET_PORT_CFG_ALLMC, F.NET_PORT_CFG_PTPCOPY, F.NET_PORT_CFG_TXCASK, F.NET_PORT_CFG_RXCASK]⟩
  | .NET_PORT_MAC_LO => ⟨.NET, 0x104, [(0x40, 0, 6)], .pipe, [F.NET_PORT_MAC_LO_MAC]⟩
  | .NET_PORT_MAC_HI => ⟨.NET, 0x108, [(0x40, 0, 6)], .pipe, [F.NET_PORT_MAC_HI_MAC]⟩
  | .NET_TS_CORR => ⟨.NET, 0x10c, [(0x40, 0, 6)], .pipe, [F.NET_TS_CORR_TX, F.NET_TS_CORR_RX]⟩
  | .NET_TXTS_LO => ⟨.NET, 0x110, [(0x40, 0, 6)], .pipe, [F.NET_TXTS_LO_VALID, F.NET_TXTS_LO_FRAC, F.NET_TXTS_LO_ID]⟩
  | .NET_TXTS_HI => ⟨.NET, 0x114, [(0x40, 0, 6)], .pipe, [F.NET_TXTS_HI_TS32]⟩
  | .NET_TXTS_OVF_LO => ⟨.NET, 0x118, [(0x40, 0, 6)], .pipe, [F.NET_TXTS_OVF_LO_CNT_LO]⟩
  | .NET_TXTS_OVF_HI => ⟨.NET, 0x11c, [(0x40, 0, 6)], .pipe, [F.NET_TXTS_OVF_HI_SAT, F.NET_TXTS_OVF_HI_CNT_HI]⟩
  | .NET_CNT_LO => ⟨.NET, 0x120, [(0x40, 0, 6), (8, 0, 4)], .pipe, [F.NET_CNT_LO_CNT_LO]⟩
  | .NET_CNT_HI => ⟨.NET, 0x124, [(0x40, 0, 6), (8, 0, 4)], .pipe, [F.NET_CNT_HI_SAT, F.NET_CNT_HI_CNT_HI]⟩
  | .NET_LO_CFG => ⟨.NET, 0x1000, [(0x80, 0, 16)], .pipe, [F.NET_LO_CFG_EN, F.NET_LO_CFG_KIND, F.NET_LO_CFG_ESS, F.NET_LO_CFG_PORT, F.NET_LO_CFG_ICASK, F.NET_LO_CFG_TVC]⟩
  | .NET_LO_RATE => ⟨.NET, 0x1004, [(0x80, 0, 16)], .pipe, [F.NET_LO_RATE_NUM, F.NET_LO_RATE_DEN]⟩
  | .NET_LO_TIME => ⟨.NET, 0x1008, [(0x80, 0, 16)], .pipe, [F.NET_LO_TIME_LAT, F.NET_LO_TIME_PLAN, F.NET_LO_TIME_TROFF]⟩
  | .NET_LO_PKT => ⟨.NET, 0x100c, [(0x80, 0, 16)], .pipe, [F.NET_LO_PKT_VLAN, F.NET_LO_PKT_PT125, F.NET_LO_PKT_L24, F.NET_LO_PKT_CH, F.NET_LO_PKT_PKTBYTES]⟩
  | .NET_LO_SIZE => ⟨.NET, 0x1010, [(0x80, 0, 16)], .pipe, [F.NET_LO_SIZE_HEIGHT, F.NET_LO_SIZE_WIDTH]⟩
  | .NET_LO_BUF => ⟨.NET, 0x1014, [(0x80, 0, 16)], .pipe, [F.NET_LO_BUF_NBUF, F.NET_LO_BUF_FSZ, F.NET_LO_BUF_BASE]⟩
  | .NET_LO_STAT => ⟨.NET, 0x1018, [(0x80, 0, 16)], .pipe, [F.NET_LO_STAT_RUN, F.NET_LO_STAT_OVERSIZE, F.NET_LO_STAT_PLANERR, F.NET_LO_STAT_TPLERR, F.NET_LO_STAT_SLOT]⟩
  | .NET_LO_CNT_LO => ⟨.NET, 0x1020, [(0x80, 0, 16), (8, 0, 4)], .pipe, [F.NET_LO_CNT_LO_CNT_LO]⟩
  | .NET_LO_CNT_HI => ⟨.NET, 0x1024, [(0x80, 0, 16), (8, 0, 4)], .pipe, [F.NET_LO_CNT_HI_SAT, F.NET_LO_CNT_HI_CNT_HI]⟩
  | .NET_LO_HDR => ⟨.NET, 0x1040, [(0x80, 0, 16), (4, 0, 16)], .pipe, [F.NET_LO_HDR_BYTES]⟩
  | .SDI_LO_CFG => ⟨.SDI, 0x0, [(0x10, 0, 16)], .pipe, [F.SDI_LO_CFG_LANE, F.SDI_LO_CFG_FMT, F.SDI_LO_CFG_TCG, F.SDI_LO_CFG_ATC, F.SDI_LO_CFG_OFF]⟩
  | .SDI_LO_STAT => ⟨.SDI, 0x4, [(0x10, 0, 16)], .pipe, [F.SDI_LO_STAT_PHASE, F.SDI_LO_STAT_STATE]⟩
  | .PRESS_GSTAT => ⟨.PRESS_P, 0x0, [], .pipe, [F.PRESS_GSTAT_HALTED, F.PRESS_GSTAT_BUSY, F.PRESS_GSTAT_LBUSY, F.PRESS_GSTAT_RING]⟩
  | .PRESS_IN_CNT_LO => ⟨.PRESS_P, 0x10, [], .pipe, [F.PRESS_IN_CNT_LO_CNT_LO]⟩
  | .PRESS_IN_CNT_HI => ⟨.PRESS_P, 0x14, [], .pipe, [F.PRESS_IN_CNT_HI_SAT, F.PRESS_IN_CNT_HI_CNT_HI]⟩
  | .PRESS_OUT_CNT_LO => ⟨.PRESS_P, 0x18, [], .pipe, [F.PRESS_OUT_CNT_LO_CNT_LO]⟩
  | .PRESS_OUT_CNT_HI => ⟨.PRESS_P, 0x1c, [], .pipe, [F.PRESS_OUT_CNT_HI_SAT, F.PRESS_OUT_CNT_HI_CNT_HI]⟩
  | .PRESS_FAIL_CNT_LO => ⟨.PRESS_P, 0x20, [], .pipe, [F.PRESS_FAIL_CNT_LO_CNT_LO]⟩
  | .PRESS_FAIL_CNT_HI => ⟨.PRESS_P, 0x24, [], .pipe, [F.PRESS_FAIL_CNT_HI_SAT, F.PRESS_FAIL_CNT_HI_CNT_HI]⟩
  | .PRESS_RING_CFG => ⟨.PRESS_P, 0x100, [(0x40, 0, 4)], .pipe, [F.PRESS_RING_CFG_EN, F.PRESS_RING_CFG_RSIZE, F.PRESS_RING_CFG_RLOC]⟩
  | .PRESS_RING_LO => ⟨.PRESS_P, 0x108, [(0x40, 0, 4)], .pipe, [F.PRESS_RING_LO_BASE_LO]⟩
  | .PRESS_RING_HI => ⟨.PRESS_P, 0x10c, [(0x40, 0, 4)], .pipe, [F.PRESS_RING_HI_BASE_HI]⟩
  | .PRESS_TAIL => ⟨.PRESS_P, 0x110, [(0x40, 0, 4)], .pipe, [F.PRESS_TAIL_TAIL]⟩
  | .PRESS_HEAD => ⟨.PRESS_P, 0x114, [(0x40, 0, 4)], .pipe, [F.PRESS_HEAD_HEAD]⟩
  | .PRESS_RING_CTL => ⟨.PRESS_P, 0x118, [(0x40, 0, 4)], .pipe, [F.PRESS_RING_CTL_RESUME, F.PRESS_RING_CTL_ABORT]⟩
  | .PRESS_RING_STAT => ⟨.PRESS_P, 0x11c, [(0x40, 0, 4)], .pipe, [F.PRESS_RING_STAT_STATE, F.PRESS_RING_STAT_LSTATUS, F.PRESS_RING_STAT_HIDX]⟩
  | .QDL_ID => ⟨.QDL, 0x0, [], .cold, [F.QDL_ID_DEVID, F.QDL_ID_LEADER]⟩
  | .QDL_CTL => ⟨.QDL, 0x4, [], .warm, [F.QDL_CTL_EN, F.QDL_CTL_PORTEN, F.QDL_CTL_ORPHAN]⟩
  | .QDL_PEER => ⟨.QDL, 0x10, [(4, 0, 3)], .warm, [F.QDL_PEER_STATE, F.QDL_PEER_PEER, F.QDL_PEER_OVF, F.QDL_PEER_DELAY]⟩
  | .QDL_TAKE_CFG => ⟨.QDL, 0x20, [], .warm, [F.QDL_TAKE_CFG_MODE, F.QDL_TAKE_CFG_DEVS, F.QDL_TAKE_CFG_PHASE]⟩
  | .QDL_ILV_PER => ⟨.QDL, 0x24, [], .warm, [F.QDL_ILV_PER_PER]⟩
  | .QDL_TAKE_STAT => ⟨.QDL, 0x28, [], .warm, [F.QDL_TAKE_STAT_FDEV, F.QDL_TAKE_STAT_ENDED]⟩
  | .QDL_TIME_STAT => ⟨.QDL, 0x30, [], .warm, [F.QDL_TIME_STAT_HOLD, F.QDL_TIME_STAT_MISSED, F.QDL_TIME_STAT_OFFSET]⟩
  | .EVT_CTL => ⟨.EVT, 0x0, [], .warm, [F.EVT_CTL_PINEN, F.EVT_CTL_HLPIN]⟩
  | .EVT_STAT => ⟨.EVT, 0x100, [(4, 0, 16)], .warm, [F.EVT_STAT_STAT]⟩
  | .EVT_OVR => ⟨.EVT, 0x180, [(4, 0, 16)], .warm, [F.EVT_OVR_OVR]⟩
  | .EVT_YLOG_CFG => ⟨.EVT, 0x200, [], .warm, [F.EVT_YLOG_CFG_EN, F.EVT_YLOG_CFG_RSIZE]⟩
  | .EVT_YLOG_RING_LO => ⟨.EVT, 0x204, [], .warm, [F.EVT_YLOG_RING_LO_BASE_LO]⟩
  | .EVT_YLOG_RING_HI => ⟨.EVT, 0x208, [], .warm, [F.EVT_YLOG_RING_HI_BASE_HI]⟩
  | .EVT_YLOG_HEAD => ⟨.EVT, 0x20c, [], .warm, [F.EVT_YLOG_HEAD_HEAD]⟩
  | .EVT_YLOG_TAIL => ⟨.EVT, 0x210, [], .warm, [F.EVT_YLOG_TAIL_OVF, F.EVT_YLOG_TAIL_TAIL]⟩
  | .EVT_SRC_CFG => ⟨.EVT, 0x1000, [(4, 512, 512)], .warm, [F.EVT_SRC_CFG_MSIX, F.EVT_SRC_CFG_MC, F.EVT_SRC_CFG_PIN]⟩
  | .EVT_SYN => ⟨.EVT, 0x2000, [(4, 512, 512)], .warm, [F.EVT_SYN_SYN]⟩
  | .EVT_COAL => ⟨.EVT, 0x3000, [(4, 0, 1024)], .warm, [F.EVT_COAL_CD, F.EVT_COAL_TIME, F.EVT_COAL_COUNT]⟩
  | .HUB_PCIE_STAT => ⟨.HUB_CTL, 0x1000, [], .cold, [F.HUB_PCIE_STAT_DLUP, F.HUB_PCIE_STAT_BME, F.HUB_PCIE_STAT_MSIXEN, F.HUB_PCIE_STAT_FMASK, F.HUB_PCIE_STAT_FLR, F.HUB_PCIE_STAT_WIDTH, F.HUB_PCIE_STAT_SPEED]⟩
  | .HUB_PASM_CFG => ⟨.HUB_CTL, 0x5000, [(0x20, 0, 8)], .warm, [F.HUB_PASM_CFG_EN, F.HUB_PASM_CFG_DEST, F.HUB_PASM_CFG_PIPES, F.HUB_PASM_CFG_DPIPE, F.HUB_PASM_CFG_DOUT, F.HUB_PASM_CFG_IBASE, F.HUB_PASM_CFG_IBITS, F.HUB_PASM_CFG_PWIN]⟩
  | .HUB_PASM_LINES => ⟨.HUB_CTL, 0x5004, [(0x20, 0, 8)], .warm, [F.HUB_PASM_LINES_LINES]⟩
  | .HUB_PASM_W01 => ⟨.HUB_CTL, 0x5008, [(0x20, 0, 8)], .warm, [F.HUB_PASM_W01_W1, F.HUB_PASM_W01_W0]⟩
  | .HUB_PASM_W23 => ⟨.HUB_CTL, 0x500c, [(0x20, 0, 8)], .warm, [F.HUB_PASM_W23_W1, F.HUB_PASM_W23_W0]⟩
  | .HUB_PASM_STAT => ⟨.HUB_CTL, 0x5010, [(0x20, 0, 8)], .warm, [F.HUB_PASM_STAT_RUN, F.HUB_PASM_STAT_ABSENT, F.HUB_PASM_STAT_FRAME]⟩
  | .PANEL_CFG => ⟨.PANEL, 0x0, [(0x1000, 0, 2)], .warm, [F.PANEL_CFG_EN, F.PANEL_CFG_DSC, F.PANEL_CFG_CRCCHK, F.PANEL_CFG_FRZCHK, F.PANEL_CFG_TEPOL, F.PANEL_CFG_MATRIX, F.PANEL_CFG_RATE]⟩
  | .PANEL_SIZE => ⟨.PANEL, 0x4, [(0x1000, 0, 2)], .warm, [F.PANEL_SIZE_HEIGHT, F.PANEL_SIZE_WIDTH]⟩
  | .PANEL_DSC => ⟨.PANEL, 0x8, [(0x1000, 0, 2)], .warm, [F.PANEL_DSC_NSLICE, F.PANEL_DSC_SLICE_H, F.PANEL_DSC_BPP]⟩
  | .PANEL_SURF_CFG => ⟨.PANEL, 0xc, [(0x1000, 0, 2)], .warm, [F.PANEL_SURF_CFG_LOC0, F.PANEL_SURF_CFG_PIPE0, F.PANEL_SURF_CFG_FMT0, F.PANEL_SURF_CFG_LOC1, F.PANEL_SURF_CFG_PIPE1, F.PANEL_SURF_CFG_FMT1, F.PANEL_SURF_CFG_BSIZE, F.PANEL_SURF_CFG_STRIDE]⟩
  | .PANEL_S0_LO => ⟨.PANEL, 0x10, [(0x1000, 0, 2)], .warm, [F.PANEL_S0_LO_BASE_LO]⟩
  | .PANEL_S0_HI => ⟨.PANEL, 0x14, [(0x1000, 0, 2)], .warm, [F.PANEL_S0_HI_BASE_HI]⟩
  | .PANEL_S1_LO => ⟨.PANEL, 0x18, [(0x1000, 0, 2)], .warm, [F.PANEL_S1_LO_BASE_LO]⟩
  | .PANEL_S1_HI => ⟨.PANEL, 0x1c, [(0x1000, 0, 2)], .warm, [F.PANEL_S1_HI_BASE_HI]⟩
  | .PANEL_TUNE => ⟨.PANEL, 0x20, [(0x1000, 0, 2)], .warm, [F.PANEL_TUNE_FRZN, F.PANEL_TUNE_TETO, F.PANEL_TUNE_WMARK]⟩
  | .PANEL_PUSH => ⟨.PANEL, 0x30, [(0x1000, 0, 2)], .warm, [F.PANEL_PUSH_CHG, F.PANEL_PUSH_BUF, F.PANEL_PUSH_REGMASK]⟩
  | .PANEL_STAT => ⟨.PANEL, 0x34, [(0x1000, 0, 2)], .warm, [F.PANEL_STAT_STATE, F.PANEL_STAT_TEMISS, F.PANEL_STAT_REFUSED, F.PANEL_STAT_BUSY0, F.PANEL_STAT_RUNREG, F.PANEL_STAT_PEND]⟩
  | .PANEL_CRC_EXP => ⟨.PANEL, 0x38, [(0x1000, 0, 2)], .warm, [F.PANEL_CRC_EXP_CRC]⟩
  | .PANEL_CRC_PAD => ⟨.PANEL, 0x3c, [(0x1000, 0, 2)], .warm, [F.PANEL_CRC_PAD_CRC]⟩
  | .PANEL_DCS => ⟨.PANEL, 0x40, [(0x1000, 0, 2)], .warm, [F.PANEL_DCS_GO, F.PANEL_DCS_LEN, F.PANEL_DCS_CMD]⟩
  | .PANEL_DCS_DATA => ⟨.PANEL, 0x44, [(0x1000, 0, 2), (4, 0, 4)], .warm, [F.PANEL_DCS_DATA_DATA]⟩
  | .PANEL_CNT_LO => ⟨.PANEL, 0x60, [(0x1000, 0, 2), (8, 0, 4)], .warm, [F.PANEL_CNT_LO_CNT_LO]⟩
  | .PANEL_CNT_HI => ⟨.PANEL, 0x64, [(0x1000, 0, 2), (8, 0, 4)], .warm, [F.PANEL_CNT_HI_SAT, F.PANEL_CNT_HI_CNT_HI]⟩
  | .PANEL_RGN_A => ⟨.PANEL, 0x100, [(0x1000, 0, 2), (8, 0, 16)], .warm, [F.PANEL_RGN_A_EN, F.PANEL_RGN_A_SRC, F.PANEL_RGN_A_TESYNC, F.PANEL_RGN_A_Y0, F.PANEL_RGN_A_X0]⟩
  | .PANEL_RGN_B => ⟨.PANEL, 0x104, [(0x1000, 0, 2), (8, 0, 16)], .warm, [F.PANEL_RGN_B_H, F.PANEL_RGN_B_W]⟩
  | .AUD_GCFG => ⟨.AUD, 0x0, [], .warm, [F.AUD_GCFG_MCLKEN]⟩
  | .AUD_TRIG_CMD => ⟨.AUD, 0x10, [], .warm, [F.AUD_TRIG_CMD_GO, F.AUD_TRIG_CMD_OP, F.AUD_TRIG_CMD_ATTIME, F.AUD_TRIG_CMD_PATHS]⟩
  | .AUD_TRIG_NS => ⟨.AUD, 0x14, [], .warm, [F.AUD_TRIG_NS_VALUE]⟩
  | .AUD_TRIG_S_LO => ⟨.AUD, 0x18, [], .warm, [F.AUD_TRIG_S_LO_S]⟩
  | .AUD_TRIG_S_HI => ⟨.AUD, 0x1c, [], .warm, [F.AUD_TRIG_S_HI_S]⟩
  | .AUD_TRIG_STAT => ⟨.AUD, 0x20, [], .warm, [F.AUD_TRIG_STAT_BUSY, F.AUD_TRIG_STAT_RESULT, F.AUD_TRIG_STAT_FPATHS]⟩
  | .AUD_TRIG_FRAME_LO => ⟨.AUD, 0x24, [], .warm, [F.AUD_TRIG_FRAME_LO_LO]⟩
  | .AUD_TRIG_FRAME_HI => ⟨.AUD, 0x28, [], .warm, [F.AUD_TRIG_FRAME_HI_HI]⟩
  | .AUD_PCFG => ⟨.AUD, 0x1000, [(0x100, 0, 4)], .warm, [F.AUD_PCFG_EN, F.AUD_PCFG_MASTER, F.AUD_PCFG_FMT, F.AUD_PCFG_BCLKINV, F.AUD_PCFG_FSW, F.AUD_PCFG_SLOTW, F.AUD_PCFG_SAMP24, F.AUD_PCFG_RATE, F.AUD_PCFG_NSLOTM1]⟩
  | .AUD_PTIME => ⟨.AUD, 0x1004, [(0x100, 0, 4)], .warm, [F.AUD_PTIME_RUNOUT, F.AUD_PTIME_RUNIN]⟩
  | .AUD_CNT_LO => ⟨.AUD, 0x1010, [(0x100, 0, 4), (8, 0, 4)], .warm, [F.AUD_CNT_LO_CNT_LO]⟩
  | .AUD_CNT_HI => ⟨.AUD, 0x1014, [(0x100, 0, 4), (8, 0, 4)], .warm, [F.AUD_CNT_HI_SAT, F.AUD_CNT_HI_CNT_HI]⟩
  | .AUD_XCFG => ⟨.AUD, 0x1040, [(0x100, 0, 4), (0x40, 0, 2)], .warm, [F.AUD_XCFG_EN, F.AUD_XCFG_ASRC, F.AUD_XCFG_BLOCK, F.AUD_XCFG_SLOTMASK]⟩
  | .AUD_XRING_LO => ⟨.AUD, 0x1044, [(0x100, 0, 4), (0x40, 0, 2)], .warm, [F.AUD_XRING_LO_BASE_LO, F.AUD_XRING_LO_RSIZE]⟩
  | .AUD_XRING_HI => ⟨.AUD, 0x1048, [(0x100, 0, 4), (0x40, 0, 2)], .warm, [F.AUD_XRING_HI_BASE_HI]⟩
  | .AUD_XHOST => ⟨.AUD, 0x104c, [(0x100, 0, 4), (0x40, 0, 2)], .warm, [F.AUD_XHOST_HEAD]⟩
  | .AUD_XDEV => ⟨.AUD, 0x1050, [(0x100, 0, 4), (0x40, 0, 2)], .warm, [F.AUD_XDEV_OVF, F.AUD_XDEV_TAIL]⟩
  | .AUD_XSTAT => ⟨.AUD, 0x1054, [(0x100, 0, 4), (0x40, 0, 2)], .warm, [F.AUD_XSTAT_STATE, F.AUD_XSTAT_LOCK, F.AUD_XSTAT_RATIO]⟩
  | .AUD_SCFG => ⟨.AUD, 0x2000, [(0x10, 0, 8)], .warm, [F.AUD_SCFG_EN, F.AUD_SCFG_PT125, F.AUD_SCFG_PORT, F.AUD_SCFG_FIRST, F.AUD_SCFG_NCHM1, F.AUD_SCFG_DPIPE, F.AUD_SCFG_DLIVE]⟩
  | .AUD_SSTAT => ⟨.AUD, 0x2004, [(0x10, 0, 8)], .warm, [F.AUD_SSTAT_MISMATCH, F.AUD_SSTAT_RUN, F.AUD_SSTAT_ITEMS]⟩
  | .SENSE_ADC_CFG => ⟨.SENSE, 0x0, [(0x20, 0, 2)], .warm, [F.SENSE_ADC_CFG_EN, F.SENSE_ADC_CFG_TSRC, F.SENSE_ADC_CFG_TPWM, F.SENSE_ADC_CFG_IRQ, F.SENSE_ADC_CFG_NLM1, F.SENSE_ADC_CFG_DELAY]⟩
  | .SENSE_ADC_TIMER => ⟨.SENSE, 0x4, [(0x20, 0, 2)], .warm, [F.SENSE_ADC_TIMER_PERIOD]⟩
  | .SENSE_ADC_CTL => ⟨.SENSE, 0x8, [(0x20, 0, 2)], .warm, [F.SENSE_ADC_CTL_FLUSH, F.SENSE_ADC_CTL_START]⟩
  | .SENSE_ADC_STAT => ⟨.SENSE, 0xc, [(0x20, 0, 2)], .warm, [F.SENSE_ADC_STAT_BUSY, F.SENSE_ADC_STAT_MISS, F.SENSE_ADC_STAT_OVF, F.SENSE_ADC_STAT_LEVEL]⟩
  | .SENSE_ADC_FIFO => ⟨.SENSE, 0x10, [(0x20, 0, 2)], .warm, [F.SENSE_ADC_FIFO_DATA]⟩
  | .SENSE_ADC_LIST => ⟨.SENSE, 0x100, [(0x40, 0, 2), (4, 0, 16)], .warm, [F.SENSE_ADC_LIST_CH]⟩
  | .SENSE_ADC_CH => ⟨.SENSE, 0x200, [(4, 0, 24)], .warm, [F.SENSE_ADC_CH_OWD, F.SENSE_ADC_CH_AUTO, F.SENSE_ADC_CH_RNG, F.SENSE_ADC_CH_DNCNT]⟩
  | .SENSE_ADC_RES => ⟨.SENSE, 0x280, [(4, 0, 24)], .warm, [F.SENSE_ADC_RES_DATA]⟩
  | .SENSE_ADC_COR => ⟨.SENSE, 0x400, [(0x10, 0, 24), (4, 0, 4)], .warm, [F.SENSE_ADC_COR_GAIN, F.SENSE_ADC_COR_OFFSET]⟩
  | .SENSE_ADC_CAL => ⟨.SENSE, 0x600, [], .warm, [F.SENSE_ADC_CAL_GO, F.SENSE_ADC_CAL_OP, F.SENSE_ADC_CAL_RNG, F.SENSE_ADC_CAL_CH, F.SENSE_ADC_CAL_EXPECT]⟩
  | .SENSE_ADC_CALSTAT => ⟨.SENSE, 0x604, [], .warm, [F.SENSE_ADC_CALSTAT_BUSY, F.SENSE_ADC_CALSTAT_RESULT, F.SENSE_ADC_CALSTAT_MEAN]⟩
  | .SENSE_ADC_CNT_LO => ⟨.SENSE, 0x700, [(8, 0, 4)], .warm, [F.SENSE_ADC_CNT_LO_CNT_LO]⟩
  | .SENSE_ADC_CNT_HI => ⟨.SENSE, 0x704, [(8, 0, 4)], .warm, [F.SENSE_ADC_CNT_HI_SAT, F.SENSE_ADC_CNT_HI_CNT_HI]⟩
  | .SENSE_PWM_CFG => ⟨.SENSE, 0x800, [(0x10, 0, 8)], .warm, [F.SENSE_PWM_CFG_EN, F.SENSE_PWM_CFG_POL, F.SENSE_PWM_CFG_ONESHOT]⟩
  | .SENSE_PWM_PER => ⟨.SENSE, 0x804, [(0x10, 0, 8)], .warm, [F.SENSE_PWM_PER_VALUE]⟩
  | .SENSE_PWM_DUTY => ⟨.SENSE, 0x808, [(0x10, 0, 8)], .warm, [F.SENSE_PWM_DUTY_VALUE]⟩
  | .SENSE_PWM_CTL => ⟨.SENSE, 0x880, [], .warm, [F.SENSE_PWM_CTL_SYNC]⟩
  | .SENSE_SW_CFG => ⟨.SENSE, 0x900, [(0x10, 0, 12)], .warm, [F.SENSE_SW_CFG_EN, F.SENSE_SW_CFG_INRUSH, F.SENSE_SW_CFG_SHORT, F.SENSE_SW_CFG_LIM_IN, F.SENSE_SW_CFG_LIM_SS]⟩
  | .SENSE_SW_AUX => ⟨.SENSE, 0x904, [(0x10, 0, 12)], .warm, [F.SENSE_SW_AUX_OCT, F.SENSE_SW_AUX_BRIGHT, F.SENSE_SW_AUX_BLINK]⟩
  | .SENSE_SW_STAT => ⟨.SENSE, 0x908, [(0x10, 0, 12)], .warm, [F.SENSE_SW_STAT_STATE, F.SENSE_SW_STAT_CAUSE, F.SENSE_SW_STAT_RETRIED, F.SENSE_SW_STAT_ISNS]⟩
  | .SENSE_BO_CFG => ⟨.SENSE, 0xa00, [], .warm, [F.SENSE_BO_CFG_EN, F.SENSE_BO_CFG_BO, F.SENSE_BO_CFG_HYST]⟩
  | .SENSE_BO_STAT => ⟨.SENSE, 0xa04, [], .warm, [F.SENSE_BO_STAT_LOW, F.SENSE_BO_STAT_SEEN, F.SENSE_BO_STAT_HELD]⟩
  | .OPIO_KEY_CFG => ⟨.OPIO, 0x0, [], .warm, [F.OPIO_KEY_CFG_EN, F.OPIO_KEY_CFG_DEB]⟩
  | .OPIO_KEY_EN_LO => ⟨.OPIO, 0x4, [], .warm, [F.OPIO_KEY_EN_LO_LO]⟩
  | .OPIO_KEY_EN_HI => ⟨.OPIO, 0x8, [], .warm, [F.OPIO_KEY_EN_HI_HI]⟩
  | .OPIO_KEY_STATE_LO => ⟨.OPIO, 0xc, [], .warm, [F.OPIO_KEY_STATE_LO_LO]⟩
  | .OPIO_KEY_STATE_HI => ⟨.OPIO, 0x10, [], .warm, [F.OPIO_KEY_STATE_HI_HI]⟩
  | .OPIO_KEY_FIFO => ⟨.OPIO, 0x14, [], .warm, [F.OPIO_KEY_FIFO_VALID, F.OPIO_KEY_FIFO_PRESS, F.OPIO_KEY_FIFO_KEY]⟩
  | .OPIO_KEY_FTIME => ⟨.OPIO, 0x18, [], .warm, [F.OPIO_KEY_FTIME_TS32]⟩
  | .OPIO_KEY_STAT => ⟨.OPIO, 0x1c, [], .warm, [F.OPIO_KEY_STAT_OVF, F.OPIO_KEY_STAT_LEVEL]⟩
  | .OPIO_ENC_CFG => ⟨.OPIO, 0x100, [(0x10, 0, 4)], .warm, [F.OPIO_ENC_CFG_EN, F.OPIO_ENC_CFG_DIR, F.OPIO_ENC_CFG_FILT, F.OPIO_ENC_CFG_STEP]⟩
  | .OPIO_ENC_POS => ⟨.OPIO, 0x104, [(0x10, 0, 4)], .warm, [F.OPIO_ENC_POS_POS]⟩
  | .OPIO_ENC_ERR_LO => ⟨.OPIO, 0x108, [(0x10, 0, 4)], .warm, [F.OPIO_ENC_ERR_LO_CNT_LO]⟩
  | .OPIO_ENC_ERR_HI => ⟨.OPIO, 0x10c, [(0x10, 0, 4)], .warm, [F.OPIO_ENC_ERR_HI_SAT, F.OPIO_ENC_ERR_HI_CNT_HI]⟩
  | .OPIO_TCH_CFG => ⟨.OPIO, 0x200, [], .warm, [F.OPIO_TCH_CFG_EN, F.OPIO_TCH_CFG_HYST, F.OPIO_TCH_CFG_THRESH]⟩
  | .OPIO_TCH_EN => ⟨.OPIO, 0x204, [], .warm, [F.OPIO_TCH_EN_MASK]⟩
  | .OPIO_TCH_STATE => ⟨.OPIO, 0x208, [], .warm, [F.OPIO_TCH_STATE_MASK]⟩
  | .OPIO_TCH_RAW => ⟨.OPIO, 0x240, [(4, 0, 16)], .warm, [F.OPIO_TCH_RAW_BASE, F.OPIO_TCH_RAW_COUNT]⟩
  | .THERM_CFG => ⟨.THERM, 0x0, [], .warm, [F.THERM_CFG_PAVANE, F.THERM_CFG_THROTTLE, F.THERM_CFG_WARN, F.THERM_CFG_HYST]⟩
  | .THERM_THR => ⟨.THERM, 0x4, [], .warm, [F.THERM_THR_STEP, F.THERM_THR_DMIN]⟩
  | .THERM_CTL => ⟨.THERM, 0x8, [], .warm, [F.THERM_CTL_PAVANE]⟩
  | .THERM_STAT => ⟨.THERM, 0xc, [], .warm, [F.THERM_STAT_LEVEL, F.THERM_STAT_PFAIL, F.THERM_STAT_SENS, F.THERM_STAT_TMAX]⟩
  | .THERM_LAST => ⟨.THERM, 0x20, [], .always, [F.THERM_LAST_VALID, F.THERM_LAST_KIND, F.THERM_LAST_INCOMPLETE, F.THERM_LAST_SENS, F.THERM_LAST_TEMP]⟩
  | .THERM_LAST_S => ⟨.THERM, 0x24, [], .always, [F.THERM_LAST_S_S]⟩
  | .THERM_SENS => ⟨.THERM, 0x100, [(4, 0, 4)], .warm, [F.THERM_SENS_VALID, F.THERM_SENS_FAULT, F.THERM_SENS_TEMP]⟩
  | .PTHM_SENS => ⟨.PTHM, 0x0, [(4, 0, 6)], .pipe, [F.PTHM_SENS_VALID, F.PTHM_SENS_FAULT, F.PTHM_SENS_TEMP]⟩
  | .PTHM_STAT => ⟨.PTHM, 0x20, [], .pipe, [F.PTHM_STAT_LEVEL, F.PTHM_STAT_NOVALID, F.PTHM_STAT_DENS, F.PTHM_STAT_SENS, F.PTHM_STAT_TMAX]⟩
  | .HUB_ID => ⟨.HUB_CTL, 0x0, [], .warm, [F.HUB_ID_DEVICE, F.HUB_ID_STEPPING]⟩
  | .HUB_SERIAL_LO => ⟨.HUB_CTL, 0x4, [], .always, [F.HUB_SERIAL_LO_LO]⟩
  | .HUB_SERIAL_HI => ⟨.HUB_CTL, 0x8, [], .always, [F.HUB_SERIAL_HI_HI]⟩
  | .HUB_LCS => ⟨.HUB_CTL, 0xc, [], .always, [F.HUB_LCS_STATE]⟩
  | .HUB_RST_CTL => ⟨.HUB_CTL, 0x10, [], .warm, [F.HUB_RST_CTL_FALLOW, F.HUB_RST_CTL_WARM]⟩
  | .HUB_RST_CAUSE => ⟨.HUB_CTL, 0x14, [], .always, [F.HUB_RST_CAUSE_CAUSE, F.HUB_RST_CAUSE_PRESS]⟩
  | .HUB_BOOT_STAT => ⟨.HUB_CTL, 0x18, [], .warm, [F.HUB_BOOT_STAT_IMAGE, F.HUB_BOOT_STAT_FAILS, F.HUB_BOOT_STAT_STAGE, F.HUB_BOOT_STAT_HOLDTEMP, F.HUB_BOOT_STAT_NRSTMASK, F.HUB_BOOT_STAT_ACTPEND]⟩
  | .HUB_BOOT_OK => ⟨.HUB_CTL, 0x1c, [], .warm, [F.HUB_BOOT_OK_OK]⟩
  | .HUB_BOOT_CFG => ⟨.HUB_CTL, 0x20, [], .always, [F.HUB_BOOT_CFG_SEL]⟩
  | .HUB_BOOT_CNT => ⟨.HUB_CTL, 0x24, [], .always, [F.HUB_BOOT_CNT_CNT]⟩
  | .HUB_FALLOW => ⟨.HUB_CTL, 0x28, [], .warm, [F.HUB_FALLOW_ACTIVE, F.HUB_FALLOW_REASON]⟩
  | .HUB_BOOT_LOG => ⟨.HUB_CTL, 0x30, [(4, 0, 3)], .always, [F.HUB_BOOT_LOG_VALID, F.HUB_BOOT_LOG_IMAGE, F.HUB_BOOT_LOG_STAGE, F.HUB_BOOT_LOG_CAUSE, F.HUB_BOOT_LOG_BCNT]⟩
  | .HUB_STBY_CFG => ⟨.HUB_CTL, 0x40, [], .warm, [F.HUB_STBY_CFG_WAKEPIN, F.HUB_STBY_CFG_CART]⟩
  | .HUB_STBY_CTL => ⟨.HUB_CTL, 0x44, [], .warm, [F.HUB_STBY_CTL_GO, F.HUB_STBY_CTL_MODE]⟩
  | .HUB_STBY_STAT => ⟨.HUB_CTL, 0x48, [], .warm, [F.HUB_STBY_STAT_BUSY, F.HUB_STBY_STAT_RESULT]⟩
  | .HUB_WAKE => ⟨.HUB_CTL, 0x4c, [], .always, [F.HUB_WAKE_MODE, F.HUB_WAKE_NOXTAL, F.HUB_WAKE_SRC]⟩
  | .HUB_AON_SEC => ⟨.HUB_CTL, 0x50, [], .always, [F.HUB_AON_SEC_SEC]⟩
  | .HUB_FLASH_SRC_LO => ⟨.HUB_CTL, 0x80, [], .warm, [F.HUB_FLASH_SRC_LO_ADDR_LO]⟩
  | .HUB_FLASH_SRC_HI => ⟨.HUB_CTL, 0x84, [], .warm, [F.HUB_FLASH_SRC_HI_ADDR_HI]⟩
  | .HUB_FLASH_OFF => ⟨.HUB_CTL, 0x88, [], .warm, [F.HUB_FLASH_OFF_LEN]⟩
  | .HUB_FLASH_LEN => ⟨.HUB_CTL, 0x8c, [], .warm, [F.HUB_FLASH_LEN_LEN]⟩
  | .HUB_FLASH_CMD => ⟨.HUB_CTL, 0x90, [], .warm, [F.HUB_FLASH_CMD_GO, F.HUB_FLASH_CMD_OP, F.HUB_FLASH_CMD_BUSY, F.HUB_FLASH_CMD_RESULT, F.HUB_FLASH_CMD_PROGRESS]⟩
  | .BIST_CMD => ⟨.BIST, 0x0, [], .warm, [F.BIST_CMD_GO, F.BIST_CMD_ZEROOK, F.BIST_CMD_LEN, F.BIST_CMD_CLASS, F.BIST_CMD_PIPE, F.BIST_CMD_INDEX]⟩
  | .BIST_CTL => ⟨.BIST, 0x4, [], .warm, [F.BIST_CTL_ABORT]⟩
  | .BIST_STAT => ⟨.BIST, 0x8, [], .warm, [F.BIST_STAT_BUSY, F.BIST_STAT_RESULT, F.BIST_STAT_PHASE, F.BIST_STAT_PROGRESS]⟩
  | .BIST_CFG => ⟨.BIST, 0xc, [], .cold, [F.BIST_CFG_BOOTLS, F.BIST_CFG_SCANF]⟩
  | .BIST_SIG_LO => ⟨.BIST, 0x10, [], .warm, [F.BIST_SIG_LO_LO]⟩
  | .BIST_SIG_HI => ⟨.BIST, 0x14, [], .warm, [F.BIST_SIG_HI_HI]⟩
  | .BIST_LOG => ⟨.BIST, 0x100, [(4, 0, 8)], .cold, [F.BIST_LOG_VALID, F.BIST_LOG_RESULT, F.BIST_LOG_CLASS, F.BIST_LOG_PIPE, F.BIST_LOG_INDEX]⟩
  | .SECU_STAT => ⟨.SECU, 0x0, [], .warm, [F.SECU_STAT_DRBG, F.SECU_STAT_KEYSLOST, F.SECU_STAT_LCPEND, F.SECU_STAT_LCNEXT, F.SECU_STAT_SVNNEXT]⟩
  | .SECU_ALARM => ⟨.SECU, 0x4, [], .warm, [F.SECU_ALARM_NVM, F.SECU_ALARM_DRBG, F.SECU_ALARM_GLITCH, F.SECU_ALARM_TAMPER]⟩
  | .SECU_CMD => ⟨.SECU, 0x10, [], .warm, [F.SECU_CMD_GO, F.SECU_CMD_OP, F.SECU_CMD_ARG, F.SECU_CMD_SRCSLOT, F.SECU_CMD_SLOT]⟩
  | .SECU_RES => ⟨.SECU, 0x14, [], .warm, [F.SECU_RES_BUSY, F.SECU_RES_RESULT]⟩
  | .SECU_ADDR_LO => ⟨.SECU, 0x18, [], .warm, [F.SECU_ADDR_LO_ADDR_LO]⟩
  | .SECU_ADDR_HI => ⟨.SECU, 0x1c, [], .warm, [F.SECU_ADDR_HI_ADDR_HI]⟩
  | .SECU_NONCE => ⟨.SECU, 0x20, [(4, 0, 4)], .warm, [F.SECU_NONCE_NONCE]⟩
  | .SECU_SLOT => ⟨.SECU, 0x100, [(4, 0, 16)], .warm, [F.SECU_SLOT_VALID, F.SECU_SLOT_REVOKED, F.SECU_SLOT_LOCK, F.SECU_SLOT_CLASS, F.SECU_SLOT_USE, F.SECU_SLOT_KID]⟩

/-- The registers of a block, in the order of its tables. -/
def blockRegs : BlockId → List RegId
  | .PCTL => [.PCTL_ARUN_CFG, .PCTL_ARUN_STAT, .PCTL_ARUN_TNS, .PCTL_ARUN_TS_LO, .PCTL_ARUN_TS_HI, .PCTL_ARUN_FRAMES,
      .PCTL_CTL, .PCTL_STAT, .PCTL_PACE_STAT, .PCTL_PAUSE_MAN, .PCTL_PAUSE_EFF, .PCTL_STALL_CFG,
      .PCTL_STALL_LOC, .PCTL_STALL_CNT_LO, .PCTL_STALL_CNT_HI, .PCTL_PSENS, .PCTL_CLM_CFG, .PCTL_CLM_SENS,
      .PCTL_CLM_RUNG, .PCTL_CLM_MASK]
  | .LANE => [.LANE_SCFG, .LANE_REFCFG, .LANE_FCFG, .LANE_RETRY, .LANE_CTL, .LANE_SNAP,
      .LANE_REFSTAT, .LANE_ROLE_STAT, .LANE_CTLE, .LANE_TXFIR, .LANE_STAT, .LANE_PRBS_CTL,
      .LANE_PRBS_STAT, .LANE_HDR_ERR_LO, .LANE_HDR_ERR_HI, .LANE_DOWN_CNT_LO, .LANE_DOWN_CNT_HI, .LANE_PRBS_ERR_LO,
      .LANE_PRBS_ERR_HI, .LANE_PRBS_BITS_LO, .LANE_PRBS_BITS_HI, .LANE_SNAP_ERR_LO, .LANE_SNAP_ERR_HI, .LANE_SNAP_BITS_LO,
      .LANE_SNAP_BITS_HI]
  | .SFE => [.SFE_STAT, .SFE_HP_CFG, .SFE_HP_STAT, .SFE_TS_CORR, .SFE_STRIPE, .SFE_STRIPE_X0,
      .SFE_DPHY_CFG, .SFE_ID_SERIAL, .SFE_ID_INSERT, .SFE_ID_MODE, .SFE_I3C_CFG, .SFE_I3C_CMD,
      .SFE_I3C_STAT, .SFE_I3C_BUF, .SFE_VCG, .SFE_VCL, .SFE_VCT, .SFE_ERR_CNT_LO,
      .SFE_ERR_CNT_HI]
  | .TRL => [.TRL_CTL, .TRL_STAT, .TRL_CORR_CNT_LO, .TRL_CORR_CNT_HI, .TRL_UNC_CNT_LO, .TRL_UNC_CNT_HI,
      .TRL_LM_ADDR, .TRL_LM_DATA, .TRL_LM_STAT, .TRL_MON_SEL, .TRL_MON_RES, .TRL_FAULT,
      .TRL_RST_CNT_LO, .TRL_RST_CNT_HI, .TRL_RPR_FAIL, .TRL_RPR_CLR, .TRL_RPR_MAP, .TRL_REG_CFG,
      .TRL_REG_STAT, .TRL_TILE_CFG]
  | .CASK => [.CASK_GSTAT, .CASK_CORR_CNT_LO, .CASK_CORR_CNT_HI, .CASK_UNC_CNT_LO, .CASK_UNC_CNT_HI, .CASK_PSN_LAST,
      .CASK_CFG, .CASK_BIND, .CASK_TTO, .CASK_CTL, .CASK_STAT, .CASK_ECC]
  | .RACK => [.RACK_GSTAT, .RACK_CH_CFG, .RACK_RING_LO, .RACK_RING_HI, .RACK_TAIL, .RACK_HEAD,
      .RACK_CH_CTL, .RACK_CH_STAT, .RACK_BYTES_LO, .RACK_BYTES_HI]
  | .VRS => [.VRS_CORR_CNT_LO, .VRS_CORR_CNT_HI, .VRS_UNC_CNT_LO, .VRS_UNC_CNT_HI, .VRS_MOS_VC, .VRS_MOS_CFG,
      .VRS_MOS_SITE, .VRS_CFG, .VRS_CROP, .VRS_BANK_CTL, .VRS_BANK_STAT, .VRS_LATE_CNT_LO,
      .VRS_LATE_CNT_HI, .VRS_TRD_ADDR, .VRS_TRD_DATA, .VRS_TRD_STAT, .VRS_TPORT]
  | .STAT => [.STAT_CFG, .STAT_SIZE, .STAT_COL0, .STAT_ORG, .STAT_ZONE, .STAT_CHMAP,
      .STAT_LUMA, .STAT_RD, .STAT_HIST]
  | .PXR => [.PXR_ENC_CFG, .PXR_ENC_BUDGET, .PXR_ENC_TAKE, .PXR_CNT_FRAMES_LO, .PXR_CNT_FRAMES_HI, .PXR_CNT_GAPS_LO,
      .PXR_CNT_GAPS_HI, .PXR_CNT_REPEAT_LO, .PXR_CNT_REPEAT_HI, .PXR_CNT_DSLICE_LO, .PXR_CNT_DSLICE_HI, .PXR_CNT_BYTES_LO,
      .PXR_CNT_BYTES_HI, .PXR_ENC_VCC, .PXR_ENC_VSTAT, .PXR_ENC_VSEQ, .PXR_DEC_CTL, .PXR_DEC_CFG,
      .PXR_DEC_SRC_LO, .PXR_DEC_SRC_HI, .PXR_DEC_SLEN, .PXR_DEC_DSC_LO, .PXR_DEC_DSC_HI, .PXR_DEC_DST_LO,
      .PXR_DEC_DST_HI, .PXR_DEC_DLEN, .PXR_DEC_STRIDE, .PXR_DEC_STAT, .PXR_DEC_RES, .PXR_DEC_SEQ,
      .PXR_DEC_MAP_LO, .PXR_DEC_MAP_HI]
  | .BLK => [.BLK_STAT, .BLK_CNT_LO, .BLK_CNT_HI, .BLK_CTXCFG, .BLK_CTXRATE, .BLK_CTX_UPD,
      .BLK_RCADJ, .BLK_ROI_A, .BLK_ROI_B, .BLK_SCFG, .BLK_SSIZE, .BLK_STILE,
      .BLK_SGOP, .BLK_SPORT, .BLK_RCT, .BLK_RCM, .BLK_RCQ, .BLK_RCB,
      .BLK_SSTAT, .BLK_SCTL, .BLK_DEC_CTL, .BLK_DEC_CFG, .BLK_DEC_SRC_LO, .BLK_DEC_SRC_HI,
      .BLK_DEC_SLEN, .BLK_DEC_POOL_LO, .BLK_DEC_POOL_HI, .BLK_DEC_DST_LO, .BLK_DEC_DST_HI, .BLK_DEC_DLEN,
      .BLK_DEC_STRIDE, .BLK_DEC_STAT, .BLK_DEC_RES, .BLK_DEC_PLEN, .BLK_DEC_BUDGET]
  | .DRC => [.DRC_PHY_CFG, .DRC_INIT, .DRC_STAT, .DRC_MAP_CFG, .DRC_SEED, .DRC_HOT_CFG,
      .DRC_HOT_STAT, .DRC_SR_CFG, .DRC_FCHG, .DRC_FCHG_STAT, .DRC_SCRUB, .DRC_CORR_CNT_LO,
      .DRC_CORR_CNT_HI, .DRC_UNC_CNT_LO, .DRC_UNC_CNT_HI, .DRC_ELOG_STAT, .DRC_RGN_BASE, .DRC_RGN_SIZE,
      .DRC_ELOG]
  | .CELP => [.CELP_RB_LVL, .CELP_RB_STAT, .CELP_TQ_CFG, .CELP_TQ_CTL, .CELP_TQ_STAT, .CELP_STRM_NS,
      .CELP_STRM_SLBA_LO, .CELP_STRM_SLBA_HI, .CELP_STRM_NLB, .CELP_STRM_CMD, .CELP_STRM_RES, .CELP_LOCK_STAT,
      .CELP_LOCKWAIT_CNT_LO, .CELP_LOCKWAIT_CNT_HI, .CELP_CART_CFG, .CELP_CART_CMD, .CELP_CART_STAT, .CELP_CART_SERIAL,
      .CELP_CART_MGEN, .CELP_RBLD_STAT, .CELP_STRM_TAG]
  | .NET => [.NET_TIME_NS, .NET_TIME_S_LO, .NET_TIME_S_HI, .NET_TIME_STAT, .NET_PORT_CFG, .NET_PORT_MAC_LO,
      .NET_PORT_MAC_HI, .NET_TS_CORR, .NET_TXTS_LO, .NET_TXTS_HI, .NET_TXTS_OVF_LO, .NET_TXTS_OVF_HI,
      .NET_CNT_LO, .NET_CNT_HI, .NET_LO_CFG, .NET_LO_RATE, .NET_LO_TIME, .NET_LO_PKT,
      .NET_LO_SIZE, .NET_LO_BUF, .NET_LO_STAT, .NET_LO_CNT_LO, .NET_LO_CNT_HI, .NET_LO_HDR]
  | .SDI => [.SDI_LO_CFG, .SDI_LO_STAT]
  | .PRESS_P => [.PRESS_GSTAT, .PRESS_IN_CNT_LO, .PRESS_IN_CNT_HI, .PRESS_OUT_CNT_LO, .PRESS_OUT_CNT_HI, .PRESS_FAIL_CNT_LO,
      .PRESS_FAIL_CNT_HI, .PRESS_RING_CFG, .PRESS_RING_LO, .PRESS_RING_HI, .PRESS_TAIL, .PRESS_HEAD,
      .PRESS_RING_CTL, .PRESS_RING_STAT]
  | .PTHM => [.PTHM_SENS, .PTHM_STAT]
  | .HUB_CTL => [.HUB_GOV_CTL, .HUB_GOV_LIM, .HUB_GOV_LOOP, .HUB_GOV_TIME, .HUB_GOV_STAT, .HUB_GOV_PMB,
      .HUB_PAUSE_MAN, .HUB_PAUSE_EFF, .HUB_STM_CFG, .HUB_STM_RING_LO, .HUB_STM_RING_HI, .HUB_STM_HEAD,
      .HUB_STM_TAIL, .HUB_ASM_CFG, .HUB_ASM_RING_LO, .HUB_ASM_RING_HI, .HUB_ASM_HEAD, .HUB_ASM_TAIL,
      .HUB_ASM_STAT, .HUB_PCIE_STAT, .HUB_PASM_CFG, .HUB_PASM_LINES, .HUB_PASM_W01, .HUB_PASM_W23,
      .HUB_PASM_STAT, .HUB_ID, .HUB_SERIAL_LO, .HUB_SERIAL_HI, .HUB_LCS, .HUB_RST_CTL,
      .HUB_RST_CAUSE, .HUB_BOOT_STAT, .HUB_BOOT_OK, .HUB_BOOT_CFG, .HUB_BOOT_CNT, .HUB_FALLOW,
      .HUB_BOOT_LOG, .HUB_STBY_CFG, .HUB_STBY_CTL, .HUB_STBY_STAT, .HUB_WAKE, .HUB_AON_SEC,
      .HUB_FLASH_SRC_LO, .HUB_FLASH_SRC_HI, .HUB_FLASH_OFF, .HUB_FLASH_LEN, .HUB_FLASH_CMD]
  | .EVT => [.EVT_CTL, .EVT_STAT, .EVT_OVR, .EVT_YLOG_CFG, .EVT_YLOG_RING_LO, .EVT_YLOG_RING_HI,
      .EVT_YLOG_HEAD, .EVT_YLOG_TAIL, .EVT_SRC_CFG, .EVT_SYN, .EVT_COAL]
  | .TIME => [.TIME_CTL, .TIME_CFG, .TIME_PTP, .TIME_SERVO, .TIME_STAT, .TIME_NOW_NS,
      .TIME_NOW_S_LO, .TIME_NOW_S_HI, .TIME_OFFSET, .TIME_RATE, .TIME_PDELAY, .TIME_STEP_S,
      .TIME_STEP_NS, .TIME_UTC, .TIME_PLAN, .TIME_STEER, .TIME_TC_CFG, .TIME_TC_VAL]
  | .AUD => [.AUD_GCFG, .AUD_TRIG_CMD, .AUD_TRIG_NS, .AUD_TRIG_S_LO, .AUD_TRIG_S_HI, .AUD_TRIG_STAT,
      .AUD_TRIG_FRAME_LO, .AUD_TRIG_FRAME_HI, .AUD_PCFG, .AUD_PTIME, .AUD_CNT_LO, .AUD_CNT_HI,
      .AUD_XCFG, .AUD_XRING_LO, .AUD_XRING_HI, .AUD_XHOST, .AUD_XDEV, .AUD_XSTAT,
      .AUD_SCFG, .AUD_SSTAT]
  | .PANEL => [.PANEL_CFG, .PANEL_SIZE, .PANEL_DSC, .PANEL_SURF_CFG, .PANEL_S0_LO, .PANEL_S0_HI,
      .PANEL_S1_LO, .PANEL_S1_HI, .PANEL_TUNE, .PANEL_PUSH, .PANEL_STAT, .PANEL_CRC_EXP,
      .PANEL_CRC_PAD, .PANEL_DCS, .PANEL_DCS_DATA, .PANEL_CNT_LO, .PANEL_CNT_HI, .PANEL_RGN_A,
      .PANEL_RGN_B]
  | .SENSE => [.SENSE_ADC_CFG, .SENSE_ADC_TIMER, .SENSE_ADC_CTL, .SENSE_ADC_STAT, .SENSE_ADC_FIFO, .SENSE_ADC_LIST,
      .SENSE_ADC_CH, .SENSE_ADC_RES, .SENSE_ADC_COR, .SENSE_ADC_CAL, .SENSE_ADC_CALSTAT, .SENSE_ADC_CNT_LO,
      .SENSE_ADC_CNT_HI, .SENSE_PWM_CFG, .SENSE_PWM_PER, .SENSE_PWM_DUTY, .SENSE_PWM_CTL, .SENSE_SW_CFG,
      .SENSE_SW_AUX, .SENSE_SW_STAT, .SENSE_BO_CFG, .SENSE_BO_STAT]
  | .OPIO => [.OPIO_KEY_CFG, .OPIO_KEY_EN_LO, .OPIO_KEY_EN_HI, .OPIO_KEY_STATE_LO, .OPIO_KEY_STATE_HI, .OPIO_KEY_FIFO,
      .OPIO_KEY_FTIME, .OPIO_KEY_STAT, .OPIO_ENC_CFG, .OPIO_ENC_POS, .OPIO_ENC_ERR_LO, .OPIO_ENC_ERR_HI,
      .OPIO_TCH_CFG, .OPIO_TCH_EN, .OPIO_TCH_STATE, .OPIO_TCH_RAW]
  | .THERM => [.THERM_CFG, .THERM_THR, .THERM_CTL, .THERM_STAT, .THERM_LAST, .THERM_LAST_S,
      .THERM_SENS]
  | .PRESS_H => []
  | .BIST => [.BIST_CMD, .BIST_CTL, .BIST_STAT, .BIST_CFG, .BIST_SIG_LO, .BIST_SIG_HI,
      .BIST_LOG]
  | .SECU => [.SECU_STAT, .SECU_ALARM, .SECU_CMD, .SECU_RES, .SECU_ADDR_LO, .SECU_ADDR_HI,
      .SECU_NONCE, .SECU_SLOT]
  | .QDL => [.QDL_ID, .QDL_CTL, .QDL_PEER, .QDL_TAKE_CFG, .QDL_ILV_PER, .QDL_TAKE_STAT,
      .QDL_TIME_STAT]
  | .CEL => [.CEL_TAKE_CMD, .CEL_TAKE_ARG, .CEL_TAKE_STAT, .CEL_TAKE_NUM, .CEL_SHARE_STAT, .CEL_SHARE,
      .CEL_TSTAT, .CEL_KEK, .CEL_SAN_STAT]
  | .RACK_H => []
  | .CUVL => [.CUVL_CTL, .CUVL_GO, .CUVL_CFG, .CUVL_SRC_LO, .CUVL_SRC_HI, .CUVL_LEN,
      .CUVL_STAT, .CUVL_ERR, .CUVL_ERR_DET, .CUVL_REFUSE, .CUVL_BASE, .CUVL_GEN,
      .CUVL_SVN, .CUVL_DIGEST]

end Sys2Proof.Machine
end

