-- ==== Sys2Proof/Machine/Store.lean ====
section
/-!
DEFINITION. The store of register fields. Only fields that differ from their reset value are listed, in rising order of
key, so that a reset of a domain is the removal of the keys of that domain (R14) and equal register files are equal lists.
-/
namespace Sys2Proof.Machine

/-- Which field of which copy of a register: `p` is the pipe (4 for the Hub's copy), `i` and `j` the indexes of the
register's summary row. -/
structure FKey where
  reg : RegId
  lo : Nat
  p : Nat
  i : Nat
  j : Nat
deriving DecidableEq, Repr

/-- The order the store is kept in. -/
def FKey.lt (a b : FKey) : Bool :=
  if a.reg.ctorIdx ≠ b.reg.ctorIdx then a.reg.ctorIdx < b.reg.ctorIdx
  else if a.p ≠ b.p then a.p < b.p
  else if a.i ≠ b.i then a.i < b.i
  else if a.j ≠ b.j then a.j < b.j
  else a.lo < b.lo

/-- The fields that differ from their reset values. -/
abbrev FStore := List (FKey × Nat)

/-- The value at `k`, or `d` where none is listed. -/
def FStore.get (d : Nat) : FStore → FKey → Nat
  | [], _ => d
  | (k', v) :: t, k => if k = k' then v else FStore.get d t k

/-- The store with `v` at `k`. -/
def FStore.put : FStore → FKey → Nat → FStore
  | [], k, v => [(k, v)]
  | (k', v') :: t, k, v =>
    if k = k' then (k, v) :: t
    else if FKey.lt k k' then (k, v) :: (k', v') :: t
    else (k', v') :: FStore.put t k v

/-- The store with nothing at `k`. -/
def FStore.del : FStore → FKey → FStore
  | [], _ => []
  | (k', v') :: t, k => if k = k' then FStore.del t k else (k', v') :: FStore.del t k

/-- The store with the field at `k` holding `v`; the reset value `d` is not listed. -/
def FStore.set (d : Nat) (s : FStore) (k : FKey) (v : Nat) : FStore :=
  if v = d then FStore.del s k else FStore.put s k v

/-- The width of a field. -/
def Fld.width (f : Fld) : Nat := f.hi + 1 - f.lo

/-- The key of a field of copy `p`, `i`, `j`. -/
def Fld.key (f : Fld) (p i j : Nat) : FKey := ⟨f.reg, f.lo, p, i, j⟩

/-- The reset value of a field of copy `p`, `i`: the table's, but for `LANE_TXFIR`, which reads 0 for the sensor lanes 0 to 5
of a pipe, which have no transmitter; the Quadrille lanes have one (R244). [log entry 6: DESIGN CHOICE; log entry 41: DEDUCED] -/
def Fld.rstAt (f : Fld) (p i : Nat) : Nat :=
  if f.reg = .LANE_TXFIR && p ≠ 4 && i < 6 then 0 else f.rst

/-- The reset domain of the register at `k`: the table's, but for `EVT_COAL` of vectors 0 to 512, which is FLR (chapter
18), and for a Hub copy of a pipe register, which is warm (chapters 3, 6 and 16). [log entry 41: DEDUCED] -/
def FKey.dom (k : FKey) : Dom :=
  if k.reg = .EVT_COAL && k.i ≤ 512 then .flr
  else if k.p = 4 && k.reg.info.dom = .pipe then .warm
  else k.reg.info.dom

/-- The access code of a field of copy `p`, `i`: "CV or RW" is CV for the racking channels 0 to 11 of a pipe and RW for the
others; the CV fields of the Hub's copies are RW (chapter 3). -/
def Fld.accAt (f : Fld) (p i : Nat) : Access :=
  match f.acc with
  | .cvrw => if p = 4 then .rw else if i ≤ 11 then .cv else .rw
  | .cv => if p = 4 then .rw else .cv
  | a => a

/-- Whether the field at `k` is an RWS field, which only a cold reset restores (R11, R14). -/
def FKey.sticky (k : FKey) : Bool :=
  k.reg.info.flds.any fun f => f.lo = k.lo && f.acc = .rws

/-- A register found at an offset: the register and its copy numbers. -/
structure RegLoc where
  reg : RegId
  p : Nat
  i : Nat
  j : Nat
deriving DecidableEq, Repr

/-- The copy of a register that lies `d` bytes above the first one. -/
def locIdx (d : Nat) : List (Nat × Nat × Nat) → Option (Nat × Nat)
  | [] => if d = 0 then some (0, 0) else none
  | [(s, a, n)] => if d % s = 0 ∧ d / s < n then some (a + d / s, 0) else none
  | (s, a, n) :: (s', a', n') :: _ =>
    let i := d / s
    let r := d % s
    if i < n ∧ r % s' = 0 ∧ r / s' < n' then some (a + i, a' + r / s') else none

/-- The register of a list that lies at offset `o` of its block. -/
def findReg (p o : Nat) : List RegId → Option RegLoc
  | [] => none
  | r :: t =>
    if r.info.off ≤ o then
      match locIdx (o - r.info.off) r.info.dims with
      | some (i, j) => some ⟨r, p, i, j⟩
      | none => findReg p o t
    else findReg p o t

/-- The blocks of a device slot by offset / 256 KiB, for the Hub part (R557). -/
def hubBlock : Nat → Option BlockId
  | 0 => some .HUB_CTL | 1 => some .EVT | 2 => some .TIME | 3 => some .AUD | 4 => some .PANEL | 5 => some .SENSE
  | 6 => some .OPIO | 7 => some .THERM | 8 => some .PRESS_H | 9 => some .BIST | 10 => some .SECU | 11 => some .QDL
  | 12 => some .CEL | 13 => some .RACK_H | 14 => some .CUVL | _ => none

/-- The block of a pipe window and the offset in it (R558). -/
def pipeBlock (o : Nat) : Option (BlockId × Nat) :=
  let a := o / 0x20000
  let lo := o % 0x20000
  if a = 0 then some (.PCTL, lo) else if a = 1 then some (.LANE, lo) else if a = 2 then some (.SFE, lo)
  else if a = 3 then some (.TRL, lo) else if a = 4 then some (.CASK, lo) else if a = 5 then some (.RACK, lo)
  else if a = 6 then some (.VRS, lo) else if a = 7 then some (.STAT, lo)
  else
    let b := o / 0x40000
    let l := o % 0x40000
    if b = 4 then some (.PXR, l) else if b = 5 then some (.BLK, l) else if b = 6 then some (.DRC, l)
    else if b = 7 then some (.CELP, l) else if b = 8 then some (.NET, l) else if b = 9 then some (.SDI, l)
    else if b = 10 then some (.PRESS_P, l) else if b = 11 then some (.PTHM, l) else none

/-- The Hub's copies of pipe registers: the racking channels 0 to 7 and the 64 Hub casks in RACK_H, the Press rings 0 to 2
in PRESS_H, the Quadrille lanes 0 to 5 in QDL (chapters 3, 16 and 6). -/
def hubCopy (b : BlockId) (o : Nat) : Option RegLoc :=
  match b with
  | .RACK_H =>
    if o < 0x20000 then
      match findReg 4 o (blockRegs .RACK) with
      | some l => if l.i < 8 then some l else none
      | none => none
    else
      match findReg 4 (o - 0x20000) (blockRegs .CASK) with
      | some l => if l.i < 64 then some l else none
      | none => none
  | .PRESS_H =>
    match findReg 4 o (blockRegs .PRESS_P) with
    | some l => if l.i < 3 then some l else none
    | none => none
  | .QDL =>
    if o = 0x10800 then some ⟨.LANE_RETRY, 4, 0, 0⟩
    else if o = 0x10804 then some ⟨.LANE_CTL, 4, 0, 0⟩
    else if o = 0x10808 then some ⟨.LANE_SNAP, 4, 0, 0⟩
    else if o = 0x1080C then some ⟨.LANE_REFSTAT, 4, 0, 0⟩
    else if 0x10880 ≤ o ∧ o < 0x1088C ∧ o % 4 = 0 then some ⟨.LANE_ROLE_STAT, 4, (o - 0x10880) / 4, 0⟩
    else if 0x10000 ≤ o ∧ o < 0x10300 then
      match findReg 4 (o - 0x10000 + 0x1000) (blockRegs .LANE) with
      | some l => if l.i < 6 then some l else none
      | none => none
    else none
  | _ => none

/-- The register at byte offset `o` of a device slot, where a register lies there (R557, R558). -/
def regAt (o : Nat) : Option RegLoc :=
  if o < 0x400000 then
    match hubBlock (o / 0x40000) with
    | some b =>
      match hubCopy b (o % 0x40000) with
      | some l => some l
      | none => findReg 0 (o % 0x40000) (blockRegs b)
    | none => none
  else if o < 0x1400000 then
    let n := (o - 0x400000) / 0x400000
    match pipeBlock ((o - 0x400000) % 0x400000) with
    | some (b, l) => findReg n l (blockRegs b)
    | none => none
  else none

end Sys2Proof.Machine
end

