-- ==== Sys2Proof/Machine/Pairs.lean ====
section
/-!
DEFINITION. The 64-bit pairs (R6) and the 48-bit counters (R16) among the registers: a pair is two registers whose names
end in _LO and _HI; a counter is a pair with fields CNT_LO, CNT_HI and SAT.
-/
namespace Sys2Proof.Machine

/-- The high word of the pair whose low word is the register. [log entry 17: DESIGN CHOICE] -/
def RegId.pairHi : RegId → Option RegId
  | .PCTL_ARUN_TS_LO => some .PCTL_ARUN_TS_HI
  | .PCTL_STALL_CNT_LO => some .PCTL_STALL_CNT_HI
  | .CASK_CORR_CNT_LO => some .CASK_CORR_CNT_HI
  | .CASK_UNC_CNT_LO => some .CASK_UNC_CNT_HI
  | .RACK_RING_LO => some .RACK_RING_HI
  | .RACK_BYTES_LO => some .RACK_BYTES_HI
  | .TRL_CORR_CNT_LO => some .TRL_CORR_CNT_HI
  | .TRL_UNC_CNT_LO => some .TRL_UNC_CNT_HI
  | .TRL_RST_CNT_LO => some .TRL_RST_CNT_HI
  | .CUVL_SRC_LO => some .CUVL_SRC_HI
  | .LANE_HDR_ERR_LO => some .LANE_HDR_ERR_HI
  | .LANE_DOWN_CNT_LO => some .LANE_DOWN_CNT_HI
  | .LANE_PRBS_ERR_LO => some .LANE_PRBS_ERR_HI
  | .LANE_PRBS_BITS_LO => some .LANE_PRBS_BITS_HI
  | .LANE_SNAP_ERR_LO => some .LANE_SNAP_ERR_HI
  | .LANE_SNAP_BITS_LO => some .LANE_SNAP_BITS_HI
  | .SFE_ERR_CNT_LO => some .SFE_ERR_CNT_HI
  | .VRS_CORR_CNT_LO => some .VRS_CORR_CNT_HI
  | .VRS_UNC_CNT_LO => some .VRS_UNC_CNT_HI
  | .VRS_LATE_CNT_LO => some .VRS_LATE_CNT_HI
  | .HUB_STM_RING_LO => some .HUB_STM_RING_HI
  | .PXR_CNT_FRAMES_LO => some .PXR_CNT_FRAMES_HI
  | .PXR_CNT_GAPS_LO => some .PXR_CNT_GAPS_HI
  | .PXR_CNT_REPEAT_LO => some .PXR_CNT_REPEAT_HI
  | .PXR_CNT_DSLICE_LO => some .PXR_CNT_DSLICE_HI
  | .PXR_CNT_BYTES_LO => some .PXR_CNT_BYTES_HI
  | .PXR_DEC_SRC_LO => some .PXR_DEC_SRC_HI
  | .PXR_DEC_DSC_LO => some .PXR_DEC_DSC_HI
  | .PXR_DEC_DST_LO => some .PXR_DEC_DST_HI
  | .PXR_DEC_MAP_LO => some .PXR_DEC_MAP_HI
  | .BLK_CNT_LO => some .BLK_CNT_HI
  | .BLK_DEC_SRC_LO => some .BLK_DEC_SRC_HI
  | .BLK_DEC_POOL_LO => some .BLK_DEC_POOL_HI
  | .BLK_DEC_DST_LO => some .BLK_DEC_DST_HI
  | .HUB_ASM_RING_LO => some .HUB_ASM_RING_HI
  | .CELP_STRM_SLBA_LO => some .CELP_STRM_SLBA_HI
  | .CELP_LOCKWAIT_CNT_LO => some .CELP_LOCKWAIT_CNT_HI
  | .DRC_CORR_CNT_LO => some .DRC_CORR_CNT_HI
  | .DRC_UNC_CNT_LO => some .DRC_UNC_CNT_HI
  | .TIME_NOW_S_LO => some .TIME_NOW_S_HI
  | .NET_TIME_S_LO => some .NET_TIME_S_HI
  | .NET_TXTS_OVF_LO => some .NET_TXTS_OVF_HI
  | .NET_CNT_LO => some .NET_CNT_HI
  | .NET_LO_CNT_LO => some .NET_LO_CNT_HI
  | .PRESS_IN_CNT_LO => some .PRESS_IN_CNT_HI
  | .PRESS_OUT_CNT_LO => some .PRESS_OUT_CNT_HI
  | .PRESS_FAIL_CNT_LO => some .PRESS_FAIL_CNT_HI
  | .PRESS_RING_LO => some .PRESS_RING_HI
  | .EVT_YLOG_RING_LO => some .EVT_YLOG_RING_HI
  | .PANEL_S0_LO => some .PANEL_S0_HI
  | .PANEL_S1_LO => some .PANEL_S1_HI
  | .PANEL_CNT_LO => some .PANEL_CNT_HI
  | .AUD_TRIG_S_LO => some .AUD_TRIG_S_HI
  | .AUD_TRIG_FRAME_LO => some .AUD_TRIG_FRAME_HI
  | .AUD_CNT_LO => some .AUD_CNT_HI
  | .AUD_XRING_LO => some .AUD_XRING_HI
  | .SENSE_ADC_CNT_LO => some .SENSE_ADC_CNT_HI
  | .OPIO_ENC_ERR_LO => some .OPIO_ENC_ERR_HI
  | .HUB_SERIAL_LO => some .HUB_SERIAL_HI
  | .HUB_FLASH_SRC_LO => some .HUB_FLASH_SRC_HI
  | .BIST_SIG_LO => some .BIST_SIG_HI
  | .SECU_ADDR_LO => some .SECU_ADDR_HI
  | _ => none

/-- The low word of the pair whose high word is the register. -/
def RegId.pairLo : RegId → Option RegId
  | .PCTL_ARUN_TS_HI => some .PCTL_ARUN_TS_LO
  | .PCTL_STALL_CNT_HI => some .PCTL_STALL_CNT_LO
  | .CASK_CORR_CNT_HI => some .CASK_CORR_CNT_LO
  | .CASK_UNC_CNT_HI => some .CASK_UNC_CNT_LO
  | .RACK_RING_HI => some .RACK_RING_LO
  | .RACK_BYTES_HI => some .RACK_BYTES_LO
  | .TRL_CORR_CNT_HI => some .TRL_CORR_CNT_LO
  | .TRL_UNC_CNT_HI => some .TRL_UNC_CNT_LO
  | .TRL_RST_CNT_HI => some .TRL_RST_CNT_LO
  | .CUVL_SRC_HI => some .CUVL_SRC_LO
  | .LANE_HDR_ERR_HI => some .LANE_HDR_ERR_LO
  | .LANE_DOWN_CNT_HI => some .LANE_DOWN_CNT_LO
  | .LANE_PRBS_ERR_HI => some .LANE_PRBS_ERR_LO
  | .LANE_PRBS_BITS_HI => some .LANE_PRBS_BITS_LO
  | .LANE_SNAP_ERR_HI => some .LANE_SNAP_ERR_LO
  | .LANE_SNAP_BITS_HI => some .LANE_SNAP_BITS_LO
  | .SFE_ERR_CNT_HI => some .SFE_ERR_CNT_LO
  | .VRS_CORR_CNT_HI => some .VRS_CORR_CNT_LO
  | .VRS_UNC_CNT_HI => some .VRS_UNC_CNT_LO
  | .VRS_LATE_CNT_HI => some .VRS_LATE_CNT_LO
  | .HUB_STM_RING_HI => some .HUB_STM_RING_LO
  | .PXR_CNT_FRAMES_HI => some .PXR_CNT_FRAMES_LO
  | .PXR_CNT_GAPS_HI => some .PXR_CNT_GAPS_LO
  | .PXR_CNT_REPEAT_HI => some .PXR_CNT_REPEAT_LO
  | .PXR_CNT_DSLICE_HI => some .PXR_CNT_DSLICE_LO
  | .PXR_CNT_BYTES_HI => some .PXR_CNT_BYTES_LO
  | .PXR_DEC_SRC_HI => some .PXR_DEC_SRC_LO
  | .PXR_DEC_DSC_HI => some .PXR_DEC_DSC_LO
  | .PXR_DEC_DST_HI => some .PXR_DEC_DST_LO
  | .PXR_DEC_MAP_HI => some .PXR_DEC_MAP_LO
  | .BLK_CNT_HI => some .BLK_CNT_LO
  | .BLK_DEC_SRC_HI => some .BLK_DEC_SRC_LO
  | .BLK_DEC_POOL_HI => some .BLK_DEC_POOL_LO
  | .BLK_DEC_DST_HI => some .BLK_DEC_DST_LO
  | .HUB_ASM_RING_HI => some .HUB_ASM_RING_LO
  | .CELP_STRM_SLBA_HI => some .CELP_STRM_SLBA_LO
  | .CELP_LOCKWAIT_CNT_HI => some .CELP_LOCKWAIT_CNT_LO
  | .DRC_CORR_CNT_HI => some .DRC_CORR_CNT_LO
  | .DRC_UNC_CNT_HI => some .DRC_UNC_CNT_LO
  | .TIME_NOW_S_HI => some .TIME_NOW_S_LO
  | .NET_TIME_S_HI => some .NET_TIME_S_LO
  | .NET_TXTS_OVF_HI => some .NET_TXTS_OVF_LO
  | .NET_CNT_HI => some .NET_CNT_LO
  | .NET_LO_CNT_HI => some .NET_LO_CNT_LO
  | .PRESS_IN_CNT_HI => some .PRESS_IN_CNT_LO
  | .PRESS_OUT_CNT_HI => some .PRESS_OUT_CNT_LO
  | .PRESS_FAIL_CNT_HI => some .PRESS_FAIL_CNT_LO
  | .PRESS_RING_HI => some .PRESS_RING_LO
  | .EVT_YLOG_RING_HI => some .EVT_YLOG_RING_LO
  | .PANEL_S0_HI => some .PANEL_S0_LO
  | .PANEL_S1_HI => some .PANEL_S1_LO
  | .PANEL_CNT_HI => some .PANEL_CNT_LO
  | .AUD_TRIG_S_HI => some .AUD_TRIG_S_LO
  | .AUD_TRIG_FRAME_HI => some .AUD_TRIG_FRAME_LO
  | .AUD_CNT_HI => some .AUD_CNT_LO
  | .AUD_XRING_HI => some .AUD_XRING_LO
  | .SENSE_ADC_CNT_HI => some .SENSE_ADC_CNT_LO
  | .OPIO_ENC_ERR_HI => some .OPIO_ENC_ERR_LO
  | .HUB_SERIAL_HI => some .HUB_SERIAL_LO
  | .HUB_FLASH_SRC_HI => some .HUB_FLASH_SRC_LO
  | .BIST_SIG_HI => some .BIST_SIG_LO
  | .SECU_ADDR_HI => some .SECU_ADDR_LO
  | _ => none

/-- A 48-bit counter with its sticky saturation bit (R16). -/
structure Cnt where
  lo : Fld
  hi : Fld
  sat : Fld
deriving DecidableEq, Repr

def C.PCTL_STALL_CNT : Cnt := ⟨F.PCTL_STALL_CNT_LO_CNT_LO, F.PCTL_STALL_CNT_HI_CNT_HI, F.PCTL_STALL_CNT_HI_SAT⟩
def C.CASK_CORR_CNT : Cnt := ⟨F.CASK_CORR_CNT_LO_CNT_LO, F.CASK_CORR_CNT_HI_CNT_HI, F.CASK_CORR_CNT_HI_SAT⟩
def C.CASK_UNC_CNT : Cnt := ⟨F.CASK_UNC_CNT_LO_CNT_LO, F.CASK_UNC_CNT_HI_CNT_HI, F.CASK_UNC_CNT_HI_SAT⟩
def C.RACK_BYTES : Cnt := ⟨F.RACK_BYTES_LO_CNT_LO, F.RACK_BYTES_HI_CNT_HI, F.RACK_BYTES_HI_SAT⟩
def C.TRL_CORR_CNT : Cnt := ⟨F.TRL_CORR_CNT_LO_CNT_LO, F.TRL_CORR_CNT_HI_CNT_HI, F.TRL_CORR_CNT_HI_SAT⟩
def C.TRL_UNC_CNT : Cnt := ⟨F.TRL_UNC_CNT_LO_CNT_LO, F.TRL_UNC_CNT_HI_CNT_HI, F.TRL_UNC_CNT_HI_SAT⟩
def C.TRL_RST_CNT : Cnt := ⟨F.TRL_RST_CNT_LO_CNT_LO, F.TRL_RST_CNT_HI_CNT_HI, F.TRL_RST_CNT_HI_SAT⟩
def C.LANE_HDR_ERR : Cnt := ⟨F.LANE_HDR_ERR_LO_CNT_LO, F.LANE_HDR_ERR_HI_CNT_HI, F.LANE_HDR_ERR_HI_SAT⟩
def C.LANE_DOWN_CNT : Cnt := ⟨F.LANE_DOWN_CNT_LO_CNT_LO, F.LANE_DOWN_CNT_HI_CNT_HI, F.LANE_DOWN_CNT_HI_SAT⟩
def C.LANE_PRBS_ERR : Cnt := ⟨F.LANE_PRBS_ERR_LO_CNT_LO, F.LANE_PRBS_ERR_HI_CNT_HI, F.LANE_PRBS_ERR_HI_SAT⟩
def C.LANE_PRBS_BITS : Cnt := ⟨F.LANE_PRBS_BITS_LO_CNT_LO, F.LANE_PRBS_BITS_HI_CNT_HI, F.LANE_PRBS_BITS_HI_SAT⟩
def C.LANE_SNAP_ERR : Cnt := ⟨F.LANE_SNAP_ERR_LO_CNT_LO, F.LANE_SNAP_ERR_HI_CNT_HI, F.LANE_SNAP_ERR_HI_SAT⟩
def C.LANE_SNAP_BITS : Cnt := ⟨F.LANE_SNAP_BITS_LO_CNT_LO, F.LANE_SNAP_BITS_HI_CNT_HI, F.LANE_SNAP_BITS_HI_SAT⟩
def C.SFE_ERR_CNT : Cnt := ⟨F.SFE_ERR_CNT_LO_CNT_LO, F.SFE_ERR_CNT_HI_CNT_HI, F.SFE_ERR_CNT_HI_SAT⟩
def C.VRS_CORR_CNT : Cnt := ⟨F.VRS_CORR_CNT_LO_CNT_LO, F.VRS_CORR_CNT_HI_CNT_HI, F.VRS_CORR_CNT_HI_SAT⟩
def C.VRS_UNC_CNT : Cnt := ⟨F.VRS_UNC_CNT_LO_CNT_LO, F.VRS_UNC_CNT_HI_CNT_HI, F.VRS_UNC_CNT_HI_SAT⟩
def C.VRS_LATE_CNT : Cnt := ⟨F.VRS_LATE_CNT_LO_CNT_LO, F.VRS_LATE_CNT_HI_CNT_HI, F.VRS_LATE_CNT_HI_SAT⟩
def C.PXR_CNT_FRAMES : Cnt := ⟨F.PXR_CNT_FRAMES_LO_CNT_LO, F.PXR_CNT_FRAMES_HI_CNT_HI, F.PXR_CNT_FRAMES_HI_SAT⟩
def C.PXR_CNT_GAPS : Cnt := ⟨F.PXR_CNT_GAPS_LO_CNT_LO, F.PXR_CNT_GAPS_HI_CNT_HI, F.PXR_CNT_GAPS_HI_SAT⟩
def C.PXR_CNT_REPEAT : Cnt := ⟨F.PXR_CNT_REPEAT_LO_CNT_LO, F.PXR_CNT_REPEAT_HI_CNT_HI, F.PXR_CNT_REPEAT_HI_SAT⟩
def C.PXR_CNT_DSLICE : Cnt := ⟨F.PXR_CNT_DSLICE_LO_CNT_LO, F.PXR_CNT_DSLICE_HI_CNT_HI, F.PXR_CNT_DSLICE_HI_SAT⟩
def C.PXR_CNT_BYTES : Cnt := ⟨F.PXR_CNT_BYTES_LO_CNT_LO, F.PXR_CNT_BYTES_HI_CNT_HI, F.PXR_CNT_BYTES_HI_SAT⟩
def C.BLK_CNT : Cnt := ⟨F.BLK_CNT_LO_CNT_LO, F.BLK_CNT_HI_CNT_HI, F.BLK_CNT_HI_SAT⟩
def C.CELP_LOCKWAIT_CNT : Cnt := ⟨F.CELP_LOCKWAIT_CNT_LO_CNT_LO, F.CELP_LOCKWAIT_CNT_HI_CNT_HI, F.CELP_LOCKWAIT_CNT_HI_SAT⟩
def C.DRC_CORR_CNT : Cnt := ⟨F.DRC_CORR_CNT_LO_CNT_LO, F.DRC_CORR_CNT_HI_CNT_HI, F.DRC_CORR_CNT_HI_SAT⟩
def C.DRC_UNC_CNT : Cnt := ⟨F.DRC_UNC_CNT_LO_CNT_LO, F.DRC_UNC_CNT_HI_CNT_HI, F.DRC_UNC_CNT_HI_SAT⟩
def C.NET_TXTS_OVF : Cnt := ⟨F.NET_TXTS_OVF_LO_CNT_LO, F.NET_TXTS_OVF_HI_CNT_HI, F.NET_TXTS_OVF_HI_SAT⟩
def C.NET_CNT : Cnt := ⟨F.NET_CNT_LO_CNT_LO, F.NET_CNT_HI_CNT_HI, F.NET_CNT_HI_SAT⟩
def C.NET_LO_CNT : Cnt := ⟨F.NET_LO_CNT_LO_CNT_LO, F.NET_LO_CNT_HI_CNT_HI, F.NET_LO_CNT_HI_SAT⟩
def C.PRESS_IN_CNT : Cnt := ⟨F.PRESS_IN_CNT_LO_CNT_LO, F.PRESS_IN_CNT_HI_CNT_HI, F.PRESS_IN_CNT_HI_SAT⟩
def C.PRESS_OUT_CNT : Cnt := ⟨F.PRESS_OUT_CNT_LO_CNT_LO, F.PRESS_OUT_CNT_HI_CNT_HI, F.PRESS_OUT_CNT_HI_SAT⟩
def C.PRESS_FAIL_CNT : Cnt := ⟨F.PRESS_FAIL_CNT_LO_CNT_LO, F.PRESS_FAIL_CNT_HI_CNT_HI, F.PRESS_FAIL_CNT_HI_SAT⟩
def C.PANEL_CNT : Cnt := ⟨F.PANEL_CNT_LO_CNT_LO, F.PANEL_CNT_HI_CNT_HI, F.PANEL_CNT_HI_SAT⟩
def C.AUD_CNT : Cnt := ⟨F.AUD_CNT_LO_CNT_LO, F.AUD_CNT_HI_CNT_HI, F.AUD_CNT_HI_SAT⟩
def C.SENSE_ADC_CNT : Cnt := ⟨F.SENSE_ADC_CNT_LO_CNT_LO, F.SENSE_ADC_CNT_HI_CNT_HI, F.SENSE_ADC_CNT_HI_SAT⟩
def C.OPIO_ENC_ERR : Cnt := ⟨F.OPIO_ENC_ERR_LO_CNT_LO, F.OPIO_ENC_ERR_HI_CNT_HI, F.OPIO_ENC_ERR_HI_SAT⟩

/-- The counter whose high word is the register. -/
def RegId.counter : RegId → Option Cnt
  | .PCTL_STALL_CNT_HI => some C.PCTL_STALL_CNT
  | .CASK_CORR_CNT_HI => some C.CASK_CORR_CNT
  | .CASK_UNC_CNT_HI => some C.CASK_UNC_CNT
  | .RACK_BYTES_HI => some C.RACK_BYTES
  | .TRL_CORR_CNT_HI => some C.TRL_CORR_CNT
  | .TRL_UNC_CNT_HI => some C.TRL_UNC_CNT
  | .TRL_RST_CNT_HI => some C.TRL_RST_CNT
  | .LANE_HDR_ERR_HI => some C.LANE_HDR_ERR
  | .LANE_DOWN_CNT_HI => some C.LANE_DOWN_CNT
  | .LANE_PRBS_ERR_HI => some C.LANE_PRBS_ERR
  | .LANE_PRBS_BITS_HI => some C.LANE_PRBS_BITS
  | .LANE_SNAP_ERR_HI => some C.LANE_SNAP_ERR
  | .LANE_SNAP_BITS_HI => some C.LANE_SNAP_BITS
  | .SFE_ERR_CNT_HI => some C.SFE_ERR_CNT
  | .VRS_CORR_CNT_HI => some C.VRS_CORR_CNT
  | .VRS_UNC_CNT_HI => some C.VRS_UNC_CNT
  | .VRS_LATE_CNT_HI => some C.VRS_LATE_CNT
  | .PXR_CNT_FRAMES_HI => some C.PXR_CNT_FRAMES
  | .PXR_CNT_GAPS_HI => some C.PXR_CNT_GAPS
  | .PXR_CNT_REPEAT_HI => some C.PXR_CNT_REPEAT
  | .PXR_CNT_DSLICE_HI => some C.PXR_CNT_DSLICE
  | .PXR_CNT_BYTES_HI => some C.PXR_CNT_BYTES
  | .BLK_CNT_HI => some C.BLK_CNT
  | .CELP_LOCKWAIT_CNT_HI => some C.CELP_LOCKWAIT_CNT
  | .DRC_CORR_CNT_HI => some C.DRC_CORR_CNT
  | .DRC_UNC_CNT_HI => some C.DRC_UNC_CNT
  | .NET_TXTS_OVF_HI => some C.NET_TXTS_OVF
  | .NET_CNT_HI => some C.NET_CNT
  | .NET_LO_CNT_HI => some C.NET_LO_CNT
  | .PRESS_IN_CNT_HI => some C.PRESS_IN_CNT
  | .PRESS_OUT_CNT_HI => some C.PRESS_OUT_CNT
  | .PRESS_FAIL_CNT_HI => some C.PRESS_FAIL_CNT
  | .PANEL_CNT_HI => some C.PANEL_CNT
  | .AUD_CNT_HI => some C.AUD_CNT
  | .SENSE_ADC_CNT_HI => some C.SENSE_ADC_CNT
  | .OPIO_ENC_ERR_HI => some C.OPIO_ENC_ERR
  | _ => none

end Sys2Proof.Machine
end

