-- ==== Sys2Proof/Machine/Types.lean ====
section
/-!
DEFINITION. The parts of the block's state that are not register fields: the engines' records, chapter by chapter. A table
that lists nothing at a key stands for the record with the values of its declaration, which are the reset values.
-/
namespace Sys2Proof.Machine

/-- Four of a thing, one per pipe. -/
structure Four (α : Type) where
  p0 : α
  p1 : α
  p2 : α
  p3 : α
deriving DecidableEq, Repr

/-- The one of pipe `n` (pipe 3 for any number above 2). -/
def Four.get {α : Type} (f : Four α) : Nat → α
  | 0 => f.p0
  | 1 => f.p1
  | 2 => f.p2
  | _ => f.p3

/-- The four with that of pipe `n` changed by `g`. -/
def Four.upd {α : Type} (f : Four α) (n : Nat) (g : α → α) : Four α :=
  match n with
  | 0 => { f with p0 := g f.p0 }
  | 1 => { f with p1 := g f.p1 }
  | 2 => { f with p2 := g f.p2 }
  | _ => { f with p3 := g f.p3 }

/-! ### Time (chapter 15) -/

/-- An anchor and a rate word: the counter and the PTP time at the anchor, both in 2⁻⁸ ns, and `R` (R491). -/
structure Anchor where
  ca : Nat := 0
  ta : Nat := 0
  r : Int := 0
deriving DecidableEq, Repr

/-! ### Guarantees and events (chapters 1 and 18) -/

/-- A yield in force: what its begin record said (R40), when it began, and how far it has counted. -/
structure Yield where
  origin : Nat
  yrank : Nat
  krank : Nat
  res : Nat
  object : Nat
  cause : Nat
  began : Nat
  amount : Nat := 0
deriving DecidableEq, Repr

/-- The events a vector holds since its last message and the counter at the first of them (R565). -/
structure Coal where
  c : Nat := 0
  t0 : Nat := 0
deriving DecidableEq, Repr

/-- An entry of the MSI-X table (R550): message address, data, and whether its mask bit is clear. -/
structure MsixEntry where
  addr : Nat := 0
  data : Nat := 0
  unmasked : Bool := false
deriving DecidableEq, Repr

/-- The event router (chapter 18): the set status and overrun bits, the syndromes, the MSI-X table and pending bits, the
wired pins, the messages sent so far per vector, and the yields in force. [log entry 9: DESIGN CHOICE] -/
structure Router where
  stat : List Nat := []
  ovr : List Nat := []
  syn : Tab Nat := []
  mc : List Nat := []
  table : Tab MsixEntry := []
  owed : List Nat := []
  coal : Tab Coal := []
  sent : Tab Nat := []
  irqLow : Nat := 0
  yields : List Yield := []
  yseq : Tab Nat := []
  aer : List Nat := []
deriving DecidableEq, Repr

/-! ### Pace (chapter 2) -/

/-- A pace sensor (R67, R68): the last reading, for how many readings it has stayed unchanged, and the longest reading
of the window being gathered. -/
structure PSensor where
  last : Nat := 0
  same : Nat := 0
  peak : Nat := 0
deriving DecidableEq, Repr

/-- What a pipe has shed and holds shed (R83): the rank-5 kinds paused (codes of R40), the sheddable rungs paused, the
other rungs stopped, the live outputs stopped, each with the claim it was shed for; the claims that were short in the
last window, how many windows each claim's margin has been below 0, the last margin of each claim, and the short REC claims that have
reported nothing left to shed (R85). The claim number 32 stands for the valid claims whose masks hold the item (R86). -/
structure Pace where
  sens : Tab PSensor := []
  neg : Tab Nat := []
  short : List Nat := []
  margins : Tab Int := []
  kinds : List (Nat × Nat) := []
  rungs : List (Nat × Nat) := []
  lives : List (Nat × Nat) := []
  done : List Nat := []
deriving DecidableEq, Repr

/-- The record path's watchdog and gap counts (R87 to R90): the stage and instance of the last stall and when it was
raised, whether the split has stopped feeding the record branch, how many frames it has counted for a gap, whether the flush of step 4 is
done, and whether the path stays stopped until a pipe reset. [log entry 27: DEDUCED] -/
structure RecPath where
  stage : Nat := 0
  inst : Nat := 0
  at_ : Nat := 0
  seen : Bool := false
  stopped : Bool := false
  flushed : Bool := false
  latched : Bool := false
  gaps : Nat := 0
deriving DecidableEq, Repr

/-- The transaction the governor has on the PMBus (R73, R75, R76): nothing; the three steps of the entry sequence; a
voltage write; the two verification reads; the read after an alert. -/
inductive PmbOp where
  | none | page | voutMode | readVoutEntry | voutCommand | verifyVout | verifyStatus | alertStatus
deriving DecidableEq, Repr

/-- The governor (R73 to R77): the transaction in progress, its failed attempts so far, whether its repeat is awaited, whether the
settling time runs; the exponent VOUT_MODE gave; the command value; the target and the code of the write in progress; whether a mode
write has cut the step in progress; whether the entry sequence and the read after an alert wait for the bus; the counter at the last
voltage change; the bytes the governor sends in the transaction in progress, and whether at 1 MHz. [log entry 28: PRESUMED] -/
structure Gov where
  op : PmbOp := .none
  bus : List Byte := []
  fast : Bool := false
  tries : Nat := 0
  waiting : Bool := false
  settling : Bool := false
  exponent : Int := 0
  vcmd : Nat := 0
  target : Nat := 0
  code : Nat := 0
  cut : Bool := false
  entry : Bool := false
  alert : Bool := false
  lastChange : Nat := 0
deriving DecidableEq, Repr

/-! ### DRAM controller (chapter 14) -/

/-- An entry of a channel's queue: the number of its request, the request's source and rank, and the map addresses of the accesses it
still has. -/
structure DramEntry where
  seq : Nat
  src : Nat
  rank : Nat
  accs : List Nat
deriving DecidableEq, Repr

/-- An access of a request: its map address and length, for a write its bytes, and, once the channel has made it, what was found at its
32-byte words, by word number. -/
structure DramAcc where
  addr : Nat
  len : Nat
  data : List Byte := []
  found : Option (List (Nat × DramFlaw)) := none
deriving DecidableEq, Repr

/-- A request that has not completed (R472): its number in the order of issue, its source, direction and poison, and its accesses. -/
structure DramOp where
  seq : Nat
  src : Nat
  wr : Bool
  psn : Bool
  accs : List DramAcc
deriving DecidableEq, Repr

/-- A pipe's DRAM and its controller: the bytes by map address; the 32-byte words that hold stored poison (R480) and those
that are bad until rewritten, with their class and syndrome (R479); the requests that have not completed, in the order of issue, and the
number of the next; the six channel queues; the entries that wait for room or are held; the channels in idle self-refresh; the samples of the hot window, how many hot windows have followed one
another, and whether a blackout or hold fell into the window; the phase of a rate change (0 none, 1 set points, 2 waiting for an empty instant,
3 blackout), whether requests are held, when the blackout began; whether the pipe was reset during the change; and the
data last delivered. [log entry 9: DESIGN CHOICE] -/
structure Dram where
  mem : Mem := []
  psn : List Nat := []
  bad : Tab (Nat × Nat) := []
  flight : List DramOp := []
  seq : Nat := 0
  queues : Tab (List DramEntry) := []
  waiting : List (Nat × DramEntry) := []
  sr : List Nat := []
  samples : Tab Nat := []
  hotRun : Nat := 0
  winBlack : Bool := false
  phase : Nat := 0
  hold : Bool := false
  black : Nat := 0
  park : Bool := false
  dlvSrc : Nat := 0
  dlvData : List Byte := []
  dlvPsn : Bool := false
deriving DecidableEq, Repr

/-! ### Casks (chapter 3) -/

/-- A cask's new configuration words of a partial load, waiting for the seam (R114): `CASK_CFG`, `CASK_BIND`, `CASK_TTO`. -/
structure CaskNext where
  cfg : Nat
  bind : Nat
  tto : Nat
deriving DecidableEq, Repr

/-- A cask: the words stored, oldest first; the words its producer holds until a credit comes (R97); whether a FLUSHED marker waits before them (a flush discards every word and
replaces an unread marker, R105); the credits on their way back (R98); the offset of the next word read from the cask's
base; a configuration waiting for the seam; and the word last delivered. [log entry 9: DESIGN CHOICE; log entry 30: DEDUCED] -/
structure Cask where
  words : List CaskWord := []
  wait : List CaskWord := []
  marker : Bool := false
  transit : Nat := 0
  rpos : Nat := 0
  next : Option CaskNext := none
  out : Option CaskWord := none
deriving DecidableEq, Repr

/-! ### Trellis (chapter 4) -/

/-- The flags of a token (R136): end of line, end of frame, poisoned. -/
structure Flags where
  eol : Bool := false
  eof : Bool := false
  psn : Bool := false
deriving DecidableEq, Repr

/-- A token: 32 data bits and its flags (R136). -/
structure Token where
  data : Nat
  flags : Flags := {}
deriving DecidableEq, Repr

/-- What an element holds beside its configuration (R137): the registers G0 to G7, whether it has started since its load
or restart, the program counter, the flag latch, the POS counters, and whether a micro-op is in progress. [log entry 32: DEDUCED] -/
structure ElemSt where
  g : Tab Nat := []
  begun : Bool := false
  pc : Nat := 0
  latch : Flags := {}
  posA : Nat := 0
  posB : Nat := 0
  busy : Bool := false
deriving DecidableEq, Repr

/-- A place tokens come from: output `o` of element `e`, cask port `q` of tile `t` reading, output code `k` (0 to 3) of cluster `c`'s
Veraison units, a cluster window, a ring lane leaving cluster `c` by destination code `k`, or crossbar output `o` of tile `t` that a
crossbar input of the tile feeds. -/
inductive Root where
  | el (e o : Nat) | port (t q : Nat) | vrs (c k : Nat) | win (c w : Nat) | lane (c k : Nat) | pass (t o : Nat)
deriving DecidableEq, Repr

/-- A place that accepts tokens: input `i` of element `e`, cask port `q` of tile `t` writing, input code `k` of cluster `c`'s Veraison
units, a cluster window, or the head of a path that only passes tokens on: a ring lane, a tile's way from crossbar input to output. -/
inductive Sink where
  | el (e i : Nat) | port (t q : Nat) | vrs (c k : Nat) | win (c w : Nat) | lane (c k : Nat) | pass (t o : Nat)
deriving DecidableEq, Repr

/-- The tokens waiting at a source, oldest first, and the consumers that have accepted the oldest one (R142, R163). [log entry 32: DEDUCED] -/
structure RootSt where
  toks : List Token := []
  taken : List Sink := []
deriving DecidableEq, Repr

/-- A cask port: the first token of a word being packed, the lines a read port has counted, and the words a write port
holds until its cask has a credit (R153 to R156). -/
structure PortSt where
  half : Option Token := none
  lines : Nat := 0
  out : List CaskWord := []
deriving DecidableEq, Repr

/-- A tile window: the column pointer, the line of the window being written, and the lines pushed since the last EOF its
owner consumed on I0 (R159, R160). [log entry 32: DEDUCED] -/
structure WinSt where
  ptr : Nat := 0
  line : Nat := 0
  count : Nat := 0
deriving DecidableEq, Repr

/-- A cluster window: where the next token is stored, and how many it holds (R165). -/
structure CWinSt where
  ptr : Nat := 0
  count : Nat := 0
deriving DecidableEq, Repr

/-- What a REGION record declares (R188): tiles, cluster windows, crossbar destinations and contexts. -/
structure RegionDecl where
  tiles : Nat := 0
  cwins : List Nat := []
  xdest : List Nat := []
  ctx : List (Nat × Nat) := []
  drain : Nat := 0
  timeout : Nat := 0
deriving DecidableEq, Repr

/-- A pipe's Trellis. `act` and `shd` are the active and shadow configuration words by their byte offset from 0x30_0000
(R177); `lm` and `ls` the words of the tile line memories (16,384 × t + w) and cluster line stores (2²⁰ × c + w), flags in
[34:32]; `passed` the inputs of each region that have passed EOF since it was staged or restarted; `owner` the region that
a cluster window, crossbar destination and context belong to, in force and staged; `lmReq` whether a read of `TRL_LM_ADDR`
is under way; `flaw` what the check bits of the next line-store word that a cluster window reads show. -/
structure Trl where
  act : Tab Nat := []
  shd : Tab Nat := []
  lm : Tab Nat := []
  ls : Tab Nat := []
  els : Tab ElemSt := []
  roots : List (Root × RootSt) := []
  ports : Tab PortSt := []
  wins : Tab WinSt := []
  cwins : Tab CWinSt := []
  info : Tab RegionDecl := []
  sinfo : Tab RegionDecl := []
  passed : List (Nat × Sink) := []
  lmReq : Bool := false
  flaw : Flaw := .ok
deriving DecidableEq, Repr

/-! ### PXR encoder and decoder (chapter 10) -/

/-- What a virtual channel's record branch holds for the encoder, in order: the start of a frame (frame number, FS
timestamp, SEQ), a line with whether it is damaged and its payload bytes, the end of a frame (FE timestamp), the end of a
frame that is voided, a gap record, a gap record written before whose words a flush has discarded, and the close of the stream. Times are (nanoseconds, seconds). -/
inductive RecItem where
  | fs (fn seq : Nat) (t : Nat × Nat)
  | row (vals : List Nat) (dmg : Bool) (bytes : Nat)
  | fe (t : Nat × Nat)
  | void (t : Nat × Nat)
  | gap (r : GapRec)
  | again (bytes : List Byte)
  | close
deriving DecidableEq, Repr

/-- The encoder of one virtual channel: whether its stream is open and has begun; what waits in the record branch's store;
the frame unit being written with the slice in progress (rows so far latest first, contexts, bits not yet written, bits of
coded data, running CRC, damaged rows, slice offsets, bytes); the error bounds of R352; the take; the gap records that wait for the end of the unit in progress (R337). -/
structure PxrEnc where
  live : Bool := false
  begun : Bool := false
  items : List RecItem := []
  writing : Bool := false
  seq : Nat := 0
  fn : Nat := 0
  fs : Nat × Nat := (0, 0)
  y : Nat := 0
  prev : List (List Nat) := []
  ctx : PxrCtx := {}
  bits : List Bool := []
  used : Nat := 0
  crc : Nat := 0
  dmask : Nat := 0
  offs : List Nat := []
  len : Nat := 0
  dmg : Bool := false
  rep : Bool := false
  coded : Bool := false
  dcur : Nat := 0
  dlast : Nat := 0
  take : Nat := 0
  due : List GapRec := []
deriving DecidableEq, Repr

/-- A job of a PXR decoder channel (R358): the descriptor's geometry, its DCRC, the unit's header fields that its slices are
held against. -/
structure PxrJob where
  geo : PxrGeo := {}
  haloL : Nat := 0
  haloR : Nat := 0
  seq : Nat := 0
deriving DecidableEq, Repr

/-! ### Takes (chapters 10, 12 and 13) -/

/-- A unit of a take stream in a record buffer: its length in bytes, where in pipe DRAM its bytes lie, in order (map address and length of
each part, whole 32-byte words), those of its bytes that found no room there (only of a record), whether it is a frame unit, whether that is VOID, its SEQ, frame
number and FS and FE times. -/
structure TakeUnit where
  size : Nat
  place : List (Nat × Nat) := []
  rest : List Byte := []
  frame : Bool := false
  void : Bool := false
  seq : Nat := 0
  fn : Nat := 0
  fs : Nat × Nat := (0, 0)
  fe : Nat × Nat := (0, 0)
deriving DecidableEq, Repr

/-- A take queue (R427 to R430): the take it is named for or open in (0 for none), the T_start it waits for, the words of
the unit being received and whether one of them is poisoned, the units in the record buffer, the bytes committed to the
stream, the extents that hold them (base LBAs in the take namespace), its directory entry, the last frame committed (SEQ and
FE time), the virtual channel that feeds it, whether its cartridge ran full in the take (R430), whether the next unit has
already been counted as waiting for a range lock, the SEQ at which the stream ends where another stripe or stream sets it (R273, R717), and
the positions before the latest committed frames: SEQ, FE time and bytes. [log entry 53: DEDUCED] -/
structure TakeQ where
  take : Nat := 0
  tstart : Nat := 0
  unit : List CaskWord := []
  recs : List TakeUnit := []
  bytes : Nat := 0
  extents : List Nat := []
  entry : Option Nat := none
  lastSeq : Nat := 0
  lastFe : Nat × Nat := (0, 0)
  vc : Nat := 0
  full : Bool := false
  waited : Bool := false
  limit : Option Nat := none
  past : List (Nat × (Nat × Nat) × Nat) := []
  early : List GapRec := []
deriving DecidableEq, Repr

/-- A take the Hub knows (R428): its number, the queues START named as (pipe, queue), those that have opened, T_start,
whether the START still waits, whether it has ended, and whether a STOP waits for the end; for a board take the followers it spans,
those that have opened it and those that have closed it (R543); whether a leader ordered it (R544); the pipes that tripped during it
with the time of the first frame each did not commit (R52). [log entry 53: DEDUCED] -/
structure TakeRec where
  num : Nat
  qs : List (Nat × Nat)
  opened : List (Nat × Nat) := []
  tstart : Nat := 0
  starting : Bool := true
  ended : Bool := false
  stopping : Bool := false
  devs : List Nat := []
  devOpen : List Nat := []
  devClosed : List Nat := []
  ordered : Bool := false
  lost : List (Nat × (Nat × Nat)) := []
deriving DecidableEq, Repr

/-! ### Lanes (chapter 6) -/

/-- A lane: the good training blocks in a row and the inverted ones (R230), the fields of the latest good one (LID, NLANE, RATE, PORT)
and how many in a row carried them (R231), the block number less SEQ modulo 256 (R232), the TS2 in a row and whether the lane has had 16
of them and a block after them (R233), whether the far end's RDY was set, the validity of the latest sync headers in READY (R236), the
latest 58 bits the descrambler has received, if it has begun, the blocks that wait for those of the other lanes (R225, R250), and in a
test the checker and the generator's register (R245, R247). [log entry 40: DEDUCED] -/
structure LaneSt where
  good : Nat := 0
  inv : Nat := 0
  settled : Bool := false
  ident : Nat × Nat × Nat × Nat := (0, 0, 0, 0)
  same : Nat := 0
  off : Nat := 0
  ts2 : Nat := 0
  done : Bool := false
  rdy : Bool := false
  hdrs : List Bool := []
  scr : Option Nat := none
  blocks : List RxBlock := []
  chk : PrbsChk := {}
  gen : Option Nat := none
deriving DecidableEq, Repr

/-- A role: whether it has been lost and the retry timer was armed, whether that has expired, the counter at the loss, the INT
and T taken then (ms, 10 ms; R238), whether an attempt runs, when the first one started, whether it is ALIGNED and has already
passed an attempt start so; whether the far end of an SLINK has been told so (R227, R233), and when the port of a QLINK began to send
TS2. [log entry 40: DEDUCED] -/
structure Role where
  episode : Bool := false
  down : Bool := false
  t0 : Nat := 0
  int : Nat := 0
  timer : Nat := 0
  attempt : Bool := false
  first : Nat := 0
  aligned : Bool := false
  held : Bool := false
  told : Bool := false
  ts2At : Option Nat := none
deriving DecidableEq, Repr

/-- What a block tells its owner: the role is ALIGNED, READY, lost, its retry timer has expired, or a row of blocks has arrived, those of
the logical lanes in order. -/
inductive RoleNews where
  | aligned | ready | lost | expired
  | row (blocks : List RxBlock)
deriving DecidableEq, Repr

/-- The lanes and roles of a pipe, or of the Hub's Quadrille ports: lanes by lane number, roles by slot, the reference inputs
in fault, and for how many checks in a row each input has been good. -/
structure Lanes where
  lanes : Tab LaneSt := []
  roles : Tab Role := []
  bad : List Nat := []
  good : Tab Nat := []
deriving DecidableEq, Repr

/-! ### PTP (chapter 15) -/

/-- A master the clock has heard of: its source port identity, its data set in the order of comparison, and the counters at its
latest two Announce messages. -/
structure Master where
  src : Nat
  set_ : List Nat
  at1 : Nat
  at0 : Option Nat := none
deriving DecidableEq, Repr

/-- The PTP clock and the servo (R496 to R499). Offsets and the mean path delay are in 2⁻¹⁶ ns, `freq` in 10⁻⁹ × 2⁻⁴⁸; the
masters heard and the selected one; the two-step Sync waiting for its Follow_Up (source, sequence, t2, correction); t2 − t1 less
the correction of the last Sync; the sequence number and t3 of the last Delay_Req; how many Syncs in a row were within
LOCKTH and at or above 1 µs; the currentUtcOffset announced; a refused step, a step for the next copy, in ns; the rate word R for the
next copy; and the master to which the last Delay_Req went unicast. [log entry 56: DEDUCED] -/
structure Ptp where
  masters : List Master := []
  sel : Option Nat := none
  waiting : Option (Nat × Nat × Nat × Int) := none
  sync : Option Int := none
  dseq : Nat := 0
  t3 : Option Nat := none
  mpd : Int := 0
  freq : Int := 0
  good : Nat := 0
  wild : Nat := 0
  utc : Option Nat := none
  pending : Option Int := none
  apply : Option Int := none
  announced : Bool := false
  rate : Int := 0
  ucast : Option Nat := none
deriving DecidableEq, Repr

/-- An Ethernet port: the transmit timestamps queued as (TS32, fraction, ID), whether one was dropped since the queue was last
empty, the words of the host transmit item read so far, and the host frame last sent, with its FCS. -/
structure EthPort where
  txts : List (Nat × Nat × Nat) := []
  lost : Bool := false
  item : List CaskWord := []
  sent : List Byte := []
deriving DecidableEq, Repr

/-! ### Block coding (chapter 11) -/

/-- The settings that host writes change at frame boundaries (R381): SCALE and the words of the eight regions. -/
structure BlkSet where
  scale : Nat := 0x100
  roi : List (Nat × Nat) := []
deriving DecidableEq, Repr

/-- A selected frame in a frame store: SEQ, PTS in ns, whether a KEY or REFRESH request applies to it, whether its input was
poisoned, whether it is the first one under a new configuration of a tiled stream (R382). -/
structure BlkFrame where
  seq : Nat
  pts : Nat
  key : Bool := false
  refresh : Bool := false
  psn : Bool := false
  fresh : Bool := false
deriving DecidableEq, Repr

/-- A message of the rate coordinator for a frame (R388): frame, budget, cap, base QP (none for frames 0 and 1), share in 2⁻³², the
flags. -/
structure RcMsg where
  seq : Nat
  budget : Int
  cap : Int
  qc : Option Nat
  share : Nat
  key : Bool := false
  refresh : Bool := false
deriving DecidableEq, Repr

/-- The frame a context is coding: the frame, its key flag, whether it is a B frame, its cap in bits, the LOCAL and REFRESH flags, and of
a tile the base QP the coordinator has set (R388). -/
structure BlkJob where
  frame : BlkFrame
  key : Bool
  bframe : Bool
  cap : Int
  budget : Int
  loc : Bool := false
  refresh : Bool := false
  qc : Option Nat := none
deriving DecidableEq, Repr

/-- A stream of a context: its T_start in ns, its frame store, the requests that wait for the next selected frame, the settings in
force and pending ones (with AT and ASEQ), the rate model (d and E in bits / (2048 × NUM); S; whether it has started), whether the
next frame is forced to be a key frame, the coordinator's messages and the last one used, and the job. A tiled stream whose context has switched goes on under the words of its old
configuration, `old`, up to its first frame under the new one; with `marked` that frame has been selected (R382). -/
structure BlkStream where
  tstart : Option Nat := none
  store : List BlkFrame := []
  keyReq : Bool := false
  refReq : Bool := false
  cur : BlkSet := {}
  pend : Option (Bool × Nat × BlkSet) := none
  begun : Bool := false
  s : Int := 0
  dd : Int := 0
  e : Int := 0
  restart : Bool := false
  msgs : List RcMsg := []
  last : Option RcMsg := none
  job : Option BlkJob := none
  old : List (RegId × Nat) := []
  marked : Bool := false
deriving DecidableEq, Repr

/-- A channel of the block decoder (R394 to R397): whether it holds parameter sets, the latest output picture by plane and row,
the start of the job, whether the unit in progress is a key unit, and the format of the session. -/
structure BlkDec where
  heads : Bool := false
  last : List (List (List Nat)) := []
  began : Nat := 0
  key : Bool := false
  fmt : Nat := 0
deriving DecidableEq, Repr

/-- A frame whose assembly is open (R386): its SEQ, the counter at its first unit, the units by pipe. -/
structure AsmFrame where
  seq : Nat
  t0 : Nat
  units : List (Nat × TileUnit) := []
deriving DecidableEq, Repr

/-- An assembly group (R384 to R391): its T_start in ns, the frames open, the SEQs already closed (latest first), the rate model in bits / (2048 ×
NUM), the shares by pipe in 2⁻³², the cap of the frame after the last one closed, the KEY request and the pipes whose tile is to
be a REFRESH, and the messages on their way to the pipes. -/
structure AsmGroup where
  tstart : Option Nat := none
  frames : List AsmFrame := []
  closed : List Nat := []
  begun : Bool := false
  s : Int := 0
  dd : Int := 0
  e : Int := 0
  caps : Tab Int := []
  share : Tab Nat := []
  key : Bool := false
  refresh : List Nat := []
  msgs : List (Nat × RcMsg) := []
deriving DecidableEq, Repr

/-! ### Live outputs (chapter 15) -/

/-- A frame in a live output's buffer: its slot, its size in bytes, the buffer slot it is stored in, and its presentation time in ns
(R506, R507). -/
structure LiveFrame where
  slot : Nat
  size : Nat
  at_ : Nat
  pts : Nat := 0
deriving DecidableEq, Repr

/-- A raster of an SDI output (R513 to R515): the slot of the frame it shows, its lines, the four bytes of its ST 352 payload identifier,
and the word of the timecode label it carries. -/
structure SdiRaster where
  shows : Option Nat := none
  lines : Nat := 2250
  vpid : List Nat := []
  atc : Option Nat := none
deriving DecidableEq, Repr

/-- A live output (R505 to R514): the words of the input frame read so far and the time of the frame start that goes with it; the frames in its buffer in the order they came; the frame being sent, or last shown, with the
packets it makes and the next one; the slot last taken; the slots already counted as skipped whose frame was still under way;
the next packet's sequence number (extended to 32 bits); how many frames have begun to be sent; the packet last launched; and the raster
running on SDI. [log entry 9: DESIGN CHOICE] -/
structure LiveOut where
  item : List CaskWord := []
  fs : Nat := 0
  frames : List LiveFrame := []
  cur : Option (LiveFrame × Nat × Nat) := none
  last : Option Nat := none
  missed : List Nat := []
  seq : Nat := 0
  count : Nat := 0
  pkt : List Byte := []
  raster : SdiRaster := {}
deriving DecidableEq, Repr

/-! ### Cellar (chapters 12 and 13) -/

/-- An entry of a range-lock table (R408): the namespace's place on the slice, the range, whether it writes, and the tenant
command that holds it; an append of a Cellar stream holds one as command `cid` of queue 0, the number of its piece. Entries stand in
admission order. -/
structure LockEnt where
  ns : Nat
  lba : Nat
  n : Nat
  wr : Bool
  q : Nat
  cid : Nat
deriving DecidableEq, Repr

/-- A piece in a slice's write buffer (R412 to R414): its number, the namespace's place, the LBAs, their bytes (none for zeroes and
deallocation), the command that waits for it, whether a tenant wrote it, and whether its data is there: pieces stand in the order in which
their entries were granted (R413). -/
structure Piece where
  id : Nat
  ns : Nat
  lba : Nat
  n : Nat
  data : Option (List Byte)
  owner : Option (Nat × Nat) := none
  tenant : Bool := true
  ready : Bool := true
deriving DecidableEq, Repr

/-- A namespace on a cartridge (R442, R456): size in LBAs, attached, its 512-bit key as the number its 64 bytes are, least significant first,
the SES value plus 1 of a format in progress, its data in the clear by byte address. -/
structure NsEnt where
  size : Nat := 0
  attached : Bool := false
  key : Nat := 0
  fmt : Nat := 0
  data : Mem := []
deriving DecidableEq, Repr

/-- A cartridge: the copy of the identity block written last, the targets per channel, the journal position of the last checkpoint; what its identity block, journal, namespaces and take directory hold; of an OPEN entry of the directory the journal holds
the last committed SEQ, its FE time and the stream's committed bytes, by entry (R452). -/
structure Cart where
  copy : Nat := 0
  ntgt : Nat := 0
  ckpt : Nat := 0
  serial : Nat := 0
  mgen : Nat := 0
  ucap : Nat := 0
  clean : Bool := false
  sanitize : Bool := false
  kekid : List Byte := []
  jseq : Nat := 0
  nss : Tab NsEnt := []
  dir : Tab DirEnt := []
  units : Tab (Nat × (Nat × Nat) × Nat) := []
deriving DecidableEq, Repr

/-- A Cellar stream slot (R431): its generation, whether it is open, its range, how many bytes have been appended, the bytes of
the unit being gathered, its rank, its directory entry. -/
structure Strm where
  gen : Nat := 0
  open_ : Bool := false
  ns : Nat := 0
  slba : Nat := 0
  nlb : Nat := 0
  pos : Nat := 0
  part : List Byte := []
  rank5 : Bool := false
  entry : Option Nat := none
deriving DecidableEq, Repr

/-- A Cellar slice: its cartridge; whether CRTn_DET_N is low and CRTn_PWR_EN high; whether a re-seat is being decided, whether
it ended as NEWCART and the mount goes on, and whether the cartridge seated was ejected; the counter at the removal; whether the parameter pages have been read, and the targets per channel they show; the identity found; the range
locks, and whether CEL_LOCK_FULL's episode lasts; the write buffer; the streams; the journal bytes since the last checkpoint; and the
regions still to be rebuilt. -/
structure Slice where
  cart : Cart := {}
  det : Bool := false
  pwr : Bool := false
  reseat : Bool := false
  newcart : Bool := false
  ejected : Bool := false
  t0 : Nat := 0
  inited : Bool := false
  ntgt : Nat := 0
  found : Option CartImage := none
  locks : List LockEnt := []
  full : Bool := false
  pieces : List Piece := []
  strms : Tab Strm := []
  jbytes : Nat := 0
  rebuild : List (Nat × Nat) := []
deriving DecidableEq, Repr

/-- An NVMe queue: base address and size in entries, head and tail, the completion queue's phase, vector and interrupt enable,
the submission queue's entries that an Abort has caught before they were fetched. -/
structure NvmeQ where
  base : Nat := 0
  size : Nat := 0
  head : Nat := 0
  tail : Nat := 0
  phase : Bool := true
  ien : Bool := true
  gone : List Nat := []
deriving DecidableEq, Repr

/-- A command the Hub has fetched: its queue and identifier, its 16 dwords, how far it is (0 fetched, 1 admitted, 2 started and
waiting for the host's data, 3 its data in the write buffer or its work under way), the slices and places it acts on, the pieces
not yet committed, and for a Flush the piece number it was admitted at. -/
structure NvmeCmd where
  q : Nat
  cid : Nat
  dw : List Nat
  stage : Nat := 0
  left : Nat := 0
  mark : Nat := 0
deriving DecidableEq, Repr

/-- The NVMe controller (R399 to R420, R433, R434): enabled, with `CC.EN` cleared and commands still to end (R420), and ready; the page size; the submission and completion queues; the
commands; the features set; the outstanding Asynchronous Event Requests; the deletions that wait; completions that wait for room; the
power state, the last operational one, the transition (0 none, 1 entry, 2 exit), its target, and whether an exit follows the entry;
the formats running as (cid, namespaces, SES); the sanitise running on each slice, and whether the last one is complete; the piece
counter; the bytes moved in the share window by queue and slice (R423); the firmware staging area. -/
structure Nvme where
  en : Bool := false
  closing : Bool := false
  rdy : Bool := false
  cfs : Bool := false
  mps : Nat := 0
  sqs : Tab NvmeQ := []
  cqs : Tab NvmeQ := []
  cmds : List NvmeCmd := []
  feats : Tab Nat := []
  aers : List Nat := []
  dels : List (Nat × Nat) := []
  held : List (Nat × List Nat) := []
  ps : Nat := 0
  psOp : Nat := 0
  trans : Nat := 0
  target : Nat := 0
  wake : Bool := false
  fmts : List (Nat × List Nat × Nat) := []
  san : Tab Nat := []
  sanDone : Bool := false
  pid : Nat := 0
  moved : Tab Nat := []
  fw : Mem := []
deriving DecidableEq, Repr

/-- What waits for a completion of a host-memory read (R403, R128): the data of an NVMe command; a racking channel's descriptor or
data; a Press ring's job. -/
inductive HostUser where
  | nvme (q cid : Nat) | rackDesc (u c : Nat) | rackData (u c : Nat) | press (u r : Nat)
deriving DecidableEq, Repr

/-! ### Security unit (chapter 24) -/

/-- A slot of the key store: its digest or key, the class and USE of a verification slot (the class of a secret slot), whether it is
revoked or locked. -/
structure KeySlot where
  bytes : List Byte
  cls : Nat := 0
  use : Nat := 0
  revoked : Bool := false
  lock : Bool := false
deriving DecidableEq, Repr

/-- The security unit beside its registers: the working copies of the secret slots' keys; the key store itself (fuses and key memory);
the pending transition with its target; the fuses burned of the anti-rollback counter; the SVN of the running image and the slot that
signed it; the requests the DRBG has served since it was seeded. -/
structure Secu where
  keys : Tab (List Byte) := []
  slots : Tab KeySlot := []
  lc : Option Nat := none
  svn : Nat := 0
  imgSvn : Nat := 0
  imgSlot : Option Nat := none
  requests : Nat := 0
deriving DecidableEq, Repr

/-! ### Cuvée loader (chapter 5) -/

/-- A section of a container (R180): its index, its pipe, whether it is whole, BASE, GEN, REGMASK, and where its records lie. -/
structure CuvSect where
  idx : Nat
  pipe : Nat
  whole : Bool
  base : Nat
  gen : Nat
  mask : Nat
  off : Nat
  len : Nat
deriving DecidableEq, Repr

/-- A CV register word staged by a REG record (R191), and the context it belongs to. -/
structure CuvWrite where
  loc : RegLoc
  v : Nat
  cls : Nat
  idx : Nat
deriving DecidableEq, Repr

/-- An error of the loader (R217): CODE, DETAIL (none where the spec names no value for the case), section and word. -/
structure CuvErr where
  code : Nat
  det : Option Nat := some 0
  sect : Nat := 0
  word : Nat := 0
deriving DecidableEq, Repr

/-- How far the commit of a whole section is: its pipe has not been reset yet, or is LOADING. -/
inductive CuvWhole where
  | closing | loading
deriving DecidableEq, Repr

/-- The cuvée loader: the sections of the job; per pipe the register words it stages, the new repair map of each cluster (4p + c;
the slot remapped), the regions, contexts and casks that have not switched (contexts as (class, index)), whether REC is staged
and whether it has not switched; how far each whole section is; the first pipe and section that stopped in SWITCH; the Veraison
units held and the tables staged for each pipe as (unit, table, words); the shadow storage and declarations each pipe had before
staging; the pipes that were reset while pass 1 ran; and whether the payload is compressed, so that core 0 of the Hub's Press engine
inflates it in pass 2 (R185, R517). -/
structure Cuvl where
  sects : List CuvSect := []
  writes : Tab (List CuvWrite) := []
  maps : Tab (Option Nat) := []
  regs : List (Nat × Nat) := []
  ctxs : List (Nat × Nat × Nat) := []
  casks : List (Nat × Nat) := []
  recs : List Nat := []
  recPend : List Nat := []
  wholes : Tab CuvWhole := []
  stopped : Option (Nat × Nat) := none
  held : List (Nat × Nat) := []
  kept : Tab (Tab Nat × Tab RegionDecl) := []
  tabs : Tab (List (Nat × Nat × List Nat)) := []
  hit : List Nat := []
  packed : Bool := false
deriving DecidableEq, Repr

/-- A message of the Hub to a pipe that carries a stripe of a take: the pipe, the take, the tripped pipe, the time of the first frame
that it did not commit (R52). -/
structure StripeMsg where
  dst : Nat
  take : Nat
  pipe : Nat
  time : Nat × Nat
deriving DecidableEq, Repr

/-! ### Thermal unit (chapter 22) -/

/-- The thermal unit: the sensors, by their device-wide numbers (R630), whose last conversion was at or above PAVANE, and at or above
TRIP; a running Pavane's KIND, its sensor and temperature and the PTP seconds of its trigger, the slices that have not finished step 5
in time; and the thresholds (WARN, THROTTLE, PAVANE, HYST) a pipe took at its last time copy. -/
structure Therm where
  hot : List Nat := []
  trip : List Nat := []
  kind : Option Nat := none
  sens : Nat := 0
  temp : Nat := 0
  sec : Nat := 0
  late : Nat := 0
  copies : Tab (Nat × Nat × Nat × Nat) := []
deriving DecidableEq, Repr

/-! ### Boot, reset and standby (chapters 23 and 25) -/

/-- A device that holds itself in reset: after a supply loss, PAVOFF_N, TRIP or standby entry. -/
inductive Held where
  | supply | pavoff | trip | standby
deriving DecidableEq, Repr

/-- The image that an activation keeps (R652): the slot of the running image, its SVN, the key slot that signed it, its VERSION. -/
structure KeptImage where
  image : Nat
  svn : Nat
  slot : Option Nat
  version : List Byte
deriving DecidableEq, Repr

/-- Boot, reset and standby. `held` says why the device holds itself in reset, `ready` that a cold reset has been done since and SUP_PG
may release it. PAVOFF_N is low with `pavoff`, AON_SUPEN is low with `supLow`. `released`: reset has been released; `good`: the
attempt is good or the device is in Fallow mode; `hold`: the thermal hold of R639 lasts; `ls`: the boot tests the lockstep
controller (R671). `want` is the warm reset that waits under R46, as its cause and the Fallow reason of its boot; `reason` is that of the
boot that follows. `fails` and `next` are the failures in a row and the image of a retry (R646, R647), `cut` that a supply was lost
before BOOT_OK. `nrst` is the pin being timed and whether the press has reached 20 ms; `mask` that the pin is masked. `stby` is the
mode of a standby entry in progress, `mode` the standby state the device lies in; `wakes` the wake mask latched, `edges` the wake
edges latched, `secHi` the seconds that Keep holds beside `HUB_AON_SEC` (R662). -/
structure Boot where
  held : Option Held := none
  ready : Bool := false
  pavoff : Bool := false
  supLow : Bool := false
  released : Bool := false
  good : Bool := false
  hold : Bool := false
  ls : Bool := false
  want : Option (Nat × Option Nat) := none
  reason : Option Nat := none
  fails : Nat := 0
  next : Option Nat := none
  version : List Byte := []
  pfail : Bool := false
  nrst : Option Bool := none
  mask : Bool := false
  stby : Option Nat := none
  mode : Nat := 0
  wakes : Nat := 0
  edges : Nat := 0
  secHi : Nat := 0
  kept : Option KeptImage := none
deriving DecidableEq, Repr

/-! ### Racking (chapter 3) -/

/-- A descriptor being carried out: its slot, words 0 to 5, the bytes moved, whether a poisoned word was among them, and in item mode with
a cask destination the newest word, kept back until it is known whether it is the last one (R126). -/
structure RackJob where
  slot : Nat
  ws : List Nat
  moved : Nat := 0
  psn : Bool := false
  hold : Option CaskWord := none
deriving DecidableEq, Repr

/-- A racking channel: the slot of the next descriptor, whether a descriptor is being fetched from host memory, the one being
carried out, whether its read of host memory is under way, those ended with their status that wait for write-back, and whether an
abort waits for them. -/
structure RackCh where
  next : Nat := 0
  fetching : Bool := false
  job : Option RackJob := none
  reading : Bool := false
  done : List (RackJob × Nat) := []
  abort : Bool := false
deriving DecidableEq, Repr

/-- The racking engine of a pipe or of the Hub: its channels; by rank the channel served last, counted from 1 (R117); and the host
addresses of the words it has sent with the EP bit set, oldest first (R125). -/
structure Rack where
  chs : Tab RackCh := []
  last : Tab Nat := []
  ep : List Nat := []
deriving DecidableEq, Repr

/-! ### Press (chapter 16) -/

/-- A Press job: its slot, words 0 to 7, and the status it is already bound to end with. -/
structure PressJob where
  slot : Nat
  ws : List Nat
  status : Option Nat := none
deriving DecidableEq, Repr

/-- A Press engine: the next slot of each ring; the ring whose descriptor is being fetched; the ring the core serves with its
job; and the ring served last. -/
structure Press where
  next : Tab Nat := []
  fetching : Option Nat := none
  job : Option (Nat × PressJob) := none
  last : Nat := 3
deriving DecidableEq, Repr

/-! ### Quadrille -/

/-- What a leader has forwarded to a follower and the link has not delivered yet (R538): a posted write or a read, by its byte
offset in the slot. -/
inductive QItem where
  | write (off w : Nat)
  | read (off : Nat)
  | readLow (off : Nat)
  | readHigh (off low : Nat)
deriving DecidableEq, Repr

/-- A frame of a board take as the leader sees it (R546): device, virtual channel, frame number, FS in 2⁻⁸ ns. -/
structure BoardFrame where
  dev : Nat
  vc : Nat
  fn : Nat
  fs : Nat
deriving DecidableEq, Repr

/-- Quadrille: what each port forwards, the peer events that wait at a follower's port, the counter at the last time message, the
takes whose end a follower still has to report, the takes open in each follower as its events tell, the last frames of a board
take, the last frame reported skewed, and the answer to a follower's last host access. [log entry 9: DESIGN CHOICE; log entry 60: DEDUCED] -/
structure Qdl where
  fwd : Tab (List QItem) := []
  msgs : Tab (List Nat) := []
  lastMsg : Nat := 0
  ends : List Nat := []
  openTakes : Tab Nat := []
  frames : List BoardFrame := []
  skewed : Option (Nat × Nat) := none
  reply : Option (List Byte) := none
deriving DecidableEq, Repr

/-! ### Pictures and panels -/

/-- A line of a stripe picture: its tokens, which of them are poisoned, and whether EOF follows (R570). -/
structure PicLine where
  toks : List Nat
  psn : List Bool := []
  eof : Bool := false
deriving DecidableEq, Repr

/-- A picture group: the line being joined, the counter at its start, the lines that wait by pipe, the pipes whose frame has ended,
those whose tokens are discarded up to their EOF, and whether a fill has been reported in the frame. -/
structure Pasm where
  line : Nat := 0
  t0 : Option Nat := none
  q : Tab (List PicLine) := []
  ended : List Nat := []
  drop : List Nat := []
  filled : Bool := false
deriving DecidableEq, Repr

/-- A pending update of a region: the region, the buffer, CHG, and whether it counts as the picture group's (R581). -/
structure PanelUpd where
  rgn : Nat
  buf : Nat
  chg : Bool := false
  group : Bool := false
deriving DecidableEq, Repr

/-- A running transfer: its update, the packets sent, the rows of the slice band fetched so far, the running CRCs over the payload and
over the pixels, whether a poisoned word was sent as black, whether it is urgent or has been. -/
structure PanelRun where
  upd : PanelUpd
  sent : Nat := 0
  rows : List (List (Nat × Nat × Nat)) := []
  crc : Nat
  sig : Nat
  black : Bool := false
  urgent : Bool := false
  warned : Bool := false
deriving DecidableEq, Repr

/-- The signature of a region: the last one, the counted transfers that left it unchanged, whether PANEL_FREEZE was raised. -/
structure PanelSig where
  sig : Option Nat := none
  same : Nat := 0
  told : Bool := false
deriving DecidableEq, Repr

/-- What a panel output sends on its link (R576): LP-11 for 1 ms, the initial deskew sequence, or a DSI packet of a data type. -/
inductive PanelItem where
  | lp11
  | deskew
  | packet (dt : Nat) (bytes : List Byte)
deriving DecidableEq, Repr

/-- A panel output: the updates that wait, the running transfer, the buffer of surface 1 being written with whether a token was
poisoned or lost, a joined frame whose EOF is due, the latest whole buffer, the signatures by region, and what the output last sent on
its link. [log entry 9: DESIGN CHOICE] -/
structure Panel where
  queue : List PanelUpd := []
  job : Option PanelRun := none
  fill : Option (Nat × Bool) := none
  due : Option (Nat × Bool) := none
  latest : Option Nat := none
  sigs : Tab PanelSig := []
  link : List PanelItem := []
deriving DecidableEq, Repr

/-! ### Audio -/

/-- A path of an audio port: the item being formed (its first frame, its frames, whether one was zeroed, whether the count jumped
before it), the frame its run started or starts at, the bytes written by the host since then, whether the last frame was an
underrun, the run-out frames left, the frames in its elastic store (R593), the media frames read ahead of the pins for an ASRC (R592), and
the samples of the frame now due at the pins. [log entry 9: DESIGN CHOICE] -/
structure AudPath where
  first : Nat := 0
  frames : List (List Nat) := []
  silent : Bool := false
  disc : Bool := false
  start : Nat := 0
  written : Nat := 0
  under : Bool := false
  outLeft : Nat := 0
  fill : Nat := 8
  ahead : List (List Nat) := []
  out : List Nat := []
deriving DecidableEq, Repr

/-- What a port drives for a frame (R589): in master mode BCLK's rate in Hz and the level of FS at each bit; whether bits change at BCLK's
falling edge; and the bits of SDO, from the first bit of slot 0. Nothing is driven while `sdo` is empty: the lines are low. -/
structure AudWire where
  bclk : Nat := 0
  fall : Bool := true
  fs : List Bool := []
  sdo : List Bool := []
deriving DecidableEq, Repr

/-- A trigger that waits for its frame: OP, the paths, N and L (R599). -/
structure AudTrig where
  op : Nat
  paths : Nat
  n : Nat
  l : Nat
deriving DecidableEq, Repr

/-- The item that a stream forms (R600). -/
structure AudStream where
  first : Nat := 0
  frames : List (List Nat) := []
  silent : Bool := false
  disc : Bool := false
deriving DecidableEq, Repr

/-- The audio unit: paths by 2k + d, the pending triggers, the streams, what each port drives. -/
structure Aud where
  paths : Tab AudPath := []
  trigs : List AudTrig := []
  streams : Tab AudStream := []
  wires : Tab AudWire := []
deriving DecidableEq, Repr

/-! ### Sensing and controls -/

/-- An ADC converter: its FIFO, whether a scan's delay or the scan itself runs, the list entry being converted, and what was fixed as it
started (R607, R608): its channel, range and open-wire check, whether it serves the calibration, and whether its channel's settings have
been written since. -/
structure Adc where
  fifo : List Nat := []
  delay : Bool := false
  entry : Option Nat := none
  ch : Nat := 0
  rng : Nat := 0
  owd : Bool := false
  auto_ : Bool := false
  dncnt : Nat := 0
  cal : Bool := false
  wrote : Bool := false
deriving DecidableEq, Repr

/-- An ADC channel: the range auto-range has chosen, the narrowing count, SEQ, and the flags of its last result. -/
structure AdcCh where
  rng : Option Nat := none
  down : Nat := 0
  seq : Nat := 0
  clipped : Bool := false
  open_ : Bool := false
deriving DecidableEq, Repr

/-- A calibration that runs: the sum of the raw codes, how many, and the flags seen. -/
structure AdcCal where
  sum : Int := 0
  n : Nat := 0
  open_ : Bool := false
  clipped : Bool := false
deriving DecidableEq, Repr

/-- A PWM channel: the values in force, whether it is in its active time, and the level of its pin while it drives it. -/
structure Pwm where
  per : Nat := 4000
  duty : Nat := 0
  active : Bool := false
  pin : Option Bool := none
deriving DecidableEq, Repr

/-- A key being debounced: the samples that have shown the new level, and TS32 of the first. -/
structure KeySt where
  n : Nat := 0
  ts : Nat := 0
deriving DecidableEq, Repr

/-- A touch channel: the measurements in a row that speak for a change. -/
structure TouchSt where
  n : Nat := 0
deriving DecidableEq, Repr

/-- The SENSE and OPIO blocks: converters, channels, the calibration, PWM channels, the outputs held from INRUSH, the keys, the key
FIFO as (word, TS32), the encoders' positions at their last event and the levels of their inputs A and B, the touch channels. -/
structure Sense where
  adcs : Tab Adc := []
  chans : Tab AdcCh := []
  cal : Option AdcCal := none
  pwms : Tab Pwm := []
  heldIn : List Nat := []
  keys : Tab KeySt := []
  keyFifo : List (Nat × Nat) := []
  encBase : Tab Nat := []
  encIn : Tab (Bool × Bool) := []
  touch : Tab TouchSt := []
deriving DecidableEq, Repr

/-! ### Sensor front end (chapter 7) -/

/-- A gap of a stream while the sensor is absent (R272): its start, its end once known, and the frame it accounts for. -/
structure AbsGap where
  start : Nat × Nat
  fin : Option (Nat × Nat) := none
  seq : Nat := 0
  nseq : Nat := 0
  fn : Nat := 0
deriving DecidableEq, Repr

/-- A virtual channel at the front end: the open frame (number, FS time, SEQ, lines delivered, lines discarded for their WC, whether a
damaged line was reported, whether it feeds and was dropped from each branch, whether it is counted for a gap of R88); the FS time of the
frame before in 2⁻⁸ ns and how many frames there have been; the latest frames' numbers and FS times, the latest first (R270); the
SENSOR_ABSENT gaps that wait for a frame that is kept, with what the record branch holds behind them (R272), and the DAMAGED records that
wait; the payload bytes of each word that waits in the Trellis branch's store, the oldest first (R259). -/
structure SfeVc where
  open_ : Bool := false
  fn : Nat := 0
  fs : Nat × Nat := (0, 0)
  seq : Nat := 0
  lines : Nat := 0
  holes : Nat := 0
  damaged : Bool := false
  feeding : Bool := false
  recDrop : Bool := false
  counted : Bool := false
  trOn : Bool := false
  trDrop : Bool := false
  fsNow : Nat := 0
  fsPrev : Nat := 0
  fsC : Nat := 0
  seen : Nat := 0
  hist : List (Nat × Nat) := []
  gaps : List AbsGap := []
  behind : List RecItem := []
  stalled : List RecItem := []
  bytes : List Nat := []
deriving DecidableEq, Repr

/-- A long packet that is being received (R251, R253): DI, WC and VCX, whether its header could not be read, the data rows so far, their
bytes, and whether a row mixed data and control blocks. -/
structure LinkPkt where
  hdr : Nat := 0
  lost : Bool := false
  rows : Nat := 0
  data : List Byte := []
  mixed : Bool := false
deriving DecidableEq, Repr

/-- The front end of a pipe: its virtual channels; the long packet under way; the identity last read and the baseline, as (SERIAL, INSERT,
MODE); the counter at which the sensor role left READY, whether an outcome is still to be decided, and whether the retry timer expired with
no take open (R271); whether DPHY data flows (R262); whether an identity read waits for the host's command or is under way, and whether it
found the same module; the dynamic address the module was given (R263); whether a host command waits for its trigger; the PRBS request the
sensor module was last sent (R264). -/
structure Sfe where
  vcs : Tab SfeVc := []
  link : Option LinkPkt := none
  ident : Option (Nat × Nat × Nat) := none
  base : Option (Nat × Nat × Nat) := none
  lossC : Nat := 0
  deciding : Bool := false
  expired : Bool := false
  dphyOk : Bool := false
  await : Bool := false
  reading : Bool := false
  same : Bool := false
  dyn : Option Nat := none
  trig : Bool := false
  prbs : Nat := 0
deriving DecidableEq, Repr

/-! ### Veraison units (chapter 8) -/

/-- One bank of a table: whether it still holds its reset contents, otherwise its words; the write pointer; whether it is
bad (R293 to R297). -/
structure VrsTab where
  fresh : Bool := true
  words : Tab Nat := []
  ptr : Nat := 0
  bad : Bool := false
deriving DecidableEq, Repr

/-- A Veraison unit: its tables at key 2·t + bank; whether VRS_LATE was raised since the last ARM; the table an upload item
has selected and whether an item is under way; the pairs of the line that may still be cropped and how many pairs the line
has had; whether the unit stands at a seam; what has been raised in the frame; whether a table read is under way; and the
inactive bank as it stood before a job's staging (R304, R305). -/
structure VrsUnit where
  tabs : Tab VrsTab := []
  lateSeen : Bool := false
  sel : Option Nat := none
  inItem : Bool := false
  hold : List (Token × Token) := []
  pairs : Nat := 0
  moved : Bool := false
  misSeen : Bool := false
  psnSeen : Bool := false
  reading : Bool := false
  saved : Option (Tab VrsTab) := none
deriving DecidableEq, Repr

/-! ### Statistics (chapter 9) -/

/-- A result bank: grid and histogram shapes (ZX, ZY, and (SRC, BINSH) per histogram), zone sums and counts at key
4·(ZX·j + i) + k, histogram bins at 256·h + b, and what the window's header shows (R319). -/
structure StatBank where
  zx : Nat := 0
  zy : Nat := 0
  hists : List (Nat × Nat) := []
  zones : Tab (Nat × Nat) := []
  bins : Tab Nat := []
  poison : Nat := 0
  flushed : Bool := false
  short : Bool := false
  gen : Nat := 0
  seq : Nat := 0
  time : Nat × Nat := (0, 0)
  lines : Nat := 0
deriving DecidableEq, Repr

/-- A statistics context: the FILL bank, whether its frame has begun, the input column and line, the first token of a pixel
(RGB mode), the lines counted with PACK set; the LATEST and HELD banks; frames closed; and a result on its way to the Hub. -/
structure StatCtx where
  fill : StatBank := {}
  begun : Bool := false
  x : Nat := 0
  y : Nat := 0
  half : Option Token := none
  plines : Nat := 0
  latest : Option StatBank := none
  held : Option StatBank := none
  seq : Nat := 0
  sent : Option StatBank := none
deriving DecidableEq, Repr

/-- A merge of the Hub (R320): when it opened and the contributions by pipe; and the group's merge SEQ. -/
structure Merge where
  open_ : Bool := false
  t0 : Nat := 0
  parts : List (Nat × StatBank) := []
  seq : Nat := 0
deriving DecidableEq, Repr

end Sys2Proof.Machine
end

