-- ==== Sys2Proof/WellFormed.lean ====
section
/-!
DEFINITION. Which commands exist: a command names casks, channels, rings, lanes, roles and sensors its unit has, and a monitor's
fractions of one window. No other command can reach the block; the machine stops at one.
-/
namespace Sys2Proof

/-- How many casks a unit has: 128 in a pipe, 64 in the Hub (R93). -/
def caskCount (u : Nat) : Nat := if u = 4 then 64 else 128

/-- The racking channels of a unit: 16 in a pipe, 8 in the Hub (R116). -/
def rackChannels (u : Nat) : Nat := if u = 4 then 8 else 16

/-- The Press rings of a unit: four in a pipe, three in the Hub (R527). -/
def pressRings (u : Nat) : Nat := if u = 4 then 3 else 4

/-- How many lanes unit `u` has: 12 in a pipe, 6 at the Hub (R218, R223). -/
def laneCount (u : Nat) : Nat := if u = 4 then 6 else 12

/-- How many role slots unit `u` has: the sensor link and six flex slots in a pipe, three Quadrille ports at the Hub. -/
def roleCount (u : Nat) : Nat := if u = 4 then 3 else 7

/-- The temperature sensors of a unit: six in a pipe, four in the Hub (R630). -/
def sensorCount (u : Nat) : Nat := if u < 4 then 6 else 4

/-- Whether the command names only what the device has. [log entry 10: DESIGN CHOICE; log entry 33: DEDUCED] -/
def Instr.wf : Instr → Bool
  | .registerWrite _ _ => true
  | .pairLowRead _ => true
  | .pairHighRead _ => true
  | .pairLowWrite _ _ => true
  | .pairHighWrite _ _ => true
  | .misalignedAccess _ _ _ => true
  | .bar2OversizeRequest _ => true
  | .coldReset _ _ => true
  | .warmResetStart => true
  | .functionLevelReset => true
  | .flrEnd => true
  | .pcieLinkDown _ => true
  | .hubLoss => true
  | .hubWatchdogExpiry => true
  | .timeCopyStrobe => true
  | .autonomousRunEntry _ => true
  | .arunLimitExpiry _ => true
  | .takeCloseCommitted _ => true
  | .yieldRestore _ _ _ => true
  | .pipeGateTrip _ => true
  | .stripeLostTimeMessage _ => true
  | .trippedPipeRejoin _ => true
  | .paceSensorReading _ _ _ => true
  | .paceWindowEnd _ => true
  | .govWindowEnd => true
  | .govModeWrite _ _ => true
  | .pmbusTransactionDone _ => true
  | .pmbusRetryStart => true
  | .pmbusBusTimeout => true
  | .govSettleEnd => true
  | .pmbAlert => true
  | .recStall _ _ _ => true
  | .recFlush _ => true
  | .recRestart _ => true
  | .pctlPwrup _ => true
  | .pctlPrst _ => true
  | .pipeReset _ => true
  | .caskWrite u k _ _ => decide (k.val < caskCount u)
  | .caskRead u k _ _ => decide (k.val < caskCount u)
  | .caskCreditReturn u k => decide (k.val < caskCount u)
  | .caskTailTimeout u k => decide (k.val < caskCount u)
  | .caskFlush u k => decide (k.val < caskCount u)
  | .caskSwitch u k => decide (k.val < caskCount u)
  | .rackTailWrite u c _ => decide (c.val < rackChannels u)
  | .rackDescStart u c => decide (c.val < rackChannels u)
  | .rackBurstGrant _ _ => true
  | .rackDescWriteback u c => decide (c.val < rackChannels u)
  | .rackAbort u c => decide (c.val < rackChannels u)
  | .rackResume u c => decide (c.val < rackChannels u)
  | .rackChDisable u c => decide (c.val < rackChannels u)
  | .microopStart _ _ _ => true
  | .microopComplete _ _ _ => true
  | .regionDrain _ _ => true
  | .regionSwitch _ _ => true
  | .regionTimeout _ _ => true
  | .regionRestartExit _ _ => true
  | .regionFault _ _ _ _ => true
  | .trlLmRead _ _ => true
  | .trlLmReadDone _ _ => true
  | .trlMonWindowEnd _ busy starve block => decide (busy + starve + block ≤ 256)
  | .rprFailMark _ _ _ => true
  | .rprClr _ _ _ => true
  | .cuvlStage => true
  | .cuvlVerifyDone _ => true
  | .cuvlPass2Done _ => true
  | .cuvlGo => true
  | .cuvlWholeCommit _ => true
  | .cuvlWholeLoadDone _ => true
  | .contextSwitch _ _ _ => true
  | .recContextSwitch _ => true
  | .cuvlSwitchTimeout => true
  | .cuvlAbort => true
  | .refclkMonitorCheck _ _ _ => true
  | .laneAttemptStart u r => decide (r.val < roleCount u)
  | .laneSignalDetect u k => decide (k.val < laneCount u)
  | .laneCdrLock u k => decide (k.val < laneCount u)
  | .laneCtleChosen u k _ => decide (k.val < laneCount u)
  | .laneBlockLock u k => decide (k.val < laneCount u)
  | .trainingBlockReceived u k _ => decide (k.val < laneCount u)
  | .laneStageTimeout u k => decide (k.val < laneCount u)
  | .dataBlockReceived u k _ => decide (k.val < laneCount u)
  | .laneLoss u k _ => decide (k.val < laneCount u)
  | .laneRetryExpiry u r => decide (r.val < roleCount u)
  | .laneRetrain _ _ => true
  | .laneCtleTrack u k _ => decide (k.val < laneCount u)
  | .laneTxfirWrite u k _ => decide (k.val < laneCount u)
  | .lanePrbsCtlWrite u k _ => decide (k.val < laneCount u)
  | .prbsLockChange u k _ _ _ => decide (k.val < laneCount u)
  | .laneSnapWrite _ _ => true
  | .sdiPllLock _ _ => true
  | .ethPcsAligned _ _ => true
  | .dphySotTimeout _ => true
  | .csi2LongPacket _ _ => true
  | .csi2FrameStart _ _ _ _ _ => true
  | .csi2FrameEnd _ _ _ => true
  | .sfeIdentityReadDone _ _ => true
  | .sfeI3cCmdGo _ _ => true
  | .sfeI3cDone _ _ _ => true
  | .sfeIbi _ _ => true
  | .vrsPixelPair _ _ _ => true
  | .vrsTportWrite _ _ _ _ => true
  | .vrsUploadItem _ _ _ => true
  | .vrsBankRst _ _ _ => true
  | .vrsDisarm _ _ => true
  | .vrsArm _ _ _ => true
  | .vrsForce _ _ => true
  | .vrsTableRead _ _ _ => true
  | .vrsTableReadDone _ _ _ => true
  | .statInputWord _ _ _ _ => true
  | .statHold _ _ => true
  | .statRelease _ _ => true
  | .statResultArrival _ _ => true
  | .statMergeTimeout _ => true
  | .pxrRowEncode _ _ => true
  | .pxrDecGo _ _ => true
  | .pxrDecAbort _ _ => true
  | .pxrDecDone _ _ _ => true
  | .blkFrameInput _ _ _ _ _ => true
  | .blkFrameCodeStart _ _ _ _ _ => true
  | .blkFrameCoded _ _ _ _ _ _ _ => true
  | .blkCtxUpdGo _ _ _ _ => true
  | .blkCtxUpdCancel _ _ => true
  | .blkSctlKey _ _ _ => true
  | .blkSctlRefresh _ _ _ => true
  | .asmGroupEnable _ _ => true
  | .asmTileUnit _ _ => true
  | .asmWindowExpiry _ _ => true
  | .rcCoordinatorMessage _ _ => true
  | .blkDecGo _ _ _ => true
  | .blkDecAbort _ _ => true
  | .blkDecReset _ _ => true
  | .blkDecBudgetExpiry _ _ _ => true
  | .blkDecDone _ _ _ => true
  | .sqDoorbell _ _ => true
  | .cqDoorbell _ _ => true
  | .nvmeCommandFetch _ _ => true
  | .deleteIoSubmissionQueue _ => true
  | .createIoSubmissionQueue _ => true
  | .deleteIoCompletionQueue _ => true
  | .createIoCompletionQueue _ => true
  | .getLogPage _ => true
  | .identify _ => true
  | .abort _ => true
  | .setFeatures _ => true
  | .setFeaturesTenantShare _ => true
  | .getFeatures _ => true
  | .asynchronousEventRequest _ => true
  | .namespaceCreate _ _ => true
  | .namespaceDelete _ => true
  | .namespaceAttachment _ _ => true
  | .firmwareImageDownload _ => true
  | .fwCommitWrite _ _ => true
  | .fwCommitWriteSelect _ _ => true
  | .fwCommitSelect _ => true
  | .fwCommitActivate _ _ => true
  | .formatNvmDeallocate _ => true
  | .formatNvmErase _ => true
  | .formatNvmCryptoErase _ => true
  | .sanitizeBlockErase _ => true
  | .sanitizeOverwrite _ => true
  | .sanitizeCryptoErase _ => true
  | .sanitizeDone _ => true
  | .formatDone _ => true
  | .flush _ _ => true
  | .write _ _ => true
  | .read _ _ => true
  | .writeZeroes _ _ => true
  | .datasetManagement _ _ => true
  | .verify _ _ => true
  | .rangeLockGrant _ _ _ => true
  | .pieceCommit _ => true
  | .controllerEnable _ _ _ _ => true
  | .controllerDisable => true
  | .tenantWindowEnd _ _ _ => true
  | .celShareWrite _ _ => true
  | .rbLevelCrossing _ _ => true
  | .rbLevelRestore _ _ => true
  | .takeStart _ _ _ => true
  | .takeStop _ => true
  | .takeStartTimeout => true
  | .takeClosed _ => true
  | .takeUnitCommit _ _ => true
  | .takeQueueReset _ _ => true
  | .streamOpen _ => true
  | .streamClose _ _ => true
  | .powerStateTransitionDone => true
  | .cartDetectLow _ => true
  | .cartSettled _ => true
  | .cartInitDone _ _ => true
  | .cartIdentityRead _ _ => true
  | .cartReplayDone _ _ => true
  | .cartRemoval _ => true
  | .cartRetryExpiry _ => true
  | .cartEject _ => true
  | .journalCheckpoint _ => true
  | .rebuildRegion _ _ _ => true
  | .flashProgramFail _ _ => true
  | .drcInitGo _ => true
  | .drcTrainDone _ _ => true
  | .drcFillDone _ => true
  | .dramRequest _ _ => true
  | .dramAccessDone _ _ _ => true
  | .drcHotSample _ => true
  | .drcHotWindowEnd _ => true
  | .drcHotHoldEnd _ => true
  | .drcScrubRead _ _ _ => true
  | .drcSrEntry _ _ => true
  | .drcFchgGo _ _ => true
  | .drcFchgSetpointsDone _ => true
  | .drcFchgSrEntry _ => true
  | .drcFchgHoldTimeout _ => true
  | .drcFchgPllLocked _ => true
  | .refclkTimeFault => true
  | .refclkTimeRecover => true
  | .ptpSync _ => true
  | .ptpFollowUp _ => true
  | .ptpDelayResp _ => true
  | .ptpAnnounce _ => true
  | .ptpDelayReqSend => true
  | .ptpAnnounceTimeout => true
  | .ptpSyncTimeout => true
  | .timeCtlStep _ => true
  | .timeCtlForce => true
  | .timeNsRead _ => true
  | .timecodeFrame _ => true
  | .txtsPop _ _ => true
  | .ethFrameRx _ _ _ _ => true
  | .ethHostTx _ _ => true
  | .liveFrameInput _ _ _ _ => true
  | .liveSlot _ _ _ => true
  | .livePacketLaunch _ _ _ => true
  | .sdiRasterStart _ _ _ _ => true
  | .pressTailWrite u r _ => decide (r.val < pressRings u)
  | .pressJobStart _ => true
  | .pressJobEnd _ _ _ _ => true
  | .pressAbort u r => decide (r.val < pressRings u)
  | .pressResume u r => decide (r.val < pressRings u)
  | .pressRingDisable u r => decide (r.val < pressRings u)
  | .qdlHello _ => true
  | .qdlPortDown _ => true
  | .qdlForwardWrite _ _ _ => true
  | .qdlForwardRead _ _ => true
  | .qdlForwardReadDone _ _ => true
  | .qdlFollowerHostAccess _ _ _ _ _ => true
  | .qdlPeerEventMessage _ _ _ => true
  | .qdlTimeMessage _ _ _ _ => true
  | .qdlDelayEcho _ _ => true
  | .qdlTakeEndReport _ _ => true
  | .qdlOrphanExpiry => true
  | .msixCoalesceTimeout _ => true
  | .msixVectorUnmask _ => true
  | .evtStatClear _ _ => true
  | .pasmLineInput _ _ _ _ => true
  | .pasmWindowExpiry _ => true
  | .panelEnable _ _ => true
  | .panelInitDone _ => true
  | .panelDcsSend _ => true
  | .panelPush _ _ => true
  | .panelSurfaceFrameEof _ => true
  | .panelTeEdge _ _ => true
  | .panelTeTimeout _ => true
  | .panelTransferStart _ => true
  | .panelPacketSend _ _ => true
  | .panelTransferDone _ _ => true
  | .panelFetchTimeout _ => true
  | .panelDisable _ => true
  | .audTrigStart _ _ => true
  | .audTrigStop _ _ => true
  | .audTrigLead => true
  | .audTrigFrame => true
  | .audMediaFrame _ => true
  | .audAsrcLockChange _ _ _ => true
  | .audPortDisable _ => true
  | .adcStart _ => true
  | .adcTimerTrigger _ => true
  | .adcScanStart _ => true
  | .adcConversionDone _ _ _ => true
  | .adcFifoPop _ => true
  | .adcFifoFlush _ => true
  | .adcCalZero _ _ => true
  | .adcCalGain _ _ _ => true
  | .adcCalDone => true
  | .pwmPeriodStart _ => true
  | .pwmActiveEnd _ => true
  | .pwmSync _ => true
  | .swEnable _ => true
  | .swDisable _ => true
  | .swInrushEnd _ => true
  | .swHardShort _ _ => true
  | .swOvercurrent _ _ => true
  | .brownoutBegin => true
  | .brownoutRelease => true
  | .keySample _ => true
  | .keyFifoPop => true
  | .encTransition _ _ => true
  | .encPosWrite _ _ => true
  | .touchMeasure _ _ => true
  | .thermConversion u k _ => decide (k.val < sensorCount u)
  | .thermSelfCheck u k _ => decide (k.val < sensorCount u)
  | .pfailLow _ => true
  | .thermPavaneRequest => true
  | .pavaneCommitDeadline => true
  | .pavanePowerOff => true
  | .supPgRise => true
  | .supplyLoss => true
  | .resetRelease => true
  | .bootThermalHoldRelease => true
  | .bootVerifyDone _ _ _ => true
  | .bootLoadDone => true
  | .bootOkWrite => true
  | .bootWatchdogExpiry => true
  | .fwActivationTimeout => true
  | .hubRstWarm => true
  | .hubRstFallow => true
  | .nrstFall => true
  | .nrstPress => true
  | .nrstRelease _ => true
  | .nrstStuckTimeout => true
  | .nrstRearm => true
  | .standbyRequest _ => true
  | .standbyEntryDone _ => true
  | .aonWake _ _ => true
  | .flashProgram => true
  | .flashErase => true
  | .flashCmdDone _ => true
  | .bistStart _ => true
  | .bistVoltageReady => true
  | .bistRunEnd _ _ => true
  | .bistAbort => true
  | .secuGenerate _ => true
  | .secuImport _ => true
  | .secuImportWrapped _ => true
  | .secuExportWrapped _ => true
  | .secuLock _ => true
  | .secuDestroy _ => true
  | .secuSetDigest _ => true
  | .secuRevoke _ => true
  | .secuAdvanceSvn _ => true
  | .secuLcRequest _ => true
  | .drbgHealthFail => true
  | .drbgReseed _ => true
  | .secuAlarmInput _ => true
  | .dphySot _ _ => true
  | .pcieLinkUp _ _ => true
  | .pcieCompletion _ _ _ => true
  | .secuCommandDone _ _ => true
  | .configSpaceWrite _ _ _ => true
  | .latchedWakeRelease => true

end Sys2Proof
end

