-- ==== Sys2Proof/Machine/State.lean ====
section
/-!
DEFINITION. The state of the block: the register fields, the engines of the four pipes and of the Hub, the memories, and
the queue of commands that wait. All of it plain data.
-/
namespace Sys2Proof.Machine

/-- What one pipe holds beside its register fields. [log entry 6: DESIGN CHOICE] -/
structure PipeSt where
  pace : Pace := {}
  recp : RecPath := {}
  anchor : Anchor := {}
  lastCopy : Nat := 0
  dram : Dram := {}
  casks : Tab Cask := []
  trl : Trl := {}
  encs : Tab PxrEnc := []
  takes : Tab TakeQ := []
  sfe : Sfe := {}
  vrs : Tab VrsUnit := []
  stats : Tab StatCtx := []
  pdec : Tab PxrJob := []
  lanes : Lanes := {}
  eth : Tab EthPort := []
  blk : Tab BlkStream := []
  bdec : Tab BlkDec := []
  live : Tab LiveOut := []
  cel : Slice := {}
  rack : Rack := {}
  press : Press := {}
deriving DecidableEq, Repr

/-- What the Hub holds beside its register fields. [log entry 6: DESIGN CHOICE] -/
structure HubSt where
  lost : Bool := false
  gov : Gov := {}
  anchor : Anchor := {}
  fchgOrder : List Nat := []
  fchgLast : Tab Nat := []
  casks : Tab Cask := []
  takes : List TakeRec := []
  startHeld : Option (Nat × Nat × BoardStart) := none
  skew : Tab Nat := []
  merges : Tab Merge := []
  lanes : Lanes := {}
  ptp : Ptp := {}
  asm : Tab AsmGroup := []
  nvme : Nvme := {}
  hreq : List HostUser := []
  secu : Secu := {}
  rack : Rack := {}
  press : Press := {}
  qdl : Qdl := {}
  pasm : Tab Pasm := []
  panels : Tab Panel := []
  aud : Aud := {}
  sense : Sense := {}
  therm : Therm := {}
  cuvl : Cuvl := {}
  flash : Mem := []
  boot : Boot := {}
  prst : List Nat := []
  stripe : List StripeMsg := []
  trips : Tab Nat := []
deriving DecidableEq, Repr

/-- The device: everything but the queue of waiting commands.
`c` is the free-running counter of R490 in 2⁻⁸ ns; `free` counts the free values taken so far (the model's own field);
`regs` are the register fields that differ from reset; `snaps` and `held` are the snapshots and held low words of the
64-bit pairs (R6, R7), by the offset of the pair's low word; `rdata` is the data of the last read that was completed; `tsnap`
holds the seconds that reads of `TIME_NOW_NS` and `NET_TIME_NS` latched (R493). [log entry 6: DESIGN CHOICE] -/
structure Dev where
  c : Nat := 0
  free : Nat := 0
  regs : FStore := []
  snaps : Tab Nat := []
  held : Tab Nat := []
  rdata : Nat := 0
  router : Router := {}
  pipes : Four PipeSt := ⟨{}, {}, {}, {}⟩
  hub : HubSt := {}
  hostMem : Mem := []
  tsnap : Tab Nat := []
deriving DecidableEq, Repr

/-- The state: the commands that wait, first in, first out, and the device. -/
structure State where
  pending : List Instr := []
  dev : Dev := {}
deriving DecidableEq, Repr

/-- The faults of a step. -/
inductive Fault where
  /-- Raised by a command whose operands fail its well-formedness check: it names a cask, channel, word or other thing
  the device does not have, so nothing outside can send it. Safe: such a command does not exist on the hardware. -/
  | illFormed
deriving DecidableEq, Repr

/-- The refusals of a step. -/
inductive Refusal where
  /-- Raised by the arm of a command that has no meaning in this model yet. Safe: the machine only stops. -/
  | notModelled (mnemonic : String)
deriving DecidableEq, Repr

/-- The device right after a power-on reset: every field at the value of its register table, every engine at rest, no
command waiting. [log entry 6: DESIGN CHOICE] -/
def State.reset : State := {}

/-- What a meaning answers. -/
abbrev Out := Host.Outcome State Fault Refusal

end Sys2Proof.Machine
end

