-- ==== Sys2Proof/Machine/Ops.lean ====
section
/-!
DEFINITION. The named operations over the device's state: reading and writing register fields, counters, pairs, free
values, the time the counters show, and the pipes' records.
-/
namespace Sys2Proof.Machine

/-- The value of field `f` of copy `p`, `i`, `j`. -/
def Dev.rd (d : Dev) (f : Fld) (p : Nat := 0) (i : Nat := 0) (j : Nat := 0) : Nat :=
  FStore.get (f.rstAt p i) d.regs (f.key p i j)

/-- The device with field `f` of copy `p`, `i`, `j` holding `v`, cut to the width of the field. -/
def Dev.wr (d : Dev) (f : Fld) (v : Nat) (p : Nat := 0) (i : Nat := 0) (j : Nat := 0) : Dev :=
  { d with regs := FStore.set (f.rstAt p i) d.regs (f.key p i j) (v % 2 ^ f.width) }

/-- Whether the one-bit field `f` is set. -/
def Dev.on (d : Dev) (f : Fld) (p : Nat := 0) (i : Nat := 0) (j : Nat := 0) : Bool := d.rd f p i j == 1

/-- The device with the one-bit field `f` holding `b`. -/
def Dev.wrb (d : Dev) (f : Fld) (b : Bool) (p : Nat := 0) (i : Nat := 0) (j : Nat := 0) : Dev :=
  d.wr f (b2n b) p i j

/-- What pipe `p` holds beside its register fields. -/
def Dev.pipe (d : Dev) (p : Nat) : PipeSt := d.pipes.get p

/-- The device with what pipe `p` holds changed by `f`. -/
def Dev.updPipe (d : Dev) (p : Nat) (f : PipeSt → PipeSt) : Dev := { d with pipes := d.pipes.upd p f }

/-- The device with what the Hub holds changed by `f`. -/
def Dev.updHub (d : Dev) (f : HubSt → HubSt) : Dev := { d with hub := f d.hub }

/-- A free value and the device that has taken it (log entry 3). [log entry 3: DESIGN CHOICE] -/
def Dev.draw (d : Dev) : Nat × Dev := (Config.freeValue d.free, { d with free := d.free + 1 })

/-- A free value the DRBG serves; the request is counted (R680). [log entry 3: DESIGN CHOICE] -/
def Dev.drbg (d : Dev) : Nat × Dev :=
  let (v, d) := d.draw
  (v, { d with hub := { d.hub with secu := { d.hub.secu with requests := d.hub.secu.requests + 1 } } })

/-- Whether keys can be drawn: the DRBG is not FAILED and the working copies are not lost (R668, R680). -/
def Dev.rngOk (d : Dev) : Bool := d.rd F.SECU_STAT_DRBG != 3 && !d.on F.SECU_STAT_KEYSLOST

/-- Applies `f` to every element of a list in turn. -/
def Dev.each {α : Type} (d : Dev) (l : List α) (f : Dev → α → Dev) : Dev := l.foldl f d

/-- `d` where `b` is false, `f d` where it is true. -/
def Dev.when (d : Dev) (b : Bool) (f : Dev → Dev) : Dev := if b then f d else d

/-! ### Standstill -/

/-- Whether a Pavane has stopped the work of its step 3 (R636). -/
def Dev.stopped (d : Dev) : Bool := d.hub.therm.kind.isSome

/-- Whether NVMe admission has stopped: a Pavane or a standby entry runs (R636, R659). -/
def Dev.nvStopped (d : Dev) : Bool := d.stopped || d.hub.boot.stby.isSome

/-! ### Words of registers -/

/-- The word a register's fields make, WO fields reading 0 (R10) and reserved bits 0 (R11). -/
def Dev.fieldWord (d : Dev) (l : RegLoc) : Nat :=
  (l.reg.info.flds.map fun f =>
    if f.accAt l.p l.i = .wo then 0 else d.rd f l.p l.i l.j * 2 ^ f.lo).sum

/-- One field of a register written by the host with word `w` (R10). -/
def Dev.wrField (l : RegLoc) (w : Nat) (d : Dev) (f : Fld) : Dev :=
  let v := slice w f.hi f.lo
  match f.accAt l.p l.i with
  | .rw => d.wr f v l.p l.i l.j
  | .rws => d.wr f v l.p l.i l.j
  | .w1c => d.wr f (Nat.land (d.rd f l.p l.i l.j) (2 ^ f.width - 1 - v)) l.p l.i l.j
  | .w1s => d.wr f (Nat.lor (d.rd f l.p l.i l.j) v) l.p l.i l.j
  | _ => d

/-- Whether word `w` leaves every writable field of a register but `en` at the value in force; reserved and read-only bits do not count
(R10, R11). -/
def Dev.sameBut (d : Dev) (l : RegLoc) (en : Fld) (w : Nat) : Bool :=
  l.reg.info.flds.all fun f =>
    f.lo == en.lo || !(f.accAt l.p l.i == .rw || f.accAt l.p l.i == .rws) || slice w f.hi f.lo == d.rd f l.p l.i l.j

/-- A register written by the host, each field by its access code. -/
def Dev.wrWord (d : Dev) (l : RegLoc) (w : Nat) : Dev := l.reg.info.flds.foldl (Dev.wrField l w) d

/-- A register of CV fields written by the cuvée loader (R10, R192). -/
def Dev.wrCv (d : Dev) (l : RegLoc) (w : Nat) : Dev :=
  l.reg.info.flds.foldl (fun d f =>
    if f.acc = .cv || f.acc = .cvrw then d.wr f (slice w f.hi f.lo) l.p l.i l.j else d) d

/-- The value of the 64-bit pair with these two fields. -/
def Dev.rd64 (d : Dev) (lo hi : Fld) (p : Nat := 0) (i : Nat := 0) (j : Nat := 0) : Nat :=
  d.rd lo p i j * 2 ^ lo.lo + 2 ^ 32 * d.rd hi p i j

/-! ### Counters (R16) -/

/-- The value a counter holds. -/
def Dev.cnt (d : Dev) (c : Cnt) (p : Nat := 0) (i : Nat := 0) (j : Nat := 0) : Nat :=
  d.rd c.lo p i j + 2 ^ 32 * d.rd c.hi p i j

/-- The counter incremented `n` times: it stops at 2⁴⁸ − 1, and SAT is set where an increment found it there (R16). -/
def Dev.bumpBy (d : Dev) (n : Nat) (c : Cnt) (p : Nat := 0) (i : Nat := 0) (j : Nat := 0) : Dev :=
  let v := d.cnt c p i j + n
  let m := 2 ^ 48 - 1
  let d := if m < v then d.wr c.sat 1 p i j else d
  let v := if m < v then m else v
  (d.wr c.lo (v % 2 ^ 32) p i j).wr c.hi (v / 2 ^ 32) p i j

/-- The counter incremented once. -/
def Dev.bump (d : Dev) (c : Cnt) (p : Nat := 0) (i : Nat := 0) (j : Nat := 0) : Dev := d.bumpBy 1 c p i j

/-- The counter cleared with its SAT bit. -/
def Dev.clearCnt (d : Dev) (c : Cnt) (p : Nat := 0) (i : Nat := 0) (j : Nat := 0) : Dev :=
  ((d.wr c.lo 0 p i j).wr c.hi 0 p i j).wr c.sat 0 p i j

/-- A field that counts and saturates at its largest value. -/
def Dev.satInc (d : Dev) (f : Fld) (n : Nat := 1) (p : Nat := 0) (i : Nat := 0) (j : Nat := 0) : Dev :=
  let v := d.rd f p i j + n
  d.wr f (if v < 2 ^ f.width then v else 2 ^ f.width - 1) p i j

/-! ### Time (R490, R491) -/

/-- The time an anchor and rate show at counter `c`, in 2⁻⁸ ns (R491). -/
def Anchor.at (a : Anchor) (c : Nat) : Nat :=
  let dt : Nat := (c + 2 ^ 64 - a.ca) % 2 ^ 64
  let rate : Int := 2 ^ 40 + a.r
  (Int.ofNat a.ta + Int.ofNat dt * rate / 2 ^ 40).toNat

/-- The Hub's PTP time in 2⁻⁸ ns. [log entry 56: DEDUCED] -/
def Dev.hubTime (d : Dev) : Nat := d.hub.anchor.at d.c

/-- Pipe `p`'s PTP time in 2⁻⁸ ns. [log entry 56: DEDUCED] -/
def Dev.pipeTime (d : Dev) (p : Nat) : Nat := (d.pipe p).anchor.at d.c

/-- The PTP time of unit `u`, in 2⁻⁸ ns: a pipe's or, for 4, the Hub's. -/
def Dev.unitTime (d : Dev) (u : Nat) : Nat := if u < 4 then d.pipeTime u else d.hubTime

/-- The whole nanoseconds of a time in 2⁻⁸ ns. -/
def nsOf (t : Nat) : Nat := t / 256

/-- The PTP seconds of a time in 2⁻⁸ ns. -/
def ptpSec (t : Nat) : Nat := nsOf t / 1000000000

/-- The PTP nanoseconds of a time in 2⁻⁸ ns. -/
def ptpNs (t : Nat) : Nat := nsOf t % 1000000000

/-- The counter's units of a number of nanoseconds. -/
def cOfNs (n : Nat) : Nat := n * 256

/-- The time from counter value `c0` to `c1`, in 2⁻⁸ ns: the counter wraps at 2⁶⁴ (R18, R490). -/
def cSince (c0 c1 : Nat) : Nat := (c1 + 2 ^ 64 - c0) % 2 ^ 64

/-- The whole microseconds between counter values `c0` and `c1`. -/
def usSince (c0 c1 : Nat) : Nat := cSince c0 c1 / 256000

/-! ### The boot flash (R644, R663) -/

/-- `n` bytes of the boot flash from `a`. The store holds each byte's complement, so that flash which lists nothing reads as erased. [log entry 80: PRESUMED] -/
def Dev.flashReads (d : Dev) (a n : Nat) : List Byte := (d.hub.flash.reads a n).map fun b => ~~~b

/-- The boot flash with `bs` written from `a`. -/
def Dev.flashWrites (d : Dev) (a : Nat) (bs : List Byte) : Dev :=
  d.updHub fun h => { h with flash := h.flash.writes a (bs.map fun b => ~~~b) }

/-- The boot flash with the 64 KiB sectors that `n` bytes from `a` touch erased. [log entry 80: PRESUMED] -/
def Dev.flashErase (d : Dev) (a n : Nat) : Dev :=
  if n = 0 then d
  else
    let lo := a / 65536 * 65536
    let hi := (a + n + 65535) / 65536 * 65536
    d.updHub fun h => { h with flash := h.flash.filter fun c => decide (c.1 < lo) || decide (hi ≤ c.1) }

/-! ### The host's memory -/

/-- Whether the device takes its time and its host from a Quadrille leader (R534, R542). -/
def Dev.isFollower (d : Dev) : Bool := d.on F.QDL_CTL_EN && d.rd F.QDL_ID_DEVID != 0

/-- Whether Quadrille port `q` is UP (R536). -/
def Dev.qdlUp (d : Dev) (q : Nat) : Bool := d.rd F.QDL_PEER_STATE 0 q == 3

/-- The port a follower reaches its leader through, where one is UP. -/
def Dev.leaderPort (d : Dev) : Option Nat := (List.range 3).find? d.qdlUp

/-- Whether the device may reach host memory: the link is up, Bus Master Enable is set, no FLR is in progress and the Hub
is not lost (R42, R553, R554, R555); in a follower, whether its port is UP (R539). [log entry 81: DEDUCED] -/
def Dev.hostOk (d : Dev) : Bool :=
  if d.isFollower then !d.hub.lost && d.leaderPort.isSome
  else d.on F.HUB_PCIE_STAT_DLUP && d.on F.HUB_PCIE_STAT_BME && !d.on F.HUB_PCIE_STAT_FLR && !d.hub.lost

/-- Writes bytes to host memory from `a`. -/
def Dev.hostWrite (d : Dev) (a : Nat) (bs : List Byte) : Dev := { d with hostMem := d.hostMem.writes a bs }

end Sys2Proof.Machine
end

