-- ==== Sys2Proof/Machine/Router.lean ====
section
/-!
DEFINITION. The event router and the order of guarantees (chapters 1 and 18): raising an event on its routes, the vectors'
messages, the wired pins, the yield records and the yield log.
-/
namespace Sys2Proof.Machine

/-- The number of event `k` of pipe `n` (R21, R574). -/
def pipeEvent (n k : Nat) : Nat := 640 + 96 * n + k

/-- The MSI-X vector of source `e` (R563). -/
def vectorOf (e : Nat) : Nat := if e < 540 then e + 1 else if e = 540 then 0 else e

/-- Inserts `n` into a rising list of numbers without repeats. -/
def insertNum (n : Nat) : List Nat → List Nat
  | [] => [n]
  | m :: t => if n = m then m :: t else if n < m then n :: m :: t else m :: insertNum n t

/-- The device with its router changed by `f`. -/
def Dev.updRouter (d : Dev) (f : Router → Router) : Dev := { d with router := f d.router }

/-- The pin a source is routed to, none for a code out of contract (chapter 18, `EVT_SRC_CFG.PIN`). -/
def Dev.pinOf (d : Dev) (e : Nat) : Option Nat :=
  let c := d.rd F.EVT_SRC_CFG_PIN 0 e
  if 4 ≤ c then some (c - 4) else none

/-- Whether vector `v`'s message may not be sent now (R554, R556, R564; during an FLR as R553 and R566 state). [log entry 24: DEDUCED] -/
def Dev.vecBlocked (d : Dev) (v : Nat) : Bool :=
  !(Tab.get {} d.router.table v).unmasked || d.on F.HUB_PCIE_STAT_FMASK || !d.on F.HUB_PCIE_STAT_MSIXEN ||
    !d.hostOk || d.isFollower

/-- Whether a vector that holds `c` events since `t0` is due (R565). Vector 0 never coalesces. -/
def Dev.vecDue (d : Dev) (v c t0 : Nat) : Bool :=
  let time := d.rd F.EVT_COAL_TIME 0 v
  v == 0 || time == 0 || d.on F.EVT_COAL_CD 0 v || decide (max (d.rd F.EVT_COAL_COUNT 0 v) 1 ≤ c) || decide (time ≤ usSince t0 d.c)

/-- A write of `EVT_COAL`, or of CD through the feature, takes effect on the events that vector `v` holds. -/
def Dev.vecRecheck (d : Dev) (v : Nat) : Dev :=
  match Tab.find d.router.coal v with
  | some k => if d.vecDue v k.c k.t0 then d.updRouter fun r => { r with owed := insertNum v r.owed, coal := Tab.del r.coal v } else d
  | none => d

/-- An event reaches vector `v`: it is counted, and where the coalescing condition is met the vector owes a message
(R564, R565); a vector that owes a message already takes no more. [log entry 24: DEDUCED] -/
def Dev.vecEvent (d : Dev) (v : Nat) : Dev :=
  if d.router.owed.contains v then d
  else
    let k := Tab.get {} d.router.coal v
    let t0 := if k.c = 0 then d.c else k.t0
    if d.vecDue v (k.c + 1) t0 then
      d.updRouter fun r => { r with owed := insertNum v r.owed, coal := Tab.del r.coal v }
    else d.updRouter fun r => { r with coal := Tab.put r.coal v ⟨k.c + 1, t0⟩ }

/-- In a follower, an event is also queued for the leader at the port that is UP: up to 256 messages, then it is dropped with OVF
(R540, R541). [log entry 60: DEDUCED] -/
def Dev.peerEvent (d : Dev) (e : Nat) : Dev :=
  if d.isFollower then
    match d.leaderPort with
    | some q =>
      let l := Tab.get [] d.hub.qdl.msgs q
      if l.length < 256 then d.updHub fun h => { h with qdl := { h.qdl with msgs := Tab.put h.qdl.msgs q (l ++ [e]) } }
      else d.wr F.QDL_PEER_OVF 1 0 q
    | none => d
  else d

/-- Raises event `e` (512 to 1,023) with syndrome `syn`: status, overrun, syndrome and every enabled route in one step
(R561, R562). After a Hub loss the router has stopped (R556). During an FLR the MSI-X route waits for its end (R568). -/
def Dev.raise (d : Dev) (e syn : Nat) : Dev :=
  if d.hub.lost then d
  else
    let was := d.router.stat.contains e
    let d := d.updRouter fun r =>
      { r with
        stat := insertNum e r.stat
        ovr := if was then insertNum e r.ovr else r.ovr
        syn := Tab.set 0 r.syn e (syn % 2 ^ 32) }
    let d := if d.on F.EVT_SRC_CFG_MC 0 e then d.updRouter fun r => { r with mc := insertNum e r.mc } else d
    let d := d.peerEvent e
    if d.on F.EVT_SRC_CFG_MSIX 0 e && !d.on F.HUB_PCIE_STAT_FLR then d.vecEvent (vectorOf e) else d

/-- Raises event `k` of pipe `n`. -/
def Dev.raiseP (d : Dev) (n k syn : Nat) : Dev := d.raise (pipeEvent n k) syn

/-- A completion is posted to a tenant queue with interrupts enabled: source `e` of 0 to 511, whose only route is MSI-X
(R561). -/
def Dev.raiseTenant (d : Dev) (e : Nat) : Dev :=
  if d.hub.lost then d else d.vecEvent (vectorOf e)

/-! ### What settles at the end of every command -/

/-- Sends every owed message that nothing holds off, and clears its pending bit (R564). [log entry 24: DEDUCED] -/
def Dev.sendOwed (d : Dev) : Dev :=
  let go := d.router.owed.filter fun v => !d.vecBlocked v
  d.updRouter fun r =>
    { r with
      owed := r.owed.filter fun v => d.vecBlocked v
      sent := go.foldl (fun t v => Tab.put t v (Tab.get 0 t v + 1)) r.sent }

/-- Whether the wired pin IRQ_N[k] is low: PINEN is set and a source routed to it has its status bit set (R567), or the
Hub is lost and HLPIN names it (R556). -/
def Dev.pinLow (d : Dev) (k : Nat) : Bool :=
  (bit (d.rd F.EVT_CTL_PINEN) k && d.router.stat.any fun e => d.pinOf e == some k) ||
    (d.hub.lost && d.rd F.EVT_CTL_HLPIN == 4 + k)

/-- The levels of the wired pins, bit k set for IRQ_N[k] low. -/
def Dev.pinLevels (d : Dev) : Nat :=
  b2n (d.pinLow 0) + 2 * b2n (d.pinLow 1) + 4 * b2n (d.pinLow 2) + 8 * b2n (d.pinLow 3)

/-- The device with the pins at the levels its state gives them. [log entry 24: DEDUCED] -/
def Dev.drivePins (d : Dev) : Dev := d.updRouter fun r => { r with irqLow := d.pinLevels }

/-- What the router does before the next command is taken: owed messages go out (R564), the pins follow the status bits
(R567: the pin is a level). [log entry 24: DEDUCED] -/
def settle (d : Dev) : Dev := d.sendOwed.drivePins

/-- The command's effect on the device, then what settles; for what also happens to a device that holds itself in reset. [log entry 11: DESIGN CHOICE] -/
def runAlways (s : State) (f : Dev → Dev) : Out := .next { s with dev := settle (f s.dev) }

/-- The command's effect on the device, then what settles. A device that holds itself in reset does nothing (R638, R692). [log entry 11: DESIGN CHOICE] -/
def run (s : State) (f : Dev → Dev) : Out :=
  if s.dev.hub.boot.held.isSome then .next s else runAlways s f

/-- As `run`, for a command whose operands must meet a condition: otherwise the machine stops. [log entry 8: DEDUCED] -/
def runIf (ok : Bool) (s : State) (f : Dev → Dev) : Out := if ok then run s f else .fault .illFormed

/-- The blocks of a pipe's window (R558). -/
def pipeBlocks : List BlockId :=
  [.PCTL, .LANE, .SFE, .TRL, .CASK, .RACK, .VRS, .STAT, .PXR, .BLK, .DRC, .CELP, .NET, .SDI, .PRESS_P, .PTHM]

/-- Whether pipe `p`'s window outside PCTL is reachable (R559). -/
def Dev.pipeReach (d : Dev) (p : Nat) : Bool :=
  d.rd F.PCTL_STAT_STATE p != 0 && d.rd F.PCTL_STAT_STATE p != 5 && !d.on F.PCTL_STAT_GATE_LATCH p

/-- Whether a host write reaches block `b` of pipe `p` (4 for a copy in the Hub): not while the Hub is lost (R42); in Fallow mode only
the blocks of R560; in a pipe whose window is reachable (R559). -/
def Dev.reaches (d : Dev) (b : BlockId) (p : Nat) : Bool :=
  !d.hub.lost && (!d.on F.HUB_FALLOW_ACTIVE || [BlockId.HUB_CTL, .EVT, .THERM, .SECU, .CUVL].contains b) &&
    (!pipeBlocks.contains b || p == 4 || b == .PCTL || d.pipeReach p)

/-- As `run`, for a command that is a host write of a register of block `b`, which is discarded where it does not reach the block. -/
def bar2 (b : BlockId) (p : Nat) (s : State) (f : Dev → Dev) : Out := run s fun d => if d.reaches b p then f d else d

/-- As `bar2`, for a command whose operands must meet a condition. [log entry 8: DEDUCED] -/
def bar2If (ok : Bool) (b : BlockId) (p : Nat) (s : State) (f : Dev → Dev) : Out := if ok then bar2 b p s f else .fault .illFormed

/-- As `bar2`, for a host read, which returns all ones where it does not reach the block (R12, R42, R559, R560). -/
def bar2Read (b : BlockId) (p : Nat) (s : State) (f : Dev → Dev) : Out :=
  run s fun d => if d.reaches b p then f d else { d with rdata := 0xFFFFFFFF }

/-- As `run`, for work of the Hub, which a Hub loss ends (R42, R44). -/
def runHub (s : State) (f : Dev → Dev) : Out := run s fun d => if d.hub.lost then d else f d

/-- As `run`, for work that a Pavane has stopped (R636). -/
def runWork (s : State) (f : Dev → Dev) : Out := run s fun d => if d.stopped then d else f d

/-! ### Rings in host memory -/

/-- Writes little-endian words from `a` of host memory. -/
def Dev.hostWords (d : Dev) (a : Nat) (ws : List Nat) : Dev := d.hostWrite a (ws.flatMap (leBytes 4))

/-! ### Yields (R37, R40) -/

/-- Word 0 of a yield record. -/
def yieldWord0 (y : Yield) (fin : Bool) (seq : Nat) : Nat :=
  b2n fin * 2 ^ 31 + y.yrank * 2 ^ 28 + y.krank * 2 ^ 25 + y.origin * 2 ^ 20 + y.res * 2 ^ 16 + seq % 2 ^ 16

/-- The eight words of a yield record (R40). -/
def yieldWords (y : Yield) (fin : Bool) (seq t dur : Nat) : List Nat :=
  [yieldWord0 y fin seq, y.object * 2 ^ 16 + y.cause, ptpNs t, ptpSec t % 2 ^ 32, ptpSec t / 2 ^ 32 % 2 ^ 16,
   if fin then y.amount else 0, if fin then min dur (2 ^ 32 - 1) else 0, 0]

/-- The size the yield log is applied with: RSIZE outside 4 to 16 applies 4 (chapter 18). -/
def Dev.ylogSize (d : Dev) : Nat :=
  let r := d.rd F.EVT_YLOG_CFG_RSIZE
  2 ^ (if 4 ≤ r ∧ r ≤ 16 then r else 4)

/-- A record reaches the yield log: written at TAIL, or dropped with OVF and YLOG_OVF (R569). [log entry 81: DEDUCED] -/
def Dev.ylogWrite (d : Dev) (ws : List Nat) : Dev :=
  let n := d.ylogSize
  let tail := d.rd F.EVT_YLOG_TAIL_TAIL
  if d.on F.EVT_YLOG_CFG_EN && d.hostOk && (tail + 1) % n != d.rd F.EVT_YLOG_HEAD_HEAD then
    (d.hostWords (d.rd64 F.EVT_YLOG_RING_LO_BASE_LO F.EVT_YLOG_RING_HI_BASE_HI + 32 * tail) ws).wr
      F.EVT_YLOG_TAIL_TAIL ((tail + 1) % n)
  else
    let was := d.on F.EVT_YLOG_TAIL_OVF
    let d := d.wr F.EVT_YLOG_TAIL_OVF 1
    if was then d else d.raise 560 0

/-- Whether pipe `p` is in autonomous run. -/
def Dev.inArun (d : Dev) (p : Nat) : Bool := d.rd F.PCTL_STAT_STATE p == 4

/-- Writes one yield record: it goes to the yield log and raises its origin's event with word 0 as syndrome (R41); a pipe
in autonomous run counts the begin of a yield in its record instead (R40). -/
def Dev.yieldRecord (d : Dev) (y : Yield) (fin : Bool) : Dev :=
  if y.origin < 4 && d.inArun y.origin then
    if fin then d else d.satInc F.PCTL_ARUN_STAT_YIELDS 1 y.origin
  else
    let seq := Tab.get 0 d.router.yseq y.origin
    let ws := yieldWords y fin seq (d.unitTime y.origin) (usSince y.began d.c)
    let d := d.updRouter fun r => { r with yseq := Tab.put r.yseq y.origin ((seq + 1) % 2 ^ 16) }
    let d := if d.hub.lost then d else d.ylogWrite ws
    if y.origin < 4 then d.raiseP y.origin 0 (yieldWord0 y fin seq) else d.raise 512 (yieldWord0 y fin seq)

/-- A yield begins: its record with END clear is written and the yield is in force (R37). [log entry 23: DEDUCED] -/
def Dev.yieldBegin (d : Dev) (y : Yield) : Dev :=
  let y := { y with began := d.c }
  (d.yieldRecord y false).updRouter fun r => { r with yields := r.yields ++ [y] }

/-- Adds to the amount of a yield in force that `q` accepts. -/
def Dev.yieldGrow (d : Dev) (q : Yield → Bool) (n : Nat := 1) : Dev :=
  d.updRouter fun r => { r with yields := r.yields.map fun y => if q y then { y with amount := y.amount + n } else y }

/-- Whether a yield that `q` accepts is in force. -/
def Dev.yielding (d : Dev) (q : Yield → Bool) : Bool := d.router.yields.any q

/-- A yield of one object begins, or grows where one of the same object, rank, resource and cause is in force (R37,
R508). -/
def Dev.yieldJoin (d : Dev) (y : Yield) (n : Nat := 1) : Dev :=
  let same := fun (z : Yield) => z.origin == y.origin && z.yrank == y.yrank && z.object == y.object && z.cause == y.cause
  if d.yielding same then d.yieldGrow same n else d.yieldBegin { y with amount := y.amount + n }

/-- Every yield that `q` accepts ends with its END record. [log entry 23: DEDUCED] -/
def Dev.yieldEnd (d : Dev) (q : Yield → Bool) : Dev :=
  let ends := d.router.yields.filter q
  let d := d.updRouter fun r => { r with yields := r.yields.filter fun y => !q y }
  ends.foldl (fun d y => d.yieldRecord y true) d

end Sys2Proof.Machine
end

