-- ==== Sys2Proof/Machine/Lane.lean ====
section
/-!
DEFINITION. Roles and lanes (chapter 6): attempts and their stages, loss and the retry timer, training blocks, equalisation, the
reference monitor. A lane set `u` is a pipe's twelve lanes (0 to 3) or the Hub's six Quadrille lanes (4). What a role tells its
owner goes through the function `own`.
-/
namespace Sys2Proof.Machine

/-- What an owner does with the news of role slot `r` of lane set `u`. -/
abbrev RoleOwner := Dev → Nat → Nat → RoleNews → Dev

/-- The lanes of lane set `u`. -/
def Dev.lns (d : Dev) (u : Nat) : Lanes := if u = 4 then d.hub.lanes else (d.pipe u).lanes

/-- The device with a lane set changed. -/
def Dev.updLns (d : Dev) (u : Nat) (f : Lanes → Lanes) : Dev :=
  if u = 4 then d.updHub fun h => { h with lanes := f h.lanes } else d.updPipe u fun s => { s with lanes := f s.lanes }

/-- Lane `k` of a set. -/
def Dev.lane (d : Dev) (u k : Nat) : LaneSt := Tab.get {} (d.lns u).lanes k

/-- The device with a lane replaced. -/
def Dev.putLane (d : Dev) (u k : Nat) (x : LaneSt) : Dev := d.updLns u fun l => { l with lanes := Tab.set {} l.lanes k x }

/-- Role slot `r` of a set. -/
def Dev.role (d : Dev) (u r : Nat) : Role := Tab.get {} (d.lns u).roles r

/-- The device with a role replaced. -/
def Dev.putRole (d : Dev) (u r : Nat) (x : Role) : Dev := d.updLns u fun l => { l with roles := Tab.set {} l.roles r x }

/-! ### Which lanes make which role (R222, R228) -/

/-- The kind of a role: 0 none, 1 SLINK, 2 DPHY, 3 ETH25, 4 ETH100, 5 SDI12, 6 QLINK. -/
def Dev.roleKind (d : Dev) (u r : Nat) : Nat :=
  if u = 4 then (if r < 3 ∧ d.on F.QDL_CTL_EN ∧ bit (d.rd F.QDL_CTL_PORTEN) r then 6 else 0)
  else if r = 0 then (match d.rd F.LANE_SCFG_SMODE u with | 1 => 1 | 2 => 2 | _ => 0)
  else if r ≤ 6 then
    match d.rd F.LANE_FCFG_ROLE u (r - 1) with
    | 1 => 3
    | 2 => if r = 1 then 4 else 0
    | 3 => 5
    | _ => 0
  else 0

/-- The data lanes of a DPHY role (R261). -/
def Dev.dphyLanes (d : Dev) (u : Nat) : List Nat :=
  List.range (match d.rd F.SFE_DPHY_CFG_NDL u with | 0 => 1 | 1 => 2 | _ => 4)

/-- The lanes of a role, in ascending order. -/
def Dev.roleLanes (d : Dev) (u r : Nat) : List Nat :=
  match d.roleKind u r with
  | 1 => (List.range 6).filter fun k => bit (d.rd F.LANE_SCFG_SMASK u) k
  | 2 => d.dphyLanes u ++ [4]
  | 3 => [5 + r]
  | 4 => [6, 7, 8, 9]
  | 5 => [5 + r]
  | 6 => [2 * r, 2 * r + 1]
  | _ => []

/-- The role slot that lane `k` belongs to. -/
def Dev.slotOf (d : Dev) (u k : Nat) : Option Nat := (List.range 7).find? fun r => (d.roleLanes u r).contains k

/-- `LANE_ROLE_STAT.STATE`: 0 OFF, 1 WAIT, 2 TRAIN, 3 ALIGNED, 4 READY, 5 RETRY, 6 DOWN. -/
def Dev.roleState (d : Dev) (u r : Nat) : Nat := d.rd F.LANE_ROLE_STAT_STATE u r

/-- The reference input of a role: 0 FREFA, 1 FREFB, 2 SREF; 0 is QREF at the Hub. -/
def Dev.roleRef (d : Dev) (u r : Nat) : Option Nat :=
  match d.roleKind u r with
  | 1 => some 2
  | 3 => some (d.rd F.LANE_FCFG_REFSEL u (r - 1))
  | 4 => some (d.rd F.LANE_FCFG_REFSEL u (r - 1))
  | 5 => some (d.rd F.LANE_FCFG_REFSEL u (r - 1))
  | 6 => some 0
  | _ => none

/-- Whether an attempt of the role may start: its input is not in fault and has not been within the last millisecond (R221). -/
def Dev.refOk (d : Dev) (u r : Nat) : Bool :=
  match d.roleRef u r with
  | some i => !(d.lns u).bad.contains i
  | none => true

/-- Shows a role's state. -/
def Dev.showRole (d : Dev) (u r st : Nat) : Dev := d.wr F.LANE_ROLE_STAT_STATE st u r

/-- The state a role shows while it is lost: RETRY, or DOWN once the timer has expired. -/
def Dev.showLost (d : Dev) (u r : Nat) : Dev := d.showRole u r (if (d.role u r).down then 6 else 5)

/-- A lane's stage (`LANE_STAT.STAGE`). -/
def Dev.stage (d : Dev) (u k : Nat) : Nat := d.rd F.LANE_STAT_STAGE u k

/-- A lane enters a stage. -/
def Dev.setStage (d : Dev) (u k v : Nat) : Dev := d.wr F.LANE_STAT_STAGE v u k

/-- The stage a lane starts in: SIGDET; the lane of an SDI12 role has no receiver and starts with its clock (R228, R229).
[log entry 40: DESIGN CHOICE] [log entry 40: DEDUCED] -/
def Dev.firstStage (d : Dev) (u k : Nat) : Nat :=
  match d.slotOf u k with
  | some r => if d.roleKind u r = 5 then 2 else 1
  | none => 1

/-- A lane starts again from its first stage, keeping nothing: no polarity, no skew, no adapted CTLE code (R237); a lane taken for test
stays there. -/
def Dev.laneRestart (d : Dev) (u k : Nat) : Dev :=
  if d.stage u k = 9 then d
  else
    let d := ((d.wr F.LANE_STAT_CDR 0 u k).wr F.LANE_STAT_BLOCK 0 u k).wr F.LANE_STAT_POLINV 0 u k
    ((d.wr F.LANE_STAT_SKEW 0 u k).wr F.LANE_CTLE_NOW 0 u k |>.setStage u k (d.firstStage u k)).putLane u k {}

/-- The events of a role: UP, DOWN, GIVEUP (0, 1, 2) of a pipe with FCAUSE and the slot, or of a Quadrille port (R249). -/
def Dev.roleEvent (d : Dev) (u r e : Nat) : Dev :=
  let syn := d.rd F.LANE_ROLE_STAT_FCAUSE u r * 2 ^ 25 + r
  if u = 4 then d.raise (530 + e) syn else d.raiseP u (29 + e) syn

/-! ### Attempts (R228, R229, R238) -/

/-- The interval that `LANE_RETRY` gives, in ms: out of contract applies the reset value. -/
def Dev.retryInt (d : Dev) (u : Nat) : Nat :=
  let v := d.rd F.LANE_RETRY_INT u
  if v < 10 then 0x32 else v

/-- The retry timer that `LANE_RETRY` gives, in 10 ms. -/
def Dev.retryTimer (d : Dev) (u : Nat) : Nat :=
  let v := d.rd F.LANE_RETRY_T u
  if v = 0 ∨ 1000 < v then 0xC8 else v

/-- The retry timer is armed at counter `t0` with interval `int` and time `timer` (R238). -/
def Dev.armRetry (d : Dev) (u r t0 int timer : Nat) : Dev := d.putRole u r { episode := true, t0 := t0, int := int, timer := timer }

/-- Whether a role has a receiver whose lanes pass the stages (all but SDI12). -/
def Dev.hasRx (d : Dev) (u r : Nat) : Bool := d.roleKind u r != 5

/-- A role as a new attempt leaves it: nothing of an earlier attempt is kept (R238). -/
def Role.fresh (x : Role) (run : Bool) : Role := { x with attempt := run, aligned := false, held := false, told := false, ts2At := none }

/-- An attempt starts: every lane begins at its first stage, and a lane whose signal is there passes SIGDET (R229). The first attempt from
WAIT takes INT and T as a loss would (R238). [log entry 40: DEDUCED] -/
def Dev.attemptStart (d : Dev) (u r : Nat) : Dev :=
  if !d.refOk u r then d
  else
    let x := (d.role u r).fresh true
    let d := (d.putRole u r (if x.episode then x else { x with first := d.c, int := d.retryInt u, timer := d.retryTimer u })).wr
      F.LANE_ROLE_STAT_ORDER 0 u r
    let d := (d.roleLanes u r).foldl (fun d k =>
      let d := d.laneRestart u k
      if d.on F.LANE_STAT_SIG u k && d.stage u k == 1 && d.roleKind u r != 2 then d.setStage u k 2 else d) d
    if x.episode then d.showLost u r else d.showRole u r 2

/-- The first attempt of a role in WAIT starts once signal detect is present on every lane; an SDI12 role's at once (R228). -/
def Dev.firstAttempt (d : Dev) (u r : Nat) : Dev :=
  if d.roleState u r = 1 ∧ (!d.hasRx u r || (d.roleLanes u r).all fun k => d.on F.LANE_STAT_SIG u k) then d.attemptStart u r
  else d

/-- A configured role enters WAIT (R223). -/
def Dev.roleWait (d : Dev) (u r : Nat) : Dev :=
  if d.roleKind u r = 0 then d
  else
    let d := (d.putRole u r {}).showRole u r 1
    ((d.roleLanes u r).foldl (fun d k => d.laneRestart u k) d).firstAttempt u r

/-- A role is OFF: nothing of it is kept and its lanes are idle (R223, R240). -/
def Dev.roleOff (d : Dev) (u r : Nat) (ks : List Nat) : Dev :=
  let d := (((d.putRole u r {}).showRole u r 0).wr F.LANE_ROLE_STAT_FCAUSE 0 u r).wr F.LANE_ROLE_STAT_ORDER 0 u r
  ks.foldl (fun d k => (d.laneRestart u k).setStage u k 0) d

/-- A running attempt ends with a cause. From WAIT the role then enters RETRY as if it had been lost when that first attempt
started, with the INT and T of that instant (R238). [log entry 40: DEDUCED] -/
def Dev.attemptFail (d : Dev) (u r cause : Nat) : Dev :=
  let x := d.role u r
  if x.attempt then
    let d := d.wr F.LANE_ROLE_STAT_FCAUSE cause u r
    let d := if x.episode then d.putRole u r (x.fresh false) else d.armRetry u r x.first x.int x.timer
    d.showLost u r
  else d

/-- A running attempt ends while the role is lost, FCAUSE keeping its cause (R240); from WAIT it ends with this cause. -/
def Dev.attemptCut (d : Dev) (u r cause : Nat) : Dev :=
  let x := d.role u r
  if x.attempt && x.episode then (d.putRole u r (x.fresh false)).showLost u r else d.attemptFail u r cause

/-- The cause with which an attempt ends for the stage in which a lane stands (R227, R229): NOSIG, CDR, EQ, BLOCK, POL or ID, SKEW; TEST for
a lane that is in test or has come back from it since the attempt started. -/
def Dev.stageCause (d : Dev) (u r k : Nat) : Nat :=
  match d.stage u k with
  | 1 => 1
  | 2 => 2
  | 3 => 3
  | 4 => 4
  | 5 => if (d.lane u k).settled || d.roleKind u r == 4 then 6 else 5
  | 6 => 9
  | 7 => 10
  | _ => 14

/-- The cause of an attempt that ends because the next one starts: that of the lane which came least far, the lowest of them (R227, R238).
[log entry 40: DEDUCED] -/
def Dev.lateCause (d : Dev) (u r : Nat) : Nat :=
  let ks := d.roleLanes u r
  let least := (ks.map fun k => d.stage u k).foldl min 9
  match ks.find? fun k => d.stage u k == least with
  | some k => d.stageCause u r k
  | none => 1

/-- An instant of R238: an attempt that is not ALIGNED ends and a new one starts; an ALIGNED one goes on once, then ends with TS2. [log entry 40: DEDUCED] -/
def Dev.attemptTick (d : Dev) (u r : Nat) : Dev :=
  let x := d.role u r
  let st := d.roleState u r
  if st = 0 ∨ st = 1 ∨ st = 4 then d
  else if x.attempt && x.aligned && !x.held then d.putRole u r { x with held := true }
  else if x.attempt then (d.attemptFail u r (if x.aligned then 10 else d.lateCause u r)).attemptStart u r
  else d.attemptStart u r

/-! ### Loss and expiry (R236 to R241) -/

/-- A role is lost from READY, or by R241 from ALIGNED: RETRY with the cause, LANE_DOWN, the count on lane `k`, the owner told,
every lane from its first stage, the lane order forgotten (R236, R237). In RETRY or DOWN the first cause and the timer stay (R240). -/
def Dev.roleLoss (d : Dev) (own : RoleOwner) (u r k cause : Nat) : Dev :=
  let d := (d.roleLanes u r).foldl (fun d j => d.laneRestart u j) (d.wr F.LANE_ROLE_STAT_ORDER 0 u r)
  if (d.role u r).episode then d.attemptCut u r cause
  else
    let d := (d.wr F.LANE_ROLE_STAT_FCAUSE cause u r).armRetry u r d.c (d.retryInt u) (d.retryTimer u)
    let d := (d.showRole u r 5).bump C.LANE_DOWN_CNT u k
    own (d.roleEvent u r 1) u r .lost

/-- A cause of R236 detected on lane `k`: in READY a loss; in an attempt that has passed SIGDET its end. -/
def Dev.laneCause (d : Dev) (own : RoleOwner) (u r k cause : Nat) : Dev :=
  if d.roleState u r = 4 then d.roleLoss own u r k cause
  else if (d.role u r).attempt && decide (2 ≤ d.stage u k) && d.stage u k != 9 then d.attemptCut u r cause
  else d

/-- The retry timer expires: DOWN, LANE_GIVEUP, and the owner acts; a running attempt goes on (R239). -/
def Dev.roleExpire (d : Dev) (own : RoleOwner) (u r : Nat) : Dev :=
  let x := d.role u r
  if x.episode && !x.down then own (((d.putRole u r { x with down := true }).showRole u r 6).roleEvent u r 2) u r .expired else d

/-- The role reaches READY (R233, R234): LANE_UP is raised and the owner told. -/
def Dev.roleReady (d : Dev) (own : RoleOwner) (u r : Nat) : Dev :=
  let d := (d.putRole u r {}).showRole u r 4
  let d := (d.roleLanes u r).foldl (fun d k => (d.setStage u k 8).putLane u k { d.lane u k with hdrs := [] }) d
  own (d.roleEvent u r 0) u r .ready

/-- A host retrain of a role (R241): in READY or ALIGNED a loss with cause HOST; in TRAIN, RETRY or DOWN the running attempt ends and a new
one starts at once. [log entry 40: DEDUCED] -/
def Dev.roleRetrain (d : Dev) (own : RoleOwner) (u r : Nat) : Dev :=
  let st := d.roleState u r
  if st = 4 ∨ st = 3 then d.roleLoss own u r ((d.roleLanes u r).headD 0) 13
  else if st = 2 ∨ st = 5 ∨ st = 6 then (d.attemptCut u r 13).attemptStart u r
  else d

/-- `LANE_CTL.RETRAIN`: each role named by a bit of one of its lanes, once. -/
def Dev.laneRetrain (d : Dev) (own : RoleOwner) (u mask : Nat) : Dev :=
  (List.range 7).foldl (fun d r =>
    if (d.roleLanes u r).any fun k => bit mask k then d.roleRetrain own u r else d) d

/-! ### The stages (R229 to R233) -/

/-- Whether lane `k` is in stage `v` of a running attempt of a role, and of which. -/
def Dev.inStage (d : Dev) (u k v : Nat) : Option Nat :=
  match d.slotOf u k with
  | some r => if (d.role u r).attempt && d.stage u k == v then some r else none
  | none => none

/-- Signal detect present for 1 µs (R229). -/
def Dev.laneSignal (d : Dev) (u k : Nat) : Dev :=
  let d := d.wr F.LANE_STAT_SIG 1 u k
  match d.slotOf u k with
  | some r =>
    if (d.role u r).attempt then (if d.stage u k = 1 ∧ d.hasRx u r ∧ d.roleKind u r ≠ 2 then d.setStage u k 2 else d)
    else d.firstAttempt u r
  | none => d

/-- Clock recovery locks (R235 step 2). -/
def Dev.laneCdr (d : Dev) (u k : Nat) : Dev :=
  match d.inStage u k 2 with
  | some r => if d.hasRx u r then (d.wr F.LANE_STAT_CDR 1 u k).setStage u k 3 else d
  | none => d

/-- The CTLE code is chosen: the eye monitor's, or MAN (R243). -/
def Dev.laneCtle (d : Dev) (u k v : Nat) : Dev :=
  match d.inStage u k 3 with
  | some _ =>
    (d.wr F.LANE_CTLE_NOW (if d.on F.LANE_CTLE_ADAPT u k then v else d.rd F.LANE_CTLE_MAN u k) u k).setStage u k 4
  | none => d

/-- Block lock (R229): the lane of an SLINK, QLINK or ETH100 role goes on to IDENT; that of an ETH25 role has no further stage and waits for
its PCS (R234). -/
def Dev.laneBlock (d : Dev) (u k : Nat) : Dev :=
  match d.inStage u k 4 with
  | some r => ((d.wr F.LANE_STAT_BLOCK 1 u k).setStage u k (if d.roleKind u r = 3 then 4 else 5)).putLane u k {}
  | none => d

/-- The number of lanes a role's training blocks must name. -/
def Dev.roleWidth (d : Dev) (u r : Nat) : Nat := (d.roleLanes u r).length

/-- The RATE a role's training blocks must carry (R226). -/
def Dev.roleRate (d : Dev) (u r : Nat) : Nat := if d.roleKind u r = 6 then 8 else d.rd F.LANE_SCFG_SRATE u + 1

/-- Whether a Quadrille port accepts its peer's PORT byte (R535); the sensor front end accepts any. -/
def Dev.portAccepts (d : Dev) (u r port : Nat) : Bool :=
  u != 4 || port / 64 % 4 == (if d.rd F.QDL_ID_DEVID = 0 then r + 1 else 0)

/-- The order of the lanes by the LIDs received: 0 straight, 1 reversed, 2 other. -/
def lidOrder (lids : List Nat) : Nat :=
  let n := lids.length
  if lids = List.range n then 0 else if lids = (List.range n).reverse then 1 else 2

/-- The earliest lane, from which no lane is more than 32 blocks behind; `offs` are block numbers less SEQ, modulo 256. -/
def earliest (offs : List Nat) : Option Nat :=
  offs.find? fun e => offs.all fun o => decide ((o + 256 - e) % 256 ≤ 32)

/-- Every lane of an SLINK or QLINK role has settled: identity across the lanes (R231), deskew (R232), ALIGNED (R233); a role in RETRY
or DOWN still shows that state (R228, R239). -/
def Dev.roleAlign (d : Dev) (own : RoleOwner) (u r : Nat) : Dev :=
  let ks := d.roleLanes u r
  if !ks.all fun k => d.stage u k == 6 then d
  else
    let lids := ks.map fun k => (d.lane u k).ident.1
    let ports := ks.map fun k => (d.lane u k).ident.2.2.2
    let distinct := lids.all fun l => (lids.filter (· == l)).length == 1
    if !distinct || !ports.all fun q => q == ports.headD 0 then d.attemptFail u r 6
    else
      match earliest (ks.map fun k => (d.lane u k).off) with
      | none => d.attemptFail u r 9
      | some e =>
        let d := ks.foldl (fun d k => (d.wr F.LANE_STAT_SKEW (((d.lane u k).off + 256 - e) % 256) u k).setStage u k 7) d
        let d := d.putRole u r { d.role u r with aligned := true, held := false }
        let d := if (d.role u r).episode then d else d.showRole u r 3
        own (d.wr F.LANE_ROLE_STAT_ORDER (lidOrder lids) u r) u r .aligned

/-- A good training block of lane `k` in IDENT: it counts towards polarity, then towards eight with the same fields; the eighth
is judged (R230, R231). -/
def Dev.laneIdent (d : Dev) (own : RoleOwner) (u r k : Nat) (b : TrainBlock) (slot : Nat) : Dev :=
  let x := d.lane u k
  let id := (b.lid, b.nlane, b.rate, b.port)
  let good := x.good + 1
  let same := if x.ident = id then x.same + 1 else 1
  let off := (slot + 256 - b.seq % 256) % 256
  let x := { x with good := good, inv := 0, settled := x.settled || decide (8 ≤ good), ident := id, same := same, off := off }
  let d := d.putLane u k x
  if x.settled && decide (8 ≤ same) then
    if b.nlane ≠ d.roleWidth u r then d.attemptFail u r 7
    else if b.rate ≠ d.roleRate u r then d.attemptFail u r 8
    else if b.nlane ≤ b.lid ∨ d.portAccepts u r b.port = false then d.attemptFail u r 6
    else (d.setStage u k 6).roleAlign own u r
  else d

/-- Shows the fields of the latest good training block. -/
def Dev.showTrain (d : Dev) (u k : Nat) (b : TrainBlock) : Dev :=
  ((d.wr F.LANE_STAT_LID b.lid u k).wr F.LANE_STAT_NLANE b.nlane u k).wr F.LANE_STAT_PORT b.port u k

/-- Whether the far end of a role may send TS2: the module of an SLINK once it has been told, a Quadrille port once it is ALIGNED itself
(R227, R233). -/
def Dev.ts2Due (d : Dev) (u r : Nat) : Bool := (d.role u r).told || d.roleKind u r == 6

/-- A Quadrille port sends TS2 once it is ALIGNED and has RDY from the far end on both lanes (R233). -/
def Dev.qlinkTs2 (d : Dev) (u r : Nat) : Dev :=
  let x := d.role u r
  if d.roleKind u r = 6 ∧ x.aligned ∧ x.ts2At.isNone ∧ (d.roleLanes u r).all fun k => (d.lane u k).rdy then
    d.putRole u r { x with ts2At := some d.c }
  else d

/-- A good training block, in the polarity the lane reads, arrives (R230 to R233, R236). [log entry 40: DEDUCED] -/
def Dev.laneTrain (d : Dev) (own : RoleOwner) (u r k : Nat) (b : TrainBlock) (slot : Nat) : Dev :=
  let x := d.lane u k
  if d.roleState u r = 4 then d.roleLoss own u r k 10
  else if !(d.role u r).attempt then d
  else if d.stage u k = 5 then (d.showTrain u k b).laneIdent own u r k b slot
  else if d.stage u k = 6 ∨ d.stage u k = 7 then
    ((d.showTrain u k b).putLane u k
      { x with off := (slot + 256 - b.seq % 256) % 256, ts2 := if b.ts2 && d.ts2Due u r then x.ts2 + 1 else 0, done := false, rdy := b.rdy,
               blocks := [], scr := none }).qlinkTs2 u r
  else d

/-- A good training block in the other polarity: eight in a row before the polarity has settled invert the lane (R230). -/
def Dev.laneInvert (d : Dev) (u k : Nat) : Dev :=
  let x := d.lane u k
  if x.inv + 1 < 8 then d.putLane u k { x with inv := x.inv + 1, good := 0, same := 0 }
  else (d.wrb F.LANE_STAT_POLINV (!d.on F.LANE_STAT_POLINV u k) u k).putLane u k { x with inv := 0, good := 8, settled := true, same := 0 }

/-- A block after training goes through the lane's descrambler and waits for those of the other lanes (R225, R250). What the descrambler
holds when it begins is a free value. -/
def Dev.laneKeep (d : Dev) (u k : Nat) (b : RxBlock) : Dev :=
  let (h, d) := match (d.lane u k).scr with
    | some h => (h, d)
    | none => let (v, d) := d.draw; (v % 2 ^ 58, d)
  let x := d.lane u k
  let r := descramble 64 h b.pay
  d.putLane u k { x with scr := some r.2, blocks := x.blocks ++ [⟨b.hdr, r.1⟩] }

/-- The lanes of a role in the order of their LIDs (R231). -/
def Dev.logicalLanes (d : Dev) (u r : Nat) : List Nat :=
  let ks := d.roleLanes u r
  (List.range ks.length).filterMap fun j => ks.find? fun k => (d.lane u k).ident.1 == j

/-- Rows of which every lane has its block go to the owner (R231, R250). -/
def Dev.rowsOut (d : Dev) (own : RoleOwner) (u r : Nat) : Nat → Dev
  | 0 => d
  | fuel + 1 =>
    let ks := d.logicalLanes u r
    if ks.any fun k => (d.lane u k).blocks.isEmpty then d
    else
      let row := ks.map fun k => (d.lane u k).blocks.headD {}
      let d := ks.foldl (fun d k => let x := d.lane u k; d.putLane u k { x with blocks := x.blocks.drop 1 }) d
      (own d u r (.row row)).rowsOut own u r fuel

/-- A block that is not a training block arrives (R230, R233, R236). In READY its sync header is judged and the block goes to the owner, an
invalid one marked as errored; after 16 TS2 in ALIGNED it completes the lane. -/
def Dev.laneData (d : Dev) (own : RoleOwner) (u r k : Nat) (b : RxBlock) : Dev :=
  let link := d.roleKind u r == 1 || d.roleKind u r == 6
  let x := d.lane u k
  if d.roleState u r = 4 then
    let hdrs := (blkValid b :: x.hdrs).take 64
    let d := d.putLane u k { x with hdrs := hdrs }
    let d := if blkValid b then d else d.bump C.LANE_HDR_ERR u k
    if 16 ≤ (hdrs.filter fun v => !v).length then d.roleLoss own u r k 12
    else if link then (d.laneKeep u k b).rowsOut own u r 1
    else d
  else if !(d.role u r).attempt || !link then d
  else if d.stage u k = 5 then d.putLane u k { x with good := 0, inv := 0, same := 0 }
  else if d.stage u k = 7 then
    if x.done || decide (16 ≤ x.ts2) then
      let d := (d.putLane u k { x with done := true }).laneKeep u k b
      if (d.roleLanes u r).all fun j => (d.lane u j).done && d.stage u j == 7 then
        (d.roleReady own u r).rowsOut own u r ((d.lane u k).blocks.length + 64)
      else d
    else d.putLane u k { x with ts2 := 0 }
  else d

/-- The block a lane hands on: what was received, turned over where the lane's polarity is (R231). -/
def Dev.laneBlk (d : Dev) (u k : Nat) (raw : BitVec 66) : RxBlock :=
  if d.on F.LANE_STAT_POLINV u k then blkInv (rxBlock raw) else rxBlock raw

/-- A block arrives on lane `k`, 66 bits as they cross the wire (R225). A training block is known by its CRC; one with a bad CRC restarts the
counts of IDENT and otherwise is a block like any other (R230). The bits of a link role alone are read. -/
def Dev.laneRx (d : Dev) (own : RoleOwner) (u k : Nat) (raw : BitVec 66) (slot : Nat) : Dev :=
  match d.slotOf u k with
  | none => d
  | some r =>
    if d.roleKind u r = 2 ∨ d.roleKind u r = 5 then d
    else
      let b := d.laneBlk u k raw
      let good := fun (t : TrainBlock) => t.crcOk && (d.roleKind u r == 1 || d.roleKind u r == 6)
      match (trainOf b).filter good with
      | some t => d.laneTrain own u r k t slot
      | none =>
        if ((trainOf (blkInv b)).filter good).isSome && (d.role u r).attempt && d.stage u k == 5 && !(d.lane u k).settled then
          d.laneInvert u k
        else d.laneData own u r k b

/-- The bound of lane `k`'s stage passes: the attempt fails with the stage's cause (R229, R230, R235); SIGDET and the wait for the PCS of an
ETH25 role have none. [log entry 40: DEDUCED] -/
def Dev.laneBound (d : Dev) (u k : Nat) : Dev :=
  match d.slotOf u k with
  | none => d
  | some r =>
    let st := d.stage u k
    if (d.role u r).attempt ∧ 2 ≤ st ∧ st ≤ 6 ∧ !(st == 4 && d.on F.LANE_STAT_BLOCK u k) then d.attemptFail u r (d.stageCause u r k) else d

/-- The CTLE code in READY (R243): tracking follows the eye monitor one step, a changed target is approached one step. -/
def Dev.laneTrack (d : Dev) (u k dir : Nat) : Dev :=
  let now := d.rd F.LANE_CTLE_NOW u k
  let up := if now < 31 then now + 1 else 31
  if d.stage u k ≠ 8 then d
  else if d.on F.LANE_CTLE_ADAPT u k then
    if d.on F.LANE_CTLE_FREEZE u k then d
    else d.wr F.LANE_CTLE_NOW (if dir = 1 then up else if dir = 2 then now - 1 else now) u k
  else
    let man := d.rd F.LANE_CTLE_MAN u k
    d.wr F.LANE_CTLE_NOW (if now < man then up else if man < now then now - 1 else now) u k

/-! ### Reference inputs (R221) -/

/-- Whether input `i` of a lane set is declared. -/
def Dev.refDeclared (d : Dev) (u i : Nat) : Bool :=
  if u = 4 then i == 0
  else if i = 2 then d.on F.LANE_REFCFG_SREF u
  else if i = 1 then d.rd F.LANE_REFCFG_FREFB u != 0
  else d.rd F.LANE_REFCFG_FREFA u != 0

/-- The monitor's check of one input. A fault ends READY for the roles that use it; after ten good checks in a row, a
millisecond, their attempts may start again. While REFCLK_TIME is in fault the last verdict stands. [log entry 40: DEDUCED] -/
def Dev.refCheck (d : Dev) (own : RoleOwner) (u i : Nat) (good : Bool) : Dev :=
  if d.on F.TIME_STAT_REFFAULT || !d.refDeclared u i then d
  else
    let ok := d.rd F.LANE_REFSTAT_OK u
    if good then
      let n := min 10 (Tab.get 0 (d.lns u).good i + 1)
      let d := d.wr F.LANE_REFSTAT_OK (setBit ok i) u
      let d := d.updLns u fun l =>
        { l with good := Tab.set 0 l.good i n, bad := if n = 10 then l.bad.filter (· != i) else l.bad }
      (List.range 7).foldl (fun d r => if d.roleRef u r == some i then d.firstAttempt u r else d) d
    else
      let was := (d.lns u).bad.contains i && Tab.get 0 (d.lns u).good i == 0
      let d := d.wr F.LANE_REFSTAT_OK (clrBit ok i) u
      let d := d.wr F.LANE_REFSTAT_FAULT (setBit (d.rd F.LANE_REFSTAT_FAULT u) i) u
      let d := d.updLns u fun l => { l with good := Tab.set 0 l.good i 0, bad := insertNum i l.bad }
      if was then d
      else
        let d := if u = 4 then d.raise 533 0 else d.raiseP u 32 i
        (List.range 7).foldl (fun d r =>
          if d.roleRef u r == some i then
            if d.roleState u r = 4 then d.roleLoss own u r ((d.roleLanes u r).headD 0) 11 else d.attemptCut u r 11
          else d) d

/-! ### Test patterns (R244 to R248) -/

/-- Whether a transmitter setting is within its limits (R244). -/
def firOk (w : Nat) : Bool :=
  let pre := slice w 3 0
  let main := slice w 13 8
  let post := slice w 20 16
  decide (16 ≤ main) && decide (pre + post < main) && decide (pre + main + post ≤ 63)

/-- A write of `LANE_TXFIR`. -/
def Dev.txfir (d : Dev) (u k w : Nat) : Dev :=
  if (u ≠ 4 ∧ k < 6) ∨ firOk w = false then d else d.wrWord ⟨.LANE_TXFIR, u, k, 0⟩ w

/-- Whether a TRATE belongs to the lane's group. -/
def trateOk (u k t : Nat) : Bool :=
  if u = 4 then t == 8 else if k < 6 then decide (1 ≤ t) && decide (t ≤ 4) else decide (5 ≤ t) && decide (t ≤ 8)

/-- What a module is asked to send (R264): PRBS with EN, INV and PAT in [7:0], PRBS_RATE in [15:8]. [log entry 41: DEDUCED] -/
def prbsRequest (w : Nat) : Nat :=
  let pat := slice w 2 0
  0x80 + slice w 29 29 * 0x40 + (if 5 ≤ pat then 4 else pat) + 256 * slice w 19 16

/-- A write of `LANE_PRBS_CTL` (R246, R247). [log entry 41: DEDUCED] -/
def Dev.prbsCtl (d : Dev) (own : RoleOwner) (u k w : Nat) : Dev :=
  let sensor := decide (u < 4) && decide (k < 6)
  let was := d.on F.LANE_PRBS_CTL_TEST u k
  let chk := d.on F.LANE_PRBS_CTL_CHK_EN u k
  let slot := d.slotOf u k
  let taken := sensor && slot.isSome && d.on F.PCTL_STAT_TAKE u && !was
  let refused := bit w 27 && (taken || !trateOk u k (slice w 19 16))
  let test := if refused then was else bit w 27
  let d := d.when refused fun d => d.wr F.LANE_PRBS_STAT_REFUSED 1 u k
  let d := ((d.wr F.LANE_PRBS_CTL_CHK_EN (slice w 31 31) u k).wr F.LANE_PRBS_CTL_INV (slice w 29 29) u k).wr
    F.LANE_PRBS_CTL_TRATE (slice w 19 16) u k
  let d := (d.wr F.LANE_PRBS_CTL_PAT (slice w 2 0) u k).wrb F.LANE_PRBS_CTL_TEST test u k
  let d := if sensor then d
    else (d.wr F.LANE_PRBS_CTL_GEN_EN (slice w 30 30) u k).wr F.LANE_PRBS_CTL_LOOP (slice w 28 28) u k
  let d := if bit w 31 && !chk then (d.clearCnt C.LANE_PRBS_ERR u k).clearCnt C.LANE_PRBS_BITS u k else d
  let d := if test && bit w 31 then d else d.wr F.LANE_PRBS_STAT_LOCK 0 u k
  let d := if test && bit w 31 && chk then d else d.putLane u k { d.lane u k with chk := {} }
  let d := if sensor && test then d.updPipe u fun s => { s with sfe := { s.sfe with prbs := prbsRequest w } }
    else if sensor && was then d.updPipe u fun s => { s with sfe := { s.sfe with prbs := s.sfe.prbs - s.sfe.prbs / 128 % 2 * 128 } }
    else d
  if test && !was then
    let d := match slot with
      | some r => if d.roleState u r = 4 then d.roleLoss own u r k 14 else if (d.role u r).attempt then d.attemptCut u r 14 else d
      | none => d
    d.setStage u k 9
  else if was && !test then (d.putLane u k {}).setStage u k 0
  else d

/-- The bits a lane in test receives, inverted by the RXPOL of a flex lane that has not the role SDI12; with LOOP, those of its own
generator (R246), whose register begins with a free value other than 0.
[log entry 3: DESIGN CHOICE; log entry 41: DEDUCED] -/
def Dev.prbsIn (d : Dev) (u k : Nat) (rx : List Bool) : List Bool × Dev :=
  if d.on F.LANE_PRBS_CTL_LOOP u k && d.on F.LANE_PRBS_CTL_GEN_EN u k then
    let pat := d.rd F.LANE_PRBS_CTL_PAT u k
    let (h, d) := match (d.lane u k).gen with
      | some h => (h, d)
      | none => let (v, d) := d.draw; (v % (2 ^ (prbsPoly pat).1 - 1) + 1, d)
    let r := prbsGen pat (d.on F.LANE_PRBS_CTL_INV u k) rx.length h
    (r.1, d.putLane u k { d.lane u k with gen := some r.2 })
  else
    let sdi := match d.slotOf u k with | some r => d.roleKind u r == 5 | none => false
    let flip := decide (u ≠ 4) && decide (6 ≤ k) && !sdi && d.on F.LANE_FCFG_RXPOL u (k - 6)
    (rx.map fun b => b != flip, d)

/-- One bit at the checker of a lane (R247): while it is locked every bit compared is counted, and every wrong one. -/
def Dev.prbsBit (d : Dev) (u k : Nat) (b : Bool) : Dev :=
  let (seen, c) := (d.lane u k).chk.rx (d.rd F.LANE_PRBS_CTL_PAT u k) (b != d.on F.LANE_PRBS_CTL_INV u k)
  let d := d.putLane u k { d.lane u k with chk := c }
  match seen with
  | .none => d
  | .right => d.bump C.LANE_PRBS_BITS u k
  | .wrong => (d.bump C.LANE_PRBS_BITS u k).bump C.LANE_PRBS_ERR u k
  | .lost => ((d.bump C.LANE_PRBS_BITS u k).bump C.LANE_PRBS_ERR u k).wr F.LANE_PRBS_STAT_SLOSS 1 u k

/-- The `n` bits a lane has received: those of `sent`, bit 0 first, of which the wire has turned those set in `flips`. [log entry 41: DEDUCED] -/
def rxBits (n sent flips : Nat) : List Bool := (List.range n).map fun i => bit sent i != bit flips i

/-- The checker has compared the bits received since the last such command (R247). [log entry 41: DEDUCED] -/
def Dev.prbsLock (d : Dev) (u k : Nat) (rx : List Bool) : Dev :=
  if d.on F.LANE_PRBS_CTL_TEST u k && d.on F.LANE_PRBS_CTL_CHK_EN u k then
    let (bits, d) := d.prbsIn u k rx
    let d := bits.foldl (fun d b => d.prbsBit u k b) d
    d.wrb F.LANE_PRBS_STAT_LOCK (d.lane u k).chk.lock u k
  else d

/-- A write of `LANE_SNAP`: ERR and BITS of the named lanes with their SAT bits, at one instant (R248). -/
def Dev.laneSnap (d : Dev) (u mask : Nat) : Dev :=
  (bitsOf mask (if u = 4 then 6 else 12)).foldl (fun d k =>
    let d := (d.wr F.LANE_SNAP_ERR_LO_CNT_LO (d.rd F.LANE_PRBS_ERR_LO_CNT_LO u k) u k).wr
      F.LANE_SNAP_ERR_HI_CNT_HI (d.rd F.LANE_PRBS_ERR_HI_CNT_HI u k) u k
    let d := (d.wr F.LANE_SNAP_ERR_HI_SAT (d.rd F.LANE_PRBS_ERR_HI_SAT u k) u k).wr
      F.LANE_SNAP_BITS_LO_CNT_LO (d.rd F.LANE_PRBS_BITS_LO_CNT_LO u k) u k
    (d.wr F.LANE_SNAP_BITS_HI_CNT_HI (d.rd F.LANE_PRBS_BITS_HI_CNT_HI u k) u k).wr
      F.LANE_SNAP_BITS_HI_SAT (d.rd F.LANE_PRBS_BITS_HI_SAT u k) u k) d

/-- Time since the loss in 10 ms, saturating; 0 when the role is not lost (R239). [log entry 40: DEDUCED] -/
def Dev.roleElapsed (d : Dev) (u r : Nat) : Nat :=
  let x := d.role u r
  if x.episode then min 0xFFFF (cSince x.t0 d.c / 2560000000) else 0

/-! ### Transmitters (R223, R227, R233, R244 to R246) -/

/-- What a transmitter sends: nothing, a training block, a test pattern, or the data of the role's owner, the last two inverted or not. -/
inductive LaneTx where
  | idle | train (b : BitVec 66) | prbs (pat : Nat) (inv : Bool) | data (inv : Bool)
deriving DecidableEq, Repr

/-- How many blocks a Quadrille lane sends in a time of 2⁻⁸ ns at 28.125 Gbit/s. -/
def qlinkBlocks (t : Nat) : Nat := t * 28125 / (66 * 256 * 1000)

/-- The training block that lane `l` of Quadrille port `r` sends with sequence number `seq`: TS1, with RDY once the port is ALIGNED, then 16
TS2 (R226, R227, R233, R535); none once data has begun. -/
def Dev.qlinkBlock (d : Dev) (r l seq : Nat) : Option TrainBlock :=
  let x := d.role 4 r
  let t : TrainBlock := { lid := l, nlane := 2, rate := 8, seq := seq % 256, rdy := x.aligned, port := d.rd F.QDL_ID_DEVID * 64 + r * 16 }
  if d.roleState 4 r = 4 then none
  else
    match x.ts2At with
    | none => some t
    | some c => if qlinkBlocks (cSince c d.c) < 16 then some { t with ts2 := true } else none

/-- What the transmitter of lane `k` sends, in the block with sequence number `seq` where it trains. A lane with no role is at electrical
idle (R223), and so are its pins with LOOP set (R246); a lost Hub's Quadrille ports are idle (R536); a sensor lane has no transmitter. TXPOL inverts a flex lane's. -/
def Dev.laneTx (d : Dev) (u k seq : Nat) : LaneTx :=
  let flip := decide (u ≠ 4) && d.on F.LANE_FCFG_TXPOL u (k - 6)
  if u ≠ 4 ∧ k < 6 then .idle
  else if d.on F.LANE_PRBS_CTL_TEST u k then
    if d.on F.LANE_PRBS_CTL_LOOP u k || !d.on F.LANE_PRBS_CTL_GEN_EN u k then .idle
    else .prbs (d.rd F.LANE_PRBS_CTL_PAT u k) (d.on F.LANE_PRBS_CTL_INV u k != flip)
  else
    match d.slotOf u k with
    | none => .idle
    | some r =>
      if d.roleState u r = 0 ∨ (u = 4 ∧ d.hub.lost) then .idle
      else if u = 4 then (match d.qlinkBlock r (k % 2) seq with | some t => .train (blkWire t.block) | none => .data false)
      else .data flip

/-- The taps a transmitter uses: those of `LANE_TXFIR`; an SDI12 lane uses PRE 0 and POST 0 whatever the fields hold (R244). -/
def Dev.txTaps (d : Dev) (u k : Nat) : Nat × Nat × Nat :=
  let sdi := match d.slotOf u k with | some r => d.roleKind u r == 5 | none => false
  (if sdi then 0 else d.rd F.LANE_TXFIR_PRE u k, d.rd F.LANE_TXFIR_MAIN u k, if sdi then 0 else d.rd F.LANE_TXFIR_POST u k)

/-- The output amplitudes in mV, peak-to-peak differential: of a run of equal bits, and of the bit after a transition (R244). -/
def Dev.txAmplitude (d : Dev) (u k : Nat) : Nat × Nat :=
  let t := d.txTaps u k
  (roundDiv (1000 * (t.2.1 - t.1 - t.2.2)) 63, roundDiv (1000 * (t.1 + t.2.1 + t.2.2)) 63)

end Sys2Proof.Machine
end

