-- ==== Sys2Proof/Machine/Half.lean ====
section
/-!
DEFINITION. Binary16 arithmetic as R147 states it: exact dyadic results, rounded once to nearest even, subnormals flushed
to zero with their sign, NaN results 0x7E00, overflow by SAT. Where the sign of a zero or the handling of an input is not
stated, IEEE 754 as R147 names it decides (log entry 12).
-/
namespace Sys2Proof.Config

/-- Which of the codes within 1 ulp of the exact result RCP, RSQ, LOG2 or EXP2 answers, for the opcode and the operand's code: R147
states no more (log entry 13). [log entry 13: DEDUCED] -/
opaque halfUlp : (opc a : Nat) → Nat

end Sys2Proof.Config

namespace Sys2Proof.Machine

/-- A binary16 value: NaN, an infinity, or (−1)^s · m · 2^e. -/
inductive HalfVal where
  | nan
  | inf (s : Bool)
  | num (s : Bool) (m : Nat) (e : Int)
deriving DecidableEq, Repr

/-- The value of a code; a subnormal input is flushed to zero, its sign kept. -/
def HalfVal.ofCode (h : Nat) : HalfVal :=
  let s := bit h 15
  let ex := slice h 14 10
  let fr := slice h 9 0
  if ex = 31 then (if fr = 0 then .inf s else .nan)
  else if ex = 0 then .num s 0 0
  else .num s (1024 + fr) ((ex : Int) - 25)

/-- The quiet NaN a NaN result is; with SAT set a NaN gives 0. -/
def halfNan (sat : Bool) : Nat := if sat then 0 else 0x7E00

/-- The code of an overflow of sign `s`. -/
def halfOver (sat s : Bool) : Nat := b2n s * 0x8000 + (if sat then 0x7BFF else 0x7C00)

/-- `m · 2^k` for `k ≥ 0`; otherwise `m / 2^(−k)` rounded to nearest, ties to even. -/
def rneScale (m : Nat) (k : Int) : Nat :=
  if 0 ≤ k then m * 2 ^ k.toNat
  else
    let t := (-k).toNat
    let q := m / 2 ^ t
    let r := m % 2 ^ t
    if 2 ^ t < 2 * r || (2 * r == 2 ^ t && q % 2 == 1) then q + 1 else q

/-- The code of (−1)^s · m · 2^e rounded once (R147). [log entry 12: DEDUCED] -/
def halfRound (sat s : Bool) (m : Nat) (e : Int) : Nat :=
  if m = 0 then b2n s * 0x8000
  else
    let top : Int := (Nat.log2 m : Int) + e
    let q : Int := (if top < -14 then -14 else top) - 10
    let mant := rneScale m (e - q)
    if mant < 1024 then b2n s * 0x8000
    else
      let c := (q + 24).toNat * 1024 + mant
      if 0x7C00 ≤ c then halfOver sat s else b2n s * 0x8000 + c

/-- The code of a value times 2^k, rounded once. -/
def HalfVal.toCode (sat : Bool) (k : Int) : HalfVal → Nat
  | .nan => halfNan sat
  | .inf s => b2n s * 0x8000 + 0x7C00
  | .num s m e => halfRound sat s m (e + k)

/-- The signed integer of a number in units of 2^u, for u at most its exponent. -/
def halfUnits (s : Bool) (m : Nat) (e u : Int) : Int :=
  let v : Int := ((m * 2 ^ (e - u).toNat : Nat) : Int)
  if s then -v else v

/-- The negation. -/
def HalfVal.neg : HalfVal → HalfVal
  | .nan => .nan
  | .inf s => .inf (!s)
  | .num s m e => .num (!s) m e

/-- The magnitude. -/
def HalfVal.abs : HalfVal → HalfVal
  | .nan => .nan
  | .inf _ => .inf false
  | .num _ m e => .num false m e

/-- The exact sum. An exact zero sum of non-zero or unlike-signed terms is +0. -/
def HalfVal.add : HalfVal → HalfVal → HalfVal
  | .nan, _ => .nan
  | _, .nan => .nan
  | .inf s, .inf t => if s = t then .inf s else .nan
  | .inf s, _ => .inf s
  | _, .inf t => .inf t
  | .num s m e, .num t n f =>
    let u := if e < f then e else f
    let x := halfUnits s m e u + halfUnits t n f u
    if x = 0 then .num (s && t && m == 0 && n == 0) 0 0 else .num (decide (x < 0)) x.natAbs u

/-- The exact product. -/
def HalfVal.mul : HalfVal → HalfVal → HalfVal
  | .nan, _ => .nan
  | _, .nan => .nan
  | .inf s, .inf t => .inf (s != t)
  | .inf s, .num t n _ => if n = 0 then .nan else .inf (s != t)
  | .num s m _, .inf t => if m = 0 then .nan else .inf (s != t)
  | .num s m e, .num t n f => .num (s != t) (m * n) (e + f)

/-- Whether `a < b`; a comparison with a NaN is false. -/
def HalfVal.lt : HalfVal → HalfVal → Bool
  | .nan, _ => false
  | _, .nan => false
  | .inf s, .inf t => s && !t
  | .inf s, _ => s
  | _, .inf t => !t
  | .num s m e, .num t n f =>
    let u := if e < f then e else f
    decide (halfUnits s m e u < halfUnits t n f u)

/-- Whether `a = b`; a comparison with a NaN is false. -/
def HalfVal.eqv (a b : HalfVal) : Bool := a != .nan && b != .nan && !a.lt b && !b.lt a

/-- The smaller of two values, NaN where either is one. -/
def HalfVal.min (a b : HalfVal) : HalfVal := if a = .nan || b = .nan then .nan else if b.lt a then b else a

/-- The larger of two values, NaN where either is one. -/
def HalfVal.max (a b : HalfVal) : HalfVal := if a = .nan || b = .nan then .nan else if a.lt b then b else a

/-- The integer nearest to a value times 2^k, halves upward; NaN gives 0, an infinity the end of the range (R147). [log entry 12: DEDUCED] -/
def HalfVal.toInt (lo hi : Int) (k : Int) : HalfVal → Int
  | .nan => 0
  | .inf s => if s then lo else hi
  | .num s m e =>
    let x := e + k
    if 0 ≤ x then halfUnits s m x 0
    else (2 * halfUnits s m 0 0 + ((2 ^ (-x).toNat : Nat) : Int)) / ((2 ^ ((-x).toNat + 1) : Nat) : Int)

/-! ### RCP, RSQ, LOG2 and EXP2 (R147) -/

/-- The fraction and exponent of a positive code: its value is `m · 2^e`. -/
def halfParts (c : Nat) : Nat × Int :=
  if c < 1024 then (c, -24) else (1024 + c % 1024, ((c / 1024 : Nat) : Int) - 25)

/-- The largest of the 2¹⁵ non-negative codes for which `le` holds, where `le` holds up to some value and not beyond: bit by bit from the
highest. [log entry 13: DEDUCED] -/
def halfSearch (le : Nat → Bool) : Nat := (List.range 15).foldr (fun k c => if le (c + 2 ^ k) then c + 2 ^ k else c) 0

/-- Whether `m · 2^e ≤ 1`. -/
def leOne (m : Nat) (e : Int) : Bool := decide (m * 2 ^ e.toNat ≤ 2 ^ (-e).toNat)

/-- Whether `m^(2^t) ≤ 2^y`. -/
def powLe (m t : Nat) (y : Int) : Bool :=
  let l : Int := ((Nat.log2 (m ^ 2 ^ t) : Nat) : Int)
  decide (m = 0) || decide (l < y) || (decide (l = y) && m == 2 ^ Nat.log2 m)

/-- Whether a code is at most `1 / (m · 2^e)`, for `m` positive. [log entry 13: DEDUCED] -/
def rcpLe (m : Nat) (e : Int) (c : Nat) : Bool := let (n, f) := halfParts c; leOne (n * m) (f + e)

/-- Whether a code is at most `1 / √(m · 2^e)`. [log entry 13: DEDUCED] -/
def rsqLe (m : Nat) (e : Int) (c : Nat) : Bool := let (n, f) := halfParts c; leOne (n * n * m) (2 * f + e)

/-- Whether a code is at most the magnitude of `log₂ (m · 2^e)`: `2^(n · 2^f)` against `m · 2^e`, both raised to the power `2^t` that makes
the exponent whole. [log entry 13: DEDUCED] -/
def logLe (m : Nat) (e : Int) (c : Nat) : Bool :=
  let (n, f) := halfParts c
  let t := (-f).toNat
  let y : Int := ((n * 2 ^ (f + t).toNat : Nat) : Int)
  let u : Int := e * ((2 ^ t : Nat) : Int)
  if ((Nat.log2 m : Nat) : Int) + e < 0 then powLe m t (-y - u)
  else decide (y ≤ ((Nat.log2 (m ^ 2 ^ t) : Nat) : Int) + u)

/-- Whether a code is at most `2^x` for x = ±`m · 2^e`. Nearer to 0 than 2⁻¹¹, `2^x` lies within one code of 1. [log entry 13: DEDUCED] -/
def expLe (s : Bool) (m : Nat) (e : Int) (c : Nat) : Bool :=
  let (n, f) := halfParts c
  if ((Nat.log2 m : Nat) : Int) + e < -11 then decide (c ≤ if s then 0x3BFF else 0x3C00)
  else
    let t := (-e).toNat
    let x : Int := ((m * 2 ^ (e + t).toNat : Nat) : Int)
    powLe n t ((if s then -x else x) - f * ((2 ^ t : Nat) : Int))

/-- A code within 1 ulp of a positive result: the largest one at most the exact result, the next, or, where that one is exact, the one
before; subnormals are flushed and an overflow goes by SAT. [log entry 13: DEDUCED] -/
def halfNear (opc a : Nat) (sat s exact : Bool) (le : Nat → Bool) : Nat :=
  let lo := halfSearch le
  let k := Config.halfUlp opc a
  let c := if exact then lo + k % 3 - 1 else lo + k % 2
  if c < 0x400 then b2n s * 0x8000 else if 0x7C00 ≤ c then halfOver sat s else b2n s * 0x8000 + c

end Sys2Proof.Machine
end

