-- ==== Sys2Proof/Machine/Alu.lean ====
section
/-!
DEFINITION. The micro-op of a Trellis element and its operations (R138, R144 to R147), on operand words.
-/
namespace Sys2Proof.Machine

/-- A decoded micro-op word (R138). -/
structure Uop where
  opc : Nat
  fmt : Nat
  lane : Nat
  sat : Bool
  last : Bool
  sh : Nat
  dst : Nat
  dwr : Bool
  out : Nat
  a : Nat
  b : Nat
  c : Nat
deriving DecidableEq, Repr

/-- The fields of a micro-op word (R138). -/
def Uop.ofWord (w : Nat) : Uop :=
  { opc := slice w 63 58, fmt := slice w 57 56, lane := slice w 55 54, sat := bit w 53, last := bit w 52,
    sh := slice w 51 48, dst := slice w 47 45, dwr := bit w 44, out := slice w 43 42,
    a := slice w 39 35, b := slice w 34 30, c := slice w 29 25 }

/-- Which operands an operation uses: A, B, C as sources (R139, R144). -/
def opUses (opc : Nat) : Bool × Bool × Bool :=
  match opc with
  | 0x00 => (false, false, false)
  | 0x01 => (true, false, false)
  | 0x05 => (true, true, true)
  | 0x08 => (true, false, false)
  | 0x0A => (true, false, false)
  | 0x0B => (true, false, false)
  | 0x0F => (true, true, true)
  | 0x12 => (true, true, true)
  | 0x13 => (true, false, false)
  | 0x16 => (true, false, false)
  | 0x17 => (true, false, false)
  | 0x18 => (true, false, false)
  | 0x19 => (true, false, false)
  | 0x1A => (true, false, false)
  | 0x1B => (true, false, false)
  | 0x1C => (true, true, true)
  | 0x20 => (false, false, false)
  | 0x21 => (true, false, false)
  | _ => (true, true, false)

/-- The cost of an operation in paces (R144). -/
def opCost (opc : Nat) : Nat := if 0x18 ≤ opc ∧ opc ≤ 0x1B then 2 else 1

/-- Whether an operation code exists (R144). -/
def opDefined (opc : Nat) : Bool := decide (opc ≤ 0x1D) || opc == 0x20 || opc == 0x21

/-- Whether the operation table allows a format (codes U16 0, S16 1, F16 2, A32 3) for an operation. -/
def opFmtOk (opc fmt : Nat) : Bool :=
  match opc with
  | 0x04 => fmt != 3
  | 0x05 => fmt != 3
  | 0x08 => fmt != 0
  | 0x09 => fmt != 3
  | 0x0A => fmt != 2
  | 0x0B => fmt != 2
  | 0x10 => fmt != 3
  | 0x11 => fmt != 3
  | 0x16 => decide (fmt ≤ 1)
  | 0x17 => decide (fmt ≤ 1)
  | 0x18 => fmt == 2
  | 0x19 => fmt == 2
  | 0x1A => fmt == 2
  | 0x1B => fmt == 2
  | 0x1C => fmt == 3
  | 0x1D => decide (fmt ≤ 1)
  | _ => true

/-- Whether R145 demands LANE 0 for the operation and format. -/
def opWholeWord (opc fmt : Nat) : Bool :=
  fmt == 3 || opc == 0x13 || opc == 0x14 || opc == 0x15 || opc == 0x1C || opc == 0x1D || opc == 0x20 || opc == 0x21

/-- An exact result reduced to an integer format of `w` bits: clamped with SAT, otherwise modulo 2^w (R146). -/
def reduceInt (w : Nat) (sgn sat : Bool) (x : Int) : Nat :=
  if sat then
    if sgn then satCode w x else (clampI 0 ((2 ^ w : Nat) - 1) x).toNat
  else code w x

/-- An exact integer shifted right with the rounding of R146. -/
def shrRound (x : Int) (sh : Nat) : Int :=
  if sh = 0 then x else (x + ((2 ^ (sh - 1) : Nat) : Int)) / ((2 ^ sh : Nat) : Int)

/-- The integer arithmetic of one value of `w` bits, signed or not, on exact operand values. -/
def intOp (w : Nat) (sgn : Bool) (u : Uop) (a b c : Int) (craw : Nat) : Nat :=
  let red := reduceInt w sgn u.sat
  match u.opc with
  | 0x01 => red a
  | 0x02 => red (a + b)
  | 0x03 => red (a - b)
  | 0x04 => red (shrRound (a * b) u.sh)
  | 0x05 => red (shrRound (a * b + c) u.sh)
  | 0x06 => red (if b < a then b else a)
  | 0x07 => red (if a < b then b else a)
  | 0x08 => red a.natAbs
  | 0x09 => red (a - b).natAbs
  | 0x0A => red (a * ((2 ^ u.sh : Nat) : Int))
  | 0x0B => red (a / ((2 ^ u.sh : Nat) : Int))
  | 0x0F => red (if craw ≠ 0 then a else b)
  | 0x10 => if a < b then 0xFFFF else 0
  | 0x11 => if a = b then 0xFFFF else 0
  | 0x12 => let m := if a < b then b else a; red (if c < m then c else m)
  | 0x16 => halfRound u.sat (decide (a < 0)) a.natAbs (-(u.sh : Int))
  | _ => 0

/-- RCP, RSQ, LOG2 and EXP2 (R147): IEEE 754 gives the results for NaN, infinities, zeros and negative arguments; elsewhere
the result is within 1 ulp of the exact one, and which of those codes it is stays open (log entry 13). [log entry 13: DEDUCED] -/
def halfFn (opc a : Nat) (sat : Bool) : Nat :=
  match opc, HalfVal.ofCode a with
  | _, .nan => halfNan sat
  | 0x18, .inf s => b2n s * 0x8000
  | 0x18, .num s m e => if m = 0 then b2n s * 0x8000 + 0x7C00 else halfNear opc a sat s (m == 1024) (rcpLe m e)
  | 0x19, .inf s => if s then halfNan sat else 0
  | 0x19, .num s m e =>
    if m = 0 then b2n s * 0x8000 + 0x7C00 else if s then halfNan sat
    else halfNear opc a sat false (m == 1024 && e % 2 == 0) (rsqLe m e)
  | 0x1A, .inf s => if s then halfNan sat else 0x7C00
  | 0x1A, .num s m e =>
    if m = 0 then 0xFC00 else if s then halfNan sat else if m = 1024 ∧ e = -10 then 0
    else halfNear opc a sat (decide (((Nat.log2 m : Nat) : Int) + e < 0)) (m == 1024) (logLe m e)
  | _, .inf s => if s then 0 else 0x7C00
  | _, .num s m e =>
    if m = 0 then 0x3C00
    else halfNear opc a sat false (decide (0 ≤ e) || m % 2 ^ (-e).toNat == 0) (expLe s m e)

/-- The F16 arithmetic of one lane (R147). MUL and MAD scale the exact result by 2^−SH before the one rounding. SEL takes
the lane's bits as they are. [log entry 12: DEDUCED] -/
def halfOp (u : Uop) (a b c : Nat) : Nat :=
  let x := HalfVal.ofCode a
  let y := HalfVal.ofCode b
  let z := HalfVal.ofCode c
  let k : Int := -(u.sh : Int)
  match u.opc with
  | 0x01 => a
  | 0x02 => (x.add y).toCode u.sat 0
  | 0x03 => (x.add y.neg).toCode u.sat 0
  | 0x04 => (x.mul y).toCode u.sat k
  | 0x05 => ((x.mul y).add z).toCode u.sat k
  | 0x06 => (x.min y).toCode u.sat 0
  | 0x07 => (x.max y).toCode u.sat 0
  | 0x08 => x.abs.toCode u.sat 0
  | 0x09 => (x.add y.neg).abs.toCode u.sat 0
  | 0x0F => if c ≠ 0 then a else b
  | 0x10 => if x.lt y then 0xFFFF else 0
  | 0x11 => if x.eqv y then 0xFFFF else 0
  | 0x12 => ((x.max y).min z).toCode u.sat 0
  | 0x18 => halfFn 0x18 a u.sat
  | 0x19 => halfFn 0x19 a u.sat
  | 0x1A => halfFn 0x1A a u.sat
  | 0x1B => halfFn 0x1B a u.sat
  | _ => 0

/-- One lane of a two-lane operation. -/
def laneOp (u : Uop) (a b c : Nat) : Nat :=
  match u.fmt with
  | 0 => if u.opc = 0x17 then reduceInt 16 false u.sat ((HalfVal.ofCode a).toInt 0 65535 u.sh) else intOp 16 false u a b c c
  | 1 =>
    if u.opc = 0x17 then reduceInt 16 true u.sat ((HalfVal.ofCode a).toInt (-32768) 32767 u.sh)
    else intOp 16 true u (signed 16 a) (signed 16 b) (signed 16 c) c
  | _ => halfOp u a b c

/-- Lane A of a word. -/
def laneA (w : Nat) : Nat := w % 2 ^ 16

/-- Lane B of a word. -/
def laneB (w : Nat) : Nat := w / 2 ^ 16 % 2 ^ 16

/-- A word of two lanes. -/
def lanes (a b : Nat) : Nat := a % 2 ^ 16 + 2 ^ 16 * (b % 2 ^ 16)

/-- The result word of an operation but LMT, on operand words (R144 to R147). -/
def aluResult (u : Uop) (a b c : Nat) : Nat :=
  match u.opc with
  | 0x0C => Nat.land a b
  | 0x0D => Nat.lor a b
  | 0x0E => Nat.xor a b
  | 0x13 => lanes (laneB a) (laneA a)
  | 0x14 => lanes (laneA a) (laneA b)
  | 0x15 => lanes (laneB a) (laneB b)
  | 0x21 => a
  | 0x1C =>
    reduceInt 32 true u.sat (signed 32 c + signed 16 (laneA a) * signed 16 (laneA b) + signed 16 (laneB a) * signed 16 (laneB b))
  | 0x1D =>
    let f := fun w => reduceInt 16 (u.fmt == 1) u.sat (shrRound (signed 32 w) u.sh)
    lanes (f a) (f b)
  | _ =>
    if u.fmt = 3 then intOp 32 true u (signed 32 a) (signed 32 b) (signed 32 c) c
    else lanes (laneOp u (laneA a) (laneA b) (laneA c)) (laneOp u (laneB a) (laneB b) (laneB c))

/-- The result with LANE applied: the lane that is not computed takes its value from operand A (R145). -/
def laneSelect (u : Uop) (a r : Nat) : Nat :=
  if u.lane = 1 then lanes (laneA r) (laneB a) else if u.lane = 2 then lanes (laneA a) (laneB r) else r

end Sys2Proof.Machine
end

