-- ==== Sys2Proof/Machine/Dram.lean ====
section
/-!
DEFINITION. The pipes' DRAM controllers (chapter 14): bring-up, the map, the interleave, requests and accesses, check bits
and poison, hot channels, idle self-refresh and frequency change. The engines of other chapters move data with
`dramRead` and `dramWrite`; the channel queues hold the requests that arrive as commands.
-/
namespace Sys2Proof.Machine

/-- The DRAM of pipe `p`. -/
def Dev.dram (d : Dev) (p : Nat) : Dram := (d.pipe p).dram

/-- The device with the DRAM of pipe `p` changed by `f`. -/
def Dev.updDram (d : Dev) (p : Nat) (f : Dram → Dram) : Dev := d.updPipe p fun s => { s with dram := f s.dram }

/-! ### The map and the interleave -/

/-- The capacity of a channel in bytes (R464, `DRC_PHY_CFG.CAPC`): a code out of contract applies 2 GiB. -/
def Dev.chanBytes (d : Dev) (p : Nat) : Nat :=
  match d.rd F.DRC_PHY_CFG_CAPC p with
  | 0 => 2 ^ 30
  | 2 => 2 ^ 32
  | _ => 2 ^ 31

/-- The bytes of a pipe's DRAM map: six channels, 15/16 of each (R464). -/
def Dev.mapBytes (d : Dev) (p : Nat) : Nat := 6 * (d.chanBytes p / 16 * 15)

/-- The enabled regions of a pipe's map as first byte, bytes and kind (R467). -/
def Dev.dramRegions (d : Dev) (p : Nat) : List (Nat × Nat × Nat) :=
  ((List.range 16).filter fun k => d.on F.DRC_RGN_BASE_EN p k).map fun k =>
    (d.rd F.DRC_RGN_BASE_BASE p k * 2 ^ 20, d.rd F.DRC_RGN_SIZE_SIZE p k * 2 ^ 20, d.rd F.DRC_RGN_BASE_KIND p k)

/-- How many bytes from `a` on, up to `n`, lie in enabled regions without a gap. -/
def spanIn (rs : List (Nat × Nat × Nat)) : Nat → Nat → Nat → Nat
  | 0, _, _ => 0
  | fuel + 1, a, n =>
    match rs.find? fun r => r.1 ≤ a && a < r.1 + r.2.1 with
    | none => 0
    | some r =>
      let k := min n (r.1 + r.2.1 - a)
      if k < n then k + spanIn rs fuel (a + k) (n - k) else k

/-- Whether every byte of the range lies in an enabled region (R467); the map must be in use. -/
def Dev.dramInMap (d : Dev) (p a n : Nat) : Bool :=
  d.on F.DRC_MAP_CFG_EN p && spanIn (d.dramRegions p) 17 a n == n

/-- The exclusive or of the bytes of a number. -/
def xorBytes : Nat → Nat → Nat
  | 0, _ => 0
  | fuel + 1, v => if v = 0 then 0 else Nat.xor (v % 256) (xorBytes fuel (v / 256))

/-- The channel and channel-local address of a map address, for a grain of 2^gsh bytes (R469). -/
def interleave (gsh : Nat) (fold : Bool) (seed a : Nat) : Nat × Nat :=
  let g := a / 2 ^ gsh
  let off := a % 2 ^ gsh
  let r := g / 6
  let c0 := g % 6
  let h := if fold then Nat.xor (xorBytes 8 r) seed % 6 else 0
  ((c0 + h) % 6, r * 2 ^ gsh + off)

/-- Where a channel-local address lies: bank group, bank, row and column (R470). -/
structure DramLoc where
  group : Nat
  bank : Nat
  row : Nat
  col : Nat
deriving DecidableEq, Repr

/-- The location of a channel-local address (R470). -/
def dramLoc (l : Nat) : DramLoc :=
  ⟨Nat.xor (slice l 9 8) (slice l 19 18), Nat.xor (slice l 11 10) (slice l 21 20), slice l 31 15,
   slice l 14 12 * 256 + slice l 7 0⟩

/-- The channel-local address of the check bits of the word at `l` (R470). -/
def checkBitsAt (chanBytes l : Nat) : Nat := chanBytes / 16 * 15 + l / 16

/-- The channel of a map address of pipe `p`; a grain code outside 8 to 16, which no loaded map has (R468), counts as 8. -/
def Dev.dramChan (d : Dev) (p a : Nat) : Nat :=
  (interleave (clampN 8 16 (d.rd F.DRC_MAP_CFG_GSH p)) (d.on F.DRC_MAP_CFG_FOLD p) (d.rd F.DRC_SEED_SEED p) a).1

/-! ### Data, check bits and poison -/

/-- The 32-byte words that a range of bytes touches. -/
def wordsOf (a n : Nat) : List Nat :=
  if n = 0 then [] else (List.range ((a + n - 1) / 32 + 1 - a / 32)).map (a / 32 + ·)

/-- Whether a range covers the whole 32-byte word `w`. -/
def coversWord (a n w : Nat) : Bool := a ≤ 32 * w && 32 * w + 32 ≤ a + n

/-- The entry of the error log for an uncorrectable word (R479, R482). -/
def Dev.elog (d : Dev) (p kind src ch synd addr : Nat) : Dev :=
  let k := d.rd F.DRC_ELOG_STAT_NEXT p
  let w0 := 2 ^ 31 + kind % 8 * 2 ^ 28 + src % 64 * 2 ^ 22 + ch % 8 * 2 ^ 19 + synd % 2 ^ 16
  let was := d.rd F.DRC_ELOG_DATA p k 0
  let d := if was = 0 then d else d.wr F.DRC_ELOG_STAT_WRAP 1 p
  let d := d.wr F.DRC_ELOG_DATA w0 p k 0
  let d := d.wr F.DRC_ELOG_DATA (addr % 2 ^ 32) p k 1
  let d := d.wr F.DRC_ELOG_DATA (addr / 2 ^ 32 % 256) p k 2
  let d := d.wr F.DRC_ELOG_DATA (ptpNs (d.pipeTime p)) p k 3
  d.wr F.DRC_ELOG_STAT_NEXT ((k + 1) % 16) p

/-- An uncorrectable word is delivered: counted, logged, and DRC_POISON raised with KIND and channel (R479). -/
def Dev.dramUncorrectable (d : Dev) (p src w kind synd : Nat) : Dev :=
  let ch := d.dramChan p (32 * w)
  (((d.bump C.DRC_UNC_CNT p).elog p kind src ch synd (32 * w)).raiseP p 65 (pack [(3, kind), (3, ch)]))

/-- The class and syndrome with which the 32-byte word `w` is uncorrectable: its channel is marked faulty, or the word is bad (R479). -/
def Dev.dramBad (d : Dev) (p w : Nat) : Option (Nat × Nat) :=
  if bit (d.rd F.DRC_STAT_CHFAULT p) (d.dramChan p (32 * w)) then some (4, 0) else Tab.find (d.dram p).bad w

/-- Whether the 32-byte word `w` is delivered poisoned: it is bad, or holds stored poison (R479, R480). -/
def Dram.poisoned (m : Dram) (w : Nat) : Bool := m.psn.contains w || (Tab.find m.bad w).isSome

/-- Reads `n` bytes at map address `a` for source `src`: the bytes, and whether a word of them is delivered poisoned. A bad
word is counted and logged again (R479); stored poison is not (R480). [log entry 55: DEDUCED] -/
def Dev.dramRead (d : Dev) (p src a n : Nat) : List Byte × Bool × Dev :=
  let m := d.dram p
  let ws := wordsOf a n
  let bad := ws.filterMap fun w => (d.dramBad p w).map fun k => (w, k)
  let psn := ws.any fun w => m.psn.contains w
  (m.mem.reads a n, psn || !bad.isEmpty,
   bad.foldl (fun d (w, k, s) => d.dramUncorrectable p src w k s) d)

/-- Source `src` writes bytes at map address `a`; a poisoned write stores poison (R480). A whole-word write makes the word good; a
partial write reads the word first (R474), which counts and logs a bad one, and leaves it poisoned, and a partial write of poison poisons
the word (R479). [log entry 55: DEDUCED] -/
def Dev.dramWrite (d : Dev) (p src a : Nat) (bs : List Byte) (psn : Bool := false) : Dev :=
  let ws := wordsOf a bs.length
  let d := ws.foldl (fun d w =>
    if coversWord a bs.length w then d
    else match d.dramBad p w with
      | some (k, s) => d.dramUncorrectable p src w k s
      | none => d) d
  d.updDram p fun m =>
    let stays := ws.filter fun w => psn || (!coversWord a bs.length w && ((Tab.find m.bad w).isSome || m.psn.contains w))
    { m with
      mem := m.mem.writes a bs
      bad := ws.foldl (fun t w => Tab.del t w) m.bad
      psn := stays.foldl (fun l w => insertNum w l) (m.psn.filter fun w => !ws.contains w) }

/-! ### Bring-up and resets (R465, R466) -/

/-- `DRC_STAT.STATE` of pipe `p`. -/
def Dev.drcState (d : Dev) (p : Nat) : Nat := d.rd F.DRC_STAT_STATE p

/-- The mask of rates to train: 0 applies all four (chapter 14, `DRC_PHY_CFG`). -/
def Dev.drcRates (d : Dev) (p : Nat) : Nat :=
  let r := d.rd F.DRC_PHY_CFG_RATES p
  if r = 0 then 15 else r

/-- The highest rate of a mask. -/
def topRate (m : Nat) : Nat := if bit m 3 then 3 else if bit m 2 then 2 else if bit m 1 then 1 else 0

/-- A write of `DRC_INIT.GO`: accepted in OFF and FAULT only (R465). -/
def Dev.drcInitGo (d : Dev) (p : Nat) : Dev :=
  if d.drcState p = 0 || d.drcState p = 6 then
    ((d.wr F.DRC_STAT_STATE 1 p).wr F.DRC_STAT_CHFAULT 0 p).wr F.DRC_STAT_TRAINED 0 p
  else d

def execDrcInitGo (p : Pipe) (s : State) : Out := bar2 .DRC p s fun d => d.drcInitGo p

/-- The training ends (R465 steps 3 and 4): `failed` names the channels that failed. -/
def execDrcTrainDone (p : Pipe) (failed : BitVec 6) (s : State) : Out := run s fun d =>
  if d.drcState p = 1 then
    if failed.toNat = 0 then
      let m := d.drcRates p
      ((d.wr F.DRC_STAT_TRAINED m p).wr F.DRC_STAT_RATE (topRate m) p).wr F.DRC_STAT_STATE 2 p
    else
      ((d.wr F.DRC_STAT_CHFAULT failed.toNat p).wr F.DRC_STAT_STATE 6 p).raiseP p 68 failed.toNat
  else d

/-- The fill ends: every word is zero with valid check bits and the memory is READY (R465 steps 4 and 5). -/
def execDrcFillDone (p : Pipe) (s : State) : Out := run s fun d =>
  if d.drcState p = 2 then
    (d.updDram p fun m => { m with mem := [], psn := [], bad := [] }).wr F.DRC_STAT_STATE 3 p
  else d

/-- A pipe reset leaves a READY memory PARKED with every channel in self-refresh, its contents and training kept (R466); a
change in progress completes first (R488); a memory that is not READY is left as it is (R91). [log entry 55: DEDUCED] -/
def Dev.dramPark (d : Dev) (p : Nat) : Dev :=
  if (d.dram p).phase ≠ 0 then d.updDram p fun m => { m with park := true }
  else if d.drcState p = 3 then
    (d.wr F.DRC_STAT_STATE 4 p).updDram p fun m =>
      { m with flight := [], queues := [], waiting := [], sr := [0, 1, 2, 3, 4, 5], samples := [], hotRun := 0 }
  else d

/-- A whole-pipe load takes a PARKED memory back to READY (R466); of a change that still runs the load has already passed the reset. -/
def Dev.dramUnpark (d : Dev) (p : Nat) : Dev :=
  if d.drcState p = 4 then (d.wr F.DRC_STAT_STATE 3 p).updDram p fun m => { m with sr := [] }
  else d.updDram p fun m => { m with park := false }

/-- A gate trip, warm reset or cold reset loses contents and training, and a change that runs (R466, R488). -/
def Dev.dramLose (d : Dev) (p : Nat) : Dev :=
  let d := d.updDram p fun _ => {}
  let d := d.updHub fun h => { h with fchgOrder := h.fchgOrder.filter (· != p) }
  let d := d.wr F.DRC_FCHG_GO 0 p
  (((d.wr F.DRC_STAT_STATE 0 p).wr F.DRC_STAT_CHFAULT 0 p).wr F.DRC_STAT_TRAINED 0 p).wr F.DRC_STAT_RATE 0 p

/-! ### Requests and accesses (R471 to R473) -/

/-- The rank a racking channel has (R117). -/
def Dev.rackRank (d : Dev) (u c : Nat) : Nat :=
  let r := d.rd F.RACK_CH_CFG_RANK u c
  if r = 0 ∨ 5 < r then 5 else if (u = 4 ∨ 12 ≤ c) ∧ r ≤ 2 then 3 else r

/-- The rank of a request by its source (R471, R519, R579); a source that no table names has rank 5. [log entry 90: DESIGN CHOICE] -/
def Dev.dramRank (d : Dev) (p : Nat) (r : DramReq) : Nat :=
  let s := r.src
  if s < 0x10 then d.rackRank p s
  else if s < 0x20 then
    if (List.range 4).any fun k => d.on F.BLK_SCFG_EN p (s - 0x10) k && d.on F.BLK_SCFG_ROLE p (s - 0x10) k then 2 else 3
  else if s = 0x28 then 1
  else if s = 0x29 then 4
  else if s = 0x2A then if (Tab.get {} (d.pipe p).cel.strms r.sel).rank5 then 5 else 3
  else if s = 0x2C then 2
  else if s = 0x2D then d.rackRank 4 r.sel
  else if s = 0x30 ∨ s = 0x31 then
    if (Tab.get {} d.hub.panels (s - 0x30)).job.any fun j => j.urgent then 2 else 3
  else if s = 0x32 ∨ s = 0x33 then 2
  else 5

/-- The pieces of at most 256 bytes, each within one 256-byte block, of `n` bytes at `a` (R473; a block lies in one grain
and one bank by R469 and R470). -/
def splitAccess : Nat → Nat → Nat → List Byte → List DramAcc
  | 0, _, _, _ => []
  | fuel + 1, a, n, bs =>
    if n = 0 then []
    else
      let k := min n (256 - a % 256)
      { addr := a, len := k, data := bs.take k } :: splitAccess fuel (a + k) (n - k) (bs.drop k)

/-- A request as the operation that the source has issued. -/
def Dev.dramOp (d : Dev) (p : Nat) (r : DramReq) : DramOp :=
  ⟨(d.dram p).seq, r.src, r.wr, r.psn, splitAccess (r.len / 256 + 2) r.addr r.len r.data⟩

/-- The entries a request makes, one per channel it touches. -/
def Dev.dramEntries (d : Dev) (p : Nat) (r : DramReq) : List (Nat × DramEntry) :=
  let o := d.dramOp p r
  (List.range 6).filterMap fun ch =>
    let mine := (o.accs.map (·.addr)).filter fun a => d.dramChan p a = ch
    if mine.isEmpty then none else some (ch, ⟨o.seq, r.src, d.dramRank p r, mine⟩)

/-- Whether an entry finds room in a queue: 64 entries, at most 16 of one source, 8 kept for ranks 1 and 2 (R473); during
a hot hold a rank-5 source has one entry of the held channel (R476). -/
def Dev.dramRoom (d : Dev) (p ch : Nat) (q : List DramEntry) (e : DramEntry) : Bool :=
  let mine := (q.filter fun x => x.src == e.src).length
  let low := (q.filter fun x => decide (2 < x.rank)).length
  decide (q.length < 64) && decide (mine < 16) && (decide (e.rank ≤ 2) || decide (low < 56)) &&
    !(d.on F.DRC_HOT_STAT_HOLD p && d.rd F.DRC_HOT_STAT_CHAN p == ch && e.rank == 5 && decide (1 ≤ mine))

/-- An entry enters its channel's queue where it finds room, requests are not held and no earlier entry of its source waits for the channel
(R472), and otherwise waits. A request that reaches a channel in idle self-refresh makes it exit (R484). -/
def Dev.dramEnter (d : Dev) (p : Nat) (x : Nat × DramEntry) : Dev :=
  let m := d.dram p
  let q := Tab.get [] m.queues x.1
  if m.hold || m.phase == 3 || !d.dramRoom p x.1 q x.2 || (m.waiting.any fun y => y.1 == x.1 && y.2.src == x.2.src) then
    d.updDram p fun m => { m with waiting := m.waiting ++ [x] }
  else
    d.updDram p fun m =>
      { m with queues := Tab.put m.queues x.1 (q ++ [x.2]), sr := m.sr.filter (· != x.1) }

/-- The waiting entries try again, in order. -/
def Dev.dramRetry (d : Dev) (p : Nat) : Dev :=
  let ws := (d.dram p).waiting
  ws.foldl (fun d x => d.dramEnter p x) (d.updDram p fun m => { m with waiting := [] })

/-- A source's request (R473): taken while the memory is READY, changes rate, or is in FAULT, whose marked channels answer it poisoned
(R479); a range outside the map is refused by the source's own range check before it issues (R467). [log entry 55: DEDUCED] -/
def Dev.dramRequest (d : Dev) (p : Nat) (r : DramReq) : Dev :=
  if (d.drcState p = 3 || d.drcState p = 5 || d.drcState p = 6) && d.dramInMap p r.addr r.len && decide (0 < r.len) then
    let es := d.dramEntries p r
    let o := d.dramOp p r
    es.foldl (fun d x => d.dramEnter p x) (d.updDram p fun m => { m with flight := m.flight ++ [o], seq := m.seq + 1 })
  else d

def execDramRequest (p : Pipe) (r : DramReq) (s : State) : Out := run s fun d => d.dramRequest p r

/-- The position of the entry the scheduler serves: highest rank, oldest within it (R473). -/
def pickEntry (q : List DramEntry) : Option (Nat × DramEntry) :=
  [1, 2, 3, 4, 5].findSome? fun r => findPos (fun e => e.rank == r) q 0

/-- What is found at the words of an access that are read, whole or for a merge (R474, R478, R479): a single-bit error is corrected and
counted, a word that cannot be corrected stays bad. -/
def Dev.dramFound (d : Dev) (p : Nat) (wr : Bool) (x : DramAcc) : Dev :=
  (x.found.getD []).foldl (fun d (w, flaw) =>
    if !(wordsOf x.addr x.len).contains w || (wr && coversWord x.addr x.len w) then d
    else match flaw with
      | .ok => d
      | .single => d.bump C.DRC_CORR_CNT p
      | .multiple k s => d.updDram p fun m => { m with bad := Tab.put m.bad w (k, s) }) d

/-- An access takes effect in its source's order (R472): a read yields its bytes and whether a word of them is delivered poisoned. -/
def Dev.dramAccess (d : Dev) (p : Nat) (o : DramOp) (x : DramAcc) : List Byte × Bool × Dev :=
  let d := d.dramFound p o.wr x
  if o.wr then ([], false, d.dramWrite p o.src x.addr x.data o.psn) else d.dramRead p o.src x.addr x.len

/-- A request completes: its accesses take effect, and what a read delivers reaches the source. -/
def Dev.dramComplete (d : Dev) (p : Nat) (o : DramOp) : Dev :=
  let r := o.accs.foldl (fun (r : List Byte × Bool × Dev) x =>
    let y := r.2.2.dramAccess p o x
    (r.1 ++ y.1, r.2.1 || y.2.1, y.2.2)) ([], false, d)
  r.2.2.updDram p fun m =>
    let m := { m with flight := m.flight.filter fun y => y.seq != o.seq }
    if o.wr then m else { m with dlvSrc := o.src, dlvData := r.1, dlvPsn := r.2.1 }

/-- The requests of source `src` complete in the order of issue, as far as all their accesses are made (R472). -/
def Dev.dramRetire (d : Dev) (p src : Nat) : Dev :=
  let mine := (d.dram p).flight.filter fun o => o.src == src
  (mine.takeWhile fun o => o.accs.all fun x => x.found.isSome).foldl (fun d o => d.dramComplete p o) d

/-- The access that the scheduler has chosen on a channel is made, with what is found at its words. [log entry 55: DEDUCED] -/
def Dev.dramAccessDone (d : Dev) (p ch : Nat) (flaws : List (Nat × DramFlaw)) : Dev :=
  let q := Tab.get [] (d.dram p).queues ch
  match pickEntry q with
  | none => d
  | some (n, e) =>
    match e.accs with
    | [] => d
    | a :: rest =>
      let q := if rest.isEmpty then q.eraseIdx n else putAt q n { e with accs := rest }
      let d := d.updDram p fun m => { m with
        queues := Tab.set [] m.queues ch q
        flight := m.flight.map fun o =>
          if o.seq = e.seq then { o with accs := o.accs.map fun x => if x.addr = a then { x with found := some flaws } else x } else o }
      (d.dramRetire p e.src).dramRetry p

def execDramAccessDone (p : Pipe) (ch : Fin 6) (flaws : List (Nat × DramFlaw)) (s : State) : Out :=
  run s fun d => d.dramAccessDone p ch flaws

/-! ### Hot channels (R475, R476) -/

/-- A sample of each channel's waiting requests. -/
def execDrcHotSample (p : Pipe) (s : State) : Out := run s fun d =>
  let m := d.dram p
  let n := fun ch => (Tab.get [] m.queues ch).length
  d.updDram p fun m => { m with
    samples := (List.range 6).foldl (fun t ch => Tab.set 0 t ch (Tab.get 0 t ch + n ch)) m.samples
    winBlack := m.winBlack || m.phase == 3 || m.hold }

/-- The busiest of six channels and its share in 1/64 of the sum; the lowest channel where several are busiest. -/
def busiest (t : Tab Nat) : Nat × Nat :=
  let sum := ((List.range 6).map (Tab.get 0 t)).sum
  let best := (List.range 6).foldl (fun b ch => if Tab.get 0 t b < Tab.get 0 t ch then ch else b) 0
  (best, if sum = 0 then 0 else min 63 (64 * Tab.get 0 t best / sum))

/-- The rank-5 source that holds most entries of a queue (the lowest number where several do). -/
def mainBackground (q : List DramEntry) : Option Nat :=
  let srcs := (List.range 64).filter fun s => q.any fun e => e.src == s && e.rank == 5
  let n := fun s => (q.filter fun e => e.src == s && e.rank == 5).length
  srcs.foldl (fun b s => match b with | none => some s | some t => if n t < n s then some s else b) none

/-- The window ends: the share is judged, and a hot hold starts or moves (R475, R476). Where no rank-5 source holds an
entry the record's instance is not stated: a free value. -/
def Dev.hotWindowEnd (d : Dev) (p : Nat) : Dev :=
  let m := d.dram p
  let (ch, share) := busiest m.samples
  let hot := decide (d.rd F.DRC_HOT_CFG_SHARE p < share)
  let skip := m.winBlack || m.phase == 3 || m.hold
  let d := d.updDram p fun m => { m with samples := [], winBlack := false }
  if skip then d
  else
    let held := d.on F.DRC_HOT_STAT_HOLD p
    let d := (d.wrb F.DRC_HOT_STAT_HOT hot p).wr F.DRC_HOT_STAT_SHARE share p
    let d := if held && !hot then d else d.wr F.DRC_HOT_STAT_CHAN ch p
    let runs := if hot then m.hotRun + 1 else 0
    let d := d.updDram p fun m => { m with hotRun := runs }
    let t := d.rd F.DRC_HOT_CFG_TIME p
    let need := if t = 0 then 10 else t
    if d.on F.DRC_HOT_CFG_EN p && !held && decide (need ≤ runs) then
      let q := Tab.get [] m.queues ch
      let (inst, d) := match mainBackground q with
        | some s => (s, d)
        | none => d.draw
      let krank := ([1, 2, 3, 4].find? fun r => q.any fun e => e.rank == r).getD 5
      let d := (d.wr F.DRC_HOT_STAT_HOLD 1 p).raiseP p 66 ch
      let claimants := ((List.range 64).filter fun s => q.any fun e => e.src == s && e.rank == 5).length
      d.yieldBegin ⟨p, 5, krank, 1, 6 * 2 ^ 12 + inst % 2 ^ 12, 3, 0, claimants⟩
    else d

def execDrcHotWindowEnd (p : Pipe) (s : State) : Out := run s fun d => d.hotWindowEnd p

/-- A hot hold ends after 100 ms with no hot window; its END record is written (R476). -/
def execDrcHotHoldEnd (p : Pipe) (s : State) : Out := run s fun d =>
  if d.on F.DRC_HOT_STAT_HOLD p && !d.on F.DRC_HOT_STAT_HOT p then
    ((d.wr F.DRC_HOT_STAT_HOLD 0 p).yieldEnd fun y => y.origin == p.val && y.res == 1 && y.cause == 3).dramRetry p
  else d

/-! ### Scrub and idle self-refresh -/

/-- Scrub reads a word and writes back what it corrects (R483); a channel in self-refresh is left alone. -/
def execDrcScrubRead (p : Pipe) (word : Nat) (flaw : DramFlaw) (s : State) : Out := run s fun d =>
  let ch := d.dramChan p (32 * word)
  if d.on F.DRC_SCRUB_EN p && d.drcState p == 3 && !(d.dram p).sr.contains ch && decide (32 * word + 32 ≤ d.mapBytes p) then
    match flaw with
    | .ok => (d.dramRead p 0x2E (32 * word) 32).2.2
    | .single => (d.dramRead p 0x2E (32 * word) 32).2.2.bump C.DRC_CORR_CNT p
    | .multiple k sy =>
      ((d.updDram p fun m => { m with bad := Tab.put m.bad word (k, sy) }).dramRead p 0x2E (32 * word) 32).2.2
  else d

/-- A channel idle for IDLE µs enters self-refresh (R484); a request that has reached its queue abandons the entry. -/
def execDrcSrEntry (p : Pipe) (ch : Fin 6) (s : State) : Out := run s fun d =>
  let m := d.dram p
  if d.on F.DRC_SR_CFG_EN p && (d.drcState p == 3 || (d.drcState p == 5 && m.phase != 3)) && (Tab.get [] m.queues ch).isEmpty then
    d.updDram p fun m => { m with sr := insertNum ch.val m.sr }
  else d

/-! ### Frequency change (R485, R486) -/

/-- A change ends with its RESULT, and DRC_FREQ is raised with RESULT and RATE. -/
def Dev.fchgEnd (d : Dev) (p result : Nat) : Dev :=
  let d := ((d.wr F.DRC_FCHG_STAT_RESULT result p).wr F.DRC_FCHG_STAT_BUSY 0 p).wr F.DRC_FCHG_GO 0 p
  d.raiseP p 67 (pack [(3, result), (2, d.rd F.DRC_FCHG_RATE p)])

/-- A write of `DRC_FCHG` with GO set: discarded while GO reads 1, refused with a RESULT, or started (R485). [log entry 55: DEDUCED] -/
def Dev.fchgGo (d : Dev) (p rate : Nat) : Dev :=
  if d.on F.DRC_FCHG_GO p then d
  else
    let d := d.wr F.DRC_FCHG_RATE rate p
    if !bit (d.rd F.DRC_STAT_TRAINED p) rate then d.fchgEnd p 1
    else if d.drcState p ≠ 3 then d.fchgEnd p 2
    else if d.rd F.DRC_STAT_RATE p = rate then d.fchgEnd p 3
    else
      let d := ((d.wr F.DRC_FCHG_GO 1 p).wr F.DRC_FCHG_STAT_BUSY 1 p).wr F.DRC_STAT_STATE 5 p
      (d.updDram p fun m => { m with phase := 1 }).updHub fun h => { h with fchgOrder := h.fchgOrder ++ [p] }

def execDrcFchgGo (p : Pipe) (rate : Fin 4) (s : State) : Out := bar2 .DRC p s fun d => d.fchgGo p rate

/-- The inactive set points hold the target rate's timing (phase 1). -/
def execDrcFchgSetpointsDone (p : Pipe) (s : State) : Out := run s fun d =>
  if (d.dram p).phase = 1 then d.updDram p fun m => { m with phase := 2 } else d

/-- Whether pipe `p` may enter its step 3: no other pipe is in its blackout, 50 µs have passed since another's ended, and no pipe whose GO
came earlier waits (R486). -/
def Dev.fchgTurn (d : Dev) (p : Nat) : Bool :=
  !((List.range 4).any fun q => q != p && (d.dram q).phase == 3) &&
    !(d.hub.fchgLast.any fun x => x.1 != p && decide (usSince x.2 d.c < 50)) &&
    !((d.hub.fchgOrder.takeWhile (· != p)).any fun q => (d.dram q).phase == 2)

/-- Every queue is empty, it is the pipe's turn and the Hub is not lost: every channel enters self-refresh (R485 phase 2,
R486). The blackout starts here, or started at the hold. -/
def execDrcFchgSrEntry (p : Pipe) (s : State) : Out := run s fun d =>
  let m := d.dram p
  if m.phase == 2 && m.queues.isEmpty && d.fchgTurn p && !d.hub.lost then
    d.updDram p fun m =>
      { m with phase := 3, sr := [0, 1, 2, 3, 4, 5], black := if m.hold then m.black else d.c }
  else d

/-- 100 µs passed without an empty instant: requests are held at the queues' inputs, and the blackout starts. -/
def execDrcFchgHoldTimeout (p : Pipe) (s : State) : Out := run s fun d =>
  if (d.dram p).phase = 2 && !(d.dram p).hold then d.updDram p fun m => { m with hold := true, black := d.c } else d

/-- The PLLs lock at the new rate, the set point switches, the channels leave self-refresh and the held requests are
served (R485 phases 3 and 4); a pipe reset during the change then parks the memory (R488). -/
def execDrcFchgPllLocked (p : Pipe) (s : State) : Out := run s fun d =>
  let m := d.dram p
  if m.phase = 3 then
    let d := (d.wr F.DRC_STAT_RATE (d.rd F.DRC_FCHG_RATE p) p).wr F.DRC_STAT_STATE 3 p
    let d := d.wr F.DRC_FCHG_STAT_BLACKOUT (min 0xFFFF (cSince m.black d.c / 2560)) p
    let d := d.updDram p fun m => { m with phase := 0, hold := false, sr := [], park := false }
    let d := d.updHub fun h => { h with fchgOrder := h.fchgOrder.filter (· != p.val), fchgLast := Tab.put h.fchgLast p.val d.c }
    let d := (d.fchgEnd p 0).dramRetry p
    if m.park then d.dramPark p else d
  else d

end Sys2Proof.Machine
end

