-- ==== Sys2Proof/Machine/Cask.lean ====
section
/-!
DEFINITION. Casks (chapter 3): credits, words, items and markers, the tail timeout, flush, check bits, and the switch of a
configuration at a seam. Instance 4 is the Hub's set of 64 casks.
-/
namespace Sys2Proof.Machine

/-- Cask `k` of unit `u`. -/
def Dev.cask (d : Dev) (u k : Nat) : Cask :=
  if u = 4 then Tab.get {} d.hub.casks k else Tab.get {} (d.pipe u).casks k

/-- The device with cask `k` of unit `u` holding `x`. -/
def Dev.setCask (d : Dev) (u k : Nat) (x : Cask) : Dev :=
  if u = 4 then d.updHub fun h => { h with casks := Tab.set {} h.casks k x }
  else d.updPipe u fun s => { s with casks := Tab.set {} s.casks k x }

/-- The depth of a cask in words (R94). -/
def Dev.caskDepth (d : Dev) (u k : Nat) : Nat := 16 * d.rd F.CASK_CFG_DEPTH u k

/-- A cask is open when its newest stored word has neither END nor TAIL set (R101). [log entry 30: DEDUCED] -/
def Cask.isOpen (x : Cask) : Bool :=
  match x.words.getLast? with
  | some w => !w.fin && !w.tail
  | none => false

/-- Stores cask `k` and shows its level and openness in `CASK_STAT`. -/
def Dev.putCask (d : Dev) (u k : Nat) (x : Cask) : Dev :=
  ((d.setCask u k x).wr F.CASK_STAT_LEVEL x.words.length u k).wrb F.CASK_STAT_OPEN x.isOpen u k

/-- Whether a word is one of a cask of the take store (R93). -/
def isTakeCask (u k : Nat) : Bool := decide (u < 4) && decide (120 ≤ k)

/-- Shows the store allocated to enabled casks in `CASK_GSTAT`. -/
def Dev.caskAlloc (d : Dev) (u : Nat) : Dev :=
  let sum := fun (ks : List Nat) =>
    ((ks.filter fun k => d.on F.CASK_CFG_EN u k).map fun k => d.rd F.CASK_CFG_DEPTH u k).sum
  if u = 4 then d.wr F.CASK_GSTAT_ALLOC (sum (List.range 64)) u
  else (d.wr F.CASK_GSTAT_ALLOC (sum (List.range 120)) u).wr F.CASK_GSTAT_TALLOC (sum ((List.range 8).map (120 + ·))) u

/-- The cask takes the configuration its registers hold: it is emptied without a marker and, where enabled, grants
credits equal to its depth (R97, R114). -/
def Dev.caskEnable (d : Dev) (u k : Nat) : Dev :=
  let en := d.on F.CASK_CFG_EN u k
  let d := (d.putCask u k {}).wrb F.CASK_STAT_EN en u k
  let d := d.wrb F.CASK_STAT_DISCARD false u k
  (d.wr F.CASK_STAT_CREDITS (if en then d.caskDepth u k else 0) u k).caskAlloc u

/-- Whether the producer may write: the cask is enabled, it holds a credit, and no configuration waits for the seam (then
the words of the new frame wait, R114). -/
def Dev.caskReady (d : Dev) (u k : Nat) : Bool :=
  d.on F.CASK_CFG_EN u k && decide (0 < d.rd F.CASK_STAT_CREDITS u k) && (d.cask u k).next.isNone

/-- One word written by the cask's producer, using one credit (R97). While the rest of a flushed item is discarded the
word's credit is on its way back at once, and its END ends the discarding (R106). -/
def Dev.caskPut (d : Dev) (u k : Nat) (w : CaskWord) : Dev :=
  let x := d.cask u k
  let d := d.wr F.CASK_STAT_CREDITS (d.rd F.CASK_STAT_CREDITS u k - 1) u k
  if d.on F.CASK_STAT_DISCARD u k then
    let d := d.putCask u k { x with transit := x.transit + 1 }
    if w.fin then d.wr F.CASK_STAT_DISCARD 0 u k else d
  else d.putCask u k { x with words := x.words ++ [{ w with data := w.data % 2 ^ 64, tail := false }] }

/-- The words the producer holds enter the cask while it has credits. [log entry 30: DEDUCED] -/
def Dev.caskDrain (d : Dev) (u k : Nat) : Nat → Dev
  | 0 => d
  | fuel + 1 =>
    let x := d.cask u k
    match x.wait with
    | [] => d
    | w :: rest => if d.caskReady u k then ((d.setCask u k { x with wait := rest }).caskPut u k w).caskDrain u k fuel else d

/-- The words wait at the producer, and enter the cask in order, each as a credit allows (R97). -/
def Dev.caskWait (d : Dev) (u k : Nat) (ws : List CaskWord) : Dev :=
  let x := d.cask u k
  let all := x.wait ++ ws
  (d.setCask u k { x with wait := all }).caskDrain u k all.length

/-- Whether endpoint `ep` is one of the PXR encoder's 16 ports (chapter 10, code 0x0404). -/
def encEndpoint (ep : Nat) : Bool := decide (0x2080 ≤ ep) && decide (ep < 0x2090)

/-- Whether endpoint `ep` is the input of a fixed block other than the Cellar slice: an upload endpoint, a statistics context, a block
coder stream, a live output, an Ethernet port's transmit endpoint (chapters 8, 9, 11 and 15). -/
def blockInput (ep : Nat) : Bool :=
  (decide (0x2060 ≤ ep) && decide (ep < 0x2068)) || (decide (0x2070 ≤ ep) && decide (ep < 0x2074)) ||
    (decide (0x2100 ≤ ep) && decide (ep < 0x2140)) || (decide (0x2180 ≤ ep) && decide (ep < 0x2190)) ||
    (decide (0x21A8 ≤ ep) && decide (ep < 0x21AE))

/-- Whether endpoint `ep` is the cask's producer: the one `CASK_BIND` names, for a take cask only a port of the PXR encoder (R95). -/
def Dev.caskProd (d : Dev) (u k ep : Nat) : Bool :=
  d.rd F.CASK_BIND_PROD u k == ep && (!isTakeCask u k || encEndpoint ep)

/-- Whether endpoint `ep` is the cask's consumer: the one `CASK_BIND` names, for a take cask only the Cellar slice, a fixed-block port that
is no other block's input (R95). -/
def Dev.caskCons (d : Dev) (u k ep : Nat) : Bool :=
  d.rd F.CASK_BIND_CONS u k == ep && (!isTakeCask u k || (ep / 2 ^ 12 == 2 && !blockInput ep))

/-- The producer `ep` has words to write; those of another endpoint never reach the cask (R95). [log entry 30: DEDUCED] -/
def Dev.caskSend (d : Dev) (u k ep : Nat) (ws : List CaskWord) : Dev := if d.caskProd u k ep then d.caskWait u k ws else d

/-- A producer writes a word: a write from an endpoint that `CASK_BIND` does not name never reaches the cask (R95); without
a credit the producer waits. -/
def execCaskWrite (u : Unit5) (k : Fin 128) (ep : Nat) (w : CaskWord) (s : State) : Out :=
  runIf (decide (k.val < caskCount u)) s fun d =>
    if d.caskProd u k ep && d.caskReady u k then d.caskPut u k w else d

/-- What a read delivers: nothing, the FLUSHED marker, or a word; `more` says that the word's poison ends the item although its own END was
not set, so that the rest of what it was written in follows (R110, R113). -/
inductive Delivered where
  | nothing | flushed | word (w : CaskWord) (more : Bool)
deriving DecidableEq, Repr

/-- The consumer reads: a waiting marker first, otherwise the oldest word, corrected, or poisoned and ending an item where
its check bits say so (R98, R99, R109 to R112). The word's credit starts back to the producer. [log entry 88: DESIGN CHOICE] -/
def Dev.caskGet (d : Dev) (u k : Nat) (flaw : Flaw) : Delivered × Dev :=
  let x := d.cask u k
  if x.marker then (.flushed, d.setCask u k { x with marker := false, out := none })
  else
    match x.words with
    | [] => (.nothing, d)
    | w :: rest =>
      let depth := d.caskDepth u k
      let pos := x.rpos
      let w' : CaskWord := if flaw = .multiple && !w.psn then { w with fin := true, psn := true } else w
      let d := d.putCask u k
        { x with words := rest, transit := x.transit + 1, rpos := (if pos + 1 < depth then pos + 1 else 0), out := some w' }
      if w.psn then (.word w' (w'.fin && !w.fin), d)
      else
        match flaw with
        | .ok => (.word w' (w'.fin && !w.fin), d)
        | .single =>
          let d := d.bump C.CASK_CORR_CNT u
          let full := d.rd F.CASK_ECC_CORR u k == 0xFFFF
          (.word w' false, (d.when full fun d => d.wr F.CASK_ECC_CSAT 1 u k).satInc F.CASK_ECC_CORR 1 u k)
        | .multiple =>
          let d := (d.wr F.CASK_ECC_PSN 1 u k).bump C.CASK_UNC_CNT u
          let d := ((d.wr F.CASK_PSN_LAST_VALID 1 u).wr F.CASK_PSN_LAST_CASK k u).wr F.CASK_PSN_LAST_WORD pos u
          let syn := 2 ^ 31 + k * 2 ^ 16 + pos % 2 ^ 12
          (.word w' (w'.fin && !w.fin), if u = 4 then d.raise 516 syn else d.raiseP u 5 syn)

/-- A credit reaches the producer (R98). -/
def Dev.caskCredit (d : Dev) (u k : Nat) : Dev :=
  let x := d.cask u k
  if 0 < x.transit then
    ((d.setCask u k { x with transit := x.transit - 1 }).wr F.CASK_STAT_CREDITS (d.rd F.CASK_STAT_CREDITS u k + 1) u k).caskDrain u k 1
  else d

/-- The words with TAIL set on the newest one. -/
def tailLast : List CaskWord → List CaskWord
  | [] => []
  | [w] => [{ w with tail := true }]
  | w :: t => w :: tailLast t

/-- Whether the tail timer of a cask can run: UNIT is µs or ms (R102). -/
def Dev.caskTimerOn (d : Dev) (u k : Nat) : Bool :=
  let t := d.rd F.CASK_TTO_UNIT u k
  t == 1 || t == 2

/-- The tail timer of an open cask fires: TAIL goes onto its newest word, and with TEVT the cask reports it (R103,
R133). -/
def execCaskTailTimeout (u : Unit5) (k : Fin 128) (s : State) : Out :=
  runIf (decide (k.val < caskCount u)) s fun d =>
    let x := d.cask u k
    if x.isOpen && d.caskTimerOn u k then
      let d := d.putCask u k { x with words := tailLast x.words }
      d.when (d.on F.CASK_TTO_TEVT u k) fun d => if u.val = 4 then d.raise 517 0 else d.raiseP u 6 0
    else d

/-- A flush: every word is discarded, the producer's credits become the depth, one FLUSHED marker waits, and where the cask
was open the rest of its item will be discarded (R105, R106). [log entry 30: DEDUCED; log entry 88: DESIGN CHOICE] -/
def Dev.caskFlush (d : Dev) (u k : Nat) : Dev :=
  if d.on F.CASK_CFG_EN u k then
    let x := d.cask u k
    let opened := x.isOpen || d.on F.CASK_STAT_DISCARD u k
    let d := d.putCask u k { x with words := [], marker := true, transit := 0 }
    ((d.wr F.CASK_STAT_CREDITS (d.caskDepth u k) u k).wrb F.CASK_STAT_DISCARD opened u k).caskDrain u k x.wait.length
  else d

/-- A host's write of `CASK_CTL.FLUSH`: discarded for a take cask while the pipe has an open take (R108). -/
def Dev.caskHostFlush (d : Dev) (u k : Nat) : Dev :=
  if isTakeCask u k && d.on F.PCTL_STAT_TAKE u then d else d.caskFlush u k

def execCaskFlush (u : Unit5) (k : Fin 128) (s : State) : Out :=
  bar2If (decide (k.val < caskCount u)) .CASK u s fun d => d.caskHostFlush u k

/-- The switch of a cask whose configuration changes at a seam: once the consumer has read the last word of the old frame
the cask takes its new configuration and full credits, and delivers no marker (R114). [log entry 30: DEDUCED] -/
def Dev.caskSwitch (d : Dev) (u k : Nat) : Dev :=
  match (d.cask u k).next with
  | some n =>
    if (d.cask u k).words.isEmpty then
      let d := d.wrCv ⟨.CASK_CFG, u, k, 0⟩ n.cfg
      let d := d.wrCv ⟨.CASK_BIND, u, k, 0⟩ n.bind
      let held := (d.cask u k).wait
      ((d.wrCv ⟨.CASK_TTO, u, k, 0⟩ n.tto).caskEnable u k).caskWait u k held
    else d
  | none => d

/-- A write of a Hub cask's configuration by Hub firmware that breaks R94 (depth 1 to 256 units, within the store of 4,096
units, no overlap with another enabled Hub cask) is discarded and leaves the cask disabled. -/
def Dev.hubCaskFits (d : Dev) (k w : Nat) : Bool :=
  let base := slice w 25 13
  let depth := slice w 8 0
  decide (1 ≤ depth) && decide (depth ≤ 256) && decide (base + depth ≤ 4096) &&
    (List.range 64).all fun j =>
      j == k || !d.on F.CASK_CFG_EN 4 j ||
        decide (base + depth ≤ d.rd F.CASK_CFG_BASE 4 j) ||
        decide (d.rd F.CASK_CFG_BASE 4 j + d.rd F.CASK_CFG_DEPTH 4 j ≤ base)

/-- Hub firmware writes `RACKH_CASK_CFG` of cask `k`. -/
def Dev.hubCaskCfg (d : Dev) (k w : Nat) : Dev :=
  if bit w 31 then
    if d.hubCaskFits k w then
      let d := ((d.wr F.CASK_CFG_EN 1 4 k).wr F.CASK_CFG_BASE (slice w 25 13) 4 k).wr F.CASK_CFG_DEPTH (slice w 8 0) 4 k
      d.caskEnable 4 k
    else (d.wr F.CASK_CFG_EN 0 4 k).caskEnable 4 k
  else
    (((d.wr F.CASK_CFG_EN 0 4 k).wr F.CASK_CFG_BASE (slice w 25 13) 4 k).wr F.CASK_CFG_DEPTH (slice w 8 0) 4 k).caskEnable 4 k

end Sys2Proof.Machine
end

