-- ==== Sys2Proof/Machine/Trellis.lean ====
section
/-!
DEFINITION. The Trellis fabric (chapter 4): configuration words, routes, tokens, micro-ops, cask ports, line memories and
cluster windows, host reads, the monitor, and the failed marks. Regions switch in `Cuvl.lean`.
-/
namespace Sys2Proof.Machine

/-- The Trellis of pipe `p`. -/
def Dev.trl (d : Dev) (p : Nat) : Trl := (d.pipe p).trl

/-- The device with the Trellis of pipe `p` changed by `f`. -/
def Dev.updTrl (d : Dev) (p : Nat) (f : Trl → Trl) : Dev := d.updPipe p fun s => { s with trl := f s.trl }

/-! ### Configuration storage (R177) -/

/-- What an unwritten configuration word reads as: routes and sources are none, everything else is clear (R194). -/
def trlBlank (o : Nat) : Nat :=
  if 0x44000 ≤ o ∧ o < 0x55000 then
    if o % 0x40 = 0 then 0xFF000000 else if o % 0x40 = 4 then 0x0000FFFF else 0
  else if 0x55000 ≤ o ∧ o < 0x59400 then
    if o % 0x100 = 0 then 0xFFFFFFFF else if o % 0x100 = 4 then 0x0000FFFF else 0
  else if 0x5A000 ≤ o ∧ o < 0x5B000 then (if o % 0x400 < 0x78 then 0xFFFFFFFF else 0)
  else 0

/-- The 32-bit configuration word at byte offset `o` from 0x30_0000. -/
def cfgWord (m : Tab Nat) (o : Nat) : Nat := Tab.get (trlBlank o) m o

/-- The 64-bit configuration word at `o`. -/
def cfgWord64 (m : Tab Nat) (o : Nat) : Nat := cfgWord m o + 2 ^ 32 * cfgWord m (o + 4)

/-- The configuration with the 32-bit word at `o` written. -/
def cfgPut (m : Tab Nat) (o v : Nat) : Tab Nat := Tab.set (trlBlank o) m o (v % 2 ^ 32)

/-- The configuration with the 64-bit word at `o` written. -/
def cfgPut64 (m : Tab Nat) (o v : Nat) : Tab Nat := cfgPut (cfgPut m o v) (o + 4) (v / 2 ^ 32)

/-- Where entry `k` of element `e`'s micro-op store lies. -/
def oOp (e k : Nat) : Nat := 0x100 * e + 8 * k

/-- Where element `e`'s configuration word lies. -/
def oElem (e : Nat) : Nat := 0x44000 + 0x40 * e

/-- Where constant `m` of element `e` lies. -/
def oConst (e m : Nat) : Nat := 0x44010 + 0x40 * e + 4 * m

/-- Where tile `t`'s route word lies. -/
def oRoute (t : Nat) : Nat := 0x55000 + 0x100 * t

/-- Where the word of cask port `q` of tile `t` lies. -/
def oPort (t q : Nat) : Nat := 0x55008 + 0x100 * t + 4 * q

/-- Where the word of window `w` of tile `t` lies. -/
def oWin (t w : Nat) : Nat := 0x55020 + 0x100 * t + 8 * w

/-- Where the crossbar table of cluster `c` lies. -/
def oXbar (c : Nat) : Nat := 0x5A000 + 0x400 * c

/-- Where the word of cluster window `w` lies. -/
def oCwin (c w : Nat) : Nat := 0x5A100 + 0x400 * c + 8 * w

/-- The source code that destination `k` of cluster `c` names. -/
def xbarOf (m : Tab Nat) (c k : Nat) : Nat := slice (cfgWord m (oXbar c + k / 4 * 4)) (8 * (k % 4) + 7) (8 * (k % 4))

/-- The crossbar table with the source of destination `k` written. -/
def xbarPut (m : Tab Nat) (c k v : Nat) : Tab Nat :=
  let o := oXbar c + k / 4 * 4
  let b := 2 ^ (8 * (k % 4))
  cfgPut m o (cfgWord m o - xbarOf m c k * b + v % 256 * b)

/-! ### Numbering and repair (R134, R135) -/

/-- The physical tile that serves logical tile `l` in force. -/
def Dev.physTile (d : Dev) (p l : Nat) : Nat :=
  let c := l / 16
  let j := l % 16
  17 * c + (if d.on F.TRL_RPR_MAP_USED p c && d.rd F.TRL_RPR_MAP_LSLOT p c == j then 16 else j)

/-- The logical tile that physical tile `t` serves. -/
def Dev.logTile (d : Dev) (p t : Nat) : Option Nat :=
  let c := t / 17
  let s := t % 17
  let used := d.on F.TRL_RPR_MAP_USED p c
  let j := d.rd F.TRL_RPR_MAP_LSLOT p c
  if s = 16 then (if used then some (16 * c + j) else none)
  else if used && j == s then none else some (16 * c + s)

/-- The region of logical tile `l` (R166). -/
def Dev.tileRegion (d : Dev) (p l : Nat) : Option Nat :=
  if d.on F.TRL_TILE_CFG_EN p l then some (d.rd F.TRL_TILE_CFG_REGION p l) else none

/-- The region that physical tile `t` works for. -/
def Dev.physRegion (d : Dev) (p t : Nat) : Option Nat :=
  match d.logTile p t with
  | some l => d.tileRegion p l
  | none => none

/-- The region a REGION record gave cluster window `w` of cluster `c` to. -/
def regionOfWin (info : Tab RegionDecl) (c w : Nat) : Option Nat :=
  (info.find? fun x => bit (x.2.cwins.getD c 0) w).map (·.1)

/-- The region a REGION record gave context `x` to. -/
def regionOfCtx (info : Tab RegionDecl) (x : Nat × Nat) : Option Nat := (info.find? fun r => r.2.ctx.contains x).map (·.1)

/-- The region a REGION record gave crossbar destination `k` of cluster `c` to. -/
def regionOfDest (info : Tab RegionDecl) (c k : Nat) : Option Nat :=
  (info.find? fun x => bit (x.2.xdest.getD (4 * c + k / 32) 0) (k % 32)).map (·.1)

/-- The region a source of tokens belongs to. A Veraison unit belongs to the region that lists it as a context (class 4). -/
def Dev.rootRegion (d : Dev) (p : Nat) : Root → Option Nat
  | .el e _ => d.physRegion p (e / 16)
  | .port t _ => d.physRegion p t
  | .vrs c k => regionOfCtx (d.trl p).info (4, 2 * c + k / 2)
  | .win c w => regionOfWin (d.trl p).info c w
  | .lane c k => regionOfDest (d.trl p).info c k
  | .pass t _ => d.physRegion p t

/-- The region a sink belongs to. -/
def Dev.sinkRegion (d : Dev) (p : Nat) : Sink → Option Nat
  | .el e _ => d.physRegion p (e / 16)
  | .port t _ => d.physRegion p t
  | .vrs c k => regionOfCtx (d.trl p).info (4, 2 * c + k / 2)
  | .win c w => regionOfWin (d.trl p).info c w
  | .lane c k => regionOfDest (d.trl p).info c k
  | .pass t _ => d.physRegion p t

/-- `TRL_REG_STAT.STATE` of region `r`: 0 OFF, 1 RUN, 2 STAGED, 3 DRAIN, 4 FAULT, 5 RESTART. -/
def Dev.regState (d : Dev) (p r : Nat) : Nat := d.rd F.TRL_REG_STAT_STATE p r

/-- Sets the state of a region and shows the states in `TRL_STAT`. -/
def Dev.setRegState (d : Dev) (p r v : Nat) : Dev :=
  let d := d.wr F.TRL_REG_STAT_STATE v p r
  let mask := fun (q : Nat → Bool) => ((List.range 16).map fun i => if q (d.regState p i) then 2 ^ i else 0).sum
  (d.wr F.TRL_STAT_RUNNING (mask fun v => decide (1 ≤ v ∧ v ≤ 3)) p).wr F.TRL_STAT_FAULTED (mask (· == 4)) p

/-! ### Routes (R151, R162) -/

/-- What a walk along the routes looks up next: a tile route code in physical tile `t`, or a crossbar source code in
cluster `c`. -/
inductive Hop where
  | tile (t code : Nat) | xbar (c code : Nat)
deriving DecidableEq, Repr

/-- The route code that feeds crossbar output `o` of tile `t`. -/
def xoCode (m : Tab Nat) (t o : Nat) : Nat := slice (cfgWord64 m (oRoute t)) (6 * o + 5) (6 * o)

/-- Whether a tile route code is a crossbar input of the tile. -/
def codeIsXi (code : Nat) : Bool := decide (0x20 ≤ code) && decide (code < 0x24)

/-- The source a route leads to. A ring lane, and a tile's way from a crossbar input to a crossbar output, hold tokens of their own, so that
the region they belong to has them as inputs and outputs (R167). -/
def Dev.resolve (d : Dev) (p : Nat) : Nat → Hop → Option Root
  | 0, _ => none
  | fuel + 1, .tile t code =>
    if code < 0x20 then some (.el (16 * t + code / 2) (code % 2))
    else if code < 0x24 then
      match d.logTile p t with
      | some l => d.resolve p fuel (.xbar (t / 17) (xbarOf (d.trl p).act (t / 17) (4 * (l % 16) + (code - 0x20))))
      | none => none
    else if code < 0x28 then some (.port t (code - 0x24))
    else none
  | fuel + 1, .xbar c code =>
    if code < 0x40 then
      let t := d.physTile p (16 * c + code / 4)
      let x := xoCode (d.trl p).act t (code % 4)
      if codeIsXi x then some (.pass t (code % 4)) else d.resolve p fuel (.tile t x)
    else if code < 0x44 then some (.vrs c (code - 0x40))
    else if 0x50 ≤ code ∧ code < 0x70 then some (.win c (code - 0x50))
    else if 0x70 ≤ code ∧ code < 0x74 then some (.lane ((c + 3) % 4) (code + 4))
    else if 0x74 ≤ code ∧ code < 0x78 then some (.lane ((c + 1) % 4) (code - 4))
    else none

/-- How many hops a route is followed for: more than any route can have before it meets a place that holds tokens. -/
def maxHops : Nat := 4

/-- Where a sink's route starts. -/
def Dev.sinkHop (d : Dev) (p : Nat) : Sink → Hop
  | .el e i => let w := cfgWord64 (d.trl p).act (oElem e); .tile (e / 16) (slice w (6 * i + 29) (6 * i + 24))
  | .port t q => let w := cfgWord64 (d.trl p).act (oRoute t); .tile t (slice w (6 * q + 29) (6 * q + 24))
  | .vrs c k => .xbar c (xbarOf (d.trl p).act c (0x40 + k))
  | .win c w => .xbar c (xbarOf (d.trl p).act c (0x50 + w))
  | .lane c k => .xbar c (xbarOf (d.trl p).act c k)
  | .pass t o => .tile t (xoCode (d.trl p).act t o)

/-- The source that feeds a sink. -/
def Dev.source (d : Dev) (p : Nat) (k : Sink) : Option Root := d.resolve p maxHops (d.sinkHop p k)

/-- The sinks that take tokens by the active configuration: the inputs of the enabled elements, the enabled cask ports in
write direction, the Veraison inputs and the cluster windows in use, the ring lanes fed and the ways through a tile. -/
def Dev.sinks (d : Dev) (p : Nat) : List Sink :=
  let m := (d.trl p).act
  let els := m.flatMap fun (o, v) =>
    if 0x44000 ≤ o ∧ o < 0x55000 ∧ o % 0x40 = 4 ∧ bit v 31 then
      (List.range 4).map fun i => Sink.el ((o - 0x44000) / 0x40) i else []
  let ports := m.flatMap fun (o, v) =>
    if 0x55000 ≤ o ∧ o < 0x59400 ∧ 8 ≤ o % 0x100 ∧ o % 0x100 < 0x18 ∧ bit v 31 ∧ bit v 30 then
      [Sink.port ((o - 0x55000) / 0x100) ((o % 0x100 - 8) / 4)] else []
  let wins := m.flatMap fun (o, v) =>
    if 0x5A000 ≤ o ∧ o < 0x5B000 ∧ 0x100 ≤ o % 0x400 ∧ o % 0x400 < 0x200 ∧ o % 8 = 4 ∧ bit v 31 then
      [Sink.win ((o - 0x5A000) / 0x400) ((o % 0x400 - 0x100) / 8)] else []
  let vrs := (List.range 4).flatMap fun c => (List.range 4).filterMap fun k =>
    if xbarOf m c (0x40 + k) = 0xFF then none else some (Sink.vrs c k)
  let lanes := (List.range 4).flatMap fun c => (List.range 8).filterMap fun k =>
    if xbarOf m c (0x70 + k) = 0xFF then none else some (Sink.lane c (0x70 + k))
  let ways := m.flatMap fun (o, v) =>
    if 0x55000 ≤ o ∧ o < 0x59400 ∧ o % 0x100 = 0 then
      (List.range 4).filterMap fun k => if codeIsXi (slice v (6 * k + 5) (6 * k)) then some (Sink.pass ((o - 0x55000) / 0x100) k) else none
    else []
  els ++ ports ++ wins ++ vrs ++ lanes ++ ways

/-- The consumers of a source. -/
def Dev.consumers (d : Dev) (p : Nat) (r : Root) : List Sink := (d.sinks p).filter fun k => d.source p k == some r

/-! ### Tokens -/

/-- The entry of an association list at `k`. -/
def assocGet {α β : Type} [DecidableEq α] (dflt : β) : List (α × β) → α → β
  | [], _ => dflt
  | (k', v) :: t, k => if k = k' then v else assocGet dflt t k

/-- The association list with `v` at `k`. -/
def assocPut {α β : Type} [DecidableEq α] : List (α × β) → α → β → List (α × β)
  | [], k, v => [(k, v)]
  | (k', v') :: t, k, v => if k = k' then (k, v) :: t else (k', v') :: assocPut t k v

/-- The tokens waiting at a source. -/
def Dev.rootSt (d : Dev) (p : Nat) (r : Root) : RootSt := assocGet {} (d.trl p).roots r

/-- The device with the tokens waiting at a source replaced. -/
def Dev.putRoot (d : Dev) (p : Nat) (r : Root) (x : RootSt) : Dev :=
  d.updTrl p fun t => { t with roots := assocPut t.roots r x }

/-- A token enters a source's buffer; with no consumer it is accepted and discarded (R142). -/
def Dev.emit (d : Dev) (p : Nat) (r : Root) (t : Token) : Dev :=
  if (d.consumers p r).isEmpty then d
  else let x := d.rootSt p r; d.putRoot p r { x with toks := x.toks ++ [t] }

/-- Whether a sink is an input of its region: its source is a cask port or lies outside the region (R167). -/
def Dev.isInput (d : Dev) (p : Nat) (k : Sink) : Bool :=
  match d.source p k with
  | none => false
  | some (.port _ _) => true
  | some r => d.rootRegion p r != d.sinkRegion p k

/-- Whether an input of a region has passed EOF since the region was staged or restarted. -/
def Dev.inputPassed (d : Dev) (p : Nat) (k : Sink) : Bool :=
  match d.sinkRegion p k with
  | some r => (d.trl p).passed.contains (r, k)
  | none => false

/-- The token a sink may take now: none while its region is staged or drains and the input has delivered its EOF (R166,
R168). [log entry 32: DEDUCED] -/
def Dev.offered (d : Dev) (p : Nat) (k : Sink) : Option (Root × Token) :=
  match d.source p k with
  | none => none
  | some r =>
    let x := d.rootSt p r
    match x.toks with
    | [] => none
    | t :: _ => if x.taken.contains k || d.inputPassed p k then none else some (r, t)

/-- A sink accepts the oldest token of its source; the token leaves once every consumer has accepted it (R142, R163). [log entry 32: DEDUCED] -/
def Dev.accept (d : Dev) (p : Nat) (k : Sink) : Dev :=
  match d.offered p k with
  | none => d
  | some (r, t) =>
    let x := d.rootSt p r
    let taken := x.taken ++ [k]
    let all := (d.consumers p r).all fun c => taken.contains c
    let d' := d.putRoot p r (if all then { toks := x.toks.tail, taken := [] } else { x with taken := taken })
    match d.sinkRegion p k with
    | some n =>
      let st := d.regState p n
      if t.flags.eof && (st == 2 || st == 5) && d.isInput p k then
        d'.updTrl p fun s => { s with passed := (n, k) :: s.passed }
      else d'
    | none => d'

/-! ### Cask ports (R153 to R157) -/

/-- The configuration word of cask port `q` of tile `t`. -/
def Dev.portWord (d : Dev) (p t q : Nat) : Nat := cfgWord (d.trl p).act (oPort t q)

/-- What port `q` of tile `t` holds. -/
def Dev.portSt (d : Dev) (p t q : Nat) : PortSt := Tab.get {} (d.trl p).ports (4 * t + q)

/-- The device with what a port holds replaced. -/
def Dev.putPort (d : Dev) (p t q : Nat) (x : PortSt) : Dev :=
  d.updTrl p fun s => { s with ports := Tab.set {} s.ports (4 * t + q) x }

/-- The word a write port makes of one token with PACK clear (R154). -/
def wordOfToken (item : Bool) (t : Token) : CaskWord :=
  ⟨t.data % 2 ^ 32 + b2n t.flags.eol * 2 ^ 32 + b2n t.flags.eof * 2 ^ 33 + b2n t.flags.psn * 2 ^ 34,
   if item then t.flags.eof else t.flags.eol, false, false⟩

/-- The word of two tokens with PACK set (R155). -/
def wordOfPair (item : Bool) (a b : Token) : CaskWord :=
  ⟨a.data % 2 ^ 32 + 2 ^ 32 * (b.data % 2 ^ 32), if item then b.flags.eof else b.flags.eol, false, false⟩

/-- Whether a token's flags end the item a port counts by. -/
def endsItem (item : Bool) (f : Flags) : Bool := if item then f.eof else f.eol

/-- A write port takes a token and adds the words it makes. An item with an odd number of tokens is padded with a zero
token that carries the ending flags (R155). -/
def portWrite (w : Nat) (x : PortSt) (t : Token) : PortSt :=
  let item := bit w 28
  if bit w 29 then
    match x.half with
    | none => if endsItem item t.flags then { x with out := x.out ++ [wordOfPair item t ⟨0, t.flags⟩] } else { x with half := some t }
    | some h => { x with half := none, out := x.out ++ [wordOfPair item h t] }
  else { x with out := x.out ++ [wordOfToken item t] }

/-- A write port's waiting words enter its cask while it has credits. -/
def Dev.portDrain (d : Dev) (p t q : Nat) : Nat → Dev
  | 0 => d
  | fuel + 1 =>
    let x := d.portSt p t q
    let k := slice (d.portWord p t q) 27 21
    match x.out with
    | [] => d
    | w :: rest => if d.caskReady p k then ((d.putPort p t q { x with out := rest }).caskPut p k w).portDrain p t q fuel else d

/-- The tokens a read port makes of a word (R154 to R156). -/
def portTokens (w lines : Nat) (c : CaskWord) : List Token × Nat :=
  if bit w 29 then
    let last := c.fin && lines + 1 == slice w 20 6
    ([⟨c.data % 2 ^ 32, ⟨false, false, c.psn⟩⟩, ⟨c.data / 2 ^ 32 % 2 ^ 32, ⟨c.fin, last, c.psn⟩⟩],
     if c.fin then (if last then 0 else lines + 1) else lines)
  else ([⟨c.data % 2 ^ 32, ⟨bit c.data 32 || bit c.data 33, bit c.data 33, bit c.data 34 || c.psn⟩⟩], lines)

/-- The token of a cut frame: data 0, with EOL, EOF and PSN set (R156, R169). -/
def cutToken : Token := ⟨0, ⟨true, true, true⟩⟩

/-- A read port takes what its cask delivers. A port that is not enabled in read direction accepts and discards (R207). [log entry 32: DEDUCED] -/
def Dev.portDeliver (d : Dev) (p t q : Nat) (x : Delivered) : Dev :=
  let w := d.portWord p t q
  if bit w 31 && !bit w 30 then
    let st := d.portSt p t q
    match x with
    | .nothing => d
    | .flushed => (d.putPort p t q { st with lines := 0 }).emit p (.port t q) cutToken
    | .word c _ =>
      let (ts, n) := portTokens w st.lines c
      ts.foldl (fun d t' => d.emit p (.port t q) t') (d.putPort p t q { st with lines := n })
  else d

/-! ### Windows (R158 to R161, R165) -/

/-- The owner, edge, depth, length and base of a tile window, where it is in use. -/
structure WinCfg where
  en : Bool
  owner : Nat
  edge : Nat
  depth : Nat
  len : Nat
  base : Nat
deriving DecidableEq, Repr

/-- The fields of a tile window word (R158). -/
def WinCfg.ofWord (w : Nat) : WinCfg :=
  ⟨bit w 63, slice w 62 59, slice w 58 57, slice w 56 52, slice w 45 32, slice w 13 0⟩

/-- The fields of a cluster window word (R165); `owner` holds MODE. -/
def WinCfg.ofCluster (w : Nat) : WinCfg :=
  ⟨bit w 63, b2n (bit w 62), slice w 61 60, slice w 59 52, slice w 51 36, slice w 19 0⟩

/-- A stored word: data and flags. -/
def memWord (t : Token) : Nat :=
  t.data % 2 ^ 32 + b2n t.flags.eol * 2 ^ 32 + b2n t.flags.eof * 2 ^ 33 + b2n t.flags.psn * 2 ^ 34

/-- The token of a stored word. -/
def tokenOfMem (w : Nat) : Token := ⟨w % 2 ^ 32, ⟨bit w 32, bit w 33, bit w 34⟩⟩

/-- LMP: the token is stored at the column pointer of the current line, and the pointer advances (R159). [log entry 32: DEDUCED] -/
def Dev.lmPush (d : Dev) (p t w : Nat) (x : Token) : Dev :=
  let c := WinCfg.ofWord (cfgWord64 (d.trl p).act (oWin t w))
  let st := Tab.get {} (d.trl p).wins (16 * t + w)
  let a := c.base + st.line * c.len + st.ptr
  let st' : WinSt :=
    if st.ptr + 1 < c.len then { st with ptr := st.ptr + 1 }
    else ⟨0, if st.line + 1 < c.depth then st.line + 1 else 0, st.count + 1⟩
  d.updTrl p fun s =>
    { s with lm := Tab.set 0 s.lm (16384 * t + a) (memWord x), wins := Tab.set {} s.wins (16 * t + w) st' }

/-- LMT: the word stored `k` lines earlier at the pointer, or a zero word above the first lines with EDGE ZERO; whether it
is read poisoned (R159 to R161). [log entry 32: DEDUCED] -/
def Dev.lmTap (d : Dev) (p t w k : Nat) (flaw : Flaw) : Token × Dev :=
  let c := WinCfg.ofWord (cfgWord64 (d.trl p).act (oWin t w))
  let st := Tab.get {} (d.trl p).wins (16 * t + w)
  if c.edge = 1 && decide (st.count < k) then (⟨0, {}⟩, d)
  else
    let a := c.base + (st.line + c.depth - k) % c.depth * c.len + st.ptr
    let x := tokenOfMem (Tab.get 0 (d.trl p).lm (16384 * t + a))
    match flaw with
    | .ok => (x, d)
    | .single => (x, d.bump C.TRL_CORR_CNT p)
    | .multiple =>
      ({ x with flags := { x.flags with psn := true } },
       (d.bump C.TRL_UNC_CNT p).raiseP p 27 (pack [(7, t), (20, a)]))

/-- A line-store word that a cluster window reads, with what its check bits show: corrected and counted, or poisoned, counted and reported
(R161, R165). -/
def Dev.lsRead (d : Dev) (p c word : Nat) (x : Token) : Token × Dev :=
  let flaw := (d.trl p).flaw
  let d := d.updTrl p fun s => { s with flaw := .ok }
  match flaw with
  | .ok => (x, d)
  | .single => (x, d.bump C.TRL_CORR_CNT p)
  | .multiple =>
    ({ x with flags := { x.flags with psn := true } }, (d.bump C.TRL_UNC_CNT p).raiseP p 27 (pack [(7, c), (20, word)]))

/-- A cluster window takes one token and, as a DELAY window, gives the one of LEN × DEPTH tokens earlier, or what EDGE says while it has
taken fewer since the last EOF (R165). An ELASTIC window reads its words as its output is accepted. [log entry 32: DEDUCED] -/
def Dev.cwinTake (d : Dev) (p c w : Nat) (x : Token) : Dev :=
  let cf := WinCfg.ofCluster (cfgWord64 (d.trl p).act (oCwin c w))
  let n := cf.len * cf.depth
  let st := Tab.get {} (d.trl p).cwins (32 * c + w)
  let a := 2 ^ 20 * c + cf.base + st.ptr
  let old := tokenOfMem (Tab.get 0 (d.trl p).ls a)
  let d := d.updTrl p fun s =>
    { s with
      ls := Tab.set 0 s.ls a (memWord x)
      cwins := Tab.set {} s.cwins (32 * c + w)
        ⟨if st.ptr + 1 < n then st.ptr + 1 else 0, if x.flags.eof then 0 else if st.count < n then st.count + 1 else n⟩ }
  if cf.owner = 1 then let (x, d) := d.lsRead p c (cf.base + st.ptr) x; d.emit p (.win c w) x
  else if st.count < n && cf.edge == 1 then d.emit p (.win c w) ⟨0, {}⟩
  else let (old, d) := d.lsRead p c (cf.base + st.ptr) old; d.emit p (.win c w) old

/-- Whether a cluster window has room: an ELASTIC window for LEN × DEPTH tokens, a DELAY window while its output is
free. -/
def Dev.cwinRoom (d : Dev) (p c w : Nat) : Bool :=
  let cf := WinCfg.ofCluster (cfgWord64 (d.trl p).act (oCwin c w))
  let q := (d.rootSt p (.win c w)).toks.length
  cf.en && (if cf.owner = 1 then decide (q < cf.len * cf.depth) else q == 0)

/-! ### What flows without a command of its own -/

/-- Whether the region of a sink discards what reaches it: in FAULT always, in RESTART until the input has passed EOF
(R169, R170). -/
def Dev.discards (d : Dev) (p : Nat) (k : Sink) : Bool :=
  match d.sinkRegion p k with
  | some r => d.isInput p k && (d.regState p r == 4 || (d.regState p r == 5 && !d.inputPassed p k))
  | none => false

/-- Whether the region of a sink runs; a Pavane stops every region (R636). -/
def Dev.sinkRuns (d : Dev) (p : Nat) (k : Sink) : Bool :=
  match d.sinkRegion p k with
  | some r => let st := d.regState p r; !d.stopped && (st == 1 || st == 2 || st == 3)
  | none => true

/-- One sink takes what it takes by itself: discarded tokens, a write port's token, a cluster window's token, what a path passes on. -/
def Dev.flowSink (d : Dev) (p : Nat) (k : Sink) : Dev :=
  match d.offered p k with
  | none => d
  | some (_, t) =>
    if d.discards p k then d.accept p k
    else if !d.sinkRuns p k then d
    else match k with
      | .port u q =>
        let x := d.portSt p u q
        if x.out.length < 1 then
          ((d.accept p k).putPort p u q (portWrite (d.portWord p u q) x t)).portDrain p u q 2
        else d
      | .win c w => if d.cwinRoom p c w then (d.accept p k).cwinTake p c w t else d
      | .lane c l => if (d.rootSt p (.lane c l)).toks.isEmpty then (d.accept p k).emit p (.lane c l) t else d
      | .pass u o => if (d.rootSt p (.pass u o)).toks.isEmpty then (d.accept p k).emit p (.pass u o) t else d
      | .el _ _ => d
      | .vrs _ _ => d

/-- One round over every sink. -/
def Dev.flowRound (d : Dev) (p : Nat) : Dev := (d.sinks p).foldl (fun d k => d.flowSink p k) d

/-- Rounds until nothing moves, at most `fuel`. -/
def Dev.flowN (p : Nat) : Nat → Dev → Dev
  | 0, d => d
  | fuel + 1, d =>
    let d' := d.flowRound p
    if (d'.trl p).roots = (d.trl p).roots then d' else Dev.flowN p fuel d'

/-- The tokens of pipe `p` move as far as the handshakes let them. [log entry 32: DEDUCED] -/
def Dev.flow (d : Dev) (p : Nat) : Dev :=
  let d := (d.trl p).ports.foldl (fun d (k, _) => d.portDrain p (k / 4) (k % 4) 2) d
  Dev.flowN p 256 d

/-! ### Micro-ops (R139 to R143, R150) -/

/-- The state of element `e`; before its first micro-op after a load or restart the counter stands at START (R141). -/
def Dev.elem (d : Dev) (p e : Nat) : ElemSt :=
  let x := Tab.get {} (d.trl p).els e
  if x.begun then x else { x with pc := slice (cfgWord64 (d.trl p).act (oElem e)) 61 57 }

/-- The device with the state of element `e` replaced. -/
def Dev.putElem (d : Dev) (p e : Nat) (x : ElemSt) : Dev := d.updTrl p fun s => { s with els := Tab.set {} s.els e x }

/-- The micro-op element `e` stands at. -/
def Dev.uop (d : Dev) (p e : Nat) : Uop := Uop.ofWord (cfgWord64 (d.trl p).act (oOp e (d.elem p e).pc))

/-- The source codes a micro-op uses (R139). -/
def Uop.sources (u : Uop) : List Nat :=
  let (x, y, z) := opUses u.opc
  (if x then [u.a] else []) ++ (if y then [u.b] else []) ++ (if z then [u.c] else [])

/-- The input ports a micro-op consumes or peeks. -/
def Uop.ports (u : Uop) : List Nat :=
  (List.range 4).filter fun i => u.sources.contains (8 + i) || u.sources.contains (12 + i)

/-- The input ports a micro-op consumes. -/
def Uop.consumes (u : Uop) : List Nat := (List.range 4).filter fun i => u.sources.contains (8 + i)

/-- The outputs a micro-op writes: NOP writes none (R144). -/
def Uop.outputs (u : Uop) : List Nat := if u.opc = 0 then [] else (List.range 2).filter fun o => bit u.out o

/-- Whether output `o` of element `e` has a free place (R140, R142). -/
def Dev.outFree (d : Dev) (p e o : Nat) : Bool := decide ((d.rootSt p (.el e o)).toks.length < 2)

/-- Whether a class names a unit of a pipe (R665). -/
def bistOfPipe (cls : Nat) : Bool := decide (cls ≤ 7) || cls == 10

/-- Whether the unit is isolated by a run: it takes and discards its tokens (R666). [log entry 68: DESIGN CHOICE] -/
def Dev.bistHolds (d : Dev) (cls p idx : Nat) : Bool :=
  d.on F.BIST_STAT_BUSY && decide (2 ≤ d.rd F.BIST_STAT_PHASE) && d.rd F.BIST_CMD_CLASS == cls &&
    (!bistOfPipe cls || d.rd F.BIST_CMD_PIPE == p) && d.rd F.BIST_CMD_INDEX == idx

/-- Whether element `e` runs: enabled, its tile not isolated by a self-test, and its region in RUN, STAGED or DRAIN. -/
def Dev.elemRuns (d : Dev) (p e : Nat) : Bool :=
  bit (cfgWord64 (d.trl p).act (oElem e)) 63 && !d.bistHolds 0 p (e / 16) &&
    match d.physRegion p (e / 16) with
    | some r => let st := d.regState p r; st == 1 || st == 2 || st == 3
    | none => false

/-- Whether the micro-op of element `e` may start (R140). -/
def Dev.uopReady (d : Dev) (p e : Nat) : Bool :=
  let u := d.uop p e
  d.elemRuns p e && !(d.elem p e).busy && (u.ports.all fun i => (d.offered p (.el e i)).isSome) &&
    u.outputs.all fun o => d.outFree p e o

/-- ONE in a format (R139). -/
def srcOne (fmt : Nat) : Nat := if fmt = 2 then lanes 0x3C00 0x3C00 else if fmt = 3 then 1 else lanes 1 1

/-- The operand word a source code names (R139). A reserved code never passes the loader (R148) and reads 0 here. -/
def Dev.operand (d : Dev) (p e fmt code : Nat) : Nat :=
  let x := d.elem p e
  let port := fun i => match d.offered p (.el e i) with | some (_, t) => t.data | none => 0
  if code < 8 then Tab.get 0 x.g code
  else if code < 12 then port (code - 8)
  else if code < 16 then port (code - 12)
  else if code < 0x18 then cfgWord (d.trl p).act (oConst e (code - 16))
  else if code = 0x19 then srcOne fmt
  else if code = 0x1A then lanes x.posA x.posB
  else 0

/-- The or of two sets of flags. -/
def Flags.or (a b : Flags) : Flags := ⟨a.eol || b.eol, a.eof || b.eof, a.psn || b.psn⟩

/-- The POS counters after the tokens consumed from I0 (R139, R150). -/
def posAfter (x : ElemSt) : Option Flags → ElemSt
  | none => x
  | some f =>
    if f.eof then { x with posA := 0, posB := 0 }
    else if f.eol then { x with posA := 0, posB := min 0xFFFF (x.posB + 1) }
    else { x with posA := min 0xFFFF (x.posA + 1) }

/-- The completion of element `e`'s micro-op (R140 to R150): result, DST, outputs with the latch, window push, consumed
tokens, position counters, RSTSEAM, and the next entry. [log entry 32: DEDUCED] -/
def Dev.uopComplete (d : Dev) (p e : Nat) (flaw : Flaw) : Dev :=
  let u := d.uop p e
  let x := d.elem p e
  let t := e / 16
  let cfg := cfgWord64 (d.trl p).act (oElem e)
  let tokens := u.consumes.filterMap fun i => (d.offered p (.el e i)).map fun r => (i, r.2.flags)
  let a := d.operand p e u.fmt u.a
  let (tap, d) := if u.opc = 0x20 then d.lmTap p t (u.b % 16) u.c flaw else (⟨0, {}⟩, d)
  let r := if u.opc = 0x20 then tap.data
    else laneSelect u a (aluResult u a (d.operand p e u.fmt u.b) (d.operand p e u.fmt u.c))
  let latch := tokens.foldl (fun f y => f.or y.2) (x.latch.or ⟨false, false, u.opc == 0x20 && tap.flags.psn⟩)
  let i0 := (tokens.find? fun y => y.1 == 0).map (·.2)
  let eof0 := match i0 with | some f => f.eof | none => false
  let g := if u.dwr && u.opc != 0 then Tab.set 0 x.g u.dst r else x.g
  let x' := posAfter { x with g := if eof0 && bit cfg 62 then [] else g } i0
  let done := u.last || x.pc == 31
  let x' := { x' with
    begun := true, busy := false
    pc := if done then slice cfg 56 52 else x.pc + 1
    latch := if u.last then {} else latch }
  let d := if u.opc = 0x21 then d.lmPush p t (u.b % 16) ⟨r, latch⟩ else d
  let d := u.consumes.foldl (fun d i => d.accept p (.el e i)) d
  let d := if u.opc = 0x20 then d else d.updTrl p fun s => { s with flaw := flaw }
  let d := u.outputs.foldl (fun d o => d.emit p (.el e o) ⟨r, latch⟩) d
  let d := if eof0 then d.updTrl p fun s =>
      { s with wins := (List.range 16).foldl (fun ws w =>
          let c := WinCfg.ofWord (cfgWord64 s.act (oWin t w))
          if c.en && c.owner == e % 16 then Tab.upd {} ws (16 * t + w) (fun y => { y with count := 0 }) else ws) s.wins }
    else d
  ((d.putElem p e x').flow p).updTrl p fun s => { s with flaw := .ok }

/-! ### Faults of configuration storage (R170) -/

/-- The outputs of region `r` inside the fabric: its sources with a consumer outside it. -/
def Dev.regionRoots (d : Dev) (p r : Nat) : List Root :=
  let rs := (d.sinks p).filterMap fun k =>
    match d.source p k with
    | some s => if d.rootRegion p s == some r && d.sinkRegion p k != some r then some s else none
    | none => none
  rs.foldl (fun l s => if l.contains s then l else l ++ [s]) []

/-- The write cask ports of region `r`. -/
def Dev.regionPorts (d : Dev) (p r : Nat) : List (Nat × Nat) :=
  (d.sinks p).filterMap fun k =>
    match k with
    | .port t q => if d.sinkRegion p k == some r then some (t, q) else none
    | _ => none

/-- Every token inside region `r` is discarded (R169). What a read port holds has not entered the region, and its line count goes on (R155):
its tokens wait at the input, for every consumer again. -/
def Dev.regionDiscard (d : Dev) (p r : Nat) : Dev :=
  d.updTrl p fun s => { s with
    roots := s.roots.map fun x =>
      if d.rootRegion p x.1 == some r then
        match x.1 with
        | .port _ _ => (x.1, { x.2 with taken := [] })
        | _ => (x.1, {})
      else x
    ports := s.ports.map fun x => if d.physRegion p (x.1 / 4) == some r then (x.1, { lines := x.2.lines }) else x }

/-- Each output of region `r` emits the token of a cut frame (R169 step 2). -/
def Dev.regionEmitCut (d : Dev) (p r : Nat) : Dev :=
  let d := (d.regionRoots p r).foldl (fun d s =>
    d.putRoot p s ⟨[cutToken], (d.consumers p s).filter fun k => d.sinkRegion p k == some r⟩) d
  (d.regionPorts p r).foldl (fun d (t, q) =>
    (d.putPort p t q (portWrite (d.portWord p t q) {} cutToken)).portDrain p t q 2) d

/-- Region `r` enters FAULT (R170): its elements stop, a micro-op under way among them. -/
def Dev.regionToFault (d : Dev) (p r cause : Nat) : Dev :=
  let d := ((d.regionDiscard p r).regionEmitCut p r).setRegState p r 4
  let d := d.updTrl p fun s => { s with els := s.els.map fun x => if d.physRegion p (x.1 / 16) == some r then (x.1, { x.2 with busy := false }) else x }
  d.wr F.TRL_REG_STAT_CAUSE cause p r

/-- `TRL_FAULT` written, TRL_TILE_FAULT raised with it. -/
def Dev.tileFault (d : Dev) (p kind unit region elem : Nat) : Dev :=
  let d := ((d.wr F.TRL_FAULT_VALID 1 p).wr F.TRL_FAULT_KIND kind p).wr F.TRL_FAULT_UNIT unit p
  let d := (d.wr F.TRL_FAULT_REGION region p).wr F.TRL_FAULT_ELEM elem p
  d.raiseP p 24 (d.fieldWord ⟨.TRL_FAULT, p, 0, 0⟩)

/-- The regions with a tile, window or destination in cluster `c`. -/
def Dev.clusterRegions (d : Dev) (p c : Nat) : List Nat :=
  (List.range 16).filter fun r =>
    d.regState p r != 0 &&
      (((List.range 16).any fun j => d.tileRegion p (16 * c + j) == some r) ||
        (let x := Tab.get {} (d.trl p).info r
         x.cwins.getD c 0 != 0 || (List.range 4).any fun k => x.xdest.getD (4 * c + k) 0 != 0))

/-! ### Commands -/

/-- A micro-op starts (R140). `flaw` says what the check bits of its word show (R137): a single-bit error is corrected and
counted; the effect of an uncorrectable one is `REGION_FAULT`, and the micro-op does not start. -/
def execMicroopStart (p : Pipe) (e : Fin 1088) (flaw : Flaw) (s : State) : Out := runWork s fun d =>
  if d.uopReady p e && flaw != .multiple then
    (d.putElem p e { d.elem p e with busy := true }).when (flaw == .single) fun d => d.bump C.TRL_CORR_CNT p
  else d

/-- The micro-op in progress completes; `flaw` is that of the line-memory word an LMT reads, and for another micro-op that of the
line-store word that its output makes a cluster window read. -/
def execMicroopComplete (p : Pipe) (e : Fin 1088) (flaw : Flaw) (s : State) : Out := runWork s fun d =>
  if (Tab.get {} (d.trl p).els e).busy && d.elemRuns p e then d.uopComplete p e flaw else d

/-- Whether `TRL_LM_ADDR` names a word there is: tile 0 to 67, or cluster 0 to 3, and a word of its memory. -/
def lmAddrOk (store : Bool) (unit word : Nat) : Bool :=
  if store then decide (unit ≤ 3) else decide (unit ≤ 67) && decide (word < 16384)

/-- A write of `TRL_LM_ADDR` starts one read; out of contract it reads nothing and sets no VALID. -/
def Dev.lmRead (d : Dev) (p w : Nat) : Dev :=
  let d := (d.wrWord ⟨.TRL_LM_ADDR, p, 0, 0⟩ w).wr F.TRL_LM_STAT_VALID 0 p
  d.updTrl p fun s => { s with lmReq := lmAddrOk (bit w 31) (slice w 30 24) (slice w 19 0) }

def execTrlLmRead (p : Pipe) (w : Word) (s : State) : Out := bar2 .TRL p s fun d => d.lmRead p w.toNat

/-- The word read appears in `TRL_LM_DATA` and `TRL_LM_STAT` (R161). -/
def execTrlLmReadDone (p : Pipe) (flaw : Flaw) (s : State) : Out := run s fun d =>
  if (d.trl p).lmReq then
    let store := d.on F.TRL_LM_ADDR_STORE p
    let unit := d.rd F.TRL_LM_ADDR_UNIT p
    let word := d.rd F.TRL_LM_ADDR_WORD p
    let v := if store then Tab.get 0 (d.trl p).ls (2 ^ 20 * unit + word) else Tab.get 0 (d.trl p).lm (16384 * unit + word)
    let x := tokenOfMem v
    let d := d.updTrl p fun s => { s with lmReq := false }
    let d := (((d.wr F.TRL_LM_DATA_DATA x.data p).wr F.TRL_LM_STAT_VALID 1 p).wrb F.TRL_LM_STAT_UNC (flaw == .multiple) p).wrb
      F.TRL_LM_STAT_CORR (flaw == .single) p
    let d := ((d.wrb F.TRL_LM_STAT_PSN x.flags.psn p).wrb F.TRL_LM_STAT_EOF x.flags.eof p).wrb F.TRL_LM_STAT_EOL x.flags.eol p
    match flaw with
    | .ok => d
    | .single => d.bump C.TRL_CORR_CNT p
    | .multiple => (d.bump C.TRL_UNC_CNT p).raiseP p 27 (pack [(7, unit), (20, word)])
  else d

/-- Whether the monitor's selection is in contract. -/
def Dev.monOn (d : Dev) (p : Nat) : Bool :=
  d.on F.TRL_MON_SEL_EN p && decide (d.rd F.TRL_MON_SEL_ELEM p ≤ 1087) && d.rd F.TRL_MON_SEL_WIN p != 0

/-- A monitor window ends with the fractions measured, in 1/256; they sum to at most 256. A fraction of 256 does not fit its
eight bits and shows 255. [log entry 33: DEDUCED] -/
def execTrlMonWindowEnd (p : Pipe) (busy starve block : Nat) (s : State) : Out :=
  runIf (decide (busy + starve + block ≤ 256)) s fun d =>
    if d.monOn p then
      (((d.wr F.TRL_MON_RES_VALID 1 p).wr F.TRL_MON_RES_BUSY (min 255 busy) p).wr F.TRL_MON_RES_STARVE (min 255 starve) p).wr
        F.TRL_MON_RES_BLOCK (min 255 block) p
    else d

/-- A region is put in FAULT by an uncorrectable configuration error: `kind` as `TRL_FAULT.KIND`, `unit` the physical tile or, for a
crossbar entry, the cluster. Kind 5 is the word of cluster window `elem` of cluster `unit`: a window word, KIND 3, for which the spec gives
UNIT no value. -/
def Dev.regionFault (d : Dev) (p kind unit elem : Nat) : Dev :=
  let d := d.bump C.TRL_UNC_CNT p
  if kind = 4 then
    match d.clusterRegions p unit with
    | [] => d
    | r :: rest => ((r :: rest).foldl (fun d r => d.regionToFault p r 2) d).tileFault p 4 unit r 0
  else if kind = 5 then
    match regionOfWin (d.trl p).info unit elem with
    | some r =>
      if d.regState p r = 0 then d
      else
        let (v, d) := d.draw
        (d.regionToFault p r 1).tileFault p 3 (v % 2 ^ 7) r 0
    | none => d
  else
    match d.physRegion p unit with
    | some r =>
      if d.regState p r = 0 then d
      else (d.regionToFault p r 1).tileFault p kind unit r (if kind ≤ 1 then elem else 0)
    | none => d

/-! ### Failed marks (R172 to R175) -/

/-- Shows in `TRL_RPR_MAP.PENDING` whether a running region uses a failed slot or a cleared slot is still remapped. -/
def Dev.rprPending (d : Dev) (p c : Nat) : Dev :=
  let fail := d.rd F.TRL_RPR_FAIL_FAIL p c
  let runs := fun j =>
    match d.tileRegion p (16 * c + j) with
    | some r => let st := d.regState p r; decide (1 ≤ st) && decide (st ≤ 3)
    | none => false
  let used := d.on F.TRL_RPR_MAP_USED p c
  let ls := d.rd F.TRL_RPR_MAP_LSLOT p c
  let a := (List.range 16).any fun j => runs j && bit fail (if used && ls == j then 16 else j)
  d.wrb F.TRL_RPR_MAP_PENDING (a || (used && !bit fail ls)) p c

/-- Marks failed slots of cluster `c`. -/
def Dev.rprMark (d : Dev) (p c mask : Nat) : Dev :=
  (d.wr F.TRL_RPR_FAIL_FAIL (Nat.lor (d.rd F.TRL_RPR_FAIL_FAIL p c) mask) p c).rprPending p c

def execRprFailMark (p : Pipe) (c : Fin 4) (w : Word) (s : State) : Out := bar2 .TRL p s fun d => d.rprMark p c (w.toNat % 2 ^ 17)

/-- Removes failed marks of cluster `c`. -/
def Dev.rprClear (d : Dev) (p c mask : Nat) : Dev :=
  let f := d.rd F.TRL_RPR_FAIL_FAIL p c
  (d.wr F.TRL_RPR_FAIL_FAIL (f - Nat.land f mask) p c).rprPending p c

def execRprClr (p : Pipe) (c : Fin 4) (w : Word) (s : State) : Out := bar2 .TRL p s fun d => d.rprClear p c (w.toNat % 2 ^ 17)

end Sys2Proof.Machine
end

