-- ==== Sys2Proof/Machine/PxrEnc.lean ====
section
/-!
DEFINITION. The PXR encoder (chapter 10, R324 to R355): units into the take casks, rows, slices, frames, gap records.
-/
namespace Sys2Proof.Machine

/-- The encoder of virtual channel `v` of pipe `p`. -/
def Dev.enc (d : Dev) (p v : Nat) : PxrEnc := Tab.get {} (d.pipe p).encs v

/-- The device with the encoder of a virtual channel replaced. -/
def Dev.putEnc (d : Dev) (p v : Nat) (e : PxrEnc) : Dev := d.updPipe p fun s => { s with encs := Tab.set {} s.encs v e }

/-- The mosaic descriptor of a virtual channel (`VRS_MOS_VC`). -/
def Dev.mosOf (d : Dev) (p v : Nat) : Nat := slice (d.rd F.VRS_MOS_VC_DESC p) (2 * v + 1) (2 * v)

/-- The site entries of mosaic descriptor `m`. -/
def Dev.mosSites (d : Dev) (p m : Nat) : List Nat :=
  (List.range 16).flatMap fun k =>
    [d.rd F.VRS_MOS_SITE_SITE0 p m k, d.rd F.VRS_MOS_SITE_SITE1 p m k, d.rd F.VRS_MOS_SITE_SITE2 p m k,
     d.rd F.VRS_MOS_SITE_SITE3 p m k]

/-- The format of a virtual channel's stream, with the thresholds of R350. -/
def Dev.pxrGeo (d : Dev) (p v : Nat) : PxrGeo :=
  let m := d.mosOf p v
  let bits := rawBits (d.rd F.SFE_VCG_DT p v)
  let bounded := d.on F.PXR_ENC_CFG_MODE p
  let dmax := d.rd F.PXR_ENC_CFG_DMAX p
  let delta := if bounded then d.rd F.PXR_ENC_CFG_DMIN p else d.rd F.PXR_ENC_CFG_DELTA p
  let f := 2 ^ (bits - 8)
  let dt := if bounded then dmax else delta
  { bits := bits, width := d.rd F.SFE_VCG_WIDTH p v, lines := d.rd F.SFE_VCL_LINES p v,
    pw := d.rd F.VRS_MOS_CFG_PW p m, ph := d.rd F.VRS_MOS_CFG_PH p m, xph := d.rd F.VRS_MOS_CFG_XPH p m,
    yph := d.rd F.VRS_MOS_CFG_YPH p m, x0 := d.rd F.SFE_STRIPE_X0_X0 p, sites := d.mosSites p m,
    bounded := bounded, delta := delta, dmax := dmax, t1 := 3 * f + 2 * dt, t2 := 7 * f + 3 * dt, t3 := 21 * f + 4 * dt,
    budget := 8 * d.rd F.PXR_ENC_BUDGET_BUDGET8 p }

/-- The SRC byte of a stream (R328). -/
def pxrSrc (p v : Nat) : Nat := v + 16 * p

/-- The bytes of the stream descriptor of a virtual channel. -/
def Dev.pxrDesc (d : Dev) (p v take : Nat) : List Byte :=
  let stripe := d.rd F.SFE_STRIPE_INDEX p + 2 ^ 8 * d.rd F.SFE_STRIPE_NSTRIPE p + 2 ^ 16 * d.rd F.SFE_STRIPE_HALO_L p +
    2 ^ 24 * d.rd F.SFE_STRIPE_HALO_R p
  descBytes (d.pxrGeo p v) (pxrSrc p v) stripe (d.rd F.PXR_ENC_CFG_DREP p) take (d.rd F.VRS_MOS_CFG_NPLANE p (d.mosOf p v))

/-- The cask words of bytes, eight to a word; `fin` puts END on the last. -/
def wordsOfBytes (fin : Bool) : Nat → List Byte → List CaskWord
  | 0, _ => []
  | _, [] => []
  | fuel + 1, bs =>
    let rest := bs.drop 8
    { data := ofLeBytes (bs.take 8), fin := fin && rest.isEmpty } :: wordsOfBytes fin fuel rest

/-- Writes bytes of a unit into the take cask of a virtual channel (R324). -/
def Dev.encSend (d : Dev) (p v : Nat) (bs : List Byte) (fin : Bool) : Dev :=
  (d.caskSend p (d.rd F.PXR_ENC_VCC_CASK p v) (0x2080 + v) (wordsOfBytes fin bs.length bs)).bumpBy bs.length C.PXR_CNT_BYTES p

/-- The bytes of bits, the first bit most significant. -/
def bytesOfBits : Nat → List Bool → List Byte
  | 0, _ => []
  | _, [] => []
  | fuel + 1, bs => BitVec.ofNat 8 ((bs.take 8).foldl (fun a b => 2 * a + b2n b) 0) :: bytesOfBits fuel (bs.drop 8)

/-- Sends coded bits: whole 64-bit words go out, the rest waits; the running CRC and the lengths follow. -/
def Dev.encBits (d : Dev) (p v : Nat) (bits : List Bool) : Dev :=
  let e := d.enc p v
  let all := e.bits ++ bits
  let n := all.length / 64 * 64
  let bs := bytesOfBits (n / 8) (all.take n)
  (d.encSend p v bs false).putEnc p v
    { e with bits := all.drop n, used := e.used + bits.length, crc := crcRun e.crc bs, len := e.len + bs.length }

/-- The rows of the slice that row `y` lies in (R330). -/
def sliceRows (lines y : Nat) : Nat := min 64 (lines - y / 64 * 64)

/-- A slice begins: its header, contexts reset, the error bound of R352. -/
def Dev.encSliceStart (d : Dev) (p v : Nat) : Dev :=
  let e := d.enc p v
  let g := d.pxrGeo p v
  let h := sliceHeader g (e.y / 64) (sliceRows g.lines e.y) e.seq
  (d.encSend p v h false).putEnc p v
    { e with prev := [], ctx := {}, bits := [], used := 0, dmask := 0, crc := crcRun crcInit h, offs := e.offs ++ [e.len],
             len := e.len + h.length, dcur := if e.coded then e.dlast else g.delta }

/-- A slice ends: zero bits to a whole word, then its trailer (R332); a damaged slice is counted. -/
def Dev.encSliceEnd (d : Dev) (p v : Nat) : Dev :=
  let e := d.enc p v
  let clen := ceilDiv e.used 64 * 8
  let d := d.encBits p v (List.replicate (8 * clen - e.used) false)
  let e := d.enc p v
  let t := leBytes 8 e.dmask ++ leBytes 4 clen
  let t := t ++ leBytes 4 (crcEnd (crcRun e.crc t))
  let d := (d.encSend p v t false).putEnc p v { e with len := e.len + 16, dmg := e.dmg || e.dmask != 0 }
  d.when (e.dmask != 0) fun d => d.bump C.PXR_CNT_DSLICE p

/-- One row is coded, regular or REPEAT, and the bound adjusted (R343 to R346, R351 to R353). -/
def Dev.encRow (d : Dev) (p v : Nat) (vals : List Nat) (dmg : Bool) : Dev :=
  let g := d.pxrGeo p v
  let d := d.when ((d.enc p v).y % 64 == 0) fun d => d.encSliceStart p v
  let e := d.enc p v
  let rows := sliceRows g.lines e.y
  let r := e.y % 64
  let rep := g.bounded && !g.rowFits e.used rows r
  let d :=
    if rep then
      let d := d.encBits p v (rowPrefix true e.dcur)
      let d := d.bump C.PXR_CNT_REPEAT p
      let d := d.when (!e.rep) fun d => d.raiseP p 45 (v * 2 ^ 16 + e.seq % 2 ^ 16)
      let e := d.enc p v
      d.putEnc p v { e with prev := g.repeatRow e.prev :: e.prev, rep := true }
    else
      let δ := if g.bounded then e.dcur else g.delta
      let (bs, ctx, rec_) := g.codeRow δ e.y e.prev vals e.ctx
      let d := d.encBits p v ((if g.bounded then rowPrefix false δ else []) ++ bs)
      let e := d.enc p v
      let next := if g.bounded then g.adjust δ e.used rows r else δ
      (d.putEnc p v { e with prev := rec_ :: e.prev, ctx := ctx, dlast := δ, dcur := next, coded := true }).wr
        F.PXR_ENC_VSTAT_DELTA δ p v
  let e := d.enc p v
  let d := d.putEnc p v { e with y := e.y + 1, dmask := e.dmask + (if dmg then 2 ^ r else 0) }
  d.when (r + 1 == rows) fun d => d.encSliceEnd p v

/-- A gap record is written as a unit of its own, counted and reported (R336, R337, R364). -/
def Dev.encGap (d : Dev) (p v : Nat) (r : GapRec) : Dev :=
  let r := { r with take := (d.enc p v).take }
  ((d.encSend p v r.bytes true).bump C.PXR_CNT_GAPS p).raiseP p 44 (v * 2 ^ 16 + r.form * 2 ^ 8 + r.cause)

/-- The descriptor, where the stream has none yet or it is due again (R329). -/
def Dev.encDesc (d : Dev) (p v : Nat) : Dev :=
  let e := d.enc p v
  (d.encSend p v (d.pxrDesc p v e.take) true).putEnc p v { e with begun := true }

/-- A frame unit begins: any due descriptor, then the frame header (R329, R331, R354). -/
def Dev.encFrameStart (d : Dev) (p v fn seq : Nat) (t : Nat × Nat) : Dev :=
  let drep := d.rd F.PXR_ENC_CFG_DREP p
  let e := d.enc p v
  let d := d.when (!e.begun || (seq != 0 && drep != 0 && seq % drep == 0)) fun d => d.encDesc p v
  let e := d.enc p v
  let dcrc := ofLeBytes ((d.pxrDesc p v e.take).drop 0x7C)
  let h := frameHeader (d.pxrGeo p v) (pxrSrc p v) seq fn t.1 t.2 dcrc e.take
  ((d.encSend p v h false).putEnc p v
    { e with writing := true, seq := seq, fn := fn, fs := t, y := 0, offs := [], len := h.length, dmg := false, rep := false,
             bits := [], used := 0, dmask := 0 }).wr F.PXR_ENC_VSTAT_OPEN 1 p v

/-- A frame unit ends with the slice index and trailer (R333); with VOID it counts as no frame (R334). -/
def Dev.encFrameEnd (d : Dev) (p v : Nat) (void : Bool) (t : Nat × Nat) : Dev :=
  let e := d.enc p v
  let g := d.pxrGeo p v
  let whole := if void && e.y % 64 != 0 && e.y < g.lines then e.offs.dropLast else e.offs
  let flags := b2n void + 2 * b2n e.dmg + 4 * b2n e.rep
  let bs := frameTrailer whole flags e.seq e.len t.1 t.2
  let flen := e.len + bs.length
  let d := ((d.encSend p v bs true).putEnc p v { e with writing := false, prev := [], ctx := {}, offs := [], bits := [] }).wr
    F.PXR_ENC_VSTAT_OPEN 0 p v
  if void then d
  else
    (d.bump C.PXR_CNT_FRAMES p).wr F.PXR_ENC_VSTAT_RATIO (min 0xFFFF (g.width * g.lines * g.bits * 256 / (8 * flen))) p v

/-- The stream closes once everything before the close is written. -/
def Dev.encClose (d : Dev) (p v : Nat) : Dev := d.putEnc p v { d.enc p v with live := false, begun := false, take := 0 }

/-- A PTP time as a number that orders. -/
def ptpNum (t : Nat × Nat) : Nat := t.1 + 1000000000 * t.2

/-- The START of a gap record that waits; none for what is no gap record. -/
def RecItem.gapStart : RecItem → Option Nat
  | .gap r => some (ptpNum r.start)
  | .again bs => some (ofLeBytes ((bs.drop 0x10).take 4) + 1000000000 * ofLeBytes ((bs.drop 0x14).take 6))
  | _ => none

/-- A record put among records that wait: behind those of an earlier or the same START. -/
def placeGap (i : RecItem) : List RecItem → List RecItem
  | [] => [i]
  | a :: l => if a.gapStart.getD 0 ≤ i.gapStart.getD 0 then a :: placeGap i l else i :: a :: l

/-- What waits, with the gap records at its head in order of START (R337). -/
def orderGaps (is : List RecItem) : List RecItem :=
  let a := is.takeWhile fun i => i.gapStart.isSome
  a.foldl (fun m i => placeGap i m) [] ++ is.drop a.length

/-- The records that wait for the end of the unit in progress go before what else waits (R337). -/
def Dev.encDue (d : Dev) (p v : Nat) : Dev :=
  let e := d.enc p v
  d.putEnc p v { e with items := e.due.map RecItem.gap ++ e.items, due := [] }

/-- The encoder takes everything but rows as soon as it is at the head of the branch; between a flush of the record path and its
restart it takes nothing (R88). -/
def Dev.encAdvance (d : Dev) (p v : Nat) : Nat → Dev
  | 0 => d
  | fuel + 1 =>
    let e := d.enc p v
    if (d.pipe p).recp.flushed then d else
    match orderGaps e.items with
    | [] => d
    | .row _ _ _ :: _ => d
    | i :: rest =>
      let d := d.putEnc p v { e with items := rest }
      let d := match i with
        | .fs fn seq t => d.encFrameStart p v fn seq t
        | .fe t => (if e.writing then d.encFrameEnd p v false t else d).encDue p v
        | .void t => (if e.writing then d.encFrameEnd p v true t else d).encDue p v
        | .gap r => (d.when (!e.begun) fun d => d.encDesc p v).encGap p v r
        | .again bs => (d.when (!e.begun) fun d => d.encDesc p v).encSend p v bs true
        | .close => d.encClose p v
        | .row _ _ _ => d
      d.encAdvance p v fuel

/-- Adds to what waits for the encoder. -/
def Dev.encPush (d : Dev) (p v : Nat) (is : List RecItem) : Dev :=
  let e := d.enc p v
  let all := e.items ++ is
  (d.putEnc p v { e with items := all }).encAdvance p v (all.length + e.due.length + 1)

/-- A gap record that follows the unit in progress (R337): before the next frame that waits, and where the end of the unit being written
has not come, once it has. -/
def Dev.encGapNext (d : Dev) (p v : Nat) (r : GapRec) : Dev :=
  let e := d.enc p v
  let isFs := fun (i : RecItem) => match i with | .fs _ _ _ => true | .close => true | _ => false
  let isEnd := fun (i : RecItem) => match i with | .fe _ => true | .void _ => true | _ => false
  let a := e.items.takeWhile fun i => !isFs i
  if e.writing && !a.any isEnd then d.putEnc p v { e with due := e.due ++ [r] }
  else
    let all := a ++ .gap r :: e.items.drop a.length
    (d.putEnc p v { e with items := all }).encAdvance p v (all.length + e.due.length + 1)

/-- Drops the lines that wait for the frame now open: those after its start, or all where the encoder is writing it. -/
def dropOpenRows (is : List RecItem) : List RecItem :=
  (is.reverse.dropWhile fun i => match i with | .row _ _ _ => true | _ => false).reverse

/-- The bytes a branch's store holds for a virtual channel (R259). -/
def itemBytes (is : List RecItem) : Nat := (is.map fun i => match i with | .row _ _ n => n | _ => 0).sum

/-- The bytes the record branch's store of pipe `p` holds. -/
def Dev.recStore (d : Dev) (p : Nat) : Nat := ((List.range 16).map fun v => itemBytes (d.enc p v).items).sum

/-- The encoder of a virtual channel codes the row at the head of its branch (R351): a frame unit is open, its record path
is not stopped, and no word of it waits for credit (R97). -/
def Dev.rowEncode (d : Dev) (p v : Nat) : Dev :=
  let e := d.enc p v
  match e.items with
  | .row vals dmg _ :: rest =>
    if (d.cask p (d.rd F.PXR_ENC_VCC_CASK p v)).wait.isEmpty && !(d.pipe p).recp.flushed then
      let d := d.putEnc p v { e with items := rest }
      (if e.writing then d.encRow p v vals dmg else d).encAdvance p v (rest.length + e.due.length + 1)
    else d
  | _ => d

def execPxrRowEncode (p : Pipe) (v : Fin 16) (s : State) : Out := run s fun d => d.rowEncode p v

end Sys2Proof.Machine
end

