-- ==== Sys2Proof/Machine/Take.lean ====
section
/-!
DEFINITION. Take queues up to the record buffer (R113, R259, R337, R38, R427 to R430) and the opening and closing of takes.
-/
namespace Sys2Proof.Machine

/-- Take queue `t` of pipe `p`. -/
def Dev.tq (d : Dev) (p t : Nat) : TakeQ := Tab.get {} (d.pipe p).takes t

/-- The device with a take queue replaced. -/
def Dev.putTq (d : Dev) (p t : Nat) (q : TakeQ) : Dev := d.updPipe p fun s => { s with takes := Tab.set {} s.takes t q }

/-- `CELP_TQ_STAT.STATE`: 0 OFF, 1 IDLE, 2 OPEN, 3 CLOSING. -/
def Dev.tqState (d : Dev) (p t : Nat) : Nat := d.rd F.CELP_TQ_STAT_STATE p t

/-- Shows in `PCTL_STAT.TAKE` whether a queue of the pipe is open, and in `PXR_ENC_TAKE` the number of its take. [log entry 82: DESIGN CHOICE] -/
def Dev.showTake (d : Dev) (p : Nat) : Dev :=
  let qs := (List.range 8).filter fun t => d.tqState p t == 2
  let n := match qs.getLast? with | some t => (d.tq p t).take | none => 0
  (d.wrb F.PCTL_STAT_TAKE (!qs.isEmpty) p).wr F.PXR_ENC_TAKE_TAKE n p

/-- The frames a queue has received and not committed (R429). -/
def Dev.showLag (d : Dev) (p t : Nat) : Dev :=
  d.wr F.CELP_TQ_STAT_LAG (min 0xFFFF ((d.tq p t).recs.filter fun u => u.frame).length) p t

/-- The regions of the record buffer of pipe `p` in its DRAM: those of kind RECBUF, as first byte and bytes (R467). -/
def Dev.recbufRegions (d : Dev) (p : Nat) : List (Nat × Nat) :=
  ((d.dramRegions p).filter fun r => r.2.2 == 1).map fun r => (r.1, r.2.1)

/-- The bytes of the record buffer of pipe `p`. -/
def Dev.recbufSize (d : Dev) (p : Nat) : Nat := ((d.recbufRegions p).map (·.2)).sum

/-- The parts of pipe `p`'s DRAM that the record buffer's units occupy. -/
def Dev.recbufParts (d : Dev) (p : Nat) : List (Nat × Nat) :=
  (List.range 8).flatMap fun t => (d.tq p t).recs.flatMap fun u => u.place

/-- The bytes the record buffer holds. -/
def Dev.recbufUsed (d : Dev) (p : Nat) : Nat := ((d.recbufParts p).map (·.2)).sum

/-- A part put in a list in order of address. -/
def insertPart (x : Nat × Nat) : List (Nat × Nat) → List (Nat × Nat)
  | [] => [x]
  | y :: t => if x.1 < y.1 then x :: y :: t else y :: insertPart x t

/-- The free parts from `pos` up to `lim` between parts in order of address. -/
def freeParts (lim : Nat) : Nat → List (Nat × Nat) → List (Nat × Nat)
  | pos, [] => if pos < lim then [(pos, lim - pos)] else []
  | pos, (a, n) :: t => if pos < a then (pos, a - pos) :: freeParts lim (a + n) t else freeParts lim (max pos (a + n)) t

/-- The first `n` bytes of free parts. -/
def takeParts : Nat → List (Nat × Nat) → List (Nat × Nat)
  | 0, _ => []
  | _, [] => []
  | n + 1, (a, k) :: t => if n + 1 ≤ k then [(a, n + 1)] else (a, k) :: takeParts (n + 1 - k) t

/-- Where `n` bytes go in the record buffer: the lowest free 32-byte words. How the slice lays out its region is not stated.
[log entry 82: DESIGN CHOICE] [log entry 82: DESIGN CHOICE] -/
def Dev.recbufPlace (d : Dev) (p n : Nat) : List (Nat × Nat) :=
  let used := (d.recbufParts p).foldl (fun l x => insertPart x l) []
  let free := (d.recbufRegions p).flatMap fun r =>
    freeParts (r.1 + r.2) r.1 (used.filter fun x => decide (r.1 ≤ x.1) && decide (x.1 < r.1 + r.2))
  takeParts (32 * ceilDiv n 32) free

/-- The bytes of a unit written to the parts of DRAM it has been given; those that found no room come back. -/
def Dev.recbufWrite (d : Dev) (p : Nat) : List (Nat × Nat) → List Byte → List Byte × Dev
  | [], bs => (bs, d)
  | (a, n) :: t, bs =>
    let part := bs.take n
    (d.dramWrite p 0x28 a (part ++ List.replicate (n - part.length) 0)).recbufWrite p t (bs.drop n)

/-- A unit read back from DRAM as source 0x28: its bytes, and whether a word of it is poisoned (R471, R481). -/
def Dev.recbufRead (d : Dev) (p : Nat) : List (Nat × Nat) → List Byte × Bool × Dev
  | [] => ([], false, d)
  | (a, n) :: t =>
    let (bs, bad, d) := d.dramRead p 0x28 a n
    let r := d.recbufRead p t
    (bs ++ r.1, bad || r.2.1, r.2.2)

/-- A unit of a take stream entered in the record buffer. -/
def Dev.recbufAdd (d : Dev) (p t : Nat) (u : TakeUnit) (bs : List Byte) : Dev :=
  let place := d.recbufPlace p bs.length
  let (rest, d) := d.recbufWrite p place bs
  let q := d.tq p t
  d.putTq p t { q with recs := q.recs ++ [{ u with size := bs.length, place := place, rest := rest }] }

/-- Shows the occupancy in 1/256 (`CELP_RB_STAT.OCC`). -/
def Dev.showOcc (d : Dev) (p : Nat) : Dev :=
  let size := d.recbufSize p
  d.wr F.CELP_RB_STAT_OCC (if size = 0 then 0 else min 255 (256 * d.recbufUsed p / size)) p

/-- The PTP time of ten bytes: (nanoseconds, seconds). -/
def ptpOfBytes (bs : List Byte) : Nat × Nat := (ofLeBytes (bs.take 4), ofLeBytes ((bs.drop 4).take 6))

/-- A unit of a stream read by its MAGIC (R325, R331, R333). -/
def unitOfBytes (bs : List Byte) : TakeUnit :=
  if ofLeBytes (bs.take 4) = 0x46525850 then
    let tr := bs.drop (bs.length - 32)
    { size := bs.length, frame := true, void := bit (ofLeBytes ((tr.drop 4).take 1)) 0, seq := ofLeBytes ((bs.drop 8).take 4),
      fn := ofLeBytes ((bs.drop 12).take 2), fs := ptpOfBytes (bs.drop 16), fe := ptpOfBytes (tr.drop 16) }
  else { size := bs.length }

/-- The gap record that replaces a frame unit (R337): its FE, or its FS where the frame closed without one. [log entry 82: DESIGN CHOICE] -/
def Dev.gapOfUnit (d : Dev) (p t cause : Nat) (u : TakeUnit) : TakeUnit × List Byte :=
  let q := d.tq p t
  let r : GapRec := ⟨0, cause, q.vc + 16 * p, u.seq, 1, d.rd F.SFE_STRIPE_INDEX p, u.fn, u.fs,
    if u.fe = (0, 0) then u.fs else u.fe, q.take⟩
  ({ size := r.bytes.length, seq := u.seq, fs := u.fs, fe := u.fe }, r.bytes)

/-- Whether a unit lies beyond the frame at which its stream ends. -/
def TakeQ.beyond (q : TakeQ) (u : TakeUnit) : Bool :=
  q.full || (match q.limit with | some m => u.frame && decide (m ≤ u.seq) | none => false)

/-- A unit reaches the record buffer: a frame that finds no room is replaced by a BUFFER_FULL record, a VOID unit is
dropped whole (R38). [log entry 82: DESIGN CHOICE] -/
def Dev.takeEnter (d : Dev) (p t : Nat) (u : TakeUnit) (bs : List Byte) : Dev :=
  let room := decide (d.recbufUsed p + 32 * ceilDiv bs.length 32 ≤ d.recbufSize p)
  let d :=
    if (d.tq p t).beyond u then d
    else if room || !u.frame then d.recbufAdd p t u bs
    else if u.void then d
    else
      let g := d.gapOfUnit p t 2 u
      d.recbufAdd p t g.1 g.2
  (d.showLag p t).showOcc p

/-- What take queue `t` reads from its cask: a FLUSHED marker drops the partial unit (R106); the word that ends a unit
passes it to the record buffer, or, where a word of a frame unit was poisoned, a DAMAGED record in its place (R113). A
poisoned unit of another kind holds data known to be wrong and is dropped (R32). A word that poison ends before its frame does not end
the unit: the whole frame is replaced. [log entry 82: DESIGN CHOICE] -/
def Dev.takeWord (d : Dev) (p t : Nat) (x : Delivered) : Dev :=
  let q := d.tq p t
  match x with
  | .nothing => d
  | .flushed => d.putTq p t { q with unit := [] }
  | .word w more =>
    let ws := q.unit ++ [w]
    if w.fin && !more then
      let d := d.putTq p t { q with unit := [] }
      let st := d.tqState p t
      if st = 2 ∨ st = 3 then
        let bs := ws.flatMap fun w => leBytes 8 w.data
        let u := unitOfBytes bs
        let g := d.gapOfUnit p t 4 u
        if ws.any fun w => w.psn then (if u.frame && !u.void then d.takeEnter p t g.1 g.2 else d) else d.takeEnter p t u bs
      else d
    else d.putTq p t { q with unit := ws }

/-- The take queue that carries the stream of virtual channel `v` (R427). -/
def Dev.tqOfVc (d : Dev) (p v : Nat) : Option Nat :=
  (List.range 8).find? fun t => d.on F.CELP_TQ_CFG_EN p t && d.rd F.CELP_TQ_CFG_VC p t == v

/-- The Hub's record of a take changed. -/
def Dev.updTake (d : Dev) (num : Nat) (f : TakeRec → TakeRec) : Dev :=
  d.updHub fun h => { h with takes := h.takes.map fun r => if r.num = num then f r else r }

/-- The bits of the pipes of a list of queues. -/
def pipeMask (qs : List (Nat × Nat)) : Nat :=
  ((List.range 4).map fun n => if qs.any fun x => x.1 == n then 2 ^ n else 0).sum

/-- A take command ends with a RESULT: GO and BUSY clear. -/
def Dev.takeCmdEnd (d : Dev) (result fpipe : Nat) : Dev :=
  (((d.wr F.CEL_TAKE_CMD_GO 0).wr F.CEL_TAKE_STAT_BUSY 0).wr F.CEL_TAKE_STAT_RESULT result).wr F.CEL_TAKE_STAT_FPIPE fpipe

/-- Once every queue of a take has opened, and every other device named in a board take has reported (R545), CEL_TAKE_OPEN is
raised and the START ends with RESULT OK (R428). -/
def Dev.takeOpenCheck (d : Dev) (num : Nat) : Dev :=
    match d.hub.takes.find? fun r => r.num == num with
    | some r =>
      if r.starting && (r.qs.all fun x => r.opened.contains x) && r.devs.all fun x => r.devOpen.contains x then
        let d := (d.updTake num fun r => { r with starting := false }).raise 541 (num % 2 ^ 16)
        if r.ordered then d else d.takeCmdEnd 0 0
      else d
    | none => d

/-- A queue reports to the Hub that it has opened. -/
def Dev.takeOpened (d : Dev) (num p t : Nat) : Dev :=
  if d.hub.lost then d
  else (d.updTake num fun r => { r with opened := r.opened ++ [(p, t)] }).takeOpenCheck num

/-- The first frame at or after T_start opens a waiting queue and its stream (R428, R335); a staged REC context switches first
(R209). Records of stripes lost before follow the stream descriptor (R52). -/
def Dev.takeTryOpen (d : Dev) (p v fs : Nat) : Dev :=
  match d.tqOfVc p v with
  | none => d
  | some t =>
    let q := d.tq p t
    if d.tqState p t == 1 && q.take != 0 && decide (q.tstart ≤ fs) && !d.stopped && !d.inArun p && !d.hub.cuvl.recPend.contains p then
      let d := d.wr F.CELP_TQ_STAT_STATE 2 p t
      let d := (d.putEnc p v { live := true, take := q.take }).wr F.PXR_ENC_VSEQ_SEQ 0 p v
      let d := d.putTq p t { q with vc := v, early := [] }
      let d := (d.wrb F.SFE_STAT_BASE true p).showTake p
      let d := q.early.foldl (fun d r => d.encGapNext p v r) d
      d.takeOpened q.take p t
    else d

/-- The stream of a virtual channel has ended at the front end: no gap record of it is written any more (R272, R274). -/
def Dev.gapsDrop (d : Dev) (p v : Nat) : Dev :=
  d.updPipe p fun s => { s with sfe := { s.sfe with vcs := Tab.upd {} s.sfe.vcs v fun x => { x with gaps := [], behind := [] } } }

/-- No take is open on pipe `p` any more: the identity last read is the next take's baseline (R266). -/
def Dev.baseNext (d : Dev) (p : Nat) : Dev :=
  (d.wrb F.SFE_STAT_BASE false p).updPipe p fun s => { s with sfe := { s.sfe with base := s.sfe.ident } }

/-- The stream of queue `t` closes at its last whole frame: the frame in progress is voided, what waits before the close is
still written (R334, R355, R428). A queue that never opened leaves the take. -/
def Dev.takeCloseQueue (d : Dev) (p t : Nat) : Dev :=
  let q := d.tq p t
  if d.tqState p t = 2 then
    let d := (d.wr F.CELP_TQ_STAT_STATE 3 p t).showTake p
    let e := d.enc p q.vc
    let items := dropOpenRows e.items
    let open_ := match items.getLast? with | some (.fs _ _ _) => true | some _ => false | none => e.writing
    let d := d.putEnc p q.vc { e with items := items }
    let d := d.encPush p q.vc ((if open_ then [RecItem.void (0, 0)] else []) ++ [.close])
    let d := d.gapsDrop p q.vc
    if d.rd F.PCTL_STAT_TAKE p = 0 then d.baseNext p else d
  else if d.tqState p t = 1 then d.putTq p t { q with take := 0, tstart := 0 }
  else d

/-- In autonomous run the record names the first cause that closes the pipe's take (R45, `PCTL_ARUN_STAT.END`). -/
def Dev.arunEnd (d : Dev) (p cause : Nat) : Dev :=
  if d.inArun p && d.on F.PCTL_STAT_TAKE p && d.rd F.PCTL_ARUN_STAT_END p == 0 then d.wr F.PCTL_ARUN_STAT_END cause p else d

/-- Every queue of pipe `p` in a take closes its stream. -/
def Dev.takeClosePipe (d : Dev) (p : Nat) : Dev :=
  (List.range 8).foldl (fun d t => if (d.tq p t).take != 0 then d.takeCloseQueue p t else d) d

/-- A take ends: every queue of it closes, and a START that still waited ends with `result` (R428). -/
def Dev.takeEnd (d : Dev) (num : Nat) : Dev :=
  match d.hub.takes.find? fun r => r.num == num with
  | some r =>
    let d := r.qs.foldl (fun d (p, t) => if (d.tq p t).take == num then d.takeCloseQueue p t else d) d
    let never := r.qs.filter fun x => !r.opened.contains x
    let d := d.updTake num fun r => { r with ended := true, starting := false }
    if r.starting && !r.ordered then d.takeCmdEnd 1 (pipeMask never) else d
  | none => d

/-- The frames of queue `t`'s stream that are whole, the FE of each having arrived: SEQ counts them from 0 (R335). -/
def Dev.wholeFrames (d : Dev) (p t : Nat) : Nat :=
  if d.tqState p t = 2 then
    let v := (d.tq p t).vc
    let x := Tab.get {} (d.pipe p).sfe.vcs v
    d.rd F.PXR_ENC_VSEQ_SEQ p v - b2n (x.open_ && (x.feeding || x.counted))
  else 0

/-- The position of a stream that has committed no frame from SEQ `m` on: the latest of its positions that has not. -/
def TakeQ.backTo (q : TakeQ) (m : Nat) : TakeQ :=
  match q.past.find? fun x => decide (x.1 < m) || m == 0 with
  | some x => if q.lastSeq < m then q else { q with lastSeq := x.1, lastFe := x.2.1, bytes := x.2.2 }
  | none => q

/-- The stream of queue `t` is to end before the frame with SEQ `m`: its later frames leave the record buffer and never enter it, and one
that is on its cartridge no longer counts to the stream. -/
def Dev.takeLimit (d : Dev) (p t m : Nat) : Dev :=
  let q := (d.tq p t).backTo m
  ((d.putTq p t { q with limit := some m, recs := q.recs.filter fun u => !u.frame || decide (u.seq < m) }).showLag p t).showOcc p

/-- A take ends at one frame, the latest that is whole in every stripe (R273). -/
def Dev.takeEndCommon (d : Dev) (num : Nat) : Dev :=
  match d.hub.takes.find? fun r => r.num == num with
  | some r =>
    let qs := r.qs.filter fun (p, t) => (d.tq p t).take == num
    let open_ := qs.filter fun (p, t) => d.tqState p t != 3
    match (open_.map fun (p, t) => d.wholeFrames p t).min? with
    | some m => (qs.foldl (fun d (p, t) => d.takeLimit p t m) d).takeEnd num
    | none => d.takeEnd num
  | none => d

/-- The takes that pipe `p` carries. -/
def Dev.takesOf (d : Dev) (p : Nat) : List Nat :=
  (d.hub.takes.filter fun r => !r.ended && r.qs.any fun x => x.1 == p).map (·.num)

/-- Whether everything of queue `t`'s stream is on its cartridge: nothing in the encoder, the cask, the unit being received
or the record buffer. -/
def Dev.tqDrained (d : Dev) (p t : Nat) : Bool :=
  let q := d.tq p t
  !(d.enc p q.vc).live && (d.enc p q.vc).items.isEmpty && (d.cask p (120 + t)).words.isEmpty &&
    (d.cask p (120 + t)).wait.isEmpty && q.unit.isEmpty && q.recs.isEmpty

/-- A drained queue is idle again and belongs to no take. -/
def Dev.tqIdle (d : Dev) (p t : Nat) : Dev :=
  ((d.putTq p t {}).wr F.CELP_TQ_STAT_STATE 1 p t).showLag p t

/-- A gap record of queue `t`'s stream, with the fields its writer gives. -/
def Dev.gapRec (d : Dev) (p v form cause seq nseq fn : Nat) (start fin : Nat × Nat) (tripped : Nat := 0) : GapRec :=
  ⟨form, cause, v + 16 * p + 64 * tripped, seq, nseq, d.rd F.SFE_STRIPE_INDEX p, fn, start, fin, 0⟩

end Sys2Proof.Machine
end

