-- ==== Sys2Proof/Machine/Sfe.lean ====
section
/-!
DEFINITION. The sensor front end (chapter 7): rows and packets, frames and lines, damaged lines, the split, stripes, the module's
identity and what a loss of the sensor role means for a take.
-/
namespace Sys2Proof.Machine

/-- The front end of pipe `p`. -/
def Dev.sfe (d : Dev) (p : Nat) : Sfe := (d.pipe p).sfe

/-- The device with the front end of pipe `p` changed by `f`. -/
def Dev.updSfe (d : Dev) (p : Nat) (f : Sfe → Sfe) : Dev := d.updPipe p fun s => { s with sfe := f s.sfe }

/-- Virtual channel `v` of pipe `p`. -/
def Dev.vc (d : Dev) (p v : Nat) : SfeVc := Tab.get {} (d.sfe p).vcs v

/-- The device with a virtual channel replaced. -/
def Dev.putVc (d : Dev) (p v : Nat) (x : SfeVc) : Dev := d.updSfe p fun s => { s with vcs := Tab.set {} s.vcs v x }

/-- The kinds of `SFE_ERR_CNT` (R257). -/
inductive SfeErr where
  | eccCorr | eccUnc | linkCrc | pktCrc | framing | wc | structure_ | overrun
deriving DecidableEq, Repr

/-- The number of a kind. -/
def SfeErr.num : SfeErr → Nat
  | .eccCorr => 0 | .eccUnc => 1 | .linkCrc => 2 | .pktCrc => 3 | .framing => 4 | .wc => 5 | .structure_ => 6 | .overrun => 7

/-- Counts an error of a kind. -/
def Dev.sfeErr (d : Dev) (p : Nat) (k : SfeErr) : Dev := d.bump C.SFE_ERR_CNT p k.num

/-- A time in 2⁻⁸ ns as (nanoseconds, seconds). -/
def ptpOf (t : Nat) : Nat × Nat := (ptpNs t, ptpSec t)

/-- The FS or FE timestamp of this instant in 2⁻⁸ ns: the pipe's time with `SFE_TS_CORR` added (R260). -/
def Dev.sfeStamp (d : Dev) (p : Nat) : Nat :=
  (((d.pipeTime p : Nat) : Int) + 256 * signed 24 (d.rd F.SFE_TS_CORR_CORR p)).toNat

/-- The mode of the sensor role: 1 SLINK, 2 DPHY. -/
def Dev.smode (d : Dev) (p : Nat) : Nat := d.rd F.LANE_SCFG_SMODE p

/-- Whether packets of pipe `p` reach the front end: its sensor role is READY, and in DPHY mode the identity check has passed
(R262). -/
def Dev.sfeFlows (d : Dev) (p : Nat) : Bool :=
  d.rd F.LANE_ROLE_STAT_STATE p 0 == 4 && (d.smode p != 2 || (d.sfe p).dphyOk)

/-- Whether the frame of virtual channel `v` still feeds the record branch. -/
def Dev.recFeeds (d : Dev) (p v : Nat) : Bool :=
  let x := d.vc p v
  x.open_ && x.feeding && !x.recDrop && (d.enc p v).live && (match d.tqOfVc p v with | some t => d.tqState p t == 2 | none => false)

/-! ### Lines -/

/-- The first damaged line of a frame raises SFE_DAMAGE with the VC and the kind (R257, R275). -/
def Dev.sfeDamage (d : Dev) (p v : Nat) (k : SfeErr) : Dev :=
  let x := d.vc p v
  if x.damaged then d else (d.putVc p v { x with damaged := true }).raiseP p 33 (v * 2 ^ 16 + k.num)

/-- Items for the record branch: behind a gap whose end is not known yet they wait for the frame to be kept (R272). -/
def Dev.recPush (d : Dev) (p v : Nat) (is : List RecItem) : Dev :=
  let x := d.vc p v
  if x.gaps.isEmpty then d.encPush p v is else d.putVc p v { x with behind := x.behind ++ is }

/-- The open frame leaves the record branch: its waiting lines go and its unit is voided (R259, R271, R334). -/
def Dev.recDropFrame (d : Dev) (p v : Nat) : Dev :=
  let x := d.vc p v
  if x.gaps.isEmpty then
    let e := d.enc p v
    (d.putEnc p v { e with items := dropOpenRows e.items }).encPush p v [.void (0, 0)]
  else d.putVc p v { x with behind := (dropOpenRows x.behind).dropLast }

/-- A line reaches the record branch, or finds its store of 256 KiB full: then the rest of the frame is dropped from the
branch and the encoder voids it (R259, R334). -/
def Dev.recLine (d : Dev) (p v wc : Nat) (vals : List Nat) (dmg : Bool) : Dev :=
  if d.recFeeds p v then
    if d.recStore p + wc ≤ 262144 then d.recPush p v [.row vals dmg wc]
    else ((d.putVc p v { d.vc p v with recDrop := true }).sfeErr p .overrun).recDropFrame p v
  else if (d.vc p v).recDrop && (d.vc p v).feeding then d.sfeErr p .overrun
  else d

/-- A sample as the Trellis branch carries it (R258). -/
def alignSample (align : Bool) (bits x : Nat) : Nat :=
  if align then (if bits ≤ 16 then x * 2 ^ (16 - bits) % 2 ^ 16 else x / 2 ^ (bits - 16) % 2 ^ 16) else x % 2 ^ 16

/-- The cask words of a line for the Trellis branch: two tokens of two samples each, END on the last (R155, R258). -/
def lineWords (psn : Bool) : Nat → List Nat → List CaskWord
  | 0, _ => []
  | _, [] => []
  | fuel + 1, xs =>
    let rest := xs.drop 4
    { data := xs.getD 0 0 + 2 ^ 16 * xs.getD 1 0 + 2 ^ 32 * xs.getD 2 0 + 2 ^ 48 * xs.getD 3 0, fin := rest.isEmpty, psn := psn } ::
      lineWords psn fuel rest

/-- The payload bytes of each word that waits in the Trellis branch's store for virtual channel `v`. -/
def Dev.trelBytes (d : Dev) (p v : Nat) : List Nat :=
  let l := (d.vc p v).bytes
  l.drop (l.length - (d.cask p (d.rd F.SFE_VCT_CASK p v)).wait.length)

/-- The payload bytes that wait in the Trellis branch's store for virtual channel `v`: a word of four samples stands for those it carries, a
word in place of a dropped line for none (R259). [log entry 42: PRESUMED] -/
def Dev.trelStore (d : Dev) (p v : Nat) : Nat := if d.on F.SFE_VCT_EN p v then (d.trelBytes p v).sum else 0

/-- Words for the Trellis branch, each standing for `n` payload bytes, from endpoint 0x040 + v (R258). -/
def Dev.trelPush (d : Dev) (p v n : Nat) (ws : List CaskWord) : Dev :=
  let b := d.trelBytes p v ++ List.replicate ws.length n
  (d.putVc p v { d.vc p v with bytes := b }).caskSend p (d.rd F.SFE_VCT_CASK p v) (0x2040 + v) ws

/-- A line reaches the Trellis branch; once its store is full the rest of the frame's lines are one poisoned word each
(R258, R259). -/
def Dev.trelLine (d : Dev) (p v wc : Nat) (vals : List Nat) (dmg : Bool) : Dev :=
  let x := d.vc p v
  if x.open_ && x.trOn then
    let full := x.trDrop || decide (262144 < ((List.range 16).map (d.trelStore p)).sum + wc)
    if full then ((d.putVc p v { x with trDrop := true }).sfeErr p .overrun).trelPush p v 0 [{ data := 0, fin := true, psn := true }]
    else
      let bits := rawBits (d.rd F.SFE_VCG_DT p v)
      d.trelPush p v (bits / 2) (lineWords dmg (vals.length + 1) (vals.map (alignSample (d.on F.SFE_VCT_ALIGN p v) bits)))
  else d

/-- The lengths of the items that words make, each ended by END. -/
def itemLens : Nat → List CaskWord → List Nat
  | n, [] => if n = 0 then [] else [n]
  | n, w :: t => if w.fin then (n + 1) :: itemLens 0 t else itemLens (n + 1) t

/-- The open frame leaves the Trellis branch: its lines that wait in the store go, but for the rest of a line already under way (R271).
[log entry 43: DESIGN CHOICE] [log entry 43: DESIGN CHOICE] -/
def Dev.trelDropFrame (d : Dev) (p v : Nat) : Dev :=
  let x := d.vc p v
  let k := d.rd F.SFE_VCT_CASK p v
  let c := d.cask p k
  let lens := itemLens 0 c.wait
  let mine := min (x.lines + x.holes) lens.length
  let started := mine == lens.length && lens.headD 0 != d.rd F.SFE_VCG_WIDTH p v / 4 && lens.headD 0 != 1
  let keep := (lens.take (lens.length - mine)).sum + (if started then lens.headD 0 else 0)
  if x.open_ && x.trOn then
    (d.putVc p v { x with bytes := (d.trelBytes p v).take keep }).setCask p k { c with wait := c.wait.take keep }
  else d

/-- One line of an open frame goes to both branches: a damaged line as zero samples to the record branch, and with PSN to
the Trellis branch (R257, R258). -/
def Dev.sfeLine (d : Dev) (p v wc : Nat) (vals : List Nat) (dmg : Option SfeErr) : Dev :=
  let d := match dmg with | some k => d.sfeDamage p v k | none => d
  let x := d.vc p v
  let d := d.putVc p v { x with lines := x.lines + 1 }
  let zero := List.replicate vals.length 0
  let d := d.recLine p v wc (if dmg.isSome then zero else vals) dmg.isSome
  d.trelLine p v wc vals dmg.isSome

/-- The samples of width WIDTH that a packet carries. -/
def cutVals (w bits : Nat) (vals : List Nat) : List Nat := (List.range w).map fun i => vals.getD i 0 % 2 ^ bits

/-- The packet layer's verdict on a long packet: the kind it counts under where it is errored (R253, R256): the link CRC, then the footer's,
then the framing. [log entry 42: PRESUMED] -/
def packetError (link footer framing : Bool) : Option SfeErr :=
  if link then some .linkCrc else if footer then some .pktCrc else if framing then some .framing else none

/-- A long packet of a frame: virtual channel, data type, word count, verdict and payload (R254, R256 to R258). [log entry 42: PRESUMED] -/
def Dev.longBody (d : Dev) (p v dt wc : Nat) (err : Option SfeErr) (body : List Byte) : Dev :=
  let x := d.vc p v
  if !d.on F.SFE_VCG_EN p v then d.sfeErr p .structure_
  else if dt ≠ 0x12 ∧ dt ≠ d.rd F.SFE_VCG_DT p v then d.sfeErr p .structure_
  else if !x.open_ then d.sfeErr p .structure_
  else if dt = 0x12 then
    match err with
    | some e => d.sfeErr p e
    | none =>
      if d.on F.SFE_VCT_EMB p v then d.caskSend p (d.rd F.SFE_VCT_ECASK p v) (0x2050 + v) (wordsOfBytes true (body.length + 1) body) else d
  else
    let w := d.rd F.SFE_VCG_WIDTH p v
    let bits := rawBits dt
    if d.rd F.SFE_VCL_LINES p v ≤ x.lines + x.holes then d.sfeErr p .structure_
    else if wc ≠ w * bits / 8 then (d.putVc p v { x with holes := x.holes + 1 }).sfeErr p .wc
    else
      let d := match err with | some e => d.sfeErr p e | none => d
      d.sfeLine p v wc (cutVals w bits (rawSamples dt (body.map (·.toNat)))) err

/-- What a header's ECC shows is counted; an uncorrectable header discards its packet (R254). -/
def Dev.eccThen (d : Dev) (p : Nat) (ecc : Flaw) (f : Dev → Dev) : Dev :=
  match ecc with
  | .ok => f d
  | .single => f (d.sfeErr p .eccCorr)
  | .multiple => d.sfeErr p .eccUnc

/-! ### Rows of the link (R250 to R253) -/

/-- The logical lanes of pipe `p`'s SLINK. -/
def Dev.slinkLanes (d : Dev) (p : Nat) : Nat := (d.roleLanes p 0).length

/-- The long packet under way ends: at its END row with the link CRC received, or, without one, where a START or SHORT comes before END
(R251 to R253). -/
def Dev.linkEnd (d : Dev) (p : Nat) (crc : Option Nat) : Dev :=
  match (d.sfe p).link with
  | none => d
  | some k =>
    let d := d.updSfe p fun s => { s with link := none }
    let wc := hdrWc k.hdr
    let body := k.data.take wc
    let badLink := match crc with | some c => crc32c k.data != c | none => false
    let badFoot := crc.isSome && ofLeBytes ((k.data.drop wc).take 2) != crc16 body
    let rows := ceilDiv (wc + 2) (8 * d.slinkLanes p)
    if k.lost then d
    else d.longBody p (hdrVc k.hdr) (hdrDt k.hdr) wc (packetError badLink badFoot (k.mixed || crc.isNone || k.rows != rows)) body

/-- A START row: a long packet begins with its header; one still under way ends errored (R251, R253). -/
def Dev.linkStart (d : Dev) (p : Nat) (h : BitVec 32) : Dev :=
  let d := d.linkEnd p none
  let x := csiHeader h.toNat
  let d := d.eccThen p x.1 id
  d.updSfe p fun s => { s with link := some { hdr := x.2, lost := x.1 == .multiple } }

/-- A row between packets or within one, neither START, SHORT nor END: a data row adds its bytes to the packet, or is discarded and counted
outside one; a control row with a reserved BT is discarded and counted; a row that mixes data and control blocks, or holds an errored block,
makes the packet errored (R250, R253). -/
def Dev.linkData (d : Dev) (p : Nat) (row : List RxBlock) : Dev :=
  let data := row.all fun b => b.hdr == 1
  let ctl := row.all fun b => b.hdr == 2
  match (d.sfe p).link with
  | some k =>
    if data then d.updSfe p fun s => { s with link := some { k with rows := k.rows + 1, data := k.data ++ row.flatMap blkBytes } }
    else if ctl then (if blkByte (row.headD {}) 0 = 0x1E then d else d.sfeErr p .framing)
    else d.updSfe p fun s => { s with link := some { k with mixed := true } }
  | none => if data || (ctl && blkByte (row.headD {}) 0 != 0x1E) then d.sfeErr p .framing else d

/-- The bytes of a D-PHY burst: the data lanes' in turn, a lane's inverted where its polarity is (R261). -/
def Dev.burstBytes (d : Dev) (p : Nat) (lanes : List (List Byte)) : List Byte :=
  mergeLanes ((List.range (d.dphyLanes p).length).map fun i =>
    (lanes.getD i []).map fun b => if bit (d.rd F.LANE_SCFG_DPOL p) i then ~~~b else b)

/-- A long packet reaches the front end (R251 to R254, R261): the rows of the link, or the HS burst of the D-PHY lanes, inverted as DPOL
says. A burst that starts with a short packet's header is none. -/
def Dev.longPacket (d : Dev) (p : Nat) (k : CsiPacket) : Dev :=
  match k with
  | .deskew => d
  | .rows h rows crc =>
    if d.smode p = 2 then d else ((rows.foldl (fun d row => d.linkData p row) (d.linkStart p h)).linkEnd p (some crc.toNat))
  | .burst lanes =>
    if d.smode p ≠ 2 then d
    else
      let bs := d.burstBytes p lanes
      let x := csiHeader (ofLeBytes (bs.take 4))
      let wc := hdrWc x.2
      let body := (bs.drop 4).take wc
      let bad := body.length != wc || ofLeBytes ((bs.drop (4 + wc)).take 2) != crc16 body
      if hdrDt x.2 < 0x10 then d
      else d.eccThen p x.1 fun d => d.longBody p (hdrVc x.2) (hdrDt x.2) wc (packetError false bad false) body

def execCsi2LongPacket (p : Pipe) (k : CsiPacket) (s : State) : Out := run s fun d =>
  if d.sfeFlows p then d.longPacket p k else d

/-! ### Frames -/

/-- A frame is kept: the SENSOR_ABSENT records that waited for it go out, the last one ending at its FS, then what waited behind them (R272,
R337). -/
def Dev.sfeGapsDue (d : Dev) (p v : Nat) : Dev :=
  let x := d.vc p v
  if x.gaps.isEmpty then d
  else
    let recs := x.gaps.map fun g => RecItem.gap (d.gapRec p v 1 1 g.seq g.nseq g.fn g.start (g.fin.getD x.fs))
    (d.putVc p v { x with gaps := [], behind := [] }).encPush p v (recs ++ x.behind)

/-- The latest frame of virtual channel `v` on pipe `q` that is the same frame as number `fn` with FS time `fs`: by number, or where that is
0 by FS within half the frame period of pipe `q`, whose frame came first (R270). -/
def Dev.sameFrame (d : Dev) (q v fn fs : Nat) : Option Nat :=
  let y := d.vc q v
  (y.hist.find? fun h => h.1 == fn && (fn != 0 || decide (2 * absDiff fs h.2 < y.fsNow - y.fsPrev))).map (·.2)

/-- The Hub compares the stripes of a frame of a striped take, among the frames a pipe has had lately (R270). [log entry 43: DESIGN CHOICE] -/
def Dev.stripeSkew (d : Dev) (p v : Nat) : Dev :=
  let x := d.vc p v
  let striped := fun q => decide (0 < d.rd F.SFE_STRIPE_NSTRIPE q) && d.on F.PCTL_STAT_TAKE q && d.on F.SFE_VCG_REC q v
  if d.hub.lost || !striped p then d
  else
    let others := (List.range 4).filterMap fun q => if q != p && striped q then d.sameFrame q v x.fn x.fsNow else none
    let told := Tab.find d.hub.skew v == some x.fn
    if others.isEmpty then d.when told fun d => d.updHub fun h => { h with skew := Tab.del h.skew v }
    else if !told && others.any fun y => decide (25600000 < absDiff x.fsNow y) then
      (d.updHub fun h => { h with skew := Tab.put h.skew v x.fn }).raise 534 x.fn
    else d

/-- Fills `n` holes of a frame with damaged lines, the kind being that of the hole (R256, R257). [log entry 42: PRESUMED] -/
def Dev.sfePad (d : Dev) (p v : Nat) (k : SfeErr) : Nat → Dev
  | 0 => d
  | n + 1 =>
    let w := d.rd F.SFE_VCG_WIDTH p v
    let wc := w * rawBits (d.rd F.SFE_VCG_DT p v) / 8
    (d.sfeLine p v wc (List.replicate w 0) (some k)).sfePad p v k n

/-- A frame closes: missing lines are padded, the branches learn of its end; a frame dropped from the record branch is
accounted for by a BUFFER_FULL record (R256, R337), one counted during a stall by a DAMAGED record later (R89). -/
def Dev.sfeFrameClose (d : Dev) (p v : Nat) (fe : Nat × Nat) : Dev :=
  let d := d.sfePad p v .wc (d.vc p v).holes
  let d := d.sfePad p v .structure_ (d.rd F.SFE_VCL_LINES p v - (d.vc p v).lines)
  let x := d.vc p v
  let d :=
    if d.recFeeds p v then (d.sfeGapsDue p v).encPush p v [.fe fe]
    else if x.feeding && x.recDrop && (d.enc p v).live then d.recPush p v [.gap (d.gapRec p v 0 2 x.seq 1 x.fn x.fs fe)]
    else if x.counted then
      let g := d.gapRec p v 0 4 x.seq 1 x.fn x.fs fe
      if (d.pipe p).recp.stopped || (d.pipe p).recp.flushed then d.putVc p v { x with stalled := x.stalled ++ [.gap g] }
      else d.recPush p v [.gap g]
    else d
  d.putVc p v { d.vc p v with
    open_ := false, feeding := false, recDrop := false, counted := false, trOn := false, trDrop := false, holes := 0 }

/-- A frame opens at its FS (R256, R260, R335): it takes the next SEQ where its stream is open; while a stalled record path
is stopped it is only counted for a gap (R88). -/
def Dev.sfeFrameOpen (d : Dev) (p v fn : Nat) : Dev :=
  let t := d.sfeStamp p
  let x := d.vc p v
  let d := d.putVc p v { x with
    open_ := true, fn := fn, fs := ptpOf t, lines := 0, holes := 0, damaged := false, feeding := false, recDrop := false, counted := false,
    trOn := d.on F.SFE_VCT_EN p v, trDrop := false, fsPrev := x.fsNow, fsNow := t, fsC := d.c, seen := min 2 (x.seen + 1),
    hist := ((fn, t) :: x.hist).take 8 }
  let d := d.takeTryOpen p v t
  let open_ := match d.tqOfVc p v with | some t => d.tqState p t == 2 | none => false
  let d :=
    if d.on F.SFE_VCG_REC p v && (d.enc p v).live && open_ then
      let seq := d.rd F.PXR_ENC_VSEQ_SEQ p v
      let d := d.wr F.PXR_ENC_VSEQ_SEQ (seq + 1) p v
      let x := d.vc p v
      if (d.pipe p).recp.stopped then d.putVc p v { x with seq := seq, counted := true }
      else
        (d.putVc p v { x with seq := seq, feeding := true }).recPush p v [.fs fn seq (ptpOf t)]
    else d
  d.stripeSkew p v

/-- An FS: a frame still open is closed as at FE and counts one STRUCTURE (R256). [log entry 42: PRESUMED] -/
def Dev.frameStart (d : Dev) (p v fn : Nat) : Dev :=
  if !d.on F.SFE_VCG_EN p v then d.sfeErr p .structure_
  else
    let d := if (d.vc p v).open_ then (d.sfeErr p .structure_).sfeFrameClose p v (ptpOf (d.sfeStamp p)) else d
    d.sfeFrameOpen p v fn

/-- A frame of a board take in spatial division: QDL_SKEW once for a frame number whose FS timestamps differ by more than 100 µs
across devices (R546); frame numbers of 0 match within half a frame period (R270). -/
def Dev.boardSpatial (d : Dev) (x : BoardFrame) : Dev :=
  let period := ((List.range 4).map fun p => (d.vc p x.vc).fsNow - (d.vc p x.vc).fsPrev).foldl max 0
  let same := fun (y : BoardFrame) => y.fn == x.fn && (x.fn != 0 || decide (2 * absDiff x.fs y.fs < period))
  let far := d.hub.qdl.frames.any fun y => y.vc == x.vc && same y && y.dev != x.dev && decide (25600000 < absDiff x.fs y.fs)
  if far && d.hub.qdl.skewed != some (x.vc, x.fn) then
    (d.updHub fun h => { h with qdl := { h.qdl with skewed := some (x.vc, x.fn) } }).raise 556 (pack [(2, x.dev), (16, x.fn)])
  else d

/-- A frame of a board take in interleave: QDL_SKEW where it lies more than 100 µs from PER after the frame before it, or came to
another device than the next phase's (R546). A PER of 0 skips the check. [log entry 60: DEDUCED] -/
def Dev.boardInterleave (d : Dev) (x : BoardFrame) (seq : Nat) : Dev :=
  let per := d.rd F.QDL_ILV_PER_PER
  let n := (bitsOf (d.rd F.QDL_TAKE_CFG_DEVS) 4).length
  let phase := fun (k : Nat) => slice (d.rd F.QDL_TAKE_CFG_PHASE) (2 * k + 1) (2 * k)
  match (d.hub.qdl.frames.filter fun y => y.vc == x.vc && decide (y.fs < x.fs)).getLast? with
  | some y =>
    if per != 0 && (decide (25600000 < absDiff (x.fs - y.fs) per) || phase x.dev != (phase y.dev + 1) % n) then
      d.raise 556 (pack [(2, x.dev), (16, seq)])
    else d
  | none => d

/-- Puts a frame in the list by its FS; the sixteen latest are kept. -/
def insertFrame (x : BoardFrame) : List BoardFrame → List BoardFrame
  | [] => [x]
  | y :: t => if x.fs < y.fs then x :: y :: t else y :: insertFrame x t

/-- The leader learns of a frame of a board take (R546). -/
def Dev.boardFrame (d : Dev) (x : BoardFrame) (seq : Nat) : Dev :=
  let board := d.hub.takes.any fun r => !r.ended && !r.devs.isEmpty
  if d.isFollower || d.hub.lost || !board then d
  else
    let d := match d.rd F.QDL_TAKE_CFG_MODE with | 1 => d.boardSpatial x | 2 => d.boardInterleave x seq | _ => d
    d.updHub fun h =>
      let l := insertFrame x h.qdl.frames
      { h with qdl := { h.qdl with frames := l.drop (l.length - 16) } }

/-- The frame that has just opened on pipe `p` in a board take: the lowest pipe of the take speaks for the device. -/
def Dev.boardOwn (d : Dev) (p v : Nat) : Dev :=
  let x := d.vc p v
  let mine := d.hub.takes.any fun r => !r.ended && !r.devs.isEmpty && (r.qs.map fun q => q.1).foldl min 4 == p
  if mine && x.feeding then d.boardFrame ⟨0, v, x.fn, x.fsNow⟩ x.seq else d

/-- A host I3C command that waits for the FE of virtual channel `v` starts (R267). -/
def Dev.i3cTrigger (d : Dev) (p v : Nat) : Dev :=
  if (d.sfe p).trig && d.rd F.SFE_I3C_CMD_TVC p == v then d.updSfe p fun s => { s with trig := false } else d

/-- An FE: missing lines count one STRUCTURE for the frame; with no open frame it is ignored and counts one (R256). [log entry 42: PRESUMED] -/
def Dev.frameEnd (d : Dev) (p v : Nat) : Dev :=
  if !d.on F.SFE_VCG_EN p v then d.sfeErr p .structure_
  else if !(d.vc p v).open_ then d.sfeErr p .structure_
  else
    let short := decide ((d.vc p v).lines + (d.vc p v).holes < d.rd F.SFE_VCL_LINES p v)
    let d := if short then d.sfeErr p .structure_ else d
    (d.sfeFrameClose p v (ptpOf (d.sfeStamp p))).i3cTrigger p v

/-- A short packet reaches the front end (R254, R256): FS, FE; line start and end and the generic ones are ignored; any other counts one
STRUCTURE. An uncorrectable header discards it. -/
def Dev.shortPacket (d : Dev) (p : Nat) (h : BitVec 32) : Dev :=
  let x := csiHeader h.toNat
  let v := hdrVc x.2
  d.eccThen p x.1 fun d =>
    match hdrDt x.2 with
    | 0 => (d.frameStart p v (hdrWc x.2)).boardOwn p v
    | 1 => d.frameEnd p v
    | 2 | 3 => d
    | t => if 8 ≤ t ∧ t ≤ 15 then d else d.sfeErr p .structure_

/-- A short packet arrives: on the link, in a SHORT row, which ends a long packet still under way (R251, R253). -/
def Dev.linkShort (d : Dev) (p : Nat) (h : BitVec 32) : Dev := (d.linkEnd p none).shortPacket p h

/-- A row of blocks of the link arrives (R250): its kind by the block type on logical lane 0. -/
def Dev.linkRow (d : Dev) (p : Nat) (row : List RxBlock) : Dev :=
  let b := row.headD {}
  let h := BitVec.ofNat 32 (b.pay / 256)
  if row.all fun b => b.hdr == 2 then
    match blkByte b 0 with
    | 0x4B => d.linkStart p h
    | 0x55 => d.linkShort p h
    | 0x87 => d.linkEnd p (some (b.pay / 2 ^ 32))
    | _ => d.linkData p row
  else d.linkData p row

/-- An FS arrives; `board` are the frames that the followers of a board take have reported since, with their SEQ. -/
def execCsi2FrameStart (p : Pipe) (di : Byte) (wc : BitVec 16) (ecc : Byte) (board : List (Fin 4 × Nat × Nat × Nat)) (s : State) : Out :=
  run s fun d =>
    let h := ecc ++ wc ++ di
    let d := board.foldl (fun d (x : Fin 4 × Nat × Nat × Nat) =>
      d.boardFrame ⟨x.1, hdrVc (csiHeader h.toNat).2, x.2.1, x.2.2.1⟩ x.2.2.2) d
    if d.sfeFlows p then d.linkShort p h else d

def execCsi2FrameEnd (p : Pipe) (h : BitVec 24) (ecc : Byte) (s : State) : Out :=
  run s fun d => if d.sfeFlows p then d.linkShort p (ecc ++ h) else d

/-! ### Losses, identities and outcomes (R265, R266, R271 to R274) -/

/-- INSERT minus the baseline's, saturating at −128 and 127. -/
def Dev.insDelta (d : Dev) (p : Nat) : Nat :=
  match (d.sfe p).ident, (d.sfe p).base with
  | some a, some b => satCode 8 (signed 32 (a.2.1 + 2 ^ 32 - b.2.1))
  | _, _ => 0

/-- Writes `SFE_HP_STAT` and raises SFE_MODULE with the outcome (R271, R275). -/
def Dev.hpOutcome (d : Dev) (p outcome : Nat) : Dev :=
  let ms := cSince (d.sfe p).lossC d.c / 256000000
  let d := (d.wr F.SFE_HP_STAT_VALID 1 p).wr F.SFE_HP_STAT_OUTCOME outcome p
  let d := (d.wr F.SFE_HP_STAT_INSDELTA (d.insDelta p) p).wr F.SFE_HP_STAT_GAPMS (min 0xFFFF ms) p
  (d.updSfe p fun s => { s with deciding := false }).raiseP p 34 (outcome * 2 ^ 28)

/-- An outcome other than SAME closes the take: with the Hub every stripe of it, in autonomous run this pipe's own (R273). -/
def Dev.hpClose (d : Dev) (p outcome : Nat) : Dev :=
  if d.hub.lost || d.inArun p then ((d.arunEnd p 3).takeClosePipe p).raiseP p 35 (outcome * 2 ^ 28)
  else ((d.takesOf p).foldl (fun d n => d.takeEndCommon n) d).raiseP p 35 (outcome * 2 ^ 28)

/-- Decides an outcome: NO_TAKE where no take is open on the pipe at this instant (R271). [log entry 43: DESIGN CHOICE] -/
def Dev.hpDecide (d : Dev) (p outcome : Nat) : Dev :=
  if d.on F.PCTL_STAT_TAKE p then
    let d := d.hpOutcome p outcome
    if outcome = 0 then d else d.hpClose p outcome
  else d.hpOutcome p 6

/-- The sensor role is lost from READY (R271, R272): open frames are dropped from both branches, a gap still open ends here and a take's
new gap begins, a waiting host command is cancelled, and with IDCHK clear a take is closed at once. [log entry 43: DESIGN CHOICE] -/
def Dev.sfeLost (d : Dev) (p : Nat) : Dev :=
  let t := ptpOf (d.pipeTime p)
  let drop := fun (d : Dev) (v : Nat) =>
    let x := d.vc p v
    let live := (d.enc p v).live && (match d.tqOfVc p v with | some t => d.tqState p t == 2 | none => false)
    let d := if d.recFeeds p v then d.recDropFrame p v else d
    let d := d.trelDropFrame p v
    let owns := x.open_ && (x.feeding || x.counted)
    let g : AbsGap := ⟨t, none, if owns then x.seq else d.rd F.PXR_ENC_VSEQ_SEQ p v, b2n owns, if owns then x.fn else 0⟩
    let ended := x.gaps.map fun y => if y.fin.isNone then { y with fin := some t } else y
    d.putVc p v { d.vc p v with
      open_ := false, feeding := false, recDrop := false, counted := false, trOn := false, trDrop := false, holes := 0
      gaps := if live then ended ++ [g] else [], behind := if live then (d.vc p v).behind else [] }
  let d := (List.range 16).foldl drop d
  let d := d.updSfe p fun s =>
    { s with lossC := d.c, deciding := true, expired := false, dphyOk := false, same := false, link := none, await := false, reading := false }
  let d := if (d.sfe p).trig then
      ((((d.updSfe p fun s => { s with trig := false }).wr F.SFE_I3C_STAT_BUSY 0 p).wr F.SFE_I3C_CMD_GO 0 p).wr
        F.SFE_I3C_STAT_RESULT 2 p).raiseP p 36 0
    else d
  if !d.on F.SFE_HP_CFG_IDCHK p && d.on F.PCTL_STAT_TAKE p then d.hpDecide p 4 else d

/-- The retry timer of the sensor role expires (R271): a take still without a SAME outcome closes; with none, NO_TAKE is
written; a module that returns later gives a second NO_TAKE. A return after TIMER writes nothing. [log entry 43: DESIGN CHOICE] -/
def Dev.sfeExpired (d : Dev) (p : Nat) : Dev :=
  let again := (d.sfe p).deciding && !d.on F.PCTL_STAT_TAKE p
  let d := if (d.sfe p).deciding then d.hpDecide p 5 else d
  d.updSfe p fun s => { s with expired := again, same := false }

/-- The clock of the I3C controller in kHz: 12.5, 6.25 or 3.125 MHz by SPEED, or I²C Fast-mode Plus with LEGACY (R263). -/
def Dev.i3cKhz (d : Dev) (p : Nat) : Nat :=
  if d.on F.SFE_I3C_CFG_LEGACY p then 1000 else match d.rd F.SFE_I3C_CFG_SPEED p with | 1 => 6250 | 2 => 3125 | _ => 12500

/-- The address at which the controller reaches the module: the dynamic one once SETDASA has given it, else the static one (R263). -/
def Dev.i3cAddr (d : Dev) (p : Nat) : Nat := ((d.sfe p).dyn).getD (d.rd F.SFE_I3C_CFG_STATIC p)

/-- Steps 2 and 3 of R265 begin: RSTDAA, SETDASA with the dynamic address of `SFE_I3C_CFG`, then the identity read. On an I²C bus there are
no dynamic addresses. -/
def Dev.idStart (d : Dev) (p : Nat) : Dev :=
  let dyn := if d.on F.SFE_I3C_CFG_LEGACY p then none else some (d.rd F.SFE_I3C_CFG_DYN p)
  d.updSfe p fun s => { s with await := false, reading := true, dyn := dyn }

/-- Step 1 of R265: the read waits for a host command that runs; one that waits for its trigger does not run. -/
def Dev.idBegin (d : Dev) (p : Nat) : Dev :=
  if d.on F.SFE_I3C_STAT_BUSY p && !(d.sfe p).trig then d.updSfe p fun s => { s with await := true } else d.idStart p

/-- Whether the role still is where an identity read belongs: ALIGNED in its attempt, or READY in DPHY mode (R262, R265). -/
def Dev.idDue (d : Dev) (p : Nat) : Bool :=
  if d.smode p = 2 then d.roleState p 0 == 4 else (d.role p 0).attempt && (d.role p 0).aligned

/-- LINK_GO is written: the module has been told that the receiver is aligned (R227, R264, R265). -/
def Dev.linkGo (d : Dev) (p : Nat) : Dev := d.putRole p 0 { d.role p 0 with told := true }

/-- The role becomes ALIGNED: the identity read of R265 starts where IDCHK is set; without it LINK_GO is written. -/
def Dev.sfeAligned (d : Dev) (p : Nat) : Dev := if d.on F.SFE_HP_CFG_IDCHK p then d.idBegin p else d.linkGo p

/-- How a read identity compares with the baseline (R266): 0 same, 1 SERIAL, 2 INSERT, 3 MODE; with no baseline DIFF_SERIAL. [log entry 43: DESIGN CHOICE] -/
def Dev.idCompare (d : Dev) (p : Nat) (x : Nat × Nat × Nat) : Nat :=
  match (d.sfe p).base with
  | none => 1
  | some b =>
    if x.1 ≠ b.1 then 1
    else if d.rd F.SFE_HP_CFG_INSMAX p < (x.2.1 + 2 ^ 32 - b.2.1) % 2 ^ 32 then 2
    else if x.2.2 ≠ b.2.2 then 3
    else 0

/-- The role reaches READY: the outcome of a return is written (R271). With no take, or once the identity was the same, the
data flows; in DPHY mode the identity is read now (R262). -/
def Dev.sfeReady (d : Dev) (p : Nat) : Dev :=
  let idchk := d.on F.SFE_HP_CFG_IDCHK p
  if d.smode p = 2 then
    if idchk then (d.updSfe p fun s => { s with dphyOk := false }).idBegin p
    else
      let d := d.updSfe p fun s => { s with dphyOk := true }
      if (d.sfe p).deciding || ((d.sfe p).expired && !d.on F.PCTL_STAT_TAKE p) then
        (d.hpDecide p 4).updSfe p fun s => { s with expired := false } else d
  else
    let s := d.sfe p
    let take := d.on F.PCTL_STAT_TAKE p
    let d := if s.deciding && take && s.same then d.hpDecide p 0
      else if s.deciding && take && !idchk then d.hpDecide p 4
      else if s.deciding && !take then d.hpDecide p 6
      else if s.expired && !take then d.hpDecide p 6
      else d
    d.updSfe p fun s => { s with expired := false, same := false }

/-- The identity in 32 bytes read from 0x0000: SERIAL, INSERT and MODE where FORMAT and IDCRC are right (R264, R265). -/
def identityOf (bs : List Byte) : Option (Nat × Nat × Nat) :=
  let f := fun o n => ofLeBytes ((bs.drop o).take n)
  if bs.length = 32 ∧ f 0 1 = 1 ∧ f 28 4 = crc32c (bs.take 28) then some (f 4 16, f 20 4, f 24 4) else none

/-- An identity has been read: it is shown; with no take open it becomes the baseline, with a take open it is the same or closes the take
(R266, R271). -/
def Dev.idGood (d : Dev) (p : Nat) (id : Nat × Nat × Nat) : Dev :=
  let d := (List.range 4).foldl (fun d k => d.wr F.SFE_ID_SERIAL_VALUE (id.1 / 2 ^ (32 * k)) p k) d
  let d := ((d.wr F.SFE_ID_INSERT_VALUE id.2.1 p).wr F.SFE_ID_MODE_VALUE id.2.2 p).wr F.SFE_STAT_IDVALID 1 p
  let dphy := d.smode p == 2
  let d := (d.updSfe p fun s => { s with ident := some id, dphyOk := true }).when (!dphy) fun d => d.linkGo p
  if d.on F.PCTL_STAT_TAKE p then
    let r := d.idCompare p id
    if (d.sfe p).deciding then
      if r = 0 then (if dphy then d.hpDecide p 0 else d.updSfe p fun s => { s with same := true })
      else d.hpDecide p r
    else d
  else
    let d := d.updSfe p fun s => { s with base := some id }
    let s := d.sfe p
    if dphy && (s.deciding || s.expired) then (d.hpDecide p 6).updSfe p fun s => { s with expired := false } else d

/-- The identity read completes, with the bytes of the first try and of up to two repeats (R265): an unreadable one withholds LINK_GO, and
one that the role has left behind is of no effect (R274). -/
def Dev.idRead (d : Dev) (p : Nat) (tries : List (List Byte)) : Dev :=
  if !(d.sfe p).reading then d
  else
    let d := d.updSfe p fun s => { s with reading := false }
    if !d.idDue p then d
    else
      match (tries.take 3).findSome? identityOf with
      | some id => d.idGood p id
      | none => (d.wr F.SFE_STAT_IDVALID 0 p).updSfe p fun s =>
          { s with ident := none, base := if d.on F.PCTL_STAT_TAKE p then s.base else none }

def execSfeIdentityReadDone (p : Pipe) (tries : List (List Byte)) (s : State) : Out := run s fun d => d.idRead p tries

/-! ### Host commands over I3C (R267) -/

/-- A write of `SFE_I3C_CMD`: discarded while BUSY; with GO the command runs, or waits for the FE of TVC. -/
def Dev.i3cCmd (d : Dev) (p w : Nat) : Dev :=
  if d.on F.SFE_I3C_STAT_BUSY p then d
  else
    let d := d.wrWord ⟨.SFE_I3C_CMD, p, 0, 0⟩ w
    if bit w 31 then
      (d.wr F.SFE_I3C_STAT_BUSY 1 p).updSfe p fun s => { s with trig := slice w 27 26 == 1 }
    else d

def execSfeI3cCmdGo (p : Pipe) (w : Word) (s : State) : Out := bar2 .SFE p s fun d => d.i3cCmd p w.toNat

/-- A host command ends with its RESULT and, for a read, the bytes received; at most 64 are used (R267). -/
def execSfeI3cDone (p : Pipe) (result : Fin 5) (data : List Byte) (s : State) : Out := run s fun d =>
  if d.on F.SFE_I3C_STAT_BUSY p && !(d.sfe p).trig then
    let ty := d.rd F.SFE_I3C_CMD_TYPE p
    let n := min 64 (d.rd F.SFE_I3C_CMD_LEN p)
    let isRead := ty == 1 || ty == 4
    let data := data.take n
    let d := if isRead then
        (List.range 16).foldl (fun d k =>
          if 4 * k < data.length then
            d.wr F.SFE_I3C_BUF_DATA
              (ofLeBytes ((data.drop (4 * k)).take 4) +
                d.rd F.SFE_I3C_BUF_DATA p k / 2 ^ (8 * min 4 (data.length - 4 * k)) * 2 ^ (8 * min 4 (data.length - 4 * k))) p k
          else d) d
      else d
    let d := ((d.wr F.SFE_I3C_STAT_BUSY 0 p).wr F.SFE_I3C_CMD_GO 0 p).wr F.SFE_I3C_STAT_RESULT result.val p
    let d := (d.wr F.SFE_I3C_STAT_COUNT (if isRead then data.length else if result.val = 0 then n else data.length) p).raiseP p 36 0
    if !(d.sfe p).await then d else if d.idDue p then d.idStart p else d.updSfe p fun s => { s with await := false }
  else d

/-- A request of the module on the bus: an in-band interrupt with its mandatory data byte raises SFE_IBI (R267); a Hot-Join request (none) is
acknowledged and no action is taken (R263). -/
def execSfeIbi (p : Pipe) (mdb : Option Byte) (s : State) : Out := run s fun d =>
  match mdb with
  | some b => (d.wr F.SFE_I3C_STAT_IBI_MDB b.toNat p).raiseP p 37 b.toNat
  | none => d

end Sys2Proof.Machine
end

