-- ==== Sys2Proof/Machine/Blk.lean ====
section
/-!
DEFINITION. The block coder of a pipe (chapter 11): frame selection, frame stores and drops, the rate model, coded units, changes
at frame boundaries, and the decoder. What a codec makes of a frame's samples is not the spec's: a command carries it.
-/
namespace Sys2Proof.Machine

/-- Stream `s` of context `c` of pipe `p`. -/
def Dev.bs (d : Dev) (p c s : Nat) : BlkStream := Tab.get {} (d.pipe p).blk (4 * c + s)

/-- The device with a stream replaced. -/
def Dev.putBs (d : Dev) (p c s : Nat) (x : BlkStream) : Dev := d.updPipe p fun st => { st with blk := Tab.set {} st.blk (4 * c + s) x }

/-! ### Formats (R367) -/

/-- The codec of a format: 0 AV1, 1 HEVC, 2 AVC, 3 VVC, 4 JPEG XS. -/
def fmtCodec (f : Nat) : Nat := if f ≤ 11 then 0 else if f ≤ 22 then 1 else if f ≤ 29 then 2 else if f ≤ 34 then 3 else 4

/-- The sample depth of a format. -/
def fmtBits (f : Nat) : Nat :=
  if f = 39 then 12
  else if f ≤ 3 ∨ f = 10 ∨ (12 ≤ f ∧ f ≤ 14) ∨ (23 ≤ f ∧ f ≤ 27) then 8 else 10

/-- The chroma of a format: 0 4:2:0, 1 4:2:2, 2 4:4:4. -/
def fmtChroma (f : Nat) : Nat :=
  if f = 10 ∨ f = 11 ∨ f = 39 then 2 else if f = 21 ∨ f = 22 ∨ f = 29 ∨ (35 ≤ f ∧ f ≤ 38) then 1 else 0

/-- The profile of a format. -/
def fmtProfile (f : Nat) : String :=
  if f ≤ 9 then "Main" else if f ≤ 11 then "High" else if f ≤ 14 then "Main" else if f ≤ 20 then "Main 10"
  else if f ≤ 22 then "Main 4:2:2 10" else if f ≤ 27 then "High" else if f = 28 then "High 10" else if f = 29 then "High 4:2:2"
  else if f ≤ 34 then "Main 10" else if f ≤ 38 then "Main 422.10" else "High 444.12"

/-- The levels of the formats F00 to F39. -/
def fmtLevels : List String :=
  ["3.1", "4.0", "4.1", "5.1", "5.1", "5.1", "5.1", "6.1", "6.1", "6.1"] ++
  ["5.1", "5.1", "3.1", "4.1", "5.1", "5.1", "5.1", "5.1", "6.1", "6.1"] ++
  ["6.1", "5.1", "5.1", "3.1", "4.0", "4.2", "5.1", "5.2", "5.2", "5.2"] ++
  ["4.1", "5.1", "5.1", "5.1", "6.1", "4k-2", "4k-2", "8k-2", "8k-2", "4k-2"]

/-- The level of a format. -/
def fmtLevel (f : Nat) : String := fmtLevels.getD f ""

/-- The transfer of a format: 0 BT.709, 1 PQ, 2 HLG. -/
def fmtTransfer (f : Nat) : Nat :=
  if [5, 8, 11, 16, 19, 32, 34, 39].contains f then 1 else if [6, 9, 17, 20, 22, 28, 33, 36, 38].contains f then 2 else 0

/-- The ITU-T H.273 code points of a transfer (R368): colour primaries, transfer characteristics, matrix coefficients. -/
def h273 (t : Nat) : Nat × Nat × Nat := match t with | 0 => (1, 1, 1) | 1 => (9, 16, 9) | _ => (9, 18, 9)

/-- The sequence-level headers of a format for a picture size: its row of R367, and its colour as narrow range with chroma sample location
type 0 (R368). A JPEG XS codestream carries none. -/
def fmtHeader (f w h : Nat) : List Byte :=
  if fmtCodec f = 4 then []
  else
    let c := h273 (fmtTransfer f)
    Config.seqHeader (fmtProfile f) (fmtLevel f) [fmtCodec f, fmtBits f, fmtChroma f, c.1, c.2.1, c.2.2, 1, 0, w, h]

/-! ### A stream's configuration (R369, R382) -/

/-- The registers of a stream's configuration, those of its context first. -/
def bsRegs : List RegId :=
  [.BLK_CTXCFG, .BLK_CTXRATE, .BLK_SCFG, .BLK_SSIZE, .BLK_STILE, .BLK_SGOP, .BLK_SPORT, .BLK_RCT, .BLK_RCM, .BLK_RCQ, .BLK_RCB]

/-- The index of a configuration register among a context's: its stream's, or none. -/
def bsIdx (r : RegId) (s : Nat) : Nat := if r = .BLK_CTXCFG ∨ r = .BLK_CTXRATE then 0 else s

/-- The words of the configuration registers of a stream. -/
def Dev.bsWords (d : Dev) (p c s : Nat) : List (RegId × Nat) := bsRegs.map fun r => (r, d.fieldWord ⟨r, p, c, bsIdx r s⟩)

/-- A field of a stream's configuration as its frames are coded: of the old configuration where the stream goes on under one (R382). -/
def Dev.bsRd (d : Dev) (f : Fld) (p c s : Nat) : Nat :=
  match (d.bs p c s).old.find? fun x => x.1 == f.reg with
  | some x => slice x.2 f.hi f.lo
  | none => d.rd f p c (bsIdx f.reg s)

/-- A field of a stream's configuration as its frames are selected. -/
def Dev.bsSel (d : Dev) (f : Fld) (p c s : Nat) : Nat := if (d.bs p c s).marked then d.rd f p c (bsIdx f.reg s) else d.bsRd f p c s

/-- Whether the registers set stream `s` of context `c` in use. -/
def Dev.bsSet (d : Dev) (p c s : Nat) : Bool := d.on F.BLK_CTXCFG_EN p c && d.on F.BLK_SCFG_EN p c s

/-! ### Which frames are coded, and when (R369 to R372) -/

/-- Whether stream `s` of context `c` runs. -/
def Dev.bsOn (d : Dev) (p c s : Nat) : Bool := d.bsRd F.BLK_CTXCFG_EN p c s == 1 && d.bsRd F.BLK_SCFG_EN p c s == 1

/-- Whether a stream is a tile of a tiled rendition. -/
def Dev.bsTiled (d : Dev) (p c s : Nat) : Bool := d.bsRd F.BLK_SCFG_TILED p c s == 1

/-- The stream of pipe `p` that codes tiles of group `g`. -/
def Dev.bsOfGroup (d : Dev) (p g : Nat) : Option (Nat × Nat) :=
  ((List.range 64).map fun i => (i / 4, i % 4)).find? fun (c, s) =>
    d.bsOn p c s && d.bsTiled p c s && d.bsRd F.BLK_SGOP_GROUP p c s == g

/-- The index k of R371 for an FS timestamp of `t` ns. -/
def frameIndex (num den : Nat) (tstart t : Nat) : Int := roundIntOf (((t : Int) - tstart) * num) (den * 1000000000)
where
  /-- Rounds a quotient to the nearest integer. -/
  roundIntOf (a : Int) (b : Nat) : Int := if 0 ≤ a then (2 * a + b) / (2 * b) else -((-2 * a + b) / (2 * b))

/-- SEQ and PTS (ns) of an input frame with FS timestamp `t`, where it is selected (R371). -/
def Dev.bsSelect (d : Dev) (p c s tstart t : Nat) : Option (Nat × Nat) :=
  let num := d.bsSel F.BLK_CTXRATE_NUM p c s
  let den := d.bsSel F.BLK_CTXRATE_DEN p c s
  let div := d.bsSel F.BLK_SCFG_DIV p c s
  let ph := d.bsSel F.BLK_SCFG_PHASE p c s
  let k := frameIndex num den tstart t
  if k < 0 ∨ num = 0 ∨ div = 0 then none
  else if k.toNat % div = ph then
    let seq := k.toNat / div
    some (seq, tstart + roundDiv ((seq * div + ph) * den * 1000000000) num)
  else none

/-- The object of a stream in a yield (R40): the live output's or the rung's number. -/
def Dev.bsObj (d : Dev) (p c s : Nat) : Nat := d.bsRd F.BLK_SCFG_OBJ p c s

/-- The rank of a stream: 2 for a live output, 3 for a rung. -/
def Dev.bsRank (d : Dev) (p c s : Nat) : Nat := if d.bsRd F.BLK_SCFG_ROLE p c s = 1 then 2 else 3

/-- The syndrome of the block coder's events: context, stream, SEQ[15:0] (R398). -/
def bsSyn (c s seq : Nat) : Nat := pack [(4, c), (2, s), (16, seq)]

/-- A yield of an object: an open one of the same rank and object grows, otherwise one begins (R374, R508). -/
def Dev.yieldAdd (d : Dev) (y : Yield) : Dev :=
  let same := fun (z : Yield) => z.origin == y.origin && z.yrank == y.yrank && z.object == y.object
  if d.yielding same then d.yieldGrow same else d.yieldBegin { y with amount := 1 }

/-- The cause of a drop: that of the pause or hold in force (R374). [log entry 48: DEDUCED] -/
def Dev.dropCause (d : Dev) (p c s : Nat) : Nat :=
  if d.on F.CELP_RB_STAT_HOLD3 p then 1
  else if d.rd F.PTHM_STAT_DENS p != 0 then 4
  else if d.rd F.CASK_BIND_CONS p (d.bsRd F.BLK_SPORT_OCASK p c s) / 2 ^ 12 == 3 && !d.hostOk then 6
  else 2

/-- A selected frame is dropped from a full store (R374). [log entry 48: DEDUCED] -/
def Dev.bsDrop (d : Dev) (p c s seq : Nat) : Dev :=
  let d := (d.bump C.BLK_CNT p 3).raiseP p 52 (bsSyn c s seq)
  d.yieldAdd { origin := p, yrank := d.bsRank p c s, krank := 1, res := 3, object := d.bsObj p c s,
               cause := d.dropCause p c s, began := 0 }

/-- What a change of configuration restarts (R382): format, size, INFMT, NB, KEYINT. -/
def Dev.bsShape (d : Dev) (p c s : Nat) : List Nat :=
  [d.bsRd F.BLK_SCFG_FMT p c s, d.bsRd F.BLK_SSIZE_WIDTH p c s, d.bsRd F.BLK_SSIZE_HEIGHT p c s, d.bsRd F.BLK_SPORT_INFMT p c s,
   d.bsRd F.BLK_SGOP_NB p c s, d.bsRd F.BLK_SGOP_KEYINT p c s]

/-- The T_start that the Hub holds for a tiled stream's group (R384). -/
def Dev.groupStart (d : Dev) (p c s : Nat) : Option Nat :=
  if d.bsTiled p c s && !d.hub.lost then (Tab.get {} d.hub.asm (d.bsRd F.BLK_SGOP_GROUP p c s)).tstart else none

/-- A stream takes the configuration that its registers hold, `shape` being the one before; none where it did not run. A changed shape, and
a tiled stream's switch, restart it with a key frame; one that joins a group that runs has the group's T_start, and codes a REFRESH tile
first (R382, R390). -/
def Dev.bsAdopt (d : Dev) (p c s : Nat) (shape : Option (List Nat)) : Dev :=
  let x := d.bs p c s
  let d := d.putBs p c s { x with old := [], marked := false }
  let d :=
    if !d.bsOn p c s then d.putBs p c s {}
    else
      match shape with
      | none => let t := d.groupStart p c s; d.putBs p c s { tstart := t, refReq := t.isSome }
      | some l =>
        let same := l == d.bsShape p c s
        d.putBs p c s { d.bs p c s with
          begun := x.begun && same, restart := x.restart || !same || d.bsTiled p c s, job := if same then x.job else none }
  d.wrb F.BLK_SSTAT_RUN (d.bsOn p c s) p c s

/-- A tiled stream that goes on under its old configuration has coded the last frame selected under it: it takes the new one (R382). -/
def Dev.bsSettle (d : Dev) (p c s : Nat) : Dev :=
  let x := d.bs p c s
  let clear := match x.store with | [] => true | f :: _ => f.fresh
  if !x.old.isEmpty && x.marked && x.job.isNone && clear then d.bsAdopt p c s (some (d.bsShape p c s)) else d

/-- A selected frame goes into the store, or is dropped; a frame that is being coded is still in it (R374, R376). -/
def Dev.bsStore (d : Dev) (p c s : Nat) (f : BlkFrame) : Dev :=
  let x := d.bs p c s
  if x.store.length + (if x.job.isSome then 1 else 0) ≤ d.bsSel F.BLK_SCFG_FSTORE p c s then
    d.putBs p c s { x with store := x.store ++ [{ f with key := x.keyReq, refresh := x.refReq }], keyReq := false, refReq := false }
  else d.bsDrop p c s f.seq

/-- An input frame with FS timestamp `t` ns has passed through the stream's port: the first one after the stream is enabled sets
T_start of an untiled stream; a selected one goes into the store, or is dropped. `psn` says whether a token of it was poisoned. The first
selected frame with SEQ a multiple of 16 is the first one under a tiled stream's new configuration (R382). [log entry 48: DEDUCED] -/
def Dev.bsInput (d : Dev) (p c s t : Nat) (psn : Bool) : Dev :=
  if d.bsSel F.BLK_CTXCFG_EN p c s = 0 ∨ d.bsSel F.BLK_SCFG_EN p c s = 0 then d
  else
    let x := d.bs p c s
    let x := if x.tstart.isNone && !d.bsTiled p c s then { x with tstart := some t } else x
    let d := d.putBs p c s x
    match x.tstart with
    | none => d
    | some t0 =>
      match d.bsSelect p c s t0 t with
      | none => d
      | some (seq, pts) =>
        let new := !x.old.isEmpty && !x.marked && seq % 16 == 0
        let d := d.when new fun d => d.putBs p c s { x with marked := true }
        let d :=
          if d.on F.BLK_SSTAT_STOPPED p c s then d.yieldGrow fun y => y.origin == p && y.yrank == 3 && y.object == d.bsObj p c s
          else if new && !d.bsSet p c s then d
          else d.bsStore p c s { seq := seq, pts := pts, psn := psn, fresh := new }
        d.bsSettle p c s

/-! ### The rate model (R378) -/

/-- The rates of a stream in units of bits / (2048 × NUM): R / F, fill / F and S; they take SCALE of the settings in force. -/
structure RateBase where
  rf : Int
  ff : Int
  s : Int
deriving DecidableEq, Repr

/-- SCALE as it applies: outside 64 to 512 it is 256. -/
def effScale (v : Nat) : Nat := if v < 64 ∨ 512 < v then 256 else v

/-- The base rates of a stream. TARGET and MAXBR are in kbit/s and SCALE in 1/256. -/
def Dev.rateBase (d : Dev) (p c s scale : Nat) : RateBase :=
  let sc := effScale scale
  let tgt := d.bsRd F.BLK_RCT_TARGET p c s * sc
  let fill := (if d.bsRd F.BLK_RCT_MODE p c s = 1 then d.bsRd F.BLK_RCM_MAXBR p c s else d.bsRd F.BLK_RCT_TARGET p c s) * sc
  let k := d.bsRd F.BLK_CTXRATE_DEN p c s * d.bsRd F.BLK_SCFG_DIV p c s * 1000 * 8
  ⟨(tgt * k : Nat), (fill * k : Nat), (fill * d.bsRd F.BLK_RCB_VBVMS p c s * 8 * d.bsRd F.BLK_CTXRATE_NUM p c s : Nat)⟩

/-- W of R378 as a fraction: the sum of w over a key interval and its frames. -/
def meanW (keyint nb : Nat) : Nat × Nat :=
  let n := if keyint = 0 then 64 else keyint
  let a := (n - 1) / (nb + 1)
  (6 + 2 * a + (n - 1 - a), n)

/-- w of a frame. -/
def frameW (key b : Bool) : Nat := if key then 6 else if b then 1 else 2

/-- CAP and T of R378 in units of bits / (2048 × NUM), from the model's d and E. -/
def rateTarget (r : RateBase) (_dd e : Int) (cap : Int) (w : Nat) (mw : Nat × Nat) : Int :=
  let t := r.rf * w * mw.2 / mw.1 + e / 16
  clampI (min (r.rf / 8) cap) cap t

/-- Converts from the model's units to bits. [log entry 47: PRESUMED] -/
def toBits (num : Nat) (x : Int) : Int := x / (2048 * num)

/-- The filler of a CBR stream (R378), in whole bytes: what a frame of `b` bits leaves above S. -/
def fillerBytes (r : RateBase) (num : Nat) (dd : Int) (b : Nat) : Nat :=
  let excess := dd - (b * (2048 * num) : Nat) + r.ff - r.s
  if excess ≤ 0 ∨ num = 0 then 0 else ceilDiv excess.toNat (8 * 2048 * num)

/-- The model after a frame of `b` bits: (d, E). [log entry 47: PRESUMED] -/
def rateUpdate (r : RateBase) (num : Nat) (dd e : Int) (b : Nat) : Int × Int :=
  let bu : Int := (b * (2048 * num) : Nat)
  (min (dd - bu + r.ff) r.s, clampI (-(r.s / 2)) (r.s / 2) (e + r.rf - bu))

/-- The rates scaled by a share in 2⁻³² (R389). -/
def RateBase.scaled (r : RateBase) (share : Nat) : RateBase := ⟨r.rf * share / 2 ^ 32, r.ff * share / 2 ^ 32, r.s * share / 2 ^ 32⟩

/-- The rates that a stream's own model runs by: a tiled stream, which runs one in autonomous run alone, has those of its last share (R389). -/
def Dev.ownRates (d : Dev) (p c s : Nat) : RateBase :=
  let x := d.bs p c s
  let r := d.rateBase p c s x.cur.scale
  if d.bsTiled p c s then r.scaled (match x.last with | some l => l.share | none => 2 ^ 32 / (d.bsRd F.BLK_SCFG_NTM1 p c s + 1)) else r

/-! ### Coding a frame (R371 to R379, R381, R389) -/

/-- Whether a frame is a key frame (R372). -/
def Dev.keyDue (d : Dev) (p c s : Nat) (f : BlkFrame) : Bool :=
  let ki := d.bsRd F.BLK_SGOP_KEYINT p c s
  fmtCodec (d.bsRd F.BLK_SCFG_FMT p c s) == 4 || (if ki = 0 then f.seq == 0 else f.seq % ki == 0) || f.key ||
    (d.bs p c s).restart

/-- Pending settings take effect at a frame (R381). -/
def Dev.bsApply (d : Dev) (p c s seq : Nat) : Dev :=
  let x := d.bs p c s
  match x.pend with
  | some (at_, aseq, set_) =>
    if !at_ || seq % 2 ^ 16 == aseq then
      ((d.putBs p c s { x with cur := set_, pend := none }).wr F.BLK_SSTAT_PEND 0 p c s).raiseP p 54 (bsSyn c s seq)
    else d
  | none => d

/-- Starts the model at a stream's start and wherever S has changed (R378). -/
def Dev.bsModel (d : Dev) (p c s : Nat) : Dev :=
  let x := d.bs p c s
  let r := d.ownRates p c s
  if x.begun && x.s == r.s then d else d.putBs p c s { x with begun := true, s := r.s, dd := r.s * 7 / 8, e := 0 }

/-- The default message of a tiled stream for frames 0 and 1 of its group (R388): an even share. -/
def Dev.rcFirst (d : Dev) (p c s seq : Nat) (key b : Bool) : RcMsg :=
  let x := d.bs p c s
  let r := d.rateBase p c s x.cur.scale
  let num := d.bsRd F.BLK_CTXRATE_NUM p c s
  let nt := d.bsRd F.BLK_SCFG_NTM1 p c s + 1
  let cap := r.s * 7 / 16
  let t := rateTarget r (r.s * 7 / 8) 0 cap (frameW key b) (meanW (d.bsRd F.BLK_SGOP_KEYINT p c s) (d.bsRd F.BLK_SGOP_NB p c s))
  ⟨seq, toBits num t / nt, toBits num cap / nt, none, 2 ^ 32 / nt, false, false⟩

/-- The engine of context `c` codes a frame. -/
def Dev.ctxBusy (d : Dev) (p c : Nat) : Bool := (List.range 4).any fun s => (d.bs p c s).job.isSome

/-- The context starts coding frame `i` of the stream's store (R369, R372, R381, R388, R389). Frames come in decoding order: only
with NB above 0 does a later one go first, or a frame go as a B frame. -/
def Dev.bsStart (d : Dev) (p c s i : Nat) (b : Bool) : Dev :=
  let nb := d.bsRd F.BLK_SGOP_NB p c s
  let x := d.bs p c s
  match x.store[i]? with
  | none => d
  | some f =>
    let later := !x.old.isEmpty && (x.store.take (i + 1)).any fun f => f.fresh
    if d.ctxBusy p c || !d.bsOn p c s || later || d.on F.BLK_SSTAT_STOPPED p c s || decide (nb < i) || (b && nb == 0) ||
        !(d.cask p (d.bsRd F.BLK_SPORT_OCASK p c s)).wait.isEmpty then d
    else
      let d := (d.bsApply p c s f.seq).bsModel p c s
      let x := d.bs p c s
      let r := d.ownRates p c s
      let num := d.bsRd F.BLK_CTXRATE_NUM p c s
      let tiled := d.bsTiled p c s
      let msg := x.msgs.find? fun m => m.seq == f.seq
      let key := d.keyDue p c s f || (match msg with | some m => m.key | none => false)
      let b := b && !key
      let refresh := tiled && (f.refresh || (match msg with | some m => m.refresh | none => false))
      let cap := x.dd * 15 / 16
      let own := rateTarget r x.dd x.e cap (frameW key b) (meanW (d.bsRd F.BLK_SGOP_KEYINT p c s) nb)
      let x := { x with store := x.store.eraseIdx i, restart := false }
      if tiled then
        let loc := msg.isNone && decide (2 ≤ f.seq)
        let m : RcMsg :=
          match msg with
          | some m => m
          | none =>
            if !loc then d.rcFirst p c s f.seq key b
            else
              match x.last with
              | none => d.rcFirst p c s f.seq key b
              | some l =>
                if d.inArun p then
                  ⟨f.seq, toBits num own, toBits num cap, l.qc, l.share, false, false⟩
                else { l with seq := f.seq, cap := l.cap / 2, key := false, refresh := false }
        let x := { x with msgs := x.msgs.filter fun y => f.seq < y.seq, last := some m,
                          job := some ⟨f, key, b, m.cap, m.budget, loc, refresh && !key, m.qc⟩ }
        let d := (d.putBs p c s x).wrb F.BLK_SSTAT_LOCAL loc p c s
        d.when loc fun d => d.raiseP p 53 (bsSyn c s f.seq)
      else
        let cqp := d.bsRd F.BLK_RCT_MODE p c s == 2
        d.putBs p c s { x with job := some ⟨f, key, b, if cqp then 2 ^ 62 else toBits num cap, toBits num own, false, false, none⟩ }

def execBlkFrameCodeStart (p : Pipe) (c : Fin 16) (k : Fin 4) (n : Fin 4) (b : Bool) (s : State) : Out :=
  runWork s fun d => d.bsStart p c k n b

/-- The bytes of a coded unit header (R373). [log entry 48: DEDUCED] -/
def cuhBytes (fmt flags tileinfo group seq pts qavg obj plen hlen : Nat) : List Byte :=
  let h := leBytes 4 0x554B4C42 ++ [BitVec.ofNat 8 fmt, BitVec.ofNat 8 flags, BitVec.ofNat 8 tileinfo, BitVec.ofNat 8 group] ++
    leBytes 4 seq ++ ptpBytes (pts % 1000000000) (pts / 1000000000) ++ [BitVec.ofNat 8 qavg, BitVec.ofNat 8 obj] ++
    leBytes 4 plen ++ leBytes 2 hlen
  h ++ leBytes 2 (crc32c h)

/-- Bytes padded with zeros to a multiple of 8. -/
def pad8 (bs : List Byte) : List Byte := bs ++ List.replicate ((8 - bs.length % 8) % 8) 0

/-- `n` bytes of filler in the syntax of a codec. -/
def fillerOf (codec n : Nat) : List Byte := (List.range n).map fun i => Config.filler codec n i

/-- The payload of a JPEG XS frame: exactly floor(TARGET′ / (8F)) bytes (R378). -/
def Dev.xsPayload (d : Dev) (p c s : Nat) (bs : List Byte) : List Byte :=
  let r := d.rateBase p c s (d.bs p c s).cur.scale
  let n := (toBits (d.bsRd F.BLK_CTXRATE_NUM p c s) r.rf).toNat / 8
  bs.take n ++ fillerOf 4 (n - bs.length)

/-- The DQP of a region word, −24 to 24 (R380). -/
def roiDqp (a : Nat) : Int :=
  let v := slice a 29 24
  clampI (-24) 24 (if v < 32 then v else (v : Int) - 64)

/-- The offset of the first enabled region that holds a point of a picture of `w` by `h` (R380); the coordinates are in halves of a
sample. -/
def roiAt (roi : List (Nat × Nat)) (w h x y : Nat) : Int :=
  let hit := fun (r : Nat × Nat) => bit r.1 31 && decide (2 * w * slice r.1 11 0 ≤ 1024 * x) && decide (1024 * x < 2 * w * slice r.2 11 0) &&
    decide (2 * h * slice r.1 23 12 ≤ 1024 * y) && decide (1024 * y < 2 * h * slice r.2 23 12)
  match roi.find? hit with
  | some r => roiDqp r.1
  | none => 0

/-- The QPs of a frame's coding blocks, 64 × 64 or for AVC 16 × 16 samples, in raster order: what the encoder chose, or QCQP, with the region
offset, clamped to [QPMIN, QPMAX] (R377, R378, R380). [log entry 48: DEDUCED] -/
def Dev.blockQps (d : Dev) (p c s : Nat) (qps : List Nat) (q0 : Nat) : List Nat :=
  let w := d.bsRd F.BLK_SSIZE_WIDTH p c s
  let h := d.bsRd F.BLK_SSIZE_HEIGHT p c s
  let codec := fmtCodec (d.bsRd F.BLK_SCFG_FMT p c s)
  let tiled := d.bsTiled p c s
  let picw := if tiled then d.bsRd F.BLK_STILE_PICW p c s else w
  let x0 := if tiled then d.bsRd F.BLK_STILE_X0 p c s else 0
  let k := if codec = 2 then 16 else 64
  let n := ceilDiv w k
  let cqp := d.bsRd F.BLK_RCT_MODE p c s = 2
  let roi := (d.bs p c s).cur.roi
  (List.range (n * ceilDiv h k)).map fun i =>
    let q := if cqp then d.bsRd F.BLK_RCQ_QCQP p c s else qps.getD i q0
    let o := roiAt roi picw h (2 * x0 + k * (2 * (i % n) + 1)) (k * (2 * (i / n) + 1))
    (clampI (d.bsRd F.BLK_RCQ_QPMIN p c s) (d.bsRd F.BLK_RCQ_QPMAX p c s) (q + (if codec = 0 then 4 * o else o))).toNat

/-- The mean of QPs, to the nearest whole one. -/
def meanQp (qs : List Nat) : Nat := roundDiv qs.sum qs.length

/-- The payload of a frame with the bytes of its header part: on a key frame the sequence-level headers stand in it (R368, R372, R385). -/
def Dev.bsPayload (d : Dev) (p c s : Nat) (key : Bool) (f : CodedFrame) : List Byte × Nat :=
  let w := if d.bsTiled p c s then d.bsRd F.BLK_STILE_PICW p c s else d.bsRd F.BLK_SSIZE_WIDTH p c s
  let h := d.bsRd F.BLK_SSIZE_HEIGHT p c s
  let hd := f.lead ++ (if key then fmtHeader (d.bsRd F.BLK_SCFG_FMT p c s) w h else []) ++ f.head
  (hd ++ f.body, hd.length)

/-- The mean QP of a frame's blocks, `q` as the encoder would have it: a tile's lies within QSPREAD of the base QP the coordinator has
set, or above where the frame's cap forces it (R388), and all block QPs in [QPMIN, QPMAX] (R377). [log entry 48: DEDUCED] -/
def Dev.tileQp (d : Dev) (p c s : Nat) (base : Option Nat) (capped : Bool) (q : Nat) : Nat :=
  match base with
  | none => q
  | some b =>
    let w := d.bsRd F.BLK_RCQ_QSPREAD p c s
    let q := max (b - w) (if capped then q else min (b + w) q)
    max (d.bsRd F.BLK_RCQ_QPMIN p c s) (min (d.bsRd F.BLK_RCQ_QPMAX p c s) q)

/-- The coding of a frame ends as the codec makes it: the unit is emitted as one item, the model updated, the status shown
(R373, R375, R378, R379). A CQP stream has no model, and a tiled stream one in autonomous run alone. -/
def Dev.bsCoded (d : Dev) (p c s : Nat) (f : CodedFrame) : Dev :=
  let x := d.bs p c s
  match x.job with
  | none => d
  | some j =>
    let fmt := d.bsRd F.BLK_SCFG_FMT p c s
    let tiled := d.bsTiled p c s
    let xs := fmtCodec fmt == 4
    let mode := d.bsRd F.BLK_RCT_MODE p c s
    let num := d.bsRd F.BLK_CTXRATE_NUM p c s
    let r := d.ownRates p c s
    let (data, hlen) := d.bsPayload p c s j.key f
    let bs := if xs && !tiled then d.xsPayload p c s data else data
    let under := decide (j.cap < 8 * bs.length) && !xs
    let capped := (f.capped || under) && !xs
    let model := mode != 2 && (!tiled || d.inArun p)
    let bs := if model && mode == 0 && !xs then bs ++ fillerOf (fmtCodec fmt) (fillerBytes r num x.dd (8 * bs.length)) else bs
    let qavg := if xs then f.qavg else d.tileQp p c s j.qc capped (meanQp (d.blockQps p c s f.qps f.qavg))
    let rep := j.frame.psn
    let flags := b2n j.key + 2 * b2n rep + 4 * b2n capped + 16 * b2n tiled + 32 * b2n j.refresh + 64 * b2n j.loc
    let info := if tiled then d.bsRd F.BLK_SCFG_TIDX p c s + 4 * d.bsRd F.BLK_SCFG_NTM1 p c s else 0
    let group := if tiled then d.bsRd F.BLK_SGOP_GROUP p c s else 0xFF
    let obj := 128 * d.bsRd F.BLK_SCFG_ROLE p c s + d.bsObj p c s
    let unit := pad8 (cuhBytes fmt flags info group j.frame.seq j.frame.pts qavg obj bs.length (if tiled then hlen else 0) ++ bs)
    let (dd, e) := rateUpdate r num x.dd x.e (8 * bs.length)
    let d := d.putBs p c s (if model then { x with job := none, dd := dd, e := e } else { x with job := none })
    let d := d.caskSend p (d.bsRd F.BLK_SPORT_OCASK p c s) (0x2140 + 4 * c + s) (wordsOfBytes true unit.length unit)
    let d := ((d.wr F.BLK_SSTAT_QAVG qavg p c s).wr F.BLK_SSTAT_SEQ j.frame.seq p c s).bump C.BLK_CNT p 0
    let d := d.when rep fun d => (d.bump C.BLK_CNT p 1).raiseP p 50 (bsSyn c s j.frame.seq)
    let d := d.when capped fun d => (d.bump C.BLK_CNT p 2).raiseP p 51 (bsSyn c s j.frame.seq + b2n under * 2 ^ 22)
    d.bsSettle p c s

/-! ### Changes and requests -/

/-- The shadow copies of a context as the registers hold them. -/
def Dev.blkShadow (d : Dev) (p c : Nat) : BlkSet :=
  ⟨d.rd F.BLK_RCADJ_SCALE p c,
   (List.range 8).map fun r => (d.fieldWord ⟨.BLK_ROI_A, p, c, r⟩, d.fieldWord ⟨.BLK_ROI_B, p, c, r⟩)⟩

/-- GO: the shadow copies become pending for every stream of the context (R381). -/
def Dev.ctxGo (d : Dev) (p c : Nat) (at_ : Bool) (aseq : Nat) : Dev :=
  let set_ := d.blkShadow p c
  (List.range 4).foldl (fun d s =>
    if d.on F.BLK_SCFG_EN p c s then (d.putBs p c s { d.bs p c s with pend := some (at_, aseq, set_) }).wr F.BLK_SSTAT_PEND 1 p c s
    else d) d

/-- CANCEL: pending copies are discarded. -/
def Dev.ctxCancel (d : Dev) (p c : Nat) : Dev :=
  (List.range 4).foldl (fun d s => (d.putBs p c s { d.bs p c s with pend := none }).wr F.BLK_SSTAT_PEND 0 p c s) d

/-- A write of `BLK_CTX_UPD`: CANCEL acts before GO. [log entry 84: DEDUCED] -/
def Dev.ctxUpd (d : Dev) (p c w : Nat) : Dev :=
  if bit w 1 then d.ctxCancel p c else if bit w 0 then d.ctxGo p c (bit w 2) (slice w 31 16) else d

def execBlkCtxUpdGo (p : Pipe) (c : Fin 16) (at_ : Bool) (aseq : BitVec 16) (s : State) : Out :=
  bar2 .BLK p s fun d => d.ctxGo p c at_ aseq.toNat

def execBlkCtxUpdCancel (p : Pipe) (c : Fin 16) (s : State) : Out := bar2 .BLK p s fun d => d.ctxCancel p c

/-- KEY: the next selected frame, or for a tiled stream the coordinator's next message (R390). -/
def Dev.bsKey (d : Dev) (p c s : Nat) : Dev :=
  if d.bsTiled p c s then
    let g := d.bsRd F.BLK_SGOP_GROUP p c s
    if d.hub.lost then d else d.updHub fun h => { h with asm := Tab.upd {} h.asm g fun x => { x with key := true } }
  else d.putBs p c s { d.bs p c s with keyReq := true }

def execBlkSctlKey (p : Pipe) (c : Fin 16) (k : Fin 4) (s : State) : Out := bar2 .BLK p s fun d => d.bsKey p c k

/-- REFRESH: the next tile is all-intra; ignored when not tiled. -/
def Dev.bsRefresh (d : Dev) (p c s : Nat) : Dev :=
  if d.bsTiled p c s then d.putBs p c s { d.bs p c s with refReq := true } else d

def execBlkSctlRefresh (p : Pipe) (c : Fin 16) (k : Fin 4) (s : State) : Out := bar2 .BLK p s fun d => d.bsRefresh p c k

/-- A write of `BLK_SCTL`. -/
def Dev.bsCtl (d : Dev) (p c s w : Nat) : Dev :=
  let d := if bit w 0 then d.bsKey p c s else d
  if bit w 1 then d.bsRefresh p c s else d

/-! ### Shedding and configuration -/

/-- A rung is shed (R376, R83): it receives no frames and its store is emptied. -/
def Dev.bsStop (d : Dev) (p c s : Nat) : Dev := (d.putBs p c s { d.bs p c s with store := [] }).wr F.BLK_SSTAT_STOPPED 1 p c s

/-- A shed rung is restored: a tiled one codes a REFRESH tile first. -/
def Dev.bsRestore (d : Dev) (p c s : Nat) : Dev := ((d.wr F.BLK_SSTAT_STOPPED 0 p c s)).bsRefresh p c s

/-- The streams of pipe `p` that serve rung `r`. -/
def Dev.bsOfRung (d : Dev) (p r : Nat) : List (Nat × Nat) :=
  ((List.range 64).map fun i => (i / 4, i % 4)).filter fun (c, s) =>
    d.bsOn p c s && d.bsRank p c s == 3 && d.bsObj p c s == r

/-- The loads of the engines in units of 1/1024 of their capacity (R366). -/
def Dev.blkLoads (d : Dev) (p : Nat) : Dev :=
  let load := fun (xs : Bool) => (((List.range 64).map fun i =>
    let c := i / 4
    let s := i % 4
    if d.bsSet p c s && d.on F.BLK_CTXCFG_ENGINE p c == xs then
      let kc := if fmtCodec (d.rd F.BLK_SCFG_FMT p c s) = 3 then 2 else 1
      let ke := if xs then 2 else match d.rd F.BLK_CTXCFG_EFFORT p c with | 0 => 1 | 1 => 2 | _ => 4
      d.rd F.BLK_SSIZE_WIDTH p c s * d.rd F.BLK_SSIZE_HEIGHT p c s * d.rd F.BLK_CTXRATE_NUM p c * kc * ke * 1024 /
        (2 * d.rd F.BLK_CTXRATE_DEN p c * d.rd F.BLK_SCFG_DIV p c s)
    else 0).sum)
  (d.wr F.BLK_STAT_CORE (min 0x3FF (load false / 2400000000)) p).wr F.BLK_STAT_XS (min 0x3FF (load true / 4800000000)) p

/-- The streams of a context with the words of their configuration in force; those that do not run have none. -/
def Dev.blkBefore (d : Dev) (p c : Nat) : List (List (RegId × Nat)) :=
  (List.range 4).map fun s =>
    if !d.bsOn p c s then [] else if (d.bs p c s).old.isEmpty then d.bsWords p c s else (d.bs p c s).old

/-- A context's configuration has become active: streams run or end, pending updates are discarded, and a changed shape restarts
a stream (R381, R382). `before` are the words in force before, by stream; none at a whole load. A tiled stream goes on under them. -/
def Dev.blkSwitched (d : Dev) (p c : Nat) (before : Option (List (List (RegId × Nat)))) : Dev :=
  ((List.range 4).foldl (fun d s =>
    let d := (d.putBs p c s { d.bs p c s with pend := none }).wr F.BLK_SSTAT_PEND 0 p c s
    match before.bind fun l => l[s]? with
    | some (w :: ws) =>
      let d := d.putBs p c s { d.bs p c s with old := w :: ws }
      if d.bsTiled p c s then d.bsSettle p c s else d.bsAdopt p c s (some (d.bsShape p c s))
    | _ => d.bsAdopt p c s none) d).blkLoads p

/-- The streams of pipe `p` that go on under an old configuration. -/
def Dev.bsHeld (d : Dev) (p : Nat) : List (Nat × Nat) :=
  ((List.range 64).map fun i => (i / 4, i % 4)).filter fun (c, s) => !(d.bs p c s).old.isEmpty

/-- A stream takes its new configuration at once (R211). -/
def Dev.bsForce (d : Dev) (p c s : Nat) : Dev := d.bsAdopt p c s (some (d.bsShape p c s))

/-! ### The decoder (R394 to R397) -/

/-- Session `j` of pipe `p`. -/
def Dev.bdec (d : Dev) (p j : Nat) : BlkDec := Tab.get {} (d.pipe p).bdec j

/-- The device with a session replaced. -/
def Dev.putBdec (d : Dev) (p j : Nat) (x : BlkDec) : Dev := d.updPipe p fun s => { s with bdec := Tab.set {} s.bdec j x }

/-- A job ends with its status and BLK_DEC_DONE. -/
def Dev.bdecEnd (d : Dev) (p j status : Nat) : Dev :=
  let us := usSince (d.bdec p j).began d.c
  (((d.wr F.BLK_DEC_STAT_STATE 2 p j).wr F.BLK_DEC_STAT_STATUS status p j).wr F.BLK_DEC_RES_USED (min 0xFFFF us) p j).raiseP p (55 + j) status

/-- The rows of a picture's planes (R394): Y′, Cb, Cr. -/
def planeRows (fmt h : Nat) : Nat := h + 2 * (if fmtChroma fmt = 0 then (h + 1) / 2 else h)

/-- GO: accepted in IDLE or DONE; the checks of R395 in order. `h` is what the unit's own headers say. -/
def Dev.bdecGo (d : Dev) (p j : Nat) (h : DecHeader) : Dev :=
  let st := d.rd F.BLK_DEC_STAT_STATE p j
  if st = 0 ∨ st = 2 then
    let src := d.rd64 F.BLK_DEC_SRC_LO_ADDR_LO F.BLK_DEC_SRC_HI_ADDR_HI p j
    let dst := d.rd64 F.BLK_DEC_DST_LO_ADDR_LO F.BLK_DEC_DST_HI_ADDR_HI p j
    let pool := d.rd64 F.BLK_DEC_POOL_LO_ADDR_LO F.BLK_DEC_POOL_HI_ADDR_HI p j
    let slen := d.rd F.BLK_DEC_SLEN_LEN p j
    let dlen := d.rd F.BLK_DEC_DLEN_LEN p j
    let plen := d.rd F.BLK_DEC_PLEN_LEN p j
    let stride := 8 * d.rd F.BLK_DEC_STRIDE_STRIDE8 p j
    let x := d.bdec p j
    let d := d.putBdec p j { x with began := d.c }
    let d := ((d.wr F.BLK_DEC_STAT_STATUS 0 p j).wr F.BLK_DEC_RES_CBLK 0 p j).wr F.BLK_DEC_RES_USED 0 p j
    if !(d.dramInMap p src slen && d.dramInMap p dst dlen && d.dramInMap p pool plen) then d.bdecEnd p j 0x14
    else
      let (u, psn, d) := d.dramRead p (0x20 + j) src (min 32 slen)
      let f := fun o n => ofLeBytes ((u.drop o).take n)
      let key := bit (f 5 1) 0
      let fmt := f 4 1
      if psn || u.length < 32 || f 0 4 != 0x554B4C42 || crc32c (u.take 30) % 2 ^ 16 != f 30 2 || bit (f 5 1) 4 ||
          decide (slen < f 0x18 4 + 32) then d.bdecEnd p j 0x10
      else if decide (39 < fmt) || !h.supported then d.bdecEnd p j 0x11
      else if !key && !x.heads then d.bdecEnd p j 0x16
      else if stride < 2 * h.width ∨ dlen < stride * planeRows fmt h.height then d.bdecEnd p j 0x12
      else if plen < h.refs then d.bdecEnd p j 0x13
      else
        (d.putBdec p j { d.bdec p j with key := key, fmt := fmt, heads := true }).wr F.BLK_DEC_STAT_STATE 1 p j
  else d

def execBlkDecGo (p : Pipe) (j : Fin 4) (h : DecHeader) (s : State) : Out := bar2 .BLK p s fun d => d.bdecGo p j h

/-- ABORT: the job stops within 2 µs. -/
def Dev.bdecAbort (d : Dev) (p j : Nat) : Dev :=
  if d.rd F.BLK_DEC_STAT_STATE p j = 1 then d.wr F.BLK_DEC_STAT_STATE 3 p j else d

def execBlkDecAbort (p : Pipe) (j : Fin 4) (s : State) : Out := bar2 .BLK p s fun d => d.bdecAbort p j

/-- RESET clears the session's headers and references; discarded in RUN. -/
def Dev.bdecReset (d : Dev) (p j : Nat) : Dev :=
  let st := d.rd F.BLK_DEC_STAT_STATE p j
  if st = 1 then d else (d.putBdec p j {}).wr F.BLK_DEC_STAT_DRIFT 0 p j

def execBlkDecReset (p : Pipe) (j : Fin 4) (s : State) : Out := bar2 .BLK p s fun d => d.bdecReset p j

/-- A sample of the picture that is output: the decoded one, or what CONCEAL says (R396). -/
def Dev.concealSample (d : Dev) (p j pl y x : Nat) : Option Nat → Nat
  | some v => v
  | none =>
    let grey := 2 ^ (fmtBits (d.bdec p j).fmt - 1)
    if d.on F.BLK_DEC_CFG_CONCEAL p j then grey else ((((d.bdec p j).last.getD pl []).getD y [])[x]?).getD grey

/-- The planes of a decoded picture with its concealed samples filled in. -/
def Dev.bdecFill (d : Dev) (p j : Nat) (pic : DecPicture) : List (List (List Nat)) :=
  (pic.planes.zip (List.range pic.planes.length)).map fun (rows, pl) =>
    (rows.zip (List.range rows.length)).map fun (row, y) =>
      (row.zip (List.range row.length)).map fun (v, x) => d.concealSample p j pl y x v

/-- Writes a picture at DST, plane after plane, rows STRIDE bytes apart; nothing outside DLEN. -/
def Dev.bdecWrite (d : Dev) (p j : Nat) (planes : List (List (List Nat))) : Dev :=
  let dst := d.rd64 F.BLK_DEC_DST_LO_ADDR_LO F.BLK_DEC_DST_HI_ADDR_HI p j
  let stride := 8 * d.rd F.BLK_DEC_STRIDE_STRIDE8 p j
  let dlen := d.rd F.BLK_DEC_DLEN_LEN p j
  let rows := planes.flatten
  (rows.zip (List.range rows.length)).foldl (fun d (row, y) =>
    if y * stride + 2 * row.length ≤ dlen then d.dramWrite p (0x20 + j) (dst + y * stride) (row.flatMap (leBytes 2)) else d) d

/-- The picture of a job is output and the session kept: DRIFT holds from a concealment to a key unit without one. -/
def Dev.bdecOutput (d : Dev) (p j : Nat) (pic : DecPicture) : Dev :=
  let planes := d.bdecFill p j pic
  let x := d.bdec p j
  let hid := pic.areas != 0
  let drift := hid || (d.on F.BLK_DEC_STAT_DRIFT p j && !x.key)
  let d := (d.bdecWrite p j planes).putBdec p j { x with last := planes }
  ((d.wrb F.BLK_DEC_STAT_DRIFT drift p j).wrb F.BLK_DEC_STAT_KEY x.key p j).wr F.BLK_DEC_RES_CBLK (min 0xFFFF pic.areas) p j

/-- A job ends: with its picture, or in ABORTING with what was written. -/
def execBlkDecDone (p : Pipe) (j : Fin 4) (pic : DecPicture) (s : State) : Out := runWork s fun d =>
  let st := d.rd F.BLK_DEC_STAT_STATE p j
  if st = 1 then (d.bdecOutput p j pic).bdecEnd p j (if pic.noRef then 3 else if pic.areas = 0 then 0 else 1)
  else if st = 3 then (d.bdecWrite p j (d.bdecFill p j pic)).bdecEnd p j 0x15
  else d

/-- The budget runs out: the rest is concealed and the job ends with BUDGET (R397). -/
def execBlkDecBudgetExpiry (p : Pipe) (j : Fin 4) (pic : DecPicture) (s : State) : Out := runWork s fun d =>
  if d.rd F.BLK_DEC_STAT_STATE p j = 1 then (d.bdecOutput p j pic).bdecEnd p j 2 else d

end Sys2Proof.Machine
end

