-- ==== Sys2Proof/Machine/Asm.lean ====
section
/-!
DEFINITION. The Hub's assembly path and rate coordinator (chapter 11, R384 to R392).
-/
namespace Sys2Proof.Machine

/-- Assembly group `g`. -/
def Dev.asmG (d : Dev) (g : Nat) : AsmGroup := Tab.get {} d.hub.asm g

/-- The device with a group replaced. -/
def Dev.putAsm (d : Dev) (g : Nat) (x : AsmGroup) : Dev := d.updHub fun h => { h with asm := Tab.set {} h.asm g x }

/-- The pipes of a group. -/
def Dev.asmPipes (d : Dev) (g : Nat) : List Nat := bitsOf (d.rd F.HUB_ASM_CFG_PIPES 0 g) 4

/-- Whether a pipe has tripped (`PCTL_STAT.STATE` 5). -/
def Dev.tripped (d : Dev) (p : Nat) : Bool := d.rd F.PCTL_STAT_STATE p == 5

/-! ### Starting a group (R384) -/

/-- The latest FS timestamp that pipe `p` has reported, in 2⁻⁸ ns. -/
def Dev.latestFs (d : Dev) (p : Nat) : Nat := ((List.range 16).map fun v => (d.vc p v).fsNow).foldl max 0

/-- Setting EN: T_start is the latest FS of any contributing pipe plus 2.5 input frame periods, and every pipe's stream of the
group receives it (R384). -/
def Dev.asmStart (d : Dev) (g : Nat) : Dev :=
  let ps := d.asmPipes g
  let fs := nsOf ((ps.map d.latestFs).foldl max 0)
  let streams := ps.filterMap fun p => (d.bsOfGroup p g).map fun x => (p, x)
  let period := match streams.head? with
    | some (p, c, s) => (d.bsRd F.BLK_CTXRATE_NUM p c s, d.bsRd F.BLK_CTXRATE_DEN p c s)
    | none => (1, 0)
  let t := fs + period.2 * 2500000000 / period.1
  let d := streams.foldl (fun d (p, c, s) => d.putBs p c s { d.bs p c s with tstart := some t }) d
  (d.putAsm g { tstart := some t }).wr F.HUB_ASM_STAT_STARTED 1 0 g

/-- A write of `HUB_ASM_CFG`: while EN is set only EN may change; setting it starts the group, clearing it ends it. -/
def Dev.asmCfg (d : Dev) (g w : Nat) : Dev :=
  let l : RegLoc := ⟨.HUB_ASM_CFG, 0, g, 0⟩
  if d.on F.HUB_ASM_CFG_EN 0 g then
    if d.sameBut l F.HUB_ASM_CFG_EN w then
      if bit w 31 then d else ((d.wr F.HUB_ASM_CFG_EN 0 0 g).putAsm g {}).wr F.HUB_ASM_STAT_STARTED 0 0 g
    else d
  else
    let d := d.wrWord l w
    if bit w 31 then d.asmStart g else d

def execAsmGroupEnable (g : Fin 64) (w : Word) (s : State) : Out := bar2 .HUB_CTL 0 s fun d => d.asmCfg g w.toNat

/-! ### Delivery (R387) -/

/-- The ring's size in bytes. -/
def Dev.asmSize (d : Dev) (g : Nat) : Nat :=
  let r := d.rd F.HUB_ASM_RING_LO_RSIZE 0 g
  2 ^ (if 20 ≤ r ∧ r ≤ 30 then r else 20)

/-- The syndrome of the Hub's assembly events: group, SEQ[15:0], TIDX, cause (R398). -/
def asmSyn (g seq tidx cause : Nat) : Nat := pack [(6, g), (16, seq), (2, tidx), (2, cause)]

/-- A unit that cannot be delivered is dropped: OVF where the ring was full, and ASM_UNIT_LOST. -/
def Dev.asmLost (d : Dev) (g seq : Nat) (full : Bool) : Dev :=
  (d.when full fun d => d.wr F.HUB_ASM_TAIL_OVF 1 0 g).raise 538 (asmSyn g seq 0 0)

/-- Writes a unit to the group's ring, a PAD unit before it where it would cross the end. [log entry 81: DEDUCED] -/
def Dev.asmRing (d : Dev) (g seq : Nat) (unit : List Byte) : Dev :=
  let size := d.asmSize g
  let base := d.rd64 F.HUB_ASM_RING_LO_BASE_LO F.HUB_ASM_RING_HI_BASE_HI 0 g
  let tail := 8 * d.rd F.HUB_ASM_TAIL_TAIL 0 g
  let head := 8 * d.rd F.HUB_ASM_HEAD_HEAD 0 g
  let pad := if size < tail + unit.length then size - tail else 0
  let used := (tail + size - head) % size
  let full := decide (size ≤ used + pad + unit.length)
  if !d.hostOk || full then d.asmLost g seq full
  else
    let d := if pad = 0 then d
      else d.hostWrite (base + tail) ((cuhBytes 0xFF 0 0 g 0 0 0 0 (pad - 32) 0).take pad)
    let at_ := if pad = 0 then tail else 0
    (d.hostWrite (base + at_) unit).wr F.HUB_ASM_TAIL_TAIL ((at_ + unit.length) % size / 8) 0 g

/-- Whether data of the assembly path enters the input cask of live output `i` of pipe `p`: only where that cask is bound to the path (class
0x4 of `CASK_BIND`) as producer and to the enabled output as consumer (R26). -/
def Dev.asmBound (d : Dev) (p i : Nat) : Bool :=
  let k := d.rd F.NET_LO_CFG_ICASK p i
  d.on F.NET_LO_CFG_EN p i && d.rd F.CASK_BIND_PROD p k / 2 ^ 12 == 4 && d.rd F.CASK_BIND_CONS p k == 0x2180 + i

/-- Data of the assembly path for live output `i` of pipe `p`; where it cannot enter it is dropped. -/
def Dev.asmToLive (d : Dev) (p i : Nat) (ws : List CaskWord) : Dev :=
  if d.asmBound p i then d.caskWait p (d.rd F.NET_LO_CFG_ICASK p i) ws else d

/-- The destination of an assembled unit: host ring, live output, or none (R387). -/
def Dev.asmDeliver (d : Dev) (g seq : Nat) (unit : List Byte) : Dev :=
  match d.rd F.HUB_ASM_CFG_DEST 0 g with
  | 0 => d.asmRing g seq unit
  | 1 =>
    let p := d.rd F.HUB_ASM_CFG_DPIPE 0 g
    let i := d.rd F.HUB_ASM_CFG_DLIVE 0 g
    if d.asmBound p i then d.asmToLive p i (wordsOfBytes true unit.length unit) else d.asmLost g seq false
  | _ => d

/-! ### Building the access unit (R386, R391) -/

/-- A number in AV1's leb128 form. -/
def leb128 : Nat → Nat → List Byte
  | 0, _ => []
  | fuel + 1, v => if v < 128 then [BitVec.ofNat 8 v] else BitVec.ofNat 8 (v % 128 + 128) :: leb128 fuel (v / 128)

/-- The payload of an assembled frame from its header part and its tiles in order, each as its pieces (R386). An AV1 size field
holds the size minus 1; an SLH marker holds its own length and the slice's number. [log entry 47: PRESUMED] -/
def asmPayload (fmt hsl : Nat) (head : List Byte) (tiles : List (List (List Byte))) : List Byte :=
  let whole := tiles.map fun t => t.flatten
  match fmtCodec fmt with
  | 0 =>
    let n := whole.length
    let sized := (whole.zip (List.range n)).flatMap fun (t, k) => if k + 1 < n then leBytes 4 (t.length - 1) ++ t else t
    let body := (if 1 < n then [0#8] else []) ++ sized
    [0x12#8, 0x00#8] ++ head ++ [0x22#8] ++ leb128 8 body.length ++ body
  | 2 =>
    let rows := (tiles.map (·.length)).foldl max 0
    head ++ (List.range rows).flatMap fun r => tiles.flatMap fun t => t.getD r []
  | 4 =>
    let rows := (tiles.map (·.length)).foldl max 0
    let h := max hsl 1
    head ++ ((List.range rows).flatMap fun r =>
      (if r % h = 0 then [0xFF#8, 0x20#8, 0x00#8, 0x04#8, BitVec.ofNat 8 (r / h / 256), BitVec.ofNat 8 (r / h)] else []) ++
        tiles.flatMap fun t => t.getD r []) ++ [0xFF#8, 0x11#8]
  | _ => head ++ whole.flatten

/-- Rows of `n` pieces made of the concealment tile: the first piece carries it. -/
def concealParts (fmt : Nat) (key : Bool) (qc n : Nat) : List (List Byte) :=
  Config.concealTile fmt key qc :: List.replicate (n - 1) []

/-! ### The rate coordinator (R388) -/

/-- 2^(i/24) in 2⁻³², for i = 0 to 23. -/
def exp2Table : List Nat :=
  [4294967296, 4420819444, 4550359342, 4683695048, 4820937788, 4962202048, 5107605667, 5257269937,
   5411319705, 5569883475, 5733093519, 5901085982, 6074001000, 6251982815, 6435179895, 6623745059,
   6817835604, 7017613436, 7223245206, 7434902446, 7652761717, 7877004752, 8107818609, 8345395829]

/-- 2^(q/24) in 2⁻³². -/
def exp2of24 (q : Nat) : Nat := exp2Table.getD (q % 24) 4294967296 * 2 ^ (q / 24)

/-- X[n] of R388 in 2⁻³²: B × 2^(QAVG / h). -/
def tileX (fmt b q : Nat) : Nat := b * exp2of24 (if fmtCodec fmt = 0 then q else 4 * q)

/-- What the streams of a group report as rate parameters. -/
def Dev.rcParams (d : Dev) (p c s : Nat) : List Nat :=
  [d.fieldWord ⟨.BLK_RCT, p, c, s⟩, d.fieldWord ⟨.BLK_RCM, p, c, s⟩, d.fieldWord ⟨.BLK_RCQ, p, c, s⟩,
   d.fieldWord ⟨.BLK_RCB, p, c, s⟩, d.bsRd F.BLK_SGOP_KEYINT p c s, d.bsRd F.BLK_SGOP_NB p c s, (d.bs p c s).cur.scale]

/-- The model of a group under rates `r`: it starts, and starts again where S has changed (R378, R388). -/
def AsmGroup.model (x : AsmGroup) (r : RateBase) : AsmGroup :=
  if x.begun && x.s == r.s then x else { x with begun := true, s := r.s, dd := r.s * 7 / 8, e := 0, caps := [] }

/-- The filler that the assembled frame of a CBR group takes (R378, R388), under the parameters of stream (c, s) of pipe `p`. -/
def Dev.asmFiller (d : Dev) (g n p c s fmt : Nat) : List Byte :=
  if d.bsRd F.BLK_RCT_MODE p c s = 0 ∧ fmtCodec fmt ≠ 4 then
    let r := d.rateBase p c s (d.bs p c s).cur.scale
    fillerOf (fmtCodec fmt) (fillerBytes r (d.bsRd F.BLK_CTXRATE_NUM p c s) ((d.asmG g).model r).dd (8 * n))
  else []

/-- The coordinator's update after frame `f` and its messages for frame f + 2 (R388, R390). `tiles` are the pipes' tiles that
counted, with their bits and QAVG; `bits` the assembled frame's. -/
def Dev.rcUpdate (d : Dev) (g f : Nat) (tiles : List (Nat × Nat × Nat)) (bits qc : Nat) (p c s : Nat) (fmt : Nat) : Dev :=
  let x := d.asmG g
  let r := d.rateBase p c s (d.bs p c s).cur.scale
  let num := d.bsRd F.BLK_CTXRATE_NUM p c s
  let x := x.model r
  let (dd, e) := rateUpdate r num x.dd x.e bits
  let capNext := Tab.get (r.s * 7 / 16) x.caps (f + 1)
  let cap := min r.s (dd - capNext + r.ff) / 2
  let sum := (tiles.map fun t => tileX fmt t.2.1 t.2.2).sum
  let nt := d.bsRd F.BLK_SCFG_NTM1 p c s + 1
  let share : Nat → Nat := fun n =>
    match tiles.find? fun t => t.1 == n with
    | some t => if sum = 0 then 2 ^ 32 / nt else tileX fmt t.2.1 t.2.2 * 2 ^ 32 / sum
    | none => Tab.get (2 ^ 32 / nt) x.share n
  let ki := d.bsRd F.BLK_SGOP_KEYINT p c s
  let nb := d.bsRd F.BLK_SGOP_NB p c s
  let key := x.key || fmtCodec fmt == 4 || (ki != 0 && (f + 2) % ki == 0)
  let b := !key && (if ki = 0 then f + 2 else (f + 2) % ki) % (nb + 1) != 0
  let t := rateTarget r dd e cap (frameW key b) (meanW ki nb)
  let msg : Nat → RcMsg := fun n =>
    { seq := f + 2
      budget := (toBits num t * Int.ofNat (share n) + 2 ^ 31) / 2 ^ 32
      cap := toBits num cap * Int.ofNat (share n) / 2 ^ 32
      qc := some qc
      share := share n
      key := x.key
      refresh := x.refresh.contains n && !x.key }
  let ps := (d.asmPipes g).filter fun n => !d.tripped n
  (d.putAsm g { x with
    dd := dd, e := e, caps := Tab.put (Tab.del x.caps f) (f + 2) cap
    share := (d.asmPipes g).foldl (fun tb n => Tab.put tb n (share n)) x.share
    key := false, refresh := [], msgs := x.msgs ++ ps.map fun n => (n, msg n) }).wr F.HUB_ASM_STAT_QC qc 0 g

/-! ### Closing a frame (R386, R389, R391) -/

/-- The pipes of a group with the tile index of each: its stream's, or its place in PIPES. -/
def Dev.asmTiles (d : Dev) (g : Nat) : List (Nat × Nat) :=
  let ps := d.asmPipes g
  (ps.zip (List.range ps.length)).map fun (p, k) =>
    (p, match d.bsOfGroup p g with | some (c, s) => d.bsRd F.BLK_SCFG_TIDX p c s | none => k)

/-- A frame of a group has missed tiles: ASM_CONCEAL for each, and one yield for the group (R391, R392). -/
def Dev.asmConceal (d : Dev) (g seq : Nat) (missing : List (Nat × Nat)) (obj : Nat) : Dev :=
  let d := missing.foldl (fun d (tidx, cause) => d.raise 537 (asmSyn g seq tidx cause)) d
  if missing.isEmpty then d
  else d.yieldAdd { origin := 4, yrank := if 128 ≤ obj then 2 else 3, krank := 1, res := 5, object := obj % 128,
                    cause := if missing.any fun x => x.2 == 3 then 7 else 8, began := 0 }

/-- The assembly of a frame closes. [log entry 47: PRESUMED] -/
def Dev.asmClose (d : Dev) (g : Nat) (f : AsmFrame) : Dev :=
  let x := d.asmG g
  let fmt := d.rd F.HUB_ASM_CFG_FMT 0 g
  let tiles := d.asmTiles g
  let got := f.units.filter fun u => u.2.fmt == fmt
  let low := got.foldl (fun (b : Option TileUnit) u =>
    match b with | some y => if u.2.tidx < y.tidx then some u.2 else b | none => some u.2) none
  let good : List (Nat × TileUnit) := match low with | some y => got.filter fun u => u.2.head == y.head | none => []
  let cause := fun (p : Nat) => if d.tripped p then 3 else if f.units.any fun u => u.1 == p then 2 else 1
  let missing := (tiles.filter fun t => !good.any fun u => u.1 == t.1).map fun t => (t.1, t.2, cause t.1)
  let d := d.putAsm g { x with
    frames := x.frames.filter fun y => y.seq != f.seq, closed := (f.seq :: x.closed).take 64
    refresh := x.refresh ++ missing.map fun m => m.1 }
  let obj := match f.units.head? with | some u => u.2.obj | none => 0
  let d := d.asmConceal g f.seq (missing.map fun m => (m.2.1, m.2.2)) obj
  match low with
  | none => d.raise 538 (asmSyn g f.seq 0 0)
  | some y =>
    let size := fun (u : TileUnit) => 8 * (u.parts.map (·.length)).sum
    let counted : List (Nat × Nat × Nat) := good.map fun u => (u.1, size u.2, u.2.qavg)
    let sb := (counted.map fun t => t.2.1).sum
    let qc := if sb = 0 then y.qavg else roundDiv ((counted.map fun t => t.2.1 * t.2.2).sum) sb
    let n := y.parts.length
    let parts := tiles.map fun t =>
      match good.find? fun u => u.1 == t.1 with | some u => u.2.parts | none => concealParts fmt y.key qc n
    let pay := asmPayload fmt y.hsl y.head parts
    let streams := good.filterMap fun u => (d.bsOfGroup u.1 g).map fun z => (u.2.tidx, u.1, z)
    let lead := streams.foldl (fun (b : Option (Nat × Nat × Nat × Nat)) z =>
      match b with | some w => if z.1 < w.1 then some z else b | none => some z) none
    let pay := match lead with | some (_, p, c, s) => pay ++ d.asmFiller g pay.length p c s fmt | none => pay
    let any := fun (q : TileUnit → Bool) => good.any fun u => q u.2
    let flags := b2n y.key + 2 * b2n (any (·.rep)) + 4 * b2n (any (·.capped)) + 8 * b2n (!missing.isEmpty) + 64 * b2n (any (·.loc))
    let unit := pad8 (cuhBytes fmt flags 0 g y.seq y.pts qc y.obj pay.length 0 ++ pay)
    let d := match lead with
      | some (_, p, c, s) =>
        let same := streams.all fun z => d.rcParams z.2.1 z.2.2.1 z.2.2.2 == d.rcParams p c s
        let d := if same then d else d.raise 539 (asmSyn g f.seq 0 0)
        d.rcUpdate g f.seq counted (8 * pay.length) qc p c s fmt
      | none => d
    (d.wr F.HUB_ASM_STAT_SEQ f.seq 0 g).asmDeliver g f.seq unit

/-- Whether a unit has arrived from every pipe of the group. -/
def Dev.asmFull (d : Dev) (g : Nat) (f : AsmFrame) : Bool :=
  (d.asmPipes g).all fun p => f.units.any fun u => u.1 == p

/-- The pipes of a group. -/
def Dev.pasmPipes (d : Dev) (g : Nat) : List Nat := bitsOf (d.rd F.HUB_PASM_CFG_PIPES 0 g) 4

/-- The enabled group that reads input `i`, and its pipe (R570). [log entry 63: DEDUCED] -/
def Dev.pasmOf (d : Dev) (i : Nat) : Option (Nat × Nat) :=
  ((List.range 8).flatMap fun g => (d.pasmPipes g).map fun n => (g, n)).find? fun (g, n) =>
    d.on F.HUB_PASM_CFG_EN 0 g && d.rd F.HUB_PASM_CFG_IBASE 0 g + n == i

/-- A tile unit of pipe `p` arrives (R386); of a closed frame, of a group that is not started, or on an input of an enabled picture group
(R570), it is discarded. [log entry 48: DEDUCED] -/
def Dev.asmUnit (d : Dev) (p : Nat) (u : TileUnit) : Dev :=
  let g := u.group % 64
  let x := d.asmG g
  if d.hub.lost || (d.pasmOf u.input).isSome || !d.on F.HUB_ASM_STAT_STARTED 0 g || !(d.asmPipes g).contains p || x.closed.contains u.seq then d
  else
    let f : AsmFrame := (x.frames.find? fun f => f.seq == u.seq).getD ⟨u.seq, d.c, []⟩
    let f := { f with units := f.units ++ [(p, u)] }
    let d := d.putAsm g { x with frames := (x.frames.filter fun y => y.seq != u.seq) ++ [f] }
    if d.asmFull g f then d.asmClose g f else d

def execAsmTileUnit (p : Pipe) (u : TileUnit) (s : State) : Out := run s fun d => d.asmUnit p u

/-- AWIN has passed since the first unit of frame `seq` arrived. -/
def execAsmWindowExpiry (g : Fin 64) (seq : Nat) (s : State) : Out := run s fun d =>
  match (d.asmG g).frames.find? fun f => f.seq == seq with
  | some f => if d.hub.lost then d else d.asmClose g f
  | none => d

/-- The oldest message of the coordinator for pipe `p` reaches its stream of the group (R388). -/
def execRcCoordinatorMessage (p : Pipe) (g : Fin 64) (s : State) : Out := run s fun d =>
  let x := d.asmG g
  match x.msgs.find? fun m => m.1 == p.val with
  | some (n, m) =>
    let d := d.putAsm g { x with msgs := x.msgs.erase (n, m) }
    match d.bsOfGroup p g with
    | some (c, k) => d.putBs p c k { d.bs p c k with msgs := (d.bs p c k).msgs ++ [m] }
    | none => d
  | none => d

end Sys2Proof.Machine
end

