-- ==== Sys2Proof/Machine/Time.lean ====
section
/-!
DEFINITION. The time unit (chapter 15, R490 to R503): copies and steps, the PTP clock, the servo, the timecode generators, and
the reference of time.
-/
namespace Sys2Proof.Machine

/-- The device with the PTP clock changed. -/
def Dev.updPtp (d : Dev) (f : Ptp → Ptp) : Dev := d.updHub fun h => { h with ptp := f h.ptp }

/-! ### Timecode (R503) -/

/-- The alignment point of frame `n` of a rate, in ns. -/
def fap (num den n : Nat) : Nat := n * den * 1000000000 / num

/-- The frame of a rate whose alignment point was the most recent at `t` ns. -/
def frameAt (num den t : Nat) : Nat :=
  let n := (t + 1) * num / (den * 1000000000)
  if fap num den n ≤ t then n else n - 1

/-- The first frame of a rate whose alignment point is at or after `t` ns. -/
def frameFrom (num den t : Nat) : Nat := ceilDiv (t * num) (den * 1000000000)

/-- A number below 100 in binary-coded decimal. -/
def bcd (v : Nat) : Nat := v / 10 * 16 + v % 10

/-- The count with drop-frame numbers skipped, at 30 numbers a second: two at each minute but every tenth (ST 12-1). -/
def dropCount (c : Nat) : Nat :=
  let t := c / 17982
  let r := c % 17982
  c + 18 * t + 2 * ((r - 2) / 1798)

/-- UTC offset in use: Announce's while it is valid, otherwise `TIME_UTC.UTCOFF` (R496). -/
def Dev.utcOff (d : Dev) : Nat := match d.hub.ptp.utc with | some u => u | none => d.rd F.TIME_UTC_UTCOFF

/-- Writes the label of generator `g` for the Hub's time (R503). -/
def Dev.tcLabel (d : Dev) (g : Nat) : Dev :=
  let num := d.rd F.TIME_TC_CFG_NUM 0 g
  let den := d.rd F.TIME_TC_CFG_DEN 0 g
  if !d.on F.TIME_TC_CFG_EN 0 g || num == 0 || den == 0 then d
  else
    let t := nsOf d.hubTime
    let n := frameAt num den t
    let f := fap num den n
    let shift : Int := 60 * signed 16 (d.rd F.TIME_UTC_LOCOFF) - (d.utcOff : Nat)
    let sec : Int := ((f / 1000000000 : Nat) : Int) + shift
    let day := (sec % 86400).toNat
    let mid := (f / 1000000000 - day) * 1000000000
    let k := n - frameFrom num den mid
    let rate := ceilDiv num den
    let pairs := decide (30 < rate)
    let c := if pairs then k / 2 else k
    let base := if pairs then (rate + 1) / 2 else rate
    let drop := d.on F.TIME_TC_CFG_DF 0 g && den == 1001 && (num == 30000 || num == 60000)
    let c := if drop then dropCount c else c
    let d := (d.wr F.TIME_TC_VAL_HH (bcd (c / (3600 * base) % 24)) 0 g).wr F.TIME_TC_VAL_MM (bcd (c / (60 * base) % 60)) 0 g
    let d := (d.wr F.TIME_TC_VAL_SS (bcd (c / base % 60)) 0 g).wr F.TIME_TC_VAL_FF (bcd (c % base)) 0 g
    (d.wrb F.TIME_TC_VAL_PAIR (pairs && k % 2 == 1) 0 g).wrb F.TIME_TC_VAL_DROP drop 0 g

def execTimecodeFrame (g : Fin 4) (s : State) : Out := runHub s fun d => d.tcLabel g

/-! ### States and steps (R497 to R499) -/

/-- The servo changes state: TIME_STATE is raised with it; the counts of R497 start again. -/
def Dev.servoState (d : Dev) (st : Nat) : Dev :=
  if d.rd F.TIME_STAT_STATE = st then d
  else ((d.wr F.TIME_STAT_STATE st).updPtp fun p => { p with good := 0, wild := 0 }).raise 545 st

/-- Whether the device leads a board with a follower UP. -/
def Dev.leadsBoard (d : Dev) : Bool := d.on F.QDL_CTL_EN && d.rd F.QDL_ID_DEVID == 0 && d.leaderPort.isSome

/-- Whether steps are allowed (R499): no take open in the device and no assembly group started; on a board, no take open in any
device that is UP (R544). -/
def Dev.stepsAllowed (d : Dev) : Bool :=
  !(d.leadsBoard && (List.range 3).any fun q => d.qdlUp q && Tab.get 0 d.hub.qdl.openTakes (q + 1) != 0) && !((List.range 4).any fun p => d.on F.PCTL_STAT_TAKE p) && !((List.range 64).any fun g => d.on F.HUB_ASM_STAT_STARTED 0 g)

/-- The jump threshold in µs. -/
def Dev.jumpUs (d : Dev) : Nat := let v := d.rd F.TIME_SERVO_JUMP; if v = 0 then 0x64 else v

/-- A step is refused and kept pending; TIME_JUMP is raised once while one is pending (R498). -/
def Dev.stepRefuse (d : Dev) (step : Int) : Dev :=
  let was := d.on F.TIME_STAT_PENDING
  let d := (d.updPtp fun p => { p with pending := some step }).wr F.TIME_STAT_REFUSED 1
  let d := d.wr F.TIME_STAT_PENDING 1
  if was then d else d.raise 546 0

/-- A pending step is dropped. -/
def Dev.stepClear (d : Dev) : Dev := (d.updPtp fun p => { p with pending := none }).wr F.TIME_STAT_PENDING 0

/-- A host step by `TIME_STEP_S` and `_NS` (R499); `force` is FORCE of the same write. [log entry 56: DEDUCED] -/
def Dev.hostStep (d : Dev) (force : Bool) : Dev :=
  let ns := d.rd F.TIME_STEP_NS_VALUE
  let step : Int := signed 32 (d.rd F.TIME_STEP_S_VALUE) * 1000000000 + (ns : Nat)
  if 1000000000 ≤ ns then d.stepRefuse step
  else if force || (d.stepsAllowed && decide (step.natAbs ≤ 1000 * d.jumpUs)) then
    d.stepClear.updPtp fun p => { p with apply := some step }
  else d.stepRefuse step

/-- FORCE alone: the pending step applies at the next copy (R498). -/
def Dev.forceStep (d : Dev) : Dev :=
  match d.hub.ptp.pending with
  | some x => d.stepClear.updPtp fun p => { p with apply := some x }
  | none => d

/-- A write of `TIME_CTL`. -/
def Dev.timeCtl (d : Dev) (w : Nat) : Dev := if bit w 0 then d.hostStep (bit w 1) else if bit w 1 then d.forceStep else d

def execTimeCtlStep (force : Bool) (s : State) : Out := bar2 .TIME 0 s fun d => d.hostStep force

def execTimeCtlForce (s : State) : Out := bar2 .TIME 0 s fun d => d.forceStep

/-- The Hub's side of a copy strobe: a new anchor, moved by a step that waits (R492, R499), and the servo's R. A leader with a follower UP
announces a step at the first strobe and applies it at the second (R544). -/
def Dev.hubStrobe (d : Dev) : Dev :=
  let t := d.hubTime
  let a := d.hub.anchor
  let wait := d.leadsBoard && !d.hub.ptp.announced
  match (if wait then none else d.hub.ptp.apply) with
  | none =>
    (d.updHub fun h => { h with anchor := { a with ca := d.c, ta := t, r := d.hub.ptp.rate } }).updPtp fun p => { p with announced := wait && p.apply.isSome }
  | some x =>
    let t' := ((t : Int) + 256 * x).toNat
    let d := d.updHub fun h => { h with anchor := { a with ca := d.c, ta := t', r := d.hub.ptp.rate } }
    let d := (d.updPtp fun p => { p with apply := none, announced := false }).wr F.TIME_STAT_STEPPED 1
    (List.range 4).foldl (fun d g => d.tcLabel g) (d.raise 547 0)

/-- A pipe takes the Hub's anchor and rate with its own counter (R492). -/
def Dev.pipeCopy (d : Dev) (p : Nat) : Dev :=
  let a := d.hub.anchor
  d.updPipe p fun s => { s with anchor := { a with ca := d.c, ta := a.at d.c }, lastCopy := d.c }

/-! ### The servo (R497) -/

/-- Rounds `a / b` to the nearest integer, half away from zero. [log entry 56: DEDUCED] -/
def roundInt (a : Int) (b : Nat) : Int :=
  if 0 ≤ a then (2 * a + b) / (2 * b) else -((-2 * a + b) / (2 * b))

/-- `a / 2^k` rounded to the nearest integer. -/
def shiftRound (a : Int) (k : Nat) : Int := roundInt a (2 ^ k)

/-- The servo's new frequency and rate for an offset `o` in 2⁻¹⁶ ns with `inv` Syncs a second as a fraction `n / m`, in units of
10⁻⁹ × 2⁻⁴⁸. [log entry 56: DEDUCED] -/
def servoRate (freq o : Int) (n m kp ki slew : Nat) : Int × Int :=
  let p : Int := o * 2 ^ 32 * n / m
  let freq := freq - shiftRound p ki
  let lim : Int := slew * 1000 * 2 ^ 48
  (freq, clampI (freq - lim) (freq + lim) (freq - shiftRound p kp))

/-- The rate goes to the counter, with the next copy, or to TIME_STEER (R492, R497). An SGAIN of 0 has no stated effect on the steering value. -/
def Dev.servoDrive (d : Dev) (rate : Int) : Dev :=
  if d.on F.TIME_CFG_MODE then
    let d := (d.updPtp fun p => { p with rate := 0 }).wr F.TIME_RATE_VALUE 0
    let g := d.rd F.TIME_CFG_SGAIN
    if g = 0 then let (v, d) := d.draw; d.wr F.TIME_STEER_STEER v
    else d.wr F.TIME_STEER_STEER (clampI 0 65535 (32768 + roundInt rate (2 ^ 40 * g))).toNat
  else
    let r := clampI (-(2 ^ 31)) (2 ^ 31 - 1) (roundInt rate (1000000000 * 256))
    let d := d.updPtp fun p => { p with rate := r }
    (d.wr F.TIME_RATE_VALUE (code 32 r)).wr F.TIME_STEER_STEER 0x8000

/-- The lock threshold in ns. -/
def Dev.lockTh (d : Dev) : Nat := let v := d.rd F.TIME_SERVO_LOCKTH; if v = 0 then 0x64 else v

/-- The states of the servo after an accepted Sync of offset `o` (2⁻¹⁶ ns). -/
def Dev.servoCount (d : Dev) (o : Int) : Dev :=
  let st := d.rd F.TIME_STAT_STATE
  let d := if st = 0 ∨ st = 3 then d.servoState 1 else d
  let near := decide (o.natAbs < d.lockTh * 65536)
  let wild := decide (65536000 ≤ o.natAbs)
  let d := d.updPtp fun p => { p with good := if near then p.good + 1 else 0, wild := if wild then p.wild + 1 else 0 }
  if d.rd F.TIME_STAT_STATE = 1 ∧ 16 ≤ d.hub.ptp.good then d.servoState 2
  else if d.rd F.TIME_STAT_STATE = 2 ∧ 4 ≤ d.hub.ptp.wild then d.servoState 1
  else d

/-- An offset in 2⁻¹⁶ ns reaches the servo, from a master that sends `n / m` Syncs a second (R497, R498). [log entry 56: DEDUCED] -/
def Dev.servo (d : Dev) (o : Int) (n m : Nat) : Dev :=
  let d := d.wr F.TIME_OFFSET_VALUE (satCode 32 (roundInt o 65536))
  if d.jumpUs * 65536000 < o.natAbs then (d.stepRefuse (-(roundInt o 65536))).servoState 3
  else
    let d := d.stepClear.servoCount o
    if 65536000 < o.natAbs ∧ d.stepsAllowed then d.updPtp fun p => { p with apply := some (-(roundInt o 65536)) }
    else
      let slew := d.rd F.TIME_CFG_SLEW
      let (freq, rate) := servoRate d.hub.ptp.freq o n m (d.rd F.TIME_SERVO_KP) (d.rd F.TIME_SERVO_KI)
        (if slew = 0 then 0x32 else slew)
      (d.updPtp fun p => { p with freq := freq }).servoDrive rate

/-! ### The PTP clock (R496) -/

/-- Syncs a second in the profile in use: 8 or 1. -/
def Dev.syncRate (d : Dev) : Nat := if d.on F.TIME_PTP_PROF then 1 else 8

/-- Four Announce intervals of the profile, in counter units: the window in which a master qualifies. -/
def Dev.foreignWindow (d : Dev) : Nat := if d.on F.TIME_PTP_PROF then 8 * 256000000000 else 256000000000

/-- Whether the clock takes a message of this domain: it runs and the device is no follower (R496, R542). -/
def Dev.ptpTakes (d : Dev) (domain : Nat) : Bool :=
  d.on F.TIME_PTP_EN && !d.isFollower && d.rd F.TIME_PTP_DOMAIN == domain && !d.hub.lost

/-- The order of two data sets: the first that differs decides, the lower being better. -/
def setLt : List Nat → List Nat → Bool
  | [], [] => false
  | [], _ :: _ => true
  | _ :: _, [] => false
  | a :: s, b :: t => if a < b then true else if b < a then false else setLt s t

/-- The best master of those that have qualified: two Announce messages within the window (IEEE 1588-2019). -/
def Dev.bestMaster (d : Dev) : Option Nat :=
  let q := d.hub.ptp.masters.filter fun m =>
    match m.at0 with | some a => decide (cSince a m.at1 ≤ d.foreignWindow) | none => false
  (q.foldl (fun (b : Option Master) m =>
    match b with
    | some x => if setLt (m.set_ ++ [m.src]) (x.set_ ++ [x.src]) then some m else b
    | none => some m) none).map (·.src)

/-- The timestamp of a frame whose start crosses the boundary of MAC and PCS of port `q` at this instant, in 2⁻⁸ ns (R500): the pipe's time
captured to 0.25 ns, the fixed latency of the port's role and FEC, and `NET_TS_CORR`. -/
def Dev.portStamp (d : Dev) (tx : Bool) (p q : Nat) : Int :=
  let role := d.rd F.LANE_FCFG_ROLE p q
  let corr := signed 16 (d.rd (if tx then F.NET_TS_CORR_TX else F.NET_TS_CORR_RX) p q)
  ((d.pipeTime p / 64 * 64 : Nat) : Int) + Config.portLatency role (role == 2 || d.on F.LANE_FCFG_RSFEC p q) tx + 16 * corr

/-- The timestamp of a message at the Ethernet port of the clock at this instant, in 2⁻¹⁶ ns. -/
def Dev.ptpStamp (d : Dev) (tx : Bool) : Int := 256 * d.portStamp tx (d.rd F.TIME_PTP_PIPE) (d.rd F.TIME_PTP_PORT)

/-- A message time in 2⁻¹⁶ ns. -/
def PtpMsg_t (m : PtpMsg) : Int := 65536 * (m.time : Int) + m.frac

/-- The offset of a Sync whose t2 − t1 less corrections is `x` reaches the servo. -/
def Dev.syncDone (d : Dev) (x : Int) : Dev :=
  let d := d.updPtp fun p => { p with sync := some x }
  d.servo (x - d.hub.ptp.mpd) d.syncRate 1

/-- A Sync of the selected master: one-step it is judged now, two-step it waits for its Follow_Up. [log entry 56: DEDUCED] -/
def execPtpSync (m : PtpMsg) (s : State) : Out := run s fun d =>
  if d.ptpTakes m.domain && d.hub.ptp.sel == some m.src then
    let t2 := d.ptpStamp false
    if m.twoStep then d.updPtp fun p => { p with waiting := some (m.src, m.seq, t2.toNat, m.corr) }
    else d.syncDone (t2 - PtpMsg_t m - m.corr)
  else d

/-- A Follow_Up completes the two-step Sync of its sequence number. -/
def execPtpFollowUp (m : PtpMsg) (s : State) : Out := run s fun d =>
  match d.hub.ptp.waiting with
  | some (src, seq, t2, corr) =>
    if d.ptpTakes m.domain && src == m.src && seq == m.seq && d.hub.ptp.sel == some m.src then
      (d.updPtp fun p => { p with waiting := none }).syncDone ((t2 : Int) - PtpMsg_t m - corr - m.corr)
    else d
  | none => d

/-- A Delay_Req is sent at the transmit timestamp of this instant, multicast, or in the ST 2059-2 profile with UCAST to the master (R496). -/
def execPtpDelayReqSend (s : State) : Out := run s fun d =>
  if d.on F.TIME_PTP_EN && !d.isFollower && d.hub.ptp.sel.isSome && !d.hub.lost then
    let t3 := (d.ptpStamp true).toNat
    let dest := if d.on F.TIME_PTP_UCAST && !d.on F.TIME_PTP_PROF then d.hub.ptp.sel else none
    d.updPtp fun p => { p with dseq := (p.dseq + 1) % 2 ^ 16, t3 := some t3, ucast := dest }
  else d

/-- The Delay_Resp to the last Delay_Req gives the mean path delay. -/
def execPtpDelayResp (m : PtpMsg) (s : State) : Out := run s fun d =>
  match d.hub.ptp.t3, d.hub.ptp.sync with
  | some t3, some x =>
    if d.ptpTakes m.domain && d.hub.ptp.sel == some m.src && d.hub.ptp.dseq == m.seq then
      let mpd := (x + (PtpMsg_t m - (t3 : Int) - m.corr)) / 2
      (d.updPtp fun p => { p with mpd := mpd, t3 := none }).wr F.TIME_PDELAY_VALUE (satCode 32 (roundInt mpd 65536))
    else d
  | _, _ => d

/-- The selected master becomes `m`: from FREERUN the servo acquires (R497). [log entry 56: DEDUCED] -/
def Dev.selectMaster (d : Dev) (m : Option Nat) : Dev :=
  let d := d.updPtp fun p => { p with sel := m, waiting := if p.sel == m then p.waiting else none, sync := if p.sel == m then p.sync else none }
  if m.isSome && d.rd F.TIME_STAT_STATE == 0 then d.servoState 1 else d

/-- An Announce message: the master is noted, the best one selected, and the selected one's UTC offset taken. [log entry 56: DEDUCED] -/
def execPtpAnnounce (a : PtpAnnounce) (s : State) : Out := run s fun d =>
  if d.ptpTakes a.domain then
    let d := d.updPtp fun p =>
      match p.masters.find? fun m => m.src == a.src with
      | some _ =>
        { p with masters := p.masters.map fun m => if m.src = a.src then { m with set_ := a.dataset, at0 := some m.at1, at1 := d.c } else m }
      | none => { p with masters := p.masters ++ [⟨a.src, a.dataset, d.c, none⟩] }
    let best := match d.bestMaster with | some b => some b | none => d.hub.ptp.sel
    let d := d.selectMaster best
    if d.hub.ptp.sel = some a.src then (d.updPtp fun p => { p with utc := a.utc }).wrb F.TIME_STAT_UTCV a.utc.isSome
    else d
  else d

/-- The servo is without its master: HOLDOVER, unless none was ever selected. -/
def Dev.servoHold (d : Dev) : Dev := if d.rd F.TIME_STAT_STATE = 0 then d else d.servoState 3

/-- The announce receipt timeout of the selected master. -/
def execPtpAnnounceTimeout (s : State) : Out := run s fun d =>
  match d.hub.ptp.sel with
  | some src =>
    let d := d.updPtp fun p => { p with masters := p.masters.filter fun m => m.src != src, sel := none, waiting := none, utc := none }
    let d := d.wr F.TIME_STAT_UTCV 0
    (d.updPtp fun p => { p with sel := d.bestMaster }).servoHold
  | none => d

/-- No Sync for eight intervals. -/
def execPtpSyncTimeout (s : State) : Out := run s fun d => if d.hub.ptp.sel.isSome then d.servoHold else d

/-- The role of the PTP port is lost (R497). -/
def Dev.ptpPortLost (d : Dev) (u port : Nat) : Dev :=
  if d.on F.TIME_PTP_EN && d.rd F.TIME_PTP_PIPE == u && d.rd F.TIME_PTP_PORT == port then d.servoHold else d

/-! ### The reference and the registers of time -/

/-- REFCLK_TIME enters fault (R495): no edge for 1 µs, or, where the free value says so, a difference from the crystal, which counts with
XTAL only. [log entry 57: DESIGN CHOICE] -/
def execRefclkTimeFault (s : State) : Out := run s fun d =>
  if d.on F.TIME_STAT_REFFAULT then d
  else
    let (v, d) := d.draw
    if v % 2 = 1 && !d.on F.TIME_CFG_XTAL then d else (d.wr F.TIME_STAT_REFFAULT 1).raise 548 0

/-- The fault clears after 1 ms of good edges. -/
def execRefclkTimeRecover (s : State) : Out := run s fun d => d.wr F.TIME_STAT_REFFAULT 0

/-- A read of `TIME_NOW_NS` (u = 4) or of pipe u's `NET_TIME_NS`: the nanoseconds, and the seconds into the snapshot (R493). -/
def Dev.timeNsRead (d : Dev) (u : Nat) : Dev :=
  let t := d.unitTime u
  { d with rdata := ptpNs t, tsnap := Tab.put d.tsnap u (ptpSec t % 2 ^ 48) }

def execTimeNsRead (u : Unit5) (s : State) : Out := bar2Read (if u.val < 4 then .NET else .TIME) u s fun d => d.timeNsRead u

end Sys2Proof.Machine
end

