-- ==== Sys2Proof/Machine/Net.lean ====
section
/-!
DEFINITION. The Ethernet ports (chapter 15, R500 to R504): receive and transmit items and the transmit timestamps.
-/
namespace Sys2Proof.Machine

/-- Ethernet port `q` of pipe `p`. -/
def Dev.eth (d : Dev) (p q : Nat) : EthPort := Tab.get {} (d.pipe p).eth q

/-- The device with a port replaced. -/
def Dev.putEth (d : Dev) (p q : Nat) (x : EthPort) : Dev := d.updPipe p fun s => { s with eth := Tab.set {} s.eth q x }

/-- Whether the role of port `q`, the role whose lowest lane is flex lane q, is READY, and the port in use (R504). -/
def Dev.ethUp (d : Dev) (p q : Nat) : Bool := d.on F.NET_PORT_CFG_EN p q && d.roleState p (1 + q) == 4

/-- The longest frame of a port, with its FCS. -/
def Dev.ethMax (d : Dev) (p q : Nat) : Nat := if d.on F.NET_PORT_CFG_JUMBO p q then 9216 else 1522

/-- The big-endian number of `n` bytes at offset `o` of a frame. [log entry 57: DESIGN CHOICE] -/
def beAt (bs : List Byte) (o n : Nat) : Nat := ((bs.drop o).take n).foldl (fun a b => 256 * a + b.toNat) 0

/-- Whether a frame is a PTP message over UDP on IPv4 (R496). -/
def isPtp (bs : List Byte) : Bool :=
  beAt bs 12 2 == 0x0800 && beAt bs 14 1 == 0x45 && beAt bs 23 1 == 17 && (beAt bs 36 2 == 319 || beAt bs 36 2 == 320)

/-- Whether a PTP message is a management or signalling one, which goes to the host (R496). -/
def ptpForHost (bs : List Byte) : Bool := let t := beAt bs 42 1 % 16; t == 0xC || t == 0xD

/-- Whether the time unit takes the PTP frames of port `q`. -/
def Dev.isPtpPort (d : Dev) (p q : Nat) : Bool :=
  d.on F.TIME_PTP_EN && d.rd F.TIME_PTP_PIPE == p && d.rd F.TIME_PTP_PORT == q

/-- Whether the MAC accepts a destination: its own address, the broadcast, or with ALLMC a multicast. [log entry 57: DESIGN CHOICE] -/
def Dev.ethAccepts (d : Dev) (p q : Nat) (bs : List Byte) : Bool :=
  let da := beAt bs 0 6
  da == d.rd F.NET_PORT_MAC_LO_MAC p q + 2 ^ 32 * d.rd F.NET_PORT_MAC_HI_MAC p q || da == 2 ^ 48 - 1 ||
    (d.on F.NET_PORT_CFG_ALLMC p q && bit (beAt bs 0 1) 0)

/-- The time of a frame at a port at this instant as (TS32, fraction) (R500, R501). -/
def Dev.ethStamp (d : Dev) (tx : Bool) (p q : Nat) : Nat × Nat :=
  let t := (d.portStamp tx p q).toNat
  (nsOf t % 2 ^ 32, t % 256)

/-- Bytes padded with zeros to whole cask words. -/
def padWords (bs : List Byte) : List Byte := bs ++ List.replicate ((8 - bs.length % 8) % 8) 0

/-- A frame goes to RXCASK as one item, or is dropped for want of credit (R504). -/
def Dev.ethToHost (d : Dev) (p q : Nat) (ptp : Bool) (bs : List Byte) : Dev :=
  let (ts, fr) := d.ethStamp false p q
  let pre := leBytes 4 ts ++ [BitVec.ofNat 8 fr, BitVec.ofNat 8 (b2n ptp)] ++ leBytes 2 bs.length ++ [BitVec.ofNat 8 q] ++ leBytes 7 0
  let all := padWords (pre ++ bs)
  let k := d.rd F.NET_PORT_CFG_RXCASK p q
  if d.on F.CASK_CFG_EN p k && (d.cask p k).wait.isEmpty && (d.cask p k).next.isNone &&
      decide (all.length / 8 ≤ d.rd F.CASK_STAT_CREDITS p k) then
    (d.caskSend p k (0x21A0 + q) (wordsOfBytes true all.length all)).bump C.NET_CNT p q 0
  else d.bump C.NET_CNT p q 1

/-- A frame arrives without its FCS; `fcsOk` says whether that was good. [log entry 57: DESIGN CHOICE] -/
def Dev.ethRx (d : Dev) (p q : Nat) (bs : List Byte) (fcsOk : Bool) : Dev :=
  if !d.ethUp p q then d
  else if !fcsOk then d.bump C.NET_CNT p q 2
  else if d.ethMax p q < bs.length + 4 then d
  else if isPtp bs && d.isPtpPort p q then (if d.on F.NET_PORT_CFG_PTPCOPY p q || ptpForHost bs then d.ethToHost p q true bs else d)
  else if d.ethAccepts p q bs then d.ethToHost p q false bs
  else d

def execEthFrameRx (p : Pipe) (q : Fin 6) (bytes : List Byte) (fcsOk : Bool) (s : State) : Out :=
  run s fun d => d.ethRx p q bytes fcsOk

/-- A transmit timestamp is queued, or dropped where 64 wait (R502). -/
def Dev.txtsPush (d : Dev) (p q id : Nat) : Dev :=
  let x := d.eth p q
  let (ts, fr) := d.ethStamp true p q
  if x.txts.length < 64 then d.putEth p q { x with txts := x.txts ++ [(ts, fr, id)] }
  else
    let d := (d.putEth p q { x with lost := true }).bump C.NET_TXTS_OVF p q
    if x.lost then d else d.raiseP p 69 q

/-- A whole host transmit item goes out, the FCS appended: its prefix says the length, TSREQ and ID; one that is too long, or whose words are
poisoned, is a transmit error (R504). [log entry 57: DESIGN CHOICE] -/
def Dev.ethSend (d : Dev) (p q : Nat) (ws : List CaskWord) : Dev :=
  let bs := ws.flatMap fun w => leBytes 8 w.data
  let len := ofLeBytes (bs.take 2)
  if d.ethMax p q < len + 4 || decide (bs.length < len + 8) || ws.any fun w => w.psn then d.bump C.NET_CNT p q 3
  else
    let frame := (bs.drop 8).take len
    let d := d.putEth p q { d.eth p q with sent := frame ++ leBytes 4 (crc32 frame) }
    if bit (ofLeBytes ((bs.drop 2).take 1)) 0 then d.txtsPush p q (ofLeBytes ((bs.drop 4).take 2)) else d

/-- Moves words of the host transmit item from its cask to the port, up to END. -/
def Dev.ethFill (d : Dev) (p q : Nat) : Nat → Dev
  | 0 => d
  | fuel + 1 =>
    match d.caskGet p (d.rd F.NET_PORT_CFG_TXCASK p q) .ok with
    | (.nothing, d) => d
    | (.flushed, d) => (d.putEth p q { d.eth p q with item := [] }).ethFill p q fuel
    | (.word w _, d) =>
      let d := d.putEth p q { d.eth p q with item := (d.eth p q).item ++ [w] }
      if w.fin then d else d.ethFill p q fuel

/-- Whether the item a port has read is whole. -/
def Dev.ethWhole (d : Dev) (p q : Nat) : Bool := match (d.eth p q).item.getLast? with | some w => w.fin | none => false

/-- In a gap between scheduled packets the next host item is sent. -/
def execEthHostTx (p : Pipe) (q : Fin 6) (s : State) : Out := run s fun d =>
  if d.ethUp p q then
    let k := d.rd F.NET_PORT_CFG_TXCASK p q
    let d := if d.ethWhole p q then d else d.ethFill p q ((d.cask p k).words.length + 1)
    if d.ethWhole p q then (d.putEth p q { d.eth p q with item := [] }).ethSend p q (d.eth p q).item else d
  else d

/-- A read of `NET_TXTS_LO` pops the oldest entry, or returns VALID clear (R502). -/
def Dev.txtsPop (d : Dev) (p q : Nat) : Dev :=
  let x := d.eth p q
  match x.txts with
  | [] =>
    let d := ((d.wr F.NET_TXTS_LO_VALID 0 p q).wr F.NET_TXTS_LO_FRAC 0 p q).wr F.NET_TXTS_LO_ID 0 p q
    { d with rdata := 0 }
  | (ts, fr, id) :: rest =>
    let d := d.putEth p q { x with txts := rest, lost := if rest.isEmpty then false else x.lost }
    let d := ((d.wr F.NET_TXTS_LO_VALID 1 p q).wr F.NET_TXTS_LO_FRAC fr p q).wr F.NET_TXTS_LO_ID id p q
    { d.wr F.NET_TXTS_HI_TS32 ts p q with rdata := 2 ^ 31 + fr * 2 ^ 16 + id }

def execTxtsPop (p : Pipe) (q : Fin 6) (s : State) : Out := bar2Read .NET p s fun d => d.txtsPop p q

end Sys2Proof.Machine
end

