-- ==== Sys2Proof/Machine/Live.lean ====
section
/-!
DEFINITION. The live outputs (chapter 15, R505 to R515): the frame buffer, slots, packets, and the SDI raster. A slot command
stands for the instant at which the pipe's time reaches the slot's launch time.
-/
namespace Sys2Proof.Machine

/-- Live output `i` of pipe `p`. -/
def Dev.liveOut (d : Dev) (p i : Nat) : LiveOut := Tab.get {} (d.pipe p).live i

/-- The device with live output `i` of pipe `p` changed. -/
def Dev.putLive (d : Dev) (p i : Nat) (x : LiveOut) : Dev := d.updPipe p fun s => { s with live := Tab.set {} s.live i x }

/-- Whether the output's input comes over the Hub assembly path (class 0x4 of `CASK_BIND`). -/
def Dev.liveAsm (d : Dev) (p i : Nat) : Bool := d.rd F.CASK_BIND_PROD p (d.rd F.NET_LO_CFG_ICASK p i) / 2 ^ 12 == 4

/-- Whether the output has been stopped: shed by pace (R83), or fed by the Hub in autonomous run (R44). [log entry 58: DESIGN CHOICE] -/
def Dev.liveStopped (d : Dev) (p i : Nat) : Bool :=
  ((d.pipe p).pace.lives.any fun x => x.1 == i) || (d.inArun p && d.liveAsm p i)

/-- The plan offset in ns: `CAMID × STAGGER` with PLAN set, unless the launch offset then reaches the frame period (R509). -/
def Dev.livePlan (d : Dev) (p i : Nat) : Nat × Bool :=
  let plan := if d.on F.NET_LO_TIME_PLAN p i then d.rd F.TIME_PLAN_CAMID * d.rd F.TIME_PLAN_STAGGER else 0
  let tr := 1000 * d.rd F.NET_LO_TIME_TROFF p i
  let bad := decide (d.rd F.NET_LO_RATE_DEN p i * 1000000000 ≤ (tr + plan) * d.rd F.NET_LO_RATE_NUM p i)
  (if bad then 0 else plan, bad)

/-- The slot of a frame with presentation time `t` ns (R506). -/
def Dev.liveSlotOf (d : Dev) (p i t : Nat) : Nat :=
  frameFrom (d.rd F.NET_LO_RATE_NUM p i) (d.rd F.NET_LO_RATE_DEN p i) (t + 1000 * d.rd F.NET_LO_TIME_LAT p i)

/-- The syndrome of LIVE_SKIP and LIVE_SLIP (R516). -/
def liveSyn (i kind : Nat) : Nat := pack [(4, i), (2, kind)]

/-- A frame of output `i` is skipped (kind 0) or truncated (kind 1): it counts, joins an open yield of the output's object or
begins a rank-2 yield, and raises LIVE_SKIP (R508, R510). [log entry 58: DESIGN CHOICE] -/
def Dev.liveSkip (d : Dev) (p i kind : Nat) : Dev :=
  let d := d.bump C.NET_LO_CNT p i kind
  let asm := d.liveAsm p i
  let same := fun (y : Yield) => y.yrank == 2 && y.object == i && (y.origin == p || (asm && y.origin == 4))
  let d :=
    if d.yielding same then d.yieldGrow same
    else
      let (res, cause) := if asm then (5, 8) else if d.on F.DRC_HOT_STAT_HOLD p then (1, 3) else (2, 2)
      d.yieldBegin { origin := p, yrank := 2, krank := 1, res := res, object := i, cause := cause, began := 0, amount := 1 }
  d.raiseP p 70 (liveSyn i kind)

/-- A slip of output `i`: two frames fell in one slot, or none did (R506). -/
def Dev.liveSlip (d : Dev) (p i : Nat) : Dev := (d.bump C.NET_LO_CNT p i 2).raiseP p 71 i

/-- The buffer slots of an output. -/
def Dev.liveSlots (d : Dev) (p i : Nat) : Nat := d.rd F.NET_LO_BUF_NBUF p i + 1

/-- The first buffer slot that holds no frame. -/
def LiveOut.freeSlot (x : LiveOut) (n : Nat) : Option Nat :=
  (List.range n).find? fun k => !(x.frames.any fun f => f.at_ == k) && !(x.cur.any fun c => c.1.at_ == k)

/-- A 4:2:2 10-bit pixel group of five bytes from the two tokens of a pixel pair, (Y′0, Cb) and (Y′1, Cr). -/
def pgroup (a b : Nat) : List Byte :=
  let v := ((slice a 25 16 * 1024 + slice a 9 0) * 1024 + slice b 25 16) * 1024 + slice b 9 0
  (leBytes 5 v).reverse

/-- The pixel groups of a token frame given as little-endian words. -/
def pgroups : List Nat → List Byte
  | a :: b :: t => pgroup a b ++ pgroups t
  | _ => []

/-- The little-endian 32-bit words of bytes. -/
def words32 : List Byte → List Nat
  | a :: b :: c :: e :: t => ofLeBytes [a, b, c, e] :: words32 t
  | _ => []

/-- The media time and the bytes sent of an input item, by the essence (R505, R506): a token frame's tokens as pixel groups with
the FS time `t`; a coded unit's payload with its PTS; an audio item's samples as L16 or L24 with its TIME. -/
def Dev.liveItem (d : Dev) (p i t : Nat) (bs : List Byte) : Nat × List Byte :=
  let ess := if d.on F.NET_LO_CFG_KIND p i then 0 else d.rd F.NET_LO_CFG_ESS p i
  let ptp := fun (o : Nat) => ofLeBytes ((bs.drop o).take 4) + 1000000000 * ofLeBytes ((bs.drop (o + 4)).take 6)
  if ess = 0 then (t, pgroups (words32 bs))
  else if ess = 2 then
    let n := ofLeBytes ((bs.drop 10).take 2) * ofLeBytes ((bs.drop 12).take 1)
    let keep := if d.on F.NET_LO_PKT_L24 p i then 3 else 2
    (ptp 0, ((words32 (bs.drop 16)).take n).flatMap fun w => ((leBytes 4 w).reverse).take keep)
  else (ptp 0x0C, (bs.drop 32).take (ofLeBytes ((bs.drop 0x18).take 4)))

/-- The lines of an output's input frame: an item each where it sends token frames, otherwise the frame is one item (R370, R505). -/
def Dev.liveLines (d : Dev) (p i : Nat) : Nat :=
  if d.on F.NET_LO_CFG_KIND p i then 2160 else if d.rd F.NET_LO_CFG_ESS p i = 0 then d.rd F.NET_LO_SIZE_HEIGHT p i else 1

/-- A word of the output's input cask: with the first the time of the latest FS of VC TVC is noted (R506); a flush drops the frame begun. -/
def Dev.liveWordIn (d : Dev) (p i : Nat) (w : Delivered) : Dev :=
  let x := d.liveOut p i
  match w with
  | .nothing => d
  | .flushed => d.putLive p i { x with item := [] }
  | .word w _ =>
    let x := if x.item.isEmpty then { x with fs := nsOf (d.vc p (d.rd F.NET_LO_CFG_TVC p i)).fsNow } else x
    d.putLive p i { x with item := x.item ++ [w] }

/-- Whether the input frame is whole. -/
def Dev.liveWhole (d : Dev) (p i : Nat) : Bool :=
  let n := d.liveLines p i
  decide (0 < n) && ((d.liveOut p i).item.filter fun w => w.fin).length == n

/-- Moves words from the input cask to the output, up to the end of a frame. [log entry 58: DESIGN CHOICE] -/
def Dev.liveFill (d : Dev) (p i : Nat) : Nat → List Flaw → Dev
  | 0, _ => d
  | n + 1, flaws =>
    if d.liveWhole p i then d
    else
      let r := d.caskGet p (d.rd F.NET_LO_CFG_ICASK p i) (flaws.headD .ok)
      match r.1 with
      | .nothing => d
      | w => (r.2.liveWordIn p i w).liveFill p i n flaws.tail

/-- Whether the output takes frames: its context runs. -/
def Dev.liveOn (d : Dev) (p i : Nat) : Bool := d.on F.NET_LO_CFG_EN p i && d.rd F.NET_LO_RATE_NUM p i != 0

/-- A whole frame has come in: it goes to its slot's place in the buffer, or is discarded (R506, R507); one with a poisoned word is not whole
and counts as skipped. [log entry 58: DESIGN CHOICE] -/
def Dev.liveInput (d : Dev) (p i t : Nat) (bs : List Byte) (psn : Bool) : Dev :=
  if !d.liveOn p i then d
  else if d.liveStopped p i then d.yieldGrow fun y => y.origin == p && y.yrank == 2 && y.object == i
  else
    let (pts, data) := d.liveItem p i t bs
    let n := d.liveSlotOf p i pts
    let x := d.liveOut p i
    if x.missed.contains n then d.putLive p i { x with missed := x.missed.filter fun m => m != n }
    else if psn || (x.last.any fun l => decide (n ≤ l)) then d.liveSkip p i 0
    else if d.rd F.NET_LO_BUF_FSZ p i * 2 ^ 20 < data.length then (d.wr F.NET_LO_STAT_OVERSIZE 1 p i).liveSkip p i 0
    else
      let twice := x.frames.any fun f => f.slot == n
      let d := if twice then d.liveSlip p i else d
      let x := { x with frames := x.frames.filter fun f => f.slot != n }
      let full := (x.freeSlot (d.liveSlots p i)).isNone
      let oldest := (x.frames.map (·.slot)).foldl min n
      let d := if full then (d.putLive p i x).liveSkip p i 0 else d
      let x := if full then { x with frames := x.frames.filter fun f => f.slot != oldest } else x
      match x.freeSlot (d.liveSlots p i) with
      | none => d.putLive p i x
      | some k =>
        let a := (d.rd F.NET_LO_BUF_BASE p i + k * d.rd F.NET_LO_BUF_FSZ p i) * 2 ^ 20
        (d.dramWrite p 0x2C a data).putLive p i
          { x with frames := x.frames ++ [⟨n, data.length, k, pts⟩] }

/-- The output reads its input cask; a frame that is whole goes to the buffer. -/
def execLiveFrameInput (p : Pipe) (o : Fin 16) (n : Nat) (flaws : List Flaw) (s : State) : Out :=
  runWork s fun d =>
    if !d.liveOn p o then d
    else
      let d := d.liveFill p o n flaws
      if d.liveWhole p o then
        let x := d.liveOut p o
        (d.putLive p o { x with item := [] }).liveInput p o x.fs (x.item.flatMap fun w => leBytes 8 w.data) (x.item.any fun w => w.psn)
      else d

/-! ### Slots and packets (R508 to R511) -/

/-- The template of an output, 64 bytes in wire order (R511). -/
def Dev.liveTemplate (d : Dev) (p i : Nat) : List Byte := (List.range 16).flatMap fun k => leBytes 4 (d.rd F.NET_LO_HDR_BYTES p i k)

/-- Where the template's IPv4 header begins. -/
def Dev.liveIp (d : Dev) (p i : Nat) : Nat := if d.on F.NET_LO_PKT_VLAN p i then 18 else 14

/-- Whether the template is IPv4 without options. -/
def Dev.liveTplOk (d : Dev) (p i : Nat) : Bool :=
  let t := d.liveTemplate p i
  let o := d.liveIp p i
  beAt t (o - 2) 2 == 0x0800 && beAt t o 1 == 0x45

/-- The plan and template errors shown (R509, R511). -/
def Dev.liveCheck (d : Dev) (p i : Nat) : Dev :=
  (d.wrb F.NET_LO_STAT_PLANERR (d.livePlan p i).2 p i).wrb F.NET_LO_STAT_TPLERR (!d.on F.NET_LO_CFG_KIND p i && !d.liveTplOk p i) p i

/-- `l` with `r` written over it from `o`. -/
def overlay (l : List Byte) (o : Nat) (r : List Byte) : List Byte := l.take o ++ r ++ l.drop (o + r.length)

/-- The ones' complement sum of the 16-bit words of bytes. -/
def sum16 : List Byte → Nat
  | a :: b :: t => let v := 256 * a.toNat + b.toNat + sum16 t; v % 65536 + v / 65536
  | _ => 0

/-- The RFC 4175 line headers of `n` bytes of pixel groups from byte `o` of a frame with rows of `row` bytes: length, line and offset in
pixels of each row's part, the continuation bit on all but the last. -/
def rowHeaders (row : Nat) : Nat → Nat → Nat → List Byte
  | 0, _, _ => []
  | fuel + 1, o, n =>
    let k := min n (row - o % row)
    beBytes 2 k ++ beBytes 2 (o / row % 2 ^ 15) ++ beBytes 2 (o % row / 5 * 2 % 2 ^ 15 + (if k < n then 2 ^ 15 else 0)) ++
      (if k < n then rowHeaders row fuel (o + k) (n - k) else [])

/-- The payload header of packet `k` of `n` (R505): RFC 4175 with the extended sequence number, RFC 9134 in codestream mode (sequential,
the packet counter and its overflow counter), none for audio. -/
def Dev.liveHeader (d : Dev) (p i n k : Nat) (data : List Byte) : List Byte :=
  let x := d.liveOut p i
  match d.rd F.NET_LO_CFG_ESS p i with
  | 0 =>
    let row := d.rd F.NET_LO_SIZE_WIDTH p i / 2 * 5
    let heads := if row = 0 then [] else rowHeaders row (data.length / row + 2) (k * d.rd F.NET_LO_PKT_PKTBYTES p i) data.length
    beBytes 2 (x.seq / 65536) ++ heads
  | 1 =>
    let last := if k + 1 = n then 2 ^ 29 else 0
    beBytes 4 (2 ^ 31 + last + (x.count + 31) % 32 * 2 ^ 22 + k / 2048 % 2048 * 2 ^ 11 + k % 2048)
  | 2 => []
  | ess => Config.rtpHeader ess k n data

/-- A packet: the template with the fields of R511, the payload header of the essence and the bytes it carries. [log entry 58: DESIGN CHOICE] -/
def Dev.livePacket (d : Dev) (p i : Nat) (f : LiveFrame) (n k : Nat) (data : List Byte) : List Byte :=
  let x := d.liveOut p i
  let ess := d.rd F.NET_LO_CFG_ESS p i
  let body := d.liveHeader p i n k data ++ data
  let o := d.liveIp p i
  let ts := if ess = 2 then f.pts * 48000 / 1000000000
    else fap (d.rd F.NET_LO_RATE_NUM p i) (d.rd F.NET_LO_RATE_DEN p i) f.slot * 90000 / 1000000000
  let t := (d.liveTemplate p i).take (o + 40)
  let t := overlay t (o + 2) (beBytes 2 (40 + body.length))
  let t := overlay t (o + 4) (beBytes 4 0x00004000)
  let t := overlay t (o + 10) (beBytes 2 0)
  let t := overlay t (o + 10) (beBytes 2 (65535 - sum16 ((t.drop o).take 20)))
  let t := overlay t (o + 24) (beBytes 4 ((20 + body.length) * 65536))
  let m := beAt t (o + 29) 1 % 128 + (if ess != 2 && k + 1 == n then 128 else 0)
  overlay t (o + 29) (beBytes 1 m ++ beBytes 2 (x.seq % 65536) ++ beBytes 4 (ts % 2 ^ 32)) ++ body

/-- The launch time of packet `k` of `n` of a frame, in ns; an audio packet's follows its media time (R509). -/
def Dev.liveLaunchAt (d : Dev) (p i : Nat) (f : LiveFrame) (n k : Nat) : Nat :=
  let num := d.rd F.NET_LO_RATE_NUM p i
  let den := d.rd F.NET_LO_RATE_DEN p i
  let off := 1000 * d.rd F.NET_LO_TIME_TROFF p i + (d.livePlan p i).1
  if d.rd F.NET_LO_CFG_ESS p i = 2 then f.pts + off else fap num den f.slot + off + k * den * 1000000000 / (num * n)

/-- The packets a frame makes (R509): one for an audio item. -/
def Dev.livePackets (d : Dev) (p i size : Nat) : Nat :=
  if d.rd F.NET_LO_CFG_ESS p i = 2 then 1 else max 1 (ceilDiv size (max 1 (d.rd F.NET_LO_PKT_PKTBYTES p i)))

/-- Whether the output's port or lane is READY. -/
def Dev.liveReady (d : Dev) (p i : Nat) : Bool :=
  if d.on F.NET_LO_CFG_KIND p i then d.roleState p (1 + d.rd F.SDI_LO_CFG_LANE p i) == 4
  else d.ethUp p (d.rd F.NET_LO_CFG_PORT p i)

/-- The frames of slots before `n` were passed by a step of time: they are skipped (R510). -/
def Dev.livePass (d : Dev) (p i n : Nat) : Dev :=
  let x := d.liveOut p i
  let gone := x.frames.filter fun f => decide (f.slot < n)
  let d := d.putLive p i { x with frames := x.frames.filter fun f => !decide (f.slot < n) }
  d.each gone fun d _ => d.liveSkip p i 0

/-- A slot that no whole frame reached: skipped where a frame of it is under way, otherwise a slip (R506, R508). -/
def Dev.liveMiss (d : Dev) (p i n : Nat) (due : Bool) : Dev :=
  if due then
    (d.putLive p i { d.liveOut p i with missed := (d.liveOut p i).missed ++ [n] }).liveSkip p i 0
  else d.liveSlip p i

/-- A slot's launch time arrives: its frame begins to be sent if it is whole in the buffer. `due` says whether a frame of the
slot is under way from its source. [log entry 58: DESIGN CHOICE] -/
def Dev.liveSlot (d : Dev) (p i : Nat) (due : Bool) : Dev :=
  if !d.liveOn p i || d.on F.NET_LO_CFG_KIND p i then d
  else
    let d := d.liveCheck p i
    let off := 1000 * d.rd F.NET_LO_TIME_TROFF p i + (d.livePlan p i).1
    let n := frameAt (d.rd F.NET_LO_RATE_NUM p i) (d.rd F.NET_LO_RATE_DEN p i) (nsOf (d.pipeTime p) - off)
    let ok := d.liveReady p i && !d.liveStopped p i && !d.on F.NET_LO_STAT_TPLERR p i
    let d := d.wrb F.NET_LO_STAT_RUN ok p i
    if (d.liveOut p i).last.any fun l => decide (n ≤ l) then d
    else
      let d := d.livePass p i n
      let x := { d.liveOut p i with last := some n }
      if !ok then d.putLive p i { x with frames := x.frames.filter fun f => f.slot != n }
      else
        match x.frames.find? fun f => f.slot == n with
        | some f =>
          (d.putLive p i { x with frames := x.frames.filter fun f => f.slot != n, cur := some (f, d.livePackets p i f.size, 0), count := x.count + 1 }).wr
            F.NET_LO_STAT_SLOT (n % 2 ^ 16) p i
        | none => (d.putLive p i x).liveMiss p i n due

def execLiveSlot (p : Pipe) (o : Fin 16) (due : Bool) (s : State) : Out := runWork s fun d => d.liveSlot p o due

/-- A packet's launch time comes: it goes out, read from the buffer as source 0x2C, or the rest of its frame is dropped where
its data is missing (`ready` false) or poisoned (R509, R510). Before its launch time nothing goes out. -/
def Dev.livePacketLaunch (d : Dev) (p i : Nat) (ready : Bool) : Dev :=
  let x := d.liveOut p i
  match x.cur with
  | none => d
  | some (f, n, k) =>
    if d.on F.NET_LO_CFG_KIND p i || decide (nsOf (d.pipeTime p) < d.liveLaunchAt p i f n k) then d
    else if !ready || !d.liveReady p i then (d.putLive p i { x with cur := none }).liveSkip p i 1
    else
      let pb := if d.rd F.NET_LO_CFG_ESS p i = 2 then f.size else d.rd F.NET_LO_PKT_PKTBYTES p i
      let a := (d.rd F.NET_LO_BUF_BASE p i + f.at_ * d.rd F.NET_LO_BUF_FSZ p i) * 2 ^ 20 + k * pb
      let (data, bad, d) := d.dramRead p 0x2C a (min pb (f.size - k * pb))
      if bad then (d.putLive p i { x with cur := none }).liveSkip p i 1 else
      let pkt := d.livePacket p i f n k data
      d.putLive p i { x with
        pkt := pkt, seq := (x.seq + 1) % 2 ^ 32, cur := if k + 1 < n then some (f, n, k + 1) else none }

def execLivePacketLaunch (p : Pipe) (o : Fin 16) (ready : Bool) (s : State) : Out :=
  runWork s fun d => d.livePacketLaunch p o ready

/-! ### SDI (R513 to R515) -/

/-- The ST 352 payload identifier of a format: 2160-line 12G single link, progressive, its picture rate, 4:2:2 Y′CbCr and 10 bits (R513).
[log entry 58: PRESUMED] -/
def Dev.sdiVpid (d : Dev) (p i : Nat) : List Nat :=
  let rate := match d.rd F.SDI_LO_CFG_FMT p i with | 0 => 0x9 | 1 => 0xA | _ => 0xB
  [0xCE, 0xC0 + rate, Config.sdiColour p i % 4 * 16, 0x01]

/-- Whether a phase of line 1 exceeds one line period (R515). -/
def Dev.sdiLate (d : Dev) (p i : Nat) (phase : Int) : Bool :=
  decide (d.rd F.NET_LO_RATE_DEN p i * 1000000000 < phase.natAbs * (d.rd F.NET_LO_RATE_NUM p i * 2250))

/-- What the raster that starts carries: a line more or less where the phase has passed a line period (R515), its identifier, and with ATC
the label of timecode generator TCG (R513). -/
def Dev.sdiRuns (d : Dev) (p i : Nat) (late : Bool) (phase : Int) : Dev :=
  let x := d.liveOut p i
  let lines := if late then (if phase < 0 then 2251 else 2249) else 2250
  let tc := if d.on F.SDI_LO_CFG_ATC p i then some (d.fieldWord ⟨.TIME_TC_VAL, 0, d.rd F.SDI_LO_CFG_TCG p i, 0⟩) else none
  d.putLive p i { x with raster := ⟨x.cur.map fun c => c.1.slot, lines, d.sdiVpid p i, tc⟩ }

/-- A raster starts: the slot's frame is shown if it is whole, otherwise the frame last shown is repeated; `phase` is the phase of
line 1 in ns. A phase beyond a line period changes the next blanking by a line (R514, R515). -/
def Dev.sdiShow (d : Dev) (p i : Nat) (due : Bool) (phase : Int) : Dev :=
    let ready := d.liveReady p i
    let d := ((d.wr F.SDI_LO_STAT_STATE (if ready then 2 else 1) p i).wrb F.NET_LO_STAT_RUN (ready && !d.liveStopped p i) p i)
    if !ready then d
    else
      let num := d.rd F.NET_LO_RATE_NUM p i
      let den := d.rd F.NET_LO_RATE_DEN p i
      let n := frameAt num den (nsOf (d.pipeTime p) - d.rd F.SDI_LO_CFG_OFF p i)
      let d := d.wr F.SDI_LO_STAT_PHASE (satCode 16 phase) p i
      let d := if d.sdiLate p i phase then d.raiseP p 72 (pack [(4, i), (1, b2n (phase < 0))]) else d
      if (d.liveOut p i).last.any fun l => decide (n ≤ l) then d.bump C.NET_LO_CNT p i 3
      else
        let d := d.livePass p i n
        let x := { d.liveOut p i with last := some n }
        if d.liveStopped p i then (d.putLive p i { x with frames := x.frames.filter fun f => f.slot != n }).bump C.NET_LO_CNT p i 3
        else
          match x.frames.find? fun f => f.slot == n with
          | some f =>
            (d.putLive p i { x with frames := x.frames.filter fun f => f.slot != n, cur := some (f, 1, 1) }).wr
              F.NET_LO_STAT_SLOT (n % 2 ^ 16) p i
          | none => ((d.putLive p i x).bump C.NET_LO_CNT p i 3).liveMiss p i n due

/-- A raster starts: the frame it shows is chosen, and where the lane is READY it runs (R513 to R515). -/
def Dev.sdiRaster (d : Dev) (p i : Nat) (due : Bool) (phase : Int) : Dev :=
  if !d.liveOn p i || !d.on F.NET_LO_CFG_KIND p i then d
  else if d.liveReady p i then (d.sdiShow p i due phase).sdiRuns p i (d.sdiLate p i phase) phase
  else d.sdiShow p i due phase

def execSdiRasterStart (p : Pipe) (o : Fin 16) (due : Bool) (phase : Int) (s : State) : Out :=
  runWork s fun d => d.sdiRaster p o due phase

/-- The live outputs of a pipe after a load or switch of their contexts. -/
def Dev.liveLoaded (d : Dev) (p i : Nat) : Dev :=
  let d := d.putLive p i {}
  if d.liveOn p i then
    let d := d.liveCheck p i
    if d.on F.NET_LO_CFG_KIND p i then d.wr F.SDI_LO_STAT_STATE (if d.liveReady p i then 2 else 1) p i else d
  else ((d.wr F.NET_LO_STAT_RUN 0 p i).wr F.SDI_LO_STAT_STATE 0 p i)

end Sys2Proof.Machine
end

