-- ==== Sys2Proof/Machine/Cellar.lean ====
section
/-!
DEFINITION. A Cellar slice (chapters 12 and 13): its cartridge's namespaces and take directory, range locks, the write buffer and
the commit of pieces, Cellar streams, the take area, and the levels of the record buffer.
-/
namespace Sys2Proof.Machine

/-- Slice `p`. -/
def Dev.cel (d : Dev) (p : Nat) : Slice := (d.pipe p).cel

/-- The device with slice `p` changed. -/
def Dev.updCel (d : Dev) (p : Nat) (f : Slice → Slice) : Dev := d.updPipe p fun s => { s with cel := f s.cel }

/-- The device with slice `p`'s cartridge changed. -/
def Dev.updCart (d : Dev) (p : Nat) (f : Cart → Cart) : Dev := d.updCel p fun c => { c with cart := f c.cart }

/-- The device with the NVMe controller changed. -/
def Dev.updNvme (d : Dev) (f : Nvme → Nvme) : Dev := d.updHub fun h => { h with nvme := f h.nvme }

/-- The state of port `p` (R439): 0 EMPTY, 1 SETTLE, 2 INIT, 3 REPLAY, 4 MOUNTED, 5 LOCKED, 6 FAULT, 7 ABSENT. -/
def Dev.cartState (d : Dev) (p : Nat) : Nat := d.rd F.CELP_CART_STAT_STATE p

/-- Namespace `k` of slice `p`'s cartridge. -/
def Dev.nsEnt (d : Dev) (p k : Nat) : NsEnt := Tab.get {} (d.cel p).cart.nss k

/-- The device with namespace `k` of slice `p`'s cartridge changed. -/
def Dev.updNs (d : Dev) (p k : Nat) (f : NsEnt → NsEnt) : Dev :=
  d.updCart p fun c => { c with nss := Tab.set {} c.nss k (f (Tab.get {} c.nss k)) }

/-- The slice and place of a namespace (R407). -/
def nsPlace (nsid : Nat) : Nat × Nat := ((nsid - 1) / 16, (nsid - 1) % 16)

/-- The LBAs of an extent of the take namespace (R446). -/
def extentLbas : Nat := 262144

/-- The LBAs of the take directory (R451). -/
def dirLbas : Nat := 16384

/-- The take namespace of slice `p`, where `CELP_CART_CFG.TAKENS` names one that is on the cartridge and large enough (R453). -/
def Dev.takeNs (d : Dev) (p : Nat) : Option Nat :=
  let m := d.rd F.CELP_CART_CFG_TAKENS p
  if m = 0 then none
  else
    let (q, k) := nsPlace m
    if q = p ∧ dirLbas + extentLbas ≤ (d.nsEnt p k).size then some k else none

/-! ### The take directory (R451, R452) -/

/-- Ten bytes of a PTP time. -/
def timeBytes (t : Nat × Nat) : List Byte := leBytes 4 t.1 ++ leBytes 6 t.2

/-- The 256 bytes of a directory entry. -/
def DirEnt_bytes (e : DirEnt) : List Byte :=
  let ext := fun (x : Nat × Nat) => leBytes 8 x.1 ++ leBytes 4 x.2 ++ leBytes 4 0
  let exts := (e.exts.take 11).flatMap ext
  let b := leBytes 4 0x44545850 ++ leBytes 1 e.kind ++ leBytes 1 (2 ^ e.state) ++ leBytes 1 e.src ++ leBytes 1 e.group ++
    leBytes 4 e.take ++ leBytes 1 e.tileinfo ++ leBytes 3 0 ++ timeBytes e.tstart ++ leBytes 2 0 ++ timeBytes e.tend ++
    leBytes 2 0 ++ leBytes 4 e.firstSeq ++ leBytes 4 e.lastSeq ++ leBytes 8 e.bytes ++ leBytes 4 e.next ++ leBytes 4 0 ++
    exts ++ leBytes (176 - exts.length) 0 ++ leBytes 12 0
  b ++ leBytes 4 (crc32c b)

/-- Writes entry `i` of the directory. -/
def Dev.dirPut (d : Dev) (p i : Nat) (e : DirEnt) : Dev :=
  let d := d.updCart p fun c => { c with dir := Tab.put c.dir i e }
  match d.takeNs p with
  | some k => d.updNs p k fun n => { n with data := n.data.writes (4096 * (i / 16) + 256 * (i % 16)) (DirEnt_bytes e) }
  | none => d

/-- The first entry that is free: one more than the entries in use reach, or a gap among them. -/
def dirFree (t : Tab DirEnt) : Nat := ((List.range (t.length + 1)).find? fun i => (Tab.find t i).isNone).getD t.length

/-- The extents in use in the take area, by number. -/
def usedExtents (t : Tab DirEnt) : List Nat := t.flatMap fun x => x.2.exts.map fun e => (e.1 - dirLbas) / extentLbas

/-- A free extent of the take area, by its first LBA (R453). -/
def Dev.freeExtent (d : Dev) (p : Nat) : Option Nat :=
  match d.takeNs p with
  | none => none
  | some k =>
    let used := usedExtents (d.cel p).cart.dir
    let n := ((d.nsEnt p k).size - dirLbas) / extentLbas
    match (List.range (min n (used.length + 1))).find? fun e => !used.contains e with
    | some e => some (dirLbas + e * extentLbas)
    | none => none

/-- Whether a cartridge has work that gives it no space for a take: a format or a sanitise (R453). -/
def Dev.celWork (d : Dev) (p : Nat) : Bool :=
  (Tab.find d.hub.nvme.san p).isSome || (d.cel p).cart.nss.any fun x => x.2.fmt != 0

/-! ### Range locks (R408 to R411) -/

/-- Whether two ranges overlap. -/
def overlaps (a n b m : Nat) : Bool := decide (a < b + m) && decide (b < a + n)

/-- Whether two entries conflict (R409). -/
def LockEnt.conflicts (x y : LockEnt) : Bool := x.ns == y.ns && (x.wr || y.wr) && overlaps x.lba x.n y.lba y.n

/-- Shows the entries in use, with the peak; `extra` counts an internal write's entry that comes and goes in one step. -/
def Dev.showLocks (d : Dev) (p extra : Nat) : Dev :=
  let n := (d.cel p).locks.length
  let d := d.wr F.CELP_LOCK_STAT_USED (min 1024 n) p
  if d.rd F.CELP_LOCK_STAT_PEAK p < n + extra then d.wr F.CELP_LOCK_STAT_PEAK (min 1024 (n + extra)) p else d

/-- The entries of a list, in admission order, up to those of a command. -/
def locksBefore (q cid : Nat) : List LockEnt → List LockEnt
  | [] => []
  | x :: t => if x.q = q ∧ x.cid = cid then [] else x :: locksBefore q cid t

/-- Whether every entry of a command can be granted: no earlier entry conflicts with one (R409). -/
def Dev.lockFree (d : Dev) (p q cid : Nat) : Bool :=
  let ls := (d.cel p).locks
  let mine := ls.filter fun x => x.q == q && x.cid == cid
  (locksBefore q cid ls).all fun x => mine.all fun y => !x.conflicts y

/-- The entries that tenants hold (R411). -/
def tenantLocks (ls : List LockEnt) : Nat := (ls.filter fun x => x.q != 0).length

/-- A command's entries are released (R410). -/
def Dev.lockRelease (d : Dev) (p q cid : Nat) : Dev :=
  let d := d.updCel p fun c =>
    let ls := c.locks.filter fun x => !(x.q == q && x.cid == cid)
    { c with locks := ls, full := c.full && decide (896 ≤ tenantLocks ls) }
  d.showLocks p 0

/-- Whether an internal write of a range must wait: an entry of a tenant conflicts with it, or every entry is in use (R408,
R409, R411). -/
def Dev.lockBlocks (d : Dev) (p ns lba n : Nat) : Bool :=
  (d.cel p).locks.any fun x => x.ns == ns && overlaps x.lba x.n lba n

/-! ### The write buffer and commits (R412 to R414) -/

/-- The pieces of a range: cut at LBA multiples of 128. A command of at most 128 LBAs is one piece whatever its alignment. -/
def cutPieces (lba n : Nat) : List (Nat × Nat) :=
  if n ≤ 128 then [(lba, n)]
  else
    let last := (lba + n - 1) / 128
    (List.range (last + 1 - lba / 128)).map fun i =>
      let a := max lba (128 * (lba / 128 + i))
      let e := min (lba + n) (128 * (lba / 128 + i + 1))
      (a, e - a)

/-- A journal record is written. -/
def Dev.journal (d : Dev) (p : Nat) : Dev :=
  d.updCel p fun c => { c with jbytes := c.jbytes + 64, cart := { c.cart with jseq := c.cart.jseq + 1 } }

/-- A piece enters the write buffer of slice `p`. -/
def Dev.pieceAdd (d : Dev) (p : Nat) (x : Piece) : Dev :=
  let id := d.hub.nvme.pid
  (d.updCel p fun c => { c with pieces := c.pieces ++ [{ x with id := id }] }).updNvme fun n => { n with pid := id + 1 }

/-- What the LBAs of a namespace read: what is on flash, with the pieces of the write buffer over it (R410). -/
def Dev.lbaRead (d : Dev) (p k lba n : Nat) : List Byte :=
  let m := (d.cel p).pieces.foldl (fun m x =>
    if x.ns = k ∧ x.ready then m.writes (4096 * x.lba) (match x.data with | some bs => bs | none => List.replicate (4096 * x.n) 0) else m) (d.nsEnt p k).data
  m.reads (4096 * lba) (4096 * n)

/-- A piece's data reaches flash with its journal record. -/
def Dev.pieceStore (d : Dev) (p : Nat) (x : Piece) : Dev :=
  let bs := match x.data with | some bs => bs | none => List.replicate (4096 * x.n) 0
  (d.updNs p x.ns fun n => { n with data := n.data.writes (4096 * x.lba) bs }).journal p

/-- The write buffer is empty, and no append of a stream holds an entry. -/
def Dev.piecesGone (d : Dev) (p : Nat) : Dev :=
  (d.updCel p fun c => { c with pieces := [], locks := c.locks.filter fun x => x.q != 0 }).showLocks p 0

/-- Every piece of the write buffer whose data is there is committed, in order, with nobody waiting (R449). -/
def Dev.pieceFlush (d : Dev) (p : Nat) : Dev :=
  let ps := (d.cel p).pieces.filter fun x => x.ready
  let d := d.piecesGone p
  ps.foldl (fun d x => d.pieceStore p x) d

/-! ### Cellar streams (R431, R432, R455) -/

/-- Stream slot `k` of slice `p`. -/
def Dev.strm (d : Dev) (p k : Nat) : Strm := Tab.get {} (d.cel p).strms k

/-- The device with a stream slot replaced. -/
def Dev.putStrm (d : Dev) (p k : Nat) (x : Strm) : Dev := d.updCel p fun c => { c with strms := Tab.set {} c.strms k x }

/-- The handle of slot `k`. -/
def Strm.handle (x : Strm) (k : Nat) : Nat := 64 * x.gen + k

/-- The open stream a handle names. -/
def Dev.strmOf (d : Dev) (p h : Nat) : Option Nat :=
  let k := h % 64
  let x := d.strm p k
  if x.open_ && x.handle k == h then some k else none

/-- Whether a range of a namespace lies in an open stream's range, in the directory, or in an extent of an open take (R431, R453). -/
def Dev.strmOverlap (d : Dev) (p ns lba n : Nat) : Bool :=
  (d.cel p).strms.any fun x => x.2.open_ && x.2.ns == ns && overlaps x.2.slba x.2.nlb lba n

/-- A command of the stream registers ends with a RESULT. -/
def Dev.strmEnd (d : Dev) (p r : Nat) : Dev :=
  ((d.wr F.CELP_STRM_CMD_GO 0 p).wr F.CELP_STRM_RES_BUSY 0 p).wr F.CELP_STRM_RES_RESULT r p

/-- The take open on pipe `p`: that of its open queues. -/
def Dev.openTake (d : Dev) (p : Nat) : Option Nat :=
  (((List.range 8).filter fun t => d.tqState p t == 2).map fun t => (d.tq p t).take).getLast?

/-- OPEN: the checks in the order of their RESULT codes, then a handle (R431, R455). -/
def Dev.strmOpen (d : Dev) (p : Nat) : Dev :=
  match (List.range 64).find? fun k => !(d.strm p k).open_ with
  | none => d.strmEnd p 1
  | some k =>
    let nsid := d.rd F.CELP_STRM_NS_NSID p
    let (q, ns) := nsPlace nsid
    let e := d.nsEnt p ns
    let slba := d.rd64 F.CELP_STRM_SLBA_LO_SLBA_LO F.CELP_STRM_SLBA_HI_SLBA_HI p
    let nlb := d.rd F.CELP_STRM_NLB_NLB p
    let tag := d.on F.CELP_STRM_TAG_TAKE p
    if nsid = 0 ∨ q ≠ p ∨ e.size = 0 ∨ d.cartState p ≠ 4 then d.strmEnd p 2
    else if nlb = 0 ∨ e.size < slba + nlb ∨ (tag ∧ d.openTake p = none) then d.strmEnd p 3
    else if d.strmOverlap p ns slba nlb || d.takeNs p == some ns then d.strmEnd p 4
    else
      let old := d.strm p k
      let gen := if old.gen < 1023 then old.gen + 1 else 1
      let x : Strm := { gen := gen, open_ := true, ns := ns, slba := slba, nlb := nlb, rank5 := d.on F.CELP_STRM_NS_RANK5 p }
      let d := d.journal p
      let i := dirFree (d.cel p).cart.dir
      let ent : DirEnt :=
        { kind := 1, state := 0, src := 16 * p, group := d.rd F.CELP_STRM_TAG_GROUP p, take := (d.openTake p).getD 0,
          tileinfo := d.rd F.CELP_STRM_TAG_TILEINFO p, exts := [(slba, nlb)] }
      let d := if tag then d.dirPut p i ent else d
      let d := d.putStrm p k { x with entry := if tag then some i else none }
      (d.wr F.CELP_STRM_RES_HANDLE (x.handle k) p).strmEnd p 0

/-- A full 4 KiB unit of a stream goes to the write buffer as a piece and takes an entry (R408, R431). -/
def Dev.strmUnit (d : Dev) (p k : Nat) (bs : List Byte) : Dev :=
  let x := d.strm p k
  let lba := x.slba + x.pos / 4096
  let id := d.hub.nvme.pid
  let d := (d.pieceAdd p { id := 0, ns := x.ns, lba := lba, n := 1, data := some bs, tenant := false }).putStrm p k
    { x with pos := x.pos + 4096, part := [] }
  let d := (d.updCel p fun c => { c with locks := c.locks ++ [⟨x.ns, lba, 1, true, 0, id⟩] }).showLocks p 0
  if d.lockFree p 0 id then d else d.bump C.CELP_LOCKWAIT_CNT p

/-- Cuts gathered bytes into units. -/
def Dev.strmUnits (d : Dev) (p k : Nat) : Nat → List Byte → Dev
  | 0, bs => d.putStrm p k { d.strm p k with part := bs }
  | fuel + 1, bs =>
    if bs.length < 4096 then d.putStrm p k { d.strm p k with part := bs }
    else (d.strmUnit p k (bs.take 4096)).strmUnits p k fuel (bs.drop 4096)

/-- The stream of slot `k` closes: its last partial unit is padded with zeros and committed; a tagged stream's entry is written
CLOSED (R432, R451). -/
def Dev.strmClose (d : Dev) (p k : Nat) : Dev :=
  let x := d.strm p k
  let d := if x.part.isEmpty then d else d.strmUnit p k (x.part ++ List.replicate (4096 - x.part.length) 0)
  let d := match x.entry with
    | some i =>
      match Tab.find (d.cel p).cart.dir i with
      | some e => d.dirPut p i { e with state := 1, bytes := x.pos + x.part.length }
      | none => d
    | none => d
  (d.putStrm p k { d.strm p k with open_ := false, part := [], entry := none }).journal p

/-- Bytes are appended to the stream a handle names: false where there is none or the append would pass its range, which closes
the stream (R432). -/
def Dev.strmAppend (d : Dev) (p h : Nat) (bs : List Byte) : Bool × Dev :=
  match d.strmOf p h with
  | none => (false, d)
  | some k =>
    let x := d.strm p k
    let all := x.part ++ bs
    if 4096 * x.nlb < x.pos + all.length then (false, d.strmClose p k)
    else (true, d.strmUnits p k (all.length / 4096 + 1) all)

/-- Every stream of slice `p` closes. -/
def Dev.strmCloseAll (d : Dev) (p : Nat) : Dev :=
  (List.range 64).foldl (fun d k => if (d.strm p k).open_ then d.strmClose p k else d) d

/-- A write of `CELP_STRM_CMD`: discarded while GO reads 1. -/
def Dev.strmCmd (d : Dev) (p w : Nat) : Dev :=
  if d.on F.CELP_STRM_CMD_GO p then d
  else
    let d := (d.wr F.CELP_STRM_CMD_OP (slice w 30 28) p).wr F.CELP_STRM_CMD_HANDLE (slice w 15 0) p
    if !bit w 31 then d
    else
      match slice w 30 28 with
      | 1 => d.strmOpen p
      | 2 =>
        match d.strmOf p (slice w 15 0) with
        | some k => (d.strmClose p k).strmEnd p 0
        | none => d.strmEnd p 5
      | _ => d.strmEnd p 5

def execStreamOpen (p : Pipe) (s : State) : Out := bar2 .CELP p s fun d => d.strmCmd p 0x90000000

def execStreamClose (p : Pipe) (handle : BitVec 16) (s : State) : Out := bar2 .CELP p s fun d => d.strmCmd p (0xA0000000 + handle.toNat)

/-! ### The levels of the record buffer (R426) -/

/-- The levels in force, for ranks 3, 4 and 5: the programmed ones, or the reset values where they are not in order. -/
def Dev.rbLevels (d : Dev) (p : Nat) : Nat × Nat × Nat :=
  let l3 := d.rd F.CELP_RB_LVL_L3 p
  let l4 := d.rd F.CELP_RB_LVL_L4 p
  let l5 := d.rd F.CELP_RB_LVL_L5 p
  if 0 < l5 ∧ l5 < l4 ∧ l4 < l3 then (l3, l4, l5) else (0x80, 0x40, 0x20)

/-- The level of rank `r`. [log entry 52: DESIGN CHOICE] -/
def Dev.rbLevel (d : Dev) (p r : Nat) : Nat :=
  let (l3, l4, l5) := d.rbLevels p
  if r = 3 then l3 else if r = 4 then l4 else l5

/-- The field that shows the action of rank `r`. -/
def rbHold (r : Nat) : Fld := if r = 3 then F.CELP_RB_STAT_HOLD3 else if r = 4 then F.CELP_RB_STAT_HOLD4 else F.CELP_RB_STAT_HOLD5

/-- Whether the record buffer is above the level of rank `r`. -/
def Dev.rbAbove (d : Dev) (p r : Nat) : Bool := decide (d.rbLevel p r * d.recbufSize p < 256 * d.recbufUsed p)

/-- The rank-5 claimants on slice `p` in the order in which the arbiter takes them (R36, R40): sanitise or format, the RANK5 streams, the
rebuild. -/
def Dev.rank5On (d : Dev) (p : Nat) : List Nat :=
  (if d.celWork p then [3 * 2 ^ 12] else []) ++
    (((d.cel p).strms.filter fun x => x.2.open_ && x.2.rank5).map fun x => 5 * 2 ^ 12 + x.1) ++
    (if (d.cel p).rebuild.isEmpty then [] else [7 * 2 ^ 12])

/-- The lowest queue with a command on slice `p` that has not ended. -/
def Dev.tenantOn (d : Dev) (p : Nat) : Option Nat :=
  ((d.hub.nvme.cmds.filter fun c => c.q != 0 && (nsPlace (c.dw.getD 1 0)).1 == p).map fun c => c.q).foldl
    (fun m q => match m with | none => some q | some x => some (min x q)) none

/-- The occupancy crosses the level of rank `r` (3, 4 or 5) upward: the action comes into force, with a yield of the claimants
that lose capacity for ranks 4 and 5; each rank-5 claimant counts one (R40). -/
def Dev.rbCross (d : Dev) (p r : Nat) : Dev :=
  if !d.rbAbove p r || d.on (rbHold r) p then d
  else
    let d := d.wr (rbHold r) 1 p
    let held := d.rank5On p
    let obj := if r = 5 then held.head? else if r = 4 then d.tenantOn p else none
    match obj with
    | some o =>
      d.yieldBegin { origin := p, yrank := r, krank := 1, res := 0, object := o, cause := 1, began := 0,
                     amount := if r = 5 then held.length else 0 }
    | none => d

def execRbLevelCrossing (p : Pipe) (level : Fin 3) (s : State) : Out := run s fun d => d.rbCross p (3 + level)

/-- 100 ms after the occupancy fell below the level, the action of rank `r` ends. -/
def Dev.rbRestore (d : Dev) (p r : Nat) : Dev :=
  if d.rbAbove p r || !d.on (rbHold r) p then d
  else (d.wr (rbHold r) 0 p).yieldEnd fun y => y.origin == p && y.yrank == r && y.res == 0 && y.cause == 1

def execRbLevelRestore (p : Pipe) (level : Fin 3) (s : State) : Out := run s fun d => d.rbRestore p (3 + level)

/-! ### Takes: start, stop and end (R428) -/

/-- The queues a START names, in ascending pipe and VC: none for a VC without an enabled queue. -/
def Dev.takeNamed (d : Dev) (pipes vcs : Nat) : List (Nat × Nat × Option Nat) :=
  (bitsOf pipes 4).flatMap fun p => (bitsOf vcs 16).map fun v => (p, v, d.tqOfVc p v)

/-- Whether pipe `p` is in RUN and has reported an FS of virtual channel `v` in the last second. -/
def Dev.vcLive (d : Dev) (p v : Nat) : Bool :=
  d.rd F.PCTL_STAT_STATE p == 3 && decide (0 < (d.vc p v).seen) && decide (cSince (d.vc p v).fsC d.c ≤ 256000000000)

/-- The largest take number recorded on any mounted cartridge. -/
def Dev.lastTake (d : Dev) : Nat :=
  ((List.range 4).map fun p =>
    if d.cartState p = 4 then ((d.cel p).cart.dir.map fun x => x.2.take).foldl max 0 else 0).foldl max 0

/-- Whether pipe `p`'s cartridge can take a frame: a valid take namespace with a free extent, and no format or sanitise (R453). -/
def Dev.takeSpace (d : Dev) (p : Nat) : Bool := (d.freeExtent p).isSome && !d.celWork p

/-- The checks of R428 in the order of its list (a namespace without space after a cartridge that is not mounted): the RESULT, 0
where all pass, and the pipes that fail. [log entry 53: DEDUCED] -/
def Dev.takeCheck (d : Dev) (named : List (Nat × Nat × Option Nat)) : Nat × Nat :=
  let mask := fun (f : Nat × Nat × Option Nat → Bool) => pipeMask ((named.filter f).map fun x => (x.1, 0))
  let m1 := mask fun (p, v, _) => !d.vcLive p v
  let m2 := mask fun (_, _, t) => t.isNone
  let m3 := mask fun (p, _, _) => d.cartState p != 4
  let m6 := mask fun (p, _, _) => !d.takeSpace p
  let m4 := mask fun (p, _, t) => match t with | some t => (d.tq p t).take != 0 || 2 ≤ d.tqState p t | none => false
  if m1 ≠ 0 then (1, m1) else if m2 ≠ 0 then (2, m2) else if m3 ≠ 0 then (3, m3) else if m6 ≠ 0 then (6, m6)
  else if m4 ≠ 0 then (4, m4) else (0, 0)

/-- The take number after `last` (R428). -/
def nextTake (last : Nat) : Nat := if (last + 1) % 2 ^ 32 = 0 then 1 else (last + 1) % 2 ^ 32

/-- The named queues wait for their first frame of take `num` from `t0` on. -/
def Dev.takeBegin (d : Dev) (named : List (Nat × Nat × Option Nat)) (num t0 : Nat) (devs : List Nat) (ordered : Bool) : Dev :=
  let qs := named.map fun (p, _, t) => (p, t.getD 0)
  let d := qs.foldl (fun d (p, t) => d.putTq p t { take := num, tstart := t0 }) d
  d.updHub fun h => { h with takes := h.takes ++ [{ num := num, qs := qs, tstart := t0, devs := devs, ordered := ordered }] }

/-- The latest FS that the named pipes have reported and the period of the slowest named virtual channel, in 2⁻⁸ ns (R428). -/
def Dev.takeTimes (d : Dev) (named : List (Nat × Nat × Option Nat)) : Nat × Nat :=
  ((named.map fun x => d.latestFs x.1).foldl max 0,
   (named.map fun (p, v, _) => (d.vc p v).fsNow - (d.vc p v).fsPrev).foldl max 0)

/-- How a board take is divided: 0 not at all, 1 spatial, 2 interleave (`QDL_TAKE_CFG`, which reads 0 in a follower). -/
def Dev.boardMode (d : Dev) : Nat :=
  if d.isFollower then 0 else match d.rd F.QDL_TAKE_CFG_MODE with | 1 => 1 | 2 => 2 | _ => 0

/-- The devices named in DEVS. -/
def Dev.boardDevs (d : Dev) : List Nat := bitsOf (d.rd F.QDL_TAKE_CFG_DEVS) 4

/-- What device `x` answers to a START of the board: the leader's own check, PIPE_NOT_RUN for a follower that is not UP or has not
reported, otherwise its report (R545). [log entry 60: DEDUCED] -/
def Dev.boardAnswer (d : Dev) (named : List (Nat × Nat × Option Nat)) (b : BoardStart) (x : Nat) : BoardReport :=
  if x = 0 then
    { dev := 0, result := (d.takeCheck named).1, lastTake := d.lastTake, fs := (d.takeTimes named).1, period := (d.takeTimes named).2 }
  else
    match b.reports.find? fun r => r.dev.val == x with
    | some r => if d.qdlUp (x - 1) then r else { r with result := 1 }
    | none => { dev := Fin.ofNat 4 x, result := 1 }

/-- The margin of T_start after the latest FS (R428, R545). [log entry 53: DEDUCED] -/
def Dev.boardMargin (d : Dev) (period : Nat) : Nat :=
  let per := d.rd F.QDL_ILV_PER_PER
  if d.boardMode = 2 ∧ per ≠ 0 then (5 * d.boardDevs.length + 1) * per / 2 else 5 * period / 2

/-- A START of a board take on the leader (R545). [log entry 60: DEDUCED] -/
def Dev.boardStart (d : Dev) (named : List (Nat × Nat × Option Nat)) (b : BoardStart) : Dev :=
  let ans := d.boardDevs.map fun x => (x, d.boardAnswer named b x)
  let d := (d.wr F.QDL_TAKE_STAT_FDEV 0).wr F.QDL_TAKE_STAT_ENDED 0
  match [1, 2, 3, 6, 4].find? fun r => ans.any fun a => a.2.result == r with
  | some r =>
    let bad := ans.filter fun a => a.2.result == r
    (d.wr F.QDL_TAKE_STAT_FDEV (bad.map fun a => 2 ^ a.1).sum).takeCmdEnd r
      (if bad.any fun a => a.1 == 0 then (d.takeCheck named).2 else 0)
  | none =>
    let num := nextTake ((ans.map fun a => a.2.lastTake).foldl max 0)
    let fs := (ans.map fun a => a.2.fs).foldl max 0
    let t0 := fs + d.boardMargin ((ans.map fun a => a.2.period).foldl max 0)
    let own := if ans.any fun a => a.1 == 0 then named else []
    let d := d.takeBegin own num t0 (d.boardDevs.filter fun x => x != 0) false
    ((d.updHub fun h => { h with qdl := { h.qdl with frames := [], skewed := none } }).wr F.CEL_TAKE_NUM_TAKE num).wr
      F.CEL_TAKE_STAT_BUSY 1

/-- START: the checks of R428, then the take's number, T_start and its queues. -/
def Dev.takeStartNow (d : Dev) (pipes vcs : Nat) (b : BoardStart) : Dev :=
  let named := d.takeNamed pipes vcs
  if named.isEmpty then d.takeCmdEnd 7 0
  else if d.boardMode ≠ 0 then d.boardStart named b
  else
    let (r, m) := d.takeCheck named
    if r ≠ 0 then d.takeCmdEnd r m
    else
      let num := nextTake d.lastTake
      let (fs, period) := d.takeTimes named
      ((d.takeBegin named num (fs + 5 * period / 2) [] false).wr F.CEL_TAKE_NUM_TAKE num).wr F.CEL_TAKE_STAT_BUSY 1

/-- The leader's START in a follower: it opens the take with the number and T_start given, where its checks pass (R545). -/
def Dev.takeOrdered (d : Dev) (pipes vcs num t0 : Nat) : Dev :=
  let named := d.takeNamed pipes vcs
  if (d.takeCheck named).1 ≠ 0 then d else d.takeBegin named num t0 [] true

/-- Whether a START that names these pipes is held: a record path among them waits for its switch after GO (R209). -/
def Dev.startHolds (d : Dev) (pipes : Nat) : Bool := (bitsOf pipes 4).any fun p => d.hub.cuvl.recPend.contains p

/-- A START, requested by the host or ordered by the leader: held where R209 says so. [log entry 53: DEDUCED] -/
def Dev.takeStart (d : Dev) (pipes vcs : Nat) (b : BoardStart) : Dev :=
  if d.startHolds pipes then d.updHub fun h => { h with startHeld := some (pipes, vcs, b) }
  else
    match b.order with
    | some (num, t0) => d.takeOrdered pipes vcs num t0
    | none => d.takeStartNow pipes vcs b

/-- A START that was held runs once no record path of its pipes waits any more (R209). -/
def Dev.startRelease (d : Dev) : Dev :=
  match d.hub.startHeld with
  | some (pipes, vcs, b) =>
    if d.startHolds pipes then d else (d.updHub fun h => { h with startHeld := none }).takeStart pipes vcs b
  | none => d

/-- STOP of a take: it ends, and the command ends when its streams are on their cartridges. -/
def Dev.takeStop (d : Dev) (num : Nat) : Dev :=
  if d.hub.takes.any fun r => r.num == num && !r.ended then
    ((d.takeEnd num).updTake num fun r => { r with stopping := true }).wr F.CEL_TAKE_STAT_BUSY 1
  else d.takeCmdEnd 5 0

/-- The items of a stream without the frames whose FE came after PTP time `t` (in 2⁻⁸ ns); `g` is the frame being read. -/
def keepFrames (t : Nat) : List RecItem → List RecItem → List RecItem
  | g, [] => g
  | g, .fe e :: l => if t < 256 * (e.2 * 1000000000 + e.1) then keepFrames t [] l else g ++ [.fe e] ++ keepFrames t [] l
  | g, .fs a b c :: l => g ++ keepFrames t [.fs a b c] l
  | [], x :: l => x :: keepFrames t [] l
  | y :: g, x :: l => keepFrames t ((y :: g) ++ [x]) l

/-- An end of take `num` that the leader accepted at PTP time `t`, delivered to a follower: it closes at the last frame whose FE
came before (R548). Frames that are committed stay. -/
def Dev.takeEndAt (d : Dev) (num t : Nat) : Dev :=
  let cut := fun (d : Dev) (x : Nat × Nat) =>
    let (p, k) := x
    let q := d.tq p k
    if q.take != num then d
    else
      let d := d.putTq p k { q with recs := q.recs.filter fun u => !u.frame || 256 * (u.fe.2 * 1000000000 + u.fe.1) ≤ t }
      (d.putEnc p q.vc { d.enc p q.vc with items := keepFrames t [] (d.enc p q.vc).items }).showLag p k
  match d.hub.takes.find? fun r => r.num == num && !r.ended with
  | some r => (r.qs.foldl cut d).takeEnd num
  | none => d

/-- A write of `CEL_TAKE_CMD`: discarded while GO reads 1. -/
def Dev.takeCmd (d : Dev) (w : Nat) (b : BoardStart := {}) : Dev :=
  if d.on F.CEL_TAKE_CMD_GO then d
  else
    let d := ((d.wr F.CEL_TAKE_CMD_OP (slice w 30 28)).wr F.CEL_TAKE_CMD_PIPES (slice w 27 24)).wr F.CEL_TAKE_CMD_VCS (slice w 15 0)
    if !bit w 31 then d
    else
      let d := d.wr F.CEL_TAKE_CMD_GO 1
      match slice w 30 28 with
      | 1 => d.takeStart (slice w 27 24) (slice w 15 0) { b with order := none }
      | 2 => d.takeStop (d.rd F.CEL_TAKE_ARG_TAKE)
      | _ => d.takeCmdEnd 7 0

/-- A START: written to `CEL_TAKE_CMD`, or ordered by the leader. -/
def execTakeStart (pipes : BitVec 4) (vcs : BitVec 16) (board : BoardStart) (s : State) : Out := bar2 .CEL 0 s fun d =>
  match board.order with
  | some _ => if d.isFollower then d.takeStart pipes.toNat vcs.toNat board else d
  | none => d.takeCmd (0x90000000 + pipes.toNat * 2 ^ 24 + vcs.toNat) board

/-- A STOP: written to `CEL_TAKE_CMD`, or, with its take and the time it was accepted, delivered by the leader. -/
def execTakeStop (order : Option (Word × Nat)) (s : State) : Out := bar2 .CEL 0 s fun d =>
  match order with
  | some (num, t) => if d.isFollower then d.takeEndAt num.toNat t else d
  | none => d.takeCmd 0xA0000000

/-- One second after T_start a START whose queues have not all opened fails; those that opened close (R428). -/
def execTakeStartTimeout (s : State) : Out := run s fun d =>
  match d.hub.takes.find? fun r => r.starting with
  | some r => d.takeEnd r.num
  | none => d

/-- Every stream of an ended take is on its cartridge: CEL_TAKE_CLOSED is raised, and a STOP ends with RESULT OK. -/
def Dev.takeClosed (d : Dev) (num : Nat) : Dev :=
  match d.hub.takes.find? fun r => r.num == num && r.ended with
  | some r =>
    if (r.qs.any fun (p, t) => (d.tq p t).take == num) || r.devs.any fun x => !r.devClosed.contains x then d
    else
      let d := (d.updHub fun h => { h with takes := h.takes.filter fun x => x.num != num }).raise 542 (num % 2 ^ 16)
      if r.stopping then d.takeCmdEnd 0 0 else d
  | none => d

def execTakeClosed (num : Word) (s : State) : Out := run s fun d => d.takeClosed num.toNat

/-! ### The take area (R429, R451 to R453, R717) -/

/-- The directory entry of queue `t` as its stream stands, in state `st` (0 OPEN, 1 CLOSED, 3 RESET). -/
def Dev.tqEntry (d : Dev) (p t st : Nat) : DirEnt :=
  let q := d.tq p t
  { kind := 0, state := st, src := q.vc + 16 * p, take := q.take,
    tstart := (ptpNs q.tstart, ptpSec q.tstart), tend := if st = 0 then (0, 0) else q.lastFe
    lastSeq := q.lastSeq, bytes := q.bytes, exts := q.extents.map fun a => (a, extentLbas) }

/-- Writes the entry of queue `t`, over one or more directory entries of 11 extents (R451). -/
def Dev.tqDir (d : Dev) (p t st : Nat) : Dev :=
  let e := d.tqEntry p t st
  let put := fun (d : Dev) (i : Nat) (c : Nat) (last : Nat) =>
    let x := { e with kind := if c = 0 then 0 else 2, exts := (e.exts.drop (11 * c)).take 11, next := last }
    d.dirPut p i x
  match (d.tq p t).entry with
  | none => d
  | some i =>
    let conts := (e.exts.length - 1) / 11
    let chain := (List.range (conts + 1)).foldl (fun (acc : List Nat × Tab DirEnt) _ =>
      let k := match acc.1 with
        | [] => i
        | j :: _ => match Tab.find (d.cel p).cart.dir j with
          | some y => if y.next != 0 then y.next else dirFree acc.2
          | none => dirFree acc.2
      (k :: acc.1, Tab.put acc.2 k e)) (([] : List Nat), (d.cel p).cart.dir)
    let ids := chain.1.reverse
    (List.range ids.length).foldl (fun d c => put d (ids.getD c i) c (ids.getD (c + 1) 0)) d

/-- The bytes of a stream laid out over its extents, from stream offset `o`. -/
def Dev.tqWrite (d : Dev) (p k : Nat) (exts : List Nat) (o : Nat) (bs : List Byte) : Dev :=
  let size := 4096 * extentLbas
  let e := o / size
  let here := size - o % size
  let put := fun (d : Dev) (e o : Nat) (bs : List Byte) =>
    d.updNs p k fun n => { n with data := n.data.writes (4096 * exts.getD e 0 + o) bs }
  let d := put d e (o % size) (bs.take here)
  if bs.length ≤ here then d else put d (e + 1) 0 (bs.drop here)

/-- A stream finds no extent for its next unit: it ends with the frames it holds, its pipe's other streams of the take close at
the same frame, and the take ends in the other pipes (R717). [log entry 53: DEDUCED] -/
def Dev.takeAreaFull (d : Dev) (p t : Nat) : Dev :=
  let q := d.tq p t
  let cut := fun (d : Dev) (x : Nat) =>
    let y := d.tq p x
    if y.take = q.take ∧ q.take ≠ 0 then
      let d := d.takeCloseQueue p x
      if x = t then ((d.putTq p x { d.tq p x with full := true, recs := [] }).showLag p x).showOcc p
      else d.takeLimit p x (if q.past.isEmpty then 0 else q.lastSeq + 1)
    else d
  let d := (List.range 8).foldl cut (d.arunEnd p 2)
  if d.hub.lost || d.inArun p then d else d.takeEnd q.take

/-- Extents for `n` more of a stream's parts, each entered in the directory; none where the take area has too few (R452, R717). -/
def Dev.takeGrow (p t : Nat) : Nat → Dev → List Nat → Option (Dev × List Nat)
  | 0, d, es => some (d, es)
  | n + 1, d, es =>
    let i := (d.tq p t).entry.getD (dirFree (d.cel p).cart.dir)
    match d.freeExtent p with
    | none => none
    | some a =>
      let d := if es.isEmpty then d.journal p else d
      let d := d.putTq p t { d.tq p t with extents := es ++ [a], entry := some i }
      Dev.takeGrow p t n (d.tqDir p t 0) (es ++ [a])

/-- The committed position of queue `t`'s stream in the journal (R452). -/
def Dev.tqJournal (d : Dev) (p t : Nat) : Dev :=
  let q := d.tq p t
  match q.entry with
  | some i => (d.journal p).updCart p fun c => { c with units := Tab.put c.units i (q.lastSeq, q.lastFe, q.bytes) }
  | none => d.journal p

/-- A unit and its journal record reach flash (R429): a new extent is taken where it needs one, the first unit writes the directory entry, a
committed frame is reported to the Hub. `k` is the take namespace. -/
def Dev.unitCommit (d : Dev) (p t k : Nat) (u : TakeUnit) (bs : List Byte) : Dev :=
  let q := d.tq p t
  let bs := pad8 bs
  match Dev.takeGrow p t (ceilDiv (q.bytes + bs.length) (4096 * extentLbas) - q.extents.length) d q.extents with
  | none => d.takeAreaFull p t
  | some (d', exts) =>
    let a := exts.getD (q.bytes / (4096 * extentLbas)) 0 + q.bytes % (4096 * extentLbas) / 4096
    if d.lockBlocks p k a (bs.length / 4096 + 1) || decide (1024 ≤ (d.cel p).locks.length) then
      if q.waited then d else (d.putTq p t { q with waited := true }).bump C.CELP_LOCKWAIT_CNT p
    else
      let x := d'.tq p t
      let d := d'.tqWrite p k exts q.bytes bs
      let x := { x with recs := x.recs.drop 1, bytes := q.bytes + bs.length, waited := false }
      let x := if u.frame then
          { x with lastSeq := u.seq, lastFe := u.fe, past := ((q.lastSeq, q.lastFe, q.bytes) :: q.past).take 4 } else x
      let d := ((d.putTq p t x).tqJournal p t).showLocks p 1
      ((d.showLag p t).showOcc p).when (u.frame && d.inArun p) fun d => d.satInc F.PCTL_ARUN_FRAMES_FRAMES 1 p

/-- What a read of 32-byte word `w` of a unit finds at the devices (R478, R479). -/
def Dev.recbufFlaw (d : Dev) (p w : Nat) (u : TakeUnit) (flaw : DramFlaw) : Dev :=
  let words := u.place.flatMap fun x => (List.range (x.2 / 32)).map fun i => x.1 / 32 + i
  match words[w]?, flaw with
  | some x, .multiple k s => d.updDram p fun m => { m with bad := Tab.put m.bad x (k, s) }
  | some _, .single => d.bump C.DRC_CORR_CNT p
  | _, _ => d

/-- The oldest unit of queue `t` in the record buffer is read and committed; `flaw` is what the read of its 32-byte word `w` finds. A frame
that reads poisoned becomes a DAMAGED record, another unit that does is dropped (R32, R113, R481). -/
def Dev.takeCommit (d : Dev) (p t w : Nat) (flaw : DramFlaw) : Dev :=
  let q := d.tq p t
  match q.recs, d.takeNs p with
  | u :: rest, some k =>
    if d.cartState p ≠ 4 ∨ q.take = 0 then d
    else
      let (bs, bad, d) := (d.recbufFlaw p w u flaw).recbufRead p u.place
      if !bad then d.unitCommit p t k u (bs.take (u.size - u.rest.length) ++ u.rest)
      else if u.frame && !u.void then
        let g := d.gapOfUnit p t 4 u
        d.unitCommit p t k g.1 g.2
      else ((d.putTq p t { q with recs := rest }).showLag p t).showOcc p
  | _, _ => d

def execTakeUnitCommit (p : Pipe) (x : TakeRead) (s : State) : Out := run s fun d => d.takeCommit p x.t x.w x.flaw

/-- Every closing queue of pipe `p` whose stream is on the cartridge writes its entry CLOSED and is idle (R45, R452). -/
def Dev.takeCloseCommitted (d : Dev) (p : Nat) : Dev :=
  (List.range 8).foldl (fun d t =>
    if d.tqState p t = 3 ∧ d.tqDrained p t then ((d.tqDir p t 1).when (d.tq p t).entry.isSome fun d => d.journal p).tqIdle p t else d) d

def execTakeCloseCommitted (p : Pipe) (s : State) : Out := run s fun d => d.takeCloseCommitted p

/-- A queue is reset: its cask is flushed; what is not committed is discarded and the stream ends as reset (R430). A take whose last queue is
reset has ended. -/
def Dev.takeReset (d : Dev) (p t : Nat) : Dev :=
  let d := d.caskFlush p (120 + t)
  if (d.tq p t).take = 0 then d
  else
    let q := d.tq p t
    let d := (d.tqDir p t 3).when q.entry.isSome fun d => d.journal p
    let d := if 2 ≤ d.tqState p t then d.putEnc p q.vc { d.enc p q.vc with live := false, items := [], writing := false } else d
    let d := ((((d.tqIdle p t).showOcc p).showTake p).raiseP p 59 t)
    d.updTake q.take fun r => if r.qs.all fun x => (d.tq x.1 x.2).take != q.take then { r with ended := true } else r

def execTakeQueueReset (p : Pipe) (t : Fin 8) (s : State) : Out := bar2 .CELP p s fun d => d.takeReset p t

end Sys2Proof.Machine
end

