-- ==== Sys2Proof/Machine/Cart.lean ====
section
/-!
DEFINITION. The cartridge ports (chapter 13, R437 to R450, R716): insertion, mount, removal, re-seat, eject, the rebuild, and
the end of an unmount. CRTn_DET_N and CRTn_PWR_EN are `Slice.det` (low) and `Slice.pwr` (high).
-/
namespace Sys2Proof.Machine

/-- Port `p` enters a state; CART_STATE is raised for MOUNTED, LOCKED, FAULT, ABSENT and EMPTY (R462). -/
def Dev.cartEnter (d : Dev) (p st : Nat) : Dev :=
  let d := d.wr F.CELP_CART_STAT_STATE st p
  if st = 1 ∨ st = 2 ∨ st = 3 then d
  else d.raiseP p 61 (st * 2 ^ 28 + d.rd F.CELP_CART_STAT_OUTCOME p * 2 ^ 25)

/-- Whether pipe `p` runs, so that its port works (R716). -/
def Dev.pipeRuns (d : Dev) (p : Nat) : Bool := d.rd F.PCTL_STAT_STATE p == 3 || d.inArun p

/-- The retry timer's period in 10 ms steps: 0x64 for a TIMER of 0. -/
def Dev.cartTimer (d : Dev) (p : Nat) : Nat :=
  let v := d.rd F.CELP_CART_CFG_TIMER p
  if v = 0 then 0x64 else v

/-- The retry timer's count at this instant, in 10 ms. -/
def Dev.cartElapsed (d : Dev) (p : Nat) : Nat := min 0xFFFF (cSince (d.cel p).t0 d.c / 2560000000)

/-- What `ELAPSED` reads: it counts in ABSENT and in a SETTLE from it, and otherwise holds what was written. -/
def Dev.cartShowElapsed (d : Dev) (p : Nat) : Dev :=
  if d.cartState p = 7 ∨ (d.cartState p = 1 ∧ (d.cel p).reseat) then d.wr F.CELP_CART_STAT_ELAPSED (d.cartElapsed p) p else d

/-- A seated cartridge begins to settle in EMPTY or ABSENT (R439). [log entry 54: DEDUCED] -/
def Dev.cartSettle (d : Dev) (p : Nat) : Dev :=
  if (d.cel p).det && !(d.cel p).ejected && d.pipeRuns p && (d.cartState p == 0 || d.cartState p == 7) then
    let from_ := d.cartState p == 7
    ((d.updCel p fun c => { c with reseat := from_, newcart := false, inited := false, found := none }).wr
      F.CELP_CART_STAT_CAUSE 0 p).cartEnter p 1
  else d

def execCartDetectLow (p : Pipe) (s : State) : Out := run s fun d => (d.updCel p fun c => { c with det := true }).cartSettle p

/-- 50 ms of low level: the supply is switched on; the retry timer stops (R440, R444). -/
def Dev.cartSettled (d : Dev) (p : Nat) : Dev :=
  if d.cartState p = 1 then
    let d := d.cartShowElapsed p
    (d.updCel p fun c => { c with pwr := true, inited := false }).cartEnter p 2
  else d

def execCartSettled (p : Pipe) (s : State) : Out := run s fun d => d.cartSettled p

/-- An outcome is reported; it ends the episode of a retry timer. [log entry 54: DEDUCED] -/
def Dev.cartOutcome (d : Dev) (p o : Nat) : Dev :=
  (d.wr F.CELP_CART_STAT_OUTCOME o p).wr F.CELP_CART_STAT_ELAPSED 0 p

/-- The take stream of pipe `p` ends at its last committed frame and CART_LOST is raised; the take ends in the other pipes (R445). In
autonomous run only the pipe's own stripe ends. The write buffer and the mapping cache are discarded. -/
def Dev.cartLose (d : Dev) (p outcome : Nat) : Dev :=
  let qs := (List.range 8).filter fun t => 2 ≤ d.tqState p t
  let nums := d.takesOf p
  let d := (d.piecesGone p).updCel p fun c => { c with rebuild := [] }
  let d := (d.wr F.CELP_RBLD_STAT_ACTIVE 0 p).wr F.CELP_RBLD_STAT_LEFT 0 p
  if qs.isEmpty then d
  else
    let d := qs.foldl (fun d t =>
      let q := d.tq p t
      let d := d.putEnc p q.vc { d.enc p q.vc with live := false, items := [], writing := false }
      (d.caskFlush p (120 + t)).tqIdle p t) (d.arunEnd p 6)
    let d := ((d.showOcc p).showTake p).raiseP p 62 (outcome * 2 ^ 25)
    if d.hub.lost || d.inArun p then d else nums.foldl (fun d n => d.takeEnd n) d

/-- The retry timer expires (R444, R445). [log entry 54: DEDUCED] -/
def Dev.cartExpire (d : Dev) (p : Nat) : Dev :=
  if d.cartState p = 7 then (((d.cartOutcome p 5).cartLose p 5).updCel p fun c => { c with reseat := false }).cartEnter p 0
  else if d.cartState p = 1 ∧ (d.cel p).reseat then ((d.cartOutcome p 5).cartLose p 5).updCel p fun c => { c with reseat := false }
  else d

def execCartRetryExpiry (p : Pipe) (s : State) : Out := run s fun d => d.cartExpire p

/-- A mount ends in FAULT with its cause (R438, R442, R443, R447). [log entry 54: DEDUCED] -/
def Dev.cartFault (d : Dev) (p cause : Nat) (blank : Bool := false) : Dev :=
  let d := d.cartOutcome p (if (d.cel p).newcart then 4 else if blank then 2 else 1)
  ((d.updCel p fun c => { c with reseat := false, found := none }).wr F.CELP_CART_STAT_CAUSE cause p).cartEnter p 6

/-- A cartridge that settled in ABSENT is not the same: the outcome is NEWCART, and the mount goes on (R444). -/
def Dev.cartNew (d : Dev) (p : Nat) : Dev :=
  ((d.cartOutcome p 4).cartLose p 4).updCel p fun c => { c with reseat := false, newcart := true }

/-- Whether a cartridge is within the limits of R438: 1 to 16 targets on each of four channels, the same number on every one, and at most
16 TiB of user capacity. -/
def cartGeometry (targets : List Nat) (ucap : Nat) : Bool :=
  let n := targets.headD 0
  targets.length == 4 && targets.all (· == n) && decide (1 ≤ n) && decide (n ≤ 16) && decide (4096 * ucap ≤ 16 * 2 ^ 40)

/-- The parameter pages are read: a cartridge outside the limits of R438 ends in FAULT with cause GEOMETRY. [log entry 54: DEDUCED] -/
def Dev.cartInit (d : Dev) (p : Nat) (targets : List Nat) (ucap : Nat) : Dev :=
  if d.cartState p = 2 ∧ !(d.cel p).inited then
    if cartGeometry targets ucap then d.updCel p fun c => { c with inited := true, ntgt := targets.headD 0 }
    else (if (d.cel p).reseat then d.cartNew p else d).cartFault p 1
  else d

def execCartInitDone (p : Pipe) (g : CartPages) (s : State) : Out := run s fun d => d.cartInit p g.targets g.ucap

/-! ### The identity block (R442) -/

/-- A little-endian field of `n` bytes at an offset of a block. -/
def blockField (b : List Byte) (o n : Nat) : Nat := ofLeBytes ((b.drop o).take n)

/-- Whether a copy of the identity block is good: its ICRC over the bytes before it. -/
def idGood (b : List Byte) : Bool := b.length == 4096 && crc32c (b.take 0xFFC) == blockField b 0xFFC 4 && blockField b 0 4 == 0x44495843

/-- The copy in use: a good one, of two the one with the larger MGEN. -/
def idPick (copies : List (List Byte)) : Option (List Byte) :=
  copies.foldl (fun m b =>
    if !idGood b then m
    else match m with
      | some a => if blockField a 0x18 4 < blockField b 0x18 4 then some b else m
      | none => some b) none

end Sys2Proof.Machine

namespace Sys2Proof
open Sys2Proof.Machine

/-- The identity block in use. -/
def CartImage.block (x : CartImage) : List Byte := (idPick x.copies).getD []

/-- Whether the cartridge is blank: no good copy, and no page programmed in block 0. -/
def CartImage.blank (x : CartImage) : Bool := (idPick x.copies).isNone && !x.programmed

/-- Whether a copy is good. -/
def CartImage.good (x : CartImage) : Bool := (idPick x.copies).isSome

/-- The fields of the block in use. -/
def CartImage.ver (x : CartImage) : Nat := blockField x.block 4 2
def CartImage.clean (x : CartImage) : Bool := bit (blockField x.block 6 1) 0
def CartImage.readonly (x : CartImage) : Bool := bit (blockField x.block 6 1) 1
def CartImage.sanitize (x : CartImage) : Bool := bit (blockField x.block 6 1) 2
def CartImage.serial (x : CartImage) : Nat := blockField x.block 8 16
def CartImage.mgen (x : CartImage) : Nat := blockField x.block 0x18 4
def CartImage.ucap (x : CartImage) : Nat := blockField x.block 0x20 8
def CartImage.kekid (x : CartImage) : List Byte := (x.block.drop 0x30).take 16

end Sys2Proof

namespace Sys2Proof.Machine

/-- The 4 KiB identity block of slice `p`'s cartridge as it is written last; `kek` wraps the keys. -/
def Dev.idBlock (d : Dev) (p : Nat) (kek : List Byte) : List Byte :=
  let c := (d.cel p).cart
  let flags := b2n c.clean + 2 * b2n (d.on F.CELP_CART_STAT_READONLY p) + 4 * b2n c.sanitize
  let entry := fun (k : Nat) =>
    let e := d.nsEnt p k
    if e.size = 0 then List.replicate 128 0#8
    else (List.range 128).map (Config.nsEntry e.size e.attached e.fmt (keyWrap kek (leBytes 64 e.key)))
  let b := leBytes 4 0x44495843 ++ leBytes 2 1 ++ leBytes 1 flags ++ leBytes 1 0 ++ leBytes 16 c.serial ++ leBytes 4 c.mgen ++
    leBytes 4 c.ntgt ++ leBytes 8 c.ucap ++ leBytes 8 c.ckpt ++ (c.kekid ++ List.replicate (16 - c.kekid.length) 0) ++
    (List.range 16).flatMap entry ++ List.replicate 1980 0
  b ++ leBytes 4 (crc32c b)

/-- The identity block is rewritten: over the other copy. -/
def Dev.idWrite (d : Dev) (p : Nat) : Dev := d.updCart p fun c => { c with copy := 1 - c.copy }

/-- The bytes that the flash holds for an LBA of a namespace (R456). -/
def Dev.mediaLba (d : Dev) (p k lba : Nat) : List Byte :=
  xtsEncrypt (leBytes 64 (d.nsEnt p k).key) lba ((d.nsEnt p k).data.reads (4096 * lba) 4096)

/-- The key of a secret slot, where the slot is a loaded one. -/
def Dev.kekKey (d : Dev) (slot : Nat) : Option (List Byte) :=
  if slot < 8 ∨ !d.on F.SECU_SLOT_VALID 0 slot || d.on F.SECU_STAT_KEYSLOST then none else Tab.find d.hub.secu.keys slot

/-- The identifier of a secret slot's key (R678), where the slot is a loaded secret slot. -/
def Dev.kekOf (d : Dev) (slot : Nat) : Option (List Byte) :=
  (d.kekKey slot).map fun k => (sha384 (([0x50, 0x58, 0x4B, 0x49, 0x44] : List Nat).map (BitVec.ofNat 8) ++ k)).take 16

/-- The identity block has been read (R442 to R444). -/
def Dev.cartIdentity (d : Dev) (p : Nat) (x : CartImage) : Dev :=
  if d.cartState p = 2 ∧ (d.cel p).inited then
    let c := d.cel p
    let sound := x.good && x.ver == 1 && !x.blank
    let same := c.reseat && sound && x.serial == c.cart.serial && x.mgen == c.cart.mgen
    let d := if c.reseat && !same then d.cartNew p else d
    let d := (List.range 4).foldl (fun d k => d.wr F.CELP_CART_SERIAL_VALUE (x.serial / 2 ^ (32 * k) % 2 ^ 32) p k) d
    let d := d.wr F.CELP_CART_MGEN_VALUE x.mgen p
    if x.blank then
      if (d.kekOf (d.rd F.CEL_KEK_KSLOT)).isNone then d.cartFault p 5 true
      else (d.updCel p fun c => { c with found := some x }).cartEnter p 3
    else if !x.good then d.cartFault p 2
    else if x.ver ≠ 1 then d.cartFault p 3
    else (d.updCel p fun c => { c with found := some x }).cartEnter p 3
  else d

def execCartIdentityRead (p : Pipe) (image : CartImage) (s : State) : Out := run s fun d => d.cartIdentity p image

/-- What a cartridge holds: what is known of it where it is the one last held, otherwise what its image says, the namespaces' keys unwrapped
under `kek` (R456). -/
def Dev.cartOf (d : Dev) (p : Nat) (x : CartImage) (last : Nat) (kek : List Byte) : Cart :=
  let c := (d.cel p).cart
  if !x.blank && c.serial == x.serial && c.mgen == x.mgen then { c with sanitize := x.sanitize }
  else
    { serial := x.serial, mgen := x.mgen, ucap := x.ucap, clean := x.clean, sanitize := x.sanitize, kekid := x.kekid,
      jseq := last, ntgt := (d.cel p).ntgt, ckpt := blockField x.block 0x28 8
      nss := x.nss.foldl (fun t n =>
        Tab.put t n.place.val ⟨n.size, n.attached, ofLeBytes ((keyUnwrap kek n.wrapped).getD []), n.fmt,
          n.data.foldl (fun m b => m.write b.1 b.2) []⟩) []
      dir := x.dir.foldl (fun t e => Tab.put t e.1 e.2) [] }

/-- The regions of the per-LBA namespaces, for the rebuild after an unclean mount (R450). -/
def Dev.rebuildRegions (d : Dev) (p : Nat) : List (Nat × Nat) :=
  (d.cel p).cart.nss.flatMap fun x =>
    if d.takeNs p == some x.1 then [] else (List.range (ceilDiv x.2.size extentLbas)).map fun r => (x.1, r)

/-- Shows the rebuild. -/
def Dev.showRebuild (d : Dev) (p : Nat) : Dev :=
  let n := (d.cel p).rebuild.length
  (d.wrb F.CELP_RBLD_STAT_ACTIVE (n != 0) p).wr F.CELP_RBLD_STAT_LEFT n p

/-- A mount finds a sanitise unfinished: the cartridge takes part again and CEL_SANITIZE is raised (R461). -/
def Dev.sanResume (d : Dev) (p : Nat) : Dev :=
  if (d.cel p).cart.sanitize then
    let d := d.updNvme fun n => { n with san := Tab.put n.san p ((Tab.find n.san p).getD 2) }
    let d := (d.wr F.CEL_SAN_STAT_SSTAT 2).wr F.CEL_SAN_STAT_CARTS (Nat.lor (d.rd F.CEL_SAN_STAT_CARTS) (2 ^ p))
    d.raise 544 (pack [(2, p), (3, 2)])
  else d

/-- An OPEN entry rewritten TRUNCATED: LASTSEQ, TEND and BYTES of the last committed unit in the journal (R454). -/
def truncEntry (e : DirEnt) (pos : Option (Nat × (Nat × Nat) × Nat)) : DirEnt :=
  match pos with
  | some x => { e with state := 2, lastSeq := x.1, tend := x.2.1, bytes := x.2.2 }
  | none => { e with state := 2 }

/-- A mount completes: MOUNTED or, where the keys cannot be unwrapped, LOCKED (R457). A mounted cartridge's OPEN entries become
TRUNCATED at the last unit the journal shows committed (R452, R454), and an unclean one is rebuilt (R450). -/
def Dev.cartMount (d : Dev) (p outcome : Nat) (x : CartImage) (r : Replay) : Dev :=
  let slot := d.rd F.CEL_KEK_KSLOT
  let kek := d.kekOf slot
  let key := (d.kekKey slot).getD []
  let cart := d.cartOf p x r.last key
  let cart : Cart := if x.blank then
      { serial := x.serial, mgen := 1, ucap := x.ucap, kekid := kek.getD [], ntgt := (d.cel p).ntgt }
    else { cart with mgen := (cart.mgen + 1) % 2 ^ 32 }
  let wasClean := x.clean || x.blank
  let open_ := x.blank || (kek == some cart.kekid && x.nss.all fun n => (keyUnwrap key n.wrapped).isSome)
  let d := d.updCel p fun c => { c with
    cart := { cart with clean := false }, reseat := false, found := none, pieces := [], locks := [], full := false, strms := c.strms
    jbytes := 0, rebuild := [] }
  let d := d.idWrite p
  let d := (d.wrb F.CELP_CART_STAT_CLEAN (x.clean && !x.blank) p).wrb F.CELP_CART_STAT_READONLY x.readonly p
  let d := ((d.wr F.CELP_CART_MGEN_VALUE cart.mgen p).wr F.CELP_CART_STAT_CAUSE 0 p).cartOutcome p outcome
  if open_ then
    let d := d.updCart p fun c => { c with
      units := []
      dir := c.dir.map fun (i, e) => if e.kind ≠ 0xFF ∧ e.state = 0 then (i, truncEntry e (Tab.find c.units i)) else (i, e) }
    let d := (d.cel p).cart.dir.foldl (fun d x => d.dirPut p x.1 x.2) d
    let d := if wasClean then d else d.updCel p fun c => { c with rebuild := d.rebuildRegions p }
    ((d.showRebuild p).cartEnter p 4).sanResume p
  else (d.cartEnter p 5).sanResume p

/-- Journal replay ends (R444, R447, R454): the same cartridge goes on where it was; the records found beyond the last one known to
be committed are pieces that had reached flash. Any other is a new mount. -/
def Dev.cartReplay (d : Dev) (p : Nat) (r : Replay) : Dev :=
  match (d.cel p).found with
  | none => d
  | some x =>
    if d.cartState p ≠ 3 then d
    else
      let c := d.cel p
      let same := c.reseat && r.ckpt && decide (c.cart.jseq ≤ r.last) && decide (r.last ≤ c.cart.jseq + c.pieces.length)
      if same then
        let k := r.last - c.cart.jseq
        let d := d.updCel p fun c => { c with pieces := c.pieces.drop k, reseat := false, found := none }
        let d := (c.pieces.take k).foldl (fun d x => (d.pieceStore p x).lockRelease p 0 x.id) d
        (((d.wrb F.CELP_CART_STAT_CLEAN x.clean p).cartOutcome p 3).showRebuild p |>.cartEnter p 4).sanResume p
      else
        let d := if c.reseat then d.cartNew p else d
        if !r.ckpt && !x.blank then d.cartFault p 4
        else d.cartMount p (if (d.cel p).newcart then 4 else if x.blank then 2 else 1) x r

def execCartReplayDone (p : Pipe) (r : Replay) (s : State) : Out := run s fun d => d.cartReplay p r

/-! ### Completions of a slice's commands -/

/-- The status word of a completion without its phase: SC, SCT and DNR (R416). [log entry 50: PRESUMED] -/
def nvmeStatus (sct sc dnr : Nat) : Nat := sc + 2 ^ 8 * sct + 2 ^ 14 * dnr

/-- Whether completion queue `k` has room for an entry. -/
def NvmeQ.room (q : NvmeQ) : Bool := decide ((q.tail + 1) % max 1 q.size ≠ q.head)

/-- Writes an entry of completion queue `k` and raises its event (R402): event k − 1 with interrupts enabled, or 540. -/
def Dev.cqWrite (d : Dev) (k : Nat) (ws : List Nat) : Dev :=
  match Tab.find d.hub.nvme.cqs k with
  | none => d
  | some q =>
    let w3 := ws.getD 3 0
    let w3 := if q.phase then w3 + 2 ^ 16 else w3
    let d := d.hostWords (q.base + 16 * q.tail) [ws.getD 0 0, ws.getD 1 0, ws.getD 2 0, w3]
    let t := q.tail + 1
    let q' := if t < q.size then { q with tail := t } else { q with tail := 0, phase := !q.phase }
    let d := d.updNvme fun n => { n with cqs := Tab.put n.cqs k q' }
    if k = 0 then d.raise 540 0 else if q.ien then d.raiseTenant (k - 1) else d

/-- A completion is posted, or waits for room in its queue. [log entry 51: DEDUCED] -/
def Dev.cqPost (d : Dev) (k : Nat) (ws : List Nat) : Dev :=
  match Tab.find d.hub.nvme.cqs k with
  | none => d
  | some q =>
    if q.room && d.hostOk && !(d.hub.nvme.held.any fun x => x.1 == k) then d.cqWrite k ws
    else d.updNvme fun n => { n with held := n.held ++ [(k, ws)] }

/-- Completions that waited for room are posted in order. -/
def Dev.cqDrain (d : Dev) : Dev :=
  if !d.hostOk then d
  else
    d.hub.nvme.held.foldl (fun d x =>
      match Tab.find d.hub.nvme.cqs x.1 with
      | none => d
      | some q => if q.room then d.cqWrite x.1 x.2 else d.updNvme fun n => { n with held := n.held ++ [x] })
      (d.updNvme fun n => { n with held := [] })

/-- The completion entry of command `cid` of queue `q` with dword 0 `dw0`: queue head, identifier and status. -/
def Dev.cqe (d : Dev) (q cid dw0 status : Nat) : List Nat :=
  [dw0, 0, (Tab.get {} d.hub.nvme.sqs q).head + 2 ^ 16 * q, cid + 2 ^ 17 * status]

/-- The deletions of submission queues that nothing started still delays complete (R419): the queue goes and its `CEL_TSTAT`
clears. -/
def Dev.sqDeletions (d : Dev) : Dev :=
  let ready := d.hub.nvme.dels.filter fun x => !(d.hub.nvme.cmds.any fun c => c.q == x.1)
  ready.foldl (fun d (q, cid) =>
    let d := d.updNvme fun n => { n with dels := n.dels.filter fun x => x.1 != q, sqs := Tab.del n.sqs q }
    let d := ((d.wr F.CEL_TSTAT_WAIT 0 0 (q - 1)).wr F.CEL_TSTAT_SHORT 0 0 (q - 1)).wr F.CEL_TSTAT_FRAC 0 0 (q - 1)
    let d := d.updNvme fun n => { n with cmds := n.cmds.filter fun c => !(c.q == 0 && c.cid == cid) }
    d.cqPost 0 (d.cqe 0 cid 0 0)) d

/-- Every queue is deleted and the controller is not ready (R420). -/
def Dev.nvClosed (d : Dev) : Dev :=
  let d := d.updHub fun h => { h with hreq := h.hreq.filter fun x => match x with | .nvme _ _ => false | _ => true }
  d.updNvme fun n => { n with
    sqs := [], cqs := [], cmds := [], aers := [], dels := [], held := [], en := false, rdy := false, closing := false }

/-- With `CC.EN` cleared, the queues are deleted once every I/O command has ended. -/
def Dev.nvClosing (d : Dev) : Dev := if d.hub.nvme.closing && !d.hub.nvme.cmds.any fun c => c.q != 0 then d.nvClosed else d

/-- A command ends: its entries are released, its pieces no longer wait for it, its completion is posted (R410, R416); of a write whose data never came nothing stays. [log entry 51: DEDUCED] -/
def Dev.nvEnd (d : Dev) (q cid dw0 status : Nat) : Dev :=
  let d := (List.range 4).foldl (fun d p => d.lockRelease p q cid) d
  let d := (List.range 4).foldl (fun d p => d.updCel p fun c => { c with
    pieces := (c.pieces.filter fun x => x.ready || x.owner != some (q, cid)).map fun x =>
      if x.owner = some (q, cid) then { x with owner := none } else x }) d
  let d := d.updNvme fun n => { n with cmds := n.cmds.eraseP fun c => c.q == q && c.cid == cid }
  let d := d.updHub fun h => { h with hreq := h.hreq.filter fun x => x != .nvme q cid }
  (d.cqPost q (d.cqe q cid dw0 status)).sqDeletions.nvClosing

/-- The commands a slice has admitted that have not ended. -/
def Dev.admittedOn (d : Dev) (p : Nat) : List NvmeCmd :=
  d.hub.nvme.cmds.filter fun c => c.q != 0 && 1 ≤ c.stage && (nsPlace (c.dw.getD 1 0)).1 == p

/-- A removal from MOUNTED (R417, R441). -/
def Dev.cartPulled (d : Dev) (p : Nat) : Dev :=
  let cs := d.admittedOn p
  let d := cs.foldl (fun d c => d.nvEnd c.q c.cid 0 (nvmeStatus 7 0xC0 0)) d
  let d := (d.updCel p fun c => { c with
    pwr := false, t0 := d.c, reseat := true, strms := c.strms.map fun x => (x.1, { x.2 with open_ := false, part := [], entry := none }) })
  let d := d.updNvme fun n => { n with san := Tab.del n.san p }
  d.cartEnter p 7

/-- CRTn_DET_N high for 5 µs (R439, R445). [log entry 54: DEDUCED] -/
def Dev.cartRemove (d : Dev) (p : Nat) : Dev :=
  let d := d.updCel p fun c => { c with det := false, ejected := false, pwr := false, inited := false, found := none }
  let st := d.cartState p
  if st = 0 ∨ st = 7 then d
  else if st = 4 then d.cartPulled p
  else if (d.cel p).reseat then d.cartEnter p 7
  else d.cartEnter p 0

def execCartRemoval (p : Pipe) (s : State) : Out := run s fun d => d.cartRemove p

/-- A clean unmount (R449, R716): streams close, the write buffer is flushed, a checkpoint is written and CLEAN set. [log entry 54: DEDUCED] -/
def Dev.cartUnmount (d : Dev) (p : Nat) : Dev :=
  let st := d.cartState p
  let d := if st = 4 then
      let cs := d.admittedOn p
      let d := (d.strmCloseAll p).pieceFlush p
      let d := cs.foldl (fun d c => if c.stage = 3 then d.nvEnd c.q c.cid 0 0 else d.nvEnd c.q c.cid 0 (nvmeStatus 0 0x82 0)) d
      (((d.journal p).updCart p fun c => { c with clean := true, ckpt := c.jseq + 1 }).idWrite p).updNvme fun n => { n with san := Tab.del n.san p }
    else if st = 7 ∨ (d.cel p).reseat then (d.cartOutcome p 5).cartLose p 5
    else d
  let d := d.updCel p fun c => { c with pwr := false, inited := false, found := none, reseat := false, jbytes := 0, rebuild := [] }
  if st = 0 then d else (d.showRebuild p).cartEnter p 0

/-- A write of EJECT: discarded with a take or stream open on the slice, or with Format or Sanitize running. -/
def Dev.cartEject (d : Dev) (p : Nat) : Dev :=
  let busy := ((List.range 8).any fun t => (d.tq p t).take != 0) || ((d.cel p).strms.any fun x => x.2.open_) || d.celWork p
  let st := d.cartState p
  if busy || !(st == 4 || st == 5 || st == 6) then d else (d.cartUnmount p).updCel p fun c => { c with ejected := true }

def execCartEject (p : Pipe) (s : State) : Out := bar2 .CELP p s fun d => d.cartEject p

/-- The cartridge loses power with its pipe or the device: it is left as a removal leaves it, with CLEAN clear (R55, R716). -/
def Dev.cartPowerLoss (d : Dev) (p : Nat) : Dev :=
  let cs := d.admittedOn p
  let d := cs.foldl (fun d c => d.nvEnd c.q c.cid 0 (nvmeStatus 7 0xC0 0)) d
  d.updCel p fun c => { c with
    pwr := false, inited := false, found := none, reseat := false, pieces := [], locks := [], strms := [], rebuild := [], jbytes := 0 }

/-- A checkpoint is written: nothing of the journal is left to replay (R448). -/
def execJournalCheckpoint (p : Pipe) (s : State) : Out := run s fun d =>
  if d.cartState p = 4 then
    ((d.journal p).updCart p fun c => { c with ckpt := c.jseq + 1 }).updCel p fun c => { c with jbytes := 0 }
  else d

/-- A region of the mapping is rebuilt; REBUILD_DONE is raised after the last one (R450). -/
def Dev.rebuildRegion (d : Dev) (p : Nat) (x : Nat × Nat) : Dev :=
  if d.cartState p = 4 ∧ (d.cel p).rebuild.contains x then
    let d := (d.updCel p fun c => { c with rebuild := c.rebuild.filter fun y => y != x }).showRebuild p
    if (d.cel p).rebuild.isEmpty then d.raiseP p 63 0 else d
  else d

def execRebuildRegion (p : Pipe) (place : Fin 16) (region : Nat) (s : State) : Out := run s fun d => d.rebuildRegion p (place, region)

/-- A program failure: the block is retired; with no spare block left the slice becomes READONLY and the write whose data it was ends
with Write Fault (R416, R446). -/
def Dev.programFail (d : Dev) (p : Nat) (spare : Bool) : Dev :=
  if d.cartState p ≠ 4 ∨ spare then d
  else
    let d := if d.on F.CELP_CART_STAT_READONLY p then d else (d.wr F.CELP_CART_STAT_READONLY 1 p).raiseP p 64 0
    match (d.cel p).pieces with
    | [] => d
    | x :: _ =>
      let d := d.updCel p fun c => { c with pieces := c.pieces.filter fun y => !(y.id == x.id || (x.owner.isSome && y.owner == x.owner)) }
      match x.owner with
      | some (q, cid) => d.nvEnd q cid 0 (nvmeStatus 2 0x80 0)
      | none => d

def execFlashProgramFail (p : Pipe) (spare : Bool) (s : State) : Out := run s fun d => d.programFail p spare

end Sys2Proof.Machine
end

