-- ==== Sys2Proof/Machine/Nvme.lean ====
section
/-!
DEFINITION. The NVMe controller (chapter 12): doorbells, the fetch of commands, the admin and I/O commands, range-lock grants,
commits, shares and windows, power states; and the administration of chapter 13 (namespaces, format, sanitise).
-/
namespace Sys2Proof.Machine

/-- Dword `i` of a command. -/
def NvmeCmd.d (c : NvmeCmd) (i : Nat) : Nat := c.dw.getD i 0

/-- The opcode of a command. -/
def NvmeCmd.opc (c : NvmeCmd) : Nat := c.d 0 % 256

/-- Whether the controller serves its queues. -/
def Dev.nvLive (d : Dev) : Bool := d.hub.nvme.rdy && !d.hub.lost

/-- A completion's status for a field that is not supported (0/02). -/
def stField : Nat := nvmeStatus 0 0x02 1

/-- The opcodes of R404: the admin and the I/O set. -/
def adminOps : List Nat := [0x00, 0x01, 0x02, 0x04, 0x05, 0x06, 0x08, 0x09, 0x0A, 0x0C, 0x0D, 0x15, 0x10, 0x11, 0x80, 0x84]
def ioOps : List Nat := [0x00, 0x01, 0x02, 0x08, 0x09, 0x0C]

/-- The admin opcodes Fallow mode serves (R649). -/
def fallowOps : List Nat := [0x02, 0x06, 0x0A, 0x10, 0x11]

/-! ### Controller, doorbells and asynchronous events -/

/-- `CAP` and `VS` (R399): MQES, CQR, TO, CSS, MPSMIN and MPSMAX; AMS, DSTRD and NSSRS are 0. -/
def nvCap : Nat := 4095 + 2 ^ 16 + 8 * 2 ^ 24 + 2 ^ 37 + 4 * 2 ^ 52
def nvVs : Nat := 0x00020000

/-- The words of BAR0 that the spec gives, by offset: `CAP`, `VS`, `CSTS.RDY` and `CFS`; the doorbells and what follows them read 0 (R401).
[log entry 50: PRESUMED] -/
def Dev.nvWord (d : Dev) (o : Nat) : Option Nat :=
  match o with
  | 0x00 => some (nvCap % 2 ^ 32)
  | 0x04 => some (nvCap / 2 ^ 32)
  | 0x08 => some nvVs
  | 0x1C => some (b2n d.hub.nvme.rdy + 2 * b2n d.hub.nvme.cfs)
  | _ => if 0x1000 ≤ o ∧ o < 0x4000 then some 0 else none

/-- Setting `CC.EN`: the admin queues are as AQA, ASQ and ACQ say (R399). -/
def Dev.nvEnable (d : Dev) (cc aqa asq acq : Nat) : Dev :=
  if d.hub.nvme.en || d.hub.nvme.closing || !bit cc 0 || d.hub.lost then d
  else d.updNvme fun n => { n with
    en := true, rdy := true, mps := slice cc 10 7
    sqs := [(0, { base := asq, size := slice aqa 11 0 + 1 })]
    cqs := [(0, { base := acq, size := slice aqa 27 16 + 1 })] }

def execControllerEnable (cc aqa : Word) (asq acq : BitVec 64) (s : State) : Out :=
  run s fun d => d.nvEnable cc.toNat aqa.toNat asq.toNat acq.toNat

/-- The entries of a submission queue that have not been fetched. -/
def Dev.sqLeft (d : Dev) (q : Nat) (x : NvmeQ) : List Nat :=
  let n := if x.size = 0 then 0 else (x.tail + x.size - x.head) % x.size
  (((List.range n).map fun i => (x.head + i) % x.size).filter fun i => !x.gone.contains i).map fun i =>
    Mem.readLe d.hostMem (x.base + 64 * i) 4 / 2 ^ 16 + 0 * q

/-- Every command of queue `q` that has not started ends with 0/08 (R419). -/
def Dev.sqAbort (d : Dev) (q : Nat) (x : NvmeQ) : Dev :=
  let left := d.sqLeft q x
  let d := d.updNvme fun n => { n with sqs := Tab.put n.sqs q { x with head := x.tail, gone := [] } }
  let mine := d.hub.nvme.cmds.filter fun y => y.q == q && decide (y.stage ≤ 1)
  let d := mine.foldl (fun d y => d.nvEnd q y.cid 0 (nvmeStatus 0 0x08 0)) d
  left.foldl (fun d id => d.cqPost q (d.cqe q id 0 (nvmeStatus 0 0x08 0))) d

/-- An FLR deletes every queue (R420): no completion is posted, and writes whose data has begun to move are still committed. -/
def Dev.nvFlr (d : Dev) : Dev :=
  let d := (List.range 4).foldl (fun d p => (d.updCel p fun c => { c with
    locks := c.locks.filter fun x => x.q == 0, full := false
    pieces := (c.pieces.filter fun x => x.ready).map fun x => { x with owner := none } }).showLocks p 0) d
  d.nvClosed

/-- Clearing `CC.EN` (R420): the completions of R419 are posted, and the queues go once every command that has started has ended. -/
def Dev.nvDisable (d : Dev) : Dev :=
  if !d.hub.nvme.en then d
  else
    let d := (d.hub.nvme.sqs.filter fun x => x.1 != 0).foldl (fun d x => d.sqAbort x.1 x.2) d
    (d.updNvme fun n => { n with en := false, closing := true }).nvClosing

def execControllerDisable (s : State) : Out := run s fun d => d.nvDisable

/-- An asynchronous event completes an outstanding request, where there is one: type, information, log page. [log entry 50: PRESUMED] -/
def Dev.asyncEvent (d : Dev) (type info log : Nat) : Dev :=
  match d.hub.nvme.aers with
  | [] => d
  | cid :: rest =>
    let d := d.updNvme fun n => { n with aers := rest }
    d.cqPost 0 (d.cqe 0 cid (type + 2 ^ 8 * info + 2 ^ 16 * log) 0)

/-- A submission doorbell (R401): a queue that does not exist or a value not below its size posts an Error event. -/
def Dev.sqBell (d : Dev) (q v : Nat) : Dev :=
  if !d.nvLive then d
  else
    match Tab.find d.hub.nvme.sqs q with
    | none => d.asyncEvent 0 0 1
    | some x =>
      if v < x.size then d.updNvme fun n => { n with sqs := Tab.put n.sqs q { x with tail := v } }
      else d.asyncEvent 0 1 1

def execSqDoorbell (q : Fin 513) (v : BitVec 16) (s : State) : Out := run s fun d => d.sqBell q v.toNat

/-- A completion doorbell (R401): entries are released, and completions that waited for room follow. -/
def Dev.cqBell (d : Dev) (q v : Nat) : Dev :=
  if !d.nvLive then d
  else
    match Tab.find d.hub.nvme.cqs q with
    | none => d.asyncEvent 0 0 1
    | some x =>
      if v < x.size then (d.updNvme fun n => { n with cqs := Tab.put n.cqs q { x with head := v } }).cqDrain
      else d.asyncEvent 0 1 1

def execCqDoorbell (q : Fin 513) (v : BitVec 16) (s : State) : Out := run s fun d => d.cqBell q v.toNat

/-! ### Data by PRPs -/

/-- The page size. -/
def Dev.pageSize (d : Dev) : Nat := 4096 * 2 ^ d.hub.nvme.mps

/-- The segments of a PRP list at `a` for `n` bytes: whole pages, the last entry of a list page naming the next list where more
than one page is left. -/
def prpList (m : Mem) (ps : Nat) : Nat → Nat → Nat → List (Nat × Nat)
  | 0, _, _ => []
  | fuel + 1, a, n =>
    if n = 0 then []
    else
      let e := Mem.readLe m a 8
      if (a + 8) % ps = 0 ∧ ps < n then prpList m ps fuel e n
      else (e, min ps n) :: prpList m ps fuel (a + 8) (n - min ps n)

/-- The host-memory segments of a command's data of `n` bytes. [log entry 50: PRESUMED] -/
def Dev.prpSegs (d : Dev) (c : NvmeCmd) (n : Nat) : List (Nat × Nat) :=
  let ps := d.pageSize
  let prp1 := c.d 6 + 2 ^ 32 * c.d 7
  let prp2 := c.d 8 + 2 ^ 32 * c.d 9
  let first := min n (ps - prp1 % ps)
  let rest := n - first
  (prp1, first) :: (if rest = 0 then [] else if rest ≤ ps then [(prp2, rest)] else prpList d.hostMem ps (2 * (rest / ps) + 4) prp2 rest)

/-- The bytes a command's data pointer names. -/
def Dev.prpRead (d : Dev) (c : NvmeCmd) (n : Nat) : List Byte := (d.prpSegs c n).flatMap fun x => d.hostMem.reads x.1 x.2

/-- Writes bytes where a command's data pointer names. -/
def Dev.prpWrite (d : Dev) (c : NvmeCmd) (bs : List Byte) : Dev :=
  ((d.prpSegs c bs.length).foldl (fun (acc : Dev × List Byte) x => (acc.1.hostWrite x.1 (acc.2.take x.2), acc.2.drop x.2)) (d, bs)).1

/-! ### Fetching (R403, R404, R407, R411, R434) -/

/-- The command at the head of a submission queue. -/
def Dev.sqHead (d : Dev) (q : Nat) (x : NvmeQ) : NvmeCmd :=
  let dw := (List.range 16).map fun i => Mem.readLe d.hostMem (x.base + 64 * x.head + 4 * i) 4
  { q := q, cid := dw.getD 0 0 / 2 ^ 16, dw := dw }

/-- The slice a command's namespace lies on. -/
def NvmeCmd.slice (c : NvmeCmd) : Nat := (nsPlace (c.d 1)).1

/-- Whether the slice holds off further tenant commands: 896 entries are held by tenants (R411). -/
def Dev.sliceFull (d : Dev) (p : Nat) : Bool := decide (896 ≤ tenantLocks (d.cel p).locks)

/-- An I/O command arrives in or on the way to a non-operational power state (R434): an entry not past its commit point is
abandoned, one past it is followed by an exit, and a state reached is left. [log entry 51: DEDUCED] -/
def Dev.psWake (d : Dev) (late : Bool) : Dev :=
  let n := d.hub.nvme
  if n.trans = 1 then
    if late then d.updNvme fun n => { n with wake := true }
    else d.updNvme fun n => { n with trans := 0, ps := n.psOp, target := n.psOp }
  else if n.trans = 0 ∧ 2 ≤ n.ps then d.updNvme fun n => { n with trans := 2, target := n.psOp }
  else d

/-- The Hub fetches the next command of queue `q` and passes it on, or ends it where its opcode, FUSE, PSDT or namespace is not one
that the device serves. `late` says whether an entry to a non-operational state has passed its commit point. [log entry 51: DEDUCED] -/
def Dev.nvFetch (d : Dev) (q : Nat) (late : Bool) : Dev :=
  match Tab.find d.hub.nvme.sqs q with
  | none => d
  | some x =>
    let after := if x.head + 1 < x.size then x.head + 1 else 0
    if !d.nvLive || !d.hostOk || d.nvStopped || d.hub.nvme.closing || x.head == x.tail || (d.hub.nvme.dels.any fun y => y.1 == q) then d
    else if x.gone.contains x.head then
      d.updNvme fun n => { n with sqs := Tab.put n.sqs q { x with head := after, gone := x.gone.filter (· != x.head) } }
    else
      let c := d.sqHead q x
      let known := if q = 0 then (if d.on F.HUB_FALLOW_ACTIVE then fallowOps else adminOps).contains c.opc else ioOps.contains c.opc
      let flush := q != 0 && c.opc == 0
      let all := flush && c.d 1 == 0xFFFFFFFF
      let p := c.slice
      let inRange := decide (1 ≤ c.d 1) && decide (c.d 1 ≤ 64)
      if q ≠ 0 ∧ known ∧ !flush ∧ inRange ∧ d.sliceFull p then
        if (d.cel p).full then d else (d.updCel p fun c => { c with full := true }).raiseP p 60 0
      else
        let d := d.updNvme fun n => { n with sqs := Tab.put n.sqs q { x with head := after } }
        let d := if q = 0 then d else d.psWake late
        if !known then d.cqPost q (d.cqe q c.cid 0 (nvmeStatus 0 0x01 1))
        else if Sys2Proof.Machine.slice (c.d 0) 9 8 ≠ 0 ∨ Sys2Proof.Machine.slice (c.d 0) 15 14 ≠ 0 then d.cqPost q (d.cqe q c.cid 0 stField)
        else if q ≠ 0 ∧ !all ∧ !inRange then d.cqPost q (d.cqe q c.cid 0 (nvmeStatus 0 0x0B 1))
        else d.updNvme fun n => { n with cmds := n.cmds ++ [c] }

def execNvmeCommandFetch (q : Fin 513) (late : Bool) (s : State) : Out := run s fun d => d.nvFetch q late

/-- The fetched admin command `cid` with opcode `opc`, served by `f`. -/
def Dev.nvAdmin (d : Dev) (cid opc : Nat) (f : Dev → NvmeCmd → Dev) : Dev :=
  if !d.nvLive then d
  else
    match d.hub.nvme.cmds.find? fun c => c.q == 0 && c.cid == cid && c.stage == 0 with
    | some c => if c.opc = opc then f d c else d
    | none => d

/-- An admin command ends. -/
def Dev.admEnd (d : Dev) (c : NvmeCmd) (status : Nat) (dw0 : Nat := 0) : Dev := d.nvEnd 0 c.cid dw0 status

/-! ### Queues (R400, R402, R419) -/

/-- Delete I/O Submission Queue: what has not started ends with 0/08; the deletion waits for what has (R419). -/
def Dev.sqDelete (d : Dev) (c : NvmeCmd) : Dev :=
  let q := c.d 10 % 2 ^ 16
  match Tab.find d.hub.nvme.sqs q with
  | none => d.admEnd c (nvmeStatus 1 0x01 1)
  | some x =>
    if q = 0 then d.admEnd c (nvmeStatus 1 0x01 1)
    else
      let d := d.updNvme fun n => { n with
        dels := n.dels ++ [(q, c.cid)]
        cmds := n.cmds.map fun y => if y.q = 0 ∧ y.cid = c.cid then { y with stage := 3 } else y }
      (d.sqAbort q x).sqDeletions

def execDeleteIoSubmissionQueue (cid : BitVec 16) (s : State) : Out := run s fun d => d.nvAdmin cid.toNat 0x00 Dev.sqDelete

/-- Create I/O Submission Queue (R400). -/
def Dev.sqCreate (d : Dev) (c : NvmeCmd) : Dev :=
  let q := c.d 10 % 2 ^ 16
  let size := c.d 10 / 2 ^ 16
  if c.d 11 / 2 ^ 16 ≠ q then d.admEnd c (nvmeStatus 1 0x00 1)
  else if q = 0 ∨ 512 < q ∨ (Tab.find d.hub.nvme.sqs q).isSome then d.admEnd c (nvmeStatus 1 0x01 1)
  else if (Tab.find d.hub.nvme.cqs q).isNone then d.admEnd c (nvmeStatus 1 0x00 1)
  else if 4095 < size then d.admEnd c (nvmeStatus 1 0x02 1)
  else if !bit (c.d 11) 0 then d.admEnd c stField
  else (d.updNvme fun n => { n with
    sqs := Tab.put n.sqs q { base := c.d 6 + 2 ^ 32 * c.d 7, size := size + 1 } }).admEnd c 0

def execCreateIoSubmissionQueue (cid : BitVec 16) (s : State) : Out := run s fun d => d.nvAdmin cid.toNat 0x01 Dev.sqCreate

/-- Delete I/O Completion Queue: refused while its submission queue exists (R404). -/
def Dev.cqDelete (d : Dev) (c : NvmeCmd) : Dev :=
  let q := c.d 10 % 2 ^ 16
  if q = 0 ∨ (Tab.find d.hub.nvme.cqs q).isNone then d.admEnd c (nvmeStatus 1 0x01 1)
  else if (Tab.find d.hub.nvme.sqs q).isSome then d.admEnd c (nvmeStatus 1 0x0C 1)
  else (d.updNvme fun n => { n with cqs := Tab.del n.cqs q, held := n.held.filter fun x => x.1 != q }).admEnd c 0

def execDeleteIoCompletionQueue (cid : BitVec 16) (s : State) : Out := run s fun d => d.nvAdmin cid.toNat 0x04 Dev.cqDelete

/-- Create I/O Completion Queue, with its IV checked against the event's vector (R400, R402, R563). -/
def Dev.cqCreate (d : Dev) (c : NvmeCmd) : Dev :=
  let q := c.d 10 % 2 ^ 16
  let size := c.d 10 / 2 ^ 16
  if q = 0 ∨ 512 < q ∨ (Tab.find d.hub.nvme.cqs q).isSome then d.admEnd c (nvmeStatus 1 0x01 1)
  else if 4095 < size then d.admEnd c (nvmeStatus 1 0x02 1)
  else if !bit (c.d 11) 0 then d.admEnd c stField
  else if c.d 11 / 2 ^ 16 ≠ vectorOf (q - 1) then d.admEnd c (nvmeStatus 1 0x08 1)
  else (d.updNvme fun n => { n with
    cqs := Tab.put n.cqs q { base := c.d 6 + 2 ^ 32 * c.d 7, size := size + 1, ien := bit (c.d 11) 1 } }).admEnd c 0

def execCreateIoCompletionQueue (cid : BitVec 16) (s : State) : Out := run s fun d => d.nvAdmin cid.toNat 0x05 Dev.cqCreate

/-! ### Identify and logs (R404, R406) -/

/-- A structure of `n` bytes with the fields the spec gives at their NVMe 2.0 offsets, the others open. -/
def nvmeData (what ns n : Nat) (known : List (Nat × List Byte)) : List Byte :=
  known.foldl (fun b x => overlay b x.1 x.2) ((List.range n).map (Config.nvmeByte what ns))

/-- The vendor and device of the PCI function (R22, R550). -/
def pciVendor : Nat := 0x1FB2
def pciDevice : Nat := 0x4410

/-- The words of the function's configuration space that say what it is, by byte offset (R22, R550): vendor and device, revision and
class code 01 08 02, subsystem, and no interrupt pin. -/
def Dev.pciIdentity (d : Dev) (o : Nat) : Option Nat :=
  match o with
  | 0x00 => some (pciDevice * 2 ^ 16 + pciVendor)
  | 0x08 => some (0x010802 * 2 ^ 8 + d.rd F.HUB_ID_STEPPING)
  | 0x2C => some (pciDevice * 2 ^ 16 + pciVendor)
  | 0x3C => some 0
  | _ => none

/-- The fields that R433 gives of a power state descriptor: MP in 0.01 W, whether the state is non-operational, ENLAT and EXLAT in µs. -/
def psDesc (mp : Nat) (nop : Bool) (enlat exlat : Nat) : List Byte :=
  leBytes 2 mp ++ leBytes 1 0 ++ leBytes 1 (2 * b2n nop) ++ leBytes 4 enlat ++ leBytes 4 exlat

/-- Identify Controller (R399, R406, R433), with the VERSION of the running image as FR (R644). -/
def identifyCtrl (version : List Byte) : List Byte :=
  nvmeData 1 0 4096
    [(64, version), (0, leBytes 2 pciVendor), (2, leBytes 2 pciVendor), (77, leBytes 1 9), (78, leBytes 2 0x0001), (80, leBytes 4 0x00020000),
     (256, leBytes 2 0x000E), (258, leBytes 1 3), (259, leBytes 1 3), (260, leBytes 1 0x14), (263, leBytes 1 3),
     (512, leBytes 1 0x66), (513, leBytes 1 0x44), (516, leBytes 4 64), (520, leBytes 2 0x008C), (525, leBytes 1 0x01),
     (526, leBytes 2 127), (528, leBytes 2 127), (265, leBytes 1 0), (2048, psDesc 1400 false 0 0), (2080, psDesc 700 false 50 50),
     (2112, psDesc 120 true 2000 4000), (2144, psDesc 20 true 10000 40000)]

/-- Identify Namespace: size, capacity, one format of 4,096-byte LBAs without metadata (R406). -/
def identifyNs (nsid : Nat) (e : NsEnt) : List Byte :=
  nvmeData 0 nsid 4096
    [(0, leBytes 8 e.size), (8, leBytes 8 e.size), (25, leBytes 1 0), (26, leBytes 1 0), (34, leBytes 2 0), (36, leBytes 2 0),
     (128, leBytes 4 (12 * 2 ^ 16))]

/-- Namespace `m`, where its cartridge is mounted or locked and holds it. -/
def Dev.nsOf (d : Dev) (m : Nat) : Option NsEnt :=
  let (p, k) := nsPlace m
  if m = 0 ∨ 64 < m ∨ !(d.cartState p == 4 || d.cartState p == 5) then none
  else
    let e := d.nsEnt p k
    if e.size = 0 then none else some e

/-- Identify: CNS 0x00 to 0x03. -/
def Dev.nvIdentify (d : Dev) (c : NvmeCmd) : Dev :=
  let m := c.d 1
  match c.d 10 % 256 with
  | 0 =>
    match d.nsOf m with
    | some e => if e.attached then (d.prpWrite c (identifyNs m e)).admEnd c 0 else d.admEnd c (nvmeStatus 0 0x0B 1)
    | none => d.admEnd c (nvmeStatus 0 0x0B 1)
  | 1 => (d.prpWrite c (identifyCtrl d.hub.boot.version)).admEnd c 0
  | 2 =>
    let ids := (List.range 65).filter fun i => decide (m < i) && (match d.nsOf i with | some e => e.attached | none => false)
    (d.prpWrite c (ids.flatMap (leBytes 4) ++ List.replicate (4096 - 4 * ids.length) 0)).admEnd c 0
  | 3 =>
    match d.nsOf m with
    | some _ => (d.prpWrite c (nvmeData 3 m 4096 [])).admEnd c 0
    | none => d.admEnd c (nvmeStatus 0 0x0B 1)
  | _ => d.admEnd c stField

def execIdentify (cid : BitVec 16) (s : State) : Out := run s fun d => d.nvAdmin cid.toNat 0x06 Dev.nvIdentify

/-- The log `lid`: SMART shows READONLY in bit 3 of its critical warning (R446); the Sanitize Status log shows SPROG and SSTAT
(R461). [log entry 50: PRESUMED] -/
def Dev.logPage (d : Dev) (lid n : Nat) : List Byte :=
  if lid = 2 then
    let ro := (List.range 4).any fun p => d.on F.CELP_CART_STAT_READONLY p
    nvmeData 0x102 0 n [(0, leBytes 1 (if ro then 8 else 0))]
  else if lid = 0x81 then
    nvmeData 0x181 0 n [(0, leBytes 2 (d.rd F.CEL_SAN_STAT_SPROG)), (2, leBytes 2 (d.rd F.CEL_SAN_STAT_SSTAT))]
  else nvmeData (0x100 + lid) 0 n []

/-- Get Log Page. -/
def Dev.nvLog (d : Dev) (c : NvmeCmd) : Dev :=
  let lid := c.d 10 % 256
  if [1, 2, 3, 5, 0x81].contains lid then
    let n := 4 * (slice (c.d 10) 31 16 + 2 ^ 16 * slice (c.d 11) 15 0 + 1)
    let o := c.d 12 + 2 ^ 32 * c.d 13
    (d.prpWrite c ((d.logPage lid (o + n)).drop o)).admEnd c 0
  else d.admEnd c stField

def execGetLogPage (cid : BitVec 16) (s : State) : Out := run s fun d => d.nvAdmin cid.toNat 0x02 Dev.nvLog

/-! ### Features and shares (R405, R423 to R425, R433) -/

/-- `CEL_SHARE` of tenant `q` (0 for queue 1) takes a value (R425). -/
def Dev.shareWrite (d : Dev) (q v : Nat) : Dev :=
  let v := v % 4096
  let sum0 := d.rd F.CEL_SHARE_STAT_SUM
  let sum := sum0 + v - d.rd F.CEL_SHARE_SHARE 0 q
  let d := (d.wr F.CEL_SHARE_SHARE v 0 q).wr F.CEL_SHARE_STAT_SUM sum
  if 1625 < sum then
    let d := d.wr F.CEL_SHARE_STAT_OVERSUB 1
    if sum0 ≤ 1625 then d.raise 543 0 else d
  else d

def execCelShareWrite (q : Fin 512) (w : Word) (s : State) : Out := bar2 .CEL 0 s fun d => d.shareWrite q w.toNat

/-- The value of a feature: the one set, or its default (WCE 1, the others 0). -/
def Dev.feature (d : Dev) (fid : Nat) : Nat := Tab.get (if fid = 6 then 1 else 0) d.hub.nvme.feats fid

/-- Whether the controller is in an operational power state with no transition. -/
def Dev.psOperational (d : Dev) : Bool := d.hub.nvme.trans == 0 && decide (d.hub.nvme.ps ≤ 1)

/-- Power Management: a change to a non-operational state is an entry, one from it an exit (R433, R434). -/
def Dev.setPower (d : Dev) (ps : Nat) : Dev :=
  d.updNvme fun n =>
    if ps ≤ 1 then
      if 2 ≤ n.ps then { n with trans := 2, target := ps, psOp := ps }
      else if n.trans = 1 then { n with trans := 0, ps := ps, psOp := ps, target := ps }
      else { n with ps := ps, psOp := ps, target := ps }
    else if n.ps = ps then n
    else { n with trans := 1, target := ps, wake := false }

/-- Set Features (R405). -/
def Dev.setFeature (d : Dev) (c : NvmeCmd) : Dev :=
  let fid := c.d 10 % 256
  let v := c.d 11
  let put := fun (d : Dev) (v : Nat) => d.updNvme fun n => { n with feats := Tab.put n.feats fid v }
  if bit (c.d 10) 31 then d.admEnd c (nvmeStatus 0 0x0D 1)
  else
    match fid with
    | 0x01 => (put d v).admEnd c 0
    | 0x02 => if slice v 7 5 ≠ 0 ∨ 3 < slice v 4 0 then d.admEnd c stField else ((put d v).setPower (slice v 4 0)).admEnd c 0
    | 0x05 => if bit v 16 then d.admEnd c stField else (put d v).admEnd c 0
    | 0x06 => (put d (v % 2)).admEnd c 0
    | 0x07 => d.admEnd c 0 (511 + 2 ^ 16 * 511)
    | 0x09 =>
      let iv := v % 2 ^ 16
      if iv = 0 ∨ 512 < iv then d.admEnd c stField else ((d.wrb F.EVT_COAL_CD (bit v 16) 0 iv).vecRecheck iv).admEnd c 0
    | 0x0A => (put d v).admEnd c 0
    | 0x0B => (put d v).admEnd c 0
    | _ => d.admEnd c stField


/-- Set Features of the tenant share: CDW11 [15:0] QID, [27:16] SHARE. -/
def Dev.setShare (d : Dev) (c : NvmeCmd) : Dev :=
  let q := c.d 11 % 2 ^ 16
  if c.d 10 % 256 ≠ 0xC0 then d
  else if bit (c.d 10) 31 then d.admEnd c (nvmeStatus 0 0x0D 1)
  else if q = 0 ∨ 512 < q then d.admEnd c stField
  else (d.shareWrite (q - 1) (slice (c.d 11) 27 16)).admEnd c 0

/-- Set Features with a FID other than that of the tenant share. -/
def Dev.setOther (d : Dev) (c : NvmeCmd) : Dev := if c.d 10 % 256 = 0xC0 then d else d.setFeature c

def execSetFeatures (cid : BitVec 16) (s : State) : Out := run s fun d => d.nvAdmin cid.toNat 0x09 Dev.setOther

def execSetFeaturesTenantShare (cid : BitVec 16) (s : State) : Out := run s fun d => d.nvAdmin cid.toNat 0x09 Dev.setShare

/-- Get Features (R405): SEL 1 and 2 give the default, 3 the capabilities 0b100. -/
def Dev.getFeature (d : Dev) (c : NvmeCmd) : Dev :=
  let fid := c.d 10 % 256
  let sel := slice (c.d 10) 10 8
  let dflt := if fid = 6 then 1 else if fid = 7 then 511 + 2 ^ 16 * 511 else 0
  let iv := c.d 11 % 2 ^ 16
  let now :=
    if fid = 7 then dflt
    else if fid = 9 then iv + 2 ^ 16 * d.rd F.EVT_COAL_CD 0 iv
    else if fid = 0xC0 then iv + 2 ^ 16 * d.rd F.CEL_SHARE_SHARE 0 (iv - 1)
    else if fid = 2 then d.hub.nvme.ps
    else d.feature fid
  if !([1, 2, 5, 6, 7, 9, 0x0A, 0x0B, 0xC0].contains fid) ∨ 3 < sel then d.admEnd c stField
  else if (fid = 9 ∨ fid = 0xC0) ∧ (iv = 0 ∨ 512 < iv) then d.admEnd c stField
  else d.admEnd c 0 (if sel = 3 then 4 else if sel = 1 ∨ sel = 2 then dflt else now)

def execGetFeatures (cid : BitVec 16) (s : State) : Out := run s fun d => d.nvAdmin cid.toNat 0x0A Dev.getFeature

/-- Asynchronous Event Request: four may be outstanding; a fifth ends with 1/05. [log entry 50: PRESUMED] -/
def Dev.nvAer (d : Dev) (c : NvmeCmd) : Dev :=
  if 4 ≤ d.hub.nvme.aers.length then d.admEnd c (nvmeStatus 1 0x05 1)
  else d.updNvme fun n => { n with
    aers := n.aers ++ [c.cid], cmds := n.cmds.eraseP fun y => y.q == 0 && y.cid == c.cid }

def execAsynchronousEventRequest (cid : BitVec 16) (s : State) : Out := run s fun d => d.nvAdmin cid.toNat 0x0C Dev.nvAer

/-- Whether an Abort catches a fetched command (R418): an I/O command that waits for a range lock or for capacity; started Reads and
Verifies move their data in the step that starts them. -/
def NvmeCmd.catchable (c : NvmeCmd) : Bool := c.q != 0 && decide (c.stage ≤ 1)

/-- The slot of an unfetched command with identifier `id` in a submission queue. -/
def Dev.unfetched (d : Dev) (q id : Nat) : Option (NvmeQ × Nat) :=
  match Tab.find d.hub.nvme.sqs q with
  | none => none
  | some x =>
    let n := if x.size = 0 then 0 else (x.tail + x.size - x.head) % x.size
    (((List.range n).map fun i => (x.head + i) % x.size).find? fun i =>
      !x.gone.contains i && (d.sqHead q { x with head := i }).cid == id).map fun i => (x, i)

/-- Abort (R418): bit 0 of dword 0 is 0 where the command was caught; a fifth one while four are outstanding ends with 1/03. -/
def Dev.nvAbort (d : Dev) (c : NvmeCmd) : Dev :=
  let q := c.d 10 % 2 ^ 16
  let id := c.d 10 / 2 ^ 16
  let st := nvmeStatus 0 0x07 0
  let before := (d.hub.nvme.cmds.takeWhile fun y => !(y.q == 0 && y.cid == c.cid)).filter fun y => y.q == 0 && y.opc == 8
  if 4 ≤ before.length then d.admEnd c (nvmeStatus 1 0x03 1)
  else if q = 0 ∧ d.hub.nvme.aers.contains id then
    let d := d.updNvme fun n => { n with aers := n.aers.erase id }
    (d.cqPost 0 (d.cqe 0 id 0 st)).admEnd c 0 0
  else
    match d.hub.nvme.cmds.find? fun y => y.q == q && y.cid == id && !(y.q == 0 && y.cid == c.cid) with
    | some y => if y.catchable then (d.nvEnd q id 0 st).admEnd c 0 0 else d.admEnd c 0 1
    | none =>
      match d.unfetched q id with
      | some (x, i) =>
        let d := d.updNvme fun n => { n with sqs := Tab.put n.sqs q { x with gone := x.gone ++ [i] } }
        (d.cqPost q (d.cqe q id 0 st)).admEnd c 0 0
      | none => d.admEnd c 0 1

def execAbort (cid : BitVec 16) (s : State) : Out := run s fun d => d.nvAdmin cid.toNat 0x08 Dev.nvAbort

/-! ### Namespaces (R456, R458) -/

/-- The LBAs that the namespaces of slice `p` hold. -/
def Dev.usedLbas (d : Dev) (p : Nat) : Nat := ((d.cel p).cart.nss.map fun x => x.2.size).sum

/-- A namespace attribute notice, where the host has enabled it (R405). -/
def Dev.nsNotice (d : Dev) : Dev := if bit (d.feature 0x0B) 8 then d.asyncEvent 2 0 4 else d

/-- The 512-bit key that the random generator draws next (R456). -/
def Dev.drawKey (d : Dev) : Nat := (Config.freeValue d.free) % 2 ^ 512

/-- Namespace Management create: the checks of R458, the lowest free NSID, a new key. -/
def Dev.nsCreate (d : Dev) (c : NvmeCmd) (good : Bool) : Dev :=
  if c.d 10 % 16 ≠ 0 then d
  else if !good then d.admEnd c (nvmeStatus 0 0x04 0)
  else
    let b := d.prpRead c 4096
    let nsze := ofLeBytes (b.take 8)
    let ncap := ofLeBytes ((b.drop 8).take 8)
    let flbas := ofLeBytes ((b.drop 26).take 1)
    let set_ := ofLeBytes ((b.drop 100).take 1)
    if set_ = 0 ∨ 4 < set_ ∨ flbas ≠ 0 ∨ ncap ≠ nsze then d.admEnd c stField
    else
      let p := set_ - 1
      if d.cartState p ≠ 4 ∨ d.on F.CELP_CART_STAT_READONLY p then d.admEnd c (nvmeStatus 0 0x82 0)
      else
        match (List.range 16).find? fun k => (d.nsEnt p k).size == 0 with
        | none => d.admEnd c (nvmeStatus 1 0x16 1)
        | some k =>
          if (d.cel p).cart.ucap < d.usedLbas p + nsze then d.admEnd c (nvmeStatus 1 0x15 1)
          else
            let key := d.drawKey
            if !d.rngOk then d.admEnd c (nvmeStatus 0 0x06 0) else
            let d := ((d.drbg.2.updNs p k fun _ => { size := nsze, key := key }).journal p).idWrite p
            d.admEnd c 0 (16 * p + k + 1)

def execNamespaceCreate (cid : BitVec 16) (good : Bool) (s : State) : Out :=
  run s fun d => d.nvAdmin cid.toNat 0x0D fun d c => d.nsCreate c good

/-- Whether an open stream or an open take lies in namespace `k` of slice `p`. -/
def Dev.nsBusy (d : Dev) (p k : Nat) : Bool :=
  ((d.cel p).strms.any fun x => x.2.open_ && x.2.ns == k) ||
    (d.takeNs p == some k && (List.range 8).any fun t => (d.tq p t).take != 0)

/-- Namespace Management delete: its key is destroyed at once (R458). NSID 0xFFFF_FFFF names every namespace of the mounted
cartridges. -/
def Dev.nsDelete (d : Dev) (c : NvmeCmd) : Dev :=
  if c.d 10 % 16 = 0 then d
  else if c.d 10 % 16 ≠ 1 then d.admEnd c stField
  else
    let ms := if c.d 1 = 0xFFFFFFFF then (List.range 65).filter fun m => (d.nsOf m).isSome else [c.d 1]
    if ms.any fun m => (d.nsOf m).isNone then d.admEnd c (nvmeStatus 0 0x0B 1)
    else if ms.any fun m => (Tab.find d.hub.nvme.san (nsPlace m).1).isSome then d.admEnd c (nvmeStatus 0 0x1D 0)
    else if ms.any fun m => d.nsBusy (nsPlace m).1 (nsPlace m).2 || d.takeNs (nsPlace m).1 == some (nsPlace m).2 then
      d.admEnd c (nvmeStatus 0 0x0C 1)
    else
      let d := ms.foldl (fun d m => ((d.updNs (nsPlace m).1 (nsPlace m).2 fun _ => {}).journal (nsPlace m).1).idWrite (nsPlace m).1) d
      (d.admEnd c 0).nsNotice

def execNamespaceDelete (cid : BitVec 16) (s : State) : Out := run s fun d => d.nvAdmin cid.toNat 0x0D Dev.nsDelete

/-- Namespace Attachment: SEL 0 attaches, 1 detaches controller 0x0001, the only one of the list (R458). -/
def Dev.nsAttach (d : Dev) (c : NvmeCmd) (good : Bool) : Dev :=
  let sel := c.d 10 % 16
  let m := c.d 1
  if 1 < sel then d.admEnd c stField
  else if !good then d.admEnd c (nvmeStatus 0 0x04 0)
  else
    let b := d.prpRead c 4096
    if ofLeBytes (b.take 2) ≠ 1 ∨ ofLeBytes ((b.drop 2).take 2) ≠ 1 then d.admEnd c stField
    else
      match d.nsOf m with
      | none => d.admEnd c (nvmeStatus 0 0x0B 1)
      | some _ => if (Tab.find d.hub.nvme.san (nsPlace m).1).isSome then d.admEnd c (nvmeStatus 0 0x1D 0)
        else (((d.updNs (nsPlace m).1 (nsPlace m).2 fun e => { e with attached := sel == 0 }).idWrite (nsPlace m).1).admEnd c 0).nsNotice

def execNamespaceAttachment (cid : BitVec 16) (good : Bool) (s : State) : Out :=
  run s fun d => d.nvAdmin cid.toNat 0x15 fun d c => d.nsAttach c good

/-! ### Format and sanitise (R459 to R461) -/

/-- The namespaces a Format acts on. -/
def Dev.formatNss (d : Dev) (m : Nat) : List Nat :=
  if m = 0xFFFFFFFF then (List.range 65).filter fun m => (d.nsOf m).isSome && d.cartState (nsPlace m).1 == 4 else [m]

/-- Format NVM with SES `ses`: its namespaces are in 0/84 until it ends (R459). -/
def Dev.nvFormat (d : Dev) (ses : Nat) (c : NvmeCmd) : Dev :=
  let w := c.d 10
  let ms := d.formatNss (c.d 1)
  if slice w 11 9 ≠ ses then d
  else if slice w 3 0 ≠ 0 ∨ bit w 4 ∨ slice w 7 5 ≠ 0 then d.admEnd c stField
  else if ms.any fun m => (d.nsOf m).isNone then d.admEnd c (nvmeStatus 0 0x0B 1)
  else if ms.any fun m => (Tab.find d.hub.nvme.san (nsPlace m).1).isSome then d.admEnd c (nvmeStatus 0 0x1D 0)
  else if ms.any fun m => d.cartState (nsPlace m).1 != 4 then d.admEnd c (nvmeStatus 0 0x82 0)
  else if ms.any fun m => d.nsBusy (nsPlace m).1 (nsPlace m).2 then d.admEnd c (nvmeStatus 0 0x0C 1)
  else if ses = 2 ∧ !d.rngOk then d.admEnd c (nvmeStatus 0 0x06 0)
  else if ms.isEmpty then d.admEnd c 0
  else
    let d := ms.foldl (fun d m => d.updNs (nsPlace m).1 (nsPlace m).2 fun e => { e with fmt := ses + 1 }) d
    d.updNvme fun n => { n with
      fmts := n.fmts ++ [(c.cid, ms, ses)]
      cmds := n.cmds.map fun y => if y.q = 0 ∧ y.cid = c.cid then { y with stage := 3 } else y }

/-- A Format whose SES is none of the three. -/
def Dev.formatBad (d : Dev) (c : NvmeCmd) : Dev := if 2 < slice (c.d 10) 11 9 then d.admEnd c stField else d.nvFormat 0 c

def execFormatNvmDeallocate (cid : BitVec 16) (s : State) : Out := run s fun d => d.nvAdmin cid.toNat 0x80 Dev.formatBad
def execFormatNvmErase (cid : BitVec 16) (s : State) : Out := run s fun d => d.nvAdmin cid.toNat 0x80 (fun d c => d.nvFormat 1 c)
def execFormatNvmCryptoErase (cid : BitVec 16) (s : State) : Out := run s fun d => d.nvAdmin cid.toNat 0x80 (fun d c => d.nvFormat 2 c)

/-- Every LBA of a namespace is deallocated, under a new key for a crypto erase; the directory of the take namespace goes with
it. -/
def Dev.nsErase (d : Dev) (p k : Nat) (newKey : Bool) : Dev :=
  let take := d.takeNs p == some k
  let key := d.drawKey
  let d := if newKey then (d.drbg.2.idWrite p).idWrite p else d
  let d := d.updNs p k fun e => { e with data := [], fmt := 0, key := if newKey then key else e.key }
  let d := if take then d.updCart p fun c => { c with dir := [] } else d
  d.journal p

/-- The format of namespace `m` completes; the command completes after its last namespace (R459). A format resumed at a mount
completes no command (R461). -/
def Dev.formatDone (d : Dev) (m : Nat) : Dev :=
  let (p, k) := nsPlace m
  let f := (d.nsEnt p k).fmt
  if f = 0 ∨ d.cartState p ≠ 4 then d
  else
    let d := d.nsErase p k (f == 3)
    let d := d.updNvme fun n => { n with fmts := n.fmts.map fun x => (x.1, x.2.1.filter fun y => y != m, x.2.2) }
    let past := d.hub.nvme.fmts.filter fun x => x.2.1.isEmpty
    let d := d.updNvme fun n => { n with fmts := n.fmts.filter fun x => !x.2.1.isEmpty }
    past.foldl (fun d x => d.nvEnd 0 x.1 0 0) d

def execFormatDone (nsid : Fin 65) (s : State) : Out := run s fun d => d.formatDone nsid

/-- Sanitize with SANACT `act` (R460): the command completes at once and the operation runs on every cartridge MOUNTED or LOCKED. -/
def Dev.nvSanitize (d : Dev) (act : Nat) (c : NvmeCmd) : Dev :=
  let a := slice (c.d 10) 2 0
  let carts := (List.range 4).filter fun p => d.cartState p == 4 || d.cartState p == 5
  let busy := (List.range 4).any fun p =>
    ((List.range 8).any fun t => (d.tq p t).take != 0) || ((d.cel p).strms.any fun x => x.2.open_) ||
      ((d.cel p).cart.nss.any fun x => x.2.fmt != 0)
  if a ≠ act then d
  else if !d.hub.nvme.san.isEmpty then d.admEnd c (nvmeStatus 0 0x1D 0)
  else if busy then d.admEnd c (nvmeStatus 0 0x0C 1)
  else if act = 4 ∧ !d.rngOk then d.admEnd c (nvmeStatus 0 0x06 0)
  else
    let d := carts.foldl (fun d p => (d.updCart p fun c => { c with sanitize := true }).idWrite p) d
    let d := d.updNvme fun n => { n with san := carts.map fun p => (p, act), sanDone := false }
    let mask := ((List.range 4).map fun p => if carts.contains p then 2 ^ p else 0).sum
    let d := ((d.wr F.CEL_SAN_STAT_SSTAT (if carts.isEmpty then 1 else 2)).wr F.CEL_SAN_STAT_CARTS mask).wr F.CEL_SAN_STAT_SPROG 0
    d.admEnd c 0

/-- A Sanitize whose SANACT is none of the three ends with 0/02. -/
def Dev.sanBad (d : Dev) (c : NvmeCmd) : Dev :=
  if [2, 3, 4].contains (slice (c.d 10) 2 0) then d.nvSanitize 2 c else d.admEnd c stField

def execSanitizeBlockErase (cid : BitVec 16) (s : State) : Out := run s fun d => d.nvAdmin cid.toNat 0x84 Dev.sanBad
def execSanitizeOverwrite (cid : BitVec 16) (s : State) : Out := run s fun d => d.nvAdmin cid.toNat 0x84 (fun d c => d.nvSanitize 3 c)
def execSanitizeCryptoErase (cid : BitVec 16) (s : State) : Out := run s fun d => d.nvAdmin cid.toNat 0x84 (fun d c => d.nvSanitize 4 c)

/-- The sanitise of slice `p`'s cartridge completes; SSTAT reads completed when the last one has (R461). -/
def Dev.sanDone (d : Dev) (p : Nat) : Dev :=
  match Tab.find d.hub.nvme.san p with
  | none => d
  | some act =>
    let d := (d.cel p).cart.nss.foldl (fun d x => d.nsErase p x.1 (act == 4)) d
    let d := (d.updCart p fun c => { c with sanitize := false, dir := [], jseq := if act = 2 then 0 else c.jseq }).idWrite p
    let d := d.updNvme fun n => { n with san := Tab.del n.san p }
    let last := d.hub.nvme.san.isEmpty
    let d := if last then (d.wr F.CEL_SAN_STAT_SSTAT 1).wr F.CEL_SAN_STAT_SPROG 0xFFFF else d
    d.raise 544 (pack [(2, p), (3, if last then 1 else 2)])

def execSanitizeDone (p : Pipe) (s : State) : Out := run s fun d => d.sanDone p

/-! ### I/O commands (R407 to R416) -/

/-- The first LBA and the number of LBAs of a read or write. -/
def NvmeCmd.slba (c : NvmeCmd) : Nat := c.d 10 + 2 ^ 32 * c.d 11
def NvmeCmd.nlb (c : NvmeCmd) : Nat := c.d 12 % 2 ^ 16 + 1

/-- Whether a tenant's write of a range is denied: the range of an open stream, the directory, an extent of an open take. -/
def Dev.writeDenied (d : Dev) (p k lba n : Nat) : Bool :=
  d.strmOverlap p k lba n ||
    (d.takeNs p == some k &&
      (overlaps 0 dirLbas lba n ||
        (d.cel p).cart.dir.any fun x => x.2.state == 0 && x.2.kind != 0xFF && x.2.exts.any fun e => overlaps e.1 e.2 lba n))

/-- The state of namespace `k` of slice `p` for an I/O command: 0, or the status it ends with. -/
def Dev.nsStatus (d : Dev) (p k : Nat) : Nat :=
  let st := d.cartState p
  if (Tab.find d.hub.nvme.san p).isSome then nvmeStatus 0 0x1D 0
  else if st = 5 then nvmeStatus 2 0x86 1
  else if st ≠ 4 then nvmeStatus 0 0x82 0
  else if (d.nsEnt p k).size = 0 ∨ !(d.nsEnt p k).attached then nvmeStatus 0 0x0B 1
  else if (d.nsEnt p k).fmt ≠ 0 then nvmeStatus 0 0x84 0
  else 0

/-- A command of the I/O set is admitted by its slice in the order of fetching: it ends with a status, or takes an entry for each
range and waits for their grant. A new command waits while a re-seat is being decided (R444). [log entry 51: DEDUCED] -/
def Dev.nvAdmit (d : Dev) (q cid opc : Nat) (ranges : Dev → NvmeCmd → List (Nat × Nat)) (wr : Bool) (most : Nat) : Dev :=
  if !d.nvLive then d
  else
    match d.hub.nvme.cmds.find? fun c => c.q == q && c.cid == cid && c.stage == 0 with
    | none => d
    | some c =>
      let p := c.slice
      let k := (nsPlace (c.d 1)).2
      let older := d.hub.nvme.cmds.takeWhile fun y => !(y.q == q && y.cid == cid)
      let first := older.all fun y => y.q == 0 || y.stage != 0 || y.slice != p
      let st := d.cartState p
      if c.opc ≠ opc ∨ q = 0 ∨ !first ∨ ((d.cel p).reseat ∧ (st = 1 ∨ st = 2 ∨ st = 3)) then d
      else
        let rs := ranges d c
        let size := (d.nsEnt p k).size
        let status := d.nsStatus p k
        if status ≠ 0 then d.nvEnd q cid 0 status
        else if 896 < tenantLocks (d.cel p).locks + rs.length then d
        else if rs.any fun r => most < r.2 then d.nvEnd q cid 0 stField
        else if rs.any fun r => size < r.1 + r.2 then d.nvEnd q cid 0 (nvmeStatus 0 0x80 1)
        else if wr && rs.any fun r => d.writeDenied p k r.1 r.2 then d.nvEnd q cid 0 (nvmeStatus 2 0x86 1)
        else if wr && d.on F.CELP_CART_STAT_READONLY p then d.nvEnd q cid 0 (nvmeStatus 2 0x80 0)
        else
          let d := d.updCel p fun x => { x with locks := x.locks ++ rs.map fun r => ⟨k, r.1, r.2, wr, q, cid⟩ }
          let d := d.updNvme fun n => { n with cmds := n.cmds.map fun y => if y.q = q ∧ y.cid = cid then { y with stage := 1 } else y }
          let d := d.showLocks p 0
          if d.lockFree p q cid then d else d.bump C.CELP_LOCKWAIT_CNT p

/-- The one range of a command. -/
def oneRange (_ : Dev) (c : NvmeCmd) : List (Nat × Nat) := [(c.slba, c.nlb)]

/-- The ranges of a Dataset Management command: 16 bytes each in host memory; none are touched without AD. -/
def dsmRanges (d : Dev) (c : NvmeCmd) : List (Nat × Nat) :=
  if !bit (c.d 11) 2 then []
  else
    let n := c.d 10 % 256 + 1
    let b := d.prpRead c (16 * n)
    (List.range n).map fun i => (ofLeBytes ((b.drop (16 * i + 8)).take 8), ofLeBytes ((b.drop (16 * i + 4)).take 4))

def execWrite (q : Fin 513) (cid : BitVec 16) (s : State) : Out := run s fun d => d.nvAdmit q cid.toNat 0x01 oneRange true 512
def execRead (q : Fin 513) (cid : BitVec 16) (s : State) : Out := run s fun d => d.nvAdmit q cid.toNat 0x02 oneRange false 512
def execWriteZeroes (q : Fin 513) (cid : BitVec 16) (s : State) : Out := run s fun d => d.nvAdmit q cid.toNat 0x08 oneRange true 65536
def execDatasetManagement (q : Fin 513) (cid : BitVec 16) (s : State) : Out :=
  run s fun d => d.nvAdmit q cid.toNat 0x09 dsmRanges true (2 ^ 32)
def execVerify (q : Fin 513) (cid : BitVec 16) (s : State) : Out := run s fun d => d.nvAdmit q cid.toNat 0x0C oneRange false 65536

/-- Whether a Flush admitted at piece `mark` is done on slice `p`: every write completed before it is committed (R414). -/
def Dev.flushDone (d : Dev) (p mark : Nat) : Bool := !(d.cel p).pieces.any fun x => x.tenant && x.owner.isNone && decide (x.id < mark)

/-- The slices a Flush acts on. -/
def NvmeCmd.flushSlices (c : NvmeCmd) : List Nat := if c.d 1 = 0xFFFFFFFF then [0, 1, 2, 3] else [c.slice]

/-- Completes every Flush whose writes are committed. -/
def Dev.flushes (d : Dev) : Dev :=
  let go := d.hub.nvme.cmds.filter fun c =>
    c.q != 0 && c.opc == 0 && c.stage == 3 && c.flushSlices.all fun p => d.flushDone p c.mark
  go.foldl (fun d c => d.nvEnd c.q c.cid 0 0) d

/-- Flush (R414): it takes no entry and completes when every write completed before it is committed. -/
def Dev.nvFlush (d : Dev) (q cid : Nat) : Dev :=
  if !d.nvLive then d
  else
    match d.hub.nvme.cmds.find? fun c => c.q == q && c.cid == cid && c.stage == 0 with
    | none => d
    | some c =>
      if c.opc ≠ 0 ∨ q = 0 then d
      else
        let st := if c.d 1 = 0xFFFFFFFF then 0 else d.nsStatus c.slice (nsPlace (c.d 1)).2
        if st ≠ 0 then d.nvEnd q cid 0 st
        else
          (d.updNvme fun n => { n with
            cmds := n.cmds.map fun y => if y.q = q ∧ y.cid = cid then { y with stage := 3, mark := n.pid } else y }).flushes

def execFlush (q : Fin 513) (cid : BitVec 16) (s : State) : Out := run s fun d => d.nvFlush q cid.toNat

/-- Counts the bytes a command of tenant `q` moved at an arbiter: slices 0 to 3, and 4 for the host port. -/
def Dev.tenantMoved (d : Dev) (a q n : Nat) : Dev :=
  d.updNvme fun x => { x with moved := Tab.put x.moved (1024 * a + q) (Tab.get 0 x.moved (1024 * a + q) + n) }

/-- A command's pieces take their places in the write buffer as its entries are granted, cut at LBA multiples of 128 (R412, R413). A Write's
data is not there yet. -/
def Dev.nvPieces (d : Dev) (c : NvmeCmd) (rs : List (Nat × Nat)) (ready : Bool) : Dev :=
  let ps := rs.flatMap fun r => cutPieces r.1 r.2
  let d := ps.foldl (fun d x => d.pieceAdd c.slice
    { id := 0, ns := (nsPlace (c.d 1)).2, lba := x.1, n := x.2, data := none, owner := some (c.q, c.cid), ready := ready }) d
  d.updNvme fun n => { n with
    cmds := n.cmds.map fun y => if y.q = c.q ∧ y.cid = c.cid then { y with stage := if ready then 3 else 2, left := ps.length } else y }

/-- What a command writes is in the write buffer: with the write cache on, or with nothing to commit, its completion follows at once (R414). -/
def Dev.nvCached (d : Dev) (q cid : Nat) : Dev :=
  let none_ := d.hub.nvme.cmds.any fun y => y.q == q && y.cid == cid && y.left == 0
  if d.feature 6 % 2 = 1 ∨ none_ then d.nvEnd q cid 0 0 else d

/-- A command that touches regions not yet rebuilt has them rebuilt first (R450). -/
def Dev.rebuildFor (d : Dev) (p k : Nat) (rs : List (Nat × Nat)) : Dev :=
  let hit := (d.cel p).rebuild.filter fun x => x.1 == k && rs.any fun r => overlaps (extentLbas * x.2) extentLbas r.1 r.2
  hit.foldl (fun d x => d.rebuildRegion p x) d

/-- The entries of a command are granted and it starts (R409): a Read's data goes to the host, a Verify checks, a Write asks the host
for its data, zeroes and deallocations enter the write buffer. `bad` says that flash data cannot be corrected (R416). Tenants get no
capacity while HOLD4 is set (R426), and wait for an exit from a non-operational state unless the slice has an open take or stream
(R434, R435). -/
def Dev.nvStart (d : Dev) (q cid : Nat) (bad : Bool) : Dev :=
  match d.hub.nvme.cmds.find? fun c => c.q == q && c.cid == cid && c.stage == 1 with
  | none => d
  | some c =>
    let p := c.slice
    let k := (nsPlace (c.d 1)).2
    let awake := d.psOperational || ((d.cel p).strms.any fun x => x.2.open_) || ((List.range 8).any fun t => (d.tq p t).take != 0)
    if !d.nvLive || !d.lockFree p q cid || d.on F.CELP_RB_STAT_HOLD4 p || !awake || d.cartState p != 4 then d
    else
      let n := 4096 * c.nlb
      let rs := ((d.cel p).locks.filter fun x => x.q == q && x.cid == cid).map fun x => (x.lba, x.n)
      let d := d.rebuildFor p k rs
      if c.opc = 0x02 then
        if bad then d.nvEnd q cid 0 (nvmeStatus 2 0x81 0)
        else if !d.hostOk then d
        else
          let d := d.prpWrite c (d.lbaRead p k c.slba c.nlb)
          ((d.tenantMoved p q n).tenantMoved 4 q n).nvEnd q cid 0 0
      else if c.opc = 0x0C then d.nvEnd q cid 0 (if bad then nvmeStatus 2 0x81 0 else 0)
      else if c.opc = 0x01 then
        (d.nvPieces c rs false).updHub fun h => { h with hreq := h.hreq ++ [.nvme q cid] }
      else (d.nvPieces c rs true).nvCached q cid

def execRangeLockGrant (q : Fin 513) (cid : BitVec 16) (bad : Bool) (s : State) : Out := run s fun d => d.nvStart q cid.toNat bad

/-- The host's data for a Write arrives (R414), or a completion error or poisoned TLP ends it with Data Transfer Error (R416). -/
def Dev.nvData (d : Dev) (q cid : Nat) (good : Bool) : Dev :=
  match d.hub.nvme.cmds.find? fun c => c.q == q && c.cid == cid && c.stage == 2 with
  | none => d
  | some c =>
    if !good then d.nvEnd q cid 0 (nvmeStatus 0 0x04 0)
    else
      let n := 4096 * c.nlb
      let bs := d.prpRead c n
      let d := d.updCel c.slice fun y => { y with
        pieces := y.pieces.map fun x =>
          if x.owner = some (q, cid) then { x with ready := true, data := some ((bs.drop (4096 * (x.lba - c.slba))).take (4096 * x.n)) } else x }
      let d := d.updNvme fun n => { n with cmds := n.cmds.map fun y => if y.q = q ∧ y.cid = cid then { y with stage := 3 } else y }
      ((d.tenantMoved c.slice q n).tenantMoved 4 q n).nvCached q cid

/-- The oldest piece of slice `p`'s write buffer is committed: its data and its journal record are on flash, its command completes
after its last piece (R413, R414). -/
def Dev.pieceCommit (d : Dev) (p : Nat) : Dev :=
  if d.cartState p ≠ 4 then d
  else
    match (d.cel p).pieces with
    | [] => d
    | x :: rest =>
      if !x.ready || (!x.tenant && !d.lockFree p 0 x.id) then d
      else
        let d := (d.updCel p fun c => { c with pieces := rest }).pieceStore p x
        let d := if x.tenant then d else d.lockRelease p 0 x.id
        match x.owner with
        | none => d.flushes
        | some (q, cid) =>
          let d := d.updNvme fun n => { n with
            cmds := n.cmds.map fun y => if y.q = q ∧ y.cid = cid then { y with left := y.left - 1 } else y }
          let d := if d.hub.nvme.cmds.any fun y => y.q == q && y.cid == cid && y.left == 0 then d.nvEnd q cid 0 0 else d
          d.flushes

def execPieceCommit (p : Pipe) (s : State) : Out := run s fun d => d.pieceCommit p

/-! ### Windows and power (R423, R424, R434) -/

/-- The bytes a tenant's share gives in a 10 ms window, and the divisor they are taken over: the share scaled where the sum is
above 1,625 (R425). -/
def Dev.shareBytes (d : Dev) (q : Nat) : Nat × Nat :=
  let b := d.rd F.CEL_SHARE_SHARE 0 q * 160000
  let sum := d.rd F.CEL_SHARE_STAT_SUM
  if 1625 < sum then (b * 1625, sum) else (b, 1)

/-- The fraction of its share a tenant got, in 1/1,024, saturating; 0x7FF for a best-effort tenant. -/
def Dev.shareFrac (d : Dev) (a q : Nat) : Nat :=
  let (b, k) := d.shareBytes q
  if b = 0 then 0x7FF else min 0x7FF (Tab.get 0 d.hub.nvme.moved (1024 * a + q + 1) * k * 1024 / b)

/-- A window ends at arbiter `a` (slices 0 to 3, the host port 4): each tenant's fraction and shortfall; `waits` are the tenants
(0 for queue 1) with commands waiting for the whole window, `taken` says that a higher rank took the capacity (R424): at a slice with a take open that is rank 1, otherwise rank 3. [log entry 52: DESIGN CHOICE] -/
def Dev.tenantWindow (d : Dev) (a : Nat) (waits : List Nat) (taken : Bool) : Dev :=
  let seen := (d.hub.nvme.moved.filter fun x => x.1 / 1024 == a).map fun x => x.1 % 1024 - 1
  let all := waits ++ seen.filter fun q => !waits.contains q
  let short := waits.filter fun q => decide (d.shareFrac a q < 1024)
  let worst := (short.map fun q => (d.shareFrac a q, q)).foldl
    (fun (m : Option (Nat × Nat)) x => match m with | none => some x | some y => if x.1 < y.1 then some x else some y) none
  let d := all.foldl (fun d q =>
    ((d.wrb F.CEL_TSTAT_WAIT (waits.contains q) 0 q).wrb F.CEL_TSTAT_SHORT (short.contains q) 0 q).wr
      F.CEL_TSTAT_FRAC (d.shareFrac a q) 0 q) d
  let d := d.updNvme fun n => { n with moved := n.moved.filter fun x => x.1 / 1024 != a }
  match worst with
  | none => d
  | some (f, q) =>
    if !taken then d
    else
      let res := if a = 4 then 4 else 0
      let same := fun (y : Yield) => y.origin == a && y.yrank == 4 && y.res == res
      if d.yielding same then
        d.updRouter fun r => { r with yields := r.yields.map fun y => if same y then { y with amount := min y.amount f } else y }
      else d.yieldBegin { origin := a, yrank := 4, krank := if a < 4 && d.on F.PCTL_STAT_TAKE a then 1 else 3, res := res, object := q + 1, cause := if a = 4 then 6 else 1,
                          began := 0, amount := f }

def execTenantWindowEnd (a : Unit5) (waits : List (Fin 512)) (taken : Bool) (s : State) : Out :=
  run s fun d => d.tenantWindow a (waits.map (·.val)) taken

/-- A transition of the power state completes: an entry that a command has overtaken is followed by its exit (R434). -/
def execPowerStateTransitionDone (s : State) : Out := run s fun d => d.updNvme fun n =>
  if n.trans = 1 then
    if n.wake then { n with ps := n.target, trans := 2, target := n.psOp, wake := false } else { n with ps := n.target, trans := 0 }
  else if n.trans = 2 then { n with ps := n.target, psOp := n.target, trans := 0 }
  else n

end Sys2Proof.Machine
end

