-- ==== Sys2Proof/Machine/Rack.lean ====
section
/-!
DEFINITION. The racking engines (chapter 3, R116 to R132): descriptor rings, the moves, halting, abort and resume. Instance `u` is
a pipe, or 4 for the Hub.
-/
namespace Sys2Proof.Machine

/-- The racking engine of `u`. -/
def Dev.rack (d : Dev) (u : Nat) : Rack := if u = 4 then d.hub.rack else (d.pipe u).rack

/-- The device with the racking engine of `u` changed. -/
def Dev.updRack (d : Dev) (u : Nat) (f : Rack → Rack) : Dev :=
  if u = 4 then d.updHub fun h => { h with rack := f h.rack } else d.updPipe u fun s => { s with rack := f s.rack }

/-- Channel `c` of `u`. -/
def Dev.rch (d : Dev) (u c : Nat) : RackCh := Tab.get {} (d.rack u).chs c

/-- The device with a channel replaced. -/
def Dev.putRch (d : Dev) (u c : Nat) (x : RackCh) : Dev := d.updRack u fun r => { r with chs := Tab.set {} r.chs c x }

/-- The slots of a channel's ring: RSIZE outside 4 to 16 applies 4. -/
def Dev.rackSlots (d : Dev) (u c : Nat) : Nat :=
  let r := d.rd F.RACK_CH_CFG_RSIZE u c
  2 ^ (if 4 ≤ r ∧ r ≤ 16 then r else 4)

/-- Whether the ring lies in host memory: always for a Hub channel (R120). The reserved RLOC 0x2 and 0x3 apply 0x0, pipe DRAM. [log entry 31: DEDUCED; log entry 89: DESIGN CHOICE] -/
def Dev.rackHostRing (d : Dev) (u c : Nat) : Bool := u == 4 || d.rd F.RACK_CH_CFG_RLOC u c == 1

/-- The address of a ring slot. -/
def Dev.rackSlotAt (d : Dev) (u c i : Nat) : Nat :=
  d.rd64 F.RACK_RING_LO_BASE_LO F.RACK_RING_HI_BASE_HI u c + 32 * i

/-- The DRAM source number of an engine's channel (R471). -/
def rackSrc (u c : Nat) : Nat := if u = 4 then 0x2D else c

/-- `CH_STAT.STATE`: 0 OFF, 1 IDLE, 2 RUN, 3 HALTED, 4 ABORTING. -/
def Dev.rackState (d : Dev) (u c : Nat) : Nat := d.rd F.RACK_CH_STAT_STATE u c

/-- Word `i` of a descriptor. -/
def RackJob.w (j : RackJob) (i : Nat) : Nat := j.ws.getD i 0

/-- The fields of a descriptor (R122). -/
def RackJob.src (j : RackJob) : Nat := slice (j.w 0) 31 28
def RackJob.dst (j : RackJob) : Nat := slice (j.w 0) 27 24
def RackJob.irq (j : RackJob) : Bool := bit (j.w 0) 23
def RackJob.fence (j : RackJob) : Bool := bit (j.w 0) 22
def RackJob.item (j : RackJob) : Bool := bit (j.w 0) 21
def RackJob.tag (j : RackJob) : Nat := slice (j.w 0) 15 0
def RackJob.len (j : RackJob) : Nat := j.w 1
def RackJob.saddr (j : RackJob) : Nat := j.w 2 + 2 ^ 32 * j.w 3
def RackJob.daddr (j : RackJob) : Nat := j.w 4 + 2 ^ 32 * j.w 5

/-- Whether a descriptor touches host memory. -/
def RackJob.host (j : RackJob) : Bool := j.src == 3 || j.dst == 3

/-- Whether host memory can be reached by an engine's channels (R132). -/
def Dev.rackHostOk (d : Dev) (u : Nat) : Bool := d.hostOk && !(decide (u < 4) && d.inArun u)

/-- Channel `c` halts with a status at slot `i` (R128). [log entry 31: DEDUCED] -/
def Dev.rackHalt (d : Dev) (u c status i : Nat) : Dev :=
  let d := ((d.wr F.RACK_CH_STAT_STATE 3 u c).wr F.RACK_CH_STAT_LSTATUS status u c).wr F.RACK_CH_STAT_HIDX i u c
  let d := d.wr F.RACK_GSTAT_HALTED (setBit (d.rd F.RACK_GSTAT_HALTED u) c) u
  let syn := pack [(4, c), (8, status)]
  if u = 4 then d.raise 518 syn else d.raiseP u 7 syn

/-- Whether an address word pair is one that its kind allows (R123, R124): 0, or the status the descriptor ends with. -/
def Dev.rackAddr (d : Dev) (u c kind a len : Nat) (prod : Bool) : Nat :=
  if kind = 0 then
    let k := a
    if caskCount u ≤ k then 0x10
    else if (if prod then d.caskProd u k (0x3000 + c) else d.caskCons u k (0x3000 + c)) then 0 else 0x10
  else if kind = 1 then
    let p := if u = 4 then a / 2 ^ 40 % 4 else u
    if (if u = 4 then 2 ^ 42 else 2 ^ 40) ≤ a ∨ a % 8 ≠ 0 then 0x10
    else if d.dramInMap p (a % 2 ^ 40) len then 0 else 0x11
  else if kind = 2 then (if u = 4 ∨ 2 ^ 16 ≤ a ∨ a % 8 ≠ 0 then 0x10 else 0)
  else if kind = 3 then (if a % 8 = 0 then 0 else 0x10)
  else 0

/-- The checks before any data moves (R124, R132, R432): 0, or the status. -/
def Dev.rackCheck (d : Dev) (u c : Nat) (j : RackJob) : Nat :=
  let sa := d.rackAddr u c j.src j.saddr j.len false
  let da := d.rackAddr u c j.dst j.daddr j.len true
  if 4 < j.src ∨ 3 < j.dst ∨ slice (j.w 0) 20 16 ≠ 0 ∨ j.len % 8 ≠ 0 ∨ j.len = 0 ∨ sa = 0x10 ∨ da = 0x10 then 0x10
  else if sa = 0x11 ∨ da = 0x11 then 0x11
  else if u = 4 ∧ j.src = 1 ∧ j.dst = 1 ∧ j.saddr / 2 ^ 40 ≠ j.daddr / 2 ^ 40 then 0x12
  else if (j.src = 2 ∧ (d.strmOf u j.saddr).isNone) ∨ (j.dst = 2 ∧ (d.strmOf u j.daddr).isNone) then 0x13
  else if j.host && !d.rackHostOk u then 0x14
  else 0

/-- The running descriptor ends with a status and waits for its write-back; a word kept back goes out as the last one, with END (R126). [log entry 31: DEDUCED] -/
def Dev.rackEnd (d : Dev) (u c status : Nat) : Dev :=
  let x := d.rch u c
  match x.job with
  | none => d
  | some j =>
    let d := d.putRch u c { x with job := none, reading := false, done := x.done ++ [({ j with hold := none }, status)] }
    match j.hold with
    | some w => d.caskSend u j.daddr (0x3000 + c) [{ w with fin := true }]
    | none => d

/-- The next slot after `i`. -/
def Dev.rackNext (d : Dev) (u c i : Nat) : Nat := if i + 1 < d.rackSlots u c then i + 1 else 0

/-- A fetched descriptor is checked and starts, or ends at once (R124). A FENCE waits for every earlier write-back (R122). -/
def Dev.rackBegin (d : Dev) (u c : Nat) (ws : List Nat) : Dev :=
  let x := d.rch u c
  let j : RackJob := { slot := x.next, ws := ws }
  if j.fence && !x.done.isEmpty then d.putRch u c { x with fetching := false }
  else
    let d := d.putRch u c { x with fetching := false, next := d.rackNext u c x.next, job := some j }
    let d := d.wr F.RACK_CH_STAT_STATE 2 u c
    let st := d.rackCheck u c j
    if st = 0 then d else d.rackEnd u c st

/-- Whether an ended descriptor that waits for its write-back halts the channel. -/
def haltsStatus (j : RackJob) (st : Nat) : Bool := decide (0x10 ≤ st) || (st == 1 && j.dst == 2)

/-- A channel with descriptors posted fetches the next one; from host memory it waits for the data. A fetch that fails halts it with
RING_ERROR (R128). [log entry 31: DEDUCED] -/
def Dev.rackStart (d : Dev) (u c : Nat) : Dev :=
  let x := d.rch u c
  let st := d.rackState u c
  if !d.on F.RACK_CH_CFG_EN u c || !(st == 1 || st == 2) || x.fetching || x.job.isSome || x.abort ||
      x.next == d.rd F.RACK_TAIL_TAIL u c || (x.done.any fun y => haltsStatus y.1 y.2) then d
  else
    let a := d.rackSlotAt u c x.next
    if d.rackHostRing u c then
      if d.rackHostOk u then
        (d.putRch u c { x with fetching := true }).updHub fun h => { h with hreq := h.hreq ++ [.rackDesc u c] }
      else d.rackHalt u c 0x16 x.next
    else
      let (bs, psn, d) := d.dramRead u (rackSrc u c) (a % 2 ^ 40) 24
      if psn then d.rackHalt u c 0x16 x.next else d.rackBegin u c (words32 bs)

def execRackDescStart (u : Unit5) (c : Fin 16) (s : State) : Out :=
  runIf (decide (c.val < rackChannels u)) s fun d => d.rackStart u c

/-- The descriptor's data has come from the host. -/
def Dev.rackDescData (d : Dev) (u c : Nat) (good : Bool) : Dev :=
  let x := d.rch u c
  if !x.fetching then d
  else if !good then (d.putRch u c { x with fetching := false }).rackHalt u c 0x16 x.next
  else d.rackBegin u c (words32 (d.hostMem.reads (d.rackSlotAt u c x.next) 24))

/-! ### Moving data (R125, R126) -/

/-- Words of a burst at map address `a` of pipe `p`'s DRAM: each 32-byte word of the memory is written once, with poison where a word of
the burst in it is poisoned (R125, R479). -/
def Dev.rackDram (d : Dev) (p src a : Nat) (ws : List CaskWord) : Dev :=
  (wordsOf a (8 * ws.length)).foldl (fun d w =>
    let at_ := ws.zip (List.range ws.length) |>.filter fun x => (a + 8 * x.2) / 32 == w
    match at_ with
    | [] => d
    | x :: _ => d.dramWrite p src (a + 8 * x.2) (at_.flatMap fun y => leBytes 8 y.1.data) (at_.any fun y => y.1.psn)) d

/-- Writes a burst's words at the destination: false where it refused them (`refused` says that host memory does). In item mode a cask's
newest word is kept back (R126); a word that is poisoned goes to host memory with the EP bit set (R125). -/
def Dev.rackPut (d : Dev) (u c : Nat) (j : RackJob) (ws : List CaskWord) (refused : Bool) : Bool × Option CaskWord × Dev :=
  let bs := ws.flatMap fun w => leBytes 8 w.data
  if j.dst = 0 then
    let plain := ws.map fun w => { data := w.data, psn := w.psn }
    if j.item then
      let all := j.hold.toList ++ plain
      (true, all.getLast?, d.caskSend u j.daddr (0x3000 + c) all.dropLast)
    else (true, none, d.caskSend u j.daddr (0x3000 + c) plain)
  else if j.dst = 1 then
    let p := if u = 4 then j.daddr / 2 ^ 40 % 4 else u
    (true, none, d.rackDram p (rackSrc u c) (j.daddr % 2 ^ 40 + j.moved) ws)
  else if j.dst = 2 then
    let (ok, d) := d.strmAppend u j.daddr bs
    (ok, none, d)
  else if refused then (false, none, d)
  else
    let a := j.daddr + j.moved
    let ep := (ws.zip (List.range ws.length)).filterMap fun x => if x.1.psn then some (a + 8 * x.2) else none
    (true, none, (d.hostWrite a bs).updRack u fun r => { r with ep := r.ep ++ ep })

/-- The words before the first poisoned one. -/
def soundWords (ws : List CaskWord) : List CaskWord := ws.takeWhile fun w => !w.psn

/-- The stream's partial unit loses the bytes a descriptor put into it: it ends at the last whole 4 KiB unit (R125). -/
def Dev.strmTrim (d : Dev) (p h n : Nat) : Nat × Dev :=
  match d.strmOf p h with
  | none => (0, d)
  | some k =>
    let x := d.strm p k
    let cut := min n x.part.length
    (cut, d.putStrm p k { x with part := x.part.take (x.part.length - cut) })

/-- A burst's words move to the destination; `fin` is the status the descriptor then ends with where its source has ended it. [log entry 49: DESIGN CHOICE] -/
def Dev.rackMove (d : Dev) (u c : Nat) (j : RackJob) (ws : List CaskWord) (fin : Option Nat) (refused : Bool) : Dev :=
  let psn := ws.any fun w => w.psn
  let good := if j.dst = 2 then soundWords ws else ws
  let whole := decide (j.len ≤ j.moved + 8 * good.length)
  let fin := match fin with | some f => some f | none => if whole then some 0 else none
  let (ok, hold, d) := d.rackPut u c j good refused
  let n := if ok then 8 * good.length else 0
  let j' := { j with moved := j.moved + n, psn := j.psn || psn, hold := hold }
  let d := (d.putRch u c { d.rch u c with job := some j', reading := false }).bumpBy n C.RACK_BYTES u c
  if !ok then d.rackEnd u c 0x13
  else if j.dst = 2 ∧ psn then
    let (cut, d) := d.strmTrim u j.daddr j'.moved
    (d.putRch u c { d.rch u c with job := some { j' with moved := j'.moved - cut } }).rackEnd u c 1
  else
    match fin with
    | some 3 => d.rackEnd u c 3
    | some f => d.rackEnd u c (if j'.psn then 1 else f)
    | none => d

/-- Reads up to `n` words of a cask for a descriptor; `flaws` is what the check bits of the words show, in order. Gives the words and the
status where the item or a FLUSHED marker ends the descriptor (R126). -/
def Dev.rackCask (d : Dev) (u k : Nat) (item : Bool) : Nat → List Flaw → List CaskWord → List CaskWord × Option Nat × Dev
  | 0, _, acc => (acc, none, d)
  | n + 1, flaws, acc =>
    match d.caskGet u k (flaws.headD .ok) with
    | (.nothing, d) => (acc, none, d)
    | (.flushed, d) => (acc, some 3, d)
    | (.word w _, d) =>
      if item && w.fin then (acc ++ [w], some 0, d)
      else if item && w.tail then (acc ++ [w], some 2, d)
      else d.rackCask u k item n flaws.tail (acc ++ [w])

/-- Words of bytes, poisoned where `psn` says so of the word's number. -/
def burstWords (bs : List Byte) (psn : Nat → Bool) : List CaskWord :=
  let ws := wordsOfBytes false bs.length bs
  (ws.zip (List.range ws.length)).map fun x => { x.1 with psn := psn x.2 }

/-- `n` words of open value: the content of a stream as a source is not stated. [log entry 49: DESIGN CHOICE] -/
def Dev.drawWords (d : Dev) : Nat → List CaskWord × Dev
  | 0 => ([], d)
  | n + 1 =>
    let (v, d) := d.draw
    let (ws, d) := d.drawWords n
    ({ data := v % 2 ^ 64 } :: ws, d)

/-- Whether a channel can move data now: its descriptor runs, its source has data, and its destination takes it. In item mode too a word
moves as soon as its cask holds it. A Cellar destination takes none while the level of its rank holds it (R426). [log entry 31: DEDUCED; log entry 89: DESIGN CHOICE] -/
def Dev.rackReady (d : Dev) (u c : Nat) : Bool :=
  match (d.rch u c).job with
  | none => false
  | some j =>
    let x := d.cask u j.saddr
    let src := if j.src = 0 then x.marker || !x.words.isEmpty else if j.src = 3 then !(d.rch u c).reading else true
    let dst :=
      if j.dst = 0 then (d.cask u j.daddr).wait.isEmpty && 0 < d.rd F.CASK_STAT_CREDITS u j.daddr
      else if j.dst = 2 then
        match d.strmOf u j.daddr with
        | some k => !d.on (rbHold (if (d.strm u k).rank5 then 5 else 3)) u
        | none => true
      else true
    src && dst

/-- One burst of channel `c`: at most 256 bytes, up to the descriptor's next 256-byte boundary. [log entry 31: DEDUCED] -/
def Dev.rackBurst (d : Dev) (u c : Nat) (flaws : List Flaw) (refused : Bool) : Dev :=
  match (d.rch u c).job with
  | none => d
  | some j =>
    let st := if j.host && !d.rackHostOk u then 0x14
      else if (j.src = 2 ∧ (d.strmOf u j.saddr).isNone) ∨ (j.dst = 2 ∧ (d.strmOf u j.daddr).isNone) then 0x13 else 0
    if st ≠ 0 then d.rackEnd u c st
    else
      let n := min (256 - j.moved % 256) (j.len - j.moved)
      match j.src with
      | 0 =>
        let (ws, fin, d) := d.rackCask u j.saddr j.item (n / 8) flaws []
        d.rackMove u c j ws fin refused
      | 1 =>
        let p := if u = 4 then j.saddr / 2 ^ 40 % 4 else u
        let a := j.saddr % 2 ^ 40 + j.moved
        let m := d.dram p
        let (bs, _, d) := d.dramRead p (rackSrc u c) a n
        d.rackMove u c j (burstWords bs fun i => m.poisoned ((a + 8 * i) / 32)) none refused
      | 2 =>
        let (ws, d) := d.drawWords (n / 8)
        d.rackMove u c j ws none refused
      | 3 => (d.putRch u c { d.rch u c with reading := true }).updHub fun h => { h with hreq := h.hreq ++ [.rackData u c] }
      | _ => d.rackMove u c j (List.replicate (n / 8) { data := j.saddr }) none refused

/-- The waiting channel of highest rank, by round robin among those of its rank (R117); a Pavane stops background work (R636). -/
def Dev.rackPick (d : Dev) (u : Nat) : Option Nat :=
  let n := rackChannels u
  let ready := (List.range n).filter fun c => d.rackReady u c && !(d.stopped && d.rackRank u c == 5)
  let best := (ready.map fun c => d.rackRank u c).foldl min 6
  let from_ := Tab.get 0 (d.rack u).last best
  ((List.range n).map fun i => (from_ + i) % n).find? fun c => ready.contains c && d.rackRank u c == best

def execRackBurstGrant (u : Unit5) (x : BurstRead) (s : State) : Out := run s fun d =>
  match d.rackPick u with
  | none => d
  | some c => (d.updRack u fun r => { r with last := Tab.set 0 r.last (d.rackRank u c) (c + 1) }).rackBurst u c x.flaws x.refused

/-- A burst's data has come from host memory; a completion error ends the descriptor with DST_ERROR, the one status that names one; a
poisoned TLP poisons its words (R125, R128). [log entry 31: DEDUCED; log entry 89: DESIGN CHOICE] -/
def Dev.rackHostData (d : Dev) (u c : Nat) (good psn : Bool) : Dev :=
  let x := d.rch u c
  match x.job with
  | none => d
  | some j =>
    if !x.reading then d
    else if !good then (d.putRch u c { x with reading := false }).rackEnd u c 0x13
    else
      let n := min (256 - j.moved % 256) (j.len - j.moved)
      d.rackMove u c j (burstWords (d.hostMem.reads (j.saddr + j.moved) n) fun _ => psn) none false

/-- Host memory has become unreachable for the channels of `u`: what they wait for ends, a fetch with RING_ERROR and a running
descriptor that touches host memory with HOST_UNAVAILABLE (R44, R128, R132). -/
def Dev.rackHostGone (d : Dev) (u : Nat) : Dev :=
  let d := d.updHub fun h => { h with hreq := h.hreq.filter fun y =>
    !(match y with | .rackDesc v _ => v == u | .rackData v _ => v == u | _ => false) }
  (List.range (rackChannels u)).foldl (fun d c =>
    let x := d.rch u c
    if x.fetching then d.rackDescData u c false
    else if x.job.any fun j => j.host then (d.putRch u c { x with reading := false }).rackEnd u c 0x14
    else d) d

/-! ### Write-back, abort, resume (R127 to R131) -/

/-- The oldest ended descriptor is written back, word 7 before word 6; HEAD passes it; a halting status halts the channel. Where a host
ring cannot be reached the words are not written and no completion event is raised, but HEAD passes the descriptor and the channel
halts as its status says. [log entry 31: DEDUCED; log entry 89: DESIGN CHOICE] -/
def Dev.rackWriteback (d : Dev) (u c : Nat) : Dev :=
  let x := d.rch u c
  match x.done with
  | [] => d
  | (j, st) :: rest =>
    let a := d.rackSlotAt u c j.slot
    let w6 := 2 ^ 31 + st * 2 ^ 16 + j.tag
    let there := !d.rackHostRing u c || d.rackHostOk u
    let d := if d.rackHostRing u c then
        (if there then (d.hostWords (a + 28) [j.moved]).hostWords (a + 24) [w6] else d)
      else (d.dramWrite u (rackSrc u c) (a % 2 ^ 40 + 28) (leBytes 4 j.moved)).dramWrite u (rackSrc u c) (a % 2 ^ 40 + 24) (leBytes 4 w6)
    let d := (d.putRch u c { x with done := rest }).wr F.RACK_HEAD_HEAD (d.rackNext u c j.slot) u c
    let d := if j.irq && there then (if u = 4 then d.raise (519 + c) j.tag else d.raiseP u (8 + c) j.tag) else d
    if d.rackState u c = 3 then d
    else if haltsStatus j st then (d.putRch u c { d.rch u c with abort := false }).rackHalt u c st j.slot
    else if rest.isEmpty && x.abort then (d.putRch u c { d.rch u c with abort := false }).rackHalt u c 0x15 j.slot
    else if rest.isEmpty && x.job.isNone && !x.fetching then d.wr F.RACK_CH_STAT_STATE 1 u c
    else d

def execRackDescWriteback (u : Unit5) (c : Fin 16) (s : State) : Out :=
  runIf (decide (c.val < rackChannels u)) s fun d => d.rackWriteback u c

/-- ABORT (R129): the running descriptor moves what it can up to its next 256-byte boundary and ends as ABORTED; where only write-backs
wait, the channel halts after them; an idle channel halts with no write-back. [log entry 31: DEDUCED] -/
def Dev.rackAbort (d : Dev) (u c : Nat) : Dev :=
  let st := d.rackState u c
  if !(st == 1 || st == 2) then d
  else
    let part := (d.rch u c).job.any fun j => j.moved % 256 != 0 && j.src == 0
    let d := if part && d.rackReady u c then d.rackBurst u c [] false else d
    let x := d.rch u c
    let d := if x.fetching then
        (d.putRch u c { x with fetching := false }).updHub fun h => { h with hreq := h.hreq.filter fun y => y != .rackDesc u c }
      else d
    let d := d.updHub fun h => { h with hreq := h.hreq.filter fun y => y != .rackData u c }
    if x.job.isSome then (d.rackEnd u c 0x15).wr F.RACK_CH_STAT_STATE 4 u c
    else if x.done.isEmpty then
      d.rackHalt u c 0x15 (if x.next = 0 then d.rackSlots u c - 1 else x.next - 1)
    else (d.putRch u c { d.rch u c with abort := true }).wr F.RACK_CH_STAT_STATE 4 u c

def execRackAbort (u : Unit5) (c : Fin 16) (s : State) : Out :=
  bar2If (decide (c.val < rackChannels u)) .RACK u s fun d => d.rackAbort u c

/-- RESUME (R130): a halted channel goes on at the descriptor after HIDX. -/
def Dev.rackResume (d : Dev) (u c : Nat) : Dev :=
  if d.rackState u c = 3 then
    let next := d.rackNext u c (d.rd F.RACK_CH_STAT_HIDX u c)
    let d := d.wr F.RACK_GSTAT_HALTED (clrBit (d.rd F.RACK_GSTAT_HALTED u) c) u
    (d.putRch u c { next := next, done := (d.rch u c).done }).wr F.RACK_CH_STAT_STATE 1 u c
  else d

def execRackResume (u : Unit5) (c : Fin 16) (s : State) : Out :=
  bar2If (decide (c.val < rackChannels u)) .RACK u s fun d => d.rackResume u c

/-- A write of `RACK_CH_CTL`: with both bits set the ABORT takes effect. -/
def Dev.rackCtl (d : Dev) (u c w : Nat) : Dev :=
  if bit w 0 then d.rackAbort u c else if bit w 1 then d.rackResume u c else d

/-- A write of `RACK_TAIL`: an index beyond the ring is discarded (R121). -/
def Dev.rackTail (d : Dev) (u c v : Nat) : Dev := if v < d.rackSlots u c then d.wr F.RACK_TAIL_TAIL v u c else d

def execRackTailWrite (u : Unit5) (c : Fin 16) (tail : BitVec 16) (s : State) : Out :=
  bar2If (decide (c.val < rackChannels u)) .RACK u s fun d => d.rackTail u c tail.toNat

/-- Writes back every ended descriptor. -/
def Dev.rackDrain (d : Dev) (u c : Nat) : Nat → Dev
  | 0 => d
  | n + 1 => if (d.rch u c).done.isEmpty then d else (d.rackWriteback u c).rackDrain u c n

/-- The channel becomes OFF. -/
def Dev.rackOff (d : Dev) (u c : Nat) : Dev :=
  let d := (d.wr F.RACK_CH_CFG_EN 0 u c).wr F.RACK_CH_STAT_STATE 0 u c
  (d.putRch u c {}).wr F.RACK_GSTAT_HALTED (clrBit (d.rd F.RACK_GSTAT_HALTED u) c) u

/-- Clearing EN (R131): with descriptors pending it acts as ABORT, and then disables the channel. -/
def Dev.rackDisable (d : Dev) (u c : Nat) : Dev :=
  let x := d.rch u c
  let pending := x.job.isSome || x.fetching || !x.done.isEmpty || x.next != d.rd F.RACK_TAIL_TAIL u c
  if !d.on F.RACK_CH_CFG_EN u c then d
  else
    let d := if pending then d.rackAbort u c else d
    (d.rackDrain u c ((d.rch u c).done.length)).rackOff u c

def execRackChDisable (u : Unit5) (c : Fin 16) (s : State) : Out :=
  bar2If (decide (c.val < rackChannels u)) .RACK u s fun d => d.rackDisable u c

/-- The channel starts as its registers say, at the slot after the last one written back. -/
def Dev.rackOn (d : Dev) (u c : Nat) : Dev :=
  (d.putRch u c { next := d.rd F.RACK_HEAD_HEAD u c }).wr F.RACK_CH_STAT_STATE 1 u c

/-- A host's write of `RACK_CH_CFG` of a channel it configures: with EN set only EN may change (R131). -/
def Dev.rackCfg (d : Dev) (u c w : Nat) : Dev :=
  let l : RegLoc := ⟨.RACK_CH_CFG, u, c, 0⟩
  if d.on F.RACK_CH_CFG_EN u c then
    if d.sameBut l F.RACK_CH_CFG_EN w && !bit w 31 then d.rackDisable u c else d
  else
    let d := d.wrWord l w
    if d.on F.RACK_CH_CFG_EN u c then d.rackOn u c else d

end Sys2Proof.Machine
end

