-- ==== Sys2Proof/Machine/Press.lean ====
section
/-!
DEFINITION. The Press engines (chapter 16): rings, jobs, deflate and inflate, write-back, abort. Instance `u` is a pipe, or 4 for
the Hub's core 1.
-/
namespace Sys2Proof.Machine

/-- The Press engine of `u`. -/
def Dev.press (d : Dev) (u : Nat) : Press := if u = 4 then d.hub.press else (d.pipe u).press

/-- The device with the Press engine of `u` changed. -/
def Dev.updPress (d : Dev) (u : Nat) (f : Press → Press) : Dev :=
  if u = 4 then d.updHub fun h => { h with press := f h.press } else d.updPipe u fun s => { s with press := f s.press }

/-- The slots of a ring: RSIZE outside 4 to 16 applies 4. -/
def Dev.pressSlots (d : Dev) (u r : Nat) : Nat :=
  let v := d.rd F.PRESS_RING_CFG_RSIZE u r
  2 ^ (if 4 ≤ v ∧ v ≤ 16 then v else 4)

/-- Whether a ring lies in host memory; the reserved codes of RLOC count as DRAM in a pipe. -/
def Dev.pressHostRing (d : Dev) (u r : Nat) : Bool := u == 4 || d.rd F.PRESS_RING_CFG_RLOC u r == 1

/-- The address of a ring slot. -/
def Dev.pressSlotAt (d : Dev) (u r i : Nat) : Nat := d.rd64 F.PRESS_RING_LO_BASE_LO F.PRESS_RING_HI_BASE_HI u r + 64 * i

/-- The DRAM source number of an engine (R519). -/
def pressSrc (u : Nat) : Nat := if u = 4 then 0x2D else 0x2F

/-- Word `i` of a descriptor and its fields (R528). -/
def PressJob.w (j : PressJob) (i : Nat) : Nat := j.ws.getD i 0
def PressJob.op (j : PressJob) : Nat := slice (j.w 0) 31 30
def PressJob.fmt (j : PressJob) : Nat := slice (j.w 0) 29 28
def PressJob.level (j : PressJob) : Nat := slice (j.w 0) 27 24
def PressJob.srck (j : PressJob) : Nat := slice (j.w 0) 21 20
def PressJob.dstk (j : PressJob) : Nat := slice (j.w 0) 19 18
def PressJob.tag (j : PressJob) : Nat := slice (j.w 0) 15 0
def PressJob.len (j : PressJob) : Nat := j.w 1
def PressJob.src (j : PressJob) : Nat := j.w 2 + 2 ^ 32 * j.w 3
def PressJob.dst (j : PressJob) : Nat := j.w 4 + 2 ^ 32 * j.w 5
def PressJob.dlen (j : PressJob) : Nat := j.w 6

/-- A ring halts with a status at slot `i` (R529). -/
def Dev.pressHalt (d : Dev) (u r status i : Nat) : Dev :=
  let d := ((d.wr F.PRESS_RING_STAT_STATE 3 u r).wr F.PRESS_RING_STAT_LSTATUS status u r).wr F.PRESS_RING_STAT_HIDX i u r
  let d := d.wr F.PRESS_GSTAT_HALTED (setBit (d.rd F.PRESS_GSTAT_HALTED u) r) u
  let syn := pack [(2, r), (8, status)]
  if u = 4 then d.raise 552 syn else d.raiseP u 77 syn

/-- Whether a DRAM range of a job lies in its pipe's map. -/
def Dev.pressInMap (d : Dev) (u a len : Nat) : Bool :=
  let p := if u = 4 then a / 2 ^ 40 % 4 else u
  d.dramInMap p (a % 2 ^ 40) len

/-- The checks of a descriptor: none, or the halting status it ends with (R529). -/
def Dev.pressCheck (d : Dev) (u : Nat) (j : PressJob) : Option Nat :=
  let top := if u = 4 then 2 ^ 42 else 2 ^ 40
  if 1 < j.op ∨ j.fmt = 3 ∨ (j.op = 0 ∧ 12 < j.level) ∨ 1 < j.srck ∨ 1 < j.dstk ∨ slice (j.w 0) 17 16 ≠ 0 ∨ j.w 7 ≠ 0 ∨
      j.len = 0 ∨ j.dlen = 0 ∨ (j.srck = 0 ∧ top ≤ j.src) ∨ (j.dstk = 0 ∧ top ≤ j.dst) then some 0x10
  else if (j.srck = 0 ∧ !d.pressInMap u j.src j.len) ∨ (j.dstk = 0 ∧ !d.pressInMap u j.dst j.dlen) then some 0x11
  else if u = 4 ∧ j.srck = 0 ∧ j.dstk = 0 ∧ j.src / 2 ^ 40 ≠ j.dst / 2 ^ 40 then some 0x15
  else if (j.srck = 1 ∨ j.dstk = 1) ∧ !d.rackHostOk u then some 0x13
  else none

/-- A fetched descriptor becomes the core's job. -/
def Dev.pressBegin (d : Dev) (u r : Nat) (ws : List Nat) : Dev :=
  let slot := Tab.get 0 (d.press u).next r
  let j : PressJob := { slot := slot, ws := ws }
  let j := { j with status := d.pressCheck u j }
  let next := if slot + 1 < d.pressSlots u r then slot + 1 else 0
  let d := d.updPress u fun x => { x with fetching := none, job := some (r, j), next := Tab.put x.next r next }
  ((d.wr F.PRESS_GSTAT_BUSY 1 u).wr F.PRESS_GSTAT_RING r u).wr F.PRESS_RING_STAT_STATE 2 u r

/-- The next ring with a descriptor posted, round robin (R530). -/
def Dev.pressPick (d : Dev) (u : Nat) : Option Nat :=
  let n := pressRings u
  ((List.range n).map fun i => ((d.press u).last + 1 + i) % n).find? fun r =>
    d.on F.PRESS_RING_CFG_EN u r && d.rd F.PRESS_RING_STAT_STATE u r == 1 &&
      Tab.get 0 (d.press u).next r != d.rd F.PRESS_TAIL_TAIL u r

/-- The idle core takes the next descriptor; a fetch that fails halts the ring with RING_ERROR. -/
def Dev.pressStart (d : Dev) (u : Nat) : Dev :=
  if (d.press u).job.isSome || (d.press u).fetching.isSome then d
  else
    match d.pressPick u with
    | none => d
    | some r =>
      let d := d.updPress u fun x => { x with last := r }
      let slot := Tab.get 0 (d.press u).next r
      let a := d.pressSlotAt u r slot
      if d.pressHostRing u r then
        if d.rackHostOk u then
          (d.updPress u fun x => { x with fetching := some r }).updHub fun h => { h with hreq := h.hreq ++ [.press u r] }
        else d.pressHalt u r 0x1F slot
      else
        let (bs, psn, d) := d.dramRead u (pressSrc u) (a % 2 ^ 40) 32
        if psn then d.pressHalt u r 0x1F slot else d.pressBegin u r (words32 bs)

def execPressJobStart (u : Unit5) (s : State) : Out := runWork s fun d => d.pressStart u

/-- The descriptor's data has come from the host. -/
def Dev.pressDescData (d : Dev) (u r : Nat) (good : Bool) : Dev :=
  if (d.press u).fetching ≠ some r then d
  else
    let slot := Tab.get 0 (d.press u).next r
    if good then d.pressBegin u r (words32 (d.hostMem.reads (d.pressSlotAt u r slot) 32))
    else (d.updPress u fun x => { x with fetching := none }).pressHalt u r 0x1F slot

/-- What a job comes to: status, output, source bytes read, check value, and the bit position of a fault. -/
structure PressEnd where
  status : Nat
  out : List Byte := []
  consumed : Nat := 0
  chk : Nat := 0
  pos : Nat := 0
deriving DecidableEq, Repr

/-- The wrapper and stream a deflate job writes (R520). -/
def deflateBytes (fmt level : Nat) (src : List Byte) : List Byte :=
  let body := Config.deflate level src
  if fmt = 1 then
    leBytes 1 0x78 ++ leBytes 1 (if level ≤ 1 then 0x01 else if level ≤ 5 then 0x5E else if level = 6 then 0x9C else 0xDA) ++ body ++
      (leBytes 4 (adler32 src)).reverse
  else if fmt = 2 then
    leBytes 4 0x00088B1F ++ leBytes 4 0 ++ leBytes 1 (if level ≤ 1 then 4 else if 10 ≤ level then 2 else 0) ++ leBytes 1 0xFF ++ body ++
      leBytes 4 (crc32 src) ++ leBytes 4 src.length
  else body

/-- A deflate job (R521 to R523). `read` is the open count of source bytes read where the job ends early; `both` says that one emitted unit
took the output past LEN and DLEN together. [log entry 59: DESIGN CHOICE] -/
def deflateEnd (j : PressJob) (src : List Byte) (read : Nat) (both : Bool) : PressEnd :=
  let out := deflateBytes j.fmt j.level src
  if j.len ≤ out.length ∧ (j.len ≤ j.dlen + 1 ∨ both) then { status := 1, consumed := read }
  else if j.dlen < out.length then { status := 2, consumed := read }
  else { status := 0, out := out, consumed := j.len, chk := if j.fmt = 1 then adler32 src else crc32 src }

/-- An inflate job (R524 to R526). [log entry 59: DESIGN CHOICE] -/
def inflateEnd (j : PressJob) (src : List Byte) : PressEnd :=
  match inflate j.fmt src j.dlen with
  | .ok (out, used, chk) => { status := 0, out := out, consumed := used, chk := chk }
  | .error (st, pos) =>
    { status := st, consumed := ceilDiv pos 8, pos := if 0x08 ≤ st ∧ st ≤ 0x0D then pos else 0 }

/-- Counts a job's end and frees the core. -/
def Dev.pressCount (d : Dev) (u : Nat) (e : PressEnd) : Dev :=
  let d := (d.bumpBy e.consumed C.PRESS_IN_CNT u).bumpBy e.out.length C.PRESS_OUT_CNT u
  let d := if e.status = 0 then d else d.bump C.PRESS_FAIL_CNT u
  (d.updPress u fun x => { x with job := none }).wr F.PRESS_GSTAT_BUSY 0 u

/-- The job's result words 9 to 13 and then word 8 go to its slot, HEAD passes it, the completion event is raised and a halting
status halts the ring; with a ring in host memory that cannot be reached nothing is written back (R528 to R530). -/
def Dev.pressWriteback (d : Dev) (u r : Nat) (j : PressJob) (e : PressEnd) : Dev :=
  let a := d.pressSlotAt u r j.slot
  let extra := j.op == 1 && e.status == 0 && decide (e.consumed < j.len)
  let res := [e.out.length, e.consumed, e.chk, e.pos / 8, e.pos % 8]
  let w8 := 2 ^ 31 + b2n extra * 2 ^ 30 + e.status * 2 ^ 16 + j.tag
  let host := d.pressHostRing u r
  let lost := host && !d.rackHostOk u
  let d := if lost then d
    else if host then (d.hostWords (a + 36) res).hostWords (a + 32) [w8]
    else (d.dramWrite u (pressSrc u) (a % 2 ^ 40 + 36) (res.flatMap (leBytes 4))).dramWrite u (pressSrc u) (a % 2 ^ 40 + 32) (leBytes 4 w8)
  let d := if lost then d else d.wr F.PRESS_HEAD_HEAD (if j.slot + 1 < d.pressSlots u r then j.slot + 1 else 0) u r
  let syn := pack [(16, j.tag), (8, e.status)]
  let d := if bit (j.w 0) 23 && !lost then (if u = 4 then d.raise (549 + r) syn else d.raiseP u (73 + r) syn) else d
  if 0x10 ≤ e.status then d.pressHalt u r e.status j.slot else d.wr F.PRESS_RING_STAT_STATE 1 u r

/-- The running job ends. `bad` says that a read of its source in host memory came back poisoned or in error, `denied` that a write
of its destination in host memory was refused; `read` is the count of source bytes of a job that ends early, which the spec does
not fix, and `both` is `deflateEnd`'s. A poisoned word counts where the job has read it. A job whose ring, source or destination lies in
host memory that cannot be reached ends with HOST_UNAVAILABLE (R530). [log entry 59: DESIGN CHOICE] -/
def Dev.pressEnd (d : Dev) (u : Nat) (bad denied : Bool) (read : Nat) (both : Bool) : Dev :=
  match (d.press u).job with
  | none => d
  | some (r, j) =>
    let done := fun (d : Dev) (e : PressEnd) => (d.pressCount u e).pressWriteback u r j e
    match j.status with
    | some st => done d { status := st, consumed := if st = 0x14 then min read j.len else 0 }
    | none =>
      if (j.srck = 1 ∨ j.dstk = 1 ∨ d.pressHostRing u r) ∧ !d.rackHostOk u then done d { status := 0x13, consumed := min read j.len }
      else
        let p := if u = 4 then j.src / 2 ^ 40 % 4 else u
        let a := j.src % 2 ^ 40
        let src := if j.srck = 1 then d.hostMem.reads j.src j.len else (d.dram p).mem.reads a j.len
        let e := if j.op = 0 then deflateEnd j src (min read j.len) both else inflateEnd j src
        let (psn, d) := if j.srck = 1 then (bad, d) else (d.dramRead p (pressSrc u) a e.consumed).2
        if psn then done d { status := 3, consumed := min read j.len }
        else
          if e.status ≠ 0 then done d e
          else if j.dstk = 1 ∧ denied then done d { status := 0x12, consumed := e.consumed }
          else
            let q := if u = 4 then j.dst / 2 ^ 40 % 4 else u
            let d := if j.dstk = 1 then d.hostWrite j.dst e.out else d.dramWrite q (pressSrc u) (j.dst % 2 ^ 40) e.out
            done d e

def execPressJobEnd (u : Unit5) (bad denied : Bool) (read : PressRead) (s : State) : Out :=
  runWork s fun d => d.pressEnd u bad denied read.n read.both

/-- ABORT (R531): the running job ends as ABORTED; an idle ring halts with no write-back. -/
def Dev.pressAbort (d : Dev) (u r : Nat) : Dev :=
  let st := d.rd F.PRESS_RING_STAT_STATE u r
  let x := d.press u
  if !(st == 1 || st == 2) then d
  else
    match x.job with
    | some (q, j) =>
      if q = r then
        (d.updPress u fun x => { x with job := some (r, { j with status := some 0x14 }) }).wr F.PRESS_RING_STAT_STATE 4 u r
      else d.pressHalt u r 0x14 (let n := Tab.get 0 x.next r; if n = 0 then d.pressSlots u r - 1 else n - 1)
    | none =>
      let d := if x.fetching = some r then
          (d.updPress u fun x => { x with fetching := none }).updHub fun h => { h with hreq := h.hreq.filter fun y => y != .press u r }
        else d
      d.pressHalt u r 0x14 (let n := Tab.get 0 x.next r; if n = 0 then d.pressSlots u r - 1 else n - 1)

def execPressAbort (u : Unit5) (r : Fin 4) (s : State) : Out :=
  bar2If (decide (r.val < pressRings u)) .PRESS_P u s fun d => d.pressAbort u r

/-- RESUME: a halted ring goes on after HIDX. -/
def Dev.pressResume (d : Dev) (u r : Nat) : Dev :=
  if d.rd F.PRESS_RING_STAT_STATE u r = 3 then
    let h := d.rd F.PRESS_RING_STAT_HIDX u r
    let d := d.wr F.PRESS_GSTAT_HALTED (clrBit (d.rd F.PRESS_GSTAT_HALTED u) r) u
    (d.updPress u fun x => { x with next := Tab.put x.next r (if h + 1 < d.pressSlots u r then h + 1 else 0) }).wr
      F.PRESS_RING_STAT_STATE 1 u r
  else d

def execPressResume (u : Unit5) (r : Fin 4) (s : State) : Out :=
  bar2If (decide (r.val < pressRings u)) .PRESS_P u s fun d => d.pressResume u r

/-- A write of `PRESS_RING_CTL`: with both bits set the ABORT takes effect. -/
def Dev.pressCtl (d : Dev) (u r w : Nat) : Dev :=
  if bit w 0 then d.pressAbort u r else if bit w 1 then d.pressResume u r else d

/-- A write of `PRESS_TAIL`: an index beyond the ring is discarded (R121, R527). -/
def Dev.pressTail (d : Dev) (u r v : Nat) : Dev := if v < d.pressSlots u r then d.wr F.PRESS_TAIL_TAIL v u r else d

def execPressTailWrite (u : Unit5) (r : Fin 4) (tail : BitVec 16) (s : State) : Out :=
  bar2If (decide (r.val < pressRings u)) .PRESS_P u s fun d => d.pressTail u r tail.toNat

/-- Clearing EN (R531): with a job running it acts as ABORT; the ring is then disabled. How much of its source the job has read is a free
value. -/
def Dev.pressDisable (d : Dev) (u r : Nat) : Dev :=
  if !d.on F.PRESS_RING_CFG_EN u r then d
  else
    let running := match (d.press u).job with | some (q, _) => q == r | none => false
    let d := if running || (d.press u).fetching == some r then d.pressAbort u r else d
    let d := if running then (let (v, d) := d.draw; d.pressEnd u false false v false) else d
    let d := (d.wr F.PRESS_RING_CFG_EN 0 u r).wr F.PRESS_RING_STAT_STATE 0 u r
    d.wr F.PRESS_GSTAT_HALTED (clrBit (d.rd F.PRESS_GSTAT_HALTED u) r) u

def execPressRingDisable (u : Unit5) (r : Fin 4) (s : State) : Out :=
  bar2If (decide (r.val < pressRings u)) .PRESS_P u s fun d => d.pressDisable u r

/-- A host's write of `PRESS_RING_CFG`: with EN set only EN may change (R531). -/
def Dev.pressCfg (d : Dev) (u r w : Nat) : Dev :=
  let l : RegLoc := ⟨.PRESS_RING_CFG, u, r, 0⟩
  if d.on F.PRESS_RING_CFG_EN u r then
    let same := slice w 23 20 == d.rd F.PRESS_RING_CFG_RSIZE u r && slice w 19 18 == d.rd F.PRESS_RING_CFG_RLOC u r
    if same && !bit w 31 then d.pressDisable u r else d
  else
    let d := d.wrWord l w
    if d.on F.PRESS_RING_CFG_EN u r then
      (d.updPress u fun x => { x with next := Tab.put x.next r (d.rd F.PRESS_HEAD_HEAD u r) }).wr F.PRESS_RING_STAT_STATE 1 u r
    else d

end Sys2Proof.Machine
end

