-- ==== Sys2Proof/Machine/Qdl.lean ====
section
/-!
DEFINITION. Quadrille (chapter 17): ports and peers, peer events, time messages, and the ends of board takes. Forwarded register
accesses stand with the register file.
-/
namespace Sys2Proof.Machine

/-- The device with its Quadrille side changed. -/
def Dev.updQdl (d : Dev) (f : Qdl → Qdl) : Dev := d.updHub fun h => { h with qdl := f h.qdl }

/-- The state of port `q`: 0 OFF, 1 TRAIN, 2 HELLO, 3 UP. -/
def Dev.qdlState (d : Dev) (q : Nat) : Nat := d.rd F.QDL_PEER_STATE 0 q

/-- The DEVID that port `q`'s peer has: p + 1 at the leader, 0 at a follower (R535). -/
def Dev.qdlPeer (d : Dev) (q : Nat) : Nat := if d.rd F.QDL_ID_DEVID = 0 then q + 1 else 0

/-- Port `q`'s role is READY: the Hubs exchange identity (R536). -/
def Dev.qdlReady (d : Dev) (q : Nat) : Dev := if d.on F.QDL_CTL_EN then d.wr F.QDL_PEER_STATE 2 0 q else d

/-- The exchange of identity ends and port `q` enters UP (R536). -/
def execQdlHello (q : Fin 3) (s : State) : Out := run s fun d =>
  if d.qdlState q != 2 || d.hub.lost then d
  else
    let d := (d.wr F.QDL_PEER_STATE 3 0 q).wr F.QDL_PEER_PEER (d.qdlPeer q) 0 q
    if d.isFollower then d.updQdl fun x => { x with ends := [] } else d.raise 553 (pack [(2, d.qdlPeer q)])

/-- Port `q` leaves UP, or its exchange (R536, R541): outstanding reads complete with all ones, posted writes are discarded; a leader
raises QDL_PEER_DOWN, a follower's servo is without its master. -/
def Dev.qdlDown (d : Dev) (q : Nat) : Dev :=
  let was := d.qdlState q
  if was < 2 then d
  else
    let fwd := Tab.get [] d.hub.qdl.fwd q
    let reads : List Nat := fwd.filterMap fun x =>
      match x with
      | .write _ _ => none
      | .read _ => some (2 ^ 32 - 1)
      | .readLow _ => some (2 ^ 64 - 1)
      | .readHigh _ _ => some (2 ^ 64 - 1)
    let d := (d.wr F.QDL_PEER_STATE 1 0 q).updQdl fun x => { x with fwd := Tab.del x.fwd q, msgs := Tab.del x.msgs q, openTakes := Tab.del x.openTakes (q + 1) }
    let d := { d with rdata := reads.getLast?.getD d.rdata }
    if was != 3 || d.hub.lost then d
    else if d.isFollower then d.servoHold
    else d.raise 554 (pack [(2, d.qdlPeer q), (4, d.rd F.LANE_ROLE_STAT_FCAUSE 4 q)])

/-- Reads of host memory that the racking and Press engines wait for end with HOST_UNAVAILABLE (R132, R530); with `nv` the data of NVMe
commands is lost too. [log entry 79: DEDUCED] -/
def Dev.hostReadsEnd (d : Dev) (nv : Bool) : Dev :=
  d.hub.hreq.foldl (fun d x =>
    match x with
    | .nvme q cid => if nv then d.nvData q cid false else d
    | .rackDesc _ _ => d
    | .rackData _ _ => d
    | .press u r => d.pressDescData u r false) ((List.range 5).foldl (fun d u => d.rackHostGone u) d |>.updHub fun h => { h with hreq := [] })

/-! ### Peer events (R540) -/

/-- Device `x` reports that its part of take `num` has opened or closed. [log entry 60: DEDUCED] -/
def Dev.boardEvent (d : Dev) (x e num : Nat) : Dev :=
  let hit := fun (r : TakeRec) => r.num % 2 ^ 16 == num && r.devs.contains x
  match d.hub.takes.find? hit with
  | some r =>
    if e = 541 then (d.updTake r.num fun r => { r with devOpen := insertNum x r.devOpen }).takeOpenCheck r.num
    else (d.updTake r.num fun r => { r with devClosed := insertNum x r.devClosed }).takeClosed r.num
  | none => d

/-- An event message crosses the link: in a follower the oldest one leaves the port's queue; in the leader QDL_PEER_EVT is raised, and
the opening and closing of takes are taken note of. -/
def execQdlPeerEventMessage (q : Fin 3) (event : Fin 1024) (syn : Word) (s : State) : Out := run s fun d =>
  if !d.qdlUp q || d.hub.lost then d
  else if d.isFollower then d.updQdl fun x => { x with msgs := Tab.set [] x.msgs q ((Tab.get [] x.msgs q).drop 1) }
  else
    let x := d.qdlPeer q
    let d := d.raise 555 (pack [(2, x), (10, event)])
    let n := Tab.get 0 d.hub.qdl.openTakes x
    let d :=
      if event.val = 541 then d.updQdl fun y => { y with openTakes := Tab.set 0 y.openTakes x (n + 1) }
      else if event.val = 542 then d.updQdl fun y => { y with openTakes := Tab.set 0 y.openTakes x (n - 1) }
      else d
    if event.val = 541 ∨ event.val = 542 then d.boardEvent x event (syn.toNat % 2 ^ 16) else d

/-! ### Time (R542, R544) -/

/-- A time message of the leader arrives at port `q`: the leader's time in 2⁻⁸ ns, the step it announces in ns, and whether an
announcement before it was missed. -/
def execQdlTimeMessage (q : Fin 3) (t : Nat) (step : Option Int) (missed : Bool) (s : State) : Out := run s fun d =>
  if !d.isFollower || !d.qdlUp q || d.hub.lost then d
  else
    let o : Int := 256 * ((d.hubTime : Int) - t) - 4096 * (d.rd F.QDL_PEER_DELAY 0 q : Nat)
    let d := ((d.wr F.QDL_TIME_STAT_OFFSET (satCode 16 (roundInt o 65536))).wr F.QDL_TIME_STAT_HOLD 0).updQdl fun x => { x with lastMsg := d.c }
    let d := if missed then d.wr F.QDL_TIME_STAT_MISSED 1 else d
    let d := d.servo o 8000 1
    match step with
    | some x => d.stepClear.updPtp fun p => { p with apply := some x }
    | none => d

/-- The echo exchange of a follower ends with the link's one-way delay in 1/16 ns. -/
def execQdlDelayEcho (q : Fin 3) (delay : Nat) (s : State) : Out := run s fun d =>
  if d.isFollower && d.qdlUp q && !d.hub.lost then d.wr F.QDL_PEER_DELAY (min 0xFFFF delay) 0 q else d

/-- No time message for 1 ms (`QDL_TIME_STAT.HOLD`), looked at by each copy strobe. [log entry 60: DEDUCED] -/
def Dev.qdlHold (d : Dev) : Dev :=
  if d.isFollower && decide (256000000 ≤ cSince d.hub.qdl.lastMsg d.c) then d.wr F.QDL_TIME_STAT_HOLD 1 else d

/-! ### Ends of board takes (R547, R548) -/

/-- Device `x` reports the end of its stream of take `num`: the leader notes it and ends the board take everywhere else. Reports of
one instant cause one end. [log entry 60: DEDUCED] -/
def execQdlTakeEndReport (x : Fin 4) (num : Word) (s : State) : Out := run s fun d =>
  let hit := d.hub.takes.any fun r => r.num == num.toNat && !r.devs.isEmpty
  let reaches := x.val == 0 || d.qdlUp (x.val - 1)
  if d.isFollower || d.hub.lost || !hit || !reaches || bit (d.rd F.QDL_TAKE_STAT_ENDED) x then d
  else
    let d := d.wr F.QDL_TAKE_STAT_ENDED (setBit (d.rd F.QDL_TAKE_STAT_ENDED) x)
    (d.raise 557 (pack [(2, x.val), (16, num.toNat)])).takeEnd num.toNat

/-- ORPHAN has passed with no leader: a follower closes its board takes at the last whole frame and owes the report. -/
def execQdlOrphanExpiry (s : State) : Out := run s fun d =>
  if !d.isFollower || d.leaderPort.isSome then d
  else
    let open_ := (d.hub.takes.filter fun r => r.ordered && !r.ended).map (·.num)
    (d.each open_ Dev.takeEnd).updQdl fun x => { x with ends := x.ends ++ open_ }

/-- A follower's access to host memory that the leader issues (R539): its bytes, or none where it ends with HOST_UNAVAILABLE. -/
def execQdlFollowerHostAccess (q : Fin 3) (wr : Bool) (addr : Nat) (data : List Byte) (n : Nat) (s : State) : Out := run s fun d =>
  if d.isFollower || !d.qdlUp q then d
  else if !d.hostOk then d.updQdl fun x => { x with reply := none }
  else if wr then (d.hostWrite addr data).updQdl fun x => { x with reply := some [] }
  else d.updQdl fun x => { x with reply := some (d.hostMem.reads addr n) }

end Sys2Proof.Machine
end

