-- ==== Sys2Proof/Machine/Panel.lean ====
section
/-!
DEFINITION. Picture groups (chapter 18, R570 to R572) and the command-mode panel outputs (chapter 19): surfaces, pushes, transfers and
their checks.
-/
namespace Sys2Proof.Machine

/-- Panel output `o`. -/
def Dev.panel (d : Dev) (o : Nat) : Panel := Tab.get {} d.hub.panels o

/-- The device with a panel output replaced. -/
def Dev.putPanel (d : Dev) (o : Nat) (x : Panel) : Dev := d.updHub fun h => { h with panels := Tab.set {} h.panels o x }

/-- `PANEL_STAT.STATE`: 0 OFF, 1 INIT, 2 IDLE, 3 WAITTE, 4 XFER, 5 STOPPING. -/
def Dev.panelState (d : Dev) (o : Nat) : Nat := d.rd F.PANEL_STAT_STATE 0 o

/-- Shows what runs and waits (`PANEL_STAT`). -/
def Dev.showPanel (d : Dev) (o : Nat) : Dev :=
  let x := d.panel o
  let all := x.queue ++ (match x.job with | some r => [r.upd] | none => [])
  let s0 := all.filter fun u => !d.on F.PANEL_RGN_A_SRC 0 o u.rgn
  let mask := fun (n : Nat) (l : List Nat) => ((List.range n).map fun k => if l.contains k then 2 ^ k else 0).sum
  ((d.wr F.PANEL_STAT_PEND (mask 16 (x.queue.map (·.rgn))) 0 o).wr F.PANEL_STAT_BUSY0 (mask 3 (s0.map (·.buf))) 0 o).wr
    F.PANEL_STAT_RUNREG (match x.job with | some r => r.upd.rgn | none => 0) 0 o

/-! ### Surfaces (R577, R578) -/

/-- Whether surface `k` lies in pipe DRAM, its pipe, its format and its base address. -/
def Dev.surface (d : Dev) (o k : Nat) : Bool × Nat × Nat × Nat :=
  if k = 0 then (d.on F.PANEL_SURF_CFG_LOC0 0 o, d.rd F.PANEL_SURF_CFG_PIPE0 0 o, d.rd F.PANEL_SURF_CFG_FMT0 0 o,
    d.rd64 F.PANEL_S0_LO_BASE_LO F.PANEL_S0_HI_BASE_HI 0 o)
  else (d.on F.PANEL_SURF_CFG_LOC1 0 o, d.rd F.PANEL_SURF_CFG_PIPE1 0 o, d.rd F.PANEL_SURF_CFG_FMT1 0 o,
    d.rd64 F.PANEL_S1_LO_BASE_LO F.PANEL_S1_HI_BASE_HI 0 o)

/-- The address of pixel `x` of line `y` of buffer `b` of a surface. -/
def Dev.pixelAt (d : Dev) (o k b y x : Nat) : Nat :=
  (d.surface o k).2.2.2 + b * d.rd F.PANEL_SURF_CFG_BSIZE 0 o * 2 ^ 20 + y * d.rd F.PANEL_SURF_CFG_STRIDE 0 o * 64 + 4 * x

/-- `n` memory words from address `a` of a surface, each as its two pixels' values and whether it is poisoned (R479). -/
def Dev.surfaceRead (d : Dev) (o k a : Nat) : Nat → List (Nat × Nat × Bool) × Dev
  | 0 => ([], d)
  | n + 1 =>
    let (dram, p, _, _) := d.surface o k
    let (w, psn, d) :=
      if dram then let (bs, psn, d) := d.dramRead p (0x30 + o) a 8; (ofLeBytes bs, psn, d) else (d.hostMem.readLe a 8, false, d)
    let (ws, d) := d.surfaceRead o k (a + 8) n
    ((w % 2 ^ 32, w / 2 ^ 32 % 2 ^ 32, psn) :: ws, d)

/-- A number of `q / 2^10`-ths near a tie? The exact rational `num / den` rounded to the nearest integer, half resolved by `tie` where
the value lies within 2⁻¹⁰ of it, and clamped to 0 to 1,023. [log entry 62: DESIGN CHOICE] -/
def roundTie (num : Int) (den : Nat) (tie : Bool) : Nat :=
  let fl := num / den
  let r := num % den
  let two := 2 * r * 512 - 512 * (den : Int)
  let up := if two.natAbs ≤ den then tie else decide (0 < two)
  (clampI 0 1023 (if up then fl + 1 else fl)).toNat

/-- A pixel of narrow-range Y′CbCr as full-range 10-bit R′G′B′ (R577), by the luma coefficients of BT.709 or BT.2020 in 1/10,000. [log entry 62: DESIGN CHOICE] -/
def rgbOf (m2020 : Bool) (y cb cr : Nat) : Nat × Nat × Nat :=
  let kr : Int := if m2020 then 2627 else 2126
  let kb : Int := if m2020 then 593 else 722
  let kg : Int := 10000 - kr - kb
  let yy : Int := (y : Int) - 64
  let u : Int := (cb : Int) - 512
  let v : Int := (cr : Int) - 512
  let luma : Int := 1023 * yy * 896 * 10000
  let r := luma + 1023 * 876 * 2 * (10000 - kr) * v
  let b := luma + 1023 * 876 * 2 * (10000 - kb) * u
  let g := kg * luma - 1023 * 876 * (2 * kr * (10000 - kr) * v + 2 * kb * (10000 - kb) * u)
  (roundTie r (876 * 896 * 10000) (Config.panelTie m2020 0 y cb cr),
   roundTie g (kg.toNat * 876 * 896 * 10000) (Config.panelTie m2020 1 y cb cr),
   roundTie b (876 * 896 * 10000) (Config.panelTie m2020 2 y cb cr))

/-- The two pixels of a surface word (R577): in FMT 0 the pair's Cb and Cr serve both; a poisoned word is black (R586). -/
def pixelsOf (fmt : Nat) (m2020 : Bool) : Nat × Nat × Bool → List (Nat × Nat × Nat)
  | (_, _, true) => [(0, 0, 0), (0, 0, 0)]
  | (a, b, false) =>
    if fmt = 0 then
      let cb := slice a 25 16
      let cr := slice b 25 16
      [rgbOf m2020 (slice a 9 0) cb cr, rgbOf m2020 (slice b 9 0) cb cr]
    else [(slice a 9 0, slice a 19 10, slice a 29 20), (slice b 9 0, slice b 19 10, slice b 29 20)]

/-! ### Regions and pushes (R580, R581) -/

/-- Whether region `r` may be pushed. -/
def Dev.regionOk (d : Dev) (o r : Nat) : Bool :=
  let x := d.rd F.PANEL_RGN_A_X0 0 o r
  let y := d.rd F.PANEL_RGN_A_Y0 0 o r
  let w := d.rd F.PANEL_RGN_B_W 0 o r
  let h := d.rd F.PANEL_RGN_B_H 0 o r
  let sw := d.rd F.PANEL_SIZE_WIDTH 0 o / d.rd F.PANEL_DSC_NSLICE 0 o
  let sh := d.rd F.PANEL_DSC_SLICE_H 0 o
  d.on F.PANEL_RGN_A_EN 0 o r && decide (x + w ≤ d.rd F.PANEL_SIZE_WIDTH 0 o) && decide (y + h ≤ d.rd F.PANEL_SIZE_HEIGHT 0 o) &&
    (!d.on F.PANEL_CFG_DSC 0 o || (x % sw == 0 && w % sw == 0 && y % sh == 0 && h % sh == 0))

/-- An output that is idle with a region at the head of its queue that waits for TE enters WAITTE (R582). -/
def Dev.panelHead (d : Dev) (o : Nat) : Dev :=
  let d := d.showPanel o
  match (d.panel o).queue with
  | u :: _ => if d.panelState o = 2 ∧ d.on F.PANEL_RGN_A_TESYNC 0 o u.rgn then d.wr F.PANEL_STAT_STATE 3 0 o else d
  | [] => d

/-- An update joins the queue, or replaces the pending update of its region, which keeps its place (R581). -/
def Dev.panelPend (d : Dev) (o : Nat) (u : PanelUpd) : Dev :=
  let x := d.panel o
  if x.queue.any fun v => v.rgn == u.rgn then
    (d.putPanel o { x with queue := x.queue.map fun v => if v.rgn = u.rgn then u else v }).bump C.PANEL_CNT 0 o 1
  else d.putPanel o { x with queue := x.queue ++ [u] }

/-- A region that an end marks pending again, without a push. -/
def Dev.panelAgain (d : Dev) (o : Nat) (u : PanelUpd) : Dev :=
  let x := d.panel o
  if x.queue.any fun v => v.rgn == u.rgn then d else d.putPanel o { x with queue := x.queue ++ [u] }

/-- The region of an aborted transfer is pending again, and its next transfer follows at once (R586): its update, or the one pushed
since, stands at the head of the queue. -/
def Dev.panelAgainFirst (d : Dev) (o : Nat) (u : PanelUpd) : Dev :=
  let x := d.panel o
  d.putPanel o { x with queue := ((x.queue.find? fun v => v.rgn == u.rgn).getD u) :: x.queue.filter fun v => v.rgn != u.rgn }

/-- A host push of region `r` (R580, R581): a region of surface 1 is sent from its latest whole buffer. [log entry 61: DEDUCED] -/
def Dev.panelPushOne (d : Dev) (o buf : Nat) (chg : Bool) (r : Nat) : Dev :=
  let src := d.on F.PANEL_RGN_A_SRC 0 o r
  match d.regionOk o r, (if src then (d.panel o).latest else some buf) with
  | true, some b => d.panelPend o ⟨r, b, chg, false⟩
  | _, _ => d.wr F.PANEL_STAT_REFUSED 1 0 o

/-- A write of `PANEL_PUSH`: the lower region first (R585). [log entry 61: DEDUCED] -/
def Dev.panelPush (d : Dev) (o w : Nat) : Dev :=
  if slice w 17 16 = 3 ∨ !d.on F.PANEL_CFG_EN 0 o then d
  else ((bitsOf w 16).foldl (fun d r => d.panelPushOne o (slice w 17 16) (bit w 19) r) d).panelHead o

def execPanelPush (o : Fin 2) (w : Word) (s : State) : Out := bar2 .PANEL 0 s fun d => d.panelPush o w.toNat

/-- A write of a region's registers, field by field unless the region runs or waits (R580). -/
def Dev.panelRgn (d : Dev) (l : RegLoc) (w : Nat) : Dev :=
  let x := d.panel l.i
  if (x.queue.any fun u => u.rgn == l.j) || (match x.job with | some r => r.upd.rgn == l.j | none => false) then
    d.wr F.PANEL_STAT_REFUSED 1 0 l.i
  else d.wrWord l w

/-! ### Enable and disable (R576, R586) -/

/-- Whether the configuration lets EN be set: the rate, and DSC's divisions. -/
def Dev.panelCfgOk (d : Dev) (o : Nat) : Bool :=
  let rate := d.rd F.PANEL_CFG_RATE 0 o
  let ns := d.rd F.PANEL_DSC_NSLICE 0 o
  let sh := d.rd F.PANEL_DSC_SLICE_H 0 o
  decide (80 ≤ rate) && decide (rate ≤ 4500) &&
    (!d.on F.PANEL_CFG_DSC 0 o ||
      (ns != 0 && sh != 0 && d.rd F.PANEL_SIZE_WIDTH 0 o % ns == 0 && d.rd F.PANEL_SIZE_HEIGHT 0 o % sh == 0))

/-- The output is OFF, with nothing pending. [log entry 61: DEDUCED] -/
def Dev.panelOff (d : Dev) (o : Nat) : Dev :=
  ((d.wr F.PANEL_STAT_STATE 0 0 o).putPanel o { d.panel o with queue := [], job := none }).showPanel o

/-- Clearing EN: a running transfer finishes, pending updates are discarded (R586). -/
def Dev.panelDisable (d : Dev) (o : Nat) : Dev :=
  let d := d.wr F.PANEL_CFG_EN 0 0 o
  let d := (d.putPanel o { d.panel o with queue := [] }).showPanel o
  if (d.panel o).job.isSome then d.wr F.PANEL_STAT_STATE 5 0 o else d.panelOff o

/-- A write of `PANEL_CFG`. While EN is set a write that changes another field is discarded. -/
def Dev.panelCfg (d : Dev) (o w : Nat) : Dev :=
  let l : RegLoc := ⟨.PANEL_CFG, 0, o, 0⟩
  if d.on F.PANEL_CFG_EN 0 o then
    if d.sameBut l F.PANEL_CFG_EN w && !bit w 31 then d.panelDisable o else d
  else
    let d := (d.wrWord l w).wr F.PANEL_CFG_EN 0 0 o
    if !bit w 31 || !d.panelCfgOk o then d
    else
      let d := d.wr F.PANEL_CFG_EN 1 0 o
      if d.panelState o = 0 then d.wr F.PANEL_STAT_STATE 1 0 o else d

def execPanelEnable (o : Fin 2) (w : Word) (s : State) : Out := bar2 .PANEL 0 s fun d => d.panelCfg o (w.toNat % 2 ^ 31 + 2 ^ 31)

def execPanelDisable (o : Fin 2) (s : State) : Out := bar2 .PANEL 0 s fun d => if d.on F.PANEL_CFG_EN 0 o then d.panelDisable o else d

/-- The Picture Parameter Set of an output (R576): VESA DSC 1.2a, RGB input at 10 bits a component, block prediction on.
[log entry 62: PRESUMED] -/
def Dev.panelPps (d : Dev) (o : Nat) : List Byte :=
  let w := d.rd F.PANEL_SIZE_WIDTH 0 o
  let h := d.rd F.PANEL_SIZE_HEIGHT 0 o
  let bpp := d.rd F.PANEL_DSC_BPP 0 o
  let sw := w / d.rd F.PANEL_DSC_NSLICE 0 o
  let sh := d.rd F.PANEL_DSC_SLICE_H 0 o
  let (depth, rest) := Config.dscPps bpp w h sw sh
  [BitVec.ofNat 8 0x12, 0, 0, BitVec.ofNat 8 (10 * 16 + depth % 16), BitVec.ofNat 8 (0x30 + bpp / 256), BitVec.ofNat 8 bpp] ++
    [h, w, sh, sw, ceilDiv (sw * bpp) 128].flatMap (fun n => (leBytes 2 n).reverse) ++
    (rest ++ List.replicate 72 0).take 72 ++ List.replicate 40 0

/-- What INIT sends (R576). -/
def Dev.panelInit (d : Dev) (o : Nat) : List PanelItem :=
  [.lp11] ++ (if 1500 < d.rd F.PANEL_CFG_RATE 0 o then [.deskew] else []) ++
    (if d.on F.PANEL_CFG_DSC 0 o then [.packet 0x07 [1, 0], .packet 0x0A (d.panelPps o)] else [])

/-- INIT ends. -/
def execPanelInitDone (o : Fin 2) (s : State) : Out := runHub s fun d =>
  if d.panelState o = 1 then
    ((d.putPanel o { d.panel o with link := d.panelInit o }).wr F.PANEL_STAT_STATE 2 0 o).panelHead o
  else d

/-- The command of `PANEL_DCS` is sent, when no transfer is running (R576). -/
def execPanelDcsSend (o : Fin 2) (s : State) : Out := runHub s fun d =>
  if d.on F.PANEL_DCS_GO 0 o && (d.panelState o == 2 || d.panelState o == 3) then
    let n := min 16 (d.rd F.PANEL_DCS_LEN 0 o)
    let pars := ((List.range 4).flatMap fun k => leBytes 4 (d.rd F.PANEL_DCS_DATA_DATA 0 o k)).take n
    let dt := if n = 0 then 0x05 else if n = 1 then 0x15 else 0x39
    (d.wr F.PANEL_DCS_GO 0 0 o).putPanel o { d.panel o with link := [.packet dt (BitVec.ofNat 8 (d.rd F.PANEL_DCS_CMD 0 o) :: pars)] }
  else d

/-! ### Transfers (R582 to R586) -/

/-- The transfer of the region at the head starts. -/
def Dev.panelStart (d : Dev) (o : Nat) : Dev :=
  match (d.panel o).queue with
  | u :: t =>
    ((d.wr F.PANEL_STAT_STATE 4 0 o).putPanel o
      { d.panel o with queue := t, job := some { upd := u, crc := crcInit, sig := crcInit } }).showPanel o
  | [] => d

def execPanelTransferStart (o : Fin 2) (s : State) : Out := runHub s fun d => if d.panelState o = 2 then d.panelStart o else d

/-- An edge of DSIo_TE: the active one starts a transfer that waits for it. -/
def execPanelTeEdge (o : Fin 2) (rising : Bool) (s : State) : Out := runHub s fun d =>
  if d.panelState o = 3 ∧ rising = !d.on F.PANEL_CFG_TEPOL 0 o then d.panelStart o else d

/-- TETO has passed without an edge. -/
def execPanelTeTimeout (o : Fin 2) (s : State) : Out := runHub s fun d =>
  if d.panelState o = 3 then (d.wr F.PANEL_STAT_TEMISS 1 0 o).panelStart o else d

/-- The packets of a line: one, or one a slice that the region covers. -/
def Dev.panelSlices (d : Dev) (o r : Nat) : Nat :=
  if d.on F.PANEL_CFG_DSC 0 o then d.rd F.PANEL_RGN_B_W 0 o r / (d.rd F.PANEL_SIZE_WIDTH 0 o / d.rd F.PANEL_DSC_NSLICE 0 o) else 1

/-- The packets of a transfer of region `r`. -/
def Dev.panelPackets (d : Dev) (o r : Nat) : Nat := d.rd F.PANEL_RGN_B_H 0 o r * d.panelSlices o r

/-- Whether the surface that an update reads can be reached. -/
def Dev.panelReach (d : Dev) (o r : Nat) : Bool := (d.surface o (d.rd F.PANEL_RGN_A_SRC 0 o r)).1 || d.hostOk

/-- A component as eight bits. -/
def comp8 (v : Nat) : Byte := BitVec.ofNat 8 (min 255 ((v + 2) / 4))

/-- The bytes of a pixel for the signature. -/
def sigBytes (x : Nat × Nat × Nat) : List Byte := leBytes 4 (x.1 + 2 ^ 10 * x.2.1 + 2 ^ 20 * x.2.2)

/-- A line is fetched as the first of its packets goes out: its pixels join the band, and the signature. The pairs of FMT 0 are those of
the panel's line, so the fetch begins at the pair of the region's first pixel. -/
def Dev.panelFetch (d : Dev) (o : Nat) (j : PanelRun) (line : Nat) : PanelRun × Dev :=
  let r := j.upd.rgn
  let k := d.rd F.PANEL_RGN_A_SRC 0 o r
  let x := d.rd F.PANEL_RGN_A_X0 0 o r
  let w := d.rd F.PANEL_RGN_B_W 0 o r
  let a := d.pixelAt o k j.upd.buf (d.rd F.PANEL_RGN_A_Y0 0 o r + line) (x - x % 2)
  let (ws, d) := d.surfaceRead o k a (ceilDiv (x % 2 + w) 2)
  let px := ((ws.flatMap (pixelsOf (d.surface o k).2.2.1 (d.on F.PANEL_CFG_MATRIX 0 o))).drop (x % 2)).take w
  let bad := (ws.filter fun v => v.2.2).length
  let d := d.bumpBy bad C.PANEL_CNT 0 o 3
  let band := if d.on F.PANEL_CFG_DSC 0 o && line % d.rd F.PANEL_DSC_SLICE_H 0 o != 0 then j.rows else []
  ({ j with rows := band ++ [px], sig := crcRun j.sig (px.flatMap sigBytes), black := j.black || decide (0 < bad) }, d)

/-- The payload of the packet of slice `k` of the line fetched last. -/
def Dev.panelPayload (d : Dev) (o : Nat) (j : PanelRun) (k : Nat) : List Byte :=
  if d.on F.PANEL_CFG_DSC 0 o then
    let sw := d.rd F.PANEL_SIZE_WIDTH 0 o / d.rd F.PANEL_DSC_NSLICE 0 o
    let bpp := d.rd F.PANEL_DSC_BPP 0 o
    let n := ceilDiv (sw * bpp) 128
    let raw := Config.dscLine bpp (j.rows.map fun row => (row.drop (k * sw)).take sw)
    (raw ++ List.replicate n 0).take n
  else (j.rows.getLastD []).flatMap fun (r, g, b) => [comp8 r, comp8 g, comp8 b]

/-- A packet of the running transfer goes out; `level` is the fetched data that then remain unsent, in KiB (R583). [log entry 61: DEDUCED] -/
def Dev.panelPacket (d : Dev) (o level : Nat) : Dev :=
  match (d.panel o).job with
  | none => d
  | some j =>
    let r := j.upd.rgn
    let ns := d.panelSlices o r
    if d.panelPackets o r ≤ j.sent ∨ ns = 0 ∨ !d.panelReach o r then d
    else
      let (j, d) := if j.sent % ns = 0 then d.panelFetch o j (j.sent / ns) else (j, d)
      let bytes := (if j.sent = 0 then (0x2C : Byte) else 0x3C) :: d.panelPayload o j (j.sent % ns)
      let last := decide (j.sent + 1 = d.panelPackets o r)
      let v := d.rd F.PANEL_TUNE_WMARK 0 o
      let wmark := if v = 0 then 0x30 else v
      let low := decide (level < wmark) && !last
      let urgent := if low then true else if wmark + 16 < level then false else j.urgent
      let j' := { j with sent := j.sent + 1, crc := crcRun j.crc bytes, urgent := urgent, warned := j.warned || low }
      let d := d.putPanel o { d.panel o with job := some j', link := [.packet 0x39 bytes] }
      if low && !j.warned then d.raise 568 o else d

def execPanelPacketSend (o : Fin 2) (level : Nat) (s : State) : Out := runHub s fun d => d.panelPacket o level

/-- The freeze detector at the end of a transfer with signature `sig` (R584). -/
def Dev.panelFreeze (d : Dev) (o : Nat) (u : PanelUpd) (sig : Nat) : Dev :=
  let x := d.panel o
  let g := Tab.get {} x.sigs u.rgn
  let v := d.rd F.PANEL_TUNE_FRZN 0 o
  let frzn := if v = 0 then 8 else v
  let counts := u.group || u.chg
  let same := g.sig == some sig
  let n := if !same then 0 else if counts then g.same + 1 else g.same
  let tell := same && counts && decide (frzn ≤ n) && !g.told && d.on F.PANEL_CFG_FRZCHK 0 o
  let d := d.putPanel o { x with sigs := Tab.put x.sigs u.rgn ⟨some sig, n, if same then g.told || tell else false⟩ }
  if tell then d.raise 567 (pack [(1, o), (4, u.rgn)]) else d

/-- The pad check at the end of a transfer (R584): `pad` is the pad-sampled CRC where it differs from the expected one. [log entry 61: DEDUCED] -/
def Dev.panelCrc (d : Dev) (o : Nat) (u : PanelUpd) (exp : Nat) (pad : Option Word) : Dev :=
  if !d.on F.PANEL_CFG_CRCCHK 0 o then d
  else
    let got := match pad with | some w => w.toNat | none => exp
    let d := (d.wr F.PANEL_CRC_EXP_CRC exp 0 o).wr F.PANEL_CRC_PAD_CRC got 0 o
    if got = exp then d
    else ((d.raise 566 (pack [(1, o), (4, u.rgn)])).bump C.PANEL_CNT 0 o 2).panelAgain o u

/-- A transfer has ended, by its last packet or aborted: the next one may start; a stopping output is OFF. [log entry 61: DEDUCED] -/
def Dev.panelEnd (d : Dev) (o : Nat) (u : PanelUpd) (aborted : Bool) : Dev :=
  let d := (d.raise (564 + o) (u.rgn + b2n aborted * 2 ^ 31)).bump C.PANEL_CNT 0 o 0
  let d := d.putPanel o { d.panel o with job := none }
  if d.panelState o = 5 then (if d.on F.PANEL_CFG_EN 0 o then (d.wr F.PANEL_STAT_STATE 1 0 o).showPanel o else d.panelOff o)
  else (d.wr F.PANEL_STAT_STATE 2 0 o).panelHead o

/-- Step 5 of R582. -/
def execPanelTransferDone (o : Fin 2) (pad : Option Word) (s : State) : Out := runHub s fun d =>
  match (d.panel o).job with
  | some j =>
    if j.sent < d.panelPackets o j.upd.rgn then d
    else
      let stopping := d.panelState o == 5
      let q := (d.panel o).queue
      let d := d.panelCrc o j.upd (crcEnd j.crc) pad
      let d := d.panelFreeze o j.upd (crcEnd j.sig)
      let d := if j.black then d.panelAgain o j.upd else d
      let d := if stopping then d.putPanel o { d.panel o with queue := q } else d
      d.panelEnd o j.upd false
  | none => d

/-- Host memory has been unreachable for 200 ms: the transfer ends with ABORTED and its region is pending again (R586). -/
def execPanelFetchTimeout (o : Fin 2) (s : State) : Out := runHub s fun d =>
  match (d.panel o).job with
  | some j =>
    if d.panelReach o j.upd.rgn then d
    else if d.panelState o = 5 then d.panelEnd o j.upd true
    else (d.panelAgainFirst o j.upd).panelEnd o j.upd true
  | none => d

/-! ### Surface 1 (R578) -/

/-- The first line of a joined frame: the lowest buffer that no transfer reads and no pending update names. -/
def Dev.panelPick (d : Dev) (o : Nat) : Dev :=
  let x := d.panel o
  let all := x.queue ++ (match x.job with | some r => [r.upd] | none => [])
  let used := (all.filter fun u => d.on F.PANEL_RGN_A_SRC 0 o u.rgn).map (·.buf)
  let b := ((List.range 3).find? fun b => !used.contains b).getD 0
  d.putPanel o { x with fill := some (b, false) }

/-- Line `y` of a joined frame is written to the buffer of surface 1; a poisoned token, or host memory that cannot be written, spoils
the frame. [log entry 61: DEDUCED] -/
def Dev.panelLine (d : Dev) (o y : Nat) (toks : List Nat) (psn : Bool) : Dev :=
  let d := if y = 0 then d.panelPick o else d
  match (d.panel o).fill with
  | none => d
  | some (b, bad) =>
    let (dram, p, _, _) := d.surface o 1
    let a := d.pixelAt o 1 b y 0
    let bs := toks.flatMap (leBytes 4)
    let lost := !dram && !d.hostOk
    let d := if dram then d.dramWrite p (0x32 + o) a bs else if lost then d else d.hostWrite a bs
    d.putPanel o { d.panel o with fill := some (b, bad || psn || lost) }

/-- The joined frame is whole: its EOF is due at the output. -/
def Dev.panelFrame (d : Dev) (o : Nat) : Dev :=
  let x := d.panel o
  d.putPanel o { x with due := x.fill, fill := none }

/-- EOF of a joined frame: every enabled region of surface 1 is pushed with its buffer; a frame with a poisoned token is not
(`PANEL_CNT` kind 3). -/
def execPanelSurfaceFrameEof (o : Fin 2) (s : State) : Out := runHub s fun d =>
  let x := d.panel o
  match x.due with
  | none => d
  | some (b, bad) =>
    let d := d.putPanel o { x with due := none }
    if bad then d.bump C.PANEL_CNT 0 o 3
    else
      let d := d.putPanel o { d.panel o with latest := some b }
      if !d.on F.PANEL_CFG_EN 0 o then d
      else
        let rs := (List.range 16).filter fun r => d.on F.PANEL_RGN_A_EN 0 o r && d.on F.PANEL_RGN_A_SRC 0 o r
        (rs.foldl (fun d r => if d.regionOk o r then d.panelPend o ⟨r, b, false, true⟩ else d.wr F.PANEL_STAT_REFUSED 1 0 o) d).panelHead o

/-! ### Picture groups (R570 to R572) -/

/-- Picture group `g`. -/
def Dev.pasm (d : Dev) (g : Nat) : Pasm := Tab.get {} d.hub.pasm g

/-- The device with a picture group replaced. -/
def Dev.putPasm (d : Dev) (g : Nat) (x : Pasm) : Dev := d.updHub fun h => { h with pasm := Tab.set {} h.pasm g x }

/-- The pixels of pipe `n`'s part. -/
def Dev.pasmW (d : Dev) (g n : Nat) : Nat :=
  match n with
  | 0 => d.rd F.HUB_PASM_W01_W0 0 g
  | 1 => d.rd F.HUB_PASM_W01_W1 0 g
  | 2 => d.rd F.HUB_PASM_W23_W0 0 g
  | _ => d.rd F.HUB_PASM_W23_W1 0 g

/-- The black token of a group. -/
def Dev.pasmBlack (d : Dev) (g : Nat) : Nat :=
  let v := d.rd F.HUB_PASM_CFG_IBITS 0 g
  let ib := if 8 ≤ v ∧ v ≤ 16 then v else 10
  16 * 2 ^ (ib - 8) + 128 * 2 ^ (ib - 8) * 2 ^ 16

/-- A part of a line brought to `w` pixels: tokens and whether each is poisoned. -/
def pasmPart (w black : Nat) (l : Option PicLine) : List (Nat × Bool) :=
  let have_ := match l with
    | some x => (List.range x.toks.length).map fun i => (x.toks.getD i 0, x.psn.getD i false)
    | none => []
  (have_ ++ List.replicate (w - have_.length) (black, false)).take w

/-- Packs tokens two to a word, the last word ending the item (R155). -/
def packTokens : List (Nat × Bool) → List CaskWord
  | (a, p) :: (b, q) :: (c : List (Nat × Bool)) => { data := a + b * 2 ^ 32, fin := c.isEmpty, psn := p || q } :: packTokens c
  | [(a, p)] => [{ data := a, fin := true, psn := p }]
  | [] => []

/-- A joined line goes to its destination (R572). -/
def Dev.pasmSend (d : Dev) (g line : Nat) (toks : List (Nat × Bool)) : Dev :=
  match d.rd F.HUB_PASM_CFG_DEST 0 g with
  | 0 => d.panelLine (d.rd F.HUB_PASM_CFG_DOUT 0 g % 2) line (toks.map (·.1)) (toks.any (·.2))
  | 1 => d.asmToLive (d.rd F.HUB_PASM_CFG_DPIPE 0 g) (d.rd F.HUB_PASM_CFG_DOUT 0 g) (packTokens toks)
  | _ => d

/-- A joined frame has ended; the next line begins another one, without the lines beyond LINES (R571). -/
def Dev.pasmFrame (d : Dev) (g : Nat) : Dev :=
  let x := d.pasm g
  let late := (d.pasmPipes g).filter fun n => !x.ended.contains n && !x.drop.contains n
  let rest := late.filter fun n => !(Tab.get [] x.q n).any fun l => l.eof
  let cut := fun (q : Tab (List PicLine)) (n : Nat) =>
    Tab.set [] q n (((Tab.get [] q n).dropWhile fun l => !l.eof).drop 1)
  let d := d.putPasm g { line := 0, q := late.foldl cut x.q, drop := x.drop ++ rest }
  let d := (d.wr F.HUB_PASM_STAT_RUN 0 0 g).wr F.HUB_PASM_STAT_FRAME (d.rd F.HUB_PASM_STAT_FRAME 0 g + 1) 0 g
  if d.rd F.HUB_PASM_CFG_DEST 0 g = 0 then d.panelFrame (d.rd F.HUB_PASM_CFG_DOUT 0 g % 2) else d

/-- PASM_FILL at the first fill of a frame. [log entry 63: DEDUCED] -/
def Dev.pasmFill (d : Dev) (g : Nat) (fill : Bool) : Dev :=
  if fill && !(d.pasm g).filled then
    (d.putPasm g { d.pasm g with filled := true }).raise 561 (pack [(3, g), (4, d.rd F.HUB_PASM_STAT_ABSENT 0 g)])
  else d

/-- The line being joined is complete: every pipe has delivered, ended or is absent. -/
def Dev.pasmEmit (d : Dev) (g : Nat) : Dev :=
  let x := d.pasm g
  let heads := (d.pasmPipes g).map fun n =>
    (n, if x.ended.contains n || x.drop.contains n || bit (d.rd F.HUB_PASM_STAT_ABSENT 0 g) n then none else (Tab.get [] x.q n).head?)
  let fill := heads.any fun (n, h) => match h with | some l => decide (l.toks.length < d.pasmW g n) | none => true
  let toks := heads.flatMap fun (n, h) => pasmPart (d.pasmW g n) (d.pasmBlack g) h
  let took := heads.filter fun h => h.2.isSome
  let q := took.foldl (fun q h => Tab.set [] q h.1 ((Tab.get [] q h.1).drop 1)) x.q
  let ended := x.ended ++ (took.filter fun h => match h.2 with | some l => l.eof | none => false).map (·.1)
  let d := d.pasmFill g fill
  let d := (d.putPasm g { d.pasm g with line := x.line + 1, t0 := none, q := q, ended := ended }).pasmSend g x.line toks
  if d.rd F.HUB_PASM_LINES_LINES 0 g ≤ x.line + 1 then d.pasmFrame g else d

/-- Joins lines as long as one is complete. The first line of a frame clears the record of absent pipes. [log entry 63: DEDUCED] -/
def Dev.pasmRun (d : Dev) (g : Nat) : Nat → Dev
  | 0 => d
  | n + 1 =>
    let x := d.pasm g
    let pipes := d.pasmPipes g
    let gone := fun (n : Nat) => x.ended.contains n || bit (d.rd F.HUB_PASM_STAT_ABSENT 0 g) n
    let has := fun (n : Nat) => !(Tab.get [] x.q n).isEmpty
    let running := d.on F.HUB_PASM_STAT_RUN 0 g
    if !running && !pipes.any has then d
    else
      let d := if running then d else (d.wr F.HUB_PASM_STAT_RUN 1 0 g).wr F.HUB_PASM_STAT_ABSENT 0 0 g
      let gone := fun (n : Nat) => if running then gone n else x.ended.contains n
      let begun := pipes.any fun n => has n && !gone n
      let whole := pipes.all fun n => gone n || has n
      if whole then (d.pasmEmit g).pasmRun g n
      else if begun && x.t0.isNone then d.putPasm g { x with t0 := some d.c }
      else d

/-- More steps than a join can take: the lines that wait, and a frame's lines twice. -/
def Dev.pasmFuel (d : Dev) (g : Nat) : Nat :=
  ((d.pasm g).q.map fun x => x.2.length).sum + 2 * d.rd F.HUB_PASM_LINES_LINES 0 g + 2

/-- An input of the assembly path delivers a line. -/
def Dev.pasmLine (d : Dev) (i : Nat) (l : PicLine) : Dev :=
  match d.pasmOf i with
  | none => d
  | some (g, n) =>
    let x := d.pasm g
    if d.hub.lost then d
    else if x.drop.contains n then (if l.eof then d.putPasm g { x with drop := x.drop.filter fun m => m != n } else d)
    else
      let d := d.putPasm g { x with q := Tab.put x.q n (Tab.get [] x.q n ++ [l]) }
      d.pasmRun g (d.pasmFuel g)

def execPasmLineInput (i : Fin 64) (toks : List Nat) (psn : List Bool) (eof : Bool) (s : State) : Out :=
  runWork s fun d => d.pasmLine i ⟨toks, psn, eof⟩

/-- PWIN has passed since the line started: the pipes that have not delivered are absent for the rest of the frame (R571). -/
def execPasmWindowExpiry (g : Fin 8) (s : State) : Out := runWork s fun d =>
  let x := d.pasm g
  if x.t0.isNone || d.hub.lost then d
  else
    let miss := (d.pasmPipes g).filter fun n =>
      !x.ended.contains n && !bit (d.rd F.HUB_PASM_STAT_ABSENT 0 g) n && (Tab.get [] x.q n).isEmpty
    let d := miss.foldl (fun d n => d.wr F.HUB_PASM_STAT_ABSENT (setBit (d.rd F.HUB_PASM_STAT_ABSENT 0 g) n) 0 g) d
    let d := d.putPasm g { x with drop := x.drop ++ miss.filter fun n => !x.drop.contains n }
    d.pasmRun g (d.pasmFuel g)

/-- A write of `HUB_PASM_CFG` of group `g` (R570): while EN is set only EN may change; EN stays clear where the inputs pass 63 or
overlap another group's. -/
def Dev.pasmCfg (d : Dev) (g w : Nat) : Dev :=
  let l : RegLoc := ⟨.HUB_PASM_CFG, 0, g, 0⟩
  if d.on F.HUB_PASM_CFG_EN 0 g then
    if bit w 31 || !d.sameBut l F.HUB_PASM_CFG_EN w then d
    else ((d.wr F.HUB_PASM_CFG_EN 0 0 g).wr F.HUB_PASM_STAT_RUN 0 0 g).putPasm g {}
  else
    let d := (d.wrWord l w).wr F.HUB_PASM_CFG_EN 0 0 g
    let ins := (d.pasmPipes g).map fun n => d.rd F.HUB_PASM_CFG_IBASE 0 g + n
    if !bit w 31 || ins.any fun i => decide (63 < i) || (d.pasmOf i).isSome then d
    else ((d.wr F.HUB_PASM_CFG_EN 1 0 g).wr F.HUB_PASM_STAT_FRAME 0 0 g).putPasm g {}

/-! ### The event router's own commands (R564 to R568) -/

/-- TIME of vector `v` has passed since its first held event: a message is due (R565). -/
def execMsixCoalesceTimeout (v : Fin 1024) (s : State) : Out := run s fun d =>
  match Tab.find d.router.coal v.val with
  | some _ =>
    if d.hub.lost then d
    else d.updRouter fun r => { r with owed := insertNum v r.owed, coal := Tab.del r.coal v }
  | none => d

/-- A host write of an entry of the MSI-X table in BAR4: its mask bit, and its message's address and data where they are written. One that
unmasks the vector lets an owed message go out (R564). -/
def execMsixVectorUnmask (x : MsixWrite) (s : State) : Out := run s fun d =>
  d.updRouter fun r =>
    let e := Tab.get {} r.table x.v
    let e := match x.msg with | some (a, w) => { e with addr := a % 2 ^ 64, data := w.toNat } | none => e
    { r with table := Tab.set {} r.table x.v { e with unmasked := !x.masked } }

/-- A W1C write of `EVT_STAT` word `k` (R561, R567): the management controller's interrupt for a source goes with its bit. -/
def Dev.evtClear (d : Dev) (k w : Nat) : Dev :=
  let gone := fun (e : Nat) => e / 32 == 16 + k && bit w (e % 32)
  d.updRouter fun r => { r with stat := r.stat.filter fun e => !gone e, mc := r.mc.filter fun e => !gone e }

def execEvtStatClear (k : Fin 16) (w : Word) (s : State) : Out := bar2 .EVT 0 s fun d => d.evtClear k w.toNat

end Sys2Proof.Machine
end

