-- ==== Sys2Proof/Machine/Aud.lean ====
section
/-!
DEFINITION. The audio ports (chapter 20): paths, media frames, rings, triggers, and the streams to live outputs. Path x is path x mod 2
(0 capture, 1 playback) of port x / 2.
-/
namespace Sys2Proof.Machine

/-- The device with the audio unit changed. -/
def Dev.updAud (d : Dev) (f : Aud → Aud) : Dev := d.updHub fun h => { h with aud := f h.aud }

/-- Audio path `x`. -/
def Dev.apath (d : Dev) (x : Nat) : AudPath := Tab.get {} d.hub.aud.paths x

/-- The device with an audio path replaced. -/
def Dev.putApath (d : Dev) (x : Nat) (y : AudPath) : Dev := d.updAud fun a => { a with paths := Tab.set {} a.paths x y }

/-- `AUD_XSTAT.STATE`: 0 OFF, 1 IDLE, 2 RUNIN, 3 RUN, 4 RUNOUT. -/
def Dev.audState (d : Dev) (x : Nat) : Nat := d.rd F.AUD_XSTAT_STATE 0 (x / 2) (x % 2)

/-- A path enters a state. -/
def Dev.setAud (d : Dev) (x st : Nat) : Dev := d.wr F.AUD_XSTAT_STATE st 0 (x / 2) (x % 2)

/-- Whether a path and its port are enabled. -/
def Dev.audEn (d : Dev) (x : Nat) : Bool := d.on F.AUD_PCFG_EN 0 (x / 2) && d.on F.AUD_XCFG_EN 0 (x / 2) (x % 2)

/-- Whether an ASRC serves a path. -/
def Dev.audAsrc (d : Dev) (x : Nat) : Bool := d.on F.AUD_XCFG_ASRC 0 (x / 2) (x % 2)

/-- The slots of port `k`'s frame (R589). -/
def Dev.audSlots (d : Dev) (k : Nat) : Nat := if d.rd F.AUD_PCFG_FMT 0 k = 2 then d.rd F.AUD_PCFG_NSLOTM1 0 k + 1 else 2

/-- The slots a path uses, ascending (R591). -/
def Dev.audMask (d : Dev) (x : Nat) : List Nat := bitsOf (d.rd F.AUD_XCFG_SLOTMASK 0 (x / 2) (x % 2)) (d.audSlots (x / 2))

/-- The width of a slot in BCLKs. -/
def Dev.audSlotW (d : Dev) (k : Nat) : Nat := match d.rd F.AUD_PCFG_SLOTW 0 k with | 0 => 16 | 1 => 24 | _ => 32

/-- The bits of a sample: 24, or 16, which 24 in a 16-bit slot applies. -/
def Dev.audBits (d : Dev) (k : Nat) : Nat := if d.on F.AUD_PCFG_SAMP24 0 k && d.rd F.AUD_PCFG_SLOTW 0 k != 0 then 24 else 16

/-! ### The pins (R588, R589) -/

/-- A port's frame rate in Hz. -/
def Dev.audRate (d : Dev) (k : Nat) : Nat := [32000, 44100, 48000, 88200, 96000].getD (d.rd F.AUD_PCFG_RATE 0 k) 48000

/-- The level of FS at bit `i` of a frame, counted from the first bit of slot 0: I²S is low for slot 0 and leads its data by one BCLK,
left-justified is high for slot 0, TDM is a pulse of a bit or a slot that begins one BCLK before slot 0. -/
def Dev.audFs (d : Dev) (k i : Nat) : Bool :=
  let w := d.audSlotW k
  let n := d.audSlots k * w
  match d.rd F.AUD_PCFG_FMT 0 k with
  | 0 => (i + 1) % n / w == 1
  | 1 => i / w == 0
  | _ => decide ((i + 1) % n < (if d.on F.AUD_PCFG_FSW 0 k then w else 1))

/-- The bits of a frame whose slots hold the samples `out`: most significant first, left-aligned, a slot without a sample zero. -/
def Dev.audSdo (d : Dev) (k : Nat) (out : List Nat) : List Bool :=
  let b := d.audBits k
  (List.range (d.audSlots k)).flatMap fun i =>
    (List.range (d.audSlotW k)).map fun j => decide (j < b) && (out.getD i 0).testBit (b - 1 - j)

/-- What port `k` drives for its frame: zeros but for the playback path's samples while that path runs; nothing while its clocks stand
still (R598). -/
def Dev.audPins (d : Dev) (k : Nat) : Dev :=
  let master := d.on F.AUD_PCFG_MASTER 0 k
  let on := [2 * k, 2 * k + 1].any fun x => decide (2 ≤ d.audState x)
  let y := d.apath (2 * k + 1)
  let out := if d.audState (2 * k + 1) ≠ 3 then [] else if d.audAsrc (2 * k + 1) then
      Config.asrcOut (d.rd F.AUD_XSTAT_RATIO 0 k 1) (y.out :: y.ahead) else y.out
  let n := d.audSlots k * d.audSlotW k
  let wire : AudWire := if !on then {} else
    { bclk := if master then d.audRate k * n else 0, fall := !d.on F.AUD_PCFG_BCLKINV 0 k,
      fs := if master then (List.range n).map (d.audFs k) else [], sdo := d.audSdo k out }
  d.updAud fun a => { a with wires := Tab.set {} a.wires k wire }

/-- The first media frame at or after `t` (2⁻⁸ ns) (R590). -/
def mediaFrom (t : Nat) : Nat := ceilDiv (t * 48000) 256000000000

/-- The media frame whose instant this is, to the nearest. [log entry 64: DESIGN CHOICE] -/
def Dev.mediaNow (d : Dev) : Nat := roundDiv (d.hubTime * 48000) 256000000000

/-- t(n) in whole nanoseconds. -/
def mediaNs (n : Nat) : Nat := n * 1000000000 / 48000

/-- A port's event: the path or stream and the kind, 0 OVF, 1 UNDERRUN, 2 SLIP, 4 MISMATCH (R603). -/
def Dev.audEvent (d : Dev) (k who kind : Nat) : Dev := d.raise (569 + k) (pack [(3, who), (3, kind)])

/-! ### Rings (R594 to R597) -/

/-- An audio item (R594). -/
def audItem (first nch : Nat) (frames : List (List Nat)) (silent disc : Bool) : List Byte :=
  let ns := mediaNs first
  pad8 (leBytes 4 (ns % 1000000000) ++ leBytes 6 (ns / 1000000000) ++ leBytes 2 frames.length ++ leBytes 1 nch ++
    leBytes 1 (b2n silent + 2 * b2n disc) ++ leBytes 2 0 ++ frames.flatMap fun f => f.flatMap (leBytes 4))

/-- The ring of a path in bytes: out of contract applies 16. -/
def Dev.audRing (d : Dev) (x : Nat) : Nat :=
  let r := d.rd F.AUD_XRING_LO_RSIZE 0 (x / 2) (x % 2)
  2 ^ (if 12 ≤ r ∧ r ≤ 24 then r else 16)

/-- The ring's base. -/
def Dev.audBase (d : Dev) (x : Nat) : Nat := d.rd64 F.AUD_XRING_LO_BASE_LO F.AUD_XRING_HI_BASE_HI 0 (x / 2) (x % 2)

/-- Writes a capture item at the device pointer, from offset 0 where it would cross the end; one that would reach the host pointer,
or cannot be written, is dropped (R595, R597). -/
def Dev.audWrite (d : Dev) (x : Nat) (item : List Byte) : Dev :=
  let k := x / 2
  let size := d.audRing x
  let tail := 8 * d.rd F.AUD_XDEV_TAIL 0 k (x % 2)
  let head := 8 * d.rd F.AUD_XHOST_HEAD 0 k (x % 2)
  let skip := if size < tail + item.length then size - tail else 0
  let used := (tail + size - head % size) % size
  if !d.hostOk || decide (size ≤ used + skip + item.length) then
    ((d.wr F.AUD_XDEV_OVF 1 0 k (x % 2)).bump C.AUD_CNT 0 k 0).audEvent k (x % 2) 0
  else
    let at_ := if skip = 0 then tail else 0
    (d.hostWrite (d.audBase x + at_) item).wr F.AUD_XDEV_TAIL ((at_ + item.length) % size / 8) 0 k (x % 2)

/-- The item being formed is written, whole or in part; `disc` marks the next one. -/
def Dev.audFlush (d : Dev) (x : Nat) (disc : Bool) : Dev :=
  let y := d.apath x
  let d := if y.frames.isEmpty then d else d.audWrite x (audItem y.first (d.audMask x).length y.frames y.silent y.disc)
  d.putApath x { y with frames := [], silent := false, disc := disc }

/-- The frames of a capture item. -/
def Dev.audBlock (d : Dev) (x : Nat) : Nat :=
  let v := d.rd F.AUD_XCFG_BLOCK 0 (x / 2) (x % 2)
  if v = 0 then 48 else v

/-! ### Streams to live outputs (R600) -/

/-- The item of stream `s` goes to the live output's cask, where its form agrees with the output's. [log entry 64: DESIGN CHOICE] -/
def Dev.audStreamSend (d : Dev) (s : Nat) (y : AudStream) : Dev :=
  let p := d.rd F.AUD_SCFG_DPIPE 0 s
  let o := d.rd F.AUD_SCFG_DLIVE 0 s
  let nch := d.rd F.AUD_SCFG_NCHM1 0 s + 1
  if d.rd F.NET_LO_PKT_CH p o + 1 != nch || d.on F.NET_LO_PKT_PT125 p o != d.on F.AUD_SCFG_PT125 0 s then
    (d.wr F.AUD_SSTAT_MISMATCH 1 0 s).audEvent (d.rd F.AUD_SCFG_PORT 0 s) s 4
  else
    let bs := audItem y.first nch y.frames y.silent y.disc
    let d := if d.asmBound p o then d.caskSend p (d.rd F.NET_LO_CFG_ICASK p o) (0x4038 + s) (wordsOfBytes true bs.length bs) else d
    d.wr F.AUD_SSTAT_ITEMS (d.rd F.AUD_SSTAT_ITEMS 0 s + 1) 0 s

/-- Stream `s` takes its channels of media frame `n` of its port's capture path. -/
def Dev.audStream (d : Dev) (s n : Nat) (frame : List Nat) (silent : Bool) : Dev :=
  let first := d.rd F.AUD_SCFG_FIRST 0 s
  let nch := d.rd F.AUD_SCFG_NCHM1 0 s + 1
  let size := if d.on F.AUD_SCFG_PT125 0 s then 6 else 48
  let y := Tab.get {} d.hub.aud.streams s
  let begins := n % size == 0
  if decide (frame.length < first + nch) || (y.frames.isEmpty && !begins) then d
  else
    let d := d.wr F.AUD_SSTAT_RUN 1 0 s
    let y : AudStream := if begins then ⟨n, [], false, y.disc && y.frames.isEmpty⟩ else y
    let y := { y with frames := y.frames ++ [(frame.drop first).take nch], silent := y.silent || silent }
    let whole := y.frames.length == size
    let d := d.updAud fun a => { a with streams := Tab.set {} a.streams s (if whole then {} else y) }
    if whole then d.audStreamSend s y else d

/-! ### Media frames (R590 to R597) -/

/-- The contents of a slot as the 32-bit word of memory (R589, R591): the sample is left-aligned in the slot, and in the word. -/
def Dev.audSample (d : Dev) (k v : Nat) : Nat :=
  let b := d.audBits k
  v / 2 ^ (d.audSlotW k - b) % 2 ^ b * 2 ^ (32 - b)

/-- The elastic store of a path without an ASRC at a media frame (R593): capture fills it with the port's frames and takes one, playback
fills it with one and the port takes its own. The frames dropped beyond 16, those missing, and what the store then holds. A master port's
clock is the media clock. -/
def Dev.audElastic (d : Dev) (x : Nat) (f : AudFrame) : Nat × Nat × Nat :=
  let ports := if d.on F.AUD_PCFG_MASTER 0 (x / 2) then 1 else f.ports
  let (inp, out) := if x % 2 = 0 then (ports, 1) else (1, ports)
  let lvl := (d.apath x).fill + inp
  if x % 2 = 0 then (lvl - out - 16, out - lvl, min 16 (lvl - out)) else (lvl - 16, out - min 16 lvl, min 16 lvl - out)

/-- Counts the slips of a path at a media frame, each with AUD_PORT; the answer says whether a zero frame stands for a missing one. -/
def Dev.audSlip (d : Dev) (x : Nat) (f : AudFrame) : Bool × Dev :=
  if d.audAsrc x then (false, d)
  else
    let (beyond, lack, left) := d.audElastic x f
    let d := d.putApath x { d.apath x with fill := left }
    (decide (0 < lack), (List.range (beyond + lack)).foldl (fun d _ => (d.bump C.AUD_CNT 0 (x / 2) 2).audEvent (x / 2) (x % 2) 2) d)

/-- Media frame `n` of a running capture path. -/
def Dev.audCapture (d : Dev) (x n : Nat) (f : AudFrame) : Dev :=
  let k := x / 2
  let (lack, d) := d.audSlip x f
  let mute := lack || (d.audAsrc x && !d.on F.AUD_XSTAT_LOCK 0 k 0)
  let d := if mute then d.bump C.AUD_CNT 0 k 3 else d
  let frame := (d.audMask x).map fun i => if mute then 0 else d.audSample k (f.slots.getD i 0)
  let y := d.apath x
  let d := d.putApath x { y with first := if y.frames.isEmpty then n else y.first, frames := y.frames ++ [frame], silent := y.silent || mute }
  let d := if d.audBlock x ≤ (d.apath x).frames.length then d.audFlush x false else d
  (List.range 8).foldl (fun d s =>
    if d.on F.AUD_SCFG_EN 0 s && d.rd F.AUD_SCFG_PORT 0 s == k then d.audStream s n frame mute else d) d

/-- Frame `m` of a playback run is taken from the ring, or is an underrun (R596). With an ASRC it is read 64 media frames before it is due
at the pins (R592). -/
def Dev.audPlay (d : Dev) (x m : Nat) (f : AudFrame) : Dev :=
  let k := x / 2
  let y := d.apath x
  let slots := d.audMask x
  let fb := 4 * slots.length
  let size := d.audRing x
  let off : Int := ((m : Int) - y.start) * fb
  let pos := (off % (size : Int)).toNat
  let short := decide ((y.written : Int) < off + fb) || !d.hostOk
  let (lack, d) := d.audSlip x f
  let mute := lack || (d.audAsrc x && !d.on F.AUD_XSTAT_LOCK 0 k 1)
  let d := if mute then d.bump C.AUD_CNT 0 k 3 else d
  let d := if short then
      let d := (d.bump C.AUD_CNT 0 k 1).wr F.AUD_XDEV_OVF 1 0 k 1
      if y.under then d else d.audEvent k 1 1
    else d
  let b := d.audBits k
  let words := (List.range slots.length).map fun j =>
    if short || mute then 0 else d.hostMem.readLe (d.audBase x + (pos + 4 * j) % size) 4 / 2 ^ (32 - b)
  let out := (List.range (d.audSlots k)).map fun i => match slots.idxOf? i with | some j => words.getD j 0 | none => 0
  let y : AudPath := { d.apath x with under := short }
  let y : AudPath := if !d.audAsrc x then { y with out := out }
    else if y.ahead.length < 64 then { y with ahead := y.ahead ++ [out] }
    else { y with out := y.ahead.headD [], ahead := y.ahead.drop 1 ++ [out] }
  (d.putApath x y).wr F.AUD_XDEV_TAIL ((pos + fb) % size / 8) 0 k 1

/-- The pending trigger of path `x` with operation `op`. -/
def Dev.audPending (d : Dev) (x op : Nat) : Option AudTrig := d.hub.aud.trigs.find? fun t => bit t.paths x && t.op == op

/-- A path at media frame `n`: capture and playback where it runs, playback by an ASRC 64 frames ahead; a run-out counts down. [log entry 64: DESIGN CHOICE] -/
def Dev.audFrame (d : Dev) (n x : Nat) (f : AudFrame) : Dev :=
  let ahead := if d.audAsrc x ∧ x % 2 = 1 then 64 else 0
  let m := n + ahead
  let running := d.audState x == 3 || (match d.audPending x 1 with | some t => decide (t.n ≤ m) | none => false)
  let past := match d.audPending x 2 with | some t => decide (t.n ≤ m) | none => false
  if running && !past then (if x % 2 = 0 then d.audCapture x n f else d.audPlay x m f)
  else if d.audState x = 4 then
    let y := d.apath x
    let d := d.putApath x { y with outLeft := y.outLeft - 1, out := [] }
    if y.outLeft ≤ 1 then d.setAud x 1 else d
  else d

/-- The sample instant of a media frame passes for every path; what the outside delivers is in `fs`. -/
def execAudMediaFrame (fs : List AudFrame) (s : State) : Out := run s fun d =>
  if d.hub.lost then d
  else
    let n := d.mediaNow
    let d := (List.range 8).foldl (fun d x =>
      d.audFrame n x ((fs.find? fun f => f.path.val == x).getD { path := Fin.ofNat 8 x })) d
    (List.range 4).foldl Dev.audPins d

/-! ### Triggers (R599) -/

/-- Paths as a mask. -/
def maskOf (l : List Nat) : Nat := (l.map fun x => 2 ^ x).sum

/-- A trigger ends at once with a RESULT other than OK. -/
def Dev.audRefuse (d : Dev) (op result fpaths : Nat) : Dev :=
  (((d.wr F.AUD_TRIG_CMD_GO 0).wr F.AUD_TRIG_STAT_RESULT result).wr F.AUD_TRIG_STAT_FPATHS fpaths).raise 574 (pack [(3, op), (3, result)])

/-- The largest lead of the named paths, in media frames. [log entry 64: DESIGN CHOICE] -/
def Dev.audLead (d : Dev) (op : Nat) (xs : List Nat) : Nat :=
  (xs.map fun x =>
    let k := x / 2
    let clocks := if op = 2 then d.rd F.AUD_PTIME_RUNOUT 0 k else if d.on F.AUD_PCFG_MASTER 0 k then d.rd F.AUD_PTIME_RUNIN 0 k else 0
    max clocks (if x % 2 = 1 ∧ d.audAsrc x then 64 else 0)).foldl max 0

/-- Whether a named path makes the command fail with STATE. [log entry 64: DESIGN CHOICE] -/
def Dev.audBad (d : Dev) (op x : Nat) : Bool :=
  !d.audEn x || (op == 1) == (d.audState x == 3) || (d.audPending x 1).isSome || (d.audPending x 2).isSome

/-- A write of `AUD_TRIG_CMD` with GO: the checks, then the trigger waits for its frame. [log entry 64: DESIGN CHOICE] -/
def Dev.audTrig (d : Dev) (op : Nat) (attime : Bool) (paths : Nat) : Dev :=
  let xs := bitsOf paths 8
  let bad := xs.filter (d.audBad op)
  if (op ≠ 1 ∧ op ≠ 2) ∨ xs.isEmpty then d.audRefuse op 3 0
  else if !bad.isEmpty then d.audRefuse op 2 (maskOf bad)
  else
    let l := d.audLead op xs
    let soon := mediaFrom (d.hubTime + 25600000)
    let sec := d.rd F.AUD_TRIG_S_LO_S + 2 ^ 32 * d.rd F.AUD_TRIG_S_HI_S
    let n := if attime then mediaFrom (256 * (sec * 1000000000 + d.rd F.AUD_TRIG_NS_VALUE)) else soon + l
    if n < soon + l then d.audRefuse op 1 (maskOf (xs.filter fun x => decide (n < soon + d.audLead op [x])))
    else
      let d := ((d.wr F.AUD_TRIG_CMD_GO 0).wr F.AUD_TRIG_STAT_RESULT 0).wr F.AUD_TRIG_STAT_FPATHS 0
      let d := ((d.wr F.AUD_TRIG_STAT_BUSY 1).wr F.AUD_TRIG_FRAME_LO_LO (n % 2 ^ 32)).wr F.AUD_TRIG_FRAME_HI_HI (n / 2 ^ 32)
      let d := d.updAud fun a => { a with trigs := a.trigs ++ [⟨op, maskOf xs, n, l⟩] }
      if op = 1 then
        xs.foldl (fun d x => d.putApath x
          { start := n, written := 8 * d.rd F.AUD_XHOST_HEAD 0 (x / 2) (x % 2) % d.audRing x, outLeft := (d.apath x).outLeft }) d
      else d

/-- A write of `AUD_TRIG_CMD`: discarded while GO reads 1. -/
def Dev.audTrigCmd (d : Dev) (w : Nat) : Dev :=
  if d.on F.AUD_TRIG_CMD_GO then d
  else
    let d := ((d.wr F.AUD_TRIG_CMD_OP (slice w 30 28)).wr F.AUD_TRIG_CMD_ATTIME (slice w 27 27)).wr F.AUD_TRIG_CMD_PATHS (slice w 7 0)
    if bit w 31 then d.audTrig (slice w 30 28) (bit w 27) (slice w 7 0) else d

def execAudTrigStart (attime : Bool) (paths : BitVec 8) (s : State) : Out :=
  bar2 .AUD 0 s fun d => d.audTrigCmd (0x90000000 + b2n attime * 2 ^ 27 + paths.toNat)

def execAudTrigStop (attime : Bool) (paths : BitVec 8) (s : State) : Out :=
  bar2 .AUD 0 s fun d => d.audTrigCmd (0xA0000000 + b2n attime * 2 ^ 27 + paths.toNat)

/-- t(N − L) of the triggers it has come for: the clocks of master ports start. -/
def execAudTrigLead (s : State) : Out := run s fun d =>
  let n := d.mediaNow
  (d.hub.aud.trigs.filter fun t => t.op == 1 && decide (t.n ≤ n + t.l)).foldl (fun d t =>
    (bitsOf t.paths 8).foldl (fun d x =>
      if d.on F.AUD_PCFG_MASTER 0 (x / 2) && (d.audState x == 1 || d.audState x == 4) then (d.setAud x 2).audPins (x / 2) else d) d) d

/-- A path starts at frame N. -/
def Dev.audStart (d : Dev) (x : Nat) : Dev := d.setAud x 3

/-- A path stops after frame N − 1: a partial item is written; the clocks of a master port run out after its last path. -/
def Dev.audStop (d : Dev) (x : Nat) : Dev :=
  let k := x / 2
  let d := if x % 2 = 0 then d.audFlush x false else d
  let other := d.audState (4 * k + 1 - x) == 3 || d.audState (4 * k + 1 - x) == 2
  let out := d.rd F.AUD_PTIME_RUNOUT 0 k
  let d := (List.range 8).foldl (fun d s =>
    if x % 2 = 0 ∧ d.rd F.AUD_SCFG_PORT 0 s = k then
      (d.wr F.AUD_SSTAT_RUN 0 0 s).updAud fun a => { a with streams := Tab.del a.streams s }
    else d) d
  let d := if d.on F.AUD_PCFG_MASTER 0 k && !other && out != 0 then (d.setAud x 4).putApath x { outLeft := out }
    else (d.setAud x 1).putApath x {}
  d.audPins k

/-- Frame N of every trigger it has come for: the paths start or stop, and AUD_TRIG is raised. -/
def execAudTrigFrame (s : State) : Out := run s fun d =>
  let n := d.mediaNow
  let due := d.hub.aud.trigs.filter fun t => decide (t.n ≤ n)
  let d := d.updAud fun a => { a with trigs := a.trigs.filter fun t => !decide (t.n ≤ n) }
  let d := due.foldl (fun d t =>
    let d := (bitsOf t.paths 8).foldl (fun d x => if t.op = 1 then d.audStart x else d.audStop x) d
    d.raise 574 (pack [(3, t.op), (3, 0)])) d
  if d.hub.aud.trigs.isEmpty then d.wr F.AUD_TRIG_STAT_BUSY 0 else d

/-! ### Locks, enables, ends -/

/-- An ASRC gains or loses lock, with the ratio it shows: it holds no lock outside the ratios 0.5 to 2 (R592). -/
def execAudAsrcLockChange (a : Fin 8) (lock : Bool) (ratio : BitVec 24) (s : State) : Out := run s fun d =>
  let x := a.val
  if d.audEn x && d.audAsrc x && !d.hub.lost then
    let lock := lock && decide (2 ^ 21 ≤ ratio.toNat) && decide (ratio.toNat ≤ 2 ^ 23)
    let was := d.on F.AUD_XSTAT_LOCK 0 (x / 2) (x % 2)
    let d := (d.wrb F.AUD_XSTAT_LOCK lock 0 (x / 2) (x % 2)).wr F.AUD_XSTAT_RATIO ratio.toNat 0 (x / 2) (x % 2)
    if was = lock then d else d.raise 573 (pack [(3, x), (1, b2n lock)])
  else d

/-- A path stops at once, without run-out: its item, pointers and pending trigger are discarded (R602). -/
def Dev.audKill (d : Dev) (x : Nat) : Dev :=
  let k := x / 2
  let d := (d.setAud x (b2n (d.audEn x))).putApath x {}
  let d := ((d.wr F.AUD_XDEV_TAIL 0 0 k (x % 2)).wr F.AUD_XHOST_HEAD 0 0 k (x % 2)).wr F.AUD_XSTAT_LOCK 0 0 k (x % 2)
  let d := d.audPins k
  let d := d.updAud fun a =>
    { a with trigs := (a.trigs.map fun t => { t with paths := clrBit t.paths x }).filter fun t => t.paths != 0 }
  let d := if d.hub.aud.trigs.isEmpty then d.wr F.AUD_TRIG_STAT_BUSY 0 else d
  if x % 2 = 1 then d
  else (List.range 8).foldl (fun d s =>
    if d.rd F.AUD_SCFG_PORT 0 s = k then (d.wr F.AUD_SSTAT_RUN 0 0 s).updAud fun a => { a with streams := Tab.del a.streams s } else d) d

/-- A port stops. -/
def Dev.audPortOff (d : Dev) (k : Nat) : Dev := ((d.wr F.AUD_PCFG_EN 0 0 k).audKill (2 * k)).audKill (2 * k + 1)

def execAudPortDisable (k : Fin 4) (s : State) : Out := bar2 .AUD 0 s fun d => if d.on F.AUD_PCFG_EN 0 k then d.audPortOff k else d

/-- The states of a port's paths after a write of an enable: IDLE where both are set. [log entry 64: DESIGN CHOICE] -/
def Dev.audShow (d : Dev) (k : Nat) : Dev :=
  [2 * k, 2 * k + 1].foldl (fun d x =>
    if d.audEn x then (if d.audState x = 0 then d.setAud x 1 else d) else if d.audState x ≠ 0 then d.audKill x else d) d

/-- A write of `AUD_PCFG`: EN stays clear with a format or rate out of contract; while it is set only EN may change (R602). -/
def Dev.audPcfg (d : Dev) (k w : Nat) : Dev :=
  let l : RegLoc := ⟨.AUD_PCFG, 0, k, 0⟩
  if d.on F.AUD_PCFG_EN 0 k then
    if d.sameBut l F.AUD_PCFG_EN w && !bit w 31 then d.audPortOff k else d
  else
    let d := d.wrWord l w
    let d := if slice w 29 28 = 3 ∨ 4 < slice w 22 20 then d.wr F.AUD_PCFG_EN 0 0 k else d
    d.audShow k

/-- Whether path `x` runs, or its clocks already do, for the writes it holds off. -/
def Dev.audBusy (d : Dev) (x : Nat) : Bool := d.audState x == 2 || d.audState x == 3

/-- A write of `AUD_XCFG`: discarded while the path runs. -/
def Dev.audXcfg (d : Dev) (k c w : Nat) : Dev :=
  if d.audBusy (2 * k + c) then d else (d.wrWord ⟨.AUD_XCFG, 0, k, c⟩ w).audShow k

/-- A write of the host pointer: of playback, the bytes written up to. -/
def Dev.audHost (d : Dev) (k c w : Nat) : Dev :=
  let x := 2 * k + c
  let size := d.audRing x
  let old := 8 * d.rd F.AUD_XHOST_HEAD 0 k c % size
  let d := d.wr F.AUD_XHOST_HEAD (slice w 29 3) 0 k c
  let new := 8 * d.rd F.AUD_XHOST_HEAD 0 k c % size
  let y := d.apath x
  if d.audState x = 3 ∨ (d.audPending x 1).isSome then d.putApath x { y with written := y.written + (new + size - old) % size } else d

/-- A write of `AUD_SCFG`: while EN is set only EN may change. -/
def Dev.audScfg (d : Dev) (s w : Nat) : Dev :=
  let l : RegLoc := ⟨.AUD_SCFG, 0, s, 0⟩
  if d.on F.AUD_SCFG_EN 0 s then
    if bit w 31 || !d.sameBut l F.AUD_SCFG_EN w then d
    else ((d.wr F.AUD_SCFG_EN 0 0 s).wr F.AUD_SSTAT_RUN 0 0 s).updAud fun a => { a with streams := Tab.del a.streams s }
  else d.wrWord l w

/-- A time step has been applied: each running path goes on at the new frame number. Capture marks its next item DISC; a master port
lengthens or shortens one frame, which counts as a SLIP (R601). [log entry 64: DESIGN CHOICE] -/
def Dev.audStep (d : Dev) : Dev :=
  let d := (List.range 8).foldl (fun d x => if d.audState x = 3 ∧ x % 2 = 0 then d.audFlush x true else d) d
  let d := (List.range 8).foldl (fun d s =>
    if d.audState (2 * d.rd F.AUD_SCFG_PORT 0 s) = 3 then
      d.updAud fun a => { a with streams := Tab.set {} a.streams s { disc := true } }
    else d) d
  (List.range 4).foldl (fun d k =>
    match [2 * k, 2 * k + 1].find? fun x => d.audState x == 3 with
    | some x => if d.on F.AUD_PCFG_MASTER 0 k then (d.bump C.AUD_CNT 0 k 2).audEvent k (x % 2) 2 else d
    | none => d) d

end Sys2Proof.Machine
end

