-- ==== Sys2Proof/Machine/Sense.lean ====
section
/-!
DEFINITION. Sensing, switched outputs and operator controls (chapter 21). A timer's or a comparator's command stands for the instant
at which it acts.
-/
namespace Sys2Proof.Machine

/-- The device with the SENSE and OPIO blocks changed. -/
def Dev.updSense (d : Dev) (f : Sense → Sense) : Dev := d.updHub fun h => { h with sense := f h.sense }

/-! ### The ADC: triggers and scans (R604 to R607) -/

/-- Converter `x`. -/
def Dev.adc (d : Dev) (x : Nat) : Adc := Tab.get {} d.hub.sense.adcs x

/-- The device with a converter replaced. -/
def Dev.putAdc (d : Dev) (x : Nat) (y : Adc) : Dev := d.updSense fun s => { s with adcs := Tab.set {} s.adcs x y }

/-- ADC channel `c`. -/
def Dev.adcCh (d : Dev) (c : Nat) : AdcCh := Tab.get {} d.hub.sense.chans c

/-- The device with an ADC channel replaced. -/
def Dev.putAdcCh (d : Dev) (c : Nat) (y : AdcCh) : Dev := d.updSense fun s => { s with chans := Tab.set {} s.chans c y }

/-- The channels of converter `x`'s scan list. -/
def Dev.adcList (d : Dev) (x : Nat) : List Nat :=
  (List.range (d.rd F.SENSE_ADC_CFG_NLM1 0 x + 1)).map fun k => d.rd F.SENSE_ADC_LIST_CH 0 x k

/-- Whether an entry of converter `x` is converted: channel 0 to 23, and on converter 1 none that converter 0 lists (R605). -/
def Dev.adcTakes (d : Dev) (x c : Nat) : Bool := decide (c < 24) && (x == 0 || !(d.adcList 0).contains c)

/-- The first entry from `k` on that is converted. -/
def Dev.adcNext (d : Dev) (x k : Nat) : Option Nat :=
  (List.range (d.adcList x).length).find? fun i => decide (k ≤ i) && d.adcTakes x ((d.adcList x).getD i 31)

/-- The channel being calibrated. -/
def Dev.calCh (d : Dev) : Option Nat := if d.hub.sense.cal.isSome then some (d.rd F.SENSE_ADC_CAL_CH) else none

/-- The range of channel `c`'s next conversion (R609, R615). -/
def Dev.adcRange (d : Dev) (c : Nat) : Nat :=
  if d.calCh = some c then d.rd F.SENSE_ADC_CAL_RNG
  else if d.on F.SENSE_ADC_CH_AUTO 0 c then (d.adcCh c).rng.getD (d.rd F.SENSE_ADC_CH_RNG 0 c)
  else d.rd F.SENSE_ADC_CH_RNG 0 c

/-- The narrowing limit that applies. -/
def Dev.adcDncnt (d : Dev) (c : Nat) : Nat := let v := d.rd F.SENSE_ADC_CH_DNCNT 0 c; if v = 0 then 4 else v

/-- The scan goes on with the first entry from `k` on, whose range is fixed now, or ends with ADC_DONE (R607). -/
def Dev.adcGo (d : Dev) (x k : Nat) : Dev :=
  match d.adcNext x k with
  | some i =>
    let c := (d.adcList x).getD i 0
    d.putAdc x { d.adc x with
      delay := false, entry := some i, ch := c, rng := d.adcRange c, owd := d.on F.SENSE_ADC_CH_OWD 0 c,
      auto_ := d.on F.SENSE_ADC_CH_AUTO 0 c, dncnt := d.adcDncnt c, cal := d.calCh == some c, wrote := false }
  | none =>
    let d := (d.putAdc x { d.adc x with delay := false, entry := none }).wr F.SENSE_ADC_STAT_BUSY 0 0 x
    if d.on F.SENSE_ADC_CFG_IRQ 0 x then d.raise 575 (pack [(1, x), (9, d.rd F.SENSE_ADC_STAT_LEVEL 0 x)]) else d

/-- A trigger: dropped with MISS while a scan or its delay runs (R606). -/
def Dev.adcTrigger (d : Dev) (x : Nat) : Dev :=
  if !d.on F.SENSE_ADC_CFG_EN 0 x || d.hub.lost then d
  else if d.on F.SENSE_ADC_STAT_BUSY 0 x then (d.wr F.SENSE_ADC_STAT_MISS 1 0 x).bump C.SENSE_ADC_CNT 0 3
  else (d.wr F.SENSE_ADC_STAT_BUSY 1 0 x).putAdc x { d.adc x with delay := true, entry := none }

/-- A write of FLUSH. -/
def Dev.adcFlush (d : Dev) (x : Nat) : Dev := (d.putAdc x { d.adc x with fifo := [] }).wr F.SENSE_ADC_STAT_LEVEL 0 0 x

/-- A write of `SENSE_ADC_CTL`. -/
def Dev.adcCtl (d : Dev) (x w : Nat) : Dev := (d.when (bit w 1) fun d => d.adcFlush x).when (bit w 0) fun d => d.adcTrigger x

def execAdcStart (x : Fin 2) (s : State) : Out := bar2 .SENSE 0 s fun d => d.adcTrigger x

def execAdcFifoFlush (x : Fin 2) (s : State) : Out := bar2 .SENSE 0 s fun d => d.adcFlush x

def execAdcTimerTrigger (x : Fin 2) (s : State) : Out := run s fun d =>
  if d.rd F.SENSE_ADC_CFG_TSRC 0 x = 1 then d.adcTrigger x else d

/-- DELAY has passed. -/
def execAdcScanStart (x : Fin 2) (s : State) : Out := run s fun d =>
  if (d.adc x).delay && !d.hub.lost then d.adcGo x 0 else d

/-- A read of the FIFO pops the oldest word (R611). -/
def Dev.adcPop (d : Dev) (x : Nat) : Dev :=
  match (d.adc x).fifo with
  | [] => { d with rdata := 0 }
  | w :: t => { (d.putAdc x { d.adc x with fifo := t }).wr F.SENSE_ADC_STAT_LEVEL t.length 0 x with rdata := w }

def execAdcFifoPop (x : Fin 2) (s : State) : Out := bar2Read .SENSE 0 s fun d => d.adcPop x

/-! ### Conversions (R608 to R614) -/

/-- A raw code corrected (R612). -/
def adcCorrect (q offset : Int) (gain : Nat) : Int := clampI (-32768) 32767 (roundInt ((q - offset) * gain) 32768)

/-- Whether a raw code is saturated. -/
def adcSat (q : Int) : Bool := q == -32768 || q == 32767

/-- The next range and narrowing count of a channel in auto-range (R609). [log entry 65: DEDUCED] -/
def adcAuto (q : Int) (r down dncnt : Nat) : Nat × Nat :=
  if adcSat q then (0, 0)
  else if 30802 ≤ q.natAbs ∧ 0 < r then (r - 1, 0)
  else if q.natAbs ≤ 7208 ∧ r < 3 then (if dncnt ≤ down + 1 then (r + 1, 0) else (r, down + 1))
  else (r, 0)

/-- A conversion of channel `c` for the calibration: it produces no result (R615). -/
def Dev.adcCalStep (d : Dev) (q : Int) (open_ : Bool) : Dev :=
  d.updSense fun s => { s with cal := s.cal.map fun k =>
    if k.n < 256 then { sum := k.sum + q, n := k.n + 1, open_ := k.open_ || open_, clipped := k.clipped || adcSat q } else k }

/-- The result of converter `x`'s conversion (R609 to R614), under the settings fixed as it started. [log entry 65: DEDUCED] -/
def Dev.adcResult (d : Dev) (x : Nat) (q : Int) (open_ : Bool) : Dev :=
  let a := d.adc x
  let c := a.ch
  let r := a.rng
  let y := d.adcCh c
  let clipped := adcSat q
  let code_ := adcCorrect q (signed 16 (d.rd F.SENSE_ADC_COR_OFFSET 0 c r)) (d.rd F.SENSE_ADC_COR_GAIN 0 c r)
  let w := code 16 code_ + (y.seq % 64) * 2 ^ 16 + c * 2 ^ 22 + 2 ^ 27 + b2n open_ * 2 ^ 28 + b2n clipped * 2 ^ 29 + r * 2 ^ 30
  let d := (d.bump C.SENSE_ADC_CNT 0 0).wr F.SENSE_ADC_RES_DATA w 0 c
  let d := d.when clipped fun d => d.bump C.SENSE_ADC_CNT 0 1
  let d := d.when open_ fun d => d.bump C.SENSE_ADC_CNT 0 2
  let f := (d.adc x).fifo
  let d := if f.length < 256 then (d.putAdc x { d.adc x with fifo := f ++ [w] }).wr F.SENSE_ADC_STAT_LEVEL (f.length + 1) 0 x
    else d.wr F.SENSE_ADC_STAT_OVF 1 0 x
  let d := if clipped && !y.clipped then d.raise 576 (pack [(5, c), (2, r)]) else d
  let d := if open_ && !y.open_ then d.raise 577 (pack [(5, c)]) else d
  let (nr, nd) := if open_ || !a.auto_ || a.wrote then (y.rng, y.down)
    else let (n, k) := adcAuto q r y.down a.dncnt; (some n, k)
  d.putAdcCh c { rng := nr, down := nd, seq := (y.seq + 1) % 64, clipped := clipped, open_ := open_ }

/-- The converter that a calibration's conversions use while no scan takes the channel. [log entry 65: DEDUCED] -/
def Dev.calConv (d : Dev) (c : Nat) : Nat := if !(d.adcList 0).contains c && (d.adcList 1).contains c then 1 else 0

/-- A conversion of converter `x` ends with raw code `q`; `moved` is what the open-wire check saw. -/
def execAdcConversionDone (x : Fin 2) (q : BitVec 16) (moved : Bool) (s : State) : Out := run s fun d =>
  let a := d.adc x
  let v := q.toInt
  if d.hub.lost then d
  else
    match a.entry with
    | some i =>
      let open_ := moved && a.owd
      let d := if !a.cal then d.adcResult x v open_ else if d.calCh = some a.ch then d.adcCalStep v open_ else d
      d.adcGo x (i + 1)
    | none =>
      match d.calCh with
      | some c => if d.calConv c = x.val && !a.delay then d.adcCalStep v (moved && d.on F.SENSE_ADC_CH_OWD 0 c) else d
      | none => d

/-- A write of a channel's settings: auto-range begins again at RNG from the next conversion (R608, R609). [log entry 65: DEDUCED] -/
def Dev.adcChCfg (d : Dev) (c w : Nat) : Dev :=
  let d := (d.wrWord ⟨.SENSE_ADC_CH, 0, c, 0⟩ w).putAdcCh c { d.adcCh c with rng := none, down := 0 }
  [0, 1].foldl (fun d x => if (d.adc x).ch = c then d.putAdc x { d.adc x with wrote := true } else d) d

/-- A write of `SENSE_ADC_CFG`: while EN is set only EN may change. Clearing EN ends the scan. -/
def Dev.adcCfg (d : Dev) (x w : Nat) : Dev :=
  let l : RegLoc := ⟨.SENSE_ADC_CFG, 0, x, 0⟩
  if d.on F.SENSE_ADC_CFG_EN 0 x then
    if bit w 31 || !d.sameBut l F.SENSE_ADC_CFG_EN w then d
    else ((d.wr F.SENSE_ADC_CFG_EN 0 0 x).wr F.SENSE_ADC_STAT_BUSY 0 0 x).putAdc x { d.adc x with delay := false, entry := none }
  else d.wrWord l w

/-! ### Calibration (R615) -/

/-- The calibration ends with a RESULT. -/
def Dev.adcCalEnd (d : Dev) (result : Nat) : Dev :=
  let d := ((d.wr F.SENSE_ADC_CAL_GO 0).wr F.SENSE_ADC_CALSTAT_BUSY 0).wr F.SENSE_ADC_CALSTAT_RESULT result
  (d.updSense fun s => { s with cal := none }).raise 580 (pack [(3, result), (5, d.rd F.SENSE_ADC_CAL_CH)])

/-- A write of `SENSE_ADC_CAL`: discarded while GO reads 1. [log entry 65: DEDUCED] -/
def Dev.adcCal (d : Dev) (w : Nat) : Dev :=
  if d.on F.SENSE_ADC_CAL_GO then d
  else
    let d := d.wrWord ⟨.SENSE_ADC_CAL, 0, 0, 0⟩ w
    if !bit w 31 then d
    else
      let op := slice w 30 29
      let c := slice w 26 22
      if (op ≠ 1 ∧ op ≠ 2) ∨ 23 < c then d.adcCalEnd 4
      else if !(d.adcList 0).contains c && !(d.adcList 1).contains c && !d.on F.SENSE_ADC_CFG_EN 0 (d.calConv c) then d.adcCalEnd 5
      else (d.wr F.SENSE_ADC_CALSTAT_BUSY 1).updSense fun s => { s with cal := some {} }

def execAdcCalZero (c : BitVec 5) (rng : Fin 4) (s : State) : Out :=
  bar2 .SENSE 0 s fun d => d.adcCal (2 ^ 31 + 2 ^ 29 + rng * 2 ^ 27 + c.toNat * 2 ^ 22)

def execAdcCalGain (c : BitVec 5) (rng : Fin 4) (expect : BitVec 16) (s : State) : Out :=
  bar2 .SENSE 0 s fun d => d.adcCal (2 ^ 31 + 2 ^ 30 + rng * 2 ^ 27 + c.toNat * 2 ^ 22 + expect.toNat)

/-- The calibration has its 256 conversions. -/
def execAdcCalDone (s : State) : Out := run s fun d =>
  match d.hub.sense.cal with
  | none => d
  | some k =>
    if d.hub.lost || k.n < 256 then d
    else
      let c := d.rd F.SENSE_ADC_CAL_CH
      let r := d.rd F.SENSE_ADC_CAL_RNG
      let m := roundInt k.sum k.n
      let d := d.wr F.SENSE_ADC_CALSTAT_MEAN (code 16 m)
      if k.open_ then d.adcCalEnd 1
      else if k.clipped then d.adcCalEnd 2
      else if d.rd F.SENSE_ADC_CAL_OP = 1 then (d.wr F.SENSE_ADC_COR_OFFSET (code 16 m) 0 c r).adcCalEnd 0
      else
        let den := k.sum - 256 * signed 16 (d.rd F.SENSE_ADC_COR_OFFSET 0 c r)
        let num := 32768 * 256 * signed 16 (d.rd F.SENSE_ADC_CAL_EXPECT)
        let g := if den < 0 then roundInt (-num) den.natAbs else roundInt num den.natAbs
        if den = 0 ∨ g < 16384 ∨ 65535 < g then d.adcCalEnd 3
        else (d.wr F.SENSE_ADC_COR_GAIN g.toNat 0 c r).adcCalEnd 0

/-! ### PWM (R616, R617) -/

/-- PWM channel `p`. -/
def Dev.pwm (d : Dev) (p : Nat) : Pwm := Tab.get {} d.hub.sense.pwms p

/-- The device with a PWM channel replaced. -/
def Dev.putPwm (d : Dev) (p : Nat) (y : Pwm) : Dev := d.updSense fun s => { s with pwms := Tab.set {} s.pwms p y }

/-- Channel `p` drives its pin, active high or low, where EN is set (R616). -/
def Dev.pwmDrive (d : Dev) (p : Nat) : Dev :=
  let y := d.pwm p
  d.putPwm p { y with pin := if d.on F.SENSE_PWM_CFG_EN 0 p then some (y.active != d.on F.SENSE_PWM_CFG_POL 0 p) else none }

/-- The converters that PWM channel `p` triggers by source `src`: 2 the period start, 3 the end of the active time. -/
def Dev.pwmTrigger (d : Dev) (p src : Nat) : Dev :=
  [0, 1].foldl (fun d x => if d.rd F.SENSE_ADC_CFG_TSRC 0 x = src ∧ d.rd F.SENSE_ADC_CFG_TPWM 0 x = p then d.adcTrigger x else d) d

/-- A period of channel `p` starts with the written values. -/
def Dev.pwmStart (d : Dev) (p : Nat) : Dev :=
  let per := max 2 (d.rd F.SENSE_PWM_PER_VALUE 0 p)
  let duty := d.rd F.SENSE_PWM_DUTY_VALUE 0 p
  ((d.putPwm p { per := per, duty := duty, active := decide (0 < duty) }).pwmDrive p).pwmTrigger p 2

/-- A period ends and the next one starts; a one-shot stays inactive (R617). -/
def execPwmPeriodStart (p : Fin 8) (s : State) : Out := run s fun d =>
  if d.on F.SENSE_PWM_CFG_ONESHOT 0 p then (d.putPwm p { d.pwm p with active := false }).pwmDrive p else d.pwmStart p

/-- The active time ends, where it is shorter than the period. -/
def execPwmActiveEnd (p : Fin 8) (s : State) : Out := run s fun d =>
  let y := d.pwm p
  if y.active && decide (y.duty < y.per) then ((d.putPwm p { y with active := false }).pwmDrive p).pwmTrigger p 3 else d

/-- A write of SYNC restarts the named channels. -/
def Dev.pwmSync (d : Dev) (w : Nat) : Dev := (bitsOf w 8).foldl Dev.pwmStart d

def execPwmSync (mask : BitVec 8) (s : State) : Out := bar2 .SENSE 0 s fun d => d.pwmSync mask.toNat

/-! ### Switched outputs (R618 to R623) -/

/-- `SENSE_SW_STAT.STATE`: 0 OFF, 1 INRUSH, 2 ON, 3 HOLD, 4 FAULT. -/
def Dev.swState (d : Dev) (j : Nat) : Nat := d.rd F.SENSE_SW_STAT_STATE 0 j

/-- Shows the outputs in HOLD. -/
def Dev.swHeld (d : Dev) : Dev :=
  d.wr F.SENSE_BO_STAT_HELD (((List.range 12).filter fun j => d.swState j == 3).map fun j => 2 ^ j).sum

/-- An output enters a state. -/
def Dev.setSw (d : Dev) (j st : Nat) : Dev := (d.wr F.SENSE_SW_STAT_STATE st 0 j).swHeld

/-- An output turns off into FAULT. [log entry 66: DESIGN CHOICE] -/
def Dev.swFault (d : Dev) (j cause : Nat) : Dev :=
  ((d.setSw j 4).wr F.SENSE_SW_STAT_CAUSE cause 0 j).wr F.SENSE_SW_STAT_RETRIED 0 0 j

/-- The thresholds that apply: LIM_SS, LIM_IN and SHORT, or their reset values where they are out of order (R620). [log entry 66: DESIGN CHOICE] -/
def Dev.swLimits (d : Dev) (j : Nat) : Nat × Nat × Nat :=
  let ss := d.rd F.SENSE_SW_CFG_LIM_SS 0 j
  let inr := d.rd F.SENSE_SW_CFG_LIM_IN 0 j
  let sh := d.rd F.SENSE_SW_CFG_SHORT 0 j
  if ss ≤ inr ∧ inr < sh then (ss, inr, sh) else (0x64, 0x96, 0xC8)

/-- EN is cleared: the output is OFF. [log entry 66: DESIGN CHOICE] -/
def Dev.swOff (d : Dev) (j : Nat) : Dev :=
  let d := (d.wr F.SENSE_SW_CFG_EN 0 0 j).updSense fun s => { s with heldIn := s.heldIn.filter fun x => x != j }
  ((d.setSw j 0).wr F.SENSE_SW_STAT_CAUSE 0 0 j).wr F.SENSE_SW_STAT_RETRIED 0 0 j

/-- EN is set: INRUSH, or HOLD during a brown-out (R619, R622). In any state but OFF the write changes nothing (R623). -/
def Dev.swOn (d : Dev) (j : Nat) : Dev :=
  if d.swState j = 0 then (d.wr F.SENSE_SW_CFG_EN 1 0 j).setSw j (if d.on F.SENSE_BO_STAT_LOW then 3 else 1) else d

/-- A write of `SENSE_SW_CFG`: while the output is not OFF only EN may change. [log entry 66: DESIGN CHOICE] -/
def Dev.swCfg (d : Dev) (j w : Nat) : Dev :=
  let l : RegLoc := ⟨.SENSE_SW_CFG, 0, j, 0⟩
  if d.swState j = 0 then
    let d := (d.wrWord l w).wr F.SENSE_SW_CFG_EN 0 0 j
    if bit w 31 then d.swOn j else d
  else if bit w 31 || !d.sameBut l F.SENSE_SW_CFG_EN w then d else d.swOff j

def execSwEnable (j : Fin 12) (s : State) : Out := bar2 .SENSE 0 s fun d => d.swOn j

def execSwDisable (j : Fin 12) (s : State) : Out := bar2 .SENSE 0 s fun d => if d.on F.SENSE_SW_CFG_EN 0 j then d.swOff j else d

/-- The inrush window ends. -/
def execSwInrushEnd (j : Fin 12) (s : State) : Out := run s fun d =>
  if d.swState j = 1 then (d.setSw j 2).wr F.SENSE_SW_STAT_RETRIED 0 0 j else d

/-- The sense shown: it saturates at 0xFF. [log entry 66: DESIGN CHOICE] -/
def Dev.swSense (d : Dev) (j isns : Nat) : Dev := d.wr F.SENSE_SW_STAT_ISNS (min 0xFF isns) 0 j

/-- Whether output `j` is switched on at this instant, so that its current is judged: a tally lamp is on for BRIGHT / 255 of each
millisecond, in every second half of its blink (R619). -/
def Dev.swLit (d : Dev) (j : Nat) : Bool :=
  let t := d.hubTime / 256 + Config.tallyPhase j
  let half := d.rd F.SENSE_SW_AUX_BLINK 0 j * 10000000
  decide (j < 8) || (decide (t % 1000000 * 255 < d.rd F.SENSE_SW_AUX_BRIGHT 0 j * 1000000) && (half == 0 || t / half % 2 == 0))

/-- The sense passes SHORT (R620). -/
def execSwHardShort (j : Fin 12) (isns : Nat) (s : State) : Out := run s fun d =>
  let d := d.swSense j isns
  if (d.swState j == 1 || d.swState j == 2) && d.swLit j && decide ((d.swLimits j).2.2 < isns) then
    (d.swFault j 1).raise 578 (pack [(4, j.val), (2, 1)])
  else d

/-- The sense has been above the state's limit for OCT (R620). -/
def execSwOvercurrent (j : Fin 12) (isns : Nat) (s : State) : Out := run s fun d =>
  let d := d.swSense j isns
  let lim := if d.swState j = 1 then (d.swLimits j).2.1 else (d.swLimits j).1
  if (d.swState j == 1 || d.swState j == 2) && d.swLit j && decide (lim < isns) then (d.swFault j 2).raise 578 (pack [(4, j.val), (2, 2)]) else d

/-- ACC_BROWNOUT with LOW and the held mask. [log entry 66: DESIGN CHOICE] -/
def Dev.boEvent (d : Dev) : Dev := d.raise 579 (pack [(1, d.rd F.SENSE_BO_STAT_LOW), (12, d.rd F.SENSE_BO_STAT_HELD)])

/-- ACC_VIN has stayed for 10 µs at a level, a free value in mV, or below it: below BO a brown-out begins, and outputs in INRUSH are held, or
fault where this is their retry (R622). [log entry 66: DESIGN CHOICE] -/
def execBrownoutBegin (s : State) : Out := run s fun d =>
  if !d.on F.SENSE_BO_CFG_EN || d.on F.SENSE_BO_STAT_LOW then d
  else
    let (vin, d) := d.draw
    if d.rd F.SENSE_BO_CFG_BO ≤ vin then d else
    let d := (d.wr F.SENSE_BO_STAT_LOW 1).wr F.SENSE_BO_STAT_SEEN 1
    let d := (List.range 12).foldl (fun d j =>
      if d.swState j ≠ 1 then d
      else if d.on F.SENSE_SW_STAT_RETRIED 0 j then d.swFault j 3
      else (d.setSw j 3).updSense fun s => { s with heldIn := insertNum j s.heldIn }) d
    d.boEvent

/-- ACC_VIN has stayed for 10 ms at a level, a free value in mV, or above it: above BO + HYST the brown-out is released, and every held output
starts a fresh window, in its retry where it was held from INRUSH (R622). [log entry 66: DESIGN CHOICE] -/
def execBrownoutRelease (s : State) : Out := run s fun d =>
  if !d.on F.SENSE_BO_STAT_LOW then d
  else
    let (vin, d) := d.draw
    if vin ≤ d.rd F.SENSE_BO_CFG_BO + d.rd F.SENSE_BO_CFG_HYST then d else
    let d := d.wr F.SENSE_BO_STAT_LOW 0
    let d := (List.range 12).foldl (fun d j =>
      if d.swState j = 3 then (d.setSw j 1).wrb F.SENSE_SW_STAT_RETRIED (d.hub.sense.heldIn.contains j) 0 j else d) d
    (d.updSense fun s => { s with heldIn := [] }).boEvent

/-! ### Keys (R625, R626) -/

/-- The enabled keys. -/
def Dev.keyMask (d : Dev) : Nat := d.rd F.OPIO_KEY_EN_LO_LO + 2 ^ 32 * d.rd F.OPIO_KEY_EN_HI_HI

/-- The debounced states. -/
def Dev.keyStates (d : Dev) : Nat := d.rd F.OPIO_KEY_STATE_LO_LO + 2 ^ 32 * d.rd F.OPIO_KEY_STATE_HI_HI

/-- The device showing debounced states. -/
def Dev.setKeys (d : Dev) (v : Nat) : Dev := (d.wr F.OPIO_KEY_STATE_LO_LO (v % 2 ^ 32)).wr F.OPIO_KEY_STATE_HI_HI (v / 2 ^ 32)

/-- The Hub's time as TS32 (R501). -/
def Dev.ts32 (d : Dev) : Nat := d.hubTime / 256 % 2 ^ 32

/-- A change enters the key FIFO. -/
def Dev.keyPush (d : Dev) (key : Nat) (press : Bool) (ts : Nat) : Dev :=
  let f := d.hub.sense.keyFifo
  let tell := fun (d : Dev) => d.raise 581 (pack [(7, d.rd F.OPIO_KEY_STAT_LEVEL), (1, d.rd F.OPIO_KEY_STAT_OVF)])
  if f.length < 64 then
    let w := 2 ^ 31 + b2n press * 2 ^ 30 + key * 2 ^ 24
    let d := (d.updSense fun s => { s with keyFifo := f ++ [(w, ts)] }).wr F.OPIO_KEY_STAT_LEVEL (f.length + 1)
    if f.isEmpty then tell d else d
  else
    let was := d.on F.OPIO_KEY_STAT_OVF
    let d := d.wr F.OPIO_KEY_STAT_OVF 1
    if was then d else tell d

/-- One key at a sample: `low` is its level, low for pressed. [log entry 67: DESIGN CHOICE] -/
def Dev.keyOne (d : Dev) (k : Nat) (low : Bool) : Dev :=
  let st := d.keyStates
  let put := fun (d : Dev) (y : KeySt) => d.updSense fun s => { s with keys := Tab.set {} s.keys k y }
  if !bit d.keyMask k then put (d.setKeys (clrBit st k)) {}
  else if bit st k == low then put d {}
  else
    let y := Tab.get {} d.hub.sense.keys k
    let y : KeySt := ⟨y.n + 1, if y.n = 0 then d.ts32 else y.ts⟩
    let v := d.rd F.OPIO_KEY_CFG_DEB
    if (if v = 0 then 10 else v) * 10 ≤ y.n then
      (put (d.setKeys (if low then setBit st k else clrBit st k)) {}).keyPush k low y.ts
    else put d y

/-- The keys are sampled; a set bit of `levels` is a high input. -/
def execKeySample (levels : BitVec 48) (s : State) : Out := run s fun d =>
  if !d.on F.OPIO_KEY_CFG_EN || d.hub.lost then d
  else (List.range 48).foldl (fun d k => d.keyOne k (!bit levels.toNat k)) d

/-- A read of `OPIO_KEY_FIFO`. -/
def Dev.keyPop (d : Dev) : Dev :=
  match d.hub.sense.keyFifo with
  | [] => { d with rdata := 0 }
  | (w, ts) :: t =>
    let d := (d.updSense fun s => { s with keyFifo := t }).wr F.OPIO_KEY_STAT_LEVEL t.length
    { d.wr F.OPIO_KEY_FTIME_TS32 ts with rdata := w }

def execKeyFifoPop (s : State) : Out := bar2Read .OPIO 0 s Dev.keyPop

/-! ### Encoders (R627) -/

/-- Encoder `e` counts one transition, up or down as seen at its inputs; OPIO_ENC comes as POS has moved by STEP (R627). [log entry 67: DESIGN CHOICE] -/
def Dev.encCount (d : Dev) (e : Nat) (up : Bool) : Dev :=
  let plus := up != d.on F.OPIO_ENC_CFG_DIR 0 e
  let pos := (d.rd F.OPIO_ENC_POS_POS 0 e + (if plus then 1 else 2 ^ 32 - 1)) % 2 ^ 32
  let d := d.wr F.OPIO_ENC_POS_POS pos 0 e
  let step := d.rd F.OPIO_ENC_CFG_STEP 0 e
  let base := Tab.get 0 d.hub.sense.encBase e
  let moved := (signed 32 (pos + 2 ^ 32 - base)).natAbs
  if step != 0 && decide (step ≤ moved) then
    (d.updSense fun s => { s with encBase := Tab.set 0 s.encBase e pos }).raise 582 (pack [(2, e), (16, pos)])
  else d

/-- The inputs of encoder `e` come to the levels `a` and `b`, which last `ns` nanoseconds: levels shorter than FILT × 100 ns are ignored;
one input that moved is a transition in quadrature, both together are an error (R627). [log entry 67: DESIGN CHOICE] -/
def execEncTransition (e : Fin 4) (x : EncEdge) (s : State) : Out := run s fun d =>
  let (a0, b0) := Tab.get (false, false) d.hub.sense.encIn e
  if d.hub.lost || decide (x.ns < 100 * d.rd F.OPIO_ENC_CFG_FILT 0 e) then d
  else
    let d := d.updSense fun s => { s with encIn := Tab.set (false, false) s.encIn e (x.a, x.b) }
    if !d.on F.OPIO_ENC_CFG_EN 0 e || (x.a == a0 && x.b == b0) then d
    else if x.a != a0 && x.b != b0 then d.bump C.OPIO_ENC_ERR 0 e
    else d.encCount e (((a0 != b0) == (x.a != a0)) != Config.encUp)

/-- A write of POS: the moves that the next event counts start at the value written. [log entry 67: DESIGN CHOICE] -/
def Dev.encPos (d : Dev) (e w : Nat) : Dev :=
  (d.wr F.OPIO_ENC_POS_POS w 0 e).updSense fun s => { s with encBase := Tab.set 0 s.encBase e (w % 2 ^ 32) }

def execEncPosWrite (e : Fin 4) (w : Word) (s : State) : Out := bar2 .OPIO 0 s fun d => d.encPos e w.toNat

/-! ### Touch (R628) -/

/-- The hysteresis that applies. -/
def Dev.touchHyst (d : Dev) : Nat :=
  let h := d.rd F.OPIO_TCH_CFG_HYST
  let t := d.rd F.OPIO_TCH_CFG_THRESH
  if h < t then h else t / 2

/-- BASE moved by 1/256 of its difference from COUNT; how the fraction is rounded is not stated and a free value decides. [log entry 67: DESIGN CHOICE] -/
def Dev.touchBase (d : Dev) (t count : Nat) : Dev :=
  let base := d.rd F.OPIO_TCH_RAW_BASE 0 t
  let diff : Int := (count : Int) - base
  let (v, d) := d.draw
  let up : Int := if diff % 256 = 0 then 0 else ((v % 2 : Nat) : Int)
  d.wr F.OPIO_TCH_RAW_BASE ((base : Int) + diff / 256 + up).toNat 0 t

/-- A channel is measured. [log entry 67: DESIGN CHOICE] -/
def execTouchMeasure (t : Fin 16) (count : BitVec 16) (s : State) : Out := run s fun d =>
  if !d.on F.OPIO_TCH_CFG_EN || !bit (d.rd F.OPIO_TCH_EN_MASK) t || d.hub.lost then d
  else
    let mask := d.rd F.OPIO_TCH_STATE_MASK
    let touched := bit mask t
    let delta : Int := (count.toNat : Int) - (d.rd F.OPIO_TCH_RAW_BASE 0 t : Nat)
    let thresh : Int := (d.rd F.OPIO_TCH_CFG_THRESH : Nat)
    let speaks := if touched then decide (delta < thresh - (d.touchHyst : Nat)) else decide (thresh ≤ delta)
    let n := if speaks then (Tab.get {} d.hub.sense.touch t).n + 1 else 0
    let flips := decide (2 ≤ n)
    let d := d.wr F.OPIO_TCH_RAW_COUNT count.toNat 0 t
    let d := d.updSense fun s => { s with touch := Tab.set {} s.touch t ⟨if flips then 0 else n⟩ }
    let now := touched != flips
    let d := if now then d else d.touchBase t count.toNat
    if flips then
      (d.wr F.OPIO_TCH_STATE_MASK (if now then setBit mask t else clrBit mask t)).raise 583 (pack [(4, t.val), (1, b2n now)])
    else d

end Sys2Proof.Machine
end

