-- ==== Sys2Proof/Machine/Bist.lean ====
section
/-!
DEFINITION. In-field self-test (chapter 24, R665 to R674): which unit a run names, whether it may be tested, the run's phases, and
what its end leaves behind.
-/
namespace Sys2Proof.Machine

/-- The device without the stored values of the register fields that `q` names: they read their reset values again (R14). -/
def Dev.dropRegs (d : Dev) (q : FKey → Bool) : Dev := { d with regs := d.regs.filter fun x => !q x.1 }

/-- The limits the governor works with, VMIN, VMAX and VIDLE: a field out of contract takes its reset value, and both do where VMIN lies
above VMAX; while a BIST run is active VMIN is at least 750 mV (R74, R670, chapter 2). [log entry 29: DEDUCED] -/
def Dev.govLimits (d : Dev) : Nat × Nat × Nat :=
  let lo := d.rd F.HUB_GOV_LIM_VMIN
  let hi := d.rd F.HUB_GOV_LIM_VMAX
  let cross := decide (hi < lo)
  let vmin := if cross ∨ lo < 620 then 620 else lo
  let vmax := if cross ∨ hi < 720 ∨ 850 < hi then 850 else hi
  let (vmin, vmax) := if vmax < vmin then (620, 850) else (vmin, vmax)
  (if d.on F.BIST_STAT_BUSY then max vmin 750 else vmin, vmax, d.rd F.HUB_GOV_LIM_VIDLE)

/-- The readings of the valid sensors of pipe `p`, in 1/16 °C. -/
def Dev.pipeTemps (d : Dev) (p : Nat) : List Int :=
  ((List.range 6).filter fun k => d.on F.PTHM_SENS_VALID p k).map fun k => signed 16 (d.rd F.PTHM_SENS_TEMP p k)

/-- The readings of the Hub's valid sensors, in 1/16 °C. -/
def Dev.hubTemps (d : Dev) : List Int :=
  ((List.range 4).filter fun k => d.on F.THERM_SENS_VALID 0 k).map fun k => signed 16 (d.rd F.THERM_SENS_TEMP 0 k)

/-- Whether CLASS and INDEX name a unit that in-field BIST tests (R665). -/
def bistExists (cls idx : Nat) : Bool :=
  match cls with
  | 0 => decide (idx < 68)
  | 1 => decide (idx < 8)
  | 2 | 3 | 5 | 6 | 7 | 11 => idx == 0
  | 4 => decide (idx < 4)
  | 8 => decide (idx < 6)
  | 9 => decide (idx < 64)
  | 10 => decide (idx < 4)
  | _ => false

/-- Whether a class is privileged (R665). -/
def bistPrivileged (cls : Nat) : Bool := cls == 7 || cls == 11 || cls == 12

/-- Whether any of the one-bit fields is set in some copy of pipe or Hub `p`. -/
def Dev.anySet (d : Dev) (p : Nat) (fs : List Fld) : Bool :=
  d.regs.any fun x => x.1.p == p && fs.any fun f => x.1.reg == f.reg && x.1.lo == f.lo && x.2 == 1

/-- The logical slot of its cluster that physical tile `t` carries, where one does: its own unless the spare stands in for it; the
spare carries the slot it stands in for (R173). -/
def Dev.tileSlot (d : Dev) (p t : Nat) : Option Nat :=
  let c := t / 17
  let used := d.on F.TRL_RPR_MAP_USED p c
  let l := d.rd F.TRL_RPR_MAP_LSLOT p c
  if t % 17 = 16 then if used then some l else none else if used ∧ l = t % 17 then none else some (t % 17)

/-- Whether a physical tile may not be tested: it is not the spare, and a region that is not OFF uses it (R172). -/
def Dev.tileInUse (d : Dev) (p t : Nat) : Bool :=
  if t % 17 = 16 then false
  else match d.tileSlot p t with
  | none => false
  | some l =>
    d.on F.TRL_TILE_CFG_EN p (16 * (t / 17) + l) &&
      d.rd F.TRL_REG_STAT_STATE p (d.rd F.TRL_TILE_CFG_REGION p (16 * (t / 17) + l)) != 0

/-- Whether the unit is in use (R665). [log entry 68: DESIGN CHOICE] -/
def Dev.bistInUse (d : Dev) (cls p idx : Nat) : Bool :=
  match cls with
  | 0 => d.tileInUse p idx
  | 1 => d.on F.VRS_CFG_EN p idx || d.on F.VRS_BANK_STAT_HELD p idx
  | 2 => (List.range 4).any fun x => d.on F.STAT_CFG_EN p x || d.on F.STAT_RD_HELD p x
  | 3 => d.anySet p [F.BLK_CTXCFG_EN] ||
      (List.range 4).any fun c => d.rd F.BLK_DEC_STAT_STATE p c != 0 && d.rd F.BLK_DEC_STAT_STATE p c != 2
  | 4 => d.rd F.PXR_DEC_STAT_STATE p idx == 1
  | 5 => d.on F.PCTL_STAT_TAKE p
  | 6 => (List.range 4).any fun r => [2, 4].contains (d.rd F.PRESS_RING_STAT_STATE p r)
  | 7 => [4, 7, 2, 3].contains (d.cartState p)
  | 8 => match idx with
    | 0 => d.anySet 0 [F.AUD_PCFG_EN, F.AUD_XCFG_EN, F.AUD_SCFG_EN]
    | 1 => d.anySet 0 [F.PANEL_CFG_EN, F.PANEL_RGN_A_EN]
    | 2 => d.anySet 0 [F.SENSE_ADC_CFG_EN, F.SENSE_PWM_CFG_EN, F.SENSE_SW_CFG_EN, F.SENSE_BO_CFG_EN] ||
        (List.range 12).any fun j => d.swState j != 0
    | 3 => d.anySet 0 [F.OPIO_KEY_CFG_EN, F.OPIO_ENC_CFG_EN, F.OPIO_TCH_CFG_EN]
    | 4 => d.anySet 4 [F.PRESS_RING_CFG_EN]
    | _ => d.anySet 4 [F.RACK_CH_CFG_EN, F.CASK_CFG_EN]
  | 11 => [1, 2, 3, 4].contains (d.rd F.CUVL_STAT_STATE) || d.on F.SECU_RES_BUSY ||
      (List.range 4).any fun q => [2, 3].contains (d.cartState q)
  | _ => false

/-- The first check of R669 that fails, as its RESULT. [log entry 68: DESIGN CHOICE] -/
def Dev.bistCheck (d : Dev) (cls p idx len : Nat) (zero : Bool) : Option Nat :=
  let lcs := d.rd F.HUB_LCS_STATE
  let temps := if bistOfPipe cls then d.pipeTemps p else d.hubTemps
  let gov := d.rd F.HUB_GOV_STAT_STATE
  if !bistExists cls idx || len == 3 || (bistOfPipe cls && !([2, 3].contains (d.rd F.PCTL_STAT_STATE p))) then some 8
  else if lcs = 0 ∨ lcs = 5 then some 3
  else if bistPrivileged cls && !zero then some 4
  else if d.bistInUse cls p idx then some 2
  else if temps.any fun t => decide (105 * 16 < t) then some 6
  else if d.govLimits.2.1 < 750 ∨ ([0, 4, 6].contains gov && decide (d.rd F.HUB_GOV_STAT_VCMD < 750)) then some 5
  else none

/-! ### The unit at the end of a run (R666) -/

/-- The registers of a block in pipe or Hub copy `p`. -/
def FKey.inBlock (k : FKey) (b : BlockId) (p : Nat) : Bool := decide (k.reg.info.blk = b) && k.p == p

/-- A physical tile's registers and storage at their reset values: configuration words in both copies, elements, cask ports, windows and
line memory. -/
def Dev.tileReset (d : Dev) (p t : Nat) : Dev :=
  let mine := fun (o : Nat) =>
    (decide (0x1000 * t ≤ o) && decide (o < 0x1000 * (t + 1))) ||
      (decide (0x44000 + 0x400 * t ≤ o) && decide (o < 0x44000 + 0x400 * (t + 1))) ||
      (decide (0x55000 + 0x100 * t ≤ o) && decide (o < 0x55000 + 0x100 * (t + 1)))
  d.updTrl p fun m =>
    { m with
      act := m.act.filter fun x => !mine x.1
      shd := m.shd.filter fun x => !mine x.1
      els := m.els.filter fun x => x.1 / 16 != t
      ports := m.ports.filter fun x => x.1 / 4 != t
      wins := m.wins.filter fun x => x.1 / 16 != t
      lm := m.lm.filter fun x => x.1 / 16384 != t }

/-- The registers of the PXR encoder side of block PXR. -/
def pxrEncReg (r : RegId) : Bool := decide (r.info.blk = .PXR) && decide (r.info.off < F.PXR_DEC_CTL_GO.reg.info.off)

/-- An isolated unit returns to its reset values (R666). A secure unit's are given by `bistZero` and here: its key store stays. -/
def Dev.bistReinit (d : Dev) (cls p idx : Nat) : Dev :=
  match cls with
  | 0 => d.tileReset p idx
  | 1 => (d.dropRegs fun k => k.inBlock .VRS p && decide (0x1000 ≤ k.reg.info.off) && k.i == idx).updPipe p fun x =>
      { x with vrs := Tab.del x.vrs idx }
  | 2 => (d.dropRegs fun k => k.inBlock .STAT p).updPipe p fun x => { x with stats := [] }
  | 3 => (d.dropRegs fun k => k.inBlock .BLK p).updPipe p fun x => { x with blk := [], bdec := [] }
  | 4 => (d.dropRegs fun k => k.inBlock .PXR p && !pxrEncReg k.reg && k.i == idx).updPipe p fun x =>
      { x with pdec := Tab.del x.pdec idx }
  | 5 => (d.dropRegs fun k => (k.inBlock .PXR p && pxrEncReg k.reg) || (k.inBlock .CASK p && !k.reg.info.dims.isEmpty && decide (120 ≤ k.i))).updPipe p
      fun x => { x with encs := [], casks := x.casks.filter fun c => decide (c.1 < 120) }
  | 6 => (d.dropRegs fun k => k.inBlock .PRESS_P p).updPipe p fun x => { x with press := {} }
  | 8 => match idx with
    | 0 => (d.dropRegs fun k => k.inBlock .AUD 0).updHub fun h => { h with aud := {} }
    | 1 => (d.dropRegs fun k => k.inBlock .PANEL 0).updHub fun h => { h with panels := [] }
    | 2 => (d.dropRegs fun k => k.inBlock .SENSE 0).updHub fun h =>
        { h with sense := { h.sense with adcs := [], chans := [], cal := none, pwms := [], heldIn := [] } }
    | 3 => (d.dropRegs fun k => k.inBlock .OPIO 0).updHub fun h =>
        { h with sense := { h.sense with keys := [], keyFifo := [], encBase := [], encIn := [], touch := [] } }
    | 4 => (d.dropRegs fun k => k.inBlock .PRESS_P 4).updHub fun h => { h with press := {} }
    | _ => (d.dropRegs fun k => k.inBlock .RACK 4 || k.inBlock .CASK 4).updHub fun h => { h with rack := {}, casks := [] }
  | _ => d

/-- The four words of the nonce, drawn anew (R683). -/
def Dev.secuNonce (d : Dev) : Dev :=
  (List.range 4).foldl (fun d k => let (v, d) := d.drbg; d.wr F.SECU_NONCE_NONCE v 0 k) d

/-- What `SECU_SLOT` shows of a slot: a secret slot reads VALID while its working copy is loaded (R668, chapter 24). -/
def Dev.secuShowSlot (d : Dev) (k : Nat) : Dev :=
  match Tab.find d.hub.secu.slots k with
  | none => d.dropRegs fun x => decide (x.reg = .SECU_SLOT) && x.i == k
  | some y =>
    let key := if k < 8 then y.bytes
      else sha384 (([0x50, 0x58, 0x4B, 0x49, 0x44] : List Nat).map (BitVec.ofNat 8) ++ y.bytes)
    let d := (d.wrb F.SECU_SLOT_VALID (decide (k < 8) || (Tab.find d.hub.secu.keys k).isSome) 0 k).wrb F.SECU_SLOT_REVOKED y.revoked 0 k
    ((d.wrb F.SECU_SLOT_LOCK y.lock 0 k).wr F.SECU_SLOT_CLASS y.cls 0 k).wr F.SECU_SLOT_USE y.use 0 k |>.wr
      F.SECU_SLOT_KID (ofLeBytes (key.take 2)) 0 k

/-- What `SECU_SLOT` shows of every slot. -/
def Dev.secuShow (d : Dev) : Dev := (List.range 16).foldl Dev.secuShowSlot d

/-- Every working copy is cleared: KEYSLOST is set until the next warm reset (R668, R685). -/
def Dev.secuLost (d : Dev) : Dev :=
  ((d.updHub fun h => { h with secu := { h.secu with keys := [] } }).wr F.SECU_STAT_KEYSLOST 1).secuShow

/-- Before scan is enabled on a privileged unit its secrets are cleared (R668). The keys of a slice that no cartridge is mounted in
are none. -/
def Dev.bistZero (d : Dev) (cls : Nat) : Dev :=
  if cls = 11 then ((List.range 4).foldl (fun d k => d.wr F.SECU_NONCE_NONCE 0 0 k) d.secuLost).wr F.SECU_STAT_DRBG 0 else d

/-- A class 0xB unit after its run: the DRBG is instantiated again, a nonce is drawn, the command registers read their reset values; the
key store, the fuses and a pending transition stay (R666, R668). -/
def Dev.bistSecure (d : Dev) : Dev :=
  let d := d.dropRegs fun k => [RegId.SECU_CMD, .SECU_RES, .SECU_ADDR_LO, .SECU_ADDR_HI, .SECU_ALARM].contains k.reg
  ((d.wr F.SECU_STAT_DRBG 1).updHub fun h => { h with secu := { h.secu with requests := 0 } }).secuNonce

/-! ### Running -/

/-- The log entry of a run: entry 0 is the latest (chapter 24). -/
def Dev.bistLog (d : Dev) (res cls p idx : Nat) : Dev :=
  let fs := [F.BIST_LOG_VALID, F.BIST_LOG_RESULT, F.BIST_LOG_CLASS, F.BIST_LOG_PIPE, F.BIST_LOG_INDEX]
  let d := (List.range 7).foldl (fun d n => fs.foldl (fun d f => d.wr f (d.rd f 0 (6 - n)) 0 (7 - n)) d) d
  (((d.wr F.BIST_LOG_VALID 1).wr F.BIST_LOG_RESULT res).wr F.BIST_LOG_CLASS cls).wr F.BIST_LOG_PIPE p |>.wr F.BIST_LOG_INDEX idx

/-- A run ends with RESULT `res` (R666, R673): the unit is reinitialised where it had been isolated, the log takes the result, and
BIST_DONE and for a FAIL BIST_FAIL are raised. A FAIL of a tile sets its mark. -/
def Dev.bistEnd (d : Dev) (res : Nat) : Dev :=
  if !d.on F.BIST_STAT_BUSY then d
  else
    let cls := d.rd F.BIST_CMD_CLASS
    let p := d.rd F.BIST_CMD_PIPE
    let idx := d.rd F.BIST_CMD_INDEX
    let iso := decide (2 ≤ d.rd F.BIST_STAT_PHASE)
    let d := if iso then d.bistReinit cls p idx else d
    let d := if iso ∧ cls = 11 then d.bistSecure else d
    let d := (((d.wr F.BIST_STAT_BUSY 0).wr F.BIST_STAT_PHASE 0).wr F.BIST_STAT_RESULT res).wr F.BIST_CMD_GO 0
    let d := if cls = 0 ∧ res = 1 then d.rprMark p (idx / 17) (2 ^ (idx % 17)) else d
    let d := d.bistLog res cls p idx
    let syn := pack [(4, cls), (2, p), (7, idx), (4, res)]
    let d := d.raise 592 syn
    if res = 1 then d.raise 593 syn else d

/-- A run on a unit of pipe `p` ends with ABORTED (R674). -/
def Dev.bistAbortPipe (d : Dev) (p : Nat) : Dev :=
  if bistOfPipe (d.rd F.BIST_CMD_CLASS) ∧ d.rd F.BIST_CMD_PIPE = p then d.bistEnd 7 else d

/-- A write of `BIST_CMD` (R669): discarded while BUSY; GO checks the unit, and the first check that fails ends the run. [log entry 68: DESIGN CHOICE] -/
def Dev.bistCmd (d : Dev) (w : Nat) : Dev :=
  if d.on F.BIST_STAT_BUSY then d
  else
    let d := d.wrWord ⟨.BIST_CMD, 0, 0, 0⟩ w
    if !bit w 31 then d
    else
      let cls := d.rd F.BIST_CMD_CLASS
      let p := d.rd F.BIST_CMD_PIPE
      let idx := d.rd F.BIST_CMD_INDEX
      let bad := d.bistCheck cls p idx (d.rd F.BIST_CMD_LEN) (d.on F.BIST_CMD_ZEROOK)
      let d := ((d.wr F.BIST_STAT_BUSY 1).wr F.BIST_STAT_PHASE 1).wr F.BIST_STAT_PROGRESS 0
      match bad with
      | some r => d.bistEnd r
      | none => (d.wr F.BIST_SIG_LO_LO 0).wr F.BIST_SIG_HI_HI 0

def execBistStart (w : BitVec 31) (s : State) : Out := bar2 .BIST 0 s fun d => d.bistCmd (2 ^ 31 + w.toNat)

/-- VCORE is verified at 750 mV or more (R670): a privileged unit is zeroised, the unit isolated or saved, and its scan begins. [log entry 68: DESIGN CHOICE] -/
def Dev.bistVoltage (d : Dev) : Dev :=
  if d.on F.BIST_STAT_BUSY && d.rd F.BIST_STAT_PHASE == 1 && decide (750 ≤ d.rd F.HUB_GOV_STAT_VCMD) &&
      !([1, 3].contains (d.rd F.HUB_GOV_STAT_STATE)) then
    (d.bistZero (d.rd F.BIST_CMD_CLASS)).wr F.BIST_STAT_PHASE 3
  else d

def execBistVoltageReady (s : State) : Out := runHub s fun d => d.bistVoltage

/-- The signature and the memory test are complete (R665, R673): the run passes with the golden signature and a memory test without
error. The signature shows, but reads 0 for a privileged unit in DEVELOP and PRODUCTION (R675). [log entry 68: DESIGN CHOICE] -/
def Dev.bistDone (d : Dev) (mem : Bool) (sig : BitVec 64) : Dev :=
  if d.on F.BIST_STAT_BUSY && decide (2 ≤ d.rd F.BIST_STAT_PHASE) then
    let cls := d.rd F.BIST_CMD_CLASS
    let pass := mem && decide (sig = Config.bistGolden cls (d.rd F.BIST_CMD_LEN))
    let show_ := if bistPrivileged cls && [2, 3].contains (d.rd F.HUB_LCS_STATE) then 0 else sig.toNat
    ((d.wr F.BIST_SIG_LO_LO (show_ % 2 ^ 32)).wr F.BIST_SIG_HI_HI (show_ / 2 ^ 32)).bistEnd (if pass then 0 else 1)
  else d

def execBistRunEnd (mem : Bool) (sig : BitVec 64) (s : State) : Out := runHub s fun d => d.bistDone mem sig

def execBistAbort (s : State) : Out := bar2 .BIST 0 s fun d => d.bistEnd 7

/-- Hub loss stops a run with no result (R674); a unit of a pipe that had been isolated is reinitialised (R666). -/
def Dev.bistLost (d : Dev) : Dev :=
  if !d.on F.BIST_STAT_BUSY then d
  else
    let d := if 2 ≤ d.rd F.BIST_STAT_PHASE then d.bistReinit (d.rd F.BIST_CMD_CLASS) (d.rd F.BIST_CMD_PIPE) (d.rd F.BIST_CMD_INDEX) else d
    (((d.wr F.BIST_STAT_BUSY 0).wr F.BIST_STAT_PHASE 0).wr F.BIST_CMD_GO 0)

/-- The checks that last through a run (R670): entry to FAULT, a command below 750 mV once the unit is isolated, or one that a governor in
OFF or HOLD cannot raise, ends it with VOLTAGE; a reading of its scope above 105 °C with TEMP. -/
def Dev.bistWatch (d : Dev) : Dev :=
  if d.on F.BIST_STAT_BUSY then
    let cls := d.rd F.BIST_CMD_CLASS
    let temps := if bistOfPipe cls then d.pipeTemps (d.rd F.BIST_CMD_PIPE) else d.hubTemps
    let gov := d.rd F.HUB_GOV_STAT_STATE
    let low := decide (d.rd F.HUB_GOV_STAT_VCMD < 750)
    if gov == 6 || (low && (decide (2 ≤ d.rd F.BIST_STAT_PHASE) || gov == 0 || gov == 4)) then d.bistEnd 5
    else if temps.any fun t => decide (105 * 16 < t) then d.bistEnd 6
    else d
  else d

end Sys2Proof.Machine
end

