-- ==== Sys2Proof/Machine/Secu.lean ====
section
/-!
DEFINITION. The security unit (chapter 24, R676 to R685): the key store, its commands, random numbers, anti-rollback, life-cycle
requests and alarms.
-/
namespace Sys2Proof.Machine

/-- The device with its security unit changed by `f`. -/
def Dev.updSecu (d : Dev) (f : Secu → Secu) : Dev := d.updHub fun h => { h with secu := f h.secu }

/-- The life-cycle state (R657). -/
def Dev.lcs (d : Dev) : Nat := d.rd F.HUB_LCS_STATE

/-- The address the security command names. -/
def Dev.secuAddr (d : Dev) : Nat := d.rd64 F.SECU_ADDR_LO_ADDR_LO F.SECU_ADDR_HI_ADDR_HI

/-- A write of `SECU_CMD` (R679): discarded while GO reads 1; GO starts the command. -/
def Dev.secuCmd (d : Dev) (w : Nat) : Dev :=
  if d.on F.SECU_CMD_GO || d.bistHolds 11 0 0 then d
  else
    let d := d.wrWord ⟨.SECU_CMD, 0, 0, 0⟩ w
    if bit w 31 then (d.wr F.SECU_RES_BUSY 1).wr F.SECU_RES_RESULT 0 else d

/-- The write of `SECU_CMD` that starts command `op` with bits 26 to 0 `w`. -/
def Dev.secuGo (d : Dev) (op : Nat) (w : BitVec 27) : Dev := d.secuCmd (2 ^ 31 + op * 2 ^ 27 + w.toNat)

def execSecuGenerate (w : BitVec 27) (s : State) : Out := bar2 .SECU 0 s fun d => d.secuGo 1 w
def execSecuImport (w : BitVec 27) (s : State) : Out := bar2 .SECU 0 s fun d => d.secuGo 2 w
def execSecuImportWrapped (w : BitVec 27) (s : State) : Out := bar2 .SECU 0 s fun d => d.secuGo 3 w
def execSecuExportWrapped (w : BitVec 27) (s : State) : Out := bar2 .SECU 0 s fun d => d.secuGo 4 w
def execSecuLock (w : BitVec 27) (s : State) : Out := bar2 .SECU 0 s fun d => d.secuGo 5 w
def execSecuDestroy (w : BitVec 27) (s : State) : Out := bar2 .SECU 0 s fun d => d.secuGo 6 w
def execSecuSetDigest (w : BitVec 27) (s : State) : Out := bar2 .SECU 0 s fun d => d.secuGo 7 w
def execSecuRevoke (w : BitVec 27) (s : State) : Out := bar2 .SECU 0 s fun d => d.secuGo 8 w
def execSecuAdvanceSvn (w : BitVec 27) (s : State) : Out := bar2 .SECU 0 s fun d => d.secuGo 9 w
def execSecuLcRequest (w : BitVec 27) (s : State) : Out := bar2 .SECU 0 s fun d => d.secuGo 10 w

/-! ### The commands' effects -/

/-- The device with slot `k` of the key store holding `y`. -/
def Dev.putSlot (d : Dev) (k : Nat) (y : KeySlot) : Dev :=
  (d.updSecu fun u => { u with slots := Tab.put u.slots k y }).secuShowSlot k

/-- Slot `k` emptied with its working copy. -/
def Dev.delSlot (d : Dev) (k : Nat) : Dev :=
  (d.updSecu fun u => { u with slots := Tab.del u.slots k, keys := Tab.del u.keys k }).secuShowSlot k

/-- A new key in secret slot `k`: class PRODUCTION in PRODUCTION, DEVELOP otherwise (R679). -/
def Dev.newKey (d : Dev) (k : Nat) (key : List Byte) : Dev :=
  let d := d.updSecu fun u => { u with keys := Tab.put u.keys k key }
  d.putSlot k { bytes := key, cls := if d.lcs = 3 then 3 else 2 }

/-- The first condition on an empty secret slot that fails. -/
def Dev.slotEmpty (d : Dev) (k : Nat) : Option Nat :=
  if k < 8 then some 2 else if (Tab.find d.hub.secu.slots k).isSome then some 3 else none

/-- The first condition on a loaded secret slot that fails. -/
def Dev.slotLoaded (d : Dev) (k : Nat) : Option Nat :=
  if k < 8 then some 2 else if (Tab.find d.hub.secu.keys k).isNone then some 4 else none

/-- GENERATE. -/
def Dev.secuGenerate (d : Dev) (k : Nat) (nvm : Bool) : Nat × Dev :=
  match d.slotEmpty k with
  | some r => (r, d)
  | none =>
    if d.rd F.SECU_STAT_DRBG = 3 then (0xE, d)
    else if nvm then (0xC, d)
    else
      let (ks, d) := (List.range 4).foldl (fun (a : List Byte × Dev) _ =>
        let (v, e) := a.2.draw; (a.1 ++ leBytes 8 v, e)) ([], d)
      (0, (d.updSecu fun u => { u with requests := u.requests + 1 }).newKey k ks)

/-- IMPORT. -/
def Dev.secuImport (d : Dev) (k : Nat) (host nvm : Bool) : Nat × Dev :=
  match d.slotEmpty k with
  | some r => (r, d)
  | none => if !host then (8, d) else if nvm then (0xC, d) else (0, d.newKey k (d.hostMem.reads d.secuAddr 32))

/-- IMPORT_WRAPPED. -/
def Dev.secuImportWrapped (d : Dev) (k src : Nat) (host nvm : Bool) : Nat × Dev :=
  match (d.slotEmpty k).or (d.slotLoaded src) with
  | some r => (r, d)
  | none =>
    if !host then (8, d)
    else
      match keyUnwrap (Tab.get [] d.hub.secu.keys src) (d.hostMem.reads d.secuAddr 40) with
      | none => (7, d)
      | some key => if nvm then (0xC, d) else (0, d.newKey k key)

/-- EXPORT_WRAPPED. [log entry 69: DEDUCED] -/
def Dev.secuExportWrapped (d : Dev) (k src : Nat) (host : Bool) : Nat × Dev :=
  match ((d.slotLoaded k).or (d.slotLoaded src)).or (if k = src then some 2 else none) with
  | some r => (r, d)
  | none =>
    if (Tab.get { bytes := [] } d.hub.secu.slots k).lock then (5, d)
    else if !host then (8, d)
    else (0, d.hostWrite d.secuAddr (keyWrap (Tab.get [] d.hub.secu.keys src) (Tab.get [] d.hub.secu.keys k)))

/-- LOCK. -/
def Dev.secuLock (d : Dev) (k : Nat) (nvm : Bool) : Nat × Dev :=
  match d.slotLoaded k with
  | some r => (r, d)
  | none => if nvm then (0xC, d) else (0, d.putSlot k { Tab.get { bytes := [] } d.hub.secu.slots k with lock := true })

/-- DESTROY. -/
def Dev.secuDestroy (d : Dev) (k : Nat) (nvm : Bool) : Nat × Dev :=
  if k < 8 then (2, d)
  else if (Tab.get { bytes := [] } d.hub.secu.slots k).lock then (5, d)
  else if nvm then (0xC, d)
  else (0, d.delSlot k)

/-- Whether SET_DIGEST may give slot `k` class `c` in life-cycle state `st` (R679). -/
def digestAllowed (st k c : Nat) : Bool :=
  if k = 0 then st == 1 && c == 1
  else (c == 2 && st == 2) || ((c == 2 || c == 3) && (st == 1 || st == 2)) || (c == 3 && st == 3)

/-- SET_DIGEST. -/
def Dev.secuSetDigest (d : Dev) (k c u : Nat) (host nvm : Bool) : Nat × Dev :=
  if k = 1 ∨ 8 ≤ k then (2, d)
  else if (Tab.find d.hub.secu.slots k).isSome then (3, d)
  else if !digestAllowed d.lcs k c then (6, d)
  else if !host then (8, d)
  else if nvm then (0xC, d)
  else (0, d.putSlot k { bytes := d.hostMem.reads d.secuAddr 48, cls := c, use := if k = 0 then 3 else u })

/-- REVOKE. [log entry 69: DEDUCED] -/
def Dev.secuRevoke (d : Dev) (k : Nat) (nvm : Bool) : Nat × Dev :=
  if 8 ≤ k then (2, d)
  else
    match Tab.find d.hub.secu.slots k with
    | none => (4, d)
    | some y =>
      if d.hub.secu.imgSlot = some k then (6, d)
      else if nvm then (0xC, d)
      else (0, d.putSlot k { y with revoked := true })

/-- ADVANCE_SVN (R682). -/
def Dev.secuAdvance (d : Dev) (arg : Nat) (nvm : Bool) : Nat × Dev :=
  if d.hub.therm.kind.isSome then (6, d)
  else if 64 < arg ∨ d.hub.secu.imgSvn < arg then (9, d)
  else if arg ≤ d.hub.secu.svn then (0, d)
  else if nvm then (0xC, d)
  else (0, (d.updSecu fun u => { u with svn := arg }).wr F.SECU_STAT_SVNNEXT arg)

/-- Whether the life cycle may go from `a` to `b` (R658). -/
def lcAllowed (a b : Nat) : Bool :=
  decide (b ≤ 5) && ((b == a + 1 && decide (a < 5)) || (a == 1 && b == 3) || (b == 5 && decide (a < 5)))

/-- Whether a verification slot of class `c` may sign the transition (R683). -/
def lcSigner (a b c : Nat) : Bool :=
  if b = 5 then true
  else if a = 1 then c == 1
  else if a = 2 then c == 1 || c == 3
  else if a = 3 then c == 0
  else false

/-- LC_REQUEST (R683). [log entry 69: DEDUCED] -/
def Dev.secuLc (d : Dev) (host nvm : Bool) : Nat × Dev :=
  if !host then (8, d.secuNonce)
  else
    let b := d.hostMem.reads d.secuAddr 320
    let at_ := fun (o n : Nat) => ofLeBytes ((b.drop o).take n)
    let from_ := at_ 4 1
    let target := at_ 5 1
    let nonce := ((List.range 4).map fun k => d.rd F.SECU_NONCE_NONCE 0 k * 2 ^ (32 * k)).sum
    let slot := at_ 0x42 2
    let key := (b.drop 0x50).take 96
    let framed := at_ 0 4 == 0x434C5850 && at_ 6 2 == 0 && at_ 0x20 32 == 0 && at_ 0x40 2 == 1 && at_ 0x44 12 == 0 &&
      at_ 0x110 48 == 0 && decide (slot < 8)
    let sound := framed && p384Verify key ((b.drop 0xB0).take 96) (b.take 64)
    let known := match Tab.find d.hub.secu.slots slot with
      | some y => !y.revoked && lcSigner from_ target y.cls && decide (sha384 key = y.bytes)
      | none => false
    let r :=
      if from_ ≠ d.lcs ∨ at_ 8 8 ≠ Config.serial.toNat ∨ at_ 0x10 16 ≠ nonce then 0xB
      else if !lcAllowed from_ target || d.hub.secu.lc.isSome then 6
      else if !sound || !(from_ == 0 && target == 1 || known) then 0xA
      else if nvm then 0xC else 0
    let d :=
      if r = 0 then
        let d := ((d.updSecu fun u => { u with lc := some target }).wr F.SECU_STAT_LCPEND 1).wr F.SECU_STAT_LCNEXT target
        if from_ = 0 ∧ target = 1 then d.putSlot 1 { bytes := sha384 key, cls := 0, use := 3 } else d
      else d
    (r, d.secuNonce)

/-- The command's RESULT and effect (R679): `host` says whether its blob could be read or written, `nvm` whether a write of the key
memory or fuses failed. [log entry 69: DEDUCED] -/
def Dev.secuDo (d : Dev) (op : Nat) (host nvm : Bool) : Nat × Dev :=
  let k := d.rd F.SECU_CMD_SLOT
  let src := d.rd F.SECU_CMD_SRCSLOT
  let arg := d.rd F.SECU_CMD_ARG
  let host := host && d.hostOk
  let shut := d.lcs == 0 || d.lcs == 4 || d.lcs == 5
  if op = 0 ∨ 10 < op then (1, d)
  else if shut && (op == 2 || op == 7 || op == 9) then (6, d)
  else if op ≤ 6 && d.on F.SECU_STAT_KEYSLOST then (0xD, d)
  else
    match op with
    | 1 => d.secuGenerate k nvm
    | 2 => d.secuImport k host nvm
    | 3 => d.secuImportWrapped k src host nvm
    | 4 => d.secuExportWrapped k src host
    | 5 => d.secuLock k nvm
    | 6 => d.secuDestroy k nvm
    | 7 => d.secuSetDigest k (slice arg 1 0) (slice arg 3 2) host nvm
    | 8 => d.secuRevoke k nvm
    | 9 => d.secuAdvance arg nvm
    | _ => d.secuLc host nvm

/-- A running command ends with its RESULT: GO and BUSY clear, SECU_KEY is raised, and SECU_SVN for ADVANCE_SVN (R679, R682). [log entry 69: DEDUCED] -/
def Dev.secuEnd (d : Dev) (host nvm : Bool) : Dev :=
  if !d.on F.SECU_RES_BUSY then d
  else
    let op := d.rd F.SECU_CMD_OP
    let (r, d) := d.secuDo op host nvm
    let d := ((d.wr F.SECU_RES_BUSY 0).wr F.SECU_RES_RESULT r).wr F.SECU_CMD_GO 0
    let d := d.raise 595 (pack [(4, op), (4, d.rd F.SECU_CMD_SLOT), (5, r)])
    if op = 9 then d.raise 596 (d.rd F.SECU_STAT_SVNNEXT) else d

def execSecuCommandDone (host nvm : Bool) (s : State) : Out := runHub s fun d => d.secuEnd host nvm

/-! ### Random numbers and alarms (R680, R685) -/

/-- SECU_ALARM is raised with the causes standing, and every working copy is cleared (R685). -/
def Dev.secuAlarm (d : Dev) (f : Fld) : Dev :=
  let d := (d.wr f 1).secuLost
  d.raise 594 (d.fieldWord ⟨.SECU_ALARM, 0, 0, 0⟩)

/-- A health test fails: the DRBG stays FAILED until the next warm reset (R680). -/
def Dev.drbgFail (d : Dev) : Dev := (d.wr F.SECU_STAT_DRBG 3).secuAlarm F.SECU_ALARM_DRBG

def execDrbgHealthFail (s : State) : Out := run s fun d => d.drbgFail

/-- The DRBG reseeds after 2²⁰ requests (R680): RESEED while it does, READY at the end. -/
def Dev.drbgReseed (d : Dev) (past : Bool) : Dev :=
  if past then
    if d.rd F.SECU_STAT_DRBG = 2 then (d.wr F.SECU_STAT_DRBG 1).updSecu fun u => { u with requests := 0 } else d
  else if d.rd F.SECU_STAT_DRBG = 1 ∧ 2 ^ 20 ≤ d.hub.secu.requests then d.wr F.SECU_STAT_DRBG 2
  else d

def execDrbgReseed (past : Bool) (s : State) : Out := runHub s fun d => d.drbgReseed past

/-- An alarm input (R685): a supply glitch, a tamper detector, or a key memory record that fails, whose slot then reads empty. [log entry 69: DEDUCED] -/
def Dev.alarmInput (d : Dev) (a : SecuAlarm) : Dev :=
  match a with
  | .glitch => d.secuAlarm F.SECU_ALARM_GLITCH
  | .tamper => d.secuAlarm F.SECU_ALARM_TAMPER
  | .record k => (if 2 ≤ k.val then d.delSlot k else d).secuAlarm F.SECU_ALARM_NVM

def execSecuAlarmInput (a : SecuAlarm) (s : State) : Out := run s fun d => d.alarmInput a

/-! ### Resets -/

/-- What the security unit does at the release of a warm or cold reset (R676, R680, R683): a nonce is drawn, the DRBG is READY, the
secret slots are unwrapped into working copies, and the registers show the key store and the fuses. -/
def Dev.secuBoot (d : Dev) : Dev :=
  let d := d.updSecu fun u => { u with
    keys := (u.slots.filter fun x => decide (8 ≤ x.1)).map fun x => (x.1, x.2.bytes), requests := 0 }
  let d := ((d.wr F.SECU_STAT_DRBG 1).wr F.SECU_STAT_KEYSLOST 0).wr F.SECU_STAT_SVNNEXT d.hub.secu.svn
  let d := d.wr F.CUVL_SVN_FLOOR d.hub.secu.svn
  let d := match d.hub.secu.lc with
    | some t => (d.wr F.SECU_STAT_LCPEND 1).wr F.SECU_STAT_LCNEXT t
    | none => (d.wr F.SECU_STAT_LCPEND 0).wr F.SECU_STAT_LCNEXT 0
  d.secuNonce.secuShow

/-- A pending transition is applied at a cold reset (R684): entry to RETURN destroys the secret slots of class PRODUCTION and revokes the
verification slots of that class; entry to SCRAPPED destroys every secret slot, revokes every verification slot and erases the key
memory. [log entry 69: DEDUCED] -/
def Dev.lcApply (d : Dev) : Dev :=
  match d.hub.secu.lc with
  | none => d
  | some t =>
    let d := (d.wr F.HUB_LCS_STATE t).updSecu fun u => { u with lc := none }
    if t = 4 then
      d.updSecu fun u => { u with
        slots := (u.slots.filter fun x => !(decide (8 ≤ x.1) && x.2.cls == 3)).map fun x =>
          if x.1 < 8 ∧ x.2.cls = 3 then (x.1, { x.2 with revoked := true }) else x }
    else if t = 5 then
      d.updSecu fun u => { u with slots := (u.slots.filter fun x => decide (x.1 < 2)).map fun x => (x.1, { x.2 with revoked := true }) }
    else d

end Sys2Proof.Machine
end

