-- ==== Sys2Proof/Machine/Pace.lean ====
section
/-!
DEFINITION. The pace contract (chapter 2, R66 to R72 and R79 to R86): sensors, claims, margins, pause densities, shedding and its end.
-/
namespace Sys2Proof.Machine

/-- The device with the pace data of pipe `p` changed. -/
def Dev.updPace (d : Dev) (p : Nat) (f : Pace → Pace) : Dev := d.updPipe p fun x => { x with pace := f x.pace }

/-- Whether pipe `p` has power: any state but OFF and TRIPPED (R91). -/
def Dev.powered (d : Dev) (p : Nat) : Bool := [1, 2, 3, 4].contains (d.rd F.PCTL_STAT_STATE p)

/-! ### Sensors (R66 to R68) -/

/-- A reading of sensor `k` in ps: one outside 300 to 2,000 ps, or unchanged for 1 ms (1,000 readings after the first), excludes the
sensor until a pipe reset. [log entry 25: DESIGN CHOICE] -/
def Dev.paceReading (d : Dev) (p k ps : Nat) : Dev :=
  if !d.powered p then d
  else
    let x := Tab.get {} (d.pipe p).pace.sens k
    let same := if x.last = ps then x.same + 1 else 0
    let d := d.updPace p fun a => { a with sens := Tab.put a.sens k ⟨ps, same, max x.peak ps⟩ }
    let d := d.wr F.PCTL_PSENS_PACE_PS ps p k
    if d.on F.PCTL_PSENS_FAULT p k then d
    else if ps < 300 ∨ 2000 < ps ∨ 1000 ≤ same then
      ((d.wr F.PCTL_PSENS_FAULT 1 p k).wr F.PCTL_PSENS_VALID 0 p k).raiseP p 2 k
    else d.wr F.PCTL_PSENS_VALID 1 p k

def execPaceSensorReading (p : Pipe) (k : Fin 24) (ps : BitVec 12) (s : State) : Out := run s fun d => d.paceReading p k ps.toNat

/-! ### Claims and margins (R69 to R72) -/

/-- Whether claim `k` of pipe `p` is valid. -/
def Dev.claimValid (d : Dev) (p k : Nat) : Bool := d.on F.PCTL_CLM_CFG_VALID p k

/-- The rungs in a claim's masks. -/
def Dev.claimRungs (d : Dev) (p k : Nat) : List Nat :=
  bitsOf (d.rd F.PCTL_CLM_RUNG_RUNG_LO p k + 2 ^ 32 * d.rd F.PCTL_CLM_MASK_RUNG_HI p k) 40

/-- The live outputs in a claim's masks. -/
def Dev.claimLives (d : Dev) (p k : Nat) : List Nat := bitsOf (d.rd F.PCTL_CLM_MASK_LIVE p k) 16

/-- Whether rung `r` is shed on pipe `p`. -/
def Dev.rungShed (d : Dev) (p r : Nat) : Bool := (d.pipe p).pace.rungs.any fun x => x.1 == r

/-- Whether live output `i` is shed on pipe `p`. -/
def Dev.liveShed (d : Dev) (p i : Nat) : Bool := (d.pipe p).pace.lives.any fun x => x.1 == i

/-- The rungs of a claim that are configured and not shed. -/
def Dev.rungsOpen (d : Dev) (p k : Nat) : List Nat :=
  (d.claimRungs p k).filter fun r => !(d.bsOfRung p r).isEmpty && !d.rungShed p r

/-- The live outputs of a claim that are configured and not shed. -/
def Dev.livesOpen (d : Dev) (p k : Nat) : List Nat := (d.claimLives p k).filter fun i => d.liveOn p i && !d.liveShed p i

/-- Whether claim `k` is active (R71). -/
def Dev.claimActive (d : Dev) (p k : Nat) : Bool :=
  d.claimValid p k &&
    ((d.on F.PCTL_CLM_CFG_REC p k && d.on F.PCTL_STAT_TAKE p) || !(d.rungsOpen p k).isEmpty || !(d.livesOpen p k).isEmpty ||
      (!d.on F.PCTL_CLM_CFG_REC p k && (d.claimRungs p k).isEmpty && (d.claimLives p k).isEmpty))

/-- The longest PEAK_PS among the valid sensors that `ks` names, none where none is valid. -/
def Dev.peakOf (d : Dev) (p : Nat) (ks : List Nat) : Option Nat :=
  let l := (ks.filter fun k => d.on F.PCTL_PSENS_VALID p k).map fun k => d.rd F.PCTL_PSENS_PEAK_PS p k
  if l.isEmpty then none else some (l.foldl max 0)

/-- A claim's margin in ps (R72). -/
def Dev.claimMargin (d : Dev) (p k : Nat) : Int :=
  let claim : Int := Int.ofNat (d.rd F.PCTL_CLM_CFG_CLAIM_PS p k)
  match d.peakOf p (bitsOf (d.rd F.PCTL_CLM_SENS_SENS p k) 24) with
  | some m => claim - Int.ofNat (if d.on F.PCTL_CLM_CFG_REMAP p k then ceilDiv (m * 104) 100 else m)
  | none =>
    match d.peakOf p (List.range 24) with
    | some m => claim - Int.ofNat (ceilDiv (m * 105) 100)
    | none => -2048

/-! ### Pause densities (R79 to R81) -/

/-- SHED_DENS, 0x3F where 0 is written (chapter 2). -/
def Dev.shedDens (d : Dev) : Nat := let v := d.rd F.HUB_GOV_TIME_SHED_DENS; if v = 0 then 63 else v

/-- Whether pipe `p` has shed rank-5 kind `k` (codes of R40). -/
def Dev.kindShed (d : Dev) (p k : Nat) : Bool := (d.pipe p).pace.kinds.any fun x => x.1 == k

/-- The densities pipe `p` applies: the largest requested for each stage by the manual register, by throttling and by shedding (R81). -/
def Dev.pauseEff (d : Dev) (p : Nat) : Dev :=
  let t := d.rd F.PTHM_STAT_DENS p
  let shed := fun (b : Bool) => if b then d.shedDens else 0
  let eff := fun (f : Fld) (b : Bool) => max (d.rd f p) (max t (shed b))
  let paused := (d.pipe p).pace.rungs.any fun x => (d.bsOfRung p x.1).any fun (c, _) => d.on F.BLK_CTXCFG_SHED p c
  (((d.wr F.PCTL_PAUSE_EFF_STAGING (eff F.PCTL_PAUSE_MAN_STAGING (d.kindShed p 0)) p).wr
    F.PCTL_PAUSE_EFF_SHEDCTX (eff F.PCTL_PAUSE_MAN_SHEDCTX paused) p).wr
    F.PCTL_PAUSE_EFF_RACKBG (eff F.PCTL_PAUSE_MAN_RACKBG (d.kindShed p 3)) p).wr
    F.PCTL_PAUSE_EFF_PRESS (eff F.PCTL_PAUSE_MAN_PRESS (d.kindShed p 2)) p

/-- The densities the Hub applies, `t` the density its throttling requests. -/
def Dev.hubPauseEff (d : Dev) (t : Nat) : Dev :=
  ((d.wr F.HUB_PAUSE_EFF_STAGING (max t (d.rd F.HUB_PAUSE_MAN_STAGING))).wr
    F.HUB_PAUSE_EFF_RACKBG (max t (d.rd F.HUB_PAUSE_MAN_RACKBG))).wr F.HUB_PAUSE_EFF_PRESS (max t (d.rd F.HUB_PAUSE_MAN_PRESS))

/-! ### Shedding (R82 to R85) -/

/-- Whether a voltage step is in progress (R75). -/
def Dev.govStepping (d : Dev) : Bool :=
  d.hub.gov.settling || [PmbOp.voutCommand, .verifyVout, .verifyStatus].contains d.hub.gov.op

/-- Whether VCORE counts as unable to rise for pipe `p` (R77, R82). -/
def Dev.cannotRise (d : Dev) (p : Nat) : Bool :=
  d.on F.HUB_GOV_STAT_AT_VMAX || d.rd F.HUB_GOV_CTL_MODE != 1 || d.rd F.HUB_GOV_STAT_STATE == 6 || d.inArun p ||
    decide (d.govLimits.2.1 < d.hub.gov.vcmd)

/-- The running claimants of a rank-5 kind in pipe `p`, as their instances in ascending order (R36, R40). -/
def Dev.kindClaimants (d : Dev) (p k : Nat) : List Nat :=
  match k with
  | 0 => if d.rd F.CUVL_STAT_STATE = 2 ∧ bit (d.rd F.CUVL_STAT_PIPES) p then [0] else []
  | 1 => if d.on F.BIST_STAT_BUSY && bistOfPipe (d.rd F.BIST_CMD_CLASS) && d.rd F.BIST_CMD_PIPE == p then [d.rd F.BIST_CMD_CLASS] else []
  | 2 => (List.range 4).filter fun r => d.rd F.PRESS_RING_STAT_STATE p r == 2
  | _ => if d.celWork p then [0] else []

/-- KRANK of what a short claim sheds: the highest rank of the work in its masks (R84). -/
def Dev.claimKrank (d : Dev) (p k : Nat) : Nat :=
  if d.on F.PCTL_CLM_CFG_REC p k then 1 else if (d.claimLives p k).isEmpty then 3 else 2

/-- The next thing a short claim sheds, as the rank and its number: a rank-5 kind, a rung (sheddable ones first), a live output (R83). A
REC claim sheds the first alone (R85). [log entry 26: DEDUCED] -/
def Dev.shedNext (d : Dev) (p k : Nat) : Option (Nat × Nat) :=
  match (List.range 4).find? fun x => !d.kindShed p x && !(d.kindClaimants p x).isEmpty with
  | some x => some (5, x)
  | none =>
    let rs := (d.rungsOpen p k).reverse
    let soft := rs.filter fun r => (d.bsOfRung p r).any fun (c, _) => d.on F.BLK_CTXCFG_SHED p c
    if d.on F.PCTL_CLM_CFG_REC p k then none
    else
      match soft.head?.or rs.head? with
      | some r => some (3, r)
      | none => (d.livesOpen p k).getLast?.map fun i => (2, i)

/-- A shedding step for claim `k` (R83, R84). [log entry 26: DEDUCED] -/
def Dev.shedStep (d : Dev) (p k : Nat) (what : Nat × Nat) : Dev :=
  let kr := d.claimKrank p k
  let rec_ := fun (d : Dev) (rank obj n : Nat) =>
    d.yieldBegin { origin := p, yrank := rank, krank := kr, res := 2, object := obj, cause := 2, began := 0, amount := n }
  match what.1 with
  | 5 =>
    let l := d.kindClaimants p what.2
    rec_ (d.updPace p fun a => { a with kinds := a.kinds ++ [(what.2, k)] }) 5 (what.2 * 2 ^ 12 + l.headD 0) l.length
  | 3 =>
    let d := d.updPace p fun a => { a with rungs := a.rungs ++ [(what.2, k)] }
    let d := (d.bsOfRung p what.2).foldl (fun d (c, s) =>
      if d.on F.BLK_CTXCFG_SHED p c then d.wr F.BLK_SSTAT_PAUSED 1 p c s else d.bsStop p c s) d
    rec_ d 3 what.2 0
  | _ => rec_ (d.updPace p fun a => { a with lives := a.lives ++ [(what.2, k)] }) 2 what.2 0

/-- The windows in a row that each claim's margin has been below 0. -/
def Dev.negCount (d : Dev) (p k : Nat) : Nat := if d.claimMargin p k < 0 then Tab.get 0 (d.pipe p).pace.neg k + 1 else 0

/-- A short claim's work in one window: PACE_SHORT where it has just become short, one shedding step, and for a REC claim with nothing
left PACE_SHORT again (R82, R83, R85). [log entry 26: DEDUCED] -/
def Dev.claimShort (d : Dev) (p k : Nat) : Dev :=
  let d := if (d.pipe p).pace.short.contains k then d else d.raiseP p 1 k
  let d := match d.shedNext p k with | some x => d.shedStep p k x | none => d
  if d.on F.PCTL_CLM_CFG_REC p k && (d.shedNext p k).isNone && !(d.pipe p).pace.done.contains k then
    (d.updPace p fun a => { a with done := insertNum k a.done }).raiseP p 1 k
  else d

/-- `PCTL_PACE_STAT.SHED` of pipe `p`. -/
def Dev.shedCode (d : Dev) (p : Nat) : Nat :=
  let a := (d.pipe p).pace
  if !a.done.isEmpty then 4 else if !a.lives.isEmpty then 3 else if !a.rungs.isEmpty then 2 else if !a.kinds.isEmpty then 1 else 0

/-- What the pace registers show of shedding. -/
def Dev.showShed (d : Dev) (p : Nat) : Dev :=
  let d := (d.wr F.PCTL_PACE_STAT_SHED (d.shedCode p) p).wrb F.PCTL_PACE_STAT_SHORT (!(d.pipe p).pace.short.isEmpty) p
  (d.wrb F.HUB_GOV_STAT_SHED ((List.range 4).any fun q => d.shedCode q != 0)).pauseEff p

/-- A 20 µs window of pipe `p` ends (R67, R71, R72, R82, R83): the peaks show, every claim's margin is computed, and each short claim in
ascending index takes one shedding step. [log entry 87: DESIGN CHOICE] -/
def Dev.paceWindow (d : Dev) (p : Nat) : Dev :=
  if !d.powered p then d
  else
    let d := (List.range 24).foldl (fun d k => d.wr F.PCTL_PSENS_PEAK_PS (Tab.get {} (d.pipe p).pace.sens k).peak p k) d
    let d := d.updPace p fun a => { a with sens := a.sens.map fun x => (x.1, { x.2 with peak := 0 }) }
    let valid := (List.range 32).filter fun k => d.claimValid p k
    let active := valid.filter fun k => d.claimActive p k
    let margins := valid.map fun k => (k, d.claimMargin p k)
    let neg := (valid.map fun k => (k, d.negCount p k)).filter fun x => x.2 != 0
    let worst := active.foldl (fun (a : Option (Nat × Int)) k =>
      let m := d.claimMargin p k
      match a with | some (j, n) => if m < n then some (k, m) else some (j, n) | none => some (k, m)) none
    let d := match worst with
      | some (k, m) => ((d.wr F.PCTL_PACE_STAT_NOCLAIM 0 p).wr F.PCTL_PACE_STAT_CLAIM k p).wr F.PCTL_PACE_STAT_MARGIN (satCode 12 m) p
      | none => ((d.wr F.PCTL_PACE_STAT_NOCLAIM 1 p).wr F.PCTL_PACE_STAT_CLAIM 0 p).wr F.PCTL_PACE_STAT_MARGIN 0 p
    let d := d.updPace p fun a => { a with margins := margins, neg := neg }
    let short := if d.govStepping || !d.cannotRise p then []
      else active.filter fun k => decide (2 ≤ Tab.get 0 neg k)
    let d := short.foldl (fun d k => d.claimShort p k) d
    let d := d.updPace p fun a => { a with short := short, done := a.done.filter fun k => short.contains k }
    d.showShed p

def execPaceWindowEnd (p : Pipe) (s : State) : Out := run s fun d => d.paceWindow p

/-! ### Restoration (R37, R86) -/

/-- The governor's bands GUARD_LO and GUARD_HI: both at their reset values where GUARD_LO is not below GUARD_HI (chapter 2). -/
def Dev.guards (d : Dev) : Nat × Nat :=
  let lo := d.rd F.HUB_GOV_LOOP_GUARD_LO
  let hi := d.rd F.HUB_GOV_LOOP_GUARD_HI
  if lo < hi then (lo, hi) else (20, 45)

/-- Whether the claims that judge an item shed for claim `k` are at or above GUARD_HI: that claim, or after a switch the valid claims
whose masks hold the item (R86). -/
def Dev.shedOver (d : Dev) (p rank item k : Nat) : Bool :=
  let ok := fun (k : Nat) => decide (Int.ofNat d.guards.2 ≤ Tab.get 0 (d.pipe p).pace.margins k)
  if k < 32 then ok k
  else ((List.range 32).filter fun k =>
    d.claimValid p k && (rank == 5 || (rank == 3 && (d.claimRungs p k).contains item) || (rank == 2 && (d.claimLives p k).contains item))).all ok

/-- The items of rank `rank` that pipe `p` has shed. -/
def Dev.shedItems (d : Dev) (p rank : Nat) : List (Nat × Nat) :=
  let a := (d.pipe p).pace
  match rank with | 5 => a.kinds | 3 => a.rungs | 2 => a.lives | _ => []

/-- An item shed is restored with its END record (R37, R86). [log entry 26: DEDUCED] -/
def Dev.shedRestore (d : Dev) (p rank item : Nat) : Dev :=
  let keep := fun (l : List (Nat × Nat)) => l.filter fun x => x.1 != item
  let d := d.updPace p fun a =>
    match rank with | 5 => { a with kinds := keep a.kinds } | 3 => { a with rungs := keep a.rungs } | _ => { a with lives := keep a.lives }
  let d := if rank = 3 then (d.bsOfRung p item).foldl (fun d (c, s) =>
      let d := d.wr F.BLK_SSTAT_PAUSED 0 p c s
      if d.on F.BLK_SSTAT_STOPPED p c s then d.bsRestore p c s else d) d else d
  let d := d.yieldEnd fun y => y.origin == p && y.res == 2 && y.yrank == rank &&
    (if rank = 5 then y.object / 2 ^ 12 == item else y.object == item)
  d.showShed p

/-- 100 ms without conflict have passed for the yields of rank `rank` of an origin and resource (R37): where no higher rank of it still
yields, they end. A pace yield ends where its claims allow (R86); those that a level of the record buffer or a hot channel holds end
with it. -/
def Dev.yieldRestore (d : Dev) (u res rank : Nat) : Dev :=
  if d.yielding fun y => y.origin == u && y.res == res && decide (y.yrank < rank) then d
  else if res = 2 ∧ u < 4 then
    let d := (d.shedItems u rank).foldl (fun d x => if d.shedOver u rank x.1 x.2 then d.shedRestore u rank x.1 else d) d
    d.yieldEnd fun y => y.origin == u && y.res == 2 && y.yrank == rank &&
      !((d.shedItems u rank).any fun x => if rank = 5 then y.object / 2 ^ 12 == x.1 else y.object == x.1)
  else
    d.yieldEnd fun y => y.origin == u && y.res == res && y.yrank == rank &&
      !(y.cause == 1 && res == 0 && decide (3 ≤ rank) && d.on (rbHold rank) u) && !(y.cause == 3 && d.on F.DRC_HOT_STAT_HOLD u)

def execYieldRestore (u : Unit5) (res : Fin 16) (rank : Fin 6) (s : State) : Out := run s fun d => d.yieldRestore u res rank

/-- A yield of pipe `p` by which autonomous run has stopped a stream (R44). -/
def arunYield (p : Nat) (y : Yield) : Bool := y.origin == p && ((y.res == 4 && y.cause == 6) || (y.res == 5 && y.cause == 8))

/-- The streams of the configuration in force stand paused or stopped as what is shed says (R69, R83, R376); one that autonomous run has
stopped stays so. -/
def Dev.shedApply (d : Dev) (p : Nat) : Dev :=
  (List.range 64).foldl (fun d i =>
    let c := i / 4
    let s := i % 4
    let shed := d.bsOn p c s && d.bsRank p c s == 3 && d.rungShed p (d.bsObj p c s)
    let soft := d.on F.BLK_CTXCFG_SHED p c
    let away := d.bsOn p c s && d.yielding fun y => arunYield p y && y.yrank == d.bsRank p c s && y.object == d.bsObj p c s
    let d := d.wrb F.BLK_SSTAT_PAUSED (shed && soft) p c s
    let was := d.on F.BLK_SSTAT_STOPPED p c s
    if shed && !soft then d.when (!was) fun d => d.bsStop p c s
    else d.when (was && !away) fun d => d.bsRestore p c s) d

/-- A switch has changed the configuration of pipe `p`, the claims `ks` in it (R86): what was shed for them is judged by the claims whose
masks hold it; the yield of a rung or live output that is no longer configured ends; what stays shed is so in the new configuration
(R69). [log entry 26: DEDUCED] -/
def Dev.paceSwitched (d : Dev) (p : Nat) (ks : List Nat) : Dev :=
  let move := fun (l : List (Nat × Nat)) => l.map fun x => if ks.contains x.2 then (x.1, 32) else x
  let d := d.updPace p fun a => { a with
    kinds := move a.kinds, rungs := move a.rungs, lives := move a.lives
    short := a.short.filter fun k => !ks.contains k
    done := a.done.filter fun k => !ks.contains k
    neg := a.neg.filter fun x => !ks.contains x.1
    margins := a.margins.filter fun x => !ks.contains x.1 }
  let gone := ((d.pipe p).pace.rungs.filter fun x => (d.bsOfRung p x.1).isEmpty).map (·.1)
  let d := gone.foldl (fun d r => d.shedRestore p 3 r) d
  let dead := ((d.pipe p).pace.lives.filter fun x => !d.liveOn p x.1).map (·.1)
  ((dead.foldl (fun d i => d.shedRestore p 2 i) d).shedApply p).showShed p

/-! ### The record path's watchdog (R87 to R90) -/

/-- The device with the record path of pipe `p` changed. -/
def Dev.updRecp (d : Dev) (p : Nat) (f : RecPath → RecPath) : Dev := d.updPipe p fun x => { x with recp := f x.recp }

/-- The items of a cask's words: whole ones, and the words after the last END. -/
def splitItems : List CaskWord → List CaskWord → List (List CaskWord) × List CaskWord
  | [], cur => ([], cur)
  | w :: t, cur =>
    if w.fin then
      let (a, b) := splitItems t []
      ((cur ++ [w]) :: a, b)
    else splitItems t (cur ++ [w])

/-- The bytes of an item. -/
def itemData (ws : List CaskWord) : List Byte := ws.flatMap fun w => leBytes 8 w.data

/-- What an item of a take stream is: a frame unit, a gap record, or another unit. -/
def Dev.lostUnit (d : Dev) (p v : Nat) (ws : List CaskWord) : List GapRec :=
  let u := unitOfBytes (itemData ws)
  if u.frame && !u.void then [d.gapRec p v 0 4 u.seq 1 u.fn u.fs u.fe] else []

/-- The gap records of the frames that wait in the record branch: each frame's start up to its end. A frame voided by a close leaves
none, and one whose end has not come is counted by the split. -/
def Dev.lostItems (d : Dev) (p v : Nat) : List RecItem → Option (Nat × Nat × (Nat × Nat)) → List RecItem
  | [], _ => []
  | .fs fn seq t :: l, _ => d.lostItems p v l (some (fn, seq, t))
  | .row _ _ _ :: l, o => d.lostItems p v l o
  | .fe t :: l, some (fn, seq, fs) => .gap (d.gapRec p v 0 4 seq 1 fn fs t) :: d.lostItems p v l none
  | .fe _ :: l, none => d.lostItems p v l none
  | .void _ :: l, _ => d.lostItems p v l none
  | .gap r :: l, o => .gap r :: d.lostItems p v l o
  | .again bs :: l, o => .again bs :: d.lostItems p v l o
  | .close :: l, o => d.lostItems p v l o

/-- The record path of a virtual channel flushed from the split to the stalled stage (R88, R89); answers what accounts for what was lost, to
be written after the restart. What was in the record branch and the unit being written is lost. From stage 2 on the take cask is flushed
by R105 and R106 as well, the reinitialised encoder's END ending the discarded item, with the unit that the reader has begun; a gap
record lost so is written again. Before stage 2 the cask keeps its whole items. [log entry 27: DEDUCED] -/
def Dev.recFlushVc (d : Dev) (p v stage : Nat) : List RecItem × Dev :=
  let e := d.enc p v
  if !e.live then ([], d)
  else
    let k := d.rd F.PXR_ENC_VCC_CASK p v
    let x := d.cask p k
    let t := k - 120
    let head := if 2 ≤ stage then (d.tq p t).unit else []
    let (items, _) := splitItems (head ++ x.words ++ x.wait) []
    let isGap := fun (ws : List CaskWord) => ofLeBytes ((itemData ws).take 4) == ofLeBytes ((d.gapRec p v 0 0 0 0 0 (0, 0) (0, 0)).bytes.take 4)
    let lost := items.flatMap fun i => if isGap i then [RecItem.again (itemData i)] else (d.lostUnit p v i).map RecItem.gap
    let open_ := if e.writing then some (e.fn, e.seq, e.fs) else none
    let recs := (if 2 ≤ stage then lost else []) ++ d.lostItems p v e.items open_ ++ e.due.map RecItem.gap
    let closing := e.items.any fun i => match i with | .close => true | _ => false
    let d := (d.putEnc p v { live := true, take := e.take, dlast := e.dlast, items := if closing then [.close] else [] }).wr
      F.PXR_ENC_VSTAT_OPEN 0 p v
    if 2 ≤ stage then
      let d := (d.setCask p k { x with wait := [] }).caskFlush p k
      let d := d.when (d.on F.CASK_STAT_DISCARD p k) fun d => d.caskPut p k { data := 0, fin := true }
      (recs, d.putTq p t { d.tq p t with unit := [] })
    else
      let kept := items.flatMap id
      let depth := d.caskDepth p k
      let d := d.putCask p k { x with words := kept.take depth, wait := kept.drop depth, marker := x.marker || kept.isEmpty }
      (recs, (d.wr F.CASK_STAT_CREDITS (depth - (kept.take depth).length - x.transit) p k).wr F.CASK_STAT_DISCARD 0 p k)

/-- Whether instance `inst` of a record-path stage is one that can stall: it holds an input token and its output has credit (R87). Stage 0,
the record branch of a virtual channel: a frame passes, or something waits for the encoder. Stage 1, the encoder of a virtual channel:
a unit is open or waits, and no word of it waits for credit. Stage 2, a take cask: it holds a word. Stage 3, an ONFI channel of the
slice: a unit waits for the cartridge. -/
def Dev.stageHolds (d : Dev) (p stage inst : Nat) : Bool :=
  match stage with
  | 0 => decide (inst < 16) && ((d.vc p inst).feeding || !(d.enc p inst).items.isEmpty)
  | 1 => decide (inst < 16) && ((d.enc p inst).writing || !(d.enc p inst).items.isEmpty) &&
      (d.cask p (d.rd F.PXR_ENC_VCC_CASK p inst)).wait.isEmpty
  | 2 => decide (120 ≤ inst) && decide (inst < 128) && !(d.cask p inst).words.isEmpty
  | _ => decide (inst < 4) && (List.range 8).any fun t => !(d.tq p t).recs.isEmpty

/-- A stage of the record path has stalled (R88): `PCTL_STALL_LOC` and REC_STALL, and the split stops feeding the record branch. The same
stage and instance within 1 s closes the pipe's takes and stays stopped until a pipe reset (R90). [log entry 27: DEDUCED] -/
def Dev.recStall (d : Dev) (p stage inst : Nat) : Dev :=
  let r := (d.pipe p).recp
  if !d.pipeRuns p || r.latched || !d.stageHolds p stage inst then d
  else
    let latch := r.seen && r.stage == stage && r.inst == inst && decide (cSince r.at_ d.c < cOfNs 1000000000)
    let d := d.updRecp p fun r => { r with stage := stage, inst := inst, at_ := d.c, seen := true, stopped := true, flushed := false, latched := latch }
    let d := (((d.wr F.PCTL_STALL_LOC_VALID 1 p).wrb F.PCTL_STALL_LOC_LATCH latch p).wr F.PCTL_STALL_LOC_STAGE stage p).wr F.PCTL_STALL_LOC_INST inst p
    let d := (d.bump C.PCTL_STALL_CNT p).raiseP p 3 (d.fieldWord ⟨.PCTL_STALL_LOC, p, 0, 0⟩)
    let d := (List.range 16).foldl (fun d v =>
      let x := d.vc p v
      if x.feeding then d.putVc p v { x with feeding := false, counted := true, recDrop := false } else d) d
    if latch then
      let d := (List.range 16).foldl (fun d v => (d.recFlushVc p v stage).2) d
      let d := (List.range 16).foldl (fun d v => d.putVc p v { d.vc p v with stalled := [], counted := false }) d
      (d.arunEnd p 7).takeClosePipe p
    else d

def execRecStall (p : Pipe) (stage : Fin 4) (inst : BitVec 16) (s : State) : Out := run s fun d => d.recStall p stage inst.toNat

/-- The flush of step 4 at the next frame seam (R88): the records of what is lost stand before those the split has counted. [log entry 27: DEDUCED] -/
def Dev.recFlush (d : Dev) (p : Nat) : Dev :=
  let r := (d.pipe p).recp
  if !r.stopped || r.latched then d
  else
    let d := (List.range 16).foldl (fun d v =>
      let (recs, d) := d.recFlushVc p v r.stage
      d.putVc p v { d.vc p v with stalled := recs ++ (d.vc p v).stalled }) d
    d.updRecp p fun r => { r with stopped := false, flushed := true }

def execRecFlush (p : Pipe) (s : State) : Out := run s fun d => d.recFlush p

/-- The record path resumes (R88, R89): the gap records go before the frame that the split has fed since, and REC_RESTART is raised. [log entry 27: DEDUCED] -/
def Dev.recRestart (d : Dev) (p : Nat) : Dev :=
  let r := (d.pipe p).recp
  if !r.flushed then d
  else
    let d := d.updRecp p fun r => { r with flushed := false }
    let d := (List.range 16).foldl (fun d v =>
      let x := d.vc p v
      let e := d.enc p v
      let items := x.stalled ++ e.items
      let d := d.putVc p v { x with stalled := [] }
      if e.live then (d.putEnc p v { e with items := items }).encAdvance p v (items.length + 1) else d) d
    d.raiseP p 4 (2 ^ 31 + r.stage * 2 ^ 24 + r.inst)

def execRecRestart (p : Pipe) (s : State) : Out := run s fun d => d.recRestart p

end Sys2Proof.Machine
end

