-- ==== Sys2Proof/Machine/Gov.lean ====
section
/-!
DEFINITION. The pace governor (chapter 2, R73 to R78): the modes, the transactions on the PMBus, the steps of VCORE.
-/
namespace Sys2Proof.Machine

/-- The bytes the governor sends for a transaction (R73): the regulator's address, a command, for a write its data and with PEC the packet's
CRC-8, for a read the address again. -/
def Dev.pmbBytes (d : Dev) (g : Gov) : List Byte :=
  let a := 2 * d.rd F.HUB_GOV_PMB_ADDR
  let write := fun (bs : List Nat) =>
    let bs := bs.map (BitVec.ofNat 8)
    if d.on F.HUB_GOV_PMB_PEC then bs ++ [BitVec.ofNat 8 (crc8 bs)] else bs
  let read := fun (c : Nat) => [a, c, a + 1].map (BitVec.ofNat 8)
  match g.op with
  | .none => []
  | .page => write [a, 0x00, d.rd F.HUB_GOV_PMB_PAGE]
  | .voutMode => read 0x20
  | .voutCommand => write [a, 0x21, g.code % 256, g.code / 256]
  | .readVoutEntry | .verifyVout => read 0x8B
  | .verifyStatus | .alertStatus => read 0x79

/-- The device with its governor changed: a transaction that starts, or is repeated, goes out on the bus. -/
def Dev.updGov (d : Dev) (f : Gov → Gov) : Dev :=
  let was := d.hub.gov
  let g := f was
  let g := if g.op = was.op ∧ g.tries = was.tries ∧ g.code = was.code then g
    else { g with bus := d.pmbBytes g, fast := d.on F.HUB_GOV_PMB_SPEED }
  d.updHub fun h => { h with gov := g }

/-- `HUB_GOV_STAT.STATE`: 0 OFF, 1 INIT, 2 TRACK, 3 SETTLE, 4 HOLD, 5 MANUAL, 6 FAULT. -/
def Dev.govState (d : Dev) : Nat := d.rd F.HUB_GOV_STAT_STATE

/-- STEP_UP and STEP_DN in mV: a step of 0 takes its reset value (chapter 2). -/
def Dev.govSteps (d : Dev) : Nat × Nat :=
  let up := d.rd F.HUB_GOV_LOOP_STEP_UP
  let dn := d.rd F.HUB_GOV_LOOP_STEP_DN
  (if up = 0 then 10 else up, if dn = 0 then 5 else dn)

/-- A LINEAR16 code of exponent `x` in mV, rounded to the nearest. -/
def linearMv (x : Int) (v : Nat) : Nat :=
  if 0 ≤ x then v * 2 ^ x.toNat * 1000 else roundDiv (v * 1000) (2 ^ (-x).toNat)

/-- The LINEAR16 code of exponent `x` nearest to `mv` (R73). [log entry 28: PRESUMED] -/
def linearCode (x : Int) (mv : Nat) : Nat :=
  (if 0 ≤ x then roundDiv mv (1000 * 2 ^ x.toNat) else roundDiv (mv * 2 ^ (-x).toNat) 1000) % 2 ^ 16

/-- Whether a READ_VOUT of `v` lies more than 15 mV from the target (R76), compared exactly. -/
def voutOff (x : Int) (v target : Nat) : Bool :=
  let n := 2 ^ (-x).toNat
  let got := v * 2 ^ x.toNat * 1000
  decide (got + 15 * n < target * n) || decide ((target + 15) * n < got)

/-- A voltage write to `mv` starts (R75). -/
def Dev.govWrite (d : Dev) (mv : Nat) : Dev :=
  let d := if d.rd F.HUB_GOV_CTL_MODE = 1 then d.wr F.HUB_GOV_STAT_STATE 3 else d
  d.updGov fun g => { g with op := .voutCommand, tries := 0, target := mv, code := linearCode g.exponent mv }

/-- What the governor does next with a free bus: the entry sequence, the read after an alert, in MANUAL the write of a changed target
(R73, R76). -/
def Dev.govNext (d : Dev) : Dev :=
  let g := d.hub.gov
  if g.op ≠ .none ∨ g.settling then d
  else if g.entry then
    let first := if d.on F.HUB_GOV_PMB_PAGE_EN then PmbOp.page else .voutMode
    (d.wr F.HUB_GOV_STAT_STATE 1).updGov fun g => { g with entry := false, op := first, tries := 0 }
  else if g.alert && [2, 4, 5].contains d.govState then d.updGov fun g => { g with alert := false, op := .alertStatus, tries := 0 }
  else if d.govState = 5 then
    let (lo, hi, _) := d.govLimits
    let t := clampN lo hi (d.rd F.HUB_GOV_CTL_VMAN)
    if t = g.vcmd then d else d.govWrite t
  else d

/-- A write of `HUB_GOV_CTL` (R73, R76): a new mode never cuts a transaction, but it is not repeated and nothing further of the step in
progress follows; AUTO and MANUAL run the entry sequence when they are entered from OFF, HOLD or FAULT, and start it again when the mode
changes between them before it has ended. FCAUSE clears. [log entry 29: DEDUCED; log entry 87: DESIGN CHOICE] -/
def Dev.govMode (d : Dev) (mode vman : Nat) : Dev :=
  let was := d.rd F.HUB_GOV_CTL_MODE
  let fault := d.govState == 6
  let d := (d.wr F.HUB_GOV_CTL_MODE mode).wr F.HUB_GOV_CTL_VMAN vman
  if was = mode ∧ !fault then d.govNext
  else
    let busy := decide (d.hub.gov.op ≠ .none) && !d.hub.gov.waiting
    let live := (was == 1 || was == 3) && !fault
    let init := live && (mode == 1 || mode == 3) && (d.govState == 1 || d.hub.gov.entry)
    let d := d.updGov fun g =>
      { g with settling := false, waiting := false, tries := 0, cut := busy, op := if busy then g.op else .none, entry := init }
    let d := if mode = 1 then d else d.wr F.HUB_GOV_STAT_AT_VMAX 0
    let d := d.wr F.HUB_GOV_STAT_FCAUSE 0
    match mode with
    | 0 => (d.wr F.HUB_GOV_STAT_STATE 0).updGov fun g => { g with alert := false }
    | 2 => (d.wr F.HUB_GOV_STAT_STATE 4).govNext
    | _ =>
      if init then d.govNext
      else if live then (d.wr F.HUB_GOV_STAT_STATE (if mode = 1 then 2 else 5)).govNext
      else ((d.wr F.HUB_GOV_STAT_STATE 1).updGov fun g => { g with entry := true }).govNext

def execGovModeWrite (mode : Fin 4) (vman : BitVec 10) (s : State) : Out := bar2 .HUB_CTL 0 s fun d => (d.govMode mode vman.toNat).bistWatch

/-- The governor enters FAULT (R76): VCORE stays where it is. -/
def Dev.govFault (d : Dev) (cause : Nat) : Dev :=
  let d := (d.wr F.HUB_GOV_STAT_STATE 6).wr F.HUB_GOV_STAT_FCAUSE cause
  let d := d.updGov fun g => { g with op := .none, tries := 0, waiting := false, settling := false, entry := false, alert := false }
  (d.raise 515 cause).bistWatch

/-- An attempt fails: it is repeated up to three times, unless a mode write has cut it; the fourth failure is a FAULT (R76). [log entry 29: DEDUCED] -/
def Dev.govFail (d : Dev) (cause : Nat) : Dev :=
  if d.hub.gov.cut then (d.updGov fun g => { g with op := .none, cut := false, tries := 0 }).govNext
  else if 3 ≤ d.hub.gov.tries then d.govFault cause
  else d.updGov fun g => { g with tries := g.tries + 1, waiting := true }

/-- The bus is free after a transaction or step that ended well. -/
def Dev.govIdle (d : Dev) : Dev :=
  let st := match d.rd F.HUB_GOV_CTL_MODE with | 0 => 0 | 1 => 2 | 2 => 4 | _ => 5
  ((d.wr F.HUB_GOV_STAT_STATE st).updGov fun g => { g with op := .none, tries := 0, cut := false }).govNext

/-- Whether a STATUS_WORD reports a VOUT or IOUT fault (PMBus 1.3: bits 15 and 14). [log entry 28: PRESUMED] -/
def statusFault (v : Nat) : Bool := bit v 15 || bit v 14

/-- The transaction under way completes with the value `v` read (R73, R75, R76). [log entry 28: PRESUMED] -/
def Dev.pmbOk (d : Dev) (v : Nat) : Dev :=
  let g := d.hub.gov
  let go := fun (d : Dev) (op : PmbOp) => d.updGov fun g => { g with op := op, tries := 0 }
  if g.cut ∧ g.op ≠ .voutCommand then d.govIdle
  else
    match g.op with
    | .none => d
    | .page => go d .voutMode
    | .voutMode =>
      if v / 32 % 8 ≠ 0 then d.govFault 4
      else go (d.updGov fun g => { g with exponent := signed 5 v }) .readVoutEntry
    | .readVoutEntry =>
      let sent := d.rd F.HUB_GOV_STAT_VCMD
      let mv := if sent = 0 then linearMv g.exponent v else sent
      (d.updGov fun g => { g with vcmd := mv, lastChange := d.c }).govIdle
    | .voutCommand =>
      let d := (d.wr F.HUB_GOV_STAT_VCMD g.target).updGov fun g => { g with vcmd := g.target, lastChange := d.c }
      let d := if g.cut then d.govIdle else d.updGov fun g => { g with op := .none, tries := 0, settling := true }
      d.bistWatch
    | .verifyVout =>
      if voutOff g.exponent v g.target then d.govFail 5 else go d .verifyStatus
    | .verifyStatus => if statusFault v then d.govFail 5 else d.govIdle
    | .alertStatus => if statusFault v then d.govFail 6 else d.govIdle

/-- A PMBus transaction ends (R76). With `HUB_GOV_PMB.PEC` clear no packet is checked, and none ends with a mismatch (R73). -/
def Dev.pmbDone (d : Dev) (r : PmbResult) : Dev :=
  if d.hub.gov.op = .none ∨ d.hub.gov.waiting then d
  else match r with | .ok v => d.pmbOk v | .nack => d.govFail 1 | .pec => d.when (d.on F.HUB_GOV_PMB_PEC) fun d => d.govFail 2

def execPmbusTransactionDone (r : PmbResult) (s : State) : Out := runHub s fun d => d.pmbDone r
def execPmbusRetryStart (s : State) : Out := runHub s fun d => d.updGov fun g => { g with waiting := false }
def execPmbusBusTimeout (s : State) : Out :=
  runHub s fun d => if d.hub.gov.op = .none ∨ d.hub.gov.waiting then d else d.govFail 3

/-- The settling time ends and the verification reads start (R75). -/
def execGovSettleEnd (s : State) : Out :=
  runHub s fun d => if d.hub.gov.settling then d.updGov fun g => { g with settling := false, op := .verifyVout, tries := 0 } else d

/-- PMB_ALERT_N is low: in AUTO, MANUAL and HOLD the governor reads STATUS_WORD (R76). -/
def execPmbAlert (s : State) : Out :=
  runHub s fun d => if d.govState = 0 ∨ d.govState = 6 then d else (d.updGov fun g => { g with alert := true }).govNext

/-- The pipes in RUN with an active claim, with their margins. -/
def Dev.govMargins (d : Dev) : List (Nat × Int) :=
  ((List.range 4).filter fun p => d.rd F.PCTL_STAT_STATE p == 3 && !d.on F.PCTL_PACE_STAT_NOCLAIM p).map fun p =>
    (p, signed 12 (d.rd F.PCTL_PACE_STAT_MARGIN p))

/-- The window's decision in AUTO with a free bus (R74): the new command value where one is called for, and whether AT_VMAX's condition
holds. [log entry 29: DEDUCED] -/
def Dev.govDecide (d : Dev) (m : Option Int) : Option Nat × Bool :=
  let (lo, hi, idle) := d.govLimits
  let (up, dn) := d.govSteps
  let (glo, ghi) := d.guards
  let v := d.hub.gov.vcmd
  let vidle := clampN lo hi idle
  let held := decide (d.rd F.HUB_GOV_TIME_DN_HOLD ≤ usSince d.hub.gov.lastChange d.c)
  if hi < v then (some (max (v - dn) hi), false)
  else if v < lo then (some (min (v + up) lo), false)
  else
    match m with
    | none => (if v < vidle then some (min (v + up) vidle) else if vidle < v then some (max (v - dn) vidle) else none, false)
    | some m =>
      if m < Int.ofNat glo then if v < hi then (some (min (v + up) hi), false) else (none, true)
      else if Int.ofNat ghi < m ∧ held ∧ lo < v then (some (max (v - dn) lo), false)
      else (none, false)

/-- A 20 µs window ends (R74): M shows, of the lowest pipe where two have it, and in AUTO at most one step starts; GOV_AT_VMAX is raised once
per episode with the register's value at the end of the window. AT_VMAX is set in TRACK with a free bus only. [log entry 29: DEDUCED; log entry 87: DESIGN CHOICE] -/
def Dev.govWindow (d : Dev) : Dev :=
  let l := d.govMargins
  let worst := l.foldl (fun (a : Option (Nat × Int)) x => match a with | some y => if x.2 < y.2 then some x else some y | none => some x) none
  let d : Dev := match worst with
    | some (p, m) => (d.wr F.HUB_GOV_STAT_MARGIN (code 12 m)).wr F.HUB_GOV_STAT_PIPE p
    | none => (d.wr F.HUB_GOV_STAT_MARGIN 0).wr F.HUB_GOV_STAT_PIPE 0
  if d.rd F.HUB_GOV_CTL_MODE ≠ 1 then d.govNext
  else
    let (step, atMax) := d.govDecide (worst.map (·.2))
    if d.govState ≠ 2 ∨ d.hub.gov.op ≠ .none ∨ d.hub.gov.settling then
      if atMax then d else d.wr F.HUB_GOV_STAT_AT_VMAX 0
    else
      match step with
      | some v => (d.wr F.HUB_GOV_STAT_AT_VMAX 0).govWrite v
      | none =>
        if atMax then
          let was := d.on F.HUB_GOV_STAT_AT_VMAX
          let d := d.wr F.HUB_GOV_STAT_AT_VMAX 1
          if was then d else d.raise 514 (d.fieldWord ⟨.HUB_GOV_STAT, 0, 0, 0⟩)
        else d.wr F.HUB_GOV_STAT_AT_VMAX 0

def execGovWindowEnd (s : State) : Out := runHub s fun d => d.govWindow

/-- A write of `HUB_GOV_LIM`: in MANUAL the target follows the limits. -/
def Dev.govLimit (d : Dev) (w : Nat) : Dev := (d.wrWord ⟨.HUB_GOV_LIM, 0, 0, 0⟩ w).govNext

/-- The governor at a warm or cold reset: MODE is OFF and nothing is under way. -/
def Dev.govReset (d : Dev) : Dev :=
  ((((d.wr F.HUB_GOV_STAT_STATE 0).wr F.HUB_GOV_STAT_FCAUSE 0).wr F.HUB_GOV_STAT_AT_VMAX 0).updGov fun g => { vcmd := g.vcmd, lastChange := g.lastChange })

end Sys2Proof.Machine
end

