-- ==== Sys2Proof/Machine/Load.lean ====
section
/-!
DEFINITION. Reading a cuvée (chapter 5): the container and its checks in pass 1 (R179 to R184, R198), and the records of a section
(R186 to R195). Everything here only reads the device.
-/
namespace Sys2Proof.Machine

/-- What a check answers: an error of R217, or a result. -/
abbrev CuvM (α : Type) := Except CuvErr α

/-- An error with its CODE and DETAIL. -/
def cuvErr {α : Type} (code det : Nat) : CuvM α := .error { code := code, det := some det }

/-- Fails with an error unless a condition holds. -/
def cuvNeed (ok : Bool) (code det : Nat) : CuvM Unit := if ok then .ok () else cuvErr code det

/-- The little-endian number of `n` bytes of `b` at `o`. -/
def cuvField (b : List Byte) (o n : Nat) : Nat := ofLeBytes ((b.drop o).take n)

/-! ### The container -/

/-- Where the signature block of a container starts (R179). -/
def cuvSigAt (b : List Byte) : Nat := 0x80 + (cuvField b 0x68 4 + 3) / 4 * 4

/-- The first byte at or above `o` that is not zero, among `n`. -/
def nonZeroAt (b : List Byte) (o n : Nat) : Option Nat := (List.range n).map (o + ·) |>.find? fun i => cuvField b i 1 != 0

/-- The byte offset of the first field of the header that breaks R179, MAGIC and the fields of R198 step 4 apart. [log entry 35: DEDUCED] -/
def cuvHeader (b : List Byte) : Option Nat :=
  let f := cuvField b
  let plen := f 0x68 4
  let rlen := f 0x6C 4
  let checks : List (Nat × Bool) :=
    [(0x04, f 0x04 2 == 1), (0x06, f 0x06 2 == 128), (0x0C, decide (f 0x0C 4 < 4)), (0x13, decide (1 ≤ f 0x13 1) && decide (f 0x13 1 ≤ 4)),
     (0x14, decide (f 0x14 4 ≤ 64)), (0x68, cuvSigAt b + 256 == f 0x08 4),
     (0x6C, rlen % 4 == 0 && decide (rlen ≤ 0x8000000) && (bit (f 0x0C 4) 0 || rlen == plen)), (0x78, f 0x78 8 == 0)]
  match checks.find? fun x => !x.2 with
  | some x => some x.1
  | none => nonZeroAt b (0x80 + plen) (cuvSigAt b - (0x80 + plen))

/-- The byte offset of the first of DEVICE, STEPPING and SERIAL that is wrong (R179, R184). A serial number of 64 bits is the low half
of SERIAL. [log entry 35: DEDUCED] -/
def Dev.cuvDevice (d : Dev) (b : List Byte) : Option Nat :=
  let f := cuvField b
  let serial := f 0x18 16
  if f 0x10 2 ≠ 0x4410 then some 0x10
  else if !(f 0x12 1 == 0 || f 0x12 1 == d.rd F.HUB_ID_STEPPING) then some 0x12
  else if serial ≠ (if bit (f 0x0C 4) 1 then Config.serial.toNat else 0) then some 0x18
  else none

/-- Section entry `i` (R180). [log entry 35: DEDUCED] -/
def cuvSect (b : List Byte) (i : Nat) : CuvSect :=
  let f := fun o n => cuvField b (0x28 + 16 * i + o) n
  { idx := i, pipe := f 0 1, whole := f 1 1 == 0, base := f 2 2, gen := f 4 2, mask := f 6 2, off := f 8 4, len := f 12 4 }

/-- The section table, each entry held against R180 and the ones before it. [log entry 35: DEDUCED] -/
def cuvTable (b : List Byte) : CuvM (List CuvSect) :=
  (List.range 4).foldlM (fun l i => do
    let x := cuvSect b i
    if cuvField b 0x13 1 ≤ i then
      cuvNeed (cuvField b (0x28 + 16 * i) 16 == 0) 0x14 i
      pure l
    else
      let ok := decide (x.pipe ≤ 3) && decide (cuvField b (0x29 + 16 * i) 1 ≤ 1) && (!x.whole || x.base == 0) && x.off % 4 == 0 &&
        x.len % 4 == 0 && decide (4 ≤ x.len) && decide (x.off + x.len ≤ cuvField b 0x6C 4) &&
        l.all fun (y : CuvSect) => y.pipe != x.pipe && !overlaps x.off x.len y.off y.len
      cuvNeed ok 0x14 i
      pure (l ++ [x])) []

/-- Whether a section's target pipe can take it: neither OFF nor TRIPPED, its gate not latched off (R198 step 6). -/
def Dev.cuvPipeOk (d : Dev) (p : Nat) : Bool :=
  let st := d.rd F.PCTL_STAT_STATE p
  st != 0 && st != 5 && !d.on F.PCTL_STAT_GATE_LATCH p

/-- Whether a verification slot of a class may verify in a life-cycle state (R677). -/
def keyUsable (cls lcs : Nat) : Bool :=
  match cls with
  | 0 => lcs == 1 || lcs == 4
  | 1 => lcs == 2 || lcs == 3
  | 2 => lcs == 2
  | _ => lcs == 2 || lcs == 3

/-- Whether slot `k` of the key store accepts a public key for a use, bit 0 cuvées, bit 1 boot images (R182, R677). -/
def Dev.keyAccepts (d : Dev) (k use : Nat) (key : List Byte) : Bool :=
  match Tab.find d.hub.secu.slots k with
  | some y => decide (k < 8) && !y.revoked && keyUsable y.cls d.lcs && (decide (k ≤ 1) || bit y.use use) &&
      decide (y.bytes = sha384 key) && p384Point key
  | none => false

/-- The key and the signature (R181, R182): ALG and the reserved bytes of the signature block are header fields. [log entry 35: DEDUCED] -/
def Dev.cuvSigned (d : Dev) (b : List Byte) : CuvM Unit := do
  let o := cuvSigAt b
  let slot := cuvField b (o + 2) 2
  let key := (b.drop (o + 0x10)).take 96
  cuvNeed (cuvField b o 2 == 1) 0x11 o
  match nonZeroAt b (o + 4) 12 with
  | some i => cuvErr 0x11 i
  | none => pure ()
  match nonZeroAt b (o + 0xD0) 48 with
  | some i => cuvErr 0x11 i
  | none => pure ()
  cuvNeed (decide (slot ≤ 3) && d.keyAccepts slot 0 key) 0x17 slot
  cuvNeed (p384Verify key ((b.drop (o + 0x70)).take 96) (b.take o)) 0x18 0

/-- The conditions of R203 on a partial section's base: the pipe runs a valid generation, and it is BASE. -/
def Dev.cuvBase (d : Dev) (i : Nat) (x : CuvSect) : CuvM Unit :=
  let gen := d.rd F.CUVL_GEN_GEN 0 x.pipe
  if x.whole then .ok ()
  else if !d.on F.CUVL_GEN_VALID 0 x.pipe then .error { code := 0x20, det := some x.pipe, sect := i }
  else if x.base ≠ gen then .error { code := 0x21, det := some (gen * 2 ^ 16 + x.base), sect := i }
  else .ok ()

/-- The elements of a list with their indexes. -/
def numbered {α : Type} (l : List α) : List (Nat × α) := l.zipIdx.map fun x => (x.2, x.1)

/-- Pass 1: the checks of R198 in their order, then those of R203, on the container's bytes. The answer is the sections, the SVN and
the digest of the signed message. -/
def Dev.cuvPass1 (d : Dev) (b : List Byte) : CuvM (List CuvSect × Nat × List Byte) := do
  let n := d.rd F.CUVL_LEN_LEN
  let f := cuvField b
  let total := f 0x08 4
  if n < 12 then .error { code := 0x12, det := none }
  cuvNeed (n == total && decide (total ≤ 0x4000000)) 0x12 total
  cuvNeed (f 0 4 == 0x45565543) 0x10 0
  cuvNeed (decide (0x80 ≤ n)) 0x12 total
  match cuvHeader b with
  | some o => cuvErr 0x11 o
  | none => pure ()
  match d.cuvDevice b with
  | some o => cuvErr 0x13 o
  | none => pure ()
  let sects ← cuvTable b
  match sects.find? fun x => !d.cuvPipeOk x.pipe with
  | some x => cuvErr 0x15 x.pipe
  | none => pure ()
  let svn := f 0x14 4
  cuvNeed (decide (d.rd F.CUVL_SVN_FLOOR ≤ svn)) 0x16 svn
  d.cuvSigned b
  (numbered sects).forM fun x => d.cuvBase x.1 x.2
  pure (sects, svn, sha384 (b.take (cuvSigAt b)))

/-- The raw payload of a container (R185): a fault of the inflation, or a length other than RAW_LEN, is INFLATE_ERROR with the Press
status. -/
def cuvRaw (b : List Byte) : CuvM (List Byte) :=
  let stored := (b.drop 0x80).take (cuvField b 0x68 4)
  let rlen := cuvField b 0x6C 4
  if bit (cuvField b 0x0C 4) 0 then
    match inflate 0 stored rlen with
    | .ok (out, _, _) => if out.length ≠ rlen then cuvErr 0x1B 0 else .ok out
    | .error (st, _) => cuvErr 0x1B st
  else .ok stored

/-! ### Contexts (R193) -/

/-- How many contexts a class has; 0 for a reserved class. -/
def ctxCount (cls : Nat) : Nat :=
  match cls with
  | 0x01 => 32 | 0x02 => 120 | 0x03 => 12 | 0x04 => 8 | 0x05 => 4 | 0x06 => 16 | 0x07 => 16 | 0x08 => 16 | 0x0E => 1 | 0x0F => 1
  | _ => 0

/-- The context a CV register belongs to. -/
def ctxOf (r : RegId) (i : Nat) : Nat × Nat :=
  match r with
  | .PCTL_CLM_CFG | .PCTL_CLM_SENS | .PCTL_CLM_RUNG | .PCTL_CLM_MASK => (0x01, i)
  | .CASK_CFG | .CASK_BIND | .CASK_TTO => if i < 120 then (0x02, i) else (0x0E, 0)
  | .RACK_CH_CFG | .RACK_RING_LO | .RACK_RING_HI => (0x03, i)
  | .VRS_CFG | .VRS_CROP | .VRS_TPORT => (0x04, i)
  | .STAT_CFG | .STAT_SIZE | .STAT_COL0 | .STAT_ORG | .STAT_ZONE | .STAT_CHMAP | .STAT_LUMA | .STAT_HIST => (0x05, i)
  | .BLK_CTXCFG | .BLK_CTXRATE | .BLK_SCFG | .BLK_SSIZE | .BLK_STILE | .BLK_SGOP | .BLK_SPORT | .BLK_RCT | .BLK_RCM | .BLK_RCQ
  | .BLK_RCB => (0x06, i)
  | .NET_LO_CFG | .NET_LO_RATE | .NET_LO_TIME | .NET_LO_PKT | .NET_LO_SIZE | .NET_LO_BUF | .NET_LO_HDR | .SDI_LO_CFG => (0x07, i)
  | .SFE_VCT => (0x08, i)
  | .SFE_STRIPE | .SFE_STRIPE_X0 | .SFE_VCG | .SFE_VCL | .VRS_MOS_VC | .VRS_MOS_CFG | .VRS_MOS_SITE | .PXR_ENC_CFG | .PXR_ENC_BUDGET
  | .PXR_ENC_VCC | .CELP_TQ_CFG => (0x0E, 0)
  | _ => (0x0F, 0)

/-- The register that lies at a byte offset of a pipe. -/
def pipeRegAt (p o : Nat) : Option RegLoc :=
  match pipeBlock o with
  | some (b, l) => findReg p l (blockRegs b)
  | none => none

/-- The bits of a register that are CV fields. -/
def cvMask (l : RegLoc) : Nat :=
  (l.reg.info.flds.map fun f => if f.accAt l.p l.i = .cv then (2 ^ f.width - 1) * 2 ^ f.lo else 0).sum

/-- Whether the field at a key is a CV field of pipe `p` outside the Trellis block. -/
def FKey.isCv (k : FKey) (p : Nat) : Bool :=
  k.p == p && decide (p < 4) && k.reg.info.blk != .TRL && k.reg.info.flds.any fun f => f.lo == k.lo && decide (f.accAt k.p k.i = .cv)

/-- Whether register `l` takes REG writes of context `x`. -/
def regTarget (l : RegLoc) (x : Nat × Nat) : Bool := l.reg.info.blk != .TRL && cvMask l != 0 && ctxOf l.reg l.i == x

/-! ### Records (R186 to R191) -/

/-- A record of a section. -/
inductive CuvRec where
  | region (r : Nat) (x : RegionDecl)
  | element (l i : Nat) (cfg : Nat) (ks : List (Nat × Nat)) (ops : List Nat)
  | tile (l : Nat) (route : Nat) (ports : List Nat) (wins : List (Nat × Nat))
  | xbar (c : Nat) (ds : List (Nat × Nat))
  | cwin (c : Nat) (wins : List (Nat × Nat))
  | reg (cls idx off : Nat) (data : List Nat)
  | port (cls idx off : Nat) (data : List Nat)
deriving DecidableEq, Repr

/-- Two words as a 64-bit value, low word first. -/
def cuvPairs : List Nat → List Nat
  | a :: b :: t => (a + 2 ^ 32 * b) :: cuvPairs t
  | _ => []

/-- The number of set bits below `n`. -/
def popBits (v n : Nat) : Nat := (bitsOf v n).length

/-- A REGION record's payload (R188). [log entry 36: DEDUCED] -/
def recRegion (b : List Nat) : CuvM CuvRec := do
  let w := fun i => b.getD i 0
  let n := w 24 % 256
  let fits := decide (25 ≤ b.length) && b.length == 25 + n && slice (w 0) 27 10 == 0 && w 24 / 256 == 0 &&
    ((List.range 4).all fun c => w (8 + 4 * c + 3) / 2 ^ 24 == 0) && ((b.drop 25).all fun x => slice x 23 8 == 0)
  cuvNeed fits 0x30 1
  let ctx := (b.drop 25).map fun x => (x / 2 ^ 24, x % 256)
  match ctx.find? fun x => x.1 == 0x0E || x.1 == 0x0F || decide (ctxCount x.1 ≤ x.2) with
  | some x => cuvErr 0x3A (x.1 * 2 ^ 24 + x.2)
  | none => pure ()
  pure (.region (w 0 / 2 ^ 28) {
    tiles := w 2 + 2 ^ 32 * w 3, cwins := (List.range 4).map fun c => w (4 + c), xdest := (List.range 16).map fun k => w (8 + k)
    ctx := ctx, drain := w 1, timeout := w 0 % 2 ^ 10 })

/-- An ELEMENT record's payload (R190). [log entry 36: DEDUCED] -/
def recElement (b : List Nat) : CuvM CuvRec := do
  let w := fun i => b.getD i 0
  let nops := slice (w 0) 21 16
  let km := bitsOf (w 3) 8
  cuvNeed (decide (4 ≤ b.length) && w 0 % 2 ^ 16 == 0 && w 3 / 256 == 0 && decide (nops ≤ 32) &&
    b.length == 4 + km.length + 2 * nops) 0x30 2
  pure (.element (w 0 / 2 ^ 26) (slice (w 0) 25 22) (w 1 + 2 ^ 32 * w 2) (km.zip (b.drop 4)) (cuvPairs (b.drop (4 + km.length))))

/-- A TILE record's payload (R190). [log entry 36: DEDUCED] -/
def recTile (b : List Nat) : CuvM CuvRec := do
  let w := fun i => b.getD i 0
  let ws := bitsOf (w 0) 16
  cuvNeed (decide (7 ≤ b.length) && slice (w 0) 25 16 == 0 && b.length == 7 + 2 * ws.length && w 2 / 2 ^ 16 == 0 &&
    (((b.drop 3).take 4).all fun x => x % 64 == 0) &&
    (cuvPairs (b.drop 7)).all fun v => slice v 51 46 == 0 && slice v 31 14 == 0 && decide (slice v 58 57 ≤ 1)) 0x30 3
  pure (.tile (w 0 / 2 ^ 26) (w 1 + 2 ^ 32 * w 2) ((b.drop 3).take 4) (ws.zip (cuvPairs (b.drop 7))))

/-- An XBAR record's payload (R190): destination and source codes. -/
def recXbar (b : List Nat) : CuvM CuvRec := do
  let w := fun i => b.getD i 0
  let n := w 0 % 256
  cuvNeed (decide (1 ≤ b.length) && slice (w 0) 29 8 == 0 && b.length == 1 + (n + 1) / 2) 0x30 4
  pure (.xbar (w 0 / 2 ^ 30) ((List.range n).map fun k =>
    let h := w (1 + k / 2) / 2 ^ (16 * (k % 2)) % 2 ^ 16
    (h / 256, h % 256)))

/-- A CWIN record's payload (R190). -/
def recCwin (b : List Nat) : CuvM CuvRec := do
  let w := fun i => b.getD i 0
  let ws := bitsOf (w 1) 32
  cuvNeed (decide (2 ≤ b.length) && w 0 % 2 ^ 30 == 0 && b.length == 2 + 2 * ws.length &&
    (cuvPairs (b.drop 2)).all fun v => slice v 35 20 == 0 && decide (slice v 61 60 ≤ 1)) 0x30 5
  pure (.cwin (w 0 / 2 ^ 30) (ws.zip (cuvPairs (b.drop 2))))

/-- Whether the chapter of a register names a code of its own for its reserved bits (R306, R316, R356, R393, R468, R512). -/
def ownReserved (r : RegId) (cls : Nat) : Bool :=
  (decide (4 ≤ cls) && decide (cls ≤ 7)) || [.PXR_ENC_CFG, .PXR_ENC_BUDGET, .PXR_ENC_VCC, .DRC_MAP_CFG, .DRC_RGN_BASE, .DRC_RGN_SIZE].contains r

/-- A REG or PORT record's payload (R191, R192): every target lies in the context, and every bit outside the CV fields is 0, NOT_CV
otherwise, where the register's chapter gives no code of its own. [log entry 36: DEDUCED] -/
def recReg (p : Nat) (port whole : Bool) (b : List Nat) : CuvM CuvRec := do
  let w := fun i => b.getD i 0
  let typ := if port then 7 else 6
  cuvNeed (decide (2 ≤ b.length) && w 0 % 2 ^ 16 == 0 && w 1 / 2 ^ 22 == 0 && w 1 % 4 == 0) 0x30 typ
  let cls := w 0 / 2 ^ 24
  let idx := slice (w 0) 23 16
  let off := w 1
  cuvNeed (decide (idx < ctxCount cls)) 0x3A (cls * 2 ^ 24 + idx)
  cuvNeed (cls != 0x0F || whole) 0x2A 0
  let data := b.drop 2
  let at_ := fun x => pipeRegAt p (if port then off else off + 4 * x)
  let ok := fun x => match at_ x with
    | some l => if port then l.reg == .VRS_TPORT && ctxOf l.reg l.i == (cls, idx) else regTarget l (cls, idx)
    | none => false
  cuvNeed ((List.range (if port then 1 else data.length)).all ok) 0x33 off
  let clean := fun (x : Nat × Nat) => match at_ x.1 with | some l => ownReserved l.reg cls || Nat.land x.2 (2 ^ 32 - 1 - cvMask l) == 0 | none => true
  cuvNeed (port || (numbered data).all clean) 0x33 off
  pure (if port then .port cls idx off data else .reg cls idx off data)

/-- A record by its TYPE. -/
def cuvRecord (p : Nat) (whole : Bool) (typ : Nat) (b : List Nat) : CuvM CuvRec :=
  match typ with
  | 0x01 => recRegion b
  | 0x02 => recElement b
  | 0x03 => recTile b
  | 0x04 => recXbar b
  | 0x05 => recCwin b
  | 0x06 => recReg p false whole b
  | 0x07 => recReg p true whole b
  | _ => cuvErr 0x30 typ

/-- What has been read of a section: the declarations by region, and the records with their word offsets. -/
structure CuvBody where
  decl : Tab RegionDecl := []
  recs : List (Nat × CuvRec) := []
deriving DecidableEq, Repr

/-- Whether a record names a context. -/
def CuvRec.touches (x : Nat × Nat) : CuvRec → Bool
  | .reg c i _ _ => (c, i) == x
  | .port c i _ _ => (c, i) == x
  | _ => false

/-- The regions of pipe `p` that run and are not replaced by a section (R195). -/
def Dev.cuvOthers (d : Dev) (x : CuvSect) : Tab RegionDecl :=
  if x.whole then []
  else (d.trl x.pipe).info.filter fun r => !bit x.mask r.1 && d.regState x.pipe r.1 != 0

/-- Whether two declarations share a crossbar destination or cluster window. -/
def declShares (a b : RegionDecl) : Bool :=
  ((a.cwins.zip b.cwins).any fun x => Nat.land x.1 x.2 != 0) || (a.xdest.zip b.xdest).any fun x => Nat.land x.1 x.2 != 0

/-- A REGION record against R189 and R195. -/
def Dev.cuvRegion (d : Dev) (x : CuvSect) (acc : CuvBody) (r : Nat) (y : RegionDecl) : CuvM Unit := do
  cuvNeed (bit x.mask r && (Tab.find acc.decl r).isNone) 0x31 r
  let others := acc.decl ++ d.cuvOthers x
  match (bitsOf y.tiles 64).find? fun l => others.any fun o => bit o.2.tiles l with
  | some l => cuvErr 0x32 l
  | none => pure ()
  if others.any fun o => declShares y o.2 then .error { code := 0x32, det := none }
  match y.ctx.find? fun c => others.any fun o => o.2.ctx.contains c with
  | some c => cuvErr 0x32 (c.1 * 2 ^ 24 + c.2)
  | none => pure ()
  cuvNeed (!(y.ctx.any fun c => acc.recs.any fun z => z.2.touches c)) 0x31 r

/-- A record against the declarations before it (R189, R195). [log entry 36: DEDUCED] -/
def Dev.cuvOwned (d : Dev) (x : CuvSect) (acc : CuvBody) : CuvRec → CuvM Unit
  | .region r y => d.cuvRegion x acc r y
  | .element l _ _ _ _ => cuvNeed (acc.decl.any fun o => bit o.2.tiles l) 0x31 l
  | .tile l _ _ _ => cuvNeed (acc.decl.any fun o => bit o.2.tiles l) 0x31 l
  | .xbar c ds =>
    if ds.all fun y => decide (0x77 < y.1) || acc.decl.any fun o => bit (o.2.xdest.getD (4 * c + y.1 / 32) 0) (y.1 % 32) then .ok ()
    else .error { code := 0x31, det := none }
  | .cwin c ws =>
    if ws.all fun y => acc.decl.any fun o => bit (o.2.cwins.getD c 0) y.1 then .ok () else .error { code := 0x31, det := none }
  | .reg cls idx _ _ =>
    cuvNeed (x.whole || cls == 0x0E || acc.decl.any fun o => o.2.ctx.contains (cls, idx)) 0x32 (cls * 2 ^ 24 + idx)
  | .port cls idx _ _ =>
    cuvNeed (x.whole || acc.decl.any fun o => o.2.ctx.contains (cls, idx)) 0x32 (cls * 2 ^ 24 + idx)

/-- The records of a section from word `pos` on (R186), as far as they can be read, and the error that ends the parse (R199). -/
def Dev.cuvWords (d : Dev) (x : CuvSect) : Nat → Nat → List Nat → CuvBody → Option CuvErr × CuvBody
  | 0, pos, _, acc => (some { code := 0x30, det := some 0x0F, word := pos }, acc)
  | _ + 1, pos, [], acc => (some { code := 0x30, det := some 0x0F, word := pos }, acc)
  | fuel + 1, pos, h :: t, acc =>
    let typ := h / 2 ^ 24
    let n := h % 2 ^ 24
    if typ = 0x0F then (if n = 0 ∧ t.isEmpty then none else some { code := 0x30, det := some typ, word := pos }, acc)
    else if t.length < n then (some { code := 0x30, det := some typ, word := pos }, acc)
    else
      let one : CuvM CuvRec := do
        let c ← cuvRecord x.pipe x.whole typ (t.take n)
        d.cuvOwned x acc c
        pure c
      match one with
      | .error e => (some { e with word := pos }, acc)
      | .ok c =>
        let decl := match c with | .region r y => Tab.put acc.decl r y | _ => acc.decl
        d.cuvWords x fuel (pos + 1 + n) (t.drop n) { decl := decl, recs := acc.recs ++ [(pos, c)] }

/-- The 32-bit words of bytes. -/
def cuvWords32 : Nat → List Byte → List Nat
  | 0, _ => []
  | n + 1, bs => ofLeBytes (bs.take 4) :: cuvWords32 n (bs.drop 4)

/-- A section of the raw payload, read (R186 to R195): its records up to the first that cannot stand, and the error there. GEN of a
partial section follows BASE (R203). -/
def Dev.cuvBody (d : Dev) (x : CuvSect) (raw : List Byte) : Option CuvErr × CuvBody :=
  if !x.whole && x.gen != (x.base + 1) % 65536 then (some { code := 0x22, det := some x.gen }, {})
  else
    let ws := cuvWords32 (x.len / 4) ((raw.drop x.off).take x.len)
    match d.cuvWords x (ws.length + 1) 0 ws {} with
    | (some e, acc) => (some e, acc)
    | (none, acc) =>
      match (bitsOf x.mask 16).find? fun r => (Tab.find acc.decl r).isNone with
      | some r => (some { code := 0x31, det := some r, word := ws.length - 1 }, acc)
      | none => (none, acc)

end Sys2Proof.Machine
end

