-- ==== Sys2Proof/Machine/Float.lean ====
section
/-!
DEFINITION. IEEE 754 binary32 arithmetic (R285): exact dyadic results, rounded once to nearest even, subnormals kept; and
binary16 with subnormals (R286, R289).
-/
namespace Sys2Proof.Machine

/-- The value of a code with `eb` exponent bits and `mb` fraction bits, subnormals included. -/
def floatOfCode (eb mb h : Nat) : HalfVal :=
  let s := bit h (eb + mb)
  let ex := slice h (eb + mb - 1) mb
  let fr := h % 2 ^ mb
  let bias : Int := (2 ^ (eb - 1) : Nat) - 1
  if ex = 2 ^ eb - 1 then (if fr = 0 then .inf s else .nan)
  else if ex = 0 then .num s fr (1 - bias - mb)
  else .num s (2 ^ mb + fr) ((ex : Int) - bias - mb)

/-- A value rounded to a format of `eb` exponent bits and `mb` fraction bits. -/
def floatRound (eb mb : Nat) : HalfVal → HalfVal
  | .num s m e =>
    if m = 0 then .num s 0 0
    else
      let bias : Int := (2 ^ (eb - 1) : Nat) - 1
      let top : Int := (Nat.log2 m : Int) + e
      let q : Int := (if top < 1 - bias then 1 - bias else top) - mb
      let mant := rneScale m (e - q)
      if mant = 0 then .num s 0 0
      else if bias < (Nat.log2 mant : Int) + q then .inf s
      else .num s mant q
  | v => v

/-- The code of a value that the format holds. -/
def floatCode (eb mb : Nat) : HalfVal → Nat
  | .nan => (2 ^ eb - 1) * 2 ^ mb + 2 ^ (mb - 1)
  | .inf s => b2n s * 2 ^ (eb + mb) + (2 ^ eb - 1) * 2 ^ mb
  | .num s m e =>
    if m = 0 then b2n s * 2 ^ (eb + mb)
    else
      let bias : Int := (2 ^ (eb - 1) : Nat) - 1
      let top : Int := (Nat.log2 m : Int) + e
      let q : Int := (if top < 1 - bias then 1 - bias else top) - mb
      let mant := rneScale m (e - q)
      if mant < 2 ^ mb then b2n s * 2 ^ (eb + mb) + mant
      else b2n s * 2 ^ (eb + mb) + (q + mb + bias - 1).toNat * 2 ^ mb + mant

/-- Rounds to binary32. -/
def r32 (v : HalfVal) : HalfVal := floatRound 8 23 v

/-- The binary32 sum. -/
def fadd (a b : HalfVal) : HalfVal := r32 (a.add b)

/-- The binary32 difference. -/
def fsub (a b : HalfVal) : HalfVal := r32 (a.add b.neg)

/-- The binary32 product. -/
def fmul (a b : HalfVal) : HalfVal := r32 (a.mul b)

/-- An integer as a value. -/
def fOfNat (n : Nat) : HalfVal := .num false n 0

/-- The value of a binary32 code. -/
def fOf32 (c : Nat) : HalfVal := floatOfCode 8 23 c

/-- The value of a binary16 code, subnormals included. -/
def fOf16 (c : Nat) : HalfVal := floatOfCode 5 10 c

/-- The binary16 code of a value: an overflow gives ±65,504, a NaN 0 (R289). -/
def half16 (v : HalfVal) : Nat :=
  match floatRound 5 10 v with
  | .nan => 0
  | .inf s => b2n s * 0x8000 + 0x7BFF
  | w => floatCode 5 10 w

/-- The value clamped to `lo … hi`; a NaN stays a NaN. -/
def fclamp (lo hi v : HalfVal) : HalfVal := if v.lt lo then lo else if hi.lt v then hi else v

/-- The largest integer not above a non-negative finite value. -/
def ffloor : HalfVal → Nat
  | .num false m e => if 0 ≤ e then m * 2 ^ e.toNat else m / 2 ^ (-e).toNat
  | _ => 0

/-- The integer nearest to a value, ties to even, clamped to 0 … hi; a NaN gives 0 (R289). -/
def fround (hi : Nat) : HalfVal → Nat
  | .nan => 0
  | .inf s => if s then 0 else hi
  | .num s m e => if s then 0 else min hi (rneScale m e)

end Sys2Proof.Machine
end

