-- ==== Sys2Proof/Machine/Curve.lean ====
section
/-!
DEFINITION. The built-in curves of a shaper (R287): the formulas of BT.2100, BT.709 and ACEScct that the spec names, worked out in fixed
point with 96 fraction bits, and a free deviation of at most 2 binary16 ulp from them.
-/
namespace Sys2Proof.Config

/-- By how much a built-in curve's output departs from its formula, for the curve's number and the binary32 code of its input: the
remainder modulo 2^22 + 1, less 2^21, in 2^-20 binary16 ulp (R287). -/
opaque curveErr : (curve code : Nat) → Nat

end Sys2Proof.Config

namespace Sys2Proof.Machine

/-- 1 in fixed point. -/
def fxOne : Nat := 2 ^ 96

/-- A decimal fraction in fixed point. -/
def fxOf (num den : Nat) : Nat := num * fxOne / den

/-- The product and the quotient of fixed-point numbers. -/
def fxMul (a b : Nat) : Nat := a * b / fxOne
def fxDiv (a b : Nat) : Nat := a * fxOne / b

/-- ln 2. -/
def fxLn2 : Nat := 54916777467707473351141471128

/-- The fraction bits of the binary logarithm of `m`, 1 ≤ m < 2, by repeated squaring. -/
def fxLogBits : Nat → Nat → Nat → Nat
  | 0, _, acc => acc
  | n + 1, m, acc =>
    let q := fxMul m m
    if 2 * fxOne ≤ q then fxLogBits n (q / 2) (2 * acc + 1) else fxLogBits n q (2 * acc)

/-- The binary logarithm of a positive number. -/
def fxLog2 (x : Nat) : Int :=
  let l := Nat.log2 x
  let m := if l ≤ 96 then x * 2 ^ (96 - l) else x / 2 ^ (l - 96)
  ((l : Int) - 96) * fxOne + (fxLogBits 96 m 0 : Nat)

/-- The sum of a power series' terms: term `k + 1` is term `k` times `z / (k + 1)`. -/
def fxSeries (z : Nat) : Nat → Nat → Nat → Nat
  | 0, _, _ => 0
  | n + 1, k, t => t + fxSeries z n (k + 1) (fxMul t z / (k + 1))

/-- 2 to a power. -/
def fxExp2 (y : Int) : Nat :=
  let n := y / (fxOne : Int)
  let f := (y - n * fxOne).toNat
  let m := fxSeries (fxMul f fxLn2) 40 0 fxOne
  if 0 ≤ n then m * 2 ^ n.toNat else m / 2 ^ (-n).toNat

/-- A number to the power `num / den`. -/
def fxPow (x num den : Nat) : Nat := if x = 0 then 0 else fxExp2 (fxLog2 x * (num : Int) / (den : Int))

/-- The natural logarithm, and the power of e. -/
def fxLn (x : Nat) : Int := fxLog2 x * (fxLn2 : Int) / (fxOne : Int)
def fxExp (y : Int) : Nat := fxExp2 (y * (fxOne : Int) / (fxLn2 : Int))

/-- BT.2100 PQ: the inverse EOTF and the EOTF. -/
def pqEnc (x : Nat) : Nat :=
  let y := fxPow x 2610 16384
  fxPow (fxDiv (fxOf 3424 4096 + fxMul (fxOf 2413 128) y) (fxOne + fxMul (fxOf 2392 128) y)) 2523 32
def pqDec (e : Nat) : Nat :=
  let y := fxPow e 32 2523
  fxPow (fxDiv (y - fxOf 3424 4096) (fxOf 2413 128 - fxMul (fxOf 2392 128) y)) 16384 2610

/-- BT.2100 HLG: the OETF and its inverse, with a = 0.17883277, b = 1 − 4a and c = 0.5 − a ln 4a. -/
def hlgA : Nat := fxOf 17883277 100000000
def hlgC : Int := fxOf 1 2 - hlgA * fxLn (4 * hlgA) / fxOne
def hlgEnc (x : Nat) : Nat :=
  if 12 * x ≤ fxOne then fxPow (3 * x) 1 2 else (hlgA * fxLn (12 * x - (fxOne - 4 * hlgA)) / fxOne + hlgC).toNat
def hlgDec (x : Nat) : Nat :=
  if 2 * x ≤ fxOne then fxMul x x / 3 else (fxExp ((x - hlgC) * fxOne / hlgA) + (fxOne - 4 * hlgA)) / 12

/-- BT.709: the OETF and its inverse. -/
def b709Enc (x : Nat) : Nat :=
  if x < fxOf 18 1000 then 9 * x / 2 else fxMul (fxOf 1099 1000) (fxPow x 45 100) - fxOf 99 1000
def b709Dec (x : Nat) : Nat :=
  if x < fxOf 81 1000 then 2 * x / 9 else fxPow (fxDiv (x + fxOf 99 1000) (fxOf 1099 1000)) 100 45

/-- ACEScct: encoding and decoding. -/
def cctSlope : Int := fxOf 105402377416545 10000000000000
def cctOff : Int := fxOf 729055341958355 10000000000000000
def cctEnc (x : Int) : Int :=
  if x ≤ fxOf 1 128 then cctSlope * x / fxOne + cctOff else (fxLog2 x.toNat + fxOf 972 100) * 100 / 1752
def cctDec (x : Int) : Int :=
  if x ≤ fxOf 155251141552511 1000000000000000 then (x - cctOff) * fxOne / cctSlope
  else min (65504 * fxOne) (fxExp2 (x * 1752 / 100 - fxOf 972 100) : Nat)

/-- A built-in curve's exact result, from and in fixed point (R287). [log entry 14: PRESUMED] -/
def curveExact (curve : Nat) (x : Int) : Int :=
  match curve with
  | 2 => pqEnc x.toNat
  | 3 => pqDec x.toNat
  | 4 => hlgEnc x.toNat
  | 5 => hlgDec x.toNat
  | 6 => b709Enc x.toNat
  | 7 => b709Dec x.toNat
  | 8 => cctEnc x
  | _ => cctDec x

/-- A number in fixed point, rounded down. -/
def HalfVal.toFx : HalfVal → Int
  | .num s m e => (if s then -(m : Int) else m) * 2 ^ (e + 96).toNat / 2 ^ (-(e + 96)).toNat
  | _ => 0

/-- A curve's output in binary32: its exact result, off by at most 2 binary16 ulp of it (R287). No formula covers a NaN or an infinity,
whose output is free. [log entry 14: PRESUMED] -/
def curveOut (curve : Nat) (v : HalfVal) : HalfVal :=
  let code := floatCode 8 23 v
  let k := Config.curveErr curve code
  match v with
  | .num _ _ _ =>
    let y := curveExact curve v.toFx
    let top := max 82 (Nat.log2 y.natAbs)
    let z := y * 2 ^ 20 + (((k % (2 ^ 22 + 1) : Nat) : Int) - 2 ^ 21) * 2 ^ (top - 10)
    r32 (.num (decide (z < 0)) z.natAbs (-116))
  | _ => fOf32 (k % 2 ^ 32)

end Sys2Proof.Machine
end

