-- ==== Sys2Proof/Machine/Vrs.lean ====
section
/-!
DEFINITION. The Veraison units (chapter 8): tables and banks, the seam swap, the pixel pipeline, uploads and table reads.
-/
namespace Sys2Proof.Machine

/-- Unit `u` of pipe `p`. -/
def Dev.vru (d : Dev) (p u : Nat) : VrsUnit := Tab.get {} (d.pipe p).vrs u

/-- The device with a unit replaced. -/
def Dev.putVru (d : Dev) (p u : Nat) (x : VrsUnit) : Dev := d.updPipe p fun s => { s with vrs := Tab.set {} s.vrs u x }

/-! ### Tables (R293 to R297) -/

/-- Word `i` of table `t`'s reset contents (R294): 0x3F80_0000 is 1.0. -/
def vrsResetWord (t i : Nat) : Nat :=
  if t = 0 then (if i = 1 ∨ i = 6 ∨ i = 11 then 0x3F800000 else 0)
  else if t = 4 then (if i = 1 ∨ i = 5 ∨ i = 9 then 0x3F800000 else 0)
  else 0

/-- The words a table has by its header (R294). -/
def vrsLength (t h : Nat) : Nat :=
  if t = 0 then 16
  else if t = 4 then 13
  else if t = 2 then (let n := h % 128; if n = 0 then 1 else 1 + 2 * n ^ 3)
  else if h % 16 = 1 then (if bit h 8 then 513 else 1537)
  else 1

/-- Word `i` of a bank of table `t`. -/
def VrsTab.word (t : Nat) (x : VrsTab) (i : Nat) : Nat := if x.fresh then vrsResetWord t i else Tab.get 0 x.words i

/-- The length of a bank of table `t`. -/
def VrsTab.length (t : Nat) (x : VrsTab) : Nat := vrsLength t (x.word t 0)

/-- Whether a bank of table `t` is complete (R297). -/
def VrsTab.complete (t : Nat) (x : VrsTab) : Bool :=
  x.fresh || (!x.bad && decide (0 < x.ptr) && x.ptr == vrsLength t (Tab.get 0 x.words 0))

/-- A bank with its pointer returned to 0. -/
def VrsTab.rst (t : Nat) (x : VrsTab) : VrsTab :=
  let ws := if x.fresh then (List.range 16).foldl (fun w i => Tab.set 0 w i (vrsResetWord t i)) [] else x.words
  ⟨false, ws, 0, false⟩

/-- Whether a binary16 code is finite. -/
def finite16 (h : Nat) : Bool := slice h 14 10 != 31

/-- Whether the header of table `t` is sound (R294, R295). -/
def vrsHeaderOk (t h : Nat) : Bool :=
  if t = 0 ∨ t = 4 then decide (h ≤ 2)
  else if t = 2 then h == 0 || h == 17 || h == 33 || h == 65
  else decide (h % 16 ≤ 9) && Nat.land h 0xFFFFFEE0 == 0

/-- Whether word `i` of table `t` is sound (R295): a LUT point's second word holds one binary16 value (R294). -/
def vrsWordOk (t i w : Nat) : Bool :=
  if i = 0 then vrsHeaderOk t w
  else if t = 0 ∨ t = 4 then slice w 30 23 != 255
  else finite16 (w % 2 ^ 16) && ((t == 2 && i % 2 == 0) || finite16 (w / 2 ^ 16))

/-- The bank of table `t` that is active. -/
def Dev.vrsActive (d : Dev) (p u t : Nat) : Nat := b2n (bit (d.rd F.VRS_BANK_STAT_ACTIVE p u) t)

/-- Bank `b` of table `t`. -/
def Dev.vrsTab (d : Dev) (p u t b : Nat) : VrsTab := Tab.get {} (d.vru p u).tabs (2 * t + b)

/-- The inactive bank of table `t`. -/
def Dev.vrsBack (d : Dev) (p u t : Nat) : VrsTab := d.vrsTab p u t (1 - d.vrsActive p u t)

/-- Shows which inactive tables are complete and which are bad. -/
def Dev.vrsShow (d : Dev) (p u : Nat) : Dev :=
  let mask := fun (q : Nat → VrsTab → Bool) => ((List.range 5).map fun t => if q t (d.vrsBack p u t) then 2 ^ t else 0).sum
  (d.wr F.VRS_BANK_STAT_COMPLETE (mask fun t x => x.complete t) p u).wr F.VRS_BANK_STAT_BAD (mask fun _ x => x.bad) p u

/-- The device with the inactive bank of table `t` replaced. -/
def Dev.putBack (d : Dev) (p u t : Nat) (x : VrsTab) : Dev :=
  let k := 2 * t + (1 - d.vrsActive p u t)
  let y := d.vru p u
  (d.putVru p u { y with tabs := Tab.set {} y.tabs k x }).vrsShow p u

/-- The syndrome of a unit's event: the unit and a table mask (R309). -/
def vrsSyn (u mask : Nat) : Nat := pack [(3, u), (5, mask)]

/-- One word received for table `t` of the inactive bank (R295, R297). A job that holds the context refuses it (R304). -/
def Dev.vrsWord (d : Dev) (p u t w : Nat) : Dev :=
  if d.on F.VRS_BANK_STAT_HELD p u then d.wr F.VRS_BANK_STAT_REFUSED 1 p u
  else
    let x := d.vrsBack p u t
    if x.bad then d
    else if x.complete t then d.wr F.VRS_BANK_STAT_EXTRA 1 p u
    else if vrsWordOk t x.ptr w then d.putBack p u t { x with words := Tab.set 0 x.words x.ptr w, ptr := x.ptr + 1 }
    else (d.putBack p u t { x with bad := true }).raiseP p 40 (vrsSyn u (2 ^ t))

def execVrsTportWrite (p : Pipe) (u : Fin 8) (t : Fin 5) (w : Word) (s : State) : Out :=
  bar2 .VRS p s fun d => d.vrsWord p u t w.toNat

/-- One 32-bit word of an upload item: the select word first, then the table's words (R296). -/
def Dev.vrsUp (d : Dev) (p u w : Nat) : Dev :=
  let y := d.vru p u
  if y.inItem then
    match y.sel with
    | some t => d.vrsWord p u t w
    | none => d
  else
    let t := w % 8
    let ok := decide (t < 5) && w / 2 ^ 9 == 0
    let d := d.putVru p u { y with inItem := true, sel := if ok then some t else none }
    if ok && bit w 8 then
      if d.on F.VRS_BANK_STAT_HELD p u then d.wr F.VRS_BANK_STAT_REFUSED 1 p u
      else d.putBack p u t ((d.vrsBack p u t).rst t)
    else d

/-- Whether table `t` takes another word: a high half after an item's last table word is ignored (R296). -/
def Dev.vrsWants (d : Dev) (p u : Nat) : Bool :=
  match (d.vru p u).sel with
  | some t => !(d.vrsBack p u t).complete t
  | none => true

/-- A cask word at the upload endpoint: two 32-bit words, low half first; END or TAIL ends the selection (R296). -/
def Dev.vrsUpload (d : Dev) (p u : Nat) (x : Delivered) : Dev :=
  match x with
  | .nothing => d
  | .flushed => d.putVru p u { d.vru p u with inItem := false, sel := none }
  | .word w _ =>
    let d := d.vrsUp p u (w.data % 2 ^ 32)
    let last := w.fin || w.tail
    let d := if last && !d.vrsWants p u then d else d.vrsUp p u (w.data / 2 ^ 32 % 2 ^ 32)
    if last then d.putVru p u { d.vru p u with inItem := false, sel := none } else d

/-- Reads of the upload endpoint from its cask until an item ends or the cask is empty. -/
def Dev.vrsDrain (p u k : Nat) : Nat → Dev → Dev
  | 0, d => d
  | fuel + 1, d =>
    let (x, d) := d.caskGet p k .ok
    match x with
    | .nothing => d
    | .flushed => Dev.vrsDrain p u k fuel (d.vrsUpload p u .flushed)
    | .word w m => let d := d.vrsUpload p u (.word w m); if w.fin || w.tail then d else Dev.vrsDrain p u k fuel d

/-- An item arrives at unit `u`'s upload endpoint, the consumer of cask `k` (fixed-block port 0x060 + u). -/
def execVrsUploadItem (p : Pipe) (u : Fin 8) (k : Fin 128) (s : State) : Out := run s fun d =>
  if d.rd F.CASK_BIND_CONS p k = 0x2060 + u.val then Dev.vrsDrain p u k ((d.cask p k).words.length + 1) d else d

/-! ### The armed set and the swap (R299 to R303) -/

/-- The tables of a mask. -/
def tablesOf (m : Nat) : List Nat := bitsOf m 5

/-- A write of `RST`, `ARM` or `FORCE` while a job holds the context is discarded with REFUSED (R304). -/
def Dev.vrsUnheld (d : Dev) (p u : Nat) (f : Dev → Dev) : Dev :=
  if d.on F.VRS_BANK_STAT_HELD p u then d.wr F.VRS_BANK_STAT_REFUSED 1 p u else f d

/-- RST: the pointers of the tables named return to 0 (R297). -/
def Dev.vrsRst (d : Dev) (p u mask : Nat) : Dev :=
  if mask = 0 then d
  else d.vrsUnheld p u fun d => (tablesOf mask).foldl (fun d t => d.putBack p u t ((d.vrsBack p u t).rst t)) d

/-- DISARM empties the armed set (R302). -/
def Dev.vrsDisarm (d : Dev) (p u : Nat) : Dev := d.wr F.VRS_BANK_STAT_ARMED 0 p u

/-- Every armed table swaps banks (R299). [log entry 44: DEDUCED] -/
def Dev.vrsSwapArmed (d : Dev) (p u : Nat) : Dev :=
  let a := d.rd F.VRS_BANK_STAT_ARMED p u
  let d := d.wr F.VRS_BANK_STAT_ACTIVE (Nat.xor (d.rd F.VRS_BANK_STAT_ACTIVE p u) a) p u
  ((d.wr F.VRS_BANK_STAT_ARMED 0 p u).vrsShow p u).raiseP p 38 (vrsSyn u a)

/-- ARM adds tables to the armed set (R299). -/
def Dev.vrsArm (d : Dev) (p u mask : Nat) : Dev :=
  if mask = 0 then d
  else d.vrsUnheld p u fun d =>
    let d := d.wr F.VRS_BANK_STAT_ARMED (Nat.lor (d.rd F.VRS_BANK_STAT_ARMED p u) mask) p u
    d.putVru p u { d.vru p u with lateSeen := false }

/-- A seam (R299, R300): a bad armed table empties the set; complete armed tables swap; otherwise the seam counts as late. -/
def Dev.vrsSeam (d : Dev) (p u : Nat) : Dev :=
  let a := d.rd F.VRS_BANK_STAT_ARMED p u
  let y := d.vru p u
  let d := d.putVru p u { y with moved := false, misSeen := false, psnSeen := false }
  if a = 0 then d
  else if (tablesOf a).any fun t => (d.vrsBack p u t).bad then (d.vrsDisarm p u).raiseP p 40 (vrsSyn u a)
  else if (tablesOf a).all fun t => (d.vrsBack p u t).complete t then d.vrsSwapArmed p u
  else
    let d := d.bump C.VRS_LATE_CNT p u
    if y.lateSeen then d else (d.putVru p u { d.vru p u with lateSeen := true }).raiseP p 39 (vrsSyn u a)

/-- FORCE swaps a complete armed set at once where the unit stands at a seam, and is otherwise discarded (R302). [log entry 44: DEDUCED] -/
def Dev.vrsForce (d : Dev) (p u : Nat) : Dev :=
  d.vrsUnheld p u fun d =>
    let a := d.rd F.VRS_BANK_STAT_ARMED p u
    if !(d.vru p u).moved && a != 0 && (tablesOf a).all fun t => (d.vrsBack p u t).complete t then d.vrsSwapArmed p u else d

def execVrsBankRst (p : Pipe) (u : Fin 8) (mask : BitVec 5) (s : State) : Out := bar2 .VRS p s fun d => d.vrsRst p u mask.toNat

def execVrsDisarm (p : Pipe) (u : Fin 8) (s : State) : Out := bar2 .VRS p s fun d => d.vrsDisarm p u

def execVrsArm (p : Pipe) (u : Fin 8) (mask : BitVec 5) (s : State) : Out := bar2 .VRS p s fun d => d.vrsArm p u mask.toNat

def execVrsForce (p : Pipe) (u : Fin 8) (s : State) : Out := bar2 .VRS p s fun d => d.vrsForce p u

/-- A write of `VRS_BANK_CTL`: its fields act in the order RST, DISARM, ARM, FORCE (R302). -/
def Dev.vrsBankCtl (d : Dev) (p u w : Nat) : Dev :=
  let d := d.vrsRst p u (slice w 12 8)
  let d := if bit w 16 then d.vrsDisarm p u else d
  let d := d.vrsArm p u (slice w 4 0)
  if bit w 17 then d.vrsForce p u else d

/-! ### The pixel pipeline (R283 to R291) -/

/-- An input channel as a value (R283). -/
def vrsConvert (ifmt x : Nat) : HalfVal :=
  match ifmt with
  | 0 => .num false x (-16)
  | 1 => let v := signed 16 x; .num (decide (v < 0)) v.natAbs (-15)
  | _ =>
    match fOf16 x with
    | .nan => .num false 0 0
    | .inf s => .num s 65504 0
    | v => v

/-- The clamp of a matrix header (R285). -/
def vrsClamp (h : Nat) (v : HalfVal) : HalfVal :=
  let zero : HalfVal := .num false 0 0
  match h % 4 with
  | 1 => if v.lt zero then zero else v
  | 2 => fclamp zero (fOfNat 1) v
  | _ => v

/-- One row of a matrix: products added in the order of k, then the offset, one rounding per operation (R285). -/
def matRow (m : Nat → Nat) (off : Nat) (c : List HalfVal) : HalfVal :=
  let ps := c.zipIdx.map fun (v, k) => fmul (fOf32 (m k)) v
  let sum := match ps with | [] => HalfVal.num false 0 0 | a :: t => t.foldl fadd a
  fadd sum (fOf32 off)

/-- Stage PRE (R284). -/
def vrsPre (x : Nat → Nat) (c : List HalfVal) : List HalfVal :=
  (List.range 3).map fun r => vrsClamp (x 0) (matRow (fun k => x (1 + 4 * r + k)) (x (13 + r)) c)

/-- Stage POST (R284). -/
def vrsPost (x : Nat → Nat) (c : List HalfVal) : List HalfVal :=
  (List.range 3).map fun r => vrsClamp (x 0) (matRow (fun k => x (1 + 3 * r + k)) (x (10 + r)) c)

/-- Whether a value is below zero. -/
def HalfVal.isNeg (v : HalfVal) : Bool := v.lt (.num false 0 0)

/-- The input of a built-in curve clamped to its range (R287); the ACEScct encode takes every input. -/
def curveClamp (curve : Nat) (v : HalfVal) : HalfVal :=
  match curve with
  | 8 => v
  | 9 => fclamp (fOf32 0xBEB851EC) (fOf32 0x3FBC28F6) v
  | _ => fclamp (.num false 0 0) (.num false 1 0) v

/-- A shaper on channel `r` (R286, R287). A NaN input counts as 0 in the table. IDENTITY gives its input as it is. [log entry 14: PRESUMED; log entry 44: DEDUCED] -/
def vrsShape (x : Nat → Nat) (r : Nat) (v : HalfVal) : HalfVal :=
  let h := x 0
  let curve := h % 16
  let neg := bit h 4
  let zero : HalfVal := .num false 0 0
  if curve = 0 then v
  else if curve = 1 then
    let y := if v = .nan then zero else if neg then v.abs else if v.isNeg then zero else v
    let top : HalfVal := .num false 65504 0
    let hc := floatCode 5 10 (floatRound 5 10 (if top.lt y then top else y))
    let i := slice hc 14 5
    let base := if bit h 8 then 1 else 1 + 512 * r
    let e := fun n => fOf16 (slice (x (base + n / 2)) (if n % 2 = 0 then 15 else 31) (if n % 2 = 0 then 0 else 16))
    let out := fadd (e i) (fmul (fsub (e (i + 1)) (e i)) (.num false (hc % 32) (-5)))
    if neg && v.isNeg then out.neg else out
  else if curve = 8 ∨ curve = 9 then curveOut curve (curveClamp curve v)
  else
    let out := curveOut curve (curveClamp curve (if neg then v.abs else v))
    if neg && v.isNeg then out.neg else out

/-- The tetrahedral interpolation of a LUT (R288). -/
def vrsLut (x : Nat → Nat) (s : List HalfVal) : List HalfVal :=
  let n := x 0 % 128
  if n = 0 then s
  else
    let one := fOfNat 1
    let zero : HalfVal := .num false 0 0
    let xs := s.map fun v => fmul (fclamp zero one (if v = .nan then zero else v)) (fOfNat (n - 1))
    let is := xs.map fun v => min (ffloor v) (n - 2)
    let fs := (xs.zip is).map fun (v, i) => fsub v (fOfNat i)
    let f := fun a => fs.getD a zero
    let order : List Nat :=
      if !(f 0).lt (f 1) then
        if !(f 1).lt (f 2) then [0, 1, 2] else if !(f 0).lt (f 2) then [0, 2, 1] else [2, 0, 1]
      else
        if !(f 0).lt (f 2) then [1, 0, 2] else if !(f 1).lt (f 2) then [1, 2, 0] else [2, 1, 0]
    let a1 := order.getD 0 0
    let a2 := order.getD 1 0
    let a3 := order.getD 2 0
    let idx := fun (set : List Nat) =>
      let c := fun a => is.getD a 0 + (if set.contains a then 1 else 0)
      c 0 + n * c 1 + n * n * c 2
    let point := fun (set : List Nat) (ch : Nat) =>
      let k := 1 + 2 * idx set
      fOf16 (if ch = 0 then x k % 2 ^ 16 else if ch = 1 then x k / 2 ^ 16 else x (k + 1) % 2 ^ 16)
    (List.range 3).map fun ch =>
      let t0 := fmul (fsub one (f a1)) (point [] ch)
      let t1 := fmul (fsub (f a1) (f a2)) (point [a1] ch)
      let t2 := fmul (fsub (f a2) (f a3)) (point [a1, a2] ch)
      let t3 := fmul (f a3) (point [a1, a2, a3] ch)
      fadd (fadd (fadd t0 t1) t2) t3

/-- An output value packed by OFMT (R289). -/
def vrsPack (ofmt : Nat) (v : HalfVal) : Nat :=
  match ofmt with
  | 0 => half16 v
  | 1 => fround 65535 v
  | 2 => fround 4095 v
  | _ => fround 1023 v

/-- The output words of a pixel pair from the active tables (R284). -/
def Dev.vrsPixel (d : Dev) (p u w0 w1 : Nat) : Nat × Nat :=
  let ifmt := d.rd F.VRS_CFG_IFMT p u
  let stg := d.rd F.VRS_CFG_STG p u
  let ofmt := d.rd F.VRS_CFG_OFMT p u
  let tab := fun t => VrsTab.word t (d.vrsTab p u t (d.vrsActive p u t))
  let c := [laneA w0, laneB w0, laneA w1, laneB w1].map (vrsConvert ifmt)
  let a := if bit stg 0 then vrsPre (tab 0) c else c.take 3
  let a := if bit stg 1 then a.zipIdx.map fun (v, r) => vrsShape (tab 1) r v else a
  let a := if bit stg 2 then vrsLut (tab 2) a else a
  let a := if bit stg 3 then a.zipIdx.map fun (v, r) => vrsShape (tab 3) r v else a
  let q := if bit stg 4 then vrsPost (tab 4) a else a
  let out := fun i => vrsPack ofmt (q.getD i (.num false 0 0))
  (lanes (out 0) (out 1), lanes (out 2) (if d.on F.VRS_CFG_PASS3 p u then vrsPack ofmt (c.getD 3 (.num false 0 0)) else 0))

/-- Emits an output pair; with OUT2 clear O1 emits nothing (R291). -/
def Dev.vrsEmit (d : Dev) (p u : Nat) (x : Token × Token) : Dev :=
  let d := d.emit p (.vrs (u / 2) (2 * (u % 2))) x.1
  if d.on F.VRS_CFG_OUT2 p u then d.emit p (.vrs (u / 2) (2 * (u % 2) + 1)) x.2 else d

/-- An output pair passes the crop (R290): the first CROP_L and the last CROP_R pairs of a line are removed, the flags of the
pair that ends the line go to the last kept pair, and a line with nothing left gives one zero pair. -/
def Dev.vrsCrop (d : Dev) (p u : Nat) (w : Nat × Nat) (f : Flags) : Dev :=
  let l := d.rd F.VRS_CROP_CROP_L p u
  let r := d.rd F.VRS_CROP_CROP_R p u
  let y := d.vru p u
  let pair : Token × Token := (⟨w.1, f⟩, ⟨w.2, f⟩)
  let hold := if y.pairs < l then y.hold else y.hold ++ [pair]
  let kept := decide (r < hold.length)
  let d := d.putVru p u { y with
    hold := if f.eol then [] else if kept then hold.tail else hold
    pairs := if f.eol then 0 else y.pairs + 1 }
  if kept then
    match hold with
    | x :: _ => if f.eol then d.vrsEmit p u ({ x.1 with flags := f.or x.1.flags }, { x.2 with flags := f.or x.2.flags }) else d.vrsEmit p u x
    | [] => d
  else if f.eol then d.vrsEmit p u (⟨0, f⟩, ⟨0, f⟩)
  else d

/-- Whether the unit's outputs have room for a pair. [log entry 32: DEDUCED] -/
def Dev.vrsRoom (d : Dev) (p u : Nat) : Bool :=
  (List.range 2).all fun o => decide ((d.rootSt p (.vrs (u / 2) (2 * (u % 2) + o))).toks.length < 2)

/-- A unit consumes a pixel pair (R282, R283, R307). With EN clear it discards what reaches its inputs (R291). `flaw` is what
the check bits of the table words read show. -/
def Dev.vrsPair (d : Dev) (p u : Nat) (flaw : Flaw) : Dev :=
  let s0 := Sink.vrs (u / 2) (2 * (u % 2))
  let s1 := Sink.vrs (u / 2) (2 * (u % 2) + 1)
  if !d.on F.VRS_CFG_EN p u then ((d.accept p s0).accept p s1).flow p
  else if !d.vrsRoom p u then d
  else
    let in2 := d.on F.VRS_CFG_IN2 p u
    match d.offered p s0, (if in2 then d.offered p s1 else some (.vrs 0 0, ⟨0, {}⟩)) with
    | some (_, a), some (_, b) =>
      let f := if in2 then a.flags.or b.flags else a.flags
      let d := d.accept p s0
      let d := if in2 then d.accept p s1 else d
      let y := d.vru p u
      let mis := in2 && (a.flags.eol != b.flags.eol || a.flags.eof != b.flags.eof)
      let d := d.putVru p u { y with moved := true, misSeen := y.misSeen || mis }
      let d := if mis then
          let d := d.wr F.VRS_BANK_STAT_MISALIGN 1 p u
          if y.misSeen then d else d.raiseP p 42 (vrsSyn u 0)
        else d
      let d := match flaw with
        | .ok => d.vrsCrop p u (d.vrsPixel p u a.data b.data) f
        | .single => (d.bump C.VRS_CORR_CNT p).vrsCrop p u (d.vrsPixel p u a.data b.data) f
        | .multiple =>
          let d := d.bump C.VRS_UNC_CNT p
          let y := d.vru p u
          let d := if y.psnSeen then d else (d.putVru p u { y with psnSeen := true }).raiseP p 41 (vrsSyn u 0)
          d.vrsCrop p u (0, 0) { f with psn := true }
      let d := if f.eof then d.vrsSeam p u else d
      d.flow p
    | _, _ => d

def execVrsPixelPair (p : Pipe) (u : Fin 8) (flaw : Flaw) (s : State) : Out := run s fun d => d.vrsPair p u flaw

/-! ### Table reads (R308) -/

/-- The bank a read addresses: `VRS_TRD_ADDR.BANK` 0 the active bank, 1 the inactive one. -/
def Dev.vrsReadTab (d : Dev) (p u : Nat) : VrsTab :=
  let t := d.rd F.VRS_TRD_ADDR_TABLE p u
  if d.on F.VRS_TRD_ADDR_BANK p u then d.vrsBack p u t else d.vrsTab p u t (d.vrsActive p u t)

/-- A write of `VRS_TRD_ADDR` starts a read; out of contract it reads nothing and leaves VALID clear. -/
def Dev.vrsTrd (d : Dev) (p u w : Nat) : Dev :=
  let d := (d.wrWord ⟨.VRS_TRD_ADDR, p, u, 0⟩ w).wr F.VRS_TRD_STAT_VALID 0 p u
  let t := slice w 26 24
  let ok := decide (t ≤ 4) && decide (slice w 19 0 < (d.vrsReadTab p u).length t)
  d.putVru p u { d.vru p u with reading := ok }

def execVrsTableRead (p : Pipe) (u : Fin 8) (w : Word) (s : State) : Out := bar2 .VRS p s fun d => d.vrsTrd p u w.toNat

def execVrsTableReadDone (p : Pipe) (u : Fin 8) (flaw : Flaw) (s : State) : Out := run s fun d =>
  if (d.vru p u).reading then
    let t := d.rd F.VRS_TRD_ADDR_TABLE p u
    let v := (d.vrsReadTab p u).word t (d.rd F.VRS_TRD_ADDR_WORD p u)
    let d := d.putVru p u { d.vru p u with reading := false }
    let d := (d.wr F.VRS_TRD_DATA_DATA v p u).wr F.VRS_TRD_STAT_VALID 1 p u
    let d := (d.wrb F.VRS_TRD_STAT_UNC (flaw == .multiple) p u).wrb F.VRS_TRD_STAT_CORR (flaw == .single) p u
    match flaw with
    | .ok => d
    | .single => d.bump C.VRS_CORR_CNT p
    | .multiple => d.bump C.VRS_UNC_CNT p
  else d

/-! ### Loads (R304, R305) -/

/-- A job starts staging the unit's context: the armed set empties, the inactive bank takes its reset contents and is held. -/
def Dev.vrsStage (d : Dev) (p u : Nat) : Dev :=
  let y := d.vru p u
  let back := (List.range 5).map fun t => (2 * t + (1 - d.vrsActive p u t), d.vrsBack p u t)
  let d := d.putVru p u { y with saved := some back, tabs := back.foldl (fun t k => Tab.del t k.1) y.tabs }
  ((d.vrsDisarm p u).wr F.VRS_BANK_STAT_HELD 1 p u).vrsShow p u

/-- The loader writes a whole table into the inactive bank. -/
def Dev.vrsLoad (d : Dev) (p u t : Nat) (ws : List Nat) : Dev :=
  let words := ws.zipIdx.foldl (fun m (w, i) => Tab.set 0 m i w) []
  d.putBack p u t ⟨false, words, ws.length, false⟩

/-- The context switches: every table swaps to the staged bank (R305). -/
def Dev.vrsSwitch (d : Dev) (p u : Nat) : Dev :=
  let d := d.wr F.VRS_BANK_STAT_ACTIVE (31 - d.rd F.VRS_BANK_STAT_ACTIVE p u) p u
  let y := d.vru p u
  ((d.putVru p u { y with saved := none, moved := false, hold := [], pairs := 0 }).wr F.VRS_BANK_STAT_HELD 0 p u).vrsShow p u

/-- A job that held the context failed: the inactive bank returns to what it held before. -/
def Dev.vrsUnstage (d : Dev) (p u : Nat) : Dev :=
  let y := d.vru p u
  match y.saved with
  | some back =>
    let d := d.putVru p u { y with saved := none, tabs := back.foldl (fun t k => Tab.set {} t k.1 k.2) y.tabs }
    (d.wr F.VRS_BANK_STAT_HELD 0 p u).vrsShow p u
  | none => d

end Sys2Proof.Machine
end

