-- ==== Sys2Proof/Machine/Check.lean ====
section
/-!
DEFINITION. What pass 2 makes of a section (chapter 5): the repair map, the shadow words, the staged register words, and the checks of
R199 on the configuration they give: R70, R94, R148, R158, R163, R165, R173 and those of the chapters that define the contexts.
-/
namespace Sys2Proof.Machine

/-! ### Repair (R173) -/

/-- The physical tile that serves logical tile `l` under staged repair maps. -/
def Dev.stagedPhys (d : Dev) (p : Nat) (maps : Tab (Option Nat)) (l : Nat) : Nat :=
  match Tab.find maps (l / 16) with
  | some m => if m == some (l % 16) then 17 * (l / 16) + 16 else 17 * (l / 16) + l % 16
  | none => d.physTile p l

/-- The tiles that a section's regions declare in cluster `c`, as slots. -/
def declSlots (decl : Tab RegionDecl) (c : Nat) : List Nat :=
  (List.range 16).filter fun j => decl.any fun x => bit x.2.tiles (16 * c + j)

/-- Whether the spare of cluster `c` serves a slot of a region that runs and is not replaced (R173). -/
def Dev.spareTaken (d : Dev) (x : CuvSect) (c : Nat) : Option Nat :=
  let j := d.rd F.TRL_RPR_MAP_LSLOT x.pipe c
  if d.on F.TRL_RPR_MAP_USED x.pipe c && (d.cuvOthers x).any fun r => bit r.2.tiles (16 * c + j) then some j else none

/-- The word of the REGION record that declares logical tile `l`. -/
def regionWord (b : CuvBody) (l : Nat) : Nat :=
  (b.recs.find? fun r => match r.2 with | .region _ y => bit y.tiles l | _ => false).elim 0 (·.1)

/-- The repair maps of the clusters that the records use, and, for a cluster whose slots need more than its spare gives, the error
NO_SPARE at the REGION record that first asks for too much. -/
def Dev.cuvMaps (d : Dev) (x : CuvSect) (b : CuvBody) : List CuvErr × Tab (Option Nat) :=
  (List.range 4).foldl (fun a c =>
    let slots := declSlots b.decl c
    let fail := d.rd F.TRL_RPR_FAIL_FAIL x.pipe c
    let taken := d.spareTaken x c
    let none_ := bit fail 16 || taken.isSome
    if slots.isEmpty && !x.whole then a
    else
      match ((slots.filter fun j => bit fail j).map fun j => (regionWord b (16 * c + j), j)).mergeSort fun y z => decide (y.1 ≤ z.1) with
      | [] => (a.1, Tab.put a.2 c taken)
      | y :: rest =>
        match (if none_ then some y else rest.head?) with
        | some z => (a.1 ++ [{ code := 0x39, det := some c, word := z.1 }], a.2)
        | none => (a.1, Tab.put a.2 c (some y.2))) ([], [])

/-! ### Shadow storage -/

/-- Trellis resources: physical tiles, cluster windows and crossbar destinations as (cluster, number). -/
structure ResSet where
  tiles : List Nat := []
  wins : List (Nat × Nat) := []
  xd : List (Nat × Nat) := []
deriving DecidableEq, Repr

/-- Whether the configuration word at `o` belongs to a tile or window of the set. -/
def ResSet.owns (s : ResSet) (o : Nat) : Bool :=
  if o < 0x44000 then s.tiles.contains (o / 0x1000)
  else if o < 0x55000 then s.tiles.contains ((o - 0x44000) / 0x400)
  else if o < 0x59400 then s.tiles.contains ((o - 0x55000) / 0x100)
  else
    let l := (o - 0x5A000) % 0x400
    decide (0x5A000 ≤ o) && decide (0x100 ≤ l) && decide (l < 0x200) && s.wins.contains ((o - 0x5A000) / 0x400, (l - 0x100) / 8)

/-- The resources a declaration names, tiles by the physical tile that `phys` gives. -/
def declRes (phys : Nat → Nat) (x : RegionDecl) : ResSet :=
  { tiles := (bitsOf x.tiles 64).map phys
    wins := (List.range 4).flatMap fun c => (bitsOf (x.cwins.getD c 0) 32).map fun w => (c, w)
    xd := (List.range 16).flatMap fun k => (bitsOf (x.xdest.getD k 0) 32).map fun b => (k / 4, 32 * (k % 4) + b) }

/-- The resources of a set that another does not have. -/
def ResSet.minus (a b : ResSet) : ResSet :=
  { tiles := a.tiles.filter fun x => !b.tiles.contains x, wins := a.wins.filter fun x => !b.wins.contains x
    xd := a.xd.filter fun x => !b.xd.contains x }

/-- The resources of both sets. -/
def ResSet.union (a b : ResSet) : ResSet := { tiles := a.tiles ++ b.tiles, wins := a.wins ++ b.wins, xd := a.xd ++ b.xd }

/-- Storage `m` with the words of `copy` taken from `src` and those of `blank` at reset values. -/
def trlTake (m src : Tab Nat) (copy blank : ResSet) : Tab Nat :=
  let m := m.filter fun x => !(copy.owns x.1 || blank.owns x.1)
  let m := (src.filter fun x => copy.owns x.1).foldl (fun m x => Tab.put m x.1 x.2) m
  let m := blank.xd.foldl (fun m x => xbarPut m x.1 x.2 0xFF) m
  copy.xd.foldl (fun m x => xbarPut m x.1 x.2 (xbarOf src x.1 x.2)) m

/-- A Trellis record written into storage (R190). -/
def putRecord (phys : Nat → Nat) (m : Tab Nat) : CuvRec → Tab Nat
  | .element l i cfg ks ops =>
    let e := 16 * phys l + i
    let m := cfgPut64 m (oElem e) cfg
    let m := ks.foldl (fun m x => cfgPut m (oConst e x.1) x.2) m
    (numbered ops).foldl (fun m x => cfgPut64 m (oOp e x.1) x.2) m
  | .tile l route ports wins =>
    let t := phys l
    let m := cfgPut64 m (oRoute t) route
    let m := (numbered ports).foldl (fun m x => cfgPut m (oPort t x.1) x.2) m
    wins.foldl (fun m x => cfgPut64 m (oWin t x.1) x.2) m
  | .xbar c ds => ds.foldl (fun m x => xbarPut m c x.1 x.2) m
  | .cwin c ws => ws.foldl (fun m x => cfgPut64 m (oCwin c x.1) x.2) m
  | _ => m

/-! ### Staged register words -/

/-- An endpoint of `CASK_BIND` with its logical tile replaced by the physical one (R135, R190). -/
def bindPhys (phys : Nat → Nat) (e : Nat) : Nat :=
  if e / 2 ^ 12 = 1 ∧ slice e 9 2 < 64 then e - slice e 9 2 * 4 + phys (slice e 9 2) * 4 else e

/-- The register words of a REG record. -/
def Dev.recWrites (d : Dev) (p : Nat) (maps : Tab (Option Nat)) : CuvRec → List CuvWrite
  | .reg cls idx off data =>
    (numbered data).filterMap fun x =>
      (pipeRegAt p (off + 4 * x.1)).map fun l =>
        let v := if l.reg = .CASK_BIND then
            bindPhys (d.stagedPhys p maps) (x.2 / 2 ^ 16) * 2 ^ 16 + bindPhys (d.stagedPhys p maps) (x.2 % 2 ^ 16)
          else x.2
        ⟨l, v, cls, idx⟩
  | _ => []

/-- The last value staged for a register; 0 where none is. -/
def staged (ws : List CuvWrite) (l : RegLoc) : Nat := ((ws.filter fun w => w.loc = l).getLast?).elim 0 (·.v)

/-- The binding of the casks of a TILE record's enabled ports, where the section carries the cask (R153). -/
def Dev.recBinds (d : Dev) (x : CuvSect) (b : CuvBody) (maps : Tab (Option Nat)) (ws : List CuvWrite) : CuvRec → List CuvWrite
  | .tile l _ ports _ =>
    (numbered ports).foldl (fun ws q =>
      let k := slice q.2 27 21
      let mine := x.whole || b.decl.any fun r => r.2.ctx.contains (2, k)
      if bit q.2 31 && decide (k < 120) && mine then
        let loc : RegLoc := ⟨.CASK_BIND, x.pipe, k, 0⟩
        let v := staged ws loc
        let e := 0x1000 + 4 * d.stagedPhys x.pipe maps l + q.1
        ws ++ [⟨loc, if bit q.2 30 then v / 2 ^ 16 * 2 ^ 16 + e else e * 2 ^ 16 + v % 2 ^ 16, 2, k⟩]
      else ws) ws
  | _ => ws

/-! ### A context's configuration -/

/-- The registers of context `x` of pipe `p` at reset values. -/
def Dev.ctxClear (d : Dev) (p : Nat) (x : Nat × Nat) : Dev := d.dropRegs fun k => k.isCv p && ctxOf k.reg k.i == x

/-- The registers of context `x` as staged words give them, reset values where there are none (R194). -/
def Dev.ctxLoad (d : Dev) (p : Nat) (x : Nat × Nat) (ws : List CuvWrite) : Dev :=
  (ws.filter fun w => (w.cls, w.idx) == x).foldl (fun d w => d.wrCv w.loc w.v) (d.ctxClear p x)

/-- Sets REMAP on the claims that R173 ties to the slots remapped in force. -/
def Dev.remapClaims (d : Dev) (p : Nat) : Dev :=
  (List.range 4).foldl (fun d c =>
    if d.on F.TRL_RPR_MAP_USED p c then
      let l := 16 * c + d.rd F.TRL_RPR_MAP_LSLOT p c
      let info := (d.trl p).info
      (List.range 32).foldl (fun d k =>
        let near := (List.range 4).any fun i => bit (d.rd F.PCTL_CLM_SENS_SENS p k) (4 * c + i)
        let near := near || bit (d.rd F.PCTL_CLM_SENS_SENS p k) (16 + 2 * c) || bit (d.rd F.PCTL_CLM_SENS_SENS p k) (17 + 2 * c)
        let listed := info.any fun r => r.2.ctx.contains (1, k)
        let tied := info.any fun r => r.2.ctx.contains (1, k) && bit r.2.tiles l
        if d.claimValid p k && (tied || (!listed && near)) then d.wr F.PCTL_CLM_CFG_REMAP 1 p k else d) d
    else d) d

/-- Shows a repair map in `TRL_RPR_MAP`. -/
def Dev.putMap (d : Dev) (p c : Nat) (m : Option Nat) : Dev :=
  (d.wrb F.TRL_RPR_MAP_USED m.isSome p c).wr F.TRL_RPR_MAP_LSLOT (m.getD 0) p c

/-- `TRL_REG_CFG` and `TRL_TILE_CFG` of region `r`, from the declaration it had and the one it has. -/
def Dev.putDecl (d : Dev) (p r : Nat) (new : RegionDecl) (runs : Bool) : Dev :=
  let d := (List.range 64).foldl (fun d l =>
    if bit new.tiles l then (d.wr F.TRL_TILE_CFG_EN 1 p l).wr F.TRL_TILE_CFG_REGION r p l
    else if d.tileRegion p l == some r then (d.wr F.TRL_TILE_CFG_EN 0 p l).wr F.TRL_TILE_CFG_REGION 0 p l
    else d) d
  (d.wrb F.TRL_REG_CFG_EN runs p r).wr F.TRL_REG_CFG_TIMEOUT (if runs then new.timeout else 0) p r

/-- Whether a declaration names nothing: its REGION record removes the region (R189). -/
def RegionDecl.removes (x : RegionDecl) : Bool :=
  x.tiles == 0 && x.ctx.isEmpty && (x.cwins.all (· == 0)) && x.xdest.all (· == 0)

/-! ### A section staged -/

/-- What a section stages: its body, the repair maps, the shadow storage, the register words, and the Veraison tables as
(unit, table, words). -/
structure CuvStage where
  body : CuvBody
  maps : Tab (Option Nat)
  shd : Tab Nat
  writes : List CuvWrite
  tabs : List (Nat × Nat × List Nat)
deriving DecidableEq, Repr

/-- The resources that the regions of REGMASK had. -/
def Dev.cuvOldRes (d : Dev) (x : CuvSect) : ResSet :=
  ((d.trl x.pipe).info.filter fun r => bit x.mask r.1).foldl (fun s r => s.union (declRes (d.physTile x.pipe) r.2)) {}

/-- The resources that a section's regions take. -/
def Dev.cuvNewRes (d : Dev) (x : CuvSect) (maps : Tab (Option Nat)) (decl : Tab RegionDecl) : ResSet :=
  decl.foldl (fun s r => s.union (declRes (d.stagedPhys x.pipe maps) r.2)) {}

/-- The section's records carried out on shadow copies that start from reset values (R194). -/
def Dev.cuvStage (d : Dev) (x : CuvSect) (b : CuvBody) (maps : Tab (Option Nat)) : CuvStage :=
  let phys := d.stagedPhys x.pipe maps
  let base := if x.whole then []
    else trlTake (d.trl x.pipe).shd [] {} ((d.cuvOldRes x).union (d.cuvNewRes x maps b.decl))
  let ws := b.recs.flatMap fun r => d.recWrites x.pipe maps r.2
  { body := b, maps := maps
    shd := b.recs.foldl (fun m r => putRecord phys m r.2) base
    writes := b.recs.foldl (fun ws r => d.recBinds x b maps ws r.2) ws
    tabs := b.recs.filterMap fun r => match r.2 with
      | .port _ u off data => (pipeRegAt x.pipe off).map fun l => (u, l.j, data)
      | _ => none }

/-- The contexts a section brings with it: those its regions list or listed, and REC where a record writes it; for a whole section
every context. -/
def Dev.cuvCtxs (d : Dev) (x : CuvSect) (b : CuvBody) : List (Nat × Nat) :=
  if x.whole then [1, 2, 3, 4, 5, 6, 7, 8, 0xE, 0xF].flatMap fun c => (List.range (ctxCount c)).map fun i => (c, i)
  else
    let old := ((d.trl x.pipe).info.filter fun r => bit x.mask r.1).flatMap fun r => r.2.ctx
    let rec_ := if b.recs.any fun r => r.2.touches (0xE, 0) then [(0xE, 0)] else []
    (b.decl.flatMap (fun r => r.2.ctx) ++ old ++ rec_).foldl (fun l c => if l.contains c then l else l ++ [c]) []

/-- The device as it will be when every region and context of the section has switched: the checks read it. -/
def Dev.cuvView (d : Dev) (x : CuvSect) (s : CuvStage) : Dev :=
  let p := x.pipe
  let new := d.cuvNewRes x s.maps s.body.decl
  let old := d.cuvOldRes x
  let info := if x.whole then s.body.decl
    else s.body.decl.foldl (fun t r => if r.2.removes then Tab.del t r.1 else Tab.put t r.1 r.2) (d.trl p).info
  let v := d.updTrl p fun t => { t with act := if x.whole then s.shd else trlTake t.act s.shd new (old.minus new), info := info }
  let v := s.maps.foldl (fun v m => v.putMap p m.1 m.2) v
  let v := s.body.decl.foldl (fun v r => v.putDecl p r.1 r.2 (!r.2.removes)) v
  ((d.cuvCtxs x s.body).foldl (fun v c => v.ctxLoad p c s.writes) v).remapClaims p

/-! ### The fabric's checks -/

/-- Whether two spans of a list overlap. -/
def spansClash : List (Nat × Nat) → Bool
  | [] => false
  | a :: t => (t.any fun b => overlaps a.1 a.2 b.1 b.2) || spansClash t

/-- Whether a tile route code is reserved (R151). -/
def routeBad (c : Nat) : Bool := decide (0x28 ≤ c) && c != 0x3F

/-- Whether a crossbar code is reserved as a destination, or as a source (R162). -/
def xdestBad (c : Nat) : Bool := decide (0x77 < c) || (decide (0x44 ≤ c) && decide (c ≤ 0x4F))
def xsrcBad (c : Nat) : Bool := c != 0xFF && xdestBad c

/-- Whether a micro-op breaks R148, routes and windows apart. -/
def uopBad (w : Nat) : Bool :=
  let u := Uop.ofWord w
  !opDefined u.opc || u.lane == 3 || slice w 41 40 != 0 || slice w 24 0 != 0 || !opFmtOk u.opc u.fmt ||
    (opWholeWord u.opc u.fmt && u.lane != 0) || (u.sources.any fun s => decide (0x1A < s))

/-- Whether a micro-op names a window of tile `t` that element `i` does not own, or a tap outside it (R148). -/
def uopWinBad (m : Tab Nat) (t i w : Nat) : Bool :=
  let u := Uop.ofWord w
  let win := WinCfg.ofWord (cfgWord64 m (oWin t (u.b % 16)))
  ((u.opc == 0x20 || u.opc == 0x21) && (!win.en || win.owner != i)) || (u.opc == 0x20 && (u.c == 0 || decide (win.depth < u.c)))

/-- An ELEMENT record's element against R148 (the element enabled), and its routes: the record by itself, and, where `final` says that `m`
is the storage that results, its windows too. The low bits of DETAIL are free where no entry is at fault. -/
def elemCheck (m : Tab Nat) (final : Bool) (t i l cfg : Nat) (ops : List Nat) (free : Nat) : CuvM Unit := do
  let det := fun k => l * 2 ^ 26 + i * 2 ^ 22 + k
  let srcs := (List.range 4).map fun n => slice cfg (6 * n + 29) (6 * n + 24)
  cuvNeed (!srcs.any routeBad) 0x35 l
  if bit cfg 63 then
    cuvNeed (slice cfg 51 48 == 0 && slice cfg 23 0 == 0) 0x34 (det (free % 32))
    cuvNeed (decide (slice cfg 61 57 < ops.length)) 0x34 (det (slice cfg 61 57))
    cuvNeed (decide (slice cfg 56 52 < ops.length)) 0x34 (det (slice cfg 56 52))
    match (numbered ops).find? fun k => uopBad k.2 || (final && uopWinBad m t i k.2) with
    | some k => cuvErr 0x34 (det k.1)
    | none => pure ()
    cuvNeed (ops.all fun w => (Uop.ofWord w).ports.all fun n => srcs.getD n 0x3F != 0x3F) 0x35 l
  else pure ()

/-- A tile's routes, and its windows in the storage that results (R151, R158). -/
def tileCheck (m : Tab Nat) (final : Bool) (t l w : Nat) : CuvM Unit := do
  cuvNeed (!(List.range 8).any fun k => routeBad (slice w (6 * k + 5) (6 * k))) 0x35 l
  let ws := ((List.range 16).map fun k => WinCfg.ofWord (cfgWord64 m (oWin t k))).filter fun c => c.en
  let ok := ws.all fun c => decide (1 ≤ c.depth) && decide (1 ≤ c.len) && decide (c.len ≤ 8192) && decide (c.base + c.len * c.depth ≤ 16384)
  cuvNeed (!final || (ok && !spansClash (ws.map fun c => (c.base, c.len * c.depth)))) 0x36 l

/-- A cluster's crossbar table: in the table that results no source has more than four destinations (R163). -/
def xbarCheck (m : Tab Nat) (final : Bool) (c : Nat) (ds : List (Nat × Nat)) : CuvM Unit := do
  cuvNeed (!ds.any fun x => xdestBad x.1 || xsrcBad x.2) 0x35 c
  let srcs := (List.range 0x78).map fun k => xbarOf m c k
  cuvNeed (!final || srcs.all fun s => s == 0xFF || decide ((srcs.filter (· == s)).length ≤ 4)) 0x35 c

/-- A cluster's line-store windows (R165). -/
def cwinCheck (m : Tab Nat) (c : Nat) : CuvM Unit :=
  let ws := ((List.range 32).map fun k => WinCfg.ofCluster (cfgWord64 m (oCwin c k))).filter fun c => c.en
  let ok := ws.all fun c => decide (1 ≤ c.depth) && decide (1 ≤ c.len) && decide (c.base + c.len * c.depth ≤ 1048576)
  cuvNeed (ok && !spansClash (ws.map fun c => (c.base, c.len * c.depth))) 0x36 c

/-- A record's check, where `final` on the configuration `v` that results, with the routes, windows and tables other records give;
otherwise what the record breaks by itself. A `CASK_BIND` word names a logical tile of at most 63. -/
def Dev.recCheck (v : Dev) (final : Bool) (x : CuvSect) (maps : Tab (Option Nat)) : CuvRec → CuvM Unit
  | .element l i cfg _ ops => elemCheck (v.trl x.pipe).act final (v.stagedPhys x.pipe maps l) i l cfg ops v.draw.1
  | .tile l route _ _ => tileCheck (v.trl x.pipe).act final (v.stagedPhys x.pipe maps l) l route
  | .xbar c ds => xbarCheck (v.trl x.pipe).act final c ds
  | .cwin c _ => if final then cwinCheck (v.trl x.pipe).act c else .ok ()
  | .reg _ _ off data =>
    (numbered data).forM fun (y : Nat × Nat) =>
      match pipeRegAt x.pipe (off + 4 * y.1) with
      | some l =>
        let bad := fun e => e / 2 ^ 12 == 1 && decide (63 < slice e 9 2)
        if l.reg = .CASK_BIND then
          if bad (y.2 / 2 ^ 16) then cuvErr 0x35 (slice (y.2 / 2 ^ 16) 9 2)
          else cuvNeed (!bad (y.2 % 2 ^ 16)) 0x35 (slice y.2 9 2)
        else .ok ()
      | none => .ok ()
  | _ => .ok ()

/-- The first cask whose range breaks R94: its depth, its store's end, or an earlier cask's range. -/
def Dev.caskClash (v : Dev) (p : Nat) : Option Nat :=
  let en := fun k => v.on F.CASK_CFG_EN p k
  let base := fun k => v.rd F.CASK_CFG_BASE p k
  let depth := fun k => v.rd F.CASK_CFG_DEPTH p k
  (List.range 128).find? fun k =>
    en k && (depth k == 0 || decide (256 < depth k) || decide ((if k < 120 then 8192 else 2048) < base k + depth k) ||
      (List.range k).any fun j =>
        en j && decide (k < 120) == decide (j < 120) && overlaps (base k) (depth k) (base j) (depth j))

/-- The first claim that is too short (R70). -/
def Dev.claimShortOf (v : Dev) (p : Nat) : Option Nat :=
  (List.range 32).find? fun k =>
    v.claimValid p k && decide (v.rd F.PCTL_CLM_CFG_CLAIM_PS p k < if v.on F.PCTL_CLM_CFG_REMAP p k then 832 else 800)

/-! ### The chapters' checks -/

/-- The first code of a list whose rule is broken. -/
def firstCode (l : List (Bool × Nat)) : Option Nat := (l.find? (·.1)).map (·.2)

/-- Whether the value staged for a register of context `x` that `q` names sets a bit of no CV field. -/
def CuvStage.dirty (s : CuvStage) (x : Nat × Nat) (q : RegId → Bool) : Bool :=
  s.writes.any fun w => (w.cls, w.idx) == x && q w.loc.reg && Nat.land (staged s.writes w.loc) (2 ^ 32 - 1 - cvMask w.loc) != 0

/-- The virtual channels that feed the record branch. -/
def Dev.recVcs (v : Dev) (p : Nat) : List Nat := (List.range 16).filter fun i => v.on F.SFE_VCG_REC p i

/-- Site entry (x, y) of mosaic descriptor `m`. -/
def Dev.mosSite (v : Dev) (p m x y : Nat) : Nat :=
  let k := (8 * y + x) / 4
  match (8 * y + x) % 4 with
  | 0 => v.rd F.VRS_MOS_SITE_SITE0 p m k
  | 1 => v.rd F.VRS_MOS_SITE_SITE1 p m k
  | 2 => v.rd F.VRS_MOS_SITE_SITE2 p m k
  | _ => v.rd F.VRS_MOS_SITE_SITE3 p m k

/-- The code of a mosaic descriptor that breaks R279: the first rule speaks of enabled descriptors. -/
def Dev.mosCode (v : Dev) (p m : Nat) : Option Nat :=
  let pw := v.rd F.VRS_MOS_CFG_PW p m
  let ph := v.rd F.VRS_MOS_CFG_PH p m
  let np := v.rd F.VRS_MOS_CFG_NPLANE p m
  let all := (List.range 64).map fun s => (s % 8, s / 8, v.mosSite p m (s % 8) (s / 8))
  let inside := all.filter fun s => decide (s.1 < pw) && decide (s.2.1 < ph)
  let pairs := inside.map fun s => (s.2.2 / 16, s.2.2 % 16)
  firstCode [
    (v.on F.VRS_MOS_CFG_EN p m && (pw == 0 || decide (8 < pw) || ph == 0 || decide (8 < ph) || np == 0 || decide (16 < np)), 0x0210),
    (pairs.any fun s => (decide (7 < s.2) && s.2 != 0xE) || decide (np ≤ s.1), 0x0211),
    ((pairs.any fun s => pairs.any fun z => s.1 == z.1 && s.2 != z.2) || (List.range np).any fun k => !pairs.any fun s => s.1 == k, 0x0212),
    (all.any fun s => !(decide (s.1 < pw) && decide (s.2.1 < ph)) && s.2.2 != 0, 0x0213)]

/-- The code of a REC context that breaks R255, R279, R356 or R427. [log entry 43: DESIGN CHOICE] -/
def Dev.recCode (v : Dev) (p : Nat) (s : CuvStage) : Option Nat :=
  let vcs := (List.range 16).filter fun i => v.on F.SFE_VCG_EN p i || v.on F.SFE_VCG_REC p i
  let recs := v.recVcs p
  let dt := fun i => v.rd F.SFE_VCG_DT p i
  let width := fun i => v.rd F.SFE_VCG_WIDTH p i
  let lines := fun i => v.rd F.SFE_VCL_LINES p i
  let idx := v.rd F.SFE_STRIPE_INDEX p
  let ns := v.rd F.SFE_STRIPE_NSTRIPE p
  let hl := v.rd F.SFE_STRIPE_HALO_L p
  let hr := v.rd F.SFE_STRIPE_HALO_R p
  let stripe := (recs.any fun i => recs.any fun j => width i != width j) || decide (16 < ns) || (idx == 0 && hl != 0) ||
    (if ns = 0 then idx != 0 || hr != 0 else decide (ns ≤ idx) || (idx + 1 == ns && hr != 0))
  let bounded := v.on F.PXR_ENC_CFG_MODE p
  let cask := fun i => v.rd F.PXR_ENC_VCC_CASK p i
  let mos := (List.range 4).findSome? fun m => v.mosCode p m
  let first := firstCode [
    (vcs.any fun i => decide (dt i < 0x2A) || decide (0x2F < dt i), 0x0101),
    (vcs.any fun i => width i % 4 != 0 || decide (width i < 4) || decide (16384 < width i) || lines i == 0 || decide (16384 < lines i), 0x0102),
    (decide (8 < recs.length), 0x0103), (stripe, 0x0106)]
  let last := firstCode [
    ((List.range 16).any fun i => v.on F.SFE_VCG_EN p i && !v.on F.VRS_MOS_CFG_EN p (v.mosOf p i), 0x0214),
    (s.dirty (0xE, 0) fun _ => true, 0x0401),
    ((!recs.isEmpty && !v.on F.PXR_ENC_CFG_EN p) || (bounded && decide (v.rd F.PXR_ENC_CFG_DMAX p < v.rd F.PXR_ENC_CFG_DMIN p)), 0x0402),
    (bounded && recs.any fun i => decide (8 * v.rd F.PXR_ENC_BUDGET_BUDGET8 p < 6 * width i + 104), 0x0403),
    (recs.any fun i => decide (cask i < 120) || (recs.any fun j => i != j && cask i == cask j) ||
      v.rd F.CASK_BIND_PROD p (cask i) != 0x2080 + i, 0x0404),
    ((List.range 8).any fun t => v.on F.CELP_TQ_CFG_EN p t && cask (v.rd F.CELP_TQ_CFG_VC p t) != 120 + t, 0x0601)]
  (first.orElse fun _ => mos).orElse fun _ => last

/-- The code of an SFEV context that breaks R255. -/
def Dev.sfevCode (v : Dev) (p i : Nat) : Option Nat :=
  firstCode [(v.on F.SFE_VCT_EN p i && !v.on F.SFE_VCG_EN p i, 0x0104),
    (!v.on F.SFE_VCT_ALIGN p i && v.rd F.SFE_VCG_DT p i == 0x2F, 0x0105)]

/-- The reference code of flex lane `k`: what the input it selects carries (R222). -/
def Dev.flexRef (v : Dev) (p k : Nat) : Nat :=
  if v.on F.LANE_FCFG_REFSEL p k then v.rd F.LANE_REFCFG_FREFB p else v.rd F.LANE_REFCFG_FREFA p

/-- The code of a PIPE context that breaks R224, R255, R468 or R504. GSH and the memory's state are held against R468 where a record of
the section brings the map. -/
def Dev.pipeCode (v : Dev) (p : Nat) (s : CuvStage) : Option Nat :=
  let mode := v.rd F.LANE_SCFG_SMODE p
  let mask := v.rd F.LANE_SCFG_SMASK p
  let role := fun k => v.rd F.LANE_FCFG_ROLE p k
  let eth100 := (List.range 6).filter fun k => role k == 2
  let rate := v.rd F.SFE_DPHY_CFG_RATE p
  let rgns := v.dramRegions p
  let recbufs := (rgns.filter fun r => r.2.2 == 1).length
  let tqs := (List.range 8).any fun t => v.on F.CELP_TQ_CFG_EN p t
  let gsh := v.rd F.DRC_MAP_CFG_GSH p
  let brings := fun (q : RegId → Bool) => s.writes.any fun w => q w.loc.reg
  let map := brings fun r => r == .DRC_MAP_CFG || r == .DRC_RGN_BASE || r == .DRC_RGN_SIZE
  firstCode [
    (mode == 3 || (List.range 6).any fun k => decide (3 < role k), 0x0001),
    ((mode == 1 && mask == 0) || (mode == 2 && mask != 0), 0x0002),
    (mode == 1 && !v.on F.LANE_REFCFG_SREF p, 0x0003),
    (!eth100.isEmpty && (eth100 != [0, 1, 2, 3] || (List.range 4).any fun k => v.rd F.LANE_FCFG_REFSEL p k != v.rd F.LANE_FCFG_REFSEL p 0), 0x0004),
    ((List.range 6).any fun k =>
      ((role k == 1 || role k == 2) && v.flexRef p k != 1) || (role k == 3 && !(v.flexRef p k == 2 || v.flexRef p k == 3)), 0x0005),
    (mode == 2 && (decide (rate < 80) || decide (4500 < rate) || v.rd F.SFE_DPHY_CFG_NDL p == 3), 0x0107),
    (((v.on F.DRC_MAP_CFG_EN p || brings (· == .DRC_MAP_CFG)) && (decide (gsh < 8) || decide (16 < gsh))) ||
      ((List.range 16).any fun k => v.rd F.DRC_RGN_BASE_KIND p k == 7) || s.dirty (0xF, 0) fun _ => true, 0x0701),
    (spansClash (rgns.map fun r => (r.1, r.2.1)) || rgns.any fun r => decide (v.mapBytes p < r.1 + r.2.1), 0x0702),
    ((tqs && recbufs == 0) || decide (1 < recbufs), 0x0703),
    (rgns.any fun r => r.2.1 == 0, 0x0704),
    (map && v.drcState p != 3 && v.drcState p != 4, 0x0705),
    ((List.range 6).any fun q => v.on F.NET_PORT_CFG_EN p q &&
      (v.rd F.CASK_BIND_PROD p (v.rd F.NET_PORT_CFG_RXCASK p q) != 0x21A0 + q ||
        v.rd F.CASK_BIND_CONS p (v.rd F.NET_PORT_CFG_TXCASK p q) != 0x21A8 + q), 0x0901)]

/-- A PORT record's table against R306: its words first, then its length. -/
def vrsTabCode (t : Nat) (ws : List Nat) : Option Nat :=
  let hdr := vrsHeaderOk t (ws.getD 0 0)
  let badWord := (numbered ws).any fun x => !vrsWordOk t x.1 x.2
  firstCode [(ws.isEmpty, 0x0203), (!hdr, 0x0202), (badWord, 0x0202), (ws.length != vrsLength t (ws.getD 0 0), 0x0203)]

/-- The code of VRS context `u` that breaks R306, for what a section brings. -/
def Dev.vrsCode (v : Dev) (p u : Nat) (s : CuvStage) : Option Nat :=
  let mine := s.tabs.filter fun x => x.1 == u
  let hdr := fun t => ((mine.filter fun x => x.2.1 == t).getLast?).elim 0 fun x => x.2.2.getD 0 0
  let stg := v.rd F.VRS_CFG_STG p u
  let idle := (bit stg 2 && hdr 2 % 128 == 0) || (bit stg 1 && hdr 1 % 16 == 0) || (bit stg 3 && hdr 3 % 16 == 0)
  if v.rd F.VRS_CFG_IFMT p u = 3 || s.dirty (4, u) fun _ => true then some 0x0201
  else (mine.findSome? fun x => vrsTabCode x.2.1 x.2.2).orElse fun _ => if idle then some 0x0204 else none

/-- The code of STAT context `x` that breaks R316. -/
def Dev.statCode (v : Dev) (p x : Nat) (s : CuvStage) : Option Nat :=
  if s.dirty (5, x) fun _ => true then some 0x0301
  else if !v.on F.STAT_CFG_EN p x then none
  else
    let zx := v.rd F.STAT_CFG_ZX p x
    let zy := v.rd F.STAT_CFG_ZY p x
    let zw := v.rd F.STAT_ZONE_ZW p x
    let zh := v.rd F.STAT_ZONE_ZH p x
    let nh := v.rd F.STAT_CFG_NH p x
    let w := v.rd F.STAT_SIZE_WIDTH p x
    let l := v.rd F.STAT_SIZE_LINES p x
    let hs := List.range (min nh 16)
    let mos := !v.on F.STAT_CFG_MODE p x
    let src := fun h => v.rd F.STAT_HIST_SRC p x h
    let nib := fun k => slice (v.rd F.STAT_CHMAP_MAP p x) (4 * k + 3) (4 * k)
    let out := fun lo hi n => decide (n < lo) || decide (hi < n)
    firstCode [
      (((List.range 8).any fun k => decide (4 ≤ nib k) && nib k != 0xF) ||
        hs.any fun h => decide (6 ≤ src h) || out 4 8 (v.rd F.STAT_HIST_BINSH p x h), 0x0301),
      (out 1 64 zx || out 1 32 zy || out 1 2048 zw || out 1 2048 zh || decide (16 < nh) || out 1 16384 w || out 1 16384 l, 0x0302),
      (decide (w < v.rd F.STAT_ORG_OX p x + zx * zw) || decide (l < v.rd F.STAT_ORG_OY p x + zy * zh), 0x0303),
      (hs.any fun h =>
        let a := v.rd F.STAT_HIST_ZX0 p x h
        let b := v.rd F.STAT_HIST_ZX1 p x h
        let c := v.rd F.STAT_HIST_ZY0 p x h
        let e := v.rd F.STAT_HIST_ZY1 p x h
        decide (b < a) || decide (e < c) || decide (zx ≤ b) || decide (zy ≤ e), 0x0304),
      ((mos && hs.any fun h => src h == 4 || src h == 5) ||
        decide (1024 < v.rd F.STAT_LUMA_W0 p x + v.rd F.STAT_LUMA_W1 p x + v.rd F.STAT_LUMA_W2 p x), 0x0305),
      (mos && !v.on F.VRS_MOS_CFG_EN p (v.rd F.STAT_CFG_DESC p x), 0x0306)]

/-- The sum of fractions as a numerator and a denominator. -/
def fracSum (l : List (Nat × Nat)) : Nat × Nat := l.foldl (fun a b => (a.1 * b.2 + b.1 * a.2, a.2 * b.2)) (0, 1)

/-- Whether an engine of pipe `p` is loaded above its capacity (R366): `xs` the JPEG XS engine, otherwise the core engine. -/
def Dev.blkOver (v : Dev) (p : Nat) (xs : Bool) : Bool :=
  let s := fracSum ((List.range 64).filterMap fun i =>
    let c := i / 4
    let s := i % 4
    let f := v.rd F.BLK_SCFG_FMT p c s
    if v.bsSet p c s && v.on F.BLK_CTXCFG_ENGINE p c == xs then
      let kc := if !xs && fmtCodec f == 3 then 2 else 1
      let ke := if xs then 2 else 2 ^ v.rd F.BLK_CTXCFG_EFFORT p c
      some (v.rd F.BLK_SSIZE_WIDTH p c s * v.rd F.BLK_SSIZE_HEIGHT p c s * v.rd F.BLK_CTXRATE_NUM p c * kc * ke,
        2 * v.rd F.BLK_CTXRATE_DEN p c * v.rd F.BLK_SCFG_DIV p c s)
    else none)
  decide ((if xs then 4800000000 else 2400000000) * s.2 < s.1)

/-- The highest QP of a codec (R377). -/
def qpTop (codec : Nat) : Nat := match codec with | 0 => 255 | 3 => 63 | 4 => 255 | _ => 51

/-- The code of a stream of BLK context `c` that breaks R393. -/
def Dev.bsCode (v : Dev) (p c s : Nat) : Option Nat :=
  let f := v.rd F.BLK_SCFG_FMT p c s
  let codec := fmtCodec f
  let xs := codec == 4
  let rung := !v.on F.BLK_SCFG_ROLE p c s
  let obj := v.rd F.BLK_SCFG_OBJ p c s
  let div := v.rd F.BLK_SCFG_DIV p c s
  let tiled := v.on F.BLK_SCFG_TILED p c s
  let w := v.rd F.BLK_SSIZE_WIDTH p c s
  let picw := if tiled then v.rd F.BLK_STILE_PICW p c s else w
  let grain := if codec = 2 then 16 else if xs then 128 else 64
  let mode := v.rd F.BLK_RCT_MODE p c s
  let top := Config.levelRate f
  let nt := v.rd F.BLK_SCFG_NTM1 p c s + 1
  let halo := v.rd F.BLK_SPORT_HALO p c s
  let ibits := v.rd F.BLK_SPORT_IBITS p c s
  let full := v.on F.BLK_SPORT_INFMT p c s
  firstCode [
    (v.rd F.BLK_CTXCFG_EFFORT p c == 3 || mode == 3 || decide (39 < f) || decide ((if rung then 39 else 15) < obj) || div == 0 ||
      decide (div ≤ v.rd F.BLK_SCFG_PHASE p c s) || v.rd F.BLK_CTXRATE_NUM p c == 0 || v.rd F.BLK_CTXRATE_DEN p c == 0, 0x0501),
    (v.on F.BLK_CTXCFG_ENGINE p c != xs || (xs && v.rd F.BLK_CTXCFG_EFFORT p c != 0), 0x0502),
    ((tiled && (w % grain != 0 || (codec == 1 && decide (w < 256)) || decide (picw < v.rd F.BLK_STILE_X0 p c s + w))) ||
      !Config.levelFits f picw (v.rd F.BLK_SSIZE_HEIGHT p c s) w, 0x0503),
    (full != (fmtChroma f == 2) || decide (ibits < fmtBits f) || decide (16 < ibits), 0x0504),
    ((List.range 64).any fun i => i != 4 * c + s && v.bsSet p (i / 4) (i % 4) && !v.on F.BLK_SCFG_ROLE p (i / 4) (i % 4) == rung &&
      v.rd F.BLK_SCFG_OBJ p (i / 4) (i % 4) == obj, 0x0505),
    (v.blkOver p false || v.blkOver p true, 0x0506),
    (decide (top < v.rd F.BLK_RCM_MAXBR p c s) || decide (top < v.rd F.BLK_RCT_TARGET p c s) ||
      (mode == 1 && decide (v.rd F.BLK_RCM_MAXBR p c s < v.rd F.BLK_RCT_TARGET p c s)) ||
      (mode != 2 && v.rd F.BLK_RCB_VBVMS p c s == 0) ||
      ([v.rd F.BLK_RCQ_QPMIN p c s, v.rd F.BLK_RCQ_QPMAX p c s, v.rd F.BLK_RCQ_QCQP p c s].any fun q => decide (qpTop codec < q)) ||
      (xs && mode != 0), 0x0507),
    ((tiled && (nt == 1 || decide (nt ≤ v.rd F.BLK_SCFG_TIDX p c s))) || decide (64 < halo) || (halo != 0 && !(tiled && xs)), 0x0508),
    (xs && v.rd F.BLK_SGOP_NB p c s != 0, 0x0509),
    (v.rd F.CASK_BIND_CONS p (v.rd F.BLK_SPORT_ICASK p c s) != 0x2100 + 4 * c + s ||
      v.rd F.CASK_BIND_PROD p (v.rd F.BLK_SPORT_OCASK p c s) != 0x2140 + 4 * c + s, 0x050A)]

/-- The code of BLK context `c` that breaks R393: that of its first stream in use that does. -/
def Dev.blkCode (v : Dev) (p c : Nat) (s : CuvStage) : Option Nat :=
  if s.dirty (6, c) fun _ => true then some 0x0501
  else (List.range 4).findSome? fun s => if v.bsSet p c s then v.bsCode p c s else none

/-- The SDI lane of live output `i` (R512). -/
def Dev.sdiLane (v : Dev) (p i : Nat) : Nat := v.rd F.SDI_LO_CFG_LANE p i

/-- The frame rate and reference of an SDI format (R513): numerator, denominator and the code of its FREF. -/
def sdiFormat (f : Nat) : Nat × Nat × Nat := match f with | 0 => (50, 1, 2) | 1 => (60000, 1001, 3) | _ => (60, 1, 2)

/-- The code of LIVE context `i` that breaks R512. -/
def Dev.liveCode (v : Dev) (p i : Nat) (s : CuvStage) : Option Nat :=
  if s.dirty (7, i) fun _ => true then some 0x0801
  else if !v.on F.NET_LO_CFG_EN p i then none
  else
    let sdi := v.on F.NET_LO_CFG_KIND p i
    let ess := v.rd F.NET_LO_CFG_ESS p i
    let num := v.rd F.NET_LO_RATE_NUM p i
    let den := v.rd F.NET_LO_RATE_DEN p i
    let nbuf := v.rd F.NET_LO_BUF_NBUF p i
    let fsz := v.rd F.NET_LO_BUF_FSZ p i
    let port := v.rd F.NET_LO_CFG_PORT p i
    let role := fun k => v.rd F.LANE_FCFG_ROLE p k
    let lane := v.sdiLane p i
    let fmt := v.rd F.SDI_LO_CFG_FMT p i
    let pkt := v.rd F.NET_LO_PKT_PKTBYTES p i
    let f := sdiFormat fmt
    let span := (nbuf + 1) * fsz * 2 ^ 20
    firstCode [
      (decide (6 ≤ ess) || num == 0 || den == 0 || nbuf == 0 || fsz == 0 || (sdi && fmt == 3), 0x0801),
      (if sdi then decide (5 < lane) || role lane != 3
        else decide (5 < port) || !(role port == 1 || (role port == 2 && port == 0)), 0x0802),
      (!sdi && ess != 2 && (decide (pkt < 256) || decide (8960 < pkt) || decide (v.ethMax p port < pkt) || (ess == 0 && pkt % 5 != 0)), 0x0803),
      (v.rd F.CASK_BIND_CONS p (v.rd F.NET_LO_CFG_ICASK p i) != 0x2180 + i, 0x0804),
      (sdi && (((List.range 16).any fun j =>
          j != i && v.on F.NET_LO_CFG_EN p j && v.on F.NET_LO_CFG_KIND p j && v.sdiLane p j == lane) ||
        num * f.2.1 != f.1 * den || v.flexRef p lane != f.2.2), 0x0805),
      (spanIn (v.dramRegions p) 17 (v.rd F.NET_LO_BUF_BASE p i * 2 ^ 20) span != span, 0x0806)]

/-- The BLOCK_REJECT code of a context, where it breaks a rule of its chapter. -/
def Dev.ctxCode (v : Dev) (p : Nat) (s : CuvStage) (x : Nat × Nat) : Option Nat :=
  match x.1 with
  | 0x04 => v.vrsCode p x.2 s
  | 0x05 => v.statCode p x.2 s
  | 0x06 => v.blkCode p x.2 s
  | 0x07 => v.liveCode p x.2 s
  | 0x08 => v.sfevCode p x.2
  | 0x0E => v.recCode p s
  | 0x0F => v.pipeCode p s
  | _ => none

/-- The word offset of the last record of a section that names a context; 0 where none does. -/
def ctxWord (recs : List (Nat × CuvRec)) (x : Nat × Nat) : Nat := ((recs.filter fun r => r.2.touches x).getLast?).elim 0 (·.1)

/-- The first record among those read that breaks a rule of its own (R199): with `final` all records of the section are read. -/
def Dev.cuvFirst (v : Dev) (final : Bool) (x : CuvSect) (s : CuvStage) : Option CuvErr :=
  s.body.recs.findSome? fun r => match v.recCheck final x s.maps r.2 with | .error e => some { e with word := r.1 } | .ok _ => none

/-- The checks of R199 on a section as staged, its records all read. [log entry 36: DEDUCED; log entry 37: DEDUCED] -/
def Dev.cuvCheck (d : Dev) (x : CuvSect) (s : CuvStage) : Option CuvErr :=
  let v := d.cuvView x s
  let p := x.pipe
  let recs := s.body.recs
  let ctxs := d.cuvCtxs x s.body
  let ctxs := if ctxs.contains (0xE, 0) && !x.whole then ctxs ++ (List.range 16).map fun i => (8, i) else ctxs
  let cask := (v.caskClash p).map fun k => ({ code := 0x37, det := some k, word := ctxWord recs (ctxOf .CASK_CFG k) } : CuvErr)
  let claim := (v.claimShortOf p).map fun k => ({ code := 0x38, det := some k, word := ctxWord recs (1, k) } : CuvErr)
  let block := ctxs.findSome? fun c => (v.ctxCode p s c).map fun k =>
    ({ code := 0x3B, det := some (c.1 * 2 ^ 24 + c.2 * 2 ^ 16 + k), word := ctxWord recs c } : CuvErr)
  (((v.cuvFirst true x s).orElse fun _ => cask).orElse fun _ => claim).orElse fun _ => block

/-- The records of a section up to word `w`. -/
def CuvBody.upTo (b : CuvBody) (w : Nat) : CuvBody :=
  let recs := b.recs.filter fun r => decide (r.1 < w)
  { decl := b.decl.filter fun y => recs.any fun r => match r.2 with | .region k _ => k == y.1 | _ => false, recs := recs }

/-- Pass 2 of a section (R199): its records in order, with the repair maps of those read; an error ends the parse, and an earlier record
that breaks a rule of its own comes first. What only the whole section shows is checked at its end. -/
def Dev.cuvPass2 (d : Dev) (raw : List Byte) (x : CuvSect) : CuvM CuvStage :=
  let (err, b) := d.cuvBody x raw
  let (short, maps) := d.cuvMaps x b
  let short := short.foldl (fun (a : Option CuvErr) e => match a with | some y => if e.word < y.word then some e else a | none => some e) none
  let stop := short.orElse fun _ => err
  let r : CuvM CuvStage := match stop with
    | some e =>
      let b := if short.isSome then b.upTo e.word else b
      let s := d.cuvStage x b (if short.isSome then (d.cuvMaps x b).2 else maps)
      .error (((d.cuvView x s).cuvFirst false x s).getD e)
    | none =>
      let s := d.cuvStage x b maps
      match d.cuvCheck x s with
      | some e => .error e
      | none => .ok s
  match r with
  | .error e => .error { e with sect := x.idx }
  | .ok s => .ok s

end Sys2Proof.Machine
end

