-- ==== Sys2Proof/Machine/Reset.lean ====
section
/-!
DEFINITION. The end of a cuvée job by an error, the states of a pipe and its resets (chapters 1, 2 and 5: R51 to R54, R91, R213, R217,
R716).
-/
namespace Sys2Proof.Machine

/-! ### A job that ends (R212, R213, R217) -/

/-- The device with the loader changed by `f`. -/
def Dev.updCuvl (d : Dev) (f : Cuvl → Cuvl) : Dev := d.updHub fun h => { h with cuvl := f h.cuvl }

/-- `CUVL_STAT.STATE`: 0 IDLE, 1 VERIFY, 2 STAGE, 3 STAGED, 4 SWITCH, 5 DONE, 6 FAILED. -/
def Dev.cuvState (d : Dev) : Nat := d.rd F.CUVL_STAT_STATE

/-- Every shadow write of the job is discarded, and the Veraison units it holds return to what they held (R212, R305). -/
def Dev.cuvDiscard (d : Dev) : Dev :=
  let d := d.hub.cuvl.kept.foldl (fun d x => d.updTrl x.1 fun t => { t with shd := x.2.1, sinfo := x.2.2 }) d
  let d := d.hub.cuvl.held.foldl (fun d x => d.vrsUnstage x.1 x.2) d
  d.updCuvl fun _ => {}

/-- The job ends by an error (R217). -/
def Dev.cuvFail (d : Dev) (e : CuvErr) : Dev :=
  let d := d.cuvDiscard
  let (det, d) := match e.det with | some v => (v, d) | none => d.draw
  let d := ((d.wr F.CUVL_ERR_CODE e.code).wr F.CUVL_ERR_SECTION e.sect).wr F.CUVL_ERR_WORD e.word
  ((d.wr F.CUVL_ERR_DET_DETAIL det).wr F.CUVL_STAT_STATE 6).raise 529 e.code

/-- Once every section has completed or stopped, the job is DONE, or FAILED where one stopped (R210, R213). -/
def Dev.cuvFinish (d : Dev) : Dev :=
  if d.cuvState = 4 ∧ d.hub.cuvl.sects.isEmpty then
    match d.hub.cuvl.stopped with
    | some (p, i) => d.cuvFail { code := 0x15, det := some p, sect := i }
    | none => ((d.updCuvl fun _ => {}).wr F.CUVL_STAT_STATE 5).raise 528 (d.rd F.CUVL_STAT_FORCED)
  else d

/-- Nothing of pipe `p`'s section waits any more. -/
def Cuvl.drop (c : Cuvl) (p : Nat) : Cuvl :=
  { c with
    sects := c.sects.filter fun x => x.pipe != p, regs := c.regs.filter fun x => x.1 != p, ctxs := c.ctxs.filter fun x => x.1 != p
    casks := c.casks.filter fun x => x.1 != p, recs := c.recs.filter (· != p), recPend := c.recPend.filter (· != p)
    wholes := Tab.del c.wholes p, held := c.held.filter fun x => x.1 != p, writes := Tab.del c.writes p, tabs := Tab.del c.tabs p }

/-- The bytes a pass reads, where it can read them: host memory or the boot flash. -/
def Dev.cuvSource (d : Dev) (bad : Bool) : Option (List Byte) :=
  let n := d.rd F.CUVL_LEN_LEN
  let a := d.rd64 F.CUVL_SRC_LO_ADDR_LO F.CUVL_SRC_HI_ADDR_HI
  if bad then none
  else
    match d.rd F.CUVL_CFG_SRC with
    | 0 => if d.hostOk then some (d.hostMem.reads a n) else none
    | 1 => some (d.flashReads a n)
    | _ => none

/-- The pipes that the container at the source names as targets, as far as its section table can be read. -/
def Dev.cuvTargets (d : Dev) : List Nat :=
  match d.cuvSource false with
  | some b => match cuvTable b with | .ok xs => xs.map (·.pipe) | .error _ => []
  | none => []

/-- Whether sections still wait for their switch: the job is in SWITCH, or the Hub was lost after GO, which ends the job and not the
switch-over (R49, R215). -/
def Dev.cuvSwitching (d : Dev) : Bool := d.cuvState == 4 || (d.hub.lost && !d.hub.cuvl.sects.isEmpty)

/-- A pipe reset, gate trip or PAVANE stop of pipe `p` as the loader sees it (R213): before GO the job fails, in SWITCH the section of
the pipe stops. In VERIFY the targets are those the container names; a pipe it does not yet name is noted until pass 1 ends. [log entry 38: DEDUCED] -/
def Dev.cuvPipeGone (d : Dev) (p : Nat) : Dev :=
  let st := d.cuvState
  let fail := fun (d : Dev) => d.cuvFail { code := 0x15, det := some p }
  if st = 1 then (if d.cuvTargets.contains p then fail d else d.updCuvl fun c => { c with hit := insertNum p c.hit })
  else
    match d.hub.cuvl.sects.find? fun x => x.pipe == p with
    | none => d
    | some x =>
      if st = 2 ∨ st = 3 then fail d
      else if d.cuvSwitching then
        (d.updCuvl fun c => { c.drop p with stopped := c.stopped.orElse fun _ => some (p, x.idx) }).cuvFinish.startRelease
      else d

/-! ### A pipe reset (R14, R91, R115, R466) -/

/-- What a pipe keeps over a reset: its time, its memory's contents, the cartridge seated, and, in the reset of a whole commit, the
shadow copies (R206). -/
def PipeSt.afterReset (x : PipeSt) (keep : Bool) : PipeSt :=
  { pace := if keep then { kinds := x.pace.kinds, rungs := x.pace.rungs, lives := x.pace.lives } else {}
    anchor := x.anchor, lastCopy := x.lastCopy, dram := x.dram, cel := { cart := x.cel.cart, det := x.cel.det }
    trl := if keep then { shd := x.trl.shd, sinfo := x.trl.sinfo } else {} }

/-- Whether a read of host memory belongs to an engine of pipe `p`. -/
def HostUser.ofPipe (p : Nat) : HostUser → Bool
  | .nvme _ _ => false
  | .rackDesc u _ => u == p
  | .rackData u _ => u == p
  | .press u _ => u == p

/-- Every block of pipe `p` at its reset values, `regs` saying which fields; yields of the pipe end without a record, and what the Hub
holds for the pipe's engines is dropped. [log entry 72: DEDUCED] -/
def Dev.pipeClear (d : Dev) (p : Nat) (keep : Bool) (regs : FKey → Bool) : Dev :=
  let d := (d.bistAbortPipe p).ptpPortLost p (d.rd F.TIME_PTP_PORT)
  let d := (d.updPipe p fun x => x.afterReset keep).dropRegs fun k => k.p == p && decide (p < 4) && pipeBlocks.contains k.reg.info.blk && regs k
  let d := d.updRouter fun r => { r with yields := r.yields.filter fun y => keep || y.origin != p }
  let d := d.updHub fun h => { h with
    hreq := h.hreq.filter fun x => !x.ofPipe p
    stripe := h.stripe.filter fun m => m.dst != p
    prst := h.prst.filter (· != p)
    therm := { h.therm with
      hot := h.therm.hot.filter fun s => !(decide (4 + 6 * p ≤ s) && decide (s < 10 + 6 * p))
      trip := h.therm.trip.filter fun s => !(decide (4 + 6 * p ≤ s) && decide (s < 10 + 6 * p)), copies := Tab.del h.therm.copies p }
    asm := h.asm.map fun x => (x.1, { x.2 with msgs := x.2.msgs.filter fun m => m.1 != p }) }
  (d.showTake p).pauseEff p

/-- `CUVL_GEN` of pipe `p` shows no valid generation. -/
def Dev.genClear (d : Dev) (p : Nat) : Dev :=
  ((d.wr F.CUVL_GEN_VALID 0 0 p).wr F.CUVL_GEN_SWITCHING 0 0 p).wr F.CUVL_GEN_GEN 0 0 p

/-- A pipe reset takes effect: the DRAM is parked, fields of the pipe domain return to their reset values, and the pipe is in state
`st`. The reset of a whole commit keeps the shadow copies and `CUVL_GEN`. [log entry 72: DEDUCED] -/
def Dev.pipeReset (d : Dev) (p st : Nat) (keep : Bool := false) : Dev :=
  let d := if keep then d else (d.cuvPipeGone p).genClear p
  ((d.dramPark p).pipeClear p keep fun k => k.dom == .pipe && !k.sticky).wr F.PCTL_STAT_STATE st p

/-- Whether every take queue of pipe `p` is closed with its stream on the cartridge. -/
def Dev.takesShut (d : Dev) (p : Nat) : Bool := (List.range 8).all fun t => decide (d.tqState p t < 2)

/-- A write of `PCTL_CTL.PWRUP` (R91): discarded but in OFF. [log entry 71: DEDUCED] -/
def Dev.pctlPwrup (d : Dev) (p : Nat) : Dev := if d.rd F.PCTL_STAT_STATE p = 0 then d.wr F.PCTL_STAT_STATE 1 p else d

/-- A write of `PCTL_CTL.PRST` (R91): in RUN the takes of the pipe close first, and the reset waits (R45, R716). [log entry 70: DEDUCED] -/
def Dev.pctlPrst (d : Dev) (p : Nat) : Dev :=
  match d.rd F.PCTL_STAT_STATE p with
  | 1 => d.pipeReset p 1
  | 2 => d.pipeReset p 1
  | 3 => (d.takeClosePipe p).updHub fun h => { h with prst := insertNum p h.prst }
  | 4 => ((d.arunEnd p 4).takeClosePipe p).updHub fun h => { h with prst := insertNum p h.prst }
  | 5 => if d.on F.PCTL_STAT_GATE_LATCH p then d else (d.pipeClear p false fun k => k.dom == .pipe && !k.sticky).wr F.PCTL_STAT_STATE 1 p
  | _ => d

def execPctlPwrup (p : Pipe) (s : State) : Out := bar2 .PCTL p s fun d => d.pctlPwrup p

def execPctlPrst (p : Pipe) (s : State) : Out := bar2 .PCTL p s fun d => d.pctlPrst p

/-- A requested reset takes effect once the takes are on the cartridge: the cartridge unmounts and the pipe is reset (R716). -/
def Dev.pipeResetDone (d : Dev) (p : Nat) : Dev :=
  if d.hub.prst.contains p && d.takesShut p then (d.cartUnmount p).pipeReset p 1 else d

def execPipeReset (p : Pipe) (s : State) : Out := run s fun d => d.pipeResetDone p

/-! ### A gate trip (R51 to R54) -/

/-- The FS of the earliest frame of take `num` that the slice of pipe `p` received and did not commit; the present time where there is
none (R52). [log entry 71: DEDUCED] -/
def Dev.lostFrom (d : Dev) (p num : Nat) : Nat × Nat :=
  let fs := (List.range 8).flatMap fun t =>
    let q := d.tq p t
    if q.take = num then (q.recs.filter fun u => u.frame).map fun u => u.fs else []
  match fs with
  | [] => ptpOf (d.pipeTime p)
  | a :: rest => rest.foldl (fun m x => if ptpNum x < ptpNum m then x else m) a

/-- The Hub tells the pipes that still carry take `num` what pipe `p` lost (R52). [log entry 71: DEDUCED] -/
def Dev.stripeTell (d : Dev) (p num : Nat) : Dev :=
  let t := d.lostFrom p num
  let dst := (List.range 4).filter fun n => n != p && (List.range 8).any fun q => (d.tq n q).take == num
  let d := d.updTake num fun r => { r with lost := r.lost.filter (fun x => x.1 != p) ++ [(p, t)] }
  d.updHub fun h => { h with stripe := h.stripe ++ dst.map fun n => ⟨n, num, p, t⟩ }

/-- Ten seconds of the counter. -/
def tripWindow : Nat := cOfNs 10000000000

/-- The gate of pipe `p` trips (R51, R54, R55): the pipe and its DRAM lose their state, the cartridge its power; a second trip within
10 s latches the gate off. [log entry 71: DEDUCED] -/
def Dev.gateTrip (d : Dev) (p : Nat) : Dev :=
  let st := d.rd F.PCTL_STAT_STATE p
  if st = 0 ∨ st = 5 then d
  else
    let again := match Tab.find d.hub.trips p with | some c => decide (cSince c d.c < tripWindow) | none => false
    let d := if d.hub.lost then d else (d.takesOf p).foldl (fun d num => d.stripeTell p num) d
    let d := (((d.cuvPipeGone p).genClear p).cartPowerLoss p).dramLose p
    let d := (d.pipeClear p false fun k => k.reg.info.blk != .PCTL || (k.dom == .pipe && !k.sticky)).wr F.PCTL_STAT_STATE 5 p
    let d := (d.updHub fun h => { h with trips := Tab.put h.trips p d.c }).when again fun d => d.wr F.PCTL_STAT_GATE_LATCH 1 p
    d.raise 513 p

def execPipeGateTrip (p : Pipe) (s : State) : Out := run s fun d => d.gateTrip p

/-- The SEQ of the next frame of a virtual channel's stream: that of the next frame that waits, otherwise the one the split gives next
(R337). -/
def Dev.nextSeq (d : Dev) (p v : Nat) : Nat :=
  match ((d.enc p v).items ++ (d.vc p v).behind).findSome? fun i => match i with | .fs _ seq _ => some seq | _ => none with
  | some n => n
  | none => d.rd F.PXR_ENC_VSEQ_SEQ p v

/-- Every stream of take `num` that pipe `p` carries gets a STRIPE_LOST record (R52, R337); in one that has not opened it waits for the
stream descriptor. -/
def Dev.stripeRecord (d : Dev) (p num form tripped : Nat) (start fin : Nat × Nat) : Dev :=
  (List.range 8).foldl (fun d t =>
    let q := d.tq p t
    if q.take = num ∧ d.tqState p t = 2 then
      d.encGapNext p q.vc (d.gapRec p q.vc form 3 (d.nextSeq p q.vc) 0 0 start fin tripped)
    else if q.take = num ∧ d.tqState p t = 1 then
      d.putTq p t { q with early := q.early ++ [d.gapRec p (d.rd F.CELP_TQ_CFG_VC p t) form 3 0 0 0 start fin tripped] }
    else d) d

/-- The oldest message for pipe `p` arrives. [log entry 71: DEDUCED] -/
def Dev.stripeMessage (d : Dev) (p : Nat) : Dev :=
  match d.hub.stripe.find? fun m => m.dst == p with
  | some m =>
    let d := d.updHub fun h => { h with stripe := h.stripe.eraseP fun x => x.dst == p }
    d.stripeRecord p m.take 2 m.pipe m.time m.time
  | none => d

def execStripeLostTimeMessage (p : Pipe) (s : State) : Out := run s fun d => d.stripeMessage p

/-- A restored pipe rejoins the takes it was lost to, at the frame seam of this instant: its queues open at the frame that starts now,
and the surviving streams record the end of the gap at that frame's time (R54). [log entry 71: DEDUCED] -/
def Dev.stripeRejoin (d : Dev) (p : Nat) : Dev :=
  if d.pipeRuns p && d.cartState p == 4 && d.roleState p 0 == 4 && !d.hub.lost then
    let t := d.sfeStamp p
    d.hub.takes.foldl (fun d r =>
      match r.lost.find? fun x => x.1 == p with
      | some (_, start) =>
        if r.ended then d
        else
          let d := r.qs.foldl (fun d (x : Nat × Nat) =>
            if x.1 = p ∧ d.tqState p x.2 = 1 then d.putTq p x.2 { take := r.num, tstart := t } else d) d
          let d := (List.range 4).foldl (fun d n => if n = p then d else d.stripeRecord n r.num 3 p start (ptpOf t)) d
          d.updTake r.num fun y => { y with lost := y.lost.filter fun x => x.1 != p }
      | none => d) d
  else d

def execTrippedPipeRejoin (p : Pipe) (s : State) : Out := run s fun d => d.stripeRejoin p

end Sys2Proof.Machine
end

