-- ==== Sys2Proof/Machine/Arun.lean ====
section
/-!
DEFINITION. Time copies and autonomous run (chapters 1 and 15: R43 to R45, R492, R494).
-/
namespace Sys2Proof.Machine

/-! ### Entry and end (R43, R44) -/

/-- Whether the units of a stream go to host memory (0) or to the Hub assembly path (1): its output cask feeds the assembly path, or a
racking channel whose descriptor, or else whose ring, lies in host memory. -/
def Dev.bsAway (d : Dev) (p c s : Nat) : Option Nat :=
  let e := d.rd F.CASK_BIND_CONS p (d.bsRd F.BLK_SPORT_OCASK p c s)
  let ch := e % 16
  if e / 2 ^ 12 = 4 then some 1
  else if e / 2 ^ 12 = 3 then
    match (d.rch p ch).job with
    | some j => if j.dst = 3 then some 0 else none
    | none => if d.rackHostRing p ch then some 0 else none
  else none

/-- A frame comes to a stream's port. In autonomous run a rendition to host memory or to the assembly path stops at this seam, as a yield
of the stopped stream's rank (R44); a live output fed by the assembly path yields at its next slot, whose frame does not come (R508). [log entry 70: DEDUCED] -/
def Dev.bsFrame (d : Dev) (p c s t : Nat) (psn : Bool) : Dev :=
  let d :=
    match (if d.inArun p && d.bsOn p c s && !d.on F.BLK_SSTAT_STOPPED p c s then d.bsAway p c s else none) with
    | some k => (d.bsStop p c s).yieldBegin {
        origin := p, yrank := d.bsRank p c s, krank := 1, res := 4 + k, object := d.bsObj p c s, cause := if k = 0 then 6 else 8, began := 0 }
    | none => d
  d.bsInput p c s t psn

/-- A pipe in RUN enters autonomous run and holdover (R43, R494): the record of the run starts, and its racking to and from host memory
ends (R132). [log entry 70: DEDUCED] -/
def Dev.arunEnter (d : Dev) (p : Nat) : Dev :=
  if d.rd F.PCTL_STAT_STATE p ≠ 3 then d
  else
    let t := d.pipeTime p
    let d := ((d.wr F.NET_TIME_STAT_HOLD 1 p).wr F.NET_TIME_STAT_RESYNC 0 p).wr F.PCTL_STAT_STATE 4 p
    let d := (((d.wr F.PCTL_ARUN_STAT_VALID 1 p).wr F.PCTL_ARUN_STAT_END 0 p).wr F.PCTL_ARUN_STAT_YIELDS 0 p).wr F.PCTL_ARUN_FRAMES_FRAMES 0 p
    let d := ((d.wr F.PCTL_ARUN_TNS_NS (ptpNs t) p).wr F.PCTL_ARUN_TS_LO_S_LO (ptpSec t % 2 ^ 32) p).wr
      F.PCTL_ARUN_TS_HI_S_HI (ptpSec t / 2 ^ 32) p
    d.rackHostGone p

/-- The first copy after a holdover: the pipe is in RUN again, the stopped streams go on, and `NET_TIME_STAT.RESYNC` is set (R494). [log entry 70: DEDUCED] -/
def Dev.arunLeave (d : Dev) (p : Nat) : Dev :=
  if d.on F.NET_TIME_STAT_HOLD p then
    let d := (d.wr F.NET_TIME_STAT_HOLD 0 p).wr F.NET_TIME_STAT_RESYNC 1 p
    if d.inArun p then
      let stopped := d.router.yields.filter fun y => arunYield p y
      let d := d.wr F.PCTL_STAT_STATE 3 p
      let d := d.yieldEnd fun y => arunYield p y
      stopped.foldl (fun d y => (List.range 64).foldl (fun d i =>
        let c := i / 4
        let s := i % 4
        if d.on F.BLK_SSTAT_STOPPED p c s && d.bsRank p c s == y.yrank && d.bsObj p c s == y.object && !d.rungShed p y.object then
          d.bsRestore p c s
        else d) d) d
    else d
  else d.wr F.NET_TIME_STAT_RESYNC 0 p

/-- 1 ms without a copy has passed in pipe `p`. -/
def execAutonomousRunEntry (p : Pipe) (s : State) : Out := run s fun d => d.arunEnter p

/-- LIMIT has passed: the pipe closes its take (R45). -/
def execArunLimitExpiry (p : Pipe) (s : State) : Out := run s fun d =>
  if d.inArun p then (d.arunEnd p 1).takeClosePipe p else d

/-- A pipe that reaches RUN 1 ms or more after its last copy enters autonomous run at once (R43). -/
def Dev.arunLate (d : Dev) (p : Nat) : Dev :=
  if cOfNs 1000000 ≤ cSince (d.pipe p).lastCopy d.c then d.arunEnter p else d

/-! ### The copy strobe (R492) -/

/-- A pipe's copies of the thermal thresholds, WARN, THROTTLE, PAVANE and HYST (chapter 22). -/
def Dev.thermCopy (d : Dev) (p : Nat) : Dev :=
  let x := (d.rd F.THERM_CFG_WARN, d.rd F.THERM_CFG_THROTTLE, d.rd F.THERM_CFG_PAVANE, d.rd F.THERM_CFG_HYST)
  d.updHub fun h => { h with therm := { h.therm with copies := Tab.put h.therm.copies p x } }

/-- A copy strobe: the Hub's anchor moves on, an applied step reaches the audio paths, and every powered pipe takes its copy. A lost
Hub sends none (R42). [log entry 70: DEDUCED] -/
def Dev.copyStrobe (d : Dev) : Dev :=
  if d.hub.lost then d
  else
    let due := d.hub.ptp.apply.isSome
    let d := d.hubStrobe
    let d := d.when (due && d.hub.ptp.apply.isNone) Dev.audStep
    let d := (List.range 4).foldl (fun d p => if d.powered p then ((d.pipeCopy p).arunLeave p).thermCopy p else d) d
    d.qdlHold

def execTimeCopyStrobe (s : State) : Out := run s fun d => d.copyStrobe

end Sys2Proof.Machine
end

