-- ==== Sys2Proof/Machine/Stat.lean ====
section
/-!
DEFINITION. Image statistics (chapter 9): contexts, zones and histograms, the three banks, and the Hub's merge of stripes.
-/
namespace Sys2Proof.Machine

/-- Context `x` of pipe `p`. -/
def Dev.sctx (d : Dev) (p x : Nat) : StatCtx := Tab.get {} (d.pipe p).stats x

/-- The device with a context replaced. -/
def Dev.putSctx (d : Dev) (p x : Nat) (c : StatCtx) : Dev := d.updPipe p fun s => { s with stats := Tab.set {} s.stats x c }

/-- The zone a position lies in, where it lies in the grid (R313). -/
def Dev.statZone (d : Dev) (p x col line : Nat) : Option (Nat × Nat) :=
  let ox := d.rd F.STAT_ORG_OX p x
  let oy := d.rd F.STAT_ORG_OY p x
  let zw := d.rd F.STAT_ZONE_ZW p x
  let zh := d.rd F.STAT_ZONE_ZH p x
  if ox ≤ col ∧ oy ≤ line ∧ col < ox + d.rd F.STAT_CFG_ZX p x * zw ∧ line < oy + d.rd F.STAT_CFG_ZY p x * zh then
    some ((col - ox) / zw, (line - oy) / zh)
  else none

/-- The histograms of context `x` that cover a zone (R314). -/
def Dev.statHists (d : Dev) (p x : Nat) (z : Nat × Nat) : List Nat :=
  (List.range (d.rd F.STAT_CFG_NH p x)).filter fun h =>
    decide (d.rd F.STAT_HIST_ZX0 p x h ≤ z.1) && decide (z.1 ≤ d.rd F.STAT_HIST_ZX1 p x h) &&
      decide (d.rd F.STAT_HIST_ZY0 p x h ≤ z.2) && decide (z.2 ≤ d.rd F.STAT_HIST_ZY1 p x h)

/-- Adds one value of channel `k` to a zone. -/
def StatBank.addZone (b : StatBank) (z : Nat × Nat) (k v : Nat) : StatBank :=
  let key := 4 * (b.zx * z.2 + z.1) + k
  let (s, n) := Tab.get (0, 0) b.zones key
  { b with zones := Tab.put b.zones key (s + v, n + 1) }

/-- Counts a value in histogram `h` (R314). -/
def StatBank.addBin (b : StatBank) (h binsh v : Nat) : StatBank :=
  let key := 256 * h + min 255 (v / 2 ^ binsh)
  { b with bins := Tab.put b.bins key (Tab.get 0 b.bins key + 1) }

/-- A sample of a mosaic (R312): it counts toward the channel of its KIND; FOCUS sites, reserved and excluded kinds count
nowhere. -/
def Dev.statSample (d : Dev) (p x col line v : Nat) (b : StatBank) : StatBank :=
  match d.statZone p x col line with
  | none => b
  | some z =>
    let m := d.rd F.STAT_CFG_DESC p x
    let pw := max 1 (d.rd F.VRS_MOS_CFG_PW p m)
    let ph := max 1 (d.rd F.VRS_MOS_CFG_PH p m)
    let xs := (d.rd F.SFE_STRIPE_X0_X0 p + d.rd F.STAT_COL0_COL0 p x + col + d.rd F.VRS_MOS_CFG_XPH p m) % pw
    let ys := (line + d.rd F.VRS_MOS_CFG_YPH p m) % ph
    let kind := (d.mosSites p m).getD (8 * ys + xs) 0 % 16
    let ch := slice (d.rd F.STAT_CHMAP_MAP p x) (4 * kind + 3) (4 * kind)
    if kind < 8 ∧ ch < 4 then
      (d.statHists p x z).foldl
        (fun b h => if d.rd F.STAT_HIST_SRC p x h = ch then b.addBin h (d.rd F.STAT_HIST_BINSH p x h) v else b)
        (b.addZone z ch v)
    else b

/-- A pixel of RGB mode counts toward all four channels (R312, R314). -/
def Dev.statPixel (d : Dev) (p x col line : Nat) (c : List Nat) (b : StatBank) : StatBank :=
  match d.statZone p x col line with
  | none => b
  | some z =>
    let g := fun i => c.getD i 0
    let luma := (d.rd F.STAT_LUMA_W0 p x * g 0 + d.rd F.STAT_LUMA_W1 p x * g 1 + d.rd F.STAT_LUMA_W2 p x * g 2 + 512) / 1024
    let val := fun src => if src < 4 then g src else if src = 4 then luma else max (g 0) (max (g 1) (g 2))
    (d.statHists p x z).foldl
      (fun b h => b.addBin h (d.rd F.STAT_HIST_BINSH p x h) (val (d.rd F.STAT_HIST_SRC p x h)))
      ((List.range 4).foldl (fun b k => b.addZone z k (g k)) b)

/-- A bank for a new frame under the configuration in force. -/
def Dev.statFresh (d : Dev) (p x : Nat) : StatBank :=
  { zx := d.rd F.STAT_CFG_ZX p x, zy := d.rd F.STAT_CFG_ZY p x,
    hists := (List.range (d.rd F.STAT_CFG_NH p x)).map fun h => (d.rd F.STAT_HIST_SRC p x h, d.rd F.STAT_HIST_BINSH p x h),
    gen := d.rd F.CUVL_GEN_GEN 0 p }

/-- Shows the banks in `STAT_RD`. -/
def Dev.statShow (d : Dev) (p x : Nat) : Dev :=
  let c := d.sctx p x
  let d := (d.wrb F.STAT_RD_HELD c.held.isSome p x).wrb F.STAT_RD_NEWER c.latest.isSome p x
  d.wr F.STAT_RD_HSEQ (match c.held with | some b => b.seq % 2 ^ 16 | none => 0) p x

/-- The seam (R317): the frame in FILL closes and becomes LATEST, STAT_READY is raised, and with MERGE set the result goes to
the Hub. -/
def Dev.statSeam (d : Dev) (p x : Nat) (flushed : Bool) : Dev :=
  let c := d.sctx p x
  let seq := (c.seq + 1) % 2 ^ 32
  let b := { c.fill with
    seq := seq, time := ptpOf (d.pipeTime p), lines := c.y, flushed := flushed
    short := decide (c.y < d.rd F.STAT_SIZE_LINES p x) }
  let merge := d.on F.STAT_CFG_MERGE p x && !d.hub.lost
  let d := d.putSctx p x { c with
    begun := false, x := 0, y := 0, half := none, plines := 0, latest := some b, seq := seq, sent := if merge then some b else none }
  (d.statShow p x).raiseP p 43 (pack [(2, x), (16, seq)])

/-- One token of a context's input (R311, R312). [log entry 44: DEDUCED] -/
def Dev.statToken (d : Dev) (p x : Nat) (t : Token) (flushed : Bool) : Dev :=
  let c := d.sctx p x
  let c := if c.begun then c else { c with begun := true, fill := d.statFresh p x, x := 0, y := 0, half := none }
  let rgb := d.on F.STAT_CFG_MODE p x
  let c :=
    if rgb then
      match c.half with
      | none => { c with half := some t }
      | some h =>
        let psn := h.flags.psn || t.flags.psn
        let f := if psn then { c.fill with poison := c.fill.poison + 1 }
          else d.statPixel p x c.x c.y [laneA h.data, laneB h.data, laneA t.data, laneB t.data] c.fill
        { c with half := none, fill := f, x := c.x + 1 }
    else if t.flags.psn then { c with fill := { c.fill with poison := c.fill.poison + 2 }, x := c.x + 2 }
    else
      { c with fill := d.statSample p x (c.x + 1) c.y (laneB t.data) (d.statSample p x c.x c.y (laneA t.data) c.fill), x := c.x + 2 }
  let c := match c.half with
    | some h => if t.flags.eol && h.flags.psn then { c with half := none, fill := { c.fill with poison := c.fill.poison + 1 } } else c
    | none => c
  let c := if t.flags.eol then { c with x := 0, y := c.y + 1, half := none } else c
  let d := d.putSctx p x c
  if t.flags.eof then d.statSeam p x flushed else d

/-- What a context reads from its cask (R154 to R156, R311); with EN clear it accepts and discards. -/
def Dev.statInput (d : Dev) (p x : Nat) (i : Delivered) : Dev :=
  if !d.on F.STAT_CFG_EN p x then d
  else
    match i with
    | .nothing => d
    | .flushed => (d.putSctx p x { d.sctx p x with plines := 0 }).statToken p x cutToken true
    | .word w _ =>
      let lines := d.rd F.STAT_SIZE_LINES p x
      let (ts, n) := portTokens (b2n (d.on F.STAT_CFG_PACK p x) * 2 ^ 29 + lines * 2 ^ 6) (d.sctx p x).plines w
      ts.foldl (fun d t => d.statToken p x t false) (d.putSctx p x { d.sctx p x with plines := n })

/-- A context consumes one word of cask `k`, which names it as its consumer (fixed-block port 0x070 + x). -/
def execStatInputWord (p : Pipe) (x : Fin 4) (k : Fin 128) (flaw : Flaw) (s : State) : Out := run s fun d =>
  if d.rd F.CASK_BIND_CONS p k = 0x2070 + x.val then
    let (i, d) := d.caskGet p k flaw
    d.statInput p x i
  else d

/-- RELEASE frees the held bank (R318). -/
def Dev.statRelease (d : Dev) (p x : Nat) : Dev := (d.putSctx p x { d.sctx p x with held := none }).statShow p x

/-- HOLD makes LATEST the held bank and frees the one held before; with no LATEST it changes nothing (R318). -/
def Dev.statHold (d : Dev) (p x : Nat) : Dev :=
  let c := d.sctx p x
  match c.latest with
  | some b => (d.putSctx p x { c with held := some b, latest := none }).statShow p x
  | none => d

def execStatHold (p : Pipe) (x : Fin 4) (s : State) : Out := bar2 .STAT p s fun d => d.statHold p x

def execStatRelease (p : Pipe) (x : Fin 4) (s : State) : Out := bar2 .STAT p s fun d => d.statRelease p x

/-- A write of `STAT_RD`: RELEASE first, then HOLD (R318). -/
def Dev.statRd (d : Dev) (p x w : Nat) : Dev :=
  let d := if bit w 17 then d.statRelease p x else d
  if bit w 16 then d.statHold p x else d

/-- The word of the readout window at offset `o` (R319): the HELD bank, 0 with none held. -/
def Dev.statWindow (d : Dev) (p x o : Nat) : Nat :=
  match (d.sctx p x).held with
  | none => 0
  | some b =>
    if o = 0 then
      2 ^ 31 + b2n (b.poison != 0) * 2 ^ 30 + b2n b.flushed * 2 ^ 29 + b2n b.short * 2 ^ 28 + b.gen % 2 ^ 16
    else if o = 4 then b.seq
    else if o = 8 then b.time.1
    else if o = 0xC then b.time.2 % 2 ^ 32
    else if o = 0x10 then b.time.2 / 2 ^ 32 % 2 ^ 16
    else if o = 0x14 then b.poison % 2 ^ 32
    else if o = 0x18 then b.zx % 128 * 2 ^ 25 + b.zy % 64 * 2 ^ 19 + b.hists.length % 32 * 2 ^ 14
    else if o = 0x1C then b.lines % 2 ^ 15
    else if o < 0x40 then 0
    else if o < 0x10040 then
      let n := (o - 0x40) / 8
      if n < 4 * b.zx * b.zy then
        let (s, c) := Tab.get (0, 0) b.zones n
        let v := s % 2 ^ 40 + c % 2 ^ 24 * 2 ^ 40
        if (o - 0x40) % 8 = 0 then v % 2 ^ 32 else v / 2 ^ 32
      else 0
    else
      let n := (o - 0x10040) / 4
      if n < 256 * b.hists.length then Tab.get 0 b.bins n % 2 ^ 32 else 0

/-- A context's switch or a pipe reset: sequence and FILL start anew; a held bank stays readable over a switch (R317, R318). -/
def Dev.statSwitch (d : Dev) (p x : Nat) : Dev :=
  let c := d.sctx p x
  (d.putSctx p x { held := c.held, latest := c.latest }).statShow p x

/-! ### Merging stripes (R320 to R322) -/

/-- The ring size exponent of group `g` as applied: outside 4 to 12 it is 4. -/
def Dev.stmRsize (d : Dev) (g : Nat) : Nat :=
  let r := d.rd F.HUB_STM_CFG_RSIZE 0 g
  if 4 ≤ r ∧ r ≤ 12 then r else 4

/-- The words of a merged record (R321); the stripes in ascending INDEX order. -/
def Dev.mergeWords (d : Dev) (g : Nat) (parts : List (Nat × StatBank)) (seq : Nat) : List Nat :=
  let order := (List.range 16).flatMap fun i => parts.filter fun x => d.rd F.SFE_STRIPE_INDEX x.1 == i
  let zxt := (parts.map fun x => x.2.zx).sum
  let zy := match parts with | x :: _ => x.2.zy | [] => 0
  let nh := match parts with | x :: _ => x.2.hists.length | [] => 0
  let pipes := ((List.range 4).map fun n => if parts.any fun x => x.1 == n then 2 ^ n else 0).sum
  let named := d.rd F.HUB_STM_CFG_PIPES 0 g
  let first := parts.foldl (fun (t : Nat × Nat) x => if x.2.time.2 < t.2 ∨ (x.2.time.2 = t.2 ∧ x.2.time.1 < t.1) then x.2.time else t)
    (match parts with | x :: _ => x.2.time | [] => (0, 0))
  let flag := ((List.range 4).map fun n => if parts.any fun x => x.1 == n && (x.2.poison != 0 || x.2.flushed || x.2.short) then 2 ^ n else 0).sum
  let zxOf := fun n => match parts.find? fun x => x.1 == n with | some x => x.2.zx | none => 0
  let head := [pipes * 2 ^ 20 + (named - Nat.land named pipes) * 2 ^ 16 + zxt % 2 ^ 9, nh * 2 ^ 8 + zy, first.1, first.2 % 2 ^ 32,
    first.2 / 2 ^ 32, seq, flag, 0, zxOf 0, zxOf 1, zxOf 2, zxOf 3, 0, 0, 0, 0]
  let zones := (List.range zy).flatMap fun j => order.flatMap fun x => (List.range x.2.zx).flatMap fun i =>
    (List.range 4).flatMap fun k =>
      let (s, c) := Tab.get (0, 0) x.2.zones (4 * (x.2.zx * j + i) + k)
      let v := s % 2 ^ 40 + c % 2 ^ 24 * 2 ^ 40
      [v % 2 ^ 32, v / 2 ^ 32]
  let bins := (List.range (256 * nh)).map fun n => (parts.map fun x => Tab.get 0 x.2.bins n).sum % 2 ^ 32
  head ++ zones ++ bins

/-- A merge closes: the record is written to the group's ring, or dropped with a cause (R320, R322; during an FLR as R553
states). [log entry 44: DEDUCED; log entry 81: DEDUCED] -/
def Dev.mergeClose (d : Dev) (g : Nat) : Dev :=
  let m := Tab.get {} d.hub.merges g
  let d := d.updHub fun h => { h with merges := Tab.set {} h.merges g { m with open_ := false, t0 := 0, parts := [] } }
  match m.parts with
  | [] => d
  | x :: rest =>
    let same := rest.all fun y => y.2.zy == x.2.zy && y.2.hists == x.2.hists
    let err := fun (d : Dev) (cause : Nat) => d.raise 536 (pack [(2, g), (2, cause)])
    if !same then err d 1
    else
      let ws := d.mergeWords g m.parts m.seq
      let slot := 1024 * d.rd F.HUB_STM_CFG_SLOT 0 g
      let n := 2 ^ d.stmRsize g
      let tail := d.rd F.HUB_STM_TAIL_TAIL 0 g
      if slot < 4 * ws.length then err d 2
      else if !d.hostOk then d.wr F.HUB_STM_TAIL_OVF 1 0 g
      else if (tail + 1) % n = d.rd F.HUB_STM_HEAD_HEAD 0 g then err (d.wr F.HUB_STM_TAIL_OVF 1 0 g) 3
      else
        let base := d.rd64 F.HUB_STM_RING_LO_BASE_LO F.HUB_STM_RING_HI_BASE_HI 0 g
        let d := (d.hostWords (base + slot * tail) ws).wr F.HUB_STM_TAIL_TAIL ((tail + 1) % n) 0 g
        let d := d.updHub fun h => { h with merges := Tab.upd {} h.merges g fun y => { y with seq := (m.seq + 1) % 2 ^ 32 } }
        d.raise 535 (pack [(2, g), (16, m.seq)])

/-- A result reaches the Hub (R320): it opens, joins or closes a merge of its group. -/
def Dev.mergeArrive (d : Dev) (p x : Nat) : Dev :=
  let c := d.sctx p x
  match c.sent with
  | none => d
  | some b =>
    let d := d.putSctx p x { c with sent := none }
    let g := d.rd F.STAT_CFG_MGRP p x
    if d.hub.lost || !d.on F.HUB_STM_CFG_EN 0 g || !bit (d.rd F.HUB_STM_CFG_PIPES 0 g) p then d
    else
      let again := (Tab.get {} d.hub.merges g).parts.any fun y => y.1 == p
      let d := if again then d.mergeClose g else d
      let m := Tab.get {} d.hub.merges g
      let m := { m with open_ := true, t0 := if m.open_ then m.t0 else d.c, parts := m.parts ++ [(p, b)] }
      let d := d.updHub fun h => { h with merges := Tab.set {} h.merges g m }
      let all := (bitsOf (d.rd F.HUB_STM_CFG_PIPES 0 g) 4).all fun n => m.parts.any fun y => y.1 == n
      if all then d.mergeClose g else d

def execStatResultArrival (p : Pipe) (x : Fin 4) (s : State) : Out := run s fun d => d.mergeArrive p x

/-- MWIN has passed since the merge of group `g` opened (R320). -/
def execStatMergeTimeout (g : Fin 4) (s : State) : Out := run s fun d =>
  if (Tab.get {} d.hub.merges g).open_ && !d.hub.lost then d.mergeClose g else d

end Sys2Proof.Machine
end

