-- ==== Sys2Proof/Machine/Cuvl.lean ====
section
/-!
DEFINITION. The cuvée loader's job and the switch of regions and contexts (chapters 4 and 5: R166 to R170, R174, R196 to R216).
-/
namespace Sys2Proof.Machine

/-! ### Regions (R167 to R170) -/

/-- The inputs of region `r` (R167). -/
def Dev.regionInputs (d : Dev) (p r : Nat) : List Sink := (d.sinks p).filter fun k => d.sinkRegion p k == some r && d.isInput p k

/-- Whether every input of region `r` has passed its EOF. -/
def Dev.inputsPassed (d : Dev) (p r : Nat) : Bool := (d.regionInputs p r).all fun k => (d.trl p).passed.contains (r, k)

/-- Whether nothing of region `r` is under way: no token in its buffers, routes or windows, and every enabled element at LOOP with its
latch clear (R167). A read port's tokens are those of the next frame, which wait at the input. -/
def Dev.regionQuiet (d : Dev) (p r : Nat) : Bool :=
  let t := d.trl p
  let tokens := t.roots.all fun x =>
    match x.1 with
    | .port _ _ => true
    | k => d.rootRegion p k != some r || x.2.toks.isEmpty
  let ports := t.ports.all fun x => d.physRegion p (x.1 / 4) != some r || (x.2.half.isNone && x.2.out.isEmpty)
  let els := (List.range 1024).all fun x =>
    d.tileRegion p (x / 16) != some r ||
      (let e := 16 * d.physTile p (x / 16) + x % 16
       let cfg := cfgWord64 t.act (oElem e)
       let s := d.elem p e
       !bit cfg 63 || (!s.busy && s.pc == slice cfg 56 52 && s.latch == {}))
  tokens && ports && els

/-- The words of a table outside `n` addresses from `a`. -/
def clearSpan (m : Tab Nat) (a n : Nat) : Tab Nat := m.filter fun x => !(decide (a ≤ x.1) && decide (x.1 < a + n))

/-- Tile windows, as (tile, window), lose what they hold. -/
def Trl.clearWins (t : Trl) (ws : List (Nat × Nat)) : Trl :=
  ws.foldl (fun t x =>
    let c := WinCfg.ofWord (cfgWord64 t.act (oWin x.1 x.2))
    { t with wins := Tab.del t.wins (16 * x.1 + x.2), lm := if c.en then clearSpan t.lm (16384 * x.1 + c.base) (c.len * c.depth) else t.lm }) t

/-- Cluster windows, as (cluster, window), lose what they hold. -/
def Trl.clearCwins (t : Trl) (ws : List (Nat × Nat)) : Trl :=
  ws.foldl (fun t x =>
    let c := WinCfg.ofCluster (cfgWord64 t.act (oCwin x.1 x.2))
    { t with cwins := Tab.del t.cwins (32 * x.1 + x.2), ls := if c.en then clearSpan t.ls (2 ^ 20 * x.1 + c.base) (c.len * c.depth) else t.ls }) t

/-- The repair maps staged for pipe `p`, by cluster. -/
def Dev.stagedMaps (d : Dev) (p : Nat) : Tab (Option Nat) :=
  (List.range 4).filterMap fun c => (Tab.find d.hub.cuvl.maps (4 * p + c)).map fun m => (c, m)

/-- The map in force of cluster `c`. -/
def Dev.mapNow (d : Dev) (p c : Nat) : Option Nat :=
  if d.on F.TRL_RPR_MAP_USED p c then some (d.rd F.TRL_RPR_MAP_LSLOT p c) else none

/-- A map takes effect. TRL_REMAP is raised where the load remaps a slot, one that was on the spare before among them; `slots` are those
the load covers (R173, R174). -/
def Dev.mapApply (d : Dev) (p c : Nat) (m : Option Nat) (slots : Nat → Bool) : Dev :=
  let d := d.putMap p c m
  match m with
  | some j => d.when (slots j) fun d => d.raiseP p 28 (pack [(2, c), (4, j)])
  | none => d

/-- The repair state the registers show of every region and cluster of pipe `p`. -/
def Dev.showRepair (d : Dev) (p : Nat) : Dev :=
  let spare := fun (x : RegionDecl) => (List.range 4).any fun c => match d.mapNow p c with | some j => bit x.tiles (16 * c + j) | none => false
  let d := (List.range 16).foldl (fun d r => d.wrb F.TRL_REG_STAT_REMAP (spare (Tab.get {} (d.trl p).info r)) p r) d
  (List.range 4).foldl (fun d c => d.rprPending p c) d

/-- After a change of routes: a source that nothing takes from drops its tokens, and a token that every consumer has accepted leaves. -/
def Dev.rootSweep (d : Dev) (p : Nat) : Dev :=
  (d.trl p).roots.foldl (fun d x =>
    let cs := d.consumers p x.1
    if cs.isEmpty then d.putRoot p x.1 {}
    else if !x.2.toks.isEmpty && cs.all fun c => x.2.taken.contains c then d.putRoot p x.1 { toks := x.2.toks.tail }
    else d) d

/-! ### Contexts (R208, R209) -/

/-- The register words the job stages for pipe `p`. -/
def Dev.stagedWords (d : Dev) (p : Nat) : List CuvWrite := Tab.get [] d.hub.cuvl.writes p

/-- The record path's configuration has become active: the take casks are enabled and the take queues show whether they are used. -/
def Dev.recLoaded (d : Dev) (p : Nat) : Dev :=
  (List.range 8).foldl (fun d t =>
    (d.caskEnable p (120 + t)).wr F.CELP_TQ_STAT_STATE (d.rd F.CELP_TQ_CFG_EN p t) p t) d

/-- Context `x` of pipe `p` takes its staged configuration; casks apart. -/
def Dev.ctxTake (d : Dev) (p : Nat) (x : Nat × Nat) : Dev :=
  let i := x.2
  let load := fun (d : Dev) => d.ctxLoad p x (d.stagedWords p)
  match x.1 with
  | 0x1 => ((load d).remapClaims p).paceSwitched p [i]
  | 0x3 =>
    let d := load (d.rackOff p i)
    if d.on F.RACK_CH_CFG_EN p i then d.rackOn p i else d
  | 0x4 => ((load d).vrsSwitch p i).updCuvl fun c => { c with held := c.held.filter (· != (p, i)) }
  | 0x5 => (load d).statSwitch p i
  | 0x6 =>
    let before := d.blkBefore p i
    ((load d).blkSwitched p i (some before)).paceSwitched p []
  | 0x7 => ((load d).liveLoaded p i).paceSwitched p []
  | 0xE => (load d).recLoaded p
  | _ => load d

/-- Cask `k` of a region that switches: a disabled one takes its words at once, a changed one at the seam (R114). [log entry 30: DEDUCED] -/
def Dev.caskStage (d : Dev) (p k : Nat) : Dev :=
  let ws := d.stagedWords p
  let new := fun (r : RegId) => staged ws ⟨r, p, k, 0⟩
  let now := fun (r : RegId) => d.fieldWord ⟨r, p, k, 0⟩
  let x := d.cask p k
  if !d.on F.CASK_CFG_EN p k then ((d.ctxLoad p (2, k) ws).caskEnable p k).caskWait p k x.wait
  else if new .CASK_CFG = now .CASK_CFG ∧ new .CASK_BIND = now .CASK_BIND then d.wrCv ⟨.CASK_TTO, p, k, 0⟩ (new .CASK_TTO)
  else
    (d.setCask p k { x with next := some ⟨new .CASK_CFG, new .CASK_BIND, new .CASK_TTO⟩ }).updCuvl fun c =>
      { c with casks := c.casks.filter (· != (p, k)) ++ [(p, k)] }

/-- Once nothing of pipe `p`'s section waits, the section is complete (R210). -/
def Dev.sectDone (d : Dev) (p : Nat) : Dev :=
  let c := d.hub.cuvl
  let waits := c.regs.any (fun x => x.1 == p) || c.ctxs.any (fun x => x.1 == p) || c.casks.any (fun x => x.1 == p) ||
    c.recPend.contains p || (Tab.find c.wholes p).isSome || !(d.bsHeld p).isEmpty
  match c.sects.find? fun x => x.pipe == p with
  | some x =>
    if !d.cuvSwitching ∨ waits then d
    else
      let d := ((d.wr F.CUVL_GEN_GEN x.gen 0 p).wr F.CUVL_GEN_VALID 1 0 p).wr F.CUVL_GEN_SWITCHING 0 0 p
      let d := d.wr F.CUVL_STAT_PENDING (clrBit (d.rd F.CUVL_STAT_PENDING) p)
      (d.updCuvl fun c => c.drop p).cuvFinish
  | none => d

/-! ### A region takes its staged configuration (R168 step 3) -/

/-- The shadow copies of region `r` become active: storage, repair, declaration, claims and casks. A context that it listed and no region
lists any longer returns to reset values with it (R195). A port whose word stays keeps its line count (R155). -/
def Dev.regionApply (d : Dev) (p r : Nat) : Dev :=
  let t := d.trl p
  let old := Tab.get {} t.info r
  let new := Tab.get {} t.sinfo r
  let maps := d.stagedMaps p
  let a := declRes (d.physTile p) old
  let b := declRes (d.stagedPhys p maps) new
  let others := (t.info.filter fun x => x.1 != r).foldl (fun s x => s.union (declRes (d.physTile p) x.2)) ({} : ResSet)
  let act := trlTake t.act t.shd b ((a.minus b).minus others)
  let tiles := a.tiles ++ b.tiles
  let wins := (tiles.flatMap fun u => (List.range 16).map fun w => (u, w)).filter fun x =>
    cfgWord64 t.act (oWin x.1 x.2) != cfgWord64 act (oWin x.1 x.2)
  let cwins := (a.wins ++ b.wins).filter fun x => cfgWord64 t.act (oCwin x.1 x.2) != cfgWord64 act (oCwin x.1 x.2)
  let d := d.updTrl p fun t =>
    (({ t with
      act := act, info := if new.removes then Tab.del t.info r else Tab.put t.info r new
      els := t.els.filter fun e => !tiles.contains (e.1 / 16)
      ports := t.ports.filter fun x => !tiles.contains (x.1 / 4) || cfgWord t.act (oPort (x.1 / 4) (x.1 % 4)) == cfgWord act (oPort (x.1 / 4) (x.1 % 4))
      passed := t.passed.filter fun x => x.1 != r }).clearWins wins).clearCwins cwins
  let mine := fun (c : Nat) (m : Option Nat) => match m with | some j => bit old.tiles (16 * c + j) || bit new.tiles (16 * c + j) | none => false
  let d := maps.foldl (fun d m =>
    if mine m.1 m.2 || mine m.1 (d.mapNow p m.1) then d.mapApply p m.1 m.2 fun j => mine m.1 (some j) else d) d
  let d := d.putDecl p r new (!new.removes)
  let gone := old.ctx.filter fun x => !new.ctx.contains x && !(t.sinfo.any fun y => y.2.ctx.contains x)
  let d := (new.ctx.filter fun x => x.1 == 1).foldl (fun d x => d.ctxTake p x) d
  let d := (gone.filter fun x => x.1 != 2).foldl (fun d x => d.ctxTake p x) d
  let d := (gone.filter fun x => x.1 == 2).foldl (fun d x => (d.ctxLoad p x []).caskEnable p x.2) d
  ((new.ctx.filter fun x => x.1 == 2).foldl (fun d x => d.caskStage p x.2) d).remapClaims p

/-- Region `r` has switched and is in state `st`, or OFF where it was removed. -/
def Dev.regionSwitched (d : Dev) (p r st : Nat) : Dev :=
  let off := (Tab.get {} (d.trl p).sinfo r).removes
  let d := (((d.regionApply p r).setRegState p r (if off then 0 else st)).showRepair p).rootSweep p
  let d := (d.raiseP p 26 r).updCuvl fun c => { c with regs := c.regs.filter (· != (p, r)) }
  (d.flow p).sectDone p

/-- Whether a configuration of region `r` has been committed and has not switched. -/
def Dev.regionStaged (d : Dev) (p r : Nat) : Bool := d.hub.cuvl.regs.contains (p, r)

/-- The last input of a staged region delivers its EOF (R168 step 1). -/
def Dev.regionDrain (d : Dev) (p r : Nat) : Dev :=
  if d.regState p r = 2 && !(d.regionInputs p r).isEmpty && d.inputsPassed p r then d.setRegState p r 3 else d

def execRegionDrain (p : Pipe) (r : Fin 16) (s : State) : Out := run s fun d => d.regionDrain p r

/-- A quiescent region switches (R168 steps 2 to 5); a staged region without inputs switches at once. [log entry 34: DEDUCED] -/
def Dev.regionSwitch (d : Dev) (p r : Nat) : Dev :=
  let st := d.regState p r
  let ready := st == 3 || (st == 2 && (d.regionInputs p r).isEmpty)
  if ready && d.regionStaged p r && (st == 2 || d.regionQuiet p r) then d.regionSwitched p r 1 else d

def execRegionSwitch (p : Pipe) (r : Fin 16) (s : State) : Out := run s fun d => d.regionSwitch p r

/-- Steps 1 to 3 of a restart (R169): the region is emptied, its outputs emit the token of a cut frame, elements and windows are cleared. -/
def Dev.regionCut (d : Dev) (p r : Nat) : Dev :=
  let d := (d.regionDiscard p r).regionEmitCut p r
  let x := declRes (d.physTile p) (Tab.get {} (d.trl p).info r)
  d.updTrl p fun t =>
    (({ t with
      els := t.els.filter fun e => !x.tiles.contains (e.1 / 16), passed := t.passed.filter fun y => y.1 != r }).clearWins
      (x.tiles.flatMap fun u => (List.range 16).map fun w => (u, w))).clearCwins x.wins

/-- Region `r` restarts for cause `c`; a staged configuration becomes active (R169). [log entry 34: DEDUCED] -/
def Dev.regionRestart (d : Dev) (p r c : Nat) : Dev :=
  let d := (d.regionCut p r).wr F.TRL_REG_STAT_CAUSE c p r
  if d.regionStaged p r then d.regionSwitched p r 5 else (d.setRegState p r 5).flow p

/-- No output of the region has emitted an EOF for TIMEOUT ms (R169). [log entry 34: DEDUCED] -/
def Dev.regionTimeout (d : Dev) (p r : Nat) : Dev :=
  let st := d.regState p r
  if (st = 1 ∨ st = 2 ∨ st = 3) ∧ d.rd F.TRL_REG_CFG_TIMEOUT p r ≠ 0 then (d.raiseP p 25 r).regionRestart p r 3 else d

def execRegionTimeout (p : Pipe) (r : Fin 16) (s : State) : Out := run s fun d => d.regionTimeout p r

/-- Every input has passed an EOF (R169 steps 4 and 5): the region runs; a restart that has a cause counts. -/
def Dev.regionRestartExit (d : Dev) (p r : Nat) : Dev :=
  if d.regState p r = 5 ∧ d.inputsPassed p r then
    let d := (d.setRegState p r 1).updTrl p fun t => { t with passed := t.passed.filter fun x => x.1 != r }
    ((if d.rd F.TRL_REG_STAT_CAUSE p r = 0 then d else d.bump C.TRL_RST_CNT p)).flow p
  else d

def execRegionRestartExit (p : Pipe) (r : Fin 16) (s : State) : Out := run s fun d => d.regionRestartExit p r

/-- An uncorrectable configuration error (R170); a committed configuration of a region in FAULT becomes active at once. -/
def execRegionFault (p : Pipe) (kind : Fin 6) (unit : Fin 68) (elem : Fin 32) (s : State) : Out := run s fun d =>
  let d := d.regionFault p kind unit elem
  (List.range 16).foldl (fun d r => if d.regState p r = 4 ∧ d.regionStaged p r then d.regionSwitched p r 5 else d) (d.flow p)

/-! ### Context commands -/

/-- Whether context `x` of pipe `p` stands at its frame seam (R208): no frame is in the middle of passing it, no descriptor of a racking
channel is running or waits for its write-back. Frames reach a coder or a live output whole; one is coding or sending none. [log entry 34: DEDUCED] -/
def Dev.ctxSeam (d : Dev) (p : Nat) (x : Nat × Nat) : Bool :=
  match x.1 with
  | 3 => let y := d.rch p x.2; y.job.isNone && !y.fetching && y.done.isEmpty
  | 4 => !(d.vru p x.2).moved
  | 5 => !(d.sctx p x.2).begun
  | 6 => !d.ctxBusy p x.2
  | 7 => (d.liveOut p x.2).cur.all fun y => decide (y.2.1 ≤ y.2.2)
  | 8 => !(d.vc p x.2).open_
  | _ => true

/-- A context switches at its own frame seam; a racking channel once no descriptor runs (R208). [log entry 34: DEDUCED] -/
def Dev.ctxSwitch (d : Dev) (p cls i : Nat) : Dev :=
  if d.hub.cuvl.ctxs.contains (p, cls, i) && d.ctxSeam p (cls, i) then
    ((d.updCuvl fun c => { c with ctxs := c.ctxs.filter (· != (p, cls, i)) }).ctxTake p (cls, i)).sectDone p
  else d

def execContextSwitch (p : Pipe) (cls i : Fin 128) (s : State) : Out := run s fun d => d.ctxSwitch p cls i

/-- A frame comes to a stream's port, or the coding of one ends. A tiled stream that goes on under its old configuration may take the new one
then, and its pipe's section be complete (R382, R210). -/
def Dev.bsDone (d : Dev) (p : Nat) (f : Dev → Dev) : Dev :=
  let held := !(d.bsHeld p).isEmpty
  let d := f d
  if held then (d.paceSwitched p []).sectDone p else d

def execBlkFrameInput (p : Pipe) (c : Fin 16) (k : Fin 4) (t : Nat) (psn : Bool) (s : State) : Out :=
  runWork s fun d => d.bsDone p fun d => d.bsFrame p c k t psn

def execBlkFrameCoded (p : Pipe) (c : Fin 16) (k : Fin 4) (bytes : CodedBytes) (qps : List Nat) (qavg : Nat) (capped : Bool)
    (s : State) : Out :=
  runWork s fun d => d.bsDone p fun d => d.bsCoded p c k { bytes with qps := qps, qavg := qavg, capped := capped }

/-- The staged record path switches at a frame seam of the split: no virtual channel that it records is in the middle of a frame. A START
that waited for it then runs (R209). -/
def Dev.recSwitch (d : Dev) (p : Nat) : Dev :=
  let mid := (List.range 16).any fun v => d.on F.SFE_VCG_REC p v && (d.vc p v).open_
  if d.hub.cuvl.recPend.contains p && d.takesShut p && !mid then
    (((d.updCuvl fun c => { c with recPend := c.recPend.filter (· != p) }).ctxTake p (0xE, 0)).sectDone p).startRelease
  else d

def execRecContextSwitch (p : Pipe) (s : State) : Out := run s fun d => d.recSwitch p

/-- A cask whose configuration waits for the seam switches once its consumer has read the last word of the old frame (R114). -/
def Dev.caskSeam (d : Dev) (u k : Nat) : Dev :=
  let was := (d.cask u k).next.isSome
  let d := d.caskSwitch u k
  if was && (d.cask u k).next.isNone then (d.updCuvl fun c => { c with casks := c.casks.filter (· != (u, k)) }).sectDone u else d

def execCaskSwitch (u : Unit5) (k : Fin 128) (s : State) : Out :=
  runIf (decide (k.val < caskCount u)) s fun d => d.caskSeam u k

/-! ### The job (R196 to R201) -/

/-- A write of `CUVL_CTL.STAGE` (R197). -/
def Dev.cuvStart (d : Dev) : Dev :=
  let st := d.cuvState
  if st = 0 ∨ st = 5 ∨ st = 6 then
    let d := d.dropRegs fun k => k.reg == .CUVL_ERR || k.reg == .CUVL_ERR_DET || k.reg == .CUVL_STAT
    (d.updCuvl fun _ => {}).wr F.CUVL_STAT_STATE 1
  else d.wr F.CUVL_REFUSE_STAGE 1

def execCuvlStage (s : State) : Out := bar2 .CUVL 0 s fun d => d.cuvStart

/-- The digest registers hold the SHA-384 digest, byte 4k of it in [31:24] of word k. -/
def Dev.putDigest (d : Dev) (g : List Byte) : Dev :=
  (List.range 12).foldl (fun d k => d.wr F.CUVL_DIGEST_D (ofLeBytes ((g.drop (4 * k)).take 4).reverse) 0 k) d

/-- The Veraison units that a job stages: those that the records of its sections, as far as they can be read, bring with them. [log entry 38: DEDUCED] -/
def Dev.cuvUnits (d : Dev) (raw : List Byte) (x : CuvSect) : List (Nat × Nat) :=
  ((d.cuvCtxs x (d.cuvBody x raw).2).filter fun c => c.1 == 4).map fun c => (x.pipe, c.2)

/-- Pass 1 ends (R198): an error, or the staging of the sections begins (R202). `bad` is a read error of the source. [log entry 38: DEDUCED] -/
def Dev.cuvVerify (d : Dev) (bad : Bool) : Dev :=
  if d.cuvState ≠ 1 then d
  else
    match d.cuvSource bad with
    | none => d.cuvFail { code := 0x1A }
    | some b =>
      match d.cuvPass1 b with
      | .error e => d.cuvFail e
      | .ok (xs, svn, g) =>
        match xs.find? fun x => d.hub.cuvl.hit.contains x.pipe with
        | some x => d.cuvFail { code := 0x15, det := some x.pipe }
        | none =>
          let pipes := (xs.map fun x => 2 ^ x.pipe).sum
          let raw := match cuvRaw b with | .ok raw => raw | .error _ => []
          let units := xs.flatMap fun x => d.cuvUnits raw x
          let d := (d.putDigest g).wr F.CUVL_SVN_LAST svn
          let d := (d.wr F.CUVL_STAT_PIPES pipes).wr F.CUVL_STAT_PENDING pipes
          let d := units.foldl (fun d u => d.vrsStage u.1 u.2) d
          (d.updCuvl fun _ => { sects := xs, held := units, packed := bit (cuvField b 0x0C 4) 0 }).wr F.CUVL_STAT_STATE 2

def execCuvlVerifyDone (bad : Bool) (s : State) : Out := run s fun d => d.cuvVerify bad

/-- What a section stages is stored: shadow storage, declarations, register words, repair maps and tables. -/
def Dev.cuvStore (d : Dev) (x : CuvSect × CuvStage) : Dev :=
  let p := x.1.pipe
  let s := x.2
  let t := d.trl p
  let d := d.updTrl p fun t => { t with shd := s.shd, sinfo := s.body.decl }
  let d := d.updCuvl fun c => { c with
    kept := Tab.put c.kept p (t.shd, t.sinfo), writes := Tab.put c.writes p s.writes, tabs := Tab.put c.tabs p s.tabs
    maps := s.maps.foldl (fun m y => Tab.put m (4 * p + y.1) y.2) c.maps
    recs := if s.body.recs.any fun r => r.2.touches (0xE, 0) then insertNum p c.recs else c.recs }
  s.tabs.foldl (fun d y => d.vrsLoad p y.1 y.2.1 y.2.2) d

/-- Pass 2 ends (R199): the digest first, then the first record error, otherwise STAGED. -/
def Dev.cuvPassDone (d : Dev) (bad : Bool) : Dev :=
  if d.cuvState ≠ 2 then d
  else
    match d.cuvSource bad with
    | none => d.cuvFail { code := 0x1A }
    | some b =>
      let same := (d.putDigest (sha384 (b.take (cuvSigAt b)))).regs = d.regs
      if !same then d.cuvFail { code := 0x19 }
      else
        let xs := d.hub.cuvl.sects
        let staged : CuvM (List (CuvSect × CuvStage)) := do
          let raw ← cuvRaw b
          xs.mapM fun x => do pure (x, ← d.cuvPass2 raw x)
        match staged with
        | .error e => d.cuvFail e
        | .ok l => ((l.foldl (fun d x => d.cuvStore x) d).wr F.CUVL_STAT_STATE 3).raise 527 0

def execCuvlPass2Done (bad : Bool) (s : State) : Out := run s fun d => d.cuvPassDone bad

/-! ### Commit (R203 to R209) -/

/-- The checks of R205 on a section. [log entry 38: DEDUCED] -/
def Dev.cuvGoCheck (d : Dev) (x : CuvSect) : CuvM Unit := do
  let p := x.pipe
  d.cuvBase x.idx x
  if !x.whole && d.rd F.CUVL_BASE_BASE 0 p != x.base then
    .error { code := 0x21, det := some (d.rd F.CUVL_GEN_GEN 0 p * 2 ^ 16 + x.base), sect := x.idx }
  if !x.whole && d.hub.cuvl.recs.contains p && d.on F.PCTL_STAT_TAKE p then .error { code := 0x29, det := some p, sect := x.idx }
  if x.whole && d.on F.PCTL_STAT_TAKE p && !d.on F.CUVL_CFG_CLOSE then .error { code := 0x28, det := some p, sect := x.idx }

/-- What waits for the switch of a partial section is noted, and SWITCHING set (R208 to R210). -/
def Dev.partNote (d : Dev) (x : CuvSect) : Dev :=
  let p := x.pipe
  let t := d.trl p
  let rs := bitsOf x.mask 16
  let ctx := (rs.flatMap fun r => (Tab.get {} t.sinfo r).ctx).filter fun c => decide (3 ≤ c.1)
  let ctx := ctx.foldl (fun l c => if l.contains c then l else l ++ [c]) []
  (d.updCuvl fun c => { c with
    regs := c.regs ++ rs.map fun r => (p, r)
    ctxs := c.ctxs ++ ctx.map fun y => (p, y.1, y.2)
    recPend := if c.recs.contains p then insertNum p c.recPend else c.recPend }).wr F.CUVL_GEN_SWITCHING 1 0 p

/-- The regions of a partial section at GO (R207, R216): each is STAGED, but one in OFF or FAULT switches at once into RESTART. -/
def Dev.partGo (d : Dev) (x : CuvSect) : Dev :=
  let p := x.pipe
  let d := (bitsOf x.mask 16).foldl (fun d r =>
    let st := d.regState p r
    if st = 0 then (d.wr F.TRL_REG_STAT_CAUSE 0 p r).regionSwitched p r 5
    else if st = 4 then d.regionSwitched p r 5
    else (d.setRegState p r 2).updTrl p fun t => { t with passed := t.passed.filter fun y => y.1 != r }) d
  d.sectDone p

/-- A whole section at GO (R206): an open take closes. -/
def Dev.wholeGo (d : Dev) (p : Nat) : Dev :=
  (d.takeClosePipe p).updCuvl fun c => { c with wholes := Tab.put c.wholes p .closing }

/-- A write of `CUVL_GO.GO` (R197, R205). [log entry 38: DEDUCED] -/
def Dev.cuvGo (d : Dev) : Dev :=
  if d.cuvState ≠ 3 then d.wr F.CUVL_REFUSE_GO 1
  else
    let xs := d.hub.cuvl.sects
    match xs.forM fun x => d.cuvGoCheck x with
    | .error e => d.cuvFail e
    | .ok _ =>
      let d := (d.updCuvl fun c => { c with kept := [] }).wr F.CUVL_STAT_STATE 4
      let d := (xs.filter fun x => x.whole).foldl (fun d x => d.wholeGo x.pipe) d
      let parts := xs.filter fun x => !x.whole
      parts.foldl (fun d x => d.partGo x) (parts.foldl (fun d x => d.partNote x) d)

def execCuvlGo (s : State) : Out := bar2 .CUVL 0 s fun d => d.cuvGo

/-- The cartridge of pipe `p` unmounts, the pipe is reset and is LOADING (R206 steps 2 and 3). The job holds its Veraison units over the
reset (R304). -/
def Dev.wholeReset (d : Dev) (p : Nat) : Dev :=
  let d := ((d.cartUnmount p).pipeReset p 2 true).updCuvl fun c => { c with wholes := Tab.put c.wholes p .loading }
  (d.hub.cuvl.held.filter fun x => x.1 == p).foldl (fun d x => d.wr F.VRS_BANK_STAT_HELD 1 p x.2) d

/-- The take of a whole section is closed with its stream on the cartridge: the section commits (R206). -/
def Dev.wholeCommit (d : Dev) (p : Nat) : Dev :=
  if Tab.find d.hub.cuvl.wholes p = some .closing ∧ d.takesShut p then d.wholeReset p else d

def execCuvlWholeCommit (p : Pipe) (s : State) : Out := run s fun d => d.wholeCommit p

/-- The tables of a whole section fill bank 0 of their units, which is active (R305). -/
def Dev.vrsWhole (d : Dev) (p : Nat) : Dev :=
  let d := (List.range 8).foldl (fun d u => d.wr F.VRS_BANK_STAT_ACTIVE 31 p u) d
  let d := (Tab.get [] d.hub.cuvl.tabs p).foldl (fun d y => d.vrsLoad p y.1 y.2.1 y.2.2) d
  (List.range 8).foldl (fun d u => ((d.wr F.VRS_BANK_STAT_ACTIVE 0 p u).wr F.VRS_BANK_STAT_HELD 0 p u).vrsShow p u) d

/-- Every engine of pipe `p` starts under the configuration that has become active. -/
def Dev.enginesLoaded (d : Dev) (p : Nat) : Dev :=
  let d := (List.range 128).foldl (fun d k => d.caskEnable p k) d
  let d := (d.recLoaded p).vrsWhole p
  let d := (List.range 4).foldl (fun d x => d.statSwitch p x) d
  let d := (List.range 16).foldl (fun d c => d.blkSwitched p c none) d
  let d := (List.range 12).foldl (fun d c => if d.on F.RACK_CH_CFG_EN p c then d.rackOn p c else d) d
  let d := (List.range 7).foldl (fun d r => d.roleWait p r) d
  (List.range 16).foldl (fun d i => d.liveLoaded p i) d

/-- The shadow copies of a whole section are active, the pipe runs and its section is complete (R206 steps 4 and 5). -/
def Dev.wholeLoaded (d : Dev) (p : Nat) : Dev :=
  match d.hub.cuvl.sects.find? fun x => x.pipe == p with
  | some x =>
    if Tab.find d.hub.cuvl.wholes p = some .loading ∧ d.rd F.PCTL_STAT_STATE p = 2 then
      let d := d.updTrl p fun t => { t with act := t.shd, info := t.sinfo }
      let d := (d.stagedMaps p).foldl (fun d m => d.mapApply p m.1 m.2 fun _ => true) d
      let decl := (d.trl p).info
      let d := decl.foldl (fun d r => d.putDecl p r.1 r.2 (!r.2.removes)) d
      let d := ((d.cuvCtxs x {}).foldl (fun d c => d.ctxLoad p c (d.stagedWords p)) d).remapClaims p
      let d := decl.foldl (fun d r => if r.2.removes then d else d.setRegState p r.1 1) d
      let d := (((d.showRepair p).enginesLoaded p).dramUnpark p).wr F.PCTL_STAT_STATE 3 p
      let d := d.paceSwitched p (List.range 32)
      let d := (d.cartSettle p).updCuvl fun c => { c with wholes := Tab.del c.wholes p, held := c.held.filter fun x => x.1 != p }
      (((d.flow p).sectDone p).arunLate p)
    else d
  | none => d

def execCuvlWholeLoadDone (p : Pipe) (s : State) : Out := run s fun d => d.wholeLoaded p

/-! ### Forcing, aborting, losses (R211 to R215) -/

/-- Whether the consumer endpoint `e` of a cask belongs to context `x`. -/
def feedsCtx (x : Nat × Nat) (e : Nat) : Bool :=
  match x.1 with
  | 5 => e == 0x2070 + x.2
  | 6 => decide (0x2100 + 4 * x.2 ≤ e) && decide (e < 0x2104 + 4 * x.2)
  | 7 => e == 0x2180 + x.2
  | _ => false

/-- The frame that context `x` is in the middle of ends as if its input cask had been flushed (R105, R211): a statistics context and a
Veraison unit see the token of a cut frame, a coder's and a live output's input casks are emptied, a racking descriptor ends FLUSHED and
is written back, and a virtual channel's branch drops the rest of the frame and flushes the cask it feeds. -/
def Dev.ctxCut (d : Dev) (p : Nat) (x : Nat × Nat) : Dev :=
  let i := x.2
  let ks := (List.range 120).filter fun k => d.on F.CASK_CFG_EN p k && feedsCtx x (d.rd F.CASK_BIND_CONS p k)
  let d := ks.foldl (fun d k => d.caskFlush p k) d
  match x.1 with
  | 3 =>
    let d := if (d.rch p i).job.isSome then d.rackEnd p i 3 else d
    let d := d.updHub fun h => { h with hreq := h.hreq.filter fun y => y != .rackDesc p i && y != .rackData p i }
    d.rackDrain p i (d.rch p i).done.length
  | 4 => if (d.vru p i).moved then (d.vrsCrop p i (0, 0) cutToken.flags).vrsSeam p i else d
  | 5 => if (d.sctx p i).begun then d.statInput p i .flushed else d
  | 8 =>
    if (d.vc p i).open_ && (d.vc p i).trOn then
      let d := (d.trelDropFrame p i).caskFlush p (d.rd F.SFE_VCT_CASK p i)
      d.putVc p i { d.vc p i with trOn := false }
    else d
  | _ => d

/-- Context `x` switches at once (R211). -/
def Dev.ctxForce (d : Dev) (p : Nat) (x : Nat × Nat) : Dev := if d.ctxSeam p x then d.ctxTake p x else (d.ctxCut p x).ctxTake p x


/-- A cask switches at once: what it holds is flushed, and its consumer sees the marker. [log entry 30: DEDUCED] -/
def Dev.caskForce (d : Dev) (p k : Nat) : Dev :=
  let had := !(d.cask p k).words.isEmpty || (d.cask p k).marker
  let d := (d.caskFlush p k).caskSwitch p k
  if had then d.setCask p k { d.cask p k with marker := true } else d

/-- What still waits of pipe `p`'s section is forced (R211): a whole section commits with the take as it stands. [log entry 34: DEDUCED] -/
def Dev.sectForce (d : Dev) (p : Nat) : Dev :=
  let d := if Tab.find d.hub.cuvl.wholes p = some .closing then d.wholeReset p else d
  let d := d.wholeLoaded p
  let c := d.hub.cuvl
  let d := ((c.regs.filter fun x => x.1 == p).map (·.2)).foldl (fun d r => d.regionRestart p r 3) d
  let d := (c.ctxs.filter fun x => x.1 == p).foldl (fun d x => d.ctxForce p x.2) d
  let d := (d.bsHeld p).foldl (fun d x => (d.bsForce p x.1 x.2).paceSwitched p []) d
  let d := if c.recPend.contains p then d.ctxTake p (0xE, 0) else d
  let d := (d.hub.cuvl.casks.filter fun x => x.1 == p).foldl (fun d x => d.caskForce p x.2) d
  ((d.updCuvl fun c => { c with
    ctxs := c.ctxs.filter fun x => x.1 != p, casks := c.casks.filter fun x => x.1 != p
    recPend := c.recPend.filter (· != p) }).sectDone p).startRelease

/-- SWTO has passed since GO: the sections that are not complete are forced (R211). [log entry 34: DEDUCED] -/
def Dev.cuvForce (d : Dev) : Dev :=
  let xs := d.hub.cuvl.sects
  if d.cuvState ≠ 4 ∨ xs.isEmpty then d else xs.foldl (fun d x => d.sectForce x.pipe) (d.wr F.CUVL_STAT_FORCED 1)

def execCuvlSwitchTimeout (s : State) : Out := run s fun d => d.cuvForce

/-- A write of `CUVL_CTL.ABORT` (R212). [log entry 38: DEDUCED] -/
def Dev.cuvAbort (d : Dev) : Dev :=
  let st := d.cuvState
  if st = 1 ∨ st = 2 ∨ st = 3 then d.cuvFail { code := 0x41 } else d.wr F.CUVL_REFUSE_STAGE 1

def execCuvlAbort (s : State) : Out := bar2 .CUVL 0 s fun d => d.cuvAbort

/-- A write of `CUVL_CTL`: ABORT acts before STAGE. -/
def Dev.cuvCtl (d : Dev) (w : Nat) : Dev := if bit w 1 then d.cuvAbort else if bit w 0 then d.cuvStart else d

/-- A write of `CUVL_CFG` is discarded while a job runs. -/
def Dev.cuvCfg (d : Dev) (w : Nat) : Dev :=
  let st := d.cuvState
  if 1 ≤ st ∧ st ≤ 4 then d else d.wrWord ⟨.CUVL_CFG, 0, 0, 0⟩ w

/-- Host memory is lost during a pass that reads it (R214). -/
def Dev.cuvHostLost (d : Dev) : Dev :=
  let st := d.cuvState
  if (st = 1 ∨ st = 2) ∧ d.rd F.CUVL_CFG_SRC = 0 then d.cuvFail { code := 0x1A } else d

/-- The Hub is lost (R49, R215): the job ends. Before GO its shadow writes are discarded; after GO what is staged switches at its frame
seams, and nothing forces it. [log entry 38: DEDUCED] -/
def Dev.cuvHubLost (d : Dev) : Dev :=
  let st := d.cuvState
  let d := if st = 1 ∨ st = 2 ∨ st = 3 then d.cuvDiscard else d
  if 1 ≤ st ∧ st ≤ 4 then d.wr F.CUVL_STAT_STATE 0 else d

end Sys2Proof.Machine
end

