-- ==== Sys2Proof/Machine/LaneCmd.lean ====
section
/-!
DEFINITION. The lane commands (chapter 6), with what a role's news does to its owner: the sensor front end, the network ports and SDI
outputs, the Quadrille ports.
-/
namespace Sys2Proof.Machine

/-- Port `q` leaves UP: what a follower has in flight to host memory ends, the source of a cuvée in it included (R541). -/
def Dev.qdlGone (d : Dev) (q : Nat) : Dev :=
  let up := d.qdlUp q
  let d := d.qdlDown q
  if up && d.isFollower then (d.hostReadsEnd true).cuvHostLost else d

/-- A port leaves UP for what happens at the far end: its Hub is lost, and the role's loss follows (R236, R536). -/
def execQdlPortDown (q : Fin 3) (s : State) : Out := run s fun d => d.qdlGone q

/-- What the owner of a role does with its news: slot 0 of a pipe is the sensor role, slots 1 to 6 its flex lanes; at the Hub the slots
are the Quadrille ports (R223, R237, R497, R513, R536). -/
def roleOwner (d : Dev) (u r : Nat) (x : RoleNews) : Dev :=
  if u = 4 then
    match x with
    | .ready => d.qdlReady r
    | .lost => d.qdlGone r
    | .aligned | .expired | .row _ => d
  else if r = 0 then
    match x with
    | .aligned => d.sfeAligned u
    | .ready => d.sfeReady u
    | .lost => d.sfeLost u
    | .expired => d.sfeExpired u
    | .row blocks => d.linkRow u blocks
  else
    let d := match x with | .lost => d.ptpPortLost u (r - 1) | _ => d
    (List.range 16).foldl (fun d i =>
      if d.liveOn u i && d.on F.NET_LO_CFG_KIND u i && d.sdiLane u i == r - 1 then
        d.wr F.SDI_LO_STAT_STATE (if d.liveReady u i then 2 else 1) u i
      else d) d

/-- A command on lane `k` of unit `u`. -/
def onLane (u k : Nat) (s : State) (f : Dev → Dev) : Out := runIf (decide (k < laneCount u)) s f

/-- A command on role slot `r` of unit `u`. -/
def onRole (u r : Nat) (s : State) (f : Dev → Dev) : Out := runIf (decide (r < roleCount u)) s f

/-- The monitor's verdict on an input, 100 µs after its last one (R221). -/
def execRefclkMonitorCheck (u : Unit5) (i : Fin 3) (good : Bool) (s : State) : Out := run s fun d => d.refCheck roleOwner u i good

/-- An instant of R238 for a role. -/
def execLaneAttemptStart (u : Unit5) (r : Fin 7) (s : State) : Out := onRole u r s fun d => d.attemptTick u r

def execLaneSignalDetect (u : Unit5) (k : Fin 12) (s : State) : Out := onLane u k s fun d => d.laneSignal u k

def execLaneCdrLock (u : Unit5) (k : Fin 12) (s : State) : Out := onLane u k s fun d => d.laneCdr u k

def execLaneCtleChosen (u : Unit5) (k : Fin 12) (code : Fin 32) (s : State) : Out := onLane u k s fun d => d.laneCtle u k code

def execLaneBlockLock (u : Unit5) (k : Fin 12) (s : State) : Out := onLane u k s fun d => d.laneBlock u k

def execTrainingBlockReceived (u : Unit5) (k : Fin 12) (b : RxTrain) (s : State) : Out :=
  onLane u k s fun d => d.laneRx roleOwner u k b.raw b.slot

def execLaneStageTimeout (u : Unit5) (k : Fin 12) (s : State) : Out := onLane u k s fun d => d.laneBound u k

/-- A block that the sender sends as data: its own bits say what it is to the lane, as for any block. -/
def execDataBlockReceived (u : Unit5) (k : Fin 12) (b : BitVec 66) (s : State) : Out :=
  onLane u k s fun d => d.laneRx roleOwner u k b 0

/-- A role's lane or PCS is lost by the outside (R236): the signal or the clock recovery of a link or Ethernet role, the PCS of an Ethernet
role, counted on its lowest lane, the PLL of an SDI12 lane. No other cause applies to a role. -/
def Dev.laneGone (d : Dev) (u k : Nat) (c : LaneCause) : Dev :=
  let d := match c with
    | .noSig => ((d.wr F.LANE_STAT_SIG 0 u k).wr F.LANE_STAT_CDR 0 u k).wr F.LANE_STAT_BLOCK 0 u k
    | .cdr => (d.wr F.LANE_STAT_CDR 0 u k).wr F.LANE_STAT_BLOCK 0 u k
    | _ => d
  match d.slotOf u k with
  | some r =>
    let kind := d.roleKind u r
    let eth := kind == 3 || kind == 4
    match c with
    | .noSig => if eth || kind == 1 || kind == 6 then d.laneCause roleOwner u r k 1 else d
    | .cdr => if eth || kind == 1 || kind == 6 then d.laneCause roleOwner u r k 2 else d
    | .pcs => if eth then d.laneCause roleOwner u r ((d.roleLanes u r).headD k) 4 else d
    | .pll => if kind == 5 then d.laneCause roleOwner u r k 2 else d
  | none => d

def execLaneLoss (u : Unit5) (k : Fin 12) (c : LaneCause) (s : State) : Out := onLane u k s fun d => d.laneGone u k c

def execLaneRetryExpiry (u : Unit5) (r : Fin 7) (s : State) : Out := onRole u r s fun d => d.roleExpire roleOwner u r

def execLaneRetrain (u : Unit5) (mask : BitVec 12) (s : State) : Out := bar2 .LANE u s fun d => d.laneRetrain roleOwner u mask.toNat

/-- One step of the CTLE code in READY: `dir` 1 up, 2 down as the eye monitor asks (R243). -/
def execLaneCtleTrack (u : Unit5) (k : Fin 12) (dir : Fin 3) (s : State) : Out := onLane u k s fun d => d.laneTrack u k dir

def execLaneTxfirWrite (u : Unit5) (k : Fin 12) (w : Word) (s : State) : Out := bar2If (decide (k.val < laneCount u)) .LANE u s fun d => d.txfir u k w.toNat

def execLanePrbsCtlWrite (u : Unit5) (k : Fin 12) (w : Word) (s : State) : Out := bar2If (decide (k.val < laneCount u)) .LANE u s fun d => d.prbsCtl roleOwner u k w.toNat

/-- The checker has received the bits `rx` since the last such command: it locks, counts and loses lock by them (R247). -/
def execPrbsLockChange (u : Unit5) (k : Fin 12) (n sent flips : Nat) (s : State) : Out :=
  onLane u k s fun d => d.prbsLock u k (rxBits n sent flips)

def execLaneSnapWrite (u : Unit5) (mask : BitVec 12) (s : State) : Out := bar2 .LANE u s fun d => d.laneSnap u mask.toNat

/-- The PLL of an SDI12 lane has locked in an attempt (R234). -/
def execSdiPllLock (p : Pipe) (k : Fin 6) (s : State) : Out := run s fun d =>
  match d.slotOf p (6 + k) with
  | some r => if d.roleKind p r = 5 ∧ (d.role p r).attempt ∧ d.stage p (6 + k) = 2 then d.roleReady roleOwner p r else d
  | none => d

/-- The PCS of an ETH role reports the link aligned, every lane being past BLOCK (R234). -/
def execEthPcsAligned (p : Pipe) (k : Fin 6) (s : State) : Out := run s fun d =>
  match d.slotOf p (6 + k) with
  | some r =>
    if (d.roleKind p r = 3 ∨ d.roleKind p r = 4) ∧ (d.role p r).attempt ∧
        (d.roleLanes p r).all (fun j => d.on F.LANE_STAT_BLOCK p j && d.stage p j != 9) then
      d.roleReady roleOwner p r
    else d
  | none => d

/-- A valid SoT on the data lanes of `mask`: at the first one on every data lane the DPHY role is READY (R261). -/
def Dev.dphySot (d : Dev) (p mask : Nat) : Dev :=
  if d.roleKind p 0 = 2 ∧ (d.role p 0).attempt then
    let d := (d.dphyLanes p).foldl (fun d k => if bit mask k then d.putLane p k { d.lane p k with done := true } else d) d
    if (d.roleLanes p 0).all (fun k => d.stage p k == 1) && (d.dphyLanes p).all fun k => (d.lane p k).done then d.roleReady roleOwner p 0 else d
  else d

def execDphySot (p : Pipe) (mask : BitVec 4) (s : State) : Out := run s fun d => d.dphySot p mask.toNat

/-- No SoT for LOSS_T (R261). -/
def execDphySotTimeout (p : Pipe) (s : State) : Out := run s fun d =>
  if d.roleKind p 0 = 2 ∧ d.roleState p 0 = 4 then d.roleLoss roleOwner p 0 ((d.roleLanes p 0).headD 0) 1 else d

end Sys2Proof.Machine
end

