-- ==== Sys2Proof/Machine/Resets.lean ====
section
/-!
DEFINITION. The resets of the whole device: what a warm, a cold and a function-level reset restore (R14), and the host link (chapters 0
and 18: R132, R420, R530, R553 to R555, R566).
-/
namespace Sys2Proof.Machine

/-- The device with its boot state changed. -/
def Dev.updBoot (d : Dev) (f : Boot → Boot) : Dev := d.updHub fun h => { h with boot := f h.boot }

/-! ### Warm and cold resets (R14, R91, R115, R215, R466, R624) -/

/-- A slice whose port works no more: the cartridge and its place in the slot remain. -/
def Slice.off (x : Slice) : Slice := { cart := x.cart, det := x.det }

/-- A pipe whose power gate is open (R91, R466). -/
def PipeSt.off (x : PipeSt) : PipeSt := { cel := x.cel.off }

/-- The four pipes with their gates open. -/
def Dev.pipesOff (d : Dev) : Dev :=
  { d with pipes := ⟨d.pipes.p0.off, d.pipes.p1.off, d.pipes.p2.off, d.pipes.p3.off⟩ }

/-- What the Hub keeps over a reset: flash, the key store and fuses, the boot state; a warm reset also keeps the governor's last command
and the state of a voltage step. Time starts again at 0. [log entry 72: DEDUCED] -/
def HubSt.afterReset (h : HubSt) (c : Nat) (warm : Bool) : HubSt :=
  { flash := h.flash, boot := h.boot, anchor := { ca := c }, gov := if warm then h.gov else {}
    secu := { slots := h.secu.slots, lc := h.secu.lc, svn := h.secu.svn, imgSvn := h.secu.imgSvn, imgSlot := h.secu.imgSlot } }

/-- What the router keeps: the messages sent so far, the sequence numbers of the yield records, the error log. Yields in force end
without a record. -/
def Router.afterReset (r : Router) : Router := { sent := r.sent, yseq := r.yseq, aer := r.aer }

/-- `n` bytes of open value. [log entry 76: DEDUCED] -/
def Dev.drawBytes (d : Dev) : Nat → List Byte × Dev
  | 0 => ([], d)
  | n + 1 =>
    let (v, d) := d.draw
    let (bs, d) := d.drawBytes n
    (BitVec.ofNat 8 v :: bs, d)

/-- A flash command that a reset or a supply loss cuts short leaves its range partly written: its bytes are open (R663).
[log entry 76: DEDUCED] -/
def Dev.flashCut (d : Dev) : Dev :=
  if d.on F.HUB_FLASH_CMD_BUSY then
    let (bs, d) := d.drawBytes (d.rd F.HUB_FLASH_LEN_LEN)
    d.flashWrites (d.rd F.HUB_FLASH_OFF_LEN) bs
  else d

/-- Every engine and memory of the device after a warm or cold reset. -/
def Dev.enginesOff (d : Dev) (warm : Bool) : Dev :=
  let d := d.flashCut
  let d := (d.pipesOff.updHub fun h => h.afterReset d.c warm).updRouter Router.afterReset
  { d with snaps := [], held := [], tsnap := [] }

/-- The fields a warm reset restores: warm, pipe, FLR and queue fields but no RWS field (R14). -/
def FKey.warmRestores (k : FKey) : Bool :=
  (k.dom == .warm || k.dom == .pipe || k.dom == .flr || k.dom == .queue) && !k.sticky

/-- What every reset leaves of the registers that show hardware: the pipes OFF, no gate latched, no take open, nothing
paused. [log entry 79: DEDUCED] -/
def Dev.showOff (d : Dev) : Dev :=
  (d.dropRegs fun k => k.reg == .PCTL_STAT || k.reg == .HUB_PAUSE_EFF).govReset

/-- The security unit comes up (R676), and each pipe's fold seed is drawn (R469): 0 while random numbers are not to be had. -/
def Dev.seedsDrawn (d : Dev) : Dev :=
  (List.range 4).foldl (fun d p =>
    if d.rngOk then
      let (v, d) := d.drbg
      d.wr F.DRC_SEED_SEED v p
    else d) d.secuBoot

/-- A warm reset restores its fields and takes every engine to rest. [log entry 72: DEDUCED] -/
def Dev.warmRestore (d : Dev) : Dev := ((d.enginesOff true).dropRegs FKey.warmRestores).showOff

/-- A cold reset restores the fields of every domain but the always-on one; the straps and a pending life-cycle state are read. [log entry 72: DEDUCED] -/
def Dev.coldRestore (d : Dev) (devid : Nat) : Dev :=
  let d := ((d.enginesOff false).dropRegs fun k => k.dom != .always).showOff
  ((d.wr F.QDL_ID_DEVID devid).wrb F.QDL_ID_LEADER (devid == 0)).lcApply

/-- The device stops where it stands and holds itself in reset (R638, R640, R692). The cartridges are left as a removal leaves them
(R55, R716). -/
def Dev.holdReset (d : Dev) (h : Held) : Dev :=
  let d := ((d.enginesOff false).dropRegs fun k => k.dom != .always).showOff
  d.updBoot fun b => { b with
    held := some h, ready := false, released := false, good := false, hold := false, want := none, reason := none, nrst := none
    stby := none, kept := none }

/-! ### The function-level reset (R553, R555, R566) -/

/-- The host link's fields changed by `f` raise HOST_LINK where DLUP, WIDTH or SPEED change (R573). -/
def Dev.linkChange (d : Dev) (f : Dev → Dev) : Dev :=
  let look := fun (d : Dev) => (d.rd F.HUB_PCIE_STAT_DLUP, d.rd F.HUB_PCIE_STAT_WIDTH, d.rd F.HUB_PCIE_STAT_SPEED)
  let e := f d
  if look e = look d then e else e.raise 558 (e.fieldWord ⟨.HUB_PCIE_STAT, 0, 0, 0⟩ / 256)

/-- An FLR starts (R14, R420, R553): the controller, the I/O queues, the MSI-X table and pending bits and the FLR fields return to
reset; takes, pipes and every other register stay. -/
def Dev.flrStart (d : Dev) : Dev :=
  let d := ((d.hostReadsEnd false).nvFlr).cuvHostLost
  let d := d.updNvme fun n => { cfs := n.cfs, san := n.san, fmts := n.fmts, pid := n.pid, moved := n.moved, fw := n.fw, sanDone := n.sanDone }
  let d := d.updRouter fun r => { r with table := [], owed := [], coal := [] }
  (d.dropRegs fun k => k.dom == .flr || k.dom == .queue).wr F.HUB_PCIE_STAT_FLR 1

/-- An FLR ends: HOST_FLR is raised, and every routed event whose status is set has its vector's pending bit set (R566, R573). -/
def Dev.flrEnd (d : Dev) : Dev :=
  if !d.on F.HUB_PCIE_STAT_FLR then d
  else
    let d := (d.wr F.HUB_PCIE_STAT_FLR 0).raise 559 0
    let es := d.router.stat.filter fun e => d.on F.EVT_SRC_CFG_MSIX 0 e
    if d.hub.lost || d.isFollower then d
    else d.updRouter fun r => { r with owed := es.foldl (fun l e => insertNum (vectorOf e) l) r.owed }

def execFunctionLevelReset (s : State) : Out := run s fun d => if d.on F.HUB_PCIE_STAT_FLR then d else d.flrStart

def execFlrEnd (s : State) : Out := run s Dev.flrEnd

/-- The configuration space at its reset values: Bus Master Enable, MSI-X Enable and Function Mask clear. -/
def Dev.cfgReset (d : Dev) : Dev := ((d.wr F.HUB_PCIE_STAT_BME 0).wr F.HUB_PCIE_STAT_MSIXEN 0).wr F.HUB_PCIE_STAT_FMASK 0

/-- The link is down. -/
def Dev.linkFields (d : Dev) (up : Bool) (width speed : Nat) : Dev :=
  ((d.wrb F.HUB_PCIE_STAT_DLUP up).wr F.HUB_PCIE_STAT_WIDTH width).wr F.HUB_PCIE_STAT_SPEED speed

/-- A hot reset, or (with `down`) a Data Link Layer that goes down, acts as an FLR and resets the configuration space (R555). -/
def Dev.linkDown (d : Dev) (down : Bool) : Dev :=
  let d := (if d.on F.HUB_PCIE_STAT_FLR then d else d.flrStart).cfgReset
  if down then d.linkChange fun d => d.linkFields false 0 0 else d

def execPcieLinkDown (down : Bool) (s : State) : Out := run s fun d => d.linkDown down

/-- The link comes up at a width and speed (R550, R573); in Fallow mode with one lane at PCIe 5.0 (R649), in a follower not at all (R537). -/
def execPcieLinkUp (width : LinkWidth) (speed : LinkSpeed) (s : State) : Out := run s fun d =>
  if d.isFollower then d
  else
    let w := if d.on F.HUB_FALLOW_ACTIVE then 1 else match width with | .x1 => 1 | .x2 => 2 | .x4 => 4 | .x8 => 8
    let v := if d.on F.HUB_FALLOW_ACTIVE then 5 else match speed with | .g2 => 1 | .g5 => 2 | .g8 => 3 | .g16 => 4 | .g32 => 5
    d.linkChange fun d => d.linkFields true w v

/-- A host write of the configuration space (R554, R564): losing Bus Master Enable ends what waits for host memory as R132, R214 and
R530 state; owed messages go out as soon as nothing holds them. -/
def Dev.cfgWrite (d : Dev) (bme msixen fmask : Bool) : Dev :=
  let lost := d.on F.HUB_PCIE_STAT_BME && !bme
  let d := ((d.wrb F.HUB_PCIE_STAT_BME bme).wrb F.HUB_PCIE_STAT_MSIXEN msixen).wrb F.HUB_PCIE_STAT_FMASK fmask
  let d := if lost then (d.hostReadsEnd true).cuvHostLost else d
  d.cqDrain

def execConfigSpaceWrite (bme msixen fmask : Bool) (s : State) : Out := run s fun d =>
  if d.on F.HUB_PCIE_STAT_DLUP && !d.on F.HUB_PCIE_STAT_FLR then d.cfgWrite bme msixen fmask else d

end Sys2Proof.Machine
end

