-- ==== Sys2Proof/Machine/Therm.lean ====
section
/-!
DEFINITION. Temperature sensing, throttling, Pavane and TRIP (chapter 22, R630 to R641).
-/
namespace Sys2Proof.Machine

/-- The device with the thermal unit changed. -/
def Dev.updTherm (d : Dev) (f : Therm → Therm) : Dev := d.updHub fun h => { h with therm := f h.therm }

/-! ### Sensors (R630 to R632) -/

/-- The device-wide number of sensor `k` of pipe `u`, or of the Hub for 4. -/
def sensorNum (u k : Nat) : Nat := if u < 4 then 4 + 6 * u + k else k

/-- The fields VALID, FAULT and TEMP of a unit's sensors. -/
def sensFlds (u : Nat) : Fld × Fld × Fld :=
  if u < 4 then (F.PTHM_SENS_VALID, F.PTHM_SENS_FAULT, F.PTHM_SENS_TEMP) else (F.THERM_SENS_VALID, F.THERM_SENS_FAULT, F.THERM_SENS_TEMP)

/-- The valid readings of a unit as (sensor, 1/16 °C). -/
def Dev.readings (d : Dev) (u : Nat) : List (Nat × Int) :=
  let (v, _, t) := sensFlds u
  ((List.range (sensorCount u)).filter fun k => d.on v (u % 4) k).map fun k => (k, signed 16 (d.rd t (u % 4) k))

/-- The largest of a list of readings, the first among equals. -/
def hottest : List (Nat × Int) → Option (Nat × Int)
  | [] => none
  | a :: t =>
    match hottest t with
    | some b => if a.2 < b.2 then some b else some a
    | none => some a

/-- The hottest valid sensor of the device, by its device-wide number. -/
def Dev.hottestOf (d : Dev) : Option (Nat × Int) :=
  hottest ([4, 0, 1, 2, 3].flatMap fun u => (d.readings u).map fun x => (sensorNum u x.1, x.2))

/-- Shows the hottest sensor of the device. [log entry 78: DEDUCED] -/
def Dev.showHot (d : Dev) : Dev :=
  match d.hottestOf with
  | some (s, t) => (d.wr F.THERM_STAT_SENS s).wr F.THERM_STAT_TMAX (code 16 t)
  | none => (d.wr F.THERM_STAT_SENS 0).wr F.THERM_STAT_TMAX 0

/-- The thresholds a unit applies, WARN, THROTTLE, PAVANE and HYST: the Hub its registers, a pipe its copies; out of order, the reset
value of each threshold (R633). -/
def Dev.thresholds (d : Dev) (u : Nat) : Nat × Nat × Nat × Nat :=
  let x := if u < 4 then Tab.get (0x5F, 0x64, 0x6E, 3) d.hub.therm.copies u
    else (d.rd F.THERM_CFG_WARN, d.rd F.THERM_CFG_THROTTLE, d.rd F.THERM_CFG_PAVANE, d.rd F.THERM_CFG_HYST)
  let hyst := if x.2.2.2 = 0 then 3 else x.2.2.2
  if x.1 < x.2.1 ∧ x.2.1 < x.2.2.1 ∧ x.2.2.1 ≤ 110 then (x.1, x.2.1, x.2.2.1, hyst) else (0x5F, 0x64, 0x6E, hyst)

/-- The density at temperature `t` of a throttled scope (R634). [log entry 78: DEDUCED] -/
def Dev.thermDensity (d : Dev) (t : Int) (throttle : Nat) : Nat :=
  let dmin := let v := d.rd F.THERM_THR_DMIN; if v = 0 then 16 else v
  (clampI 0 63 ((dmin : Int) + (d.rd F.THERM_THR_STEP : Nat) * ((t - 16 * (throttle : Nat)) / 16))).toNat

/-- A unit's level field. -/
def levelFld (u : Nat) : Fld := if u < 4 then F.PTHM_STAT_LEVEL else F.THERM_STAT_LEVEL

/-- A scope's thermal density is applied (R634). -/
def Dev.thermApply (d : Dev) (u dens : Nat) : Dev := if u < 4 then (d.wr F.PTHM_STAT_DENS dens u).pauseEff u else d.hubPauseEff dens

/-- The rules of R632 to R634 on a scope's readings. [log entry 78: DEDUCED] -/
def Dev.thermScope (d : Dev) (u : Nat) : Dev :=
  let (warn, throttle, _, hyst) := d.thresholds u
  let c := u % 4
  let was := d.rd (levelFld u) c
  match hottest (d.readings u) with
  | none =>
    if u < 4 then ((((d.wr F.PTHM_STAT_NOVALID 1 u).wr F.PTHM_STAT_LEVEL (if d.stopped then 3 else 0) u).wr F.PTHM_STAT_SENS 0 u).wr
      F.PTHM_STAT_TMAX 0 u).thermApply u 63
    else (d.wr F.THERM_STAT_LEVEL (if d.stopped then 3 else 0)).thermApply 4 0
  | some (k, t) =>
    let past := fun (limit : Nat) (had : Bool) =>
      if had then decide (16 * ((limit : Int) - hyst) ≤ t) else decide (16 * (limit : Int) ≤ t)
    let warm := past warn (decide (1 ≤ was))
    let hot := past throttle (decide (2 ≤ was))
    let level := if d.stopped then 3 else if hot then 2 else if warm then 1 else 0
    let dens := if hot then d.thermDensity t throttle else 0
    let d := d.wr (levelFld u) level c
    let d := if u < 4 then ((d.wr F.PTHM_STAT_NOVALID 0 u).wr F.PTHM_STAT_SENS k u).wr F.PTHM_STAT_TMAX (code 16 t) u else d
    let d := d.when (warm && was == 0) fun d => d.raise 584 (sensorNum u k * 2 ^ 16 + code 16 t)
    let d := d.when (hot && decide (was < 2)) fun d => d.raise 585 (sensorNum u k * 2 ^ 16 + dens)
    d.thermApply u dens

/-- A sensor is faulty and left out of every rule (R631). -/
def Dev.sensorFault (d : Dev) (u k : Nat) : Dev :=
  let (v, f, _) := sensFlds u
  let n := sensorNum u k
  let d := ((d.wr f 1 (u % 4) k).wr v 0 (u % 4) k).updTherm fun x => { x with hot := x.hot.filter (· != n), trip := x.trip.filter (· != n) }
  let d := if u < 4 then d.raiseP u 78 k else d.raise 587 k
  (d.thermScope u).showHot

/-- Whether a sensor works: its unit has power and it is not faulty. -/
def Dev.sensorLive (d : Dev) (u k : Nat) : Bool := (u == 4 || d.powered u) && !d.on (sensFlds u).2.1 (u % 4) k

/-- Sensor `k` of unit `u` fails its self-check (R631). -/
def execThermSelfCheck (u : Unit5) (k : Fin 6) (ok : Bool) (s : State) : Out :=
  runIf (decide (k.val < sensorCount u)) s fun d => if ok || !d.sensorLive u k then d else d.sensorFault u k

/-! ### Pavane (R635 to R638) -/

/-- NVMe commands not yet admitted end with 0/05 (R416, R636, R659). -/
def Dev.nvUnadmitted (d : Dev) : Dev :=
  (d.hub.nvme.cmds.filter fun c => c.stage == 0).foldl (fun d c => d.nvEnd c.q c.cid 0 (nvmeStatus 0 0x05 0)) d

/-- Every open take closes at the last whole frame (R45, R636 step 4). -/
def Dev.takesClose (d : Dev) (cause : Nat) : Dev :=
  let d := if d.hub.lost then d else ((d.hub.takes.filter fun r => !r.ended).map (·.num)).foldl (fun d n => d.takeEnd n) d
  (List.range 4).foldl (fun d p => (d.arunEnd p cause).takeClosePipe p) d

/-- Pavane starts (R636, steps 1 to 4): a waiting reset and a press are dropped, unadmitted commands end, a cuvée job fails, a BIST run
ends, takes close. A Pavane that runs already goes on. [log entry 78: DEDUCED] -/
def Dev.pavane (d : Dev) (kind : Nat) : Dev :=
  if d.stopped then d
  else
    let h := d.hottestOf.getD (0, 0)
    let sec := ptpSec d.hubTime % 2 ^ 32
    let d := d.updTherm fun x => { x with kind := some kind, sens := h.1, temp := code 16 h.2, sec := sec, late := 0 }
    let d := d.updBoot fun b => { b with want := none, nrst := none, stby := none }
    let d := (d.raise 586 (kind * 2 ^ 28)).nvUnadmitted
    let d := (List.range 4).foldl (fun d p => d.cuvPipeGone p) d
    let d := if d.hub.lost then d else d.bistEnd 7
    let d := (List.range 4).foldl (fun d p => if d.powered p then d.wr F.PTHM_STAT_LEVEL 3 p else d) (d.wr F.THERM_STAT_LEVEL 3)
    d.takesClose 5

/-- A write of `THERM_CTL.PAVANE`. -/
def execThermPavaneRequest (s : State) : Out := bar2 .THERM 0 s fun d => d.pavane 3

/-- PFAIL_N has been low for 2 µs and starts Pavane (R635), or is high again. -/
def execPfailLow (low : Bool) (s : State) : Out := runAlways s fun d =>
  let d := (d.updBoot fun b => { b with pfail := low }).wrb F.THERM_STAT_PFAIL low
  if low && d.hub.boot.held.isNone then d.pavane 2 else d

/-- Slice `p` stops writing data at 220 ms (R636): what is not committed is lost, and its takes end at their last committed frame. [log entry 78: DEDUCED] -/
def Dev.pavaneLate (d : Dev) (p : Nat) : Dev :=
  let qs := (List.range 8).filter fun t => 2 ≤ d.tqState p t
  if qs.isEmpty && (d.cel p).pieces.isEmpty then d
  else
    let absent := d.cartState p == 7
    let d := qs.foldl (fun d t =>
      let q := d.tq p t
      let d := d.putEnc p q.vc { d.enc p q.vc with live := false, items := [], writing := false }
      let d := if absent then d else d.tqDir p t 1
      (d.caskFlush p (120 + t)).tqIdle p t) d
    let cut := (d.hub.nvme.cmds.filter fun c => c.q != 0 && c.stage == 3 && c.slice == p).map fun c => (c.q, c.cid)
    let d := d.updCel p fun c => { c with pieces := [], locks := c.locks.filter fun l => l.q != 0 && !cut.contains (l.q, l.cid) }
    let d := d.updNvme fun n => { n with cmds := n.cmds.filter fun c => !cut.contains (c.q, c.cid) }
    ((d.showOcc p).showTake p).updTherm fun x => { x with late := setBit x.late p }

def execPavaneCommitDeadline (s : State) : Out := run s fun d =>
  if d.stopped then (List.range 4).foldl (fun d p => d.pavaneLate p) d else d

/-- `THERM_LAST` takes its record. -/
def Dev.thermLast (d : Dev) (kind late sens temp sec : Nat) : Dev :=
  (((((d.wr F.THERM_LAST_VALID 1).wr F.THERM_LAST_KIND kind).wr F.THERM_LAST_INCOMPLETE late).wr F.THERM_LAST_SENS sens).wr
    F.THERM_LAST_TEMP temp).wr F.THERM_LAST_S_S sec

/-- The device holds itself in reset with PAVOFF_N and AON_SUPEN low. -/
def Dev.darken (d : Dev) (h : Held) : Dev := (d.holdReset h).updBoot fun b => { b with pavoff := true, supLow := true }

/-- Step 7 (R636, R638), once every take is on its cartridge: the cartridges unmount, the record is written, the pipes are gated off and
PAVOFF_N goes low. -/
def Dev.pavaneOff (d : Dev) : Dev :=
  match d.hub.therm.kind with
  | none => d
  | some kind =>
    if (List.range 4).all fun p => d.takesShut p then
      let x := d.hub.therm
      let late := if d.hub.lost then 0 else x.late
      let d := (List.range 4).foldl (fun d p => d.cartUnmount p) d
      (d.thermLast kind late x.sens x.temp x.sec).darken .pavoff
    else d

def execPavanePowerOff (s : State) : Out := run s Dev.pavaneOff

/-- TRIP (R640). -/
def Dev.thermTrip (d : Dev) : Dev :=
  let h := d.hottestOf.getD (0, 0)
  (d.thermLast 4 0 h.1 (code 16 h.2) (ptpSec d.hubTime % 2 ^ 32)).darken .trip

/-! ### Conversions (R633) -/

/-- A conversion of sensor `k` of unit `u` reads `t`, in 1/16 °C: a reading outside −55 °C to 150 °C is a fault; a second one in a row at
TRIP shuts the device off, at PAVANE starts Pavane. In Fallow mode no sensor starts one (R649), nor does one of a lost Hub (R44). [log entry 78: DEDUCED] -/
def Dev.thermConv (d : Dev) (u k : Nat) (t : Int) : Dev :=
  if !d.sensorLive u k then d
  else if t < -55 * 16 ∨ 150 * 16 < t then d.sensorFault u k
  else
    let (v, _, tf) := sensFlds u
    let n := sensorNum u k
    let d := (d.wr tf (code 16 t) (u % 4) k).wr v 1 (u % 4) k
    let hot := decide (16 * ((d.thresholds u).2.2.1 : Int) ≤ t)
    let trip := decide (16 * (118 : Int) ≤ t)
    let hotTwice := hot && d.hub.therm.hot.contains n
    let tripTwice := trip && d.hub.therm.trip.contains n
    let d := d.updTherm fun x => { x with
      hot := if hot then insertNum n x.hot else x.hot.filter (· != n)
      trip := if trip then insertNum n x.trip else x.trip.filter (· != n) }
    if tripTwice then d.thermTrip
    else
      let d := ((d.thermScope u).showHot).bistWatch
      if hotTwice && !d.on F.HUB_FALLOW_ACTIVE && (u != 4 || !d.hub.lost) then d.pavane 1 else d

def execThermConversion (u : Unit5) (k : Fin 6) (t : Int) (s : State) : Out :=
  runIf (decide (k.val < sensorCount u)) s fun d => d.thermConv u k t

end Sys2Proof.Machine
end

