-- ==== Sys2Proof/Machine/Boot.lean ====
section
/-!
DEFINITION. Boot, the reset sequencer, NRST, Fallow mode, firmware images, standby, the supplies and the boot flash (chapters 1, 23 and
25: R42, R46, R47, R642 to R664, R692 to R699).
-/
namespace Sys2Proof.Machine

/-! ### What the always-on domain shows -/

/-- The registers that show always-on state and pins, as they stand after a reset. -/
def Dev.bootShow (d : Dev) : Dev :=
  let b := d.hub.boot
  ((d.wr F.HUB_BOOT_STAT_FAILS b.fails).wrb F.HUB_BOOT_STAT_NRSTMASK b.mask).wrb F.THERM_STAT_PFAIL b.pfail

/-- The stage reached. -/
def Dev.bootStage (d : Dev) : Nat := d.rd F.HUB_BOOT_STAT_STAGE

/-- Whether an attempt runs that is neither good nor ended. -/
def Dev.attempting (d : Dev) : Bool := d.hub.boot.released && !d.hub.boot.good && d.hub.boot.want.isNone

/-- A failed attempt of image `image` is logged and counted; the next attempt uses the other image (R646, R647). -/
def Dev.bootLog (d : Dev) (image cause : Nat) : Dev :=
  let stage := d.bootStage
  let fs := [F.HUB_BOOT_LOG_VALID, F.HUB_BOOT_LOG_IMAGE, F.HUB_BOOT_LOG_STAGE, F.HUB_BOOT_LOG_CAUSE, F.HUB_BOOT_LOG_BCNT]
  let d := [1, 0].foldl (fun d n => fs.foldl (fun d f => d.wr f (d.rd f 0 n) 0 (n + 1)) d) d
  let d := (((d.wr F.HUB_BOOT_LOG_VALID 1).wr F.HUB_BOOT_LOG_IMAGE image).wr F.HUB_BOOT_LOG_STAGE stage).wr F.HUB_BOOT_LOG_CAUSE cause
  let d := d.wr F.HUB_BOOT_LOG_BCNT (d.rd F.HUB_BOOT_CNT_CNT % 2 ^ 16)
  (d.updBoot fun b => { b with fails := min 3 (b.fails + 1), next := some (1 - image) }).bootShow

/-- An attempt fails: a warm reset with cause BOOT_RETRY follows (R646). [log entry 74: DEDUCED] -/
def Dev.bootFail (d : Dev) (cause : Nat) : Dev :=
  if d.stopped then d
  else ((d.bootLog (d.rd F.HUB_BOOT_STAT_IMAGE) cause).updBoot fun b => { b with want := some (6, none), ls := d.on F.BIST_CFG_BOOTLS }).takesClose 4

/-! ### Warm resets (R46, R47, R656) -/

/-- A warm reset is requested: discarded while one waits or a Pavane runs (R637, R656). -/
def Dev.warmWant (d : Dev) (cause : Nat) (reason : Option Nat) : Dev :=
  if d.stopped || d.hub.boot.want.isSome then d
  else (d.updBoot fun b => { b with want := some (cause, reason), ls := d.on F.BIST_CFG_BOOTLS, stby := none }).takesClose 4

/-- `HUB_RST_CTL.WARM` (R656): before BOOT_OK, the running firmware's own request fails the attempt (R646). -/
def Dev.rstWarm (d : Dev) : Dev := if d.attempting && d.bootStage == 5 then d.bootFail 0xA else d.warmWant 4 none

def execHubRstWarm (s : State) : Out := bar2 .HUB_CTL 0 s Dev.rstWarm

def execHubRstFallow (s : State) : Out := bar2 .HUB_CTL 0 s fun d => d.warmWant 5 (some 4)

/-- Whether pipe `p` reports no open take: after a Hub loss a pipe in RUN does not know of it yet (R43, R47). [log entry 70: DEDUCED] -/
def Dev.resetReady (d : Dev) (p : Nat) : Bool := d.takesShut p && (!d.hub.lost || d.rd F.PCTL_STAT_STATE p != 3)

/-- The warm reset that waits starts (R46, R47): the cartridges unmount (R716), the fields return to their values, the cause is
recorded. A reset that leaves Fallow mode for a normal boot clears FAILS (R650). -/
def Dev.warmStart (d : Dev) : Dev :=
  match d.hub.boot.want with
  | none => d
  | some (cause, reason) =>
    if (List.range 4).all fun p => d.resetReady p then
      let leave := d.on F.HUB_FALLOW_ACTIVE && reason.isNone && (cause == 1 || cause == 4)
      let d := (List.range 4).foldl (fun d p => d.cartUnmount p) d
      let d := d.warmRestore.wr F.HUB_RST_CAUSE_CAUSE cause
      (d.updBoot fun b => { b with
        want := none, reason := reason, released := false, good := false, hold := false, kept := none, stby := none, version := []
        fails := if leave then 0 else b.fails, next := if cause = 6 then b.next else none }).bootShow
    else d

def execWarmResetStart (s : State) : Out := run s Dev.warmStart

/-! ### Hub loss (R42, R49, R556, R602, R646, R674) -/

/-- The Hub is lost: it becomes fail-silent. The reset sequencer's warm reset waits for the pipes (R47); before BOOT_OK the attempt, or
an activation's new image, has failed. [log entry 74: DEDUCED; log entry 79: DEDUCED] -/
def Dev.hubLoss (d : Dev) : Dev :=
  if d.hub.lost then d
  else
    let trial := d.hub.boot.kept.isSome
    let early := d.attempting
    let d := (d.updHub fun h => { h with lost := true, hreq := [], nvme := { h.nvme with cfs := true }, gov := { h.gov with op := .none, bus := [], tries := 0, waiting := false, settling := false, cut := false } }).cuvHubLost.bistLost
    let d := (List.range 3).foldl (fun d q => d.qdlDown q) d
    let d := (List.range 2).foldl (fun d o => d.panelOff o) d
    let d := (List.range 4).foldl (fun d k => d.audPortOff k) d
    if d.stopped then d
    else
      let d := if early || trial then d.bootLog (d.rd F.HUB_BOOT_STAT_IMAGE) 0xB else d
      d.updBoot fun b => { b with
        stby := none, ls := d.on F.BIST_CFG_BOOTLS
        want := match b.want with | some (_, r) => some (7, r) | none => some (if early then 6 else 7, none) }

def execHubLoss (s : State) : Out := run s Dev.hubLoss

def execHubWatchdogExpiry (s : State) : Out := run s Dev.hubLoss

/-! ### Images (R644, R645) -/

/-- The little-endian number of `n` bytes at `o` of what `at_` reads. -/
def imgField (at_ : Nat → Nat → List Byte) (o n : Nat) : Nat := ofLeBytes (at_ o n)

/-- The first check of R645 that an image fails, as its cause. The signature block's ALG and reserved bytes count with the header. -/
def Dev.imageCheck (d : Dev) (at_ : Nat → Nat → List Byte) : Option Nat :=
  let f := imgField at_
  let total := f 8 4
  let code := total - 384
  let sig := total - 256
  let slot := f (sig + 2) 2
  let key := at_ (sig + 0x10) 96
  if f 0 4 ≠ 0x49425850 then some 2
  else if f 4 2 ≠ 1 ∨ f 6 2 ≠ 128 ∨ total < 384 ∨ code % 4 ≠ 0 ∨ 8 * 2 ^ 20 < code ∨ f 0x14 4 % 4 ≠ 0 ∨ code ≤ f 0x14 4 ∨ f 0x13 1 ≠ 0 ∨
    f 0x28 88 ≠ 0 ∨ f sig 2 ≠ 1 ∨ f (sig + 4) 12 ≠ 0 ∨ f (sig + 0xD0) 48 ≠ 0 then some 3
  else if f 0x10 2 ≠ 0x4410 ∨ !(f 0x12 1 == 0 || f 0x12 1 == d.rd F.HUB_ID_STEPPING) then some 4
  else if f 0xC 4 < d.rd F.CUVL_SVN_FLOOR then some 5
  else if !(decide (slot ≤ 3) && d.keyAccepts slot 1 key) then some 6
  else if !p384Verify key (at_ (sig + 0x70) 96) (at_ 0 sig) then some 7
  else none

/-- Image `i`'s bytes in the boot flash. -/
def Dev.slotBytes (d : Dev) (i o n : Nat) : List Byte := d.flashReads (0x01000000 * i + o) n

/-- An image that has passed its checks runs: the security unit knows its SVN and signer. -/
def Dev.imageRuns (d : Dev) (at_ : Nat → Nat → List Byte) : Dev :=
  let svn := imgField at_ 0xC 4
  let slot := imgField at_ (imgField at_ 8 4 - 254) 2
  (d.updSecu fun u => { u with imgSvn := svn, imgSlot := some slot }).updBoot fun b => { b with version := at_ 0x18 8 }

/-! ### Boot attempts (R642 to R648) -/

/-- Why the boot at hand enters Fallow mode: the reset's own reason, three failures, or the life-cycle state (R648, R657). [log entry 75: DEDUCED] -/
def Dev.fallowReason (d : Dev) : Option Nat :=
  (d.hub.boot.reason.or (if 3 ≤ d.hub.boot.fails then some 1 else none)).or (if d.lcs = 0 ∨ d.lcs = 5 then some 5 else none)

/-- Whether the boot at hand holds for the temperature (R639). -/
def Dev.bootHolds (d : Dev) : Bool :=
  let c := d.rd F.HUB_RST_CAUSE_CAUSE
  c == 0xB || (c == 0xA && d.rd F.THERM_LAST_KIND == 1)

/-- Reset is released: the security unit comes up, and an attempt starts in stage ROM, or Fallow mode is entered (R643, R647, R649). Not
while PFAIL_N is low (R695), nor at a power-on while NRST is (R653). -/
def Dev.resetRelease (d : Dev) : Dev :=
  let b := d.hub.boot
  if b.held.isSome || b.released || b.pfail || (b.ready && b.nrst.isSome) then d
  else
    let d := d.seedsDrawn.bootShow
    let hold := d.bootHolds
    let d := (d.wrb F.HUB_BOOT_STAT_HOLDTEMP hold).wr F.HUB_BOOT_STAT_STAGE (if hold then 0 else 1)
    match d.fallowReason with
    | some r =>
      let d := d.updSecu fun u => { u with imgSvn := 0, imgSlot := none }
      (((d.wr F.HUB_FALLOW_ACTIVE 1).wr F.HUB_FALLOW_REASON r).wr F.HUB_BOOT_STAT_IMAGE 2).updBoot fun b =>
        { b with released := true, ready := false, good := true, hold := hold, next := none }
    | none =>
      let image := b.next.getD (d.rd F.HUB_BOOT_CFG_SEL)
      ((d.wr F.HUB_BOOT_STAT_IMAGE image).wr F.HUB_BOOT_CNT_CNT (d.rd F.HUB_BOOT_CNT_CNT + 1)).updBoot fun b =>
        { b with released := true, ready := false, hold := hold, next := none }

def execResetRelease (s : State) : Out := run s Dev.resetRelease

/-- The held boot goes on once every valid Hub sensor reads below 85 °C (R639): every sensor has converted, or is faulty.
[log entry 78: DEDUCED] -/
def Dev.holdRelease (d : Dev) : Dev :=
  let known := (List.range 4).all fun k => d.on F.THERM_SENS_VALID 0 k || d.on F.THERM_SENS_FAULT 0 k
  if d.hub.boot.hold && known && d.hubTemps.all fun t => decide (t < 85 * 16) then
    (d.updBoot fun b => { b with hold := false }).wr F.HUB_BOOT_STAT_STAGE 1
  else d

def execBootThermalHoldRelease (s : State) : Out := run s Dev.holdRelease

/-- The lockstep controller's test of a boot that follows a request with BOOTLS set (R671): its result is logged and BOOTLS clears. -/
def Dev.bootLockstep (d : Dev) (pass : Bool) : Dev :=
  if d.hub.boot.ls then
    ((d.bistLog (b2n !pass) 0xC 0 0).wr F.BIST_CFG_BOOTLS 0).updBoot fun b => { b with ls := false }
  else d

/-- The ROM's checks end (R645, R646): `sram` and `lockstep` say whether the self-check of Hub SRAM and the lockstep test passed,
`flash` whether the flash was read without error. -/
def Dev.bootVerify (d : Dev) (sram lockstep flash : Bool) : Dev :=
  if d.attempting && !d.hub.boot.hold && 1 ≤ d.bootStage && decide (d.bootStage ≤ 3) then
    let bad := !sram || (d.hub.boot.ls && !lockstep)
    let d := d.bootLockstep lockstep
    if bad then d.bootFail 8
    else
      let d := d.wr F.HUB_BOOT_STAT_STAGE 3
      let i := d.rd F.HUB_BOOT_STAT_IMAGE
      if !flash then d.bootFail 1
      else
        match d.imageCheck (d.slotBytes i) with
        | some c => d.bootFail c
        | none => (d.imageRuns (d.slotBytes i)).wr F.HUB_BOOT_STAT_STAGE 4
  else d

def execBootVerifyDone (sram lockstep flash : Bool) (s : State) : Out := run s fun d => d.bootVerify sram lockstep flash

def execBootLoadDone (s : State) : Out := run s fun d =>
  if d.attempting && d.bootStage == 4 then d.wr F.HUB_BOOT_STAT_STAGE 5 else d

/-- An activation ends (R652): OK, or REVERTED to the kept image. -/
def Dev.activated (d : Dev) (ok : Bool) : Dev :=
  match d.hub.boot.kept with
  | none => d
  | some k =>
    let slot := d.rd F.HUB_BOOT_STAT_IMAGE
    let d := (d.wr F.HUB_BOOT_STAT_ACTPEND 0).updBoot fun b => { b with kept := none }
    if ok then (d.wr F.HUB_BOOT_CFG_SEL slot).raise 591 (pack [(3, slot + 1), (1, 0)])
    else
      let d := ((d.wr F.HUB_BOOT_STAT_IMAGE k.image).updSecu fun u => { u with imgSvn := k.svn, imgSlot := k.slot }).updBoot fun b =>
        { b with version := k.version }
      (d.raise 591 (pack [(3, slot + 1), (1, 1)])).asyncEvent 2 1 3

/-- `HUB_BOOT_OK.OK` (R646, R652): the running firmware declares the boot, or the activated image, good; any other write is
discarded. [log entry 74: DEDUCED] -/
def Dev.bootOk (d : Dev) : Dev :=
  if d.hub.boot.kept.isSome then d.activated true
  else if d.attempting && d.bootStage == 5 then
    let i := d.rd F.HUB_BOOT_STAT_IMAGE
    let d := (d.updBoot fun b => { b with good := true, fails := 0 }).bootShow
    ((d.wr F.HUB_BOOT_CFG_SEL i).wr F.HUB_BOOT_STAT_STAGE 6).raise 588 (pack [(2, i), (16, d.rd F.HUB_BOOT_CNT_CNT)])
  else d

def execBootOkWrite (s : State) : Out := bar2 .HUB_CTL 0 s Dev.bootOk

def execBootWatchdogExpiry (s : State) : Out := run s fun d => if d.attempting && !d.hub.boot.hold then d.bootFail 9 else d

/-- 20 s without BOOT_OK from an activated image (R652). -/
def execFwActivationTimeout (s : State) : Out := runHub s fun d => d.activated false

/-! ### Firmware commands (R651, R652) -/

/-- Firmware Image Download: NUMD and OFST count dwords. -/
def Dev.fwDownload (d : Dev) (c : NvmeCmd) : Dev :=
  let bs := d.prpRead c (4 * (c.d 10 + 1))
  (d.updNvme fun n => { n with fw := n.fw.writes (4 * c.d 11) bs }).admEnd c 0

def execFirmwareImageDownload (cid : BitVec 16) (s : State) : Out := run s fun d => d.nvAdmin cid.toNat 0x11 Dev.fwDownload

/-- The staged image is written to slot `k`; a write that fails leaves the slot marked empty. [log entry 76: DEDUCED] -/
def Dev.fwStore (d : Dev) (k : Nat) (bad : Bool) : Dev :=
  let a := 0x01000000 * (k - 1)
  let n := Mem.readLe d.hub.nvme.fw 8 4
  let d := d.flashErase a n
  if bad then d.flashWrites a (leBytes 4 0) else d.flashWrites a (d.hub.nvme.fw.reads 0 n)

/-- Firmware Commit with one of the actions that write: the staged image is checked, then the slot; `f` follows a write that succeeds. An
action beyond 0b011 is an invalid field (R416). [log entry 76: DEDUCED] -/
def Dev.fwCommit (d : Dev) (c : NvmeCmd) (action : Nat) (bad : Bool) (f : Dev → Nat → Dev) : Dev :=
  let k := slice (c.d 10) 2 0
  let running := d.rd F.HUB_BOOT_STAT_IMAGE + 1
  if 3 < slice (c.d 10) 5 3 then d.admEnd c (nvmeStatus 0 0x02 1)
  else if slice (c.d 10) 5 3 ≠ action then d
  else if action = 3 ∧ d.on F.HUB_FALLOW_ACTIVE then d.admEnd c (nvmeStatus 1 0x0B 0)
  else if d.lcs = 5 ∨ (d.imageCheck (d.hub.nvme.fw.reads · ·)).isSome then d.admEnd c (nvmeStatus 1 0x07 0)
  else if k = 0 ∨ 2 < k ∨ (action = 3 ∧ k = running) then d.admEnd c (nvmeStatus 1 0x06 0)
  else
    let d := d.fwStore k bad
    if bad then d.admEnd c (nvmeStatus 2 0x80 0) else (f d k).admEnd c 0

def execFwCommitWrite (cid : BitVec 16) (bad : Bool) (s : State) : Out := run s fun d =>
  d.nvAdmin cid.toNat 0x10 fun d c => d.fwCommit c 0 bad fun d _ => d

def execFwCommitWriteSelect (cid : BitVec 16) (bad : Bool) (s : State) : Out := run s fun d =>
  d.nvAdmin cid.toNat 0x10 fun d c => d.fwCommit c 1 bad fun d k => d.wr F.HUB_BOOT_CFG_SEL (k - 1)

/-- Action 0b010. -/
def Dev.fwSelect (d : Dev) (c : NvmeCmd) : Dev :=
  let k := slice (c.d 10) 2 0
  if 3 < slice (c.d 10) 5 3 then d.admEnd c (nvmeStatus 0 0x02 1)
  else if slice (c.d 10) 5 3 ≠ 2 then d
  else if d.lcs = 5 then d.admEnd c (nvmeStatus 1 0x07 0)
  else if k = 0 ∨ 2 < k then d.admEnd c (nvmeStatus 1 0x06 0)
  else (d.wr F.HUB_BOOT_CFG_SEL (k - 1)).admEnd c 0

def execFwCommitSelect (cid : BitVec 16) (s : State) : Out := run s fun d => d.nvAdmin cid.toNat 0x10 Dev.fwSelect

/-- The new image starts and the running one is kept (R652). [log entry 76: DEDUCED] -/
def Dev.fwActivate (d : Dev) (k : Nat) : Dev :=
  let old : KeptImage := d.hub.boot.kept.getD
    ⟨d.rd F.HUB_BOOT_STAT_IMAGE, d.hub.secu.imgSvn, d.hub.secu.imgSlot, d.hub.boot.version⟩
  (((d.imageRuns (d.slotBytes (k - 1))).updBoot fun b => { b with kept := some old }).wr F.HUB_BOOT_STAT_IMAGE (k - 1)).wr
    F.HUB_BOOT_STAT_ACTPEND 1

def execFwCommitActivate (cid : BitVec 16) (bad : Bool) (s : State) : Out := run s fun d =>
  d.nvAdmin cid.toNat 0x10 fun d c => d.fwCommit c 3 bad Dev.fwActivate

/-! ### NRST (R653 to R655) -/

/-- NRST falls: ignored while masked and from a release until its reset starts (R654, R655); during a standby entry it is a wake source
(R661). [log entry 75: DEDUCED] -/
def Dev.nrstFall (d : Dev) : Dev :=
  let b := d.hub.boot
  let waits := match b.want with | some (c, _) => 1 ≤ c && decide (c ≤ 3) | none => false
  if b.mask || waits || b.nrst.isSome || d.stopped then d
  else if b.stby.isSome then d.updBoot fun b => { b with edges := setBit b.edges 5 }
  else d.updBoot fun b => { b with nrst := some false }

def execNrstFall (s : State) : Out := runAlways s Dev.nrstFall

/-- A press reaches 20 ms. -/
def Dev.nrstTwenty (d : Dev) : Dev :=
  if d.hub.boot.nrst = some false then
    let d := d.updBoot fun b => { b with nrst := some true }
    if d.hub.boot.held.isSome then d else d.raise 589 0
  else d

def execNrstPress (s : State) : Out := runAlways s Dev.nrstTwenty

/-- NRST asks for a warm reset; one that waits already goes on with its cause, and takes this one's Fallow reason. Before reset is
released at a power-on the boot at hand takes it. [log entry 75: DEDUCED] -/
def Dev.nrstRequest (d : Dev) (cause : Nat) (reason : Option Nat) : Dev :=
  let b := d.hub.boot
  if b.held.isSome || !b.released then
    let d := d.updBoot fun b => { b with reason := reason.or b.reason }
    if cause = 3 then d.wr F.HUB_RST_CAUSE_CAUSE 3 else d
  else
    match b.want with
    | some (c, r) => (d.updBoot fun b => { b with want := some (c, reason.or r) }).takesClose 4
    | none => d.warmWant cause reason

/-- NRST rises after `len` steps of 10 ms (R653). -/
def Dev.nrstRise (d : Dev) (len : Nat) : Dev :=
  if d.hub.boot.nrst.isNone then d
  else
    let d := (if 2 ≤ len then d.nrstTwenty else d).updBoot fun b => { b with nrst := none }
    if len < 2 then d
    else
      let d := d.wr F.HUB_RST_CAUSE_PRESS (min 0xFFFF len)
      if 800 ≤ len then d.nrstRequest 2 (some 2) else d.nrstRequest 1 none

def execNrstRelease (len : Nat) (s : State) : Out := runAlways s fun d => d.nrstRise len

/-- NRST still low at 30 s (R655). -/
def Dev.nrstStuck (d : Dev) : Dev :=
  if d.hub.boot.nrst.isNone then d
  else
    let d := (d.updBoot fun b => { b with nrst := none, mask := true }).wr F.HUB_BOOT_STAT_NRSTMASK 1
    d.nrstRequest 3 (some 3)

def execNrstStuckTimeout (s : State) : Out := runAlways s Dev.nrstStuck

/-- A masked NRST has been high for 100 ms. -/
def Dev.nrstRearm (d : Dev) : Dev :=
  if d.hub.boot.mask then
    let d := (d.updBoot fun b => { b with mask := false }).wr F.HUB_BOOT_STAT_NRSTMASK 0
    if d.hub.boot.held.isSome then d else d.raise 590 0
  else d

def execNrstRearm (s : State) : Out := runAlways s Dev.nrstRearm

/-! ### Standby (R659 to R662) -/

/-- Whether a take is open in the device or an UP follower. -/
def Dev.takeAnywhere (d : Dev) : Bool :=
  ((List.range 4).any fun p => d.on F.PCTL_STAT_TAKE p) ||
    (d.rd F.QDL_ID_DEVID == 0 && (List.range 3).any fun q => d.qdlUp q && Tab.get 0 d.hub.qdl.openTakes (q + 1) != 0)

/-- A write of `HUB_STBY_CTL` with GO set: discarded while GO reads 1. [log entry 77: DEDUCED] -/
def Dev.standbyGo (d : Dev) (mode : Nat) : Dev :=
  if d.on F.HUB_STBY_CTL_GO then d
  else
    let d := d.wr F.HUB_STBY_CTL_MODE mode
    if d.takeAnywhere then d.wr F.HUB_STBY_STAT_RESULT 1
    else if mode ≠ 1 ∧ mode ≠ 2 then d.wr F.HUB_STBY_STAT_RESULT 2
    else if d.stopped || d.hub.boot.want.isSome then d
    else
      let d := ((d.wr F.HUB_STBY_CTL_GO 1).wr F.HUB_STBY_STAT_BUSY 1).wr F.HUB_STBY_STAT_RESULT 0
      (d.updBoot fun b => { b with stby := some mode, edges := 0 }).nvUnadmitted

def execStandbyRequest (mode : Fin 8) (s : State) : Out := bar2 .HUB_CTL 0 s fun d => d.standbyGo mode

/-- The wake mask that `HUB_STBY_CFG` sets, NRST always among it. -/
def Dev.wakeMask (d : Dev) : Nat := 32 + 16 * d.rd F.HUB_STBY_CFG_WAKEPIN + d.rd F.HUB_STBY_CFG_CART

/-- Steps 2 to 4 of R659: the cartridges unmount, the mode, wake mask and seconds are latched, everything but the always-on domain goes
off. Without a running crystal Keep becomes Vault (R662). -/
def Dev.standbyEnter (d : Dev) (xtal : Bool) : Dev :=
  match d.hub.boot.stby with
  | none => d
  | some mode =>
    if (List.range 4).all fun p => d.takesShut p then
      let noXtal := mode == 2 && !xtal
      let mode := if noXtal then 1 else mode
      let sec := ptpSec d.hubTime
      let mask := d.wakeMask
      let edges := Nat.land d.hub.boot.edges mask
      let d := (List.range 4).foldl (fun d p => d.cartUnmount p) d
      let d := ((d.wr F.HUB_WAKE_MODE mode).wrb F.HUB_WAKE_NOXTAL noXtal).wr F.HUB_WAKE_SRC 0
      let d := if mode = 2 then d.wr F.HUB_AON_SEC_SEC (sec % 2 ^ 32) else d
      (d.holdReset .standby).updBoot fun b => { b with
        supLow := true, mode := mode, wakes := mask, edges := edges, secHi := sec / 2 ^ 32 }
    else d

def execStandbyEntryDone (xtal : Bool) (s : State) : Out := run s fun d => d.standbyEnter xtal

/-- AON_SUPEN rises for the wake edges `e`. [log entry 77: DEDUCED] -/
def Dev.wake (d : Dev) (e : Nat) : Dev :=
  (d.wr F.HUB_WAKE_SRC (Nat.lor (d.rd F.HUB_WAKE_SRC) e)).updBoot fun b => { b with supLow := false, edges := 0 }

/-- Wake edges (R660, R661, R695): in standby AON_SUPEN rises; during the entry and after PAVOFF_N they are latched. `secs` are the
seconds the crystal has counted in Keep. -/
def Dev.wakeEdges (d : Dev) (src secs : Nat) : Dev :=
  let b := d.hub.boot
  let e := Nat.land src (if b.stby.isSome then d.wakeMask else if b.wakes = 0 then 32 else b.wakes)
  if e = 0 then d
  else if b.stby.isSome then d.updBoot fun b => { b with edges := Nat.lor b.edges e }
  else if !b.supLow then d
  else
    match b.held with
    | some .standby =>
      let d := if b.mode = 2 then d.wr F.HUB_AON_SEC_SEC (d.rd F.HUB_AON_SEC_SEC + secs) else d
      d.wake (Nat.lor e b.edges)
    | some _ => d.updBoot fun b => { b with edges := Nat.lor b.edges e }
    | none => d

def execAonWake (src : BitVec 6) (secs : Nat) (s : State) : Out := runAlways s fun d => d.wakeEdges src.toNat secs

/-- AON_SUPEN has been low for 10 ms with a wake latched. -/
def Dev.wakeLatched (d : Dev) : Dev := if d.hub.boot.supLow && d.hub.boot.edges != 0 then d.wake d.hub.boot.edges else d

def execLatchedWakeRelease (s : State) : Out := runAlways s Dev.wakeLatched

/-! ### Supplies (R55, R656, R692 to R699) -/

/-- A supply loss: the device enters reset; an attempt not yet good has failed (R646). -/
def Dev.supplyLoss (d : Dev) : Dev :=
  if d.hub.boot.held.isSome then d.updBoot fun b => { b with pavoff := false, ready := false }
  else
    let d := if d.hub.boot.released && !d.hub.boot.good then d.bootLog (d.rd F.HUB_BOOT_STAT_IMAGE) 0xC else d
    d.holdReset .supply

def execSupplyLoss (s : State) : Out := runAlways s Dev.supplyLoss

/-- The always-on values are lost (R699). -/
def Dev.aonLose (d : Dev) : Dev :=
  (d.dropRegs fun k => k.dom == .always && k.reg != .HUB_LCS && k.reg != .HUB_SERIAL_LO && k.reg != .HUB_SERIAL_HI).updBoot fun b =>
    { held := b.held, pfail := b.pfail, nrst := b.nrst }

/-- The cause a power-on records (R656). [log entry 78: DEDUCED] -/
def Dev.powerCause (d : Dev) : Nat :=
  if d.on F.THERM_LAST_VALID then (if d.rd F.THERM_LAST_KIND = 4 then 0xB else 0xA)
  else match d.hub.boot.mode with | 1 => 8 | 2 => 9 | _ => 0

/-- A power-on (R14, R534, R656, R662, R684): every domain but the always-on one is restored. The device stays in reset until SUP_PG
releases it. -/
def Dev.coldReset (d : Dev) (devid : Nat) (aonLost : Bool) : Dev :=
  let d := if d.hub.boot.held.isSome then d else d.supplyLoss
  let d := if aonLost then d.aonLose else d
  let keep := d.hub.boot.mode == 2
  let t := (d.hub.boot.secHi * 2 ^ 32 + d.rd F.HUB_AON_SEC_SEC) * 1000000000 * 256
  let cause := d.powerCause
  let d := (d.coldRestore devid).wr F.HUB_RST_CAUSE_CAUSE cause
  let d := if keep then d.updHub fun h => { h with anchor := { h.anchor with ta := t } } else d
  (d.updBoot fun b => { b with
    held := some .supply, ready := true, pavoff := false, supLow := false, mode := 0, reason := none, want := none, released := false
    good := false, hold := false, version := [] }).bootShow

def execColdReset (devid : Fin 4) (aonLost : Bool) (s : State) : Out := runAlways s fun d => d.coldReset devid aonLost

/-- SUP_PG is high with every rail in range for 1 ms: a power-on goes on (R692); a device that was not powered on again stays in reset
(R638). -/
def execSupPgRise (s : State) : Out := runAlways s fun d =>
  if d.hub.boot.ready then d.updBoot fun b => { b with held := none } else d

/-! ### The boot flash (R663) -/

/-- A flash command ends. -/
def Dev.flashEnd (d : Dev) (result : Nat) : Dev :=
  ((d.wr F.HUB_FLASH_CMD_GO 0).wr F.HUB_FLASH_CMD_BUSY 0).wr F.HUB_FLASH_CMD_RESULT result

/-- A write of `HUB_FLASH_CMD`: discarded while GO reads 1; a bad OP or range ends the command at once. -/
def Dev.flashCmd (d : Dev) (w : Nat) : Dev :=
  if d.on F.HUB_FLASH_CMD_GO then d
  else
    let op := slice w 30 28
    let d := d.wr F.HUB_FLASH_CMD_OP op
    if !bit w 31 then d
    else
      let o := d.rd F.HUB_FLASH_OFF_LEN
      let n := d.rd F.HUB_FLASH_LEN_LEN
      let d := (((d.wr F.HUB_FLASH_CMD_GO 1).wr F.HUB_FLASH_CMD_BUSY 1).wr F.HUB_FLASH_CMD_RESULT 0).wr F.HUB_FLASH_CMD_PROGRESS 0
      if op ≠ 1 ∧ op ≠ 2 then d.flashEnd 4
      else if o < 0x02000000 ∨ 2 ^ 32 < o + n ∨ o % 4 ≠ 0 ∨ n % 4 ≠ 0 then d.flashEnd 1
      else d

def execFlashProgram (s : State) : Out := bar2 .HUB_CTL 0 s fun d => d.flashCmd 0x90000000

def execFlashErase (s : State) : Out := bar2 .HUB_CTL 0 s fun d => d.flashCmd 0xA0000000

/-- A running flash command ends (R663): `bad` says that the flash failed, after which the range holds open values. [log entry 76: DEDUCED] -/
def Dev.flashDone (d : Dev) (bad : Bool) : Dev :=
  if !d.on F.HUB_FLASH_CMD_BUSY then d
  else
    let o := d.rd F.HUB_FLASH_OFF_LEN
    let n := d.rd F.HUB_FLASH_LEN_LEN
    let program := d.rd F.HUB_FLASH_CMD_OP == 1
    let src := d.rd64 F.HUB_FLASH_SRC_LO_ADDR_LO F.HUB_FLASH_SRC_HI_ADDR_HI
    if program && !d.hostOk then d.flashEnd 3
    else if bad then
      let (bs, d) := (d.flashErase o n).drawBytes n
      (d.flashWrites o bs).flashEnd 2
    else
      let d := d.flashErase o n
      let d := if program then d.flashWrites o (d.hostMem.reads src n) else d
      (d.wr F.HUB_FLASH_CMD_PROGRESS 255).flashEnd 0

def execFlashCmdDone (bad : Bool) (s : State) : Out := runHub s fun d => d.flashDone bad

end Sys2Proof.Machine
end

