-- ==== Sys2Proof/Machine/Flow.lean ====
section
/-!
DEFINITION. What flows between the blocks: a consumer's reads of its cask and the credits they return (chapter 3), and the completions
of the device's own reads of host memory (R128 and the rules of the engines that read).
-/
namespace Sys2Proof.Machine

/-- What the endpoint `ep` does with what cask `k` of unit `u` delivers: a tile port makes tokens of it and the Trellis goes on, a take
queue, a Veraison upload endpoint and a statistics context take it as their chapters say, an Ethernet port gathers its transmit item;
the other consumers take their data as operands of their own commands, so that the word is only consumed here. A unit that a BIST run
has isolated discards it (R666). [log entry 22: DEDUCED] -/
def Dev.caskConsume (d : Dev) (u k ep : Nat) (x : Delivered) : Dev :=
  let lo := ep % 2 ^ 12
  if u = 4 then d
  else if 120 ≤ k then (if d.bistHolds 5 u 0 then d else d.takeWord u (k - 120) x)
  else if ep / 2 ^ 12 = 1 then
    let t := slice ep 9 2
    if d.bistHolds 0 u t then d else (d.portDeliver u t (ep % 4) x).flow u
  else if ep / 2 ^ 12 = 2 then
    if 0x060 ≤ lo ∧ lo < 0x068 then (if d.bistHolds 1 u (lo - 0x060) then d else d.vrsUpload u (lo - 0x060) x)
    else if 0x070 ≤ lo ∧ lo < 0x074 then (if d.bistHolds 2 u 0 then d else d.statInput u (lo - 0x070) x)
    else if 0x1A8 ≤ lo ∧ lo < 0x1AE then
      let q := lo - 0x1A8
      match x with
      | .nothing => d
      | .flushed => d.putEth u q { d.eth u q with item := [] }
      | .word w _ => if d.ethWhole u q then d else d.putEth u q { d.eth u q with item := (d.eth u q).item ++ [w] }
    else if 0x180 ≤ lo ∧ lo < 0x190 then (if d.liveWhole u (lo - 0x180) then d else d.liveWordIn u (lo - 0x180) x)
    else d
  else d

/-- Whether endpoint `ep` of pipe `u` is a port of a failed tile that no logical slot maps to: it is held in reset and never handshakes
(R174). -/
def Dev.tileHeld (d : Dev) (u ep : Nat) : Bool :=
  let t := slice ep 9 2
  decide (u < 4) && ep / 2 ^ 12 == 1 && (d.logTile u t).isNone && bit (d.rd F.TRL_RPR_FAIL_FAIL u (t / 17)) (t % 17)

/-- A consumer reads a word of its cask: a read from an endpoint that `CASK_BIND` does not name never reaches the cask (R95), and a tile
held in reset makes none. [log entry 22: DEDUCED] -/
def execCaskRead (u : Unit5) (k : Fin 128) (ep : Nat) (flaw : Flaw) (s : State) : Out :=
  runIf (decide (k.val < caskCount u)) s fun d =>
    if d.caskCons u k ep && d.on F.CASK_CFG_EN u k && !d.tileHeld u ep then
      let (x, d) := d.caskGet u k flaw
      d.caskConsume u k ep x
    else d

/-- A credit returns to the producer (R98), which writes the next word it holds; a tile port's tokens then move on. -/
def execCaskCreditReturn (u : Unit5) (k : Fin 128) (s : State) : Out :=
  runIf (decide (k.val < caskCount u)) s fun d =>
    let d := d.caskCredit u k
    if u.val < 4 ∧ d.rd F.CASK_BIND_PROD u k / 2 ^ 12 = 1 then d.flow u else d

/-- The `i`th outstanding read of host memory completes: with data, `psn` where a TLP is poisoned, or with an error. -/
def execPcieCompletion (i : Nat) (good psn : Bool) (s : State) : Out := run s fun d =>
  match d.hub.hreq[i]? with
  | none => d
  | some x =>
    let d := d.updHub fun h => { h with hreq := h.hreq.eraseIdx i }
    match x with
    | .nvme q cid => d.nvData q cid (good && !psn)
    | .rackDesc u c => d.rackDescData u c (good && !psn)
    | .rackData u c => d.rackHostData u c good psn
    | .press u r => d.pressDescData u r (good && !psn)

end Sys2Proof.Machine
end

