-- ==== Sys2Proof/Machine/PxrDec.lean ====
section
/-!
DEFINITION. The PXR decoder (chapter 10, R357 to R363): its four channels per pipe, the checks at GO, the reading of a frame
unit's slices by their index or by scanning, concealment, and the two forms of output.
-/
namespace Sys2Proof.Machine

/-- Job of decoder channel `j` of pipe `p`. -/
def Dev.pjob (d : Dev) (p j : Nat) : PxrJob := Tab.get {} (d.pipe p).pdec j

/-- The source number of decoder channel `j` (R471). -/
def pxrDecSrc (j : Nat) : Nat := 0x24 + j

/-- A DRAM address held in an `ADDR_LO`, `ADDR_HI` pair of a decoder channel. -/
def Dev.pdecAddr (d : Dev) (lo hi : Fld) (p j : Nat) : Nat := d.rd64 lo hi p j

/-- The little-endian field of `n` bytes at offset `o` of a unit. -/
def unitField (bs : List Byte) (o n : Nat) : Nat := ofLeBytes ((bs.drop o).take n)

/-- Whether the CRC stored at offset `o` covers the bytes before it (R327). -/
def crcGood (bs : List Byte) (o : Nat) : Bool := decide (o + 4 ≤ bs.length) && crc32c (bs.take o) == unitField bs o 4

/-- Whether a descriptor passes the second check of R358: MAGIC, VER, DCRC, reserved fields, thresholds. -/
def descOk (bs : List Byte) : Bool :=
  unitField bs 0 4 == 0x44525850 && unitField bs 4 1 == 1 && crcGood bs 0x7C &&
    unitField bs 6 1 / 64 == 0 && decide (unitField bs 7 1 ≤ 1) && !bit (unitField bs 0xE 1) 3 && !bit (unitField bs 0xE 1) 7 &&
    unitField bs 0x6C 16 == 0 &&
    decide (0 < unitField bs 0x58 4) && decide (unitField bs 0x58 4 < unitField bs 0x5C 4) &&
    decide (unitField bs 0x5C 4 < unitField bs 0x60 4)

/-- The geometry a descriptor holds (R328). -/
def descGeo (bs : List Byte) : PxrGeo :=
  let per := unitField bs 0xC 1
  let ph := unitField bs 0xE 1
  let dl := unitField bs 0xF 1
  { bits := unitField bs 5 1, width := unitField bs 8 2, lines := unitField bs 0xA 2,
    pw := per % 16, ph := per / 16, xph := ph % 8, yph := ph / 16 % 8, x0 := unitField bs 0x54 2,
    sites := (List.range 64).map fun i => unitField bs (0x10 + i) 1,
    bounded := unitField bs 7 1 == 1, delta := dl % 16, dmax := dl / 16,
    t1 := unitField bs 0x58 4, t2 := unitField bs 0x5C 4, t3 := unitField bs 0x60 4, budget := unitField bs 0x64 4 }

/-- The columns a channel writes of each row: all, or with CROP those between the halos (R362). -/
def Dev.pdecCols (d : Dev) (p j : Nat) (b : PxrJob) : List Nat → List Nat := fun row =>
  if d.on F.PXR_DEC_CFG_CROP p j then (row.take (b.geo.width - b.haloR)).drop b.haloL else row

/-- The bytes of a sample in DRAM output. -/
def Dev.pdecBytes (d : Dev) (p j : Nat) : Nat := if d.on F.PXR_DEC_CFG_OFMT p j then 4 else 2

/-- The bytes between rows of DRAM output. -/
def Dev.pdecStride (d : Dev) (p j : Nat) : Nat := 8 * d.rd F.PXR_DEC_STRIDE_STRIDE8 p j

/-- A job ends with its status, and PXR_DEC_DONE is raised with it (R363, R364). -/
def Dev.pdecEnd (d : Dev) (p j status : Nat) : Dev :=
  ((d.wr F.PXR_DEC_STAT_STATE 2 p j).wr F.PXR_DEC_STAT_STATUS status p j).raiseP p (46 + j) status

/-- The checks of R358 in order: the status of the first that fails with the unit's SEQ where it is reported, or the job. [log entry 45: DEDUCED] -/
def Dev.pdecChecks (d : Dev) (p j : Nat) : (Nat × Option Nat) ⊕ PxrJob :=
  let src := d.pdecAddr F.PXR_DEC_SRC_LO_ADDR_LO F.PXR_DEC_SRC_HI_ADDR_HI p j
  let dsc := d.pdecAddr F.PXR_DEC_DSC_LO_ADDR_LO F.PXR_DEC_DSC_HI_ADDR_HI p j
  let dst := d.pdecAddr F.PXR_DEC_DST_LO_ADDR_LO F.PXR_DEC_DST_HI_ADDR_HI p j
  let slen := d.rd F.PXR_DEC_SLEN_LEN p j
  let dlen := d.rd F.PXR_DEC_DLEN_LEN p j
  let out := d.rd F.PXR_DEC_CFG_OUT p j
  let inMap := d.dramInMap p src slen && d.dramInMap p dsc 128 && (out != 0 || d.dramInMap p dst dlen) && slen % 8 == 0
  let (db, dpsn, _) := d.dramRead p (pxrDecSrc j) dsc 128
  let (ub, upsn, _) := d.dramRead p (pxrDecSrc j) src (min 64 slen)
  let g := descGeo db
  let b : PxrJob := ⟨g, unitField db 0x52 1, unitField db 0x53 1, unitField ub 8 4⟩
  let cols := if d.on F.PXR_DEC_CFG_CROP p j then g.width - b.haloR - b.haloL else g.width
  let stride := d.pdecStride p j
  if !inMap then .inl (0x15, none)
  else if dpsn || !descOk db || decide (2 ≤ out) then .inl (0x10, none)
  else if unitField ub 0 4 == 0x47525850 && crcGood (ub.take 48) 44 && !upsn then .inl (0x02, some (unitField ub 8 4))
  else if upsn || unitField ub 0 4 != 0x46525850 then .inl (0x11, none)
  else if !crcGood ub 0x3C || unitField ub 4 1 != 1 || unitField ub 5 1 != g.bits || unitField ub 0x1A 2 != g.width ||
      unitField ub 0x1C 2 != g.lines then .inl (0x12, none)
  else if unitField ub 0x20 4 != unitField db 0x7C 4 then .inl (0x13, some b.seq)
  else if out == 0 && (decide (dlen < stride * g.lines) || decide (stride < cols * d.pdecBytes p j)) then .inl (0x14, some b.seq)
  else .inr b

/-- The reads of DRAM that the checks make: the descriptor and the unit's header. -/
def Dev.pdecFetch (d : Dev) (p j : Nat) : Dev :=
  let dsc := d.pdecAddr F.PXR_DEC_DSC_LO_ADDR_LO F.PXR_DEC_DSC_HI_ADDR_HI p j
  let src := d.pdecAddr F.PXR_DEC_SRC_LO_ADDR_LO F.PXR_DEC_SRC_HI_ADDR_HI p j
  let d := (d.dramRead p (pxrDecSrc j) dsc 128).2.2
  (d.dramRead p (pxrDecSrc j) src (min 64 (d.rd F.PXR_DEC_SLEN_LEN p j))).2.2

/-- A write of GO: discarded unless STATE is IDLE or DONE; a job whose checks fail ends at once (R358). [log entry 45: DEDUCED] -/
def Dev.pdecGo (d : Dev) (p j : Nat) : Dev :=
  let st := d.rd F.PXR_DEC_STAT_STATE p j
  if st = 0 ∨ st = 2 then
    let d := (d.wr F.PXR_DEC_STAT_STATUS 0 p j).wr F.PXR_DEC_STAT_INDEX_LOST 0 p j
    let d := ((d.wr F.PXR_DEC_STAT_REPEAT 0 p j).wr F.PXR_DEC_RES_CROWS 0 p j).wr F.PXR_DEC_RES_BADS 0 p j
    match d.pdecChecks p j with
    | .inl (status, seq) =>
      let d := if status = 0x15 then d else d.pdecFetch p j
      let d := match seq with | some q => d.wr F.PXR_DEC_SEQ_SEQ q p j | none => d
      d.pdecEnd p j status
    | .inr b =>
      let d := d.pdecFetch p j
      let d := (d.updPipe p fun s => { s with pdec := Tab.put s.pdec j b }).wr F.PXR_DEC_SEQ_SEQ b.seq p j
      d.wr F.PXR_DEC_STAT_STATE 1 p j
  else d

def execPxrDecGo (p : Pipe) (j : Fin 4) (s : State) : Out := bar2 .PXR p s fun d => d.pdecGo p j

/-- ABORT: the job stops at the next row boundary (R363). -/
def Dev.pdecAbort (d : Dev) (p j : Nat) : Dev :=
  if d.rd F.PXR_DEC_STAT_STATE p j = 1 then d.wr F.PXR_DEC_STAT_STATE 3 p j else d

def execPxrDecAbort (p : Pipe) (j : Fin 4) (s : State) : Out := bar2 .PXR p s fun d => d.pdecAbort p j

/-- A write of `PXR_DEC_CTL`: with both bits set, ABORT acts and GO is discarded. -/
def Dev.pdecCtl (d : Dev) (p j w : Nat) : Dev := if bit w 1 then d.pdecAbort p j else if bit w 0 then d.pdecGo p j else d

/-! ### Slices -/

/-- A row as the channel reports it: its samples and its class (R361). -/
abbrev PdecRow := List Nat × Nat

/-- A row without samples, to be concealed. -/
def hiddenRow : PdecRow := ([], 2)

/-- The slice at offset `o` of a unit whose span is `n` bytes, `clean` of which are read without poison: its rows with their
classes, whether it is bad, and whether it holds REPEAT rows (R360, R361). -/
def pdecSlice (b : PxrJob) (keep : Bool) (unit : List Byte) (clean s o n : Nat) : List PdecRow × Bool × Bool :=
  let g := b.geo
  let rows := sliceRows g.lines (64 * s)
  let u := (unit.drop o).take n
  let h := u.take 16
  let headOk := decide (32 ≤ n) && decide (o + n ≤ unit.length) && decide (o + 16 ≤ clean) &&
    unitField h 0 4 == 0x53525850 && crc32c (h.take 14) % 2 ^ 16 == unitField h 14 2 && unitField h 4 2 == s &&
    unitField h 8 2 == 64 * s && unitField h 6 1 == rows && unitField h 7 1 == b2n g.bounded && unitField h 10 2 == b.seq % 2 ^ 16
  if !headOk then (List.replicate rows hiddenRow, true, false)
  else
    let data := (u.drop 16).take (min (n - 32) (clean - (o + 16)))
    let t := u.drop (n - 16)
    let (rs, reps, sound) := g.decodeSlice (64 * s) rows data
    let good := sound && decide (o + n ≤ clean) && unitField t 8 4 == n - 32 && crc32c (u.take (n - 4)) == unitField t 12 4
    let dmask := unitField t 0 8
    if good then
      let cls := fun (r : Nat) => if bit dmask r then 1 else if reps.getD r false then 4 else 0
      ((rs.zip (List.range rs.length)).map fun (x, r) => (x, cls r), false, reps.any id)
    else
      let kept := if keep then rs.map fun x => (x, 3) else []
      (kept ++ List.replicate (rows - kept.length) hiddenRow, true, false)

/-- The spans of the slices by a sound index: offset and bytes of slice `s`, none where it is missing (R333, R360). -/
def pdecIndexed (unit : List Byte) (nsw : Nat) (s : Nat) : Option (Nat × Nat) :=
  let flen := unit.length
  let idx := flen - 32 - (nsw + nsw % 2) * 4
  let entry := fun k => unitField unit (idx + 4 * k) 4
  if s < nsw then
    let stop := if s + 1 < nsw then entry (s + 1) else idx
    some (entry s, stop - entry s)
  else none

/-- Whether a slice header whose SHCRC is good stands at offset `o`. -/
def shcrcAt (unit : List Byte) (o : Nat) : Bool :=
  let h := (unit.drop o).take 16
  h.length == 16 && unitField h 0 4 == 0x53525850 && crc32c (h.take 14) % 2 ^ 16 == unitField h 14 2

/-- The end of the slice at `o` when no index tells it: the first 8-byte step whose trailer gives the distance as CLEN. -/
def scanEnd (unit : List Byte) (o : Nat) : Nat → Nat → Option Nat
  | 0, _ => none
  | fuel + 1, e =>
    if unit.length < e then none
    else if unitField unit (e - 8) 4 = e - o - 32 then some e
    else scanEnd unit o fuel (e + 8)

/-- The slices found by scanning forward in 8-byte steps (R359): (SIDX, offset, span). [log entry 45: DEDUCED] -/
def pdecScan (unit : List Byte) : Nat → Nat → Option Nat → List (Nat × Nat × Nat)
  | 0, _, _ => []
  | fuel + 1, o, last =>
    if unit.length < o + 16 then []
    else
      let sidx := unitField unit (o + 4) 2
      let fresh := match last with | some l => decide (l < sidx) | none => true
      if shcrcAt unit o && fresh then
        match scanEnd unit o (unit.length / 8) (o + 32) with
        | some e => (sidx, o, e - o) :: pdecScan unit fuel e (some sidx)
        | none => (sidx, o, 0) :: pdecScan unit fuel (o + 16) (some sidx)
      else pdecScan unit fuel (o + 8) last

/-- The bytes of a range that can be read before the first poisoned word. -/
def Dev.cleanBytes (d : Dev) (p a n : Nat) : Nat :=
  let m := d.dram p
  match (wordsOf a n).find? fun w => m.psn.contains w || (Tab.find m.bad w).isSome with
  | some w => 32 * w - a
  | none => n

/-- Every row of the unit with its class, the number of bad slices, whether it holds REPEAT rows, and whether the index was
lost; none for a VOID unit (R359 to R361). [log entry 45: DEDUCED] -/
def pdecUnit (b : PxrJob) (keep : Bool) (unit : List Byte) (clean : Nat) : Option (List PdecRow × Nat × Bool × Bool) :=
  let n := unit.length
  let t := unit.drop (n - 32)
  let nsw := unitField t 6 2
  let isize := (nsw + nsw % 2) * 4
  let sound := decide (96 + isize ≤ n) && unitField t 0 4 == 0x45525850 && decide (n ≤ clean) &&
    crc32c ((unit.drop (n - 32 - isize)).take (isize + 28)) == unitField t 28 4
  let lost := !sound || unitField t 12 4 != n
  if sound && bit (unitField t 4 1) 0 then none
  else
    let found := pdecScan unit (if lost then n / 8 else 0) 64 none
    let span := fun s =>
      if lost then (found.find? fun x => x.1 == s).map fun x => x.2 else pdecIndexed unit nsw s
    let parts := (List.range (ceilDiv b.geo.lines 64)).map fun s =>
      match span s with
      | some (o, k) => pdecSlice b keep unit clean s o k
      | none => (List.replicate (sliceRows b.geo.lines (64 * s)) hiddenRow, true, false)
    some ((parts.map fun x => x.1).flatten, (parts.filter fun x => x.2.1).length, parts.any fun x => x.2.2, lost)

/-! ### Output -/

/-- Whether a class is one that CONCEAL replaces. [log entry 45: DEDUCED] -/
def hiddenClass (c : Nat) : Bool := c == 1 || c == 2

/-- The rows as they are output: damaged and lost rows are zeros, or with CONCEAL 0x1 in DRAM output the output row PH above
(R361). `done` are the rows output so far, the latest first. -/
def pdecConceal (b : PxrJob) (above : Bool) : List (List Nat) → List PdecRow → List (List Nat × Nat)
  | _, [] => []
  | done, (r, c) :: t =>
    let zero := List.replicate b.geo.width 0
    let out := if hiddenClass c then (if above && decide (0 < b.geo.ph) then done.getD (b.geo.ph - 1) zero else zero) else r
    (out, c) :: pdecConceal b above (out :: done) t

/-- The bytes of a row in DRAM output (R362). -/
def Dev.pdecRowBytes (d : Dev) (p j : Nat) (b : PxrJob) (row : List Nat) : List Byte :=
  (d.pdecCols p j b row).flatMap fun v =>
    if d.on F.PXR_DEC_CFG_OFMT p j then leBytes 4 v else leBytes 2 (if 16 < b.geo.bits then v / 2 ^ (b.geo.bits - 16) else v)

/-- One row goes out, in the form CFG chooses, and its class to the row map (R362). -/
def Dev.pdecPut (d : Dev) (p j : Nat) (b : PxrJob) (y : Nat) (x : List Nat × Nat) : Dev :=
  let d :=
    if d.rd F.PXR_DEC_CFG_OUT p j = 0 then
      d.dramWrite p (pxrDecSrc j) (d.pdecAddr F.PXR_DEC_DST_LO_ADDR_LO F.PXR_DEC_DST_HI_ADDR_HI p j + y * d.pdecStride p j)
        (d.pdecRowBytes p j b x.1)
    else
      let k := d.rd F.PXR_DEC_CFG_CASK p j
      let al := d.on F.PXR_DEC_CFG_ALIGN p j || decide (16 < b.geo.bits)
      let vals := (d.pdecCols p j b x.1).map (alignSample al b.geo.bits)
      let psn := x.2 == 1 || x.2 == 2 || x.2 == 3
      d.caskSend p k (0x2090 + j) (lineWords psn (vals.length + 1) vals)
  let m := d.pdecAddr F.PXR_DEC_MAP_LO_ADDR_LO F.PXR_DEC_MAP_HI_ADDR_HI p j
  if m ≠ 0 ∧ d.dramInMap p (m + y) 1 then d.dramWrite p (pxrDecSrc j) (m + y) [BitVec.ofNat 8 x.2] else d

/-- The job runs to its end, or, where it was aborted, to the row boundary after `rows` rows (R359 to R363). [log entry 45: DEDUCED] -/
def Dev.pdecRun (d : Dev) (p j : Nat) (limit : Option Nat) : Dev :=
  let b := d.pjob p j
  let src := d.pdecAddr F.PXR_DEC_SRC_LO_ADDR_LO F.PXR_DEC_SRC_HI_ADDR_HI p j
  let slen := d.rd F.PXR_DEC_SLEN_LEN p j
  let clean := d.cleanBytes p src slen
  let (unit, _, d) := d.dramRead p (pxrDecSrc j) src slen
  let abort := limit.isSome
  match pdecUnit b (d.on F.PXR_DEC_CFG_KEEPBAD p j) unit clean with
  | none => d.pdecEnd p j (if abort then 0x16 else 0x03)
  | some (rows, bads, rep, lost) =>
    let above := d.rd F.PXR_DEC_CFG_CONCEAL p j == 1 && d.rd F.PXR_DEC_CFG_OUT p j == 0
    let outs := pdecConceal b above [] rows
    let outs := match limit with | some n => outs.take n | none => outs
    let d := (outs.zip (List.range outs.length)).foldl (fun d (x, y) => d.pdecPut p j b y x) d
    let crows := (outs.filter fun x => x.2 == 1 || x.2 == 2 || x.2 == 3).length
    let d := ((d.wrb F.PXR_DEC_STAT_INDEX_LOST lost p j).wrb F.PXR_DEC_STAT_REPEAT rep p j).wr F.PXR_DEC_RES_CROWS crows p j
    (d.wr F.PXR_DEC_RES_BADS bads p j).pdecEnd p j (if abort then 0x16 else if crows = 0 then 0 else 1)

/-- The job of a channel in RUN ends; one in ABORTING ends after `rows` rows. -/
def execPxrDecDone (p : Pipe) (j : Fin 4) (rows : Nat) (s : State) : Out := run s fun d =>
  let st := d.rd F.PXR_DEC_STAT_STATE p j
  if st = 1 then d.pdecRun p j none else if st = 3 then d.pdecRun p j (some rows) else d

end Sys2Proof.Machine
end

