-- ==== Sys2Proof/Machine/RegFile.lean ====
section
/-!
DEFINITION. The register file as the host reaches it through BAR2 (chapter 0, R5 to R13; R538, R552, R557 to R560): reads with their
snapshots and pops, writes with what each register's write does, and the slots of followers.
-/
namespace Sys2Proof.Machine

/-! ### Where an offset lies -/

/-- Whether an offset of the device's own slot is presented: not while the Hub is lost (R42); in Fallow mode HUB_CTL, EVT, THERM, SECU and
CUVL (R560); of a pipe's window PCTL, and the rest where the window is reachable (R559). -/
def Dev.slotOpen (d : Dev) (o : Nat) : Bool :=
  if d.hub.lost then false
  else if d.on F.HUB_FALLOW_ACTIVE then decide (o < 0x400000) && [0, 1, 7, 10, 14].contains (o / 0x40000)
  else if 0x400000 ≤ o ∧ o < 0x1400000 then
    decide ((o - 0x400000) % 0x400000 < 0x20000) || d.pipeReach ((o - 0x400000) / 0x400000)
  else true

/-- The pipe and the offset from 0x30_0000 of the Trellis configuration storage at offset `o` (R177). -/
def trlWindow (o : Nat) : Option (Nat × Nat) :=
  let w := (o - 0x400000) % 0x400000
  if 0x400000 ≤ o ∧ o < 0x1400000 ∧ 0x300000 ≤ w ∧ w < 0x360000 then some ((o - 0x400000) / 0x400000, w - 0x300000) else none

/-- The pipe, context and offset of the statistics readout window at offset `o` (R319). -/
def statWindowAt (o : Nat) : Option (Nat × Nat × Nat) :=
  let w := (o - 0x400000) % 0x400000
  if 0x400000 ≤ o ∧ o < 0x1400000 ∧ 0x360000 ≤ w ∧ w < 0x3C0000 then
    some ((o - 0x400000) / 0x400000, (w - 0x360000) / 0x18000, (w - 0x360000) % 0x18000)
  else none

/-- Whether a 64-bit word of Trellis configuration lies at `o` from 0x30_0000 (R177): micro-ops (R148), the configuration words of
elements (R149), the route words of tiles (R152) and window words. -/
def trlWide (o : Nat) : Bool :=
  decide (o < 0x44000) || (decide (o < 0x55000) && decide (o % 0x40 < 8)) ||
    (decide (0x55000 ≤ o) && decide (o < 0x59400) &&
      (decide (o % 0x100 < 8) || (decide (0x20 ≤ o % 0x100) && decide (o % 0x100 < 0xA0)))) ||
    (decide (0x5A000 ≤ o) && decide (o < 0x5B000) && decide (0x100 ≤ o % 0x400) && decide (o % 0x400 < 0x200))

/-- Whether offset `o` holds the low word of a 64-bit pair (R6). [log entry 17: DESIGN CHOICE] -/
def isPairLow (o : Nat) : Bool :=
  match regAt o with
  | some l => l.reg.pairHi.isSome
  | none =>
    match trlWindow o, statWindowAt o with
    | some (_, x), _ => trlWide x && x % 8 == 0
    | none, some (_, _, x) => x == 0xC || (decide (0x40 ≤ x) && decide (x < 0x10040) && x % 8 == 0)
    | none, none => false

/-! ### Reads -/

/-- The bits 32k to 32k + 31, counted from source 512, of a list of sources. -/
def sourceWord (l : List Nat) (k : Nat) : Nat := ((List.range 32).map fun b => if l.contains (512 + 32 * k + b) then 2 ^ b else 0).sum

/-- The seconds a time register pair shows (R493): those latched by the read of its NS register, otherwise the present ones. [log entry 17: DESIGN CHOICE] -/
def Dev.secsShown (d : Dev) (u : Nat) : Nat := (Tab.find d.tsnap u).getD (ptpSec (d.unitTime u) % 2 ^ 48)

/-- What a read of register `l` returns, but for what the read itself changes. -/
def Dev.liveWord (d : Dev) (l : RegLoc) : Nat :=
  match l.reg with
  | .EVT_STAT => sourceWord d.router.stat l.i
  | .EVT_OVR => sourceWord d.router.ovr l.i
  | .EVT_SYN => Tab.get 0 d.router.syn l.i
  | .HUB_SERIAL_LO => Config.serial.toNat % 2 ^ 32
  | .HUB_SERIAL_HI => Config.serial.toNat / 2 ^ 32 % 2 ^ 32
  | .LANE_ROLE_STAT => (d.wr F.LANE_ROLE_STAT_ELAPSED (d.roleElapsed l.p l.i) l.p l.i).fieldWord l
  | .CELP_CART_STAT => (d.cartShowElapsed l.p).fieldWord l
  | .NET_TIME_STAT => (d.wr F.NET_TIME_STAT_AGE (min 0xFFFF (usSince (d.pipe l.p).lastCopy d.c)) l.p).fieldWord l
  | .TIME_NOW_NS => ptpNs d.hubTime
  | .NET_TIME_NS => ptpNs (d.pipeTime l.p)
  | .TIME_NOW_S_LO => d.secsShown 4 % 2 ^ 32
  | .TIME_NOW_S_HI => d.secsShown 4 / 2 ^ 32 % 2 ^ 16
  | .NET_TIME_S_LO => d.secsShown l.p % 2 ^ 32
  | .NET_TIME_S_HI => d.secsShown l.p / 2 ^ 32 % 2 ^ 16
  | .PRESS_GSTAT => if l.p = 4 then (d.wrb F.PRESS_GSTAT_LBUSY (d.cuvState == 2 && d.hub.cuvl.packed) 4).fieldWord l else d.fieldWord l
  | .QDL_TAKE_CFG => if d.isFollower then 0 else d.fieldWord l
  | .QDL_ILV_PER => if d.isFollower then 0 else d.fieldWord l
  | _ => d.fieldWord l

/-- The word at offset `o`, but for what the read itself changes: a register, Trellis configuration (the shadow copy with VIEW set), a
held statistics result, or 0 (R12). -/
def Dev.liveAt (d : Dev) (o : Nat) : Nat :=
  match regAt o with
  | some l => d.liveWord l
  | none =>
    match trlWindow o, statWindowAt o with
    | some (p, x), _ => cfgWord (if d.on F.TRL_CTL_VIEW p then (d.trl p).shd else (d.trl p).act) x
    | none, some (p, c, x) => d.statWindow p c x
    | none, none => 0

/-- A read of the low word of a pair latches the high word into the pair's snapshot (R6). [log entry 17: DESIGN CHOICE] -/
def Dev.readLow (d : Dev) (o : Nat) : Dev := { d with rdata := d.liveAt o, snaps := Tab.put d.snaps o (d.liveAt (o + 4)) }

/-- A read of the high word of a pair returns the snapshot and consumes it, or the live high word where none is held (R6). [log entry 17: DESIGN CHOICE] -/
def Dev.readHigh (d : Dev) (o : Nat) : Dev :=
  match Tab.find d.snaps (o - 4) with
  | some v => { d with rdata := v, snaps := Tab.del d.snaps (o - 4) }
  | none => { d with rdata := d.liveAt o }

/-- An aligned 32-bit read of the device's own slot at offset `o`. Registers whose read pops or latches do so; a read of a time pair's
high word ends the sequence of R493. [log entry 15: DESIGN CHOICE] -/
def Dev.regRead (d : Dev) (o : Nat) : Dev :=
  if !d.slotOpen o then { d with rdata := 0xFFFFFFFF }
  else
    let reg : Option (RegId × Nat × Nat) := (regAt o).map fun l => (l.reg, l.p, l.i)
    match reg with
    | some (.TIME_NOW_NS, _, _) => d.timeNsRead 4
    | some (.NET_TIME_NS, p, _) => d.timeNsRead p
    | some (.NET_TXTS_LO, p, i) => d.txtsPop p i
    | some (.SENSE_ADC_FIFO, _, i) => d.adcPop i
    | some (.OPIO_KEY_FIFO, _, _) => d.keyPop
    | some (.TIME_NOW_S_HI, _, _) => let d := d.readHigh o; { d with tsnap := Tab.del d.tsnap 4 }
    | some (.NET_TIME_S_HI, p, _) => let d := d.readHigh o; { d with tsnap := Tab.del d.tsnap p }
    | _ => if isPairLow o then d.readLow o else if 4 ≤ o ∧ isPairLow (o - 4) then d.readHigh o else { d with rdata := d.liveAt o }

/-! ### Which writes are taken -/

/-- The class and index under which a BIST run isolates the unit that holds a register (R665, R666). -/
def bistUnitOf (l : RegLoc) : Option (Nat × Nat) :=
  match l.reg.info.blk with
  | .VRS => if 0x1000 ≤ l.reg.info.off then some (1, l.i) else none
  | .STAT => some (2, 0)
  | .BLK => some (3, 0)
  | .PXR => if pxrEncReg l.reg then some (5, 0) else some (4, l.i)
  | .CASK => if l.p = 4 then some (8, 5) else if 120 ≤ l.i then some (5, 0) else none
  | .RACK => if l.p = 4 then some (8, 5) else none
  | .PRESS_P => if l.p = 4 then some (8, 4) else some (6, 0)
  | .AUD => some (8, 0)
  | .PANEL => some (8, 1)
  | .SENSE => some (8, 2)
  | .OPIO => some (8, 3)
  | .SECU => some (11, 0)
  | _ => none

/-- Whether a write of register `l` is taken as far as the state of its unit goes: not in an isolated unit, not of what the chapters name
as fixed while something runs or is enabled. -/
def Dev.writeOpen (d : Dev) (l : RegLoc) : Bool :=
  let free : Bool := match bistUnitOf l with | some (c, i) => !d.bistHolds c l.p i | none => true
  free &&
    match l.reg with
    | .RACK_RING_LO | .RACK_RING_HI => !d.on F.RACK_CH_CFG_EN l.p l.i
    | .PRESS_RING_LO | .PRESS_RING_HI => !d.on F.PRESS_RING_CFG_EN l.p l.i
    | .PXR_DEC_CFG | .PXR_DEC_SRC_LO | .PXR_DEC_SRC_HI | .PXR_DEC_SLEN | .PXR_DEC_DSC_LO | .PXR_DEC_DSC_HI | .PXR_DEC_DST_LO
    | .PXR_DEC_DST_HI | .PXR_DEC_DLEN | .PXR_DEC_STRIDE | .PXR_DEC_MAP_LO | .PXR_DEC_MAP_HI => d.rd F.PXR_DEC_STAT_STATE l.p l.i != 1
    | .BLK_DEC_CFG | .BLK_DEC_SRC_LO | .BLK_DEC_SRC_HI | .BLK_DEC_SLEN | .BLK_DEC_POOL_LO | .BLK_DEC_POOL_HI | .BLK_DEC_DST_LO
    | .BLK_DEC_DST_HI | .BLK_DEC_DLEN | .BLK_DEC_STRIDE | .BLK_DEC_PLEN | .BLK_DEC_BUDGET =>
      d.rd F.BLK_DEC_STAT_STATE l.p l.i != 1
    | .AUD_XRING_LO | .AUD_XRING_HI => !d.audBusy (2 * l.i + l.j)
    | .PANEL_SIZE | .PANEL_DSC | .PANEL_SURF_CFG | .PANEL_S0_LO | .PANEL_S0_HI | .PANEL_S1_LO | .PANEL_S1_HI => !d.on F.PANEL_CFG_EN 0 l.i
    | .HUB_PASM_LINES | .HUB_PASM_W01 | .HUB_PASM_W23 => !d.on F.HUB_PASM_CFG_EN 0 l.i
    | .QDL_TAKE_CFG => !d.isFollower && !(d.hub.takes.any fun r => !r.devs.isEmpty && !r.ended)
    | .QDL_ILV_PER => !d.isFollower
    | .DRC_PHY_CFG => d.drcState l.p == 0 || d.drcState l.p == 6
    | .PANEL_DCS => !d.on F.PANEL_DCS_GO 0 l.i
    | _ => true

/-! ### Writes -/

/-- The density that throttling requests of the Hub now (R634). [log entry 20: DEDUCED] -/
def Dev.hubDens (d : Dev) : Nat :=
  match hottest (d.readings 4) with
  | some (_, t) => if 2 ≤ d.rd F.THERM_STAT_LEVEL then d.thermDensity t (d.thresholds 4).2.1 else 0
  | none => 0

/-- A write of `HUB_STM_CFG`: while EN is set only EN may change; clearing it drops an open merge. [log entry 20: DEDUCED] -/
def Dev.stmCfg (d : Dev) (l : RegLoc) (w : Nat) : Dev :=
  if d.on F.HUB_STM_CFG_EN 0 l.i then
    if d.sameBut l F.HUB_STM_CFG_EN w && !bit w 31 then
      (d.wr F.HUB_STM_CFG_EN 0 0 l.i).updHub fun h => { h with merges := Tab.upd {} h.merges l.i fun m => { m with open_ := false, t0 := 0, parts := [] } }
    else d
  else d.wrWord l w

/-- A write of `QDL_CTL`: a port whose role becomes enabled waits for its peer, one whose role is disabled goes OFF (R223, R536). [log entry 20: DEDUCED] -/
def Dev.qdlCtl (d : Dev) (l : RegLoc) (w : Nat) : Dev :=
  let was := (List.range 3).map fun q => (q, d.roleKind 4 q, d.roleLanes 4 q)
  let d := d.wrWord l w
  was.foldl (fun d x =>
    let now := d.roleKind 4 x.1
    if x.2.1 = 0 ∧ now ≠ 0 then (d.wr F.QDL_PEER_STATE 1 0 x.1).roleWait 4 x.1
    else if x.2.1 ≠ 0 ∧ now = 0 then ((d.qdlGone x.1).roleOff 4 x.1 x.2.2).wr F.QDL_PEER_STATE 0 0 x.1
    else d) d

/-- A write of `BLK_DEC_CTL` as a whole word. What the headers of the unit at SRC say does not come with it: free values. [log entry 21: DESIGN CHOICE; log entry 84: DEDUCED] -/
def Dev.bdecCtl (d : Dev) (p j w : Nat) : Dev :=
  if bit w 1 then d.bdecAbort p j
  else if bit w 2 then d.bdecReset p j
  else if bit w 0 then
    let (a, d) := d.draw
    let (x, d) := d.draw
    let (y, d) := d.draw
    let (r, d) := d.draw
    d.bdecGo p j ⟨a % 2 == 1, x, y, r⟩
  else d

/-- The keys whose EN bit is clear read released (R625). -/
def Dev.keyClear (d : Dev) : Dev := d.setKeys (Nat.land d.keyStates d.keyMask)

/-- A write of a register of the pipes' windows. [log entry 18: DEDUCED; log entry 20: DEDUCED; log entry 21: DESIGN CHOICE; log entry 84: DEDUCED] -/
def Dev.writePipe (d : Dev) (l : RegLoc) (w : Nat) : Dev :=
  match l.reg with
  | .PCTL_CTL => (d.when (bit w 1) fun d => d.pctlPwrup l.p).when (bit w 0) fun d => d.pctlPrst l.p
  | .PCTL_PAUSE_MAN => (d.wrWord l w).pauseEff l.p
  | .CASK_CTL => if bit w 0 then d.caskHostFlush l.p l.i else d
  | .CASK_CFG => if l.p = 4 then d.hubCaskCfg l.i w else d
  | .CASK_ECC => (d.wrWord l w).wr F.CASK_ECC_CSAT 0 l.p l.i
  | .RACK_CH_CFG => if F.RACK_CH_CFG_EN.accAt l.p l.i = .rw then d.rackCfg l.p l.i w else d
  | .RACK_TAIL => d.rackTail l.p l.i (w % 2 ^ 16)
  | .RACK_CH_CTL => d.rackCtl l.p l.i w
  | .TRL_LM_ADDR => d.lmRead l.p w
  | .TRL_MON_SEL =>
    let d := d.wrWord l w
    if d.monOn l.p then d else d.wr F.TRL_MON_RES_VALID 0 l.p
  | .TRL_RPR_FAIL => d.rprMark l.p l.i (w % 2 ^ 17)
  | .TRL_RPR_CLR => d.rprClear l.p l.i (w % 2 ^ 17)
  | .LANE_CTL => d.laneRetrain roleOwner l.p (w % 2 ^ 12)
  | .LANE_SNAP => d.laneSnap l.p (w % 2 ^ 12)
  | .LANE_TXFIR => d.txfir l.p l.i w
  | .LANE_PRBS_CTL => d.prbsCtl roleOwner l.p l.i w
  | .SFE_I3C_CMD => d.i3cCmd l.p w
  | .VRS_BANK_CTL => d.vrsBankCtl l.p l.i w
  | .VRS_TRD_ADDR => d.vrsTrd l.p l.i w
  | .VRS_TPORT => d.vrsWord l.p l.i l.j w
  | .STAT_RD => d.statRd l.p l.i w
  | .PXR_DEC_CTL => d.pdecCtl l.p l.i w
  | .BLK_CTX_UPD => d.ctxUpd l.p l.i w
  | .BLK_SCTL => d.bsCtl l.p l.i l.j w
  | .BLK_DEC_CTL => d.bdecCtl l.p l.i w
  | .CELP_TQ_CTL => if bit w 0 then d.takeReset l.p l.i else d
  | .CELP_STRM_CMD => d.strmCmd l.p w
  | .CELP_CART_CMD => if bit w 0 then d.cartEject l.p else d
  | .DRC_INIT => if bit w 0 then d.drcInitGo l.p else d
  | .DRC_FCHG => if d.on F.DRC_FCHG_GO l.p then d else if bit w 31 then d.fchgGo l.p (w % 4) else d.wr F.DRC_FCHG_RATE w l.p
  | .PRESS_RING_CFG => d.pressCfg l.p l.i w
  | .PRESS_TAIL => d.pressTail l.p l.i (w % 2 ^ 16)
  | .PRESS_RING_CTL => d.pressCtl l.p l.i w
  | _ => d.wrWord l w

/-- A write of a register of the Hub's blocks. [log entry 18: DEDUCED; log entry 20: DEDUCED; log entry 21: DESIGN CHOICE] -/
def Dev.writeHub (d : Dev) (l : RegLoc) (w : Nat) : Dev :=
  match l.reg with
  | .HUB_GOV_CTL => (d.govMode (w % 4) (slice w 25 16)).bistWatch
  | .HUB_GOV_LIM => d.govLimit w
  | .HUB_GOV_TIME => let d := d.wrWord l w; (List.range 4).foldl (fun d p => d.pauseEff p) d
  | .HUB_PAUSE_MAN => let d := d.wrWord l w; d.hubPauseEff d.hubDens
  | .CUVL_CTL => d.cuvCtl w
  | .CUVL_GO => if bit w 0 then d.cuvGo else d
  | .CUVL_CFG => d.cuvCfg w
  | .HUB_STM_CFG => d.stmCfg l w
  | .HUB_STM_HEAD => if w % 2 ^ 16 < 2 ^ d.stmRsize l.i then d.wrWord l w else d
  | .HUB_ASM_CFG => d.asmCfg l.i w
  | .HUB_ASM_HEAD => if w % 2 ^ 30 < d.asmSize l.i then d.wrWord l w else d
  | .CEL_TAKE_CMD => d.takeCmd w
  | .CEL_SHARE => d.shareWrite (l.i - 1) w
  | .TIME_CTL => d.timeCtl w
  | .TIME_TC_CFG =>
    let d := d.wrWord l w
    if d.rd F.TIME_TC_CFG_NUM 0 l.i = 0 ∨ d.rd F.TIME_TC_CFG_DEN 0 l.i = 0 then d.wr F.TIME_TC_CFG_EN 0 0 l.i else d
  | .QDL_CTL => d.qdlCtl l w
  | .EVT_STAT => d.evtClear l.i w
  | .EVT_COAL => (d.wrWord l w).vecRecheck l.i
  | .EVT_OVR => d.updRouter fun r => { r with ovr := r.ovr.filter fun e => !(e / 32 == 16 + l.i && bit w (e % 32)) }
  | .EVT_YLOG_CFG => if d.on F.EVT_YLOG_CFG_EN && slice w 20 16 != d.rd F.EVT_YLOG_CFG_RSIZE then d else d.wrWord l w
  | .EVT_YLOG_HEAD => if w % 2 ^ 16 < d.ylogSize then d.wrWord l w else d
  | .HUB_PASM_CFG => d.pasmCfg l.i w
  | .PANEL_CFG => d.panelCfg l.i w
  | .PANEL_PUSH => d.panelPush l.i w
  | .PANEL_RGN_A => d.panelRgn l w
  | .PANEL_RGN_B => d.panelRgn l w
  | .AUD_TRIG_CMD => d.audTrigCmd w
  | .AUD_PCFG => d.audPcfg l.i w
  | .AUD_XCFG => d.audXcfg l.i l.j w
  | .AUD_XHOST => d.audHost l.i l.j w
  | .AUD_SCFG => d.audScfg l.i w
  | .SENSE_ADC_CFG => d.adcCfg l.i w
  | .SENSE_ADC_CTL => d.adcCtl l.i w
  | .SENSE_ADC_CH => d.adcChCfg l.i w
  | .SENSE_ADC_CAL => d.adcCal w
  | .SENSE_PWM_CFG => (d.wrWord l w).pwmDrive l.i
  | .SENSE_PWM_CTL => d.pwmSync w
  | .SENSE_SW_CFG => d.swCfg l.i w
  | .OPIO_KEY_EN_LO => (d.wrWord l w).keyClear
  | .OPIO_KEY_EN_HI => (d.wrWord l w).keyClear
  | .OPIO_ENC_POS => d.encPos l.i w
  | .THERM_CTL => if bit w 0 then d.pavane 3 else d
  | .HUB_RST_CTL => if bit w 1 then d.warmWant 5 (some 4) else if bit w 0 then d.rstWarm else d
  | .HUB_BOOT_OK => if bit w 0 then d.bootOk else d
  | .HUB_STBY_CTL =>
    if d.on F.HUB_STBY_CTL_GO then d else if bit w 31 then d.standbyGo (slice w 30 28) else d.wr F.HUB_STBY_CTL_MODE (slice w 30 28)
  | .HUB_FLASH_CMD => d.flashCmd w
  | .BIST_CMD => d.bistCmd w
  | .BIST_CTL => if bit w 0 then d.bistEnd 7 else d
  | .SECU_CMD => d.secuCmd w
  | _ => d.wrWord l w

/-- A register's write with its effect. -/
def Dev.writeReg (d : Dev) (l : RegLoc) (w : Nat) : Dev :=
  if !d.writeOpen l then d else if pipeBlocks.contains l.reg.info.blk then d.writePipe l w else d.writeHub l w

/-- The snapshot of the pair that offset `o` belongs to is discarded by a write of either word (R6). -/
def Dev.dropSnap (d : Dev) (o : Nat) : Dev :=
  if isPairLow o then { d with snaps := Tab.del d.snaps o }
  else if 4 ≤ o ∧ isPairLow (o - 4) then { d with snaps := Tab.del d.snaps (o - 4) }
  else d

/-- Both words of a pair take effect with the write of the high word `h`: the held low word `v`, or the one in force (R7). A counter that
is reprogrammed loses its SAT bit (R16). [log entry 17: DESIGN CHOICE; log entry 18: DEDUCED] -/
def Dev.applyPair (d : Dev) (lo h : RegLoc) (v : Option Nat) (w : Nat) : Dev :=
  if !d.writeOpen h then d
  else
    let d := match v with | some v => d.wrWord lo v | none => d
    let d := d.wrWord h w
    match h.reg.counter with
    | some c => d.when (c.hi.accAt h.p h.i == .rw) fun d => d.wr c.sat 0 h.p h.i h.j
    | none => d

/-- An aligned 32-bit write of the device's own slot at offset `o`: the low word of a pair is held (R7), a high word applies the pair,
any other register takes its effect; elsewhere the write is discarded (R12). [log entry 15: DESIGN CHOICE] -/
def Dev.regWrite (d : Dev) (o w : Nat) : Dev :=
  if !d.slotOpen o then d
  else
    let d := d.dropSnap o
    match regAt o with
    | none => d
    | some l =>
      if l.reg.pairHi.isSome then { d with held := Tab.put d.held o w }
      else
        match l.reg.pairLo with
        | some lo => ({ d with held := Tab.del d.held (o - 4) }).applyPair { l with reg := lo } l (Tab.find d.held (o - 4)) w
        | none => d.writeReg l w

/-! ### Slots (R12, R538, R557) -/

/-- Whether slot `x` is the device's own: slot 0, or in a follower the one its DEVID names to its leader. [log entry 19: DEDUCED] -/
def Dev.ownSlot (d : Dev) (x : Nat) : Bool := x == 0 || (d.isFollower && x == d.rd F.QDL_ID_DEVID)

/-- Whether slot `x` is that of a follower the leader reaches. [log entry 19: DEDUCED] -/
def Dev.slotUp (d : Dev) (x : Nat) : Bool :=
  !d.hub.lost && !d.on F.HUB_FALLOW_ACTIVE && !d.isFollower && decide (1 ≤ x) && d.qdlUp (x - 1)

/-- A request waits on the link to follower `x`, behind the earlier ones. [log entry 19: DEDUCED] -/
def Dev.forward (d : Dev) (x : Nat) (i : QItem) : Dev :=
  d.updQdl fun q => { q with fwd := Tab.set [] q.fwd (x - 1) (Tab.get [] q.fwd (x - 1) ++ [i]) }

/-- A 32-bit write at offset `o` of slot `x`. [log entry 19: DEDUCED] -/
def Dev.slotWrite (d : Dev) (x o w : Nat) : Dev :=
  if o % 4 ≠ 0 then d
  else if d.ownSlot x then d.regWrite o w
  else if d.slotUp x then d.forward x (.write o w)
  else d

/-- A 32-bit read of slot `x` at offset `o` rounded down to a multiple of 4 (R9). [log entry 19: DEDUCED] -/
def Dev.slotRead (d : Dev) (x o : Nat) : Dev :=
  if d.ownSlot x then d.regRead (o / 4 * 4)
  else if d.slotUp x then d.forward x (.read (o / 4 * 4))
  else { d with rdata := 0xFFFFFFFF }

/-- A read of the 8 bytes of slot `x` from offset `o` rounded down to a multiple of 4: the low word's read and then the high word's (R8,
R9), at a follower in that order over the link (R538). -/
def Dev.slotRead8 (d : Dev) (x o : Nat) : Dev :=
  let o := o / 4 * 4
  if !d.ownSlot x && d.slotUp x then (d.forward x (.readLow o)).forward x (.readHigh (o + 4) 0)
  else
    let d := d.slotRead x o
    let low := d.rdata
    let d := d.slotRead x (o + 4)
    { d with rdata := low + 2 ^ 32 * d.rdata }

/-- The slot of a BAR2 address. -/
def slotOf (a : BitVec 28) : Nat := a.toNat / 0x4000000

/-- The offset in its slot of a BAR2 address. -/
def offOf (a : BitVec 28) : Nat := a.toNat % 0x4000000

def execRegisterWrite (a : BitVec 28) (w : Word) (s : State) : Out := run s fun d => d.slotWrite (slotOf a) (offOf a) w.toNat

/-- A read of a pair's low word. The table has no row for the read of any other register: at its address this is that read. [log entry 15: DESIGN CHOICE] -/
def execPairLowRead (a : BitVec 28) (s : State) : Out := run s fun d => d.slotRead (slotOf a) (offOf a)

/-- A read of a pair's high word. [log entry 15: DESIGN CHOICE] -/
def execPairHighRead (a : BitVec 28) (s : State) : Out := run s fun d => d.slotRead (slotOf a) (offOf a / 4 * 4)

/-- A write of a pair's low word. [log entry 15: DESIGN CHOICE] -/
def execPairLowWrite (a : BitVec 28) (w : Word) (s : State) : Out :=
  run s fun d => if offOf a % 4 = 0 then d.slotWrite (slotOf a) (offOf a) w.toNat else d

/-- A write of a pair's high word. [log entry 15: DESIGN CHOICE] -/
def execPairHighWrite (a : BitVec 28) (w : Word) (s : State) : Out :=
  run s fun d => if offOf a % 4 = 0 then d.slotWrite (slotOf a) (offOf a / 4 * 4) w.toNat else d

/-- An access of `n` + 1 bytes (R9): a write that is narrow or not aligned is discarded, and so is an aligned one of 5 to 7 bytes, of which
the rules say nothing; a read is served as the aligned read of 4 bytes, or of 8 for a longer access, the low
word first (R8). [log entry 15: DESIGN CHOICE] -/
def execMisalignedAccess (a : BitVec 28) (n : Fin 8) (w : Option (BitVec 64)) (s : State) : Out := run s fun d =>
  let x := slotOf a
  let o := offOf a / 4 * 4
  match w with
  | some v =>
    if offOf a % 4 ≠ 0 then d
    else if n.val = 3 then d.slotWrite x o (v.toNat % 2 ^ 32)
    else if n.val = 7 then (d.slotWrite x o (v.toNat % 2 ^ 32)).slotWrite x (o + 4) (v.toNat / 2 ^ 32)
    else d
  | none => if n.val < 4 then d.slotRead x o else d.slotRead8 x o

/-- A request longer than 8 bytes: a read completes with Unsupported Request, a write is discarded, and AER logs it (R552). [log entry 16: DESIGN CHOICE] -/
def execBar2OversizeRequest (wr : Bool) (s : State) : Out := run s fun d => d.updRouter fun r => { r with aer := r.aer ++ [b2n wr] }

/-- A write to a follower's slot, or at that follower the write that has crossed the link. -/
def execQdlForwardWrite (dev : Fin 4) (off : BitVec 26) (w : Word) (s : State) : Out := run s fun d => d.slotWrite dev off.toNat w.toNat

/-- A read of a follower's slot, or at that follower the read that has crossed the link. -/
def execQdlForwardRead (dev : Fin 4) (off : BitVec 26) (s : State) : Out := run s fun d => d.slotRead dev off.toNat

/-- The requests after the first read completes with `w`, and the data that the host then has: none after the low half of an 8-byte
read, which waits with its high half. -/
def afterRead (w : Nat) : List QItem → Option (List QItem × Option Nat)
  | [] => none
  | .read _ :: t => some (t, some w)
  | .readLow _ :: .readHigh o _ :: t => some (.readHigh o w :: t, none)
  | .readLow _ :: t => some (t, none)
  | .readHigh _ low :: t => some (t, some (low + 2 ^ 32 * w))
  | .write _ _ :: t => afterRead w t

/-- The oldest read forwarded to follower `dev` completes with `w`; every write before it has taken effect there (R538). [log entry 19: DEDUCED] -/
def execQdlForwardReadDone (dev : Fin 4) (w : Word) (s : State) : Out := run s fun d =>
  match afterRead w.toNat (Tab.get [] d.hub.qdl.fwd (dev.val - 1)) with
  | some (rest, data) =>
    if d.slotUp dev then
      { (d.updQdl fun q => { q with fwd := Tab.set [] q.fwd (dev.val - 1) rest }) with rdata := data.getD d.rdata }
    else d
  | none => d

end Sys2Proof.Machine
end

