-- ==== Sys2Proof/Machine/Dispatch.lean ====
section
/-!
DEFINITION. What each command does: one arm per command, each one call of its meaning.
-/
namespace Sys2Proof.Machine

/-- The effect of a command on everything but the queue. [log entry 1: DESIGN CHOICE; log entry 10: DESIGN CHOICE] -/
def exec (i : Instr) (s : State) : Host.Outcome State Fault Refusal :=
  match i with
  | .registerWrite a w => Sys2Proof.Machine.execRegisterWrite a w s
  | .pairLowRead a => Sys2Proof.Machine.execPairLowRead a s
  | .pairHighRead a => Sys2Proof.Machine.execPairHighRead a s
  | .pairLowWrite a w => Sys2Proof.Machine.execPairLowWrite a w s
  | .pairHighWrite a w => Sys2Proof.Machine.execPairHighWrite a w s
  | .misalignedAccess a n w => Sys2Proof.Machine.execMisalignedAccess a n w s
  | .bar2OversizeRequest wr => Sys2Proof.Machine.execBar2OversizeRequest wr s
  | .coldReset devid aonLost => Sys2Proof.Machine.execColdReset devid aonLost s
  | .warmResetStart => Sys2Proof.Machine.execWarmResetStart s
  | .functionLevelReset => Sys2Proof.Machine.execFunctionLevelReset s
  | .flrEnd => Sys2Proof.Machine.execFlrEnd s
  | .pcieLinkDown down => Sys2Proof.Machine.execPcieLinkDown down s
  | .hubLoss => Sys2Proof.Machine.execHubLoss s
  | .hubWatchdogExpiry => Sys2Proof.Machine.execHubWatchdogExpiry s
  | .timeCopyStrobe => Sys2Proof.Machine.execTimeCopyStrobe s
  | .autonomousRunEntry p => Sys2Proof.Machine.execAutonomousRunEntry p s
  | .arunLimitExpiry p => Sys2Proof.Machine.execArunLimitExpiry p s
  | .takeCloseCommitted p => Sys2Proof.Machine.execTakeCloseCommitted p s
  | .yieldRestore u res rank => Sys2Proof.Machine.execYieldRestore u res rank s
  | .pipeGateTrip p => Sys2Proof.Machine.execPipeGateTrip p s
  | .stripeLostTimeMessage p => Sys2Proof.Machine.execStripeLostTimeMessage p s
  | .trippedPipeRejoin p => Sys2Proof.Machine.execTrippedPipeRejoin p s
  | .paceSensorReading p k ps => Sys2Proof.Machine.execPaceSensorReading p k ps s
  | .paceWindowEnd p => Sys2Proof.Machine.execPaceWindowEnd p s
  | .govWindowEnd => Sys2Proof.Machine.execGovWindowEnd s
  | .govModeWrite mode vman => Sys2Proof.Machine.execGovModeWrite mode vman s
  | .pmbusTransactionDone r => Sys2Proof.Machine.execPmbusTransactionDone r s
  | .pmbusRetryStart => Sys2Proof.Machine.execPmbusRetryStart s
  | .pmbusBusTimeout => Sys2Proof.Machine.execPmbusBusTimeout s
  | .govSettleEnd => Sys2Proof.Machine.execGovSettleEnd s
  | .pmbAlert => Sys2Proof.Machine.execPmbAlert s
  | .recStall p stage inst => Sys2Proof.Machine.execRecStall p stage inst s
  | .recFlush p => Sys2Proof.Machine.execRecFlush p s
  | .recRestart p => Sys2Proof.Machine.execRecRestart p s
  | .pctlPwrup p => Sys2Proof.Machine.execPctlPwrup p s
  | .pctlPrst p => Sys2Proof.Machine.execPctlPrst p s
  | .pipeReset p => Sys2Proof.Machine.execPipeReset p s
  | .caskWrite u k ep w => Sys2Proof.Machine.execCaskWrite u k ep w s
  | .caskRead u k ep flaw => Sys2Proof.Machine.execCaskRead u k ep flaw s
  | .caskCreditReturn u k => Sys2Proof.Machine.execCaskCreditReturn u k s
  | .caskTailTimeout u k => Sys2Proof.Machine.execCaskTailTimeout u k s
  | .caskFlush u k => Sys2Proof.Machine.execCaskFlush u k s
  | .caskSwitch u k => Sys2Proof.Machine.execCaskSwitch u k s
  | .rackTailWrite u c tail => Sys2Proof.Machine.execRackTailWrite u c tail s
  | .rackDescStart u c => Sys2Proof.Machine.execRackDescStart u c s
  | .rackBurstGrant u x => Sys2Proof.Machine.execRackBurstGrant u x s
  | .rackDescWriteback u c => Sys2Proof.Machine.execRackDescWriteback u c s
  | .rackAbort u c => Sys2Proof.Machine.execRackAbort u c s
  | .rackResume u c => Sys2Proof.Machine.execRackResume u c s
  | .rackChDisable u c => Sys2Proof.Machine.execRackChDisable u c s
  | .microopStart p e flaw => Sys2Proof.Machine.execMicroopStart p e flaw s
  | .microopComplete p e flaw => Sys2Proof.Machine.execMicroopComplete p e flaw s
  | .regionDrain p r => Sys2Proof.Machine.execRegionDrain p r s
  | .regionSwitch p r => Sys2Proof.Machine.execRegionSwitch p r s
  | .regionTimeout p r => Sys2Proof.Machine.execRegionTimeout p r s
  | .regionRestartExit p r => Sys2Proof.Machine.execRegionRestartExit p r s
  | .regionFault p kind unit elem => Sys2Proof.Machine.execRegionFault p kind unit elem s
  | .trlLmRead p w => Sys2Proof.Machine.execTrlLmRead p w s
  | .trlLmReadDone p flaw => Sys2Proof.Machine.execTrlLmReadDone p flaw s
  | .trlMonWindowEnd p busy starve block => Sys2Proof.Machine.execTrlMonWindowEnd p busy starve block s
  | .rprFailMark p c w => Sys2Proof.Machine.execRprFailMark p c w s
  | .rprClr p c w => Sys2Proof.Machine.execRprClr p c w s
  | .cuvlStage => Sys2Proof.Machine.execCuvlStage s
  | .cuvlVerifyDone bad => Sys2Proof.Machine.execCuvlVerifyDone bad s
  | .cuvlPass2Done bad => Sys2Proof.Machine.execCuvlPass2Done bad s
  | .cuvlGo => Sys2Proof.Machine.execCuvlGo s
  | .cuvlWholeCommit p => Sys2Proof.Machine.execCuvlWholeCommit p s
  | .cuvlWholeLoadDone p => Sys2Proof.Machine.execCuvlWholeLoadDone p s
  | .contextSwitch p cls x => Sys2Proof.Machine.execContextSwitch p cls x s
  | .recContextSwitch p => Sys2Proof.Machine.execRecContextSwitch p s
  | .cuvlSwitchTimeout => Sys2Proof.Machine.execCuvlSwitchTimeout s
  | .cuvlAbort => Sys2Proof.Machine.execCuvlAbort s
  | .refclkMonitorCheck u n good => Sys2Proof.Machine.execRefclkMonitorCheck u n good s
  | .laneAttemptStart u r => Sys2Proof.Machine.execLaneAttemptStart u r s
  | .laneSignalDetect u k => Sys2Proof.Machine.execLaneSignalDetect u k s
  | .laneCdrLock u k => Sys2Proof.Machine.execLaneCdrLock u k s
  | .laneCtleChosen u k code => Sys2Proof.Machine.execLaneCtleChosen u k code s
  | .laneBlockLock u k => Sys2Proof.Machine.execLaneBlockLock u k s
  | .trainingBlockReceived u k b => Sys2Proof.Machine.execTrainingBlockReceived u k b s
  | .laneStageTimeout u k => Sys2Proof.Machine.execLaneStageTimeout u k s
  | .dataBlockReceived u k b => Sys2Proof.Machine.execDataBlockReceived u k b s
  | .laneLoss u k c => Sys2Proof.Machine.execLaneLoss u k c s
  | .laneRetryExpiry u r => Sys2Proof.Machine.execLaneRetryExpiry u r s
  | .laneRetrain u mask => Sys2Proof.Machine.execLaneRetrain u mask s
  | .laneCtleTrack u k dir => Sys2Proof.Machine.execLaneCtleTrack u k dir s
  | .laneTxfirWrite u k w => Sys2Proof.Machine.execLaneTxfirWrite u k w s
  | .lanePrbsCtlWrite u k w => Sys2Proof.Machine.execLanePrbsCtlWrite u k w s
  | .prbsLockChange u k n sent flips => Sys2Proof.Machine.execPrbsLockChange u k n sent flips s
  | .laneSnapWrite u mask => Sys2Proof.Machine.execLaneSnapWrite u mask s
  | .sdiPllLock p k => Sys2Proof.Machine.execSdiPllLock p k s
  | .ethPcsAligned p k => Sys2Proof.Machine.execEthPcsAligned p k s
  | .dphySotTimeout p => Sys2Proof.Machine.execDphySotTimeout p s
  | .csi2LongPacket p k => Sys2Proof.Machine.execCsi2LongPacket p k s
  | .csi2FrameStart p di wc ecc board => Sys2Proof.Machine.execCsi2FrameStart p di wc ecc board s
  | .csi2FrameEnd p h ecc => Sys2Proof.Machine.execCsi2FrameEnd p h ecc s
  | .sfeIdentityReadDone p tries => Sys2Proof.Machine.execSfeIdentityReadDone p tries s
  | .sfeI3cCmdGo p w => Sys2Proof.Machine.execSfeI3cCmdGo p w s
  | .sfeI3cDone p result data => Sys2Proof.Machine.execSfeI3cDone p result data s
  | .sfeIbi p mdb => Sys2Proof.Machine.execSfeIbi p mdb s
  | .vrsPixelPair p u flaw => Sys2Proof.Machine.execVrsPixelPair p u flaw s
  | .vrsTportWrite p u t w => Sys2Proof.Machine.execVrsTportWrite p u t w s
  | .vrsUploadItem p u k => Sys2Proof.Machine.execVrsUploadItem p u k s
  | .vrsBankRst p u mask => Sys2Proof.Machine.execVrsBankRst p u mask s
  | .vrsDisarm p u => Sys2Proof.Machine.execVrsDisarm p u s
  | .vrsArm p u mask => Sys2Proof.Machine.execVrsArm p u mask s
  | .vrsForce p u => Sys2Proof.Machine.execVrsForce p u s
  | .vrsTableRead p u w => Sys2Proof.Machine.execVrsTableRead p u w s
  | .vrsTableReadDone p u flaw => Sys2Proof.Machine.execVrsTableReadDone p u flaw s
  | .statInputWord p x k flaw => Sys2Proof.Machine.execStatInputWord p x k flaw s
  | .statHold p x => Sys2Proof.Machine.execStatHold p x s
  | .statRelease p x => Sys2Proof.Machine.execStatRelease p x s
  | .statResultArrival p x => Sys2Proof.Machine.execStatResultArrival p x s
  | .statMergeTimeout g => Sys2Proof.Machine.execStatMergeTimeout g s
  | .pxrRowEncode p v => Sys2Proof.Machine.execPxrRowEncode p v s
  | .pxrDecGo p j => Sys2Proof.Machine.execPxrDecGo p j s
  | .pxrDecAbort p j => Sys2Proof.Machine.execPxrDecAbort p j s
  | .pxrDecDone p j rows => Sys2Proof.Machine.execPxrDecDone p j rows s
  | .blkFrameInput p c k t psn => Sys2Proof.Machine.execBlkFrameInput p c k t psn s
  | .blkFrameCodeStart p c k n b => Sys2Proof.Machine.execBlkFrameCodeStart p c k n b s
  | .blkFrameCoded p c k bytes qps qavg capped => Sys2Proof.Machine.execBlkFrameCoded p c k bytes qps qavg capped s
  | .blkCtxUpdGo p c at_ aseq => Sys2Proof.Machine.execBlkCtxUpdGo p c at_ aseq s
  | .blkCtxUpdCancel p c => Sys2Proof.Machine.execBlkCtxUpdCancel p c s
  | .blkSctlKey p c k => Sys2Proof.Machine.execBlkSctlKey p c k s
  | .blkSctlRefresh p c k => Sys2Proof.Machine.execBlkSctlRefresh p c k s
  | .asmGroupEnable g w => Sys2Proof.Machine.execAsmGroupEnable g w s
  | .asmTileUnit p u => Sys2Proof.Machine.execAsmTileUnit p u s
  | .asmWindowExpiry g seq => Sys2Proof.Machine.execAsmWindowExpiry g seq s
  | .rcCoordinatorMessage p g => Sys2Proof.Machine.execRcCoordinatorMessage p g s
  | .blkDecGo p j h => Sys2Proof.Machine.execBlkDecGo p j h s
  | .blkDecAbort p j => Sys2Proof.Machine.execBlkDecAbort p j s
  | .blkDecReset p j => Sys2Proof.Machine.execBlkDecReset p j s
  | .blkDecBudgetExpiry p j pic => Sys2Proof.Machine.execBlkDecBudgetExpiry p j pic s
  | .blkDecDone p j pic => Sys2Proof.Machine.execBlkDecDone p j pic s
  | .sqDoorbell q v => Sys2Proof.Machine.execSqDoorbell q v s
  | .cqDoorbell q v => Sys2Proof.Machine.execCqDoorbell q v s
  | .nvmeCommandFetch q late => Sys2Proof.Machine.execNvmeCommandFetch q late s
  | .deleteIoSubmissionQueue cid => Sys2Proof.Machine.execDeleteIoSubmissionQueue cid s
  | .createIoSubmissionQueue cid => Sys2Proof.Machine.execCreateIoSubmissionQueue cid s
  | .deleteIoCompletionQueue cid => Sys2Proof.Machine.execDeleteIoCompletionQueue cid s
  | .createIoCompletionQueue cid => Sys2Proof.Machine.execCreateIoCompletionQueue cid s
  | .getLogPage cid => Sys2Proof.Machine.execGetLogPage cid s
  | .identify cid => Sys2Proof.Machine.execIdentify cid s
  | .abort cid => Sys2Proof.Machine.execAbort cid s
  | .setFeatures cid => Sys2Proof.Machine.execSetFeatures cid s
  | .setFeaturesTenantShare cid => Sys2Proof.Machine.execSetFeaturesTenantShare cid s
  | .getFeatures cid => Sys2Proof.Machine.execGetFeatures cid s
  | .asynchronousEventRequest cid => Sys2Proof.Machine.execAsynchronousEventRequest cid s
  | .namespaceCreate cid good => Sys2Proof.Machine.execNamespaceCreate cid good s
  | .namespaceDelete cid => Sys2Proof.Machine.execNamespaceDelete cid s
  | .namespaceAttachment cid good => Sys2Proof.Machine.execNamespaceAttachment cid good s
  | .firmwareImageDownload cid => Sys2Proof.Machine.execFirmwareImageDownload cid s
  | .fwCommitWrite cid bad => Sys2Proof.Machine.execFwCommitWrite cid bad s
  | .fwCommitWriteSelect cid bad => Sys2Proof.Machine.execFwCommitWriteSelect cid bad s
  | .fwCommitSelect cid => Sys2Proof.Machine.execFwCommitSelect cid s
  | .fwCommitActivate cid bad => Sys2Proof.Machine.execFwCommitActivate cid bad s
  | .formatNvmDeallocate cid => Sys2Proof.Machine.execFormatNvmDeallocate cid s
  | .formatNvmErase cid => Sys2Proof.Machine.execFormatNvmErase cid s
  | .formatNvmCryptoErase cid => Sys2Proof.Machine.execFormatNvmCryptoErase cid s
  | .sanitizeBlockErase cid => Sys2Proof.Machine.execSanitizeBlockErase cid s
  | .sanitizeOverwrite cid => Sys2Proof.Machine.execSanitizeOverwrite cid s
  | .sanitizeCryptoErase cid => Sys2Proof.Machine.execSanitizeCryptoErase cid s
  | .sanitizeDone p => Sys2Proof.Machine.execSanitizeDone p s
  | .formatDone nsid => Sys2Proof.Machine.execFormatDone nsid s
  | .flush q cid => Sys2Proof.Machine.execFlush q cid s
  | .write q cid => Sys2Proof.Machine.execWrite q cid s
  | .read q cid => Sys2Proof.Machine.execRead q cid s
  | .writeZeroes q cid => Sys2Proof.Machine.execWriteZeroes q cid s
  | .datasetManagement q cid => Sys2Proof.Machine.execDatasetManagement q cid s
  | .verify q cid => Sys2Proof.Machine.execVerify q cid s
  | .rangeLockGrant q cid bad => Sys2Proof.Machine.execRangeLockGrant q cid bad s
  | .pieceCommit p => Sys2Proof.Machine.execPieceCommit p s
  | .controllerEnable cc aqa asq acq => Sys2Proof.Machine.execControllerEnable cc aqa asq acq s
  | .controllerDisable => Sys2Proof.Machine.execControllerDisable s
  | .tenantWindowEnd a waits taken => Sys2Proof.Machine.execTenantWindowEnd a waits taken s
  | .celShareWrite q w => Sys2Proof.Machine.execCelShareWrite q w s
  | .rbLevelCrossing p level => Sys2Proof.Machine.execRbLevelCrossing p level s
  | .rbLevelRestore p level => Sys2Proof.Machine.execRbLevelRestore p level s
  | .takeStart pipes vcs board => Sys2Proof.Machine.execTakeStart pipes vcs board s
  | .takeStop order => Sys2Proof.Machine.execTakeStop order s
  | .takeStartTimeout => Sys2Proof.Machine.execTakeStartTimeout s
  | .takeClosed num => Sys2Proof.Machine.execTakeClosed num s
  | .takeUnitCommit p x => Sys2Proof.Machine.execTakeUnitCommit p x s
  | .takeQueueReset p t => Sys2Proof.Machine.execTakeQueueReset p t s
  | .streamOpen p => Sys2Proof.Machine.execStreamOpen p s
  | .streamClose p handle => Sys2Proof.Machine.execStreamClose p handle s
  | .powerStateTransitionDone => Sys2Proof.Machine.execPowerStateTransitionDone s
  | .cartDetectLow p => Sys2Proof.Machine.execCartDetectLow p s
  | .cartSettled p => Sys2Proof.Machine.execCartSettled p s
  | .cartInitDone p g => Sys2Proof.Machine.execCartInitDone p g s
  | .cartIdentityRead p image => Sys2Proof.Machine.execCartIdentityRead p image s
  | .cartReplayDone p r => Sys2Proof.Machine.execCartReplayDone p r s
  | .cartRemoval p => Sys2Proof.Machine.execCartRemoval p s
  | .cartRetryExpiry p => Sys2Proof.Machine.execCartRetryExpiry p s
  | .cartEject p => Sys2Proof.Machine.execCartEject p s
  | .journalCheckpoint p => Sys2Proof.Machine.execJournalCheckpoint p s
  | .rebuildRegion p place region => Sys2Proof.Machine.execRebuildRegion p place region s
  | .flashProgramFail p spare => Sys2Proof.Machine.execFlashProgramFail p spare s
  | .drcInitGo p => Sys2Proof.Machine.execDrcInitGo p s
  | .drcTrainDone p failed => Sys2Proof.Machine.execDrcTrainDone p failed s
  | .drcFillDone p => Sys2Proof.Machine.execDrcFillDone p s
  | .dramRequest p r => Sys2Proof.Machine.execDramRequest p r s
  | .dramAccessDone p ch flaws => Sys2Proof.Machine.execDramAccessDone p ch flaws s
  | .drcHotSample p => Sys2Proof.Machine.execDrcHotSample p s
  | .drcHotWindowEnd p => Sys2Proof.Machine.execDrcHotWindowEnd p s
  | .drcHotHoldEnd p => Sys2Proof.Machine.execDrcHotHoldEnd p s
  | .drcScrubRead p word flaw => Sys2Proof.Machine.execDrcScrubRead p word flaw s
  | .drcSrEntry p ch => Sys2Proof.Machine.execDrcSrEntry p ch s
  | .drcFchgGo p rate => Sys2Proof.Machine.execDrcFchgGo p rate s
  | .drcFchgSetpointsDone p => Sys2Proof.Machine.execDrcFchgSetpointsDone p s
  | .drcFchgSrEntry p => Sys2Proof.Machine.execDrcFchgSrEntry p s
  | .drcFchgHoldTimeout p => Sys2Proof.Machine.execDrcFchgHoldTimeout p s
  | .drcFchgPllLocked p => Sys2Proof.Machine.execDrcFchgPllLocked p s
  | .refclkTimeFault => Sys2Proof.Machine.execRefclkTimeFault s
  | .refclkTimeRecover => Sys2Proof.Machine.execRefclkTimeRecover s
  | .ptpSync m => Sys2Proof.Machine.execPtpSync m s
  | .ptpFollowUp m => Sys2Proof.Machine.execPtpFollowUp m s
  | .ptpDelayResp m => Sys2Proof.Machine.execPtpDelayResp m s
  | .ptpAnnounce a => Sys2Proof.Machine.execPtpAnnounce a s
  | .ptpDelayReqSend => Sys2Proof.Machine.execPtpDelayReqSend s
  | .ptpAnnounceTimeout => Sys2Proof.Machine.execPtpAnnounceTimeout s
  | .ptpSyncTimeout => Sys2Proof.Machine.execPtpSyncTimeout s
  | .timeCtlStep force => Sys2Proof.Machine.execTimeCtlStep force s
  | .timeCtlForce => Sys2Proof.Machine.execTimeCtlForce s
  | .timeNsRead u => Sys2Proof.Machine.execTimeNsRead u s
  | .timecodeFrame g => Sys2Proof.Machine.execTimecodeFrame g s
  | .txtsPop p q => Sys2Proof.Machine.execTxtsPop p q s
  | .ethFrameRx p q bytes fcsOk => Sys2Proof.Machine.execEthFrameRx p q bytes fcsOk s
  | .ethHostTx p q => Sys2Proof.Machine.execEthHostTx p q s
  | .liveFrameInput p o n flaws => Sys2Proof.Machine.execLiveFrameInput p o n flaws s
  | .liveSlot p o due => Sys2Proof.Machine.execLiveSlot p o due s
  | .livePacketLaunch p o ready => Sys2Proof.Machine.execLivePacketLaunch p o ready s
  | .sdiRasterStart p o due phase => Sys2Proof.Machine.execSdiRasterStart p o due phase s
  | .pressTailWrite u r tail => Sys2Proof.Machine.execPressTailWrite u r tail s
  | .pressJobStart u => Sys2Proof.Machine.execPressJobStart u s
  | .pressJobEnd u bad denied read => Sys2Proof.Machine.execPressJobEnd u bad denied read s
  | .pressAbort u r => Sys2Proof.Machine.execPressAbort u r s
  | .pressResume u r => Sys2Proof.Machine.execPressResume u r s
  | .pressRingDisable u r => Sys2Proof.Machine.execPressRingDisable u r s
  | .qdlHello q => Sys2Proof.Machine.execQdlHello q s
  | .qdlPortDown q => Sys2Proof.Machine.execQdlPortDown q s
  | .qdlForwardWrite dev off w => Sys2Proof.Machine.execQdlForwardWrite dev off w s
  | .qdlForwardRead dev off => Sys2Proof.Machine.execQdlForwardRead dev off s
  | .qdlForwardReadDone dev w => Sys2Proof.Machine.execQdlForwardReadDone dev w s
  | .qdlFollowerHostAccess q wr addr data n => Sys2Proof.Machine.execQdlFollowerHostAccess q wr addr data n s
  | .qdlPeerEventMessage q event syn => Sys2Proof.Machine.execQdlPeerEventMessage q event syn s
  | .qdlTimeMessage q t step missed => Sys2Proof.Machine.execQdlTimeMessage q t step missed s
  | .qdlDelayEcho q delay => Sys2Proof.Machine.execQdlDelayEcho q delay s
  | .qdlTakeEndReport x num => Sys2Proof.Machine.execQdlTakeEndReport x num s
  | .qdlOrphanExpiry => Sys2Proof.Machine.execQdlOrphanExpiry s
  | .msixCoalesceTimeout v => Sys2Proof.Machine.execMsixCoalesceTimeout v s
  | .msixVectorUnmask x => Sys2Proof.Machine.execMsixVectorUnmask x s
  | .evtStatClear k w => Sys2Proof.Machine.execEvtStatClear k w s
  | .pasmLineInput n toks psn eof => Sys2Proof.Machine.execPasmLineInput n toks psn eof s
  | .pasmWindowExpiry g => Sys2Proof.Machine.execPasmWindowExpiry g s
  | .panelEnable o w => Sys2Proof.Machine.execPanelEnable o w s
  | .panelInitDone o => Sys2Proof.Machine.execPanelInitDone o s
  | .panelDcsSend o => Sys2Proof.Machine.execPanelDcsSend o s
  | .panelPush o w => Sys2Proof.Machine.execPanelPush o w s
  | .panelSurfaceFrameEof o => Sys2Proof.Machine.execPanelSurfaceFrameEof o s
  | .panelTeEdge o rising => Sys2Proof.Machine.execPanelTeEdge o rising s
  | .panelTeTimeout o => Sys2Proof.Machine.execPanelTeTimeout o s
  | .panelTransferStart o => Sys2Proof.Machine.execPanelTransferStart o s
  | .panelPacketSend o level => Sys2Proof.Machine.execPanelPacketSend o level s
  | .panelTransferDone o pad => Sys2Proof.Machine.execPanelTransferDone o pad s
  | .panelFetchTimeout o => Sys2Proof.Machine.execPanelFetchTimeout o s
  | .panelDisable o => Sys2Proof.Machine.execPanelDisable o s
  | .audTrigStart attime paths => Sys2Proof.Machine.execAudTrigStart attime paths s
  | .audTrigStop attime paths => Sys2Proof.Machine.execAudTrigStop attime paths s
  | .audTrigLead => Sys2Proof.Machine.execAudTrigLead s
  | .audTrigFrame => Sys2Proof.Machine.execAudTrigFrame s
  | .audMediaFrame fs => Sys2Proof.Machine.execAudMediaFrame fs s
  | .audAsrcLockChange a lock ratio => Sys2Proof.Machine.execAudAsrcLockChange a lock ratio s
  | .audPortDisable k => Sys2Proof.Machine.execAudPortDisable k s
  | .adcStart x => Sys2Proof.Machine.execAdcStart x s
  | .adcTimerTrigger x => Sys2Proof.Machine.execAdcTimerTrigger x s
  | .adcScanStart x => Sys2Proof.Machine.execAdcScanStart x s
  | .adcConversionDone x q moved => Sys2Proof.Machine.execAdcConversionDone x q moved s
  | .adcFifoPop x => Sys2Proof.Machine.execAdcFifoPop x s
  | .adcFifoFlush x => Sys2Proof.Machine.execAdcFifoFlush x s
  | .adcCalZero c rng => Sys2Proof.Machine.execAdcCalZero c rng s
  | .adcCalGain c rng expect => Sys2Proof.Machine.execAdcCalGain c rng expect s
  | .adcCalDone => Sys2Proof.Machine.execAdcCalDone s
  | .pwmPeriodStart p => Sys2Proof.Machine.execPwmPeriodStart p s
  | .pwmActiveEnd p => Sys2Proof.Machine.execPwmActiveEnd p s
  | .pwmSync mask => Sys2Proof.Machine.execPwmSync mask s
  | .swEnable j => Sys2Proof.Machine.execSwEnable j s
  | .swDisable j => Sys2Proof.Machine.execSwDisable j s
  | .swInrushEnd j => Sys2Proof.Machine.execSwInrushEnd j s
  | .swHardShort j isns => Sys2Proof.Machine.execSwHardShort j isns s
  | .swOvercurrent j isns => Sys2Proof.Machine.execSwOvercurrent j isns s
  | .brownoutBegin => Sys2Proof.Machine.execBrownoutBegin s
  | .brownoutRelease => Sys2Proof.Machine.execBrownoutRelease s
  | .keySample levels => Sys2Proof.Machine.execKeySample levels s
  | .keyFifoPop => Sys2Proof.Machine.execKeyFifoPop s
  | .encTransition e x => Sys2Proof.Machine.execEncTransition e x s
  | .encPosWrite e w => Sys2Proof.Machine.execEncPosWrite e w s
  | .touchMeasure t count => Sys2Proof.Machine.execTouchMeasure t count s
  | .thermConversion u k t => Sys2Proof.Machine.execThermConversion u k t s
  | .thermSelfCheck u k ok => Sys2Proof.Machine.execThermSelfCheck u k ok s
  | .pfailLow low => Sys2Proof.Machine.execPfailLow low s
  | .thermPavaneRequest => Sys2Proof.Machine.execThermPavaneRequest s
  | .pavaneCommitDeadline => Sys2Proof.Machine.execPavaneCommitDeadline s
  | .pavanePowerOff => Sys2Proof.Machine.execPavanePowerOff s
  | .supPgRise => Sys2Proof.Machine.execSupPgRise s
  | .supplyLoss => Sys2Proof.Machine.execSupplyLoss s
  | .resetRelease => Sys2Proof.Machine.execResetRelease s
  | .bootThermalHoldRelease => Sys2Proof.Machine.execBootThermalHoldRelease s
  | .bootVerifyDone sram lockstep flash => Sys2Proof.Machine.execBootVerifyDone sram lockstep flash s
  | .bootLoadDone => Sys2Proof.Machine.execBootLoadDone s
  | .bootOkWrite => Sys2Proof.Machine.execBootOkWrite s
  | .bootWatchdogExpiry => Sys2Proof.Machine.execBootWatchdogExpiry s
  | .fwActivationTimeout => Sys2Proof.Machine.execFwActivationTimeout s
  | .hubRstWarm => Sys2Proof.Machine.execHubRstWarm s
  | .hubRstFallow => Sys2Proof.Machine.execHubRstFallow s
  | .nrstFall => Sys2Proof.Machine.execNrstFall s
  | .nrstPress => Sys2Proof.Machine.execNrstPress s
  | .nrstRelease len => Sys2Proof.Machine.execNrstRelease len s
  | .nrstStuckTimeout => Sys2Proof.Machine.execNrstStuckTimeout s
  | .nrstRearm => Sys2Proof.Machine.execNrstRearm s
  | .standbyRequest mode => Sys2Proof.Machine.execStandbyRequest mode s
  | .standbyEntryDone xtal => Sys2Proof.Machine.execStandbyEntryDone xtal s
  | .aonWake src secs => Sys2Proof.Machine.execAonWake src secs s
  | .flashProgram => Sys2Proof.Machine.execFlashProgram s
  | .flashErase => Sys2Proof.Machine.execFlashErase s
  | .flashCmdDone bad => Sys2Proof.Machine.execFlashCmdDone bad s
  | .bistStart w => Sys2Proof.Machine.execBistStart w s
  | .bistVoltageReady => Sys2Proof.Machine.execBistVoltageReady s
  | .bistRunEnd mem sig => Sys2Proof.Machine.execBistRunEnd mem sig s
  | .bistAbort => Sys2Proof.Machine.execBistAbort s
  | .secuGenerate w => Sys2Proof.Machine.execSecuGenerate w s
  | .secuImport w => Sys2Proof.Machine.execSecuImport w s
  | .secuImportWrapped w => Sys2Proof.Machine.execSecuImportWrapped w s
  | .secuExportWrapped w => Sys2Proof.Machine.execSecuExportWrapped w s
  | .secuLock w => Sys2Proof.Machine.execSecuLock w s
  | .secuDestroy w => Sys2Proof.Machine.execSecuDestroy w s
  | .secuSetDigest w => Sys2Proof.Machine.execSecuSetDigest w s
  | .secuRevoke w => Sys2Proof.Machine.execSecuRevoke w s
  | .secuAdvanceSvn w => Sys2Proof.Machine.execSecuAdvanceSvn w s
  | .secuLcRequest w => Sys2Proof.Machine.execSecuLcRequest w s
  | .drbgHealthFail => Sys2Proof.Machine.execDrbgHealthFail s
  | .drbgReseed done => Sys2Proof.Machine.execDrbgReseed done s
  | .secuAlarmInput a => Sys2Proof.Machine.execSecuAlarmInput a s
  | .dphySot p mask => Sys2Proof.Machine.execDphySot p mask s
  | .pcieLinkUp width speed => Sys2Proof.Machine.execPcieLinkUp width speed s
  | .pcieCompletion n good psn => Sys2Proof.Machine.execPcieCompletion n good psn s
  | .secuCommandDone host nvm => Sys2Proof.Machine.execSecuCommandDone host nvm s
  | .configSpaceWrite bme msixen fmask => Sys2Proof.Machine.execConfigSpaceWrite bme msixen fmask s
  | .latchedWakeRelease => Sys2Proof.Machine.execLatchedWakeRelease s

end Sys2Proof.Machine
end

