-- ==== Sys2Proof/Machine/Step.lean ====
section
/-!
DEFINITION. One step: the command at the front of the queue is taken and run with the queue's rest. With no command
waiting the block idles: its free-running counter advances by one 4 ns cycle (R490; log entry 2).
-/
namespace Sys2Proof.Machine

/-- The idle step: the counter C of R490 advances by 1,024 and wraps at 2⁶⁴. [log entry 2: DESIGN CHOICE] -/
def idle (s : State) : State := { s with dev := { s.dev with c := (s.dev.c + 1024) % 2 ^ 64 } }

/-- One step of the block. [log entry 1: DESIGN CHOICE; log entry 2: DESIGN CHOICE] -/
def step (s : State) : Host.Outcome State Fault Refusal :=
  match s.pending with
  | [] => .next (idle s)
  | i :: rest => exec i { s with pending := rest }

/-- The state with the command that the word spells put at the front of its queue; the table gives no row any bits, so
no word spells a command. [log entry 4: DESIGN CHOICE] -/
def State.withFetchWord (s : State) (nbits w : Nat) : State :=
  match decodeTableWord nbits w with
  | some i => { s with pending := i :: s.pending }
  | none => s

end Sys2Proof.Machine
end

