-- ==== Sys2Proof/Safety.lean ====
section
/-!
DEFINITION. The terms the statements use: when a device takes commands, what a command makes of it, what an event leaves in the router,
and what a command leaves alone.
-/
namespace Sys2Proof.Machine

/-- The device does not hold itself in reset: its supplies are there and it has not switched itself off (R638, R692). -/
abbrev State.awake (s : State) : Prop := s.dev.hub.boot.held = none

/-- The commands that also act on a device that holds itself in reset: its supplies, its reset pin and the wakes of its always-on part
(R638, R640, R660, R692). [log entry 11: DESIGN CHOICE] -/
def actsOffline : Instr → Bool
  | .coldReset _ _ | .supPgRise | .supplyLoss | .pfailLow _ | .aonWake _ _ | .latchedWakeRelease => true
  | .nrstFall | .nrstPress | .nrstRelease _ | .nrstStuckTimeout | .nrstRearm => true
  | _ => false

/-- The state after a command whose effect leaves the device `d`: the queue as it was, what the router owes sent and the pins driven. -/
def State.after (s : State) (d : Dev) : State := { s with dev := settle d }

/-- The command completes: it answers a next state with the queue as it was and a device of which `q` holds. -/
def Does (c : Instr) (s : State) (q : Dev → Prop) : Prop := ∃ d, exec c s = .next (s.after d) ∧ q (settle d)

/-- A forwarded access that needs no answer. -/
def QItem.isWrite : QItem → Bool
  | .write _ _ => true
  | _ => false

/-- Event `e` stands in the router with syndrome `syn` (R561). -/
def Raised (d : Dev) (e syn : Nat) : Prop := e ∈ d.router.stat ∧ Tab.get 0 d.router.syn e = syn % 2 ^ 32

/-- From device `a` to device `t` role `r` of `u` has gone to RETRY with `cause`, and LANE_DOWN says so (R236, R249). -/
def Dev.roleLostBy (a t : Dev) (u r cause : Nat) : Prop :=
  t.roleState u r = 5 ∧ t.rd F.LANE_ROLE_STAT_FCAUSE u r = cause ∧ (t.role u r).episode = true ∧
    (a.hub.lost = false → Raised t (if u = 4 then 531 else pipeEvent u 30) (cause * 2 ^ 25 + r))

/-- Every field of the registers that `q` does not name reads in `b` as in `a`. -/
def SameRegs (q : FKey → Bool) (a b : Dev) : Prop := ∀ k v, q k = false → FStore.get v b.regs k = FStore.get v a.regs k

/-- Every byte of the host's memory, of the boot flash and of the pipes' DRAM reads in `b` as in `a`. -/
def SameMem (a b : Dev) : Prop :=
  (∀ x, b.hostMem.read x = a.hostMem.read x) ∧ (∀ x, b.hub.flash.read x = a.hub.flash.read x) ∧
    ∀ p x, (b.pipe p).dram.mem.read x = (a.pipe p).dram.mem.read x

/-- What the router holds between commands: the wired pins are at the levels of R567 and R556, and no message is owed that could be
sent (R564). -/
def Dev.settled (d : Dev) : Prop := d.router.irqLow = d.pinLevels ∧ ∀ v ∈ d.router.owed, d.vecBlocked v = true

/-- Admin command `c` with identifier `cid` and opcode `op` has been fetched and waits to be served (R403, R404). -/
abbrev Dev.fetched (d : Dev) (cid op : Nat) (c : NvmeCmd) : Prop :=
  d.nvLive = true ∧ (d.hub.nvme.cmds.find? fun c => c.q == 0 && c.cid == cid && c.stage == 0) = some c ∧ c.opc = op

/-- From device `a` to device `t` command `cid` of queue `q` has ended with dword 0 `dw0` and status `st`: it is gone, and where nothing holds
the completion up its entry stands at the tail of the completion queue (R402, R416). -/
def Dev.ended (a t : Dev) (q cid dw0 st : Nat) : Prop :=
  a.hub.nvme.dels = [] → a.hub.nvme.closing = false →
    t.hub.nvme.cmds = a.hub.nvme.cmds.eraseP (fun c => c.q == q && c.cid == cid) ∧
    ∀ x, Tab.find a.hub.nvme.cqs q = some x → x.room = true → a.hostOk = true → (∀ y ∈ a.hub.nvme.held, y.1 ≠ q) →
      Mem.readLe t.hostMem (x.base + 16 * x.tail) 4 = dw0 % 2 ^ 32 ∧
      Mem.readLe t.hostMem (x.base + 16 * x.tail + 12) 4 = (cid + 2 ^ 17 * st + if x.phase then 2 ^ 16 else 0) % 2 ^ 32

/-- The data `bs` of command `c` of queue `q`, where it lies in one page and clear of the completion queue's next entry, stands in host memory. -/
def Dev.gave (a t : Dev) (q : Nat) (c : NvmeCmd) (bs : List Byte) : Prop :=
  ∀ prp, prp = c.d 6 + 2 ^ 32 * c.d 7 → bs.length ≤ a.pageSize - prp % a.pageSize → a.hub.nvme.dels = [] →
    (∀ x, Tab.find a.hub.nvme.cqs q = some x → prp + bs.length ≤ x.base + 16 * x.tail ∨ x.base + 16 * x.tail + 16 ≤ prp) →
    t.hostMem.reads prp bs.length = bs

/-- I/O command `c` of queue `q` with opcode `op` is the next that slice `p` admits, for namespace `k` of the slice (R407). -/
abbrev Dev.arrives (d : Dev) (q cid op : Nat) (c : NvmeCmd) (p k : Nat) : Prop :=
  d.nvLive = true ∧ q ≠ 0 ∧ (d.hub.nvme.cmds.find? fun c => c.q == q && c.cid == cid && c.stage == 0) = some c ∧ c.opc = op ∧
    nsPlace (c.d 1) = (p, k) ∧ p < 4 ∧ (d.cel p).reseat = false ∧
    ∀ y ∈ d.hub.nvme.cmds.takeWhile fun y => !(y.q == q && y.cid == cid), y.q = 0 ∨ y.stage ≠ 0 ∨ y.slice ≠ p

/-- The I/O command has been admitted by its slice with a range-lock entry for each of its ranges (R408, R411). -/
def Dev.admitted (a t : Dev) (q cid p k : Nat) (wr : Bool) (rs : List (Nat × Nat)) : Prop :=
  (t.cel p).locks = (a.cel p).locks ++ (rs.map fun r => ⟨k, r.1, r.2, wr, q, cid⟩) ∧
    t.hub.nvme.cmds = a.hub.nvme.cmds.map fun y => if y.q = q ∧ y.cid = cid then { y with stage := 1 } else y

/-- A security command `op` has started with bits 26 to 0 of its word `w` (R679). -/
def Dev.secuRuns (a : Dev) (op : Nat) (w : BitVec 27) (t : Dev) : Prop :=
  t.on F.SECU_CMD_GO = true ∧ t.on F.SECU_RES_BUSY = true ∧ t.rd F.SECU_RES_RESULT = 0 ∧ t.rd F.SECU_CMD_OP = op ∧
    t.rd F.SECU_CMD_SLOT = slice w.toNat 3 0 ∧ t.rd F.SECU_CMD_SRCSLOT = slice w.toNat 11 8 ∧
    t.rd F.SECU_CMD_ARG = slice w.toNat 26 20 ∧ t.hub = a.hub

/-- A life-cycle request's fixed fields, its source state, serial number and nonce are those of the device (R683). -/
abbrev Dev.lcFramed (d : Dev) (b : List Byte) : Prop :=
  let at_ := fun (o n : Nat) => ofLeBytes ((b.drop o).take n)
  at_ 0 4 = 0x434C5850 ∧ at_ 6 2 = 0 ∧ at_ 0x20 32 = 0 ∧ at_ 0x40 2 = 1 ∧ at_ 0x44 12 = 0 ∧ at_ 0x110 48 = 0 ∧ at_ 0x42 2 < 8 ∧
    at_ 4 1 = d.lcs ∧ at_ 8 8 = Config.serial.toNat ∧
    at_ 0x10 16 = ((List.range 4).map fun k => d.rd F.SECU_NONCE_NONCE 0 k * 2 ^ (32 * k)).sum

/-! ### What a command leaves alone -/

/-- A part of the register file: every copy of a register, its copies in one unit (a pipe's number, 4 for the Hub's), or those of one
unit with one first index. -/
inductive Cell where
  | reg (r : RegId) | own (r : RegId) (p : Nat) | one (r : RegId) (p i : Nat)

/-- Whether the part takes in a field. -/
def Cell.has : Cell → FKey → Bool
  | .reg r, k => decide (k.reg = r)
  | .own r p, k => decide (k.reg = r) && k.p == p
  | .one r p i, k => decide (k.reg = r) && k.p == p && k.i == i

/-- Whether address `x` lies in the yield log's ring (R569). -/
def Dev.ylogRoom (d : Dev) (x : Nat) : Bool :=
  let b := d.rd64 F.EVT_YLOG_RING_LO_BASE_LO F.EVT_YLOG_RING_HI_BASE_HI
  decide (b ≤ x) && decide (x < b + 32 * max (d.rd F.EVT_YLOG_TAIL_TAIL + 1) d.ylogSize)

/-- Whether it lies in a completion queue (R402). -/
def Dev.cqRoom (d : Dev) (x : Nat) : Bool :=
  d.hub.nvme.cqs.any fun q => decide (q.2.base ≤ x) && decide (x < q.2.base + 16 * max (q.2.tail + 1) q.2.size)

/-- Whether it lies in the ring of statistics group `g` (R322). -/
def Dev.stmRoom (d : Dev) (g x : Nat) : Bool :=
  let b := d.rd64 F.HUB_STM_RING_LO_BASE_LO F.HUB_STM_RING_HI_BASE_HI 0 g
  decide (b ≤ x) && decide (x < b + 1024 * d.rd F.HUB_STM_CFG_SLOT 0 g * max (d.rd F.HUB_STM_TAIL_TAIL 0 g + 1) (2 ^ d.stmRsize g))

/-- Whether it lies in the ring of assembly group `g`, whose pointer is in the ring (R387). -/
def Dev.asmRoom (d : Dev) (g x : Nat) : Bool :=
  let b := d.rd64 F.HUB_ASM_RING_LO_BASE_LO F.HUB_ASM_RING_HI_BASE_HI 0 g
  decide (b ≤ x) && (decide (x < b + d.asmSize g) || decide (d.asmSize g ≤ 8 * d.rd F.HUB_ASM_TAIL_TAIL 0 g))

/-- Whether it lies in the ring of an audio path, whose pointer is in the ring (R595). -/
def Dev.audRoom (d : Dev) (x : Nat) : Bool :=
  (List.range 8).any fun y => decide (d.audBase y ≤ x) &&
    (decide (x < d.audBase y + d.audRing y) || decide (d.audRing y ≤ 8 * d.rd F.AUD_XDEV_TAIL 0 (y / 2) (y % 2)))

/-- What a command may change. `regs` are registers, `events` the events it may raise and `mem` the host addresses it may store to;
`dev`, `hub`, `router` and `pipe` give what stood before with the parts that may change taken from what stands after; `unit` is the one
pipe whose state may change, every pipe where it is none. -/
structure Span where
  regs : List Cell := []
  events : List Nat := []
  mem : Dev → Nat → Bool := fun _ _ => false
  dev : Dev → Dev → Dev := fun a _ => a
  hub : HubSt → HubSt → HubSt := fun a _ => a
  router : Router → Router → Router := fun a _ => a
  pipe : PipeSt → PipeSt → PipeSt := fun a _ => a
  unit : Option Nat := none

/-- Whether the span takes in a field; an event may also set the overflow bit of a follower's port to its leader (R541). -/
def Span.writes (x : Span) (k : FKey) : Bool := x.regs.any (·.has k) || (!x.events.isEmpty && decide (k.reg = .QDL_PEER))

/-- What the Hub holds outside the span, the messages to a leader apart where the span has events. -/
def Span.hubOf (x : Span) (a b : HubSt) : HubSt :=
  let h := x.hub a b
  if x.events.isEmpty then h else { h with qdl := { h.qdl with msgs := b.qdl.msgs } }

/-- What pipe `p` holds outside the span. -/
def Span.pipeOf (x : Span) (p : Nat) (a b : PipeSt) : PipeSt := if x.unit.isNone || x.unit == some p then x.pipe a b else a

/-- What the router holds outside the span, the messages it sends and the pins apart. -/
def Span.routerOf (x : Span) (a b : Router) : Router :=
  { x.router a b with
    stat := b.stat, ovr := b.ovr, syn := b.syn, mc := b.mc, coal := b.coal, owed := b.owed, sent := b.sent, irqLow := b.irqLow }

/-- From device `a` to device `b` nothing outside the span has changed: no register, no event's status, overrun or syndrome, nothing the
Hub, a pipe or the router holds, and no byte of memory. -/
def Kept (x : Span) (a b : Dev) : Prop :=
  SameRegs x.writes a b ∧
    (∀ e, e ∉ x.events → (e ∈ b.router.stat ↔ e ∈ a.router.stat) ∧ (e ∈ b.router.ovr ↔ e ∈ a.router.ovr) ∧
      Tab.get 0 b.router.syn e = Tab.get 0 a.router.syn e) ∧
    b.hub = x.hubOf a.hub b.hub ∧ b.router = x.routerOf a.router b.router ∧
    (∀ p : Pipe, b.pipe p = x.pipeOf p (a.pipe p) (b.pipe p)) ∧
    (∀ y, x.mem a y = false → b.hostMem.read y = a.hostMem.read y) ∧
    b = { x.dev a b with regs := b.regs, router := b.router, pipes := b.pipes, hub := b.hub, hostMem := b.hostMem }

/-- Where the command answers a next state, the queue is as it was and nothing outside the span has changed. -/
def Frame (c : Instr) (x : Span) : Prop := ∀ s t, exec c s = .next t → t.pending = s.pending ∧ Kept x s.dev t.dev

/-- What a change of a lane or a role can reach (R232 to R241): the lanes and roles, and what follows from a role that comes up or goes down: the
sensor and its frames, the streams and takes they feed, a Quadrille port and the time it gives, a live output on a lane. -/
def Span.link : Span :=
  { regs := [.reg .PCTL_ARUN_STAT, .reg .PCTL_STAT, .reg .CASK_STAT, .reg .RACK_GSTAT, .reg .RACK_CH_STAT, .reg .CUVL_STAT,
      .reg .CUVL_ERR, .reg .CUVL_ERR_DET, .reg .LANE_REFSTAT, .reg .LANE_ROLE_STAT, .reg .LANE_CTLE, .reg .LANE_STAT,
      .reg .LANE_PRBS_CTL, .reg .LANE_PRBS_STAT, .reg .LANE_HDR_ERR_LO, .reg .LANE_HDR_ERR_HI, .reg .LANE_DOWN_CNT_LO,
      .reg .LANE_DOWN_CNT_HI, .reg .LANE_PRBS_ERR_LO, .reg .LANE_PRBS_ERR_HI, .reg .LANE_PRBS_BITS_LO, .reg .LANE_PRBS_BITS_HI,
      .reg .SFE_STAT, .reg .SFE_HP_STAT, .reg .SFE_I3C_CMD, .reg .SFE_I3C_STAT, .reg .SFE_ERR_CNT_LO, .reg .SFE_ERR_CNT_HI,
      .reg .VRS_BANK_STAT, .reg .PXR_ENC_TAKE, .reg .PXR_CNT_FRAMES_LO, .reg .PXR_CNT_FRAMES_HI, .reg .PXR_CNT_GAPS_LO,
      .reg .PXR_CNT_GAPS_HI, .reg .PXR_CNT_BYTES_LO, .reg .PXR_CNT_BYTES_HI, .reg .PXR_ENC_VSTAT, .reg .PXR_ENC_VSEQ,
      .reg .CEL_TAKE_CMD, .reg .CEL_TAKE_STAT, .reg .CEL_TSTAT, .reg .CELP_RB_STAT, .reg .CELP_TQ_STAT, .reg .CELP_LOCK_STAT,
      .reg .TIME_STAT, .reg .SDI_LO_STAT, .reg .PRESS_GSTAT, .reg .PRESS_RING_STAT],
    events := [518, 529, 530, 531, 532, 533, 534, 540, 541, 545, 552, 554, 556] ++ ([0, 1, 2, 3].flatMap fun n => [pipeEvent n 7,
      pipeEvent n 29, pipeEvent n 30, pipeEvent n 31, pipeEvent n 32, pipeEvent n 33, pipeEvent n 34, pipeEvent n 35,
      pipeEvent n 36, pipeEvent n 44, pipeEvent n 77]),
    mem := fun a x => a.cqRoom x,
    dev := fun a b => { a with free := b.free, rdata := b.rdata },
    hub := fun a b => { a with
        casks := b.casks, cuvl := b.cuvl, hreq := b.hreq, lanes := b.lanes, nvme := b.nvme, press := b.press, ptp := b.ptp,
        qdl := b.qdl, rack := b.rack, skew := b.skew, takes := b.takes },
    pipe := fun a b => { a with
        casks := b.casks, cel := b.cel, encs := b.encs, lanes := b.lanes, press := b.press, rack := b.rack, sfe := b.sfe,
        takes := b.takes, trl := b.trl, vrs := b.vrs } }

/-- What the start or the end of a take can reach (R428 to R437): the takes, their queues and streams, the frames in progress and the casks
that carry them, and for the commands of a cartridge, a reset or the boot their own status. -/
def Span.take : Span :=
  { regs := [.reg .PCTL_ARUN_STAT, .reg .PCTL_ARUN_FRAMES, .reg .PCTL_STAT, .reg .PCTL_STALL_LOC, .reg .PCTL_STALL_CNT_LO,
      .reg .PCTL_STALL_CNT_HI, .reg .CASK_STAT, .reg .SFE_STAT, .reg .SFE_HP_STAT, .reg .SFE_ID_SERIAL, .reg .SFE_ID_INSERT,
      .reg .SFE_ID_MODE, .reg .SFE_ERR_CNT_LO, .reg .SFE_ERR_CNT_HI, .reg .PXR_ENC_TAKE, .reg .PXR_CNT_FRAMES_LO,
      .reg .PXR_CNT_FRAMES_HI, .reg .PXR_CNT_GAPS_LO, .reg .PXR_CNT_GAPS_HI, .reg .PXR_CNT_BYTES_LO, .reg .PXR_CNT_BYTES_HI,
      .reg .PXR_ENC_VSTAT, .reg .PXR_ENC_VSEQ, .reg .CEL_TAKE_CMD, .reg .CEL_TAKE_STAT, .reg .CEL_TAKE_NUM, .reg .CEL_TSTAT,
      .reg .CELP_RB_STAT, .reg .CELP_TQ_STAT, .reg .CELP_LOCK_STAT, .reg .CELP_LOCKWAIT_CNT_LO, .reg .CELP_LOCKWAIT_CNT_HI,
      .reg .CEL_SAN_STAT, .reg .CELP_CART_STAT, .reg .CELP_CART_SERIAL, .reg .CELP_CART_MGEN, .reg .CELP_RBLD_STAT,
      .reg .DRC_CORR_CNT_LO, .reg .DRC_CORR_CNT_HI, .reg .DRC_UNC_CNT_LO, .reg .DRC_UNC_CNT_HI, .reg .DRC_ELOG_STAT, .reg .DRC_ELOG,
      .reg .QDL_TAKE_STAT, .reg .HUB_RST_CAUSE, .reg .HUB_BOOT_STAT],
    events := [534, 540, 541, 544, 556, 557, 589] ++ ([0, 1, 2, 3].flatMap fun n => [pipeEvent n 3, pipeEvent n 33,
      pipeEvent n 34, pipeEvent n 35, pipeEvent n 44, pipeEvent n 59, pipeEvent n 61, pipeEvent n 62, pipeEvent n 65]),
    mem := fun a x => a.cqRoom x,
    hub := fun a b => { a with
        boot := b.boot, casks := b.casks, hreq := b.hreq, lanes := b.lanes, nvme := b.nvme, qdl := b.qdl, skew := b.skew,
        startHeld := b.startHeld, takes := b.takes },
    pipe := fun a b => { a with
        casks := b.casks, cel := b.cel, dram := b.dram, encs := b.encs, lanes := b.lanes, recp := b.recp, sfe := b.sfe,
        takes := b.takes } }

end Sys2Proof.Machine
end

