-- ==== Sys2Proof/Certificates/Slice0/Obligations.lean ====
section
/-!
DEFINITION. The statements for the provers. `Does c s P` (Safety) says that command `c` answers a next state from `s` whose device meets `P`
and whose queue is that of `s`; `s.after d` is `s` with the settled device `d`; `Frame c sp` that `c` changes nothing outside the span `sp`.
The rules cited are those of spec/.
-/
open Sys2Proof Sys2Proof.Machine

/-- One step takes the command at the front of the queue and is that command's `exec` on the state with the queue's rest; on an empty queue
the block idles and only its free-running counter advances, by one 4 ns cycle of 1,024 units (R490; that an idle step stands for one cycle
is log entry 2, the model's choice). -/
def Obligations.StepTakesFront : Prop :=
  (∀ (s : State) c rest, s.pending = c :: rest → step s = exec c { s with pending := rest }) ∧
  (∀ s : State, s.pending = [] →
    step s = .next { pending := [], dev := { s.dev with c := (s.dev.c + 1024) % 2 ^ 64 } })

/-- Every well-formed command answers a next state with the queue as it was and a router that has settled; in a device that holds itself in
reset (R638, R692) every command but those of its always-on part and its supplies leaves all as it is; an ill-formed command, which names
something the device does not have, stops the machine, and no command is refused. -/
def Obligations.EveryCommandAnswers : Prop :=
  ∀ (c : Instr) (s : State),
    (c.wf = false → exec c s = .fault .illFormed) ∧
    (c.wf = true → s.awake → ∃ d, exec c s = .next (s.after d)) ∧
    (c.wf = true → ¬ s.awake → actsOffline c = true → ∃ d, exec c s = .next (s.after d)) ∧
    (c.wf = true → ¬ s.awake → actsOffline c = false → exec c s = .next s)

/-- Progress and preservation: from every state whose waiting commands are well formed and whose router has settled (no vector owes a message
that it could send, R564, R566; each wired pin is at the level R567 and R556 give it), a step answers a state of the same kind, with the front
command gone from the queue. -/
def Obligations.SettledKept : Prop :=
  ∀ s : State, s.dev.settled → (∀ c ∈ s.pending, c.wf = true) →
    ∃ t, step s = .next t ∧ t.dev.settled ∧ (∀ c ∈ t.pending, c.wf = true) ∧ t.pending = s.pending.tail

/-- The state of reset: no command waits, the router has settled, no memory lists a byte, no event stands, every register field reads its
reset value (the value of its register table, or, for a field whose table gives none, the value of log entry 6), the counter is at 0, and
the device is awake, with its Hub. -/
def Obligations.ResetState : Prop :=
  State.reset.pending = [] ∧ State.reset.dev.settled ∧ State.reset.awake ∧ State.reset.dev.hub.lost = false ∧
    State.reset.dev.hostMem = [] ∧ State.reset.dev.hub.flash = [] ∧ (∀ p : Pipe, (State.reset.dev.pipe p).dram.mem = []) ∧
    (∀ f p i j, State.reset.dev.rd f p i j = f.rstAt p i) ∧ (∀ e, e ∉ State.reset.dev.router.stat) ∧ State.reset.dev.c = 0 ∧
    State.reset.dev.rd F.TIME_PTP_DOMAIN = 127 ∧ State.reset.dev.rd F.HUB_GOV_CTL_VMAN = 780 ∧
    State.reset.dev.rd F.HUB_GOV_LIM_VMAX = 850 ∧ State.reset.dev.rd F.TIME_UTC_UTCOFF = 37 ∧
    (∀ p : Pipe, State.reset.dev.rd F.PCTL_STAT_STATE p = 0 ∧ State.reset.dev.rd F.PCTL_STALL_CFG_STALL_T p = 4)

/-- Source e uses MSI-X vector e + 1 below 540, 0 at 540 and e above; the mapping is one to one over 0 to 1,023; and an event that reaches
the vector of its source is owed there, whatever vector the others use (R563). -/
def Obligations.VectorMap : Prop :=
  (∀ e, (e < 540 → vectorOf e = e + 1) ∧ (e = 540 → vectorOf e = 0) ∧ (540 < e → vectorOf e = e)) ∧
  (∀ e, e < 1024 → vectorOf e < 1024) ∧
  (∀ a b, vectorOf a = vectorOf b → a = b) ∧
  (∀ v, v < 1024 → ∃ e, e < 1024 ∧ vectorOf e = v) ∧
  (∀ (d : Dev) e syn, d.hub.lost = false → d.on F.EVT_SRC_CFG_MSIX 0 e = true → d.on F.HUB_PCIE_STAT_FLR = false →
    d.rd F.EVT_COAL_TIME 0 (vectorOf e) = 0 → vectorOf e ∈ (d.raise e syn).router.owed)

/-- The switched outputs are independent: a fault of output j changes no register, no window and nothing held of any other output k (R621). -/
def Obligations.IndependentOutputs : Prop :=
  ∀ (s : State) (j k : Fin 12) isns (f : Fld), s.awake → j ≠ k → f.reg = .SENSE_SW_STAT ∨ f.reg = .SENSE_SW_CFG →
    (Does (.swHardShort j isns) s fun t => t.rd f 0 k = s.dev.rd f 0 k ∧ t.hub.sense = s.dev.hub.sense) ∧
    (Does (.swOvercurrent j isns) s fun t => t.rd f 0 k = s.dev.rd f 0 k ∧ t.hub.sense = s.dev.hub.sense) ∧
    (∀ t, exec (.swHardShort j isns) s = .next t ∨ exec (.swOvercurrent j isns) s = .next t →
      (s.dev.swState k = 1 → Does (.swInrushEnd k) t fun u => u.swState k = 2) ∧
      (s.dev.swState k ≠ 1 → exec (.swInrushEnd k) t = .next (t.after t.dev)))

/-- A write of STAGE is accepted in IDLE, DONE and FAILED only and a write of `CUVL_GO` in STAGED only; any other is discarded, sets its bit of
`CUVL_REFUSE` and changes nothing else, so the job stays as it is (R197). -/
def Obligations.CuveeRefusals : Prop :=
  ∀ s : State, s.awake → s.dev.reaches .CUVL 0 = true →
    ((s.dev.cuvState = 0 ∨ s.dev.cuvState = 5 ∨ s.dev.cuvState = 6) → Does .cuvlStage s fun t =>
      t.cuvState = 1 ∧ t.rd F.CUVL_REFUSE_STAGE = s.dev.rd F.CUVL_REFUSE_STAGE) ∧
    (¬ (s.dev.cuvState = 0 ∨ s.dev.cuvState = 5 ∨ s.dev.cuvState = 6) → Does .cuvlStage s fun t =>
      t.rd F.CUVL_REFUSE_STAGE = 1 ∧ t.hub = s.dev.hub ∧ t.pipes = s.dev.pipes ∧ t.hostMem = s.dev.hostMem ∧
        ∀ f p i j, f.reg ≠ .CUVL_REFUSE → t.rd f p i j = s.dev.rd f p i j) ∧
    (s.dev.cuvState ≠ 3 → Does .cuvlGo s fun t =>
      t.rd F.CUVL_REFUSE_GO = 1 ∧ t.hub = s.dev.hub ∧ t.pipes = s.dev.pipes ∧ t.hostMem = s.dev.hostMem ∧
        ∀ f p i j, f.reg ≠ .CUVL_REFUSE → t.rd f p i j = s.dev.rd f p i j)

/-- A pipe's power-up, reset and gate trip (R14, R51, R52, R54, R91, R716): `PWRUP` takes a pipe that is OFF to state 1 and is discarded in
any other; `PRST` resets a pipe in state 1 or 2 at once, waits for the takes of a pipe in RUN or autonomous run, restores a pipe whose gate
tripped, and does nothing in OFF or behind a latched gate; the reset that waited takes effect when the takes are on the cartridge; a trip
takes a powered pipe to state 5 and raises PIPE_GATE_TRIP, and a second one within 10 s latches the gate. A lost stripe's message writes the
record of form 2 in each stream its take has in the pipe, and a restored pipe is lost to no take any more. -/
def Obligations.PipePower : Prop :=
  (∀ (s : State) (p : Pipe), s.awake → s.dev.reaches .PCTL p = true →
    (s.dev.rd F.PCTL_STAT_STATE p = 0 → exec (.pctlPwrup p) s = .next (s.after (s.dev.wr F.PCTL_STAT_STATE 1 p))) ∧
    (s.dev.rd F.PCTL_STAT_STATE p ≠ 0 → exec (.pctlPwrup p) s = .next (s.after s.dev))) ∧
  (∀ (s : State) (p : Pipe), s.awake → s.dev.reaches .PCTL p = true →
    (s.dev.rd F.PCTL_STAT_STATE p = 1 ∨ s.dev.rd F.PCTL_STAT_STATE p = 2) →
    Does (.pctlPrst p) s fun t => t.rd F.PCTL_STAT_STATE p = 1) ∧
  (∀ (s : State) (p : Pipe), s.awake → s.dev.reaches .PCTL p = true →
    (s.dev.rd F.PCTL_STAT_STATE p = 3 ∨ s.dev.rd F.PCTL_STAT_STATE p = 4) →
    Does (.pctlPrst p) s fun t => p.val ∈ t.hub.prst) ∧
  (∀ (s : State) (p : Pipe), s.awake → s.dev.reaches .PCTL p = true → s.dev.rd F.PCTL_STAT_STATE p = 5 →
    (s.dev.on F.PCTL_STAT_GATE_LATCH p = true → exec (.pctlPrst p) s = .next (s.after s.dev)) ∧
    (s.dev.on F.PCTL_STAT_GATE_LATCH p = false → Does (.pctlPrst p) s fun t => t.rd F.PCTL_STAT_STATE p = 1 ∧
      ∀ f i j, f.reg ≠ .PCTL_STAT → (f.key p i j).dom = .pipe → (f.key p i j).sticky = false →
        pipeBlocks.contains f.reg.info.blk = true → t.rd f p i j = f.rstAt p i)) ∧
  (∀ (s : State) (p : Pipe), s.awake → s.dev.reaches .PCTL p = true → s.dev.rd F.PCTL_STAT_STATE p = 0 →
    exec (.pctlPrst p) s = .next (s.after s.dev)) ∧
  (∀ (s : State) (p : Pipe), s.awake → p.val ∈ s.dev.hub.prst → s.dev.takesShut p = true →
    Does (.pipeReset p) s fun t => t.rd F.PCTL_STAT_STATE p = 1) ∧
  (∀ (s : State) (p : Pipe), s.awake → (p.val ∉ s.dev.hub.prst ∨ s.dev.takesShut p = false) →
    exec (.pipeReset p) s = .next (s.after s.dev)) ∧
  (∀ (s : State) (p : Pipe), s.awake → s.dev.rd F.PCTL_STAT_STATE p ≠ 0 → s.dev.rd F.PCTL_STAT_STATE p ≠ 5 →
    Does (.pipeGateTrip p) s fun t => t.rd F.PCTL_STAT_STATE p = 5 ∧ (s.dev.hub.lost = false → Raised t 513 p) ∧
      (∀ c, Tab.find s.dev.hub.trips p = some c → cSince c s.dev.c < tripWindow → t.on F.PCTL_STAT_GATE_LATCH p = true)) ∧
  (∀ (s : State) (p : Pipe), s.awake → (s.dev.rd F.PCTL_STAT_STATE p = 0 ∨ s.dev.rd F.PCTL_STAT_STATE p = 5) →
    exec (.pipeGateTrip p) s = .next (s.after s.dev)) ∧
  (∀ (s : State) (p : Pipe) (m : StripeMsg) (rest : List StripeMsg), s.awake → s.dev.hub.stripe = m :: rest → m.dst = p.val →
    exec (.stripeLostTimeMessage p) s = .next (s.after
      ((s.dev.updHub fun h => { h with stripe := rest }).stripeRecord p m.take 2 m.pipe m.time m.time))) ∧
  (∀ (s : State) (p : Pipe), s.awake → s.dev.pipeRuns p = true → s.dev.cartState p = 4 → s.dev.roleState p 0 = 4 →
    s.dev.hub.lost = false →
    Does (.trippedPipeRejoin p) s fun t => ∀ r ∈ t.hub.takes, r.ended = true ∨ ∀ x ∈ r.lost, x.1 ≠ p.val)

/-- The resets of the whole device and the host link. A power-on leaves the device in reset with its straps read and every field of the
pipe domain at its reset value (R14, R534, R692); a warm reset that waits starts when the pipes are ready, records its cause and restores
every field of the pipe domain that is not RWS (R14, R46, R47, R656); an FLR clears the MSI-X table and restores the FLR and queue fields,
and its end raises HOST_FLR (R553, R566); a link that goes down acts as an FLR and resets the configuration space (R555); a link that comes
up shows its width and speed, one lane in Fallow mode, and a follower has none (R537, R550, R649); a configuration write sets the three
bits (R554). -/
def Obligations.DeviceResets : Prop :=
  (∀ (s : State) (devid : Fin 4) (lost : Bool), Does (.coldReset devid lost) s fun t =>
    t.hub.boot.held = some .supply ∧ t.hub.boot.ready = true ∧ t.rd F.QDL_ID_DEVID = devid ∧ t.on F.QDL_ID_LEADER = (devid == 0) ∧
      ∀ f p i j, (f.key p i j).dom = .pipe → t.rd f p i j = f.rstAt p i) ∧
  (∀ s : State, s.awake →
    (∀ cause reason, s.dev.hub.boot.want = some (cause, reason) → cause < 16 → (∀ p : Pipe, s.dev.resetReady p = true) →
      Does .warmResetStart s fun t => t.rd F.HUB_RST_CAUSE_CAUSE = cause ∧ t.hub.boot.want = none ∧ t.hub.boot.released = false ∧
        t.hub.lost = false ∧
        ∀ f p i j, (f.key p i j).dom = .pipe → (f.key p i j).sticky = false → t.rd f p i j = f.rstAt p i) ∧
    ((s.dev.hub.boot.want = none ∨ ∃ p : Pipe, s.dev.resetReady p = false) → exec .warmResetStart s = .next (s.after s.dev)) ∧
    (s.dev.on F.HUB_PCIE_STAT_FLR = false → Does .functionLevelReset s fun t =>
      t.on F.HUB_PCIE_STAT_FLR = true ∧ t.router.table = [] ∧ t.router.owed = [] ∧
        ∀ f p i j, f.reg ≠ .HUB_PCIE_STAT → ((f.key p i j).dom = .flr ∨ (f.key p i j).dom = .queue) → t.rd f p i j = f.rstAt p i) ∧
    (s.dev.on F.HUB_PCIE_STAT_FLR = true → exec .functionLevelReset s = .next (s.after s.dev)) ∧
    (s.dev.on F.HUB_PCIE_STAT_FLR = true → s.dev.hub.lost = false → Does .flrEnd s fun t =>
      t.on F.HUB_PCIE_STAT_FLR = false ∧ Raised t 559 0) ∧
    (s.dev.on F.HUB_PCIE_STAT_FLR = false → exec .flrEnd s = .next (s.after s.dev)) ∧
    (∀ down, Does (.pcieLinkDown down) s fun t =>
      t.on F.HUB_PCIE_STAT_FLR = true ∧ t.on F.HUB_PCIE_STAT_BME = false ∧ t.on F.HUB_PCIE_STAT_MSIXEN = false ∧
        t.on F.HUB_PCIE_STAT_FMASK = false ∧
        (down = true → t.on F.HUB_PCIE_STAT_DLUP = false ∧ t.rd F.HUB_PCIE_STAT_WIDTH = 0 ∧ t.rd F.HUB_PCIE_STAT_SPEED = 0)) ∧
    (∀ w v, s.dev.isFollower = false → Does (.pcieLinkUp w v) s fun t =>
      t.on F.HUB_PCIE_STAT_DLUP = true ∧
      t.rd F.HUB_PCIE_STAT_WIDTH = (if s.dev.on F.HUB_FALLOW_ACTIVE then 1 else match w with | .x1 => 1 | .x2 => 2 | .x4 => 4 | .x8 => 8) ∧
      t.rd F.HUB_PCIE_STAT_SPEED =
        (if s.dev.on F.HUB_FALLOW_ACTIVE then 5 else match v with | .g2 => 1 | .g5 => 2 | .g8 => 3 | .g16 => 4 | .g32 => 5)) ∧
    (∀ w v, s.dev.isFollower = true → exec (.pcieLinkUp w v) s = .next (s.after s.dev)) ∧
    (∀ bme msixen fmask, s.dev.on F.HUB_PCIE_STAT_DLUP = true → s.dev.on F.HUB_PCIE_STAT_FLR = false →
      Does (.configSpaceWrite bme msixen fmask) s fun t =>
        t.on F.HUB_PCIE_STAT_BME = bme ∧ t.on F.HUB_PCIE_STAT_MSIXEN = msixen ∧ t.on F.HUB_PCIE_STAT_FMASK = fmask))

/-- A Hub loss, or the expiry of the Hub's watchdog, is for good until a reset, and the reset sequencer then wants a warm reset, with
cause 7, or 6 in a boot attempt (R42, R46, R47, R650); `HUB_RST_CTL` asks for a warm
reset or for Fallow mode, is discarded while a reset waits or a Pavane runs (R656), and before BOOT_OK ends the attempt (R646). -/
def Obligations.HubLossAndRequests : Prop :=
  ∀ s : State, s.awake →
    (s.dev.hub.lost = false →
      Does .hubLoss s (fun t => t.hub.lost = true ∧ (s.dev.stopped = false → s.dev.hub.boot.want = none →
        t.hub.boot.want = some (if s.dev.attempting then 6 else 7, none))) ∧
      Does .hubWatchdogExpiry s fun t => t.hub.lost = true ∧ (s.dev.stopped = false → s.dev.hub.boot.want = none →
        t.hub.boot.want = some (if s.dev.attempting then 6 else 7, none))) ∧
    (s.dev.hub.lost = true → exec .hubLoss s = .next (s.after s.dev) ∧ exec .hubWatchdogExpiry s = .next (s.after s.dev)) ∧
    (s.dev.reaches .HUB_CTL 0 = true → s.dev.stopped = false → s.dev.hub.boot.want = none →
      Does .hubRstWarm s (fun t => t.hub.boot.want =
        some (if s.dev.attempting && s.dev.bootStage == 5 then 6 else 4, none)) ∧
      Does .hubRstFallow s fun t => t.hub.boot.want = some (5, some 4)) ∧
    ((s.dev.stopped = true ∨ s.dev.hub.boot.want.isSome = true ∨ s.dev.reaches .HUB_CTL 0 = false) →
      exec .hubRstWarm s = .next (s.after s.dev) ∧ exec .hubRstFallow s = .next (s.after s.dev))

/-- A boot attempt from the release of reset to BOOT_OK (R639, R643 to R647, R652): reset is released to stage ROM, or held in stage 0
until every Hub sensor that reads is below 85 °C; three failures in a row enter Fallow mode; the ROM's checks take the attempt to stage 4 or end it with the cause of
the first check that fails, logged, and a warm reset with cause BOOT_RETRY; loading takes it to stage 5; BOOT_OK makes the image the
default and raises BOOT_OK with the image and the boot count; the watchdog fails it. An image activated at run time is kept by BOOT_OK
and reverted by its time limit, with FW_ACTIVATED. -/
def Obligations.BootSequence : Prop :=
  ∀ s : State, s.awake →
    (s.dev.hub.boot.released = false → s.dev.hub.boot.pfail = false → (s.dev.hub.boot.ready = false ∨ s.dev.hub.boot.nrst = none) →
      Does .resetRelease s fun t => t.hub.boot.released = true ∧ t.rd F.HUB_BOOT_STAT_STAGE = (if s.dev.bootHolds then 0 else 1) ∧
        (∀ r, s.dev.hub.boot.reason = some r → t.on F.HUB_FALLOW_ACTIVE = true ∧ t.rd F.HUB_FALLOW_REASON = r % 8) ∧
        (s.dev.hub.boot.reason = none → 3 ≤ s.dev.hub.boot.fails → t.on F.HUB_FALLOW_ACTIVE = true ∧ t.rd F.HUB_FALLOW_REASON = 1) ∧
        (t.on F.HUB_FALLOW_ACTIVE = false → t.rd F.HUB_BOOT_STAT_IMAGE = (s.dev.hub.boot.next.getD (s.dev.rd F.HUB_BOOT_CFG_SEL)) % 4 ∧
          t.rd F.HUB_BOOT_CNT_CNT = (s.dev.rd F.HUB_BOOT_CNT_CNT + 1) % 2 ^ 32)) ∧
    (s.dev.hub.boot.hold = true → (∀ k : Fin 4, s.dev.on F.THERM_SENS_VALID 0 k = true ∨ s.dev.on F.THERM_SENS_FAULT 0 k = true) →
      (∀ t ∈ s.dev.hubTemps, t < 85 * 16) → exec .bootThermalHoldRelease s = .next (s.after
        ((s.dev.updHub fun h => { h with boot := { h.boot with hold := false } }).wr F.HUB_BOOT_STAT_STAGE 1))) ∧
    ((s.dev.hub.boot.hold = false ∨ ∃ t ∈ s.dev.hubTemps, 85 * 16 ≤ t) →
      exec .bootThermalHoldRelease s = .next (s.after s.dev)) ∧
    (s.dev.attempting = true → s.dev.hub.boot.hold = false → 1 ≤ s.dev.bootStage → s.dev.bootStage ≤ 3 → s.dev.stopped = false →
      (∀ lockstep flash, Does (.bootVerifyDone false lockstep flash) s fun t =>
        t.rd F.HUB_BOOT_LOG_CAUSE = 8 ∧ t.hub.boot.want = some (6, none)) ∧
      (s.dev.hub.boot.ls = true → ∀ flash, Does (.bootVerifyDone true false flash) s fun t =>
        t.rd F.HUB_BOOT_LOG_CAUSE = 8 ∧ t.hub.boot.want = some (6, none)) ∧
      (Does (.bootVerifyDone true true false) s fun t =>
        t.rd F.HUB_BOOT_LOG_CAUSE = 1 ∧ t.rd F.HUB_BOOT_LOG_STAGE = 3 ∧ t.hub.boot.want = some (6, none)) ∧
      (Does (.bootVerifyDone true true true) s fun t =>
        (∀ c, c < 16 → s.dev.imageCheck (s.dev.slotBytes (s.dev.rd F.HUB_BOOT_STAT_IMAGE)) = some c →
          t.rd F.HUB_BOOT_LOG_CAUSE = c ∧ t.rd F.HUB_BOOT_LOG_STAGE = 3 ∧ t.hub.boot.want = some (6, none)) ∧
        (s.dev.imageCheck (s.dev.slotBytes (s.dev.rd F.HUB_BOOT_STAT_IMAGE)) = none →
          t.rd F.HUB_BOOT_STAT_STAGE = 4 ∧ t.hub.boot.ls = false))) ∧
    (s.dev.attempting = true → s.dev.bootStage = 4 → exec .bootLoadDone s = .next (s.after (s.dev.wr F.HUB_BOOT_STAT_STAGE 5))) ∧
    ((s.dev.attempting = false ∨ s.dev.bootStage ≠ 4) → exec .bootLoadDone s = .next (s.after s.dev)) ∧
    (s.dev.reaches .HUB_CTL 0 = true → s.dev.hub.boot.kept = none → s.dev.attempting = true → s.dev.bootStage = 5 →
      Does .bootOkWrite s fun t => t.rd F.HUB_BOOT_STAT_STAGE = 6 ∧ t.hub.boot.good = true ∧ t.hub.boot.fails = 0 ∧
        t.rd F.HUB_BOOT_CFG_SEL = s.dev.rd F.HUB_BOOT_STAT_IMAGE % 2 ∧
        Raised t 588 (pack [(2, s.dev.rd F.HUB_BOOT_STAT_IMAGE), (16, s.dev.rd F.HUB_BOOT_CNT_CNT)])) ∧
    (∀ k, s.dev.reaches .HUB_CTL 0 = true → s.dev.hub.boot.kept = some k → Does .bootOkWrite s fun t =>
      t.on F.HUB_BOOT_STAT_ACTPEND = false ∧ t.hub.boot.kept = none ∧ t.rd F.HUB_BOOT_CFG_SEL = s.dev.rd F.HUB_BOOT_STAT_IMAGE % 2 ∧
        Raised t 591 (pack [(3, s.dev.rd F.HUB_BOOT_STAT_IMAGE + 1), (1, 0)])) ∧
    (s.dev.attempting = true → s.dev.hub.boot.hold = false → s.dev.stopped = false → Does .bootWatchdogExpiry s fun t =>
      t.rd F.HUB_BOOT_LOG_CAUSE = 9 ∧ t.hub.boot.want = some (6, none)) ∧
    (∀ k, s.dev.hub.lost = false → s.dev.hub.boot.kept = some k → Does .fwActivationTimeout s fun t =>
      t.on F.HUB_BOOT_STAT_ACTPEND = false ∧ t.hub.boot.kept = none ∧ t.rd F.HUB_BOOT_STAT_IMAGE = k.image % 4 ∧
        Raised t 591 (pack [(3, s.dev.rd F.HUB_BOOT_STAT_IMAGE + 1), (1, 1)]))

/-- NRST (R653 to R655): a fall starts a press, or is a wake source of a standby entry; 20 ms of it raises NRST_PRESSED; a rise after less
is nothing, before 8 s it asks for a warm reset with cause 1, later for Fallow mode with cause 2; 30 s mask the pin, cause 3; a masked pin
that is high again is armed. -/
def Obligations.ResetButton : Prop :=
  ∀ s : State,
    (s.dev.hub.boot.mask = false → s.dev.hub.boot.want = none → s.dev.hub.boot.nrst = none → s.dev.stopped = false →
      (s.dev.hub.boot.stby = none → exec .nrstFall s =
        .next (s.after (s.dev.updHub fun h => { h with boot := { h.boot with nrst := some false } }))) ∧
      (s.dev.hub.boot.stby.isSome = true → exec .nrstFall s =
        .next (s.after (s.dev.updHub fun h => { h with boot := { h.boot with edges := setBit h.boot.edges 5 } })))) ∧
    ((s.dev.hub.boot.mask = true ∨ s.dev.hub.boot.nrst.isSome = true ∨ s.dev.stopped = true) →
      exec .nrstFall s = .next (s.after s.dev)) ∧
    (s.dev.hub.boot.nrst = some false → Does .nrstPress s fun t => t.hub.boot.nrst = some true ∧
      (s.awake → s.dev.hub.lost = false → Raised t 589 0)) ∧
    (s.dev.hub.boot.nrst ≠ some false → exec .nrstPress s = .next (s.after s.dev)) ∧
    (∀ len, s.dev.hub.boot.nrst = none → exec (.nrstRelease len) s = .next (s.after s.dev)) ∧
    (∀ len, s.dev.hub.boot.nrst.isSome = true → Does (.nrstRelease len) s fun t => t.hub.boot.nrst = none ∧
      (2 ≤ len → s.dev.hub.boot.nrst = some false → s.awake → s.dev.hub.lost = false → Raised t 589 0) ∧
      (2 ≤ len → t.rd F.HUB_RST_CAUSE_PRESS = min 0xFFFF len) ∧
      (2 ≤ len → s.awake → s.dev.hub.boot.released = true → s.dev.hub.boot.want = none → s.dev.stopped = false →
        t.hub.boot.want = if 800 ≤ len then some (2, some 2) else some (1, none))) ∧
    (s.dev.hub.boot.nrst.isSome = true → Does .nrstStuckTimeout s fun t => t.hub.boot.mask = true ∧ t.hub.boot.nrst = none ∧
      t.on F.HUB_BOOT_STAT_NRSTMASK = true ∧
      (s.awake → s.dev.hub.boot.released = true → s.dev.hub.boot.want = none → s.dev.stopped = false →
        t.hub.boot.want = some (3, some 3))) ∧
    (s.dev.hub.boot.mask = true → Does .nrstRearm s fun t => t.hub.boot.mask = false ∧ t.on F.HUB_BOOT_STAT_NRSTMASK = false ∧
      (s.awake → s.dev.hub.lost = false → Raised t 590 0)) ∧
    (s.dev.hub.boot.mask = false → exec .nrstRearm s = .next (s.after s.dev))

/-- Standby and the supplies (R638, R659 to R662, R692): a request is refused with a take open or in an undefined mode, otherwise the
entry begins; once the takes are on the cartridges the device holds itself in reset with the wake mask latched, Keep becoming Vault
without a crystal; a wake edge of the mask raises AON_SUPEN and is shown; a supply loss holds the device; a power-on that waits goes on
when the supplies are good. -/
def Obligations.StandbyAndSupplies : Prop :=
  (∀ s : State, s.awake →
    (∀ mode : Fin 8, s.dev.reaches .HUB_CTL 0 = true → s.dev.on F.HUB_STBY_CTL_GO = true →
      exec (.standbyRequest mode) s = .next (s.after s.dev)) ∧
    (∀ mode : Fin 8, s.dev.reaches .HUB_CTL 0 = true → s.dev.on F.HUB_STBY_CTL_GO = false → s.dev.takeAnywhere = true →
      exec (.standbyRequest mode) s = .next (s.after ((s.dev.wr F.HUB_STBY_CTL_MODE mode).wr F.HUB_STBY_STAT_RESULT 1))) ∧
    (∀ mode : Fin 8, s.dev.reaches .HUB_CTL 0 = true → s.dev.on F.HUB_STBY_CTL_GO = false → s.dev.takeAnywhere = false →
      mode ≠ 1 → mode ≠ 2 →
      exec (.standbyRequest mode) s = .next (s.after ((s.dev.wr F.HUB_STBY_CTL_MODE mode).wr F.HUB_STBY_STAT_RESULT 2))) ∧
    (∀ mode : Fin 8, s.dev.reaches .HUB_CTL 0 = true → s.dev.on F.HUB_STBY_CTL_GO = false → s.dev.takeAnywhere = false →
      (mode = 1 ∨ mode = 2) → s.dev.stopped = false → s.dev.hub.boot.want = none →
      Does (.standbyRequest mode) s fun t => t.on F.HUB_STBY_CTL_GO = true ∧ t.on F.HUB_STBY_STAT_BUSY = true ∧
        t.rd F.HUB_STBY_STAT_RESULT = 0 ∧ t.rd F.HUB_STBY_CTL_MODE = mode ∧ t.hub.boot.stby = some mode.val) ∧
    (∀ mode xtal, s.dev.hub.boot.stby = some mode → (mode = 1 ∨ mode = 2) → (∀ p : Pipe, s.dev.takesShut p = true) →
      Does (.standbyEntryDone xtal) s fun t => t.hub.boot.held = some .standby ∧ t.hub.boot.supLow = true ∧
        t.hub.boot.mode = (if mode = 2 ∧ xtal = false then 1 else mode) ∧ t.rd F.HUB_WAKE_MODE = (if mode = 2 ∧ xtal = false then 1 else mode) ∧
        t.on F.HUB_WAKE_NOXTAL = (mode == 2 && !xtal) ∧ t.hub.boot.wakes = s.dev.wakeMask) ∧
    (Does .supplyLoss s fun t => t.hub.boot.held = some .supply ∧ t.hub.boot.released = false)) ∧
  (∀ s : State,
    (∀ (src : BitVec 6) secs, s.dev.hub.boot.held = some .standby → s.dev.hub.boot.stby = none → s.dev.hub.boot.supLow = true →
      Nat.land src.toNat s.dev.hub.boot.wakes ≠ 0 → s.dev.hub.boot.wakes ≠ 0 → Does (.aonWake src secs) s fun t =>
        t.hub.boot.supLow = false ∧ t.hub.boot.edges = 0 ∧
          t.rd F.HUB_WAKE_SRC =
            Nat.lor (s.dev.rd F.HUB_WAKE_SRC) (Nat.lor (Nat.land src.toNat s.dev.hub.boot.wakes) s.dev.hub.boot.edges) % 64) ∧
    (∀ (src : BitVec 6) secs, s.dev.hub.boot.stby = none → Nat.land src.toNat s.dev.hub.boot.wakes = 0 → s.dev.hub.boot.wakes ≠ 0 →
      exec (.aonWake src secs) s = .next (s.after s.dev)) ∧
    (s.dev.hub.boot.supLow = true → s.dev.hub.boot.edges ≠ 0 → Does .latchedWakeRelease s fun t =>
      t.hub.boot.supLow = false ∧ t.hub.boot.edges = 0 ∧
        t.rd F.HUB_WAKE_SRC = Nat.lor (s.dev.rd F.HUB_WAKE_SRC) s.dev.hub.boot.edges % 64) ∧
    ((s.dev.hub.boot.supLow = false ∨ s.dev.hub.boot.edges = 0) → exec .latchedWakeRelease s = .next (s.after s.dev)) ∧
    (s.dev.hub.boot.ready = true → exec .supPgRise s =
      .next (s.after (s.dev.updHub fun h => { h with boot := { h.boot with held := none } }))) ∧
    (s.dev.hub.boot.ready = false → exec .supPgRise s = .next (s.after s.dev)))

/-- The boot flash (R663): a command outside the storage area or not aligned ends at once with RESULT 1; one inside starts; where it ends
well the storage range holds the bytes of host memory, or erased bytes, everything outside the touched sectors as before; a program whose
host memory is gone ends with RESULT 3, and one that fails with RESULT 2. -/
def Obligations.BootFlash : Prop :=
  ∀ s : State, s.awake →
    (s.dev.reaches .HUB_CTL 0 = true → s.dev.on F.HUB_FLASH_CMD_GO = true →
      exec .flashProgram s = .next (s.after s.dev) ∧ exec .flashErase s = .next (s.after s.dev)) ∧
    (s.dev.reaches .HUB_CTL 0 = true → s.dev.on F.HUB_FLASH_CMD_GO = false → 0x02000000 ≤ s.dev.rd F.HUB_FLASH_OFF_LEN →
      s.dev.rd F.HUB_FLASH_OFF_LEN + s.dev.rd F.HUB_FLASH_LEN_LEN ≤ 2 ^ 32 → s.dev.rd F.HUB_FLASH_OFF_LEN % 4 = 0 →
      s.dev.rd F.HUB_FLASH_LEN_LEN % 4 = 0 →
      Does .flashProgram s (fun t => t.rd F.HUB_FLASH_CMD_OP = 1 ∧ t.on F.HUB_FLASH_CMD_GO = true ∧
        t.on F.HUB_FLASH_CMD_BUSY = true ∧ t.rd F.HUB_FLASH_CMD_RESULT = 0 ∧ t.rd F.HUB_FLASH_CMD_PROGRESS = 0) ∧
      Does .flashErase s fun t => t.rd F.HUB_FLASH_CMD_OP = 2 ∧ t.on F.HUB_FLASH_CMD_GO = true ∧
        t.on F.HUB_FLASH_CMD_BUSY = true ∧ t.rd F.HUB_FLASH_CMD_RESULT = 0 ∧ t.rd F.HUB_FLASH_CMD_PROGRESS = 0) ∧
    (s.dev.reaches .HUB_CTL 0 = true → s.dev.on F.HUB_FLASH_CMD_GO = false →
      (s.dev.rd F.HUB_FLASH_OFF_LEN < 0x02000000 ∨ 2 ^ 32 < s.dev.rd F.HUB_FLASH_OFF_LEN + s.dev.rd F.HUB_FLASH_LEN_LEN ∨
        s.dev.rd F.HUB_FLASH_OFF_LEN % 4 ≠ 0 ∨ s.dev.rd F.HUB_FLASH_LEN_LEN % 4 ≠ 0) →
      Does .flashProgram s (fun t => t.rd F.HUB_FLASH_CMD_OP = 1 ∧ t.on F.HUB_FLASH_CMD_GO = false ∧
        t.on F.HUB_FLASH_CMD_BUSY = false ∧ t.rd F.HUB_FLASH_CMD_RESULT = 1) ∧
      Does .flashErase s fun t => t.rd F.HUB_FLASH_CMD_OP = 2 ∧ t.on F.HUB_FLASH_CMD_GO = false ∧
        t.on F.HUB_FLASH_CMD_BUSY = false ∧ t.rd F.HUB_FLASH_CMD_RESULT = 1) ∧
    (s.dev.hub.lost = false → s.dev.on F.HUB_FLASH_CMD_BUSY = true →
      (s.dev.rd F.HUB_FLASH_CMD_OP = 1 → s.dev.hostOk = false → ∀ bad, Does (.flashCmdDone bad) s fun t =>
        t.on F.HUB_FLASH_CMD_GO = false ∧ t.on F.HUB_FLASH_CMD_BUSY = false ∧ t.rd F.HUB_FLASH_CMD_RESULT = 3 ∧ t.hub.flash = s.dev.hub.flash) ∧
      (s.dev.rd F.HUB_FLASH_CMD_OP = 1 → s.dev.hostOk = true → Does (.flashCmdDone false) s fun t =>
        t.on F.HUB_FLASH_CMD_GO = false ∧ t.on F.HUB_FLASH_CMD_BUSY = false ∧ t.rd F.HUB_FLASH_CMD_RESULT = 0 ∧
          t.flashReads (s.dev.rd F.HUB_FLASH_OFF_LEN) (s.dev.rd F.HUB_FLASH_LEN_LEN) =
            s.dev.hostMem.reads (s.dev.rd64 F.HUB_FLASH_SRC_LO_ADDR_LO F.HUB_FLASH_SRC_HI_ADDR_HI) (s.dev.rd F.HUB_FLASH_LEN_LEN)) ∧
      (s.dev.rd F.HUB_FLASH_CMD_OP ≠ 1 → Does (.flashCmdDone false) s fun t =>
        t.rd F.HUB_FLASH_CMD_RESULT = 0 ∧
          t.flashReads (s.dev.rd F.HUB_FLASH_OFF_LEN) (s.dev.rd F.HUB_FLASH_LEN_LEN) =
            List.replicate (s.dev.rd F.HUB_FLASH_LEN_LEN) 0xFF#8) ∧
      ((s.dev.rd F.HUB_FLASH_CMD_OP ≠ 1 ∨ s.dev.hostOk = true) → Does (.flashCmdDone true) s fun t => t.rd F.HUB_FLASH_CMD_RESULT = 2) ∧
      (∀ bad, Does (.flashCmdDone bad) s fun t => ∀ x,
        (x < s.dev.rd F.HUB_FLASH_OFF_LEN / 65536 * 65536 ∨
          (s.dev.rd F.HUB_FLASH_OFF_LEN + s.dev.rd F.HUB_FLASH_LEN_LEN + 65535) / 65536 * 65536 ≤ x) →
          t.hub.flash.read x = s.dev.hub.flash.read x)) ∧
    ((s.dev.hub.lost = true ∨ s.dev.on F.HUB_FLASH_CMD_BUSY = false) → ∀ bad, exec (.flashCmdDone bad) s = .next (s.after s.dev))

/-- Temperatures and Pavane (R631, R633, R635, R636, R638): a reading outside −55 °C to 150 °C, or a failed self-check, makes the sensor
faulty and raises its event; any other reading is shown, valid; a request, or PFAIL_N low, starts Pavane with its kind and raises PAVANE,
one that runs goes on; 220 ms later nothing uncommitted is left; with the takes on the cartridges the record is written, PAVOFF_N is low
and the device holds itself in reset. -/
def Obligations.Thermal : Prop :=
  (∀ s : State, s.awake →
    (∀ (u : Unit5) (k : Fin 6) (t : Int), k.val < sensorCount u → s.dev.sensorLive u k = true → (t < -880 ∨ 2400 < t) →
      Does (.thermConversion u k t) s fun e => e.on (sensFlds u).2.1 (u % 4) k = true ∧ e.on (sensFlds u).1 (u % 4) k = false ∧
        (s.dev.hub.lost = false → if u.val < 4 then Raised e (pipeEvent u 78) k else Raised e 587 k)) ∧
    (∀ (u : Unit5) (k : Fin 6), k.val < sensorCount u → s.dev.sensorLive u k = true →
      Does (.thermSelfCheck u k false) s fun e => e.on (sensFlds u).2.1 (u % 4) k = true ∧ e.on (sensFlds u).1 (u % 4) k = false ∧
        (s.dev.hub.lost = false → if u.val < 4 then Raised e (pipeEvent u 78) k else Raised e 587 k)) ∧
    (∀ (u : Unit5) (k : Fin 6) ok, k.val < sensorCount u → (ok = true ∨ s.dev.sensorLive u k = false) →
      exec (.thermSelfCheck u k ok) s = .next (s.after s.dev)) ∧
    (∀ (u : Unit5) (k : Fin 6) (t : Int), k.val < sensorCount u → s.dev.sensorLive u k = false →
      exec (.thermConversion u k t) s = .next (s.after s.dev)) ∧
    (∀ (u : Unit5) (k : Fin 6) (t : Int), k.val < sensorCount u → s.dev.sensorLive u k = true → -880 ≤ t → t ≤ 2400 →
      t < 16 * (s.dev.thresholds u).2.2.1 → s.dev.on F.BIST_STAT_BUSY = false →
      Does (.thermConversion u k t) s fun e => e.on (sensFlds u).1 (u % 4) k = true ∧ e.rd (sensFlds u).2.2 (u % 4) k = code 16 t) ∧
    (s.dev.reaches .THERM 0 = true → s.dev.stopped = false → Does .thermPavaneRequest s fun t =>
      t.hub.therm.kind = some 3 ∧ Raised t 586 (3 * 2 ^ 28)) ∧
    (s.dev.reaches .THERM 0 = true → s.dev.stopped = true → exec .thermPavaneRequest s = .next (s.after s.dev)) ∧
    (s.dev.stopped = true → Does .pavaneCommitDeadline s fun t => ∀ p : Pipe, (t.cel p).pieces = []) ∧
    (s.dev.stopped = false → exec .pavaneCommitDeadline s = .next (s.after s.dev)) ∧
    (∀ kind, s.dev.hub.therm.kind = some kind → kind < 8 → (∀ p : Pipe, s.dev.takesShut p = true) →
      Does .pavanePowerOff s fun t => t.hub.boot.held = some .pavoff ∧ t.hub.boot.pavoff = true ∧ t.hub.boot.supLow = true ∧
        t.on F.THERM_LAST_VALID = true ∧ t.rd F.THERM_LAST_KIND = kind ∧
        t.rd F.THERM_LAST_INCOMPLETE = (if s.dev.hub.lost then 0 else s.dev.hub.therm.late % 16))) ∧
  (∀ (s : State) low, Does (.pfailLow low) s fun t => t.hub.boot.pfail = low ∧
    (low = true → s.awake → s.dev.stopped = false → t.hub.therm.kind = some 2) ∧
    (low = false → t = settle ((s.dev.updHub fun h => { h with boot := { h.boot with pfail := false } }).wrb F.THERM_STAT_PFAIL false)))

/-- A cask (R95 to R114): a bound producer's word goes to the end with one credit used, and any other write never reaches it, and none but the PXR
encoder's reaches a take cask; a bound consumer, unless it is the port of a failed tile that no slot uses, reads a
waiting marker first and otherwise the oldest word, which starts its credit back; a returned credit is counted; the tail
timer marks the newest word of an open cask; a flush discards every word, leaves one marker and gives the depth in credits, but not in a
take cask under an open take; a configuration that waited for the seam is taken when the cask is empty, without a marker. -/
def Obligations.CaskWords : Prop :=
  ∀ (s : State) (u : Unit5) (k : Fin 128), s.awake → k.val < caskCount u →
    (∀ ep w, s.dev.caskProd u k ep = true → s.dev.caskReady u k = true → s.dev.on F.CASK_STAT_DISCARD u k = false →
      Does (.caskWrite u k ep w) s fun t =>
        t.cask u k = { s.dev.cask u k with
          words := (s.dev.cask u k).words ++ [{ w with data := w.data % 2 ^ 64, tail := false }] } ∧
        t.rd F.CASK_STAT_CREDITS u k = (s.dev.rd F.CASK_STAT_CREDITS u k - 1) % 2 ^ 13 ∧
        t.on F.CASK_STAT_OPEN u k = !w.fin) ∧
    (∀ ep w, s.dev.caskProd u k ep = true → s.dev.caskReady u k = true → s.dev.on F.CASK_STAT_DISCARD u k = true →
      Does (.caskWrite u k ep w) s fun t =>
        t.cask u k = { s.dev.cask u k with transit := (s.dev.cask u k).transit + 1 } ∧ t.on F.CASK_STAT_DISCARD u k = !w.fin) ∧
    (∀ ep w, (s.dev.caskProd u k ep = false ∨ s.dev.caskReady u k = false) →
      exec (.caskWrite u k ep w) s = .next (s.after s.dev)) ∧
    (∀ ep flaw, s.dev.caskCons u k ep = true → s.dev.tileHeld u ep = false → s.dev.on F.CASK_CFG_EN u k = true →
      exec (.caskRead u k ep flaw) s = .next (s.after
        ((s.dev.caskGet u k flaw).2.caskConsume u k ep (s.dev.caskGet u k flaw).1))) ∧
    (∀ ep flaw, u = 4 → s.dev.caskCons u k ep = true → s.dev.on F.CASK_CFG_EN u k = true → (s.dev.cask u k).marker = true →
      Does (.caskRead u k ep flaw) s fun t => t.cask u k = { s.dev.cask u k with marker := false, out := none }) ∧
    (∀ ep w rest, u = 4 → s.dev.caskCons u k ep = true → s.dev.on F.CASK_CFG_EN u k = true → (s.dev.cask u k).marker = false →
      (s.dev.cask u k).words = w :: rest →
      (Does (.caskRead u k ep .ok) s fun t =>
        (t.cask u k).words = rest ∧ (t.cask u k).transit = (s.dev.cask u k).transit + 1 ∧ (t.cask u k).out = some w) ∧
      (w.psn = false → Does (.caskRead u k ep .multiple) s fun t =>
        (t.cask u k).words = rest ∧ (t.cask u k).out = some { w with fin := true, psn := true } ∧ t.on F.CASK_ECC_PSN u k = true ∧
        t.rd F.CASK_PSN_LAST_CASK u = k ∧
        (s.dev.hub.lost = false → Raised t 516 (2 ^ 31 + k * 2 ^ 16 + (s.dev.cask u k).rpos % 2 ^ 12)))) ∧
    (∀ ep flaw, (s.dev.caskCons u k ep = false ∨ s.dev.tileHeld u ep = true ∨ s.dev.on F.CASK_CFG_EN u k = false) →
      exec (.caskRead u k ep flaw) s = .next (s.after s.dev)) ∧
    (0 < (s.dev.cask u k).transit → (s.dev.cask u k).wait = [] → s.dev.rd F.CASK_BIND_PROD u k / 2 ^ 12 ≠ 1 →
      Does (.caskCreditReturn u k) s fun t => (t.cask u k).transit = (s.dev.cask u k).transit - 1 ∧
        t.rd F.CASK_STAT_CREDITS u k = (s.dev.rd F.CASK_STAT_CREDITS u k + 1) % 2 ^ 13 ∧
        (t.cask u k).words = (s.dev.cask u k).words) ∧
    (u.val < 4 → s.dev.rd F.CASK_BIND_PROD u k / 2 ^ 12 = 1 →
      exec (.caskCreditReturn u k) s = .next (s.after ((s.dev.caskCredit u k).flow u))) ∧
    ((s.dev.cask u k).isOpen = true → s.dev.caskTimerOn u k = true → Does (.caskTailTimeout u k) s fun t =>
      (t.cask u k).words = tailLast (s.dev.cask u k).words ∧ t.on F.CASK_STAT_OPEN u k = false ∧
      (s.dev.on F.CASK_TTO_TEVT u k = true → s.dev.hub.lost = false →
        Raised t (if u.val = 4 then 517 else pipeEvent u 6) 0)) ∧
    (((s.dev.cask u k).isOpen = false ∨ s.dev.caskTimerOn u k = false) → exec (.caskTailTimeout u k) s = .next (s.after s.dev)) ∧
    (s.dev.reaches .CASK u = true → (isTakeCask u k = false ∨ s.dev.on F.PCTL_STAT_TAKE u = false) → s.dev.on F.CASK_CFG_EN u k = true →
      Does (.caskFlush u k) s fun t => (t.cask u k).marker = true ∧
        ((s.dev.cask u k).wait = [] → (t.cask u k).words = [] ∧ (t.cask u k).transit = 0 ∧
          t.rd F.CASK_STAT_CREDITS u k = s.dev.caskDepth u k % 2 ^ 13 ∧ t.rd F.CASK_STAT_LEVEL u k = 0 ∧
          t.on F.CASK_STAT_DISCARD u k = ((s.dev.cask u k).isOpen || s.dev.on F.CASK_STAT_DISCARD u k))) ∧
    (s.dev.reaches .CASK u = true → (isTakeCask u k = true ∧ s.dev.on F.PCTL_STAT_TAKE u = true ∨ s.dev.on F.CASK_CFG_EN u k = false) →
      exec (.caskFlush u k) s = .next (s.after s.dev)) ∧
    (∀ n, (s.dev.cask u k).next = some n → (s.dev.cask u k).words = [] → Does (.caskSwitch u k) s fun t =>
      (t.cask u k).next = none ∧ t.on F.CASK_CFG_EN u k = bit n.cfg 31 ∧ t.rd F.CASK_CFG_DEPTH u k = slice n.cfg 8 0 ∧
        t.rd F.CASK_BIND_PROD u k = slice n.bind 15 0 ∧ t.rd F.CASK_BIND_CONS u k = slice n.bind 31 16 ∧
        ((s.dev.cask u k).wait = [] → (t.cask u k).words = [] ∧ (t.cask u k).marker = false ∧
          t.rd F.CASK_STAT_CREDITS u k = (if bit n.cfg 31 then 16 * slice n.cfg 8 0 else 0))) ∧
    (((s.dev.cask u k).next = none ∨ (s.dev.cask u k).words ≠ []) → exec (.caskSwitch u k) s = .next (s.after s.dev))

/-- The credits of a cask add up (R98): for a cask whose credits, words and credits on their way back make a number below 2 to the 13th, a write by the
producer, a read by a Hub consumer and a credit's return leave that number as it was. -/
def Obligations.CaskCredits : Prop :=
  ∀ (s : State) (u : Unit5) (k : Fin 128) (n : Nat), s.awake → k.val < caskCount u → n < 2 ^ 13 →
    s.dev.rd F.CASK_STAT_CREDITS u k + (s.dev.cask u k).words.length + (s.dev.cask u k).transit = n →
    (∀ ep w, Does (.caskWrite u k ep w) s fun t =>
      t.rd F.CASK_STAT_CREDITS u k + (t.cask u k).words.length + (t.cask u k).transit = n) ∧
    (∀ ep flaw, u = 4 → Does (.caskRead u k ep flaw) s fun t =>
      t.rd F.CASK_STAT_CREDITS u k + (t.cask u k).words.length + (t.cask u k).transit = n) ∧
    (s.dev.rd F.CASK_BIND_PROD u k / 2 ^ 12 ≠ 1 → Does (.caskCreditReturn u k) s fun t =>
      t.rd F.CASK_STAT_CREDITS u k + (t.cask u k).words.length + (t.cask u k).transit = n)

/-- A racking channel (R121 to R131): TAIL takes an index inside the ring; a channel with work fetches its next descriptor, from host
memory by a read that waits, and halts with RING_ERROR where the host cannot be reached; a granted burst runs for the channel of highest
rank, those of one rank in turn; the oldest ended descriptor is written back, word 7 and then word 6 with its status, and HEAD passes it; ABORT ends the running
descriptor as ABORTED or halts an idle channel; RESUME starts a halted channel after HIDX, keeping what it owes the ring; clearing EN turns the channel off. A completion
of a descriptor's read that failed halts the channel. -/
def Obligations.Racking : Prop :=
  ∀ s : State, s.awake → (∀ (u : Unit5) (c : Fin 16), c.val < rackChannels u →
    (∀ tail : BitVec 16, s.dev.reaches .RACK u = true →
      (tail.toNat < s.dev.rackSlots u c →
        exec (.rackTailWrite u c tail) s = .next (s.after (s.dev.wr F.RACK_TAIL_TAIL tail.toNat u c))) ∧
      (s.dev.rackSlots u c ≤ tail.toNat → exec (.rackTailWrite u c tail) s = .next (s.after s.dev))) ∧
    (s.dev.on F.RACK_CH_CFG_EN u c = true → (s.dev.rackState u c = 1 ∨ s.dev.rackState u c = 2) → (s.dev.rch u c).fetching = false →
      (s.dev.rch u c).job = none → (s.dev.rch u c).abort = false → (s.dev.rch u c).next ≠ s.dev.rd F.RACK_TAIL_TAIL u c →
      (s.dev.rch u c).done = [] → s.dev.rackHostRing u c = true →
      (s.dev.rackHostOk u = true → Does (.rackDescStart u c) s fun t =>
        (t.rch u c).fetching = true ∧ t.hub.hreq = s.dev.hub.hreq ++ [.rackDesc u c]) ∧
      (s.dev.rackHostOk u = false → Does (.rackDescStart u c) s fun t =>
        t.rackState u c = 3 ∧ t.rd F.RACK_CH_STAT_LSTATUS u c = 0x16 ∧ t.rd F.RACK_CH_STAT_HIDX u c = (s.dev.rch u c).next % 2 ^ 16 ∧
          (s.dev.hub.lost = false → Raised t (if u.val = 4 then 518 else pipeEvent u 7) (pack [(4, c.val), (8, 0x16)])))) ∧
    (s.dev.on F.RACK_CH_CFG_EN u c = true → (s.dev.rackState u c = 1 ∨ s.dev.rackState u c = 2) → (s.dev.rch u c).fetching = false →
      (s.dev.rch u c).job = none → (s.dev.rch u c).abort = false → (s.dev.rch u c).next ≠ s.dev.rd F.RACK_TAIL_TAIL u c →
      (s.dev.rch u c).done = [] → s.dev.rackHostRing u c = false →
      exec (.rackDescStart u c) s = .next (s.after
        (match s.dev.dramRead u (rackSrc u c) (s.dev.rackSlotAt u c (s.dev.rch u c).next % 2 ^ 40) 24 with
        | (bs, psn, d) => if psn then d.rackHalt u c 0x16 (s.dev.rch u c).next else d.rackBegin u c (words32 bs)))) ∧
    ((s.dev.rch u c).done = [] → exec (.rackDescWriteback u c) s = .next (s.after s.dev)) ∧
    (∀ j st rest, (s.dev.rch u c).done = (j, st) :: rest → Does (.rackDescWriteback u c) s fun t =>
      (t.rch u c).done = rest ∧ t.rd F.RACK_HEAD_HEAD u c = s.dev.rackNext u c j.slot % 2 ^ 16 ∧
        (haltsStatus j st = true → s.dev.rackState u c ≠ 3 → t.rackState u c = 3 ∧ t.rd F.RACK_CH_STAT_LSTATUS u c = st % 2 ^ 8) ∧
        (j.irq = true → (s.dev.rackHostRing u c = true → s.dev.rackHostOk u = true) → s.dev.hub.lost = false →
          Raised t (if u.val = 4 then 519 + c else pipeEvent u (8 + c)) j.tag) ∧
        (s.dev.rackHostRing u c = true → s.dev.rackHostOk u = true → t.hostMem =
          (s.dev.hostMem.writes (s.dev.rackSlotAt u c j.slot + 28) (leBytes 4 j.moved)).writes (s.dev.rackSlotAt u c j.slot + 24)
            (leBytes 4 (2 ^ 31 + st * 2 ^ 16 + j.tag)))) ∧
    (s.dev.reaches .RACK u = true →
      ((s.dev.rackState u c ≠ 1 ∧ s.dev.rackState u c ≠ 2) → exec (.rackAbort u c) s = .next (s.after s.dev)) ∧
      (∀ j, (s.dev.rackState u c = 1 ∨ s.dev.rackState u c = 2) → (s.dev.rch u c).job = some j → Does (.rackAbort u c) s fun t =>
        t.rackState u c = 4 ∧ (t.rch u c).job = none ∧ ((j.moved % 256 = 0 ∨ j.src ≠ 0) →
          (t.rch u c).done = (s.dev.rch u c).done ++ [({ j with hold := none }, 0x15)])) ∧
      ((s.dev.rackState u c = 1 ∨ s.dev.rackState u c = 2) → (s.dev.rch u c).job = none → (s.dev.rch u c).done = [] →
        Does (.rackAbort u c) s fun t => t.rackState u c = 3 ∧ t.rd F.RACK_CH_STAT_LSTATUS u c = 0x15 ∧ (t.rch u c).fetching = false ∧
          (s.dev.hub.lost = false → Raised t (if u.val = 4 then 518 else pipeEvent u 7) (pack [(4, c.val), (8, 0x15)]))) ∧
      (s.dev.rackState u c = 3 → Does (.rackResume u c) s fun t =>
        t.rackState u c = 1 ∧ (t.rch u c).next = s.dev.rackNext u c (s.dev.rd F.RACK_CH_STAT_HIDX u c) ∧ (t.rch u c).job = none) ∧
      (s.dev.rackState u c ≠ 3 → exec (.rackResume u c) s = .next (s.after s.dev)) ∧
      (s.dev.on F.RACK_CH_CFG_EN u c = true → Does (.rackChDisable u c) s fun t =>
        t.on F.RACK_CH_CFG_EN u c = false ∧ t.rackState u c = 0 ∧ t.rch u c = {}) ∧
      (s.dev.on F.RACK_CH_CFG_EN u c = false → exec (.rackChDisable u c) s = .next (s.after s.dev)))) ∧
  (∀ (u : Unit5) flaws refused c, s.dev.rackPick u = some c → exec (.rackBurstGrant u ⟨flaws, refused⟩) s = .next (s.after
    ((s.dev.updRack u fun r => { r with last := Tab.set 0 r.last (s.dev.rackRank u c) (c + 1) }).rackBurst u c flaws refused))) ∧
  (∀ (u : Unit5) flaws refused, s.dev.rackPick u = none → exec (.rackBurstGrant u ⟨flaws, refused⟩) s = .next (s.after s.dev)) ∧
  (∀ i good psn, s.dev.hub.hreq[i]? = none → exec (.pcieCompletion i good psn) s = .next (s.after s.dev)) ∧
  (∀ i u c, u ≤ 4 → s.dev.hub.hreq[i]? = some (.rackDesc u c) → (s.dev.rch u c).fetching = true → Does (.pcieCompletion i false false) s fun t =>
    t.hub.hreq = s.dev.hub.hreq.eraseIdx i ∧ t.rackState u c = 3 ∧ t.rd F.RACK_CH_STAT_LSTATUS u c = 0x16) ∧
  (∀ i q cid good psn, s.dev.hub.hreq[i]? = some (.nvme q cid) → exec (.pcieCompletion i good psn) s = .next (s.after
    ((s.dev.updHub fun h => { h with hreq := h.hreq.eraseIdx i }).nvData q cid (good && !psn)))) ∧
  (∀ i u c good psn, s.dev.hub.hreq[i]? = some (.rackData u c) → exec (.pcieCompletion i good psn) s = .next (s.after
    ((s.dev.updHub fun h => { h with hreq := h.hreq.eraseIdx i }).rackHostData u c good psn))) ∧
  (∀ i u c good psn, s.dev.hub.hreq[i]? = some (.press u c) → exec (.pcieCompletion i good psn) s = .next (s.after
    ((s.dev.updHub fun h => { h with hreq := h.hreq.eraseIdx i }).pressDescData u c (good && !psn))))

/-- The Trellis' elements, monitors and marks: a micro-op whose inputs are there and whose outputs are free starts, unless a Pavane has
stopped work or its word is beyond correction; at its completion in a running region the element stands at the next entry, its result in the G register that DST names
(R137, R140 to R143); a read of memory through `TRL_LM_ADDR` shows the word and its flags, an uncorrectable one with its event (R161); a
monitor's window shows the fractions; failed marks are added and removed (R172, R173). -/
def Obligations.TrellisElements : Prop :=
  ∀ (s : State) (p : Pipe), s.awake →
    (∀ (e : Fin 1088) flaw, s.dev.stopped = false → s.dev.uopReady p e = true → flaw ≠ .multiple →
      Does (.microopStart p e flaw) s fun t => (t.elem p e).busy = true ∧
        (flaw = .ok → t = settle (s.dev.putElem p e { s.dev.elem p e with busy := true }))) ∧
    (∀ (e : Fin 1088) flaw, (s.dev.stopped = true ∨ s.dev.uopReady p e = false ∨ flaw = .multiple) →
      exec (.microopStart p e flaw) s = .next (s.after s.dev)) ∧
    (∀ (e : Fin 1088) flaw, s.dev.stopped = false → (Tab.get {} (s.dev.trl p).els e).busy = true → s.dev.elemRuns p e = true →
      Does (.microopComplete p e flaw) s fun t => (t.elem p e).busy = false ∧ (t.elem p e).begun = true ∧
        (t.elem p e).pc = (if (s.dev.uop p e).last || (s.dev.elem p e).pc == 31 then slice (cfgWord64 (s.dev.trl p).act (oElem e)) 56 52
          else (s.dev.elem p e).pc + 1) ∧
        ((s.dev.uop p e).dwr = true → (s.dev.uop p e).opc ≠ 0 → (s.dev.uop p e).opc ≠ 0x20 →
          bit (cfgWord64 (s.dev.trl p).act (oElem e)) 62 = false →
          Tab.get 0 (t.elem p e).g (s.dev.uop p e).dst =
            laneSelect (s.dev.uop p e) (s.dev.operand p e (s.dev.uop p e).fmt (s.dev.uop p e).a)
              (aluResult (s.dev.uop p e) (s.dev.operand p e (s.dev.uop p e).fmt (s.dev.uop p e).a)
                (s.dev.operand p e (s.dev.uop p e).fmt (s.dev.uop p e).b) (s.dev.operand p e (s.dev.uop p e).fmt (s.dev.uop p e).c)))) ∧
    (∀ (e : Fin 1088) flaw, (s.dev.stopped = true ∨ (Tab.get {} (s.dev.trl p).els e).busy = false ∨ s.dev.elemRuns p e = false) →
      exec (.microopComplete p e flaw) s = .next (s.after s.dev)) ∧
    (∀ w : Word, s.dev.reaches .TRL p = true → Does (.trlLmRead p w) s fun t =>
      t.on F.TRL_LM_STAT_VALID p = false ∧ (t.trl p).lmReq = lmAddrOk (bit w.toNat 31) (slice w.toNat 30 24) (slice w.toNat 19 0) ∧
        t.on F.TRL_LM_ADDR_STORE p = bit w.toNat 31 ∧ t.rd F.TRL_LM_ADDR_UNIT p = slice w.toNat 30 24 ∧
        t.rd F.TRL_LM_ADDR_WORD p = slice w.toNat 19 0) ∧
    (∀ flaw, (s.dev.trl p).lmReq = true → s.dev.on F.TRL_LM_ADDR_STORE p = false → Does (.trlLmReadDone p flaw) s fun t =>
      t.on F.TRL_LM_STAT_VALID p = true ∧ (t.trl p).lmReq = false ∧
        t.rd F.TRL_LM_DATA_DATA p =
          Tab.get 0 (s.dev.trl p).lm (16384 * s.dev.rd F.TRL_LM_ADDR_UNIT p + s.dev.rd F.TRL_LM_ADDR_WORD p) % 2 ^ 32 ∧
        t.on F.TRL_LM_STAT_UNC p = (flaw == .multiple) ∧ t.on F.TRL_LM_STAT_CORR p = (flaw == .single) ∧
        (flaw = .multiple → s.dev.hub.lost = false →
          Raised t (pipeEvent p 27) (pack [(7, s.dev.rd F.TRL_LM_ADDR_UNIT p), (20, s.dev.rd F.TRL_LM_ADDR_WORD p)]))) ∧
    (∀ flaw, (s.dev.trl p).lmReq = true → s.dev.on F.TRL_LM_ADDR_STORE p = true → Does (.trlLmReadDone p flaw) s fun t =>
      t.on F.TRL_LM_STAT_VALID p = true ∧ t.rd F.TRL_LM_DATA_DATA p =
        Tab.get 0 (s.dev.trl p).ls (2 ^ 20 * s.dev.rd F.TRL_LM_ADDR_UNIT p + s.dev.rd F.TRL_LM_ADDR_WORD p) % 2 ^ 32) ∧
    (∀ flaw, (s.dev.trl p).lmReq = false → exec (.trlLmReadDone p flaw) s = .next (s.after s.dev)) ∧
    (∀ busy starve block, busy + starve + block ≤ 256 → s.dev.monOn p = true → Does (.trlMonWindowEnd p busy starve block) s fun t =>
      t.on F.TRL_MON_RES_VALID p = true ∧ t.rd F.TRL_MON_RES_BUSY p = min 255 busy ∧ t.rd F.TRL_MON_RES_STARVE p = min 255 starve ∧
        t.rd F.TRL_MON_RES_BLOCK p = min 255 block) ∧
    (∀ busy starve block, busy + starve + block ≤ 256 → s.dev.monOn p = false →
      exec (.trlMonWindowEnd p busy starve block) s = .next (s.after s.dev)) ∧
    (∀ (c : Fin 4) (w : Word), s.dev.reaches .TRL p = true →
      (Does (.rprFailMark p c w) s fun t =>
        t.rd F.TRL_RPR_FAIL_FAIL p c = Nat.lor (s.dev.rd F.TRL_RPR_FAIL_FAIL p c) (w.toNat % 2 ^ 17) % 2 ^ 17) ∧
      (Does (.rprClr p c w) s fun t =>
        t.rd F.TRL_RPR_FAIL_FAIL p c =
          (s.dev.rd F.TRL_RPR_FAIL_FAIL p c - Nat.land (s.dev.rd F.TRL_RPR_FAIL_FAIL p c) (w.toNat % 2 ^ 17)) % 2 ^ 17))

/-- A region's life (R167 to R170): a staged region whose inputs have passed their EOF drains, a quiescent one, or a staged one
without inputs, switches, runs and raises TRL_SWITCHED; a time without output restarts it with cause 3 and TRL_TIMEOUT; a restart whose inputs have passed an EOF runs again and
counts where it has a cause; an uncorrectable error puts the region of its unit, tile, crossbar or cluster window, into FAULT and raises TRL_TILE_FAULT. -/
def Obligations.Regions : Prop :=
  ∀ (s : State) (p : Pipe) (r : Fin 16), s.awake →
    (s.dev.regState p r = 2 → s.dev.regionInputs p r ≠ [] → s.dev.inputsPassed p r = true →
      Does (.regionDrain p r) s fun t => t = s.dev.setRegState p r 3 ∧ t.regState p r = 3) ∧
    ((s.dev.regState p r ≠ 2 ∨ s.dev.regionInputs p r = [] ∨ s.dev.inputsPassed p r = false) →
      exec (.regionDrain p r) s = .next (s.after s.dev)) ∧
    ((s.dev.regState p r = 3 ∧ s.dev.regionQuiet p r = true ∨ s.dev.regState p r = 2 ∧ s.dev.regionInputs p r = []) →
      s.dev.regionStaged p r = true → Does (.regionSwitch p r) s fun t =>
        t.regState p r = (if (Tab.get {} (s.dev.trl p).sinfo r).removes then 0 else 1) ∧ (p.val, r.val) ∉ t.hub.cuvl.regs ∧
          (s.dev.hub.lost = false → Raised t (pipeEvent p 26) r)) ∧
    ((s.dev.regState p r ≠ 3 ∧ s.dev.regState p r ≠ 2 ∨ s.dev.regionStaged p r = false ∨
        s.dev.regState p r = 3 ∧ s.dev.regionQuiet p r = false ∨ s.dev.regState p r = 2 ∧ s.dev.regionInputs p r ≠ []) →
      exec (.regionSwitch p r) s = .next (s.after s.dev)) ∧
    ((s.dev.regState p r = 1 ∨ s.dev.regState p r = 2 ∨ s.dev.regState p r = 3) → s.dev.rd F.TRL_REG_CFG_TIMEOUT p r ≠ 0 →
      Does (.regionTimeout p r) s fun t =>
        t.regState p r = (if s.dev.regionStaged p r && (Tab.get {} (s.dev.trl p).sinfo r).removes then 0 else 5) ∧
          t.rd F.TRL_REG_STAT_CAUSE p r = 3 ∧ (s.dev.hub.lost = false → Raised t (pipeEvent p 25) r)) ∧
    ((s.dev.regState p r = 0 ∨ 4 ≤ s.dev.regState p r ∨ s.dev.rd F.TRL_REG_CFG_TIMEOUT p r = 0) →
      exec (.regionTimeout p r) s = .next (s.after s.dev)) ∧
    (s.dev.regState p r = 5 → s.dev.inputsPassed p r = true → s.dev.cnt C.TRL_RST_CNT p < 2 ^ 48 →
      Does (.regionRestartExit p r) s fun t => t.regState p r = 1 ∧
        t.cnt C.TRL_RST_CNT p = (if s.dev.rd F.TRL_REG_STAT_CAUSE p r = 0 then s.dev.cnt C.TRL_RST_CNT p
          else min (2 ^ 48 - 1) (s.dev.cnt C.TRL_RST_CNT p + 1))) ∧
    ((s.dev.regState p r ≠ 5 ∨ s.dev.inputsPassed p r = false) → exec (.regionRestartExit p r) s = .next (s.after s.dev)) ∧
    (∀ (kind : Fin 6) (unit : Fin 68) (elem : Fin 32), kind.val ≤ 3 → s.dev.physRegion p unit = some r.val → s.dev.regState p r ≠ 0 →
      s.dev.regionStaged p r = false → Does (.regionFault p kind unit elem) s fun t =>
        t.regState p r = 4 ∧ t.rd F.TRL_REG_STAT_CAUSE p r = 1 ∧ t.on F.TRL_FAULT_VALID p = true ∧ t.rd F.TRL_FAULT_KIND p = kind ∧
          t.rd F.TRL_FAULT_UNIT p = unit ∧ t.rd F.TRL_FAULT_REGION p = r ∧ t.rd F.TRL_FAULT_ELEM p = (if kind.val ≤ 1 then elem.val % 16 else 0) ∧
          (s.dev.hub.lost = false → pipeEvent p 24 ∈ t.router.stat)) ∧
    (∀ (unit : Fin 68) (elem : Fin 32), regionOfWin (s.dev.trl p).info unit elem = some r.val → s.dev.regState p r ≠ 0 →
      s.dev.regionStaged p r = false → Does (.regionFault p 5 unit elem) s fun t =>
        t.regState p r = 4 ∧ t.rd F.TRL_REG_STAT_CAUSE p r = 1 ∧ t.rd F.TRL_FAULT_KIND p = 3 ∧ t.rd F.TRL_FAULT_REGION p = r ∧
          (s.dev.hub.lost = false → pipeEvent p 24 ∈ t.router.stat)) ∧
    (∀ (unit : Fin 68) (elem : Fin 32) rest, s.dev.clusterRegions p unit = r.val :: rest → s.dev.regionStaged p r = false →
      Does (.regionFault p 4 unit elem) s fun t => t.regState p r = 4 ∧ t.rd F.TRL_FAULT_KIND p = 4 ∧ t.rd F.TRL_FAULT_UNIT p = unit ∧
        t.rd F.TRL_FAULT_REGION p = r ∧ (s.dev.hub.lost = false → pipeEvent p 24 ∈ t.router.stat))

/-- A cuvée job (R197 to R217): STAGE starts one where none runs and is refused otherwise; pass 1 ends in STAGE with the container's
sections, or fails with READ_ERROR, the first error of its checks or PIPE_STATE; pass 2 ends STAGED with CUVL_STAGED, or fails with
READ_ERROR, DIGEST or the first error of its checks; GO commits, waits for the takes of whole sections, or fails by the first check; a whole section's pipe is reset to
LOADING once its takes are on the cartridge and runs when loaded; a context switches at its seam; the switch limit
forces what waits in every section; ABORT ends a job before GO. -/
def Obligations.CuveeJob : Prop :=
  ∀ s : State, s.awake →
    (s.dev.reaches .CUVL 0 = true →
      ((s.dev.cuvState = 0 ∨ s.dev.cuvState = 5 ∨ s.dev.cuvState = 6) → Does .cuvlStage s fun t =>
        t.cuvState = 1 ∧ t.rd F.CUVL_ERR_CODE = 0 ∧ t.rd F.CUVL_STAT_FORCED = 0 ∧ t.rd F.CUVL_STAT_PIPES = 0 ∧ t.hub.cuvl = {}) ∧
      (s.dev.cuvState ≠ 0 → s.dev.cuvState ≠ 5 → s.dev.cuvState ≠ 6 →
        exec .cuvlStage s = .next (s.after (s.dev.wr F.CUVL_REFUSE_STAGE 1))) ∧
      ((s.dev.cuvState = 1 ∨ s.dev.cuvState = 2 ∨ s.dev.cuvState = 3) → Does .cuvlAbort s fun t =>
        t.cuvState = 6 ∧ t.rd F.CUVL_ERR_CODE = 0x41 ∧ Raised t 529 0x41) ∧
      (s.dev.cuvState ≠ 1 → s.dev.cuvState ≠ 2 → s.dev.cuvState ≠ 3 →
        exec .cuvlAbort s = .next (s.after (s.dev.wr F.CUVL_REFUSE_STAGE 1))) ∧
      (s.dev.cuvState ≠ 3 → exec .cuvlGo s = .next (s.after (s.dev.wr F.CUVL_REFUSE_GO 1))) ∧
      (∀ e, s.dev.cuvState = 3 → s.dev.hub.cuvl.sects.forM (fun x => s.dev.cuvGoCheck x) = .error e → Does .cuvlGo s fun t =>
        t.cuvState = 6 ∧ t.rd F.CUVL_ERR_CODE = e.code % 256 ∧ Raised t 529 e.code) ∧
      (s.dev.cuvState = 3 → s.dev.hub.cuvl.sects.forM (fun x => s.dev.cuvGoCheck x) = .ok () → Does .cuvlGo s fun t =>
        (t.cuvState = 4 ∨ t.cuvState = 5 ∨ t.cuvState = 6) ∧
        ((∀ x ∈ s.dev.hub.cuvl.sects, x.whole = true) →
          t.cuvState = 4 ∧ ∀ x ∈ s.dev.hub.cuvl.sects, Tab.find t.hub.cuvl.wholes x.pipe = some .closing))) ∧
    (∀ bad, s.dev.cuvState ≠ 1 → exec (.cuvlVerifyDone bad) s = .next (s.after s.dev)) ∧
    (∀ bad, s.dev.cuvState = 1 → s.dev.cuvSource bad = none → s.dev.hub.lost = false → Does (.cuvlVerifyDone bad) s fun t =>
      t.cuvState = 6 ∧ t.rd F.CUVL_ERR_CODE = 0x1A ∧ Raised t 529 0x1A) ∧
    (∀ bad b, s.dev.cuvState = 1 → s.dev.cuvSource bad = some b → Does (.cuvlVerifyDone bad) s fun t =>
      (∀ e, s.dev.cuvPass1 b = .error e → t.cuvState = 6 ∧ t.rd F.CUVL_ERR_CODE = e.code % 256 ∧
        t.rd F.CUVL_ERR_SECTION = e.sect % 4 ∧ t.rd F.CUVL_ERR_WORD = e.word % 2 ^ 22 ∧
        (∀ v, e.det = some v → t.rd F.CUVL_ERR_DET_DETAIL = v % 2 ^ 32) ∧ (s.dev.hub.lost = false → Raised t 529 e.code)) ∧
      (∀ xs svn g x, s.dev.cuvPass1 b = .ok (xs, svn, g) → xs.find? (fun x => s.dev.hub.cuvl.hit.contains x.pipe) = some x →
        t.cuvState = 6 ∧ t.rd F.CUVL_ERR_CODE = 0x15 ∧ t.rd F.CUVL_ERR_DET_DETAIL = x.pipe % 2 ^ 32) ∧
      (∀ xs svn g, s.dev.cuvPass1 b = .ok (xs, svn, g) → xs.find? (fun x => s.dev.hub.cuvl.hit.contains x.pipe) = none →
        t.cuvState = 2 ∧ t.hub.cuvl.sects = xs ∧ t.rd F.CUVL_SVN_LAST = svn % 128 ∧
          t.rd F.CUVL_STAT_PIPES = ((xs.map fun x => 2 ^ x.pipe).sum) % 16 ∧
          t.rd F.CUVL_STAT_PENDING = ((xs.map fun x => 2 ^ x.pipe).sum) % 16)) ∧
    (∀ bad, s.dev.cuvState ≠ 2 → exec (.cuvlPass2Done bad) s = .next (s.after s.dev)) ∧
    (∀ bad, s.dev.cuvState = 2 → s.dev.cuvSource bad = none → Does (.cuvlPass2Done bad) s fun t =>
      t.cuvState = 6 ∧ t.rd F.CUVL_ERR_CODE = 0x1A) ∧
    (∀ bad b, s.dev.cuvState = 2 → s.dev.cuvSource bad = some b → Does (.cuvlPass2Done bad) s fun t =>
      ((s.dev.putDigest (sha384 (b.take (cuvSigAt b)))).regs ≠ s.dev.regs →
        t.cuvState = 6 ∧ t.rd F.CUVL_ERR_CODE = 0x19) ∧
      (∀ raw l, (s.dev.putDigest (sha384 (b.take (cuvSigAt b)))).regs = s.dev.regs → cuvRaw b = .ok raw →
        s.dev.hub.cuvl.sects.mapM (fun x => (s.dev.cuvPass2 raw x).map fun y => (x, y)) = .ok l →
        t.cuvState = 3 ∧ (s.dev.hub.lost = false → Raised t 527 0)) ∧
      (∀ raw e, (s.dev.putDigest (sha384 (b.take (cuvSigAt b)))).regs = s.dev.regs → cuvRaw b = .ok raw →
        s.dev.hub.cuvl.sects.mapM (fun x => (s.dev.cuvPass2 raw x).map fun y => (x, y)) = .error e →
        t.cuvState = 6 ∧ t.rd F.CUVL_ERR_CODE = e.code % 256 ∧ t.rd F.CUVL_ERR_WORD = e.word % 2 ^ 22)) ∧
    (∀ p : Pipe, Tab.find s.dev.hub.cuvl.wholes p = some .closing → s.dev.takesShut p = true → Does (.cuvlWholeCommit p) s fun t =>
      t.rd F.PCTL_STAT_STATE p = 2 ∧ Tab.find t.hub.cuvl.wholes p = some .loading) ∧
    (∀ p : Pipe, (Tab.find s.dev.hub.cuvl.wholes p ≠ some .closing ∨ s.dev.takesShut p = false) →
      exec (.cuvlWholeCommit p) s = .next (s.after s.dev)) ∧
    (∀ (p : Pipe) x, s.dev.hub.cuvl.sects.find? (fun x => x.pipe == p.val) = some x → Tab.find s.dev.hub.cuvl.wholes p = some .loading →
      s.dev.rd F.PCTL_STAT_STATE p = 2 → Does (.cuvlWholeLoadDone p) s fun t =>
        t.rd F.PCTL_STAT_STATE p = (if cOfNs 1000000 ≤ cSince (s.dev.pipe p).lastCopy s.dev.c then 4 else 3)) ∧
    (∀ p : Pipe, (Tab.find s.dev.hub.cuvl.wholes p ≠ some .loading ∨ s.dev.rd F.PCTL_STAT_STATE p ≠ 2) →
      exec (.cuvlWholeLoadDone p) s = .next (s.after s.dev)) ∧
    (∀ y ∈ s.dev.hub.cuvl.sects, s.dev.cuvState = 4 → Does .cuvlSwitchTimeout s fun t =>
      t.rd F.CUVL_STAT_FORCED = 1 ∧ (∀ z ∈ t.hub.cuvl.casks, z.1 ≠ y.pipe) ∧ (∀ z ∈ t.hub.cuvl.ctxs, z.1 ≠ y.pipe) ∧
        y.pipe ∉ t.hub.cuvl.recPend ∧ Tab.find t.hub.cuvl.wholes y.pipe = none) ∧
    ((s.dev.cuvState ≠ 4 ∨ s.dev.hub.cuvl.sects = []) → exec .cuvlSwitchTimeout s = .next (s.after s.dev)) ∧
    (∀ (p : Pipe) (cls i : Fin 128), s.dev.hub.cuvl.ctxs.contains (p.val, cls.val, i.val) = true →
      s.dev.ctxSeam p (cls.val, i.val) = true →
      exec (.contextSwitch p cls i) s = .next (s.after
        (((s.dev.updCuvl fun c => { c with ctxs := c.ctxs.filter (· != (p.val, cls.val, i.val)) }).ctxTake p (cls.val, i.val)).sectDone p))) ∧
    (∀ (p : Pipe) (cls i : Fin 128), (s.dev.hub.cuvl.ctxs.contains (p.val, cls.val, i.val) = false ∨
        s.dev.ctxSeam p (cls.val, i.val) = false) →
      exec (.contextSwitch p cls i) s = .next (s.after s.dev)) ∧
    (∀ p : Pipe, s.dev.hub.cuvl.recPend.contains p.val = true → s.dev.takesShut p = true →
      (∀ v, v < 16 → s.dev.on F.SFE_VCG_REC p v = true → (s.dev.vc p v).open_ = false) → Does (.recContextSwitch p) s fun t =>
      p.val ∉ t.hub.cuvl.recPend) ∧
    (∀ p : Pipe, (s.dev.hub.cuvl.recPend.contains p.val = false ∨ s.dev.takesShut p = false ∨
        ∃ v, v < 16 ∧ s.dev.on F.SFE_VCG_REC p v = true ∧ (s.dev.vc p v).open_ = true) →
      exec (.recContextSwitch p) s = .next (s.after s.dev))

/-- A lane's way through the stages of an attempt (R229 to R238): signal detect, clock recovery, the CTLE code and block lock each take it
on; a valid training block's fields are shown and judged, the eighth inverted one in a row settles polarity; a stage's bound ends the attempt with the stage's
cause; sixteen TS2 and data on every lane, the PLL of an SDI role, the PCS of an ETH role and the first SoT of a DPHY role make the role
READY with LANE_UP; an instant of R238 starts an attempt again. In READY the CTLE code follows the eye monitor (R243). -/
def Obligations.LaneTraining : Prop :=
  ∀ s : State, s.awake → (∀ (u : Unit5) (k : Fin 12), k.val < laneCount u →
    (Does (.laneSignalDetect u k) s fun t => t.on F.LANE_STAT_SIG u k = true ∧
      (∀ r, s.dev.slotOf u k = some r → (s.dev.role u r).attempt = true → s.dev.stage u k = 1 → s.dev.hasRx u r = true →
        s.dev.roleKind u r ≠ 2 → t.stage u k = 2)) ∧
    (∀ r, s.dev.inStage u k 2 = some r → s.dev.roleKind u r ≠ 5 → Does (.laneCdrLock u k) s fun t => t.on F.LANE_STAT_CDR u k = true ∧ t.stage u k = 3) ∧
    (s.dev.inStage u k 2 = none → exec (.laneCdrLock u k) s = .next (s.after s.dev)) ∧
    (∀ r (code : Fin 32), s.dev.inStage u k 3 = some r → Does (.laneCtleChosen u k code) s fun t =>
      t.rd F.LANE_CTLE_NOW u k = (if s.dev.on F.LANE_CTLE_ADAPT u k then code.val else s.dev.rd F.LANE_CTLE_MAN u k % 32) ∧ t.stage u k = 4) ∧
    (∀ code : Fin 32, s.dev.inStage u k 3 = none → exec (.laneCtleChosen u k code) s = .next (s.after s.dev)) ∧
    (∀ r, s.dev.inStage u k 4 = some r → Does (.laneBlockLock u k) s fun t =>
      t.on F.LANE_STAT_BLOCK u k = true ∧ t.stage u k = (if s.dev.roleKind u r = 3 then 4 else 5) ∧ t.lane u k = {}) ∧
    (s.dev.inStage u k 4 = none → exec (.laneBlockLock u k) s = .next (s.after s.dev)) ∧
    (∀ r, s.dev.slotOf u k = some r → (s.dev.role u r).attempt = true →
      (∀ v, (v = 2 ∨ v = 3 ∨ (v = 4 ∧ s.dev.on F.LANE_STAT_BLOCK u k = false)) → s.dev.stage u k = v → Does (.laneStageTimeout u k) s fun t =>
        (t.role u r).attempt = false ∧ t.rd F.LANE_ROLE_STAT_FCAUSE u r = v) ∧
      (s.dev.stage u k = 5 → Does (.laneStageTimeout u k) s fun t => (t.role u r).attempt = false ∧
        t.rd F.LANE_ROLE_STAT_FCAUSE u r = if (s.dev.lane u k).settled || s.dev.roleKind u r == 4 then 6 else 5) ∧
      (s.dev.stage u k = 6 → Does (.laneStageTimeout u k) s fun t =>
        (t.role u r).attempt = false ∧ t.rd F.LANE_ROLE_STAT_FCAUSE u r = 9)) ∧
    ((s.dev.slotOf u k = none ∨ s.dev.stage u k ≤ 1 ∨ 7 ≤ s.dev.stage u k) →
      exec (.laneStageTimeout u k) s = .next (s.after s.dev)) ∧
    (∀ raw slot, (s.dev.slotOf u k = none ∨ ∃ r, s.dev.slotOf u k = some r ∧ (s.dev.roleKind u r = 2 ∨ s.dev.roleKind u r = 5)) →
      exec (.trainingBlockReceived u k ⟨raw, slot⟩) s = .next (s.after s.dev) ∧
        exec (.dataBlockReceived u k raw) s = .next (s.after s.dev)) ∧
    (∀ raw slot r b, s.dev.slotOf u k = some r → (s.dev.roleKind u r = 1 ∨ s.dev.roleKind u r = 6) → s.dev.roleState u r ≠ 4 →
      (s.dev.role u r).attempt = true → trainOf (s.dev.laneBlk u k raw) = some b → b.crcOk = true →
      (s.dev.stage u k = 5 → Does (.trainingBlockReceived u k ⟨raw, slot⟩) s fun t =>
        t.rd F.LANE_STAT_LID u k = b.lid % 16 ∧ t.rd F.LANE_STAT_NLANE u k = b.nlane % 16 ∧ t.rd F.LANE_STAT_PORT u k = b.port % 256) ∧
      ((s.dev.stage u k = 6 ∨ s.dev.stage u k = 7) → Does (.trainingBlockReceived u k ⟨raw, slot⟩) s fun t =>
        (t.lane u k).ts2 = if b.ts2 && s.dev.ts2Due u r then (s.dev.lane u k).ts2 + 1 else 0)) ∧
    (∀ raw slot r b, s.dev.slotOf u k = some r → (s.dev.roleKind u r = 1 ∨ s.dev.roleKind u r = 6) → s.dev.roleState u r ≠ 4 →
      (s.dev.role u r).attempt = true → s.dev.stage u k = 5 → trainOf (blkInv (s.dev.laneBlk u k raw)) = some b → b.crcOk = true →
      (s.dev.lane u k).settled = false → (s.dev.lane u k).inv = 7 → Does (.trainingBlockReceived u k ⟨raw, slot⟩) s fun t =>
        t.on F.LANE_STAT_POLINV u k = !s.dev.on F.LANE_STAT_POLINV u k ∧ (t.lane u k).settled = true) ∧
    (∀ raw r, s.dev.slotOf u k = some r → (s.dev.roleKind u r = 1 ∨ s.dev.roleKind u r = 6) → s.dev.roleState u r ≠ 4 →
      (s.dev.role u r).attempt = true → blkByte (s.dev.laneBlk u k raw) 0 ≠ 0xD2 → blkByte (s.dev.laneBlk u k raw) 0 ≠ 0xD3 →
      (s.dev.stage u k = 5 → blkByte (blkInv (s.dev.laneBlk u k raw)) 0 ≠ 0xD2 → blkByte (blkInv (s.dev.laneBlk u k raw)) 0 ≠ 0xD3 →
        exec (.dataBlockReceived u k raw) s = .next (s.after
          (s.dev.putLane u k { s.dev.lane u k with good := 0, inv := 0, same := 0 }))) ∧
      (s.dev.stage u k = 7 → 16 ≤ (s.dev.lane u k).ts2 →
        (∀ j ∈ s.dev.roleLanes u r, s.dev.stage u j = 7 ∧ (j = k.val ∨ (s.dev.lane u j).done = true)) →
        Does (.dataBlockReceived u k raw) s fun t => t.roleState u r = 4 ∧
          (s.dev.hub.lost = false →
            Raised t (if u.val = 4 then 530 else pipeEvent u 29) (s.dev.rd F.LANE_ROLE_STAT_FCAUSE u r * 2 ^ 25 + r)))) ∧
    (∀ dir : Fin 3, s.dev.stage u k ≠ 8 → exec (.laneCtleTrack u k dir) s = .next (s.after s.dev)) ∧
    (∀ dir : Fin 3, s.dev.stage u k = 8 → s.dev.on F.LANE_CTLE_ADAPT u k = true → s.dev.on F.LANE_CTLE_FREEZE u k = true →
      exec (.laneCtleTrack u k dir) s = .next (s.after s.dev)) ∧
    (∀ dir : Fin 3, s.dev.stage u k = 8 → s.dev.on F.LANE_CTLE_ADAPT u k = true → s.dev.on F.LANE_CTLE_FREEZE u k = false →
      s.dev.rd F.LANE_CTLE_NOW u k < 32 → Does (.laneCtleTrack u k dir) s fun t =>
        t.rd F.LANE_CTLE_NOW u k = if dir = 1 then min 31 (s.dev.rd F.LANE_CTLE_NOW u k + 1)
          else if dir = 2 then s.dev.rd F.LANE_CTLE_NOW u k - 1 else s.dev.rd F.LANE_CTLE_NOW u k)) ∧
  (∀ (u : Unit5) (r : Fin 7), r.val < roleCount u →
    ((s.dev.roleState u r = 0 ∨ s.dev.roleState u r = 1 ∨ s.dev.roleState u r = 4) →
      exec (.laneAttemptStart u r) s = .next (s.after s.dev)) ∧
    (s.dev.roleState u r ≠ 0 → s.dev.roleState u r ≠ 1 → s.dev.roleState u r ≠ 4 → (s.dev.role u r).attempt = true →
      (s.dev.role u r).aligned = true → (s.dev.role u r).held = false →
      Does (.laneAttemptStart u r) s fun t => t.role u r = { s.dev.role u r with held := true }) ∧
    (s.dev.roleState u r ≠ 0 → s.dev.roleState u r ≠ 1 → s.dev.roleState u r ≠ 4 → (s.dev.role u r).attempt = false →
      (s.dev.role u r).episode = false → s.dev.refOk u r = true →
      Does (.laneAttemptStart u r) s fun t => (t.role u r).attempt = true ∧ (t.role u r).first = s.dev.c ∧ t.roleState u r = 2) ∧
    (s.dev.roleState u r ≠ 0 → s.dev.roleState u r ≠ 1 → s.dev.roleState u r ≠ 4 → (s.dev.role u r).aligned = false →
      (s.dev.role u r).episode = true → s.dev.refOk u r = true →
      Does (.laneAttemptStart u r) s fun t => (t.role u r).attempt = true ∧ (t.role u r).aligned = false ∧
        t.roleState u r = if (s.dev.role u r).down then 6 else 5)) ∧
  (∀ (p : Pipe) (k : Fin 6) r, s.dev.slotOf p (6 + k) = some r →
    (s.dev.roleKind p r = 5 → (s.dev.role p r).attempt = true → s.dev.stage p (6 + k) = 2 → Does (.sdiPllLock p k) s fun t => t.roleState p r = 4) ∧
    ((s.dev.roleKind p r ≠ 5 ∨ (s.dev.role p r).attempt = false ∨ s.dev.stage p (6 + k) ≠ 2) → exec (.sdiPllLock p k) s = .next (s.after s.dev)) ∧
    ((s.dev.roleKind p r = 3 ∨ s.dev.roleKind p r = 4) → (s.dev.role p r).attempt = true →
      (∀ j ∈ s.dev.roleLanes p r, s.dev.on F.LANE_STAT_BLOCK p j = true ∧ s.dev.stage p j ≠ 9) → Does (.ethPcsAligned p k) s fun t => t.roleState p r = 4) ∧
    ((s.dev.role p r).attempt = false → exec (.ethPcsAligned p k) s = .next (s.after s.dev))) ∧
  (∀ (p : Pipe) (mask : BitVec 4),
    (s.dev.roleKind p 0 = 2 → (s.dev.role p 0).attempt = true → (∀ k ∈ s.dev.roleLanes p 0, s.dev.stage p k = 1) →
      (∀ k ∈ s.dev.dphyLanes p, bit mask.toNat k = true ∨ (s.dev.lane p k).done = true) →
      Does (.dphySot p mask) s fun t => t.roleState p 0 = 4) ∧
    ((s.dev.roleKind p 0 ≠ 2 ∨ (s.dev.role p 0).attempt = false) → exec (.dphySot p mask) s = .next (s.after s.dev)))

/-- Losses, the retry timer, the reference monitor and the test patterns (R221, R236 to R248): a cause in READY that the role's kind
has takes it to RETRY with that cause and LANE_DOWN; the expired timer takes it to DOWN with LANE_GIVEUP; a retrain and a silent D-PHY lose it too; a check of a
declared input shows its verdict, a fault latches and is reported; `LANE_TXFIR`, `LANE_PRBS_CTL` and `LANE_SNAP` take what they may, and
the checker shows whether the bits it has compared hold its lock. -/
def Obligations.LaneLossAndTest : Prop :=
  ∀ s : State, s.awake →
    (∀ (u : Unit5) (k : Fin 12) r, k.val < laneCount u → s.dev.slotOf u k = some r → s.dev.roleState u r = 4 →
      (s.dev.role u r).episode = false →
      ((s.dev.roleKind u r = 1 ∨ s.dev.roleKind u r = 3 ∨ s.dev.roleKind u r = 4 ∨ s.dev.roleKind u r = 6) →
        Does (.laneLoss u k .noSig) s (fun t => s.dev.roleLostBy t u r 1) ∧ Does (.laneLoss u k .cdr) s fun t => s.dev.roleLostBy t u r 2) ∧
      ((s.dev.roleKind u r = 3 ∨ s.dev.roleKind u r = 4) → Does (.laneLoss u k .pcs) s fun t => s.dev.roleLostBy t u r 4) ∧
      (s.dev.roleKind u r = 5 → Does (.laneLoss u k .pll) s fun t => s.dev.roleLostBy t u r 2) ∧
      (∀ raw slot b, (s.dev.roleKind u r = 1 ∨ s.dev.roleKind u r = 6) → trainOf (s.dev.laneBlk u k raw) = some b → b.crcOk = true →
        Does (.trainingBlockReceived u k ⟨raw, slot⟩) s fun t => s.dev.roleLostBy t u r 10) ∧
      (∀ raw, s.dev.roleKind u r ≠ 2 → s.dev.roleKind u r ≠ 5 → blkValid (s.dev.laneBlk u k raw) = false →
        15 ≤ ((s.dev.lane u k).hdrs.take 63 |>.filter fun v => !v).length →
        Does (.dataBlockReceived u k raw) s fun t => s.dev.roleLostBy t u r 12)) ∧
    (∀ (u : Unit5) (k : Fin 12), k.val < laneCount u → Does (.laneLoss u k .noSig) s fun t => t.on F.LANE_STAT_SIG u k = false) ∧
    (∀ (u : Unit5) (r : Fin 7), r.val < roleCount u →
      ((s.dev.role u r).episode = true → (s.dev.role u r).down = false → Does (.laneRetryExpiry u r) s fun t =>
        (t.role u r).down = true ∧ ((s.dev.role u r).aligned = false → t.roleState u r = 6) ∧
          (s.dev.hub.lost = false → Raised t (if u.val = 4 then 532 else pipeEvent u 31) (s.dev.rd F.LANE_ROLE_STAT_FCAUSE u r * 2 ^ 25 + r))) ∧
      (((s.dev.role u r).episode = false ∨ (s.dev.role u r).down = true) → exec (.laneRetryExpiry u r) s = .next (s.after s.dev))) ∧
    (∀ (u : Unit5) (mask : BitVec 12), s.dev.reaches .LANE u = true →
      (∀ r, r < 7 → (∃ k ∈ s.dev.roleLanes u r, bit mask.toNat k = true) → (s.dev.roleState u r = 4 ∨ s.dev.roleState u r = 3) →
        (s.dev.role u r).episode = false → Does (.laneRetrain u mask) s fun t =>
          t.roleState u r = 5 ∧ t.rd F.LANE_ROLE_STAT_FCAUSE u r = 13) ∧
      ((∀ r, r < 7 → ∀ k ∈ s.dev.roleLanes u r, bit mask.toNat k = false) → exec (.laneRetrain u mask) s = .next (s.after s.dev))) ∧
    (∀ p : Pipe, (s.dev.roleKind p 0 = 2 → s.dev.roleState p 0 = 4 → (s.dev.role p 0).episode = false →
        Does (.dphySotTimeout p) s fun t => t.roleState p 0 = 5 ∧ t.rd F.LANE_ROLE_STAT_FCAUSE p 0 = 1) ∧
      ((s.dev.roleKind p 0 ≠ 2 ∨ s.dev.roleState p 0 ≠ 4) → exec (.dphySotTimeout p) s = .next (s.after s.dev))) ∧
    (∀ (u : Unit5) (i : Fin 3) good, (s.dev.on F.TIME_STAT_REFFAULT = true ∨ s.dev.refDeclared u i = false) →
      exec (.refclkMonitorCheck u i good) s = .next (s.after s.dev)) ∧
    (∀ (u : Unit5) (i : Fin 3), s.dev.on F.TIME_STAT_REFFAULT = false → s.dev.refDeclared u i = true →
      (Does (.refclkMonitorCheck u i true) s fun t => bit (t.rd F.LANE_REFSTAT_OK u) i = true) ∧
      (Does (.refclkMonitorCheck u i false) s fun t => bit (t.rd F.LANE_REFSTAT_OK u) i = false ∧
        bit (t.rd F.LANE_REFSTAT_FAULT u) i = true ∧ i.val ∈ (t.lns u).bad ∧
        ((s.dev.lns u).bad.contains i.val = false → s.dev.hub.lost = false →
          Raised t (if u.val = 4 then 533 else pipeEvent u 32) (if u.val = 4 then 0 else i)))) ∧
    (∀ (u : Unit5) (k : Fin 12) (w : Word), k.val < laneCount u → s.dev.reaches .LANE u = true →
      ((u.val = 4 ∨ 6 ≤ k.val) → firOk w.toNat = true → Does (.laneTxfirWrite u k w) s fun t =>
        t.rd F.LANE_TXFIR_PRE u k = slice w.toNat 3 0 ∧ t.rd F.LANE_TXFIR_MAIN u k = slice w.toNat 13 8 ∧
          t.rd F.LANE_TXFIR_POST u k = slice w.toNat 20 16) ∧
      (((u.val ≠ 4 ∧ k.val < 6) ∨ firOk w.toNat = false) → exec (.laneTxfirWrite u k w) s = .next (s.after s.dev)) ∧
      (Does (.lanePrbsCtlWrite u k w) s fun t =>
        t.rd F.LANE_PRBS_CTL_PAT u k = slice w.toNat 2 0 ∧ t.on F.LANE_PRBS_CTL_CHK_EN u k = bit w.toNat 31 ∧
          t.rd F.LANE_PRBS_CTL_TRATE u k = slice w.toNat 19 16 ∧
          (bit w.toNat 27 = true → trateOk u k (slice w.toNat 19 16) = false → t.on F.LANE_PRBS_STAT_REFUSED u k = true ∧
            t.on F.LANE_PRBS_CTL_TEST u k = s.dev.on F.LANE_PRBS_CTL_TEST u k) ∧
          (bit w.toNat 27 = true → trateOk u k (slice w.toNat 19 16) = true →
            (u.val = 4 ∨ s.dev.on F.PCTL_STAT_TAKE u = false ∨ 6 ≤ k.val) → t.on F.LANE_PRBS_CTL_TEST u k = true ∧
            (s.dev.on F.LANE_PRBS_CTL_TEST u k = false → t.stage u k = 9)))) ∧
    (∀ (u : Unit5) (k : Fin 12) n sent flips, k.val < laneCount u →
      (s.dev.on F.LANE_PRBS_CTL_TEST u k = true → s.dev.on F.LANE_PRBS_CTL_CHK_EN u k = true →
        (s.dev.on F.LANE_PRBS_CTL_LOOP u k = false ∨ s.dev.on F.LANE_PRBS_CTL_GEN_EN u k = false) → (u.val = 4 ∨ k.val < 6) →
        Does (.prbsLockChange u k n sent flips) s fun t => t.on F.LANE_PRBS_STAT_LOCK u k =
          ((rxBits n sent flips).foldl (fun c b => (c.rx (s.dev.rd F.LANE_PRBS_CTL_PAT u k) (b != s.dev.on F.LANE_PRBS_CTL_INV u k)).2)
            (s.dev.lane u k).chk).lock) ∧
      ((s.dev.on F.LANE_PRBS_CTL_TEST u k = false ∨ s.dev.on F.LANE_PRBS_CTL_CHK_EN u k = false) →
        exec (.prbsLockChange u k n sent flips) s = .next (s.after s.dev))) ∧
    (∀ (u : Unit5) (mask : BitVec 12), s.dev.reaches .LANE u = true → Does (.laneSnapWrite u mask) s fun t =>
      ∀ k, k < laneCount u → bit mask.toNat k = true →
        t.rd F.LANE_SNAP_ERR_LO_CNT_LO u k = s.dev.rd F.LANE_PRBS_ERR_LO_CNT_LO u k % 2 ^ 32 ∧
        t.rd F.LANE_SNAP_BITS_LO_CNT_LO u k = s.dev.rd F.LANE_PRBS_BITS_LO_CNT_LO u k % 2 ^ 32 ∧
        t.rd F.LANE_SNAP_BITS_HI_SAT u k = s.dev.rd F.LANE_PRBS_BITS_HI_SAT u k % 2)

/-- The sensor front end: while the sensor role does not carry data a packet has no effect (R262); an uncorrectable header discards
its packet, counted (R254); a line of an open frame is counted, a damaged one, by the link CRC in SLINK mode or the packet CRC in DPHY mode,
marks the frame (R252, R256, R257); line and generic short packets are ignored (R254); an FS opens a frame and an FE closes it, an FE
without a frame counts a STRUCTURE error (R256); an identity that was read stands in the registers and, with no take open, is the
baseline (R265); an I3C command of the host runs and ends with its event, an in-band interrupt shows its byte (R267, R275). -/
def Obligations.SensorPackets : Prop :=
  ∀ (s : State) (p : Pipe), s.awake →
    (s.dev.sfeFlows p = false →
      (∀ k, exec (.csi2LongPacket p k) s = .next (s.after s.dev)) ∧
      (∀ di wc ecc, exec (.csi2FrameStart p di wc ecc []) s = .next (s.after s.dev)) ∧
      ∀ h ecc, exec (.csi2FrameEnd p h ecc) s = .next (s.after s.dev)) ∧
    (exec (.csi2LongPacket p .deskew) s = .next (s.after s.dev)) ∧
    (∀ h rows crc, s.dev.sfeFlows p = true → s.dev.smode p ≠ 2 → (s.dev.sfe p).link = none →
      (∀ row ∈ rows, ∀ b ∈ row, b.hdr = 1) → (csiHeader h.toNat).1 = .multiple → s.dev.cnt C.SFE_ERR_CNT p 1 < 2 ^ 48 →
      Does (.csi2LongPacket p (.rows h rows crc)) s fun t => t.cnt C.SFE_ERR_CNT p 1 = min (2 ^ 48 - 1) (s.dev.cnt C.SFE_ERR_CNT p 1 + 1) ∧
        ∀ v : Fin 16, t.vc p v = s.dev.vc p v) ∧
    (∀ h rows crc v, s.dev.sfeFlows p = true → s.dev.smode p ≠ 2 → (s.dev.sfe p).link = none →
      (∀ row ∈ rows, ∀ b ∈ row, b.hdr = 1) → (csiHeader h.toNat).1 = .ok → v = hdrVc (csiHeader h.toNat).2 →
      s.dev.on F.SFE_VCG_EN p v = true → hdrDt (csiHeader h.toNat).2 ≠ 0x12 →
      hdrDt (csiHeader h.toNat).2 = s.dev.rd F.SFE_VCG_DT p v → (s.dev.vc p v).open_ = true →
      hdrWc (csiHeader h.toNat).2 = s.dev.rd F.SFE_VCG_WIDTH p v * rawBits (hdrDt (csiHeader h.toNat).2) / 8 →
      (s.dev.vc p v).lines + (s.dev.vc p v).holes < s.dev.rd F.SFE_VCL_LINES p v →
      Does (.csi2LongPacket p (.rows h rows crc)) s fun t => (t.vc p v).open_ = true ∧ (t.vc p v).lines = (s.dev.vc p v).lines + 1 ∧
        (crc.toNat ≠ crc32c (rows.flatMap fun row => row.flatMap blkBytes) → (t.vc p v).damaged = true)) ∧
    (∀ lanes bs v, s.dev.sfeFlows p = true → s.dev.smode p = 2 → bs = s.dev.burstBytes p lanes →
      (csiHeader (ofLeBytes (bs.take 4))).1 = .ok → v = hdrVc (csiHeader (ofLeBytes (bs.take 4))).2 →
      s.dev.on F.SFE_VCG_EN p v = true → 0x13 ≤ hdrDt (csiHeader (ofLeBytes (bs.take 4))).2 →
      hdrDt (csiHeader (ofLeBytes (bs.take 4))).2 = s.dev.rd F.SFE_VCG_DT p v → (s.dev.vc p v).open_ = true →
      hdrWc (csiHeader (ofLeBytes (bs.take 4))).2 =
        s.dev.rd F.SFE_VCG_WIDTH p v * rawBits (hdrDt (csiHeader (ofLeBytes (bs.take 4))).2) / 8 →
      (s.dev.vc p v).lines + (s.dev.vc p v).holes < s.dev.rd F.SFE_VCL_LINES p v →
      Does (.csi2LongPacket p (.burst lanes)) s fun t => (t.vc p v).open_ = true ∧ (t.vc p v).lines = (s.dev.vc p v).lines + 1 ∧
        (bs.length < 6 + hdrWc (csiHeader (ofLeBytes (bs.take 4))).2 → (t.vc p v).damaged = true)) ∧
    (∀ (di ecc : Byte) (wc : BitVec 16) h v, h = ecc ++ wc ++ di → s.dev.sfeFlows p = true → (s.dev.sfe p).link = none → (csiHeader h.toNat).1 ≠ .multiple →
      v = hdrVc (csiHeader h.toNat).2 →
      (hdrDt (csiHeader h.toNat).2 = 0 → s.dev.on F.SFE_VCG_EN p v = true → Does (.csi2FrameStart p di wc ecc []) s fun t =>
        (t.vc p v).open_ = true ∧ (t.vc p v).fn = hdrWc (csiHeader h.toNat).2 ∧ (t.vc p v).lines = 0 ∧ (t.vc p v).damaged = false ∧
          (t.vc p v).fsNow = s.dev.sfeStamp p) ∧
      (hdrDt (csiHeader h.toNat).2 = 1 → s.dev.on F.SFE_VCG_EN p v = true → (s.dev.vc p v).open_ = true →
        Does (.csi2FrameEnd p (wc ++ di) ecc) s fun t => (t.vc p v).open_ = false ∧ (t.vc p v).feeding = false)) ∧
    (∀ (di ecc : Byte) (wc : BitVec 16) h, h = ecc ++ wc ++ di → s.dev.sfeFlows p = true → (s.dev.sfe p).link = none → (csiHeader h.toNat).1 = .ok →
      (hdrDt (csiHeader h.toNat).2 = 1 → s.dev.on F.SFE_VCG_EN p (hdrVc (csiHeader h.toNat).2) = true →
        (s.dev.vc p (hdrVc (csiHeader h.toNat).2)).open_ = false →
        exec (.csi2FrameEnd p (wc ++ di) ecc) s = .next (s.after (s.dev.sfeErr p .structure_))) ∧
      ((hdrDt (csiHeader h.toNat).2 = 2 ∨ hdrDt (csiHeader h.toNat).2 = 3 ∨
          8 ≤ hdrDt (csiHeader h.toNat).2 ∧ hdrDt (csiHeader h.toNat).2 ≤ 15) →
        exec (.csi2FrameStart p di wc ecc []) s = .next (s.after s.dev) ∧
        exec (.csi2FrameEnd p (wc ++ di) ecc) s = .next (s.after s.dev))) ∧
    (∀ x, (s.dev.sfe p).reading = false → exec (.sfeIdentityReadDone p x) s = .next (s.after s.dev)) ∧
    (∀ tries, (s.dev.sfe p).reading = true → s.dev.idDue p = true → (tries.take 3).findSome? identityOf = none →
      Does (.sfeIdentityReadDone p tries) s fun t => t.on F.SFE_STAT_IDVALID p = false ∧ (t.sfe p).reading = false) ∧
    (∀ tries serial insert mode, (s.dev.sfe p).reading = true → s.dev.idDue p = true →
      (tries.take 3).findSome? identityOf = some (serial, insert, mode) → Does (.sfeIdentityReadDone p tries) s fun t =>
      t.on F.SFE_STAT_IDVALID p = true ∧ t.rd F.SFE_ID_INSERT_VALUE p = insert % 2 ^ 32 ∧ t.rd F.SFE_ID_MODE_VALUE p = mode % 2 ^ 32 ∧
        (∀ k : Fin 4, t.rd F.SFE_ID_SERIAL_VALUE p k = serial / 2 ^ (32 * k.val) % 2 ^ 32) ∧
        (s.dev.on F.PCTL_STAT_TAKE p = false → (t.sfe p).base = some (serial, insert, mode))) ∧
    (∀ w, s.dev.reaches .SFE p = true → s.dev.on F.SFE_I3C_STAT_BUSY p = true →
      exec (.sfeI3cCmdGo p w) s = .next (s.after s.dev)) ∧
    (∀ w : Word, s.dev.reaches .SFE p = true → s.dev.on F.SFE_I3C_STAT_BUSY p = false → bit w.toNat 31 = true →
      Does (.sfeI3cCmdGo p w) s fun t => t.on F.SFE_I3C_STAT_BUSY p = true ∧ (t.sfe p).trig = (slice w.toNat 27 26 == 1) ∧
        t.rd F.SFE_I3C_CMD_TYPE p = slice w.toNat 30 28 ∧ t.rd F.SFE_I3C_CMD_ADDR p = slice w.toNat 21 15 ∧
        t.rd F.SFE_I3C_CMD_LEN p = slice w.toNat 6 0) ∧
    (∀ result data, s.dev.on F.SFE_I3C_STAT_BUSY p = true → (s.dev.sfe p).trig = false →
      Does (.sfeI3cDone p result data) s fun t => t.on F.SFE_I3C_STAT_BUSY p = false ∧ t.on F.SFE_I3C_CMD_GO p = false ∧
        t.rd F.SFE_I3C_STAT_RESULT p = result ∧ (t.sfe p).await = false ∧
        ((s.dev.sfe p).await = true → s.dev.idDue p = true → (t.sfe p).reading = true) ∧
        (s.dev.hub.lost = false → Raised t (pipeEvent p 36) 0)) ∧
    (∀ result data, (s.dev.on F.SFE_I3C_STAT_BUSY p = false ∨ (s.dev.sfe p).trig = true) →
      exec (.sfeI3cDone p result data) s = .next (s.after s.dev)) ∧
    (∀ mdb : Byte, Does (.sfeIbi p (some mdb)) s fun t => t.rd F.SFE_I3C_STAT_IBI_MDB p = mdb.toNat ∧
      (s.dev.hub.lost = false → Raised t (pipeEvent p 37) mdb.toNat)) ∧
    (exec (.sfeIbi p none) s = .next (s.after s.dev))

/-- The take codec: the encoder takes the row at the head of its branch, unless its words wait for credit or its path is flushed (R324,
R351); a decoder's GO checks the unit and runs or ends with the status of the failed check, and is discarded while a job runs (R358);
ABORT stops a running job, which ends with status 0x16 (R363); the end of a job raises PXR_DEC_DONE with its status (R364). -/
def Obligations.TakeCodec : Prop :=
  ∀ (s : State) (p : Pipe), s.awake →
    (∀ (v : Fin 16) vals dmg n rest, (s.dev.enc p v).items = .row vals dmg n :: rest →
      (rest = [] ∨ ∃ x y z r, rest = .row x y z :: r) → (s.dev.enc p v).writing = true →
      (s.dev.cask p (s.dev.rd F.PXR_ENC_VCC_CASK p v)).wait = [] → (s.dev.pipe p).recp.flushed = false →
      Does (.pxrRowEncode p v) s fun t => (t.enc p v).items = rest ∧ (t.enc p v).y = (s.dev.enc p v).y + 1 ∧
        (t.enc p v).writing = true) ∧
    (∀ v : Fin 16, ((s.dev.enc p v).items = [] ∨ (s.dev.cask p (s.dev.rd F.PXR_ENC_VCC_CASK p v)).wait ≠ [] ∨
      (s.dev.pipe p).recp.flushed = true) → exec (.pxrRowEncode p v) s = .next (s.after s.dev)) ∧
    (∀ (j : Fin 4) status seq, s.dev.reaches .PXR p = true →
      (s.dev.rd F.PXR_DEC_STAT_STATE p j = 0 ∨ s.dev.rd F.PXR_DEC_STAT_STATE p j = 2) →
      s.dev.pdecChecks p j = .inl (status, seq) → Does (.pxrDecGo p j) s fun t =>
        t.rd F.PXR_DEC_STAT_STATE p j = 2 ∧ t.rd F.PXR_DEC_STAT_STATUS p j = status % 2 ^ 8 ∧
          (s.dev.hub.lost = false → Raised t (pipeEvent p (46 + j)) status)) ∧
    (∀ (j : Fin 4) b, s.dev.reaches .PXR p = true →
      (s.dev.rd F.PXR_DEC_STAT_STATE p j = 0 ∨ s.dev.rd F.PXR_DEC_STAT_STATE p j = 2) → s.dev.pdecChecks p j = .inr b →
      Does (.pxrDecGo p j) s fun t => t.rd F.PXR_DEC_STAT_STATE p j = 1 ∧ t.pjob p j = b ∧
        t.rd F.PXR_DEC_SEQ_SEQ p j = b.seq % 2 ^ 32) ∧
    (∀ j : Fin 4, s.dev.reaches .PXR p = true → s.dev.rd F.PXR_DEC_STAT_STATE p j ≠ 0 → s.dev.rd F.PXR_DEC_STAT_STATE p j ≠ 2 →
      exec (.pxrDecGo p j) s = .next (s.after s.dev)) ∧
    (∀ j : Fin 4, s.dev.reaches .PXR p = true →
      (s.dev.rd F.PXR_DEC_STAT_STATE p j = 1 → exec (.pxrDecAbort p j) s = .next (s.after (s.dev.wr F.PXR_DEC_STAT_STATE 3 p j))) ∧
      (s.dev.rd F.PXR_DEC_STAT_STATE p j ≠ 1 → exec (.pxrDecAbort p j) s = .next (s.after s.dev))) ∧
    (∀ (j : Fin 4) rows, s.dev.rd F.PXR_DEC_STAT_STATE p j = 1 → Does (.pxrDecDone p j rows) s fun t =>
      t.rd F.PXR_DEC_STAT_STATE p j = 2 ∧ ∃ status, (status = 0 ∨ status = 1 ∨ status = 3) ∧
        t.rd F.PXR_DEC_STAT_STATUS p j = status ∧ (status = 0 → t.rd F.PXR_DEC_RES_CROWS p j = 0) ∧
        (s.dev.hub.lost = false → Raised t (pipeEvent p (46 + j)) status)) ∧
    (∀ (j : Fin 4) rows, s.dev.rd F.PXR_DEC_STAT_STATE p j = 3 → Does (.pxrDecDone p j rows) s fun t =>
      t.rd F.PXR_DEC_STAT_STATE p j = 2 ∧ t.rd F.PXR_DEC_STAT_STATUS p j = 0x16 ∧
        (s.dev.hub.lost = false → Raised t (pipeEvent p (46 + j)) 0x16)) ∧
    (∀ (j : Fin 4) rows, s.dev.rd F.PXR_DEC_STAT_STATE p j ≠ 1 → s.dev.rd F.PXR_DEC_STAT_STATE p j ≠ 3 →
      exec (.pxrDecDone p j rows) s = .next (s.after s.dev))

/-- The Veraison units: with EN clear a pair is discarded, with no room at the outputs it waits (R283, R291), a pair read through
uncorrectable table words is counted (R307); a sound word goes to the inactive bank, a word for a complete table sets EXTRA, for a bad one
nothing, while a job holds the context REFUSED (R295, R297, R304); an unsound word makes the bank bad and raises VRS_BAD_TABLE; RST, ARM,
DISARM and FORCE (R299, R302); a table read (R308). -/
def Obligations.Veraison : Prop :=
  ∀ (s : State) (p : Pipe) (u : Fin 8), s.awake →
    (∀ flaw, s.dev.on F.VRS_CFG_EN p u = true → s.dev.vrsRoom p u = false →
      exec (.vrsPixelPair p u flaw) s = .next (s.after s.dev)) ∧
    (∀ flaw r tok, s.dev.on F.VRS_CFG_EN p u = true → s.dev.vrsRoom p u = true → s.dev.on F.VRS_CFG_IN2 p u = false →
      s.dev.offered p (.vrs (u / 2) (2 * (u % 2))) = some (r, tok) → s.dev.cnt C.VRS_UNC_CNT p < 2 ^ 48 →
      Does (.vrsPixelPair p u flaw) s fun t => (t.vru p u).moved = !tok.flags.eof ∧
        (t.vru p u).pairs = (if tok.flags.eol then 0 else (s.dev.vru p u).pairs + 1) ∧
        t.cnt C.VRS_UNC_CNT p = (if flaw = .multiple then min (2 ^ 48 - 1) (s.dev.cnt C.VRS_UNC_CNT p + 1)
          else s.dev.cnt C.VRS_UNC_CNT p)) ∧
    (∀ flaw, s.dev.on F.VRS_CFG_EN p u = false → exec (.vrsPixelPair p u flaw) s = .next (s.after
      (((s.dev.accept p (.vrs (u / 2) (2 * (u % 2)))).accept p (.vrs (u / 2) (2 * (u % 2) + 1))).flow p))) ∧
    (∀ k : Fin 128, s.dev.rd F.CASK_BIND_CONS p k ≠ 0x2060 + u.val → exec (.vrsUploadItem p u k) s = .next (s.after s.dev)) ∧
    (∀ (k : Fin 128) w rest, s.dev.rd F.CASK_BIND_CONS p k = 0x2060 + u.val → (s.dev.cask p k).marker = false →
      (s.dev.cask p k).words = w :: rest → w.fin = true → Does (.vrsUploadItem p u k) s fun t =>
        (t.cask p k).words = rest ∧ (t.vru p u).inItem = false ∧ (t.vru p u).sel = none) ∧
    (s.dev.reaches .VRS p = true →
      (∀ (t : Fin 5) w, s.dev.on F.VRS_BANK_STAT_HELD p u = true →
        exec (.vrsTportWrite p u t w) s = .next (s.after (s.dev.wr F.VRS_BANK_STAT_REFUSED 1 p u))) ∧
      (∀ (t : Fin 5) w, s.dev.on F.VRS_BANK_STAT_HELD p u = false → (s.dev.vrsBack p u t).bad = true →
        exec (.vrsTportWrite p u t w) s = .next (s.after s.dev)) ∧
      (∀ (t : Fin 5) w, s.dev.on F.VRS_BANK_STAT_HELD p u = false → (s.dev.vrsBack p u t).bad = false →
        (s.dev.vrsBack p u t).complete t = true →
        exec (.vrsTportWrite p u t w) s = .next (s.after (s.dev.wr F.VRS_BANK_STAT_EXTRA 1 p u))) ∧
      (∀ (t : Fin 5) (w : Word), s.dev.on F.VRS_BANK_STAT_HELD p u = false → (s.dev.vrsBack p u t).bad = false →
        (s.dev.vrsBack p u t).complete t = false → Does (.vrsTportWrite p u t w) s fun a =>
          (vrsWordOk t (s.dev.vrsBack p u t).ptr w.toNat = true →
            a.vrsBack p u t = { s.dev.vrsBack p u t with
              words := Tab.set 0 (s.dev.vrsBack p u t).words (s.dev.vrsBack p u t).ptr w.toNat,
              ptr := (s.dev.vrsBack p u t).ptr + 1 }) ∧
          (vrsWordOk t (s.dev.vrsBack p u t).ptr w.toNat = false →
            a.vrsBack p u t = { s.dev.vrsBack p u t with bad := true } ∧
              (s.dev.hub.lost = false → Raised a (pipeEvent p 40) (vrsSyn u (2 ^ t.val))))) ∧
      (∀ mask, mask ≠ 0 → s.dev.on F.VRS_BANK_STAT_HELD p u = true →
        exec (.vrsBankRst p u mask) s = .next (s.after (s.dev.wr F.VRS_BANK_STAT_REFUSED 1 p u)) ∧
        exec (.vrsArm p u mask) s = .next (s.after (s.dev.wr F.VRS_BANK_STAT_REFUSED 1 p u))) ∧
      (exec (.vrsBankRst p u 0) s = .next (s.after s.dev) ∧ exec (.vrsArm p u 0) s = .next (s.after s.dev)) ∧
      (∀ mask : BitVec 5, mask ≠ 0 → s.dev.on F.VRS_BANK_STAT_HELD p u = false → Does (.vrsBankRst p u mask) s fun a =>
        ∀ t : Fin 5, a.vrsBack p u t =
          if bit mask.toNat t then (s.dev.vrsBack p u t).rst t else s.dev.vrsBack p u t) ∧
      (∀ mask : BitVec 5, mask ≠ 0 → s.dev.on F.VRS_BANK_STAT_HELD p u = false → Does (.vrsArm p u mask) s fun a =>
        a.rd F.VRS_BANK_STAT_ARMED p u = Nat.lor (s.dev.rd F.VRS_BANK_STAT_ARMED p u) mask.toNat % 2 ^ 5 ∧
          (a.vru p u).lateSeen = false) ∧
      exec (.vrsDisarm p u) s = .next (s.after (s.dev.wr F.VRS_BANK_STAT_ARMED 0 p u)) ∧
      (s.dev.on F.VRS_BANK_STAT_HELD p u = false → (s.dev.vru p u).moved = false → s.dev.rd F.VRS_BANK_STAT_ARMED p u ≠ 0 →
        (∀ t ∈ tablesOf (s.dev.rd F.VRS_BANK_STAT_ARMED p u), (s.dev.vrsBack p u t).complete t = true) →
        Does (.vrsForce p u) s fun a => a.rd F.VRS_BANK_STAT_ARMED p u = 0 ∧
          a.rd F.VRS_BANK_STAT_ACTIVE p u =
            Nat.xor (s.dev.rd F.VRS_BANK_STAT_ACTIVE p u) (s.dev.rd F.VRS_BANK_STAT_ARMED p u) % 2 ^ 5 ∧
          (s.dev.hub.lost = false → Raised a (pipeEvent p 38) (vrsSyn u (s.dev.rd F.VRS_BANK_STAT_ARMED p u)))) ∧
      (s.dev.on F.VRS_BANK_STAT_HELD p u = false →
        ((s.dev.vru p u).moved = true ∨ s.dev.rd F.VRS_BANK_STAT_ARMED p u = 0 ∨
          ∃ t ∈ tablesOf (s.dev.rd F.VRS_BANK_STAT_ARMED p u), (s.dev.vrsBack p u t).complete t = false) →
        exec (.vrsForce p u) s = .next (s.after s.dev)) ∧
      (∀ w : Word, Does (.vrsTableRead p u w) s fun a => a.on F.VRS_TRD_STAT_VALID p u = false ∧
        a.on F.VRS_TRD_ADDR_BANK p u = bit w.toNat 31 ∧ a.rd F.VRS_TRD_ADDR_TABLE p u = slice w.toNat 26 24 ∧
        a.rd F.VRS_TRD_ADDR_WORD p u = slice w.toNat 19 0 ∧
        (a.vru p u).reading = (decide (slice w.toNat 26 24 ≤ 4) &&
          decide (slice w.toNat 19 0 < (a.vrsReadTab p u).length (slice w.toNat 26 24))))) ∧
    (∀ flaw, (s.dev.vru p u).reading = true → Does (.vrsTableReadDone p u flaw) s fun a =>
      a.rd F.VRS_TRD_DATA_DATA p u =
        (s.dev.vrsReadTab p u).word (s.dev.rd F.VRS_TRD_ADDR_TABLE p u) (s.dev.rd F.VRS_TRD_ADDR_WORD p u) % 2 ^ 32 ∧
      a.on F.VRS_TRD_STAT_VALID p u = true ∧ a.on F.VRS_TRD_STAT_UNC p u = (flaw == .multiple) ∧
      a.on F.VRS_TRD_STAT_CORR p u = (flaw == .single) ∧ (a.vru p u).reading = false) ∧
    (∀ flaw, (s.dev.vru p u).reading = false → exec (.vrsTableReadDone p u flaw) s = .next (s.after s.dev))

/-- Statistics: only the context that a cask names as its consumer reads it (R311); HOLD holds the latest bank, RELEASE frees it, HOLD with
no latest bank changes nothing (R318); a result that reaches the Hub waits in its group's merge until every pipe of the group has sent
one, or MWIN has passed (R320, R322). -/
def Obligations.Statistics : Prop :=
  ∀ (s : State) (p : Pipe) (x : Fin 4), s.awake →
    (∀ (k : Fin 128) flaw, s.dev.rd F.CASK_BIND_CONS p k ≠ 0x2070 + x.val →
      exec (.statInputWord p x k flaw) s = .next (s.after s.dev)) ∧
    (∀ (k : Fin 128) w rest, s.dev.rd F.CASK_BIND_CONS p k = 0x2070 + x.val → (s.dev.cask p k).marker = false →
      (s.dev.cask p k).words = w :: rest → Does (.statInputWord p x k .ok) s fun t =>
        (t.cask p k).words = rest ∧ (t.cask p k).transit = (s.dev.cask p k).transit + 1 ∧ (t.cask p k).out = some w) ∧
    (∀ (k : Fin 128) flaw, s.dev.rd F.CASK_BIND_CONS p k = 0x2070 + x.val → (s.dev.cask p k).marker = true →
      Does (.statInputWord p x k flaw) s fun t => (t.cask p k).marker = false) ∧
    (∀ b, s.dev.reaches .STAT p = true → (s.dev.sctx p x).latest = some b →
      Does (.statHold p x) s fun t => (t.sctx p x).held = some b ∧ (t.sctx p x).latest = none) ∧
    (s.dev.reaches .STAT p = true → (s.dev.sctx p x).latest = none → exec (.statHold p x) s = .next (s.after s.dev)) ∧
    (s.dev.reaches .STAT p = true →
      Does (.statRelease p x) s fun t => (t.sctx p x).held = none ∧ (t.sctx p x).latest = (s.dev.sctx p x).latest) ∧
    ((s.dev.sctx p x).sent = none → exec (.statResultArrival p x) s = .next (s.after s.dev)) ∧
    (∀ b g, (s.dev.sctx p x).sent = some b → g = s.dev.rd F.STAT_CFG_MGRP p x → s.dev.hub.lost = false →
      s.dev.on F.HUB_STM_CFG_EN 0 g = true → bit (s.dev.rd F.HUB_STM_CFG_PIPES 0 g) p = true →
      (∀ y ∈ (Tab.get {} s.dev.hub.merges g).parts, y.1 ≠ p.val) →
      (∃ n, n < 4 ∧ n ≠ p.val ∧ bit (s.dev.rd F.HUB_STM_CFG_PIPES 0 g) n = true ∧
        ∀ y ∈ (Tab.get {} s.dev.hub.merges g).parts, y.1 ≠ n) →
      Does (.statResultArrival p x) s fun t => (t.sctx p x).sent = none ∧ (Tab.get {} t.hub.merges g).open_ = true ∧
        (Tab.get {} t.hub.merges g).parts = (Tab.get {} s.dev.hub.merges g).parts ++ [(p.val, b)]) ∧
    (∀ b g, (s.dev.sctx p x).sent = some b → g = s.dev.rd F.STAT_CFG_MGRP p x →
      (s.dev.hub.lost = true ∨ s.dev.on F.HUB_STM_CFG_EN 0 g = false ∨ bit (s.dev.rd F.HUB_STM_CFG_PIPES 0 g) p = false) →
      exec (.statResultArrival p x) s = .next (s.after (s.dev.putSctx p x { s.dev.sctx p x with sent := none }))) ∧
    (∀ g : Fin 4, (Tab.get {} s.dev.hub.merges g).open_ = true → s.dev.hub.lost = false →
      Does (.statMergeTimeout g) s fun t => (Tab.get {} t.hub.merges g).open_ = false ∧ (Tab.get {} t.hub.merges g).parts = []) ∧
    (∀ g : Fin 4, ((Tab.get {} s.dev.hub.merges g).open_ = false ∨ s.dev.hub.lost = true) →
      exec (.statMergeTimeout g) s = .next (s.after s.dev))

/-- The block coder of a pipe: a selected input frame goes into the frame store or is dropped with its event (R371, R374); a context codes
one frame of its store at a time and shows the SEQ and QAVG of the unit it has emitted (R369, R373); GO makes the shadow copies pending,
CANCEL discards them (R381); KEY and REFRESH (R390); a decoder session checks the unit at GO, ABORT and RESET, and ends with its status and
event (R395 to R398). -/
def Obligations.BlockCoder : Prop :=
  ∀ (s : State) (p : Pipe), s.awake →
    (∀ (c : Fin 16) (k : Fin 4) t psn, (s.dev.stopped = true ∨
        s.dev.bsHeld p = [] ∧ s.dev.inArun p = false ∧ s.dev.bsOn p c k = false ∧ (s.dev.bs p c k).marked = false) →
      exec (.blkFrameInput p c k t psn) s = .next (s.after s.dev)) ∧
    (∀ (c : Fin 16) (k : Fin 4) t psn t0 seq pts, s.dev.stopped = false → s.dev.bsOn p c k = true →
      s.dev.on F.BLK_SSTAT_STOPPED p c k = false → (s.dev.bs p c k).tstart = some t0 → s.dev.bsSelect p c k t0 t = some (seq, pts) →
      (s.dev.bs p c k).old = [] → (s.dev.bs p c k).marked = false → s.dev.inArun p = false →
      Does (.blkFrameInput p c k t psn) s fun a =>
        ((s.dev.bs p c k).store.length + b2n (s.dev.bs p c k).job.isSome ≤ s.dev.rd F.BLK_SCFG_FSTORE p c k →
          (a.bs p c k).store = (s.dev.bs p c k).store ++ [⟨seq, pts, (s.dev.bs p c k).keyReq, (s.dev.bs p c k).refReq, psn, false⟩]) ∧
        (s.dev.rd F.BLK_SCFG_FSTORE p c k < (s.dev.bs p c k).store.length + b2n (s.dev.bs p c k).job.isSome →
          (a.bs p c k).store = (s.dev.bs p c k).store ∧ (s.dev.hub.lost = false → Raised a (pipeEvent p 52) (bsSyn c k seq)))) ∧
    (∀ (c : Fin 16) (k n : Fin 4) b f, s.dev.stopped = false → (s.dev.bs p c k).store[n.val]? = some f → s.dev.ctxBusy p c = false →
      (s.dev.bs p c k).old = [] → s.dev.bsOn p c k = true → s.dev.on F.BLK_SSTAT_STOPPED p c k = false → n.val ≤ s.dev.rd F.BLK_SGOP_NB p c k →
      (b = true → s.dev.rd F.BLK_SGOP_NB p c k ≠ 0) → (s.dev.cask p (s.dev.rd F.BLK_SPORT_OCASK p c k)).wait = [] →
      Does (.blkFrameCodeStart p c k n b) s fun a => (a.bs p c k).store = (s.dev.bs p c k).store.eraseIdx n ∧
        ∃ j, (a.bs p c k).job = some j ∧ j.frame = f ∧ (j.bframe = true → b = true ∧ j.key = false)) ∧
    (∀ (c : Fin 16) (k n : Fin 4) b, (s.dev.stopped = true ∨ (s.dev.bs p c k).store[n.val]? = none ∨ s.dev.ctxBusy p c = true) →
      exec (.blkFrameCodeStart p c k n b) s = .next (s.after s.dev)) ∧
    (∀ (c : Fin 16) (k : Fin 4) bytes qps qavg capped j, s.dev.stopped = false → (s.dev.bs p c k).job = some j →
      s.dev.cnt C.BLK_CNT p 0 < 2 ^ 48 → Does (.blkFrameCoded p c k bytes qps qavg capped) s fun a =>
        (a.bs p c k).job = none ∧ a.rd F.BLK_SSTAT_SEQ p c k = j.frame.seq % 2 ^ 16 ∧
          (∃ cp : Bool, (capped = true → fmtCodec (s.dev.bsRd F.BLK_SCFG_FMT p c k) ≠ 4 → cp = true) ∧
            a.rd F.BLK_SSTAT_QAVG p c k = (if fmtCodec (s.dev.bsRd F.BLK_SCFG_FMT p c k) = 4 then qavg
              else s.dev.tileQp p c k j.qc cp (meanQp (s.dev.blockQps p c k qps qavg))) % 2 ^ 8) ∧
          a.cnt C.BLK_CNT p 0 = min (2 ^ 48 - 1) (s.dev.cnt C.BLK_CNT p 0 + 1) ∧
          (j.frame.psn = true → s.dev.hub.lost = false → Raised a (pipeEvent p 50) (bsSyn c k j.frame.seq))) ∧
    (∀ (c : Fin 16) (k : Fin 4) bytes qps qavg capped, s.dev.stopped = false → (s.dev.bs p c k).job = none → s.dev.bsHeld p = [] →
      exec (.blkFrameCoded p c k bytes qps qavg capped) s = .next (s.after s.dev)) ∧
    (∀ (c : Fin 16) (k : Fin 4) bytes qps qavg capped, s.dev.stopped = true → exec (.blkFrameCoded p c k bytes qps qavg capped) s = .next (s.after s.dev)) ∧
    (s.dev.reaches .BLK p = true →
      (∀ (c : Fin 16) at_ (aseq : BitVec 16), Does (.blkCtxUpdGo p c at_ aseq) s fun a => ∀ k : Fin 4,
        (s.dev.on F.BLK_SCFG_EN p c k = true → (a.bs p c k).pend = some (at_, aseq.toNat, s.dev.blkShadow p c) ∧
          a.on F.BLK_SSTAT_PEND p c k = true) ∧
        (s.dev.on F.BLK_SCFG_EN p c k = false → a.bs p c k = s.dev.bs p c k)) ∧
      (∀ c : Fin 16, Does (.blkCtxUpdCancel p c) s fun a => ∀ k : Fin 4,
        (a.bs p c k).pend = none ∧ a.on F.BLK_SSTAT_PEND p c k = false) ∧
      (∀ (c : Fin 16) (k : Fin 4), s.dev.bsTiled p c k = false → exec (.blkSctlKey p c k) s =
        .next (s.after (s.dev.putBs p c k { s.dev.bs p c k with keyReq := true }))) ∧
      (∀ (c : Fin 16) (k : Fin 4), s.dev.bsTiled p c k = true → s.dev.hub.lost = false → Does (.blkSctlKey p c k) s fun a =>
        (a.asmG (s.dev.rd F.BLK_SGOP_GROUP p c k)).key = true) ∧
      (∀ (c : Fin 16) (k : Fin 4), s.dev.bsTiled p c k = true → exec (.blkSctlRefresh p c k) s =
        .next (s.after (s.dev.putBs p c k { s.dev.bs p c k with refReq := true }))) ∧
      (∀ (c : Fin 16) (k : Fin 4), s.dev.bsTiled p c k = false → exec (.blkSctlRefresh p c k) s = .next (s.after s.dev)) ∧
      (∀ (j : Fin 4) h, s.dev.rd F.BLK_DEC_STAT_STATE p j ≠ 0 → s.dev.rd F.BLK_DEC_STAT_STATE p j ≠ 2 →
        exec (.blkDecGo p j h) s = .next (s.after s.dev)) ∧
      (∀ (j : Fin 4) h, (s.dev.rd F.BLK_DEC_STAT_STATE p j = 0 ∨ s.dev.rd F.BLK_DEC_STAT_STATE p j = 2) →
        s.dev.dramInMap p (s.dev.rd64 F.BLK_DEC_SRC_LO_ADDR_LO F.BLK_DEC_SRC_HI_ADDR_HI p j)
          (s.dev.rd F.BLK_DEC_SLEN_LEN p j) = false → Does (.blkDecGo p j h) s fun a =>
          a.rd F.BLK_DEC_STAT_STATE p j = 2 ∧ a.rd F.BLK_DEC_STAT_STATUS p j = 0x14 ∧
            (s.dev.hub.lost = false → Raised a (pipeEvent p (55 + j)) 0x14)) ∧
      (∀ (j : Fin 4) h src dst pool u, (s.dev.rd F.BLK_DEC_STAT_STATE p j = 0 ∨ s.dev.rd F.BLK_DEC_STAT_STATE p j = 2) →
        src = s.dev.rd64 F.BLK_DEC_SRC_LO_ADDR_LO F.BLK_DEC_SRC_HI_ADDR_HI p j →
        dst = s.dev.rd64 F.BLK_DEC_DST_LO_ADDR_LO F.BLK_DEC_DST_HI_ADDR_HI p j →
        pool = s.dev.rd64 F.BLK_DEC_POOL_LO_ADDR_LO F.BLK_DEC_POOL_HI_ADDR_HI p j →
        s.dev.dramInMap p src (s.dev.rd F.BLK_DEC_SLEN_LEN p j) = true →
        s.dev.dramInMap p dst (s.dev.rd F.BLK_DEC_DLEN_LEN p j) = true →
        s.dev.dramInMap p pool (s.dev.rd F.BLK_DEC_PLEN_LEN p j) = true →
        (s.dev.dramRead p (0x20 + j) src (min 32 (s.dev.rd F.BLK_DEC_SLEN_LEN p j))).1 = u →
        (s.dev.dramRead p (0x20 + j) src (min 32 (s.dev.rd F.BLK_DEC_SLEN_LEN p j))).2.1 = false →
        u.length = 32 → unitField u 0 4 = 0x554B4C42 → crc32c (u.take 30) % 2 ^ 16 = unitField u 30 2 → bit (unitField u 5 1) 4 = false →
        unitField u 0x18 4 + 32 ≤ s.dev.rd F.BLK_DEC_SLEN_LEN p j → unitField u 4 1 ≤ 39 → h.supported = true →
        (bit (unitField u 5 1) 0 = true ∨ (s.dev.bdec p j).heads = true) →
        2 * h.width ≤ 8 * s.dev.rd F.BLK_DEC_STRIDE_STRIDE8 p j →
        8 * s.dev.rd F.BLK_DEC_STRIDE_STRIDE8 p j * planeRows (unitField u 4 1) h.height ≤ s.dev.rd F.BLK_DEC_DLEN_LEN p j →
        h.refs ≤ s.dev.rd F.BLK_DEC_PLEN_LEN p j → Does (.blkDecGo p j h) s fun a =>
          a.rd F.BLK_DEC_STAT_STATE p j = 1 ∧ (a.bdec p j).heads = true ∧ (a.bdec p j).fmt = unitField u 4 1 ∧
            (a.bdec p j).key = bit (unitField u 5 1) 0) ∧
      (∀ j : Fin 4, s.dev.rd F.BLK_DEC_STAT_STATE p j = 1 →
        exec (.blkDecAbort p j) s = .next (s.after (s.dev.wr F.BLK_DEC_STAT_STATE 3 p j))) ∧
      (∀ j : Fin 4, s.dev.rd F.BLK_DEC_STAT_STATE p j ≠ 1 → exec (.blkDecAbort p j) s = .next (s.after s.dev)) ∧
      (∀ j : Fin 4, s.dev.rd F.BLK_DEC_STAT_STATE p j ≠ 1 →
        exec (.blkDecReset p j) s = .next (s.after ((s.dev.putBdec p j {}).wr F.BLK_DEC_STAT_DRIFT 0 p j))) ∧
      (∀ j : Fin 4, s.dev.rd F.BLK_DEC_STAT_STATE p j = 1 →
        exec (.blkDecReset p j) s = .next (s.after s.dev))) ∧
    (∀ (j : Fin 4) pic, s.dev.stopped = false → s.dev.rd F.BLK_DEC_STAT_STATE p j = 1 →
      (Does (.blkDecDone p j pic) s fun a => a.rd F.BLK_DEC_STAT_STATE p j = 2 ∧
        a.rd F.BLK_DEC_STAT_STATUS p j = (if pic.noRef then 3 else if pic.areas = 0 then 0 else 1) ∧
        a.rd F.BLK_DEC_RES_CBLK p j = min 0xFFFF pic.areas ∧
        a.on F.BLK_DEC_STAT_DRIFT p j = (pic.areas != 0 || (s.dev.on F.BLK_DEC_STAT_DRIFT p j && !(s.dev.bdec p j).key))) ∧
      (Does (.blkDecBudgetExpiry p j pic) s fun a => a.rd F.BLK_DEC_STAT_STATE p j = 2 ∧ a.rd F.BLK_DEC_STAT_STATUS p j = 2 ∧
        (s.dev.hub.lost = false → Raised a (pipeEvent p (55 + j)) 2))) ∧
    (∀ (j : Fin 4) pic, s.dev.stopped = false → s.dev.rd F.BLK_DEC_STAT_STATE p j = 3 →
      Does (.blkDecDone p j pic) s fun a => a.rd F.BLK_DEC_STAT_STATE p j = 2 ∧ a.rd F.BLK_DEC_STAT_STATUS p j = 0x15) ∧
    (∀ (j : Fin 4) pic, (s.dev.stopped = true ∨
        (s.dev.rd F.BLK_DEC_STAT_STATE p j ≠ 1 ∧ s.dev.rd F.BLK_DEC_STAT_STATE p j ≠ 3)) →
      exec (.blkDecDone p j pic) s = .next (s.after s.dev) ∧ exec (.blkDecBudgetExpiry p j pic) s = .next (s.after s.dev))

/-- The Hub's assembly path: setting EN starts a group, with EN set only EN may change (R384); a tile unit of a group that runs joins its
frame, and the frame closes with the last pipe's unit or when its window has passed; a unit of a closed frame is discarded (R386); the
coordinator's messages reach the pipes' streams in order (R388). -/
def Obligations.Assembly : Prop :=
  ∀ (s : State) (g : Fin 64), s.awake →
    (∀ w : Word, s.dev.reaches .HUB_CTL 0 = true → s.dev.on F.HUB_ASM_CFG_EN 0 g = false → bit w.toNat 31 = true →
      Does (.asmGroupEnable g w) s fun t => t.on F.HUB_ASM_CFG_EN 0 g = true ∧ t.on F.HUB_ASM_STAT_STARTED 0 g = true ∧
        t.rd F.HUB_ASM_CFG_PIPES 0 g = slice w.toNat 27 24 ∧ t.rd F.HUB_ASM_CFG_FMT 0 g = slice w.toNat 23 18 ∧
        t.asmG g = { tstart := (t.asmG g).tstart } ∧ (t.asmG g).tstart.isSome = true ∧
        ∀ p ∈ t.asmPipes g, nsOf (s.dev.latestFs p) ≤ (t.asmG g).tstart.getD 0 ∧
          ∀ y, t.bsOfGroup p g = some y → (t.bs p y.1 y.2).tstart = (t.asmG g).tstart) ∧
    (∀ w : Word, s.dev.reaches .HUB_CTL 0 = true → s.dev.on F.HUB_ASM_CFG_EN 0 g = true →
      s.dev.sameBut ⟨.HUB_ASM_CFG, 0, g, 0⟩ F.HUB_ASM_CFG_EN w.toNat = false → exec (.asmGroupEnable g w) s = .next (s.after s.dev)) ∧
    (∀ w : Word, s.dev.reaches .HUB_CTL 0 = true → s.dev.on F.HUB_ASM_CFG_EN 0 g = true → bit w.toNat 31 = false →
      s.dev.sameBut ⟨.HUB_ASM_CFG, 0, g, 0⟩ F.HUB_ASM_CFG_EN w.toNat = true →
      Does (.asmGroupEnable g w) s fun t => t.on F.HUB_ASM_CFG_EN 0 g = false ∧ t.on F.HUB_ASM_STAT_STARTED 0 g = false ∧
        t.asmG g = {}) ∧
    (∀ (p : Pipe) u, u.group % 64 = g.val →
      (s.dev.hub.lost = true ∨ s.dev.on F.HUB_ASM_STAT_STARTED 0 g = false ∨ p.val ∉ s.dev.asmPipes g ∨
        u.seq ∈ (s.dev.asmG g).closed ∨ (s.dev.pasmOf u.input).isSome = true) → exec (.asmTileUnit p u) s = .next (s.after s.dev)) ∧
    (∀ (p : Pipe) u f, u.group % 64 = g.val → s.dev.hub.lost = false → s.dev.on F.HUB_ASM_STAT_STARTED 0 g = true →
      p.val ∈ s.dev.asmPipes g → u.seq ∉ (s.dev.asmG g).closed → s.dev.pasmOf u.input = none →
      f = ((s.dev.asmG g).frames.find? fun x => x.seq == u.seq).getD ⟨u.seq, s.dev.c, []⟩ →
      Does (.asmTileUnit p u) s fun t =>
        (s.dev.asmFull g { f with units := f.units ++ [(p.val, u)] } = false →
          (t.asmG g).frames = ((s.dev.asmG g).frames.filter fun y => y.seq != u.seq) ++ [{ f with units := f.units ++ [(p.val, u)] }] ∧
            (t.asmG g).closed = (s.dev.asmG g).closed) ∧
        (s.dev.asmFull g { f with units := f.units ++ [(p.val, u)] } = true →
          u.seq ∈ (t.asmG g).closed ∧ ∀ y ∈ (t.asmG g).frames, y.seq ≠ u.seq)) ∧
    (∀ seq f, ((s.dev.asmG g).frames.find? fun f => f.seq == seq) = some f → s.dev.hub.lost = false →
      Does (.asmWindowExpiry g seq) s fun t => seq ∈ (t.asmG g).closed ∧ ∀ y ∈ (t.asmG g).frames, y.seq ≠ seq) ∧
    (∀ seq, ((∀ f ∈ (s.dev.asmG g).frames, f.seq ≠ seq) ∨ s.dev.hub.lost = true) →
      exec (.asmWindowExpiry g seq) s = .next (s.after s.dev)) ∧
    (∀ (p : Pipe) n m, ((s.dev.asmG g).msgs.find? fun m => m.1 == p.val) = some (n, m) →
      Does (.rcCoordinatorMessage p g) s fun t => (t.asmG g).msgs = (s.dev.asmG g).msgs.erase (n, m) ∧
        ∀ c k, s.dev.bsOfGroup p g = some (c, k) → (t.bs p c k).msgs = (s.dev.bs p c k).msgs ++ [m]) ∧
    (∀ p : Pipe, (∀ m ∈ (s.dev.asmG g).msgs, m.1 ≠ p.val) → exec (.rcCoordinatorMessage p g) s = .next (s.after s.dev))

/-- Cellar streams and the levels of the record buffer: a command is discarded while another runs; OPEN gives a handle to a free slot,
or ends with the RESULT of the check that failed (R431, R455); CLOSE closes the stream its handle names, RESULT 5 where there is none (R432); a
level that the record buffer crosses is shown until the occupancy has fallen below it (R426). -/
def Obligations.CellarStreams : Prop :=
  ∀ (s : State) (p : Pipe), s.awake →
    (s.dev.reaches .CELP p = true →
      (s.dev.on F.CELP_STRM_CMD_GO p = true →
        exec (.streamOpen p) s = .next (s.after s.dev) ∧ ∀ hd, exec (.streamClose p hd) s = .next (s.after s.dev)) ∧
      (s.dev.on F.CELP_STRM_CMD_GO p = false →
        ((∀ k, k < 64 → (s.dev.strm p k).open_ = true) → Does (.streamOpen p) s fun t =>
          t.rd F.CELP_STRM_RES_RESULT p = 1 ∧ t.on F.CELP_STRM_CMD_GO p = false ∧ t.on F.CELP_STRM_RES_BUSY p = false) ∧
        (∀ k ns slba nlb, ((List.range 64).find? fun k => !(s.dev.strm p k).open_) = some k →
          slba = s.dev.rd64 F.CELP_STRM_SLBA_LO_SLBA_LO F.CELP_STRM_SLBA_HI_SLBA_HI p → nlb = s.dev.rd F.CELP_STRM_NLB_NLB p →
          s.dev.rd F.CELP_STRM_NS_NSID p ≠ 0 → nsPlace (s.dev.rd F.CELP_STRM_NS_NSID p) = (p.val, ns) →
          (s.dev.nsEnt p ns).size ≠ 0 → s.dev.cartState p = 4 →
          Does (.streamOpen p) s fun t => t.on F.CELP_STRM_CMD_GO p = false ∧ t.on F.CELP_STRM_RES_BUSY p = false ∧
            ((nlb = 0 ∨ (s.dev.nsEnt p ns).size < slba + nlb) → t.rd F.CELP_STRM_RES_RESULT p = 3) ∧
            (nlb ≠ 0 → slba + nlb ≤ (s.dev.nsEnt p ns).size → s.dev.on F.CELP_STRM_TAG_TAKE p = false →
              (s.dev.strmOverlap p ns slba nlb = true ∨ s.dev.takeNs p = some ns) → t.rd F.CELP_STRM_RES_RESULT p = 4) ∧
            (nlb ≠ 0 → slba + nlb ≤ (s.dev.nsEnt p ns).size → s.dev.on F.CELP_STRM_TAG_TAKE p = false →
              s.dev.strmOverlap p ns slba nlb = false → s.dev.takeNs p ≠ some ns →
              t.rd F.CELP_STRM_RES_RESULT p = 0 ∧ (t.strm p k).open_ = true ∧ (t.strm p k).ns = ns ∧ (t.strm p k).slba = slba ∧
                (t.strm p k).nlb = nlb ∧ t.rd F.CELP_STRM_RES_HANDLE p = (t.strm p k).handle k % 2 ^ 16)) ∧
        (∀ k, ((List.range 64).find? fun k => !(s.dev.strm p k).open_) = some k →
          (s.dev.rd F.CELP_STRM_NS_NSID p = 0 ∨ s.dev.cartState p ≠ 4) → Does (.streamOpen p) s fun t =>
            t.rd F.CELP_STRM_RES_RESULT p = 2) ∧
        (∀ hd : BitVec 16, Does (.streamClose p hd) s fun t => t.on F.CELP_STRM_CMD_GO p = false ∧
          (s.dev.strmOf p hd.toNat = none → t.rd F.CELP_STRM_RES_RESULT p = 5) ∧
          (∀ k, s.dev.strmOf p hd.toNat = some k → t.rd F.CELP_STRM_RES_RESULT p = 0 ∧ (t.strm p k).open_ = false)))) ∧
    (∀ l : Fin 3, s.dev.rbAbove p (3 + l) = true → s.dev.on (rbHold (3 + l)) p = false → Does (.rbLevelCrossing p l) s fun t =>
      t.on (rbHold (3 + l)) p = true ∧
        (l = 2 → ∀ o, (s.dev.rank5On p).head? = some o → ∃ y ∈ t.router.yields,
          y.origin = p.val ∧ y.yrank = 5 ∧ y.krank = 1 ∧ y.object = o ∧ y.cause = 1 ∧ y.amount = (s.dev.rank5On p).length)) ∧
    (∀ l : Fin 3, (s.dev.rbAbove p (3 + l) = false ∨ s.dev.on (rbHold (3 + l)) p = true) →
      exec (.rbLevelCrossing p l) s = .next (s.after s.dev)) ∧
    (∀ l : Fin 3, s.dev.rbAbove p (3 + l) = false → s.dev.on (rbHold (3 + l)) p = true → Does (.rbLevelRestore p l) s fun t =>
      t.on (rbHold (3 + l)) p = false) ∧
    (∀ l : Fin 3, (s.dev.rbAbove p (3 + l) = true ∨ s.dev.on (rbHold (3 + l)) p = false) →
      exec (.rbLevelRestore p l) s = .next (s.after s.dev))

/-- Takes: START checks in the order of its RESULT codes and begins a take with the next number, or waits while a record
configuration is still to switch (R209, R428); STOP ends the take that
`CEL_TAKE_ARG` names; an expired START ends its take; a take whose streams are all on their cartridges is closed with CEL_TAKE_CLOSED; a
unit that reads sound from the record buffer is committed and leaves it (R429); a drained closing queue becomes idle (R452); a queue's reset ends its stream with
its event (R430). -/
def Obligations.Takes : Prop :=
  ∀ s : State, s.awake →
    (s.dev.reaches .CEL 0 = true →
      (s.dev.on F.CEL_TAKE_CMD_GO = true → ∀ pipes vcs, exec (.takeStart pipes vcs {}) s = .next (s.after s.dev)) ∧
      (s.dev.on F.CEL_TAKE_CMD_GO = true → exec (.takeStop none) s = .next (s.after s.dev)) ∧
      (∀ (pipes : BitVec 4) (vcs : BitVec 16), s.dev.on F.CEL_TAKE_CMD_GO = false → s.dev.boardMode = 0 →
        s.dev.startHolds pipes.toNat = false → Does (.takeStart pipes vcs {}) s fun t =>
          (s.dev.takeNamed pipes.toNat vcs.toNat = [] → t.rd F.CEL_TAKE_STAT_RESULT = 7 ∧ t.on F.CEL_TAKE_CMD_GO = false) ∧
          (∀ r m, s.dev.takeNamed pipes.toNat vcs.toNat ≠ [] → s.dev.takeCheck (s.dev.takeNamed pipes.toNat vcs.toNat) = (r, m) →
            r ≠ 0 → t.rd F.CEL_TAKE_STAT_RESULT = r % 2 ^ 3 ∧ t.rd F.CEL_TAKE_STAT_FPIPE = m % 2 ^ 4 ∧
              t.on F.CEL_TAKE_CMD_GO = false ∧ t.on F.CEL_TAKE_STAT_BUSY = false ∧ t.hub.takes = s.dev.hub.takes) ∧
          (s.dev.takeNamed pipes.toNat vcs.toNat ≠ [] → (s.dev.takeCheck (s.dev.takeNamed pipes.toNat vcs.toNat)).1 = 0 →
            t.rd F.CEL_TAKE_NUM_TAKE = nextTake s.dev.lastTake ∧ t.on F.CEL_TAKE_CMD_GO = true ∧ t.on F.CEL_TAKE_STAT_BUSY = true ∧
              t.hub.takes = s.dev.hub.takes ++
                [{ num := nextTake s.dev.lastTake,
                   qs := (s.dev.takeNamed pipes.toNat vcs.toNat).map fun x => (x.1, x.2.2.getD 0),
                   tstart := (s.dev.takeTimes (s.dev.takeNamed pipes.toNat vcs.toNat)).1 +
                     5 * (s.dev.takeTimes (s.dev.takeNamed pipes.toNat vcs.toNat)).2 / 2 }])) ∧
      (∀ (pipes : BitVec 4) (vcs : BitVec 16), s.dev.on F.CEL_TAKE_CMD_GO = false → s.dev.startHolds pipes.toNat = true →
        Does (.takeStart pipes vcs {}) s fun t => t.on F.CEL_TAKE_CMD_GO = true ∧
          t.hub.startHeld = some (pipes.toNat, vcs.toNat, {}) ∧ t.hub.takes = s.dev.hub.takes) ∧
      (∀ num, num = s.dev.rd F.CEL_TAKE_ARG_TAKE → s.dev.on F.CEL_TAKE_CMD_GO = false → Does (.takeStop none) s fun t =>
        ((∀ r ∈ s.dev.hub.takes, r.num = num → r.ended = true) → t.rd F.CEL_TAKE_STAT_RESULT = 5 ∧ t.on F.CEL_TAKE_CMD_GO = false) ∧
        ((∃ r ∈ s.dev.hub.takes, r.num = num ∧ r.ended = false) → t.on F.CEL_TAKE_STAT_BUSY = true ∧
          ∀ r ∈ t.hub.takes, r.num = num → r.ended = true ∧ r.stopping = true)) ∧
      (∀ num t, s.dev.isFollower = false → exec (.takeStop (some (num, t))) s = .next (s.after s.dev))) ∧
    ((∀ r ∈ s.dev.hub.takes, r.starting = false) → exec .takeStartTimeout s = .next (s.after s.dev)) ∧
    (∀ r, (s.dev.hub.takes.find? fun r => r.starting) = some r → (s.dev.hub.takes.find? fun x => x.num == r.num) = some r →
      Does .takeStartTimeout s fun t => (∀ x ∈ t.hub.takes, x.num = r.num → x.ended = true ∧ x.starting = false) ∧
        (r.ordered = false → t.rd F.CEL_TAKE_STAT_RESULT = 1 ∧ t.on F.CEL_TAKE_CMD_GO = false)) ∧
    (∀ (num : Word) r, (s.dev.hub.takes.find? fun r => r.num == num.toNat && r.ended) = some r →
      (∀ x ∈ r.qs, (s.dev.tq x.1 x.2).take ≠ num.toNat) → (∀ x ∈ r.devs, x ∈ r.devClosed) → Does (.takeClosed num) s fun t =>
        t.hub.takes = (s.dev.hub.takes.filter fun x => x.num != num.toNat) ∧
          (s.dev.hub.lost = false → Raised t 542 (num.toNat % 2 ^ 16)) ∧
          (r.stopping = true → t.rd F.CEL_TAKE_STAT_RESULT = 0 ∧ t.on F.CEL_TAKE_STAT_BUSY = false)) ∧
    (∀ num : Word, (∀ r ∈ s.dev.hub.takes, r.num = num.toNat → r.ended = false) → exec (.takeClosed num) s = .next (s.after s.dev)) ∧
    (∀ (p : Pipe) (t : Fin 8) w flaw q u rest k bs d1 data a, q = s.dev.tq p t → q.recs = u :: rest → s.dev.takeNs p = some k →
      s.dev.cartState p = 4 → q.take ≠ 0 → (s.dev.recbufFlaw p w u flaw).recbufRead p u.place = (bs, false, d1) →
      data = pad8 (bs.take (u.size - u.rest.length) ++ u.rest) →
      ceilDiv (q.bytes + data.length) (4096 * extentLbas) ≤ q.extents.length →
      a = q.extents.getD (q.bytes / (4096 * extentLbas)) 0 + q.bytes % (4096 * extentLbas) / 4096 →
      s.dev.lockBlocks p k a (data.length / 4096 + 1) = false → (s.dev.cel p).locks.length < 1024 →
      Does (.takeUnitCommit p ⟨t, w, flaw⟩) s fun d => (d.tq p t).recs = rest ∧ (d.tq p t).bytes = q.bytes + data.length ∧
        (d.tq p t).extents = q.extents ∧ (u.frame = true → (d.tq p t).lastSeq = u.seq) ∧
        (d.cel p).jbytes = (s.dev.cel p).jbytes + 64) ∧
    (∀ (p : Pipe) (t : Fin 8) w flaw, ((s.dev.tq p t).recs = [] ∨ s.dev.takeNs p = none ∨ s.dev.cartState p ≠ 4 ∨ (s.dev.tq p t).take = 0) →
      exec (.takeUnitCommit p ⟨t, w, flaw⟩) s = .next (s.after s.dev)) ∧
    (∀ p : Pipe, Does (.takeCloseCommitted p) s fun d => ∀ t : Fin 8,
      d.tqState p t = (if s.dev.tqState p t = 3 ∧ s.dev.tqDrained p t = true then 1 else s.dev.tqState p t) ∧
      d.tq p t = (if s.dev.tqState p t = 3 ∧ s.dev.tqDrained p t = true then {} else s.dev.tq p t)) ∧
    (∀ (p : Pipe) (t : Fin 8), s.dev.reaches .CELP p = true → (s.dev.tq p t).take ≠ 0 → Does (.takeQueueReset p t) s fun d =>
      d.tqState p t = 1 ∧ d.tq p t = {} ∧ (s.dev.hub.lost = false → Raised d (pipeEvent p 59) t)) ∧
    (∀ (p : Pipe) (t : Fin 8), s.dev.reaches .CELP p = true → (s.dev.tq p t).take = 0 →
      exec (.takeQueueReset p t) s = .next (s.after (s.dev.caskFlush p (120 + t))))

/-- The end of an NVMe command whose completion queue has room: its range-lock entries are released (R410), the four dwords of the entry
stand at the queue's tail with the status, the identifier and the phase (R402, R416), and the admin queue raises its event. -/
def Obligations.NvmeCompletionEntry : Prop :=
  ∀ (d : Dev) (q cid dw0 st : Nat) (x : NvmeQ), Tab.find d.hub.nvme.cqs q = some x → x.room = true → d.hostOk = true →
    (∀ y ∈ d.hub.nvme.held, y.1 ≠ q) → d.hub.nvme.dels = [] →
    d.hub.nvme.closing = false →
    (∀ p : Pipe, ∀ e ∈ ((d.nvEnd q cid dw0 st).cel p).locks, ¬(e.q = q ∧ e.cid = cid)) ∧
    Mem.readLe (d.nvEnd q cid dw0 st).hostMem (x.base + 16 * x.tail) 4 = dw0 % 2 ^ 32 ∧
    Mem.readLe (d.nvEnd q cid dw0 st).hostMem (x.base + 16 * x.tail + 12) 4 =
      (cid + 2 ^ 17 * st + if x.phase then 2 ^ 16 else 0) % 2 ^ 32 ∧
    Tab.find (d.nvEnd q cid dw0 st).hub.nvme.cqs q =
      some (if x.tail + 1 < x.size then { x with tail := x.tail + 1 } else { x with tail := 0, phase := !x.phase }) ∧
    (q = 0 → Raised (d.nvEnd q cid dw0 st) 540 0)

/-- The NVMe controller and its queues: enabling and disabling (R399, R420), the doorbells and their Error events (R401), the fetch of the
command at the head of a queue (R403, R404), the creation and deletion of I/O queues (R400, R419); a command that was not fetched is not
served, and a controller that does not serve its queues does nothing with them. -/
def Obligations.NvmeQueues : Prop :=
  ∀ s : State, s.awake →
    (∀ cc aqa asq acq, (s.dev.hub.nvme.en = true ∨ s.dev.hub.nvme.closing = true ∨ bit cc.toNat 0 = false ∨
        s.dev.hub.lost = true) →
      exec (.controllerEnable cc aqa asq acq) s = .next (s.after s.dev)) ∧
    (∀ (cc aqa : Word) (asq acq : BitVec 64), s.dev.hub.nvme.en = false → s.dev.hub.nvme.closing = false → bit cc.toNat 0 = true → s.dev.hub.lost = false →
      Does (.controllerEnable cc aqa asq acq) s fun t =>
        t.hub.nvme = { s.dev.hub.nvme with
          en := true, rdy := true, mps := slice cc.toNat 10 7,
          sqs := [(0, { base := asq.toNat, size := slice aqa.toNat 11 0 + 1 })],
          cqs := [(0, { base := acq.toNat, size := slice aqa.toNat 27 16 + 1 })] }) ∧
    (s.dev.hub.nvme.en = false → exec .controllerDisable s = .next (s.after s.dev)) ∧
    (s.dev.hub.nvme.en = true → Does .controllerDisable s fun t => t.hub.nvme.en = false ∧
      ((∀ y ∈ s.dev.hub.nvme.cmds, y.q = 0) → t.hub.nvme.rdy = false ∧ t.hub.nvme.closing = false ∧
        t.hub.nvme.sqs = [] ∧ t.hub.nvme.cqs = [] ∧ t.hub.nvme.cmds = [] ∧ t.hub.nvme.aers = []) ∧
      ((∃ y ∈ s.dev.hub.nvme.cmds, y.q ≠ 0) → (∀ y ∈ s.dev.hub.nvme.cmds, y.q ≠ 0 → 2 ≤ y.stage) →
        t.hub.nvme.closing = true ∧ t.hub.nvme.rdy = s.dev.hub.nvme.rdy ∧ t.hub.nvme.cmds = s.dev.hub.nvme.cmds)) ∧
    (∀ (q : Fin 513) (v : BitVec 16), s.dev.nvLive = false → exec (.sqDoorbell q v) s = .next (s.after s.dev) ∧
      exec (.cqDoorbell q v) s = .next (s.after s.dev)) ∧
    (∀ (q : Fin 513) (v : BitVec 16) x, s.dev.nvLive = true → Tab.find s.dev.hub.nvme.sqs q = some x →
      (v.toNat < x.size → Does (.sqDoorbell q v) s fun t => Tab.find t.hub.nvme.sqs q = some { x with tail := v.toNat }) ∧
      (x.size ≤ v.toNat → exec (.sqDoorbell q v) s = .next (s.after (s.dev.asyncEvent 0 1 1)))) ∧
    (∀ (q : Fin 513) (v : BitVec 16) x, s.dev.nvLive = true → Tab.find s.dev.hub.nvme.cqs q = some x →
      (v.toNat < x.size → s.dev.hub.nvme.held = [] → Does (.cqDoorbell q v) s fun t =>
        Tab.find t.hub.nvme.cqs q = some { x with head := v.toNat }) ∧
      (x.size ≤ v.toNat → exec (.cqDoorbell q v) s = .next (s.after (s.dev.asyncEvent 0 1 1)))) ∧
    (∀ (q : Fin 513) (v : BitVec 16), s.dev.nvLive = true →
      (Tab.find s.dev.hub.nvme.sqs q = none → exec (.sqDoorbell q v) s = .next (s.after (s.dev.asyncEvent 0 0 1))) ∧
      (Tab.find s.dev.hub.nvme.cqs q = none → exec (.cqDoorbell q v) s = .next (s.after (s.dev.asyncEvent 0 0 1)))) ∧
    (∀ (q : Fin 513) late, (Tab.find s.dev.hub.nvme.sqs q = none ∨ s.dev.nvLive = false ∨ s.dev.hostOk = false ∨
        s.dev.hub.nvme.closing = true ∨ s.dev.nvStopped = true) →
      exec (.nvmeCommandFetch q late) s = .next (s.after s.dev)) ∧
    (∀ (q : Fin 513) late x c, Tab.find s.dev.hub.nvme.sqs q = some x → s.dev.nvLive = true → s.dev.hostOk = true →
      s.dev.nvStopped = false → s.dev.hub.nvme.closing = false → x.gone.contains x.head = false → x.head ≠ x.tail → (∀ y ∈ s.dev.hub.nvme.dels, y.1 ≠ q.val) → c = s.dev.sqHead q x →
      slice (c.d 0) 9 8 = 0 → slice (c.d 0) 15 14 = 0 →
      ((q = 0 ∧ s.dev.on F.HUB_FALLOW_ACTIVE = false ∧ c.opc ∈ adminOps) ∨
        (q ≠ 0 ∧ c.opc ∈ ioOps ∧ 1 ≤ c.d 1 ∧ c.d 1 ≤ 64 ∧ s.dev.sliceFull c.slice = false)) →
      Does (.nvmeCommandFetch q late) s fun t => t.hub.nvme.cmds = s.dev.hub.nvme.cmds ++ [c] ∧
        Tab.find t.hub.nvme.sqs q = some { x with head := if x.head + 1 < x.size then x.head + 1 else 0 }) ∧
    (∀ (cid : BitVec 16) i, i ∈ [Instr.deleteIoSubmissionQueue cid, .createIoSubmissionQueue cid, .deleteIoCompletionQueue cid,
        .createIoCompletionQueue cid, .getLogPage cid, .identify cid, .abort cid, .setFeatures cid, .setFeaturesTenantShare cid,
        .getFeatures cid, .asynchronousEventRequest cid, .namespaceCreate cid true, .namespaceDelete cid, .namespaceAttachment cid true,
        .formatNvmDeallocate cid, .formatNvmErase cid, .formatNvmCryptoErase cid, .sanitizeBlockErase cid, .sanitizeOverwrite cid,
        .sanitizeCryptoErase cid, .firmwareImageDownload cid, .fwCommitWrite cid false, .fwCommitWriteSelect cid false,
        .fwCommitSelect cid, .fwCommitActivate cid false] →
      (s.dev.nvLive = false ∨ ∀ c ∈ s.dev.hub.nvme.cmds, c.q = 0 → c.cid = cid.toNat → c.stage ≠ 0) →
      exec i s = .next (s.after s.dev)) ∧
    (∀ (cid : BitVec 16) c, s.dev.fetched cid.toNat 0x00 c →
      (Tab.find s.dev.hub.nvme.sqs (c.d 10 % 2 ^ 16) = none →
        exec (.deleteIoSubmissionQueue cid) s = .next (s.after (s.dev.nvEnd 0 cid.toNat 0 (nvmeStatus 1 0x01 1)))) ∧
      (∀ x, Tab.find s.dev.hub.nvme.sqs (c.d 10 % 2 ^ 16) = some x → c.d 10 % 2 ^ 16 ≠ 0 → x.head = x.tail →
        (∀ y ∈ s.dev.hub.nvme.cmds, y.q ≠ c.d 10 % 2 ^ 16) → Does (.deleteIoSubmissionQueue cid) s fun t =>
          Tab.find t.hub.nvme.sqs (c.d 10 % 2 ^ 16) = none ∧ ∀ y ∈ t.hub.nvme.cmds, ¬(y.q = 0 ∧ y.cid = cid.toNat))) ∧
    (∀ (cid : BitVec 16) c q, s.dev.fetched cid.toNat 0x01 c → q = c.d 10 % 2 ^ 16 → c.d 11 / 2 ^ 16 = q →
      ((q = 0 ∨ 512 < q ∨ (Tab.find s.dev.hub.nvme.sqs q).isSome = true) → exec (.createIoSubmissionQueue cid) s =
        .next (s.after (s.dev.nvEnd 0 cid.toNat 0 (nvmeStatus 1 0x01 1)))) ∧
      (q ≠ 0 → q ≤ 512 → Tab.find s.dev.hub.nvme.sqs q = none → (Tab.find s.dev.hub.nvme.cqs q).isSome = true →
        c.d 10 / 2 ^ 16 ≤ 4095 → bit (c.d 11) 0 = true → s.dev.hub.nvme.dels = [] → Does (.createIoSubmissionQueue cid) s fun t =>
          Tab.find t.hub.nvme.sqs q = some { base := c.d 6 + 2 ^ 32 * c.d 7, size := c.d 10 / 2 ^ 16 + 1 })) ∧
    (∀ (cid : BitVec 16) c q, s.dev.fetched cid.toNat 0x04 c → q = c.d 10 % 2 ^ 16 →
      ((q = 0 ∨ Tab.find s.dev.hub.nvme.cqs q = none) → exec (.deleteIoCompletionQueue cid) s =
        .next (s.after (s.dev.nvEnd 0 cid.toNat 0 (nvmeStatus 1 0x01 1)))) ∧
      (q ≠ 0 → (Tab.find s.dev.hub.nvme.cqs q).isSome = true → (Tab.find s.dev.hub.nvme.sqs q).isSome = true →
        exec (.deleteIoCompletionQueue cid) s = .next (s.after (s.dev.nvEnd 0 cid.toNat 0 (nvmeStatus 1 0x0C 1)))) ∧
      (q ≠ 0 → (Tab.find s.dev.hub.nvme.cqs q).isSome = true → Tab.find s.dev.hub.nvme.sqs q = none →
        Does (.deleteIoCompletionQueue cid) s fun t => Tab.find t.hub.nvme.cqs q = none)) ∧
    (∀ (cid : BitVec 16) c q, s.dev.fetched cid.toNat 0x05 c → q = c.d 10 % 2 ^ 16 →
      ((q = 0 ∨ 512 < q ∨ (Tab.find s.dev.hub.nvme.cqs q).isSome = true) → exec (.createIoCompletionQueue cid) s =
        .next (s.after (s.dev.nvEnd 0 cid.toNat 0 (nvmeStatus 1 0x01 1)))) ∧
      (q ≠ 0 → q ≤ 512 → Tab.find s.dev.hub.nvme.cqs q = none → c.d 10 / 2 ^ 16 ≤ 4095 → bit (c.d 11) 0 = true →
        c.d 11 / 2 ^ 16 = vectorOf (q - 1) → Does (.createIoCompletionQueue cid) s fun t =>
          Tab.find t.hub.nvme.cqs q =
            some { base := c.d 6 + 2 ^ 32 * c.d 7, size := c.d 10 / 2 ^ 16 + 1, ien := bit (c.d 11) 1 }))

/-- The admin commands: Identify and Get Log Page write what the spec's tables say to host memory (R406), Set and Get Features (R405),
the tenant share (R425), Asynchronous Event Request, Abort (R418), the firmware download and the commits of an image that passes its checks
(R652); each ends with the status said; a share written by the host; the end of a transition of the power state (R434); the end of a tenant's
window (R424). The bytes of the structures that the spec does not give are the model's free values (log entry 50). -/
def Obligations.NvmeAdmin : Prop :=
  ∀ (s : State) (cid : BitVec 16), s.awake →
    (∀ c, s.dev.fetched cid.toNat 0x02 c →
      (c.d 10 % 256 ∉ [1, 2, 3, 5, 0x81] → Does (.getLogPage cid) s fun t => s.dev.ended t 0 cid.toNat 0 stField) ∧
      (∀ n o, c.d 10 % 256 ∈ [1, 2, 3, 5, 0x81] → n = 4 * (slice (c.d 10) 31 16 + 2 ^ 16 * slice (c.d 11) 15 0 + 1) →
        o = c.d 12 + 2 ^ 32 * c.d 13 → Does (.getLogPage cid) s fun t => s.dev.ended t 0 cid.toNat 0 0 ∧
          s.dev.gave t 0 c ((s.dev.logPage (c.d 10 % 256) (o + n)).drop o))) ∧
    (∀ c, s.dev.fetched cid.toNat 0x06 c →
      (c.d 10 % 256 = 1 → Does (.identify cid) s fun t => s.dev.ended t 0 cid.toNat 0 0 ∧
        s.dev.gave t 0 c (identifyCtrl s.dev.hub.boot.version)) ∧
      (∀ e, c.d 10 % 256 = 0 → s.dev.nsOf (c.d 1) = some e → e.attached = true → Does (.identify cid) s fun t =>
        s.dev.ended t 0 cid.toNat 0 0 ∧ s.dev.gave t 0 c (identifyNs (c.d 1) e)) ∧
      (∀ ids, c.d 10 % 256 = 2 → ids = ((List.range 65).filter fun i => decide (c.d 1 < i) &&
          (match s.dev.nsOf i with | some e => e.attached | none => false)) → Does (.identify cid) s fun t =>
        s.dev.ended t 0 cid.toNat 0 0 ∧ s.dev.gave t 0 c (ids.flatMap (leBytes 4) ++ List.replicate (4096 - 4 * ids.length) 0)) ∧
      (∀ e, c.d 10 % 256 = 3 → s.dev.nsOf (c.d 1) = some e → Does (.identify cid) s fun t => s.dev.ended t 0 cid.toNat 0 0) ∧
      ((c.d 10 % 256 = 0 ∨ c.d 10 % 256 = 3) → s.dev.nsOf (c.d 1) = none → Does (.identify cid) s fun t =>
        s.dev.ended t 0 cid.toNat 0 (nvmeStatus 0 0x0B 1)) ∧
      (4 ≤ c.d 10 % 256 → Does (.identify cid) s fun t => s.dev.ended t 0 cid.toNat 0 stField)) ∧
    (∀ c f v, s.dev.fetched cid.toNat 0x09 c → f = c.d 10 % 256 → v = c.d 11 →
      (f ≠ 0xC0 → bit (c.d 10) 31 = true → Does (.setFeatures cid) s fun t => s.dev.ended t 0 cid.toNat 0 (nvmeStatus 0 0x0D 1)) ∧
      (bit (c.d 10) 31 = false → f ∈ [1, 0x0A, 0x0B] → Does (.setFeatures cid) s fun t =>
        t.feature f = v ∧ s.dev.ended t 0 cid.toNat 0 0) ∧
      (bit (c.d 10) 31 = false → f = 5 → bit v 16 = false → Does (.setFeatures cid) s fun t =>
        t.feature 5 = v ∧ s.dev.ended t 0 cid.toNat 0 0) ∧
      (bit (c.d 10) 31 = false → f = 6 → Does (.setFeatures cid) s fun t => t.feature 6 = v % 2 ∧ s.dev.ended t 0 cid.toNat 0 0) ∧
      (bit (c.d 10) 31 = false → f = 7 → Does (.setFeatures cid) s fun t => s.dev.ended t 0 cid.toNat (511 + 2 ^ 16 * 511) 0) ∧
      (bit (c.d 10) 31 = false → f = 2 → v ≤ 1 → s.dev.hub.nvme.ps ≤ 1 → Does (.setFeatures cid) s fun t =>
        t.hub.nvme.ps = v ∧ t.hub.nvme.trans = (if s.dev.hub.nvme.trans = 1 then 0 else s.dev.hub.nvme.trans) ∧
          s.dev.ended t 0 cid.toNat 0 0) ∧
      (bit (c.d 10) 31 = false → f = 2 → 2 ≤ v → v ≤ 3 → s.dev.hub.nvme.ps ≠ v → Does (.setFeatures cid) s fun t =>
        t.hub.nvme.trans = 1 ∧ t.hub.nvme.target = v ∧ t.hub.nvme.ps = s.dev.hub.nvme.ps ∧ s.dev.ended t 0 cid.toNat 0 0) ∧
      (bit (c.d 10) 31 = false → f = 9 → 1 ≤ v % 2 ^ 16 → v % 2 ^ 16 ≤ 512 → Does (.setFeatures cid) s fun t =>
        t.on F.EVT_COAL_CD 0 (v % 2 ^ 16) = bit v 16 ∧ s.dev.ended t 0 cid.toNat 0 0) ∧
      (bit (c.d 10) 31 = false → f ∉ [1, 2, 5, 6, 7, 9, 0x0A, 0x0B, 0xC0] → Does (.setFeatures cid) s fun t =>
        s.dev.ended t 0 cid.toNat 0 stField) ∧
      (∀ q : Fin 512, bit (c.d 10) 31 = false → f = 0xC0 → v % 2 ^ 16 = q.val + 1 →
        Does (.setFeaturesTenantShare cid) s fun t => t.rd F.CEL_SHARE_SHARE 0 q = slice v 27 16 ∧ s.dev.ended t 0 cid.toNat 0 0) ∧
      (bit (c.d 10) 31 = false → f = 0xC0 → (v % 2 ^ 16 = 0 ∨ 512 < v % 2 ^ 16) →
        Does (.setFeaturesTenantShare cid) s fun t => s.dev.ended t 0 cid.toNat 0 stField)) ∧
    (∀ c f, s.dev.fetched cid.toNat 0x0A c → f = c.d 10 % 256 →
      (f ∉ [1, 2, 5, 6, 7, 9, 0x0A, 0x0B, 0xC0] → Does (.getFeatures cid) s fun t => s.dev.ended t 0 cid.toNat 0 stField) ∧
      (f ∈ [1, 2, 5, 6, 7, 0x0A, 0x0B] → slice (c.d 10) 10 8 = 3 → Does (.getFeatures cid) s fun t =>
        s.dev.ended t 0 cid.toNat 4 0) ∧
      (f ∈ [1, 5, 6, 0x0A, 0x0B] → slice (c.d 10) 10 8 = 0 → Does (.getFeatures cid) s fun t =>
        s.dev.ended t 0 cid.toNat (s.dev.feature f) 0) ∧
      (f = 2 → slice (c.d 10) 10 8 = 0 → Does (.getFeatures cid) s fun t => s.dev.ended t 0 cid.toNat s.dev.hub.nvme.ps 0) ∧
      (∀ q : Fin 512, f = 0xC0 → slice (c.d 10) 10 8 = 0 → c.d 11 % 2 ^ 16 = q.val + 1 → Does (.getFeatures cid) s fun t =>
        s.dev.ended t 0 cid.toNat (q.val + 1 + 2 ^ 16 * s.dev.rd F.CEL_SHARE_SHARE 0 q) 0)) ∧
    (∀ c, s.dev.fetched cid.toNat 0x0C c →
      (s.dev.hub.nvme.aers.length < 4 → Does (.asynchronousEventRequest cid) s fun t =>
        t.hub.nvme.aers = s.dev.hub.nvme.aers ++ [cid.toNat]) ∧
      (4 ≤ s.dev.hub.nvme.aers.length → Does (.asynchronousEventRequest cid) s fun t =>
        s.dev.ended t 0 cid.toNat 0 (nvmeStatus 1 0x05 1))) ∧
    (∀ c q id before mine, s.dev.fetched cid.toNat 0x08 c → q = c.d 10 % 2 ^ 16 → id = c.d 10 / 2 ^ 16 →
      before = ((s.dev.hub.nvme.cmds.takeWhile fun y => !(y.q == 0 && y.cid == cid.toNat)).filter fun y => y.q == 0 && y.opc == 8).length →
      mine = (s.dev.hub.nvme.cmds.find? fun y => y.q == q && y.cid == id && !(y.q == 0 && y.cid == cid.toNat)) →
      (4 ≤ before → Does (.abort cid) s fun t => s.dev.ended t 0 cid.toNat 0 (nvmeStatus 1 0x03 1)) ∧
      (before < 4 → (q = 0 → id ∉ s.dev.hub.nvme.aers) →
        (∀ y, mine = some y → y.catchable = true → Does (.abort cid) s fun t =>
          (s.dev.nvEnd q id 0 (nvmeStatus 0 0x07 0)).ended t 0 cid.toNat 0 0) ∧
        (∀ y, mine = some y → y.catchable = false → Does (.abort cid) s fun t => s.dev.ended t 0 cid.toNat 1 0) ∧
        (∀ x i, mine = none → s.dev.unfetched q id = some (x, i) → s.dev.hub.nvme.dels = [] → s.dev.hub.nvme.closing = false →
          Does (.abort cid) s fun t => Tab.find t.hub.nvme.sqs q = some { x with gone := x.gone ++ [i] }) ∧
        (mine = none → s.dev.unfetched q id = none → Does (.abort cid) s fun t => s.dev.ended t 0 cid.toNat 1 0)) ∧
      (before < 4 → q = 0 → id ∈ s.dev.hub.nvme.aers → s.dev.hub.nvme.closing = false → Does (.abort cid) s fun t =>
        t.hub.nvme.aers = s.dev.hub.nvme.aers.erase id)) ∧
    (∀ c n, s.dev.fetched cid.toNat 0x11 c → n = 4 * (c.d 10 + 1) → Does (.firmwareImageDownload cid) s fun t =>
      t.hub.nvme.fw = s.dev.hub.nvme.fw.writes (4 * c.d 11) (s.dev.prpRead c n) ∧ s.dev.ended t 0 cid.toNat 0 0) ∧
    (∀ c k n, s.dev.fetched cid.toNat 0x10 c → k = slice (c.d 10) 2 0 → n = Mem.readLe s.dev.hub.nvme.fw 8 4 → s.dev.lcs ≠ 5 →
      s.dev.imageCheck (s.dev.hub.nvme.fw.reads · ·) = none → (k = 1 ∨ k = 2) →
      (slice (c.d 10) 5 3 = 0 → Does (.fwCommitWrite cid false) s fun t => s.dev.ended t 0 cid.toNat 0 0 ∧
        t.flashReads (0x01000000 * (k - 1)) n = s.dev.hub.nvme.fw.reads 0 n) ∧
      (slice (c.d 10) 5 3 = 0 → Does (.fwCommitWrite cid true) s fun t => s.dev.ended t 0 cid.toNat 0 (nvmeStatus 2 0x80 0)) ∧
      (slice (c.d 10) 5 3 = 1 → Does (.fwCommitWriteSelect cid false) s fun t => s.dev.ended t 0 cid.toNat 0 0 ∧
        t.rd F.HUB_BOOT_CFG_SEL = k - 1 ∧ t.flashReads (0x01000000 * (k - 1)) n = s.dev.hub.nvme.fw.reads 0 n) ∧
      (slice (c.d 10) 5 3 = 3 → s.dev.on F.HUB_FALLOW_ACTIVE = false → k ≠ s.dev.rd F.HUB_BOOT_STAT_IMAGE + 1 →
        Does (.fwCommitActivate cid false) s fun t => s.dev.ended t 0 cid.toNat 0 0 ∧ t.rd F.HUB_BOOT_STAT_IMAGE = k - 1 ∧
          t.on F.HUB_BOOT_STAT_ACTPEND = true ∧ t.hub.boot.kept.isSome = true)) ∧
    (∀ c k bad, s.dev.fetched cid.toNat 0x10 c → k = slice (c.d 10) 2 0 →
      (slice (c.d 10) 5 3 = 0 → (s.dev.lcs = 5 ∨ (s.dev.imageCheck (s.dev.hub.nvme.fw.reads · ·)).isSome = true) →
        Does (.fwCommitWrite cid bad) s fun t => s.dev.ended t 0 cid.toNat 0 (nvmeStatus 1 0x07 0)) ∧
      (slice (c.d 10) 5 3 = 2 → s.dev.lcs ≠ 5 → (k = 1 ∨ k = 2) → Does (.fwCommitSelect cid) s fun t =>
        t.rd F.HUB_BOOT_CFG_SEL = k - 1 ∧ s.dev.ended t 0 cid.toNat 0 0) ∧
      (slice (c.d 10) 5 3 = 2 → s.dev.lcs ≠ 5 → (k = 0 ∨ 2 < k) → Does (.fwCommitSelect cid) s fun t =>
        s.dev.ended t 0 cid.toNat 0 (nvmeStatus 1 0x06 0)) ∧
      (slice (c.d 10) 5 3 = 3 → s.dev.on F.HUB_FALLOW_ACTIVE = true → Does (.fwCommitActivate cid bad) s fun t =>
        s.dev.ended t 0 cid.toNat 0 (nvmeStatus 1 0x0B 0))) ∧
    (∀ (q : Fin 512) (w : Word), s.dev.reaches .CEL 0 = true → Does (.celShareWrite q w) s fun t =>
      t.rd F.CEL_SHARE_SHARE 0 q = w.toNat % 2 ^ 12 ∧
        t.rd F.CEL_SHARE_STAT_SUM =
          (s.dev.rd F.CEL_SHARE_STAT_SUM + w.toNat % 2 ^ 12 - s.dev.rd F.CEL_SHARE_SHARE 0 q) % 2 ^ 21 ∧
        (1625 < s.dev.rd F.CEL_SHARE_STAT_SUM + w.toNat % 2 ^ 12 - s.dev.rd F.CEL_SHARE_SHARE 0 q →
          t.on F.CEL_SHARE_STAT_OVERSUB = true ∧
            (s.dev.rd F.CEL_SHARE_STAT_SUM ≤ 1625 → s.dev.hub.lost = false → Raised t 543 0))) ∧
    (∀ (a : Unit5) (waits : List (Fin 512)) taken, Does (.tenantWindowEnd a waits taken) s fun t =>
      (∀ q ∈ waits, t.on F.CEL_TSTAT_WAIT 0 q = true ∧ t.rd F.CEL_TSTAT_FRAC 0 q = s.dev.shareFrac a q ∧
        t.on F.CEL_TSTAT_SHORT 0 q = decide (s.dev.shareFrac a q < 1024)) ∧
      ∀ x ∈ t.hub.nvme.moved, x.1 / 1024 ≠ a.val) ∧
    (Does .powerStateTransitionDone s fun t =>
      (s.dev.hub.nvme.trans = 1 → t.hub.nvme.ps = s.dev.hub.nvme.target ∧
        t.hub.nvme.trans = (if s.dev.hub.nvme.wake then 2 else 0)) ∧
      (s.dev.hub.nvme.trans = 2 → t.hub.nvme.ps = s.dev.hub.nvme.target ∧ t.hub.nvme.psOp = s.dev.hub.nvme.target ∧
        t.hub.nvme.trans = 0) ∧
      (s.dev.hub.nvme.trans ≠ 1 → s.dev.hub.nvme.trans ≠ 2 → t.hub.nvme = s.dev.hub.nvme))

/-- Administration of the cartridges: creating, deleting and attaching namespaces (R456, R458), formatting (R459), sanitising (R460, R461):
each is refused with its status where the spec says so, and otherwise has its effect; a format's and a sanitise's end erases what it was
for. -/
def Obligations.NamespaceWork : Prop :=
  ∀ (s : State) (cid : BitVec 16), s.awake →
    (∀ c good, s.dev.fetched cid.toNat 0x0D c →
      (c.d 10 % 16 ≠ 0 → exec (.namespaceCreate cid good) s = .next (s.after s.dev)) ∧
      (c.d 10 % 16 = 0 → exec (.namespaceDelete cid) s = .next (s.after s.dev)) ∧
      (c.d 10 % 16 = 0 → exec (.namespaceCreate cid false) s =
        .next (s.after (s.dev.nvEnd 0 cid.toNat 0 (nvmeStatus 0 0x04 0)))) ∧
      (∀ (p : Pipe) nsze k, c.d 10 % 16 = 0 → nsze = ofLeBytes ((s.dev.prpRead c 4096).take 8) →
        ofLeBytes (((s.dev.prpRead c 4096).drop 8).take 8) = nsze → ofLeBytes (((s.dev.prpRead c 4096).drop 26).take 1) = 0 →
        ofLeBytes (((s.dev.prpRead c 4096).drop 100).take 1) = p.val + 1 →
        s.dev.cartState p = 4 → s.dev.on F.CELP_CART_STAT_READONLY p = false →
        ((List.range 16).find? fun k => (s.dev.nsEnt p k).size == 0) = some k →
        s.dev.usedLbas p + nsze ≤ (s.dev.cel p).cart.ucap → s.dev.rngOk = true → Does (.namespaceCreate cid true) s fun t =>
          t.nsEnt p k = { size := nsze, key := s.dev.drawKey } ∧ s.dev.ended t 0 cid.toNat (16 * p.val + k + 1) 0) ∧
      (c.d 10 % 16 = 1 → c.d 1 ≠ 0xFFFFFFFF → s.dev.nsOf (c.d 1) = none → Does (.namespaceDelete cid) s fun t =>
        s.dev.ended t 0 cid.toNat 0 (nvmeStatus 0 0x0B 1)) ∧
      (∀ e p k, c.d 10 % 16 = 1 → c.d 1 ≠ 0xFFFFFFFF → s.dev.nsOf (c.d 1) = some e → nsPlace (c.d 1) = (p, k) →
        Tab.find s.dev.hub.nvme.san p = none → s.dev.nsBusy p k = false → s.dev.takeNs p ≠ some k →
        Does (.namespaceDelete cid) s fun t => t.nsEnt p k = {} ∧ s.dev.ended t 0 cid.toNat 0 0)) ∧
    (∀ c good, s.dev.fetched cid.toNat 0x15 c →
      (1 < c.d 10 % 16 → Does (.namespaceAttachment cid good) s fun t => s.dev.ended t 0 cid.toNat 0 stField) ∧
      (∀ e p k, c.d 10 % 16 ≤ 1 → ofLeBytes ((s.dev.prpRead c 4096).take 2) = 1 →
        ofLeBytes (((s.dev.prpRead c 4096).drop 2).take 2) = 1 → s.dev.nsOf (c.d 1) = some e → nsPlace (c.d 1) = (p, k) →
        Tab.find s.dev.hub.nvme.san p = none → Does (.namespaceAttachment cid true) s fun t =>
          t.nsEnt p k = { s.dev.nsEnt p k with attached := c.d 10 % 16 == 0 } ∧ s.dev.ended t 0 cid.toNat 0 0)) ∧
    (∀ c e p k, s.dev.fetched cid.toNat 0x80 c → slice (c.d 10) 3 0 = 0 → bit (c.d 10) 4 = false → slice (c.d 10) 7 5 = 0 →
      c.d 1 ≠ 0xFFFFFFFF → s.dev.nsOf (c.d 1) = some e → nsPlace (c.d 1) = (p, k) → Tab.find s.dev.hub.nvme.san p = none →
      s.dev.cartState p = 4 → s.dev.nsBusy p k = false →
      (slice (c.d 10) 11 9 = 0 → Does (.formatNvmDeallocate cid) s fun t => t.nsEnt p k = { s.dev.nsEnt p k with fmt := 1 } ∧
        t.hub.nvme.fmts = s.dev.hub.nvme.fmts ++ [(cid.toNat, [c.d 1], 0)]) ∧
      (slice (c.d 10) 11 9 = 1 → Does (.formatNvmErase cid) s fun t => t.nsEnt p k = { s.dev.nsEnt p k with fmt := 2 } ∧
        t.hub.nvme.fmts = s.dev.hub.nvme.fmts ++ [(cid.toNat, [c.d 1], 1)]) ∧
      (slice (c.d 10) 11 9 = 2 → s.dev.rngOk = true → Does (.formatNvmCryptoErase cid) s fun t =>
        t.nsEnt p k = { s.dev.nsEnt p k with fmt := 3 } ∧
        t.hub.nvme.fmts = s.dev.hub.nvme.fmts ++ [(cid.toNat, [c.d 1], 2)])) ∧
    (∀ c i ses, s.dev.fetched cid.toNat 0x80 c →
      (i, ses) ∈ [(Instr.formatNvmDeallocate cid, 0), (.formatNvmErase cid, 1), (.formatNvmCryptoErase cid, 2)] →
      slice (c.d 10) 11 9 = ses → (slice (c.d 10) 3 0 ≠ 0 ∨ bit (c.d 10) 4 = true ∨ slice (c.d 10) 7 5 ≠ 0) →
      exec i s = .next (s.after (s.dev.nvEnd 0 cid.toNat 0 stField))) ∧
    (∀ c (p : Pipe), s.dev.fetched cid.toNat 0x84 c → s.dev.hub.nvme.san = [] → (s.dev.cartState p = 4 ∨ s.dev.cartState p = 5) →
      (∀ q : Pipe, (∀ t, t < 8 → (s.dev.tq q t).take = 0) ∧ (∀ x ∈ (s.dev.cel q).strms, x.2.open_ = false) ∧
        ∀ x ∈ (s.dev.cel q).cart.nss, x.2.fmt = 0) →
      (slice (c.d 10) 2 0 = 2 → Does (.sanitizeBlockErase cid) s fun t => t.rd F.CEL_SAN_STAT_SSTAT = 2 ∧
        t.rd F.CEL_SAN_STAT_SPROG = 0 ∧ (t.cel p).cart.sanitize = true ∧ (p.val, 2) ∈ t.hub.nvme.san ∧
        s.dev.ended t 0 cid.toNat 0 0) ∧
      (slice (c.d 10) 2 0 = 3 → Does (.sanitizeOverwrite cid) s fun t => t.rd F.CEL_SAN_STAT_SSTAT = 2 ∧
        t.rd F.CEL_SAN_STAT_SPROG = 0 ∧ (t.cel p).cart.sanitize = true ∧ (p.val, 3) ∈ t.hub.nvme.san ∧
        s.dev.ended t 0 cid.toNat 0 0) ∧
      (slice (c.d 10) 2 0 = 4 → s.dev.rngOk = true → Does (.sanitizeCryptoErase cid) s fun t => t.rd F.CEL_SAN_STAT_SSTAT = 2 ∧
        t.rd F.CEL_SAN_STAT_SPROG = 0 ∧ (t.cel p).cart.sanitize = true ∧ (p.val, 4) ∈ t.hub.nvme.san ∧
        s.dev.ended t 0 cid.toNat 0 0)) ∧
    (∀ c i act, s.dev.fetched cid.toNat 0x84 c →
      (i, act) ∈ [(Instr.sanitizeBlockErase cid, 2), (.sanitizeOverwrite cid, 3), (.sanitizeCryptoErase cid, 4)] →
      slice (c.d 10) 2 0 = act → s.dev.hub.nvme.san ≠ [] →
      exec i s = .next (s.after (s.dev.nvEnd 0 cid.toNat 0 (nvmeStatus 0 0x1D 0)))) ∧
    (∀ p : Pipe, Tab.find s.dev.hub.nvme.san p = none → exec (.sanitizeDone p) s = .next (s.after s.dev)) ∧
    (∀ (p : Pipe) act, Tab.find s.dev.hub.nvme.san p = some act → Does (.sanitizeDone p) s fun t =>
      Tab.find t.hub.nvme.san p = none ∧ (t.cel p).cart.sanitize = false ∧ (t.cel p).cart.dir = [] ∧
        (∀ k, (t.nsEnt p k).data = []) ∧ (t.hub.nvme.san = [] → t.rd F.CEL_SAN_STAT_SSTAT = 1) ∧
        (s.dev.hub.lost = false → 544 ∈ t.router.stat)) ∧
    (∀ (m : Fin 65) p k, nsPlace m = (p, k) → ((s.dev.nsEnt p k).fmt = 0 ∨ s.dev.cartState p ≠ 4) →
      exec (.formatDone m) s = .next (s.after s.dev)) ∧
    (∀ (m : Fin 65) p k, p < 4 → nsPlace m = (p, k) → (s.dev.nsEnt p k).fmt ≠ 0 → s.dev.cartState p = 4 → Does (.formatDone m) s fun t =>
      (t.nsEnt p k).data = [] ∧ (t.nsEnt p k).fmt = 0 ∧ (t.nsEnt p k).size = (s.dev.nsEnt p k).size ∧
        ∀ x ∈ t.hub.nvme.fmts, x.2.1 ≠ [] ∧ m.val ∉ x.2.1)

/-- The I/O commands of tenants: a Write, Read, Write Zeroes, Dataset Management or Verify is admitted in the order of fetching, with a
range-lock entry for each range, or ends with its status (R407 to R409, R416), and waits while 896 entries are held (R411); once its entries
are granted a Read moves its data, a Verify ends, a Write's pieces take their places and its data is asked for, the others enter the write
buffer (R412, R414); the oldest piece is committed (R413); a Flush waits for the writes completed before it (R414). -/
def Obligations.TenantCommands : Prop :=
  ∀ (s : State) (q : Fin 513) (cid : BitVec 16), s.awake →
    (∀ c p k, s.dev.nsStatus p k = 0 → tenantLocks (s.dev.cel p).locks + 1 ≤ 896 → c.slba + c.nlb ≤ (s.dev.nsEnt p k).size →
      (s.dev.arrives q cid.toNat 0x02 c p k → c.nlb ≤ 512 → Does (.read q cid) s fun t =>
        s.dev.admitted t q cid.toNat p k false [(c.slba, c.nlb)]) ∧
      (s.dev.arrives q cid.toNat 0x0C c p k → Does (.verify q cid) s fun t =>
        s.dev.admitted t q cid.toNat p k false [(c.slba, c.nlb)]) ∧
      (s.dev.on F.CELP_CART_STAT_READONLY p = false → s.dev.writeDenied p k c.slba c.nlb = false →
        (s.dev.arrives q cid.toNat 0x01 c p k → c.nlb ≤ 512 → Does (.write q cid) s fun t =>
          s.dev.admitted t q cid.toNat p k true [(c.slba, c.nlb)]) ∧
        (s.dev.arrives q cid.toNat 0x08 c p k → Does (.writeZeroes q cid) s fun t =>
          s.dev.admitted t q cid.toNat p k true [(c.slba, c.nlb)]))) ∧
    (∀ c p k rs, s.dev.arrives q cid.toNat 0x09 c p k → s.dev.nsStatus p k = 0 → rs = dsmRanges s.dev c →
      tenantLocks (s.dev.cel p).locks + rs.length ≤ 896 → s.dev.on F.CELP_CART_STAT_READONLY p = false →
      (∀ r ∈ rs, r.1 + r.2 ≤ (s.dev.nsEnt p k).size ∧ r.2 ≤ 2 ^ 32 ∧ s.dev.writeDenied p k r.1 r.2 = false) →
      Does (.datasetManagement q cid) s fun t => s.dev.admitted t q cid.toNat p k true rs) ∧
    (∀ i op rng wr most c p k, (i, op, rng, wr, most) ∈
        [(Instr.write q cid, 0x01, oneRange, true, 512), (.read q cid, 0x02, oneRange, false, 512),
          (.writeZeroes q cid, 0x08, oneRange, true, 65536), (.datasetManagement q cid, 0x09, dsmRanges, true, 2 ^ 32),
          (.verify q cid, 0x0C, oneRange, false, 65536)] → s.dev.arrives q cid.toNat op c p k →
      (s.dev.nsStatus p k ≠ 0 → exec i s = .next (s.after (s.dev.nvEnd q cid.toNat 0 (s.dev.nsStatus p k)))) ∧
      (s.dev.nsStatus p k = 0 → 896 < tenantLocks (s.dev.cel p).locks + (rng s.dev c).length →
        exec i s = .next (s.after s.dev)) ∧
      (s.dev.nsStatus p k = 0 → tenantLocks (s.dev.cel p).locks + (rng s.dev c).length ≤ 896 → (∀ r ∈ rng s.dev c, r.2 ≤ most) →
        (∃ r ∈ rng s.dev c, (s.dev.nsEnt p k).size < r.1 + r.2) →
        exec i s = .next (s.after (s.dev.nvEnd q cid.toNat 0 (nvmeStatus 0 0x80 1)))) ∧
      (s.dev.nsStatus p k = 0 → tenantLocks (s.dev.cel p).locks + (rng s.dev c).length ≤ 896 →
        (∀ r ∈ rng s.dev c, r.2 ≤ most ∧ r.1 + r.2 ≤ (s.dev.nsEnt p k).size) → wr = true →
        (∃ r ∈ rng s.dev c, s.dev.writeDenied p k r.1 r.2 = true) →
        exec i s = .next (s.after (s.dev.nvEnd q cid.toNat 0 (nvmeStatus 2 0x86 1))))) ∧
    (∀ i, i ∈ [Instr.write q cid, .read q cid, .writeZeroes q cid, .datasetManagement q cid, .verify q cid, .flush q cid] →
      (s.dev.nvLive = false ∨ ∀ c ∈ s.dev.hub.nvme.cmds, c.q = q.val → c.cid = cid.toNat → c.stage ≠ 0) →
      exec i s = .next (s.after s.dev)) ∧
    (∀ bad, (∀ c ∈ s.dev.hub.nvme.cmds, c.q = q.val → c.cid = cid.toNat → c.stage ≠ 1) →
      exec (.rangeLockGrant q cid bad) s = .next (s.after s.dev)) ∧
    (∀ bad c p k, (s.dev.hub.nvme.cmds.find? fun c => c.q == q.val && c.cid == cid.toNat && c.stage == 1) = some c →
      nsPlace (c.d 1) = (p, k) → p < 4 →
      ((s.dev.nvLive = false ∨ s.dev.lockFree p q cid.toNat = false ∨ s.dev.on F.CELP_RB_STAT_HOLD4 p = true ∨ s.dev.cartState p ≠ 4) →
        exec (.rangeLockGrant q cid bad) s = .next (s.after s.dev)) ∧
      (s.dev.nvLive = true → s.dev.lockFree p q cid.toNat = true → s.dev.on F.CELP_RB_STAT_HOLD4 p = false → s.dev.cartState p = 4 →
        s.dev.psOperational = true → (s.dev.cel p).rebuild = [] → (∀ x ∈ (s.dev.cel p).pieces, x.owner ≠ some (q.val, cid.toNat)) →
        (c.opc = 0x02 → Does (.rangeLockGrant q cid true) s fun t => s.dev.ended t q cid.toNat 0 (nvmeStatus 2 0x81 0)) ∧
        (c.opc = 0x02 → s.dev.hostOk = true → Does (.rangeLockGrant q cid false) s fun t => s.dev.ended t q cid.toNat 0 0 ∧
          s.dev.gave t q c (s.dev.lbaRead p k c.slba c.nlb)) ∧
        (c.opc = 0x0C → Does (.rangeLockGrant q cid bad) s fun t =>
          s.dev.ended t q cid.toNat 0 (if bad then nvmeStatus 2 0x81 0 else 0)) ∧
        (∀ add, add = (((s.dev.cel p).locks.filter fun x => x.q == q.val && x.cid == cid.toNat).flatMap fun x =>
              (cutPieces x.lba x.n).map fun y => (k, y.1, y.2, some (q.val, cid.toNat), false)) →
          c.opc = 0x01 → Does (.rangeLockGrant q cid bad) s fun t => t.hub.hreq = s.dev.hub.hreq ++ [.nvme q cid.toNat] ∧
            ((t.cel p).pieces.map fun x => (x.ns, x.lba, x.n, x.owner, x.ready)) =
              ((s.dev.cel p).pieces.map fun x => (x.ns, x.lba, x.n, x.owner, x.ready)) ++ add) ∧
        ((c.opc = 0x08 ∨ c.opc = 0x09) → Does (.rangeLockGrant q cid bad) s fun t =>
          (((t.cel p).pieces.map fun x => (x.ns, x.lba, x.n)) = ((s.dev.cel p).pieces.map fun x => (x.ns, x.lba, x.n)) ++
            (((s.dev.cel p).locks.filter fun x => x.q == q.val && x.cid == cid.toNat).flatMap fun x =>
              (cutPieces x.lba x.n).map fun y => (k, y.1, y.2))) ∧
          (s.dev.feature 6 % 2 = 1 → s.dev.ended t q cid.toNat 0 0)))) ∧
    (∀ p : Pipe, (s.dev.cartState p ≠ 4 ∨ (s.dev.cel p).pieces = []) → exec (.pieceCommit p) s = .next (s.after s.dev)) ∧
    (∀ (p : Pipe) x rest, s.dev.cartState p = 4 → (s.dev.cel p).pieces = x :: rest →
      (x.ready = false → exec (.pieceCommit p) s = .next (s.after s.dev)) ∧
      (x.ready = true → (x.tenant = true ∨ s.dev.lockFree p 0 x.id = true) → (∀ y ∈ rest, y.ready = true) →
        Does (.pieceCommit p) s fun t =>
          ((t.cel p).pieces.map fun y => y.id) = (rest.map fun y => y.id) ∧ (t.cel p).jbytes = (s.dev.cel p).jbytes + 64 ∧
          (t.nsEnt p x.ns).data = (s.dev.nsEnt p x.ns).data.writes (4096 * x.lba) (x.data.getD (List.replicate (4096 * x.n) 0)))) ∧
    (∀ c p k, s.dev.nvLive = true → q ≠ 0 →
      (s.dev.hub.nvme.cmds.find? fun c => c.q == q.val && c.cid == cid.toNat && c.stage == 0) = some c → c.opc = 0 →
      c.d 1 ≠ 0xFFFFFFFF → nsPlace (c.d 1) = (p, k) →
      (s.dev.nsStatus p k ≠ 0 → exec (.flush q cid) s = .next (s.after (s.dev.nvEnd q cid.toNat 0 (s.dev.nsStatus p k)))) ∧
      (s.dev.nsStatus p k = 0 → (s.dev.hub.nvme.cmds.filter fun y => y.q == q.val && y.cid == cid.toNat) = [c] →
        s.dev.hub.nvme.closing = false →
        Does (.flush q cid) s fun t => (t.hub.nvme.cmds.filter fun y => y.q == q.val && y.cid == cid.toNat) =
          if s.dev.flushDone p s.dev.hub.nvme.pid then [] else [{ c with stage := 3, mark := s.dev.hub.nvme.pid }]))

/-- The cartridge ports: a seated cartridge settles, is powered, identified, replayed and mounted, or ends in FAULT with its cause (R438 to
R443, R447, R457); a removal leads to ABSENT from MOUNTED or a re-seat, otherwise to EMPTY (R439, R441); the retry timer's end reports
outcome 5 (R444, R445); an eject is discarded while the slice is in use (R449); checkpoints, the rebuild (R448, R450) and program failures
(R446). -/
def Obligations.Cartridges : Prop :=
  ∀ (s : State) (p : Pipe), s.awake →
    ((s.dev.cel p).ejected = false → s.dev.pipeRuns p = true → (s.dev.cartState p = 0 ∨ s.dev.cartState p = 7) →
      Does (.cartDetectLow p) s fun t => t.cartState p = 1 ∧ t.rd F.CELP_CART_STAT_CAUSE p = 0 ∧ (t.cel p).det = true ∧
        (t.cel p).reseat = (s.dev.cartState p == 7)) ∧
    (((s.dev.cel p).ejected = true ∨ s.dev.pipeRuns p = false ∨ (s.dev.cartState p ≠ 0 ∧ s.dev.cartState p ≠ 7)) →
      exec (.cartDetectLow p) s = .next (s.after (s.dev.updCel p fun c => { c with det := true }))) ∧
    (s.dev.cartState p = 1 → Does (.cartSettled p) s fun t => t.cartState p = 2 ∧ (t.cel p).pwr = true ∧ (t.cel p).inited = false) ∧
    (s.dev.cartState p ≠ 1 → exec (.cartSettled p) s = .next (s.after s.dev)) ∧
    (∀ ts ucap, (s.dev.cartState p ≠ 2 ∨ (s.dev.cel p).inited = true) → exec (.cartInitDone p ⟨ts, ucap⟩) s = .next (s.after s.dev)) ∧
    (∀ ts ucap, s.dev.cartState p = 2 → (s.dev.cel p).inited = false →
      (cartGeometry ts ucap = true → Does (.cartInitDone p ⟨ts, ucap⟩) s fun t =>
        (t.cel p).inited = true ∧ (t.cel p).ntgt = ts.headD 0 ∧ t.cartState p = 2) ∧
      (cartGeometry ts ucap = false → Does (.cartInitDone p ⟨ts, ucap⟩) s fun t =>
        t.cartState p = 6 ∧ t.rd F.CELP_CART_STAT_CAUSE p = 1 ∧ (t.cel p).reseat = false ∧
        (s.dev.hub.lost = false → pipeEvent p 61 ∈ t.router.stat))) ∧
    (∀ x, (s.dev.cartState p ≠ 2 ∨ (s.dev.cel p).inited = false) → exec (.cartIdentityRead p x) s = .next (s.after s.dev)) ∧
    (∀ x : CartImage, s.dev.cartState p = 2 → (s.dev.cel p).inited = true → x.blank = false → Does (.cartIdentityRead p x) s fun t =>
      t.rd F.CELP_CART_MGEN_VALUE p = x.mgen % 2 ^ 32 ∧
        (∀ k : Fin 4, t.rd F.CELP_CART_SERIAL_VALUE p k = x.serial / 2 ^ (32 * k.val) % 2 ^ 32) ∧
        (x.good = true → x.ver = 1 → t.cartState p = 3 ∧ (t.cel p).found = some x) ∧
        (x.good = false → t.cartState p = 6 ∧ t.rd F.CELP_CART_STAT_CAUSE p = 2) ∧
        (x.good = true → x.ver ≠ 1 → t.cartState p = 6 ∧ t.rd F.CELP_CART_STAT_CAUSE p = 3)) ∧
    (∀ x : CartImage, s.dev.cartState p = 2 → (s.dev.cel p).inited = true → x.blank = true → (s.dev.cel p).reseat = false →
      Does (.cartIdentityRead p x) s fun t =>
        (s.dev.kekOf (s.dev.rd F.CEL_KEK_KSLOT) = none → t.cartState p = 6 ∧ t.rd F.CELP_CART_STAT_CAUSE p = 5) ∧
        (s.dev.kekOf (s.dev.rd F.CEL_KEK_KSLOT) ≠ none → t.cartState p = 3 ∧ (t.cel p).found = some x)) ∧
    (∀ r, ((s.dev.cel p).found = none ∨ s.dev.cartState p ≠ 3) → exec (.cartReplayDone p r) s = .next (s.after s.dev)) ∧
    (∀ x r key, (s.dev.cel p).found = some x → s.dev.cartState p = 3 → (s.dev.cel p).reseat = false → (s.dev.cel p).newcart = false →
      key = (s.dev.kekKey (s.dev.rd F.CEL_KEK_KSLOT)).getD [] → Does (.cartReplayDone p r) s fun t =>
        (r.ckpt = false → x.blank = false → t.cartState p = 6 ∧ t.rd F.CELP_CART_STAT_CAUSE p = 4) ∧
        (x.blank = true → t.cartState p = 4 ∧ t.rd F.CELP_CART_STAT_OUTCOME p = 2 ∧ t.rd F.CELP_CART_MGEN_VALUE p = 1) ∧
        (r.ckpt = true → x.blank = false →
          (s.dev.kekOf (s.dev.rd F.CEL_KEK_KSLOT) ≠ some (s.dev.cartOf p x r.last key).kekid ∨
            ∃ n ∈ x.nss, keyUnwrap key n.wrapped = none) → t.cartState p = 5 ∧ t.rd F.CELP_CART_STAT_OUTCOME p = 1) ∧
        (r.ckpt = true → x.blank = false →
          s.dev.kekOf (s.dev.rd F.CEL_KEK_KSLOT) = some (s.dev.cartOf p x r.last key).kekid →
          (∀ n ∈ x.nss, (keyUnwrap key n.wrapped).isSome = true) →
          t.cartState p = 4 ∧ t.rd F.CELP_CART_STAT_OUTCOME p = 1 ∧
            t.rd F.CELP_CART_MGEN_VALUE p = ((s.dev.cartOf p x r.last key).mgen + 1) % 2 ^ 32)) ∧
    (∀ x r, (s.dev.cel p).found = some x → s.dev.cartState p = 3 → (s.dev.cel p).reseat = true → r.ckpt = true →
      (s.dev.cel p).cart.jseq ≤ r.last → r.last ≤ (s.dev.cel p).cart.jseq + (s.dev.cel p).pieces.length →
      Does (.cartReplayDone p r) s fun t => t.cartState p = 4 ∧ t.rd F.CELP_CART_STAT_OUTCOME p = 3 ∧ (t.cel p).reseat = false ∧
        (t.cel p).pieces = (s.dev.cel p).pieces.drop (r.last - (s.dev.cel p).cart.jseq)) ∧
    (Does (.cartRemoval p) s fun t => (t.cel p).det = false ∧ (t.cel p).ejected = false ∧
      ((s.dev.cartState p = 0 ∨ s.dev.cartState p = 7) → t.cartState p = s.dev.cartState p) ∧
      (s.dev.cartState p = 4 → t.cartState p = 7 ∧ (t.cel p).reseat = true ∧ (t.cel p).t0 = s.dev.c) ∧
      (s.dev.cartState p ≠ 0 → s.dev.cartState p ≠ 7 → s.dev.cartState p ≠ 4 →
        t.cartState p = if (s.dev.cel p).reseat then 7 else 0)) ∧
    (s.dev.cartState p = 7 → Does (.cartRetryExpiry p) s fun t =>
      t.cartState p = 0 ∧ t.rd F.CELP_CART_STAT_OUTCOME p = 5 ∧ (t.cel p).reseat = false ∧ (t.cel p).pieces = []) ∧
    (s.dev.cartState p = 1 → (s.dev.cel p).reseat = true → Does (.cartRetryExpiry p) s fun t =>
      t.cartState p = 1 ∧ t.rd F.CELP_CART_STAT_OUTCOME p = 5 ∧ (t.cel p).reseat = false) ∧
    (s.dev.cartState p ≠ 7 → (s.dev.cartState p ≠ 1 ∨ (s.dev.cel p).reseat = false) →
      exec (.cartRetryExpiry p) s = .next (s.after s.dev)) ∧
    (s.dev.reaches .CELP p = true →
      ((∃ t, t < 8 ∧ (s.dev.tq p t).take ≠ 0) ∨ (∃ x ∈ (s.dev.cel p).strms, x.2.open_ = true) ∨ s.dev.celWork p = true ∨
        (s.dev.cartState p ≠ 4 ∧ s.dev.cartState p ≠ 5 ∧ s.dev.cartState p ≠ 6)) →
      exec (.cartEject p) s = .next (s.after s.dev)) ∧
    (s.dev.reaches .CELP p = true → (∀ t, t < 8 → (s.dev.tq p t).take = 0) → (∀ x ∈ (s.dev.cel p).strms, x.2.open_ = false) →
      s.dev.celWork p = false → (s.dev.cartState p = 4 ∨ s.dev.cartState p = 5 ∨ s.dev.cartState p = 6) →
      Does (.cartEject p) s fun t => t.cartState p = 0 ∧ (t.cel p).ejected = true ∧ (t.cel p).pwr = false) ∧
    (s.dev.cartState p = 4 → Does (.journalCheckpoint p) s fun t => (t.cel p).jbytes = 0) ∧
    (s.dev.cartState p ≠ 4 → exec (.journalCheckpoint p) s = .next (s.after s.dev)) ∧
    (∀ (k : Fin 16) region, s.dev.cartState p = 4 → (k.val, region) ∈ (s.dev.cel p).rebuild → Does (.rebuildRegion p k region) s fun t =>
      (t.cel p).rebuild = ((s.dev.cel p).rebuild.filter fun y => y != (k.val, region)) ∧
        ((t.cel p).rebuild = [] → s.dev.hub.lost = false → Raised t (pipeEvent p 63) 0)) ∧
    (∀ (k : Fin 16) region, (s.dev.cartState p ≠ 4 ∨ (k.val, region) ∉ (s.dev.cel p).rebuild) →
      exec (.rebuildRegion p k region) s = .next (s.after s.dev)) ∧
    (∀ spare, (s.dev.cartState p ≠ 4 ∨ spare = true) → exec (.flashProgramFail p spare) s = .next (s.after s.dev)) ∧
    (s.dev.cartState p = 4 → Does (.flashProgramFail p false) s fun t => t.on F.CELP_CART_STAT_READONLY p = true ∧
      (s.dev.on F.CELP_CART_STAT_READONLY p = false → s.dev.hub.lost = false → Raised t (pipeEvent p 64) 0) ∧
      ∀ x rest, (s.dev.cel p).pieces = x :: rest → ∀ y ∈ (t.cel p).pieces, y.id ≠ x.id)

/-- The DRAM controllers: bring-up (R465), requests into the channel queues (R473) and the accesses served, the requests of
one source in order (R474, R478 to R480), the window of a
hot channel (R475, R476), scrub (R483), idle self-refresh (R484), and the change of rate with its order and its end (R485, R486, R488). -/
def Obligations.DramControllers : Prop :=
  ∀ (s : State) (p : Pipe), s.awake →
    (s.dev.reaches .DRC p = true → (s.dev.drcState p = 0 ∨ s.dev.drcState p = 6) → exec (.drcInitGo p) s = .next (s.after
      (((s.dev.wr F.DRC_STAT_STATE 1 p).wr F.DRC_STAT_CHFAULT 0 p).wr F.DRC_STAT_TRAINED 0 p))) ∧
    (s.dev.reaches .DRC p = true → s.dev.drcState p ≠ 0 → s.dev.drcState p ≠ 6 → exec (.drcInitGo p) s = .next (s.after s.dev)) ∧
    (∀ failed, s.dev.drcState p ≠ 1 → exec (.drcTrainDone p failed) s = .next (s.after s.dev)) ∧
    (∀ failed : BitVec 6, s.dev.drcState p = 1 → Does (.drcTrainDone p failed) s fun t =>
      (failed = 0 → t.drcState p = 2 ∧ t.rd F.DRC_STAT_TRAINED p = s.dev.drcRates p % 2 ^ 4 ∧
        t.rd F.DRC_STAT_RATE p = topRate (s.dev.drcRates p)) ∧
      (failed ≠ 0 → t.drcState p = 6 ∧ t.rd F.DRC_STAT_CHFAULT p = failed.toNat ∧
        (s.dev.hub.lost = false → Raised t (pipeEvent p 68) failed.toNat))) ∧
    (s.dev.drcState p ≠ 2 → exec (.drcFillDone p) s = .next (s.after s.dev)) ∧
    (s.dev.drcState p = 2 → Does (.drcFillDone p) s fun t => t.drcState p = 3 ∧ (∀ a, (t.dram p).mem.read a = 0) ∧
      (t.dram p).psn = [] ∧ (t.dram p).bad = []) ∧
    (∀ r, ((s.dev.drcState p ≠ 3 ∧ s.dev.drcState p ≠ 5 ∧ s.dev.drcState p ≠ 6) ∨ s.dev.dramInMap p r.addr r.len = false ∨ r.len = 0) →
      exec (.dramRequest p r) s = .next (s.after s.dev)) ∧
    (∀ r ch e, (s.dev.drcState p = 3 ∨ s.dev.drcState p = 5 ∨ s.dev.drcState p = 6) → s.dev.dramInMap p r.addr r.len = true →
      0 < r.len → s.dev.dramEntries p r = [(ch, e)] → Does (.dramRequest p r) s fun t =>
        (t.dram p).flight = (s.dev.dram p).flight ++ [s.dev.dramOp p r] ∧
        (((s.dev.dram p).hold = true ∨ (s.dev.dram p).phase = 3 ∨ s.dev.dramRoom p ch (Tab.get [] (s.dev.dram p).queues ch) e = false ∨
            ∃ y ∈ (s.dev.dram p).waiting, y.1 = ch ∧ y.2.src = e.src) →
          (t.dram p).waiting = (s.dev.dram p).waiting ++ [(ch, e)] ∧ (t.dram p).queues = (s.dev.dram p).queues) ∧
        ((s.dev.dram p).hold = false → (s.dev.dram p).phase ≠ 3 → s.dev.dramRoom p ch (Tab.get [] (s.dev.dram p).queues ch) e = true →
          (∀ y ∈ (s.dev.dram p).waiting, ¬(y.1 = ch ∧ y.2.src = e.src)) →
          Tab.get [] (t.dram p).queues ch = Tab.get [] (s.dev.dram p).queues ch ++ [e] ∧ ch ∉ (t.dram p).sr)) ∧
    (∀ (ch : Fin 6) flaws, pickEntry (Tab.get [] (s.dev.dram p).queues ch) = none →
      exec (.dramAccessDone p ch flaws) s = .next (s.after s.dev)) ∧
    (∀ (ch : Fin 6) n e a o x, pickEntry (Tab.get [] (s.dev.dram p).queues ch) = some (n, e) → e.accs = [a] →
      ((s.dev.dram p).flight.filter fun y => y.src == e.src) = [o] → o.seq = e.seq → o.accs = [x] → x.addr = a →
      (o.wr = true → Does (.dramAccessDone p ch []) s fun t => (t.dram p).mem = (s.dev.dram p).mem.writes a x.data ∧
        o.seq ∉ (t.dram p).flight.map (·.seq)) ∧
      (o.wr = false → bit (s.dev.rd F.DRC_STAT_CHFAULT p) (s.dev.dramChan p a) = false →
        Does (.dramAccessDone p ch []) s fun t => (t.dram p).mem = (s.dev.dram p).mem ∧
          (t.dram p).dlvData = (s.dev.dram p).mem.reads a x.len ∧ (t.dram p).dlvSrc = o.src ∧
          (t.dram p).dlvPsn = ((wordsOf a x.len).any (fun w => (s.dev.dram p).psn.contains w) ||
            (wordsOf a x.len).any fun w => (Tab.find (s.dev.dram p).bad w).isSome))) ∧
    (∀ (ch : Fin 6) n e a as o os flaws, pickEntry (Tab.get [] (s.dev.dram p).queues ch) = some (n, e) → e.accs = a :: as →
      ((s.dev.dram p).flight.filter fun y => y.src == e.src) = o :: os → o.seq ≠ e.seq → (∃ x ∈ o.accs, x.found = none) →
      Does (.dramAccessDone p ch flaws) s fun t => (t.dram p).mem = (s.dev.dram p).mem ∧ (t.dram p).dlvData = (s.dev.dram p).dlvData) ∧
    (Does (.drcHotSample p) s fun t => ∀ ch : Fin 6, Tab.get 0 (t.dram p).samples ch =
      Tab.get 0 (s.dev.dram p).samples ch + (Tab.get [] (s.dev.dram p).queues ch).length) ∧
    (Does (.drcHotWindowEnd p) s fun t => (t.dram p).samples = [] ∧ (t.dram p).winBlack = false ∧
      ((s.dev.dram p).winBlack = false → (s.dev.dram p).phase ≠ 3 → (s.dev.dram p).hold = false →
        t.rd F.DRC_HOT_STAT_SHARE p = (busiest (s.dev.dram p).samples).2 ∧
          t.on F.DRC_HOT_STAT_HOT p = decide (s.dev.rd F.DRC_HOT_CFG_SHARE p < (busiest (s.dev.dram p).samples).2) ∧
          (t.dram p).hotRun = (if s.dev.rd F.DRC_HOT_CFG_SHARE p < (busiest (s.dev.dram p).samples).2 then
            (s.dev.dram p).hotRun + 1 else 0))) ∧
    (s.dev.on F.DRC_HOT_STAT_HOLD p = true → s.dev.on F.DRC_HOT_STAT_HOT p = false → Does (.drcHotHoldEnd p) s fun t =>
      t.on F.DRC_HOT_STAT_HOLD p = false ∧ ∀ y ∈ t.router.yields, ¬(y.origin = p.val ∧ y.res = 1 ∧ y.cause = 3)) ∧
    ((s.dev.on F.DRC_HOT_STAT_HOLD p = false ∨ s.dev.on F.DRC_HOT_STAT_HOT p = true) →
      exec (.drcHotHoldEnd p) s = .next (s.after s.dev)) ∧
    (∀ w flaw, (s.dev.on F.DRC_SCRUB_EN p = false ∨ s.dev.drcState p ≠ 3) → exec (.drcScrubRead p w flaw) s = .next (s.after s.dev)) ∧
    (∀ w k y, s.dev.on F.DRC_SCRUB_EN p = true → s.dev.drcState p = 3 → s.dev.dramChan p (32 * w) ∉ (s.dev.dram p).sr →
      32 * w + 32 ≤ s.dev.mapBytes p → s.dev.cnt C.DRC_UNC_CNT p < 2 ^ 48 → bit (s.dev.rd F.DRC_STAT_CHFAULT p) (s.dev.dramChan p (32 * w)) = false →
      Does (.drcScrubRead p w (.multiple k y)) s fun t =>
        Tab.find (t.dram p).bad w = some (k, y) ∧ t.cnt C.DRC_UNC_CNT p = min (2 ^ 48 - 1) (s.dev.cnt C.DRC_UNC_CNT p + 1) ∧
          (s.dev.hub.lost = false → Raised t (pipeEvent p 65) (pack [(3, k), (3, s.dev.dramChan p (32 * w))]))) ∧
    (∀ ch : Fin 6, s.dev.on F.DRC_SR_CFG_EN p = true → (s.dev.drcState p = 3 ∨ s.dev.drcState p = 5 ∧ (s.dev.dram p).phase ≠ 3) →
      Tab.get [] (s.dev.dram p).queues ch = [] →
      exec (.drcSrEntry p ch) s = .next (s.after (s.dev.updDram p fun m => { m with sr := insertNum ch.val m.sr }))) ∧
    (∀ ch : Fin 6, (s.dev.on F.DRC_SR_CFG_EN p = false ∨ Tab.get [] (s.dev.dram p).queues ch ≠ []) →
      exec (.drcSrEntry p ch) s = .next (s.after s.dev)) ∧
    (∀ rate : Fin 4, s.dev.reaches .DRC p = true → s.dev.on F.DRC_FCHG_GO p = true →
      exec (.drcFchgGo p rate) s = .next (s.after s.dev)) ∧
    (∀ rate : Fin 4, s.dev.reaches .DRC p = true → s.dev.on F.DRC_FCHG_GO p = false → Does (.drcFchgGo p rate) s fun t =>
      t.rd F.DRC_FCHG_RATE p = rate ∧
        (bit (s.dev.rd F.DRC_STAT_TRAINED p) rate = false → t.rd F.DRC_FCHG_STAT_RESULT p = 1) ∧
        (bit (s.dev.rd F.DRC_STAT_TRAINED p) rate = true → s.dev.drcState p ≠ 3 → t.rd F.DRC_FCHG_STAT_RESULT p = 2) ∧
        (bit (s.dev.rd F.DRC_STAT_TRAINED p) rate = true → s.dev.drcState p = 3 → s.dev.rd F.DRC_STAT_RATE p = rate →
          t.rd F.DRC_FCHG_STAT_RESULT p = 3) ∧
        (bit (s.dev.rd F.DRC_STAT_TRAINED p) rate = true → s.dev.drcState p = 3 → s.dev.rd F.DRC_STAT_RATE p ≠ rate →
          t.on F.DRC_FCHG_GO p = true ∧ t.on F.DRC_FCHG_STAT_BUSY p = true ∧ t.drcState p = 5 ∧ (t.dram p).phase = 1 ∧
            t.hub.fchgOrder = s.dev.hub.fchgOrder ++ [p.val])) ∧
    ((s.dev.dram p).phase = 1 →
      exec (.drcFchgSetpointsDone p) s = .next (s.after (s.dev.updDram p fun m => { m with phase := 2 }))) ∧
    ((s.dev.dram p).phase ≠ 1 → exec (.drcFchgSetpointsDone p) s = .next (s.after s.dev)) ∧
    ((s.dev.dram p).phase = 2 → (s.dev.dram p).queues = [] → s.dev.fchgTurn p = true → s.dev.hub.lost = false →
      Does (.drcFchgSrEntry p) s fun t => (t.dram p).phase = 3 ∧ (t.dram p).sr = [0, 1, 2, 3, 4, 5]) ∧
    (((s.dev.dram p).phase ≠ 2 ∨ (s.dev.dram p).queues ≠ [] ∨ s.dev.fchgTurn p = false ∨ s.dev.hub.lost = true) →
      exec (.drcFchgSrEntry p) s = .next (s.after s.dev)) ∧
    ((s.dev.dram p).phase = 2 → (s.dev.dram p).hold = false → exec (.drcFchgHoldTimeout p) s =
      .next (s.after (s.dev.updDram p fun m => { m with hold := true, black := s.dev.c }))) ∧
    (((s.dev.dram p).phase ≠ 2 ∨ (s.dev.dram p).hold = true) → exec (.drcFchgHoldTimeout p) s = .next (s.after s.dev)) ∧
    ((s.dev.dram p).phase ≠ 3 → exec (.drcFchgPllLocked p) s = .next (s.after s.dev)) ∧
    ((s.dev.dram p).phase = 3 → Does (.drcFchgPllLocked p) s fun t =>
      t.drcState p = (if (s.dev.dram p).park then 4 else 3) ∧ t.rd F.DRC_STAT_RATE p = s.dev.rd F.DRC_FCHG_RATE p % 2 ^ 2 ∧
        t.rd F.DRC_FCHG_STAT_RESULT p = 0 ∧ t.on F.DRC_FCHG_STAT_BUSY p = false ∧ t.on F.DRC_FCHG_GO p = false ∧
        (t.dram p).phase = 0 ∧ p.val ∉ t.hub.fchgOrder)

/-- The time unit: a fault of the time reference (`refclkTimeFault`) raises its event once, `refclkTimeRecover` ends it (R495); messages of another domain or source, or with the clock off,
have no effect; a Sync's offset is shown and an offset beyond the jump threshold refuses the step and ends in HOLDOVER, with no master the
servo holds (R496, R497); a host step applies where steps are allowed and is otherwise pending until a FORCE (R498, R499); a read of the
nanoseconds latches the seconds (R493); a timecode label is written at its frame (R503). -/
def Obligations.TimeUnit : Prop :=
  ∀ s : State, s.awake →
    (s.dev.on F.TIME_STAT_REFFAULT = true → exec .refclkTimeFault s = .next (s.after s.dev)) ∧
    (s.dev.on F.TIME_STAT_REFFAULT = false → Does .refclkTimeFault s fun t =>
      (Config.freeValue s.dev.free % 2 = 0 ∨ s.dev.on F.TIME_CFG_XTAL = true →
        t.on F.TIME_STAT_REFFAULT = true ∧ t.pipes = s.dev.pipes ∧ (s.dev.hub.lost = false → Raised t 548 0)) ∧
      (Config.freeValue s.dev.free % 2 = 1 → s.dev.on F.TIME_CFG_XTAL = false → t = { s.dev with free := s.dev.free + 1 })) ∧
    (Does .refclkTimeRecover s fun t => t.on F.TIME_STAT_REFFAULT = false ∧ t.hub = s.dev.hub ∧ t.pipes = s.dev.pipes) ∧
    (∀ m, (s.dev.ptpTakes m.domain = false ∨ s.dev.hub.ptp.sel ≠ some m.src) → exec (.ptpSync m) s = .next (s.after s.dev) ∧
      exec (.ptpFollowUp m) s = .next (s.after s.dev) ∧ exec (.ptpDelayResp m) s = .next (s.after s.dev)) ∧
    (∀ m, s.dev.ptpTakes m.domain = true → s.dev.hub.ptp.sel = some m.src → m.twoStep = true → Does (.ptpSync m) s fun t =>
      t.hub.ptp.waiting = some (m.src, m.seq, (s.dev.ptpStamp false).toNat, m.corr)) ∧
    (∀ m x o, s.dev.ptpTakes m.domain = true → s.dev.hub.ptp.sel = some m.src →
      ((m.twoStep = false ∧ x = s.dev.ptpStamp false - PtpMsg_t m - m.corr) →
        o = x - s.dev.hub.ptp.mpd → Does (.ptpSync m) s fun t => t.hub.ptp.sync = some x ∧
          t.rd F.TIME_OFFSET_VALUE = satCode 32 (roundInt o 65536) ∧
          (s.dev.jumpUs * 65536000 < o.natAbs → t.rd F.TIME_STAT_STATE = 3 ∧ t.on F.TIME_STAT_PENDING = true ∧
            t.on F.TIME_STAT_REFUSED = true ∧ t.hub.ptp.pending = some (-(roundInt o 65536))) ∧
          (o.natAbs ≤ s.dev.jumpUs * 65536000 → t.on F.TIME_STAT_PENDING = false)) ∧
      (∀ t2 corr, s.dev.hub.ptp.waiting = some (m.src, m.seq, t2, corr) → x = (t2 : Int) - PtpMsg_t m - corr - m.corr →
        o = x - s.dev.hub.ptp.mpd → Does (.ptpFollowUp m) s fun t => t.hub.ptp.sync = some x ∧ t.hub.ptp.waiting = none ∧
          t.rd F.TIME_OFFSET_VALUE = satCode 32 (roundInt o 65536))) ∧
    (s.dev.hub.ptp.waiting = none → ∀ m, exec (.ptpFollowUp m) s = .next (s.after s.dev)) ∧
    (s.dev.on F.TIME_PTP_EN = true → s.dev.isFollower = false → s.dev.hub.ptp.sel.isSome = true → s.dev.hub.lost = false →
      Does .ptpDelayReqSend s fun t => t.hub.ptp.dseq = (s.dev.hub.ptp.dseq + 1) % 2 ^ 16 ∧
        t.hub.ptp.t3 = some (s.dev.ptpStamp true).toNat ∧
        t.hub.ptp.ucast = if s.dev.on F.TIME_PTP_UCAST && !s.dev.on F.TIME_PTP_PROF then s.dev.hub.ptp.sel else none) ∧
    ((s.dev.on F.TIME_PTP_EN = false ∨ s.dev.isFollower = true ∨ s.dev.hub.ptp.sel = none ∨ s.dev.hub.lost = true) →
      exec .ptpDelayReqSend s = .next (s.after s.dev)) ∧
    (∀ m t3 x mpd, s.dev.hub.ptp.t3 = some t3 → s.dev.hub.ptp.sync = some x → s.dev.ptpTakes m.domain = true →
      s.dev.hub.ptp.sel = some m.src → s.dev.hub.ptp.dseq = m.seq → mpd = (x + (PtpMsg_t m - (t3 : Int) - m.corr)) / 2 →
      Does (.ptpDelayResp m) s fun t => t.hub.ptp.mpd = mpd ∧ t.hub.ptp.t3 = none ∧
        t.rd F.TIME_PDELAY_VALUE = satCode 32 (roundInt mpd 65536)) ∧
    (∀ a, s.dev.ptpTakes a.domain = false → exec (.ptpAnnounce a) s = .next (s.after s.dev)) ∧
    (∀ a, s.dev.ptpTakes a.domain = true → Does (.ptpAnnounce a) s fun t =>
      (∃ m ∈ t.hub.ptp.masters, m.src = a.src ∧ m.set_ = a.dataset ∧ m.at1 = s.dev.c) ∧
        (t.hub.ptp.sel = some a.src → t.hub.ptp.utc = a.utc ∧ t.on F.TIME_STAT_UTCV = a.utc.isSome)) ∧
    (s.dev.hub.ptp.sel = none → exec .ptpAnnounceTimeout s = .next (s.after s.dev) ∧ exec .ptpSyncTimeout s = .next (s.after s.dev)) ∧
    (∀ src, s.dev.hub.ptp.sel = some src → Does .ptpAnnounceTimeout s fun t =>
      (∀ m ∈ t.hub.ptp.masters, m.src ≠ src) ∧ t.hub.ptp.utc = none ∧ t.on F.TIME_STAT_UTCV = false ∧
        t.rd F.TIME_STAT_STATE = if s.dev.rd F.TIME_STAT_STATE = 0 then 0 else 3) ∧
    (s.dev.hub.ptp.sel.isSome = true → Does .ptpSyncTimeout s fun t =>
      t.rd F.TIME_STAT_STATE = if s.dev.rd F.TIME_STAT_STATE = 0 then 0 else 3) ∧
    (s.dev.reaches .TIME 0 = true →
      (∀ force ns step, ns = s.dev.rd F.TIME_STEP_NS_VALUE →
        step = signed 32 (s.dev.rd F.TIME_STEP_S_VALUE) * 1000000000 + (ns : Int) → Does (.timeCtlStep force) s fun t =>
          ((1000000000 ≤ ns ∨ (force = false ∧ (s.dev.stepsAllowed = false ∨ 1000 * s.dev.jumpUs < step.natAbs))) →
            t.hub.ptp.pending = some step ∧ t.on F.TIME_STAT_PENDING = true ∧ t.on F.TIME_STAT_REFUSED = true ∧
              t.hub.ptp.apply = s.dev.hub.ptp.apply) ∧
          (ns < 1000000000 → (force = true ∨ (s.dev.stepsAllowed = true ∧ step.natAbs ≤ 1000 * s.dev.jumpUs)) →
            t.hub.ptp.apply = some step ∧ t.hub.ptp.pending = none ∧ t.on F.TIME_STAT_PENDING = false)) ∧
      (s.dev.hub.ptp.pending = none → exec .timeCtlForce s = .next (s.after s.dev)) ∧
      (∀ x, s.dev.hub.ptp.pending = some x → Does .timeCtlForce s fun t =>
        t.hub.ptp.apply = some x ∧ t.hub.ptp.pending = none ∧ t.on F.TIME_STAT_PENDING = false)) ∧
    (∀ u : Unit5, s.dev.reaches (if u.val < 4 then .NET else .TIME) u = true → Does (.timeNsRead u) s fun t =>
      t.rdata = ptpNs (s.dev.unitTime u) ∧ Tab.find t.tsnap u = some (ptpSec (s.dev.unitTime u) % 2 ^ 48)) ∧
    (∀ g : Fin 4, (s.dev.hub.lost = true ∨ s.dev.on F.TIME_TC_CFG_EN 0 g = false) →
      exec (.timecodeFrame g) s = .next (s.after s.dev)) ∧
    (∀ g : Fin 4, s.dev.hub.lost = false → s.dev.on F.TIME_TC_CFG_EN 0 g = true → s.dev.rd F.TIME_TC_CFG_NUM 0 g ≠ 0 →
      s.dev.rd F.TIME_TC_CFG_DEN 0 g ≠ 0 → Does (.timecodeFrame g) s fun t =>
        t.on F.TIME_TC_VAL_DROP 0 g = (s.dev.on F.TIME_TC_CFG_DF 0 g && s.dev.rd F.TIME_TC_CFG_DEN 0 g == 1001 &&
          (s.dev.rd F.TIME_TC_CFG_NUM 0 g == 30000 || s.dev.rd F.TIME_TC_CFG_NUM 0 g == 60000)) ∧
        (ceilDiv (s.dev.rd F.TIME_TC_CFG_NUM 0 g) (s.dev.rd F.TIME_TC_CFG_DEN 0 g) ≤ 30 → t.on F.TIME_TC_VAL_PAIR 0 g = false))

/-- Ethernet ports and live outputs: a frame that is not for the port or has a bad FCS is not passed on, an accepted one is dropped without
credit (R504); a read of the transmit timestamps pops the oldest one (R502); a frame of a live output goes into the buffer for its slot
(R506, R507), at the slot's launch time it begins to be sent (R508), its packets go out one by one with the output's own header or the frame
is truncated (R509, R510); an SDI raster shows its slot's frame or repeats one (R514, R515). `ethHostTx` sends the item read from the port's
cask with its FCS, or counts a transmit error. -/
def Obligations.EthernetAndLive : Prop :=
  ∀ (s : State) (p : Pipe), s.awake →
    (∀ (q : Fin 6) bs ok, s.dev.ethUp p q = false → exec (.ethFrameRx p q bs ok) s = .next (s.after s.dev) ∧
      exec (.ethHostTx p q) s = .next (s.after s.dev)) ∧
    (∀ (q : Fin 6) bs, s.dev.ethUp p q = true → exec (.ethFrameRx p q bs false) s = .next (s.after (s.dev.bump C.NET_CNT p q 2))) ∧
    (∀ (q : Fin 6) bs, s.dev.ethUp p q = true → (s.dev.ethMax p q < bs.length + 4 ∨
        (s.dev.ethAccepts p q bs = false ∧ s.dev.isPtpPort p q = false)) →
      exec (.ethFrameRx p q bs true) s = .next (s.after s.dev)) ∧
    (∀ (q : Fin 6) bs k, s.dev.ethUp p q = true → bs.length + 4 ≤ s.dev.ethMax p q → s.dev.ethAccepts p q bs = true →
      s.dev.isPtpPort p q = false → k = s.dev.rd F.NET_PORT_CFG_RXCASK p q → s.dev.cnt C.NET_CNT p q 0 < 2 ^ 48 →
      (s.dev.on F.CASK_CFG_EN p k = false →
        exec (.ethFrameRx p q bs true) s = .next (s.after (s.dev.bump C.NET_CNT p q 1))) ∧
      (s.dev.on F.CASK_CFG_EN p k = true → (s.dev.cask p k).wait = [] → (s.dev.cask p k).next = none →
        (16 + bs.length + 7) / 8 ≤ s.dev.rd F.CASK_STAT_CREDITS p k → Does (.ethFrameRx p q bs true) s fun t =>
          t.cnt C.NET_CNT p q 0 = min (2 ^ 48 - 1) (s.dev.cnt C.NET_CNT p q 0 + 1))) ∧
    (∀ (q : Fin 6) e, s.dev.ethUp p q = true →
      e = (if s.dev.ethWhole p q then s.dev
        else s.dev.ethFill p q ((s.dev.cask p (s.dev.rd F.NET_PORT_CFG_TXCASK p q)).words.length + 1)) →
      (e.ethWhole p q = false → exec (.ethHostTx p q) s = .next (s.after e)) ∧
      (∀ ws bs len, e.ethWhole p q = true → ws = (e.eth p q).item → bs = ws.flatMap (fun w => leBytes 8 w.data) →
        len = ofLeBytes (bs.take 2) → Does (.ethHostTx p q) s fun t => (t.eth p q).item = [] ∧
          (((∃ w ∈ ws, w.psn = true) ∨ e.ethMax p q < len + 4 ∨ bs.length < len + 8) → e.cnt C.NET_CNT p q 3 < 2 ^ 48 →
            t.cnt C.NET_CNT p q 3 = min (2 ^ 48 - 1) (e.cnt C.NET_CNT p q 3 + 1) ∧ (t.eth p q).sent = (e.eth p q).sent) ∧
          ((∀ w ∈ ws, w.psn = false) → len + 4 ≤ e.ethMax p q → len + 8 ≤ bs.length →
            (t.eth p q).sent = (bs.drop 8).take len ++ leBytes 4 (crc32 ((bs.drop 8).take len)) ∧
            (∀ f, f = ofLeBytes ((bs.drop 2).take 1) → (bit f 0 = false → (t.eth p q).txts = (e.eth p q).txts) ∧
              (bit f 0 = true → (e.eth p q).txts.length < 64 → (t.eth p q).txts = (e.eth p q).txts ++
                [((e.ethStamp true p q).1, (e.ethStamp true p q).2, ofLeBytes ((bs.drop 4).take 2))]))))) ∧
    (∀ q : Fin 6, s.dev.reaches .NET p = true →
      ((s.dev.eth p q).txts = [] → Does (.txtsPop p q) s fun t => t.rdata = 0 ∧ t.on F.NET_TXTS_LO_VALID p q = false) ∧
      (∀ ts fr id rest, (s.dev.eth p q).txts = (ts, fr, id) :: rest → Does (.txtsPop p q) s fun t =>
        t.rdata = 2 ^ 31 + fr * 2 ^ 16 + id ∧ (t.eth p q).txts = rest ∧ t.rd F.NET_TXTS_HI_TS32 p q = ts % 2 ^ 32 ∧
          t.rd F.NET_TXTS_LO_ID p q = id % 2 ^ 16)) ∧
    (∀ i, ((∃ o n fl, i = Instr.liveFrameInput p o n fl) ∨ (∃ o due, i = .liveSlot p o due) ∨ (∃ o r, i = .livePacketLaunch p o r) ∨
      ∃ o due ph, i = .sdiRasterStart p o due ph) → s.dev.stopped = true → exec i s = .next (s.after s.dev)) ∧
    (s.dev.stopped = false → ∀ o : Fin 16,
      (s.dev.liveOn p o = false → ∀ n flaws, exec (.liveFrameInput p o n flaws) s = .next (s.after s.dev)) ∧
      (∀ words flaws e, s.dev.liveOn p o = true → e = s.dev.liveFill p o words flaws →
        (e.liveWhole p o = false → exec (.liveFrameInput p o words flaws) s = .next (s.after e)) ∧
        (∀ x bs t n data, e.liveWhole p o = true → x = e.liveOut p o → bs = x.item.flatMap (fun w => leBytes 8 w.data) →
          e.liveStopped p o = false → e.liveItem p o x.fs bs = (t, data) → n = e.liveSlotOf p o t → n ∉ x.missed →
          Does (.liveFrameInput p o words flaws) s fun a => (a.liveOut p o).item = [] ∧
            (((∃ w ∈ x.item, w.psn = true) ∨ ∃ l, x.last = some l ∧ n ≤ l) → e.cnt C.NET_LO_CNT p o 0 < 2 ^ 48 →
              a.cnt C.NET_LO_CNT p o 0 = min (2 ^ 48 - 1) (e.cnt C.NET_LO_CNT p o 0 + 1) ∧
                (a.liveOut p o).frames = x.frames ∧ (e.hub.lost = false → Raised a (pipeEvent p 70) (liveSyn o 0))) ∧
            (∀ k, (∀ w ∈ x.item, w.psn = false) → (∀ l, x.last = some l → l < n) →
              data.length ≤ e.rd F.NET_LO_BUF_FSZ p o * 2 ^ 20 → (∀ f ∈ x.frames, f.slot ≠ n) →
              x.freeSlot (e.liveSlots p o) = some k →
              (a.liveOut p o).frames = x.frames ++ [⟨n, data.length, k, t⟩] ∧
                (a.dram p).mem = (e.dram p).mem.writes
                  ((e.rd F.NET_LO_BUF_BASE p o + k * e.rd F.NET_LO_BUF_FSZ p o) * 2 ^ 20) data))) ∧
      (∀ due, (s.dev.liveOn p o = false ∨ s.dev.on F.NET_LO_CFG_KIND p o = true) →
        exec (.liveSlot p o due) s = .next (s.after s.dev)) ∧
      (∀ due n, s.dev.liveOn p o = true → s.dev.on F.NET_LO_CFG_KIND p o = false → s.dev.liveReady p o = true →
        s.dev.liveStopped p o = false → s.dev.liveTplOk p o = true →
        n = frameAt (s.dev.rd F.NET_LO_RATE_NUM p o) (s.dev.rd F.NET_LO_RATE_DEN p o)
          (nsOf (s.dev.pipeTime p) - (1000 * s.dev.rd F.NET_LO_TIME_TROFF p o + (s.dev.livePlan p o).1)) →
        (∀ l, (s.dev.liveOut p o).last = some l → l < n) → Does (.liveSlot p o due) s fun a =>
          a.on F.NET_LO_STAT_RUN p o = true ∧ (a.liveOut p o).last = some n ∧
            (∀ f, ((s.dev.liveOut p o).frames.find? fun f => f.slot == n) = some f →
              (a.liveOut p o).cur = some (f, s.dev.livePackets p o f.size, 0) ∧ a.rd F.NET_LO_STAT_SLOT p o = n % 2 ^ 16) ∧
            ((∀ f ∈ (s.dev.liveOut p o).frames, f.slot ≠ n) → due = true →
              (a.liveOut p o).missed = (s.dev.liveOut p o).missed ++ [n])) ∧
      (∀ ready, ((s.dev.liveOut p o).cur = none ∨ s.dev.on F.NET_LO_CFG_KIND p o = true) →
        exec (.livePacketLaunch p o ready) s = .next (s.after s.dev)) ∧
      (∀ ready f n k, (s.dev.liveOut p o).cur = some (f, n, k) → nsOf (s.dev.pipeTime p) < s.dev.liveLaunchAt p o f n k →
        exec (.livePacketLaunch p o ready) s = .next (s.after s.dev)) ∧
      (∀ ready f n k pb data bad e, (s.dev.liveOut p o).cur = some (f, n, k) → s.dev.on F.NET_LO_CFG_KIND p o = false →
        s.dev.liveLaunchAt p o f n k ≤ nsOf (s.dev.pipeTime p) →
        pb = (if s.dev.rd F.NET_LO_CFG_ESS p o = 2 then f.size else s.dev.rd F.NET_LO_PKT_PKTBYTES p o) →
        s.dev.dramRead p 0x2C ((s.dev.rd F.NET_LO_BUF_BASE p o + f.at_ * s.dev.rd F.NET_LO_BUF_FSZ p o) * 2 ^ 20 + k * pb)
          (min pb (f.size - k * pb)) = (data, bad, e) → Does (.livePacketLaunch p o ready) s fun a =>
          ((ready = false ∨ s.dev.liveReady p o = false ∨ bad = true) → (a.liveOut p o).cur = none ∧
            (s.dev.hub.lost = false → Raised a (pipeEvent p 70) (liveSyn o 1))) ∧
          (ready = true → s.dev.liveReady p o = true → bad = false → (a.liveOut p o).seq = ((s.dev.liveOut p o).seq + 1) % 2 ^ 32 ∧
            (a.liveOut p o).pkt = s.dev.livePacket p o f n k data ∧
            (a.liveOut p o).cur = if k + 1 < n then some (f, n, k + 1) else none)) ∧
      (∀ due ph, (s.dev.liveOn p o = false ∨ s.dev.on F.NET_LO_CFG_KIND p o = false) →
        exec (.sdiRasterStart p o due ph) s = .next (s.after s.dev)) ∧
      (∀ due ph n, s.dev.liveOn p o = true → s.dev.on F.NET_LO_CFG_KIND p o = true →
        n = frameAt (s.dev.rd F.NET_LO_RATE_NUM p o) (s.dev.rd F.NET_LO_RATE_DEN p o)
          (nsOf (s.dev.pipeTime p) - s.dev.rd F.SDI_LO_CFG_OFF p o) → Does (.sdiRasterStart p o due ph) s fun a =>
          (s.dev.liveReady p o = false → a.rd F.SDI_LO_STAT_STATE p o = 1 ∧ a.on F.NET_LO_STAT_RUN p o = false) ∧
          (s.dev.liveReady p o = true → a.rd F.SDI_LO_STAT_STATE p o = 2 ∧ a.rd F.SDI_LO_STAT_PHASE p o = satCode 16 ph ∧
            (a.liveOut p o).raster.lines = (if s.dev.sdiLate p o ph then (if ph < 0 then 2251 else 2249) else 2250) ∧
            (a.liveOut p o).raster.shows = ((a.liveOut p o).cur.map fun c => c.1.slot) ∧
            (∀ f, s.dev.liveStopped p o = false → (∀ l, (s.dev.liveOut p o).last = some l → l < n) →
              ((s.dev.liveOut p o).frames.find? fun f => f.slot == n) = some f →
              (a.liveOut p o).cur = some (f, 1, 1) ∧ (a.liveOut p o).last = some n ∧ a.rd F.NET_LO_STAT_SLOT p o = n % 2 ^ 16))))

/-- The Press engines: an index beyond the ring is discarded (R121, R527); the idle core takes the next posted descriptor of its rings, one
in host memory with a read, and a ring that cannot be reached halts (R529, R530); a job's end frees the core, moves HEAD and halts the ring
on a halting status (R528 to R530); ABORT, RESUME and the clearing of EN (R531). -/
def Obligations.PressEngines : Prop :=
  ∀ (s : State) (u : Unit5), s.awake →
    ((s.dev.stopped = true ∨ (s.dev.press u).job.isSome = true ∨ (s.dev.press u).fetching.isSome = true ∨ s.dev.pressPick u = none) →
      exec (.pressJobStart u) s = .next (s.after s.dev)) ∧
    (∀ r slot, s.dev.stopped = false → (s.dev.press u).job = none → (s.dev.press u).fetching = none → s.dev.pressPick u = some r →
      slot = Tab.get 0 (s.dev.press u).next r →
      (s.dev.pressHostRing u r = true → s.dev.rackHostOk u = true → Does (.pressJobStart u) s fun t =>
        (t.press u).fetching = some r ∧ (t.press u).last = r ∧ t.hub.hreq = s.dev.hub.hreq ++ [.press u r]) ∧
      (s.dev.pressHostRing u r = true → s.dev.rackHostOk u = false → Does (.pressJobStart u) s fun t =>
        t.rd F.PRESS_RING_STAT_STATE u r = 3 ∧ t.rd F.PRESS_RING_STAT_LSTATUS u r = 0x1F ∧
          t.rd F.PRESS_RING_STAT_HIDX u r = slot % 2 ^ 16) ∧
      (∀ bs e, s.dev.pressHostRing u r = false →
        s.dev.dramRead u (pressSrc u) (s.dev.pressSlotAt u r slot % 2 ^ 40) 32 = (bs, false, e) → Does (.pressJobStart u) s fun t =>
          (∃ j, (t.press u).job = some (r, j) ∧ j.slot = slot ∧ j.ws = words32 bs) ∧ t.on F.PRESS_GSTAT_BUSY u = true ∧
            t.rd F.PRESS_RING_STAT_STATE u r = 2 ∧
            Tab.get 0 (t.press u).next r = if slot + 1 < s.dev.pressSlots u r then slot + 1 else 0)) ∧
    (∀ bad denied n both, (s.dev.stopped = true ∨ (s.dev.press u).job = none) →
      exec (.pressJobEnd u bad denied ⟨n, both⟩) s = .next (s.after s.dev)) ∧
    (∀ bad denied n both r j st, s.dev.stopped = false → (s.dev.press u).job = some (r, j) → j.status = some st → st < 2 ^ 8 →
      s.dev.pressHostRing u r = false → Does (.pressJobEnd u bad denied ⟨n, both⟩) s fun t =>
        (t.press u).job = none ∧ t.on F.PRESS_GSTAT_BUSY u = false ∧
          t.rd F.PRESS_HEAD_HEAD u r = (if j.slot + 1 < s.dev.pressSlots u r then j.slot + 1 else 0) % 2 ^ 16 ∧
          t.rd F.PRESS_RING_STAT_STATE u r = (if 0x10 ≤ st then 3 else 1) ∧
          (0x10 ≤ st → t.rd F.PRESS_RING_STAT_LSTATUS u r = st)) ∧
    (∀ bad denied n both r j src out used chk bs e a, u.val < 4 → s.dev.stopped = false → (s.dev.press u).job = some (r, j) →
      j.status = none → j.op = 1 → j.srck = 0 → j.dstk = 0 → s.dev.pressHostRing u r = false →
      src = (s.dev.dram u).mem.reads (j.src % 2 ^ 40) j.len → inflate j.fmt src j.dlen = .ok (out, used, chk) →
      s.dev.dramRead u (pressSrc u) (j.src % 2 ^ 40) used = (bs, false, e) → a = s.dev.pressSlotAt u r j.slot % 2 ^ 40 →
      s.dev.cnt C.PRESS_OUT_CNT u < 2 ^ 48 → Does (.pressJobEnd u bad denied ⟨n, both⟩) s fun t =>
        (t.press u).job = none ∧ t.rd F.PRESS_RING_STAT_STATE u r = 1 ∧
          (t.dram u).mem = (((s.dev.dram u).mem.writes (j.dst % 2 ^ 40) out).writes (a + 36)
            ([out.length, used, chk, 0, 0].flatMap (leBytes 4))).writes (a + 32)
            (leBytes 4 (2 ^ 31 + (if used < j.len then 2 ^ 30 else 0) + j.tag)) ∧
          t.rd F.PRESS_HEAD_HEAD u r = (if j.slot + 1 < s.dev.pressSlots u r then j.slot + 1 else 0) % 2 ^ 16 ∧
          t.cnt C.PRESS_OUT_CNT u = min (2 ^ 48 - 1) (s.dev.cnt C.PRESS_OUT_CNT u + out.length)) ∧
    (∀ r : Fin 4, r.val < pressRings u → s.dev.reaches .PRESS_P u = true →
      (∀ tail : BitVec 16, tail.toNat < s.dev.pressSlots u r → Does (.pressTailWrite u r tail) s fun t =>
        t.rd F.PRESS_TAIL_TAIL u r = tail.toNat ∧ t.press u = s.dev.press u) ∧
      (∀ tail : BitVec 16, s.dev.pressSlots u r ≤ tail.toNat → exec (.pressTailWrite u r tail) s = .next (s.after s.dev)) ∧
      (s.dev.rd F.PRESS_RING_STAT_STATE u r ≠ 1 → s.dev.rd F.PRESS_RING_STAT_STATE u r ≠ 2 →
        exec (.pressAbort u r) s = .next (s.after s.dev)) ∧
      ((s.dev.rd F.PRESS_RING_STAT_STATE u r = 1 ∨ s.dev.rd F.PRESS_RING_STAT_STATE u r = 2) → Does (.pressAbort u r) s fun t =>
        (∀ j, (s.dev.press u).job = some (r.val, j) → t.rd F.PRESS_RING_STAT_STATE u r = 4 ∧
          (t.press u).job = some (r.val, { j with status := some 0x14 })) ∧
        ((∀ j, (s.dev.press u).job ≠ some (r.val, j)) → t.rd F.PRESS_RING_STAT_STATE u r = 3 ∧
          t.rd F.PRESS_RING_STAT_LSTATUS u r = 0x14)) ∧
      (s.dev.rd F.PRESS_RING_STAT_STATE u r = 3 → Does (.pressResume u r) s fun t => t.rd F.PRESS_RING_STAT_STATE u r = 1 ∧
        Tab.get 0 (t.press u).next r =
          if s.dev.rd F.PRESS_RING_STAT_HIDX u r + 1 < s.dev.pressSlots u r then s.dev.rd F.PRESS_RING_STAT_HIDX u r + 1 else 0) ∧
      (s.dev.rd F.PRESS_RING_STAT_STATE u r ≠ 3 → exec (.pressResume u r) s = .next (s.after s.dev)) ∧
      (s.dev.on F.PRESS_RING_CFG_EN u r = false → exec (.pressRingDisable u r) s = .next (s.after s.dev)) ∧
      (s.dev.on F.PRESS_RING_CFG_EN u r = true → Does (.pressRingDisable u r) s fun t =>
        t.on F.PRESS_RING_CFG_EN u r = false ∧ t.rd F.PRESS_RING_STAT_STATE u r = 0 ∧
          bit (t.rd F.PRESS_GSTAT_HALTED u) r = false ∧ ∀ j, (t.press u).job ≠ some (r.val, j)))

/-- Quadrille: a port whose identities have been exchanged enters UP (R536); one that leaves UP completes its reads with all ones (R541) and a
leader raises QDL_PEER_DOWN; a follower reaches host memory through its leader (R539); peer events (R540); a follower's time (R542, R544);
the ends of board takes (R547, R548). -/
def Obligations.Quadrille : Prop :=
  ∀ (s : State) (q : Fin 3), s.awake →
    ((s.dev.qdlState q ≠ 2 ∨ s.dev.hub.lost = true) → exec (.qdlHello q) s = .next (s.after s.dev)) ∧
    (s.dev.qdlState q = 2 → s.dev.hub.lost = false → Does (.qdlHello q) s fun t => t.qdlState q = 3 ∧
      t.rd F.QDL_PEER_PEER 0 q = s.dev.qdlPeer q % 2 ^ 2 ∧
      (s.dev.isFollower = false → Raised t 553 (pack [(2, s.dev.qdlPeer q)]))) ∧
    (s.dev.qdlState q < 2 → exec (.qdlPortDown q) s = .next (s.after s.dev)) ∧
    (2 ≤ s.dev.qdlState q → Does (.qdlPortDown q) s fun t => t.qdlState q = 1 ∧ Tab.get [] t.hub.qdl.fwd q = [] ∧
      (∀ l ws, (∀ x ∈ ws, ∃ o v, x = QItem.write o v) →
        (∀ o, Tab.get [] s.dev.hub.qdl.fwd q = l ++ .read o :: ws → t.rdata = 2 ^ 32 - 1) ∧
        (∀ o low, Tab.get [] s.dev.hub.qdl.fwd q = l ++ .readHigh o low :: ws → t.rdata = 2 ^ 64 - 1)) ∧
      (s.dev.qdlState q = 3 → s.dev.hub.lost = false → s.dev.isFollower = false → 554 ∈ t.router.stat)) ∧
    (∀ wr a data n, (s.dev.isFollower = true ∨ s.dev.qdlUp q = false) →
      exec (.qdlFollowerHostAccess q wr a data n) s = .next (s.after s.dev)) ∧
    (∀ a data n, s.dev.isFollower = false → s.dev.qdlUp q = true → s.dev.hostOk = true →
      (Does (.qdlFollowerHostAccess q true a data n) s fun t => t.hostMem = s.dev.hostMem.writes a data ∧ t.hub.qdl.reply = some []) ∧
      (Does (.qdlFollowerHostAccess q false a data n) s fun t => t.hostMem = s.dev.hostMem ∧
        t.hub.qdl.reply = some (s.dev.hostMem.reads a n))) ∧
    (∀ wr a data n, s.dev.isFollower = false → s.dev.qdlUp q = true → s.dev.hostOk = false →
      Does (.qdlFollowerHostAccess q wr a data n) s fun t => t.hostMem = s.dev.hostMem ∧ t.hub.qdl.reply = none) ∧
    (∀ e syn, (s.dev.qdlUp q = false ∨ s.dev.hub.lost = true) → exec (.qdlPeerEventMessage q e syn) s = .next (s.after s.dev)) ∧
    (∀ e syn, s.dev.qdlUp q = true → s.dev.hub.lost = false → Does (.qdlPeerEventMessage q e syn) s fun t =>
      (s.dev.isFollower = true → Tab.get [] t.hub.qdl.msgs q = (Tab.get [] s.dev.hub.qdl.msgs q).drop 1) ∧
      (s.dev.isFollower = false → Raised t 555 (pack [(2, s.dev.qdlPeer q), (10, e)]) ∧
        (e.val = 541 → Tab.get 0 t.hub.qdl.openTakes (s.dev.qdlPeer q) = Tab.get 0 s.dev.hub.qdl.openTakes (s.dev.qdlPeer q) + 1) ∧
        (e.val = 542 → Tab.get 0 t.hub.qdl.openTakes (s.dev.qdlPeer q) = Tab.get 0 s.dev.hub.qdl.openTakes (s.dev.qdlPeer q) - 1))) ∧
    (∀ t step missed, (s.dev.isFollower = false ∨ s.dev.qdlUp q = false ∨ s.dev.hub.lost = true) →
      exec (.qdlTimeMessage q t step missed) s = .next (s.after s.dev)) ∧
    (∀ t step missed, s.dev.isFollower = true → s.dev.qdlUp q = true → s.dev.hub.lost = false →
      Does (.qdlTimeMessage q t step missed) s fun a => a.on F.QDL_TIME_STAT_HOLD = false ∧ a.hub.qdl.lastMsg = s.dev.c ∧
        a.rd F.QDL_TIME_STAT_OFFSET =
          satCode 16 (roundInt (256 * ((s.dev.hubTime : Int) - t) - 4096 * (s.dev.rd F.QDL_PEER_DELAY 0 q : Int)) 65536) ∧
        (missed = true → a.on F.QDL_TIME_STAT_MISSED = true) ∧
        (∀ x, step = some x → a.hub.ptp.apply = some x ∧ a.hub.ptp.pending = none)) ∧
    (∀ delay, s.dev.isFollower = true → s.dev.qdlUp q = true → s.dev.hub.lost = false → Does (.qdlDelayEcho q delay) s fun t =>
      t.rd F.QDL_PEER_DELAY 0 q = min 0xFFFF delay ∧ t.hub = s.dev.hub) ∧
    (∀ delay, (s.dev.isFollower = false ∨ s.dev.qdlUp q = false ∨ s.dev.hub.lost = true) →
      exec (.qdlDelayEcho q delay) s = .next (s.after s.dev)) ∧
    (∀ (x : Fin 4) num, (s.dev.isFollower = true ∨ s.dev.hub.lost = true ∨ bit (s.dev.rd F.QDL_TAKE_STAT_ENDED) x = true ∨
      ∀ r ∈ s.dev.hub.takes, r.num = num.toNat → r.devs = []) → exec (.qdlTakeEndReport x num) s = .next (s.after s.dev)) ∧
    (∀ (x : Fin 4) (num : Word), s.dev.isFollower = false → s.dev.hub.lost = false → bit (s.dev.rd F.QDL_TAKE_STAT_ENDED) x = false →
      (x = 0 ∨ s.dev.qdlUp (x.val - 1) = true) → (∃ r ∈ s.dev.hub.takes, r.num = num.toNat ∧ r.devs ≠ []) →
      Does (.qdlTakeEndReport x num) s fun t => bit (t.rd F.QDL_TAKE_STAT_ENDED) x = true ∧
        Raised t 557 (pack [(2, x.val), (16, num.toNat)]) ∧ ∀ r ∈ t.hub.takes, r.num = num.toNat → r.ended = true) ∧
    ((s.dev.isFollower = false ∨ s.dev.leaderPort.isSome = true) → exec .qdlOrphanExpiry s = .next (s.after s.dev)) ∧
    (s.dev.isFollower = true → s.dev.leaderPort = none → Does .qdlOrphanExpiry s fun t =>
      (∀ r ∈ t.hub.takes, r.ordered = true → r.ended = true) ∧
        t.hub.qdl.ends = s.dev.hub.qdl.ends ++ (s.dev.hub.takes.filter fun r => r.ordered && !r.ended).map (·.num))

/-- The panel outputs: EN takes an output from OFF to INIT and its end to IDLE, or to WAITTE where the head waits for TE; a DCS command goes
out between transfers (R576); a push joins the queue, replaces the pending update of its region, or is refused (R580, R581); a transfer
starts, sends its packets and ends with PANEL_DONE (R582 to R584); unreachable host memory ends it with ABORTED, and clearing EN lets it
finish (R586). A joined frame of surface 1 pushes its regions, a poisoned one is counted. -/
def Obligations.PanelOutputs : Prop :=
  ∀ (s : State) (o : Fin 2), s.awake →
    (s.dev.reaches .PANEL 0 = true →
      (∀ w : Word, s.dev.on F.PANEL_CFG_EN 0 o = false → 80 ≤ slice w.toNat 12 0 → slice w.toNat 12 0 ≤ 4500 → bit w.toNat 30 = false →
        s.dev.panelState o = 0 → Does (.panelEnable o w) s fun t => t.on F.PANEL_CFG_EN 0 o = true ∧ t.panelState o = 1 ∧
          t.rd F.PANEL_CFG_RATE 0 o = slice w.toNat 12 0) ∧
      (∀ w : Word, s.dev.on F.PANEL_CFG_EN 0 o = false → (slice w.toNat 12 0 < 80 ∨ 4500 < slice w.toNat 12 0) →
        Does (.panelEnable o w) s fun t => t.on F.PANEL_CFG_EN 0 o = false ∧ t.panelState o = s.dev.panelState o) ∧
      (∀ w : Word, s.dev.on F.PANEL_CFG_EN 0 o = true → exec (.panelEnable o w) s = .next (s.after s.dev)) ∧
      (s.dev.on F.PANEL_CFG_EN 0 o = false → exec (.panelDisable o) s = .next (s.after s.dev)) ∧
      (s.dev.on F.PANEL_CFG_EN 0 o = true → Does (.panelDisable o) s fun t => t.on F.PANEL_CFG_EN 0 o = false ∧ (t.panel o).queue = [] ∧
        (t.panel o).job = (s.dev.panel o).job ∧ t.panelState o = if (s.dev.panel o).job.isSome then 5 else 0) ∧
      (∀ w : Word, (slice w.toNat 17 16 = 3 ∨ s.dev.on F.PANEL_CFG_EN 0 o = false) →
        exec (.panelPush o w) s = .next (s.after s.dev)) ∧
      (∀ (w : Word) (r : Fin 16), slice w.toNat 17 16 ≠ 3 → s.dev.on F.PANEL_CFG_EN 0 o = true → bit w.toNat r = true →
        Does (.panelPush o w) s fun t =>
          (s.dev.regionOk o r = true → s.dev.on F.PANEL_RGN_A_SRC 0 o r = false →
            (⟨r, slice w.toNat 17 16, bit w.toNat 19, false⟩ : PanelUpd) ∈ (t.panel o).queue) ∧
          (s.dev.regionOk o r = true → s.dev.on F.PANEL_RGN_A_SRC 0 o r = true → ∀ b, (s.dev.panel o).latest = some b →
            (⟨r, b, bit w.toNat 19, false⟩ : PanelUpd) ∈ (t.panel o).queue) ∧
          (s.dev.regionOk o r = false → t.on F.PANEL_STAT_REFUSED 0 o = true))) ∧
    ((s.dev.hub.lost = true ∨ s.dev.panelState o ≠ 1) → exec (.panelInitDone o) s = .next (s.after s.dev)) ∧
    (s.dev.hub.lost = false → s.dev.panelState o = 1 → Does (.panelInitDone o) s fun t =>
      (t.panel o).link = s.dev.panelInit o ∧ t.panelState o = match (s.dev.panel o).queue with
        | u :: _ => if s.dev.on F.PANEL_RGN_A_TESYNC 0 o u.rgn then 3 else 2
        | [] => 2) ∧
    ((s.dev.hub.lost = true ∨ s.dev.on F.PANEL_DCS_GO 0 o = false) → exec (.panelDcsSend o) s = .next (s.after s.dev)) ∧
    (s.dev.hub.lost = false → s.dev.on F.PANEL_DCS_GO 0 o = true → (s.dev.panelState o = 2 ∨ s.dev.panelState o = 3) →
      Does (.panelDcsSend o) s fun t => t.on F.PANEL_DCS_GO 0 o = false ∧ (t.panel o).link =
        [.packet (if s.dev.rd F.PANEL_DCS_LEN 0 o = 0 then 0x05 else if s.dev.rd F.PANEL_DCS_LEN 0 o = 1 then 0x15 else 0x39)
          (BitVec.ofNat 8 (s.dev.rd F.PANEL_DCS_CMD 0 o) ::
            ((List.range 4).flatMap fun k => leBytes 4 (s.dev.rd F.PANEL_DCS_DATA_DATA 0 o k)).take (min 16 (s.dev.rd F.PANEL_DCS_LEN 0 o)))]) ∧
    ((s.dev.hub.lost = true ∨ s.dev.panelState o ≠ 2 ∨ (s.dev.panel o).queue = []) →
      exec (.panelTransferStart o) s = .next (s.after s.dev)) ∧
    (∀ u q, s.dev.hub.lost = false → (s.dev.panel o).queue = u :: q →
      (s.dev.panelState o = 2 → Does (.panelTransferStart o) s fun t => t.panelState o = 4 ∧ (t.panel o).queue = q ∧
        (t.panel o).job = some { upd := u, crc := crcInit, sig := crcInit } ∧ t.rd F.PANEL_STAT_RUNREG 0 o = u.rgn % 2 ^ 4) ∧
      (s.dev.panelState o = 3 → Does (.panelTeEdge o (!s.dev.on F.PANEL_CFG_TEPOL 0 o)) s fun t => t.panelState o = 4 ∧
        (t.panel o).queue = q ∧ ∃ j, (t.panel o).job = some j ∧ j.upd = u ∧ j.sent = 0) ∧
      (s.dev.panelState o = 3 → Does (.panelTeTimeout o) s fun t => t.panelState o = 4 ∧ t.on F.PANEL_STAT_TEMISS 0 o = true ∧
        (t.panel o).queue = q ∧ ∃ j, (t.panel o).job = some j ∧ j.upd = u ∧ j.sent = 0)) ∧
    (∀ rising, (s.dev.hub.lost = true ∨ s.dev.panelState o ≠ 3 ∨ rising = s.dev.on F.PANEL_CFG_TEPOL 0 o) →
      exec (.panelTeEdge o rising) s = .next (s.after s.dev)) ∧
    ((s.dev.hub.lost = true ∨ s.dev.panelState o ≠ 3) → exec (.panelTeTimeout o) s = .next (s.after s.dev)) ∧
    (∀ level, (s.dev.hub.lost = true ∨ (s.dev.panel o).job = none) → exec (.panelPacketSend o level) s = .next (s.after s.dev)) ∧
    (∀ level j, s.dev.hub.lost = false → (s.dev.panel o).job = some j → j.sent < s.dev.panelPackets o j.upd.rgn →
      s.dev.panelReach o j.upd.rgn = true → Does (.panelPacketSend o level) s fun t =>
        (∃ j', (t.panel o).job = some j' ∧ j'.upd = j.upd ∧ j'.sent = j.sent + 1) ∧
        ∃ bs, (t.panel o).link = [.packet 0x39 ((if j.sent = 0 then 0x2C else 0x3C) :: bs)]) ∧
    (∀ pad, (s.dev.hub.lost = true ∨ (s.dev.panel o).job = none) → exec (.panelTransferDone o pad) s = .next (s.after s.dev)) ∧
    (∀ pad j, (s.dev.panel o).job = some j → j.sent < s.dev.panelPackets o j.upd.rgn →
      exec (.panelTransferDone o pad) s = .next (s.after s.dev)) ∧
    (∀ pad j, s.dev.hub.lost = false → (s.dev.panel o).job = some j → s.dev.panelPackets o j.upd.rgn ≤ j.sent →
      Does (.panelTransferDone o pad) s fun t => (t.panel o).job = none ∧ Raised t (564 + o.val) j.upd.rgn ∧
        (s.dev.panelState o = 5 → t.panelState o = if s.dev.on F.PANEL_CFG_EN 0 o then 1 else 0) ∧
        (s.dev.panelState o ≠ 5 → t.panelState o = 2 ∨ t.panelState o = 3) ∧
        (∀ x, pad = some x → x.toNat ≠ crcEnd j.crc → s.dev.on F.PANEL_CFG_CRCCHK 0 o = true → 566 ∈ t.router.stat)) ∧
    ((s.dev.hub.lost = true ∨ (s.dev.panel o).job = none) → exec (.panelFetchTimeout o) s = .next (s.after s.dev)) ∧
    (∀ j, (s.dev.panel o).job = some j → s.dev.panelReach o j.upd.rgn = true →
      exec (.panelFetchTimeout o) s = .next (s.after s.dev)) ∧
    (∀ j, s.dev.hub.lost = false → (s.dev.panel o).job = some j → s.dev.panelReach o j.upd.rgn = false →
      Does (.panelFetchTimeout o) s fun t => (t.panel o).job = none ∧ Raised t (564 + o.val) (j.upd.rgn + 2 ^ 31) ∧
        (s.dev.panelState o ≠ 5 → ∃ u q, (t.panel o).queue = u :: q ∧ u.rgn = j.upd.rgn)) ∧
    ((s.dev.hub.lost = true ∨ (s.dev.panel o).due = none) → exec (.panelSurfaceFrameEof o) s = .next (s.after s.dev)) ∧
    (∀ b bad, s.dev.hub.lost = false → (s.dev.panel o).due = some (b, bad) → s.dev.cnt C.PANEL_CNT 0 o 3 < 2 ^ 48 →
      Does (.panelSurfaceFrameEof o) s fun t => (t.panel o).due = none ∧
        (bad = true → (t.panel o).latest = (s.dev.panel o).latest ∧ (t.panel o).queue = (s.dev.panel o).queue ∧
          t.cnt C.PANEL_CNT 0 o 3 = min (2 ^ 48 - 1) (s.dev.cnt C.PANEL_CNT 0 o 3 + 1)) ∧
        (bad = false → (t.panel o).latest = some b ∧ (s.dev.on F.PANEL_CFG_EN 0 o = true → ∀ r : Fin 16, s.dev.regionOk o r = true →
          s.dev.on F.PANEL_RGN_A_SRC 0 o r = true → (⟨r, b, false, true⟩ : PanelUpd) ∈ (t.panel o).queue)))

/-- Picture groups and the router's own commands: a line of an input that no enabled group reads is discarded (R570); a line waits for the
other pipes' parts and is joined when they are there, and PWIN's end fills the absent ones and raises PASM_FILL (R571); the coalescing
time's end makes a message due (R565), unmasking a vector lets an owed one go (R564), and a write of one to `EVT_STAT` clears (R561). -/
def Obligations.PicturesAndMessages : Prop :=
  ∀ s : State, s.awake →
    (∀ (i : Fin 64) toks psn eof, (s.dev.stopped = true ∨ s.dev.hub.lost = true ∨ s.dev.pasmOf i = none) →
      exec (.pasmLineInput i toks psn eof) s = .next (s.after s.dev)) ∧
    (∀ (i : Fin 64) toks psn eof g n, s.dev.stopped = false → s.dev.hub.lost = false → s.dev.pasmOf i = some (g, n) →
      ((s.dev.pasm g).drop.contains n = true → Does (.pasmLineInput i toks psn eof) s fun t =>
        (t.pasm g).q = (s.dev.pasm g).q ∧ (eof = true → (t.pasm g).drop.contains n = false)) ∧
      ((s.dev.pasm g).drop.contains n = false →
        (∀ m ∈ s.dev.pasmPipes g, m ≠ n → Tab.get [] (s.dev.pasm g).q m = [] → (s.dev.pasm g).ended.contains m = false →
          bit (s.dev.rd F.HUB_PASM_STAT_ABSENT 0 g) m = false → Does (.pasmLineInput i toks psn eof) s fun t =>
            Tab.get [] (t.pasm g).q n = Tab.get [] (s.dev.pasm g).q n ++ [⟨toks, psn, eof⟩] ∧ t.on F.HUB_PASM_STAT_RUN 0 g = true ∧
              (t.pasm g).line = (s.dev.pasm g).line) ∧
        (s.dev.pasmPipes g = [n] → Tab.get [] (s.dev.pasm g).q n = [] → (s.dev.pasm g).ended = [] →
          s.dev.on F.HUB_PASM_STAT_RUN 0 g = true → s.dev.rd F.HUB_PASM_STAT_ABSENT 0 g = 0 → 2 ≤ s.dev.rd F.HUB_PASM_CFG_DEST 0 g →
          (s.dev.pasm g).line + 1 < s.dev.rd F.HUB_PASM_LINES_LINES 0 g → eof = false → Does (.pasmLineInput i toks psn eof) s fun t =>
            (t.pasm g).line = (s.dev.pasm g).line + 1 ∧ Tab.get [] (t.pasm g).q n = [] ∧ (t.pasm g).t0 = none))) ∧
    (∀ g : Fin 8, (s.dev.stopped = true ∨ s.dev.hub.lost = true ∨ (s.dev.pasm g).t0 = none) →
      exec (.pasmWindowExpiry g) s = .next (s.after s.dev)) ∧
    (∀ (g : Fin 8) m, s.dev.stopped = false → s.dev.hub.lost = false → (s.dev.pasm g).t0.isSome = true →
      s.dev.on F.HUB_PASM_STAT_RUN 0 g = true → (s.dev.pasm g).filled = false → 2 ≤ s.dev.rd F.HUB_PASM_CFG_DEST 0 g →
      m ∈ s.dev.pasmPipes g → (s.dev.pasm g).ended.contains m = false → bit (s.dev.rd F.HUB_PASM_STAT_ABSENT 0 g) m = false →
      Tab.get [] (s.dev.pasm g).q m = [] → Does (.pasmWindowExpiry g) s fun t => 561 ∈ t.router.stat) ∧
    (∀ v : Fin 1024, (s.dev.hub.lost = true ∨ Tab.find s.dev.router.coal v.val = none) →
      exec (.msixCoalesceTimeout v) s = .next (s.after s.dev)) ∧
    (∀ (v : Fin 1024) x, s.dev.hub.lost = false → Tab.find s.dev.router.coal v.val = some x → Does (.msixCoalesceTimeout v) s fun t =>
      Tab.find t.router.coal v.val = none ∧
        (if s.dev.vecBlocked v.val then v.val ∈ t.router.owed
         else v.val ∉ t.router.owed ∧ Tab.get 0 s.dev.router.sent v.val < Tab.get 0 t.router.sent v.val)) ∧
    (∀ (v : Fin 1024) masked msg, Does (.msixVectorUnmask ⟨v, masked, msg⟩) s fun t =>
      (Tab.get {} t.router.table v.val).unmasked = !masked ∧
      (∀ a w, msg = some (a, w) → (Tab.get {} t.router.table v.val).addr = a % 2 ^ 64 ∧
        (Tab.get {} t.router.table v.val).data = w.toNat) ∧
      (masked = false → t.vecBlocked v.val = false → v.val ∉ t.router.owed ∧
        (v.val ∈ s.dev.router.owed → Tab.get 0 s.dev.router.sent v.val < Tab.get 0 t.router.sent v.val)) ∧
      t.router.coal = s.dev.router.coal ∧ t.router.stat = s.dev.router.stat) ∧
    (∀ (k : Fin 16) (w : Word), s.dev.reaches .EVT 0 = true → Does (.evtStatClear k w) s fun t =>
      (∀ b : Fin 32, bit w.toNat b = true → 512 + 32 * k.val + b.val ∉ t.router.stat) ∧
      (∀ e, (e / 32 ≠ 16 + k.val ∨ bit w.toNat (e % 32) = false) → (e ∈ t.router.stat ↔ e ∈ s.dev.router.stat)) ∧
      t.router.ovr = s.dev.router.ovr ∧ t.router.syn = s.dev.router.syn)

/-- The audio ports: a trigger is refused with BAD_OP, STATE or LATE or waits for its frame N, its master clocks start at its lead, and at N
the paths act and AUD_TRIG is raised (R599); a media frame joins the item of a capture path, moves a playback path's position and counts a
run-out down (R595, R596); an ASRC's lock, held only at ratios from 0.5 to 2, is shown and told (R592); clearing EN stops the paths at once (R602). -/
def Obligations.AudioPorts : Prop :=
  ∀ s : State, s.awake →
    (∀ (op : Nat) (c : Bool → BitVec 8 → Instr) attime (paths : BitVec 8), s.dev.reaches .AUD 0 = true →
      (op = 1 ∧ c = .audTrigStart ∨ op = 2 ∧ c = .audTrigStop) →
      (s.dev.on F.AUD_TRIG_CMD_GO = true → exec (c attime paths) s = .next (s.after s.dev)) ∧
      (s.dev.on F.AUD_TRIG_CMD_GO = false →
        (paths = 0 → s.dev.hub.lost = false → Does (c attime paths) s fun t => t.on F.AUD_TRIG_CMD_GO = false ∧
          t.rd F.AUD_TRIG_STAT_RESULT = 3 ∧ t.rd F.AUD_TRIG_STAT_FPATHS = 0 ∧ Raised t 574 (pack [(3, op), (3, 3)]) ∧
          t.hub.aud = s.dev.hub.aud) ∧
        (∀ bad, (bitsOf paths.toNat 8).filter (s.dev.audBad op) = bad → bad ≠ [] → s.dev.hub.lost = false →
          Does (c attime paths) s fun t => t.on F.AUD_TRIG_CMD_GO = false ∧ t.rd F.AUD_TRIG_STAT_RESULT = 2 ∧
            t.rd F.AUD_TRIG_STAT_FPATHS = maskOf bad ∧ Raised t 574 (pack [(3, op), (3, 2)]) ∧ t.hub.aud = s.dev.hub.aud) ∧
        (∀ n l, paths ≠ 0 → (∀ x ∈ bitsOf paths.toNat 8, s.dev.audBad op x = false) → l = s.dev.audLead op (bitsOf paths.toNat 8) →
          n = (if attime then mediaFrom (256 * ((s.dev.rd F.AUD_TRIG_S_LO_S + 2 ^ 32 * s.dev.rd F.AUD_TRIG_S_HI_S) * 1000000000 +
              s.dev.rd F.AUD_TRIG_NS_VALUE)) else mediaFrom (s.dev.hubTime + 25600000) + l) →
          n < mediaFrom (s.dev.hubTime + 25600000) + l → s.dev.hub.lost = false → Does (c attime paths) s fun t =>
            t.rd F.AUD_TRIG_STAT_RESULT = 1 ∧ Raised t 574 (pack [(3, op), (3, 1)]) ∧ t.hub.aud = s.dev.hub.aud ∧
            t.rd F.AUD_TRIG_STAT_FPATHS = maskOf ((bitsOf paths.toNat 8).filter fun x =>
              decide (n < mediaFrom (s.dev.hubTime + 25600000) + s.dev.audLead op [x]))))) ∧
    (∀ attime (paths : BitVec 8) n l, s.dev.reaches .AUD 0 = true → s.dev.on F.AUD_TRIG_CMD_GO = false → paths ≠ 0 →
      (∀ x ∈ bitsOf paths.toNat 8, s.dev.audBad 1 x = false) → l = s.dev.audLead 1 (bitsOf paths.toNat 8) →
      n = (if attime then mediaFrom (256 * ((s.dev.rd F.AUD_TRIG_S_LO_S + 2 ^ 32 * s.dev.rd F.AUD_TRIG_S_HI_S) * 1000000000 +
          s.dev.rd F.AUD_TRIG_NS_VALUE)) else mediaFrom (s.dev.hubTime + 25600000) + l) →
      mediaFrom (s.dev.hubTime + 25600000) + l ≤ n → Does (.audTrigStart attime paths) s fun t =>
        t.on F.AUD_TRIG_CMD_GO = false ∧ t.rd F.AUD_TRIG_STAT_RESULT = 0 ∧ t.on F.AUD_TRIG_STAT_BUSY = true ∧
        t.rd F.AUD_TRIG_FRAME_LO_LO = n % 2 ^ 32 ∧
        t.hub.aud.trigs = s.dev.hub.aud.trigs ++ [⟨1, maskOf (bitsOf paths.toNat 8), n, l⟩]) ∧
    (∀ attime (paths : BitVec 8) n l, s.dev.reaches .AUD 0 = true → s.dev.on F.AUD_TRIG_CMD_GO = false → paths ≠ 0 →
      (∀ x ∈ bitsOf paths.toNat 8, s.dev.audBad 2 x = false) → l = s.dev.audLead 2 (bitsOf paths.toNat 8) →
      n = (if attime then mediaFrom (256 * ((s.dev.rd F.AUD_TRIG_S_LO_S + 2 ^ 32 * s.dev.rd F.AUD_TRIG_S_HI_S) * 1000000000 +
          s.dev.rd F.AUD_TRIG_NS_VALUE)) else mediaFrom (s.dev.hubTime + 25600000) + l) →
      mediaFrom (s.dev.hubTime + 25600000) + l ≤ n → Does (.audTrigStop attime paths) s fun t =>
        t.on F.AUD_TRIG_CMD_GO = false ∧ t.rd F.AUD_TRIG_STAT_RESULT = 0 ∧ t.on F.AUD_TRIG_STAT_BUSY = true ∧
        t.rd F.AUD_TRIG_FRAME_LO_LO = n % 2 ^ 32 ∧ t.hub.aud.paths = s.dev.hub.aud.paths ∧
        t.hub.aud.trigs = s.dev.hub.aud.trigs ++ [⟨2, maskOf (bitsOf paths.toNat 8), n, l⟩]) ∧
    (Does .audTrigLead s fun t => ∀ x : Fin 8, t.audState x =
      if s.dev.on F.AUD_PCFG_MASTER 0 (x.val / 2) = true ∧ (s.dev.audState x = 1 ∨ s.dev.audState x = 4) ∧
        ∃ g ∈ s.dev.hub.aud.trigs, g.op = 1 ∧ g.n ≤ s.dev.mediaNow + g.l ∧ bit g.paths x = true then 2 else s.dev.audState x) ∧
    (Does .audTrigFrame s fun t => t.hub.aud.trigs = s.dev.hub.aud.trigs.filter (fun g => !decide (g.n ≤ s.dev.mediaNow)) ∧
      (t.hub.aud.trigs = [] → t.on F.AUD_TRIG_STAT_BUSY = false) ∧
      ∀ g, s.dev.hub.aud.trigs.filter (fun g => decide (g.n ≤ s.dev.mediaNow)) = [g] →
        (s.dev.hub.lost = false → Raised t 574 (pack [(3, g.op), (3, 0)])) ∧
        (∀ x : Fin 8, bit g.paths x = true → (g.op = 1 → t.audState x = 3) ∧
          (g.op ≠ 1 → s.dev.on F.AUD_PCFG_MASTER 0 (x.val / 2) = false → t.audState x = 1))) ∧
    (∀ fs, s.dev.hub.lost = true → exec (.audMediaFrame fs) s = .next (s.after s.dev)) ∧
    (∀ fs, s.dev.hub.lost = false → Does (.audMediaFrame fs) s fun t => ∀ x : Fin 8,
      (s.dev.audState x = 4 → s.dev.audPending x 1 = none → (t.apath x).outLeft = (s.dev.apath x).outLeft - 1 ∧
        t.audState x = if (s.dev.apath x).outLeft ≤ 1 then 1 else 4) ∧
      (∀ f mute, f = ((fs.find? fun f => f.path == x).getD { path := x }) → s.dev.audState x = 3 → x.val % 2 = 0 →
        s.dev.audPending x 2 = none → (s.dev.apath x).frames.length + 1 < s.dev.audBlock x →
        mute = (if s.dev.audAsrc x then !s.dev.on F.AUD_XSTAT_LOCK 0 (x.val / 2) 0 else
          decide ((s.dev.apath x).fill + (if s.dev.on F.AUD_PCFG_MASTER 0 (x.val / 2) then 1 else f.ports) < 1)) →
        (t.apath x).frames = (s.dev.apath x).frames ++
          [(s.dev.audMask x).map fun i => if mute then 0 else s.dev.audSample (x.val / 2) (f.slots.getD i 0)] ∧
          (t.apath x).first = if (s.dev.apath x).frames = [] then s.dev.mediaNow else (s.dev.apath x).first) ∧
      (∀ off : Int, s.dev.audState x = 3 → x.val % 2 = 1 → s.dev.audPending x 2 = none → s.dev.audAsrc x = false →
        off = ((s.dev.mediaNow : Int) - (s.dev.apath x).start) * (4 * (s.dev.audMask x).length : Nat) →
        (t.apath x).under = (decide (((s.dev.apath x).written : Int) < off + (4 * (s.dev.audMask x).length : Nat)) || !s.dev.hostOk) ∧
        t.rd F.AUD_XDEV_TAIL 0 (x.val / 2) 1 = ((off % (s.dev.audRing x : Int)).toNat +
          4 * (s.dev.audMask x).length) % s.dev.audRing x / 8)) ∧
    (∀ (a : Fin 8) lock ratio, (s.dev.audEn a = false ∨ s.dev.audAsrc a = false ∨ s.dev.hub.lost = true) →
      exec (.audAsrcLockChange a lock ratio) s = .next (s.after s.dev)) ∧
    (∀ (a : Fin 8) lock (ratio : BitVec 24), s.dev.audEn a = true → s.dev.audAsrc a = true → s.dev.hub.lost = false →
      ∀ held, held = (lock && decide (2 ^ 21 ≤ ratio.toNat) && decide (ratio.toNat ≤ 2 ^ 23)) →
      Does (.audAsrcLockChange a lock ratio) s fun t => t.on F.AUD_XSTAT_LOCK 0 (a.val / 2) (a.val % 2) = held ∧
        t.rd F.AUD_XSTAT_RATIO 0 (a.val / 2) (a.val % 2) = ratio.toNat ∧
        (s.dev.on F.AUD_XSTAT_LOCK 0 (a.val / 2) (a.val % 2) ≠ held → Raised t 573 (pack [(3, a.val), (1, b2n held)]))) ∧
    (∀ k : Fin 4, s.dev.reaches .AUD 0 = true →
      (s.dev.on F.AUD_PCFG_EN 0 k = false → exec (.audPortDisable k) s = .next (s.after s.dev)) ∧
      (s.dev.on F.AUD_PCFG_EN 0 k = true → Does (.audPortDisable k) s fun t => t.on F.AUD_PCFG_EN 0 k = false ∧
        t.audState (2 * k.val) = 0 ∧ t.audState (2 * k.val + 1) = 0 ∧ t.apath (2 * k.val) = {} ∧ t.apath (2 * k.val + 1) = {} ∧
        ∀ g ∈ t.hub.aud.trigs, bit g.paths (2 * k.val) = false ∧ bit g.paths (2 * k.val + 1) = false))

/-- The converters and PWM channels: a trigger starts the delay of a scan or is dropped with MISS (R606); the scan's entries follow each other
(R605, R607); a result is corrected, shown, counted and kept in the FIFO (R611, R612) and chooses the next range (R609); a read pops the
oldest word (R611); a calibration takes its conversions and writes its pair or ends with the RESULT of its cause (R615); a PWM period starts
with the written values (R616, R617). -/
def Obligations.Converters : Prop :=
  ∀ s : State, s.awake →
    (∀ (x : Fin 2) c, (c = .adcStart x ∧ s.dev.reaches .SENSE 0 = true ∨ c = .adcTimerTrigger x ∧ s.dev.rd F.SENSE_ADC_CFG_TSRC 0 x = 1) →
      ((s.dev.on F.SENSE_ADC_CFG_EN 0 x = false ∨ s.dev.hub.lost = true) → exec c s = .next (s.after s.dev)) ∧
      (s.dev.on F.SENSE_ADC_CFG_EN 0 x = true → s.dev.hub.lost = false → s.dev.on F.SENSE_ADC_STAT_BUSY 0 x = true →
        s.dev.cnt C.SENSE_ADC_CNT 0 3 < 2 ^ 48 → Does c s fun t => t.on F.SENSE_ADC_STAT_MISS 0 x = true ∧ t.adc x = s.dev.adc x ∧
          t.cnt C.SENSE_ADC_CNT 0 3 = min (2 ^ 48 - 1) (s.dev.cnt C.SENSE_ADC_CNT 0 3 + 1))) ∧
    (∀ x : Fin 2, s.dev.on F.SENSE_ADC_CFG_EN 0 x = true → s.dev.hub.lost = false → s.dev.on F.SENSE_ADC_STAT_BUSY 0 x = false →
      (s.dev.reaches .SENSE 0 = true → Does (.adcStart x) s fun t =>
        t.on F.SENSE_ADC_STAT_BUSY 0 x = true ∧ (t.adc x).delay = true ∧ (t.adc x).entry = none) ∧
      (s.dev.rd F.SENSE_ADC_CFG_TSRC 0 x = 1 → Does (.adcTimerTrigger x) s fun t =>
        t.on F.SENSE_ADC_STAT_BUSY 0 x = true ∧ (t.adc x).delay = true ∧ (t.adc x).entry = none)) ∧
    (∀ x : Fin 2, s.dev.rd F.SENSE_ADC_CFG_TSRC 0 x ≠ 1 → exec (.adcTimerTrigger x) s = .next (s.after s.dev)) ∧
    (∀ x : Fin 2, ((s.dev.adc x).delay = false ∨ s.dev.hub.lost = true) → exec (.adcScanStart x) s = .next (s.after s.dev)) ∧
    (∀ x : Fin 2, (s.dev.adc x).delay = true → s.dev.hub.lost = false → Does (.adcScanStart x) s fun t => (t.adc x).delay = false ∧
      (t.adc x).entry = s.dev.adcNext x 0 ∧ (∀ i, s.dev.adcNext x 0 = some i → (t.adc x).rng = s.dev.adcRange ((s.dev.adcList x).getD i 0)) ∧
      (s.dev.adcNext x 0 = none → t.on F.SENSE_ADC_STAT_BUSY 0 x = false ∧
        (s.dev.on F.SENSE_ADC_CFG_IRQ 0 x = true → 575 ∈ t.router.stat))) ∧
    (∀ (x : Fin 2) q moved, (s.dev.hub.lost = true ∨ (s.dev.adc x).entry = none ∧ s.dev.hub.sense.cal = none) →
      exec (.adcConversionDone x q moved) s = .next (s.after s.dev)) ∧
    (∀ (x : Fin 2) (q : BitVec 16) moved i a c r y, s.dev.hub.lost = false → a = s.dev.adc x → a.entry = some i → a.cal = false →
      a.ch = c → c < 24 → a.rng = r → r < 4 → s.dev.adcCh c = y →
      s.dev.cnt C.SENSE_ADC_CNT 0 0 < 2 ^ 48 → Does (.adcConversionDone x q moved) s fun t =>
        t.rd F.SENSE_ADC_RES_DATA 0 c % 2 ^ 16 = code 16 (adcCorrect q.toInt (signed 16 (s.dev.rd F.SENSE_ADC_COR_OFFSET 0 c r))
          (s.dev.rd F.SENSE_ADC_COR_GAIN 0 c r)) ∧
        t.rd F.SENSE_ADC_RES_DATA 0 c / 2 ^ 30 = r ∧ bit (t.rd F.SENSE_ADC_RES_DATA 0 c) 27 = true ∧
        bit (t.rd F.SENSE_ADC_RES_DATA 0 c) 28 = (moved && a.owd) ∧
        bit (t.rd F.SENSE_ADC_RES_DATA 0 c) 29 = adcSat q.toInt ∧
        t.cnt C.SENSE_ADC_CNT 0 0 = min (2 ^ 48 - 1) (s.dev.cnt C.SENSE_ADC_CNT 0 0 + 1) ∧
        (t.adc x).entry = s.dev.adcNext x (i + 1) ∧ (t.adcCh c).seq = (y.seq + 1) % 64 ∧
        ((moved && a.owd) = false → a.auto_ = true → a.wrote = false →
          ((t.adcCh c).rng, (t.adcCh c).down) = (some (adcAuto q.toInt r y.down a.dncnt).1, (adcAuto q.toInt r y.down a.dncnt).2)) ∧
        (a.fifo.length < 256 → (t.adc x).fifo = a.fifo ++ [t.rd F.SENSE_ADC_RES_DATA 0 c]) ∧
        (256 ≤ a.fifo.length → (t.adc x).fifo = a.fifo ∧ t.on F.SENSE_ADC_STAT_OVF 0 x = true)) ∧
    (∀ (x : Fin 2) (q : BitVec 16) moved k, s.dev.hub.lost = false → s.dev.hub.sense.cal = some k → k.n < 256 →
      (s.dev.adc x).entry = none → (s.dev.adc x).delay = false → s.dev.calConv (s.dev.rd F.SENSE_ADC_CAL_CH) = x.val →
      Does (.adcConversionDone x q moved) s fun t => t.hub.sense.cal = some ⟨k.sum + q.toInt, k.n + 1,
        k.open_ || (moved && s.dev.on F.SENSE_ADC_CH_OWD 0 (s.dev.rd F.SENSE_ADC_CAL_CH)), k.clipped || adcSat q.toInt⟩) ∧
    (∀ x : Fin 2, s.dev.reaches .SENSE 0 = true →
      ((s.dev.adc x).fifo = [] → exec (.adcFifoPop x) s = .next (s.after { s.dev with rdata := 0 })) ∧
      (∀ w q, (s.dev.adc x).fifo = w :: q → Does (.adcFifoPop x) s fun t => t.rdata = w ∧ (t.adc x).fifo = q ∧
        t.rd F.SENSE_ADC_STAT_LEVEL 0 x = q.length % 2 ^ 9) ∧
      (Does (.adcFifoFlush x) s fun t => (t.adc x).fifo = [] ∧ t.rd F.SENSE_ADC_STAT_LEVEL 0 x = 0)) ∧
    (∀ (ch : BitVec 5) (rng : Fin 4) (expect : BitVec 16) (op : Nat) c, s.dev.reaches .SENSE 0 = true →
      (op = 1 ∧ c = .adcCalZero ch rng ∨ op = 2 ∧ c = .adcCalGain ch rng expect) →
      (s.dev.on F.SENSE_ADC_CAL_GO = true → exec c s = .next (s.after s.dev)) ∧
      (s.dev.on F.SENSE_ADC_CAL_GO = false → 23 < ch.toNat → s.dev.hub.lost = false → Does c s fun t => t.on F.SENSE_ADC_CAL_GO = false ∧
        t.rd F.SENSE_ADC_CALSTAT_RESULT = 4 ∧ Raised t 580 (pack [(3, 4), (5, ch.toNat)])) ∧
      (s.dev.on F.SENSE_ADC_CAL_GO = false → ch.toNat ≤ 23 → ch.toNat ∉ s.dev.adcList 0 → ch.toNat ∉ s.dev.adcList 1 →
        s.dev.on F.SENSE_ADC_CFG_EN 0 0 = false → s.dev.hub.lost = false → Does c s fun t => t.on F.SENSE_ADC_CAL_GO = false ∧
          t.rd F.SENSE_ADC_CALSTAT_RESULT = 5 ∧ Raised t 580 (pack [(3, 5), (5, ch.toNat)]))) ∧
    (∀ (ch : BitVec 5) (rng : Fin 4) (expect : BitVec 16), s.dev.reaches .SENSE 0 = true → s.dev.on F.SENSE_ADC_CAL_GO = false →
      ch.toNat ≤ 23 → (ch.toNat ∈ s.dev.adcList 0 ∨ ch.toNat ∈ s.dev.adcList 1 ∨ s.dev.on F.SENSE_ADC_CFG_EN 0 0 = true) →
      (Does (.adcCalZero ch rng) s fun t => t.on F.SENSE_ADC_CAL_GO = true ∧ t.on F.SENSE_ADC_CALSTAT_BUSY = true ∧
        t.hub.sense.cal = some {} ∧ t.rd F.SENSE_ADC_CAL_OP = 1 ∧ t.rd F.SENSE_ADC_CAL_CH = ch.toNat ∧
        t.rd F.SENSE_ADC_CAL_RNG = rng.val) ∧
      (Does (.adcCalGain ch rng expect) s fun t => t.on F.SENSE_ADC_CAL_GO = true ∧ t.on F.SENSE_ADC_CALSTAT_BUSY = true ∧
        t.hub.sense.cal = some {} ∧ t.rd F.SENSE_ADC_CAL_OP = 2 ∧ t.rd F.SENSE_ADC_CAL_CH = ch.toNat ∧
        t.rd F.SENSE_ADC_CAL_RNG = rng.val ∧ t.rd F.SENSE_ADC_CAL_EXPECT = expect.toNat)) ∧
    ((s.dev.hub.lost = true ∨ s.dev.hub.sense.cal = none ∨
      ∃ k, s.dev.hub.sense.cal = some k ∧ k.n < 256) →
      exec .adcCalDone s = .next (s.after s.dev)) ∧
    (∀ k c r, s.dev.hub.lost = false → s.dev.hub.sense.cal = some k → 256 ≤ k.n →
      s.dev.rd F.SENSE_ADC_CAL_CH = c → s.dev.rd F.SENSE_ADC_CAL_RNG = r →
      Does .adcCalDone s fun t => t.hub.sense.cal = none ∧ t.on F.SENSE_ADC_CAL_GO = false ∧ t.on F.SENSE_ADC_CALSTAT_BUSY = false ∧
        t.rd F.SENSE_ADC_CALSTAT_MEAN = code 16 (roundInt k.sum k.n) ∧ Raised t 580 (pack [(3, t.rd F.SENSE_ADC_CALSTAT_RESULT), (5, c)]) ∧
        (k.open_ = true → t.rd F.SENSE_ADC_CALSTAT_RESULT = 1) ∧
        (k.open_ = false → k.clipped = true → t.rd F.SENSE_ADC_CALSTAT_RESULT = 2) ∧
        (k.open_ = false → k.clipped = false → s.dev.rd F.SENSE_ADC_CAL_OP = 1 → t.rd F.SENSE_ADC_CALSTAT_RESULT = 0 ∧
          t.rd F.SENSE_ADC_COR_OFFSET 0 c r = code 16 (roundInt k.sum k.n)) ∧
        (k.open_ = false → k.clipped = false → s.dev.rd F.SENSE_ADC_CAL_OP ≠ 1 →
          k.sum = 256 * signed 16 (s.dev.rd F.SENSE_ADC_COR_OFFSET 0 c r) → t.rd F.SENSE_ADC_CALSTAT_RESULT = 3)) ∧
    (∀ (p : Fin 8) (low high : Option Bool) fresh,
      low = (if s.dev.on F.SENSE_PWM_CFG_EN 0 p then some (s.dev.on F.SENSE_PWM_CFG_POL 0 p) else none) →
      high = (if s.dev.on F.SENSE_PWM_CFG_EN 0 p then some (!s.dev.on F.SENSE_PWM_CFG_POL 0 p) else none) →
      fresh = decide (0 < s.dev.rd F.SENSE_PWM_DUTY_VALUE 0 p) →
      (s.dev.on F.SENSE_PWM_CFG_ONESHOT 0 p = true → Does (.pwmPeriodStart p) s fun t =>
        t.pwm p = { s.dev.pwm p with active := false, pin := low }) ∧
      (s.dev.on F.SENSE_PWM_CFG_ONESHOT 0 p = false → Does (.pwmPeriodStart p) s fun t =>
        t.pwm p = ⟨max 2 (s.dev.rd F.SENSE_PWM_PER_VALUE 0 p), s.dev.rd F.SENSE_PWM_DUTY_VALUE 0 p, fresh, if fresh then high else low⟩) ∧
      (∀ mask : BitVec 8, s.dev.reaches .SENSE 0 = true → Does (.pwmSync mask) s fun t =>
        t.pwm p = if bit mask.toNat p then
            ⟨max 2 (s.dev.rd F.SENSE_PWM_PER_VALUE 0 p), s.dev.rd F.SENSE_PWM_DUTY_VALUE 0 p, fresh, if fresh then high else low⟩
          else s.dev.pwm p) ∧
      (((s.dev.pwm p).active = false ∨ (s.dev.pwm p).per ≤ (s.dev.pwm p).duty) →
        exec (.pwmActiveEnd p) s = .next (s.after s.dev)) ∧
      (∀ x : Fin 2, (s.dev.pwm p).active = true → (s.dev.pwm p).duty < (s.dev.pwm p).per → Does (.pwmActiveEnd p) s fun t =>
        t.pwm p = { s.dev.pwm p with active := false, pin := low } ∧
        (s.dev.rd F.SENSE_ADC_CFG_TSRC 0 x = 3 → s.dev.rd F.SENSE_ADC_CFG_TPWM 0 x = p.val → s.dev.on F.SENSE_ADC_CFG_EN 0 x = true →
          s.dev.hub.lost = false → t.on F.SENSE_ADC_STAT_BUSY 0 x = true)))

/-- The switched outputs and operator controls: the states of an output and its faults (R619, R620, R623), a brown-out and its release (R622),
the keys' debouncing and their FIFO (R625, R626), an encoder's counts from the levels of its inputs, which direction is up being the model's open value of log entry 67 (R627), a touch channel's baseline and state (R628). -/
def Obligations.OutputsAndControls : Prop :=
  ∀ s : State, s.awake →
    (∀ j : Fin 12, s.dev.reaches .SENSE 0 = true →
      (s.dev.swState j ≠ 0 → exec (.swEnable j) s = .next (s.after s.dev)) ∧
      (s.dev.swState j = 0 → Does (.swEnable j) s fun t => t.on F.SENSE_SW_CFG_EN 0 j = true ∧
        t.swState j = (if s.dev.on F.SENSE_BO_STAT_LOW then 3 else 1) ∧ bit (t.rd F.SENSE_BO_STAT_HELD) j = s.dev.on F.SENSE_BO_STAT_LOW) ∧
      (s.dev.on F.SENSE_SW_CFG_EN 0 j = false → exec (.swDisable j) s = .next (s.after s.dev)) ∧
      (s.dev.on F.SENSE_SW_CFG_EN 0 j = true → Does (.swDisable j) s fun t => t.on F.SENSE_SW_CFG_EN 0 j = false ∧ t.swState j = 0 ∧
        t.rd F.SENSE_SW_STAT_CAUSE 0 j = 0 ∧ bit (t.rd F.SENSE_BO_STAT_HELD) j = false)) ∧
    (∀ j : Fin 12, s.dev.swState j ≠ 1 → exec (.swInrushEnd j) s = .next (s.after s.dev)) ∧
    (∀ j : Fin 12, s.dev.swState j = 1 → Does (.swInrushEnd j) s fun t => t.swState j = 2 ∧ t.on F.SENSE_SW_STAT_RETRIED 0 j = false) ∧
    (∀ (j : Fin 12) isns, Does (.swHardShort j isns) s fun t => t.rd F.SENSE_SW_STAT_ISNS 0 j = min 0xFF isns ∧
      ((s.dev.swState j = 1 ∨ s.dev.swState j = 2) → s.dev.swLit j = true → (s.dev.swLimits j).2.2 < isns →
        t.swState j = 4 ∧ t.rd F.SENSE_SW_STAT_CAUSE 0 j = 1 ∧
        (s.dev.hub.lost = false → Raised t 578 (pack [(4, j.val), (2, 1)]))) ∧
      ((s.dev.swState j ≠ 1 ∧ s.dev.swState j ≠ 2 ∨ s.dev.swLit j = false ∨ isns ≤ (s.dev.swLimits j).2.2) →
        t.swState j = s.dev.swState j)) ∧
    (∀ (j : Fin 12) isns lim, lim = (if s.dev.swState j = 1 then (s.dev.swLimits j).2.1 else (s.dev.swLimits j).1) →
      Does (.swOvercurrent j isns) s fun t => t.rd F.SENSE_SW_STAT_ISNS 0 j = min 0xFF isns ∧
      ((s.dev.swState j = 1 ∨ s.dev.swState j = 2) → s.dev.swLit j = true → lim < isns →
        t.swState j = 4 ∧ t.rd F.SENSE_SW_STAT_CAUSE 0 j = 2 ∧
        (s.dev.hub.lost = false → Raised t 578 (pack [(4, j.val), (2, 2)]))) ∧
      ((s.dev.swState j ≠ 1 ∧ s.dev.swState j ≠ 2 ∨ s.dev.swLit j = false ∨ isns ≤ lim) → t.swState j = s.dev.swState j)) ∧
    ((s.dev.on F.SENSE_BO_CFG_EN = false ∨ s.dev.on F.SENSE_BO_STAT_LOW = true) → exec .brownoutBegin s = .next (s.after s.dev)) ∧
    (s.dev.on F.SENSE_BO_CFG_EN = true → s.dev.on F.SENSE_BO_STAT_LOW = false →
      Does .brownoutBegin s fun t => (s.dev.rd F.SENSE_BO_CFG_BO ≤ Config.freeValue s.dev.free → t = { s.dev with free := s.dev.free + 1 }) ∧
      (Config.freeValue s.dev.free < s.dev.rd F.SENSE_BO_CFG_BO → t.on F.SENSE_BO_STAT_LOW = true ∧ t.on F.SENSE_BO_STAT_SEEN = true ∧
      (∀ j : Fin 12, (s.dev.swState j ≠ 1 → t.swState j = s.dev.swState j) ∧
        (s.dev.swState j = 1 → s.dev.on F.SENSE_SW_STAT_RETRIED 0 j = false → t.swState j = 3) ∧
        (s.dev.swState j = 1 → s.dev.on F.SENSE_SW_STAT_RETRIED 0 j = true → t.swState j = 4 ∧ t.rd F.SENSE_SW_STAT_CAUSE 0 j = 3)) ∧
      (s.dev.hub.lost = false → Raised t 579 (pack [(1, 1), (12, t.rd F.SENSE_BO_STAT_HELD)])))) ∧
    (s.dev.on F.SENSE_BO_STAT_LOW = false → exec .brownoutRelease s = .next (s.after s.dev)) ∧
    (∀ high, high = s.dev.rd F.SENSE_BO_CFG_BO + s.dev.rd F.SENSE_BO_CFG_HYST →
      s.dev.on F.SENSE_BO_STAT_LOW = true → Does .brownoutRelease s fun t =>
      (Config.freeValue s.dev.free ≤ high → t = { s.dev with free := s.dev.free + 1 }) ∧ (high < Config.freeValue s.dev.free → t.on F.SENSE_BO_STAT_LOW = false ∧
      (∀ j : Fin 12, (s.dev.swState j ≠ 3 → t.swState j = s.dev.swState j) ∧
        (s.dev.swState j = 3 → t.swState j = 1 ∧ t.on F.SENSE_SW_STAT_RETRIED 0 j = s.dev.hub.sense.heldIn.contains j.val)) ∧
      (s.dev.hub.lost = false → 579 ∈ t.router.stat))) ∧
    (∀ levels, (s.dev.on F.OPIO_KEY_CFG_EN = false ∨ s.dev.hub.lost = true) → exec (.keySample levels) s = .next (s.after s.dev)) ∧
    (∀ levels : BitVec 48, s.dev.on F.OPIO_KEY_CFG_EN = true → s.dev.hub.lost = false → Does (.keySample levels) s fun t =>
      ∀ (k : Fin 48) (low : Bool) y deb, low = !bit levels.toNat k → y = Tab.get {} s.dev.hub.sense.keys k →
        deb = 10 * (if s.dev.rd F.OPIO_KEY_CFG_DEB = 0 then 10 else s.dev.rd F.OPIO_KEY_CFG_DEB) →
        (bit s.dev.keyMask k = false → bit t.keyStates k = false) ∧
        (bit s.dev.keyMask k = true → bit t.keyStates k = if bit s.dev.keyStates k ≠ low ∧ deb ≤ y.n + 1 then low else bit s.dev.keyStates k) ∧
        (bit s.dev.keyMask k = true → bit s.dev.keyStates k ≠ low → deb ≤ y.n + 1 → s.dev.hub.sense.keyFifo.length ≤ 16 →
          (2 ^ 31 + b2n low * 2 ^ 30 + k.val * 2 ^ 24, if y.n = 0 then s.dev.ts32 else y.ts) ∈ t.hub.sense.keyFifo)) ∧
    (s.dev.reaches .OPIO 0 = true → s.dev.hub.sense.keyFifo = [] → exec .keyFifoPop s = .next (s.after { s.dev with rdata := 0 })) ∧
    (∀ w ts q, s.dev.reaches .OPIO 0 = true → s.dev.hub.sense.keyFifo = (w, ts) :: q → Does .keyFifoPop s fun t => t.rdata = w ∧
      t.rd F.OPIO_KEY_FTIME_TS32 = ts % 2 ^ 32 ∧ t.hub.sense.keyFifo = q ∧ t.rd F.OPIO_KEY_STAT_LEVEL = q.length % 2 ^ 7) ∧
    (∀ (e : Fin 4) a b ns, (s.dev.hub.lost = true ∨ ns < 100 * s.dev.rd F.OPIO_ENC_CFG_FILT 0 e) →
      exec (.encTransition e ⟨a, b, ns⟩) s = .next (s.after s.dev)) ∧
    (∀ (e : Fin 4) a b ns a0 b0, s.dev.hub.lost = false → 100 * s.dev.rd F.OPIO_ENC_CFG_FILT 0 e ≤ ns →
      Tab.get (false, false) s.dev.hub.sense.encIn e = (a0, b0) → Does (.encTransition e ⟨a, b, ns⟩) s fun t =>
        Tab.get (false, false) t.hub.sense.encIn e = (a, b) ∧
        ((s.dev.on F.OPIO_ENC_CFG_EN 0 e = false ∨ (a = a0 ∧ b = b0)) → t.regs = s.dev.regs ∧ t.router = s.dev.router) ∧
        (s.dev.on F.OPIO_ENC_CFG_EN 0 e = true → a ≠ a0 → b ≠ b0 → s.dev.cnt C.OPIO_ENC_ERR 0 e < 2 ^ 48 →
          t.rd F.OPIO_ENC_POS_POS 0 e = s.dev.rd F.OPIO_ENC_POS_POS 0 e ∧
          t.cnt C.OPIO_ENC_ERR 0 e = min (2 ^ 48 - 1) (s.dev.cnt C.OPIO_ENC_ERR 0 e + 1)) ∧
        (∀ up pos, s.dev.on F.OPIO_ENC_CFG_EN 0 e = true → (a ≠ a0 ↔ b = b0) → up = (((a0 != b0) == (a != a0)) != Config.encUp) →
          pos = (s.dev.rd F.OPIO_ENC_POS_POS 0 e + if up != s.dev.on F.OPIO_ENC_CFG_DIR 0 e then 1 else 2 ^ 32 - 1) % 2 ^ 32 →
          t.rd F.OPIO_ENC_POS_POS 0 e = pos ∧
          (s.dev.rd F.OPIO_ENC_CFG_STEP 0 e = 1 → Tab.get 0 s.dev.hub.sense.encBase e = s.dev.rd F.OPIO_ENC_POS_POS 0 e →
            s.dev.rd F.OPIO_ENC_POS_POS 0 e < 2 ^ 32 →
            Raised t 582 (pack [(2, e.val), (16, pos)]) ∧ Tab.get 0 t.hub.sense.encBase e = pos))) ∧
    (∀ (e : Fin 4) (w : Word), s.dev.reaches .OPIO 0 = true → Does (.encPosWrite e w) s fun t => t.rd F.OPIO_ENC_POS_POS 0 e = w.toNat ∧
      Tab.get 0 t.hub.sense.encBase e = w.toNat) ∧
    (∀ (k : Fin 16) count, (s.dev.on F.OPIO_TCH_CFG_EN = false ∨ bit (s.dev.rd F.OPIO_TCH_EN_MASK) k = false ∨ s.dev.hub.lost = true) →
      exec (.touchMeasure k count) s = .next (s.after s.dev)) ∧
    (∀ (k : Fin 16) (count : BitVec 16) (delta thresh : Int), s.dev.on F.OPIO_TCH_CFG_EN = true → bit (s.dev.rd F.OPIO_TCH_EN_MASK) k = true →
      s.dev.hub.lost = false → s.dev.rd F.OPIO_TCH_RAW_BASE 0 k < 2 ^ 16 → delta = (count.toNat : Int) - (s.dev.rd F.OPIO_TCH_RAW_BASE 0 k : Nat) →
      thresh = (s.dev.rd F.OPIO_TCH_CFG_THRESH : Nat) →
      Does (.touchMeasure k count) s fun t => t.rd F.OPIO_TCH_RAW_COUNT 0 k = count.toNat ∧
        (bit (s.dev.rd F.OPIO_TCH_STATE_MASK) k = false →
          (thresh ≤ delta → (Tab.get {} s.dev.hub.sense.touch k).n = 1 → bit (t.rd F.OPIO_TCH_STATE_MASK) k = true ∧
            Raised t 583 (pack [(4, k.val), (1, 1)]) ∧ t.rd F.OPIO_TCH_RAW_BASE 0 k = s.dev.rd F.OPIO_TCH_RAW_BASE 0 k) ∧
          (delta < thresh → bit (t.rd F.OPIO_TCH_STATE_MASK) k = false ∧ (Tab.get {} t.hub.sense.touch k).n = 0 ∧
            (delta % 256 = 0 → (t.rd F.OPIO_TCH_RAW_BASE 0 k : Int) = s.dev.rd F.OPIO_TCH_RAW_BASE 0 k + delta / 256))) ∧
        (bit (s.dev.rd F.OPIO_TCH_STATE_MASK) k = true →
          (delta < thresh - (s.dev.touchHyst : Nat) → (Tab.get {} s.dev.hub.sense.touch k).n = 1 →
            bit (t.rd F.OPIO_TCH_STATE_MASK) k = false ∧ Raised t 583 (pack [(4, k.val), (1, 0)])) ∧
          (thresh - (s.dev.touchHyst : Nat) ≤ delta → bit (t.rd F.OPIO_TCH_STATE_MASK) k = true ∧
            t.rd F.OPIO_TCH_RAW_BASE 0 k = s.dev.rd F.OPIO_TCH_RAW_BASE 0 k)))

/-- In-field self-test: GO runs the checks of R669, the first that fails ends the run with its RESULT having changed nothing; the scan begins
when VCORE is verified, with the secrets of the security unit cleared first (R668, R670); the end and ABORT show the result, log it and raise
BIST_DONE (R673, R674); a privileged signature reads 0 in DEVELOP and PRODUCTION (R675). -/
def Obligations.SelfTest : Prop :=
  ∀ s : State, s.awake →
    (∀ w : BitVec 31, s.dev.reaches .BIST 0 = true →
      (s.dev.on F.BIST_STAT_BUSY = true → exec (.bistStart w) s = .next (s.after s.dev)) ∧
      (∀ cls p idx, s.dev.on F.BIST_STAT_BUSY = false → cls = slice w.toNat 27 24 → p = slice w.toNat 23 22 → idx = slice w.toNat 6 0 →
        (s.dev.bistCheck cls p idx (slice w.toNat 29 28) (bit w.toNat 30) = none → Does (.bistStart w) s fun t =>
          t.on F.BIST_STAT_BUSY = true ∧ t.rd F.BIST_STAT_PHASE = 1 ∧ t.on F.BIST_CMD_GO = true ∧ t.rd F.BIST_CMD_CLASS = cls ∧
            t.rd F.BIST_CMD_PIPE = p ∧ t.rd F.BIST_CMD_INDEX = idx ∧ t.pipes = s.dev.pipes ∧ t.hub = s.dev.hub) ∧
        (∀ r, s.dev.bistCheck cls p idx (slice w.toNat 29 28) (bit w.toNat 30) = some r → s.dev.hub.lost = false →
          Does (.bistStart w) s fun t => t.on F.BIST_STAT_BUSY = false ∧ t.rd F.BIST_STAT_RESULT = r ∧ t.on F.BIST_CMD_GO = false ∧
            t.on F.BIST_LOG_VALID 0 0 = true ∧ t.rd F.BIST_LOG_RESULT 0 0 = r ∧ t.rd F.BIST_LOG_CLASS 0 0 = cls ∧ t.pipes = s.dev.pipes ∧
            Raised t 592 (pack [(4, cls), (2, p), (7, idx), (4, r)])))) ∧
    ((s.dev.hub.lost = true ∨ s.dev.on F.BIST_STAT_BUSY = false ∨ s.dev.rd F.BIST_STAT_PHASE ≠ 1 ∨ s.dev.rd F.HUB_GOV_STAT_VCMD < 750 ∨
      s.dev.rd F.HUB_GOV_STAT_STATE = 1 ∨ s.dev.rd F.HUB_GOV_STAT_STATE = 3) → exec .bistVoltageReady s = .next (s.after s.dev)) ∧
    (s.dev.hub.lost = false → s.dev.on F.BIST_STAT_BUSY = true → s.dev.rd F.BIST_STAT_PHASE = 1 → 750 ≤ s.dev.rd F.HUB_GOV_STAT_VCMD →
      s.dev.rd F.HUB_GOV_STAT_STATE ≠ 1 → s.dev.rd F.HUB_GOV_STAT_STATE ≠ 3 → Does .bistVoltageReady s fun t =>
        t.rd F.BIST_STAT_PHASE = 3 ∧ (s.dev.rd F.BIST_CMD_CLASS = 11 → t.hub.secu.keys = [] ∧ t.on F.SECU_STAT_KEYSLOST = true ∧
          t.rd F.SECU_STAT_DRBG = 0 ∧ ∀ k : Fin 4, t.rd F.SECU_NONCE_NONCE 0 k = 0)) ∧
    (∀ pass sig, (s.dev.hub.lost = true ∨ s.dev.on F.BIST_STAT_BUSY = false ∨ s.dev.rd F.BIST_STAT_PHASE < 2) →
      exec (.bistRunEnd pass sig) s = .next (s.after s.dev)) ∧
    (∀ mem (sig : BitVec 64) cls pass, s.dev.hub.lost = false → s.dev.on F.BIST_STAT_BUSY = true → 2 ≤ s.dev.rd F.BIST_STAT_PHASE →
      cls = s.dev.rd F.BIST_CMD_CLASS → pass = (mem && decide (sig = Config.bistGolden cls (s.dev.rd F.BIST_CMD_LEN))) →
      Does (.bistRunEnd mem sig) s fun t => t.on F.BIST_STAT_BUSY = false ∧ t.rd F.BIST_STAT_PHASE = 0 ∧
        t.on F.BIST_CMD_GO = false ∧ t.rd F.BIST_STAT_RESULT = (if pass then 0 else 1) ∧ t.rd F.BIST_LOG_RESULT 0 0 = (if pass then 0 else 1) ∧
        Raised t 592 (pack [(4, cls), (2, s.dev.rd F.BIST_CMD_PIPE), (7, s.dev.rd F.BIST_CMD_INDEX), (4, if pass then 0 else 1)]) ∧
        (pass = false → 593 ∈ t.router.stat) ∧
        t.rd F.BIST_SIG_LO_LO = (if bistPrivileged cls && [2, 3].contains (s.dev.rd F.HUB_LCS_STATE) then 0 else sig.toNat % 2 ^ 32)) ∧
    (s.dev.reaches .BIST 0 = true →
      (s.dev.on F.BIST_STAT_BUSY = false → exec .bistAbort s = .next (s.after s.dev)) ∧
      (s.dev.on F.BIST_STAT_BUSY = true → Does .bistAbort s fun t => t.on F.BIST_STAT_BUSY = false ∧ t.rd F.BIST_STAT_PHASE = 0 ∧
        t.rd F.BIST_STAT_RESULT = 7 ∧ t.on F.BIST_CMD_GO = false ∧ t.rd F.BIST_LOG_RESULT 0 0 = 7 ∧
        (s.dev.hub.lost = false → 592 ∈ t.router.stat)))

/-- The security unit: a write of `SECU_CMD` with GO starts a command and is discarded while one runs; its end gives the RESULT, the effect
of the operation on the key store, the fuses or host memory, and SECU_KEY (R679, R682, R683); the DRBG fails and reseeds (R680); an alarm
clears every working copy (R685). -/
def Obligations.Security : Prop :=
  ∀ s : State, s.awake →
    (∀ w : BitVec 27, s.dev.reaches .SECU 0 = true → s.dev.on F.SECU_CMD_GO = false → s.dev.bistHolds 11 0 0 = false →
      Does (.secuGenerate w) s (s.dev.secuRuns 1 w) ∧
      Does (.secuImport w) s (s.dev.secuRuns 2 w) ∧
      Does (.secuImportWrapped w) s (s.dev.secuRuns 3 w) ∧
      Does (.secuExportWrapped w) s (s.dev.secuRuns 4 w) ∧
      Does (.secuLock w) s (s.dev.secuRuns 5 w) ∧
      Does (.secuDestroy w) s (s.dev.secuRuns 6 w) ∧
      Does (.secuSetDigest w) s (s.dev.secuRuns 7 w) ∧
      Does (.secuRevoke w) s (s.dev.secuRuns 8 w) ∧
      Does (.secuAdvanceSvn w) s (s.dev.secuRuns 9 w) ∧
      Does (.secuLcRequest w) s (s.dev.secuRuns 10 w)) ∧
    (∀ (w : BitVec 27) c, c ∈ [Instr.secuGenerate w, .secuImport w, .secuImportWrapped w, .secuExportWrapped w, .secuLock w,
        .secuDestroy w, .secuSetDigest w, .secuRevoke w, .secuAdvanceSvn w, .secuLcRequest w] →
      s.dev.reaches .SECU 0 = true → (s.dev.on F.SECU_CMD_GO = true ∨ s.dev.bistHolds 11 0 0 = true) →
      exec c s = .next (s.after s.dev)) ∧
    (∀ host nvm, (s.dev.hub.lost = true ∨ s.dev.on F.SECU_RES_BUSY = false) →
      exec (.secuCommandDone host nvm) s = .next (s.after s.dev)) ∧
    (∀ host nvm op k src arg, s.dev.hub.lost = false → s.dev.on F.SECU_RES_BUSY = true → op = s.dev.rd F.SECU_CMD_OP →
      k = s.dev.rd F.SECU_CMD_SLOT → src = s.dev.rd F.SECU_CMD_SRCSLOT → arg = s.dev.rd F.SECU_CMD_ARG →
      Does (.secuCommandDone host nvm) s fun t => t.on F.SECU_RES_BUSY = false ∧ t.on F.SECU_CMD_GO = false ∧
        Raised t 595 (pack [(4, op), (4, k), (5, t.rd F.SECU_RES_RESULT)]) ∧
        ((op = 0 ∨ 10 < op) → t.rd F.SECU_RES_RESULT = 1 ∧ t.hub.secu = s.dev.hub.secu) ∧
        ((op = 2 ∨ op = 7 ∨ op = 9) → (s.dev.lcs = 0 ∨ s.dev.lcs = 4 ∨ s.dev.lcs = 5) →
          t.rd F.SECU_RES_RESULT = 6 ∧ t.hub.secu = s.dev.hub.secu) ∧
        (1 ≤ op → op ≤ 6 → op ≠ 2 → s.dev.on F.SECU_STAT_KEYSLOST = true →
          t.rd F.SECU_RES_RESULT = 0xD ∧ t.hub.secu = s.dev.hub.secu) ∧
        (s.dev.on F.SECU_STAT_KEYSLOST = false → nvm = false →
          (op = 1 → 8 ≤ k → Tab.find s.dev.hub.secu.slots k = none → s.dev.rd F.SECU_STAT_DRBG ≠ 3 → t.rd F.SECU_RES_RESULT = 0 ∧
            t.hub.secu.requests = s.dev.hub.secu.requests + 1 ∧
            ∃ key, Tab.find t.hub.secu.keys k = some key ∧
              Tab.find t.hub.secu.slots k = some { bytes := key, cls := if s.dev.lcs = 3 then 3 else 2 }) ∧
          (op = 2 → 8 ≤ k → Tab.find s.dev.hub.secu.slots k = none → s.dev.lcs ≠ 0 → s.dev.lcs ≠ 4 → s.dev.lcs ≠ 5 →
            (host = false ∨ s.dev.hostOk = false → t.rd F.SECU_RES_RESULT = 8 ∧ t.hub.secu = s.dev.hub.secu) ∧
            (host = true → s.dev.hostOk = true → t.rd F.SECU_RES_RESULT = 0 ∧
              Tab.find t.hub.secu.keys k = some (s.dev.hostMem.reads s.dev.secuAddr 32))) ∧
          (op = 3 → 8 ≤ k → Tab.find s.dev.hub.secu.slots k = none → 8 ≤ src → ∀ kek, Tab.find s.dev.hub.secu.keys src = some kek →
            host = true → s.dev.hostOk = true →
            (keyUnwrap kek (s.dev.hostMem.reads s.dev.secuAddr 40) = none → t.rd F.SECU_RES_RESULT = 7 ∧
              t.hub.secu = s.dev.hub.secu) ∧
            (∀ key, keyUnwrap kek (s.dev.hostMem.reads s.dev.secuAddr 40) = some key → t.rd F.SECU_RES_RESULT = 0 ∧
              Tab.find t.hub.secu.keys k = some key)) ∧
          (op = 4 → 8 ≤ k → 8 ≤ src → k ≠ src → ∀ kek key, Tab.find s.dev.hub.secu.keys src = some kek →
            Tab.find s.dev.hub.secu.keys k = some key → host = true → s.dev.hostOk = true →
            ((Tab.get { bytes := [] } s.dev.hub.secu.slots k).lock = true → t.rd F.SECU_RES_RESULT = 5 ∧ t.hostMem = s.dev.hostMem) ∧
            ((Tab.get { bytes := [] } s.dev.hub.secu.slots k).lock = false → t.rd F.SECU_RES_RESULT = 0 ∧
              t.hostMem = s.dev.hostMem.writes s.dev.secuAddr (keyWrap kek key))) ∧
          (op = 5 → 8 ≤ k → (Tab.find s.dev.hub.secu.keys k).isSome = true → t.rd F.SECU_RES_RESULT = 0 ∧
            (Tab.get { bytes := [] } t.hub.secu.slots k).lock = true) ∧
          (op = 6 → 8 ≤ k → (Tab.get { bytes := [] } s.dev.hub.secu.slots k).lock = false → t.rd F.SECU_RES_RESULT = 0 ∧
            Tab.find t.hub.secu.slots k = none ∧ Tab.find t.hub.secu.keys k = none)) ∧
        (op = 7 → 2 ≤ k → k < 8 → Tab.find s.dev.hub.secu.slots k = none → s.dev.lcs = 3 → slice arg 1 0 = 3 → host = true →
          s.dev.hostOk = true → nvm = false → t.rd F.SECU_RES_RESULT = 0 ∧ Tab.find t.hub.secu.slots k =
            some { bytes := s.dev.hostMem.reads s.dev.secuAddr 48, cls := 3, use := slice arg 3 2 }) ∧
        (op = 8 → k < 8 → ∀ y, Tab.find s.dev.hub.secu.slots k = some y →
          (s.dev.hub.secu.imgSlot = some k → t.rd F.SECU_RES_RESULT = 6 ∧ t.hub.secu = s.dev.hub.secu) ∧
          (s.dev.hub.secu.imgSlot ≠ some k → nvm = false → t.rd F.SECU_RES_RESULT = 0 ∧
            Tab.find t.hub.secu.slots k = some { y with revoked := true })) ∧
        (op = 9 → s.dev.lcs ≠ 0 → s.dev.lcs ≠ 4 → s.dev.lcs ≠ 5 → 596 ∈ t.router.stat ∧
          (s.dev.hub.therm.kind.isSome = true → t.rd F.SECU_RES_RESULT = 6) ∧
          (s.dev.hub.therm.kind = none → (64 < arg ∨ s.dev.hub.secu.imgSvn < arg) → t.rd F.SECU_RES_RESULT = 9 ∧
            t.hub.secu = s.dev.hub.secu) ∧
          (s.dev.hub.therm.kind = none → arg ≤ 64 → arg ≤ s.dev.hub.secu.imgSvn → nvm = false → t.rd F.SECU_RES_RESULT = 0 ∧
            t.hub.secu.svn = max s.dev.hub.secu.svn arg ∧ (s.dev.hub.secu.svn < arg → t.rd F.SECU_STAT_SVNNEXT = arg))) ∧
        (op = 10 →
          (host = false → t.rd F.SECU_RES_RESULT = 8 ∧ t.hub.secu.lc = s.dev.hub.secu.lc ∧ t.hub.secu.slots = s.dev.hub.secu.slots) ∧
          (host = true → s.dev.hostOk = true →
            ofLeBytes (((s.dev.hostMem.reads s.dev.secuAddr 320).drop 4).take 1) ≠ s.dev.lcs → t.rd F.SECU_RES_RESULT = 0xB ∧
              t.hub.secu.lc = s.dev.hub.secu.lc ∧ t.hub.secu.slots = s.dev.hub.secu.slots) ∧
          (∀ b key target y, host = true → s.dev.hostOk = true → nvm = false → b = s.dev.hostMem.reads s.dev.secuAddr 320 →
            key = (b.drop 0x50).take 96 → target = ofLeBytes ((b.drop 5).take 1) → s.dev.lcFramed b →
            lcAllowed s.dev.lcs target = true → s.dev.hub.secu.lc = none → p384Verify key ((b.drop 0xB0).take 96) (b.take 64) = true →
            Tab.find s.dev.hub.secu.slots (ofLeBytes ((b.drop 0x42).take 2)) = some y → y.revoked = false →
            lcSigner s.dev.lcs target y.cls = true → sha384 key = y.bytes → t.rd F.SECU_RES_RESULT = 0 ∧
              t.hub.secu.lc = some target ∧ t.on F.SECU_STAT_LCPEND = true ∧ t.rd F.SECU_STAT_LCNEXT = target))) ∧
    (Does .drbgHealthFail s fun t => t.rd F.SECU_STAT_DRBG = 3 ∧ t.on F.SECU_ALARM_DRBG = true ∧ t.on F.SECU_STAT_KEYSLOST = true ∧
      t.hub.secu.keys = [] ∧ (s.dev.hub.lost = false → 594 ∈ t.router.stat)) ∧
    (∀ past, (s.dev.hub.lost = true ∨ (if past then s.dev.rd F.SECU_STAT_DRBG ≠ 2
        else s.dev.rd F.SECU_STAT_DRBG ≠ 1 ∨ s.dev.hub.secu.requests < 2 ^ 20)) → exec (.drbgReseed past) s = .next (s.after s.dev)) ∧
    (s.dev.hub.lost = false → s.dev.rd F.SECU_STAT_DRBG = 1 → 2 ^ 20 ≤ s.dev.hub.secu.requests →
      exec (.drbgReseed false) s = .next (s.after (s.dev.wr F.SECU_STAT_DRBG 2))) ∧
    (s.dev.hub.lost = false → s.dev.rd F.SECU_STAT_DRBG = 2 → Does (.drbgReseed true) s fun t =>
      t.rd F.SECU_STAT_DRBG = 1 ∧ t.hub.secu.requests = 0) ∧
    (∀ a, Does (.secuAlarmInput a) s fun t => t.on F.SECU_STAT_KEYSLOST = true ∧ t.hub.secu.keys = [] ∧
      (s.dev.hub.lost = false → 594 ∈ t.router.stat) ∧
      match a with
      | .glitch => t.on F.SECU_ALARM_GLITCH = true ∧ t.hub.secu.slots = s.dev.hub.secu.slots
      | .tamper => t.on F.SECU_ALARM_TAMPER = true ∧ t.hub.secu.slots = s.dev.hub.secu.slots
      | .record k => t.on F.SECU_ALARM_NVM = true ∧ (2 ≤ k.val → Tab.find t.hub.secu.slots k.val = none))

/-- The pace contract: a sensor's reading shows, and one out of range excludes the sensor (R66 to R68); a window shows the peaks and the margins
of every valid claim, and makes a claim short that has been below 0 for two windows while VCORE cannot rise (R71, R72, R82); a yield ends
when a higher rank of its resource yields no more and its claims allow it (R37, R86); a stalled record path stops, is flushed and resumes
(R88 to R90). -/
def Obligations.PaceContract : Prop :=
  ∀ (s : State) (p : Pipe), s.awake →
    (∀ k ps, s.dev.powered p = false → exec (.paceSensorReading p k ps) s = .next (s.after s.dev)) ∧
    (∀ (k : Fin 24) (ps : BitVec 12), s.dev.powered p = true → Does (.paceSensorReading p k ps) s fun t =>
      t.rd F.PCTL_PSENS_PACE_PS p k = ps.toNat ∧ (Tab.get {} (t.pipe p).pace.sens k).last = ps.toNat ∧
      (Tab.get {} (t.pipe p).pace.sens k).peak = max (Tab.get {} (s.dev.pipe p).pace.sens k).peak ps.toNat ∧
      (s.dev.on F.PCTL_PSENS_FAULT p k = false → (ps.toNat < 300 ∨ 2000 < ps.toNat) → t.on F.PCTL_PSENS_FAULT p k = true ∧
        t.on F.PCTL_PSENS_VALID p k = false ∧ (s.dev.hub.lost = false → Raised t (pipeEvent p 2) k.val)) ∧
      (s.dev.on F.PCTL_PSENS_FAULT p k = false → 300 ≤ ps.toNat → ps.toNat ≤ 2000 →
        (Tab.get {} (s.dev.pipe p).pace.sens k).last ≠ ps.toNat → t.on F.PCTL_PSENS_VALID p k = true) ∧
      (s.dev.on F.PCTL_PSENS_FAULT p k = true → t.on F.PCTL_PSENS_VALID p k = s.dev.on F.PCTL_PSENS_VALID p k)) ∧
    (s.dev.powered p = false → exec (.paceWindowEnd p) s = .next (s.after s.dev)) ∧
    (s.dev.powered p = true → Does (.paceWindowEnd p) s fun t =>
      (∀ k : Fin 24, t.rd F.PCTL_PSENS_PEAK_PS p k = (Tab.get {} (s.dev.pipe p).pace.sens k).peak % 2 ^ 12) ∧
      (∀ k : Fin 32, s.dev.claimValid p k = true → Tab.find (t.pipe p).pace.margins k.val = some (t.claimMargin p k)) ∧
      (t.on F.PCTL_PACE_STAT_NOCLAIM p = !(List.range 32).any (s.dev.claimActive p)) ∧
      ((s.dev.govStepping = true ∨ s.dev.cannotRise p = false) → (t.pipe p).pace.short = [] ∧ t.on F.PCTL_PACE_STAT_SHORT p = false ∧
        (t.pipe p).pace.rungs = (s.dev.pipe p).pace.rungs ∧ (t.pipe p).pace.lives = (s.dev.pipe p).pace.lives) ∧
      (∀ k : Fin 32, s.dev.govStepping = false → s.dev.cannotRise p = true → s.dev.claimActive p k = true → t.claimMargin p k < 0 →
        1 ≤ Tab.get 0 (s.dev.pipe p).pace.neg k.val → k.val ∈ (t.pipe p).pace.short ∧ t.on F.PCTL_PACE_STAT_SHORT p = true ∧
          (s.dev.hub.lost = false → k.val ∉ (s.dev.pipe p).pace.short → pipeEvent p 1 ∈ t.router.stat))) ∧
    (∀ (u : Unit5) (res : Fin 16) (rank : Fin 6),
      ((s.dev.yielding fun y => y.origin == u.val && y.res == res.val && decide (y.yrank < rank.val)) = true →
        exec (.yieldRestore u res rank) s = .next (s.after s.dev)) ∧
      ((s.dev.yielding fun y => y.origin == u.val && y.res == res.val && decide (y.yrank < rank.val)) = false →
        (res ≠ 2 ∨ u = 4) → (res ≠ 0 ∨ rank < 3) → Does (.yieldRestore u res rank) s fun t =>
          ∀ y ∈ t.router.yields, y.origin = u.val → y.res = res.val → y.yrank = rank.val →
            y.cause = 3 ∧ s.dev.on F.DRC_HOT_STAT_HOLD u = true) ∧
      ((s.dev.yielding fun y => y.origin == p.val && y.res == 2 && decide (y.yrank < rank.val)) = false →
        Does (.yieldRestore (p.castLE (by decide)) 2 rank) s fun t => ∀ x ∈ s.dev.shedItems p rank,
          (s.dev.shedOver p rank x.1 x.2 = true → ∀ y ∈ t.shedItems p rank, y.1 ≠ x.1) ∧
          ((∀ y ∈ s.dev.shedItems p rank, y.1 = x.1 → s.dev.shedOver p rank y.1 y.2 = false) → x ∈ t.shedItems p rank))) ∧
    (∀ (stage : Fin 4) (inst : BitVec 16),
      (s.dev.pipeRuns p = false ∨ (s.dev.pipe p).recp.latched = true ∨ s.dev.stageHolds p stage inst.toNat = false) →
      exec (.recStall p stage inst) s = .next (s.after s.dev)) ∧
    (∀ (stage : Fin 4) (inst : BitVec 16) latch, s.dev.pipeRuns p = true →
      (s.dev.pipe p).recp.latched = false → s.dev.stageHolds p stage inst.toNat = true →
      latch = ((s.dev.pipe p).recp.seen && (s.dev.pipe p).recp.stage == stage.val && (s.dev.pipe p).recp.inst == inst.toNat &&
        decide (cSince (s.dev.pipe p).recp.at_ s.dev.c < cOfNs 1000000000)) → s.dev.cnt C.PCTL_STALL_CNT p < 2 ^ 48 →
      Does (.recStall p stage inst) s fun t => t.on F.PCTL_STALL_LOC_VALID p = true ∧ t.on F.PCTL_STALL_LOC_LATCH p = latch ∧
        t.rd F.PCTL_STALL_LOC_STAGE p = stage.val ∧ t.rd F.PCTL_STALL_LOC_INST p = inst.toNat ∧
        (t.pipe p).recp.stopped = true ∧ (t.pipe p).recp.latched = latch ∧ t.cnt C.PCTL_STALL_CNT p = min (2 ^ 48 - 1) (s.dev.cnt C.PCTL_STALL_CNT p + 1) ∧
        (s.dev.hub.lost = false → pipeEvent p 3 ∈ t.router.stat) ∧
        (latch = false → ∀ v : Fin 16, (t.vc p v).feeding = false ∧
          (s.dev.hub.lost = false → Raised t (pipeEvent p 3) (t.fieldWord ⟨.PCTL_STALL_LOC, p, 0, 0⟩)))) ∧
    (((s.dev.pipe p).recp.stopped = false ∨ (s.dev.pipe p).recp.latched = true) → exec (.recFlush p) s = .next (s.after s.dev)) ∧
    ((s.dev.pipe p).recp.stopped = true → (s.dev.pipe p).recp.latched = false → Does (.recFlush p) s fun t =>
      (t.pipe p).recp.stopped = false ∧ (t.pipe p).recp.flushed = true) ∧
    ((s.dev.pipe p).recp.flushed = false → exec (.recRestart p) s = .next (s.after s.dev)) ∧
    ((s.dev.pipe p).recp.flushed = true → Does (.recRestart p) s fun t => (t.pipe p).recp.flushed = false ∧
      (∀ v : Fin 16, (t.vc p v).stalled = []) ∧ (s.dev.hub.lost = false → Raised t (pipeEvent p 4)
        (2 ^ 31 + (s.dev.pipe p).recp.stage * 2 ^ 24 + (s.dev.pipe p).recp.inst)))

/-- The pace governor: a mode write (R73, R76), the entry sequence and the steps of VCORE by its PMBus transactions, each of which is tried four
times (R73, R75, R76), the settling time (R75), an alert (R76), and the window's decision, which shows M and in AUTO starts at most one step
(R74). -/
def Obligations.Governor : Prop :=
  ∀ s : State, s.awake →
    (∀ (mode : Fin 4) (vman : BitVec 10), s.dev.reaches .HUB_CTL 0 = true → Does (.govModeWrite mode vman) s fun t =>
      t.rd F.HUB_GOV_CTL_MODE = mode.val ∧ t.rd F.HUB_GOV_CTL_VMAN = vman.toNat ∧
      (s.dev.rd F.HUB_GOV_CTL_MODE ≠ mode.val ∨ s.dev.govState = 6 →
        (mode = 0 → t.govState = 0 ∧ t.hub.gov.alert = false) ∧ (mode = 2 → t.govState = 4) ∧
        ((mode = 1 ∨ mode = 3) → (s.dev.rd F.HUB_GOV_CTL_MODE = 0 ∨ s.dev.rd F.HUB_GOV_CTL_MODE = 2) → s.dev.hub.gov.op = .none →
          t.govState = 1 ∧ t.hub.gov.op = if s.dev.on F.HUB_GOV_PMB_PAGE_EN then .page else .voutMode))) ∧
    (∀ r, (s.dev.hub.lost = true ∨ s.dev.hub.gov.op = .none ∨ s.dev.hub.gov.waiting = true) →
      exec (.pmbusTransactionDone r) s = .next (s.after s.dev)) ∧
    (∀ v, s.dev.hub.lost = false → s.dev.hub.gov.waiting = false → s.dev.hub.gov.cut = false →
      (s.dev.hub.gov.op = .page → Does (.pmbusTransactionDone (.ok v)) s fun t => t.hub.gov.op = .voutMode) ∧
      (s.dev.hub.gov.op = .voutMode → v / 32 % 8 = 0 → Does (.pmbusTransactionDone (.ok v)) s fun t =>
        t.hub.gov.op = .readVoutEntry ∧ t.hub.gov.exponent = signed 5 v) ∧
      (s.dev.hub.gov.op = .voutMode → v / 32 % 8 ≠ 0 → Does (.pmbusTransactionDone (.ok v)) s fun t =>
        t.govState = 6 ∧ t.rd F.HUB_GOV_STAT_FCAUSE = 4 ∧ t.hub.gov.op = .none ∧ Raised t 515 4) ∧
      (s.dev.hub.gov.op = .readVoutEntry → s.dev.rd F.HUB_GOV_CTL_MODE = 1 → Does (.pmbusTransactionDone (.ok v)) s fun t =>
        t.govState = (if s.dev.hub.gov.entry && !s.dev.hub.gov.settling then 1 else 2) ∧ t.hub.gov.vcmd =
          if s.dev.rd F.HUB_GOV_STAT_VCMD = 0 then linearMv s.dev.hub.gov.exponent v else s.dev.rd F.HUB_GOV_STAT_VCMD) ∧
      (s.dev.hub.gov.op = .voutCommand → Does (.pmbusTransactionDone (.ok v)) s fun t => t.hub.gov.op = .none ∧ t.hub.gov.settling = true ∧
        t.hub.gov.vcmd = s.dev.hub.gov.target ∧ t.rd F.HUB_GOV_STAT_VCMD = s.dev.hub.gov.target % 2 ^ 10 ∧ t.hub.gov.lastChange = s.dev.c) ∧
      (s.dev.hub.gov.op = .verifyVout →
        (voutOff s.dev.hub.gov.exponent v s.dev.hub.gov.target = false → Does (.pmbusTransactionDone (.ok v)) s fun t =>
          t.hub.gov.op = .verifyStatus ∧ t.hub.gov.tries = 0) ∧
        (voutOff s.dev.hub.gov.exponent v s.dev.hub.gov.target = true → s.dev.hub.gov.tries < 3 →
          Does (.pmbusTransactionDone (.ok v)) s fun t => t.hub.gov.op = .verifyVout ∧ t.hub.gov.tries = s.dev.hub.gov.tries + 1 ∧
            t.hub.gov.waiting = true) ∧
        (voutOff s.dev.hub.gov.exponent v s.dev.hub.gov.target = true → 3 ≤ s.dev.hub.gov.tries →
          Does (.pmbusTransactionDone (.ok v)) s fun t => t.govState = 6 ∧ t.rd F.HUB_GOV_STAT_FCAUSE = 5 ∧ Raised t 515 5)) ∧
      (s.dev.hub.gov.op = .verifyStatus → statusFault v = false → s.dev.hub.gov.entry = false → s.dev.rd F.HUB_GOV_CTL_MODE = 1 →
        s.dev.hub.gov.alert = false → Does (.pmbusTransactionDone (.ok v)) s fun t => t.govState = 2 ∧ t.hub.gov.op = .none)) ∧
    (∀ r cause, s.dev.hub.lost = false → s.dev.hub.gov.op ≠ .none → s.dev.hub.gov.waiting = false → s.dev.hub.gov.cut = false →
      (r = .nack ∧ cause = 1 ∨ r = .pec ∧ s.dev.on F.HUB_GOV_PMB_PEC = true ∧ cause = 2) →
      (s.dev.hub.gov.tries < 3 → Does (.pmbusTransactionDone r) s fun t =>
        t.hub.gov = { s.dev.hub.gov with
          tries := s.dev.hub.gov.tries + 1, waiting := true, bus := t.hub.gov.bus, fast := s.dev.on F.HUB_GOV_PMB_SPEED } ∧
        t.govState = s.dev.govState) ∧
      (3 ≤ s.dev.hub.gov.tries → Does (.pmbusTransactionDone r) s fun t => t.govState = 6 ∧ t.rd F.HUB_GOV_STAT_FCAUSE = cause ∧
        t.hub.gov.op = .none ∧ t.hub.gov.vcmd = s.dev.hub.gov.vcmd ∧ Raised t 515 cause)) ∧
    (s.dev.hub.lost = false → s.dev.hub.gov.op ≠ .none → s.dev.hub.gov.waiting = false → s.dev.hub.gov.cut = false →
      (s.dev.hub.gov.tries < 3 → Does .pmbusBusTimeout s fun t =>
        t.hub.gov = { s.dev.hub.gov with
          tries := s.dev.hub.gov.tries + 1, waiting := true, bus := t.hub.gov.bus, fast := s.dev.on F.HUB_GOV_PMB_SPEED } ∧
        t.govState = s.dev.govState) ∧
      (3 ≤ s.dev.hub.gov.tries → Does .pmbusBusTimeout s fun t => t.govState = 6 ∧ t.rd F.HUB_GOV_STAT_FCAUSE = 3 ∧
        t.hub.gov.op = .none ∧ t.hub.gov.vcmd = s.dev.hub.gov.vcmd ∧ Raised t 515 3)) ∧
    (s.dev.hub.lost = true → exec .pmbusRetryStart s = .next (s.after s.dev)) ∧
    (s.dev.hub.lost = false → Does .pmbusRetryStart s fun t => t.hub.gov = { s.dev.hub.gov with waiting := false }) ∧
    ((s.dev.hub.lost = true ∨ s.dev.hub.gov.op = .none ∨ s.dev.hub.gov.waiting = true) →
      exec .pmbusBusTimeout s = .next (s.after s.dev)) ∧
    ((s.dev.hub.lost = true ∨ s.dev.hub.gov.settling = false) → exec .govSettleEnd s = .next (s.after s.dev)) ∧
    (s.dev.hub.lost = false → s.dev.hub.gov.settling = true → Does .govSettleEnd s fun t =>
      t.hub.gov = { s.dev.hub.gov with settling := false, op := .verifyVout, tries := 0, bus := t.hub.gov.bus, fast := t.hub.gov.fast }) ∧
    ((s.dev.hub.lost = true ∨ s.dev.govState = 0 ∨ s.dev.govState = 6) → exec .pmbAlert s = .next (s.after s.dev)) ∧
    (s.dev.hub.lost = false → s.dev.govState ≠ 0 → s.dev.govState ≠ 6 →
      ((s.dev.hub.gov.op ≠ .none ∨ s.dev.hub.gov.settling = true) → Does .pmbAlert s fun t =>
        t.hub.gov = { s.dev.hub.gov with alert := true }) ∧
      (s.dev.hub.gov.op = .none → s.dev.hub.gov.settling = false → s.dev.hub.gov.entry = false →
        (s.dev.govState = 2 ∨ s.dev.govState = 4 ∨ s.dev.govState = 5) → Does .pmbAlert s fun t =>
          t.hub.gov.op = .alertStatus ∧ t.hub.gov.alert = false)) ∧
    (s.dev.hub.lost = true → exec .govWindowEnd s = .next (s.after s.dev)) ∧
    (∀ m, s.dev.hub.lost = false → (m = none ∧ s.dev.govMargins = [] ∨ ∃ x ∈ s.dev.govMargins, m = some x.2 ∧ ∀ y ∈ s.dev.govMargins, x.2 ≤ y.2) →
      Does .govWindowEnd s fun t => t.rd F.HUB_GOV_STAT_MARGIN = (match m with | some x => code 12 x | none => 0) ∧
        (m ≠ none → ∃ x ∈ s.dev.govMargins, m = some x.2 ∧ t.rd F.HUB_GOV_STAT_PIPE = x.1) ∧
        (s.dev.rd F.HUB_GOV_CTL_MODE = 1 → s.dev.govState = 2 → s.dev.hub.gov.op = .none → s.dev.hub.gov.settling = false →
          (∀ v, (s.dev.govDecide m).1 = some v → t.govState = 3 ∧ t.hub.gov.op = .voutCommand ∧ t.hub.gov.target = v ∧
            t.hub.gov.tries = 0 ∧ t.on F.HUB_GOV_STAT_AT_VMAX = false) ∧
          (s.dev.govDecide m = (none, true) → t.hub.gov = s.dev.hub.gov ∧ t.on F.HUB_GOV_STAT_AT_VMAX = true ∧
            (s.dev.on F.HUB_GOV_STAT_AT_VMAX = false → Raised t 514 (t.fieldWord ⟨.HUB_GOV_STAT, 0, 0, 0⟩))) ∧
          (s.dev.govDecide m = (none, false) → t.hub.gov = s.dev.hub.gov ∧ t.on F.HUB_GOV_STAT_AT_VMAX = false)))

/-- Autonomous run: a copy strobe gives every powered pipe the Hub's time, and the first one after a holdover returns its pipe to RUN (R492,
R494); a pipe in RUN that has missed its copies enters autonomous run and holdover with its record begun (R43, R494); at its limit the pipe
closes its take (R45). A lost Hub sends no copies (R42). -/
def Obligations.AutonomousRun : Prop :=
  ∀ (s : State) (p : Pipe), s.awake →
    (s.dev.hub.lost = true → exec .timeCopyStrobe s = .next (s.after s.dev)) ∧
    (s.dev.hub.lost = false → s.dev.powered p = true → Does .timeCopyStrobe s fun t => (t.pipe p).lastCopy = s.dev.c ∧
      t.pipeTime p = t.hubTime ∧ t.on F.NET_TIME_STAT_HOLD p = false ∧
      t.on F.NET_TIME_STAT_RESYNC p = s.dev.on F.NET_TIME_STAT_HOLD p ∧
      (s.dev.on F.NET_TIME_STAT_HOLD p = true → s.dev.inArun p = true → t.rd F.PCTL_STAT_STATE p = 3)) ∧
    (s.dev.rd F.PCTL_STAT_STATE p ≠ 3 → exec (.autonomousRunEntry p) s = .next (s.after s.dev)) ∧
    (s.dev.rd F.PCTL_STAT_STATE p = 3 → Does (.autonomousRunEntry p) s fun t => t.rd F.PCTL_STAT_STATE p = 4 ∧
      t.on F.NET_TIME_STAT_HOLD p = true ∧ t.on F.NET_TIME_STAT_RESYNC p = false ∧ t.on F.PCTL_ARUN_STAT_VALID p = true ∧
      t.rd F.PCTL_ARUN_STAT_END p = 0 ∧ t.rd F.PCTL_ARUN_FRAMES_FRAMES p = 0 ∧ t.rd F.PCTL_ARUN_TNS_NS p = ptpNs (s.dev.pipeTime p)) ∧
    (s.dev.inArun p = false → exec (.arunLimitExpiry p) s = .next (s.after s.dev)) ∧
    (s.dev.inArun p = true → Does (.arunLimitExpiry p) s fun t => t.inArun p = true ∧
      (s.dev.on F.PCTL_STAT_TAKE p = true → s.dev.rd F.PCTL_ARUN_STAT_END p = 0 → t.rd F.PCTL_ARUN_STAT_END p = 1) ∧
      ∀ k : Fin 8, (s.dev.tq p k).take ≠ 0 → (s.dev.tqState p k = 2 → t.tqState p k = 3) ∧ (s.dev.tqState p k = 1 → (t.tq p k).take = 0))

/-- The register file: a write changes each field by its access code (R10); the low word of a pair is held until the high word's write, which
applies both (R7); a read of a low word snapshots the high word, and the next read of the high word returns the snapshot (R6), an 8-byte
read both (R8); a narrow or unaligned write is discarded and a narrow read is the aligned one (R9); unoccupied offsets read 0 and what is
not presented reads all ones, and neither takes writes (R12, R42, R559, R560); a request above 8 bytes is logged only (R552). -/
def Obligations.RegisterFile : Prop :=
  ∀ (s : State) (a : BitVec 28) (o : Nat), s.awake → slotOf a = 0 → offOf a = o →
    (∀ w, (s.dev.slotOpen o = false ∨ o % 4 ≠ 0 ∨ regAt o = none ∧ isPairLow o = false ∧ isPairLow (o - 4) = false) →
      exec (.registerWrite a w) s = .next (s.after s.dev)) ∧
    (∀ (w : Word) l f, o % 4 = 0 → s.dev.slotOpen o = true → regAt o = some l → l.reg.pairHi = none → l.reg.pairLo = none →
      (s.dev.dropSnap o).writeReg l w.toNat = (s.dev.dropSnap o).wrWord l w.toNat → f ∈ l.reg.info.flds →
      Does (.registerWrite a w) s fun t => t.rd f l.p l.i l.j = match f.accAt l.p l.i with
        | .rw => slice w.toNat f.hi f.lo
        | .rws => slice w.toNat f.hi f.lo
        | .w1c => Nat.land (s.dev.rd f l.p l.i l.j) (2 ^ f.width - 1 - slice w.toNat f.hi f.lo) % 2 ^ f.width
        | .w1s => Nat.lor (s.dev.rd f l.p l.i l.j) (slice w.toNat f.hi f.lo) % 2 ^ f.width
        | _ => s.dev.rd f l.p l.i l.j) ∧
    (∀ (w : Word) l, o % 4 = 0 → s.dev.slotOpen o = true → regAt o = some l → l.reg.pairHi.isSome = true →
      Does (.pairLowWrite a w) s fun t => t.regs = s.dev.regs ∧ Tab.find t.held o = some w.toNat) ∧
    (∀ w, (s.dev.slotOpen o = false ∨ o % 4 ≠ 0) → exec (.pairLowWrite a w) s = .next (s.after s.dev)) ∧
    (∀ (w : Word) l lo v f, o % 4 = 0 → s.dev.slotOpen o = true → regAt o = some l → l.reg.pairHi = none → l.reg.pairLo = some lo →
      s.dev.writeOpen l = true → Tab.find s.dev.held (o - 4) = some v → Does (.pairHighWrite a w) s fun t =>
        Tab.find t.held (o - 4) = none ∧
        (f ∈ lo.info.flds → f.accAt l.p l.i = .rw → t.rd f l.p l.i l.j = slice v f.hi f.lo) ∧
        (f ∈ l.reg.info.flds → f.accAt l.p l.i = .rw → t.rd f l.p l.i l.j = slice w.toNat f.hi f.lo)) ∧
    (∀ w, (s.dev.slotOpen o = false ∨ o % 4 ≠ 0) → exec (.pairHighWrite a w) s = .next (s.after s.dev)) ∧
    (s.dev.slotOpen (o / 4 * 4) = false → (Does (.pairLowRead a) s fun t => t.rdata = 0xFFFFFFFF ∧ t.regs = s.dev.regs) ∧
      (Does (.pairHighRead a) s fun t => t.rdata = 0xFFFFFFFF ∧ t.regs = s.dev.regs)) ∧
    (s.dev.slotOpen o = true → o % 4 = 0 → regAt o = none → trlWindow o = none → statWindowAt o = none → isPairLow (o - 4) = false →
      Does (.pairLowRead a) s fun t => t.rdata = 0 ∧ t.regs = s.dev.regs) ∧
    (s.dev.slotOpen o = true → o % 4 = 0 → isPairLow o = true → Does (.pairLowRead a) s fun t =>
      t.rdata = s.dev.liveAt o ∧ Tab.find t.snaps o = some (s.dev.liveAt (o + 4)) ∧ t.regs = s.dev.regs) ∧
    (s.dev.slotOpen o = true → o % 4 = 0 → 4 ≤ o → isPairLow o = false → isPairLow (o - 4) = true →
      (∀ l, regAt o = some l → l.reg.pairLo.isSome = true) → Does (.pairHighRead a) s fun t =>
      (∀ v, Tab.find s.dev.snaps (o - 4) = some v → t.rdata = v ∧ Tab.find t.snaps (o - 4) = none) ∧
      (Tab.find s.dev.snaps (o - 4) = none → t.rdata = s.dev.liveAt o)) ∧
    (∀ (n : Fin 8) (v : BitVec 64), (o % 4 ≠ 0 ∨ n.val ≠ 3 ∧ n.val ≠ 7) → exec (.misalignedAccess a n (some v)) s = .next (s.after s.dev)) ∧
    (∀ n : Fin 8, n.val < 4 → exec (.misalignedAccess a n none) s = .next (s.after (s.dev.regRead (o / 4 * 4)))) ∧
    (o % 4 = 0 → isPairLow o = true → isPairLow (o + 4) = false → s.dev.slotOpen o = true → s.dev.slotOpen (o + 4) = true →
      (∀ l, regAt (o + 4) = some l → l.reg.pairLo.isSome = true) →
      Does (.misalignedAccess a 7 none) s fun t => t.rdata = s.dev.liveAt o + 2 ^ 32 * s.dev.liveAt (o + 4) ∧
        Tab.find t.snaps o = none) ∧
    (∀ wr, Does (.bar2OversizeRequest wr) s fun t => t.router.aer = s.dev.router.aer ++ [b2n wr] ∧ t.regs = s.dev.regs ∧
      t.rdata = s.dev.rdata ∧ t.hub = s.dev.hub ∧ t.pipes = s.dev.pipes)

/-- The slots of followers (R538, R557): an access of a follower that is UP waits on its link behind the earlier ones, a read of it completes
with what the follower answers, after the writes before it, an 8-byte read with both words (R8); a slot of no follower reads all ones and takes no writes (R12). -/
def Obligations.FollowerSlots : Prop :=
  ∀ (s : State) (x : Fin 4) (off : BitVec 26), s.awake →
    (∀ w, s.dev.ownSlot x = false → s.dev.slotUp x = false → exec (.qdlForwardWrite x off w) s = .next (s.after s.dev)) ∧
    (∀ w : Word, off.toNat % 4 = 0 → s.dev.ownSlot x = false → s.dev.slotUp x = true → Does (.qdlForwardWrite x off w) s fun t =>
      Tab.get [] t.hub.qdl.fwd (x.val - 1) = Tab.get [] s.dev.hub.qdl.fwd (x.val - 1) ++ [.write off.toNat w.toNat] ∧
        t.regs = s.dev.regs) ∧
    (∀ w, off.toNat % 4 ≠ 0 → exec (.qdlForwardWrite x off w) s = .next (s.after s.dev)) ∧
    (s.dev.ownSlot x = false → s.dev.slotUp x = false → exec (.qdlForwardRead x off) s = .next (s.after { s.dev with rdata := 0xFFFFFFFF })) ∧
    (s.dev.ownSlot x = false → s.dev.slotUp x = true → Does (.qdlForwardRead x off) s fun t =>
      Tab.get [] t.hub.qdl.fwd (x.val - 1) = Tab.get [] s.dev.hub.qdl.fwd (x.val - 1) ++ [.read (off.toNat / 4 * 4)] ∧
        t.regs = s.dev.regs) ∧
    (s.dev.ownSlot x = true → exec (.qdlForwardRead x off) s = .next (s.after (s.dev.regRead (off.toNat / 4 * 4)))) ∧
    (∀ a : BitVec 28, slotOf a = x → offOf a = off.toNat → s.dev.ownSlot x = false → s.dev.slotUp x = true →
      Does (.misalignedAccess a 7 none) s fun t => Tab.get [] t.hub.qdl.fwd (x.val - 1) = Tab.get [] s.dev.hub.qdl.fwd (x.val - 1) ++
        [.readLow (off.toNat / 4 * 4), .readHigh (off.toNat / 4 * 4 + 4) 0] ∧ t.regs = s.dev.regs) ∧
    (∀ w, (s.dev.slotUp x = false ∨ (Tab.get [] s.dev.hub.qdl.fwd (x.val - 1)).all QItem.isWrite = true) →
      exec (.qdlForwardReadDone x w) s = .next (s.after s.dev)) ∧
    (∀ (w : Word) pre item rest, s.dev.slotUp x = true → Tab.get [] s.dev.hub.qdl.fwd (x.val - 1) = pre ++ item :: rest →
      pre.all QItem.isWrite = true →
      (∀ o, item = .read o → Does (.qdlForwardReadDone x w) s fun t =>
        t.rdata = w.toNat ∧ Tab.get [] t.hub.qdl.fwd (x.val - 1) = rest) ∧
      (∀ o low, item = .readHigh o low → Does (.qdlForwardReadDone x w) s fun t =>
        t.rdata = low + 2 ^ 32 * w.toNat ∧ Tab.get [] t.hub.qdl.fwd (x.val - 1) = rest) ∧
      (∀ o h low tail, item = .readLow o → rest = .readHigh h low :: tail → Does (.qdlForwardReadDone x w) s fun t =>
        t.rdata = s.dev.rdata ∧ Tab.get [] t.hub.qdl.fwd (x.val - 1) = .readHigh h w.toNat :: tail))

/-- The frames of panel assembly, panels, audio and sensing: where one of these commands answers a next state, the queue is as before
and nothing changes but what its span names: the registers (all copies, one unit's, or one copy), the events, the host addresses it
may store to, and the parts of the Hub, the router and the pipes; no other register, event, engine, pipe or byte of memory. The lines
of a panel surface may lie anywhere in host memory or DRAM. -/
def Obligations.FrameControls : Prop :=
  (∀ (n : Fin 64) (toks : List Nat) (psn : List Bool) (eof : Bool), Frame (.pasmLineInput n toks psn eof)
      { regs := [.reg .CASK_STAT, .reg .DRC_ELOG, .reg .DRC_ELOG_STAT, .reg .DRC_UNC_CNT_HI, .reg .DRC_UNC_CNT_LO,
          .reg .HUB_PASM_STAT],
        events := [561] ++ ([0, 1, 2, 3].flatMap fun n => [pipeEvent n 65]), mem := fun _ _ => true,
        hub := fun a b => { a with casks := b.casks, panels := b.panels, pasm := b.pasm },
        pipe := fun a b => { a with casks := b.casks, dram := b.dram } }) ∧
  (∀ (g : Fin 8), Frame (.pasmWindowExpiry g)
      { regs := [.reg .CASK_STAT, .reg .DRC_ELOG, .reg .DRC_ELOG_STAT, .reg .DRC_UNC_CNT_HI, .reg .DRC_UNC_CNT_LO,
          .one .HUB_PASM_STAT 0 g],
        events := [561] ++ ([0, 1, 2, 3].flatMap fun n => [pipeEvent n 65]), mem := fun _ _ => true,
        hub := fun a b => { a with casks := b.casks, panels := b.panels, pasm := b.pasm },
        pipe := fun a b => { a with casks := b.casks, dram := b.dram } }) ∧
  (∀ (o : Fin 2) (w : Word), Frame (.panelEnable o w)
      { regs := [.one .PANEL_CFG 0 o, .one .PANEL_STAT 0 o],
        hub := fun a b => { a with panels := b.panels } }) ∧
  (∀ (o : Fin 2), ∀ cmd ∈ ([.panelInitDone o, .panelTeTimeout o, .panelTransferStart o] : List Instr), Frame cmd
      { regs := [.one .PANEL_STAT 0 o],
        hub := fun a b => { a with panels := b.panels } }) ∧
  (∀ (o : Fin 2), Frame (.panelDcsSend o) { regs := [.one .PANEL_DCS 0 o], hub := fun a b => { a with panels := b.panels } }) ∧
  (∀ (o : Fin 2) (w : Word), Frame (.panelPush o w)
      { regs := [.one .PANEL_CNT_HI 0 o, .one .PANEL_CNT_LO 0 o, .one .PANEL_STAT 0 o],
        hub := fun a b => { a with panels := b.panels } }) ∧
  (∀ (o : Fin 2), Frame (.panelSurfaceFrameEof o)
      { regs := [.one .PANEL_CNT_HI 0 o, .one .PANEL_CNT_LO 0 o, .one .PANEL_STAT 0 o],
        hub := fun a b => { a with panels := b.panels } }) ∧
  (∀ (o : Fin 2) (rising : Bool), Frame (.panelTeEdge o rising)
      { regs := [.one .PANEL_STAT 0 o],
        hub := fun a b => { a with panels := b.panels } }) ∧
  (∀ (o : Fin 2) (level : Nat), Frame (.panelPacketSend o level)
      { regs := [.reg .DRC_ELOG, .reg .DRC_ELOG_STAT, .reg .DRC_UNC_CNT_HI, .reg .DRC_UNC_CNT_LO,
          .one .PANEL_CNT_HI 0 o, .one .PANEL_CNT_LO 0 o],
        events := [568] ++ ([0, 1, 2, 3].flatMap fun n => [pipeEvent n 65]),
        hub := fun a b => { a with panels := b.panels } }) ∧
  (∀ (o : Fin 2) (pad : Option Word), Frame (.panelTransferDone o pad)
      { regs := [.one .PANEL_CNT_HI 0 o, .one .PANEL_CNT_LO 0 o, .one .PANEL_CRC_EXP 0 o, .one .PANEL_CRC_PAD 0 o,
          .one .PANEL_STAT 0 o],
        events := [564 + o.val, 566, 567], hub := fun a b => { a with panels := b.panels } }) ∧
  (∀ (o : Fin 2), Frame (.panelFetchTimeout o)
      { regs := [.one .PANEL_CNT_HI 0 o, .one .PANEL_CNT_LO 0 o, .one .PANEL_STAT 0 o],
        events := [564 + o.val], hub := fun a b => { a with panels := b.panels } }) ∧
  (∀ (o : Fin 2), Frame (.panelDisable o)
      { regs := [.one .PANEL_CFG 0 o, .one .PANEL_STAT 0 o],
        hub := fun a b => { a with panels := b.panels } }) ∧
  (∀ (attime : Bool) (paths : BitVec 8), ∀ cmd ∈ ([.audTrigStart attime paths, .audTrigStop attime paths] : List Instr),
    Frame cmd
      { regs := [.reg .AUD_TRIG_CMD, .reg .AUD_TRIG_FRAME_HI, .reg .AUD_TRIG_FRAME_LO, .reg .AUD_TRIG_STAT],
        events := [574], hub := fun a b => { a with aud := b.aud } }) ∧
  (Frame .audTrigLead { regs := [.reg .AUD_XSTAT], hub := fun a b => { a with aud := b.aud } }) ∧
  (Frame .audTrigFrame
      { regs := [.reg .AUD_CNT_HI, .reg .AUD_CNT_LO, .reg .AUD_SSTAT, .reg .AUD_TRIG_STAT, .reg .AUD_XDEV,
          .reg .AUD_XSTAT],
        events := [569, 570, 571, 572, 574], mem := fun a x => a.audRoom x, hub := fun a b => { a with aud := b.aud } }) ∧
  (∀ (fs : List AudFrame), Frame (.audMediaFrame fs)
      { regs := [.reg .AUD_CNT_HI, .reg .AUD_CNT_LO, .reg .AUD_SSTAT, .reg .AUD_XDEV, .reg .AUD_XSTAT, .reg .CASK_STAT],
        events := [569, 570, 571, 572], mem := fun a x => a.audRoom x,
        hub := fun a b => { a with aud := b.aud, casks := b.casks }, pipe := fun a b => { a with casks := b.casks } }) ∧
  (∀ (a : Fin 8) (lock : Bool) (ratio : BitVec 24), Frame (.audAsrcLockChange a lock ratio)
      { regs := [.reg .AUD_XSTAT],
        events := [573] }) ∧
  (∀ (k : Fin 4), Frame (.audPortDisable k)
      { regs := [.one .AUD_PCFG 0 k, .reg .AUD_SSTAT, .reg .AUD_TRIG_STAT, .reg .AUD_XDEV, .reg .AUD_XHOST,
          .one .AUD_XSTAT 0 k],
        hub := fun a b => { a with aud := b.aud } }) ∧
  (∀ (x : Fin 2), ∀ cmd ∈ ([.adcStart x, .adcTimerTrigger x] : List Instr), Frame cmd
      { regs := [.reg .SENSE_ADC_CNT_HI, .reg .SENSE_ADC_CNT_LO, .one .SENSE_ADC_STAT 0 x],
        hub := fun a b => { a with sense := b.sense } }) ∧
  (∀ (x : Fin 2), Frame (.adcScanStart x)
      { regs := [.one .SENSE_ADC_STAT 0 x],
        events := [575], hub := fun a b => { a with sense := b.sense } }) ∧
  (∀ (x : Fin 2) (q : BitVec 16) (moved : Bool), Frame (.adcConversionDone x q moved)
      { regs := [.reg .SENSE_ADC_CNT_HI, .reg .SENSE_ADC_CNT_LO, .reg .SENSE_ADC_RES, .one .SENSE_ADC_STAT 0 x],
        events := [575, 576, 577], hub := fun a b => { a with sense := b.sense } }) ∧
  (∀ (x : Fin 2), Frame (.adcFifoPop x)
      { regs := [.one .SENSE_ADC_STAT 0 x],
        dev := fun a b => { a with rdata := b.rdata }, hub := fun a b => { a with sense := b.sense } }) ∧
  (∀ (x : Fin 2), Frame (.adcFifoFlush x)
      { regs := [.one .SENSE_ADC_STAT 0 x],
        hub := fun a b => { a with sense := b.sense } }) ∧
  (∀ (c : BitVec 5) (rng : Fin 4), Frame (.adcCalZero c rng)
      { regs := [.reg .SENSE_ADC_CAL, .reg .SENSE_ADC_CALSTAT],
        events := [580], hub := fun a b => { a with sense := b.sense } }) ∧
  (∀ (c : BitVec 5) (rng : Fin 4) (expect : BitVec 16), Frame (.adcCalGain c rng expect)
      { regs := [.reg .SENSE_ADC_CAL, .reg .SENSE_ADC_CALSTAT],
        events := [580], hub := fun a b => { a with sense := b.sense } }) ∧
  (Frame .adcCalDone
      { regs := [.reg .SENSE_ADC_CAL, .reg .SENSE_ADC_CALSTAT, .reg .SENSE_ADC_COR],
        events := [580], hub := fun a b => { a with sense := b.sense } }) ∧
  (∀ (p : Fin 8), ∀ cmd ∈ ([.pwmPeriodStart p, .pwmActiveEnd p] : List Instr), Frame cmd
      { regs := [.reg .SENSE_ADC_CNT_HI, .reg .SENSE_ADC_CNT_LO, .reg .SENSE_ADC_STAT],
        hub := fun a b => { a with sense := b.sense } }) ∧
  (∀ (mask : BitVec 8), Frame (.pwmSync mask)
      { regs := [.reg .SENSE_ADC_CNT_HI, .reg .SENSE_ADC_CNT_LO, .reg .SENSE_ADC_STAT],
        hub := fun a b => { a with sense := b.sense } }) ∧
  (∀ (j : Fin 12), Frame (.swEnable j) { regs := [.reg .SENSE_BO_STAT, .one .SENSE_SW_CFG 0 j, .one .SENSE_SW_STAT 0 j] }) ∧
  (∀ (j : Fin 12), Frame (.swDisable j)
      { regs := [.reg .SENSE_BO_STAT, .one .SENSE_SW_CFG 0 j, .one .SENSE_SW_STAT 0 j],
        hub := fun a b => { a with sense := b.sense } }) ∧
  (∀ (j : Fin 12), Frame (.swInrushEnd j) { regs := [.reg .SENSE_BO_STAT, .one .SENSE_SW_STAT 0 j] }) ∧
  (∀ (j : Fin 12) (isns : Nat), ∀ cmd ∈ ([.swHardShort j isns, .swOvercurrent j isns] : List Instr), Frame cmd
      { regs := [.reg .SENSE_BO_STAT, .one .SENSE_SW_STAT 0 j],
        events := [578] }) ∧
  (∀ cmd ∈ ([.brownoutBegin, .brownoutRelease] : List Instr), Frame cmd
      { regs := [.reg .SENSE_BO_STAT, .reg .SENSE_SW_STAT],
        events := [579], dev := fun a b => { a with free := b.free }, hub := fun a b => { a with sense := b.sense } }) ∧
  (∀ (levels : BitVec 48), Frame (.keySample levels)
      { regs := [.reg .OPIO_KEY_STAT, .reg .OPIO_KEY_STATE_HI, .reg .OPIO_KEY_STATE_LO],
        events := [581], hub := fun a b => { a with sense := b.sense } }) ∧
  (Frame .keyFifoPop
      { regs := [.reg .OPIO_KEY_FTIME, .reg .OPIO_KEY_STAT],
        dev := fun a b => { a with rdata := b.rdata }, hub := fun a b => { a with sense := b.sense } }) ∧
  (∀ (e : Fin 4) (x : EncEdge), Frame (.encTransition e x)
      { regs := [.one .OPIO_ENC_ERR_HI 0 e, .one .OPIO_ENC_ERR_LO 0 e, .one .OPIO_ENC_POS 0 e],
        events := [582], hub := fun a b => { a with sense := b.sense } }) ∧
  (∀ (e : Fin 4) (w : Word), Frame (.encPosWrite e w)
      { regs := [.one .OPIO_ENC_POS 0 e],
        hub := fun a b => { a with sense := b.sense } }) ∧
  (∀ (t : Fin 16) (count : BitVec 16), Frame (.touchMeasure t count)
      { regs := [.one .OPIO_TCH_RAW 0 t, .reg .OPIO_TCH_STATE],
        events := [583], dev := fun a b => { a with free := b.free }, hub := fun a b => { a with sense := b.sense } })

/-- The frames of the Hub's own units: where one of these commands answers a next state, the queue is as before and nothing changes
but what its span names: the registers (all copies, one unit's, or one copy), the events, the host addresses it may store to, and the
parts of the Hub, the router and the pipes; no other register, event, engine, pipe or byte of memory. -/
def Obligations.FrameHub : Prop :=
  (Frame .flrEnd { regs := [.reg .HUB_PCIE_STAT], events := [559] }) ∧
  (Frame .timeCopyStrobe
      { regs := [.reg .AUD_CNT_HI, .reg .AUD_CNT_LO, .reg .AUD_XDEV, .reg .BLK_SSTAT, .reg .EVT_YLOG_TAIL,
          .reg .NET_TIME_STAT, .reg .PCTL_ARUN_STAT, .reg .PCTL_STAT, .reg .QDL_TIME_STAT, .reg .TIME_STAT,
          .reg .TIME_TC_VAL],
        events := [569, 570, 571, 572, 512, 547, 560] ++ ([0, 1, 2, 3].flatMap fun n => [pipeEvent n 0]),
        mem := fun a x => a.audRoom x || a.ylogRoom x,
        hub := fun a b => { a with anchor := b.anchor, aud := b.aud, ptp := b.ptp, therm := b.therm },
        router := fun a b => { a with yields := b.yields, yseq := b.yseq },
        pipe := fun a b => { a with anchor := b.anchor, blk := b.blk, lastCopy := b.lastCopy } }) ∧
  (Frame .govWindowEnd { regs := [.reg .HUB_GOV_STAT], events := [514], hub := fun a b => { a with gov := b.gov } }) ∧
  (∀ cmd ∈ ([.pmbusRetryStart, .govSettleEnd] : List Instr), Frame cmd { hub := fun a b => { a with gov := b.gov } }) ∧
  (Frame .pmbAlert { regs := [.reg .HUB_GOV_STAT], hub := fun a b => { a with gov := b.gov } }) ∧
  (∀ (bad : Bool), Frame (.cuvlVerifyDone bad)
      { regs := [.reg .CUVL_DIGEST, .reg .CUVL_ERR, .reg .CUVL_ERR_DET, .reg .CUVL_STAT, .reg .CUVL_SVN,
          .reg .VRS_BANK_STAT],
        events := [529], dev := fun a b => { a with free := b.free }, hub := fun a b => { a with cuvl := b.cuvl },
        pipe := fun a b => { a with trl := b.trl, vrs := b.vrs } }) ∧
  (Frame .cuvlAbort
      { regs := [.reg .CUVL_ERR, .reg .CUVL_ERR_DET, .reg .CUVL_REFUSE, .reg .CUVL_STAT, .reg .VRS_BANK_STAT],
        events := [529], dev := fun a b => { a with free := b.free }, hub := fun a b => { a with cuvl := b.cuvl },
        pipe := fun a b => { a with trl := b.trl, vrs := b.vrs } }) ∧
  (∀ (q : Fin 512) (w : Word), Frame (.celShareWrite q w)
      { regs := [.reg .CEL_SHARE, .reg .CEL_SHARE_STAT],
        events := [543] }) ∧
  (Frame .refclkTimeFault { regs := [.reg .TIME_STAT], events := [548], dev := fun a b => { a with free := b.free } }) ∧
  (Frame .refclkTimeRecover { regs := [.reg .TIME_STAT] }) ∧
  (∀ (m : PtpMsg), ∀ cmd ∈ ([.ptpSync m, .ptpFollowUp m] : List Instr), Frame cmd
      { regs := [.reg .TIME_OFFSET, .reg .TIME_RATE, .reg .TIME_STAT, .reg .TIME_STEER],
        events := [545, 546], dev := fun a b => { a with free := b.free }, hub := fun a b => { a with ptp := b.ptp } }) ∧
  (∀ (m : PtpMsg), Frame (.ptpDelayResp m) { regs := [.reg .TIME_PDELAY], hub := fun a b => { a with ptp := b.ptp } }) ∧
  (∀ (a : PtpAnnounce), Frame (.ptpAnnounce a)
      { regs := [.reg .TIME_STAT],
        events := [545], hub := fun a b => { a with ptp := b.ptp } }) ∧
  (Frame .ptpDelayReqSend { hub := fun a b => { a with ptp := b.ptp } }) ∧
  (∀ cmd ∈ ([.ptpAnnounceTimeout, .ptpSyncTimeout] : List Instr), Frame cmd
      { regs := [.reg .TIME_STAT],
        events := [545], hub := fun a b => { a with ptp := b.ptp } }) ∧
  (∀ (force : Bool), Frame (.timeCtlStep force)
      { regs := [.reg .TIME_STAT],
        events := [546], hub := fun a b => { a with ptp := b.ptp } }) ∧
  (Frame .timeCtlForce { regs := [.reg .TIME_STAT], hub := fun a b => { a with ptp := b.ptp } }) ∧
  (∀ (u : Unit5), Frame (.timeNsRead u) { dev := fun a b => { a with rdata := b.rdata, tsnap := b.tsnap }, unit := some u }) ∧
  (∀ (g : Fin 4), Frame (.timecodeFrame g) { regs := [.one .TIME_TC_VAL 0 g] }) ∧
  (∀ (q : Fin 3), Frame (.qdlHello q) { events := [553], hub := fun a b => { a with qdl := b.qdl } }) ∧
  (∀ (dev : Fin 4) (w : Word), Frame (.qdlForwardReadDone dev w)
      { dev := fun a b => { a with rdata := b.rdata }, hub := fun a b => { a with qdl := b.qdl } }) ∧
  (∀ (q : Fin 3) (wr : Bool) (addr : Nat) (data : List Byte) (n : Nat), Frame (.qdlFollowerHostAccess q wr addr data n)
      { mem := fun _ x => wr && decide (addr ≤ x) && decide (x < addr + data.length),
        hub := fun a b => { a with qdl := b.qdl } }) ∧
  (∀ (q : Fin 3) (event : Fin 1024) (syn : Word), Frame (.qdlPeerEventMessage q event syn)
      { regs := [.reg .CEL_TAKE_CMD, .reg .CEL_TAKE_STAT],
        events := [541, 542, 555], hub := fun a b => { a with qdl := b.qdl, takes := b.takes } }) ∧
  (∀ (q : Fin 3) (t : Nat) (step : Option Int) (missed : Bool), Frame (.qdlTimeMessage q t step missed)
      { regs := [.reg .QDL_TIME_STAT, .reg .TIME_OFFSET, .reg .TIME_RATE, .reg .TIME_STAT, .reg .TIME_STEER],
        events := [545, 546], dev := fun a b => { a with free := b.free },
        hub := fun a b => { a with ptp := b.ptp, qdl := b.qdl } }) ∧
  (∀ (q : Fin 3) (delay : Nat), Frame (.qdlDelayEcho q delay) {}) ∧
  (∀ (v : Fin 1024), Frame (.msixCoalesceTimeout v) {}) ∧
  (∀ (x : MsixWrite), Frame (.msixVectorUnmask x) { router := fun a b => { a with table := b.table } }) ∧
  (Frame .pavaneCommitDeadline
      { regs := [.reg .CASK_STAT, .reg .CELP_RB_STAT, .reg .CELP_TQ_STAT, .reg .PCTL_STAT, .reg .PXR_ENC_TAKE],
        hub := fun a b => { a with casks := b.casks, nvme := b.nvme, therm := b.therm },
        pipe := fun a b => { a with casks := b.casks, cel := b.cel, encs := b.encs, takes := b.takes } }) ∧
  (∀ cmd ∈ ([.supPgRise, .nrstFall] : List Instr), Frame cmd { hub := fun a b => { a with boot := b.boot } }) ∧
  (Frame .resetRelease
      { regs := [.reg .CUVL_SVN, .reg .DRC_SEED, .reg .HUB_BOOT_CNT, .reg .HUB_BOOT_STAT, .reg .HUB_FALLOW,
          .reg .SECU_NONCE, .reg .SECU_SLOT, .reg .SECU_STAT, .reg .THERM_STAT],
        dev := fun a b => { a with free := b.free }, hub := fun a b => { a with boot := b.boot, secu := b.secu } }) ∧
  (Frame .bootThermalHoldRelease { regs := [.reg .HUB_BOOT_STAT], hub := fun a b => { a with boot := b.boot } }) ∧
  (Frame .bootLoadDone { regs := [.reg .HUB_BOOT_STAT] }) ∧
  (Frame .bootOkWrite
      { regs := [.reg .HUB_BOOT_CFG, .reg .HUB_BOOT_STAT, .reg .THERM_STAT],
        events := [540, 588, 591], mem := fun a x => a.cqRoom x,
        hub := fun a b => { a with boot := b.boot, nvme := b.nvme, secu := b.secu } }) ∧
  (Frame .fwActivationTimeout
      { regs := [.reg .HUB_BOOT_CFG, .reg .HUB_BOOT_STAT],
        events := [540, 591], mem := fun a x => a.cqRoom x,
        hub := fun a b => { a with boot := b.boot, nvme := b.nvme, secu := b.secu } }) ∧
  (Frame .nrstPress { events := [589], hub := fun a b => { a with boot := b.boot } }) ∧
  (Frame .nrstRearm { regs := [.reg .HUB_BOOT_STAT], events := [590], hub := fun a b => { a with boot := b.boot } }) ∧
  (∀ (src : BitVec 6) (secs : Nat), Frame (.aonWake src secs)
      { regs := [.reg .HUB_AON_SEC, .reg .HUB_WAKE],
        hub := fun a b => { a with boot := b.boot } }) ∧
  (∀ cmd ∈ ([.flashProgram, .flashErase] : List Instr), Frame cmd { regs := [.reg .HUB_FLASH_CMD] }) ∧
  (∀ (bad : Bool), Frame (.flashCmdDone bad)
      { regs := [.reg .HUB_FLASH_CMD],
        dev := fun a b => { a with free := b.free }, hub := fun a b => { a with flash := b.flash } }) ∧
  (Frame .bistVoltageReady
      { regs := [.reg .BIST_STAT, .reg .SECU_NONCE, .reg .SECU_SLOT, .reg .SECU_STAT],
        hub := fun a b => { a with secu := b.secu } }) ∧
  (∀ (w : BitVec 27), ∀ cmd ∈ ([.secuGenerate w, .secuImport w, .secuImportWrapped w, .secuExportWrapped w, .secuLock w,
    .secuDestroy w, .secuSetDigest w, .secuRevoke w, .secuAdvanceSvn w, .secuLcRequest w] : List Instr), Frame cmd
      { regs := [.reg .SECU_CMD, .reg .SECU_RES] }) ∧
  (Frame .drbgHealthFail
      { regs := [.reg .SECU_ALARM, .reg .SECU_SLOT, .reg .SECU_STAT],
        events := [594], hub := fun a b => { a with secu := b.secu } }) ∧
  (∀ (done : Bool), Frame (.drbgReseed done) { regs := [.reg .SECU_STAT], hub := fun a b => { a with secu := b.secu } }) ∧
  (∀ (a : SecuAlarm), Frame (.secuAlarmInput a)
      { regs := [.reg .SECU_ALARM, .reg .SECU_SLOT, .reg .SECU_STAT],
        events := [594], hub := fun a b => { a with secu := b.secu } }) ∧
  (∀ (width : LinkWidth) (speed : LinkSpeed), Frame (.pcieLinkUp width speed)
      { regs := [.reg .HUB_PCIE_STAT],
        events := [558] }) ∧
  (∀ (host nvm : Bool), Frame (.secuCommandDone host nvm)
      { regs := [.reg .SECU_CMD, .reg .SECU_NONCE, .reg .SECU_RES, .reg .SECU_SLOT, .reg .SECU_STAT],
        events := [595, 596], mem := fun a x => decide (a.secuAddr ≤ x), dev := fun a b => { a with free := b.free },
        hub := fun a b => { a with secu := b.secu } }) ∧
  (Frame .latchedWakeRelease { regs := [.reg .HUB_WAKE], hub := fun a b => { a with boot := b.boot } })

/-- The frames of pace, casks, racking, Trellis, lanes, DRAM and Press: where one of these commands answers a next state, the queue is
as before and nothing changes but what its span names: the registers (all copies, one unit's, or one copy), the events, the host
addresses it may store to, and the parts of the Hub, the router and the pipes; no other register, event, engine, pipe or byte of
memory. What racking and Press store lies where their descriptors say. -/
def Obligations.FrameLinksAndData : Prop :=
  (∀ (p : Pipe), Frame (.autonomousRunEntry p)
      { regs := [.own .CASK_STAT p, .own .NET_TIME_STAT p, .own .PCTL_ARUN_FRAMES p, .own .PCTL_ARUN_STAT p,
          .own .PCTL_ARUN_TNS p, .own .PCTL_ARUN_TS_HI p, .own .PCTL_ARUN_TS_LO p, .own .PCTL_STAT p,
          .own .RACK_CH_STAT p, .own .RACK_GSTAT p],
        events := [518, pipeEvent p 7], hub := fun a b => { a with hreq := b.hreq },
        pipe := fun a b => { a with casks := b.casks, rack := b.rack }, unit := some p }) ∧
  (∀ (u : Unit5) (res : Fin 16) (rank : Fin 6), Frame (.yieldRestore u res rank)
      { regs := [.reg .BLK_SSTAT, .reg .EVT_YLOG_TAIL, .reg .HUB_GOV_STAT, .reg .PCTL_ARUN_STAT, .reg .PCTL_PACE_STAT,
          .reg .PCTL_PAUSE_EFF],
        events := [512, 560] ++ ([0, 1, 2, 3].flatMap fun n => [pipeEvent n 0]), mem := fun a x => a.ylogRoom x,
        router := fun a b => { a with yields := b.yields, yseq := b.yseq },
        pipe := fun a b => { a with blk := b.blk, pace := b.pace } }) ∧
  (∀ (p : Pipe), Frame (.stripeLostTimeMessage p)
      { regs := [.reg .CASK_STAT, .reg .PXR_CNT_BYTES_HI, .reg .PXR_CNT_BYTES_LO, .reg .PXR_CNT_FRAMES_HI,
          .reg .PXR_CNT_FRAMES_LO, .reg .PXR_CNT_GAPS_HI, .reg .PXR_CNT_GAPS_LO, .reg .PXR_ENC_VSTAT],
        events := [0, 1, 2, 3].flatMap fun n => [pipeEvent n 44],
        hub := fun a b => { a with casks := b.casks, stripe := b.stripe },
        pipe := fun a b => { a with casks := b.casks, encs := b.encs, takes := b.takes } }) ∧
  (∀ (p : Pipe) (k : Fin 24) (ps : BitVec 12), Frame (.paceSensorReading p k ps)
      { regs := [.one .PCTL_PSENS p k],
        events := [pipeEvent p 2], pipe := fun a b => { a with pace := b.pace }, unit := some p }) ∧
  (∀ (p : Pipe), Frame (.paceWindowEnd p)
      { regs := [.reg .BLK_SSTAT, .reg .EVT_YLOG_TAIL, .reg .HUB_GOV_STAT, .reg .PCTL_ARUN_STAT, .reg .PCTL_PACE_STAT,
          .reg .PCTL_PAUSE_EFF, .reg .PCTL_PSENS],
        events := [512, 560] ++ ([0, 1, 2, 3].flatMap fun n => [pipeEvent n 0, pipeEvent n 1]),
        mem := fun a x => a.ylogRoom x, router := fun a b => { a with yields := b.yields, yseq := b.yseq },
        pipe := fun a b => { a with blk := b.blk, pace := b.pace } }) ∧
  (∀ (p : Pipe), Frame (.recFlush p)
      { regs := [.own .CASK_STAT p, .own .PXR_ENC_VSTAT p],
        pipe := fun a b => { a with casks := b.casks, encs := b.encs, recp := b.recp, sfe := b.sfe, takes := b.takes },
        unit := some p }) ∧
  (∀ (p : Pipe), Frame (.recRestart p)
      { regs := [.own .CASK_STAT p, .own .PXR_CNT_BYTES_HI p, .own .PXR_CNT_BYTES_LO p, .own .PXR_CNT_FRAMES_HI p,
          .own .PXR_CNT_FRAMES_LO p, .own .PXR_CNT_GAPS_HI p, .own .PXR_CNT_GAPS_LO p, .own .PXR_ENC_VSTAT p],
        events := [pipeEvent p 4, pipeEvent p 44],
        pipe := fun a b => { a with casks := b.casks, encs := b.encs, recp := b.recp, sfe := b.sfe }, unit := some p }) ∧
  (∀ (p : Pipe), Frame (.pctlPwrup p) { regs := [.own .PCTL_STAT p], unit := some p }) ∧
  (∀ (u : Unit5) (k : Fin 128) (ep : Nat) (w : CaskWord), Frame (.caskWrite u k ep w)
      { regs := [.one .CASK_STAT u k],
        hub := fun a b => { a with casks := b.casks }, pipe := fun a b => { a with casks := b.casks }, unit := some u }) ∧
  (∀ (u : Unit5) (k : Fin 128) (ep : Nat) (flaw : Flaw), Frame (.caskRead u k ep flaw)
      { regs := [.own .CASK_CORR_CNT_HI u, .own .CASK_CORR_CNT_LO u, .own .CASK_ECC u, .own .CASK_PSN_LAST u,
          .own .CASK_STAT u, .own .CASK_UNC_CNT_HI u, .own .CASK_UNC_CNT_LO u, .own .CELP_RB_STAT u, .own .CELP_TQ_STAT u,
          .own .DRC_ELOG u, .own .DRC_ELOG_STAT u, .own .DRC_UNC_CNT_HI u, .own .DRC_UNC_CNT_LO u, .own .STAT_RD u,
          .own .TRL_CORR_CNT_HI u, .own .TRL_CORR_CNT_LO u, .own .TRL_UNC_CNT_HI u, .own .TRL_UNC_CNT_LO u,
          .own .VRS_BANK_STAT u],
        events := [516, pipeEvent u 27, pipeEvent u 40, pipeEvent u 43, pipeEvent u 5, pipeEvent u 65],
        hub := fun a b => { a with casks := b.casks },
        pipe := fun a b => { a with
            casks := b.casks, dram := { b.dram with mem := a.dram.mem }, eth := b.eth, live := b.live, stats := b.stats,
            takes := b.takes, trl := b.trl, vrs := b.vrs },
        unit := some u }) ∧
  (∀ (u : Unit5) (k : Fin 128), Frame (.caskCreditReturn u k)
      { regs := [.own .CASK_STAT u, .own .TRL_CORR_CNT_HI u, .own .TRL_CORR_CNT_LO u, .own .TRL_UNC_CNT_HI u,
          .own .TRL_UNC_CNT_LO u],
        events := [pipeEvent u 27], hub := fun a b => { a with casks := b.casks },
        pipe := fun a b => { a with casks := b.casks, trl := b.trl }, unit := some u }) ∧
  (∀ (u : Unit5) (k : Fin 128), Frame (.caskTailTimeout u k)
      { regs := [.one .CASK_STAT u k],
        events := [517, pipeEvent u 6], hub := fun a b => { a with casks := b.casks },
        pipe := fun a b => { a with casks := b.casks }, unit := some u }) ∧
  (∀ (u : Unit5) (k : Fin 128), Frame (.caskFlush u k)
      { regs := [.one .CASK_STAT u k],
        hub := fun a b => { a with casks := b.casks }, pipe := fun a b => { a with casks := b.casks }, unit := some u }) ∧
  (∀ (u : Unit5) (c : Fin 16) (tail : BitVec 16), Frame (.rackTailWrite u c tail)
      { regs := [.one .RACK_TAIL u c],
        unit := some u }) ∧
  (∀ (u : Unit5) (c : Fin 16), Frame (.rackDescStart u c)
      { regs := [.own .CASK_STAT u, .own .DRC_ELOG u, .own .DRC_ELOG_STAT u, .own .DRC_UNC_CNT_HI u,
          .own .DRC_UNC_CNT_LO u, .one .RACK_CH_STAT u c, .own .RACK_GSTAT u],
        events := [518, pipeEvent u 65, pipeEvent u 7],
        hub := fun a b => { a with casks := b.casks, hreq := b.hreq, rack := b.rack },
        pipe := fun a b => { a with casks := b.casks, rack := b.rack }, unit := some u }) ∧
  (∀ (u : Unit5) (x : BurstRead), Frame (.rackBurstGrant u x)
      { regs := [.reg .CASK_CORR_CNT_HI, .reg .CASK_CORR_CNT_LO, .reg .CASK_ECC, .reg .CASK_PSN_LAST, .reg .CASK_STAT,
          .reg .CASK_UNC_CNT_HI, .reg .CASK_UNC_CNT_LO, .reg .CELP_LOCKWAIT_CNT_HI, .reg .CELP_LOCKWAIT_CNT_LO,
          .reg .CELP_LOCK_STAT, .reg .DRC_ELOG, .reg .DRC_ELOG_STAT, .reg .DRC_UNC_CNT_HI, .reg .DRC_UNC_CNT_LO,
          .reg .RACK_BYTES_HI, .reg .RACK_BYTES_LO],
        events := [516] ++ ([0, 1, 2, 3].flatMap fun n => [pipeEvent n 5, pipeEvent n 65]), mem := fun _ _ => true,
        dev := fun a b => { a with free := b.free },
        hub := fun a b => { a with casks := b.casks, hreq := b.hreq, nvme := b.nvme, rack := b.rack },
        pipe := fun a b => { a with casks := b.casks, cel := b.cel, dram := b.dram, rack := b.rack } }) ∧
  (∀ (u : Unit5) (c : Fin 16), Frame (.rackDescWriteback u c)
      { regs := [.own .DRC_ELOG u, .own .DRC_ELOG_STAT u, .own .DRC_UNC_CNT_HI u, .own .DRC_UNC_CNT_LO u,
          .one .RACK_CH_STAT u c, .own .RACK_GSTAT u, .one .RACK_HEAD u c],
        events := [519 + c.val, 518, pipeEvent u (8 + c.val), pipeEvent u 65, pipeEvent u 7], mem := fun _ _ => true,
        hub := fun a b => { a with rack := b.rack }, pipe := fun a b => { a with dram := b.dram, rack := b.rack },
        unit := some u }) ∧
  (∀ (u : Unit5) (c : Fin 16), Frame (.rackResume u c)
      { regs := [.one .RACK_CH_STAT u c, .own .RACK_GSTAT u],
        hub := fun a b => { a with rack := b.rack }, pipe := fun a b => { a with rack := b.rack }, unit := some u }) ∧
  (∀ (p : Pipe) (e : Fin 1088) (flaw : Flaw), Frame (.microopStart p e flaw)
      { regs := [.own .TRL_CORR_CNT_HI p, .own .TRL_CORR_CNT_LO p],
        pipe := fun a b => { a with trl := b.trl }, unit := some p }) ∧
  (∀ (p : Pipe) (e : Fin 1088) (flaw : Flaw), Frame (.microopComplete p e flaw)
      { regs := [.own .CASK_STAT p, .own .TRL_CORR_CNT_HI p, .own .TRL_CORR_CNT_LO p, .own .TRL_UNC_CNT_HI p,
          .own .TRL_UNC_CNT_LO p],
        events := [pipeEvent p 27], pipe := fun a b => { a with casks := b.casks, trl := b.trl }, unit := some p }) ∧
  (∀ (p : Pipe) (r : Fin 16), Frame (.regionDrain p r) { regs := [.one .TRL_REG_STAT p r, .own .TRL_STAT p], unit := some p }) ∧
  (∀ (p : Pipe) (r : Fin 16), Frame (.regionRestartExit p r)
      { regs := [.own .CASK_STAT p, .own .TRL_CORR_CNT_HI p, .own .TRL_CORR_CNT_LO p, .one .TRL_REG_STAT p r,
          .own .TRL_RST_CNT_HI p, .own .TRL_RST_CNT_LO p, .own .TRL_STAT p, .own .TRL_UNC_CNT_HI p,
          .own .TRL_UNC_CNT_LO p],
        events := [pipeEvent p 27], pipe := fun a b => { a with casks := b.casks, trl := b.trl }, unit := some p }) ∧
  (∀ (p : Pipe) (w : Word), Frame (.trlLmRead p w)
      { regs := [.own .TRL_LM_ADDR p, .own .TRL_LM_STAT p],
        pipe := fun a b => { a with trl := b.trl }, unit := some p }) ∧
  (∀ (p : Pipe) (flaw : Flaw), Frame (.trlLmReadDone p flaw)
      { regs := [.own .TRL_CORR_CNT_HI p, .own .TRL_CORR_CNT_LO p, .own .TRL_LM_DATA p, .own .TRL_LM_STAT p,
          .own .TRL_UNC_CNT_HI p, .own .TRL_UNC_CNT_LO p],
        events := [pipeEvent p 27], pipe := fun a b => { a with trl := b.trl }, unit := some p }) ∧
  (∀ (p : Pipe) (busy starve block : Nat), Frame (.trlMonWindowEnd p busy starve block)
      { regs := [.own .TRL_MON_RES p],
        unit := some p }) ∧
  (∀ (p : Pipe) (c : Fin 4) (w : Word), ∀ cmd ∈ ([.rprFailMark p c w, .rprClr p c w] : List Instr), Frame cmd
      { regs := [.one .TRL_RPR_FAIL p c, .one .TRL_RPR_MAP p c],
        unit := some p }) ∧
  (∀ (u : Unit5) (r : Fin 7), Frame (.laneAttemptStart u r)
      { regs := [.own .LANE_CTLE u, .one .LANE_ROLE_STAT u r, .own .LANE_STAT u],
        hub := fun a b => { a with lanes := b.lanes }, pipe := fun a b => { a with lanes := b.lanes }, unit := some u }) ∧
  (∀ (u : Unit5) (k : Fin 12), Frame (.laneSignalDetect u k)
      { regs := [.own .LANE_CTLE u, .own .LANE_ROLE_STAT u, .own .LANE_STAT u],
        hub := fun a b => { a with lanes := b.lanes }, pipe := fun a b => { a with lanes := b.lanes }, unit := some u }) ∧
  (∀ (u : Unit5) (k : Fin 12), Frame (.laneCdrLock u k) { regs := [.one .LANE_STAT u k], unit := some u }) ∧
  (∀ (u : Unit5) (k : Fin 12) (code : Fin 32), Frame (.laneCtleChosen u k code)
      { regs := [.one .LANE_CTLE u k, .one .LANE_STAT u k],
        unit := some u }) ∧
  (∀ (u : Unit5) (k : Fin 12), Frame (.laneBlockLock u k)
      { regs := [.one .LANE_STAT u k],
        hub := fun a b => { a with lanes := b.lanes }, pipe := fun a b => { a with lanes := b.lanes }, unit := some u }) ∧
  (∀ (u : Unit5) (k : Fin 12), Frame (.laneStageTimeout u k)
      { regs := [.own .LANE_ROLE_STAT u],
        hub := fun a b => { a with lanes := b.lanes }, pipe := fun a b => { a with lanes := b.lanes }, unit := some u }) ∧
  (∀ (u : Unit5) (k : Fin 12) (dir : Fin 3), Frame (.laneCtleTrack u k dir) { regs := [.one .LANE_CTLE u k], unit := some u }) ∧
  (∀ (u : Unit5) (k : Fin 12) (w : Word), Frame (.laneTxfirWrite u k w) { regs := [.one .LANE_TXFIR u k], unit := some u }) ∧
  (∀ (u : Unit5) (k : Fin 12) (n sent flips : Nat), Frame (.prbsLockChange u k n sent flips)
      { regs := [.one .LANE_PRBS_BITS_HI u k, .one .LANE_PRBS_BITS_LO u k, .one .LANE_PRBS_ERR_HI u k,
          .one .LANE_PRBS_ERR_LO u k, .one .LANE_PRBS_STAT u k],
        dev := fun a b => { a with free := b.free }, hub := fun a b => { a with lanes := b.lanes },
        pipe := fun a b => { a with lanes := b.lanes }, unit := some u }) ∧
  (∀ (u : Unit5) (mask : BitVec 12), Frame (.laneSnapWrite u mask)
      { regs := [.own .LANE_SNAP_BITS_HI u, .own .LANE_SNAP_BITS_LO u, .own .LANE_SNAP_ERR_HI u,
          .own .LANE_SNAP_ERR_LO u],
        unit := some u }) ∧
  (∀ (p : Pipe), Frame (.drcInitGo p) { regs := [.own .DRC_STAT p], unit := some p }) ∧
  (∀ (p : Pipe) (failed : BitVec 6), Frame (.drcTrainDone p failed)
      { regs := [.own .DRC_STAT p],
        events := [pipeEvent p 68], unit := some p }) ∧
  (∀ (p : Pipe), Frame (.drcFillDone p)
      { regs := [.own .DRC_STAT p],
        pipe := fun a b => { a with dram := b.dram }, unit := some p }) ∧
  (∀ (p : Pipe) (r : DramReq), Frame (.dramRequest p r)
      { pipe := fun a b => { a with dram := { b.dram with mem := a.dram.mem } }, unit := some p }) ∧
  (∀ (p : Pipe) (ch : Fin 6) (flaws : List (Nat × DramFlaw)), Frame (.dramAccessDone p ch flaws)
      { regs := [.own .DRC_CORR_CNT_HI p, .own .DRC_CORR_CNT_LO p, .own .DRC_ELOG p, .own .DRC_ELOG_STAT p,
          .own .DRC_UNC_CNT_HI p, .own .DRC_UNC_CNT_LO p],
        events := [pipeEvent p 65], pipe := fun a b => { a with dram := b.dram }, unit := some p }) ∧
  (∀ (p : Pipe), ∀ cmd ∈ ([.drcHotSample p, .drcFchgSetpointsDone p, .drcFchgSrEntry p,
    .drcFchgHoldTimeout p] : List Instr), Frame cmd
      { pipe := fun a b => { a with dram := { b.dram with mem := a.dram.mem } }, unit := some p }) ∧
  (∀ (p : Pipe), Frame (.drcHotWindowEnd p)
      { regs := [.own .DRC_HOT_STAT p, .reg .EVT_YLOG_TAIL, .own .PCTL_ARUN_STAT p],
        events := [512, 560, pipeEvent p 0, pipeEvent p 66], mem := fun a x => a.ylogRoom x,
        dev := fun a b => { a with free := b.free }, router := fun a b => { a with yields := b.yields, yseq := b.yseq },
        pipe := fun a b => { a with dram := { b.dram with mem := a.dram.mem } }, unit := some p }) ∧
  (∀ (p : Pipe), Frame (.drcHotHoldEnd p)
      { regs := [.own .DRC_HOT_STAT p, .reg .EVT_YLOG_TAIL, .own .PCTL_ARUN_STAT p],
        events := [512, 560, pipeEvent p 0], mem := fun a x => a.ylogRoom x,
        router := fun a b => { a with yields := b.yields, yseq := b.yseq },
        pipe := fun a b => { a with dram := { b.dram with mem := a.dram.mem } }, unit := some p }) ∧
  (∀ (p : Pipe) (word : Nat) (flaw : DramFlaw), Frame (.drcScrubRead p word flaw)
      { regs := [.own .DRC_CORR_CNT_HI p, .own .DRC_CORR_CNT_LO p, .own .DRC_ELOG p, .own .DRC_ELOG_STAT p,
          .own .DRC_UNC_CNT_HI p, .own .DRC_UNC_CNT_LO p],
        events := [pipeEvent p 65], pipe := fun a b => { a with dram := { b.dram with mem := a.dram.mem } },
        unit := some p }) ∧
  (∀ (p : Pipe) (ch : Fin 6), Frame (.drcSrEntry p ch)
      { pipe := fun a b => { a with dram := { b.dram with mem := a.dram.mem } }, unit := some p }) ∧
  (∀ (p : Pipe) (rate : Fin 4), Frame (.drcFchgGo p rate)
      { regs := [.own .DRC_FCHG p, .own .DRC_FCHG_STAT p, .own .DRC_STAT p],
        events := [pipeEvent p 67], hub := fun a b => { a with fchgOrder := b.fchgOrder },
        pipe := fun a b => { a with dram := { b.dram with mem := a.dram.mem } }, unit := some p }) ∧
  (∀ (p : Pipe), Frame (.drcFchgPllLocked p)
      { regs := [.own .DRC_FCHG p, .own .DRC_FCHG_STAT p, .own .DRC_STAT p],
        events := [pipeEvent p 67], hub := fun a b => { a with fchgLast := b.fchgLast, fchgOrder := b.fchgOrder },
        pipe := fun a b => { a with dram := { b.dram with mem := a.dram.mem } }, unit := some p }) ∧
  (∀ (u : Unit5) (r : Fin 4) (tail : BitVec 16), Frame (.pressTailWrite u r tail)
      { regs := [.one .PRESS_TAIL u r],
        unit := some u }) ∧
  (∀ (u : Unit5), Frame (.pressJobStart u)
      { regs := [.own .DRC_ELOG u, .own .DRC_ELOG_STAT u, .own .DRC_UNC_CNT_HI u, .own .DRC_UNC_CNT_LO u,
          .own .PRESS_GSTAT u, .own .PRESS_RING_STAT u],
        events := [552, pipeEvent u 65, pipeEvent u 77], hub := fun a b => { a with hreq := b.hreq, press := b.press },
        pipe := fun a b => { a with press := b.press }, unit := some u }) ∧
  (∀ (u : Unit5) (bad denied : Bool) (read : PressRead), Frame (.pressJobEnd u bad denied read)
      { regs := [.reg .DRC_ELOG, .reg .DRC_ELOG_STAT, .reg .DRC_UNC_CNT_HI, .reg .DRC_UNC_CNT_LO,
          .reg .PRESS_FAIL_CNT_HI, .reg .PRESS_FAIL_CNT_LO, .reg .PRESS_GSTAT, .reg .PRESS_HEAD, .reg .PRESS_IN_CNT_HI,
          .reg .PRESS_IN_CNT_LO, .reg .PRESS_OUT_CNT_HI, .reg .PRESS_OUT_CNT_LO, .reg .PRESS_RING_STAT],
        events := [549, 550, 551, 552, 552] ++ ([0, 1, 2, 3].flatMap fun n => [pipeEvent n 73, pipeEvent n 74,
          pipeEvent n 75, pipeEvent n 76, pipeEvent n 65, pipeEvent n 77]),
        mem := fun _ _ => true, hub := fun a b => { a with press := b.press },
        pipe := fun a b => { a with dram := b.dram, press := b.press } }) ∧
  (∀ (u : Unit5) (r : Fin 4), Frame (.pressAbort u r)
      { regs := [.own .PRESS_GSTAT u, .one .PRESS_RING_STAT u r],
        events := [552, pipeEvent u 77], hub := fun a b => { a with hreq := b.hreq, press := b.press },
        pipe := fun a b => { a with press := b.press }, unit := some u }) ∧
  (∀ (u : Unit5) (r : Fin 4), Frame (.pressResume u r)
      { regs := [.own .PRESS_GSTAT u, .one .PRESS_RING_STAT u r],
        hub := fun a b => { a with press := b.press }, pipe := fun a b => { a with press := b.press }, unit := some u }) ∧
  (∀ (u : Unit5) (r : Fin 4), Frame (.pressRingDisable u r)
      { regs := [.reg .DRC_ELOG, .reg .DRC_ELOG_STAT, .reg .DRC_UNC_CNT_HI, .reg .DRC_UNC_CNT_LO,
          .reg .PRESS_FAIL_CNT_HI, .reg .PRESS_FAIL_CNT_LO, .reg .PRESS_GSTAT, .reg .PRESS_HEAD, .reg .PRESS_IN_CNT_HI,
          .reg .PRESS_IN_CNT_LO, .reg .PRESS_OUT_CNT_HI, .reg .PRESS_OUT_CNT_LO, .reg .PRESS_RING_CFG,
          .reg .PRESS_RING_STAT],
        events := [549 + r.val, 552] ++ ([0, 1, 2, 3].flatMap fun n => [pipeEvent n (73 + r.val), pipeEvent n 65,
          pipeEvent n 77]),
        mem := fun _ _ => true, dev := fun a b => { a with free := b.free },
        hub := fun a b => { a with hreq := b.hreq, press := b.press },
        pipe := fun a b => { a with dram := b.dram, press := b.press } }) ∧
  (∀ (n : Nat) (good psn : Bool), Frame (.pcieCompletion n good psn)
      { regs := [.reg .CASK_STAT, .reg .CELP_LOCKWAIT_CNT_HI, .reg .CELP_LOCKWAIT_CNT_LO, .reg .CELP_LOCK_STAT,
          .reg .CEL_TSTAT, .reg .DRC_ELOG, .reg .DRC_ELOG_STAT, .reg .DRC_UNC_CNT_HI, .reg .DRC_UNC_CNT_LO,
          .reg .PRESS_GSTAT, .reg .PRESS_RING_STAT, .reg .RACK_BYTES_HI, .reg .RACK_BYTES_LO, .reg .RACK_CH_STAT,
          .reg .RACK_GSTAT],
        events := [518, 540, 552] ++ ([0, 1, 2, 3].flatMap fun n => [pipeEvent n 65, pipeEvent n 7, pipeEvent n 77]),
        mem := fun _ _ => true,
        hub := fun a b => { a with casks := b.casks, hreq := b.hreq, nvme := b.nvme, press := b.press, rack := b.rack },
        pipe := fun a b => { a with casks := b.casks, cel := b.cel, dram := b.dram, press := b.press, rack := b.rack } }) ∧
  (∀ (bme msixen fmask : Bool), Frame (.configSpaceWrite bme msixen fmask)
      { regs := [.reg .CASK_STAT, .reg .CELP_LOCK_STAT, .reg .CEL_TSTAT, .reg .CUVL_ERR, .reg .CUVL_ERR_DET,
          .reg .CUVL_STAT, .reg .HUB_PCIE_STAT, .reg .PRESS_GSTAT, .reg .PRESS_RING_STAT, .reg .RACK_CH_STAT,
          .reg .RACK_GSTAT, .reg .VRS_BANK_STAT],
        events := [518, 529, 540, 552] ++ ([0, 1, 2, 3].flatMap fun n => [pipeEvent n 7, pipeEvent n 77]),
        mem := fun a x => a.cqRoom x, dev := fun a b => { a with free := b.free },
        hub := fun a b => { a with
            casks := b.casks, cuvl := b.cuvl, hreq := b.hreq, nvme := b.nvme, press := b.press, rack := b.rack },
        pipe := fun a b => { a with
            casks := b.casks, cel := b.cel, press := b.press, rack := b.rack, trl := b.trl, vrs := b.vrs } })

/-- The frames of the sensor link, pictures, statistics, codecs and network outputs: where one of these commands answers a next state,
the queue is as before and nothing changes but what its span names: the registers (all copies, one unit's, or one copy), the events,
the host addresses it may store to, and the parts of the Hub, the router and the pipes; no other register, event, engine, pipe or byte
of memory. -/
def Obligations.FramePictures : Prop :=
  (∀ (p : Pipe) (k : CsiPacket), Frame (.csi2LongPacket p k)
      { regs := [.own .CASK_STAT p, .own .PXR_CNT_BYTES_HI p, .own .PXR_CNT_BYTES_LO p, .own .PXR_CNT_FRAMES_HI p,
          .own .PXR_CNT_FRAMES_LO p, .own .PXR_CNT_GAPS_HI p, .own .PXR_CNT_GAPS_LO p, .own .PXR_ENC_VSTAT p,
          .own .SFE_ERR_CNT_HI p, .own .SFE_ERR_CNT_LO p],
        events := [pipeEvent p 33, pipeEvent p 44],
        pipe := fun a b => { a with casks := b.casks, encs := b.encs, sfe := b.sfe }, unit := some p }) ∧
  (∀ (p : Pipe) (w : Word), Frame (.sfeI3cCmdGo p w)
      { regs := [.own .SFE_I3C_CMD p, .own .SFE_I3C_STAT p],
        pipe := fun a b => { a with sfe := b.sfe }, unit := some p }) ∧
  (∀ (p : Pipe) (result : Fin 5) (data : List Byte), Frame (.sfeI3cDone p result data)
      { regs := [.own .SFE_I3C_BUF p, .own .SFE_I3C_CMD p, .own .SFE_I3C_STAT p],
        events := [pipeEvent p 36], pipe := fun a b => { a with sfe := b.sfe }, unit := some p }) ∧
  (∀ (p : Pipe) (mdb : Option Byte), Frame (.sfeIbi p mdb)
      { regs := [.own .SFE_I3C_STAT p],
        events := [pipeEvent p 37], unit := some p }) ∧
  (∀ (p : Pipe) (u : Fin 8) (flaw : Flaw), Frame (.vrsPixelPair p u flaw)
      { regs := [.own .CASK_STAT p, .own .TRL_CORR_CNT_HI p, .own .TRL_CORR_CNT_LO p, .own .TRL_UNC_CNT_HI p,
          .own .TRL_UNC_CNT_LO p, .one .VRS_BANK_STAT p u, .own .VRS_CORR_CNT_HI p, .own .VRS_CORR_CNT_LO p,
          .one .VRS_LATE_CNT_HI p u, .one .VRS_LATE_CNT_LO p u, .own .VRS_UNC_CNT_HI p, .own .VRS_UNC_CNT_LO p],
        events := [pipeEvent p 27, pipeEvent p 38, pipeEvent p 39, pipeEvent p 40, pipeEvent p 41, pipeEvent p 42],
        pipe := fun a b => { a with casks := b.casks, trl := b.trl, vrs := b.vrs }, unit := some p }) ∧
  (∀ (p : Pipe) (u : Fin 8) (t : Fin 5) (w : Word), Frame (.vrsTportWrite p u t w)
      { regs := [.one .VRS_BANK_STAT p u],
        events := [pipeEvent p 40], pipe := fun a b => { a with vrs := b.vrs }, unit := some p }) ∧
  (∀ (p : Pipe) (u : Fin 8) (k : Fin 128), Frame (.vrsUploadItem p u k)
      { regs := [.own .CASK_CORR_CNT_HI p, .own .CASK_CORR_CNT_LO p, .one .CASK_ECC p k, .own .CASK_PSN_LAST p,
          .one .CASK_STAT p k, .own .CASK_UNC_CNT_HI p, .own .CASK_UNC_CNT_LO p, .one .VRS_BANK_STAT p u],
        events := [516, pipeEvent p 40, pipeEvent p 5], pipe := fun a b => { a with casks := b.casks, vrs := b.vrs },
        unit := some p }) ∧
  (∀ (p : Pipe) (u : Fin 8) (mask : BitVec 5), ∀ cmd ∈ ([.vrsBankRst p u mask, .vrsArm p u mask] : List Instr), Frame cmd
      { regs := [.one .VRS_BANK_STAT p u],
        pipe := fun a b => { a with vrs := b.vrs }, unit := some p }) ∧
  (∀ (p : Pipe) (u : Fin 8), Frame (.vrsDisarm p u) { regs := [.one .VRS_BANK_STAT p u], unit := some p }) ∧
  (∀ (p : Pipe) (u : Fin 8), Frame (.vrsForce p u)
      { regs := [.one .VRS_BANK_STAT p u],
        events := [pipeEvent p 38], unit := some p }) ∧
  (∀ (p : Pipe) (u : Fin 8) (w : Word), Frame (.vrsTableRead p u w)
      { regs := [.one .VRS_TRD_ADDR p u, .one .VRS_TRD_STAT p u],
        pipe := fun a b => { a with vrs := b.vrs }, unit := some p }) ∧
  (∀ (p : Pipe) (u : Fin 8) (flaw : Flaw), Frame (.vrsTableReadDone p u flaw)
      { regs := [.own .VRS_CORR_CNT_HI p, .own .VRS_CORR_CNT_LO p, .one .VRS_TRD_DATA p u, .one .VRS_TRD_STAT p u,
          .own .VRS_UNC_CNT_HI p, .own .VRS_UNC_CNT_LO p],
        pipe := fun a b => { a with vrs := b.vrs }, unit := some p }) ∧
  (∀ (p : Pipe) (x : Fin 4) (k : Fin 128) (flaw : Flaw), Frame (.statInputWord p x k flaw)
      { regs := [.own .CASK_CORR_CNT_HI p, .own .CASK_CORR_CNT_LO p, .one .CASK_ECC p k, .own .CASK_PSN_LAST p,
          .one .CASK_STAT p k, .own .CASK_UNC_CNT_HI p, .own .CASK_UNC_CNT_LO p, .one .STAT_RD p x],
        events := [516, pipeEvent p 43, pipeEvent p 5], pipe := fun a b => { a with casks := b.casks, stats := b.stats },
        unit := some p }) ∧
  (∀ (p : Pipe) (x : Fin 4), ∀ cmd ∈ ([.statHold p x, .statRelease p x] : List Instr), Frame cmd
      { regs := [.one .STAT_RD p x],
        pipe := fun a b => { a with stats := b.stats }, unit := some p }) ∧
  (∀ (p : Pipe) (x : Fin 4), Frame (.statResultArrival p x)
      { regs := [.reg .HUB_STM_TAIL],
        events := [535, 536], mem := fun a x => (List.range 4).any fun g => a.stmRoom g x,
        hub := fun a b => { a with merges := b.merges }, pipe := fun a b => { a with stats := b.stats } }) ∧
  (∀ (g : Fin 4), Frame (.statMergeTimeout g)
      { regs := [.one .HUB_STM_TAIL 0 g],
        events := [535, 536], mem := fun a x => a.stmRoom g x, hub := fun a b => { a with merges := b.merges } }) ∧
  (∀ (p : Pipe) (v : Fin 16), Frame (.pxrRowEncode p v)
      { regs := [.own .CASK_STAT p, .own .PXR_CNT_BYTES_HI p, .own .PXR_CNT_BYTES_LO p, .own .PXR_CNT_DSLICE_HI p,
          .own .PXR_CNT_DSLICE_LO p, .own .PXR_CNT_FRAMES_HI p, .own .PXR_CNT_FRAMES_LO p, .own .PXR_CNT_GAPS_HI p,
          .own .PXR_CNT_GAPS_LO p, .own .PXR_CNT_REPEAT_HI p, .own .PXR_CNT_REPEAT_LO p, .own .PXR_ENC_VSTAT p],
        events := [pipeEvent p 44, pipeEvent p 45], pipe := fun a b => { a with casks := b.casks, encs := b.encs },
        unit := some p }) ∧
  (∀ (p : Pipe) (j : Fin 4), Frame (.pxrDecGo p j)
      { regs := [.own .DRC_ELOG p, .own .DRC_ELOG_STAT p, .own .DRC_UNC_CNT_HI p, .own .DRC_UNC_CNT_LO p,
          .one .PXR_DEC_RES p j, .one .PXR_DEC_SEQ p j, .one .PXR_DEC_STAT p j],
        events := [pipeEvent p (46 + j.val), pipeEvent p 65], pipe := fun a b => { a with pdec := b.pdec },
        unit := some p }) ∧
  (∀ (p : Pipe) (j : Fin 4), Frame (.pxrDecAbort p j) { regs := [.one .PXR_DEC_STAT p j], unit := some p }) ∧
  (∀ (p : Pipe) (j : Fin 4) (rows : Nat), Frame (.pxrDecDone p j rows)
      { regs := [.own .CASK_STAT p, .own .DRC_ELOG p, .own .DRC_ELOG_STAT p, .own .DRC_UNC_CNT_HI p,
          .own .DRC_UNC_CNT_LO p, .one .PXR_DEC_RES p j, .one .PXR_DEC_STAT p j],
        events := [pipeEvent p (46 + j.val), pipeEvent p 65],
        pipe := fun a b => { a with casks := b.casks, dram := b.dram }, unit := some p }) ∧
  (∀ (p : Pipe) (c : Fin 16) (k : Fin 4) (t : Nat) (psn : Bool), Frame (.blkFrameInput p c k t psn)
      { regs := [.own .BLK_CNT_HI p, .own .BLK_CNT_LO p, .own .BLK_SSTAT p, .reg .CUVL_ERR, .reg .CUVL_ERR_DET,
          .reg .CUVL_GEN, .reg .CUVL_STAT, .reg .EVT_YLOG_TAIL, .reg .HUB_GOV_STAT, .own .PCTL_ARUN_STAT p,
          .own .PCTL_PACE_STAT p, .own .PCTL_PAUSE_EFF p, .own .VRS_BANK_STAT p],
        events := [512, 528, 529, 560, pipeEvent p 0, pipeEvent p 52], mem := fun a x => a.ylogRoom x,
        dev := fun a b => { a with free := b.free }, hub := fun a b => { a with cuvl := b.cuvl },
        router := fun a b => { a with yields := b.yields, yseq := b.yseq },
        pipe := fun a b => { a with blk := b.blk, pace := b.pace, trl := b.trl, vrs := b.vrs }, unit := some p }) ∧
  (∀ (p : Pipe) (c : Fin 16) (k n : Fin 4) (b : Bool), Frame (.blkFrameCodeStart p c k n b)
      { regs := [.one .BLK_SSTAT p c],
        events := [pipeEvent p 53, pipeEvent p 54], pipe := fun a b => { a with blk := b.blk }, unit := some p }) ∧
  (∀ (p : Pipe) (c : Fin 16) (k : Fin 4) (bytes : CodedBytes) (qps : List Nat) (qavg : Nat) (capped : Bool),
    Frame (.blkFrameCoded p c k bytes qps qavg capped)
      { regs := [.own .BLK_CNT_HI p, .own .BLK_CNT_LO p, .own .BLK_SSTAT p, .own .CASK_STAT p, .reg .CUVL_ERR,
          .reg .CUVL_ERR_DET, .reg .CUVL_GEN, .reg .CUVL_STAT, .reg .EVT_YLOG_TAIL, .reg .HUB_GOV_STAT,
          .own .PCTL_ARUN_STAT p, .own .PCTL_PACE_STAT p, .own .PCTL_PAUSE_EFF p, .own .VRS_BANK_STAT p],
        events := [512, 528, 529, 560, pipeEvent p 0, pipeEvent p 50, pipeEvent p 51], mem := fun a x => a.ylogRoom x,
        dev := fun a b => { a with free := b.free }, hub := fun a b => { a with cuvl := b.cuvl },
        router := fun a b => { a with yields := b.yields, yseq := b.yseq },
        pipe := fun a b => { a with blk := b.blk, casks := b.casks, pace := b.pace, trl := b.trl, vrs := b.vrs },
        unit := some p }) ∧
  (∀ (p : Pipe) (c : Fin 16) (at_ : Bool) (aseq : BitVec 16), Frame (.blkCtxUpdGo p c at_ aseq)
      { regs := [.one .BLK_SSTAT p c],
        pipe := fun a b => { a with blk := b.blk }, unit := some p }) ∧
  (∀ (p : Pipe) (c : Fin 16), Frame (.blkCtxUpdCancel p c)
      { regs := [.one .BLK_SSTAT p c],
        pipe := fun a b => { a with blk := b.blk }, unit := some p }) ∧
  (∀ (p : Pipe) (c : Fin 16) (k : Fin 4), Frame (.blkSctlKey p c k)
      { hub := fun a b => { a with asm := b.asm }, pipe := fun a b => { a with blk := b.blk }, unit := some p }) ∧
  (∀ (p : Pipe) (c : Fin 16) (k : Fin 4), Frame (.blkSctlRefresh p c k)
      { pipe := fun a b => { a with blk := b.blk }, unit := some p }) ∧
  (∀ (g : Fin 64) (w : Word), Frame (.asmGroupEnable g w)
      { regs := [.one .HUB_ASM_CFG 0 g, .one .HUB_ASM_STAT 0 g],
        hub := fun a b => { a with asm := b.asm }, pipe := fun a b => { a with blk := b.blk } }) ∧
  (∀ (p : Pipe) (u : TileUnit), Frame (.asmTileUnit p u)
      { regs := [.reg .CASK_STAT, .reg .EVT_YLOG_TAIL, .reg .HUB_ASM_STAT, .reg .HUB_ASM_TAIL, .reg .PCTL_ARUN_STAT],
        events := [512, 537, 538, 539, 560] ++ ([0, 1, 2, 3].flatMap fun n => [pipeEvent n 0]),
        mem := fun a x => ((List.range 64).any fun g => a.asmRoom g x) || a.ylogRoom x,
        hub := fun a b => { a with asm := b.asm, casks := b.casks },
        router := fun a b => { a with yields := b.yields, yseq := b.yseq },
        pipe := fun a b => { a with casks := b.casks } }) ∧
  (∀ (g : Fin 64) (seq : Nat), Frame (.asmWindowExpiry g seq)
      { regs := [.reg .CASK_STAT, .reg .EVT_YLOG_TAIL, .one .HUB_ASM_STAT 0 g, .one .HUB_ASM_TAIL 0 g,
          .reg .PCTL_ARUN_STAT],
        events := [512, 537, 538, 539, 560] ++ ([0, 1, 2, 3].flatMap fun n => [pipeEvent n 0]),
        mem := fun a x => a.asmRoom g x || a.ylogRoom x, hub := fun a b => { a with asm := b.asm, casks := b.casks },
        router := fun a b => { a with yields := b.yields, yseq := b.yseq },
        pipe := fun a b => { a with casks := b.casks } }) ∧
  (∀ (p : Pipe) (g : Fin 64), Frame (.rcCoordinatorMessage p g)
      { hub := fun a b => { a with asm := b.asm }, pipe := fun a b => { a with blk := b.blk }, unit := some p }) ∧
  (∀ (p : Pipe) (j : Fin 4) (h : DecHeader), Frame (.blkDecGo p j h)
      { regs := [.one .BLK_DEC_RES p j, .one .BLK_DEC_STAT p j, .own .DRC_ELOG p, .own .DRC_ELOG_STAT p,
          .own .DRC_UNC_CNT_HI p, .own .DRC_UNC_CNT_LO p],
        events := [pipeEvent p (55 + j.val), pipeEvent p 65], pipe := fun a b => { a with bdec := b.bdec },
        unit := some p }) ∧
  (∀ (p : Pipe) (j : Fin 4), Frame (.blkDecAbort p j) { regs := [.one .BLK_DEC_STAT p j], unit := some p }) ∧
  (∀ (p : Pipe) (j : Fin 4), Frame (.blkDecReset p j)
      { regs := [.one .BLK_DEC_STAT p j],
        pipe := fun a b => { a with bdec := b.bdec }, unit := some p }) ∧
  (∀ (p : Pipe) (j : Fin 4) (pic : DecPicture), ∀ cmd ∈ ([.blkDecBudgetExpiry p j pic, .blkDecDone p j pic] : List Instr),
    Frame cmd
      { regs := [.one .BLK_DEC_RES p j, .one .BLK_DEC_STAT p j, .own .DRC_ELOG p, .own .DRC_ELOG_STAT p,
          .own .DRC_UNC_CNT_HI p, .own .DRC_UNC_CNT_LO p],
        events := [pipeEvent p (55 + j.val), pipeEvent p 65],
        pipe := fun a b => { a with bdec := b.bdec, dram := b.dram }, unit := some p }) ∧
  (∀ (p : Pipe) (q : Fin 6), Frame (.txtsPop p q)
      { regs := [.one .NET_TXTS_HI p q, .one .NET_TXTS_LO p q],
        dev := fun a b => { a with rdata := b.rdata }, pipe := fun a b => { a with eth := b.eth }, unit := some p }) ∧
  (∀ (p : Pipe) (q : Fin 6) (bytes : List Byte) (fcsOk : Bool), Frame (.ethFrameRx p q bytes fcsOk)
      { regs := [.own .CASK_STAT p, .one .NET_CNT_HI p q, .one .NET_CNT_LO p q],
        pipe := fun a b => { a with casks := b.casks }, unit := some p }) ∧
  (∀ (p : Pipe) (q : Fin 6), Frame (.ethHostTx p q)
      { regs := [.own .CASK_CORR_CNT_HI p, .own .CASK_CORR_CNT_LO p, .own .CASK_ECC p, .own .CASK_PSN_LAST p,
          .own .CASK_STAT p, .own .CASK_UNC_CNT_HI p, .own .CASK_UNC_CNT_LO p, .one .NET_CNT_HI p q, .one .NET_CNT_LO p q,
          .one .NET_TXTS_OVF_HI p q, .one .NET_TXTS_OVF_LO p q],
        events := [516, pipeEvent p 5, pipeEvent p 69], pipe := fun a b => { a with casks := b.casks, eth := b.eth },
        unit := some p }) ∧
  (∀ (p : Pipe) (o : Fin 16) (n : Nat) (flaws : List Flaw), Frame (.liveFrameInput p o n flaws)
      { regs := [.own .CASK_CORR_CNT_HI p, .own .CASK_CORR_CNT_LO p, .own .CASK_ECC p, .own .CASK_PSN_LAST p,
          .own .CASK_STAT p, .own .CASK_UNC_CNT_HI p, .own .CASK_UNC_CNT_LO p, .own .DRC_ELOG p, .own .DRC_ELOG_STAT p,
          .own .DRC_UNC_CNT_HI p, .own .DRC_UNC_CNT_LO p, .reg .EVT_YLOG_TAIL, .one .NET_LO_CNT_HI p o,
          .one .NET_LO_CNT_LO p o, .one .NET_LO_STAT p o, .own .PCTL_ARUN_STAT p],
        events := [512, 516, 560, pipeEvent p 0, pipeEvent p 5, pipeEvent p 65, pipeEvent p 70, pipeEvent p 71],
        mem := fun a x => a.ylogRoom x, router := fun a b => { a with yields := b.yields, yseq := b.yseq },
        pipe := fun a b => { a with casks := b.casks, dram := b.dram, live := b.live }, unit := some p }) ∧
  (∀ (p : Pipe) (o : Fin 16) (due : Bool), Frame (.liveSlot p o due)
      { regs := [.reg .EVT_YLOG_TAIL, .one .NET_LO_CNT_HI p o, .one .NET_LO_CNT_LO p o, .one .NET_LO_STAT p o,
          .own .PCTL_ARUN_STAT p],
        events := [512, 560, pipeEvent p 0, pipeEvent p 70, pipeEvent p 71], mem := fun a x => a.ylogRoom x,
        router := fun a b => { a with yields := b.yields, yseq := b.yseq }, pipe := fun a b => { a with live := b.live },
        unit := some p }) ∧
  (∀ (p : Pipe) (o : Fin 16) (ready : Bool), Frame (.livePacketLaunch p o ready)
      { regs := [.own .DRC_ELOG p, .own .DRC_ELOG_STAT p, .own .DRC_UNC_CNT_HI p, .own .DRC_UNC_CNT_LO p,
          .reg .EVT_YLOG_TAIL, .one .NET_LO_CNT_HI p o, .one .NET_LO_CNT_LO p o, .own .PCTL_ARUN_STAT p],
        events := [512, 560, pipeEvent p 0, pipeEvent p 65, pipeEvent p 70], mem := fun a x => a.ylogRoom x,
        router := fun a b => { a with yields := b.yields, yseq := b.yseq }, pipe := fun a b => { a with live := b.live },
        unit := some p }) ∧
  (∀ (p : Pipe) (o : Fin 16) (due : Bool) (phase : Int), Frame (.sdiRasterStart p o due phase)
      { regs := [.reg .EVT_YLOG_TAIL, .one .NET_LO_CNT_HI p o, .one .NET_LO_CNT_LO p o, .one .NET_LO_STAT p o,
          .own .PCTL_ARUN_STAT p, .one .SDI_LO_STAT p o],
        events := [512, 560, pipeEvent p 0, pipeEvent p 70, pipeEvent p 71, pipeEvent p 72],
        mem := fun a x => a.ylogRoom x, router := fun a b => { a with yields := b.yields, yseq := b.yseq },
        pipe := fun a b => { a with live := b.live }, unit := some p })

/-- The frames of NVMe, streams, namespaces and cartridges: where one of these commands answers a next state, the queue is as before
and nothing changes but what its span names: the registers (all copies, one unit's, or one copy), the events, the host addresses it
may store to, and the parts of the Hub, the router and the pipes; no other register, event, engine, pipe or byte of memory. The data
of a command lies where its PRP entries say. -/
def Obligations.FrameCellar : Prop :=
  (∀ (p : Pipe), Frame (.takeCloseCommitted p)
      { regs := [.own .CELP_TQ_STAT p],
        pipe := fun a b => { a with cel := b.cel, takes := b.takes }, unit := some p }) ∧
  (∀ (u : Unit5) (c : Fin 16), Frame (.rackAbort u c)
      { regs := [.reg .CASK_CORR_CNT_HI, .reg .CASK_CORR_CNT_LO, .reg .CASK_ECC, .reg .CASK_PSN_LAST, .reg .CASK_STAT,
          .reg .CASK_UNC_CNT_HI, .reg .CASK_UNC_CNT_LO, .reg .CELP_LOCKWAIT_CNT_HI, .reg .CELP_LOCKWAIT_CNT_LO,
          .reg .CELP_LOCK_STAT, .reg .DRC_ELOG, .reg .DRC_ELOG_STAT, .reg .DRC_UNC_CNT_HI, .reg .DRC_UNC_CNT_LO,
          .reg .RACK_BYTES_HI, .reg .RACK_BYTES_LO, .reg .RACK_CH_STAT, .reg .RACK_GSTAT],
        events := [516, 518] ++ ([0, 1, 2, 3].flatMap fun n => [pipeEvent n 5, pipeEvent n 65, pipeEvent n 7]),
        mem := fun _ _ => true, dev := fun a b => { a with free := b.free },
        hub := fun a b => { a with casks := b.casks, hreq := b.hreq, nvme := b.nvme, rack := b.rack },
        pipe := fun a b => { a with
            casks := b.casks, cel := b.cel, dram := { b.dram with mem := a.dram.mem }, rack := b.rack } }) ∧
  (∀ (u : Unit5) (c : Fin 16), Frame (.rackChDisable u c)
      { regs := [.reg .CASK_CORR_CNT_HI, .reg .CASK_CORR_CNT_LO, .reg .CASK_ECC, .reg .CASK_PSN_LAST, .reg .CASK_STAT,
          .reg .CASK_UNC_CNT_HI, .reg .CASK_UNC_CNT_LO, .reg .CELP_LOCKWAIT_CNT_HI, .reg .CELP_LOCKWAIT_CNT_LO,
          .reg .CELP_LOCK_STAT, .reg .DRC_ELOG, .reg .DRC_ELOG_STAT, .reg .DRC_UNC_CNT_HI, .reg .DRC_UNC_CNT_LO,
          .reg .RACK_BYTES_HI, .reg .RACK_BYTES_LO, .reg .RACK_CH_CFG, .reg .RACK_CH_STAT, .reg .RACK_GSTAT,
          .reg .RACK_HEAD],
        events := [519 + c.val, 516, 518] ++ ([0, 1, 2, 3].flatMap fun n => [pipeEvent n (8 + c.val), pipeEvent n 5,
          pipeEvent n 65, pipeEvent n 7]),
        mem := fun _ _ => true, dev := fun a b => { a with free := b.free },
        hub := fun a b => { a with casks := b.casks, hreq := b.hreq, nvme := b.nvme, rack := b.rack },
        pipe := fun a b => { a with casks := b.casks, cel := b.cel, dram := b.dram, rack := b.rack } }) ∧
  (∀ (q : Fin 513) (v : BitVec 16), ∀ cmd ∈ ([.sqDoorbell q v, .cqDoorbell q v] : List Instr), Frame cmd
      { events := [540], mem := fun a x => a.cqRoom x, hub := fun a b => { a with nvme := b.nvme } }) ∧
  (∀ (q : Fin 513) (late : Bool), Frame (.nvmeCommandFetch q late)
      { events := [540] ++ ([0, 1, 2, 3].flatMap fun n => [pipeEvent n 60]), mem := fun a x => a.cqRoom x,
        hub := fun a b => { a with nvme := b.nvme }, pipe := fun a b => { a with cel := b.cel } }) ∧
  (∀ (cid : BitVec 16), ∀ cmd ∈ ([.deleteIoSubmissionQueue cid, .createIoSubmissionQueue cid,
    .deleteIoCompletionQueue cid, .abort cid, .getFeatures cid, .asynchronousEventRequest cid, .namespaceDelete cid,
    .firmwareImageDownload cid, .formatNvmDeallocate cid, .formatNvmErase cid, .formatNvmCryptoErase cid] : List Instr),
    Frame cmd
      { regs := [.reg .CELP_LOCK_STAT, .reg .CEL_TSTAT],
        events := [540], mem := fun a x => a.cqRoom x, hub := fun a b => { a with hreq := b.hreq, nvme := b.nvme },
        pipe := fun a b => { a with cel := b.cel } }) ∧
  (∀ (cid : BitVec 16), ∀ cmd ∈ ([.createIoCompletionQueue cid, .getLogPage cid, .identify cid] : List Instr), Frame cmd
      { regs := [.reg .CELP_LOCK_STAT, .reg .CEL_TSTAT],
        events := [540], mem := fun _ _ => true, hub := fun a b => { a with hreq := b.hreq, nvme := b.nvme },
        pipe := fun a b => { a with cel := b.cel } }) ∧
  (∀ (cid : BitVec 16), Frame (.setFeatures cid)
      { regs := [.reg .CELP_LOCK_STAT, .reg .CEL_TSTAT, .reg .EVT_COAL],
        events := [540], mem := fun a x => a.cqRoom x, hub := fun a b => { a with hreq := b.hreq, nvme := b.nvme },
        pipe := fun a b => { a with cel := b.cel } }) ∧
  (∀ (cid : BitVec 16), Frame (.setFeaturesTenantShare cid)
      { regs := [.reg .CELP_LOCK_STAT, .reg .CEL_SHARE, .reg .CEL_SHARE_STAT, .reg .CEL_TSTAT],
        events := [540, 543], mem := fun a x => a.cqRoom x, hub := fun a b => { a with hreq := b.hreq, nvme := b.nvme },
        pipe := fun a b => { a with cel := b.cel } }) ∧
  (∀ (cid : BitVec 16) (good : Bool), Frame (.namespaceCreate cid good)
      { regs := [.reg .CELP_LOCK_STAT, .reg .CEL_TSTAT],
        events := [540], mem := fun a x => a.cqRoom x, dev := fun a b => { a with free := b.free },
        hub := fun a b => { a with hreq := b.hreq, nvme := b.nvme, secu := b.secu },
        pipe := fun a b => { a with cel := b.cel } }) ∧
  (∀ (cid : BitVec 16) (good : Bool), Frame (.namespaceAttachment cid good)
      { regs := [.reg .CELP_LOCK_STAT, .reg .CEL_TSTAT],
        events := [540], mem := fun a x => a.cqRoom x, hub := fun a b => { a with hreq := b.hreq, nvme := b.nvme },
        pipe := fun a b => { a with cel := b.cel } }) ∧
  (∀ (cid : BitVec 16) (bad : Bool), Frame (.fwCommitWrite cid bad)
      { regs := [.reg .CELP_LOCK_STAT, .reg .CEL_TSTAT],
        events := [540], mem := fun a x => a.cqRoom x,
        hub := fun a b => { a with flash := b.flash, hreq := b.hreq, nvme := b.nvme },
        pipe := fun a b => { a with cel := b.cel } }) ∧
  (∀ (cid : BitVec 16) (bad : Bool), Frame (.fwCommitWriteSelect cid bad)
      { regs := [.reg .CELP_LOCK_STAT, .reg .CEL_TSTAT, .reg .HUB_BOOT_CFG],
        events := [540], mem := fun a x => a.cqRoom x,
        hub := fun a b => { a with flash := b.flash, hreq := b.hreq, nvme := b.nvme },
        pipe := fun a b => { a with cel := b.cel } }) ∧
  (∀ (cid : BitVec 16), Frame (.fwCommitSelect cid)
      { regs := [.reg .CELP_LOCK_STAT, .reg .CEL_TSTAT, .reg .HUB_BOOT_CFG],
        events := [540], mem := fun a x => a.cqRoom x, hub := fun a b => { a with hreq := b.hreq, nvme := b.nvme },
        pipe := fun a b => { a with cel := b.cel } }) ∧
  (∀ (cid : BitVec 16) (bad : Bool), Frame (.fwCommitActivate cid bad)
      { regs := [.reg .CELP_LOCK_STAT, .reg .CEL_TSTAT, .reg .HUB_BOOT_STAT],
        events := [540], mem := fun a x => a.cqRoom x,
        hub := fun a b => { a with boot := b.boot, flash := b.flash, hreq := b.hreq, nvme := b.nvme, secu := b.secu },
        pipe := fun a b => { a with cel := b.cel } }) ∧
  (∀ (cid : BitVec 16), ∀ cmd ∈ ([.sanitizeBlockErase cid, .sanitizeOverwrite cid,
    .sanitizeCryptoErase cid] : List Instr), Frame cmd
      { regs := [.reg .CELP_LOCK_STAT, .reg .CEL_SAN_STAT, .reg .CEL_TSTAT],
        events := [540], mem := fun a x => a.cqRoom x, hub := fun a b => { a with hreq := b.hreq, nvme := b.nvme },
        pipe := fun a b => { a with cel := b.cel } }) ∧
  (∀ (p : Pipe), Frame (.sanitizeDone p)
      { regs := [.reg .CEL_SAN_STAT],
        events := [544], dev := fun a b => { a with free := b.free },
        hub := fun a b => { a with nvme := b.nvme, secu := b.secu }, pipe := fun a b => { a with cel := b.cel } }) ∧
  (∀ (nsid : Fin 65), Frame (.formatDone nsid)
      { regs := [.reg .CELP_LOCK_STAT, .reg .CEL_TSTAT],
        events := [540], mem := fun a x => a.cqRoom x, dev := fun a b => { a with free := b.free },
        hub := fun a b => { a with hreq := b.hreq, nvme := b.nvme, secu := b.secu },
        pipe := fun a b => { a with cel := b.cel } }) ∧
  (∀ (q : Fin 513) (cid : BitVec 16), Frame (.flush q cid)
      { regs := [.reg .CELP_LOCK_STAT, .reg .CEL_TSTAT],
        events := [540], mem := fun a x => a.cqRoom x, hub := fun a b => { a with hreq := b.hreq, nvme := b.nvme },
        pipe := fun a b => { a with cel := b.cel } }) ∧
  (∀ (q : Fin 513) (cid : BitVec 16), ∀ cmd ∈ ([.write q cid, .read q cid, .writeZeroes q cid, .datasetManagement q cid,
    .verify q cid] : List Instr), Frame cmd
      { regs := [.reg .CELP_LOCKWAIT_CNT_HI, .reg .CELP_LOCKWAIT_CNT_LO, .reg .CELP_LOCK_STAT, .reg .CEL_TSTAT],
        events := [540], mem := fun a x => a.cqRoom x, hub := fun a b => { a with hreq := b.hreq, nvme := b.nvme },
        pipe := fun a b => { a with cel := b.cel } }) ∧
  (∀ (q : Fin 513) (cid : BitVec 16) (bad : Bool), Frame (.rangeLockGrant q cid bad)
      { regs := [.reg .CELP_LOCK_STAT, .reg .CELP_RBLD_STAT, .reg .CEL_TSTAT],
        events := [540] ++ ([0, 1, 2, 3].flatMap fun n => [pipeEvent n 63]), mem := fun _ _ => true,
        hub := fun a b => { a with hreq := b.hreq, nvme := b.nvme }, pipe := fun a b => { a with cel := b.cel } }) ∧
  (∀ (p : Pipe), Frame (.pieceCommit p)
      { regs := [.reg .CELP_LOCK_STAT, .reg .CEL_TSTAT],
        events := [540], mem := fun a x => a.cqRoom x, hub := fun a b => { a with hreq := b.hreq, nvme := b.nvme },
        pipe := fun a b => { a with cel := b.cel } }) ∧
  (∀ (cc aqa : Word) (asq acq : BitVec 64), Frame (.controllerEnable cc aqa asq acq)
      { hub := fun a b => { a with nvme := b.nvme } }) ∧
  (Frame .controllerDisable
      { regs := [.reg .CELP_LOCK_STAT, .reg .CEL_TSTAT],
        events := [540], mem := fun a x => a.cqRoom x, hub := fun a b => { a with hreq := b.hreq, nvme := b.nvme },
        pipe := fun a b => { a with cel := b.cel } }) ∧
  (∀ (a : Unit5) (waits : List (Fin 512)) (taken : Bool), Frame (.tenantWindowEnd a waits taken)
      { regs := [.reg .CEL_TSTAT, .reg .EVT_YLOG_TAIL, .reg .PCTL_ARUN_STAT],
        events := [512, 560] ++ ([0, 1, 2, 3].flatMap fun n => [pipeEvent n 0]), mem := fun a x => a.ylogRoom x,
        hub := fun a b => { a with nvme := b.nvme }, router := fun a b => { a with yields := b.yields, yseq := b.yseq } }) ∧
  (∀ (num : Word), Frame (.takeClosed num)
      { regs := [.reg .CEL_TAKE_CMD, .reg .CEL_TAKE_STAT],
        events := [542], hub := fun a b => { a with takes := b.takes } }) ∧
  (∀ (p : Pipe), Frame (.streamOpen p)
      { regs := [.own .CELP_LOCKWAIT_CNT_HI p, .own .CELP_LOCKWAIT_CNT_LO p, .own .CELP_LOCK_STAT p,
          .own .CELP_STRM_CMD p, .own .CELP_STRM_RES p],
        hub := fun a b => { a with nvme := b.nvme }, pipe := fun a b => { a with cel := b.cel }, unit := some p }) ∧
  (∀ (p : Pipe) (handle : BitVec 16), Frame (.streamClose p handle)
      { regs := [.own .CELP_LOCKWAIT_CNT_HI p, .own .CELP_LOCKWAIT_CNT_LO p, .own .CELP_LOCK_STAT p,
          .own .CELP_STRM_CMD p, .own .CELP_STRM_RES p],
        hub := fun a b => { a with nvme := b.nvme }, pipe := fun a b => { a with cel := b.cel }, unit := some p }) ∧
  (Frame .powerStateTransitionDone { hub := fun a b => { a with nvme := b.nvme } }) ∧
  (∀ (p : Pipe), ∀ cmd ∈ ([.cartDetectLow p, .cartSettled p] : List Instr), Frame cmd
      { regs := [.own .CELP_CART_STAT p],
        events := [pipeEvent p 61], pipe := fun a b => { a with cel := b.cel }, unit := some p }) ∧
  (∀ (p : Pipe), Frame (.cartRemoval p)
      { regs := [.reg .CELP_CART_STAT, .reg .CELP_LOCK_STAT, .reg .CEL_TSTAT],
        events := [540] ++ ([0, 1, 2, 3].flatMap fun n => [pipeEvent n 61]), mem := fun a x => a.cqRoom x,
        hub := fun a b => { a with hreq := b.hreq, nvme := b.nvme }, pipe := fun a b => { a with cel := b.cel } }) ∧
  (∀ (p : Pipe), Frame (.journalCheckpoint p) { pipe := fun a b => { a with cel := b.cel }, unit := some p }) ∧
  (∀ (p : Pipe) (place : Fin 16) (region : Nat), Frame (.rebuildRegion p place region)
      { regs := [.own .CELP_RBLD_STAT p],
        events := [pipeEvent p 63], pipe := fun a b => { a with cel := b.cel }, unit := some p }) ∧
  (∀ (p : Pipe) (spare : Bool), Frame (.flashProgramFail p spare)
      { regs := [.reg .CELP_CART_STAT, .reg .CELP_LOCK_STAT, .reg .CEL_TSTAT],
        events := [540] ++ ([0, 1, 2, 3].flatMap fun n => [pipeEvent n 64]), mem := fun a x => a.cqRoom x,
        hub := fun a b => { a with hreq := b.hreq, nvme := b.nvme }, pipe := fun a b => { a with cel := b.cel } }) ∧
  (∀ (mode : Fin 8), Frame (.standbyRequest mode)
      { regs := [.reg .CELP_LOCK_STAT, .reg .CEL_TSTAT, .reg .HUB_STBY_CTL, .reg .HUB_STBY_STAT],
        events := [540], mem := fun a x => a.cqRoom x,
        hub := fun a b => { a with boot := b.boot, hreq := b.hreq, nvme := b.nvme },
        pipe := fun a b => { a with cel := b.cel } })

/-- The frames of what starts and ends roles and takes: where one of these commands answers a next state, the queue is as before and
nothing changes but what its span names: the registers (all copies, one unit's, or one copy), the events, the host addresses it may
store to, and the parts of the Hub, the router and the pipes; no other register, event, engine, pipe or byte of memory. What these
commands reach is `Span.link` for lanes and roles and `Span.take` for takes. -/
def Obligations.FrameCascades : Prop :=
  (∀ (p : Pipe), ∀ cmd ∈ ([.arunLimitExpiry p, .trippedPipeRejoin p, .cartRetryExpiry p, .cartEject p] : List Instr),
    Frame cmd
      Span.take) ∧
  (∀ (p : Pipe) (stage : Fin 4) (inst : BitVec 16), Frame (.recStall p stage inst) Span.take) ∧
  (∀ (u : Unit5) (n : Fin 3) (good : Bool), Frame (.refclkMonitorCheck u n good) Span.link) ∧
  (∀ (u : Unit5) (k : Fin 12) (b : RxTrain), Frame (.trainingBlockReceived u k b) Span.link) ∧
  (∀ (u : Unit5) (k : Fin 12) (b : BitVec 66), Frame (.dataBlockReceived u k b) Span.link) ∧
  (∀ (u : Unit5) (k : Fin 12) (c : LaneCause), Frame (.laneLoss u k c) Span.link) ∧
  (∀ (u : Unit5) (r : Fin 7), Frame (.laneRetryExpiry u r) Span.link) ∧
  (∀ (u : Unit5) (mask : BitVec 12), Frame (.laneRetrain u mask) Span.link) ∧
  (∀ (u : Unit5) (k : Fin 12) (w : Word), Frame (.lanePrbsCtlWrite u k w) Span.link) ∧
  (∀ (p : Pipe) (k : Fin 6), ∀ cmd ∈ ([.sdiPllLock p k, .ethPcsAligned p k] : List Instr), Frame cmd Span.link) ∧
  (∀ (p : Pipe), Frame (.dphySotTimeout p) Span.link) ∧
  (∀ (p : Pipe) (di : Byte) (wc : BitVec 16) (ecc : Byte) (board : List (Fin 4 × Nat × Nat × Nat)),
    Frame (.csi2FrameStart p di wc ecc board)
      Span.take) ∧
  (∀ (p : Pipe) (h : BitVec 24) (ecc : Byte), Frame (.csi2FrameEnd p h ecc) Span.take) ∧
  (∀ (p : Pipe) (tries : List (List Byte)), Frame (.sfeIdentityReadDone p tries) Span.take) ∧
  (∀ (pipes : BitVec 4) (vcs : BitVec 16) (board : BoardStart), Frame (.takeStart pipes vcs board) Span.take) ∧
  (∀ (order : Option (Word × Nat)), Frame (.takeStop order) Span.take) ∧
  (∀ cmd ∈ ([.takeStartTimeout, .qdlOrphanExpiry, .hubRstFallow, .nrstStuckTimeout] : List Instr), Frame cmd Span.take) ∧
  (∀ (p : Pipe) (x : TakeRead), Frame (.takeUnitCommit p x) Span.take) ∧
  (∀ (p : Pipe) (t : Fin 8), Frame (.takeQueueReset p t) Span.take) ∧
  (∀ (p : Pipe) (g : CartPages), Frame (.cartInitDone p g) Span.take) ∧
  (∀ (p : Pipe) (image : CartImage), Frame (.cartIdentityRead p image) Span.take) ∧
  (∀ (p : Pipe) (r : Replay), Frame (.cartReplayDone p r) Span.take) ∧
  (∀ (q : Fin 3), Frame (.qdlPortDown q) Span.link) ∧
  (∀ (x : Fin 4) (num : Word), Frame (.qdlTakeEndReport x num) Span.take) ∧
  (∀ (len : Nat), Frame (.nrstRelease len) Span.take) ∧
  (∀ (p : Pipe) (mask : BitVec 4), Frame (.dphySot p mask) Span.link)
end

