-- ==== Sys2Proof/Laws/Store.lean ====
section
/-!
SUPPORT. Read and write laws of the sparse tables, the byte memories and the store of register fields, and that memory operations keep
the canonical form.
-/
namespace Sys2Proof.Machine

/-! ### Tables -/

theorem Tab.get_put_same {α : Type} (d : α) (t : Tab α) (k : Nat) (v : α) : Tab.get d (Tab.put t k v) k = v := by
  induction t with
  | nil => simp [Tab.put, Tab.get]
  | cons x t ih =>
    simp only [Tab.put]
    split_ifs <;> simp_all [Tab.get]

theorem Tab.get_put_other {α : Type} (d : α) (t : Tab α) {k k' : Nat} (v : α) (h : k' ≠ k) :
    Tab.get d (Tab.put t k v) k' = Tab.get d t k' := by
  induction t with
  | nil => simp [Tab.put, Tab.get, h]
  | cons x t ih =>
    simp only [Tab.put]
    split_ifs <;> simp_all [Tab.get]

theorem Tab.get_del_same {α : Type} (d : α) (t : Tab α) (k : Nat) : Tab.get d (Tab.del t k) k = d := by
  induction t with
  | nil => rfl
  | cons x t ih =>
    simp only [Tab.del]
    split_ifs <;> simp_all [Tab.get]

theorem Tab.get_del_other {α : Type} (d : α) (t : Tab α) {k k' : Nat} (h : k' ≠ k) :
    Tab.get d (Tab.del t k) k' = Tab.get d t k' := by
  induction t with
  | nil => rfl
  | cons x t ih =>
    simp only [Tab.del]
    split_ifs <;> simp_all [Tab.get]

/-- The entry written is the entry read. -/
@[simp] theorem Tab.get_set_same {α : Type} [DecidableEq α] (d : α) (t : Tab α) (k : Nat) (v : α) :
    Tab.get d (Tab.set d t k v) k = v := by
  unfold Tab.set
  split_ifs with h
  · rw [Tab.get_del_same, h]
  · exact Tab.get_put_same d t k v

/-- Every other entry reads as before. -/
theorem Tab.get_set_other {α : Type} [DecidableEq α] (d : α) (t : Tab α) {k k' : Nat} (v : α) (h : k' ≠ k) :
    Tab.get d (Tab.set d t k v) k' = Tab.get d t k' := by
  unfold Tab.set
  split_ifs
  · exact Tab.get_del_other d t h
  · exact Tab.get_put_other d t v h

theorem Tab.find_put_same {α : Type} (t : Tab α) (k : Nat) (v : α) : Tab.find (Tab.put t k v) k = some v := by
  induction t with
  | nil => simp [Tab.put, Tab.find]
  | cons x t ih =>
    simp only [Tab.put]
    split_ifs <;> simp_all [Tab.find]

theorem Tab.find_put_other {α : Type} (t : Tab α) {k k' : Nat} (v : α) (h : k' ≠ k) :
    Tab.find (Tab.put t k v) k' = Tab.find t k' := by
  induction t with
  | nil => simp [Tab.put, Tab.find, h]
  | cons x t ih =>
    simp only [Tab.put]
    split_ifs <;> simp_all [Tab.find]

theorem Tab.find_del_same {α : Type} (t : Tab α) (k : Nat) : Tab.find (Tab.del t k) k = none := by
  induction t with
  | nil => rfl
  | cons x t ih =>
    simp only [Tab.del]
    split_ifs <;> simp_all [Tab.find]

theorem Tab.find_del_other {α : Type} (t : Tab α) {k k' : Nat} (h : k' ≠ k) : Tab.find (Tab.del t k) k' = Tab.find t k' := by
  induction t with
  | nil => rfl
  | cons x t ih =>
    simp only [Tab.del]
    split_ifs <;> simp_all [Tab.find]

/-! ### Byte memories -/

theorem Mem.read_insert_same (m : Mem) (a : Nat) (b : Byte) : Mem.read (Mem.insert m a b) a = b := by
  induction m with
  | nil => simp [Mem.insert, Mem.read]
  | cons x m ih =>
    simp only [Mem.insert]
    split_ifs <;> simp_all [Mem.read]

theorem Mem.read_insert_other (m : Mem) {a a' : Nat} (b : Byte) (h : a' ≠ a) :
    Mem.read (Mem.insert m a b) a' = Mem.read m a' := by
  induction m with
  | nil => simp [Mem.insert, Mem.read, h]
  | cons x m ih =>
    simp only [Mem.insert]
    split_ifs <;> simp_all [Mem.read]

theorem Mem.read_erase_same (m : Mem) (a : Nat) : Mem.read (Mem.erase m a) a = Mem.blank := by
  induction m with
  | nil => rfl
  | cons x m ih =>
    simp only [Mem.erase]
    split_ifs <;> simp_all [Mem.read]

theorem Mem.read_erase_other (m : Mem) {a a' : Nat} (h : a' ≠ a) : Mem.read (Mem.erase m a) a' = Mem.read m a' := by
  induction m with
  | nil => rfl
  | cons x m ih =>
    simp only [Mem.erase]
    split_ifs <;> simp_all [Mem.read]

/-- The byte written is the byte read. -/
@[simp] theorem Mem.read_write_same (m : Mem) (a : Nat) (b : Byte) : Mem.read (Mem.write m a b) a = b := by
  unfold Mem.write
  split_ifs with h
  · rw [Mem.read_erase_same, h]
  · exact Mem.read_insert_same m a b

/-- Every other byte reads as before. -/
theorem Mem.read_write_other (m : Mem) {a a' : Nat} (b : Byte) (h : a' ≠ a) :
    Mem.read (Mem.write m a b) a' = Mem.read m a' := by
  unfold Mem.write
  split_ifs
  · exact Mem.read_erase_other m h
  · exact Mem.read_insert_other m b h

/-- Bytes outside those written read as before. -/
theorem Mem.read_writes_other (m : Mem) (a : Nat) (bs : List Byte) (x : Nat) (h : x < a ∨ a + bs.length ≤ x) :
    Mem.read (Mem.writes m a bs) x = Mem.read m x := by
  induction bs generalizing m a with
  | nil => rfl
  | cons b t ih =>
    simp only [List.length_cons] at h
    rw [Mem.writes, ih _ _ (by omega), Mem.read_write_other _ _ (by omega)]

/-- The bytes written are the bytes read. -/
theorem Mem.read_writes_at (m : Mem) (a : Nat) (bs : List Byte) (n : Nat) (h : n < bs.length) :
    Mem.read (Mem.writes m a bs) (a + n) = bs[n] := by
  induction bs generalizing m a n with
  | nil => simp at h
  | cons b t ih =>
    cases n with
    | zero => rw [Mem.writes, Mem.read_writes_other _ _ _ _ (by omega)]; simp
    | succ n =>
      have := ih (Mem.write m a b) (a + 1) n (by simpa using h)
      simpa [Mem.writes, Nat.add_assoc, Nat.add_comm 1 n] using this

theorem Mem.above_mono {lo hi : Nat} (h : lo ≤ hi) (m : Mem) : Mem.above hi m = true → Mem.above lo m = true := by
  induction m with
  | nil => simp [Mem.above]
  | cons x m ih =>
    simp only [Mem.above, Bool.and_eq_true, decide_eq_true_eq]
    exact fun ⟨h1, h2⟩ => ⟨by omega, ih h2⟩

theorem Mem.above_insert (lo : Nat) (m : Mem) (a : Nat) (b : Byte) (ha : lo ≤ a) (h : Mem.above lo m = true) :
    Mem.above lo (Mem.insert m a b) = true := by
  induction m with
  | nil => simpa [Mem.insert, Mem.above]
  | cons x m ih =>
    simp only [Mem.insert]
    split_ifs <;> simp_all [Mem.above]

theorem Mem.above_erase (lo : Nat) (m : Mem) (a : Nat) (h : Mem.above lo m = true) : Mem.above lo (Mem.erase m a) = true := by
  induction m with
  | nil => rfl
  | cons x m ih =>
    simp only [Mem.erase]
    split_ifs <;> simp_all [Mem.above]

theorem Mem.wf_insert (m : Mem) (a : Nat) (b : Byte) (hb : b ≠ Mem.blank) (h : m.wf = true) : (Mem.insert m a b).wf = true := by
  induction m with
  | nil => simpa [Mem.insert, Mem.wf, Mem.above]
  | cons x m ih =>
    obtain ⟨c, v⟩ := x
    simp only [Mem.wf, Bool.and_eq_true, bne_iff_ne] at h
    simp only [Mem.insert]
    split_ifs with h1 h2
    · subst h1; simp [Mem.wf, hb, h.1.2, h.2]
    · simp [Mem.wf, Mem.above, hb, h.1.1, h.1.2, h.2, Mem.above_mono (by omega : a + 1 ≤ c + 1) m h.1.2]; omega
    · simp [Mem.wf, h.1.1, ih h.2, Mem.above_insert (c + 1) m a b (by omega) h.1.2]

theorem Mem.wf_erase (m : Mem) (a : Nat) (h : m.wf = true) : (Mem.erase m a).wf = true := by
  induction m with
  | nil => rfl
  | cons x m ih =>
    simp only [Mem.wf, Bool.and_eq_true, bne_iff_ne] at h
    simp only [Mem.erase]
    split_ifs
    · exact ih h.2
    · simp [Mem.wf, h.1.1, ih h.2, Mem.above_erase _ m a h.1.2]

/-- Writing a byte keeps the canonical form. -/
theorem Mem.wf_write (m : Mem) (a : Nat) (b : Byte) (h : m.wf = true) : (Mem.write m a b).wf = true := by
  unfold Mem.write
  split_ifs with hb
  · exact Mem.wf_erase m a h
  · exact Mem.wf_insert m a b hb h

/-- Writing bytes keeps the canonical form. -/
theorem Mem.wf_writes (m : Mem) (a : Nat) (bs : List Byte) (h : m.wf = true) : (Mem.writes m a bs).wf = true := by
  induction bs generalizing m a with
  | nil => exact h
  | cons b t ih => exact ih _ _ (Mem.wf_write m a b h)

theorem Mem.wf_writeLe (m : Mem) (a n v : Nat) (h : m.wf = true) : (Mem.writeLe m a n v).wf = true := Mem.wf_writes m a _ h

theorem Mem.above_filter (lo : Nat) (q : Host.Cell → Bool) (m : Mem) (h : Mem.above lo m = true) :
    Mem.above lo (m.filter q) = true := by
  induction m with
  | nil => rfl
  | cons x m ih =>
    simp only [List.filter]
    split <;> simp_all [Mem.above]

/-- Removing cells keeps the canonical form. -/
theorem Mem.wf_filter (m : Mem) (q : Host.Cell → Bool) (h : m.wf = true) : Mem.wf (m.filter q) = true := by
  induction m with
  | nil => rfl
  | cons x m ih =>
    simp only [Mem.wf, Bool.and_eq_true, bne_iff_ne] at h
    simp only [List.filter]
    split
    · simp [Mem.wf, h.1.1, ih h.2, Mem.above_filter _ q m h.1.2]
    · exact ih h.2

/-! ### Register fields -/

theorem FStore.get_put_same (d : Nat) (s : FStore) (k : FKey) (v : Nat) : FStore.get d (FStore.put s k v) k = v := by
  induction s with
  | nil => simp [FStore.put, FStore.get]
  | cons x s ih =>
    simp only [FStore.put]
    split_ifs <;> simp_all [FStore.get]

theorem FStore.get_put_other (d : Nat) (s : FStore) {k k' : FKey} (v : Nat) (h : k' ≠ k) :
    FStore.get d (FStore.put s k v) k' = FStore.get d s k' := by
  induction s with
  | nil => simp [FStore.put, FStore.get, h]
  | cons x s ih =>
    simp only [FStore.put]
    split_ifs <;> simp_all [FStore.get]

theorem FStore.get_del_same (d : Nat) (s : FStore) (k : FKey) : FStore.get d (FStore.del s k) k = d := by
  induction s with
  | nil => rfl
  | cons x s ih =>
    simp only [FStore.del]
    split_ifs <;> simp_all [FStore.get]

theorem FStore.get_del_other (d : Nat) (s : FStore) {k k' : FKey} (h : k' ≠ k) :
    FStore.get d (FStore.del s k) k' = FStore.get d s k' := by
  induction s with
  | nil => rfl
  | cons x s ih =>
    simp only [FStore.del]
    split_ifs <;> simp_all [FStore.get]

/-- The field written is the field read. -/
theorem FStore.get_set_same (d : Nat) (s : FStore) (k : FKey) (v : Nat) : FStore.get d (FStore.set d s k v) k = v := by
  unfold FStore.set
  split_ifs with h
  · rw [FStore.get_del_same, h]
  · exact FStore.get_put_same d s k v

/-- Every other field reads as before, whatever its reset value. -/
theorem FStore.get_set_other (d d' : Nat) (s : FStore) {k k' : FKey} (v : Nat) (h : k' ≠ k) :
    FStore.get d' (FStore.set d s k v) k' = FStore.get d' s k' := by
  unfold FStore.set
  split_ifs
  · exact FStore.get_del_other d' s h
  · exact FStore.get_put_other d' s v h

end Sys2Proof.Machine
end

