-- ==== Sys2Proof/Laws/State.lean ====
section
/-!
SUPPORT. One lemma per part of the device and update of it, so that no later proof unfolds a record update.
-/
namespace Sys2Proof.Machine

variable (d : Dev) (f g : Fld) (v p i j p' i' j' n : Nat) (fp : PipeSt → PipeSt) (fh : HubSt → HubSt) (fr : Router → Router)

/-! ### Register fields -/

/-- The field written is the field read, cut to its width. -/
@[simp] theorem Dev.rd_wr : (d.wr f v p i j).rd f p i j = v % 2 ^ f.width := FStore.get_set_same _ _ _ _

/-- A field of another key reads as before. -/
theorem Dev.rd_wr_ne (h : g.key p' i' j' ≠ f.key p i j) : (d.wr f v p i j).rd g p' i' j' = d.rd g p' i' j' :=
  FStore.get_set_other _ _ _ _ h

theorem Dev.rd_wr_reg (h : g.reg ≠ f.reg) : (d.wr f v p i j).rd g p' i' j' = d.rd g p' i' j' :=
  d.rd_wr_ne f g v p i j p' i' j' fun e => h (congrArg FKey.reg e)

theorem Dev.rd_wr_lo (h : g.lo ≠ f.lo) : (d.wr f v p i j).rd g p' i' j' = d.rd g p' i' j' :=
  d.rd_wr_ne f g v p i j p' i' j' fun e => h (congrArg FKey.lo e)

theorem Dev.rd_wr_p (h : p' ≠ p) : (d.wr f v p i j).rd g p' i' j' = d.rd g p' i' j' :=
  d.rd_wr_ne f g v p i j p' i' j' fun e => h (congrArg FKey.p e)

theorem Dev.rd_wr_i (h : i' ≠ i) : (d.wr f v p i j).rd g p' i' j' = d.rd g p' i' j' :=
  d.rd_wr_ne f g v p i j p' i' j' fun e => h (congrArg FKey.i e)

theorem Dev.rd_wr_j (h : j' ≠ j) : (d.wr f v p i j).rd g p' i' j' = d.rd g p' i' j' :=
  d.rd_wr_ne f g v p i j p' i' j' fun e => h (congrArg FKey.j e)

/-- A field whose width holds it reads back whole. -/
theorem Dev.rd_wr_lt (h : v < 2 ^ f.width) : (d.wr f v p i j).rd f p i j = v := by simp [Nat.mod_eq_of_lt h]

/-! ### What a register write leaves alone -/

@[simp] theorem Dev.wr_c : (d.wr f v p i j).c = d.c := rfl
@[simp] theorem Dev.wr_free : (d.wr f v p i j).free = d.free := rfl
@[simp] theorem Dev.wr_snaps : (d.wr f v p i j).snaps = d.snaps := rfl
@[simp] theorem Dev.wr_held : (d.wr f v p i j).held = d.held := rfl
@[simp] theorem Dev.wr_rdata : (d.wr f v p i j).rdata = d.rdata := rfl
@[simp] theorem Dev.wr_router : (d.wr f v p i j).router = d.router := rfl
@[simp] theorem Dev.wr_pipes : (d.wr f v p i j).pipes = d.pipes := rfl
@[simp] theorem Dev.wr_hub : (d.wr f v p i j).hub = d.hub := rfl
@[simp] theorem Dev.wr_hostMem : (d.wr f v p i j).hostMem = d.hostMem := rfl
@[simp] theorem Dev.wr_tsnap : (d.wr f v p i j).tsnap = d.tsnap := rfl
@[simp] theorem Dev.wr_pipe : (d.wr f v p i j).pipe n = d.pipe n := rfl

/-! ### Updates of the Hub, the router and a pipe -/

@[simp] theorem Dev.updHub_c : (d.updHub fh).c = d.c := rfl
@[simp] theorem Dev.updHub_free : (d.updHub fh).free = d.free := rfl
@[simp] theorem Dev.updHub_regs : (d.updHub fh).regs = d.regs := rfl
@[simp] theorem Dev.updHub_snaps : (d.updHub fh).snaps = d.snaps := rfl
@[simp] theorem Dev.updHub_held : (d.updHub fh).held = d.held := rfl
@[simp] theorem Dev.updHub_rdata : (d.updHub fh).rdata = d.rdata := rfl
@[simp] theorem Dev.updHub_router : (d.updHub fh).router = d.router := rfl
@[simp] theorem Dev.updHub_pipes : (d.updHub fh).pipes = d.pipes := rfl
@[simp] theorem Dev.updHub_hub : (d.updHub fh).hub = fh d.hub := rfl
@[simp] theorem Dev.updHub_hostMem : (d.updHub fh).hostMem = d.hostMem := rfl
@[simp] theorem Dev.updHub_rd : (d.updHub fh).rd f p i j = d.rd f p i j := rfl
@[simp] theorem Dev.updHub_pipe : (d.updHub fh).pipe n = d.pipe n := rfl

@[simp] theorem Dev.updRouter_c : (d.updRouter fr).c = d.c := rfl
@[simp] theorem Dev.updRouter_free : (d.updRouter fr).free = d.free := rfl
@[simp] theorem Dev.updRouter_regs : (d.updRouter fr).regs = d.regs := rfl
@[simp] theorem Dev.updRouter_snaps : (d.updRouter fr).snaps = d.snaps := rfl
@[simp] theorem Dev.updRouter_held : (d.updRouter fr).held = d.held := rfl
@[simp] theorem Dev.updRouter_rdata : (d.updRouter fr).rdata = d.rdata := rfl
@[simp] theorem Dev.updRouter_router : (d.updRouter fr).router = fr d.router := rfl
@[simp] theorem Dev.updRouter_pipes : (d.updRouter fr).pipes = d.pipes := rfl
@[simp] theorem Dev.updRouter_hub : (d.updRouter fr).hub = d.hub := rfl
@[simp] theorem Dev.updRouter_hostMem : (d.updRouter fr).hostMem = d.hostMem := rfl
@[simp] theorem Dev.updRouter_rd : (d.updRouter fr).rd f p i j = d.rd f p i j := rfl
@[simp] theorem Dev.updRouter_pipe : (d.updRouter fr).pipe n = d.pipe n := rfl

@[simp] theorem Dev.updPipe_c : (d.updPipe p fp).c = d.c := rfl
@[simp] theorem Dev.updPipe_free : (d.updPipe p fp).free = d.free := rfl
@[simp] theorem Dev.updPipe_regs : (d.updPipe p fp).regs = d.regs := rfl
@[simp] theorem Dev.updPipe_snaps : (d.updPipe p fp).snaps = d.snaps := rfl
@[simp] theorem Dev.updPipe_held : (d.updPipe p fp).held = d.held := rfl
@[simp] theorem Dev.updPipe_rdata : (d.updPipe p fp).rdata = d.rdata := rfl
@[simp] theorem Dev.updPipe_router : (d.updPipe p fp).router = d.router := rfl
@[simp] theorem Dev.updPipe_hub : (d.updPipe p fp).hub = d.hub := rfl
@[simp] theorem Dev.updPipe_hostMem : (d.updPipe p fp).hostMem = d.hostMem := rfl
@[simp] theorem Dev.updPipe_rd : (d.updPipe n fp).rd f p i j = d.rd f p i j := rfl

/-! ### The end of a command -/

@[simp] theorem settle_c : (settle d).c = d.c := rfl
@[simp] theorem settle_free : (settle d).free = d.free := rfl
@[simp] theorem settle_regs : (settle d).regs = d.regs := rfl
@[simp] theorem settle_snaps : (settle d).snaps = d.snaps := rfl
@[simp] theorem settle_held : (settle d).held = d.held := rfl
@[simp] theorem settle_rdata : (settle d).rdata = d.rdata := rfl
@[simp] theorem settle_pipes : (settle d).pipes = d.pipes := rfl
@[simp] theorem settle_hub : (settle d).hub = d.hub := rfl
@[simp] theorem settle_hostMem : (settle d).hostMem = d.hostMem := rfl
@[simp] theorem settle_tsnap : (settle d).tsnap = d.tsnap := rfl
@[simp] theorem settle_rd : (settle d).rd f p i j = d.rd f p i j := rfl
@[simp] theorem settle_pipe : (settle d).pipe n = d.pipe n := rfl
@[simp] theorem settle_stat : (settle d).router.stat = d.router.stat := rfl
@[simp] theorem settle_ovr : (settle d).router.ovr = d.router.ovr := rfl
@[simp] theorem settle_syn : (settle d).router.syn = d.router.syn := rfl
@[simp] theorem settle_yields : (settle d).router.yields = d.router.yields := rfl
@[simp] theorem settle_aer : (settle d).router.aer = d.router.aer := rfl

end Sys2Proof.Machine
end

