-- ==== Sys2Proof/Laws/Shape.lean ====
section
/-!
SUPPORT. What a command can answer, said once: a well-formed command answers a state in which the queue is as before and the router
has settled, or, in a device that holds itself in reset, the same state.
-/
namespace Sys2Proof.Machine

/-- What an answer can be: the same state from a device held in reset, or a device that has settled. -/
def Settles (s : State) (o : Out) : Prop :=
  (s.dev.hub.boot.held.isSome = true ∧ o = .next s) ∨ ∃ d, o = .next { s with dev := settle d }

theorem runAlways_settles (s : State) (f : Dev → Dev) : Settles s (runAlways s f) := .inr ⟨f s.dev, rfl⟩

theorem run_settles (s : State) (f : Dev → Dev) : Settles s (run s f) := by
  unfold run
  split_ifs with h
  · exact .inl ⟨h, rfl⟩
  · exact runAlways_settles s f

theorem runIf_settles {ok : Bool} (h : ok = true) (s : State) (f : Dev → Dev) : Settles s (runIf ok s f) := by
  simpa [runIf, h] using run_settles s f

theorem bar2If_settles {ok : Bool} (h : ok = true) (b : BlockId) (p : Nat) (s : State) (f : Dev → Dev) :
    Settles s (bar2If ok b p s f) := by
  simpa [bar2If, h, bar2] using run_settles s _

/-- Every well-formed command answers a state, and nothing but the device's part of it changes. -/
theorem exec_settles (c : Instr) (s : State) (h : c.wf = true) : Settles s (exec c s) := by
  cases c <;> first
    | exact run_settles s _
    | exact runAlways_settles s _
    | exact runIf_settles h s _
    | exact bar2If_settles h _ _ s _
    | (simp only [exec, execColdReset, execPfailLow, execNrstRelease, execAonWake]; exact runAlways_settles s _)

end Sys2Proof.Machine
end

