-- ==== Sys2Proof/Laws/Event.lean ====
section
/-!
SUPPORT. What raising an event does, said once, and how a command of an awake device answers.
-/
namespace Sys2Proof.Machine

variable {s : State} {d : Dev}

/-! ### A command of a device that is awake -/

theorem run_awake (h : s.awake) (f : Dev → Dev) : run s f = .next (s.after (f s.dev)) := by
  simp only [State.awake] at h
  simp [run, runAlways, State.after, h]

theorem runAlways_after (s : State) (f : Dev → Dev) : runAlways s f = .next (s.after (f s.dev)) := rfl

theorem runIf_awake {ok : Bool} (h : s.awake) (k : ok = true) (f : Dev → Dev) : runIf ok s f = .next (s.after (f s.dev)) := by
  simp [runIf, k, run_awake h]

theorem bar2_reach {b : BlockId} {p : Nat} (h : s.awake) (r : s.dev.reaches b p = true) (f : Dev → Dev) :
    bar2 b p s f = .next (s.after (f s.dev)) := by simp [bar2, run_awake h, r]

theorem bar2_lost {b : BlockId} {p : Nat} (h : s.awake) (r : s.dev.reaches b p = false) (f : Dev → Dev) :
    bar2 b p s f = .next (s.after s.dev) := by simp [bar2, run_awake h, r]

theorem bar2If_reach {ok : Bool} {b : BlockId} {p : Nat} (k : ok = true) (h : s.awake) (r : s.dev.reaches b p = true)
    (f : Dev → Dev) : bar2If ok b p s f = .next (s.after (f s.dev)) := by simp [bar2If, k, bar2_reach h r]

theorem bar2Read_reach {b : BlockId} {p : Nat} (h : s.awake) (r : s.dev.reaches b p = true) (f : Dev → Dev) :
    bar2Read b p s f = .next (s.after (f s.dev)) := by simp [bar2Read, run_awake h, r]

theorem runHub_live (h : s.awake) (l : s.dev.hub.lost = false) (f : Dev → Dev) : runHub s f = .next (s.after (f s.dev)) := by
  simp [runHub, run_awake h, l]

theorem runWork_live (h : s.awake) (l : s.dev.stopped = false) (f : Dev → Dev) : runWork s f = .next (s.after (f s.dev)) := by
  simp [runWork, run_awake h, l]

/-! ### A vector's event -/

theorem vecEvent_parts (d : Dev) (v : Nat) : ∃ f : Router → Router, d.vecEvent v = d.updRouter f ∧
    ∀ r, (f r).stat = r.stat ∧ (f r).ovr = r.ovr ∧ (f r).syn = r.syn ∧ (f r).mc = r.mc ∧ (f r).yields = r.yields := by
  unfold Dev.vecEvent
  split
  · exact ⟨id, rfl, fun r => ⟨rfl, rfl, rfl, rfl, rfl⟩⟩
  · dsimp only
    split_ifs <;> exact ⟨_, rfl, fun r => ⟨rfl, rfl, rfl, rfl, rfl⟩⟩

@[simp] theorem vecEvent_regs (v : Nat) : (d.vecEvent v).regs = d.regs := by
  obtain ⟨f, h, -⟩ := vecEvent_parts d v; rw [h]; rfl
@[simp] theorem vecEvent_rd (v : Nat) (f : Fld) (p i j : Nat) : (d.vecEvent v).rd f p i j = d.rd f p i j := by simp [Dev.rd]
@[simp] theorem vecEvent_hub (v : Nat) : (d.vecEvent v).hub = d.hub := by
  obtain ⟨f, h, -⟩ := vecEvent_parts d v; rw [h]; rfl
@[simp] theorem vecEvent_pipes (v : Nat) : (d.vecEvent v).pipes = d.pipes := by
  obtain ⟨f, h, -⟩ := vecEvent_parts d v; rw [h]; rfl
@[simp] theorem vecEvent_hostMem (v : Nat) : (d.vecEvent v).hostMem = d.hostMem := by
  obtain ⟨f, h, -⟩ := vecEvent_parts d v; rw [h]; rfl
@[simp] theorem vecEvent_stat (v : Nat) : (d.vecEvent v).router.stat = d.router.stat := by
  obtain ⟨f, h, k⟩ := vecEvent_parts d v; rw [h]; exact (k _).1
@[simp] theorem vecEvent_syn (v : Nat) : (d.vecEvent v).router.syn = d.router.syn := by
  obtain ⟨f, h, k⟩ := vecEvent_parts d v; rw [h]; exact (k _).2.2.1

/-! ### The message to a leader -/

theorem peerEvent_rd (d : Dev) (e : Nat) (f : Fld) (p i j : Nat) (h : f.reg ≠ .QDL_PEER) :
    (d.peerEvent e).rd f p i j = d.rd f p i j := by
  unfold Dev.peerEvent
  split
  · split
    · dsimp only
      split
      · rfl
      · exact d.rd_wr_reg _ _ _ _ _ _ _ _ _ h
    · rfl
  · rfl

@[simp] theorem peerEvent_router (d : Dev) (e : Nat) : (d.peerEvent e).router = d.router := by
  unfold Dev.peerEvent
  split
  · split
    · dsimp only; split <;> rfl
    · rfl
  · rfl

@[simp] theorem peerEvent_pipes (d : Dev) (e : Nat) : (d.peerEvent e).pipes = d.pipes := by
  unfold Dev.peerEvent
  split
  · split
    · dsimp only; split <;> rfl
    · rfl
  · rfl

@[simp] theorem peerEvent_hostMem (d : Dev) (e : Nat) : (d.peerEvent e).hostMem = d.hostMem := by
  unfold Dev.peerEvent
  split
  · split
    · dsimp only; split <;> rfl
    · rfl
  · rfl

/-- Of what the Hub holds, only the queue of messages for the leader changes. -/
theorem peerEvent_hub (d : Dev) (e : Nat) : ∃ m, (d.peerEvent e).hub = { d.hub with qdl := { d.hub.qdl with msgs := m } } := by
  unfold Dev.peerEvent
  split
  · split
    · dsimp only; split
      · exact ⟨_, rfl⟩
      · exact ⟨_, rfl⟩
    · exact ⟨_, rfl⟩
  · exact ⟨_, rfl⟩

/-! ### Raising -/

/-- Raising an event writes no register but a follower's `QDL_PEER_OVF`. -/
theorem raise_rd (d : Dev) (e syn : Nat) (f : Fld) (p i j : Nat) (h : f.reg ≠ .QDL_PEER) :
    (d.raise e syn).rd f p i j = d.rd f p i j := by
  unfold Dev.raise
  split
  · rfl
  · dsimp only
    repeat' split
    all_goals simp [vecEvent_rd, peerEvent_rd _ _ _ _ _ _ h]

@[simp] theorem raise_pipes (d : Dev) (e syn : Nat) : (d.raise e syn).pipes = d.pipes := by
  unfold Dev.raise
  split
  · rfl
  · dsimp only
    repeat' split
    all_goals simp

@[simp] theorem raise_pipe (d : Dev) (e syn n : Nat) : (d.raise e syn).pipe n = d.pipe n := by simp [Dev.pipe]

@[simp] theorem raise_hostMem (d : Dev) (e syn : Nat) : (d.raise e syn).hostMem = d.hostMem := by
  unfold Dev.raise
  split
  · rfl
  · dsimp only
    repeat' split
    all_goals simp

/-- Raising an event changes nothing the Hub holds but a follower's messages to its leader. -/
theorem raise_hub (d : Dev) (e syn : Nat) : ∃ m, (d.raise e syn).hub = { d.hub with qdl := { d.hub.qdl with msgs := m } } := by
  unfold Dev.raise
  split
  · exact ⟨_, rfl⟩
  · dsimp only
    repeat' split
    all_goals first
      | exact peerEvent_hub _ _
      | (rw [vecEvent_hub]; exact peerEvent_hub _ _)

theorem insertNum_mem (n : Nat) (l : List Nat) : n ∈ insertNum n l := by
  induction l with
  | nil => simp [insertNum]
  | cons m t ih =>
    simp only [insertNum]
    split_ifs with h1 h2
    · simp [h1]
    · simp
    · exact List.mem_cons_of_mem _ ih

theorem mem_insertNum (m n : Nat) (l : List Nat) : m ∈ insertNum n l ↔ m = n ∨ m ∈ l := by
  induction l with
  | nil => simp [insertNum]
  | cons a t ih =>
    simp only [insertNum]
    split_ifs with h1 h2
    · subst h1; simp
    · simp
    · simp only [List.mem_cons, ih]; tauto

theorem raise_stat (d : Dev) (e syn : Nat) (h : d.hub.lost = false) : (d.raise e syn).router.stat = insertNum e d.router.stat := by
  unfold Dev.raise
  rw [if_neg (by simp [h])]
  dsimp only
  repeat' split
  all_goals simp

theorem raise_syn (d : Dev) (e syn : Nat) (h : d.hub.lost = false) :
    (d.raise e syn).router.syn = Tab.set 0 d.router.syn e (syn % 2 ^ 32) := by
  unfold Dev.raise
  rw [if_neg (by simp [h])]
  dsimp only
  repeat' split
  all_goals simp

/-- The event stands with its syndrome. -/
theorem raise_raised (d : Dev) (e syn : Nat) (h : d.hub.lost = false) : Raised (settle (d.raise e syn)) e syn := by
  refine ⟨?_, ?_⟩
  · rw [settle_stat, raise_stat d e syn h]; exact insertNum_mem _ _
  · rw [settle_syn, raise_syn d e syn h]; simp

end Sys2Proof.Machine
end

