-- ==== Sys2Proof/Tests/Slice0.lean ====
section
/-!
SUPPORT. The package's own tests. Each `test_` theorem is about one operation or one command; its comment names where the expected value
comes from. Each `wit_` theorem shows a state and operands that meet the hypotheses of the clauses of the statement it is named after (one
that meets a clause with more hypotheses stands for those with fewer); the states are made from the state of reset by small changes.
-/
open Sys2Proof Sys2Proof.Machine
namespace Sys2Proof.Tests
set_option Elab.async false

/-! ### Building states -/

/-- A device made from that of reset by small changes, first to last. -/
def dv (fs : List (Dev → Dev)) : Dev := fs.foldl (fun d f => f d) State.reset.dev
/-- The state of that device, with no command waiting. -/
def st (fs : List (Dev → Dev)) : State := { dev := dv fs }
def pt (d : Dev) (p : Nat) (f : PipeSt → PipeSt) : Dev := d.updPipe p f
def hb (d : Dev) (f : HubSt → HubSt) : Dev := d.updHub f
def modPipe (d : Dev) (p : Nat) (f : PipeSt → PipeSt) : Dev := d.updPipe p f
def modCask (d : Dev) (u k : Nat) (f : Cask → Cask) : Dev := d.setCask u k (f (d.cask u k))
def putLanes (d : Dev) (u : Nat) (f : Lanes → Lanes) : Dev :=
  if u = 4 then hb d fun h => { h with lanes := f h.lanes } else pt d u fun x => { x with lanes := f x.lanes }
def modRole (d : Dev) (u r : Nat) (f : Role → Role) : Dev := putLanes d u fun l => { l with roles := Tab.upd {} l.roles r f }
def modLane (d : Dev) (u k : Nat) (f : LaneSt → LaneSt) : Dev := putLanes d u fun l => { l with lanes := Tab.upd {} l.lanes k f }
def modRch (d : Dev) (u c : Nat) (f : RackCh → RackCh) : Dev :=
  let g := fun (x : Rack) => { x with chs := Tab.upd {} x.chs c f }
  if u = 4 then hb d fun h => { h with rack := g h.rack } else pt d u fun x => { x with rack := g x.rack }
def modPress (d : Dev) (u : Nat) (f : Press → Press) : Dev :=
  if u = 4 then hb d fun h => { h with press := f h.press } else pt d u fun x => { x with press := f x.press }
def modPanel (d : Dev) (o : Nat) (f : Panel → Panel) : Dev := hb d fun h => { h with panels := Tab.upd {} h.panels o f }
def modPasm (d : Dev) (g : Nat) (f : Pasm → Pasm) : Dev := hb d fun h => { h with pasm := Tab.upd {} h.pasm g f }
def modAsmG (d : Dev) (g : Nat) (f : AsmGroup → AsmGroup) : Dev := hb d fun h => { h with asm := Tab.upd {} h.asm g f }
def modCel (d : Dev) (p : Nat) (f : Slice → Slice) : Dev := pt d p fun x => { x with cel := f x.cel }
def modTq (d : Dev) (p t : Nat) (f : TakeQ → TakeQ) : Dev := pt d p fun x => { x with takes := Tab.upd {} x.takes t f }
def modSfe (d : Dev) (p : Nat) (f : Sfe → Sfe) : Dev := pt d p fun x => { x with sfe := f x.sfe }
def modVc (d : Dev) (p v : Nat) (f : SfeVc → SfeVc) : Dev := modSfe d p fun x => { x with vcs := Tab.upd {} x.vcs v f }
def modVru (d : Dev) (p u : Nat) (f : VrsUnit → VrsUnit) : Dev := pt d p fun x => { x with vrs := Tab.upd {} x.vrs u f }
def modVrsBack (d : Dev) (p u t : Nat) (f : VrsTab → VrsTab) : Dev :=
  modVru d p u fun x => { x with tabs := Tab.upd {} x.tabs (2 * t + (1 - d.vrsActive p u t)) f }
def modSctx (d : Dev) (p x : Nat) (f : StatCtx → StatCtx) : Dev := pt d p fun y => { y with stats := Tab.upd {} y.stats x f }
def modTrl (d : Dev) (p : Nat) (f : Trl → Trl) : Dev := pt d p fun x => { x with trl := f x.trl }
def modDram (d : Dev) (p : Nat) (f : Dram → Dram) : Dev := pt d p fun x => { x with dram := f x.dram }
def modEth (d : Dev) (p q : Nat) (f : EthPort → EthPort) : Dev := pt d p fun x => { x with eth := Tab.upd {} x.eth q f }
def modBs (d : Dev) (p c k : Nat) (f : BlkStream → BlkStream) : Dev := pt d p fun x => { x with blk := Tab.upd {} x.blk (4 * c + k) f }
def modEnc (d : Dev) (p v : Nat) (f : PxrEnc → PxrEnc) : Dev := pt d p fun x => { x with encs := Tab.upd {} x.encs v f }
def modLiveOut (d : Dev) (p o : Nat) (f : LiveOut → LiveOut) : Dev := pt d p fun x => { x with live := Tab.upd {} x.live o f }
def modAdc (d : Dev) (x : Nat) (f : Adc → Adc) : Dev := { d with hub.sense.adcs := Tab.upd {} d.hub.sense.adcs x f }
def modPwm (d : Dev) (x : Nat) (f : Pwm → Pwm) : Dev := { d with hub.sense.pwms := Tab.upd {} d.hub.sense.pwms x f }
def modNsEnt (d : Dev) (p k : Nat) (f : NsEnt → NsEnt) : Dev := modCel d p fun x => { x with cart.nss := Tab.upd {} x.cart.nss k f }
def modStrm (d : Dev) (p k : Nat) (f : Strm → Strm) : Dev := modCel d p fun x => { x with strms := Tab.upd {} x.strms k f }
def setReach (d : Dev) (b : BlockId) (p : Nat) : Dev :=
  let d := (({ d with hub.lost := false } : Dev).wr F.HUB_FALLOW_ACTIVE 0)
  if pipeBlocks.contains b && p < 4 && !(b == .PCTL) && !(d.pipeReach p) then (d.wr F.PCTL_STAT_STATE 3 p).wr F.PCTL_STAT_GATE_LATCH 0 p else d
def setPipeRuns (d : Dev) (b : Bool) (p : Nat) : Dev := d.wr F.PCTL_STAT_STATE (if b then 3 else 2) p
def setPowered (d : Dev) (b : Bool) (p : Nat) : Dev := d.wr F.PCTL_STAT_STATE (if b then 2 else 0) p
def setInArun (d : Dev) (b : Bool) (p : Nat) : Dev := d.wr F.PCTL_STAT_STATE (if b then 4 else 3) p
def setSfeFlows (d : Dev) (b : Bool) (p : Nat) : Dev := (d.wr F.LANE_ROLE_STAT_STATE (if b then 4 else 2) p 0).wr F.LANE_SCFG_SMODE 1 p
def shutTakes (d : Dev) (p : Nat) : Dev := (List.range 8).foldl (fun d t => d.wr F.CELP_TQ_STAT_STATE 0 p t) d
def setTakesShut (d : Dev) (b : Bool) (p : Nat) : Dev := if b then shutTakes d p else d.wr F.CELP_TQ_STAT_STATE 2 p 3
def setHostOk (d : Dev) (b : Bool) : Dev :=
  let d := ((d.wr F.QDL_CTL_EN 0).wr F.HUB_PCIE_STAT_DLUP (if b then 1 else 0)).wr F.HUB_PCIE_STAT_BME 1
  (if b then { d with hub.lost := false } else d).wr F.HUB_PCIE_STAT_FLR 0
def setIsFollower (d : Dev) (b : Bool) : Dev := if b then (d.wr F.QDL_CTL_EN 1).wr F.QDL_ID_DEVID 1 else d.wr F.QDL_CTL_EN 0
def setQdlUp (d : Dev) (b : Bool) (q : Nat) : Dev := d.wr F.QDL_PEER_STATE (if b then 3 else 1) 0 q
def setNvLive (d : Dev) (b : Bool) : Dev := if b then { d with hub.lost := false, hub.nvme.rdy := true } else { d with hub.nvme.rdy := false }
def setAttempting (d : Dev) (b : Bool) : Dev := if b then { d with hub.boot.released := true, hub.boot.good := false, hub.boot.want := none } else d
def setStopped (d : Dev) (b : Bool) : Dev := { d with hub.therm.kind := if b then some 1 else none }
def setNvStopped (d : Dev) (b : Bool) : Dev := if b then d else { d with hub.therm.kind := none, hub.boot.stby := none }
def setSlotOpen (d : Dev) (b : Bool) (_o : Nat) : Dev :=
  if b then [0, 1, 2, 3].foldl (fun d p => (d.wr F.PCTL_STAT_STATE 3 p).wr F.PCTL_STAT_GATE_LATCH 0 p) (({ d with hub.lost := false } : Dev).wr F.HUB_FALLOW_ACTIVE 0)
  else d.wr F.HUB_FALLOW_ACTIVE 1
def setSlotUp (d : Dev) (b : Bool) (x : Nat) : Dev :=
  if b then ((({ d with hub.lost := false } : Dev).wr F.HUB_FALLOW_ACTIVE 0).wr F.QDL_CTL_EN 0).wr F.QDL_PEER_STATE 3 0 (x - 1)
  else d.wr F.QDL_PEER_STATE 1 0 (x - 1)
def setOwnSlot (d : Dev) (b : Bool) (x : Nat) : Dev := if b then (d.wr F.QDL_CTL_EN 1).wr F.QDL_ID_DEVID x else d.wr F.QDL_CTL_EN 0
def setSensorLive (d : Dev) (b : Bool) (u k : Nat) : Dev := (setPowered d true u).wr (sensFlds u).2.1 (if b then 0 else 1) (u % 4) k
def setCaskReady (d : Dev) (b : Bool) (u k : Nat) : Dev :=
  modCask ((d.wr F.CASK_CFG_EN 1 u k).wr F.CASK_STAT_CREDITS (if b then 5 else 0) u k) u k fun x => { x with next := none }
def setCaskTimerOn (d : Dev) (b : Bool) (u k : Nat) : Dev := d.wr F.CASK_TTO_UNIT (if b then 1 else 0) u k
def setRackHostOk (d : Dev) (b : Bool) (u : Nat) : Dev := let d := setHostOk d b; if b && u < 4 then setInArun d false u else d
def setRackHostRing (d : Dev) (b : Bool) (u c : Nat) : Dev := d.wr F.RACK_CH_CFG_RLOC (if b then 1 else 0) u c
def setPressHostRing (d : Dev) (b : Bool) (u r : Nat) : Dev := d.wr F.PRESS_RING_CFG_RLOC (if b then 1 else 0) u r
def setMonOn (d : Dev) (b : Bool) (p : Nat) : Dev := ((d.wr F.TRL_MON_SEL_EN (if b then 1 else 0) p).wr F.TRL_MON_SEL_ELEM 5 p).wr F.TRL_MON_SEL_WIN 1 p
def setRegionStaged (d : Dev) (b : Bool) (p r : Nat) : Dev :=
  { d with hub.cuvl.regs := if b then (p, r) :: d.hub.cuvl.regs else d.hub.cuvl.regs.filter (· != (p, r)) }
def setInputsPassed (d : Dev) (b : Bool) (_p _r : Nat) : Dev := if b then d else d
def setRefOk (d : Dev) (_b : Bool) (u _r : Nat) : Dev := putLanes d u fun l => { l with bad := [] }
def setRefDeclared (d : Dev) (b : Bool) (u i : Nat) : Dev :=
  if i = 2 then d.wr F.LANE_REFCFG_SREF (if b then 1 else 0) u else if i = 1 then d.wr F.LANE_REFCFG_FREFB (if b then 1 else 0) u
  else d.wr F.LANE_REFCFG_FREFA (if b then 1 else 0) u
def setVrsRoom (d : Dev) (b : Bool) (p u : Nat) : Dev :=
  if b then modTrl d p fun t => { t with roots := [] }
  else d.putRoot p (.vrs (u / 2) (2 * (u % 2) + 1)) { toks := [⟨1, {}⟩, ⟨2, {}⟩] }
def setBsOn (d : Dev) (b : Bool) (p c k : Nat) : Dev := (d.wr F.BLK_CTXCFG_EN 1 p c).wr F.BLK_SCFG_EN (if b then 1 else 0) p c k
def setBsTiled (d : Dev) (b : Bool) (p c k : Nat) : Dev := d.wr F.BLK_SCFG_TILED (if b then 1 else 0) p c k
def setCtxBusy (d : Dev) (b : Bool) (p c : Nat) : Dev :=
  if b then d else [0, 1, 2, 3].foldl (fun d k => modBs d p c k fun x => { x with job := none }) d
/-- A map of one region from 0 on. -/
def setDramMap (d : Dev) (p : Nat) : Dev :=
  (((d.wr F.DRC_MAP_CFG_EN 1 p).wr F.DRC_RGN_BASE_EN 1 p 0).wr F.DRC_RGN_BASE_BASE 0 p 0).wr F.DRC_RGN_SIZE_SIZE 2000 p 0
def setDramInMap (d : Dev) (b : Bool) (p _a _n : Nat) : Dev := if b then setDramMap d p else d.wr F.DRC_MAP_CFG_EN 0 p
def setFchgTurn (d : Dev) (b : Bool) (p : Nat) : Dev :=
  if b then { [0, 1, 2, 3].foldl (fun d q => if q = p then d else modDram d q fun x => { x with phase := 0 }) d with hub.fchgOrder := [p] }
  else modDram d ((p + 1) % 4) fun x => { x with phase := 3 }
def setEthUp (d : Dev) (b : Bool) (p q : Nat) : Dev := (d.wr F.NET_PORT_CFG_EN 1 p q).wr F.LANE_ROLE_STAT_STATE (if b then 4 else 2) p (1 + q)
def setEthAccepts (d : Dev) (_b : Bool) (_p _q : Nat) (_bs : List Byte) : Dev := d
def setIsPtpPort (d : Dev) (b : Bool) (p q : Nat) : Dev := ((d.wr F.TIME_PTP_EN (if b then 1 else 0)).wr F.TIME_PTP_PIPE p).wr F.TIME_PTP_PORT q
def setEthWhole (d : Dev) (b : Bool) (p q : Nat) : Dev := modEth d p q fun x => { x with item := [⟨0, b, false, false⟩] }
def setLiveOn (d : Dev) (b : Bool) (p o : Nat) : Dev := ((d.wr F.NET_LO_CFG_EN (if b then 1 else 0) p o).wr F.NET_LO_RATE_NUM 30 p o).wr F.NET_LO_RATE_DEN 1 p o
def setLiveStopped (d : Dev) (b : Bool) (p o : Nat) : Dev :=
  modPipe (setInArun d false p) p fun x => { x with pace.lives := if b then [(o, 1)] else [] }
def setLiveReady (d : Dev) (b : Bool) (p o : Nat) : Dev :=
  setEthUp (d.wr F.NET_LO_CFG_KIND 0 p o) b p (d.rd F.NET_LO_CFG_PORT p o)
def setLiveTplOk (d : Dev) (_b : Bool) (p o : Nat) : Dev :=
  ((d.wr F.NET_LO_PKT_VLAN 0 p o).wr F.NET_LO_HDR_BYTES 0x00450008 p o 3)
def setPanelReach (d : Dev) (b : Bool) (o r : Nat) : Dev :=
  if b then (setHostOk d true) else
  ((setHostOk d false).wr F.PANEL_SURF_CFG_LOC0 0 0 o).wr F.PANEL_SURF_CFG_LOC1 0 0 o |>.wr F.PANEL_RGN_A_SRC 0 0 o r
def setAudEn (d : Dev) (b : Bool) (x : Nat) : Dev := (d.wr F.AUD_PCFG_EN 1 0 (x / 2)).wr F.AUD_XCFG_EN (if b then 1 else 0) 0 (x / 2) (x % 2)
def setAudAsrc (d : Dev) (b : Bool) (x : Nat) : Dev := d.wr F.AUD_XCFG_ASRC (if b then 1 else 0) 0 (x / 2) (x % 2)
def setPsOperational (d : Dev) (_b : Bool) : Dev := { d with hub.nvme.trans := 0, hub.nvme.ps := 0 }
def setLockFree (d : Dev) (b : Bool) (p q cid : Nat) : Dev :=
  modCel d p fun x => { x with locks := if b then [] else [⟨0, 0, 8, true, q + 1, 3⟩, ⟨0, 4, 8, true, q, cid⟩] }
def setLockBlocks (d : Dev) (_b : Bool) (p _ns _lba _n : Nat) : Dev := modCel d p fun x => { x with locks := [] }
def setRngOk (d : Dev) (_b : Bool) : Dev := (d.wr F.SECU_STAT_DRBG 1).wr F.SECU_STAT_KEYSLOST 0
def setCelWork (d : Dev) (b : Bool) (p : Nat) : Dev :=
  if b then { d with hub.nvme.san := Tab.put d.hub.nvme.san p 2 }
  else modCel { d with hub.nvme.san := Tab.del d.hub.nvme.san p } p fun x => { x with cart.nss := [] }
def setNsBusy (d : Dev) (b : Bool) (p k : Nat) : Dev :=
  if b then modStrm d p 0 fun x => { x with open_ := true, ns := k } else pt (modCel d p fun x => { x with strms := [] }) p fun x => { x with takes := [] }
def setRbAbove (d : Dev) (_b : Bool) (_p _r : Nat) : Dev := d
def setTakeAnywhere (d : Dev) (b : Bool) : Dev :=
  if b then d.wr F.PCTL_STAT_TAKE 1 2 else { [0, 1, 2, 3].foldl (fun d p => d.wr F.PCTL_STAT_TAKE 0 p) d with hub.qdl.openTakes := [] }
def setBistHolds (d : Dev) (b : Bool) (cls p idx : Nat) : Dev :=
  if b then ((((d.wr F.BIST_STAT_BUSY 1).wr F.BIST_STAT_PHASE 2).wr F.BIST_CMD_CLASS cls).wr F.BIST_CMD_PIPE p).wr F.BIST_CMD_INDEX idx
  else d.wr F.BIST_STAT_BUSY 0
def setPtpTakes (d : Dev) (b : Bool) (dom : Nat) : Dev :=
  if b then (({ d with hub.lost := false } : Dev).wr F.TIME_PTP_EN 1 |>.wr F.QDL_CTL_EN 0).wr F.TIME_PTP_DOMAIN dom else d.wr F.TIME_PTP_EN 0
def setSliceFull (d : Dev) (_b : Bool) (p : Nat) : Dev := modCel d p fun x => { x with locks := [] }
def setWriteOpen (d : Dev) (_b : Bool) (_l : RegLoc) : Dev := d.wr F.BIST_STAT_BUSY 0
def setSlotOf (d : Dev) (b : Bool) (u k : Nat) : Dev :=
  if u = 4 then (d.wr F.QDL_CTL_EN (if b then 1 else 0)).wr F.QDL_CTL_PORTEN 7
  else if k < 6 then (d.wr F.LANE_SCFG_SMODE (if b then 1 else 0) u).wr F.LANE_SCFG_SMASK (if b then 63 else 0) u
  else d.wr F.LANE_FCFG_ROLE (if b then (if k % 2 = 0 then 1 else 3) else 0) u (k - 6)
def setInStage (d : Dev) (b : Bool) (u k v : Nat) : Dev :=
  let d := setSlotOf d true u k
  match d.slotOf u k with
  | some r => modRole (d.wr F.LANE_STAT_STAGE (if b then v else v + 1) u k) u r fun x => { x with attempt := true }
  | none => d
def setUopReady (d : Dev) (_b : Bool) (_p _e : Nat) : Dev := d
/-- A coded unit's header with its checks (R395): an empty picture that starts a sequence. -/
def blkUnit : List Byte :=
  let b : List Byte := leBytes 4 0x554B4C42 ++ [0, 1] ++ List.replicate 24 0
  b ++ leBytes 2 (crc32c b % 2 ^ 16)
/-- A stream descriptor (R325). -/
def pxrDesc : List Byte :=
  withCrc (leBytes 4 0x44525850 ++ [1] ++ List.replicate 0x53 0 ++ leBytes 4 1 ++ leBytes 4 2 ++ leBytes 4 3 ++ List.replicate 0x18 0)
/-- A frame unit of that stream. -/
def pxrUnit : List Byte :=
  withCrc (leBytes 4 0x46525850 ++ [1] ++ List.replicate 27 0 ++ pxrDesc.drop 0x7C ++ List.replicate 24 0)
/-- A signed firmware image (R643): header, four bytes of code, signature block; its key is `fwKey`. -/
def fwKey : List Byte := beBytes 96 0xfbf96095915eb587390f850ec95b35f618ae121c72a70808ad8f9f4c261b602b63541743e395f7c778e52bb28c18dc83016a6ff3f72c9368326ad50a3bd148a53cd2213bb480e4730ad019db87ae100995ec65df011e19811a15dc9ddfc9ab3c
def fwImg : List Byte :=
  leBytes 4 0x49425850 ++ leBytes 2 1 ++ leBytes 2 128 ++ leBytes 4 388 ++ leBytes 4 64 ++ leBytes 2 0x4410 ++ List.replicate 114 0 ++
  leBytes 2 1 ++ leBytes 2 3 ++ List.replicate 12 0 ++ fwKey ++ beBytes 96 0x7ae9e1db1160794c70c1ef071be5191f6c66240f4608fbe8a44ecd36c3ed5db97500f2e4d84e3fb45850fd6f4303302b7aeea93675395477134d97ac442812c59cc9a9bc90b823eec1331944d47146d815759af4dbc677ff6098a25b19e14c68 ++ List.replicate 48 0
/-- The image in the transfer buffer, its key's digest in verification slot 3. -/
def fwDev (d : Dev) : Dev :=
  { d.wr F.HUB_LCS_STATE 3 with hub.nvme.fw := Mem.writes [] 0 fwImg, hub.secu.slots := [(3, { bytes := sha384 fwKey, cls := 3, use := 3 })] }
/-- The device a command leaves, where it answers a next state. -/
def after (c : Instr) (s : State) : Option Dev := match exec c s with | .next t => some t.dev | _ => none

/-! ### Well-formedness: a term for each check, refused -/

/-- A pipe has 128 casks, the Hub 64 (R93). -/
theorem test_wf_casks : (Instr.caskWrite 4 64 0 ⟨0, false, false, false⟩).wf = false ∧ (Instr.caskRead 4 64 0 .ok).wf = false ∧
    (Instr.caskCreditReturn 4 64).wf = false ∧ (Instr.caskTailTimeout 4 64).wf = false ∧ (Instr.caskFlush 4 64).wf = false ∧
    (Instr.caskSwitch 4 64).wf = false ∧ (Instr.caskFlush 4 63).wf = true ∧ (Instr.caskFlush 3 127).wf = true := by decide +kernel

/-- A pipe has 16 racking channels, the Hub 8 (R116). -/
theorem test_wf_racking : (Instr.rackTailWrite 4 8 0).wf = false ∧ (Instr.rackDescStart 4 8).wf = false ∧
    (Instr.rackDescWriteback 4 8).wf = false ∧ (Instr.rackAbort 4 8).wf = false ∧ (Instr.rackResume 4 8).wf = false ∧
    (Instr.rackChDisable 4 8).wf = false ∧ (Instr.rackAbort 4 7).wf = true ∧ (Instr.rackAbort 0 15).wf = true := by decide +kernel

/-- A pipe has four Press rings, the Hub three (R527). -/
theorem test_wf_press : (Instr.pressTailWrite 4 3 0).wf = false ∧ (Instr.pressAbort 4 3).wf = false ∧ (Instr.pressResume 4 3).wf = false ∧
    (Instr.pressRingDisable 4 3).wf = false ∧ (Instr.pressAbort 4 2).wf = true ∧ (Instr.pressAbort 2 3).wf = true := by decide +kernel

/-- A pipe has twelve lanes and seven role slots, the Hub six lanes and three ports (R218, R223). -/
theorem test_wf_lanes : (Instr.laneAttemptStart 4 3).wf = false ∧ (Instr.laneSignalDetect 4 6).wf = false ∧
    (Instr.laneCdrLock 4 6).wf = false ∧ (Instr.laneCtleChosen 4 6 0).wf = false ∧ (Instr.laneBlockLock 4 6).wf = false ∧
    (∀ b, (Instr.trainingBlockReceived 4 6 b).wf = false) ∧ (Instr.laneStageTimeout 4 6).wf = false ∧
    (∀ v, (Instr.dataBlockReceived 4 6 v).wf = false) ∧ (∀ c, (Instr.laneLoss 4 6 c).wf = false) ∧
    (Instr.laneRetryExpiry 4 3).wf = false ∧ (Instr.laneCtleTrack 4 6 0).wf = false ∧ (Instr.laneTxfirWrite 4 6 0).wf = false ∧
    (Instr.lanePrbsCtlWrite 4 6 0).wf = false ∧ (∀ a b c, (Instr.prbsLockChange 4 6 a b c).wf = false) ∧
    (Instr.laneStageTimeout 4 5).wf = true ∧ (Instr.laneStageTimeout 3 11).wf = true := by
  refine ⟨?_, ?_, ?_, ?_, ?_, ?_, ?_, ?_, ?_, ?_, ?_, ?_, ?_, ?_, ?_, ?_⟩ <;> first | rfl | (intros; rfl)

/-- A pipe has six temperature sensors, the Hub four (R630). -/
theorem test_wf_sensors : (Instr.thermConversion 4 4 0).wf = false ∧ (∀ b, (Instr.thermSelfCheck 4 4 b).wf = false) ∧
    (Instr.thermConversion 4 3 0).wf = true ∧ (Instr.thermConversion 3 5 0).wf = true := ⟨rfl, fun _ => rfl, rfl, rfl⟩

/-- The fractions of one monitor window make at most 256. -/
theorem test_wf_monitor : (Instr.trlMonWindowEnd 0 255 1 1).wf = false ∧ (Instr.trlMonWindowEnd 0 255 1 0).wf = true := ⟨rfl, rfl⟩

/-- The machine stops at an ill-formed command, and the table gives no row bits. -/
theorem test_ill_formed : exec (.caskFlush 4 64) State.reset = .fault .illFormed ∧ decodeTableWord 32 5 = none ∧
    State.reset.withFetchWord 32 5 = State.reset := ⟨rfl, rfl, rfl⟩

/-! ### Codes and sums -/

/-- R563: events 0, 539, 540 and 541 use vectors 1, 540, 0 and 541. -/
theorem test_vectors : vectorOf 0 = 1 ∧ vectorOf 539 = 540 ∧ vectorOf 540 = 0 ∧ vectorOf 541 = 541 := by decide

/-- The check values of CRC-32C, CRC-32 and Adler-32 over the digits 1 to 9, as those codes are published. -/
theorem test_check_values : crc32c ([0x31, 0x32, 0x33, 0x34, 0x35, 0x36, 0x37, 0x38, 0x39] : List Byte) = 0xE3069283 ∧
    crc32 ([0x31, 0x32, 0x33, 0x34, 0x35, 0x36, 0x37, 0x38, 0x39] : List Byte) = 0xCBF43926 ∧
    adler32 ([0x31, 0x32, 0x33, 0x34, 0x35, 0x36, 0x37, 0x38, 0x39] : List Byte) = 0x091E01DE := by decide +kernel

/-- The pieces of the worked example of chapter 12: 256 LBAs from 1,000, and 64 from 1,100. -/
theorem test_pieces : cutPieces 1000 256 = [(1000, 24), (1024, 128), (1152, 104)] ∧ cutPieces 1100 64 = [(1100, 64)] := by decide +kernel

/-- The frame of the worked example of chapter 20: the instant 1,700,000,010 s is media frame 81,600,000,480,000. -/
theorem test_media_frame : mediaFrom (256 * 1700000010000000000) = 81600000480000 := by decide +kernel

/-- The geometry of the worked example of chapter 10: planes R and G in even rows, B and C in odd ones. -/
def exampleGeo : PxrGeo :=
  { bits := 14, width := 7, lines := 64, pw := 2, ph := 2, x0 := 4032, sites := [0x00, 0x10, 0, 0, 0, 0, 0, 0, 0x20, 0x30] }

/-- Chapter 10: RANGE 16,384 and a context that starts with A = 256 and N = 1. -/
theorem test_pxr_parameters : exampleGeo.range 0 = 16384 ∧ bitsFor 16384 = 14 ∧ exampleGeo.an0 = (256, 1) := by decide +kernel

/-- Chapter 10: the bits of the first four R samples 980, 980, 980 and 981. -/
theorem test_pxr_first_samples :
    (exampleGeo.codeSegment 0 0 0 [] [980, 0, 980, 0, 980, 0, 981] 8 (exampleGeo.segment 0 0) {}).bits =
      false :: (List.replicate 17 false ++ true :: bitsMsb 14 14422) ++ [true, true, false] ++ true :: bitsMsb 12 2 := by decide +kernel

/-- Chapter 4: the words of entries 3 and 4 of the vertical filter, ADD with saturation and (G2 × K0 + G3) >> 2 with rounding. -/
theorem test_filter_words :
    aluResult (Uop.ofWord 0x0820700040000000) (lanes 10 20) (lanes 30 50) 0 = lanes 40 70 ∧
    aluResult (Uop.ofWord 0x1432041406000000) (lanes 100 201) 0x00020002 (lanes 40 70) =
      lanes ((2 * 100 + 40 + 2) / 4) ((2 * 201 + 70 + 2) / 4) ∧ (Uop.ofWord 0x1432041406000000).last = true := by decide +kernel

/-! ### Commands -/

/-- R197: GO in IDLE is refused with the GO bit of `CUVL_REFUSE`. -/
theorem test_cuvl_go_refused : (after .cuvlGo State.reset).map (fun d => (d.rd F.CUVL_REFUSE_GO, d.cuvState)) = some (1, 0) := by
  decide +kernel

/-- Chapter 21: the fourth scan of the worked example: raw code 32,767 in range 1 of channel 5 is clipped, word 0x6943_7FFF, next range 0. -/
theorem test_adc_example : (after (.adcConversionDone 0 32767 false)
    (st [(·.wr F.SENSE_ADC_LIST_CH 5 0 0), fun d => (d.putAdc 0 { entry := some 0, ch := 5, rng := 1, auto_ := true }).putAdcCh 5 { rng := some 1, seq := 3 }])).map
      (fun d => (d.rd F.SENSE_ADC_RES_DATA 0 5, (d.adcCh 5).rng, d.router.stat.contains 576)) = some (0x69437FFF, some 0, true) := by decide +kernel

/-- Chapter 23: a press of 9.2 s gives PRESS 920 and asks for a warm reset of cause 2 with the Fallow reason of a long press; one of 7.99 s
asks for one of cause 1 with no reason. -/
theorem test_presses : (after (.nrstRelease 920) (st [fun d => { d with hub.boot.nrst := some true, hub.boot.released := true }])).map
      (fun d => (d.rd F.HUB_RST_CAUSE_PRESS, d.hub.boot.want)) = some (920, some (2, some 2)) ∧
    (after (.nrstRelease 799) (st [fun d => { d with hub.boot.nrst := some true, hub.boot.released := true }])).map
      (fun d => (d.rd F.HUB_RST_CAUSE_PRESS, d.hub.boot.want)) = some (799, some (1, none)) := by decide +kernel

/-- R10 and R12: a write of a plain register changes its 27 bits, and the low word of a pair waits for the high word (R7). -/
theorem test_register_writes : (after (.registerWrite 140 0xFFFFFFFF) State.reset).map (·.rd F.HUB_FLASH_LEN_LEN) = some (2 ^ 27 - 1) ∧
    (after (.pairLowWrite 128 0x104) State.reset).map (fun d => (d.rd F.HUB_FLASH_SRC_LO_ADDR_LO, d.held)) = some (0, [(128, 0x104)]) := by
  decide +kernel

/-- R7: the write of the high word applies both words. -/
theorem test_pair_write : (after (.pairHighWrite 132 7) (st [fun d => { d with held := [(128, 0x104)] }])).map
    (fun d => (d.rd64 F.HUB_FLASH_SRC_LO_ADDR_LO F.HUB_FLASH_SRC_HI_ADDR_HI, d.held)) = some (7 * 2 ^ 32 + 0x104, []) := by decide +kernel

/-- R12: a read of an address with no register returns 0. -/
theorem test_read_hole : (after (.pairLowRead 0x3C0000) (st [fun d => { d with rdata := 5 }])).map (·.rdata) = some 0 := by decide +kernel

/-- R91: PWRUP takes a pipe that is OFF to RESET. -/
theorem test_power_up : (after (.pctlPwrup 2) State.reset).map (·.rd F.PCTL_STAT_STATE 2) = some 1 := by decide +kernel

/-- R97 and R98: a word uses one credit and waits in the cask. -/
theorem test_cask_write : (after (.caskWrite 1 5 0x2003 ⟨77, true, false, false⟩)
    (st [(·.wr F.CASK_CFG_EN 1 1 5), (·.wr F.CASK_BIND_PROD 0x2003 1 5), (·.wr F.CASK_STAT_CREDITS 3 1 5)])).map
      (fun d => (d.rd F.CASK_STAT_CREDITS 1 5, (d.cask 1 5).words.map (·.data))) = some (2, [77]) := by decide +kernel

/-- R627: a change of both inputs at once is an error and counts nothing; one shorter than the filter does not act. -/
theorem test_encoder : (after (.encTransition 1 ⟨true, true, 100⟩) (st [(·.wr F.OPIO_ENC_CFG_EN 1 0 1), (·.wr F.OPIO_ENC_CFG_FILT 1 0 1)])).map
      (fun d => (d.rd F.OPIO_ENC_POS_POS 0 1, d.cnt C.OPIO_ENC_ERR 0 1)) = some (0, 1) ∧
    (after (.encTransition 1 ⟨true, true, 99⟩) (st [(·.wr F.OPIO_ENC_CFG_EN 1 0 1), (·.wr F.OPIO_ENC_CFG_FILT 1 0 1)])).map
      (·.cnt C.OPIO_ENC_ERR 0 1) = some 0 := by decide +kernel

/-- R567: a W1C of word 0 of `EVT_STAT` clears bit 23, the status of event 535 (the worked example of chapter 18). -/
theorem test_evt_clear : (after (.evtStatClear 0 0x800000) (st [fun d => { d with router.stat := [535, 536] }])).map (·.router.stat) =
    some [536] := by decide +kernel

/-- R401: a doorbell value beyond the queue is an error and leaves the tail. -/
theorem test_doorbell : (after (.sqDoorbell 3 9) (st [(setNvLive · true), fun d => { d with hub.nvme.sqs := [(3, { size := 8 })] }])).map
    (fun d => (Tab.find d.hub.nvme.sqs 3).map (·.tail)) = some (some 0) ∧
    (after (.sqDoorbell 3 7) (st [(setNvLive · true), fun d => { d with hub.nvme.sqs := [(3, { size := 8 })] }])).map
    (fun d => (Tab.find d.hub.nvme.sqs 3).map (·.tail)) = some (some 7) := by decide +kernel

/-- R633: a reading of 25 °C, in sixteenths, is shown valid; one above 150 °C makes the sensor faulty. -/
theorem test_thermal : (after (.thermConversion 4 1 400) State.reset).map (fun d => (d.rd F.THERM_SENS_TEMP 0 1, d.on F.THERM_SENS_VALID 0 1)) =
    some (400, true) ∧ (after (.thermConversion 4 1 2401) State.reset).map (·.on F.THERM_SENS_VALID 0 1) = some false := by decide +kernel

/-- R490: an idle step advances the counter by 1,024. -/
theorem test_idle : step State.reset = .next { pending := [], dev := { State.reset.dev with c := 1024 } } := rfl

/-- A step runs the command at the front and keeps the rest. -/
theorem test_step : (match step { State.reset with pending := [.pctlPwrup 2, .cuvlGo] } with
    | .next t => some (t.pending, t.dev.rd F.PCTL_STAT_STATE 2) | _ => none) = some ([.cuvlGo], 1) := by decide +kernel

/-! ### Witnesses -/

/-- Every state and command meet the hypotheses of a frame somewhere: a well-formed command answers a next state from the state of reset. -/
theorem wit_Frames : (Instr.cuvlGo).wf = true ∧ State.reset.awake ∧ (∃ t, exec .cuvlGo State.reset = .next t) := ⟨rfl, rfl, _, rfl⟩

/-- The clauses of the statements about every command. -/
theorem wit_EveryCommandAnswers : (∃ c : Instr, c.wf = false) ∧ (∃ c : Instr, ∃ s : State, c.wf = true ∧ s.awake) ∧
    (∃ c : Instr, ∃ s : State, c.wf = true ∧ ¬ s.awake ∧ actsOffline c = true) ∧
    (∃ c : Instr, ∃ s : State, c.wf = true ∧ ¬ s.awake ∧ actsOffline c = false) :=
  ⟨⟨.caskFlush 4 64, rfl⟩, ⟨.cuvlGo, State.reset, rfl, rfl⟩,
   ⟨.supPgRise, st [fun d => { d with hub.boot.held := some .standby }], rfl, by decide +kernel, rfl⟩,
   ⟨.cuvlGo, st [fun d => { d with hub.boot.held := some .standby }], rfl, by decide +kernel, rfl⟩⟩

/-- A settled state with a command waiting. -/
theorem wit_SettledKept : ∃ s : State, s.pending ≠ [] ∧ s.dev.settled ∧ ∀ c ∈ s.pending, c.wf = true :=
  ⟨{ State.reset with pending := [.cuvlGo] }, by decide +kernel, ⟨by decide +kernel, by decide +kernel⟩, by decide +kernel⟩

/-- An event that reaches its vector. -/
theorem wit_VectorMap : ∃ d : Dev, ∃ e : Nat, d.hub.lost = false ∧ d.on F.EVT_SRC_CFG_MSIX 0 e = true ∧
    d.on F.HUB_PCIE_STAT_FLR = false ∧ d.rd F.EVT_COAL_TIME 0 (vectorOf e) = 0 :=
  ⟨dv [(·.wr F.EVT_SRC_CFG_MSIX 1 0 540)], 540, by decide +kernel⟩

/-- Two outputs, one of them in its inrush window, and the faults of the other. -/
theorem wit_IndependentOutputs : ∃ s : State, ∃ j k : Fin 12, ∃ f : Fld, s.awake ∧ j ≠ k ∧
    (f.reg = .SENSE_SW_STAT ∨ f.reg = .SENSE_SW_CFG) ∧ s.dev.swState k = 1 :=
  ⟨st [(·.wr F.SENSE_SW_STAT_STATE 1 0 3)], 2, 3, F.SENSE_SW_STAT_STATE, by decide +kernel⟩

/-- The loader in each of the four cases. -/
theorem wit_CuveeRefusals : (∃ s : State, s.awake ∧ s.dev.reaches .CUVL 0 = true ∧ (s.dev.cuvState = 0 ∨ s.dev.cuvState = 5 ∨ s.dev.cuvState = 6)) ∧
    (∃ s : State, s.awake ∧ s.dev.reaches .CUVL 0 = true ∧ ¬ (s.dev.cuvState = 0 ∨ s.dev.cuvState = 5 ∨ s.dev.cuvState = 6)) ∧
    (∃ s : State, s.awake ∧ s.dev.reaches .CUVL 0 = true ∧ s.dev.cuvState ≠ 3) :=
  ⟨⟨State.reset, by decide +kernel⟩, ⟨st [(·.wr F.CUVL_STAT_STATE 3)], by decide +kernel⟩, ⟨State.reset, by decide +kernel⟩⟩

theorem wit_PipePower :
    (∃ s : State, ∃ p : Pipe, s.awake ∧ s.dev.reaches .PCTL p = true ∧ s.dev.rd F.PCTL_STAT_STATE p = 0) ∧
    (∃ s : State, ∃ p : Pipe, s.awake ∧ s.dev.reaches .PCTL p = true ∧ s.dev.rd F.PCTL_STAT_STATE p ≠ 0) ∧
    (∃ s : State, ∃ p : Pipe, s.awake ∧ s.dev.reaches .PCTL p = true ∧ (s.dev.rd F.PCTL_STAT_STATE p = 1 ∨ s.dev.rd F.PCTL_STAT_STATE p = 2)) ∧
    (∃ s : State, ∃ p : Pipe, s.awake ∧ s.dev.reaches .PCTL p = true ∧ (s.dev.rd F.PCTL_STAT_STATE p = 3 ∨ s.dev.rd F.PCTL_STAT_STATE p = 4)) ∧
    (∃ s : State, ∃ p : Pipe, s.awake ∧ s.dev.reaches .PCTL p = true ∧ s.dev.rd F.PCTL_STAT_STATE p = 5 ∧ s.dev.on F.PCTL_STAT_GATE_LATCH p =
      true) ∧
    (∃ s : State, ∃ p : Pipe, s.awake ∧ s.dev.reaches .PCTL p = true ∧ s.dev.rd F.PCTL_STAT_STATE p = 5 ∧ s.dev.on F.PCTL_STAT_GATE_LATCH p =
      false) ∧
    (∃ s : State, ∃ p : Pipe, s.awake ∧ p.val ∈ s.dev.hub.prst ∧ s.dev.takesShut p = true) ∧
    (∃ s : State, ∃ p : Pipe, s.awake ∧ (p.val ∉ s.dev.hub.prst ∨ s.dev.takesShut p = false)) ∧
    (∃ s : State, ∃ p : Pipe, s.awake ∧ s.dev.rd F.PCTL_STAT_STATE p ≠ 0 ∧ s.dev.rd F.PCTL_STAT_STATE p ≠ 5) ∧
    (∃ s : State, ∃ p : Pipe, s.awake ∧ (s.dev.rd F.PCTL_STAT_STATE p = 0 ∨ s.dev.rd F.PCTL_STAT_STATE p = 5)) ∧
    (∃ s : State, ∃ p : Pipe, ∃ m : StripeMsg, ∃ rest : List StripeMsg, s.awake ∧ s.dev.hub.stripe = m :: rest ∧ m.dst = p.val) ∧
    (∃ s : State, ∃ p : Pipe, s.awake ∧ s.dev.pipeRuns p = true ∧ s.dev.cartState p = 4 ∧ s.dev.roleState p 0 = 4 ∧ s.dev.hub.lost = false) :=
  ⟨⟨st [(setReach · .PCTL 3), (·.wr F.PCTL_STAT_STATE 0 3)], 3, by decide +kernel⟩,
   ⟨st [(setReach · .PCTL 3), (·.wr F.PCTL_STAT_STATE 2 3)], 3, by decide +kernel⟩,
   ⟨st [(setReach · .PCTL 3), (·.wr F.PCTL_STAT_STATE 2 3)], 3, by decide +kernel⟩,
   ⟨st [(setReach · .PCTL 3), (·.wr F.PCTL_STAT_STATE 4 3)], 3, by decide +kernel⟩,
   ⟨st [(setReach · .PCTL 3), (·.wr F.PCTL_STAT_STATE 5 3), (·.wr F.PCTL_STAT_GATE_LATCH 1 3)], 3, by decide +kernel⟩,
   ⟨st [(setReach · .PCTL 3), (·.wr F.PCTL_STAT_STATE 5 3), (·.wr F.PCTL_STAT_GATE_LATCH 0 3)], 3, by decide +kernel⟩,
   ⟨st [fun d => { d with hub.prst := 3 :: d.hub.prst }, (setTakesShut · true 3)], 3, by decide +kernel⟩,
   ⟨State.reset, 2, by decide +kernel⟩,
   ⟨st [(·.wr F.PCTL_STAT_STATE 11 3)], 3, by decide +kernel⟩,
   ⟨st [(·.wr F.PCTL_STAT_STATE 5 3)], 3, by decide +kernel⟩,
   ⟨st [fun d => { d with hub.stripe := (({ dst := 0, take := 35, pipe := 555, time := (36, 892) } : StripeMsg)) :: ([]) }], 0,
     { dst := 0, take := 35, pipe := 555, time := (36, 892) }, [], by decide +kernel⟩,
   ⟨st [(setPipeRuns · true 3), (·.wr F.CELP_CART_STAT_STATE 4 3), (·.wr F.LANE_ROLE_STAT_STATE 4 3 0)], 3, by decide +kernel⟩⟩

theorem wit_DeviceResets :
    (∃ s : State, ∃ cause : ℕ, ∃ reason : Option ℕ, s.awake ∧ s.dev.hub.boot.want = some (cause, reason) ∧ cause < 16 ∧ (∀ p : Pipe,
      s.dev.resetReady p = true)) ∧
    (∃ s : State, s.awake ∧ (s.dev.hub.boot.want = none ∨ ∃ p : Pipe, s.dev.resetReady p = false)) ∧
    (∃ s : State, s.awake ∧ s.dev.on F.HUB_PCIE_STAT_FLR = true ∧ s.dev.hub.lost = false) ∧
    (∃ s : State, s.awake ∧ s.dev.isFollower = false) ∧
    (∃ s : State, s.awake ∧ s.dev.isFollower = true) ∧
    (∃ s : State, s.awake ∧ s.dev.on F.HUB_PCIE_STAT_DLUP = true ∧ s.dev.on F.HUB_PCIE_STAT_FLR = false) :=
  ⟨⟨st [fun d => { d with hub.boot.want := some (1, none) }], 1, none, by decide +kernel⟩,
   ⟨State.reset, by decide +kernel⟩,
   ⟨st [(·.wr F.HUB_PCIE_STAT_FLR 1)], by decide +kernel⟩,
   ⟨st [(setIsFollower · false)], by decide +kernel⟩,
   ⟨st [(setIsFollower · true)], by decide +kernel⟩,
   ⟨st [(·.wr F.HUB_PCIE_STAT_DLUP 1)], by decide +kernel⟩⟩

theorem wit_HubLossAndRequests :
    (∃ s : State, s.awake ∧ s.dev.hub.lost = false) ∧
    (∃ s : State, s.awake ∧ s.dev.hub.lost = true) ∧
    (∃ s : State, s.awake ∧ s.dev.reaches .HUB_CTL 0 = true ∧ s.dev.stopped = false ∧ s.dev.hub.boot.want = none) ∧
    (∃ s : State, s.awake ∧ (s.dev.stopped = true ∨ s.dev.hub.boot.want.isSome = true ∨ s.dev.reaches .HUB_CTL 0 = false)) :=
  ⟨⟨State.reset, by decide +kernel⟩,
   ⟨st [fun d => { d with hub.lost := true }], by decide +kernel⟩,
   ⟨st [(setReach · .HUB_CTL 0), fun d => { d with hub.boot.want := none }], by decide +kernel⟩,
   ⟨st [(setStopped · true)], by decide +kernel⟩⟩

theorem wit_BootSequence :
    (∃ s : State, s.awake ∧ s.dev.hub.boot.released = false ∧ s.dev.hub.boot.pfail = false ∧ (s.dev.hub.boot.ready = false ∨
      s.dev.hub.boot.nrst = none)) ∧
    (∃ s : State, s.awake ∧ s.dev.hub.boot.hold = true ∧ (∀ k : Fin 4, s.dev.on F.THERM_SENS_VALID 0 k = true ∨ s.dev.on F.THERM_SENS_FAULT 0
      k = true) ∧ (∀ t ∈ s.dev.hubTemps, t < 85 * 16)) ∧
    (∃ s : State, s.awake ∧ (s.dev.hub.boot.hold = false ∨ ∃ t ∈ s.dev.hubTemps, 85 * 16 ≤ t)) ∧
    (∃ s : State, s.awake ∧ s.dev.attempting = true ∧ s.dev.hub.boot.hold = false ∧ 1 ≤ s.dev.bootStage ∧ s.dev.bootStage ≤ 3 ∧ s.dev.stopped
      = false ∧ s.dev.hub.boot.ls = true) ∧
    (∃ s : State, s.awake ∧ s.dev.attempting = true ∧ s.dev.bootStage = 4) ∧
    (∃ s : State, s.awake ∧ (s.dev.attempting = false ∨ s.dev.bootStage ≠ 4)) ∧
    (∃ s : State, s.awake ∧ s.dev.reaches .HUB_CTL 0 = true ∧ s.dev.hub.boot.kept = none ∧ s.dev.attempting = true ∧ s.dev.bootStage = 5) ∧
    (∃ s : State, ∃ k : KeptImage, s.awake ∧ s.dev.reaches .HUB_CTL 0 = true ∧ s.dev.hub.boot.kept = some k) ∧
    (∃ s : State, ∃ k : KeptImage, s.awake ∧ s.dev.hub.lost = false ∧ s.dev.hub.boot.kept = some k) :=
  ⟨⟨State.reset, by decide +kernel⟩,
   ⟨st [fun d => { d with hub.boot.hold := true }, fun d => [0, 1, 2, 3].foldl (fun d k => (d.wr F.THERM_SENS_VALID 1 0 k).wr
     F.THERM_SENS_TEMP 400 0 k) d], by decide +kernel⟩,
   ⟨State.reset, by decide +kernel⟩,
   ⟨st [(setAttempting · true), fun d => { d with hub.boot.hold := false }, fun d => { d with hub.boot.ls := true }, (·.wr
     F.HUB_BOOT_STAT_STAGE 2)], by decide +kernel⟩,
   ⟨st [(setAttempting · true), (·.wr F.HUB_BOOT_STAT_STAGE 4)], by decide +kernel⟩,
   ⟨st [(setAttempting · false)], by decide +kernel⟩,
   ⟨st [(setReach · .HUB_CTL 0), fun d => { d with hub.boot.kept := none }, (setAttempting · true), (·.wr F.HUB_BOOT_STAT_STAGE 5)],
     by decide +kernel⟩,
   ⟨st [(setReach · .HUB_CTL 0), fun d =>
     { d with hub.boot.kept := some (({ image := 0, svn := 163, slot := none, version := [] } : KeptImage)) }],
     { image := 0, svn := 163, slot := none, version := [] }, by decide +kernel⟩,
   ⟨st [fun d => { d with hub.boot.kept := some (({ image := 0, svn := 163, slot := none, version := [] } : KeptImage)) }],
     { image := 0, svn := 163, slot := none, version := [] }, by decide +kernel⟩⟩

theorem wit_ResetButton :
    (∃ s : State, s.dev.hub.boot.mask = false ∧ s.dev.hub.boot.want = none ∧ s.dev.hub.boot.nrst = none ∧ s.dev.stopped = false ∧
      s.dev.hub.boot.stby = none) ∧
    (∃ s : State, s.dev.hub.boot.mask = false ∧ s.dev.hub.boot.want = none ∧ s.dev.hub.boot.nrst = none ∧ s.dev.stopped = false ∧
      s.dev.hub.boot.stby.isSome = true) ∧
    (∃ s : State, (s.dev.hub.boot.mask = true ∨ s.dev.hub.boot.nrst.isSome = true ∨ s.dev.stopped = true)) ∧
    (∃ s : State, s.dev.hub.boot.nrst = some false) ∧
    (∃ s : State, s.dev.hub.boot.nrst ≠ some false) ∧
    (∃ s : State, s.dev.hub.boot.nrst.isSome = true) ∧
    (∃ s : State, s.dev.hub.boot.mask = true) :=
  ⟨⟨State.reset, by decide +kernel⟩,
   ⟨st [fun d => { d with hub.boot.stby := some 1 }], by decide +kernel⟩,
   ⟨st [(setStopped · true)], by decide +kernel⟩,
   ⟨st [fun d => { d with hub.boot.nrst := some false }], by decide +kernel⟩,
   ⟨State.reset, by decide +kernel⟩,
   ⟨st [fun d => { d with hub.boot.nrst := some true }], by decide +kernel⟩,
   ⟨st [fun d => { d with hub.boot.mask := true }], by decide +kernel⟩⟩

theorem wit_StandbyAndSupplies :
    (∃ s : State, s.awake ∧ s.dev.reaches .HUB_CTL 0 = true ∧ s.dev.on F.HUB_STBY_CTL_GO = true) ∧
    (∃ s : State, s.awake ∧ s.dev.reaches .HUB_CTL 0 = true ∧ s.dev.on F.HUB_STBY_CTL_GO = false ∧ s.dev.takeAnywhere = true) ∧
    (∃ s : State, ∃ mode : Fin 8, s.awake ∧ s.dev.reaches .HUB_CTL 0 = true ∧ s.dev.on F.HUB_STBY_CTL_GO = false ∧ s.dev.takeAnywhere = false
      ∧ mode ≠ 1 ∧ mode ≠ 2) ∧
    (∃ s : State, ∃ mode : Fin 8, s.awake ∧ s.dev.reaches .HUB_CTL 0 = true ∧ s.dev.on F.HUB_STBY_CTL_GO = false ∧ s.dev.takeAnywhere = false
      ∧ (mode = 1 ∨ mode = 2) ∧ s.dev.stopped = false ∧ s.dev.hub.boot.want = none) ∧
    (∃ s : State, ∃ mode : ℕ, s.awake ∧ s.dev.hub.boot.stby = some mode ∧ (mode = 1 ∨ mode = 2) ∧ (∀ p : Pipe, s.dev.takesShut p = true)) ∧
    (∃ s : State, ∃ src : BitVec 6, s.dev.hub.boot.held = some .standby ∧ s.dev.hub.boot.stby = none ∧ s.dev.hub.boot.supLow = true ∧ Nat.land
      src.toNat s.dev.hub.boot.wakes ≠ 0 ∧ s.dev.hub.boot.wakes ≠ 0) ∧
    (∃ s : State, ∃ src : BitVec 6, s.dev.hub.boot.stby = none ∧ Nat.land src.toNat s.dev.hub.boot.wakes = 0 ∧ s.dev.hub.boot.wakes ≠ 0) ∧
    (∃ s : State, s.dev.hub.boot.supLow = true ∧ s.dev.hub.boot.edges ≠ 0) ∧
    (∃ s : State, (s.dev.hub.boot.supLow = false ∨ s.dev.hub.boot.edges = 0)) ∧
    (∃ s : State, s.dev.hub.boot.ready = true) ∧
    (∃ s : State, s.dev.hub.boot.ready = false) :=
  ⟨⟨st [(setReach · .HUB_CTL 0), (·.wr F.HUB_STBY_CTL_GO 1)], by decide +kernel⟩,
   ⟨st [(setReach · .HUB_CTL 0), (·.wr F.HUB_STBY_CTL_GO 0), (setTakeAnywhere · true)], by decide +kernel⟩,
   ⟨st [(setReach · .HUB_CTL 0), (·.wr F.HUB_STBY_CTL_GO 0), (setTakeAnywhere · false)], 3, by decide +kernel⟩,
   ⟨st [(setReach · .HUB_CTL 0), (·.wr F.HUB_STBY_CTL_GO 0), (setTakeAnywhere · false), fun d => { d with hub.boot.want := none }], 1,
     by decide +kernel⟩,
   ⟨st [fun d => { d with hub.boot.stby := some 1 }], 1, by decide +kernel⟩,
   ⟨st [fun d => { d with hub.boot.held := some .standby }, fun d => { d with hub.boot.supLow := true }, fun d =>
     { d with hub.boot.wakes := 63 }], 63, by decide +kernel⟩,
   ⟨st [fun d => { d with hub.boot.wakes := 2 }], 1, by decide +kernel⟩,
   ⟨st [fun d => { d with hub.boot.supLow := true }, fun d => { d with hub.boot.edges := 5 }], by decide +kernel⟩,
   ⟨State.reset, by decide +kernel⟩,
   ⟨st [fun d => { d with hub.boot.ready := true }], by decide +kernel⟩,
   ⟨State.reset, by decide +kernel⟩⟩

theorem wit_BootFlash :
    (∃ s : State, s.awake ∧ s.dev.reaches .HUB_CTL 0 = true ∧ s.dev.on F.HUB_FLASH_CMD_GO = true) ∧
    (∃ s : State, s.awake ∧ s.dev.reaches .HUB_CTL 0 = true ∧ s.dev.on F.HUB_FLASH_CMD_GO = false ∧ 0x02000000 ≤ s.dev.rd F.HUB_FLASH_OFF_LEN
      ∧ s.dev.rd F.HUB_FLASH_OFF_LEN + s.dev.rd F.HUB_FLASH_LEN_LEN ≤ 2 ^ 32 ∧ s.dev.rd F.HUB_FLASH_OFF_LEN % 4 = 0 ∧ s.dev.rd
      F.HUB_FLASH_LEN_LEN % 4 = 0) ∧
    (∃ s : State, s.awake ∧ s.dev.reaches .HUB_CTL 0 = true ∧ s.dev.on F.HUB_FLASH_CMD_GO = false ∧ (s.dev.rd F.HUB_FLASH_OFF_LEN < 0x02000000
      ∨ 2 ^ 32 < s.dev.rd F.HUB_FLASH_OFF_LEN + s.dev.rd F.HUB_FLASH_LEN_LEN ∨ s.dev.rd F.HUB_FLASH_OFF_LEN % 4 ≠ 0 ∨ s.dev.rd
      F.HUB_FLASH_LEN_LEN % 4 ≠ 0)) ∧
    (∃ s : State, s.awake ∧ s.dev.hub.lost = false ∧ s.dev.on F.HUB_FLASH_CMD_BUSY = true ∧ s.dev.rd F.HUB_FLASH_CMD_OP = 1 ∧ s.dev.hostOk =
      false) ∧
    (∃ s : State, s.awake ∧ s.dev.hub.lost = false ∧ s.dev.on F.HUB_FLASH_CMD_BUSY = true ∧ s.dev.rd F.HUB_FLASH_CMD_OP = 1 ∧ s.dev.hostOk =
      true) ∧
    (∃ s : State, s.awake ∧ s.dev.hub.lost = false ∧ s.dev.on F.HUB_FLASH_CMD_BUSY = true ∧ s.dev.rd F.HUB_FLASH_CMD_OP ≠ 1) ∧
    (∃ s : State, s.awake ∧ s.dev.hub.lost = false ∧ s.dev.on F.HUB_FLASH_CMD_BUSY = true ∧ (s.dev.rd F.HUB_FLASH_CMD_OP ≠ 1 ∨ s.dev.hostOk =
      true)) ∧
    (∃ s : State, s.awake ∧ (s.dev.hub.lost = true ∨ s.dev.on F.HUB_FLASH_CMD_BUSY = false)) :=
  ⟨⟨st [(setReach · .HUB_CTL 0), (·.wr F.HUB_FLASH_CMD_GO 1)], by decide +kernel⟩,
   ⟨st [(setReach · .HUB_CTL 0), (·.wr F.HUB_FLASH_CMD_GO 0), (·.wr F.HUB_FLASH_OFF_LEN 0x02000000), (·.wr F.HUB_FLASH_LEN_LEN 256)],
     by decide +kernel⟩,
   ⟨st [(setReach · .HUB_CTL 0), (·.wr F.HUB_FLASH_CMD_GO 0)], by decide +kernel⟩,
   ⟨st [(·.wr F.HUB_FLASH_CMD_BUSY 1), (·.wr F.HUB_FLASH_CMD_OP 1), (setHostOk · false)], by decide +kernel⟩,
   ⟨st [(·.wr F.HUB_FLASH_CMD_BUSY 1), (·.wr F.HUB_FLASH_CMD_OP 1), (setHostOk · true)], by decide +kernel⟩,
   ⟨st [(·.wr F.HUB_FLASH_CMD_BUSY 1), (·.wr F.HUB_FLASH_CMD_OP 3)], by decide +kernel⟩,
   ⟨st [(·.wr F.HUB_FLASH_CMD_BUSY 1), (setHostOk · true)], by decide +kernel⟩,
   ⟨State.reset, by decide +kernel⟩⟩

theorem wit_Thermal :
    (∃ s : State, ∃ u : Unit5, ∃ k : Fin 6, ∃ t : Int, s.awake ∧ k.val < sensorCount u ∧ s.dev.sensorLive u k = true ∧ (t < -880 ∨ 2400 < t)) ∧
    (∃ s : State, ∃ u : Unit5, ∃ k : Fin 6, ∃ ok : Bool, s.awake ∧ k.val < sensorCount u ∧ (ok = true ∨ s.dev.sensorLive u k = false)) ∧
    (∃ s : State, ∃ u : Unit5, ∃ k : Fin 6, s.awake ∧ k.val < sensorCount u ∧ s.dev.sensorLive u k = false) ∧
    (∃ s : State, ∃ u : Unit5, ∃ k : Fin 6, ∃ t : Int, s.awake ∧ k.val < sensorCount u ∧ s.dev.sensorLive u k = true ∧ -880 ≤ t ∧ t ≤ 2400 ∧ t
      < 16 * (s.dev.thresholds u).2.2.1 ∧ s.dev.on F.BIST_STAT_BUSY = false) ∧
    (∃ s : State, s.awake ∧ s.dev.reaches .THERM 0 = true ∧ s.dev.stopped = false) ∧
    (∃ s : State, s.awake ∧ s.dev.reaches .THERM 0 = true ∧ s.dev.stopped = true) ∧
    (∃ s : State, ∃ kind : ℕ, s.awake ∧ s.dev.hub.therm.kind = some kind ∧ kind < 8 ∧ (∀ p : Pipe, s.dev.takesShut p = true)) :=
  ⟨⟨st [(setSensorLive · true 0 1)], 0, 1, 2586, by decide +kernel⟩,
   ⟨State.reset, 2, 5, true, by decide +kernel⟩,
   ⟨st [(setSensorLive · false 0 2)], 0, 2, by decide +kernel⟩,
   ⟨st [(setSensorLive · true 0 2), (·.wr F.BIST_STAT_BUSY 0)], 0, 2, 1, by decide +kernel⟩,
   ⟨st [(setReach · .THERM 0)], by decide +kernel⟩,
   ⟨st [(setReach · .THERM 0), (setStopped · true)], by decide +kernel⟩,
   ⟨st [fun d => { d with hub.therm.kind := some 1 }], 1, by decide +kernel⟩⟩

theorem wit_CaskWords_1 :
    (∃ s : State, ∃ u : Unit5, ∃ k : Fin 128, ∃ ep : ℕ, s.awake ∧ k.val < caskCount u ∧ s.dev.caskProd u k ep = true ∧ s.dev.caskReady u k =
      true ∧ s.dev.on F.CASK_STAT_DISCARD u k = false) ∧
    (∃ s : State, ∃ u : Unit5, ∃ k : Fin 128, ∃ ep : ℕ, s.awake ∧ k.val < caskCount u ∧ s.dev.caskProd u k ep = true ∧ s.dev.caskReady u k =
      true ∧ s.dev.on F.CASK_STAT_DISCARD u k = true) ∧
    (∃ s : State, ∃ u : Unit5, ∃ k : Fin 128, ∃ ep : ℕ, s.awake ∧ k.val < caskCount u ∧ (s.dev.caskProd u k ep = false ∨ s.dev.caskReady u k =
      false)) ∧
    (∃ s : State, ∃ u : Unit5, ∃ k : Fin 128, ∃ ep : ℕ, s.awake ∧ k.val < caskCount u ∧ s.dev.caskCons u k ep = true ∧ s.dev.tileHeld u ep =
      false ∧ s.dev.on F.CASK_CFG_EN u k = true) ∧
    (∃ s : State, ∃ u : Unit5, ∃ k : Fin 128, ∃ ep : ℕ, s.awake ∧ k.val < caskCount u ∧ u = 4 ∧ s.dev.caskCons u k ep = true ∧ s.dev.on
      F.CASK_CFG_EN u k = true ∧ (s.dev.cask u k).marker = true) ∧
    (∃ s : State, ∃ u : Unit5, ∃ k : Fin 128, ∃ ep : ℕ, ∃ w : CaskWord, ∃ rest : List CaskWord, s.awake ∧ k.val < caskCount u ∧ u = 4 ∧
      s.dev.caskCons u k ep = true ∧ s.dev.on F.CASK_CFG_EN u k = true ∧ (s.dev.cask u k).marker = false ∧ (s.dev.cask u k).words = w ::
      rest ∧ w.psn = false) ∧
    (∃ s : State, ∃ u : Unit5, ∃ k : Fin 128, ∃ ep : ℕ, s.awake ∧ k.val < caskCount u ∧ (s.dev.caskCons u k ep = false ∨ s.dev.tileHeld u ep =
      true ∨ s.dev.on F.CASK_CFG_EN u k = false)) ∧
    (∃ s : State, ∃ u : Unit5, ∃ k : Fin 128, s.awake ∧ k.val < caskCount u ∧ 0 < (s.dev.cask u k).transit ∧ (s.dev.cask u k).wait = [] ∧
      s.dev.rd F.CASK_BIND_PROD u k / 2 ^ 12 ≠ 1) ∧
    (∃ s : State, ∃ u : Unit5, ∃ k : Fin 128, s.awake ∧ k.val < caskCount u ∧ u.val < 4 ∧ s.dev.rd F.CASK_BIND_PROD u k / 2 ^ 12 = 1) ∧
    (∃ s : State, ∃ u : Unit5, ∃ k : Fin 128, s.awake ∧ k.val < caskCount u ∧ (s.dev.cask u k).isOpen = true ∧ s.dev.caskTimerOn u k = true) ∧
    (∃ s : State, ∃ u : Unit5, ∃ k : Fin 128, s.awake ∧ k.val < caskCount u ∧ ((s.dev.cask u k).isOpen = false ∨ s.dev.caskTimerOn u k =
      false)) ∧
    (∃ s : State, ∃ u : Unit5, ∃ k : Fin 128, s.awake ∧ k.val < caskCount u ∧ s.dev.reaches .CASK u = true ∧ (isTakeCask u k = false ∨
      s.dev.on F.PCTL_STAT_TAKE u = false) ∧ s.dev.on F.CASK_CFG_EN u k = true) :=
  ⟨⟨st [(setCaskReady · true 1 0), (·.wr F.CASK_STAT_DISCARD 0 1 0)], 1, 0, 0, by decide +kernel⟩,
   ⟨st [(setCaskReady · true 1 0), (·.wr F.CASK_STAT_DISCARD 1 1 0)], 1, 0, 0, by decide +kernel⟩,
   ⟨State.reset, 1, 1, 7, by decide +kernel⟩,
   ⟨st [(·.wr F.CASK_CFG_EN 1 1 0)], 1, 0, 0, by decide +kernel⟩,
   ⟨st [(·.wr F.CASK_CFG_EN 1 4 0), fun d => modCask d 4 0 fun x => { x with marker := true }], 4, 0, 0, by decide +kernel⟩,
   ⟨st [(·.wr F.CASK_CFG_EN 1 4 0), fun d => modCask d 4 0 fun x => { x with marker := false }, fun d => modCask d 4 0 fun x =>
     { x with words := (({ data := 56, fin := false, tail := false, psn := false } : CaskWord)) :: ([]) }], 4, 0, 0,
     { data := 56, fin := false, tail := false, psn := false }, [], by decide +kernel⟩,
   ⟨State.reset, 1, 0, 1, by decide +kernel⟩,
   ⟨st [fun d => modCask d 2 3 fun x => { x with wait := [] }, fun d => modCask d 2 3 fun x => { x with transit := 2, wait := [] }, (·.wr
     F.CASK_BIND_PROD 0x2003 2 3)], 2, 3, by decide +kernel⟩,
   ⟨st [(·.wr F.CASK_BIND_PROD 0x1003 1 3)], 1, 3, by decide +kernel⟩,
   ⟨st [fun d => modCask d 0 1 fun x => { x with words := [⟨3, false, false, false⟩] }, (setCaskTimerOn · true 0 1)], 0, 1, by decide +kernel⟩,
   ⟨st [(setCaskTimerOn · false 2 1)], 2, 1, by decide +kernel⟩,
   ⟨st [(setReach · .CASK 0), (·.wr F.CASK_CFG_EN 1 0 6)], 0, 6, by decide +kernel⟩⟩

theorem wit_CaskWords_2 :
    (∃ s : State, ∃ u : Unit5, ∃ k : Fin 128, s.awake ∧ k.val < caskCount u ∧ s.dev.reaches .CASK u = true ∧ (isTakeCask u k = true ∧ s.dev.on
      F.PCTL_STAT_TAKE u = true ∨ s.dev.on F.CASK_CFG_EN u k = false)) ∧
    (∃ s : State, ∃ u : Unit5, ∃ k : Fin 128, ∃ n : CaskNext, s.awake ∧ k.val < caskCount u ∧ (s.dev.cask u k).next = some n ∧ (s.dev.cask u
      k).words = []) ∧
    (∃ s : State, ∃ u : Unit5, ∃ k : Fin 128, s.awake ∧ k.val < caskCount u ∧ ((s.dev.cask u k).next = none ∨ (s.dev.cask u k).words ≠ [])) :=
  ⟨⟨st [(setReach · .CASK 2), (·.wr F.CASK_CFG_EN 0 2 1)], 2, 1, by decide +kernel⟩,
   ⟨st [fun d => modCask d 3 1 fun x => { x with next := some (({ cfg := 0, bind := 3, tto := 0 } : CaskNext)) }, fun d => modCask d 3 1 fun x
     => { x with words := [] }], 3, 1, { cfg := 0, bind := 3, tto := 0 }, by decide +kernel⟩,
   ⟨State.reset, 2, 1, by decide +kernel⟩⟩

theorem wit_CaskCredits :
    (∃ s : State, ∃ u : Unit5, ∃ k : Fin 128, ∃ n : Nat, s.awake ∧ k.val < caskCount u ∧ n < 2 ^ 13 ∧ s.dev.rd F.CASK_STAT_CREDITS u k +
      (s.dev.cask u k).words.length + (s.dev.cask u k).transit = n ∧ u = 4) ∧
    (∃ s : State, ∃ u : Unit5, ∃ k : Fin 128, ∃ n : Nat, s.awake ∧ k.val < caskCount u ∧ n < 2 ^ 13 ∧ s.dev.rd F.CASK_STAT_CREDITS u k +
      (s.dev.cask u k).words.length + (s.dev.cask u k).transit = n ∧ s.dev.rd F.CASK_BIND_PROD u k / 2 ^ 12 ≠ 1) :=
  ⟨⟨State.reset, 4, 0, 0, by decide +kernel⟩,
   ⟨State.reset, 0, 2, 0, by decide +kernel⟩⟩

theorem wit_Racking_1 :
    (∃ s : State, ∃ u : Unit5, ∃ c : Fin 16, ∃ tail : BitVec 16, s.awake ∧ c.val < rackChannels u ∧ s.dev.reaches .RACK u = true ∧ tail.toNat
      < s.dev.rackSlots u c) ∧
    (∃ s : State, ∃ u : Unit5, ∃ c : Fin 16, ∃ tail : BitVec 16, s.awake ∧ c.val < rackChannels u ∧ s.dev.reaches .RACK u = true ∧
      s.dev.rackSlots u c ≤ tail.toNat) ∧
    (∃ s : State, ∃ u : Unit5, ∃ c : Fin 16, s.awake ∧ c.val < rackChannels u ∧ s.dev.on F.RACK_CH_CFG_EN u c = true ∧ (s.dev.rackState u c =
      1 ∨ s.dev.rackState u c = 2) ∧ (s.dev.rch u c).fetching = false ∧ (s.dev.rch u c).job = none ∧ (s.dev.rch u c).abort = false ∧
      (s.dev.rch u c).next ≠ s.dev.rd F.RACK_TAIL_TAIL u c ∧ (s.dev.rch u c).done = [] ∧ s.dev.rackHostRing u c = true ∧ s.dev.rackHostOk
      u = true) ∧
    (∃ s : State, ∃ u : Unit5, ∃ c : Fin 16, s.awake ∧ c.val < rackChannels u ∧ s.dev.on F.RACK_CH_CFG_EN u c = true ∧ (s.dev.rackState u c =
      1 ∨ s.dev.rackState u c = 2) ∧ (s.dev.rch u c).fetching = false ∧ (s.dev.rch u c).job = none ∧ (s.dev.rch u c).abort = false ∧
      (s.dev.rch u c).next ≠ s.dev.rd F.RACK_TAIL_TAIL u c ∧ (s.dev.rch u c).done = [] ∧ s.dev.rackHostRing u c = true ∧ s.dev.rackHostOk
      u = false) ∧
    (∃ s : State, ∃ u : Unit5, ∃ c : Fin 16, s.awake ∧ c.val < rackChannels u ∧ s.dev.on F.RACK_CH_CFG_EN u c = true ∧ (s.dev.rackState u c =
      1 ∨ s.dev.rackState u c = 2) ∧ (s.dev.rch u c).fetching = false ∧ (s.dev.rch u c).job = none ∧ (s.dev.rch u c).abort = false ∧
      (s.dev.rch u c).next ≠ s.dev.rd F.RACK_TAIL_TAIL u c ∧ (s.dev.rch u c).done = [] ∧ s.dev.rackHostRing u c = false) ∧
    (∃ s : State, ∃ u : Unit5, ∃ c : Fin 16, ∃ j : RackJob, ∃ st : ℕ, ∃ rest : List (RackJob × ℕ), s.awake ∧ c.val < rackChannels u ∧
      (s.dev.rch u c).done = (j, st) :: rest) ∧
    (∃ s : State, ∃ u : Unit5, ∃ c : Fin 16, s.awake ∧ c.val < rackChannels u ∧ s.dev.reaches .RACK u = true ∧ s.dev.rackState u c ≠ 1 ∧
      s.dev.rackState u c ≠ 2) ∧
    (∃ s : State, ∃ u : Unit5, ∃ c : Fin 16, ∃ j : RackJob, s.awake ∧ c.val < rackChannels u ∧ s.dev.reaches .RACK u = true ∧ (s.dev.rackState
      u c = 1 ∨ s.dev.rackState u c = 2) ∧ (s.dev.rch u c).job = some j) ∧
    (∃ s : State, ∃ u : Unit5, ∃ c : Fin 16, s.awake ∧ c.val < rackChannels u ∧ s.dev.reaches .RACK u = true ∧ (s.dev.rackState u c = 1 ∨
      s.dev.rackState u c = 2) ∧ (s.dev.rch u c).job = none ∧ (s.dev.rch u c).done = []) ∧
    (∃ s : State, ∃ u : Unit5, ∃ c : Fin 16, s.awake ∧ c.val < rackChannels u ∧ s.dev.reaches .RACK u = true ∧ s.dev.rackState u c = 3) ∧
    (∃ s : State, ∃ u : Unit5, ∃ c : Fin 16, s.awake ∧ c.val < rackChannels u ∧ s.dev.reaches .RACK u = true ∧ s.dev.rackState u c ≠ 3) ∧
    (∃ s : State, ∃ u : Unit5, ∃ c : Fin 16, s.awake ∧ c.val < rackChannels u ∧ s.dev.reaches .RACK u = true ∧ s.dev.on F.RACK_CH_CFG_EN u c =
      true) :=
  ⟨⟨st [(setReach · .RACK 0)], 0, 2, 2, by decide +kernel⟩,
   ⟨st [(setReach · .RACK 4)], 4, 0, 320, by decide +kernel⟩,
   ⟨st [(·.wr F.RACK_CH_CFG_EN 1 1 2), (·.wr F.RACK_CH_STAT_STATE 2 1 2), fun d => modRch d 1 2 fun x => { x with fetching := false }, fun d
     => modRch d 1 2 fun x => { x with job := none }, fun d => modRch d 1 2 fun x => { x with abort := false }, fun d => modRch d 1 2 fun x
     => { x with done := [] }, (setRackHostRing · true 1 2), (setRackHostOk · true 1), (·.wr F.RACK_TAIL_TAIL 3 1 2)], 1, 2,
     by decide +kernel⟩,
   ⟨st [(·.wr F.RACK_CH_CFG_EN 1 1 2), (·.wr F.RACK_CH_STAT_STATE 2 1 2), fun d => modRch d 1 2 fun x => { x with fetching := false }, fun d
     => modRch d 1 2 fun x => { x with job := none }, fun d => modRch d 1 2 fun x => { x with abort := false }, fun d => modRch d 1 2 fun x
     => { x with done := [] }, (setRackHostRing · true 1 2), (setRackHostOk · false 1), (·.wr F.RACK_TAIL_TAIL 3 1 2)], 1, 2,
     by decide +kernel⟩,
   ⟨st [(·.wr F.RACK_CH_CFG_EN 1 1 2), (·.wr F.RACK_CH_STAT_STATE 2 1 2), fun d => modRch d 1 2 fun x => { x with fetching := false }, fun d
     => modRch d 1 2 fun x => { x with job := none }, fun d => modRch d 1 2 fun x => { x with abort := false }, fun d => modRch d 1 2 fun x
     => { x with done := [] }, (setRackHostRing · false 1 2), (·.wr F.RACK_TAIL_TAIL 3 1 2)], 1, 2, by decide +kernel⟩,
   ⟨st [fun d => modRch d 0 2 fun x =>
     { x with done := ((({ slot := 2480, ws := [], moved := 0, psn := false, hold := none } : RackJob)), 26) :: ([]) }], 0, 2,
     { slot := 2480, ws := [], moved := 0, psn := false, hold := none }, 26, [], by decide +kernel⟩,
   ⟨st [(setReach · .RACK 2), (·.wr F.RACK_CH_STAT_STATE 4 2 3)], 2, 3, by decide +kernel⟩,
   ⟨st [(setReach · .RACK 0), (·.wr F.RACK_CH_STAT_STATE 2 0 2), fun d => modRch d 0 2 fun x =>
     { x with job := some (({ slot := 1, ws := [], moved := 0, psn := true, hold := none } : RackJob)) }], 0, 2,
     { slot := 1, ws := [], moved := 0, psn := true, hold := none }, by decide +kernel⟩,
   ⟨st [(setReach · .RACK 2), (·.wr F.RACK_CH_STAT_STATE 2 2 1), fun d => modRch d 2 1 fun x => { x with job := none }, fun d => modRch d 2 1 fun
     x => { x with done := [] }], 2, 1, by decide +kernel⟩,
   ⟨st [(setReach · .RACK 0), (·.wr F.RACK_CH_STAT_STATE 3 0 1)], 0, 1, by decide +kernel⟩,
   ⟨st [(setReach · .RACK 2), (·.wr F.RACK_CH_STAT_STATE 8 2 1)], 2, 1, by decide +kernel⟩,
   ⟨st [(setReach · .RACK 0), (·.wr F.RACK_CH_CFG_EN 1 0 1)], 0, 1, by decide +kernel⟩⟩

theorem wit_Racking_2 :
    (∃ s : State, ∃ u : Unit5, ∃ c : Fin 16, s.awake ∧ c.val < rackChannels u ∧ s.dev.reaches .RACK u = true ∧ s.dev.on F.RACK_CH_CFG_EN u c =
      false) ∧
    (∃ s : State, ∃ u : Unit5, ∃ c : ℕ, s.awake ∧ s.dev.rackPick u = some c) ∧
    (∃ s : State, ∃ u : Unit5, s.awake ∧ s.dev.rackPick u = none) ∧
    (∃ s : State, ∃ i : ℕ, s.awake ∧ s.dev.hub.hreq[i]? = none) ∧
    (∃ s : State, ∃ i u c : ℕ, s.awake ∧ u ≤ 4 ∧ s.dev.hub.hreq[i]? = some (.rackDesc u c) ∧ (s.dev.rch u c).fetching = true) ∧
    (∃ s : State, ∃ i q cid : ℕ, s.awake ∧ s.dev.hub.hreq[i]? = some (.nvme q cid)) ∧
    (∃ s : State, ∃ i u c : ℕ, s.awake ∧ s.dev.hub.hreq[i]? = some (.rackData u c)) ∧
    (∃ s : State, ∃ i u c : ℕ, s.awake ∧ s.dev.hub.hreq[i]? = some (.press u c)) :=
  ⟨⟨st [(setReach · .RACK 0), (·.wr F.RACK_CH_CFG_EN 0 0 1)], 0, 1, by decide +kernel⟩,
   ⟨st [fun d => modRch d 1 2 fun x => { x with job := some { slot := 1, ws := [1 * 2 ^ 28 + 1 * 2 ^ 24, 64, 4096, 0, 8192, 0, 0, 0] } }], 1,
     2, by decide +kernel⟩,
   ⟨State.reset, 0, by decide +kernel⟩,
   ⟨State.reset, 9, by decide +kernel⟩,
   ⟨st [fun d => { d with hub.hreq := List.replicate 1 (.nvme 0 0) ++ [(.rackDesc 0 21)] }, fun d => modRch d 0 21 fun x =>
     { x with fetching := true }], 1, 0, 21, by decide +kernel⟩,
   ⟨st [fun d => { d with hub.hreq := List.replicate 61 (.nvme 0 0) ++ [(.nvme 3 0)] }], 61, 3, 0, by decide +kernel⟩,
   ⟨st [fun d => { d with hub.hreq := List.replicate 61 (.nvme 0 0) ++ [(.rackData 3 0)] }], 61, 3, 0, by decide +kernel⟩,
   ⟨st [fun d => { d with hub.hreq := List.replicate 61 (.nvme 0 0) ++ [(.press 3 0)] }], 61, 3, 0, by decide +kernel⟩⟩

theorem wit_TrellisElements :
    (∃ s : State, ∃ p : Pipe, ∃ e : Fin 1088, ∃ flaw : Flaw, s.awake ∧ s.dev.stopped = false ∧ s.dev.uopReady p e = true ∧ flaw ≠ .multiple) ∧
    (∃ s : State, ∃ p : Pipe, ∃ e : Fin 1088, ∃ flaw : Flaw, s.awake ∧ (s.dev.stopped = true ∨ s.dev.uopReady p e = false ∨ flaw = .multiple)) ∧
    (∃ s : State, ∃ p : Pipe, ∃ e : Fin 1088, s.awake ∧ s.dev.stopped = false ∧ (Tab.get {} (s.dev.trl p).els e).busy = true ∧ s.dev.elemRuns
      p e = true) ∧
    (∃ s : State, ∃ p : Pipe, ∃ e : Fin 1088, s.awake ∧ (s.dev.stopped = true ∨ (Tab.get {} (s.dev.trl p).els e).busy = false ∨ s.dev.elemRuns
      p e = false)) ∧
    (∃ s : State, ∃ p : Pipe, s.awake ∧ s.dev.reaches .TRL p = true) ∧
    (∃ s : State, ∃ p : Pipe, s.awake ∧ (s.dev.trl p).lmReq = true ∧ s.dev.on F.TRL_LM_ADDR_STORE p = false) ∧
    (∃ s : State, ∃ p : Pipe, s.awake ∧ (s.dev.trl p).lmReq = true ∧ s.dev.on F.TRL_LM_ADDR_STORE p = true) ∧
    (∃ s : State, ∃ p : Pipe, s.awake ∧ (s.dev.trl p).lmReq = false) ∧
    (∃ s : State, ∃ p : Pipe, ∃ busy starve block : ℕ, s.awake ∧ busy + starve + block ≤ 256 ∧ s.dev.monOn p = true) ∧
    (∃ s : State, ∃ p : Pipe, ∃ busy starve block : ℕ, s.awake ∧ busy + starve + block ≤ 256 ∧ s.dev.monOn p = false) :=
  ⟨⟨st [(setUopReady · true 1 0), fun d => modTrl d 1 fun t => { t with act := Tab.put t.act (oElem 0 + 4) 0x80000000 }, (·.wr
     F.TRL_TILE_CFG_EN 1 1 0), (·.wr F.TRL_REG_STAT_STATE 1 1 0)], 1, 0, .ok, by decide +kernel⟩,
   ⟨State.reset, 3, 0, .ok, by decide +kernel⟩,
   ⟨st [fun d => modTrl d 1 fun t => { t with els := [(0, { busy := true })] }, fun d => modTrl d 1 fun t =>
     { t with act := Tab.put t.act (oElem 0 + 4) 0x80000000 }, (·.wr F.TRL_TILE_CFG_EN 1 1 0), (·.wr F.TRL_REG_STAT_STATE 1 1 0)], 1, 0,
     by decide +kernel⟩,
   ⟨State.reset, 1, 1, by decide +kernel⟩,
   ⟨st [(setReach · .TRL 3)], 3, by decide +kernel⟩,
   ⟨st [fun d => modTrl d 1 fun x => { x with lmReq := true }], 1, by decide +kernel⟩,
   ⟨st [fun d => modTrl d 1 fun x => { x with lmReq := true }, (·.wr F.TRL_LM_ADDR_STORE 1 1)], 1, by decide +kernel⟩,
   ⟨st [fun d => modTrl d 1 fun x => { x with lmReq := false }], 1, by decide +kernel⟩,
   ⟨st [(setMonOn · true 2)], 2, 3, 2, 2, by decide +kernel⟩,
   ⟨st [(setMonOn · false 2)], 2, 3, 2, 2, by decide +kernel⟩⟩

theorem wit_Regions :
    (∃ s : State, ∃ p : Pipe, ∃ r : Fin 16, s.awake ∧ s.dev.regState p r = 2 ∧ s.dev.regionInputs p r ≠ [] ∧ s.dev.inputsPassed p r = true) ∧
    (∃ s : State, ∃ p : Pipe, ∃ r : Fin 16, s.awake ∧ (s.dev.regState p r ≠ 2 ∨ s.dev.regionInputs p r = [] ∨ s.dev.inputsPassed p r = false)) ∧
    (∃ s : State, ∃ p : Pipe, ∃ r : Fin 16, s.awake ∧ (s.dev.regState p r = 3 ∧ s.dev.regionQuiet p r = true ∨ s.dev.regState p r = 2 ∧
      s.dev.regionInputs p r = []) ∧ s.dev.regionStaged p r = true) ∧
    (∃ s : State, ∃ p : Pipe, ∃ r : Fin 16, s.awake ∧ (s.dev.regState p r ≠ 3 ∧ s.dev.regState p r ≠ 2 ∨ s.dev.regionStaged p r = false ∨
      s.dev.regState p r = 3 ∧ s.dev.regionQuiet p r = false ∨ s.dev.regState p r = 2 ∧ s.dev.regionInputs p r ≠ [])) ∧
    (∃ s : State, ∃ p : Pipe, ∃ r : Fin 16, s.awake ∧ (s.dev.regState p r = 1 ∨ s.dev.regState p r = 2 ∨ s.dev.regState p r = 3) ∧ s.dev.rd
      F.TRL_REG_CFG_TIMEOUT p r ≠ 0) ∧
    (∃ s : State, ∃ p : Pipe, ∃ r : Fin 16, s.awake ∧ (s.dev.regState p r = 0 ∨ 4 ≤ s.dev.regState p r ∨ s.dev.rd F.TRL_REG_CFG_TIMEOUT p r =
      0)) ∧
    (∃ s : State, ∃ p : Pipe, ∃ r : Fin 16, s.awake ∧ s.dev.regState p r = 5 ∧ s.dev.inputsPassed p r = true ∧ s.dev.cnt C.TRL_RST_CNT p < 2 ^
      48) ∧
    (∃ s : State, ∃ p : Pipe, ∃ r : Fin 16, s.awake ∧ (s.dev.regState p r ≠ 5 ∨ s.dev.inputsPassed p r = false)) ∧
    (∃ s : State, ∃ p : Pipe, ∃ r : Fin 16, ∃ kind : Fin 6, ∃ unit : Fin 68, s.awake ∧ kind.val ≤ 3 ∧ s.dev.physRegion p unit = some r.val ∧
      s.dev.regState p r ≠ 0 ∧ s.dev.regionStaged p r = false) ∧
    (∃ s : State, ∃ p : Pipe, ∃ r : Fin 16, ∃ unit : Fin 68, ∃ elem : Fin 32, s.awake ∧ regionOfWin (s.dev.trl p).info unit elem = some r.val
      ∧ s.dev.regState p r ≠ 0 ∧ s.dev.regionStaged p r = false) ∧
    (∃ s : State, ∃ p : Pipe, ∃ r : Fin 16, ∃ unit : Fin 68, ∃ rest : List ℕ, s.awake ∧ s.dev.clusterRegions p unit = r.val :: rest ∧
      s.dev.regionStaged p r = false) :=
  ⟨⟨st [(·.wr F.TRL_REG_STAT_STATE 2 0 1), (setInputsPassed · true 0 1), fun d => modTrl d 0 fun t =>
     { t with act := xbarPut t.act 1 0x40 0x43, info := [(1, { ctx := [(4, 2)] })], passed := [(1, .vrs 1 0)] }], 0, 1, by decide +kernel⟩,
   ⟨State.reset, 0, 2, by decide +kernel⟩,
   ⟨st [(·.wr F.TRL_REG_STAT_STATE 2 3 1), (setRegionStaged · true 3 1)], 3, 1, by decide +kernel⟩,
   ⟨st [(setRegionStaged · false 2 0)], 2, 0, by decide +kernel⟩,
   ⟨st [(·.wr F.TRL_REG_STAT_STATE 2 2 3), (·.wr F.TRL_REG_CFG_TIMEOUT 6 2 3)], 2, 3, by decide +kernel⟩,
   ⟨State.reset, 0, 7, by decide +kernel⟩,
   ⟨st [(·.wr F.TRL_REG_STAT_STATE 5 0 1), (setInputsPassed · true 0 1)], 0, 1, by decide +kernel⟩,
   ⟨st [(setInputsPassed · false 0 2)], 0, 2, by decide +kernel⟩,
   ⟨st [(·.wr F.TRL_REG_STAT_STATE 5 3 2), (setRegionStaged · false 3 2), (·.wr F.TRL_TILE_CFG_EN 1 3 3), (·.wr F.TRL_TILE_CFG_REGION 2 3 3)],
     3, 2, 0, 3, by decide +kernel⟩,
   ⟨st [(·.wr F.TRL_REG_STAT_STATE 5 0 2), (setRegionStaged · false 0 2), fun d => modTrl d 0 fun t =>
     { t with info := [(2, { cwins := List.replicate 4 0xFFFFFFFF })] }], 0, 2, 2, 1, by decide +kernel⟩,
   ⟨st [(·.wr F.TRL_TILE_CFG_EN 1 0 3), (·.wr F.TRL_TILE_CFG_REGION 2 0 3), (·.wr F.TRL_REG_STAT_STATE 1 0 2), (setRegionStaged · false 0 2)],
     0, 2, 0, [], by decide +kernel⟩⟩

theorem wit_CuveeJob_1 :
    (∃ s : State, s.awake ∧ s.dev.reaches .CUVL 0 = true ∧ (s.dev.cuvState = 0 ∨ s.dev.cuvState = 5 ∨ s.dev.cuvState = 6)) ∧
    (∃ s : State, s.awake ∧ s.dev.reaches .CUVL 0 = true ∧ s.dev.cuvState ≠ 0 ∧ s.dev.cuvState ≠ 5 ∧ s.dev.cuvState ≠ 6) ∧
    (∃ s : State, s.awake ∧ s.dev.reaches .CUVL 0 = true ∧ (s.dev.cuvState = 1 ∨ s.dev.cuvState = 2 ∨ s.dev.cuvState = 3)) ∧
    (∃ s : State, s.awake ∧ s.dev.reaches .CUVL 0 = true ∧ s.dev.cuvState ≠ 1 ∧ s.dev.cuvState ≠ 2 ∧ s.dev.cuvState ≠ 3) ∧
    (∃ s : State, ∃ e : CuvErr, s.awake ∧ s.dev.reaches .CUVL 0 = true ∧ s.dev.cuvState = 3 ∧ s.dev.hub.cuvl.sects.forM (fun x =>
      s.dev.cuvGoCheck x) = .error e) ∧
    (∃ s : State, s.awake ∧ s.dev.reaches .CUVL 0 = true ∧ s.dev.cuvState = 3 ∧ s.dev.hub.cuvl.sects.forM (fun x => s.dev.cuvGoCheck x) = .ok
      ()) ∧
    (∃ s : State, ∃ bad : Bool, s.awake ∧ s.dev.cuvState = 1 ∧ s.dev.cuvSource bad = none ∧ s.dev.hub.lost = false) ∧
    (∃ s : State, ∃ bad : Bool, ∃ b : List Byte, s.awake ∧ s.dev.cuvState = 1 ∧ s.dev.cuvSource bad = some b) ∧
    (∃ s : State, ∃ bad : Bool, s.awake ∧ s.dev.cuvState = 2 ∧ s.dev.cuvSource bad = none) ∧
    (∃ s : State, ∃ bad : Bool, ∃ b : List Byte, s.awake ∧ s.dev.cuvState = 2 ∧ s.dev.cuvSource bad = some b) ∧
    (∃ s : State, ∃ p : Pipe, s.awake ∧ Tab.find s.dev.hub.cuvl.wholes p = some .closing ∧ s.dev.takesShut p = true) ∧
    (∃ s : State, ∃ p : Pipe, s.awake ∧ (Tab.find s.dev.hub.cuvl.wholes p ≠ some .closing ∨ s.dev.takesShut p = false)) :=
  ⟨⟨st [(setReach · .CUVL 0), (·.wr F.CUVL_STAT_STATE 5)], by decide +kernel⟩,
   ⟨st [(setReach · .CUVL 0), (·.wr F.CUVL_STAT_STATE 10)], by decide +kernel⟩,
   ⟨st [(setReach · .CUVL 0), (·.wr F.CUVL_STAT_STATE 2)], by decide +kernel⟩,
   ⟨st [(setReach · .CUVL 0), (·.wr F.CUVL_STAT_STATE 7)], by decide +kernel⟩,
   ⟨st [fun d => { d with hub.cuvl.sects := [⟨0, 0, false, 0, 0, 0, 0, 0⟩] }, (setReach · .CUVL 0), (·.wr F.CUVL_STAT_STATE 3)],
     { code := 32, det := some 0, sect := 0, word := 0 }, by decide +kernel⟩,
   ⟨st [(setReach · .CUVL 0), (·.wr F.CUVL_STAT_STATE 3)], by decide +kernel⟩,
   ⟨st [(·.wr F.CUVL_STAT_STATE 1)], true, by decide +kernel⟩,
   ⟨st [(setHostOk · true), fun d => (d.wr F.CUVL_LEN_LEN 16).wr F.CUVL_CFG_SRC 0, (·.wr F.CUVL_STAT_STATE 1)], false, [0, 0, 0, 0, 0, 0, 0,
     0, 0, 0, 0, 0, 0, 0, 0, 0], by decide +kernel⟩,
   ⟨st [(·.wr F.CUVL_STAT_STATE 2)], true, by decide +kernel⟩,
   ⟨st [(setHostOk · true), (·.wr F.CUVL_STAT_STATE 2)], false, [], by decide +kernel⟩,
   ⟨st [fun d => { d with hub.cuvl.wholes := Tab.put d.hub.cuvl.wholes 3 .closing }, (setTakesShut · true 3)], 3, by decide +kernel⟩,
   ⟨State.reset, 2, by decide +kernel⟩⟩

theorem wit_CuveeJob_2 :
    (∃ s : State, ∃ p : Pipe, ∃ x : CuvSect, s.awake ∧ s.dev.hub.cuvl.sects.find? (fun x => x.pipe == p.val) = some x ∧ Tab.find
      s.dev.hub.cuvl.wholes p = some .loading ∧ s.dev.rd F.PCTL_STAT_STATE p = 2) ∧
    (∃ s : State, ∃ p : Pipe, s.awake ∧ (Tab.find s.dev.hub.cuvl.wholes p ≠ some .loading ∨ s.dev.rd F.PCTL_STAT_STATE p ≠ 2)) ∧
    (∃ s : State, ∃ y : CuvSect, s.awake ∧ s.dev.cuvState = 4 ∧ y ∈ s.dev.hub.cuvl.sects) ∧
    (∃ s : State, s.awake ∧ (s.dev.cuvState ≠ 4 ∨ s.dev.hub.cuvl.sects = [])) ∧
    (∃ s : State, ∃ p : Pipe, ∃ cls i : Fin 128, s.awake ∧ s.dev.hub.cuvl.ctxs.contains (p.val, cls.val, i.val) = true ∧ s.dev.ctxSeam p
      (cls.val, i.val) = true) ∧
    (∃ s : State, ∃ p : Pipe, ∃ cls i : Fin 128, s.awake ∧ (s.dev.hub.cuvl.ctxs.contains (p.val, cls.val, i.val) = false ∨ s.dev.ctxSeam p
      (cls.val, i.val) = false)) ∧
    (∃ s : State, ∃ p : Pipe, s.awake ∧ s.dev.hub.cuvl.recPend.contains p.val = true ∧ s.dev.takesShut p = true ∧ (∀ v, v < 16 → s.dev.on
      F.SFE_VCG_REC p v = true → (s.dev.vc p v).open_ = false)) ∧
    (∃ s : State, ∃ p : Pipe, s.awake ∧ (s.dev.hub.cuvl.recPend.contains p.val = false ∨ s.dev.takesShut p = false ∨ ∃ v, v < 16 ∧ s.dev.on
      F.SFE_VCG_REC p v = true ∧ (s.dev.vc p v).open_ = true)) :=
  ⟨⟨st [fun d => { d with hub.cuvl.sects := [⟨0, 0, true, 0, 0, 0, 0, 0⟩] }, fun d =>
     { d with hub.cuvl.wholes := Tab.put d.hub.cuvl.wholes 0 .loading }, (·.wr F.PCTL_STAT_STATE 2 0)], 0,
     { idx := 0, pipe := 0, whole := true, base := 0, gen := 0, mask := 0, off := 0, len := 0 }, by decide +kernel⟩,
   ⟨State.reset, 1, by decide +kernel⟩,
   ⟨st [fun d =>
     { d with hub.cuvl.sects := (({ idx := 34, pipe := 2, whole := true, base := 3, gen := 3, mask := 3, off := 3, len := 2836 } : CuvSect)) :: d.hub.cuvl.sects },
     (·.wr F.CUVL_STAT_STATE 4)], { idx := 34, pipe := 2, whole := true, base := 3, gen := 3, mask := 3, off := 3, len := 2836 },
     by decide +kernel⟩,
   ⟨State.reset, by decide +kernel⟩,
   ⟨st [fun d => { d with hub.cuvl.ctxs := (1, 0, 0) :: d.hub.cuvl.ctxs }], 1, 0, 0, by decide +kernel⟩,
   ⟨State.reset, 0, 2, 1, by decide +kernel⟩,
   ⟨st [fun d => { d with hub.cuvl.recPend := 3 :: d.hub.cuvl.recPend }, (setTakesShut · true 3)], 3, by decide +kernel⟩,
   ⟨State.reset, 0, by decide +kernel⟩⟩

theorem wit_LaneTraining_1 :
    (∃ s : State, ∃ u : Unit5, ∃ k : Fin 12, ∃ r : ℕ, s.awake ∧ k.val < laneCount u ∧ s.dev.inStage u k 2 = some r ∧ s.dev.roleKind u r ≠ 5) ∧
    (∃ s : State, ∃ u : Unit5, ∃ k : Fin 12, s.awake ∧ k.val < laneCount u ∧ s.dev.inStage u k 2 = none) ∧
    (∃ s : State, ∃ u : Unit5, ∃ k : Fin 12, ∃ r : ℕ, s.awake ∧ k.val < laneCount u ∧ s.dev.inStage u k 3 = some r) ∧
    (∃ s : State, ∃ u : Unit5, ∃ k : Fin 12, s.awake ∧ k.val < laneCount u ∧ s.dev.inStage u k 3 = none) ∧
    (∃ s : State, ∃ u : Unit5, ∃ k : Fin 12, ∃ r : ℕ, s.awake ∧ k.val < laneCount u ∧ s.dev.inStage u k 4 = some r) ∧
    (∃ s : State, ∃ u : Unit5, ∃ k : Fin 12, s.awake ∧ k.val < laneCount u ∧ s.dev.inStage u k 4 = none) ∧
    (∃ s : State, ∃ u : Unit5, ∃ k : Fin 12, ∃ r v : ℕ, s.awake ∧ k.val < laneCount u ∧ s.dev.slotOf u k = some r ∧ (s.dev.role u r).attempt =
      true ∧ (v = 2 ∨ v = 3 ∨ (v = 4 ∧ s.dev.on F.LANE_STAT_BLOCK u k = false)) ∧ s.dev.stage u k = v) ∧
    (∃ s : State, ∃ u : Unit5, ∃ k : Fin 12, ∃ r : ℕ, s.awake ∧ k.val < laneCount u ∧ s.dev.slotOf u k = some r ∧ (s.dev.role u r).attempt =
      true ∧ s.dev.stage u k = 6) ∧
    (∃ s : State, ∃ u : Unit5, ∃ k : Fin 12, s.awake ∧ k.val < laneCount u ∧ (s.dev.slotOf u k = none ∨ s.dev.stage u k ≤ 1 ∨ 7 ≤ s.dev.stage
      u k)) ∧
    (∃ s : State, ∃ u : Unit5, ∃ k : Fin 12, s.awake ∧ k.val < laneCount u ∧ (s.dev.slotOf u k = none ∨ ∃ r, s.dev.slotOf u k = some r ∧
      (s.dev.roleKind u r = 2 ∨ s.dev.roleKind u r = 5))) ∧
    (∃ s : State, ∃ u : Unit5, ∃ k : Fin 12, ∃ raw : BitVec 66, ∃ r : ℕ, ∃ b : TrainBlock, s.awake ∧ k.val < laneCount u ∧ s.dev.slotOf u k =
      some r ∧ (s.dev.roleKind u r = 1 ∨ s.dev.roleKind u r = 6) ∧ s.dev.roleState u r ≠ 4 ∧ (s.dev.role u r).attempt = true ∧ trainOf
      (s.dev.laneBlk u k raw) = some b ∧ b.crcOk = true ∧ s.dev.stage u k = 5) ∧
    (∃ s : State, ∃ u : Unit5, ∃ k : Fin 12, ∃ raw : BitVec 66, ∃ r : ℕ, ∃ b : TrainBlock, s.awake ∧ k.val < laneCount u ∧ s.dev.slotOf u k =
      some r ∧ (s.dev.roleKind u r = 1 ∨ s.dev.roleKind u r = 6) ∧ s.dev.roleState u r ≠ 4 ∧ (s.dev.role u r).attempt = true ∧ trainOf
      (s.dev.laneBlk u k raw) = some b ∧ b.crcOk = true ∧ (s.dev.stage u k = 6 ∨ s.dev.stage u k = 7)) :=
  ⟨⟨st [(setInStage · true 0 1 2)], 0, 1, 0, by decide +kernel⟩,
   ⟨st [(setInStage · false 0 1 2)], 0, 1, by decide +kernel⟩,
   ⟨st [(setInStage · true 2 7 3)], 2, 7, 2, by decide +kernel⟩,
   ⟨st [(setInStage · false 2 7 3)], 2, 7, by decide +kernel⟩,
   ⟨st [(setInStage · true 0 1 4)], 0, 1, 0, by decide +kernel⟩,
   ⟨st [(setInStage · false 0 1 4)], 0, 1, by decide +kernel⟩,
   ⟨st [(·.wr F.LANE_STAT_STAGE 3 1 2), (setSlotOf · true 1 2), fun d => modRole d 1 0 fun x => { x with attempt := true }], 1, 2, 0, 3,
     by decide +kernel⟩,
   ⟨st [(setSlotOf · true 0 1), fun d => modRole d 0 0 fun x => { x with attempt := true }, (·.wr F.LANE_STAT_STAGE 6 0 1)], 0, 1, 0,
     by decide +kernel⟩,
   ⟨State.reset, 2, 1, by decide +kernel⟩,
   ⟨State.reset, 0, 2, by decide +kernel⟩,
   ⟨st [(setSlotOf · true 1 2), (·.wr F.LANE_ROLE_STAT_STATE 5 1 0), fun d => modRole d 1 0 fun x => { x with attempt := true }, (·.wr
     F.LANE_STAT_STAGE 5 1 2)], 1, 2, 136356823568205, 0,
     { crcOk := true, ts2 := true, lid := 0, nlane := 3, rate := 2, seq := 3, rdy := true, port := 31 }, by decide +kernel⟩,
   ⟨st [(setSlotOf · true 0 3), (·.wr F.LANE_ROLE_STAT_STATE 5 0 0), fun d => modRole d 0 0 fun x => { x with attempt := true }, (·.wr
     F.LANE_STAT_STAGE 7 0 3)], 0, 3, 21329355715798894413, 0,
     { crcOk := true, ts2 := true, lid := 0, nlane := 1, rate := 9, seq := 2, rdy := true, port := 70 }, by decide +kernel⟩⟩

theorem wit_LaneTraining_2 :
    (∃ s : State, ∃ u : Unit5, ∃ k : Fin 12, ∃ raw : BitVec 66, ∃ r : ℕ, ∃ b : TrainBlock, s.awake ∧ k.val < laneCount u ∧ s.dev.slotOf u k =
      some r ∧ (s.dev.roleKind u r = 1 ∨ s.dev.roleKind u r = 6) ∧ s.dev.roleState u r ≠ 4 ∧ (s.dev.role u r).attempt = true ∧ s.dev.stage
      u k = 5 ∧ trainOf (blkInv (s.dev.laneBlk u k raw)) = some b ∧ b.crcOk = true ∧ (s.dev.lane u k).settled = false ∧ (s.dev.lane u
      k).inv = 7) ∧
    (∃ s : State, ∃ u : Unit5, ∃ k : Fin 12, ∃ raw : BitVec 66, ∃ r : ℕ, s.awake ∧ k.val < laneCount u ∧ s.dev.slotOf u k = some r ∧
      (s.dev.roleKind u r = 1 ∨ s.dev.roleKind u r = 6) ∧ s.dev.roleState u r ≠ 4 ∧ (s.dev.role u r).attempt = true ∧ blkByte
      (s.dev.laneBlk u k raw) 0 ≠ 0xD2 ∧ blkByte (s.dev.laneBlk u k raw) 0 ≠ 0xD3 ∧ s.dev.stage u k = 5 ∧ blkByte (blkInv (s.dev.laneBlk u
      k raw)) 0 ≠ 0xD2 ∧ blkByte (blkInv (s.dev.laneBlk u k raw)) 0 ≠ 0xD3) ∧
    (∃ s : State, ∃ u : Unit5, ∃ k : Fin 12, ∃ raw : BitVec 66, ∃ r : ℕ, s.awake ∧ k.val < laneCount u ∧ s.dev.slotOf u k = some r ∧
      (s.dev.roleKind u r = 1 ∨ s.dev.roleKind u r = 6) ∧ s.dev.roleState u r ≠ 4 ∧ (s.dev.role u r).attempt = true ∧ blkByte
      (s.dev.laneBlk u k raw) 0 ≠ 0xD2 ∧ blkByte (s.dev.laneBlk u k raw) 0 ≠ 0xD3 ∧ s.dev.stage u k = 7 ∧ 16 ≤ (s.dev.lane u k).ts2 ∧ (∀ j
      ∈ s.dev.roleLanes u r, s.dev.stage u j = 7 ∧ (j = k.val ∨ (s.dev.lane u j).done = true))) ∧
    (∃ s : State, ∃ u : Unit5, ∃ k : Fin 12, s.awake ∧ k.val < laneCount u ∧ s.dev.stage u k ≠ 8) ∧
    (∃ s : State, ∃ u : Unit5, ∃ k : Fin 12, s.awake ∧ k.val < laneCount u ∧ s.dev.stage u k = 8 ∧ s.dev.on F.LANE_CTLE_ADAPT u k = true ∧
      s.dev.on F.LANE_CTLE_FREEZE u k = true) ∧
    (∃ s : State, ∃ u : Unit5, ∃ k : Fin 12, s.awake ∧ k.val < laneCount u ∧ s.dev.stage u k = 8 ∧ s.dev.on F.LANE_CTLE_ADAPT u k = true ∧
      s.dev.on F.LANE_CTLE_FREEZE u k = false ∧ s.dev.rd F.LANE_CTLE_NOW u k < 32) ∧
    (∃ s : State, ∃ u : Unit5, ∃ r : Fin 7, s.awake ∧ r.val < roleCount u ∧ (s.dev.roleState u r = 0 ∨ s.dev.roleState u r = 1 ∨
      s.dev.roleState u r = 4)) ∧
    (∃ s : State, ∃ u : Unit5, ∃ r : Fin 7, s.awake ∧ r.val < roleCount u ∧ s.dev.roleState u r ≠ 0 ∧ s.dev.roleState u r ≠ 1 ∧
      s.dev.roleState u r ≠ 4 ∧ (s.dev.role u r).attempt = true ∧ (s.dev.role u r).aligned = true ∧ (s.dev.role u r).held = false) ∧
    (∃ s : State, ∃ u : Unit5, ∃ r : Fin 7, s.awake ∧ r.val < roleCount u ∧ s.dev.roleState u r ≠ 0 ∧ s.dev.roleState u r ≠ 1 ∧
      s.dev.roleState u r ≠ 4 ∧ (s.dev.role u r).attempt = false ∧ (s.dev.role u r).episode = false ∧ s.dev.refOk u r = true) ∧
    (∃ s : State, ∃ u : Unit5, ∃ r : Fin 7, s.awake ∧ r.val < roleCount u ∧ s.dev.roleState u r ≠ 0 ∧ s.dev.roleState u r ≠ 1 ∧
      s.dev.roleState u r ≠ 4 ∧ (s.dev.role u r).aligned = false ∧ (s.dev.role u r).episode = true ∧ s.dev.refOk u r = true) ∧
    (∃ s : State, ∃ p : Pipe, ∃ k : Fin 6, ∃ r : ℕ, s.awake ∧ s.dev.slotOf p (6 + k) = some r ∧ s.dev.roleKind p r = 5 ∧ (s.dev.role p
      r).attempt = true ∧ s.dev.stage p (6 + k) = 2) ∧
    (∃ s : State, ∃ p : Pipe, ∃ k : Fin 6, ∃ r : ℕ, s.awake ∧ s.dev.slotOf p (6 + k) = some r ∧ (s.dev.roleKind p r ≠ 5 ∨ (s.dev.role p
      r).attempt = false ∨ s.dev.stage p (6 + k) ≠ 2)) :=
  ⟨⟨st [(setSlotOf · true 0 0), (·.wr F.LANE_ROLE_STAT_STATE 5 0 0), fun d => modRole d 0 0 fun x => { x with attempt := true }, (·.wr
     F.LANE_STAT_STAGE 5 0 0), fun d => modLane d 0 0 fun x => { x with settled := false }, fun d => modLane d 0 0 fun x =>
     { x with inv := 7 }], 0, 0, 24787596827452241074, 0,
     { crcOk := true, ts2 := true, lid := 0, nlane := 2, rate := 7, seq := 2, rdy := true, port := 49 }, by decide +kernel⟩,
   ⟨st [(setSlotOf · true 1 0), (·.wr F.LANE_ROLE_STAT_STATE 8 1 0), fun d => modRole d 1 0 fun x => { x with attempt := true }, (·.wr
     F.LANE_STAT_STAGE 5 1 0)], 1, 0, 6384021178647424389, 0, by decide +kernel⟩,
   ⟨st [(setSlotOf · true 1 2), fun d => modRole d 1 0 fun x => { x with attempt := true }, (·.wr F.LANE_SCFG_SMASK 4 1), fun d => modRole d 1 0
     fun x => { x with attempt := true }, (·.wr F.LANE_STAT_STAGE 7 1 2), fun d => modLane d 1 2 fun x => { x with ts2 := 20 }, (·.wr
     F.LANE_ROLE_STAT_STATE 3 1 0)], 1, 2, 2878384491470, 0, by decide +kernel⟩,
   ⟨st [(·.wr F.LANE_STAT_STAGE 9 0 1)], 0, 1, by decide +kernel⟩,
   ⟨st [(·.wr F.LANE_STAT_STAGE 8 2 7), (·.wr F.LANE_CTLE_FREEZE 1 2 7)], 2, 7, by decide +kernel⟩,
   ⟨st [(·.wr F.LANE_STAT_STAGE 8 0 1), (·.wr F.LANE_CTLE_NOW 4 0 1)], 0, 1, by decide +kernel⟩,
   ⟨State.reset, 2, 1, by decide +kernel⟩,
   ⟨st [(·.wr F.LANE_ROLE_STAT_STATE 6 2 1), fun d => modRole d 2 1 fun x => { x with attempt := true }, fun d => modRole d 2 1 fun x =>
     { x with aligned := true }, fun d => modRole d 2 1 fun x => { x with held := false }], 2, 1, by decide +kernel⟩,
   ⟨st [(·.wr F.LANE_ROLE_STAT_STATE 6 2 1), fun d => modRole d 2 1 fun x => { x with attempt := false }, fun d => modRole d 2 1 fun x =>
     { x with episode := false }, (setRefOk · true 2 1)], 2, 1, by decide +kernel⟩,
   ⟨st [(·.wr F.LANE_ROLE_STAT_STATE 6 2 1), fun d => modRole d 2 1 fun x => { x with aligned := false }, fun d => modRole d 2 1 fun x =>
     { x with episode := true }, (setRefOk · true 2 1)], 2, 1, by decide +kernel⟩,
   ⟨st [(setSlotOf · true 3 (6 + 5)), fun d => modRole d 3 6 fun x => { x with attempt := true }, (·.wr F.LANE_STAT_STAGE 2 3 (6 + 5))], 3, 5,
     6, by decide +kernel⟩,
   ⟨st [(setSlotOf · true 3 (6 + 5))], 3, 5, 6, by decide +kernel⟩⟩

theorem wit_LaneTraining_3 :
    (∃ s : State, ∃ p : Pipe, ∃ k : Fin 6, ∃ r : ℕ, s.awake ∧ s.dev.slotOf p (6 + k) = some r ∧ (s.dev.roleKind p r = 3 ∨ s.dev.roleKind p r =
      4) ∧ (s.dev.role p r).attempt = true ∧ (∀ j ∈ s.dev.roleLanes p r, s.dev.on F.LANE_STAT_BLOCK p j = true ∧ s.dev.stage p j ≠ 9)) ∧
    (∃ s : State, ∃ p : Pipe, ∃ k : Fin 6, ∃ r : ℕ, s.awake ∧ s.dev.slotOf p (6 + k) = some r ∧ (s.dev.role p r).attempt = false) ∧
    (∃ s : State, ∃ p : Pipe, ∃ mask : BitVec 4, s.awake ∧ s.dev.roleKind p 0 = 2 ∧ (s.dev.role p 0).attempt = true ∧ (∀ k ∈ s.dev.roleLanes p
      0, s.dev.stage p k = 1) ∧ (∀ k ∈ s.dev.dphyLanes p, bit mask.toNat k = true ∨ (s.dev.lane p k).done = true)) ∧
    (∃ s : State, ∃ p : Pipe, s.awake ∧ (s.dev.roleKind p 0 ≠ 2 ∨ (s.dev.role p 0).attempt = false)) :=
  ⟨⟨st [(setSlotOf · true 3 (6 + 0)), fun d => modRole d 3 1 fun x => { x with attempt := true }, (·.wr F.LANE_STAT_STAGE 6 3 6), fun d =>
     modRole d 3 1 fun x => { x with attempt := true }, fun d => (d.roleLanes 3 1).foldl (fun d j => (d.wr F.LANE_STAT_BLOCK 1 3 j).wr
     F.LANE_STAT_STAGE 6 3 j) d], 3, 0, 1, by decide +kernel⟩,
   ⟨st [(setSlotOf · true 3 (6 + 5)), fun d => modRole d 3 6 fun x => { x with attempt := false }], 3, 5, 6, by decide +kernel⟩,
   ⟨st [fun d => modRole d 3 0 fun x => { x with attempt := true }, (·.wr F.LANE_SCFG_SMODE 2 3), fun d => (d.roleLanes 3 0).foldl (fun d j =>
     d.wr F.LANE_STAT_STAGE 1 3 j) d], 3, 15, by decide +kernel⟩,
   ⟨State.reset, 3, by decide +kernel⟩⟩

theorem wit_LaneLossAndTest_1 :
    (∃ s : State, ∃ u : Unit5, ∃ k : Fin 12, ∃ r : ℕ, s.awake ∧ k.val < laneCount u ∧ s.dev.slotOf u k = some r ∧ s.dev.roleState u r = 4 ∧
      (s.dev.role u r).episode = false ∧ (s.dev.roleKind u r = 1 ∨ s.dev.roleKind u r = 3 ∨ s.dev.roleKind u r = 4 ∨ s.dev.roleKind u r =
      6)) ∧
    (∃ s : State, ∃ u : Unit5, ∃ k : Fin 12, ∃ r : ℕ, s.awake ∧ k.val < laneCount u ∧ s.dev.slotOf u k = some r ∧ s.dev.roleState u r = 4 ∧
      (s.dev.role u r).episode = false ∧ (s.dev.roleKind u r = 3 ∨ s.dev.roleKind u r = 4)) ∧
    (∃ s : State, ∃ u : Unit5, ∃ k : Fin 12, ∃ r : ℕ, s.awake ∧ k.val < laneCount u ∧ s.dev.slotOf u k = some r ∧ s.dev.roleState u r = 4 ∧
      (s.dev.role u r).episode = false ∧ s.dev.roleKind u r = 5) ∧
    (∃ s : State, ∃ u : Unit5, ∃ k : Fin 12, ∃ r : ℕ, ∃ raw : BitVec 66, ∃ b : TrainBlock, s.awake ∧ k.val < laneCount u ∧ s.dev.slotOf u k =
      some r ∧ s.dev.roleState u r = 4 ∧ (s.dev.role u r).episode = false ∧ (s.dev.roleKind u r = 1 ∨ s.dev.roleKind u r = 6) ∧ trainOf
      (s.dev.laneBlk u k raw) = some b ∧ b.crcOk = true) ∧
    (∃ s : State, ∃ u : Unit5, ∃ k : Fin 12, ∃ r : ℕ, ∃ raw : BitVec 66, s.awake ∧ k.val < laneCount u ∧ s.dev.slotOf u k = some r ∧
      s.dev.roleState u r = 4 ∧ (s.dev.role u r).episode = false ∧ s.dev.roleKind u r ≠ 2 ∧ s.dev.roleKind u r ≠ 5 ∧ blkValid
      (s.dev.laneBlk u k raw) = false ∧ 15 ≤ ((s.dev.lane u k).hdrs.take 63 |>.filter fun v => !v).length) ∧
    (∃ s : State, ∃ u : Unit5, ∃ r : Fin 7, s.awake ∧ r.val < roleCount u ∧ (s.dev.role u r).episode = true ∧ (s.dev.role u r).down = false) ∧
    (∃ s : State, ∃ u : Unit5, ∃ r : Fin 7, s.awake ∧ r.val < roleCount u ∧ ((s.dev.role u r).episode = false ∨ (s.dev.role u r).down = true)) ∧
    (∃ s : State, ∃ u : Unit5, ∃ mask : BitVec 12, ∃ r : ℕ, s.awake ∧ s.dev.reaches .LANE u = true ∧ r < 7 ∧ (∃ k ∈ s.dev.roleLanes u r, bit
      mask.toNat k = true) ∧ (s.dev.roleState u r = 4 ∨ s.dev.roleState u r = 3) ∧ (s.dev.role u r).episode = false) ∧
    (∃ s : State, ∃ u : Unit5, ∃ mask : BitVec 12, s.awake ∧ s.dev.reaches .LANE u = true ∧ (∀ r, r < 7 → ∀ k ∈ s.dev.roleLanes u r, bit
      mask.toNat k = false)) ∧
    (∃ s : State, ∃ p : Pipe, s.awake ∧ s.dev.roleKind p 0 = 2 ∧ s.dev.roleState p 0 = 4 ∧ (s.dev.role p 0).episode = false) ∧
    (∃ s : State, ∃ p : Pipe, s.awake ∧ (s.dev.roleKind p 0 ≠ 2 ∨ s.dev.roleState p 0 ≠ 4)) ∧
    (∃ s : State, ∃ u : Unit5, ∃ i : Fin 3, s.awake ∧ (s.dev.on F.TIME_STAT_REFFAULT = true ∨ s.dev.refDeclared u i = false)) :=
  ⟨⟨st [(setSlotOf · true 0 1), (·.wr F.LANE_ROLE_STAT_STATE 4 0 0), fun d => modRole d 0 0 fun x => { x with episode := false }], 0, 1, 0,
     by decide +kernel⟩,
   ⟨st [(setSlotOf · true 1 6), (·.wr F.LANE_ROLE_STAT_STATE 4 1 1), fun d => modRole d 1 1 fun x => { x with episode := false }], 1, 6, 1,
     by decide +kernel⟩,
   ⟨st [(setSlotOf · true 0 7), (·.wr F.LANE_ROLE_STAT_STATE 4 0 2), fun d => modRole d 0 2 fun x => { x with episode := false }], 0, 7, 2,
     by decide +kernel⟩,
   ⟨st [(setSlotOf · true 0 2), (·.wr F.LANE_ROLE_STAT_STATE 4 0 0), fun d => modRole d 0 0 fun x => { x with episode := false }], 0, 2, 0,
     1729597778504733517, { crcOk := true, ts2 := true, lid := 1, nlane := 4, rate := 5, seq := 2, rdy := true, port := 49 },
     by decide +kernel⟩,
   ⟨st [(setSlotOf · true 1 2), (·.wr F.LANE_ROLE_STAT_STATE 4 1 0), fun d => modRole d 1 0 fun x => { x with episode := false }, (·.wr
     F.LANE_SCFG_SMASK 4 1), fun d => modLane d 1 2 fun x => { x with hdrs := List.replicate 20 false }], 1, 2, 0, 4590112546868038544,
     by decide +kernel⟩,
   ⟨st [fun d => modRole d 2 1 fun x => { x with episode := true }, fun d => modRole d 2 1 fun x => { x with down := false }], 2, 1,
     by decide +kernel⟩,
   ⟨st [fun d => modRole d 2 1 fun x => { x with down := true }], 2, 1, by decide +kernel⟩,
   ⟨st [(setReach · .LANE 1), fun d => modRole d 1 0 fun x => { x with episode := false }, (·.wr F.LANE_SCFG_SMODE 1 1), (·.wr F.LANE_SCFG_SMASK
     63 1), (·.wr F.LANE_ROLE_STAT_STATE 4 1 0)], 1, 63, 0, by decide +kernel⟩,
   ⟨st [(setReach · .LANE 2)], 2, 991, by decide +kernel⟩,
   ⟨st [(·.wr F.LANE_ROLE_STAT_STATE 4 3 0), fun d => modRole d 3 0 fun x => { x with episode := false }, (·.wr F.LANE_SCFG_SMODE 2 3)], 3,
     by decide +kernel⟩,
   ⟨State.reset, 1, by decide +kernel⟩,
   ⟨st [(setRefDeclared · false 2 2)], 2, 2, by decide +kernel⟩⟩

theorem wit_LaneLossAndTest_2 :
    (∃ s : State, ∃ u : Unit5, ∃ i : Fin 3, s.awake ∧ s.dev.on F.TIME_STAT_REFFAULT = false ∧ s.dev.refDeclared u i = true) ∧
    (∃ s : State, ∃ u : Unit5, ∃ k : Fin 12, ∃ w : Word, s.awake ∧ k.val < laneCount u ∧ s.dev.reaches .LANE u = true ∧ (u.val = 4 ∨ 6 ≤
      k.val) ∧ firOk w.toNat = true) ∧
    (∃ s : State, ∃ u : Unit5, ∃ k : Fin 12, ∃ w : Word, s.awake ∧ k.val < laneCount u ∧ s.dev.reaches .LANE u = true ∧ ((u.val ≠ 4 ∧ k.val <
      6) ∨ firOk w.toNat = false)) ∧
    (∃ s : State, ∃ u : Unit5, ∃ k : Fin 12, s.awake ∧ k.val < laneCount u ∧ s.dev.on F.LANE_PRBS_CTL_TEST u k = true ∧ s.dev.on
      F.LANE_PRBS_CTL_CHK_EN u k = true ∧ (s.dev.on F.LANE_PRBS_CTL_LOOP u k = false ∨ s.dev.on F.LANE_PRBS_CTL_GEN_EN u k = false) ∧
      (u.val = 4 ∨ k.val < 6)) ∧
    (∃ s : State, ∃ u : Unit5, ∃ k : Fin 12, s.awake ∧ k.val < laneCount u ∧ (s.dev.on F.LANE_PRBS_CTL_TEST u k = false ∨ s.dev.on
      F.LANE_PRBS_CTL_CHK_EN u k = false)) :=
  ⟨⟨st [(setRefDeclared · true 2 2)], 2, 2, by decide +kernel⟩,
   ⟨st [(setReach · .LANE 0)], 0, 7, 1166766369, by decide +kernel⟩,
   ⟨st [(setReach · .LANE 2)], 2, 7, 435785377, by decide +kernel⟩,
   ⟨st [(·.wr F.LANE_PRBS_CTL_TEST 1 4 0), (·.wr F.LANE_PRBS_CTL_CHK_EN 1 4 0)], 4, 0, by decide +kernel⟩,
   ⟨State.reset, 4, 0, by decide +kernel⟩⟩

theorem wit_SensorPackets_1 :
    (∃ s : State, ∃ p : Pipe, s.awake ∧ s.dev.sfeFlows p = false) ∧
    (∃ s : State, ∃ p : Pipe, ∃ h : BitVec 32, ∃ rows : List (List RxBlock), s.awake ∧ s.dev.sfeFlows p = true ∧ s.dev.smode p ≠ 2 ∧
      (s.dev.sfe p).link = none ∧ (∀ row ∈ rows, ∀ b ∈ row, b.hdr = 1) ∧ (csiHeader h.toNat).1 = .multiple ∧ s.dev.cnt C.SFE_ERR_CNT p 1 <
      2 ^ 48) ∧
    (∃ s : State, ∃ p : Pipe, ∃ h : BitVec 32, ∃ rows : List (List RxBlock), ∃ v : ℕ, s.awake ∧ s.dev.sfeFlows p = true ∧ s.dev.smode p ≠ 2 ∧
      (s.dev.sfe p).link = none ∧ (∀ row ∈ rows, ∀ b ∈ row, b.hdr = 1) ∧ (csiHeader h.toNat).1 = .ok ∧ v = hdrVc (csiHeader h.toNat).2 ∧
      s.dev.on F.SFE_VCG_EN p v = true ∧ hdrDt (csiHeader h.toNat).2 ≠ 0x12 ∧ hdrDt (csiHeader h.toNat).2 = s.dev.rd F.SFE_VCG_DT p v ∧
      (s.dev.vc p v).open_ = true ∧ hdrWc (csiHeader h.toNat).2 = s.dev.rd F.SFE_VCG_WIDTH p v * rawBits (hdrDt (csiHeader h.toNat).2) / 8
      ∧ (s.dev.vc p v).lines + (s.dev.vc p v).holes < s.dev.rd F.SFE_VCL_LINES p v) ∧
    (∃ s : State, ∃ p : Pipe, ∃ lanes : List (List Byte), ∃ bs : List Byte, ∃ v : ℕ, s.awake ∧ s.dev.sfeFlows p = true ∧ s.dev.smode p = 2 ∧
      bs = s.dev.burstBytes p lanes ∧ (csiHeader (ofLeBytes (bs.take 4))).1 = .ok ∧ v = hdrVc (csiHeader (ofLeBytes (bs.take 4))).2 ∧
      s.dev.on F.SFE_VCG_EN p v = true ∧ 0x13 ≤ hdrDt (csiHeader (ofLeBytes (bs.take 4))).2 ∧ hdrDt (csiHeader (ofLeBytes (bs.take 4))).2
      = s.dev.rd F.SFE_VCG_DT p v ∧ (s.dev.vc p v).open_ = true ∧ hdrWc (csiHeader (ofLeBytes (bs.take 4))).2 = s.dev.rd F.SFE_VCG_WIDTH p
      v * rawBits (hdrDt (csiHeader (ofLeBytes (bs.take 4))).2) / 8 ∧ (s.dev.vc p v).lines + (s.dev.vc p v).holes < s.dev.rd
      F.SFE_VCL_LINES p v) ∧
    (∃ s : State, ∃ p : Pipe, ∃ di ecc : Byte, ∃ wc : BitVec 16, ∃ h : BitVec (8 + 16 + 8), ∃ v : ℕ, s.awake ∧ h = ecc ++ wc ++ di ∧
      s.dev.sfeFlows p = true ∧ (s.dev.sfe p).link = none ∧ (csiHeader h.toNat).1 ≠ .multiple ∧ v = hdrVc (csiHeader h.toNat).2 ∧ hdrDt
      (csiHeader h.toNat).2 = 0 ∧ s.dev.on F.SFE_VCG_EN p v = true) ∧
    (∃ s : State, ∃ p : Pipe, ∃ di ecc : Byte, ∃ wc : BitVec 16, ∃ h : BitVec (8 + 16 + 8), ∃ v : ℕ, s.awake ∧ h = ecc ++ wc ++ di ∧
      s.dev.sfeFlows p = true ∧ (s.dev.sfe p).link = none ∧ (csiHeader h.toNat).1 ≠ .multiple ∧ v = hdrVc (csiHeader h.toNat).2 ∧ hdrDt
      (csiHeader h.toNat).2 = 1 ∧ s.dev.on F.SFE_VCG_EN p v = true ∧ (s.dev.vc p v).open_ = true) ∧
    (∃ s : State, ∃ p : Pipe, ∃ di ecc : Byte, ∃ wc : BitVec 16, ∃ h : BitVec (8 + 16 + 8), s.awake ∧ h = ecc ++ wc ++ di ∧ s.dev.sfeFlows p =
      true ∧ (s.dev.sfe p).link = none ∧ (csiHeader h.toNat).1 = .ok ∧ hdrDt (csiHeader h.toNat).2 = 1 ∧ s.dev.on F.SFE_VCG_EN p (hdrVc
      (csiHeader h.toNat).2) = true ∧ (s.dev.vc p (hdrVc (csiHeader h.toNat).2)).open_ = false) ∧
    (∃ s : State, ∃ p : Pipe, ∃ di ecc : Byte, ∃ wc : BitVec 16, ∃ h : BitVec (8 + 16 + 8), s.awake ∧ h = ecc ++ wc ++ di ∧ s.dev.sfeFlows p =
      true ∧ (s.dev.sfe p).link = none ∧ (csiHeader h.toNat).1 = .ok ∧ (hdrDt (csiHeader h.toNat).2 = 2 ∨ hdrDt (csiHeader h.toNat).2 = 3
      ∨ 8 ≤ hdrDt (csiHeader h.toNat).2 ∧ hdrDt (csiHeader h.toNat).2 ≤ 15)) ∧
    (∃ s : State, ∃ p : Pipe, s.awake ∧ (s.dev.sfe p).reading = false) ∧
    (∃ s : State, ∃ p : Pipe, ∃ tries : List (List Byte), s.awake ∧ (s.dev.sfe p).reading = true ∧ s.dev.idDue p = true ∧ (tries.take
      3).findSome? identityOf = none) ∧
    (∃ s : State, ∃ p : Pipe, ∃ tries : List (List Byte), ∃ serial insert mode : ℕ, s.awake ∧ (s.dev.sfe p).reading = true ∧ s.dev.idDue p =
      true ∧ (tries.take 3).findSome? identityOf = some (serial, insert, mode)) ∧
    (∃ s : State, ∃ p : Pipe, s.awake ∧ s.dev.reaches .SFE p = true ∧ s.dev.on F.SFE_I3C_STAT_BUSY p = true) :=
  ⟨⟨st [(setSfeFlows · false 0)], 0, by decide +kernel⟩,
   ⟨st [(setSfeFlows · true 0), fun d => modSfe d 0 fun x => { x with link := none }], 0, 8388612, [], by decide +kernel⟩,
   ⟨st [(setSfeFlows · true 3), fun d => modSfe d 3 fun x => { x with link := none }, (·.wr F.SFE_VCG_EN 1 3 1), fun d => modVc d 3 1 fun x =>
     { x with open_ := true }, fun d => ((d.wr F.SFE_VCG_DT 0x2A 3 1).wr F.SFE_VCG_WIDTH 4 3 1).wr F.SFE_VCL_LINES 6 3 1], 3, 620758122,
     [[{ hdr := 1, pay := 5 }]], 1, by decide +kernel⟩,
   ⟨st [fun d => (d.wr F.SFE_DPHY_CFG_NDL 0 3).wr F.LANE_SCFG_DPOL 0 3, (setSfeFlows · true 3), (·.wr F.SFE_VCG_EN 1 3 1), fun d => modVc d 3 1
     fun x => { x with open_ := true }, fun d => ((d.wr F.SFE_VCG_DT 0x2A 3 1).wr F.SFE_VCG_WIDTH 4 3 1).wr F.SFE_VCL_LINES 6 3 1, fun d
     => (d.wr F.LANE_SCFG_SMODE 2 3).wr F.LANE_ROLE_STAT_STATE 4 3 0, fun d => modSfe d 3 fun x => { x with dphyOk := true }], 3, [[106, 4,
     0, 37, 9, 9, 9, 9, 0, 0]], [106, 4, 0, 37, 9, 9, 9, 9, 0, 0], 1, by decide +kernel⟩,
   ⟨st [(setSfeFlows · true 3), fun d => modSfe d 3 fun x => { x with link := none }, (·.wr F.SFE_VCG_EN 1 3 1)], 3, 64, 22, 0, 369098816, 1,
     by decide +kernel⟩,
   ⟨st [(setSfeFlows · true 3), fun d => modSfe d 3 fun x => { x with link := none }, (·.wr F.SFE_VCG_EN 1 3 1), fun d => modVc d 3 1 fun x =>
     { x with open_ := true }], 3, 65, 17, 0, 285212737, 1, by decide +kernel⟩,
   ⟨st [(setSfeFlows · true 3), fun d => modSfe d 3 fun x => { x with link := none }, (·.wr F.SFE_VCG_EN 1 3 (hdrVc (csiHeader 285212737).2))],
     3, 65, 17, 0, 285212737, by decide +kernel⟩,
   ⟨st [(setSfeFlows · true 3), fun d => modSfe d 3 fun x => { x with link := none }], 3, 72, 24, 0, 402653256, by decide +kernel⟩,
   ⟨st [fun d => modSfe d 3 fun x => { x with reading := false }], 3, by decide +kernel⟩,
   ⟨st [fun d => modSfe d 3 fun x => { x with reading := true }, fun d => (d.wr F.LANE_SCFG_SMODE 2 3).wr F.LANE_ROLE_STAT_STATE 4 3 0], 3,
     [[1, 2], []], by decide +kernel⟩,
   ⟨st [fun d => modSfe d 2 fun x => { x with reading := true }, fun d => (d.wr F.LANE_SCFG_SMODE 2 2).wr F.LANE_ROLE_STAT_STATE 4 2 0], 2,
     [[1, 0, 0, 0, 24, 0, 0, 0, 0, 0, 0, 0, 0, 0, 0, 0, 0, 0, 0, 0, 1, 0, 0, 0, 0, 0, 0, 0, 68, 140, 104, 89]], 24, 1, 0,
     by decide +kernel⟩,
   ⟨st [(setReach · .SFE 3), (·.wr F.SFE_I3C_STAT_BUSY 1 3)], 3, by decide +kernel⟩⟩

theorem wit_SensorPackets_2 :
    (∃ s : State, ∃ p : Pipe, ∃ w : Word, s.awake ∧ s.dev.reaches .SFE p = true ∧ s.dev.on F.SFE_I3C_STAT_BUSY p = false ∧ bit w.toNat 31 =
      true) ∧
    (∃ s : State, ∃ p : Pipe, s.awake ∧ s.dev.on F.SFE_I3C_STAT_BUSY p = true ∧ (s.dev.sfe p).trig = false) ∧
    (∃ s : State, ∃ p : Pipe, s.awake ∧ (s.dev.on F.SFE_I3C_STAT_BUSY p = false ∨ (s.dev.sfe p).trig = true)) :=
  ⟨⟨st [(setReach · .SFE 2), (·.wr F.SFE_I3C_STAT_BUSY 0 2)], 2, 4294965247, by decide +kernel⟩,
   ⟨st [(·.wr F.SFE_I3C_STAT_BUSY 1 2), fun d => modSfe d 2 fun x => { x with trig := false }], 2, by decide +kernel⟩,
   ⟨State.reset, 0, by decide +kernel⟩⟩

theorem wit_TakeCodec :
    (∃ s : State, ∃ p : Pipe, ∃ v : Fin 16, ∃ vals : List ℕ, ∃ dmg : Bool, ∃ n : ℕ, ∃ rest : List RecItem, s.awake ∧ (s.dev.enc p v).items =
      .row vals dmg n :: rest ∧ (rest = [] ∨ ∃ x y z r, rest = .row x y z :: r) ∧ (s.dev.enc p v).writing = true ∧ (s.dev.cask p (s.dev.rd
      F.PXR_ENC_VCC_CASK p v)).wait = [] ∧ (s.dev.pipe p).recp.flushed = false) ∧
    (∃ s : State, ∃ p : Pipe, ∃ v : Fin 16, s.awake ∧ ((s.dev.enc p v).items = [] ∨ (s.dev.cask p (s.dev.rd F.PXR_ENC_VCC_CASK p v)).wait ≠ []
      ∨ (s.dev.pipe p).recp.flushed = true)) ∧
    (∃ s : State, ∃ p : Pipe, ∃ j : Fin 4, ∃ status : ℕ, ∃ seq : Option ℕ, s.awake ∧ s.dev.reaches .PXR p = true ∧ (s.dev.rd
      F.PXR_DEC_STAT_STATE p j = 0 ∨ s.dev.rd F.PXR_DEC_STAT_STATE p j = 2) ∧ s.dev.pdecChecks p j = .inl (status, seq)) ∧
    (∃ s : State, ∃ p : Pipe, ∃ j : Fin 4, ∃ b : PxrJob, s.awake ∧ s.dev.reaches .PXR p = true ∧ (s.dev.rd F.PXR_DEC_STAT_STATE p j = 0 ∨
      s.dev.rd F.PXR_DEC_STAT_STATE p j = 2) ∧ s.dev.pdecChecks p j = .inr b) ∧
    (∃ s : State, ∃ p : Pipe, ∃ j : Fin 4, s.awake ∧ s.dev.reaches .PXR p = true ∧ s.dev.rd F.PXR_DEC_STAT_STATE p j ≠ 0 ∧ s.dev.rd
      F.PXR_DEC_STAT_STATE p j ≠ 2) ∧
    (∃ s : State, ∃ p : Pipe, ∃ j : Fin 4, s.awake ∧ s.dev.reaches .PXR p = true ∧ s.dev.rd F.PXR_DEC_STAT_STATE p j = 1) ∧
    (∃ s : State, ∃ p : Pipe, ∃ j : Fin 4, s.awake ∧ s.dev.reaches .PXR p = true ∧ s.dev.rd F.PXR_DEC_STAT_STATE p j ≠ 1) ∧
    (∃ s : State, ∃ p : Pipe, ∃ j : Fin 4, s.awake ∧ s.dev.rd F.PXR_DEC_STAT_STATE p j = 3) ∧
    (∃ s : State, ∃ p : Pipe, ∃ j : Fin 4, s.awake ∧ s.dev.rd F.PXR_DEC_STAT_STATE p j ≠ 1 ∧ s.dev.rd F.PXR_DEC_STAT_STATE p j ≠ 3) :=
  ⟨⟨st [fun d => modEnc d 3 2 fun x => { x with items := .row ([]) true 1 :: ([]) }, fun d => modEnc d 3 2 fun x => { x with writing := true },
     fun d => modCask d 3 (d.rd F.PXR_ENC_VCC_CASK 3 2) fun x => { x with wait := [] }, fun d => modPipe d 3 fun x =>
     { x with recp.flushed := false }], 3, 2, [], true, 1, [], ⟨by decide +kernel, by decide +kernel, .inl rfl, by decide +kernel⟩⟩,
   ⟨State.reset, 0, 7, by decide +kernel⟩,
   ⟨st [(setReach · .PXR 3), (·.wr F.PXR_DEC_STAT_STATE 0 3 3)], 3, 3, 21, none, by decide +kernel⟩,
   ⟨st [(setDramMap · 3), (·.wr F.PXR_DEC_CFG_OUT 1 3 3), (·.wr F.PXR_DEC_SLEN_LEN 64 3 3), (·.wr F.PXR_DEC_DSC_LO_ADDR_LO (64 / 2 ^
     (F.PXR_DEC_DSC_LO_ADDR_LO).lo) 3 3), fun d => modDram d 3 fun x => { x with mem := (x.mem.writes 0 pxrUnit).writes 64 pxrDesc },
     (setReach · .PXR 3), (·.wr F.PXR_DEC_STAT_STATE 0 3 3)], 3, 3,
     { geo := { bits := 0, width := 0, lines := 0, pw := 0, ph := 0, xph := 0, yph := 0, x0 := 0, sites := [0, 0, 0, 0, 0, 0, 0, 0, 0, 0, 0, 0, 0, 0, 0, 0, 0, 0, 0, 0, 0, 0, 0, 0, 0, 0, 0, 0, 0, 0, 0, 0, 0, 0, 0, 0, 0, 0, 0, 0, 0, 0, 0, 0, 0, 0, 0, 0, 0, 0, 0, 0, 0, 0, 0, 0, 0, 0, 0, 0, 0, 0, 0, 0], bounded := false, delta := 0, dmax := 0, t1 := 1, t2 := 2, t3 := 3, budget := 0 }, haloL := 0, haloR := 0, seq := 0 },
     by decide +kernel⟩,
   ⟨st [(setReach · .PXR 3), (·.wr F.PXR_DEC_STAT_STATE 4 3 3)], 3, 3, by decide +kernel⟩,
   ⟨st [(setReach · .PXR 3), (·.wr F.PXR_DEC_STAT_STATE 1 3 3)], 3, 3, by decide +kernel⟩,
   ⟨st [(setReach · .PXR 3), (·.wr F.PXR_DEC_STAT_STATE 2 3 3)], 3, 3, by decide +kernel⟩,
   ⟨st [(·.wr F.PXR_DEC_STAT_STATE 3 2 3)], 2, 3, by decide +kernel⟩,
   ⟨st [(·.wr F.PXR_DEC_STAT_STATE 5 0 3)], 0, 3, by decide +kernel⟩⟩

theorem wit_Veraison_1 :
    (∃ s : State, ∃ p : Pipe, ∃ u : Fin 8, s.awake ∧ s.dev.on F.VRS_CFG_EN p u = true ∧ s.dev.vrsRoom p u = false) ∧
    (∃ s : State, ∃ p : Pipe, ∃ u : Fin 8, ∃ r : Root, ∃ tok : Token, s.awake ∧ s.dev.on F.VRS_CFG_EN p u = true ∧ s.dev.vrsRoom p u = true ∧
      s.dev.on F.VRS_CFG_IN2 p u = false ∧ s.dev.offered p (.vrs (u / 2) (2 * (u % 2))) = some (r, tok) ∧ s.dev.cnt C.VRS_UNC_CNT p < 2 ^
      48) ∧
    (∃ s : State, ∃ p : Pipe, ∃ u : Fin 8, s.awake ∧ s.dev.on F.VRS_CFG_EN p u = false) ∧
    (∃ s : State, ∃ p : Pipe, ∃ u : Fin 8, ∃ k : Fin 128, s.awake ∧ s.dev.rd F.CASK_BIND_CONS p k ≠ 0x2060 + u.val) ∧
    (∃ s : State, ∃ p : Pipe, ∃ u : Fin 8, ∃ k : Fin 128, ∃ w : CaskWord, ∃ rest : List CaskWord, s.awake ∧ s.dev.rd F.CASK_BIND_CONS p k =
      0x2060 + u.val ∧ (s.dev.cask p k).marker = false ∧ (s.dev.cask p k).words = w :: rest ∧ w.fin = true) ∧
    (∃ s : State, ∃ p : Pipe, ∃ u : Fin 8, ∃ t : Fin 5, s.awake ∧ s.dev.reaches .VRS p = true ∧ s.dev.on F.VRS_BANK_STAT_HELD p u = false ∧
      (s.dev.vrsBack p u t).bad = true) ∧
    (∃ s : State, ∃ p : Pipe, ∃ u : Fin 8, ∃ t : Fin 5, s.awake ∧ s.dev.reaches .VRS p = true ∧ s.dev.on F.VRS_BANK_STAT_HELD p u = false ∧
      (s.dev.vrsBack p u t).bad = false ∧ (s.dev.vrsBack p u t).complete t = true) ∧
    (∃ s : State, ∃ p : Pipe, ∃ u : Fin 8, ∃ t : Fin 5, s.awake ∧ s.dev.reaches .VRS p = true ∧ s.dev.on F.VRS_BANK_STAT_HELD p u = false ∧
      (s.dev.vrsBack p u t).bad = false ∧ (s.dev.vrsBack p u t).complete t = false) ∧
    (∃ s : State, ∃ p : Pipe, ∃ u : Fin 8, ∃ mask : BitVec 5, s.awake ∧ s.dev.reaches .VRS p = true ∧ mask ≠ 0 ∧ s.dev.on F.VRS_BANK_STAT_HELD
      p u = true) ∧
    (∃ s : State, ∃ p : Pipe, ∃ u : Fin 8, ∃ mask : BitVec 5, s.awake ∧ s.dev.reaches .VRS p = true ∧ mask ≠ 0 ∧ s.dev.on F.VRS_BANK_STAT_HELD
      p u = false) ∧
    (∃ s : State, ∃ p : Pipe, ∃ u : Fin 8, s.awake ∧ s.dev.reaches .VRS p = true ∧ s.dev.on F.VRS_BANK_STAT_HELD p u = false ∧ (s.dev.vru p
      u).moved = false ∧ s.dev.rd F.VRS_BANK_STAT_ARMED p u ≠ 0 ∧ (∀ t ∈ tablesOf (s.dev.rd F.VRS_BANK_STAT_ARMED p u), (s.dev.vrsBack p u
      t).complete t = true)) ∧
    (∃ s : State, ∃ p : Pipe, ∃ u : Fin 8, s.awake ∧ s.dev.reaches .VRS p = true ∧ s.dev.on F.VRS_BANK_STAT_HELD p u = false ∧ ((s.dev.vru p
      u).moved = true ∨ s.dev.rd F.VRS_BANK_STAT_ARMED p u = 0 ∨ ∃ t ∈ tablesOf (s.dev.rd F.VRS_BANK_STAT_ARMED p u), (s.dev.vrsBack p u
      t).complete t = false)) :=
  ⟨⟨st [(·.wr F.VRS_CFG_EN 1 3 7), (setVrsRoom · false 3 7)], 3, 7, by decide +kernel⟩,
   ⟨st [fun d => modTrl d 1 fun t => { t with act := xbarPut t.act 1 0x40 0x43, roots := [(.vrs 1 3, { toks := [⟨5, {}⟩] })] }, (·.wr
     F.VRS_CFG_EN 1 1 2)], 1, 2, .vrs 1 3, { data := 5, flags := { eol := false, eof := false, psn := false } }, by decide +kernel⟩,
   ⟨State.reset, 3, 7, by decide +kernel⟩,
   ⟨st [(·.wr F.CASK_BIND_CONS ((0x2060 + 7) + 1 + 4) 3 1)], 3, 7, 1, by decide +kernel⟩,
   ⟨st [(·.wr F.CASK_BIND_CONS (0x2060 + 5) 1 8), fun d => modCask d 1 8 fun x => { x with marker := false }, fun d => modCask d 1 8 fun x =>
     { x with words := (({ data := 0, fin := true, tail := false, psn := false } : CaskWord)) :: ([]) }], 1, 5, 8,
     { data := 0, fin := true, tail := false, psn := false }, [], by decide +kernel⟩,
   ⟨st [(setReach · .VRS 3), (·.wr F.VRS_BANK_STAT_HELD 0 3 7), fun d => modVrsBack d 3 7 1 fun x => { x with bad := true }], 3, 7, 1,
     by decide +kernel⟩,
   ⟨st [(setReach · .VRS 3), (·.wr F.VRS_BANK_STAT_HELD 0 3 7), fun d => modVrsBack d 3 7 1 fun x => { x with bad := false }], 3, 7, 1,
     by decide +kernel⟩,
   ⟨st [(setReach · .VRS 3), (·.wr F.VRS_BANK_STAT_HELD 0 3 7), fun d => modVrsBack d 3 7 1 fun x => { x with bad := false }, fun d => modVrsBack
     d 3 7 1 fun x => { x with fresh := false, bad := false, ptr := 0 }], 3, 7, 1, by decide +kernel⟩,
   ⟨st [(setReach · .VRS 3), (·.wr F.VRS_BANK_STAT_HELD 1 3 7)], 3, 7, 3, by decide +kernel⟩,
   ⟨st [(setReach · .VRS 3), (·.wr F.VRS_BANK_STAT_HELD 0 3 7)], 3, 7, 3, by decide +kernel⟩,
   ⟨st [(setReach · .VRS 3), (·.wr F.VRS_BANK_STAT_HELD 0 3 7), fun d => modVru d 3 7 fun x => { x with moved := false }, (·.wr
     F.VRS_BANK_STAT_ARMED 1 3 7)], 3, 7, by decide +kernel⟩,
   ⟨st [(setReach · .VRS 3), (·.wr F.VRS_BANK_STAT_HELD 0 3 1)], 3, 1, by decide +kernel⟩⟩

theorem wit_Veraison_2 :
    (∃ s : State, ∃ p : Pipe, ∃ u : Fin 8, s.awake ∧ (s.dev.vru p u).reading = true) ∧
    (∃ s : State, ∃ p : Pipe, ∃ u : Fin 8, s.awake ∧ (s.dev.vru p u).reading = false) :=
  ⟨⟨st [fun d => modVru d 3 7 fun x => { x with reading := true }], 3, 7, by decide +kernel⟩,
   ⟨st [fun d => modVru d 3 7 fun x => { x with reading := false }], 3, 7, by decide +kernel⟩⟩

theorem wit_Statistics :
    (∃ s : State, ∃ p : Pipe, ∃ x : Fin 4, ∃ k : Fin 128, s.awake ∧ s.dev.rd F.CASK_BIND_CONS p k ≠ 0x2070 + x.val) ∧
    (∃ s : State, ∃ p : Pipe, ∃ x : Fin 4, ∃ k : Fin 128, ∃ w : CaskWord, ∃ rest : List CaskWord, s.awake ∧ s.dev.rd F.CASK_BIND_CONS p k =
      0x2070 + x.val ∧ (s.dev.cask p k).marker = false ∧ (s.dev.cask p k).words = w :: rest) ∧
    (∃ s : State, ∃ p : Pipe, ∃ x : Fin 4, ∃ k : Fin 128, s.awake ∧ s.dev.rd F.CASK_BIND_CONS p k = 0x2070 + x.val ∧ (s.dev.cask p k).marker =
      true) ∧
    (∃ s : State, ∃ p : Pipe, ∃ x : Fin 4, ∃ b : StatBank, s.awake ∧ s.dev.reaches .STAT p = true ∧ (s.dev.sctx p x).latest = some b) ∧
    (∃ s : State, ∃ p : Pipe, ∃ x : Fin 4, s.awake ∧ s.dev.reaches .STAT p = true ∧ (s.dev.sctx p x).latest = none) ∧
    (∃ s : State, ∃ p : Pipe, ∃ x : Fin 4, s.awake ∧ (s.dev.sctx p x).sent = none) ∧
    (∃ s : State, ∃ p : Pipe, ∃ x : Fin 4, ∃ b : StatBank, ∃ g : ℕ, s.awake ∧ (s.dev.sctx p x).sent = some b ∧ g = s.dev.rd F.STAT_CFG_MGRP p
      x ∧ s.dev.hub.lost = false ∧ s.dev.on F.HUB_STM_CFG_EN 0 g = true ∧ bit (s.dev.rd F.HUB_STM_CFG_PIPES 0 g) p = true ∧ (∀ y ∈
      (Tab.get {} s.dev.hub.merges g).parts, y.1 ≠ p.val) ∧ (∃ n, n < 4 ∧ n ≠ p.val ∧ bit (s.dev.rd F.HUB_STM_CFG_PIPES 0 g) n = true ∧ ∀
      y ∈ (Tab.get {} s.dev.hub.merges g).parts, y.1 ≠ n)) ∧
    (∃ s : State, ∃ p : Pipe, ∃ x : Fin 4, ∃ b : StatBank, ∃ g : ℕ, s.awake ∧ (s.dev.sctx p x).sent = some b ∧ g = s.dev.rd F.STAT_CFG_MGRP p
      x ∧ (s.dev.hub.lost = true ∨ s.dev.on F.HUB_STM_CFG_EN 0 g = false ∨ bit (s.dev.rd F.HUB_STM_CFG_PIPES 0 g) p = false)) ∧
    (∃ s : State, ∃ g : Fin 4, s.awake ∧ (Tab.get {} s.dev.hub.merges g).open_ = true ∧ s.dev.hub.lost = false) ∧
    (∃ s : State, ∃ g : Fin 4, s.awake ∧ ((Tab.get {} s.dev.hub.merges g).open_ = false ∨ s.dev.hub.lost = true)) :=
  ⟨⟨st [(·.wr F.CASK_BIND_CONS ((0x2070 + 2) + 1 + 1) 3 2)], 3, 2, 2, by decide +kernel⟩,
   ⟨st [(·.wr F.CASK_BIND_CONS (0x2070 + 1) 1 8), fun d => modCask d 1 8 fun x => { x with marker := false }, fun d => modCask d 1 8 fun x =>
     { x with words := (({ data := 0, fin := true, tail := false, psn := false } : CaskWord)) :: ([]) }], 1, 1, 8,
     { data := 0, fin := true, tail := false, psn := false }, [], by decide +kernel⟩,
   ⟨st [(·.wr F.CASK_BIND_CONS (0x2070 + 0) 0 4), fun d => modCask d 0 4 fun x => { x with marker := true }], 0, 0, 4, by decide +kernel⟩,
   ⟨st [(setReach · .STAT 1), fun d => modSctx d 1 0 fun x =>
     { x with latest := some (({ zx := 0, zy := 0, hists := [], zones := [], bins := [], poison := 0, flushed := false, short := true, gen := 0, seq := 0, time := (1, 1), lines := 0 } : StatBank)) }],
     1, 0,
     { zx := 0, zy := 0, hists := [], zones := [], bins := [], poison := 0, flushed := false, short := true, gen := 0, seq := 0, time := (1, 1), lines := 0 },
     by decide +kernel⟩,
   ⟨st [(setReach · .STAT 3), fun d => modSctx d 3 3 fun x => { x with latest := none }], 3, 3, by decide +kernel⟩,
   ⟨st [fun d => modSctx d 3 3 fun x => { x with sent := none }], 3, 3, by decide +kernel⟩,
   ⟨st [fun d => modSctx d 1 0 fun x =>
     { x with sent := some (({ zx := 0, zy := 0, hists := [], zones := [], bins := [], poison := 0, flushed := false, short := true, gen := 0, seq := 0, time := (1, 1), lines := 0 } : StatBank)) },
     (·.wr F.HUB_STM_CFG_EN 1 0 0), (·.wr F.HUB_STM_CFG_PIPES 15 0 0)], 1, 0,
     { zx := 0, zy := 0, hists := [], zones := [], bins := [], poison := 0, flushed := false, short := true, gen := 0, seq := 0, time := (1, 1), lines := 0 },
     0, by decide +kernel⟩,
   ⟨st [fun d => modSctx d 2 2 fun x =>
     { x with sent := some (({ zx := 0, zy := 0, hists := [], zones := [], bins := [], poison := 0, flushed := true, short := false, gen := 0, seq := 0, time := (0, 0), lines := 0 } : StatBank)) }],
     2, 2,
     { zx := 0, zy := 0, hists := [], zones := [], bins := [], poison := 0, flushed := true, short := false, gen := 0, seq := 0, time := (0, 0), lines := 0 },
     0, by decide +kernel⟩,
   ⟨st [fun d => { d with hub.merges := [(3, { open_ := true })] }], 3, by decide +kernel⟩,
   ⟨State.reset, 2, by decide +kernel⟩⟩

theorem wit_BlockCoder_1 :
    (∃ s : State, ∃ p : Pipe, ∃ c : Fin 16, ∃ k : Fin 4, s.awake ∧ (s.dev.stopped = true ∨ s.dev.bsHeld p = [] ∧ s.dev.inArun p = false ∧
      s.dev.bsOn p c k = false ∧ (s.dev.bs p c k).marked = false)) ∧
    (∃ s : State, ∃ p : Pipe, ∃ c : Fin 16, ∃ k : Fin 4, ∃ t t0 seq pts : ℕ, s.awake ∧ s.dev.stopped = false ∧ s.dev.bsOn p c k = true ∧
      s.dev.on F.BLK_SSTAT_STOPPED p c k = false ∧ (s.dev.bs p c k).tstart = some t0 ∧ s.dev.bsSelect p c k t0 t = some (seq, pts) ∧
      (s.dev.bs p c k).old = [] ∧ (s.dev.bs p c k).marked = false ∧ s.dev.inArun p = false) ∧
    (∃ s : State, ∃ p : Pipe, ∃ c : Fin 16, ∃ k n : Fin 4, ∃ b : Bool, ∃ f : BlkFrame, s.awake ∧ s.dev.stopped = false ∧ (s.dev.bs p c
      k).store[n.val]? = some f ∧ s.dev.ctxBusy p c = false ∧ (s.dev.bs p c k).old = [] ∧ s.dev.bsOn p c k = true ∧ s.dev.on
      F.BLK_SSTAT_STOPPED p c k = false ∧ n.val ≤ s.dev.rd F.BLK_SGOP_NB p c k ∧ (b = true → s.dev.rd F.BLK_SGOP_NB p c k ≠ 0) ∧
      (s.dev.cask p (s.dev.rd F.BLK_SPORT_OCASK p c k)).wait = []) ∧
    (∃ s : State, ∃ p : Pipe, ∃ c : Fin 16, ∃ k n : Fin 4, s.awake ∧ (s.dev.stopped = true ∨ (s.dev.bs p c k).store[n.val]? = none ∨
      s.dev.ctxBusy p c = true)) ∧
    (∃ s : State, ∃ p : Pipe, ∃ c : Fin 16, ∃ k : Fin 4, ∃ j : BlkJob, s.awake ∧ s.dev.stopped = false ∧ (s.dev.bs p c k).job = some j ∧
      s.dev.cnt C.BLK_CNT p 0 < 2 ^ 48) ∧
    (∃ s : State, ∃ p : Pipe, ∃ c : Fin 16, ∃ k : Fin 4, s.awake ∧ s.dev.stopped = false ∧ (s.dev.bs p c k).job = none ∧ s.dev.bsHeld p = []) ∧
    (∃ s : State, s.awake ∧ s.dev.stopped = true) ∧
    (∃ s : State, ∃ p : Pipe, ∃ c : Fin 16, ∃ k : Fin 4, s.awake ∧ s.dev.reaches .BLK p = true ∧ s.dev.bsTiled p c k = false) ∧
    (∃ s : State, ∃ p : Pipe, ∃ c : Fin 16, ∃ k : Fin 4, s.awake ∧ s.dev.reaches .BLK p = true ∧ s.dev.bsTiled p c k = true ∧ s.dev.hub.lost =
      false) ∧
    (∃ s : State, ∃ p : Pipe, ∃ j : Fin 4, s.awake ∧ s.dev.reaches .BLK p = true ∧ s.dev.rd F.BLK_DEC_STAT_STATE p j ≠ 0 ∧ s.dev.rd
      F.BLK_DEC_STAT_STATE p j ≠ 2) ∧
    (∃ s : State, ∃ p : Pipe, ∃ j : Fin 4, s.awake ∧ s.dev.reaches .BLK p = true ∧ (s.dev.rd F.BLK_DEC_STAT_STATE p j = 0 ∨ s.dev.rd
      F.BLK_DEC_STAT_STATE p j = 2) ∧ s.dev.dramInMap p (s.dev.rd64 F.BLK_DEC_SRC_LO_ADDR_LO F.BLK_DEC_SRC_HI_ADDR_HI p j) (s.dev.rd
      F.BLK_DEC_SLEN_LEN p j) = false) ∧
    (∃ s : State, ∃ p : Pipe, ∃ j : Fin 4, ∃ h : DecHeader, ∃ src dst pool : ℕ, ∃ u : List Byte, s.awake ∧ s.dev.reaches .BLK p = true ∧
      (s.dev.rd F.BLK_DEC_STAT_STATE p j = 0 ∨ s.dev.rd F.BLK_DEC_STAT_STATE p j = 2) ∧ src = s.dev.rd64 F.BLK_DEC_SRC_LO_ADDR_LO
      F.BLK_DEC_SRC_HI_ADDR_HI p j ∧ dst = s.dev.rd64 F.BLK_DEC_DST_LO_ADDR_LO F.BLK_DEC_DST_HI_ADDR_HI p j ∧ pool = s.dev.rd64
      F.BLK_DEC_POOL_LO_ADDR_LO F.BLK_DEC_POOL_HI_ADDR_HI p j ∧ s.dev.dramInMap p src (s.dev.rd F.BLK_DEC_SLEN_LEN p j) = true ∧
      s.dev.dramInMap p dst (s.dev.rd F.BLK_DEC_DLEN_LEN p j) = true ∧ s.dev.dramInMap p pool (s.dev.rd F.BLK_DEC_PLEN_LEN p j) = true ∧
      (s.dev.dramRead p (0x20 + j) src (min 32 (s.dev.rd F.BLK_DEC_SLEN_LEN p j))).1 = u ∧ (s.dev.dramRead p (0x20 + j) src (min 32
      (s.dev.rd F.BLK_DEC_SLEN_LEN p j))).2.1 = false ∧ u.length = 32 ∧ unitField u 0 4 = 0x554B4C42 ∧ crc32c (u.take 30) % 2 ^ 16 =
      unitField u 30 2 ∧ bit (unitField u 5 1) 4 = false ∧ unitField u 0x18 4 + 32 ≤ s.dev.rd F.BLK_DEC_SLEN_LEN p j ∧ unitField u 4 1 ≤
      39 ∧ h.supported = true ∧ (bit (unitField u 5 1) 0 = true ∨ (s.dev.bdec p j).heads = true) ∧ 2 * h.width ≤ 8 * s.dev.rd
      F.BLK_DEC_STRIDE_STRIDE8 p j ∧ 8 * s.dev.rd F.BLK_DEC_STRIDE_STRIDE8 p j * planeRows (unitField u 4 1) h.height ≤ s.dev.rd
      F.BLK_DEC_DLEN_LEN p j ∧ h.refs ≤ s.dev.rd F.BLK_DEC_PLEN_LEN p j) :=
  ⟨⟨st [(setStopped · true)], 2, 1, 0, by decide +kernel⟩,
   ⟨st [(·.wr F.BLK_CTXRATE_NUM 30 3 1), (·.wr F.BLK_CTXRATE_DEN 1 3 1), (·.wr F.BLK_SCFG_DIV 1 3 1 0), fun d => modBs d 3 1 0 fun x =>
     { x with tstart := some 1000 }, (setBsOn · true 3 1 0), (·.wr F.BLK_SSTAT_STOPPED 0 3 1 0), fun d => modBs d 3 1 0 fun x =>
     { x with tstart := some 1000 }, fun d => modBs d 3 1 0 fun x => { x with old := [] }, fun d => modBs d 3 1 0 fun x =>
     { x with marked := false }, (setInArun · false 3)], 3, 1, 0, 1000, 1000, 0, 1000, by decide +kernel⟩,
   ⟨st [fun d => modBs d 2 3 3 fun x => { x with store := [⟨1, 2, false, false, false, false⟩], job := none }, (setCtxBusy · false 2 3), fun d
     => modBs d 2 3 3 fun x => { x with old := [] }, (setBsOn · true 2 3 3), (·.wr F.BLK_SSTAT_STOPPED 0 2 3 3), fun d => modCask d 2 (d.rd
     F.BLK_SPORT_OCASK 2 3 3) fun x => { x with wait := [] }], 2, 3, 3, 0, false,
     { seq := 1, pts := 2, key := false, refresh := false, psn := false, fresh := false }, by decide +kernel⟩,
   ⟨State.reset, 1, 9, 1, 2, by decide +kernel⟩,
   ⟨st [fun d => modBs d 2 15 0 fun x =>
     { x with job := some (({ frame := { seq := 2248, pts := 19, key := false, refresh := false, psn := false, fresh := false }, key := true, bframe := true, cap := 2, budget := 1, loc := true, refresh := true, qc := none } : BlkJob)) }],
     2, 15, 0,
     { frame := { seq := 2248, pts := 19, key := false, refresh := false, psn := false, fresh := false }, key := true, bframe := true, cap := 2, budget := 1, loc := true, refresh := true, qc := none },
     by decide +kernel⟩,
   ⟨st [fun d => modBs d 3 1 2 fun x => { x with job := none }], 3, 1, 2, by decide +kernel⟩,
   ⟨st [(setStopped · true)], by decide +kernel⟩,
   ⟨st [(setReach · .BLK 2), (setBsTiled · false 2 3 3)], 2, 3, 3, by decide +kernel⟩,
   ⟨st [(setReach · .BLK 2), (setBsTiled · true 2 3 3)], 2, 3, 3, by decide +kernel⟩,
   ⟨st [(setReach · .BLK 2), (·.wr F.BLK_DEC_STAT_STATE 7 2 3)], 2, 3, by decide +kernel⟩,
   ⟨st [(setReach · .BLK 2), (·.wr F.BLK_DEC_STAT_STATE 2 2 2), fun d => setDramInMap d false 2 (d.rd64 F.BLK_DEC_SRC_LO_ADDR_LO
     F.BLK_DEC_SRC_HI_ADDR_HI 2 2) (d.rd F.BLK_DEC_SLEN_LEN 2 2)], 2, 2, by decide +kernel⟩,
   ⟨st [(setDramMap · 1), (·.wr F.BLK_DEC_SLEN_LEN 32 1 0), fun d => modDram d 1 fun x => { x with mem := x.mem.writes 0 blkUnit }, (setReach ·
     .BLK 1), (·.wr F.BLK_DEC_STAT_STATE 2 1 0)], 1, 0, { supported := true, width := 0, height := 0, refs := 0 }, 0, 0, 0, [66, 76, 75,
     85, 0, 1, 0, 0, 0, 0, 0, 0, 0, 0, 0, 0, 0, 0, 0, 0, 0, 0, 0, 0, 0, 0, 0, 0, 0, 0, 1, 195], by decide +kernel⟩⟩

theorem wit_BlockCoder_2 :
    (∃ s : State, ∃ p : Pipe, ∃ j : Fin 4, s.awake ∧ s.dev.reaches .BLK p = true ∧ s.dev.rd F.BLK_DEC_STAT_STATE p j = 1) ∧
    (∃ s : State, ∃ p : Pipe, ∃ j : Fin 4, s.awake ∧ s.dev.reaches .BLK p = true ∧ s.dev.rd F.BLK_DEC_STAT_STATE p j ≠ 1) ∧
    (∃ s : State, ∃ p : Pipe, ∃ j : Fin 4, s.awake ∧ s.dev.stopped = false ∧ s.dev.rd F.BLK_DEC_STAT_STATE p j = 1) ∧
    (∃ s : State, ∃ p : Pipe, ∃ j : Fin 4, s.awake ∧ s.dev.stopped = false ∧ s.dev.rd F.BLK_DEC_STAT_STATE p j = 3) ∧
    (∃ s : State, ∃ p : Pipe, ∃ j : Fin 4, s.awake ∧ (s.dev.stopped = true ∨ (s.dev.rd F.BLK_DEC_STAT_STATE p j ≠ 1 ∧ s.dev.rd
      F.BLK_DEC_STAT_STATE p j ≠ 3))) :=
  ⟨⟨st [(setReach · .BLK 3), (·.wr F.BLK_DEC_STAT_STATE 1 3 3)], 3, 3, by decide +kernel⟩,
   ⟨st [(setReach · .BLK 3), (·.wr F.BLK_DEC_STAT_STATE 2 3 3)], 3, 3, by decide +kernel⟩,
   ⟨st [(·.wr F.BLK_DEC_STAT_STATE 1 2 1)], 2, 1, by decide +kernel⟩,
   ⟨st [(·.wr F.BLK_DEC_STAT_STATE 3 2 1)], 2, 1, by decide +kernel⟩,
   ⟨st [(setStopped · true)], 1, 1, by decide +kernel⟩⟩

theorem wit_Assembly :
    (∃ s : State, ∃ g : Fin 64, ∃ w : Word, s.awake ∧ s.dev.reaches .HUB_CTL 0 = true ∧ s.dev.on F.HUB_ASM_CFG_EN 0 g = false ∧ bit w.toNat 31
      = true) ∧
    (∃ s : State, ∃ g : Fin 64, ∃ w : Word, s.awake ∧ s.dev.reaches .HUB_CTL 0 = true ∧ s.dev.on F.HUB_ASM_CFG_EN 0 g = true ∧ s.dev.sameBut
      ⟨.HUB_ASM_CFG, 0, g, 0⟩ F.HUB_ASM_CFG_EN w.toNat = false) ∧
    (∃ s : State, ∃ g : Fin 64, ∃ w : Word, s.awake ∧ s.dev.reaches .HUB_CTL 0 = true ∧ s.dev.on F.HUB_ASM_CFG_EN 0 g = true ∧ bit w.toNat 31
      = false ∧ s.dev.sameBut ⟨.HUB_ASM_CFG, 0, g, 0⟩ F.HUB_ASM_CFG_EN w.toNat = true) ∧
    (∃ s : State, ∃ g : Fin 64, ∃ p : Pipe, ∃ u : TileUnit, s.awake ∧ u.group % 64 = g.val ∧ (s.dev.hub.lost = true ∨ s.dev.on
      F.HUB_ASM_STAT_STARTED 0 g = false ∨ p.val ∉ s.dev.asmPipes g ∨ u.seq ∈ (s.dev.asmG g).closed ∨ (s.dev.pasmOf u.input).isSome =
      true)) ∧
    (∃ s : State, ∃ g : Fin 64, ∃ p : Pipe, ∃ u : TileUnit, ∃ f : AsmFrame, s.awake ∧ u.group % 64 = g.val ∧ s.dev.hub.lost = false ∧ s.dev.on
      F.HUB_ASM_STAT_STARTED 0 g = true ∧ p.val ∈ s.dev.asmPipes g ∧ u.seq ∉ (s.dev.asmG g).closed ∧ s.dev.pasmOf u.input = none ∧ f =
      ((s.dev.asmG g).frames.find? fun x => x.seq == u.seq).getD ⟨u.seq, s.dev.c, []⟩) ∧
    (∃ s : State, ∃ g : Fin 64, ∃ seq : ℕ, ∃ f : AsmFrame, s.awake ∧ ((s.dev.asmG g).frames.find? fun f => f.seq == seq) = some f ∧
      s.dev.hub.lost = false) ∧
    (∃ s : State, ∃ g : Fin 64, ∃ seq : ℕ, s.awake ∧ ((∀ f ∈ (s.dev.asmG g).frames, f.seq ≠ seq) ∨ s.dev.hub.lost = true)) ∧
    (∃ s : State, ∃ g : Fin 64, ∃ p : Pipe, ∃ n : ℕ, ∃ m : RcMsg, s.awake ∧ ((s.dev.asmG g).msgs.find? fun m => m.1 == p.val) = some (n, m)) ∧
    (∃ s : State, ∃ g : Fin 64, ∃ p : Pipe, s.awake ∧ (∀ m ∈ (s.dev.asmG g).msgs, m.1 ≠ p.val)) :=
  ⟨⟨st [(setReach · .HUB_CTL 0), (·.wr F.HUB_ASM_CFG_EN 0 0 0)], 0, 2352808466, by decide +kernel⟩,
   ⟨st [(setReach · .HUB_CTL 0), (·.wr F.HUB_ASM_CFG_EN 1 0 0)], 0, 2352808466, by decide +kernel⟩,
   ⟨st [(setReach · .HUB_CTL 0), (·.wr F.HUB_ASM_CFG_EN 1 0 1)], 1, 200, by decide +kernel⟩,
   ⟨State.reset, 0, 0,
     { group := 0, seq := 0, fmt := 2, tidx := 2, nt := 2, key := true, capped := true, loc := true, rep := true, pts := 3, qavg := 1229, obj := 2, head := [0, 3, 191], parts := [[]], hsl := 0, input := 0 },
     by decide +kernel⟩,
   ⟨st [(·.wr F.HUB_ASM_STAT_STARTED 1 0 2), (·.wr F.HUB_ASM_CFG_PIPES 15 0 2)], 2, 3,
     { group := 2, seq := 2, fmt := 3, tidx := 2, nt := 0, key := true, capped := true, loc := true, rep := true, pts := 4112, qavg := 3, obj := 1466, head := [], parts := [], hsl := 1, input := 1 },
     { seq := 2, t0 := 0, units := [] }, by decide +kernel⟩,
   ⟨st [fun d => modAsmG d 2 fun x => { x with frames := [⟨2, 5, []⟩] }], 2, 2, { seq := 2, t0 := 5, units := [] }, by decide +kernel⟩,
   ⟨State.reset, 0, 6, by decide +kernel⟩,
   ⟨st [fun d => modAsmG d 0 fun x => { x with msgs := [(1, ⟨1, 2, 3, some 4, 5, false, false⟩)] }], 0, 1, 1,
     { seq := 1, budget := 2, cap := 3, qc := some 4, share := 5, key := false, refresh := false }, by decide +kernel⟩,
   ⟨State.reset, 0, 1, by decide +kernel⟩⟩

theorem wit_CellarStreams :
    (∃ s : State, ∃ p : Pipe, s.awake ∧ s.dev.reaches .CELP p = true ∧ s.dev.on F.CELP_STRM_CMD_GO p = true) ∧
    (∃ s : State, ∃ p : Pipe, s.awake ∧ s.dev.reaches .CELP p = true ∧ s.dev.on F.CELP_STRM_CMD_GO p = false ∧ (∀ k, k < 64 → (s.dev.strm p
      k).open_ = true)) ∧
    (∃ s : State, ∃ p : Pipe, ∃ k ns slba nlb : ℕ, s.awake ∧ s.dev.reaches .CELP p = true ∧ s.dev.on F.CELP_STRM_CMD_GO p = false ∧
      ((List.range 64).find? fun k => !(s.dev.strm p k).open_) = some k ∧ slba = s.dev.rd64 F.CELP_STRM_SLBA_LO_SLBA_LO
      F.CELP_STRM_SLBA_HI_SLBA_HI p ∧ nlb = s.dev.rd F.CELP_STRM_NLB_NLB p ∧ s.dev.rd F.CELP_STRM_NS_NSID p ≠ 0 ∧ nsPlace (s.dev.rd
      F.CELP_STRM_NS_NSID p) = (p.val, ns) ∧ (s.dev.nsEnt p ns).size ≠ 0 ∧ s.dev.cartState p = 4) ∧
    (∃ s : State, ∃ p : Pipe, ∃ k : ℕ, s.awake ∧ s.dev.reaches .CELP p = true ∧ s.dev.on F.CELP_STRM_CMD_GO p = false ∧ ((List.range 64).find?
      fun k => !(s.dev.strm p k).open_) = some k ∧ (s.dev.rd F.CELP_STRM_NS_NSID p = 0 ∨ s.dev.cartState p ≠ 4)) ∧
    (∃ s : State, ∃ p : Pipe, ∃ l : Fin 3, s.awake ∧ s.dev.rbAbove p (3 + l) = true ∧ s.dev.on (rbHold (3 + l)) p = false) ∧
    (∃ s : State, ∃ p : Pipe, ∃ l : Fin 3, s.awake ∧ (s.dev.rbAbove p (3 + l) = false ∨ s.dev.on (rbHold (3 + l)) p = true)) ∧
    (∃ s : State, ∃ p : Pipe, ∃ l : Fin 3, s.awake ∧ s.dev.rbAbove p (3 + l) = false ∧ s.dev.on (rbHold (3 + l)) p = true) ∧
    (∃ s : State, ∃ p : Pipe, ∃ l : Fin 3, s.awake ∧ (s.dev.rbAbove p (3 + l) = true ∨ s.dev.on (rbHold (3 + l)) p = false)) :=
  ⟨⟨st [(setReach · .CELP 3), (·.wr F.CELP_STRM_CMD_GO 1 3)], 3, by decide +kernel⟩,
   ⟨st [fun d => modCel d 3 fun x => { x with strms := (List.range 64).map fun k => (k, { open_ := true }) }, (setReach · .CELP 3), (·.wr
     F.CELP_STRM_CMD_GO 0 3)], 3, by decide +kernel⟩,
   ⟨st [fun d => modCel d 3 fun x => { x with strms := [] }, (·.wr F.CELP_STRM_NS_NSID (16 * 3 + 2) 3), fun d => modNsEnt d 3 1 fun x =>
     { x with size := 1000, attached := true }, (setReach · .CELP 3), (·.wr F.CELP_STRM_CMD_GO 0 3), (·.wr F.CELP_CART_STAT_STATE 4 3)], 3,
     0, 1, 0, 0, by decide +kernel⟩,
   ⟨st [(setReach · .CELP 2), (·.wr F.CELP_STRM_CMD_GO 0 2), (·.wr F.CELP_STRM_NS_NSID 0 2)], 2, 0, by decide +kernel⟩,
   ⟨st [fun d => modTq d 3 0 fun x => { x with take := 7, recs := [{ size := 3, place := [(0, 32)] }] }, (setRbAbove · true 3 (3 + 2)), (·.wr
     (rbHold (3 + 2)) 0 3)], 3, 2, by decide +kernel⟩,
   ⟨st [(·.wr (rbHold (3 + 1)) 1 3)], 3, 1, by decide +kernel⟩,
   ⟨st [(setRbAbove · false 3 (3 + 2)), (·.wr (rbHold (3 + 2)) 1 3)], 3, 2, by decide +kernel⟩,
   ⟨st [(·.wr (rbHold (3 + 1)) 0 3)], 3, 1, by decide +kernel⟩⟩

theorem wit_Takes_1 :
    (∃ s : State, s.awake ∧ s.dev.reaches .CEL 0 = true ∧ s.dev.on F.CEL_TAKE_CMD_GO = true) ∧
    (∃ s : State, ∃ pipes : BitVec 4, s.awake ∧ s.dev.reaches .CEL 0 = true ∧ s.dev.on F.CEL_TAKE_CMD_GO = false ∧ s.dev.boardMode = 0 ∧
      s.dev.startHolds pipes.toNat = false) ∧
    (∃ s : State, ∃ pipes : BitVec 4, s.awake ∧ s.dev.reaches .CEL 0 = true ∧ s.dev.on F.CEL_TAKE_CMD_GO = false ∧ s.dev.startHolds
      pipes.toNat = true) ∧
    (∃ s : State, ∃ num : ℕ, s.awake ∧ s.dev.reaches .CEL 0 = true ∧ num = s.dev.rd F.CEL_TAKE_ARG_TAKE ∧ s.dev.on F.CEL_TAKE_CMD_GO = false) ∧
    (∃ s : State, s.awake ∧ s.dev.reaches .CEL 0 = true ∧ s.dev.isFollower = false) ∧
    (∃ s : State, s.awake ∧ (∀ r ∈ s.dev.hub.takes, r.starting = false)) ∧
    (∃ s : State, ∃ r : TakeRec, s.awake ∧ (s.dev.hub.takes.find? fun r => r.starting) = some r ∧ (s.dev.hub.takes.find? fun x => x.num ==
      r.num) = some r) ∧
    (∃ s : State, ∃ num : Word, ∃ r : TakeRec, s.awake ∧ (s.dev.hub.takes.find? fun r => r.num == num.toNat && r.ended) = some r ∧ (∀ x ∈
      r.qs, (s.dev.tq x.1 x.2).take ≠ num.toNat) ∧ (∀ x ∈ r.devs, x ∈ r.devClosed)) ∧
    (∃ s : State, ∃ num : Word, s.awake ∧ (∀ r ∈ s.dev.hub.takes, r.num = num.toNat → r.ended = false)) ∧
    (∃ s : State, ∃ p : Pipe, ∃ t : Fin 8, ∃ w : ℕ, ∃ flaw : DramFlaw, ∃ q : TakeQ, ∃ u : TakeUnit, ∃ rest : List TakeUnit, ∃ k : ℕ, ∃ bs :
      List Byte, ∃ d1 : Dev, ∃ data : List Byte, ∃ a : ℕ, s.awake ∧ q = s.dev.tq p t ∧ q.recs = u :: rest ∧ s.dev.takeNs p = some k ∧
      s.dev.cartState p = 4 ∧ q.take ≠ 0 ∧ (s.dev.recbufFlaw p w u flaw).recbufRead p u.place = (bs, false, d1) ∧ data = pad8 (bs.take
      (u.size - u.rest.length) ++ u.rest) ∧ ceilDiv (q.bytes + data.length) (4096 * extentLbas) ≤ q.extents.length ∧ a = q.extents.getD
      (q.bytes / (4096 * extentLbas)) 0 + q.bytes % (4096 * extentLbas) / 4096 ∧ s.dev.lockBlocks p k a (data.length / 4096 + 1) = false ∧
      (s.dev.cel p).locks.length < 1024) ∧
    (∃ s : State, ∃ p : Pipe, ∃ t : Fin 8, s.awake ∧ ((s.dev.tq p t).recs = [] ∨ s.dev.takeNs p = none ∨ s.dev.cartState p ≠ 4 ∨ (s.dev.tq p
      t).take = 0)) ∧
    (∃ s : State, ∃ p : Pipe, ∃ t : Fin 8, s.awake ∧ s.dev.reaches .CELP p = true ∧ (s.dev.tq p t).take ≠ 0) :=
  ⟨⟨st [(setReach · .CEL 0), (·.wr F.CEL_TAKE_CMD_GO 1)], by decide +kernel⟩,
   ⟨st [(setReach · .CEL 0), (·.wr F.CEL_TAKE_CMD_GO 0)], 3, by decide +kernel⟩,
   ⟨st [(setReach · .CEL 0), (·.wr F.CEL_TAKE_CMD_GO 0), fun d => { d with hub.cuvl.recPend := [2] }], 4, by decide +kernel⟩,
   ⟨st [(setReach · .CEL 0), (·.wr F.CEL_TAKE_CMD_GO 0)], 0, by decide +kernel⟩,
   ⟨st [(setReach · .CEL 0), (setIsFollower · false)], by decide +kernel⟩,
   ⟨State.reset, by decide +kernel⟩,
   ⟨st [fun d => { d with hub.takes := [{ num := 7, qs := [(0, 1)] }] }],
     { num := 7, qs := [(0, 1)], opened := [], tstart := 0, starting := true, ended := false, stopping := false, devs := [], devOpen := [], devClosed := [], ordered := false, lost := [] },
     by decide +kernel⟩,
   ⟨st [fun d => { d with hub.takes := [{ num := 7, qs := [(0, 1)], starting := false, ended := true }] }], 7,
     { num := 7, qs := [(0, 1)], opened := [], tstart := 0, starting := false, ended := true, stopping := false, devs := [], devOpen := [], devClosed := [], ordered := false, lost := [] },
     by decide +kernel⟩,
   ⟨State.reset, 2336584435, by decide +kernel⟩,
   ⟨st [fun d => modTq d 0 0 fun x => { x with take := 7, recs := [{ size := 3, rest := [1, 2, 3] }], extents := [20000] }, fun d => modNsEnt d
     0 0 fun x => { x with size := 300000, attached := true }, (·.wr F.CELP_CART_STAT_STATE 4 0), (setLockBlocks · false 0 0 20000 (([1, 2,
     3, 0, 0, 0, 0, 0]).length / 4096 + 1))], 0, 0, 0, .ok,
     { take := 7, tstart := 0, unit := [], recs := [{ size := 3, place := [], rest := [1, 2, 3], frame := false, void := false, seq := 0, fn := 0, fs := (0, 0), fe := (0, 0) }], bytes := 0, extents := [20000], entry := none, lastSeq := 0, lastFe := (0, 0), vc := 0, full := false, waited := false, limit := none, past := [], early := [] },
     { size := 3, place := [], rest := [1, 2, 3], frame := false, void := false, seq := 0, fn := 0, fs := (0, 0), fe := (0, 0) }, [], 0,
     [], ((((st [fun d => modTq d 0 0 fun x => { x with take := 7, recs := [{ size := 3, rest := [1, 2, 3] }], extents := [20000] }, fun d
     => modNsEnt d 0 0 fun x => { x with size := 300000, attached := true }, (·.wr F.CELP_CART_STAT_STATE 4 0), (setLockBlocks · false 0 0
     20000 (([1, 2, 3, 0, 0, 0, 0, 0]).length / 4096 + 1))]).dev.recbufFlaw 0 0
     (({ size := 3, place := [], rest := [1, 2, 3], frame := false, void := false, seq := 0, fn := 0, fs := (0, 0), fe := (0, 0) } :
     TakeUnit)) .ok).recbufRead 0
     (({ size := 3, place := [], rest := [1, 2, 3], frame := false, void := false, seq := 0, fn := 0, fs := (0, 0), fe := (0, 0) } :
     TakeUnit)).place).2.2), [1, 2, 3, 0, 0, 0, 0, 0], 20000, by decide +kernel⟩,
   ⟨State.reset, 0, 1, by decide +kernel⟩,
   ⟨st [(setReach · .CELP 3), fun d => modTq d 3 7 fun x => { x with take := 7 }], 3, 7, by decide +kernel⟩⟩

theorem wit_Takes_2 :
    (∃ s : State, ∃ p : Pipe, ∃ t : Fin 8, s.awake ∧ s.dev.reaches .CELP p = true ∧ (s.dev.tq p t).take = 0) :=
  ⟨st [(setReach · .CELP 3), fun d => modTq d 3 7 fun x => { x with take := 0 }], 3, 7, by decide +kernel⟩

theorem wit_NvmeCompletionEntry :
    (∃ d : Dev, ∃ q cid dw0 st : Nat, ∃ x : NvmeQ, ∃ p : Pipe, ∃ e : LockEnt, Tab.find d.hub.nvme.cqs q = some x ∧ x.room = true ∧ d.hostOk =
      true ∧ (∀ y ∈ d.hub.nvme.held, y.1 ≠ q) ∧ d.hub.nvme.dels = [] ∧ d.hub.nvme.closing = false ∧ e ∈ ((d.nvEnd q cid dw0 st).cel
      p).locks) ∧
    (∃ d : Dev, ∃ q : Nat, ∃ x : NvmeQ, Tab.find d.hub.nvme.cqs q = some x ∧ x.room = true ∧ d.hostOk = true ∧ (∀ y ∈ d.hub.nvme.held, y.1 ≠
      q) ∧ d.hub.nvme.dels = [] ∧ d.hub.nvme.closing = false ∧ q = 0) :=
  ⟨⟨dv [(setHostOk · true), fun d =>
     { d with hub.nvme.cqs := [(0, (({ base := 4096, size := 8, head := 0, tail := 0, phase := true, ien := true, gone := [] } : NvmeQ)))] },
     fun d => modCel d 1 fun y => { y with locks := [⟨0, 0, 8, true, 3, 9⟩] }], 0, 3, 1, 1,
     { base := 4096, size := 8, head := 0, tail := 0, phase := true, ien := true, gone := [] }, 1,
     { ns := 0, lba := 0, n := 8, wr := true, q := 3, cid := 9 }, by decide +kernel⟩,
   ⟨dv [(setHostOk · true), fun d =>
     { d with hub.nvme.cqs := [(0, (({ base := 4096, size := 8, head := 0, tail := 0, phase := true, ien := true, gone := [] } : NvmeQ)))] },
     fun d => modCel d 1 fun y => { y with locks := [⟨0, 0, 8, true, 3, 9⟩] }], 0,
     { base := 4096, size := 8, head := 0, tail := 0, phase := true, ien := true, gone := [] }, by decide +kernel⟩⟩

theorem wit_NvmeQueues_1 :
    (∃ s : State, ∃ cc : Word, s.awake ∧ (s.dev.hub.nvme.en = true ∨ s.dev.hub.nvme.closing = true ∨ bit cc.toNat 0 = false ∨ s.dev.hub.lost =
      true)) ∧
    (∃ s : State, ∃ cc : Word, s.awake ∧ s.dev.hub.nvme.en = false ∧ s.dev.hub.nvme.closing = false ∧ bit cc.toNat 0 = true ∧ s.dev.hub.lost =
      false) ∧
    (∃ s : State, s.awake ∧ s.dev.hub.nvme.en = true) ∧
    (∃ s : State, s.awake ∧ s.dev.nvLive = false) ∧
    (∃ s : State, ∃ q : Fin 513, ∃ v : BitVec 16, ∃ x : NvmeQ, s.awake ∧ s.dev.nvLive = true ∧ Tab.find s.dev.hub.nvme.sqs q = some x ∧
      v.toNat < x.size) ∧
    (∃ s : State, ∃ q : Fin 513, ∃ v : BitVec 16, ∃ x : NvmeQ, s.awake ∧ s.dev.nvLive = true ∧ Tab.find s.dev.hub.nvme.sqs q = some x ∧ x.size
      ≤ v.toNat) ∧
    (∃ s : State, ∃ q : Fin 513, ∃ v : BitVec 16, ∃ x : NvmeQ, s.awake ∧ s.dev.nvLive = true ∧ Tab.find s.dev.hub.nvme.cqs q = some x ∧
      v.toNat < x.size ∧ s.dev.hub.nvme.held = []) ∧
    (∃ s : State, ∃ q : Fin 513, ∃ v : BitVec 16, ∃ x : NvmeQ, s.awake ∧ s.dev.nvLive = true ∧ Tab.find s.dev.hub.nvme.cqs q = some x ∧ x.size
      ≤ v.toNat) ∧
    (∃ s : State, ∃ q : Fin 513, s.awake ∧ s.dev.nvLive = true ∧ Tab.find s.dev.hub.nvme.sqs q = none) ∧
    (∃ s : State, ∃ q : Fin 513, s.awake ∧ s.dev.nvLive = true ∧ Tab.find s.dev.hub.nvme.cqs q = none) ∧
    (∃ s : State, ∃ q : Fin 513, s.awake ∧ (Tab.find s.dev.hub.nvme.sqs q = none ∨ s.dev.nvLive = false ∨ s.dev.hostOk = false ∨
      s.dev.hub.nvme.closing = true ∨ s.dev.nvStopped = true)) ∧
    (∃ s : State, ∃ q : Fin 513, ∃ x : NvmeQ, ∃ c : NvmeCmd, s.awake ∧ Tab.find s.dev.hub.nvme.sqs q = some x ∧ s.dev.nvLive = true ∧
      s.dev.hostOk = true ∧ s.dev.nvStopped = false ∧ s.dev.hub.nvme.closing = false ∧ x.gone.contains x.head = false ∧ x.head ≠ x.tail ∧
      (∀ y ∈ s.dev.hub.nvme.dels, y.1 ≠ q.val) ∧ c = s.dev.sqHead q x ∧ slice (c.d 0) 9 8 = 0 ∧ slice (c.d 0) 15 14 = 0 ∧ ((q = 0 ∧
      s.dev.on F.HUB_FALLOW_ACTIVE = false ∧ c.opc ∈ adminOps) ∨ (q ≠ 0 ∧ c.opc ∈ ioOps ∧ 1 ≤ c.d 1 ∧ c.d 1 ≤ 64 ∧ s.dev.sliceFull c.slice
      = false))) :=
  ⟨⟨State.reset, 0, by decide +kernel⟩,
   ⟨State.reset, 2336584435, by decide +kernel⟩,
   ⟨st [fun d => { d with hub.nvme.en := true }], by decide +kernel⟩,
   ⟨st [(setNvLive · false)], by decide +kernel⟩,
   ⟨st [(setNvLive · true), fun d =>
     { d with hub.nvme.sqs := Tab.put d.hub.nvme.sqs 1 (({ base := 0, size := 61, head := 0, tail := 0, phase := true, ien := true, gone := [] } : NvmeQ)) }],
     1, 1, { base := 0, size := 61, head := 0, tail := 0, phase := true, ien := true, gone := [] }, by decide +kernel⟩,
   ⟨st [(setNvLive · true), fun d =>
     { d with hub.nvme.sqs := Tab.put d.hub.nvme.sqs 1 (({ base := 0, size := 0, head := 0, tail := 0, phase := true, ien := true, gone := [] } : NvmeQ)) }],
     1, 65279, { base := 0, size := 0, head := 0, tail := 0, phase := true, ien := true, gone := [] }, by decide +kernel⟩,
   ⟨st [(setNvLive · true), fun d =>
     { d with hub.nvme.cqs := Tab.put d.hub.nvme.cqs 1 (({ base := 0, size := 61, head := 0, tail := 0, phase := true, ien := true, gone := [] } : NvmeQ)) },
     fun d => { d with hub.nvme.held := [] }], 1, 1,
     { base := 0, size := 61, head := 0, tail := 0, phase := true, ien := true, gone := [] }, by decide +kernel⟩,
   ⟨st [(setNvLive · true), fun d =>
     { d with hub.nvme.cqs := Tab.put d.hub.nvme.cqs 1 (({ base := 0, size := 0, head := 0, tail := 0, phase := true, ien := true, gone := [] } : NvmeQ)) }],
     1, 65279, { base := 0, size := 0, head := 0, tail := 0, phase := true, ien := true, gone := [] }, by decide +kernel⟩,
   ⟨st [(setNvLive · true), fun d => { d with hub.nvme.sqs := Tab.del d.hub.nvme.sqs 0 }], 0, by decide +kernel⟩,
   ⟨st [(setNvLive · true), fun d => { d with hub.nvme.cqs := Tab.del d.hub.nvme.cqs 0 }], 0, by decide +kernel⟩,
   ⟨st [(setHostOk · false)], 2, by decide +kernel⟩,
   ⟨st [fun d =>
     { d with hub.nvme.sqs := Tab.put d.hub.nvme.sqs 0 (({ base := 0, size := 37, head := 1, tail := 0, phase := true, ien := true, gone := [] } : NvmeQ)) },
     (setNvLive · true), (setHostOk · true), (setNvStopped · false), fun d => { d with hub.nvme.closing := false }, (setSliceFull · false
     (({ q := 0, cid := 0, dw := [0, 0, 0, 0, 0, 0, 0, 0, 0, 0, 0, 0, 0, 0, 0, 0], stage := 0, left := 0, mark := 0 } : NvmeCmd)).slice)],
     0, { base := 0, size := 37, head := 1, tail := 0, phase := true, ien := true, gone := [] },
     { q := 0, cid := 0, dw := [0, 0, 0, 0, 0, 0, 0, 0, 0, 0, 0, 0, 0, 0, 0, 0], stage := 0, left := 0, mark := 0 }, by decide +kernel⟩⟩

theorem wit_NvmeQueues_2 :
    (∃ s : State, ∃ cid : BitVec 16, s.awake ∧ (s.dev.nvLive = false ∨ ∀ c ∈ s.dev.hub.nvme.cmds, c.q = 0 → c.cid = cid.toNat → c.stage ≠ 0)) ∧
    (∃ s : State, ∃ cid : BitVec 16, ∃ c : NvmeCmd, s.awake ∧ s.dev.fetched cid.toNat 0x00 c ∧ Tab.find s.dev.hub.nvme.sqs (c.d 10 % 2 ^ 16) =
      none) ∧
    (∃ s : State, ∃ cid : BitVec 16, ∃ c : NvmeCmd, ∃ x : NvmeQ, s.awake ∧ s.dev.fetched cid.toNat 0x00 c ∧ Tab.find s.dev.hub.nvme.sqs (c.d
      10 % 2 ^ 16) = some x ∧ c.d 10 % 2 ^ 16 ≠ 0 ∧ x.head = x.tail ∧ (∀ y ∈ s.dev.hub.nvme.cmds, y.q ≠ c.d 10 % 2 ^ 16)) ∧
    (∃ s : State, ∃ cid : BitVec 16, ∃ c : NvmeCmd, ∃ q : ℕ, s.awake ∧ s.dev.fetched cid.toNat 0x01 c ∧ q = c.d 10 % 2 ^ 16 ∧ c.d 11 / 2 ^ 16
      = q ∧ (q = 0 ∨ 512 < q ∨ (Tab.find s.dev.hub.nvme.sqs q).isSome = true)) ∧
    (∃ s : State, ∃ cid : BitVec 16, ∃ c : NvmeCmd, ∃ q : ℕ, s.awake ∧ s.dev.fetched cid.toNat 0x01 c ∧ q = c.d 10 % 2 ^ 16 ∧ c.d 11 / 2 ^ 16
      = q ∧ q ≠ 0 ∧ q ≤ 512 ∧ Tab.find s.dev.hub.nvme.sqs q = none ∧ (Tab.find s.dev.hub.nvme.cqs q).isSome = true ∧ c.d 10 / 2 ^ 16 ≤
      4095 ∧ bit (c.d 11) 0 = true ∧ s.dev.hub.nvme.dels = []) ∧
    (∃ s : State, ∃ cid : BitVec 16, ∃ c : NvmeCmd, ∃ q : ℕ, s.awake ∧ s.dev.fetched cid.toNat 0x04 c ∧ q = c.d 10 % 2 ^ 16 ∧ (q = 0 ∨
      Tab.find s.dev.hub.nvme.cqs q = none)) ∧
    (∃ s : State, ∃ cid : BitVec 16, ∃ c : NvmeCmd, ∃ q : ℕ, s.awake ∧ s.dev.fetched cid.toNat 0x04 c ∧ q = c.d 10 % 2 ^ 16 ∧ q ≠ 0 ∧
      (Tab.find s.dev.hub.nvme.cqs q).isSome = true ∧ (Tab.find s.dev.hub.nvme.sqs q).isSome = true) ∧
    (∃ s : State, ∃ cid : BitVec 16, ∃ c : NvmeCmd, ∃ q : ℕ, s.awake ∧ s.dev.fetched cid.toNat 0x04 c ∧ q = c.d 10 % 2 ^ 16 ∧ q ≠ 0 ∧
      (Tab.find s.dev.hub.nvme.cqs q).isSome = true ∧ Tab.find s.dev.hub.nvme.sqs q = none) ∧
    (∃ s : State, ∃ cid : BitVec 16, ∃ c : NvmeCmd, ∃ q : ℕ, s.awake ∧ s.dev.fetched cid.toNat 0x05 c ∧ q = c.d 10 % 2 ^ 16 ∧ (q = 0 ∨ 512 < q
      ∨ (Tab.find s.dev.hub.nvme.cqs q).isSome = true)) ∧
    (∃ s : State, ∃ cid : BitVec 16, ∃ c : NvmeCmd, ∃ q : ℕ, s.awake ∧ s.dev.fetched cid.toNat 0x05 c ∧ q = c.d 10 % 2 ^ 16 ∧ q ≠ 0 ∧ q ≤ 512
      ∧ Tab.find s.dev.hub.nvme.cqs q = none ∧ c.d 10 / 2 ^ 16 ≤ 4095 ∧ bit (c.d 11) 0 = true ∧ c.d 11 / 2 ^ 16 = vectorOf (q - 1)) :=
  ⟨⟨State.reset, 29427, by decide +kernel⟩,
   ⟨st [(setNvLive · true), fun d =>
     { d with hub.nvme.sqs := Tab.del d.hub.nvme.sqs ((({ q := 0, cid := 1246, dw := [81657856, 63, 0, 0, 3, 0, 1, 2, 52, 2, 0, 12, 0, 0, 52, 34], stage := 0, left := 0, mark := 0 } : NvmeCmd)).d 10 % 2 ^ 16) },
     fun d =>
     { d with hub.nvme.cmds := [(({ q := 0, cid := 1246, dw := [81657856, 63, 0, 0, 3, 0, 1, 2, 52, 2, 0, 12, 0, 0, 52, 34], stage := 0, left := 0, mark := 0 } : NvmeCmd))] }],
     1246, { q := 0, cid := 1246, dw := [81657856, 63, 0, 0, 3, 0, 1, 2, 52, 2, 0, 12, 0, 0, 52, 34], stage := 0, left := 0, mark := 0 },
     by decide +kernel⟩,
   ⟨st [(setNvLive · true), fun d =>
     { d with hub.nvme.sqs := Tab.put d.hub.nvme.sqs ((({ q := 0, cid := 2, dw := [131072, 43, 0, 0, 0, 0, 2, 0, 0, 0, 2, 0, 2, 3169608013, 21, 0], stage := 0, left := 0, mark := 0 } : NvmeCmd)).d 10 % 2 ^ 16) (({ base := 0, size := 0, head := 0, tail := 0, phase := true, ien := true, gone := [4224] } : NvmeQ)) },
     fun d =>
     { d with hub.nvme.cmds := [(({ q := 0, cid := 2, dw := [131072, 43, 0, 0, 0, 0, 2, 0, 0, 0, 2, 0, 2, 3169608013, 21, 0], stage := 0, left := 0, mark := 0 } : NvmeCmd))] }],
     2, { q := 0, cid := 2, dw := [131072, 43, 0, 0, 0, 0, 2, 0, 0, 0, 2, 0, 2, 3169608013, 21, 0], stage := 0, left := 0, mark := 0 },
     { base := 0, size := 0, head := 0, tail := 0, phase := true, ien := true, gone := [4224] }, by decide +kernel⟩,
   ⟨st [(setNvLive · true), fun d =>
     { d with hub.nvme.cmds := [(({ q := 0, cid := 1246, dw := [81657857, 63, 0, 0, 3, 0, 1, 2, 52, 2, 0, 12, 0, 0, 52, 34], stage := 0, left := 0, mark := 0 } : NvmeCmd))] }],
     1246, { q := 0, cid := 1246, dw := [81657857, 63, 0, 0, 3, 0, 1, 2, 52, 2, 0, 12, 0, 0, 52, 34], stage := 0, left := 0, mark := 0 },
     0, by decide +kernel⟩,
   ⟨st [fun d => { d with hub.nvme.cqs := [(5, {})] }, (setNvLive · true), fun d => { d with hub.nvme.sqs := Tab.del d.hub.nvme.sqs 5 }, fun d
     => { d with hub.nvme.dels := [] }, fun d =>
     { d with hub.nvme.cmds := [(({ q := 0, cid := 2, dw := [131073, 6, 0, 2, 59, 1, 2, 0, 33, 14, 458757, 342705, 3, 53, 0, 0], stage := 0, left := 0, mark := 0 } : NvmeCmd))] }],
     2, { q := 0, cid := 2, dw := [131073, 6, 0, 2, 59, 1, 2, 0, 33, 14, 458757, 342705, 3, 53, 0, 0], stage := 0, left := 0, mark := 0 },
     5, by decide +kernel⟩,
   ⟨st [(setNvLive · true), fun d =>
     { d with hub.nvme.cmds := [(({ q := 0, cid := 0, dw := [4, 2, 33, 51, 39, 0, 37, 0, 3, 3, 6, 0, 4208097987, 57, 2, 2], stage := 0, left := 0, mark := 0 } : NvmeCmd))] }],
     0, { q := 0, cid := 0, dw := [4, 2, 33, 51, 39, 0, 37, 0, 3, 3, 6, 0, 4208097987, 57, 2, 2], stage := 0, left := 0, mark := 0 }, 6,
     by decide +kernel⟩,
   ⟨st [fun d => { d with hub.nvme.cqs := [(5, {})], hub.nvme.sqs := [(5, {})] }, (setNvLive · true), fun d =>
     { d with hub.nvme.cmds := [(({ q := 0, cid := 8193, dw := [536936452, 50, 0, 0, 76, 31, 2, 2, 0, 75, 5, 0, 0, 0, 0, 1], stage := 0, left := 0, mark := 0 } : NvmeCmd))] }],
     8193, { q := 0, cid := 8193, dw := [536936452, 50, 0, 0, 76, 31, 2, 2, 0, 75, 5, 0, 0, 0, 0, 1], stage := 0, left := 0, mark := 0 },
     5, by decide +kernel⟩,
   ⟨st [fun d => { d with hub.nvme.cqs := [(5, {})] }, (setNvLive · true), fun d => { d with hub.nvme.sqs := Tab.del d.hub.nvme.sqs 5 }, fun d
     =>
     { d with hub.nvme.cmds := [(({ q := 0, cid := 8193, dw := [536936452, 50, 0, 0, 76, 31, 2, 2, 0, 75, 5, 0, 0, 0, 0, 1], stage := 0, left := 0, mark := 0 } : NvmeCmd))] }],
     8193, { q := 0, cid := 8193, dw := [536936452, 50, 0, 0, 76, 31, 2, 2, 0, 75, 5, 0, 0, 0, 0, 1], stage := 0, left := 0, mark := 0 },
     5, by decide +kernel⟩,
   ⟨st [(setNvLive · true), fun d =>
     { d with hub.nvme.cmds := [(({ q := 0, cid := 1246, dw := [81657861, 63, 0, 0, 3, 0, 1, 2, 52, 2, 0, 12, 0, 0, 52, 34], stage := 0, left := 0, mark := 0 } : NvmeCmd))] }],
     1246, { q := 0, cid := 1246, dw := [81657861, 63, 0, 0, 3, 0, 1, 2, 52, 2, 0, 12, 0, 0, 52, 34], stage := 0, left := 0, mark := 0 },
     0, by decide +kernel⟩,
   ⟨st [(setNvLive · true), fun d => { d with hub.nvme.cqs := Tab.del d.hub.nvme.cqs 3 }, fun d =>
     { d with hub.nvme.cmds := [(({ q := 0, cid := 2, dw := [131077, 6, 0, 2, 59, 1, 2, 0, 33, 14, 3, 211633, 3, 53, 0, 0], stage := 0, left := 0, mark := 0 } : NvmeCmd))] }],
     2, { q := 0, cid := 2, dw := [131077, 6, 0, 2, 59, 1, 2, 0, 33, 14, 3, 211633, 3, 53, 0, 0], stage := 0, left := 0, mark := 0 }, 3,
     by decide +kernel⟩⟩

theorem wit_NvmeAdmin_1 :
    (∃ s : State, ∃ cid : BitVec 16, ∃ c : NvmeCmd, s.awake ∧ s.dev.fetched cid.toNat 0x02 c ∧ c.d 10 % 256 ∉ [1, 2, 3, 5, 0x81]) ∧
    (∃ s : State, ∃ cid : BitVec 16, ∃ c : NvmeCmd, ∃ n o : ℕ, s.awake ∧ s.dev.fetched cid.toNat 0x02 c ∧ c.d 10 % 256 ∈ [1, 2, 3, 5, 0x81] ∧
      n = 4 * (slice (c.d 10) 31 16 + 2 ^ 16 * slice (c.d 11) 15 0 + 1) ∧ o = c.d 12 + 2 ^ 32 * c.d 13) ∧
    (∃ s : State, ∃ cid : BitVec 16, ∃ c : NvmeCmd, s.awake ∧ s.dev.fetched cid.toNat 0x06 c ∧ c.d 10 % 256 = 1) ∧
    (∃ s : State, ∃ cid : BitVec 16, ∃ c : NvmeCmd, ∃ e : NsEnt, s.awake ∧ s.dev.fetched cid.toNat 0x06 c ∧ c.d 10 % 256 = 0 ∧ s.dev.nsOf (c.d
      1) = some e ∧ e.attached = true) ∧
    (∃ s : State, ∃ cid : BitVec 16, ∃ c : NvmeCmd, ∃ ids : List ℕ, s.awake ∧ s.dev.fetched cid.toNat 0x06 c ∧ c.d 10 % 256 = 2 ∧ ids =
      ((List.range 65).filter fun i => decide (c.d 1 < i) && (match s.dev.nsOf i with | some e => e.attached | none => false))) ∧
    (∃ s : State, ∃ cid : BitVec 16, ∃ c : NvmeCmd, ∃ e : NsEnt, s.awake ∧ s.dev.fetched cid.toNat 0x06 c ∧ c.d 10 % 256 = 3 ∧ s.dev.nsOf (c.d
      1) = some e) ∧
    (∃ s : State, ∃ cid : BitVec 16, ∃ c : NvmeCmd, s.awake ∧ s.dev.fetched cid.toNat 0x06 c ∧ (c.d 10 % 256 = 0 ∨ c.d 10 % 256 = 3) ∧
      s.dev.nsOf (c.d 1) = none) ∧
    (∃ s : State, ∃ cid : BitVec 16, ∃ c : NvmeCmd, s.awake ∧ s.dev.fetched cid.toNat 0x06 c ∧ 4 ≤ c.d 10 % 256) ∧
    (∃ s : State, ∃ cid : BitVec 16, ∃ c : NvmeCmd, ∃ f v : ℕ, s.awake ∧ s.dev.fetched cid.toNat 0x09 c ∧ f = c.d 10 % 256 ∧ v = c.d 11 ∧ f ≠
      0xC0 ∧ bit (c.d 10) 31 = true) ∧
    (∃ s : State, ∃ cid : BitVec 16, ∃ c : NvmeCmd, ∃ f v : ℕ, s.awake ∧ s.dev.fetched cid.toNat 0x09 c ∧ f = c.d 10 % 256 ∧ v = c.d 11 ∧ bit
      (c.d 10) 31 = false ∧ f ∈ [1, 0x0A, 0x0B]) ∧
    (∃ s : State, ∃ cid : BitVec 16, ∃ c : NvmeCmd, ∃ f v : ℕ, s.awake ∧ s.dev.fetched cid.toNat 0x09 c ∧ f = c.d 10 % 256 ∧ v = c.d 11 ∧ bit
      (c.d 10) 31 = false ∧ f = 5 ∧ bit v 16 = false) ∧
    (∃ s : State, ∃ cid : BitVec 16, ∃ c : NvmeCmd, ∃ f v : ℕ, s.awake ∧ s.dev.fetched cid.toNat 0x09 c ∧ f = c.d 10 % 256 ∧ v = c.d 11 ∧ bit
      (c.d 10) 31 = false ∧ f = 6) :=
  ⟨⟨st [(setNvLive · true), fun d =>
     { d with hub.nvme.cmds := [(({ q := 0, cid := 1246, dw := [81657858, 63, 0, 0, 3, 0, 1, 2, 52, 2, 0, 12, 0, 0, 52, 34], stage := 0, left := 0, mark := 0 } : NvmeCmd))] }],
     1246, { q := 0, cid := 1246, dw := [81657858, 63, 0, 0, 3, 0, 1, 2, 52, 2, 0, 12, 0, 0, 52, 34], stage := 0, left := 0, mark := 0 },
     by decide +kernel⟩,
   ⟨st [(setNvLive · true), fun d =>
     { d with hub.nvme.cmds := [(({ q := 0, cid := 3, dw := [196610, 57, 0, 0, 3, 0, 4096, 0, 1, 2, 196610, 0, 4, 0, 0, 0], stage := 0, left := 0, mark := 0 } : NvmeCmd))] }],
     3, { q := 0, cid := 3, dw := [196610, 57, 0, 0, 3, 0, 4096, 0, 1, 2, 196610, 0, 4, 0, 0, 0], stage := 0, left := 0, mark := 0 }, 16,
     4, by decide +kernel⟩,
   ⟨st [(setNvLive · true), fun d =>
     { d with hub.nvme.cmds := [(({ q := 0, cid := 8193, dw := [536936454, 50, 0, 0, 76, 31, 2, 2, 0, 75, 1, 0, 0, 0, 0, 1], stage := 0, left := 0, mark := 0 } : NvmeCmd))] }],
     8193, { q := 0, cid := 8193, dw := [536936454, 50, 0, 0, 76, 31, 2, 2, 0, 75, 1, 0, 0, 0, 0, 1], stage := 0, left := 0, mark := 0 },
     by decide +kernel⟩,
   ⟨st [(·.wr F.CELP_CART_STAT_STATE 4 1), fun d => modNsEnt d 1 1 fun x => { x with size := 100, attached := true }, (setNvLive · true), fun d
     =>
     { d with hub.nvme.cmds := [(({ q := 0, cid := 8193, dw := [536936454, 18, 0, 0, 76, 31, 2, 2, 0, 75, 0, 0, 0, 0, 0, 1], stage := 0, left := 0, mark := 0 } : NvmeCmd))] }],
     8193, { q := 0, cid := 8193, dw := [536936454, 18, 0, 0, 76, 31, 2, 2, 0, 75, 0, 0, 0, 0, 0, 1], stage := 0, left := 0, mark := 0 },
     { size := 100, attached := true, key := 0, fmt := 0, data := [] }, by decide +kernel⟩,
   ⟨st [(setNvLive · true), fun d =>
     { d with hub.nvme.cmds := [(({ q := 0, cid := 8193, dw := [536936454, 50, 0, 0, 76, 31, 2, 2, 0, 75, 2, 0, 0, 0, 0, 1], stage := 0, left := 0, mark := 0 } : NvmeCmd))] }],
     8193, { q := 0, cid := 8193, dw := [536936454, 50, 0, 0, 76, 31, 2, 2, 0, 75, 2, 0, 0, 0, 0, 1], stage := 0, left := 0, mark := 0 },
     [], by decide +kernel⟩,
   ⟨st [(·.wr F.CELP_CART_STAT_STATE 4 1), fun d => modNsEnt d 1 1 fun x => { x with size := 100, attached := true }, (setNvLive · true), fun d
     =>
     { d with hub.nvme.cmds := [(({ q := 0, cid := 8193, dw := [536936454, 18, 0, 0, 76, 31, 2, 2, 0, 75, 3, 0, 0, 0, 0, 1], stage := 0, left := 0, mark := 0 } : NvmeCmd))] }],
     8193, { q := 0, cid := 8193, dw := [536936454, 18, 0, 0, 76, 31, 2, 2, 0, 75, 3, 0, 0, 0, 0, 1], stage := 0, left := 0, mark := 0 },
     { size := 100, attached := true, key := 0, fmt := 0, data := [] }, by decide +kernel⟩,
   ⟨st [(setNvLive · true), fun d =>
     { d with hub.nvme.cmds := [(({ q := 0, cid := 1246, dw := [81657862, 63, 0, 0, 3, 0, 1, 2, 52, 2, 0, 12, 0, 0, 52, 34], stage := 0, left := 0, mark := 0 } : NvmeCmd))] }],
     1246, { q := 0, cid := 1246, dw := [81657862, 63, 0, 0, 3, 0, 1, 2, 52, 2, 0, 12, 0, 0, 52, 34], stage := 0, left := 0, mark := 0 },
     by decide +kernel⟩,
   ⟨st [(setNvLive · true), fun d =>
     { d with hub.nvme.cmds := [(({ q := 0, cid := 8193, dw := [536936454, 50, 0, 0, 76, 31, 2, 2, 0, 75, 46, 0, 0, 0, 0, 1], stage := 0, left := 0, mark := 0 } : NvmeCmd))] }],
     8193, { q := 0, cid := 8193, dw := [536936454, 50, 0, 0, 76, 31, 2, 2, 0, 75, 46, 0, 0, 0, 0, 1], stage := 0, left := 0, mark := 0 },
     by decide +kernel⟩,
   ⟨st [(setNvLive · true), fun d =>
     { d with hub.nvme.cmds := [(({ q := 0, cid := 8193, dw := [536936457, 50, 0, 0, 76, 31, 2, 2, 0, 75, 2147483694, 0, 0, 0, 0, 1], stage := 0, left := 0, mark := 0 } : NvmeCmd))] }],
     8193,
     { q := 0, cid := 8193, dw := [536936457, 50, 0, 0, 76, 31, 2, 2, 0, 75, 2147483694, 0, 0, 0, 0, 1], stage := 0, left := 0, mark := 0 },
     46, 0, by decide +kernel⟩,
   ⟨st [(setNvLive · true), fun d =>
     { d with hub.nvme.cmds := [(({ q := 0, cid := 2, dw := [131081, 53, 0, 0, 73, 59, 4258331687, 0, 0, 3, 1, 62, 3, 0, 0, 178738583], stage := 0, left := 0, mark := 0 } : NvmeCmd))] }],
     2,
     { q := 0, cid := 2, dw := [131081, 53, 0, 0, 73, 59, 4258331687, 0, 0, 3, 1, 62, 3, 0, 0, 178738583], stage := 0, left := 0, mark := 0 },
     1, 62, by decide +kernel⟩,
   ⟨st [(setNvLive · true), fun d =>
     { d with hub.nvme.cmds := [(({ q := 0, cid := 2, dw := [131081, 6, 0, 2, 59, 1, 2, 0, 33, 14, 5, 7, 3, 53, 0, 0], stage := 0, left := 0, mark := 0 } : NvmeCmd))] }],
     2, { q := 0, cid := 2, dw := [131081, 6, 0, 2, 59, 1, 2, 0, 33, 14, 5, 7, 3, 53, 0, 0], stage := 0, left := 0, mark := 0 }, 5, 7,
     by decide +kernel⟩,
   ⟨st [(setNvLive · true), fun d =>
     { d with hub.nvme.cmds := [(({ q := 0, cid := 2, dw := [131081, 6, 0, 2, 59, 1, 2, 0, 33, 14, 6, 3, 3, 53, 0, 0], stage := 0, left := 0, mark := 0 } : NvmeCmd))] }],
     2, { q := 0, cid := 2, dw := [131081, 6, 0, 2, 59, 1, 2, 0, 33, 14, 6, 3, 3, 53, 0, 0], stage := 0, left := 0, mark := 0 }, 6, 3,
     by decide +kernel⟩⟩

theorem wit_NvmeAdmin_2 :
    (∃ s : State, ∃ cid : BitVec 16, ∃ c : NvmeCmd, ∃ f v : ℕ, s.awake ∧ s.dev.fetched cid.toNat 0x09 c ∧ f = c.d 10 % 256 ∧ v = c.d 11 ∧ bit
      (c.d 10) 31 = false ∧ f = 7) ∧
    (∃ s : State, ∃ cid : BitVec 16, ∃ c : NvmeCmd, ∃ f v : ℕ, s.awake ∧ s.dev.fetched cid.toNat 0x09 c ∧ f = c.d 10 % 256 ∧ v = c.d 11 ∧ bit
      (c.d 10) 31 = false ∧ f = 2 ∧ v ≤ 1 ∧ s.dev.hub.nvme.ps ≤ 1) ∧
    (∃ s : State, ∃ cid : BitVec 16, ∃ c : NvmeCmd, ∃ f v : ℕ, s.awake ∧ s.dev.fetched cid.toNat 0x09 c ∧ f = c.d 10 % 256 ∧ v = c.d 11 ∧ bit
      (c.d 10) 31 = false ∧ f = 2 ∧ 2 ≤ v ∧ v ≤ 3 ∧ s.dev.hub.nvme.ps ≠ v) ∧
    (∃ s : State, ∃ cid : BitVec 16, ∃ c : NvmeCmd, ∃ f v : ℕ, s.awake ∧ s.dev.fetched cid.toNat 0x09 c ∧ f = c.d 10 % 256 ∧ v = c.d 11 ∧ bit
      (c.d 10) 31 = false ∧ f = 9 ∧ 1 ≤ v % 2 ^ 16 ∧ v % 2 ^ 16 ≤ 512) ∧
    (∃ s : State, ∃ cid : BitVec 16, ∃ c : NvmeCmd, ∃ f v : ℕ, s.awake ∧ s.dev.fetched cid.toNat 0x09 c ∧ f = c.d 10 % 256 ∧ v = c.d 11 ∧ bit
      (c.d 10) 31 = false ∧ f ∉ [1, 2, 5, 6, 7, 9, 0x0A, 0x0B, 0xC0]) ∧
    (∃ s : State, ∃ cid : BitVec 16, ∃ c : NvmeCmd, ∃ f v : ℕ, ∃ q : Fin 512, s.awake ∧ s.dev.fetched cid.toNat 0x09 c ∧ f = c.d 10 % 256 ∧ v
      = c.d 11 ∧ bit (c.d 10) 31 = false ∧ f = 0xC0 ∧ v % 2 ^ 16 = q.val + 1) ∧
    (∃ s : State, ∃ cid : BitVec 16, ∃ c : NvmeCmd, ∃ f v : ℕ, s.awake ∧ s.dev.fetched cid.toNat 0x09 c ∧ f = c.d 10 % 256 ∧ v = c.d 11 ∧ bit
      (c.d 10) 31 = false ∧ f = 0xC0 ∧ (v % 2 ^ 16 = 0 ∨ 512 < v % 2 ^ 16)) ∧
    (∃ s : State, ∃ cid : BitVec 16, ∃ c : NvmeCmd, ∃ f : ℕ, s.awake ∧ s.dev.fetched cid.toNat 0x0A c ∧ f = c.d 10 % 256 ∧ f ∉ [1, 2, 5, 6, 7,
      9, 0x0A, 0x0B, 0xC0]) ∧
    (∃ s : State, ∃ cid : BitVec 16, ∃ c : NvmeCmd, ∃ f : ℕ, s.awake ∧ s.dev.fetched cid.toNat 0x0A c ∧ f = c.d 10 % 256 ∧ f ∈ [1, 2, 5, 6, 7,
      0x0A, 0x0B] ∧ slice (c.d 10) 10 8 = 3) ∧
    (∃ s : State, ∃ cid : BitVec 16, ∃ c : NvmeCmd, ∃ f : ℕ, s.awake ∧ s.dev.fetched cid.toNat 0x0A c ∧ f = c.d 10 % 256 ∧ f ∈ [1, 5, 6, 0x0A,
      0x0B] ∧ slice (c.d 10) 10 8 = 0) ∧
    (∃ s : State, ∃ cid : BitVec 16, ∃ c : NvmeCmd, ∃ f : ℕ, s.awake ∧ s.dev.fetched cid.toNat 0x0A c ∧ f = c.d 10 % 256 ∧ f = 2 ∧ slice (c.d
      10) 10 8 = 0) ∧
    (∃ s : State, ∃ cid : BitVec 16, ∃ c : NvmeCmd, ∃ f : ℕ, ∃ q : Fin 512, s.awake ∧ s.dev.fetched cid.toNat 0x0A c ∧ f = c.d 10 % 256 ∧ f =
      0xC0 ∧ slice (c.d 10) 10 8 = 0 ∧ c.d 11 % 2 ^ 16 = q.val + 1) :=
  ⟨⟨st [(setNvLive · true), fun d =>
     { d with hub.nvme.cmds := [(({ q := 0, cid := 2, dw := [131081, 6, 0, 2, 59, 1, 2, 0, 33, 14, 7, 3, 3, 53, 0, 0], stage := 0, left := 0, mark := 0 } : NvmeCmd))] }],
     2, { q := 0, cid := 2, dw := [131081, 6, 0, 2, 59, 1, 2, 0, 33, 14, 7, 3, 3, 53, 0, 0], stage := 0, left := 0, mark := 0 }, 7, 3,
     by decide +kernel⟩,
   ⟨st [(setNvLive · true), fun d =>
     { d with hub.nvme.cmds := [(({ q := 0, cid := 2, dw := [131081, 6, 0, 2, 59, 1, 2, 0, 33, 14, 2, 1, 3, 53, 0, 0], stage := 0, left := 0, mark := 0 } : NvmeCmd))] }],
     2, { q := 0, cid := 2, dw := [131081, 6, 0, 2, 59, 1, 2, 0, 33, 14, 2, 1, 3, 53, 0, 0], stage := 0, left := 0, mark := 0 }, 2, 1,
     by decide +kernel⟩,
   ⟨st [(setNvLive · true), fun d =>
     { d with hub.nvme.cmds := [(({ q := 0, cid := 2, dw := [131081, 6, 0, 2, 59, 1, 2, 0, 33, 14, 2, 3, 3, 53, 0, 0], stage := 0, left := 0, mark := 0 } : NvmeCmd))] }],
     2, { q := 0, cid := 2, dw := [131081, 6, 0, 2, 59, 1, 2, 0, 33, 14, 2, 3, 3, 53, 0, 0], stage := 0, left := 0, mark := 0 }, 2, 3,
     by decide +kernel⟩,
   ⟨st [(setNvLive · true), fun d =>
     { d with hub.nvme.cmds := [(({ q := 0, cid := 2, dw := [131081, 6, 0, 2, 59, 1, 2, 0, 33, 14, 9, 7, 3, 53, 0, 0], stage := 0, left := 0, mark := 0 } : NvmeCmd))] }],
     2, { q := 0, cid := 2, dw := [131081, 6, 0, 2, 59, 1, 2, 0, 33, 14, 9, 7, 3, 53, 0, 0], stage := 0, left := 0, mark := 0 }, 9, 7,
     by decide +kernel⟩,
   ⟨st [(setNvLive · true), fun d =>
     { d with hub.nvme.cmds := [(({ q := 0, cid := 1246, dw := [81657865, 63, 0, 0, 3, 0, 1, 2, 52, 2, 0, 12, 0, 0, 52, 34], stage := 0, left := 0, mark := 0 } : NvmeCmd))] }],
     1246, { q := 0, cid := 1246, dw := [81657865, 63, 0, 0, 3, 0, 1, 2, 52, 2, 0, 12, 0, 0, 52, 34], stage := 0, left := 0, mark := 0 },
     0, 12, by decide +kernel⟩,
   ⟨st [(setNvLive · true), fun d =>
     { d with hub.nvme.cmds := [(({ q := 0, cid := 3, dw := [196617, 20, 2, 2, 0, 12, 0, 0, 6, 56, 192, 327921, 3, 0, 1, 1], stage := 0, left := 0, mark := 0 } : NvmeCmd))] }],
     3, { q := 0, cid := 3, dw := [196617, 20, 2, 2, 0, 12, 0, 0, 6, 56, 192, 327921, 3, 0, 1, 1], stage := 0, left := 0, mark := 0 },
     192, 327921, 240, by decide +kernel⟩,
   ⟨st [(setNvLive · true), fun d =>
     { d with hub.nvme.cmds := [(({ q := 0, cid := 2, dw := [131081, 6, 0, 2, 59, 1, 2, 0, 33, 14, 192, 0, 3, 53, 0, 0], stage := 0, left := 0, mark := 0 } : NvmeCmd))] }],
     2, { q := 0, cid := 2, dw := [131081, 6, 0, 2, 59, 1, 2, 0, 33, 14, 192, 0, 3, 53, 0, 0], stage := 0, left := 0, mark := 0 }, 192, 0,
     by decide +kernel⟩,
   ⟨st [(setNvLive · true), fun d =>
     { d with hub.nvme.cmds := [(({ q := 0, cid := 1246, dw := [81657866, 63, 0, 0, 3, 0, 1, 2, 52, 2, 0, 12, 0, 0, 52, 34], stage := 0, left := 0, mark := 0 } : NvmeCmd))] }],
     1246, { q := 0, cid := 1246, dw := [81657866, 63, 0, 0, 3, 0, 1, 2, 52, 2, 0, 12, 0, 0, 52, 34], stage := 0, left := 0, mark := 0 },
     0, by decide +kernel⟩,
   ⟨st [(setNvLive · true), fun d =>
     { d with hub.nvme.cmds := [(({ q := 0, cid := 1, dw := [65546, 54, 3543914212, 0, 0, 45, 2, 0, 3, 0, 770, 1, 1, 26, 3, 21], stage := 0, left := 0, mark := 0 } : NvmeCmd))] }],
     1, { q := 0, cid := 1, dw := [65546, 54, 3543914212, 0, 0, 45, 2, 0, 3, 0, 770, 1, 1, 26, 3, 21], stage := 0, left := 0, mark := 0 },
     2, by decide +kernel⟩,
   ⟨st [(setNvLive · true), fun d =>
     { d with hub.nvme.cmds := [(({ q := 0, cid := 366, dw := [23986186, 23, 3, 1, 14, 0, 62, 1, 0, 50, 1, 2426593784, 2, 2, 0, 1], stage := 0, left := 0, mark := 0 } : NvmeCmd))] }],
     366,
     { q := 0, cid := 366, dw := [23986186, 23, 3, 1, 14, 0, 62, 1, 0, 50, 1, 2426593784, 2, 2, 0, 1], stage := 0, left := 0, mark := 0 },
     1, by decide +kernel⟩,
   ⟨st [(setNvLive · true), fun d =>
     { d with hub.nvme.cmds := [(({ q := 0, cid := 1, dw := [65546, 54, 3543914212, 0, 0, 45, 2, 0, 3, 0, 2, 1, 1, 26, 3, 21], stage := 0, left := 0, mark := 0 } : NvmeCmd))] }],
     1, { q := 0, cid := 1, dw := [65546, 54, 3543914212, 0, 0, 45, 2, 0, 3, 0, 2, 1, 1, 26, 3, 21], stage := 0, left := 0, mark := 0 },
     2, by decide +kernel⟩,
   ⟨st [(setNvLive · true), fun d =>
     { d with hub.nvme.cmds := [(({ q := 0, cid := 3, dw := [196618, 48, 1, 2, 3, 0, 45, 78, 0, 0, 192, 36, 43, 2, 3, 3], stage := 0, left := 0, mark := 0 } : NvmeCmd))] }],
     3, { q := 0, cid := 3, dw := [196618, 48, 1, 2, 3, 0, 45, 78, 0, 0, 192, 36, 43, 2, 3, 3], stage := 0, left := 0, mark := 0 }, 192,
     35, by decide +kernel⟩⟩

theorem wit_NvmeAdmin_3 :
    (∃ s : State, ∃ cid : BitVec 16, ∃ c : NvmeCmd, s.awake ∧ s.dev.fetched cid.toNat 0x0C c ∧ s.dev.hub.nvme.aers.length < 4) ∧
    (∃ s : State, ∃ cid : BitVec 16, ∃ c : NvmeCmd, s.awake ∧ s.dev.fetched cid.toNat 0x0C c ∧ 4 ≤ s.dev.hub.nvme.aers.length) ∧
    (∃ s : State, ∃ cid : BitVec 16, ∃ c : NvmeCmd, ∃ q id before : ℕ, ∃ mine : Option NvmeCmd, s.awake ∧ s.dev.fetched cid.toNat 0x08 c ∧ q =
      c.d 10 % 2 ^ 16 ∧ id = c.d 10 / 2 ^ 16 ∧ before = ((s.dev.hub.nvme.cmds.takeWhile fun y => !(y.q == 0 && y.cid == cid.toNat)).filter
      fun y => y.q == 0 && y.opc == 8).length ∧ mine = (s.dev.hub.nvme.cmds.find? fun y => y.q == q && y.cid == id && !(y.q == 0 && y.cid
      == cid.toNat)) ∧ 4 ≤ before) ∧
    (∃ s : State, ∃ cid : BitVec 16, ∃ c : NvmeCmd, ∃ q id before : ℕ, ∃ mine : Option NvmeCmd, ∃ y : NvmeCmd, s.awake ∧ s.dev.fetched
      cid.toNat 0x08 c ∧ q = c.d 10 % 2 ^ 16 ∧ id = c.d 10 / 2 ^ 16 ∧ before = ((s.dev.hub.nvme.cmds.takeWhile fun y => !(y.q == 0 &&
      y.cid == cid.toNat)).filter fun y => y.q == 0 && y.opc == 8).length ∧ mine = (s.dev.hub.nvme.cmds.find? fun y => y.q == q && y.cid
      == id && !(y.q == 0 && y.cid == cid.toNat)) ∧ before < 4 ∧ (q = 0 → id ∉ s.dev.hub.nvme.aers) ∧ mine = some y ∧ y.catchable = true) ∧
    (∃ s : State, ∃ cid : BitVec 16, ∃ c : NvmeCmd, ∃ q id before : ℕ, ∃ mine : Option NvmeCmd, ∃ y : NvmeCmd, s.awake ∧ s.dev.fetched
      cid.toNat 0x08 c ∧ q = c.d 10 % 2 ^ 16 ∧ id = c.d 10 / 2 ^ 16 ∧ before = ((s.dev.hub.nvme.cmds.takeWhile fun y => !(y.q == 0 &&
      y.cid == cid.toNat)).filter fun y => y.q == 0 && y.opc == 8).length ∧ mine = (s.dev.hub.nvme.cmds.find? fun y => y.q == q && y.cid
      == id && !(y.q == 0 && y.cid == cid.toNat)) ∧ before < 4 ∧ (q = 0 → id ∉ s.dev.hub.nvme.aers) ∧ mine = some y ∧ y.catchable = false) ∧
    (∃ s : State, ∃ cid : BitVec 16, ∃ c : NvmeCmd, ∃ q id before : ℕ, ∃ mine : Option NvmeCmd, ∃ x : NvmeQ, ∃ i : ℕ, s.awake ∧ s.dev.fetched
      cid.toNat 0x08 c ∧ q = c.d 10 % 2 ^ 16 ∧ id = c.d 10 / 2 ^ 16 ∧ before = ((s.dev.hub.nvme.cmds.takeWhile fun y => !(y.q == 0 &&
      y.cid == cid.toNat)).filter fun y => y.q == 0 && y.opc == 8).length ∧ mine = (s.dev.hub.nvme.cmds.find? fun y => y.q == q && y.cid
      == id && !(y.q == 0 && y.cid == cid.toNat)) ∧ before < 4 ∧ (q = 0 → id ∉ s.dev.hub.nvme.aers) ∧ mine = none ∧ s.dev.unfetched q id =
      some (x, i) ∧ s.dev.hub.nvme.dels = [] ∧ s.dev.hub.nvme.closing = false) ∧
    (∃ s : State, ∃ cid : BitVec 16, ∃ c : NvmeCmd, ∃ q id before : ℕ, ∃ mine : Option NvmeCmd, s.awake ∧ s.dev.fetched cid.toNat 0x08 c ∧ q =
      c.d 10 % 2 ^ 16 ∧ id = c.d 10 / 2 ^ 16 ∧ before = ((s.dev.hub.nvme.cmds.takeWhile fun y => !(y.q == 0 && y.cid == cid.toNat)).filter
      fun y => y.q == 0 && y.opc == 8).length ∧ mine = (s.dev.hub.nvme.cmds.find? fun y => y.q == q && y.cid == id && !(y.q == 0 && y.cid
      == cid.toNat)) ∧ before < 4 ∧ (q = 0 → id ∉ s.dev.hub.nvme.aers) ∧ mine = none ∧ s.dev.unfetched q id = none) ∧
    (∃ s : State, ∃ cid : BitVec 16, ∃ c : NvmeCmd, ∃ q id before : ℕ, ∃ mine : Option NvmeCmd, s.awake ∧ s.dev.fetched cid.toNat 0x08 c ∧ q =
      c.d 10 % 2 ^ 16 ∧ id = c.d 10 / 2 ^ 16 ∧ before = ((s.dev.hub.nvme.cmds.takeWhile fun y => !(y.q == 0 && y.cid == cid.toNat)).filter
      fun y => y.q == 0 && y.opc == 8).length ∧ mine = (s.dev.hub.nvme.cmds.find? fun y => y.q == q && y.cid == id && !(y.q == 0 && y.cid
      == cid.toNat)) ∧ before < 4 ∧ q = 0 ∧ id ∈ s.dev.hub.nvme.aers ∧ s.dev.hub.nvme.closing = false) ∧
    (∃ s : State, ∃ cid : BitVec 16, ∃ c : NvmeCmd, ∃ n : ℕ, s.awake ∧ s.dev.fetched cid.toNat 0x11 c ∧ n = 4 * (c.d 10 + 1)) ∧
    (∃ s : State, ∃ cid : BitVec 16, ∃ c : NvmeCmd, ∃ k n : ℕ, s.awake ∧ s.dev.fetched cid.toNat 0x10 c ∧ k = slice (c.d 10) 2 0 ∧ n =
      Mem.readLe s.dev.hub.nvme.fw 8 4 ∧ s.dev.lcs ≠ 5 ∧ s.dev.imageCheck (s.dev.hub.nvme.fw.reads · ·) = none ∧ (k = 1 ∨ k = 2) ∧ slice
      (c.d 10) 5 3 = 0) ∧
    (∃ s : State, ∃ cid : BitVec 16, ∃ c : NvmeCmd, ∃ k n : ℕ, s.awake ∧ s.dev.fetched cid.toNat 0x10 c ∧ k = slice (c.d 10) 2 0 ∧ n =
      Mem.readLe s.dev.hub.nvme.fw 8 4 ∧ s.dev.lcs ≠ 5 ∧ s.dev.imageCheck (s.dev.hub.nvme.fw.reads · ·) = none ∧ (k = 1 ∨ k = 2) ∧ slice
      (c.d 10) 5 3 = 1) ∧
    (∃ s : State, ∃ cid : BitVec 16, ∃ c : NvmeCmd, ∃ k n : ℕ, s.awake ∧ s.dev.fetched cid.toNat 0x10 c ∧ k = slice (c.d 10) 2 0 ∧ n =
      Mem.readLe s.dev.hub.nvme.fw 8 4 ∧ s.dev.lcs ≠ 5 ∧ s.dev.imageCheck (s.dev.hub.nvme.fw.reads · ·) = none ∧ (k = 1 ∨ k = 2) ∧ slice
      (c.d 10) 5 3 = 3 ∧ s.dev.on F.HUB_FALLOW_ACTIVE = false ∧ k ≠ s.dev.rd F.HUB_BOOT_STAT_IMAGE + 1) :=
  ⟨⟨st [(setNvLive · true), fun d =>
     { d with hub.nvme.cmds := [(({ q := 0, cid := 1246, dw := [81657868, 63, 0, 0, 3, 0, 1, 2, 52, 2, 0, 12, 0, 0, 52, 34], stage := 0, left := 0, mark := 0 } : NvmeCmd))] }],
     1246, { q := 0, cid := 1246, dw := [81657868, 63, 0, 0, 3, 0, 1, 2, 52, 2, 0, 12, 0, 0, 52, 34], stage := 0, left := 0, mark := 0 },
     by decide +kernel⟩,
   ⟨st [fun d => { d with hub.nvme.aers := [1, 2, 3, 4] }, (setNvLive · true), fun d =>
     { d with hub.nvme.cmds := [(({ q := 0, cid := 1246, dw := [81657868, 63, 0, 0, 3, 0, 1, 2, 52, 2, 0, 12, 0, 0, 52, 34], stage := 0, left := 0, mark := 0 } : NvmeCmd))] }],
     1246, { q := 0, cid := 1246, dw := [81657868, 63, 0, 0, 3, 0, 1, 2, 52, 2, 0, 12, 0, 0, 52, 34], stage := 0, left := 0, mark := 0 },
     by decide +kernel⟩,
   ⟨st [fun d =>
     { d with hub.nvme.cmds := [{ q := 0, cid := 60001, dw := [8] }, { q := 0, cid := 60002, dw := [8] }, { q := 0, cid := 60003, dw := [8] }, { q := 0, cid := 60004, dw := [8] }] },
     (setNvLive · true), fun d =>
     { d with hub.nvme.cmds := [{ q := 0, cid := 60001, dw := [8] }, { q := 0, cid := 60002, dw := [8] }, { q := 0, cid := 60003, dw := [8] }, { q := 0, cid := 60004, dw := [8] }] ++ [(({ q := 0, cid := 9, dw := [589832, 24, 17, 40, 0, 3, 0, 0, 0, 1, 0, 75, 29, 0, 3, 1], stage := 0, left := 0, mark := 0 } : NvmeCmd))] }],
     9, { q := 0, cid := 9, dw := [589832, 24, 17, 40, 0, 3, 0, 0, 0, 1, 0, 75, 29, 0, 3, 1], stage := 0, left := 0, mark := 0 }, 0, 0, 4,
     none, by decide +kernel⟩,
   ⟨st [fun d => { d with hub.nvme.cmds := [({ q := 3, cid := 7, dw := [458753] } : NvmeCmd)], hub.nvme.aers := [] }, (setNvLive · true), fun
     d =>
     { d with hub.nvme.cmds := [(({ q := 0, cid := 8193, dw := [536936456, 50, 0, 0, 76, 31, 2, 2, 0, 75, 458755, 0, 0, 0, 0, 1], stage := 0, left := 0, mark := 0 } : NvmeCmd)), ({ q := 3, cid := 7, dw := [458753] } : NvmeCmd)] }],
     8193,
     { q := 0, cid := 8193, dw := [536936456, 50, 0, 0, 76, 31, 2, 2, 0, 75, 458755, 0, 0, 0, 0, 1], stage := 0, left := 0, mark := 0 },
     3, 7, 0, some { q := 3, cid := 7, dw := [458753], stage := 0, left := 0, mark := 0 },
     { q := 3, cid := 7, dw := [458753], stage := 0, left := 0, mark := 0 }, by decide +kernel⟩,
   ⟨st [fun d => { d with hub.nvme.cmds := [({ q := 3, cid := 7, dw := [458753], stage := 3 } : NvmeCmd)], hub.nvme.aers := [] }, (setNvLive ·
     true), fun d =>
     { d with hub.nvme.cmds := [(({ q := 0, cid := 8193, dw := [536936456, 50, 0, 0, 76, 31, 2, 2, 0, 75, 458755, 0, 0, 0, 0, 1], stage := 0, left := 0, mark := 0 } : NvmeCmd)), ({ q := 3, cid := 7, dw := [458753], stage := 3 } : NvmeCmd)] }],
     8193,
     { q := 0, cid := 8193, dw := [536936456, 50, 0, 0, 76, 31, 2, 2, 0, 75, 458755, 0, 0, 0, 0, 1], stage := 0, left := 0, mark := 0 },
     3, 7, 0, some { q := 3, cid := 7, dw := [458753], stage := 3, left := 0, mark := 0 },
     { q := 3, cid := 7, dw := [458753], stage := 3, left := 0, mark := 0 }, by decide +kernel⟩,
   ⟨st [fun d =>
     { d with hub.nvme.cmds := [], hub.nvme.aers := [], hub.nvme.sqs := [(3, { base := 0x1000, size := 8, head := 0, tail := 2 })], hostMem := (d.hostMem.writes 0x1000 (leBytes 4 (6 * 65536 + 1))).writes 0x1040 (leBytes 4 (7 * 65536 + 2)) },
     (setNvLive · true), fun d => { d with hub.nvme.dels := [] }, fun d => { d with hub.nvme.closing := false }, fun d =>
     { d with hub.nvme.cmds := [(({ q := 0, cid := 8193, dw := [536936456, 50, 0, 0, 76, 31, 2, 2, 0, 75, 458755, 0, 0, 0, 0, 1], stage := 0, left := 0, mark := 0 } : NvmeCmd))] }],
     8193,
     { q := 0, cid := 8193, dw := [536936456, 50, 0, 0, 76, 31, 2, 2, 0, 75, 458755, 0, 0, 0, 0, 1], stage := 0, left := 0, mark := 0 },
     3, 7, 0, none, { base := 4096, size := 8, head := 0, tail := 2, phase := true, ien := true, gone := [] }, 1, by decide +kernel⟩,
   ⟨st [(setNvLive · true), fun d =>
     { d with hub.nvme.cmds := [(({ q := 0, cid := 1246, dw := [81657864, 63, 0, 0, 3, 0, 1, 2, 52, 2, 0, 12, 0, 0, 52, 34], stage := 0, left := 0, mark := 0 } : NvmeCmd))] }],
     1246, { q := 0, cid := 1246, dw := [81657864, 63, 0, 0, 3, 0, 1, 2, 52, 2, 0, 12, 0, 0, 52, 34], stage := 0, left := 0, mark := 0 },
     0, 0, 0, none, by decide +kernel⟩,
   ⟨st [(setNvLive · true), fun d => { d with hub.nvme.aers := 0 :: d.hub.nvme.aers }, fun d => { d with hub.nvme.closing := false }, fun d =>
     { d with hub.nvme.cmds := [(({ q := 0, cid := 1246, dw := [81657864, 63, 0, 0, 3, 0, 1, 2, 52, 2, 0, 12, 0, 0, 52, 34], stage := 0, left := 0, mark := 0 } : NvmeCmd))] }],
     1246, { q := 0, cid := 1246, dw := [81657864, 63, 0, 0, 3, 0, 1, 2, 52, 2, 0, 12, 0, 0, 52, 34], stage := 0, left := 0, mark := 0 },
     0, 0, 0, none, by decide +kernel⟩,
   ⟨st [(setNvLive · true), fun d =>
     { d with hub.nvme.cmds := [(({ q := 0, cid := 3, dw := [196625, 57, 0, 0, 3, 0, 4096, 0, 1, 2, 3, 2, 45, 78, 0, 0], stage := 0, left := 0, mark := 0 } : NvmeCmd))] }],
     3, { q := 0, cid := 3, dw := [196625, 57, 0, 0, 3, 0, 4096, 0, 1, 2, 3, 2, 45, 78, 0, 0], stage := 0, left := 0, mark := 0 }, 16,
     by decide +kernel⟩,
   ⟨st [fun d => fwDev d, (setNvLive · true), fun d =>
     { d with hub.nvme.cmds := [(({ q := 0, cid := 8193, dw := [536936464, 50, 0, 0, 76, 31, 2, 2, 0, 75, 2, 0, 0, 0, 0, 1], stage := 0, left := 0, mark := 0 } : NvmeCmd))] }],
     8193, { q := 0, cid := 8193, dw := [536936464, 50, 0, 0, 76, 31, 2, 2, 0, 75, 2, 0, 0, 0, 0, 1], stage := 0, left := 0, mark := 0 },
     2, 388, by decide +kernel⟩,
   ⟨st [fun d => fwDev d, (setNvLive · true), fun d =>
     { d with hub.nvme.cmds := [(({ q := 0, cid := 8193, dw := [536936464, 50, 0, 0, 76, 31, 2, 2, 0, 75, 10, 0, 0, 0, 0, 1], stage := 0, left := 0, mark := 0 } : NvmeCmd))] }],
     8193, { q := 0, cid := 8193, dw := [536936464, 50, 0, 0, 76, 31, 2, 2, 0, 75, 10, 0, 0, 0, 0, 1], stage := 0, left := 0, mark := 0 },
     2, 388, by decide +kernel⟩,
   ⟨st [fun d => fwDev d, (setNvLive · true), (·.wr F.HUB_FALLOW_ACTIVE 0), (·.wr F.HUB_BOOT_STAT_IMAGE 0), fun d =>
     { d with hub.nvme.cmds := [(({ q := 0, cid := 8193, dw := [536936464, 50, 0, 0, 76, 31, 2, 2, 0, 75, 26, 0, 0, 0, 0, 1], stage := 0, left := 0, mark := 0 } : NvmeCmd))] }],
     8193, { q := 0, cid := 8193, dw := [536936464, 50, 0, 0, 76, 31, 2, 2, 0, 75, 26, 0, 0, 0, 0, 1], stage := 0, left := 0, mark := 0 },
     2, 388, by decide +kernel⟩⟩

theorem wit_NvmeAdmin_4 :
    (∃ s : State, ∃ cid : BitVec 16, ∃ c : NvmeCmd, ∃ k : ℕ, s.awake ∧ s.dev.fetched cid.toNat 0x10 c ∧ k = slice (c.d 10) 2 0 ∧ slice (c.d
      10) 5 3 = 0 ∧ (s.dev.lcs = 5 ∨ (s.dev.imageCheck (s.dev.hub.nvme.fw.reads · ·)).isSome = true)) ∧
    (∃ s : State, ∃ cid : BitVec 16, ∃ c : NvmeCmd, ∃ k : ℕ, s.awake ∧ s.dev.fetched cid.toNat 0x10 c ∧ k = slice (c.d 10) 2 0 ∧ slice (c.d
      10) 5 3 = 2 ∧ s.dev.lcs ≠ 5 ∧ (k = 1 ∨ k = 2)) ∧
    (∃ s : State, ∃ cid : BitVec 16, ∃ c : NvmeCmd, ∃ k : ℕ, s.awake ∧ s.dev.fetched cid.toNat 0x10 c ∧ k = slice (c.d 10) 2 0 ∧ slice (c.d
      10) 5 3 = 2 ∧ s.dev.lcs ≠ 5 ∧ (k = 0 ∨ 2 < k)) ∧
    (∃ s : State, ∃ cid : BitVec 16, ∃ c : NvmeCmd, ∃ k : ℕ, s.awake ∧ s.dev.fetched cid.toNat 0x10 c ∧ k = slice (c.d 10) 2 0 ∧ slice (c.d
      10) 5 3 = 3 ∧ s.dev.on F.HUB_FALLOW_ACTIVE = true) ∧
    (∃ s : State, s.awake ∧ s.dev.reaches .CEL 0 = true) :=
  ⟨⟨st [(setNvLive · true), fun d =>
     { d with hub.nvme.cmds := [(({ q := 0, cid := 258, dw := [16908304, 11, 0, 0, 2, 15, 0, 3, 76, 65, 0, 0, 59, 45, 26, 0], stage := 0, left := 0, mark := 0 } : NvmeCmd))] }],
     258, { q := 0, cid := 258, dw := [16908304, 11, 0, 0, 2, 15, 0, 3, 76, 65, 0, 0, 59, 45, 26, 0], stage := 0, left := 0, mark := 0 },
     0, by decide +kernel⟩,
   ⟨st [(setNvLive · true), (·.wr F.HUB_LCS_STATE 9), fun d =>
     { d with hub.nvme.cmds := [(({ q := 0, cid := 4, dw := [262160, 17, 2, 1, 0, 49, 0, 0, 36, 1018920125, 17, 0, 3, 1868932493, 1, 0], stage := 0, left := 0, mark := 0 } : NvmeCmd))] }],
     4,
     { q := 0, cid := 4, dw := [262160, 17, 2, 1, 0, 49, 0, 0, 36, 1018920125, 17, 0, 3, 1868932493, 1, 0], stage := 0, left := 0, mark := 0 },
     1, by decide +kernel⟩,
   ⟨st [(setNvLive · true), (·.wr F.HUB_LCS_STATE 8), fun d =>
     { d with hub.nvme.cmds := [(({ q := 0, cid := 0, dw := [16, 1, 2351828580, 0, 1, 16, 1, 1, 0, 1, 16, 0, 3, 0, 52, 11], stage := 0, left := 0, mark := 0 } : NvmeCmd))] }],
     0, { q := 0, cid := 0, dw := [16, 1, 2351828580, 0, 1, 16, 1, 1, 0, 1, 16, 0, 3, 0, 52, 11], stage := 0, left := 0, mark := 0 }, 0,
     by decide +kernel⟩,
   ⟨st [(setNvLive · true), (·.wr F.HUB_FALLOW_ACTIVE 1), fun d =>
     { d with hub.nvme.cmds := [(({ q := 0, cid := 0, dw := [16, 1, 2351828580, 0, 1, 16, 1, 1, 0, 1, 24, 0, 3, 0, 52, 11], stage := 0, left := 0, mark := 0 } : NvmeCmd))] }],
     0, { q := 0, cid := 0, dw := [16, 1, 2351828580, 0, 1, 16, 1, 1, 0, 1, 24, 0, 3, 0, 52, 11], stage := 0, left := 0, mark := 0 }, 0,
     by decide +kernel⟩,
   ⟨st [(setReach · .CEL 0)], by decide +kernel⟩⟩

theorem wit_NamespaceWork_1 :
    (∃ s : State, ∃ cid : BitVec 16, ∃ c : NvmeCmd, s.awake ∧ s.dev.fetched cid.toNat 0x0D c ∧ c.d 10 % 16 ≠ 0) ∧
    (∃ s : State, ∃ cid : BitVec 16, ∃ c : NvmeCmd, ∃ p : Pipe, ∃ nsze k : ℕ, s.awake ∧ s.dev.fetched cid.toNat 0x0D c ∧ c.d 10 % 16 = 0 ∧
      nsze = ofLeBytes ((s.dev.prpRead c 4096).take 8) ∧ ofLeBytes (((s.dev.prpRead c 4096).drop 8).take 8) = nsze ∧ ofLeBytes
      (((s.dev.prpRead c 4096).drop 26).take 1) = 0 ∧ ofLeBytes (((s.dev.prpRead c 4096).drop 100).take 1) = p.val + 1 ∧ s.dev.cartState p
      = 4 ∧ s.dev.on F.CELP_CART_STAT_READONLY p = false ∧ ((List.range 16).find? fun k => (s.dev.nsEnt p k).size == 0) = some k ∧
      s.dev.usedLbas p + nsze ≤ (s.dev.cel p).cart.ucap ∧ s.dev.rngOk = true) ∧
    (∃ s : State, ∃ cid : BitVec 16, ∃ c : NvmeCmd, s.awake ∧ s.dev.fetched cid.toNat 0x0D c ∧ c.d 10 % 16 = 1 ∧ c.d 1 ≠ 0xFFFFFFFF ∧
      s.dev.nsOf (c.d 1) = none) ∧
    (∃ s : State, ∃ cid : BitVec 16, ∃ c : NvmeCmd, ∃ e : NsEnt, ∃ p k : ℕ, s.awake ∧ s.dev.fetched cid.toNat 0x0D c ∧ c.d 10 % 16 = 1 ∧ c.d 1
      ≠ 0xFFFFFFFF ∧ s.dev.nsOf (c.d 1) = some e ∧ nsPlace (c.d 1) = (p, k) ∧ Tab.find s.dev.hub.nvme.san p = none ∧ s.dev.nsBusy p k =
      false ∧ s.dev.takeNs p ≠ some k) ∧
    (∃ s : State, ∃ cid : BitVec 16, ∃ c : NvmeCmd, s.awake ∧ s.dev.fetched cid.toNat 0x15 c ∧ 1 < c.d 10 % 16) ∧
    (∃ s : State, ∃ cid : BitVec 16, ∃ c : NvmeCmd, ∃ e : NsEnt, ∃ p k : ℕ, s.awake ∧ s.dev.fetched cid.toNat 0x15 c ∧ c.d 10 % 16 ≤ 1 ∧
      ofLeBytes ((s.dev.prpRead c 4096).take 2) = 1 ∧ ofLeBytes (((s.dev.prpRead c 4096).drop 2).take 2) = 1 ∧ s.dev.nsOf (c.d 1) = some e
      ∧ nsPlace (c.d 1) = (p, k) ∧ Tab.find s.dev.hub.nvme.san p = none) ∧
    (∃ s : State, ∃ cid : BitVec 16, ∃ c : NvmeCmd, ∃ e : NsEnt, ∃ p k : ℕ, s.awake ∧ s.dev.fetched cid.toNat 0x80 c ∧ slice (c.d 10) 3 0 = 0
      ∧ bit (c.d 10) 4 = false ∧ slice (c.d 10) 7 5 = 0 ∧ c.d 1 ≠ 0xFFFFFFFF ∧ s.dev.nsOf (c.d 1) = some e ∧ nsPlace (c.d 1) = (p, k) ∧
      Tab.find s.dev.hub.nvme.san p = none ∧ s.dev.cartState p = 4 ∧ s.dev.nsBusy p k = false ∧ slice (c.d 10) 11 9 = 0) ∧
    (∃ s : State, ∃ cid : BitVec 16, ∃ c : NvmeCmd, ∃ e : NsEnt, ∃ p k : ℕ, s.awake ∧ s.dev.fetched cid.toNat 0x80 c ∧ slice (c.d 10) 3 0 = 0
      ∧ bit (c.d 10) 4 = false ∧ slice (c.d 10) 7 5 = 0 ∧ c.d 1 ≠ 0xFFFFFFFF ∧ s.dev.nsOf (c.d 1) = some e ∧ nsPlace (c.d 1) = (p, k) ∧
      Tab.find s.dev.hub.nvme.san p = none ∧ s.dev.cartState p = 4 ∧ s.dev.nsBusy p k = false ∧ slice (c.d 10) 11 9 = 1) ∧
    (∃ s : State, ∃ cid : BitVec 16, ∃ c : NvmeCmd, ∃ e : NsEnt, ∃ p k : ℕ, s.awake ∧ s.dev.fetched cid.toNat 0x80 c ∧ slice (c.d 10) 3 0 = 0
      ∧ bit (c.d 10) 4 = false ∧ slice (c.d 10) 7 5 = 0 ∧ c.d 1 ≠ 0xFFFFFFFF ∧ s.dev.nsOf (c.d 1) = some e ∧ nsPlace (c.d 1) = (p, k) ∧
      Tab.find s.dev.hub.nvme.san p = none ∧ s.dev.cartState p = 4 ∧ s.dev.nsBusy p k = false ∧ slice (c.d 10) 11 9 = 2 ∧ s.dev.rngOk =
      true) ∧
    (∃ s : State, ∃ cid : BitVec 16, ∃ c : NvmeCmd, s.awake ∧ s.dev.fetched cid.toNat 0x80 c ∧ slice (c.d 10) 11 9 = 0 ∧ (slice (c.d 10) 3 0 ≠
      0 ∨ bit (c.d 10) 4 = true ∨ slice (c.d 10) 7 5 ≠ 0)) ∧
    (∃ s : State, ∃ cid : BitVec 16, ∃ c : NvmeCmd, s.awake ∧ s.dev.fetched cid.toNat 0x80 c ∧ slice (c.d 10) 11 9 = 1 ∧ (slice (c.d 10) 3 0 ≠
      0 ∨ bit (c.d 10) 4 = true ∨ slice (c.d 10) 7 5 ≠ 0)) ∧
    (∃ s : State, ∃ cid : BitVec 16, ∃ c : NvmeCmd, s.awake ∧ s.dev.fetched cid.toNat 0x80 c ∧ slice (c.d 10) 11 9 = 2 ∧ (slice (c.d 10) 3 0 ≠
      0 ∨ bit (c.d 10) 4 = true ∨ slice (c.d 10) 7 5 ≠ 0)) :=
  ⟨⟨st [(setNvLive · true), fun d =>
     { d with hub.nvme.cmds := [(({ q := 0, cid := 1, dw := [65549, 43, 3448536892, 17, 40, 0, 3, 0, 0, 0, 1, 0, 75, 29, 0, 3], stage := 0, left := 0, mark := 0 } : NvmeCmd))] }],
     1, { q := 0, cid := 1, dw := [65549, 43, 3448536892, 17, 40, 0, 3, 0, 0, 0, 1, 0, 75, 29, 0, 3], stage := 0, left := 0, mark := 0 },
     by decide +kernel⟩,
   ⟨st [fun d => { d with hostMem := ((d.hostMem.writes 0x1000 [5]).writes 0x1008 [5]).writes 0x1064 [2] }, fun d => modCel d 1 fun x =>
     { x with cart.ucap := 100 }, (setNvLive · true), (·.wr F.CELP_CART_STAT_STATE 4 1), (·.wr F.CELP_CART_STAT_READONLY 0 1), (setRngOk ·
     true), fun d =>
     { d with hub.nvme.cmds := [(({ q := 0, cid := 49151, dw := [3221159949, 58, 0, 0, 22, 0, 4096, 0, 71, 0, 0, 48, 55, 2, 0, 9], stage := 0, left := 0, mark := 0 } : NvmeCmd))] }],
     49151,
     { q := 0, cid := 49151, dw := [3221159949, 58, 0, 0, 22, 0, 4096, 0, 71, 0, 0, 48, 55, 2, 0, 9], stage := 0, left := 0, mark := 0 },
     1, 5, 0, by decide +kernel⟩,
   ⟨st [(setNvLive · true), fun d =>
     { d with hub.nvme.cmds := [(({ q := 0, cid := 1246, dw := [81657869, 63, 0, 0, 3, 0, 1, 2, 52, 2, 1, 12, 0, 0, 52, 34], stage := 0, left := 0, mark := 0 } : NvmeCmd))] }],
     1246, { q := 0, cid := 1246, dw := [81657869, 63, 0, 0, 3, 0, 1, 2, 52, 2, 1, 12, 0, 0, 52, 34], stage := 0, left := 0, mark := 0 },
     by decide +kernel⟩,
   ⟨st [(·.wr F.CELP_CART_STAT_STATE 4 1), fun d => modNsEnt d 1 1 fun x => { x with size := 100, attached := true }, (setNvLive · true), fun d
     => { d with hub.nvme.san := Tab.del d.hub.nvme.san 1 }, (setNsBusy · false 1 1), fun d =>
     { d with hub.nvme.cmds := [(({ q := 0, cid := 1246, dw := [81657869, 18, 0, 0, 3, 0, 1, 2, 52, 2, 1, 12, 0, 0, 52, 34], stage := 0, left := 0, mark := 0 } : NvmeCmd))] }],
     1246, { q := 0, cid := 1246, dw := [81657869, 18, 0, 0, 3, 0, 1, 2, 52, 2, 1, 12, 0, 0, 52, 34], stage := 0, left := 0, mark := 0 },
     { size := 100, attached := true, key := 0, fmt := 0, data := [] }, 1, 1, by decide +kernel⟩,
   ⟨st [(setNvLive · true), fun d =>
     { d with hub.nvme.cmds := [(({ q := 0, cid := 3, dw := [196629, 47, 9, 17, 0, 78, 0, 3, 1196000798, 1, 50, 0, 2, 2, 0, 9], stage := 0, left := 0, mark := 0 } : NvmeCmd))] }],
     3, { q := 0, cid := 3, dw := [196629, 47, 9, 17, 0, 78, 0, 3, 1196000798, 1, 50, 0, 2, 2, 0, 9], stage := 0, left := 0, mark := 0 },
     by decide +kernel⟩,
   ⟨st [(·.wr F.CELP_CART_STAT_STATE 4 1), fun d => modNsEnt d 1 1 fun x => { x with size := 100, attached := true }, fun d =>
     { d with hostMem := (d.hostMem.writes 0x1000 [1]).writes 0x1002 [1] }, (setNvLive · true), fun d =>
     { d with hub.nvme.san := Tab.del d.hub.nvme.san 1 }, fun d =>
     { d with hub.nvme.cmds := [(({ q := 0, cid := 0, dw := [21, 18, 2351828580, 0, 1, 16, 4096, 0, 0, 1, 1, 0, 3, 0, 52, 11], stage := 0, left := 0, mark := 0 } : NvmeCmd))] }],
     0, { q := 0, cid := 0, dw := [21, 18, 2351828580, 0, 1, 16, 4096, 0, 0, 1, 1, 0, 3, 0, 52, 11], stage := 0, left := 0, mark := 0 },
     { size := 100, attached := true, key := 0, fmt := 0, data := [] }, 1, 1, by decide +kernel⟩,
   ⟨st [fun d => modNsEnt d 1 1 fun x => { x with size := 100, attached := true }, (setNvLive · true), fun d =>
     { d with hub.nvme.san := Tab.del d.hub.nvme.san 1 }, (·.wr F.CELP_CART_STAT_STATE 4 1), (setNsBusy · false 1 1), fun d =>
     { d with hub.nvme.cmds := [(({ q := 0, cid := 8193, dw := [536936576, 18, 0, 0, 76, 31, 2, 2, 0, 75, 0, 0, 0, 0, 0, 1], stage := 0, left := 0, mark := 0 } : NvmeCmd))] }],
     8193, { q := 0, cid := 8193, dw := [536936576, 18, 0, 0, 76, 31, 2, 2, 0, 75, 0, 0, 0, 0, 0, 1], stage := 0, left := 0, mark := 0 },
     { size := 100, attached := true, key := 0, fmt := 0, data := [] }, 1, 1, by decide +kernel⟩,
   ⟨st [fun d => modNsEnt d 1 1 fun x => { x with size := 100, attached := true }, (setNvLive · true), fun d =>
     { d with hub.nvme.san := Tab.del d.hub.nvme.san 1 }, (·.wr F.CELP_CART_STAT_STATE 4 1), (setNsBusy · false 1 1), fun d =>
     { d with hub.nvme.cmds := [(({ q := 0, cid := 8193, dw := [536936576, 18, 0, 0, 76, 31, 2, 2, 0, 75, 512, 0, 0, 0, 0, 1], stage := 0, left := 0, mark := 0 } : NvmeCmd))] }],
     8193,
     { q := 0, cid := 8193, dw := [536936576, 18, 0, 0, 76, 31, 2, 2, 0, 75, 512, 0, 0, 0, 0, 1], stage := 0, left := 0, mark := 0 },
     { size := 100, attached := true, key := 0, fmt := 0, data := [] }, 1, 1, by decide +kernel⟩,
   ⟨st [fun d => modNsEnt d 1 1 fun x => { x with size := 100, attached := true }, (setNvLive · true), fun d =>
     { d with hub.nvme.san := Tab.del d.hub.nvme.san 1 }, (·.wr F.CELP_CART_STAT_STATE 4 1), (setNsBusy · false 1 1), (setRngOk · true), fun
     d =>
     { d with hub.nvme.cmds := [(({ q := 0, cid := 8193, dw := [536936576, 18, 0, 0, 76, 31, 2, 2, 0, 75, 1024, 0, 0, 0, 0, 1], stage := 0, left := 0, mark := 0 } : NvmeCmd))] }],
     8193,
     { q := 0, cid := 8193, dw := [536936576, 18, 0, 0, 76, 31, 2, 2, 0, 75, 1024, 0, 0, 0, 0, 1], stage := 0, left := 0, mark := 0 },
     { size := 100, attached := true, key := 0, fmt := 0, data := [] }, 1, 1, by decide +kernel⟩,
   ⟨st [(setNvLive · true), fun d =>
     { d with hub.nvme.cmds := [(({ q := 0, cid := 8193, dw := [536936576, 50, 0, 0, 76, 31, 2, 2, 0, 75, 46, 0, 0, 0, 0, 1], stage := 0, left := 0, mark := 0 } : NvmeCmd))] }],
     8193, { q := 0, cid := 8193, dw := [536936576, 50, 0, 0, 76, 31, 2, 2, 0, 75, 46, 0, 0, 0, 0, 1], stage := 0, left := 0, mark := 0 },
     by decide +kernel⟩,
   ⟨st [(setNvLive · true), fun d =>
     { d with hub.nvme.cmds := [(({ q := 0, cid := 8193, dw := [536936576, 50, 0, 0, 76, 31, 2, 2, 0, 75, 558, 0, 0, 0, 0, 1], stage := 0, left := 0, mark := 0 } : NvmeCmd))] }],
     8193,
     { q := 0, cid := 8193, dw := [536936576, 50, 0, 0, 76, 31, 2, 2, 0, 75, 558, 0, 0, 0, 0, 1], stage := 0, left := 0, mark := 0 },
     by decide +kernel⟩,
   ⟨st [(setNvLive · true), fun d =>
     { d with hub.nvme.cmds := [(({ q := 0, cid := 8193, dw := [536936576, 50, 0, 0, 76, 31, 2, 2, 0, 75, 1070, 0, 0, 0, 0, 1], stage := 0, left := 0, mark := 0 } : NvmeCmd))] }],
     8193,
     { q := 0, cid := 8193, dw := [536936576, 50, 0, 0, 76, 31, 2, 2, 0, 75, 1070, 0, 0, 0, 0, 1], stage := 0, left := 0, mark := 0 },
     by decide +kernel⟩⟩

theorem wit_NamespaceWork_2 :
    (∃ s : State, ∃ cid : BitVec 16, ∃ c : NvmeCmd, ∃ p : Pipe, s.awake ∧ s.dev.fetched cid.toNat 0x84 c ∧ s.dev.hub.nvme.san = [] ∧
      (s.dev.cartState p = 4 ∨ s.dev.cartState p = 5) ∧ (∀ q : Pipe, (∀ t, t < 8 → (s.dev.tq q t).take = 0) ∧ (∀ x ∈ (s.dev.cel q).strms,
      x.2.open_ = false) ∧ ∀ x ∈ (s.dev.cel q).cart.nss, x.2.fmt = 0) ∧ slice (c.d 10) 2 0 = 2) ∧
    (∃ s : State, ∃ cid : BitVec 16, ∃ c : NvmeCmd, ∃ p : Pipe, s.awake ∧ s.dev.fetched cid.toNat 0x84 c ∧ s.dev.hub.nvme.san = [] ∧
      (s.dev.cartState p = 4 ∨ s.dev.cartState p = 5) ∧ (∀ q : Pipe, (∀ t, t < 8 → (s.dev.tq q t).take = 0) ∧ (∀ x ∈ (s.dev.cel q).strms,
      x.2.open_ = false) ∧ ∀ x ∈ (s.dev.cel q).cart.nss, x.2.fmt = 0) ∧ slice (c.d 10) 2 0 = 3) ∧
    (∃ s : State, ∃ cid : BitVec 16, ∃ c : NvmeCmd, ∃ p : Pipe, s.awake ∧ s.dev.fetched cid.toNat 0x84 c ∧ s.dev.hub.nvme.san = [] ∧
      (s.dev.cartState p = 4 ∨ s.dev.cartState p = 5) ∧ (∀ q : Pipe, (∀ t, t < 8 → (s.dev.tq q t).take = 0) ∧ (∀ x ∈ (s.dev.cel q).strms,
      x.2.open_ = false) ∧ ∀ x ∈ (s.dev.cel q).cart.nss, x.2.fmt = 0) ∧ slice (c.d 10) 2 0 = 4 ∧ s.dev.rngOk = true) ∧
    (∃ s : State, ∃ cid : BitVec 16, ∃ c : NvmeCmd, s.awake ∧ s.dev.fetched cid.toNat 0x84 c ∧ slice (c.d 10) 2 0 = 2 ∧ s.dev.hub.nvme.san ≠
      []) ∧
    (∃ s : State, ∃ cid : BitVec 16, ∃ c : NvmeCmd, s.awake ∧ s.dev.fetched cid.toNat 0x84 c ∧ slice (c.d 10) 2 0 = 3 ∧ s.dev.hub.nvme.san ≠
      []) ∧
    (∃ s : State, ∃ cid : BitVec 16, ∃ c : NvmeCmd, s.awake ∧ s.dev.fetched cid.toNat 0x84 c ∧ slice (c.d 10) 2 0 = 4 ∧ s.dev.hub.nvme.san ≠
      []) ∧
    (∃ s : State, ∃ p : Pipe, ∃ act : ℕ, s.awake ∧ Tab.find s.dev.hub.nvme.san p = some act) ∧
    (∃ s : State, ∃ m : Fin 65, ∃ p k : ℕ, s.awake ∧ nsPlace m = (p, k) ∧ ((s.dev.nsEnt p k).fmt = 0 ∨ s.dev.cartState p ≠ 4)) ∧
    (∃ s : State, ∃ m : Fin 65, ∃ p k : ℕ, s.awake ∧ p < 4 ∧ nsPlace m = (p, k) ∧ (s.dev.nsEnt p k).fmt ≠ 0 ∧ s.dev.cartState p = 4) :=
  ⟨⟨st [(setNvLive · true), fun d => { d with hub.nvme.san := [] }, (·.wr F.CELP_CART_STAT_STATE 5 3), fun d =>
     { d with hub.nvme.cmds := [(({ q := 0, cid := 1, dw := [65668, 44, 0, 0, 0, 75, 0, 59, 57, 2, 2, 0, 22, 2, 0, 0], stage := 0, left := 0, mark := 0 } : NvmeCmd))] }],
     1, { q := 0, cid := 1, dw := [65668, 44, 0, 0, 0, 75, 0, 59, 57, 2, 2, 0, 22, 2, 0, 0], stage := 0, left := 0, mark := 0 }, 3,
     by decide +kernel⟩,
   ⟨st [(setNvLive · true), fun d => { d with hub.nvme.san := [] }, (·.wr F.CELP_CART_STAT_STATE 5 3), fun d =>
     { d with hub.nvme.cmds := [(({ q := 0, cid := 1, dw := [65668, 44, 0, 0, 0, 75, 0, 59, 57, 2, 3, 0, 22, 2, 0, 0], stage := 0, left := 0, mark := 0 } : NvmeCmd))] }],
     1, { q := 0, cid := 1, dw := [65668, 44, 0, 0, 0, 75, 0, 59, 57, 2, 3, 0, 22, 2, 0, 0], stage := 0, left := 0, mark := 0 }, 3,
     by decide +kernel⟩,
   ⟨st [(setNvLive · true), fun d => { d with hub.nvme.san := [] }, (·.wr F.CELP_CART_STAT_STATE 5 3), (setRngOk · true), fun d =>
     { d with hub.nvme.cmds := [(({ q := 0, cid := 1, dw := [65668, 44, 0, 0, 0, 75, 0, 59, 57, 2, 4, 0, 22, 2, 0, 0], stage := 0, left := 0, mark := 0 } : NvmeCmd))] }],
     1, { q := 0, cid := 1, dw := [65668, 44, 0, 0, 0, 75, 0, 59, 57, 2, 4, 0, 22, 2, 0, 0], stage := 0, left := 0, mark := 0 }, 3,
     by decide +kernel⟩,
   ⟨st [fun d => { d with hub.nvme.san := [(0, 2)] }, (setNvLive · true), fun d =>
     { d with hub.nvme.cmds := [(({ q := 0, cid := 1246, dw := [81657988, 63, 0, 0, 3, 0, 1, 2, 52, 2, 2, 12, 0, 0, 52, 34], stage := 0, left := 0, mark := 0 } : NvmeCmd))] }],
     1246, { q := 0, cid := 1246, dw := [81657988, 63, 0, 0, 3, 0, 1, 2, 52, 2, 2, 12, 0, 0, 52, 34], stage := 0, left := 0, mark := 0 },
     by decide +kernel⟩,
   ⟨st [fun d => { d with hub.nvme.san := [(0, 2)] }, (setNvLive · true), fun d =>
     { d with hub.nvme.cmds := [(({ q := 0, cid := 1246, dw := [81657988, 63, 0, 0, 3, 0, 1, 2, 52, 2, 3, 12, 0, 0, 52, 34], stage := 0, left := 0, mark := 0 } : NvmeCmd))] }],
     1246, { q := 0, cid := 1246, dw := [81657988, 63, 0, 0, 3, 0, 1, 2, 52, 2, 3, 12, 0, 0, 52, 34], stage := 0, left := 0, mark := 0 },
     by decide +kernel⟩,
   ⟨st [fun d => { d with hub.nvme.san := [(0, 2)] }, (setNvLive · true), fun d =>
     { d with hub.nvme.cmds := [(({ q := 0, cid := 1246, dw := [81657988, 63, 0, 0, 3, 0, 1, 2, 52, 2, 4, 12, 0, 0, 52, 34], stage := 0, left := 0, mark := 0 } : NvmeCmd))] }],
     1246, { q := 0, cid := 1246, dw := [81657988, 63, 0, 0, 3, 0, 1, 2, 52, 2, 4, 12, 0, 0, 52, 34], stage := 0, left := 0, mark := 0 },
     by decide +kernel⟩,
   ⟨st [fun d => { d with hub.nvme.san := Tab.put d.hub.nvme.san 3 0 }], 3, 0, by decide +kernel⟩,
   ⟨st [fun d => modNsEnt d 0 7 fun x => { x with fmt := 0 }], 8, 0, 7, by decide +kernel⟩,
   ⟨st [fun d => modNsEnt d 1 1 fun x => { x with size := 100, fmt := 1 }, (·.wr F.CELP_CART_STAT_STATE 4 1)], 18, 1, 1, by decide +kernel⟩⟩

theorem wit_TenantCommands_1 :
    (∃ s : State, ∃ q : Fin 513, ∃ cid : BitVec 16, ∃ c : NvmeCmd, ∃ p k : ℕ, s.awake ∧ s.dev.nsStatus p k = 0 ∧ tenantLocks (s.dev.cel
      p).locks + 1 ≤ 896 ∧ c.slba + c.nlb ≤ (s.dev.nsEnt p k).size ∧ s.dev.arrives q cid.toNat 0x02 c p k ∧ c.nlb ≤ 512) ∧
    (∃ s : State, ∃ q : Fin 513, ∃ cid : BitVec 16, ∃ c : NvmeCmd, ∃ p k : ℕ, s.awake ∧ s.dev.nsStatus p k = 0 ∧ tenantLocks (s.dev.cel
      p).locks + 1 ≤ 896 ∧ c.slba + c.nlb ≤ (s.dev.nsEnt p k).size ∧ s.dev.arrives q cid.toNat 0x0C c p k) ∧
    (∃ s : State, ∃ q : Fin 513, ∃ cid : BitVec 16, ∃ c : NvmeCmd, ∃ p k : ℕ, s.awake ∧ s.dev.nsStatus p k = 0 ∧ tenantLocks (s.dev.cel
      p).locks + 1 ≤ 896 ∧ c.slba + c.nlb ≤ (s.dev.nsEnt p k).size ∧ s.dev.on F.CELP_CART_STAT_READONLY p = false ∧ s.dev.writeDenied p k
      c.slba c.nlb = false ∧ s.dev.arrives q cid.toNat 0x01 c p k ∧ c.nlb ≤ 512) ∧
    (∃ s : State, ∃ q : Fin 513, ∃ cid : BitVec 16, ∃ c : NvmeCmd, ∃ p k : ℕ, s.awake ∧ s.dev.nsStatus p k = 0 ∧ tenantLocks (s.dev.cel
      p).locks + 1 ≤ 896 ∧ c.slba + c.nlb ≤ (s.dev.nsEnt p k).size ∧ s.dev.on F.CELP_CART_STAT_READONLY p = false ∧ s.dev.writeDenied p k
      c.slba c.nlb = false ∧ s.dev.arrives q cid.toNat 0x08 c p k) ∧
    (∃ s : State, ∃ q : Fin 513, ∃ cid : BitVec 16, ∃ c : NvmeCmd, ∃ p k : ℕ, ∃ rs : List (ℕ × ℕ), s.awake ∧ s.dev.arrives q cid.toNat 0x09 c
      p k ∧ s.dev.nsStatus p k = 0 ∧ rs = dsmRanges s.dev c ∧ tenantLocks (s.dev.cel p).locks + rs.length ≤ 896 ∧ s.dev.on
      F.CELP_CART_STAT_READONLY p = false ∧ (∀ r ∈ rs, r.1 + r.2 ≤ (s.dev.nsEnt p k).size ∧ r.2 ≤ 2 ^ 32 ∧ s.dev.writeDenied p k r.1 r.2 =
      false)) ∧
    (∃ s : State, ∃ q : Fin 513, ∃ cid : BitVec 16, ∃ c : NvmeCmd, ∃ p k : ℕ, s.awake ∧ s.dev.arrives q cid.toNat 0x01 c p k ∧ s.dev.nsStatus
      p k ≠ 0) ∧
    (∃ s : State, ∃ q : Fin 513, ∃ cid : BitVec 16, ∃ c : NvmeCmd, ∃ p k : ℕ, s.awake ∧ s.dev.arrives q cid.toNat 0x02 c p k ∧ s.dev.nsStatus
      p k ≠ 0) ∧
    (∃ s : State, ∃ q : Fin 513, ∃ cid : BitVec 16, ∃ c : NvmeCmd, ∃ p k : ℕ, s.awake ∧ s.dev.arrives q cid.toNat 0x08 c p k ∧ s.dev.nsStatus
      p k ≠ 0) ∧
    (∃ s : State, ∃ q : Fin 513, ∃ cid : BitVec 16, ∃ c : NvmeCmd, ∃ p k : ℕ, s.awake ∧ s.dev.arrives q cid.toNat 0x09 c p k ∧ s.dev.nsStatus
      p k ≠ 0) ∧
    (∃ s : State, ∃ q : Fin 513, ∃ cid : BitVec 16, ∃ c : NvmeCmd, ∃ p k : ℕ, s.awake ∧ s.dev.arrives q cid.toNat 0x0C c p k ∧ s.dev.nsStatus
      p k ≠ 0) ∧
    (∃ s : State, ∃ q : Fin 513, ∃ cid : BitVec 16, ∃ c : NvmeCmd, ∃ p k : ℕ, s.awake ∧ s.dev.arrives q cid.toNat 0x01 c p k ∧ s.dev.nsStatus
      p k = 0 ∧ 896 < tenantLocks (s.dev.cel p).locks + (oneRange s.dev c).length) ∧
    (∃ s : State, ∃ q : Fin 513, ∃ cid : BitVec 16, ∃ c : NvmeCmd, ∃ p k : ℕ, s.awake ∧ s.dev.arrives q cid.toNat 0x02 c p k ∧ s.dev.nsStatus
      p k = 0 ∧ 896 < tenantLocks (s.dev.cel p).locks + (oneRange s.dev c).length) :=
  ⟨⟨st [(·.wr F.CELP_CART_STAT_STATE 4 1), fun d => modNsEnt d 1 1 fun x => { x with size := 100, attached := true, fmt := 0 }, fun d => modCel
     d 1 fun x => { x with locks := [], strms := [] }, fun d => pt d 1 fun x => { x with takes := [] }, (·.wr F.CELP_CART_CFG_TAKENS 9 1),
     (setNvLive · true), fun d => modCel d 1 fun x => { x with reseat := false }, fun d =>
     { d with hub.nvme.cmds := [(({ q := 5, cid := 1, dw := [65538, 18, 22, 79, 3, 0, 79, 1, 3, 0, 8, 0, 0, 1, 0, 3], stage := 0, left := 0, mark := 0 } : NvmeCmd))] }],
     5, 1, { q := 5, cid := 1, dw := [65538, 18, 22, 79, 3, 0, 79, 1, 3, 0, 8, 0, 0, 1, 0, 3], stage := 0, left := 0, mark := 0 }, 1, 1,
     by decide +kernel⟩,
   ⟨st [(·.wr F.CELP_CART_STAT_STATE 4 1), fun d => modNsEnt d 1 1 fun x => { x with size := 100, attached := true, fmt := 0 }, fun d => modCel
     d 1 fun x => { x with locks := [], strms := [] }, fun d => pt d 1 fun x => { x with takes := [] }, (·.wr F.CELP_CART_CFG_TAKENS 9 1),
     (setNvLive · true), fun d => modCel d 1 fun x => { x with reseat := false }, fun d =>
     { d with hub.nvme.cmds := [(({ q := 5, cid := 1, dw := [65548, 18, 22, 79, 3, 0, 79, 1, 3, 0, 8, 0, 0, 1, 0, 3], stage := 0, left := 0, mark := 0 } : NvmeCmd))] }],
     5, 1, { q := 5, cid := 1, dw := [65548, 18, 22, 79, 3, 0, 79, 1, 3, 0, 8, 0, 0, 1, 0, 3], stage := 0, left := 0, mark := 0 }, 1, 1,
     by decide +kernel⟩,
   ⟨st [(·.wr F.CELP_CART_STAT_STATE 4 1), fun d => modNsEnt d 1 1 fun x => { x with size := 100, attached := true, fmt := 0 }, fun d => modCel
     d 1 fun x => { x with locks := [], strms := [] }, fun d => pt d 1 fun x => { x with takes := [] }, (·.wr F.CELP_CART_CFG_TAKENS 9 1),
     (setNvLive · true), fun d => modCel d 1 fun x => { x with reseat := false }, fun d =>
     { d with hub.nvme.cmds := [(({ q := 5, cid := 1, dw := [65537, 18, 22, 79, 3, 0, 79, 1, 3, 0, 8, 0, 0, 1, 0, 3], stage := 0, left := 0, mark := 0 } : NvmeCmd))] }],
     5, 1, { q := 5, cid := 1, dw := [65537, 18, 22, 79, 3, 0, 79, 1, 3, 0, 8, 0, 0, 1, 0, 3], stage := 0, left := 0, mark := 0 }, 1, 1,
     by decide +kernel⟩,
   ⟨st [(·.wr F.CELP_CART_STAT_STATE 4 1), fun d => modNsEnt d 1 1 fun x => { x with size := 100, attached := true, fmt := 0 }, fun d => modCel
     d 1 fun x => { x with locks := [], strms := [] }, fun d => pt d 1 fun x => { x with takes := [] }, (·.wr F.CELP_CART_CFG_TAKENS 9 1),
     (setNvLive · true), fun d => modCel d 1 fun x => { x with reseat := false }, fun d =>
     { d with hub.nvme.cmds := [(({ q := 5, cid := 1, dw := [65544, 18, 22, 79, 3, 0, 79, 1, 3, 0, 8, 0, 0, 1, 0, 3], stage := 0, left := 0, mark := 0 } : NvmeCmd))] }],
     5, 1, { q := 5, cid := 1, dw := [65544, 18, 22, 79, 3, 0, 79, 1, 3, 0, 8, 0, 0, 1, 0, 3], stage := 0, left := 0, mark := 0 }, 1, 1,
     by decide +kernel⟩,
   ⟨st [fun d => { d with hostMem := (d.hostMem.writes 0x1004 [1]).writes 0x1008 [8] }, (·.wr F.CELP_CART_STAT_STATE 4 1), fun d => modNsEnt d
     1 1 fun x => { x with size := 100, attached := true, fmt := 0 }, fun d => modCel d 1 fun x => { x with locks := [], strms := [] }, fun
     d => pt d 1 fun x => { x with takes := [] }, (·.wr F.CELP_CART_CFG_TAKENS 9 1), (setNvLive · true), fun d => modCel d 1 fun x =>
     { x with reseat := false }, (·.wr F.CELP_CART_STAT_READONLY 0 1), fun d =>
     { d with hub.nvme.cmds := [(({ q := 5, cid := 3, dw := [196617, 18, 0, 0, 3, 0, 4096, 0, 1, 2, 0, 4, 45, 78, 0, 0], stage := 0, left := 0, mark := 0 } : NvmeCmd))] }],
     5, 3, { q := 5, cid := 3, dw := [196617, 18, 0, 0, 3, 0, 4096, 0, 1, 2, 0, 4, 45, 78, 0, 0], stage := 0, left := 0, mark := 0 }, 1,
     1, [(8, 1)], by decide +kernel⟩,
   ⟨st [(setNvLive · true), fun d => modCel d 3 fun x => { x with reseat := false }, fun d =>
     { d with hub.nvme.cmds := [(({ q := 66, cid := 0, dw := [1, 57, 0, 0, 0, 0, 0, 0, 0, 0, 0, 1, 47, 0, 0, 42], stage := 0, left := 0, mark := 0 } : NvmeCmd))] }],
     66, 0, { q := 66, cid := 0, dw := [1, 57, 0, 0, 0, 0, 0, 0, 0, 0, 0, 1, 47, 0, 0, 42], stage := 0, left := 0, mark := 0 }, 3, 8,
     by decide +kernel⟩,
   ⟨st [(setNvLive · true), fun d => modCel d 3 fun x => { x with reseat := false }, fun d =>
     { d with hub.nvme.cmds := [(({ q := 66, cid := 0, dw := [2, 57, 0, 0, 0, 0, 0, 0, 0, 0, 0, 1, 47, 0, 0, 42], stage := 0, left := 0, mark := 0 } : NvmeCmd))] }],
     66, 0, { q := 66, cid := 0, dw := [2, 57, 0, 0, 0, 0, 0, 0, 0, 0, 0, 1, 47, 0, 0, 42], stage := 0, left := 0, mark := 0 }, 3, 8,
     by decide +kernel⟩,
   ⟨st [(setNvLive · true), fun d => modCel d 3 fun x => { x with reseat := false }, fun d =>
     { d with hub.nvme.cmds := [(({ q := 66, cid := 0, dw := [8, 57, 0, 0, 0, 0, 0, 0, 0, 0, 0, 1, 47, 0, 0, 42], stage := 0, left := 0, mark := 0 } : NvmeCmd))] }],
     66, 0, { q := 66, cid := 0, dw := [8, 57, 0, 0, 0, 0, 0, 0, 0, 0, 0, 1, 47, 0, 0, 42], stage := 0, left := 0, mark := 0 }, 3, 8,
     by decide +kernel⟩,
   ⟨st [(setNvLive · true), fun d => modCel d 3 fun x => { x with reseat := false }, fun d =>
     { d with hub.nvme.cmds := [(({ q := 66, cid := 0, dw := [9, 57, 0, 0, 0, 0, 0, 0, 0, 0, 0, 1, 47, 0, 0, 42], stage := 0, left := 0, mark := 0 } : NvmeCmd))] }],
     66, 0, { q := 66, cid := 0, dw := [9, 57, 0, 0, 0, 0, 0, 0, 0, 0, 0, 1, 47, 0, 0, 42], stage := 0, left := 0, mark := 0 }, 3, 8,
     by decide +kernel⟩,
   ⟨st [(setNvLive · true), fun d => modCel d 3 fun x => { x with reseat := false }, fun d =>
     { d with hub.nvme.cmds := [(({ q := 66, cid := 0, dw := [12, 57, 0, 0, 0, 0, 0, 0, 0, 0, 0, 1, 47, 0, 0, 42], stage := 0, left := 0, mark := 0 } : NvmeCmd))] }],
     66, 0, { q := 66, cid := 0, dw := [12, 57, 0, 0, 0, 0, 0, 0, 0, 0, 0, 1, 47, 0, 0, 42], stage := 0, left := 0, mark := 0 }, 3, 8,
     by decide +kernel⟩,
   ⟨st [(·.wr F.CELP_CART_STAT_STATE 4 1), fun d => modNsEnt d 1 1 fun x => { x with size := 100, attached := true, fmt := 0 }, fun d => modCel
     d 1 fun x => { x with locks := [], strms := [] }, fun d => pt d 1 fun x => { x with takes := [] }, (·.wr F.CELP_CART_CFG_TAKENS 9 1),
     fun d => modCel d 1 fun x => { x with locks := List.replicate 896 ⟨2, 0, 1, false, 9, 9⟩ }, (setNvLive · true), fun d => modCel d 1 fun
     x => { x with reseat := false }, fun d =>
     { d with hub.nvme.cmds := [(({ q := 5, cid := 1, dw := [65537, 18, 22, 79, 3, 0, 79, 1, 3, 0, 8, 0, 0, 1, 0, 3], stage := 0, left := 0, mark := 0 } : NvmeCmd))] }],
     5, 1, { q := 5, cid := 1, dw := [65537, 18, 22, 79, 3, 0, 79, 1, 3, 0, 8, 0, 0, 1, 0, 3], stage := 0, left := 0, mark := 0 }, 1, 1,
     by decide +kernel⟩,
   ⟨st [(·.wr F.CELP_CART_STAT_STATE 4 1), fun d => modNsEnt d 1 1 fun x => { x with size := 100, attached := true, fmt := 0 }, fun d => modCel
     d 1 fun x => { x with locks := [], strms := [] }, fun d => pt d 1 fun x => { x with takes := [] }, (·.wr F.CELP_CART_CFG_TAKENS 9 1),
     fun d => modCel d 1 fun x => { x with locks := List.replicate 896 ⟨2, 0, 1, false, 9, 9⟩ }, (setNvLive · true), fun d => modCel d 1 fun
     x => { x with reseat := false }, fun d =>
     { d with hub.nvme.cmds := [(({ q := 5, cid := 1, dw := [65538, 18, 22, 79, 3, 0, 79, 1, 3, 0, 8, 0, 0, 1, 0, 3], stage := 0, left := 0, mark := 0 } : NvmeCmd))] }],
     5, 1, { q := 5, cid := 1, dw := [65538, 18, 22, 79, 3, 0, 79, 1, 3, 0, 8, 0, 0, 1, 0, 3], stage := 0, left := 0, mark := 0 }, 1, 1,
     by decide +kernel⟩⟩

theorem wit_TenantCommands_2 :
    (∃ s : State, ∃ q : Fin 513, ∃ cid : BitVec 16, ∃ c : NvmeCmd, ∃ p k : ℕ, s.awake ∧ s.dev.arrives q cid.toNat 0x08 c p k ∧ s.dev.nsStatus
      p k = 0 ∧ 896 < tenantLocks (s.dev.cel p).locks + (oneRange s.dev c).length) ∧
    (∃ s : State, ∃ q : Fin 513, ∃ cid : BitVec 16, ∃ c : NvmeCmd, ∃ p k : ℕ, s.awake ∧ s.dev.arrives q cid.toNat 0x09 c p k ∧ s.dev.nsStatus
      p k = 0 ∧ 896 < tenantLocks (s.dev.cel p).locks + (dsmRanges s.dev c).length) ∧
    (∃ s : State, ∃ q : Fin 513, ∃ cid : BitVec 16, ∃ c : NvmeCmd, ∃ p k : ℕ, s.awake ∧ s.dev.arrives q cid.toNat 0x0C c p k ∧ s.dev.nsStatus
      p k = 0 ∧ 896 < tenantLocks (s.dev.cel p).locks + (oneRange s.dev c).length) ∧
    (∃ s : State, ∃ q : Fin 513, ∃ cid : BitVec 16, ∃ c : NvmeCmd, ∃ p k : ℕ, s.awake ∧ s.dev.arrives q cid.toNat 0x01 c p k ∧ s.dev.nsStatus
      p k = 0 ∧ tenantLocks (s.dev.cel p).locks + (oneRange s.dev c).length ≤ 896 ∧ (∀ r ∈ oneRange s.dev c, r.2 ≤ 512) ∧ (∃ r ∈ oneRange
      s.dev c, (s.dev.nsEnt p k).size < r.1 + r.2)) ∧
    (∃ s : State, ∃ q : Fin 513, ∃ cid : BitVec 16, ∃ c : NvmeCmd, ∃ p k : ℕ, s.awake ∧ s.dev.arrives q cid.toNat 0x02 c p k ∧ s.dev.nsStatus
      p k = 0 ∧ tenantLocks (s.dev.cel p).locks + (oneRange s.dev c).length ≤ 896 ∧ (∀ r ∈ oneRange s.dev c, r.2 ≤ 512) ∧ (∃ r ∈ oneRange
      s.dev c, (s.dev.nsEnt p k).size < r.1 + r.2)) ∧
    (∃ s : State, ∃ q : Fin 513, ∃ cid : BitVec 16, ∃ c : NvmeCmd, ∃ p k : ℕ, s.awake ∧ s.dev.arrives q cid.toNat 0x08 c p k ∧ s.dev.nsStatus
      p k = 0 ∧ tenantLocks (s.dev.cel p).locks + (oneRange s.dev c).length ≤ 896 ∧ (∀ r ∈ oneRange s.dev c, r.2 ≤ 65536) ∧ (∃ r ∈
      oneRange s.dev c, (s.dev.nsEnt p k).size < r.1 + r.2)) ∧
    (∃ s : State, ∃ q : Fin 513, ∃ cid : BitVec 16, ∃ c : NvmeCmd, ∃ p k : ℕ, s.awake ∧ s.dev.arrives q cid.toNat 0x09 c p k ∧ s.dev.nsStatus
      p k = 0 ∧ tenantLocks (s.dev.cel p).locks + (dsmRanges s.dev c).length ≤ 896 ∧ (∀ r ∈ dsmRanges s.dev c, r.2 ≤ (2 ^ 32)) ∧ (∃ r ∈
      dsmRanges s.dev c, (s.dev.nsEnt p k).size < r.1 + r.2)) ∧
    (∃ s : State, ∃ q : Fin 513, ∃ cid : BitVec 16, ∃ c : NvmeCmd, ∃ p k : ℕ, s.awake ∧ s.dev.arrives q cid.toNat 0x0C c p k ∧ s.dev.nsStatus
      p k = 0 ∧ tenantLocks (s.dev.cel p).locks + (oneRange s.dev c).length ≤ 896 ∧ (∀ r ∈ oneRange s.dev c, r.2 ≤ 65536) ∧ (∃ r ∈
      oneRange s.dev c, (s.dev.nsEnt p k).size < r.1 + r.2)) ∧
    (∃ s : State, ∃ q : Fin 513, ∃ cid : BitVec 16, ∃ c : NvmeCmd, ∃ p k : ℕ, s.awake ∧ s.dev.arrives q cid.toNat 0x01 c p k ∧ s.dev.nsStatus
      p k = 0 ∧ tenantLocks (s.dev.cel p).locks + (oneRange s.dev c).length ≤ 896 ∧ (∀ r ∈ oneRange s.dev c, r.2 ≤ 512 ∧ r.1 + r.2 ≤
      (s.dev.nsEnt p k).size) ∧ true = true ∧ (∃ r ∈ oneRange s.dev c, s.dev.writeDenied p k r.1 r.2 = true)) ∧
    (∃ s : State, ∃ q : Fin 513, ∃ cid : BitVec 16, ∃ c : NvmeCmd, ∃ p k : ℕ, s.awake ∧ s.dev.arrives q cid.toNat 0x08 c p k ∧ s.dev.nsStatus
      p k = 0 ∧ tenantLocks (s.dev.cel p).locks + (oneRange s.dev c).length ≤ 896 ∧ (∀ r ∈ oneRange s.dev c, r.2 ≤ 65536 ∧ r.1 + r.2 ≤
      (s.dev.nsEnt p k).size) ∧ true = true ∧ (∃ r ∈ oneRange s.dev c, s.dev.writeDenied p k r.1 r.2 = true)) ∧
    (∃ s : State, ∃ q : Fin 513, ∃ cid : BitVec 16, ∃ c : NvmeCmd, ∃ p k : ℕ, s.awake ∧ s.dev.arrives q cid.toNat 0x09 c p k ∧ s.dev.nsStatus
      p k = 0 ∧ tenantLocks (s.dev.cel p).locks + (dsmRanges s.dev c).length ≤ 896 ∧ (∀ r ∈ dsmRanges s.dev c, r.2 ≤ (2 ^ 32) ∧ r.1 + r.2
      ≤ (s.dev.nsEnt p k).size) ∧ true = true ∧ (∃ r ∈ dsmRanges s.dev c, s.dev.writeDenied p k r.1 r.2 = true)) ∧
    (∃ s : State, ∃ q : Fin 513, ∃ cid : BitVec 16, s.awake ∧ (s.dev.nvLive = false ∨ ∀ c ∈ s.dev.hub.nvme.cmds, c.q = q.val → c.cid =
      cid.toNat → c.stage ≠ 0)) :=
  ⟨⟨st [(·.wr F.CELP_CART_STAT_STATE 4 1), fun d => modNsEnt d 1 1 fun x => { x with size := 100, attached := true, fmt := 0 }, fun d => modCel
     d 1 fun x => { x with locks := [], strms := [] }, fun d => pt d 1 fun x => { x with takes := [] }, (·.wr F.CELP_CART_CFG_TAKENS 9 1),
     fun d => modCel d 1 fun x => { x with locks := List.replicate 896 ⟨2, 0, 1, false, 9, 9⟩ }, (setNvLive · true), fun d => modCel d 1 fun
     x => { x with reseat := false }, fun d =>
     { d with hub.nvme.cmds := [(({ q := 5, cid := 1, dw := [65544, 18, 22, 79, 3, 0, 79, 1, 3, 0, 8, 0, 0, 1, 0, 3], stage := 0, left := 0, mark := 0 } : NvmeCmd))] }],
     5, 1, { q := 5, cid := 1, dw := [65544, 18, 22, 79, 3, 0, 79, 1, 3, 0, 8, 0, 0, 1, 0, 3], stage := 0, left := 0, mark := 0 }, 1, 1,
     by decide +kernel⟩,
   ⟨st [fun d => { d with hostMem := (d.hostMem.writes 0x1004 [1]).writes 0x1008 [8] }, (·.wr F.CELP_CART_STAT_STATE 4 1), fun d => modNsEnt d
     1 1 fun x => { x with size := 100, attached := true, fmt := 0 }, fun d => modCel d 1 fun x => { x with locks := [], strms := [] }, fun
     d => pt d 1 fun x => { x with takes := [] }, (·.wr F.CELP_CART_CFG_TAKENS 9 1), fun d => modCel d 1 fun x =>
     { x with locks := List.replicate 896 ⟨2, 0, 1, false, 9, 9⟩ }, (setNvLive · true), fun d => modCel d 1 fun x =>
     { x with reseat := false }, fun d =>
     { d with hub.nvme.cmds := [(({ q := 5, cid := 3, dw := [196617, 18, 0, 0, 3, 0, 4096, 0, 1, 2, 0, 4, 45, 78, 0, 0], stage := 0, left := 0, mark := 0 } : NvmeCmd))] }],
     5, 3, { q := 5, cid := 3, dw := [196617, 18, 0, 0, 3, 0, 4096, 0, 1, 2, 0, 4, 45, 78, 0, 0], stage := 0, left := 0, mark := 0 }, 1,
     1, by decide +kernel⟩,
   ⟨st [(·.wr F.CELP_CART_STAT_STATE 4 1), fun d => modNsEnt d 1 1 fun x => { x with size := 100, attached := true, fmt := 0 }, fun d => modCel
     d 1 fun x => { x with locks := [], strms := [] }, fun d => pt d 1 fun x => { x with takes := [] }, (·.wr F.CELP_CART_CFG_TAKENS 9 1),
     fun d => modCel d 1 fun x => { x with locks := List.replicate 896 ⟨2, 0, 1, false, 9, 9⟩ }, (setNvLive · true), fun d => modCel d 1 fun
     x => { x with reseat := false }, fun d =>
     { d with hub.nvme.cmds := [(({ q := 5, cid := 1, dw := [65548, 18, 22, 79, 3, 0, 79, 1, 3, 0, 8, 0, 0, 1, 0, 3], stage := 0, left := 0, mark := 0 } : NvmeCmd))] }],
     5, 1, { q := 5, cid := 1, dw := [65548, 18, 22, 79, 3, 0, 79, 1, 3, 0, 8, 0, 0, 1, 0, 3], stage := 0, left := 0, mark := 0 }, 1, 1,
     by decide +kernel⟩,
   ⟨st [(·.wr F.CELP_CART_STAT_STATE 4 1), fun d => modNsEnt d 1 1 fun x => { x with size := 100, attached := true, fmt := 0 }, fun d => modCel
     d 1 fun x => { x with locks := [], strms := [] }, fun d => pt d 1 fun x => { x with takes := [] }, (·.wr F.CELP_CART_CFG_TAKENS 9 1),
     (setNvLive · true), fun d => modCel d 1 fun x => { x with reseat := false }, fun d =>
     { d with hub.nvme.cmds := [(({ q := 5, cid := 1, dw := [65537, 18, 22, 79, 3, 0, 79, 1, 3, 0, 200, 0, 0, 1, 0, 3], stage := 0, left := 0, mark := 0 } : NvmeCmd))] }],
     5, 1, { q := 5, cid := 1, dw := [65537, 18, 22, 79, 3, 0, 79, 1, 3, 0, 200, 0, 0, 1, 0, 3], stage := 0, left := 0, mark := 0 }, 1, 1,
     by decide +kernel⟩,
   ⟨st [(·.wr F.CELP_CART_STAT_STATE 4 1), fun d => modNsEnt d 1 1 fun x => { x with size := 100, attached := true, fmt := 0 }, fun d => modCel
     d 1 fun x => { x with locks := [], strms := [] }, fun d => pt d 1 fun x => { x with takes := [] }, (·.wr F.CELP_CART_CFG_TAKENS 9 1),
     (setNvLive · true), fun d => modCel d 1 fun x => { x with reseat := false }, fun d =>
     { d with hub.nvme.cmds := [(({ q := 5, cid := 1, dw := [65538, 18, 22, 79, 3, 0, 79, 1, 3, 0, 200, 0, 0, 1, 0, 3], stage := 0, left := 0, mark := 0 } : NvmeCmd))] }],
     5, 1, { q := 5, cid := 1, dw := [65538, 18, 22, 79, 3, 0, 79, 1, 3, 0, 200, 0, 0, 1, 0, 3], stage := 0, left := 0, mark := 0 }, 1, 1,
     by decide +kernel⟩,
   ⟨st [(·.wr F.CELP_CART_STAT_STATE 4 1), fun d => modNsEnt d 1 1 fun x => { x with size := 100, attached := true, fmt := 0 }, fun d => modCel
     d 1 fun x => { x with locks := [], strms := [] }, fun d => pt d 1 fun x => { x with takes := [] }, (·.wr F.CELP_CART_CFG_TAKENS 9 1),
     (setNvLive · true), fun d => modCel d 1 fun x => { x with reseat := false }, fun d =>
     { d with hub.nvme.cmds := [(({ q := 5, cid := 1, dw := [65544, 18, 22, 79, 3, 0, 79, 1, 3, 0, 200, 0, 0, 1, 0, 3], stage := 0, left := 0, mark := 0 } : NvmeCmd))] }],
     5, 1, { q := 5, cid := 1, dw := [65544, 18, 22, 79, 3, 0, 79, 1, 3, 0, 200, 0, 0, 1, 0, 3], stage := 0, left := 0, mark := 0 }, 1, 1,
     by decide +kernel⟩,
   ⟨st [fun d => { d with hostMem := (d.hostMem.writes 0x1004 [1]).writes 0x1008 [200] }, (·.wr F.CELP_CART_STAT_STATE 4 1), fun d => modNsEnt
     d 1 1 fun x => { x with size := 100, attached := true, fmt := 0 }, fun d => modCel d 1 fun x => { x with locks := [], strms := [] },
     fun d => pt d 1 fun x => { x with takes := [] }, (·.wr F.CELP_CART_CFG_TAKENS 9 1), (setNvLive · true), fun d => modCel d 1 fun x =>
     { x with reseat := false }, fun d =>
     { d with hub.nvme.cmds := [(({ q := 5, cid := 3, dw := [196617, 18, 0, 0, 3, 0, 4096, 0, 1, 2, 0, 4, 45, 78, 0, 0], stage := 0, left := 0, mark := 0 } : NvmeCmd))] }],
     5, 3, { q := 5, cid := 3, dw := [196617, 18, 0, 0, 3, 0, 4096, 0, 1, 2, 0, 4, 45, 78, 0, 0], stage := 0, left := 0, mark := 0 }, 1,
     1, by decide +kernel⟩,
   ⟨st [(·.wr F.CELP_CART_STAT_STATE 4 1), fun d => modNsEnt d 1 1 fun x => { x with size := 100, attached := true, fmt := 0 }, fun d => modCel
     d 1 fun x => { x with locks := [], strms := [] }, fun d => pt d 1 fun x => { x with takes := [] }, (·.wr F.CELP_CART_CFG_TAKENS 9 1),
     (setNvLive · true), fun d => modCel d 1 fun x => { x with reseat := false }, fun d =>
     { d with hub.nvme.cmds := [(({ q := 5, cid := 1, dw := [65548, 18, 22, 79, 3, 0, 79, 1, 3, 0, 200, 0, 0, 1, 0, 3], stage := 0, left := 0, mark := 0 } : NvmeCmd))] }],
     5, 1, { q := 5, cid := 1, dw := [65548, 18, 22, 79, 3, 0, 79, 1, 3, 0, 200, 0, 0, 1, 0, 3], stage := 0, left := 0, mark := 0 }, 1, 1,
     by decide +kernel⟩,
   ⟨st [(·.wr F.CELP_CART_STAT_STATE 4 1), fun d => modNsEnt d 1 1 fun x => { x with size := 100, attached := true, fmt := 0 }, fun d => modCel
     d 1 fun x => { x with locks := [], strms := [] }, fun d => pt d 1 fun x => { x with takes := [] }, (·.wr F.CELP_CART_CFG_TAKENS 9 1),
     fun d => modStrm d 1 0 fun x => { x with open_ := true, ns := 1, slba := 0, nlb := 50 }, (setNvLive · true), fun d => modCel d 1 fun x
     => { x with reseat := false }, fun d =>
     { d with hub.nvme.cmds := [(({ q := 5, cid := 1, dw := [65537, 18, 22, 79, 3, 0, 79, 1, 3, 0, 8, 0, 0, 1, 0, 3], stage := 0, left := 0, mark := 0 } : NvmeCmd))] }],
     5, 1, { q := 5, cid := 1, dw := [65537, 18, 22, 79, 3, 0, 79, 1, 3, 0, 8, 0, 0, 1, 0, 3], stage := 0, left := 0, mark := 0 }, 1, 1,
     by decide +kernel⟩,
   ⟨st [(·.wr F.CELP_CART_STAT_STATE 4 1), fun d => modNsEnt d 1 1 fun x => { x with size := 100, attached := true, fmt := 0 }, fun d => modCel
     d 1 fun x => { x with locks := [], strms := [] }, fun d => pt d 1 fun x => { x with takes := [] }, (·.wr F.CELP_CART_CFG_TAKENS 9 1),
     fun d => modStrm d 1 0 fun x => { x with open_ := true, ns := 1, slba := 0, nlb := 50 }, (setNvLive · true), fun d => modCel d 1 fun x
     => { x with reseat := false }, fun d =>
     { d with hub.nvme.cmds := [(({ q := 5, cid := 1, dw := [65544, 18, 22, 79, 3, 0, 79, 1, 3, 0, 8, 0, 0, 1, 0, 3], stage := 0, left := 0, mark := 0 } : NvmeCmd))] }],
     5, 1, { q := 5, cid := 1, dw := [65544, 18, 22, 79, 3, 0, 79, 1, 3, 0, 8, 0, 0, 1, 0, 3], stage := 0, left := 0, mark := 0 }, 1, 1,
     by decide +kernel⟩,
   ⟨st [fun d => { d with hostMem := (d.hostMem.writes 0x1004 [1]).writes 0x1008 [8] }, (·.wr F.CELP_CART_STAT_STATE 4 1), fun d => modNsEnt d
     1 1 fun x => { x with size := 100, attached := true, fmt := 0 }, fun d => modCel d 1 fun x => { x with locks := [], strms := [] }, fun
     d => pt d 1 fun x => { x with takes := [] }, (·.wr F.CELP_CART_CFG_TAKENS 9 1), fun d => modStrm d 1 0 fun x =>
     { x with open_ := true, ns := 1, slba := 0, nlb := 50 }, (setNvLive · true), fun d => modCel d 1 fun x => { x with reseat := false },
     fun d =>
     { d with hub.nvme.cmds := [(({ q := 5, cid := 3, dw := [196617, 18, 0, 0, 3, 0, 4096, 0, 1, 2, 0, 4, 45, 78, 0, 0], stage := 0, left := 0, mark := 0 } : NvmeCmd))] }],
     5, 3, { q := 5, cid := 3, dw := [196617, 18, 0, 0, 3, 0, 4096, 0, 1, 2, 0, 4, 45, 78, 0, 0], stage := 0, left := 0, mark := 0 }, 1,
     1, by decide +kernel⟩,
   ⟨State.reset, 0, 65407, by decide +kernel⟩⟩

theorem wit_TenantCommands_3 :
    (∃ s : State, ∃ q : Fin 513, ∃ cid : BitVec 16, s.awake ∧ (∀ c ∈ s.dev.hub.nvme.cmds, c.q = q.val → c.cid = cid.toNat → c.stage ≠ 1)) ∧
    (∃ s : State, ∃ q : Fin 513, ∃ cid : BitVec 16, ∃ c : NvmeCmd, ∃ p k : ℕ, s.awake ∧ (s.dev.hub.nvme.cmds.find? fun c => c.q == q.val &&
      c.cid == cid.toNat && c.stage == 1) = some c ∧ nsPlace (c.d 1) = (p, k) ∧ p < 4 ∧ (s.dev.nvLive = false ∨ s.dev.lockFree p q
      cid.toNat = false ∨ s.dev.on F.CELP_RB_STAT_HOLD4 p = true ∨ s.dev.cartState p ≠ 4)) ∧
    (∃ s : State, ∃ q : Fin 513, ∃ cid : BitVec 16, ∃ c : NvmeCmd, ∃ p k : ℕ, s.awake ∧ (s.dev.hub.nvme.cmds.find? fun c => c.q == q.val &&
      c.cid == cid.toNat && c.stage == 1) = some c ∧ nsPlace (c.d 1) = (p, k) ∧ p < 4 ∧ s.dev.nvLive = true ∧ s.dev.lockFree p q cid.toNat
      = true ∧ s.dev.on F.CELP_RB_STAT_HOLD4 p = false ∧ s.dev.cartState p = 4 ∧ s.dev.psOperational = true ∧ (s.dev.cel p).rebuild = [] ∧
      (∀ x ∈ (s.dev.cel p).pieces, x.owner ≠ some (q.val, cid.toNat)) ∧ c.opc = 0x02 ∧ s.dev.hostOk = true) ∧
    (∃ s : State, ∃ q : Fin 513, ∃ cid : BitVec 16, ∃ c : NvmeCmd, ∃ p k : ℕ, s.awake ∧ (s.dev.hub.nvme.cmds.find? fun c => c.q == q.val &&
      c.cid == cid.toNat && c.stage == 1) = some c ∧ nsPlace (c.d 1) = (p, k) ∧ p < 4 ∧ s.dev.nvLive = true ∧ s.dev.lockFree p q cid.toNat
      = true ∧ s.dev.on F.CELP_RB_STAT_HOLD4 p = false ∧ s.dev.cartState p = 4 ∧ s.dev.psOperational = true ∧ (s.dev.cel p).rebuild = [] ∧
      (∀ x ∈ (s.dev.cel p).pieces, x.owner ≠ some (q.val, cid.toNat)) ∧ c.opc = 0x0C) ∧
    (∃ s : State, ∃ q : Fin 513, ∃ cid : BitVec 16, ∃ c : NvmeCmd, ∃ p k : ℕ, ∃ add : List (ℕ × ℕ × ℕ × Option (ℕ × ℕ) × Bool), s.awake ∧
      (s.dev.hub.nvme.cmds.find? fun c => c.q == q.val && c.cid == cid.toNat && c.stage == 1) = some c ∧ nsPlace (c.d 1) = (p, k) ∧ p < 4
      ∧ s.dev.nvLive = true ∧ s.dev.lockFree p q cid.toNat = true ∧ s.dev.on F.CELP_RB_STAT_HOLD4 p = false ∧ s.dev.cartState p = 4 ∧
      s.dev.psOperational = true ∧ (s.dev.cel p).rebuild = [] ∧ (∀ x ∈ (s.dev.cel p).pieces, x.owner ≠ some (q.val, cid.toNat)) ∧ add =
      (((s.dev.cel p).locks.filter fun x => x.q == q.val && x.cid == cid.toNat).flatMap fun x => (cutPieces x.lba x.n).map fun y => (k,
      y.1, y.2, some (q.val, cid.toNat), false)) ∧ c.opc = 0x01) ∧
    (∃ s : State, ∃ q : Fin 513, ∃ cid : BitVec 16, ∃ c : NvmeCmd, ∃ p k : ℕ, s.awake ∧ (s.dev.hub.nvme.cmds.find? fun c => c.q == q.val &&
      c.cid == cid.toNat && c.stage == 1) = some c ∧ nsPlace (c.d 1) = (p, k) ∧ p < 4 ∧ s.dev.nvLive = true ∧ s.dev.lockFree p q cid.toNat
      = true ∧ s.dev.on F.CELP_RB_STAT_HOLD4 p = false ∧ s.dev.cartState p = 4 ∧ s.dev.psOperational = true ∧ (s.dev.cel p).rebuild = [] ∧
      (∀ x ∈ (s.dev.cel p).pieces, x.owner ≠ some (q.val, cid.toNat)) ∧ (c.opc = 0x08 ∨ c.opc = 0x09)) ∧
    (∃ s : State, ∃ p : Pipe, s.awake ∧ (s.dev.cartState p ≠ 4 ∨ (s.dev.cel p).pieces = [])) ∧
    (∃ s : State, ∃ p : Pipe, ∃ x : Piece, ∃ rest : List Piece, s.awake ∧ s.dev.cartState p = 4 ∧ (s.dev.cel p).pieces = x :: rest ∧ x.ready =
      false) ∧
    (∃ s : State, ∃ p : Pipe, ∃ x : Piece, ∃ rest : List Piece, s.awake ∧ s.dev.cartState p = 4 ∧ (s.dev.cel p).pieces = x :: rest ∧ x.ready =
      true ∧ (x.tenant = true ∨ s.dev.lockFree p 0 x.id = true) ∧ (∀ y ∈ rest, y.ready = true)) ∧
    (∃ s : State, ∃ q : Fin 513, ∃ cid : BitVec 16, ∃ c : NvmeCmd, ∃ p k : ℕ, s.awake ∧ s.dev.nvLive = true ∧ q ≠ 0 ∧
      (s.dev.hub.nvme.cmds.find? fun c => c.q == q.val && c.cid == cid.toNat && c.stage == 0) = some c ∧ c.opc = 0 ∧ c.d 1 ≠ 0xFFFFFFFF ∧
      nsPlace (c.d 1) = (p, k) ∧ s.dev.nsStatus p k ≠ 0) ∧
    (∃ s : State, ∃ q : Fin 513, ∃ cid : BitVec 16, ∃ c : NvmeCmd, ∃ p k : ℕ, s.awake ∧ s.dev.nvLive = true ∧ q ≠ 0 ∧
      (s.dev.hub.nvme.cmds.find? fun c => c.q == q.val && c.cid == cid.toNat && c.stage == 0) = some c ∧ c.opc = 0 ∧ c.d 1 ≠ 0xFFFFFFFF ∧
      nsPlace (c.d 1) = (p, k) ∧ s.dev.nsStatus p k = 0 ∧ (s.dev.hub.nvme.cmds.filter fun y => y.q == q.val && y.cid == cid.toNat) = [c] ∧
      s.dev.hub.nvme.closing = false) :=
  ⟨⟨State.reset, 1, 65527, by decide +kernel⟩,
   ⟨st [(·.wr F.CELP_RB_STAT_HOLD4 1 0), fun d =>
     { d with hub.nvme.cmds := [(({ q := 62, cid := 0, dw := [0, 1, 1, 0, 2, 0, 1, 0, 2, 3, 3, 0, 65, 0, 0, 59], stage := 1, left := 0, mark := 0 } : NvmeCmd))] }],
     62, 0, { q := 62, cid := 0, dw := [0, 1, 1, 0, 2, 0, 1, 0, 2, 3, 3, 0, 65, 0, 0, 59], stage := 1, left := 0, mark := 0 }, 0, 0,
     by decide +kernel⟩,
   ⟨st [fun d => modNsEnt d 1 1 fun x => { x with size := 100, attached := true }, (setNvLive · true), (setLockFree · true 1 5 1), (·.wr
     F.CELP_RB_STAT_HOLD4 0 1), (·.wr F.CELP_CART_STAT_STATE 4 1), (setPsOperational · true), fun d => modCel d 1 fun x =>
     { x with rebuild := [] }, (setHostOk · true), fun d =>
     { d with hub.nvme.cmds := [(({ q := 5, cid := 1, dw := [65538, 18, 22, 79, 3, 0, 79, 1, 3, 0, 3, 0, 0, 1, 0, 3], stage := 1, left := 0, mark := 0 } : NvmeCmd))] }],
     5, 1, { q := 5, cid := 1, dw := [65538, 18, 22, 79, 3, 0, 79, 1, 3, 0, 3, 0, 0, 1, 0, 3], stage := 1, left := 0, mark := 0 }, 1, 1,
     by decide +kernel⟩,
   ⟨st [(setNvLive · true), (setLockFree · true 1 2 1), (·.wr F.CELP_RB_STAT_HOLD4 0 1), (·.wr F.CELP_CART_STAT_STATE 4 1), (setPsOperational ·
     true), fun d => modCel d 1 fun x => { x with rebuild := [] }, fun d =>
     { d with hub.nvme.cmds := [(({ q := 2, cid := 1, dw := [65548, 23, 3, 33, 78, 1, 2, 6, 7, 0, 0, 58, 0, 3, 0, 0], stage := 1, left := 0, mark := 0 } : NvmeCmd))] }],
     2, 1, { q := 2, cid := 1, dw := [65548, 23, 3, 33, 78, 1, 2, 6, 7, 0, 0, 58, 0, 3, 0, 0], stage := 1, left := 0, mark := 0 }, 1, 6,
     by decide +kernel⟩,
   ⟨st [(setNvLive · true), (setLockFree · true 1 2 1), (·.wr F.CELP_RB_STAT_HOLD4 0 1), (·.wr F.CELP_CART_STAT_STATE 4 1), (setPsOperational ·
     true), fun d => modCel d 1 fun x => { x with rebuild := [] }, fun d =>
     { d with hub.nvme.cmds := [(({ q := 2, cid := 1, dw := [65537, 23, 3, 33, 78, 1, 2, 6, 7, 0, 0, 58, 0, 3, 0, 0], stage := 1, left := 0, mark := 0 } : NvmeCmd))] }],
     2, 1, { q := 2, cid := 1, dw := [65537, 23, 3, 33, 78, 1, 2, 6, 7, 0, 0, 58, 0, 3, 0, 0], stage := 1, left := 0, mark := 0 }, 1, 6,
     [], by decide +kernel⟩,
   ⟨st [fun d => modNsEnt d 1 1 fun x => { x with size := 100, attached := true }, (setNvLive · true), (setLockFree · true 1 5 3), (·.wr
     F.CELP_RB_STAT_HOLD4 0 1), (·.wr F.CELP_CART_STAT_STATE 4 1), (setPsOperational · true), fun d => modCel d 1 fun x =>
     { x with rebuild := [] }, fun d =>
     { d with hub.nvme.cmds := [(({ q := 5, cid := 3, dw := [196616, 18, 0, 3, 0, 3, 0, 0, 0, 4, 3, 0, 4, 52, 0, 2], stage := 1, left := 0, mark := 0 } : NvmeCmd))] }],
     5, 3, { q := 5, cid := 3, dw := [196616, 18, 0, 3, 0, 3, 0, 0, 0, 4, 3, 0, 4, 52, 0, 2], stage := 1, left := 0, mark := 0 }, 1, 1,
     by decide +kernel⟩,
   ⟨st [fun d => modCel d 3 fun x => { x with pieces := [] }], 3, by decide +kernel⟩,
   ⟨st [(·.wr F.CELP_CART_STAT_STATE 4 0), fun d => modCel d 0 fun x =>
     { x with pieces := (({ id := 1, ns := 1549, lba := 2, n := 2, data := none, owner := none, tenant := false, ready := false } : Piece)) :: ([]) }],
     0, { id := 1, ns := 1549, lba := 2, n := 2, data := none, owner := none, tenant := false, ready := false }, [], by decide +kernel⟩,
   ⟨st [(·.wr F.CELP_CART_STAT_STATE 4 3), fun d => modCel d 3 fun x =>
     { x with pieces := (({ id := 1, ns := 2515, lba := 3, n := 61, data := none, owner := none, tenant := true, ready := true } : Piece)) :: ([]) }],
     3, { id := 1, ns := 2515, lba := 3, n := 61, data := none, owner := none, tenant := true, ready := true }, [], by decide +kernel⟩,
   ⟨st [(setNvLive · true), fun d =>
     { d with hub.nvme.cmds := [(({ q := 40, cid := 1, dw := [65536, 48, 0, 2, 0, 0, 0, 8, 3, 3, 295801447, 0, 0, 39, 46, 0], stage := 0, left := 0, mark := 0 } : NvmeCmd))] }],
     40, 1,
     { q := 40, cid := 1, dw := [65536, 48, 0, 2, 0, 0, 0, 8, 3, 3, 295801447, 0, 0, 39, 46, 0], stage := 0, left := 0, mark := 0 }, 2,
     15, by decide +kernel⟩,
   ⟨st [(·.wr F.CELP_CART_STAT_STATE 4 1), fun d => modNsEnt d 1 1 fun x => { x with size := 100, attached := true }, (setNvLive · true), fun d
     => { d with hub.nvme.closing := false }, fun d =>
     { d with hub.nvme.cmds := [(({ q := 5, cid := 1246, dw := [81657856, 18, 0, 0, 3, 0, 1, 2, 52, 2, 0, 12, 0, 0, 52, 34], stage := 0, left := 0, mark := 0 } : NvmeCmd))] }],
     5, 1246,
     { q := 5, cid := 1246, dw := [81657856, 18, 0, 0, 3, 0, 1, 2, 52, 2, 0, 12, 0, 0, 52, 34], stage := 0, left := 0, mark := 0 }, 1, 1,
     by decide +kernel⟩⟩

theorem wit_Cartridges_1 :
    (∃ s : State, ∃ p : Pipe, s.awake ∧ (s.dev.cel p).ejected = false ∧ s.dev.pipeRuns p = true ∧ (s.dev.cartState p = 0 ∨ s.dev.cartState p =
      7)) ∧
    (∃ s : State, ∃ p : Pipe, s.awake ∧ ((s.dev.cel p).ejected = true ∨ s.dev.pipeRuns p = false ∨ (s.dev.cartState p ≠ 0 ∧ s.dev.cartState p
      ≠ 7))) ∧
    (∃ s : State, ∃ p : Pipe, s.awake ∧ s.dev.cartState p ≠ 1) ∧
    (∃ s : State, ∃ p : Pipe, s.awake ∧ (s.dev.cartState p ≠ 2 ∨ (s.dev.cel p).inited = true)) ∧
    (∃ s : State, ∃ p : Pipe, ∃ ts : List ℕ, ∃ ucap : ℕ, s.awake ∧ s.dev.cartState p = 2 ∧ (s.dev.cel p).inited = false ∧ cartGeometry ts ucap
      = true) ∧
    (∃ s : State, ∃ p : Pipe, ∃ ts : List ℕ, ∃ ucap : ℕ, s.awake ∧ s.dev.cartState p = 2 ∧ (s.dev.cel p).inited = false ∧ cartGeometry ts ucap
      = false) ∧
    (∃ s : State, ∃ p : Pipe, s.awake ∧ (s.dev.cartState p ≠ 2 ∨ (s.dev.cel p).inited = false)) ∧
    (∃ s : State, ∃ p : Pipe, ∃ x : CartImage, s.awake ∧ s.dev.cartState p = 2 ∧ (s.dev.cel p).inited = true ∧ x.blank = false) ∧
    (∃ s : State, ∃ p : Pipe, ∃ x : CartImage, s.awake ∧ s.dev.cartState p = 2 ∧ (s.dev.cel p).inited = true ∧ x.blank = true ∧ (s.dev.cel
      p).reseat = false) ∧
    (∃ s : State, ∃ p : Pipe, s.awake ∧ ((s.dev.cel p).found = none ∨ s.dev.cartState p ≠ 3)) ∧
    (∃ s : State, ∃ p : Pipe, ∃ x : CartImage, ∃ key : List Byte, s.awake ∧ (s.dev.cel p).found = some x ∧ s.dev.cartState p = 3 ∧ (s.dev.cel
      p).reseat = false ∧ (s.dev.cel p).newcart = false ∧ key = (s.dev.kekKey (s.dev.rd F.CEL_KEK_KSLOT)).getD []) ∧
    (∃ s : State, ∃ p : Pipe, ∃ x : CartImage, ∃ r : Replay, s.awake ∧ (s.dev.cel p).found = some x ∧ s.dev.cartState p = 3 ∧ (s.dev.cel
      p).reseat = true ∧ r.ckpt = true ∧ (s.dev.cel p).cart.jseq ≤ r.last ∧ r.last ≤ (s.dev.cel p).cart.jseq + (s.dev.cel
      p).pieces.length) :=
  ⟨⟨st [fun d => modCel d 3 fun x => { x with ejected := false }, (setPipeRuns · true 3), (·.wr F.CELP_CART_STAT_STATE 7 3)], 3,
     by decide +kernel⟩,
   ⟨st [(setPipeRuns · false 3)], 3, by decide +kernel⟩,
   ⟨st [(·.wr F.CELP_CART_STAT_STATE 5 3)], 3, by decide +kernel⟩,
   ⟨st [fun d => modCel d 0 fun x => { x with inited := true }], 0, by decide +kernel⟩,
   ⟨st [(·.wr F.CELP_CART_STAT_STATE 2 3), fun d => modCel d 3 fun x => { x with inited := false }], 3, [2, 2, 2, 2], 100, by decide +kernel⟩,
   ⟨st [(·.wr F.CELP_CART_STAT_STATE 2 0), fun d => modCel d 0 fun x => { x with inited := false }], 0, [], 1, by decide +kernel⟩,
   ⟨st [fun d => modCel d 3 fun x => { x with inited := false }], 3, by decide +kernel⟩,
   ⟨st [(·.wr F.CELP_CART_STAT_STATE 2 3), fun d => modCel d 3 fun x => { x with inited := true }], 3,
     { programmed := true, copies := [], nss := [], dir := [] }, by decide +kernel⟩,
   ⟨st [(·.wr F.CELP_CART_STAT_STATE 2 1), fun d => modCel d 1 fun x => { x with inited := true }, fun d => modCel d 1 fun x =>
     { x with reseat := false }], 1, { programmed := false, copies := [], nss := [], dir := [] }, by decide +kernel⟩,
   ⟨st [fun d => modCel d 3 fun x => { x with found := none }], 3, by decide +kernel⟩,
   ⟨st [fun d => modCel d 0 fun x => { x with found := some (({ programmed := true, copies := [], nss := [], dir := [] } : CartImage)) },
     (·.wr F.CELP_CART_STAT_STATE 3 0), fun d => modCel d 0 fun x => { x with reseat := false }, fun d => modCel d 0 fun x =>
     { x with newcart := false }], 0, { programmed := true, copies := [], nss := [], dir := [] }, [], by decide +kernel⟩,
   ⟨st [fun d => modCel d 0 fun x => { x with found := some (({ programmed := true, copies := [], nss := [], dir := [] } : CartImage)) },
     (·.wr F.CELP_CART_STAT_STATE 3 0), fun d => modCel d 0 fun x => { x with reseat := true }], 0,
     { programmed := true, copies := [], nss := [], dir := [] }, { ckpt := true, last := 0 }, by decide +kernel⟩⟩

theorem wit_Cartridges_2 :
    (∃ s : State, ∃ p : Pipe, s.awake ∧ s.dev.cartState p = 7) ∧
    (∃ s : State, ∃ p : Pipe, s.awake ∧ s.dev.cartState p = 1 ∧ (s.dev.cel p).reseat = true) ∧
    (∃ s : State, ∃ p : Pipe, s.awake ∧ s.dev.cartState p ≠ 7 ∧ (s.dev.cartState p ≠ 1 ∨ (s.dev.cel p).reseat = false)) ∧
    (∃ s : State, ∃ p : Pipe, s.awake ∧ s.dev.reaches .CELP p = true ∧ ((∃ t, t < 8 ∧ (s.dev.tq p t).take ≠ 0) ∨ (∃ x ∈ (s.dev.cel p).strms,
      x.2.open_ = true) ∨ s.dev.celWork p = true ∨ (s.dev.cartState p ≠ 4 ∧ s.dev.cartState p ≠ 5 ∧ s.dev.cartState p ≠ 6))) ∧
    (∃ s : State, ∃ p : Pipe, s.awake ∧ s.dev.reaches .CELP p = true ∧ (∀ t, t < 8 → (s.dev.tq p t).take = 0) ∧ (∀ x ∈ (s.dev.cel p).strms,
      x.2.open_ = false) ∧ s.dev.celWork p = false ∧ (s.dev.cartState p = 4 ∨ s.dev.cartState p = 5 ∨ s.dev.cartState p = 6)) ∧
    (∃ s : State, ∃ p : Pipe, s.awake ∧ s.dev.cartState p ≠ 4) ∧
    (∃ s : State, ∃ p : Pipe, ∃ k : Fin 16, ∃ region : ℕ, s.awake ∧ s.dev.cartState p = 4 ∧ (k.val, region) ∈ (s.dev.cel p).rebuild) ∧
    (∃ s : State, ∃ p : Pipe, ∃ k : Fin 16, ∃ region : ℕ, s.awake ∧ (s.dev.cartState p ≠ 4 ∨ (k.val, region) ∉ (s.dev.cel p).rebuild)) ∧
    (∃ s : State, ∃ p : Pipe, ∃ spare : Bool, s.awake ∧ (s.dev.cartState p ≠ 4 ∨ spare = true)) :=
  ⟨⟨st [(·.wr F.CELP_CART_STAT_STATE 7 3)], 3, by decide +kernel⟩,
   ⟨st [(·.wr F.CELP_CART_STAT_STATE 1 3), fun d => modCel d 3 fun x => { x with reseat := true }], 3, by decide +kernel⟩,
   ⟨st [(·.wr F.CELP_CART_STAT_STATE 11 3), fun d => modCel d 3 fun x => { x with reseat := false }], 3, by decide +kernel⟩,
   ⟨st [(setReach · .CELP 3)], 3, by decide +kernel⟩,
   ⟨st [(setReach · .CELP 3), (setCelWork · false 3), (·.wr F.CELP_CART_STAT_STATE 5 3)], 3, by decide +kernel⟩,
   ⟨st [(·.wr F.CELP_CART_STAT_STATE 8 3)], 3, by decide +kernel⟩,
   ⟨st [fun d => modCel d 0 fun x => { x with rebuild := [(1, 5)] }, (·.wr F.CELP_CART_STAT_STATE 4 0)], 0, 1, 5, by decide +kernel⟩,
   ⟨State.reset, 0, 3, 0, by decide +kernel⟩,
   ⟨State.reset, 0, true, by decide +kernel⟩⟩

theorem wit_DramControllers_1 :
    (∃ s : State, ∃ p : Pipe, s.awake ∧ s.dev.reaches .DRC p = true ∧ (s.dev.drcState p = 0 ∨ s.dev.drcState p = 6)) ∧
    (∃ s : State, ∃ p : Pipe, s.awake ∧ s.dev.reaches .DRC p = true ∧ s.dev.drcState p ≠ 0 ∧ s.dev.drcState p ≠ 6) ∧
    (∃ s : State, ∃ p : Pipe, s.awake ∧ s.dev.drcState p ≠ 1) ∧
    (∃ s : State, ∃ p : Pipe, s.awake ∧ s.dev.drcState p = 1) ∧
    (∃ s : State, ∃ p : Pipe, s.awake ∧ s.dev.drcState p ≠ 2) ∧
    (∃ s : State, ∃ p : Pipe, s.awake ∧ s.dev.drcState p = 2) ∧
    (∃ s : State, ∃ p : Pipe, ∃ r : DramReq, s.awake ∧ ((s.dev.drcState p ≠ 3 ∧ s.dev.drcState p ≠ 5 ∧ s.dev.drcState p ≠ 6) ∨ s.dev.dramInMap
      p r.addr r.len = false ∨ r.len = 0)) ∧
    (∃ s : State, ∃ p : Pipe, ∃ r : DramReq, ∃ ch : ℕ, ∃ e : DramEntry, s.awake ∧ (s.dev.drcState p = 3 ∨ s.dev.drcState p = 5 ∨
      s.dev.drcState p = 6) ∧ s.dev.dramInMap p r.addr r.len = true ∧ 0 < r.len ∧ s.dev.dramEntries p r = [(ch, e)]) ∧
    (∃ s : State, ∃ p : Pipe, ∃ ch : Fin 6, s.awake ∧ pickEntry (Tab.get [] (s.dev.dram p).queues ch) = none) ∧
    (∃ s : State, ∃ p : Pipe, ∃ ch : Fin 6, ∃ n : ℕ, ∃ e : DramEntry, ∃ a : ℕ, ∃ o : DramOp, ∃ x : DramAcc, s.awake ∧ pickEntry (Tab.get []
      (s.dev.dram p).queues ch) = some (n, e) ∧ e.accs = [a] ∧ ((s.dev.dram p).flight.filter fun y => y.src == e.src) = [o] ∧ o.seq =
      e.seq ∧ o.accs = [x] ∧ x.addr = a ∧ o.wr = true) ∧
    (∃ s : State, ∃ p : Pipe, ∃ ch : Fin 6, ∃ n : ℕ, ∃ e : DramEntry, ∃ a : ℕ, ∃ o : DramOp, ∃ x : DramAcc, s.awake ∧ pickEntry (Tab.get []
      (s.dev.dram p).queues ch) = some (n, e) ∧ e.accs = [a] ∧ ((s.dev.dram p).flight.filter fun y => y.src == e.src) = [o] ∧ o.seq =
      e.seq ∧ o.accs = [x] ∧ x.addr = a ∧ o.wr = false ∧ bit (s.dev.rd F.DRC_STAT_CHFAULT p) (s.dev.dramChan p a) = false) ∧
    (∃ s : State, ∃ p : Pipe, ∃ ch : Fin 6, ∃ n : ℕ, ∃ e : DramEntry, ∃ a : ℕ, ∃ as : List ℕ, ∃ o : DramOp, ∃ os : List DramOp, s.awake ∧
      pickEntry (Tab.get [] (s.dev.dram p).queues ch) = some (n, e) ∧ e.accs = a :: as ∧ ((s.dev.dram p).flight.filter fun y => y.src ==
      e.src) = o :: os ∧ o.seq ≠ e.seq ∧ (∃ x ∈ o.accs, x.found = none)) :=
  ⟨⟨st [(setReach · .DRC 3), (·.wr F.DRC_STAT_STATE 6 3)], 3, by decide +kernel⟩,
   ⟨st [(setReach · .DRC 3), (·.wr F.DRC_STAT_STATE 9 3)], 3, by decide +kernel⟩,
   ⟨st [(·.wr F.DRC_STAT_STATE 6 3)], 3, by decide +kernel⟩,
   ⟨st [(·.wr F.DRC_STAT_STATE 1 3)], 3, by decide +kernel⟩,
   ⟨st [(·.wr F.DRC_STAT_STATE 6 3)], 3, by decide +kernel⟩,
   ⟨st [(·.wr F.DRC_STAT_STATE 2 3)], 3, by decide +kernel⟩,
   ⟨State.reset, 0, { src := 46, sel := 2, addr := 0, len := 0, wr := true, data := [], psn := true }, by decide +kernel⟩,
   ⟨st [(·.wr F.DRC_STAT_STATE 3 1), (setDramInMap · true 1
     (({ src := 12, sel := 3, addr := 1, len := 1, wr := true, data := [], psn := true } : DramReq)).addr
     (({ src := 12, sel := 3, addr := 1, len := 1, wr := true, data := [], psn := true } : DramReq)).len)], 1,
     { src := 12, sel := 3, addr := 1, len := 1, wr := true, data := [], psn := true }, 0,
     { seq := 0, src := 12, rank := 5, accs := [1] }, by decide +kernel⟩,
   ⟨State.reset, 1, 0, by decide +kernel⟩,
   ⟨st [fun d => modDram d 3 fun x =>
     { x with queues := [(5, [⟨5, 3, 2, [64]⟩])], flight := [⟨5, 3, true, false, [⟨64, 4, [1, 2, 3, 4], none⟩]⟩] }], 3, 5, 0,
     { seq := 5, src := 3, rank := 2, accs := [64] }, 64,
     { seq := 5, src := 3, wr := true, psn := false, accs := [{ addr := 64, len := 4, data := [1, 2, 3, 4], found := none }] },
     { addr := 64, len := 4, data := [1, 2, 3, 4], found := none }, by decide +kernel⟩,
   ⟨st [fun d => modDram d 3 fun x => { x with queues := [(5, [⟨5, 3, 2, [64]⟩])], flight := [⟨5, 3, false, false, [⟨64, 4, [], none⟩]⟩] }],
     3, 5, 0, { seq := 5, src := 3, rank := 2, accs := [64] }, 64,
     { seq := 5, src := 3, wr := false, psn := false, accs := [{ addr := 64, len := 4, data := [], found := none }] },
     { addr := 64, len := 4, data := [], found := none }, by decide +kernel⟩,
   ⟨st [fun d => modDram d 1 fun x =>
     { x with queues := [(0, [⟨6, 3, 2, [128]⟩])], flight := [⟨5, 3, false, false, [⟨64, 4, [], none⟩]⟩, ⟨6, 3, true, false, [⟨128, 4, [1, 2, 3, 4], none⟩]⟩] }],
     1, 0, 0, { seq := 6, src := 3, rank := 2, accs := [128] }, 128, [],
     { seq := 5, src := 3, wr := false, psn := false, accs := [{ addr := 64, len := 4, data := [], found := none }] },
     [{ seq := 6, src := 3, wr := true, psn := false, accs := [{ addr := 128, len := 4, data := [1, 2, 3, 4], found := none }] }],
     by decide +kernel⟩⟩

theorem wit_DramControllers_2 :
    (∃ s : State, ∃ p : Pipe, s.awake ∧ s.dev.on F.DRC_HOT_STAT_HOLD p = true ∧ s.dev.on F.DRC_HOT_STAT_HOT p = false) ∧
    (∃ s : State, ∃ p : Pipe, s.awake ∧ (s.dev.on F.DRC_HOT_STAT_HOLD p = false ∨ s.dev.on F.DRC_HOT_STAT_HOT p = true)) ∧
    (∃ s : State, ∃ p : Pipe, s.awake ∧ (s.dev.on F.DRC_SCRUB_EN p = false ∨ s.dev.drcState p ≠ 3)) ∧
    (∃ s : State, ∃ p : Pipe, ∃ w : ℕ, s.awake ∧ s.dev.on F.DRC_SCRUB_EN p = true ∧ s.dev.drcState p = 3 ∧ s.dev.dramChan p (32 * w) ∉
      (s.dev.dram p).sr ∧ 32 * w + 32 ≤ s.dev.mapBytes p ∧ s.dev.cnt C.DRC_UNC_CNT p < 2 ^ 48 ∧ bit (s.dev.rd F.DRC_STAT_CHFAULT p)
      (s.dev.dramChan p (32 * w)) = false) ∧
    (∃ s : State, ∃ p : Pipe, ∃ ch : Fin 6, s.awake ∧ s.dev.on F.DRC_SR_CFG_EN p = true ∧ (s.dev.drcState p = 3 ∨ s.dev.drcState p = 5 ∧
      (s.dev.dram p).phase ≠ 3) ∧ Tab.get [] (s.dev.dram p).queues ch = []) ∧
    (∃ s : State, ∃ p : Pipe, ∃ ch : Fin 6, s.awake ∧ (s.dev.on F.DRC_SR_CFG_EN p = false ∨ Tab.get [] (s.dev.dram p).queues ch ≠ [])) ∧
    (∃ s : State, ∃ p : Pipe, s.awake ∧ s.dev.reaches .DRC p = true ∧ s.dev.on F.DRC_FCHG_GO p = true) ∧
    (∃ s : State, ∃ p : Pipe, s.awake ∧ s.dev.reaches .DRC p = true ∧ s.dev.on F.DRC_FCHG_GO p = false) ∧
    (∃ s : State, ∃ p : Pipe, s.awake ∧ (s.dev.dram p).phase = 1) ∧
    (∃ s : State, ∃ p : Pipe, s.awake ∧ (s.dev.dram p).phase ≠ 1) ∧
    (∃ s : State, ∃ p : Pipe, s.awake ∧ (s.dev.dram p).phase = 2 ∧ (s.dev.dram p).queues = [] ∧ s.dev.fchgTurn p = true ∧ s.dev.hub.lost =
      false) ∧
    (∃ s : State, ∃ p : Pipe, s.awake ∧ ((s.dev.dram p).phase ≠ 2 ∨ (s.dev.dram p).queues ≠ [] ∨ s.dev.fchgTurn p = false ∨ s.dev.hub.lost =
      true)) :=
  ⟨⟨st [(·.wr F.DRC_HOT_STAT_HOLD 1 3)], 3, by decide +kernel⟩,
   ⟨st [(·.wr F.DRC_HOT_STAT_HOT 1 3)], 3, by decide +kernel⟩,
   ⟨st [(·.wr F.DRC_SCRUB_EN 0 0)], 0, by decide +kernel⟩,
   ⟨st [(·.wr F.DRC_STAT_STATE 3 2)], 2, 3, by decide +kernel⟩,
   ⟨st [(·.wr F.DRC_STAT_STATE 3 3)], 3, 5, by decide +kernel⟩,
   ⟨st [(·.wr F.DRC_SR_CFG_EN 0 3)], 3, 5, by decide +kernel⟩,
   ⟨st [(setReach · .DRC 3), (·.wr F.DRC_FCHG_GO 1 3)], 3, by decide +kernel⟩,
   ⟨st [(setReach · .DRC 3), (·.wr F.DRC_FCHG_GO 0 3)], 3, by decide +kernel⟩,
   ⟨st [fun d => modDram d 3 fun x => { x with phase := 1 }], 3, by decide +kernel⟩,
   ⟨State.reset, 3, by decide +kernel⟩,
   ⟨st [fun d => modDram d 3 fun x => { x with phase := 2 }, fun d => modDram d 3 fun x => { x with queues := [] }, (setFchgTurn · true 3)], 3,
     by decide +kernel⟩,
   ⟨State.reset, 1, by decide +kernel⟩⟩

theorem wit_DramControllers_3 :
    (∃ s : State, ∃ p : Pipe, s.awake ∧ (s.dev.dram p).phase = 2 ∧ (s.dev.dram p).hold = false) ∧
    (∃ s : State, ∃ p : Pipe, s.awake ∧ ((s.dev.dram p).phase ≠ 2 ∨ (s.dev.dram p).hold = true)) ∧
    (∃ s : State, ∃ p : Pipe, s.awake ∧ (s.dev.dram p).phase ≠ 3) ∧
    (∃ s : State, ∃ p : Pipe, s.awake ∧ (s.dev.dram p).phase = 3) :=
  ⟨⟨st [fun d => modDram d 3 fun x => { x with phase := 2 }, fun d => modDram d 3 fun x => { x with hold := false }], 3, by decide +kernel⟩,
   ⟨State.reset, 2, by decide +kernel⟩,
   ⟨State.reset, 3, by decide +kernel⟩,
   ⟨st [fun d => modDram d 3 fun x => { x with phase := 3 }], 3, by decide +kernel⟩⟩

theorem wit_TimeUnit_1 :
    (∃ s : State, s.awake ∧ s.dev.on F.TIME_STAT_REFFAULT = true) ∧
    (∃ s : State, s.awake ∧ s.dev.on F.TIME_STAT_REFFAULT = false) ∧
    (∃ s : State, ∃ m : PtpMsg, s.awake ∧ (s.dev.ptpTakes m.domain = false ∨ s.dev.hub.ptp.sel ≠ some m.src)) ∧
    (∃ s : State, ∃ m : PtpMsg, s.awake ∧ s.dev.ptpTakes m.domain = true ∧ s.dev.hub.ptp.sel = some m.src ∧ m.twoStep = true) ∧
    (∃ s : State, ∃ m : PtpMsg, ∃ x o : ℤ, s.awake ∧ s.dev.ptpTakes m.domain = true ∧ s.dev.hub.ptp.sel = some m.src ∧ m.twoStep = false ∧ x =
      s.dev.ptpStamp false - PtpMsg_t m - m.corr ∧ o = x - s.dev.hub.ptp.mpd) ∧
    (∃ s : State, ∃ m : PtpMsg, ∃ x o : ℤ, ∃ t2 : ℕ, ∃ corr : ℤ, s.awake ∧ s.dev.ptpTakes m.domain = true ∧ s.dev.hub.ptp.sel = some m.src ∧
      s.dev.hub.ptp.waiting = some (m.src, m.seq, t2, corr) ∧ x = (t2 : Int) - PtpMsg_t m - corr - m.corr ∧ o = x - s.dev.hub.ptp.mpd) ∧
    (∃ s : State, s.awake ∧ s.dev.hub.ptp.waiting = none) ∧
    (∃ s : State, s.awake ∧ s.dev.on F.TIME_PTP_EN = true ∧ s.dev.isFollower = false ∧ s.dev.hub.ptp.sel.isSome = true ∧ s.dev.hub.lost =
      false) ∧
    (∃ s : State, s.awake ∧ (s.dev.on F.TIME_PTP_EN = false ∨ s.dev.isFollower = true ∨ s.dev.hub.ptp.sel = none ∨ s.dev.hub.lost = true)) ∧
    (∃ s : State, ∃ m : PtpMsg, ∃ t3 : ℕ, ∃ x mpd : ℤ, s.awake ∧ s.dev.hub.ptp.t3 = some t3 ∧ s.dev.hub.ptp.sync = some x ∧ s.dev.ptpTakes
      m.domain = true ∧ s.dev.hub.ptp.sel = some m.src ∧ s.dev.hub.ptp.dseq = m.seq ∧ mpd = (x + (PtpMsg_t m - (t3 : Int) - m.corr)) / 2) ∧
    (∃ s : State, ∃ a : PtpAnnounce, s.awake ∧ s.dev.ptpTakes a.domain = false) ∧
    (∃ s : State, ∃ a : PtpAnnounce, s.awake ∧ s.dev.ptpTakes a.domain = true) :=
  ⟨⟨st [(·.wr F.TIME_STAT_REFFAULT 1)], by decide +kernel⟩,
   ⟨State.reset, by decide +kernel⟩,
   ⟨State.reset, { domain := 1, src := 2, seq := 0, twoStep := true, time := 3, frac := 53, corr := 0 }, by decide +kernel⟩,
   ⟨st [(setPtpTakes · true (({ domain := 0, src := 1, seq := 2, twoStep := true, time := 2, frac := 1, corr := 1 } : PtpMsg)).domain), fun d
     =>
     { d with hub.ptp.sel := some (({ domain := 0, src := 1, seq := 2, twoStep := true, time := 2, frac := 1, corr := 1 } : PtpMsg)).src }],
     { domain := 0, src := 1, seq := 2, twoStep := true, time := 2, frac := 1, corr := 1 }, by decide +kernel⟩,
   ⟨st [(setPtpTakes · true (({ domain := 0, src := 1, seq := 2, twoStep := false, time := 0, frac := 34, corr := -15 } : PtpMsg)).domain),
     fun d =>
     { d with hub.ptp.sel := some (({ domain := 0, src := 1, seq := 2, twoStep := false, time := 0, frac := 34, corr := -15 } : PtpMsg)).src }],
     { domain := 0, src := 1, seq := 2, twoStep := false, time := 0, frac := 34, corr := -15 }, ((st [(setPtpTakes · true
     (({ domain := 0, src := 1, seq := 2, twoStep := false, time := 0, frac := 34, corr := -15 } : PtpMsg)).domain), fun d =>
     { d with hub.ptp.sel := some (({ domain := 0, src := 1, seq := 2, twoStep := false, time := 0, frac := 34, corr := -15 } : PtpMsg)).src }]).dev.ptpStamp
     false - PtpMsg_t (({ domain := 0, src := 1, seq := 2, twoStep := false, time := 0, frac := 34, corr := -15 } : PtpMsg)) -
     (({ domain := 0, src := 1, seq := 2, twoStep := false, time := 0, frac := 34, corr := -15 } : PtpMsg)).corr), (((((st [(setPtpTakes ·
     true (({ domain := 0, src := 1, seq := 2, twoStep := false, time := 0, frac := 34, corr := -15 } : PtpMsg)).domain), fun d =>
     { d with hub.ptp.sel := some (({ domain := 0, src := 1, seq := 2, twoStep := false, time := 0, frac := 34, corr := -15 } : PtpMsg)).src }]).dev.ptpStamp
     false - PtpMsg_t (({ domain := 0, src := 1, seq := 2, twoStep := false, time := 0, frac := 34, corr := -15 } : PtpMsg)) -
     (({ domain := 0, src := 1, seq := 2, twoStep := false, time := 0, frac := 34, corr := -15 } : PtpMsg)).corr) : ℤ)) - (st [(setPtpTakes
     · true (({ domain := 0, src := 1, seq := 2, twoStep := false, time := 0, frac := 34, corr := -15 } : PtpMsg)).domain), fun d =>
     { d with hub.ptp.sel := some (({ domain := 0, src := 1, seq := 2, twoStep := false, time := 0, frac := 34, corr := -15 } : PtpMsg)).src }]).dev.hub.ptp.mpd),
     ⟨by decide +kernel, by decide +kernel, by decide +kernel, by decide +kernel, rfl, rfl⟩⟩,
   ⟨st [(setPtpTakes · true (({ domain := 0, src := 1, seq := 1, twoStep := true, time := 0, frac := 1, corr := -3 } : PtpMsg)).domain), fun d
     =>
     { d with hub.ptp.sel := some (({ domain := 0, src := 1, seq := 1, twoStep := true, time := 0, frac := 1, corr := -3 } : PtpMsg)).src },
     fun d =>
     { d with hub.ptp.waiting := some ((({ domain := 0, src := 1, seq := 1, twoStep := true, time := 0, frac := 1, corr := -3 } : PtpMsg)).src, (({ domain := 0, src := 1, seq := 1, twoStep := true, time := 0, frac := 1, corr := -3 } : PtpMsg)).seq, 1, (-3)) }],
     { domain := 0, src := 1, seq := 1, twoStep := true, time := 0, frac := 1, corr := -3 }, 6, 6, 1, -3, by decide +kernel⟩,
   ⟨State.reset, by decide +kernel⟩,
   ⟨st [(·.wr F.TIME_PTP_EN 1), (setIsFollower · false), fun d => { d with hub.ptp.sel := some 1 }], by decide +kernel⟩,
   ⟨st [(setIsFollower · true)], by decide +kernel⟩,
   ⟨st [fun d => { d with hub.ptp.t3 := some 1 }, fun d => { d with hub.ptp.sync := some (-3) }, (setPtpTakes · true
     (({ domain := 0, src := 1, seq := 1, twoStep := true, time := 0, frac := 1, corr := -3 } : PtpMsg)).domain), fun d =>
     { d with hub.ptp.sel := some (({ domain := 0, src := 1, seq := 1, twoStep := true, time := 0, frac := 1, corr := -3 } : PtpMsg)).src },
     fun d =>
     { d with hub.ptp.dseq := (({ domain := 0, src := 1, seq := 1, twoStep := true, time := 0, frac := 1, corr := -3 } : PtpMsg)).seq }],
     { domain := 0, src := 1, seq := 1, twoStep := true, time := 0, frac := 1, corr := -3 }, 1, -3, 0, by decide +kernel⟩,
   ⟨st [(setPtpTakes · false (({ domain := 0, src := 2, dataset := [], utc := none } : PtpAnnounce)).domain)],
     { domain := 0, src := 2, dataset := [], utc := none }, by decide +kernel⟩,
   ⟨st [(setPtpTakes · true (({ domain := 0, src := 2, dataset := [], utc := none } : PtpAnnounce)).domain)],
     { domain := 0, src := 2, dataset := [], utc := none }, by decide +kernel⟩⟩

theorem wit_TimeUnit_2 :
    (∃ s : State, s.awake ∧ s.dev.hub.ptp.sel = none) ∧
    (∃ s : State, ∃ src : ℕ, s.awake ∧ s.dev.hub.ptp.sel = some src) ∧
    (∃ s : State, ∃ ns : ℕ, ∃ step : ℤ, s.awake ∧ s.dev.reaches .TIME 0 = true ∧ ns = s.dev.rd F.TIME_STEP_NS_VALUE ∧ step = signed 32
      (s.dev.rd F.TIME_STEP_S_VALUE) * 1000000000 + (ns : Int)) ∧
    (∃ s : State, s.awake ∧ s.dev.reaches .TIME 0 = true ∧ s.dev.hub.ptp.pending = none) ∧
    (∃ s : State, ∃ x : ℤ, s.awake ∧ s.dev.reaches .TIME 0 = true ∧ s.dev.hub.ptp.pending = some x) ∧
    (∃ s : State, ∃ u : Unit5, s.awake ∧ s.dev.reaches (if u.val < 4 then .NET else .TIME) u = true) ∧
    (∃ s : State, ∃ g : Fin 4, s.awake ∧ (s.dev.hub.lost = true ∨ s.dev.on F.TIME_TC_CFG_EN 0 g = false)) ∧
    (∃ s : State, ∃ g : Fin 4, s.awake ∧ s.dev.hub.lost = false ∧ s.dev.on F.TIME_TC_CFG_EN 0 g = true ∧ s.dev.rd F.TIME_TC_CFG_NUM 0 g ≠ 0 ∧
      s.dev.rd F.TIME_TC_CFG_DEN 0 g ≠ 0) :=
  ⟨⟨State.reset, by decide +kernel⟩,
   ⟨st [fun d => { d with hub.ptp.sel := some 1 }], 1, by decide +kernel⟩,
   ⟨st [(setReach · .TIME 0)], 0, 0, by decide +kernel⟩,
   ⟨st [(setReach · .TIME 0), fun d => { d with hub.ptp.pending := none }], by decide +kernel⟩,
   ⟨st [(setReach · .TIME 0), fun d => { d with hub.ptp.pending := some 1 }], 1, by decide +kernel⟩,
   ⟨State.reset, 4, by decide +kernel⟩,
   ⟨State.reset, 3, by decide +kernel⟩,
   ⟨st [(·.wr F.TIME_TC_CFG_EN 1 0 3), (·.wr F.TIME_TC_CFG_NUM 2 0 3), (·.wr F.TIME_TC_CFG_DEN 6 0 3)], 3, by decide +kernel⟩⟩

theorem wit_EthernetAndLive_1 :
    (∃ s : State, ∃ p : Pipe, ∃ q : Fin 6, s.awake ∧ s.dev.ethUp p q = false) ∧
    (∃ s : State, ∃ p : Pipe, ∃ q : Fin 6, ∃ bs : List Byte, s.awake ∧ s.dev.ethUp p q = true ∧ (s.dev.ethMax p q < bs.length + 4 ∨
      (s.dev.ethAccepts p q bs = false ∧ s.dev.isPtpPort p q = false))) ∧
    (∃ s : State, ∃ p : Pipe, ∃ q : Fin 6, ∃ bs : List Byte, ∃ k : ℕ, s.awake ∧ s.dev.ethUp p q = true ∧ bs.length + 4 ≤ s.dev.ethMax p q ∧
      s.dev.ethAccepts p q bs = true ∧ s.dev.isPtpPort p q = false ∧ k = s.dev.rd F.NET_PORT_CFG_RXCASK p q ∧ s.dev.cnt C.NET_CNT p q 0 <
      2 ^ 48 ∧ s.dev.on F.CASK_CFG_EN p k = false) ∧
    (∃ s : State, ∃ p : Pipe, ∃ q : Fin 6, ∃ bs : List Byte, ∃ k : ℕ, s.awake ∧ s.dev.ethUp p q = true ∧ bs.length + 4 ≤ s.dev.ethMax p q ∧
      s.dev.ethAccepts p q bs = true ∧ s.dev.isPtpPort p q = false ∧ k = s.dev.rd F.NET_PORT_CFG_RXCASK p q ∧ s.dev.cnt C.NET_CNT p q 0 <
      2 ^ 48 ∧ s.dev.on F.CASK_CFG_EN p k = true ∧ (s.dev.cask p k).wait = [] ∧ (s.dev.cask p k).next = none ∧ (16 + bs.length + 7) / 8 ≤
      s.dev.rd F.CASK_STAT_CREDITS p k) ∧
    (∃ s : State, ∃ p : Pipe, ∃ q : Fin 6, ∃ e : Dev, s.awake ∧ s.dev.ethUp p q = true ∧ e = (if s.dev.ethWhole p q then s.dev else
      s.dev.ethFill p q ((s.dev.cask p (s.dev.rd F.NET_PORT_CFG_TXCASK p q)).words.length + 1)) ∧ e.ethWhole p q = false) ∧
    (∃ s : State, ∃ p : Pipe, ∃ q : Fin 6, ∃ e : Dev, ∃ ws : List CaskWord, ∃ bs : List Byte, ∃ len : ℕ, s.awake ∧ s.dev.ethUp p q = true ∧ e
      = (if s.dev.ethWhole p q then s.dev else s.dev.ethFill p q ((s.dev.cask p (s.dev.rd F.NET_PORT_CFG_TXCASK p q)).words.length + 1)) ∧
      e.ethWhole p q = true ∧ ws = (e.eth p q).item ∧ bs = ws.flatMap (fun w => leBytes 8 w.data) ∧ len = ofLeBytes (bs.take 2)) ∧
    (∃ s : State, ∃ p : Pipe, ∃ q : Fin 6, s.awake ∧ s.dev.reaches .NET p = true ∧ (s.dev.eth p q).txts = []) ∧
    (∃ s : State, ∃ p : Pipe, ∃ q : Fin 6, ∃ ts fr id : ℕ, ∃ rest : List (ℕ × ℕ × ℕ), s.awake ∧ s.dev.reaches .NET p = true ∧ (s.dev.eth p
      q).txts = (ts, fr, id) :: rest) ∧
    (∃ s : State, s.awake ∧ s.dev.stopped = true) ∧
    (∃ s : State, ∃ p : Pipe, ∃ o : Fin 16, s.awake ∧ s.dev.stopped = false ∧ s.dev.liveOn p o = false) ∧
    (∃ s : State, ∃ p : Pipe, ∃ o : Fin 16, ∃ words : ℕ, ∃ flaws : List Flaw, ∃ e : Dev, s.awake ∧ s.dev.stopped = false ∧ s.dev.liveOn p o =
      true ∧ e = s.dev.liveFill p o words flaws ∧ e.liveWhole p o = false) ∧
    (∃ s : State, ∃ p : Pipe, ∃ o : Fin 16, ∃ words : ℕ, ∃ flaws : List Flaw, ∃ e : Dev, ∃ x : LiveOut, ∃ bs : List Byte, ∃ t n : ℕ, ∃ data :
      List Byte, s.awake ∧ s.dev.stopped = false ∧ s.dev.liveOn p o = true ∧ e = s.dev.liveFill p o words flaws ∧ e.liveWhole p o = true ∧
      x = e.liveOut p o ∧ bs = x.item.flatMap (fun w => leBytes 8 w.data) ∧ e.liveStopped p o = false ∧ e.liveItem p o x.fs bs = (t, data)
      ∧ n = e.liveSlotOf p o t ∧ n ∉ x.missed) :=
  ⟨⟨st [(setEthUp · false 0 1)], 0, 1, by decide +kernel⟩,
   ⟨st [(setEthUp · true 0 2)], 0, 2, [128], by decide +kernel⟩,
   ⟨st [(setEthUp · true 2 2), (setEthAccepts · true 2 2 ([])), (setIsPtpPort · false 2 2), (·.wr F.CASK_CFG_EN 0 2 0)], 2, 2, [], 0,
     by decide +kernel⟩,
   ⟨st [(setEthUp · true 3 5), (setEthAccepts · true 3 5 ([255, 255, 255, 255, 255, 255, 255, 255, 255, 255, 255, 255, 255, 255, 255, 255, 255,
     255, 255, 255, 255, 255, 255, 255, 255, 255, 255, 255, 255, 255, 255, 255, 255, 255, 255, 255, 255, 255, 255, 255, 255, 255, 255,
     255, 255, 255, 255, 255, 255, 255, 255, 255, 255, 255, 255, 255, 255, 255, 255, 255])), (setIsPtpPort · false 3 5), (·.wr
     F.CASK_CFG_EN 1 3 0), fun d => modCask d 3 0 fun x => { x with wait := [] }, fun d => modCask d 3 0 fun x => { x with next := none },
     (·.wr F.CASK_STAT_CREDITS 100 3 0)], 3, 5, [255, 255, 255, 255, 255, 255, 255, 255, 255, 255, 255, 255, 255, 255, 255, 255, 255, 255,
     255, 255, 255, 255, 255, 255, 255, 255, 255, 255, 255, 255, 255, 255, 255, 255, 255, 255, 255, 255, 255, 255, 255, 255, 255, 255,
     255, 255, 255, 255, 255, 255, 255, 255, 255, 255, 255, 255, 255, 255, 255, 255], 0, by decide +kernel⟩,
   ⟨st [(setEthUp · true 3 5)], 3, 5, ((if (st [(setEthUp · true 3 5)]).dev.ethWhole 3 5 then (st [(setEthUp · true 3 5)]).dev else (st
     [(setEthUp · true 3 5)]).dev.ethFill 3 5 (((st [(setEthUp · true 3 5)]).dev.cask 3 ((st [(setEthUp · true 3 5)]).dev.rd
     F.NET_PORT_CFG_TXCASK 3 5)).words.length + 1))), by decide +kernel⟩,
   ⟨st [(setEthWhole · true 3 5), (setEthUp · true 3 5)], 3, 5, ((if (st [(setEthWhole · true 3 5), (setEthUp · true 3 5)]).dev.ethWhole 3 5 then
     (st [(setEthWhole · true 3 5), (setEthUp · true 3 5)]).dev else (st [(setEthWhole · true 3 5), (setEthUp · true 3 5)]).dev.ethFill 3 5
     (((st [(setEthWhole · true 3 5), (setEthUp · true 3 5)]).dev.cask 3 ((st [(setEthWhole · true 3 5), (setEthUp · true 3 5)]).dev.rd
     F.NET_PORT_CFG_TXCASK 3 5)).words.length + 1))), [{ data := 0, fin := true, tail := false, psn := false }], [0, 0, 0, 0, 0, 0, 0, 0],
     0, by decide +kernel⟩,
   ⟨st [(setReach · .NET 3), fun d => modEth d 3 5 fun x => { x with txts := [] }], 3, 5, by decide +kernel⟩,
   ⟨st [(setReach · .NET 0), fun d => modEth d 0 2 fun x => { x with txts := (2, 0, 9) :: ([]) }], 0, 2, 2, 0, 9, [], by decide +kernel⟩,
   ⟨st [(setStopped · true)], by decide +kernel⟩,
   ⟨st [(setLiveOn · false 0 1)], 0, 1, by decide +kernel⟩,
   ⟨st [(setLiveOn · true 0 1)], 0, 1, 0, [], ((st [(setLiveOn · true 0 1)]).dev.liveFill 0 1 0 ([])), by decide +kernel⟩,
   ⟨st [fun d => modLiveOut ((((d.wr F.NET_LO_CFG_KIND 0 0 1).wr F.NET_LO_CFG_ESS 0 0 1).wr F.NET_LO_SIZE_HEIGHT 1 0 1).wr F.NET_LO_BUF_FSZ 1
     0 1) 0 1 fun x => { x with item := [⟨0, true, false, false⟩], missed := [] }, (setLiveOn · true 0 1), (setLiveStopped · false 0 1),
     (setLiveOn · true 0 1)], 0, 1, 0, [], ((st [fun d => modLiveOut ((((d.wr F.NET_LO_CFG_KIND 0 0 1).wr F.NET_LO_CFG_ESS 0 0 1).wr
     F.NET_LO_SIZE_HEIGHT 1 0 1).wr F.NET_LO_BUF_FSZ 1 0 1) 0 1 fun x => { x with item := [⟨0, true, false, false⟩], missed := [] },
     (setLiveOn · true 0 1), (setLiveStopped · false 0 1), (setLiveOn · true 0 1)]).dev.liveFill 0 1 0 ([])),
     { item := [{ data := 0, fin := true, tail := false, psn := false }], fs := 0, frames := [], cur := none, last := none, missed := [], seq := 0, count := 0, pkt := [], raster := { shows := none, lines := 2250, vpid := [], atc := none } },
     [0, 0, 0, 0, 0, 0, 0, 0], 0, 0, [0, 0, 0, 0, 0], by decide +kernel⟩⟩

theorem wit_EthernetAndLive_2 :
    (∃ s : State, ∃ p : Pipe, ∃ o : Fin 16, s.awake ∧ s.dev.stopped = false ∧ (s.dev.liveOn p o = false ∨ s.dev.on F.NET_LO_CFG_KIND p o =
      true)) ∧
    (∃ s : State, ∃ p : Pipe, ∃ o : Fin 16, ∃ n : ℕ, s.awake ∧ s.dev.stopped = false ∧ s.dev.liveOn p o = true ∧ s.dev.on F.NET_LO_CFG_KIND p
      o = false ∧ s.dev.liveReady p o = true ∧ s.dev.liveStopped p o = false ∧ s.dev.liveTplOk p o = true ∧ n = frameAt (s.dev.rd
      F.NET_LO_RATE_NUM p o) (s.dev.rd F.NET_LO_RATE_DEN p o) (nsOf (s.dev.pipeTime p) - (1000 * s.dev.rd F.NET_LO_TIME_TROFF p o +
      (s.dev.livePlan p o).1)) ∧ (∀ l, (s.dev.liveOut p o).last = some l → l < n)) ∧
    (∃ s : State, ∃ p : Pipe, ∃ o : Fin 16, s.awake ∧ s.dev.stopped = false ∧ ((s.dev.liveOut p o).cur = none ∨ s.dev.on F.NET_LO_CFG_KIND p o
      = true)) ∧
    (∃ s : State, ∃ p : Pipe, ∃ o : Fin 16, ∃ f : LiveFrame, ∃ n k : ℕ, s.awake ∧ s.dev.stopped = false ∧ (s.dev.liveOut p o).cur = some (f,
      n, k) ∧ nsOf (s.dev.pipeTime p) < s.dev.liveLaunchAt p o f n k) ∧
    (∃ s : State, ∃ p : Pipe, ∃ o : Fin 16, ∃ f : LiveFrame, ∃ n k pb : ℕ, ∃ data : List Byte, ∃ bad : Bool, ∃ e : Dev, s.awake ∧
      s.dev.stopped = false ∧ (s.dev.liveOut p o).cur = some (f, n, k) ∧ s.dev.on F.NET_LO_CFG_KIND p o = false ∧ s.dev.liveLaunchAt p o f
      n k ≤ nsOf (s.dev.pipeTime p) ∧ pb = (if s.dev.rd F.NET_LO_CFG_ESS p o = 2 then f.size else s.dev.rd F.NET_LO_PKT_PKTBYTES p o) ∧
      s.dev.dramRead p 0x2C ((s.dev.rd F.NET_LO_BUF_BASE p o + f.at_ * s.dev.rd F.NET_LO_BUF_FSZ p o) * 2 ^ 20 + k * pb) (min pb (f.size -
      k * pb)) = (data, bad, e)) ∧
    (∃ s : State, ∃ p : Pipe, ∃ o : Fin 16, s.awake ∧ s.dev.stopped = false ∧ (s.dev.liveOn p o = false ∨ s.dev.on F.NET_LO_CFG_KIND p o =
      false)) ∧
    (∃ s : State, ∃ p : Pipe, ∃ o : Fin 16, ∃ n : ℕ, s.awake ∧ s.dev.stopped = false ∧ s.dev.liveOn p o = true ∧ s.dev.on F.NET_LO_CFG_KIND p
      o = true ∧ n = frameAt (s.dev.rd F.NET_LO_RATE_NUM p o) (s.dev.rd F.NET_LO_RATE_DEN p o) (nsOf (s.dev.pipeTime p) - s.dev.rd
      F.SDI_LO_CFG_OFF p o)) :=
  ⟨⟨st [(setLiveOn · false 2 7)], 2, 7, by decide +kernel⟩,
   ⟨st [(setLiveOn · true 1 3), (·.wr F.NET_LO_CFG_KIND 0 1 3), (setLiveReady · true 1 3), (setLiveStopped · false 1 3), (setLiveTplOk · true 1
     3)], 1, 3, 0, by decide +kernel⟩,
   ⟨st [(·.wr F.NET_LO_CFG_KIND 1 1 0)], 1, 0, by decide +kernel⟩,
   ⟨st [(setLiveOn · true 3 1), fun d => modLiveOut d 3 1 fun x =>
     { x with cur := some ((({ slot := 1125899906842624, size := 5, at_ := 0, pts := 1180591620717411303424 } : LiveFrame)), 1, 3) }], 3,
     1, { slot := 1125899906842624, size := 5, at_ := 0, pts := 1180591620717411303424 }, 1, 3, by decide +kernel⟩,
   ⟨st [fun d => modLiveOut d 1 2 fun x => { x with cur := some ((({ slot := 2, size := 1, at_ := 29, pts := 0 } : LiveFrame)), 1, 0) }], 1,
     2, { slot := 2, size := 1, at_ := 29, pts := 0 }, 1, 0, 0, [], false, (((st [fun d => modLiveOut d 1 2 fun x =>
     { x with cur := some ((({ slot := 2, size := 1, at_ := 29, pts := 0 } : LiveFrame)), 1, 0) }]).dev.dramRead 1 0x2C (((st [fun d =>
     modLiveOut d 1 2 fun x => { x with cur := some ((({ slot := 2, size := 1, at_ := 29, pts := 0 } : LiveFrame)), 1, 0) }]).dev.rd
     F.NET_LO_BUF_BASE 1 2 + (({ slot := 2, size := 1, at_ := 29, pts := 0 } : LiveFrame)).at_ * (st [fun d => modLiveOut d 1 2 fun x =>
     { x with cur := some ((({ slot := 2, size := 1, at_ := 29, pts := 0 } : LiveFrame)), 1, 0) }]).dev.rd F.NET_LO_BUF_FSZ 1 2) * 2 ^ 20
     + 0 * 0) (min 0 ((({ slot := 2, size := 1, at_ := 29, pts := 0 } : LiveFrame)).size - 0 * 0))).2.2), by decide +kernel⟩,
   ⟨st [(setLiveOn · false 0 2)], 0, 2, by decide +kernel⟩,
   ⟨st [(setLiveOn · true 2 1), (·.wr F.NET_LO_CFG_KIND 1 2 1)], 2, 1, 0, by decide +kernel⟩⟩

theorem wit_PressEngines_1 :
    (∃ s : State, ∃ u : Unit5, s.awake ∧ (s.dev.stopped = true ∨ (s.dev.press u).job.isSome = true ∨ (s.dev.press u).fetching.isSome = true ∨
      s.dev.pressPick u = none)) ∧
    (∃ s : State, ∃ u : Unit5, ∃ r slot : ℕ, s.awake ∧ s.dev.stopped = false ∧ (s.dev.press u).job = none ∧ (s.dev.press u).fetching = none ∧
      s.dev.pressPick u = some r ∧ slot = Tab.get 0 (s.dev.press u).next r ∧ s.dev.pressHostRing u r = true ∧ s.dev.rackHostOk u = true) ∧
    (∃ s : State, ∃ u : Unit5, ∃ r slot : ℕ, s.awake ∧ s.dev.stopped = false ∧ (s.dev.press u).job = none ∧ (s.dev.press u).fetching = none ∧
      s.dev.pressPick u = some r ∧ slot = Tab.get 0 (s.dev.press u).next r ∧ s.dev.pressHostRing u r = true ∧ s.dev.rackHostOk u = false) ∧
    (∃ s : State, ∃ u : Unit5, ∃ r slot : ℕ, ∃ bs : List Byte, ∃ e : Dev, s.awake ∧ s.dev.stopped = false ∧ (s.dev.press u).job = none ∧
      (s.dev.press u).fetching = none ∧ s.dev.pressPick u = some r ∧ slot = Tab.get 0 (s.dev.press u).next r ∧ s.dev.pressHostRing u r =
      false ∧ s.dev.dramRead u (pressSrc u) (s.dev.pressSlotAt u r slot % 2 ^ 40) 32 = (bs, false, e)) ∧
    (∃ s : State, ∃ u : Unit5, s.awake ∧ (s.dev.stopped = true ∨ (s.dev.press u).job = none)) ∧
    (∃ s : State, ∃ u : Unit5, ∃ r : ℕ, ∃ j : PressJob, ∃ st : ℕ, s.awake ∧ s.dev.stopped = false ∧ (s.dev.press u).job = some (r, j) ∧
      j.status = some st ∧ st < 2 ^ 8 ∧ s.dev.pressHostRing u r = false) ∧
    (∃ s : State, ∃ u : Unit5, ∃ r : ℕ, ∃ j : PressJob, ∃ src out : List Byte, ∃ used chk : ℕ, ∃ bs : List Byte, ∃ e : Dev, ∃ a : ℕ, s.awake ∧
      u.val < 4 ∧ s.dev.stopped = false ∧ (s.dev.press u).job = some (r, j) ∧ j.status = none ∧ j.op = 1 ∧ j.srck = 0 ∧ j.dstk = 0 ∧
      s.dev.pressHostRing u r = false ∧ src = (s.dev.dram u).mem.reads (j.src % 2 ^ 40) j.len ∧ inflate j.fmt src j.dlen = .ok (out, used,
      chk) ∧ s.dev.dramRead u (pressSrc u) (j.src % 2 ^ 40) used = (bs, false, e) ∧ a = s.dev.pressSlotAt u r j.slot % 2 ^ 40 ∧ s.dev.cnt
      C.PRESS_OUT_CNT u < 2 ^ 48) ∧
    (∃ s : State, ∃ u : Unit5, ∃ r : Fin 4, ∃ tail : BitVec 16, s.awake ∧ r.val < pressRings u ∧ s.dev.reaches .PRESS_P u = true ∧ tail.toNat
      < s.dev.pressSlots u r) ∧
    (∃ s : State, ∃ u : Unit5, ∃ r : Fin 4, ∃ tail : BitVec 16, s.awake ∧ r.val < pressRings u ∧ s.dev.reaches .PRESS_P u = true ∧
      s.dev.pressSlots u r ≤ tail.toNat) ∧
    (∃ s : State, ∃ u : Unit5, ∃ r : Fin 4, s.awake ∧ r.val < pressRings u ∧ s.dev.reaches .PRESS_P u = true ∧ s.dev.rd
      F.PRESS_RING_STAT_STATE u r ≠ 1 ∧ s.dev.rd F.PRESS_RING_STAT_STATE u r ≠ 2) ∧
    (∃ s : State, ∃ u : Unit5, ∃ r : Fin 4, s.awake ∧ r.val < pressRings u ∧ s.dev.reaches .PRESS_P u = true ∧ (s.dev.rd
      F.PRESS_RING_STAT_STATE u r = 1 ∨ s.dev.rd F.PRESS_RING_STAT_STATE u r = 2)) ∧
    (∃ s : State, ∃ u : Unit5, ∃ r : Fin 4, s.awake ∧ r.val < pressRings u ∧ s.dev.reaches .PRESS_P u = true ∧ s.dev.rd
      F.PRESS_RING_STAT_STATE u r = 3) :=
  ⟨⟨State.reset, 2, by decide +kernel⟩,
   ⟨st [(·.wr F.PRESS_RING_CFG_EN 1 0 0), (·.wr F.PRESS_RING_STAT_STATE 1 0 0), (·.wr F.PRESS_TAIL_TAIL 3 0 0), fun d => modPress d 0 fun x =>
     { x with job := none }, fun d => modPress d 0 fun x => { x with fetching := none }, (setPressHostRing · true 0 0), (setRackHostOk · true
     0)], 0, 0, 0, by decide +kernel⟩,
   ⟨st [(·.wr F.PRESS_RING_CFG_EN 1 0 0), (·.wr F.PRESS_RING_STAT_STATE 1 0 0), (·.wr F.PRESS_TAIL_TAIL 3 0 0), fun d => modPress d 0 fun x =>
     { x with job := none }, fun d => modPress d 0 fun x => { x with fetching := none }, (setPressHostRing · true 0 0), (setRackHostOk ·
     false 0)], 0, 0, 0, by decide +kernel⟩,
   ⟨st [(·.wr F.PRESS_RING_CFG_EN 1 0 0), (·.wr F.PRESS_RING_STAT_STATE 1 0 0), (·.wr F.PRESS_TAIL_TAIL 3 0 0), fun d => modPress d 0 fun x =>
     { x with job := none }, fun d => modPress d 0 fun x => { x with fetching := none }, (setPressHostRing · false 0 0)], 0, 0, 0,
     List.replicate 32 0, ((st [(·.wr F.PRESS_RING_CFG_EN 1 0 0), (·.wr F.PRESS_RING_STAT_STATE 1 0 0), (·.wr F.PRESS_TAIL_TAIL 3 0 0),
     fun d => modPress d 0 fun x => { x with job := none }, fun d => modPress d 0 fun x => { x with fetching := none }, (setPressHostRing ·
     false 0 0)]).dev.dramRead 0 (pressSrc 0) ((st [(·.wr F.PRESS_RING_CFG_EN 1 0 0), (·.wr F.PRESS_RING_STAT_STATE 1 0 0), (·.wr
     F.PRESS_TAIL_TAIL 3 0 0), fun d => modPress d 0 fun x => { x with job := none }, fun d => modPress d 0 fun x =>
     { x with fetching := none }, (setPressHostRing · false 0 0)]).dev.pressSlotAt 0 0 0 % 2 ^ 40) 32).2.2, by decide +kernel⟩,
   ⟨st [(setStopped · true)], 0, by decide +kernel⟩,
   ⟨st [fun d => modPress d 2 fun x => { x with job := some (0, (({ slot := 3, ws := [], status := some 1 } : PressJob))) }, (setPressHostRing
     · false 2 0)], 2, 0, { slot := 3, ws := [], status := some 1 }, 1, by decide +kernel⟩,
   ⟨st [fun d => modPress d 0 fun x => { x with job := some (0, { slot := 1, ws := [2 ^ 30, 5, 0, 0, 0, 0, 16, 0] }) }, fun d => modDram d 0
     fun x => { x with mem := x.mem.writes 0 [1, 0, 0, 255, 255] }, (setPressHostRing · false 0 0)], 0, 0,
     { slot := 1, ws := [1073741824, 5, 0, 0, 0, 0, 16, 0], status := none }, [1, 0, 0, 255, 255], [], 5, 0, [1, 0, 0, 255, 255], ((st
     [fun d => modPress d 0 fun x => { x with job := some (0, { slot := 1, ws := [2 ^ 30, 5, 0, 0, 0, 0, 16, 0] }) }, fun d => modDram d 0
     fun x => { x with mem := x.mem.writes 0 [1, 0, 0, 255, 255] }, (setPressHostRing · false 0 0)]).dev.dramRead 0 (pressSrc 0) 0 5).2.2,
     64, by decide +kernel⟩,
   ⟨st [(setReach · .PRESS_P 2)], 2, 3, 12, by decide +kernel⟩,
   ⟨st [(setReach · .PRESS_P 2)], 2, 3, 36513, by decide +kernel⟩,
   ⟨st [(setReach · .PRESS_P 2), (·.wr F.PRESS_RING_STAT_STATE 4 2 3)], 2, 3, by decide +kernel⟩,
   ⟨st [(setReach · .PRESS_P 2), (·.wr F.PRESS_RING_STAT_STATE 1 2 3)], 2, 3, by decide +kernel⟩,
   ⟨st [(setReach · .PRESS_P 2), (·.wr F.PRESS_RING_STAT_STATE 3 2 3)], 2, 3, by decide +kernel⟩⟩

theorem wit_PressEngines_2 :
    (∃ s : State, ∃ u : Unit5, ∃ r : Fin 4, s.awake ∧ r.val < pressRings u ∧ s.dev.reaches .PRESS_P u = true ∧ s.dev.rd
      F.PRESS_RING_STAT_STATE u r ≠ 3) ∧
    (∃ s : State, ∃ u : Unit5, ∃ r : Fin 4, s.awake ∧ r.val < pressRings u ∧ s.dev.reaches .PRESS_P u = true ∧ s.dev.on F.PRESS_RING_CFG_EN u
      r = false) ∧
    (∃ s : State, ∃ u : Unit5, ∃ r : Fin 4, s.awake ∧ r.val < pressRings u ∧ s.dev.reaches .PRESS_P u = true ∧ s.dev.on F.PRESS_RING_CFG_EN u
      r = true) :=
  ⟨⟨st [(setReach · .PRESS_P 2), (·.wr F.PRESS_RING_STAT_STATE 4 2 3)], 2, 3, by decide +kernel⟩,
   ⟨st [(setReach · .PRESS_P 2), (·.wr F.PRESS_RING_CFG_EN 0 2 3)], 2, 3, by decide +kernel⟩,
   ⟨st [(setReach · .PRESS_P 2), (·.wr F.PRESS_RING_CFG_EN 1 2 3)], 2, 3, by decide +kernel⟩⟩

theorem wit_Quadrille_1 :
    (∃ s : State, ∃ q : Fin 3, s.awake ∧ (s.dev.qdlState q ≠ 2 ∨ s.dev.hub.lost = true)) ∧
    (∃ s : State, ∃ q : Fin 3, s.awake ∧ s.dev.qdlState q = 2 ∧ s.dev.hub.lost = false) ∧
    (∃ s : State, ∃ q : Fin 3, s.awake ∧ s.dev.qdlState q < 2) ∧
    (∃ s : State, ∃ q : Fin 3, s.awake ∧ 2 ≤ s.dev.qdlState q) ∧
    (∃ s : State, ∃ q : Fin 3, s.awake ∧ (s.dev.isFollower = true ∨ s.dev.qdlUp q = false)) ∧
    (∃ s : State, ∃ q : Fin 3, s.awake ∧ s.dev.isFollower = false ∧ s.dev.qdlUp q = true ∧ s.dev.hostOk = true) ∧
    (∃ s : State, ∃ q : Fin 3, s.awake ∧ s.dev.isFollower = false ∧ s.dev.qdlUp q = true ∧ s.dev.hostOk = false) ∧
    (∃ s : State, ∃ q : Fin 3, s.awake ∧ (s.dev.qdlUp q = false ∨ s.dev.hub.lost = true)) ∧
    (∃ s : State, ∃ q : Fin 3, s.awake ∧ (s.dev.isFollower = false ∨ s.dev.qdlUp q = false ∨ s.dev.hub.lost = true)) ∧
    (∃ s : State, ∃ q : Fin 3, s.awake ∧ s.dev.isFollower = true ∧ s.dev.qdlUp q = true ∧ s.dev.hub.lost = false) ∧
    (∃ s : State, ∃ x : Fin 4, ∃ num : Word, s.awake ∧ (s.dev.isFollower = true ∨ s.dev.hub.lost = true ∨ bit (s.dev.rd F.QDL_TAKE_STAT_ENDED)
      x = true ∨ ∀ r ∈ s.dev.hub.takes, r.num = num.toNat → r.devs = [])) ∧
    (∃ s : State, ∃ x : Fin 4, ∃ num : Word, s.awake ∧ s.dev.isFollower = false ∧ s.dev.hub.lost = false ∧ bit (s.dev.rd
      F.QDL_TAKE_STAT_ENDED) x = false ∧ (x = 0 ∨ s.dev.qdlUp (x.val - 1) = true) ∧ (∃ r ∈ s.dev.hub.takes, r.num = num.toNat ∧ r.devs ≠
      [])) :=
  ⟨⟨st [fun d => { d with hub.lost := true }], 0, by decide +kernel⟩,
   ⟨st [(·.wr F.QDL_PEER_STATE 2 0 0)], 0, by decide +kernel⟩,
   ⟨State.reset, 0, by decide +kernel⟩,
   ⟨st [(·.wr F.QDL_PEER_STATE 3 0 0)], 0, by decide +kernel⟩,
   ⟨st [(setQdlUp · false 2)], 2, by decide +kernel⟩,
   ⟨st [(setIsFollower · false), (setQdlUp · true 1), (setHostOk · true)], 1, by decide +kernel⟩,
   ⟨st [(setIsFollower · false), (setQdlUp · true 2), (setHostOk · false)], 2, by decide +kernel⟩,
   ⟨st [(setQdlUp · false 1)], 1, by decide +kernel⟩,
   ⟨st [(setQdlUp · false 2)], 2, by decide +kernel⟩,
   ⟨st [(setIsFollower · true), (setQdlUp · true 1)], 1, by decide +kernel⟩,
   ⟨State.reset, 3, 423322591, by decide +kernel⟩,
   ⟨st [(setIsFollower · false), fun d => { d with hub.takes := [{ num := 4233026885, qs := [], devs := [1] }] }, (·.wr F.QDL_TAKE_STAT_ENDED
     0)], 0, 4233026885, by decide +kernel⟩⟩

theorem wit_Quadrille_2 :
    (∃ s : State, s.awake ∧ (s.dev.isFollower = false ∨ s.dev.leaderPort.isSome = true)) ∧
    (∃ s : State, s.awake ∧ s.dev.isFollower = true ∧ s.dev.leaderPort = none) :=
  ⟨⟨State.reset, by decide +kernel⟩,
   ⟨st [(setIsFollower · true)], by decide +kernel⟩⟩

theorem wit_PanelOutputs_1 :
    (∃ s : State, ∃ o : Fin 2, ∃ w : Word, s.awake ∧ s.dev.reaches .PANEL 0 = true ∧ s.dev.on F.PANEL_CFG_EN 0 o = false ∧ 80 ≤ slice w.toNat
      12 0 ∧ slice w.toNat 12 0 ≤ 4500 ∧ bit w.toNat 30 = false ∧ s.dev.panelState o = 0) ∧
    (∃ s : State, ∃ o : Fin 2, ∃ w : Word, s.awake ∧ s.dev.reaches .PANEL 0 = true ∧ s.dev.on F.PANEL_CFG_EN 0 o = false ∧ (slice w.toNat 12 0
      < 80 ∨ 4500 < slice w.toNat 12 0)) ∧
    (∃ s : State, ∃ o : Fin 2, ∃ w : Word, s.awake ∧ s.dev.reaches .PANEL 0 = true ∧ (slice w.toNat 17 16 = 3 ∨ s.dev.on F.PANEL_CFG_EN 0 o =
      false)) ∧
    (∃ s : State, ∃ o : Fin 2, ∃ w : Word, ∃ r : Fin 16, s.awake ∧ s.dev.reaches .PANEL 0 = true ∧ slice w.toNat 17 16 ≠ 3 ∧ s.dev.on
      F.PANEL_CFG_EN 0 o = true ∧ bit w.toNat r = true) ∧
    (∃ s : State, ∃ o : Fin 2, s.awake ∧ (s.dev.hub.lost = true ∨ s.dev.panelState o ≠ 1)) ∧
    (∃ s : State, ∃ o : Fin 2, s.awake ∧ s.dev.hub.lost = false ∧ s.dev.panelState o = 1) ∧
    (∃ s : State, ∃ o : Fin 2, s.awake ∧ (s.dev.hub.lost = true ∨ s.dev.on F.PANEL_DCS_GO 0 o = false)) ∧
    (∃ s : State, ∃ o : Fin 2, s.awake ∧ s.dev.hub.lost = false ∧ s.dev.on F.PANEL_DCS_GO 0 o = true ∧ (s.dev.panelState o = 2 ∨
      s.dev.panelState o = 3)) ∧
    (∃ s : State, ∃ o : Fin 2, s.awake ∧ (s.dev.hub.lost = true ∨ s.dev.panelState o ≠ 2 ∨ (s.dev.panel o).queue = [])) ∧
    (∃ s : State, ∃ o : Fin 2, ∃ u : PanelUpd, ∃ q : List PanelUpd, s.awake ∧ s.dev.hub.lost = false ∧ (s.dev.panel o).queue = u :: q ∧
      s.dev.panelState o = 2) ∧
    (∃ s : State, ∃ o : Fin 2, ∃ u : PanelUpd, ∃ q : List PanelUpd, s.awake ∧ s.dev.hub.lost = false ∧ (s.dev.panel o).queue = u :: q ∧
      s.dev.panelState o = 3) ∧
    (∃ s : State, ∃ o : Fin 2, ∃ rising : Bool, s.awake ∧ (s.dev.hub.lost = true ∨ s.dev.panelState o ≠ 3 ∨ rising = s.dev.on
      F.PANEL_CFG_TEPOL 0 o)) :=
  ⟨⟨st [(setReach · .PANEL 0), (·.wr F.PANEL_CFG_EN 0 0 1), (·.wr F.PANEL_STAT_STATE 0 0 1)], 1, 423322591, by decide +kernel⟩,
   ⟨st [(setReach · .PANEL 0), (·.wr F.PANEL_CFG_EN 0 0 0)], 0, 4294965247, by decide +kernel⟩,
   ⟨st [(setReach · .PANEL 0)], 1, 423322591, by decide +kernel⟩,
   ⟨st [(setReach · .PANEL 0), (·.wr F.PANEL_CFG_EN 1 0 0)], 0, 818278663, 0, by decide +kernel⟩,
   ⟨st [fun d => { d with hub.lost := true }], 1, by decide +kernel⟩,
   ⟨st [(·.wr F.PANEL_STAT_STATE 1 0 1)], 1, by decide +kernel⟩,
   ⟨State.reset, 1, by decide +kernel⟩,
   ⟨st [(·.wr F.PANEL_DCS_GO 1 0 1), (·.wr F.PANEL_STAT_STATE 3 0 1)], 1, by decide +kernel⟩,
   ⟨st [fun d => { d with hub.lost := true }], 0, by decide +kernel⟩,
   ⟨st [fun d => modPanel d 0 fun x => { x with queue := (({ rgn := 1, buf := 1, chg := false, group := false } : PanelUpd)) :: ([]) }, (·.wr
     F.PANEL_STAT_STATE 2 0 0)], 0, { rgn := 1, buf := 1, chg := false, group := false }, [], by decide +kernel⟩,
   ⟨st [fun d => modPanel d 0 fun x => { x with queue := (({ rgn := 1, buf := 1, chg := false, group := false } : PanelUpd)) :: ([]) }, (·.wr
     F.PANEL_STAT_STATE 3 0 0)], 0, { rgn := 1, buf := 1, chg := false, group := false }, [], by decide +kernel⟩,
   ⟨State.reset, 1, true, by decide +kernel⟩⟩

theorem wit_PanelOutputs_2 :
    (∃ s : State, ∃ o : Fin 2, s.awake ∧ (s.dev.hub.lost = true ∨ s.dev.panelState o ≠ 3)) ∧
    (∃ s : State, ∃ o : Fin 2, s.awake ∧ (s.dev.hub.lost = true ∨ (s.dev.panel o).job = none)) ∧
    (∃ s : State, ∃ o : Fin 2, ∃ j : PanelRun, s.awake ∧ s.dev.hub.lost = false ∧ (s.dev.panel o).job = some j ∧ j.sent < s.dev.panelPackets o
      j.upd.rgn ∧ s.dev.panelReach o j.upd.rgn = true) ∧
    (∃ s : State, ∃ o : Fin 2, ∃ j : PanelRun, s.awake ∧ s.dev.hub.lost = false ∧ (s.dev.panel o).job = some j ∧ s.dev.panelPackets o
      j.upd.rgn ≤ j.sent) ∧
    (∃ s : State, ∃ o : Fin 2, ∃ j : PanelRun, s.awake ∧ s.dev.hub.lost = false ∧ (s.dev.panel o).job = some j ∧ s.dev.panelReach o j.upd.rgn
      = false) ∧
    (∃ s : State, ∃ o : Fin 2, s.awake ∧ (s.dev.hub.lost = true ∨ (s.dev.panel o).due = none)) ∧
    (∃ s : State, ∃ o : Fin 2, ∃ b : ℕ, ∃ bad : Bool, s.awake ∧ s.dev.hub.lost = false ∧ (s.dev.panel o).due = some (b, bad) ∧ s.dev.cnt
      C.PANEL_CNT 0 o 3 < 2 ^ 48) :=
  ⟨⟨st [fun d => { d with hub.lost := true }], 1, by decide +kernel⟩,
   ⟨st [fun d => { d with hub.lost := true }], 0, by decide +kernel⟩,
   ⟨st [fun d => modPanel d 1 fun x =>
     { x with job := some (({ upd := { rgn := 0, buf := 0, chg := false, group := false }, sent := 0, rows := [], crc := 0, sig := 0, black := false, urgent := false, warned := false } : PanelRun)) },
     (setPanelReach · true 1
     (({ upd := { rgn := 0, buf := 0, chg := false, group := false }, sent := 0, rows := [], crc := 0, sig := 0, black := false, urgent := false, warned := false }
     : PanelRun)).upd.rgn), (·.wr F.PANEL_RGN_B_H 10 0 1 0), (setHostOk · true)], 1,
     { upd := { rgn := 0, buf := 0, chg := false, group := false }, sent := 0, rows := [], crc := 0, sig := 0, black := false, urgent := false, warned := false },
     by decide +kernel⟩,
   ⟨st [fun d => modPanel d 0 fun x =>
     { x with job := some (({ upd := { rgn := 0, buf := 0, chg := false, group := false }, sent := 0, rows := [], crc := 0, sig := 0, black := false, urgent := false, warned := false } : PanelRun)) }],
     0,
     { upd := { rgn := 0, buf := 0, chg := false, group := false }, sent := 0, rows := [], crc := 0, sig := 0, black := false, urgent := false, warned := false },
     by decide +kernel⟩,
   ⟨st [fun d => modPanel d 1 fun x =>
     { x with job := some (({ upd := { rgn := 0, buf := 0, chg := false, group := false }, sent := 0, rows := [], crc := 0, sig := 0, black := false, urgent := false, warned := false } : PanelRun)) },
     (setPanelReach · false 1
     (({ upd := { rgn := 0, buf := 0, chg := false, group := false }, sent := 0, rows := [], crc := 0, sig := 0, black := false, urgent := false, warned := false }
     : PanelRun)).upd.rgn)], 1,
     { upd := { rgn := 0, buf := 0, chg := false, group := false }, sent := 0, rows := [], crc := 0, sig := 0, black := false, urgent := false, warned := false },
     by decide +kernel⟩,
   ⟨st [fun d => { d with hub.lost := true }], 1, by decide +kernel⟩,
   ⟨st [fun d => modPanel d 0 fun x => { x with due := some (6, true) }], 0, 6, true, by decide +kernel⟩⟩

theorem wit_PicturesAndMessages :
    (∃ s : State, ∃ i : Fin 64, s.awake ∧ (s.dev.stopped = true ∨ s.dev.hub.lost = true ∨ s.dev.pasmOf i = none)) ∧
    (∃ s : State, ∃ i : Fin 64, ∃ g n : ℕ, s.awake ∧ s.dev.stopped = false ∧ s.dev.hub.lost = false ∧ s.dev.pasmOf i = some (g, n) ∧
      (s.dev.pasm g).drop.contains n = true) ∧
    (∃ s : State, ∃ i : Fin 64, ∃ g n m : ℕ, s.awake ∧ s.dev.stopped = false ∧ s.dev.hub.lost = false ∧ s.dev.pasmOf i = some (g, n) ∧
      (s.dev.pasm g).drop.contains n = false ∧ m ≠ n ∧ Tab.get [] (s.dev.pasm g).q m = [] ∧ (s.dev.pasm g).ended.contains m = false ∧ bit
      (s.dev.rd F.HUB_PASM_STAT_ABSENT 0 g) m = false ∧ m ∈ s.dev.pasmPipes g) ∧
    (∃ s : State, ∃ i : Fin 64, ∃ eof : Bool, ∃ g n : ℕ, s.awake ∧ s.dev.stopped = false ∧ s.dev.hub.lost = false ∧ s.dev.pasmOf i = some (g,
      n) ∧ (s.dev.pasm g).drop.contains n = false ∧ s.dev.pasmPipes g = [n] ∧ Tab.get [] (s.dev.pasm g).q n = [] ∧ (s.dev.pasm g).ended =
      [] ∧ s.dev.on F.HUB_PASM_STAT_RUN 0 g = true ∧ s.dev.rd F.HUB_PASM_STAT_ABSENT 0 g = 0 ∧ 2 ≤ s.dev.rd F.HUB_PASM_CFG_DEST 0 g ∧
      (s.dev.pasm g).line + 1 < s.dev.rd F.HUB_PASM_LINES_LINES 0 g ∧ eof = false) ∧
    (∃ s : State, ∃ g : Fin 8, s.awake ∧ (s.dev.stopped = true ∨ s.dev.hub.lost = true ∨ (s.dev.pasm g).t0 = none)) ∧
    (∃ s : State, ∃ g : Fin 8, ∃ m : ℕ, s.awake ∧ s.dev.stopped = false ∧ s.dev.hub.lost = false ∧ (s.dev.pasm g).t0.isSome = true ∧ s.dev.on
      F.HUB_PASM_STAT_RUN 0 g = true ∧ (s.dev.pasm g).filled = false ∧ 2 ≤ s.dev.rd F.HUB_PASM_CFG_DEST 0 g ∧ m ∈ s.dev.pasmPipes g ∧
      (s.dev.pasm g).ended.contains m = false ∧ bit (s.dev.rd F.HUB_PASM_STAT_ABSENT 0 g) m = false ∧ Tab.get [] (s.dev.pasm g).q m = []) ∧
    (∃ s : State, ∃ v : Fin 1024, s.awake ∧ (s.dev.hub.lost = true ∨ Tab.find s.dev.router.coal v.val = none)) ∧
    (∃ s : State, ∃ v : Fin 1024, ∃ x : Coal, s.awake ∧ s.dev.hub.lost = false ∧ Tab.find s.dev.router.coal v.val = some x) ∧
    (∃ s : State, s.awake ∧ s.dev.reaches .EVT 0 = true) :=
  ⟨⟨State.reset, 2, by decide +kernel⟩,
   ⟨st [(·.wr F.HUB_PASM_CFG_EN 1 0 2), (·.wr F.HUB_PASM_CFG_PIPES 1 0 2), (·.wr F.HUB_PASM_CFG_IBASE 3 0 2), fun d => modPasm d 2 fun x =>
     { x with drop := [0] }], 3, 2, 0, by decide +kernel⟩,
   ⟨st [(·.wr F.HUB_PASM_CFG_EN 1 0 2), (·.wr F.HUB_PASM_CFG_PIPES 3 0 2), (·.wr F.HUB_PASM_CFG_IBASE 3 0 2)], 3, 2, 0, 1, by decide +kernel⟩,
   ⟨st [(·.wr F.HUB_PASM_CFG_EN 1 0 2), (·.wr F.HUB_PASM_CFG_PIPES 1 0 2), (·.wr F.HUB_PASM_CFG_IBASE 3 0 2), (·.wr F.HUB_PASM_LINES_LINES
     100 0 2), (·.wr F.HUB_PASM_CFG_DEST 2 0 2), fun d => modPasm d 2 fun x => { x with ended := [] }, (·.wr F.HUB_PASM_STAT_RUN 1 0 2)],
     3, false, 2, 0, by decide +kernel⟩,
   ⟨st [(setStopped · true)], 1, by decide +kernel⟩,
   ⟨st [(·.wr F.HUB_PASM_STAT_RUN 1 0 2), fun d => modPasm d 2 fun x => { x with filled := false }, (·.wr F.HUB_PASM_CFG_EN 1 0 2), (·.wr
     F.HUB_PASM_CFG_PIPES 1 0 2), (·.wr F.HUB_PASM_CFG_IBASE 3 0 2), (·.wr F.HUB_PASM_CFG_DEST 2 0 2), fun d => modPasm d 2 fun x =>
     { x with t0 := some 5 }], 2, 0, by decide +kernel⟩,
   ⟨st [fun d => { d with hub.lost := true }], 2, by decide +kernel⟩,
   ⟨st [fun d => { d with router.coal := Tab.put d.router.coal 0 (({ c := 0, t0 := 0 } : Coal)) }], 0, { c := 0, t0 := 0 },
     by decide +kernel⟩,
   ⟨st [(setReach · .EVT 0)], by decide +kernel⟩⟩

theorem wit_AudioPorts_1 :
    (∃ s : State, s.awake ∧ s.dev.reaches .AUD 0 = true ∧ s.dev.on F.AUD_TRIG_CMD_GO = true) ∧
    (∃ s : State, ∃ paths : BitVec 8, s.awake ∧ s.dev.reaches .AUD 0 = true ∧ s.dev.on F.AUD_TRIG_CMD_GO = false ∧ paths = 0 ∧ s.dev.hub.lost
      = false) ∧
    (∃ s : State, ∃ paths : BitVec 8, ∃ bad : List ℕ, s.awake ∧ s.dev.reaches .AUD 0 = true ∧ s.dev.on F.AUD_TRIG_CMD_GO = false ∧ (bitsOf
      paths.toNat 8).filter (s.dev.audBad 1) = bad ∧ bad ≠ [] ∧ s.dev.hub.lost = false) ∧
    (∃ s : State, ∃ paths : BitVec 8, ∃ bad : List ℕ, s.awake ∧ s.dev.reaches .AUD 0 = true ∧ s.dev.on F.AUD_TRIG_CMD_GO = false ∧ (bitsOf
      paths.toNat 8).filter (s.dev.audBad 2) = bad ∧ bad ≠ [] ∧ s.dev.hub.lost = false) ∧
    (∃ s : State, ∃ attime : Bool, ∃ paths : BitVec 8, ∃ n l : ℕ, s.awake ∧ s.dev.reaches .AUD 0 = true ∧ s.dev.on F.AUD_TRIG_CMD_GO = false ∧
      paths ≠ 0 ∧ (∀ x ∈ bitsOf paths.toNat 8, s.dev.audBad 1 x = false) ∧ l = s.dev.audLead 1 (bitsOf paths.toNat 8) ∧ n = (if attime
      then mediaFrom (256 * ((s.dev.rd F.AUD_TRIG_S_LO_S + 2 ^ 32 * s.dev.rd F.AUD_TRIG_S_HI_S) * 1000000000 + s.dev.rd
      F.AUD_TRIG_NS_VALUE)) else mediaFrom (s.dev.hubTime + 25600000) + l) ∧ n < mediaFrom (s.dev.hubTime + 25600000) + l ∧ s.dev.hub.lost
      = false) ∧
    (∃ s : State, ∃ attime : Bool, ∃ paths : BitVec 8, ∃ n l : ℕ, s.awake ∧ s.dev.reaches .AUD 0 = true ∧ s.dev.on F.AUD_TRIG_CMD_GO = false ∧
      paths ≠ 0 ∧ (∀ x ∈ bitsOf paths.toNat 8, s.dev.audBad 2 x = false) ∧ l = s.dev.audLead 2 (bitsOf paths.toNat 8) ∧ n = (if attime
      then mediaFrom (256 * ((s.dev.rd F.AUD_TRIG_S_LO_S + 2 ^ 32 * s.dev.rd F.AUD_TRIG_S_HI_S) * 1000000000 + s.dev.rd
      F.AUD_TRIG_NS_VALUE)) else mediaFrom (s.dev.hubTime + 25600000) + l) ∧ n < mediaFrom (s.dev.hubTime + 25600000) + l ∧ s.dev.hub.lost
      = false) ∧
    (∃ s : State, ∃ attime : Bool, ∃ paths : BitVec 8, ∃ n l : ℕ, s.awake ∧ s.dev.reaches .AUD 0 = true ∧ s.dev.on F.AUD_TRIG_CMD_GO = false ∧
      paths ≠ 0 ∧ (∀ x ∈ bitsOf paths.toNat 8, s.dev.audBad 1 x = false) ∧ l = s.dev.audLead 1 (bitsOf paths.toNat 8) ∧ n = (if attime
      then mediaFrom (256 * ((s.dev.rd F.AUD_TRIG_S_LO_S + 2 ^ 32 * s.dev.rd F.AUD_TRIG_S_HI_S) * 1000000000 + s.dev.rd
      F.AUD_TRIG_NS_VALUE)) else mediaFrom (s.dev.hubTime + 25600000) + l) ∧ mediaFrom (s.dev.hubTime + 25600000) + l ≤ n) ∧
    (∃ s : State, ∃ attime : Bool, ∃ paths : BitVec 8, ∃ n l : ℕ, s.awake ∧ s.dev.reaches .AUD 0 = true ∧ s.dev.on F.AUD_TRIG_CMD_GO = false ∧
      paths ≠ 0 ∧ (∀ x ∈ bitsOf paths.toNat 8, s.dev.audBad 2 x = false) ∧ l = s.dev.audLead 2 (bitsOf paths.toNat 8) ∧ n = (if attime
      then mediaFrom (256 * ((s.dev.rd F.AUD_TRIG_S_LO_S + 2 ^ 32 * s.dev.rd F.AUD_TRIG_S_HI_S) * 1000000000 + s.dev.rd
      F.AUD_TRIG_NS_VALUE)) else mediaFrom (s.dev.hubTime + 25600000) + l) ∧ mediaFrom (s.dev.hubTime + 25600000) + l ≤ n) ∧
    (∃ s : State, s.awake ∧ s.dev.hub.lost = true) ∧
    (∃ s : State, ∃ a : Fin 8, s.awake ∧ (s.dev.audEn a = false ∨ s.dev.audAsrc a = false ∨ s.dev.hub.lost = true)) ∧
    (∃ s : State, ∃ a : Fin 8, ∃ lock : Bool, ∃ ratio : BitVec 24, ∃ held : Bool, s.awake ∧ s.dev.audEn a = true ∧ s.dev.audAsrc a = true ∧
      s.dev.hub.lost = false ∧ held = (lock && decide (2 ^ 21 ≤ ratio.toNat) && decide (ratio.toNat ≤ 2 ^ 23))) ∧
    (∃ s : State, ∃ k : Fin 4, s.awake ∧ s.dev.reaches .AUD 0 = true ∧ s.dev.on F.AUD_PCFG_EN 0 k = false) :=
  ⟨⟨st [(setReach · .AUD 0), (·.wr F.AUD_TRIG_CMD_GO 1)], by decide +kernel⟩,
   ⟨st [(setReach · .AUD 0), (·.wr F.AUD_TRIG_CMD_GO 0)], 0, by decide +kernel⟩,
   ⟨st [(setReach · .AUD 0), (·.wr F.AUD_TRIG_CMD_GO 0)], 32, [5], by decide +kernel⟩,
   ⟨st [(setReach · .AUD 0), (·.wr F.AUD_TRIG_CMD_GO 0)], 32, [5], by decide +kernel⟩,
   ⟨st [(·.wr F.AUD_PCFG_EN 1 0 0), (·.wr F.AUD_XCFG_EN 1 0 0 0), (·.wr F.AUD_XSTAT_STATE 1 0 0 0), (setReach · .AUD 0), (·.wr
     F.AUD_TRIG_CMD_GO 0)], true, 1, 0, 0, by decide +kernel⟩,
   ⟨st [(·.wr F.AUD_PCFG_EN 1 0 0), (·.wr F.AUD_XCFG_EN 1 0 0 0), (·.wr F.AUD_XSTAT_STATE 3 0 0 0), (setReach · .AUD 0), (·.wr
     F.AUD_TRIG_CMD_GO 0)], true, 1, 0, 48, by decide +kernel⟩,
   ⟨st [(·.wr F.AUD_PCFG_EN 1 0 0), (·.wr F.AUD_XCFG_EN 1 0 0 0), (·.wr F.AUD_XSTAT_STATE 1 0 0 0), (setReach · .AUD 0), (·.wr
     F.AUD_TRIG_CMD_GO 0)], false, 1, 5, 0, by decide +kernel⟩,
   ⟨st [(·.wr F.AUD_PCFG_EN 1 0 0), (·.wr F.AUD_XCFG_EN 1 0 0 0), (·.wr F.AUD_XSTAT_STATE 3 0 0 0), (setReach · .AUD 0), (·.wr
     F.AUD_TRIG_CMD_GO 0)], false, 1, 53, 48, by decide +kernel⟩,
   ⟨st [fun d => { d with hub.lost := true }], by decide +kernel⟩,
   ⟨st [(setAudEn · false 1)], 1, by decide +kernel⟩,
   ⟨st [(setAudEn · true 0), (setAudAsrc · true 0)], 0, true, 3609752, true, by decide +kernel⟩,
   ⟨st [(setReach · .AUD 0), (·.wr F.AUD_PCFG_EN 0 0 3)], 3, by decide +kernel⟩⟩

theorem wit_AudioPorts_2 :
    (∃ s : State, ∃ k : Fin 4, s.awake ∧ s.dev.reaches .AUD 0 = true ∧ s.dev.on F.AUD_PCFG_EN 0 k = true) :=
  ⟨st [(setReach · .AUD 0), (·.wr F.AUD_PCFG_EN 1 0 3)], 3, by decide +kernel⟩

theorem wit_Converters_1 :
    (∃ s : State, ∃ x : Fin 2, s.awake ∧ (s.dev.on F.SENSE_ADC_CFG_EN 0 x = false ∨ s.dev.hub.lost = true) ∧ s.dev.reaches .SENSE 0 = true) ∧
    (∃ s : State, ∃ x : Fin 2, s.awake ∧ (s.dev.on F.SENSE_ADC_CFG_EN 0 x = false ∨ s.dev.hub.lost = true) ∧ s.dev.rd F.SENSE_ADC_CFG_TSRC 0 x
      = 1) ∧
    (∃ s : State, ∃ x : Fin 2, s.awake ∧ s.dev.on F.SENSE_ADC_CFG_EN 0 x = true ∧ s.dev.hub.lost = false ∧ s.dev.on F.SENSE_ADC_STAT_BUSY 0 x
      = true ∧ s.dev.cnt C.SENSE_ADC_CNT 0 3 < 2 ^ 48 ∧ s.dev.reaches .SENSE 0 = true) ∧
    (∃ s : State, ∃ x : Fin 2, s.awake ∧ s.dev.on F.SENSE_ADC_CFG_EN 0 x = true ∧ s.dev.hub.lost = false ∧ s.dev.on F.SENSE_ADC_STAT_BUSY 0 x
      = true ∧ s.dev.cnt C.SENSE_ADC_CNT 0 3 < 2 ^ 48 ∧ s.dev.rd F.SENSE_ADC_CFG_TSRC 0 x = 1) ∧
    (∃ s : State, ∃ x : Fin 2, s.awake ∧ s.dev.on F.SENSE_ADC_CFG_EN 0 x = true ∧ s.dev.hub.lost = false ∧ s.dev.on F.SENSE_ADC_STAT_BUSY 0 x
      = false ∧ s.dev.reaches .SENSE 0 = true) ∧
    (∃ s : State, ∃ x : Fin 2, s.awake ∧ s.dev.on F.SENSE_ADC_CFG_EN 0 x = true ∧ s.dev.hub.lost = false ∧ s.dev.on F.SENSE_ADC_STAT_BUSY 0 x
      = false ∧ s.dev.rd F.SENSE_ADC_CFG_TSRC 0 x = 1) ∧
    (∃ s : State, ∃ x : Fin 2, s.awake ∧ s.dev.rd F.SENSE_ADC_CFG_TSRC 0 x ≠ 1) ∧
    (∃ s : State, ∃ x : Fin 2, s.awake ∧ ((s.dev.adc x).delay = false ∨ s.dev.hub.lost = true)) ∧
    (∃ s : State, ∃ x : Fin 2, s.awake ∧ (s.dev.adc x).delay = true ∧ s.dev.hub.lost = false) ∧
    (∃ s : State, ∃ x : Fin 2, s.awake ∧ (s.dev.hub.lost = true ∨ (s.dev.adc x).entry = none ∧ s.dev.hub.sense.cal = none)) ∧
    (∃ s : State, ∃ x : Fin 2, ∃ i : ℕ, ∃ a : Adc, ∃ c r : ℕ, ∃ y : AdcCh, s.awake ∧ s.dev.hub.lost = false ∧ a = s.dev.adc x ∧ a.entry = some
      i ∧ a.cal = false ∧ a.ch = c ∧ c < 24 ∧ a.rng = r ∧ r < 4 ∧ s.dev.adcCh c = y ∧ s.dev.cnt C.SENSE_ADC_CNT 0 0 < 2 ^ 48) ∧
    (∃ s : State, ∃ x : Fin 2, ∃ k : AdcCal, s.awake ∧ s.dev.hub.lost = false ∧ s.dev.hub.sense.cal = some k ∧ k.n < 256 ∧ (s.dev.adc x).entry
      = none ∧ (s.dev.adc x).delay = false ∧ s.dev.calConv (s.dev.rd F.SENSE_ADC_CAL_CH) = x.val) :=
  ⟨⟨st [fun d => { d with hub.lost := true }, (setReach · .SENSE 0)], 1, by decide +kernel⟩,
   ⟨st [fun d => { d with hub.lost := true }, (·.wr F.SENSE_ADC_CFG_TSRC 1 0 1)], 1, by decide +kernel⟩,
   ⟨st [(·.wr F.SENSE_ADC_CFG_EN 1 0 1), (·.wr F.SENSE_ADC_STAT_BUSY 1 0 1), (setReach · .SENSE 0)], 1, by decide +kernel⟩,
   ⟨st [(·.wr F.SENSE_ADC_CFG_EN 1 0 1), (·.wr F.SENSE_ADC_STAT_BUSY 1 0 1), (·.wr F.SENSE_ADC_CFG_TSRC 1 0 1)], 1, by decide +kernel⟩,
   ⟨st [(·.wr F.SENSE_ADC_CFG_EN 1 0 1), (setReach · .SENSE 0)], 1, by decide +kernel⟩,
   ⟨st [(·.wr F.SENSE_ADC_CFG_EN 1 0 1), (·.wr F.SENSE_ADC_CFG_TSRC 1 0 1)], 1, by decide +kernel⟩,
   ⟨st [(·.wr F.SENSE_ADC_CFG_TSRC 3 0 1)], 1, by decide +kernel⟩,
   ⟨st [fun d => { d with hub.lost := true }], 1, by decide +kernel⟩,
   ⟨st [fun d => modAdc d 1 fun x => { x with delay := true }], 1, by decide +kernel⟩,
   ⟨st [fun d => { d with hub.lost := true }], 0, by decide +kernel⟩,
   ⟨st [fun d => modAdc d 1 fun a => { a with entry := some 0, cal := false, ch := 3, rng := 2, owd := true, auto_ := true }], 1, 0,
     { fifo := [], delay := false, entry := some 0, ch := 3, rng := 2, owd := true, auto_ := true, dncnt := 0, cal := false, wrote := false },
     3, 2, { rng := none, down := 0, seq := 0, clipped := false, open_ := false }, by decide +kernel⟩,
   ⟨st [fun d => { d with hub.sense.cal := some (({ sum := 0, n := 0, open_ := true, clipped := false } : AdcCal)) }, fun d => modAdc d 0 fun
     x => { x with entry := none }, fun d => modAdc d 0 fun x => { x with delay := false }], 0,
     { sum := 0, n := 0, open_ := true, clipped := false }, by decide +kernel⟩⟩

theorem wit_Converters_2 :
    (∃ s : State, ∃ x : Fin 2, s.awake ∧ s.dev.reaches .SENSE 0 = true ∧ (s.dev.adc x).fifo = []) ∧
    (∃ s : State, ∃ x : Fin 2, ∃ w : ℕ, ∃ q : List ℕ, s.awake ∧ s.dev.reaches .SENSE 0 = true ∧ (s.dev.adc x).fifo = w :: q) ∧
    (∃ s : State, s.awake ∧ s.dev.reaches .SENSE 0 = true ∧ s.dev.on F.SENSE_ADC_CAL_GO = true) ∧
    (∃ s : State, ∃ ch : BitVec 5, s.awake ∧ s.dev.reaches .SENSE 0 = true ∧ s.dev.on F.SENSE_ADC_CAL_GO = false ∧ 23 < ch.toNat ∧
      s.dev.hub.lost = false) ∧
    (∃ s : State, ∃ ch : BitVec 5, s.awake ∧ s.dev.reaches .SENSE 0 = true ∧ s.dev.on F.SENSE_ADC_CAL_GO = false ∧ ch.toNat ≤ 23 ∧ ch.toNat ∉
      s.dev.adcList 0 ∧ ch.toNat ∉ s.dev.adcList 1 ∧ s.dev.on F.SENSE_ADC_CFG_EN 0 0 = false ∧ s.dev.hub.lost = false) ∧
    (∃ s : State, ∃ ch : BitVec 5, s.awake ∧ s.dev.reaches .SENSE 0 = true ∧ s.dev.on F.SENSE_ADC_CAL_GO = false ∧ ch.toNat ≤ 23 ∧ (ch.toNat ∈
      s.dev.adcList 0 ∨ ch.toNat ∈ s.dev.adcList 1 ∨ s.dev.on F.SENSE_ADC_CFG_EN 0 0 = true)) ∧
    (∃ s : State, s.awake ∧ (s.dev.hub.lost = true ∨ s.dev.hub.sense.cal = none ∨ ∃ k, s.dev.hub.sense.cal = some k ∧ k.n < 256)) ∧
    (∃ s : State, ∃ k : AdcCal, ∃ c r : ℕ, s.awake ∧ s.dev.hub.lost = false ∧ s.dev.hub.sense.cal = some k ∧ 256 ≤ k.n ∧ s.dev.rd
      F.SENSE_ADC_CAL_CH = c ∧ s.dev.rd F.SENSE_ADC_CAL_RNG = r) ∧
    (∃ s : State, ∃ p : Fin 8, ∃ low high : Option Bool, ∃ fresh : Bool, s.awake ∧ low = (if s.dev.on F.SENSE_PWM_CFG_EN 0 p then some
      (s.dev.on F.SENSE_PWM_CFG_POL 0 p) else none) ∧ high = (if s.dev.on F.SENSE_PWM_CFG_EN 0 p then some (!s.dev.on F.SENSE_PWM_CFG_POL
      0 p) else none) ∧ fresh = decide (0 < s.dev.rd F.SENSE_PWM_DUTY_VALUE 0 p) ∧ s.dev.on F.SENSE_PWM_CFG_ONESHOT 0 p = true) ∧
    (∃ s : State, ∃ p : Fin 8, ∃ low high : Option Bool, ∃ fresh : Bool, s.awake ∧ low = (if s.dev.on F.SENSE_PWM_CFG_EN 0 p then some
      (s.dev.on F.SENSE_PWM_CFG_POL 0 p) else none) ∧ high = (if s.dev.on F.SENSE_PWM_CFG_EN 0 p then some (!s.dev.on F.SENSE_PWM_CFG_POL
      0 p) else none) ∧ fresh = decide (0 < s.dev.rd F.SENSE_PWM_DUTY_VALUE 0 p) ∧ s.dev.on F.SENSE_PWM_CFG_ONESHOT 0 p = false) ∧
    (∃ s : State, ∃ p : Fin 8, ∃ low high : Option Bool, ∃ fresh : Bool, s.awake ∧ low = (if s.dev.on F.SENSE_PWM_CFG_EN 0 p then some
      (s.dev.on F.SENSE_PWM_CFG_POL 0 p) else none) ∧ high = (if s.dev.on F.SENSE_PWM_CFG_EN 0 p then some (!s.dev.on F.SENSE_PWM_CFG_POL
      0 p) else none) ∧ fresh = decide (0 < s.dev.rd F.SENSE_PWM_DUTY_VALUE 0 p) ∧ s.dev.reaches .SENSE 0 = true) ∧
    (∃ s : State, ∃ p : Fin 8, ∃ low high : Option Bool, ∃ fresh : Bool, s.awake ∧ low = (if s.dev.on F.SENSE_PWM_CFG_EN 0 p then some
      (s.dev.on F.SENSE_PWM_CFG_POL 0 p) else none) ∧ high = (if s.dev.on F.SENSE_PWM_CFG_EN 0 p then some (!s.dev.on F.SENSE_PWM_CFG_POL
      0 p) else none) ∧ fresh = decide (0 < s.dev.rd F.SENSE_PWM_DUTY_VALUE 0 p) ∧ ((s.dev.pwm p).active = false ∨ (s.dev.pwm p).per ≤
      (s.dev.pwm p).duty)) :=
  ⟨⟨st [(setReach · .SENSE 0), fun d => modAdc d 1 fun x => { x with fifo := [] }], 1, by decide +kernel⟩,
   ⟨st [(setReach · .SENSE 0), fun d => modAdc d 1 fun x => { x with fifo := 1 :: ([]) }], 1, 1, [], by decide +kernel⟩,
   ⟨st [(setReach · .SENSE 0), (·.wr F.SENSE_ADC_CAL_GO 1)], by decide +kernel⟩,
   ⟨st [(setReach · .SENSE 0), (·.wr F.SENSE_ADC_CAL_GO 0)], 30, by decide +kernel⟩,
   ⟨st [(setReach · .SENSE 0), (·.wr F.SENSE_ADC_CAL_GO 0), (·.wr F.SENSE_ADC_CFG_EN 0 0 0)], 19, by decide +kernel⟩,
   ⟨st [(setReach · .SENSE 0), (·.wr F.SENSE_ADC_CAL_GO 0)], 0, by decide +kernel⟩,
   ⟨State.reset, by decide +kernel⟩,
   ⟨st [fun d => { d with hub.sense.cal := some (({ sum := 0, n := 425, open_ := true, clipped := false } : AdcCal)) }],
     { sum := 0, n := 425, open_ := true, clipped := false }, 0, 0, by decide +kernel⟩,
   ⟨st [(·.wr F.SENSE_PWM_CFG_ONESHOT 1 0 3)], 3, none, none, false, by decide +kernel⟩,
   ⟨State.reset, 3, none, none, false, by decide +kernel⟩,
   ⟨st [(setReach · .SENSE 0)], 3, none, none, false, by decide +kernel⟩,
   ⟨State.reset, 3, none, none, false, by decide +kernel⟩⟩

theorem wit_Converters_3 :
    (∃ s : State, ∃ p : Fin 8, ∃ low high : Option Bool, ∃ fresh : Bool, s.awake ∧ low = (if s.dev.on F.SENSE_PWM_CFG_EN 0 p then some
      (s.dev.on F.SENSE_PWM_CFG_POL 0 p) else none) ∧ high = (if s.dev.on F.SENSE_PWM_CFG_EN 0 p then some (!s.dev.on F.SENSE_PWM_CFG_POL
      0 p) else none) ∧ fresh = decide (0 < s.dev.rd F.SENSE_PWM_DUTY_VALUE 0 p) ∧ (s.dev.pwm p).active = true ∧ (s.dev.pwm p).duty <
      (s.dev.pwm p).per) :=
  ⟨st [fun d => modPwm d 3 fun x => { x with active := true }], 3, none, none, false, by decide +kernel⟩

theorem wit_OutputsAndControls_1 :
    (∃ s : State, ∃ j : Fin 12, s.awake ∧ s.dev.reaches .SENSE 0 = true ∧ s.dev.swState j ≠ 0) ∧
    (∃ s : State, ∃ j : Fin 12, s.awake ∧ s.dev.reaches .SENSE 0 = true ∧ s.dev.swState j = 0) ∧
    (∃ s : State, ∃ j : Fin 12, s.awake ∧ s.dev.reaches .SENSE 0 = true ∧ s.dev.on F.SENSE_SW_CFG_EN 0 j = false) ∧
    (∃ s : State, ∃ j : Fin 12, s.awake ∧ s.dev.reaches .SENSE 0 = true ∧ s.dev.on F.SENSE_SW_CFG_EN 0 j = true) ∧
    (∃ s : State, ∃ j : Fin 12, s.awake ∧ s.dev.swState j ≠ 1) ∧
    (∃ s : State, ∃ j : Fin 12, s.awake ∧ s.dev.swState j = 1) ∧
    (∃ s : State, ∃ j : Fin 12, ∃ lim : ℕ, s.awake ∧ lim = (if s.dev.swState j = 1 then (s.dev.swLimits j).2.1 else (s.dev.swLimits j).1)) ∧
    (∃ s : State, s.awake ∧ (s.dev.on F.SENSE_BO_CFG_EN = false ∨ s.dev.on F.SENSE_BO_STAT_LOW = true)) ∧
    (∃ s : State, s.awake ∧ s.dev.on F.SENSE_BO_CFG_EN = true ∧ s.dev.on F.SENSE_BO_STAT_LOW = false) ∧
    (∃ s : State, ∃ high : ℕ, s.awake ∧ high = s.dev.rd F.SENSE_BO_CFG_BO + s.dev.rd F.SENSE_BO_CFG_HYST ∧ s.dev.on F.SENSE_BO_STAT_LOW =
      true) ∧
    (∃ s : State, s.awake ∧ (s.dev.on F.OPIO_KEY_CFG_EN = false ∨ s.dev.hub.lost = true)) ∧
    (∃ s : State, s.awake ∧ s.dev.on F.OPIO_KEY_CFG_EN = true ∧ s.dev.hub.lost = false) :=
  ⟨⟨st [(setReach · .SENSE 0), (·.wr F.SENSE_SW_STAT_STATE 4 0 3)], 3, by decide +kernel⟩,
   ⟨st [(setReach · .SENSE 0), (·.wr F.SENSE_SW_STAT_STATE 0 0 3)], 3, by decide +kernel⟩,
   ⟨st [(setReach · .SENSE 0), (·.wr F.SENSE_SW_CFG_EN 0 0 3)], 3, by decide +kernel⟩,
   ⟨st [(setReach · .SENSE 0), (·.wr F.SENSE_SW_CFG_EN 1 0 3)], 3, by decide +kernel⟩,
   ⟨st [(·.wr F.SENSE_SW_STAT_STATE 5 0 3)], 3, by decide +kernel⟩,
   ⟨st [(·.wr F.SENSE_SW_STAT_STATE 1 0 3)], 3, by decide +kernel⟩,
   ⟨State.reset, 9, 100, by decide +kernel⟩,
   ⟨State.reset, by decide +kernel⟩,
   ⟨st [(·.wr F.SENSE_BO_CFG_EN 1)], by decide +kernel⟩,
   ⟨st [(·.wr F.SENSE_BO_STAT_LOW 1)], 1050, by decide +kernel⟩,
   ⟨State.reset, by decide +kernel⟩,
   ⟨st [(·.wr F.OPIO_KEY_CFG_EN 1)], by decide +kernel⟩⟩

theorem wit_OutputsAndControls_2 :
    (∃ s : State, s.awake ∧ s.dev.reaches .OPIO 0 = true ∧ s.dev.hub.sense.keyFifo = []) ∧
    (∃ s : State, ∃ w ts : ℕ, ∃ q : List (ℕ × ℕ), s.awake ∧ s.dev.reaches .OPIO 0 = true ∧ s.dev.hub.sense.keyFifo = (w, ts) :: q) ∧
    (∃ s : State, ∃ e : Fin 4, ∃ ns : ℕ, s.awake ∧ (s.dev.hub.lost = true ∨ ns < 100 * s.dev.rd F.OPIO_ENC_CFG_FILT 0 e)) ∧
    (∃ s : State, ∃ e : Fin 4, ∃ ns : ℕ, ∃ a0 b0 : Bool, s.awake ∧ s.dev.hub.lost = false ∧ 100 * s.dev.rd F.OPIO_ENC_CFG_FILT 0 e ≤ ns ∧
      Tab.get (false, false) s.dev.hub.sense.encIn e = (a0, b0)) ∧
    (∃ s : State, ∃ k : Fin 16, s.awake ∧ (s.dev.on F.OPIO_TCH_CFG_EN = false ∨ bit (s.dev.rd F.OPIO_TCH_EN_MASK) k = false ∨ s.dev.hub.lost =
      true)) ∧
    (∃ s : State, ∃ k : Fin 16, ∃ count : BitVec 16, ∃ delta thresh : Int, s.awake ∧ s.dev.on F.OPIO_TCH_CFG_EN = true ∧ bit (s.dev.rd
      F.OPIO_TCH_EN_MASK) k = true ∧ s.dev.hub.lost = false ∧ s.dev.rd F.OPIO_TCH_RAW_BASE 0 k < 2 ^ 16 ∧ delta = (count.toNat : Int) -
      (s.dev.rd F.OPIO_TCH_RAW_BASE 0 k : Nat) ∧ thresh = (s.dev.rd F.OPIO_TCH_CFG_THRESH : Nat)) :=
  ⟨⟨st [(setReach · .OPIO 0), fun d => { d with hub.sense.keyFifo := [] }], by decide +kernel⟩,
   ⟨st [(setReach · .OPIO 0), fun d => { d with hub.sense.keyFifo := (1, 0) :: ([]) }], 1, 0, [], by decide +kernel⟩,
   ⟨State.reset, 0, 1, by decide +kernel⟩,
   ⟨State.reset, 2, 4521, false, false, by decide +kernel⟩,
   ⟨State.reset, 0, by decide +kernel⟩,
   ⟨st [(·.wr F.OPIO_TCH_CFG_EN 1), (·.wr F.OPIO_TCH_RAW_BASE 7099 0 1), (·.wr F.OPIO_TCH_EN_MASK 65535)], 1, 11930, 4831, 64,
     by decide +kernel⟩⟩

theorem wit_SelfTest :
    (∃ s : State, s.awake ∧ s.dev.reaches .BIST 0 = true ∧ s.dev.on F.BIST_STAT_BUSY = true) ∧
    (∃ s : State, ∃ w : BitVec 31, ∃ cls p idx : ℕ, s.awake ∧ s.dev.reaches .BIST 0 = true ∧ s.dev.on F.BIST_STAT_BUSY = false ∧ cls = slice
      w.toNat 27 24 ∧ p = slice w.toNat 23 22 ∧ idx = slice w.toNat 6 0 ∧ s.dev.bistCheck cls p idx (slice w.toNat 29 28) (bit w.toNat 30)
      = none) ∧
    (∃ s : State, ∃ w : BitVec 31, ∃ cls p idx r : ℕ, s.awake ∧ s.dev.reaches .BIST 0 = true ∧ s.dev.on F.BIST_STAT_BUSY = false ∧ cls = slice
      w.toNat 27 24 ∧ p = slice w.toNat 23 22 ∧ idx = slice w.toNat 6 0 ∧ s.dev.bistCheck cls p idx (slice w.toNat 29 28) (bit w.toNat 30)
      = some r ∧ s.dev.hub.lost = false) ∧
    (∃ s : State, s.awake ∧ (s.dev.hub.lost = true ∨ s.dev.on F.BIST_STAT_BUSY = false ∨ s.dev.rd F.BIST_STAT_PHASE ≠ 1 ∨ s.dev.rd
      F.HUB_GOV_STAT_VCMD < 750 ∨ s.dev.rd F.HUB_GOV_STAT_STATE = 1 ∨ s.dev.rd F.HUB_GOV_STAT_STATE = 3)) ∧
    (∃ s : State, s.awake ∧ s.dev.hub.lost = false ∧ s.dev.on F.BIST_STAT_BUSY = true ∧ s.dev.rd F.BIST_STAT_PHASE = 1 ∧ 750 ≤ s.dev.rd
      F.HUB_GOV_STAT_VCMD ∧ s.dev.rd F.HUB_GOV_STAT_STATE ≠ 1 ∧ s.dev.rd F.HUB_GOV_STAT_STATE ≠ 3) ∧
    (∃ s : State, s.awake ∧ (s.dev.hub.lost = true ∨ s.dev.on F.BIST_STAT_BUSY = false ∨ s.dev.rd F.BIST_STAT_PHASE < 2)) ∧
    (∃ s : State, ∃ mem : Bool, ∃ sig : BitVec 64, ∃ cls : ℕ, ∃ pass : Bool, s.awake ∧ s.dev.hub.lost = false ∧ s.dev.on F.BIST_STAT_BUSY =
      true ∧ 2 ≤ s.dev.rd F.BIST_STAT_PHASE ∧ cls = s.dev.rd F.BIST_CMD_CLASS ∧ pass = (mem && decide (sig = Config.bistGolden cls
      (s.dev.rd F.BIST_CMD_LEN)))) :=
  ⟨⟨st [(setReach · .BIST 0), (·.wr F.BIST_STAT_BUSY 1)], by decide +kernel⟩,
   ⟨st [(·.wr F.HUB_LCS_STATE 3), (·.wr F.HUB_GOV_STAT_VCMD 800), (setReach · .BIST 0), (·.wr F.BIST_STAT_BUSY 0)], 150994944, 9, 0, 0,
     by decide +kernel⟩,
   ⟨st [(setReach · .BIST 0), (·.wr F.BIST_STAT_BUSY 0)], 67108872, 4, 0, 8, 8, by decide +kernel⟩,
   ⟨State.reset, by decide +kernel⟩,
   ⟨st [(·.wr F.BIST_STAT_BUSY 1), (·.wr F.BIST_STAT_PHASE 1), (·.wr F.HUB_GOV_STAT_VCMD 800), (·.wr F.HUB_GOV_STAT_STATE 0)],
     by decide +kernel⟩,
   ⟨State.reset, by decide +kernel⟩,
   ⟨st [(·.wr F.BIST_STAT_BUSY 1), (·.wr F.BIST_STAT_PHASE 3)], false, 17212270539507, 0, false, by decide +kernel⟩⟩

theorem wit_Security :
    (∃ s : State, s.awake ∧ s.dev.reaches .SECU 0 = true ∧ s.dev.on F.SECU_CMD_GO = false ∧ s.dev.bistHolds 11 0 0 = false) ∧
    (∃ s : State, s.awake ∧ s.dev.reaches .SECU 0 = true ∧ (s.dev.on F.SECU_CMD_GO = true ∨ s.dev.bistHolds 11 0 0 = true)) ∧
    (∃ s : State, s.awake ∧ (s.dev.hub.lost = true ∨ s.dev.on F.SECU_RES_BUSY = false)) ∧
    (∃ s : State, ∃ op k src arg : ℕ, s.awake ∧ s.dev.hub.lost = false ∧ s.dev.on F.SECU_RES_BUSY = true ∧ op = s.dev.rd F.SECU_CMD_OP ∧ k =
      s.dev.rd F.SECU_CMD_SLOT ∧ src = s.dev.rd F.SECU_CMD_SRCSLOT ∧ arg = s.dev.rd F.SECU_CMD_ARG) ∧
    (∃ s : State, ∃ past : Bool, s.awake ∧ (s.dev.hub.lost = true ∨ (if past then s.dev.rd F.SECU_STAT_DRBG ≠ 2 else s.dev.rd F.SECU_STAT_DRBG
      ≠ 1 ∨ s.dev.hub.secu.requests < 2 ^ 20))) ∧
    (∃ s : State, s.awake ∧ s.dev.hub.lost = false ∧ s.dev.rd F.SECU_STAT_DRBG = 1 ∧ 2 ^ 20 ≤ s.dev.hub.secu.requests) ∧
    (∃ s : State, s.awake ∧ s.dev.hub.lost = false ∧ s.dev.rd F.SECU_STAT_DRBG = 2) :=
  ⟨⟨st [(setReach · .SECU 0), (·.wr F.SECU_CMD_GO 0), (setBistHolds · false 11 0 0)], by decide +kernel⟩,
   ⟨st [(setReach · .SECU 0), (·.wr F.SECU_CMD_GO 1)], by decide +kernel⟩,
   ⟨State.reset, by decide +kernel⟩,
   ⟨st [(·.wr F.SECU_RES_BUSY 1)], 0, 0, 0, 0, by decide +kernel⟩,
   ⟨State.reset, true, by decide +kernel⟩,
   ⟨st [fun d => { d with hub.secu.requests := 2 ^ 20 }], by decide +kernel⟩,
   ⟨st [(·.wr F.SECU_STAT_DRBG 2)], by decide +kernel⟩⟩

theorem wit_PaceContract :
    (∃ s : State, ∃ p : Pipe, s.awake ∧ s.dev.powered p = false) ∧
    (∃ s : State, ∃ p : Pipe, s.awake ∧ s.dev.powered p = true) ∧
    (∃ s : State, ∃ u : Unit5, ∃ res : Fin 16, ∃ rank : Fin 6, s.awake ∧ (s.dev.yielding fun y => y.origin == u.val && y.res == res.val &&
      decide (y.yrank < rank.val)) = true) ∧
    (∃ s : State, ∃ u : Unit5, ∃ res : Fin 16, ∃ rank : Fin 6, s.awake ∧ (s.dev.yielding fun y => y.origin == u.val && y.res == res.val &&
      decide (y.yrank < rank.val)) = false ∧ (res ≠ 2 ∨ u = 4) ∧ (res ≠ 0 ∨ rank < 3)) ∧
    (∃ s : State, ∃ p : Pipe, ∃ rank : Fin 6, s.awake ∧ (s.dev.yielding fun y => y.origin == p.val && y.res == 2 && decide (y.yrank <
      rank.val)) = false) ∧
    (∃ s : State, ∃ p : Pipe, ∃ stage : Fin 4, ∃ inst : BitVec 16, s.awake ∧ (s.dev.pipeRuns p = false ∨ (s.dev.pipe p).recp.latched = true ∨
      s.dev.stageHolds p stage inst.toNat = false)) ∧
    (∃ s : State, ∃ p : Pipe, ∃ stage : Fin 4, ∃ inst : BitVec 16, ∃ latch : Bool, s.awake ∧ s.dev.pipeRuns p = true ∧ (s.dev.pipe
      p).recp.latched = false ∧ s.dev.stageHolds p stage inst.toNat = true ∧ latch = ((s.dev.pipe p).recp.seen && (s.dev.pipe
      p).recp.stage == stage.val && (s.dev.pipe p).recp.inst == inst.toNat && decide (cSince (s.dev.pipe p).recp.at_ s.dev.c < cOfNs
      1000000000)) ∧ s.dev.cnt C.PCTL_STALL_CNT p < 2 ^ 48) ∧
    (∃ s : State, ∃ p : Pipe, s.awake ∧ ((s.dev.pipe p).recp.stopped = false ∨ (s.dev.pipe p).recp.latched = true)) ∧
    (∃ s : State, ∃ p : Pipe, s.awake ∧ (s.dev.pipe p).recp.stopped = true ∧ (s.dev.pipe p).recp.latched = false) ∧
    (∃ s : State, ∃ p : Pipe, s.awake ∧ (s.dev.pipe p).recp.flushed = false) ∧
    (∃ s : State, ∃ p : Pipe, s.awake ∧ (s.dev.pipe p).recp.flushed = true) :=
  ⟨⟨st [(setPowered · false 0)], 0, by decide +kernel⟩,
   ⟨st [(setPowered · true 0)], 0, by decide +kernel⟩,
   ⟨st [fun d => { d with router.yields := [⟨0, 1, 1, 1, 0, 0, 0, 0⟩] }], 0, 1, 3, by decide +kernel⟩,
   ⟨State.reset, 2, 3, 5, by decide +kernel⟩,
   ⟨State.reset, 3, 5, by decide +kernel⟩,
   ⟨State.reset, 3, 3, 0, by decide +kernel⟩,
   ⟨st [(setPipeRuns · true 3), fun d => modPipe d 3 fun x => { x with recp.latched := false }, fun d => modCask d 3 121 fun x =>
     { x with words := [⟨3, true, false, false⟩] }], 3, 2, 121, false, by decide +kernel⟩,
   ⟨st [fun d => modPipe d 3 fun x => { x with recp.latched := true }], 3, by decide +kernel⟩,
   ⟨st [fun d => modPipe d 3 fun x => { x with recp.stopped := true }, fun d => modPipe d 3 fun x => { x with recp.latched := false }], 3,
     by decide +kernel⟩,
   ⟨st [fun d => modPipe d 3 fun x => { x with recp.flushed := false }], 3, by decide +kernel⟩,
   ⟨st [fun d => modPipe d 3 fun x => { x with recp.flushed := true }], 3, by decide +kernel⟩⟩

theorem wit_Governor_1 :
    (∃ s : State, s.awake ∧ s.dev.reaches .HUB_CTL 0 = true) ∧
    (∃ s : State, s.awake ∧ (s.dev.hub.lost = true ∨ s.dev.hub.gov.op = .none ∨ s.dev.hub.gov.waiting = true)) ∧
    (∃ s : State, s.awake ∧ s.dev.hub.lost = false ∧ s.dev.hub.gov.waiting = false ∧ s.dev.hub.gov.cut = false ∧ s.dev.hub.gov.op = .page) ∧
    (∃ s : State, ∃ v : ℕ, s.awake ∧ s.dev.hub.lost = false ∧ s.dev.hub.gov.waiting = false ∧ s.dev.hub.gov.cut = false ∧ s.dev.hub.gov.op =
      .voutMode ∧ v / 32 % 8 = 0) ∧
    (∃ s : State, ∃ v : ℕ, s.awake ∧ s.dev.hub.lost = false ∧ s.dev.hub.gov.waiting = false ∧ s.dev.hub.gov.cut = false ∧ s.dev.hub.gov.op =
      .voutMode ∧ v / 32 % 8 ≠ 0) ∧
    (∃ s : State, s.awake ∧ s.dev.hub.lost = false ∧ s.dev.hub.gov.waiting = false ∧ s.dev.hub.gov.cut = false ∧ s.dev.hub.gov.op =
      .readVoutEntry ∧ s.dev.rd F.HUB_GOV_CTL_MODE = 1) ∧
    (∃ s : State, s.awake ∧ s.dev.hub.lost = false ∧ s.dev.hub.gov.waiting = false ∧ s.dev.hub.gov.cut = false ∧ s.dev.hub.gov.op =
      .voutCommand) ∧
    (∃ s : State, ∃ v : ℕ, s.awake ∧ s.dev.hub.lost = false ∧ s.dev.hub.gov.waiting = false ∧ s.dev.hub.gov.cut = false ∧ s.dev.hub.gov.op =
      .verifyVout ∧ voutOff s.dev.hub.gov.exponent v s.dev.hub.gov.target = false) ∧
    (∃ s : State, ∃ v : ℕ, s.awake ∧ s.dev.hub.lost = false ∧ s.dev.hub.gov.waiting = false ∧ s.dev.hub.gov.cut = false ∧ s.dev.hub.gov.op =
      .verifyVout ∧ voutOff s.dev.hub.gov.exponent v s.dev.hub.gov.target = true ∧ s.dev.hub.gov.tries < 3) ∧
    (∃ s : State, ∃ v : ℕ, s.awake ∧ s.dev.hub.lost = false ∧ s.dev.hub.gov.waiting = false ∧ s.dev.hub.gov.cut = false ∧ s.dev.hub.gov.op =
      .verifyVout ∧ voutOff s.dev.hub.gov.exponent v s.dev.hub.gov.target = true ∧ 3 ≤ s.dev.hub.gov.tries) ∧
    (∃ s : State, ∃ v : ℕ, s.awake ∧ s.dev.hub.lost = false ∧ s.dev.hub.gov.waiting = false ∧ s.dev.hub.gov.cut = false ∧ s.dev.hub.gov.op =
      .verifyStatus ∧ statusFault v = false ∧ s.dev.hub.gov.entry = false ∧ s.dev.rd F.HUB_GOV_CTL_MODE = 1 ∧ s.dev.hub.gov.alert = false) ∧
    (∃ s : State, s.awake ∧ s.dev.hub.lost = false ∧ s.dev.hub.gov.op ≠ .none ∧ s.dev.hub.gov.waiting = false ∧ s.dev.hub.gov.cut = false ∧
      s.dev.hub.gov.tries < 3 ∧ s.dev.on F.HUB_GOV_PMB_PEC = true) :=
  ⟨⟨st [(setReach · .HUB_CTL 0)], by decide +kernel⟩,
   ⟨st [fun d => { d with hub.lost := true }], by decide +kernel⟩,
   ⟨st [fun d => { d with hub.gov.op := .page }], by decide +kernel⟩,
   ⟨st [fun d => { d with hub.gov.op := .voutMode }], 1, by decide +kernel⟩,
   ⟨st [fun d => { d with hub.gov.op := .voutMode }], 49, by decide +kernel⟩,
   ⟨st [fun d => { d with hub.gov.op := .readVoutEntry }, (·.wr F.HUB_GOV_CTL_MODE 1)], by decide +kernel⟩,
   ⟨st [fun d => { d with hub.gov.op := .voutCommand }], by decide +kernel⟩,
   ⟨st [fun d => { d with hub.gov.op := .verifyVout }], 0, by decide +kernel⟩,
   ⟨st [fun d => { d with hub.gov.op := .verifyVout }], 1, by decide +kernel⟩,
   ⟨st [fun d => { d with hub.gov.op := .verifyVout }, fun d => { d with hub.gov.target := 700, hub.gov.tries := 3 }], 0, by decide +kernel⟩,
   ⟨st [fun d => { d with hub.gov.op := .verifyStatus }, (·.wr F.HUB_GOV_CTL_MODE 1)], 1, by decide +kernel⟩,
   ⟨st [fun d => { d with hub.gov.op := .voutCommand, hub.gov.tries := 1 }], by decide +kernel⟩⟩

theorem wit_Governor_2 :
    (∃ s : State, s.awake ∧ s.dev.hub.lost = false ∧ s.dev.hub.gov.op ≠ .none ∧ s.dev.hub.gov.waiting = false ∧ s.dev.hub.gov.cut = false ∧ 3
      ≤ s.dev.hub.gov.tries ∧ s.dev.on F.HUB_GOV_PMB_PEC = true) ∧
    (∃ s : State, s.awake ∧ s.dev.hub.lost = true) ∧
    (∃ s : State, s.awake ∧ (s.dev.hub.lost = true ∨ s.dev.hub.gov.settling = false)) ∧
    (∃ s : State, s.awake ∧ s.dev.hub.lost = false ∧ s.dev.hub.gov.settling = true) ∧
    (∃ s : State, s.awake ∧ (s.dev.hub.lost = true ∨ s.dev.govState = 0 ∨ s.dev.govState = 6)) ∧
    (∃ s : State, s.awake ∧ s.dev.hub.lost = false ∧ s.dev.govState ≠ 0 ∧ s.dev.govState ≠ 6 ∧ (s.dev.hub.gov.op ≠ .none ∨
      s.dev.hub.gov.settling = true)) ∧
    (∃ s : State, s.awake ∧ s.dev.hub.lost = false ∧ s.dev.govState ≠ 0 ∧ s.dev.govState ≠ 6 ∧ s.dev.hub.gov.op = .none ∧
      s.dev.hub.gov.settling = false ∧ s.dev.hub.gov.entry = false ∧ (s.dev.govState = 2 ∨ s.dev.govState = 4 ∨ s.dev.govState = 5)) ∧
    (∃ s : State, ∃ m : Option ℤ, s.awake ∧ s.dev.hub.lost = false ∧ (m = none ∧ s.dev.govMargins = [] ∨ ∃ x ∈ s.dev.govMargins, m = some x.2
      ∧ ∀ y ∈ s.dev.govMargins, x.2 ≤ y.2)) :=
  ⟨⟨st [fun d => { d with hub.gov.op := .voutCommand, hub.gov.tries := 3 }], by decide +kernel⟩,
   ⟨st [fun d => { d with hub.lost := true }], by decide +kernel⟩,
   ⟨st [fun d => { d with hub.lost := true }], by decide +kernel⟩,
   ⟨st [fun d => { d with hub.gov.settling := true }], by decide +kernel⟩,
   ⟨st [fun d => { d with hub.lost := true }], by decide +kernel⟩,
   ⟨st [(·.wr F.HUB_GOV_STAT_STATE 9), fun d => { d with hub.gov.settling := true }], by decide +kernel⟩,
   ⟨st [fun d => { d with hub.gov.op := .none }, (·.wr F.HUB_GOV_STAT_STATE 4)], by decide +kernel⟩,
   ⟨State.reset, none, by decide +kernel⟩⟩

theorem wit_AutonomousRun :
    (∃ s : State, s.awake ∧ s.dev.hub.lost = true) ∧
    (∃ s : State, ∃ p : Pipe, s.awake ∧ s.dev.hub.lost = false ∧ s.dev.powered p = true) ∧
    (∃ s : State, ∃ p : Pipe, s.awake ∧ s.dev.rd F.PCTL_STAT_STATE p ≠ 3) ∧
    (∃ s : State, ∃ p : Pipe, s.awake ∧ s.dev.rd F.PCTL_STAT_STATE p = 3) ∧
    (∃ s : State, ∃ p : Pipe, s.awake ∧ s.dev.inArun p = false) ∧
    (∃ s : State, ∃ p : Pipe, s.awake ∧ s.dev.inArun p = true) :=
  ⟨⟨st [fun d => { d with hub.lost := true }], by decide +kernel⟩,
   ⟨st [(setPowered · true 3)], 3, by decide +kernel⟩,
   ⟨st [(·.wr F.PCTL_STAT_STATE 5 3)], 3, by decide +kernel⟩,
   ⟨st [(·.wr F.PCTL_STAT_STATE 3 3)], 3, by decide +kernel⟩,
   ⟨st [(setInArun · false 3)], 3, by decide +kernel⟩,
   ⟨st [(setInArun · true 3)], 3, by decide +kernel⟩⟩

theorem wit_RegisterFile :
    (∃ s : State, ∃ a : BitVec 28, ∃ o : Nat, s.awake ∧ slotOf a = 0 ∧ offOf a = o ∧ (s.dev.slotOpen o = false ∨ o % 4 ≠ 0 ∨ regAt o = none ∧
      isPairLow o = false ∧ isPairLow (o - 4) = false)) ∧
    (∃ s : State, ∃ a : BitVec 28, ∃ o : Nat, ∃ w : Word, ∃ l : RegLoc, ∃ f : Fld, s.awake ∧ slotOf a = 0 ∧ offOf a = o ∧ o % 4 = 0 ∧
      s.dev.slotOpen o = true ∧ regAt o = some l ∧ l.reg.pairHi = none ∧ l.reg.pairLo = none ∧ (s.dev.dropSnap o).writeReg l w.toNat =
      (s.dev.dropSnap o).wrWord l w.toNat ∧ f ∈ l.reg.info.flds) ∧
    (∃ s : State, ∃ a : BitVec 28, ∃ o : Nat, ∃ l : RegLoc, s.awake ∧ slotOf a = 0 ∧ offOf a = o ∧ o % 4 = 0 ∧ s.dev.slotOpen o = true ∧ regAt
      o = some l ∧ l.reg.pairHi.isSome = true) ∧
    (∃ s : State, ∃ a : BitVec 28, ∃ o : Nat, s.awake ∧ slotOf a = 0 ∧ offOf a = o ∧ (s.dev.slotOpen o = false ∨ o % 4 ≠ 0)) ∧
    (∃ s : State, ∃ a : BitVec 28, ∃ o : Nat, ∃ l : RegLoc, ∃ lo : RegId, ∃ v : ℕ, s.awake ∧ slotOf a = 0 ∧ offOf a = o ∧ o % 4 = 0 ∧
      s.dev.slotOpen o = true ∧ regAt o = some l ∧ l.reg.pairHi = none ∧ l.reg.pairLo = some lo ∧ s.dev.writeOpen l = true ∧ Tab.find
      s.dev.held (o - 4) = some v) ∧
    (∃ s : State, ∃ a : BitVec 28, ∃ o : Nat, s.awake ∧ slotOf a = 0 ∧ offOf a = o ∧ s.dev.slotOpen (o / 4 * 4) = false) ∧
    (∃ s : State, ∃ a : BitVec 28, ∃ o : Nat, s.awake ∧ slotOf a = 0 ∧ offOf a = o ∧ s.dev.slotOpen o = true ∧ o % 4 = 0 ∧ regAt o = none ∧
      trlWindow o = none ∧ statWindowAt o = none ∧ isPairLow (o - 4) = false) ∧
    (∃ s : State, ∃ a : BitVec 28, ∃ o : Nat, s.awake ∧ slotOf a = 0 ∧ offOf a = o ∧ s.dev.slotOpen o = true ∧ o % 4 = 0 ∧ 4 ≤ o ∧ isPairLow o
      = false ∧ isPairLow (o - 4) = true ∧ (∀ l, regAt o = some l → l.reg.pairLo.isSome = true)) ∧
    (∃ s : State, ∃ a : BitVec 28, ∃ o : Nat, ∃ n : Fin 8, s.awake ∧ slotOf a = 0 ∧ offOf a = o ∧ (o % 4 ≠ 0 ∨ n.val ≠ 3 ∧ n.val ≠ 7)) ∧
    (∃ s : State, ∃ a : BitVec 28, ∃ o : Nat, ∃ n : Fin 8, s.awake ∧ slotOf a = 0 ∧ offOf a = o ∧ n.val < 4) ∧
    (∃ s : State, ∃ a : BitVec 28, ∃ o : Nat, s.awake ∧ slotOf a = 0 ∧ offOf a = o ∧ o % 4 = 0 ∧ isPairLow o = true ∧ isPairLow (o + 4) =
      false ∧ s.dev.slotOpen o = true ∧ s.dev.slotOpen (o + 4) = true ∧ (∀ l, regAt (o + 4) = some l → l.reg.pairLo.isSome = true)) :=
  ⟨⟨State.reset, 134, 134, by decide +kernel⟩,
   ⟨st [(setSlotOpen · true 140)], 140, 140, 2336584435, { reg := .HUB_FLASH_LEN, p := 0, i := 0, j := 0 },
     { reg := .HUB_FLASH_LEN, hi := 26, lo := 0, acc := .rw, rst := 0 }, by decide +kernel⟩,
   ⟨st [(setSlotOpen · true 128)], 128, 128, { reg := .HUB_FLASH_SRC_LO, p := 0, i := 0, j := 0 }, by decide +kernel⟩,
   ⟨State.reset, 130, 130, by decide +kernel⟩,
   ⟨st [fun d => { d with held := [(128, 5)] }, (setSlotOpen · true 132), (setWriteOpen · true
     (({ reg := .HUB_FLASH_SRC_HI, p := 0, i := 0, j := 0 } : RegLoc)))], 132, 132, { reg := .HUB_FLASH_SRC_HI, p := 0, i := 0, j := 0 },
     .HUB_FLASH_SRC_LO, 5, by decide +kernel⟩,
   ⟨st [(setSlotOpen · false (524288 / 4 * 4)), (·.wr F.HUB_FALLOW_ACTIVE 1)], 524288, 524288, by decide +kernel⟩,
   ⟨st [(setSlotOpen · true 3932160)], 3932160, 3932160, by decide +kernel⟩,
   ⟨st [(setSlotOpen · true 132)], 132, 132, by decide +kernel⟩,
   ⟨State.reset, 0, 0, 6, by decide +kernel⟩,
   ⟨State.reset, 3, 3, 0, by decide +kernel⟩,
   ⟨st [(setSlotOpen · true 128), (setSlotOpen · true (128 + 4))], 128, 128, by decide +kernel⟩⟩

theorem wit_FollowerSlots :
    (∃ s : State, ∃ x : Fin 4, s.awake ∧ s.dev.ownSlot x = false ∧ s.dev.slotUp x = false) ∧
    (∃ s : State, ∃ x : Fin 4, ∃ off : BitVec 26, s.awake ∧ off.toNat % 4 = 0 ∧ s.dev.ownSlot x = false ∧ s.dev.slotUp x = true) ∧
    (∃ s : State, ∃ off : BitVec 26, s.awake ∧ off.toNat % 4 ≠ 0) ∧
    (∃ s : State, ∃ x : Fin 4, s.awake ∧ s.dev.ownSlot x = true) ∧
    (∃ s : State, ∃ x : Fin 4, ∃ off : BitVec 26, ∃ a : BitVec 28, s.awake ∧ slotOf a = x ∧ offOf a = off.toNat ∧ s.dev.ownSlot x = false ∧
      s.dev.slotUp x = true) ∧
    (∃ s : State, ∃ x : Fin 4, s.awake ∧ (s.dev.slotUp x = false ∨ (Tab.get [] s.dev.hub.qdl.fwd (x.val - 1)).all QItem.isWrite = true)) ∧
    (∃ s : State, ∃ x : Fin 4, ∃ pre : List QItem, ∃ item : QItem, ∃ rest : List QItem, ∃ o : ℕ, s.awake ∧ s.dev.slotUp x = true ∧ Tab.get []
      s.dev.hub.qdl.fwd (x.val - 1) = pre ++ item :: rest ∧ pre.all QItem.isWrite = true ∧ item = .read o) ∧
    (∃ s : State, ∃ x : Fin 4, ∃ pre : List QItem, ∃ item : QItem, ∃ rest : List QItem, ∃ o low : ℕ, s.awake ∧ s.dev.slotUp x = true ∧ Tab.get
      [] s.dev.hub.qdl.fwd (x.val - 1) = pre ++ item :: rest ∧ pre.all QItem.isWrite = true ∧ item = .readHigh o low) ∧
    (∃ s : State, ∃ x : Fin 4, ∃ pre : List QItem, ∃ item : QItem, ∃ rest : List QItem, ∃ o h low : ℕ, ∃ tail : List QItem, s.awake ∧
      s.dev.slotUp x = true ∧ Tab.get [] s.dev.hub.qdl.fwd (x.val - 1) = pre ++ item :: rest ∧ pre.all QItem.isWrite = true ∧ item =
      .readLow o ∧ rest = .readHigh h low :: tail) :=
  ⟨⟨st [(setOwnSlot · false 3), (setSlotUp · false 3)], 3, by decide +kernel⟩,
   ⟨st [(setOwnSlot · false 1), (setSlotUp · true 1)], 1, 544, by decide +kernel⟩,
   ⟨State.reset, 20669407, by decide +kernel⟩,
   ⟨st [(setOwnSlot · true 3)], 3, by decide +kernel⟩,
   ⟨st [(setOwnSlot · false 2), (setSlotUp · true 2)], 2, 54883059, 189100787, by decide +kernel⟩,
   ⟨State.reset, 3, by decide +kernel⟩,
   ⟨st [(setSlotUp · true 3), fun d => { d with hub.qdl.fwd := Tab.put d.hub.qdl.fwd (3 - 1) (([]) ++ (.read 997) :: ([])) }], 3, [], .read
     997, [], 997, by decide +kernel⟩,
   ⟨st [(setSlotUp · true 1), fun d => { d with hub.qdl.fwd := Tab.put d.hub.qdl.fwd (1 - 1) (([]) ++ (.readHigh 718 17) :: ([])) }], 1, [],
     .readHigh 718 17, [], 718, 17, by decide +kernel⟩,
   ⟨st [(setSlotUp · true 3), fun d =>
     { d with hub.qdl.fwd := Tab.put d.hub.qdl.fwd (3 - 1) (([]) ++ (.readLow 201) :: ([.readHigh 69 841])) }], 3, [], .readLow 201,
     [.readHigh 69 841], 201, 69, 841, [], by decide +kernel⟩⟩
end Sys2Proof.Tests
end

section
/-!
The state of reset: what its empty tables read.
-/
namespace Sys2Proof.Machine

/-- A field of a device whose store lists no field reads its reset value (R13). -/
theorem Dev.rd_of_regs_nil {d : Dev} (h : d.regs = []) (f : Fld) (p i j : Nat) : d.rd f p i j = f.rstAt p i := by
  rw [Dev.rd, h]; rfl

theorem reset_rd (f : Fld) (p i j : Nat) : State.reset.dev.rd f p i j = f.rstAt p i := Dev.rd_of_regs_nil rfl f p i j

theorem reset_settled : State.reset.dev.settled := ⟨by decide, by simp [State.reset]⟩

/-- Settles O4: every table of the state of reset is empty, so each field reads its reset value. -/
theorem resetState : Obligations.ResetState := by
  unfold Obligations.ResetState
  refine ⟨rfl, reset_settled, rfl, rfl, rfl, rfl, by decide, reset_rd, by simp [State.reset], rfl, ?_⟩
  simp only [reset_rd]
  decide
end Sys2Proof.Machine
end

section
/-!
How a command of an awake device answers, and the accesses of slots: forwarding to a follower and the completion of forwarded reads.
-/
namespace Sys2Proof.Machine

variable {s : State} {d : Dev}

/-! ### Commands -/

theorem does_of_run {c : Instr} {f : Dev → Dev} {q : Dev → Prop} (h : s.awake) (e : exec c s = run s f) (hq : q (settle (f s.dev))) :
    Does c s q := ⟨f s.dev, by rw [e, run_awake h], hq⟩

theorem exec_of_run {c : Instr} {f : Dev → Dev} {d : Dev} (h : s.awake) (e : exec c s = run s f) (hd : f s.dev = d) :
    exec c s = .next (s.after d) := by rw [e, run_awake h, hd]

/-! ### Slots -/

@[simp] theorem ownSlot_zero : d.ownSlot 0 = true := rfl

theorem slotWrite_own {x o w : Nat} (ho : o % 4 = 0) (hx : d.ownSlot x = true) : d.slotWrite x o w = d.regWrite o w := by
  simp [Dev.slotWrite, ho, hx]
theorem slotWrite_unaligned {x o w : Nat} (ho : o % 4 ≠ 0) : d.slotWrite x o w = d := by simp [Dev.slotWrite, ho]
theorem slotWrite_up {x o w : Nat} (ho : o % 4 = 0) (hx : d.ownSlot x = false) (hu : d.slotUp x = true) :
    d.slotWrite x o w = d.forward x (.write o w) := by simp [Dev.slotWrite, ho, hx, hu]
theorem slotWrite_none {x o w : Nat} (hx : d.ownSlot x = false) (hu : d.slotUp x = false) : d.slotWrite x o w = d := by
  simp [Dev.slotWrite, hx, hu]

theorem slotRead_own {x o : Nat} (hx : d.ownSlot x = true) : d.slotRead x o = d.regRead (o / 4 * 4) := by simp [Dev.slotRead, hx]
theorem slotRead_up {x o : Nat} (hx : d.ownSlot x = false) (hu : d.slotUp x = true) :
    d.slotRead x o = d.forward x (.read (o / 4 * 4)) := by simp [Dev.slotRead, hx, hu]
theorem slotRead_none {x o : Nat} (hx : d.ownSlot x = false) (hu : d.slotUp x = false) :
    d.slotRead x o = { d with rdata := 0xFFFFFFFF } := by simp [Dev.slotRead, hx, hu]

/-- A request that is forwarded stands behind the earlier ones. -/
@[simp] theorem forward_fwd (x : Nat) (i : QItem) :
    Tab.get [] (d.forward x i).hub.qdl.fwd (x - 1) = Tab.get [] d.hub.qdl.fwd (x - 1) ++ [i] := Tab.get_set_same _ _ _ _
@[simp] theorem forward_regs (x : Nat) (i : QItem) : (d.forward x i).regs = d.regs := rfl

theorem slotRead8_up {x o : Nat} (hx : d.ownSlot x = false) (hu : d.slotUp x = true) :
    d.slotRead8 x o = (d.forward x (.readLow (o / 4 * 4))).forward x (.readHigh (o / 4 * 4 + 4) 0) := by simp [Dev.slotRead8, hx, hu]

/-! ### Forwarded reads -/

theorem afterRead_append (w : Nat) {pre : List QItem} (h : pre.all QItem.isWrite = true) (l : List QItem) :
    afterRead w (pre ++ l) = afterRead w l := by
  induction pre with
  | nil => rfl
  | cons i t ih =>
    rw [List.all_cons, Bool.and_eq_true] at h
    cases i with
    | write o v => exact ih h.2
    | _ => exact absurd h.1 (by simp [QItem.isWrite])

theorem afterRead_writes (w : Nat) {l : List QItem} (h : l.all QItem.isWrite = true) : afterRead w l = none := by
  simpa [afterRead] using afterRead_append w h []

/-- What the completion of the oldest read forwarded to follower `x` makes of the device. -/
theorem exec_readDone {x : Fin 4} {w : Word} {rest : List QItem} {data : Option Nat} (ha : s.awake) (hu : s.dev.slotUp x = true)
    (h : afterRead w.toNat (Tab.get [] s.dev.hub.qdl.fwd (x.val - 1)) = some (rest, data)) :
    Does (.qdlForwardReadDone x w) s fun t =>
      t.rdata = data.getD s.dev.rdata ∧ Tab.get [] t.hub.qdl.fwd (x.val - 1) = rest := by
  refine does_of_run ha rfl ?_
  simp only [h, hu]
  exact ⟨rfl, Tab.get_set_same _ _ _ _⟩

theorem exec_readDone_idle {x : Fin 4} (w : Word) (ha : s.awake)
    (h : s.dev.slotUp x = false ∨ (Tab.get [] s.dev.hub.qdl.fwd (x.val - 1)).all QItem.isWrite = true) :
    exec (.qdlForwardReadDone x w) s = .next (s.after s.dev) := by
  refine exec_of_run ha rfl ?_
  cases h with
  | inl hu => dsimp only; split <;> simp [hu]
  | inr hw => dsimp only; rw [afterRead_writes _ hw]

/-- Settles O54: an access is the forwarding, the refusal or the device's own access that its slot asks for, and the completion of a read
takes the writes before it with it. -/
theorem followerSlots : Obligations.FollowerSlots := by
  unfold Obligations.FollowerSlots
  intro s x off ha
  refine ⟨fun w hx hu => exec_of_run ha rfl (slotWrite_none hx hu), fun w ho hx hu => ?_, fun w ho => exec_of_run ha rfl (slotWrite_unaligned ho),
    fun hx hu => exec_of_run ha rfl (slotRead_none hx hu), fun hx hu => ?_, fun hx => exec_of_run ha rfl (slotRead_own hx), fun a hs hoff hx hu => ?_,
    fun w h => exec_readDone_idle w ha h, fun w pre item rest hu hq hw => ?_⟩
  · refine does_of_run ha rfl ?_
    simp [slotWrite_up ho hx hu]
  · refine does_of_run ha rfl ?_
    simp [slotRead_up hx hu]
  · refine does_of_run ha rfl ?_
    simp [hs, hoff, slotRead8_up hx hu]
  · have hr := afterRead_append w.toNat hw (item :: rest)
    rw [← hq] at hr
    refine ⟨?_, ?_, ?_⟩
    · rintro o rfl
      exact exec_readDone ha hu hr
    · rintro o low rfl
      exact exec_readDone ha hu hr
    · rintro o h low tail rfl rfl
      exact exec_readDone ha hu hr

end Sys2Proof.Machine
end

section
/-!
What the host's writes make of register fields: words, pairs, and the snapshots they drop.
-/
namespace Sys2Proof.Machine

variable {s : State} {d : Dev} {o w p i j : Nat} {l : RegLoc} {f g : Fld}

/-! ### The table of registers -/

/-- The fields of a register are its own and lie at different bits. -/
def RegId.fieldsApart (r : RegId) : Bool := decide (r.info.flds.map Fld.lo).Nodup && r.info.flds.all fun f => decide (f.reg = r)

theorem fieldsApart_all (r : RegId) : r.fieldsApart = true := by cases r <;> rfl

theorem lo_nodup (r : RegId) : (r.info.flds.map Fld.lo).Nodup := by
  simpa using (Bool.and_eq_true_iff.1 (fieldsApart_all r)).1

theorem reg_of_mem {r : RegId} (h : f ∈ r.info.flds) : f.reg = r := by
  simpa using List.all_eq_true.1 (Bool.and_eq_true_iff.1 (fieldsApart_all r)).2 f h

/-- A counter's SAT bit lies in the high word, and its access code is none under which a host writes (R16). -/
def RegId.satApart (r : RegId) : Bool :=
  match r.counter with
  | some c => decide (c.sat.reg = r) && r.info.flds.all fun f => f.lo != c.sat.lo || (f.acc != .rw && f.acc != .cv && f.acc != .cvrw)
  | none => true

theorem satApart_all (r : RegId) : r.satApart = true := by cases r <;> rfl

theorem acc_of_accAt_rw (h : f.accAt p i = .rw) : f.acc = .rw ∨ f.acc = .cv ∨ f.acc = .cvrw := by
  unfold Fld.accAt at h
  split at h <;> simp_all

theorem sat_of_counter {r : RegId} {c : Cnt} (h : r.counter = some c) :
    c.sat.reg = r ∧ ∀ f ∈ r.info.flds, f.accAt p i = .rw → f.lo ≠ c.sat.lo := by
  have hs := satApart_all r
  simp only [RegId.satApart, h, Bool.and_eq_true, decide_eq_true_eq, List.all_eq_true] at hs
  refine ⟨hs.1, fun f hf ha e => ?_⟩
  have := hs.2 f hf
  rcases acc_of_accAt_rw ha with k | k | k <;> simp [e, k] at this

theorem pairLo_ne_self (r : RegId) : (r.pairLo == some r) = false := by cases r <;> rfl

/-! ### Fields of a word written -/

theorem slice_lt (v hi lo : Nat) : slice v hi lo < 2 ^ (hi + 1 - lo) := Nat.mod_lt _ (by positivity)

@[simp] theorem slice_mod_width (v : Nat) (f : Fld) : slice v f.hi f.lo % 2 ^ f.width = slice v f.hi f.lo :=
  Nat.mod_eq_of_lt (slice_lt v f.hi f.lo)

/-- A host's write of a field writes that field or nothing. -/
theorem wrField_cases (l : RegLoc) (w : Nat) (d : Dev) (f : Fld) :
    Dev.wrField l w d f = d ∨ ∃ v, Dev.wrField l w d f = d.wr f v l.p l.i l.j := by
  unfold Dev.wrField
  dsimp only
  split
  · exact .inr ⟨_, rfl⟩
  · exact .inr ⟨_, rfl⟩
  · exact .inr ⟨_, rfl⟩
  · exact .inr ⟨_, rfl⟩
  · exact .inl rfl

theorem wrField_rd_ne (h : f.key p i j ≠ g.key l.p l.i l.j) : (Dev.wrField l w d g).rd f p i j = d.rd f p i j := by
  rcases wrField_cases l w d g with e | ⟨v, e⟩
  · rw [e]
  · rw [e, Dev.rd_wr_ne _ _ _ _ _ _ _ _ _ _ h]

/-- What a host's write makes of a field, by its access code (R10). -/
theorem wrField_rd (l : RegLoc) (w : Nat) (d : Dev) (f : Fld) :
    (Dev.wrField l w d f).rd f l.p l.i l.j = match f.accAt l.p l.i with
      | .rw => slice w f.hi f.lo
      | .rws => slice w f.hi f.lo
      | .w1c => Nat.land (d.rd f l.p l.i l.j) (2 ^ f.width - 1 - slice w f.hi f.lo) % 2 ^ f.width
      | .w1s => Nat.lor (d.rd f l.p l.i l.j) (slice w f.hi f.lo) % 2 ^ f.width
      | _ => d.rd f l.p l.i l.j := by
  unfold Dev.wrField
  cases f.accAt l.p l.i <;> simp only [Dev.rd_wr, slice_mod_width]

theorem foldl_wrField_rd_ne (fs : List Fld) (h : ∀ g ∈ fs, f.key p i j ≠ g.key l.p l.i l.j) :
    (fs.foldl (Dev.wrField l w) d).rd f p i j = d.rd f p i j := by
  induction fs generalizing d with
  | nil => rfl
  | cons g gs ih =>
    rw [List.foldl_cons, ih fun k hk => h k (List.mem_cons_of_mem _ hk), wrField_rd_ne (h g List.mem_cons_self)]

/-- Of a list of fields at different bits each is written once. -/
theorem foldl_wrField_rd (fs : List Fld) (h : (fs.map Fld.lo).Nodup) (hf : f ∈ fs) :
    ∃ e, e.rd f l.p l.i l.j = d.rd f l.p l.i l.j ∧
      (fs.foldl (Dev.wrField l w) d).rd f l.p l.i l.j = (Dev.wrField l w e f).rd f l.p l.i l.j := by
  induction fs generalizing d with
  | nil => cases hf
  | cons g gs ih =>
    obtain ⟨hg, hn⟩ := List.nodup_cons.1 h
    rw [List.foldl_cons]
    rcases List.mem_cons.1 hf with rfl | hm
    · exact ⟨d, rfl, foldl_wrField_rd_ne gs fun k hk e => hg (List.mem_map.2 ⟨k, hk, (congrArg FKey.lo e).symm⟩)⟩
    · obtain ⟨e, he, hr⟩ := ih (d := Dev.wrField l w d g) hn hm
      refine ⟨e, he.trans (wrField_rd_ne fun k => hg ?_), hr⟩
      exact List.mem_map.2 ⟨f, hm, congrArg FKey.lo k⟩

/-- A word written changes each field of the register by its access code (R10). -/
theorem wrWord_rd (hf : f ∈ l.reg.info.flds) :
    (d.wrWord l w).rd f l.p l.i l.j = match f.accAt l.p l.i with
      | .rw => slice w f.hi f.lo
      | .rws => slice w f.hi f.lo
      | .w1c => Nat.land (d.rd f l.p l.i l.j) (2 ^ f.width - 1 - slice w f.hi f.lo) % 2 ^ f.width
      | .w1s => Nat.lor (d.rd f l.p l.i l.j) (slice w f.hi f.lo) % 2 ^ f.width
      | _ => d.rd f l.p l.i l.j := by
  obtain ⟨e, he, hr⟩ := foldl_wrField_rd (l := l) (w := w) (d := d) l.reg.info.flds (lo_nodup l.reg) hf
  rw [Dev.wrWord, hr, wrField_rd, he]

theorem wrWord_rd_rw (hf : f ∈ l.reg.info.flds) (h : f.accAt l.p l.i = .rw) :
    (d.wrWord l w).rd f l.p l.i l.j = slice w f.hi f.lo := by rw [wrWord_rd hf, h]

theorem wrWord_rd_reg (h : f.reg ≠ l.reg) : (d.wrWord l w).rd f p i j = d.rd f p i j :=
  foldl_wrField_rd_ne _ fun _ hg e => h ((congrArg FKey.reg e).trans (reg_of_mem hg))

/-- A word written changes nothing but register fields. -/
theorem wrWord_parts (d : Dev) (l : RegLoc) (w : Nat) : ∃ r, d.wrWord l w = { d with regs := r } := by
  unfold Dev.wrWord
  induction l.reg.info.flds generalizing d with
  | nil => exact ⟨d.regs, rfl⟩
  | cons g gs ih =>
    rw [List.foldl_cons]
    rcases wrField_cases l w d g with e | ⟨v, e⟩
    · rw [e]; exact ih d
    · rw [e]; exact ih _

@[simp] theorem wrWord_held : (d.wrWord l w).held = d.held := by
  obtain ⟨r, e⟩ := wrWord_parts d l w; rw [e]

/-! ### Pairs and snapshots -/

theorem isPairLow_of_reg (h : regAt o = some l) : isPairLow o = l.reg.pairHi.isSome := by simp [isPairLow, h]

theorem isPairLow_of_none (h : regAt o = none) (ht : trlWindow o = none) (hs : statWindowAt o = none) : isPairLow o = false := by
  simp [isPairLow, h, ht, hs]

theorem dropSnap_of_no_pair (h : isPairLow o = false) (h' : isPairLow (o - 4) = false) : d.dropSnap o = d := by
  simp [Dev.dropSnap, h, h']

/-- Discarding a snapshot changes the snapshots alone. -/
theorem dropSnap_parts (d : Dev) (o : Nat) : ∃ t, d.dropSnap o = { d with snaps := t } := by
  unfold Dev.dropSnap
  split_ifs
  · exact ⟨_, rfl⟩
  · exact ⟨_, rfl⟩
  · exact ⟨d.snaps, rfl⟩

@[simp] theorem dropSnap_regs : (d.dropSnap o).regs = d.regs := by obtain ⟨t, e⟩ := dropSnap_parts d o; rw [e]
@[simp] theorem dropSnap_held : (d.dropSnap o).held = d.held := by obtain ⟨t, e⟩ := dropSnap_parts d o; rw [e]
@[simp] theorem dropSnap_hub : (d.dropSnap o).hub = d.hub := by obtain ⟨t, e⟩ := dropSnap_parts d o; rw [e]
@[simp] theorem dropSnap_rd : (d.dropSnap o).rd f p i j = d.rd f p i j := by simp [Dev.rd]

/-- Whether a write is taken hangs on the register fields and the Hub's engines alone. -/
theorem writeOpen_congr {e : Dev} (hr : e.regs = d.regs) (hh : e.hub = d.hub) : e.writeOpen l = d.writeOpen l := by
  obtain ⟨⟩ := e
  obtain ⟨⟩ := d
  subst hr hh
  rfl

/-! ### Writes -/

theorem regWrite_closed (h : d.slotOpen o = false) : d.regWrite o w = d := by simp [Dev.regWrite, h]

theorem regWrite_none (h : regAt o = none) (hp : isPairLow o = false) (hp' : isPairLow (o - 4) = false) : d.regWrite o w = d := by
  unfold Dev.regWrite
  split_ifs
  · rfl
  · simp [h, dropSnap_of_no_pair hp hp']

theorem regWrite_plain (ho : d.slotOpen o = true) (h : regAt o = some l) (hi : l.reg.pairHi = none) (lo : l.reg.pairLo = none) :
    d.regWrite o w = (d.dropSnap o).writeReg l w := by simp [Dev.regWrite, ho, h, hi, lo]

theorem regWrite_low (ho : d.slotOpen o = true) (h : regAt o = some l) (hi : l.reg.pairHi.isSome = true) :
    d.regWrite o w = { d.dropSnap o with held := Tab.put d.held o w } := by simp [Dev.regWrite, ho, h, hi]

theorem regWrite_high {lo : RegId} (ho : d.slotOpen o = true) (h : regAt o = some l) (hi : l.reg.pairHi = none)
    (hl : l.reg.pairLo = some lo) :
    d.regWrite o w =
      ({ d.dropSnap o with held := Tab.del d.held (o - 4) }).applyPair { l with reg := lo } l (Tab.find d.held (o - 4)) w := by
  simp [Dev.regWrite, ho, h, hi, hl]

/-- The write of a pair's high word with a low word held (R7): both words, then a counter's SAT bit (R16). -/
theorem applyPair_held {lo h : RegLoc} {v : Nat} (ho : d.writeOpen h = true) :
    d.applyPair lo h (some v) w = (d.wrWord lo v).wrWord h w ∨
      ∃ c, h.reg.counter = some c ∧ d.applyPair lo h (some v) w = ((d.wrWord lo v).wrWord h w).wr c.sat 0 h.p h.i h.j := by
  simp only [Dev.applyPair, ho, Bool.not_true, Bool.false_eq_true, if_false]
  cases hc : h.reg.counter with
  | none => exact .inl rfl
  | some c =>
    simp only [Dev.when]
    split_ifs
    · exact .inr ⟨c, rfl, rfl⟩
    · exact .inl rfl

/-- Both words of a pair take effect with the write of the high word (R7). -/
theorem applyPair_effect {lo : RegId} {v : Nat} (ho : d.writeOpen l = true) (hl : l.reg.pairLo = some lo) :
    (d.applyPair { l with reg := lo } l (some v) w).held = d.held ∧
      (∀ f ∈ lo.info.flds, f.accAt l.p l.i = .rw →
        (d.applyPair { l with reg := lo } l (some v) w).rd f l.p l.i l.j = slice v f.hi f.lo) ∧
      (∀ f ∈ l.reg.info.flds, f.accAt l.p l.i = .rw →
        (d.applyPair { l with reg := lo } l (some v) w).rd f l.p l.i l.j = slice w f.hi f.lo) := by
  have hne : lo ≠ l.reg := by
    rintro rfl
    simpa [hl] using pairLo_ne_self l.reg
  have low : ∀ f ∈ lo.info.flds, f.accAt l.p l.i = .rw →
      ((d.wrWord { l with reg := lo } v).wrWord l w).rd f l.p l.i l.j = slice v f.hi f.lo := fun f hf ha => by
    rw [wrWord_rd_reg (reg_of_mem hf ▸ hne)]
    exact wrWord_rd_rw (l := { l with reg := lo }) hf ha
  rcases applyPair_held (lo := { l with reg := lo }) (v := v) (w := w) ho with e | ⟨c, hc, e⟩
  · rw [e]
    exact ⟨by simp, low, fun f hf ha => wrWord_rd_rw hf ha⟩
  · obtain ⟨hs, hsat⟩ := sat_of_counter (p := l.p) (i := l.i) hc
    rw [e]
    refine ⟨by simp, fun f hf ha => ?_, fun f hf ha => ?_⟩
    · rw [Dev.rd_wr_reg _ _ _ _ _ _ _ _ _ _ (by rw [reg_of_mem hf, hs]; exact hne), low f hf ha]
    · rw [Dev.rd_wr_lo _ _ _ _ _ _ _ _ _ _ (hsat f hf ha), wrWord_rd_rw hf ha]

end Sys2Proof.Machine
end

section
/-!
What the host's reads return, and the commands of the register file.
-/
namespace Sys2Proof.Machine

variable {s : State} {d : Dev} {o w p i j : Nat} {l : RegLoc} {f g : Fld}

/-! ### Reads -/

theorem regRead_closed (h : d.slotOpen o = false) : d.regRead o = { d with rdata := 0xFFFFFFFF } := by simp [Dev.regRead, h]

theorem regRead_none (ho : d.slotOpen o = true) (h : regAt o = none) (ht : trlWindow o = none) (hs : statWindowAt o = none)
    (hp : isPairLow (o - 4) = false) : d.regRead o = { d with rdata := 0 } := by
  simp [Dev.regRead, ho, h, isPairLow_of_none h ht hs, hp, Dev.liveAt, ht, hs]

theorem regRead_low (ho : d.slotOpen o = true) (h : isPairLow o = true) : d.regRead o = d.readLow o := by
  unfold Dev.regRead
  rw [if_neg (by simp [ho])]
  cases hr : regAt o with
  | none => simp [h]
  | some l =>
    have hp := isPairLow_of_reg hr
    simp only [Option.map_some]
    split
    case h_8 => simp [h]
    all_goals
      rename_i he
      rw [hp, show l.reg = _ from congrArg Prod.fst (Option.some.inj he)] at h
      cases h

/-- A read of a pair's high word returns the snapshot or the live word and ends the snapshot (R6), whatever register it is; a time
register's also ends the sequence of R493. -/
theorem regRead_high (ho : d.slotOpen o = true) (h4 : 4 ≤ o) (h : isPairLow o = false) (h' : isPairLow (o - 4) = true)
    (hl : ∀ l, regAt o = some l → l.reg.pairLo.isSome = true) : ∃ t, d.regRead o = { d.readHigh o with tsnap := t } := by
  unfold Dev.regRead
  rw [if_neg (by simp [ho])]
  cases hr : regAt o with
  | none => exact ⟨_, by simp [h, h', h4]; rfl⟩
  | some l =>
    have hp := hl l hr
    simp only [Option.map_some]
    split
    case h_6 => exact ⟨_, rfl⟩
    case h_7 => exact ⟨_, rfl⟩
    case h_8 => exact ⟨_, by simp [h, h', h4]; rfl⟩
    all_goals
      rename_i he
      rw [show l.reg = _ from congrArg Prod.fst (Option.some.inj he)] at hp
      cases hp

theorem readHigh_snap {v : Nat} (h : Tab.find d.snaps (o - 4) = some v) :
    (d.readHigh o).rdata = v ∧ Tab.find (d.readHigh o).snaps (o - 4) = none := by
  simp [Dev.readHigh, h, Tab.find_del_same]

theorem readHigh_live (h : Tab.find d.snaps (o - 4) = none) : (d.readHigh o).rdata = d.liveAt o := by simp [Dev.readHigh, h]

/-- Whether an offset is presented hangs on the register fields and the loss of the Hub alone. -/
theorem slotOpen_congr {e : Dev} (hr : e.regs = d.regs) (hh : e.hub = d.hub) : e.slotOpen o = d.slotOpen o := by
  obtain ⟨⟩ := e
  obtain ⟨⟩ := d
  subst hr hh
  rfl

/-- An 8-byte read of a pair returns both words and leaves no snapshot (R8). -/
theorem slotRead8_pair {x : Nat} (hx : d.ownSlot x = true) (ho4 : o % 4 = 0) (hl : isPairLow o = true) (hh : isPairLow (o + 4) = false)
    (ho : d.slotOpen o = true) (ho' : d.slotOpen (o + 4) = true) (hreg : ∀ l, regAt (o + 4) = some l → l.reg.pairLo.isSome = true) :
    (d.slotRead8 x o).rdata = d.liveAt o + 2 ^ 32 * d.liveAt (o + 4) ∧ Tab.find (d.slotRead8 x o).snaps o = none := by
  have e4 : o / 4 * 4 = o := by omega
  have e8 : (o + 4) / 4 * 4 = o + 4 := by omega
  have h1 : d.slotRead x o = d.readLow o := by rw [slotRead_own hx, e4, regRead_low ho hl]
  have hx' : (d.readLow o).ownSlot x = true := hx
  obtain ⟨t, h2⟩ := regRead_high (d := d.readLow o) (slotOpen_congr (d := d) rfl rfl ▸ ho') (by omega) hh (by simpa using hl) hreg
  have hs : Tab.find (d.readLow o).snaps (o + 4 - 4) = some (d.liveAt (o + 4)) := Tab.find_put_same _ _ _
  obtain ⟨hv, hn⟩ := readHigh_snap hs
  have h3 : (d.readLow o).slotRead x (o + 4) = { (d.readLow o).readHigh (o + 4) with tsnap := t } := by rw [slotRead_own hx', e8, h2]
  simp only [Dev.slotRead8, hx, Bool.not_true, Bool.false_and, Bool.false_eq_true, if_false, e4, h1, h3, hv]
  exact ⟨rfl, hn⟩

/-! ### The commands -/

theorem slotWrite_zero_idle (h : d.slotOpen o = false ∨ o % 4 ≠ 0) : d.slotWrite 0 o w = d := by
  by_cases ho : o % 4 = 0
  · rw [slotWrite_own ho rfl, regWrite_closed (h.resolve_right (not_not_intro ho))]
  · exact slotWrite_unaligned ho

theorem exec_pairLowWrite {a : BitVec 28} (w : Word) (ha : s.awake) (hs : slotOf a = 0) :
    exec (.pairLowWrite a w) s = .next (s.after (s.dev.slotWrite 0 (offOf a) w.toNat)) := by
  refine exec_of_run ha rfl ?_
  split_ifs with h
  · rw [hs]
  · rw [slotWrite_unaligned h]

theorem exec_pairHighWrite {a : BitVec 28} (w : Word) (ha : s.awake) (hs : slotOf a = 0) :
    exec (.pairHighWrite a w) s = .next (s.after (s.dev.slotWrite 0 (offOf a) w.toNat)) := by
  refine exec_of_run ha rfl ?_
  split_ifs with h
  · rw [hs, show offOf a / 4 * 4 = offOf a by omega]
  · rw [slotWrite_unaligned h]

theorem exec_pairLowRead {a : BitVec 28} (ha : s.awake) (hs : slotOf a = 0) :
    exec (.pairLowRead a) s = .next (s.after (s.dev.regRead (offOf a / 4 * 4))) :=
  exec_of_run ha rfl (by rw [hs, slotRead_own rfl])

theorem exec_pairHighRead {a : BitVec 28} (ha : s.awake) (hs : slotOf a = 0) :
    exec (.pairHighRead a) s = .next (s.after (s.dev.regRead (offOf a / 4 * 4))) :=
  exec_of_run ha rfl (by rw [hs, slotRead_own rfl, show offOf a / 4 * 4 / 4 * 4 = offOf a / 4 * 4 by omega])

/-- A write of the device's own slot with its effect. -/
theorem exec_registerWrite {a : BitVec 28} (w : Word) (ha : s.awake) (hs : slotOf a = 0) :
    exec (.registerWrite a w) s = .next (s.after (s.dev.slotWrite 0 (offOf a) w.toNat)) := exec_of_run ha rfl (by rw [hs])

/-- A read of any length of the device's own slot (R8, R9). -/
theorem exec_misalignedRead {a : BitVec 28} (n : Fin 8) (ha : s.awake) (hs : slotOf a = 0) : exec (.misalignedAccess a n none) s =
    .next (s.after (if n.val < 4 then s.dev.regRead (offOf a / 4 * 4) else s.dev.slotRead8 0 (offOf a / 4 * 4))) := by
  refine exec_of_run ha rfl ?_
  dsimp only
  rw [hs, slotRead_own rfl, show offOf a / 4 * 4 / 4 * 4 = offOf a / 4 * 4 by omega]

/-- Settles O53: each access is the read or write of the device's own slot at its offset, and what that does is said by the rules of
reads and writes above. -/
theorem registerFile : Obligations.RegisterFile := by
  unfold Obligations.RegisterFile
  rintro s a o ha hs rfl
  refine ⟨fun w h => ?_, fun w l f ho hop hl hi hlo hw hf => ?_, fun w l ho hop hl hi => ?_, fun w h => ?_,
    fun w l lo v f ho hop hl hi hlo hwo hv => ?_, fun w h => ?_, fun h => ⟨?_, ?_⟩, fun hop ho hl ht hst hp => ?_, fun hop ho hp => ?_,
    fun hop ho h4 hp hp' hl => ?_, fun n v h => ?_, fun n hn => ?_, fun ho hp hp' hop hop' hl => ?_, fun wr => ?_⟩
  · rw [exec_registerWrite w ha hs]
    congr 2
    by_cases hi : s.dev.slotOpen (offOf a) = false ∨ offOf a % 4 ≠ 0
    · exact slotWrite_zero_idle hi
    · obtain ⟨hl, hp, hp'⟩ := (or_assoc.2 h).resolve_left hi
      rw [slotWrite_own (by tauto) rfl, regWrite_none hl hp hp']
  · refine ⟨_, exec_registerWrite w ha hs, ?_⟩
    rw [slotWrite_own ho rfl, regWrite_plain hop hl hi hlo, hw]
    have hr := wrWord_rd (d := s.dev.dropSnap (offOf a)) (w := w.toNat) hf
    simp only [dropSnap_rd] at hr
    exact hr
  · refine ⟨_, exec_pairLowWrite w ha hs, ?_⟩
    rw [slotWrite_own ho rfl, regWrite_low hop hl hi]
    exact ⟨dropSnap_regs, Tab.find_put_same _ _ _⟩
  · rw [exec_pairLowWrite w ha hs, slotWrite_zero_idle h]
  · refine ⟨_, exec_pairHighWrite w ha hs, ?_⟩
    rw [slotWrite_own ho rfl, regWrite_high hop hl hi hlo, hv]
    obtain ⟨hheld, hlow, hhigh⟩ := applyPair_effect (w := w.toNat) (v := v)
      (d := { s.dev.dropSnap (offOf a) with held := Tab.del s.dev.held (offOf a - 4) })
      ((writeOpen_congr (d := s.dev) dropSnap_regs dropSnap_hub).trans hwo) hlo
    simp only [settle_rd, settle_held, hheld]
    exact ⟨Tab.find_del_same _ _, hlow f, hhigh f⟩
  · rw [exec_pairHighWrite w ha hs, slotWrite_zero_idle h]
  · exact ⟨_, exec_pairLowRead ha hs, by rw [regRead_closed h]; exact ⟨rfl, rfl⟩⟩
  · exact ⟨_, exec_pairHighRead ha hs, by rw [regRead_closed h]; exact ⟨rfl, rfl⟩⟩
  all_goals have e4 : offOf a % 4 = 0 → offOf a / 4 * 4 = offOf a := by omega
  · refine ⟨_, exec_pairLowRead ha hs, ?_⟩
    rw [e4 ho, regRead_none hop hl ht hst hp]
    exact ⟨rfl, rfl⟩
  · refine ⟨_, exec_pairLowRead ha hs, ?_⟩
    rw [e4 ho, regRead_low hop hp]
    exact ⟨rfl, Tab.find_put_same _ _ _, rfl⟩
  · refine ⟨_, exec_pairHighRead ha hs, ?_⟩
    obtain ⟨t, e⟩ := regRead_high hop h4 hp hp' hl
    rw [e4 ho, e]
    exact ⟨fun v hv => readHigh_snap hv, readHigh_live⟩
  · refine exec_of_run ha rfl ?_
    dsimp only
    split_ifs <;> simp_all
  · rw [exec_misalignedRead n ha hs, if_pos hn]
  · refine ⟨_, exec_misalignedRead 7 ha hs, ?_⟩
    rw [if_neg (by decide), e4 ho]
    exact slotRead8_pair rfl ho hp hp' hop hop' hl
  · exact does_of_run ha rfl ⟨rfl, rfl, rfl, rfl, rfl⟩

end Sys2Proof.Machine
end

section
namespace Sys2Proof.Machine

/-- A follower whose port 0 is UP. -/
def followerUp : State :=
  { dev := ((({} : Dev).wr F.QDL_CTL_EN 1).wr F.QDL_ID_DEVID 1).wr F.QDL_PEER_STATE 3 0 0 }

/-- Refutes O56: the link delay that an echo gives a follower (R542) stands in `QDL_PEER`, a register that the frame of
`qdlDelayEcho` does not name. From `followerUp` an echo of 5 takes `QDL_PEER.DELAY` of port 0 from 0 to 5. -/
theorem not_frameHub : ¬ Obligations.FrameHub := by
  unfold Obligations.FrameHub
  intro h
  have hf : Frame (.qdlDelayEcho 0 5) {} := by
    obtain ⟨-, -, -, -, -, -, -, -, -, -, -, -, -, -, -, -, -, -, -, -, -, -, -, -, h, -⟩ := h
    exact h 0 5
  have he : exec (.qdlDelayEcho 0 5) followerUp = .next (followerUp.after (followerUp.dev.wr F.QDL_PEER_DELAY 5 0 0)) :=
    exec_of_run rfl rfl (if_pos (by decide))
  obtain ⟨-, hregs, -⟩ := hf followerUp _ he
  exact absurd (hregs (F.QDL_PEER_DELAY.key 0 0 0) 0 rfl) (by decide)
end Sys2Proof.Machine
end

section
/-!
The host link's register through what the loss of Bus Master Enable ends (R132, R214, R530, R554): no part of it writes `HUB_PCIE_STAT`.
-/
namespace Sys2Proof.Machine

/-- `HUB_PCIE_STAT` reads in `d` as in `a`. -/
def LinkSame (a d : Dev) : Prop := ∀ f p i j, f.reg = .HUB_PCIE_STAT → d.rd f p i j = a.rd f p i j

namespace LinkSame

variable {a d b : Dev}

theorem refl (d : Dev) : LinkSame d d := fun _ _ _ _ _ => rfl

/-- A change that leaves the register fields as they are. -/
theorem of_regs (h : LinkSame a d) (e : b.regs = d.regs := by rfl) : LinkSame a b := fun f p i j hf => by
  rw [← h f p i j hf, Dev.rd, Dev.rd, e]

theorem on (h : LinkSame a d) {f : Fld} {p i j : Nat} (hf : f.reg = .HUB_PCIE_STAT := by rfl) : d.on f p i j = a.on f p i j := by
  rw [Dev.on, Dev.on, h f p i j hf]

theorem wr (h : LinkSame a d) {f : Fld} {v p i j : Nat} (hf : f.reg ≠ .HUB_PCIE_STAT := by decide) : LinkSame a (d.wr f v p i j) :=
  fun g p' i' j' hg => by rw [Dev.rd_wr_reg _ _ _ _ _ _ _ _ _ _ (hg ▸ hf.symm), h g p' i' j' hg]

theorem raise (h : LinkSame a d) (e syn : Nat) : LinkSame a (d.raise e syn) := fun f p i j hf => by
  rw [raise_rd _ _ _ _ _ _ _ (by rw [hf]; decide), h f p i j hf]

theorem updHub (h : LinkSame a d) (f : HubSt → HubSt) : LinkSame a (d.updHub f) := h.of_regs

theorem hostWords (h : LinkSame a d) (n : Nat) (ws : List Nat) : LinkSame a (d.hostWords n ws) := h.of_regs

theorem updNvme (h : LinkSame a d) (f : Nvme → Nvme) : LinkSame a (d.updNvme f) := h.of_regs

theorem updPipe (h : LinkSame a d) (p : Nat) (f : PipeSt → PipeSt) : LinkSame a (d.updPipe p f) := h.of_regs

theorem ite (p : Prop) [Decidable p] {c : Dev} (h : LinkSame a b) (k : LinkSame a c) : LinkSame a (if p then b else c) := by
  split_ifs
  · exact h
  · exact k

theorem foldl {α : Type} {f : Dev → α → Dev} (h : LinkSame a d) (l : List α) (hf : ∀ d y, LinkSame a d → LinkSame a (f d y)) :
    LinkSame a (l.foldl f d) := by
  induction l generalizing d with
  | nil => exact h
  | cons y t ih => exact ih (hf d y h)

/-! ### Casks and racking -/

theorem setCask (h : LinkSame a d) (u k : Nat) (x : Cask) : LinkSame a (d.setCask u k x) := .ite _ h.of_regs h.of_regs

theorem putCask (h : LinkSame a d) (u k : Nat) (x : Cask) : LinkSame a (d.putCask u k x) := (h.setCask u k x).wr.wr

theorem caskPut (h : LinkSame a d) (u k : Nat) (w : CaskWord) : LinkSame a (d.caskPut u k w) :=
  .ite _ (.ite _ (h.wr.putCask u k _).wr (h.wr.putCask u k _)) (h.wr.putCask u k _)

theorem caskDrain (h : LinkSame a d) (u k n : Nat) : LinkSame a (d.caskDrain u k n) := by
  induction n generalizing d with
  | zero => exact h
  | succ n ih =>
    unfold Dev.caskDrain
    dsimp only
    split
    · exact h
    · exact .ite _ (ih ((h.setCask u k _).caskPut u k _)) h

theorem caskSend (h : LinkSame a d) (u k ep : Nat) (ws : List CaskWord) : LinkSame a (d.caskSend u k ep ws) :=
  .ite _ ((h.setCask u k _).caskDrain u k _) h

theorem putRch (h : LinkSame a d) (u c : Nat) (x : RackCh) : LinkSame a (d.putRch u c x) := .ite _ h.of_regs h.of_regs

theorem rackEnd (h : LinkSame a d) (u c status : Nat) : LinkSame a (d.rackEnd u c status) := by
  unfold Dev.rackEnd
  dsimp only
  split
  · exact h
  · split
    · exact (h.putRch u c _).caskSend u _ _ _
    · exact h.putRch u c _

theorem rackHalt (h : LinkSame a d) (u c status i : Nat) : LinkSame a (d.rackHalt u c status i) :=
  .ite _ (h.wr.wr.wr.wr.raise _ _) (h.wr.wr.wr.wr.raise _ _)

/-- The reads of host memory that a racking engine waits for end without their data. -/
theorem rackHostGone (h : LinkSame a d) (u : Nat) : LinkSame a (d.rackHostGone u) := by
  refine foldl (h.updHub _) _ fun d c k => ?_
  dsimp only
  split_ifs with hf
  · rw [Dev.rackDescData]
    simp only [hf, Bool.not_true, Bool.not_false, Bool.false_eq_true, if_true, if_false]
    exact (k.putRch u c _).rackHalt u c _ _
  · exact (k.putRch u c _).rackEnd u c _
  · exact k

/-! ### Press -/

theorem updPress (h : LinkSame a d) (u : Nat) (f : Press → Press) : LinkSame a (d.updPress u f) := .ite _ h.of_regs h.of_regs

theorem pressHalt (h : LinkSame a d) (u r status i : Nat) : LinkSame a (d.pressHalt u r status i) :=
  .ite _ (h.wr.wr.wr.wr.raise _ _) (h.wr.wr.wr.wr.raise _ _)

theorem pressGone (h : LinkSame a d) (u r : Nat) : LinkSame a (d.pressDescData u r false) :=
  .ite _ h ((h.updPress u _).pressHalt u r _ _)

/-! ### Completions of NVMe commands -/

theorem raiseTenant (h : LinkSame a d) (e : Nat) : LinkSame a (d.raiseTenant e) := .ite _ h (h.of_regs (vecEvent_regs _))

theorem cqWrite (h : LinkSame a d) (k : Nat) (ws : List Nat) : LinkSame a (d.cqWrite k ws) := by
  unfold Dev.cqWrite
  split
  · exact h
  · exact .ite _ (((h.hostWords _ _).updNvme _).raise _ _)
      (.ite _ (((h.hostWords _ _).updNvme _).raiseTenant _) ((h.hostWords _ _).updNvme _))

theorem cqPost (h : LinkSame a d) (k : Nat) (ws : List Nat) : LinkSame a (d.cqPost k ws) := by
  unfold Dev.cqPost
  split
  · exact h
  · exact .ite _ (h.cqWrite k ws) (h.updNvme _)

theorem sqDeletions (h : LinkSame a d) : LinkSame a d.sqDeletions :=
  foldl h _ fun _ _ k => ((k.updNvme _).wr.wr.wr.updNvme _).cqPost _ _

theorem showLocks (h : LinkSame a d) (p extra : Nat) : LinkSame a (d.showLocks p extra) := .ite _ h.wr.wr h.wr

theorem nvClosing (h : LinkSame a d) : LinkSame a d.nvClosing := .ite _ ((h.updHub _).updNvme _) h

theorem nvEnd (h : LinkSame a d) (q cid dw0 status : Nat) : LinkSame a (d.nvEnd q cid dw0 status) := by
  have hl := foldl h (List.range 4) (f := fun d p => d.lockRelease p q cid) fun _ p k => (k.updPipe p _).showLocks p 0
  have hp := foldl hl (List.range 4) (f := fun d p => d.updCel p fun c => { c with
    pieces := (c.pieces.filter fun x => x.ready || x.owner != some (q, cid)).map fun x =>
      if x.owner = some (q, cid) then { x with owner := none } else x }) fun _ p k => k.updPipe p _
  exact (((hp.updNvme _).updHub _).cqPost q _).sqDeletions.nvClosing

theorem nvGone (h : LinkSame a d) (q cid : Nat) : LinkSame a (d.nvData q cid false) := by
  simp only [Dev.nvData, Bool.not_false, if_true]
  split
  · exact h
  · exact h.nvEnd q cid _ _

theorem cqDrain (h : LinkSame a d) : LinkSame a d.cqDrain := by
  refine .ite _ h (foldl (h.updNvme _) _ fun d x k => ?_)
  split
  · exact k
  · exact .ite _ (k.cqWrite _ _) (k.updNvme _)

/-! ### What waits for host memory -/

/-- The requests to host memory end. -/
theorem hostReadsEnd (h : LinkSame a d) (nv : Bool) : LinkSame a (d.hostReadsEnd nv) := by
  refine foldl (updHub (foldl h (List.range 5) fun _ u k => k.rackHostGone u) _) _ fun d x k => ?_
  split
  · exact .ite _ (k.nvGone _ _) k
  · exact k
  · exact k
  · exact k.pressGone _ _

theorem vrsUnstage (h : LinkSame a d) (p u : Nat) : LinkSame a (d.vrsUnstage p u) := by
  unfold Dev.vrsUnstage
  dsimp only
  split
  · exact (h.updPipe p _).wr.wr.wr
  · exact h

theorem cuvDiscard (h : LinkSame a d) : LinkSame a d.cuvDiscard :=
  updHub (foldl (foldl h d.hub.cuvl.kept fun _ x k => k.updPipe x.1 _) _ fun _ (x : Nat × Nat) k => k.vrsUnstage x.1 x.2) _

theorem cuvFail (h : LinkSame a d) (e : CuvErr) : LinkSame a (d.cuvFail e) := by
  unfold Dev.cuvFail
  dsimp only
  cases e.det with
  | some v => exact h.cuvDiscard.wr.wr.wr.wr.wr.raise _ _
  | none =>
    have hd : LinkSame a d.cuvDiscard.draw.2 := h.cuvDiscard.of_regs
    exact hd.wr.wr.wr.wr.wr.raise _ _

theorem cuvHostLost (h : LinkSame a d) : LinkSame a d.cuvHostLost := .ite _ (h.cuvFail _) h

end LinkSame
end Sys2Proof.Machine
end

section
/-!
The resets of the whole device and of the host link: what they restore, and what they show of the link.
-/
namespace Sys2Proof.Machine

variable {s : State} {d : Dev} {f g : Fld} {v p i j p' i' j' : Nat} {q : FKey → Bool}

/-! ### Fields written -/

theorem rd_wr_of_reg (h : f.reg ≠ g.reg) : (d.wr g v p' i' j').rd f p i j = d.rd f p i j := d.rd_wr_reg _ _ _ _ _ _ _ _ _ h

theorem rd_wr_of_lo (h : f.lo ≠ g.lo) : (d.wr g v p' i' j').rd f p i j = d.rd f p i j := d.rd_wr_lo _ _ _ _ _ _ _ _ _ h

theorem rd_wr_of_lt (h : v < 2 ^ f.width) : (d.wr f v p i j).rd f p i j = v := d.rd_wr_lt _ _ _ _ _ h

theorem on_of_rd {e : Dev} (h : e.rd f p i j = d.rd f p i j) : e.on f p i j = d.on f p i j := congrArg (· == 1) h

@[simp] theorem settle_on : (settle d).on f p i j = d.on f p i j := rfl

/-- A bit written is the bit shown. -/
theorem on_wrb {b : Bool} (hf : f.width = 1) : (d.wrb f b p i j).on f p i j = b := by
  rw [Dev.on, Dev.wrb, Dev.rd_wr, hf]
  cases b <;> rfl

/-! ### Fields restored -/

theorem FStore.get_filter_drop (t : FStore) {k : FKey} (h : q k = true) : FStore.get v (t.filter fun x => !q x.1) k = v := by
  induction t with
  | nil => rfl
  | cons x t ih =>
    by_cases hx : q x.1 = true
    · rw [List.filter_cons_of_neg (by simp [hx]), ih]
    · have hk : k ≠ x.1 := by rintro rfl; exact hx h
      rw [List.filter_cons_of_pos (by simpa using hx), FStore.get, if_neg hk, ih]

theorem FStore.get_filter_keep (t : FStore) {k : FKey} (h : q k = false) :
    FStore.get v (t.filter fun x => !q x.1) k = FStore.get v t k := by
  induction t with
  | nil => rfl
  | cons x t ih =>
    obtain ⟨k', w⟩ := x
    by_cases hx : q k' = true
    · have hk : k ≠ k' := by rintro rfl; simp [h] at hx
      rw [List.filter_cons_of_neg (by simp [hx]), ih, FStore.get, if_neg hk]
    · rw [List.filter_cons_of_pos (by simpa using hx), FStore.get, FStore.get, ih]

/-- A field that is dropped reads its reset value (R14). -/
theorem dropRegs_rd (h : q (f.key p i j) = true) : (d.dropRegs q).rd f p i j = f.rstAt p i := FStore.get_filter_drop _ h

/-- A field at its reset value still reads it when others are dropped. -/
theorem dropRegs_rd_rst (h : d.rd f p i j = f.rstAt p i) : (d.dropRegs q).rd f p i j = f.rstAt p i := by
  cases hq : q (f.key p i j) with
  | true => exact dropRegs_rd hq
  | false => exact (FStore.get_filter_keep _ hq).trans h

/-! ### The pipe domain -/

theorem dom_reg_of_pipe {k : FKey} (h : k.dom = .pipe) : k.reg.info.dom = .pipe := by
  unfold FKey.dom at h
  split_ifs at h
  exact h

/-- Every field of the pipe domain that `q` accepts reads its reset value. -/
def PipeAtReset (q : FKey → Bool) (d : Dev) : Prop :=
  ∀ f p i j, (f.key p i j).dom = .pipe → q (f.key p i j) = true → d.rd f p i j = f.rstAt p i

namespace PipeAtReset

theorem of_regs {b : Dev} (h : PipeAtReset q d) (e : b.regs = d.regs := by rfl) : PipeAtReset q b := fun f p i j hf hq => by
  rw [← h f p i j hf hq, Dev.rd, Dev.rd, e]

/-- The write of a register of another domain leaves them there. -/
theorem wr (h : PipeAtReset q d) (hg : g.reg.info.dom ≠ .pipe := by decide) : PipeAtReset q (d.wr g v p' i' j') :=
  fun f p i j hf hq => by
    have hr : f.reg ≠ g.reg := fun e => hg (e ▸ dom_reg_of_pipe hf)
    rw [rd_wr_of_reg hr, h f p i j hf hq]

/-- Dropping them takes them there. -/
theorem of_drop {r : FKey → Bool} (h : ∀ k, k.dom = .pipe → q k = true → r k = true) : PipeAtReset q (d.dropRegs r) :=
  fun _ _ _ _ hf hq => dropRegs_rd (h _ hf hq)

theorem dropRegs (h : PipeAtReset q d) (r : FKey → Bool) : PipeAtReset q (d.dropRegs r) :=
  fun f p i j hf hq => dropRegs_rd_rst (h f p i j hf hq)

theorem updHub (h : PipeAtReset q d) (k : HubSt → HubSt) : PipeAtReset q (d.updHub k) := h.of_regs

theorem updBoot (h : PipeAtReset q d) (k : Boot → Boot) : PipeAtReset q (d.updBoot k) := h.of_regs

theorem showOff (h : PipeAtReset q d) : PipeAtReset q d.showOff := (h.dropRegs _).wr.wr.wr.updHub _

theorem bootShow (h : PipeAtReset q d) : PipeAtReset q d.bootShow := h.wr.wr.wr

theorem lcApply (h : PipeAtReset q d) : PipeAtReset q d.lcApply := by
  unfold Dev.lcApply
  split
  · exact h
  · dsimp only
    split_ifs
    · exact (h.wr.updHub _).updHub _
    · exact (h.wr.updHub _).updHub _
    · exact h.wr.updHub _

theorem coldRestore (d : Dev) (devid : Nat) : PipeAtReset (fun _ => true) (d.coldRestore devid) :=
  (showOff (of_drop fun k hk _ => by simp [hk])).wr.wr.lcApply

theorem warmRestore (d : Dev) : PipeAtReset (fun k => !k.sticky) d.warmRestore :=
  showOff (of_drop fun k hk hq => by simpa [FKey.warmRestores, hk] using hq)

end PipeAtReset

/-! ### A power-on -/

/-- Applying a pending life-cycle state writes `HUB_LCS` alone. -/
theorem lcApply_rd (h : f.reg ≠ .HUB_LCS) : d.lcApply.rd f p i j = d.rd f p i j := by
  unfold Dev.lcApply
  split
  · rfl
  · dsimp only
    split_ifs <;> exact rd_wr_of_reg h

/-- A power-on restores the registers, records its cause and leaves the device in reset until its supplies release it. -/
theorem coldReset_form (d : Dev) (devid : Nat) (lost : Bool) : ∃ (e : Dev) (cause : Nat) (k : HubSt → HubSt),
    d.coldReset devid lost = ((((e.coldRestore devid).wr F.HUB_RST_CAUSE_CAUSE cause).updHub k).updBoot fun b => { b with
      held := some .supply, ready := true, pavoff := false, supLow := false, mode := 0, reason := none, want := none, released := false
      good := false, hold := false, version := [] }).bootShow := by
  unfold Dev.coldReset
  extract_lets d₁ d₂ keep t cause d₃ d₄
  by_cases hk : keep = true
  · exact ⟨d₂, cause, _, by rw [show d₄ = _ from if_pos hk]⟩
  · exact ⟨d₂, cause, id, by rw [show d₄ = _ from if_neg hk]; rfl⟩

/-- The straps stand as they were read at the power-on (R534). -/
theorem coldReset_strap (d : Dev) (devid : Fin 4) (lost : Bool) :
    (d.coldReset devid lost).rd F.QDL_ID_DEVID = devid ∧ (d.coldReset devid lost).on F.QDL_ID_LEADER = (devid == 0) := by
  obtain ⟨e, cause, k, hd⟩ := coldReset_form d devid lost
  let read : Dev := ((e.enginesOff false).dropRegs fun k => k.dom != .always).showOff.wr F.QDL_ID_DEVID devid
  have same : ∀ f : Fld, f.reg = .QDL_ID → (d.coldReset devid lost).rd f = (read.wrb F.QDL_ID_LEADER (devid.val == 0)).rd f := fun f hf => by
    have skip : ∀ {g : Fld} {v : Nat} {d : Dev}, g.reg ≠ .QDL_ID → (d.wr g v).rd f = d.rd f := fun hg => rd_wr_of_reg (hf ▸ hg.symm)
    have lc : ∀ {d : Dev}, d.lcApply.rd f = d.rd f := lcApply_rd (hf ▸ by decide)
    rw [hd]
    exact (skip (by decide)).trans ((skip (by decide)).trans ((skip (by decide)).trans ((skip (by decide)).trans lc)))
  refine ⟨(same _ rfl).trans ((rd_wr_of_lo (by decide)).trans (rd_wr_of_lt devid.isLt)), ?_⟩
  exact (on_of_rd (same _ rfl)).trans ((on_wrb rfl).trans (by fin_cases devid <;> rfl))

theorem coldReset_pipe (d : Dev) (devid : Nat) (lost : Bool) : PipeAtReset (fun _ => true) (d.coldReset devid lost) := by
  obtain ⟨e, cause, k, hd⟩ := coldReset_form d devid lost
  rw [hd]
  exact ((((PipeAtReset.coldRestore e devid).wr.updHub k).updBoot _).bootShow)

theorem coldReset_held (d : Dev) (devid : Nat) (lost : Bool) :
    (d.coldReset devid lost).hub.boot.held = some .supply ∧ (d.coldReset devid lost).hub.boot.ready = true := by
  obtain ⟨e, cause, k, hd⟩ := coldReset_form d devid lost
  rw [hd]
  exact ⟨rfl, rfl⟩

/-! ### A warm reset -/

theorem resetReady_all (h : ∀ p : Pipe, d.resetReady p = true) : ((List.range 4).all fun p => d.resetReady p) = true :=
  List.all_eq_true.2 fun p hp => h ⟨p, List.mem_range.1 hp⟩

theorem warmStart_waits (h : d.hub.boot.want = none ∨ ∃ p : Pipe, d.resetReady p = false) : d.warmStart = d := by
  unfold Dev.warmStart
  split
  · rfl
  · next cause reason hw =>
    obtain ⟨p, hp⟩ := h.resolve_left (by simp [hw])
    refine if_neg fun ha => ?_
    simpa [hp] using List.all_eq_true.1 ha p (List.mem_range.2 p.isLt)

/-- The reset that waits restores the registers, records its cause and leaves the device in reset. -/
theorem warmStart_form {cause : Nat} {reason : Option Nat} (hw : d.hub.boot.want = some (cause, reason))
    (hp : ∀ p : Pipe, d.resetReady p = true) : ∃ (e : Dev) (k : Boot → Boot), (∀ b, (k b).want = none ∧ (k b).released = false) ∧
      d.warmStart = ((e.warmRestore.wr F.HUB_RST_CAUSE_CAUSE cause).updBoot k).bootShow := by
  unfold Dev.warmStart
  rw [hw]
  dsimp only
  rw [if_pos (resetReady_all hp)]
  exact ⟨_, _, fun _ => ⟨rfl, rfl⟩, rfl⟩

theorem warmRestore_lost (d : Dev) : d.warmRestore.hub.lost = false := rfl

theorem warmStart_effect {cause : Nat} {reason : Option Nat} (hw : d.hub.boot.want = some (cause, reason)) (hc : cause < 16)
    (hp : ∀ p : Pipe, d.resetReady p = true) :
    d.warmStart.rd F.HUB_RST_CAUSE_CAUSE = cause ∧ d.warmStart.hub.boot.want = none ∧ d.warmStart.hub.boot.released = false ∧
      d.warmStart.hub.lost = false ∧ PipeAtReset (fun k => !k.sticky) d.warmStart := by
  obtain ⟨e, k, hk, hd⟩ := warmStart_form hw hp
  rw [hd]
  refine ⟨?_, (hk _).1, (hk _).2, warmRestore_lost e, ((PipeAtReset.warmRestore e).wr.updBoot k).bootShow⟩
  have skip : ∀ {g : Fld} {v : Nat} {d : Dev}, g.reg ≠ .HUB_RST_CAUSE → (d.wr g v).rd F.HUB_RST_CAUSE_CAUSE = d.rd F.HUB_RST_CAUSE_CAUSE :=
    fun hg => rd_wr_of_reg hg.symm
  exact (skip (by decide)).trans ((skip (by decide)).trans ((skip (by decide)).trans (rd_wr_of_lt (hc.trans (by decide)))))

/-! ### A function-level reset -/

theorem settle_owed_nil (h : d.router.owed = []) : (settle d).router.owed = [] := by
  change d.router.owed.filter _ = []
  rw [h]
  rfl

theorem flrStart_effect (d : Dev) : d.flrStart.on F.HUB_PCIE_STAT_FLR = true ∧ d.flrStart.router.table = [] ∧ d.flrStart.router.owed = [] ∧
    ∀ f p i j, f.reg ≠ .HUB_PCIE_STAT → ((f.key p i j).dom = .flr ∨ (f.key p i j).dom = .queue) → d.flrStart.rd f p i j = f.rstAt p i := by
  refine ⟨beq_iff_eq.2 (Dev.rd_wr _ _ _ _ _ _), rfl, rfl, fun f p i j hf hd => ?_⟩
  exact (rd_wr_of_reg hf).trans (dropRegs_rd (by simpa using hd))

/-- The end of an FLR clears its bit and raises HOST_FLR; what it then owes changes no event. -/
theorem flrEnd_form (h : d.on F.HUB_PCIE_STAT_FLR = true) :
    ∃ k : Router → Router, d.flrEnd = ((d.wr F.HUB_PCIE_STAT_FLR 0).raise 559 0).updRouter k ∧
      ∀ r, (k r).stat = r.stat ∧ (k r).syn = r.syn := by
  simp only [Dev.flrEnd, h, Bool.not_true, Bool.false_eq_true, if_false]
  split_ifs
  · exact ⟨id, rfl, fun _ => ⟨rfl, rfl⟩⟩
  · exact ⟨_, rfl, fun _ => ⟨rfl, rfl⟩⟩

theorem flrEnd_effect (h : d.on F.HUB_PCIE_STAT_FLR = true) (hl : d.hub.lost = false) :
    d.flrEnd.on F.HUB_PCIE_STAT_FLR = false ∧ Raised (settle d.flrEnd) 559 0 := by
  obtain ⟨k, hd, hk⟩ := flrEnd_form h
  obtain ⟨hm, hs⟩ := raise_raised (d.wr F.HUB_PCIE_STAT_FLR 0) 559 0 hl
  rw [hd]
  refine ⟨?_, ?_, ?_⟩
  · rw [Dev.on, Dev.updRouter_rd, raise_rd _ _ _ _ _ _ _ (by decide), Dev.rd_wr]
    rfl
  · rw [settle_stat, Dev.updRouter_router, (hk _).1]
    exact hm
  · rw [settle_syn, Dev.updRouter_router, (hk _).2]
    exact hs

/-! ### The host link -/

/-- A change of the link shows what it writes; HOST_LINK writes none of it (R573). -/
theorem linkChange_rd (k : Dev → Dev) (hf : f.reg = .HUB_PCIE_STAT) : (d.linkChange k).rd f p i j = (k d).rd f p i j := by
  unfold Dev.linkChange
  dsimp only
  split
  · rfl
  · exact raise_rd _ _ _ _ _ _ _ (by rw [hf]; decide)

theorem linkFields_rd_ne (up : Bool) (w v : Nat) (h : f.lo ≠ 31 ∧ f.lo ≠ 16 ∧ f.lo ≠ 8) :
    (d.linkFields up w v).rd f = d.rd f :=
  (rd_wr_of_lo h.2.2).trans ((rd_wr_of_lo h.2.1).trans (rd_wr_of_lo h.1))

/-- The link shows whether it is up, its width and its speed. -/
def ShowsLink (d : Dev) (up : Bool) (w v : Nat) : Prop :=
  d.on F.HUB_PCIE_STAT_DLUP = up ∧ d.rd F.HUB_PCIE_STAT_WIDTH = w ∧ d.rd F.HUB_PCIE_STAT_SPEED = v

theorem ShowsLink.settle {up : Bool} {w v : Nat} (h : ShowsLink d up w v) : ShowsLink (settle d) up w v := by
  obtain ⟨hu, hw, hv⟩ := h
  exact ⟨settle_on.trans hu, (settle_rd ..).trans hw, (settle_rd ..).trans hv⟩

theorem linkChange_shows (d : Dev) (up : Bool) {w v : Nat} (hw : w < 16) (hv : v < 16) :
    ShowsLink (d.linkChange fun d => d.linkFields up w v) up w v := by
  refine ⟨(on_of_rd (linkChange_rd _ rfl)).trans ?_, (linkChange_rd _ rfl).trans ?_, (linkChange_rd _ rfl).trans (rd_wr_of_lt hv)⟩
  · exact (on_of_rd ((rd_wr_of_lo (by decide)).trans (rd_wr_of_lo (by decide)))).trans (on_wrb rfl)
  · exact (rd_wr_of_lo (by decide)).trans (rd_wr_of_lt hw)

/-- The configuration space reads its reset values; FLR stands as before. -/
theorem cfgReset_on (d : Dev) : d.cfgReset.on F.HUB_PCIE_STAT_FLR = d.on F.HUB_PCIE_STAT_FLR ∧
    d.cfgReset.on F.HUB_PCIE_STAT_BME = false ∧ d.cfgReset.on F.HUB_PCIE_STAT_MSIXEN = false ∧
    d.cfgReset.on F.HUB_PCIE_STAT_FMASK = false := by
  have z : ∀ {f : Fld} {d : Dev}, f.width = 1 → (d.wr f 0).on f = false := fun h => on_wrb (b := false) h
  refine ⟨on_of_rd ?_, ?_, ?_, z rfl⟩
  · exact (rd_wr_of_lo (by decide)).trans ((rd_wr_of_lo (by decide)).trans (rd_wr_of_lo (by decide)))
  · exact (on_of_rd ((rd_wr_of_lo (by decide)).trans (rd_wr_of_lo (by decide)))).trans (z rfl)
  · exact (on_of_rd (rd_wr_of_lo (by decide))).trans (z rfl)

/-- A link that goes down leaves an FLR in progress and the configuration space reset (R555). -/
theorem linkDown_form (d : Dev) (down : Bool) : ∃ e : Dev, e.on F.HUB_PCIE_STAT_FLR = true ∧
    d.linkDown down = if down then e.cfgReset.linkChange fun d => d.linkFields false 0 0 else e.cfgReset := by
  by_cases h : d.on F.HUB_PCIE_STAT_FLR = true
  · exact ⟨d, h, by rw [Dev.linkDown, if_pos h]⟩
  · exact ⟨d.flrStart, (flrStart_effect d).1, by rw [Dev.linkDown, if_neg h]⟩

theorem linkDown_effect (d : Dev) (down : Bool) :
    (d.linkDown down).on F.HUB_PCIE_STAT_FLR = true ∧ (d.linkDown down).on F.HUB_PCIE_STAT_BME = false ∧
      (d.linkDown down).on F.HUB_PCIE_STAT_MSIXEN = false ∧ (d.linkDown down).on F.HUB_PCIE_STAT_FMASK = false ∧
      (down = true → ShowsLink (d.linkDown down) false 0 0) := by
  obtain ⟨e, he, hd⟩ := linkDown_form d down
  obtain ⟨hf, hb, hm, hk⟩ := cfgReset_on e
  rw [hd]
  cases down with
  | false => exact ⟨hf.trans he, hb, hm, hk, nofun⟩
  | true =>
    have same : ∀ f : Fld, f.reg = .HUB_PCIE_STAT → f.lo ≠ 31 ∧ f.lo ≠ 16 ∧ f.lo ≠ 8 →
        (e.cfgReset.linkChange fun d => d.linkFields false 0 0).on f = e.cfgReset.on f := fun f hr hl =>
      on_of_rd ((linkChange_rd _ hr).trans (linkFields_rd_ne _ _ _ hl))
    exact ⟨(same _ rfl (by decide)).trans (hf.trans he), (same _ rfl (by decide)).trans hb, (same _ rfl (by decide)).trans hm,
      (same _ rfl (by decide)).trans hk, fun _ => linkChange_shows _ _ (by decide) (by decide)⟩

/-- A configuration write shows its three bits (R554); what it ends and what it sends writes none of them. -/
theorem cfgWrite_effect (d : Dev) (bme msixen fmask : Bool) :
    (d.cfgWrite bme msixen fmask).on F.HUB_PCIE_STAT_BME = bme ∧ (d.cfgWrite bme msixen fmask).on F.HUB_PCIE_STAT_MSIXEN = msixen ∧
      (d.cfgWrite bme msixen fmask).on F.HUB_PCIE_STAT_FMASK = fmask := by
  let e := ((d.wrb F.HUB_PCIE_STAT_BME bme).wrb F.HUB_PCIE_STAT_MSIXEN msixen).wrb F.HUB_PCIE_STAT_FMASK fmask
  have h : LinkSame e (d.cfgWrite bme msixen fmask) :=
    (LinkSame.ite _ ((LinkSame.refl e).hostReadsEnd true).cuvHostLost (.refl e)).cqDrain
  refine ⟨h.on.trans ?_, h.on.trans ?_, h.on.trans (on_wrb rfl)⟩
  · exact (on_of_rd ((rd_wr_of_lo (by decide)).trans (rd_wr_of_lo (by decide)))).trans (on_wrb rfl)
  · exact (on_of_rd (rd_wr_of_lo (by decide))).trans (on_wrb rfl)

/-- Settles O9: each command is one of the resets or link operations above. -/
theorem deviceResets : Obligations.DeviceResets := by
  unfold Obligations.DeviceResets
  refine ⟨fun s devid lost => ⟨_, rfl, ?_⟩, fun s ha => ⟨fun cause reason hw hc hp => ?_, fun h => ?_, fun h => ?_, fun h => ?_,
    fun h hl => ?_, fun h => ?_, fun down => ?_, fun w v hf => ?_, fun w v hf => ?_, fun bme msixen fmask hu hf => ?_⟩⟩
  · obtain ⟨hh, hr⟩ := coldReset_held s.dev devid lost
    obtain ⟨hid, hlead⟩ := coldReset_strap s.dev devid lost
    exact ⟨hh, hr, hid, settle_on.trans hlead, fun f p i j hf => coldReset_pipe s.dev devid lost f p i j hf rfl⟩
  · obtain ⟨h1, h2, h3, h4, h5⟩ := warmStart_effect hw hc hp
    exact does_of_run ha rfl ⟨h1, h2, h3, h4, fun f p i j hf hs => h5 f p i j hf (by simp [hs])⟩
  · exact exec_of_run ha rfl (warmStart_waits h)
  · obtain ⟨h1, h2, h3, h4⟩ := flrStart_effect s.dev
    refine does_of_run ha rfl ?_
    rw [if_neg (by simp [h])]
    exact ⟨settle_on.trans h1, h2, settle_owed_nil h3, fun f p i j hf hd => (settle_rd ..).trans (h4 f p i j hf hd)⟩
  · exact exec_of_run ha rfl (if_pos h)
  · obtain ⟨hflr, hev⟩ := flrEnd_effect h hl
    exact does_of_run ha rfl ⟨settle_on.trans hflr, hev⟩
  · exact exec_of_run ha rfl (by simp [Dev.flrEnd, h])
  · obtain ⟨hflr, hbme, hmsix, hmask, hshow⟩ := linkDown_effect s.dev down
    exact does_of_run ha rfl ⟨settle_on.trans hflr, settle_on.trans hbme, settle_on.trans hmsix, settle_on.trans hmask,
      fun h => (hshow h).settle⟩
  · refine does_of_run ha rfl ?_
    dsimp only
    rw [if_neg (by simp [hf])]
    exact (linkChange_shows s.dev true (by cases w <;> split_ifs <;> decide) (by cases v <;> split_ifs <;> decide)).settle
  · exact exec_of_run ha rfl (if_pos hf)
  · refine does_of_run ha rfl ?_
    rw [if_pos (by simp [hu, hf])]
    obtain ⟨hb, hm, hk⟩ := cfgWrite_effect s.dev bme msixen fmask
    exact ⟨settle_on.trans hb, settle_on.trans hm, settle_on.trans hk⟩

end Sys2Proof.Machine
end

section
/-!
Properties that the commands of takes and casks keep. A definition below says of a property that it stands whatever the casks, the encoders
or the take queues change of their own (R97, R355, R428); each operation of theirs then keeps it, and a proof that it leaves something
alone looks at the changes once and not at every operation.
-/
namespace Sys2Proof.Machine

variable {P Q : Dev → Prop} {d : Dev}

/-! ### Loops -/

theorem foldl_keeps {α : Type} {f : Dev → α → Dev} (l : List α) (hf : ∀ d, ∀ x ∈ l, P d → P (f d x)) (h : P d) : P (l.foldl f d) :=
  List.foldlRecOn l f h fun d hd x hx => hf d x hx hd

/-- What the turn of one element of a list takes from `P` to `Q`, where the turns of the others keep each. -/
theorem foldl_turn {α : Type} {f : Dev → α → Dev} {x : α} {l : List α} (hx : x ∈ l) (hl : l.Nodup)
    (before : ∀ d, ∀ y ∈ l, y ≠ x → P d → P (f d y)) (turn : ∀ d, P d → Q (f d x)) (after : ∀ d, ∀ y ∈ l, y ≠ x → Q d → Q (f d y))
    (h : P d) : Q (l.foldl f d) := by
  obtain ⟨a, b, rfl⟩ := List.append_of_mem hx
  have hxa : x ∉ a := fun hm => (List.nodup_append.1 hl).2.2 x hm x (by simp) rfl
  have hxb : x ∉ b := (List.nodup_cons.1 (List.nodup_append.1 hl).2.1).1
  rw [List.foldl_append, List.foldl_cons]
  refine foldl_keeps b (fun e y hy => after e y (by simp [hy]) fun e' => hxb (e' ▸ hy)) (turn _ ?_)
  exact foldl_keeps a (fun e y hy => before e y (by simp [hy]) fun e' => hxa (e' ▸ hy)) h

/-! ### Fields apart -/

/-- A field of a register that is not in a list and one of a register that is. -/
theorem rd_wr_of_mem {f g : Fld} {rs : List RegId} {v p i j p' i' j' : Nat} (hf : f.reg ∉ rs) (hg : g.reg ∈ rs) :
    (d.wr g v p' i' j').rd f p i j = d.rd f p i j := rd_wr_of_reg fun e => hf (e ▸ hg)

/-! ### Pipes -/

@[simp] theorem updPipe_pipe_same (d : Dev) (p : Nat) (f : PipeSt → PipeSt) : (d.updPipe p f).pipe p = f (d.pipe p) := by
  match p with
  | 0 | 1 | 2 | _ + 3 => rfl

theorem updPipe_pipe (p q : Pipe) (d : Dev) (f : PipeSt → PipeSt) :
    (d.updPipe p f).pipe q = if q = p then f (d.pipe q) else d.pipe q := by
  fin_cases p <;> fin_cases q <;> rfl

theorem updPipe_pipe_ne {p q : Pipe} (h : q ≠ p) (d : Dev) (f : PipeSt → PipeSt) : (d.updPipe p f).pipe q = d.pipe q := by
  rw [updPipe_pipe, if_neg h]

/-- A part of the pipes' records that a change leaves alone in the pipe it changes is left alone in all. -/
theorem updPipe_part {α : Type} (φ : PipeSt → α) {f : PipeSt → PipeSt} (hf : ∀ x, φ (f x) = φ x) (d : Dev) (u n : Nat) :
    φ ((d.updPipe u f).pipe n) = φ (d.pipe n) := by
  match u, n with
  | 0, 0 | 1, 1 | 2, 2 | _ + 3, _ + 3 => exact hf _
  | 0, 1 | 0, 2 | 0, _ + 3 | 1, 0 | 1, 2 | 1, _ + 3 | 2, 0 | 2, 1 | 2, _ + 3 | _ + 3, 0 | _ + 3, 1 | _ + 3, 2 => rfl

/-! ### Casks -/

/-- The property stands whatever casks change: their status, and their contents in the Hub or a pipe. -/
def CaskKeeps (P : Dev → Prop) : Prop :=
  (∀ {d : Dev} {f : Fld} {v p i j : Nat}, f.reg = .CASK_STAT → P d → P (d.wr f v p i j)) ∧
    (∀ {d : Dev} (g : HubSt → Tab Cask), P d → P (d.updHub fun h => { h with casks := g h })) ∧
    ∀ {d : Dev} {u : Nat} (g : PipeSt → Tab Cask), P d → P (d.updPipe u fun s => { s with casks := g s })

namespace CaskKeeps

variable (k : CaskKeeps P)
include k

theorem stat {f : Fld} {v p i j : Nat} (hf : f.reg = .CASK_STAT) (h : P d) : P (d.wr f v p i j) := k.1 hf h

theorem setCask (h : P d) (u n : Nat) (x : Cask) : P (d.setCask u n x) := by
  obtain ⟨-, hhub, hpipe⟩ := k
  unfold Dev.setCask
  split
  · exact hhub _ h
  · exact hpipe _ h

theorem putCask (h : P d) (u n : Nat) (x : Cask) : P (d.putCask u n x) := k.stat rfl (k.stat rfl (k.setCask h u n x))

theorem caskPut (h : P d) (u n : Nat) (w : CaskWord) : P (d.caskPut u n w) := by
  unfold Dev.caskPut
  extract_lets x d₁ d₂
  have h₁ : P d₁ := k.stat rfl h
  split_ifs
  · exact k.stat rfl (k.putCask h₁ u n _)
  · exact k.putCask h₁ u n _
  · exact k.putCask h₁ u n _

theorem caskDrain (h : P d) (u n fuel : Nat) : P (d.caskDrain u n fuel) := by
  induction fuel generalizing d with
  | zero => exact h
  | succ fuel ih =>
    unfold Dev.caskDrain
    dsimp only
    split
    · exact h
    · split_ifs
      · exact ih (k.caskPut (k.setCask h u n _) u n _)
      · exact h

theorem caskSend (h : P d) (u n ep : Nat) (ws : List CaskWord) : P (d.caskSend u n ep ws) := by
  unfold Dev.caskSend
  split_ifs
  · exact k.caskDrain (k.setCask h u n _) u n _
  · exact h

theorem caskFlush (h : P d) (u n : Nat) : P (d.caskFlush u n) := by
  unfold Dev.caskFlush
  split_ifs
  · exact k.caskDrain (k.stat rfl (k.stat rfl (k.putCask h u n _))) u n _
  · exact h

end CaskKeeps

/-! ### Encoders -/

/-- The registers of an encoder's streams. -/
def encRegs : List RegId :=
  [.PXR_ENC_VSTAT, .PXR_CNT_FRAMES_LO, .PXR_CNT_FRAMES_HI, .PXR_CNT_GAPS_LO, .PXR_CNT_GAPS_HI, .PXR_CNT_BYTES_LO, .PXR_CNT_BYTES_HI]

/-- The property stands whatever an encoder changes as its branch moves on. -/
def EncKeeps (P : Dev → Prop) : Prop :=
  CaskKeeps P ∧ (∀ {d : Dev} {f : Fld} {v p i j : Nat}, f.reg ∈ encRegs → P d → P (d.wr f v p i j)) ∧
    (∀ {d : Dev} (e syn : Nat), P d → P (d.raise e syn)) ∧
    ∀ {d : Dev} {u : Nat} (g : PipeSt → Tab PxrEnc), P d → P (d.updPipe u fun s => { s with encs := g s })

namespace EncKeeps

variable (k : EncKeeps P)
include k

theorem toCask : CaskKeeps P := k.1

theorem reg {f : Fld} {v p i j : Nat} (hf : f.reg ∈ encRegs) (h : P d) : P (d.wr f v p i j) := k.2.1 hf h

theorem raise (h : P d) (e syn : Nat) : P (d.raise e syn) := k.2.2.1 e syn h

theorem putEnc (h : P d) (p v : Nat) (e : PxrEnc) : P (d.putEnc p v e) := k.2.2.2 _ h

theorem bumpBy (h : P d) (n : Nat) (c : Cnt) (p i j : Nat) (hc : c.lo.reg ∈ encRegs ∧ c.hi.reg ∈ encRegs ∧ c.sat.reg ∈ encRegs) :
    P (d.bumpBy n c p i j) := by
  obtain ⟨hlo, hhi, hsat⟩ := hc
  unfold Dev.bumpBy
  dsimp only
  split_ifs
  · exact k.reg hhi (k.reg hlo (k.reg hsat h))
  · exact k.reg hhi (k.reg hlo h)

theorem encSend (h : P d) (p v : Nat) (bs : List Byte) (fin : Bool) : P (d.encSend p v bs fin) :=
  k.bumpBy (k.toCask.caskSend h p _ _ _) _ C.PXR_CNT_BYTES p 0 0 (by decide)

theorem encGap (h : P d) (p v : Nat) (r : GapRec) : P (d.encGap p v r) :=
  k.raise (k.bumpBy (k.encSend h p v _ _) 1 C.PXR_CNT_GAPS p 0 0 (by decide)) _ _

theorem encDesc (h : P d) (p v : Nat) : P (d.encDesc p v) := k.putEnc (k.encSend h p v _ _) p v _

/-- The descriptor goes out first where it is due. -/
theorem descWhen (h : P d) (b : Bool) (p v : Nat) : P (d.when b fun d => d.encDesc p v) := by
  unfold Dev.when
  split_ifs
  · exact k.encDesc h p v
  · exact h

theorem encFrameStart (h : P d) (p v fn seq : Nat) (t : Nat × Nat) : P (d.encFrameStart p v fn seq t) :=
  k.reg (by decide) (k.putEnc (k.encSend (k.descWhen h _ p v) p v _ _) p v _)

theorem encFrameEnd (h : P d) (p v : Nat) (void : Bool) (t : Nat × Nat) : P (d.encFrameEnd p v void t) := by
  unfold Dev.encFrameEnd
  extract_lets e g whole flags bs flen d₁
  have h₁ : P d₁ := k.reg (by decide) (k.putEnc (k.encSend h p v _ _) p v _)
  split_ifs
  · exact h₁
  · exact k.reg (by decide) (k.bumpBy h₁ 1 C.PXR_CNT_FRAMES p 0 0 (by decide))

/-- The end of the frame in progress, and what waits for it. -/
theorem endDue (h : P d) (b : Bool) (p v : Nat) (void : Bool) (t : Nat × Nat) :
    P ((if b then d.encFrameEnd p v void t else d).encDue p v) := by
  refine k.putEnc ?_ p v _
  split_ifs
  · exact k.encFrameEnd h p v void t
  · exact h

theorem encAdvance (h : P d) (p v fuel : Nat) : P (d.encAdvance p v fuel) := by
  induction fuel generalizing d with
  | zero => exact h
  | succ fuel ih =>
    unfold Dev.encAdvance
    extract_lets e
    split
    · exact h
    · split
      · exact h
      · exact h
      · next i rest _ _ =>
        have hr : P (d.putEnc p v { e with items := rest }) := k.putEnc h p v _
        refine ih ?_
        cases i with
        | fs fn seq t => exact k.encFrameStart hr p v fn seq t
        | fe t => exact k.endDue hr _ p v false t
        | void t => exact k.endDue hr _ p v true t
        | gap r => exact k.encGap (k.descWhen hr _ p v) p v r
        | again bs => exact k.encSend (k.descWhen hr _ p v) p v bs true
        | close => exact k.putEnc hr p v _
        | row _ _ _ => exact hr

theorem encPush (h : P d) (p v : Nat) (is : List RecItem) : P (d.encPush p v is) := k.encAdvance (k.putEnc h p v _) p v _

end EncKeeps

/-! ### Take queues -/

/-- The fields in which the close of a stream shows outside its encoder and its queue. -/
def streamField (f : Fld) : Bool :=
  f.reg == .PXR_ENC_TAKE || f.reg == .SFE_STAT || (f.reg == .PCTL_STAT && f.lo == F.PCTL_STAT_TAKE.lo)

/-- The property stands whatever the close of a stream changes outside its take queue. -/
def StreamKeeps (P : Dev → Prop) : Prop :=
  EncKeeps P ∧ (∀ {d : Dev} {f : Fld} {v p i j : Nat}, streamField f = true → P d → P (d.wr f v p i j)) ∧
    ∀ {d : Dev} {u : Nat} (g : PipeSt → Sfe), P d → P (d.updPipe u fun s => { s with sfe := g s })

/-- The property stands whatever the close of a take changes in its streams and queues. -/
def TakeKeeps (P : Dev → Prop) : Prop :=
  StreamKeeps P ∧ (∀ {d : Dev} {v p i j : Nat}, P d → P (d.wr F.CELP_TQ_STAT_STATE v p i j)) ∧
    ∀ {d : Dev} {u : Nat} (g : PipeSt → Tab TakeQ), P d → P (d.updPipe u fun s => { s with takes := g s })

/-- What the close of a queue leaves, by what the queue was: open, waiting for its first frame, or neither. -/
theorem StreamKeeps.takeCloseQueue (k : StreamKeeps P) {p t : Nat} (hopen : d.tqState p t = 2 → P (d.wr F.CELP_TQ_STAT_STATE 3 p t))
    (hwait : d.tqState p t = 1 → P (d.putTq p t { d.tq p t with take := 0, tstart := 0 }))
    (helse : d.tqState p t ≠ 2 → d.tqState p t ≠ 1 → P d) : P (d.takeCloseQueue p t) := by
  obtain ⟨enc, field, sfe⟩ := k
  unfold Dev.takeCloseQueue
  extract_lets q d₁ e items open_ d₂ d₃ d₄
  have h₄ : d.tqState p t = 2 → P d₄ := fun h2 =>
    sfe _ (enc.encPush (enc.putEnc (field (by decide) (field (by decide) (hopen h2))) p q.vc _) p q.vc _)
  split_ifs with h2 _ h1
  · exact sfe _ (field (by decide) (h₄ h2))
  · exact h₄ h2
  · exact hwait h1
  · exact helse h2 h1

theorem TakeKeeps.takeCloseQueue (k : TakeKeeps P) (h : P d) (p t : Nat) : P (d.takeCloseQueue p t) := by
  obtain ⟨stream, queue, takes⟩ := k
  exact stream.takeCloseQueue (fun _ => queue h) (fun _ => takes _ h) fun _ _ => h

theorem TakeKeeps.takeClosePipe (k : TakeKeeps P) (h : P d) (p : Nat) : P (d.takeClosePipe p) := by
  refine foldl_keeps _ (fun d t _ h => ?_) h
  split_ifs
  · exact k.takeCloseQueue h p t
  · exact h

/-! ### A field read -/

section

variable {f : Fld} {v p i j : Nat}

theorem caskKeeps_rd (hf : f.reg ≠ .CASK_STAT) : CaskKeeps fun d => d.rd f p i j = v :=
  ⟨fun hg h => (rd_wr_of_reg fun e => hf (e.trans hg)).trans h, fun _ h => h, fun _ h => h⟩

theorem encKeeps_rd (hf : f.reg ∉ RegId.CASK_STAT :: .QDL_PEER :: encRegs) : EncKeeps fun d => d.rd f p i j = v := by
  simp only [List.mem_cons, not_or] at hf
  obtain ⟨hc, hq, he⟩ := hf
  exact ⟨caskKeeps_rd hc, fun hg h => (rd_wr_of_mem (by simpa using he) hg).trans h, fun _ _ h => (raise_rd _ _ _ _ _ _ _ hq).trans h, fun _ h => h⟩

theorem rd_wr_of_streamField {g : Fld} {v p' i' j' : Nat} (hf : streamField f = false) (hg : streamField g = true) :
    (d.wr g v p' i' j').rd f p i j = d.rd f p i j := by
  refine d.rd_wr_ne _ _ _ _ _ _ _ _ _ fun e => ?_
  have hr : f.reg = g.reg := congrArg FKey.reg e
  have hl : f.lo = g.lo := congrArg FKey.lo e
  have hs : streamField f = streamField g := by simp only [streamField, hr, hl]
  simp [hf, hg] at hs

theorem streamKeeps_rd (hf : f.reg ∉ RegId.CASK_STAT :: .QDL_PEER :: encRegs) (hs : streamField f = false) :
    StreamKeeps fun d => d.rd f p i j = v :=
  ⟨encKeeps_rd hf, fun hg h => (rd_wr_of_streamField hs hg).trans h, fun _ h => h⟩

theorem takeKeeps_rd (hf : f.reg ∉ RegId.CASK_STAT :: .QDL_PEER :: encRegs) (hs : streamField f = false) (ht : f.reg ≠ .CELP_TQ_STAT) :
    TakeKeeps fun d => d.rd f p i j = v :=
  ⟨streamKeeps_rd hf hs, fun h => (rd_wr_of_reg ht).trans h, fun _ h => h⟩

end

/-! ### The take queues of a pipe -/

/-- Queue `t` of pipe `p` is in state `n` with `q` of its take. -/
def QueueIs (p t n : Nat) (q : TakeQ) (d : Dev) : Prop := d.tqState p t = n ∧ d.tq p t = q

/-- A change of a pipe's record that leaves its take queues leaves each. -/
theorem QueueIs.updPipe {p t n u : Nat} {q : TakeQ} (h : QueueIs p t n q d) {g : PipeSt → PipeSt} (hg : ∀ x, (g x).takes = x.takes) :
    QueueIs p t n q (d.updPipe u g) := by
  obtain ⟨hs, hq⟩ := h
  exact ⟨hs, (congrArg (fun x => Tab.get ({} : TakeQ) x t) (updPipe_part (·.takes) hg _ _ _)).trans hq⟩

theorem QueueIs.wr {p t n v p' i j : Nat} {q : TakeQ} {f : Fld} (h : QueueIs p t n q d) (hf : f.reg ≠ .CELP_TQ_STAT) :
    QueueIs p t n q (d.wr f v p' i j) := by
  obtain ⟨hs, hq⟩ := h
  exact ⟨(rd_wr_of_reg hf.symm).trans hs, hq⟩

theorem QueueIs.raise {p t n : Nat} {q : TakeQ} (h : QueueIs p t n q d) (e syn : Nat) : QueueIs p t n q (d.raise e syn) := by
  obtain ⟨hs, hq⟩ := h
  exact ⟨(raise_rd _ _ _ _ _ _ _ (by decide)).trans hs, by rwa [Dev.tq, raise_pipe]⟩

/-- Streams leave the queues alone. -/
theorem streamKeeps_queue (p t n : Nat) (q : TakeQ) : StreamKeeps (QueueIs p t n q) :=
  ⟨⟨⟨fun hf h => h.wr (by rw [hf]; decide), fun _ h => h, fun _ h => h.updPipe fun _ => rfl⟩,
    fun hf h => h.wr fun e => absurd (e ▸ hf) (by decide), fun e syn h => h.raise e syn, fun _ h => h.updPipe fun _ => rfl⟩,
    fun hf h => h.wr fun e => by simp [streamField, e] at hf, fun _ h => h.updPipe fun _ => rfl⟩

theorem tq_putTq_ne {p t t' : Nat} {q : TakeQ} (h : t' ≠ t) : (d.putTq p t q).tq p t' = d.tq p t' := by
  simp [Dev.tq, Dev.putTq, Tab.get_set_other _ _ _ h]

theorem tq_putTq_same {p t : Nat} {q : TakeQ} : (d.putTq p t q).tq p t = q := by simp [Dev.tq, Dev.putTq]

/-- The close of one queue leaves the others of its pipe alone. -/
theorem takeCloseQueue_other {p t t' n : Nat} {q : TakeQ} (ht : t' ≠ t) (h : QueueIs p t' n q d) : QueueIs p t' n q (d.takeCloseQueue p t) := by
  obtain ⟨hs, hq⟩ := h
  exact (streamKeeps_queue p t' n q).takeCloseQueue (fun _ => ⟨(d.rd_wr_i _ _ _ _ _ _ _ _ _ ht).trans hs, hq⟩)
    (fun _ => ⟨hs, (tq_putTq_ne ht).trans hq⟩) fun _ _ => ⟨hs, hq⟩

/-- A queue that was in state `n` has shut: it is CLOSING where it was OPEN, and out of its take where it still waited (R428). -/
def QueueShut (p t n : Nat) (d : Dev) : Prop := (n = 2 → d.tqState p t = 3) ∧ (n = 1 → (d.tq p t).take = 0)

theorem takeCloseQueue_shuts {p t n : Nat} {q : TakeQ} (h : QueueIs p t n q d) : QueueShut p t n (d.takeCloseQueue p t) := by
  obtain ⟨hn, hq⟩ := h
  by_cases h2 : n = 2
  · obtain ⟨hs, -⟩ : QueueIs p t 3 q (d.takeCloseQueue p t) := (streamKeeps_queue p t 3 q).takeCloseQueue
      (fun _ => ⟨rd_wr_of_lt (by decide), hq⟩) (fun h1 => by omega) fun hne _ => absurd (hn.trans h2) hne
    exact ⟨fun _ => hs, by omega⟩
  · refine ⟨fun h => absurd h h2, fun h1 => ?_⟩
    have hd : d.takeCloseQueue p t = d.putTq p t { d.tq p t with take := 0, tstart := 0 } := by
      simp [Dev.takeCloseQueue, hn, h1]
    rw [hd, tq_putTq_same]

/-- Every queue of a pipe that is in a take shuts. -/
theorem takeClosePipe_shuts (d : Dev) (p : Nat) (k : Fin 8) (hk : (d.tq p k).take ≠ 0) :
    QueueShut p k (d.tqState p k) (d.takeClosePipe p) := by
  refine foldl_turn (P := QueueIs p k (d.tqState p k) (d.tq p k)) (x := k.val) (by simp) List.nodup_range
    (fun e t _ ht h => ?_) (fun e h => ?_) (fun e t _ ht h => ?_) ⟨rfl, rfl⟩
  · split_ifs
    · exact takeCloseQueue_other ht.symm h
    · exact h
  · obtain ⟨hs, hq⟩ := h
    rw [if_pos (by simp [hq, hk])]
    exact takeCloseQueue_shuts ⟨hs, hq⟩
  · obtain ⟨hs, hq⟩ := takeCloseQueue_other ht.symm (⟨rfl, rfl⟩ : QueueIs p k (e.tqState p k) (e.tq p k) e)
    obtain ⟨hopen, hwait⟩ := h
    split_ifs
    · exact ⟨fun hn => hs.trans (hopen hn), fun hn => by rw [hq]; exact hwait hn⟩
    · exact ⟨hopen, hwait⟩

end Sys2Proof.Machine
end

section
/-!
A Hub loss and the requests of `HUB_RST_CTL` (R42, R46, R646, R650, R656): nothing that they end (R214, R428, R543, R586, R602, R674) touches
the reset sequencer, and what waits of it is what they ask for.
-/
namespace Sys2Proof.Machine

variable {s : State} {d : Dev}

/-- The reset sequencer, the Hub's loss and its thermal unit are in `d` as in `a`. -/
def HubSame (a d : Dev) : Prop := d.hub.boot = a.hub.boot ∧ d.hub.lost = a.hub.lost ∧ d.hub.therm = a.hub.therm

namespace HubSame

variable {a b : Dev}

theorem refl (d : Dev) : HubSame d d := ⟨rfl, rfl, rfl⟩

/-- A change of other parts. -/
theorem of_hub (h : HubSame a d) (e : HubSame d b) : HubSame a b :=
  ⟨e.1.trans h.1, e.2.1.trans h.2.1, e.2.2.trans h.2.2⟩

theorem raise (h : HubSame a d) (e syn : Nat) : HubSame a (d.raise e syn) := by
  obtain ⟨m, hm⟩ := raise_hub d e syn
  exact h.of_hub (by rw [HubSame, hm]; exact ⟨rfl, rfl, rfl⟩)

theorem ite (p : Prop) [Decidable p] {c : Dev} (h : HubSame a b) (k : HubSame a c) : HubSame a (if p then b else c) := by
  split_ifs
  · exact h
  · exact k

theorem takeKeeps (a : Dev) : TakeKeeps (HubSame a) :=
  ⟨⟨⟨⟨fun _ h => h.of_hub ⟨rfl, rfl, rfl⟩, fun _ h => h.of_hub ⟨rfl, rfl, rfl⟩, fun _ h => h.of_hub ⟨rfl, rfl, rfl⟩⟩,
    fun _ h => h.of_hub ⟨rfl, rfl, rfl⟩, fun e syn h => h.raise e syn, fun _ h => h.of_hub ⟨rfl, rfl, rfl⟩⟩,
    fun _ h => h.of_hub ⟨rfl, rfl, rfl⟩, fun _ h => h.of_hub ⟨rfl, rfl, rfl⟩⟩,
    fun h => h.of_hub ⟨rfl, rfl, rfl⟩, fun _ h => h.of_hub ⟨rfl, rfl, rfl⟩⟩

/-! ### Takes -/

theorem arunEnd (h : HubSame a d) (p cause : Nat) : HubSame a (d.arunEnd p cause) := .ite _ (h.of_hub ⟨rfl, rfl, rfl⟩) h

theorem takeEnd (h : HubSame a d) (num : Nat) : HubSame a (d.takeEnd num) := by
  unfold Dev.takeEnd
  split
  · next r _ =>
    have hq := foldl_keeps (P := HubSame a) r.qs (f := fun d (x : Nat × Nat) =>
      if (d.tq x.1 x.2).take == num then d.takeCloseQueue x.1 x.2 else d) (fun _ x _ h => .ite _ ((takeKeeps a).takeCloseQueue h x.1 x.2) h) h
    exact .ite _ (hq.of_hub ⟨rfl, rfl, rfl⟩) (hq.of_hub ⟨rfl, rfl, rfl⟩)
  · exact h

theorem takesClose (h : HubSame a d) (cause : Nat) : HubSame a (d.takesClose cause) :=
  foldl_keeps _ (fun _ p _ h => (takeKeeps a).takeClosePipe (arunEnd h p cause) p)
    (.ite _ h (foldl_keeps _ (fun _ n _ h => takeEnd h n) h))

/-! ### The units that a Hub loss stops -/

theorem vrsUnstage (h : HubSame a d) (p u : Nat) : HubSame a (d.vrsUnstage p u) := by
  unfold Dev.vrsUnstage
  dsimp only
  split
  · exact h.of_hub ⟨rfl, rfl, rfl⟩
  · exact h

theorem cuvDiscard (h : HubSame a d) : HubSame a d.cuvDiscard := by
  unfold Dev.cuvDiscard
  extract_lets d₁ d₂
  have h₁ : HubSame a d₁ := foldl_keeps _ (fun _ _ _ h => h.of_hub ⟨rfl, rfl, rfl⟩) h
  have h₂ : HubSame a d₂ := foldl_keeps _ (fun _ x _ h => h.vrsUnstage x.1 x.2) h₁
  exact h₂.of_hub ⟨rfl, rfl, rfl⟩

theorem cuvHubLost (h : HubSame a d) : HubSame a d.cuvHubLost :=
  have hd : HubSame a (if d.cuvState = 1 ∨ d.cuvState = 2 ∨ d.cuvState = 3 then d.cuvDiscard else d) := .ite _ h.cuvDiscard h
  .ite _ (hd.of_hub ⟨rfl, rfl, rfl⟩) hd

theorem bistReinit (h : HubSame a d) (cls p idx : Nat) : HubSame a (d.bistReinit cls p idx) := by
  unfold Dev.bistReinit
  repeat' split
  all_goals exact h.of_hub ⟨rfl, rfl, rfl⟩

theorem bistLost (h : HubSame a d) : HubSame a d.bistLost :=
  .ite _ h (of_hub (ite _ (h.bistReinit _ _ _) h) ⟨rfl, rfl, rfl⟩)

theorem servoState (h : HubSame a d) (st : Nat) : HubSame a (d.servoState st) := by
  unfold Dev.servoState
  split_ifs
  · exact h
  · refine raise ?_ _ _
    exact h.of_hub ⟨rfl, rfl, rfl⟩

theorem servoHold (h : HubSame a d) : HubSame a d.servoHold := .ite _ h (h.servoState 3)

theorem qdlDown (h : HubSame a d) (q : Nat) : HubSame a (d.qdlDown q) := by
  unfold Dev.qdlDown
  extract_lets was fwd reads d₁ d₂
  have h₂ : HubSame a d₂ := h.of_hub ⟨rfl, rfl, rfl⟩
  exact .ite _ h (.ite _ h₂ (.ite _ h₂.servoHold (h₂.raise _ _)))

theorem panelOff (h : HubSame a d) (o : Nat) : HubSame a (d.panelOff o) := h.of_hub ⟨rfl, rfl, rfl⟩

theorem audKill (h : HubSame a d) (x : Nat) : HubSame a (d.audKill x) := by
  unfold Dev.audKill
  extract_lets k d₁ d₂ d₃ d₄ d₅
  have h₄ : HubSame a d₄ := h.of_hub ⟨rfl, rfl, rfl⟩
  have h₅ : HubSame a d₅ := .ite _ (h₄.of_hub ⟨rfl, rfl, rfl⟩) h₄
  exact .ite _ h₅ (foldl_keeps _ (fun _ _ _ h => .ite _ (h.of_hub ⟨rfl, rfl, rfl⟩) h) h₅)

theorem audPortOff (h : HubSame a d) (k : Nat) : HubSame a (d.audPortOff k) := by
  refine audKill (audKill ?_ _) _
  exact h.of_hub ⟨rfl, rfl, rfl⟩

end HubSame

/-! ### Requests for a reset -/

theorem warmWant_idle {cause : Nat} {reason : Option Nat} (h : d.stopped = true ∨ d.hub.boot.want.isSome = true) :
    d.warmWant cause reason = d := if_pos (by simpa using h)

theorem warmWant_want {cause : Nat} {reason : Option Nat} (hs : d.stopped = false) (hw : d.hub.boot.want = none) :
    (d.warmWant cause reason).hub.boot.want = some (cause, reason) := by
  rw [Dev.warmWant, if_neg (by simp [hs, hw]), ((HubSame.refl _).takesClose 4).1]
  rfl

theorem bootFail_want {cause : Nat} (hs : d.stopped = false) : (d.bootFail cause).hub.boot.want = some (6, none) := by
  rw [Dev.bootFail, if_neg (by simp [hs]), ((HubSame.refl _).takesClose 4).1]
  rfl

theorem rstWarm_want (hs : d.stopped = false) (hw : d.hub.boot.want = none) :
    d.rstWarm.hub.boot.want = some (if d.attempting && d.bootStage == 5 then 6 else 4, none) := by
  unfold Dev.rstWarm
  split_ifs
  · exact bootFail_want hs
  · exact warmWant_want hs hw

/-- An attempt is over once a reset waits, so the request fails none (R656). -/
theorem rstWarm_idle (h : d.stopped = true ∨ d.hub.boot.want.isSome = true) : d.rstWarm = d := by
  unfold Dev.rstWarm
  split_ifs with ha
  · have hn : d.hub.boot.want.isSome = false := by simp_all [Dev.attempting]
    exact if_pos (h.resolve_right (by simp [hn]))
  · exact warmWant_idle h

/-! ### The loss -/

theorem hubLoss_idle (h : d.hub.lost = true) : d.hubLoss = d := if_pos h

theorem bootLog_hub (d : Dev) (image cause : Nat) :
    (d.bootLog image cause).hub.lost = d.hub.lost ∧ (d.bootLog image cause).hub.boot.want = d.hub.boot.want := ⟨rfl, rfl⟩

/-- The reset that follows a loss is asked for, the attempt or the trial of an image that it ends logged (R46, R646). -/
def Dev.lossReset (d : Dev) (early trial : Bool) : Dev :=
  let d := if early || trial then d.bootLog (d.rd F.HUB_BOOT_STAT_IMAGE) 0xB else d
  d.updBoot fun b => { b with
    stby := none, ls := d.on F.BIST_CFG_BOOTLS
    want := match b.want with | some (_, r) => some (7, r) | none => some (if early then 6 else 7, none) }

theorem lossReset_lost (d : Dev) (early trial : Bool) : (d.lossReset early trial).hub.lost = d.hub.lost := by
  unfold Dev.lossReset
  simp only [Dev.updBoot, Dev.updHub_hub]
  split_ifs
  · exact (bootLog_hub d _ _).1
  · rfl

theorem lossReset_want {early trial : Bool} (h : d.hub.boot.want = none) :
    (d.lossReset early trial).hub.boot.want = some (if early then 6 else 7, none) := by
  have hb : (if early || trial then d.bootLog (d.rd F.HUB_BOOT_STAT_IMAGE) 0xB else d).hub.boot.want = none := by
    split_ifs
    · exact (bootLog_hub d _ _).2.trans h
    · exact h
  simp only [Dev.lossReset, Dev.updBoot, Dev.updHub_hub, hb]

/-- What a loss ends leaves the loss and the reset sequencer; where no Pavane runs the reset is then asked for (R46). -/
theorem hubLoss_form (h : d.hub.lost = false) : ∃ e : Dev, e.hub.lost = true ∧ e.hub.boot = d.hub.boot ∧
    d.hubLoss = if d.stopped then e else e.lossReset d.attempting d.hub.boot.kept.isSome := by
  unfold Dev.hubLoss
  rw [if_neg (by simp [h])]
  extract_lets trial early d₁ d₂ d₃ d₄
  let lost : Dev := d.updHub fun h => { h with lost := true }
  have h₁ : HubSame lost d₁ := by
    refine .bistLost (.cuvHubLost ?_)
    exact (HubSame.refl lost).of_hub ⟨rfl, rfl, rfl⟩
  have h₂ : HubSame lost d₂ := foldl_keeps _ (fun _ q _ h => h.qdlDown q) h₁
  have h₃ : HubSame lost d₃ := foldl_keeps _ (fun _ o _ h => h.panelOff o) h₂
  have h₄ : HubSame lost d₄ := foldl_keeps _ (fun _ k _ h => h.audPortOff k) h₃
  obtain ⟨hb, hl, ht⟩ := h₄
  have hs : d₄.stopped = d.stopped := congrArg (fun t => t.kind.isSome) ht
  exact ⟨d₄, hl, hb, by rw [hs]; rfl⟩

theorem hubLoss_effect (h : d.hub.lost = false) : d.hubLoss.hub.lost = true ∧ (d.stopped = false → d.hub.boot.want = none →
    d.hubLoss.hub.boot.want = some (if d.attempting then 6 else 7, none)) := by
  obtain ⟨e, hl, hb, hd⟩ := hubLoss_form h
  rw [hd]
  refine ⟨?_, fun hs hw => ?_⟩
  · split_ifs
    · exact hl
    · exact (lossReset_lost _ _ _).trans hl
  · rw [if_neg (by simp [hs]), lossReset_want (by rw [hb, hw])]

/-- Settles O10: a loss is `hubLoss_effect`, once; the requests are `warmWant` or, before BOOT_OK, a failed attempt. -/
theorem hubLossAndRequests : Obligations.HubLossAndRequests := by
  unfold Obligations.HubLossAndRequests
  intro s ha
  refine ⟨fun hl => ?_, fun hl => ?_, fun hr hs hw => ⟨⟨_, bar2_reach ha hr _, rstWarm_want hs hw⟩, ⟨_, bar2_reach ha hr _, warmWant_want hs hw⟩⟩,
    fun h => ?_⟩
  · exact ⟨does_of_run ha rfl (hubLoss_effect hl), does_of_run ha rfl (hubLoss_effect hl)⟩
  · exact ⟨exec_of_run ha rfl (hubLoss_idle hl), exec_of_run ha rfl (hubLoss_idle hl)⟩
  · cases hr : s.dev.reaches .HUB_CTL 0 with
    | false => exact ⟨bar2_lost ha hr _, bar2_lost ha hr _⟩
    | true =>
      have hi : s.dev.stopped = true ∨ s.dev.hub.boot.want.isSome = true := by simpa [hr] using h
      refine ⟨(bar2_reach ha hr _).trans ?_, (bar2_reach ha hr _).trans ?_⟩
      · rw [rstWarm_idle hi]
      · rw [warmWant_idle hi]

end Sys2Proof.Machine
end

section
/-!
What the end and the begin of a yield (R37, R40, R41) and the loss of host memory for a racking engine (R132) leave alone.
-/
namespace Sys2Proof.Machine

variable {P : Dev → Prop} {d : Dev}

/-! ### Raising -/

@[simp] theorem vecEvent_c (v : Nat) : (d.vecEvent v).c = d.c := by
  obtain ⟨f, h, -⟩ := vecEvent_parts d v; rw [h]; rfl
@[simp] theorem vecEvent_yields (v : Nat) : (d.vecEvent v).router.yields = d.router.yields := by
  obtain ⟨f, h, k⟩ := vecEvent_parts d v; rw [h]; exact (k _).2.2.2.2

@[simp] theorem peerEvent_c (e : Nat) : (d.peerEvent e).c = d.c := by
  unfold Dev.peerEvent
  split
  · split
    · dsimp only; split <;> rfl
    · rfl
  · rfl

/-- Raising an event moves neither the counter nor a yield. -/
theorem raise_c_yields (d : Dev) (e syn : Nat) : (d.raise e syn).c = d.c ∧ (d.raise e syn).router.yields = d.router.yields := by
  unfold Dev.raise
  split
  · exact ⟨rfl, rfl⟩
  · dsimp only
    repeat' split
    all_goals simp

theorem raise_lost (d : Dev) (e syn : Nat) : (d.raise e syn).hub.lost = d.hub.lost := by
  obtain ⟨m, hm⟩ := raise_hub d e syn
  rw [hm]

/-- An event that stands still does after another is raised. -/
theorem raise_stat_mono {e e' : Nat} (syn : Nat) (h : e ∈ d.router.stat) : e ∈ (d.raise e' syn).router.stat := by
  cases hl : d.hub.lost with
  | true => rwa [Dev.raise, if_pos hl]
  | false => rw [raise_stat d e' syn hl]; exact (mem_insertNum _ _ _).2 (.inr h)

/-! ### Yields -/

/-- The property stands whatever the record of a yield changes: the yield log, the sequence numbers and the record of an autonomous run. -/
def YieldKeeps (P : Dev → Prop) : Prop :=
  (∀ {d : Dev} {f : Fld} {v p i j : Nat}, f.reg = .EVT_YLOG_TAIL → P d → P (d.wr f v p i j)) ∧
    (∀ {d : Dev} {v p i j : Nat}, P d → P (d.wr F.PCTL_ARUN_STAT_YIELDS v p i j)) ∧
    (∀ {d : Dev} (e syn : Nat), P d → P (d.raise e syn)) ∧
    (∀ {d : Dev} (g : Router → Tab Nat), P d → P (d.updRouter fun r => { r with yseq := g r })) ∧
    ∀ {d : Dev} (a : Nat) (bs : List Byte), P d → P (d.hostWrite a bs)

namespace YieldKeeps

variable (k : YieldKeeps P)
include k

theorem ylogWrite (h : P d) (ws : List Nat) : P (d.ylogWrite ws) := by
  obtain ⟨log, -, raise, -, host⟩ := k
  have ho : P (d.wr F.EVT_YLOG_TAIL_OVF 1) := log rfl h
  unfold Dev.ylogWrite
  dsimp only
  split_ifs
  · exact log rfl (host _ _ h)
  · exact ho
  · exact raise _ _ ho

theorem yieldRecord (h : P d) (y : Yield) (fin : Bool) : P (d.yieldRecord y fin) := by
  obtain ⟨-, count, raise, seqs, -⟩ := id k
  unfold Dev.yieldRecord
  extract_lets seq ws d₁ d₂
  have h₁ : P d₁ := seqs _ h
  have h₂ : P d₂ := by
    unfold d₂
    split_ifs
    · exact h₁
    · exact k.ylogWrite h₁ ws
  split_ifs
  · exact h
  · exact count h
  · exact raise _ _ h₂
  · exact raise _ _ h₂

/-- The ends of yields are recorded once they are out of force. -/
theorem yieldEnd {q : Yield → Bool} (h : P (d.updRouter fun r => { r with yields := r.yields.filter fun y => !q y })) : P (d.yieldEnd q) :=
  foldl_keeps _ (fun _ y _ h => k.yieldRecord h y true) h

/-- The begin of a yield is recorded before it is in force. -/
theorem yieldBegin {y : Yield} (h : P d) (hy : ∀ e z, P e → P (e.updRouter fun r => { r with yields := r.yields ++ [z] })) :
    P (d.yieldBegin y) := hy _ _ (k.yieldRecord h _ false)

end YieldKeeps

/-- The records of yields keep every field that they do not write. -/
theorem yieldKeeps_rd {f : Fld} {v p i j : Nat} (hf : f.reg ∉ [RegId.EVT_YLOG_TAIL, .PCTL_ARUN_STAT, .QDL_PEER]) :
    YieldKeeps fun d => d.rd f p i j = v := by
  simp only [List.mem_cons, List.not_mem_nil, or_false, not_or] at hf
  obtain ⟨hl, ha, hq⟩ := hf
  exact ⟨fun hg h => (rd_wr_of_reg fun e => hl (e.trans hg)).trans h, fun h => (rd_wr_of_reg ha).trans h,
    fun _ _ h => (raise_rd _ _ _ _ _ _ _ hq).trans h, fun _ h => h, fun _ _ h => h⟩

/-- Records put no yield in force and end none. -/
theorem yieldKeeps_yields (l : List Yield) : YieldKeeps fun d => d.router.yields = l :=
  ⟨fun _ h => h, fun h => h, fun e syn h => (raise_c_yields _ e syn).2.trans h, fun _ h => h, fun _ _ h => h⟩

/-- A yield that ends is out of force, and no other is. -/
theorem yieldEnd_yields (q : Yield → Bool) : (d.yieldEnd q).router.yields = d.router.yields.filter fun y => !q y :=
  (yieldKeeps_yields _).yieldEnd rfl

/-! ### Racking -/

/-- The registers of a racking channel that loses host memory, and of the cask it fills. -/
def rackRegs : List RegId := [.CASK_STAT, .RACK_CH_STAT, .RACK_GSTAT]

section

variable {f : Fld} {v p i j : Nat} (hf : f.reg ∉ rackRegs) (hq : f.reg ≠ .QDL_PEER)

theorem updRack_rd (u : Nat) (g : Rack → Rack) : (d.updRack u g).rd f p i j = d.rd f p i j := by
  unfold Dev.updRack
  split <;> rfl

include hf

theorem rackEnd_rd (u c status : Nat) : (d.rackEnd u c status).rd f p i j = d.rd f p i j := by
  unfold Dev.rackEnd
  dsimp only
  split
  · rfl
  · split
    · exact (caskKeeps_rd fun e => hf (by simp [e, rackRegs])).caskSend (updRack_rd u _) u _ _ _
    · exact updRack_rd u _

include hq

theorem rackHalt_rd (u c status n : Nat) : (d.rackHalt u c status n).rd f p i j = d.rd f p i j := by
  have skip : ∀ {g : Fld} {v p' i' j' : Nat} {d : Dev}, g.reg ∈ rackRegs → (d.wr g v p' i' j').rd f p i j = d.rd f p i j := rd_wr_of_mem hf
  unfold Dev.rackHalt
  extract_lets d₁ d₂
  have h₂ : d₂.rd f p i j = d.rd f p i j :=
    (skip (by decide)).trans ((skip (by decide)).trans ((skip (by decide)).trans (skip (by decide))))
  split_ifs
  · exact (raise_rd _ _ _ _ _ _ _ hq).trans h₂
  · exact (raise_rd _ _ _ _ _ _ _ hq).trans h₂

/-- Channels that lose host memory write their own registers and those of their casks. -/
theorem rackHostGone_rd (u : Nat) : (d.rackHostGone u).rd f p i j = d.rd f p i j := by
  refine foldl_keeps (P := fun e => e.rd f p i j = d.rd f p i j) _ (fun e c _ h => ?_) rfl
  dsimp only
  split_ifs with hfet
  · have hd : e.rackDescData u c false = (e.putRch u c { e.rch u c with fetching := false }).rackHalt u c 0x16 (e.rch u c).next := by
      simp [Dev.rackDescData, hfet]
    rw [hd, rackHalt_rd hf hq]
    exact (updRack_rd u _).trans h
  · exact (rackEnd_rd hf u c _).trans ((updRack_rd u _).trans h)
  · exact h

end
end Sys2Proof.Machine
end

section
/-!
Copies of the time and autonomous run (R42 to R45, R492, R494): what the copy strobe of the Hub gives a pipe, and what the pipe's own clock
keeps while the other pipes take theirs.
-/
namespace Sys2Proof.Machine

variable {s : State} {a b d : Dev} {p : Pipe}

/-! ### A pipe's clock -/

/-- The registers of a pipe's state and of its time. -/
def clockRegs : List RegId := [.PCTL_STAT, .NET_TIME_STAT]

/-- The counter and pipe `p`'s registers of state and time are in `d` as in `a`. -/
def ClockRegs (p : Pipe) (a d : Dev) : Prop := d.c = a.c ∧ ∀ f i j, f.reg ∈ clockRegs → d.rd f p i j = a.rd f p i j

namespace ClockRegs

theorem refl (p : Pipe) (d : Dev) : ClockRegs p d d := ⟨rfl, fun _ _ _ _ => rfl⟩

theorem trans (h : ClockRegs p a d) (k : ClockRegs p d b) : ClockRegs p a b :=
  ⟨k.1.trans h.1, fun f i j hf => (k.2 f i j hf).trans (h.2 f i j hf)⟩

theorem rd (h : ClockRegs p a d) {f : Fld} (hf : f.reg ∈ clockRegs) : d.rd f p = a.rd f p := h.2 f 0 0 hf

/-- A change of other parts. -/
theorem of_parts (h : ClockRegs p a d) (hc : b.c = d.c) (hr : b.regs = d.regs) : ClockRegs p a b :=
  h.trans ⟨hc, fun f i j _ => by rw [Dev.rd, Dev.rd, hr]⟩

theorem wr (h : ClockRegs p a d) {f : Fld} {v p' i j : Nat} (hf : f.reg ∉ clockRegs) : ClockRegs p a (d.wr f v p' i j) :=
  h.trans ⟨rfl, fun _ _ _ hg => rd_wr_of_reg fun e => hf (e ▸ hg)⟩

/-- The registers of another pipe. -/
theorem wr_other (h : ClockRegs p a d) {q : Pipe} (hq : p ≠ q) {f : Fld} {v i j : Nat} : ClockRegs p a (d.wr f v q i j) :=
  h.trans ⟨rfl, fun _ _ _ _ => d.rd_wr_p _ _ _ _ _ _ _ _ _ fun e => hq (Fin.ext e)⟩

theorem raise (h : ClockRegs p a d) (e syn : Nat) : ClockRegs p a (d.raise e syn) :=
  h.trans ⟨(raise_c_yields d e syn).1, fun _ _ _ hf => raise_rd _ _ _ _ _ _ _ fun e => absurd (e ▸ hf) (by decide)⟩

theorem ite (q : Prop) [Decidable q] (h : ClockRegs p a b) (k : ClockRegs p a d) : ClockRegs p a (if q then b else d) := by
  split_ifs
  · exact h
  · exact k

/-! ### The Hub's part of a strobe -/

theorem tcLabel (h : ClockRegs p a d) (g : Nat) : ClockRegs p a (d.tcLabel g) := by
  unfold Dev.tcLabel
  extract_lets
  split_ifs
  · exact h
  · exact (((((h.wr (by decide)).wr (by decide)).wr (by decide)).wr (by decide)).wr (by decide)).wr (by decide)

theorem hubStrobe (h : ClockRegs p a d) : ClockRegs p a d.hubStrobe := by
  unfold Dev.hubStrobe
  extract_lets t r wait
  split
  · exact h.of_parts rfl rfl
  · extract_lets t' d₁ d₂
    have h₁ : ClockRegs p a d₁ := h.of_parts rfl rfl
    have h₂ : ClockRegs p a d₂ := .wr (h₁.of_parts rfl rfl) (by decide)
    exact foldl_keeps _ (fun _ g _ h => tcLabel h g) (h₂.raise _ _)

theorem bumpAud (h : ClockRegs p a d) (k n : Nat) : ClockRegs p a (d.bump C.AUD_CNT 0 k n) := by
  unfold Dev.bump Dev.bumpBy
  exact .wr (.wr (.ite _ (h.wr (by decide)) h) (by decide)) (by decide)

theorem audWrite (h : ClockRegs p a d) (x : Nat) (item : List Byte) : ClockRegs p a (d.audWrite x item) := by
  unfold Dev.audWrite
  extract_lets
  split_ifs
  · exact (bumpAud (h.wr (by decide)) _ _).raise _ _
  all_goals exact .wr (h.of_parts rfl rfl) (by decide)

theorem audFlush (h : ClockRegs p a d) (x : Nat) (disc : Bool) : ClockRegs p a (d.audFlush x disc) := by
  unfold Dev.audFlush
  extract_lets y d₁
  have h₁ : ClockRegs p a d₁ := .ite _ h (h.audWrite x _)
  exact h₁.of_parts rfl rfl

theorem audStep (h : ClockRegs p a d) : ClockRegs p a d.audStep := by
  unfold Dev.audStep
  extract_lets d₁ d₂
  have h₁ : ClockRegs p a d₁ := foldl_keeps _ (fun _ x _ h => .ite _ (audFlush h x true) h) h
  have h₂ : ClockRegs p a d₂ := foldl_keeps _ (fun _ x _ h => .ite _ (h.of_parts rfl rfl) h) h₁
  refine foldl_keeps _ (fun d k _ h => ?_) h₂
  split
  · exact .ite _ ((bumpAud h k 2).raise _ _) h
  · exact h

end ClockRegs

/-- Of pipe `p`'s clock, its last copy and the Hub's clock too. -/
def ClockSame (p : Pipe) (a d : Dev) : Prop :=
  ClockRegs p a d ∧ d.hub.anchor = a.hub.anchor ∧ (d.pipe p).anchor = (a.pipe p).anchor ∧ (d.pipe p).lastCopy = (a.pipe p).lastCopy

namespace ClockSame

theorem refl (p : Pipe) (d : Dev) : ClockSame p d d := ⟨.refl p d, rfl, rfl, rfl⟩

theorem trans (h : ClockSame p a d) (k : ClockSame p d b) : ClockSame p a b := by
  obtain ⟨hr, hh, hp, hl⟩ := h
  obtain ⟨kr, kh, kp, kl⟩ := k
  exact ⟨hr.trans kr, kh.trans hh, kp.trans hp, kl.trans hl⟩

/-- A change of registers and other parts. -/
theorem of_parts (h : ClockSame p a d) (hr : ClockRegs p d b) (hh : b.hub.anchor = d.hub.anchor) (hp : b.pipes = d.pipes) :
    ClockSame p a b := h.trans ⟨hr, hh, by rw [Dev.pipe, hp]; rfl, by rw [Dev.pipe, hp]; rfl⟩

theorem wr (h : ClockSame p a d) {f : Fld} {v p' i j : Nat} (hf : f.reg ∉ clockRegs) : ClockSame p a (d.wr f v p' i j) :=
  h.of_parts (.wr (.refl p d) hf) rfl rfl

theorem wr_other (h : ClockSame p a d) {q : Pipe} (hq : p ≠ q) {f : Fld} {v i j : Nat} : ClockSame p a (d.wr f v q i j) :=
  h.of_parts (.wr_other (.refl p d) hq) rfl rfl

theorem updPipe (h : ClockSame p a d) (u : Nat) {f : PipeSt → PipeSt} (hf : ∀ x, (f x).anchor = x.anchor ∧ (f x).lastCopy = x.lastCopy) :
    ClockSame p a (d.updPipe u f) :=
  h.trans ⟨(ClockRegs.refl p d).of_parts rfl rfl, rfl, updPipe_part (·.anchor) (fun x => (hf x).1) d u p,
    updPipe_part (·.lastCopy) (fun x => (hf x).2) d u p⟩

theorem raise (h : ClockSame p a d) (e syn : Nat) : ClockSame p a (d.raise e syn) := by
  obtain ⟨m, hm⟩ := raise_hub d e syn
  exact h.of_parts ((ClockRegs.refl p d).raise e syn) (by rw [hm]) (raise_pipes d e syn)

theorem updRouter (h : ClockSame p a d) (f : Router → Router) : ClockSame p a (d.updRouter f) :=
  h.of_parts ((ClockRegs.refl p d).of_parts rfl rfl) rfl rfl

theorem yieldKeeps (p : Pipe) (a : Dev) : YieldKeeps (ClockSame p a) :=
  ⟨fun hf h => h.wr (by rw [hf]; decide), fun h => h.wr (by decide), fun e syn h => h.raise e syn, fun _ h => h.updRouter _,
    fun _ _ h => h.of_parts ((ClockRegs.refl p _).of_parts rfl rfl) rfl rfl⟩

theorem bsRestore (h : ClockSame p a d) (q c n : Nat) : ClockSame p a (d.bsRestore q c n) := by
  have hw : ClockSame p a (d.wr F.BLK_SSTAT_STOPPED 0 q c n) := h.wr (by decide)
  unfold Dev.bsRestore Dev.bsRefresh
  split_ifs
  · exact hw.updPipe q fun _ => ⟨rfl, rfl⟩
  · exact hw

end ClockSame

/-! ### The end of a holdover -/

/-- The yields by which a pipe's streams were stopped end, and those streams go on (R44, R494). -/
def Dev.arunResume (d : Dev) (p : Nat) : Dev :=
  (d.router.yields.filter fun y => arunYield p y).foldl (fun d y => (List.range 64).foldl (fun d i =>
    if d.on F.BLK_SSTAT_STOPPED p (i / 4) (i % 4) && d.bsRank p (i / 4) (i % 4) == y.yrank && d.bsObj p (i / 4) (i % 4) == y.object &&
        !d.rungShed p y.object then d.bsRestore p (i / 4) (i % 4) else d) d)
    ((d.wr F.PCTL_STAT_STATE 3 p).yieldEnd fun y => arunYield p y)

theorem arunLeave_eq (d : Dev) (p : Nat) : d.arunLeave p =
    if d.on F.NET_TIME_STAT_HOLD p then
      if d.inArun p then ((d.wr F.NET_TIME_STAT_HOLD 0 p).wr F.NET_TIME_STAT_RESYNC 1 p).arunResume p
      else (d.wr F.NET_TIME_STAT_HOLD 0 p).wr F.NET_TIME_STAT_RESYNC 1 p
    else d.wr F.NET_TIME_STAT_RESYNC 0 p := by
  have ha : ((d.wr F.NET_TIME_STAT_HOLD 0 p).wr F.NET_TIME_STAT_RESYNC 1 p).inArun p = d.inArun p :=
    congrArg (· == 4) ((rd_wr_of_reg (by decide)).trans (rd_wr_of_reg (by decide)))
  rw [← ha]
  rfl

theorem ClockSame.arunResume (q : Pipe) (h : ClockSame p a (d.wr F.PCTL_STAT_STATE 3 q)) : ClockSame p a (d.arunResume q) := by
  refine foldl_keeps _ (fun _ y _ h => foldl_keeps _ (fun _ i _ h => ?_) h) ((ClockSame.yieldKeeps p a).yieldEnd (h.updRouter _))
  split_ifs
  · exact h.bsRestore q _ _
  · exact h

/-- A pipe leaves the clocks of the others alone. -/
theorem ClockSame.arunLeave_other {q : Pipe} (hq : p ≠ q) (h : ClockSame p a d) : ClockSame p a (d.arunLeave q) := by
  rw [arunLeave_eq]
  split_ifs
  · exact .arunResume q (((h.wr_other hq).wr_other hq).wr_other hq)
  · exact (h.wr_other hq).wr_other hq
  · exact h.wr_other hq

/-- Where nothing of the clock moves but registers, `HOLD` ends, `RESYNC` says whether it did, and the run it held is RUN (R494). -/
theorem arunLeave_effect (d : Dev) (p : Pipe) : ∃ e : Dev, ClockSame p e (d.arunLeave p) ∧ e.c = d.c ∧ e.hub = d.hub ∧ e.pipes = d.pipes ∧
    e.on F.NET_TIME_STAT_HOLD p = false ∧ e.on F.NET_TIME_STAT_RESYNC p = d.on F.NET_TIME_STAT_HOLD p ∧
    (d.on F.NET_TIME_STAT_HOLD p = true → d.inArun p = true → e.rd F.PCTL_STAT_STATE p = 3) := by
  rw [arunLeave_eq]
  split_ifs with hh ha
  · refine ⟨_, .arunResume p (.refl p _), rfl, rfl, rfl, ?_, ?_, fun _ _ => rd_wr_of_lt (by decide)⟩
    · exact (on_of_rd ((rd_wr_of_reg (by decide)).trans (rd_wr_of_lo (by decide)))).trans (on_wrb (b := false) rfl)
    · exact (on_of_rd (rd_wr_of_reg (by decide))).trans ((on_wrb (b := true) rfl).trans hh.symm)
  · refine ⟨_, .refl p _, rfl, rfl, rfl, ?_, (on_wrb (b := true) rfl).trans hh.symm, fun _ h => absurd h ha⟩
    exact (on_of_rd (rd_wr_of_lo (by decide))).trans (on_wrb (b := false) rfl)
  · have hf : d.on F.NET_TIME_STAT_HOLD p = false := by simpa using hh
    exact ⟨_, .refl p _, rfl, rfl, rfl, (on_of_rd (rd_wr_of_lo (by decide))).trans hf, (on_wrb (b := false) rfl).trans hf.symm, fun h => absurd h hh⟩

/-! ### The copy -/

/-- From `a` pipe `p` has taken its copy: the Hub's time at this instant, and the end of its holdover (R492, R494). -/
def Copied (p : Pipe) (a d : Dev) : Prop :=
  d.c = a.c ∧ (d.pipe p).lastCopy = a.c ∧ (d.pipe p).anchor = { d.hub.anchor with ca := a.c, ta := d.hub.anchor.at a.c } ∧
    d.on F.NET_TIME_STAT_HOLD p = false ∧ d.on F.NET_TIME_STAT_RESYNC p = a.on F.NET_TIME_STAT_HOLD p ∧
    (a.on F.NET_TIME_STAT_HOLD p = true → a.inArun p = true → d.rd F.PCTL_STAT_STATE p = 3)

theorem Copied.of_same (h : Copied p a d) (k : ClockSame p d b) : Copied p a b := by
  obtain ⟨hc, hl, ht, hh, hr, hs⟩ := h
  obtain ⟨kr, khub, kpipe, klast⟩ := k
  exact ⟨kr.1.trans hc, klast.trans hl, by rw [kpipe, ht, khub], (on_of_rd (kr.rd (by decide))).trans hh,
    (on_of_rd (kr.rd (by decide))).trans hr, fun h ha => (kr.rd (by decide)).trans (hs h ha)⟩

/-- An anchor just taken shows the time it was taken at. -/
theorem anchor_at_now (x : Anchor) (t c : Nat) : ({ x with ca := c, ta := t } : Anchor).at c = t := by
  simp [Anchor.at]

/-- The pipe's time is the Hub's. -/
theorem Copied.pipeTime (h : Copied p a d) : d.pipeTime p = d.hubTime := by
  obtain ⟨hc, -, ht, -⟩ := h
  rw [Dev.pipeTime, ht, hc, anchor_at_now, Dev.hubTime, hc]

/-- A pipe's turn in a copy strobe. -/
def Dev.copyTurn (d : Dev) (p : Nat) : Dev := if d.powered p then ((d.pipeCopy p).arunLeave p).thermCopy p else d

theorem powered_congr (h : d.rd F.PCTL_STAT_STATE p = a.rd F.PCTL_STAT_STATE p) : d.powered p = a.powered p := by
  rw [Dev.powered, Dev.powered, h]

theorem copyTurn_copies (h : ClockRegs p a d) (hp : a.powered p = true) : Copied p a (d.copyTurn p) := by
  have hst : d.rd F.PCTL_STAT_STATE p = a.rd F.PCTL_STAT_STATE p := h.rd (by decide)
  have hhold : d.on F.NET_TIME_STAT_HOLD p = a.on F.NET_TIME_STAT_HOLD p := on_of_rd (h.rd (by decide))
  obtain ⟨hcount, -⟩ := h
  obtain ⟨e, hs, hc, hhub, hpipes, hh, hr, hrun⟩ := arunLeave_effect (d.pipeCopy p) p
  have hpipe : e.pipe p = { d.pipe p with anchor := { d.hub.anchor with ca := d.c, ta := d.hub.anchor.at d.c }, lastCopy := d.c } := by
    rw [Dev.pipe, hpipes]
    exact updPipe_pipe_same d p _
  have he : Copied p a e := ⟨hc.trans hcount, by rw [hpipe, ← hcount], by rw [hpipe, hhub, ← hcount]; rfl, hh, hr.trans hhold,
    fun ha hin => hrun (hhold.trans ha) ((congrArg (· == 4) hst).trans hin)⟩
  rw [Dev.copyTurn, if_pos ((powered_congr hst).trans hp)]
  exact (he.of_same hs).of_same ((ClockSame.refl p _).of_parts ((ClockRegs.refl p _).of_parts rfl rfl) rfl rfl)

theorem copyTurn_other {q : Pipe} (hq : p ≠ q) (d : Dev) : ClockSame p d (d.copyTurn q) := by
  have hcopy : ClockSame p d (d.pipeCopy q) :=
    ⟨(ClockRegs.refl p d).of_parts rfl rfl, rfl, by rw [Dev.pipeCopy, updPipe_pipe_ne hq]; exact ⟨rfl, rfl⟩⟩
  unfold Dev.copyTurn
  split_ifs
  · exact (hcopy.arunLeave_other hq).of_parts ((ClockRegs.refl p _).of_parts rfl rfl) rfl rfl
  · exact .refl p d

/-- A copy strobe of a live Hub gives every powered pipe its copy (R492). -/
theorem copyStrobe_copies (hl : a.hub.lost = false) (hp : a.powered p = true) : Copied p a a.copyStrobe := by
  unfold Dev.copyStrobe
  rw [if_neg (by simp [hl])]
  extract_lets due d₁ d₂ d₃
  have h₁ : ClockRegs p a d₁ := (ClockRegs.refl p a).hubStrobe
  have h₂ : ClockRegs p a d₂ := .ite _ h₁.audStep h₁
  have other : ∀ e, ∀ q ∈ List.range 4, q ≠ p.val → ClockSame p e (e.copyTurn q) := fun e q hq hne =>
    copyTurn_other (q := ⟨q, List.mem_range.1 hq⟩) (fun h => hne (congrArg Fin.val h).symm) e
  have h₃ : Copied p a d₃ := by
    refine foldl_turn (f := Dev.copyTurn) (x := p.val) (by simp) List.nodup_range (fun e q hq hne h => ?_)
      (fun e h => copyTurn_copies h hp) (fun e q hq hne h => h.of_same (other e q hq hne)) h₂
    obtain ⟨hs, -⟩ := other e q hq hne
    exact h.trans hs
  unfold Dev.qdlHold
  split_ifs
  · exact h₃.of_same ((ClockSame.refl p _).wr (by decide))
  · exact h₃

/-! ### The entry and the limit -/

/-- A pipe in RUN whose copies are missing is in autonomous run and holdover, and its record starts at the time it shows (R43, R494). -/
theorem arunEnter_effect (h : d.rd F.PCTL_STAT_STATE p = 3) : (d.arunEnter p).rd F.PCTL_STAT_STATE p = 4 ∧
    (d.arunEnter p).on F.NET_TIME_STAT_HOLD p = true ∧ (d.arunEnter p).on F.NET_TIME_STAT_RESYNC p = false ∧
    (d.arunEnter p).on F.PCTL_ARUN_STAT_VALID p = true ∧ (d.arunEnter p).rd F.PCTL_ARUN_STAT_END p = 0 ∧
    (d.arunEnter p).rd F.PCTL_ARUN_FRAMES_FRAMES p = 0 ∧ (d.arunEnter p).rd F.PCTL_ARUN_TNS_NS p = ptpNs (d.pipeTime p) := by
  have hns : ptpNs (d.pipeTime p) < 2 ^ 32 := (Nat.mod_lt _ (by decide)).trans (by decide)
  have gone : ∀ {f : Fld} {d : Dev}, f.reg ∉ RegId.QDL_PEER :: rackRegs → (d.rackHostGone p).rd f p = d.rd f p := fun hf =>
    rackHostGone_rd (fun h => hf (.tail _ h)) (fun h => hf (by simp [h])) p
  have reg : ∀ {f g : Fld} {v : Nat} {d : Dev}, f.reg ≠ g.reg → (d.wr g v p).rd f p = d.rd f p := rd_wr_of_reg
  have lo : ∀ {f g : Fld} {v : Nat} {d : Dev}, f.lo ≠ g.lo → (d.wr g v p).rd f p = d.rd f p := rd_wr_of_lo
  unfold Dev.arunEnter
  rw [if_neg (by simp [h])]
  extract_lets t d₁ d₂ d₃
  have time : ∀ {f : Fld}, f.reg ∉ [RegId.QDL_PEER, .PCTL_ARUN_TNS, .PCTL_ARUN_TS_LO, .PCTL_ARUN_TS_HI] → f.reg ∉ rackRegs →
      (d₃.rackHostGone p).rd f p = d₂.rd f p := fun ht hr => by
    simp only [List.mem_cons, List.not_mem_nil, or_false, not_or] at ht
    obtain ⟨hq, hns, hlo, hhi⟩ := ht
    exact (rackHostGone_rd hr hq p).trans ((reg hhi).trans ((reg hlo).trans (reg hns)))
  have start : ∀ {f : Fld}, f.reg ∉ [RegId.QDL_PEER, .PCTL_ARUN_TNS, .PCTL_ARUN_TS_LO, .PCTL_ARUN_TS_HI, .PCTL_ARUN_STAT, .PCTL_ARUN_FRAMES] →
      f.reg ∉ rackRegs → (d₃.rackHostGone p).rd f p = d₁.rd f p := fun ht hr => by
    simp only [List.mem_cons, List.not_mem_nil, or_false, not_or] at ht
    obtain ⟨hq, hns, hlo, hhi, hstat, hframes⟩ := ht
    exact (time (by simp [hq, hns, hlo, hhi]) hr).trans ((reg hframes).trans ((reg hstat).trans ((reg hstat).trans (reg hstat))))
  refine ⟨(start (by decide) (by decide)).trans (rd_wr_of_lt (by decide)), ?_, ?_, ?_, ?_, ?_, ?_⟩
  · exact (on_of_rd ((start (by decide) (by decide)).trans ((reg (by decide)).trans (lo (by decide))))).trans (on_wrb (b := true) rfl)
  · exact (on_of_rd ((start (by decide) (by decide)).trans (reg (by decide)))).trans (on_wrb (b := false) rfl)
  · exact (on_of_rd ((time (by decide) (by decide)).trans ((reg (by decide)).trans ((lo (by decide)).trans (lo (by decide)))))).trans
      (on_wrb (b := true) rfl)
  · exact (time (by decide) (by decide)).trans ((reg (by decide)).trans ((lo (by decide)).trans (rd_wr_of_lt (by decide))))
  · exact (time (by decide) (by decide)).trans (rd_wr_of_lt (by decide))
  · exact (rackHostGone_rd (by decide) (by decide) p).trans ((reg (by decide)).trans ((reg (by decide)).trans (rd_wr_of_lt hns)))

/-- At its limit a pipe stays in autonomous run, its record says LIMIT, and its take closes (R45). -/
theorem arunLimit_effect (h : d.inArun p = true) : ((d.arunEnd p 1).takeClosePipe p).inArun p = true ∧
    (d.on F.PCTL_STAT_TAKE p = true → d.rd F.PCTL_ARUN_STAT_END p = 0 → ((d.arunEnd p 1).takeClosePipe p).rd F.PCTL_ARUN_STAT_END p = 1) ∧
    ∀ k : Fin 8, (d.tq p k).take ≠ 0 → QueueShut p k (d.tqState p k) ((d.arunEnd p 1).takeClosePipe p) := by
  have close : ∀ {f : Fld} {d : Dev}, f.reg ∉ RegId.CASK_STAT :: .QDL_PEER :: encRegs → streamField f = false → f.reg ≠ .CELP_TQ_STAT →
      (d.takeClosePipe p).rd f p = d.rd f p := fun hf hs ht => (takeKeeps_rd hf hs ht).takeClosePipe rfl p
  have ended : ∀ {f : Fld} {i : Nat}, f.reg ≠ .PCTL_ARUN_STAT → (d.arunEnd p 1).rd f p i = d.rd f p i := fun hf => by
    unfold Dev.arunEnd
    split_ifs
    · exact rd_wr_of_reg hf
    · rfl
  refine ⟨(congrArg (· == 4) ((close (by decide) (by decide) (by decide)).trans (ended (by decide)))).trans h, fun ht he => ?_, fun k hk => ?_⟩
  · rw [close (by decide) (by decide) (by decide), Dev.arunEnd, if_pos (by simp [h, ht, he])]
    exact rd_wr_of_lt (by decide)
  · have hq : (d.arunEnd p 1).tq p k = d.tq p k := by
      unfold Dev.arunEnd
      split_ifs <;> rfl
    have hs : (d.arunEnd p 1).tqState p k = d.tqState p k := ended (by decide)
    rw [← hs]
    exact takeClosePipe_shuts _ p k (by rwa [hq])

@[simp] theorem settle_inArun : (settle d).inArun p = d.inArun p := rfl
@[simp] theorem settle_tqState {t : Nat} : (settle d).tqState p t = d.tqState p t := rfl
@[simp] theorem settle_tq {t : Nat} : (settle d).tq p t = d.tq p t := rfl

/-- Settles O52: the strobe, the entry and the limit are the three effects above; a lost Hub, a pipe not in RUN and one not in autonomous
run answer as they were. -/
theorem autonomousRun : Obligations.AutonomousRun := by
  unfold Obligations.AutonomousRun
  intro s p ha
  refine ⟨fun hl => exec_of_run ha rfl (if_pos hl), fun hl hp => ?_, fun h => exec_of_run ha rfl (if_pos h), fun h => ?_,
    fun h => exec_of_run ha rfl (if_neg (by simp [h])), fun h => ?_⟩
  · have hcopy := copyStrobe_copies hl hp
    have htime := hcopy.pipeTime
    obtain ⟨-, hlast, -, hhold, hresync, hstate⟩ := hcopy
    exact does_of_run ha rfl ⟨hlast, htime, hhold, hresync, hstate⟩
  · exact does_of_run ha rfl (arunEnter_effect h)
  · refine does_of_run ha rfl ?_
    rw [if_pos h]
    simp only [settle_inArun, settle_rd, settle_tqState, settle_tq]
    exact arunLimit_effect h

end Sys2Proof.Machine
end

section
/-!
The record path's watchdog (R87 to R90): a stall, the flush of what it held up, and the restart.
-/
namespace Sys2Proof.Machine

variable {P : Dev → Prop} {d : Dev} {p : Nat}

/-! ### What encoders and takes leave of a pipe -/

/-- A part of a pipe's record that a property says is `x` stays so through a change of another part. -/
theorem pipe_part_keeps {α : Type} {φ : PipeSt → α} {x : α} {u : Nat} {f : PipeSt → PipeSt} (hf : ∀ y, φ (f y) = φ y)
    (h : φ (d.pipe p) = x) : φ ((d.updPipe u f).pipe p) = x := (updPipe_part φ hf d u p).trans h

theorem encKeeps_pipe {α : Type} {φ : PipeSt → α} (x : α) (hcasks : ∀ y c, φ { y with casks := c } = φ y)
    (hencs : ∀ y e, φ { y with encs := e } = φ y) : EncKeeps fun d => φ (d.pipe p) = x :=
  ⟨⟨fun _ h => h, fun _ h => h, fun _ h => pipe_part_keeps (fun y => hcasks y _) h⟩, fun _ h => h,
    fun e syn h => (congrArg φ (raise_pipe _ e syn p)).trans h, fun _ h => pipe_part_keeps (fun y => hencs y _) h⟩

theorem encKeeps_lost : EncKeeps fun d => d.hub.lost = false :=
  ⟨⟨fun _ h => h, fun _ h => h, fun _ h => h⟩, fun _ h => h, fun e syn h => (raise_lost _ e syn).trans h, fun _ h => h⟩

/-- The record path's watchdog is no part of a take. -/
theorem takeKeeps_recp (x : RecPath) : TakeKeeps fun d => (d.pipe p).recp = x :=
  ⟨⟨encKeeps_pipe (φ := (·.recp)) x (fun _ _ => rfl) fun _ _ => rfl, fun _ h => h, fun _ h => pipe_part_keeps (φ := (·.recp)) (fun _ => rfl) h⟩,
    fun h => h, fun _ h => pipe_part_keeps (φ := (·.recp)) (fun _ => rfl) h⟩

theorem takeKeeps_stat (e : Nat) : TakeKeeps fun d => e ∈ d.router.stat :=
  ⟨⟨⟨⟨fun _ h => h, fun _ h => h, fun _ h => h⟩, fun _ h => h, fun _ syn h => raise_stat_mono syn h, fun _ h => h⟩, fun _ h => h,
    fun _ h => h⟩, fun h => h, fun _ h => h⟩

theorem TakeKeeps.putVc (k : TakeKeeps P) (h : P d) (q v : Nat) (x : SfeVc) : P (d.putVc q v x) := by
  obtain ⟨⟨-, -, sfe⟩, -⟩ := k
  exact sfe _ h

theorem when_keeps (b : Bool) {f : Dev → Dev} (hf : ∀ {d : Dev}, P d → P (f d)) (h : P d) : P (d.when b f) := by
  unfold Dev.when
  split_ifs
  · exact hf h
  · exact h

/-- The flush of a virtual channel's record path changes its encoder, its cask and its take queue. -/
theorem TakeKeeps.recFlushVc (k : TakeKeeps P) (h : P d) (q v stage : Nat) : P (d.recFlushVc q v stage).2 := by
  obtain ⟨⟨enc, -⟩, -, takes⟩ := k
  have cask := enc.toCask
  unfold Dev.recFlushVc
  extract_lets e n x t head isGap open_ closing
  have hr : ∀ y, P ((d.putEnc q v y).wr F.PXR_ENC_VSTAT_OPEN 0 q v) := fun y => enc.reg (by decide) (enc.putEnc h q v y)
  split_ifs with hl h2
  · exact h
  · exact takes _ (when_keeps _ (fun h => cask.caskPut h q n _) (cask.caskFlush (cask.setCask (hr _) q n _) q n))
  · exact cask.stat rfl (cask.stat rfl (cask.putCask (hr _) q n _))

/-! ### Virtual channels -/

theorem vc_putVc_same (d : Dev) (p v : Nat) (x : SfeVc) : (d.putVc p v x).vc p v = x := by
  simp [Dev.vc, Dev.sfe, Dev.putVc, Dev.updSfe]

theorem vc_putVc_ne {v w : Nat} (h : w ≠ v) (d : Dev) (p : Nat) (x : SfeVc) : (d.putVc p v x).vc p w = d.vc p w := by
  simp [Dev.vc, Dev.sfe, Dev.putVc, Dev.updSfe, Tab.get_set_other _ _ _ h]

theorem putVc_recp (d : Dev) (p q v : Nat) (x : SfeVc) : ((d.putVc q v x).pipe p).recp = (d.pipe p).recp :=
  updPipe_part (·.recp) (f := fun s => { s with sfe := { s.sfe with vcs := Tab.set {} s.sfe.vcs v x } }) (fun _ => rfl) d q p

/-! ### The stall -/

/-- The split of a virtual channel stops feeding the record branch (R88). -/
def Dev.splitStop (d : Dev) (p v : Nat) : Dev :=
  if (d.vc p v).feeding then d.putVc p v { d.vc p v with feeding := false, counted := true, recDrop := false } else d

theorem splitStop_parts (d : Dev) (p v : Nat) : (d.splitStop p v).regs = d.regs ∧ (d.splitStop p v).router = d.router ∧
    (d.splitStop p v).hub = d.hub ∧ ((d.splitStop p v).pipe p).recp = (d.pipe p).recp := by
  unfold Dev.splitStop
  split_ifs
  · exact ⟨rfl, rfl, rfl, putVc_recp d p p v _⟩
  · exact ⟨rfl, rfl, rfl, rfl⟩

/-- A stall stops the splits of all virtual channels and nothing else. -/
theorem splitStops_parts (d : Dev) (p : Nat) (l : List Nat) : (l.foldl (fun d v => d.splitStop p v) d).regs = d.regs ∧
    (l.foldl (fun d v => d.splitStop p v) d).router = d.router ∧ (l.foldl (fun d v => d.splitStop p v) d).hub = d.hub ∧
    ((l.foldl (fun d v => d.splitStop p v) d).pipe p).recp = (d.pipe p).recp := by
  refine foldl_keeps (P := fun e => e.regs = d.regs ∧ e.router = d.router ∧ e.hub = d.hub ∧ (e.pipe p).recp = (d.pipe p).recp) l
    (fun e v _ h => ?_) ⟨rfl, rfl, rfl, rfl⟩
  obtain ⟨hr, ho, hh, hp⟩ := splitStop_parts e p v
  obtain ⟨kr, ko, kh, kp⟩ := h
  exact ⟨hr.trans kr, ho.trans ko, hh.trans kh, hp.trans kp⟩

theorem splitStop_feeding (d : Dev) (p v : Nat) : ((d.splitStop p v).vc p v).feeding = false := by
  unfold Dev.splitStop
  split_ifs with h
  · rw [vc_putVc_same]
  · simpa using h

theorem splitStop_other {v w : Nat} (h : w ≠ v) (d : Dev) (p : Nat) : (d.splitStop p v).vc p w = d.vc p w := by
  unfold Dev.splitStop
  split_ifs
  · exact vc_putVc_ne h d p _
  · rfl

theorem splitStops_feeding (d : Dev) (p : Nat) (v : Fin 16) :
    (((List.range 16).foldl (fun d v => d.splitStop p v) d).vc p v).feeding = false :=
  foldl_turn (P := fun _ => True) (Q := fun e => (e.vc p v).feeding = false) (f := fun e w => e.splitStop p w) (x := v.val) (by simp)
    List.nodup_range (fun _ _ _ _ _ => trivial) (fun e _ => splitStop_feeding e p v)
    (fun e w _ hw h => (congrArg (·.feeding) (splitStop_other hw.symm e p)).trans h) trivial

/-- A counter of 48 bits goes up by one and stops at its largest value (R16). -/
theorem bump_stallCnt (h : d.cnt C.PCTL_STALL_CNT p < 2 ^ 48) :
    (d.bump C.PCTL_STALL_CNT p).cnt C.PCTL_STALL_CNT p = min (2 ^ 48 - 1) (d.cnt C.PCTL_STALL_CNT p + 1) := by
  have split : ∀ (e : Dev) (n : Nat), n < 2 ^ 48 →
      ((e.wr C.PCTL_STALL_CNT.lo (n % 2 ^ 32) p).wr C.PCTL_STALL_CNT.hi (n / 2 ^ 32) p).cnt C.PCTL_STALL_CNT p = n := fun e n hn => by
    have hlo : (e.wr C.PCTL_STALL_CNT.lo (n % 2 ^ 32) p).rd C.PCTL_STALL_CNT.lo p = n % 2 ^ 32 := rd_wr_of_lt (Nat.mod_lt _ (by decide))
    have hhi : n / 2 ^ 32 < 2 ^ C.PCTL_STALL_CNT.hi.width := by
      change n / 2 ^ 32 < 2 ^ 16
      omega
    rw [Dev.cnt, rd_wr_of_reg (by decide), hlo, rd_wr_of_lt hhi]
    omega
  unfold Dev.bump Dev.bumpBy
  extract_lets v m d₁ v₁
  have hv : v₁ = min (2 ^ 48 - 1) (d.cnt C.PCTL_STALL_CNT p + 1) := by
    simp only [v₁, v, m]
    split_ifs <;> omega
  rw [split d₁ v₁ (by omega), hv]

/-- Registers that a stall writes read the same after the other writes of the count of stalls. -/
theorem bump_rd {f : Fld} {i j : Nat} (hf : f.reg ∉ [RegId.PCTL_STALL_CNT_LO, .PCTL_STALL_CNT_HI]) :
    (d.bump C.PCTL_STALL_CNT p).rd f p i j = d.rd f p i j := by
  have skip : ∀ {g : Fld} {v : Nat} {d : Dev}, g.reg ∈ [RegId.PCTL_STALL_CNT_LO, .PCTL_STALL_CNT_HI] →
      (d.wr g v p).rd f p i j = d.rd f p i j := rd_wr_of_mem hf
  unfold Dev.bump Dev.bumpBy
  extract_lets v m d₁ v₁
  have h₁ : d₁.rd f p i j = d.rd f p i j := by
    unfold d₁
    split_ifs
    · exact skip (by decide)
    · rfl
  exact (skip (by decide)).trans ((skip (by decide)).trans h₁)

/-- The location of a stall shows (R88). -/
def Dev.stallShow (d : Dev) (p stage inst : Nat) (latch : Bool) : Dev :=
  (((d.wr F.PCTL_STALL_LOC_VALID 1 p).wrb F.PCTL_STALL_LOC_LATCH latch p).wr F.PCTL_STALL_LOC_STAGE stage p).wr F.PCTL_STALL_LOC_INST inst p

/-- The stall is counted and told, and the splits stop (R88). -/
def Dev.stallTell (d : Dev) (p : Nat) : Dev :=
  (List.range 16).foldl (fun d v => d.splitStop p v)
    ((d.bump C.PCTL_STALL_CNT p).raiseP p 3 (d.fieldWord ⟨.PCTL_STALL_LOC, p, 0, 0⟩))

/-- A stall that comes again within a second latches: what waits is discarded and the take closes (R90). -/
def Dev.stallLatch (d : Dev) (p stage : Nat) : Dev :=
  (((List.range 16).foldl (fun d v => d.putVc p v { d.vc p v with stalled := [], counted := false })
    ((List.range 16).foldl (fun d v => (d.recFlushVc p v stage).2) d)).arunEnd p 7).takeClosePipe p

/-- The watchdog's record of a stall. -/
def RecPath.stall (r : RecPath) (stage inst c : Nat) (latch : Bool) : RecPath :=
  { r with stage := stage, inst := inst, at_ := c, seen := true, stopped := true, flushed := false, latched := latch }

/-- A stall takes its record, shows, is told, and latches where it comes again. -/
theorem recStall_eq {stage inst : Nat} {latch : Bool} (hr : d.pipeRuns p = true) (hl : (d.pipe p).recp.latched = false)
    (hs : d.stageHolds p stage inst = true)
    (hlatch : latch = ((d.pipe p).recp.seen && (d.pipe p).recp.stage == stage && (d.pipe p).recp.inst == inst &&
      decide (cSince (d.pipe p).recp.at_ d.c < cOfNs 1000000000))) :
    d.recStall p stage inst =
      if latch then (((d.updRecp p fun r => r.stall stage inst d.c latch).stallShow p stage inst latch).stallTell p).stallLatch p stage
      else ((d.updRecp p fun r => r.stall stage inst d.c latch).stallShow p stage inst latch).stallTell p := by
  subst hlatch
  rw [Dev.recStall, if_neg (by simp [hr, hl, hs])]
  rfl

/-- What the latch of a stall changes is the takes', the streams' and the record of an autonomous run. -/
theorem TakeKeeps.stallLatch (k : TakeKeeps P) (hend : ∀ {d : Dev} {v : Nat}, P d → P (d.wr F.PCTL_ARUN_STAT_END v p)) (h : P d) (stage : Nat) :
    P (d.stallLatch p stage) := by
  refine k.takeClosePipe ?_ p
  have hv : P ((List.range 16).foldl (fun d v => d.putVc p v { d.vc p v with stalled := [], counted := false })
      ((List.range 16).foldl (fun d v => (d.recFlushVc p v stage).2) d)) :=
    foldl_keeps _ (fun _ v _ h => k.putVc h p v _) (foldl_keeps _ (fun _ v _ h => k.recFlushVc h p v stage) h)
  unfold Dev.arunEnd
  split_ifs
  · exact hend hv
  · exact hv

/-- The registers in which a stall shows. -/
def stallRegs : List RegId := [.PCTL_STALL_LOC, .PCTL_STALL_CNT_LO, .PCTL_STALL_CNT_HI]

theorem stallLatch_rd {f : Fld} (hf : f.reg ∈ stallRegs) (stage : Nat) : (d.stallLatch p stage).rd f p = d.rd f p := by
  have apart : ∀ r ∈ stallRegs, r ∉ RegId.CASK_STAT :: .QDL_PEER :: .PXR_ENC_TAKE :: .SFE_STAT :: .PCTL_STAT :: .CELP_TQ_STAT ::
      .PCTL_ARUN_STAT :: encRegs := by decide
  have hr := apart f.reg hf
  simp only [List.mem_cons, not_or] at hr
  obtain ⟨hc, hq, he, hs, ht, hk, ha, hn⟩ := hr
  exact (takeKeeps_rd (by simp [hc, hq, hn]) (by simp [streamField, he, hs, ht]) hk).stallLatch (fun h => (rd_wr_of_reg ha).trans h) rfl stage

theorem stallTell_rd {f : Fld} (hf : f.reg = .PCTL_STALL_LOC) : (d.stallTell p).rd f p = d.rd f p := by
  obtain ⟨hr, -⟩ := splitStops_parts ((d.bump C.PCTL_STALL_CNT p).raiseP p 3 (d.fieldWord ⟨.PCTL_STALL_LOC, p, 0, 0⟩)) p (List.range 16)
  rw [Dev.stallTell, Dev.rd, hr]
  exact (raise_rd _ _ _ _ _ _ _ (by rw [hf]; decide)).trans (bump_rd (by rw [hf]; decide))

theorem stallTell_cnt (h : d.cnt C.PCTL_STALL_CNT p < 2 ^ 48) :
    (d.stallTell p).cnt C.PCTL_STALL_CNT p = min (2 ^ 48 - 1) (d.cnt C.PCTL_STALL_CNT p + 1) := by
  obtain ⟨hr, -⟩ := splitStops_parts ((d.bump C.PCTL_STALL_CNT p).raiseP p 3 (d.fieldWord ⟨.PCTL_STALL_LOC, p, 0, 0⟩)) p (List.range 16)
  rw [← bump_stallCnt h, Dev.stallTell, Dev.cnt, Dev.rd, Dev.rd, hr, Dev.cnt]
  exact congrArg₂ (fun a b => a + 2 ^ 32 * b) (raise_rd _ _ _ _ _ _ _ (by decide)) (raise_rd _ _ _ _ _ _ _ (by decide))

theorem bump_parts (d : Dev) (c : Cnt) (p : Nat) : (d.bump c p).hub = d.hub ∧ (d.bump c p).pipes = d.pipes := by
  unfold Dev.bump Dev.bumpBy
  dsimp only
  split_ifs <;> exact ⟨rfl, rfl⟩

theorem stallTell_raised (h : d.hub.lost = false) :
    Raised (d.stallTell p) (pipeEvent p 3) (d.fieldWord ⟨.PCTL_STALL_LOC, p, 0, 0⟩) := by
  obtain ⟨-, hr, -⟩ := splitStops_parts ((d.bump C.PCTL_STALL_CNT p).raiseP p 3 (d.fieldWord ⟨.PCTL_STALL_LOC, p, 0, 0⟩)) p (List.range 16)
  rw [Raised, Dev.stallTell, hr]
  exact raise_raised _ _ _ (by rw [(bump_parts d _ p).1]; exact h)

theorem stallTell_recp : ((d.stallTell p).pipe p).recp = (d.pipe p).recp := by
  obtain ⟨-, -, -, hp⟩ := splitStops_parts ((d.bump C.PCTL_STALL_CNT p).raiseP p 3 (d.fieldWord ⟨.PCTL_STALL_LOC, p, 0, 0⟩)) p (List.range 16)
  rw [Dev.stallTell, hp, Dev.raiseP, raise_pipe, Dev.pipe, (bump_parts d _ p).2]
  rfl

/-- A register's word is its fields'. -/
theorem fieldWord_congr {a b : Dev} {l : RegLoc} (h : ∀ f ∈ l.reg.info.flds, a.rd f l.p l.i l.j = b.rd f l.p l.i l.j) :
    a.fieldWord l = b.fieldWord l := by
  unfold Dev.fieldWord
  rw [List.map_congr_left fun f hf => by rw [h f hf]]

theorem stallTell_fieldWord : (d.stallTell p).fieldWord ⟨.PCTL_STALL_LOC, p, 0, 0⟩ = d.fieldWord ⟨.PCTL_STALL_LOC, p, 0, 0⟩ :=
  fieldWord_congr fun f hf => stallTell_rd ((by decide : ∀ f ∈ RegId.PCTL_STALL_LOC.info.flds, f.reg = .PCTL_STALL_LOC) f hf)

/-- A location shown reads back. -/
theorem stallShow_fields {stage inst : Nat} {latch : Bool} (hs : stage < 4) (hi : inst < 2 ^ 16) :
    (d.stallShow p stage inst latch).on F.PCTL_STALL_LOC_VALID p = true ∧ (d.stallShow p stage inst latch).on F.PCTL_STALL_LOC_LATCH p = latch ∧
    (d.stallShow p stage inst latch).rd F.PCTL_STALL_LOC_STAGE p = stage ∧ (d.stallShow p stage inst latch).rd F.PCTL_STALL_LOC_INST p = inst := by
  have lo : ∀ {f g : Fld} {v : Nat} {d : Dev}, f.lo ≠ g.lo → (d.wr g v p).rd f p = d.rd f p := rd_wr_of_lo
  refine ⟨?_, ?_, ?_, rd_wr_of_lt hi⟩
  · exact (on_of_rd ((lo (by decide)).trans ((lo (by decide)).trans (lo (by decide))))).trans (on_wrb (b := true) rfl)
  · exact (on_of_rd ((lo (by decide)).trans (lo (by decide)))).trans (on_wrb rfl)
  · exact (lo (by decide)).trans (rd_wr_of_lt (hs.trans_le (by decide)))

/-- What a stall leaves (R88, R90). -/
theorem recStall_effect {stage inst : Nat} {latch : Bool} (hs : stage < 4) (hi : inst < 2 ^ 16) (hr : d.pipeRuns p = true)
    (hl : (d.pipe p).recp.latched = false) (hh : d.stageHolds p stage inst = true)
    (hlatch : latch = ((d.pipe p).recp.seen && (d.pipe p).recp.stage == stage && (d.pipe p).recp.inst == inst &&
      decide (cSince (d.pipe p).recp.at_ d.c < cOfNs 1000000000))) (hn : d.cnt C.PCTL_STALL_CNT p < 2 ^ 48) :
    ((d.recStall p stage inst).on F.PCTL_STALL_LOC_VALID p = true ∧ (d.recStall p stage inst).on F.PCTL_STALL_LOC_LATCH p = latch ∧
      (d.recStall p stage inst).rd F.PCTL_STALL_LOC_STAGE p = stage ∧ (d.recStall p stage inst).rd F.PCTL_STALL_LOC_INST p = inst) ∧
    (((d.recStall p stage inst).pipe p).recp.stopped = true ∧ ((d.recStall p stage inst).pipe p).recp.latched = latch) ∧
    (d.recStall p stage inst).cnt C.PCTL_STALL_CNT p = min (2 ^ 48 - 1) (d.cnt C.PCTL_STALL_CNT p + 1) ∧
    (d.hub.lost = false → pipeEvent p 3 ∈ (d.recStall p stage inst).router.stat) ∧
    (latch = false → (∀ v : Fin 16, ((d.recStall p stage inst).vc p v).feeding = false) ∧ (d.hub.lost = false →
      Raised (d.recStall p stage inst) (pipeEvent p 3) ((d.recStall p stage inst).fieldWord ⟨.PCTL_STALL_LOC, p, 0, 0⟩))) := by
  rw [recStall_eq hr hl hh hlatch]
  clear hlatch
  set e := (d.updRecp p fun r => r.stall stage inst d.c latch).stallShow p stage inst latch with he
  have hrecp : (e.pipe p).recp = (d.pipe p).recp.stall stage inst d.c latch := by
    have hp : (e.pipe p).recp = ((d.updRecp p fun r => r.stall stage inst d.c latch).pipe p).recp := rfl
    rw [hp, Dev.updRecp, updPipe_pipe_same]
  have hlost : e.hub.lost = d.hub.lost := rfl
  have hcnt : e.cnt C.PCTL_STALL_CNT p = d.cnt C.PCTL_STALL_CNT p := by
    have reg : ∀ {f : Fld}, f.reg ≠ .PCTL_STALL_LOC → e.rd f p = d.rd f p := fun hf =>
      (rd_wr_of_reg hf).trans ((rd_wr_of_reg hf).trans ((rd_wr_of_reg hf).trans (rd_wr_of_reg hf)))
    rw [Dev.cnt, reg (by decide), reg (by decide), Dev.cnt]
  obtain ⟨hvalid, hlat, hstage, hinst⟩ := stallShow_fields (d := d.updRecp p fun r => r.stall stage inst d.c latch) (p := p) (latch := latch) hs hi
  rw [← he] at hvalid hlat hstage hinst
  clear_value e
  have tell : ∀ {f : Fld}, f.reg = .PCTL_STALL_LOC → (e.stallTell p).rd f p = e.rd f p := stallTell_rd
  have tcnt := stallTell_cnt (hcnt ▸ hn)
  rw [hcnt] at tcnt
  cases latch with
  | false =>
    rw [if_neg (by decide)]
    refine ⟨⟨(on_of_rd (tell rfl)).trans hvalid, (on_of_rd (tell rfl)).trans hlat, (tell rfl).trans hstage, (tell rfl).trans hinst⟩,
      ?_, tcnt, fun h => (stallTell_raised (hlost.trans h)).1, fun _ => ⟨fun v => ?_, fun h => ?_⟩⟩
    · rw [stallTell_recp, hrecp]
      exact ⟨rfl, rfl⟩
    · exact splitStops_feeding _ p v
    · rw [stallTell_fieldWord]
      exact stallTell_raised (hlost.trans h)
  | true =>
    rw [if_pos rfl]
    have latched : ∀ {f : Fld}, f.reg = .PCTL_STALL_LOC → ((e.stallTell p).stallLatch p stage).rd f p = e.rd f p := fun hf =>
      (stallLatch_rd (by rw [hf]; decide) stage).trans (tell hf)
    refine ⟨⟨(on_of_rd (latched rfl)).trans hvalid, (on_of_rd (latched rfl)).trans hlat, (latched rfl).trans hstage, (latched rfl).trans hinst⟩,
      ?_, ?_, fun h => ?_, fun h => absurd h (by decide)⟩
    · have hp : (((e.stallTell p).stallLatch p stage).pipe p).recp = _ := (takeKeeps_recp _).stallLatch (fun h => h) stallTell_recp stage
      rw [hp, hrecp]
      exact ⟨rfl, rfl⟩
    · rw [← tcnt, Dev.cnt, stallLatch_rd (by decide), stallLatch_rd (by decide), Dev.cnt]
    · exact (takeKeeps_stat _).stallLatch (fun h => h) (stallTell_raised (hlost.trans h)).1 stage

/-! ### The flush and the restart -/

/-- A stopped path that is flushed has restarted (R89). -/
theorem recFlush_effect (hs : (d.pipe p).recp.stopped = true) (hl : (d.pipe p).recp.latched = false) :
    ((d.recFlush p).pipe p).recp.stopped = false ∧ ((d.recFlush p).pipe p).recp.flushed = true := by
  rw [Dev.recFlush, if_neg (by simp [hs, hl])]
  dsimp only
  rw [Dev.updRecp, updPipe_pipe_same]
  exact ⟨rfl, rfl⟩

/-- The records a flush has put aside for a virtual channel go to its encoder (R89). -/
def Dev.recResume (d : Dev) (p v : Nat) : Dev :=
  let x := d.vc p v
  let e := d.enc p v
  let items := x.stalled ++ e.items
  let d := d.putVc p v { x with stalled := [] }
  if e.live then (d.putEnc p v { e with items := items }).encAdvance p v (items.length + 1) else d

theorem recResume_keeps (k : EncKeeps P) {v : Nat} (h : P (d.putVc p v { d.vc p v with stalled := [] })) : P (d.recResume p v) := by
  unfold Dev.recResume
  dsimp only
  split_ifs
  · exact k.encAdvance (k.putEnc h p v _) p v _
  · exact h

theorem encKeeps_vc (v : Nat) (x : SfeVc) : EncKeeps fun d => d.vc p v = x :=
  encKeeps_pipe (φ := fun s => Tab.get ({} : SfeVc) s.sfe.vcs v) x (fun _ _ => rfl) fun _ _ => rfl

theorem recResumes_stalled (d : Dev) (p : Nat) (v : Fin 16) :
    (((List.range 16).foldl (fun d v => d.recResume p v) d).vc p v).stalled = [] := by
  refine foldl_turn (P := fun _ => True) (Q := fun e => (e.vc p v).stalled = []) (f := fun e w => e.recResume p w) (x := v.val)
    (by simp) List.nodup_range (fun _ _ _ _ _ => trivial) (fun e _ => ?_) (fun e w _ hw h => ?_) trivial
  · rw [recResume_keeps (encKeeps_vc v.val _) (vc_putVc_same e p v _)]
  · rw [recResume_keeps (encKeeps_vc v.val _) (vc_putVc_ne hw.symm e p _)]
    exact h

theorem raiseP_vc {n k syn v : Nat} : (d.raiseP n k syn).vc p v = d.vc p v := by
  rw [Dev.vc, Dev.sfe, Dev.raiseP, raise_pipe]
  rfl

/-- After a restart nothing of the flush is left (R89). -/
theorem recRestart_effect (hf : (d.pipe p).recp.flushed = true) : ((d.recRestart p).pipe p).recp.flushed = false ∧
    (∀ v : Fin 16, ((d.recRestart p).vc p v).stalled = []) ∧ (d.hub.lost = false → Raised (d.recRestart p) (pipeEvent p 4)
      (2 ^ 31 + (d.pipe p).recp.stage * 2 ^ 24 + (d.pipe p).recp.inst)) := by
  have he : d.recRestart p = ((List.range 16).foldl (fun d v => d.recResume p v) (d.updRecp p fun r => { r with flushed := false })).raiseP p 4
      (2 ^ 31 + (d.pipe p).recp.stage * 2 ^ 24 + (d.pipe p).recp.inst) := by
    rw [Dev.recRestart, if_neg (by simp [hf])]
    rfl
  rw [he]
  refine ⟨?_, fun v => ?_, fun h => ?_⟩
  · rw [Dev.raiseP, raise_pipe]
    refine foldl_keeps (P := fun e => (e.pipe p).recp.flushed = false) _ (fun e v _ h => ?_) (by rw [Dev.updRecp, updPipe_pipe_same])
    exact recResume_keeps (encKeeps_pipe (φ := (·.recp.flushed)) _ (fun _ _ => rfl) fun _ _ => rfl) (by rw [putVc_recp]; exact h)
  · rw [raiseP_vc]
    exact recResumes_stalled _ p v
  · refine raise_raised _ _ _ (foldl_keeps (P := fun e => e.hub.lost = false) _ (fun e v _ h => ?_) h)
    exact recResume_keeps encKeeps_lost h

end Sys2Proof.Machine
end

section
/-!
The readings of the path sensors (R66 to R68).
-/
namespace Sys2Proof.Machine

variable {d : Dev} {p k ps : Nat}

/-- The windows in a row, with a new reading, in which sensor `k` of pipe `p` has shown the same. -/
def Dev.sameReadings (d : Dev) (p k ps : Nat) : Nat :=
  if (Tab.get {} (d.pipe p).pace.sens k).last = ps then (Tab.get {} (d.pipe p).pace.sens k).same + 1 else 0

/-- A reading is taken and shows (R67). -/
def Dev.readingTaken (d : Dev) (p k ps : Nat) : Dev :=
  (d.updPace p fun a =>
    { a with sens := Tab.put a.sens k ⟨ps, d.sameReadings p k ps, max (Tab.get {} (d.pipe p).pace.sens k).peak ps⟩ }).wr F.PCTL_PSENS_PACE_PS ps p k

/-- A sensor that reads out of range, or the same for too long, is out (R68). -/
def Dev.sensorFails (d : Dev) (p k : Nat) : Dev := ((d.wr F.PCTL_PSENS_FAULT 1 p k).wr F.PCTL_PSENS_VALID 0 p k).raiseP p 2 k

/-- A reading of a powered pipe is taken, and judged where its sensor is not yet out. -/
theorem paceReading_eq (hp : d.powered p = true) : d.paceReading p k ps =
    if d.on F.PCTL_PSENS_FAULT p k then d.readingTaken p k ps
    else if ps < 300 ∨ 2000 < ps ∨ 1000 ≤ d.sameReadings p k ps then (d.readingTaken p k ps).sensorFails p k
    else (d.readingTaken p k ps).wr F.PCTL_PSENS_VALID 1 p k := by
  have hf : (d.readingTaken p k ps).on F.PCTL_PSENS_FAULT p k = d.on F.PCTL_PSENS_FAULT p k := on_of_rd (rd_wr_of_lo (by decide))
  rw [Dev.paceReading, if_neg (by simp [hp]), ← hf]
  rfl

theorem paceReading_out (hp : d.powered p = true) (hf : d.on F.PCTL_PSENS_FAULT p k = true) :
    d.paceReading p k ps = d.readingTaken p k ps := by rw [paceReading_eq hp, if_pos hf]

theorem paceReading_fails (hp : d.powered p = true) (hf : d.on F.PCTL_PSENS_FAULT p k = false)
    (h : ps < 300 ∨ 2000 < ps ∨ 1000 ≤ d.sameReadings p k ps) : d.paceReading p k ps = (d.readingTaken p k ps).sensorFails p k := by
  rw [paceReading_eq hp, if_neg (by simp [hf]), if_pos h]

theorem paceReading_valid (hp : d.powered p = true) (hf : d.on F.PCTL_PSENS_FAULT p k = false)
    (h : ¬(ps < 300 ∨ 2000 < ps ∨ 1000 ≤ d.sameReadings p k ps)) :
    d.paceReading p k ps = (d.readingTaken p k ps).wr F.PCTL_PSENS_VALID 1 p k := by
  rw [paceReading_eq hp, if_neg (by simp [hf]), if_neg h]

/-- What the taking of a reading leaves, whatever is thought of it: the code shown, the sensor's record, and the other fields. -/
theorem readingTaken_parts (hps : ps < 2 ^ 12) : (d.readingTaken p k ps).rd F.PCTL_PSENS_PACE_PS p k = ps ∧
    ((d.readingTaken p k ps).pipe p).pace.sens =
      Tab.put (d.pipe p).pace.sens k ⟨ps, d.sameReadings p k ps, max (Tab.get {} (d.pipe p).pace.sens k).peak ps⟩ := by
  refine ⟨rd_wr_of_lt hps, ?_⟩
  have hp : ((d.readingTaken p k ps).pipe p).pace.sens = ((d.updPace p fun a => { a with
      sens := Tab.put a.sens k ⟨ps, d.sameReadings p k ps, max (Tab.get {} (d.pipe p).pace.sens k).peak ps⟩ }).pipe p).pace.sens := rfl
  rw [hp, Dev.updPace, updPipe_pipe_same]

theorem sensorFails_parts : (d.sensorFails p k).rd F.PCTL_PSENS_PACE_PS p k = d.rd F.PCTL_PSENS_PACE_PS p k ∧
    (d.sensorFails p k).pipe p = d.pipe p ∧ (d.sensorFails p k).on F.PCTL_PSENS_FAULT p k = true ∧
    (d.sensorFails p k).on F.PCTL_PSENS_VALID p k = false := by
  have told : ∀ {f : Fld}, f.reg = .PCTL_PSENS →
      (d.sensorFails p k).rd f p k = ((d.wr F.PCTL_PSENS_FAULT 1 p k).wr F.PCTL_PSENS_VALID 0 p k).rd f p k := fun hf =>
    raise_rd _ _ _ _ _ _ _ (by rw [hf]; decide)
  refine ⟨(told rfl).trans ((rd_wr_of_lo (by decide)).trans (rd_wr_of_lo (by decide))), raise_pipe _ _ _ _, ?_, ?_⟩
  · exact (on_of_rd ((told rfl).trans (rd_wr_of_lo (by decide)))).trans (on_wrb (b := true) rfl)
  · exact (on_of_rd (told rfl)).trans (on_wrb (b := false) rfl)

/-- A reading of a powered pipe shows and its sensor keeps it (R67). -/
theorem paceReading_shows (hp : d.powered p = true) (hps : ps < 2 ^ 12) : (d.paceReading p k ps).rd F.PCTL_PSENS_PACE_PS p k = ps ∧
    (Tab.get {} ((d.paceReading p k ps).pipe p).pace.sens k).last = ps ∧
    (Tab.get {} ((d.paceReading p k ps).pipe p).pace.sens k).peak = max (Tab.get {} (d.pipe p).pace.sens k).peak ps := by
  have hsame : (d.paceReading p k ps).rd F.PCTL_PSENS_PACE_PS p k = (d.readingTaken p k ps).rd F.PCTL_PSENS_PACE_PS p k ∧
      (d.paceReading p k ps).pipe p = (d.readingTaken p k ps).pipe p := by
    obtain ⟨hshow, hpipe, -, -⟩ := sensorFails_parts (d := d.readingTaken p k ps) (p := p) (k := k)
    rw [paceReading_eq hp]
    split_ifs
    · exact ⟨rfl, rfl⟩
    · exact ⟨hshow, hpipe⟩
    · exact ⟨rd_wr_of_lo (by decide), rfl⟩
  obtain ⟨hshow, hpipe⟩ := hsame
  obtain ⟨htaken, hsens⟩ := readingTaken_parts (d := d) (p := p) (k := k) hps
  rw [hpipe, hsens, Tab.get_put_same]
  exact ⟨hshow.trans htaken, rfl, rfl⟩

/-- What a reading makes of its sensor: out of range it fails, and it is valid in range and after a change (R68). -/
theorem paceReading_judges (hp : d.powered p = true) :
    (d.on F.PCTL_PSENS_FAULT p k = false → (ps < 300 ∨ 2000 < ps) → (d.paceReading p k ps).on F.PCTL_PSENS_FAULT p k = true ∧
      (d.paceReading p k ps).on F.PCTL_PSENS_VALID p k = false ∧
      (d.hub.lost = false → Raised (d.paceReading p k ps) (pipeEvent p 2) k)) ∧
    (d.on F.PCTL_PSENS_FAULT p k = false → 300 ≤ ps → ps ≤ 2000 → (Tab.get {} (d.pipe p).pace.sens k).last ≠ ps →
      (d.paceReading p k ps).on F.PCTL_PSENS_VALID p k = true) ∧
    (d.on F.PCTL_PSENS_FAULT p k = true →
      (d.paceReading p k ps).on F.PCTL_PSENS_VALID p k = d.on F.PCTL_PSENS_VALID p k) := by
  refine ⟨fun hf hr => ?_, fun hf hlow hhigh hne => ?_, fun hf => ?_⟩
  · obtain ⟨-, -, hfault, hvalid⟩ := sensorFails_parts (d := d.readingTaken p k ps) (p := p) (k := k)
    rw [paceReading_fails hp hf (hr.imp id .inl)]
    exact ⟨hfault, hvalid, fun hl => raise_raised _ _ _ hl⟩
  · have hs : d.sameReadings p k ps = 0 := if_neg hne
    rw [paceReading_valid hp hf (by omega)]
    exact on_wrb (b := true) rfl
  · rw [paceReading_out hp hf]
    exact on_of_rd (rd_wr_of_lo (by decide))

end Sys2Proof.Machine
end

section
/-!
What shedding changes (R82 to R86): the operations that shed work and restore it keep whatever does not depend on yields, on the block
coder's streams and on the registers that show what is shed.
-/
namespace Sys2Proof.Machine

variable {P Q : Dev → Prop} {d : Dev} {p : Nat}

/-- What the turn of one element of a list takes from `P` to `Q`, where every turn keeps each. -/
theorem foldl_reaches {α : Type} {f : Dev → α → Dev} {x : α} {l : List α} (hx : x ∈ l) (before : ∀ d, ∀ y ∈ l, P d → P (f d y))
    (turn : ∀ d, P d → Q (f d x)) (after : ∀ d, ∀ y ∈ l, Q d → Q (f d y)) (h : P d) : Q (l.foldl f d) := by
  obtain ⟨a, b, rfl⟩ := List.append_of_mem hx
  rw [List.foldl_append, List.foldl_cons]
  refine foldl_keeps b (fun e y hy => after e y (by simp [hy])) (turn _ ?_)
  exact foldl_keeps a (fun e y hy => before e y (by simp [hy])) h

/-- The fields that show what is shed. -/
def shedField (f : Fld) : Bool :=
  f.reg == .PCTL_PAUSE_EFF || (f.reg == .HUB_GOV_STAT && f.lo == F.HUB_GOV_STAT_SHED.lo) ||
    (f.reg == .PCTL_PACE_STAT && (f.lo == F.PCTL_PACE_STAT_SHED.lo || f.lo == F.PCTL_PACE_STAT_SHORT.lo))

/-- The pace data without an item in the list of its rank. -/
def Pace.unshed (a : Pace) (rank item : Nat) : Pace :=
  if rank = 5 then { a with kinds := a.kinds.filter fun x => x.1 != item }
  else if rank = 3 then { a with rungs := a.rungs.filter fun x => x.1 != item }
  else { a with lives := a.lives.filter fun x => x.1 != item }

/-- The property stands whatever shedding changes outside the list of what is shed. -/
def ShedKeeps (P : Dev → Prop) : Prop :=
  YieldKeeps P ∧ (∀ {d : Dev} (g : List Yield → List Yield), P d → P (d.updRouter fun r => { r with yields := g r.yields })) ∧
    (∀ {d : Dev} {f : Fld} {v p i j : Nat}, f.reg = .BLK_SSTAT → P d → P (d.wr f v p i j)) ∧
    (∀ {d : Dev} {u : Nat} (g : PipeSt → Tab BlkStream), P d → P (d.updPipe u fun s => { s with blk := g s })) ∧
    ∀ {d : Dev} {f : Fld} {v p i j : Nat}, shedField f = true → P d → P (d.wr f v p i j)

namespace ShedKeeps

variable (k : ShedKeeps P)
include k

theorem raise (h : P d) (e syn : Nat) : P (d.raise e syn) := by
  obtain ⟨⟨-, -, raise, -⟩, -⟩ := k
  exact raise e syn h

theorem yieldBegin {y : Yield} (h : P d) : P (d.yieldBegin y) := by
  obtain ⟨rec_, yields, -⟩ := k
  exact rec_.yieldBegin h fun _ z h => yields (· ++ [z]) h

theorem yieldEnd {q : Yield → Bool} (h : P d) : P (d.yieldEnd q) := by
  obtain ⟨rec_, yields, -⟩ := k
  exact rec_.yieldEnd (yields (·.filter fun y => !q y) h)

theorem bsStop (h : P d) (p c s : Nat) : P (d.bsStop p c s) := by
  obtain ⟨-, -, stat, blk, -⟩ := k
  exact stat rfl (blk _ h)

theorem streamStat {f : Fld} {v p i j : Nat} (hf : f.reg = .BLK_SSTAT) (h : P d) : P (d.wr f v p i j) := by
  obtain ⟨-, -, stat, -⟩ := k
  exact stat hf h

theorem bsRestore (h : P d) (p c s : Nat) : P (d.bsRestore p c s) := by
  obtain ⟨-, -, stat, blk, -⟩ := k
  have hs : P (d.wr F.BLK_SSTAT_STOPPED 0 p c s) := stat rfl h
  unfold Dev.bsRestore Dev.bsRefresh
  split_ifs
  · exact blk _ hs
  · exact hs

/-- The registers of what is shed say something else. -/
theorem showShed (h : P d) (p : Nat) : P (d.showShed p) := by
  obtain ⟨-, -, -, -, shown⟩ := k
  exact shown (by decide) (shown (by decide) (shown (by decide) (shown (by decide)
    (shown (by decide) (shown (by decide) (shown (by decide) h))))))

/-- A step of shedding adds to one of the lists of what is shed. -/
theorem shedStep (hpace : ∀ {d : Dev} (f : Pace → Pace), (∀ a, (f a).margins = a.margins ∧ (f a).short = a.short) → P d → P (d.updPace p f))
    (h : P d) (n : Nat) (what : Nat × Nat) : P (d.shedStep p n what) := by
  unfold Dev.shedStep
  extract_lets kr rec_
  have hrec : ∀ {d : Dev} (rank obj n : Nat), P d → P (rec_ d rank obj n) := fun _ _ _ h => k.yieldBegin h
  split
  · exact hrec _ _ _ (hpace _ (fun _ => ⟨rfl, rfl⟩) h)
  · refine hrec _ _ _ (foldl_keeps _ (fun d x _ h => ?_) (hpace _ (fun _ => ⟨rfl, rfl⟩) h))
    obtain ⟨c, s⟩ := x
    dsimp only
    split_ifs
    · exact k.streamStat rfl h
    · exact k.bsStop h p c s
  · exact hrec _ _ _ (hpace _ (fun _ => ⟨rfl, rfl⟩) h)

/-- A short claim's window, from where the claim has been told short. -/
theorem claimShort (hpace : ∀ {d : Dev} (f : Pace → Pace), (∀ a, (f a).margins = a.margins ∧ (f a).short = a.short) → P d → P (d.updPace p f))
    {n : Nat} (h : P (if (d.pipe p).pace.short.contains n then d else d.raiseP p 1 n)) : P (d.claimShort p n) := by
  unfold Dev.claimShort
  extract_lets d₁ d₂
  have h₁ : P d₁ := h
  have h₂ : P d₂ := by
    unfold d₂
    clear_value d₁
    split
    · exact k.shedStep hpace h₁ n _
    · exact h₁
  clear_value d₂
  split_ifs
  · exact k.raise (hpace (fun a => { a with done := insertNum n a.done }) (fun _ => ⟨rfl, rfl⟩) h₂) (pipeEvent p 1) n
  · exact h₂

/-- An item restored leaves its list first. -/
theorem shedRestore {rank item : Nat} (h : P (d.updPace p fun a => a.unshed rank item)) : P (d.shedRestore p rank item) := by
  unfold Dev.shedRestore
  extract_lets keep d₁ d₂ d₃
  have h₁ : P d₁ := by
    convert h using 1
    refine congrArg (d.updPace p) (funext fun a => ?_)
    unfold Pace.unshed
    split
    · rfl
    · rfl
    · next h5 h3 => rw [if_neg h5, if_neg h3]
  have h₂ : P d₂ := by
    unfold d₂
    split_ifs
    · refine foldl_keeps _ (fun d x _ h => ?_) h₁
      obtain ⟨c, s⟩ := x
      dsimp only
      have hp : P (d.wr F.BLK_SSTAT_PAUSED 0 p c s) := k.streamStat rfl h
      split_ifs
      · exact k.bsRestore hp p c s
      · exact hp
    · exact h₁
  exact k.showShed (k.yieldEnd h₂) p

end ShedKeeps

theorem ShedKeeps.and (k : ShedKeeps P) (l : ShedKeeps Q) : ShedKeeps fun d => P d ∧ Q d := by
  obtain ⟨⟨klog, kcount, kraise, kseq, khost⟩, kyields, kstat, kblk, kshown⟩ := k
  obtain ⟨⟨llog, lcount, lraise, lseq, lhost⟩, lyields, lstat, lblk, lshown⟩ := l
  exact ⟨⟨fun hf h => h.imp (klog hf) (llog hf), fun h => h.imp kcount lcount, fun e syn h => h.imp (kraise e syn) (lraise e syn),
    fun g h => h.imp (kseq g) (lseq g), fun n bs h => h.imp (khost n bs) (lhost n bs)⟩, fun g h => h.imp (kyields g) (lyields g),
    fun hf h => h.imp (kstat hf) (lstat hf), fun g h => h.imp (kblk g) (lblk g), fun hf h => h.imp (kshown hf) (lshown hf)⟩

/-- Shedding keeps every field that it does not write. -/
theorem shedKeeps_rd {f : Fld} {v q i j : Nat} (hf : f.reg ∉ [RegId.EVT_YLOG_TAIL, .PCTL_ARUN_STAT, .QDL_PEER, .BLK_SSTAT])
    (hs : shedField f = false) : ShedKeeps fun d => d.rd f q i j = v := by
  simp only [List.mem_cons, List.not_mem_nil, or_false, not_or] at hf
  obtain ⟨hl, ha, hq, hb⟩ := hf
  refine ⟨yieldKeeps_rd (by simp [hl, ha, hq]), fun _ h => h, fun hg h => (rd_wr_of_reg fun e => hb (e.trans hg)).trans h, fun _ h => h,
    fun {d g _ _ _ _} hg h => (d.rd_wr_ne _ _ _ _ _ _ _ _ _ fun e => ?_).trans h⟩
  have hr : f.reg = g.reg := congrArg FKey.reg e
  have hl : f.lo = g.lo := congrArg FKey.lo e
  have hsame : shedField f = shedField g := by simp only [shedField, hr, hl]
  simp [hs, hg] at hsame

/-- The registers that shedding writes. -/
def shedRegs : List RegId := [.EVT_YLOG_TAIL, .PCTL_ARUN_STAT, .QDL_PEER, .BLK_SSTAT, .PCTL_PACE_STAT, .PCTL_PAUSE_EFF, .HUB_GOV_STAT]

theorem shedKeeps_rd_of_reg {f : Fld} {v q i j : Nat} (hf : f.reg ∉ shedRegs) : ShedKeeps fun d => d.rd f q i j = v := by
  simp only [shedRegs, List.mem_cons, List.not_mem_nil, or_false, not_or] at hf
  obtain ⟨hy, ha, hq, hb, hp, he, hg⟩ := hf
  exact shedKeeps_rd (by simp [hy, ha, hq, hb]) (by simp [shedField, hp, he, hg])

/-- Shedding keeps what a pipe's pace data say, but for the lists that name what is shed. -/
theorem shedKeeps_pace (R : Pace → Prop) (p : Nat) : ShedKeeps fun d => R (d.pipe p).pace := by
  have part : ∀ {d : Dev} {u : Nat} (g : PipeSt → Tab BlkStream), R (d.pipe p).pace →
      R ((d.updPipe u fun s => { s with blk := g s }).pipe p).pace := fun {d u} g h => by
    rw [updPipe_part (·.pace) (f := fun s => { s with blk := g s }) (fun _ => rfl) d u p]
    exact h
  exact ⟨⟨fun _ h => h, fun h => h, fun e syn h => by simpa only [raise_pipe] using h, fun _ h => h, fun _ _ h => h⟩, fun _ h => h,
    fun _ h => h, part, fun _ h => h⟩

theorem shedKeeps_lost : ShedKeeps fun d => d.hub.lost = false :=
  ⟨⟨fun _ h => h, fun h => h, fun e syn h => (raise_lost _ e syn).trans h, fun _ h => h, fun _ _ h => h⟩, fun _ h => h,
    fun _ h => h, fun _ h => h, fun _ h => h⟩

theorem shedKeeps_stat (e : Nat) : ShedKeeps fun d => e ∈ d.router.stat :=
  ⟨⟨fun _ h => h, fun h => h, fun _ syn h => raise_stat_mono syn h, fun _ h => h, fun _ _ h => h⟩, fun _ h => h,
    fun _ h => h, fun _ h => h, fun _ h => h⟩

/-- The pace data of the pipe after a change of them. -/
theorem updPace_pace (d : Dev) (p : Nat) (f : Pace → Pace) : ((d.updPace p f).pipe p).pace = f (d.pipe p).pace := by
  rw [Dev.updPace, updPipe_pipe_same]

end Sys2Proof.Machine
end

section
/-!
The window of a pipe's pace contract (R67, R71, R72, R82): its parts in order, and what of them stands at its end.
-/
namespace Sys2Proof.Machine

variable {P : Dev → Prop} {a d : Dev} {p k : Nat}

/-! ### Tables of what a list names -/

theorem find_map_of_mem {α : Type} (g : Nat → α) {l : List Nat} (h : k ∈ l) : Tab.find (l.map fun k => (k, g k)) k = some (g k) := by
  induction l with
  | nil => simp at h
  | cons x l ih =>
    by_cases hx : k = x
    · simp [Tab.find, hx]
    · simp [Tab.find, hx, ih ((List.mem_cons.1 h).resolve_left hx)]

/-- Entries left out because they hold what an unlisted one reads as. -/
theorem get_filter_map (g : Nat → Nat) (l : List Nat) (k : Nat) :
    Tab.get 0 ((l.map fun k => (k, g k)).filter fun x => x.2 != 0) k = if k ∈ l then g k else 0 := by
  induction l with
  | nil => rfl
  | cons x l ih =>
    by_cases hx : k = x
    · subst hx
      by_cases hg : g k = 0
      · simp [hg, ih]
      · simp [hg, Tab.get]
    · by_cases hg : g x = 0
      · simp [hg, hx, ih]
      · simp [hg, hx, ih, Tab.get]

/-! ### The parts of a window -/

/-- The peaks show (R67). -/
def Dev.showPeaks (d : Dev) (p : Nat) : Dev :=
  (List.range 24).foldl (fun d k => d.wr F.PCTL_PSENS_PEAK_PS (Tab.get {} (d.pipe p).pace.sens k).peak p k) d

/-- The peaks show, and new ones begin (R67). -/
def Dev.windowPeaks (d : Dev) (p : Nat) : Dev :=
  (d.showPeaks p).updPace p fun a => { a with sens := a.sens.map fun x => (x.1, { x.2 with peak := 0 }) }

/-- The valid claims. -/
def Dev.claimsValid (d : Dev) (p : Nat) : List Nat := (List.range 32).filter fun k => d.claimValid p k

/-- The active claims. -/
def Dev.claimsActive (d : Dev) (p : Nat) : List Nat := (d.claimsValid p).filter fun k => d.claimActive p k

/-- The counts of windows below 0 that are not 0. -/
def Dev.windowNeg (d : Dev) (p : Nat) : Tab Nat := ((d.claimsValid p).map fun k => (k, d.negCount p k)).filter fun x => x.2 != 0

/-- The worse of a claim found and claim `k`. -/
def Dev.worseClaim (d : Dev) (p : Nat) (a : Option (Nat × Int)) (k : Nat) : Option (Nat × Int) :=
  match a with
  | some (j, n) => if d.claimMargin p k < n then some (k, d.claimMargin p k) else some (j, n)
  | none => some (k, d.claimMargin p k)

/-- What a window shows of the worst claim (R72). -/
def Dev.showWorst (d : Dev) (p : Nat) (w : Option (Nat × Int)) : Dev :=
  match w with
  | some (k, m) => ((d.wr F.PCTL_PACE_STAT_NOCLAIM 0 p).wr F.PCTL_PACE_STAT_CLAIM k p).wr F.PCTL_PACE_STAT_MARGIN (satCode 12 m) p
  | none => ((d.wr F.PCTL_PACE_STAT_NOCLAIM 1 p).wr F.PCTL_PACE_STAT_CLAIM 0 p).wr F.PCTL_PACE_STAT_MARGIN 0 p

/-- Every claim has its margin and its count of windows below 0, and the worst shows. -/
def Dev.windowJudged (d : Dev) (p : Nat) : Dev :=
  (d.showWorst p ((d.claimsActive p).foldl (d.worseClaim p) none)).updPace p
    fun a => { a with margins := (d.claimsValid p).map fun k => (k, d.claimMargin p k), neg := d.windowNeg p }

/-- The short claims of a window (R82). -/
def Dev.windowShort (d : Dev) (p : Nat) : List Nat :=
  if (d.windowJudged p).govStepping || !(d.windowJudged p).cannotRise p then []
  else (d.claimsActive p).filter fun k => decide (2 ≤ Tab.get 0 (d.windowNeg p) k)

/-- Each short claim sheds, and what is shed shows. -/
def Dev.windowShed (d : Dev) (p : Nat) : Dev :=
  (((d.windowShort p).foldl (fun d k => d.claimShort p k) (d.windowJudged p)).updPace p
    fun a => { a with short := d.windowShort p, done := a.done.filter fun k => (d.windowShort p).contains k }).showShed p

theorem paceWindow_eq (hp : d.powered p = true) : d.paceWindow p = (d.windowPeaks p).windowShed p := by
  rw [Dev.paceWindow, if_neg (by simp [hp])]
  rfl

/-! ### What a window leaves alone before it sheds -/

/-- From `a` to `d` a window has written no registers but its own and has shed nothing. -/
def WindowSame (p : Nat) (a d : Dev) : Prop :=
  (∀ f q i j, f.reg ∉ [RegId.PCTL_PSENS, .PCTL_PACE_STAT] → d.rd f q i j = a.rd f q i j) ∧ d.hub = a.hub ∧
    (d.pipe p).blk = (a.pipe p).blk ∧ (d.pipe p).pace.rungs = (a.pipe p).pace.rungs ∧ (d.pipe p).pace.lives = (a.pipe p).pace.lives

namespace WindowSame

theorem refl (p : Nat) (d : Dev) : WindowSame p d d := ⟨fun _ _ _ _ _ => rfl, rfl, rfl, rfl, rfl⟩

theorem wr (h : WindowSame p a d) {f : Fld} {v q i j : Nat} (hf : f.reg ∈ [RegId.PCTL_PSENS, .PCTL_PACE_STAT]) :
    WindowSame p a (d.wr f v q i j) := by
  obtain ⟨hr, hrest⟩ := h
  exact ⟨fun g _ _ _ hg => (rd_wr_of_mem hg hf).trans (hr g _ _ _ hg), hrest⟩

theorem updPace (h : WindowSame p a d) {f : Pace → Pace} (hf : ∀ x, (f x).rungs = x.rungs ∧ (f x).lives = x.lives) :
    WindowSame p a (d.updPace p f) := by
  obtain ⟨hr, hh, hb, hu, hl⟩ := h
  obtain ⟨hfu, hfl⟩ := hf (d.pipe p).pace
  refine ⟨hr, hh, ?_, ?_, ?_⟩
  · rw [Dev.updPace, updPipe_pipe_same]
    exact hb
  · rw [updPace_pace]
    exact hfu.trans hu
  · rw [updPace_pace]
    exact hfl.trans hl

section

variable (h : WindowSame p a d)
include h

theorem rd {f : Fld} (hf : f.reg ∉ [RegId.PCTL_PSENS, .PCTL_PACE_STAT]) (q i j : Nat) : d.rd f q i j = a.rd f q i j := h.1 f q i j hf

theorem on {f : Fld} (hf : f.reg ∉ [RegId.PCTL_PSENS, .PCTL_PACE_STAT]) (q i j : Nat) : d.on f q i j = a.on f q i j :=
  on_of_rd (h.rd hf q i j)

theorem bsRd {f : Fld} (hf : f.reg ∉ [RegId.PCTL_PSENS, .PCTL_PACE_STAT]) (c s : Nat) : d.bsRd f p c s = a.bsRd f p c s := by
  obtain ⟨-, -, hb, -⟩ := id h
  rw [Dev.bsRd, Dev.bs, hb, h.rd hf]
  rfl

theorem bsOfRung (r : Nat) : d.bsOfRung p r = a.bsOfRung p r := by
  simp (disch := decide) only [Dev.bsOfRung, Dev.bsOn, Dev.bsRank, Dev.bsObj, h.bsRd]

theorem claimValid (k : Nat) : d.claimValid p k = a.claimValid p k := h.on (by decide) _ _ _

theorem claimsValid : d.claimsValid p = a.claimsValid p := by simp only [Dev.claimsValid, h.claimValid]

theorem claimRungs (k : Nat) : d.claimRungs p k = a.claimRungs p k := by
  rw [Dev.claimRungs, h.rd (by decide), h.rd (by decide), Dev.claimRungs]

theorem claimLives (k : Nat) : d.claimLives p k = a.claimLives p k := by rw [Dev.claimLives, h.rd (by decide), Dev.claimLives]

theorem rungsOpen (k : Nat) : d.rungsOpen p k = a.rungsOpen p k := by
  obtain ⟨-, -, -, hu, -⟩ := id h
  simp only [Dev.rungsOpen, h.claimRungs, h.bsOfRung, Dev.rungShed, hu]

theorem livesOpen (k : Nat) : d.livesOpen p k = a.livesOpen p k := by
  obtain ⟨-, -, -, -, hl⟩ := id h
  simp (disch := decide) only [Dev.livesOpen, h.claimLives, Dev.liveOn, h.on, h.rd, Dev.liveShed, hl]

/-- The claims that are active are what they were (R71). -/
theorem claimActive (k : Nat) : d.claimActive p k = a.claimActive p k := by
  simp (disch := decide) only [Dev.claimActive, h.claimValid, h.claimRungs, h.claimLives, h.rungsOpen, h.livesOpen, h.on]

theorem govStepping : d.govStepping = a.govStepping := by
  obtain ⟨-, hh, -⟩ := h
  rw [Dev.govStepping, hh, Dev.govStepping]

/-- VCORE can rise where it could (R82). -/
theorem cannotRise : d.cannotRise p = a.cannotRise p := by
  obtain ⟨-, hh, -⟩ := id h
  have hlim : d.govLimits = a.govLimits := by
    rw [Dev.govLimits, h.rd (by decide), h.rd (by decide), h.rd (by decide), h.on (by decide)]
    rfl
  simp (disch := decide) only [Dev.cannotRise, Dev.inArun, hlim, h.on, h.rd, hh]

end
end WindowSame

theorem windowPeaks_same (d : Dev) (p : Nat) : WindowSame p d (d.windowPeaks p) :=
  .updPace (foldl_keeps _ (fun _ _ _ h => h.wr (by decide)) (.refl p d)) fun _ => ⟨rfl, rfl⟩

theorem showPeaks_pipes (d : Dev) (p : Nat) : (d.showPeaks p).pipes = d.pipes := by
  unfold Dev.showPeaks
  exact foldl_keeps (P := fun e => e.pipes = d.pipes) (List.range 24) (fun _ _ _ h => (Dev.wr_pipes ..).trans h) rfl

theorem windowPeaks_pace (d : Dev) (p : Nat) : ((d.windowPeaks p).pipe p).pace.neg = (d.pipe p).pace.neg ∧
    ((d.windowPeaks p).pipe p).pace.short = (d.pipe p).pace.short := by
  rw [Dev.windowPeaks, updPace_pace, Dev.pipe, showPeaks_pipes]
  exact ⟨rfl, rfl⟩

/-- The peaks of the window that ends show (R67). -/
theorem showPeaks_peak {n : Nat} (hn : n ∈ List.range 24) :
    (d.showPeaks p).rd F.PCTL_PSENS_PEAK_PS p n = (Tab.get {} (d.pipe p).pace.sens n).peak % 2 ^ 12 := by
  unfold Dev.showPeaks
  refine foldl_turn (P := fun e => e.pipes = d.pipes)
    (Q := fun e => e.rd F.PCTL_PSENS_PEAK_PS p n = (Tab.get {} (d.pipe p).pace.sens n).peak % 2 ^ 12)
    hn List.nodup_range (fun e k _ _ h => ?_) (fun e h => ?_) (fun e k _ hk h => ?_) rfl
  · rw [Dev.wr_pipes]
    exact h
  · rw [Dev.rd_wr, Dev.pipe, h]
    rfl
  · exact (e.rd_wr_i _ _ _ _ _ _ _ _ _ hk.symm).trans h

theorem showWorst_same (h : WindowSame p a d) (w : Option (Nat × Int)) : WindowSame p a (d.showWorst p w) := by
  unfold Dev.showWorst
  split
  all_goals exact ((h.wr (by decide)).wr (by decide)).wr (by decide)

theorem windowJudged_same (d : Dev) (p : Nat) : WindowSame p d (d.windowJudged p) :=
  (showWorst_same (.refl p d) _).updPace fun _ => ⟨rfl, rfl⟩

theorem showWorst_pipe (w : Option (Nat × Int)) (q : Nat) : (d.showWorst p w).pipe q = d.pipe q := by
  unfold Dev.showWorst
  split <;> rfl

theorem windowJudged_pace (d : Dev) (p : Nat) : ((d.windowJudged p).pipe p).pace =
    { (d.pipe p).pace with margins := (d.claimsValid p).map fun k => (k, d.claimMargin p k), neg := d.windowNeg p } := by
  rw [Dev.windowJudged, updPace_pace, showWorst_pipe]

/-- The sensors and claims are as they were before the claims were judged. -/
theorem windowJudged_rd {f : Fld} {q i j : Nat} (hf : f.reg ≠ .PCTL_PACE_STAT) : (d.windowJudged p).rd f q i j = d.rd f q i j := by
  have hs : ∀ w, (d.showWorst p w).rd f q i j = d.rd f q i j := fun w => by
    unfold Dev.showWorst
    split
    all_goals exact (rd_wr_of_reg hf).trans ((rd_wr_of_reg hf).trans (rd_wr_of_reg hf))
  exact hs _

theorem worseClaim_isSome (w : Option (Nat × Int)) (k : Nat) : (d.worseClaim p w k).isSome = true := by
  unfold Dev.worseClaim
  split
  · split_ifs <;> rfl
  · rfl

/-- Among claims there is a worst one. -/
theorem worstClaim_isNone (l : List Nat) : (l.foldl (d.worseClaim p) none).isNone = l.isEmpty := by
  obtain rfl | ⟨l, k, rfl⟩ := List.eq_nil_or_concat l
  · rfl
  · have h : ((l ++ [k]).foldl (d.worseClaim p) none).isSome = true := by
      rw [List.foldl_append]
      exact worseClaim_isSome _ k
    rw [List.concat_eq_append, Option.isNone_eq_false_iff.2 h]
    simp

theorem showWorst_noclaim (w : Option (Nat × Int)) : (d.showWorst p w).on F.PCTL_PACE_STAT_NOCLAIM p = w.isNone := by
  unfold Dev.showWorst
  split
  · exact (on_of_rd ((rd_wr_of_lo (by decide)).trans (rd_wr_of_lo (by decide)))).trans (on_wrb (b := false) rfl)
  · exact (on_of_rd ((rd_wr_of_lo (by decide)).trans (rd_wr_of_lo (by decide)))).trans (on_wrb (b := true) rfl)

theorem claimsActive_isEmpty (d : Dev) (p : Nat) : (d.claimsActive p).isEmpty = !(List.range 32).any (d.claimActive p) := by
  have hv : ∀ k, d.claimActive p k = true → d.claimValid p k = true := fun k h => by
    rw [Dev.claimActive, Bool.and_eq_true] at h
    exact h.1
  rw [Bool.eq_iff_iff]
  simp only [Dev.claimsActive, Dev.claimsValid, List.isEmpty_iff, List.filter_eq_nil_iff, List.mem_filter, List.mem_range, Bool.not_eq_true',
    List.any_eq_false]
  exact ⟨fun h k hk ha => h k ⟨hk, hv k ha⟩ ha, fun h k hk => h k hk.1⟩

theorem windowJudged_noclaim (d : Dev) (p : Nat) :
    (d.windowJudged p).on F.PCTL_PACE_STAT_NOCLAIM p = !(List.range 32).any (d.claimActive p) := by
  rw [← claimsActive_isEmpty, ← worstClaim_isNone (d := d) (p := p)]
  exact showWorst_noclaim _

/-! ### What a window sheds -/

/-- Shedding in a window moves what claims shed, which of them are short and what has been told of them. -/
theorem windowShed_keeps (s : ShedKeeps P) (hpace : ∀ {d : Dev} (f : Pace → Pace), (∀ a, (f a).margins = a.margins) → P d → P (d.updPace p f))
    (h : P (d.windowJudged p)) : P (d.windowShed p) := by
  have hfold : P ((d.windowShort p).foldl (fun d k => d.claimShort p k) (d.windowJudged p)) := by
    refine foldl_keeps _ (fun e k _ h => s.claimShort (fun f hf h => hpace f (fun a => (hf a).1) h) ?_) h
    split_ifs
    · exact h
    · exact s.raise h _ _
  exact s.showShed (hpace (fun a => { a with short := d.windowShort p, done := a.done.filter fun k => (d.windowShort p).contains k })
    (fun _ => rfl) hfold) p

/-- The registers of claims, of sensors and of what has no claim stand through shedding. -/
theorem windowShed_rd {f : Fld} {q i j : Nat} (hf : f.reg ∉ [RegId.EVT_YLOG_TAIL, .PCTL_ARUN_STAT, .QDL_PEER, .BLK_SSTAT])
    (hs : shedField f = false) : (d.windowShed p).rd f q i j = (d.windowJudged p).rd f q i j :=
  windowShed_keeps (shedKeeps_rd hf hs) (fun _ _ h => h) rfl

theorem windowShed_margins (d : Dev) (p : Nat) :
    ((d.windowShed p).pipe p).pace.margins = (d.claimsValid p).map fun k => (k, d.claimMargin p k) := by
  refine windowShed_keeps (shedKeeps_pace (fun x => x.margins = (d.claimsValid p).map fun k => (k, d.claimMargin p k)) p)
    (fun {e} f hf h => ?_) (by rw [windowJudged_pace])
  rw [updPace_pace, hf]
  exact h

theorem windowShed_short (d : Dev) (p : Nat) : ((d.windowShed p).pipe p).pace.short = d.windowShort p :=
  (shedKeeps_pace (fun x => x.short = d.windowShort p) p).showShed (by rw [updPace_pace]) p

/-- Whether a claim is short shows. -/
theorem showShed_short (d : Dev) (p : Nat) : (d.showShed p).on F.PCTL_PACE_STAT_SHORT p = !(d.pipe p).pace.short.isEmpty := by
  have reg : ∀ {g : Fld} {v q : Nat} {d : Dev}, g.reg ≠ .PCTL_PACE_STAT →
      (d.wr g v q).rd F.PCTL_PACE_STAT_SHORT p = d.rd F.PCTL_PACE_STAT_SHORT p := fun hg => rd_wr_of_reg hg.symm
  exact (on_of_rd ((reg (by decide)).trans ((reg (by decide)).trans ((reg (by decide)).trans ((reg (by decide)).trans (reg (by decide))))))).trans
    (on_wrb rfl)

theorem windowShed_shortShows (d : Dev) (p : Nat) : (d.windowShed p).on F.PCTL_PACE_STAT_SHORT p = !(d.windowShort p).isEmpty := by
  rw [Dev.windowShed, showShed_short, updPace_pace]

/-- A window without short claims sheds nothing. -/
theorem windowShed_of_short_nil (h : d.windowShort p = []) : ((d.windowShed p).pipe p).pace.rungs = (d.pipe p).pace.rungs ∧
    ((d.windowShed p).pipe p).pace.lives = (d.pipe p).pace.lives := by
  refine (shedKeeps_pace (fun x => x.rungs = (d.pipe p).pace.rungs ∧ x.lives = (d.pipe p).pace.lives) p).showShed ?_ p
  rw [updPace_pace, h]
  exact (windowJudged_pace d p).symm ▸ ⟨rfl, rfl⟩

/-- A claim that has just become short is told (R82). -/
theorem windowShed_tells (hk : k ∈ d.windowShort p) (hl : (d.windowJudged p).hub.lost = false)
    (hs : k ∉ ((d.windowJudged p).pipe p).pace.short) : pipeEvent p 1 ∈ (d.windowShed p).router.stat := by
  have told : ShedKeeps fun e => pipeEvent p 1 ∈ e.router.stat := shedKeeps_stat _
  have same : ShedKeeps fun e => e.hub.lost = false ∧ (e.pipe p).pace.short = ((d.windowJudged p).pipe p).pace.short := by
    exact shedKeeps_lost.and (shedKeeps_pace (fun x => x.short = ((d.windowJudged p).pipe p).pace.short) p)
  refine told.showShed (foldl_reaches (P := fun e => e.hub.lost = false ∧ (e.pipe p).pace.short = ((d.windowJudged p).pipe p).pace.short)
    (Q := fun e => pipeEvent p 1 ∈ e.router.stat) (f := fun e n => e.claimShort p n) hk
    (fun e n _ h => ?_) (fun e h => ?_) (fun e n _ h => ?_) ⟨hl, rfl⟩) p
  · refine same.claimShort (fun {e} f hf h => ⟨h.1, ?_⟩) ?_
    · rw [updPace_pace, (hf _).2]
      exact h.2
    · split_ifs
      · exact h
      · exact same.raise h _ _
  · obtain ⟨he, hshort⟩ := h
    refine told.claimShort (fun _ _ h => h) ?_
    rw [if_neg (by simpa [hshort] using hs)]
    exact (raise_raised _ _ _ he).1
  · refine told.claimShort (fun _ _ h => h) ?_
    split_ifs
    · exact h
    · exact told.raise h _ _

/-! ### Margins -/

/-- The longest of some peaks. -/
def longest (l : List Nat) : Option Nat := if l.isEmpty then none else some (l.foldl max 0)

theorem peakOf_eq (ks : List Nat) :
    d.peakOf p ks = longest ((ks.filter fun k => d.on F.PCTL_PSENS_VALID p k).map fun k => d.rd F.PCTL_PSENS_PEAK_PS p k) := rfl

theorem peakOf_congr {b : Dev} (h : ∀ f i j, f.reg = .PCTL_PSENS → b.rd f p i j = a.rd f p i j) (ks : List Nat) :
    b.peakOf p ks = a.peakOf p ks := by
  have hl : (ks.filter fun k => b.on F.PCTL_PSENS_VALID p k).map (fun k => b.rd F.PCTL_PSENS_PEAK_PS p k) =
      (ks.filter fun k => a.on F.PCTL_PSENS_VALID p k).map fun k => a.rd F.PCTL_PSENS_PEAK_PS p k := by
    simp (disch := decide) only [Dev.on, h]
  rw [peakOf_eq, hl, ← peakOf_eq]

/-- A margin is of the claim and of the sensors as they show (R72). -/
theorem claimMargin_congr {b : Dev}
    (h : ∀ f i j, f.reg ∈ [RegId.PCTL_PSENS, .PCTL_CLM_CFG, .PCTL_CLM_SENS] → b.rd f p i j = a.rd f p i j) (k : Nat) :
    b.claimMargin p k = a.claimMargin p k := by
  have hp : ∀ ks, b.peakOf p ks = a.peakOf p ks := peakOf_congr fun f i j hf => h f i j (by simp [hf])
  have hremap : b.on F.PCTL_CLM_CFG_REMAP p k = a.on F.PCTL_CLM_CFG_REMAP p k := on_of_rd (h _ _ _ (by decide))
  rw [Dev.claimMargin, hp, hp, h _ _ _ (by decide), h _ _ _ (by decide), hremap]
  rfl

end Sys2Proof.Machine
end

section
/-!
The pace contract: what a window leaves (R67, R71, R72, R82), what the end of a yield leaves (R37, R86), and the commands that answer so.
-/
namespace Sys2Proof.Machine

variable {a d e : Dev} {p k rank : Nat}

/-! ### A window -/

/-- The registers that a claim's margin is of. -/
def marginRegs : List RegId := [.PCTL_PSENS, .PCTL_CLM_CFG, .PCTL_CLM_SENS]

theorem windowShed_rd_of_margin {f : Fld} {q i j : Nat} (hf : f.reg ∈ marginRegs) : (d.windowShed p).rd f q i j = d.rd f q i j := by
  have apart : ∀ r ∈ marginRegs, r ∉ shedRegs := by decide
  have hp : f.reg ≠ .PCTL_PACE_STAT := fun e => apart f.reg hf (e ▸ by decide)
  exact (windowShed_keeps (shedKeeps_rd_of_reg (apart f.reg hf)) (fun _ _ h => h) rfl).trans (windowJudged_rd hp)

theorem windowShed_claimMargin (d : Dev) (p k : Nat) : (d.windowShed p).claimMargin p k = d.claimMargin p k :=
  claimMargin_congr (fun _ _ _ hf => windowShed_rd_of_margin hf) k

theorem mem_claimsValid : k ∈ d.claimsValid p ↔ k < 32 ∧ d.claimValid p k = true := by
  simp [Dev.claimsValid]

theorem mem_claimsActive : k ∈ d.claimsActive p ↔ (k < 32 ∧ d.claimValid p k = true) ∧ d.claimActive p k = true := by
  simp [Dev.claimsActive, mem_claimsValid]

theorem claimValid_of_active (h : d.claimActive p k = true) : d.claimValid p k = true := by
  rw [Dev.claimActive, Bool.and_eq_true] at h
  exact h.1

/-- A claim below 0 in this window and in one before it is short where VCORE cannot rise (R82). -/
theorem mem_windowShort (hg : (d.windowJudged p).govStepping = false) (hr : (d.windowJudged p).cannotRise p = true) (hk : k < 32)
    (ha : d.claimActive p k = true) (hm : d.claimMargin p k < 0) (hn : 1 ≤ Tab.get 0 (d.pipe p).pace.neg k) : k ∈ d.windowShort p := by
  have hv : k < 32 ∧ d.claimValid p k = true := ⟨hk, claimValid_of_active ha⟩
  have hneg : Tab.get 0 (d.windowNeg p) k = Tab.get 0 (d.pipe p).pace.neg k + 1 := by
    rw [Dev.windowNeg, get_filter_map (d.negCount p), if_pos (mem_claimsValid.2 hv), Dev.negCount, if_pos hm]
  rw [Dev.windowShort, if_neg (by simp [hg, hr]), List.mem_filter, hneg]
  exact ⟨mem_claimsActive.2 ⟨hv, ha⟩, by simpa using hn⟩

theorem paceWindow_peak (hp : d.powered p = true) (k : Fin 24) :
    (d.paceWindow p).rd F.PCTL_PSENS_PEAK_PS p k = (Tab.get {} (d.pipe p).pace.sens k).peak % 2 ^ 12 := by
  rw [paceWindow_eq hp, windowShed_rd_of_margin (by decide), Dev.windowPeaks, Dev.updPace, Dev.updPipe_rd]
  exact showPeaks_peak (by simp)

theorem paceWindow_margin (hp : d.powered p = true) (hk : k < 32) (hv : d.claimValid p k = true) :
    Tab.find ((d.paceWindow p).pipe p).pace.margins k = some ((d.paceWindow p).claimMargin p k) := by
  have hmem : k ∈ (d.windowPeaks p).claimsValid p := by
    rw [(windowPeaks_same d p).claimsValid]
    exact mem_claimsValid.2 ⟨hk, hv⟩
  rw [paceWindow_eq hp, windowShed_margins, windowShed_claimMargin, find_map_of_mem ((d.windowPeaks p).claimMargin p) hmem]

theorem paceWindow_noclaim (hp : d.powered p = true) :
    (d.paceWindow p).on F.PCTL_PACE_STAT_NOCLAIM p = !(List.range 32).any (d.claimActive p) := by
  have hactive : (d.windowPeaks p).claimActive p = d.claimActive p := funext (windowPeaks_same d p).claimActive
  rw [paceWindow_eq hp, ← hactive, ← windowJudged_noclaim]
  exact on_of_rd (windowShed_rd (by decide) (by decide))

theorem windowJudged_govStepping (d : Dev) (p : Nat) : ((d.windowPeaks p).windowJudged p).govStepping = d.govStepping :=
  (windowJudged_same _ p).govStepping.trans (windowPeaks_same d p).govStepping

theorem windowJudged_cannotRise (d : Dev) (p : Nat) : ((d.windowPeaks p).windowJudged p).cannotRise p = d.cannotRise p :=
  (windowJudged_same _ p).cannotRise.trans (windowPeaks_same d p).cannotRise

/-- Nothing is short while the voltage moves or can rise (R82). -/
theorem paceWindow_unshed (hp : d.powered p = true) (h : d.govStepping = true ∨ d.cannotRise p = false) :
    ((d.paceWindow p).pipe p).pace.short = [] ∧ (d.paceWindow p).on F.PCTL_PACE_STAT_SHORT p = false ∧
    ((d.paceWindow p).pipe p).pace.rungs = (d.pipe p).pace.rungs ∧ ((d.paceWindow p).pipe p).pace.lives = (d.pipe p).pace.lives := by
  have hshort : (d.windowPeaks p).windowShort p = [] := by
    rw [Dev.windowShort, windowJudged_govStepping, windowJudged_cannotRise]
    exact if_pos (by simpa using h)
  obtain ⟨-, -, -, hrungs, hlives⟩ := windowPeaks_same d p
  obtain ⟨hr, hl⟩ := windowShed_of_short_nil hshort
  rw [paceWindow_eq hp, windowShed_short, windowShed_shortShows, hshort]
  exact ⟨rfl, rfl, hr.trans hrungs, hl.trans hlives⟩

/-- A claim below 0 for two windows is short while VCORE cannot rise, and that is told once (R82). -/
theorem paceWindow_short (hp : d.powered p = true) (hg : d.govStepping = false) (hr : d.cannotRise p = true) (hk : k < 32)
    (ha : d.claimActive p k = true) (hm : (d.paceWindow p).claimMargin p k < 0) (hn : 1 ≤ Tab.get 0 (d.pipe p).pace.neg k) :
    k ∈ ((d.paceWindow p).pipe p).pace.short ∧ (d.paceWindow p).on F.PCTL_PACE_STAT_SHORT p = true ∧
    (d.hub.lost = false → k ∉ (d.pipe p).pace.short → pipeEvent p 1 ∈ (d.paceWindow p).router.stat) := by
  obtain ⟨hneg, hshort⟩ := windowPeaks_pace d p
  rw [paceWindow_eq hp] at hm ⊢
  rw [windowShed_claimMargin] at hm
  have hmem : k ∈ (d.windowPeaks p).windowShort p := mem_windowShort ((windowJudged_govStepping d p).trans hg)
    ((windowJudged_cannotRise d p).trans hr) hk (((windowPeaks_same d p).claimActive k).trans ha) hm (by rw [hneg]; exact hn)
  rw [windowShed_short, windowShed_shortShows]
  refine ⟨hmem, by simpa using List.ne_nil_of_mem hmem, fun hl hnot => windowShed_tells hmem ?_ ?_⟩
  · obtain ⟨-, hpeaks, -⟩ := windowPeaks_same d p
    obtain ⟨-, hjudged, -⟩ := windowJudged_same (d.windowPeaks p) p
    rw [hjudged, hpeaks]
    exact hl
  · rw [windowJudged_pace]
    dsimp only
    rw [hshort]
    exact hnot

/-! ### The end of a yield -/

/-- The registers by which an item shed is judged. -/
def judgeRegs : List RegId := [.HUB_GOV_LOOP, .PCTL_CLM_CFG, .PCTL_CLM_RUNG, .PCTL_CLM_MASK]

/-- What judges the items shed is in `d` as in `a`. -/
def JudgeSame (p : Nat) (a d : Dev) : Prop :=
  (∀ f q i j, f.reg ∈ judgeRegs → d.rd f q i j = a.rd f q i j) ∧ (d.pipe p).pace.margins = (a.pipe p).pace.margins

theorem JudgeSame.shedOver (h : JudgeSame p a d) (rank item k : Nat) : d.shedOver p rank item k = a.shedOver p rank item k := by
  obtain ⟨hr, hm⟩ := h
  have hguards : d.guards = a.guards := by
    rw [Dev.guards, hr _ _ _ _ (by decide), hr _ _ _ _ (by decide)]
    rfl
  have hvalid : ∀ k, d.claimValid p k = a.claimValid p k := fun k => on_of_rd (hr _ _ _ _ (by decide))
  have hrungs : ∀ k, d.claimRungs p k = a.claimRungs p k := fun k => by
    rw [Dev.claimRungs, hr _ _ _ _ (by decide), hr _ _ _ _ (by decide)]
    rfl
  have hlives : ∀ k, d.claimLives p k = a.claimLives p k := fun k => by
    rw [Dev.claimLives, hr _ _ _ _ (by decide)]
    rfl
  rw [Dev.shedOver, hguards, hm]
  simp only [hvalid, hrungs, hlives]
  rfl

theorem unshed_margins (x : Pace) (rank item : Nat) : (x.unshed rank item).margins = x.margins := by
  unfold Pace.unshed
  split_ifs <;> rfl

theorem shedItems_eq : d.shedItems p rank = if rank = 5 then (d.pipe p).pace.kinds else if rank = 3 then (d.pipe p).pace.rungs
    else if rank = 2 then (d.pipe p).pace.lives else [] := by
  unfold Dev.shedItems
  split
  · rfl
  · rfl
  · rfl
  · next h5 h3 h2 => rw [if_neg h5, if_neg h3, if_neg h2]

theorem shedItems_congr (h : (e.pipe p).pace = (d.pipe p).pace) : e.shedItems p rank = d.shedItems p rank := by
  rw [shedItems_eq, h, shedItems_eq]

theorem shedRestore_pace (d : Dev) (p rank item : Nat) : ((d.shedRestore p rank item).pipe p).pace = (d.pipe p).pace.unshed rank item :=
  (shedKeeps_pace (fun x => x = (d.pipe p).pace.unshed rank item) p).shedRestore (updPace_pace ..)

theorem shedRestore_items (d : Dev) (p rank item : Nat) :
    (d.shedRestore p rank item).shedItems p rank = (d.shedItems p rank).filter fun x => x.1 != item := by
  rw [shedItems_eq, shedRestore_pace, shedItems_eq, Pace.unshed]
  split_ifs <;> rfl

theorem shedRestore_judge (h : JudgeSame p a d) (rank item : Nat) : JudgeSame p a (d.shedRestore p rank item) := by
  obtain ⟨hr, hm⟩ := h
  refine ⟨fun f q i j hf => ?_, by rw [shedRestore_pace, unshed_margins, hm]⟩
  have apart : ∀ r ∈ judgeRegs, r ∉ shedRegs := by decide
  exact (shedKeeps_rd_of_reg (apart f.reg hf)).shedRestore (hr f q i j hf)

/-- Each item of a rank whose claims allow it is restored (R86). -/
def Dev.shedRestored (d : Dev) (p rank : Nat) : Dev :=
  (d.shedItems p rank).foldl (fun d x => if d.shedOver p rank x.1 x.2 then d.shedRestore p rank x.1 else d) d

theorem restoreTurn_judge (h : JudgeSame p a d) (rank : Nat) (x : Nat × Nat) :
    JudgeSame p a (if d.shedOver p rank x.1 x.2 then d.shedRestore p rank x.1 else d) := by
  split_ifs
  · exact shedRestore_judge h rank x.1
  · exact h

/-- An item whose claims allow it is shed no more. -/
theorem shedRestored_gone {x : Nat × Nat} (hx : x ∈ d.shedItems p rank) (ho : d.shedOver p rank x.1 x.2 = true) :
    ∀ y ∈ (d.shedRestored p rank).shedItems p rank, y.1 ≠ x.1 := by
  refine foldl_reaches (P := JudgeSame p d) (Q := fun e => ∀ y ∈ e.shedItems p rank, y.1 ≠ x.1) hx
    (fun e z _ h => restoreTurn_judge h rank z) (fun e h => ?_) (fun e z _ h => ?_) ⟨fun _ _ _ _ _ => rfl, rfl⟩
  · rw [if_pos ((h.shedOver rank x.1 x.2).trans ho), shedRestore_items]
    simp
  · split_ifs
    · rw [shedRestore_items]
      exact fun y hy => h y (List.mem_of_mem_filter hy)
    · exact h

/-- An item stays shed where the claims of none of its entries allow it. -/
theorem shedRestored_stays {x : Nat × Nat} (hx : x ∈ d.shedItems p rank)
    (ho : ∀ y ∈ d.shedItems p rank, y.1 = x.1 → d.shedOver p rank y.1 y.2 = false) : x ∈ (d.shedRestored p rank).shedItems p rank := by
  refine (foldl_keeps (P := fun e => JudgeSame p d e ∧ x ∈ e.shedItems p rank) _ (fun e z hz h => ?_)
    (⟨⟨fun _ _ _ _ _ => rfl, rfl⟩, hx⟩ : JudgeSame p d d ∧ x ∈ d.shedItems p rank)).2
  obtain ⟨hj, hm⟩ := h
  refine ⟨restoreTurn_judge hj rank z, ?_⟩
  split_ifs with hover
  · rw [hj.shedOver] at hover
    rw [shedRestore_items, List.mem_filter]
    exact ⟨hm, by simpa using fun he : x.1 = z.1 => by simp [ho z hz he.symm] at hover⟩
  · exact hm

/-- Where a higher rank still yields nothing ends (R37). -/
theorem yieldRestore_higher {u res : Nat} (h : (d.yielding fun y => y.origin == u && y.res == res && decide (y.yrank < rank)) = true) :
    d.yieldRestore u res rank = d := by rw [Dev.yieldRestore, if_pos h]

/-- The yields of a resource other than a pipe's pace end, but for those that a hot channel holds and those that the record buffer does. -/
theorem yieldRestore_yields {u res : Nat} (h : (d.yielding fun y => y.origin == u && y.res == res && decide (y.yrank < rank)) = false)
    (hpace : res ≠ 2 ∨ u = 4) (hlevel : res ≠ 0 ∨ rank < 3) {y : Yield} (hy : y ∈ (d.yieldRestore u res rank).router.yields)
    (hu : y.origin = u) (hr : y.res = res) (hk : y.yrank = rank) : y.cause = 3 ∧ d.on F.DRC_HOT_STAT_HOLD u = true := by
  rw [Dev.yieldRestore, if_neg (by simp [h]), if_neg (by omega), yieldEnd_yields, List.mem_filter] at hy
  obtain ⟨-, hkept⟩ := hy
  simp only [hu, hr, hk, beq_self_eq_true, Bool.true_and] at hkept
  by_cases h0 : res = 0
  · have h3 : ¬3 ≤ rank := by omega
    simpa [h0, h3] using hkept
  · simpa [h0] using hkept

/-- The pace yields of a pipe end where its claims allow (R86). -/
theorem yieldRestore_items {u : Nat} (hu : u < 4) (h : (d.yielding fun y => y.origin == u && y.res == 2 && decide (y.yrank < rank)) = false) :
    (d.yieldRestore u 2 rank).shedItems u rank = (d.shedRestored u rank).shedItems u rank := by
  rw [Dev.yieldRestore, if_neg (by simp [h]), if_pos ⟨rfl, hu⟩]
  exact shedItems_congr ((shedKeeps_pace (fun x => x = ((d.shedRestored u rank).pipe u).pace) u).yieldEnd rfl)

/-- Of what a pipe has shed, that which its claims allow is restored and no more (R86). -/
theorem yieldRestore_sheds {u : Nat} (hu : u < 4) (h : (d.yielding fun y => y.origin == u && y.res == 2 && decide (y.yrank < rank)) = false)
    {x : Nat × Nat} (hx : x ∈ d.shedItems u rank) :
    (d.shedOver u rank x.1 x.2 = true → ∀ y ∈ (d.yieldRestore u 2 rank).shedItems u rank, y.1 ≠ x.1) ∧
    ((∀ y ∈ d.shedItems u rank, y.1 = x.1 → d.shedOver u rank y.1 y.2 = false) → x ∈ (d.yieldRestore u 2 rank).shedItems u rank) := by
  rw [yieldRestore_items hu h]
  exact ⟨shedRestored_gone hx, shedRestored_stays hx⟩

/-! ### The commands -/

@[simp] theorem settle_vc {v : Nat} : (settle d).vc p v = d.vc p v := rfl
@[simp] theorem settle_cnt {c : Cnt} {i j : Nat} : (settle d).cnt c p i j = d.cnt c p i j := rfl
@[simp] theorem settle_fieldWord {l : RegLoc} : (settle d).fieldWord l = d.fieldWord l := rfl
@[simp] theorem settle_raised {n syn : Nat} : Raised (settle d) n syn = Raised d n syn := rfl
@[simp] theorem settle_claimMargin : (settle d).claimMargin p k = d.claimMargin p k := rfl
@[simp] theorem settle_shedItems : (settle d).shedItems p rank = d.shedItems p rank := rfl

/-- Settles O50: readings, windows, restored yields and stalls have the effects above; where a pipe is not powered, a higher rank yields, or
the record path is not in question, the state is as it was. -/
theorem paceContract : Obligations.PaceContract := by
  unfold Obligations.PaceContract
  intro s p ha
  refine ⟨fun k ps h => exec_of_run ha rfl (if_pos (by simp [h])), fun k ps h => ?_, fun h => exec_of_run ha rfl (if_pos (by simp [h])),
    fun h => ?_, fun u res rank => ⟨fun h => exec_of_run ha rfl (yieldRestore_higher h), fun h hp hl => ?_, fun h => ?_⟩,
    fun stage inst h => exec_of_run ha rfl (if_pos (by simpa [or_assoc] using h)), fun stage inst latch hr hl hs hlatch hn => ?_,
    fun h => exec_of_run ha rfl (if_pos (by simpa using h)), fun hs hl => does_of_run ha rfl ?_,
    fun h => exec_of_run ha rfl (if_pos (by simp [h])), fun h => does_of_run ha rfl ?_⟩
  · refine does_of_run ha rfl ?_
    simp only [settle_rd, settle_pipe, settle_on, settle_raised]
    obtain ⟨hshow, hlast, hpeak⟩ := paceReading_shows (k := k) h ps.isLt
    exact ⟨hshow, hlast, hpeak, paceReading_judges h⟩
  · refine does_of_run ha rfl ?_
    simp only [settle_rd, settle_pipe, settle_on, settle_claimMargin, settle_stat]
    exact ⟨paceWindow_peak h, fun k => paceWindow_margin h k.isLt, paceWindow_noclaim h, paceWindow_unshed h,
      fun k hg hr hk hm hn => paceWindow_short h hg hr k.isLt hk hm hn⟩
  · refine does_of_run ha rfl fun y hy => yieldRestore_yields h ?_ ?_ hy
    · exact hp.imp (fun h e => h (Fin.ext e)) (congrArg Fin.val)
    · exact hl.imp (fun h e => h (Fin.ext e)) id
  · refine does_of_run ha rfl fun x hx => ?_
    simp only [settle_shedItems]
    exact yieldRestore_sheds p.isLt h hx
  · refine does_of_run ha rfl ?_
    simp only [settle_rd, settle_pipe, settle_on, settle_stat, settle_cnt, settle_vc, settle_fieldWord, settle_raised]
    obtain ⟨⟨hvalid, hlat, hstage, hinst⟩, ⟨hstop, hlatched⟩, hcnt, htold, hfeed⟩ :=
      recStall_effect stage.isLt inst.isLt hr hl hs hlatch hn
    exact ⟨hvalid, hlat, hstage, hinst, hstop, hlatched, hcnt, htold, fun h v => ⟨(hfeed h).1 v, (hfeed h).2⟩⟩
  · simp only [settle_pipe]
    exact recFlush_effect hs hl
  · simp only [settle_pipe, settle_vc, settle_raised]
    exact recRestart_effect h

end Sys2Proof.Machine
end
section
/-!
The reset of a pipe whose gate has tripped (R14, R54, R91): the densities that software requests of the pipe outlive it.
-/
namespace Sys2Proof.Machine

/-- A command has one answer: what `Does` says holds of the device that the command is known to leave. -/
theorem Does.of_exec {c : Instr} {s : State} {d : Dev} {q : Dev → Prop} (h : Does c s q) (he : exec c s = .next (s.after d)) :
    q (settle d) := by
  obtain ⟨e, hx, hq⟩ := h
  injection hx.symm.trans he with hs
  have hd : settle e = settle d := congrArg State.dev hs
  exact hd ▸ hq

/-- The gate of pipe 3 has tripped, and its `PCTL_PAUSE_MAN` requests a staging density of 5. -/
def trippedPaused : State :=
  { dev := (({} : Dev).wr F.PCTL_STAT_STATE 5 3).wr F.PCTL_PAUSE_MAN_STAGING 5 3 }

theorem trippedPaused_prst : (trippedPaused.dev.pctlPrst 3).rd F.PCTL_PAUSE_EFF_STAGING 3 = 5 := by decide

/-- Refutes O8: `PCTL_PAUSE_MAN` is of the warm domain and outlives the restore of a tripped pipe (R14), so `PCTL_PAUSE_EFF`, of the pipe
domain, then shows the density requested (R81) and not its reset value. From `trippedPaused`, `PRST` of pipe 3 leaves
`PCTL_PAUSE_EFF.STAGING` at 5. -/
theorem not_pipePower : ¬ Obligations.PipePower := by
  unfold Obligations.PipePower
  intro h
  obtain ⟨-, -, -, hrestore, -⟩ := h
  obtain ⟨-, hunlatched⟩ := hrestore trippedPaused 3 rfl (by decide) (by decide)
  have he : exec (.pctlPrst 3) trippedPaused = .next (trippedPaused.after (trippedPaused.dev.pctlPrst 3)) :=
    exec_of_run rfl rfl (if_pos (by decide))
  obtain ⟨-, hclear⟩ := (hunlatched (by decide)).of_exec he
  have hreset := hclear F.PCTL_PAUSE_EFF_STAGING 0 0 (by decide) rfl rfl (by decide)
  exact absurd (trippedPaused_prst.symm.trans hreset) (by decide)

end Sys2Proof.Machine
end
section
/-!
What the governor's own parts are left as (R73 to R76): by the changes of its record, and by a self-test that the voltage ends (R670).
-/
namespace Sys2Proof.Machine

variable {s : State} {a b d : Dev}

/-! ### Commands of a live Hub -/

theorem does_of_runHub {c : Instr} {f : Dev → Dev} {q : Dev → Prop} (ha : s.awake) (hl : s.dev.hub.lost = false)
    (e : exec c s = runHub s f) (hq : q (settle (f s.dev))) : Does c s q := ⟨f s.dev, by rw [e, runHub_live ha hl], hq⟩

/-- A lost Hub, and one that a command finds nothing to do in, stay as they are. -/
theorem exec_of_runHub {c : Instr} {f : Dev → Dev} (ha : s.awake) (e : exec c s = runHub s f) (h : s.dev.hub.lost = true ∨ f s.dev = s.dev) :
    exec c s = .next (s.after s.dev) := by
  refine exec_of_run ha e ?_
  split_ifs with hl
  · rfl
  · exact h.resolve_left hl

@[simp] theorem settle_govState : (settle d).govState = d.govState := rfl

/-! ### Changes of the governor's record -/

section

variable (d : Dev) (f : Gov → Gov)

@[simp] theorem updGov_rd (g : Fld) (p i j : Nat) : (d.updGov f).rd g p i j = d.rd g p i j := rfl
@[simp] theorem updGov_on (g : Fld) (p i j : Nat) : (d.updGov f).on g p i j = d.on g p i j := rfl
@[simp] theorem updGov_govState : (d.updGov f).govState = d.govState := rfl

/-- The record is the one asked for, but for the bytes on the bus and their speed (R73). -/
theorem updGov_gov : (d.updGov f).hub.gov =
    { f d.hub.gov with bus := (d.updGov f).hub.gov.bus, fast := (d.updGov f).hub.gov.fast } := by
  simp only [Dev.updGov, Dev.updHub_hub]
  split_ifs <;> rfl

@[simp] theorem updGov_op : (d.updGov f).hub.gov.op = (f d.hub.gov).op := by rw [updGov_gov]
@[simp] theorem updGov_tries : (d.updGov f).hub.gov.tries = (f d.hub.gov).tries := by rw [updGov_gov]
@[simp] theorem updGov_settling : (d.updGov f).hub.gov.settling = (f d.hub.gov).settling := by rw [updGov_gov]
@[simp] theorem updGov_exponent : (d.updGov f).hub.gov.exponent = (f d.hub.gov).exponent := by rw [updGov_gov]
@[simp] theorem updGov_vcmd : (d.updGov f).hub.gov.vcmd = (f d.hub.gov).vcmd := by rw [updGov_gov]
@[simp] theorem updGov_target : (d.updGov f).hub.gov.target = (f d.hub.gov).target := by rw [updGov_gov]
@[simp] theorem updGov_entry : (d.updGov f).hub.gov.entry = (f d.hub.gov).entry := by rw [updGov_gov]
@[simp] theorem updGov_alert : (d.updGov f).hub.gov.alert = (f d.hub.gov).alert := by rw [updGov_gov]
@[simp] theorem updGov_lastChange : (d.updGov f).hub.gov.lastChange = (f d.hub.gov).lastChange := by rw [updGov_gov]

variable {d f}

/-- Where no transaction starts or is repeated nothing goes out on the bus. -/
theorem updGov_quiet (ho : (f d.hub.gov).op = d.hub.gov.op) (ht : (f d.hub.gov).tries = d.hub.gov.tries)
    (hc : (f d.hub.gov).code = d.hub.gov.code) : (d.updGov f).hub.gov = f d.hub.gov := by
  simp only [Dev.updGov, Dev.updHub_hub, if_pos (And.intro ho (And.intro ht hc))]

/-- A repeated transaction goes out at the speed that the register asks for. -/
theorem updGov_fast (ht : (f d.hub.gov).tries ≠ d.hub.gov.tries) : (d.updGov f).hub.gov.fast = d.on F.HUB_GOV_PMB_SPEED := by
  simp only [Dev.updGov, Dev.updHub_hub]
  rw [if_neg fun h => ht h.2.1]

end

@[simp] theorem raise_gov (d : Dev) (e syn : Nat) : (d.raise e syn).hub.gov = d.hub.gov := by
  obtain ⟨m, hm⟩ := raise_hub d e syn
  rw [hm]

/-! ### The governor's registers, its record and its fault -/

/-- The registers of the Hub's control block and the governor's record are in `d` as in `a`, and a GOV_FAULT of `a` stands in `d`. -/
def GovSame (a d : Dev) : Prop :=
  (∀ f p i j, f.reg.info.blk = .HUB_CTL → d.rd f p i j = a.rd f p i j) ∧ d.hub.gov = a.hub.gov ∧
    ∀ syn, Raised a 515 syn → Raised d 515 syn

namespace GovSame

theorem refl (d : Dev) : GovSame d d := ⟨fun _ _ _ _ _ => rfl, rfl, fun _ h => h⟩

/-- A change of other parts. -/
theorem of_parts (h : GovSame a d) (hr : b.regs = d.regs) (hg : b.hub.gov = d.hub.gov) (ho : b.router = d.router) : GovSame a b := by
  obtain ⟨kr, kg, ks⟩ := h
  refine ⟨fun f p i j hf => ?_, hg.trans kg, fun syn hs => ?_⟩
  · rw [← kr f p i j hf, Dev.rd, Dev.rd, hr]
  · rw [Raised, ho]
    exact ks syn hs

theorem updHub (h : GovSame a d) (f : HubSt → HubSt) (hf : (f d.hub).gov = d.hub.gov) : GovSame a (d.updHub f) :=
  h.of_parts rfl hf rfl

theorem updPipe (h : GovSame a d) (p : Nat) (f : PipeSt → PipeSt) : GovSame a (d.updPipe p f) :=
  h.of_parts rfl rfl rfl

theorem wr (h : GovSame a d) {g : Fld} {v p i j : Nat} (hg : g.reg.info.blk ≠ .HUB_CTL) : GovSame a (d.wr g v p i j) := by
  obtain ⟨kr, kg, ks⟩ := h
  exact ⟨fun f _ _ _ hf => (rd_wr_of_reg fun e => hg (e ▸ hf)).trans (kr f _ _ _ hf), kg, ks⟩

theorem dropRegs (h : GovSame a d) {q : FKey → Bool} (hq : ∀ k, k.reg.info.blk = .HUB_CTL → q k = false) : GovSame a (d.dropRegs q) := by
  obtain ⟨kr, kg, ks⟩ := h
  exact ⟨fun f p i j hf => (FStore.get_filter_keep _ (hq (f.key p i j) hf)).trans (kr f p i j hf), kg, ks⟩

theorem raise (h : GovSame a d) {e syn : Nat} (he : 515 ≠ e) : GovSame a (d.raise e syn) := by
  obtain ⟨kr, kg, ks⟩ := h
  refine ⟨fun f p i j hf => ?_, (raise_gov d e syn).trans kg, fun n hn => ?_⟩
  · rw [raise_rd _ _ _ _ _ _ _ fun e => absurd (e ▸ hf) (by decide), kr f p i j hf]
  · obtain ⟨hstat, hsyn⟩ := ks n hn
    refine ⟨raise_stat_mono syn hstat, ?_⟩
    cases hl : d.hub.lost with
    | true => rwa [Dev.raise, if_pos hl]
    | false => rw [raise_syn d e syn hl, Tab.get_set_other _ _ _ he, hsyn]

theorem ite (p : Prop) [Decidable p] {c : Dev} (h : GovSame a b) (k : GovSame a c) : GovSame a (if p then b else c) := by
  split_ifs
  · exact h
  · exact k

/-! ### A self-test that ends -/

theorem bistReinit (h : GovSame a d) (cls p idx : Nat) : GovSame a (d.bistReinit cls p idx) := by
  unfold Dev.bistReinit
  split
  case h_1 => exact h.of_parts rfl rfl rfl
  case h_9 => exact h
  case h_8 => split <;> exact (h.dropRegs fun k hk => by simp [FKey.inBlock, hk]).updHub _ rfl
  all_goals exact (h.dropRegs fun k hk => by simp [FKey.inBlock, hk]).updPipe _ _

theorem bistSecure (h : GovSame a d) : GovSame a d.bistSecure := by
  have secu : ∀ r ∈ [RegId.SECU_CMD, .SECU_RES, .SECU_ADDR_LO, .SECU_ADDR_HI, .SECU_ALARM], r.info.blk ≠ .HUB_CTL := by decide
  have hdrop := h.dropRegs (q := fun k => [RegId.SECU_CMD, .SECU_RES, .SECU_ADDR_LO, .SECU_ADDR_HI, .SECU_ALARM].contains k.reg)
    fun k hk => Bool.eq_false_iff.2 fun hc => secu k.reg (List.contains_iff_mem.1 hc) hk
  refine foldl_keeps _ (fun e k _ h => ?_) ((hdrop.wr (by decide)).updHub _ rfl)
  exact (h.of_parts (b := e.drbg.2) rfl rfl rfl).wr (by decide)

theorem bistLog (h : GovSame a d) (res cls p idx : Nat) : GovSame a (d.bistLog res cls p idx) := by
  unfold Dev.bistLog
  extract_lets fs d₁
  have hfs : ∀ f ∈ fs, f.reg.info.blk ≠ .HUB_CTL := by decide
  have h₁ : GovSame a d₁ := foldl_keeps _ (fun _ n _ h => foldl_keeps _ (fun _ f hf h => h.wr (hfs f hf)) h) h
  exact h₁.wr (by decide) |>.wr (by decide) |>.wr (by decide) |>.wr (by decide) |>.wr (by decide)

theorem bistEnd (h : GovSame a d) (res : Nat) : GovSame a (d.bistEnd res) := by
  unfold Dev.bistEnd
  extract_lets cls p idx iso d₁ d₂ d₃ d₄ d₅ syn d₆
  have h₁ : GovSame a d₁ := .ite _ (h.bistReinit cls p idx) h
  have h₂ : GovSame a d₂ := .ite _ h₁.bistSecure h₁
  have h₃ : GovSame a d₃ :=
    h₂.wr (by decide) |>.wr (by decide) |>.wr (by decide) |>.wr (by decide)
  have h₄ : GovSame a d₄ := .ite _ (h₃.wr (by decide) |>.wr (by decide)) h₃
  have h₆ : GovSame a d₆ := (h₄.bistLog res cls p idx).raise (by decide)
  exact .ite _ h (.ite _ (h₆.raise (by decide)) h₆)

/-- The checks that last through a self-test leave the governor as it is (R670). -/
theorem bistWatch (h : GovSame a d) : GovSame a d.bistWatch :=
  .ite _ (.ite _ (h.bistEnd 5) (.ite _ (h.bistEnd 6) h)) h

end GovSame

@[simp] theorem bistWatch_gov (d : Dev) : d.bistWatch.hub.gov = d.hub.gov := (GovSame.refl d).bistWatch.2.1

theorem bistWatch_rd {f : Fld} {p i j : Nat} (hf : f.reg.info.blk = .HUB_CTL) : d.bistWatch.rd f p i j = d.rd f p i j :=
  (GovSame.refl d).bistWatch.1 f p i j hf

@[simp] theorem bistWatch_govState (d : Dev) : d.bistWatch.govState = d.govState := bistWatch_rd rfl

end Sys2Proof.Machine
end

section
/-!
The pace governor (R73 to R76): its mode, its transactions and their failures, an alert, and the decision at the end of a window.
-/
namespace Sys2Proof.Machine

variable {s : State} {d : Dev}

/-! ### A free bus -/

theorem govNext_busy (h : d.hub.gov.op ≠ .none ∨ d.hub.gov.settling = true) : d.govNext = d := if_pos h

theorem govNext_entry (ho : d.hub.gov.op = .none) (hs : d.hub.gov.settling = false) (he : d.hub.gov.entry = true) :
    d.govNext = (d.wr F.HUB_GOV_STAT_STATE 1).updGov fun g =>
      { g with entry := false, op := if d.on F.HUB_GOV_PMB_PAGE_EN then .page else .voutMode, tries := 0 } := by
  simp [Dev.govNext, ho, hs, he]

theorem govNext_alert (ho : d.hub.gov.op = .none) (hs : d.hub.gov.settling = false) (he : d.hub.gov.entry = false)
    (ha : d.hub.gov.alert = true) (hst : d.govState = 2 ∨ d.govState = 4 ∨ d.govState = 5) :
    d.govNext = d.updGov fun g => { g with alert := false, op := .alertStatus, tries := 0 } := by
  simp [Dev.govNext, ho, hs, he, ha, hst]

/-- Outside MANUAL nothing starts of itself. -/
theorem govNext_idle (he : d.hub.gov.entry = false) (ha : d.hub.gov.alert = false) (hst : d.govState ≠ 5) : d.govNext = d := by
  simp [Dev.govNext, he, ha, hst]

/-- What starts next, said once: nothing on a bus that is not free; the entry sequence where it waits; otherwise the read after an alert, in
MANUAL the write of a changed target, or nothing. -/
theorem govNext_cases (d : Dev) :
    (d.hub.gov.op ≠ .none ∨ d.hub.gov.settling = true) ∧ d.govNext = d ∨
    (d.hub.gov.op = .none ∧ d.hub.gov.settling = false ∧ d.hub.gov.entry = true) ∧
      (d.govNext = (d.wr F.HUB_GOV_STAT_STATE 1).updGov fun g =>
        { g with entry := false, op := if d.on F.HUB_GOV_PMB_PAGE_EN then .page else .voutMode, tries := 0 }) ∨
    d.hub.gov.entry = false ∧ (d.govNext = d ∨ (d.govNext = d.updGov fun g => { g with alert := false, op := .alertStatus, tries := 0 }) ∨
      d.govState = 5 ∧ ∃ mv, d.govNext = d.govWrite mv) := by
  by_cases hbusy : d.hub.gov.op ≠ .none ∨ d.hub.gov.settling = true
  · exact .inl ⟨hbusy, govNext_busy hbusy⟩
  obtain ⟨ho, hs⟩ : d.hub.gov.op = .none ∧ d.hub.gov.settling = false := by simpa using hbusy
  by_cases he : d.hub.gov.entry = true
  · exact .inr (.inl ⟨⟨ho, hs, he⟩, govNext_entry ho hs he⟩)
  refine .inr (.inr ⟨by simpa using he, ?_⟩)
  unfold Dev.govNext
  dsimp only
  rw [if_neg hbusy, if_neg he]
  split_ifs with halert hmanual
  · exact .inr (.inl rfl)
  · exact .inl rfl
  · exact .inr (.inr ⟨hmanual, _, rfl⟩)
  · exact .inl rfl

theorem govWrite_auto (h : d.rd F.HUB_GOV_CTL_MODE = 1) (mv : Nat) : d.govWrite mv = (d.wr F.HUB_GOV_STAT_STATE 3).updGov fun g =>
    { g with op := .voutCommand, tries := 0, target := mv, code := linearCode g.exponent mv } := by
  rw [Dev.govWrite, if_pos h]

/-- A voltage write shows SETTLE in AUTO and starts its transaction. -/
theorem govWrite_form (d : Dev) (mv : Nat) : ∃ e, (e = d ∨ e = d.wr F.HUB_GOV_STAT_STATE 3) ∧
    d.govWrite mv = e.updGov fun g => { g with op := .voutCommand, tries := 0, target := mv, code := linearCode g.exponent mv } := by
  by_cases h : d.rd F.HUB_GOV_CTL_MODE = 1
  · exact ⟨_, .inr rfl, govWrite_auto h mv⟩
  · exact ⟨_, .inl rfl, by rw [Dev.govWrite, if_neg h]⟩

theorem rd_wr_state {f : Fld} {v p i j : Nat} (hf : f.reg ≠ .HUB_GOV_STAT ∨ f.lo ≠ F.HUB_GOV_STAT_STATE.lo) :
    (d.wr F.HUB_GOV_STAT_STATE v).rd f p i j = d.rd f p i j := hf.elim (fun h => rd_wr_of_reg h) fun h => rd_wr_of_lo h

theorem govWrite_rd {f : Fld} {p i j : Nat} (mv : Nat) (hf : f.reg ≠ .HUB_GOV_STAT ∨ f.lo ≠ F.HUB_GOV_STAT_STATE.lo) :
    (d.govWrite mv).rd f p i j = d.rd f p i j := by
  obtain ⟨e, rfl | rfl, h⟩ := govWrite_form d mv
  · rw [h, updGov_rd]
  · rw [h, updGov_rd, rd_wr_state hf]

/-- What starts next writes no field but `STATE`, and leaves the command value. -/
theorem govNext_same (d : Dev) : (∀ f p i j, f.reg ≠ .HUB_GOV_STAT ∨ f.lo ≠ F.HUB_GOV_STAT_STATE.lo → d.govNext.rd f p i j = d.rd f p i j) ∧
    d.govNext.hub.gov.vcmd = d.hub.gov.vcmd := by
  rcases govNext_cases d with ⟨-, h⟩ | ⟨-, h⟩ | ⟨-, h | h | ⟨-, mv, h⟩⟩
  · rw [h]
    exact ⟨fun _ _ _ _ _ => rfl, rfl⟩
  · rw [h]
    exact ⟨fun _ _ _ _ hf => (updGov_rd ..).trans (rd_wr_state hf), updGov_vcmd ..⟩
  · rw [h]
    exact ⟨fun _ _ _ _ _ => rfl, rfl⟩
  · rw [h]
    exact ⟨fun _ _ _ _ _ => rfl, updGov_vcmd ..⟩
  · rw [h]
    refine ⟨fun _ _ _ _ hf => govWrite_rd mv hf, ?_⟩
    obtain ⟨e, rfl | rfl, hw⟩ := govWrite_form d mv <;> rw [hw] <;> exact updGov_vcmd ..

theorem govNext_rd {f : Fld} {p i j : Nat} (hf : f.reg ≠ .HUB_GOV_STAT ∨ f.lo ≠ F.HUB_GOV_STAT_STATE.lo) :
    d.govNext.rd f p i j = d.rd f p i j := (govNext_same d).1 f p i j hf

/-- Outside MANUAL what starts next shows INIT where it is the entry sequence; otherwise the state stays. -/
theorem govNext_govState (hst : d.govState ≠ 5) : d.govNext.govState =
    if d.hub.gov.op = .none ∧ d.hub.gov.settling = false ∧ d.hub.gov.entry = true then 1 else d.govState := by
  rcases govNext_cases d with ⟨hbusy, h⟩ | ⟨hentry, h⟩ | ⟨he, h | h | ⟨h5, -⟩⟩
  · rw [h, if_neg fun hf => by simp [hf.1, hf.2.1] at hbusy]
  · rw [h, if_pos hentry, updGov_govState]
    exact rd_wr_of_lt (f := F.HUB_GOV_STAT_STATE) (by decide)
  · rw [h, if_neg (by simp [he])]
  · rw [h, if_neg (by simp [he]), updGov_govState]
  · exact absurd h5 hst

/-- The bus is free in AUTO: the governor tracks, unless the entry sequence waits (R73). -/
theorem govIdle_auto (hm : d.rd F.HUB_GOV_CTL_MODE = 1) :
    d.govIdle.govState = (if d.hub.gov.entry && !d.hub.gov.settling then 1 else 2) ∧ d.govIdle.hub.gov.vcmd = d.hub.gov.vcmd ∧
    (d.hub.gov.entry = false → d.hub.gov.alert = false → d.govIdle.hub.gov.op = .none) := by
  unfold Dev.govIdle
  simp only [hm]
  have htrack : (d.wr F.HUB_GOV_STAT_STATE 2).govState = 2 := rd_wr_of_lt (f := F.HUB_GOV_STAT_STATE) (by decide)
  refine ⟨?_, ?_, fun he ha => ?_⟩
  · rw [govNext_govState (by simp [htrack])]
    simp [htrack, and_comm]
  · simp [(govNext_same _).2]
  · rw [govNext_idle (by simpa using he) (by simpa using ha) (by simp [htrack])]
    simp

/-! ### A mode written -/

/-- The device as a new mode leaves it, before the mode is entered: the step in progress is cut (R76). -/
def Dev.govCut (d : Dev) (mode vman : Nat) : Dev :=
  let d := (d.wr F.HUB_GOV_CTL_MODE mode).wr F.HUB_GOV_CTL_VMAN vman
  let busy := decide (d.hub.gov.op ≠ .none) && !d.hub.gov.waiting
  let d := d.updGov fun g =>
    { g with settling := false, waiting := false, tries := 0, cut := busy, op := if busy then g.op else .none, entry := false }
  (if mode = 1 then d else d.wr F.HUB_GOV_STAT_AT_VMAX 0).wr F.HUB_GOV_STAT_FCAUSE 0

/-- The registers but `HUB_GOV_CTL` and `HUB_GOV_STAT` stay; nothing settles, no entry sequence waits, and the bus is free where it was. -/
theorem govCut_parts (d : Dev) (mode vman : Nat) : (d.govCut mode vman).hub.gov.settling = false ∧ (d.govCut mode vman).hub.gov.entry = false ∧
    (d.hub.gov.op = .none → (d.govCut mode vman).hub.gov.op = .none) ∧
    ∀ f p i j, f.reg ≠ .HUB_GOV_CTL → f.reg ≠ .HUB_GOV_STAT → (d.govCut mode vman).rd f p i j = d.rd f p i j := by
  have ctl : ∀ {f g : Fld} {v p i j : Nat} {d : Dev}, f.reg ≠ g.reg → (d.wr g v).rd f p i j = d.rd f p i j := rd_wr_of_reg
  unfold Dev.govCut
  extract_lets d₁ busy d₂
  have h₂ : ∀ f p i j, f.reg ≠ .HUB_GOV_CTL → d₂.rd f p i j = d.rd f p i j := fun f p i j hc => (ctl hc).trans (ctl hc)
  have hs : d₂.hub.gov.settling = false := updGov_settling ..
  have he : d₂.hub.gov.entry = false := updGov_entry ..
  have ho : d.hub.gov.op = .none → d₂.hub.gov.op = .none := fun h => (updGov_op ..).trans (by simp [busy, d₁, h])
  split_ifs
  · exact ⟨hs, he, ho, fun f p i j hc hstat => (ctl hstat).trans (h₂ f p i j hc)⟩
  · exact ⟨hs, he, ho, fun f p i j hc hstat => (ctl hstat).trans ((ctl hstat).trans (h₂ f p i j hc))⟩

theorem govMode_off {vman : Nat} (h : d.rd F.HUB_GOV_CTL_MODE ≠ 0 ∨ d.govState = 6) :
    d.govMode 0 vman = ((d.govCut 0 vman).wr F.HUB_GOV_STAT_STATE 0).updGov fun g => { g with alert := false } := by
  have hnew : ¬(d.rd F.HUB_GOV_CTL_MODE = 0 ∧ (!(d.govState == 6)) = true) := by simpa using Classical.or_iff_not_imp_left.1 h
  unfold Dev.govMode Dev.govCut
  dsimp only
  rw [if_neg hnew]
  simp

theorem govMode_hold {vman : Nat} (h : d.rd F.HUB_GOV_CTL_MODE ≠ 2 ∨ d.govState = 6) :
    d.govMode 2 vman = ((d.govCut 2 vman).wr F.HUB_GOV_STAT_STATE 4).govNext := by
  have hnew : ¬(d.rd F.HUB_GOV_CTL_MODE = 2 ∧ (!(d.govState == 6)) = true) := by simpa using Classical.or_iff_not_imp_left.1 h
  unfold Dev.govMode Dev.govCut
  dsimp only
  rw [if_neg hnew]
  simp

/-- AUTO and MANUAL entered from OFF or HOLD begin with the entry sequence (R73). -/
theorem govMode_enter {mode vman : Nat} (hm : mode = 1 ∨ mode = 3) (h : d.rd F.HUB_GOV_CTL_MODE = 0 ∨ d.rd F.HUB_GOV_CTL_MODE = 2) :
    d.govMode mode vman = (((d.govCut mode vman).wr F.HUB_GOV_STAT_STATE 1).updGov fun g => { g with entry := true }).govNext := by
  have hnew : ¬(d.rd F.HUB_GOV_CTL_MODE = mode ∧ (!(d.govState == 6)) = true) := by omega
  have hlive : (d.rd F.HUB_GOV_CTL_MODE == 1 || d.rd F.HUB_GOV_CTL_MODE == 3) = false := by
    rcases h with h | h <;> rw [h] <;> rfl
  unfold Dev.govMode Dev.govCut
  dsimp only
  rw [if_neg hnew, hlive]
  rcases hm with rfl | rfl <;> simp

/-- A mode written shows, with the voltage that MANUAL takes (R73). -/
theorem govMode_ctl (d : Dev) {mode vman : Nat} (hm : mode < 4) (hv : vman < 2 ^ 10) :
    (d.govMode mode vman).rd F.HUB_GOV_CTL_MODE = mode ∧ (d.govMode mode vman).rd F.HUB_GOV_CTL_VMAN = vman := by
  let e : Dev := (d.wr F.HUB_GOV_CTL_MODE mode).wr F.HUB_GOV_CTL_VMAN vman
  have he : e.rd F.HUB_GOV_CTL_MODE = mode ∧ e.rd F.HUB_GOV_CTL_VMAN = vman :=
    ⟨(rd_wr_of_lo (by decide)).trans (rd_wr_of_lt hm), rd_wr_of_lt hv⟩
  suffices same : ∀ f : Fld, f.reg = .HUB_GOV_CTL → (d.govMode mode vman).rd f = e.rd f from
    ⟨(same _ rfl).trans he.1, (same _ rfl).trans he.2⟩
  intro f hf
  have stat : ∀ {g : Fld} {v : Nat} {d : Dev}, g.reg = .HUB_GOV_STAT → (d.wr g v).rd f = d.rd f := fun hg =>
    rd_wr_of_reg (by rw [hf, hg]; decide)
  have next : ∀ {d : Dev}, d.govNext.rd f = d.rd f := govNext_rd (.inl (by rw [hf]; decide))
  unfold Dev.govMode
  extract_lets was fault busy live init d₂ d₃ d₄
  split
  · exact next
  have h₂ : d₂.rd f = e.rd f := updGov_rd ..
  have h₄ : d₄.rd f = e.rd f := by
    refine (stat rfl).trans ?_
    unfold d₃
    split_ifs
    · exact h₂
    · exact (stat rfl).trans h₂
  split
  · exact (updGov_rd ..).trans ((stat rfl).trans h₄)
  · exact next.trans ((stat rfl).trans h₄)
  · split_ifs
    · exact next.trans h₄
    · exact next.trans ((stat rfl).trans h₄)
    · exact next.trans ((stat rfl).trans h₄)
    · exact next.trans ((updGov_rd ..).trans ((stat rfl).trans h₄))

/-- The entry sequence starts with the page, where one is to be set, or with the exponent (R73). -/
theorem govMode_enter_effect {mode vman : Nat} (hm : mode = 1 ∨ mode = 3) (h : d.rd F.HUB_GOV_CTL_MODE = 0 ∨ d.rd F.HUB_GOV_CTL_MODE = 2)
    (ho : d.hub.gov.op = .none) : (d.govMode mode vman).govState = 1 ∧
      (d.govMode mode vman).hub.gov.op = if d.on F.HUB_GOV_PMB_PAGE_EN then .page else .voutMode := by
  obtain ⟨hs, -, hcut, hreg⟩ := govCut_parts d mode vman
  have hpage : ∀ v, ((d.govCut mode vman).wr F.HUB_GOV_STAT_STATE v).on F.HUB_GOV_PMB_PAGE_EN = d.on F.HUB_GOV_PMB_PAGE_EN := fun v =>
    on_of_rd ((rd_wr_of_reg (by decide)).trans (hreg _ _ _ _ (by decide) (by decide)))
  rw [govMode_enter hm h, govNext_entry (by simpa using hcut ho) (by simpa using hs) (by simp)]
  refine ⟨(updGov_govState ..).trans (rd_wr_of_lt (by decide)), ?_⟩
  rw [updGov_op, updGov_on, hpage]

theorem govMode_hold_effect {vman : Nat} (h : d.rd F.HUB_GOV_CTL_MODE ≠ 2 ∨ d.govState = 6) : (d.govMode 2 vman).govState = 4 := by
  obtain ⟨-, he, -⟩ := govCut_parts d 2 vman
  have hhold : ((d.govCut 2 vman).wr F.HUB_GOV_STAT_STATE 4).govState = 4 := rd_wr_of_lt (f := F.HUB_GOV_STAT_STATE) (by decide)
  rw [govMode_hold h, govNext_govState (by simp [hhold]), if_neg (by simp [he]), hhold]

/-! ### Failures -/

/-- A fault shows with its cause, the command value stays, and GOV_FAULT says so (R76). -/
theorem govFault_effect {cause : Nat} (hc : cause < 8) (hl : d.hub.lost = false) : (d.govFault cause).govState = 6 ∧
    (d.govFault cause).rd F.HUB_GOV_STAT_FCAUSE = cause ∧ (d.govFault cause).hub.gov.op = .none ∧
    (d.govFault cause).hub.gov.vcmd = d.hub.gov.vcmd ∧ Raised (d.govFault cause) 515 cause := by
  unfold Dev.govFault
  extract_lets d₁ d₂
  obtain ⟨hr, hg, hs⟩ := (GovSame.refl (d₂.raise 515 cause)).bistWatch
  have hrd : ∀ f : Fld, f.reg = .HUB_GOV_STAT → (d₂.raise 515 cause).bistWatch.rd f = d₁.rd f := fun f hf =>
    (hr f 0 0 0 (by rw [hf]; rfl)).trans (raise_rd _ _ _ _ _ _ _ (by rw [hf]; decide))
  refine ⟨?_, (hrd _ rfl).trans (rd_wr_of_lt hc), ?_, ?_, hs _ (raise_raised d₂ 515 cause hl)⟩
  · exact (hrd F.HUB_GOV_STAT_STATE rfl).trans ((rd_wr_of_lo (by decide)).trans (rd_wr_of_lt (by decide)))
  · rw [hg, raise_gov]
    exact updGov_op ..
  · rw [hg, raise_gov]
    exact updGov_vcmd ..

/-- A failed attempt is repeated at the speed that the register asks for (R73, R76). -/
theorem govFail_retry {cause : Nat} (hcut : d.hub.gov.cut = false) (ht : d.hub.gov.tries < 3) :
    (d.govFail cause).hub.gov = { d.hub.gov with
      tries := d.hub.gov.tries + 1, waiting := true, bus := (d.govFail cause).hub.gov.bus, fast := d.on F.HUB_GOV_PMB_SPEED } ∧
    (d.govFail cause).govState = d.govState := by
  rw [Dev.govFail, if_neg (by simp [hcut]), if_neg (by omega)]
  refine ⟨?_, rfl⟩
  rw [← updGov_fast (d := d) (f := fun g => { g with tries := g.tries + 1, waiting := true }) (Nat.succ_ne_self _)]
  exact updGov_gov ..

theorem govFail_last {cause : Nat} (hcut : d.hub.gov.cut = false) (ht : 3 ≤ d.hub.gov.tries) : d.govFail cause = d.govFault cause := by
  rw [Dev.govFail, if_neg (by simp [hcut]), if_pos ht]

/-- A command by which an attempt fails: the first three are repeated, the fourth is a fault (R76). -/
theorem does_govFail {c : Instr} {f : Dev → Dev} {cause : Nat} (ha : s.awake) (hl : s.dev.hub.lost = false) (hcut : s.dev.hub.gov.cut = false)
    (hc : cause < 8) (e : exec c s = runHub s f) (hf : f s.dev = s.dev.govFail cause) :
    (s.dev.hub.gov.tries < 3 → Does c s fun t =>
      t.hub.gov = { s.dev.hub.gov with
        tries := s.dev.hub.gov.tries + 1, waiting := true, bus := t.hub.gov.bus, fast := s.dev.on F.HUB_GOV_PMB_SPEED } ∧
      t.govState = s.dev.govState) ∧
    (3 ≤ s.dev.hub.gov.tries → Does c s fun t => t.govState = 6 ∧ t.rd F.HUB_GOV_STAT_FCAUSE = cause ∧
      t.hub.gov.op = .none ∧ t.hub.gov.vcmd = s.dev.hub.gov.vcmd ∧ Raised t 515 cause) := by
  refine ⟨fun ht => does_of_runHub ha hl e ?_, fun ht => does_of_runHub ha hl e ?_⟩
  · simp only [hf, settle_hub, settle_govState]
    exact govFail_retry hcut ht
  · simp only [hf, govFail_last hcut ht, settle_hub, settle_govState, settle_rd, settle_raised]
    exact govFault_effect hc hl

/-! ### Transactions -/

theorem pmbDone_idle (r : PmbResult) (h : d.hub.gov.op = .none ∨ d.hub.gov.waiting = true) : d.pmbDone r = d := if_pos h

theorem pmbDone_ok {v : Nat} (ho : d.hub.gov.op ≠ .none) (hw : d.hub.gov.waiting = false) : d.pmbDone (.ok v) = d.pmbOk v :=
  if_neg (by simp [ho, hw])

theorem pmbDone_nack (ho : d.hub.gov.op ≠ .none) (hw : d.hub.gov.waiting = false) : d.pmbDone .nack = d.govFail 1 :=
  if_neg (by simp [ho, hw])

theorem pmbDone_pec (ho : d.hub.gov.op ≠ .none) (hw : d.hub.gov.waiting = false) (hp : d.on F.HUB_GOV_PMB_PEC = true) :
    d.pmbDone .pec = d.govFail 2 := by
  simp [Dev.pmbDone, ho, hw, Dev.when, hp]

section

variable {v : Nat} (hc : d.hub.gov.cut = false)
include hc

theorem pmbOk_page (ho : d.hub.gov.op = .page) : d.pmbOk v = d.updGov fun g => { g with op := .voutMode, tries := 0 } := by
  simp [Dev.pmbOk, hc, ho]

theorem pmbOk_voutMode_linear (ho : d.hub.gov.op = .voutMode) (hv : v / 32 % 8 = 0) : d.pmbOk v =
    (d.updGov fun g => { g with exponent := signed 5 v }).updGov fun g => { g with op := .readVoutEntry, tries := 0 } := by
  simp [Dev.pmbOk, hc, ho, hv]

theorem pmbOk_voutMode_other (ho : d.hub.gov.op = .voutMode) (hv : v / 32 % 8 ≠ 0) : d.pmbOk v = d.govFault 4 := by
  simp [Dev.pmbOk, hc, ho, hv]

theorem pmbOk_readVoutEntry (ho : d.hub.gov.op = .readVoutEntry) : d.pmbOk v = (d.updGov fun g => { g with
    vcmd := if d.rd F.HUB_GOV_STAT_VCMD = 0 then linearMv d.hub.gov.exponent v else d.rd F.HUB_GOV_STAT_VCMD, lastChange := d.c }).govIdle := by
  simp [Dev.pmbOk, hc, ho]

theorem pmbOk_voutCommand (ho : d.hub.gov.op = .voutCommand) : d.pmbOk v =
    (((d.wr F.HUB_GOV_STAT_VCMD d.hub.gov.target).updGov fun g => { g with vcmd := g.target, lastChange := d.c }).updGov fun g =>
      { g with op := .none, tries := 0, settling := true }).bistWatch := by
  simp [Dev.pmbOk, hc, ho]

theorem pmbOk_verifyVout (ho : d.hub.gov.op = .verifyVout) : d.pmbOk v =
    if voutOff d.hub.gov.exponent v d.hub.gov.target then d.govFail 5 else d.updGov fun g => { g with op := .verifyStatus, tries := 0 } := by
  simp [Dev.pmbOk, hc, ho]

theorem pmbOk_verifyStatus (ho : d.hub.gov.op = .verifyStatus) (hv : statusFault v = false) : d.pmbOk v = d.govIdle := by
  simp [Dev.pmbOk, hc, ho, hv]

/-- In AUTO the entry sequence ends with the command value that was sent, or the voltage read where none was (R73). -/
theorem pmbOk_readVoutEntry_effect (ho : d.hub.gov.op = .readVoutEntry) (hm : d.rd F.HUB_GOV_CTL_MODE = 1) :
    (d.pmbOk v).govState = (if d.hub.gov.entry && !d.hub.gov.settling then 1 else 2) ∧ (d.pmbOk v).hub.gov.vcmd =
      if d.rd F.HUB_GOV_STAT_VCMD = 0 then linearMv d.hub.gov.exponent v else d.rd F.HUB_GOV_STAT_VCMD := by
  rw [pmbOk_readVoutEntry hc ho]
  obtain ⟨hst, hv, -⟩ := govIdle_auto (d := d.updGov fun g => { g with
    vcmd := if d.rd F.HUB_GOV_STAT_VCMD = 0 then linearMv d.hub.gov.exponent v else d.rd F.HUB_GOV_STAT_VCMD, lastChange := d.c }) hm
  rw [updGov_entry, updGov_settling] at hst
  exact ⟨hst, hv.trans (updGov_vcmd ..)⟩

/-- A voltage written shows, and settles (R75). -/
theorem pmbOk_voutCommand_effect (ho : d.hub.gov.op = .voutCommand) : (d.pmbOk v).hub.gov.op = .none ∧
    (d.pmbOk v).hub.gov.settling = true ∧ (d.pmbOk v).hub.gov.vcmd = d.hub.gov.target ∧
    (d.pmbOk v).rd F.HUB_GOV_STAT_VCMD = d.hub.gov.target % 2 ^ 10 ∧ (d.pmbOk v).hub.gov.lastChange = d.c := by
  rw [pmbOk_voutCommand hc ho]
  generalize hd : (((d.wr F.HUB_GOV_STAT_VCMD d.hub.gov.target).updGov fun g => { g with vcmd := g.target, lastChange := d.c }).updGov
    fun g => { g with op := .none, tries := 0, settling := true }) = e
  obtain ⟨hr, hg, -⟩ := (GovSame.refl e).bistWatch
  rw [hg, hr _ _ _ _ rfl, ← hd]
  refine ⟨by simp, by simp, by simp, Dev.rd_wr .., by simp⟩

end

/-! ### The end of a window -/

/-- The pipe with the lowest margin, the first of those that have it. -/
def Dev.govWorst (d : Dev) : Option (Nat × Int) :=
  d.govMargins.foldl (fun (a : Option (Nat × Int)) x => match a with | some y => if x.2 < y.2 then some x else some y | none => some x) none

theorem govWorst_eq (d : Dev) : d.govWorst = d.govMargins.argmin (·.2) := by
  unfold Dev.govWorst List.argmin
  congr 1
  funext a x
  cases a <;> rfl

/-- The lowest margin shows, with its pipe. -/
def Dev.govShow (d : Dev) (w : Option (Nat × Int)) : Dev :=
  match w with
  | some (p, m) => (d.wr F.HUB_GOV_STAT_MARGIN (code 12 m)).wr F.HUB_GOV_STAT_PIPE p
  | none => (d.wr F.HUB_GOV_STAT_MARGIN 0).wr F.HUB_GOV_STAT_PIPE 0

/-- What a decision makes of the device in TRACK with a free bus (R74). -/
def Dev.govStart (d : Dev) (x : Option Nat × Bool) : Dev :=
  match x.1 with
  | some v => (d.wr F.HUB_GOV_STAT_AT_VMAX 0).govWrite v
  | none =>
    if x.2 then
      if d.on F.HUB_GOV_STAT_AT_VMAX then d.wr F.HUB_GOV_STAT_AT_VMAX 1
      else (d.wr F.HUB_GOV_STAT_AT_VMAX 1).raise 514 ((d.wr F.HUB_GOV_STAT_AT_VMAX 1).fieldWord ⟨.HUB_GOV_STAT, 0, 0, 0⟩)
    else d.wr F.HUB_GOV_STAT_AT_VMAX 0

/-- What a decision makes of the device in AUTO. -/
def Dev.govAct (d : Dev) (x : Option Nat × Bool) : Dev :=
  if d.govState ≠ 2 ∨ d.hub.gov.op ≠ .none ∨ d.hub.gov.settling then if x.2 then d else d.wr F.HUB_GOV_STAT_AT_VMAX 0
  else d.govStart x

theorem govWindow_eq (d : Dev) : d.govWindow =
    if (d.govShow d.govWorst).rd F.HUB_GOV_CTL_MODE ≠ 1 then (d.govShow d.govWorst).govNext
    else (d.govShow d.govWorst).govAct ((d.govShow d.govWorst).govDecide (d.govWorst.map (·.2))) := rfl

/-- `m` is the lowest of the pipes' margins, none where there is none. -/
def Dev.lowestMargin (d : Dev) (m : Option Int) : Prop :=
  m = none ∧ d.govMargins = [] ∨ ∃ x ∈ d.govMargins, m = some x.2 ∧ ∀ y ∈ d.govMargins, x.2 ≤ y.2

theorem govWorst_lowest {m : Option Int} (hm : d.lowestMargin m) :
    d.govWorst = none ∧ m = none ∨ ∃ x ∈ d.govMargins, d.govWorst = some x ∧ m = some x.2 := by
  rw [govWorst_eq]
  rcases hm with ⟨rfl, hnil⟩ | ⟨x, hx, rfl, hle⟩
  · exact .inl ⟨List.argmin_eq_none.2 hnil, rfl⟩
  · cases hw : d.govMargins.argmin (·.2) with
    | none => rw [List.argmin_eq_none.1 hw] at hx; cases hx
    | some w =>
      have hmem := List.argmin_mem hw
      exact .inr ⟨w, hmem, rfl, congrArg some (le_antisymm (hle w hmem) (List.le_of_mem_argmin hx hw))⟩

theorem govMargins_lt {x : Nat × Int} (hx : x ∈ d.govMargins) : x.1 < 4 := by
  obtain ⟨p, hp, rfl⟩ := List.mem_map.1 hx
  exact List.mem_range.1 (List.mem_of_mem_filter hp)

theorem code_lt (w : Nat) (x : Int) : code w x < 2 ^ w := by
  have h0 : (0 : Int) < ((2 ^ w : Nat) : Int) := by positivity
  have hlt := Int.emod_lt_of_pos x h0
  have hnn := Int.emod_nonneg x h0.ne'
  unfold code
  omega

/-- What shows the lowest margin writes it and its pipe alone. -/
theorem govShow_rd {f : Fld} {p i j : Nat} (w : Option (Nat × Int)) (hf : f.reg ≠ .HUB_GOV_STAT ∨
    f.lo ≠ F.HUB_GOV_STAT_MARGIN.lo ∧ f.lo ≠ F.HUB_GOV_STAT_PIPE.lo) : (d.govShow w).rd f p i j = d.rd f p i j := by
  have keep : ∀ {g : Fld} {v : Nat} {d : Dev}, g = F.HUB_GOV_STAT_MARGIN ∨ g = F.HUB_GOV_STAT_PIPE → (d.wr g v).rd f p i j = d.rd f p i j :=
    fun hg => hf.elim (fun h => rd_wr_of_reg (by rcases hg with rfl | rfl <;> exact h))
      fun h => rd_wr_of_lo (by rcases hg with rfl | rfl; exacts [h.1, h.2])
  cases w <;> exact (keep (.inr rfl)).trans (keep (.inl rfl))

theorem govShow_parts (d : Dev) (w : Option (Nat × Int)) : (d.govShow w).hub = d.hub ∧ (d.govShow w).c = d.c := by
  cases w <;> exact ⟨rfl, rfl⟩

/-- The decision does not rest on the margin shown. -/
theorem govDecide_show (w : Option (Nat × Int)) (m : Option Int) : (d.govShow w).govDecide m = d.govDecide m := by
  have reg : ∀ f : Fld, f.reg ≠ .HUB_GOV_STAT → (d.govShow w).rd f = d.rd f := fun f hf => govShow_rd w (.inl hf)
  obtain ⟨hh, hc⟩ := govShow_parts d w
  have hlimits : (d.govShow w).govLimits = d.govLimits := by
    rw [Dev.govLimits, reg _ (by decide), reg _ (by decide), reg _ (by decide), on_of_rd (reg _ (by decide))]
    rfl
  have hsteps : (d.govShow w).govSteps = d.govSteps := by simp (disch := decide) only [Dev.govSteps, reg]
  have hguards : (d.govShow w).guards = d.guards := by simp (disch := decide) only [Dev.guards, reg]
  rw [Dev.govDecide, hlimits, hsteps, hguards, hh, hc, reg _ (by decide)]
  rfl

theorem govShow_worst {m : Option Int} (hm : d.lowestMargin m) :
    (d.govShow d.govWorst).rd F.HUB_GOV_STAT_MARGIN = m.elim 0 (code 12) ∧
    (m ≠ none → ∃ x ∈ d.govMargins, m = some x.2 ∧ (d.govShow d.govWorst).rd F.HUB_GOV_STAT_PIPE = x.1) := by
  rcases govWorst_lowest hm with ⟨hw, rfl⟩ | ⟨x, hx, hw, rfl⟩
  · rw [hw]
    exact ⟨(rd_wr_of_lo (by decide)).trans (rd_wr_of_lt (by decide)), fun h => absurd rfl h⟩
  · rw [hw]
    exact ⟨(rd_wr_of_lo (by decide)).trans (rd_wr_of_lt (code_lt 12 x.2)), fun _ => ⟨x, hx, rfl, rd_wr_of_lt (govMargins_lt hx)⟩⟩

/-- Neither what starts next nor a decision writes the margin or its pipe. -/
theorem govWindow_rd {f : Fld} (hf : f = F.HUB_GOV_STAT_MARGIN ∨ f = F.HUB_GOV_STAT_PIPE) :
    d.govWindow.rd f = (d.govShow d.govWorst).rd f := by
  have hstate : f.reg ≠ .HUB_GOV_STAT ∨ f.lo ≠ F.HUB_GOV_STAT_STATE.lo := by rcases hf with rfl | rfl <;> decide
  have hmax : ∀ {v : Nat} {d : Dev}, (d.wr F.HUB_GOV_STAT_AT_VMAX v).rd f = d.rd f := fun {v d} =>
    rd_wr_of_lo (by rcases hf with rfl | rfl <;> decide)
  rw [govWindow_eq]
  generalize d.govShow d.govWorst = e
  generalize e.govDecide (d.govWorst.map (·.2)) = x
  unfold Dev.govAct
  split_ifs
  · exact govNext_rd hstate
  · rfl
  · exact hmax
  obtain ⟨v | v, full⟩ := x
  · unfold Dev.govStart
    dsimp only
    split_ifs
    · exact hmax
    · exact (raise_rd _ _ _ _ _ _ _ (by rcases hf with rfl | rfl <;> decide)).trans hmax
    · exact hmax
  · exact (govWrite_rd v hstate).trans hmax

/-- A step starts: SETTLE shows, and the write of its target goes out (R75). -/
theorem govStart_step {v : Nat} (full : Bool) (hmode : d.rd F.HUB_GOV_CTL_MODE = 1) :
    (d.govStart (some v, full)).govState = 3 ∧ (d.govStart (some v, full)).hub.gov.op = .voutCommand ∧
    (d.govStart (some v, full)).hub.gov.target = v ∧ (d.govStart (some v, full)).hub.gov.tries = 0 ∧
    (d.govStart (some v, full)).on F.HUB_GOV_STAT_AT_VMAX = false := by
  have hmode' : (d.wr F.HUB_GOV_STAT_AT_VMAX 0).rd F.HUB_GOV_CTL_MODE = 1 := (rd_wr_of_reg (by decide)).trans hmode
  have hstart : d.govStart (some v, full) = ((d.wr F.HUB_GOV_STAT_AT_VMAX 0).wr F.HUB_GOV_STAT_STATE 3).updGov fun g =>
      { g with op := .voutCommand, tries := 0, target := v, code := linearCode g.exponent v } := govWrite_auto hmode' v
  rw [hstart]
  refine ⟨(updGov_govState ..).trans (rd_wr_of_lt (by decide)), updGov_op .., updGov_target .., updGov_tries .., ?_⟩
  exact (updGov_on ..).trans ((on_of_rd (rd_wr_of_lo (by decide))).trans (on_wrb (b := false) rfl))

/-- Where VCORE can rise no further that shows, and is told once with the register as it then reads (R74). -/
theorem govStart_full (hl : d.hub.lost = false) : (d.govStart (none, true)).hub.gov = d.hub.gov ∧
    (d.govStart (none, true)).on F.HUB_GOV_STAT_AT_VMAX = true ∧ (d.on F.HUB_GOV_STAT_AT_VMAX = false →
      Raised (d.govStart (none, true)) 514 ((d.govStart (none, true)).fieldWord ⟨.HUB_GOV_STAT, 0, 0, 0⟩)) := by
  have hfull : (d.wr F.HUB_GOV_STAT_AT_VMAX 1).on F.HUB_GOV_STAT_AT_VMAX = true := on_wrb (b := true) rfl
  unfold Dev.govStart
  dsimp only
  rw [if_pos rfl]
  split_ifs with hwas
  · exact ⟨rfl, hfull, fun h => by simp [hwas] at h⟩
  · have hrd : ∀ (syn : Nat) (f : Fld), f ∈ RegId.HUB_GOV_STAT.info.flds →
        ((d.wr F.HUB_GOV_STAT_AT_VMAX 1).raise 514 syn).rd f = (d.wr F.HUB_GOV_STAT_AT_VMAX 1).rd f := fun syn f hf =>
      raise_rd _ _ _ _ _ _ _ (by rw [reg_of_mem hf]; decide)
    refine ⟨raise_gov .., (on_of_rd (hrd _ _ (by decide))).trans hfull, fun _ => ?_⟩
    rw [fieldWord_congr (l := ⟨.HUB_GOV_STAT, 0, 0, 0⟩) (hrd _)]
    exact raise_raised _ _ _ hl

/-- In AUTO with a free bus a window's decision starts a step, or shows whether VCORE stands at VMAX. -/
theorem govWindow_track {m : Option Int} (hm : d.lowestMargin m) (hmode : d.rd F.HUB_GOV_CTL_MODE = 1)
    (hst : d.govState = 2) (ho : d.hub.gov.op = .none) (hs : d.hub.gov.settling = false) :
    d.govWindow = (d.govShow d.govWorst).govStart (d.govDecide m) := by
  have hmap : d.govWorst.map (·.2) = m := by
    rcases govWorst_lowest hm with ⟨hw, rfl⟩ | ⟨x, -, hw, rfl⟩ <;> rw [hw] <;> rfl
  have hst' : (d.govShow d.govWorst).govState = 2 := (govShow_rd _ (.inr (by decide))).trans hst
  have hmode' : (d.govShow d.govWorst).rd F.HUB_GOV_CTL_MODE = 1 := (govShow_rd _ (.inl (by decide))).trans hmode
  obtain ⟨hh, -⟩ := govShow_parts d d.govWorst
  rw [govWindow_eq, if_neg (not_not_intro hmode'), govDecide_show, hmap, Dev.govAct, if_neg (by simp [hst', hh, ho, hs])]

/-- What the decision of a window in AUTO leaves. -/
theorem govWindow_decides {m : Option Int} (hm : d.lowestMargin m) (hl : d.hub.lost = false) (hmode : d.rd F.HUB_GOV_CTL_MODE = 1)
    (hst : d.govState = 2) (ho : d.hub.gov.op = .none) (hs : d.hub.gov.settling = false) :
    (∀ v, (d.govDecide m).1 = some v → d.govWindow.govState = 3 ∧ d.govWindow.hub.gov.op = .voutCommand ∧ d.govWindow.hub.gov.target = v ∧
      d.govWindow.hub.gov.tries = 0 ∧ d.govWindow.on F.HUB_GOV_STAT_AT_VMAX = false) ∧
    (d.govDecide m = (none, true) → d.govWindow.hub.gov = d.hub.gov ∧ d.govWindow.on F.HUB_GOV_STAT_AT_VMAX = true ∧
      (d.on F.HUB_GOV_STAT_AT_VMAX = false → Raised d.govWindow 514 (d.govWindow.fieldWord ⟨.HUB_GOV_STAT, 0, 0, 0⟩))) ∧
    (d.govDecide m = (none, false) → d.govWindow.hub.gov = d.hub.gov ∧ d.govWindow.on F.HUB_GOV_STAT_AT_VMAX = false) := by
  obtain ⟨hh, -⟩ := govShow_parts d d.govWorst
  have hmax : (d.govShow d.govWorst).on F.HUB_GOV_STAT_AT_VMAX = d.on F.HUB_GOV_STAT_AT_VMAX := on_of_rd (govShow_rd _ (.inr (by decide)))
  rw [govWindow_track hm hmode hst ho hs, ← hmax, ← hh]
  refine ⟨fun v hv => ?_, fun hd => ?_, fun hd => ?_⟩
  · obtain ⟨full, hd⟩ : ∃ full, d.govDecide m = (some v, full) := ⟨(d.govDecide m).2, Prod.ext hv rfl⟩
    rw [hd]
    exact govStart_step full ((govShow_rd _ (.inl (by decide))).trans hmode)
  · rw [hd]
    exact govStart_full (by rwa [hh])
  · rw [hd]
    exact ⟨rfl, on_wrb (b := false) rfl⟩

/-! ### The commands -/

/-- What a write of `HUB_GOV_CTL` leaves (R73, R76). -/
theorem govMode_effect (d : Dev) (mode : Fin 4) (vman : BitVec 10) :
    (d.govMode mode vman.toNat).rd F.HUB_GOV_CTL_MODE = mode.val ∧ (d.govMode mode vman.toNat).rd F.HUB_GOV_CTL_VMAN = vman.toNat ∧
    (d.rd F.HUB_GOV_CTL_MODE ≠ mode.val ∨ d.govState = 6 →
      (mode = 0 → (d.govMode mode vman.toNat).govState = 0 ∧ (d.govMode mode vman.toNat).hub.gov.alert = false) ∧
      (mode = 2 → (d.govMode mode vman.toNat).govState = 4) ∧
      ((mode = 1 ∨ mode = 3) → (d.rd F.HUB_GOV_CTL_MODE = 0 ∨ d.rd F.HUB_GOV_CTL_MODE = 2) → d.hub.gov.op = .none →
        (d.govMode mode vman.toNat).govState = 1 ∧
        (d.govMode mode vman.toNat).hub.gov.op = if d.on F.HUB_GOV_PMB_PAGE_EN then .page else .voutMode)) := by
  obtain ⟨hmode, hvman⟩ := govMode_ctl d mode.isLt vman.isLt
  refine ⟨hmode, hvman, fun h => ⟨?_, ?_, fun hm hwas ho => govMode_enter_effect (hm.imp (congrArg Fin.val) (congrArg Fin.val)) hwas ho⟩⟩
  · rintro rfl
    have hoff := govMode_off (vman := vman.toNat) h
    exact ⟨(congrArg Dev.govState hoff).trans ((updGov_govState ..).trans (rd_wr_of_lt (by decide))),
      (congrArg (·.hub.gov.alert) hoff).trans (updGov_alert ..)⟩
  · rintro rfl
    exact govMode_hold_effect h

theorem does_pmbOk {v : Nat} {q : Dev → Prop} (ha : s.awake) (hl : s.dev.hub.lost = false) (hw : s.dev.hub.gov.waiting = false)
    (ho : s.dev.hub.gov.op ≠ .none) (hq : q (settle (s.dev.pmbOk v))) : Does (.pmbusTransactionDone (.ok v)) s q := by
  refine does_of_runHub ha hl rfl ?_
  rwa [pmbDone_ok ho hw]

/-- Settles O51: a mode written, the answers of the bus, an alert and the end of a window have the effects above; a lost Hub, and a
governor with nothing in hand, stay as they are. -/
theorem governor : Obligations.Governor := by
  unfold Obligations.Governor
  intro s ha
  have idle : ∀ {c : Instr} {f : Dev → Dev} {p : Prop}, exec c s = runHub s f → (p → f s.dev = s.dev) → s.dev.hub.lost = true ∨ p →
      exec c s = .next (s.after s.dev) := fun e hf h => exec_of_runHub ha e (h.imp_right hf)
  refine ⟨fun mode vman hr => ⟨_, bar2_reach ha hr _, ?_⟩, fun r => idle rfl (pmbDone_idle r),
    fun v hl hw hcut => ?_, fun r cause hl ho hw hcut hr => ?_, fun hl ho hw hcut => ?_, fun hl => exec_of_runHub ha rfl (.inl hl),
    fun hl => does_of_runHub ha hl rfl ?_, idle rfl fun h => if_pos h, idle rfl fun h => if_neg (by simp [h]),
    fun hl hs => does_of_runHub ha hl rfl ?_, idle rfl fun h => if_pos h,
    fun hl h0 h6 => ⟨fun h => does_of_runHub ha hl rfl ?_, fun ho hs he hst => does_of_runHub ha hl rfl ?_⟩,
    fun hl => exec_of_runHub ha rfl (.inl hl), fun m hl hm => does_of_runHub ha hl rfl ?_⟩
  · simp only [settle_rd, settle_hub, settle_govState, bistWatch_gov, bistWatch_govState, bistWatch_rd (f := F.HUB_GOV_CTL_MODE) rfl,
      bistWatch_rd (f := F.HUB_GOV_CTL_VMAN) rfl]
    exact govMode_effect s.dev mode vman
  · refine ⟨fun ho => ?_, fun ho hv => ?_, fun ho hv => ?_, fun ho hm => ?_, fun ho => ?_,
      fun ho => ⟨fun hv => ?_, fun hv ht => ?_, fun hv ht => ?_⟩, fun ho hv he hm hal => ?_⟩
    all_goals refine does_pmbOk ha hl hw (by simp [ho]) ?_
    all_goals simp only [settle_rd, settle_hub, settle_govState, settle_raised]
    · rw [pmbOk_page hcut ho]
      exact updGov_op ..
    · rw [pmbOk_voutMode_linear hcut ho hv]
      exact ⟨updGov_op .., (updGov_exponent ..).trans (updGov_exponent ..)⟩
    · rw [pmbOk_voutMode_other hcut ho hv]
      obtain ⟨hst, hcause, hop, -, hev⟩ := govFault_effect (cause := 4) (by decide) hl
      exact ⟨hst, hcause, hop, hev⟩
    · exact pmbOk_readVoutEntry_effect hcut ho hm
    · exact pmbOk_voutCommand_effect hcut ho
    · rw [pmbOk_verifyVout hcut ho, if_neg (by simp [hv])]
      exact ⟨updGov_op .., updGov_tries ..⟩
    · rw [pmbOk_verifyVout hcut ho, if_pos hv, (govFail_retry hcut ht).1]
      exact ⟨ho, rfl, rfl⟩
    · rw [pmbOk_verifyVout hcut ho, if_pos hv, govFail_last hcut ht]
      obtain ⟨hst, hcause, -, -, hev⟩ := govFault_effect (cause := 5) (by decide) hl
      exact ⟨hst, hcause, hev⟩
    · rw [pmbOk_verifyStatus hcut ho hv]
      obtain ⟨hst, -, hop⟩ := govIdle_auto hm
      exact ⟨hst.trans (by simp [he]), hop he hal⟩
  · rcases hr with ⟨rfl, rfl⟩ | ⟨rfl, hp, rfl⟩
    · exact does_govFail ha hl hcut (by decide) rfl (pmbDone_nack ho hw)
    · exact does_govFail ha hl hcut (by decide) rfl (pmbDone_pec ho hw hp)
  · exact does_govFail ha hl hcut (by decide) rfl (if_neg (by simp [ho, hw]))
  · rw [settle_hub]
    exact updGov_quiet rfl rfl rfl
  · rw [if_pos hs, settle_hub]
    exact updGov_gov ..
  · rw [if_neg (by simp [h0, h6]), govNext_busy (by simpa using h), settle_hub]
    exact updGov_quiet rfl rfl rfl
  · rw [if_neg (by simp [h0, h6]), settle_hub,
      govNext_alert (by simpa using ho) (by simpa using hs) (by simpa using he) (by simp) (by simpa using hst)]
    exact ⟨updGov_op .., updGov_alert ..⟩
  · simp only [settle_rd, settle_hub, settle_govState, settle_on, settle_raised, settle_fieldWord]
    obtain ⟨hmargin, hpipe⟩ := govShow_worst hm
    rw [govWindow_rd (.inl rfl), govWindow_rd (.inr rfl)]
    exact ⟨hmargin.trans (by cases m <;> rfl), hpipe, govWindow_decides hm hl⟩

end Sys2Proof.Machine
end

section
/-!
What every command of a channel, a cask or a ring answers, and what counters, events and the log of DRAM errors leave alone.
-/
namespace Sys2Proof.Machine

variable {P : Dev → Prop} {s : State} {d : Dev} {f : Fld} {v p i j : Nat}

/-! ### Commands whose operands are checked -/

theorem does_of_runIf {c : Instr} {ok : Bool} {f : Dev → Dev} {q : Dev → Prop} (ha : s.awake) (hok : ok = true)
    (e : exec c s = runIf ok s f) (hq : q (settle (f s.dev))) : Does c s q := ⟨f s.dev, by rw [e, runIf_awake ha hok], hq⟩

theorem exec_of_runIf {c : Instr} {ok : Bool} {f : Dev → Dev} {d : Dev} (ha : s.awake) (hok : ok = true)
    (e : exec c s = runIf ok s f) (hd : f s.dev = d) : exec c s = .next (s.after d) := by rw [e, runIf_awake ha hok, hd]

theorem does_of_bar2If {c : Instr} {ok : Bool} {b : BlockId} {u : Nat} {f : Dev → Dev} {q : Dev → Prop} (ha : s.awake) (hok : ok = true)
    (hr : s.dev.reaches b u = true) (e : exec c s = bar2If ok b u s f) (hq : q (settle (f s.dev))) : Does c s q :=
  ⟨f s.dev, by rw [e, bar2If_reach hok ha hr], hq⟩

theorem exec_of_bar2If {c : Instr} {ok : Bool} {b : BlockId} {u : Nat} {f : Dev → Dev} {d : Dev} (ha : s.awake) (hok : ok = true)
    (hr : s.dev.reaches b u = true) (e : exec c s = bar2If ok b u s f) (hd : f s.dev = d) : exec c s = .next (s.after d) := by
  rw [e, bar2If_reach hok ha hr, hd]

/-! ### Effects that settling leaves alone -/

section

variable {i : Instr} {ok : Bool} {f : Dev → Dev} {q : Dev → Prop} (ha : s.awake) (hs : ∀ t, q t → q (settle t))
include ha hs

theorem does_of_run_unsettled (e : exec i s = run s f) (hq : q (f s.dev)) : Does i s q := does_of_run ha e (hs _ hq)

theorem does_of_runIf_unsettled (hok : ok = true) (e : exec i s = runIf ok s f) (hq : q (f s.dev)) : Does i s q :=
  does_of_runIf ha hok e (hs _ hq)

theorem does_of_bar2If_unsettled {b : BlockId} {n : Nat} (hok : ok = true) (hr : s.dev.reaches b n = true) (e : exec i s = bar2If ok b n s f)
    (hq : q (f s.dev)) : Does i s q := does_of_bar2If ha hok hr e (hs _ hq)

end

/-! ### Events -/

/-- An event that stands does so with its syndrome after another is raised. -/
theorem Raised.raise {e e' syn : Nat} (h : Raised d e syn) (hne : e ≠ e') (syn' : Nat) : Raised (d.raise e' syn') e syn := by
  obtain ⟨hstat, hsyn⟩ := h
  refine ⟨raise_stat_mono syn' hstat, ?_⟩
  cases hl : d.hub.lost with
  | true => rwa [Dev.raise, if_pos hl]
  | false => rw [raise_syn d e' syn' hl, Tab.get_set_other _ _ _ hne, hsyn]

/-- An event raised in a device whose Hub is not lost stands. -/
theorem raised_of_raise (hl : d.hub.lost = false) (e syn : Nat) : Raised (d.raise e syn) e syn := raise_raised d e syn hl

/-! ### Counters -/

theorem bumpBy_parts (d : Dev) (n : Nat) (c : Cnt) (p i j : Nat) : ∃ r, d.bumpBy n c p i j = { d with regs := r } := by
  unfold Dev.bumpBy
  dsimp only
  split_ifs <;> exact ⟨_, rfl⟩

/-- A property that the registers of a counter leave alone stands as it counts. -/
theorem bumpBy_keeps {n : Nat} {c : Cnt} (hw : ∀ {d : Dev} {g : Fld} {v : Nat}, g ∈ [c.lo, c.hi, c.sat] → P d → P (d.wr g v p i j))
    (h : P d) : P (d.bumpBy n c p i j) := by
  unfold Dev.bumpBy
  extract_lets v m d₁ v₁
  have h₁ : P d₁ := by
    unfold d₁
    split_ifs
    · exact hw (by simp) h
    · exact h
  exact hw (by simp) (hw (by simp) h₁)

theorem bumpBy_rd {n p' i' j' : Nat} {c : Cnt} (hf : ∀ g ∈ [c.lo, c.hi, c.sat], f.reg ≠ g.reg) :
    (d.bumpBy n c p' i' j').rd f p i j = d.rd f p i j :=
  bumpBy_keeps (P := fun e => e.rd f p i j = d.rd f p i j)
    (fun {_ g _} hg h => (rd_wr_of_reg (hf g hg)).trans h) rfl

/-- A counter of 48 bits goes up and stops at its largest value (R16). -/
theorem bumpBy_cnt {c : Cnt} (hreg : c.lo.reg ≠ c.hi.reg) (hlo : c.lo.width = 32) (hhi : c.hi.width = 16) (d : Dev) (n p i j : Nat) :
    (d.bumpBy n c p i j).cnt c p i j = min (2 ^ 48 - 1) (d.cnt c p i j + n) := by
  unfold Dev.bumpBy
  extract_lets v m d₁ v₁
  have hv : v₁ = min (2 ^ 48 - 1) (d.cnt c p i j + n) := by
    simp only [v₁, v, m]
    split_ifs <;> omega
  have hlt : v₁ / 2 ^ 32 < 2 ^ c.hi.width := by rw [hhi]; omega
  rw [Dev.cnt, rd_wr_of_reg hreg, rd_wr_of_lt (by rw [hlo]; exact Nat.mod_lt _ (by decide)), rd_wr_of_lt hlt, ← hv]
  exact Nat.mod_add_div _ _

/-! ### The log of DRAM errors -/

/-- The registers that count and log an uncorrectable word (R479). -/
def dramLogRegs : List RegId := [.DRC_UNC_CNT_LO, .DRC_UNC_CNT_HI, .DRC_ELOG, .DRC_ELOG_STAT]

/-- The bad words that a write of `n` bytes covers in part are counted and logged (R474, R479). -/
def Dev.dramMerge (d : Dev) (p src a n : Nat) : Dev :=
  (wordsOf a n).foldl (fun d w =>
    if coversWord a n w then d
    else match d.dramBad p w with
      | some (k, s) => d.dramUncorrectable p src w k s
      | none => d) d

theorem dramWrite_form (d : Dev) (p src a : Nat) (bs : List Byte) (psn : Bool) : ∃ g : Dram → Dram,
    (∀ m, (g m).mem = m.mem.writes a bs) ∧ d.dramWrite p src a bs psn = (d.dramMerge p src a bs.length).updDram p g := by
  unfold Dev.dramWrite
  extract_lets ws d₁
  have h₁ : d₁ = d.dramMerge p src a bs.length := rfl
  rw [h₁]
  exact ⟨_, fun _ => rfl, rfl⟩

/-- The property stands whatever the delivery of an uncorrectable word counts, logs and raises. -/
def DramLogKeeps (P : Dev → Prop) : Prop :=
  (∀ {d : Dev} {g : Fld} {v p i j : Nat}, g.reg ∈ dramLogRegs → P d → P (d.wr g v p i j)) ∧
    ∀ {d : Dev} (n syn : Nat), P d → P (d.raiseP n 65 syn)

namespace DramLogKeeps

variable (k : DramLogKeeps P)
include k

theorem uncorrectable (h : P d) (p src w kind syn : Nat) : P (d.dramUncorrectable p src w kind syn) := by
  obtain ⟨wr, raise⟩ := k
  refine raise _ _ (wr (by decide) (wr (by decide) (wr (by decide) (wr (by decide) (wr (by decide) ?_)))))
  have hc : P (d.bump C.DRC_UNC_CNT p) :=
    bumpBy_keeps (fun {_ g _} hg => wr ((by decide : ∀ g ∈ [C.DRC_UNC_CNT.lo, C.DRC_UNC_CNT.hi, C.DRC_UNC_CNT.sat], g.reg ∈ dramLogRegs) g hg)) h
  split_ifs
  · exact hc
  · exact wr (by decide) hc

theorem dramRead (h : P d) (p src a n : Nat) : P (d.dramRead p src a n).2.2 :=
  foldl_keeps _ (fun _ x _ h => k.uncorrectable h p src x.1 x.2.1 x.2.2) h

theorem dramMerge (h : P d) (p src a n : Nat) : P (d.dramMerge p src a n) := by
  refine foldl_keeps _ (fun e w _ h => ?_) h
  split_ifs
  · exact h
  · split
    · exact k.uncorrectable h p src _ _ _
    · exact h

theorem dramWrite {src a : Nat} {bs : List Byte} {psn : Bool} (hdram : ∀ {d : Dev} (g : Dram → Dram), P d → P (d.updDram p g)) (h : P d) :
    P (d.dramWrite p src a bs psn) := by
  obtain ⟨g, -, e⟩ := dramWrite_form d p src a bs psn
  rw [e]
  exact hdram g (k.dramMerge h p src a _)

end DramLogKeeps

theorem dramLogKeeps_rd (hf : f.reg ∉ RegId.QDL_PEER :: dramLogRegs) : DramLogKeeps fun d => d.rd f p i j = v := by
  simp only [List.mem_cons, not_or] at hf
  obtain ⟨hq, hl⟩ := hf
  exact ⟨fun hg h => (rd_wr_of_mem hl hg).trans h, fun _ _ h => (raise_rd _ _ _ _ _ _ _ hq).trans h⟩

theorem dramRead_rd {q src a n : Nat} (hf : f.reg ∉ RegId.QDL_PEER :: dramLogRegs) : (d.dramRead q src a n).2.2.rd f p i j = d.rd f p i j :=
  (dramLogKeeps_rd hf).dramRead rfl q src a n

theorem dramWrite_rd {q src a : Nat} {bs : List Byte} {psn : Bool} (hf : f.reg ∉ RegId.QDL_PEER :: dramLogRegs) :
    (d.dramWrite q src a bs psn).rd f p i j = d.rd f p i j :=
  (dramLogKeeps_rd hf).dramWrite (fun _ h => h) rfl

theorem dramLogKeeps_pipes (x : Four PipeSt) : DramLogKeeps fun d => d.pipes = x :=
  ⟨fun _ h => h, fun _ _ h => (raise_pipes _ _ _).trans h⟩

theorem dramLogKeeps_lost (b : Bool) : DramLogKeeps fun d => d.hub.lost = b := ⟨fun _ h => h, fun _ _ h => (raise_lost _ _ _).trans h⟩

@[simp] theorem dramWrite_lost (d : Dev) (q src a : Nat) (bs : List Byte) (psn : Bool) : (d.dramWrite q src a bs psn).hub.lost = d.hub.lost :=
  (dramLogKeeps_lost _).dramWrite (fun _ h => h) rfl

@[simp] theorem dramRead_pipes (d : Dev) (q src a n : Nat) : (d.dramRead q src a n).2.2.pipes = d.pipes :=
  (dramLogKeeps_pipes _).dramRead rfl q src a n

/-- The bytes written stand in the DRAM. -/
theorem dramWrite_mem (d : Dev) (p src a : Nat) (bs : List Byte) (psn : Bool) :
    ((d.dramWrite p src a bs psn).dram p).mem = (d.dram p).mem.writes a bs := by
  obtain ⟨g, hg, e⟩ := dramWrite_form d p src a bs psn
  have hp : (d.dramMerge p src a bs.length).pipes = d.pipes := (dramLogKeeps_pipes _).dramMerge rfl p src a _
  simp only [e, Dev.dram, Dev.updDram, updPipe_pipe_same, hg]
  rw [Dev.pipe, hp, Dev.pipe]

end Sys2Proof.Machine
end

section
/-!
What casks hold after each of their operations (R97 to R106): the words, the marker and the credits.
-/
namespace Sys2Proof.Machine

variable {d : Dev} {f : Fld} {v p i j u k : Nat} {x : Cask} {w : CaskWord}

/-! ### The cask stored -/

@[simp] theorem setCask_cask (d : Dev) (u k : Nat) (x : Cask) : (d.setCask u k x).cask u k = x := by
  by_cases hu : u = 4 <;> simp [Dev.cask, Dev.setCask, hu]

@[simp] theorem setCask_rd : (d.setCask u k x).rd f p i j = d.rd f p i j := by
  unfold Dev.setCask
  split_ifs <;> rfl

@[simp] theorem setCask_on : (d.setCask u k x).on f p i j = d.on f p i j := congrArg (· == 1) setCask_rd

@[simp] theorem wr_cask {p' i' j' : Nat} : (d.wr f v p' i' j').cask u k = d.cask u k := rfl

@[simp] theorem wrb_cask {b : Bool} : (d.wrb f b p i j).cask u k = d.cask u k := rfl

@[simp] theorem settle_cask : (settle d).cask u k = d.cask u k := rfl

@[simp] theorem putCask_cask (d : Dev) (u k : Nat) (x : Cask) : (d.putCask u k x).cask u k = x := setCask_cask d u k x

theorem raise_cask (e syn : Nat) : (d.raise e syn).cask u k = d.cask u k := by
  obtain ⟨m, hm⟩ := raise_hub d e syn
  simp [Dev.cask, hm]

/-- The status of a cask shows its level and whether it is open; storing the cask writes nothing else. -/
theorem putCask_rd {p' i' j' : Nat} (hf : f.reg ≠ .CASK_STAT ∨ f.lo ≠ F.CASK_STAT_LEVEL.lo ∧ f.lo ≠ F.CASK_STAT_OPEN.lo) :
    (d.putCask u k x).rd f p' i' j' = d.rd f p' i' j' := by
  unfold Dev.putCask Dev.wrb
  cases hf with
  | inl hr => rw [rd_wr_of_reg hr, rd_wr_of_reg hr, setCask_rd]
  | inr hl =>
    obtain ⟨hlevel, hopen⟩ := hl
    rw [rd_wr_of_lo hopen, rd_wr_of_lo hlevel, setCask_rd]

theorem putCask_open : (d.putCask u k x).on F.CASK_STAT_OPEN u k = x.isOpen := on_wrb rfl

theorem putCask_level : (d.putCask u k x).rd F.CASK_STAT_LEVEL u k = x.words.length % 2 ^ 13 :=
  (rd_wr_of_lo (by decide)).trans (Dev.rd_wr ..)

/-! ### A word written -/

/-- The cask with a word behind those it holds (R97). -/
def Cask.push (x : Cask) (w : CaskWord) : Cask := { x with words := x.words ++ [{ w with data := w.data % 2 ^ 64, tail := false }] }

/-- The cask with one more credit on its way back (R106). -/
def Cask.drop (x : Cask) : Cask := { x with transit := x.transit + 1 }

theorem push_isOpen : (x.push w).isOpen = !w.fin := by simp [Cask.push, Cask.isOpen]

/-- A word is stored, or discarded as the rest of a flushed item; either takes a credit. -/
theorem caskPut_cask : (d.caskPut u k w).cask u k =
    if d.on F.CASK_STAT_DISCARD u k then (d.cask u k).drop else (d.cask u k).push w := by
  have hd : (d.wr F.CASK_STAT_CREDITS (d.rd F.CASK_STAT_CREDITS u k - 1) u k).on F.CASK_STAT_DISCARD u k = d.on F.CASK_STAT_DISCARD u k :=
    on_of_rd (rd_wr_of_lo (by decide))
  unfold Dev.caskPut
  dsimp only
  rw [hd]
  split_ifs <;> simp [Cask.drop, Cask.push]

theorem caskPut_credits : (d.caskPut u k w).rd F.CASK_STAT_CREDITS u k = (d.rd F.CASK_STAT_CREDITS u k - 1) % 2 ^ 13 := by
  have hw : (d.wr F.CASK_STAT_CREDITS (d.rd F.CASK_STAT_CREDITS u k - 1) u k).rd F.CASK_STAT_CREDITS u k =
      (d.rd F.CASK_STAT_CREDITS u k - 1) % 2 ^ 13 := Dev.rd_wr ..
  unfold Dev.caskPut
  dsimp only
  split_ifs
  · rw [rd_wr_of_lo (by decide), putCask_rd (by decide), hw]
  · rw [putCask_rd (by decide), hw]
  · rw [putCask_rd (by decide), hw]

theorem caskPut_open (h : d.on F.CASK_STAT_DISCARD u k = false) : (d.caskPut u k w).on F.CASK_STAT_OPEN u k = !w.fin := by
  have hd : (d.wr F.CASK_STAT_CREDITS (d.rd F.CASK_STAT_CREDITS u k - 1) u k).on F.CASK_STAT_DISCARD u k = false :=
    (on_of_rd (rd_wr_of_lo (by decide))).trans h
  unfold Dev.caskPut
  dsimp only
  rw [if_neg (by simp [hd]), putCask_open]
  exact push_isOpen

/-- The word with END set ends the discarding (R106). -/
theorem caskPut_discard (h : d.on F.CASK_STAT_DISCARD u k = true) : (d.caskPut u k w).on F.CASK_STAT_DISCARD u k = !w.fin := by
  have hd : (d.wr F.CASK_STAT_CREDITS (d.rd F.CASK_STAT_CREDITS u k - 1) u k).on F.CASK_STAT_DISCARD u k = true :=
    (on_of_rd (rd_wr_of_lo (by decide))).trans h
  unfold Dev.caskPut
  dsimp only
  rw [if_pos hd]
  split_ifs with hw
  · rw [hw]
    exact on_wrb (b := false) rfl
  · rw [on_of_rd (putCask_rd (by decide)), hd]
    simpa using hw

/-! ### The words that a producer holds -/

theorem caskDrain_of_wait_nil (h : (d.cask u k).wait = []) (n : Nat) : d.caskDrain u k n = d := by
  cases n with
  | zero => rfl
  | succ n => simp [Dev.caskDrain, h]

/-- What the words that a producer holds keep as they enter the cask. -/
theorem caskDrain_keeps {P : Dev → Prop} (turn : ∀ {d : Dev} {w : CaskWord} {rest : List CaskWord}, (d.cask u k).wait = w :: rest →
    d.caskReady u k = true → P d → P ((d.setCask u k { d.cask u k with wait := rest }).caskPut u k w)) (n : Nat) (h : P d) :
    P (d.caskDrain u k n) := by
  induction n generalizing d with
  | zero => exact h
  | succ n ih =>
    unfold Dev.caskDrain
    dsimp only
    split
    · exact h
    · next w rest hw =>
      split_ifs with hr
      · exact ih (turn hw hr h)
      · exact h

theorem caskDrain_marker (n : Nat) : ((d.caskDrain u k n).cask u k).marker = (d.cask u k).marker := by
  refine caskDrain_keeps (P := fun e => (e.cask u k).marker = (d.cask u k).marker) (fun _ _ h => ?_) n rfl
  rw [caskPut_cask, setCask_cask]
  split_ifs <;> exact h

theorem caskDrain_next (n : Nat) : ((d.caskDrain u k n).cask u k).next = (d.cask u k).next := by
  refine caskDrain_keeps (P := fun e => (e.cask u k).next = (d.cask u k).next) (fun _ _ h => ?_) n rfl
  rw [caskPut_cask, setCask_cask]
  split_ifs <;> exact h

/-! ### A word read -/

/-- What of a word read reaches the consumer: one that its check bits cannot mend is poisoned and ends its item (R110, R111). -/
def readWord (w : CaskWord) (flaw : Flaw) : CaskWord := if flaw = .multiple && !w.psn then { w with fin := true, psn := true } else w

/-- The cask once the oldest word has been read (R98). -/
def Cask.pop (x : Cask) (depth : Nat) (w : CaskWord) (rest : List CaskWord) : Cask :=
  { x with words := rest, transit := x.transit + 1, rpos := (if x.rpos + 1 < depth then x.rpos + 1 else 0), out := some w }

/-- The word at `pos` that its check bits cannot mend is counted and located (R110). -/
def Dev.caskLocate (d : Dev) (u k pos : Nat) : Dev :=
  ((((d.wr F.CASK_ECC_PSN 1 u k).bump C.CASK_UNC_CNT u).wr F.CASK_PSN_LAST_VALID 1 u).wr F.CASK_PSN_LAST_CASK k u).wr F.CASK_PSN_LAST_WORD pos u

/-- What the check bits of a word at `pos` show is recorded (R109, R110). -/
def Dev.caskShow (d : Dev) (u k pos : Nat) : Flaw → Dev
  | .ok => d
  | .single =>
    let d := d.bump C.CASK_CORR_CNT u
    (d.when (d.rd F.CASK_ECC_CORR u k == 0xFFFF) fun d => d.wr F.CASK_ECC_CSAT 1 u k).satInc F.CASK_ECC_CORR 1 u k
  | .multiple =>
    (d.caskLocate u k pos).raise (if u = 4 then 516 else pipeEvent u 5) (2 ^ 31 + k * 2 ^ 16 + pos % 2 ^ 12)

theorem caskGet_marker {flaw : Flaw} (h : (d.cask u k).marker = true) :
    d.caskGet u k flaw = (.flushed, d.setCask u k { d.cask u k with marker := false, out := none }) := by simp [Dev.caskGet, h]

theorem caskGet_empty {flaw : Flaw} (hm : (d.cask u k).marker = false) (hw : (d.cask u k).words = []) : d.caskGet u k flaw = (.nothing, d) := by
  simp [Dev.caskGet, hm, hw]

/-- The oldest word leaves the cask; the check bits of one that is not poisoned already are looked at. -/
theorem caskGet_word {flaw : Flaw} {rest : List CaskWord} (hm : (d.cask u k).marker = false) (hw : (d.cask u k).words = w :: rest) :
    (d.caskGet u k flaw).2 = (d.putCask u k ((d.cask u k).pop (d.caskDepth u k) (readWord w flaw) rest)).caskShow u k (d.cask u k).rpos
      (if w.psn then .ok else flaw) := by
  have raised : ∀ (e : Dev) syn, (if u = 4 then e.raise 516 syn else e.raiseP u 5 syn) = e.raise (if u = 4 then 516 else pipeEvent u 5) syn :=
    fun e syn => by split_ifs <;> rfl
  unfold Dev.caskGet
  dsimp only
  rw [if_neg (by simp [hm]), hw]
  dsimp only
  cases hp : w.psn with
  | true => simp [hp, readWord, Cask.pop, Dev.caskShow]
  | false =>
    cases flaw with
    | ok => rfl
    | single => rfl
    | multiple => simp [hp, readWord, Cask.pop, Dev.caskShow, Dev.caskLocate, raised]

/-- The registers that record what the check bits of a word show (R109, R110). -/
def caskCheckRegs : List RegId :=
  [.CASK_ECC, .CASK_CORR_CNT_LO, .CASK_CORR_CNT_HI, .CASK_UNC_CNT_LO, .CASK_UNC_CNT_HI, .CASK_PSN_LAST]

section

variable {P : Dev → Prop} (reg : ∀ {d : Dev} {g : Fld} {v p i j : Nat}, g.reg ∈ caskCheckRegs → P d → P (d.wr g v p i j))
include reg

theorem caskCount_keeps {c : Cnt} (hc : ∀ g ∈ [c.lo, c.hi, c.sat], g.reg ∈ caskCheckRegs) (h : P d) : P (d.bump c u) :=
  bumpBy_keeps (fun {_ g _} hg => reg (hc g hg)) h

theorem caskLocate_keeps {pos : Nat} (h : P d) : P (d.caskLocate u k pos) :=
  reg (by decide) (reg (by decide) (reg (by decide) (caskCount_keeps reg (by decide) (reg (by decide) h))))

/-- What stands whatever the check bits show. -/
theorem caskShow_keeps {pos : Nat} (raise : ∀ {d : Dev} (e syn : Nat), P d → P (d.raise e syn)) (flaw : Flaw) (h : P d) :
    P (d.caskShow u k pos flaw) := by
  cases flaw with
  | ok => exact h
  | single => exact reg (by decide) (when_keeps _ (reg (by decide)) (caskCount_keeps reg (by decide) h))
  | multiple => exact raise _ _ (caskLocate_keeps reg h)

end

theorem caskShow_cask {pos : Nat} (flaw : Flaw) : (d.caskShow u k pos flaw).cask u k = d.cask u k :=
  caskShow_keeps (P := fun e => e.cask u k = d.cask u k) (fun _ h => h) (fun e syn h => (raise_cask e syn).trans h) flaw rfl

theorem caskShow_rd {pos : Nat} (hf : f.reg ∉ RegId.QDL_PEER :: caskCheckRegs) (flaw : Flaw) :
    (d.caskShow u k pos flaw).rd f p i j = d.rd f p i j := by
  simp only [List.mem_cons, not_or] at hf
  obtain ⟨hq, hc⟩ := hf
  exact caskShow_keeps (P := fun e => e.rd f p i j = d.rd f p i j) (fun hg h => (rd_wr_of_mem hc hg).trans h)
    (fun _ _ h => (raise_rd _ _ _ _ _ _ _ hq).trans h) flaw rfl

/-- What a word beyond correction leaves on record (R110). -/
theorem caskShow_multiple {pos : Nat} (hk : k < 2 ^ 7) : (d.caskShow u k pos .multiple).on F.CASK_ECC_PSN u k = true ∧
    (d.caskShow u k pos .multiple).rd F.CASK_PSN_LAST_CASK u = k ∧ (d.hub.lost = false →
      Raised (d.caskShow u k pos .multiple) (if u = 4 then 516 else pipeEvent u 5) (2 ^ 31 + k * 2 ^ 16 + pos % 2 ^ 12)) := by
  refine ⟨on_of_rd (raise_rd _ _ _ _ _ _ _ (by decide)) |>.trans ?_, (raise_rd _ _ _ _ _ _ _ (by decide)).trans ?_,
    fun hl => raised_of_raise (caskLocate_keeps (P := fun e => e.hub.lost = false) (fun _ h => h) hl) _ _⟩
  · have hp : (d.caskLocate u k pos).rd F.CASK_ECC_PSN u k = (d.wr F.CASK_ECC_PSN 1 u k).rd F.CASK_ECC_PSN u k :=
      (rd_wr_of_reg (by decide)).trans ((rd_wr_of_reg (by decide)).trans ((rd_wr_of_reg (by decide)).trans (bumpBy_rd (by decide))))
    exact (on_of_rd hp).trans (on_wrb (b := true) rfl)
  · exact (rd_wr_of_lo (by decide)).trans (rd_wr_of_lt hk)

/-! ### Credits (R98) -/

/-- The credits, the words and the credits on their way back, which together are the cask's depth. -/
def Dev.caskSum (d : Dev) (u k : Nat) : Nat := d.rd F.CASK_STAT_CREDITS u k + (d.cask u k).words.length + (d.cask u k).transit

/-- A credit used stands for the word stored, or is on its way back with the word discarded. -/
theorem caskPut_sum (hc : 0 < d.rd F.CASK_STAT_CREDITS u k) (hs : d.caskSum u k < 2 ^ 13) : (d.caskPut u k w).caskSum u k = d.caskSum u k := by
  unfold Dev.caskSum at *
  rw [caskPut_credits, caskPut_cask]
  split_ifs
  · simp only [Cask.drop]
    omega
  · simp only [Cask.push, List.length_append, List.length_cons, List.length_nil]
    omega

theorem caskReady_credit (h : d.caskReady u k = true) : 0 < d.rd F.CASK_STAT_CREDITS u k := by
  simp only [Dev.caskReady, Bool.and_eq_true, decide_eq_true_eq] at h
  exact h.1.2

theorem caskDrain_sum {n m : Nat} (hm : m < 2 ^ 13) (h : d.caskSum u k = m) : (d.caskDrain u k n).caskSum u k = m := by
  refine caskDrain_keeps (P := fun e => e.caskSum u k = m) (fun {e w rest} _ hr he => ?_) n h
  have hs : (e.setCask u k { e.cask u k with wait := rest }).caskSum u k = m := by
    rw [Dev.caskSum, setCask_cask, setCask_rd]
    exact he
  rw [caskPut_sum (by rw [setCask_rd]; exact caskReady_credit hr) (by omega), hs]

/-- A read moves a word's credit on its way. -/
theorem caskGet_sum (flaw : Flaw) : (d.caskGet u k flaw).2.caskSum u k = d.caskSum u k := by
  cases hm : (d.cask u k).marker with
  | true =>
    rw [caskGet_marker hm, Dev.caskSum, setCask_cask, setCask_rd]
    rfl
  | false =>
    cases hw : (d.cask u k).words with
    | nil => rw [caskGet_empty hm hw]
    | cons w rest =>
      rw [caskGet_word hm hw, Dev.caskSum, caskShow_cask, caskShow_rd (by decide), putCask_rd (by decide), putCask_cask, Dev.caskSum, hw]
      simp only [Cask.pop, List.length_cons]
      omega

/-- The cask with a credit less on its way back. -/
def Cask.credited (x : Cask) : Cask := { x with transit := x.transit - 1 }

/-- A credit that reaches the producer is counted, and the next word it holds enters the cask. -/
theorem caskCredit_form (h : 0 < (d.cask u k).transit) :
    ∃ e : Dev, d.caskCredit u k = e.caskDrain u k 1 ∧ e.cask u k = (d.cask u k).credited ∧
      e.rd F.CASK_STAT_CREDITS u k = (d.rd F.CASK_STAT_CREDITS u k + 1) % 2 ^ 13 := by
  unfold Dev.caskCredit
  rw [if_pos h]
  exact ⟨_, rfl, setCask_cask .., Dev.rd_wr ..⟩

theorem caskCredit_idle (h : (d.cask u k).transit = 0) : d.caskCredit u k = d := by simp [Dev.caskCredit, h]

theorem caskCredit_sum (hs : d.caskSum u k < 2 ^ 13) : (d.caskCredit u k).caskSum u k = d.caskSum u k := by
  cases Nat.eq_zero_or_pos (d.cask u k).transit with
  | inl h0 => rw [caskCredit_idle h0]
  | inr hpos =>
    obtain ⟨e, he, hcask, hcred⟩ := caskCredit_form hpos
    rw [he]
    refine caskDrain_sum hs ?_
    unfold Dev.caskSum at *
    rw [hcask, hcred, Cask.credited]
    dsimp only
    omega

end Sys2Proof.Machine
end

section
/-!
The commands of a cask (R95 to R114), and that its credits add up (R98).
-/
namespace Sys2Proof.Machine

variable {s : State} {d : Dev} {f : Fld} {v p i j u k ep : Nat} {x : Cask} {w : CaskWord}

/-! ### Consumers and producers -/

/-- A consumer of the Hub takes its data as operands of its own commands. -/
theorem caskConsume_hub (x : Delivered) : d.caskConsume 4 k ep x = d := rfl

theorem tileHeld_hub : d.tileHeld 4 ep = false := rfl

/-- Only a port of the Trellis as producer has tokens to move on. -/
theorem caskCredit_prod : (d.caskCredit u k).rd F.CASK_BIND_PROD u k = d.rd F.CASK_BIND_PROD u k := by
  cases Nat.eq_zero_or_pos (d.cask u k).transit with
  | inl h0 => rw [caskCredit_idle h0]
  | inr hpos =>
    unfold Dev.caskCredit
    rw [if_pos hpos]
    refine (caskKeeps_rd (f := F.CASK_BIND_PROD) (by decide)).caskDrain ?_ u k 1
    exact (rd_wr_of_reg (by decide)).trans setCask_rd

@[simp] theorem settle_caskSum : (settle d).caskSum u k = d.caskSum u k := rfl

/-- Settles O17: each of the three moves one of the sum's credits, if any, from one of its terms to another. -/
theorem caskCredits : Obligations.CaskCredits := by
  unfold Obligations.CaskCredits
  intro s u k n ha hk hn hs
  have hok := decide_eq_true hk
  have hsum : s.dev.caskSum u k = n := hs
  refine ⟨fun ep w => does_of_runIf ha hok rfl ?_, fun ep flaw hu => ?_, fun hp => does_of_runIf ha hok rfl ?_⟩
  · change Dev.caskSum _ u k = n
    rw [settle_caskSum]
    split_ifs with h
    · rw [Bool.and_eq_true] at h
      rw [caskPut_sum (caskReady_credit h.2) (hsum ▸ hn), hsum]
    · exact hsum
  · subst hu
    refine does_of_runIf ha hok rfl ?_
    change Dev.caskSum _ 4 k = n
    rw [settle_caskSum]
    split_ifs
    · exact (caskGet_sum flaw).trans hsum
    · exact hsum
  · change Dev.caskSum _ u k = n
    rw [settle_caskSum]
    dsimp only
    rw [caskCredit_prod, if_neg (fun h => hp h.2)]
    exact (caskCredit_sum (hsum ▸ hn)).trans hsum

end Sys2Proof.Machine
end

section
/-!
The commands of a cask (R95 to R114): the tail timeout, the flush and the switch of a configuration at a seam.
-/
namespace Sys2Proof.Machine

variable {s : State} {d : Dev} {f : Fld} {v p i j u k ep : Nat} {x : Cask} {w : CaskWord}

/-! ### Words of the loader -/

/-- A register written by the loader holds its word in each of the loader's fields (R10, R192). -/
theorem wrCv_rd {l : RegLoc} {w : Nat} (hf : f ∈ l.reg.info.flds) (hc : f.acc = .cv ∨ f.acc = .cvrw) :
    (d.wrCv l w).rd f l.p l.i l.j = slice w f.hi f.lo := by
  refine foldl_turn (P := fun _ => True) (Q := fun e => e.rd f l.p l.i l.j = slice w f.hi f.lo) hf (lo_nodup l.reg).of_map
    (fun _ _ _ _ _ => trivial) (fun e _ => ?_) (fun e g hg hne h => ?_) trivial
  · rw [if_pos (by simpa using hc)]
    exact rd_wr_of_lt (slice_lt ..)
  · split_ifs
    · exact (rd_wr_of_lo fun e => hne (List.inj_on_of_nodup_map (lo_nodup l.reg) hg hf e.symm)).trans h
    · exact h

theorem wrCv_rd_reg {l : RegLoc} {w : Nat} (h : f.reg ≠ l.reg) : (d.wrCv l w).rd f p i j = d.rd f p i j := by
  refine foldl_keeps (P := fun e => e.rd f p i j = d.rd f p i j) _ (fun e g hg he => ?_) rfl
  split_ifs
  · exact (rd_wr_of_reg fun e => h (e.trans (reg_of_mem hg))).trans he
  · exact he

/-! ### The tail timeout (R103) -/

theorem tailLast_getLast (ws : List CaskWord) : (tailLast ws).getLast? = ws.getLast?.map fun w => { w with tail := true } := by
  induction ws with
  | nil => rfl
  | cons a t ih =>
    cases t with
    | nil => rfl
    | cons b t =>
      have hne : tailLast (b :: t) ≠ [] := by cases t <;> simp [tailLast]
      obtain ⟨c, l, hcl⟩ := List.exists_cons_of_ne_nil hne
      rw [tailLast, hcl, List.getLast?_cons_cons, ← hcl, ih, List.getLast?_cons_cons]
      simp

/-- A word with TAIL closes its cask (R101). -/
theorem tailLast_closed (x : Cask) : ({ x with words := tailLast x.words } : Cask).isOpen = false := by
  unfold Cask.isOpen
  dsimp only
  rw [tailLast_getLast]
  cases x.words.getLast? <;> simp

/-- The timeout is told where TEVT asks for it (R103). -/
def Dev.caskTimeout (d : Dev) (u k : Nat) : Dev :=
  (d.putCask u k { d.cask u k with words := tailLast (d.cask u k).words }).when (d.on F.CASK_TTO_TEVT u k) fun d =>
    d.raise (if u = 4 then 517 else pipeEvent u 6) 0

theorem exec_tailTimeout {u : Unit5} {k : Fin 128} (ha : s.awake) (hk : k.val < caskCount u) (ho : (s.dev.cask u k).isOpen = true)
    (ht : s.dev.caskTimerOn u k = true) : exec (.caskTailTimeout u k) s = .next (s.after (s.dev.caskTimeout u k)) := by
  refine exec_of_runIf ha (decide_eq_true hk) rfl ?_
  dsimp only
  rw [if_pos (by simp [ho, ht]), on_of_rd (putCask_rd (by decide)), Dev.caskTimeout]
  congr 1
  funext e
  split_ifs <;> rfl

theorem caskTimeout_effect : ((d.caskTimeout u k).cask u k).words = tailLast (d.cask u k).words ∧
    (d.caskTimeout u k).on F.CASK_STAT_OPEN u k = false ∧ (d.on F.CASK_TTO_TEVT u k = true → d.hub.lost = false →
      Raised (d.caskTimeout u k) (if u = 4 then 517 else pipeEvent u 6) 0) := by
  have kept : ∀ {P : Dev → Prop}, (∀ {d : Dev} (e syn : Nat), P d → P (d.raise e syn)) →
      P (d.putCask u k { d.cask u k with words := tailLast (d.cask u k).words }) → P (d.caskTimeout u k) :=
    fun raise h => when_keeps _ (raise _ _) h
  refine ⟨kept (P := fun e => (e.cask u k).words = _) (fun e syn h => (congrArg _ (raise_cask e syn)).trans h)
    (congrArg _ (putCask_cask ..)), kept (P := fun e => e.on F.CASK_STAT_OPEN u k = false)
    (fun _ _ h => (on_of_rd (raise_rd _ _ _ _ _ _ _ (by decide))).trans h) (putCask_open.trans (tailLast_closed _)), fun hte hl => ?_⟩
  rw [Dev.caskTimeout, hte]
  refine raised_of_raise ?_ _ _
  exact encKeeps_lost.toCask.putCask hl u k _

/-! ### The flush (R105, R106) -/

/-- The cask with its words discarded and a marker waiting. -/
def Cask.flushed (x : Cask) : Cask := { x with words := [], marker := true, transit := 0 }

/-- The flush before the producer's words enter again. -/
def Dev.caskEmpty (d : Dev) (u k : Nat) : Dev :=
  ((d.putCask u k (d.cask u k).flushed).wr F.CASK_STAT_CREDITS (d.caskDepth u k) u k).wrb F.CASK_STAT_DISCARD
    ((d.cask u k).isOpen || d.on F.CASK_STAT_DISCARD u k) u k

theorem caskFlush_eq (h : d.on F.CASK_CFG_EN u k = true) :
    d.caskFlush u k = (d.caskEmpty u k).caskDrain u k (d.cask u k).wait.length := by
  have hd : (d.putCask u k (d.cask u k).flushed).caskDepth u k = d.caskDepth u k := congrArg (16 * ·) (putCask_rd (by decide))
  unfold Dev.caskFlush Dev.caskEmpty
  rw [if_pos h, ← hd]
  rfl

theorem caskEmpty_cask : (d.caskEmpty u k).cask u k = (d.cask u k).flushed := putCask_cask ..

theorem caskEmpty_effect : (d.caskEmpty u k).rd F.CASK_STAT_CREDITS u k = d.caskDepth u k % 2 ^ 13 ∧
    (d.caskEmpty u k).rd F.CASK_STAT_LEVEL u k = 0 ∧
    (d.caskEmpty u k).on F.CASK_STAT_DISCARD u k = ((d.cask u k).isOpen || d.on F.CASK_STAT_DISCARD u k) :=
  ⟨(rd_wr_of_lo (by decide)).trans (Dev.rd_wr ..),
    (rd_wr_of_lo (by decide)).trans ((rd_wr_of_lo (by decide)).trans putCask_level), on_wrb rfl⟩

theorem caskHostFlush_eq (h : isTakeCask u k = false ∨ d.on F.PCTL_STAT_TAKE u = false) : d.caskHostFlush u k = d.caskFlush u k :=
  if_neg (by rcases h with h | h <;> simp [h])

theorem caskHostFlush_idle (h : isTakeCask u k = true ∧ d.on F.PCTL_STAT_TAKE u = true ∨ d.on F.CASK_CFG_EN u k = false) :
    d.caskHostFlush u k = d := by
  unfold Dev.caskHostFlush Dev.caskFlush
  rcases h with ⟨ht, ho⟩ | he
  · simp [ht, ho]
  · simp [he]

/-! ### A configuration taken at the seam (R114) -/

/-- The registers of a cask take the configuration that waited. -/
def Dev.caskConfig (d : Dev) (u k : Nat) (n : CaskNext) : Dev :=
  ((d.wrCv ⟨.CASK_CFG, u, k, 0⟩ n.cfg).wrCv ⟨.CASK_BIND, u, k, 0⟩ n.bind).wrCv ⟨.CASK_TTO, u, k, 0⟩ n.tto

theorem slice_eq_bit (v i : Nat) : (slice v i i == 1) = bit v i := by simp [slice, bit]

theorem caskConfig_effect (d : Dev) (u k : Nat) (n : CaskNext) : (d.caskConfig u k n).on F.CASK_CFG_EN u k = bit n.cfg 31 ∧
    (d.caskConfig u k n).rd F.CASK_CFG_DEPTH u k = slice n.cfg 8 0 ∧ (d.caskConfig u k n).rd F.CASK_BIND_PROD u k = slice n.bind 15 0 ∧
    (d.caskConfig u k n).rd F.CASK_BIND_CONS u k = slice n.bind 31 16 := by
  have cfg : ∀ {f : Fld}, f.reg = .CASK_CFG → f ∈ RegId.CASK_CFG.info.flds → f.acc = .cv → (d.caskConfig u k n).rd f u k = slice n.cfg f.hi f.lo :=
    fun hr hm hc => (wrCv_rd_reg (by simp [hr])).trans ((wrCv_rd_reg (by simp [hr])).trans
      (wrCv_rd (l := ⟨.CASK_CFG, u, k, 0⟩) hm (.inl hc)))
  have bind : ∀ {f : Fld}, f.reg = .CASK_BIND → f ∈ RegId.CASK_BIND.info.flds → f.acc = .cv → (d.caskConfig u k n).rd f u k = slice n.bind f.hi f.lo :=
    fun hr hm hc => (wrCv_rd_reg (by simp [hr])).trans (wrCv_rd (l := ⟨.CASK_BIND, u, k, 0⟩) hm (.inl hc))
  exact ⟨(congrArg (· == 1) (cfg rfl (by decide) rfl)).trans (slice_eq_bit n.cfg 31), cfg rfl (by decide) rfl, bind rfl (by decide) rfl,
    bind rfl (by decide) rfl⟩

theorem caskAlloc_rd {p' i' j' : Nat} (h : f.reg ≠ .CASK_GSTAT) : (d.caskAlloc u).rd f p' i' j' = d.rd f p' i' j' := by
  unfold Dev.caskAlloc
  dsimp only
  split_ifs
  · exact rd_wr_of_reg h
  · exact (rd_wr_of_reg h).trans (rd_wr_of_reg h)

@[simp] theorem caskAlloc_cask : (d.caskAlloc u).cask u k = d.cask u k := by
  unfold Dev.caskAlloc
  dsimp only
  split_ifs <;> rfl

/-- The registers in which an enabled cask shows (R97). -/
theorem caskEnable_rd {p' i' j' : Nat} (hs : f.reg ≠ .CASK_STAT) (hg : f.reg ≠ .CASK_GSTAT) :
    (d.caskEnable u k).rd f p' i' j' = d.rd f p' i' j' := by
  have stat : ∀ {e : Dev} {g : Fld} {n : Nat}, g.reg = .CASK_STAT → (e.wr g n u k).rd f p' i' j' = e.rd f p' i' j' :=
    fun h => rd_wr_of_reg (h ▸ hs)
  exact (caskAlloc_rd hg).trans ((stat rfl).trans ((stat rfl).trans ((stat rfl).trans (putCask_rd (.inl hs)))))

theorem caskEnable_cask : (d.caskEnable u k).cask u k = {} := caskAlloc_cask.trans (putCask_cask ..)

theorem caskEnable_credits : (d.caskEnable u k).rd F.CASK_STAT_CREDITS u k =
    (if d.on F.CASK_CFG_EN u k then d.caskDepth u k else 0) % 2 ^ 13 := by
  have hd : (((d.putCask u k {}).wrb F.CASK_STAT_EN (d.on F.CASK_CFG_EN u k) u k).wrb F.CASK_STAT_DISCARD false u k).caskDepth u k =
      d.caskDepth u k :=
    congrArg (16 * ·) ((rd_wr_of_reg (by decide)).trans ((rd_wr_of_reg (by decide)).trans (putCask_rd (by decide))))
  unfold Dev.caskEnable
  dsimp only
  rw [hd, caskAlloc_rd (by decide)]
  exact Dev.rd_wr ..

/-- The configuration is taken once the cask is empty, and the words that waited enter. -/
theorem caskSwitch_eq {n : CaskNext} (hn : (d.cask u k).next = some n) (hw : (d.cask u k).words = []) :
    d.caskSwitch u k = ((d.caskConfig u k n).caskEnable u k).caskWait u k (d.cask u k).wait := by
  unfold Dev.caskSwitch
  rw [hn]
  dsimp only
  rw [if_pos (by simp [hw])]
  rfl

theorem caskSwitch_idle (h : (d.cask u k).next = none ∨ (d.cask u k).words ≠ []) : d.caskSwitch u k = d := by
  unfold Dev.caskSwitch
  split
  · next n hn => exact if_neg (by simpa using h.resolve_left (by simp [hn]))
  · rfl

theorem caskWait_nil (h : (d.cask u k).wait = []) : (d.caskWait u k []).cask u k = d.cask u k := by
  unfold Dev.caskWait
  dsimp only
  rw [caskDrain_of_wait_nil (by simp [h]), setCask_cask, List.append_nil]

theorem caskWait_rd (hf : f.reg ≠ .CASK_STAT) (ws : List CaskWord) : (d.caskWait u k ws).rd f p i j = d.rd f p i j :=
  (caskKeeps_rd hf).caskDrain setCask_rd u k _

theorem caskWait_next (ws : List CaskWord) : ((d.caskWait u k ws).cask u k).next = (d.cask u k).next := by
  unfold Dev.caskWait
  dsimp only
  rw [caskDrain_next, setCask_cask]

end Sys2Proof.Machine
end

section
/-!
What each command of a cask leaves (R95 to R114).
-/
namespace Sys2Proof.Machine

variable {s : State} {d : Dev} {u k ep : Nat} {w : CaskWord}

/-! ### A section that completes (R210) -/

/-- The registers in which the loader and the Veraison units it held show the end of a section or of the job. -/
def cuvEndRegs : List RegId := [.CUVL_GEN, .CUVL_STAT, .CUVL_ERR, .CUVL_ERR_DET, .VRS_BANK_STAT]

/-- The property stands whatever the end of a section changes. -/
def CuvEndKeeps (P : Dev → Prop) : Prop :=
  (∀ {d : Dev} {g : Fld} {v p i j : Nat}, g.reg ∈ cuvEndRegs → P d → P (d.wr g v p i j)) ∧
    (∀ {d : Dev} (g : Cuvl → Cuvl), P d → P (d.updCuvl g)) ∧ (∀ {d : Dev} {p : Nat} (g : Trl → Trl), P d → P (d.updTrl p g)) ∧
    (∀ {d : Dev} {p u : Nat} (y : VrsUnit), P d → P (d.putVru p u y)) ∧ (∀ {d : Dev}, P d → P d.draw.2) ∧
    ∀ {d : Dev} (e syn : Nat), P d → P (d.raise e syn)

namespace CuvEndKeeps

variable {P : Dev → Prop} (c : CuvEndKeeps P)
include c

theorem vrsUnstage (h : P d) (p u : Nat) : P (d.vrsUnstage p u) := by
  obtain ⟨reg, -, -, vru, -, -⟩ := c
  unfold Dev.vrsUnstage
  dsimp only
  split
  · exact reg (by decide) (reg (by decide) (reg (by decide) (vru _ h)))
  · exact h

theorem cuvDiscard (h : P d) : P d.cuvDiscard := by
  obtain ⟨-, cuvl, trl, -, -, -⟩ := id c
  unfold Dev.cuvDiscard
  extract_lets d₁ d₂
  have h₁ : P d₁ := foldl_keeps _ (fun _ _ _ h => trl _ h) h
  exact cuvl _ (foldl_keeps _ (fun _ x _ h => c.vrsUnstage h x.1 x.2) h₁)

theorem cuvFail (h : P d) (e : CuvErr) : P (d.cuvFail e) := by
  obtain ⟨reg, -, -, -, draw, raise⟩ := id c
  have failed : ∀ {d : Dev} (det : Nat), P d → P (((((((d.wr F.CUVL_ERR_CODE e.code).wr F.CUVL_ERR_SECTION e.sect).wr F.CUVL_ERR_WORD e.word).wr
      F.CUVL_ERR_DET_DETAIL det).wr F.CUVL_STAT_STATE 6).raise 529 e.code)) := fun _ h =>
    raise _ _ (reg (by decide) (reg (by decide) (reg (by decide) (reg (by decide) (reg (by decide) h)))))
  unfold Dev.cuvFail
  dsimp only
  cases e.det with
  | some v => exact failed _ (c.cuvDiscard h)
  | none => exact failed _ (draw (c.cuvDiscard h))

theorem cuvFinish (h : P d) : P d.cuvFinish := by
  obtain ⟨reg, cuvl, -, -, -, raise⟩ := id c
  unfold Dev.cuvFinish
  split_ifs
  · split
    · exact c.cuvFail h _
    · exact raise _ _ (reg (by decide) (cuvl _ h))
  · exact h

theorem sectDone (h : P d) (p : Nat) : P (d.sectDone p) := by
  obtain ⟨reg, cuvl, -, -, -, -⟩ := id c
  unfold Dev.sectDone
  dsimp only
  split
  · split_ifs
    · exact h
    · exact c.cuvFinish (cuvl _ (reg (by decide) (reg (by decide) (reg (by decide) (reg (by decide) h)))))
  · exact h

end CuvEndKeeps

theorem cuvEndKeeps_rd {f : Fld} {v p i j : Nat} (hf : f.reg ∉ RegId.QDL_PEER :: cuvEndRegs) : CuvEndKeeps fun d => d.rd f p i j = v := by
  simp only [List.mem_cons, not_or] at hf
  obtain ⟨hq, hc⟩ := hf
  exact ⟨fun hg h => (rd_wr_of_mem (by simpa using hc) hg).trans h, fun _ h => h, fun _ h => h, fun _ h => h, fun h => h,
    fun _ _ h => (raise_rd _ _ _ _ _ _ _ hq).trans h⟩

theorem cask_updPipe {d : Dev} {p : Nat} (g : PipeSt → PipeSt) (hg : ∀ x, (g x).casks = x.casks) : (d.updPipe p g).cask u k = d.cask u k := by
  simp only [Dev.cask, Dev.updPipe_hub, updPipe_part (·.casks) hg]

theorem cuvEndKeeps_cask (x : Cask) : CuvEndKeeps fun d => d.cask u k = x :=
  ⟨fun _ h => h, fun _ h => h, fun g h => (cask_updPipe (fun s => { s with trl := g s.trl }) fun _ => rfl).trans h,
    fun {_ _ w} y h => (cask_updPipe (fun s => { s with vrs := Tab.set {} s.vrs w y }) fun _ => rfl).trans h, fun h => h,
    fun e syn h => (raise_cask e syn).trans h⟩

/-- The switch at the seam may complete the section of its pipe; the cask and its registers are as the switch leaves them. -/
theorem caskSeam_same (d : Dev) (u k : Nat) : (d.caskSeam u k).cask u k = (d.caskSwitch u k).cask u k ∧
    ∀ f p i j, f.reg ∉ RegId.QDL_PEER :: cuvEndRegs → (d.caskSeam u k).rd f p i j = (d.caskSwitch u k).rd f p i j := by
  unfold Dev.caskSeam
  dsimp only
  split_ifs
  · exact ⟨(cuvEndKeeps_cask _).sectDone rfl u, fun f p i j hf => (cuvEndKeeps_rd hf).sectDone rfl u⟩
  · exact ⟨rfl, fun _ _ _ _ _ => rfl⟩

/-! ### The commands -/

theorem exec_caskWrite {u : Unit5} {k : Fin 128} (ha : s.awake) (hk : k.val < caskCount u) (hp : s.dev.caskProd u k ep = true)
    (hr : s.dev.caskReady u k = true) : exec (.caskWrite u k ep w) s = .next (s.after (s.dev.caskPut u k w)) :=
  exec_of_runIf ha (decide_eq_true hk) rfl (if_pos (by simp [hp, hr]))

/-- A consumer that is bound, enabled and not held in reset reads. -/
theorem exec_caskRead {u : Unit5} {k : Fin 128} {flaw : Flaw} (ha : s.awake) (hk : k.val < caskCount u) (hc : s.dev.caskCons u k ep = true)
    (ht : s.dev.tileHeld u ep = false) (he : s.dev.on F.CASK_CFG_EN u k = true) : exec (.caskRead u k ep flaw) s =
      .next (s.after ((s.dev.caskGet u k flaw).2.caskConsume u k ep (s.dev.caskGet u k flaw).1)) :=
  exec_of_runIf ha (decide_eq_true hk) rfl (if_pos (by simp [hc, ht, he]))

theorem exec_caskRead_hub {u : Unit5} {k : Fin 128} {flaw : Flaw} (ha : s.awake) (hk : k.val < caskCount u) (hu : u = 4)
    (hc : s.dev.caskCons u k ep = true) (he : s.dev.on F.CASK_CFG_EN u k = true) :
    exec (.caskRead u k ep flaw) s = .next (s.after (s.dev.caskGet u k flaw).2) := by
  subst hu
  exact exec_caskRead ha hk hc tileHeld_hub he

theorem caskCredit_effect (h : 0 < (d.cask u k).transit) (hw : (d.cask u k).wait = []) :
    (d.caskCredit u k).cask u k = (d.cask u k).credited ∧
      (d.caskCredit u k).rd F.CASK_STAT_CREDITS u k = (d.rd F.CASK_STAT_CREDITS u k + 1) % 2 ^ 13 := by
  obtain ⟨e, he, hcask, hcred⟩ := caskCredit_form h
  rw [he, caskDrain_of_wait_nil (by rw [hcask]; exact hw)]
  exact ⟨hcask, hcred⟩

/-- What a flush leaves (R105, R106). -/
theorem caskFlush_effect (he : d.on F.CASK_CFG_EN u k = true) : ((d.caskFlush u k).cask u k).marker = true ∧
    ((d.cask u k).wait = [] → ((d.caskFlush u k).cask u k).words = [] ∧ ((d.caskFlush u k).cask u k).transit = 0 ∧
      (d.caskFlush u k).rd F.CASK_STAT_CREDITS u k = d.caskDepth u k % 2 ^ 13 ∧ (d.caskFlush u k).rd F.CASK_STAT_LEVEL u k = 0 ∧
      (d.caskFlush u k).on F.CASK_STAT_DISCARD u k = ((d.cask u k).isOpen || d.on F.CASK_STAT_DISCARD u k)) := by
  rw [caskFlush_eq he]
  refine ⟨by rw [caskDrain_marker, caskEmpty_cask, Cask.flushed], fun hw => ?_⟩
  rw [caskDrain_of_wait_nil (by rw [caskEmpty_cask]; exact hw), caskEmpty_cask]
  exact ⟨rfl, rfl, caskEmpty_effect⟩

/-- What the switch of a configuration leaves (R114). -/
theorem caskSwitch_effect {n : CaskNext} (hn : (d.cask u k).next = some n) (hw : (d.cask u k).words = []) :
    ((d.caskSwitch u k).cask u k).next = none ∧ (d.caskSwitch u k).on F.CASK_CFG_EN u k = bit n.cfg 31 ∧
      (d.caskSwitch u k).rd F.CASK_CFG_DEPTH u k = slice n.cfg 8 0 ∧ (d.caskSwitch u k).rd F.CASK_BIND_PROD u k = slice n.bind 15 0 ∧
      (d.caskSwitch u k).rd F.CASK_BIND_CONS u k = slice n.bind 31 16 ∧
      ((d.cask u k).wait = [] → ((d.caskSwitch u k).cask u k).words = [] ∧ ((d.caskSwitch u k).cask u k).marker = false ∧
        (d.caskSwitch u k).rd F.CASK_STAT_CREDITS u k = (if bit n.cfg 31 then 16 * slice n.cfg 8 0 else 0)) := by
  obtain ⟨hen, hdepth, hprod, hcons⟩ := caskConfig_effect d u k n
  have kept : ∀ {f : Fld}, f.reg ≠ .CASK_STAT → f.reg ≠ .CASK_GSTAT →
      (d.caskSwitch u k).rd f u k = (d.caskConfig u k n).rd f u k := fun hs hg => by
    rw [caskSwitch_eq hn hw, caskWait_rd hs, caskEnable_rd hs hg]
  refine ⟨?_, (on_of_rd (kept (by decide) (by decide))).trans hen, (kept (by decide) (by decide)).trans hdepth,
    (kept (by decide) (by decide)).trans hprod, (kept (by decide) (by decide)).trans hcons, fun hwait => ?_⟩
  · rw [caskSwitch_eq hn hw, caskWait_next, caskEnable_cask]
  · have he : ((d.caskConfig u k n).caskEnable u k).caskWait u k [] = ((d.caskConfig u k n).caskEnable u k).setCask u k {} := by
      simp [Dev.caskWait, Dev.caskDrain, caskEnable_cask]
    rw [caskSwitch_eq hn hw, hwait, he, setCask_cask, setCask_rd, caskEnable_credits, hen, Dev.caskDepth, hdepth]
    have hlt := slice_lt n.cfg 8 0
    refine ⟨rfl, rfl, Nat.mod_eq_of_lt ?_⟩
    split_ifs <;> omega

theorem caskSeam_idle (h : (d.cask u k).next = none ∨ (d.cask u k).words ≠ []) : d.caskSeam u k = d := by
  unfold Dev.caskSeam
  rw [caskSwitch_idle h]
  exact if_neg (by cases (d.cask u k).next <;> simp)

/-- Settles O16: each command is the operation above whose conditions it meets, and otherwise leaves the device as it is. -/
theorem caskWords : Obligations.CaskWords := by
  unfold Obligations.CaskWords
  intro s u k ha hk
  have hok := decide_eq_true hk
  have idle : ∀ {c : Instr} {f : Dev → Dev}, exec c s = runIf (decide (k.val < caskCount u)) s f → f s.dev = s.dev →
      exec c s = .next (s.after s.dev) := fun e hf => exec_of_runIf ha hok e hf
  refine ⟨fun ep w hp hr hd => ⟨_, exec_caskWrite ha hk hp hr, ?_⟩, fun ep w hp hr hd => ⟨_, exec_caskWrite ha hk hp hr, ?_⟩,
    fun ep w h => idle rfl (if_neg (by rcases h with h | h <;> simp [h])),
    fun ep flaw hc ht he => exec_caskRead ha hk hc ht he, fun ep flaw hu hc he hm => ?_, fun ep w rest hu hc he hm hw => ?_,
    fun ep flaw h => idle rfl (if_neg (by rcases h with h | h | h <;> simp [h])),
    fun ht hw hp => does_of_runIf ha hok rfl ?_, fun hu hp => exec_of_runIf ha hok rfl ?_,
    fun ho ht => ⟨_, exec_tailTimeout ha hk ho ht, caskTimeout_effect⟩,
    fun h => idle rfl (if_neg (by rcases h with h | h <;> simp [h])),
    fun hr ht he => does_of_bar2If ha hok hr rfl ?_, fun hr h => exec_of_bar2If ha hok hr rfl (caskHostFlush_idle h),
    fun n hn hw => does_of_runIf ha hok rfl ?_, fun h => idle rfl (caskSeam_idle h)⟩
  · dsimp only
    rw [settle_cask, settle_rd, settle_on, caskPut_cask, if_neg (by simp [hd])]
    exact ⟨rfl, caskPut_credits, caskPut_open hd⟩
  · dsimp only
    rw [settle_cask, settle_on, caskPut_cask, if_pos hd]
    exact ⟨rfl, caskPut_discard hd⟩
  · refine ⟨_, exec_caskRead_hub ha hk hu hc he, ?_⟩
    dsimp only
    rw [settle_cask, caskGet_marker hm]
    exact setCask_cask ..
  · refine ⟨⟨_, exec_caskRead_hub ha hk hu hc he, ?_⟩, fun hp => ⟨_, exec_caskRead_hub ha hk hu hc he, ?_⟩⟩
    · dsimp only
      rw [settle_cask, caskGet_word hm hw, caskShow_cask, putCask_cask]
      exact ⟨rfl, rfl, by simp [Cask.pop, readWord]⟩
    · have hflaw : (if w.psn then Flaw.ok else .multiple) = .multiple := by simp [hp]
      dsimp only
      rw [settle_cask, settle_on, settle_rd, settle_raised, caskGet_word hm hw, hflaw, caskShow_cask]
      obtain ⟨hpsn, hcask, hev⟩ := caskShow_multiple
        (d := s.dev.putCask u k ((s.dev.cask u k).pop (s.dev.caskDepth u k) (readWord w .multiple) rest)) (u := u) (k := k)
        (pos := (s.dev.cask u k).rpos) k.isLt
      rw [if_pos (by rw [hu]; rfl)] at hev
      rw [putCask_cask]
      exact ⟨rfl, by simp [Cask.pop, readWord, hp], hpsn, hcask, fun hl => hev (encKeeps_lost.toCask.putCask hl u k _)⟩
  · dsimp only
    rw [caskCredit_prod, if_neg (fun h => hp h.2), settle_cask, settle_rd]
    obtain ⟨hcask, hcred⟩ := caskCredit_effect ht hw
    rw [hcask]
    exact ⟨rfl, hcred, rfl⟩
  · dsimp only
    rw [caskCredit_prod, if_pos ⟨hu, hp⟩]
  · rw [caskHostFlush_eq ht]
    exact caskFlush_effect he
  · obtain ⟨hcask, hrd⟩ := caskSeam_same s.dev u k
    simp only [settle_cask, settle_rd, settle_on, hcask, hrd F.CASK_CFG_DEPTH u k 0 (by decide), hrd F.CASK_BIND_PROD u k 0 (by decide),
      hrd F.CASK_BIND_CONS u k 0 (by decide), hrd F.CASK_STAT_CREDITS u k 0 (by decide), on_of_rd (hrd F.CASK_CFG_EN u k 0 (by decide))]
    exact caskSwitch_effect hn hw

end Sys2Proof.Machine
end

section
/-!
The racking engine's channels (R116 to R131): what a halt, a descriptor's end and a write-back leave.
-/
namespace Sys2Proof.Machine

variable {P : Dev → Prop} {s : State} {d : Dev} {f : Fld} {v p i j u c n status : Nat} {x : RackCh}

/-! ### A channel stored -/

@[simp] theorem putRch_rch (d : Dev) (u c : Nat) (x : RackCh) : (d.putRch u c x).rch u c = x := by
  unfold Dev.putRch Dev.updRack Dev.rch Dev.rack
  by_cases hu : u = 4 <;> simp [hu]

@[simp] theorem putRch_rd : (d.putRch u c x).rd f p i j = d.rd f p i j := updRack_rd u _

@[simp] theorem putRch_on : (d.putRch u c x).on f p i j = d.on f p i j := congrArg (· == 1) putRch_rd

@[simp] theorem putRch_rackState {u' c' : Nat} : (d.putRch u c x).rackState u' c' = d.rackState u' c' := putRch_rd

/-- Of what the Hub holds, only its racking engine changes. -/
theorem putRch_hub (d : Dev) (u c : Nat) (x : RackCh) : ∃ r, (d.putRch u c x).hub = { d.hub with rack := r } := by
  unfold Dev.putRch Dev.updRack
  split_ifs <;> exact ⟨_, rfl⟩

theorem putRch_lost : (d.putRch u c x).hub.lost = d.hub.lost := by
  obtain ⟨r, hr⟩ := putRch_hub d u c x
  rw [hr]

theorem putRch_hreq : (d.putRch u c x).hub.hreq = d.hub.hreq := by
  obtain ⟨r, hr⟩ := putRch_hub d u c x
  rw [hr]

theorem putRch_router (d : Dev) (u c : Nat) (x : RackCh) : (d.putRch u c x).router = d.router := by
  unfold Dev.putRch Dev.updRack
  split_ifs <;> rfl

theorem putRch_hostMem (d : Dev) (u c : Nat) (x : RackCh) : (d.putRch u c x).hostMem = d.hostMem := by
  unfold Dev.putRch Dev.updRack
  split_ifs <;> rfl

@[simp] theorem wr_rch {p' i' j' : Nat} : (d.wr f v p' i' j').rch u c = d.rch u c := rfl

@[simp] theorem settle_rch : (settle d).rch u c = d.rch u c := rfl

@[simp] theorem settle_rackState : (settle d).rackState u c = d.rackState u c := rfl

theorem raise_rch (e syn : Nat) : (d.raise e syn).rch u c = d.rch u c := by
  obtain ⟨m, hm⟩ := raise_hub d e syn
  simp [Dev.rch, Dev.rack, hm]

theorem rch_updPipe {q : Nat} (g : PipeSt → PipeSt) (hg : ∀ x, (g x).rack = x.rack) : (d.updPipe q g).rch u c = d.rch u c := by
  simp only [Dev.rch, Dev.rack, Dev.updPipe_hub, updPipe_part (·.rack) hg]

theorem caskKeeps_rch (x : RackCh) : CaskKeeps fun d => d.rch u c = x :=
  ⟨fun _ h => h, fun _ h => h, fun g h => (rch_updPipe (fun s => { s with casks := g s }) fun _ => rfl).trans h⟩

/-! ### A channel that halts (R128) -/

/-- The status of a channel that halts. -/
def Dev.rackHaltStat (d : Dev) (u c status i : Nat) : Dev :=
  ((d.wr F.RACK_CH_STAT_STATE 3 u c).wr F.RACK_CH_STAT_LSTATUS status u c).wr F.RACK_CH_STAT_HIDX i u c

/-- A channel that halts, before its event. -/
def Dev.rackHalted (d : Dev) (u c status i : Nat) : Dev :=
  (d.rackHaltStat u c status i).wr F.RACK_GSTAT_HALTED (setBit ((d.rackHaltStat u c status i).rd F.RACK_GSTAT_HALTED u) c) u

theorem rackHalt_eq (d : Dev) (u c status i : Nat) : d.rackHalt u c status i =
    (d.rackHalted u c status i).raise (if u = 4 then 518 else pipeEvent u 7) (pack [(4, c), (8, status)]) := by
  unfold Dev.rackHalt Dev.rackHalted Dev.rackHaltStat
  dsimp only
  split_ifs <;> rfl

theorem rackHalted_same : (d.rackHalted u c status n).hub = d.hub ∧ (d.rackHalted u c status n).pipes = d.pipes ∧
    (d.rackHalted u c status n).hostMem = d.hostMem ∧ (d.rackHalted u c status n).router = d.router := ⟨rfl, rfl, rfl, rfl⟩

theorem rackHalted_rch : (d.rackHalted u c status n).rch u c = d.rch u c := by
  obtain ⟨hh, hp, -⟩ := rackHalted_same (d := d) (u := u) (c := c) (status := status) (n := n)
  simp only [Dev.rch, Dev.rack, Dev.pipe, hh, hp]

/-- A halt leaves the channel, what the Hub's other parts hold and host memory as they are. -/
theorem rackHalt_same : (d.rackHalt u c status n).rch u c = d.rch u c ∧ (d.rackHalt u c status n).hub.hreq = d.hub.hreq ∧
    (d.rackHalt u c status n).hostMem = d.hostMem := by
  rw [rackHalt_eq]
  obtain ⟨hh, -, hm, -⟩ := rackHalted_same (d := d) (u := u) (c := c) (status := status) (n := n)
  obtain ⟨m, hq⟩ := raise_hub (d.rackHalted u c status n) (if u = 4 then 518 else pipeEvent u 7) (pack [(4, c), (8, status)])
  rw [raise_rch, rackHalted_rch, raise_hostMem, hm, hq, hh]
  exact ⟨rfl, rfl, rfl⟩

/-- What a halt shows. -/
theorem rackHalt_shows (d : Dev) (u c status i : Nat) : (d.rackHalt u c status i).rackState u c = 3 ∧
    (d.rackHalt u c status i).rd F.RACK_CH_STAT_LSTATUS u c = status % 2 ^ 8 ∧
    (d.rackHalt u c status i).rd F.RACK_CH_STAT_HIDX u c = i % 2 ^ 16 ∧ (d.hub.lost = false →
      Raised (d.rackHalt u c status i) (if u = 4 then 518 else pipeEvent u 7) (pack [(4, c), (8, status)])) := by
  have reg : ∀ {f g : Fld} {v i' : Nat} {d : Dev}, f.reg ≠ g.reg → (d.wr g v u i').rd f u c = d.rd f u c := rd_wr_of_reg
  have lo : ∀ {f g : Fld} {v i' : Nat} {d : Dev}, f.lo ≠ g.lo → (d.wr g v u i').rd f u c = d.rd f u c := rd_wr_of_lo
  have told : ∀ {f : Fld}, f.reg ≠ .QDL_PEER → f.reg ≠ .RACK_GSTAT →
      (d.rackHalt u c status i).rd f u c = (d.rackHaltStat u c status i).rd f u c := fun hq hg => by
    rw [rackHalt_eq, raise_rd _ _ _ _ _ _ _ hq, Dev.rackHalted]
    exact reg hg
  refine ⟨(told (by decide) (by decide)).trans ?_, (told (by decide) (by decide)).trans ?_,
    (told (by decide) (by decide)).trans (Dev.rd_wr ..), fun hl => ?_⟩
  · exact (lo (by decide)).trans ((lo (by decide)).trans (rd_wr_of_lt (by decide)))
  · exact (lo (by decide)).trans (Dev.rd_wr ..)
  · rw [rackHalt_eq]
    exact raised_of_raise (d := d.rackHalted u c status i) hl _ _

/-- An event that stands does so after a channel halts. -/
theorem Raised.rackHalt {e syn : Nat} (h : Raised d e syn) (he : e ≠ if u = 4 then 518 else pipeEvent u 7) :
    Raised (d.rackHalt u c status n) e syn := by
  rw [rackHalt_eq]
  exact Raised.raise (d := d.rackHalted u c status n) h he _

/-! ### A descriptor that ends (R127) -/

/-- The channel once its descriptor `j` has ended and waits for its write-back. -/
def RackCh.ended (x : RackCh) (j : RackJob) (status : Nat) : RackCh :=
  { x with job := none, reading := false, done := x.done ++ [({ j with hold := none }, status)] }

theorem rackEnd_rch {j : RackJob} (h : (d.rch u c).job = some j) : (d.rackEnd u c status).rch u c = (d.rch u c).ended j status := by
  unfold Dev.rackEnd
  dsimp only
  rw [h]
  dsimp only
  split
  · exact (caskKeeps_rch _).caskSend (putRch_rch ..) u _ _ _
  · exact putRch_rch ..

/-! ### The burst of a channel that aborts (R129) -/

/-- Something stands for the descriptor that a channel has taken: it runs, or it waits for its write-back. -/
def RackCh.owes (x : RackCh) : Prop := x.job.isSome = true ∨ x.done ≠ []

theorem rackEnd_owes {j : RackJob} (h : (d.rch u c).job = some j) : ((d.rackEnd u c status).rch u c).owes := by
  rw [rackEnd_rch h]
  exact .inr (by simp [RackCh.ended])

/-- Whatever a burst moves, its descriptor runs on or has ended. -/
theorem rackMove_owes (d : Dev) (u c : Nat) (j : RackJob) (ws : List CaskWord) (fin : Option Nat) (refused : Bool) :
    ((d.rackMove u c j ws fin refused).rch u c).owes := by
  have counted : ∀ (e : Dev) (y : RackCh) (j' : RackJob) (m : Nat), y.job = some j' →
      (((e.putRch u c y).bumpBy m C.RACK_BYTES u c).rch u c).job = some j' := fun e y j' m hy =>
    bumpBy_keeps (P := fun e => (e.rch u c).job = some j') (fun _ h => h) ((congrArg (·.job) (putRch_rch e u c y)).trans hy)
  unfold Dev.rackMove
  extract_lets psn good whole fin'
  generalize d.rackPut u c j good refused = q
  generalize fin' = f'
  obtain ⟨ok, hold, e⟩ := q
  dsimp only
  split
  · exact rackEnd_owes (counted _ _ _ _ rfl)
  · split
    · exact rackEnd_owes (congrArg (·.job) (putRch_rch ..))
    · split
      · exact rackEnd_owes (counted _ _ _ _ rfl)
      · exact rackEnd_owes (counted _ _ _ _ rfl)
      · exact .inl (by rw [counted _ _ _ _ rfl]; rfl)

/-- A burst of words from a cask leaves the descriptor running or ended. -/
theorem rackBurst_owes {j : RackJob} {flaws : List Flaw} {refused : Bool} (h : (d.rch u c).job = some j) (hs : j.src = 0) :
    ((d.rackBurst u c flaws refused).rch u c).owes := by
  unfold Dev.rackBurst
  rw [h]
  dsimp -zeta only
  extract_lets st n
  split
  · exact rackEnd_owes h
  · rw [hs]
    exact rackMove_owes ..

/-! ### A descriptor that is written back (R127) -/

/-- Words 7 and 6 of the descriptor `j` go to its slot of the ring, where it can be reached. -/
def Dev.rackWrote (d : Dev) (u c : Nat) (j : RackJob) (st : Nat) (there : Bool) : Dev :=
  let a := d.rackSlotAt u c j.slot
  let w6 := 2 ^ 31 + st * 2 ^ 16 + j.tag
  if d.rackHostRing u c then
    (if there then (d.hostWords (a + 28) [j.moved]).hostWords (a + 24) [w6] else d)
  else (d.dramWrite u (rackSrc u c) (a % 2 ^ 40 + 28) (leBytes 4 j.moved)).dramWrite u (rackSrc u c) (a % 2 ^ 40 + 24) (leBytes 4 w6)

/-- The descriptor leaves those that wait and HEAD passes it; `x` is the channel before. -/
def Dev.rackPassed (d : Dev) (u c : Nat) (x : RackCh) (j : RackJob) (rest : List (RackJob × Nat)) : Dev :=
  (d.putRch u c { x with done := rest }).wr F.RACK_HEAD_HEAD (d.rackNext u c j.slot) u c

/-- The completion event, where the descriptor asks for one. -/
def Dev.rackTold (d : Dev) (u c : Nat) (j : RackJob) (there : Bool) : Dev :=
  if j.irq && there then (if u = 4 then d.raise (519 + c) j.tag else d.raiseP u (8 + c) j.tag) else d

/-- What the write-back makes of the channel's state; `x` is the channel before. -/
def Dev.rackClosed (d : Dev) (u c : Nat) (x : RackCh) (j : RackJob) (st : Nat) (rest : List (RackJob × Nat)) : Dev :=
  if d.rackState u c = 3 then d
  else if haltsStatus j st then (d.putRch u c { d.rch u c with abort := false }).rackHalt u c st j.slot
  else if rest.isEmpty && x.abort then (d.putRch u c { d.rch u c with abort := false }).rackHalt u c 0x15 j.slot
  else if rest.isEmpty && x.job.isNone && !x.fetching then d.wr F.RACK_CH_STAT_STATE 1 u c
  else d

/-- Whether the words of a write-back reach the ring. -/
def Dev.rackThere (d : Dev) (u c : Nat) : Bool := !d.rackHostRing u c || d.rackHostOk u

section

variable {j : RackJob} {st : Nat} {rest : List (RackJob × Nat)} {there : Bool}

theorem rackWriteback_eq (h : (d.rch u c).done = (j, st) :: rest) : d.rackWriteback u c =
    (((d.rackWrote u c j st (d.rackThere u c)).rackPassed u c (d.rch u c) j rest).rackTold u c j (d.rackThere u c)).rackClosed u c
      (d.rch u c) j st rest := by
  unfold Dev.rackWriteback
  extract_lets x
  have hx : x.done = (j, st) :: rest := h
  rw [hx]
  rfl

theorem rackWrote_rd (hf : f.reg ∉ RegId.QDL_PEER :: dramLogRegs) : (d.rackWrote u c j st there).rd f p i v = d.rd f p i v := by
  unfold Dev.rackWrote
  dsimp only
  split_ifs
  · rfl
  · rfl
  · exact (dramWrite_rd hf).trans (dramWrite_rd hf)

theorem rackWrote_lost : (d.rackWrote u c j st there).hub.lost = d.hub.lost := by
  unfold Dev.rackWrote
  dsimp only
  split_ifs
  · rfl
  · rfl
  · simp only [dramWrite_lost]

theorem rackWrote_hostMem (h : d.rackHostRing u c = true) : (d.rackWrote u c j st true).hostMem =
    (d.hostMem.writes (d.rackSlotAt u c j.slot + 28) (leBytes 4 j.moved)).writes (d.rackSlotAt u c j.slot + 24)
      (leBytes 4 (2 ^ 31 + st * 2 ^ 16 + j.tag)) := by
  unfold Dev.rackWrote
  rw [if_pos h, if_pos rfl]
  simp only [Dev.hostWords, Dev.hostWrite, List.flatMap_cons, List.flatMap_nil, List.append_nil]

theorem rackNext_congr {e : Dev} (h : e.rd F.RACK_CH_CFG_RSIZE u c = d.rd F.RACK_CH_CFG_RSIZE u c) : e.rackNext u c n = d.rackNext u c n := by
  unfold Dev.rackNext Dev.rackSlots
  rw [h]

theorem rackPassed_rch : (d.rackPassed u c x j rest).rch u c = { x with done := rest } := putRch_rch ..

theorem rackPassed_head : (d.rackPassed u c x j rest).rd F.RACK_HEAD_HEAD u c = d.rackNext u c j.slot % 2 ^ 16 := Dev.rd_wr ..

theorem rackPassed_state : (d.rackPassed u c x j rest).rackState u c = d.rackState u c := (rd_wr_of_reg (by decide)).trans putRch_rd

theorem rackPassed_lost : (d.rackPassed u c x j rest).hub.lost = d.hub.lost := putRch_lost

theorem rackPassed_hostMem : (d.rackPassed u c x j rest).hostMem = d.hostMem := putRch_hostMem ..

/-- The event leaves alone what no event touches. -/
theorem rackTold_keeps (hr : ∀ {d : Dev} (e syn : Nat), P d → P (d.raise e syn)) (h : P d) : P (d.rackTold u c j there) := by
  unfold Dev.rackTold
  split_ifs
  · exact hr _ _ h
  · exact hr _ _ h
  · exact h

theorem rackTold_raised (hi : j.irq = true) (hl : d.hub.lost = false) :
    Raised (d.rackTold u c j true) (if u = 4 then 519 + c else pipeEvent u (8 + c)) j.tag := by
  unfold Dev.rackTold
  rw [hi, Bool.and_self, if_pos rfl]
  split_ifs
  · exact raised_of_raise hl _ _
  · exact raised_of_raise hl _ _

/-- The property stands whatever a write-back makes of the channel's state. -/
theorem rackClosed_keeps (hput : ∀ {d : Dev}, P d → P (d.putRch u c { d.rch u c with abort := false }))
    (hhalt : ∀ {d : Dev} (status i : Nat), P d → P (d.rackHalt u c status i)) (hst : ∀ {d : Dev}, P d → P (d.wr F.RACK_CH_STAT_STATE 1 u c))
    (h : P d) : P (d.rackClosed u c x j st rest) := by
  unfold Dev.rackClosed
  split_ifs
  · exact h
  · exact hhalt _ _ (hput h)
  · exact hhalt _ _ (hput h)
  · exact hst h
  · exact h

theorem rackClosed_done : ((d.rackClosed u c x j st rest).rch u c).done = (d.rch u c).done := by
  refine rackClosed_keeps (P := fun e => (e.rch u c).done = (d.rch u c).done) (fun h => ?_) (fun _ _ h => ?_) (fun h => h) rfl
  · rw [putRch_rch]
    exact h
  · rw [rackHalt_same.1]
    exact h

theorem rackClosed_rd (hf : f.reg ∉ rackRegs) (hq : f.reg ≠ .QDL_PEER) : (d.rackClosed u c x j st rest).rd f p i v = d.rd f p i v :=
  rackClosed_keeps (P := fun e => e.rd f p i v = d.rd f p i v) (fun h => putRch_rd.trans h) (fun _ _ h => (rackHalt_rd hf hq ..).trans h)
    (fun h => (rd_wr_of_mem hf (by decide)).trans h) rfl

theorem rackClosed_hostMem : (d.rackClosed u c x j st rest).hostMem = d.hostMem :=
  rackClosed_keeps (P := fun e => e.hostMem = d.hostMem) (fun h => (putRch_hostMem ..).trans h) (fun _ _ h => rackHalt_same.2.2.trans h)
    (fun h => h) rfl

theorem Raised.rackClosed {e syn : Nat} (h : Raised d e syn) (he : e ≠ if u = 4 then 518 else pipeEvent u 7) :
    Raised (d.rackClosed u c x j st rest) e syn :=
  rackClosed_keeps (P := fun t => Raised t e syn) (fun {t} h => by rwa [Raised, putRch_router]) (fun _ _ h => h.rackHalt he) (fun h => h) h

/-- A halting status halts the channel (R128). -/
theorem rackClosed_halts (hh : haltsStatus j st = true) (hs : d.rackState u c ≠ 3) :
    (d.rackClosed u c x j st rest).rackState u c = 3 ∧ (d.rackClosed u c x j st rest).rd F.RACK_CH_STAT_LSTATUS u c = st % 2 ^ 8 := by
  unfold Dev.rackClosed
  rw [if_neg hs, if_pos hh]
  obtain ⟨hstate, hlast, -⟩ := rackHalt_shows (d.putRch u c { d.rch u c with abort := false }) u c st j.slot
  exact ⟨hstate, hlast⟩

end

/-- What the write-back of the oldest ended descriptor leaves (R127, R128). -/
theorem rackWriteback_leaves {j : RackJob} {st : Nat} {rest : List (RackJob × Nat)} (h : (d.rch u c).done = (j, st) :: rest) :
    ((d.rackWriteback u c).rch u c).done = rest ∧ (d.rackWriteback u c).rd F.RACK_HEAD_HEAD u c = d.rackNext u c j.slot % 2 ^ 16 ∧
      (haltsStatus j st = true → d.rackState u c ≠ 3 →
        (d.rackWriteback u c).rackState u c = 3 ∧ (d.rackWriteback u c).rd F.RACK_CH_STAT_LSTATUS u c = st % 2 ^ 8) := by
  rw [rackWriteback_eq h]
  set w := d.rackWrote u c j st (d.rackThere u c)
  set e := (w.rackPassed u c (d.rch u c) j rest).rackTold u c j (d.rackThere u c)
  have told : ∀ f : Fld, f.reg ≠ .QDL_PEER → e.rd f u c = (w.rackPassed u c (d.rch u c) j rest).rd f u c := fun f hq =>
    rackTold_keeps (P := fun t => t.rd f u c = (w.rackPassed u c (d.rch u c) j rest).rd f u c) (fun _ _ h => (raise_rd _ _ _ _ _ _ _ hq).trans h) rfl
  have hstate : e.rackState u c = d.rackState u c := (told _ (by decide)).trans (rackPassed_state.trans (rackWrote_rd (by decide)))
  refine ⟨?_, ?_, fun hh hs => rackClosed_halts hh (hstate.symm ▸ hs)⟩
  · rw [rackClosed_done]
    exact rackTold_keeps (P := fun t => (t.rch u c).done = rest) (fun _ _ h => (congrArg _ (raise_rch _ _)).trans h)
      (congrArg RackCh.done rackPassed_rch)
  · rw [rackClosed_rd (by decide) (by decide), told _ (by decide), rackPassed_head, rackNext_congr (rackWrote_rd (by decide))]

/-- The completion event of a written-back descriptor (R127). -/
theorem rackWriteback_raised {j : RackJob} {st : Nat} {rest : List (RackJob × Nat)} (h : (d.rch u c).done = (j, st) :: rest) (hi : j.irq = true)
    (ht : d.rackThere u c = true) (hl : d.hub.lost = false) :
    Raised (d.rackWriteback u c) (if u = 4 then 519 + c else pipeEvent u (8 + c)) j.tag := by
  rw [rackWriteback_eq h, ht]
  refine (rackTold_raised hi (rackPassed_lost.trans (rackWrote_lost.trans hl))).rackClosed ?_
  unfold pipeEvent
  split_ifs <;> omega

/-- The words written back to a host ring (R127). -/
theorem rackWriteback_hostMem {j : RackJob} {st : Nat} {rest : List (RackJob × Nat)} (h : (d.rch u c).done = (j, st) :: rest)
    (hr : d.rackHostRing u c = true) (ho : d.rackHostOk u = true) : (d.rackWriteback u c).hostMem =
      (d.hostMem.writes (d.rackSlotAt u c j.slot + 28) (leBytes 4 j.moved)).writes (d.rackSlotAt u c j.slot + 24)
        (leBytes 4 (2 ^ 31 + st * 2 ^ 16 + j.tag)) := by
  have ht : d.rackThere u c = true := by rw [Dev.rackThere, ho, Bool.or_true]
  rw [rackWriteback_eq h, ht, rackClosed_hostMem,
    rackTold_keeps (P := fun t => t.hostMem = _) (fun _ _ h => (raise_hostMem _ _ _).trans h) rfl, rackPassed_hostMem, rackWrote_hostMem hr]

end Sys2Proof.Machine
end

section
/-!
What each command of a racking channel leaves (R121 to R131).
-/
namespace Sys2Proof.Machine

variable {s : State} {d : Dev} {u c : Nat} {j : RackJob}

/-! ### ABORT (R129) -/

/-- The burst that a channel which aborts still moves: what its cask holds, up to the descriptor's next 256-byte boundary. -/
def Dev.rackRushed (d : Dev) (u c : Nat) : Dev :=
  if ((d.rch u c).job.any fun j => j.moved % 256 != 0 && j.src == 0) && d.rackReady u c then d.rackBurst u c [] false else d

/-- A channel that waits for no data of the host any more. -/
def Dev.rackUnread (d : Dev) (u c : Nat) : Dev :=
  (if (d.rch u c).fetching then
      (d.putRch u c { d.rch u c with fetching := false }).updHub fun h => { h with hreq := h.hreq.filter fun y => y != .rackDesc u c }
    else d).updHub fun h => { h with hreq := h.hreq.filter fun y => y != .rackData u c }

/-- How an ABORT leaves a channel that moves nothing more. -/
def Dev.rackCut (d : Dev) (u c : Nat) : Dev :=
  if (d.rch u c).job.isSome then ((d.rackUnread u c).rackEnd u c 0x15).wr F.RACK_CH_STAT_STATE 4 u c
  else if (d.rch u c).done.isEmpty then
    (d.rackUnread u c).rackHalt u c 0x15 (if (d.rch u c).next = 0 then (d.rackUnread u c).rackSlots u c - 1 else (d.rch u c).next - 1)
  else ((d.rackUnread u c).putRch u c { (d.rackUnread u c).rch u c with abort := true }).wr F.RACK_CH_STAT_STATE 4 u c

theorem rackAbort_eq (h : d.rackState u c = 1 ∨ d.rackState u c = 2) : d.rackAbort u c = (d.rackRushed u c).rackCut u c := by
  have hb : (!(d.rackState u c == 1 || d.rackState u c == 2)) = false := by
    rcases h with h | h <;> rw [h] <;> rfl
  unfold Dev.rackAbort
  extract_lets st part d₁ x d₂ d₃
  rw [if_neg (by rw [hb]; decide)]
  rfl

theorem rackAbort_idle (h : d.rackState u c ≠ 1 ∧ d.rackState u c ≠ 2) : d.rackAbort u c = d := by
  have hb : (!(d.rackState u c == 1 || d.rackState u c == 2)) = true := by simpa using h
  unfold Dev.rackAbort
  exact if_pos hb

theorem rackUnread_rch : (d.rackUnread u c).rch u c = { d.rch u c with fetching := false } := by
  have same : ∀ (e : Dev) (l : HubSt → List HostUser), (e.updHub fun h => { h with hreq := l h }).rch u c = e.rch u c := fun _ _ => rfl
  unfold Dev.rackUnread
  rw [same]
  split_ifs with hf
  · rw [same, putRch_rch]
  · generalize d.rch u c = x at hf
    obtain ⟨⟩ := x
    simp_all

theorem rackUnread_lost : (d.rackUnread u c).hub.lost = d.hub.lost := by
  have same : ∀ (e : Dev) (l : HubSt → List HostUser), (e.updHub fun h => { h with hreq := l h }).hub.lost = e.hub.lost := fun _ _ => rfl
  unfold Dev.rackUnread
  rw [same]
  split_ifs
  · rw [same, putRch_lost]
  · rfl

/-- The running descriptor ends as ABORTED and the channel waits for its write-back. -/
theorem rackCut_running (h : (d.rch u c).job = some j) : (d.rackCut u c).rackState u c = 4 ∧ ((d.rackCut u c).rch u c).job = none ∧
    ((d.rackCut u c).rch u c).done = (d.rch u c).done ++ [({ j with hold := none }, 0x15)] := by
  have hj : ((d.rackUnread u c).rch u c).job = some j := by rw [rackUnread_rch]; exact h
  have e : d.rackCut u c = ((d.rackUnread u c).rackEnd u c 0x15).wr F.RACK_CH_STAT_STATE 4 u c := if_pos (by rw [h]; rfl)
  rw [e, wr_rch, rackEnd_rch hj, rackUnread_rch]
  exact ⟨rd_wr_of_lt (by decide), rfl, rfl⟩

/-- A channel that owes write-backs only waits for them. -/
theorem rackCut_waiting (h : (d.rch u c).job = none) (hd : (d.rch u c).done ≠ []) :
    (d.rackCut u c).rackState u c = 4 ∧ ((d.rackCut u c).rch u c).job = none := by
  have e : d.rackCut u c = ((d.rackUnread u c).putRch u c { (d.rackUnread u c).rch u c with abort := true }).wr F.RACK_CH_STAT_STATE 4 u c :=
    (if_neg (by rw [h]; decide)).trans (if_neg (by simpa using hd))
  rw [e, wr_rch, putRch_rch, rackUnread_rch]
  exact ⟨rd_wr_of_lt (by decide), h⟩

/-- A channel with nothing to write back halts as ABORTED. -/
theorem rackCut_idle (h : (d.rch u c).job = none) (hd : (d.rch u c).done = []) : (d.rackCut u c).rackState u c = 3 ∧
    (d.rackCut u c).rd F.RACK_CH_STAT_LSTATUS u c = 0x15 ∧ ((d.rackCut u c).rch u c).fetching = false ∧ (d.hub.lost = false →
      Raised (d.rackCut u c) (if u = 4 then 518 else pipeEvent u 7) (pack [(4, c), (8, 0x15)])) := by
  have e : d.rackCut u c = (d.rackUnread u c).rackHalt u c 0x15
      (if (d.rch u c).next = 0 then (d.rackUnread u c).rackSlots u c - 1 else (d.rch u c).next - 1) :=
    (if_neg (by rw [h]; decide)).trans (if_pos (by rw [hd]; rfl))
  rw [e]
  obtain ⟨hstate, hlast, -, hev⟩ := rackHalt_shows (d.rackUnread u c) u c 0x15
    (if (d.rch u c).next = 0 then (d.rackUnread u c).rackSlots u c - 1 else (d.rch u c).next - 1)
  refine ⟨hstate, hlast, ?_, fun hl => hev (rackUnread_lost.trans hl)⟩
  rw [rackHalt_same.1, rackUnread_rch]

theorem rackRushed_owes (h : (d.rch u c).job = some j) : ((d.rackRushed u c).rch u c).owes := by
  unfold Dev.rackRushed
  rw [h]
  split_ifs with hp
  · simp only [Option.any_some, Bool.and_eq_true, beq_iff_eq] at hp
    exact rackBurst_owes h hp.1.2
  · exact .inl (by rw [h]; rfl)

/-- Nothing moves where the descriptor stands at a boundary or its source is no cask. -/
theorem rackRushed_still (h : ∀ j, (d.rch u c).job = some j → j.moved % 256 = 0 ∨ j.src ≠ 0) : d.rackRushed u c = d := by
  unfold Dev.rackRushed
  refine if_neg fun hp => ?_
  simp only [Bool.and_eq_true, Option.any_eq_true, bne_iff_ne, beq_iff_eq] at hp
  obtain ⟨⟨j, hj, hm, hs⟩, -⟩ := hp
  exact (h j hj).elim hm (· hs)

/-- ABORT of a running descriptor: the channel waits for the write-back of what it has ended. -/
theorem rackAbort_running (hs : d.rackState u c = 1 ∨ d.rackState u c = 2) (h : (d.rch u c).job = some j) :
    (d.rackAbort u c).rackState u c = 4 ∧ ((d.rackAbort u c).rch u c).job = none ∧ ((j.moved % 256 = 0 ∨ j.src ≠ 0) →
      ((d.rackAbort u c).rch u c).done = (d.rch u c).done ++ [({ j with hold := none }, 0x15)]) := by
  rw [rackAbort_eq hs]
  have both : ((d.rackRushed u c).rackCut u c).rackState u c = 4 ∧ (((d.rackRushed u c).rackCut u c).rch u c).job = none := by
    cases hj : ((d.rackRushed u c).rch u c).job with
    | some j' =>
      obtain ⟨hstate, hjob, -⟩ := rackCut_running hj
      exact ⟨hstate, hjob⟩
    | none => exact rackCut_waiting hj ((rackRushed_owes h).resolve_left (by rw [hj]; decide))
  refine ⟨both.1, both.2, fun hp => ?_⟩
  have still : d.rackRushed u c = d := rackRushed_still fun j' hj' => Option.some.inj (h.symm.trans hj') ▸ hp
  rw [still]
  exact (rackCut_running h).2.2

/-- ABORT of a channel that runs nothing and owes nothing halts it. -/
theorem rackAbort_nothing (hs : d.rackState u c = 1 ∨ d.rackState u c = 2) (h : (d.rch u c).job = none) : d.rackAbort u c = d.rackCut u c := by
  rw [rackAbort_eq hs, rackRushed_still fun j hj => by rw [h] at hj; cases hj]

/-! ### RESUME and the clearing of EN (R130, R131) -/

theorem rackResume_shows (h : d.rackState u c = 3) : (d.rackResume u c).rackState u c = 1 ∧
    ((d.rackResume u c).rch u c).next = d.rackNext u c (d.rd F.RACK_CH_STAT_HIDX u c) ∧ ((d.rackResume u c).rch u c).job = none := by
  unfold Dev.rackResume
  rw [if_pos h, wr_rch, putRch_rch]
  exact ⟨rd_wr_of_lt (by decide), rfl, rfl⟩

theorem rackOff_shows : (d.rackOff u c).on F.RACK_CH_CFG_EN u c = false ∧ (d.rackOff u c).rackState u c = 0 ∧ (d.rackOff u c).rch u c = {} := by
  have reg : ∀ {f g : Fld} {v i' : Nat} {d : Dev}, f.reg ≠ g.reg → (d.wr g v u i').rd f u c = d.rd f u c := rd_wr_of_reg
  unfold Dev.rackOff
  refine ⟨?_, ?_, wr_rch.trans (putRch_rch ..)⟩
  · rw [Dev.on, reg (by decide), putRch_rd, reg (by decide), rd_wr_of_lt (by decide)]
    rfl
  · exact (reg (by decide)).trans (putRch_rd.trans (rd_wr_of_lt (by decide)))

theorem rackDisable_shows (h : d.on F.RACK_CH_CFG_EN u c = true) : (d.rackDisable u c).on F.RACK_CH_CFG_EN u c = false ∧
    (d.rackDisable u c).rackState u c = 0 ∧ (d.rackDisable u c).rch u c = {} := by
  unfold Dev.rackDisable
  extract_lets x pending e
  rw [h, if_neg (by decide)]
  exact rackOff_shows

theorem rackDisable_off (h : d.on F.RACK_CH_CFG_EN u c = false) : d.rackDisable u c = d := by
  unfold Dev.rackDisable
  exact if_pos (by rw [h]; rfl)

end Sys2Proof.Machine
end

section
/-!
The racking engine's obligation (R121 to R131).
-/
namespace Sys2Proof.Machine

variable {s : State} {d : Dev} {u c : Nat}

/-! ### The next descriptor (R121, R122) -/

/-- Whether a channel that is on, with nothing under way and nothing owed, has a descriptor posted. -/
def Dev.rackPosted (d : Dev) (u c : Nat) : Prop :=
  d.on F.RACK_CH_CFG_EN u c = true ∧ (d.rackState u c = 1 ∨ d.rackState u c = 2) ∧ (d.rch u c).fetching = false ∧ (d.rch u c).job = none ∧
    (d.rch u c).abort = false ∧ (d.rch u c).next ≠ d.rd F.RACK_TAIL_TAIL u c ∧ (d.rch u c).done = []

theorem rackStart_posted (h : d.rackPosted u c) : d.rackStart u c =
    if d.rackHostRing u c then
      if d.rackHostOk u then
        (d.putRch u c { d.rch u c with fetching := true }).updHub fun h => { h with hreq := h.hreq ++ [.rackDesc u c] }
      else d.rackHalt u c 0x16 (d.rch u c).next
    else
      let r := d.dramRead u (rackSrc u c) (d.rackSlotAt u c (d.rch u c).next % 2 ^ 40) 24
      if r.2.1 then r.2.2.rackHalt u c 0x16 (d.rch u c).next else r.2.2.rackBegin u c (words32 r.1) := by
  obtain ⟨hen, hst, hfetch, hjob, habort, hnext, hdone⟩ := h
  have hgo : (!(d.rackState u c == 1 || d.rackState u c == 2)) = false := by
    rcases hst with h | h <;> rw [h] <;> rfl
  unfold Dev.rackStart
  dsimp only
  rw [if_neg]
  simp [hen, hgo, hfetch, hjob, habort, hnext, hdone]

theorem rackStart_fetching (h : d.rackPosted u c) (hr : d.rackHostRing u c = true) (ho : d.rackHostOk u = true) :
    ((d.rackStart u c).rch u c).fetching = true ∧ (d.rackStart u c).hub.hreq = d.hub.hreq ++ [.rackDesc u c] := by
  have same : ∀ (e : Dev) (l : HubSt → List HostUser), (e.updHub fun h => { h with hreq := l h }).rch u c = e.rch u c := fun _ _ => rfl
  rw [rackStart_posted h, if_pos hr, if_pos ho, same, putRch_rch, Dev.updHub_hub, putRch_hreq]
  exact ⟨rfl, rfl⟩

theorem rackStart_unreachable (h : d.rackPosted u c) (hr : d.rackHostRing u c = true) (ho : d.rackHostOk u = false) :
    d.rackStart u c = d.rackHalt u c 0x16 (d.rch u c).next := by
  rw [rackStart_posted h, if_pos hr, ho]
  rfl

/-! ### A read of a descriptor that failed (R128) -/

theorem rackDescData_failed (h : (d.rch u c).fetching = true) :
    d.rackDescData u c false = (d.putRch u c { d.rch u c with fetching := false }).rackHalt u c 0x16 (d.rch u c).next := by
  unfold Dev.rackDescData
  dsimp only
  rw [h]
  rfl

theorem rackDescData_failed_shows (h : (d.rch u c).fetching = true) : (d.rackDescData u c false).hub.hreq = d.hub.hreq ∧
    (d.rackDescData u c false).rackState u c = 3 ∧ (d.rackDescData u c false).rd F.RACK_CH_STAT_LSTATUS u c = 0x16 := by
  rw [rackDescData_failed h]
  obtain ⟨hstate, hlast, -⟩ := rackHalt_shows (d.putRch u c { d.rch u c with fetching := false }) u c 0x16 (d.rch u c).next
  exact ⟨rackHalt_same.2.1.trans putRch_hreq, hstate, hlast⟩

/-! ### Completions of the host's reads -/

/-- The device when the answer to request `i` has come. -/
def Dev.hostAnswered (d : Dev) (i : Nat) : Dev := d.updHub fun h => { h with hreq := h.hreq.eraseIdx i }

/-- What takes an answer of the host. -/
def Dev.hostAnswer (d : Dev) (good psn : Bool) : HostUser → Dev
  | .nvme q cid => d.nvData q cid (good && !psn)
  | .rackDesc u c => d.rackDescData u c (good && !psn)
  | .rackData u c => d.rackHostData u c good psn
  | .press u r => d.pressDescData u r (good && !psn)

theorem exec_pcieCompletion {i : Nat} {good psn : Bool} {x : HostUser} (ha : s.awake) (hi : s.dev.hub.hreq[i]? = some x) :
    exec (.pcieCompletion i good psn) s = .next (s.after ((s.dev.hostAnswered i).hostAnswer good psn x)) := by
  refine exec_of_run ha rfl ?_
  dsimp only
  rw [hi]
  cases x <;> rfl

theorem exec_pcieCompletion_none {i : Nat} {good psn : Bool} (ha : s.awake) (hi : s.dev.hub.hreq[i]? = none) :
    exec (.pcieCompletion i good psn) s = .next (s.after s.dev) := by
  refine exec_of_run ha rfl ?_
  dsimp only
  rw [hi]

/-- A failed read of a descriptor halts its channel. -/
theorem does_pcieCompletion_failed {i : Nat} (ha : s.awake) (hi : s.dev.hub.hreq[i]? = some (.rackDesc u c))
    (hf : (s.dev.rch u c).fetching = true) : Does (.pcieCompletion i false false) s fun t =>
      t.hub.hreq = s.dev.hub.hreq.eraseIdx i ∧ t.rackState u c = 3 ∧ t.rd F.RACK_CH_STAT_LSTATUS u c = 0x16 := by
  refine does_of_run_unsettled ha (fun _ h => h) rfl ?_
  dsimp only
  rw [hi]
  exact rackDescData_failed_shows (d := s.dev.hostAnswered i) hf

/-! ### Bursts (R117, R125) -/

theorem exec_rackBurstGrant {u : Unit5} {flaws : List Flaw} {refused : Bool} (ha : s.awake) (hp : s.dev.rackPick u = some c) :
    exec (.rackBurstGrant u ⟨flaws, refused⟩) s = .next (s.after
      ((s.dev.updRack u fun r => { r with last := Tab.set 0 r.last (s.dev.rackRank u c) (c + 1) }).rackBurst u c flaws refused)) := by
  refine exec_of_run ha rfl ?_
  dsimp only
  rw [hp]

theorem exec_rackBurstGrant_none {u : Unit5} {flaws : List Flaw} {refused : Bool} (ha : s.awake) (hp : s.dev.rackPick u = none) :
    exec (.rackBurstGrant u ⟨flaws, refused⟩) s = .next (s.after s.dev) := by
  refine exec_of_run ha rfl ?_
  dsimp only
  rw [hp]

/-! ### The obligation -/

/-- Settles O18: each command of a racking channel, by what the model's operation on the channel leaves. -/
theorem racking : Obligations.Racking := by
  intro s ha
  refine ⟨fun u c hc => ?_, fun _ _ _ _ hp => exec_rackBurstGrant ha hp, fun _ _ _ hp => exec_rackBurstGrant_none ha hp,
    fun _ _ _ hi => exec_pcieCompletion_none ha hi, fun _ _ _ _ hi hf => does_pcieCompletion_failed ha hi hf,
    fun _ _ _ _ _ hi => exec_pcieCompletion ha hi, fun _ _ _ _ _ hi => exec_pcieCompletion ha hi, fun _ _ _ _ _ hi => exec_pcieCompletion ha hi⟩
  have hok : decide (c.val < rackChannels u) = true := decide_eq_true hc
  refine ⟨fun tail hr => ⟨fun ht => exec_of_bar2If ha hok hr rfl (if_pos ht), fun ht => exec_of_bar2If ha hok hr rfl (if_neg (by omega))⟩,
    fun hen hst hf hj hb hn hd hring => ?_, fun hen hst hf hj hb hn hd hring => ?_, fun hd => ?_, fun j st rest hd => ?_, fun hr => ?_⟩
  · have hp : s.dev.rackPosted u c := ⟨hen, hst, hf, hj, hb, hn, hd⟩
    refine ⟨fun ho => does_of_runIf_unsettled ha (fun _ h => h) hok rfl (rackStart_fetching hp hring ho),
      fun ho => does_of_runIf_unsettled ha (fun _ h => h) hok rfl ?_⟩
    rw [rackStart_unreachable hp hring ho]
    exact rackHalt_shows s.dev u c 0x16 _
  · refine exec_of_runIf ha hok rfl ?_
    rw [rackStart_posted ⟨hen, hst, hf, hj, hb, hn, hd⟩, hring]
    rfl
  · refine exec_of_runIf ha hok rfl ?_
    unfold Dev.rackWriteback
    dsimp only
    rw [hd]
  · obtain ⟨hdone, hhead, hhalt⟩ := rackWriteback_leaves hd
    refine does_of_runIf_unsettled ha (fun _ h => h) hok rfl
      ⟨hdone, hhead, hhalt, fun hi ht hl => rackWriteback_raised hd hi ?_ hl, fun hring ho => rackWriteback_hostMem hd hring ho⟩
    unfold Dev.rackThere
    cases hring : s.dev.rackHostRing u c with
    | true => exact ht hring
    | false => rfl
  · refine ⟨fun hs => exec_of_bar2If ha hok hr rfl (rackAbort_idle hs),
      fun j hs hj => does_of_bar2If_unsettled ha (fun _ h => h) hok hr rfl (rackAbort_running hs hj),
      fun hs hj hd => does_of_bar2If_unsettled ha (fun _ h => h) hok hr rfl ?_,
      fun hs => does_of_bar2If_unsettled ha (fun _ h => h) hok hr rfl (rackResume_shows hs),
      fun hs => exec_of_bar2If ha hok hr rfl (if_neg hs),
      fun he => does_of_bar2If_unsettled ha (fun _ h => h) hok hr rfl (rackDisable_shows he),
      fun he => exec_of_bar2If ha hok hr rfl (rackDisable_off he)⟩
    rw [rackAbort_nothing hs hj]
    exact rackCut_idle hj hd

end Sys2Proof.Machine
end

section
/-!
The Press engines (R527 to R531): their state, a ring that halts, and a job's end.
-/
namespace Sys2Proof.Machine

variable {P : Dev → Prop} {s : State} {d : Dev} {f : Fld} {v p i j u r n status : Nat} {g : Press → Press}

/-! ### The engine's state -/

@[simp] theorem updPress_press : (d.updPress u g).press u = g (d.press u) := by
  unfold Dev.updPress Dev.press
  by_cases hu : u = 4 <;> simp [hu]

@[simp] theorem updPress_rd : (d.updPress u g).rd f p i j = d.rd f p i j := by
  unfold Dev.updPress
  split_ifs <;> rfl

theorem updPress_hreq : (d.updPress u g).hub.hreq = d.hub.hreq := by
  unfold Dev.updPress
  split_ifs <;> rfl

theorem updPress_dram {q : Nat} : (d.updPress u g).dram q = d.dram q := by
  unfold Dev.updPress
  split_ifs
  · rfl
  · exact updPipe_part (f := fun s => { s with press := g s.press }) (·.dram) (fun _ => rfl) d u q

theorem raise_press (e syn : Nat) : (d.raise e syn).press u = d.press u := by
  obtain ⟨m, hm⟩ := raise_hub d e syn
  simp [Dev.press, hm]

theorem updDram_press {q : Nat} (h : Dram → Dram) : (d.updDram q h).press u = d.press u := by
  simp only [Dev.press, Dev.updDram, Dev.updPipe_hub]
  rw [updPipe_part (f := fun s => { s with dram := h s.dram }) (·.press) (fun _ => rfl)]

theorem dramLogKeeps_press (x : Press) : DramLogKeeps fun d => d.press u = x :=
  ⟨fun _ h => h, fun _ _ h => (raise_press _ _).trans h⟩

theorem dramRead_press {q src a : Nat} : (d.dramRead q src a n).2.2.press u = d.press u := (dramLogKeeps_press _).dramRead rfl q src a n

theorem dramWrite_press {q src a : Nat} {bs : List Byte} {psn : Bool} : (d.dramWrite q src a bs psn).press u = d.press u :=
  (dramLogKeeps_press _).dramWrite (fun h e => (updDram_press h).trans e) rfl

theorem pressSlots_congr {e : Dev} (h : e.rd F.PRESS_RING_CFG_RSIZE u r = d.rd F.PRESS_RING_CFG_RSIZE u r) : e.pressSlots u r = d.pressSlots u r := by
  unfold Dev.pressSlots
  rw [h]

/-- A ring in DRAM is a pipe's. -/
theorem lt_of_pressHostRing {u : Unit5} (h : d.pressHostRing u r = false) : u.val < 4 := by
  have hne : u.val ≠ 4 := fun e => by simp [Dev.pressHostRing, e] at h
  have := u.isLt
  omega

/-! ### What the end of a job shows -/

/-- The fields in which a ring shows where it stands. -/
def pressRingFlds : List Fld :=
  [F.PRESS_RING_STAT_STATE, F.PRESS_RING_STAT_LSTATUS, F.PRESS_RING_STAT_HIDX, F.PRESS_GSTAT_HALTED]

/-- The property stands whatever a ring shows of itself, and whatever events are raised. -/
def PressKeeps (P : Dev → Prop) : Prop :=
  (∀ {d : Dev} {h : Fld} {v p i j : Nat}, h ∈ pressRingFlds → P d → P (d.wr h v p i j)) ∧
    ∀ {d : Dev} (e syn : Nat), P d → P (d.raise e syn)

theorem pressKeeps_press (x : Press) : PressKeeps fun d => d.press u = x := ⟨fun _ h => h, fun _ _ h => (raise_press _ _).trans h⟩

theorem pressKeeps_pipes (x : Four PipeSt) : PressKeeps fun d => d.pipes = x := ⟨fun _ h => h, fun _ _ h => (raise_pipes _ _ _).trans h⟩

theorem pressKeeps_rd (hq : f.reg ≠ .QDL_PEER) (hf : ∀ h ∈ pressRingFlds, f.reg ≠ h.reg ∨ f.lo ≠ h.lo) :
    PressKeeps fun d => d.rd f p i j = v :=
  ⟨fun {_ h _ _ _ _} hm e => ((hf h hm).elim rd_wr_of_reg rd_wr_of_lo).trans e, fun _ _ h => (raise_rd _ _ _ _ _ _ _ hq).trans h⟩

/-- The status of a ring that halts. -/
def Dev.pressHaltStat (d : Dev) (u r status i : Nat) : Dev :=
  ((d.wr F.PRESS_RING_STAT_STATE 3 u r).wr F.PRESS_RING_STAT_LSTATUS status u r).wr F.PRESS_RING_STAT_HIDX i u r

/-- A ring that halts, before its event. -/
def Dev.pressHalted (d : Dev) (u r status i : Nat) : Dev :=
  (d.pressHaltStat u r status i).wr F.PRESS_GSTAT_HALTED (setBit ((d.pressHaltStat u r status i).rd F.PRESS_GSTAT_HALTED u) r) u

theorem pressHalt_eq (d : Dev) (u r status i : Nat) : d.pressHalt u r status i =
    (d.pressHalted u r status i).raise (if u = 4 then 552 else pipeEvent u 77) (pack [(2, r), (8, status)]) := by
  unfold Dev.pressHalt Dev.pressHalted Dev.pressHaltStat
  dsimp only
  split_ifs <;> rfl

/-- What a halt shows (R529). -/
theorem pressHalt_shows (d : Dev) (u r status i : Nat) : (d.pressHalt u r status i).rd F.PRESS_RING_STAT_STATE u r = 3 ∧
    (d.pressHalt u r status i).rd F.PRESS_RING_STAT_LSTATUS u r = status % 2 ^ 8 ∧
    (d.pressHalt u r status i).rd F.PRESS_RING_STAT_HIDX u r = i % 2 ^ 16 := by
  have lo : ∀ {f g : Fld} {v i' : Nat} {d : Dev}, f.lo ≠ g.lo → (d.wr g v u i').rd f u r = d.rd f u r := rd_wr_of_lo
  have told : ∀ {f : Fld}, f.reg ≠ .QDL_PEER → f.reg ≠ .PRESS_GSTAT →
      (d.pressHalt u r status i).rd f u r = (d.pressHaltStat u r status i).rd f u r := fun hq hg => by
    rw [pressHalt_eq, raise_rd _ _ _ _ _ _ _ hq, Dev.pressHalted]
    exact rd_wr_of_reg hg
  refine ⟨(told (by decide) (by decide)).trans ?_, (told (by decide) (by decide)).trans ?_,
    (told (by decide) (by decide)).trans (Dev.rd_wr ..)⟩
  · exact (lo (by decide)).trans ((lo (by decide)).trans (rd_wr_of_lt (by decide)))
  · exact (lo (by decide)).trans (Dev.rd_wr ..)

/-- The completion event of a job, where its descriptor asks for one. -/
def Dev.pressTold (d : Dev) (u r : Nat) (j : PressJob) (e : PressEnd) (lost : Bool) : Dev :=
  if bit (j.w 0) 23 && !lost then
    (if u = 4 then d.raise (549 + r) (pack [(16, j.tag), (8, e.status)]) else d.raiseP u (73 + r) (pack [(16, j.tag), (8, e.status)]))
  else d

/-- How the end of a job leaves its ring. -/
def Dev.pressClosed (d : Dev) (u r : Nat) (j : PressJob) (e : PressEnd) : Dev :=
  if 0x10 ≤ e.status then d.pressHalt u r e.status j.slot else d.wr F.PRESS_RING_STAT_STATE 1 u r

/-- HEAD passes the job's slot. -/
def Dev.pressPassed (d : Dev) (u r : Nat) (j : PressJob) (lost : Bool) : Dev :=
  if lost then d else d.wr F.PRESS_HEAD_HEAD (if j.slot + 1 < d.pressSlots u r then j.slot + 1 else 0) u r

/-- Word 8 of a job that has ended. -/
def PressJob.word8 (j : PressJob) (e : PressEnd) : Nat :=
  2 ^ 31 + b2n (j.op == 1 && e.status == 0 && decide (e.consumed < j.len)) * 2 ^ 30 + e.status * 2 ^ 16 + j.tag

/-- Words 9 to 13 of a job that has ended. -/
def PressEnd.words (e : PressEnd) : List Nat := [e.out.length, e.consumed, e.chk, e.pos / 8, e.pos % 8]

/-- The result words in the job's slot. -/
def Dev.pressWrote (d : Dev) (u r : Nat) (j : PressJob) (e : PressEnd) (lost : Bool) : Dev :=
  let a := d.pressSlotAt u r j.slot
  if lost then d
  else if d.pressHostRing u r then (d.hostWords (a + 36) e.words).hostWords (a + 32) [j.word8 e]
  else (d.dramWrite u (pressSrc u) (a % 2 ^ 40 + 36) (e.words.flatMap (leBytes 4))).dramWrite u (pressSrc u) (a % 2 ^ 40 + 32) (leBytes 4 (j.word8 e))

/-- Whether the ring of a job cannot be written back to. -/
def Dev.pressLost (d : Dev) (u r : Nat) : Bool := d.pressHostRing u r && !d.rackHostOk u

section

variable {job : PressJob} {e : PressEnd} {lost : Bool}

theorem pressWriteback_eq (d : Dev) (u r : Nat) (j : PressJob) (e : PressEnd) : d.pressWriteback u r j e =
    (((d.pressWrote u r j e (d.pressLost u r)).pressPassed u r j (d.pressLost u r)).pressTold u r j e (d.pressLost u r)).pressClosed u r j e := rfl

theorem pressLost_dram (h : d.pressHostRing u r = false) : d.pressLost u r = false := by
  rw [Dev.pressLost, h, Bool.false_and]

theorem pressPassed_keeps (hhead : ∀ {d : Dev} (v : Nat), P d → P (d.wr F.PRESS_HEAD_HEAD v u r)) (h : P d) : P (d.pressPassed u r job lost) := by
  unfold Dev.pressPassed
  cases lost with
  | true => exact h
  | false => exact hhead _ h

namespace PressKeeps

variable (k : PressKeeps P)
include k

theorem halt (h : P d) (u r status i : Nat) : P (d.pressHalt u r status i) := by
  obtain ⟨reg, raise⟩ := k
  rw [pressHalt_eq]
  exact raise _ _ (reg (by decide) (reg (by decide) (reg (by decide) (reg (by decide) h))))

theorem told (h : P d) : P (d.pressTold u r job e lost) := by
  obtain ⟨-, raise⟩ := k
  unfold Dev.pressTold
  split_ifs
  · exact raise _ _ h
  · exact raise _ _ h
  · exact h

theorem closed (h : P d) : P (d.pressClosed u r job e) := by
  unfold Dev.pressClosed
  split_ifs
  · exact k.halt h ..
  · exact k.1 (by decide) h

/-- What a write-back leaves of a property that neither host memory nor DRAM bears on. -/
theorem writeback (l : DramLogKeeps P) (hhost : ∀ {d : Dev} (n : Nat) (ws : List Nat), P d → P (d.hostWords n ws))
    (hdram : ∀ {d : Dev} {q : Nat} (h : Dram → Dram), P d → P (d.updDram q h))
    (hhead : ∀ {d : Dev} (v : Nat), P d → P (d.wr F.PRESS_HEAD_HEAD v u r)) (h : P d) : P (d.pressWriteback u r job e) := by
  rw [pressWriteback_eq]
  refine k.closed (k.told (pressPassed_keeps hhead ?_))
  unfold Dev.pressWrote
  dsimp only
  split_ifs
  · exact h
  · exact hhost _ _ (hhost _ _ h)
  · exact l.dramWrite hdram (l.dramWrite hdram h)

end PressKeeps

theorem pressWriteback_press : (d.pressWriteback u r job e).press u = d.press u :=
  (pressKeeps_press _).writeback (dramLogKeeps_press _) (fun _ _ h => h) (fun h t => (updDram_press h).trans t)
    (fun _ h => h) rfl

theorem pressWriteback_rd (hl : f.reg ∉ RegId.QDL_PEER :: dramLogRegs) (hh : f.reg ≠ .PRESS_HEAD)
    (hf : ∀ h ∈ pressRingFlds, f.reg ≠ h.reg ∨ f.lo ≠ h.lo) :
    (d.pressWriteback u r job e).rd f p i j = d.rd f p i j :=
  (pressKeeps_rd (fun h => hl (h ▸ List.mem_cons_self)) hf).writeback (dramLogKeeps_rd hl) (fun _ _ h => h) (fun _ h => h)
    (fun _ h => (rd_wr_of_reg hh).trans h) rfl

/-- The state in which the end of a job leaves its ring (R528, R529). -/
theorem pressWriteback_state : (d.pressWriteback u r job e).rd F.PRESS_RING_STAT_STATE u r = (if 0x10 ≤ e.status then 3 else 1) ∧
    (0x10 ≤ e.status → (d.pressWriteback u r job e).rd F.PRESS_RING_STAT_LSTATUS u r = e.status % 2 ^ 8) := by
  rw [pressWriteback_eq, Dev.pressClosed]
  split_ifs with h
  · obtain ⟨hstate, hlast, -⟩ := pressHalt_shows
      (((d.pressWrote u r job e (d.pressLost u r)).pressPassed u r job (d.pressLost u r)).pressTold u r job e (d.pressLost u r)) u r e.status job.slot
    exact ⟨hstate, fun _ => hlast⟩
  · exact ⟨rd_wr_of_lt (by decide), fun h' => absurd h' h⟩

/-- HEAD passes the slot of a job whose ring is in DRAM (R528). -/
theorem pressWriteback_head (hr : d.pressHostRing u r = false) : (d.pressWriteback u r job e).rd F.PRESS_HEAD_HEAD u r =
    (if job.slot + 1 < d.pressSlots u r then job.slot + 1 else 0) % 2 ^ 16 := by
  rw [pressWriteback_eq, pressLost_dram hr]
  set w := d.pressWrote u r job e false
  have hslots : w.pressSlots u r = d.pressSlots u r := by
    refine pressSlots_congr ?_
    unfold w Dev.pressWrote
    dsimp only
    rw [if_neg (by decide), hr, if_neg (by decide)]
    exact (dramWrite_rd (by decide)).trans (dramWrite_rd (by decide))
  have k := pressKeeps_rd (f := F.PRESS_HEAD_HEAD) (v := (if job.slot + 1 < d.pressSlots u r then job.slot + 1 else 0) % 2 ^ 16) (p := u) (i := r)
    (j := 0) (by decide) (by decide)
  refine k.closed (k.told ?_)
  rw [← hslots]
  exact Dev.rd_wr ..

/-- The result words stand in the DRAM of a job's ring (R528). -/
theorem pressWriteback_mem (hr : d.pressHostRing u r = false) : ((d.pressWriteback u r job e).dram u).mem =
    ((d.dram u).mem.writes (d.pressSlotAt u r job.slot % 2 ^ 40 + 36) (e.words.flatMap (leBytes 4))).writes
      (d.pressSlotAt u r job.slot % 2 ^ 40 + 32) (leBytes 4 (job.word8 e)) := by
  rw [pressWriteback_eq, pressLost_dram hr]
  have hpipes : ∀ w : Dev, (((w.pressPassed u r job false).pressTold u r job e false).pressClosed u r job e).pipes = w.pipes := fun w =>
    have k := pressKeeps_pipes w.pipes
    k.closed (k.told (pressPassed_keeps (P := fun t => t.pipes = w.pipes) (fun _ h => h) rfl))
  have hdram : ∀ {a b : Dev}, a.pipes = b.pipes → a.dram u = b.dram u := fun h => by rw [Dev.dram, Dev.dram, Dev.pipe, Dev.pipe, h]
  rw [hdram (hpipes _), Dev.pressWrote, hr]
  exact (dramWrite_mem ..).trans (congrArg (Mem.writes · _ _) (dramWrite_mem ..))

end

end Sys2Proof.Machine
end

section
/-!
What each command of a Press engine does to its core (R528 to R531).
-/
namespace Sys2Proof.Machine

variable {P : Dev → Prop} {s : State} {d : Dev} {f : Fld} {v p i u r n : Nat} {g : Press → Press} {j : PressJob} {e : PressEnd}

/-! ### Work that a Pavane stops -/

theorem does_of_runWork {c : Instr} {f : Dev → Dev} {q : Dev → Prop} (ha : s.awake) (hs : ∀ t, q t → q (settle t)) (hl : s.dev.stopped = false)
    (h : exec c s = runWork s f) (hq : q (f s.dev)) : Does c s q := ⟨f s.dev, by rw [h, runWork_live ha hl], hs _ hq⟩

theorem exec_of_runWork {c : Instr} {f : Dev → Dev} (ha : s.awake) (h : exec c s = runWork s f)
    (hd : s.dev.stopped = true ∨ f s.dev = s.dev) : exec c s = .next (s.after s.dev) := by
  rw [h, runWork, run_awake ha]
  split_ifs with hp
  · rfl
  · rw [hd.resolve_left hp]

/-! ### The core takes a descriptor (R529, R530) -/

theorem updPress_pressHostRing : (d.updPress u g).pressHostRing u r = d.pressHostRing u r := by
  simp only [Dev.pressHostRing, updPress_rd]

theorem updPress_rackHostOk : (d.updPress u g).rackHostOk u = d.rackHostOk u := by
  unfold Dev.updPress
  split_ifs <;> rfl

theorem updPress_pressSlotAt : (d.updPress u g).pressSlotAt u r n = d.pressSlotAt u r n := by
  simp only [Dev.pressSlotAt, Dev.rd64, updPress_rd]

theorem updPress_dramBad {q w : Nat} : (d.updPress u g).dramBad q w = d.dramBad q w := by
  have hchan : ∀ a, (d.updPress u g).dramChan q a = d.dramChan q a := fun a => by
    unfold Dev.updPress
    split_ifs <;> rfl
  simp only [Dev.dramBad, updPress_rd, updPress_dram, hchan]

/-- What a read of DRAM gives does not depend on a Press engine. -/
theorem updPress_dramRead {q src a : Nat} : ((d.updPress u g).dramRead q src a n).1 = (d.dramRead q src a n).1 ∧
    ((d.updPress u g).dramRead q src a n).2.1 = (d.dramRead q src a n).2.1 := by
  simp only [Dev.dramRead, updPress_dram, updPress_dramBad, and_self]

/-- The core takes the descriptor at the next slot of ring `r`, whose turn it is. -/
def Dev.pressTake (d : Dev) (u r : Nat) : Dev :=
  let slot := Tab.get 0 (d.press u).next r
  let a := d.pressSlotAt u r slot
  if d.pressHostRing u r then
    if d.rackHostOk u then
      (d.updPress u fun x => { x with fetching := some r }).updHub fun h => { h with hreq := h.hreq ++ [.press u r] }
    else d.pressHalt u r 0x1F slot
  else
    let x := d.dramRead u (pressSrc u) (a % 2 ^ 40) 32
    if x.2.1 then x.2.2.pressHalt u r 0x1F slot else x.2.2.pressBegin u r (words32 x.1)

theorem pressStart_idle (h : (d.press u).job.isSome = true ∨ (d.press u).fetching.isSome = true ∨ d.pressPick u = none) : d.pressStart u = d := by
  unfold Dev.pressStart
  split_ifs with hb
  · rfl
  · rw [Bool.or_eq_true, not_or] at hb
    rw [(h.resolve_left hb.1).resolve_left hb.2]

theorem pressStart_take (hj : (d.press u).job = none) (hf : (d.press u).fetching = none) (hp : d.pressPick u = some r) :
    d.pressStart u = (d.updPress u fun x => { x with last := r }).pressTake u r := by
  unfold Dev.pressStart
  rw [hj, hf, if_neg (by decide), hp]
  rfl

/-- A descriptor in host memory is read for. -/
theorem pressTake_host (hr : d.pressHostRing u r = true) (ho : d.rackHostOk u = true) : ((d.pressTake u r).press u).fetching = some r ∧
    ((d.pressTake u r).press u).last = (d.press u).last ∧ (d.pressTake u r).hub.hreq = d.hub.hreq ++ [.press u r] := by
  have same : ∀ (t : Dev) (l : HubSt → List HostUser), (t.updHub fun h => { h with hreq := l h }).press u = t.press u := fun _ _ => rfl
  unfold Dev.pressTake
  dsimp only
  rw [if_pos hr, if_pos ho, same, updPress_press, Dev.updHub_hub, updPress_hreq]
  exact ⟨rfl, rfl, rfl⟩

/-- A ring in host memory that cannot be reached halts. -/
theorem pressTake_unreachable (hr : d.pressHostRing u r = true) (ho : d.rackHostOk u = false) :
    d.pressTake u r = d.pressHalt u r 0x1F (Tab.get 0 (d.press u).next r) := by
  unfold Dev.pressTake
  dsimp only
  rw [if_pos hr, ho]
  rfl

theorem pressTake_dram (hr : d.pressHostRing u r = false)
    (hg : (d.dramRead u (pressSrc u) (d.pressSlotAt u r (Tab.get 0 (d.press u).next r) % 2 ^ 40) 32).2.1 = false) :
    d.pressTake u r = (d.dramRead u (pressSrc u) (d.pressSlotAt u r (Tab.get 0 (d.press u).next r) % 2 ^ 40) 32).2.2.pressBegin u r
      (words32 (d.dramRead u (pressSrc u) (d.pressSlotAt u r (Tab.get 0 (d.press u).next r) % 2 ^ 40) 32).1) := by
  unfold Dev.pressTake
  dsimp only
  rw [hr, if_neg (by decide), hg]
  rfl

/-- The descriptor becomes the core's job. -/
theorem pressBegin_shows (d : Dev) (u r : Nat) (ws : List Nat) :
    (∃ j, ((d.pressBegin u r ws).press u).job = some (r, j) ∧ j.slot = Tab.get 0 (d.press u).next r ∧ j.ws = ws) ∧
      (d.pressBegin u r ws).on F.PRESS_GSTAT_BUSY u = true ∧ (d.pressBegin u r ws).rd F.PRESS_RING_STAT_STATE u r = 2 ∧
      Tab.get 0 ((d.pressBegin u r ws).press u).next r =
        if Tab.get 0 (d.press u).next r + 1 < d.pressSlots u r then Tab.get 0 (d.press u).next r + 1 else 0 := by
  have reg : ∀ {f g : Fld} {v i' : Nat} {d : Dev}, f.reg ≠ g.reg → (d.wr g v u i').rd f u = d.rd f u := rd_wr_of_reg
  have lo : ∀ {f g : Fld} {v : Nat} {d : Dev}, f.lo ≠ g.lo → (d.wr g v u).rd f u = d.rd f u := rd_wr_of_lo
  have same : ∀ (t : Dev) (h : Fld) (v p i : Nat), (t.wr h v p i).press u = t.press u := fun _ _ _ _ _ => rfl
  unfold Dev.pressBegin
  extract_lets slot j₀ j₁ next d₁
  have hpress : d₁.press u = { d.press u with fetching := none, job := some (r, j₁), next := Tab.put (d.press u).next r next } := updPress_press
  refine ⟨⟨j₁, ?_, rfl, rfl⟩, ?_, rd_wr_of_lt (by decide), ?_⟩
  · rw [same, same, same, hpress]
  · rw [Dev.on, reg (by decide), lo (by decide), rd_wr_of_lt (by decide)]
    rfl
  · rw [same, same, same, hpress]
    exact Tab.get_put_same ..

/-! ### The end of a job (R528 to R530) -/

/-- A job ends with `e`: it is counted and written back. -/
def Dev.pressDone (d : Dev) (u r : Nat) (j : PressJob) (e : PressEnd) : Dev := (d.pressCount u e).pressWriteback u r j e

/-- The registers of the counters of jobs. -/
def pressCntRegs : List RegId :=
  [.PRESS_IN_CNT_LO, .PRESS_IN_CNT_HI, .PRESS_OUT_CNT_LO, .PRESS_OUT_CNT_HI, .PRESS_FAIL_CNT_LO, .PRESS_FAIL_CNT_HI]

/-- The counters of a job that ends. -/
def Dev.pressCounted (d : Dev) (u : Nat) (e : PressEnd) : Dev :=
  let d := (d.bumpBy e.consumed C.PRESS_IN_CNT u).bumpBy e.out.length C.PRESS_OUT_CNT u
  if e.status = 0 then d else d.bump C.PRESS_FAIL_CNT u

theorem pressCount_eq : d.pressCount u e = ((d.pressCounted u e).updPress u fun x => { x with job := none }).wr F.PRESS_GSTAT_BUSY 0 u := rfl

theorem pressCounted_keeps (hw : ∀ {d : Dev} {h : Fld} {v : Nat}, h.reg ∈ pressCntRegs → P d → P (d.wr h v u)) (h : P d) : P (d.pressCounted u e) := by
  have count : ∀ {c : Cnt} {n : Nat} {d : Dev}, (∀ h ∈ [c.lo, c.hi, c.sat], h.reg ∈ pressCntRegs) → P d → P (d.bumpBy n c u) :=
    fun hc hd => bumpBy_keeps (fun hm => hw (hc _ hm)) hd
  have both := count (n := e.out.length) (c := C.PRESS_OUT_CNT) (by decide) (count (n := e.consumed) (c := C.PRESS_IN_CNT) (by decide) h)
  unfold Dev.pressCounted
  dsimp only
  split_ifs
  · exact both
  · exact count (by decide) both

theorem pressCount_press : (d.pressCount u e).press u = { d.press u with job := none } := by
  have hc : (d.pressCounted u e).press u = d.press u := pressCounted_keeps (P := fun t => t.press u = d.press u) (fun _ h => h) rfl
  have same : ∀ (t : Dev) (h : Fld) (v : Nat), (t.wr h v u).press u = t.press u := fun _ _ _ => rfl
  rw [pressCount_eq, same, updPress_press, hc]

theorem pressCount_dram : (d.pressCount u e).dram n = d.dram n := by
  have hc : (d.pressCounted u e).dram n = d.dram n := pressCounted_keeps (P := fun t => t.dram n = d.dram n) (fun _ h => h) rfl
  rw [pressCount_eq, ← hc]
  exact updPress_dram

theorem pressCount_rd {k l : Nat} (hf : f.reg ∉ RegId.PRESS_GSTAT :: pressCntRegs) : (d.pressCount u e).rd f p k l = d.rd f p k l := by
  simp only [List.mem_cons, not_or] at hf
  obtain ⟨hg, hc⟩ := hf
  rw [pressCount_eq, rd_wr_of_reg hg, updPress_rd]
  exact pressCounted_keeps (P := fun t => t.rd f p k l = d.rd f p k l) (fun hm h => (rd_wr_of_mem hc hm).trans h) rfl

theorem pressCount_busy : (d.pressCount u e).rd F.PRESS_GSTAT_BUSY u = 0 := rd_wr_of_lt (by decide)

/-- The bytes a job has written are counted. -/
theorem pressCount_out (h : e.status = 0) :
    (d.pressCount u e).cnt C.PRESS_OUT_CNT u = min (2 ^ 48 - 1) (d.cnt C.PRESS_OUT_CNT u + e.out.length) := by
  have rest : ∀ t : Dev, ((t.updPress u fun x => { x with job := none }).wr F.PRESS_GSTAT_BUSY 0 u).cnt C.PRESS_OUT_CNT u = t.cnt C.PRESS_OUT_CNT u :=
    fun t => by
      rw [Dev.cnt, Dev.cnt, rd_wr_of_reg (by decide), rd_wr_of_reg (by decide), updPress_rd, updPress_rd]
  have hin : ∀ m, (d.bumpBy m C.PRESS_IN_CNT u).cnt C.PRESS_OUT_CNT u = d.cnt C.PRESS_OUT_CNT u := fun m => by
    rw [Dev.cnt, Dev.cnt, bumpBy_rd (by decide), bumpBy_rd (by decide)]
  rw [pressCount_eq, rest, Dev.pressCounted, if_pos h, bumpBy_cnt (by decide) rfl rfl, hin]

theorem pressDone_job : ((d.pressDone u r j e).press u).job = none := by
  rw [Dev.pressDone, pressWriteback_press, pressCount_press]

/-- What the end of a job of a ring in DRAM shows. -/
theorem pressDone_shows (hr : d.pressHostRing u r = false) : ((d.pressDone u r j e).press u).job = none ∧
    (d.pressDone u r j e).on F.PRESS_GSTAT_BUSY u = false ∧
    (d.pressDone u r j e).rd F.PRESS_HEAD_HEAD u r = (if j.slot + 1 < d.pressSlots u r then j.slot + 1 else 0) % 2 ^ 16 ∧
    (d.pressDone u r j e).rd F.PRESS_RING_STAT_STATE u r = (if 0x10 ≤ e.status then 3 else 1) ∧
    (0x10 ≤ e.status → (d.pressDone u r j e).rd F.PRESS_RING_STAT_LSTATUS u r = e.status % 2 ^ 8) := by
  obtain ⟨hstate, hlast⟩ := pressWriteback_state (d := d.pressCount u e) (u := u) (r := r) (job := j) (e := e)
  have hring : (d.pressCount u e).pressHostRing u r = false := by rwa [Dev.pressHostRing, pressCount_rd (by decide)]
  refine ⟨pressDone_job, ?_, ?_, hstate, hlast⟩
  · rw [Dev.pressDone, Dev.on, pressWriteback_rd (by decide) (by decide) (by decide), pressCount_busy]
    rfl
  · rw [Dev.pressDone, pressWriteback_head hring, pressSlots_congr (pressCount_rd (by decide))]

/-- The result words of a job of a ring in DRAM. -/
theorem pressDone_mem (hr : d.pressHostRing u r = false) : ((d.pressDone u r j e).dram u).mem =
    ((d.dram u).mem.writes (d.pressSlotAt u r j.slot % 2 ^ 40 + 36) (e.words.flatMap (leBytes 4))).writes
      (d.pressSlotAt u r j.slot % 2 ^ 40 + 32) (leBytes 4 (j.word8 e)) := by
  have hring : (d.pressCount u e).pressHostRing u r = false := by rwa [Dev.pressHostRing, pressCount_rd (by decide)]
  have hslot : (d.pressCount u e).pressSlotAt u r j.slot = d.pressSlotAt u r j.slot := by
    rw [Dev.pressSlotAt, Dev.pressSlotAt, Dev.rd64, Dev.rd64, pressCount_rd (by decide), pressCount_rd (by decide)]
  rw [Dev.pressDone, pressWriteback_mem hring, pressCount_dram, hslot]

theorem pressDone_out (h : e.status = 0) :
    (d.pressDone u r j e).cnt C.PRESS_OUT_CNT u = min (2 ^ 48 - 1) (d.cnt C.PRESS_OUT_CNT u + e.out.length) := by
  rw [← pressCount_out h, Dev.pressDone, Dev.cnt, Dev.cnt, pressWriteback_rd (by decide) (by decide) (by decide),
    pressWriteback_rd (by decide) (by decide) (by decide)]

variable {bad denied both : Bool}

theorem pressEnd_idle (h : (d.press u).job = none) : d.pressEnd u bad denied n both = d := by
  unfold Dev.pressEnd
  rw [h]

/-- A job whose status stands when it ends. -/
theorem pressEnd_preset {st : Nat} (hj : (d.press u).job = some (r, j)) (hs : j.status = some st) :
    d.pressEnd u bad denied n both = d.pressDone u r j { status := st, consumed := if st = 0x14 then min n j.len else 0 } := by
  unfold Dev.pressEnd
  rw [hj]
  dsimp only
  rw [hs]
  rfl

/-- What a job that runs comes to on its source. -/
def Dev.pressResult (d : Dev) (u : Nat) (j : PressJob) (read : Nat) (both : Bool) : PressEnd :=
  let p := if u = 4 then j.src / 2 ^ 40 % 4 else u
  let src := if j.srck = 1 then d.hostMem.reads j.src j.len else (d.dram p).mem.reads (j.src % 2 ^ 40) j.len
  if j.op = 0 then deflateEnd j src (min read j.len) both else inflateEnd j src

/-- The read of the source of a job that comes to `e`: whether a word of it is poisoned. -/
def Dev.pressSource (d : Dev) (u : Nat) (j : PressJob) (e : PressEnd) (bad : Bool) : Bool × Dev :=
  if j.srck = 1 then (bad, d) else (d.dramRead (if u = 4 then j.src / 2 ^ 40 % 4 else u) (pressSrc u) (j.src % 2 ^ 40) e.consumed).2

/-- The output of a job at its destination. -/
def Dev.pressOutput (d : Dev) (u : Nat) (j : PressJob) (e : PressEnd) : Dev :=
  if j.dstk = 1 then d.hostWrite j.dst e.out else d.dramWrite (if u = 4 then j.dst / 2 ^ 40 % 4 else u) (pressSrc u) (j.dst % 2 ^ 40) e.out

/-- How a job that comes to `e` ends once its source is read. -/
def Dev.pressFinish (d : Dev) (u r : Nat) (j : PressJob) (e : PressEnd) (psn denied : Bool) (read : Nat) : Dev :=
  if psn then d.pressDone u r j { status := 3, consumed := min read j.len }
  else if e.status ≠ 0 then d.pressDone u r j e
  else if j.dstk = 1 ∧ denied then d.pressDone u r j { status := 0x12, consumed := e.consumed }
  else (d.pressOutput u j e).pressDone u r j e

theorem pressEnd_runs (hj : (d.press u).job = some (r, j)) (hs : j.status = none) : d.pressEnd u bad denied n both =
    if (j.srck = 1 ∨ j.dstk = 1 ∨ d.pressHostRing u r) ∧ !d.rackHostOk u then d.pressDone u r j { status := 0x13, consumed := min n j.len }
    else (d.pressSource u j (d.pressResult u j n both) bad).2.pressFinish u r j (d.pressResult u j n both)
      (d.pressSource u j (d.pressResult u j n both) bad).1 denied n := by
  unfold Dev.pressEnd
  rw [hj]
  dsimp only
  rw [hs]
  rfl

/-- An inflate job from DRAM to DRAM, whose source is sound. -/
theorem pressEnd_inflate {out : List Byte} {used chk : Nat} (hu : u < 4) (hj : (d.press u).job = some (r, j)) (hs : j.status = none) (hop : j.op = 1)
    (hsrc : j.srck = 0) (hdst : j.dstk = 0) (hr : d.pressHostRing u r = false)
    (hi : inflate j.fmt ((d.dram u).mem.reads (j.src % 2 ^ 40) j.len) j.dlen = .ok (out, used, chk))
    (hg : (d.dramRead u (pressSrc u) (j.src % 2 ^ 40) used).2.1 = false) : d.pressEnd u bad denied n both =
      ((d.dramRead u (pressSrc u) (j.src % 2 ^ 40) used).2.2.dramWrite u (pressSrc u) (j.dst % 2 ^ 40) out).pressDone u r j
        { status := 0, out := out, consumed := used, chk := chk } := by
  have hne : u ≠ 4 := by omega
  have hresult : d.pressResult u j n both = { status := 0, out := out, consumed := used, chk := chk } := by
    unfold Dev.pressResult
    rw [if_neg (by rw [hop]; decide), if_neg (by rw [hsrc]; decide), if_neg hne, inflateEnd, hi]
  have hsource : d.pressSource u j { status := 0, out := out, consumed := used, chk := chk } bad =
      (d.dramRead u (pressSrc u) (j.src % 2 ^ 40) used).2 := by
    unfold Dev.pressSource
    rw [if_neg (by rw [hsrc]; decide), if_neg hne]
  rw [pressEnd_runs hj hs, if_neg (by simp [hsrc, hdst, hr]), hresult, hsource, Dev.pressFinish, hg, if_neg (by decide), if_neg (fun h => h rfl),
    if_neg (by simp [hdst]), Dev.pressOutput, if_neg (by rw [hdst]; decide), if_neg hne]

/-- Whatever ends a job frees the core. -/
theorem pressEnd_job : ((d.pressEnd u bad denied n both).press u).job = none := by
  cases hj : (d.press u).job with
  | none => rwa [pressEnd_idle hj]
  | some x =>
    obtain ⟨r, j⟩ := x
    cases hs : j.status with
    | some st =>
      rw [pressEnd_preset hj hs]
      exact pressDone_job
    | none =>
      rw [pressEnd_runs hj hs, Dev.pressFinish]
      split_ifs <;> exact pressDone_job

end Sys2Proof.Machine
end

section
/-!
ABORT, RESUME and the clearing of EN of a Press ring (R531), and the Press engines' obligation.
-/
namespace Sys2Proof.Machine

variable {s : State} {d : Dev} {u r : Nat} {j : PressJob}

/-! ### ABORT and RESUME (R531) -/

theorem pressAbort_idle (h₁ : d.rd F.PRESS_RING_STAT_STATE u r ≠ 1) (h₂ : d.rd F.PRESS_RING_STAT_STATE u r ≠ 2) : d.pressAbort u r = d := by
  unfold Dev.pressAbort
  exact if_pos (by simp [h₁, h₂])

/-- The slot at which a ring that aborts halts: the one before its next. -/
def Dev.pressBefore (d : Dev) (u r : Nat) (x : Press) : Nat :=
  let n := Tab.get 0 x.next r
  if n = 0 then d.pressSlots u r - 1 else n - 1

/-- A ring whose descriptor, if it is read for, is no longer. -/
def Dev.pressUnread (d : Dev) (u r : Nat) : Dev :=
  if (d.press u).fetching = some r then
    (d.updPress u fun x => { x with fetching := none }).updHub fun h => { h with hreq := h.hreq.filter fun y => y != .press u r }
  else d

section

variable (hs : d.rd F.PRESS_RING_STAT_STATE u r = 1 ∨ d.rd F.PRESS_RING_STAT_STATE u r = 2)
include hs

theorem pressAbort_eq : d.pressAbort u r = match (d.press u).job with
    | some (q, j) =>
      if q = r then (d.updPress u fun x => { x with job := some (r, { j with status := some 0x14 }) }).wr F.PRESS_RING_STAT_STATE 4 u r
      else d.pressHalt u r 0x14 (d.pressBefore u r (d.press u))
    | none => (d.pressUnread u r).pressHalt u r 0x14 ((d.pressUnread u r).pressBefore u r (d.press u)) := by
  have hb : (!(d.rd F.PRESS_RING_STAT_STATE u r == 1 || d.rd F.PRESS_RING_STAT_STATE u r == 2)) = false := by
    rcases hs with h | h <;> rw [h] <;> rfl
  unfold Dev.pressAbort
  exact if_neg (by rw [hb]; decide)

theorem pressAbort_running (hj : (d.press u).job = some (r, j)) : d.pressAbort u r =
    (d.updPress u fun x => { x with job := some (r, { j with status := some 0x14 }) }).wr F.PRESS_RING_STAT_STATE 4 u r := by
  rw [pressAbort_eq hs, hj]
  exact if_pos rfl

theorem pressAbort_other {q : Nat} (hj : (d.press u).job = some (q, j)) (hq : q ≠ r) :
    d.pressAbort u r = d.pressHalt u r 0x14 (d.pressBefore u r (d.press u)) := by
  rw [pressAbort_eq hs, hj]
  exact if_neg hq

theorem pressAbort_none (hj : (d.press u).job = none) :
    d.pressAbort u r = (d.pressUnread u r).pressHalt u r 0x14 ((d.pressUnread u r).pressBefore u r (d.press u)) := by
  rw [pressAbort_eq hs, hj]

/-- ABORT of a ring whose job runs: the job is to end as ABORTED. -/
theorem pressAbort_running_shows (hj : (d.press u).job = some (r, j)) : (d.pressAbort u r).rd F.PRESS_RING_STAT_STATE u r = 4 ∧
    ((d.pressAbort u r).press u).job = some (r, { j with status := some 0x14 }) := by
  have same : ∀ (t : Dev) (h : Fld) (v p i : Nat), (t.wr h v p i).press u = t.press u := fun _ _ _ _ _ => rfl
  rw [pressAbort_running hs hj, same, updPress_press]
  exact ⟨rd_wr_of_lt (by decide), rfl⟩

/-- ABORT of a ring whose job does not run halts it. -/
theorem pressAbort_halts (hj : ∀ j, (d.press u).job ≠ some (r, j)) :
    ∃ t i, (t = d ∨ t = d.pressUnread u r ∧ (d.press u).job = none) ∧ d.pressAbort u r = t.pressHalt u r 0x14 i := by
  cases h : (d.press u).job with
  | none => exact ⟨_, _, .inr ⟨rfl, rfl⟩, pressAbort_none hs h⟩
  | some x => exact ⟨_, _, .inl rfl, pressAbort_other hs h fun e => hj x.2 (by rw [h, ← e])⟩

end

theorem pressUnread_job : ((d.pressUnread u r).press u).job = (d.press u).job := by
  have same : ∀ (t : Dev) (l : HubSt → List HostUser), (t.updHub fun h => { h with hreq := l h }).press u = t.press u := fun _ _ => rfl
  unfold Dev.pressUnread
  split_ifs
  · rw [same, updPress_press]
  · rfl

theorem pressHalt_press {status i : Nat} : (d.pressHalt u r status i).press u = d.press u := (pressKeeps_press _).halt rfl ..

/-- ABORT gives the ring no job. -/
theorem pressAbort_job_ne (hj : ∀ j, (d.press u).job ≠ some (r, j)) (j : PressJob) : ((d.pressAbort u r).press u).job ≠ some (r, j) := by
  by_cases hs : d.rd F.PRESS_RING_STAT_STATE u r = 1 ∨ d.rd F.PRESS_RING_STAT_STATE u r = 2
  · obtain ⟨t, i, ht, he⟩ := pressAbort_halts hs hj
    rw [he, pressHalt_press]
    rcases ht with rfl | ⟨rfl, -⟩
    · exact hj j
    · rw [pressUnread_job]
      exact hj j
  · rw [pressAbort_idle (fun h => hs (.inl h)) (fun h => hs (.inr h))]
    exact hj j

theorem pressResume_shows (h : d.rd F.PRESS_RING_STAT_STATE u r = 3) : (d.pressResume u r).rd F.PRESS_RING_STAT_STATE u r = 1 ∧
    Tab.get 0 ((d.pressResume u r).press u).next r =
      if d.rd F.PRESS_RING_STAT_HIDX u r + 1 < d.pressSlots u r then d.rd F.PRESS_RING_STAT_HIDX u r + 1 else 0 := by
  have same : ∀ (t : Dev) (h : Fld) (v p i : Nat), (t.wr h v p i).press u = t.press u := fun _ _ _ _ _ => rfl
  unfold Dev.pressResume
  rw [if_pos h]
  refine ⟨rd_wr_of_lt (by decide), ?_⟩
  rw [same, updPress_press]
  refine (Tab.get_put_same ..).trans ?_
  rw [pressSlots_congr (rd_wr_of_reg (by decide))]

/-! ### The clearing of EN (R531) -/

/-- The core with the ring's job, where it runs, ended. -/
def Dev.pressStopped (d : Dev) (u r : Nat) : Dev :=
  let running := match (d.press u).job with | some (q, _) => q == r | none => false
  let d := if running || (d.press u).fetching == some r then d.pressAbort u r else d
  if running then d.draw.2.pressEnd u false false d.draw.1 false else d

/-- The ring turned off. -/
def Dev.pressOff (d : Dev) (u r : Nat) : Dev :=
  let d := (d.wr F.PRESS_RING_CFG_EN 0 u r).wr F.PRESS_RING_STAT_STATE 0 u r
  d.wr F.PRESS_GSTAT_HALTED (clrBit (d.rd F.PRESS_GSTAT_HALTED u) r) u

theorem pressDisable_on (h : d.on F.PRESS_RING_CFG_EN u r = true) : d.pressDisable u r = (d.pressStopped u r).pressOff u r := by
  unfold Dev.pressDisable
  rw [h]
  rfl

theorem pressDisable_off (h : d.on F.PRESS_RING_CFG_EN u r = false) : d.pressDisable u r = d := by
  unfold Dev.pressDisable
  exact if_pos (by rw [h]; rfl)

theorem pressStopped_job (j : PressJob) : ((d.pressStopped u r).press u).job ≠ some (r, j) := by
  unfold Dev.pressStopped
  extract_lets running e
  by_cases hr : running = true
  · rw [if_pos hr, pressEnd_job]
    exact nofun
  · have hj : ∀ j, (d.press u).job ≠ some (r, j) := fun j h => hr (by simp only [running, h, beq_self_eq_true])
    rw [if_neg hr]
    unfold e
    split_ifs
    · exact pressAbort_job_ne hj j
    · exact hj j

theorem bit_clrBit (v i : Nat) : bit (clrBit v i) i = false := by
  unfold clrBit
  split_ifs with h
  · have hodd : v / 2 ^ i % 2 = 1 := by simpa [bit] using h
    have hsub : (v - 2 ^ i) / 2 ^ i = v / 2 ^ i - 1 := by simpa using Nat.sub_mul_div v (2 ^ i) 1
    rw [bit, hsub, beq_eq_false_iff_ne]
    omega
  · exact Bool.eq_false_iff.mpr h

/-- The bits that a field keeps are those of the value. -/
theorem bit_mod_two_pow {i w : Nat} (v : Nat) (h : i < w) : bit (v % 2 ^ w) i = bit v i := by
  have := Nat.testBit_mod_two_pow v w i
  simpa [Nat.testBit_eq_decide_div_mod_eq, h, bit, Bool.beq_eq_decide_eq] using this

theorem pressOff_shows (r : Fin 4) : (d.pressOff u r).on F.PRESS_RING_CFG_EN u r = false ∧
    (d.pressOff u r).rd F.PRESS_RING_STAT_STATE u r = 0 ∧ bit ((d.pressOff u r).rd F.PRESS_GSTAT_HALTED u) r = false ∧
    (d.pressOff u r).press u = d.press u := by
  have reg : ∀ {f g : Fld} {v i' : Nat} {d : Dev}, f.reg ≠ g.reg → (d.wr g v u i').rd f u r = d.rd f u r := rd_wr_of_reg
  unfold Dev.pressOff
  extract_lets e
  refine ⟨?_, ?_, ?_, rfl⟩
  · rw [Dev.on, reg (by decide), reg (by decide), rd_wr_of_lt (by decide)]
    rfl
  · exact (reg (by decide)).trans (rd_wr_of_lt (by decide))
  · rw [Dev.rd_wr]
    exact (bit_mod_two_pow _ r.isLt).trans (bit_clrBit ..)

end Sys2Proof.Machine
end

section
/-!
The Press engines' obligation (R527 to R531).
-/
namespace Sys2Proof.Machine

variable {s : State} {d : Dev} {r : Nat}

/-- The descriptor that the idle core takes from a ring in DRAM becomes its job (R530). -/
theorem pressStart_dram {u : Nat} {bs : List Byte} {e : Dev} (hj : (d.press u).job = none) (hf : (d.press u).fetching = none)
    (hp : d.pressPick u = some r) (hr : d.pressHostRing u r = false)
    (hd : d.dramRead u (pressSrc u) (d.pressSlotAt u r (Tab.get 0 (d.press u).next r) % 2 ^ 40) 32 = (bs, false, e)) :
    (∃ j, ((d.pressStart u).press u).job = some (r, j) ∧ j.slot = Tab.get 0 (d.press u).next r ∧ j.ws = words32 bs) ∧
      (d.pressStart u).on F.PRESS_GSTAT_BUSY u = true ∧ (d.pressStart u).rd F.PRESS_RING_STAT_STATE u r = 2 ∧
      Tab.get 0 ((d.pressStart u).press u).next r =
        if Tab.get 0 (d.press u).next r + 1 < d.pressSlots u r then Tab.get 0 (d.press u).next r + 1 else 0 := by
  rw [pressStart_take hj hf hp]
  set t := d.updPress u fun x => { x with last := r }
  have hnext : (t.press u).next = (d.press u).next := by rw [updPress_press]
  have hslot : t.pressSlotAt u r (Tab.get 0 (t.press u).next r) = d.pressSlotAt u r (Tab.get 0 (d.press u).next r) := by
    rw [hnext]
    exact updPress_pressSlotAt
  obtain ⟨hbytes, hpsn⟩ := updPress_dramRead (d := d) (u := u) (g := fun x => { x with last := r }) (q := u) (src := pressSrc u)
    (a := d.pressSlotAt u r (Tab.get 0 (d.press u).next r) % 2 ^ 40) (n := 32)
  rw [pressTake_dram (updPress_pressHostRing.trans hr) (by rw [hslot]; exact hpsn.trans (by rw [hd])), hslot, hbytes, hd]
  have h := pressBegin_shows (t.dramRead u (pressSrc u) (d.pressSlotAt u r (Tab.get 0 (d.press u).next r) % 2 ^ 40) 32).2.2 u r (words32 bs)
  rw [dramRead_press, hnext, pressSlots_congr ((dramRead_rd (by decide)).trans (updPress_rd (d := d)))] at h
  exact h

/-- The idle core takes the descriptor of the next ring that has one (R529, R530). -/
theorem pressStart_answers (ha : s.awake) (u : Unit5) {slot : Nat} (hl : s.dev.stopped = false) (hj : (s.dev.press u).job = none)
    (hf : (s.dev.press u).fetching = none) (hp : s.dev.pressPick u = some r) (hslot : slot = Tab.get 0 (s.dev.press u).next r) :
    (s.dev.pressHostRing u r = true → s.dev.rackHostOk u = true → Does (.pressJobStart u) s fun t =>
      (t.press u).fetching = some r ∧ (t.press u).last = r ∧ t.hub.hreq = s.dev.hub.hreq ++ [.press u r]) ∧
    (s.dev.pressHostRing u r = true → s.dev.rackHostOk u = false → Does (.pressJobStart u) s fun t =>
      t.rd F.PRESS_RING_STAT_STATE u r = 3 ∧ t.rd F.PRESS_RING_STAT_LSTATUS u r = 0x1F ∧ t.rd F.PRESS_RING_STAT_HIDX u r = slot % 2 ^ 16) ∧
    (∀ bs e, s.dev.pressHostRing u r = false →
      s.dev.dramRead u (pressSrc u) (s.dev.pressSlotAt u r slot % 2 ^ 40) 32 = (bs, false, e) → Does (.pressJobStart u) s fun t =>
        (∃ j, (t.press u).job = some (r, j) ∧ j.slot = slot ∧ j.ws = words32 bs) ∧ t.on F.PRESS_GSTAT_BUSY u = true ∧
          t.rd F.PRESS_RING_STAT_STATE u r = 2 ∧ Tab.get 0 (t.press u).next r = if slot + 1 < s.dev.pressSlots u r then slot + 1 else 0) := by
  subst hslot
  refine ⟨fun hr ho => does_of_runWork ha (fun _ h => h) hl rfl ?_, fun hr ho => does_of_runWork ha (fun _ h => h) hl rfl ?_,
    fun bs e hr hd => does_of_runWork ha (fun _ h => h) hl rfl (pressStart_dram hj hf hp hr hd)⟩
  · rw [pressStart_take hj hf hp]
    obtain ⟨hfetch, hlast, hreq⟩ := pressTake_host (updPress_pressHostRing.trans hr) (updPress_rackHostOk.trans ho)
    exact ⟨hfetch, hlast.trans (congrArg Press.last updPress_press), hreq.trans (congrArg (· ++ _) updPress_hreq)⟩
  · rw [pressStart_take hj hf hp, pressTake_unreachable (updPress_pressHostRing.trans hr) (updPress_rackHostOk.trans ho), updPress_press]
    exact pressHalt_shows ..

/-- A job whose status stands ends with it (R528 to R531). -/
theorem pressEnd_preset_answers (ha : s.awake) (u : Unit5) {bad denied both : Bool} {n st : Nat} {j : PressJob} (hl : s.dev.stopped = false)
    (hj : (s.dev.press u).job = some (r, j)) (hs : j.status = some st) (hst : st < 2 ^ 8) (hr : s.dev.pressHostRing u r = false) :
    Does (.pressJobEnd u bad denied ⟨n, both⟩) s fun t => (t.press u).job = none ∧ t.on F.PRESS_GSTAT_BUSY u = false ∧
      t.rd F.PRESS_HEAD_HEAD u r = (if j.slot + 1 < s.dev.pressSlots u r then j.slot + 1 else 0) % 2 ^ 16 ∧
      t.rd F.PRESS_RING_STAT_STATE u r = (if 0x10 ≤ st then 3 else 1) ∧ (0x10 ≤ st → t.rd F.PRESS_RING_STAT_LSTATUS u r = st) := by
  refine does_of_runWork ha (fun _ h => h) hl rfl ?_
  rw [pressEnd_preset hj hs]
  obtain ⟨hjob, hbusy, hhead, hstate, hlast⟩ := pressDone_shows (j := j) (e := { status := st, consumed := if st = 0x14 then min n j.len else 0 }) hr
  exact ⟨hjob, hbusy, hhead, hstate, fun h => (hlast h).trans (Nat.mod_eq_of_lt hst)⟩

/-- Word 8 of an inflate job that ends well (R525, R528). -/
theorem word8_inflate {j : PressJob} {e : PressEnd} (hop : j.op = 1) (hs : e.status = 0) :
    j.word8 e = 2 ^ 31 + (if e.consumed < j.len then 2 ^ 30 else 0) + j.tag := by
  unfold PressJob.word8
  rw [hop, hs]
  by_cases h : e.consumed < j.len
  · simp [h, b2n]
  · simp [h, b2n]

/-- An inflate job from DRAM to DRAM ends well (R524 to R530). -/
theorem pressEnd_inflate_answers (ha : s.awake) (u : Unit5) {bad denied both : Bool} {n used chk a : Nat} {j : PressJob} {src out bs : List Byte}
    {e : Dev} (hu : u.val < 4) (hl : s.dev.stopped = false) (hj : (s.dev.press u).job = some (r, j)) (hs : j.status = none) (hop : j.op = 1)
    (hsrc : j.srck = 0) (hdst : j.dstk = 0) (hr : s.dev.pressHostRing u r = false)
    (hread : src = (s.dev.dram u).mem.reads (j.src % 2 ^ 40) j.len) (hi : inflate j.fmt src j.dlen = .ok (out, used, chk))
    (hd : s.dev.dramRead u (pressSrc u) (j.src % 2 ^ 40) used = (bs, false, e))
    (hslot : a = s.dev.pressSlotAt u r j.slot % 2 ^ 40) :
    Does (.pressJobEnd u bad denied ⟨n, both⟩) s fun t => (t.press u).job = none ∧ t.rd F.PRESS_RING_STAT_STATE u r = 1 ∧
      (t.dram u).mem = (((s.dev.dram u).mem.writes (j.dst % 2 ^ 40) out).writes (a + 36)
        ([out.length, used, chk, 0, 0].flatMap (leBytes 4))).writes (a + 32)
        (leBytes 4 (2 ^ 31 + (if used < j.len then 2 ^ 30 else 0) + j.tag)) ∧
      t.rd F.PRESS_HEAD_HEAD u r = (if j.slot + 1 < s.dev.pressSlots u r then j.slot + 1 else 0) % 2 ^ 16 ∧
      t.cnt C.PRESS_OUT_CNT u = min (2 ^ 48 - 1) (s.dev.cnt C.PRESS_OUT_CNT u + out.length) := by
  subst hread hslot
  refine does_of_runWork ha (fun _ h => h) hl rfl ?_
  rw [pressEnd_inflate hu hj hs hop hsrc hdst hr hi (by rw [hd])]
  set x := (s.dev.dramRead u (pressSrc u) (j.src % 2 ^ 40) used).2.2
  set t := x.dramWrite u (pressSrc u) (j.dst % 2 ^ 40) out
  set ended : PressEnd := { status := 0, out := out, consumed := used, chk := chk }
  have hrd : ∀ {f : Fld} {p i k : Nat}, f.reg ∉ RegId.QDL_PEER :: dramLogRegs → t.rd f p i k = s.dev.rd f p i k := fun hf =>
    (dramWrite_rd hf).trans (dramRead_rd hf)
  have hring : t.pressHostRing u r = false := by rwa [Dev.pressHostRing, hrd (by decide)]
  have hat : t.pressSlotAt u r j.slot = s.dev.pressSlotAt u r j.slot := by
    rw [Dev.pressSlotAt, Dev.pressSlotAt, Dev.rd64, Dev.rd64, hrd (by decide), hrd (by decide)]
  have hmem : (t.dram u).mem = (s.dev.dram u).mem.writes (j.dst % 2 ^ 40) out := by
    have hx : x.dram u = s.dev.dram u := by rw [Dev.dram, Dev.pipe, dramRead_pipes]; rfl
    rw [dramWrite_mem, hx]
  have hcnt : t.cnt C.PRESS_OUT_CNT u = s.dev.cnt C.PRESS_OUT_CNT u := by
    rw [Dev.cnt, Dev.cnt, hrd (by decide), hrd (by decide)]
  obtain ⟨hjob, -, hhead, hstate, -⟩ := pressDone_shows (j := j) (e := ended) hring
  refine ⟨hjob, hstate, ?_, ?_, ?_⟩
  · have hwords : ended.words = [out.length, used, chk, 0, 0] := by simp [PressEnd.words, ended]
    rw [pressDone_mem hring, hat, hmem, word8_inflate hop rfl, hwords]
  · rw [hhead, pressSlots_congr (hrd (by decide))]
  · rw [pressDone_out rfl, hcnt]

/-- What the commands of a ring answer (R121, R527, R531). -/
theorem pressRing_answers (ha : s.awake) (u : Unit5) (r : Fin 4) (hok : r.val < pressRings u) (hreach : s.dev.reaches .PRESS_P u = true) :
    (∀ tail : BitVec 16, tail.toNat < s.dev.pressSlots u r → Does (.pressTailWrite u r tail) s fun t =>
      t.rd F.PRESS_TAIL_TAIL u r = tail.toNat ∧ t.press u = s.dev.press u) ∧
    (∀ tail : BitVec 16, s.dev.pressSlots u r ≤ tail.toNat → exec (.pressTailWrite u r tail) s = .next (s.after s.dev)) ∧
    (s.dev.rd F.PRESS_RING_STAT_STATE u r ≠ 1 → s.dev.rd F.PRESS_RING_STAT_STATE u r ≠ 2 →
      exec (.pressAbort u r) s = .next (s.after s.dev)) ∧
    ((s.dev.rd F.PRESS_RING_STAT_STATE u r = 1 ∨ s.dev.rd F.PRESS_RING_STAT_STATE u r = 2) → Does (.pressAbort u r) s fun t =>
      (∀ j, (s.dev.press u).job = some (r.val, j) → t.rd F.PRESS_RING_STAT_STATE u r = 4 ∧
        (t.press u).job = some (r.val, { j with status := some 0x14 })) ∧
      ((∀ j, (s.dev.press u).job ≠ some (r.val, j)) → t.rd F.PRESS_RING_STAT_STATE u r = 3 ∧
        t.rd F.PRESS_RING_STAT_LSTATUS u r = 0x14)) ∧
    (s.dev.rd F.PRESS_RING_STAT_STATE u r = 3 → Does (.pressResume u r) s fun t => t.rd F.PRESS_RING_STAT_STATE u r = 1 ∧
      Tab.get 0 (t.press u).next r =
        if s.dev.rd F.PRESS_RING_STAT_HIDX u r + 1 < s.dev.pressSlots u r then s.dev.rd F.PRESS_RING_STAT_HIDX u r + 1 else 0) ∧
    (s.dev.rd F.PRESS_RING_STAT_STATE u r ≠ 3 → exec (.pressResume u r) s = .next (s.after s.dev)) ∧
    (s.dev.on F.PRESS_RING_CFG_EN u r = false → exec (.pressRingDisable u r) s = .next (s.after s.dev)) ∧
    (s.dev.on F.PRESS_RING_CFG_EN u r = true → Does (.pressRingDisable u r) s fun t =>
      t.on F.PRESS_RING_CFG_EN u r = false ∧ t.rd F.PRESS_RING_STAT_STATE u r = 0 ∧
        bit (t.rd F.PRESS_GSTAT_HALTED u) r = false ∧ ∀ j, (t.press u).job ≠ some (r.val, j)) := by
  have hok : decide (r.val < pressRings u) = true := decide_eq_true hok
  refine ⟨fun tail ht => does_of_bar2If_unsettled ha (fun _ h => h) hok hreach rfl ?_,
    fun tail ht => exec_of_bar2If ha hok hreach rfl (if_neg (by omega)),
    fun h₁ h₂ => exec_of_bar2If ha hok hreach rfl (pressAbort_idle h₁ h₂),
    fun hs => does_of_bar2If_unsettled ha (fun _ h => h) hok hreach rfl ?_,
    fun hs => does_of_bar2If_unsettled ha (fun _ h => h) hok hreach rfl (pressResume_shows hs),
    fun hs => exec_of_bar2If ha hok hreach rfl (if_neg hs),
    fun he => exec_of_bar2If ha hok hreach rfl (pressDisable_off he),
    fun he => does_of_bar2If_unsettled ha (fun _ h => h) hok hreach rfl ?_⟩
  · rw [Dev.pressTail, if_pos ht]
    exact ⟨rd_wr_of_lt tail.isLt, rfl⟩
  · refine ⟨fun j hj => pressAbort_running_shows hs hj, fun hj => ?_⟩
    obtain ⟨t, i, -, he⟩ := pressAbort_halts hs hj
    rw [he]
    obtain ⟨hstate, hlast, -⟩ := pressHalt_shows t u r 0x14 i
    exact ⟨hstate, hlast⟩
  · rw [pressDisable_on he]
    obtain ⟨hen, hstate, hbit, hpress⟩ := pressOff_shows (d := s.dev.pressStopped u r) (u := u) r
    exact ⟨hen, hstate, hbit, fun j => by rw [hpress]; exact pressStopped_job j⟩

/-- Settles O41: the core's start and end of a job, and the commands of each ring. -/
theorem pressEngines : Obligations.PressEngines := by
  intro s u ha
  refine ⟨fun h => exec_of_runWork ha rfl (h.imp_right pressStart_idle), fun r slot hl hj hf hp hslot => pressStart_answers ha u hl hj hf hp hslot,
    fun bad denied n both h => exec_of_runWork ha rfl (h.imp_right pressEnd_idle),
    fun _ _ _ _ r j st hl hj hs hst hr => pressEnd_preset_answers ha u hl hj hs hst hr,
    fun _ _ _ _ r j src out used chk bs e a hu hl hj hs hop hsrc hdst hr hread hi hd hslot _ =>
      pressEnd_inflate_answers ha u hu hl hj hs hop hsrc hdst hr hread hi hd hslot,
    fun r hok hreach => pressRing_answers ha u r hok hreach⟩

end Sys2Proof.Machine
end

section
/-!
Properties that the flow of tokens keeps (R142, R163): a property that stands whatever the casks, and the tokens, ports and cluster windows of
the Trellis, change of their own stands while the tokens of a pipe move.
-/
namespace Sys2Proof.Machine

variable {P : Dev → Prop} {d : Dev} {p : Nat}

/-- The parts of a Trellis that hold what flows: tokens, ports, cluster windows with their stores, the inputs that have passed an EOF, and what
the check bits of the next word show. -/
def TokensOnly (g : Trl → Trl) : Prop :=
  ∀ t, g t = { t with
    roots := (g t).roots, ports := (g t).ports, cwins := (g t).cwins, ls := (g t).ls, passed := (g t).passed, flaw := (g t).flaw }

/-- The registers that count the words of the Trellis' memories with errors (R161). -/
def trlCountRegs : List RegId := [.TRL_CORR_CNT_LO, .TRL_CORR_CNT_HI, .TRL_UNC_CNT_LO, .TRL_UNC_CNT_HI]

/-- The property stands whatever flows in the Trellis of pipe `p`. -/
def FlowKeeps (p : Nat) (P : Dev → Prop) : Prop :=
  CaskKeeps P ∧ (∀ {d : Dev} {f : Fld} {v q i j : Nat}, f.reg ∈ trlCountRegs → P d → P (d.wr f v q i j)) ∧
    (∀ {d : Dev} (e syn : Nat), P d → P (d.raise e syn)) ∧ ∀ {d : Dev} {g : Trl → Trl}, TokensOnly g → P d → P (d.updTrl p g)

namespace FlowKeeps

variable (k : FlowKeeps p P)
include k

theorem toCask : CaskKeeps P := k.1

theorem tokens {g : Trl → Trl} (hg : TokensOnly g) (h : P d) : P (d.updTrl p g) := by
  obtain ⟨-, -, -, trl⟩ := k
  exact trl hg h

theorem bump {c : Cnt} (hc : ∀ g ∈ [c.lo, c.hi, c.sat], g.reg ∈ trlCountRegs) (h : P d) : P (d.bump c p) := by
  obtain ⟨-, reg, -, -⟩ := k
  exact bumpBy_keeps (fun hg h => reg (hc _ hg) h) h

theorem corrected (h : P d) : P (d.bump C.TRL_CORR_CNT p) := k.bump (by decide) h

theorem uncorrectable (h : P d) (syn : Nat) : P ((d.bump C.TRL_UNC_CNT p).raiseP p 27 syn) := by
  obtain ⟨-, -, raise, -⟩ := id k
  exact raise _ _ (k.bump (by decide) h)

theorem putRoot (h : P d) (r : Root) (x : RootSt) : P (d.putRoot p r x) := k.tokens (fun _ => rfl) h

theorem putPort (h : P d) (t q : Nat) (x : PortSt) : P (d.putPort p t q x) := k.tokens (fun _ => rfl) h

theorem emit (h : P d) (r : Root) (t : Token) : P (d.emit p r t) := by
  unfold Dev.emit
  split_ifs
  · exact h
  · exact k.putRoot h r _

theorem accept (h : P d) (x : Sink) : P (d.accept p x) := by
  unfold Dev.accept
  cases d.offered p x with
  | none => exact h
  | some y =>
    dsimp -zeta only
    extract_lets z taken all d'
    have h' : P d' := k.putRoot h y.1 _
    split
    · dsimp only
      split_ifs
      · exact k.tokens (fun _ => rfl) h'
      · exact h'
    · exact h'

theorem portDrain (h : P d) (t q fuel : Nat) : P (d.portDrain p t q fuel) := by
  induction fuel generalizing d with
  | zero => exact h
  | succ fuel ih =>
    unfold Dev.portDrain
    dsimp only
    split
    · exact h
    · split_ifs
      · exact ih (k.toCask.caskPut (k.putPort h t q _) p _ _)
      · exact h

theorem lsRead (h : P d) (c word : Nat) (x : Token) : P (d.lsRead p c word x).2 := by
  unfold Dev.lsRead
  extract_lets flaw d₁
  have h₁ : P d₁ := k.tokens (fun _ => rfl) h
  cases flaw with
  | ok => exact h₁
  | single => exact k.corrected h₁
  | multiple => exact k.uncorrectable h₁ _

theorem cwinTake (h : P d) (c w : Nat) (x : Token) : P (d.cwinTake p c w x) := by
  unfold Dev.cwinTake
  extract_lets cf n st a old d₁
  have h₁ : P d₁ := k.tokens (fun _ => rfl) h
  split_ifs
  · exact k.emit (k.lsRead h₁ c _ _) _ _
  · exact k.emit h₁ _ _
  · exact k.emit (k.lsRead h₁ c _ _) _ _

theorem flowSink (h : P d) (x : Sink) : P (d.flowSink p x) := by
  unfold Dev.flowSink
  cases d.offered p x with
  | none => exact h
  | some y =>
    dsimp only
    split_ifs
    · exact k.accept h x
    · exact h
    · cases x with
      | el | vrs => exact h
      | port u q =>
        dsimp only
        split_ifs
        · exact k.portDrain (k.putPort (k.accept h _) u q _) u q 2
        · exact h
      | win c w =>
        dsimp only
        split_ifs
        · exact k.cwinTake (k.accept h _) c w _
        · exact h
      | lane | pass =>
        dsimp only
        split_ifs
        · exact k.emit (k.accept h _) _ _
        · exact h

theorem flowN (h : P d) (fuel : Nat) : P (Dev.flowN p fuel d) := by
  induction fuel generalizing d with
  | zero => exact h
  | succ fuel ih =>
    have hr : P (d.flowRound p) := foldl_keeps _ (fun _ x _ h => k.flowSink h x) h
    unfold Dev.flowN
    dsimp only
    split_ifs
    · exact hr
    · exact ih hr

theorem flow (h : P d) : P (d.flow p) :=
  k.flowN (foldl_keeps _ (fun _ x _ h => k.portDrain h (x.1 / 4) (x.1 % 4) 2) h) 256

end FlowKeeps

@[simp] theorem updTrl_trl (d : Dev) (p : Nat) (g : Trl → Trl) : (d.updTrl p g).trl p = g (d.trl p) := by
  rw [Dev.trl, Dev.updTrl, updPipe_pipe_same, Dev.trl]

/-- A part of a pipe's Trellis that holds nothing of what flows. -/
theorem flowKeeps_trl {α : Type} (φ : Trl → α) (hφ : ∀ {g : Trl → Trl}, TokensOnly g → ∀ t, φ (g t) = φ t) (x : α) :
    FlowKeeps p fun d => φ (d.trl p) = x := by
  refine ⟨⟨fun _ h => h, fun _ h => h, fun {_ u} g h => ?_⟩, fun _ h => h, fun e syn h => ?_, fun {d g} hg h => ?_⟩
  · exact (updPipe_part (fun s => φ s.trl) (f := fun s => { s with casks := g s }) (fun _ => rfl) _ u p).trans h
  · exact (congrArg (fun s : PipeSt => φ s.trl) (raise_pipe _ e syn p)).trans h
  · exact (congrArg φ (updTrl_trl _ p g)).trans ((hφ hg _).trans h)

theorem flowKeeps_els (x : Tab ElemSt) : FlowKeeps p fun d => (d.trl p).els = x :=
  flowKeeps_trl (·.els) (fun hg t => by rw [hg t]) x

@[simp] theorem flow_els : ((d.flow p).trl p).els = (d.trl p).els := (flowKeeps_els _).flow rfl

end Sys2Proof.Machine
end

section
/-!
The elements of the Trellis (R137, R140 to R143): what the start and the completion of a micro-op leave of their element.
-/
namespace Sys2Proof.Machine

variable {s : State} {d : Dev} {p e : Nat} {x : ElemSt} {flaw : Flaw}

/-! ### The state of an element -/

@[simp] theorem settle_elem : (settle d).elem p e = d.elem p e := rfl

theorem elem_of_begun (h : Tab.get {} (d.trl p).els e = x) (hx : x.begun = true) : d.elem p e = x := by
  rw [Dev.elem, h, if_pos hx]

theorem elem_busy : (d.elem p e).busy = (Tab.get {} (d.trl p).els e).busy := by
  unfold Dev.elem
  dsimp only
  split_ifs <;> rfl

@[simp] theorem putElem_els : Tab.get {} ((d.putElem p e x).trl p).els e = x := by
  rw [Dev.putElem, updTrl_trl]
  exact Tab.get_set_same ..

@[simp] theorem bump_trl (c : Cnt) (q : Nat) : (d.bump c q).trl p = d.trl p := by rw [Dev.trl, Dev.pipe, (bump_parts d c q).2]; rfl

/-! ### The start of a micro-op (R137, R140) -/

/-- A micro-op that starts makes its element busy; of a single-bit error in its word the corrected error is counted besides. -/
theorem microopStart_answers {p : Pipe} {e : Fin 1088} (ha : s.awake) (hl : s.dev.stopped = false) (hr : s.dev.uopReady p e = true)
    (hf : flaw ≠ .multiple) : Does (.microopStart p e flaw) s fun t => (t.elem p e).busy = true ∧
      (flaw = .ok → t = settle (s.dev.putElem p e { s.dev.elem p e with busy := true })) := by
  refine ⟨(s.dev.putElem p e { s.dev.elem p e with busy := true }).when (flaw == .single) fun d => d.bump C.TRL_CORR_CNT p, ?_, ?_, ?_⟩
  · exact (runWork_live ha hl _).trans (by rw [hr, if_pos (by simpa using hf)])
  · rw [settle_elem, elem_busy]
    refine when_keeps (P := fun d => (Tab.get {} (d.trl p).els e).busy = true) _ (fun h => by rwa [bump_trl]) ?_
    rw [putElem_els]
  · rintro rfl
    rfl

theorem microopStart_idle {p : Pipe} {e : Fin 1088} (ha : s.awake)
    (h : s.dev.stopped = true ∨ s.dev.uopReady p e = false ∨ flaw = .multiple) :
    exec (.microopStart p e flaw) s = .next (s.after s.dev) := by
  refine exec_of_runWork ha rfl (h.imp_right fun h => if_neg ?_)
  rcases h with h | rfl
  · simp [h]
  · simp

/-! ### The completion of a micro-op (R140 to R143, R150) -/

/-- The result of an operation of the arithmetic unit, in the lanes that the micro-op selects (R143). -/
def Dev.uopResult (d : Dev) (p e : Nat) : Nat :=
  let u := d.uop p e
  laneSelect u (d.operand p e u.fmt u.a) (aluResult u (d.operand p e u.fmt u.a) (d.operand p e u.fmt u.b) (d.operand p e u.fmt u.c))

/-- The entry an element goes to: LOOP after the last micro-op or the last entry, else the next (R141). -/
def Dev.uopNext (d : Dev) (p e : Nat) : Nat :=
  if (d.uop p e).last || (d.elem p e).pc == 31 then slice (cfgWord64 (d.trl p).act (oElem e)) 56 52 else (d.elem p e).pc + 1

/-- What a micro-op that completes leaves of its element: it is at the next entry, and the register that DST names holds the result, where the
micro-op writes one that does not come from a line memory and an EOF does not clear the registers (RSTSEAM, bit 62 of the element's word). -/
def Dev.UopLeaves (d : Dev) (p e : Nat) (x : ElemSt) : Prop :=
  x.busy = false ∧ x.begun = true ∧ x.pc = d.uopNext p e ∧
    ((d.uop p e).dwr = true → (d.uop p e).opc ≠ 0 → (d.uop p e).opc ≠ 0x20 → bit (cfgWord64 (d.trl p).act (oElem e)) 62 = false →
      Tab.get 0 x.g (d.uop p e).dst = d.uopResult p e)

/-- The position counters apart, the tokens consumed leave an element as it is. -/
theorem posAfter_g (x : ElemSt) (f : Option Flags) : (posAfter x f).g = x.g := by
  cases f with
  | none => rfl
  | some f =>
    unfold posAfter
    dsimp only
    split_ifs <;> rfl

/-- The completion of a micro-op ends with its element's new state, after which tokens flow. -/
theorem uopComplete_form (d : Dev) (p e : Nat) (flaw : Flaw) : ∃ (d₁ : Dev) (x : ElemSt), d.UopLeaves p e x ∧
    d.uopComplete p e flaw = ((d₁.putElem p e x).flow p).updTrl p fun t => { t with flaw := .ok } := by
  unfold Dev.uopComplete
  extract_lets u x t cfg tokens a i0 eof0 done
  split
  next tap d' htap =>
    extract_lets r latch g x₁ x₂
    refine ⟨_, x₂, ⟨rfl, rfl, rfl, fun hw h0 h20 hseam => ?_⟩, rfl⟩
    have hd : d' = d := by rw [if_neg h20] at htap; exact (Prod.mk.inj htap).2.symm
    have hr : r = d.uopResult p e := (if_neg h20).trans (by rw [hd]; rfl)
    have hg : x₁.g = Tab.set 0 x.g u.dst r := by
      have hseam' : (eof0 && bit cfg 62) = false := Bool.and_eq_false_imp.2 fun _ => hseam
      have hw' : (u.dwr && u.opc != 0) = true := by simp [u, hw, h0]
      simp only [x₁, posAfter_g, hseam', g, hw', if_true]
      rfl
    exact (congrArg (Tab.get 0 · u.dst) hg).trans ((Tab.get_set_same ..).trans hr)

/-- A micro-op that completes leaves its element as `Dev.UopLeaves` says. -/
theorem uopComplete_leaves (d : Dev) (p e : Nat) (flaw : Flaw) : d.UopLeaves p e ((d.uopComplete p e flaw).elem p e) := by
  obtain ⟨d₁, x, hx, he⟩ := uopComplete_form d p e flaw
  obtain ⟨-, hbegun, -⟩ := id hx
  have hels : Tab.get {} ((d.uopComplete p e flaw).trl p).els e = x := by
    rw [he, updTrl_trl, flow_els]
    exact putElem_els
  rwa [elem_of_begun hels hbegun]

theorem microopComplete_answers {p : Pipe} {e : Fin 1088} (ha : s.awake) (hl : s.dev.stopped = false)
    (hb : (Tab.get {} (s.dev.trl p).els e).busy = true) (hr : s.dev.elemRuns p e = true) :
    Does (.microopComplete p e flaw) s fun t => s.dev.UopLeaves p e (t.elem p e) := by
  refine does_of_runWork ha (fun _ h => h) hl rfl ?_
  rw [if_pos (by rw [hb, hr]; rfl)]
  exact uopComplete_leaves ..

theorem microopComplete_idle {p : Pipe} {e : Fin 1088} (ha : s.awake)
    (h : s.dev.stopped = true ∨ (Tab.get {} (s.dev.trl p).els e).busy = false ∨ s.dev.elemRuns p e = false) :
    exec (.microopComplete p e flaw) s = .next (s.after s.dev) := by
  refine exec_of_runWork ha rfl (h.imp_right fun h => if_neg ?_)
  rcases h with h | h <;> simp [h]

end Sys2Proof.Machine
end

section
/-!
Reads of the Trellis' memories (R161), the element monitor and the failed marks (R172, R173), and the obligation about elements, monitors and
marks.
-/
namespace Sys2Proof.Machine

variable {s : State} {d : Dev} {f : Fld} {flaw : Flaw} {p i j v : Nat}

/-! ### Reads through `TRL_LM_ADDR` (R161) -/

@[simp] theorem wr_trl {q : Nat} : (d.wr f v p i j).trl q = d.trl q := rfl
@[simp] theorem wrb_trl {q : Nat} {b : Bool} : (d.wrb f b p i j).trl q = d.trl q := rfl
@[simp] theorem updTrl_rd {q : Nat} (g : Trl → Trl) : (d.updTrl q g).rd f p i j = d.rd f p i j := rfl

theorem on_wrb_of_lo {g : Fld} {b : Bool} {p' i' j' : Nat} (h : f.lo ≠ g.lo) : (d.wrb g b p' i' j').on f p i j = d.on f p i j :=
  on_of_rd (rd_wr_of_lo h)

theorem rd_wrb_of_reg {g : Fld} {b : Bool} {p' i' j' : Nat} (h : f.reg ≠ g.reg) : (d.wrb g b p' i' j').rd f p i j = d.rd f p i j :=
  rd_wr_of_reg h

@[simp] theorem settle_trl : (settle d).trl p = d.trl p := rfl

/-- A write of `TRL_LM_ADDR` shows the address, and no word until the read ends. -/
theorem lmRead_shows (d : Dev) (p w : Nat) : (d.lmRead p w).on F.TRL_LM_STAT_VALID p = false ∧
    ((d.lmRead p w).trl p).lmReq = lmAddrOk (bit w 31) (slice w 30 24) (slice w 19 0) ∧
    (d.lmRead p w).on F.TRL_LM_ADDR_STORE p = bit w 31 ∧ (d.lmRead p w).rd F.TRL_LM_ADDR_UNIT p = slice w 30 24 ∧
    (d.lmRead p w).rd F.TRL_LM_ADDR_WORD p = slice w 19 0 := by
  have addr : ∀ {f : Fld}, f ∈ RegId.TRL_LM_ADDR.info.flds → f.acc = .rw → (d.lmRead p w).rd f p = slice w f.hi f.lo := fun {f} hf hrw => by
    rw [Dev.lmRead, updTrl_rd, rd_wr_of_reg (by rw [reg_of_mem hf]; decide)]
    exact wrWord_rd_rw (l := ⟨.TRL_LM_ADDR, p, 0, 0⟩) hf (by rw [Fld.accAt, hrw])
  refine ⟨?_, ?_, ?_, addr (by decide) rfl, addr (by decide) rfl⟩
  · exact on_wrb (b := false) rfl
  · rw [Dev.lmRead, updTrl_trl]
  · rw [Dev.on, addr (by decide) rfl]
    exact slice_eq_bit w 31

/-- The word that `TRL_LM_ADDR` names: of a cluster's line store, or of a tile's line memory. -/
def Dev.lmWord (d : Dev) (p : Nat) : Nat :=
  let unit := d.rd F.TRL_LM_ADDR_UNIT p
  let word := d.rd F.TRL_LM_ADDR_WORD p
  if d.on F.TRL_LM_ADDR_STORE p then Tab.get 0 (d.trl p).ls (2 ^ 20 * unit + word) else Tab.get 0 (d.trl p).lm (16384 * unit + word)

/-- The device that shows word `v` of a memory in `TRL_LM_DATA` and `TRL_LM_STAT`, with what its check bits show. -/
def Dev.lmShow (d : Dev) (p v : Nat) (flaw : Flaw) : Dev :=
  let x := tokenOfMem v
  let d := d.updTrl p fun t => { t with lmReq := false }
  let d := (((d.wr F.TRL_LM_DATA_DATA x.data p).wr F.TRL_LM_STAT_VALID 1 p).wrb F.TRL_LM_STAT_UNC (flaw == .multiple) p).wrb
    F.TRL_LM_STAT_CORR (flaw == .single) p
  ((d.wrb F.TRL_LM_STAT_PSN x.flags.psn p).wrb F.TRL_LM_STAT_EOF x.flags.eof p).wrb F.TRL_LM_STAT_EOL x.flags.eol p

/-- What a word's check bits show is counted, and an uncorrectable one reported with syndrome `syn`. -/
def Dev.lmCheck (d : Dev) (p syn : Nat) : Flaw → Dev
  | .ok => d
  | .single => d.bump C.TRL_CORR_CNT p
  | .multiple => (d.bump C.TRL_UNC_CNT p).raiseP p 27 syn

/-- The syndrome of an uncorrectable word of a memory: the unit and the word that `TRL_LM_ADDR` names. -/
def Dev.lmSyn (d : Dev) (p : Nat) : Nat := pack [(7, d.rd F.TRL_LM_ADDR_UNIT p), (20, d.rd F.TRL_LM_ADDR_WORD p)]

theorem lmShow_shows (d : Dev) (p v : Nat) (flaw : Flaw) : (d.lmShow p v flaw).on F.TRL_LM_STAT_VALID p = true ∧
    ((d.lmShow p v flaw).trl p).lmReq = false ∧ (d.lmShow p v flaw).rd F.TRL_LM_DATA_DATA p = v % 2 ^ 32 ∧
    (d.lmShow p v flaw).on F.TRL_LM_STAT_UNC p = (flaw == .multiple) ∧ (d.lmShow p v flaw).on F.TRL_LM_STAT_CORR p = (flaw == .single) := by
  have valid : ∀ d : Dev, (d.wr F.TRL_LM_STAT_VALID 1 p).on F.TRL_LM_STAT_VALID p = true := fun _ => on_wrb (b := true) rfl
  unfold Dev.lmShow
  dsimp only
  refine ⟨?_, by simp only [wrb_trl, wr_trl, updTrl_trl], ?_, ?_, ?_⟩
  all_goals simp (disch := decide) only [valid, on_wrb, on_wrb_of_lo, Dev.rd_wr, rd_wr_of_reg, rd_wrb_of_reg]
  exact Nat.mod_mod ..

/-- Counting and reporting what a word's check bits show writes the counters alone, and `QDL_PEER` of a follower. -/
theorem lmCheck_rd {syn q : Nat} (hf : f.reg ∉ RegId.QDL_PEER :: trlCountRegs) : (d.lmCheck q syn flaw).rd f p i j = d.rd f p i j := by
  simp only [List.mem_cons, not_or] at hf
  obtain ⟨hq, hc⟩ := hf
  have count : ∀ {c : Cnt}, (∀ g ∈ [c.lo, c.hi, c.sat], g.reg ∈ trlCountRegs) → (d.bump c q).rd f p i j = d.rd f p i j := fun h =>
    bumpBy_rd fun g hg e => hc (by simpa [trlCountRegs, e] using h g hg)
  cases flaw with
  | ok => rfl
  | single => exact count (by decide)
  | multiple => exact (raise_rd _ _ _ _ _ _ _ hq).trans (count (by decide))

theorem lmCheck_trl {syn q : Nat} : (d.lmCheck q syn flaw).trl p = d.trl p := by
  cases flaw with
  | ok => rfl
  | single => exact bump_trl ..
  | multiple => exact (congrArg PipeSt.trl (raise_pipe _ _ _ p)).trans (bump_trl ..)

/-- An uncorrectable word is reported, where the Hub is not lost. -/
theorem lmCheck_raised {syn : Nat} (hl : d.hub.lost = false) : Raised (d.lmCheck p syn .multiple) (pipeEvent p 27) syn :=
  raised_of_raise (by rwa [(bump_parts d _ p).1]) _ _

/-- The end of a read through `TRL_LM_ADDR`. -/
theorem exec_lmReadDone {p : Pipe} (ha : s.awake) (h : (s.dev.trl p).lmReq = true) : exec (.trlLmReadDone p flaw) s =
    .next (s.after ((s.dev.lmShow p (s.dev.lmWord p) flaw).lmCheck p (s.dev.lmSyn p) flaw)) :=
  exec_of_run ha rfl ((if_pos h).trans (by cases flaw <;> rfl))

/-- The end of a read shows the word and its flags; an uncorrectable one is reported. -/
theorem lmReadDone_answers {p : Pipe} (ha : s.awake) (h : (s.dev.trl p).lmReq = true) : Does (.trlLmReadDone p flaw) s fun t =>
    t.on F.TRL_LM_STAT_VALID p = true ∧ (t.trl p).lmReq = false ∧ t.rd F.TRL_LM_DATA_DATA p = s.dev.lmWord p % 2 ^ 32 ∧
      t.on F.TRL_LM_STAT_UNC p = (flaw == .multiple) ∧ t.on F.TRL_LM_STAT_CORR p = (flaw == .single) ∧
      (flaw = .multiple → s.dev.hub.lost = false → Raised t (pipeEvent p 27) (s.dev.lmSyn p)) := by
  refine ⟨_, exec_lmReadDone ha h, ?_⟩
  simp only [settle_on, settle_rd, settle_trl, settle_raised]
  obtain ⟨hvalid, hreq, hdata, hunc, hcorr⟩ := lmShow_shows s.dev p (s.dev.lmWord p) flaw
  refine ⟨(on_of_rd (lmCheck_rd (by decide))).trans hvalid, (congrArg Trl.lmReq lmCheck_trl).trans hreq, (lmCheck_rd (by decide)).trans hdata,
    (on_of_rd (lmCheck_rd (by decide))).trans hunc, (on_of_rd (lmCheck_rd (by decide))).trans hcorr, ?_⟩
  rintro rfl hl
  exact lmCheck_raised hl

theorem lmReadDone_idle {p : Pipe} (ha : s.awake) (h : (s.dev.trl p).lmReq = false) :
    exec (.trlLmReadDone p flaw) s = .next (s.after s.dev) := exec_of_run ha rfl (if_neg (by simp [h]))

/-! ### The element monitor (`TRL_MON_SEL`, `TRL_MON_RES`) -/

/-- The end of a window with the monitor's selection in contract shows its fractions. -/
theorem monWindowEnd_answers {p : Pipe} {busy starve block : Nat} (ha : s.awake) (hsum : busy + starve + block ≤ 256) (hon : s.dev.monOn p = true) :
    Does (.trlMonWindowEnd p busy starve block) s fun t => t.on F.TRL_MON_RES_VALID p = true ∧ t.rd F.TRL_MON_RES_BUSY p = min 255 busy ∧
      t.rd F.TRL_MON_RES_STARVE p = min 255 starve ∧ t.rd F.TRL_MON_RES_BLOCK p = min 255 block := by
  refine does_of_runIf_unsettled ha (fun _ h => h) (decide_eq_true hsum) rfl ?_
  have byte : ∀ n, min 255 n % 2 ^ 8 = min 255 n := fun n => by omega
  rw [if_pos hon]
  simp (disch := decide) only [Dev.on, rd_wr_of_lo, Dev.rd_wr]
  exact ⟨rfl, byte _, byte _, byte _⟩

theorem monWindowEnd_idle {p : Pipe} {busy starve block : Nat} (ha : s.awake) (hsum : busy + starve + block ≤ 256) (hon : s.dev.monOn p = false) :
    exec (.trlMonWindowEnd p busy starve block) s = .next (s.after s.dev) :=
  exec_of_runIf ha (decide_eq_true hsum) rfl (if_neg (by simp [hon]))

/-! ### Failed marks (R172, R173) -/

theorem rprPending_rd {c : Nat} (hf : f.reg ≠ .TRL_RPR_MAP) : (d.rprPending p c).rd f v i j = d.rd f v i j := rd_wr_of_reg hf

theorem rprMark_fail (d : Dev) (p c mask : Nat) :
    (d.rprMark p c mask).rd F.TRL_RPR_FAIL_FAIL p c = Nat.lor (d.rd F.TRL_RPR_FAIL_FAIL p c) mask % 2 ^ 17 :=
  (rprPending_rd (by decide)).trans (Dev.rd_wr ..)

theorem rprClear_fail (d : Dev) (p c mask : Nat) : (d.rprClear p c mask).rd F.TRL_RPR_FAIL_FAIL p c =
    (d.rd F.TRL_RPR_FAIL_FAIL p c - Nat.land (d.rd F.TRL_RPR_FAIL_FAIL p c) mask) % 2 ^ 17 :=
  (rprPending_rd (by decide)).trans (Dev.rd_wr ..)

/-- Settles O19: each command of an element, of a read of memory, of the monitor and of the failed marks. -/
theorem trellisElements : Obligations.TrellisElements := by
  intro s p ha
  refine ⟨fun e flaw => microopStart_answers ha, fun e flaw => microopStart_idle ha, fun e flaw => microopComplete_answers ha,
    fun e flaw => microopComplete_idle ha, fun w hr => ?_, fun flaw hq hs => ?_, fun flaw hq hs => ?_, fun flaw => lmReadDone_idle ha,
    fun _ _ _ => monWindowEnd_answers ha, fun _ _ _ => monWindowEnd_idle ha, fun c w hr => ⟨?_, ?_⟩⟩
  · exact does_of_bar2If_unsettled (ok := true) ha (fun _ h => h) rfl hr rfl (lmRead_shows ..)
  · have hw : s.dev.lmWord p = _ := if_neg (by simp [hs])
    simpa only [hw, Dev.lmSyn] using lmReadDone_answers (flaw := flaw) ha hq
  · have hw : s.dev.lmWord p = _ := if_pos hs
    obtain ⟨t, hexec, hvalid, -, hdata, -⟩ := lmReadDone_answers (flaw := flaw) ha hq
    exact ⟨t, hexec, hvalid, hdata.trans (congrArg (· % 2 ^ 32) hw)⟩
  · exact does_of_bar2If_unsettled (ok := true) ha (fun _ h => h) rfl hr rfl (rprMark_fail ..)
  · exact does_of_bar2If_unsettled (ok := true) ha (fun _ h => h) rfl hr rfl (rprClear_fail ..)

end Sys2Proof.Machine
end

section
/-!
The drain of a region (R168) and the obligation about a region's life, which says of the drain more than holds.
-/
namespace Sys2Proof.Machine

variable {s : State}

/-- A staged region whose inputs have passed their EOF drains; then the router settles, as after every command. -/
theorem exec_regionDrain {p : Pipe} {r : Fin 16} (ha : s.awake) (hstate : s.dev.regState p r = 2) (hinputs : s.dev.regionInputs p r ≠ [])
    (hpassed : s.dev.inputsPassed p r = true) : exec (.regionDrain p r) s = .next (s.after (s.dev.setRegState p r 3)) :=
  exec_of_run ha rfl (if_pos (by simp [hstate, hinputs, hpassed]))

/-- Region 1 of pipe 0 is staged and its one input, a Veraison input of cluster 1, has passed its EOF; the router has not settled: IRQ_N[0] is
low, and no source is routed to it (R567). -/
def drainUnsettled : State where
  dev := { (({} : Dev).wr F.TRL_REG_STAT_STATE 2 0 1).updTrl 0 fun t => { t with
      act := xbarPut t.act 1 0x40 0x43, info := [(1, { ctx := [(4, 2)] })], passed := [(1, .vrs 1 0)] } with
    router := { irqLow := 1 } }

theorem drainUnsettled_inputs : drainUnsettled.dev.regionInputs 0 1 = [.vrs 1 0] := by decide

/-- Refutes O20: its clause of the drain has the device after `regionDrain` equal the device before it with the region's state changed and
nothing else, but what a command leaves has settled besides, and no hypothesis says that the device before it had. From `drainUnsettled`,
`regionDrain` of region 1 of pipe 0 takes `irqLow` from 1 to 0. -/
theorem not_regions : ¬ Obligations.Regions := by
  unfold Obligations.Regions
  intro h
  obtain ⟨hdrain, -⟩ := h drainUnsettled 0 1 rfl
  have hstate : drainUnsettled.dev.regState 0 1 = 2 := by decide
  have hinputs : drainUnsettled.dev.regionInputs 0 1 ≠ [] := by simp [drainUnsettled_inputs]
  have hpassed : drainUnsettled.dev.inputsPassed 0 1 = true := by decide
  obtain ⟨hsame, -⟩ := (hdrain hstate hinputs hpassed).of_exec (exec_regionDrain rfl hstate hinputs hpassed)
  have hpins : (settle (drainUnsettled.dev.setRegState 0 1 3)).router.irqLow = 1 := congrArg (·.router.irqLow) hsame
  exact absurd hpins (by decide)

end Sys2Proof.Machine
end

section
/-!
The two commands of the cuvée loader that it refuses: when STAGE and `CUVL_GO` are taken, and that a refusal shows and changes nothing else
(R197).
-/
namespace Sys2Proof.Machine

variable {s : State} {d : Dev} {f : Fld} {p i j : Nat} {q : FKey → Bool}

/-- A field that is not dropped reads as before. -/
theorem dropRegs_rd_keep (h : q (f.key p i j) = false) : (d.dropRegs q).rd f p i j = d.rd f p i j := FStore.get_filter_keep _ h

theorem exec_cuvlStage (ha : s.awake) (hr : s.dev.reaches .CUVL 0 = true) : exec .cuvlStage s = .next (s.after s.dev.cuvStart) :=
  bar2_reach ha hr _

theorem exec_cuvlGo (ha : s.awake) (hr : s.dev.reaches .CUVL 0 = true) : exec .cuvlGo s = .next (s.after s.dev.cuvGo) := bar2_reach ha hr _

/-! ### A refusal -/

theorem cuvStart_refused (h : ¬ (d.cuvState = 0 ∨ d.cuvState = 5 ∨ d.cuvState = 6)) : d.cuvStart = d.wr F.CUVL_REFUSE_STAGE 1 := if_neg h

theorem cuvGo_refused (h : d.cuvState ≠ 3) : d.cuvGo = d.wr F.CUVL_REFUSE_GO 1 := if_pos h

/-- From device `d` to device `t` bit `f` of `CUVL_REFUSE` is set and nothing outside that register has changed. -/
def Refused (f : Fld) (d t : Dev) : Prop := t.rd f = 1 ∧ t.hub = d.hub ∧ t.pipes = d.pipes ∧ t.hostMem = d.hostMem ∧
  ∀ g p i j, g.reg ≠ .CUVL_REFUSE → t.rd g p i j = d.rd g p i j

theorem refused_of_wr (hf : f.reg = .CUVL_REFUSE) (hw : f.width = 1) (d : Dev) : Refused f d (settle (d.wr f 1)) :=
  ⟨rd_wr_of_lt (by rw [hw]; decide), rfl, rfl, rfl, fun _ _ _ _ hg => rd_wr_of_reg (hf ▸ hg)⟩

/-! ### STAGE taken -/

/-- A STAGE taken clears what the last job showed and starts a job in VERIFY; `CUVL_REFUSE` stays for software to clear. -/
theorem cuvStart_taken (h : d.cuvState = 0 ∨ d.cuvState = 5 ∨ d.cuvState = 6) :
    d.cuvStart.cuvState = 1 ∧ d.cuvStart.rd F.CUVL_REFUSE_STAGE = d.rd F.CUVL_REFUSE_STAGE := by
  have hstart : d.cuvStart = ((d.dropRegs fun k => k.reg == .CUVL_ERR || k.reg == .CUVL_ERR_DET || k.reg == .CUVL_STAT).updCuvl
      fun _ => {}).wr F.CUVL_STAT_STATE 1 := if_pos h
  rw [hstart]
  refine ⟨rd_wr_of_lt (by decide), ?_⟩
  rw [rd_wr_of_reg (by decide), Dev.updCuvl, Dev.updHub_rd]
  exact dropRegs_rd_keep rfl

/-- Settles O7: the state of the job decides between `cuvStart_taken` and a refusal. -/
theorem cuveeRefusals : Obligations.CuveeRefusals := by
  unfold Obligations.CuveeRefusals
  intro s ha hr
  refine ⟨fun h => ⟨_, exec_cuvlStage ha hr, cuvStart_taken h⟩, fun h => ⟨_, exec_cuvlStage ha hr, ?_⟩,
    fun h => ⟨_, exec_cuvlGo ha hr, ?_⟩⟩
  · rw [cuvStart_refused h]
    exact refused_of_wr rfl rfl s.dev
  · rw [cuvGo_refused h]
    exact refused_of_wr rfl rfl s.dev

end Sys2Proof.Machine
end

section
/-!
The switch limit of a cuvée job (R211) and the obligation about the job, which says of a whole section that is LOADING more than holds.
-/
namespace Sys2Proof.Machine

theorem exec_cuvlSwitchTimeout {s : State} (ha : s.awake) : exec .cuvlSwitchTimeout s = .next (s.after s.dev.cuvForce) := run_awake ha _

/-- The job is in SWITCH. Its one section is the whole section of pipe 0, which the loader has as LOADING while the pipe is OFF. -/
def loadingOff : State where
  dev := (({} : Dev).wr F.CUVL_STAT_STATE 4).updCuvl fun c => { c with
    sects := [{ idx := 0, pipe := 0, whole := true, base := 0, gen := 0, mask := 0, off := 0, len := 0 }]
    wholes := [(0, .loading)] }

theorem loadingOff_forced : Tab.find loadingOff.dev.cuvForce.hub.cuvl.wholes 0 = some .loading := by decide

/-- Refutes O21: its clause of the switch limit has every section wait for nothing after `cuvlSwitchTimeout`, but a whole section that is
LOADING completes only in a pipe whose `PCTL_STAT.STATE` is 2 (R206), and no hypothesis says that its pipe is in that state. From
`loadingOff`, `cuvlSwitchTimeout` leaves the section of pipe 0 LOADING. -/
theorem not_cuveeJob : ¬ Obligations.CuveeJob := by
  unfold Obligations.CuveeJob
  intro h
  obtain ⟨-, -, -, -, -, -, -, -, -, -, -, hforce, -⟩ := h loadingOff rfl
  have hsect : _ ∈ loadingOff.dev.hub.cuvl.sects := List.mem_singleton_self _
  obtain ⟨-, -, -, -, hdone⟩ := (hforce _ hsect (by decide)).of_exec (exec_cuvlSwitchTimeout rfl)
  exact absurd (loadingOff_forced.symm.trans hdone) (by decide)

end Sys2Proof.Machine
end

section
/-!
What the owner of a role does with its news leaves alone (R236, R239, R262, R271, R274, R497, R536): the lanes and their registers, the Quadrille
side, and the events of lanes and boards. A take, a stream, the servo and the reads of host memory that end with a lost role are the parts of it.
-/
set_option Elab.async false -- few threads: each takes a stack of its own
namespace Sys2Proof.Machine

variable {a b d : Dev} {f : Fld} {p i j u v t n : Nat}

/-! ### What is held -/

/-- The fields held: those of the lanes, of the D-PHY's lanes and of Quadrille, but for the overflow of a follower's messages (R541). -/
def heldField (f : Fld) : Bool :=
  f.reg.info.blk == .LANE || f.reg == .SFE_DPHY_CFG || (f.reg.info.blk == .QDL && !(f.reg == .QDL_PEER && f.lo == F.QDL_PEER_OVF.lo))

/-- The events held: those of roles and their reference inputs (R221, R249), of peers and of the ends of board takes (R540, R547). -/
def heldEvent (e : Nat) : Bool :=
  (decide (530 ≤ e) && decide (e ≤ 533)) || e == 555 || e == 557 ||
    (decide (640 ≤ e) && decide (29 ≤ (e - 640) % 96) && decide ((e - 640) % 96 ≤ 32))

/-- The number of an event of a pipe says which of the pipe's events it is. -/
theorem pipeEvent_kind (p : Nat) {k : Nat} (hk : k < 96) : 640 ≤ pipeEvent p k ∧ (pipeEvent p k - 640) % 96 = k := by
  unfold pipeEvent
  omega

theorem heldEvent_pipe (p : Nat) {k : Nat} (hk : k < 29 ∨ 32 < k ∧ k < 96) : heldEvent (pipeEvent p k) = false := by
  obtain ⟨h', h⟩ := pipeEvent_kind p (k := k) (by omega)
  simp only [heldEvent, h, Bool.or_eq_false_iff, Bool.and_eq_false_iff, decide_eq_false_iff_not, beq_eq_false_iff_ne]
  omega

/-- The parts of the Hub that are held. -/
structure HubHeld (x y : HubSt) : Prop where
  lanes : y.lanes = x.lanes
  lost : y.lost = x.lost
  fwd : y.qdl.fwd = x.qdl.fwd
  openTakes : y.qdl.openTakes = x.qdl.openTakes
  ends : y.qdl.ends = x.qdl.ends
  lastMsg : y.qdl.lastMsg = x.qdl.lastMsg

theorem HubHeld.trans {x y z : HubSt} (h : HubHeld x y) (k : HubHeld y z) : HubHeld x z :=
  ⟨k.lanes.trans h.lanes, k.lost.trans h.lost, k.fwd.trans h.fwd, k.openTakes.trans h.openTakes, k.ends.trans h.ends, k.lastMsg.trans h.lastMsg⟩

/-- From device `a` to device `d` nothing that is held has changed: fields, lanes and roles, the Hub's loss and its side of Quadrille, the
data of the last read, and the events that stood. -/
structure NewsSame (a d : Dev) : Prop where
  rd : ∀ f p i j, heldField f = true → d.rd f p i j = a.rd f p i j
  pipes : ∀ n, (d.pipe n).lanes = (a.pipe n).lanes
  hub : HubHeld a.hub d.hub
  rdata : d.rdata = a.rdata
  raised : ∀ e syn, heldEvent e = true → Raised a e syn → Raised d e syn

/-! ### The message to a leader -/

/-- A field that is not a port's overflow reads as before once an event is raised. -/
theorem raise_rd_of_ovf (e syn : Nat) (h : f.reg ≠ .QDL_PEER ∨ f.lo ≠ F.QDL_PEER_OVF.lo) :
    (d.raise e syn).rd f p i j = d.rd f p i j := by
  have peer : ∀ d : Dev, (d.peerEvent e).rd f p i j = d.rd f p i j := fun d => by
    unfold Dev.peerEvent
    split
    · split
      · dsimp only
        split
        · rfl
        · exact h.elim (fun h => rd_wr_of_reg h) fun h => rd_wr_of_lo h
      · rfl
    · rfl
  unfold Dev.raise
  split
  · rfl
  · extract_lets was d₁ d₂ d₃
    have h₂ : d₂.rd f p i j = d.rd f p i j := by
      unfold d₂
      split_ifs <;> rfl
    split
    · exact (vecEvent_rd ..).trans ((peer d₂).trans h₂)
    · exact (peer d₂).trans h₂

theorem heldField_ovf (h : heldField f = true) : f.reg ≠ .QDL_PEER ∨ f.lo ≠ F.QDL_PEER_OVF.lo := by
  by_cases hr : f.reg = .QDL_PEER
  · refine .inr fun hl => ?_
    rw [heldField, hr, hl] at h
    exact absurd h (by decide)
  · exact .inl hr

/-- A field of one sort reads as before once a field of the other sort is written. -/
theorem rd_wr_of_sorts {q : Fld → Bool} (hq : ∀ f g : Fld, f.reg = g.reg → f.lo = g.lo → q f = q g) {f g : Fld} {p' i' j' : Nat}
    (h : q f ≠ q g) : (d.wr g v p' i' j').rd f p i j = d.rd f p i j :=
  d.rd_wr_ne _ _ _ _ _ _ _ _ _ fun e => h (hq f g (congrArg FKey.reg e) (congrArg FKey.lo e))

theorem rd_wr_of_held {g : Fld} {p' i' j' : Nat} (hf : heldField f = true) (hg : heldField g = false) :
    (d.wr g v p' i' j').rd f p i j = d.rd f p i j :=
  rd_wr_of_sorts (q := heldField) (fun f g hr hl => by simp only [heldField, hr, hl]) (by rw [hf, hg]; decide)

namespace NewsSame

theorem refl (d : Dev) : NewsSame d d := ⟨fun _ _ _ _ _ => rfl, fun _ => rfl, ⟨rfl, rfl, rfl, rfl, rfl, rfl⟩, rfl, fun _ _ _ h => h⟩

theorem trans (h : NewsSame a d) (k : NewsSame d b) : NewsSame a b :=
  ⟨fun f p i j hf => (k.rd f p i j hf).trans (h.rd f p i j hf), fun n => (k.pipes n).trans (h.pipes n), h.hub.trans k.hub,
    k.rdata.trans h.rdata, fun e syn he hr => k.raised e syn he (h.raised e syn he hr)⟩

/-- A change of parts that nothing held lies in. -/
theorem of_parts (h : NewsSame a d) (hregs : b.regs = d.regs := by rfl) (hpipes : b.pipes = d.pipes := by rfl) (hhub : b.hub = d.hub := by rfl)
    (hdata : b.rdata = d.rdata := by rfl) (hstat : b.router.stat = d.router.stat := by rfl) (hsyn : b.router.syn = d.router.syn := by rfl) :
    NewsSame a b := by
  refine h.trans ⟨fun f p i j _ => ?_, fun n => ?_, ?_, hdata, fun e syn _ hr => ?_⟩
  · rw [Dev.rd, hregs, Dev.rd]
  · rw [Dev.pipe, hpipes, Dev.pipe]
  · rw [hhub]
    exact ⟨rfl, rfl, rfl, rfl, rfl, rfl⟩
  · rwa [Raised, hstat, hsyn]

theorem wr (h : NewsSame a d) {f : Fld} {v p i j : Nat} (hf : heldField f = false := by decide) : NewsSame a (d.wr f v p i j) :=
  h.trans ⟨fun _ _ _ _ hg => rd_wr_of_held hg hf, fun _ => rfl, ⟨rfl, rfl, rfl, rfl, rfl, rfl⟩, rfl, fun _ _ _ hr => hr⟩

theorem wrb (h : NewsSame a d) {f : Fld} {v : Bool} {p i j : Nat} (hf : heldField f = false := by decide) : NewsSame a (d.wrb f v p i j) := h.wr hf

theorem updHub (h : NewsSame a d) (g : HubSt → HubSt) (hg : HubHeld d.hub (g d.hub) := by exact ⟨rfl, rfl, rfl, rfl, rfl, rfl⟩) :
    NewsSame a (d.updHub g) := h.trans ⟨fun _ _ _ _ _ => rfl, fun _ => rfl, hg, rfl, fun _ _ _ hr => hr⟩

theorem updPipe (h : NewsSame a d) (u : Nat) (g : PipeSt → PipeSt) (hg : ∀ x, (g x).lanes = x.lanes := by intro; rfl) :
    NewsSame a (d.updPipe u g) :=
  h.trans ⟨fun _ _ _ _ _ => rfl, fun n => updPipe_part (·.lanes) hg d u n, ⟨rfl, rfl, rfl, rfl, rfl, rfl⟩, rfl, fun _ _ _ hr => hr⟩

theorem rdata_raise (d : Dev) (e syn : Nat) : (d.raise e syn).rdata = d.rdata := by
  have vec : ∀ (d : Dev) v, (d.vecEvent v).rdata = d.rdata := fun d v => by
    obtain ⟨g, hg, -⟩ := vecEvent_parts d v
    rw [hg]
    rfl
  have peer : ∀ (d : Dev), (d.peerEvent e).rdata = d.rdata := fun d => by
    unfold Dev.peerEvent
    split
    · split
      · dsimp only
        split <;> rfl
      · rfl
    · rfl
  unfold Dev.raise
  split
  · rfl
  · extract_lets was d₁ d₂ d₃
    have h₃ : d₃.rdata = d.rdata := by
      refine (peer d₂).trans ?_
      unfold d₂
      split_ifs <;> rfl
    split
    · exact (vec _ _).trans h₃
    · exact h₃

theorem raise (h : NewsSame a d) {e : Nat} (syn : Nat) (he : heldEvent e = false := by decide) : NewsSame a (d.raise e syn) := by
  refine h.trans ⟨fun f p i j hf => raise_rd_of_ovf e syn (heldField_ovf hf), fun n => ?_, ?_, rdata_raise d e syn, fun e' syn' he' hr => ?_⟩
  · rw [raise_pipe]
  · obtain ⟨m, hm⟩ := raise_hub d e syn
    rw [hm]
    exact ⟨rfl, rfl, rfl, rfl, rfl, rfl⟩
  · exact hr.raise (by rintro rfl; simp [he] at he') syn

theorem raiseP (h : NewsSame a d) (p syn : Nat) {k : Nat} (hk : k < 29 ∨ 32 < k ∧ k < 96 := by decide) : NewsSame a (d.raiseP p k syn) :=
  h.raise syn (heldEvent_pipe p hk)

theorem bumpBy (h : NewsSame a d) {n : Nat} {c : Cnt} {p i j : Nat} (hc : ∀ g ∈ [c.lo, c.hi, c.sat], heldField g = false := by decide) :
    NewsSame a (d.bumpBy n c p i j) := bumpBy_keeps (P := NewsSame a) (fun hg h => h.wr (hc _ hg)) h

theorem bump (h : NewsSame a d) {c : Cnt} {p i j : Nat} (hc : ∀ g ∈ [c.lo, c.hi, c.sat], heldField g = false := by decide) :
    NewsSame a (d.bump c p i j) := h.bumpBy hc

theorem ite (q : Prop) [Decidable q] {c : Dev} (h : NewsSame a b) (k : NewsSame a c) : NewsSame a (if q then b else c) := by
  split_ifs
  · exact h
  · exact k

theorem when (h : NewsSame a d) (b : Bool) {g : Dev → Dev} (hg : ∀ {d : Dev}, NewsSame a d → NewsSame a (g d)) : NewsSame a (d.when b g) :=
  when_keeps b hg h

theorem foldl {α : Type} {g : Dev → α → Dev} (h : NewsSame a d) (l : List α) (hg : ∀ d x, NewsSame a d → NewsSame a (g d x)) :
    NewsSame a (l.foldl g d) := foldl_keeps l (fun d x _ => hg d x) h

theorem caskKeeps (a : Dev) : CaskKeeps (NewsSame a) :=
  ⟨fun hf h => h.wr (by rw [heldField, hf]; rfl), fun _ h => h.updHub _, fun _ h => h.updPipe _ _⟩

theorem caskSend (h : NewsSame a d) (u k ep : Nat) (ws : List CaskWord) : NewsSame a (d.caskSend u k ep ws) :=
  (caskKeeps a).caskSend h u k ep ws

/-! ### Encoders (R324 to R337)

`EncKeeps` asks that any event be allowed; here only those may be raised that are not held. -/

theorem putEnc (h : NewsSame a d) (p v : Nat) (e : PxrEnc) : NewsSame a (d.putEnc p v e) := h.updPipe p _

theorem encSend (h : NewsSame a d) (p v : Nat) (bs : List Byte) (fin : Bool) : NewsSame a (d.encSend p v bs fin) :=
  (h.caskSend p _ _ _).bumpBy

theorem encGap (h : NewsSame a d) (p v : Nat) (r : GapRec) : NewsSame a (d.encGap p v r) := (h.encSend p v _ true).bump.raiseP p _

theorem encDesc (h : NewsSame a d) (p v : Nat) : NewsSame a (d.encDesc p v) := (h.encSend p v _ true).putEnc p v _

theorem encFrameStart (h : NewsSame a d) (p v fn seq : Nat) (t : Nat × Nat) : NewsSame a (d.encFrameStart p v fn seq t) :=
  ((((h.when _ fun h => h.encDesc p v)).encSend p v _ false).putEnc p v _).wr

theorem encFrameEnd (h : NewsSame a d) (p v : Nat) (void : Bool) (t : Nat × Nat) : NewsSame a (d.encFrameEnd p v void t) :=
  have h₁ := ((h.encSend p v _ true).putEnc p v _).wr
  .ite _ h₁ h₁.bump.wr

/-- The end of the frame in progress, and what waits for it. -/
theorem endDue (h : NewsSame a d) (b : Bool) (p v : Nat) (void : Bool) (t : Nat × Nat) :
    NewsSame a ((if b then d.encFrameEnd p v void t else d).encDue p v) := (ite _ (h.encFrameEnd p v void t) h).putEnc p v _

theorem encAdvance (h : NewsSame a d) (p v fuel : Nat) : NewsSame a (d.encAdvance p v fuel) := by
  induction fuel generalizing d with
  | zero => exact h
  | succ fuel ih =>
    unfold Dev.encAdvance
    extract_lets e
    split
    · exact h
    · split
      · exact h
      · exact h
      · next item rest _ _ =>
        have hr : NewsSame a (d.putEnc p v { e with items := rest }) := h.putEnc p v _
        refine ih ?_
        cases item with
        | fs fn seq t => exact hr.encFrameStart p v fn seq t
        | fe t => exact hr.endDue _ p v false t
        | void t => exact hr.endDue _ p v true t
        | gap r => exact (hr.when _ fun h => h.encDesc p v).encGap p v r
        | again bs => exact (hr.when _ fun h => h.encDesc p v).encSend p v bs true
        | close => exact hr.putEnc p v _
        | row => exact hr

theorem encPush (h : NewsSame a d) (p v : Nat) (is : List RecItem) : NewsSame a (d.encPush p v is) := (h.putEnc p v _).encAdvance p v _

theorem encGapNext (h : NewsSame a d) (p v : Nat) (r : GapRec) : NewsSame a (d.encGapNext p v r) :=
  .ite _ (h.putEnc p v _) ((h.putEnc p v _).encAdvance p v _)

/-! ### Takes (R428 to R430) -/

theorem putTq (h : NewsSame a d) (p t : Nat) (q : TakeQ) : NewsSame a (d.putTq p t q) := h.updPipe p _

theorem showTake (h : NewsSame a d) (p : Nat) : NewsSame a (d.showTake p) := h.wrb.wr

theorem takeCloseQueue (h : NewsSame a d) (p t : Nat) : NewsSame a (d.takeCloseQueue p t) := by
  unfold Dev.takeCloseQueue
  extract_lets q d₁ e items open_ d₂ d₃ d₄
  have h₄ : NewsSame a d₄ := ((((h.wr.showTake p).putEnc p q.vc _).encPush p q.vc _)).updPipe p _
  exact .ite _ (.ite _ (h₄.wrb.updPipe p _) h₄) (.ite _ (h.putTq p t _) h)

theorem takeClosePipe (h : NewsSame a d) (p : Nat) : NewsSame a (d.takeClosePipe p) :=
  h.foldl _ fun _ t h => .ite _ (h.takeCloseQueue p t) h

theorem takeCmdEnd (h : NewsSame a d) (result fpipe : Nat) : NewsSame a (d.takeCmdEnd result fpipe) := h.wr.wr.wr.wr

theorem updTake (h : NewsSame a d) (num : Nat) (g : TakeRec → TakeRec) : NewsSame a (d.updTake num g) := h.updHub _

theorem takeEnd (h : NewsSame a d) (num : Nat) : NewsSame a (d.takeEnd num) := by
  unfold Dev.takeEnd
  split
  · next r _ =>
    have hq := (h.foldl r.qs (g := fun d (x : Nat × Nat) => if (d.tq x.1 x.2).take == num then d.takeCloseQueue x.1 x.2 else d)
      fun _ x h => .ite _ (h.takeCloseQueue x.1 x.2) h).updTake num fun r => { r with ended := true, starting := false }
    exact .ite _ (hq.takeCmdEnd 1 _) hq
  · exact h

theorem takeLimit (h : NewsSame a d) (p t m : Nat) : NewsSame a (d.takeLimit p t m) := (h.putTq p t _).wr.wr

theorem takeEndCommon (h : NewsSame a d) (num : Nat) : NewsSame a (d.takeEndCommon num) := by
  unfold Dev.takeEndCommon
  split
  · dsimp only
    split
    · next m _ => exact takeEnd (h.foldl _ (g := fun d (x : Nat × Nat) => d.takeLimit x.1 x.2 m) fun _ x h => h.takeLimit x.1 x.2 m) num
    · exact h.takeEnd num
  · exact h

theorem takeOpenCheck (h : NewsSame a d) (num : Nat) : NewsSame a (d.takeOpenCheck num) := by
  unfold Dev.takeOpenCheck
  split
  · have h₁ := (h.updTake num fun r => { r with starting := false }).raise (e := 541) (num % 2 ^ 16)
    exact .ite _ (.ite _ h₁ (h₁.takeCmdEnd 0 0)) h
  · exact h

theorem takeOpened (h : NewsSame a d) (num p t : Nat) : NewsSame a (d.takeOpened num p t) := .ite _ h ((h.updTake num _).takeOpenCheck num)

theorem takeTryOpen (h : NewsSame a d) (p v fs : Nat) : NewsSame a (d.takeTryOpen p v fs) := by
  unfold Dev.takeTryOpen
  split
  · exact h
  · next t _ =>
    exact .ite _ (takeOpened ((((((h.wr.putEnc p v _).wr.putTq p t _).wrb).showTake p).foldl _ fun _ r h => h.encGapNext p v r)) _ p t) h

theorem takeClosed (h : NewsSame a d) (num : Nat) : NewsSame a (d.takeClosed num) := by
  unfold Dev.takeClosed
  split
  · have h₁ := (h.updHub fun h => { h with takes := h.takes.filter fun x => x.num != num }).raise (e := 542) (num % 2 ^ 16)
    exact .ite _ h (.ite _ (h₁.takeCmdEnd 0 0) h₁)
  · exact h

theorem arunEnd (h : NewsSame a d) (p cause : Nat) : NewsSame a (d.arunEnd p cause) := .ite _ h.wr h

end NewsSame
end Sys2Proof.Machine
end

section
/-!
What the sensor front end does with packets, with a lost sensor role and with its return leaves alone (R250 to R262, R267, R271 to R274).
-/
set_option Elab.async false -- few threads: each takes a stack of its own
namespace Sys2Proof.Machine
namespace NewsSame

variable {a d : Dev} {p v n : Nat}

/-! ### Lines -/

theorem updSfe (h : NewsSame a d) (p : Nat) (g : Sfe → Sfe) : NewsSame a (d.updSfe p g) := h.updPipe p _

theorem putVc (h : NewsSame a d) (p v : Nat) (x : SfeVc) : NewsSame a (d.putVc p v x) := h.updSfe p _

theorem sfeErr (h : NewsSame a d) (p : Nat) (k : SfeErr) : NewsSame a (d.sfeErr p k) := h.bump

theorem recPush (h : NewsSame a d) (p v : Nat) (is : List RecItem) : NewsSame a (d.recPush p v is) := .ite _ (h.encPush p v is) (h.putVc p v _)

theorem recDropFrame (h : NewsSame a d) (p v : Nat) : NewsSame a (d.recDropFrame p v) :=
  .ite _ ((h.putEnc p v _).encPush p v _) (h.putVc p v _)

theorem recLine (h : NewsSame a d) (p v wc : Nat) (vals : List Nat) (dmg : Bool) : NewsSame a (d.recLine p v wc vals dmg) :=
  .ite _ (.ite _ (h.recPush p v _) (((h.putVc p v _).sfeErr p _).recDropFrame p v)) (.ite _ (h.sfeErr p _) h)

theorem trelPush (h : NewsSame a d) (p v n : Nat) (ws : List CaskWord) : NewsSame a (d.trelPush p v n ws) := (h.putVc p v _).caskSend p _ _ ws

theorem trelLine (h : NewsSame a d) (p v wc : Nat) (vals : List Nat) (dmg : Bool) : NewsSame a (d.trelLine p v wc vals dmg) :=
  .ite _ (.ite _ (((h.putVc p v _).sfeErr p _).trelPush p v _ _) (h.trelPush p v _ _)) h

theorem trelDropFrame (h : NewsSame a d) (p v : Nat) : NewsSame a (d.trelDropFrame p v) :=
  .ite _ ((caskKeeps a).setCask (h.putVc p v _) p _ _) h

theorem sfeDamage (h : NewsSame a d) (p v : Nat) (k : SfeErr) : NewsSame a (d.sfeDamage p v k) := .ite _ h ((h.putVc p v _).raiseP p _)

theorem sfeLine (h : NewsSame a d) (p v wc : Nat) (vals : List Nat) (dmg : Option SfeErr) : NewsSame a (d.sfeLine p v wc vals dmg) := by
  cases dmg with
  | none => exact ((h.putVc p v _).recLine p v wc _ _).trelLine p v wc vals _
  | some k => exact (((h.sfeDamage p v k).putVc p v _).recLine p v wc _ _).trelLine p v wc vals _

/-! ### Packets and rows of the link -/

theorem longBody (h : NewsSame a d) (p v dt wc : Nat) (err : Option SfeErr) (body : List Byte) : NewsSame a (d.longBody p v dt wc err body) := by
  have hs := h.sfeErr p .structure_
  refine .ite _ hs (.ite _ hs (.ite _ hs (.ite _ ?_ (.ite _ hs (.ite _ ((h.putVc p v _).sfeErr p _) ?_)))))
  · cases err with
    | some e => exact h.sfeErr p e
    | none => exact .ite _ (h.caskSend p _ _ _) h
  · cases err with
    | some e => exact (h.sfeErr p e).sfeLine p v wc _ _
    | none => exact h.sfeLine p v wc _ _

theorem eccThen (h : NewsSame a d) (p : Nat) (ecc : Flaw) {g : Dev → Dev} (hg : ∀ {d : Dev}, NewsSame a d → NewsSame a (g d)) :
    NewsSame a (d.eccThen p ecc g) := by
  cases ecc with
  | ok => exact hg h
  | single => exact hg (h.sfeErr p _)
  | multiple => exact h.sfeErr p _

theorem linkEnd (h : NewsSame a d) (p : Nat) (crc : Option Nat) : NewsSame a (d.linkEnd p crc) := by
  unfold Dev.linkEnd
  split
  · exact h
  · exact .ite _ (h.updSfe p _) ((h.updSfe p _).longBody p _ _ _ _ _)

theorem linkStart (h : NewsSame a d) (p : Nat) (x : BitVec 32) : NewsSame a (d.linkStart p x) := by
  unfold Dev.linkStart
  exact ((h.linkEnd p none).eccThen p _ fun h => h).updSfe p _

theorem linkData (h : NewsSame a d) (p : Nat) (row : List RxBlock) : NewsSame a (d.linkData p row) := by
  unfold Dev.linkData
  extract_lets data ctl
  split
  · exact .ite _ (h.updSfe p _) (.ite _ (.ite _ h (h.sfeErr p _)) (h.updSfe p _))
  · exact .ite _ (h.sfeErr p _) h

/-! ### Frames -/

theorem sfeGapsDue (h : NewsSame a d) (p v : Nat) : NewsSame a (d.sfeGapsDue p v) := .ite _ h ((h.putVc p v _).encPush p v _)

theorem stripeSkew (h : NewsSame a d) (p v : Nat) : NewsSame a (d.stripeSkew p v) :=
  .ite _ h (.ite _ (h.when _ fun h => h.updHub _) (.ite _ ((h.updHub _).raise _) h))

theorem sfePad (h : NewsSame a d) (p v : Nat) (k : SfeErr) (n : Nat) : NewsSame a (d.sfePad p v k n) := by
  induction n generalizing d with
  | zero => exact h
  | succ n ih => exact ih (h.sfeLine p v _ _ _)

theorem sfeFrameClose (h : NewsSame a d) (p v : Nat) (fe : Nat × Nat) : NewsSame a (d.sfeFrameClose p v fe) := by
  unfold Dev.sfeFrameClose
  extract_lets d₁ d₂ x g d₃
  have h₂ : NewsSame a d₂ := (h.sfePad p v _ _).sfePad p v _ _
  have h₃ : NewsSame a d₃ :=
    .ite _ ((h₂.sfeGapsDue p v).encPush p v _) (.ite _ (h₂.recPush p v _) (.ite _ (.ite _ (h₂.putVc p v _) (h₂.recPush p v _)) h₂))
  exact h₃.putVc p v _

theorem sfeFrameOpen (h : NewsSame a d) (p v fn : Nat) : NewsSame a (d.sfeFrameOpen p v fn) := by
  unfold Dev.sfeFrameOpen
  extract_lets t x d₁ d₂ open_ seq d' x' d₃
  have h₂ : NewsSame a d₂ := (h.putVc p v _).takeTryOpen p v t
  have h₃ : NewsSame a d₃ := .ite _ (.ite _ (h₂.wr.putVc p v _) ((h₂.wr.putVc p v _).recPush p v _)) h₂
  exact h₃.stripeSkew p v

theorem frameStart (h : NewsSame a d) (p v fn : Nat) : NewsSame a (d.frameStart p v fn) :=
  .ite _ (h.sfeErr p _) (sfeFrameOpen (.ite _ ((h.sfeErr p _).sfeFrameClose p v _) h) p v fn)

theorem boardFrame (h : NewsSame a d) (x : BoardFrame) (seq : Nat) : NewsSame a (d.boardFrame x seq) := by
  have spatial : NewsSame a (d.boardSpatial x) := .ite _ ((h.updHub _).raise _) h
  have interleave : NewsSame a (d.boardInterleave x seq) := by
    unfold Dev.boardInterleave
    dsimp only
    split
    · exact .ite _ (h.raise _) h
    · exact h
  refine .ite _ h (updHub ?_ _)
  split
  · exact spatial
  · exact interleave
  · exact h

theorem boardOwn (h : NewsSame a d) (p v : Nat) : NewsSame a (d.boardOwn p v) := .ite _ (h.boardFrame _ _) h

theorem frameEnd (h : NewsSame a d) (p v : Nat) : NewsSame a (d.frameEnd p v) := by
  have trigger : ∀ {d : Dev}, NewsSame a d → NewsSame a (d.i3cTrigger p v) := fun h => .ite _ (h.updSfe p _) h
  have hs := h.sfeErr p .structure_
  exact .ite _ hs (.ite _ hs (trigger (sfeFrameClose (.ite _ hs h) p v _)))

theorem shortPacket (h : NewsSame a d) (p : Nat) (x : BitVec 32) : NewsSame a (d.shortPacket p x) := by
  unfold Dev.shortPacket
  refine h.eccThen p _ fun h => ?_
  split
  · exact (h.frameStart p _ _).boardOwn p _
  · exact h.frameEnd p _
  · exact h
  · exact h
  · exact .ite _ h (h.sfeErr p _)

theorem linkRow (h : NewsSame a d) (p : Nat) (row : List RxBlock) : NewsSame a (d.linkRow p row) := by
  refine .ite _ ?_ (h.linkData p row)
  split
  · exact h.linkStart p _
  · exact (h.linkEnd p none).shortPacket p _
  · exact h.linkEnd p _
  · exact h.linkData p row

/-! ### Losses and outcomes -/

theorem hpOutcome (h : NewsSame a d) (p outcome : Nat) : NewsSame a (d.hpOutcome p outcome) := (h.wr.wr.wr.wr.updSfe p _).raiseP p _

theorem hpClose (h : NewsSame a d) (p outcome : Nat) : NewsSame a (d.hpClose p outcome) :=
  .ite _ (((h.arunEnd p 3).takeClosePipe p).raiseP p _) ((h.foldl _ fun _ n h => h.takeEndCommon n).raiseP p _)

theorem hpDecide (h : NewsSame a d) (p outcome : Nat) : NewsSame a (d.hpDecide p outcome) :=
  .ite _ (.ite _ (h.hpOutcome p outcome) ((h.hpOutcome p outcome).hpClose p outcome)) (h.hpOutcome p 6)

theorem sfeLost (h : NewsSame a d) (p : Nat) : NewsSame a (d.sfeLost p) := by
  unfold Dev.sfeLost
  extract_lets t drop d₁ d₂ d₃
  have h₁ : NewsSame a d₁ := h.foldl _ fun e v h =>
    putVc (trelDropFrame (ite (e.recFeeds p v = true) (h.recDropFrame p v) h) p v) p v _
  have h₂ : NewsSame a d₂ := h₁.updSfe p _
  have h₃ : NewsSame a d₃ := .ite _ ((h₂.updSfe p _).wr.wr.wr.raiseP p _) h₂
  exact .ite _ (h₃.hpDecide p 4) h₃

theorem sfeExpired (h : NewsSame a d) (p : Nat) : NewsSame a (d.sfeExpired p) := by
  unfold Dev.sfeExpired
  exact updSfe (.ite _ (h.hpDecide p 5) h) p _

theorem idBegin (h : NewsSame a d) (p : Nat) : NewsSame a (d.idBegin p) := by
  unfold Dev.idBegin Dev.idStart
  exact .ite _ (h.updSfe p _) (h.updSfe p _)

theorem sfeReady (h : NewsSame a d) (p : Nat) : NewsSame a (d.sfeReady p) := by
  refine .ite _ (.ite _ ((h.updSfe p _).idBegin p) (.ite _ (((h.updSfe p _).hpDecide p 4).updSfe p _) (h.updSfe p _))) (updSfe ?_ p _)
  exact .ite _ (h.hpDecide p 0) (.ite _ (h.hpDecide p 4) (.ite _ (h.hpDecide p 6) (.ite _ (h.hpDecide p 6) h)))

end NewsSame
end Sys2Proof.Machine
end

section
/-!
What the servo (R497 to R499) and the end of a device's reads of host memory (R132, R214, R530, R541) leave alone.
-/
set_option Elab.async false -- few threads: each takes a stack of its own
namespace Sys2Proof.Machine
namespace NewsSame

variable {a d : Dev}

/-! ### The servo -/

theorem updPtp (h : NewsSame a d) (g : Ptp → Ptp) : NewsSame a (d.updPtp g) := h.updHub _

theorem draw (h : NewsSame a d) : NewsSame a d.draw.2 := h.of_parts

theorem servoState (h : NewsSame a d) (st : Nat) : NewsSame a (d.servoState st) := .ite _ h ((h.wr.updPtp _).raise st)

theorem servoHold (h : NewsSame a d) : NewsSame a d.servoHold := .ite _ h (h.servoState 3)

theorem ptpPortLost (h : NewsSame a d) (u port : Nat) : NewsSame a (d.ptpPortLost u port) := .ite _ h.servoHold h

theorem stepRefuse (h : NewsSame a d) (step : Int) : NewsSame a (d.stepRefuse step) := .ite _ (h.updPtp _).wr.wr ((h.updPtp _).wr.wr.raise _)

theorem stepClear (h : NewsSame a d) : NewsSame a d.stepClear := (h.updPtp _).wr

theorem servoCount (h : NewsSame a d) (o : Int) : NewsSame a (d.servoCount o) := by
  unfold Dev.servoCount
  extract_lets st d₁ near wild d₂
  have h₂ : NewsSame a d₂ := updPtp (.ite _ (h.servoState 1) h) _
  exact .ite _ (h₂.servoState 2) (.ite _ (h₂.servoState 1) h₂)

theorem servoDrive (h : NewsSame a d) (rate : Int) : NewsSame a (d.servoDrive rate) :=
  .ite _ (.ite _ (h.updPtp _).wr.draw.wr (h.updPtp _).wr.wr) (h.updPtp _).wr.wr

theorem servo (h : NewsSame a d) (o : Int) (n m : Nat) : NewsSame a (d.servo o n m) :=
  .ite _ ((h.wr.stepRefuse _).servoState 3) (.ite _ ((h.wr.stepClear.servoCount o).updPtp _)
    (((h.wr.stepClear.servoCount o).updPtp _).servoDrive _))

/-! ### Racking and Press -/

theorem putRch (h : NewsSame a d) (u c : Nat) (x : RackCh) : NewsSame a (d.putRch u c x) := .ite _ (h.updHub _) (h.updPipe u _)

theorem rackEnd (h : NewsSame a d) (u c status : Nat) : NewsSame a (d.rackEnd u c status) := by
  unfold Dev.rackEnd
  dsimp only
  split
  · exact h
  · split
    · exact (h.putRch u c _).caskSend u _ _ _
    · exact h.putRch u c _

theorem rackHalt (h : NewsSame a d) (u c status i : Nat) : NewsSame a (d.rackHalt u c status i) :=
  .ite _ (h.wr.wr.wr.wr.raise _) (h.wr.wr.wr.wr.raiseP u _)

theorem rackHostGone (h : NewsSame a d) (u : Nat) : NewsSame a (d.rackHostGone u) := by
  refine foldl (h.updHub _) _ fun d c k => ?_
  dsimp only
  split_ifs with hf
  · rw [Dev.rackDescData]
    simp only [hf, Bool.not_true, Bool.not_false, Bool.false_eq_true, if_true, if_false]
    exact (k.putRch u c _).rackHalt u c _ _
  · exact (k.putRch u c _).rackEnd u c _
  · exact k

theorem pressHalt (h : NewsSame a d) (u r status i : Nat) : NewsSame a (d.pressHalt u r status i) :=
  .ite _ (h.wr.wr.wr.wr.raise _) (h.wr.wr.wr.wr.raiseP u _)

theorem updPress (h : NewsSame a d) (u : Nat) (g : Press → Press) : NewsSame a (d.updPress u g) := .ite _ (h.updHub _) (h.updPipe u _)

theorem pressGone (h : NewsSame a d) (u r : Nat) : NewsSame a (d.pressDescData u r false) := .ite _ h ((h.updPress u _).pressHalt u r _ _)

/-! ### Completions of NVMe commands -/

/-- Another list of reads of host memory. -/
theorem setHreq (h : NewsSame a d) (l : HubSt → List HostUser) : NewsSame a (d.updHub fun h => { h with hreq := l h }) := h.updHub _

theorem updNvme (h : NewsSame a d) (g : Nvme → Nvme) : NewsSame a (d.updNvme g) := h.updHub _

theorem raiseTenant (h : NewsSame a d) (e : Nat) : NewsSame a (d.raiseTenant e) := by
  obtain ⟨g, hg, hk⟩ := vecEvent_parts d (vectorOf e)
  have hv : NewsSame a (d.vecEvent (vectorOf e)) := by
    rw [hg]
    obtain ⟨hstat, -, hsyn, -, -⟩ := hk d.router
    exact h.of_parts rfl rfl rfl rfl hstat hsyn
  exact .ite _ h hv

theorem hostWords (h : NewsSame a d) (n : Nat) (ws : List Nat) : NewsSame a (d.hostWords n ws) := h.of_parts

theorem cqWrite (h : NewsSame a d) (k : Nat) (ws : List Nat) : NewsSame a (d.cqWrite k ws) := by
  unfold Dev.cqWrite
  split
  · exact h
  · exact .ite _ (((h.hostWords _ _).updNvme _).raise _)
      (.ite _ (((h.hostWords _ _).updNvme _).raiseTenant _) ((h.hostWords _ _).updNvme _))

theorem cqPost (h : NewsSame a d) (k : Nat) (ws : List Nat) : NewsSame a (d.cqPost k ws) := by
  unfold Dev.cqPost
  split
  · exact h
  · exact .ite _ (h.cqWrite k ws) (h.updNvme _)

theorem sqDeletions (h : NewsSame a d) : NewsSame a d.sqDeletions := h.foldl _ fun _ _ k => ((k.updNvme _).wr.wr.wr.updNvme _).cqPost _ _

theorem showLocks (h : NewsSame a d) (p extra : Nat) : NewsSame a (d.showLocks p extra) := .ite _ h.wr.wr h.wr

theorem nvClosing (h : NewsSame a d) : NewsSame a d.nvClosing := by
  unfold Dev.nvClosing Dev.nvClosed
  exact .ite _ ((h.updHub _).updNvme _) h

theorem lockRelease (h : NewsSame a d) (p q cid : Nat) : NewsSame a (d.lockRelease p q cid) := (h.updPipe p _).showLocks p 0

theorem updCel (h : NewsSame a d) (p : Nat) (g : Slice → Slice) : NewsSame a (d.updCel p g) := h.updPipe p _

theorem nvEnd (h : NewsSame a d) (q cid dw0 status : Nat) : NewsSame a (d.nvEnd q cid dw0 status) := by
  unfold Dev.nvEnd
  extract_lets d₁ d₂ d₃ d₄
  have h₁ : NewsSame a d₁ := h.foldl _ fun _ p k => k.lockRelease p q cid
  have h₂ : NewsSame a d₂ := h₁.foldl _ fun _ p k => k.updCel p _
  have h₄ : NewsSame a d₄ := (h₂.updNvme _).setHreq _
  exact (h₄.cqPost q _).sqDeletions.nvClosing

theorem nvGone (h : NewsSame a d) (q cid : Nat) : NewsSame a (d.nvData q cid false) := by
  simp only [Dev.nvData, Bool.not_false, if_true]
  split
  · exact h
  · exact h.nvEnd q cid _ _

/-! ### What waits for host memory -/

theorem hostReadsEnd (h : NewsSame a d) (nv : Bool) : NewsSame a (d.hostReadsEnd nv) := by
  unfold Dev.hostReadsEnd
  refine foldl (setHreq (h.foldl (List.range 5) fun _ u k => k.rackHostGone u) _) _ fun d x k => ?_
  cases x with
  | nvme q cid => exact .ite _ (k.nvGone q cid) k
  | press u r => exact k.pressGone u r
  | _ => exact k

theorem vrsUnstage (h : NewsSame a d) (p u : Nat) : NewsSame a (d.vrsUnstage p u) := by
  unfold Dev.vrsUnstage
  dsimp only
  split
  · exact (h.updPipe p _).wr.wr.wr
  · exact h

theorem cuvDiscard (h : NewsSame a d) : NewsSame a d.cuvDiscard := by
  unfold Dev.cuvDiscard
  extract_lets d₁ d₂
  have h₁ : NewsSame a d₁ := h.foldl _ fun _ x k => k.updPipe x.1 _
  have h₂ : NewsSame a d₂ := h₁.foldl _ fun _ (x : Nat × Nat) k => k.vrsUnstage x.1 x.2
  exact h₂.updHub _

theorem cuvFail (h : NewsSame a d) (e : CuvErr) : NewsSame a (d.cuvFail e) := by
  unfold Dev.cuvFail
  dsimp only
  cases e.det with
  | some v => exact h.cuvDiscard.wr.wr.wr.wr.wr.raise _
  | none => exact h.cuvDiscard.draw.wr.wr.wr.wr.wr.raise _

theorem cuvHostLost (h : NewsSame a d) : NewsSame a d.cuvHostLost := .ite _ (h.cuvFail _) h

end NewsSame
end Sys2Proof.Machine
end

section
/-!
Quadrille (chapter 17): the ports and the reads that wait at them, messages of peers, and the ends of board takes.
-/
set_option Elab.async false -- few threads: each takes a stack of its own
namespace Sys2Proof.Machine

variable {a d : Dev} {s : State} {q : Fin 3}

/-! ### Reads of what a news leaves alone -/

theorem NewsSame.isFollower (h : NewsSame a d) : d.isFollower = a.isFollower := by
  simp only [Dev.isFollower, Dev.on, h.rd F.QDL_CTL_EN 0 0 0 rfl, h.rd F.QDL_ID_DEVID 0 0 0 rfl]

theorem NewsSame.qdlState (h : NewsSame a d) (q : Nat) : d.qdlState q = a.qdlState q := h.rd F.QDL_PEER_STATE 0 q 0 rfl

/-! ### Ports (R536, R541) -/

theorem qdlPeer_of_id (h : a.rd F.QDL_ID_DEVID = d.rd F.QDL_ID_DEVID) (q : Nat) : a.qdlPeer q = d.qdlPeer q := by simp only [Dev.qdlPeer, h]

/-- Port `q` as it enters UP, its peer shown. -/
def Dev.qdlOpened (d : Dev) (q : Nat) : Dev := (d.wr F.QDL_PEER_STATE 3 0 q).wr F.QDL_PEER_PEER (d.qdlPeer q) 0 q

theorem qdlOpened_shows (d : Dev) (q : Nat) : (d.qdlOpened q).qdlState q = 3 ∧ (d.qdlOpened q).rd F.QDL_PEER_PEER 0 q = d.qdlPeer q % 2 ^ 2 :=
  ⟨(rd_wr_of_lo (by decide)).trans (rd_wr_of_lt (by decide)), Dev.rd_wr ..⟩

theorem qdlOpened_rd (d : Dev) (q : Nat) {f : Fld} {p i j : Nat} (hf : f.reg ≠ .QDL_PEER) : (d.qdlOpened q).rd f p i j = d.rd f p i j :=
  (rd_wr_of_reg hf).trans (rd_wr_of_reg hf)

/-- The exchange of identity takes a port to UP and shows its peer; a leader's is reported (R536). -/
theorem qdlHello_up (ha : s.awake) (h2 : s.dev.qdlState q = 2) (hl : s.dev.hub.lost = false) :
    Does (.qdlHello q) s fun t => t.qdlState q = 3 ∧ t.rd F.QDL_PEER_PEER 0 q = s.dev.qdlPeer q % 2 ^ 2 ∧
      (s.dev.isFollower = false → Raised t 553 (pack [(2, s.dev.qdlPeer q)])) := by
  obtain ⟨hstate, hpeer⟩ := qdlOpened_shows s.dev q
  have hid : (s.dev.qdlOpened q).qdlPeer q = s.dev.qdlPeer q := qdlPeer_of_id (qdlOpened_rd s.dev q (by decide)) q
  have hfol : (s.dev.qdlOpened q).isFollower = s.dev.isFollower := by
    simp only [Dev.isFollower, Dev.on, qdlOpened_rd s.dev q (f := F.QDL_CTL_EN) (by decide), qdlOpened_rd s.dev q (f := F.QDL_ID_DEVID) (by decide)]
  have run : exec (.qdlHello q) s = .next (s.after (if (s.dev.qdlOpened q).isFollower then
      (s.dev.qdlOpened q).updQdl fun x => { x with ends := [] }
    else (s.dev.qdlOpened q).raise 553 (pack [(2, (s.dev.qdlOpened q).qdlPeer q)]))) :=
    exec_of_run ha rfl (if_neg (by simp [h2, hl]))
  refine ⟨_, run, ?_⟩
  rw [hfol, hid]
  cases s.dev.isFollower with
  | true => exact ⟨hstate, hpeer, nofun⟩
  | false =>
    exact ⟨(raise_rd_of_ovf _ _ (.inr (by decide))).trans hstate, (raise_rd_of_ovf _ _ (.inr (by decide))).trans hpeer,
      fun _ => raised_of_raise (d := s.dev.qdlOpened q) hl _ _⟩

/-- What a read that is lost with its port completes with (R541). -/
def QItem.unanswered : QItem → Option Nat
  | .write _ _ => none
  | .read _ => some (2 ^ 32 - 1)
  | .readLow _ => some (2 ^ 64 - 1)
  | .readHigh _ _ => some (2 ^ 64 - 1)

/-- The latest of the reads that wait decides what the last read returns. -/
theorem unanswered_last {x : QItem} {v : Nat} (hx : x.unanswered = some v) {l ws : List QItem} (hw : ∀ x ∈ ws, ∃ o v, x = QItem.write o v) :
    ((l ++ x :: ws).filterMap QItem.unanswered).getLast? = some v := by
  have hws : ws.filterMap QItem.unanswered = [] := by
    rw [List.filterMap_eq_nil_iff]
    intro y hy
    obtain ⟨o, w, rfl⟩ := hw y hy
    rfl
  simp [List.filterMap_append, hx, hws]

/-- Port `q` out of UP or its exchange, before that is reported: nothing waits at it and its reads have completed (R541). -/
def Dev.qdlClosed (d : Dev) (q : Nat) : Dev :=
  { (d.wr F.QDL_PEER_STATE 1 0 q).updQdl fun x =>
      { x with fwd := Tab.del x.fwd q, msgs := Tab.del x.msgs q, openTakes := Tab.del x.openTakes (q + 1) } with
    rdata := ((Tab.get [] d.hub.qdl.fwd q).filterMap QItem.unanswered).getLast?.getD d.rdata }

theorem qdlDown_of_off {q : Nat} (h : d.qdlState q < 2) : d.qdlDown q = d := if_pos h

theorem qdlDown_eq {q : Nat} (h : 2 ≤ d.qdlState q) : d.qdlDown q =
    if d.qdlState q != 3 || d.hub.lost then d.qdlClosed q
    else if (d.qdlClosed q).isFollower then (d.qdlClosed q).servoHold
    else (d.qdlClosed q).raise 554 (pack [(2, (d.qdlClosed q).qdlPeer q), (4, (d.qdlClosed q).rd F.LANE_ROLE_STAT_FCAUSE 4 q)]) := by
  rw [Dev.qdlDown, if_neg (by omega)]
  rfl

theorem qdlClosed_rd (d : Dev) (q : Nat) (f : Fld) (p i j : Nat) : (d.qdlClosed q).rd f p i j = (d.wr F.QDL_PEER_STATE 1 0 q).rd f p i j := rfl

theorem qdlClosed_isFollower (d : Dev) (q : Nat) : (d.qdlClosed q).isFollower = d.isFollower := by
  simp only [Dev.isFollower, Dev.on, qdlClosed_rd, rd_wr_of_reg (f := F.QDL_CTL_EN) (g := F.QDL_PEER_STATE) (by decide),
    rd_wr_of_reg (f := F.QDL_ID_DEVID) (g := F.QDL_PEER_STATE) (by decide)]

theorem qdlClosed_state (d : Dev) (q : Nat) : (d.qdlClosed q).qdlState q = 1 := (qdlClosed_rd ..).trans (rd_wr_of_lt (by decide))

/-- What follows the close of a port changes nothing held. -/
theorem newsSame_qdlGone {q : Nat} (h : 2 ≤ d.qdlState q) : NewsSame (d.qdlClosed q) (d.qdlGone q) := by
  have down : NewsSame (d.qdlClosed q) (d.qdlDown q) := by
    rw [qdlDown_eq h]
    exact .ite _ (.refl _) (.ite _ (NewsSame.refl _).servoHold ((NewsSame.refl _).raise _))
  exact .ite _ (down.hostReadsEnd true).cuvHostLost down

theorem qdlGone_of_off {q : Nat} (h : d.qdlState q < 2) : d.qdlGone q = d := by
  have hup : d.qdlUp q = false := beq_false_of_ne (show d.qdlState q ≠ 3 by omega)
  simp only [Dev.qdlGone, hup, Bool.false_and, Bool.false_eq_true, if_false]
  exact qdlDown_of_off h

/-- In a leader the end of a port is an event and nothing more. -/
theorem qdlGone_leader {q : Nat} (h3 : d.qdlState q = 3) (hl : d.hub.lost = false) (hf : d.isFollower = false) :
    554 ∈ (d.qdlGone q).router.stat := by
  have hdown : d.qdlDown q =
      (d.qdlClosed q).raise 554 (pack [(2, (d.qdlClosed q).qdlPeer q), (4, (d.qdlClosed q).rd F.LANE_ROLE_STAT_FCAUSE 4 q)]) := by
    rw [qdlDown_eq (by omega)]
    simp [h3, hl, qdlClosed_isFollower, hf]
  have hf' : (d.qdlDown q).isFollower = false := by
    rw [hdown, ((NewsSame.refl _).raise _).isFollower, qdlClosed_isFollower, hf]
  have hstat : 554 ∈ (d.qdlDown q).router.stat := by
    rw [hdown]
    exact (raised_of_raise (d := d.qdlClosed q) hl _ _).1
  simpa [Dev.qdlGone, hf'] using hstat

/-- A port that leaves UP or its exchange is in TRAIN; nothing waits at it, and the latest read that waited has completed with all ones
(R536, R541). -/
theorem qdlPortDown_effect (ha : s.awake) (h2 : 2 ≤ s.dev.qdlState q) :
    Does (.qdlPortDown q) s fun t => t.qdlState q = 1 ∧ Tab.get [] t.hub.qdl.fwd q = [] ∧
      (∀ l ws, (∀ x ∈ ws, ∃ o v, x = QItem.write o v) →
        (∀ o, Tab.get [] s.dev.hub.qdl.fwd q = l ++ .read o :: ws → t.rdata = 2 ^ 32 - 1) ∧
        (∀ o low, Tab.get [] s.dev.hub.qdl.fwd q = l ++ .readHigh o low :: ws → t.rdata = 2 ^ 64 - 1)) ∧
      (s.dev.qdlState q = 3 → s.dev.hub.lost = false → s.dev.isFollower = false → 554 ∈ t.router.stat) := by
  refine does_of_run_unsettled ha (fun _ h => h) rfl ?_
  have k := newsSame_qdlGone h2
  have hdata : (s.dev.qdlGone q).rdata = ((Tab.get [] s.dev.hub.qdl.fwd q).filterMap QItem.unanswered).getLast?.getD s.dev.rdata := k.rdata
  refine ⟨(k.qdlState q).trans (qdlClosed_state ..), ?_, fun l ws hw => ⟨fun o hq => ?_, fun o low hq => ?_⟩, qdlGone_leader⟩
  · rw [k.hub.fwd]
    exact Tab.get_del_same ..
  · rw [hdata, hq, unanswered_last rfl hw]
    rfl
  · rw [hdata, hq, unanswered_last rfl hw]
    rfl

/-! ### A follower's accesses to host memory (R539) -/

theorem followerAccess_served (ha : s.awake) (a : Nat) (data : List Byte) (n : Nat) (hf : s.dev.isFollower = false) (hq : s.dev.qdlUp q = true)
    (ho : s.dev.hostOk = true) :
    (Does (.qdlFollowerHostAccess q true a data n) s fun t => t.hostMem = s.dev.hostMem.writes a data ∧ t.hub.qdl.reply = some []) ∧
      Does (.qdlFollowerHostAccess q false a data n) s fun t => t.hostMem = s.dev.hostMem ∧
        t.hub.qdl.reply = some (s.dev.hostMem.reads a n) := by
  refine ⟨does_of_run_unsettled ha (fun _ h => h) rfl ?_, does_of_run_unsettled ha (fun _ h => h) rfl ?_⟩ <;>
    simp [hf, hq, ho, Dev.updQdl, Dev.updHub, Dev.hostWrite]

theorem followerAccess_refused (ha : s.awake) (wr : Bool) (a : Nat) (data : List Byte) (n : Nat) (hf : s.dev.isFollower = false)
    (hq : s.dev.qdlUp q = true) (ho : s.dev.hostOk = false) :
    Does (.qdlFollowerHostAccess q wr a data n) s fun t => t.hostMem = s.dev.hostMem ∧ t.hub.qdl.reply = none := by
  refine does_of_run_unsettled ha (fun _ h => h) rfl ?_
  simp [hf, hq, ho, Dev.updQdl, Dev.updHub]

/-! ### Peer events (R540) -/

/-- What a leader counts of a peer's takes by the event `e` that crosses the link. -/
def Dev.takeCounted (d : Dev) (x e : Nat) : Dev :=
  if e = 541 then d.updQdl fun y => { y with openTakes := Tab.set 0 y.openTakes x (Tab.get 0 d.hub.qdl.openTakes x + 1) }
  else if e = 542 then d.updQdl fun y => { y with openTakes := Tab.set 0 y.openTakes x (Tab.get 0 d.hub.qdl.openTakes x - 1) }
  else d

theorem takeCounted_parts (d : Dev) (x e : Nat) : (d.takeCounted x e).router = d.router ∧
    (e = 541 → Tab.get 0 (d.takeCounted x e).hub.qdl.openTakes x = Tab.get 0 d.hub.qdl.openTakes x + 1) ∧
      (e = 542 → Tab.get 0 (d.takeCounted x e).hub.qdl.openTakes x = Tab.get 0 d.hub.qdl.openTakes x - 1) := by
  unfold Dev.takeCounted
  split_ifs with h₁ h₂
  · exact ⟨rfl, fun _ => by simp [Dev.updQdl, Dev.updHub], fun h₂ => absurd (h₁.symm.trans h₂) (by decide)⟩
  · exact ⟨rfl, fun h => absurd h h₁, fun _ => by simp [Dev.updQdl, Dev.updHub]⟩
  · exact ⟨rfl, fun h => absurd h h₁, fun h => absurd h h₂⟩

theorem NewsSame.boardEvent (h : NewsSame a d) (x e num : Nat) : NewsSame a (d.boardEvent x e num) := by
  unfold Dev.boardEvent
  dsimp only
  split
  · exact .ite _ ((h.updTake _ _).takeOpenCheck _) ((h.updTake _ _).takeClosed _)
  · exact h

/-- An event message of a peer: a follower has sent its oldest one; a leader reports it and counts the takes it tells of. -/
theorem peerEvent_effect (ha : s.awake) (e : Fin 1024) (syn : Word) (hq : s.dev.qdlUp q = true) (hl : s.dev.hub.lost = false) :
    Does (.qdlPeerEventMessage q e syn) s fun t =>
      (s.dev.isFollower = true → Tab.get [] t.hub.qdl.msgs q = (Tab.get [] s.dev.hub.qdl.msgs q).drop 1) ∧
      (s.dev.isFollower = false → Raised t 555 (pack [(2, s.dev.qdlPeer q), (10, e)]) ∧
        (e.val = 541 → Tab.get 0 t.hub.qdl.openTakes (s.dev.qdlPeer q) = Tab.get 0 s.dev.hub.qdl.openTakes (s.dev.qdlPeer q) + 1) ∧
        (e.val = 542 → Tab.get 0 t.hub.qdl.openTakes (s.dev.qdlPeer q) = Tab.get 0 s.dev.hub.qdl.openTakes (s.dev.qdlPeer q) - 1)) := by
  refine does_of_run_unsettled ha (fun _ h => h) rfl ?_
  simp only [hq, hl, Bool.not_true, Bool.or_self, Bool.false_eq_true, if_false]
  cases hf : s.dev.isFollower with
  | true => exact ⟨fun _ => Tab.get_set_same .., nofun⟩
  | false =>
    refine ⟨nofun, fun _ => ?_⟩
    have hr := raised_of_raise hl 555 (pack [(2, s.dev.qdlPeer q), (10, e.val)])
    have ho : (s.dev.raise 555 (pack [(2, s.dev.qdlPeer q), (10, e.val)])).hub.qdl.openTakes = s.dev.hub.qdl.openTakes := by
      obtain ⟨m, hm⟩ := raise_hub s.dev 555 (pack [(2, s.dev.qdlPeer q), (10, e.val)])
      rw [hm]
    generalize s.dev.raise 555 (pack [(2, s.dev.qdlPeer q), (10, e.val)]) = t₁ at hr ho
    obtain ⟨hrouter, hopen, hclose⟩ := takeCounted_parts t₁ (s.dev.qdlPeer q) e
    have k : NewsSame (t₁.takeCounted (s.dev.qdlPeer q) e) (if e.val = 541 ∨ e.val = 542 then
        (t₁.takeCounted (s.dev.qdlPeer q) e).boardEvent (s.dev.qdlPeer q) e (syn.toNat % 2 ^ 16) else t₁.takeCounted (s.dev.qdlPeer q) e) :=
      .ite _ ((NewsSame.refl _).boardEvent _ _ _) (.refl _)
    refine ⟨k.raised 555 _ rfl ?_, fun h => ?_, fun h => ?_⟩
    · rwa [Raised, hrouter]
    · exact (congrArg (Tab.get 0 · _) k.hub.openTakes).trans ((hopen h).trans (by rw [ho]))
    · exact (congrArg (Tab.get 0 · _) k.hub.openTakes).trans ((hclose h).trans (by rw [ho]))

/-! ### Time (R542, R544) -/

theorem satCode_lt (w : Nat) (x : Int) : satCode w x < 2 ^ w := by
  have hp : (0 : Int) < (2 ^ w : Nat) := by positivity
  have h₁ := Int.emod_nonneg (clampI (-(2 ^ (w - 1) : Nat)) ((2 ^ (w - 1) : Nat) - 1) x) hp.ne'
  have h₂ := Int.emod_lt_of_pos (clampI (-(2 ^ (w - 1) : Nat)) ((2 ^ (w - 1) : Nat) - 1) x) hp
  unfold satCode code
  omega

/-- The offset of a follower's time against its leader's, in ns (R542). -/
def Dev.qdlOffset (d : Dev) (q t : Nat) : Int := 256 * ((d.hubTime : Int) - t) - 4096 * (d.rd F.QDL_PEER_DELAY 0 q : Int)

/-- What a time message shows before the servo takes its offset. -/
def Dev.timeShown (d : Dev) (o : Int) (missed : Bool) : Dev :=
  let d := ((d.wr F.QDL_TIME_STAT_OFFSET (satCode 16 (roundInt o 65536))).wr F.QDL_TIME_STAT_HOLD 0).updQdl fun x => { x with lastMsg := d.c }
  if missed then d.wr F.QDL_TIME_STAT_MISSED 1 else d

theorem timeShown_effect (d : Dev) (o : Int) (missed : Bool) : (d.timeShown o missed).on F.QDL_TIME_STAT_HOLD = false ∧
    (d.timeShown o missed).hub.qdl.lastMsg = d.c ∧ (d.timeShown o missed).rd F.QDL_TIME_STAT_OFFSET = satCode 16 (roundInt o 65536) ∧
      (missed = true → (d.timeShown o missed).on F.QDL_TIME_STAT_MISSED = true) := by
  have hhold : ((d.wr F.QDL_TIME_STAT_OFFSET (satCode 16 (roundInt o 65536))).wr F.QDL_TIME_STAT_HOLD 0).on F.QDL_TIME_STAT_HOLD = false :=
    on_wrb (b := false) rfl
  have hoff : ((d.wr F.QDL_TIME_STAT_OFFSET (satCode 16 (roundInt o 65536))).wr F.QDL_TIME_STAT_HOLD 0).rd F.QDL_TIME_STAT_OFFSET =
      satCode 16 (roundInt o 65536) := (rd_wr_of_lo (by decide)).trans (rd_wr_of_lt (satCode_lt 16 _))
  cases missed with
  | true =>
    exact ⟨(on_of_rd (rd_wr_of_lo (by decide))).trans hhold, rfl, (rd_wr_of_lo (by decide)).trans hoff, fun _ => on_wrb (b := true) rfl⟩
  | false => exact ⟨hhold, rfl, hoff, nofun⟩

theorem timeMessage_effect (ha : s.awake) (t : Nat) (step : Option Int) (missed : Bool) (hf : s.dev.isFollower = true)
    (hq : s.dev.qdlUp q = true) (hl : s.dev.hub.lost = false) :
    Does (.qdlTimeMessage q t step missed) s fun a => a.on F.QDL_TIME_STAT_HOLD = false ∧ a.hub.qdl.lastMsg = s.dev.c ∧
      a.rd F.QDL_TIME_STAT_OFFSET =
        satCode 16 (roundInt (256 * ((s.dev.hubTime : Int) - t) - 4096 * (s.dev.rd F.QDL_PEER_DELAY 0 q : Int)) 65536) ∧
      (missed = true → a.on F.QDL_TIME_STAT_MISSED = true) ∧
      (∀ x, step = some x → a.hub.ptp.apply = some x ∧ a.hub.ptp.pending = none) := by
  refine does_of_run_unsettled ha (fun _ h => h) rfl ?_
  simp only [hq, hf, hl, Bool.not_true, Bool.or_self, Bool.false_eq_true, if_false]
  obtain ⟨hhold, hmsg, hoff, hmissed⟩ := timeShown_effect s.dev (s.dev.qdlOffset q t) missed
  have k := (NewsSame.refl (s.dev.timeShown (s.dev.qdlOffset q t) missed)).servo (s.dev.qdlOffset q t) 8000 1
  have keeps : ∀ {e : Dev}, NewsSame (s.dev.timeShown (s.dev.qdlOffset q t) missed) e → e.on F.QDL_TIME_STAT_HOLD = false ∧
      e.hub.qdl.lastMsg = s.dev.c ∧ e.rd F.QDL_TIME_STAT_OFFSET = satCode 16 (roundInt (s.dev.qdlOffset q t) 65536) ∧
      (missed = true → e.on F.QDL_TIME_STAT_MISSED = true) := fun k =>
    ⟨(on_of_rd (k.rd _ 0 0 0 rfl)).trans hhold, k.hub.lastMsg.trans hmsg, (k.rd _ 0 0 0 rfl).trans hoff,
      fun h => (on_of_rd (k.rd _ 0 0 0 rfl)).trans (hmissed h)⟩
  cases step with
  | none =>
    obtain ⟨h₁, h₂, h₃, h₄⟩ := keeps k
    exact ⟨h₁, h₂, h₃, h₄, nofun⟩
  | some x =>
    obtain ⟨h₁, h₂, h₃, h₄⟩ := keeps (k.stepClear.updPtp fun p => { p with apply := some x })
    refine ⟨h₁, h₂, h₃, h₄, fun y hy => ?_⟩
    obtain rfl : x = y := Option.some.inj hy
    exact ⟨rfl, rfl⟩

theorem delayEcho_effect (ha : s.awake) (delay : Nat) (hf : s.dev.isFollower = true) (hq : s.dev.qdlUp q = true) (hl : s.dev.hub.lost = false) :
    Does (.qdlDelayEcho q delay) s fun t => t.rd F.QDL_PEER_DELAY 0 q = min 0xFFFF delay ∧ t.hub = s.dev.hub := by
  refine does_of_run_unsettled ha (fun _ h => h) rfl ?_
  simp only [hf, hq, hl, Bool.and_self, Bool.not_false, if_true]
  exact ⟨rd_wr_of_lt (show min 0xFFFF delay < 2 ^ 16 by omega), rfl⟩

/-! ### Ends of board takes (R547, R548) -/

theorem bit_setBit (v i : Nat) : bit (setBit v i) i = true := by
  unfold setBit
  split_ifs with h
  · exact h
  · have hp : 0 < 2 ^ i := by positivity
    have hdiv : (v + 2 ^ i) / 2 ^ i = v / 2 ^ i + 1 := Nat.add_div_right v hp
    have hbit : ¬ v / 2 ^ i % 2 = 1 := by simpa [bit] using h
    simp only [bit, hdiv, beq_iff_eq]
    omega

/-- The record of take `num` once the take has ended. -/
def TakeRec.endOf (num : Nat) (r : TakeRec) : TakeRec := if r.num = num then { r with ended := true, starting := false } else r

theorem takeKeeps_takes (l : List TakeRec) : TakeKeeps fun d => d.hub.takes = l := by
  refine ⟨⟨⟨⟨fun _ h => h, fun _ h => h, fun _ h => h⟩, fun _ h => h, fun e syn h => ?_, fun _ h => h⟩, fun _ h => h, fun _ h => h⟩,
    fun h => h, fun _ h => h⟩
  next d =>
    obtain ⟨m, hm⟩ := raise_hub d e syn
    rw [hm]
    exact h

/-- The end of a take is noted in its record; what its queues close changes no record. -/
theorem takeEnd_takes (d : Dev) (num : Nat) : (d.takeEnd num).hub.takes = d.hub.takes.map (TakeRec.endOf num) := by
  unfold Dev.takeEnd
  split
  · next r _ =>
    have hq := foldl_keeps (P := fun e => e.hub.takes = d.hub.takes) r.qs (f := fun d (x : Nat × Nat) =>
      if (d.tq x.1 x.2).take == num then d.takeCloseQueue x.1 x.2 else d) (fun e x _ h => ?_) rfl
    · split_ifs
      · exact congrArg (List.map (TakeRec.endOf num)) hq
      · exact congrArg (List.map (TakeRec.endOf num)) hq
    · split_ifs
      · exact (takeKeeps_takes _).takeCloseQueue h x.1 x.2
      · exact h
  · next h =>
    have hne : ∀ r ∈ d.hub.takes, r.num ≠ num := by simpa [List.find?_eq_none] using h
    exact ((List.map_congr_left fun r hr => if_neg (hne r hr)).trans (List.map_id' _)).symm

/-- The device a leader's report of the end of a stream leaves, before the take ends everywhere else. -/
def Dev.endNoted (d : Dev) (x num : Nat) : Dev :=
  (d.wr F.QDL_TAKE_STAT_ENDED (setBit (d.rd F.QDL_TAKE_STAT_ENDED) x)).raise 557 (pack [(2, x), (16, num)])

theorem endNoted_effect (x : Fin 4) (num : Nat) (hl : d.hub.lost = false) :
    bit ((d.endNoted x num).rd F.QDL_TAKE_STAT_ENDED) x = true ∧ Raised (d.endNoted x num) 557 (pack [(2, x.val), (16, num)]) := by
  refine ⟨?_, raised_of_raise (d := d.wr F.QDL_TAKE_STAT_ENDED _) hl _ _⟩
  rw [Dev.endNoted, raise_rd _ _ _ _ _ _ _ (by decide), Dev.rd_wr]
  exact (bit_mod_two_pow (w := 4) _ x.isLt).trans (bit_setBit _ _)

theorem takeEndReport_effect (ha : s.awake) (x : Fin 4) (num : Word) (hf : s.dev.isFollower = false) (hl : s.dev.hub.lost = false)
    (hb : bit (s.dev.rd F.QDL_TAKE_STAT_ENDED) x = false) (hx : x = 0 ∨ s.dev.qdlUp (x.val - 1) = true)
    (hr : ∃ r ∈ s.dev.hub.takes, r.num = num.toNat ∧ r.devs ≠ []) :
    Does (.qdlTakeEndReport x num) s fun t => bit (t.rd F.QDL_TAKE_STAT_ENDED) x = true ∧
      Raised t 557 (pack [(2, x.val), (16, num.toNat)]) ∧ ∀ r ∈ t.hub.takes, r.num = num.toNat → r.ended = true := by
  have hit : (s.dev.hub.takes.any fun r => r.num == num.toNat && !r.devs.isEmpty) = true := by simpa using hr
  have hreach : (x.val == 0 || s.dev.qdlUp (x.val - 1)) = true := by
    rcases hx with rfl | hx
    · rfl
    · rw [hx, Bool.or_true]
  refine does_of_run_unsettled ha (fun _ h => h) rfl ?_
  simp only [hf, hl, hit, hreach, hb, Bool.not_true, Bool.or_self, Bool.false_eq_true, if_false]
  obtain ⟨hbit, hraised⟩ := endNoted_effect x num.toNat hl
  have k := (NewsSame.refl (s.dev.endNoted x num.toNat)).takeEnd num.toNat
  refine ⟨?_, k.raised 557 (pack [(2, x.val), (16, num.toNat)]) rfl hraised, fun r hr hn => ?_⟩
  · exact (congrArg (bit · x) (k.rd F.QDL_TAKE_STAT_ENDED 0 0 0 rfl)).trans hbit
  · have hr' := (takeEnd_takes (s.dev.endNoted x num.toNat) num.toNat) ▸ hr
    obtain ⟨r₀, -, rfl⟩ := List.mem_map.1 hr'
    unfold TakeRec.endOf at hn ⊢
    split_ifs at hn ⊢ <;> trivial

/-- A list of takes ended in turn leaves no ordered take open that it named. -/
theorem takeEnds_end (l : List Nat) (d : Dev) (h : ∀ r ∈ d.hub.takes, r.ordered = true → r.ended = true ∨ r.num ∈ l) :
    ∀ r ∈ (l.foldl Dev.takeEnd d).hub.takes, r.ordered = true → r.ended = true := by
  induction l generalizing d with
  | nil => exact fun r hr ho => (h r hr ho).resolve_right List.not_mem_nil
  | cons n l ih =>
    refine ih (d.takeEnd n) fun r hr ho => ?_
    obtain ⟨r₀, hr₀, rfl⟩ := List.mem_map.1 (takeEnd_takes d n ▸ hr)
    unfold TakeRec.endOf at ho ⊢
    split_ifs at ho ⊢ with hn
    · exact .inl rfl
    · exact (h r₀ hr₀ ho).imp_right fun hm => (List.mem_cons.1 hm).resolve_left hn

theorem orphanExpiry_effect (ha : s.awake) (hf : s.dev.isFollower = true) (hp : s.dev.leaderPort = none) :
    Does .qdlOrphanExpiry s fun t => (∀ r ∈ t.hub.takes, r.ordered = true → r.ended = true) ∧
      t.hub.qdl.ends = s.dev.hub.qdl.ends ++ (s.dev.hub.takes.filter fun r => r.ordered && !r.ended).map (·.num) := by
  refine does_of_run_unsettled ha (fun _ h => h) rfl ?_
  simp only [hf, hp, Option.isSome_none, Bool.not_true, Bool.or_self, Bool.false_eq_true, if_false]
  generalize hopen : (s.dev.hub.takes.filter fun r => r.ordered && !r.ended).map (·.num) = nums
  have k : NewsSame s.dev (nums.foldl Dev.takeEnd s.dev) := (NewsSame.refl s.dev).foldl nums fun _ n h => h.takeEnd n
  refine ⟨takeEnds_end nums s.dev fun r hr ho => ?_, congrArg (· ++ nums) k.hub.ends⟩
  cases he : r.ended with
  | true => exact .inl rfl
  | false =>
    rw [← hopen]
    exact .inr (List.mem_map_of_mem (List.mem_filter.2 ⟨hr, by simp [ho, he]⟩))

/-! ### The obligation -/

/-- Settles O42: every command of Quadrille has the effect stated where its conditions hold, and none where they do not. -/
theorem quadrille : Obligations.Quadrille := by
  unfold Obligations.Quadrille
  intro s q ha
  refine ⟨fun h => exec_of_run ha rfl (if_pos ?_), qdlHello_up ha, fun h => exec_of_run ha rfl (qdlGone_of_off h), qdlPortDown_effect ha,
    fun wr a data n h => exec_of_run ha rfl (if_pos ?_), followerAccess_served ha, followerAccess_refused ha,
    fun e syn h => exec_of_run ha rfl (if_pos ?_), peerEvent_effect ha, fun t step missed h => exec_of_run ha rfl (if_pos ?_),
    timeMessage_effect ha, delayEcho_effect ha, fun delay h => exec_of_run ha rfl (if_neg ?_), fun x num h => exec_of_run ha rfl (if_pos ?_),
    takeEndReport_effect ha, fun h => exec_of_run ha rfl (if_pos ?_), orphanExpiry_effect ha⟩
  · simpa using h
  · simpa using h
  · simpa using h
  · simpa [or_assoc] using h
  · intro hall
    simp only [Bool.and_eq_true, Bool.not_eq_true'] at hall
    obtain ⟨⟨hf, hq⟩, hl⟩ := hall
    simp [hf, hq, hl] at h
  · rcases h with h | h | h | h
    · simp [h]
    · simp [h]
    · simp [h]
    · have hit : (s.dev.hub.takes.any fun r => r.num == num.toNat && !r.devs.isEmpty) = false := by simpa using h
      simp [hit]
  · simpa using h

end Sys2Proof.Machine
end

section
/-!
Lanes and roles: where they are kept, which lanes make which role (R222, R228), and what their owner leaves alone (R236, R239).
-/
set_option Elab.async false -- few threads: each takes a stack of its own
namespace Sys2Proof.Machine

variable {a b d : Dev} {u k r n : Nat}

/-! ### Lane sets -/

@[simp] theorem lns_updLns (d : Dev) (u : Nat) (g : Lanes → Lanes) : (d.updLns u g).lns u = g (d.lns u) := by
  unfold Dev.updLns Dev.lns
  split_ifs
  · rfl
  · rw [updPipe_pipe_same]

/-- A part of the lane sets that a change of one leaves alone in it is left alone in all. -/
theorem updLns_part {α : Type} (φ : Lanes → α) {g : Lanes → Lanes} (hg : ∀ x, φ (g x) = φ x) (d : Dev) (u n : Nat) :
    φ ((d.updLns u g).lns n) = φ (d.lns n) := by
  by_cases hu : u = 4
  · by_cases hn : n = 4
    · simp only [Dev.updLns, Dev.lns, hu, hn, if_true]
      exact hg _
    · simp only [Dev.updLns, Dev.lns, hu, hn, if_true, if_false]
      rfl
  · by_cases hn : n = 4
    · simp only [Dev.updLns, Dev.lns, hu, hn, if_true, if_false]
      rfl
    · simp only [Dev.updLns, Dev.lns, hu, hn, if_false]
      exact updPipe_part (fun s => φ s.lanes) (f := fun s => { s with lanes := g s.lanes }) (fun s => hg s.lanes) d u n

theorem updLns_regs (g : Lanes → Lanes) : (d.updLns u g).regs = d.regs := by
  unfold Dev.updLns
  split_ifs <;> rfl

theorem updLns_router (g : Lanes → Lanes) : (d.updLns u g).router = d.router := by
  unfold Dev.updLns
  split_ifs <;> rfl

theorem updLns_c (g : Lanes → Lanes) : (d.updLns u g).c = d.c := by
  unfold Dev.updLns
  split_ifs <;> rfl

theorem updLns_lost (g : Lanes → Lanes) : (d.updLns u g).hub.lost = d.hub.lost := by
  unfold Dev.updLns
  split_ifs <;> rfl

theorem raise_lns (d : Dev) (e syn n : Nat) : (d.raise e syn).lns n = d.lns n := by
  obtain ⟨m, hm⟩ := raise_hub d e syn
  simp only [Dev.lns, hm, raise_pipe]

theorem updLns_rd (g : Lanes → Lanes) (f : Fld) (p i j : Nat) : (d.updLns u g).rd f p i j = d.rd f p i j := by
  rw [Dev.rd, updLns_regs, Dev.rd]

@[simp] theorem putLane_rd (x : LaneSt) (f : Fld) (p i j : Nat) : (d.putLane u k x).rd f p i j = d.rd f p i j := updLns_rd ..

@[simp] theorem putRole_rd (x : Role) (f : Fld) (p i j : Nat) : (d.putRole u r x).rd f p i j = d.rd f p i j := updLns_rd ..

@[simp] theorem putLane_on (x : LaneSt) (f : Fld) (p i j : Nat) : (d.putLane u k x).on f p i j = d.on f p i j := on_of_rd (putLane_rd ..)

@[simp] theorem lane_putLane_same (x : LaneSt) : (d.putLane u k x).lane u k = x := by simp [Dev.lane, Dev.putLane]

theorem lane_putLane_ne (x : LaneSt) (h : n ≠ k) : (d.putLane u k x).lane u n = d.lane u n := by
  simp [Dev.lane, Dev.putLane, Tab.get_set_other _ _ _ h]

@[simp] theorem role_putRole_same (x : Role) : (d.putRole u r x).role u r = x := by simp [Dev.role, Dev.putRole]

theorem role_putRole_ne (x : Role) (h : n ≠ r) : (d.putRole u r x).role u n = d.role u n := by
  simp [Dev.role, Dev.putRole, Tab.get_set_other _ _ _ h]

@[simp] theorem lane_putRole {v : Nat} (x : Role) : (d.putRole u r x).lane v k = d.lane v k :=
  updLns_part (fun l => Tab.get ({} : LaneSt) l.lanes k) (g := fun l => { l with roles := Tab.set {} l.roles r x }) (fun _ => rfl) d u v

@[simp] theorem role_putLane {v : Nat} (x : LaneSt) : (d.putLane u k x).role v r = d.role v r :=
  updLns_part (fun l => Tab.get ({} : Role) l.roles r) (g := fun l => { l with lanes := Tab.set {} l.lanes k x }) (fun _ => rfl) d u v

theorem bad_putLane {v : Nat} (x : LaneSt) : ((d.putLane u k x).lns v).bad = (d.lns v).bad :=
  updLns_part (·.bad) (g := fun l => { l with lanes := Tab.set {} l.lanes k x }) (fun _ => rfl) d u v

theorem bad_putRole {v : Nat} (x : Role) : ((d.putRole u r x).lns v).bad = (d.lns v).bad :=
  updLns_part (·.bad) (g := fun l => { l with roles := Tab.set {} l.roles r x }) (fun _ => rfl) d u v

@[simp] theorem stage_putLane {v m : Nat} (x : LaneSt) : (d.putLane u k x).stage v m = d.stage v m := putLane_rd ..

theorem stage_setStage {v : Nat} (h : v < 16) : (d.setStage u k v).stage u k = v := rd_wr_of_lt (f := F.LANE_STAT_STAGE) h

/-! ### Which lanes make which role -/

/-- The registers that say which lanes make which role, and what clocks it. -/
def laneCfgRegs : List RegId := [.LANE_SCFG, .LANE_FCFG, .QDL_CTL, .SFE_DPHY_CFG]

/-- From `a` to `d` the roles are made of the same lanes. -/
def CfgSame (a d : Dev) : Prop := ∀ f p i j, f.reg ∈ laneCfgRegs → d.rd f p i j = a.rd f p i j

namespace CfgSame

theorem of_wr {f : Fld} {v p i j : Nat} (hf : f.reg ∉ laneCfgRegs := by decide) : CfgSame d (d.wr f v p i j) :=
  fun _ _ _ _ hg => rd_wr_of_reg fun e => hf (e ▸ hg)

variable (h : CfgSame a d)
include h

theorem trans (k : CfgSame d b) : CfgSame a b := fun f p i j hf => (k f p i j hf).trans (h f p i j hf)

theorem on (f : Fld) (p i j : Nat) (hf : f.reg ∈ laneCfgRegs) : d.on f p i j = a.on f p i j := on_of_rd (h f p i j hf)

theorem roleKind (u r : Nat) : d.roleKind u r = a.roleKind u r := by
  simp only [Dev.roleKind, h F.LANE_SCFG_SMODE u 0 0 (by decide), h F.LANE_FCFG_ROLE u (r - 1) 0 (by decide),
    h F.QDL_CTL_PORTEN 0 0 0 (by decide), h.on F.QDL_CTL_EN 0 0 0 (by decide)]

theorem dphyLanes (u : Nat) : d.dphyLanes u = a.dphyLanes u := by simp only [Dev.dphyLanes, h F.SFE_DPHY_CFG_NDL u 0 0 (by decide)]

theorem roleLanes (u r : Nat) : d.roleLanes u r = a.roleLanes u r := by
  simp only [Dev.roleLanes, h.roleKind, h.dphyLanes, h F.LANE_SCFG_SMASK u 0 0 (by decide)]

theorem slotOf (u k : Nat) : d.slotOf u k = a.slotOf u k := by simp only [Dev.slotOf, h.roleLanes]

theorem hasRx (u r : Nat) : d.hasRx u r = a.hasRx u r := by simp only [Dev.hasRx, h.roleKind]

theorem roleRef (u r : Nat) : d.roleRef u r = a.roleRef u r := by
  simp only [Dev.roleRef, h.roleKind, h F.LANE_FCFG_REFSEL u (r - 1) 0 (by decide)]

theorem refOk (hb : (d.lns u).bad = (a.lns u).bad) : d.refOk u r = a.refOk u r := by simp only [Dev.refOk, h.roleRef, hb]

end CfgSame

/-! ### Owners -/

/-- The fields that no owner of a role changes with its news: those of the lanes, and what makes a D-PHY's role or a Quadrille port. -/
def ownerField (f : Fld) : Bool := f.reg.info.blk == .LANE || f.reg == .SFE_DPHY_CFG || f.reg == .QDL_CTL

/-- From device `a` to device `d` nothing of the lanes has changed, and the events of roles that stood do. -/
structure OwnerSame (a d : Dev) : Prop where
  rd : ∀ f p i j, ownerField f = true → d.rd f p i j = a.rd f p i j
  lns : ∀ n, d.lns n = a.lns n
  lost : d.hub.lost = a.hub.lost
  raised : ∀ e syn, heldEvent e = true → Raised a e syn → Raised d e syn

theorem OwnerSame.refl (d : Dev) : OwnerSame d d := ⟨fun _ _ _ _ _ => rfl, fun _ => rfl, rfl, fun _ _ _ h => h⟩

theorem OwnerSame.trans (h : OwnerSame a d) (k : OwnerSame d b) : OwnerSame a b :=
  ⟨fun f p i j hf => (k.rd f p i j hf).trans (h.rd f p i j hf), fun n => (k.lns n).trans (h.lns n), k.lost.trans h.lost,
    fun e syn he hr => k.raised e syn he (h.raised e syn he hr)⟩

theorem heldField_of_owner {f : Fld} (h : ownerField f = true) : heldField f = true := by
  simp only [ownerField, Bool.or_eq_true, beq_iff_eq] at h
  rcases h with (h | h) | h
  · simp [heldField, h]
  · simp [heldField, h]
  · rw [heldField, h]
    rfl

theorem NewsSame.owner (h : NewsSame a d) : OwnerSame a d :=
  ⟨fun f p i j hf => h.rd f p i j (heldField_of_owner hf), fun n => by simp only [Dev.lns, h.hub.lanes, h.pipes], h.hub.lost, h.raised⟩

theorem ownerSame_wr {f : Fld} {v p i j : Nat} (hf : f.reg = .QDL_PEER) : OwnerSame d (d.wr f v p i j) := by
  refine ⟨fun g p i j hg => rd_wr_of_reg fun e => ?_, fun _ => rfl, rfl, fun _ _ _ h => h⟩
  rw [ownerField, e, hf] at hg
  exact absurd hg (by decide)

theorem ownerSame_qdlClosed (d : Dev) (q : Nat) : OwnerSame d (d.qdlClosed q) :=
  have h : OwnerSame d (d.wr F.QDL_PEER_STATE 1 0 q) := ownerSame_wr rfl
  ⟨h.rd, h.lns, h.lost, h.raised⟩

theorem ownerSame_qdlGone (d : Dev) (q : Nat) : OwnerSame d (d.qdlGone q) := by
  by_cases h : d.qdlState q < 2
  · rw [qdlGone_of_off h]
    exact .refl d
  · exact (ownerSame_qdlClosed d q).trans (newsSame_qdlGone (not_lt.1 h)).owner

/-- What the owner of a role does with any news but that of a sensor role's alignment. -/
theorem ownerSame_roleOwner {x : RoleNews} (hx : x ≠ .aligned ∨ u = 4 ∨ r ≠ 0) : OwnerSame d (roleOwner d u r x) := by
  unfold roleOwner
  split_ifs with hu hr
  · cases x with
    | ready =>
      unfold Dev.qdlReady
      split_ifs
      · exact ownerSame_wr rfl
      · exact .refl d
    | lost => exact ownerSame_qdlGone d r
    | aligned => exact .refl d
    | expired => exact .refl d
    | row _ => exact .refl d
  · cases x with
    | ready => exact (NewsSame.refl d).sfeReady u |>.owner
    | lost => exact (NewsSame.refl d).sfeLost u |>.owner
    | aligned => simp [hu, hr] at hx
    | expired => exact (NewsSame.refl d).sfeExpired u |>.owner
    | row bs => exact (NewsSame.refl d).linkRow u bs |>.owner
  · refine (NewsSame.foldl ?_ _ fun _ i h => .ite _ h.wr h).owner
    split
    · exact (NewsSame.refl d).ptpPortLost u _
    · exact .refl d

end Sys2Proof.Machine
end

section
/-!
What the moves of lanes and roles leave alone, and what each shows (R228, R229, R233 to R241).
-/
set_option Elab.async false -- few threads: each takes a stack of its own
namespace Sys2Proof.Machine

variable {a b d : Dev} {u k r n : Nat}

/-! ### Lanes -/

/-- The fields that show how far a lane has come. -/
def laneMoved (f : Fld) : Bool :=
  (f.reg == .LANE_STAT && [F.LANE_STAT_CDR, F.LANE_STAT_BLOCK, F.LANE_STAT_POLINV, F.LANE_STAT_STAGE, F.LANE_STAT_SKEW].any (·.lo == f.lo)) ||
    (f.reg == .LANE_CTLE && f.lo == F.LANE_CTLE_NOW.lo)

/-- From device `a` to device `d` lanes have moved, and nothing else of a role. -/
structure LaneMove (a d : Dev) : Prop where
  rd : ∀ f p i j, laneMoved f = false → d.rd f p i j = a.rd f p i j
  role : ∀ v n, d.role v n = a.role v n
  bad : ∀ v, (d.lns v).bad = (a.lns v).bad
  lost : d.hub.lost = a.hub.lost
  router : d.router = a.router
  c : d.c = a.c

namespace LaneMove

theorem refl (d : Dev) : LaneMove d d := ⟨fun _ _ _ _ _ => rfl, fun _ _ => rfl, fun _ => rfl, rfl, rfl, rfl⟩

theorem trans (h : LaneMove a d) (k : LaneMove d b) : LaneMove a b :=
  ⟨fun f p i j hf => (k.rd f p i j hf).trans (h.rd f p i j hf), fun v n => (k.role v n).trans (h.role v n), fun v => (k.bad v).trans (h.bad v),
    k.lost.trans h.lost, k.router.trans h.router, k.c.trans h.c⟩

theorem wr (h : LaneMove a d) {f : Fld} {v p i j : Nat} (hf : laneMoved f = true := by decide) : LaneMove a (d.wr f v p i j) :=
  h.trans ⟨fun g _ _ _ hg => rd_wr_of_sorts (q := laneMoved) (fun f g hr hl => by simp only [laneMoved, hr, hl]) (by rw [hf, hg]; decide),
    fun _ _ => rfl, fun _ => rfl, rfl, rfl, rfl⟩

theorem putLane (h : LaneMove a d) (u k : Nat) (x : LaneSt) : LaneMove a (d.putLane u k x) :=
  h.trans ⟨fun _ _ _ _ _ => putLane_rd .., fun _ _ => role_putLane x, fun _ => bad_putLane x, updLns_lost _, updLns_router _, updLns_c _⟩

theorem setStage (h : LaneMove a d) (u k v : Nat) : LaneMove a (d.setStage u k v) := h.wr

theorem ite (q : Prop) [Decidable q] {c : Dev} (h : LaneMove a b) (k : LaneMove a c) : LaneMove a (if q then b else c) := by
  split_ifs
  · exact h
  · exact k

theorem foldl {α : Type} {g : Dev → α → Dev} (h : LaneMove a d) (l : List α) (hg : ∀ d x, LaneMove a d → LaneMove a (g d x)) :
    LaneMove a (l.foldl g d) := foldl_keeps l (fun d x _ => hg d x) h

theorem laneRestart (h : LaneMove a d) (u k : Nat) : LaneMove a (d.laneRestart u k) :=
  .ite _ h ((h.wr.wr.wr.wr.wr.setStage u k _).putLane u k _)

theorem laneRestarts (h : LaneMove a d) (u : Nat) (ks : List Nat) : LaneMove a (ks.foldl (fun d k => d.laneRestart u k) d) :=
  h.foldl ks fun _ k h => h.laneRestart u k

theorem cfg (h : LaneMove a d) : CfgSame a d := fun f p i j hf => h.rd f p i j (by
  simp only [laneCfgRegs, List.mem_cons, List.not_mem_nil, or_false] at hf
  rcases hf with e | e | e | e <;> rw [laneMoved, e] <;> rfl)

theorem roleState (h : LaneMove a d) (u r : Nat) : d.roleState u r = a.roleState u r := h.rd _ _ _ _ rfl

theorem fcause (h : LaneMove a d) (u r : Nat) : d.rd F.LANE_ROLE_STAT_FCAUSE u r = a.rd F.LANE_ROLE_STAT_FCAUSE u r := h.rd _ _ _ _ rfl

theorem raised (h : LaneMove a d) {e syn : Nat} (hr : Raised a e syn) : Raised d e syn := by rwa [Raised, h.router]

end LaneMove

/-! ### Roles -/

/-- The fields in which a role shows its moves. -/
def roleMoved (f : Fld) : Bool := laneMoved f || [RegId.LANE_ROLE_STAT, .LANE_DOWN_CNT_LO, .LANE_DOWN_CNT_HI].any (· == f.reg)

/-- The events of reference inputs (R221). -/
def refEvent (e : Nat) : Bool := e == 533 || (decide (640 ≤ e) && (e - 640) % 96 == 32)

theorem refEvent_pipe (p : Nat) {m : Nat} (hm : m < 96 ∧ m ≠ 32) : refEvent (pipeEvent p m) = false := by
  obtain ⟨h', h⟩ := pipeEvent_kind p hm.1
  simp only [refEvent, h, Bool.or_eq_false_iff, Bool.and_eq_false_iff, decide_eq_false_iff_not, beq_eq_false_iff_ne]
  omega

theorem heldEvent_of_ref {e : Nat} (h : refEvent e = true) : heldEvent e = true := by
  simp only [refEvent, Bool.or_eq_true, Bool.and_eq_true, beq_iff_eq, decide_eq_true_eq] at h
  simp only [heldEvent, Bool.or_eq_true, Bool.and_eq_true, decide_eq_true_eq]
  omega

/-- From device `a` to device `d` role `r` of `u` has moved with its lanes and its owner: the other roles, the reference inputs and what makes
the roles stand. -/
structure RoleMove (u r : Nat) (a d : Dev) : Prop where
  rd : ∀ f p i j, ownerField f = true → roleMoved f = false → d.rd f p i j = a.rd f p i j
  stat : ∀ f n, f.reg = .LANE_ROLE_STAT → n ≠ r → d.rd f u n = a.rd f u n
  role : ∀ n, n ≠ r → d.role u n = a.role u n
  bad : (d.lns u).bad = (a.lns u).bad
  lost : d.hub.lost = a.hub.lost
  raised : ∀ e syn, refEvent e = true → Raised a e syn → Raised d e syn

namespace RoleMove

theorem refl (u r : Nat) (d : Dev) : RoleMove u r d d := ⟨fun _ _ _ _ _ _ => rfl, fun _ _ _ _ => rfl, fun _ _ => rfl, rfl, rfl, fun _ _ _ h => h⟩

theorem trans (h : RoleMove u r a d) (k : RoleMove u r d b) : RoleMove u r a b :=
  ⟨fun f p i j hf hm => (k.rd f p i j hf hm).trans (h.rd f p i j hf hm), fun f n hf hn => (k.stat f n hf hn).trans (h.stat f n hf hn),
    fun n hn => (k.role n hn).trans (h.role n hn), k.bad.trans h.bad, k.lost.trans h.lost,
    fun e syn he hr => k.raised e syn he (h.raised e syn he hr)⟩

theorem ite (q : Prop) [Decidable q] {c : Dev} (h : RoleMove u r a b) (k : RoleMove u r a c) : RoleMove u r a (if q then b else c) := by
  split_ifs
  · exact h
  · exact k

theorem lanes (h : RoleMove u r a d) (k : LaneMove d b) : RoleMove u r a b :=
  h.trans ⟨fun f p i j _ hm => k.rd f p i j (Bool.or_eq_false_iff.1 hm).1, fun f n hf _ => k.rd f u n 0 (by rw [laneMoved, hf]; rfl),
    fun n _ => k.role u n, k.bad u, k.lost, fun _ _ _ hr => k.raised hr⟩

theorem owner (h : RoleMove u r a d) (k : OwnerSame d b) : RoleMove u r a b :=
  h.trans ⟨fun f p i j hf _ => k.rd f p i j hf, fun f n hf _ => k.rd f u n 0 (by rw [ownerField, hf]; rfl),
    fun n _ => by rw [Dev.role, k.lns, Dev.role], by rw [k.lns], k.lost, fun e syn he hr => k.raised e syn (heldEvent_of_ref he) hr⟩

theorem putRole (h : RoleMove u r a d) (x : Role) : RoleMove u r a (d.putRole u r x) :=
  h.trans ⟨fun _ _ _ _ _ _ => putRole_rd .., fun _ _ _ _ => putRole_rd .., fun n hn => role_putRole_ne x hn, bad_putRole x, updLns_lost _,
    fun _ _ _ hr => by rwa [Raised, Dev.putRole, updLns_router]⟩

/-- The role's own state, cause or lane order is shown. -/
theorem wr (h : RoleMove u r a d) {f : Fld} {v : Nat} (hf : f.reg = .LANE_ROLE_STAT := by rfl) : RoleMove u r a (d.wr f v u r) := by
  have hmoved : roleMoved f = true := by simp [roleMoved, hf]
  refine h.trans ⟨fun g _ _ _ _ hg => ?_, fun _ _ _ hn => Dev.rd_wr_i _ _ _ _ _ _ _ _ _ _ hn, fun _ _ => rfl, rfl, rfl, fun _ _ _ hr => hr⟩
  exact rd_wr_of_sorts (q := roleMoved) (fun f g hr hl => by simp only [roleMoved, laneMoved, hr, hl]) (by rw [hmoved, hg]; decide)

theorem bumpDown (h : RoleMove u r a d) (k : Nat) : RoleMove u r a (d.bump C.LANE_DOWN_CNT u k) := by
  obtain ⟨g, hg⟩ := bumpBy_parts d 1 C.LANE_DOWN_CNT u k 0
  have hrd : ∀ {f p i j}, (∀ g ∈ [C.LANE_DOWN_CNT.lo, C.LANE_DOWN_CNT.hi, C.LANE_DOWN_CNT.sat], f.reg ≠ g.reg) →
      (d.bump C.LANE_DOWN_CNT u k).rd f p i j = d.rd f p i j := fun hf => bumpBy_rd hf
  have parts : d.bump C.LANE_DOWN_CNT u k = { d with regs := g } := hg
  refine h.trans ⟨fun f p i j _ hm => hrd ?_, fun f n hf _ => hrd ?_, ?_, ?_, ?_, ?_⟩
  · simp only [roleMoved, List.any_cons, List.any_nil, Bool.or_eq_false_iff, beq_eq_false_iff_ne] at hm
    obtain ⟨-, -, hlo, hhi, -⟩ := hm
    simpa [C.LANE_DOWN_CNT, F.LANE_DOWN_CNT_LO_CNT_LO, F.LANE_DOWN_CNT_HI_CNT_HI, F.LANE_DOWN_CNT_HI_SAT] using ⟨Ne.symm hlo, Ne.symm hhi⟩
  · rw [hf]
    decide
  all_goals rw [parts]
  · exact fun _ _ => rfl
  · rfl
  · exact fun _ _ _ hr => hr

theorem raise (h : RoleMove u r a d) {e : Nat} (syn : Nat) (he : refEvent e = false) : RoleMove u r a (d.raise e syn) := by
  have hrd : ∀ {f p i j}, ownerField f = true → (d.raise e syn).rd f p i j = d.rd f p i j := fun hf =>
    raise_rd_of_ovf e syn (heldField_ovf (heldField_of_owner hf))
  refine h.trans ⟨fun _ _ _ _ hf _ => hrd hf, fun f n hf _ => hrd (by rw [ownerField, hf]; rfl), fun n _ => by rw [Dev.role, raise_lns, Dev.role],
    by rw [raise_lns], raise_lost d e syn, fun e' syn' he' hr => hr.raise ?_ syn⟩
  rintro rfl
  simp [he] at he'

theorem roleEvent (h : RoleMove u r a d) (e : Nat) (he : e < 3) : RoleMove u r a (d.roleEvent u r e) :=
  .ite _ (h.raise _ (by
    simp only [refEvent, Bool.or_eq_false_iff, Bool.and_eq_false_iff, decide_eq_false_iff_not, beq_eq_false_iff_ne]
    omega)) (h.raise _ (refEvent_pipe u (by omega)))

/-- The owner of a sensor role that is told of its alignment notes it in the role. -/
theorem own (h : RoleMove u r a d) (x : RoleNews) : RoleMove u r a (roleOwner d u r x) := by
  by_cases hx : x ≠ .aligned ∨ u = 4 ∨ r ≠ 0
  · exact h.owner (ownerSame_roleOwner hx)
  · simp only [ne_eq, not_or, not_not] at hx
    obtain ⟨rfl, hu, rfl⟩ := hx
    have e : roleOwner d u 0 .aligned = d.sfeAligned u := by simp [roleOwner, hu]
    rw [e, Dev.sfeAligned]
    exact .ite _ (h.owner ((NewsSame.refl d).idBegin u).owner) (h.putRole _)

theorem showRole (h : RoleMove u r a d) (v : Nat) : RoleMove u r a (d.showRole u r v) := h.wr

theorem showLost (h : RoleMove u r a d) : RoleMove u r a (d.showLost u r) := h.wr

theorem attemptStart (h : RoleMove u r a d) : RoleMove u r a (d.attemptStart u r) := by
  unfold Dev.attemptStart
  extract_lets x d₁ d₂
  have h₁ : RoleMove u r a d₁ := (h.putRole _).wr
  have h₂ : RoleMove u r a d₂ := h₁.lanes ((LaneMove.refl d₁).foldl _ fun _ k h =>
    .ite _ ((h.laneRestart u k).setStage u k 2) (h.laneRestart u k))
  exact .ite _ h (.ite _ h₂.showLost (h₂.showRole 2))

theorem firstAttempt (h : RoleMove u r a d) : RoleMove u r a (d.firstAttempt u r) := .ite _ h.attemptStart h

theorem attemptFail (h : RoleMove u r a d) (cause : Nat) : RoleMove u r a (d.attemptFail u r cause) :=
  .ite _ (showLost (.ite _ (h.wr.putRole _) (h.wr.putRole _))) h

theorem attemptCut (h : RoleMove u r a d) (cause : Nat) : RoleMove u r a (d.attemptCut u r cause) :=
  .ite _ (h.putRole _).showLost (h.attemptFail cause)

theorem roleLoss (h : RoleMove u r a d) (k cause : Nat) : RoleMove u r a (d.roleLoss roleOwner u r k cause) := by
  unfold Dev.roleLoss
  extract_lets d₁ d₂ d₃
  have h₁ : RoleMove u r a d₁ := h.wr.lanes ((LaneMove.refl _).laneRestarts u _)
  have h₃ : RoleMove u r a d₃ := ((h₁.wr.putRole _).showRole 5).bumpDown k
  exact .ite _ (h₁.attemptCut cause) ((h₃.roleEvent 1 (by decide)).own .lost)

theorem laneCause (h : RoleMove u r a d) (k cause : Nat) : RoleMove u r a (d.laneCause roleOwner u r k cause) :=
  .ite _ (h.roleLoss k cause) (.ite _ (h.attemptCut cause) h)

theorem roleRetrain (h : RoleMove u r a d) : RoleMove u r a (d.roleRetrain roleOwner u r) :=
  .ite _ (h.roleLoss _ 13) (.ite _ (h.attemptCut 13).attemptStart h)

theorem roleAlign (h : RoleMove u r a d) : RoleMove u r a (d.roleAlign roleOwner u r) := by
  unfold Dev.roleAlign
  extract_lets ks lids ports distinct
  refine .ite _ h (.ite _ (h.attemptFail 6) ?_)
  split
  · exact h.attemptFail 9
  · next e _ =>
    extract_lets d₁ x d₂ d₃
    have h₁ : RoleMove u r a d₁ := h.lanes ((LaneMove.refl d).foldl _ fun _ k h => h.wr.setStage u k 7)
    have h₂ : RoleMove u r a d₂ := h₁.putRole _
    have h₃ : RoleMove u r a d₃ := .ite _ h₂ (h₂.showRole 3)
    exact h₃.wr.own .aligned

theorem cfg (h : RoleMove u r a d) : CfgSame a d := fun f p i j hf => by
  simp only [laneCfgRegs, List.mem_cons, List.not_mem_nil, or_false] at hf
  refine h.rd f p i j ?_ ?_
  · rcases hf with e | e | e | e <;> rw [ownerField, e] <;> rfl
  · rcases hf with e | e | e | e <;> rw [roleMoved, laneMoved, e] <;> rfl

end RoleMove

/-! ### What the moves show -/

@[simp] theorem role_wr {f : Fld} {v p i j : Nat} : (d.wr f v p i j).role u r = d.role u r := rfl

@[simp] theorem role_showRole {v : Nat} : (d.showRole u r v).role u r = d.role u r := rfl

@[simp] theorem role_showLost : (d.showLost u r).role u r = d.role u r := rfl

theorem roleState_showRole {v : Nat} (h : v < 8) : (d.showRole u r v).roleState u r = v := rd_wr_of_lt (f := F.LANE_ROLE_STAT_STATE) h

theorem roleState_showLost : (d.showLost u r).roleState u r = if (d.role u r).down then 6 else 5 := by
  refine roleState_showRole ?_
  split_ifs <;> decide

theorem fcause_showRole {v : Nat} : (d.showRole u r v).rd F.LANE_ROLE_STAT_FCAUSE u r = d.rd F.LANE_ROLE_STAT_FCAUSE u r := rd_wr_of_lo (by decide)

theorem fcause_wr {cause : Nat} (h : cause < 16) : (d.wr F.LANE_ROLE_STAT_FCAUSE cause u r).rd F.LANE_ROLE_STAT_FCAUSE u r = cause := rd_wr_of_lt h

/-- A running attempt that fails has ended, and FCAUSE holds the cause. -/
theorem attemptFail_ends {cause : Nat} (h : (d.role u r).attempt = true) (hc : cause < 16) :
    ((d.attemptFail u r cause).role u r).attempt = false ∧ (d.attemptFail u r cause).rd F.LANE_ROLE_STAT_FCAUSE u r = cause := by
  have hf : ∀ x : Role, ((d.wr F.LANE_ROLE_STAT_FCAUSE cause u r).putRole u r x).rd F.LANE_ROLE_STAT_FCAUSE u r = cause := fun x =>
    (putRole_rd ..).trans (fcause_wr hc)
  simp only [Dev.attemptFail, h, if_true]
  split_ifs
  · exact ⟨by simp [Role.fresh], fcause_showRole.trans (hf _)⟩
  · exact ⟨by simp [Dev.armRetry], fcause_showRole.trans (hf _)⟩

/-- What a failed attempt leaves of a role that was lost before. -/
theorem attemptFail_role {cause : Nat} (h : (d.role u r).attempt = true) (he : (d.role u r).episode = true) :
    (d.attemptFail u r cause).role u r = (d.role u r).fresh false := by simp [Dev.attemptFail, h, he]

/-- The role as the start of an attempt leaves it. -/
def Dev.roleStarted (d : Dev) (u r : Nat) : Role :=
  if (d.role u r).episode then (d.role u r).fresh true
  else { (d.role u r).fresh true with first := d.c, int := d.retryInt u, timer := d.retryTimer u }

/-- An attempt starts in TRAIN, or in the state a lost role shows. -/
theorem attemptStart_effect (h : d.refOk u r = true) : (d.attemptStart u r).role u r = d.roleStarted u r ∧
    (d.attemptStart u r).roleState u r = if (d.role u r).episode then (if (d.role u r).down then 6 else 5) else 2 := by
  unfold Dev.attemptStart
  extract_lets x d₁ d₂
  have h₂ : LaneMove d₁ d₂ := (LaneMove.refl d₁).foldl _ fun _ k h => .ite _ ((h.laneRestart u k).setStage u k 2) (h.laneRestart u k)
  have hrole : d₂.role u r = d.roleStarted u r := (h₂.role u r).trans (by simp only [d₁, role_wr, role_putRole_same]; rfl)
  rw [h, if_neg (by decide)]
  have hx : x.episode = (d.role u r).episode := rfl
  rw [hx]
  split_ifs with he hd
  · exact ⟨hrole, by rw [roleState_showLost, hrole, Dev.roleStarted, if_pos he]; exact if_pos hd⟩
  · exact ⟨hrole, by rw [roleState_showLost, hrole, Dev.roleStarted, if_pos he]; exact if_neg hd⟩
  · exact ⟨hrole, roleState_showRole (by decide)⟩

/-- A role's event stands with the cause it shows. -/
theorem raised_roleEvent (hl : d.hub.lost = false) (e : Nat) :
    Raised (d.roleEvent u r e) (if u = 4 then 530 + e else pipeEvent u (29 + e)) (d.rd F.LANE_ROLE_STAT_FCAUSE u r * 2 ^ 25 + r) := by
  unfold Dev.roleEvent
  dsimp only
  split_ifs
  · exact raised_of_raise hl _ _
  · exact raised_of_raise hl _ _

theorem heldEvent_role {e : Nat} (he : e < 3) : heldEvent (if u = 4 then 530 + e else pipeEvent u (29 + e)) = true := by
  split_ifs
  · simp only [heldEvent, Bool.or_eq_true, Bool.and_eq_true, decide_eq_true_eq]
    omega
  · obtain ⟨h', h⟩ := pipeEvent_kind u (k := 29 + e) (by omega)
    simp only [heldEvent, h, Bool.or_eq_true, Bool.and_eq_true, decide_eq_true_eq]
    omega

/-- An event of a role changes no role and no field of one. -/
theorem roleEvent_same (d : Dev) (u r e : Nat) : (∀ v n, (d.roleEvent u r e).role v n = d.role v n) ∧
    ∀ f p i j, ownerField f = true → (d.roleEvent u r e).rd f p i j = d.rd f p i j := by
  have raised : ∀ e syn, (∀ v n, (d.raise e syn).role v n = d.role v n) ∧
      ∀ f p i j, ownerField f = true → (d.raise e syn).rd f p i j = d.rd f p i j := fun e syn =>
    ⟨fun v n => by rw [Dev.role, raise_lns, Dev.role], fun f p i j hf => raise_rd_of_ovf e syn (heldField_ovf (heldField_of_owner hf))⟩
  unfold Dev.roleEvent
  dsimp only
  split_ifs <;> exact raised _ _

theorem OwnerSame.role (h : OwnerSame a d) (u r : Nat) : d.role u r = a.role u r := by rw [Dev.role, h.lns, Dev.role]

/-- What is shown once a role's event has been raised and its owner told. -/
theorem told_shows {e : Nat} (he : e < 3) {x : RoleNews} (hx : x ≠ .aligned) :
    (roleOwner (d.roleEvent u r e) u r x).role u r = d.role u r ∧ (roleOwner (d.roleEvent u r e) u r x).roleState u r = d.roleState u r ∧
      (roleOwner (d.roleEvent u r e) u r x).rd F.LANE_ROLE_STAT_FCAUSE u r = d.rd F.LANE_ROLE_STAT_FCAUSE u r ∧
      (d.hub.lost = false → Raised (roleOwner (d.roleEvent u r e) u r x) (if u = 4 then 530 + e else pipeEvent u (29 + e))
        (d.rd F.LANE_ROLE_STAT_FCAUSE u r * 2 ^ 25 + r)) := by
  have k := ownerSame_roleOwner (d := d.roleEvent u r e) (u := u) (r := r) (.inl hx)
  obtain ⟨hrole, hrd⟩ := roleEvent_same d u r e
  exact ⟨(k.role u r).trans (hrole u r), (k.rd _ _ _ _ rfl).trans (hrd _ _ _ _ rfl), (k.rd _ _ _ _ rfl).trans (hrd _ _ _ _ rfl),
    fun hl => k.raised _ _ (heldEvent_role he) (raised_roleEvent hl e)⟩

/-- A role that was not lost before is lost with its cause (R236, R237). -/
theorem roleLoss_lostBy {cause : Nat} (he : (d.role u r).episode = false) (hc : cause < 16) (hl : d.hub.lost = a.hub.lost) (k : Nat) :
    a.roleLostBy (d.roleLoss roleOwner u r k cause) u r cause := by
  unfold Dev.roleLoss
  extract_lets d₁ d₂ d₃
  have h₁ : LaneMove (d.wr F.LANE_ROLE_STAT_ORDER 0 u r) d₁ := (LaneMove.refl _).laneRestarts u _
  have he₁ : (d₁.role u r).episode = false := by rw [h₁.role]; exact he
  rw [he₁, if_neg (by decide)]
  have hcause₂ : d₂.rd F.LANE_ROLE_STAT_FCAUSE u r = cause := (putRole_rd ..).trans (fcause_wr hc)
  have hdown : ∀ f : Fld, f.reg = .LANE_ROLE_STAT → d₃.rd f u r = (d₂.showRole u r 5).rd f u r := fun f hf => bumpBy_rd (by rw [hf]; decide)
  obtain ⟨g, hg⟩ := bumpBy_parts (d₂.showRole u r 5) 1 C.LANE_DOWN_CNT u k 0
  have h₃ : d₃ = { d₂.showRole u r 5 with regs := g } := hg
  have hcause₃ : d₃.rd F.LANE_ROLE_STAT_FCAUSE u r = cause := (hdown _ rfl).trans (fcause_showRole.trans hcause₂)
  have hrole₃ : (d₃.role u r).episode = true := by
    have e : d₃.role u r = d₂.role u r := by rw [h₃]; rfl
    rw [e]
    simp [d₂, Dev.armRetry]
  have hlost₃ : d₃.hub.lost = d.hub.lost := by
    rw [h₃]
    exact (updLns_lost (d := d₁.wr F.LANE_ROLE_STAT_FCAUSE cause u r) (u := u) _).trans h₁.lost
  obtain ⟨hrole, hstate, hfcause, hraised⟩ := told_shows (d := d₃) (u := u) (r := r) (e := 1) (by decide) (x := .lost) nofun
  refine ⟨hstate.trans ((hdown _ rfl).trans (roleState_showRole (by decide))), hfcause.trans hcause₃, by rw [hrole, hrole₃], fun h => ?_⟩
  rw [← hcause₃]
  exact hraised (hlost₃.trans (hl.trans h))

/-- A role that has been lost comes to READY: its state and LANE_UP, with the cause of its last loss (R233, R234, R249). -/
theorem roleReady_shows (d : Dev) (u r : Nat) : (d.roleReady roleOwner u r).roleState u r = 4 ∧
    (d.hub.lost = false → Raised (d.roleReady roleOwner u r) (if u = 4 then 530 else pipeEvent u 29)
      (d.rd F.LANE_ROLE_STAT_FCAUSE u r * 2 ^ 25 + r)) := by
  unfold Dev.roleReady
  extract_lets d₁ d₂
  have h₂ : LaneMove d₁ d₂ := (LaneMove.refl d₁).foldl _ fun _ k h => (h.setStage u k 8).putLane u k _
  have hlost : d₁.hub.lost = d.hub.lost := updLns_lost (d := d) (u := u) _
  have hcause : d₂.rd F.LANE_ROLE_STAT_FCAUSE u r = d.rd F.LANE_ROLE_STAT_FCAUSE u r :=
    (h₂.fcause u r).trans (fcause_showRole.trans (putRole_rd ..))
  obtain ⟨-, hstate, -, hraised⟩ := told_shows (d := d₂) (u := u) (r := r) (e := 0) (by decide) (x := .ready) nofun
  refine ⟨hstate.trans ((h₂.roleState u r).trans (roleState_showRole (by decide))), fun h => ?_⟩
  rw [← hcause]
  exact hraised (h₂.lost.trans (hlost.trans h))

end Sys2Proof.Machine
end

section
/-!
A lane's way through the stages of an attempt (R229 to R235, R238, R243, R261).
-/
set_option Elab.async false -- few threads: each takes a stack of its own
namespace Sys2Proof.Machine

variable {a d : Dev} {s : State} {u k r : Nat}

/-! ### Signal, clock, CTLE code and block lock (R229, R235, R243) -/

theorem laneSignal_shows (d : Dev) (u k : Nat) : (d.laneSignal u k).on F.LANE_STAT_SIG u k = true := by
  have h : (d.wr F.LANE_STAT_SIG 1 u k).on F.LANE_STAT_SIG u k = true := on_wrb (b := true) rfl
  unfold Dev.laneSignal
  dsimp only
  split
  · split_ifs
    · exact (on_of_rd (rd_wr_of_lo (by decide))).trans h
    · exact h
    · exact (on_of_rd ((RoleMove.refl u _ _).firstAttempt.rd _ _ _ _ rfl rfl)).trans h
  · exact h

theorem laneSignal_stage (hs : d.slotOf u k = some r) (ha : (d.role u r).attempt = true) (h1 : d.stage u k = 1) (hr : d.hasRx u r = true)
    (h2 : d.roleKind u r ≠ 2) : (d.laneSignal u k).stage u k = 2 := by
  have c : CfgSame d (d.wr F.LANE_STAT_SIG 1 u k) := .of_wr
  have hstage : (d.wr F.LANE_STAT_SIG 1 u k).stage u k = 1 := (rd_wr_of_lo (by decide)).trans h1
  have e : d.laneSignal u k = (d.wr F.LANE_STAT_SIG 1 u k).setStage u k 2 := by
    simp [Dev.laneSignal, c.slotOf, hs, ha, hstage, c.hasRx, hr, c.roleKind, h2]
  rw [e]
  exact stage_setStage (by decide)

theorem laneCdr_shows (hi : d.inStage u k 2 = some r) (h5 : d.roleKind u r ≠ 5) :
    (d.laneCdr u k).on F.LANE_STAT_CDR u k = true ∧ (d.laneCdr u k).stage u k = 3 := by
  have e : d.laneCdr u k = (d.wr F.LANE_STAT_CDR 1 u k).setStage u k 3 := by simp [Dev.laneCdr, hi, Dev.hasRx, h5]
  rw [e]
  exact ⟨(on_of_rd (rd_wr_of_lo (by decide))).trans (on_wrb (b := true) rfl), stage_setStage (by decide)⟩

theorem laneCtle_shows (hi : d.inStage u k 3 = some r) {code : Nat} (hc : code < 32) :
    (d.laneCtle u k code).rd F.LANE_CTLE_NOW u k = (if d.on F.LANE_CTLE_ADAPT u k then code else d.rd F.LANE_CTLE_MAN u k % 32) ∧
      (d.laneCtle u k code).stage u k = 4 := by
  have e : d.laneCtle u k code =
      (d.wr F.LANE_CTLE_NOW (if d.on F.LANE_CTLE_ADAPT u k then code else d.rd F.LANE_CTLE_MAN u k) u k).setStage u k 4 := by
    simp only [Dev.laneCtle, hi]
  rw [e]
  refine ⟨(rd_wr_of_reg (by decide)).trans ((Dev.rd_wr ..).trans ?_), stage_setStage (by decide)⟩
  split_ifs
  · exact Nat.mod_eq_of_lt hc
  · rfl

theorem laneBlock_shows (hi : d.inStage u k 4 = some r) : (d.laneBlock u k).on F.LANE_STAT_BLOCK u k = true ∧
    (d.laneBlock u k).stage u k = (if d.roleKind u r = 3 then 4 else 5) ∧ (d.laneBlock u k).lane u k = {} := by
  have e : d.laneBlock u k = ((d.wr F.LANE_STAT_BLOCK 1 u k).setStage u k (if d.roleKind u r = 3 then 4 else 5)).putLane u k {} := by
    simp only [Dev.laneBlock, hi]
  rw [e]
  refine ⟨(putLane_on ..).trans ((on_of_rd (rd_wr_of_lo (by decide))).trans (on_wrb (b := true) rfl)), ?_, lane_putLane_same _⟩
  rw [stage_putLane, stage_setStage]
  split_ifs <;> decide

/-! ### The bounds of the stages (R229, R230) -/

theorem stageCause_lt (d : Dev) (u r k : Nat) : d.stageCause u r k < 16 := by
  unfold Dev.stageCause
  split
  case h_5 => split_ifs <;> decide
  all_goals decide

/-- The bound of a stage from clock recovery to SKEW ends the attempt with the stage's cause. -/
theorem laneBound_fails (hs : d.slotOf u k = some r) (ha : (d.role u r).attempt = true) (h2 : 2 ≤ d.stage u k) (h6 : d.stage u k ≤ 6)
    (hb : d.stage u k = 4 → d.on F.LANE_STAT_BLOCK u k = false) :
    ((d.laneBound u k).role u r).attempt = false ∧ (d.laneBound u k).rd F.LANE_ROLE_STAT_FCAUSE u r = d.stageCause u r k := by
  have hblock : (d.stage u k == 4 && d.on F.LANE_STAT_BLOCK u k) = false := by
    by_cases h4 : d.stage u k = 4
    · simp [hb h4]
    · simp [h4]
  have e : d.laneBound u k = d.attemptFail u r (d.stageCause u r k) := by simp [Dev.laneBound, hs, ha, h2, h6, hblock]
  rw [e]
  exact attemptFail_ends ha (stageCause_lt d u r k)

theorem laneBound_none (h : d.slotOf u k = none ∨ d.stage u k ≤ 1 ∨ 7 ≤ d.stage u k) : d.laneBound u k = d := by
  unfold Dev.laneBound
  split
  · rfl
  · next r hs =>
    refine if_neg fun hin => ?_
    obtain ⟨-, h2, h6, -⟩ := hin
    rcases h with h | h | h
    · exact absurd (hs.symm.trans h) nofun
    · omega
    · omega

/-! ### Training blocks (R230 to R233) -/

theorem laneRx_none {raw : BitVec 66} {slot : Nat}
    (h : d.slotOf u k = none ∨ ∃ r, d.slotOf u k = some r ∧ (d.roleKind u r = 2 ∨ d.roleKind u r = 5)) :
    d.laneRx roleOwner u k raw slot = d := by
  rcases h with hs | ⟨r, hs, hk⟩
  · simp [Dev.laneRx, hs]
  · simp [Dev.laneRx, hs, hk]

section

variable {raw : BitVec 66} {b : TrainBlock} {slot : Nat} (hs : d.slotOf u k = some r) (hk : d.roleKind u r = 1 ∨ d.roleKind u r = 6)
include hs hk

/-- A good training block is taken as one. -/
theorem laneRx_train (ht : trainOf (d.laneBlk u k raw) = some b) (hc : b.crcOk = true) :
    d.laneRx roleOwner u k raw slot = d.laneTrain roleOwner u r k b slot := by
  have hr : ¬ (d.roleKind u r = 2 ∨ d.roleKind u r = 5) := by omega
  simp [Dev.laneRx, hs, hr, ht, hc, hk, Option.filter]

/-- A good training block of the other polarity is counted against the lane's. -/
theorem laneRx_inverted (ha : (d.role u r).attempt = true) (h5 : d.stage u k = 5) (hp : (d.lane u k).settled = false)
    (ht : trainOf (blkInv (d.laneBlk u k raw)) = some b) (hc : b.crcOk = true) : d.laneRx roleOwner u k raw slot = d.laneInvert u k := by
  have hr : ¬ (d.roleKind u r = 2 ∨ d.roleKind u r = 5) := by omega
  have hnone : trainOf (d.laneBlk u k raw) = none := by
    have hhdr : (blkInv (d.laneBlk u k raw)).hdr = 2 := by
      unfold trainOf at ht
      split_ifs at ht with h
      exact h.1
    have h3 : 3 - (d.laneBlk u k raw).hdr = 2 := hhdr
    exact if_neg fun h => by omega
  simp [Dev.laneRx, hs, hr, hnone, ht, hc, hk, ha, h5, hp, Option.filter]

end

/-- Any other block is data. -/
theorem laneRx_data {raw : BitVec 66} {slot : Nat} (hs : d.slotOf u k = some r) (hk : ¬ (d.roleKind u r = 2 ∨ d.roleKind u r = 5))
    (ht : trainOf (d.laneBlk u k raw) = none) (hi : d.stage u k = 5 → trainOf (blkInv (d.laneBlk u k raw)) = none) :
    d.laneRx roleOwner u k raw slot = d.laneData roleOwner u r k (d.laneBlk u k raw) := by
  by_cases h5 : d.stage u k = 5
  · simp [Dev.laneRx, hs, hk, ht, hi h5]
  · simp [Dev.laneRx, hs, hk, ht, h5]

theorem trainOf_none {b : RxBlock} (h2 : blkByte b 0 ≠ 0xD2) (h3 : blkByte b 0 ≠ 0xD3) : trainOf b = none := if_neg fun h => h.2.elim h2 h3

theorem showTrain_shows (d : Dev) (u k : Nat) (b : TrainBlock) : (d.showTrain u k b).rd F.LANE_STAT_LID u k = b.lid % 16 ∧
    (d.showTrain u k b).rd F.LANE_STAT_NLANE u k = b.nlane % 16 ∧ (d.showTrain u k b).rd F.LANE_STAT_PORT u k = b.port % 256 :=
  ⟨(rd_wr_of_lo (by decide)).trans ((rd_wr_of_lo (by decide)).trans (Dev.rd_wr ..)), (rd_wr_of_lo (by decide)).trans (Dev.rd_wr ..), Dev.rd_wr ..⟩

theorem RoleMove.laneIdent (h : RoleMove u r a d) (k : Nat) (b : TrainBlock) (slot : Nat) : RoleMove u r a (d.laneIdent roleOwner u r k b slot) := by
  unfold Dev.laneIdent
  extract_lets x id good same off x' d₁
  have h₁ : RoleMove u r a d₁ := h.lanes ((LaneMove.refl d).putLane u k _)
  exact .ite _ (.ite _ (h₁.attemptFail 7) (.ite _ (h₁.attemptFail 8) (.ite _ (h₁.attemptFail 6)
    (h₁.lanes ((LaneMove.refl d₁).setStage u k 6)).roleAlign))) h₁

/-- In IDENT the fields of a good training block are shown, whatever they make of the attempt. -/
theorem laneTrain_ident {b : TrainBlock} {slot : Nat} (h4 : d.roleState u r ≠ 4) (ha : (d.role u r).attempt = true) (h5 : d.stage u k = 5) :
    (d.laneTrain roleOwner u r k b slot).rd F.LANE_STAT_LID u k = b.lid % 16 ∧
      (d.laneTrain roleOwner u r k b slot).rd F.LANE_STAT_NLANE u k = b.nlane % 16 ∧
      (d.laneTrain roleOwner u r k b slot).rd F.LANE_STAT_PORT u k = b.port % 256 := by
  have e : d.laneTrain roleOwner u r k b slot = (d.showTrain u k b).laneIdent roleOwner u r k b slot := by simp [Dev.laneTrain, h4, ha, h5]
  have m := (RoleMove.refl u r (d.showTrain u k b)).laneIdent k b slot
  obtain ⟨hlid, hnlane, hport⟩ := showTrain_shows d u k b
  rw [e]
  exact ⟨(m.rd _ _ _ _ rfl rfl).trans hlid, (m.rd _ _ _ _ rfl rfl).trans hnlane, (m.rd _ _ _ _ rfl rfl).trans hport⟩

theorem qlinkTs2_lane (d : Dev) (u r k : Nat) : (d.qlinkTs2 u r).lane u k = d.lane u k := by
  unfold Dev.qlinkTs2
  dsimp only
  split_ifs
  · exact lane_putRole _
  · rfl

/-- After IDENT a good training block is counted where it is a TS2 that the far end may send. -/
theorem laneTrain_ts2 {b : TrainBlock} {slot : Nat} (h4 : d.roleState u r ≠ 4) (ha : (d.role u r).attempt = true)
    (h67 : d.stage u k = 6 ∨ d.stage u k = 7) :
    ((d.laneTrain roleOwner u r k b slot).lane u k).ts2 = if b.ts2 && d.ts2Due u r then (d.lane u k).ts2 + 1 else 0 := by
  have h5 : d.stage u k ≠ 5 := by omega
  simp [Dev.laneTrain, h4, ha, h5, h67, qlinkTs2_lane]

/-- The eighth inverted block turns the lane, whose polarity has then settled. -/
theorem laneInvert_settles (h7 : (d.lane u k).inv = 7) :
    (d.laneInvert u k).on F.LANE_STAT_POLINV u k = (!d.on F.LANE_STAT_POLINV u k) ∧ ((d.laneInvert u k).lane u k).settled = true := by
  have e : d.laneInvert u k = (d.wrb F.LANE_STAT_POLINV (!d.on F.LANE_STAT_POLINV u k) u k).putLane u k
      { d.lane u k with inv := 0, good := 8, settled := true, same := 0 } := by
    simp [Dev.laneInvert, h7]
  rw [e]
  exact ⟨(putLane_on ..).trans (on_wrb rfl), by rw [lane_putLane_same]⟩

/-! ### Data after training (R233) -/

/-- In IDENT a block that is no training block starts the counts again. -/
theorem laneData_ident {b : RxBlock} (hk : d.roleKind u r = 1 ∨ d.roleKind u r = 6) (h4 : d.roleState u r ≠ 4)
    (ha : (d.role u r).attempt = true) (h5 : d.stage u k = 5) :
    d.laneData roleOwner u r k b = d.putLane u k { d.lane u k with good := 0, inv := 0, same := 0 } := by
  have hlink : (d.roleKind u r == 1 || d.roleKind u r == 6) = true := by simpa using hk
  simp [Dev.laneData, hlink, h4, ha, h5]

theorem LaneMove.laneKeep (h : LaneMove a d) (u k : Nat) (b : RxBlock) : LaneMove a (d.laneKeep u k b) := by
  unfold Dev.laneKeep
  cases hs : (d.lane u k).scr with
  | some v => exact h.putLane u k _
  | none => exact LaneMove.putLane (d := d.draw.2) ⟨h.rd, h.role, h.bad, h.lost, h.router, h.c⟩ u k _

/-- A lane that keeps a block stays as far as it was, and so do the others. -/
theorem laneKeep_done (b : RxBlock) (j : Nat) : ((d.laneKeep u k b).lane u j).done = (d.lane u j).done := by
  have put : ∀ (e : Dev) (x : LaneSt), e.lane u j = d.lane u j → (j = k → x.done = (d.lane u j).done) →
      ((e.putLane u k x).lane u j).done = (d.lane u j).done := fun e x he hx => by
    by_cases hj : j = k
    · subst hj
      rw [lane_putLane_same]
      exact hx rfl
    · rw [lane_putLane_ne x hj, he]
  unfold Dev.laneKeep
  cases hs : (d.lane u k).scr with
  | some v => exact put d _ rfl fun hj => by subst hj; rfl
  | none => exact put d.draw.2 _ rfl fun hj => by subst hj; rfl

theorem laneKeep_stage (b : RxBlock) (j : Nat) : (d.laneKeep u k b).stage u j = d.stage u j := by
  unfold Dev.laneKeep
  cases hs : (d.lane u k).scr with
  | some v => exact stage_putLane _
  | none => exact stage_putLane (d := d.draw.2) _

/-- What neither lanes nor owners change stands while rows go out. -/
theorem rowsOut_keeps {P : Dev → Prop} (hl : ∀ {a d : Dev}, LaneMove a d → P a → P d) (ho : ∀ {a d : Dev}, OwnerSame a d → P a → P d)
    (n : Nat) (h : P d) : P (d.rowsOut roleOwner u r n) := by
  induction n generalizing d with
  | zero => exact h
  | succ n ih =>
    unfold Dev.rowsOut
    extract_lets ks row d₁
    have h₁ : P d₁ := hl ((LaneMove.refl d).foldl ks fun _ k h => h.putLane u k _) h
    split_ifs
    · exact h
    · exact ih (ho (ownerSame_roleOwner (.inl nofun)) h₁)

/-- The block after 16 TS2 on the last of a role's lanes makes the role READY. -/
theorem laneData_completes {b : RxBlock} (hk : d.roleKind u r = 1 ∨ d.roleKind u r = 6) (h4 : d.roleState u r ≠ 4)
    (ha : (d.role u r).attempt = true) (h7 : d.stage u k = 7) (h16 : 16 ≤ (d.lane u k).ts2)
    (hall : ∀ j ∈ d.roleLanes u r, d.stage u j = 7 ∧ (j = k ∨ (d.lane u j).done = true)) :
    (d.laneData roleOwner u r k b).roleState u r = 4 ∧ (d.hub.lost = false →
      Raised (d.laneData roleOwner u r k b) (if u = 4 then 530 else pipeEvent u 29) (d.rd F.LANE_ROLE_STAT_FCAUSE u r * 2 ^ 25 + r)) := by
  generalize hd' : (d.putLane u k { d.lane u k with done := true }).laneKeep u k b = d'
  have m : LaneMove d d' := hd' ▸ ((LaneMove.refl d).putLane u k _).laneKeep u k b
  have hstage : ∀ j, d'.stage u j = d.stage u j := fun j => by rw [← hd', laneKeep_stage, stage_putLane]
  have hdone : ∀ j ∈ d.roleLanes u r, (d'.lane u j).done = true := fun j hj => by
    rw [← hd', laneKeep_done]
    by_cases hjk : j = k
    · subst hjk
      rw [lane_putLane_same]
    · rw [lane_putLane_ne _ hjk]
      exact (hall j hj).2.resolve_left hjk
  have hready : ((d'.roleLanes u r).all fun j => (d'.lane u j).done && d'.stage u j == 7) = true := by
    rw [m.cfg.roleLanes, List.all_eq_true]
    intro j hj
    simp [hdone j hj, hstage, (hall j hj).1]
  have e : d.laneData roleOwner u r k b = (d'.roleReady roleOwner u r).rowsOut roleOwner u r ((d'.lane u k).blocks.length + 64) := by
    have hlink : (d.roleKind u r == 1 || d.roleKind u r == 6) = true := by simpa using hk
    simp [Dev.laneData, h4, ha, h7, h16, hlink, hd', hready]
  obtain ⟨hstate, hraised⟩ := roleReady_shows d' u r
  rw [e]
  refine rowsOut_keeps (P := fun e => e.roleState u r = 4 ∧ (d.hub.lost = false →
    Raised e (if u = 4 then 530 else pipeEvent u 29) (d.rd F.LANE_ROLE_STAT_FCAUSE u r * 2 ^ 25 + r))) ?_ ?_ _ ⟨hstate, fun h => ?_⟩
  · exact fun m h => ⟨(m.roleState u r).trans h.1, fun hl => m.raised (h.2 hl)⟩
  · exact fun m h => ⟨(m.rd _ _ _ _ rfl).trans h.1, fun hl => m.raised _ _ (heldEvent_role (e := 0) (by decide)) (h.2 hl)⟩
  · rw [← m.fcause u r]
    exact hraised (m.lost.trans h)

/-! ### Tracking in READY (R243) -/

theorem laneTrack_off {dir : Nat} (h : d.stage u k ≠ 8) : d.laneTrack u k dir = d := if_pos h

theorem laneTrack_frozen {dir : Nat} (h8 : d.stage u k = 8) (ha : d.on F.LANE_CTLE_ADAPT u k = true) (hf : d.on F.LANE_CTLE_FREEZE u k = true) :
    d.laneTrack u k dir = d := by simp [Dev.laneTrack, h8, ha, hf]

theorem laneTrack_follows (dir : Fin 3) (h8 : d.stage u k = 8) (ha : d.on F.LANE_CTLE_ADAPT u k = true) (hf : d.on F.LANE_CTLE_FREEZE u k = false)
    (hn : d.rd F.LANE_CTLE_NOW u k < 32) : (d.laneTrack u k dir).rd F.LANE_CTLE_NOW u k =
      if dir = 1 then min 31 (d.rd F.LANE_CTLE_NOW u k + 1)
      else if dir = 2 then d.rd F.LANE_CTLE_NOW u k - 1 else d.rd F.LANE_CTLE_NOW u k := by
  have h1 : dir.val = 1 ↔ dir = 1 := by omega
  have h2 : dir.val = 2 ↔ dir = 2 := by omega
  simp only [Dev.laneTrack, h8, ha, hf, h1, h2, ne_eq, not_true_eq_false, if_false, if_true, Bool.false_eq_true]
  rw [Dev.rd_wr]
  have hw : F.LANE_CTLE_NOW.width = 5 := rfl
  rw [hw, Nat.mod_eq_of_lt (by split_ifs <;> omega)]
  split_ifs <;> omega

/-! ### Instants of R238 -/

theorem attemptTick_idle (h : d.roleState u r = 0 ∨ d.roleState u r = 1 ∨ d.roleState u r = 4) : d.attemptTick u r = d := if_pos h

section

variable (h0 : d.roleState u r ≠ 0) (h1 : d.roleState u r ≠ 1) (h4 : d.roleState u r ≠ 4)
include h0 h1 h4

theorem attemptTick_holds (ha : (d.role u r).attempt = true) (hl : (d.role u r).aligned = true) (hh : (d.role u r).held = false) :
    (d.attemptTick u r).role u r = { d.role u r with held := true } := by simp [Dev.attemptTick, h0, h1, h4, ha, hl, hh]

theorem attemptTick_first (ha : (d.role u r).attempt = false) (he : (d.role u r).episode = false) (hok : d.refOk u r = true) :
    ((d.attemptTick u r).role u r).attempt = true ∧ ((d.attemptTick u r).role u r).first = d.c ∧ (d.attemptTick u r).roleState u r = 2 := by
  have e : d.attemptTick u r = d.attemptStart u r := by simp [Dev.attemptTick, h0, h1, h4, ha]
  obtain ⟨hrole, hstate⟩ := attemptStart_effect hok
  rw [e, hrole, hstate]
  simp [Dev.roleStarted, Role.fresh, he]

theorem attemptTick_again (hl : (d.role u r).aligned = false) (he : (d.role u r).episode = true) (hok : d.refOk u r = true) :
    ((d.attemptTick u r).role u r).attempt = true ∧ ((d.attemptTick u r).role u r).aligned = false ∧
      (d.attemptTick u r).roleState u r = if (d.role u r).down then 6 else 5 := by
  have start : ∀ e : Dev, (e.role u r).episode = true → (e.role u r).down = (d.role u r).down → e.refOk u r = true →
      ((e.attemptStart u r).role u r).attempt = true ∧ ((e.attemptStart u r).role u r).aligned = false ∧
        (e.attemptStart u r).roleState u r = if (d.role u r).down then 6 else 5 := fun e he hd hok => by
    obtain ⟨hrole, hstate⟩ := attemptStart_effect hok
    rw [hrole, hstate, hd]
    simp [Dev.roleStarted, Role.fresh, he]
  cases ha : (d.role u r).attempt with
  | false =>
    have e : d.attemptTick u r = d.attemptStart u r := by simp [Dev.attemptTick, h0, h1, h4, ha]
    rw [e]
    exact start d he rfl hok
  | true =>
    have e : d.attemptTick u r = (d.attemptFail u r (d.lateCause u r)).attemptStart u r := by simp [Dev.attemptTick, h0, h1, h4, ha, hl]
    have m := (RoleMove.refl u r d).attemptFail (d.lateCause u r)
    have hrole := attemptFail_role (cause := d.lateCause u r) ha he
    rw [e]
    exact start _ (by rw [hrole]; exact he) (by rw [hrole]; rfl) ((m.cfg.refOk m.bad).trans hok)

end

/-! ### READY without training blocks (R234, R261) -/

theorem dphySot_ready {p mask : Nat} (h2 : d.roleKind p 0 = 2) (ha : (d.role p 0).attempt = true) (h1 : ∀ k ∈ d.roleLanes p 0, d.stage p k = 1)
    (hsot : ∀ k ∈ d.dphyLanes p, bit mask k = true ∨ (d.lane p k).done = true) : (d.dphySot p mask).roleState p 0 = 4 := by
  generalize hd' : (d.dphyLanes p).foldl (fun d k => if bit mask k then d.putLane p k { d.lane p k with done := true } else d) d = d'
  have hstage : ∀ k, d'.stage p k = d.stage p k := fun k => by
    rw [← hd']
    refine foldl_keeps (P := fun e => e.stage p k = d.stage p k) _ (fun e j _ h => ?_) rfl
    split_ifs
    · rwa [stage_putLane]
    · exact h
  have m : LaneMove d d' := hd' ▸ (LaneMove.refl d).foldl _ fun _ k h => .ite _ (h.putLane p k _) h
  have keeps : ∀ k (e : Dev) (j : Nat), (e.lane p k).done = true →
      ((if bit mask j then e.putLane p j { e.lane p j with done := true } else e).lane p k).done = true := fun k e j h => by
    split_ifs
    · by_cases hj : k = j
      · subst hj
        rw [lane_putLane_same]
      · rwa [lane_putLane_ne _ hj]
    · exact h
  have hdone : ∀ k ∈ d.dphyLanes p, (d'.lane p k).done = true := fun k hk => by
    rw [← hd']
    rcases hsot k hk with hb | hdone
    · exact foldl_reaches (P := fun _ => True) (Q := fun e => (e.lane p k).done = true) hk (fun _ _ _ h => h)
        (fun e _ => by rw [if_pos hb, lane_putLane_same]) (fun e j _ h => keeps k e j h) trivial
    · exact foldl_keeps (P := fun e => (e.lane p k).done = true) _ (fun e j _ h => keeps k e j h) hdone
  have hready : ((d'.roleLanes p 0).all (fun k => d'.stage p k == 1) && (d'.dphyLanes p).all fun k => (d'.lane p k).done) = true := by
    rw [m.cfg.roleLanes, m.cfg.dphyLanes, Bool.and_eq_true, List.all_eq_true, List.all_eq_true]
    exact ⟨fun k hk => by rw [hstage, h1 k hk]; rfl, hdone⟩
  have e : d.dphySot p mask = d'.roleReady roleOwner p 0 := by simp only [Dev.dphySot, h2, ha, and_self, if_true, hd', hready]
  rw [e]
  exact (roleReady_shows d' p 0).1

end Sys2Proof.Machine
end

section
/-!
Lane training (R229 to R238, R243, R261): the commands of an attempt, assembled from what they do to a lane and its role.
-/
set_option Elab.async false -- few threads: each takes a stack of its own
namespace Sys2Proof.Machine

variable {s : State} {u : Unit5} {k : Fin 12} {r : Nat}

/-- A command on a lane that its unit has. -/
theorem does_onLane {i : Instr} {f : Dev → Dev} {q : Dev → Prop} (ha : s.awake) (hk : k.val < laneCount u) (hs : ∀ t, q t → q (settle t))
    (e : exec i s = onLane u k s f) (hq : q (f s.dev)) : Does i s q := does_of_runIf_unsettled ha hs (decide_eq_true hk) e hq

theorem exec_onLane {i : Instr} {f : Dev → Dev} {d : Dev} (ha : s.awake) (hk : k.val < laneCount u) (e : exec i s = onLane u k s f)
    (hd : f s.dev = d) : exec i s = .next (s.after d) := exec_of_runIf ha (decide_eq_true hk) e hd

/-- The causes of the stages whose bound ends an attempt. -/
theorem stageTimeout_ends (ha : s.awake) (hk : k.val < laneCount u) (hs : s.dev.slotOf u k = some r) (hr : (s.dev.role u r).attempt = true) :
    (∀ v, (v = 2 ∨ v = 3 ∨ (v = 4 ∧ s.dev.on F.LANE_STAT_BLOCK u k = false)) → s.dev.stage u k = v →
      Does (.laneStageTimeout u k) s fun t => (t.role u r).attempt = false ∧ t.rd F.LANE_ROLE_STAT_FCAUSE u r = v) ∧
    (s.dev.stage u k = 5 → Does (.laneStageTimeout u k) s fun t => (t.role u r).attempt = false ∧
      t.rd F.LANE_ROLE_STAT_FCAUSE u r = if (s.dev.lane u k).settled || s.dev.roleKind u r == 4 then 6 else 5) ∧
    (s.dev.stage u k = 6 → Does (.laneStageTimeout u k) s fun t =>
      (t.role u r).attempt = false ∧ t.rd F.LANE_ROLE_STAT_FCAUSE u r = 9) := by
  have ends : ∀ c, s.dev.stageCause u r k = c → 2 ≤ s.dev.stage u k → s.dev.stage u k ≤ 6 →
      (s.dev.stage u k = 4 → s.dev.on F.LANE_STAT_BLOCK u k = false) → Does (.laneStageTimeout u k) s fun t =>
        (t.role u r).attempt = false ∧ t.rd F.LANE_ROLE_STAT_FCAUSE u r = c := fun c hc h2 h6 hb =>
    does_onLane ha hk (fun _ h => h) rfl (hc ▸ laneBound_fails hs hr h2 h6 hb)
  refine ⟨fun v hv hst => ?_, fun h5 => ?_, fun h6 => ?_⟩
  · rcases hv with rfl | rfl | ⟨rfl, hb⟩
    · exact ends 2 (by simp [Dev.stageCause, hst]) (by omega) (by omega) (by omega)
    · exact ends 3 (by simp [Dev.stageCause, hst]) (by omega) (by omega) (by omega)
    · exact ends 4 (by simp [Dev.stageCause, hst]) (by omega) (by omega) fun _ => hb
  · exact ends _ (by simp only [Dev.stageCause, h5]) (by omega) (by omega) (by omega)
  · exact ends 9 (by simp [Dev.stageCause, h6]) (by omega) (by omega) (by omega)

/-- Data blocks during an attempt: in IDENT they restart the counts, and after the 16 TS2 of the last lane they make the role READY. -/
theorem dataBlock_effect (ha : s.awake) (hk : k.val < laneCount u) (raw : BitVec 66) (hs : s.dev.slotOf u k = some r)
    (hl : s.dev.roleKind u r = 1 ∨ s.dev.roleKind u r = 6) (h4 : s.dev.roleState u r ≠ 4) (hr : (s.dev.role u r).attempt = true)
    (hb2 : blkByte (s.dev.laneBlk u k raw) 0 ≠ 0xD2) (hb3 : blkByte (s.dev.laneBlk u k raw) 0 ≠ 0xD3) :
    (s.dev.stage u k = 5 → blkByte (blkInv (s.dev.laneBlk u k raw)) 0 ≠ 0xD2 → blkByte (blkInv (s.dev.laneBlk u k raw)) 0 ≠ 0xD3 →
      exec (.dataBlockReceived u k raw) s = .next (s.after
        (s.dev.putLane u k { s.dev.lane u k with good := 0, inv := 0, same := 0 }))) ∧
    (s.dev.stage u k = 7 → 16 ≤ (s.dev.lane u k).ts2 →
      (∀ j ∈ s.dev.roleLanes u r, s.dev.stage u j = 7 ∧ (j = k.val ∨ (s.dev.lane u j).done = true)) →
      Does (.dataBlockReceived u k raw) s fun t => t.roleState u r = 4 ∧
        (s.dev.hub.lost = false →
          Raised t (if u.val = 4 then 530 else pipeEvent u 29) (s.dev.rd F.LANE_ROLE_STAT_FCAUSE u r * 2 ^ 25 + r))) := by
  have hrx : ¬ (s.dev.roleKind u r = 2 ∨ s.dev.roleKind u r = 5) := by omega
  refine ⟨fun h5 hi2 hi3 => exec_onLane ha hk rfl ?_, fun h7 h16 hall => does_onLane ha hk (fun _ h => h) rfl ?_⟩
  · rw [laneRx_data hs hrx (trainOf_none hb2 hb3) fun _ => trainOf_none hi2 hi3]
    exact laneData_ident hl h4 hr h5
  · rw [laneRx_data hs hrx (trainOf_none hb2 hb3) (by omega)]
    exact laneData_completes hl h4 hr h7 h16 hall

/-- Settles O22: each command takes its lane or role as far as the stage, the role's kind and the lanes' records say. -/
theorem laneTraining : Obligations.LaneTraining := by
  unfold Obligations.LaneTraining
  intro s ha
  refine ⟨fun u k hk => ?_, fun u r hr => ?_, fun p k r hs => ?_, fun p mask => ?_⟩
  · have lane : ∀ {i : Instr} {f : Dev → Dev} {q : Dev → Prop}, (∀ t, q t → q (settle t)) → exec i s = onLane u k s f → q (f s.dev) →
        Does i s q := does_onLane ha hk
    have none : ∀ {i : Instr} {f : Dev → Dev}, exec i s = onLane u k s f → f s.dev = s.dev → exec i s = .next (s.after s.dev) :=
      exec_onLane ha hk
    refine ⟨lane (fun _ h => h) rfl ⟨laneSignal_shows .., fun r => laneSignal_stage⟩,
      fun r hi h5 => lane (fun _ h => h) rfl (laneCdr_shows hi h5), fun hi => none rfl (by simp only [Dev.laneCdr, hi]),
      fun r code hi => lane (fun _ h => h) rfl (laneCtle_shows hi code.isLt), fun code hi => none rfl (by simp only [Dev.laneCtle, hi]),
      fun r hi => lane (fun _ h => h) rfl (laneBlock_shows hi), fun hi => none rfl (by simp only [Dev.laneBlock, hi]),
      fun r => stageTimeout_ends ha hk, fun h => none rfl (laneBound_none h),
      fun raw slot h => ⟨none rfl (laneRx_none h), none rfl (laneRx_none h)⟩, ?_, ?_,
      fun raw r => dataBlock_effect ha hk raw, fun dir h => none rfl (laneTrack_off h), fun dir h8 had hf => none rfl (laneTrack_frozen h8 had hf),
      fun dir h8 had hf hn => lane (fun _ h => h) rfl (laneTrack_follows dir h8 had hf hn)⟩
    · intro raw slot r b hs hl h4 hr ht hc
      have e := laneRx_train (slot := slot) hs hl ht hc
      exact ⟨fun h5 => lane (fun _ h => h) rfl (e ▸ laneTrain_ident h4 hr h5),
        fun h67 => lane (fun _ h => h) rfl (e ▸ laneTrain_ts2 h4 hr h67)⟩
    · intro raw slot r b hs hl h4 hr h5 ht hc hp h7
      exact lane (fun _ h => h) rfl (laneRx_inverted (slot := slot) hs hl hr h5 hp ht hc ▸ laneInvert_settles h7)
  · have role : ∀ {q : Dev → Prop}, (∀ t, q t → q (settle t)) → q (s.dev.attemptTick u r) → Does (.laneAttemptStart u r) s q :=
      fun hs hq => does_of_runIf_unsettled ha hs (decide_eq_true hr) rfl hq
    exact ⟨fun h => exec_of_runIf ha (decide_eq_true hr) rfl (attemptTick_idle h),
      fun h0 h1 h4 hat hal hh => role (fun _ h => h) (attemptTick_holds h0 h1 h4 hat hal hh),
      fun h0 h1 h4 hat he hok => role (fun _ h => h) (attemptTick_first h0 h1 h4 hat he hok),
      fun h0 h1 h4 hal he hok => role (fun _ h => h) (attemptTick_again h0 h1 h4 hal he hok)⟩
  · refine ⟨fun h5 hat h2 => does_of_run_unsettled ha (fun _ h => h) rfl ?_, fun h => exec_of_run ha rfl ?_,
      fun hk hat hall => does_of_run_unsettled ha (fun _ h => h) rfl ?_, fun hat => exec_of_run ha rfl ?_⟩
    · simp only [hs, h5, hat, h2, and_self, if_true]
      exact (roleReady_shows s.dev p r).1
    · simp only [hs]
      refine if_neg fun hin => ?_
      obtain ⟨h5, hat, h2⟩ := hin
      simp [h5, hat, h2] at h
    · have hblocks : ((s.dev.roleLanes p r).all fun j => s.dev.on F.LANE_STAT_BLOCK p j && s.dev.stage p j != 9) = true := by
        simpa [List.all_eq_true] using hall
      simp only [hs, hk, hat, hblocks, and_self, if_true]
      exact (roleReady_shows s.dev p r).1
    · simp [hs, hat]
  · refine ⟨fun h2 hat h1 hsot => does_of_run_unsettled ha (fun _ h => h) rfl (dphySot_ready h2 hat h1 hsot),
      fun h => exec_of_run ha rfl (if_neg ?_)⟩
    rintro ⟨h2, hat⟩
    simp [h2, hat] at h

end Sys2Proof.Machine
end

section
/-!
Losses of a lane, the retry timer, the reference monitor and the test patterns (R221, R236 to R248).
-/
set_option Elab.async false -- few threads: each takes a stack of its own
namespace Sys2Proof.Machine

variable {a d : Dev} {u k r : Nat}

/-! ### Losses (R236) -/

/-- A cause that a lane of a READY role shows loses the role. -/
theorem laneCause_loses {cause : Nat} (h4 : d.roleState u r = 4) (he : (d.role u r).episode = false) (hc : cause < 16)
    (hl : d.hub.lost = a.hub.lost) (k : Nat) : a.roleLostBy (d.laneCause roleOwner u r k cause) u r cause := by
  rw [Dev.laneCause, if_pos h4]
  exact roleLoss_lostBy he hc hl k

/-- Lane `k` once its clock is gone. -/
def Dev.clockLost (d : Dev) (u k : Nat) : Dev := (d.wr F.LANE_STAT_CDR 0 u k).wr F.LANE_STAT_BLOCK 0 u k

theorem LaneMove.clockLost (h : LaneMove a d) (u k : Nat) : LaneMove a (d.clockLost u k) := h.wr.wr

/-- A cause that lanes of link and Ethernet roles have, detected on lane `k`. -/
def Dev.linkCause (d : Dev) (u k cause : Nat) : Dev :=
  match d.slotOf u k with
  | some r =>
    if d.roleKind u r == 3 || d.roleKind u r == 4 || d.roleKind u r == 1 || d.roleKind u r == 6 then d.laneCause roleOwner u r k cause else d
  | none => d

theorem laneGone_cdr (d : Dev) (u k : Nat) : d.laneGone u k .cdr = (d.clockLost u k).linkCause u k 2 := rfl

theorem laneGone_noSig (d : Dev) (u k : Nat) : d.laneGone u k .noSig = ((d.wr F.LANE_STAT_SIG 0 u k).clockLost u k).linkCause u k 1 := rfl

/-- A lane whose signal is gone shows none, whatever becomes of its role. -/
theorem laneGone_sig (d : Dev) (u k : Nat) : (d.laneGone u k .noSig).on F.LANE_STAT_SIG u k = false := by
  have h : ((d.wr F.LANE_STAT_SIG 0 u k).clockLost u k).on F.LANE_STAT_SIG u k = false :=
    (on_of_rd (((LaneMove.refl _).clockLost u k).rd _ _ _ _ rfl)).trans (on_wrb (b := false) rfl)
  rw [laneGone_noSig]
  unfold Dev.linkCause
  split
  · next r _ =>
    split_ifs
    · exact (on_of_rd (((RoleMove.refl u r _).laneCause k 1).rd _ _ _ _ rfl rfl)).trans h
    · exact h
  · exact h

section

variable (hs : d.slotOf u k = some r) (h4 : d.roleState u r = 4) (he : (d.role u r).episode = false)
include hs h4 he

theorem linkCause_loses {cause : Nat} (hk : d.roleKind u r = 1 ∨ d.roleKind u r = 3 ∨ d.roleKind u r = 4 ∨ d.roleKind u r = 6)
    (hc : cause < 16) (hl : d.hub.lost = a.hub.lost) : a.roleLostBy (d.linkCause u k cause) u r cause := by
  have e : d.linkCause u k cause = d.laneCause roleOwner u r k cause := by
    simp only [Dev.linkCause, hs]
    exact if_pos (by simp only [Bool.or_eq_true, beq_iff_eq]; omega)
  rw [e]
  exact laneCause_loses h4 he hc hl k

theorem laneGone_clock_loses (hk : d.roleKind u r = 1 ∨ d.roleKind u r = 3 ∨ d.roleKind u r = 4 ∨ d.roleKind u r = 6) :
    d.roleLostBy (d.laneGone u k .noSig) u r 1 ∧ d.roleLostBy (d.laneGone u k .cdr) u r 2 := by
  have dark : CfgSame d (d.wr F.LANE_STAT_SIG 0 u k) := .of_wr
  have m := (LaneMove.refl d).clockLost u k
  have n := (LaneMove.refl (d.wr F.LANE_STAT_SIG 0 u k)).clockLost u k
  have c := dark.trans n.cfg
  rw [laneGone_noSig, laneGone_cdr]
  exact ⟨linkCause_loses ((c.slotOf u k).trans hs) ((n.roleState u r).trans ((rd_wr_of_reg (by decide)).trans h4)) he
      (by rwa [c.roleKind]) (by decide) rfl,
    linkCause_loses ((m.cfg.slotOf u k).trans hs) ((m.roleState u r).trans h4) he (by rwa [m.cfg.roleKind]) (by decide) rfl⟩

theorem laneGone_pcs (hk : d.roleKind u r = 3 ∨ d.roleKind u r = 4) : d.roleLostBy (d.laneGone u k .pcs) u r 4 := by
  have e : d.laneGone u k .pcs = d.laneCause roleOwner u r ((d.roleLanes u r).headD k) 4 := by simp [Dev.laneGone, hs, hk]
  rw [e]
  exact laneCause_loses h4 he (by decide) rfl _

theorem laneGone_pll (hk : d.roleKind u r = 5) : d.roleLostBy (d.laneGone u k .pll) u r 2 := by
  have e : d.laneGone u k .pll = d.laneCause roleOwner u r k 2 := by simp [Dev.laneGone, hs, hk]
  rw [e]
  exact laneCause_loses h4 he (by decide) rfl _

/-- A training block in READY: the far end trains again. -/
theorem laneRx_trainLoss {raw : BitVec 66} {slot : Nat} {b : TrainBlock} (hk : d.roleKind u r = 1 ∨ d.roleKind u r = 6)
    (ht : trainOf (d.laneBlk u k raw) = some b) (hc : b.crcOk = true) : d.roleLostBy (d.laneRx roleOwner u k raw slot) u r 10 := by
  rw [laneRx_train hs hk ht hc, Dev.laneTrain]
  simp only [h4, if_true]
  exact roleLoss_lostBy he (by decide) rfl k

/-- The sixteenth invalid sync header of the latest 64. -/
theorem laneRx_headerLoss {raw : BitVec 66} {slot : Nat} (hk : ¬ (d.roleKind u r = 2 ∨ d.roleKind u r = 5))
    (hv : blkValid (d.laneBlk u k raw) = false) (h15 : 15 ≤ ((d.lane u k).hdrs.take 63 |>.filter fun v => !v).length) :
    d.roleLostBy (d.laneRx roleOwner u k raw slot) u r 12 := by
  have hhdr : ¬ (d.laneBlk u k raw).hdr = 1 ∧ ¬ (d.laneBlk u k raw).hdr = 2 := by simpa [blkValid] using hv
  have hinv : (blkInv (d.laneBlk u k raw)).hdr = 3 - (d.laneBlk u k raw).hdr := rfl
  rw [laneRx_data hs hk (if_neg fun h => hhdr.2 h.1) fun _ => if_neg fun h => by omega]
  have h16 : 16 ≤ (((false :: (d.lane u k).hdrs).take 64).filter fun v => !v).length := by
    simpa using h15
  generalize hx : ({ d.lane u k with hdrs := (false :: (d.lane u k).hdrs).take 64 } : LaneSt) = x
  have e : d.laneData roleOwner u r k (d.laneBlk u k raw) = ((d.putLane u k x).bump C.LANE_HDR_ERR u k).roleLoss roleOwner u r k 12 := by
    simp only [Dev.laneData, h4, hv, hx, h16, if_true, Bool.false_eq_true, if_false]
  obtain ⟨g, hg⟩ := bumpBy_parts (d.putLane u k x) 1 C.LANE_HDR_ERR u k 0
  have parts : (d.putLane u k x).bump C.LANE_HDR_ERR u k = { d.putLane u k x with regs := g } := hg
  rw [e, parts]
  refine roleLoss_lostBy (cause := 12) (d := { d.putLane u k x with regs := g }) ?_ (by decide) ((LaneMove.refl d).putLane u k x).lost k
  exact (congrArg Role.episode (role_putLane (d := d) (u := u) (k := k) (r := r) (v := u) x)).trans he

end

/-! ### The retry timer (R239) -/

/-- Role `r` given up, before that is told. -/
def Dev.roleDown (d : Dev) (u r : Nat) : Dev := (d.putRole u r { d.role u r with down := true }).showRole u r 6

theorem roleExpire_shows (he : (d.role u r).episode = true) (hd : (d.role u r).down = false) :
    ((d.roleExpire roleOwner u r).role u r).down = true ∧ (d.roleExpire roleOwner u r).roleState u r = 6 ∧
      (d.hub.lost = false → Raised (d.roleExpire roleOwner u r) (if u = 4 then 532 else pipeEvent u 31)
        (d.rd F.LANE_ROLE_STAT_FCAUSE u r * 2 ^ 25 + r)) := by
  have e : d.roleExpire roleOwner u r = roleOwner ((d.roleDown u r).roleEvent u r 2) u r .expired := if_pos (by simp [he, hd])
  have hcause : (d.roleDown u r).rd F.LANE_ROLE_STAT_FCAUSE u r = d.rd F.LANE_ROLE_STAT_FCAUSE u r := fcause_showRole.trans (putRole_rd ..)
  have hlost : (d.roleDown u r).hub.lost = d.hub.lost := (((RoleMove.refl u r d).putRole _).showRole 6).lost
  obtain ⟨hrole, hstate, -, hraised⟩ := told_shows (d := d.roleDown u r) (u := u) (r := r) (e := 2) (by decide) (x := .expired) nofun
  rw [e, hrole, hstate, ← hcause]
  exact ⟨by rw [Dev.roleDown, role_showRole, role_putRole_same], roleState_showRole (by decide), fun h => hraised (hlost.trans h)⟩

theorem roleExpire_none (h : (d.role u r).episode = false ∨ (d.role u r).down = true) : d.roleExpire roleOwner u r = d := by
  refine if_neg ?_
  rcases h with h | h <;> simp [h]

/-! ### Retraining (R241, R261) -/

theorem roleRetrain_loses (h : d.roleState u r = 4 ∨ d.roleState u r = 3) (he : (d.role u r).episode = false) :
    d.roleLostBy (d.roleRetrain roleOwner u r) u r 13 := by
  have e : d.roleRetrain roleOwner u r = d.roleLoss roleOwner u r ((d.roleLanes u r).headD 0) 13 := by simp only [Dev.roleRetrain, h, if_true]
  rw [e]
  exact roleLoss_lostBy he (by decide) rfl _

/-- A role named by one of its lanes is lost with cause HOST, whatever the other roles named do. -/
theorem laneRetrain_loses {mask : Nat} (hr : r < 7) (hm : ∃ k ∈ d.roleLanes u r, bit mask k = true)
    (h : d.roleState u r = 4 ∨ d.roleState u r = 3) (he : (d.role u r).episode = false) :
    (d.laneRetrain roleOwner u mask).roleState u r = 5 ∧ (d.laneRetrain roleOwner u mask).rd F.LANE_ROLE_STAT_FCAUSE u r = 13 := by
  have turn : ∀ (e : Dev) (n : Nat), RoleMove u n e (if (e.roleLanes u n).any fun k => bit mask k then e.roleRetrain roleOwner u n else e) :=
    fun e n => .ite _ (RoleMove.refl u n e).roleRetrain (.refl u n e)
  refine foldl_turn (P := fun e => CfgSame d e ∧ e.roleState u r = d.roleState u r ∧ e.role u r = d.role u r)
    (Q := fun e => e.roleState u r = 5 ∧ e.rd F.LANE_ROLE_STAT_FCAUSE u r = 13) (List.mem_range.2 hr) List.nodup_range ?_ ?_ ?_
    ⟨fun _ _ _ _ _ => rfl, rfl, rfl⟩
  · rintro e n - hn ⟨hcfg, hstate, hrole⟩
    have m := turn e n
    exact ⟨hcfg.trans m.cfg, (m.stat _ r rfl hn.symm).trans hstate, (m.role r hn.symm).trans hrole⟩
  · rintro e ⟨hcfg, hstate, hrole⟩
    have hany : ((e.roleLanes u r).any fun k => bit mask k) = true := by
      rw [hcfg.roleLanes]
      exact List.any_eq_true.2 hm
    rw [if_pos hany]
    obtain ⟨h5, h13, -⟩ := roleRetrain_loses (d := e) (u := u) (r := r) (by rwa [hstate]) (by rw [hrole, he])
    exact ⟨h5, h13⟩
  · rintro e n - hn ⟨h5, h13⟩
    have m := turn e n
    exact ⟨(m.stat _ r rfl hn.symm).trans h5, (m.stat _ r rfl hn.symm).trans h13⟩

theorem laneRetrain_none {mask : Nat} (h : ∀ r, r < 7 → ∀ k ∈ d.roleLanes u r, bit mask k = false) : d.laneRetrain roleOwner u mask = d := by
  refine foldl_keeps (P := fun e => e = d) _ (fun e r hr he => ?_) rfl
  subst he
  have hany : ((e.roleLanes u r).any fun k => bit mask k) = false := by simpa using h r (List.mem_range.1 hr)
  simp [hany]

/-! ### Reference inputs (R221) -/

section

variable {i : Nat} (hf : d.on F.TIME_STAT_REFFAULT = false) (hd : d.refDeclared u i = true)
include hf hd

theorem refCheck_good (hi : i < 3) : bit ((d.refCheck roleOwner u i true).rd F.LANE_REFSTAT_OK u) i = true := by
  unfold Dev.refCheck
  rw [if_neg (by simp [hf, hd])]
  dsimp only
  refine foldl_keeps (P := fun e => bit (e.rd F.LANE_REFSTAT_OK u) i = true) _ (fun e r _ h => ?_) ?_
  · split_ifs
    · rwa [(RoleMove.refl u r e).firstAttempt.rd _ _ _ _ rfl rfl]
    · exact h
  · rw [updLns_rd, Dev.rd_wr]
    exact (bit_mod_two_pow (w := 3) _ hi).trans (bit_setBit _ _)

/-- An input found in fault, before that is reported. -/
def Dev.refFailed (d : Dev) (u i : Nat) : Dev :=
  ((d.wr F.LANE_REFSTAT_OK (clrBit (d.rd F.LANE_REFSTAT_OK u) i) u).wr F.LANE_REFSTAT_FAULT
    (setBit ((d.wr F.LANE_REFSTAT_OK (clrBit (d.rd F.LANE_REFSTAT_OK u) i) u).rd F.LANE_REFSTAT_FAULT u) i) u).updLns u fun l =>
      { l with good := Tab.set 0 l.good i 0, bad := insertNum i l.bad }

omit hf hd in
theorem refFailed_shows (d : Dev) (u : Nat) (hi : i < 3) : bit ((d.refFailed u i).rd F.LANE_REFSTAT_OK u) i = false ∧
    bit ((d.refFailed u i).rd F.LANE_REFSTAT_FAULT u) i = true ∧ i ∈ ((d.refFailed u i).lns u).bad := by
  refine ⟨?_, ?_, ?_⟩
  · rw [Dev.refFailed, updLns_rd, rd_wr_of_lo (by decide), Dev.rd_wr]
    exact (bit_mod_two_pow (w := 3) _ hi).trans (bit_clrBit _ _)
  · rw [Dev.refFailed, updLns_rd, Dev.rd_wr]
    exact (bit_mod_two_pow (w := 3) _ hi).trans (bit_setBit _ _)
  · rw [Dev.refFailed, lns_updLns]
    exact insertNum_mem _ _

/-- The event of an input in fault. -/
def Dev.refReported (d : Dev) (u i : Nat) : Dev := if u = 4 then d.raise 533 0 else d.raiseP u 32 i

omit hf hd in
theorem refReported_same (d : Dev) (u i : Nat) : (d.refReported u i).rd F.LANE_REFSTAT_OK u = d.rd F.LANE_REFSTAT_OK u ∧
    (d.refReported u i).rd F.LANE_REFSTAT_FAULT u = d.rd F.LANE_REFSTAT_FAULT u ∧ (d.refReported u i).lns u = d.lns u := by
  have raised : ∀ e syn, (d.raise e syn).rd F.LANE_REFSTAT_OK u = d.rd F.LANE_REFSTAT_OK u ∧
      (d.raise e syn).rd F.LANE_REFSTAT_FAULT u = d.rd F.LANE_REFSTAT_FAULT u ∧ (d.raise e syn).lns u = d.lns u := fun e syn =>
    ⟨raise_rd _ _ _ _ _ _ _ (by decide), raise_rd _ _ _ _ _ _ _ (by decide), raise_lns ..⟩
  unfold Dev.refReported
  split_ifs
  · exact raised 533 0
  · exact raised _ i

omit hf hd in
theorem raised_refReported (hl : d.hub.lost = false) (i : Nat) :
    Raised (d.refReported u i) (if u = 4 then 533 else pipeEvent u 32) (if u = 4 then 0 else i) := by
  unfold Dev.refReported
  split_ifs
  · exact raised_of_raise hl 533 0
  · exact raised_of_raise hl _ i

omit hf hd in
theorem refEvent_ref (u : Nat) : refEvent (if u = 4 then 533 else pipeEvent u 32) = true := by
  split_ifs
  · rfl
  · obtain ⟨h', h⟩ := pipeEvent_kind u (k := 32) (by decide)
    simp [refEvent, h, h']

/-- What a role that uses an input in fault does. -/
def Dev.refEnds (d : Dev) (u i r : Nat) : Dev :=
  if d.roleRef u r == some i then
    if d.roleState u r = 4 then d.roleLoss roleOwner u r ((d.roleLanes u r).headD 0) 11 else d.attemptCut u r 11
  else d

theorem refCheck_bad (hi : i < 3) : bit ((d.refCheck roleOwner u i false).rd F.LANE_REFSTAT_OK u) i = false ∧
    bit ((d.refCheck roleOwner u i false).rd F.LANE_REFSTAT_FAULT u) i = true ∧ i ∈ ((d.refCheck roleOwner u i false).lns u).bad ∧
    ((d.lns u).bad.contains i = false → d.hub.lost = false →
      Raised (d.refCheck roleOwner u i false) (if u = 4 then 533 else pipeEvent u 32) (if u = 4 then 0 else i)) := by
  have e : d.refCheck roleOwner u i false = if (d.lns u).bad.contains i && Tab.get 0 (d.lns u).good i == 0 then d.refFailed u i
      else (List.range 7).foldl (fun d r => d.refEnds u i r) ((d.refFailed u i).refReported u i) := by
    rw [Dev.refCheck, if_neg (by simp [hf, hd])]
    rfl
  obtain ⟨hok, hfault, hbad⟩ := refFailed_shows d u hi
  have hlost : (d.refFailed u i).hub.lost = d.hub.lost := by
    rw [Dev.refFailed, updLns_lost]
    rfl
  rw [e]
  by_cases hwas : ((d.lns u).bad.contains i && Tab.get 0 (d.lns u).good i == 0) = true
  · rw [if_pos hwas]
    exact ⟨hok, hfault, hbad, fun h => by rw [h] at hwas; exact absurd hwas Bool.false_ne_true⟩
  · rw [if_neg hwas]
    obtain ⟨sok, sfault, slns⟩ := refReported_same (d.refFailed u i) u i
    refine foldl_keeps (P := fun e => bit (e.rd F.LANE_REFSTAT_OK u) i = false ∧ bit (e.rd F.LANE_REFSTAT_FAULT u) i = true ∧
      i ∈ (e.lns u).bad ∧ ((d.lns u).bad.contains i = false → d.hub.lost = false →
        Raised e (if u = 4 then 533 else pipeEvent u 32) (if u = 4 then 0 else i))) _ ?_ ⟨?_, ?_, ?_, fun _ hl => ?_⟩
    · rintro t r - ⟨hok, hfault, hbad, hraised⟩
      have m : RoleMove u r t (t.refEnds u i r) :=
        .ite _ (.ite _ ((RoleMove.refl u r t).roleLoss _ 11) ((RoleMove.refl u r t).attemptCut 11)) (.refl u r t)
      exact ⟨by rwa [m.rd _ _ _ _ rfl rfl], by rwa [m.rd _ _ _ _ rfl rfl], by rwa [m.bad],
        fun h hl => m.raised _ _ (refEvent_ref u) (hraised h hl)⟩
    · rwa [sok]
    · rwa [sfault]
    · rwa [slns]
    · exact raised_refReported (hlost.trans hl) i

end

end Sys2Proof.Machine
end

section
/-!
Test patterns (R244 to R248), and the commands of a lane's losses and tests, assembled.
-/
set_option Elab.async false -- few threads: each takes a stack of its own
namespace Sys2Proof.Machine

variable {a b d : Dev} {s : State} {u k r : Nat}

/-! ### Transmitter settings (R244) -/

theorem txfir_takes {w : Nat} (hk : u = 4 ∨ 6 ≤ k) (hw : firOk w = true) : (d.txfir u k w).rd F.LANE_TXFIR_PRE u k = slice w 3 0 ∧
    (d.txfir u k w).rd F.LANE_TXFIR_MAIN u k = slice w 13 8 ∧ (d.txfir u k w).rd F.LANE_TXFIR_POST u k = slice w 20 16 := by
  have e : d.txfir u k w = d.wrWord ⟨.LANE_TXFIR, u, k, 0⟩ w := if_neg (by simp only [hw, Bool.true_eq_false, or_false]; omega)
  have field : ∀ f ∈ RegId.LANE_TXFIR.info.flds, f.accAt u k = .rw → (d.wrWord ⟨.LANE_TXFIR, u, k, 0⟩ w).rd f u k = slice w f.hi f.lo :=
    fun f hf hacc => wrWord_rd_rw (l := ⟨.LANE_TXFIR, u, k, 0⟩) hf hacc
  rw [e]
  exact ⟨field F.LANE_TXFIR_PRE (by decide) rfl, field F.LANE_TXFIR_MAIN (by decide) rfl, field F.LANE_TXFIR_POST (by decide) rfl⟩

/-! ### The control of a test (R246, R247) -/

/-- The fields by which a lane shows how its test is set. -/
def prbsFlds : List Fld := [F.LANE_PRBS_CTL_PAT, F.LANE_PRBS_CTL_CHK_EN, F.LANE_PRBS_CTL_TRATE, F.LANE_PRBS_CTL_TEST, F.LANE_PRBS_STAT_REFUSED]

/-- From device `a` to device `d` the test of lane `k` is set as it was. -/
def PrbsSame (u k : Nat) (a d : Dev) : Prop := ∀ f ∈ prbsFlds, d.rd f u k = a.rd f u k

namespace PrbsSame

theorem refl (u k : Nat) (d : Dev) : PrbsSame u k d d := fun _ _ => rfl

theorem trans (h : PrbsSame u k a d) (k' : PrbsSame u k d b) : PrbsSame u k a b := fun f hf => (k' f hf).trans (h f hf)

theorem wr (h : PrbsSame u k a d) {g : Fld} {v p i j : Nat} (hg : ∀ f ∈ prbsFlds, f.reg ≠ g.reg ∨ f.lo ≠ g.lo := by decide) :
    PrbsSame u k a (d.wr g v p i j) := h.trans fun f hf => (hg f hf).elim rd_wr_of_reg rd_wr_of_lo

theorem ite (q : Prop) [Decidable q] {c : Dev} (h : PrbsSame u k a b) (k' : PrbsSame u k a c) : PrbsSame u k a (if q then b else c) := by
  split_ifs
  · exact h
  · exact k'

theorem putLane (h : PrbsSame u k a d) (x : LaneSt) : PrbsSame u k a (d.putLane u k x) := h.trans fun _ _ => putLane_rd ..

theorem updPipe (h : PrbsSame u k a d) (p : Nat) (g : PipeSt → PipeSt) : PrbsSame u k a (d.updPipe p g) := h.trans fun _ _ => rfl

theorem move (h : PrbsSame u k a d) (m : RoleMove u r d b) : PrbsSame u k a b := h.trans fun f hf => by
  have hfld : ∀ f ∈ prbsFlds, ownerField f = true ∧ roleMoved f = false := by decide
  exact m.rd f u k 0 (hfld f hf).1 (hfld f hf).2

end PrbsSame

/-- Whether a write of `LANE_PRBS_CTL` asks for a test that the lane refuses: a sensor lane in a take, or a rate not of its group. -/
def Dev.prbsRefused (d : Dev) (u k w : Nat) : Bool :=
  bit w 27 && (decide (u < 4) && decide (k < 6) && (d.slotOf u k).isSome && d.on F.PCTL_STAT_TAKE u && !d.on F.LANE_PRBS_CTL_TEST u k ||
    !trateOk u k (slice w 19 16))

/-- Whether the lane is in test after the write. -/
def Dev.prbsTest (d : Dev) (u k w : Nat) : Bool := if d.prbsRefused u k w then d.on F.LANE_PRBS_CTL_TEST u k else bit w 27

/-- The fields of `LANE_PRBS_CTL` taken, before the lane acts on them. -/
def Dev.prbsTaken (d : Dev) (u k w : Nat) : Dev :=
  let t := (((d.when (d.prbsRefused u k w) fun d => d.wr F.LANE_PRBS_STAT_REFUSED 1 u k).wr F.LANE_PRBS_CTL_CHK_EN (slice w 31 31) u k).wr
    F.LANE_PRBS_CTL_INV (slice w 29 29) u k).wr F.LANE_PRBS_CTL_TRATE (slice w 19 16) u k
  (t.wr F.LANE_PRBS_CTL_PAT (slice w 2 0) u k).wrb F.LANE_PRBS_CTL_TEST (d.prbsTest u k w) u k

theorem prbsTaken_shows (d : Dev) (u k w : Nat) : (d.prbsTaken u k w).rd F.LANE_PRBS_CTL_PAT u k = slice w 2 0 ∧
    (d.prbsTaken u k w).on F.LANE_PRBS_CTL_CHK_EN u k = bit w 31 ∧ (d.prbsTaken u k w).rd F.LANE_PRBS_CTL_TRATE u k = slice w 19 16 ∧
    (d.prbsTaken u k w).on F.LANE_PRBS_CTL_TEST u k = d.prbsTest u k w ∧
    (d.prbsRefused u k w = true → (d.prbsTaken u k w).on F.LANE_PRBS_STAT_REFUSED u k = true) := by
  unfold Dev.prbsTaken
  extract_lets t
  have hchk : t.rd F.LANE_PRBS_CTL_CHK_EN u k = slice w 31 31 :=
    (rd_wr_of_lo (by decide)).trans ((rd_wr_of_lo (by decide)).trans (rd_wr_of_lt (slice_lt w 31 31)))
  have htrate : t.rd F.LANE_PRBS_CTL_TRATE u k = slice w 19 16 := rd_wr_of_lt (slice_lt w 19 16)
  refine ⟨(rd_wr_of_lo (by decide)).trans (rd_wr_of_lt (slice_lt w 2 0)), ?_,
    (rd_wr_of_lo (by decide)).trans ((rd_wr_of_lo (by decide)).trans htrate), on_wrb rfl, fun hr => ?_⟩
  · rw [on_wrb_of_lo (by decide), on_of_rd (rd_wr_of_lo (by decide)), Dev.on, hchk, slice_eq_bit]
  · have hrefused : t.on F.LANE_PRBS_STAT_REFUSED u k = true := by
      have hin : (d.when (d.prbsRefused u k w) fun d => d.wr F.LANE_PRBS_STAT_REFUSED 1 u k).on F.LANE_PRBS_STAT_REFUSED u k = true := by
        rw [hr]
        exact on_wrb (b := true) rfl
      exact (on_of_rd ((rd_wr_of_reg (by decide)).trans ((rd_wr_of_reg (by decide)).trans (rd_wr_of_reg (by decide))))).trans hin
    exact (on_of_rd ((rd_wr_of_reg (by decide)).trans (rd_wr_of_reg (by decide)))).trans hrefused

/-- What the lane does with the fields changes none of them; a test that begins takes the lane out of its role. -/
theorem prbsCtl_after (d : Dev) (u k w : Nat) : PrbsSame u k (d.prbsTaken u k w) (d.prbsCtl roleOwner u k w) ∧
    (d.prbsTest u k w = true → d.on F.LANE_PRBS_CTL_TEST u k = false → (d.prbsCtl roleOwner u k w).stage u k = 9) := by
  unfold Dev.prbsCtl
  extract_lets sensor was chk slot taken refused test d₁ d₂ d₃ d₄ d₅ d₆ x d₇ d₈ d₉
  have h₃ : PrbsSame u k (d.prbsTaken u k w) d₃ := .refl u k d₃
  have h₄ : PrbsSame u k (d.prbsTaken u k w) d₄ := .ite _ h₃ h₃.wr.wr
  have h₅ : PrbsSame u k (d.prbsTaken u k w) d₅ := .ite _ h₄.wr.wr.wr.wr.wr.wr h₄
  have h₆ : PrbsSame u k (d.prbsTaken u k w) d₆ := .ite _ h₅ h₅.wr
  have h₇ : PrbsSame u k (d.prbsTaken u k w) d₇ := .ite _ h₆ (h₆.putLane _)
  have h₈ : PrbsSame u k (d.prbsTaken u k w) d₈ := .ite _ (h₇.updPipe u _) (.ite _ (h₇.updPipe u _) h₇)
  have h₉ : PrbsSame u k (d.prbsTaken u k w) d₉ := by
    unfold d₉ slot
    cases d.slotOf u k with
    | none => exact h₈
    | some r =>
      have m := RoleMove.refl u r d₈
      exact .ite _ (h₈.move (m.roleLoss k 14)) (.ite _ (h₈.move (m.attemptCut 14)) h₈)
  refine ⟨.ite _ h₉.wr (.ite _ (h₈.putLane _).wr h₈), fun ht hw => ?_⟩
  have hin : (d.prbsTest u k w && !d.on F.LANE_PRBS_CTL_TEST u k) = true := by rw [ht, hw]; rfl
  exact (congrArg (fun t : Dev => t.stage u k) (if_pos hin)).trans (stage_setStage (by decide))

theorem prbsCtl_shows (d : Dev) (u k w : Nat) : (d.prbsCtl roleOwner u k w).rd F.LANE_PRBS_CTL_PAT u k = slice w 2 0 ∧
    (d.prbsCtl roleOwner u k w).on F.LANE_PRBS_CTL_CHK_EN u k = bit w 31 ∧
    (d.prbsCtl roleOwner u k w).rd F.LANE_PRBS_CTL_TRATE u k = slice w 19 16 ∧
    (bit w 27 = true → trateOk u k (slice w 19 16) = false → (d.prbsCtl roleOwner u k w).on F.LANE_PRBS_STAT_REFUSED u k = true ∧
      (d.prbsCtl roleOwner u k w).on F.LANE_PRBS_CTL_TEST u k = d.on F.LANE_PRBS_CTL_TEST u k) ∧
    (bit w 27 = true → trateOk u k (slice w 19 16) = true → (u = 4 ∨ d.on F.PCTL_STAT_TAKE u = false ∨ 6 ≤ k) →
      (d.prbsCtl roleOwner u k w).on F.LANE_PRBS_CTL_TEST u k = true ∧
        (d.on F.LANE_PRBS_CTL_TEST u k = false → (d.prbsCtl roleOwner u k w).stage u k = 9)) := by
  obtain ⟨hpat, hchk, htrate, htest, hrefused⟩ := prbsTaken_shows d u k w
  obtain ⟨same, hstage⟩ := prbsCtl_after d u k w
  refine ⟨(same _ (by decide)).trans hpat, (on_of_rd (same _ (by decide))).trans hchk, (same _ (by decide)).trans htrate,
    fun hb ht => ?_, fun hb ht hfree => ?_⟩
  · have hr : d.prbsRefused u k w = true := by simp [Dev.prbsRefused, hb, ht]
    exact ⟨(on_of_rd (same _ (by decide))).trans (hrefused hr), ((on_of_rd (same _ (by decide))).trans htest).trans (if_pos hr)⟩
  · have hr : d.prbsRefused u k w = false := by
      have htaken : (decide (u < 4) && decide (k < 6) && (d.slotOf u k).isSome && d.on F.PCTL_STAT_TAKE u &&
          !d.on F.LANE_PRBS_CTL_TEST u k) = false := by
        rcases hfree with hu | hp | h6
        · simp [hu]
        · simp [hp]
        · have hk : ¬ k < 6 := by omega
          simp [hk]
      simp only [Dev.prbsRefused, htaken, ht, Bool.not_true, Bool.or_self, Bool.and_false]
    have hon : d.prbsTest u k w = true := by rw [Dev.prbsTest, hr, hb]; rfl
    exact ⟨((on_of_rd (same _ (by decide))).trans htest).trans hon, hstage hon⟩

/-! ### The checker (R247) -/

theorem lane_bump {c : Cnt} {p i v m : Nat} : (d.bump c p i).lane v m = d.lane v m := by
  obtain ⟨g, hg⟩ := bumpBy_parts d 1 c p i 0
  have parts : d.bump c p i = { d with regs := g } := hg
  rw [parts]
  rfl

theorem prbsBit_effect (d : Dev) (u k : Nat) (x : Bool) :
    ((d.prbsBit u k x).lane u k).chk = ((d.lane u k).chk.rx (d.rd F.LANE_PRBS_CTL_PAT u k) (x != d.on F.LANE_PRBS_CTL_INV u k)).2 ∧
      ∀ f : Fld, f.reg = .LANE_PRBS_CTL → (d.prbsBit u k x).rd f u k = d.rd f u k := by
  generalize hx : (d.lane u k).chk.rx (d.rd F.LANE_PRBS_CTL_PAT u k) (x != d.on F.LANE_PRBS_CTL_INV u k) = y
  obtain ⟨seen, c⟩ := y
  generalize he : d.putLane u k { d.lane u k with chk := c } = e
  have hlane : (e.lane u k).chk = c := by rw [← he, lane_putLane_same]
  have hrd : ∀ f : Fld, e.rd f u k = d.rd f u k := fun f => by rw [← he, putLane_rd]
  have bits : ∀ (t : Dev) (f : Fld), f.reg = .LANE_PRBS_CTL → (t.bump C.LANE_PRBS_BITS u k).rd f u k = t.rd f u k := fun t f hf =>
    bumpBy_rd (by rw [hf]; decide)
  have errs : ∀ (t : Dev) (f : Fld), f.reg = .LANE_PRBS_CTL → (t.bump C.LANE_PRBS_ERR u k).rd f u k = t.rd f u k := fun t f hf =>
    bumpBy_rd (by rw [hf]; decide)
  simp only [Dev.prbsBit, hx, he]
  cases seen with
  | none => exact ⟨hlane, fun f _ => hrd f⟩
  | right => exact ⟨by rw [lane_bump, hlane], fun f hf => (bits _ f hf).trans (hrd f)⟩
  | wrong => exact ⟨by rw [lane_bump, lane_bump, hlane], fun f hf => (errs _ f hf).trans ((bits _ f hf).trans (hrd f))⟩
  | lost =>
    refine ⟨?_, fun f hf => (rd_wr_of_reg (by rw [hf]; decide)).trans ((errs _ f hf).trans ((bits _ f hf).trans (hrd f)))⟩
    change (((e.bump C.LANE_PRBS_BITS u k).bump C.LANE_PRBS_ERR u k).lane u k).chk = c
    rw [lane_bump, lane_bump, hlane]

/-- The checker compares the bits in turn. -/
theorem prbsBits_chk (l : List Bool) (d : Dev) : ((l.foldl (fun d x => d.prbsBit u k x) d).lane u k).chk =
    l.foldl (fun c x => (c.rx (d.rd F.LANE_PRBS_CTL_PAT u k) (x != d.on F.LANE_PRBS_CTL_INV u k)).2) (d.lane u k).chk := by
  induction l generalizing d with
  | nil => rfl
  | cons x l ih =>
    obtain ⟨hchk, hrd⟩ := prbsBit_effect d u k x
    rw [List.foldl_cons, ih, List.foldl_cons, hchk, hrd _ rfl, on_of_rd (hrd F.LANE_PRBS_CTL_INV rfl)]

/-- A lane that is neither looped nor a flex lane checks the bits of its wire. -/
theorem prbsIn_wire (rx : List Bool) (hl : d.on F.LANE_PRBS_CTL_LOOP u k = false ∨ d.on F.LANE_PRBS_CTL_GEN_EN u k = false) (hk : u = 4 ∨ k < 6) :
    d.prbsIn u k rx = (rx, d) := by
  have hloop : ¬ (d.on F.LANE_PRBS_CTL_LOOP u k && d.on F.LANE_PRBS_CTL_GEN_EN u k) = true := by
    rcases hl with h | h <;> simp [h]
  have hflip : (!decide (u = 4) && decide (6 ≤ k)) = false := by
    rcases hk with h | h
    · simp [h]
    · have h6 : ¬ 6 ≤ k := by omega
      simp [h6]
  unfold Dev.prbsIn
  rw [if_neg hloop]
  simp [hflip]

theorem prbsLock_shows (rx : List Bool) (ht : d.on F.LANE_PRBS_CTL_TEST u k = true) (hc : d.on F.LANE_PRBS_CTL_CHK_EN u k = true)
    (hl : d.on F.LANE_PRBS_CTL_LOOP u k = false ∨ d.on F.LANE_PRBS_CTL_GEN_EN u k = false) (hk : u = 4 ∨ k < 6) :
    (d.prbsLock u k rx).on F.LANE_PRBS_STAT_LOCK u k =
      (rx.foldl (fun c x => (c.rx (d.rd F.LANE_PRBS_CTL_PAT u k) (x != d.on F.LANE_PRBS_CTL_INV u k)).2) (d.lane u k).chk).lock := by
  simp only [Dev.prbsLock, ht, hc, Bool.and_self, if_true, prbsIn_wire rx hl hk]
  exact (on_wrb rfl).trans (congrArg PrbsChk.lock (prbsBits_chk rx d))

theorem prbsLock_none (rx : List Bool) (h : d.on F.LANE_PRBS_CTL_TEST u k = false ∨ d.on F.LANE_PRBS_CTL_CHK_EN u k = false) :
    d.prbsLock u k rx = d := by
  refine if_neg ?_
  rcases h with h | h <;> simp [h]

/-! ### The snapshot (R248) -/

/-- The registers of the snapshot. -/
def snapRegs : List RegId := [.LANE_SNAP_ERR_LO, .LANE_SNAP_ERR_HI, .LANE_SNAP_BITS_LO, .LANE_SNAP_BITS_HI]

/-- The counters of lane `k` copied. -/
def Dev.snapLane (d : Dev) (u k : Nat) : Dev :=
  let d := (d.wr F.LANE_SNAP_ERR_LO_CNT_LO (d.rd F.LANE_PRBS_ERR_LO_CNT_LO u k) u k).wr
    F.LANE_SNAP_ERR_HI_CNT_HI (d.rd F.LANE_PRBS_ERR_HI_CNT_HI u k) u k
  let d := (d.wr F.LANE_SNAP_ERR_HI_SAT (d.rd F.LANE_PRBS_ERR_HI_SAT u k) u k).wr
    F.LANE_SNAP_BITS_LO_CNT_LO (d.rd F.LANE_PRBS_BITS_LO_CNT_LO u k) u k
  (d.wr F.LANE_SNAP_BITS_HI_CNT_HI (d.rd F.LANE_PRBS_BITS_HI_CNT_HI u k) u k).wr
    F.LANE_SNAP_BITS_HI_SAT (d.rd F.LANE_PRBS_BITS_HI_SAT u k) u k

theorem laneSnap_eq (d : Dev) (u mask : Nat) :
    d.laneSnap u mask = (bitsOf mask (if u = 4 then 6 else 12)).foldl (fun d k => d.snapLane u k) d := rfl

theorem snapLane_rd {f : Fld} {i : Nat} (h : f.reg ∉ snapRegs ∨ i ≠ k) : (d.snapLane u k).rd f u i = d.rd f u i := by
  have skip : ∀ {e : Dev} {g : Fld} {v : Nat}, g.reg ∈ snapRegs → (e.wr g v u k).rd f u i = e.rd f u i := fun hg =>
    h.elim (fun hf => rd_wr_of_mem hf hg) fun hi => Dev.rd_wr_i _ _ _ _ _ _ _ _ _ _ hi
  unfold Dev.snapLane
  simp only [skip (g := F.LANE_SNAP_ERR_LO_CNT_LO) (by decide), skip (g := F.LANE_SNAP_ERR_HI_CNT_HI) (by decide),
    skip (g := F.LANE_SNAP_ERR_HI_SAT) (by decide), skip (g := F.LANE_SNAP_BITS_LO_CNT_LO) (by decide),
    skip (g := F.LANE_SNAP_BITS_HI_CNT_HI) (by decide), skip (g := F.LANE_SNAP_BITS_HI_SAT) (by decide)]

theorem snapLane_shows (d : Dev) (u k : Nat) : (d.snapLane u k).rd F.LANE_SNAP_ERR_LO_CNT_LO u k = d.rd F.LANE_PRBS_ERR_LO_CNT_LO u k % 2 ^ 32 ∧
    (d.snapLane u k).rd F.LANE_SNAP_BITS_LO_CNT_LO u k = d.rd F.LANE_PRBS_BITS_LO_CNT_LO u k % 2 ^ 32 ∧
    (d.snapLane u k).rd F.LANE_SNAP_BITS_HI_SAT u k = d.rd F.LANE_PRBS_BITS_HI_SAT u k % 2 := by
  have reg : ∀ {e : Dev} {f g : Fld} {v : Nat}, f.reg ≠ g.reg → (e.wr g v u k).rd f u k = e.rd f u k := fun h => rd_wr_of_reg h
  have lo : ∀ {e : Dev} {f g : Fld} {v : Nat}, f.lo ≠ g.lo → (e.wr g v u k).rd f u k = e.rd f u k := fun h => rd_wr_of_lo h
  unfold Dev.snapLane
  extract_lets d₁ d₂
  have hbits : d₁.rd F.LANE_PRBS_BITS_LO_CNT_LO u k = d.rd F.LANE_PRBS_BITS_LO_CNT_LO u k := (reg (by decide)).trans (reg (by decide))
  have hsat : d₂.rd F.LANE_PRBS_BITS_HI_SAT u k = d.rd F.LANE_PRBS_BITS_HI_SAT u k :=
    (reg (by decide)).trans ((reg (by decide)).trans ((reg (by decide)).trans (reg (by decide))))
  have herr₁ : d₁.rd F.LANE_SNAP_ERR_LO_CNT_LO u k = d.rd F.LANE_PRBS_ERR_LO_CNT_LO u k % 2 ^ 32 := (reg (by decide)).trans (Dev.rd_wr ..)
  have herr₂ : d₂.rd F.LANE_SNAP_ERR_LO_CNT_LO u k = d₁.rd F.LANE_SNAP_ERR_LO_CNT_LO u k := (reg (by decide)).trans (reg (by decide))
  have hbits₂ : d₂.rd F.LANE_SNAP_BITS_LO_CNT_LO u k = d.rd F.LANE_PRBS_BITS_LO_CNT_LO u k % 2 ^ 32 := by
    rw [← hbits]
    exact Dev.rd_wr ..
  refine ⟨(reg (by decide)).trans ((reg (by decide)).trans (herr₂.trans herr₁)),
    (reg (by decide)).trans ((reg (by decide)).trans hbits₂), ?_⟩
  rw [← hsat]
  exact Dev.rd_wr ..

theorem laneSnap_shows {mask : Nat} (hk : k < laneCount u) (hm : bit mask k = true) :
    (d.laneSnap u mask).rd F.LANE_SNAP_ERR_LO_CNT_LO u k = d.rd F.LANE_PRBS_ERR_LO_CNT_LO u k % 2 ^ 32 ∧
    (d.laneSnap u mask).rd F.LANE_SNAP_BITS_LO_CNT_LO u k = d.rd F.LANE_PRBS_BITS_LO_CNT_LO u k % 2 ^ 32 ∧
    (d.laneSnap u mask).rd F.LANE_SNAP_BITS_HI_SAT u k = d.rd F.LANE_PRBS_BITS_HI_SAT u k % 2 := by
  have hmem : k ∈ bitsOf mask (if u = 4 then 6 else 12) := List.mem_filter.2 ⟨List.mem_range.2 hk, hm⟩
  have hnodup : (bitsOf mask (if u = 4 then 6 else 12)).Nodup := List.nodup_range.filter _
  rw [laneSnap_eq]
  refine foldl_turn (P := fun e => ∀ f : Fld, f.reg ∉ snapRegs → e.rd f u k = d.rd f u k)
    (Q := fun e => e.rd F.LANE_SNAP_ERR_LO_CNT_LO u k = d.rd F.LANE_PRBS_ERR_LO_CNT_LO u k % 2 ^ 32 ∧
      e.rd F.LANE_SNAP_BITS_LO_CNT_LO u k = d.rd F.LANE_PRBS_BITS_LO_CNT_LO u k % 2 ^ 32 ∧
      e.rd F.LANE_SNAP_BITS_HI_SAT u k = d.rd F.LANE_PRBS_BITS_HI_SAT u k % 2) hmem hnodup ?_ ?_ ?_ fun _ _ => rfl
  · exact fun e j _ _ h f hf => (snapLane_rd (.inl hf)).trans (h f hf)
  · intro e h
    obtain ⟨herr, hbits, hsat⟩ := snapLane_shows e u k
    exact ⟨by rw [herr, h _ (by decide)], by rw [hbits, h _ (by decide)], by rw [hsat, h _ (by decide)]⟩
  · rintro e j - hj ⟨herr, hbits, hsat⟩
    exact ⟨(snapLane_rd (.inr hj.symm)).trans herr, (snapLane_rd (.inr hj.symm)).trans hbits, (snapLane_rd (.inr hj.symm)).trans hsat⟩

/-! ### The obligation -/

/-- A command on a unit's registers that reach them. -/
theorem does_of_bar2_unsettled {i : Instr} {blk : BlockId} {p : Nat} {f : Dev → Dev} {q : Dev → Prop} (ha : s.awake)
    (hu : s.dev.reaches blk p = true) (hs : ∀ t, q t → q (settle t)) (e : exec i s = bar2 blk p s f) (hq : q (f s.dev)) : Does i s q :=
  ⟨f s.dev, e.trans (bar2_reach ha hu f), hs _ hq⟩

/-- The losses of a READY role that a command on one of its lanes detects (R236). -/
theorem laneLosses {u : Unit5} {k : Fin 12} (ha : s.awake) (hk : k.val < laneCount u) (hs : s.dev.slotOf u k = some r)
    (h4 : s.dev.roleState u r = 4) (he : (s.dev.role u r).episode = false) :
    ((s.dev.roleKind u r = 1 ∨ s.dev.roleKind u r = 3 ∨ s.dev.roleKind u r = 4 ∨ s.dev.roleKind u r = 6) →
      Does (.laneLoss u k .noSig) s (fun t => s.dev.roleLostBy t u r 1) ∧ Does (.laneLoss u k .cdr) s fun t => s.dev.roleLostBy t u r 2) ∧
    ((s.dev.roleKind u r = 3 ∨ s.dev.roleKind u r = 4) → Does (.laneLoss u k .pcs) s fun t => s.dev.roleLostBy t u r 4) ∧
    (s.dev.roleKind u r = 5 → Does (.laneLoss u k .pll) s fun t => s.dev.roleLostBy t u r 2) ∧
    (∀ raw slot b, (s.dev.roleKind u r = 1 ∨ s.dev.roleKind u r = 6) → trainOf (s.dev.laneBlk u k raw) = some b → b.crcOk = true →
      Does (.trainingBlockReceived u k ⟨raw, slot⟩) s fun t => s.dev.roleLostBy t u r 10) ∧
    (∀ raw, s.dev.roleKind u r ≠ 2 → s.dev.roleKind u r ≠ 5 → blkValid (s.dev.laneBlk u k raw) = false →
      15 ≤ ((s.dev.lane u k).hdrs.take 63 |>.filter fun v => !v).length →
      Does (.dataBlockReceived u k raw) s fun t => s.dev.roleLostBy t u r 12) := by
  have lost : ∀ {i : Instr} {f : Dev → Dev} {c : Nat}, exec i s = onLane u k s f → s.dev.roleLostBy (f s.dev) u r c →
      Does i s fun t => s.dev.roleLostBy t u r c := fun e h => does_onLane ha hk (fun _ h => h) e h
  refine ⟨fun hl => ?_, fun hl => lost rfl (laneGone_pcs hs h4 he hl), fun hl => lost rfl (laneGone_pll hs h4 he hl),
    fun raw slot b hl ht hc => lost rfl (laneRx_trainLoss hs h4 he hl ht hc),
    fun raw h2 h5 hv h15 => lost rfl (laneRx_headerLoss hs h4 he (not_or.2 ⟨h2, h5⟩) hv h15)⟩
  obtain ⟨hsig, hcdr⟩ := laneGone_clock_loses hs h4 he hl
  exact ⟨lost rfl hsig, lost rfl hcdr⟩

/-- Settles O23: the causes a role's kind has lose it from READY, the timer gives it up, the monitor's verdict is shown and reported, and the
tests take what they may. -/
theorem laneLossAndTest : Obligations.LaneLossAndTest := by
  unfold Obligations.LaneLossAndTest
  intro s ha
  refine ⟨fun u k r hk hs h4 he => laneLosses ha hk hs h4 he, fun u k hk => does_onLane ha hk (fun _ h => h) rfl (laneGone_sig ..),
    fun u r hr => ⟨fun he hd => does_of_runIf_unsettled ha (fun _ h => h) (decide_eq_true hr) rfl ?_,
      fun h => exec_of_runIf ha (decide_eq_true hr) rfl (roleExpire_none h)⟩,
    fun u mask hu => ⟨fun r hr hm h he => does_of_bar2_unsettled ha hu (fun _ h => h) rfl (laneRetrain_loses hr hm h he),
      fun h => (bar2_reach ha hu _).trans (by rw [laneRetrain_none h])⟩,
    fun p => ⟨fun h2 h4 he => does_of_run_unsettled ha (fun _ h => h) rfl ?_, fun h => exec_of_run ha rfl (if_neg ?_)⟩,
    fun u i good h => exec_of_run ha rfl (if_pos ?_),
    fun u i hf hd => ⟨does_of_run_unsettled ha (fun _ h => h) rfl (refCheck_good hf hd i.isLt),
      does_of_run_unsettled ha (fun _ h => h) rfl (refCheck_bad hf hd i.isLt)⟩,
    fun u k w hk hu => ⟨fun hl hw => does_of_bar2If_unsettled ha (fun _ h => h) (decide_eq_true hk) hu rfl (txfir_takes hl hw),
      fun h => exec_of_bar2If ha (decide_eq_true hk) hu rfl (if_pos h),
      does_of_bar2If_unsettled ha (fun _ h => h) (decide_eq_true hk) hu rfl (prbsCtl_shows ..)⟩,
    fun u k n sent flips hk => ⟨fun ht hc hl hu => does_onLane ha hk (fun _ h => h) rfl (prbsLock_shows _ ht hc hl hu),
      fun h => exec_onLane ha hk rfl (prbsLock_none _ h)⟩,
    fun u mask hu => does_of_bar2_unsettled ha hu (fun _ h => h) rfl fun k hk hm => laneSnap_shows hk hm⟩
  · obtain ⟨hdown, hstate, hraised⟩ := roleExpire_shows he hd
    exact ⟨hdown, fun _ => hstate, hraised⟩
  · simp only [h2, h4, and_self, if_true]
    obtain ⟨hstate, hcause, -⟩ := roleLoss_lostBy (a := s.dev) he (cause := 1) (by decide) rfl ((s.dev.roleLanes p 0).headD 0)
    exact ⟨hstate, hcause⟩
  · rintro ⟨h2, h4⟩
    simp [h2, h4] at h
  · simpa using h

end Sys2Proof.Machine
end

section
/-!
A burst of the D-PHY lanes that ends with its payload (R254, R261): the footer that is not there reads 0, and a payload whose CRC-16 is 0 passes.
-/
namespace Sys2Proof.Machine

/-- A long packet acts while the sensor role carries data (R262). -/
theorem exec_csi2LongPacket_flows {s : State} {p : Pipe} (ha : s.awake) (hf : s.dev.sfeFlows p = true) (k : CsiPacket) :
    exec (.csi2LongPacket p k) s = .next (s.after (s.dev.longPacket p k)) := exec_of_run ha rfl (if_pos hf)

/-- A burst without a footer carries a sound line where the CRC-16 of its payload is 0. -/
theorem longPacket_footerless {d : Dev} {p x : Nat} {lanes : List (List Byte)} {bs : List Byte} (hmode : d.smode p = 2)
    (hbs : d.burstBytes p lanes = bs) (hx : csiHeader (ofLeBytes (bs.take 4)) = (.ok, x)) (hdt : 0x10 ≤ hdrDt x)
    (hlen : bs.length = 4 + hdrWc x) (hcrc : crc16 (bs.drop 4) = 0) :
    d.longPacket p (.burst lanes) = d.longBody p (hdrVc x) (hdrDt x) (hdrWc x) none (bs.drop 4) := by
  have hbody : (bs.drop 4).take (hdrWc x) = bs.drop 4 := List.take_of_length_le (by rw [List.length_drop]; omega)
  have hfooter : ofLeBytes ((bs.drop (4 + hdrWc x)).take 2) = 0 := by rw [← hlen, List.drop_length]; rfl
  have hwhole : (bs.drop 4).length = hdrWc x := by rw [List.length_drop]; omega
  simp [Dev.longPacket, hmode, hbs, hx, hbody, hfooter, hwhole, hcrc, packetError, Dev.eccThen, Nat.not_lt.2 hdt]

/-- The sensor role of pipe 0 is READY in DPHY mode with one data lane, and a frame of RAW8 lines of four samples is open on virtual channel 0. -/
def dphyFrameOpen : State where
  dev := (((((((({} : Dev).wr F.LANE_SCFG_SMODE 2).wr F.LANE_ROLE_STAT_STATE 4).wr F.SFE_VCG_EN 1).wr F.SFE_VCG_DT 0x2A).wr
    F.SFE_VCG_WIDTH 4).wr F.SFE_VCL_LINES 1).updSfe 0 fun x => { x with dphyOk := true }).putVc 0 0 { open_ := true }

/-- The header of a RAW8 packet of four bytes on virtual channel 0, then a payload whose CRC-16 is 0, and no footer. -/
def footerlessBurst : List Byte := [0x2A, 4, 0, 0x33, 0xFF, 0xFF, 0, 0]

theorem burstBytes_footerlessBurst : dphyFrameOpen.dev.burstBytes 0 [footerlessBurst] = footerlessBurst := by decide

theorem csiHeader_footerlessBurst : csiHeader (ofLeBytes (footerlessBurst.take 4)) = (.ok, 0x42A) := by decide

/-- The line stands in the frame as a sound one. -/
theorem longPacket_footerlessBurst : ((dphyFrameOpen.dev.longPacket 0 (.burst [footerlessBurst])).vc 0 0).damaged = false := by
  rw [longPacket_footerless (by decide) burstBytes_footerlessBurst csiHeader_footerlessBurst (by decide) (by decide) (by decide)]
  decide

/-- Refutes O24: its clause of the D-PHY burst has every line of a burst shorter than header, payload and footer mark its frame, but the check
of the packet CRC reads the bytes of a footer that is not there as 0, and the CRC-16 of a payload can be 0. From `dphyFrameOpen`, the eight bytes
of `footerlessBurst` are a whole payload, and leave the frame unmarked. -/
theorem not_sensorPackets : ¬ Obligations.SensorPackets := by
  unfold Obligations.SensorPackets
  intro h
  obtain ⟨-, -, -, -, hburst, -⟩ := h dphyFrameOpen 0 rfl
  have hflows : dphyFrameOpen.dev.sfeFlows 0 = true := by decide
  have hd := hburst [footerlessBurst] footerlessBurst 0 hflows (by decide) burstBytes_footerlessBurst.symm
  rw [csiHeader_footerlessBurst] at hd
  obtain ⟨-, -, hdamaged⟩ := (hd rfl (by decide) (by decide) (by decide) (by decide) (by decide) (by decide) (by decide)).of_exec
    (exec_csi2LongPacket_flows rfl hflows _)
  rw [settle_vc, Fin.val_zero, longPacket_footerlessBurst] at hdamaged
  exact Bool.false_ne_true (hdamaged (by decide))

end Sys2Proof.Machine
end

section
/-!
What the operations on a Veraison unit leave (R293 to R303): its record, its banks and the registers that show them.
-/
namespace Sys2Proof.Machine

variable {P : Dev → Prop} {d e : Dev} {f : Fld} {x : VrsTab} {y : VrsUnit} {p u t v i j : Nat}

/-! ### The unit stored -/

@[simp] theorem putVru_vru : (d.putVru p u y).vru p u = y := by
  rw [Dev.putVru, Dev.vru, updPipe_pipe_same]
  exact Tab.get_set_same ..

@[simp] theorem putVru_rd : (d.putVru p u y).rd f v i j = d.rd f v i j := rfl
@[simp] theorem putVru_on : (d.putVru p u y).on f v i j = d.on f v i j := rfl
@[simp] theorem vrsShow_vru {q w : Nat} : (d.vrsShow q w).vru p u = d.vru p u := rfl
@[simp] theorem vrsShow_hub : (d.vrsShow p u).hub = d.hub := rfl
@[simp] theorem settle_vru : (settle d).vru p u = d.vru p u := rfl

@[simp] theorem raise_vru (n syn : Nat) : (d.raise n syn).vru p u = d.vru p u := by rw [Dev.vru, raise_pipe, Dev.vru]

@[simp] theorem bump_vru (c : Cnt) (q : Nat) : (d.bump c q i j).vru p u = d.vru p u := by
  obtain ⟨r, h⟩ := bumpBy_parts d 1 c q i j
  rw [Dev.bump, h]
  rfl

/-! ### Banks -/

/-- Storing a bank shows which banks are complete and which are bad, and writes nothing else. -/
theorem vrsShow_rd (hf : f.reg ≠ .VRS_BANK_STAT ∨ f.lo ≠ F.VRS_BANK_STAT_COMPLETE.lo ∧ f.lo ≠ F.VRS_BANK_STAT_BAD.lo) :
    (d.vrsShow p u).rd f v i j = d.rd f v i j := by
  unfold Dev.vrsShow
  cases hf with
  | inl hr => exact (rd_wr_of_reg hr).trans (rd_wr_of_reg hr)
  | inr hl =>
    obtain ⟨hcomplete, hbad⟩ := hl
    exact (rd_wr_of_lo hbad).trans (rd_wr_of_lo hcomplete)

/-- The inactive bank is chosen by `ACTIVE` among the unit's tables. -/
theorem vrsBack_congr (ht : (e.vru p u).tabs = (d.vru p u).tabs)
    (ha : e.rd F.VRS_BANK_STAT_ACTIVE p u = d.rd F.VRS_BANK_STAT_ACTIVE p u) : e.vrsBack p u t = d.vrsBack p u t := by
  simp only [Dev.vrsBack, Dev.vrsTab, Dev.vrsActive, ht, ha]

theorem putBack_active : (d.putBack p u t x).rd F.VRS_BANK_STAT_ACTIVE p u = d.rd F.VRS_BANK_STAT_ACTIVE p u := vrsShow_rd (by decide)

theorem putBack_tabs : ((d.putBack p u t x).vru p u).tabs = Tab.set {} (d.vru p u).tabs (2 * t + (1 - d.vrsActive p u t)) x := by
  rw [Dev.putBack, vrsShow_vru, putVru_vru]

@[simp] theorem putBack_hub : (d.putBack p u t x).hub = d.hub := rfl

@[simp] theorem putBack_back : (d.putBack p u t x).vrsBack p u t = x := by
  rw [Dev.vrsBack, Dev.vrsTab, Dev.vrsActive, putBack_active, putBack_tabs]
  exact Tab.get_set_same ..

/-- The banks of different tables have different places. -/
theorem putBack_back_ne {n : Nat} (h : n ≠ t) : (d.putBack p u t x).vrsBack p u n = d.vrsBack p u n := by
  rw [Dev.vrsBack, Dev.vrsTab, Dev.vrsActive, putBack_active, putBack_tabs]
  exact Tab.get_set_other _ _ _ (by omega)

/-! ### What table words and uploads leave alone -/

/-- The property stands whatever table words and uploads change: units, the register that shows their banks, and events. -/
def VrsKeeps (P : Dev → Prop) : Prop :=
  (∀ {d : Dev} {f : Fld} {v p i j : Nat}, f.reg = .VRS_BANK_STAT → P d → P (d.wr f v p i j)) ∧
    (∀ {d : Dev} (p u : Nat) (y : VrsUnit), P d → P (d.putVru p u y)) ∧ ∀ {d : Dev} (n syn : Nat), P d → P (d.raise n syn)

namespace VrsKeeps

variable (k : VrsKeeps P)
include k

theorem bank (hf : f.reg = .VRS_BANK_STAT) (h : P d) : P (d.wr f v p i j) := by
  obtain ⟨bank, -, -⟩ := k
  exact bank hf h

theorem putVru (h : P d) (p u : Nat) (y : VrsUnit) : P (d.putVru p u y) := by
  obtain ⟨-, put, -⟩ := k
  exact put p u y h

theorem raise (h : P d) (n syn : Nat) : P (d.raise n syn) := by
  obtain ⟨-, -, raise⟩ := k
  exact raise n syn h

theorem shown (h : P d) : P (d.vrsShow p u) := k.bank rfl (k.bank rfl h)

theorem putBack (h : P d) : P (d.putBack p u t x) := k.shown (k.putVru h p u _)

theorem word (h : P d) (t w : Nat) : P (d.vrsWord p u t w) := by
  unfold Dev.vrsWord
  dsimp only
  split_ifs
  · exact k.bank rfl h
  · exact h
  · exact k.bank rfl h
  · exact k.putBack h
  · exact k.raise (k.putBack h) _ _

theorem up (h : P d) (w : Nat) : P (d.vrsUp p u w) := by
  unfold Dev.vrsUp
  extract_lets y n ok d₁
  split
  · split
    · exact k.word h _ w
    · exact h
  · have h₁ : P d₁ := k.putVru h p u _
    split_ifs
    · exact k.bank rfl h₁
    · exact k.putBack h₁
    · exact h₁

end VrsKeeps

/-- Casks are not among it. -/
theorem vrsKeeps_cask {k : Nat} (x : Cask) : VrsKeeps fun d => d.cask u k = x :=
  ⟨fun _ h => h, fun _ n y h => (cask_updPipe (fun s => { s with vrs := Tab.set {} s.vrs n y }) fun _ => rfl).trans h,
    fun _ _ h => (raise_cask _ _).trans h⟩

end Sys2Proof.Machine
end

section
/-!
The commands of a Veraison unit's tables (R295 to R308): words written through `VRS_TPORT`, bank control and table reads.
-/
namespace Sys2Proof.Machine

variable {s : State} {d : Dev} {f : Fld} {flaw : Flaw} {p u t w v i j mask : Nat}

/-! ### A word for a table (R295, R297, R304) -/

theorem vrsWord_held (hh : d.on F.VRS_BANK_STAT_HELD p u = true) : d.vrsWord p u t w = d.wr F.VRS_BANK_STAT_REFUSED 1 p u := if_pos hh

theorem vrsWord_bad (hh : d.on F.VRS_BANK_STAT_HELD p u = false) (hb : (d.vrsBack p u t).bad = true) : d.vrsWord p u t w = d := by
  simp [Dev.vrsWord, hh, hb]

section

variable (hh : d.on F.VRS_BANK_STAT_HELD p u = false) (hb : (d.vrsBack p u t).bad = false)
include hh hb

theorem vrsWord_extra (hc : (d.vrsBack p u t).complete t = true) : d.vrsWord p u t w = d.wr F.VRS_BANK_STAT_EXTRA 1 p u := by
  simp [Dev.vrsWord, hh, hb, hc]

theorem vrsWord_sound (hc : (d.vrsBack p u t).complete t = false) (hw : vrsWordOk t (d.vrsBack p u t).ptr w = true) :
    d.vrsWord p u t w = d.putBack p u t { d.vrsBack p u t with
      words := Tab.set 0 (d.vrsBack p u t).words (d.vrsBack p u t).ptr w, ptr := (d.vrsBack p u t).ptr + 1 } := by
  simp [Dev.vrsWord, hh, hb, hc, hw]

theorem vrsWord_unsound (hc : (d.vrsBack p u t).complete t = false) (hw : vrsWordOk t (d.vrsBack p u t).ptr w = false) :
    d.vrsWord p u t w = (d.putBack p u t { d.vrsBack p u t with bad := true }).raiseP p 40 (vrsSyn u (2 ^ t)) := by
  simp [Dev.vrsWord, hh, hb, hc, hw]

end

/-- Raising an event leaves the banks. -/
theorem raise_vrsBack (n syn : Nat) : (d.raise n syn).vrsBack p u t = d.vrsBack p u t :=
  vrsBack_congr (by rw [raise_vru]) (raise_rd _ _ _ _ _ _ _ (by decide))

/-- A sound word goes to the inactive bank; an unsound one makes it bad and is reported. -/
theorem tportWrite_answers {p : Pipe} {u : Fin 8} {t : Fin 5} {w : Word} (ha : s.awake) (hr : s.dev.reaches .VRS p = true)
    (hh : s.dev.on F.VRS_BANK_STAT_HELD p u = false) (hb : (s.dev.vrsBack p u t).bad = false)
    (hc : (s.dev.vrsBack p u t).complete t = false) : Does (.vrsTportWrite p u t w) s fun a =>
      (vrsWordOk t (s.dev.vrsBack p u t).ptr w.toNat = true → a.vrsBack p u t = { s.dev.vrsBack p u t with
        words := Tab.set 0 (s.dev.vrsBack p u t).words (s.dev.vrsBack p u t).ptr w.toNat, ptr := (s.dev.vrsBack p u t).ptr + 1 }) ∧
      (vrsWordOk t (s.dev.vrsBack p u t).ptr w.toNat = false → a.vrsBack p u t = { s.dev.vrsBack p u t with bad := true } ∧
        (s.dev.hub.lost = false → Raised a (pipeEvent p 40) (vrsSyn u (2 ^ t.val)))) := by
  refine does_of_bar2If_unsettled (ok := true) ha (fun _ h => h) rfl hr rfl ⟨fun hw => ?_, fun hw => ?_⟩
  · rw [vrsWord_sound hh hb hc hw, putBack_back]
  · rw [vrsWord_unsound hh hb hc hw]
    exact ⟨(raise_vrsBack _ _).trans putBack_back, fun hl => raised_of_raise (by rwa [putBack_hub]) _ _⟩

/-! ### Bank control (R297, R299, R302) -/

/-- While a job holds the context bank control is refused (R304). -/
theorem vrsUnheld_held {g : Dev → Dev} (hh : d.on F.VRS_BANK_STAT_HELD p u = true) :
    d.vrsUnheld p u g = d.wr F.VRS_BANK_STAT_REFUSED 1 p u := if_pos hh

theorem vrsUnheld_free {g : Dev → Dev} (hh : d.on F.VRS_BANK_STAT_HELD p u = false) : d.vrsUnheld p u g = g d := if_neg (by simp [hh])

theorem mem_tablesOf : t ∈ tablesOf mask ↔ t < 5 ∧ bit mask t = true := by simp [tablesOf, bitsOf]

theorem vrsRst_held (hm : mask ≠ 0) (hh : d.on F.VRS_BANK_STAT_HELD p u = true) : d.vrsRst p u mask = d.wr F.VRS_BANK_STAT_REFUSED 1 p u :=
  (if_neg hm).trans (vrsUnheld_held hh)

theorem vrsArm_held (hm : mask ≠ 0) (hh : d.on F.VRS_BANK_STAT_HELD p u = true) : d.vrsArm p u mask = d.wr F.VRS_BANK_STAT_REFUSED 1 p u :=
  (if_neg hm).trans (vrsUnheld_held hh)

/-- RST returns the pointers of the tables it names, and leaves the other banks. -/
theorem vrsRst_back (hm : mask ≠ 0) (hh : d.on F.VRS_BANK_STAT_HELD p u = false) (ht : t < 5) :
    (d.vrsRst p u mask).vrsBack p u t = if bit mask t then (d.vrsBack p u t).rst t else d.vrsBack p u t := by
  rw [Dev.vrsRst, if_neg hm, vrsUnheld_free hh]
  have other : ∀ {b : VrsTab} (e : Dev) (n : Nat), n ≠ t → e.vrsBack p u t = b →
      (e.putBack p u n ((e.vrsBack p u n).rst n)).vrsBack p u t = b := fun e n hn h => (putBack_back_ne hn.symm).trans h
  split_ifs with hb
  · exact foldl_turn (P := fun e => e.vrsBack p u t = d.vrsBack p u t) (Q := fun e => e.vrsBack p u t = (d.vrsBack p u t).rst t)
      (mem_tablesOf.2 ⟨ht, hb⟩) (List.nodup_range.filter _) (fun e n _ => other e n) (fun e h => putBack_back.trans (by rw [h]))
      (fun e n _ => other e n) rfl
  · refine foldl_keeps (P := fun e => e.vrsBack p u t = d.vrsBack p u t) _ (fun e n hn => other e n ?_) rfl
    rintro rfl
    exact hb (mem_tablesOf.1 hn).2

/-- ARM adds to the armed set, and a late swap is reported again. -/
theorem vrsArm_effect (hm : mask ≠ 0) (hh : d.on F.VRS_BANK_STAT_HELD p u = false) :
    (d.vrsArm p u mask).rd F.VRS_BANK_STAT_ARMED p u = Nat.lor (d.rd F.VRS_BANK_STAT_ARMED p u) mask % 2 ^ 5 ∧
      ((d.vrsArm p u mask).vru p u).lateSeen = false := by
  rw [Dev.vrsArm, if_neg hm, vrsUnheld_free hh]
  exact ⟨Dev.rd_wr .., by rw [putVru_vru]⟩

/-- Whether FORCE swaps: the unit stands at a seam, and all of a set that is not empty is complete. -/
def Dev.vrsForces (d : Dev) (p u : Nat) : Bool :=
  !(d.vru p u).moved && d.rd F.VRS_BANK_STAT_ARMED p u != 0 &&
    (tablesOf (d.rd F.VRS_BANK_STAT_ARMED p u)).all fun t => (d.vrsBack p u t).complete t

theorem vrsForce_eq (hh : d.on F.VRS_BANK_STAT_HELD p u = false) :
    d.vrsForce p u = if d.vrsForces p u then d.vrsSwapArmed p u else d := vrsUnheld_free hh

/-- A swap turns `ACTIVE` over for the tables armed, empties the armed set, and is reported with them. -/
theorem vrsSwapArmed_effect (d : Dev) (p u : Nat) : (d.vrsSwapArmed p u).rd F.VRS_BANK_STAT_ARMED p u = 0 ∧
    (d.vrsSwapArmed p u).rd F.VRS_BANK_STAT_ACTIVE p u =
      Nat.xor (d.rd F.VRS_BANK_STAT_ACTIVE p u) (d.rd F.VRS_BANK_STAT_ARMED p u) % 2 ^ 5 ∧
    (d.hub.lost = false → Raised (d.vrsSwapArmed p u) (pipeEvent p 38) (vrsSyn u (d.rd F.VRS_BANK_STAT_ARMED p u))) := by
  refine ⟨?_, ?_, fun hl => raised_of_raise (by rwa [vrsShow_hub]) _ _⟩
  · exact (raise_rd _ _ _ _ _ _ _ (by decide)).trans ((vrsShow_rd (by decide)).trans (Dev.rd_wr ..))
  · exact (raise_rd _ _ _ _ _ _ _ (by decide)).trans ((vrsShow_rd (by decide)).trans ((rd_wr_of_lo (by decide)).trans (Dev.rd_wr ..)))

theorem force_answers {p : Pipe} {u : Fin 8} (ha : s.awake) (hr : s.dev.reaches .VRS p = true) (hh : s.dev.on F.VRS_BANK_STAT_HELD p u = false)
    (hseam : (s.dev.vru p u).moved = false) (harmed : s.dev.rd F.VRS_BANK_STAT_ARMED p u ≠ 0)
    (hall : ∀ t ∈ tablesOf (s.dev.rd F.VRS_BANK_STAT_ARMED p u), (s.dev.vrsBack p u t).complete t = true) :
    Does (.vrsForce p u) s fun a => a.rd F.VRS_BANK_STAT_ARMED p u = 0 ∧
      a.rd F.VRS_BANK_STAT_ACTIVE p u = Nat.xor (s.dev.rd F.VRS_BANK_STAT_ACTIVE p u) (s.dev.rd F.VRS_BANK_STAT_ARMED p u) % 2 ^ 5 ∧
      (s.dev.hub.lost = false → Raised a (pipeEvent p 38) (vrsSyn u (s.dev.rd F.VRS_BANK_STAT_ARMED p u))) := by
  have hf : s.dev.vrsForces p u = true := by simp [Dev.vrsForces, hseam, harmed, List.all_eq_true.2 hall]
  refine does_of_bar2If_unsettled (ok := true) ha (fun _ h => h) rfl hr rfl ?_
  rw [vrsForce_eq hh, if_pos hf]
  exact vrsSwapArmed_effect ..

theorem force_idle {p : Pipe} {u : Fin 8} (ha : s.awake) (hr : s.dev.reaches .VRS p = true) (hh : s.dev.on F.VRS_BANK_STAT_HELD p u = false)
    (h : (s.dev.vru p u).moved = true ∨ s.dev.rd F.VRS_BANK_STAT_ARMED p u = 0 ∨
      ∃ t ∈ tablesOf (s.dev.rd F.VRS_BANK_STAT_ARMED p u), (s.dev.vrsBack p u t).complete t = false) :
    exec (.vrsForce p u) s = .next (s.after s.dev) := by
  refine exec_of_bar2If (ok := true) ha rfl hr rfl ((vrsForce_eq hh).trans (if_neg fun hf => ?_))
  simp only [Dev.vrsForces, Bool.and_eq_true, Bool.not_eq_true', bne_iff_ne, List.all_eq_true] at hf
  obtain ⟨⟨hseam, harmed⟩, hall⟩ := hf
  obtain hmoved | hempty | ⟨t, ht, hc⟩ := h
  · exact Bool.false_ne_true (hseam.symm.trans hmoved)
  · exact harmed hempty
  · exact Bool.false_ne_true (hc.symm.trans (hall t ht))

/-! ### Table reads (R308) -/

theorem vrsReadTab_reading (b : Bool) : (d.putVru p u { d.vru p u with reading := b }).vrsReadTab p u = d.vrsReadTab p u := by
  simp only [Dev.vrsReadTab, Dev.vrsBack, Dev.vrsTab, Dev.vrsActive, putVru_vru, putVru_rd, putVru_on]

/-- A write of `VRS_TRD_ADDR` shows the address, and no word until the read ends; a read is under way where the address is in contract. -/
theorem vrsTrd_shows (d : Dev) (p u w : Nat) : (d.vrsTrd p u w).on F.VRS_TRD_STAT_VALID p u = false ∧
    (d.vrsTrd p u w).on F.VRS_TRD_ADDR_BANK p u = bit w 31 ∧ (d.vrsTrd p u w).rd F.VRS_TRD_ADDR_TABLE p u = slice w 26 24 ∧
    (d.vrsTrd p u w).rd F.VRS_TRD_ADDR_WORD p u = slice w 19 0 ∧
    ((d.vrsTrd p u w).vru p u).reading = (decide (slice w 26 24 ≤ 4) &&
      decide (slice w 19 0 < ((d.vrsTrd p u w).vrsReadTab p u).length (slice w 26 24))) := by
  have addr : ∀ {f : Fld}, f ∈ RegId.VRS_TRD_ADDR.info.flds → f.acc = .rw → (d.vrsTrd p u w).rd f p u = slice w f.hi f.lo := fun {f} hf hrw => by
    rw [Dev.vrsTrd, putVru_rd, rd_wr_of_reg (by rw [reg_of_mem hf]; decide)]
    exact wrWord_rd_rw (l := ⟨.VRS_TRD_ADDR, p, u, 0⟩) hf (by rw [Fld.accAt, hrw])
  refine ⟨?_, ?_, addr (by decide) rfl, addr (by decide) rfl, ?_⟩
  · exact on_wrb (b := false) rfl
  · rw [Dev.on, addr (by decide) rfl]
    exact slice_eq_bit w 31
  · unfold Dev.vrsTrd
    extract_lets e n ok
    rw [vrsReadTab_reading, putVru_vru]

/-- The device that shows word `v` of a table in `VRS_TRD_DATA` and `VRS_TRD_STAT`, with what its check bits show. -/
def Dev.vrsTrdShow (d : Dev) (p u v : Nat) (flaw : Flaw) : Dev :=
  let d := d.putVru p u { d.vru p u with reading := false }
  (((d.wr F.VRS_TRD_DATA_DATA v p u).wr F.VRS_TRD_STAT_VALID 1 p u).wrb F.VRS_TRD_STAT_UNC (flaw == .multiple) p u).wrb
    F.VRS_TRD_STAT_CORR (flaw == .single) p u

/-- What the check bits of a table word show is counted. -/
def Dev.vrsTrdCount (d : Dev) (p : Nat) : Flaw → Dev
  | .ok => d
  | .single => d.bump C.VRS_CORR_CNT p
  | .multiple => d.bump C.VRS_UNC_CNT p

theorem vrsTrdShow_shows (d : Dev) (p u v : Nat) (flaw : Flaw) : (d.vrsTrdShow p u v flaw).rd F.VRS_TRD_DATA_DATA p u = v % 2 ^ 32 ∧
    (d.vrsTrdShow p u v flaw).on F.VRS_TRD_STAT_VALID p u = true ∧ (d.vrsTrdShow p u v flaw).on F.VRS_TRD_STAT_UNC p u = (flaw == .multiple) ∧
    (d.vrsTrdShow p u v flaw).on F.VRS_TRD_STAT_CORR p u = (flaw == .single) ∧ ((d.vrsTrdShow p u v flaw).vru p u).reading = false := by
  refine ⟨?_, ?_, ?_, on_wrb rfl, ?_⟩
  · exact (rd_wrb_of_reg (by decide)).trans ((rd_wrb_of_reg (by decide)).trans ((rd_wr_of_reg (by decide)).trans (Dev.rd_wr ..)))
  · exact (on_wrb_of_lo (by decide)).trans ((on_wrb_of_lo (by decide)).trans (on_wrb (b := true) rfl))
  · exact (on_wrb_of_lo (by decide)).trans (on_wrb rfl)
  · exact congrArg VrsUnit.reading putVru_vru

/-- The counters of a pipe's table words (R307). -/
def vrsCountRegs : List RegId := [.VRS_CORR_CNT_LO, .VRS_CORR_CNT_HI, .VRS_UNC_CNT_LO, .VRS_UNC_CNT_HI]

theorem vrsTrdCount_rd {q : Nat} (hf : f.reg ∉ vrsCountRegs) : (d.vrsTrdCount q flaw).rd f p i j = d.rd f p i j := by
  have count : ∀ {c : Cnt}, (∀ g ∈ [c.lo, c.hi, c.sat], g.reg ∈ vrsCountRegs) → (d.bump c q).rd f p i j = d.rd f p i j := fun h =>
    bumpBy_rd fun g hg e => hf (e ▸ h g hg)
  cases flaw with
  | ok => rfl
  | single => exact count (by decide)
  | multiple => exact count (by decide)

@[simp] theorem vrsTrdCount_vru {q : Nat} : (d.vrsTrdCount q flaw).vru p u = d.vru p u := by
  cases flaw with
  | ok => rfl
  | single => exact bump_vru ..
  | multiple => exact bump_vru ..

theorem exec_tableReadDone {p : Pipe} {u : Fin 8} (ha : s.awake) (h : (s.dev.vru p u).reading = true) : exec (.vrsTableReadDone p u flaw) s =
    .next (s.after ((s.dev.vrsTrdShow p u ((s.dev.vrsReadTab p u).word (s.dev.rd F.VRS_TRD_ADDR_TABLE p u)
      (s.dev.rd F.VRS_TRD_ADDR_WORD p u)) flaw).vrsTrdCount p flaw)) :=
  exec_of_run ha rfl ((if_pos h).trans (by cases flaw <;> rfl))

/-- The end of a read shows the word that `VRS_TRD_ADDR` names. -/
theorem tableReadDone_answers {p : Pipe} {u : Fin 8} (ha : s.awake) (h : (s.dev.vru p u).reading = true) :
    Does (.vrsTableReadDone p u flaw) s fun a => a.rd F.VRS_TRD_DATA_DATA p u =
        (s.dev.vrsReadTab p u).word (s.dev.rd F.VRS_TRD_ADDR_TABLE p u) (s.dev.rd F.VRS_TRD_ADDR_WORD p u) % 2 ^ 32 ∧
      a.on F.VRS_TRD_STAT_VALID p u = true ∧ a.on F.VRS_TRD_STAT_UNC p u = (flaw == .multiple) ∧
      a.on F.VRS_TRD_STAT_CORR p u = (flaw == .single) ∧ (a.vru p u).reading = false := by
  refine ⟨_, exec_tableReadDone ha h, ?_⟩
  simp (disch := decide) only [settle_rd, settle_vru, vrsTrdCount_vru, Dev.on, vrsTrdCount_rd]
  exact vrsTrdShow_shows ..

theorem tableReadDone_idle {p : Pipe} {u : Fin 8} (ha : s.awake) (h : (s.dev.vru p u).reading = false) :
    exec (.vrsTableReadDone p u flaw) s = .next (s.after s.dev) := exec_of_run ha rfl (if_neg (by simp [h]))

end Sys2Proof.Machine
end

section
/-!
Uploads (R296) and pixel pairs (R282 to R291, R307) of a Veraison unit, and the obligation about the units.
-/
namespace Sys2Proof.Machine

variable {P : Dev → Prop} {s : State} {d : Dev} {f : Fld} {flaw : Flaw} {p u v i j n c : Nat} {m : Bool}

/-! ### Uploads -/

/-- A word whose check bits are sound is delivered as it was stored. -/
theorem caskGet_ok {k : Nat} {w : CaskWord} {rest : List CaskWord} (hm : (d.cask p k).marker = false) (hw : (d.cask p k).words = w :: rest) :
    d.caskGet p k .ok = (.word w false, d.putCask p k ((d.cask p k).pop (d.caskDepth p k) w rest)) := by
  cases hp : w.psn <;> simp [Dev.caskGet, hm, hw, hp, Cask.pop]

/-- A word that ends its item ends the selection, whatever its halves did. -/
theorem vrsUpload_last {w : CaskWord} {more : Bool} (hw : w.fin = true) : ∃ e : Dev, (∀ {P : Dev → Prop}, VrsKeeps P → P d → P e) ∧
    d.vrsUpload p u (.word w more) = e.putVru p u { e.vru p u with inItem := false, sel := none } := by
  simp only [Dev.vrsUpload, hw, Bool.true_or, Bool.true_and, if_true]
  refine ⟨_, fun k h => ?_, rfl⟩
  split_ifs
  · exact k.up h _
  · exact k.up (k.up h _) _

/-- A word that ends its item leaves the cask, and the selection ends. -/
theorem vrsDrain_last {k : Nat} {w : CaskWord} {rest : List CaskWord} (hm : (d.cask p k).marker = false)
    (hw : (d.cask p k).words = w :: rest) (hf : w.fin = true) (n : Nat) :
    ((Dev.vrsDrain p u k (n + 1) d).cask p k).words = rest ∧ ((Dev.vrsDrain p u k (n + 1) d).vru p u).inItem = false ∧
      ((Dev.vrsDrain p u k (n + 1) d).vru p u).sel = none := by
  obtain ⟨e, hkeeps, he⟩ :=
    vrsUpload_last (d := d.putCask p k ((d.cask p k).pop (d.caskDepth p k) w rest)) (p := p) (u := u) (more := false) hf
  have hdrain : Dev.vrsDrain p u k (n + 1) d = e.putVru p u { e.vru p u with inItem := false, sel := none } := by
    rw [← he, Dev.vrsDrain, caskGet_ok hm hw]
    simp [hf]
  rw [hdrain, putVru_vru, (vrsKeeps_cask _).putVru (hkeeps (vrsKeeps_cask _) (putCask_cask ..)) p u _]
  exact ⟨rfl, rfl, rfl⟩

/-! ### What flows, and where a unit stands in its frame -/

theorem cnt_congr {e : Dev} {c : Cnt} (hlo : e.rd c.lo p i j = d.rd c.lo p i j) (hhi : e.rd c.hi p i j = d.rd c.hi p i j) :
    e.cnt c p i j = d.cnt c p i j := by rw [Dev.cnt, hlo, hhi, Dev.cnt]

/-- Unit `u` of pipe `p` stands inside a frame or at a seam, `n` pairs of the line have passed it, and the pipe has counted `c` uncorrectable
table words. -/
def VrsAt (p u : Nat) (m : Bool) (n c : Nat) (d : Dev) : Prop :=
  (d.vru p u).moved = m ∧ (d.vru p u).pairs = n ∧ d.cnt C.VRS_UNC_CNT p = c

/-- It is the unit's record and the two registers of the counter that say so. -/
theorem VrsAt.of_same {e : Dev} (h : VrsAt p u m n c d) (hu : e.vru p u = d.vru p u)
    (hrd : ∀ f : Fld, f.reg = .VRS_UNC_CNT_LO ∨ f.reg = .VRS_UNC_CNT_HI → e.rd f p = d.rd f p) : VrsAt p u m n c e := by
  rw [VrsAt, hu, cnt_congr (hrd _ (.inl rfl)) (hrd _ (.inr rfl))]
  exact h

namespace VrsAt

theorem wr {q : Nat} (h : VrsAt p u m n c d) (hf : f.reg ≠ .VRS_UNC_CNT_LO ∧ f.reg ≠ .VRS_UNC_CNT_HI) : VrsAt p u m n c (d.wr f v q i j) := by
  obtain ⟨hlo, hhi⟩ := hf
  exact h.of_same rfl fun g hg => rd_wr_of_reg fun e => hg.elim (fun h => hlo (e ▸ h)) fun h => hhi (e ▸ h)

theorem raise (h : VrsAt p u m n c d) (e syn : Nat) : VrsAt p u m n c (d.raise e syn) :=
  h.of_same (raise_vru ..) fun g hg => raise_rd _ _ _ _ _ _ _ fun e => by rw [e] at hg; exact absurd hg (by decide)

theorem updPipe {q : Nat} {g : PipeSt → PipeSt} (h : VrsAt p u m n c d) (hg : ∀ x, (g x).vrs = x.vrs) : VrsAt p u m n c (d.updPipe q g) :=
  h.of_same (updPipe_part (fun x : PipeSt => Tab.get ({} : VrsUnit) x.vrs u) (fun x => by rw [hg x]) d q p) fun _ _ => rfl

/-- Only a unit itself moves in its frame: no token that flows does. -/
theorem flowKeeps : FlowKeeps p (VrsAt p u m n c) := by
  refine ⟨⟨fun hf h => h.wr (by rw [hf]; decide), fun _ h => h, fun _ h => h.updPipe fun _ => rfl⟩, fun hf h => h.wr ?_,
    fun e syn h => h.raise e syn, fun _ h => h.updPipe fun _ => rfl⟩
  have apart : ∀ r ∈ trlCountRegs, r ≠ .VRS_UNC_CNT_LO ∧ r ≠ .VRS_UNC_CNT_HI := by decide
  exact apart _ hf

theorem putVru {y : VrsUnit} {m' : Bool} {n' : Nat} (h : VrsAt p u m n c d) (hm : y.moved = m') (hn : y.pairs = n') :
    VrsAt p u m' n' c (d.putVru p u y) := by
  obtain ⟨-, -, hc⟩ := h
  exact ⟨by rwa [putVru_vru], by rwa [putVru_vru], hc⟩

theorem bump {k : Cnt} {q : Nat} (h : VrsAt p u m n c d)
    (hk : ∀ g ∈ [k.lo, k.hi, k.sat], g.reg ≠ .VRS_UNC_CNT_LO ∧ g.reg ≠ .VRS_UNC_CNT_HI) : VrsAt p u m n c (d.bump k q i j) :=
  bumpBy_keeps (fun {_ g _} hg h => h.wr (hk g hg)) h

end VrsAt

/-! ### A pixel pair -/

/-- What the check bits of the table words that a pair is read through show: counted, and an uncorrectable one reported once in a frame (R307). -/
def Dev.vrsCheck (d : Dev) (p u : Nat) : Flaw → Dev
  | .ok => d
  | .single => d.bump C.VRS_CORR_CNT p
  | .multiple =>
    let d := d.bump C.VRS_UNC_CNT p
    if (d.vru p u).psnSeen then d else (d.putVru p u { d.vru p u with psnSeen := true }).raiseP p 41 (vrsSyn u 0)

/-- A pair that a unit with one input takes is checked and cropped, passes the seam at the end of its frame, and moves on. -/
theorem vrsPair_form {r : Root} {tok : Token} (hen : d.on F.VRS_CFG_EN p u = true) (hroom : d.vrsRoom p u = true)
    (hin2 : d.on F.VRS_CFG_IN2 p u = false) (ho : d.offered p (.vrs (u / 2) (2 * (u % 2))) = some (r, tok)) :
    ∃ (e : Dev) (w : Nat × Nat) (g : Flags), e = d.accept p (.vrs (u / 2) (2 * (u % 2))) ∧ g.eol = tok.flags.eol ∧
      d.vrsPair p u flaw = ((((e.putVru p u { e.vru p u with moved := true }).vrsCheck p u flaw).vrsCrop p u w g).when tok.flags.eof
        fun d => d.vrsSeam p u).flow p := by
  simp only [Dev.vrsPair, hen, hroom, hin2, ho, Bool.not_true, Bool.false_eq_true, if_false, Bool.false_and, Bool.or_false]
  cases flaw with
  | ok => exact ⟨_, _, tok.flags, rfl, rfl, rfl⟩
  | single => exact ⟨_, _, tok.flags, rfl, rfl, rfl⟩
  | multiple => exact ⟨_, (0, 0), { tok.flags with psn := true }, rfl, rfl, rfl⟩

/-- An output pair passes the crop (R290): the unit counts it, and what it emits flows. -/
theorem vrsCrop_keeps {w : Nat × Nat} {g : Flags} (k : FlowKeeps p P) (h : ∀ hold, P (d.putVru p u { d.vru p u with
    hold := hold, pairs := if g.eol then 0 else (d.vru p u).pairs + 1 })) : P (d.vrsCrop p u w g) := by
  unfold Dev.vrsCrop
  extract_lets l r y pair hold kept d₁
  have h₁ : P d₁ := h _
  have emit : ∀ x, P (d₁.vrsEmit p u x) := fun x => by
    unfold Dev.vrsEmit
    dsimp only
    split_ifs
    · exact k.emit (k.emit h₁ _ _) _ _
    · exact k.emit h₁ _ _
  clear_value d₁ kept hold
  split
  · cases hold with
    | nil => exact h₁
    | cons x xs =>
      dsimp only
      split_ifs
      · exact emit _
      · exact emit _
  · split_ifs
    · exact emit _
    · exact h₁

namespace VrsAt

theorem check (h : VrsAt p u m n c d) : VrsAt p u m n (if flaw = .multiple then min (2 ^ 48 - 1) (c + 1) else c) (d.vrsCheck p u flaw) := by
  obtain ⟨hm, hn, hc⟩ := id h
  cases flaw with
  | ok => exact h
  | single => exact h.bump (by decide)
  | multiple =>
    have hb : VrsAt p u m n (min (2 ^ 48 - 1) (c + 1)) (d.bump C.VRS_UNC_CNT p) :=
      ⟨by rwa [bump_vru], by rwa [bump_vru], by rw [← hc]; exact bumpBy_cnt (by decide) rfl rfl d 1 p 0 0⟩
    rw [if_pos rfl, Dev.vrsCheck]
    split_ifs
    · exact hb
    · exact (hb.putVru (by rwa [bump_vru]) (by rwa [bump_vru])).raise _ _

theorem crop {w : Nat × Nat} {g : Flags} (h : VrsAt p u m n c d) : VrsAt p u m (if g.eol then 0 else n + 1) c (d.vrsCrop p u w g) := by
  obtain ⟨hm, hn, -⟩ := id h
  exact vrsCrop_keeps flowKeeps fun _ => h.putVru hm (by rw [hn])

theorem bank (h : VrsAt p u m n c d) (hf : f.reg = .VRS_BANK_STAT) : VrsAt p u m n c (d.wr f v i j) := h.wr (by rw [hf]; decide)

theorem shown (h : VrsAt p u m n c d) : VrsAt p u m n c (d.vrsShow p u) := (h.bank rfl).bank rfl

theorem swapArmed (h : VrsAt p u m n c d) : VrsAt p u m n c (d.vrsSwapArmed p u) := ((h.bank rfl).bank rfl).shown.raise _ _

/-- After a seam the unit stands at one (R299). -/
theorem seam (h : VrsAt p u m n c d) : VrsAt p u false n c (d.vrsSeam p u) := by
  obtain ⟨-, hn, -⟩ := id h
  unfold Dev.vrsSeam
  extract_lets a y d₁ d₂
  have h₁ : VrsAt p u false n c d₁ := h.putVru rfl hn
  have h₂ : VrsAt p u false n c d₂ := h₁.bump (by decide)
  split_ifs
  · exact h₁
  · exact (h₁.bank rfl).raise _ _
  · exact h₁.swapArmed
  · exact h₂
  · obtain ⟨hm₂, hn₂, -⟩ := id h₂
    exact (h₂.putVru (y := { d₂.vru p u with lateSeen := true }) hm₂ hn₂).raise _ _

end VrsAt

/-- A pair that a unit takes: at its frame's end the unit stands at a seam. -/
theorem pixelPair_answers {p : Pipe} {u : Fin 8} {r : Root} {tok : Token} (ha : s.awake) (hen : s.dev.on F.VRS_CFG_EN p u = true)
    (hroom : s.dev.vrsRoom p u = true) (hin2 : s.dev.on F.VRS_CFG_IN2 p u = false)
    (ho : s.dev.offered p (.vrs (u / 2) (2 * (u % 2))) = some (r, tok)) : Does (.vrsPixelPair p u flaw) s fun t =>
      (t.vru p u).moved = !tok.flags.eof ∧ (t.vru p u).pairs = (if tok.flags.eol then 0 else (s.dev.vru p u).pairs + 1) ∧
        t.cnt C.VRS_UNC_CNT p = (if flaw = .multiple then min (2 ^ 48 - 1) (s.dev.cnt C.VRS_UNC_CNT p + 1) else s.dev.cnt C.VRS_UNC_CNT p) := by
  refine does_of_run_unsettled ha (fun _ h => h) rfl ?_
  obtain ⟨e, w, g, he, heol, hpair⟩ := vrsPair_form (flaw := flaw) hen hroom hin2 ho
  have h₀ : VrsAt p u (s.dev.vru p u).moved (s.dev.vru p u).pairs (s.dev.cnt C.VRS_UNC_CNT p) s.dev := ⟨rfl, rfl, rfl⟩
  have h₁ : VrsAt p u (s.dev.vru p u).moved (s.dev.vru p u).pairs (s.dev.cnt C.VRS_UNC_CNT p) e := he ▸ VrsAt.flowKeeps.accept h₀ _
  obtain ⟨-, hn, -⟩ := id h₁
  have h₂ := ((h₁.putVru (y := { e.vru p u with moved := true }) rfl hn).check (flaw := flaw)).crop (w := w) (g := g)
  rw [hpair, ← heol]
  refine VrsAt.flowKeeps.flow ?_
  cases heof : tok.flags.eof with
  | true => exact h₂.seam
  | false => exact h₂

/-- Settles O26: each command of a Veraison unit does what its operation above leaves, by the state of its bank, its unit or its cask. -/
theorem veraison : Obligations.Veraison := by
  unfold Obligations.Veraison
  intro s p u ha
  refine ⟨fun flaw hen hroom => exec_of_run ha rfl ?_, fun flaw r tok hen hroom hin2 ho _ => pixelPair_answers ha hen hroom hin2 ho,
    fun flaw hen => exec_of_run ha rfl (if_pos (by rw [hen]; rfl)), fun k hk => exec_of_run ha rfl (if_neg hk),
    fun k w rest hk hm hw hf => ?_, fun hr => ⟨fun t w hh => ?_, fun t w hh hb => ?_, fun t w hh hb hc => ?_,
      fun t w hh hb hc => tportWrite_answers ha hr hh hb hc, fun mask hm hh => ⟨?_, ?_⟩, ⟨?_, ?_⟩, fun mask hm hh => ?_, fun mask hm hh => ?_,
      ?_, force_answers ha hr, force_idle ha hr, fun w => ?_⟩, fun flaw => tableReadDone_answers ha, fun flaw => tableReadDone_idle ha⟩
  · simp [Dev.vrsPair, hen, hroom]
  · refine does_of_run_unsettled ha (fun _ h => h) rfl ?_
    rw [if_pos hk]
    exact vrsDrain_last hm hw hf _
  · exact exec_of_bar2If (ok := true) ha rfl hr rfl (vrsWord_held hh)
  · exact exec_of_bar2If (ok := true) ha rfl hr rfl (vrsWord_bad hh hb)
  · exact exec_of_bar2If (ok := true) ha rfl hr rfl (vrsWord_extra hh hb hc)
  · exact exec_of_bar2If (ok := true) ha rfl hr rfl (vrsRst_held (BitVec.toNat_ne_iff_ne.2 hm) hh)
  · exact exec_of_bar2If (ok := true) ha rfl hr rfl (vrsArm_held (BitVec.toNat_ne_iff_ne.2 hm) hh)
  · exact exec_of_bar2If (ok := true) ha rfl hr rfl (if_pos rfl)
  · exact exec_of_bar2If (ok := true) ha rfl hr rfl (if_pos rfl)
  · exact does_of_bar2If_unsettled (ok := true) ha (fun _ h => h) rfl hr rfl fun t => vrsRst_back (BitVec.toNat_ne_iff_ne.2 hm) hh t.isLt
  · exact does_of_bar2If_unsettled (ok := true) ha (fun _ h => h) rfl hr rfl (vrsArm_effect (BitVec.toNat_ne_iff_ne.2 hm) hh)
  · exact exec_of_bar2If (ok := true) ha rfl hr rfl rfl
  · exact does_of_bar2If_unsettled (ok := true) ha (fun _ h => h) rfl hr rfl (vrsTrd_shows ..)

end Sys2Proof.Machine
end
